-- ==== Sys2Proof/Word.lean ====
section
/-!
DEFINITION. Word.lean: the bit-vector types of the L9 and the plainest operations on byte strings.
Little-endian fields follow R9; hash values are byte strings kept whole as bit vectors.
-/
namespace Sys2Proof

/-- One byte. -/
abbrev Byte := BitVec 8
/-- A 32-bit word: register words, Delpin code words, Delpin PC. -/
abbrev W32 := BitVec 32
/-- A 64-bit word: Delpin address registers, bus addresses, sequence numbers. -/
abbrev W64 := BitVec 64
/-- A 128-bit word: a cipher block, a vector register of a cipher tile. -/
abbrev W128 := BitVec 128
/-- A SHA-384 value. -/
abbrev Hash := BitVec 384
/-- A byte string, first byte at the lowest address (R9). -/
abbrev Bytes := List Byte

end Sys2Proof
end

