-- ==== Sys2Proof/Syntax.lean ====
section
/-!
DEFINITION. Syntax.lean: the commands of the L9, one constructor of `Instr` for each row of spec/opcode_table.json, with the
operands the row's rules name. What the physical world decides (a reading, whether a training or a programming succeeds,
the bytes host memory returns) stands in the command as an operand.
-/
namespace Sys2Proof

/-- The fuse bits as one read gives them (R46, R62, R66). `repair` holds one bit for each of the 364 parts of classes
1–4 (R95): public-key tiles, cipher tiles, dispatch cores, pseudo-channels, in that order by unit and index; `spares` the index of each
stack's spare pseudo-channel in five bits, stack 0 lowest (HBMC_STATUS.SPARE_PC). -/
structure FuseBits where
  life : BitVec 14
  arb : List W128            -- ARB0–ARB7
  evidence : BitVec 256
  vendorHash : Hash
  owner0 : Hash
  owner1 : Hash
  srcdis : BitVec 16
  debugOff : Bool
  part : Bool
  stepping : Byte
  trim : W64
  repair : BitVec 364
  spares : BitVec 20
  deriving DecidableEq, Repr

/-- What the Gecko leg meets (R44–R46): the bits that the first, the second and the third read of the fuses misread, the 4,096 raw bits of each
noise source's start-up test (R264), the boot ROM's known-answer test, detectors that fail their self-test at step 2 (R476). -/
structure PowerGood where
  miss1 : FuseBits
  miss2 : FuseBits
  miss3 : FuseBits
  noise0 : BitVec 4096
  noise1 : BitVec 4096
  kat : Bool
  monFail : BitVec 16
  deriving DecidableEq, Repr

/-- What host leg steps 1–2 meet: whether configuration flash can be read, the level VDDIO_HF measures (R593), the SFDP bytes each host flash
device answers (R275), whether a ledger record persists (R302). -/
structure HostLegIn where
  cfgOk : Bool
  vddio : Nat
  sfdp : List Bytes
  ledgerOk : Bool
  deriving DecidableEq, Repr

/-- What the Landau leg meets (R51): the regulator's transactions succeed and it reports ULINEAR16 (R526, R527); the power-good inputs come
within their bounds (R588); the 25 MHz reference (R597); drawbar training; HBM training of each stack; the tiles (class 1 or 2, unit, index)
that fail their self-test, T10's self-test (R219, R256, R476); whether STRUCT is left to be written row by row after step 2; what firmware
loads into instruction SRAM, by group × 2^18 + offset (R369); whether a ledger record persists (R302). -/
structure LandauIn where
  vid : Bool
  ulinear : Bool
  pgH : Bool
  pgL : Bool
  pgPE : Bool
  ref25 : Bool
  drawbar : Bool
  byRows : Bool
  code : List (Nat × Bytes)
  hbm : List Bool
  badParts : List (Nat × Nat × Nat)
  t10Ok : Bool
  ledgerOk : Bool
  deriving DecidableEq, Repr

/-- Why a device reset is made (R55, R60). -/
inductive ResetCause where
  | request (key : BitVec 16)     -- SYSCTL_RESET kind 1, with its KEY
  | fault | tamper | coreStop | debug | lifecycle
  deriving DecidableEq, Repr

/-- A report to the fault collector (R479): code, unit, part; whether its parity and sequence number hold (R481); the row
of an HBM error (R495); whether the drawbar works (R482). -/
structure Report where
  code : Nat
  unit : Nat
  part : Nat
  good : Bool
  row : Nat
  deriving DecidableEq, Repr

/-- A working line that comes back wrong from HBM after its error correction (R163, R164): stack, line, and when, in µs. -/
structure MemFail where
  stack : Nat
  line : Nat
  at_ : Nat
  deriving DecidableEq, Repr

/-- How a command runs: its tag; the bytes its input buffer holds (none: the read fails); the tile the dispatch core picks
(cluster, tile, context slot), and the cipher/hash tile of a route on two tiles (R605); whether a fault makes the route's own check fail (R207, R609);
uncorrectable errors of the fixed-base SRAM met (R203); failing HBM lines. -/
structure Run where
  tag : Nat
  input : Option Bytes
  unit : Nat
  tile : Nat
  slot : Nat
  unit2 : Nat
  tile2 : Nat
  check : Bool
  sramCorr : Nat
  sramUncorr : Bool
  fails : List MemFail
  deriving DecidableEq, Repr

/-- A step on a public-key tile (R90, R193): cluster, tile and the operand fields A, B and C. -/
structure PkeStep where
  unit : Fin 16
  tile : Fin 9
  a : BitVec 12
  b : BitVec 12
  c : BitVec 12
  deriving DecidableEq, Repr

/-- A step on a cipher tile (R90, R228): cluster, tile, context slot and the operand fields A, B and C. -/
structure CipStep where
  unit : Fin 8
  tile : Fin 9
  slot : Fin 2
  a : BitVec 12
  b : BitVec 12
  c : BitVec 12
  deriving DecidableEq, Repr

/-- A write of n bytes; `ide`: its TLP comes on the IDE stream (R106, R140). -/
structure RegWr where
  n : Nat
  v : W64
  ide : Bool
  deriving DecidableEq, Repr

/-- A write of a doorbell, on the IDE stream or not (R110, R140). -/
structure DoorbellWr where
  v : W32
  ide : Bool
  deriving DecidableEq, Repr

/-- A write of a function's ADMIN_CTRL, on the IDE stream or not (R107, R140). -/
structure AdminWr where
  fn : Nat
  ide : Bool
  deriving DecidableEq, Repr

/-- An admin command with output, and whether its output is written (R133). -/
structure TagOut where
  tag : Nat
  outOk : Bool
  deriving DecidableEq, Repr

/-- What happens at an END: a read of an object that an import replaces fails; the output is written (R133, R187). -/
structure EndOut where
  memFail : Bool
  outOk : Bool
  deriving DecidableEq, Repr

/-- A route and how long it has run, in ns (R493). -/
structure LateRoute where
  tag : Nat
  ran : Nat
  deriving DecidableEq, Repr

/-- A public-key tile; a context slot of a cipher tile. -/
structure PkeAt where
  unit : Fin 16
  tile : Fin 9
  deriving DecidableEq, Repr
structure CipAt where
  unit : Fin 8
  tile : Fin 9
  slot : Fin 2
  deriving DecidableEq, Repr

/-- What a measurement pass reads (R278): the bytes of each region's primary and recovery range, none a read the device does not complete; the
aggregate rate; whether the record that follows can be programmed (R302). -/
structure PassEnd where
  prim : List (Option Bytes)
  rcv : List (Option Bytes)
  mbps : BitVec 16
  ledgerOk : Bool
  deriving DecidableEq, Repr

/-- The algorithms a NEGOTIATE_ALGORITHMS request offers, as DSP0274 codes them: the measurement specification, BaseAsymAlgo, BaseHashAlgo, and the
AlgSupported of the DHE and AEAD structures (R306; log entry 31). -/
structure SpdmOffer where
  meas : Nat
  asym : Nat
  hash : Nat
  dhe : Nat
  aead : Nat
  deriving DecidableEq, Repr

/-- A host flash transaction (R283–R285): device, first byte, address, erase block in bytes; whether undriven or differing activity is
seen on the flash side. -/
structure HostTrans where
  device : Fin 2
  opcode : Byte
  addr : W32
  block : Nat
  intrusion : Bool
  deriving DecidableEq, Repr

/-- A card in the ledger port (R545): CID, capacity in 512-byte blocks, its password when one is set, whether it reports CQ, whether it
accepts 1.8 V, and its blocks that are not zero. -/
structure SdCard where
  cid : Bytes
  cap : Nat
  pwd : Option Bytes
  cq : Bool
  s18 : Bool
  blocks : List (Nat × Bytes)
  deriving DecidableEq, Repr

/-- A write of FLASHC_CMD (R439, R445): its KEY and where the writing instruction was fetched: bank 0, bank 1 or neither. -/
structure FlashWr where
  key : BitVec 16
  fetch : Fin 3
  deriving DecidableEq, Repr

/-- How a flash operation ends: whether a line or sector failed to verify; the correction counts that lines (warden address / 32) were
found or left with, 7 uncorrectable. -/
structure FlashEnd where
  bad : Bool
  counts : List (Nat × Fin 8)
  deriving DecidableEq, Repr

/-- How a command of a contact port ends (R532, R534): ERR, the class (1 A, 2 B, 3 C), whether T=1, Fi and Di as CARDn_PROTO gives them, the
status word and the response data. -/
structure CardEnd where
  err : Fin 16
  cls : Fin 4
  t1 : Bool
  fi : Fin 2
  di : Fin 16
  sw : BitVec 16
  data : Bytes
  deriving DecidableEq, Repr

/-- How a command of the ledger card port ends (R548): ERR, and the blocks whose transfer ended. -/
structure SdEnd where
  err : Fin 16
  done : Nat
  deriving DecidableEq, Repr

/-- The form of a tag request (R553, R567): the UID of an addressed one, the Select flag, the subcarrier flag; `late` that its answer could
not begin within t1. -/
structure TagReq where
  uid : Option (BitVec 64)
  sel : Bool
  sub : Bool
  late : Bool
  deriving DecidableEq, Repr

/-- What meets a field write (R565, R566): the voltage measured, whether the store covers every line; the line during whose program the
field collapses, after the last line when none is torn; a line that fails to verify. -/
structure TagWr where
  mv : BitVec 12
  enough : Bool
  cut : Option Nat
  bad : Option Nat
  deriving DecidableEq, Repr

/-! ## Sideband and debug (22) -/

/-- An MCTP packet to the L9 (R571): source endpoint, start and end of message, sequence number, tag owner bit, tag, payload, whether its packet
error code is right (R570). -/
structure MctpPkt where
  src : BitVec 8
  som : Bool
  eom : Bool
  seq : Fin 4
  own : Bool
  tag : Fin 8
  payload : Bytes
  pec : Bool
  deriving DecidableEq, Repr

/-- What DBGMBOX reaches (R581): a nonce word read, a token word written. -/
inductive MboxAcc where
  | readNonce (n : Fin 8)
  | writeToken (n : Fin 80) (v : W32)
  deriving DecidableEq, Repr

/-- A Delpin core: warden cores A and B, dispatch cores 0–19 (R394). -/
inductive CoreId where
  | a
  | b
  | d (i : Fin 20)
  deriving DecidableEq, Repr

/-- An operand specifier with its extension words (R355, R356, R358); a mode without extension words has none of `ext`. -/
structure OpSpec where
  mode : BitVec 4
  reg : Fin 8
  seg : Fin 16
  d21 : BitVec 21
  ext : W64
  deriving DecidableEq, Repr

/-- A long instruction as a core runs it at its PC (R353): the fields of the head beside OPCODE, its specifiers; failing HBM lines that
its reads meet. -/
structure LongInsn where
  core : CoreId
  size : BitVec 2
  cond : BitVec 4
  imm16 : BitVec 16
  specs : List OpSpec
  fails : List MemFail
  deriving DecidableEq, Repr

/-- A short operation of a paired word (R349). -/
structure ShortOp where
  op : BitVec 5
  a : Fin 8
  b : Fin 8
  size : BitVec 2
  inc : BitVec 2
  deriving DecidableEq, Repr

/-- Which NOP is meant: the admin command of a tag, or the long Delpin instruction of a core (R131, R372). -/
inductive NopForm where
  | admin (tag : Nat)
  | delpin (i : LongInsn)
  deriving DecidableEq, Repr

/-- The commands. -/
inductive Instr where
  /-- MAIN_POWER_GOOD: The power sequencer declares main power good and starts the Gecko leg of bring-up. (R42) -/
  | mainPowerGood (p : PowerGood)
  /-- MAIN_POWER_GOOD_WITHDRAWN: A Gecko supply leaves its window or BOARD_PWROK falls, so main power good is withdrawn and bring-up or service ends. (R42) -/
  | mainPowerGoodWithdrawn
  /-- CELL_POWER_ON: A supply returns while neither VBAT nor main power was present; the cell domain resets and has no battery key. (R55) -/
  | cellPowerOn (vbat main : Bool)
  /-- HOST_LEG: Sealed firmware reads and verifies the Kygus image, loads the measurement map and starts host measurement. (R48) -/
  | hostLeg (h : HostLegIn)
  /-- LANDAU_LEG: Sealed firmware requests the Landau rails, trains the drawbar, builds STRUCT, trains HBM, initialises MCRYPT and starts the Open world. (R51) -/
  | landauLeg (l : LandauIn)
  /-- SYSCTL_RELEASE_OPEN: A write of SYSCTL_RELEASE.OPEN releases the Open world, enables fetching and ends retry status. (R69) -/
  | sysctlReleaseOpen (v : W32) (ledgerOk : Bool)
  /-- DEVICE_RESET: A device reset re-runs bring-up without removing power and without holding an already released host. (R56) -/
  | deviceReset (c : ResetCause)
  /-- LANDAU_REBUILD: A Landau rebuild discards Landau, HBM contents and drawbar keys and runs the Landau leg again. (R55) -/
  | landauRebuild
  /-- PCIE_FUNDAMENTAL_RESET: PE_PERST_N low resets the PHY, controller and queue state and abandons commands in flight. (R57) -/
  | pcieFundamentalReset
  /-- PE_PERST_N_RISE: PE_PERST_N rises while the PHY is powered and link training starts. (R53) -/
  | pePerstNRise
  /-- LINK_TRAINED: The link reaches the data link layer active state and answers configuration requests with retry status until release. (R53) -/
  | linkTrained (width speed ltssm : Nat)
  /-- FUSE_PROGRAM: A write to FUSE_PROG_CTRL starts programming one fuse bit or is refused. (R71) -/
  | fuseProgram (v : W32)
  /-- FUSE_PROGRAM_DONE: A fuse programming request ends, clearing BUSY and setting DONE or REFUSED. (R71) -/
  | fuseProgramDone
  /-- REGISTER_WRITE: A write to a register with no row of its own takes effect as its access code says. (R10) -/
  | registerWrite (blk off : Nat) (p : RegWr)
  /-- PACE_WINDOW: Every 10 µs the L9 counts the reference loops, computes each domain's pace and publishes the minimum. (R20) -/
  | paceWindow (counts : List (Nat × Nat))
  /-- MODE_CHANGE: A PWRARB_MODE write with GO requests a mode change, which stops route starts if accepted. (R525) -/
  | modeChange (v : W32)
  /-- MODE_CHANGE_ROUTES_FINISHED: Once every started route has finished, the L9 moves VDD_L, retrains HBM, switches tiles and resumes under the new mode. (R28) -/
  | modeChangeRoutesFinished (mv : BitVec 10) (phyFail : Option (Fin 4))
  /-- STRUCT_BEGIN: STRUCT_CTRL command BEGIN moves STRUCT to LOADING. (R92) -/
  | structBegin (key : BitVec 16)
  /-- STRUCT_SEL_WRITE: A write to STRUCT_SEL selects the section being loaded and resets the data offset. (R92) -/
  | structSelWrite (v : W32)
  /-- STRUCT_DATA_WRITE: A write to STRUCT_DATA loads the next word of the selected section. (R92) -/
  | structDataWrite (v : W32)
  /-- STRUCT_COMMIT: STRUCT_CTRL command COMMIT starts the structure checks. (R92) -/
  | structCommit (key : BitVec 16)
  /-- STRUCT_ABANDON: STRUCT_CTRL command ABANDON returns STRUCT from LOADING to EMPTY. (R92) -/
  | structAbandon (key : BitVec 16)
  /-- STRUCT_CHECK_END: The structure checks end and STATE becomes BUILT or FAILED with STRUCT_ERROR set. (R92) -/
  | structCheckEnd (ledgerOk : Bool)
  /-- AMEND_COMMIT: STRUCT_CTRL command AMEND_COMMIT starts checking and applying the amendment in STRUCT_AMEND. (R97) -/
  | amendCommit (key : BitVec 16)
  /-- AMEND_CHECK_END: The amendment check ends, bringing the spare into service or setting STRUCT_ERROR. (R97) -/
  | amendCheckEnd
  /-- STRUCT_DRAIN: A write of STRUCT_DRAIN with GO stops route starts on the named part. (R97) -/
  | structDrain (v : W32)
  /-- DRAIN_DONE: The last route on a drained part ends and DONE is set. (R97) -/
  | drainDone
  /-- DRAIN_TIMEOUT: After 1 ms a route still running on a drained part is cut and restarted elsewhere, and CUT is set. (R98) -/
  | drainTimeout (tag unit tile : Nat)
  /-- SQ_TAIL_DOORBELL: A write to an SQ tail doorbell announces entries, and the queue manager issues their read within 200 ns. (R112) -/
  | sqTailDoorbell (fn qid : Nat) (p : DoorbellWr)
  /-- CQ_HEAD_DOORBELL: A write to a CQ head doorbell frees completion entries. (R110) -/
  | cqHeadDoorbell (fn qid : Nat) (p : DoorbellWr)
  /-- SQ_ENTRY_FETCH: A fetched submission entry passes queue checks 1–4, gets a tag and enters the duplicate window. (R121) -/
  | sqEntryFetch (fn qid tag : Nat) (entry : Option Bytes)
  /-- COMMAND_HANDOFF: The queue manager hands a waiting command to a dispatch core once fence, tokens, tiles and marks allow. (R119) -/
  | commandHandoff (tag core : Nat)
  /-- ROUTE_END: A route's END step sets the status from its flags, applies effects and delivers result and status to the queue manager. (R196) -/
  | routeEnd (tag : Nat) (ledgerOk : Bool) (p : EndOut)
  /-- COMPLETION_POST: The queue manager writes output and a completion entry once the CQ has room, and frees the tag. (R113) -/
  | completionPost (tag : Nat) (writeOk : Bool)
  /-- INTERRUPT_COALESCE_TIMER: COAL_TIME µs after the oldest unsignalled completion, the CQ's vector is signalled. (R117) -/
  | interruptCoalesceTimer (fn qid : Nat)
  /-- ADMIN_ENABLE: Host software sets ADMIN_CTRL.EN and the admin pair is made. (R107) -/
  | adminEnable (p : AdminWr)
  /-- ADMIN_READY: The L9 sets ADMIN_STATUS.RDY once EN and Bus Master Enable are both 1. (R107) -/
  | adminReady (fn : Nat)
  /-- ADMIN_DISABLE: Clearing ADMIN_CTRL.EN treats every queue pair of the function as by a function-level reset. (R108) -/
  | adminDisable (p : AdminWr)
  /-- NOP: Admin NOP completes OK; the long Delpin NOP instruction does nothing. (R131) -/
  | nop (form : NopForm)
  /-- IDENTIFY: IDENTIFY writes the DEVINFO region to the output buffer. (R131) -/
  | identify (p : TagOut)
  /-- ABORT: ABORT applies ABORTED to an uncommitted target, reports TOO_LATE, or makes a PRE_ABORTED entry. (R129) -/
  | abort (tag : Nat)
  /-- CREATE_QP: CREATE_QP makes an I/O queue pair bound to a vector. (R131) -/
  | createQp (tag : Nat)
  /-- DELETE_QP: DELETE_QP stops fetching from the pair and drops unfetched entries. (R132) -/
  | deleteQp (tag : Nat)
  /-- DELETE_QP_COMPLETE: Once the pair's fetched commands have completed, the pair is removed and DELETE_QP completes OK. (R132) -/
  | deleteQpComplete (tag : Nat)
  /-- GET_STATUS: GET_STATUS writes the status and telemetry region to the output buffer. (R131) -/
  | getStatus (p : TagOut)
  /-- FUNCTION_LEVEL_RESET: An FLR stops fetching for the function, discards uncommitted commands and removes its queue pairs. (R136) -/
  | functionLevelReset (fn : Nat)
  /-- VF_ENABLE_CLEAR: Clearing VF Enable acts as a function-level reset of every VF. (R137) -/
  | vfEnableClear
  /-- BUS_MASTER_ENABLE_CLEAR: Clearing Bus Master Enable removes the function's queue pairs, the admin pair included. (R138) -/
  | busMasterEnableClear (fn : Nat)
  /-- DOE_DATA_OBJECT: A data object on the PF's DOE mailbox is served as Discovery or CMA/SPDM. (R139) -/
  | doeDataObject (vendor typ : Nat) (payload : Bytes)
  /-- IDE_TLP_FAILURE: A TLP failing the IDE integrity check is dropped and the stream goes Insecure. (R140) -/
  | ideTlpFailure
  /-- KEY_GENERATE: KEY_GENERATE creates a key object in a chosen slot and returns its handle. (R605) -/
  | keyGenerate (r : Run)
  /-- KEY_IMPORT: KEY_IMPORT places or replaces a wrapped object whose lineage and wrap verify. (R187) -/
  | keyImport (r : Run)
  /-- KEY_EXPORT: KEY_EXPORT writes the wrapped object of a key. (R184) -/
  | keyExport (r : Run)
  /-- KEY_DELETE: KEY_DELETE frees the slot and advances or retires its generation. (R146) -/
  | keyDelete (r : Run)
  /-- KEY_INFO: KEY_INFO writes a key's 64-byte header. (R184) -/
  | keyInfo (r : Run)
  /-- KEY_RESTRICT: KEY_RESTRICT narrows usage, limit and attributes of a key or toggles VT_PIN. (R150) -/
  | keyRestrict (r : Run)
  /-- PUBKEY_ENROLL: PUBKEY_ENROLL validates and stores a public key. (R185) -/
  | pubkeyEnroll (r : Run)
  /-- PUBKEY_READ: PUBKEY_READ writes a key's public key. (R184) -/
  | pubkeyRead (r : Run)
  /-- KEYBLOCK_IMPORT: KEYBLOCK_IMPORT unwraps an X9.143 key block under a KBPK into a new key. (R188) -/
  | keyblockImport (r : Run)
  /-- KEYBLOCK_EXPORT: KEYBLOCK_EXPORT writes an exportable key as an X9.143 key block. (R188) -/
  | keyblockExport (r : Run)
  /-- VTABLE_CTRL: VTABLE_CTRL builds or evicts the verification table of a P-384 public key. (R174) -/
  | vtableCtrl (r : Run)
  /-- VTABLE_BUILD: A verification-table build caused by enrolment, import, restriction or restore starts after that command's END. (R174) -/
  | vtableBuild (handle unit tile : Nat)
  /-- VTABLE_EVICTION: A table chosen for eviction takes no new table-mode route and is freed once no started route holds it. (R175) -/
  | vtableEviction (handle : Nat)
  /-- SNAPSHOT_BEGIN: SNAPSHOT_BEGIN fixes BASE_SEQ and a new SNAP_ID. (R179) -/
  | snapshotBegin (r : Run)
  /-- SNAPSHOT_READ: SNAPSHOT_READ writes one snapshot chunk or the trailer. (R180) -/
  | snapshotRead (r : Run)
  /-- JOURNAL_READ: JOURNAL_READ writes whole journal records from a given SEQ. (R177) -/
  | journalRead (r : Run)
  /-- JOURNAL_ACK: JOURNAL_ACK raises the domain's acknowledgement mark in the cell domain. (R157) -/
  | journalAck (r : Run)
  /-- RESTORE_BEGIN: RESTORE_BEGIN empties the domain's store and starts a restore. (R181) -/
  | restoreBegin (r : Run)
  /-- RESTORE_DATA: RESTORE_DATA applies a snapshot chunk, the trailer or journal records in order. (R181) -/
  | restoreData (r : Run)
  /-- RESTORE_END: RESTORE_END checks completeness and puts the domain LIVE. (R181) -/
  | restoreEnd (r : Run)
  /-- DOMAIN_CREATE: DOMAIN_CREATE makes a DMK and an empty LIVE store. (R153) -/
  | domainCreate (r : Run)
  /-- DOMAIN_ERASE: DOMAIN_ERASE returns a domain to UNUSED. (R153) -/
  | domainErase (r : Run)
  /-- DOMAIN_ESCROW_EXPORT: DOMAIN_ESCROW_EXPORT writes the DMK and STORE_ID under a quorum transport key split among custodians. (R183) -/
  | domainEscrowExport (r : Run)
  /-- DOMAIN_ESCROW_RESTORE: DOMAIN_ESCROW_RESTORE joins custodian shares and installs an escrowed DMK in an unused domain. (R544) -/
  | domainEscrowRestore (r : Run)
  /-- STORE_STATUS: STORE_STATUS writes the 64-byte status of a domain. (R611) -/
  | storeStatus (r : Run)
  /-- KCACHE_EVICT_DOMAIN: KCACHE_CTRL command 1 evicts the unpinned entries of one domain. (R171) -/
  | kcacheEvictDomain (key : BitVec 16) (domain : Nat)
  /-- KCACHE_EVICT_ALL: KCACHE_CTRL command 2 evicts every unpinned entry. (R171) -/
  | kcacheEvictAll (key : BitVec 16)
  /-- KCACHE_ZEROISE: KCACHE_CTRL command 3 zeroises all four banks, pinned entries included. (R173) -/
  | kcacheZeroise (key : BitVec 16) (reading : List Nat)
  /-- HBMC_SWAP: A write of HBMC_SWAP with GO starts mirroring and copying a pseudo-channel to the stack's spare. (R167) -/
  | hbmcSwap (stack : Fin 4) (v : W32)
  /-- HBMC_SWAP_DONE: The copy ends, the position switches to the spare and DONE is set. (R167) -/
  | hbmcSwapDone (stack : Fin 4) (unread : List Nat)
  /-- ECDSA_SIGN: ECDSA_SIGN signs a digest and checks the signature before release. (R213) -/
  | ecdsaSign (r : Run)
  /-- ECDSA_SIGN_MSG: ECDSA_SIGN_MSG hashes a message on a cipher tile and signs the digest. (R213) -/
  | ecdsaSignMsg (r : Run)
  /-- ECDSA_VERIFY: ECDSA_VERIFY verifies a signature over a digest in table or variable-base mode. (R213) -/
  | ecdsaVerify (r : Run)
  /-- ECDSA_VERIFY_MSG: ECDSA_VERIFY_MSG hashes a message and verifies a signature over it. (R213) -/
  | ecdsaVerifyMsg (r : Run)
  /-- ECDSA_VERIFY_EXT: ECDSA_VERIFY_EXT validates a point from the input and verifies a signature with it. (R213) -/
  | ecdsaVerifyExt (r : Run)
  /-- ECDH_DERIVE: ECDH_DERIVE forms a shared secret and derives a new key by HKDF. (R214) -/
  | ecdhDerive (r : Run)
  /-- RSA_SIGN: RSA_SIGN makes a padded RSA signature and checks it before release. (R215) -/
  | rsaSign (r : Run)
  /-- RSA_VERIFY: RSA_VERIFY verifies an RSA signature. (R215) -/
  | rsaVerify (r : Run)
  /-- RSA_ENCRYPT: RSA_ENCRYPT encrypts data with OAEP. (R215) -/
  | rsaEncrypt (r : Run)
  /-- RSA_DECRYPT: RSA_DECRYPT decrypts and checks an OAEP ciphertext. (R215) -/
  | rsaDecrypt (r : Run)
  /-- RSA_UNWRAP: RSA_UNWRAP decrypts a wrapped symmetric key into a new key object. (R215) -/
  | rsaUnwrap (r : Run)
  /-- PKEC_COMB_REFRESH: A write of PKEC_COMB.REFRESH stops new comb-using routes in the cluster. (R202) -/
  | pkecCombRefresh (cluster : Fin 16)
  /-- COMB_REBUILD: Once started comb routes end, the cluster rebuilds its table and sets COMB_READY and DONE. (R202) -/
  | combRebuild (cluster : Fin 16)
  /-- PKEC_SELFTEST: A write of PKEC_SELFTEST.GO stops routes on a tile so that it can be self-tested. (R219) -/
  | pkecSelftest (cluster : Fin 16) (v : W32)
  /-- PKE_SELFTEST_END: The known-answer sign-with-check test ends and DONE, and FAIL on mismatch, are set. (R219) -/
  | pkeSelftestEnd (cluster : Fin 16) (pass : Bool)
  /-- SPKE_SIGN: SPKE operation 1 signs with a slot key and checks the signature. (R220) -/
  | spkeSign (slot : Fin 16)
  /-- SPKE_VERIFY: SPKE operation 2 verifies a P-384 signature. (R220) -/
  | spkeVerify (slot : Fin 16)
  /-- SPKE_PUBLIC_POINT: SPKE operation 3 computes the public point of a slot key. (R220) -/
  | spkePublicPoint (slot : Fin 16)
  /-- SPKE_OPERATION_END: An SPKE operation ends and sets DONE and RESULT. (R220) -/
  | spkeOperationEnd (check : Bool)
  /-- MMUL: Tile step MMUL performs a Montgomery multiplication. (R194) -/
  | mmul (p : PkeStep)
  /-- MSQR: Tile step MSQR performs a Montgomery squaring. (R194) -/
  | msqr (p : PkeStep)
  /-- MADD: Tile step MADD performs a modular addition. (R194) -/
  | madd (p : PkeStep)
  /-- MSUB: Tile step MSUB performs a modular subtraction. (R194) -/
  | msub (p : PkeStep)
  /-- MRED: Tile step MRED reduces modulo the second modulus. (R194) -/
  | mred (p : PkeStep)
  /-- SETMOD: Tile step SETMOD loads a modulus and fixes the limb count. (R194) -/
  | setmod (p : PkeStep)
  /-- PKE_CSEL: Public-key tile step CSEL selects an operand by flag without branching. (R194) -/
  | pkeCsel (p : PkeStep)
  /-- PKE_CEQ: Public-key tile step CEQ sets a flag when two operands are equal. (R194) -/
  | pkeCeq (p : PkeStep)
  /-- CRANGE: Tile step CRANGE sets a flag when an operand lies in range. (R194) -/
  | crange (p : PkeStep)
  /-- PADD: Tile step PADD adds an affine point to a Jacobian accumulator. (R194) -/
  | padd (p : PkeStep)
  /-- PADDJ: Tile step PADDJ adds two Jacobian points. (R194) -/
  | paddj (p : PkeStep)
  /-- PDBL: Tile step PDBL doubles a Jacobian point. (R194) -/
  | pdbl (p : PkeStep)
  /-- MINV: Tile step MINV inverts by a fixed exponent chain. (R194) -/
  | minv (p : PkeStep)
  /-- SPLIT: Tile step SPLIT converts Boolean shares to arithmetic shares. (R194) -/
  | split (p : PkeStep)
  /-- PKE_REFRESH: Public-key tile step REFRESH re-randomises shares. (R194) -/
  | pkeRefresh (p : PkeStep)
  /-- PKE_RAND: Public-key tile step RAND draws bits from the cluster DRBG. (R194) -/
  | pkeRand (p : PkeStep)
  /-- SBLIND: Tile step SBLIND blinds a scalar and recodes it into digits. (R194) -/
  | sblind (p : PkeStep)
  /-- PVALID: Tile step PVALID validates and decompresses an input point. (R206) -/
  | pvalid (p : PkeStep)
  /-- MEXPW: Tile step MEXPW performs one fixed-window exponent step. (R194) -/
  | mexpw (p : PkeStep)
  /-- ENCODE: Tile step ENCODE builds a PKCS #1 encoding. (R194) -/
  | encode (p : PkeStep)
  /-- DECODE: Tile step DECODE checks an encoding without branching. (R194) -/
  | decode (p : PkeStep)
  /-- ANDF: Tile step ANDF ANDs two flags. (R194) -/
  | andf (p : PkeStep)
  /-- PKE_MOVE: Public-key tile step MOVE copies an operand. (R194) -/
  | pkeMove (p : PkeStep)
  /-- PKE_KCLOAD: Public-key step KCLOAD loads key shares from the key cache. (R195) -/
  | pkeKcload (p : PkeStep)
  /-- COMBRD: Step COMBRD reads a masked generator-comb window entry. (R195) -/
  | combrd (p : PkeStep) (err : Nat)
  /-- VTRD: Step VTRD reads a verification-table window entry from HBM. (R195) -/
  | vtrd (p : PkeStep)
  /-- PKE_INRD: Public-key step INRD reads input bytes into a slot. (R195) -/
  | pkeInrd (p : PkeStep) (bytes : Bytes)
  /-- PKE_OUTST: Public-key step OUTST stages a slot as output. (R195) -/
  | pkeOutst (p : PkeStep)
  /-- KOUT: Step KOUT stages a slot as the body of a new key object. (R195) -/
  | kout (p : PkeStep)
  /-- HASHIN: Step HASHIN waits for a digest from the cipher/hash route of the same command. (R195) -/
  | hashin (p : PkeAt) (c : BitVec 12)
  /-- HASHOUT: Step HASHOUT hands a slot to a cipher/hash route. (R195) -/
  | hashout (p : PkeStep)
  /-- TOKEN_WAIT: A KIND 3 step waits for power tokens. (R90) -/
  | tokenWait (cls : Nat) (unit : Nat)
  /-- CIPHER_ENCRYPT: CIPHER_ENCRYPT encrypts data with AES or TDES in the named mode. (R250) -/
  | cipherEncrypt (r : Run)
  /-- CIPHER_DECRYPT: CIPHER_DECRYPT decrypts data, checking the GCM tag before release. (R250) -/
  | cipherDecrypt (r : Run)
  /-- MAC_GENERATE: MAC_GENERATE computes a CMAC, retail MAC or HMAC. (R250) -/
  | macGenerate (r : Run)
  /-- MAC_VERIFY: MAC_VERIFY compares a MAC and reports a mismatch as VERIFY_FAILED. (R250) -/
  | macVerify (r : Run)
  /-- HASH: HASH computes a SHA-2 digest. (R250) -/
  | hash (r : Run)
  /-- STREAM_ENCRYPT: STREAM_ENCRYPT encrypts with GCM under an IV drawn from the key's invocation counter. (R239) -/
  | streamEncrypt (r : Run)
  /-- CIPHER_ENCRYPT_M: CIPHER_ENCRYPT_M encrypts and counts one use on each metered key named. (R242) -/
  | cipherEncryptM (r : Run)
  /-- CIPHER_DECRYPT_M: CIPHER_DECRYPT_M decrypts and counts one use only on success. (R243) -/
  | cipherDecryptM (r : Run)
  /-- MAC_GENERATE_M: MAC_GENERATE_M computes a MAC on a metered key. (R242) -/
  | macGenerateM (r : Run)
  /-- MAC_VERIFY_M: MAC_VERIFY_M verifies a MAC, returns the verdict in RESULT and consumes a use. (R243) -/
  | macVerifyM (r : Run)
  /-- PIN_TRANSLATE: PIN_TRANSLATE re-encrypts a PIN block between formats and keys. (R245) -/
  | pinTranslate (r : Run)
  /-- PIN_TRANSLATE_DUKPT: PIN_TRANSLATE_DUKPT derives the DUKPT working key and translates a PIN block. (R248) -/
  | pinTranslateDukpt (r : Run)
  /-- PIN_COMPARE: PIN_COMPARE compares the PIN fields of two PIN blocks. (R246) -/
  | pinCompare (r : Run)
  /-- DUKPT_DATA: DUKPT_DATA decrypts data or makes or checks a CMAC under a DUKPT working key. (R248) -/
  | dukptData (r : Run)
  /-- EMV_ARQC: EMV_ARQC verifies an ARQC and stages an ARPC on a match. (R249) -/
  | emvArqc (r : Run)
  /-- PIN_TRANSLATE_M: The metered form of PIN_TRANSLATE counts one use on each metered key. (R242) -/
  | pinTranslateM (r : Run)
  /-- PIN_TRANSLATE_DUKPT_M: The metered form of PIN_TRANSLATE_DUKPT counts one use on each metered key. (R242) -/
  | pinTranslateDukptM (r : Run)
  /-- PIN_COMPARE_M: PIN_COMPARE_M compares PINs, reports the verdict in RESULT and consumes a use. (R243) -/
  | pinCompareM (r : Run)
  /-- DUKPT_DATA_M: The metered form of DUKPT_DATA counts one use. (R242) -/
  | dukptDataM (r : Run)
  /-- EMV_ARQC_M: EMV_ARQC_M checks an ARQC, reports the verdict in RESULT and consumes a use. (R243) -/
  | emvArqcM (r : Run)
  /-- CIPC_LOCK_HOLD: A write of CIPC_LOCKn.HOLD stops or allows route starts on a cipher tile. (R227) -/
  | cipcLockHold (cluster : Fin 8) (tile : Fin 9) (v : W32)
  /-- CIPC_SELFTEST: A write of CIPC_SELFTEST.GO holds a tile so that it can be self-tested. (R256) -/
  | cipcSelftest (cluster : Fin 8) (v : W32)
  /-- CIP_SELFTEST_END: The known-answer GCM and TDES test ends, sets DONE and FAIL, and clears HOLD. (R256) -/
  | cipSelftestEnd (cluster : Fin 8) (pass : Bool)
  /-- AESK: Tile step AESK expands key shares into round keys. (R229) -/
  | aesk (p : CipStep)
  /-- AESE: Tile step AESE encrypts one block. (R229) -/
  | aese (p : CipStep)
  /-- AESD: Tile step AESD decrypts one block. (R229) -/
  | aesd (p : CipStep)
  /-- DESK: Tile step DESK loads TDES key shares. (R229) -/
  | desk (p : CipStep)
  /-- DESE: Tile step DESE performs a TDES encryption. (R229) -/
  | dese (p : CipStep)
  /-- DESD: Tile step DESD performs a TDES decryption. (R229) -/
  | desd (p : CipStep)
  /-- CIP_XOR: Cipher tile step XOR combines two registers. (R229) -/
  | cipXor (p : CipStep)
  /-- CTRB: Tile step CTRB copies and increments a counter block. (R229) -/
  | ctrb (p : CipStep)
  /-- MULA: Tile step MULA multiplies by alpha for XTS. (R229) -/
  | mula (p : CipStep)
  /-- GHASH: Tile step GHASH folds a block into the accumulator. (R229) -/
  | ghash (p : CipStep)
  /-- SHAI: Tile step SHAI loads a hash initial state. (R229) -/
  | shai (p : CipStep)
  /-- SHAC: Tile step SHAC compresses a message block. (R229) -/
  | shac (p : CipStep)
  /-- SHAF: Tile step SHAF pads the message and writes the digest. (R229) -/
  | shaf (p : CipStep) (tail : Bytes)
  /-- PINDEC: Tile step PINDEC decodes a clear PIN block and flags a malformed one. (R244) -/
  | pindec (p : CipStep)
  /-- PINENC: Tile step PINENC encodes a PIN field into a block. (R229) -/
  | pinenc (p : CipStep)
  /-- CIP_RAND: Cipher tile step RAND takes bits from the prefetch buffer. (R229) -/
  | cipRand (p : CipStep)
  /-- CIP_CEQ: Cipher tile step CEQ compares bytes in constant time. (R229) -/
  | cipCeq (p : CipStep)
  /-- CIP_CSEL: Cipher tile step CSEL selects a register by flag. (R229) -/
  | cipCsel (p : CipStep)
  /-- CIP_REFRESH: Cipher tile step REFRESH re-randomises shares. (R229) -/
  | cipRefresh (p : CipStep)
  /-- TRUNC: Tile step TRUNC keeps the leftmost bytes of a register. (R229) -/
  | trunc (p : CipStep)
  /-- BLOCKS: Step BLOCKS repeats its body once per message block. (R230) -/
  | blocks (p : CipStep)
  /-- CIP_KCLOAD: Cipher step KCLOAD loads key shares through a key-cache port. (R231) -/
  | cipKcload (p : CipStep)
  /-- CIP_INRD: Cipher step INRD reads input or operand bytes. (R231) -/
  | cipInrd (p : CipStep) (bytes : Bytes)
  /-- CIP_OUTST: Cipher step OUTST stages output bytes. (R231) -/
  | cipOutst (p : CipStep)
  /-- PKOUT: Step PKOUT hands a digest to the public-key route. (R231) -/
  | pkout (p : CipStep)
  /-- PKIN: Step PKIN waits for a value from the public-key route. (R231) -/
  | pkin (p : CipAt) (c : BitVec 12)
  /-- GCM_ENC: SCIPH operation GCM_ENC encrypts with the slot key. (R258) -/
  | gcmEnc (slot : Fin 16)
  /-- GCM_DEC: SCIPH operation GCM_DEC decrypts and checks the tag. (R258) -/
  | gcmDec (slot : Fin 16)
  /-- SHA384: SCIPH operation SHA384 hashes SRAM data. (R258) -/
  | sha384 (slot : Fin 16)
  /-- HMAC384: SCIPH operation HMAC384 computes an HMAC with the slot key. (R258) -/
  | hmac384 (slot : Fin 16)
  /-- HKDF: SCIPH operation HKDF derives a key into an output slot. (R258) -/
  | hkdf (slot : Fin 16)
  /-- DERIVE_SRK: SCIPH operation DERIVE_SRK derives SRK from SS and BK. (R258) -/
  | deriveSrk (slot : Fin 16)
  /-- UNWRAP_DMK: SCIPH operation UNWRAP_DMK unwraps a DMK and pins its keys in the key cache over the drawbar. (R258) -/
  | unwrapDmk (slot : Fin 16)
  /-- LOAD: SCIPH operation LOAD loads a key from SRAM into a slot. (R258) -/
  | load (slot : Fin 16)
  /-- SCIPH_OPERATION_END: A SCIPH operation ends and sets DONE and RESULT. (R258) -/
  | sciphOperationEnd
  /-- RANDOM_BYTES: RANDOM_BYTES returns generator output, after a fresh reseed when PR is set. (R272) -/
  | randomBytes (r : Run)
  /-- RNG_STATUS: RNG_STATUS returns a copy of the RNG status registers. (R272) -/
  | rngStatus (r : Run)
  /-- SEED_BLOCK: The conditioner completes a seed block from raw bits or discards it after a failed health test. (R261) -/
  | seedBlock (raw0 raw1 : BitVec 2048) (at_ : Nat)
  /-- SEED_DELIVERY: A seed block reaches a requesting instance over the drawbar and reseeds it. (R270) -/
  | seedDelivery
  /-- RNG_STALL: An instance stalled for STALL_MS reports a fatal fault. (R270) -/
  | rngStall (inst : Fin 29)
  /-- BIAS_WINDOW: After 32,768 raw bits the ones and equal-pair counts of a source are published. (R267) -/
  | biasWindow (src : Fin 2) (early late : BitVec 16384)
  /-- MASK_STREAM_REKEY: A cipher tile's mask stream rekeys after 2^20 blocks. (R271) -/
  | maskStreamRekey (cluster : Fin 8) (tile : Fin 9)
  /-- RNG_STATUS_REFRESH: Every 1 ms Gecko refreshes the RNG status copy that the command reports. (R272) -/
  | rngStatusRefresh
  /-- RNG_DATA_READ: A read of RNG_DATA waits up to 2 µs for instance 28 and returns 0 with DATA_ERR on timeout. (R274) -/
  | rngDataRead
  /-- RNG_RAW_READ: A read of RNG_RAW pops one entry of exported raw bits. (R273) -/
  | rngRawRead
  /-- HOSTSPI_MEASURE: Setting HOSTSPI_CTRL.MEASURE starts reading and hashing the named ranges. (R278) -/
  | hostspiMeasure
  /-- MEASUREMENT_PASS_END: A measurement pass ends, placing the digests and setting MEASURED. (R278) -/
  | measurementPassEnd (p : PassEnd)
  /-- HOSTSPI_RELEASE: Setting HOSTSPI_CTRL.RELEASE releases HOST_HOLD_N and starts filtering. (R277) -/
  | hostspiRelease
  /-- HOSTSPI_LOAD: Setting HOSTSPI_CTRL.LOAD loads the measurement map from SRAM. (R278) -/
  | hostspiLoad
  /-- HOST_FLASH_TRANSACTION: The interposer decodes a host flash transaction and passes, redirects or blocks it. (R283) -/
  | hostFlashTransaction (t : HostTrans)
  /-- HOST_RESET: HOST_RST_IN_N low for 1 µs holds the host and starts a new measurement. (R289) -/
  | hostReset (ns : Nat)
  /-- LEDGER_MIRROR: Sealed firmware mirrors unmirrored records and AK certificates to a ready ledger card. (R304) -/
  | ledgerMirror (ok : Bool)
  /-- LEDGER_READ: LEDGER_READ writes whole records from FIRST_SEQ. (R311) -/
  | ledgerRead (r : Run)
  /-- LEDGER_STATUS: LEDGER_STATUS writes the 64-byte ledger status. (R311) -/
  | ledgerStatus (r : Run)
  /-- ATTEST_QUOTE: ATTEST_QUOTE returns a quote signed by the alias key. (R312) -/
  | attestQuote (r : Run)
  /-- CERT_READ: CERT_READ returns certificate bytes from an offset. (R309) -/
  | certRead (r : Run)
  /-- HOST_FLASH_AUTH: HOST_FLASH_AUTH accepts an owner authorisation, opening a region and adding its digest. (R313) -/
  | hostFlashAuth (r : Run)
  /-- HOST_BOOT_SELECT: HOST_BOOT_SELECT stores the order of primary and recovery copies for the next host measurement. (R314) -/
  | hostBootSelect (r : Run)
  /-- LIFECYCLE: LIFECYCLE verifies a transition, appends its record, then zeroises, programs fuses and resets. (R315) -/
  | lifecycle (r : Run)
  /-- GET_VERSION: The SPDM request GET_VERSION is answered. (R306) -/
  | getVersion (doe : Bool)
  /-- GET_CAPABILITIES: The SPDM request GET_CAPABILITIES is answered. (R306) -/
  | getCapabilities (doe : Bool)
  /-- NEGOTIATE_ALGORITHMS: The SPDM request NEGOTIATE_ALGORITHMS is answered. (R306) -/
  | negotiateAlgorithms (doe : Bool) (offer : SpdmOffer)
  /-- GET_DIGESTS: The SPDM request GET_DIGESTS is answered. (R306) -/
  | getDigests (doe : Bool)
  /-- GET_CERTIFICATE: The SPDM request GET_CERTIFICATE returns the slot 0 chain. (R305) -/
  | getCertificate (doe : Bool) (slot off len : Nat)
  /-- CHALLENGE: The SPDM request CHALLENGE is answered with a signature by the alias key. (R306) -/
  | challenge (doe : Bool) (slot : Nat)
  /-- GET_MEASUREMENTS: The SPDM request GET_MEASUREMENTS returns the measurement blocks. (R307) -/
  | getMeasurements (doe : Bool) (index : Nat) (signed : Bool)
  /-- KEY_EXCHANGE: The SPDM request KEY_EXCHANGE opens a session, up to four at once. (R306) -/
  | keyExchange (doe : Bool) (slot : Nat) (pub : Bytes)
  /-- FINISH: The SPDM request FINISH completes a session handshake. (R306) -/
  | finish (session : Nat) (macOk : Bool)
  /-- HEARTBEAT: The SPDM request HEARTBEAT keeps a session alive. (R306) -/
  | heartbeat (session : Nat) (macOk : Bool)
  /-- KEY_UPDATE: The SPDM request KEY_UPDATE updates session keys. (R306) -/
  | keyUpdate (session : Nat) (macOk : Bool)
  /-- END_SESSION: The SPDM request END_SESSION closes a session. (R306) -/
  | endSession (session : Nat) (macOk : Bool)
  /-- VENDOR_DEFINED_REQUEST: An SPDM vendor-defined request carrying IDE_KM keys the selective IDE stream. (R140) -/
  | vendorDefinedRequest (session : Nat) (macOk : Bool) (ideKm : Option Bytes)
  /-- CL_STATUS: CL_STATUS reports the member's epoch and cluster state. (R332) -/
  | clStatus (r : Run)
  /-- CL_MEMBER_REQUEST: CL_MEMBER_REQUEST generates a member key and outputs a membership certificate. (R317) -/
  | clMemberRequest (r : Run)
  /-- CL_FOUND: CL_FOUND founds a cluster with the caller as member 0 at epoch 1. (R332) -/
  | clFound (r : Run)
  /-- CL_ISSUE: CL_ISSUE issues an epoch statement. (R332) -/
  | clIssue (r : Run)
  /-- CL_ENDORSE: CL_ENDORSE endorses a statement, at most once per epoch. (R322) -/
  | clEndorse (r : Run)
  /-- CL_APPLY_EPOCH: CL_APPLY_EPOCH checks and applies an epoch statement to the member table. (R321) -/
  | clApplyEpoch (r : Run)
  /-- CL_MEMBER_READ: CL_MEMBER_READ writes member table entries. (R332) -/
  | clMemberRead (r : Run)
  /-- CL_SEAL_BUNDLE: CL_SEAL_BUNDLE seals a REPLICATE bundle for a recipient. (R327) -/
  | clSealBundle (r : Run)
  /-- CL_HANDOVER: CL_HANDOVER demotes the primary and outputs a HANDOVER bundle. (R330) -/
  | clHandover (r : Run)
  /-- CL_APPLY_BUNDLE: CL_APPLY_BUNDLE installs or adopts a domain version from a bundle. (R328) -/
  | clApplyBundle (r : Run)
  /-- CL_REPLAY: CL_REPLAY applies the primary's journal records on a replica. (R326) -/
  | clReplay (r : Run)
  /-- PAIRED_WORD: A paired word runs two short operations with the effect of one after the other. (R350) -/
  | pairedWord (core : CoreId) (f g : ShortOp) (bit15 : Bool) (fails : List MemFail)
  /-- MOVE: Delpin MOVE copies its source to its destination. (R372) -/
  | move (i : LongInsn)
  /-- EXT: Delpin EXT zero- or sign-extends a narrower source. (R372) -/
  | ext (i : LongInsn)
  /-- LEA: Delpin LEA writes the effective offset of its source. (R374) -/
  | lea (i : LongInsn)
  /-- CLR: Delpin CLR writes zero. (R372) -/
  | clr (i : LongInsn)
  /-- PUSH: Delpin PUSH pushes 8 bytes on SG15. (R375) -/
  | push (i : LongInsn)
  /-- POP: Delpin POP pops 8 bytes from SG15. (R375) -/
  | pop (i : LongInsn)
  /-- ADD: Delpin ADD. (R372) -/
  | add (i : LongInsn)
  /-- ADDC: Delpin ADDC adds with carry. (R372) -/
  | addc (i : LongInsn)
  /-- SUB: Delpin SUB. (R372) -/
  | sub (i : LongInsn)
  /-- SUBC: Delpin SUBC subtracts with borrow. (R372) -/
  | subc (i : LongInsn)
  /-- CMP: Delpin CMP sets flags of a subtraction. (R372) -/
  | cmp (i : LongInsn)
  /-- NEG: Delpin NEG negates. (R372) -/
  | neg (i : LongInsn)
  /-- MUL: Delpin MUL keeps the low bits of a product. (R372) -/
  | mul (i : LongInsn)
  /-- MULH: Delpin MULH keeps the high bits of the unsigned product. (R372) -/
  | mulh (i : LongInsn)
  /-- MULHS: Delpin MULHS keeps the high bits of the signed product. (R372) -/
  | mulhs (i : LongInsn)
  /-- DIV: Delpin DIV divides unsigned and raises DIVIDE on zero. (R376) -/
  | div (i : LongInsn)
  /-- DIVS: Delpin DIVS divides signed. (R376) -/
  | divs (i : LongInsn)
  /-- REM: Delpin REM takes the unsigned remainder. (R376) -/
  | rem (i : LongInsn)
  /-- REMS: Delpin REMS takes the signed remainder. (R376) -/
  | rems (i : LongInsn)
  /-- AND: Delpin AND. (R372) -/
  | and (i : LongInsn)
  /-- OR: Delpin OR. (R372) -/
  | or (i : LongInsn)
  /-- XOR: Delpin XOR. (R372) -/
  | xor (i : LongInsn)
  /-- NOT: Delpin NOT. (R372) -/
  | not (i : LongInsn)
  /-- TST: Delpin TST sets flags of an AND. (R372) -/
  | tst (i : LongInsn)
  /-- SHL: Delpin SHL shifts left. (R377) -/
  | shl (i : LongInsn)
  /-- SHR: Delpin SHR shifts right logically. (R377) -/
  | shr (i : LongInsn)
  /-- SAR: Delpin SAR shifts right arithmetically. (R377) -/
  | sar (i : LongInsn)
  /-- ROL: Delpin ROL rotates left. (R377) -/
  | rol (i : LongInsn)
  /-- ROR: Delpin ROR rotates right. (R377) -/
  | ror (i : LongInsn)
  /-- CLZ: Delpin CLZ counts leading zeros. (R372) -/
  | clz (i : LongInsn)
  /-- POPC: Delpin POPC counts one bits. (R372) -/
  | popc (i : LongInsn)
  /-- BSWAP: Delpin BSWAP reverses byte order. (R372) -/
  | bswap (i : LongInsn)
  /-- CSEL: Delpin CSEL selects by condition without branching. (R378) -/
  | csel (i : LongInsn)
  /-- CTEQ: Delpin CTEQ compares for equality in constant time. (R378) -/
  | cteq (i : LongInsn)
  /-- CTLT: Delpin CTLT compares unsigned in constant time. (R378) -/
  | ctlt (i : LongInsn)
  /-- CTMASK: Delpin CTMASK makes a mask from a non-zero value. (R378) -/
  | ctmask (i : LongInsn)
  /-- CTBEQ: Delpin CTBEQ compares two byte blocks in constant time. (R379) -/
  | ctbeq (i : LongInsn)
  /-- JMP: Delpin JMP transfers control, optionally on a condition. (R380) -/
  | jmp (i : LongInsn)
  /-- CALL: Delpin CALL pushes the return offset and transfers. (R380) -/
  | call (i : LongInsn)
  /-- RET: Delpin RET pops a return offset and transfers. (R380) -/
  | ret (i : LongInsn)
  /-- LOOP: Delpin LOOP decrements a counter and transfers while it is non-zero. (R381) -/
  | loop (i : LongInsn)
  /-- SWAPA: Delpin SWAPA exchanges a register and memory atomically. (R382) -/
  | swapa (i : LongInsn)
  /-- CAS: Delpin CAS compares and swaps atomically. (R382) -/
  | cas (i : LongInsn)
  /-- FADD: Delpin FADD fetches and adds atomically. (R382) -/
  | fadd (i : LongInsn)
  /-- BMOVE: Delpin BMOVE copies a count of bytes in interruptible steps. (R384) -/
  | bmove (i : LongInsn)
  /-- BFILL: Delpin BFILL fills a count of bytes in interruptible steps. (R384) -/
  | bfill (i : LongInsn)
  /-- TRAP: Delpin TRAP raises a trap cause in its own world. (R387) -/
  | trap (i : LongInsn)
  /-- GATE: Delpin GATE enters the gate's supervisor with arguments. (R412) -/
  | gate (i : LongInsn)
  /-- RTE: Delpin RTE checks its target and returns from an exception. (R408) -/
  | rte (i : LongInsn)
  /-- LSEG: Delpin LSEG loads a segment descriptor. (R341) -/
  | lseg (i : LongInsn)
  /-- SSEG: Delpin SSEG stores a segment descriptor. (R386) -/
  | sseg (i : LongInsn)
  /-- MASK: Delpin MASK sets the mask level. (R389) -/
  | mask (i : LongInsn)
  /-- WAIT: Delpin WAIT waits for an admitted interrupt. (R388) -/
  | wait (i : LongInsn)
  /-- FENCE: Delpin FENCE drains the write buffer and/or discards fetched-ahead words. (R390) -/
  | fence (i : LongInsn)
  /-- MFPS: Delpin MFPS reads PS. (R372) -/
  | mfps (i : LongInsn)
  /-- MTF: Delpin MTF sets N, Z, V and C. (R389) -/
  | mtf (i : LongInsn)
  /-- MFCR: Delpin MFCR reads a control register. (R394) -/
  | mfcr (i : LongInsn)
  /-- MTCR: Delpin MTCR writes a control register. (R394) -/
  | mtcr (i : LongInsn)
  /-- WSTART: A write of 1 to WSTART abandons saved contexts and enters the Open supervisor. (R410) -/
  | wstart (core : CoreId) (v : W64)
  /-- SWI: A write to SWI raises a software interrupt source. (R411) -/
  | swi (core : CoreId) (v : W64)
  /-- INTERRUPT_ENTRY: At an instruction boundary the core takes the highest admitted interrupt source. (R402) -/
  | interruptEntry (core : CoreId)
  /-- LOCKSTEP_MISMATCH: A lockstep comparator mismatch stops both cores and resets the device. (R413) -/
  | lockstepMismatch
  /-- MPU_SYNC: A write of MPU_x_SYNC checks the named masters' shadow regions or sets ERR. (R427) -/
  | mpuSync (landau : Bool) (masters : BitVec 24)
  /-- MPU_SYNC_APPLY: Once old-rule accesses complete, the shadow regions become active. (R427) -/
  | mpuSyncApply (landau : Bool)
  /-- MPU_VIOL_CLEAR: Writing 1 to MPU_x_VIOL.VALID clears the violation record and its count. (R426) -/
  | mpuViolClear (landau : Bool)
  /-- ARBITER_DECISION: A free port with a requester grants the slot owner or the highest-ranked requester and advances the pointer. (R430) -/
  | arbiterDecision (arb : Fin 6) (req : W32)
  /-- PROGRAM: FLASHC operation PROGRAM programs lines from SRAM after checking them all. (R441) -/
  | program (w : FlashWr)
  /-- ERASE: FLASHC operation ERASE journals and erases one sector. (R448) -/
  | erase (w : FlashWr)
  /-- ERASE_RANGE: FLASHC operation ERASE_RANGE erases consecutive sectors in parallel. (R448) -/
  | eraseRange (w : FlashWr)
  /-- CHECK: FLASHC operation CHECK reads every line and reports the highest correction count. (R439) -/
  | check (w : FlashWr)
  /-- RETIRE: FLASHC operation RETIRE moves a sector onto a spare and remaps it. (R453) -/
  | retire (w : FlashWr)
  /-- SUSPEND: FLASHC operation SUSPEND suspends the running erase or program. (R446) -/
  | suspend (w : FlashWr)
  /-- RESUME: FLASHC operation RESUME resumes the innermost suspended operation. (R446) -/
  | resume (w : FlashWr)
  /-- FLASH_OPERATION_END: A FLASHC operation ends or is refused and DONE and FLASHC_RESULT are written. (R439) -/
  | flashOperationEnd (e : FlashEnd)
  /-- TAMPER_EVENT: Sources tripping together form an event, the most severe response is selected and executed. (R463) -/
  | tamperEvent (tripsA tripsB : BitVec 16)
  /-- MONITOR_DISAGREE: One detector tripped alone for 1 ms sets TAMPER_DISAGREE and reports a contained fault. (R457) -/
  | monitorDisagree (src : Fin 16)
  /-- LOOP0_MEASUREMENT: Each period the static loop is pulsed and its resistance judged by T07. (R598) -/
  | loop0Measurement (ohms : Nat)
  /-- LOOP1_CODE: Each period the loop-code generator sends a code on loop 1 and T08 checks it. (R459) -/
  | loop1Code (code : BitVec 16) (late : Bool)
  /-- TAMPER_HOLD_END: A relay held after a tamper reset resumes once every such source has been clear for 100 ms. (R466) -/
  | tamperHoldEnd
  /-- ZALL: A write of TAMPER_CTRL.ZALL requests a ZEROISE_ALL for a lifecycle transition. (R472) -/
  | zall (key : BitVec 16)
  /-- ZEROISE_ALL_COMPLETE: When every range is erased, ZPEND clears and ZALL_DONE is set. (R472) -/
  | zeroiseAllComplete
  /-- BKGEN: A write of TAMPER_CTRL.BKGEN generates a new battery key and clears ZALL_DONE. (R470) -/
  | bkgen (key : BitVec 16)
  /-- ZDONE: A write of TAMPER_CTRL.ZDONE clears ZPEND after firmware erased the ranges. (R471) -/
  | zdone (key : BitVec 16)
  /-- UNLOCK: A write of TAMPER_CTRL.UNLOCK clears the locked state. (R474) -/
  | unlock (key : BitVec 16)
  /-- CFG_LOCK: Setting TAMPER_CTRL.CFG_LOCK locks the response settings. (R465) -/
  | cfgLock
  /-- TAMPER_SELFTEST: A write of TAMPER_SELFTEST.GO injects a detector's stimulus. (R476) -/
  | tamperSelftest (v : W32)
  /-- TAMPER_SELFTEST_END: The detector self-test ends and sets DONE, and FAIL when it did not trip or clear. (R476) -/
  | tamperSelftestEnd (tripped cleared : Bool)
  /-- TAMPER_FORCE: A write of TAMPER_FORCE trips a source as a real event in BLANK or RMA. (R477) -/
  | tamperForce (v : BitVec 16)
  /-- TAMPER_CELLLOG_READ: A read of TAMPER_CELLLOG pops one cell-log entry. (R470) -/
  | tamperCelllogRead
  /-- FAULT_REPORT: The fault collector counts a report and acts by its class, entering safe state or requesting retirement. (R479) -/
  | faultReport (r : Report)
  /-- SAFE_STATE_CUT: Routes still running 1 ms after safe-state entry are cut. (R483) -/
  | safeStateCut
  /-- QUIET_PERIOD_EXPIRY: The quiet timer expires and the collector exits safe state by the held kind or keeps it. (R486) -/
  | quietPeriodExpiry (cleared : Bool)
  /-- FCOLL_HEARTBEAT_LOSS: A missing collector heartbeat or copy mismatch makes the sequencer reset the device. (R481) -/
  | fcollHeartbeatLoss
  /-- ROUTE_TIMEOUT: A route exceeding its watchdog bound is cut, restarted and its tile reported. (R493) -/
  | routeTimeout (p : LateRoute) (unit tile : Nat)
  /-- RETIRE_ACK: A write of FCOLL_CTRL.RETIRE_ACK ends the retirement request. (R490) -/
  | retireAck (key : BitVec 16)
  /-- EXIT: A write of FCOLL_CTRL.EXIT leaves safe state by the held kind. (R488) -/
  | exit (key : BitVec 16)
  /-- RCLR: A write of FCOLL_CTRL.RCLR clears the recovery count. (R487) -/
  | rclr (key : BitVec 16)
  /-- FCOLL_FORCE: A write of FCOLL_FORCE.GO makes a report as if its reporter had. (R489) -/
  | fcollForce (v : W32)
  /-- HBM_ROW_REPAIR: A row reaching ROW_LIMIT corrected errors is repaired by post-package repair. (R496) -/
  | hbmRowRepair (stack : Fin 4) (pc : Fin 32) (row : Nat) (left : Bool) (uncorr : List Nat)
  /-- DRAWBAR_LANE_SWAP: A lane reaching LIMIT errors in one second is swapped for a spare. (R498) -/
  | drawbarLaneSwap (dir : Fin 2) (lane : Fin 36) (errors : Nat)
  /-- MERGE_WINDOW_EXPIRY: An open record closes WINDOW seconds after its first occurrence. (R505) -/
  | mergeWindowExpiry
  /-- BATCH_PROGRAM: A batch of closed records is programmed into the ring when full or 1 s after its first record. (R506) -/
  | batchProgram
  /-- EVREC_SW: A write to EVREC_SW makes a firmware event occurrence. (R510) -/
  | evrecSw (v : W32)
  /-- EVREC_FREEZE: A write to EVREC_CTRL.FREEZE holds or releases the ring. (R509) -/
  | evrecFreeze (on : Bool)
  /-- TIMEKEEP_SECOND: Each second TIMEKEEP advances RTC, and OPTIME while main power is good. (R512) -/
  | timekeepSecond
  /-- RTC_SET: A write to TIMEKEEP_RTC sets the real-time counter and records RTC_SET. (R512) -/
  | rtcSet (v : W32)
  /-- OSC_FAIL: The 32.768 kHz crystal stops, OSC_FAIL is set and RTC stops. (R512) -/
  | oscFail
  /-- GRANT_CYCLE: Every 1 µs the arbiter computes grants from demands and domains change voltage step. (R518) -/
  | grantCycle (demands : List (Nat × Nat))
  /-- GRANT_REFRESH_LOSS: A domain without a grant refresh for 10 µs falls back to BASE. (R521) -/
  | grantRefreshLoss (d : Fin 48)
  /-- POWER_WINDOW: Each 100 µs window the arbiter lowers or raises cap_eff against CAP. (R522) -/
  | powerWindow (deci : Nat)
  /-- THERMAL_READING: Every 100 µs the arbiter reads temperatures and sets the throttle stage. (R529) -/
  | thermalReading (landau : List (Fin 50 × BitVec 8)) (gecko hbms : List (BitVec 8))
  /-- PWRARB_DOMCTRL: A write of PWRARB_DOMCTRL switches a Gecko domain on or off or sets ERR. (R524) -/
  | pwrarbDomctrl (v : W32)
  /-- VID_ALERT: VID_ALERT_N asserts and the arbiter reads STATUS_WORD and clears faults. (R527) -/
  | vidAlert (good holds : Bool)
  /-- RAIL_PG_FALL: A power-good input falling while enabled causes a Landau rebuild. (R590) -/
  | railPgFall (rail : Fin 3)
  /-- ACTIVATE: Card command ACTIVATE runs activation, class selection and PPS. (R532) -/
  | activate (port : Fin 2)
  /-- EXCHANGE: Card command EXCHANGE sends a command APDU and receives the response. (R534) -/
  | exchange (port : Fin 2)
  /-- DEACTIVATE: Card command DEACTIVATE runs the deactivation sequence. (R533) -/
  | deactivate (port : Fin 2)
  /-- WARM_RESET: Card command WARM_RESET warm-resets the card. (R532) -/
  | warmReset (port : Fin 2)
  /-- CARD_OPERATION_END: A card command ends, setting DONE and the result. (R534) -/
  | cardOperationEnd (port : Fin 2) (e : CardEnd)
  /-- CARD_INSERTION: A card present for 20 ms is reported inserted. (R533) -/
  | cardInsertion (port : Fin 2)
  /-- CARD_REMOVAL: Card presence lost starts deactivation and ends any exchange REMOVED. (R533) -/
  | cardRemoval (port : Fin 2)
  /-- CARD_OVERCURRENT: VCC current above the limit for 10 µs deactivates the card. (R533) -/
  | cardOvercurrent (port : Fin 2)
  /-- QUORUM_SESSION_EXPIRY: A quorum session open for CARD_QTIME seconds expires. (R541) -/
  | quorumSessionExpiry
  /-- SD_INSERTION: An SD card present for 20 ms is initialised, unlocked or claimed and scanned. (R546) -/
  | sdInsertion (card : SdCard) (initOk : Bool)
  /-- SD_REMOVAL: SD card removal ends a write REMOVED or UNDETERMINED and removes the card supply. (R549) -/
  | sdRemoval (afterToken : Bool)
  /-- SDH_WRITE: SDH command WRITE writes blocks from SRAM to the card. (R548) -/
  | sdhWrite
  /-- SDH_READ: SDH command READ reads blocks into SRAM. (R545) -/
  | sdhRead
  /-- FORCE_ERASE: SDH command FORCE_ERASE force-erases a locked card. (R547) -/
  | forceErase (key : BitVec 16)
  /-- SET_LOCK: SDH command SET_LOCK sets the card password and locks it. (R547) -/
  | setLock
  /-- SDH_UNLOCK: SDH command UNLOCK unlocks the card with its password. (R547) -/
  | sdhUnlock
  /-- POWER_OFF: SDH command POWER_OFF powers the card off. (R545) -/
  | powerOff
  /-- SDH_OPERATION_END: An SDH command ends, setting DONE and the result. (R548) -/
  | sdhOperationEnd (e : SdEnd)
  /-- FIELD_APPEARS: A reader field powers the Tadpole domain and the tag becomes ready. (R555) -/
  | fieldAppears
  /-- FIELD_ABSENT: After 1 ms without field the tag leaves Quiet and Selected and loses its round handle. (R556) -/
  | fieldAbsent
  /-- INVENTORY: The tag answers INVENTORY by the mask rule when privacy is off. (R560) -/
  | inventory (q : TagReq) (slots16 : Bool) (len : Fin 65) (mask : BitVec 64) (afi : Option (BitVec 8))
  /-- STAY_QUIET: STAY QUIET puts the tag in the Quiet state. (R553) -/
  | stayQuiet (q : TagReq)
  /-- READ_SINGLE_BLOCK: READ SINGLE BLOCK returns one readable block of tag memory. (R557) -/
  | readSingleBlock (q : TagReq) (ext : Bool) (block : BitVec 16)
  /-- WRITE_SINGLE_BLOCK: WRITE SINGLE BLOCK programs one owner-area block after the field check. (R565) -/
  | writeSingleBlock (q : TagReq) (ext : Bool) (block : BitVec 16) (data : Bytes) (w : TagWr)
  /-- READ_MULTIPLE_BLOCKS: READ MULTIPLE BLOCKS returns up to 8 blocks. (R557) -/
  | readMultipleBlocks (q : TagReq) (ext : Bool) (first count : BitVec 16)
  /-- WRITE_MULTIPLE_BLOCKS: WRITE MULTIPLE BLOCKS programs up to 8 owner-area blocks after one field check. (R565) -/
  | writeMultipleBlocks (q : TagReq) (ext : Bool) (first count : BitVec 16) (data : Bytes) (w : TagWr)
  /-- SELECT: SELECT puts the addressed tag in the Selected state. (R553) -/
  | select (q : TagReq)
  /-- RESET_TO_READY: RESET TO READY returns the tag to Ready. (R553) -/
  | resetToReady (q : TagReq)
  /-- GET_SYSTEM_INFORMATION: GET SYSTEM INFORMATION reports UID or handle and memory size. (R554) -/
  | getSystemInformation (q : TagReq) (ext : Bool)
  /-- TAG_REQUEST_UNSUPPORTED: An unsupported tag request answers error 0x01 or goes unanswered. (R553) -/
  | tagRequestUnsupported (q : TagReq) (code mfr : BitVec 8)
  /-- LEDGER_SUMMARY_READ: LEDGER_SUMMARY_READ returns blocks of the valid summary half. (R563) -/
  | ledgerSummaryRead (q : TagReq) (mfr first count : BitVec 8)
  /-- PRIVACY_INVENTORY: PRIVACY_INVENTORY answers with a one-time handle, starting a round when needed. (R561) -/
  | privacyInventory (q : TagReq) (mfr : BitVec 8) (slots16 : Bool) (len : Fin 65) (mask : BitVec 64) (w : TagWr)
  /-- SERVICE_INTENT_WRITE: SERVICE_INTENT_WRITE programs an intent and its commit block in the next slot. (R564) -/
  | serviceIntentWrite (q : TagReq) (mfr : BitVec 8) (data : Bytes) (w : TagWr)
  /-- HANDLE_POOL_REFILL: Sealed firmware erases and refills the handle pool when fewer than 8 remain. (R562) -/
  | handlePoolRefill
  /-- INTENT_RECORDING: Sealed firmware records each committed intent as event 0x0401 and erases the intent sector. (R564) -/
  | intentRecording
  /-- TAG_WRITE: TAG command WRITE programs tag-memory lines from SRAM. (R569) -/
  | tagWrite (w : FlashWr)
  /-- TAG_ERASE: TAG command ERASE erases one tag sector. (R569) -/
  | tagErase (w : FlashWr)
  /-- TAG_OPERATION_END: A TAG firmware operation ends, setting DONE and the result. (R569) -/
  | tagOperationEnd (e : FlashEnd)
  /-- DYNAMIC_ADDRESS_ASSIGNMENT: An I3C controller assigns the dynamic address by SETDASA or ENTDAA. (R570) -/
  | dynamicAddressAssignment (addr : BitVec 7)
  /-- FALLBACK_TIMEOUT: No dynamic address within 100 ms puts the sideband in I2C or SMBus fallback. (R570) -/
  | fallbackTimeout
  /-- MCTP_PACKET: An MCTP packet is assembled into a message or discarded and counted. (R571) -/
  | mctpPacket (p : MctpPkt)
  /-- SET_ENDPOINT_ID: MCTP control command Set Endpoint ID. (R571) -/
  | setEndpointId (inst : BitVec 5) (op : BitVec 2) (eid : BitVec 8)
  /-- GET_ENDPOINT_ID: MCTP control command Get Endpoint ID. (R571) -/
  | getEndpointId (inst : BitVec 5)
  /-- GET_ENDPOINT_UUID: MCTP control command Get Endpoint UUID. (R571) -/
  | getEndpointUuid (inst : BitVec 5)
  /-- GET_MCTP_VERSION_SUPPORT: MCTP control command Get MCTP Version Support. (R571) -/
  | getMctpVersionSupport (inst : BitVec 5) (typ : BitVec 8)
  /-- GET_MESSAGE_TYPE_SUPPORT: MCTP control command Get Message Type Support. (R571) -/
  | getMessageTypeSupport (inst : BitVec 5)
  /-- GET_VENDOR_DEFINED_MESSAGE_SUPPORT: MCTP control command Get Vendor Defined Message Support. (R571) -/
  | getVendorDefinedMessageSupport (inst : BitVec 5) (sel : BitVec 8)
  /-- STATUS: Management message STATUS returns device status and a fresh nonce. (R573) -/
  | status (msg : Bytes)
  /-- SB_LEDGER_READ: Management message LEDGER_READ returns up to three records. (R573) -/
  | sbLedgerRead (msg : Bytes)
  /-- EVENT_READ: Management message EVENT_READ returns event batches. (R511) -/
  | eventRead (msg : Bytes)
  /-- RECOVERY_WRITE: Management message RECOVERY_WRITE writes Sealed firmware into a slot in ROM recovery. (R574) -/
  | recoveryWrite (msg : Bytes)
  /-- IMAGE_STAGE: Management message IMAGE_STAGE writes image data into the slot not in use. (R87) -/
  | imageStage (msg : Bytes)
  /-- IMAGE_COMMIT: Management message IMAGE_COMMIT checks the staged image and sets it pending. (R87) -/
  | imageCommit (msg : Bytes)
  /-- REMEASURE: Management message REMEASURE starts a new host measurement of a held host. (R574) -/
  | remeasure (msg : Bytes)
  /-- SB_HOST_FLASH_AUTH: Management message HOST_FLASH_AUTH applies an update authorisation. (R574) -/
  | sbHostFlashAuth (msg : Bytes) (ledgerOk : Bool)
  /-- SB_LIFECYCLE: Management message LIFECYCLE requests a lifecycle transition. (R574) -/
  | sbLifecycle (msg : Bytes) (ledgerOk : Bool)
  /-- QUORUM_CANCEL: Management message QUORUM_CANCEL ends the open quorum session. (R541) -/
  | quorumCancel (msg : Bytes)
  /-- SB_UNLOCK: Management message UNLOCK clears the locked state under quorum. (R574) -/
  | sbUnlock (msg : Bytes)
  /-- CSET_REPLACE: Management message CSET_REPLACE replaces the custodian set under quorum. (R574) -/
  | csetReplace (msg : Bytes)
  /-- CARD_ERASE: Management message CARD_ERASE force-erases a foreign ledger card on an owner request. (R575) -/
  | cardErase (msg : Bytes)
  /-- TAG_OWNER_ERASE: Management message TAG_OWNER_ERASE erases the tag owner area on an owner request. (R575) -/
  | tagOwnerErase (msg : Bytes)
  /-- LINK_TEST: Management message LINK_TEST starts a pattern test. (R573) -/
  | linkTest (msg : Bytes) (lock : Bool)
  /-- LINK_RESULT: Management message LINK_RESULT returns the pattern test counts. (R573) -/
  | linkResult (msg : Bytes)
  /-- PATTERN_TEST_START: A write of TEST_CTRL.GO starts a pattern test on a target if allowed. (R577) -/
  | patternTestStart (land : Bool) (v : W32) (lock : Bool)
  /-- PATTERN_TEST_STOP: A write of TEST_CTRL.STOP ends the running test. (R578) -/
  | patternTestStop (land : Bool) (bits : W64) (errs : BitVec 31)
  /-- PATTERN_TEST_END: A test ends when its SECONDS pass or an event meets it. (R578) -/
  | patternTestEnd (bits : W64) (errs : BitVec 31)
  /-- SIDEB_SEND: A write of SIDEB_TXCTRL.GO sends an MCTP message. (R571) -/
  | sidebSend (v : W32)
  /-- SIDEB_RXDATA_READ: A read of SIDEB_RXDATA pops four received bytes. (R571) -/
  | sidebRxdataRead
  /-- SIDEB_TXDATA_WRITE: A write of SIDEB_TXDATA pushes four message bytes. (R571) -/
  | sidebTxdataWrite (v : W32)
  /-- CARD_DATA_ACCESS: An access to CARDn_DATA pushes or pops four APDU bytes. (R534) -/
  | cardDataAccess (port : Fin 2) (w : Option W32)
  /-- IDCODE: The TAP instruction IDCODE selects the identification register. (R579) -/
  | idcode
  /-- BYPASS: The TAP instruction BYPASS selects the bypass register. (R579) -/
  | bypass
  /-- SAMPLE_PRELOAD: The TAP instruction SAMPLE/PRELOAD, under the SCAN scope. (R579) -/
  | samplePreload
  /-- EXTEST: The TAP instruction EXTEST, under the SCAN scope. (R579) -/
  | extest
  /-- EXTEST_PULSE: The TAP instruction EXTEST_PULSE, under the SCAN scope. (R579) -/
  | extestPulse
  /-- EXTEST_TRAIN: The TAP instruction EXTEST_TRAIN, under the SCAN scope. (R579) -/
  | extestTrain
  /-- HIGHZ: The TAP instruction HIGHZ, under the SCAN scope. (R579) -/
  | highz
  /-- DBGMBOX: The private TAP instruction DBGMBOX reaches the DEBUG nonce and token registers. (R581) -/
  | dbgmbox (acc : MboxAcc)
  /-- SUBMIT: A TAP write of DEBUG_CTRL.SUBMIT submits a debug token or raises T11. (R582) -/
  | submit
  /-- GRANT: Sealed firmware writes DEBUG_CTRL.GRANT to open the scopes that the state allows. (R580) -/
  | grant (v : W32)
  /-- REFUSE: Sealed firmware writes DEBUG_CTRL.REFUSE, counting a failed token and drawing a new nonce. (R581) -/
  | refuse (v : W32)
  /-- DEBUG_HALT: A debugger halts a warden core within its granted scope. (R583) -/
  | debugHalt (core : Fin 2)
  /-- STARTUP_TEST_END: The rerun start-up test of a source taken out of service ends and returns the source to service if it passes. (R265) -/
  | startupTestEnd (src : Fin 2) (raw : BitVec 4096) (at_ : Nat)
  /-- CELL_SUPPLY_LOSS: The cell is removed while main power is absent, so the cell domain loses its supply and BK, the marks, the cell log, the evidence target and the counters are lost. (R473) -/
  | cellSupplyLoss
  /-- TAMPER_SOURCE_CLEAR: A tripped tamper source clears, re-arming it so that a later trip starts a new event and starting the clear time of a relay hold. (R457) -/
  | tamperSourceClear (src : Fin 16)
  /-- WCORE_CTRL_SPLIT: Sealed firmware writes WCORE_CTRL.SPLIT and the warden cores leave lockstep, core B standing by for TAKEOVER. (R413) -/
  | wcoreCtrlSplit
  /-- SRC_EN: A write of RNG_CTRL.SRC0_EN or SRC1_EN takes a noise source out of service or back into it, possibly setting DEGRADED or NO_SEED. (R266) -/
  | srcEn (v : W32)
  deriving DecidableEq, Repr

end Sys2Proof
end

