-- ==== Sys2Proof/Decode.lean ====
section
/-!
DEFINITION. Decode.lean: the words that spec/opcode_table.json gives bits. The L9 is a block that takes commands: no row of the table has
bits, so no word spells a command.
-/
namespace Sys2Proof

/-- The command a word spells: none, as no row of the table gives bits. -/
def decodeTableWord (_nbits _w : Nat) : Option Instr := none

end Sys2Proof
end

