-- ==== Sys2Proof/Config.lean ====
section
/-!
DEFINITION. Config.lean: what the spec leaves open. Every constant here is opaque: nothing in Lean can see its value.
Three kinds stand here. Free values: results the spec does not state, drawn with the model's own counter. Constants of one
implementation. Functions that the spec names by a standard and that the model leaves uninterpreted, so that a claim holds
whatever they compute (log entry 2).
-/
namespace Sys2Proof.Config

/-- The free values: the n-th draw. Log entry 1. -/
opaque free : Nat → Nat
/-- Byte i of the n-th free byte string. Log entry 1. -/
opaque freeByte : Nat → Nat → Byte

/-- The prime attempts that one start of an RSA key generation sees; how many it takes to hold two primes has no bound (R216). Log entry 95. -/
opaque rsaAttempts : Nat
/-- The fixed key and nonce of a public-key tile's self-test, entries of its constant store (R219): 0 the key, 1 the nonce. Log entry 22. -/
opaque selfTestConst : Nat → Nat
/-- How many entries a cipher tile's constant store has, which no rule gives (R228). Log entry 25. -/
opaque cipConsts : Nat
/-- Bytes of one row of a key-cache bank, which R497 leaves out; an implementation's constant. Log entry 16. -/
opaque kcRowBytes : Nat
/-- Whether a row of a key-cache bank holds a share of an entry: bank, row, kind and name of the entry. Log entry 16. -/
opaque kcInRow : List Nat → Bool
/-- Redundant rows of a key-cache bank, which R497 leaves out. Log entry 16. -/
opaque kcRedundant : Nat
/-- The rows of the key cache that the fuse repair map names, bank and row, from the map's bits; no rule gives its layout (R173). Log entry 16. -/
opaque kcRepair : Nat → List (Nat × Nat)
/-- The flash repairs that the fuse repair map names, bank, logical sector and spare, from the map's bits; no rule gives its layout (R435). Log
entry 16. -/
opaque flashRepair : Nat → List (Nat × Nat × Nat)
/-- The 64-bit MAC of MCRYPT: the MAC key, the numbers and the bytes it covers (R160), whose algorithm no rule names. Log entry 17. -/
opaque hbmMac : Bytes → List Nat → Bytes → W64
/-- The unique device secret, which no register returns (R70). Log entry 4. -/
opaque uds : Bytes
/-- The DICE key derivation of the boot ROM (R70, TCG DICE): which key (0 DeviceID, 1 AK, 2 SK) from UDS and the measurements; a
P-384 scalar. Log entry 2. -/
opaque diceKey : Nat → Bytes → Bytes
/-- The DER of a certificate written from its contents (X.509, R305): which (1 AK, 2 SK), its public key and its measurements, its
signature. Log entry 2. -/
opaque certDer : Nat → Bytes → Bytes
/-- The certificates stored at manufacture: 0 root CA, 1 product CA, 2 DeviceID (R305). Log entry 4. -/
opaque factoryCert : Nat → Bytes
/-- The public key, x followed by y, that the DER of an X.509 certificate carries (R305). Log entry 2. -/
opaque certKey : Bytes → Bytes
/-- Whether an X.509 certificate verifies under its issuer's certificate: their DER (R305, R332). Log entry 2. -/
opaque certSigned : Bytes → Bytes → Bool
/-- The keyed permutation of 64-bit blocks of the loop-code generator, which R459 leaves to the implementation. -/
opaque loopCode : W128 → W64 → W64
/-- Bytes of an entry of the DMK log in flash (R155), which no rule gives. Log entry 20. -/
opaque dmkEntryBytes : Nat
/-- A byte of the boot ROM, whose contents are the manufacturer's. Log entry 4. -/
opaque bootRomByte : Nat → Byte
/-- Entry i of a cipher tile's constant store, whose layout no rule gives (R228). Log entry 25. -/
opaque cipConst : Nat → W128
/-- A part of a Sealed firmware slot's stored bytes, whose header layout no rule gives (R45): 0 the image, 1 the public key, 2 the signature, 3
the version (little-endian). Log entry 38. -/
opaque fwPart : Nat → Bytes → Bytes
/-- The write-protect word n of its bank that the sectors of a Sealed firmware slot (1 A, 2 B) fill (R444); no rule places the slots. Log
entry 38. -/
opaque slotWp : Nat → Nat → W32
/-- Whether the fabric leads from a master to a block by a path of quadrants; no rule gives which quadrant holds what (R92 code 0x71). Log
entry 42. -/
opaque fabricReaches : Nat → Nat → List Nat → Bool
/-- Whether a route reaches a cluster of another world, by its index entry and the worlds of the 24 clusters; no field of a route names a
world or a cluster (R92 code 0x13). Log entry 42. -/
opaque routeCrosses : Bytes → List Nat → Bool
/-- The address and requester ID bounds that an IDE_KM message names (R140): 0 and 1 the addresses, 2 and 3 the IDs. Log entry 92. -/
opaque ideKm : Bytes → Nat → Nat
/-- Whether an applet of an image, by the image's hash, binds an opcode of 0xB0–0xBF (R124, R142), whose manifest no rule lays out. Log entry 93. -/
opaque appletBinds : Nat → Nat → Bool
/-- Whether the bytes of an Open-world firmware slot of configuration flash verify (R51 step 6), whose layout and keys no rule gives. Log
entry 45. -/
opaque openVerifies : Bytes → Bool
/-- The nominal count of a domain's reference loop, less 1, that the trim fuses hold (R20); no rule places it in them. Log entry 74. -/
opaque paceNominal : Nat → Nat → Nat
/-- The fuses as they leave manufacture, apart from what R607 names: 0 the vendor key hash, 1 PART, 2 STEPPING, 3 trim, 4 the repair map, 5 the
spare indexes. Log entry 4. -/
opaque factoryFuse : Nat → Nat
/-- What Sealed firmware slot n (1 A, 2 B) holds at manufacture: 0 image, 1 public key, 2 signature, 3 version. Log entry 4. -/
opaque factorySealed : Nat → Nat → Bytes
/-- Configuration flash as it leaves manufacture: 0 and 1 the Kygus slots, 2 and 3 the selector copies, 4 and 5 the Open-world slots. Log
entry 4. -/
opaque factoryFlash : Nat → Bytes
/-- The number of records of the factory bring-ups in the boot ledger, and the record of a SEQ (R607). Log entry 4. -/
opaque factoryRecords : Nat
opaque factoryRecord : Nat → Bytes
/-- The number of batches the factory bring-ups left in the event ring, the records in a batch less 1, and the fields of a record in the order
of R502 (R607). Log entry 4. -/
opaque factoryBatches : Nat
opaque factoryBatch : Nat → Nat
opaque factoryEvent : Nat → Nat → Nat → Nat
/-- Byte i of the endpoint UUID (R571), which no rule states. Log entry 39. -/
opaque uuidByte : Nat → Byte

end Sys2Proof.Config
end

