-- ==== Sys2Proof/Machine/Regs.lean ====
section
/-!
DEFINITION. Regs.lean: every register field of the spec's register maps, one constant a field, written from the tables
(Bits, Field, Access, Reset) of the chapters. `F.<REGISTER>_<FIELD>`; an argument k is the number of the block among
blocks of one kind (stack, cluster, port, PCIe function), n the number within an array of registers.
Reset `image` is the default of R608 (0, or 0xFF for a slot or rank, where R608 gives none: log entry 3); Reset `fuse`
is 0 until fuse load (log entry 4). Reserved bits are no field: they read 0 and ignore writes (R11).
-/
namespace Sys2Proof.Machine

/-- The access codes of R10. -/
inductive Access where
  | rw | ro | wo | w1c | w1s | ss
  deriving DecidableEq, Repr

/-- One field of one register: block number, byte offset, bits, access code, reset value. -/
structure Field where
  blk : Nat
  off : Nat
  hi : Nat
  lo : Nat
  acc : Access
  reset : Nat
  deriving DecidableEq, Repr

/-- The name of a field in the register store. -/
def Field.key (f : Field) : Nat := (f.blk * 4194304 + f.off) * 64 + f.lo

/-- The width of a field in bits. -/
def Field.width (f : Field) : Nat := f.hi - f.lo + 1

/-- The Default column of R458: the response of source n before the response settings are loaded. -/
def tamperDefault : Nat → Nat
  | 0 => 2 | 2 => 3 | 3 => 2 | 4 => 1 | 5 => 4 | 6 => 3 | 9 => 2 | 10 => 3 | 11 => 1 | 13 => 1 | 14 => 1
  | _ => 0

/-! Block numbers: the Gecko n of R38, and 0x20 on for the Landau blocks of R40 and BAR0 of function k. -/
namespace Blk
abbrev SYSCTL : Nat := 0x0
abbrev FUSE : Nat := 0x1
abbrev PWRARB : Nat := 0x2
abbrev FCOLL : Nat := 0x3
abbrev EVREC : Nat := 0x4
abbrev TAMPER : Nat := 0x5
abbrev RNG : Nat := 0x6
abbrev SCIPH : Nat := 0x7
abbrev SPKE : Nat := 0x8
abbrev FLASHC : Nat := 0x9
abbrev MPU_G : Nat := 0xa
abbrev CARD : Nat := 0xb
abbrev SDH : Nat := 0xd
abbrev TAG : Nat := 0xe
abbrev CFGSPI : Nat := 0xf
abbrev HOSTSPI : Nat := 0x10
abbrev SIDEB : Nat := 0x11
abbrev DRAWBAR : Nat := 0x12
abbrev TIMEKEEP : Nat := 0x13
abbrev TEST : Nat := 0x14
abbrev WCORE : Nat := 0x15
abbrev SENSE : Nat := 0x16
abbrev DEBUG : Nat := 0x17
abbrev STRUCT : Nat := 0x20
abbrev DISP : Nat := 0x21
abbrev KCACHE : Nat := 0x22
abbrev MCRYPT : Nat := 0x23
abbrev MPU_L : Nat := 0x24
abbrev PCIEC : Nat := 0x25
abbrev QMGR : Nat := 0x26
abbrev LTEST : Nat := 0x27
abbrev LSENSE : Nat := 0x28
abbrev HBMC : Nat := 0x30
abbrev STAGE : Nat := 0x34
abbrev PKEC : Nat := 0x40
abbrev CIPC : Nat := 0x50
abbrev BAR0 : Nat := 0x80
end Blk

namespace F

abbrev LSENSE_PACE_PACE_MIN : Field := ⟨Blk.LSENSE, 0x0, 31, 16, .ro, 0⟩
abbrev LSENSE_PACE_MIN_DOMAIN : Field := ⟨Blk.LSENSE, 0x0, 15, 8, .ro, 0⟩
abbrev LSENSE_PACE_LOW : Field := ⟨Blk.LSENSE, 0x0, 1, 1, .w1c, 0⟩
abbrev LSENSE_PACE_VALID : Field := ⟨Blk.LSENSE, 0x0, 0, 0, .ro, 0⟩
abbrev LSENSE_PACE_FLOOR_FLOOR : Field := ⟨Blk.LSENSE, 0x4, 15, 0, .rw, 500⟩
abbrev SYSCTL_ID_DEVICE : Field := ⟨Blk.SYSCTL, 0x0, 31, 16, .ro, 0x9400⟩
abbrev SYSCTL_ID_STEPPING : Field := ⟨Blk.SYSCTL, 0x0, 15, 8, .ro, 0⟩
abbrev SYSCTL_ID_PART : Field := ⟨Blk.SYSCTL, 0x0, 0, 0, .ro, 0⟩
abbrev SYSCTL_STATE_SAFE : Field := ⟨Blk.SYSCTL, 0x4, 15, 15, .ro, 0⟩
abbrev SYSCTL_STATE_OWNER_PERIOD : Field := ⟨Blk.SYSCTL, 0x4, 12, 12, .ro, 0⟩
abbrev SYSCTL_STATE_SEALED_SLOT : Field := ⟨Blk.SYSCTL, 0x4, 11, 10, .ro, 0⟩
abbrev SYSCTL_STATE_IMAGE_SLOT : Field := ⟨Blk.SYSCTL, 0x4, 9, 8, .ro, 0⟩
abbrev SYSCTL_STATE_OPEN_READY : Field := ⟨Blk.SYSCTL, 0x4, 7, 7, .ro, 0⟩
abbrev SYSCTL_STATE_OPEN_FW_OK : Field := ⟨Blk.SYSCTL, 0x4, 6, 6, .ro, 0⟩
abbrev SYSCTL_STATE_HBM_READY : Field := ⟨Blk.SYSCTL, 0x4, 5, 5, .ro, 0⟩
abbrev SYSCTL_STATE_LANDAU_BUILT : Field := ⟨Blk.SYSCTL, 0x4, 4, 4, .ro, 0⟩
abbrev SYSCTL_STATE_HOST_RELEASED : Field := ⟨Blk.SYSCTL, 0x4, 3, 3, .ro, 0⟩
abbrev SYSCTL_STATE_LIFECYCLE : Field := ⟨Blk.SYSCTL, 0x4, 2, 0, .ro, 0⟩
abbrev SYSCTL_RSTCAUSE_PERST : Field := ⟨Blk.SYSCTL, 0x8, 17, 17, .w1c, 0⟩
abbrev SYSCTL_RSTCAUSE_LANDAU : Field := ⟨Blk.SYSCTL, 0x8, 16, 16, .w1c, 0⟩
abbrev SYSCTL_RSTCAUSE_LIFECYCLE : Field := ⟨Blk.SYSCTL, 0x8, 8, 8, .w1c, 0⟩
abbrev SYSCTL_RSTCAUSE_DEBUG : Field := ⟨Blk.SYSCTL, 0x8, 7, 7, .w1c, 0⟩
abbrev SYSCTL_RSTCAUSE_CORE_STOP : Field := ⟨Blk.SYSCTL, 0x8, 6, 6, .w1c, 0⟩
abbrev SYSCTL_RSTCAUSE_TAMPER : Field := ⟨Blk.SYSCTL, 0x8, 5, 5, .w1c, 0⟩
abbrev SYSCTL_RSTCAUSE_FAULT : Field := ⟨Blk.SYSCTL, 0x8, 4, 4, .w1c, 0⟩
abbrev SYSCTL_RSTCAUSE_REQUEST : Field := ⟨Blk.SYSCTL, 0x8, 3, 3, .w1c, 0⟩
abbrev SYSCTL_RSTCAUSE_BROWNOUT : Field := ⟨Blk.SYSCTL, 0x8, 2, 2, .w1c, 0⟩
abbrev SYSCTL_RSTCAUSE_MAIN_POR : Field := ⟨Blk.SYSCTL, 0x8, 1, 1, .w1c, 0⟩
abbrev SYSCTL_RSTCAUSE_CELL_POR : Field := ⟨Blk.SYSCTL, 0x8, 0, 0, .w1c, 1⟩
abbrev SYSCTL_RESET_KEY : Field := ⟨Blk.SYSCTL, 0xc, 31, 16, .wo, 0⟩
abbrev SYSCTL_RESET_KIND : Field := ⟨Blk.SYSCTL, 0xc, 3, 0, .wo, 0⟩
abbrev SYSCTL_RELEASE_OPEN : Field := ⟨Blk.SYSCTL, 0x10, 0, 0, .ss, 0⟩
abbrev SYSCTL_BOOTATT_SAT : Field := ⟨Blk.SYSCTL, 0x14, 8, 8, .ro, 0⟩
abbrev SYSCTL_BOOTATT_COUNT : Field := ⟨Blk.SYSCTL, 0x14, 7, 0, .rw, 0⟩
abbrev FUSE_STATUS_MISMATCH : Field := ⟨Blk.FUSE, 0x0, 2, 2, .ro, 0⟩
abbrev FUSE_STATUS_LOADED : Field := ⟨Blk.FUSE, 0x0, 1, 1, .ro, 0⟩
abbrev FUSE_STATUS_BUSY : Field := ⟨Blk.FUSE, 0x0, 0, 0, .ro, 0⟩
abbrev FUSE_LIFECYCLE_RMA1 : Field := ⟨Blk.FUSE, 0x4, 13, 12, .ro, 0⟩
abbrev FUSE_LIFECYCLE_DEPLOYED1 : Field := ⟨Blk.FUSE, 0x4, 11, 10, .ro, 0⟩
abbrev FUSE_LIFECYCLE_OWNED1 : Field := ⟨Blk.FUSE, 0x4, 9, 8, .ro, 0⟩
abbrev FUSE_LIFECYCLE_DECOM : Field := ⟨Blk.FUSE, 0x4, 7, 6, .ro, 0⟩
abbrev FUSE_LIFECYCLE_RMA : Field := ⟨Blk.FUSE, 0x4, 5, 4, .ro, 0⟩
abbrev FUSE_LIFECYCLE_DEPLOYED : Field := ⟨Blk.FUSE, 0x4, 3, 2, .ro, 0⟩
abbrev FUSE_LIFECYCLE_OWNED : Field := ⟨Blk.FUSE, 0x4, 1, 0, .ro, 0⟩
abbrev FUSE_OPTIONS_DEBUG_OFF : Field := ⟨Blk.FUSE, 0x8, 1, 1, .ro, 0⟩
abbrev FUSE_OPTIONS_PART : Field := ⟨Blk.FUSE, 0x8, 0, 0, .ro, 0⟩
abbrev FUSE_SRCDIS_DISABLE : Field := ⟨Blk.FUSE, 0xc, 15, 0, .ro, 0⟩
abbrev FUSE_PROG_CTRL_KEY : Field := ⟨Blk.FUSE, 0x14, 31, 24, .wo, 0⟩
abbrev FUSE_PROG_CTRL_TARGET : Field := ⟨Blk.FUSE, 0x14, 19, 16, .wo, 0⟩
abbrev FUSE_PROG_CTRL_INDEX : Field := ⟨Blk.FUSE, 0x14, 15, 0, .wo, 0⟩
abbrev FUSE_PROG_RESULT_REASON : Field := ⟨Blk.FUSE, 0x18, 7, 4, .ro, 0⟩
abbrev FUSE_PROG_RESULT_REFUSED : Field := ⟨Blk.FUSE, 0x18, 1, 1, .w1c, 0⟩
abbrev FUSE_PROG_RESULT_DONE : Field := ⟨Blk.FUSE, 0x18, 0, 0, .w1c, 0⟩
abbrev STRUCT_STATUS_STATE : Field := ⟨Blk.STRUCT, 0x0, 3, 0, .ro, 0⟩
abbrev STRUCT_CTRL_KEY : Field := ⟨Blk.STRUCT, 0x4, 31, 16, .wo, 0⟩
abbrev STRUCT_CTRL_CMD : Field := ⟨Blk.STRUCT, 0x4, 3, 0, .wo, 0⟩
abbrev STRUCT_ERROR_INDEX : Field := ⟨Blk.STRUCT, 0x8, 31, 16, .ro, 0⟩
abbrev STRUCT_ERROR_SECTION : Field := ⟨Blk.STRUCT, 0x8, 15, 8, .ro, 0⟩
abbrev STRUCT_ERROR_CODE : Field := ⟨Blk.STRUCT, 0x8, 7, 0, .ro, 0⟩
abbrev STRUCT_SEL_TYPE : Field := ⟨Blk.STRUCT, 0xc, 15, 0, .rw, 0⟩
abbrev STRUCT_DATA_WORD : Field := ⟨Blk.STRUCT, 0x10, 31, 0, .wo, 0⟩
abbrev STRUCT_MODE_ALLOWED : Field := ⟨Blk.STRUCT, 0x14, 11, 8, .ro, 0⟩
abbrev STRUCT_MODE_START : Field := ⟨Blk.STRUCT, 0x14, 5, 4, .ro, 0⟩
abbrev STRUCT_MODE_CURRENT : Field := ⟨Blk.STRUCT, 0x14, 1, 0, .ro, 0⟩
abbrev STRUCT_IMGHASH_HASH (n : Nat) : Field := ⟨Blk.STRUCT, 0x40 + 4 * n, 31, 0, .rw, 0⟩
abbrev STRUCT_AMEND_CLASS : Field := ⟨Blk.STRUCT, 0x74, 31, 28, .rw, 0⟩
abbrev STRUCT_AMEND_UNIT : Field := ⟨Blk.STRUCT, 0x74, 23, 16, .rw, 0⟩
abbrev STRUCT_AMEND_RETIRE : Field := ⟨Blk.STRUCT, 0x74, 15, 8, .rw, 0⟩
abbrev STRUCT_AMEND_SPARE : Field := ⟨Blk.STRUCT, 0x74, 7, 0, .rw, 0⟩
abbrev STRUCT_DRAIN_GO : Field := ⟨Blk.STRUCT, 0x80, 31, 31, .w1s, 0⟩
abbrev STRUCT_DRAIN_DONE : Field := ⟨Blk.STRUCT, 0x80, 30, 30, .ro, 0⟩
abbrev STRUCT_DRAIN_CUT : Field := ⟨Blk.STRUCT, 0x80, 29, 29, .ro, 0⟩
abbrev STRUCT_DRAIN_CLASS : Field := ⟨Blk.STRUCT, 0x80, 26, 24, .rw, 0⟩
abbrev STRUCT_DRAIN_UNIT : Field := ⟨Blk.STRUCT, 0x80, 20, 16, .rw, 0⟩
abbrev STRUCT_DRAIN_INDEX : Field := ⟨Blk.STRUCT, 0x80, 4, 0, .rw, 0⟩
abbrev STRUCT_PKEMAP_WORLD (n : Nat) : Field := ⟨Blk.STRUCT, 0x100 + 4 * n, 31, 31, .ro, 0⟩
abbrev STRUCT_PKEMAP_RETIRED (n : Nat) : Field := ⟨Blk.STRUCT, 0x100 + 4 * n, 26, 18, .ro, 0⟩
abbrev STRUCT_PKEMAP_SPARE (n : Nat) : Field := ⟨Blk.STRUCT, 0x100 + 4 * n, 17, 9, .ro, 0⟩
abbrev STRUCT_PKEMAP_ACTIVE (n : Nat) : Field := ⟨Blk.STRUCT, 0x100 + 4 * n, 8, 0, .ro, 0⟩
abbrev STRUCT_CIPMAP_WORLD (n : Nat) : Field := ⟨Blk.STRUCT, 0x140 + 4 * n, 31, 31, .ro, 0⟩
abbrev STRUCT_CIPMAP_RETIRED (n : Nat) : Field := ⟨Blk.STRUCT, 0x140 + 4 * n, 26, 18, .ro, 0⟩
abbrev STRUCT_CIPMAP_SPARE (n : Nat) : Field := ⟨Blk.STRUCT, 0x140 + 4 * n, 17, 9, .ro, 0⟩
abbrev STRUCT_CIPMAP_ACTIVE (n : Nat) : Field := ⟨Blk.STRUCT, 0x140 + 4 * n, 8, 0, .ro, 0⟩
abbrev STRUCT_DISPMAP_WORLD (n : Nat) : Field := ⟨Blk.STRUCT, 0x160 + 4 * n, 20, 16, .ro, 0⟩
abbrev STRUCT_DISPMAP_RETIRED (n : Nat) : Field := ⟨Blk.STRUCT, 0x160 + 4 * n, 14, 10, .ro, 0⟩
abbrev STRUCT_DISPMAP_SPARE (n : Nat) : Field := ⟨Blk.STRUCT, 0x160 + 4 * n, 9, 5, .ro, 0⟩
abbrev STRUCT_DISPMAP_ACTIVE (n : Nat) : Field := ⟨Blk.STRUCT, 0x160 + 4 * n, 4, 0, .ro, 0⟩
abbrev DEVINFO_ID_DEVICE (k : Nat) : Field := ⟨Blk.BAR0 + k, 0x0, 31, 16, .ro, if k = 0 then 0x9400 else 0x9401⟩
abbrev DEVINFO_ID_VENDOR (k : Nat) : Field := ⟨Blk.BAR0 + k, 0x0, 15, 0, .ro, 0x1FA7⟩
abbrev DEVINFO_IF_MAJOR (k : Nat) : Field := ⟨Blk.BAR0 + k, 0x4, 15, 8, .ro, 0x01⟩
abbrev DEVINFO_IF_MINOR (k : Nat) : Field := ⟨Blk.BAR0 + k, 0x4, 7, 0, .ro, 0x00⟩
abbrev DEVINFO_FUNC_VF (k : Nat) : Field := ⟨Blk.BAR0 + k, 0x8, 31, 31, .ro, if k = 0 then 0 else 1⟩
abbrev DEVINFO_FUNC_FN (k : Nat) : Field := ⟨Blk.BAR0 + k, 0x8, 21, 16, .ro, k⟩
abbrev DEVINFO_FUNC_DOMAIN (k : Nat) : Field := ⟨Blk.BAR0 + k, 0x8, 11, 0, .ro, 0⟩
abbrev DEVINFO_LIMITS_TAGS (k : Nat) : Field := ⟨Blk.BAR0 + k, 0xc, 31, 16, .ro, 0⟩
abbrev DEVINFO_LIMITS_QPS (k : Nat) : Field := ⟨Blk.BAR0 + k, 0xc, 12, 0, .ro, 0⟩
abbrev DEVINFO_VECTORS_VECTORS (k : Nat) : Field := ⟨Blk.BAR0 + k, 0x10, 11, 0, .ro, 0⟩
abbrev DEVINFO_WINDOW_WINDOW_ID (k : Nat) : Field := ⟨Blk.BAR0 + k, 0x14, 31, 0, .ro, 0⟩
abbrev DEVINFO_EFFECT_EFFECTFUL (k : Nat) (n : Nat) : Field := ⟨Blk.BAR0 + k, 0x20 + 4 * n, 31, 0, .ro, 0⟩
abbrev ADMIN_CTRL_EN (k : Nat) : Field := ⟨Blk.BAR0 + k, 0x1000, 0, 0, .rw, 0⟩
abbrev ADMIN_STATUS_SAFE (k : Nat) : Field := ⟨Blk.BAR0 + k, 0x1004, 2, 2, .ro, 0⟩
abbrev ADMIN_STATUS_FUNC_ERR (k : Nat) : Field := ⟨Blk.BAR0 + k, 0x1004, 1, 1, .ro, 0⟩
abbrev ADMIN_STATUS_RDY (k : Nat) : Field := ⟨Blk.BAR0 + k, 0x1004, 0, 0, .ro, 0⟩
abbrev ADMIN_AQSIZE_ACQ (k : Nat) : Field := ⟨Blk.BAR0 + k, 0x1008, 27, 16, .rw, 0⟩
abbrev ADMIN_AQSIZE_ASQ (k : Nat) : Field := ⟨Blk.BAR0 + k, 0x1008, 11, 0, .rw, 0⟩
abbrev ADMIN_ASQ_BASE (k : Nat) : Field := ⟨Blk.BAR0 + k, 0x1010, 63, 12, .rw, 0⟩
abbrev ADMIN_ACQ_BASE (k : Nat) : Field := ⟨Blk.BAR0 + k, 0x1018, 63, 12, .rw, 0⟩
abbrev TELE_STATUS_MODE (k : Nat) : Field := ⟨Blk.BAR0 + k, 0x200000, 5, 4, .ro, 0⟩
abbrev TELE_STATUS_FUNC_ERR (k : Nat) : Field := ⟨Blk.BAR0 + k, 0x200000, 2, 2, .ro, 0⟩
abbrev TELE_STATUS_DB_ERR (k : Nat) : Field := ⟨Blk.BAR0 + k, 0x200000, 1, 1, .w1c, 0⟩
abbrev TELE_STATUS_SAFE (k : Nat) : Field := ⟨Blk.BAR0 + k, 0x200000, 0, 0, .ro, 0⟩
abbrev TELE_PACE_PACE_MIN (k : Nat) : Field := ⟨Blk.BAR0 + k, 0x200004, 31, 16, .ro, 0⟩
abbrev TELE_PACE_VALID (k : Nat) : Field := ⟨Blk.BAR0 + k, 0x200004, 0, 0, .ro, 0⟩
abbrev TELE_DBERR_VALUE (k : Nat) : Field := ⟨Blk.BAR0 + k, 0x200008, 31, 16, .ro, 0⟩
abbrev TELE_DBERR_CQ (k : Nat) : Field := ⟨Blk.BAR0 + k, 0x200008, 15, 15, .ro, 0⟩
abbrev TELE_DBERR_QID (k : Nat) : Field := ⟨Blk.BAR0 + k, 0x200008, 12, 0, .ro, 0⟩
abbrev TELE_INFLIGHT_COUNT (k : Nat) : Field := ⟨Blk.BAR0 + k, 0x20000c, 14, 0, .ro, 0⟩
abbrev QMGR_CTRL_SAFE : Field := ⟨Blk.QMGR, 0x0, 1, 1, .ro, 0⟩
abbrev QMGR_CTRL_FETCH : Field := ⟨Blk.QMGR, 0x0, 0, 0, .ss, 0⟩
abbrev QMGR_STATUS_INFLIGHT : Field := ⟨Blk.QMGR, 0x4, 30, 16, .ro, 0⟩
abbrev QMGR_STATUS_IDLE : Field := ⟨Blk.QMGR, 0x4, 0, 0, .ro, 1⟩
abbrev QMGR_WINDOW_ID : Field := ⟨Blk.QMGR, 0x8, 31, 0, .ro, 0⟩
abbrev QMGR_DUPS_SAT : Field := ⟨Blk.QMGR, 0xc, 31, 31, .ro, 0⟩
abbrev QMGR_DUPS_COUNT : Field := ⟨Blk.QMGR, 0xc, 30, 0, .ro, 0⟩
abbrev QMGR_ABORTS_SAT : Field := ⟨Blk.QMGR, 0x10, 31, 31, .ro, 0⟩
abbrev QMGR_ABORTS_COUNT : Field := ⟨Blk.QMGR, 0x10, 30, 0, .ro, 0⟩
abbrev QMGR_FNERR_ERR (n : Nat) : Field := ⟨Blk.QMGR, 0x20 + 4 * n, 31, 0, .ro, 0⟩
abbrev QMGR_EFFECT_EFFECTFUL (n : Nat) : Field := ⟨Blk.QMGR, 0x40 + 4 * n, 31, 0, .ro, 0⟩
abbrev PCIEC_LINK_UP : Field := ⟨Blk.PCIEC, 0x0, 31, 31, .ro, 0⟩
abbrev PCIEC_LINK_LTSSM : Field := ⟨Blk.PCIEC, 0x0, 21, 16, .ro, 0⟩
abbrev PCIEC_LINK_WIDTH : Field := ⟨Blk.PCIEC, 0x0, 9, 4, .ro, 0⟩
abbrev PCIEC_LINK_SPEED : Field := ⟨Blk.PCIEC, 0x0, 3, 0, .ro, 0⟩
abbrev PCIEC_SUBSYS_SSID : Field := ⟨Blk.PCIEC, 0x4, 31, 16, .ro, 0⟩
abbrev PCIEC_SUBSYS_SVID : Field := ⟨Blk.PCIEC, 0x4, 15, 0, .ro, 0⟩
abbrev PCIEC_IDE_FAILS : Field := ⟨Blk.PCIEC, 0x8, 31, 17, .ro, 0⟩
abbrev PCIEC_IDE_SAT : Field := ⟨Blk.PCIEC, 0x8, 16, 16, .ro, 0⟩
abbrev PCIEC_IDE_REQUIRED : Field := ⟨Blk.PCIEC, 0x8, 8, 8, .ro, 0⟩
abbrev PCIEC_IDE_STATE : Field := ⟨Blk.PCIEC, 0x8, 1, 0, .ro, 0⟩
abbrev PCIEC_CERR_SAT : Field := ⟨Blk.PCIEC, 0xc, 31, 31, .ro, 0⟩
abbrev PCIEC_CERR_COUNT : Field := ⟨Blk.PCIEC, 0xc, 30, 0, .ro, 0⟩
abbrev KCACHE_STATUS_ZEROISING : Field := ⟨Blk.KCACHE, 0x0, 2, 2, .ro, 0⟩
abbrev KCACHE_STATUS_ZERO_DONE : Field := ⟨Blk.KCACHE, 0x0, 1, 1, .w1c, 0⟩
abbrev KCACHE_STATUS_READY : Field := ⟨Blk.KCACHE, 0x0, 0, 0, .ro, 0⟩
abbrev KCACHE_CTRL_CMD : Field := ⟨Blk.KCACHE, 0x4, 31, 28, .wo, 0⟩
abbrev KCACHE_CTRL_DOMAIN : Field := ⟨Blk.KCACHE, 0x4, 27, 16, .wo, 0⟩
abbrev KCACHE_CTRL_KEY : Field := ⟨Blk.KCACHE, 0x4, 15, 0, .wo, 0⟩
abbrev KCACHE_REFRESH_USES : Field := ⟨Blk.KCACHE, 0x8, 15, 0, .rw, 256⟩
abbrev KCACHE_HITS_SAT : Field := ⟨Blk.KCACHE, 0x10, 31, 31, .ro, 0⟩
abbrev KCACHE_HITS_COUNT : Field := ⟨Blk.KCACHE, 0x10, 30, 0, .ro, 0⟩
abbrev KCACHE_MISSES_SAT : Field := ⟨Blk.KCACHE, 0x14, 31, 31, .ro, 0⟩
abbrev KCACHE_MISSES_COUNT : Field := ⟨Blk.KCACHE, 0x14, 30, 0, .ro, 0⟩
abbrev MCRYPT_STATUS_TREE_READY : Field := ⟨Blk.MCRYPT, 0x0, 7, 4, .ro, 0⟩
abbrev MCRYPT_STATUS_KEY_VALID : Field := ⟨Blk.MCRYPT, 0x0, 0, 0, .ro, 0⟩
abbrev MCRYPT_INTFAIL_SAT : Field := ⟨Blk.MCRYPT, 0x4, 31, 31, .ro, 0⟩
abbrev MCRYPT_INTFAIL_COUNT : Field := ⟨Blk.MCRYPT, 0x4, 30, 0, .ro, 0⟩
abbrev MCRYPT_T10_WINDOW : Field := ⟨Blk.MCRYPT, 0x8, 31, 16, .rw, 1000⟩
abbrev MCRYPT_T10_LIMIT : Field := ⟨Blk.MCRYPT, 0x8, 7, 0, .rw, 16⟩
abbrev MCRYPT_LASTFAIL_KIND : Field := ⟨Blk.MCRYPT, 0x10, 63, 60, .ro, 0⟩
abbrev MCRYPT_LASTFAIL_LEVEL : Field := ⟨Blk.MCRYPT, 0x10, 59, 56, .ro, 0⟩
abbrev MCRYPT_LASTFAIL_STACK : Field := ⟨Blk.MCRYPT, 0x10, 33, 32, .ro, 0⟩
abbrev MCRYPT_LASTFAIL_LINE : Field := ⟨Blk.MCRYPT, 0x10, 31, 0, .ro, 0⟩
abbrev MCRYPT_POISON_LINES : Field := ⟨Blk.MCRYPT, 0x18, 31, 0, .ro, 0⟩
abbrev HBMC_STATUS_TRAINED (k : Nat) : Field := ⟨Blk.HBMC + k, 0x0, 31, 31, .ro, 0⟩
abbrev HBMC_STATUS_RATE (k : Nat) : Field := ⟨Blk.HBMC + k, 0x0, 25, 24, .ro, 0⟩
abbrev HBMC_STATUS_SPARE_PC (k : Nat) : Field := ⟨Blk.HBMC + k, 0x0, 20, 16, .ro, 0⟩
abbrev HBMC_STATUS_SPARE_USED (k : Nat) : Field := ⟨Blk.HBMC + k, 0x0, 8, 8, .ro, 0⟩
abbrev HBMC_STATUS_LOST (k : Nat) : Field := ⟨Blk.HBMC + k, 0x0, 0, 0, .ro, 0⟩
abbrev HBMC_SWAP_GO (k : Nat) : Field := ⟨Blk.HBMC + k, 0x4, 31, 31, .w1s, 0⟩
abbrev HBMC_SWAP_DONE (k : Nat) : Field := ⟨Blk.HBMC + k, 0x4, 30, 30, .ro, 0⟩
abbrev HBMC_SWAP_MIRROR (k : Nat) : Field := ⟨Blk.HBMC + k, 0x4, 29, 29, .ro, 0⟩
abbrev HBMC_SWAP_ERR (k : Nat) : Field := ⟨Blk.HBMC + k, 0x4, 27, 24, .ro, 0⟩
abbrev HBMC_SWAP_RETIRE (k : Nat) : Field := ⟨Blk.HBMC + k, 0x4, 20, 16, .rw, 0⟩
abbrev HBMC_COPY_MIB (k : Nat) : Field := ⟨Blk.HBMC + k, 0x8, 10, 0, .ro, 0⟩
abbrev HBMC_CERR_SAT (k : Nat) : Field := ⟨Blk.HBMC + k, 0xc, 31, 31, .ro, 0⟩
abbrev HBMC_CERR_COUNT (k : Nat) : Field := ⟨Blk.HBMC + k, 0xc, 30, 0, .ro, 0⟩
abbrev SPKE_CTRL_GO : Field := ⟨Blk.SPKE, 0x0, 31, 31, .w1s, 0⟩
abbrev SPKE_CTRL_SLOT : Field := ⟨Blk.SPKE, 0x0, 11, 8, .rw, 0⟩
abbrev SPKE_CTRL_OP : Field := ⟨Blk.SPKE, 0x0, 7, 0, .rw, 0⟩
abbrev SPKE_STATUS_BUSY : Field := ⟨Blk.SPKE, 0x4, 31, 31, .ro, 0⟩
abbrev SPKE_STATUS_DONE : Field := ⟨Blk.SPKE, 0x4, 30, 30, .w1c, 0⟩
abbrev SPKE_STATUS_RESULT : Field := ⟨Blk.SPKE, 0x4, 7, 0, .ro, 0⟩
abbrev SPKE_PARAM_ADDR : Field := ⟨Blk.SPKE, 0x8, 31, 0, .rw, 0⟩
abbrev PKEC_STATUS_COMB_READY (k : Nat) : Field := ⟨Blk.PKEC + k, 0x0, 31, 31, .ro, 0⟩
abbrev PKEC_STATUS_COMB_BUILDING (k : Nat) : Field := ⟨Blk.PKEC + k, 0x0, 30, 30, .ro, 0⟩
abbrev PKEC_STATUS_TESTING (k : Nat) : Field := ⟨Blk.PKEC + k, 0x0, 17, 9, .ro, 0⟩
abbrev PKEC_STATUS_BUSY (k : Nat) : Field := ⟨Blk.PKEC + k, 0x0, 8, 0, .ro, 0⟩
abbrev PKEC_COMB_REFRESH (k : Nat) : Field := ⟨Blk.PKEC + k, 0x4, 31, 31, .w1s, 0⟩
abbrev PKEC_COMB_DONE (k : Nat) : Field := ⟨Blk.PKEC + k, 0x4, 30, 30, .w1c, 0⟩
abbrev PKEC_COMB_SAT (k : Nat) : Field := ⟨Blk.PKEC + k, 0x4, 15, 15, .ro, 0⟩
abbrev PKEC_COMB_EPOCH (k : Nat) : Field := ⟨Blk.PKEC + k, 0x4, 14, 0, .ro, 0⟩
abbrev PKEC_SELFTEST_GO (k : Nat) : Field := ⟨Blk.PKEC + k, 0x8, 31, 31, .w1s, 0⟩
abbrev PKEC_SELFTEST_DONE (k : Nat) : Field := ⟨Blk.PKEC + k, 0x8, 30, 30, .w1c, 0⟩
abbrev PKEC_SELFTEST_FAIL (k : Nat) : Field := ⟨Blk.PKEC + k, 0x8, 29, 29, .w1c, 0⟩
abbrev PKEC_SELFTEST_ERR (k : Nat) : Field := ⟨Blk.PKEC + k, 0x8, 23, 20, .ro, 0⟩
abbrev PKEC_SELFTEST_TILE (k : Nat) : Field := ⟨Blk.PKEC + k, 0x8, 3, 0, .rw, 0⟩
abbrev PKEC_SRAM_UNCORR (k : Nat) : Field := ⟨Blk.PKEC + k, 0xc, 31, 31, .w1c, 0⟩
abbrev PKEC_SRAM_SAT (k : Nat) : Field := ⟨Blk.PKEC + k, 0xc, 15, 15, .ro, 0⟩
abbrev PKEC_SRAM_CORRECTED (k : Nat) : Field := ⟨Blk.PKEC + k, 0xc, 14, 0, .ro, 0⟩
abbrev PKEC_LASTSCF_OPCODE (k : Nat) : Field := ⟨Blk.PKEC + k, 0x10, 31, 24, .ro, 0⟩
abbrev PKEC_LASTSCF_TILE (k : Nat) : Field := ⟨Blk.PKEC + k, 0x10, 23, 20, .ro, 0⟩
abbrev PKEC_LASTSCF_DOMAIN (k : Nat) : Field := ⟨Blk.PKEC + k, 0x10, 19, 8, .ro, 0⟩
abbrev PKEC_LASTSCF_CLASS (k : Nat) : Field := ⟨Blk.PKEC + k, 0x10, 7, 0, .ro, 0⟩
abbrev PKEC_SCF_SAT (k : Nat) (n : Nat) : Field := ⟨Blk.PKEC + k, 0x40 + 4 * n, 31, 31, .ro, 0⟩
abbrev PKEC_SCF_COUNT (k : Nat) (n : Nat) : Field := ⟨Blk.PKEC + k, 0x40 + 4 * n, 30, 0, .ro, 0⟩
abbrev SCIPH_CTRL_GO : Field := ⟨Blk.SCIPH, 0x0, 31, 31, .w1s, 0⟩
abbrev SCIPH_CTRL_SLOT : Field := ⟨Blk.SCIPH, 0x0, 11, 8, .rw, 0⟩
abbrev SCIPH_CTRL_OP : Field := ⟨Blk.SCIPH, 0x0, 7, 0, .rw, 0⟩
abbrev SCIPH_STATUS_BUSY : Field := ⟨Blk.SCIPH, 0x4, 31, 31, .ro, 0⟩
abbrev SCIPH_STATUS_DONE : Field := ⟨Blk.SCIPH, 0x4, 30, 30, .w1c, 0⟩
abbrev SCIPH_STATUS_RESULT : Field := ⟨Blk.SCIPH, 0x4, 7, 0, .ro, 0⟩
abbrev SCIPH_PARAM_ADDR : Field := ⟨Blk.SCIPH, 0x8, 31, 0, .rw, 0⟩
abbrev SCIPH_SLOTS_VALID : Field := ⟨Blk.SCIPH, 0xc, 7, 0, .ro, 0⟩
abbrev CIPC_STATUS_TESTING (k : Nat) : Field := ⟨Blk.CIPC + k, 0x0, 26, 18, .ro, 0⟩
abbrev CIPC_STATUS_SUSPENDED (k : Nat) : Field := ⟨Blk.CIPC + k, 0x0, 17, 9, .ro, 0⟩
abbrev CIPC_STATUS_BUSY (k : Nat) : Field := ⟨Blk.CIPC + k, 0x0, 8, 0, .ro, 0⟩
abbrev CIPC_URGENT_GAP (k : Nat) : Field := ⟨Blk.CIPC + k, 0x4, 31, 24, .rw, 16⟩
abbrev CIPC_URGENT_LONG (k : Nat) : Field := ⟨Blk.CIPC + k, 0x4, 15, 8, .rw, 10⟩
abbrev CIPC_URGENT_SHORT (k : Nat) : Field := ⟨Blk.CIPC + k, 0x4, 7, 0, .rw, 50⟩
abbrev CIPC_SELFTEST_GO (k : Nat) : Field := ⟨Blk.CIPC + k, 0x8, 31, 31, .w1s, 0⟩
abbrev CIPC_SELFTEST_DONE (k : Nat) : Field := ⟨Blk.CIPC + k, 0x8, 30, 30, .w1c, 0⟩
abbrev CIPC_SELFTEST_FAIL (k : Nat) : Field := ⟨Blk.CIPC + k, 0x8, 29, 29, .w1c, 0⟩
abbrev CIPC_SELFTEST_ERR (k : Nat) : Field := ⟨Blk.CIPC + k, 0x8, 23, 20, .ro, 0⟩
abbrev CIPC_SELFTEST_TILE (k : Nat) : Field := ⟨Blk.CIPC + k, 0x8, 3, 0, .rw, 0⟩
abbrev CIPC_SUSP_SAT (k : Nat) : Field := ⟨Blk.CIPC + k, 0xc, 31, 31, .ro, 0⟩
abbrev CIPC_SUSP_COUNT (k : Nat) : Field := ⟨Blk.CIPC + k, 0xc, 30, 0, .ro, 0⟩
abbrev CIPC_LOCK_HOLD (k : Nat) (n : Nat) : Field := ⟨Blk.CIPC + k, 0x40 + 4 * n, 31, 31, .rw, 0⟩
abbrev CIPC_LOCK_OWNER (k : Nat) (n : Nat) : Field := ⟨Blk.CIPC + k, 0x40 + 4 * n, 27, 24, .ro, 0⟩
abbrev CIPC_LOCK_DOMAIN1 (k : Nat) (n : Nat) : Field := ⟨Blk.CIPC + k, 0x40 + 4 * n, 23, 12, .ro, 0⟩
abbrev CIPC_LOCK_DOMAIN0 (k : Nat) (n : Nat) : Field := ⟨Blk.CIPC + k, 0x40 + 4 * n, 11, 0, .ro, 0⟩
abbrev RNG_CTRL_RAW_EXPORT : Field := ⟨Blk.RNG, 0x0, 8, 8, .rw, 0⟩
abbrev RNG_CTRL_STRICT : Field := ⟨Blk.RNG, 0x0, 4, 4, .rw, 0⟩
abbrev RNG_CTRL_SRC1_EN : Field := ⟨Blk.RNG, 0x0, 1, 1, .rw, 1⟩
abbrev RNG_CTRL_SRC0_EN : Field := ⟨Blk.RNG, 0x0, 0, 0, .rw, 1⟩
abbrev RNG_STATUS_DATA_ERR : Field := ⟨Blk.RNG, 0x4, 11, 11, .w1c, 0⟩
abbrev RNG_STATUS_KAT_FAIL : Field := ⟨Blk.RNG, 0x4, 10, 10, .ro, 0⟩
abbrev RNG_STATUS_NO_SEED : Field := ⟨Blk.RNG, 0x4, 9, 9, .ro, 0⟩
abbrev RNG_STATUS_DEGRADED : Field := ⟨Blk.RNG, 0x4, 8, 8, .ro, 0⟩
abbrev RNG_STATUS_FAIL1 : Field := ⟨Blk.RNG, 0x4, 5, 5, .w1c, 0⟩
abbrev RNG_STATUS_FAIL0 : Field := ⟨Blk.RNG, 0x4, 4, 4, .w1c, 0⟩
abbrev RNG_STATUS_STATE1 : Field := ⟨Blk.RNG, 0x4, 3, 2, .ro, 0⟩
abbrev RNG_STATUS_STATE0 : Field := ⟨Blk.RNG, 0x4, 1, 0, .ro, 0⟩
abbrev RNG_HEALTH_APT_CUTOFF : Field := ⟨Blk.RNG, 0x8, 31, 16, .rw, 795⟩
abbrev RNG_HEALTH_RCT_CUTOFF : Field := ⟨Blk.RNG, 0x8, 7, 0, .rw, 41⟩
abbrev RNG_FAILS_SAT (n : Nat) : Field := ⟨Blk.RNG, 0xc + 4 * n, 31, 31, .ro, 0⟩
abbrev RNG_FAILS_COUNT (n : Nat) : Field := ⟨Blk.RNG, 0xc + 4 * n, 30, 0, .ro, 0⟩
abbrev RNG_BIAS_ONES (n : Nat) : Field := ⟨Blk.RNG, 0x14 + 4 * n, 31, 16, .ro, 0⟩
abbrev RNG_BIAS_EQUAL (n : Nat) : Field := ⟨Blk.RNG, 0x14 + 4 * n, 15, 0, .ro, 0⟩
abbrev RNG_RESEED_STALL_MS : Field := ⟨Blk.RNG, 0x1c, 15, 8, .rw, 100⟩
abbrev RNG_RESEED_INTERVAL_LOG2 : Field := ⟨Blk.RNG, 0x1c, 4, 0, .rw, 20⟩
abbrev RNG_SEEDS_SAT : Field := ⟨Blk.RNG, 0x20, 31, 31, .ro, 0⟩
abbrev RNG_SEEDS_COUNT : Field := ⟨Blk.RNG, 0x20, 30, 0, .ro, 0⟩
abbrev RNG_STALLED_INST : Field := ⟨Blk.RNG, 0x24, 28, 0, .ro, 0⟩
abbrev RNG_STRETCH_INST : Field := ⟨Blk.RNG, 0x28, 28, 0, .ro, 0⟩
abbrev RNG_CONSTR_COUNT : Field := ⟨Blk.RNG, 0x2c, 31, 0, .ro, 0⟩
abbrev RNG_RAW_VALID : Field := ⟨Blk.RNG, 0x30, 31, 31, .ro, 0⟩
abbrev RNG_RAW_SOURCE : Field := ⟨Blk.RNG, 0x30, 24, 24, .rw, 0⟩
abbrev RNG_RAW_BITS : Field := ⟨Blk.RNG, 0x30, 15, 0, .ro, 0⟩
abbrev RNG_DATA_VALUE : Field := ⟨Blk.RNG, 0x34, 31, 0, .ro, 0⟩
abbrev HOSTSPI_CTRL_MEASURE : Field := ⟨Blk.HOSTSPI, 0x0, 31, 31, .w1s, 0⟩
abbrev HOSTSPI_CTRL_RELEASE : Field := ⟨Blk.HOSTSPI, 0x0, 30, 30, .w1s, 0⟩
abbrev HOSTSPI_CTRL_LOAD : Field := ⟨Blk.HOSTSPI, 0x0, 29, 29, .w1s, 0⟩
abbrev HOSTSPI_STATUS_HOLD : Field := ⟨Blk.HOSTSPI, 0x4, 31, 31, .ro, 1⟩
abbrev HOSTSPI_STATUS_HOST_RST : Field := ⟨Blk.HOSTSPI, 0x4, 30, 30, .ro, 0⟩
abbrev HOSTSPI_STATUS_MEASURING : Field := ⟨Blk.HOSTSPI, 0x4, 29, 29, .ro, 0⟩
abbrev HOSTSPI_STATUS_MEASURED : Field := ⟨Blk.HOSTSPI, 0x4, 28, 28, .w1c, 0⟩
abbrev HOSTSPI_STATUS_MAP_VALID : Field := ⟨Blk.HOSTSPI, 0x4, 27, 27, .ro, 0⟩
abbrev HOSTSPI_STATUS_RESET_SEEN : Field := ⟨Blk.HOSTSPI, 0x4, 26, 26, .w1c, 0⟩
abbrev HOSTSPI_STATUS_MAP_ERR : Field := ⟨Blk.HOSTSPI, 0x4, 25, 25, .w1c, 0⟩
abbrev HOSTSPI_MAPADDR_VALUE : Field := ⟨Blk.HOSTSPI, 0x8, 31, 0, .rw, 0⟩
abbrev HOSTSPI_MAPLEN_VALUE : Field := ⟨Blk.HOSTSPI, 0xc, 31, 0, .rw, 0⟩
abbrev HOSTSPI_MEASURE_RECOVERY : Field := ⟨Blk.HOSTSPI, 0x10, 15, 8, .rw, 0⟩
abbrev HOSTSPI_MEASURE_PRIMARY : Field := ⟨Blk.HOSTSPI, 0x10, 7, 0, .rw, 0⟩
abbrev HOSTSPI_RESULT_RECOVERY : Field := ⟨Blk.HOSTSPI, 0x14, 31, 16, .ro, 0⟩
abbrev HOSTSPI_RESULT_PRIMARY : Field := ⟨Blk.HOSTSPI, 0x14, 15, 0, .ro, 0⟩
abbrev HOSTSPI_OPEN_REGIONS : Field := ⟨Blk.HOSTSPI, 0x18, 7, 0, .rw, 0⟩
abbrev HOSTSPI_REDIR_REGIONS : Field := ⟨Blk.HOSTSPI, 0x1c, 7, 0, .rw, 0⟩
abbrev HOSTSPI_BLOCKED_SAT : Field := ⟨Blk.HOSTSPI, 0x20, 31, 31, .ro, 0⟩
abbrev HOSTSPI_BLOCKED_COUNT : Field := ⟨Blk.HOSTSPI, 0x20, 30, 0, .ro, 0⟩
abbrev HOSTSPI_RESETS_SAT : Field := ⟨Blk.HOSTSPI, 0x24, 31, 31, .ro, 0⟩
abbrev HOSTSPI_RESETS_COUNT : Field := ⟨Blk.HOSTSPI, 0x24, 30, 0, .ro, 0⟩
abbrev HOSTSPI_UNKNOWN_SAT : Field := ⟨Blk.HOSTSPI, 0x28, 31, 31, .ro, 0⟩
abbrev HOSTSPI_UNKNOWN_COUNT : Field := ⟨Blk.HOSTSPI, 0x28, 30, 0, .ro, 0⟩
abbrev HOSTSPI_LAST_OPCODE : Field := ⟨Blk.HOSTSPI, 0x2c, 31, 24, .ro, 0⟩
abbrev HOSTSPI_LAST_DEVICE : Field := ⟨Blk.HOSTSPI, 0x2c, 23, 23, .ro, 0⟩
abbrev HOSTSPI_LASTADDR_ADDR : Field := ⟨Blk.HOSTSPI, 0x30, 31, 0, .ro, 0⟩
abbrev HOSTSPI_RATE_MODE1 : Field := ⟨Blk.HOSTSPI, 0x34, 23, 20, .ro, 0⟩
abbrev HOSTSPI_RATE_MODE0 : Field := ⟨Blk.HOSTSPI, 0x34, 19, 16, .ro, 0⟩
abbrev HOSTSPI_RATE_MBPS : Field := ⟨Blk.HOSTSPI, 0x34, 15, 0, .ro, 0⟩
abbrev HOSTSPI_DIGSEL_REC : Field := ⟨Blk.HOSTSPI, 0x3c, 3, 3, .rw, 0⟩
abbrev HOSTSPI_DIGSEL_REGION : Field := ⟨Blk.HOSTSPI, 0x3c, 2, 0, .rw, 0⟩
abbrev HOSTSPI_DIGEST_HASH (n : Nat) : Field := ⟨Blk.HOSTSPI, 0x40 + 4 * n, 31, 0, .ro, 0⟩
abbrev WCORE_STATUS_STATE_B : Field := ⟨Blk.WCORE, 0x0, 7, 6, .ro, 0⟩
abbrev WCORE_STATUS_STATE_A : Field := ⟨Blk.WCORE, 0x0, 5, 4, .ro, 0⟩
abbrev WCORE_STATUS_ARR : Field := ⟨Blk.WCORE, 0x0, 1, 0, .ro, 0⟩
abbrev WCORE_CTRL_SPLIT : Field := ⟨Blk.WCORE, 0x4, 0, 0, .ss, 0⟩
abbrev WCORE_STOPA_PC : Field := ⟨Blk.WCORE, 0x8, 63, 32, .ro, 0⟩
abbrev WCORE_STOPA_VALID : Field := ⟨Blk.WCORE, 0x8, 31, 31, .w1c, 0⟩
abbrev WCORE_STOPA_W : Field := ⟨Blk.WCORE, 0x8, 25, 25, .ro, 0⟩
abbrev WCORE_STOPA_L : Field := ⟨Blk.WCORE, 0x8, 24, 24, .ro, 0⟩
abbrev WCORE_STOPA_ORIG : Field := ⟨Blk.WCORE, 0x8, 15, 8, .ro, 0⟩
abbrev WCORE_STOPA_CODE : Field := ⟨Blk.WCORE, 0x8, 7, 0, .ro, 0⟩
abbrev WCORE_STOPB_PC : Field := ⟨Blk.WCORE, 0x10, 63, 32, .ro, 0⟩
abbrev WCORE_STOPB_VALID : Field := ⟨Blk.WCORE, 0x10, 31, 31, .w1c, 0⟩
abbrev WCORE_STOPB_W : Field := ⟨Blk.WCORE, 0x10, 25, 25, .ro, 0⟩
abbrev WCORE_STOPB_L : Field := ⟨Blk.WCORE, 0x10, 24, 24, .ro, 0⟩
abbrev WCORE_STOPB_ORIG : Field := ⟨Blk.WCORE, 0x10, 15, 8, .ro, 0⟩
abbrev WCORE_STOPB_CODE : Field := ⟨Blk.WCORE, 0x10, 7, 0, .ro, 0⟩
abbrev MPU_G_CTRL_ARB_LOCK : Field := ⟨Blk.MPU_G, 0x0, 1, 1, .ss, 0⟩
abbrev MPU_G_CTRL_FENCE_LOCK : Field := ⟨Blk.MPU_G, 0x0, 0, 0, .ss, 0⟩
abbrev MPU_G_SYNC_PENDING : Field := ⟨Blk.MPU_G, 0x4, 31, 31, .ro, 0⟩
abbrev MPU_G_SYNC_ERR : Field := ⟨Blk.MPU_G, 0x4, 30, 30, .w1c, 0⟩
abbrev MPU_G_SYNC_MASTERS : Field := ⟨Blk.MPU_G, 0x4, 23, 0, .wo, 0⟩
abbrev MPU_L_SYNC_PENDING : Field := ⟨Blk.MPU_L, 0x4, 31, 31, .ro, 0⟩
abbrev MPU_L_SYNC_ERR : Field := ⟨Blk.MPU_L, 0x4, 30, 30, .w1c, 0⟩
abbrev MPU_L_SYNC_MASTERS : Field := ⟨Blk.MPU_L, 0x4, 23, 0, .wo, 0⟩
abbrev MPU_G_SYNCERR_MASTER : Field := ⟨Blk.MPU_G, 0x8, 12, 8, .ro, 0⟩
abbrev MPU_G_SYNCERR_REGION : Field := ⟨Blk.MPU_G, 0x8, 3, 0, .ro, 0⟩
abbrev MPU_L_SYNCERR_MASTER : Field := ⟨Blk.MPU_L, 0x8, 12, 8, .ro, 0⟩
abbrev MPU_L_SYNCERR_REGION : Field := ⟨Blk.MPU_L, 0x8, 3, 0, .ro, 0⟩
abbrev MPU_G_VIOL_VALID : Field := ⟨Blk.MPU_G, 0x10, 63, 63, .w1c, 0⟩
abbrev MPU_G_VIOL_KIND : Field := ⟨Blk.MPU_G, 0x10, 62, 62, .ro, 0⟩
abbrev MPU_G_VIOL_WRITE : Field := ⟨Blk.MPU_G, 0x10, 61, 61, .ro, 0⟩
abbrev MPU_G_VIOL_FETCH : Field := ⟨Blk.MPU_G, 0x10, 60, 60, .ro, 0⟩
abbrev MPU_G_VIOL_W : Field := ⟨Blk.MPU_G, 0x10, 59, 59, .ro, 0⟩
abbrev MPU_G_VIOL_L : Field := ⟨Blk.MPU_G, 0x10, 58, 58, .ro, 0⟩
abbrev MPU_G_VIOL_MASTER : Field := ⟨Blk.MPU_G, 0x10, 57, 53, .ro, 0⟩
abbrev MPU_G_VIOL_REGION : Field := ⟨Blk.MPU_G, 0x10, 52, 48, .ro, 0⟩
abbrev MPU_G_VIOL_ADDR : Field := ⟨Blk.MPU_G, 0x10, 39, 0, .ro, 0⟩
abbrev MPU_L_VIOL_VALID : Field := ⟨Blk.MPU_L, 0x10, 63, 63, .w1c, 0⟩
abbrev MPU_L_VIOL_KIND : Field := ⟨Blk.MPU_L, 0x10, 62, 62, .ro, 0⟩
abbrev MPU_L_VIOL_WRITE : Field := ⟨Blk.MPU_L, 0x10, 61, 61, .ro, 0⟩
abbrev MPU_L_VIOL_FETCH : Field := ⟨Blk.MPU_L, 0x10, 60, 60, .ro, 0⟩
abbrev MPU_L_VIOL_W : Field := ⟨Blk.MPU_L, 0x10, 59, 59, .ro, 0⟩
abbrev MPU_L_VIOL_L : Field := ⟨Blk.MPU_L, 0x10, 58, 58, .ro, 0⟩
abbrev MPU_L_VIOL_MASTER : Field := ⟨Blk.MPU_L, 0x10, 57, 53, .ro, 0⟩
abbrev MPU_L_VIOL_REGION : Field := ⟨Blk.MPU_L, 0x10, 52, 48, .ro, 0⟩
abbrev MPU_L_VIOL_ADDR : Field := ⟨Blk.MPU_L, 0x10, 39, 0, .ro, 0⟩
abbrev MPU_G_VCOUNT_SAT : Field := ⟨Blk.MPU_G, 0x18, 31, 31, .ro, 0⟩
abbrev MPU_G_VCOUNT_COUNT : Field := ⟨Blk.MPU_G, 0x18, 30, 0, .ro, 0⟩
abbrev MPU_L_VCOUNT_SAT : Field := ⟨Blk.MPU_L, 0x18, 31, 31, .ro, 0⟩
abbrev MPU_L_VCOUNT_COUNT : Field := ⟨Blk.MPU_L, 0x18, 30, 0, .ro, 0⟩
abbrev MPU_G_ADDR_BASE (m r : Nat) : Field := ⟨Blk.MPU_G, 0x100 + m * 0x100 + r * 0x10, 39, 12, .rw, 0⟩
abbrev MPU_G_ADDR_SIZE (m r : Nat) : Field := ⟨Blk.MPU_G, 0x100 + m * 0x100 + r * 0x10, 5, 0, .rw, 0⟩
abbrev MPU_L_ADDR_BASE (m r : Nat) : Field := ⟨Blk.MPU_L, 0x1000 + m * 0x100 + r * 0x10, 39, 12, .rw, 0⟩
abbrev MPU_L_ADDR_SIZE (m r : Nat) : Field := ⟨Blk.MPU_L, 0x1000 + m * 0x100 + r * 0x10, 5, 0, .rw, 0⟩
abbrev MPU_G_ATTR_SUBOFF (m r : Nat) : Field := ⟨Blk.MPU_G, 0x108 + m * 0x100 + r * 0x10, 31, 24, .rw, 0⟩
abbrev MPU_G_ATTR_SEALED (m r : Nat) : Field := ⟨Blk.MPU_G, 0x108 + m * 0x100 + r * 0x10, 9, 9, .rw, 0⟩
abbrev MPU_G_ATTR_OPEN (m r : Nat) : Field := ⟨Blk.MPU_G, 0x108 + m * 0x100 + r * 0x10, 8, 8, .rw, 0⟩
abbrev MPU_G_ATTR_XS (m r : Nat) : Field := ⟨Blk.MPU_G, 0x108 + m * 0x100 + r * 0x10, 6, 6, .rw, 0⟩
abbrev MPU_G_ATTR_WS (m r : Nat) : Field := ⟨Blk.MPU_G, 0x108 + m * 0x100 + r * 0x10, 5, 5, .rw, 0⟩
abbrev MPU_G_ATTR_RS (m r : Nat) : Field := ⟨Blk.MPU_G, 0x108 + m * 0x100 + r * 0x10, 4, 4, .rw, 0⟩
abbrev MPU_G_ATTR_XU (m r : Nat) : Field := ⟨Blk.MPU_G, 0x108 + m * 0x100 + r * 0x10, 2, 2, .rw, 0⟩
abbrev MPU_G_ATTR_WU (m r : Nat) : Field := ⟨Blk.MPU_G, 0x108 + m * 0x100 + r * 0x10, 1, 1, .rw, 0⟩
abbrev MPU_G_ATTR_RU (m r : Nat) : Field := ⟨Blk.MPU_G, 0x108 + m * 0x100 + r * 0x10, 0, 0, .rw, 0⟩
abbrev MPU_L_ATTR_SUBOFF (m r : Nat) : Field := ⟨Blk.MPU_L, 0x1008 + m * 0x100 + r * 0x10, 31, 24, .rw, 0⟩
abbrev MPU_L_ATTR_SEALED (m r : Nat) : Field := ⟨Blk.MPU_L, 0x1008 + m * 0x100 + r * 0x10, 9, 9, .rw, 0⟩
abbrev MPU_L_ATTR_OPEN (m r : Nat) : Field := ⟨Blk.MPU_L, 0x1008 + m * 0x100 + r * 0x10, 8, 8, .rw, 0⟩
abbrev MPU_L_ATTR_XS (m r : Nat) : Field := ⟨Blk.MPU_L, 0x1008 + m * 0x100 + r * 0x10, 6, 6, .rw, 0⟩
abbrev MPU_L_ATTR_WS (m r : Nat) : Field := ⟨Blk.MPU_L, 0x1008 + m * 0x100 + r * 0x10, 5, 5, .rw, 0⟩
abbrev MPU_L_ATTR_RS (m r : Nat) : Field := ⟨Blk.MPU_L, 0x1008 + m * 0x100 + r * 0x10, 4, 4, .rw, 0⟩
abbrev MPU_L_ATTR_XU (m r : Nat) : Field := ⟨Blk.MPU_L, 0x1008 + m * 0x100 + r * 0x10, 2, 2, .rw, 0⟩
abbrev MPU_L_ATTR_WU (m r : Nat) : Field := ⟨Blk.MPU_L, 0x1008 + m * 0x100 + r * 0x10, 1, 1, .rw, 0⟩
abbrev MPU_L_ATTR_RU (m r : Nat) : Field := ⟨Blk.MPU_L, 0x1008 + m * 0x100 + r * 0x10, 0, 0, .rw, 0⟩
abbrev STAGE_STATUS_LOCKED (k : Nat) : Field := ⟨Blk.STAGE + k, 0x0, 31, 31, .ro, 0⟩
abbrev STAGE_STATUS_SLOT (k : Nat) : Field := ⟨Blk.STAGE + k, 0x0, 15, 8, .ro, 0⟩
abbrev STAGE_STATUS_OWNER (k : Nat) : Field := ⟨Blk.STAGE + k, 0x0, 7, 0, .ro, 0xFF⟩
abbrev STAGE_CTRL_LOCK (k : Nat) : Field := ⟨Blk.STAGE + k, 0x4, 0, 0, .ss, 0⟩
abbrev STAGE_SLOT_SLOT3 (k : Nat) (n : Nat) : Field := ⟨Blk.STAGE + k, 0x100 + 4 * n, 31, 24, .rw, 0xFF⟩
abbrev STAGE_SLOT_SLOT2 (k : Nat) (n : Nat) : Field := ⟨Blk.STAGE + k, 0x100 + 4 * n, 23, 16, .rw, 0xFF⟩
abbrev STAGE_SLOT_SLOT1 (k : Nat) (n : Nat) : Field := ⟨Blk.STAGE + k, 0x100 + 4 * n, 15, 8, .rw, 0xFF⟩
abbrev STAGE_SLOT_SLOT0 (k : Nat) (n : Nat) : Field := ⟨Blk.STAGE + k, 0x100 + 4 * n, 7, 0, .rw, 0xFF⟩
abbrev STAGE_RANK_RANK3 (k : Nat) (n : Nat) : Field := ⟨Blk.STAGE + k, 0x200 + 4 * n, 31, 24, .rw, 0xFF⟩
abbrev STAGE_RANK_RANK2 (k : Nat) (n : Nat) : Field := ⟨Blk.STAGE + k, 0x200 + 4 * n, 23, 16, .rw, 0xFF⟩
abbrev STAGE_RANK_RANK1 (k : Nat) (n : Nat) : Field := ⟨Blk.STAGE + k, 0x200 + 4 * n, 15, 8, .rw, 0xFF⟩
abbrev STAGE_RANK_RANK0 (k : Nat) (n : Nat) : Field := ⟨Blk.STAGE + k, 0x200 + 4 * n, 7, 0, .rw, 0xFF⟩
abbrev FLASHC_STATUS_BUSY : Field := ⟨Blk.FLASHC, 0x0, 31, 31, .ro, 0⟩
abbrev FLASHC_STATUS_DONE : Field := ⟨Blk.FLASHC, 0x0, 30, 30, .w1c, 0⟩
abbrev FLASHC_STATUS_SUSP : Field := ⟨Blk.FLASHC, 0x0, 29, 28, .ro, 0⟩
abbrev FLASHC_STATUS_WEAK : Field := ⟨Blk.FLASHC, 0x0, 27, 27, .w1c, 0⟩
abbrev FLASHC_STATUS_UNCORR : Field := ⟨Blk.FLASHC, 0x0, 26, 26, .w1c, 0⟩
abbrev FLASHC_STATUS_HALF : Field := ⟨Blk.FLASHC, 0x0, 25, 25, .ro, 0⟩
abbrev FLASHC_STATUS_FIELD : Field := ⟨Blk.FLASHC, 0x0, 24, 24, .ro, 0⟩
abbrev FLASHC_STATUS_OP : Field := ⟨Blk.FLASHC, 0x0, 19, 16, .ro, 0⟩
abbrev FLASHC_CMD_KEY : Field := ⟨Blk.FLASHC, 0x4, 31, 16, .wo, 0⟩
abbrev FLASHC_CMD_OP : Field := ⟨Blk.FLASHC, 0x4, 3, 0, .wo, 0⟩
abbrev FLASHC_ADDR_VALUE : Field := ⟨Blk.FLASHC, 0x8, 31, 0, .rw, 0⟩
abbrev FLASHC_SRC_VALUE : Field := ⟨Blk.FLASHC, 0xc, 31, 0, .rw, 0⟩
abbrev FLASHC_LEN_VALUE : Field := ⟨Blk.FLASHC, 0x10, 31, 0, .rw, 0⟩
abbrev FLASHC_RESULT_ERR : Field := ⟨Blk.FLASHC, 0x14, 31, 28, .ro, 0⟩
abbrev FLASHC_RESULT_MAXCNT : Field := ⟨Blk.FLASHC, 0x14, 27, 24, .ro, 0⟩
abbrev FLASHC_RESULT_LOST : Field := ⟨Blk.FLASHC, 0x14, 15, 8, .ro, 0⟩
abbrev FLASHC_ECCTHR_T13_LIMIT : Field := ⟨Blk.FLASHC, 0x18, 15, 8, .rw, 16⟩
abbrev FLASHC_ECCTHR_THRESH : Field := ⟨Blk.FLASHC, 0x18, 2, 0, .rw, 3⟩
abbrev FLASHC_ECCLAST_COUNT : Field := ⟨Blk.FLASHC, 0x1c, 31, 29, .ro, 0⟩
abbrev FLASHC_ECCLAST_BANK : Field := ⟨Blk.FLASHC, 0x1c, 23, 23, .ro, 0⟩
abbrev FLASHC_ECCLAST_OFFSET : Field := ⟨Blk.FLASHC, 0x1c, 21, 0, .ro, 0⟩
abbrev FLASHC_WEAK_VALID : Field := ⟨Blk.FLASHC, 0x20, 31, 31, .w1c, 0⟩
abbrev FLASHC_WEAK_BANK : Field := ⟨Blk.FLASHC, 0x20, 23, 23, .ro, 0⟩
abbrev FLASHC_WEAK_SECTOR : Field := ⟨Blk.FLASHC, 0x20, 9, 0, .ro, 0⟩
abbrev FLASHC_CORR_SAT : Field := ⟨Blk.FLASHC, 0x24, 31, 31, .ro, 0⟩
abbrev FLASHC_CORR_COUNT : Field := ⟨Blk.FLASHC, 0x24, 30, 0, .ro, 0⟩
abbrev FLASHC_UNCORR_SAT : Field := ⟨Blk.FLASHC, 0x28, 31, 31, .ro, 0⟩
abbrev FLASHC_UNCORR_COUNT : Field := ⟨Blk.FLASHC, 0x28, 30, 0, .ro, 0⟩
abbrev FLASHC_SPARE_USED1 : Field := ⟨Blk.FLASHC, 0x2c, 13, 8, .ro, 0⟩
abbrev FLASHC_SPARE_USED0 : Field := ⟨Blk.FLASHC, 0x2c, 5, 0, .ro, 0⟩
abbrev FLASHC_CTRL_ZLOCK : Field := ⟨Blk.FLASHC, 0x30, 0, 0, .ss, 0⟩
abbrev FLASHC_HALF_VALID (n : Nat) : Field := ⟨Blk.FLASHC, 0x34 + 4 * n, 31, 31, .ro, 0⟩
abbrev FLASHC_HALF_COUNT (n : Nat) : Field := ⟨Blk.FLASHC, 0x34 + 4 * n, 24, 16, .ro, 0⟩
abbrev FLASHC_HALF_FIRST (n : Nat) : Field := ⟨Blk.FLASHC, 0x34 + 4 * n, 9, 0, .ro, 0⟩
abbrev FLASHC_ZRANGE_VALID (n : Nat) : Field := ⟨Blk.FLASHC, 0x40 + 4 * n, 31, 31, .rw, 0⟩
abbrev FLASHC_ZRANGE_BANK (n : Nat) : Field := ⟨Blk.FLASHC, 0x40 + 4 * n, 24, 24, .rw, 0⟩
abbrev FLASHC_ZRANGE_COUNT (n : Nat) : Field := ⟨Blk.FLASHC, 0x40 + 4 * n, 23, 16, .rw, 0⟩
abbrev FLASHC_ZRANGE_FIRST (n : Nat) : Field := ⟨Blk.FLASHC, 0x40 + 4 * n, 9, 0, .rw, 0⟩
abbrev FLASHC_WP0_PROTECT (n : Nat) : Field := ⟨Blk.FLASHC, 0x100 + 4 * n, 31, 0, .ss, 0⟩
abbrev FLASHC_WP1_PROTECT (n : Nat) : Field := ⟨Blk.FLASHC, 0x180 + 4 * n, 31, 0, .ss, 0⟩
abbrev TAMPER_STATUS_ZALL_DONE : Field := ⟨Blk.TAMPER, 0x0, 7, 7, .ro, 0⟩
abbrev TAMPER_STATUS_SELFTEST_BUSY : Field := ⟨Blk.TAMPER, 0x0, 6, 6, .ro, 0⟩
abbrev TAMPER_STATUS_CELL_EVENTS : Field := ⟨Blk.TAMPER, 0x0, 5, 5, .ro, 0⟩
abbrev TAMPER_STATUS_EVID_FULL : Field := ⟨Blk.TAMPER, 0x0, 4, 4, .ro, 0⟩
abbrev TAMPER_STATUS_HOLD : Field := ⟨Blk.TAMPER, 0x0, 3, 3, .ro, 0⟩
abbrev TAMPER_STATUS_BK_VALID : Field := ⟨Blk.TAMPER, 0x0, 2, 2, .ro, 0⟩
abbrev TAMPER_STATUS_ZPEND : Field := ⟨Blk.TAMPER, 0x0, 1, 1, .ro, 0⟩
abbrev TAMPER_STATUS_LOCKED : Field := ⟨Blk.TAMPER, 0x0, 0, 0, .ro, 0⟩
abbrev TAMPER_CTRL_KEY : Field := ⟨Blk.TAMPER, 0x4, 31, 16, .wo, 0⟩
abbrev TAMPER_CTRL_ZALL : Field := ⟨Blk.TAMPER, 0x4, 4, 4, .wo, 0⟩
abbrev TAMPER_CTRL_BKGEN : Field := ⟨Blk.TAMPER, 0x4, 3, 3, .wo, 0⟩
abbrev TAMPER_CTRL_ZDONE : Field := ⟨Blk.TAMPER, 0x4, 2, 2, .wo, 0⟩
abbrev TAMPER_CTRL_UNLOCK : Field := ⟨Blk.TAMPER, 0x4, 1, 1, .wo, 0⟩
abbrev TAMPER_CTRL_CFG_LOCK : Field := ⟨Blk.TAMPER, 0x4, 0, 0, .ss, 0⟩
abbrev TAMPER_ALARM_TRIPPED : Field := ⟨Blk.TAMPER, 0x8, 31, 16, .ro, 0⟩
abbrev TAMPER_ALARM_LATCHED : Field := ⟨Blk.TAMPER, 0x8, 15, 0, .w1c, 0⟩
abbrev TAMPER_DISAGREE_LATCHED : Field := ⟨Blk.TAMPER, 0xc, 15, 0, .w1c, 0⟩
abbrev TAMPER_LAST_SOURCES : Field := ⟨Blk.TAMPER, 0x10, 31, 16, .ro, 0⟩
abbrev TAMPER_LAST_EXECUTED : Field := ⟨Blk.TAMPER, 0x10, 10, 8, .ro, 0⟩
abbrev TAMPER_LAST_CELL : Field := ⟨Blk.TAMPER, 0x10, 0, 0, .ro, 0⟩
abbrev TAMPER_EVID_FULL : Field := ⟨Blk.TAMPER, 0x14, 25, 25, .ro, 0⟩
abbrev TAMPER_EVID_TARGET : Field := ⟨Blk.TAMPER, 0x14, 24, 16, .ro, 0⟩
abbrev TAMPER_EVID_PROGRAMMED : Field := ⟨Blk.TAMPER, 0x14, 8, 0, .ro, 0⟩
abbrev TAMPER_SELFTEST_GO : Field := ⟨Blk.TAMPER, 0x18, 31, 31, .w1s, 0⟩
abbrev TAMPER_SELFTEST_DONE : Field := ⟨Blk.TAMPER, 0x18, 30, 30, .w1c, 0⟩
abbrev TAMPER_SELFTEST_FAIL : Field := ⟨Blk.TAMPER, 0x18, 29, 29, .w1c, 0⟩
abbrev TAMPER_SELFTEST_ERR : Field := ⟨Blk.TAMPER, 0x18, 23, 20, .ro, 0⟩
abbrev TAMPER_SELFTEST_DET : Field := ⟨Blk.TAMPER, 0x18, 8, 8, .rw, 0⟩
abbrev TAMPER_SELFTEST_SOURCE : Field := ⟨Blk.TAMPER, 0x18, 3, 0, .rw, 0⟩
abbrev TAMPER_FORCE_TRIP : Field := ⟨Blk.TAMPER, 0x1c, 15, 0, .w1s, 0⟩
abbrev TAMPER_CELLLOG_SECONDS : Field := ⟨Blk.TAMPER, 0x20, 63, 32, .ro, 0⟩
abbrev TAMPER_CELLLOG_VALID : Field := ⟨Blk.TAMPER, 0x20, 31, 31, .ro, 0⟩
abbrev TAMPER_CELLLOG_OVERFLOW : Field := ⟨Blk.TAMPER, 0x20, 30, 30, .ro, 0⟩
abbrev TAMPER_CELLLOG_LOSTCNT : Field := ⟨Blk.TAMPER, 0x20, 26, 19, .ro, 0⟩
abbrev TAMPER_CELLLOG_EXECUTED : Field := ⟨Blk.TAMPER, 0x20, 18, 16, .ro, 0⟩
abbrev TAMPER_CELLLOG_SOURCES : Field := ⟨Blk.TAMPER, 0x20, 15, 0, .ro, 0⟩
abbrev TAMPER_RESP_DISABLED (n : Nat) : Field := ⟨Blk.TAMPER, 0x40 + 4 * n, 31, 31, .ro, 0⟩
abbrev TAMPER_RESP_EVID (n : Nat) : Field := ⟨Blk.TAMPER, 0x40 + 4 * n, 8, 8, .rw, 0⟩
abbrev TAMPER_RESP_CELL (n : Nat) : Field := ⟨Blk.TAMPER, 0x40 + 4 * n, 6, 4, .rw, tamperDefault n⟩
abbrev TAMPER_RESP_MAIN (n : Nat) : Field := ⟨Blk.TAMPER, 0x40 + 4 * n, 2, 0, .rw, tamperDefault n⟩
abbrev TAMPER_COUNT_SAT (n : Nat) : Field := ⟨Blk.TAMPER, 0x80 + 4 * n, 31, 31, .ro, 0⟩
abbrev TAMPER_COUNT_COUNT (n : Nat) : Field := ⟨Blk.TAMPER, 0x80 + 4 * n, 30, 0, .ro, 0⟩
abbrev FCOLL_STATUS_SAFE : Field := ⟨Blk.FCOLL, 0x0, 31, 31, .ro, 0⟩
abbrev FCOLL_STATUS_QUIET : Field := ⟨Blk.FCOLL, 0x0, 30, 30, .ro, 0⟩
abbrev FCOLL_STATUS_HOLD : Field := ⟨Blk.FCOLL, 0x0, 29, 29, .ro, 0⟩
abbrev FCOLL_STATUS_LIMIT : Field := ⟨Blk.FCOLL, 0x0, 28, 28, .w1c, 0⟩
abbrev FCOLL_STATUS_RETIRE_REQ : Field := ⟨Blk.FCOLL, 0x0, 27, 27, .ro, 0⟩
abbrev FCOLL_STATUS_EXIT : Field := ⟨Blk.FCOLL, 0x0, 9, 8, .ro, 0⟩
abbrev FCOLL_STATUS_SAFE_CODE : Field := ⟨Blk.FCOLL, 0x0, 7, 0, .ro, 0⟩
abbrev FCOLL_CTRL_KEY : Field := ⟨Blk.FCOLL, 0x4, 31, 16, .wo, 0⟩
abbrev FCOLL_CTRL_RCLR : Field := ⟨Blk.FCOLL, 0x4, 2, 2, .wo, 0⟩
abbrev FCOLL_CTRL_EXIT : Field := ⟨Blk.FCOLL, 0x4, 1, 1, .wo, 0⟩
abbrev FCOLL_CTRL_RETIRE_ACK : Field := ⟨Blk.FCOLL, 0x4, 0, 0, .wo, 0⟩
abbrev FCOLL_QUIET_MS : Field := ⟨Blk.FCOLL, 0x8, 15, 0, .rw, 2000⟩
abbrev FCOLL_RLIMIT_WINDOW : Field := ⟨Blk.FCOLL, 0xc, 31, 16, .rw, 3600⟩
abbrev FCOLL_RLIMIT_LIMIT : Field := ⟨Blk.FCOLL, 0xc, 7, 0, .rw, 3⟩
abbrev FCOLL_RECOV_SAT : Field := ⟨Blk.FCOLL, 0x10, 31, 31, .ro, 0⟩
abbrev FCOLL_RECOV_COUNT : Field := ⟨Blk.FCOLL, 0x10, 15, 0, .ro, 0⟩
abbrev FCOLL_RETIRE_VALID : Field := ⟨Blk.FCOLL, 0x14, 31, 31, .ro, 0⟩
abbrev FCOLL_RETIRE_CLASS : Field := ⟨Blk.FCOLL, 0x14, 30, 28, .ro, 0⟩
abbrev FCOLL_RETIRE_UNIT : Field := ⟨Blk.FCOLL, 0x14, 23, 16, .ro, 0⟩
abbrev FCOLL_RETIRE_PART : Field := ⟨Blk.FCOLL, 0x14, 15, 8, .ro, 0⟩
abbrev FCOLL_RETIRE_REASON : Field := ⟨Blk.FCOLL, 0x14, 7, 0, .ro, 0⟩
abbrev FCOLL_LAST_SECONDS : Field := ⟨Blk.FCOLL, 0x18, 63, 32, .ro, 0⟩
abbrev FCOLL_LAST_FORCED : Field := ⟨Blk.FCOLL, 0x18, 31, 31, .ro, 0⟩
abbrev FCOLL_LAST_CLASS : Field := ⟨Blk.FCOLL, 0x18, 30, 29, .ro, 0⟩
abbrev FCOLL_LAST_UNIT : Field := ⟨Blk.FCOLL, 0x18, 23, 16, .ro, 0⟩
abbrev FCOLL_LAST_PART : Field := ⟨Blk.FCOLL, 0x18, 15, 8, .ro, 0⟩
abbrev FCOLL_LAST_CODE : Field := ⟨Blk.FCOLL, 0x18, 7, 0, .ro, 0⟩
abbrev FCOLL_FORCE_GO : Field := ⟨Blk.FCOLL, 0x20, 31, 31, .w1s, 0⟩
abbrev FCOLL_FORCE_UNIT : Field := ⟨Blk.FCOLL, 0x20, 23, 16, .rw, 0⟩
abbrev FCOLL_FORCE_PART : Field := ⟨Blk.FCOLL, 0x20, 15, 8, .rw, 0⟩
abbrev FCOLL_FORCE_CODE : Field := ⟨Blk.FCOLL, 0x20, 7, 0, .rw, 0⟩
abbrev FCOLL_TILETHR_SCF_LIMIT : Field := ⟨Blk.FCOLL, 0x24, 31, 24, .rw, 3⟩
abbrev FCOLL_TILETHR_WINDOW : Field := ⟨Blk.FCOLL, 0x24, 15, 0, .rw, 24⟩
abbrev FCOLL_HBMTHR_PC_LIMIT : Field := ⟨Blk.FCOLL, 0x28, 31, 16, .rw, 4096⟩
abbrev FCOLL_HBMTHR_ROW_LIMIT : Field := ⟨Blk.FCOLL, 0x28, 7, 0, .rw, 2⟩
abbrev FCOLL_LANETHR_LIMIT : Field := ⟨Blk.FCOLL, 0x2c, 15, 0, .rw, 16⟩
abbrev FCOLL_COUNT_SAT (n : Nat) : Field := ⟨Blk.FCOLL, 0x100 + 4 * n, 31, 31, .ro, 0⟩
abbrev FCOLL_COUNT_COUNT (n : Nat) : Field := ⟨Blk.FCOLL, 0x100 + 4 * n, 30, 0, .ro, 0⟩
abbrev EVREC_STATUS_STAGED : Field := ⟨Blk.EVREC, 0x0, 15, 8, .ro, 0⟩
abbrev EVREC_STATUS_OPEN : Field := ⟨Blk.EVREC, 0x0, 7, 4, .ro, 0⟩
abbrev EVREC_STATUS_FROZEN_FULL : Field := ⟨Blk.EVREC, 0x0, 3, 3, .w1c, 0⟩
abbrev EVREC_STATUS_ERASING : Field := ⟨Blk.EVREC, 0x0, 2, 2, .ro, 0⟩
abbrev EVREC_STATUS_SCANNED : Field := ⟨Blk.EVREC, 0x0, 1, 1, .ro, 0⟩
abbrev EVREC_CTRL_FREEZE : Field := ⟨Blk.EVREC, 0x4, 0, 0, .rw, 0⟩
abbrev EVREC_MERGE_WINDOW : Field := ⟨Blk.EVREC, 0x8, 7, 0, .rw, 60⟩
abbrev EVREC_HEAD_SEQ : Field := ⟨Blk.EVREC, 0x10, 63, 0, .ro, 0⟩
abbrev EVREC_OLDEST_SEQ : Field := ⟨Blk.EVREC, 0x18, 63, 0, .ro, 0⟩
abbrev EVREC_DROPPED_SAT : Field := ⟨Blk.EVREC, 0x20, 31, 31, .ro, 0⟩
abbrev EVREC_DROPPED_COUNT : Field := ⟨Blk.EVREC, 0x20, 30, 0, .ro, 0⟩
abbrev EVREC_SW_CODE : Field := ⟨Blk.EVREC, 0x24, 31, 16, .wo, 0⟩
abbrev EVREC_SW_UNIT : Field := ⟨Blk.EVREC, 0x24, 15, 8, .wo, 0⟩
abbrev EVREC_SW_PART : Field := ⟨Blk.EVREC, 0x24, 7, 0, .wo, 0⟩
abbrev EVREC_SWDET_DETAIL : Field := ⟨Blk.EVREC, 0x28, 31, 0, .rw, 0⟩
abbrev TIMEKEEP_STATUS_RESTORED : Field := ⟨Blk.TIMEKEEP, 0x0, 2, 2, .w1c, 0⟩
abbrev TIMEKEEP_STATUS_OSC_FAIL : Field := ⟨Blk.TIMEKEEP, 0x0, 1, 1, .ro, 0⟩
abbrev TIMEKEEP_STATUS_RTC_VALID : Field := ⟨Blk.TIMEKEEP, 0x0, 0, 0, .ro, 0⟩
abbrev TIMEKEEP_RTC_SECONDS : Field := ⟨Blk.TIMEKEEP, 0x4, 31, 0, .rw, 0⟩
abbrev TIMEKEEP_OPTIME_SAT : Field := ⟨Blk.TIMEKEEP, 0x8, 32, 32, .ro, 0⟩
abbrev TIMEKEEP_OPTIME_COUNT : Field := ⟨Blk.TIMEKEEP, 0x8, 31, 0, .ro, 0⟩
abbrev TIMEKEEP_PCYCLE_SAT : Field := ⟨Blk.TIMEKEEP, 0x10, 31, 31, .ro, 0⟩
abbrev TIMEKEEP_PCYCLE_COUNT : Field := ⟨Blk.TIMEKEEP, 0x10, 23, 0, .ro, 0⟩
abbrev PWRARB_STATUS_CAPEX : Field := ⟨Blk.PWRARB, 0x0, 7, 7, .w1c, 0⟩
abbrev PWRARB_STATUS_FALLBACK : Field := ⟨Blk.PWRARB, 0x0, 6, 6, .ro, 0⟩
abbrev PWRARB_STATUS_STAGE : Field := ⟨Blk.PWRARB, 0x0, 5, 4, .ro, 0⟩
abbrev PWRARB_STATUS_MODE_BUSY : Field := ⟨Blk.PWRARB, 0x0, 3, 3, .ro, 0⟩
abbrev PWRARB_STATUS_MODE : Field := ⟨Blk.PWRARB, 0x0, 1, 0, .ro, 0⟩
abbrev PWRARB_MODE_KEY : Field := ⟨Blk.PWRARB, 0x4, 31, 16, .wo, 0⟩
abbrev PWRARB_MODE_GO : Field := ⟨Blk.PWRARB, 0x4, 15, 15, .w1s, 0⟩
abbrev PWRARB_MODE_DONE : Field := ⟨Blk.PWRARB, 0x4, 14, 14, .w1c, 0⟩
abbrev PWRARB_MODE_ERR : Field := ⟨Blk.PWRARB, 0x4, 10, 8, .ro, 0⟩
abbrev PWRARB_MODE_TARGET : Field := ⟨Blk.PWRARB, 0x4, 1, 0, .rw, 0⟩
abbrev PWRARB_POOL_CAP_EFF : Field := ⟨Blk.PWRARB, 0x8, 31, 16, .ro, 0⟩
abbrev PWRARB_POOL_FREE : Field := ⟨Blk.PWRARB, 0x8, 15, 0, .ro, 0⟩
abbrev PWRARB_THERM_HBM_HOT : Field := ⟨Blk.PWRARB, 0xc, 31, 24, .rw, 95⟩
abbrev PWRARB_THERM_CRIT : Field := ⟨Blk.PWRARB, 0xc, 23, 16, .rw, 118⟩
abbrev PWRARB_THERM_HOT : Field := ⟨Blk.PWRARB, 0xc, 15, 8, .rw, 110⟩
abbrev PWRARB_THERM_WARN : Field := ⟨Blk.PWRARB, 0xc, 7, 0, .rw, 100⟩
abbrev PWRARB_TEMP_HBM_MAX : Field := ⟨Blk.PWRARB, 0x10, 31, 24, .ro, 0⟩
abbrev PWRARB_TEMP_TJ_DOMAIN : Field := ⟨Blk.PWRARB, 0x10, 15, 8, .ro, 0⟩
abbrev PWRARB_TEMP_TJ_MAX : Field := ⟨Blk.PWRARB, 0x10, 7, 0, .ro, 0⟩
abbrev PWRARB_POWER_PEAK : Field := ⟨Blk.PWRARB, 0x14, 31, 16, .w1c, 0⟩
abbrev PWRARB_POWER_NOW : Field := ⟨Blk.PWRARB, 0x14, 15, 0, .ro, 0⟩
abbrev PWRARB_VID_BUSY : Field := ⟨Blk.PWRARB, 0x18, 31, 31, .ro, 0⟩
abbrev PWRARB_VID_ERR : Field := ⟨Blk.PWRARB, 0x18, 30, 30, .w1c, 0⟩
abbrev PWRARB_VID_READ_MV : Field := ⟨Blk.PWRARB, 0x18, 25, 16, .ro, 0⟩
abbrev PWRARB_VID_TARGET_MV : Field := ⟨Blk.PWRARB, 0x18, 9, 0, .ro, 0⟩
abbrev PWRARB_PMBUS_ADDR : Field := ⟨Blk.PWRARB, 0x1c, 6, 0, .rw, 64⟩
abbrev PWRARB_DOMSTATE_ON (n : Nat) : Field := ⟨Blk.PWRARB, 0x20 + 4 * n, 31, 0, .ro, 0⟩
abbrev PWRARB_DOMCTRL_KEY : Field := ⟨Blk.PWRARB, 0x30, 31, 16, .wo, 0⟩
abbrev PWRARB_DOMCTRL_ON : Field := ⟨Blk.PWRARB, 0x30, 15, 15, .wo, 0⟩
abbrev PWRARB_DOMCTRL_ERR : Field := ⟨Blk.PWRARB, 0x30, 14, 12, .ro, 0⟩
abbrev PWRARB_DOMCTRL_DOMAIN : Field := ⟨Blk.PWRARB, 0x30, 6, 0, .wo, 0⟩
abbrev PWRARB_THROTTLES_SAT : Field := ⟨Blk.PWRARB, 0x34, 31, 31, .ro, 0⟩
abbrev PWRARB_THROTTLES_COUNT : Field := ⟨Blk.PWRARB, 0x34, 30, 0, .ro, 0⟩
abbrev PWRARB_CAPEX_SAT : Field := ⟨Blk.PWRARB, 0x38, 31, 31, .ro, 0⟩
abbrev PWRARB_CAPEX_COUNT : Field := ⟨Blk.PWRARB, 0x38, 30, 0, .ro, 0⟩
abbrev PWRARB_GRANT_STEP (n : Nat) : Field := ⟨Blk.PWRARB, 0x100 + 4 * n, 31, 29, .ro, 0⟩
abbrev PWRARB_GRANT_DEMAND (n : Nat) : Field := ⟨Blk.PWRARB, 0x100 + 4 * n, 28, 16, .ro, 0⟩
abbrev PWRARB_GRANT_GRANT (n : Nat) : Field := ⟨Blk.PWRARB, 0x100 + 4 * n, 12, 0, .ro, 0⟩
abbrev CARD_STATUS_PRESENT (k : Nat) : Field := ⟨Blk.CARD + k, 0x0, 9, 9, .ro, 0⟩
abbrev CARD_STATUS_BUSY (k : Nat) : Field := ⟨Blk.CARD + k, 0x0, 8, 8, .ro, 0⟩
abbrev CARD_STATUS_DONE (k : Nat) : Field := ⟨Blk.CARD + k, 0x0, 7, 7, .w1c, 0⟩
abbrev CARD_STATUS_REMOVED (k : Nat) : Field := ⟨Blk.CARD + k, 0x0, 6, 6, .w1c, 0⟩
abbrev CARD_STATUS_CLASS (k : Nat) : Field := ⟨Blk.CARD + k, 0x0, 5, 4, .ro, 0⟩
abbrev CARD_STATUS_STATE (k : Nat) : Field := ⟨Blk.CARD + k, 0x0, 2, 0, .ro, 0⟩
abbrev CARD_CMD_CMD (k : Nat) : Field := ⟨Blk.CARD + k, 0x4, 3, 0, .wo, 0⟩
abbrev CARD_CFG_CLKDIV (k : Nat) : Field := ⟨Blk.CARD + k, 0x8, 31, 24, .rw, 8⟩
abbrev CARD_CFG_DI_MAX (k : Nat) : Field := ⟨Blk.CARD + k, 0x8, 11, 8, .rw, 5⟩
abbrev CARD_CFG_PREFER_T1 (k : Nat) : Field := ⟨Blk.CARD + k, 0x8, 1, 1, .rw, 1⟩
abbrev CARD_CFG_PRES_POL (k : Nat) : Field := ⟨Blk.CARD + k, 0x8, 0, 0, .rw, 0⟩
abbrev CARD_RESULT_ERR (k : Nat) : Field := ⟨Blk.CARD + k, 0xc, 31, 28, .ro, 0⟩
abbrev CARD_RESULT_RXLEN (k : Nat) : Field := ⟨Blk.CARD + k, 0xc, 24, 16, .ro, 0⟩
abbrev CARD_RESULT_SW (k : Nat) : Field := ⟨Blk.CARD + k, 0xc, 15, 0, .ro, 0⟩
abbrev CARD_TXLEN_LEN (k : Nat) : Field := ⟨Blk.CARD + k, 0x10, 8, 0, .rw, 0⟩
abbrev CARD_DATA_BYTES (k : Nat) : Field := ⟨Blk.CARD + k, 0x14, 31, 0, .rw, 0⟩
abbrev CARD_PROTO_T (k : Nat) : Field := ⟨Blk.CARD + k, 0x18, 8, 8, .ro, 0⟩
abbrev CARD_PROTO_FI (k : Nat) : Field := ⟨Blk.CARD + k, 0x18, 7, 4, .ro, 0⟩
abbrev CARD_PROTO_DI (k : Nat) : Field := ⟨Blk.CARD + k, 0x18, 3, 0, .ro, 0⟩
abbrev CARD_ERRCNT_SAT (k : Nat) : Field := ⟨Blk.CARD + k, 0x1c, 31, 31, .ro, 0⟩
abbrev CARD_ERRCNT_COUNT (k : Nat) : Field := ⟨Blk.CARD + k, 0x1c, 30, 0, .ro, 0⟩
abbrev CARD_QUORUM_REJECTS (k : Nat) : Field := ⟨Blk.CARD + k, 0x40, 31, 16, .ro, 0⟩
abbrev CARD_QTIME_SECONDS (k : Nat) : Field := ⟨Blk.CARD + k, 0x44, 15, 0, .rw, 600⟩
abbrev SDH_STATUS_CQ : Field := ⟨Blk.SDH, 0x0, 10, 10, .ro, 0⟩
abbrev SDH_STATUS_V18 : Field := ⟨Blk.SDH, 0x0, 9, 9, .ro, 0⟩
abbrev SDH_STATUS_LOCKED : Field := ⟨Blk.SDH, 0x0, 8, 8, .ro, 0⟩
abbrev SDH_STATUS_PRESENT : Field := ⟨Blk.SDH, 0x0, 7, 7, .ro, 0⟩
abbrev SDH_STATUS_BUSY : Field := ⟨Blk.SDH, 0x0, 6, 6, .ro, 0⟩
abbrev SDH_STATUS_DONE : Field := ⟨Blk.SDH, 0x0, 5, 5, .w1c, 0⟩
abbrev SDH_STATUS_REMOVED : Field := ⟨Blk.SDH, 0x0, 4, 4, .w1c, 0⟩
abbrev SDH_STATUS_STATE : Field := ⟨Blk.SDH, 0x0, 3, 0, .ro, 0⟩
abbrev SDH_CMD_KEY : Field := ⟨Blk.SDH, 0x4, 31, 16, .wo, 0⟩
abbrev SDH_CMD_CMD : Field := ⟨Blk.SDH, 0x4, 3, 0, .wo, 0⟩
abbrev SDH_CFG_CQ_EN : Field := ⟨Blk.SDH, 0x8, 31, 31, .rw, 1⟩
abbrev SDH_CFG_AUTO_ERASE : Field := ⟨Blk.SDH, 0x8, 30, 30, .rw, 0⟩
abbrev SDH_CFG_MAX_MODE : Field := ⟨Blk.SDH, 0x8, 1, 0, .rw, 3⟩
abbrev SDH_BLOCK_BLOCK : Field := ⟨Blk.SDH, 0x10, 39, 0, .rw, 0⟩
abbrev SDH_CAP_BLOCK : Field := ⟨Blk.SDH, 0x28, 39, 0, .ro, 0⟩
abbrev SDH_SRAM_VALUE : Field := ⟨Blk.SDH, 0x18, 31, 0, .rw, 0⟩
abbrev SDH_COUNT_VALUE : Field := ⟨Blk.SDH, 0x1c, 31, 0, .rw, 0⟩
abbrev SDH_RESULT_ERR : Field := ⟨Blk.SDH, 0x20, 31, 28, .ro, 0⟩
abbrev SDH_RESULT_DONE_BLOCKS : Field := ⟨Blk.SDH, 0x20, 8, 0, .ro, 0⟩
abbrev SDH_WERR_SAT : Field := ⟨Blk.SDH, 0x30, 31, 31, .ro, 0⟩
abbrev SDH_WERR_COUNT : Field := ⟨Blk.SDH, 0x30, 30, 0, .ro, 0⟩
abbrev TAG_STATUS_HANDLES : Field := ⟨Blk.TAG, 0x0, 15, 8, .ro, 0⟩
abbrev TAG_STATUS_FIELD : Field := ⟨Blk.TAG, 0x0, 7, 7, .ro, 0⟩
abbrev TAG_STATUS_SOURCE : Field := ⟨Blk.TAG, 0x0, 6, 6, .ro, 0⟩
abbrev TAG_STATUS_FIELD_SEEN : Field := ⟨Blk.TAG, 0x0, 5, 5, .w1c, 0⟩
abbrev TAG_STATUS_INTENT : Field := ⟨Blk.TAG, 0x0, 4, 4, .w1c, 0⟩
abbrev TAG_STATUS_BUSY : Field := ⟨Blk.TAG, 0x0, 3, 3, .ro, 0⟩
abbrev TAG_STATUS_DONE : Field := ⟨Blk.TAG, 0x0, 2, 2, .w1c, 0⟩
abbrev TAG_CMD_KEY : Field := ⟨Blk.TAG, 0x4, 31, 16, .wo, 0⟩
abbrev TAG_CMD_CMD : Field := ⟨Blk.TAG, 0x4, 3, 0, .wo, 0⟩
abbrev TAG_ADDR_COUNT : Field := ⟨Blk.TAG, 0x8, 19, 16, .rw, 0⟩
abbrev TAG_ADDR_BLOCK : Field := ⟨Blk.TAG, 0x8, 10, 0, .rw, 0⟩
abbrev TAG_SRC_ADDR : Field := ⟨Blk.TAG, 0xc, 31, 0, .rw, 0⟩
abbrev TAG_RESULT_ERR : Field := ⟨Blk.TAG, 0x10, 31, 28, .ro, 0⟩
abbrev TAG_RESULT_FLASH_ERR : Field := ⟨Blk.TAG, 0x10, 27, 24, .ro, 0⟩
abbrev TAG_CFG_FIELD_WRITE : Field := ⟨Blk.TAG, 0x14, 1, 1, .rw, 0⟩
abbrev TAG_CFG_PRIVACY : Field := ⟨Blk.TAG, 0x14, 0, 0, .rw, 0⟩
abbrev TAG_FIELD_VRECT_MV : Field := ⟨Blk.TAG, 0x18, 11, 0, .ro, 0⟩
abbrev TAG_CMDS_SAT : Field := ⟨Blk.TAG, 0x1c, 31, 31, .ro, 0⟩
abbrev TAG_CMDS_COUNT : Field := ⟨Blk.TAG, 0x1c, 30, 0, .ro, 0⟩
abbrev TAG_WEAK_SAT : Field := ⟨Blk.TAG, 0x20, 31, 31, .ro, 0⟩
abbrev TAG_WEAK_COUNT : Field := ⟨Blk.TAG, 0x20, 30, 0, .ro, 0⟩
abbrev TAG_UID_UID : Field := ⟨Blk.TAG, 0x28, 63, 0, .ro, 0⟩
abbrev SIDEB_STATUS_EID : Field := ⟨Blk.SIDEB, 0x0, 31, 24, .ro, 0⟩
abbrev SIDEB_STATUS_DYN_ADDR : Field := ⟨Blk.SIDEB, 0x0, 23, 17, .ro, 0⟩
abbrev SIDEB_STATUS_TX_DONE : Field := ⟨Blk.SIDEB, 0x0, 4, 4, .w1c, 0⟩
abbrev SIDEB_STATUS_RX_OVF : Field := ⟨Blk.SIDEB, 0x0, 3, 3, .w1c, 0⟩
abbrev SIDEB_STATUS_TX_BUSY : Field := ⟨Blk.SIDEB, 0x0, 2, 2, .ro, 0⟩
abbrev SIDEB_STATUS_RX_READY : Field := ⟨Blk.SIDEB, 0x0, 1, 1, .ro, 0⟩
abbrev SIDEB_STATUS_MODE : Field := ⟨Blk.SIDEB, 0x0, 0, 0, .ro, 0⟩
abbrev SIDEB_CFG_STATIC_ADDR : Field := ⟨Blk.SIDEB, 0x4, 30, 24, .rw, 76⟩
abbrev SIDEB_CFG_FALLBACK : Field := ⟨Blk.SIDEB, 0x4, 17, 16, .rw, 0⟩
abbrev SIDEB_CFG_MTU : Field := ⟨Blk.SIDEB, 0x4, 8, 0, .rw, 64⟩
abbrev SIDEB_RXDATA_BYTES : Field := ⟨Blk.SIDEB, 0x8, 31, 0, .ro, 0⟩
abbrev SIDEB_TXDATA_BYTES : Field := ⟨Blk.SIDEB, 0x10, 31, 0, .wo, 0⟩
abbrev SIDEB_RXINFO_VALID : Field := ⟨Blk.SIDEB, 0xc, 31, 31, .ro, 0⟩
abbrev SIDEB_RXINFO_LEN : Field := ⟨Blk.SIDEB, 0xc, 28, 16, .ro, 0⟩
abbrev SIDEB_RXINFO_EID : Field := ⟨Blk.SIDEB, 0xc, 15, 8, .ro, 0⟩
abbrev SIDEB_RXINFO_TO : Field := ⟨Blk.SIDEB, 0xc, 7, 7, .ro, 0⟩
abbrev SIDEB_RXINFO_TAG : Field := ⟨Blk.SIDEB, 0xc, 6, 4, .ro, 0⟩
abbrev SIDEB_TXCTRL_GO : Field := ⟨Blk.SIDEB, 0x14, 31, 31, .w1s, 0⟩
abbrev SIDEB_TXCTRL_LEN : Field := ⟨Blk.SIDEB, 0x14, 28, 16, .rw, 0⟩
abbrev SIDEB_TXCTRL_EID : Field := ⟨Blk.SIDEB, 0x14, 15, 8, .rw, 0⟩
abbrev SIDEB_TXCTRL_TO : Field := ⟨Blk.SIDEB, 0x14, 7, 7, .rw, 0⟩
abbrev SIDEB_TXCTRL_TAG : Field := ⟨Blk.SIDEB, 0x14, 6, 4, .rw, 0⟩
abbrev SIDEB_ERRCNT_SAT : Field := ⟨Blk.SIDEB, 0x18, 31, 31, .ro, 0⟩
abbrev SIDEB_ERRCNT_COUNT : Field := ⟨Blk.SIDEB, 0x18, 30, 0, .ro, 0⟩
abbrev TEST_CTRL_GO : Field := ⟨Blk.TEST, 0x0, 31, 31, .w1s, 0⟩
abbrev TEST_CTRL_STOP : Field := ⟨Blk.TEST, 0x0, 30, 30, .w1s, 0⟩
abbrev TEST_CTRL_PATTERN : Field := ⟨Blk.TEST, 0x0, 27, 24, .rw, 0⟩
abbrev TEST_CTRL_CLASS : Field := ⟨Blk.TEST, 0x0, 23, 20, .rw, 0⟩
abbrev TEST_CTRL_DIR : Field := ⟨Blk.TEST, 0x0, 16, 16, .rw, 0⟩
abbrev TEST_CTRL_INDEX : Field := ⟨Blk.TEST, 0x0, 15, 8, .rw, 0⟩
abbrev TEST_CTRL_SECONDS : Field := ⟨Blk.TEST, 0x0, 7, 0, .rw, 0⟩
abbrev TEST_STATUS_BUSY : Field := ⟨Blk.TEST, 0x4, 31, 31, .ro, 0⟩
abbrev TEST_STATUS_DONE : Field := ⟨Blk.TEST, 0x4, 30, 30, .w1c, 0⟩
abbrev TEST_STATUS_LOCK : Field := ⟨Blk.TEST, 0x4, 29, 29, .ro, 0⟩
abbrev TEST_STATUS_ERR : Field := ⟨Blk.TEST, 0x4, 23, 20, .ro, 0⟩
abbrev TEST_BITS_COUNT : Field := ⟨Blk.TEST, 0x8, 63, 0, .ro, 0⟩
abbrev TEST_ERRS_SAT : Field := ⟨Blk.TEST, 0x10, 31, 31, .ro, 0⟩
abbrev TEST_ERRS_COUNT : Field := ⟨Blk.TEST, 0x10, 30, 0, .ro, 0⟩
abbrev TEST_USER_PATTERN : Field := ⟨Blk.TEST, 0x14, 31, 0, .rw, 0⟩
abbrev TEST_DBSPARE_USED_LG : Field := ⟨Blk.TEST, 0x18, 15, 12, .ro, 0⟩
abbrev TEST_DBSPARE_USED_GL : Field := ⟨Blk.TEST, 0x18, 11, 8, .ro, 0⟩
abbrev TEST_DBSPARE_BAD_LG : Field := ⟨Blk.TEST, 0x18, 7, 4, .ro, 0⟩
abbrev TEST_DBSPARE_BAD_GL : Field := ⟨Blk.TEST, 0x18, 3, 0, .ro, 0⟩
abbrev DEBUG_STATUS_FAILS : Field := ⟨Blk.DEBUG, 0x0, 15, 12, .ro, 0⟩
abbrev DEBUG_STATUS_SAT : Field := ⟨Blk.DEBUG, 0x0, 11, 11, .ro, 0⟩
abbrev DEBUG_STATUS_OPEN : Field := ⟨Blk.DEBUG, 0x0, 7, 4, .ro, 0⟩
abbrev DEBUG_STATUS_CLOSED : Field := ⟨Blk.DEBUG, 0x0, 3, 3, .ro, 0⟩
abbrev DEBUG_STATUS_PENDING : Field := ⟨Blk.DEBUG, 0x0, 2, 2, .ro, 0⟩
abbrev DEBUG_CTRL_KEY : Field := ⟨Blk.DEBUG, 0x4, 31, 16, .wo, 0⟩
abbrev DEBUG_CTRL_SUBMIT : Field := ⟨Blk.DEBUG, 0x4, 9, 9, .w1s, 0⟩
abbrev DEBUG_CTRL_REFUSE : Field := ⟨Blk.DEBUG, 0x4, 8, 8, .wo, 0⟩
abbrev DEBUG_CTRL_GRANT : Field := ⟨Blk.DEBUG, 0x4, 3, 0, .wo, 0⟩
abbrev DEBUG_NONCE_VALUE (n : Nat) : Field := ⟨Blk.DEBUG, 0x20 + 4 * n, 31, 0, .ro, 0⟩
abbrev DEBUG_TOKEN_VALUE (n : Nat) : Field := ⟨Blk.DEBUG, 0x100 + 4 * n, 31, 0, .rw, 0⟩
abbrev FUSE_ARB_WORD (n : Nat) : Field := ⟨Blk.FUSE, 0x80 + 4 * n, 31, 0, .ro, 0⟩
abbrev FUSE_EVIDENCE_WORD (n : Nat) : Field := ⟨Blk.FUSE, 0x100 + 4 * n, 31, 0, .ro, 0⟩
abbrev FUSE_VENDOR_KEY_HASH_WORD (n : Nat) : Field := ⟨Blk.FUSE, 0x120 + 4 * n, 31, 0, .ro, 0⟩
abbrev FUSE_OWNER_KEY_HASH0_WORD (n : Nat) : Field := ⟨Blk.FUSE, 0x150 + 4 * n, 31, 0, .ro, 0⟩
abbrev FUSE_OWNER_KEY_HASH1_WORD (n : Nat) : Field := ⟨Blk.FUSE, 0x180 + 4 * n, 31, 0, .ro, 0⟩
abbrev FUSE_OWNER_KEY_HASH_WORD (n : Nat) : Field := ⟨Blk.FUSE, 0x1c0 + 4 * n, 31, 0, .ro, 0⟩
abbrev MPU_G_GFENCE_WORD (n : Nat) : Field := ⟨Blk.MPU_G, 0x40 + 4 * n, 31, 0, .rw, 0x05050505⟩
abbrev MPU_G_GRANGE_WORD (n : Nat) : Field := ⟨Blk.MPU_G, 0x60 + 4 * n, 31, 0, .rw, 0⟩
abbrev ARB0_SLOT_WORD (n : Nat) : Field := ⟨Blk.MPU_G, 0xc00 + 4 * n, 31, 0, .rw, 0xFFFFFFFF⟩
abbrev ARB1_SLOT_WORD (n : Nat) : Field := ⟨Blk.MPU_G, 0xd00 + 4 * n, 31, 0, .rw, 0xFFFFFFFF⟩
abbrev ARB0_RANK_WORD (n : Nat) : Field := ⟨Blk.MPU_G, 0xe00 + 4 * n, 31, 0, .rw, 0xFFFFFFFF⟩
abbrev ARB1_RANK_WORD (n : Nat) : Field := ⟨Blk.MPU_G, 0xe10 + 4 * n, 31, 0, .rw, 0xFFFFFFFF⟩
abbrev LTEST_CTRL_GO : Field := ⟨Blk.LTEST, 0x0, 31, 31, .w1s, 0⟩
abbrev LTEST_CTRL_STOP : Field := ⟨Blk.LTEST, 0x0, 30, 30, .w1s, 0⟩
abbrev LTEST_CTRL_PATTERN : Field := ⟨Blk.LTEST, 0x0, 27, 24, .rw, 0⟩
abbrev LTEST_CTRL_CLASS : Field := ⟨Blk.LTEST, 0x0, 23, 20, .rw, 0⟩
abbrev LTEST_CTRL_DIR : Field := ⟨Blk.LTEST, 0x0, 16, 16, .rw, 0⟩
abbrev LTEST_CTRL_INDEX : Field := ⟨Blk.LTEST, 0x0, 15, 8, .rw, 0⟩
abbrev LTEST_CTRL_SECONDS : Field := ⟨Blk.LTEST, 0x0, 7, 0, .rw, 0⟩
abbrev LTEST_STATUS_BUSY : Field := ⟨Blk.LTEST, 0x4, 31, 31, .ro, 0⟩
abbrev LTEST_STATUS_DONE : Field := ⟨Blk.LTEST, 0x4, 30, 30, .w1c, 0⟩
abbrev LTEST_STATUS_LOCK : Field := ⟨Blk.LTEST, 0x4, 29, 29, .ro, 0⟩
abbrev LTEST_STATUS_ERR : Field := ⟨Blk.LTEST, 0x4, 23, 20, .ro, 0⟩
abbrev LTEST_BITS_COUNT : Field := ⟨Blk.LTEST, 0x8, 63, 0, .ro, 0⟩
abbrev LTEST_ERRS_SAT : Field := ⟨Blk.LTEST, 0x10, 31, 31, .ro, 0⟩
abbrev LTEST_ERRS_COUNT : Field := ⟨Blk.LTEST, 0x10, 30, 0, .ro, 0⟩
abbrev LTEST_USER_PATTERN : Field := ⟨Blk.LTEST, 0x14, 31, 0, .rw, 0⟩
abbrev LTEST_DBSPARE_USED_LG : Field := ⟨Blk.LTEST, 0x18, 15, 12, .ro, 0⟩
abbrev LTEST_DBSPARE_USED_GL : Field := ⟨Blk.LTEST, 0x18, 11, 8, .ro, 0⟩
abbrev LTEST_DBSPARE_BAD_LG : Field := ⟨Blk.LTEST, 0x18, 7, 4, .ro, 0⟩
abbrev LTEST_DBSPARE_BAD_GL : Field := ⟨Blk.LTEST, 0x18, 3, 0, .ro, 0⟩

end F

/-- The fields of the LSENSE register at a byte offset; none where no register is assigned (R11). -/
def fieldsAtLSENSE (off : Nat) : List Field :=
  if off = 0x0 then
    [F.LSENSE_PACE_PACE_MIN, F.LSENSE_PACE_MIN_DOMAIN, F.LSENSE_PACE_LOW, F.LSENSE_PACE_VALID]
  else if off = 0x4 then
    [F.LSENSE_PACE_FLOOR_FLOOR]
  else []

/-- The fields of the SYSCTL register at a byte offset; none where no register is assigned (R11). -/
def fieldsAtSYSCTL (off : Nat) : List Field :=
  if off = 0x0 then
    [F.SYSCTL_ID_DEVICE, F.SYSCTL_ID_STEPPING, F.SYSCTL_ID_PART]
  else if off = 0x4 then
    [F.SYSCTL_STATE_SAFE, F.SYSCTL_STATE_OWNER_PERIOD, F.SYSCTL_STATE_SEALED_SLOT, F.SYSCTL_STATE_IMAGE_SLOT, F.SYSCTL_STATE_OPEN_READY, F.SYSCTL_STATE_OPEN_FW_OK, F.SYSCTL_STATE_HBM_READY, F.SYSCTL_STATE_LANDAU_BUILT, F.SYSCTL_STATE_HOST_RELEASED, F.SYSCTL_STATE_LIFECYCLE]
  else if off = 0x8 then
    [F.SYSCTL_RSTCAUSE_PERST, F.SYSCTL_RSTCAUSE_LANDAU, F.SYSCTL_RSTCAUSE_LIFECYCLE, F.SYSCTL_RSTCAUSE_DEBUG, F.SYSCTL_RSTCAUSE_CORE_STOP, F.SYSCTL_RSTCAUSE_TAMPER, F.SYSCTL_RSTCAUSE_FAULT, F.SYSCTL_RSTCAUSE_REQUEST, F.SYSCTL_RSTCAUSE_BROWNOUT, F.SYSCTL_RSTCAUSE_MAIN_POR, F.SYSCTL_RSTCAUSE_CELL_POR]
  else if off = 0xc then
    [F.SYSCTL_RESET_KEY, F.SYSCTL_RESET_KIND]
  else if off = 0x10 then
    [F.SYSCTL_RELEASE_OPEN]
  else if off = 0x14 then
    [F.SYSCTL_BOOTATT_SAT, F.SYSCTL_BOOTATT_COUNT]
  else []

/-- The fields of the FUSE register at a byte offset; none where no register is assigned (R11). -/
def fieldsAtFUSE (off : Nat) : List Field :=
  if off = 0x0 then
    [F.FUSE_STATUS_MISMATCH, F.FUSE_STATUS_LOADED, F.FUSE_STATUS_BUSY]
  else if off = 0x4 then
    [F.FUSE_LIFECYCLE_RMA1, F.FUSE_LIFECYCLE_DEPLOYED1, F.FUSE_LIFECYCLE_OWNED1, F.FUSE_LIFECYCLE_DECOM, F.FUSE_LIFECYCLE_RMA, F.FUSE_LIFECYCLE_DEPLOYED, F.FUSE_LIFECYCLE_OWNED]
  else if off = 0x8 then
    [F.FUSE_OPTIONS_DEBUG_OFF, F.FUSE_OPTIONS_PART]
  else if off = 0xc then
    [F.FUSE_SRCDIS_DISABLE]
  else if off = 0x14 then
    [F.FUSE_PROG_CTRL_KEY, F.FUSE_PROG_CTRL_TARGET, F.FUSE_PROG_CTRL_INDEX]
  else if off = 0x18 then
    [F.FUSE_PROG_RESULT_REASON, F.FUSE_PROG_RESULT_REFUSED, F.FUSE_PROG_RESULT_DONE]
  else if 0x80 ≤ off ∧ off < 0x100 ∧ (off - 0x80) % 4 = 0 then
    [F.FUSE_ARB_WORD ((off - 0x80) / 4)]
  else if 0x100 ≤ off ∧ off < 0x120 ∧ (off - 0x100) % 4 = 0 then
    [F.FUSE_EVIDENCE_WORD ((off - 0x100) / 4)]
  else if 0x120 ≤ off ∧ off < 0x150 ∧ (off - 0x120) % 4 = 0 then
    [F.FUSE_VENDOR_KEY_HASH_WORD ((off - 0x120) / 4)]
  else if 0x150 ≤ off ∧ off < 0x180 ∧ (off - 0x150) % 4 = 0 then
    [F.FUSE_OWNER_KEY_HASH0_WORD ((off - 0x150) / 4)]
  else if 0x180 ≤ off ∧ off < 0x1b0 ∧ (off - 0x180) % 4 = 0 then
    [F.FUSE_OWNER_KEY_HASH1_WORD ((off - 0x180) / 4)]
  else if 0x1c0 ≤ off ∧ off < 0x1f0 ∧ (off - 0x1c0) % 4 = 0 then
    [F.FUSE_OWNER_KEY_HASH_WORD ((off - 0x1c0) / 4)]
  else []

/-- The fields of the STRUCT register at a byte offset; none where no register is assigned (R11). -/
def fieldsAtSTRUCT (off : Nat) : List Field :=
  if off = 0x0 then
    [F.STRUCT_STATUS_STATE]
  else if off = 0x4 then
    [F.STRUCT_CTRL_KEY, F.STRUCT_CTRL_CMD]
  else if off = 0x8 then
    [F.STRUCT_ERROR_INDEX, F.STRUCT_ERROR_SECTION, F.STRUCT_ERROR_CODE]
  else if off = 0xc then
    [F.STRUCT_SEL_TYPE]
  else if off = 0x10 then
    [F.STRUCT_DATA_WORD]
  else if off = 0x14 then
    [F.STRUCT_MODE_ALLOWED, F.STRUCT_MODE_START, F.STRUCT_MODE_CURRENT]
  else if 0x40 ≤ off ∧ off < 0x70 ∧ (off - 0x40) % 4 = 0 then
    [F.STRUCT_IMGHASH_HASH ((off - 0x40) / 4)]
  else if off = 0x74 then
    [F.STRUCT_AMEND_CLASS, F.STRUCT_AMEND_UNIT, F.STRUCT_AMEND_RETIRE, F.STRUCT_AMEND_SPARE]
  else if off = 0x80 then
    [F.STRUCT_DRAIN_GO, F.STRUCT_DRAIN_DONE, F.STRUCT_DRAIN_CUT, F.STRUCT_DRAIN_CLASS, F.STRUCT_DRAIN_UNIT, F.STRUCT_DRAIN_INDEX]
  else if 0x100 ≤ off ∧ off < 0x140 ∧ (off - 0x100) % 4 = 0 then
    [F.STRUCT_PKEMAP_WORLD ((off - 0x100) / 4), F.STRUCT_PKEMAP_RETIRED ((off - 0x100) / 4), F.STRUCT_PKEMAP_SPARE ((off - 0x100) / 4), F.STRUCT_PKEMAP_ACTIVE ((off - 0x100) / 4)]
  else if 0x140 ≤ off ∧ off < 0x160 ∧ (off - 0x140) % 4 = 0 then
    [F.STRUCT_CIPMAP_WORLD ((off - 0x140) / 4), F.STRUCT_CIPMAP_RETIRED ((off - 0x140) / 4), F.STRUCT_CIPMAP_SPARE ((off - 0x140) / 4), F.STRUCT_CIPMAP_ACTIVE ((off - 0x140) / 4)]
  else if 0x160 ≤ off ∧ off < 0x170 ∧ (off - 0x160) % 4 = 0 then
    [F.STRUCT_DISPMAP_WORLD ((off - 0x160) / 4), F.STRUCT_DISPMAP_RETIRED ((off - 0x160) / 4), F.STRUCT_DISPMAP_SPARE ((off - 0x160) / 4), F.STRUCT_DISPMAP_ACTIVE ((off - 0x160) / 4)]
  else []

/-- The fields of the BAR0 register at a byte offset; none where no register is assigned (R11). -/
def fieldsAtBAR0 (k : Nat) (off : Nat) : List Field :=
  if off = 0x0 then
    [F.DEVINFO_ID_DEVICE k, F.DEVINFO_ID_VENDOR k]
  else if off = 0x4 then
    [F.DEVINFO_IF_MAJOR k, F.DEVINFO_IF_MINOR k]
  else if off = 0x8 then
    [F.DEVINFO_FUNC_VF k, F.DEVINFO_FUNC_FN k, F.DEVINFO_FUNC_DOMAIN k]
  else if off = 0xc then
    [F.DEVINFO_LIMITS_TAGS k, F.DEVINFO_LIMITS_QPS k]
  else if off = 0x10 then
    [F.DEVINFO_VECTORS_VECTORS k]
  else if off = 0x14 then
    [F.DEVINFO_WINDOW_WINDOW_ID k]
  else if 0x20 ≤ off ∧ off < 0x40 ∧ (off - 0x20) % 4 = 0 then
    [F.DEVINFO_EFFECT_EFFECTFUL k ((off - 0x20) / 4)]
  else if off = 0x1000 then
    [F.ADMIN_CTRL_EN k]
  else if off = 0x1004 then
    [F.ADMIN_STATUS_SAFE k, F.ADMIN_STATUS_FUNC_ERR k, F.ADMIN_STATUS_RDY k]
  else if off = 0x1008 then
    [F.ADMIN_AQSIZE_ACQ k, F.ADMIN_AQSIZE_ASQ k]
  else if off = 0x1010 then
    [F.ADMIN_ASQ_BASE k]
  else if off = 0x1018 then
    [F.ADMIN_ACQ_BASE k]
  else if off = 0x200000 then
    [F.TELE_STATUS_MODE k, F.TELE_STATUS_FUNC_ERR k, F.TELE_STATUS_DB_ERR k, F.TELE_STATUS_SAFE k]
  else if off = 0x200004 then
    [F.TELE_PACE_PACE_MIN k, F.TELE_PACE_VALID k]
  else if off = 0x200008 then
    [F.TELE_DBERR_VALUE k, F.TELE_DBERR_CQ k, F.TELE_DBERR_QID k]
  else if off = 0x20000c then
    [F.TELE_INFLIGHT_COUNT k]
  else []

/-- The fields of the QMGR register at a byte offset; none where no register is assigned (R11). -/
def fieldsAtQMGR (off : Nat) : List Field :=
  if off = 0x0 then
    [F.QMGR_CTRL_SAFE, F.QMGR_CTRL_FETCH]
  else if off = 0x4 then
    [F.QMGR_STATUS_INFLIGHT, F.QMGR_STATUS_IDLE]
  else if off = 0x8 then
    [F.QMGR_WINDOW_ID]
  else if off = 0xc then
    [F.QMGR_DUPS_SAT, F.QMGR_DUPS_COUNT]
  else if off = 0x10 then
    [F.QMGR_ABORTS_SAT, F.QMGR_ABORTS_COUNT]
  else if 0x20 ≤ off ∧ off < 0x28 ∧ (off - 0x20) % 4 = 0 then
    [F.QMGR_FNERR_ERR ((off - 0x20) / 4)]
  else if 0x40 ≤ off ∧ off < 0x60 ∧ (off - 0x40) % 4 = 0 then
    [F.QMGR_EFFECT_EFFECTFUL ((off - 0x40) / 4)]
  else []

/-- The fields of the PCIEC register at a byte offset; none where no register is assigned (R11). -/
def fieldsAtPCIEC (off : Nat) : List Field :=
  if off = 0x0 then
    [F.PCIEC_LINK_UP, F.PCIEC_LINK_LTSSM, F.PCIEC_LINK_WIDTH, F.PCIEC_LINK_SPEED]
  else if off = 0x4 then
    [F.PCIEC_SUBSYS_SSID, F.PCIEC_SUBSYS_SVID]
  else if off = 0x8 then
    [F.PCIEC_IDE_FAILS, F.PCIEC_IDE_SAT, F.PCIEC_IDE_REQUIRED, F.PCIEC_IDE_STATE]
  else if off = 0xc then
    [F.PCIEC_CERR_SAT, F.PCIEC_CERR_COUNT]
  else []

/-- The fields of the KCACHE register at a byte offset; none where no register is assigned (R11). -/
def fieldsAtKCACHE (off : Nat) : List Field :=
  if off = 0x0 then
    [F.KCACHE_STATUS_ZEROISING, F.KCACHE_STATUS_ZERO_DONE, F.KCACHE_STATUS_READY]
  else if off = 0x4 then
    [F.KCACHE_CTRL_CMD, F.KCACHE_CTRL_DOMAIN, F.KCACHE_CTRL_KEY]
  else if off = 0x8 then
    [F.KCACHE_REFRESH_USES]
  else if off = 0x10 then
    [F.KCACHE_HITS_SAT, F.KCACHE_HITS_COUNT]
  else if off = 0x14 then
    [F.KCACHE_MISSES_SAT, F.KCACHE_MISSES_COUNT]
  else []

/-- The fields of the MCRYPT register at a byte offset; none where no register is assigned (R11). -/
def fieldsAtMCRYPT (off : Nat) : List Field :=
  if off = 0x0 then
    [F.MCRYPT_STATUS_TREE_READY, F.MCRYPT_STATUS_KEY_VALID]
  else if off = 0x4 then
    [F.MCRYPT_INTFAIL_SAT, F.MCRYPT_INTFAIL_COUNT]
  else if off = 0x8 then
    [F.MCRYPT_T10_WINDOW, F.MCRYPT_T10_LIMIT]
  else if off = 0x10 then
    [F.MCRYPT_LASTFAIL_KIND, F.MCRYPT_LASTFAIL_LEVEL, F.MCRYPT_LASTFAIL_STACK, F.MCRYPT_LASTFAIL_LINE]
  else if off = 0x18 then
    [F.MCRYPT_POISON_LINES]
  else []

/-- The fields of the HBMC register at a byte offset; none where no register is assigned (R11). -/
def fieldsAtHBMC (k : Nat) (off : Nat) : List Field :=
  if off = 0x0 then
    [F.HBMC_STATUS_TRAINED k, F.HBMC_STATUS_RATE k, F.HBMC_STATUS_SPARE_PC k, F.HBMC_STATUS_SPARE_USED k, F.HBMC_STATUS_LOST k]
  else if off = 0x4 then
    [F.HBMC_SWAP_GO k, F.HBMC_SWAP_DONE k, F.HBMC_SWAP_MIRROR k, F.HBMC_SWAP_ERR k, F.HBMC_SWAP_RETIRE k]
  else if off = 0x8 then
    [F.HBMC_COPY_MIB k]
  else if off = 0xc then
    [F.HBMC_CERR_SAT k, F.HBMC_CERR_COUNT k]
  else []

/-- The fields of the SPKE register at a byte offset; none where no register is assigned (R11). -/
def fieldsAtSPKE (off : Nat) : List Field :=
  if off = 0x0 then
    [F.SPKE_CTRL_GO, F.SPKE_CTRL_SLOT, F.SPKE_CTRL_OP]
  else if off = 0x4 then
    [F.SPKE_STATUS_BUSY, F.SPKE_STATUS_DONE, F.SPKE_STATUS_RESULT]
  else if off = 0x8 then
    [F.SPKE_PARAM_ADDR]
  else []

/-- The fields of the PKEC register at a byte offset; none where no register is assigned (R11). -/
def fieldsAtPKEC (k : Nat) (off : Nat) : List Field :=
  if off = 0x0 then
    [F.PKEC_STATUS_COMB_READY k, F.PKEC_STATUS_COMB_BUILDING k, F.PKEC_STATUS_TESTING k, F.PKEC_STATUS_BUSY k]
  else if off = 0x4 then
    [F.PKEC_COMB_REFRESH k, F.PKEC_COMB_DONE k, F.PKEC_COMB_SAT k, F.PKEC_COMB_EPOCH k]
  else if off = 0x8 then
    [F.PKEC_SELFTEST_GO k, F.PKEC_SELFTEST_DONE k, F.PKEC_SELFTEST_FAIL k, F.PKEC_SELFTEST_ERR k, F.PKEC_SELFTEST_TILE k]
  else if off = 0xc then
    [F.PKEC_SRAM_UNCORR k, F.PKEC_SRAM_SAT k, F.PKEC_SRAM_CORRECTED k]
  else if off = 0x10 then
    [F.PKEC_LASTSCF_OPCODE k, F.PKEC_LASTSCF_TILE k, F.PKEC_LASTSCF_DOMAIN k, F.PKEC_LASTSCF_CLASS k]
  else if 0x40 ≤ off ∧ off < 0x64 ∧ (off - 0x40) % 4 = 0 then
    [F.PKEC_SCF_SAT k ((off - 0x40) / 4), F.PKEC_SCF_COUNT k ((off - 0x40) / 4)]
  else []

/-- The fields of the SCIPH register at a byte offset; none where no register is assigned (R11). -/
def fieldsAtSCIPH (off : Nat) : List Field :=
  if off = 0x0 then
    [F.SCIPH_CTRL_GO, F.SCIPH_CTRL_SLOT, F.SCIPH_CTRL_OP]
  else if off = 0x4 then
    [F.SCIPH_STATUS_BUSY, F.SCIPH_STATUS_DONE, F.SCIPH_STATUS_RESULT]
  else if off = 0x8 then
    [F.SCIPH_PARAM_ADDR]
  else if off = 0xc then
    [F.SCIPH_SLOTS_VALID]
  else []

/-- The fields of the CIPC register at a byte offset; none where no register is assigned (R11). -/
def fieldsAtCIPC (k : Nat) (off : Nat) : List Field :=
  if off = 0x0 then
    [F.CIPC_STATUS_TESTING k, F.CIPC_STATUS_SUSPENDED k, F.CIPC_STATUS_BUSY k]
  else if off = 0x4 then
    [F.CIPC_URGENT_GAP k, F.CIPC_URGENT_LONG k, F.CIPC_URGENT_SHORT k]
  else if off = 0x8 then
    [F.CIPC_SELFTEST_GO k, F.CIPC_SELFTEST_DONE k, F.CIPC_SELFTEST_FAIL k, F.CIPC_SELFTEST_ERR k, F.CIPC_SELFTEST_TILE k]
  else if off = 0xc then
    [F.CIPC_SUSP_SAT k, F.CIPC_SUSP_COUNT k]
  else if 0x40 ≤ off ∧ off < 0x64 ∧ (off - 0x40) % 4 = 0 then
    [F.CIPC_LOCK_HOLD k ((off - 0x40) / 4), F.CIPC_LOCK_OWNER k ((off - 0x40) / 4), F.CIPC_LOCK_DOMAIN1 k ((off - 0x40) / 4), F.CIPC_LOCK_DOMAIN0 k ((off - 0x40) / 4)]
  else []

/-- The fields of the RNG register at a byte offset; none where no register is assigned (R11). -/
def fieldsAtRNG (off : Nat) : List Field :=
  if off = 0x0 then
    [F.RNG_CTRL_RAW_EXPORT, F.RNG_CTRL_STRICT, F.RNG_CTRL_SRC1_EN, F.RNG_CTRL_SRC0_EN]
  else if off = 0x4 then
    [F.RNG_STATUS_DATA_ERR, F.RNG_STATUS_KAT_FAIL, F.RNG_STATUS_NO_SEED, F.RNG_STATUS_DEGRADED, F.RNG_STATUS_FAIL1, F.RNG_STATUS_FAIL0, F.RNG_STATUS_STATE1, F.RNG_STATUS_STATE0]
  else if off = 0x8 then
    [F.RNG_HEALTH_APT_CUTOFF, F.RNG_HEALTH_RCT_CUTOFF]
  else if 0xc ≤ off ∧ off < 0x14 ∧ (off - 0xc) % 4 = 0 then
    [F.RNG_FAILS_SAT ((off - 0xc) / 4), F.RNG_FAILS_COUNT ((off - 0xc) / 4)]
  else if 0x14 ≤ off ∧ off < 0x1c ∧ (off - 0x14) % 4 = 0 then
    [F.RNG_BIAS_ONES ((off - 0x14) / 4), F.RNG_BIAS_EQUAL ((off - 0x14) / 4)]
  else if off = 0x1c then
    [F.RNG_RESEED_STALL_MS, F.RNG_RESEED_INTERVAL_LOG2]
  else if off = 0x20 then
    [F.RNG_SEEDS_SAT, F.RNG_SEEDS_COUNT]
  else if off = 0x24 then
    [F.RNG_STALLED_INST]
  else if off = 0x28 then
    [F.RNG_STRETCH_INST]
  else if off = 0x2c then
    [F.RNG_CONSTR_COUNT]
  else if off = 0x30 then
    [F.RNG_RAW_VALID, F.RNG_RAW_SOURCE, F.RNG_RAW_BITS]
  else if off = 0x34 then
    [F.RNG_DATA_VALUE]
  else []

/-- The fields of the HOSTSPI register at a byte offset; none where no register is assigned (R11). -/
def fieldsAtHOSTSPI (off : Nat) : List Field :=
  if off = 0x0 then
    [F.HOSTSPI_CTRL_MEASURE, F.HOSTSPI_CTRL_RELEASE, F.HOSTSPI_CTRL_LOAD]
  else if off = 0x4 then
    [F.HOSTSPI_STATUS_HOLD, F.HOSTSPI_STATUS_HOST_RST, F.HOSTSPI_STATUS_MEASURING, F.HOSTSPI_STATUS_MEASURED, F.HOSTSPI_STATUS_MAP_VALID, F.HOSTSPI_STATUS_RESET_SEEN, F.HOSTSPI_STATUS_MAP_ERR]
  else if off = 0x8 then
    [F.HOSTSPI_MAPADDR_VALUE]
  else if off = 0xc then
    [F.HOSTSPI_MAPLEN_VALUE]
  else if off = 0x10 then
    [F.HOSTSPI_MEASURE_RECOVERY, F.HOSTSPI_MEASURE_PRIMARY]
  else if off = 0x14 then
    [F.HOSTSPI_RESULT_RECOVERY, F.HOSTSPI_RESULT_PRIMARY]
  else if off = 0x18 then
    [F.HOSTSPI_OPEN_REGIONS]
  else if off = 0x1c then
    [F.HOSTSPI_REDIR_REGIONS]
  else if off = 0x20 then
    [F.HOSTSPI_BLOCKED_SAT, F.HOSTSPI_BLOCKED_COUNT]
  else if off = 0x24 then
    [F.HOSTSPI_RESETS_SAT, F.HOSTSPI_RESETS_COUNT]
  else if off = 0x28 then
    [F.HOSTSPI_UNKNOWN_SAT, F.HOSTSPI_UNKNOWN_COUNT]
  else if off = 0x2c then
    [F.HOSTSPI_LAST_OPCODE, F.HOSTSPI_LAST_DEVICE]
  else if off = 0x30 then
    [F.HOSTSPI_LASTADDR_ADDR]
  else if off = 0x34 then
    [F.HOSTSPI_RATE_MODE1, F.HOSTSPI_RATE_MODE0, F.HOSTSPI_RATE_MBPS]
  else if off = 0x3c then
    [F.HOSTSPI_DIGSEL_REC, F.HOSTSPI_DIGSEL_REGION]
  else if 0x40 ≤ off ∧ off < 0x70 ∧ (off - 0x40) % 4 = 0 then
    [F.HOSTSPI_DIGEST_HASH ((off - 0x40) / 4)]
  else []

/-- The fields of the WCORE register at a byte offset; none where no register is assigned (R11). -/
def fieldsAtWCORE (off : Nat) : List Field :=
  if off = 0x0 then
    [F.WCORE_STATUS_STATE_B, F.WCORE_STATUS_STATE_A, F.WCORE_STATUS_ARR]
  else if off = 0x4 then
    [F.WCORE_CTRL_SPLIT]
  else if off = 0x8 then
    [F.WCORE_STOPA_PC, F.WCORE_STOPA_VALID, F.WCORE_STOPA_W, F.WCORE_STOPA_L, F.WCORE_STOPA_ORIG, F.WCORE_STOPA_CODE]
  else if off = 0x10 then
    [F.WCORE_STOPB_PC, F.WCORE_STOPB_VALID, F.WCORE_STOPB_W, F.WCORE_STOPB_L, F.WCORE_STOPB_ORIG, F.WCORE_STOPB_CODE]
  else []

/-- The fields of the MPU_G register at a byte offset; none where no register is assigned (R11). -/
def fieldsAtMPUG (off : Nat) : List Field :=
  if off = 0x0 then
    [F.MPU_G_CTRL_ARB_LOCK, F.MPU_G_CTRL_FENCE_LOCK]
  else if off = 0x4 then
    [F.MPU_G_SYNC_PENDING, F.MPU_G_SYNC_ERR, F.MPU_G_SYNC_MASTERS]
  else if off = 0x8 then
    [F.MPU_G_SYNCERR_MASTER, F.MPU_G_SYNCERR_REGION]
  else if off = 0x10 then
    [F.MPU_G_VIOL_VALID, F.MPU_G_VIOL_KIND, F.MPU_G_VIOL_WRITE, F.MPU_G_VIOL_FETCH, F.MPU_G_VIOL_W, F.MPU_G_VIOL_L, F.MPU_G_VIOL_MASTER, F.MPU_G_VIOL_REGION, F.MPU_G_VIOL_ADDR]
  else if off = 0x18 then
    [F.MPU_G_VCOUNT_SAT, F.MPU_G_VCOUNT_COUNT]
  else if 0x100 ≤ off ∧ off < 0xc00 ∧ (off - 0x100) % 16 = 0 then
    [F.MPU_G_ADDR_BASE ((off - 0x100) / 0x100) ((off - 0x100) / 16 % 16), F.MPU_G_ADDR_SIZE ((off - 0x100) / 0x100) ((off - 0x100) / 16 % 16)]
  else if 0x108 ≤ off ∧ off < 0xc08 ∧ (off - 0x108) % 16 = 0 then
    [F.MPU_G_ATTR_SUBOFF ((off - 0x108) / 0x100) ((off - 0x108) / 16 % 16), F.MPU_G_ATTR_SEALED ((off - 0x108) / 0x100) ((off - 0x108) / 16 % 16), F.MPU_G_ATTR_OPEN ((off - 0x108) / 0x100) ((off - 0x108) / 16 % 16), F.MPU_G_ATTR_XS ((off - 0x108) / 0x100) ((off - 0x108) / 16 % 16), F.MPU_G_ATTR_WS ((off - 0x108) / 0x100) ((off - 0x108) / 16 % 16), F.MPU_G_ATTR_RS ((off - 0x108) / 0x100) ((off - 0x108) / 16 % 16), F.MPU_G_ATTR_XU ((off - 0x108) / 0x100) ((off - 0x108) / 16 % 16), F.MPU_G_ATTR_WU ((off - 0x108) / 0x100) ((off - 0x108) / 16 % 16), F.MPU_G_ATTR_RU ((off - 0x108) / 0x100) ((off - 0x108) / 16 % 16)]
  else if 0x40 ≤ off ∧ off < 0x58 ∧ (off - 0x40) % 4 = 0 then
    [F.MPU_G_GFENCE_WORD ((off - 0x40) / 4)]
  else if 0x60 ≤ off ∧ off < 0xe0 ∧ (off - 0x60) % 4 = 0 then
    [F.MPU_G_GRANGE_WORD ((off - 0x60) / 4)]
  else if 0xc00 ≤ off ∧ off < 0xd00 ∧ (off - 0xc00) % 4 = 0 then
    [F.ARB0_SLOT_WORD ((off - 0xc00) / 4)]
  else if 0xd00 ≤ off ∧ off < 0xe00 ∧ (off - 0xd00) % 4 = 0 then
    [F.ARB1_SLOT_WORD ((off - 0xd00) / 4)]
  else if 0xe00 ≤ off ∧ off < 0xe0c ∧ (off - 0xe00) % 4 = 0 then
    [F.ARB0_RANK_WORD ((off - 0xe00) / 4)]
  else if 0xe10 ≤ off ∧ off < 0xe1c ∧ (off - 0xe10) % 4 = 0 then
    [F.ARB1_RANK_WORD ((off - 0xe10) / 4)]
  else []

/-- The fields of the MPU_L register at a byte offset; none where no register is assigned (R11). -/
def fieldsAtMPUL (off : Nat) : List Field :=
  if off = 0x4 then
    [F.MPU_L_SYNC_PENDING, F.MPU_L_SYNC_ERR, F.MPU_L_SYNC_MASTERS]
  else if off = 0x8 then
    [F.MPU_L_SYNCERR_MASTER, F.MPU_L_SYNCERR_REGION]
  else if off = 0x10 then
    [F.MPU_L_VIOL_VALID, F.MPU_L_VIOL_KIND, F.MPU_L_VIOL_WRITE, F.MPU_L_VIOL_FETCH, F.MPU_L_VIOL_W, F.MPU_L_VIOL_L, F.MPU_L_VIOL_MASTER, F.MPU_L_VIOL_REGION, F.MPU_L_VIOL_ADDR]
  else if off = 0x18 then
    [F.MPU_L_VCOUNT_SAT, F.MPU_L_VCOUNT_COUNT]
  else if 0x1000 ≤ off ∧ off < 0x2800 ∧ (off - 0x1000) % 16 = 0 then
    [F.MPU_L_ADDR_BASE ((off - 0x1000) / 0x100) ((off - 0x1000) / 16 % 16), F.MPU_L_ADDR_SIZE ((off - 0x1000) / 0x100) ((off - 0x1000) / 16 % 16)]
  else if 0x1008 ≤ off ∧ off < 0x2808 ∧ (off - 0x1008) % 16 = 0 then
    [F.MPU_L_ATTR_SUBOFF ((off - 0x1008) / 0x100) ((off - 0x1008) / 16 % 16), F.MPU_L_ATTR_SEALED ((off - 0x1008) / 0x100) ((off - 0x1008) / 16 % 16), F.MPU_L_ATTR_OPEN ((off - 0x1008) / 0x100) ((off - 0x1008) / 16 % 16), F.MPU_L_ATTR_XS ((off - 0x1008) / 0x100) ((off - 0x1008) / 16 % 16), F.MPU_L_ATTR_WS ((off - 0x1008) / 0x100) ((off - 0x1008) / 16 % 16), F.MPU_L_ATTR_RS ((off - 0x1008) / 0x100) ((off - 0x1008) / 16 % 16), F.MPU_L_ATTR_XU ((off - 0x1008) / 0x100) ((off - 0x1008) / 16 % 16), F.MPU_L_ATTR_WU ((off - 0x1008) / 0x100) ((off - 0x1008) / 16 % 16), F.MPU_L_ATTR_RU ((off - 0x1008) / 0x100) ((off - 0x1008) / 16 % 16)]
  else []

/-- The fields of the STAGE register at a byte offset; none where no register is assigned (R11). -/
def fieldsAtSTAGE (k : Nat) (off : Nat) : List Field :=
  if off = 0x0 then
    [F.STAGE_STATUS_LOCKED k, F.STAGE_STATUS_SLOT k, F.STAGE_STATUS_OWNER k]
  else if off = 0x4 then
    [F.STAGE_CTRL_LOCK k]
  else if 0x100 ≤ off ∧ off < 0x200 ∧ (off - 0x100) % 4 = 0 then
    [F.STAGE_SLOT_SLOT3 k ((off - 0x100) / 4), F.STAGE_SLOT_SLOT2 k ((off - 0x100) / 4), F.STAGE_SLOT_SLOT1 k ((off - 0x100) / 4), F.STAGE_SLOT_SLOT0 k ((off - 0x100) / 4)]
  else if 0x200 ≤ off ∧ off < 0x220 ∧ (off - 0x200) % 4 = 0 then
    [F.STAGE_RANK_RANK3 k ((off - 0x200) / 4), F.STAGE_RANK_RANK2 k ((off - 0x200) / 4), F.STAGE_RANK_RANK1 k ((off - 0x200) / 4), F.STAGE_RANK_RANK0 k ((off - 0x200) / 4)]
  else []

/-- The fields of the FLASHC register at a byte offset; none where no register is assigned (R11). -/
def fieldsAtFLASHC (off : Nat) : List Field :=
  if off = 0x0 then
    [F.FLASHC_STATUS_BUSY, F.FLASHC_STATUS_DONE, F.FLASHC_STATUS_SUSP, F.FLASHC_STATUS_WEAK, F.FLASHC_STATUS_UNCORR, F.FLASHC_STATUS_HALF, F.FLASHC_STATUS_FIELD, F.FLASHC_STATUS_OP]
  else if off = 0x4 then
    [F.FLASHC_CMD_KEY, F.FLASHC_CMD_OP]
  else if off = 0x8 then
    [F.FLASHC_ADDR_VALUE]
  else if off = 0xc then
    [F.FLASHC_SRC_VALUE]
  else if off = 0x10 then
    [F.FLASHC_LEN_VALUE]
  else if off = 0x14 then
    [F.FLASHC_RESULT_ERR, F.FLASHC_RESULT_MAXCNT, F.FLASHC_RESULT_LOST]
  else if off = 0x18 then
    [F.FLASHC_ECCTHR_T13_LIMIT, F.FLASHC_ECCTHR_THRESH]
  else if off = 0x1c then
    [F.FLASHC_ECCLAST_COUNT, F.FLASHC_ECCLAST_BANK, F.FLASHC_ECCLAST_OFFSET]
  else if off = 0x20 then
    [F.FLASHC_WEAK_VALID, F.FLASHC_WEAK_BANK, F.FLASHC_WEAK_SECTOR]
  else if off = 0x24 then
    [F.FLASHC_CORR_SAT, F.FLASHC_CORR_COUNT]
  else if off = 0x28 then
    [F.FLASHC_UNCORR_SAT, F.FLASHC_UNCORR_COUNT]
  else if off = 0x2c then
    [F.FLASHC_SPARE_USED1, F.FLASHC_SPARE_USED0]
  else if off = 0x30 then
    [F.FLASHC_CTRL_ZLOCK]
  else if 0x34 ≤ off ∧ off < 0x3c ∧ (off - 0x34) % 4 = 0 then
    [F.FLASHC_HALF_VALID ((off - 0x34) / 4), F.FLASHC_HALF_COUNT ((off - 0x34) / 4), F.FLASHC_HALF_FIRST ((off - 0x34) / 4)]
  else if 0x40 ≤ off ∧ off < 0x50 ∧ (off - 0x40) % 4 = 0 then
    [F.FLASHC_ZRANGE_VALID ((off - 0x40) / 4), F.FLASHC_ZRANGE_BANK ((off - 0x40) / 4), F.FLASHC_ZRANGE_COUNT ((off - 0x40) / 4), F.FLASHC_ZRANGE_FIRST ((off - 0x40) / 4)]
  else if 0x100 ≤ off ∧ off < 0x180 ∧ (off - 0x100) % 4 = 0 then
    [F.FLASHC_WP0_PROTECT ((off - 0x100) / 4)]
  else if 0x180 ≤ off ∧ off < 0x200 ∧ (off - 0x180) % 4 = 0 then
    [F.FLASHC_WP1_PROTECT ((off - 0x180) / 4)]
  else []

/-- The fields of the TAMPER register at a byte offset; none where no register is assigned (R11). -/
def fieldsAtTAMPER (off : Nat) : List Field :=
  if off = 0x0 then
    [F.TAMPER_STATUS_ZALL_DONE, F.TAMPER_STATUS_SELFTEST_BUSY, F.TAMPER_STATUS_CELL_EVENTS, F.TAMPER_STATUS_EVID_FULL, F.TAMPER_STATUS_HOLD, F.TAMPER_STATUS_BK_VALID, F.TAMPER_STATUS_ZPEND, F.TAMPER_STATUS_LOCKED]
  else if off = 0x4 then
    [F.TAMPER_CTRL_KEY, F.TAMPER_CTRL_ZALL, F.TAMPER_CTRL_BKGEN, F.TAMPER_CTRL_ZDONE, F.TAMPER_CTRL_UNLOCK, F.TAMPER_CTRL_CFG_LOCK]
  else if off = 0x8 then
    [F.TAMPER_ALARM_TRIPPED, F.TAMPER_ALARM_LATCHED]
  else if off = 0xc then
    [F.TAMPER_DISAGREE_LATCHED]
  else if off = 0x10 then
    [F.TAMPER_LAST_SOURCES, F.TAMPER_LAST_EXECUTED, F.TAMPER_LAST_CELL]
  else if off = 0x14 then
    [F.TAMPER_EVID_FULL, F.TAMPER_EVID_TARGET, F.TAMPER_EVID_PROGRAMMED]
  else if off = 0x18 then
    [F.TAMPER_SELFTEST_GO, F.TAMPER_SELFTEST_DONE, F.TAMPER_SELFTEST_FAIL, F.TAMPER_SELFTEST_ERR, F.TAMPER_SELFTEST_DET, F.TAMPER_SELFTEST_SOURCE]
  else if off = 0x1c then
    [F.TAMPER_FORCE_TRIP]
  else if off = 0x20 then
    [F.TAMPER_CELLLOG_SECONDS, F.TAMPER_CELLLOG_VALID, F.TAMPER_CELLLOG_OVERFLOW, F.TAMPER_CELLLOG_LOSTCNT, F.TAMPER_CELLLOG_EXECUTED, F.TAMPER_CELLLOG_SOURCES]
  else if 0x40 ≤ off ∧ off < 0x80 ∧ (off - 0x40) % 4 = 0 then
    [F.TAMPER_RESP_DISABLED ((off - 0x40) / 4), F.TAMPER_RESP_EVID ((off - 0x40) / 4), F.TAMPER_RESP_CELL ((off - 0x40) / 4), F.TAMPER_RESP_MAIN ((off - 0x40) / 4)]
  else if 0x80 ≤ off ∧ off < 0xc0 ∧ (off - 0x80) % 4 = 0 then
    [F.TAMPER_COUNT_SAT ((off - 0x80) / 4), F.TAMPER_COUNT_COUNT ((off - 0x80) / 4)]
  else []

/-- The fields of the FCOLL register at a byte offset; none where no register is assigned (R11). -/
def fieldsAtFCOLL (off : Nat) : List Field :=
  if off = 0x0 then
    [F.FCOLL_STATUS_SAFE, F.FCOLL_STATUS_QUIET, F.FCOLL_STATUS_HOLD, F.FCOLL_STATUS_LIMIT, F.FCOLL_STATUS_RETIRE_REQ, F.FCOLL_STATUS_EXIT, F.FCOLL_STATUS_SAFE_CODE]
  else if off = 0x4 then
    [F.FCOLL_CTRL_KEY, F.FCOLL_CTRL_RCLR, F.FCOLL_CTRL_EXIT, F.FCOLL_CTRL_RETIRE_ACK]
  else if off = 0x8 then
    [F.FCOLL_QUIET_MS]
  else if off = 0xc then
    [F.FCOLL_RLIMIT_WINDOW, F.FCOLL_RLIMIT_LIMIT]
  else if off = 0x10 then
    [F.FCOLL_RECOV_SAT, F.FCOLL_RECOV_COUNT]
  else if off = 0x14 then
    [F.FCOLL_RETIRE_VALID, F.FCOLL_RETIRE_CLASS, F.FCOLL_RETIRE_UNIT, F.FCOLL_RETIRE_PART, F.FCOLL_RETIRE_REASON]
  else if off = 0x18 then
    [F.FCOLL_LAST_SECONDS, F.FCOLL_LAST_FORCED, F.FCOLL_LAST_CLASS, F.FCOLL_LAST_UNIT, F.FCOLL_LAST_PART, F.FCOLL_LAST_CODE]
  else if off = 0x20 then
    [F.FCOLL_FORCE_GO, F.FCOLL_FORCE_UNIT, F.FCOLL_FORCE_PART, F.FCOLL_FORCE_CODE]
  else if off = 0x24 then
    [F.FCOLL_TILETHR_SCF_LIMIT, F.FCOLL_TILETHR_WINDOW]
  else if off = 0x28 then
    [F.FCOLL_HBMTHR_PC_LIMIT, F.FCOLL_HBMTHR_ROW_LIMIT]
  else if off = 0x2c then
    [F.FCOLL_LANETHR_LIMIT]
  else if 0x100 ≤ off ∧ off < 0x200 ∧ (off - 0x100) % 4 = 0 then
    [F.FCOLL_COUNT_SAT ((off - 0x100) / 4), F.FCOLL_COUNT_COUNT ((off - 0x100) / 4)]
  else []

/-- The fields of the EVREC register at a byte offset; none where no register is assigned (R11). -/
def fieldsAtEVREC (off : Nat) : List Field :=
  if off = 0x0 then
    [F.EVREC_STATUS_STAGED, F.EVREC_STATUS_OPEN, F.EVREC_STATUS_FROZEN_FULL, F.EVREC_STATUS_ERASING, F.EVREC_STATUS_SCANNED]
  else if off = 0x4 then
    [F.EVREC_CTRL_FREEZE]
  else if off = 0x8 then
    [F.EVREC_MERGE_WINDOW]
  else if off = 0x10 then
    [F.EVREC_HEAD_SEQ]
  else if off = 0x18 then
    [F.EVREC_OLDEST_SEQ]
  else if off = 0x20 then
    [F.EVREC_DROPPED_SAT, F.EVREC_DROPPED_COUNT]
  else if off = 0x24 then
    [F.EVREC_SW_CODE, F.EVREC_SW_UNIT, F.EVREC_SW_PART]
  else if off = 0x28 then
    [F.EVREC_SWDET_DETAIL]
  else []

/-- The fields of the TIMEKEEP register at a byte offset; none where no register is assigned (R11). -/
def fieldsAtTIMEKEEP (off : Nat) : List Field :=
  if off = 0x0 then
    [F.TIMEKEEP_STATUS_RESTORED, F.TIMEKEEP_STATUS_OSC_FAIL, F.TIMEKEEP_STATUS_RTC_VALID]
  else if off = 0x4 then
    [F.TIMEKEEP_RTC_SECONDS]
  else if off = 0x8 then
    [F.TIMEKEEP_OPTIME_SAT, F.TIMEKEEP_OPTIME_COUNT]
  else if off = 0x10 then
    [F.TIMEKEEP_PCYCLE_SAT, F.TIMEKEEP_PCYCLE_COUNT]
  else []

/-- The fields of the PWRARB register at a byte offset; none where no register is assigned (R11). -/
def fieldsAtPWRARB (off : Nat) : List Field :=
  if off = 0x0 then
    [F.PWRARB_STATUS_CAPEX, F.PWRARB_STATUS_FALLBACK, F.PWRARB_STATUS_STAGE, F.PWRARB_STATUS_MODE_BUSY, F.PWRARB_STATUS_MODE]
  else if off = 0x4 then
    [F.PWRARB_MODE_KEY, F.PWRARB_MODE_GO, F.PWRARB_MODE_DONE, F.PWRARB_MODE_ERR, F.PWRARB_MODE_TARGET]
  else if off = 0x8 then
    [F.PWRARB_POOL_CAP_EFF, F.PWRARB_POOL_FREE]
  else if off = 0xc then
    [F.PWRARB_THERM_HBM_HOT, F.PWRARB_THERM_CRIT, F.PWRARB_THERM_HOT, F.PWRARB_THERM_WARN]
  else if off = 0x10 then
    [F.PWRARB_TEMP_HBM_MAX, F.PWRARB_TEMP_TJ_DOMAIN, F.PWRARB_TEMP_TJ_MAX]
  else if off = 0x14 then
    [F.PWRARB_POWER_PEAK, F.PWRARB_POWER_NOW]
  else if off = 0x18 then
    [F.PWRARB_VID_BUSY, F.PWRARB_VID_ERR, F.PWRARB_VID_READ_MV, F.PWRARB_VID_TARGET_MV]
  else if off = 0x1c then
    [F.PWRARB_PMBUS_ADDR]
  else if 0x20 ≤ off ∧ off < 0x2c ∧ (off - 0x20) % 4 = 0 then
    [F.PWRARB_DOMSTATE_ON ((off - 0x20) / 4)]
  else if off = 0x30 then
    [F.PWRARB_DOMCTRL_KEY, F.PWRARB_DOMCTRL_ON, F.PWRARB_DOMCTRL_ERR, F.PWRARB_DOMCTRL_DOMAIN]
  else if off = 0x34 then
    [F.PWRARB_THROTTLES_SAT, F.PWRARB_THROTTLES_COUNT]
  else if off = 0x38 then
    [F.PWRARB_CAPEX_SAT, F.PWRARB_CAPEX_COUNT]
  else if 0x100 ≤ off ∧ off < 0x1c0 ∧ (off - 0x100) % 4 = 0 then
    [F.PWRARB_GRANT_STEP ((off - 0x100) / 4), F.PWRARB_GRANT_DEMAND ((off - 0x100) / 4), F.PWRARB_GRANT_GRANT ((off - 0x100) / 4)]
  else []

/-- The fields of the CARD register at a byte offset; none where no register is assigned (R11). -/
def fieldsAtCARD (k : Nat) (off : Nat) : List Field :=
  if off = 0x0 then
    [F.CARD_STATUS_PRESENT k, F.CARD_STATUS_BUSY k, F.CARD_STATUS_DONE k, F.CARD_STATUS_REMOVED k, F.CARD_STATUS_CLASS k, F.CARD_STATUS_STATE k]
  else if off = 0x4 then
    [F.CARD_CMD_CMD k]
  else if off = 0x8 then
    [F.CARD_CFG_CLKDIV k, F.CARD_CFG_DI_MAX k, F.CARD_CFG_PREFER_T1 k, F.CARD_CFG_PRES_POL k]
  else if off = 0xc then
    [F.CARD_RESULT_ERR k, F.CARD_RESULT_RXLEN k, F.CARD_RESULT_SW k]
  else if off = 0x10 then
    [F.CARD_TXLEN_LEN k]
  else if off = 0x14 then
    [F.CARD_DATA_BYTES k]
  else if off = 0x18 then
    [F.CARD_PROTO_T k, F.CARD_PROTO_FI k, F.CARD_PROTO_DI k]
  else if off = 0x1c then
    [F.CARD_ERRCNT_SAT k, F.CARD_ERRCNT_COUNT k]
  else if k = 0 ∧ off = 0x40 then
    [F.CARD_QUORUM_REJECTS k]
  else if k = 0 ∧ off = 0x44 then
    [F.CARD_QTIME_SECONDS k]
  else []

/-- The fields of the SDH register at a byte offset; none where no register is assigned (R11). -/
def fieldsAtSDH (off : Nat) : List Field :=
  if off = 0x0 then
    [F.SDH_STATUS_CQ, F.SDH_STATUS_V18, F.SDH_STATUS_LOCKED, F.SDH_STATUS_PRESENT, F.SDH_STATUS_BUSY, F.SDH_STATUS_DONE, F.SDH_STATUS_REMOVED, F.SDH_STATUS_STATE]
  else if off = 0x4 then
    [F.SDH_CMD_KEY, F.SDH_CMD_CMD]
  else if off = 0x8 then
    [F.SDH_CFG_CQ_EN, F.SDH_CFG_AUTO_ERASE, F.SDH_CFG_MAX_MODE]
  else if off = 0x10 then
    [F.SDH_BLOCK_BLOCK]
  else if off = 0x28 then
    [F.SDH_CAP_BLOCK]
  else if off = 0x18 then
    [F.SDH_SRAM_VALUE]
  else if off = 0x1c then
    [F.SDH_COUNT_VALUE]
  else if off = 0x20 then
    [F.SDH_RESULT_ERR, F.SDH_RESULT_DONE_BLOCKS]
  else if off = 0x30 then
    [F.SDH_WERR_SAT, F.SDH_WERR_COUNT]
  else []

/-- The fields of the TAG register at a byte offset; none where no register is assigned (R11). -/
def fieldsAtTAG (off : Nat) : List Field :=
  if off = 0x0 then
    [F.TAG_STATUS_HANDLES, F.TAG_STATUS_FIELD, F.TAG_STATUS_SOURCE, F.TAG_STATUS_FIELD_SEEN, F.TAG_STATUS_INTENT, F.TAG_STATUS_BUSY, F.TAG_STATUS_DONE]
  else if off = 0x4 then
    [F.TAG_CMD_KEY, F.TAG_CMD_CMD]
  else if off = 0x8 then
    [F.TAG_ADDR_COUNT, F.TAG_ADDR_BLOCK]
  else if off = 0xc then
    [F.TAG_SRC_ADDR]
  else if off = 0x10 then
    [F.TAG_RESULT_ERR, F.TAG_RESULT_FLASH_ERR]
  else if off = 0x14 then
    [F.TAG_CFG_FIELD_WRITE, F.TAG_CFG_PRIVACY]
  else if off = 0x18 then
    [F.TAG_FIELD_VRECT_MV]
  else if off = 0x1c then
    [F.TAG_CMDS_SAT, F.TAG_CMDS_COUNT]
  else if off = 0x20 then
    [F.TAG_WEAK_SAT, F.TAG_WEAK_COUNT]
  else if off = 0x28 then
    [F.TAG_UID_UID]
  else []

/-- The fields of the SIDEB register at a byte offset; none where no register is assigned (R11). -/
def fieldsAtSIDEB (off : Nat) : List Field :=
  if off = 0x0 then
    [F.SIDEB_STATUS_EID, F.SIDEB_STATUS_DYN_ADDR, F.SIDEB_STATUS_TX_DONE, F.SIDEB_STATUS_RX_OVF, F.SIDEB_STATUS_TX_BUSY, F.SIDEB_STATUS_RX_READY, F.SIDEB_STATUS_MODE]
  else if off = 0x4 then
    [F.SIDEB_CFG_STATIC_ADDR, F.SIDEB_CFG_FALLBACK, F.SIDEB_CFG_MTU]
  else if off = 0x8 then
    [F.SIDEB_RXDATA_BYTES]
  else if off = 0x10 then
    [F.SIDEB_TXDATA_BYTES]
  else if off = 0xc then
    [F.SIDEB_RXINFO_VALID, F.SIDEB_RXINFO_LEN, F.SIDEB_RXINFO_EID, F.SIDEB_RXINFO_TO, F.SIDEB_RXINFO_TAG]
  else if off = 0x14 then
    [F.SIDEB_TXCTRL_GO, F.SIDEB_TXCTRL_LEN, F.SIDEB_TXCTRL_EID, F.SIDEB_TXCTRL_TO, F.SIDEB_TXCTRL_TAG]
  else if off = 0x18 then
    [F.SIDEB_ERRCNT_SAT, F.SIDEB_ERRCNT_COUNT]
  else []

/-- The fields of the TEST register at a byte offset; none where no register is assigned (R11). -/
def fieldsAtTEST (off : Nat) : List Field :=
  if off = 0x0 then
    [F.TEST_CTRL_GO, F.TEST_CTRL_STOP, F.TEST_CTRL_PATTERN, F.TEST_CTRL_CLASS, F.TEST_CTRL_DIR, F.TEST_CTRL_INDEX, F.TEST_CTRL_SECONDS]
  else if off = 0x4 then
    [F.TEST_STATUS_BUSY, F.TEST_STATUS_DONE, F.TEST_STATUS_LOCK, F.TEST_STATUS_ERR]
  else if off = 0x8 then
    [F.TEST_BITS_COUNT]
  else if off = 0x10 then
    [F.TEST_ERRS_SAT, F.TEST_ERRS_COUNT]
  else if off = 0x14 then
    [F.TEST_USER_PATTERN]
  else if off = 0x18 then
    [F.TEST_DBSPARE_USED_LG, F.TEST_DBSPARE_USED_GL, F.TEST_DBSPARE_BAD_LG, F.TEST_DBSPARE_BAD_GL]
  else []

/-- The fields of the DEBUG register at a byte offset; none where no register is assigned (R11). -/
def fieldsAtDEBUG (off : Nat) : List Field :=
  if off = 0x0 then
    [F.DEBUG_STATUS_FAILS, F.DEBUG_STATUS_SAT, F.DEBUG_STATUS_OPEN, F.DEBUG_STATUS_CLOSED, F.DEBUG_STATUS_PENDING]
  else if off = 0x4 then
    [F.DEBUG_CTRL_KEY, F.DEBUG_CTRL_SUBMIT, F.DEBUG_CTRL_REFUSE, F.DEBUG_CTRL_GRANT]
  else if 0x20 ≤ off ∧ off < 0x40 ∧ (off - 0x20) % 4 = 0 then
    [F.DEBUG_NONCE_VALUE ((off - 0x20) / 4)]
  else if 0x100 ≤ off ∧ off < 0x240 ∧ (off - 0x100) % 4 = 0 then
    [F.DEBUG_TOKEN_VALUE ((off - 0x100) / 4)]
  else []

/-- The fields of the LTEST register at a byte offset; none where no register is assigned (R11). -/
def fieldsAtLTEST (off : Nat) : List Field :=
  if off = 0x0 then
    [F.LTEST_CTRL_GO, F.LTEST_CTRL_STOP, F.LTEST_CTRL_PATTERN, F.LTEST_CTRL_CLASS, F.LTEST_CTRL_DIR, F.LTEST_CTRL_INDEX, F.LTEST_CTRL_SECONDS]
  else if off = 0x4 then
    [F.LTEST_STATUS_BUSY, F.LTEST_STATUS_DONE, F.LTEST_STATUS_LOCK, F.LTEST_STATUS_ERR]
  else if off = 0x8 then
    [F.LTEST_BITS_COUNT]
  else if off = 0x10 then
    [F.LTEST_ERRS_SAT, F.LTEST_ERRS_COUNT]
  else if off = 0x14 then
    [F.LTEST_USER_PATTERN]
  else if off = 0x18 then
    [F.LTEST_DBSPARE_USED_LG, F.LTEST_DBSPARE_USED_GL, F.LTEST_DBSPARE_BAD_LG, F.LTEST_DBSPARE_BAD_GL]
  else []

/-- The fields of the register at a byte offset of a block, for every block of R38, R40 and R41. -/
def fieldsAt (blk off : Nat) : List Field :=
  if blk = 0x28 then fieldsAtLSENSE off
  else if blk = 0x0 then fieldsAtSYSCTL off
  else if blk = 0x1 then fieldsAtFUSE off
  else if blk = 0x20 then fieldsAtSTRUCT off
  else if 0x80 ≤ blk ∧ blk < 0xc0 then fieldsAtBAR0 (blk - 0x80) off
  else if blk = 0x26 then fieldsAtQMGR off
  else if blk = 0x25 then fieldsAtPCIEC off
  else if blk = 0x22 then fieldsAtKCACHE off
  else if blk = 0x23 then fieldsAtMCRYPT off
  else if 0x30 ≤ blk ∧ blk < 0x34 then fieldsAtHBMC (blk - 0x30) off
  else if blk = 0x8 then fieldsAtSPKE off
  else if 0x40 ≤ blk ∧ blk < 0x50 then fieldsAtPKEC (blk - 0x40) off
  else if blk = 0x7 then fieldsAtSCIPH off
  else if 0x50 ≤ blk ∧ blk < 0x58 then fieldsAtCIPC (blk - 0x50) off
  else if blk = 0x6 then fieldsAtRNG off
  else if blk = 0x10 then fieldsAtHOSTSPI off
  else if blk = 0x15 then fieldsAtWCORE off
  else if blk = 0xa then fieldsAtMPUG off
  else if blk = 0x24 then fieldsAtMPUL off
  else if 0x34 ≤ blk ∧ blk < 0x38 then fieldsAtSTAGE (blk - 0x34) off
  else if blk = 0x9 then fieldsAtFLASHC off
  else if blk = 0x5 then fieldsAtTAMPER off
  else if blk = 0x3 then fieldsAtFCOLL off
  else if blk = 0x4 then fieldsAtEVREC off
  else if blk = 0x13 then fieldsAtTIMEKEEP off
  else if blk = 0x2 then fieldsAtPWRARB off
  else if 0xb ≤ blk ∧ blk < 0xd then fieldsAtCARD (blk - 0xb) off
  else if blk = 0xd then fieldsAtSDH off
  else if blk = 0xe then fieldsAtTAG off
  else if blk = 0x11 then fieldsAtSIDEB off
  else if blk = 0x14 then fieldsAtTEST off
  else if blk = 0x17 then fieldsAtDEBUG off
  else if blk = 0x27 then fieldsAtLTEST off
  else []

/-- The bits of a register that a PARAMS entry may name: those whose Reset reads image, apart from the ones R608 copies from elsewhere. -/
def paramMask (blk off : Nat) : Nat :=
  if blk = 0x28 ∧ off = 0x4 then 0xffff
  else if blk = 0x26 ∧ 0x40 ≤ off ∧ off < 0x60 ∧ off % 4 = 0 then 0xffffffff
  else if blk = 0x22 ∧ off = 0x8 then 0xffff
  else if blk = 0x23 ∧ off = 0x8 then 0xffff00ff
  else if 0x50 ≤ blk ∧ blk < 0x58 ∧ off = 0x4 then 0xff00ffff
  else if blk = 0x6 ∧ off = 0x0 then 0x110
  else if blk = 0x6 ∧ off = 0x8 then 0xffff00ff
  else if blk = 0x6 ∧ off = 0x1c then 0xff1f
  else if blk = 0x9 ∧ off = 0x18 then 0xff07
  else if blk = 0x5 ∧ 0x40 ≤ off ∧ off < 0x80 ∧ off % 4 = 0 then 0x177
  else if blk = 0x3 ∧ off = 0x8 then 0xffff
  else if blk = 0x3 ∧ off = 0xc then 0xffff00ff
  else if blk = 0x3 ∧ off = 0x24 then 0xff00ffff
  else if blk = 0x3 ∧ off = 0x28 then 0xffff00ff
  else if blk = 0x3 ∧ off = 0x2c then 0xffff
  else if blk = 0x4 ∧ off = 0x8 then 0xff
  else if blk = 0x2 ∧ off = 0xc then 0xffffffff
  else if blk = 0x2 ∧ off = 0x1c then 0x7f
  else if 0xb ≤ blk ∧ blk < 0xd ∧ off = 0x8 then 0xff000f03
  else if blk = 0xb ∧ off = 0x44 then 0xffff
  else if blk = 0xd ∧ off = 0x8 then 0xc0000003
  else if blk = 0xe ∧ off = 0x14 then 0x3
  else if blk = 0x11 ∧ off = 0x4 then 0x7f0301ff
  else 0

/-- The bits of a register that R608 copies from the header or from another section than PARAMS. -/
def copiedMask (blk off : Nat) : Nat :=
  if blk = 0x20 ∧ off = 0x14 then 0xf33
  else if blk = 0x25 ∧ off = 0x4 then 0xffffffff
  else if blk = 0x25 ∧ off = 0x8 then 0x100
  else if 0x34 ≤ blk ∧ blk < 0x38 ∧ 0x100 ≤ off ∧ off < 0x200 ∧ off % 4 = 0 then 0xffffffff
  else if 0x34 ≤ blk ∧ blk < 0x38 ∧ 0x200 ≤ off ∧ off < 0x220 ∧ off % 4 = 0 then 0xffffffff
  else if blk = 0x2 ∧ off = 0x0 then 0x3
  else if blk = 0x2 ∧ off = 0x8 then 0xffff0000
  else if blk = 0xa ∧ 0xc00 ≤ off ∧ off < 0xd00 ∧ off % 4 = 0 then 0xffffffff
  else if blk = 0xa ∧ 0xd00 ≤ off ∧ off < 0xe00 ∧ off % 4 = 0 then 0xffffffff
  else if blk = 0xa ∧ 0xe00 ≤ off ∧ off < 0xe0c ∧ off % 4 = 0 then 0xffffffff
  else if blk = 0xa ∧ 0xe10 ≤ off ∧ off < 0xe1c ∧ off % 4 = 0 then 0xffffffff
  else 0

end Sys2Proof.Machine
end

