-- ==== Sys2Proof/Machine/Sparse.lean ====
section
/-!
DEFINITION. Sparse.lean: finite maps from numbers as lists of pairs in one canonical form: keys strictly rising, and no
entry equal to the value an unlisted key reads as.
-/
namespace Sys2Proof.Machine

variable {α : Type}

/-- The value listed for a key. -/
def mapGet? : List (Nat × α) → Nat → Option α
  | [], _ => none
  | (k, v) :: t, q => if k = q then some v else mapGet? t q

/-- The value of a key, `d` where none is listed. -/
def mapGet (m : List (Nat × α)) (q : Nat) (d : α) : α := (mapGet? m q).getD d

/-- List a value for a key, keeping the keys rising. -/
def mapPut : List (Nat × α) → Nat → α → List (Nat × α)
  | [], q, v => [(q, v)]
  | (k, w) :: t, q, v =>
    if k = q then (q, v) :: t else if q < k then (q, v) :: (k, w) :: t else (k, w) :: mapPut t q v

/-- Take a key off the list. -/
def mapErase (m : List (Nat × α)) (q : Nat) : List (Nat × α) := m.filter (fun e => e.1 != q)

/-- Set a key; the default value `d` is never listed. -/
def mapSet [DecidableEq α] (m : List (Nat × α)) (q : Nat) (v d : α) : List (Nat × α) :=
  if v = d then mapErase m q else mapPut m q v

/-- The keys rise strictly. -/
def keysRise : List (Nat × α) → Bool
  | [] => true
  | [_] => true
  | (a, _) :: (b, w) :: t => decide (a < b) && keysRise ((b, w) :: t)

/-- The canonical form of a map whose unlisted keys read `d`. -/
def mapWf [DecidableEq α] (m : List (Nat × α)) (d : α) : Bool := keysRise m && m.all (fun e => e.2 != d)

end Sys2Proof.Machine
end

