-- ==== Sys2Proof/Machine/State.lean ====
section
/-!
DEFINITION. State.lean: the whole state of the L9 as plain data. Every register field of Regs.lean lives in `regs`
under its key; everything else the chapters give the machine stands in the structures below, one a chapter or unit.
-/
namespace Sys2Proof.Machine

/-- Why the machine stops. No rule of the spec stops the block; the constructor stands for a state in which the model
itself could go no further. Nothing raises it at present. Safe. -/
inductive Fault where
  | stuck (why : String)
  deriving DecidableEq, Repr

/-- Why a command gets no answer. Every command has its meaning, and no meaning refuses. -/
inductive Refusal where
  /-- No meaning yet; only the arms of Dispatch.lean raise it. Safe. -/
  | notModelled (mnemonic : String)
  deriving DecidableEq, Repr

/-! ## Power-up, reset and fuses (02) -/

/-- How far the Gecko leg has come (R42, R44, R47, R48, R466). -/
inductive Phase where
  | off          -- main power not good
  | held         -- relay held at the end of step 2 (R466)
  | romRecovery  -- neither Sealed slot verified (R47)
  | sealed       -- Sealed firmware runs; the host leg has not started
  | noImage      -- host leg step 1 found no image (R50)
  | measuring    -- host leg steps 2 and 3
  | hostDone     -- host leg step 5 done
  deriving DecidableEq, Repr

/-- How far the Landau leg has come (R51, R54, R33). -/
inductive Landau where
  | unbuilt | railsOn | drawbarUp | built | hbmTrained | treeReady | openFw | opened | failed
  deriving DecidableEq, Repr

/-- Supplies, pins and bring-up (R42, R43, R51, R53, R588). -/
structure PowerState where
  vbat : Bool                 -- VBAT present
  main : Bool                 -- VDD_G and VDDIO_G present
  mainGood : Bool             -- main power good declared
  hold : Bool                 -- HOST_HOLD_N driven low (R43)
  phase : Phase
  landau : Landau
  perst : Bool                -- level of PE_PERST_N
  phy : Bool                  -- PCIe PHY powered (Landau step 6)
  dataLink : Bool             -- data link layer active
  hostRstN : Bool             -- level of HOST_RST_IN_N
  start : Option PowerGood    -- what a held relay resumes with
  udsOpen : Bool              -- UDS access (R70)
  sealedMeas : Hash           -- measurement of the Sealed slot that runs
  openSlot : Nat              -- Open-world firmware slot started: 0 none, 1 A, 2 B
  enH : Bool
  enL : Bool
  enPE : Bool
  pgH : Bool
  pgL : Bool
  pgPE : Bool
  operationOn : Bool          -- OPERATION written On (R588, R589)
  voutMv : Nat                -- VOUT_COMMAND last written
  skipHold : Bool             -- a device reset that does not hold a released host (R56)
  causes : Nat                -- SYSCTL_RSTCAUSE bits of resets not yet in the event recorder (R60)
  rebuild : Bool              -- this bring-up of Landau follows a Landau rebuild (R296)
  pendReset : Bool            -- device reset that R86 delays to the end of the host leg
  deriving DecidableEq, Repr

/-- The fuse array, its shadow and the running programming request (R46, R71). -/
structure FuseState where
  arr : FuseBits
  shadow : FuseBits
  prog : Option (Nat × Nat)
  deriving DecidableEq, Repr

/-- One Sealed firmware slot (R45): its image, public key, signature, version and the active mark of its header. -/
structure FwSlot where
  image : Bytes
  pub : Bytes
  sig : Bytes
  version : Nat
  active : Bool
  deriving DecidableEq, Repr

/-- The Sealed firmware slots A (bank 0) and B (bank 1). -/
structure BootState where
  slotA : FwSlot
  slotB : FwSlot
  deriving DecidableEq, Repr

/-- Before the first power-on (R607): no supply, nothing running. -/
def PowerState.init : PowerState :=
  { vbat := false, main := false, mainGood := false, hold := false, phase := .off, landau := .unbuilt,
    perst := false, phy := false, dataLink := false, hostRstN := true, start := none, udsOpen := false, sealedMeas := 0, openSlot := 0,
    enH := false, enL := false, enPE := false, pgH := false, pgL := false, pgPE := false, operationOn := false,
    voutMv := 0, skipHold := false, causes := 0, rebuild := false, pendReset := false }

/-- Blank fuses: BLANK in period 0 with no evidence bit programmed (R607); every chip-specific bit 0 (log entry 4). -/
def blankFuses : FuseBits :=
  { life := 0, arb := [0, 0, 0, 0, 0, 0, 0, 0], evidence := 0, vendorHash := 0, owner0 := 0, owner1 := 0, srcdis := 0,
    debugOff := false, part := false, stepping := 0, trim := 0, repair := 0,
    spares := 0 }

/-- The fuses as they leave manufacture (R607): what a device of its own carries is the manufacturer's, unknown here (log entry 4). -/
def factoryFuses : FuseBits :=
  { blankFuses with
    vendorHash := BitVec.ofNat 384 (Config.factoryFuse 0), part := (Config.factoryFuse 1).testBit 0, stepping := BitVec.ofNat 8 (Config.factoryFuse 2),
    trim := BitVec.ofNat 64 (Config.factoryFuse 3), repair := BitVec.ofNat 364 (Config.factoryFuse 4), spares := BitVec.ofNat 20 (Config.factoryFuse 5) }

/-- The fuses before the first fuse load. -/
def FuseState.init : FuseState := { arr := factoryFuses, shadow := blankFuses, prog := none }

/-- A Sealed firmware slot as it leaves manufacture (R607, log entry 4). -/
def factorySlot (n : Nat) (active : Bool) : FwSlot :=
  { image := Config.factorySealed n 0, pub := Config.factorySealed n 1, sig := Config.factorySealed n 2,
    version := ((Config.factorySealed n 3).map (fun b => b.toNat)).foldl (fun a b => 256 * a + b) 0 % 2 ^ 32, active := active }

/-- Sealed firmware in both slots (R607), slot A marked active (log entry 4). -/
def BootState.init : BootState := { slotA := factorySlot 1 true, slotB := factorySlot 2 false }
/-! ## Memories (01, 11) -/

/-- The addressed memories, each a list of (address, byte) pairs, addresses rising, no pair equal to what an unlisted
address reads as (Mem.lean): `gecko` by warden physical address (SRAM and the flash main arrays, R38); `isram` by
group × 2^18 + offset, `dsram` by core × 2^16 + offset, `hbm` by stack × 2^36 + offset in protected data (R368). -/
structure MemState where
  gecko : List Host.Cell
  isram : List Host.Cell
  dsram : List Host.Cell
  hbm : List Host.Cell
  deriving DecidableEq, Repr

/-- Nothing listed. -/
def MemState.init : MemState := { gecko := [], isram := [], dsram := [], hbm := [] }

/-! ## Sealed cipher engine and Sealed public-key engine (07, 06) -/

/-- SCIPH (R257, R258): its key slots; the operation that runs, as 16 × OP + SLOT, the parameter block's address and the bytes found there. -/
structure SciphState where
  slots : List (Nat × Bytes)
  op : Option (Nat × Nat × Bytes)
  deriving DecidableEq, Repr

/-- SPKE (R220, R221): its key slots; the operation that runs, as in SCIPH. -/
structure SpkeState where
  slots : List (Nat × Bytes)
  op : Option (Nat × Nat × Bytes)
  deriving DecidableEq, Repr

/-- No key. -/
def SciphState.init : SciphState := { slots := [], op := none }
/-- No key. -/
def SpkeState.init : SpkeState := { slots := [], op := none }

/-! ## Key store (05) -/

/-- A key object (R148): the header's fields and the body; with it the marks of R151, their highest acknowledged values and
the marks whose record (by journal SEQ) is not acknowledged yet. -/
structure KeyObj where
  handle : Nat
  typ : Nat
  usage : Nat
  useLimit : Nat
  useCount : Nat
  counter : Nat
  storeId : Nat
  version : Nat
  bits : Nat
  origin : Nat
  attr : Nat
  kcv : Nat
  body : Bytes
  useMark : Nat
  ctrMark : Nat
  ackUse : Nat
  ackCtr : Nat
  pend : List (Nat × Nat × Nat)     -- SEQ, USE_MARK, COUNTER_MARK
  deriving DecidableEq, Repr

/-- A slot (R146): the generation its next object takes or its object has, retired, its object. -/
structure KeySlot where
  gen : Nat
  retired : Bool
  obj : Option KeyObj
  deriving DecidableEq, Repr

/-- A slot no object has been made in. -/
def KeySlot.fresh : KeySlot := { gen := 1, retired := false, obj := none }

/-- A journal record (R176): its world, and its fields; `body` is the whole record as bytes, tag block included; `lines` are the lines it takes
in the journal region of its world. -/
structure JRec where
  world : Nat
  seq : Nat
  domain : Nat
  kind : Nat
  handle : Nat
  body : Bytes
  lines : List Nat
  deriving DecidableEq, Repr

/-- A restore in progress (R181, R182): the snapshot named, the next body chunk, END_SEQ once the trailer is seen, the last
record applied (BASE_SEQ before the first). -/
structure Restore where
  snap : Nat
  nextChunk : Nat
  trailer : Option Nat
  last : Nat
  deriving DecidableEq, Repr

/-- A snapshot (R179). -/
structure Snap where
  id : Nat
  base : Nat
  deriving DecidableEq, Repr

/-- The state of a key domain (R153). -/
inductive DomState where
  | unused | awaiting | live
  deriving DecidableEq, Repr

/-- A key domain (R153, R157, R179–R182); ROLE, version and PRIMARY are those of R325, `awaitSeq` the LAST_SEQ a PENDING member waits for
(R329). -/
structure Domain where
  state : DomState
  storeId : Nat
  seq : Nat
  snap : Option Snap
  restore : Option Restore
  retired : Nat
  role : Nat
  epoch : Nat
  step : Nat
  primary : Nat
  awaitSeq : Nat
  deriving DecidableEq, Repr

/-- A domain without a DMK. -/
def Domain.unusedDom : Domain :=
  { state := .unused, storeId := 0, seq := 0, snap := none, restore := none, retired := 0, role := 0, epoch := 0,
    step := 0, primary := 0, awaitSeq := 0 }

/-- An entry of the DMK log in flash bank 1 (R155, R325): the domain, and the wrap under SRK of what it holds; an empty
payload stands for DOMAIN_ERASE. -/
structure DmkEntry where
  domain : Nat
  iv : Bytes
  sealed : Bytes
  deriving DecidableEq, Repr

/-- A key-cache entry (R171, R610): `kind` 0 a key object (with its handle), 1 a DMK, 2 a wrap key, 3 a log key (with the
domain number), 4 a key an engine chapter pins. Two shares whose XOR is the key; the header fields the cache keeps stand in
`hdr` (its body is empty); uses since the last refresh; the order of last use; the issue pointer of R239. -/
structure KcEntry where
  kind : Nat
  name : Nat
  share0 : Bytes
  share1 : Bytes
  hdr : Option KeyObj
  size : Nat
  uses : Nat
  order : Nat
  pinned : Bool
  issue : Nat
  deriving DecidableEq, Repr

/-- A verification table (R174, R175): its key, its world, its place in the world's KIND 1 region, whether it is complete, whether it is being
evicted, and its order of last use. -/
structure VTable where
  handle : Nat
  world : Nat
  place : Nat
  complete : Bool
  evicting : Bool
  order : Nat
  deriving DecidableEq, Repr

/-- A build that waits to start or runs (R174). -/
structure VBuild where
  handle : Nat
  running : Bool
  deriving DecidableEq, Repr

/-- The key store, key cache and verification tables. `slots` by handle / 1024; `domains` by number. -/
structure KsState where
  domains : List (Nat × Domain)
  slots : List (Nat × KeySlot)
  journal : List JRec               -- oldest first
  dmkLog : List DmkEntry            -- oldest first
  cache : List KcEntry
  clock : Nat                       -- order of uses
  tables : List VTable
  builds : List VBuild
  deriving DecidableEq, Repr

/-- An empty key store (R607: no domain has a DMK). -/
def KsState.init : KsState :=
  { domains := [], slots := [], journal := [], dmkLog := [], cache := [], clock := 0, tables := [], builds := [] }

/-- A stack of HBM (R158, R167, R170): the physical pseudo-channel of each position 0–30, the one being retired. -/
structure HbmStack where
  pos : List Nat
  swap : Option Nat           -- position a swap copies (R167)
  lost : List Nat             -- positions that failed with no spare (R170)
  deriving DecidableEq, Repr

/-- A protected line as HBM holds it: its ciphertext and its MAC (R160). -/
structure HbmLine where
  ct : Bytes
  mac : W64
  deriving DecidableEq, Repr

/-- A node of tree levels 1 to 7: eight 56-bit counters and a MAC (R160). -/
structure TreeNode where
  ctrs : List Nat
  mac : W64
  deriving DecidableEq, Repr

/-- MCRYPT and the HBM stacks: the protection key (two XTS keys and the MAC key); data lines that were written, nodes of levels 1 to 7 and
poisoned lines by stack × 2^32 + working line; leaf counter blocks by stack × 2^32 + block (major, 32 minors); the root of each stack; the
nodes of levels 0 to 3 that are cached, most recent first; times in µs of data-line failures that still count for T10. -/
structure HbmState where
  key : Option Bytes
  lines : List (Nat × HbmLine)
  leaf : List (Nat × Nat × List Nat)
  nodes : List (Nat × TreeNode)
  root : List (Nat × List Nat)
  cached : List Nat
  poison : List (Nat × Bool)
  t10 : List Nat
  stk : List HbmStack
  deriving DecidableEq, Repr

/-- HBM unpowered, its key absent. -/
def HbmState.init : HbmState :=
  { key := none, lines := [], leaf := [], nodes := [], root := [], cached := [], poison := [], t10 := [],
    stk := List.replicate 4 { pos := List.range 31, swap := none, lost := [] } }
/-! ## Custodian quorum (20, R535–R544) -/

/-- A quorum session (R537–R541): its number, operation, OP_DIGEST, NONCE; the custodians that counted; for ESCROW_RESTORE the
shares opened (INDEX, share) and the session key; the operating time it opened at. -/
structure Session where
  number : Nat
  op : Nat
  digest : Hash
  nonce : Bytes
  approved : List Nat
  shares : List (Nat × Bytes)
  key : Bytes
  blob : Bytes
  opened : Nat
  deriving DecidableEq, Repr

/-- The custodian set in force (R535) and the one session. -/
structure QuorumState where
  cset : Option Bytes
  session : Option Session
  next : Nat
  deriving DecidableEq, Repr

/-- No set (R535: none in BLANK). -/
def QuorumState.init : QuorumState := { cset := none, session := none, next := 1 }

/-! ## Effects -/

/-- What an effectful command changes at the END step of its route (R123). -/
inductive Effect where
  | nothing
  | putKey (slot : Nat) (o : KeyObj)            -- place a new object in a slot and journal CREATE
  | importKey (object : Bytes)                  -- R187
  | deleteKey (handle : Nat)
  | restrictKey (handle usage useLimit attr : Nat)
  | vtBuilt (handle : Nat)                      -- VTABLE_CTRL BUILD ends
  | vtEvict (handle : Nat)
  | snapBegin (domain : Nat)
  | journalAck (domain seq : Nat)
  | restoreBegin (domain snap : Nat)
  | restoreData (domain : Nat) (data : Bytes)
  | restoreEnd (domain : Nat)
  | domainCreate (domain : Nat)
  | domainErase (domain : Nat)
  | escrowRestore (domain : Nat) (dmk : Bytes) (storeId : Nat)
  | streamUse (handle v : Nat)                  -- R239
  | meteredUse (handles : List Nat)             -- R242
  | hostFlashAuth (auth : Bytes)                -- R291–R293
  | bootSelect (v : Nat)                        -- R314
  | lifecycle (target quorum : Nat) (input : Bytes)  -- R315
  | cluster (op domain a b c : Nat) (input : Bytes)  -- R317–R334: opcode, DOMAIN, operands, input
  deriving DecidableEq, Repr


/-! ## The Kygus image, STRUCT, repair (03) -/

/-- Configuration flash (R72): the two Kygus slots, the two selector copies (32 bytes each, R82), the two Open-world
firmware slots. -/
structure CfgFlash where
  slotA : Bytes
  slotB : Bytes
  sel0 : Bytes
  sel1 : Bytes
  openA : Bytes
  openB : Bytes
  deriving DecidableEq, Repr

/-- The image in force: slot (1 = A, 2 = B), bytes 0 to IMAGE_LENGTH − 1 followed by the signature block, image hash. -/
structure Image where
  slot : Nat
  bytes : Bytes
  hash : Hash
  deriving DecidableEq, Repr

/-- A retire record (R95). -/
structure RetireRec where
  seq : Nat
  cls : Nat
  unit : Nat
  retire : Nat
  spare : Nat
  reason : Nat
  prev : Hash
  sig : Bytes
  deriving DecidableEq, Repr

/-- A part named by class, unit and index (R95, R97). -/
structure Part where
  cls : Nat
  unit : Nat
  idx : Nat
  deriving DecidableEq, Repr

/-- STRUCT beyond its registers (R92, R97): the sections being loaded as words in order, the section selected, the
structure in force, the drain in progress, the amendment being checked. -/
structure StructState where
  loading : List (Nat × List W32)
  sel : Option Nat
  seqErr : Bool                       -- STRUCT_DATA written with no section selected (code 0x01)
  built : List (Nat × Bytes)          -- sections in force by type
  drain : Option Part
  drained : List Part                 -- parts that start no route
  chain : List RetireRec              -- the retire chain in flash, oldest first
  fieldRepair : List Part             -- the field repair list (R499), class 5 and 6
  verdictA : Nat                      -- R79 verdict of slot A, 0xFF when not tried
  verdictB : Nat
  lastTried : Nat                     -- the slot tried last, 0 none (R296)
  deriving DecidableEq, Repr

/-- Configuration flash as it leaves manufacture, with its factory image (R607); what it holds is the manufacturer's, unknown here (log entry
4). -/
def CfgFlash.init : CfgFlash :=
  { slotA := Config.factoryFlash 0, slotB := Config.factoryFlash 1, sel0 := Config.factoryFlash 2, sel1 := Config.factoryFlash 3,
    openA := Config.factoryFlash 4, openB := Config.factoryFlash 5 }

/-- STRUCT before any construction; no retire record (R607). -/
def StructState.init : StructState :=
  { loading := [], sel := none, seqErr := false, built := [], drain := none, drained := [], chain := [],
    fieldRepair := [], verdictA := 0xFF, verdictB := 0xFF, lastTried := 0 }

/-! ## Host interface and queues (04) -/

/-- What ends the waiting of a tag-table entry (R119, R120). -/
inductive Commit where
  | waiting | started | failed | aborted
  deriving DecidableEq, Repr

/-- What a completion reports (R115) and the output written before it (R116). -/
structure Outcome where
  status : Nat
  detail : Nat
  result : Nat
  outBytes : Nat
  output : Bytes
  deriving DecidableEq, Repr

/-- The cipher/hash tile that a public-key or Sealed route also runs on, in context slot 0 (R605): cluster and tile, the opcode and CLASS of its
part (R232), the generator requests it will still make. -/
structure AlsoAt where
  unit : Nat
  tile : Nat
  op : Nat
  cls : Nat
  rands : Nat
  deriving DecidableEq, Repr

/-- The part a route runs on: 1 a public-key tile, 2 a cipher/hash tile, 3 a dispatch core only. `slot` is the context
slot of a cipher tile, `long` the length class, `forced` the check flag that R203 forces, `integrity` a failed HBM read of a fetch step, `rands`
the generator requests it will still make (R270), `time` its DURATION in ns (R230), `also` its second tile. -/
structure RouteAt where
  cls : Nat
  unit : Nat
  tile : Nat
  slot : Nat
  variant : Nat
  mode : Nat
  long : Bool
  comb : Bool
  forced : Bool
  integrity : Bool
  rands : Nat
  time : Nat
  also : Option AlsoAt
  deriving DecidableEq, Repr

/-- One tag-table entry (R118–R123): `order` is the order of fetch, `dupWait` marks an effectful duplicate waiting on a
PENDING original (R126), `rerun` a pure command run again beside an entry it does not own (R125), `refs` the keys held until the route loads them (R209), `staged` what the END step will give, `done` the outcome that waits to be posted. -/
structure TagEntry where
  tag : Nat
  fn : Nat
  qid : Nat
  entry : Bytes
  order : Nat
  sqHead : Nat
  commit : Commit
  handed : Bool
  core : Nat
  dupWait : Bool
  rerun : Bool
  refs : List Nat
  route : Option RouteAt
  staged : Option (Outcome × Effect)
  done : Option Outcome
  drop : Bool                 -- completion and output dropped (R136, R134)
  deriving DecidableEq, Repr

/-- The bus addresses and requester IDs of the IDE stream (R140). -/
structure IdeRange where
  addrLo : Nat
  addrHi : Nat
  reqLo : Nat
  reqHi : Nat
  deriving DecidableEq, Repr

/-- A queue pair (R109–R117). -/
structure QueuePair where
  fn : Nat
  qid : Nat
  sqBase : Nat
  cqBase : Nat
  sqSize : Nat
  cqSize : Nat
  vector : Nat
  coalCount : Nat
  coalTime : Nat
  sqHead : Nat
  sqTail : Nat
  cqHead : Nat
  cqTail : Nat
  phase : Bool
  unsignalled : Nat
  deleting : Option Nat       -- tag of the DELETE_QP that removes it (R132)
  deriving DecidableEq, Repr

/-- State of a duplicate-window entry (R125). -/
inductive WinState where
  | pending | done | preAborted
  deriving DecidableEq, Repr

/-- A duplicate-window entry (R125). -/
structure WinEntry where
  reqId : Nat
  digest : Nat
  state : WinState
  status : Nat
  result : Nat
  outBytes : Nat
  deriving DecidableEq, Repr

/-- A write the L9 makes into host memory. -/
structure HostWrite where
  fn : Nat
  addr : Nat
  data : Bytes
  deriving DecidableEq, Repr

/-- The queue manager and the endpoint beyond their registers. -/
structure QmState where
  busMaster : List Nat               -- functions whose Bus Master Enable is 1
  vfEnable : Bool                    -- VF Enable of the PF
  pairs : List QueuePair
  tags : List TagEntry               -- in order of fetch
  windows : List (Nat × List WinEntry)  -- of each key domain, oldest first
  digestKey : Nat                    -- key of the digest (R125)
  lastWindowId : Nat                 -- QMGR_WINDOW.ID of the construction before (R128)
  nextOrder : Nat
  hostOut : List HostWrite           -- what was written to host memory, newest last
  irqs : List (Nat × Nat)            -- vectors signalled: function, vector, newest last
  msix : List (Nat × Nat)            -- the MSI-X tables: function × 8192 + word → word, where it is not the reset value
  pba : List (Nat × Nat)             -- pending bits of masked vectors (R117)
  doeOut : List Bytes                -- DOE answers, newest last
  aerErrs : Nat                      -- errors reported through AER
  ideKeyed : Bool                    -- IDE_KM has keyed the stream (R140)
  ideRange : Option IdeRange         -- what the last IDE_KM keyed it for (R140)
  enStale : List Nat                 -- functions that need EN cleared and set before the admin pair is made again (R138)
  fetched : List (Nat × Nat)         -- entries fetched from a function in this weighted round (R118)
  servedSq : List (Nat × Nat)        -- function, SQ: served in the function's round (R118)
  deriving DecidableEq, Repr

/-- The queue manager as built: no queue, no tag, empty windows. -/
def QmState.init : QmState :=
  { busMaster := [], vfEnable := false, pairs := [], tags := [], windows := [], digestKey := 0, lastWindowId := 0,
    nextOrder := 0, hostOut := [], irqs := [], msix := [], pba := [], doeOut := [], aerErrs := 0, ideKeyed := false,
    ideRange := none, enStale := [], fetched := [], servedSq := [] }
/-! ## Public-key engine (06) -/

/-- The blinding of a route with a secret (R205): the blinded shares of its scalar, the Jacobian scale of each, the factors of a blinded
inversion, the base factors and the exponent multiples of an RSA private operation. -/
structure Blinding where
  shares : List Nat
  scales : List Nat
  inv : List Nat
  base : List Nat
  expo : List Nat
  deriving DecidableEq, Repr

/-- No blinding. -/
def Blinding.none : Blinding := { shares := [], scales := [], inv := [], base := [], expo := [] }

/-- A public-key tile (R189): limb count, active and second modulus, operand slots and flags that are not zero, what KOUT and
OUTST staged, what it handed to a cipher/hash route, its blinding (R205), the comb windows read since the last correction (R200), how many digits of a recoded exponent are left by slot (R194). -/
structure PkeTile where
  m : Nat
  mod1 : Nat
  mod2 : Nat
  slots : List (Nat × Nat)
  flags : Nat
  out : Bytes
  body : Bytes
  hashOut : Bytes
  blind : Blinding
  windows : List Nat
  digits : List (Nat × Nat)
  deriving DecidableEq, Repr

/-- A tile between routes. -/
def PkeTile.clear : PkeTile :=
  { m := 1, mod1 := 0, mod2 := 0, slots := [], flags := 0, out := [], body := [], hashOut := [], blind := Blinding.none, windows := [],
    digits := [] }

/-- The comb of a cluster (R192, R200): the scalars whose points are Q_0 to Q_63, the index masks and the correction point
−(Q_0 + … + Q_63) of the comb register file. -/
structure Comb where
  q : List Nat
  masks : List Nat
  corr : Option (Nat × Nat)
  deriving DecidableEq, Repr

/-- The public-key clusters: tiles that hold something, by cluster × 16 + tile; combs by cluster; tiles whose self-test waits
or runs. -/
structure PkeState where
  tiles : List (Nat × PkeTile)
  combs : List (Nat × Comb)
  deriving DecidableEq, Repr

/-- Nothing held, no table built. -/
def PkeState.init : PkeState := { tiles := [], combs := [] }

/-! ## Cipher and hash tiles (07) -/

/-- A context slot of a cipher tile (R222): block registers V0–V63 that are not zero, flags, the keys the ports loaded, the key
in the ring (whether it is a TDES key), the GHASH accumulator, the hash and its state and bytes compressed, message blocks begun,
staged output, what was handed to a public-key route. -/
structure CipCtx where
  regs : List (Nat × W128)
  flags : Nat
  key0 : Bytes
  key1 : Bytes
  ring : Option (Bool × Bytes)
  acc : W128
  sha : Nat × List Nat × Nat
  blocks : Nat
  out : Bytes
  handed : Bytes
  deriving DecidableEq, Repr

/-- A context slot between routes (R225). -/
def CipCtx.clear : CipCtx :=
  { regs := [], flags := 0, key0 := [], key1 := [], ring := none, acc := 0, sha := (0, [], 0), blocks := 0, out := [],
    handed := [] }

/-- The cipher clusters: context slots that hold something, by (cluster × 16 + tile) × 2 + slot; blocks slot 0 issues before its
tile's allowance returns, by cluster × 16 + tile (R237). -/
structure CipState where
  ctx : List (Nat × CipCtx)
  gap : List (Nat × Nat)
  deriving DecidableEq, Repr

/-- Nothing held. -/
def CipState.init : CipState := { ctx := [], gap := [] }

/-! ## Random generation (08) -/

/-- A CTR_DRBG instance that is instantiated (R260, R268, R269): Key and V of SP 800-90A, requests since its seed, and when it became
stretched. -/
structure RngInst where
  key : Bytes
  v : W128
  reqs : Nat
  since : Nat
  deriving DecidableEq, Repr

/-- A RANDOM_BYTES command with PR that waits for a reseed (R272): its tag, its instance, the block being filled when its wait began,
whether a reseed has served it. -/
structure PrWait where
  tag : Nat
  inst : Nat
  stamp : Nat
  served : Bool
  deriving DecidableEq, Repr

/-- The continuous tests of a source (R263): the last bit and the length of its run, the bits of the adaptive window so far, its first bit and how
often that came. -/
structure HealthRun where
  last : Bool
  run : Nat
  pos : Nat
  first : Bool
  count : Nat
  deriving DecidableEq, Repr

/-- No bit tested yet. -/
def HealthRun.init : HealthRun := { last := false, run := 0, pos := 0, first := false, count := 0 }

/-- A mask stream (R271): the 256-bit key and the counter of its AES-256 counter-mode keystream, and the blocks drawn since it was keyed. -/
structure MaskStream where
  key : Bytes
  ctr : W128
  used : Nat
  deriving DecidableEq, Repr

/-- The random generator: the instances by number; instances whose instantiation waits for a seed; blocks completed; the ready block and its
number; times in µs of each source's failures and its continuous tests; the order in which instances stretch; commands that wait for
prediction resistance; the mask streams and prefetch buffers by cipher cluster × 16 + tile; the count of Landau constructions; the status
copy commands report. -/
structure RngState where
  insts : List (Nat × RngInst)
  due : List Nat
  block : Nat
  ready : Option (Nat × BitVec 384)
  fails0 : List Nat
  fails1 : List Nat
  test0 : HealthRun
  test1 : HealthRun
  order : Nat
  pr : List PrWait
  masks : List (Nat × MaskStream)
  prefetch : List (Nat × Bytes)
  constr : Nat
  copy : Bytes
  deriving DecidableEq, Repr

/-- No instance. -/
def RngState.init : RngState :=
  { insts := [], due := [], block := 0, ready := none, fails0 := [], fails1 := [], test0 := HealthRun.init, test1 := HealthRun.init, order := 0,
    pr := [], masks := [], prefetch := [], constr := 0, copy := [] }


/-! ## Host flash, boot ledger, SPDM (09) -/

/-- A key of the authorised table (R291): region, its entries (VERSION, digest) in table order, the highest VERSION accepted. -/
structure AuthKey where
  device : Nat
  base : Nat
  length : Nat
  entries : List (Nat × Hash)
  highest : Nat
  deriving DecidableEq, Repr

/-- What the interposer drives on the flash-side bus for a transaction it passes: device, first byte, address. -/
structure FlashSide where
  device : Nat
  opcode : Nat
  addr : Nat
  deriving DecidableEq, Repr

/-- The interposer and the measurement of the host beyond the HOSTSPI registers. `map` is the loaded HFMAP; `digests` by region × 2,
plus 1 for the recovery range, none a read error; `pass` the ranges of a running pass; `stage` how far the measurement of the host
has come: 0 none, 1 Sealed firmware is to start the pass, 2 the pass runs, 3 the recovery pass runs, 4 released next; `select` the
stored order of HOST_BOOT_SELECT, `applied` that this measurement uses it; `filter56` the filter state of R56; `vddBad` VDDIO_HF differs from the map (R593); `openNext` windows
that open at the next release (R293); `sfdp` the read modes each device's SFDP table shows, 0 when it fails its checks (R275); `side` what the last transaction became on the flash-side bus. -/
structure HostFlash where
  map : Bytes
  digests : List (Nat × Option Hash)
  pass : Option (Nat × Nat)
  stage : Nat
  restarted : Bool
  filter56 : Bool
  vddBad : Bool
  hostBoot : Nat
  auth : List AuthKey
  select : Nat
  applied : Bool
  openNext : Nat
  sfdp : List Nat
  side : Option FlashSide
  deriving DecidableEq, Repr

/-- Nothing loaded or measured. -/
def HostFlash.init : HostFlash :=
  { map := [], digests := [], pass := none, stage := 0, restarted := false, filter56 := false, vddBad := false, hostBoot := 0, auth := [], select := 0,
        applied := false, openNext := 0, sfdp := [], side := none }

/-- A lifecycle transition whose record is made and whose action is still to come (R315): FROM, TARGET, the new owner's key hash
and custodian set where it carries them; `zall` that its ZEROISE_ALL runs. -/
structure LifeAct where
  tag : Nat
  source : Nat
  target : Nat
  owner : Option Hash
  cset : Option Bytes
  zall : Bool
  deriving DecidableEq, Repr

/-- The boot ledger (R294–R304): the records of the ring and those only SRAM holds, by SEQ; SEQ of the head and its hash; the newest
record mirrored to a card, GAPS; the newest certificate of each AK_ID; marks for the next record; the DeviceID and AK public keys and the certificates of this bring-up. -/
structure LedState where
  ring : List (Nat × Bytes)
  sram : List (Nat × Bytes)
  head : Nat
  headHash : Hash
  gaps : Nat
  gapNext : Bool
  failNext : Bool
  mirrored : Nat
  certs : List (Hash × Bytes)
  devPub : Bytes
  akPub : Bytes
  akCert : Bytes
  skCert : Bytes
  act : Option LifeAct
  deriving DecidableEq, Repr

/-- The records of the factory bring-ups, from SEQ 1 (R607): how many, and what they say beyond MAGIC, FORMAT and SEQ, is the manufacturer's,
unknown here (log entry 4). The ring still holds SEQ 1. -/
def factoryRing : List (Nat × Bytes) :=
  (List.range (Config.factoryRecords % 1025)).map (fun i =>
    (i + 1, [0x4C, 0x45, 0x44, 0x47, 0x01] ++ (List.range 1019).map (fun j =>
      if 3 ≤ j ∧ j < 11 then BitVec.ofNat 8 ((i + 1) / 256 ^ (j - 3)) else ((Config.factoryRecord (i + 1))[j]?).getD 0)))

/-- The ring of the factory; its head is found by the scan of the first bring-up. -/
def LedState.init : LedState :=
  { ring := factoryRing, sram := [], head := 0, headHash := 0, gaps := 0, gapNext := false, failNext := false, mirrored := 0, certs := [], devPub := [], akPub := [],
    akCert := [], skCert := [], act := none }

/-- An SPDM session (R306): its identifier, whether it came over DOE, whether FINISH completed it. -/
structure SpdmSession where
  id : Nat
  doe : Bool
  done : Bool
  deriving DecidableEq, Repr

/-- What an SPDM request is answered with (R306, R307). -/
inductive SpdmAns where
  | version (v : List Nat)
  | capabilities (v : List Nat)
  | algorithms
  | digests (d : Hash)
  | certificate (portion : Bytes) (rest : Nat)
  | challengeAuth (cert : Hash) (sig : Bytes)
  | measurements (blocks : List (Nat × Nat × Bytes)) (sig : Bytes)
  | keyExchange (session : Nat) (pub sig : Bytes)
  | finish
  | heartbeat
  | keyUpdate
  | endSession
  | vendorDefined
  | error (code : Nat)
  deriving DecidableEq, Repr

/-- The SPDM responder: how far each transport has negotiated (0 nothing, 1 version, 2 capabilities, 3 algorithms), its sessions, the
next session number, the answers given, newest last (true for DOE). -/
structure SpdmState where
  doe : Nat
  mctp : Nat
  sessions : List SpdmSession
  next : Nat
  out : List (Bool × SpdmAns)
  deriving DecidableEq, Repr

/-- Nothing negotiated. -/
def SpdmState.init : SpdmState := { doe := 0, mctp := 0, sessions := [], next := 1, out := [] }

/-! ## Forilkar clusters (10) -/

/-- A member-table entry that is not unused (R319). -/
structure Member where
  state : Nat
  epoch : Nat
  mekHash : Hash
  deriving DecidableEq, Repr

/-- Membership (R317–R324): the MEK with its public key, the CLUSTER_ID it serves and its certificate; epoch E and the hash of its
statement; the own member number; the member table; the statement hashes endorsed, by epoch (R322). -/
structure ClusterState where
  mek : Option Bytes
  mekPub : Bytes
  cid : Bytes
  cert : Bytes
  epoch : Nat
  hash : Hash
  self : Option Nat
  table : List (Nat × Member)
  endorsed : List (Nat × Hash)
  deriving DecidableEq, Repr

/-- No MEK and no member table (R607). -/
def ClusterState.init : ClusterState :=
  { mek := none, mekPub := [], cid := [], cert := [], epoch := 0, hash := 0, self := none, table := [], endorsed := [] }

/-! ## Delpin cores (11, 12, 13) -/

/-- A segment descriptor as a segment register holds it (R340). -/
structure SegDesc where
  base : Nat      -- 40 bits
  limit : Nat     -- 32 bits
  attr : Nat      -- VALID, R, W, X, XO, WORLD, MINLEVEL
  deriving DecidableEq, Repr

/-- An invalid segment register. -/
def SegDesc.invalid : SegDesc := { base := 0, limit := 0, attr := 0 }

/-- A register bank (R337): A0–A7, SG0–SG15. -/
structure Bank where
  a : List W64
  sg : List SegDesc
  deriving DecidableEq, Repr

/-- The control registers of one world (R394, R396): `depth` to `busy` are ESTAT. -/
structure CtlRegs where
  vbar : W64
  epc : W64
  eps : W64
  cause : W64
  eaddr : W64
  ephys : W64
  depth : Nat
  origValid : Bool
  origW : Bool
  origL : Bool
  busy : Bool
  imask : W64
  garg : List W64
  gres0 : W64
  gres1 : W64
  maskS : W64
  deriving DecidableEq, Repr

/-- Control registers after a reset. -/
def CtlRegs.init : CtlRegs :=
  { vbar := 0, epc := 0, eps := 0, cause := 0, eaddr := 0, ephys := 0, depth := 0, origValid := false, origW := false, origL := false,
    busy := false, imask := 0, garg := [0, 0, 0, 0], gres0 := 0, gres1 := 0, maskS := 0 }

/-- A write that a core's write buffer holds (R363): the core's number, the physical address, the bytes. -/
structure BufWrite where
  core : Nat
  addr : Nat
  bytes : Bytes
  deriving DecidableEq, Repr

/-- A Delpin core (R337, R338): PC, PS field by field (`w` Sealed, `l` supervisor), the banks by 2 × W + L, the control registers by world;
whether it waits in a WAIT, has just entered a handler (R402), or has stopped. -/
structure DCore where
  pc : W32
  w : Bool
  l : Bool
  m : Nat
  n : Bool
  z : Bool
  v : Bool
  c : Bool
  banks : List Bank
  ctl : List CtlRegs
  waiting : Bool
  fresh : Bool
  stopped : Bool
  deriving DecidableEq, Repr

/-- A bank with every segment invalid. -/
def Bank.init : Bank := { a := List.replicate 8 0, sg := List.replicate 16 SegDesc.invalid }

/-- The (Sealed, supervisor) bank of a warden core after reset (R339): SG0 the boot ROM, SG1 and SG15 SRAM. -/
def Bank.warden : Bank :=
  { a := [0, 0, 0, 0, 0, 0, 0, 0x00100000]
    sg := [{ base := 0, limit := 0xFFFF, attr := 0x6B }, { base := 0x20000000, limit := 0xFFFFF, attr := 0x67 }]
      ++ List.replicate 13 SegDesc.invalid ++ [{ base := 0x20000000, limit := 0xFFFFF, attr := 0x67 }] }

/-- The bank of a dispatch core at a Landau construction (R339), WORLD as its bound world. -/
def Bank.dispatch (sealed : Bool) : Bank :=
  let w := if sealed then 0x20 else 0
  { a := [0, 0, 0, 0, 0, 0, 0, 0x10000]
    sg := [{ base := 0, limit := 0x3FFFF, attr := 0x4B + w }, { base := 0x10000000, limit := 0xFFFF, attr := 0x47 + w }]
      ++ List.replicate 13 SegDesc.invalid ++ [{ base := 0x10000000, limit := 0xFFFF, attr := 0x47 + w }] }

/-- A warden core after a reset that re-runs the Gecko leg (R338, R339). -/
def DCore.warden : DCore :=
  { pc := 0, w := true, l := true, m := 7, n := false, z := false, v := false, c := false,
    banks := [Bank.init, Bank.init, Bank.init, Bank.warden], ctl := [CtlRegs.init, CtlRegs.init], waiting := false, fresh := false,
    stopped := false }

/-- A dispatch core at a Landau construction. -/
def DCore.dispatch (sealed : Bool) : DCore :=
  let bank := Bank.dispatch sealed
  { pc := 0, w := sealed, l := true, m := 7, n := false, z := false, v := false, c := false,
    banks := if sealed then [Bank.init, Bank.init, Bank.init, bank] else [Bank.init, bank, Bank.init, Bank.init],
    ctl := [CtlRegs.init, CtlRegs.init], waiting := false, fresh := false, stopped := false }

/-! ## Memory protection and arbitration (14) -/

/-- A region in force (R423): BASE, n, and its ATTR word. -/
structure MpuRegion where
  base : Nat
  size : Nat
  attr : Nat
  deriving DecidableEq, Repr

/-- A disabled region. -/
def MpuRegion.off : MpuRegion := { base := 0, size := 0, attr := 0 }

/-- The rules in force of MPU_G (0) and MPU_L (1), by (mpu × 32 + master) × 16 + region, none listed that is disabled; the regions and
masters of pending syncs; pointer and holder (0xFF none) of Gecko arbiters 0 and 1 (R430). -/
structure MpuState where
  act : List (Nat × MpuRegion)
  snap : List (Nat × MpuRegion)
  pendG : Nat
  pendL : Nat
  p0 : Nat
  h0 : Nat
  p1 : Nat
  h1 : Nat
  deriving DecidableEq, Repr

/-- Every region disabled. -/
def MpuState.init : MpuState := { act := [], snap := [], pendG := 0, pendL := 0, p0 := 0, h0 := 0xFF, p1 := 0, h1 := 0xFF }

/-! ## Gecko flash (15) -/

/-- An operation of the flash controller (R439): its number 1–5, ADDR, LEN, the source read for a PROGRAM; whether the TAG master asked
for it (R456); how often it was suspended. -/
structure FlashOp where
  op : Nat
  addr : Nat
  len : Nat
  data : Bytes
  tag : Bool
  susp : Nat
  deriving DecidableEq, Repr

/-- The erase journal of a bank (R448): which of its two sectors is current, the sequence number of its header, the lines it holds. -/
structure EraseJournal where
  sect : Nat
  seq : Nat
  used : Nat
  deriving DecidableEq, Repr

/-- A header and no record. -/
def EraseJournal.init : EraseJournal := { sect := 0, seq := 1, used := 1 }

/-- The two banks beyond their bytes (MemState.gecko): the operation that runs, those suspended, innermost first; the lines that are
not erased, by warden address / 32, each 1 + the correction count it reads with (8 uncorrectable); the erase intents without a
completion record (bank, first sector, count: R448); the remap entries (bank, logical sector, spare: R453); uncorrectable lines read
in an OPTIME second (R438); `half` the half-erased ranges the scan found (R449); the erase journals of the banks (R448). -/
structure FlashState where
  run : Option FlashOp
  stack : List FlashOp
  lines : List (Nat × Nat)
  intents : List (Nat × Nat × Nat)
  remap : List (Nat × Nat × Nat)
  burst : Nat × Nat
  half : List (Nat × Nat × Nat)
  ejour0 : EraseJournal
  ejour1 : EraseJournal
  deriving DecidableEq, Repr

/-- Both banks erased: what manufacture wrote is unknown here (log entry 4). -/
def FlashState.init : FlashState :=
  { run := none, stack := [], lines := [], intents := [], remap := [], burst := (0, 0), half := [], ejour0 := EraseJournal.init,
    ejour1 := EraseJournal.init }

/-! ## Tamper (16) -/

/-- One entry of the cell log (R470). -/
structure CellEntry where
  seconds : Nat
  overflow : Bool
  lost : Nat
  executed : Nat
  sources : Nat
  deriving DecidableEq, Repr

/-- The tamper block and the cell domain beyond the TAMPER registers (R457–R476). -/
structure TamperState where
  tripA : BitVec 16               -- detector A of source n tripped
  tripB : BitVec 16               -- detector B of source n tripped
  zallRunning : Bool              -- a requested ZEROISE_ALL runs (R472)
  resp : Nat                      -- the response whose flash erases run, 0 none (R461, R463)
  cellLog : List CellEntry        -- oldest first, at most 16
  bk : Option (BitVec 384)        -- the battery key (R470)
  loopKey : W128                  -- loop-code generator (R459)
  loopCtr : W64
  loop0Bad : Nat                  -- consecutive bad measurements of loop 0
  loop1Bad : Nat                  -- consecutive bad codes of loop 1
  selfTest : Option (Nat × Nat)   -- running self-test: source, detector
  ackMarks : List (Nat × Nat)     -- acknowledgement mark of each key domain (R157, in the cell domain)
  cellLoss : Bool                 -- a cell power-on whose CELL_LOSS is still to be judged (R473)
  deriving DecidableEq, Repr

/-- The tamper block before the first power-on: no BK, empty log (R607), loop key zero (R459). -/
def TamperState.init : TamperState :=
  { tripA := 0, tripB := 0, zallRunning := false, resp := 0, cellLog := [], bk := none, loopKey := 0, loopCtr := 0, loop0Bad := 0,
    loop1Bad := 0, selfTest := none, ackMarks := [], cellLoss := false }

/-! ## Fault collector, drawbar (17) -/

/-- A retirement request waiting in the collector (R490). -/
structure RetireReq where
  cls : Nat
  unit : Nat
  part : Nat
  reason : Nat
  deriving DecidableEq, Repr

/-- The fault collector beyond its registers (R483–R497). -/
structure FaultState where
  conds : List Nat                 -- codes of the fatal reports of this safe state
  cutPending : Bool                -- routes still running at entry (R483 step 2)
  rebuildAsked : Bool              -- a REBUILD exit waits for step 8 of the Landau leg (R486)
  exits : List Nat                 -- operating times of exits (R488)
  waiting : List RetireReq         -- requests in arrival order (R490)
  scf : List (Nat × Nat × Nat)     -- passed-test PKE_SCF: cluster, tile, operating time (R492)
  scfTests : List (Nat × Nat)      -- tiles whose self-test a PKE_SCF awaits, oldest first
  withheld : Bool                  -- the recovery limit stopped automatic exits (R488)
  pcCount : List (Nat × Nat × Nat) -- stack × 32 + pseudo-channel, hour, errors (R495)
  rows : List (Nat × Nat × Nat × Nat) -- stack, row, hour, errors: the most recent distinct rows (R496)
  kcLost : List (Nat × Nat)        -- key-cache rows excluded: bank, row (R497)
  kcMapped : List (Nat × Nat)      -- key-cache rows on a redundant row: bank, row (R497)
  safeUp : Bool                    -- SAFE_UP wire pair asserted (R482)
  selfFault : Option (Nat × Nat × Bool) -- a collector self-fault to record as FCOLL_SELF at the next bring-up: unit, part, forced (R481)
  deriving DecidableEq, Repr

/-- One direction of the drawbar (R498): the physical lane of each of the 32 main lanes; physical lanes swapped out or bad. -/
structure LaneMap where
  lane : List Nat
  bad : List Nat
  deriving DecidableEq, Repr

/-- The drawbar (R16, R51, R498): trained, its two directions, whether the pattern checkers of its spare lanes run, its AES-GCM keys, one a
direction. -/
structure Drawbar where
  up : Bool
  dir0 : LaneMap
  dir1 : LaneMap
  patterns : Bool
  keys : Option (Bytes × Bytes)
  deriving DecidableEq, Repr

/-- No report yet. -/
def FaultState.init : FaultState :=
  { conds := [], cutPending := false, rebuildAsked := false, exits := [], waiting := [], scf := [], scfTests := [], withheld := false,
    pcCount := [], rows := [], kcLost := [], kcMapped := [], safeUp := false, selfFault := none }

/-- Main lane k on physical lane k; lanes 32–35 are the spares (R35). -/
def LaneMap.init : LaneMap := { lane := List.range 32, bad := [] }

/-- Untrained. -/
def Drawbar.init : Drawbar := { up := false, dir0 := LaneMap.init, dir1 := LaneMap.init, patterns := false, keys := none }

/-! ## Event recorder (18) -/

/-- An event record (R502); `optFirst`, `optLast`, `rtc` in seconds. -/
structure EvRec where
  code : Nat
  flags : Nat
  unit : Nat
  part : Nat
  rep : Nat
  optFirst : Nat
  optLast : Nat
  pcycle : Nat
  detail : Nat
  rtc : Nat
  deriving DecidableEq, Repr

/-- The recorder (R504–R509): open records oldest first, the staging queue in the order records closed, the flash ring as
batches of up to seven records with their sequence numbers, oldest first. -/
structure EvState where
  openRecs : List EvRec
  staging : List EvRec
  ring : List (Nat × List EvRec)
  lostPending : Bool           -- the next record carries LOST (R509)
  restored : Bool              -- records made now carry RESTORED (R513)
  cellOn : Bool                -- a cell power-on awaits its time restore (R513)
  deriving DecidableEq, Repr

/-- The batches of the factory bring-ups, from sequence number 1 (R607); what their records say is unknown here (log entry 4). -/
def factoryEvents : List (Nat × List EvRec) :=
  (List.range Config.factoryBatches).map (fun i => (i + 1, (List.range (1 + Config.factoryBatch i % 7)).map (fun j =>
    let f := Config.factoryEvent i j
    { code := f 0 % 2 ^ 16, flags := f 1 % 16, unit := f 2 % 256, part := f 3 % 256, rep := f 4 % 2 ^ 16, optFirst := f 5 % 2 ^ 32,
      optLast := f 6 % 2 ^ 32, pcycle := f 7 % 2 ^ 24, detail := f 8 % 2 ^ 32, rtc := f 9 % 2 ^ 32 })))

/-- The ring of the factory. -/
def EvState.init : EvState :=
  { openRecs := [], staging := [], ring := factoryEvents, lostPending := false, restored := false, cellOn := false }

/-! ## Custodian cards and the ledger card (20) -/

/-- A contact port beyond its registers (R531–R542): the command that runs, the bytes written to transmit and received, how much was
read; the command APDU of the running exchange; how far the custodian applet has come (0 nothing, 1 selected, 2 key read) and the key
GET_INFO returned; whether the card's part ended for this insertion. -/
structure CardPort where
  cmd : Option Nat
  tx : Bytes
  rx : Bytes
  apdu : Bytes
  applet : Nat
  key : Bytes
  ended : Bool
  deriving DecidableEq, Repr

/-- No card. -/
def CardPort.init : CardPort := { cmd := none, tx := [], rx := [], apdu := [], applet := 0, key := [], ended := false }

/-- The SDH port: the card in place, whether CMD42 has unlocked it; the command that runs with its block, count, SRAM address and
source; what the scan found: FIRST_SEQ of
its header, the next certificate slot, the SEQ of its newest record. -/
structure SdhState where
  card : Option SdCard
  unlocked : Bool
  cmd : Option (Nat × Nat × Nat × Nat × Bytes)
  firstSeq : Nat
  nextCert : Nat
  head : Nat
  deriving DecidableEq, Repr

/-- No card. -/
def SdhState.init : SdhState := { card := none, unlocked := false, cmd := none, firstSeq := 0, nextCert := 0, head := 0 }

/-! ## Contactless tag (21) -/

/-- What the tag answers to a field command: nothing, an error code (R568), response data, an inventory answer in a slot (R560), or the
system information of R554: identity, DSFID, AFI, blocks, block size, IC reference. -/
inductive TagAns where
  | silent
  | error (code : Nat)
  | ok (data : Bytes)
  | inSlot (slot : Nat) (data : Bytes)
  | system (uid dsfid afi blocks size ic : Nat)
  deriving DecidableEq, Repr

/-- The tag controller (R553–R568): a field present, since it appeared the Quiet and Selected states, the round's pool entry and
handle, a round refused; the firmware operation that waits for the field command to end or runs; the answers, newest last. -/
structure TagState where
  field : Bool
  quiet : Bool
  selected : Bool
  round : Option (Nat × Bytes)
  op : Option Nat
  out : List TagAns
  deriving DecidableEq, Repr

/-- No field. -/
def TagState.init : TagState := { field := false, quiet := false, selected := false, round := none, op := none, out := [] }

/-! ## Power arbiter (19) -/

/-- The arbiter beyond its registers: the percentage of CAP that R522 has taken off, windows since one exceeded CAP; consecutive readings that
allow the stage to be left (R529); the stage that waits for the end of a mode change (R530); the target of the mode change that runs. -/
structure ArbState where
  cut : Nat
  quiet : Nat
  cool : List Nat
  stageDue : Option Nat
  target : Option Nat
  deriving DecidableEq, Repr

/-- No reduction, no change. -/
def ArbState.init : ArbState := { cut := 0, quiet := 0, cool := [0, 0, 0], stageDue := none, target := none }

/-! ## Pattern engines, sideband, debug (22) -/

/-- The pattern test that runs (R577): started at LTEST or at TEST; its class, index and direction. -/
structure TestRun where
  land : Bool
  cls : Nat
  idx : Nat
  dir : Nat
  deriving DecidableEq, Repr

/-- An MCTP message: source or destination endpoint, tag owner bit, tag, bytes. -/
structure SbMsg where
  eid : Nat
  own : Bool
  tag : Nat
  data : Bytes
  deriving DecidableEq, Repr

/-- The sideband beyond its registers (R570–R576): 0 while no mode is settled, 1 I3C, 2 a fallback; the message being assembled with the next
packet sequence number; assembled messages, oldest first; the bytes pushed for transmission; messages sent and answered, newest last;
STATUS's NONCE; the image being staged: whole length, bytes that have arrived as (offset, length); a recovery slot's the same. -/
structure SidebState where
  settled : Nat
  asm : Option (SbMsg × Nat)
  rx : List SbMsg
  tx : Bytes
  sent : List SbMsg
  answers : List Bytes
  nonce : Bytes
  total : Nat
  arrived : List (Nat × Nat)
  recSlot : Nat
  recImage : Bytes
  recTotal : Nat
  deriving DecidableEq, Repr

/-- Nothing received. -/
def SidebState.init : SidebState :=
  { settled := 0, asm := none, rx := [], tx := [], sent := [], answers := [], nonce := [], total := 0, arrived := [], recSlot := 0,
    recImage := [], recTotal := 0 }

/-- The instructions of the test access port (R579). -/
inductive TapInsn where
  | idcode | bypass | samplePreload | extest | extestPulse | extestTrain | highz | dbgmbox
  deriving DecidableEq, Repr

/-- The debug port (R579–R583): the TAP instruction in force (one without its scope shows as bypass), the word its data register last gave; the
warden cores a debugger has halted, each with whether the Sealed scope holds it. -/
structure DebugState where
  tap : TapInsn
  dr : W32
  halted : List (Nat × Nat)
  deriving DecidableEq, Repr

/-- After a TAP reset: IDCODE is in force. -/
def DebugState.init : DebugState := { tap := .idcode, dr := 0x19400999, halted := [] }

/-! ## The state -/

/-- The whole state of the L9. -/
structure State where
  /-- commands waiting, first in first out -/
  pending : List Instr
  /-- free values drawn so far (the model's own field, log entry 1) -/
  freeCtr : Nat
  /-- register fields that do not hold their reset value, by key (Regs.lean) -/
  regs : List (Nat × Nat)
  /-- 02 -/
  power : PowerState
  /-- 02 -/
  fuse : FuseState
  /-- 02 -/
  boot : BootState
  /-- 03 -/
  cfg : CfgFlash
  /-- 03: the image in force -/
  image : Option Image
  /-- 03 -/
  struct : StructState
  /-- 04 -/
  qm : QmState
  /-- 16 -/
  tamper : TamperState
  /-- 17 -/
  fc : FaultState
  /-- 17 -/
  drawbar : Drawbar
  /-- 18 -/
  ev : EvState
  /-- 13: Gecko interrupt sources raised and not yet taken -/
  irqSrc : BitVec 64
  /-- 05: key store, key cache, journal, DMK log, verification tables -/
  ks : KsState
  /-- 05: MCRYPT and the HBM stacks -/
  hbm : HbmState
  /-- 20: custodian set and quorum session -/
  quorum : QuorumState
  /-- 07: Sealed cipher engine -/
  sciph : SciphState
  /-- 06: Sealed public-key engine -/
  spke : SpkeState
  /-- 06: public-key clusters -/
  pke : PkeState
  /-- 01, 11: SRAM, flash main arrays, dispatch SRAMs, HBM applet data -/
  mem : MemState
  /-- 07: cipher and hash tiles -/
  cip : CipState
  /-- 08: random number generation -/
  rng : RngState
  /-- 09: host-flash interposer and host measurement -/
  hf : HostFlash
  /-- 09: boot ledger and certificates -/
  led : LedState
  /-- 09: SPDM responder -/
  spdm : SpdmState
  /-- 14: MPU rules in force, Gecko arbiters -/
  mpu : MpuState
  /-- 15: flash controller and array -/
  flash : FlashState
  /-- 20: contact port CARD0 -/
  card0 : CardPort
  /-- 20: contact port CARD1 -/
  card1 : CardPort
  /-- 20: ledger card port -/
  sdh : SdhState
  /-- 21: contactless tag -/
  tag : TagState
  /-- 13: dispatch interrupt sources raised and not yet taken, a mask by core -/
  dispSrc : List (Nat × Nat)
  /-- 10: member key, member table, epoch -/
  cluster : ClusterState
  /-- 13: warden cores A and B -/
  warden : List DCore
  /-- 13: dispatch cores 0 to 19 -/
  disp : List DCore
  /-- 11: the write buffers of the cores, oldest write first -/
  wbuf : List BufWrite
  /-- 19: power arbiter -/
  arb : ArbState
  /-- 22: the pattern test that runs -/
  test : Option TestRun
  /-- 22: sideband -/
  sb : SidebState
  /-- 22: test access port and debug -/
  dbg : DebugState
  deriving DecidableEq, Repr

/-- The machine before its first power-on, as it leaves manufacture (R607): no supply, cell domain unpowered. Log entry 4. -/
def State.reset : State :=
  { pending := [],
    freeCtr := 0,
    regs := [],
    power := PowerState.init,
    fuse := FuseState.init,
    boot := BootState.init,
    cfg := CfgFlash.init,
    image := none,
    struct := StructState.init,
    qm := QmState.init,
    tamper := TamperState.init,
    fc := FaultState.init,
    drawbar := Drawbar.init,
    ev := EvState.init,
    irqSrc := 0,
    ks := KsState.init,
    hbm := HbmState.init,
    quorum := QuorumState.init,
    sciph := SciphState.init,
    spke := SpkeState.init,
    pke := PkeState.init,
    mem := MemState.init,
    cip := CipState.init,
    rng := RngState.init,
    hf := HostFlash.init,
    led := LedState.init,
    spdm := SpdmState.init,
    mpu := MpuState.init,
    flash := FlashState.init,
    card0 := CardPort.init,
    card1 := CardPort.init,
    sdh := SdhState.init,
    tag := TagState.init,
    dispSrc := [],
    cluster := ClusterState.init,
    warden := [DCore.warden, DCore.warden],
    disp := List.replicate 20 (DCore.dispatch false),
    wbuf := [],
    arb := ArbState.init,
    test := none,
    sb := SidebState.init,
    dbg := DebugState.init }

/-- What a meaning answers. -/
abbrev Res := Host.Outcome State Fault Refusal

end Sys2Proof.Machine
end

