-- ==== Sys2Proof/Machine/Ops.lean ====
section
/-!
DEFINITION. Ops.lean: the named operations on registers, byte strings and free values that every meaning shares.
-/
namespace Sys2Proof.Machine

/-! ## Byte strings -/

/-- Byte i as a number, 0 past the end. -/
def byteAt (b : Bytes) (i : Nat) : Nat := ((b[i]?).getD 0).toNat

/-- The little-endian number in n bytes from an offset (R9). -/
def leAt (b : Bytes) (off : Nat) : Nat → Nat
  | 0 => 0
  | n + 1 => byteAt b off + 256 * leAt b (off + 1) n

/-- The big-endian number a byte string holds. -/
def beNat (b : Bytes) : Nat := b.foldl (fun a x => 256 * a + x.toNat) 0

/-- n bytes from an offset. -/
def slice (b : Bytes) (off n : Nat) : Bytes := (b.drop off).take n

/-- Exactly n bytes from an offset, padded with zeros. -/
def sliceZ (b : Bytes) (off n : Nat) : Bytes := (List.range n).map (fun i => BitVec.ofNat 8 (byteAt b (off + i)))

/-- A number as n little-endian bytes (R9). -/
def leBytes (v : Nat) : Nat → Bytes
  | 0 => []
  | n + 1 => BitVec.ofNat 8 v :: leBytes (v / 256) n

/-- A number as n big-endian bytes. -/
def beBytes (v n : Nat) : Bytes := (leBytes v n).reverse

/-- n zero bytes. -/
def zeros (n : Nat) : Bytes := List.replicate n 0

/-- A SHA-384 value as its 48 bytes, first byte first. -/
def hashBytes (h : Hash) : Bytes := beBytes h.toNat 48

/-- Write bytes over a byte string at an offset, extending it with zeros where it is shorter. -/
def overwrite (b : Bytes) (off : Nat) (d : Bytes) : Bytes :=
  sliceZ b 0 off ++ d ++ b.drop (off + d.length)

/-- Whether every byte of a range is zero. -/
def allZero (b : Bytes) (off n : Nat) : Bool := (slice b off n).all (fun x => x = 0)

/-- The number of bits set among the low n. -/
def popBits (v : Nat) : Nat → Nat
  | 0 => 0
  | n + 1 => (if v.testBit n then 1 else 0) + popBits v n

/-- A number with bit n set. -/
def setBitN (v n : Nat) : Nat := v ||| 2 ^ n

/-- A number with bit n clear. -/
def clrBitN (v n : Nat) : Nat := if v.testBit n then v - 2 ^ n else v

/-- The lowest bit below n that is clear. -/
def lowestClear (v n : Nat) : Option Nat := (List.range n).find? (fun i => !v.testBit i)

/-- The lowest bit below n that is set. -/
def lowestSet (v n : Nat) : Option Nat := (List.range n).find? (fun i => v.testBit i)

/-! ## Registers -/

/-- What a register field holds. -/
def getF (s : State) (f : Field) : Nat := mapGet s.regs f.key f.reset

/-- Put a value into a register field, as hardware does. -/
def setF (s : State) (f : Field) (v : Nat) : State :=
  { s with regs := mapSet s.regs f.key (v % 2 ^ f.width) f.reset }

/-- Whether a one-bit field is set. -/
def isSet (s : State) (f : Field) : Bool := getF s f != 0

/-- Set a one-bit field from a truth value. -/
def setB (s : State) (f : Field) (b : Bool) : State := setF s f (if b then 1 else 0)

/-- The bits of a field within a register value. -/
def Field.ofWord (f : Field) (v : Nat) : Nat := v / 2 ^ f.lo % 2 ^ f.width

/-- A register as software reads it: write-only and reserved bits read 0 (R10, R11). -/
def readReg (s : State) (blk off : Nat) : Nat :=
  (fieldsAt blk off).foldl (fun a f => if f.acc = .wo then a else a + getF s f * 2 ^ f.lo) 0

/-- A software write to one field by its access code (R10). -/
def writeField (s : State) (f : Field) (v : Nat) : State :=
  match f.acc with
  | .rw => setF s f (f.ofWord v)
  | .w1c => setF s f (getF s f - (getF s f &&& f.ofWord v))
  | .w1s => setF s f (getF s f ||| f.ofWord v)
  | .ss => setF s f (getF s f ||| f.ofWord v)
  | .ro => s
  | .wo => s

/-- A software write to a whole register (R10, R11). -/
def writeReg (s : State) (blk off v : Nat) : State :=
  (fieldsAt blk off).foldl (fun t f => writeField t f v) s

/-- Give the fields that a predicate on (block, offset) covers their reset value (R12). -/
def resetRegs (s : State) (p : Nat → Nat → Bool) : State :=
  { s with regs := s.regs.filter (fun e => !p (e.1 / 64 / 4194304) (e.1 / 64 % 4194304)) }

/-! ## Free values (log entry 1) -/

/-- A free number below 2^w; the counter moves on. -/
def draw (s : State) (w : Nat) : Nat × State :=
  (Config.free s.freeCtr % 2 ^ w, { s with freeCtr := s.freeCtr + 1 })

/-- A free byte string of n bytes. -/
def drawBytes (s : State) (n : Nat) : Bytes × State :=
  ((List.range n).map (Config.freeByte s.freeCtr), { s with freeCtr := s.freeCtr + 1 })

/-! ## Interrupts to the warden cores -/

/-- Raise Gecko interrupt source n. -/
def raise (s : State) (n : Nat) : State := { s with irqSrc := s.irqSrc ||| BitVec.ofNat 64 (2 ^ n) }

/-- Raise a dispatch interrupt source on the dispatch cores a mask names (R416). -/
def raiseDisp (s : State) (src cores : Nat) : State :=
  let put := fun l i => if cores.testBit i then mapSet l i (mapGet l i 0 ||| 2 ^ src) 0 else l
  { s with dispSrc := (List.range 20).foldl put s.dispSrc }

/-! ## Time (R512) -/

/-- Operating time in seconds. -/
def optime (s : State) : Nat := getF s F.TIMEKEEP_OPTIME_COUNT

/-- The power-cycle count. -/
def pcycle (s : State) : Nat := getF s F.TIMEKEEP_PCYCLE_COUNT

/-- The real-time counter. -/
def rtc (s : State) : Nat := getF s F.TIMEKEEP_RTC_SECONDS

/-! ## Lifecycle (R62) -/

/-- Whether a state of the fuse word is reached: either of its two bits. -/
def lifeReached (w : BitVec 14) (i : Nat) : Bool := w.getLsbD (2 * i) || w.getLsbD (2 * i + 1)

/-- The ownership period in force: 1 when a period-1 state is reached (R62). -/
def ownerPeriod (w : BitVec 14) : Nat :=
  if lifeReached w 3 then 0 else if lifeReached w 4 || lifeReached w 5 || lifeReached w 6 then 1 else 0

/-- The lifecycle state: 0 BLANK, 1 OWNED, 2 DEPLOYED, 3 RMA, 4 DECOMMISSIONED (R62). Pairs 0–2 are OWNED, DEPLOYED, RMA
of period 0, pair 3 DECOMMISSIONED, pairs 4–6 the states of period 1. -/
def lifeState (w : BitVec 14) : Nat :=
  if lifeReached w 3 then 4
  else if lifeReached w 6 then 3
  else if lifeReached w 5 then 2
  else if lifeReached w 4 then 1
  else if lifeReached w 2 then 3
  else if lifeReached w 1 then 2
  else if lifeReached w 0 then 1
  else 0

/-- The lifecycle state as this bring-up sees it (R46: the fuse shadow). -/
def life (s : State) : Nat := lifeState s.fuse.shadow.life

/-- FUSE_OWNER_KEY_HASH: the owner key hash of the period in force (R62). -/
def ownerKeyHash (s : State) : Hash :=
  if ownerPeriod s.fuse.shadow.life = 0 then s.fuse.shadow.owner0 else s.fuse.shadow.owner1

/-- Whether the device is in safe state (R483). -/
def inSafe (s : State) : Bool := isSet s F.SYSCTL_STATE_SAFE

/-- Whether Gecko is powered, so that its registers and firmware answer (R42). -/
def geckoUp (s : State) : Bool := s.power.mainGood

/-- Whether the cell domain has a supply (R473). -/
def cellUp (s : State) : Bool := s.power.vbat || s.power.main

/-- Whether Landau runs its structure. -/
def landauUp (s : State) : Bool := getF s F.STRUCT_STATUS_STATE = 3 || getF s F.STRUCT_STATUS_STATE = 5

/-- The effect of a write or event that needs Gecko powered; without power nothing happens (log entry 5). -/
def whenGecko (s t : State) : Res := .next (if geckoUp s then t else s)

/-- The effect of an event that needs Landau's structure running; otherwise nothing happens (log entry 5). -/
def whenLandau (s t : State) : Res := .next (if landauUp s then t else s)

end Sys2Proof.Machine
end

