-- ==== Sys2Proof/Machine/HostMap.lean ====
section
/-!
DEFINITION. HostMap.lean: the measurement map, the HFMAP section (R279–R282).
-/
namespace Sys2Proof.Machine

/-- The header fields of a map (R279). -/
def hmPolicy (m : Bytes) : Nat := byteAt m 0
def hmRegions (m : Bytes) : Nat := byteAt m 1
def hmFilters (m : Bytes) : Nat := byteAt m 2
def hmOpcodes (m : Bytes) : Nat := byteAt m 3
def hmDevices (m : Bytes) : Nat := byteAt m 4
def hmIo (m : Bytes) (d : Nat) : Nat := byteAt m 5 / 16 ^ d % 16
def hmVddio (m : Bytes) : Nat := byteAt m 6
def hmSize (m : Bytes) (d : Nat) : Nat := leAt m (8 + 4 * d) 4

/-- The read modes a device's SFDP table shows (JESD216), bit k for mode k of IO_MODE; 0 when the table fails its checks: signature, major
revision, the basic table first and within the bytes. Octal is the xSPI profile table of JESD251 (R275; log entry 56). -/
def sfdpModes (b : Bytes) : Nat :=
  let hdr := fun i => slice b (8 + 8 * i) 8
  let bfpt := leAt (hdr 0) 4 3
  let d1 := leAt b bfpt 4
  let octal := (List.range (byteAt b 6 + 1)).any (fun i => byteAt (hdr i) 0 = 5 && byteAt (hdr i) 7 = 0xFF)
  if slice b 0 4 ≠ [0x53, 0x46, 0x44, 0x50] ∨ byteAt b 5 ≠ 1 ∨ b.length < 16 + 8 * byteAt b 6 ∨ byteAt (hdr 0) 0 ≠ 0
      ∨ byteAt (hdr 0) 7 ≠ 0xFF ∨ byteAt (hdr 0) 3 < 9 ∨ b.length < bfpt + 4 * byteAt (hdr 0) 3 then 0
  else 2 + (if d1.testBit 16 || d1.testBit 20 then 4 else 0) + (if d1.testBit 21 || d1.testBit 22 then 8 else 0) + (if octal then 16 else 0)

/-- The fastest read mode that both a table's modes and IO_MODE allow, 0 none (R275). -/
def fastestMode (modes io : Nat) : Nat := (((List.range (io + 1)).filter (fun k => modes.testBit k)).getLast?).getD 0

/-- A region entry (R280). -/
structure HRegion where
  device : Nat
  protect : Bool
  rcv : Bool
  measureOnly : Bool
  allowed : List Bytes
  base : Nat
  len : Nat
  recBase : Nat
  deriving DecidableEq, Repr

/-- Region n of a map. -/
def hmRegion (m : Bytes) (n : Nat) : HRegion :=
  let o := 64 + 208 * n
  let f := byteAt m (o + 1)
  { device := byteAt m o, protect := f.testBit 0, rcv := f.testBit 1, measureOnly := f.testBit 2,
    allowed := (List.range (byteAt m (o + 2))).map (fun i => sliceZ m (o + 0x10 + 48 * i) 48), base := leAt m (o + 4) 4,
    len := leAt m (o + 8) 4, recBase := leAt m (o + 12) 4 }

/-- All regions with their numbers. -/
def hmAll (m : Bytes) : List (Nat × HRegion) := (List.range (hmRegions m)).map (fun n => (n, hmRegion m n))

/-- A filter entry (R281): device, action, base, length. -/
structure HFilter where
  device : Nat
  action : Nat
  base : Nat
  len : Nat
  deriving DecidableEq, Repr

/-- The offset of the filters and of the opcodes. -/
def hmFilterOff (m : Bytes) : Nat := 64 + 208 * hmRegions m
def hmOpcodeOff (m : Bytes) : Nat := hmFilterOff m + 16 * hmFilters m

/-- The filters. -/
def hmFilterAll (m : Bytes) : List HFilter :=
  (List.range (hmFilters m)).map (fun i =>
    let o := hmFilterOff m + 16 * i
    { device := byteAt m o, action := byteAt m (o + 1), base := leAt m (o + 4) 4, len := leAt m (o + 8) 4 })

/-- An opcode entry (R281): first byte, class (R283), address bytes. -/
structure HOpcode where
  op : Nat
  cls : Nat
  addr : Nat
  deriving DecidableEq, Repr

/-- The opcode entries. -/
def hmOps (m : Bytes) : List HOpcode :=
  (List.range (hmOpcodes m)).map (fun i =>
    let o := hmOpcodeOff m + 4 * i
    { op := byteAt m o, cls := byteAt m (o + 1), addr := byteAt m (o + 2) })

/-- A length or base under the rules of a region: multiples of 4 KiB, at least 4 KiB long. -/
def hmLenOk (base len : Nat) : Bool := base % 4096 = 0 && len % 4096 = 0 && 4096 ≤ len

/-- The ranges of a map that must not overlap: device, base, length. -/
def hmRanges (m : Bytes) : List (Nat × Nat × Nat) :=
  (hmAll m).flatMap (fun x =>
    (x.2.device, x.2.base, x.2.len) :: (if x.2.rcv then [(x.2.device, x.2.recBase, x.2.len)] else []))

/-- Whether two ranges overlap. -/
def rangeMeets (a b : Nat × Nat × Nat) : Bool := a.1 = b.1 && decide (a.2.1 < b.2.1 + b.2.2) && decide (b.2.1 < a.2.1 + a.2.2)

/-- Whether no two of a list of ranges overlap. -/
def rangesApart : List (Nat × Nat × Nat) → Bool
  | [] => true
  | a :: t => t.all (fun b => !rangeMeets a b) && rangesApart t

/-- A region entry keeps R280. -/
def hmRegionOk (m : Bytes) (n : Nat) : Bool :=
  let o := 64 + 208 * n
  let x := hmRegion m n
  x.device < hmDevices m && byteAt m (o + 1) < 8 && byteAt m (o + 2) ≤ 4 && byteAt m (o + 3) = 0 && hmLenOk x.base x.len
    && (x.rcv || x.recBase = 0) && allZero m (o + 0x10 + 48 * x.allowed.length) (48 * (4 - x.allowed.length))
    && x.base + x.len ≤ hmSize m x.device && (!x.rcv || x.recBase + x.len ≤ hmSize m x.device)
    && (hmPolicy m = 0 || x.protect)

/-- A filter entry keeps R281. -/
def hmFilterOk (m : Bytes) (i : Nat) : Bool :=
  let o := hmFilterOff m + 16 * i
  byteAt m o < hmDevices m && (byteAt m (o + 1) = 1 || byteAt m (o + 1) = 2) && allZero m (o + 2) 2
    && hmLenOk (leAt m (o + 4) 4) (leAt m (o + 8) 4) && allZero m (o + 12) 4

/-- An opcode entry keeps R281. -/
def hmOpcodeOk (m : Bytes) (i : Nat) : Bool :=
  let o := hmOpcodeOff m + 4 * i
  1 ≤ byteAt m (o + 1) && byteAt m (o + 1) ≤ 6 && (byteAt m (o + 2) = 0 || byteAt m (o + 2) = 3 || byteAt m (o + 2) = 4)
    && byteAt m (o + 3) = 0

/-- Every check of R282, with the capacity of R275. -/
def mapOk (m : Bytes) : Bool :=
  let d := hmDevices m
  hmPolicy m ≤ 1 && 1 ≤ hmRegions m && hmRegions m ≤ 8 && hmFilters m ≤ 16 && 1 ≤ hmOpcodes m && hmOpcodes m ≤ 32
    && (d = 1 || d = 2) && hmVddio m ≤ 1 && byteAt m 7 = 0 && allZero m 0x10 48 && (d = 2 || hmSize m 1 = 0)
    && hmSize m 0 ≤ 2 ^ 31 && hmSize m 1 ≤ 2 ^ 31
    && (List.range d).all (fun i => 1 ≤ hmIo m i && hmIo m i ≤ 4 && (hmIo m i != 4 || hmVddio m = 0))
    && m.length = hmOpcodeOff m + 4 * hmOpcodes m
    && (List.range (hmRegions m)).all (hmRegionOk m) && (List.range (hmFilters m)).all (hmFilterOk m)
    && (List.range (hmOpcodes m)).all (hmOpcodeOk m) && rangesApart (hmRanges m)
    && (hmOps m).any (fun e => e.cls = 1) && decide ((hmOps m).map (fun e => e.op)).Nodup

end Sys2Proof.Machine
end

