-- ==== Sys2Proof/Machine/Mem.lean ====
section
/-!
DEFINITION. Mem.lean: reading and writing the addressed memories (R9, R38, R366–R368). What an unlisted address reads as: an erased
flash byte reads 0xFF (R438); SRAM and HBM bytes nothing has written read 0 (log entry 21); the boot ROM's bytes are the
manufacturer's, an opaque constant (log entry 4).
-/
namespace Sys2Proof.Machine

/-- Whether a warden address lies in a flash main array (R38). -/
def isFlash (a : Nat) : Bool := (0x10000000 ≤ a && a < 0x10400000) || (0x10800000 ≤ a && a < 0x10C00000)

/-- What an unlisted warden address reads as. -/
def geckoDefault (a : Nat) : Byte := if isFlash a then 0xFF else 0

/-- A byte of a memory whose unlisted addresses read as `d` says. -/
def cellRead (d : Nat → Byte) (m : List Host.Cell) (a : Nat) : Byte := mapGet m a (d a)

/-- Write a byte, keeping the canonical form. -/
def cellWrite (d : Nat → Byte) (m : List Host.Cell) (a : Nat) (b : Byte) : List Host.Cell := mapSet m a b (d a)

/-- The canonical form: addresses rise, no cell equals what its address reads as unlisted. -/
def cellsWf (d : Nat → Byte) (m : List Host.Cell) : Bool := keysRise m && m.all (fun c => c.2 != d c.1)

/-- A zero default, for SRAM and HBM. -/
def zeroByte (_ : Nat) : Byte := 0

/-- The canonical form of all four memories. -/
def Memory.wf (m : MemState) : Bool :=
  cellsWf geckoDefault m.gecko && cellsWf zeroByte m.isram && cellsWf zeroByte m.dsram && cellsWf zeroByte m.hbm

/-- A byte of Gecko memory. -/
def geckoByte (s : State) (a : Nat) : Byte := cellRead geckoDefault s.mem.gecko a

/-- Write a byte of Gecko memory. -/
def geckoPut (s : State) (a : Nat) (b : Byte) : State :=
  { s with mem := { s.mem with gecko := cellWrite geckoDefault s.mem.gecko a b } }

/-- n bytes of Gecko memory. -/
def geckoBytes (s : State) (a n : Nat) : Bytes := (List.range n).map (fun i => geckoByte s (a + i))

/-- Write bytes to Gecko memory. -/
def geckoWrite (s : State) (a : Nat) : Bytes → State
  | [] => s
  | b :: t => geckoWrite (geckoPut s a b) (a + 1) t

/-- Whether n bytes from an address lie in SRAM. -/
def inSram (a n : Nat) : Bool := 0x20000000 ≤ a && a + n ≤ 0x20100000

/-- Bytes of another memory at an offset. -/
def cellBytes (m : List Host.Cell) (a n : Nat) : Bytes := (List.range n).map (fun i => cellRead zeroByte m (a + i))

/-- Write bytes to another memory. -/
def cellsWrite (m : List Host.Cell) (a : Nat) : Bytes → List Host.Cell
  | [] => m
  | b :: t => cellsWrite (cellWrite zeroByte m a b) (a + 1) t

end Sys2Proof.Machine
end

