-- ==== Sys2Proof/Machine/Crypto.lean ====
section
/-!
DEFINITION. Crypto.lean: the standards the spec names and does not restate, computed (log entry 2): SHA-2 (FIPS 180-4), HMAC
(FIPS 198-1), HKDF (RFC 5869), AES (FIPS 197), DES (SP 800-67), GCM (SP 800-38D), CRC-32, Shamir's scheme over GF(2^8). Bytes go in
the order of the standard.
-/
namespace Sys2Proof.Machine

/-! ## SHA-2 -/

/-- The largest r with f r at most x, by binary search over w bits. -/
def rootGo (f : Nat → Nat) (x : Nat) : Nat → Nat → Nat
  | 0, r => r
  | b + 1, r => rootGo f x b (if f (r + 2 ^ b) ≤ x then r + 2 ^ b else r)

/-- The first n primes of a list of candidates. -/
def primesTo (m : Nat) : List Nat := (List.range m).filter (fun n => n ≥ 2 && !(List.range n).any (fun d => d ≥ 2 && n % d = 0))

/-- The 64 fractional bits of a square root, of a cube root. -/
def sqrtFrac (p : Nat) : Nat := rootGo (fun r => r * r) (p * 2 ^ 128) 70 0 % 2 ^ 64
def cbrtFrac (p : Nat) : Nat := rootGo (fun r => r * r * r) (p * 2 ^ 192) 70 0 % 2 ^ 64

/-- The constants of SHA-512; SHA-256 takes the upper halves of the first 64. -/
def shaK : List Nat := (primesTo 410).map cbrtFrac

/-- The initial states: SHA-256, SHA-384, SHA-512 (hash 1, 2, 3). -/
def shaInit (h : Nat) : List Nat :=
  match h with
  | 1 => ((primesTo 20).map sqrtFrac).map (fun x => x / 2 ^ 32)
  | 2 => ((primesTo 54).map sqrtFrac).drop 8
  | _ => (primesTo 20).map sqrtFrac

/-- Rotate right in w bits. -/
def rotr (w n x : Nat) : Nat := x / 2 ^ n + x % 2 ^ n * 2 ^ (w - n)

/-- The rotation amounts of a hash with w-bit words: Σ0, Σ1, σ0 and σ1 (two rotations and a shift). -/
def bigSig0 (w x : Nat) : Nat :=
  if w = 32 then rotr 32 2 x ^^^ rotr 32 13 x ^^^ rotr 32 22 x else rotr 64 28 x ^^^ rotr 64 34 x ^^^ rotr 64 39 x
def bigSig1 (w x : Nat) : Nat :=
  if w = 32 then rotr 32 6 x ^^^ rotr 32 11 x ^^^ rotr 32 25 x else rotr 64 14 x ^^^ rotr 64 18 x ^^^ rotr 64 41 x
def smallSig0 (w x : Nat) : Nat :=
  if w = 32 then rotr 32 7 x ^^^ rotr 32 18 x ^^^ x / 2 ^ 3 else rotr 64 1 x ^^^ rotr 64 8 x ^^^ x / 2 ^ 7
def smallSig1 (w x : Nat) : Nat :=
  if w = 32 then rotr 32 17 x ^^^ rotr 32 19 x ^^^ x / 2 ^ 10 else rotr 64 19 x ^^^ rotr 64 61 x ^^^ x / 2 ^ 6

/-- The message schedule, newest first. -/
def shaSchedule (w : Nat) : Nat → List Nat → List Nat
  | 0, l => l
  | n + 1, l =>
    let g := fun i => (l[i]?).getD 0
    shaSchedule w n (((smallSig1 w (g 1) + g 6 + smallSig0 w (g 14) + g 15) % 2 ^ w) :: l)

/-- One round on the state a to h. -/
def shaRound (w : Nat) (st : List Nat) (kw : Nat × Nat) : List Nat :=
  match st with
  | [a, b, c, d, e, f, g, h] =>
    let ch := (e &&& f) ^^^ ((2 ^ w - 1 - e) &&& g)
    let t1 := h + bigSig1 w e + ch + kw.1 + kw.2
    let t2 := bigSig0 w a + ((a &&& b) ^^^ (a &&& c) ^^^ (b &&& c))
    [(t1 + t2) % 2 ^ w, a, b, c, (d + t1) % 2 ^ w, e, f, g]
  | x => x

/-- Bytes of a message block of a hash, and of one of its words. -/
def shaBlock (h : Nat) : Nat := if h = 1 then 64 else 128
def shaWord (h : Nat) : Nat := if h = 1 then 32 else 64

/-- Compress one message block. -/
def shaCompress (h : Nat) (st : List Nat) (b : Bytes) : List Nat :=
  let w := shaWord h
  let m := (List.range 16).map (fun i => beNat (sliceZ b (i * (w / 8)) (w / 8)))
  let n := if w = 32 then 64 else 80
  let ws := (shaSchedule w (n - 16) m.reverse).reverse
  let ks := if w = 32 then (shaK.take 64).map (fun k => k / 2 ^ 32) else shaK
  List.zipWith (fun x y => (x + y) % 2 ^ w) st ((List.zip ks ws).foldl (shaRound w) st)

/-- Compress every whole block of a message. -/
def shaBlocks (h : Nat) (st : List Nat) (b : Bytes) : List Nat :=
  (List.range (b.length / shaBlock h)).foldl (fun a i => shaCompress h a (slice b (i * shaBlock h) (shaBlock h))) st

/-- The padding of a message of n bytes. -/
def shaPad (h n : Nat) : Bytes :=
  let k := shaBlock h
  let l := k / 8
  0x80 :: zeros ((2 * k - 1 - l - n % k) % k) ++ beBytes (8 * n) l

/-- Digest bytes of a state. -/
def shaOut (h : Nat) (st : List Nat) : Bytes :=
  (st.flatMap (fun x => beBytes x (shaWord h / 8))).take (match h with | 1 => 32 | 2 => 48 | _ => 64)

/-- A whole hash. -/
def shaBytes (h : Nat) (b : Bytes) : Bytes := shaOut h (shaBlocks h (shaInit h) (b ++ shaPad h b.length))

/-- SHA-256, SHA-384, SHA-512 as bit vectors. -/
def sha256 (b : Bytes) : BitVec 256 := BitVec.ofNat 256 (beNat (shaBytes 1 b))
def sha384 (b : Bytes) : Hash := BitVec.ofNat 384 (beNat (shaBytes 2 b))
def sha512 (b : Bytes) : BitVec 512 := BitVec.ofNat 512 (beNat (shaBytes 3 b))

/-! ## HMAC and HKDF -/

/-- HMAC of a message under a key, with a hash. -/
def hmacBytes (h : Nat) (key msg : Bytes) : Bytes :=
  let k := sliceZ (if key.length > shaBlock h then shaBytes h key else key) 0 (shaBlock h)
  shaBytes h (k.map (· ^^^ 0x5C) ++ shaBytes h (k.map (· ^^^ 0x36) ++ msg))

/-- HMAC-SHA-384. -/
def hmac384 (key msg : Bytes) : Hash := BitVec.ofNat 384 (beNat (hmacBytes 2 key msg))

/-- The blocks of HKDF-Expand from number i. -/
def hkdfExpand (prk info : Bytes) (prev : Bytes) (i : Nat) : Nat → Bytes
  | 0 => []
  | n + 1 =>
    let t := hmacBytes 2 prk (prev ++ info ++ [BitVec.ofNat 8 i])
    t ++ hkdfExpand prk info t (i + 1) n

/-- HKDF-SHA-384: salt, input keying material, info, output bytes. -/
def hkdf384 (salt ikm info : Bytes) (len : Nat) : Bytes :=
  (hkdfExpand (hmacBytes 2 (if salt = [] then zeros 48 else salt) ikm) info [] 1 ((len + 47) / 48)).take len

/-! ## AES -/

/-- Multiplication by x in GF(2^8), and the product of two elements. -/
def gfDbl (a : Nat) : Nat := if a ≥ 128 then (2 * a) % 256 ^^^ 0x1B else 2 * a
def gfMul (a b : Nat) : Nat :=
  ((List.range 8).foldl (fun (p : Nat × Nat) i => (if b.testBit i then p.1 ^^^ p.2 else p.1, gfDbl p.2)) (0, a)).1

/-- The inverse in GF(2^8), 0 for 0: the 254th power. -/
def gfInv (a : Nat) : Nat :=
  let sq := fun x => gfMul x x
  let a2 := sq a
  let a4 := sq a2
  let a8 := sq a4
  let a16 := sq a8
  let a32 := sq a16
  let a64 := sq a32
  let a128 := sq a64
  gfMul a2 (gfMul a4 (gfMul a8 (gfMul a16 (gfMul a32 (gfMul a64 a128)))))

/-- The S-box and its inverse. -/
def aesSbox : List Nat := (List.range 256).map (fun a =>
  let b := gfInv a
  (List.range 5).foldl (fun x i => x ^^^ (b * 2 ^ i % 256 + b * 2 ^ i / 256)) 0x63)
def aesInvSbox : List Nat := (List.range 256).map (fun y => aesSbox.findIdx (fun x => x = y))
def subByte (t : List Nat) (b : Nat) : Nat := (t[b]?).getD 0

/-- Words of the key schedule, as lists of four bytes, newest first; Nk words of key. -/
def aesSchedule (nk : Nat) : Nat → Nat → Nat → List (List Nat) → List (List Nat)
  | 0, _, _, l => l
  | n + 1, i, rc, l =>
    let t := (l.head?).getD []
    let u := if i % nk = 0 then
        (List.zipWith (· ^^^ ·) ((t.drop 1 ++ t.take 1).map (subByte aesSbox)) [rc, 0, 0, 0])
      else if nk > 6 ∧ i % nk = 4 then t.map (subByte aesSbox) else t
    aesSchedule nk n (i + 1) (if i % nk = 0 then gfDbl rc else rc) (List.zipWith (· ^^^ ·) ((l[nk - 1]?).getD []) u :: l)

/-- The round keys of a key of 16, 24 or 32 bytes: 16 bytes each. -/
def aesRoundKeys (key : Bytes) : List (List Nat) :=
  let nk := key.length / 4
  let ws := (aesSchedule nk (4 * (nk + 7) - nk) nk 1
    (((List.range nk).map (fun i => (slice key (4 * i) 4).map (·.toNat))).reverse)).reverse
  (List.range (nk + 7)).map (fun r => ((ws.drop (4 * r)).take 4).flatten)

/-- ShiftRows and its inverse on 16 bytes, column by column. -/
def shiftRows (st : List Nat) : List Nat := (List.range 16).map (fun i => (st[(i + 4 * (i % 4)) % 16]?).getD 0)
def invShiftRows (st : List Nat) : List Nat := (List.range 16).map (fun i => (st[(i + 12 * (i % 4)) % 16]?).getD 0)

/-- MixColumns with a row of coefficients. -/
def mixColumns (co : List Nat) (st : List Nat) : List Nat :=
  (List.range 16).map (fun i => (List.range 4).foldl (fun a j =>
    a ^^^ gfMul ((co[(j + 4 - i % 4) % 4]?).getD 0) ((st[i / 4 * 4 + j]?).getD 0)) 0)

/-- Encrypt 16 bytes. -/
def aesEnc (key : Bytes) (b : List Nat) : List Nat :=
  match aesRoundKeys key with
  | [] => b
  | k0 :: ks =>
    let st := List.zipWith (· ^^^ ·) b k0
    let st := ks.dropLast.foldl (fun st k =>
      List.zipWith (· ^^^ ·) (mixColumns [2, 3, 1, 1] (shiftRows (st.map (subByte aesSbox)))) k) st
    List.zipWith (· ^^^ ·) (shiftRows (st.map (subByte aesSbox))) ((ks.getLast?).getD [])

/-- Decrypt 16 bytes. -/
def aesDec (key : Bytes) (b : List Nat) : List Nat :=
  match (aesRoundKeys key).reverse with
  | [] => b
  | k0 :: ks =>
    let st := List.zipWith (· ^^^ ·) b k0
    let st := ks.dropLast.foldl (fun st k =>
      mixColumns [14, 11, 13, 9] (List.zipWith (· ^^^ ·) ((invShiftRows st).map (subByte aesInvSbox)) k)) st
    List.zipWith (· ^^^ ·) ((invShiftRows st).map (subByte aesInvSbox)) ((ks.getLast?).getD [])

/-- One AES block: key bytes, decrypt?, block. -/
def aesBlock (key : Bytes) (dec : Bool) (b : W128) : W128 :=
  let x := (beBytes b.toNat 16).map (·.toNat)
  BitVec.ofNat 128 ((if dec then aesDec key x else aesEnc key x).foldl (fun a y => 256 * a + y) 0)

/-! ## DES -/

/-- Bits of a number of w bits that a table picks, numbered from 1 at the left. -/
def desPick (w x : Nat) (t : List Nat) : Nat := t.foldl (fun a i => 2 * a + (if x.testBit (w - i) then 1 else 0)) 0

def desIP : List Nat := (List.range 64).map (fun i =>
  let r := i / 8
  (if r < 4 then 2 * r + 58 - 8 * (i % 8) else 2 * (r - 4) + 57 - 8 * (i % 8)))
def desFP : List Nat := (List.range 64).map (fun i => desIP.findIdx (fun x => x = i + 1) + 1)
def desE : List Nat := (List.range 48).map (fun i => (i / 6 * 4 + i % 6 + 31) % 32 + 1)
def desP : List Nat :=
  [16, 7, 20, 21, 29, 12, 28, 17, 1, 15, 23, 26, 5, 18, 31, 10, 2, 8, 24, 14, 32, 27, 3, 9, 19, 13, 30, 6, 22, 11, 4, 25]
def desPC1 : List Nat :=
  [57, 49, 41, 33, 25, 17, 9, 1, 58, 50, 42, 34, 26, 18, 10, 2, 59, 51, 43, 35, 27, 19, 11, 3, 60, 52, 44, 36]
  ++ [63, 55, 47, 39, 31, 23, 15, 7, 62, 54, 46, 38, 30, 22, 14, 6, 61, 53, 45, 37, 29, 21, 13, 5, 28, 20, 12, 4]
def desPC2 : List Nat :=
  [14, 17, 11, 24, 1, 5, 3, 28, 15, 6, 21, 10, 23, 19, 12, 4, 26, 8, 16, 7, 27, 20, 13, 2]
  ++ [41, 52, 31, 37, 47, 55, 30, 40, 51, 45, 33, 48, 44, 49, 39, 56, 34, 53, 46, 42, 50, 36, 29, 32]

/-- The S-boxes, each as 64 hexadecimal digits, row by row. -/
def desS : List Nat :=
  [0xE4D12FB83A6C59070F74E2D1A6CB953841E8D62BFC973A50FC8249175B3EA06D,
   0xF18E6B34972DC05A3D47F28EC01A69B50E7BA4D158C6932FD8A13F42B67C05E9,
   0xA09E63F51DC7B428D709346A285ECBF1D6498F30B12C5AE71AD069874FE3B52C,
   0x7DE3069A1285BC4FD8B56F03472C1AE9A690CB7DF13E52843F06A1D8945BC72E,
   0x2C417AB6853FD0E9EB2C47D150FA3986421BAD78F9C5630EB8C71E2D6F09A453,
   0xC1AF92680D34E75BAF427C9561DE0B389EF528C3704A1DB6432C95FABE17608D,
   0x4B2EF08D3C975A61D0B7491AE35C2F8614BDC37EAF6805926BD814A7950FE23C,
   0xD2846FB1A93E50C71FD8A374C56B0E927B419CE206ADF35821E74A8DFC90356B]

/-- The round function. -/
def desF (r k : Nat) : Nat :=
  let x := desPick 32 r desE ^^^ k
  let y := (List.range 8).foldl (fun a i =>
    let v := x / 2 ^ (42 - 6 * i) % 64
    let row := v / 32 * 2 + v % 2
    let col := v / 2 % 16
    16 * a + ((desS[i]?).getD 0) / 16 ^ (63 - (16 * row + col)) % 16) 0
  desPick 32 y desP

/-- The sixteen round keys of an 8-byte key. -/
def desKeys (k : Nat) : List Nat :=
  let cd := desPick 64 k desPC1
  let rot := fun x n => (x * 2 ^ n) % 2 ^ 28 + x / 2 ^ (28 - n)
  ((List.range 16).foldl (fun (p : (Nat × Nat) × List Nat) i =>
    let n := if i = 0 ∨ i = 1 ∨ i = 8 ∨ i = 15 then 1 else 2
    let c := rot p.1.1 n
    let d := rot p.1.2 n
    ((c, d), p.2 ++ [desPick 56 (c * 2 ^ 28 + d) desPC2])) ((cd / 2 ^ 28, cd % 2 ^ 28), [])).2

/-- One DES block under a single key. -/
def desBlock (key : Nat) (dec : Bool) (b : Nat) : Nat :=
  let x := desPick 64 b desIP
  let ks := if dec then (desKeys key).reverse else desKeys key
  let (l, r) := ks.foldl (fun (p : Nat × Nat) k => (p.2, p.1 ^^^ desF p.2 k)) (x / 2 ^ 32, x % 2 ^ 32)
  desPick 64 (r * 2 ^ 32 + l) desFP

/-- One Triple-DES block under two or three keys: encrypt, decrypt, encrypt. -/
def tdesBlock (key : Bytes) (dec : Bool) (b : W64) : W64 :=
  let k1 := beNat (sliceZ key 0 8)
  let k2 := beNat (sliceZ key 8 8)
  let k3 := if key.length > 16 then beNat (sliceZ key 16 8) else k1
  BitVec.ofNat 64 (if dec then desBlock k1 true (desBlock k2 false (desBlock k3 true b.toNat))
    else desBlock k3 false (desBlock k2 true (desBlock k1 false b.toNat)))

/-! ## GCM -/

/-- Multiplication in GF(2^128) with GCM's bit order: bit 127 is the coefficient of x^0. -/
def ghashMul (x y : W128) : W128 :=
  ((List.range 128).foldl (fun (p : W128 × W128) i =>
    (if x.getLsbD (127 - i) then p.1 ^^^ p.2 else p.1,
     if p.2.getLsbD 0 then (p.2 >>> 1) ^^^ (0xE1 <<< 120) else p.2 >>> 1)) (0, y)).1

/-- 16 bytes as a block, first byte leftmost, and back. -/
def toBlock (b : Bytes) : W128 := BitVec.ofNat 128 (beNat (sliceZ b 0 16))
def ofBlock (w : W128) : Bytes := beBytes w.toNat 16

/-- GHASH under H of whole or zero-padded blocks. -/
def ghashOver (h acc : W128) (b : Bytes) : W128 :=
  (List.range ((b.length + 15) / 16)).foldl (fun a i => ghashMul (a ^^^ toBlock (slice b (16 * i) 16)) h) acc

/-- Key stream from a counter block whose low 32 bits count. -/
def gcmStream (key : Bytes) (j : W128) (n : Nat) : Bytes :=
  ((List.range ((n + 15) / 16)).flatMap (fun i =>
    ofBlock (aesBlock key false (BitVec.ofNat 128 (j.toNat / 2 ^ 32 * 2 ^ 32 + (j.toNat % 2 ^ 32 + 1 + i) % 2 ^ 32))))).take n

/-- The first counter block of a 12-byte IV. -/
def gcmJ0 (iv : Bytes) : W128 := toBlock (iv ++ [0, 0, 0, 1])

/-- The full tag of a ciphertext. -/
def gcmTag (key iv aad ct : Bytes) : Bytes :=
  let h := aesBlock key false 0
  let s := ghashOver h (ghashOver h 0 aad) ct
  let s := ghashMul (s ^^^ BitVec.ofNat 128 (8 * aad.length * 2 ^ 64 + 8 * ct.length)) h
  ofBlock (s ^^^ aesBlock key false (gcmJ0 iv))

/-- AES-GCM encryption: key, IV, additional data, plaintext; ciphertext followed by the 16-byte tag. -/
def gcmSeal (key iv aad pt : Bytes) : Bytes :=
  let ct := List.zipWith (· ^^^ ·) pt (gcmStream key (gcmJ0 iv) pt.length)
  ct ++ gcmTag key iv aad ct

/-- AES-GCM decryption: key, IV, additional data, ciphertext, tag (which may be truncated); none when the tag does not match. -/
def gcmOpen (key iv aad ct tag : Bytes) : Option Bytes :=
  if (gcmTag key iv aad ct).take tag.length = tag then some (List.zipWith (· ^^^ ·) ct (gcmStream key (gcmJ0 iv) ct.length))
  else none

/-! ## CTR_DRBG (SP 800-90A) -/

/-- CTR_DRBG of SP 800-90A with AES-256 and no derivation function: n blocks of the keystream after V, and the V reached. -/
def ctrBlocks (key : Bytes) (v : W128) (n : Nat) : Bytes × W128 :=
  ((List.range n).flatMap (fun i => ofBlock (aesBlock key false (v + BitVec.ofNat 128 (i + 1)))), v + BitVec.ofNat 128 n)

/-- CTR_DRBG_Update with 48 bytes of data. -/
def ctrUpdate (key : Bytes) (v : W128) (d : Bytes) : Bytes × W128 :=
  let t := List.zipWith (· ^^^ ·) (ctrBlocks key v 3).1 (sliceZ d 0 48)
  (t.take 32, toBlock (t.drop 32))

/-- CTR_DRBG_Instantiate from 48 bytes of seed material. -/
def ctrSeed (d : Bytes) : Bytes × W128 := ctrUpdate (zeros 32) 0 d

/-- CTR_DRBG_Generate: n bytes with no additional input, and the state after it. -/
def ctrGenerate (key : Bytes) (v : W128) (n : Nat) : Bytes × Bytes × W128 :=
  let (b, v) := ctrBlocks key v ((n + 15) / 16)
  (b.take n, ctrUpdate key v (zeros 48))

/-! ## CRC-32 and Shamir's scheme -/

/-- CRC-32 of IEEE 802.3 (R82). -/
def crc32 (b : Bytes) : W32 :=
  (b.foldl (fun (c : W32) x => (List.range 8).foldl (fun (c : W32) _ =>
    if c.getLsbD 0 then (c >>> 1) ^^^ 0xEDB88320 else c >>> 1) (c ^^^ x.setWidth 32)) 0xFFFFFFFF) ^^^ 0xFFFFFFFF

/-- Shamir's scheme over GF(2^8), byte by byte (R543): secret, random coefficient bytes (degree 1 first, as many as the secret
for each), share x, M. -/
def shamirSplit (secret coeff : Bytes) (x m : Nat) : Bytes :=
  secret.mapIdx (fun i b => BitVec.ofNat 8
    ((List.range (m - 1)).foldl (fun (p : Nat × Nat) k =>
      let px := gfMul p.2 x
      (p.1 ^^^ gfMul px (byteAt coeff (k * secret.length + i)), px)) (b.toNat, 1)).1)

/-- The secret that shares (x, bytes) give: interpolation at 0. -/
def shamirJoin (sh : List (Nat × Bytes)) : Bytes :=
  let n := ((sh.head?).map (fun p => p.2.length)).getD 0
  (List.range n).map (fun i => BitVec.ofNat 8 (sh.foldl (fun a p =>
    let l := sh.foldl (fun c q => if q.1 = p.1 then c else gfMul c (gfMul q.1 (gfInv (q.1 ^^^ p.1)))) 1
    a ^^^ gfMul (byteAt p.2 i) l) 0))

end Sys2Proof.Machine
end

