-- ==== Sys2Proof/Machine/Ec.lean ====
section
/-!
DEFINITION. Ec.lean: the curves P-256, P-384 and P-521 of FIPS 186-5 with ECDSA and ECDH, and RSA under PKCS #1 v2.2, as R189,
R198, R199, R206, R213 and R215 use them. The parameters are the standard's.
-/
namespace Sys2Proof.Machine

/-! ## Modular arithmetic -/

/-- The number of bits of a number. -/
def bitLen (n : Nat) : Nat := if n = 0 then 0 else Nat.log2 n + 1

/-- b^e mod m over the low n bits of e. -/
def powBits (b e m : Nat) : Nat → Nat
  | 0 => 1 % m
  | n + 1 => let h := powBits b (e / 2) m n
             if e % 2 = 1 then h * h % m * b % m else h * h % m

/-- b^e mod m. -/
def powMod (b e m : Nat) : Nat := powBits (b % m) e m (bitLen e)

/-- Extended Euclid by a bound on its steps: the inverse of a modulo n carried in (x, y). -/
def invGo : Nat → Nat → Nat → Int → Int → Int
  | 0, _, _, x, _ => x
  | k + 1, a, b, x, y => if b = 0 then x else invGo k b (a % b) y (x - (a / b : Nat) * y)

/-- The inverse of a modulo n where it exists. -/
def invMod (a n : Nat) : Nat := ((invGo (3 * (bitLen n)) (a % n) n 1 0) % (n : Int)).toNat

/-! ## Curves -/

/-- Parameters of a curve; a is −3. -/
structure Curve where
  bits : Nat
  len : Nat
  p : Nat
  n : Nat
  b : Nat
  gx : Nat
  gy : Nat
  deriving DecidableEq, Repr

/-- P-256. -/
def curve256 : Curve :=
  { bits := 256, len := 32
    p := 0xffffffff00000001000000000000000000000000ffffffffffffffffffffffff
    n := 0xffffffff00000000ffffffffffffffffbce6faada7179e84f3b9cac2fc632551
    b := 0x5ac635d8aa3a93e7b3ebbd55769886bc651d06b0cc53b0f63bce3c3e27d2604b
    gx := 0x6b17d1f2e12c4247f8bce6e563a440f277037d812deb33a0f4a13945d898c296
    gy := 0x4fe342e2fe1a7f9b8ee7eb4a7c0f9e162bce33576b315ececbb6406837bf51f5 }

/-- P-384. -/
def curve384 : Curve :=
  { bits := 384, len := 48
    p := 0xfffffffffffffffffffffffffffffffffffffffffffffffffffffffffffffffeffffffff0000000000000000ffffffff
    n := 0xffffffffffffffffffffffffffffffffffffffffffffffffc7634d81f4372ddf581a0db248b0a77aecec196accc52973
    b := 0xb3312fa7e23ee7e4988e056be3f82d19181d9c6efe8141120314088f5013875ac656398d8a2ed19d2a85c8edd3ec2aef
    gx := 0xaa87ca22be8b05378eb1c71ef320ad746e1d3b628ba79b9859f741e082542a385502f25dbf55296c3a545e3872760ab7
    gy := 0x3617de4a96262c6f5d9e98bf9292dc29f8f41dbd289a147ce9da3113b5f0b8c00a60b1ce1d7e819d7a431d7c90ea0e5f }

/-- P-521. -/
def curve521 : Curve :=
  { bits := 521, len := 66
    p := 2 ^ 521 - 1
    n := 0x1fffffffffffffffffffffffffffffffffffffffffffffffffffffffffffffffffa51868783bf2f966b7fcc0148f709a5d03bb5c9b8899c47aebb6fb71e91386409
    b := 0x51953eb9618e1c9a1f929a21a0b68540eea2da725b99b315f3b8b489918ef109e156193951ec7e937b1652c0bd3bb1bf073573df883d2c34f1ef451fd46b503f00
    gx := 0xc6858e06b70404e9cd9e3ecb662395b4429c648139053fb521f828af606b4d3dbaa14b5e77efe75928fe1dc127a2ffa8de3348b3c1856a429bf97e7e31c2e5bd66
    gy := 0x11839296a789a3bc0045c8a5fb42c7d1bd998f54449579b446817afbd17273e662c97ee72995ef42640c550b9013fad0761353c7086a272c24088be94769fd16650 }

/-- The curve of a number: 256, 384 or 521 bits. -/
def curveOf (c : Nat) : Curve := if c = 256 then curve256 else if c = 384 then curve384 else curve521

/-- An affine point; none is the identity. -/
abbrev Pt := Option (Nat × Nat)

/-- The generator. -/
def Curve.g (c : Curve) : Pt := some (c.gx, c.gy)

/-- Whether coordinates are below p and on the curve. -/
def onCurve (c : Curve) (x y : Nat) : Bool := x < c.p && y < c.p && y * y % c.p = (x * x * x + (c.p - 3) * x + c.b) % c.p

/-- Addition of points, complete in every case. -/
def ptAdd (c : Curve) : Pt → Pt → Pt
  | none, q => q
  | p, none => p
  | some (x1, y1), some (x2, y2) =>
    if x1 = x2 ∧ (y1 + y2) % c.p = 0 then none
    else
      let l := if x1 = x2 then (3 * x1 * x1 + (c.p - 3)) * invMod (2 * y1) c.p % c.p
               else (y2 + c.p - y1) * invMod (x2 + c.p - x1) c.p % c.p
      let x := (l * l + 2 * c.p - x1 - x2) % c.p
      some (x, (l * (x1 + c.p - x) + c.p - y1) % c.p)

/-- k·P over the low n bits of k. -/
def ptMulBits (c : Curve) (p : Pt) (k : Nat) : Nat → Pt
  | 0 => none
  | n + 1 => let h := ptMulBits c p (k / 2) n
             if k % 2 = 1 then ptAdd c (ptAdd c h h) p else ptAdd c h h

/-- k·P. -/
def ptMul (c : Curve) (k : Nat) (p : Pt) : Pt := ptMulBits c p k (bitLen k)

/-- The opposite point. -/
def ptNeg (c : Curve) : Pt → Pt
  | none => none
  | some (x, y) => some (x, (c.p - y) % c.p)

/-- A point uncompressed: 0x04, x, y (R199); the identity has no encoding. -/
def ptBytes (c : Curve) : Pt → Bytes
  | none => []
  | some (x, y) => [0x04] ++ beBytes x c.len ++ beBytes y c.len

/-- The square root that fits a parity, modulo p ≡ 3 mod 4. -/
def ptRoot (c : Curve) (x par : Nat) : Nat :=
  let y := powMod (x * x * x + (c.p - 3) * x + c.b) ((c.p + 1) / 4) c.p
  if y % 2 = par then y else (c.p - y) % c.p

/-- A point from its encoding: uncompressed, compressed, or bare x and y; none when it is not valid (R206). -/
def ptDecode (c : Curve) (b : Bytes) : Pt :=
  let xy := if b.length = 1 + 2 * c.len ∧ byteAt b 0 = 4 then (beNat (slice b 1 c.len), beNat (b.drop (1 + c.len)))
    else if b.length = 2 * c.len then (beNat (b.take c.len), beNat (b.drop c.len))
    else (beNat (b.drop 1), ptRoot c (beNat (b.drop 1)) (byteAt b 0 % 2))
  if (b.length = 1 + 2 * c.len ∧ byteAt b 0 = 4 ∨ b.length = 2 * c.len
      ∨ b.length = 1 + c.len ∧ (byteAt b 0 = 2 ∨ byteAt b 0 = 3)) ∧ onCurve c xy.1 xy.2 then some xy else none

/-! ## ECDSA and ECDH -/

/-- The public point of a private scalar, uncompressed. -/
def ecPublic (c : Nat) (d : Bytes) : Bytes := ptBytes (curveOf c) (ptMul (curveOf c) (beNat d) (curveOf c).g)

/-- The integer of a digest: its leftmost bits, as many as n has (R213). -/
def digestInt (c : Curve) (dig : Bytes) : Nat :=
  if bitLen c.n < 8 * dig.length then beNat dig / 2 ^ (8 * dig.length - bitLen c.n) else beNat dig

/-- Whether a signature r followed by s verifies under a public point; `ok` false also when r or s lies outside 1 to n − 1. -/
def ecdsaVerify (cn : Nat) (pub dig sig : Bytes) : Bool :=
  let c := curveOf cn
  let r := beNat (sig.take c.len)
  let s := beNat (sig.drop c.len)
  match ptDecode c pub with
  | none => false
  | some q =>
    if r = 0 ∨ c.n ≤ r ∨ s = 0 ∨ c.n ≤ s ∨ sig.length ≠ 2 * c.len then false
    else
      let w := invMod s c.n
      let u1 := digestInt c dig * w % c.n
      let u2 := r * w % c.n
      match ptAdd c (ptMul c u1 c.g) (ptMul c u2 (some q)) with
      | none => false
      | some (x, _) => x % c.n = r

/-- The signature that a private scalar gives over a digest with a nonce. -/
def ecdsaSign (cn : Nat) (d dig : Bytes) (k : Nat) : Bytes :=
  let c := curveOf cn
  let r := ((ptMul c k c.g).map (fun p => p.1 % c.n)).getD 0
  let s := invMod k c.n * ((digestInt c dig + r * beNat d) % c.n) % c.n
  beBytes r c.len ++ beBytes s c.len

/-- The check of a signature before release (R207): with w = s⁻¹, u1 = e·w and u2 = r·w, the point (u1 + u2·d)·G gives r again, and
neither r nor s is 0. -/
def signChecks (cn : Nat) (d dig sig : Bytes) : Bool :=
  let c := curveOf cn
  let r := beNat (sig.take c.len)
  let s := beNat (sig.drop c.len)
  let w := invMod s c.n
  let t := (digestInt c dig * w % c.n + r * w % c.n * beNat d) % c.n
  r != 0 && s != 0 && ((ptMul c t c.g).map (fun p => p.1 % c.n)) = some r

/-- Every public point, x followed by y, under which a signature over a digest may verify: r⁻¹(s·R − e·G) for each point R whose x-coordinate
is r or r + n. -/
def ecdsaRecover (cn : Nat) (dig sig : Bytes) : List Bytes :=
  let c := curveOf cn
  let r := beNat (sig.take c.len)
  let s := beNat (sig.drop c.len)
  let q := fun (x par : Nat) =>
    let y := ptRoot c x par
    if onCurve c x y then
      let w := invMod r c.n
      (ptBytes c (ptAdd c (ptMul c (s * w % c.n) (some (x, y))) (ptMul c ((c.n - digestInt c dig % c.n) * w % c.n) c.g))).drop 1
    else []
  ([q r 0, q r 1, q (r + c.n) 0, q (r + c.n) 1]).filter (fun b => !b.isEmpty)

/-- The x-coordinate of d·P as L bytes (R214); empty where the product is the identity. -/
def ecdhX (cn : Nat) (d pt : Bytes) : Bytes :=
  let c := curveOf cn
  match ptMul c (beNat d) (ptDecode c pt) with
  | none => []
  | some (x, _) => beBytes x c.len

/-- Whether a byte string encodes a valid point. -/
def ecPointValid (cn : Nat) (b : Bytes) : Bool := (ptDecode (curveOf cn) b).isSome

/-- The coordinates of an encoded point. -/
def ecPointXY (cn : Nat) (b : Bytes) : Nat × Nat := (ptDecode (curveOf cn) b).getD (0, 0)

/-! ## Hashes and RSA encodings -/

/-- The hash of R211: 1 SHA-256, 2 SHA-384, 3 SHA-512. -/
def hashFn (h : Nat) (b : Bytes) : Bytes :=
  match h with
  | 1 => beBytes (sha256 b).toNat 32
  | 2 => beBytes (sha384 b).toNat 48
  | _ => beBytes (sha512 b).toNat 64

/-- Its length in bytes. -/
def hashLen (h : Nat) : Nat := match h with | 1 => 32 | 2 => 48 | _ => 64

/-- MGF1 (PKCS #1 v2.2) over n blocks, cut to a length. -/
def mgf1 (h : Nat) (seed : Bytes) (len : Nat) : Bytes :=
  ((List.range (len / hashLen h + 1)).flatMap (fun i => hashFn h (seed ++ beBytes i 4))).take len

/-- Exclusive or of byte strings. -/
def xorBytes (a b : Bytes) : Bytes := List.zipWith (· ^^^ ·) a b

/-- The DigestInfo of a hash: its DER prefix, then the digest. -/
def digestInfo (h : Nat) (dig : Bytes) : Bytes :=
  [0x30, BitVec.ofNat 8 (0x11 + hashLen h), 0x30, 0x0d, 0x06, 0x09, 0x60, 0x86, 0x48, 0x01, 0x65, 0x03, 0x04, 0x02,
    BitVec.ofNat 8 h, 0x05, 0x00, 0x04, BitVec.ofNat 8 (hashLen h)] ++ dig

/-- EMSA-PKCS1-v1_5 of a digest in k bytes. -/
def emsaV15 (h : Nat) (dig : Bytes) (k : Nat) : Bytes :=
  let t := digestInfo h dig
  [0x00, 0x01] ++ List.replicate (k - t.length - 3) 0xFF ++ [0x00] ++ t

/-- EMSA-PSS of a digest in k bytes for a modulus of 8k bits, with a salt of the hash's length (R215). -/
def emsaPss (h : Nat) (dig salt : Bytes) (k : Nat) : Bytes :=
  let hh := hashFn h (zeros 8 ++ dig ++ salt)
  let db := zeros (k - 2 * hashLen h - 2) ++ [0x01] ++ salt
  let masked := xorBytes db (mgf1 h hh db.length)
  (masked.mapIdx (fun i x => if i = 0 then x &&& 0x7F else x)) ++ hh ++ [0xBC]

/-- Whether an encoded message is a PSS encoding of a digest with a salt of the hash's length. -/
def pssOk (h : Nat) (dig em : Bytes) : Bool :=
  let n := hashLen h
  let k := em.length
  let masked := em.take (k - n - 1)
  let hh := slice em (k - n - 1) n
  let db := (xorBytes masked (mgf1 h hh masked.length)).mapIdx (fun i x => if i = 0 then x &&& 0x7F else x)
  byteAt em (k - 1) = 0xBC && byteAt em 0 < 0x80 && allZero db 0 (k - 2 * n - 2) && byteAt db (k - 2 * n - 2) = 1
    && hashFn h (zeros 8 ++ dig ++ db.drop (k - 2 * n - 1)) = hh

/-- RSAES-OAEP encoding of data in k bytes with an empty label. -/
def oaepEncode (h : Nat) (data seed : Bytes) (k : Nat) : Bytes :=
  let n := hashLen h
  let db := hashFn h [] ++ zeros (k - data.length - 2 * n - 2) ++ [0x01] ++ data
  let mdb := xorBytes db (mgf1 h seed (k - n - 1))
  [0x00] ++ xorBytes seed (mgf1 h mdb n) ++ mdb

/-- The data an OAEP encoding holds, none when it is not valid. -/
def oaepDecode (h : Nat) (em : Bytes) : Option Bytes :=
  let n := hashLen h
  let mdb := em.drop (n + 1)
  let seed := xorBytes (slice em 1 n) (mgf1 h mdb n)
  let db := xorBytes mdb (mgf1 h seed mdb.length)
  let rest := (db.drop n).dropWhile (fun x => x = 0)
  if byteAt em 0 = 0 ∧ db.take n = hashFn h [] ∧ byteAt rest 0 = 1 ∧ 2 * n + 2 ≤ em.length then some (rest.drop 1) else none

end Sys2Proof.Machine
end

