-- ==== Sys2Proof/Machine/Events.lean ====
section
/-!
DEFINITION. Events.lean: the event recorder's records, merging and staging (R502–R505, R509) and the counters of R6, whose
saturation is itself an event.
-/
namespace Sys2Proof.Machine

/-- FLAGS of an event record (R502). -/
abbrev evCELL : Nat := 1
abbrev evFORCED : Nat := 2
abbrev evLOST : Nat := 4
abbrev evRESTORED : Nat := 8

/-- Mirror the recorder's counts into EVREC_STATUS. -/
def evRefresh (s : State) : State :=
  setF (setF s F.EVREC_STATUS_STAGED s.ev.staging.length) F.EVREC_STATUS_OPEN s.ev.openRecs.length

/-- Split the open records into those that stay and those a predicate closes, closing at most n (room in staging). -/
def splitClosing (p : EvRec → Bool) : Nat → List EvRec → List EvRec × List EvRec
  | _, [] => ([], [])
  | n, r :: t =>
    if p r && n != 0 then ((splitClosing p (n - 1) t).1, r :: (splitClosing p (n - 1) t).2)
    else (r :: (splitClosing p n t).1, (splitClosing p n t).2)

/-- Close the open records that a predicate picks: they join the staging queue, oldest first (R505). A record for which
staging (64 records, R507) has no room stays open (log entry 9). -/
def closeOpen (s : State) (p : EvRec → Bool) : State :=
  let q := splitClosing p (64 - s.ev.staging.length) s.ev.openRecs
  evRefresh { s with ev := { s.ev with openRecs := q.1, staging := s.ev.staging ++ q.2 } }

/-- Whether a record never merges (R504). -/
def neverMerges (code flags : Nat) : Bool := flags.testBit 0 || (0x200 ≤ code && code ≤ 0x20F)

/-- Room for one more record in staging; without it an occurrence that would open a record is dropped (R507, R509). -/
def evRoom (s : State) : Bool := s.ev.staging.length < 64

/-- Whether an occurrence merges into an open record: equal CODE, UNIT, PART and DETAIL, and REPEAT
not yet 65,535 (R504, R505). -/
def evMatches (code unit part detail : Nat) (r : EvRec) : Bool :=
  r.code = code && r.unit = unit && r.part = part && r.detail = detail && r.rep < 65535

/-- The record an occurrence opens. -/
def newRec (s : State) (code flags unit part detail rtcV : Nat) : EvRec :=
  { code := code, flags := (flags ||| if s.ev.lostPending then evLOST else 0), unit := unit, part := part, rep := 1,
    optFirst := optime s, optLast := optime s, pcycle := pcycle s, detail := detail, rtc := rtcV }

/-- Put a new record in its place: a record that never merges, and every record with WINDOW 0, closes at once; otherwise
it opens, closing the oldest open record when eight are open (R504, R505). -/
def openRec (s : State) (r : EvRec) : State :=
  if neverMerges r.code r.flags || getF s F.EVREC_MERGE_WINDOW = 0 then
    evRefresh { s with ev := { s.ev with staging := s.ev.staging ++ [r], lostPending := false } }
  else if s.ev.openRecs.length < 8 then
    evRefresh { s with ev := { s.ev with openRecs := s.ev.openRecs ++ [r], lostPending := false } }
  else
    evRefresh { s with ev := { s.ev with openRecs := s.ev.openRecs.drop 1 ++ [r], lostPending := false,
                                         staging := s.ev.staging ++ s.ev.openRecs.take 1 } }

/-- Count a dropped occurrence (R509); EVREC_DROPPED follows R6 up to its saturation, whose own event is dropped too. -/
def evDrop (s : State) : State :=
  let c := getF s F.EVREC_DROPPED_COUNT
  let s := setF s F.EVREC_STATUS_FROZEN_FULL 1
  let s := if c ≥ 2 ^ 31 - 1 then s else setF s F.EVREC_DROPPED_COUNT (c + 1)
  let s := if c + 1 = 2 ^ 31 - 1 then setF s F.EVREC_DROPPED_SAT 1 else s
  { s with ev := { s.ev with lostPending := true } }

/-- The EV_DROPPED record that follows the first record made once room returns (R509). -/
def evDroppedRec (s : State) : State :=
  let c := getF s F.EVREC_DROPPED_COUNT
  if c = 0 ∨ !evRoom s then s
  else
    let s := openRec s (newRec s 0x310 0 0 0 c (rtc s))
    setF (setF s F.EVREC_DROPPED_COUNT 0) F.EVREC_DROPPED_SAT 0

/-- One occurrence with the given real-time value (R504–R505, R509, R513). -/
def occurAt (s : State) (code flags unit part detail rtcV : Nat) : State :=
  let flags := flags ||| (if s.ev.restored && (flags.testBit 0 || code = 0x311) then evRESTORED else 0)
  if !neverMerges code flags && s.ev.openRecs.any (evMatches code unit part detail) then
    let s := { s with ev := { s.ev with openRecs := s.ev.openRecs.map (fun r =>
      if evMatches code unit part detail r then { r with rep := r.rep + 1, optLast := optime s } else r) } }
    closeOpen s (fun r => r.rep ≥ 65535)
  else if !evRoom s then evDrop s
  else
    let lost := s.ev.lostPending
    let s := openRec s (newRec s code flags unit part detail rtcV)
    if lost then evDroppedRec s else s

/-- One occurrence now. -/
def occur (s : State) (code unit part detail : Nat) : State := occurAt s code 0 unit part detail (rtc s)

/-- One occurrence made through FCOLL_FORCE or TAMPER_FORCE. -/
def occurForced (s : State) (code unit part detail : Nat) : State := occurAt s code evFORCED unit part detail (rtc s)

/-! ## Counters (R6, R7) -/

/-- The block number of PARAMS (R76): the Gecko n, or 0x100 + k for the k-th Landau block of R40. -/
def paramsBlk (blk : Nat) : Nat :=
  if blk < 0x20 then blk else if blk < 0x30 then 0x100 + (blk - 0x20) else if blk < 0x38 then 0x109 + (blk - 0x30)
  else if blk < 0x50 then 0x111 + (blk - 0x40) else 0x121 + (blk - 0x50)

/-- Record COUNTER_SAT for the counter of a register (R6, R503). -/
def counterSat (s : State) (blk off : Nat) : State := occur s 0x301 0 0 (paramsBlk blk * 65536 + off)

/-- Add n to a counter that follows R6, with its SAT bit. -/
def bumpBy (s : State) (cnt sat : Field) (n : Nat) : State :=
  let c := getF s cnt
  let m := 2 ^ cnt.width - 1
  if n = 0 ∨ c = m then s
  else if c + n < m then setF s cnt (c + n)
  else counterSat (setF (setF s cnt m) sat 1) cnt.blk cnt.off

/-- Add 1 to a counter that follows R6. -/
def bump (s : State) (cnt sat : Field) : State := bumpBy s cnt sat 1

/-- Add 1 to a counter that follows R6 but has no SAT bit. -/
def bumpNoSat (s : State) (cnt : Field) : State :=
  let c := getF s cnt
  let m := 2 ^ cnt.width - 1
  if c = m then s
  else if c + 1 < m then setF s cnt (c + 1)
  else counterSat (setF s cnt m) cnt.blk cnt.off

/-- Clear a counter and its SAT bit (R7). -/
def clearCounter (s : State) (cnt sat : Field) : State := setF (setF s cnt 0) sat 0

end Sys2Proof.Machine
end

