-- ==== Sys2Proof/Machine/Fuse.lean ====
section
/-!
DEFINITION. Fuse.lean: fuse load, the fuse shadow and its registers, and fuse programming (R46, R62, R66, R70, R71).
-/
namespace Sys2Proof.Machine

/-- A read of the fuses: the array, with the bits a read misreads (R46). -/
def readFuses (a e : FuseBits) : FuseBits :=
  { life := a.life ^^^ e.life, arb := (a.arb.zip e.arb).map (fun p => p.1 ^^^ p.2), evidence := a.evidence ^^^ e.evidence,
    vendorHash := a.vendorHash ^^^ e.vendorHash, owner0 := a.owner0 ^^^ e.owner0, owner1 := a.owner1 ^^^ e.owner1,
    srcdis := a.srcdis ^^^ e.srcdis, debugOff := a.debugOff != e.debugOff, part := a.part != e.part, stepping := a.stepping ^^^ e.stepping,
    trim := a.trim ^^^ e.trim, repair := a.repair ^^^ e.repair, spares := a.spares ^^^ e.spares }

/-- The read of a field that has more bits programmed (R46); of two with equally many the first read (log entry 75). -/
def moreBits {w : Nat} (a b : BitVec w) : BitVec w := if popBits a.toNat w < popBits b.toNat w then b else a

/-- What both reads of FUSE_SRCDIS show: the read with fewer bits programmed, where one read's bits are among the other's; a source counts as
disabled only when both reads show it (R46, log entry 75). -/
def bothShow {w : Nat} (a b : BitVec w) : BitVec w := a &&& b

/-- Each bit takes the value two of three reads agree on (R46). -/
def majority {w : Nat} (a b c : BitVec w) : BitVec w := (a &&& b) ||| (a &&& c) ||| (b &&& c)

/-- A lifecycle bit pair of the read that has more bits of that pair programmed (R46). -/
def settlePair (a b : BitVec 14) (i : Nat) : BitVec 14 :=
  let m : BitVec 14 := 3#14 <<< (2 * i)
  moreBits (a &&& m) (b &&& m)

/-- Each lifecycle bit pair settled on its own (R46). -/
def settleLife (a b : BitVec 14) : BitVec 14 :=
  (List.range 7).foldl (fun w i => w ||| settlePair a b i) 0

/-- The boolean two of three reads agree on. -/
def majorityB (a b c : Bool) : Bool := (a && b) || (a && c) || (b && c)

/-- The fuse shadow that two reads, and a third where they differ, settle (R46). -/
def settleFuses (a b c : FuseBits) : FuseBits :=
  if a = b then a
  else
    { life := settleLife a.life b.life
      arb := (a.arb.zip b.arb).map (fun p => moreBits p.1 p.2)
      evidence := moreBits a.evidence b.evidence
      vendorHash := majority a.vendorHash b.vendorHash c.vendorHash
      owner0 := majority a.owner0 b.owner0 c.owner0
      owner1 := majority a.owner1 b.owner1 c.owner1
      srcdis := bothShow a.srcdis b.srcdis
      debugOff := a.debugOff || b.debugOff
      part := majorityB a.part b.part c.part
      stepping := majority a.stepping b.stepping c.stepping
      trim := majority a.trim b.trim c.trim
      repair := majority a.repair b.repair c.repair
      spares := majority a.spares b.spares c.spares }

/-- Word n of a little-endian array of bits. -/
def arrWord (v n : Nat) : Nat := v / 2 ^ (32 * n) % 2 ^ 32

/-- Word n of a 48-byte hash, first byte in bits [7:0] of word 0 (R9). -/
def hashWord (h : Hash) (n : Nat) : Nat := leAt (hashBytes h) (4 * n) 4

/-- Fill the words of an array of registers. -/
def fillWords (s : State) (f : Nat → Field) (n : Nat) (w : Nat → Nat) : State :=
  (List.range n).foldl (fun t i => setF t (f i) (w i)) s

/-- The bit of a 384-bit value that index i of a fuse array names: byte i / 8 of the byte string, bit i mod 8. -/
def hashBit (i : Nat) : Nat := (47 - i / 8) * 8 + i % 8

/-- The number of evidence bits programmed. -/
def evidenceCount (b : FuseBits) : Nat := popBits b.evidence.toNat 256

/-- DEBUG_STATUS.CLOSED, a fuse field of a block that can be switched off (R12, R580). -/
def loadDebugFuse (s : State) : State :=
  let b := s.fuse.shadow
  setB s F.DEBUG_STATUS_CLOSED (b.debugOff || lifeState b.life = 2 || lifeState b.life = 4)

/-- Load every register field whose Reset reads fuse from the shadow (R12, R46, R62, R475, R580). -/
def loadFuseRegs (s : State) : State :=
  let b := s.fuse.shadow
  let s := setF s F.SYSCTL_ID_STEPPING b.stepping.toNat
  let s := setB s F.SYSCTL_ID_PART b.part
  let s := setF s F.SYSCTL_STATE_OWNER_PERIOD (ownerPeriod b.life)
  let s := setF s F.SYSCTL_STATE_LIFECYCLE (lifeState b.life)
  let s := setF s F.FUSE_LIFECYCLE_OWNED (b.life.toNat % 4)
  let s := setF s F.FUSE_LIFECYCLE_DEPLOYED (b.life.toNat / 4 % 4)
  let s := setF s F.FUSE_LIFECYCLE_RMA (b.life.toNat / 16 % 4)
  let s := setF s F.FUSE_LIFECYCLE_DECOM (b.life.toNat / 64 % 4)
  let s := setF s F.FUSE_LIFECYCLE_OWNED1 (b.life.toNat / 256 % 4)
  let s := setF s F.FUSE_LIFECYCLE_DEPLOYED1 (b.life.toNat / 1024 % 4)
  let s := setF s F.FUSE_LIFECYCLE_RMA1 (b.life.toNat / 4096 % 4)
  let s := setB s F.FUSE_OPTIONS_DEBUG_OFF b.debugOff
  let s := loadDebugFuse s
  let s := setB s F.FUSE_OPTIONS_PART b.part
  let s := setF s F.FUSE_SRCDIS_DISABLE b.srcdis.toNat
  let s := fillWords s F.FUSE_ARB_WORD 32 (fun n => arrWord ((b.arb[n / 4]?).getD 0).toNat (n % 4))
  let s := fillWords s F.FUSE_EVIDENCE_WORD 8 (arrWord b.evidence.toNat)
  let s := fillWords s F.FUSE_VENDOR_KEY_HASH_WORD 12 (hashWord b.vendorHash)
  let s := fillWords s F.FUSE_OWNER_KEY_HASH0_WORD 12 (hashWord b.owner0)
  let s := fillWords s F.FUSE_OWNER_KEY_HASH1_WORD 12 (hashWord b.owner1)
  let s := fillWords s F.FUSE_OWNER_KEY_HASH_WORD 12 (hashWord (ownerKeyHash s))
  let s := setF s F.TAMPER_EVID_PROGRAMMED (evidenceCount b)
  let s := fillWords s F.TAMPER_RESP_DISABLED 16
    (fun n => if n = 15 ∨ b.srcdis.getLsbD n then 1 else 0)
  s

/-- One fuse bit set in a set of fuse bits: target and index of FUSE_PROG_CTRL (R71). -/
def burn (b : FuseBits) (target index : Nat) : FuseBits :=
  match target with
  | 0 => { b with life := b.life ||| BitVec.ofNat 14 (2 ^ index) }
  | 1 => { b with arb := b.arb.mapIdx (fun j w => if j = index / 128 then w ||| BitVec.ofNat 128 (2 ^ (index % 128)) else w) }
  | 2 => { b with owner0 := b.owner0 ||| BitVec.ofNat 384 (2 ^ hashBit index) }
  | 3 => { b with srcdis := b.srcdis ||| BitVec.ofNat 16 (2 ^ index) }
  | 4 => if index = 0 then { b with part := true } else { b with debugOff := true }
  | 5 => { b with owner1 := b.owner1 ||| BitVec.ofNat 384 (2 ^ hashBit index) }
  | _ => b

/-- Whether a fuse bit is programmed. -/
def burned (b : FuseBits) (target index : Nat) : Bool :=
  match target with
  | 0 => b.life.getLsbD index
  | 1 => ((b.arb[index / 128]?).getD 0).getLsbD (index % 128)
  | 2 => b.owner0.getLsbD (hashBit index)
  | 3 => b.srcdis.getLsbD index
  | 4 => if index = 0 then b.part else b.debugOff
  | 5 => b.owner1.getLsbD (hashBit index)
  | _ => false

/-- Whether a target and index name a bit that may be requested at all; if not REASON is 1 (R71, R475). -/
def fuseNamed (b : FuseBits) (target index : Nat) : Bool :=
  match target with
  | 0 => index < 14
  | 1 => index < 1024 && (index % 128 = 0 || burned b 1 (index - 1))
  | 2 => index < 384
  | 3 => index = 7 || index = 8 || index = 14
  | 4 => index < 2
  | 5 => index < 384
  | _ => false

/-- Whether the fuse controller accepts a request under R66. -/
def fuseAllowed (s : State) (target index : Nat) : Bool :=
  let b := s.fuse.shadow
  let zall := isSet s F.TAMPER_STATUS_ZALL_DONE
  let rma0 := lifeState b.life = 3 && ownerPeriod b.life = 0
  match target with
  | 0 =>
    let pair := index / 2
    lifeReached b.life pair ||
      ((pair != 2 && pair != 3 && pair != 4 && pair != 6 || zall) && (pair != 4 || rma0))
  | 2 => lifeState b.life = 0
  | 5 => zall && rma0
  | _ => true

/-- The REASON of a request, 0 when its bit is programmed (R66, R71). -/
def fuseReason (s : State) (target index : Nat) : Nat :=
  if !fuseNamed s.fuse.shadow target index then 1
  else if !fuseAllowed s target index then 2
  else if burned s.fuse.shadow target index then 3
  else 0

/-- Program one fuse bit: the array, and the shadow with its registers (log entry 11). -/
def burnBit (s : State) (target index : Nat) : State :=
  loadFuseRegs { s with fuse := { s.fuse with arr := burn s.fuse.arr target index,
                                              shadow := burn s.fuse.shadow target index } }

/-- A whole request carried out at once, as Sealed firmware makes it within a larger step (R63, R81): the bit is programmed
when no refusal applies; answers whether the bit reads programmed afterwards. -/
def requestBurn (s : State) (target index : Nat) : State × Bool :=
  match fuseReason s target index with
  | 0 => (burnBit s target index, true)
  | r => (s, r = 3)

/-- FUSE_PROGRAM: a write of FUSE_PROG_CTRL with KEY 0xC3; while BUSY it is refused with REASON 4 (R71). -/
def execFuseProgram (v : W32) (s : State) : Res :=
  let key := F.FUSE_PROG_CTRL_KEY.ofWord v.toNat
  whenGecko s
    (if key != 0xC3 then s
     else if isSet s F.FUSE_STATUS_BUSY then
       setF (setF s F.FUSE_PROG_RESULT_REFUSED 1) F.FUSE_PROG_RESULT_REASON 4
     else
       setF { s with fuse := { s.fuse with prog := some (F.FUSE_PROG_CTRL_TARGET.ofWord v.toNat,
                                                         F.FUSE_PROG_CTRL_INDEX.ofWord v.toNat) } }
         F.FUSE_STATUS_BUSY 1)

/-- FUSE_PROGRAM_DONE: the request ends: DONE, or REFUSED with its REASON (R66, R71). The result is that of the request that ran; a REFUSED with
REASON 4 of one written meanwhile goes (log entry 76). -/
def execFuseProgramDone (s : State) : Res :=
  match s.fuse.prog with
  | none => .next s
  | some (t, i) =>
    let r := fuseReason s t i
    let s := if r = 0 then burnBit s t i else s
    let s := setF { s with fuse := { s.fuse with prog := none } } F.FUSE_STATUS_BUSY 0
    .next (setF (setB (setB s F.FUSE_PROG_RESULT_DONE (r = 0)) F.FUSE_PROG_RESULT_REFUSED (r != 0))
      F.FUSE_PROG_RESULT_REASON r)

end Sys2Proof.Machine
end

