-- ==== Sys2Proof/Machine/Image.lean ====
section
/-!
DEFINITION. Image.lean: the Kygus image: its layout (R74–R77), its acceptance (R79–R81), the slot selector (R82–R85) and the
route index (R88–R90).
-/
namespace Sys2Proof.Machine

/-- The curve numbers the crypto functions of Config take. -/
abbrev P256 : Nat := 256
abbrev P384 : Nat := 384

/-! ## Layout -/

/-- IMAGE_LENGTH of the header (R74). -/
def imgLength (b : Bytes) : Nat := leAt b 8 4

/-- DIR_COUNT of the header (R74). -/
def imgDirCount (b : Bytes) : Nat := leAt b 6 2

/-- A directory entry: TYPE, SVER, OFFSET, LENGTH (R75). -/
structure DirEntry where
  typ : Nat
  sver : Nat
  off : Nat
  len : Nat
  zero : Bool
  deriving DecidableEq, Repr

/-- The i-th directory entry. -/
def dirEntry (b : Bytes) (i : Nat) : DirEntry :=
  let o := 0x80 + 16 * i
  { typ := leAt b o 2, sver := leAt b (o + 2) 2, off := leAt b (o + 4) 4, len := leAt b (o + 8) 4,
    zero := allZero b (o + 12) 4 }

/-- The directory. -/
def imgDir (b : Bytes) : List DirEntry := (List.range (imgDirCount b)).map (dirEntry b)

/-- The bytes of a section, none where the directory does not list it (R75, R76). -/
def imgSection (b : Bytes) (typ : Nat) : Option Bytes :=
  ((imgDir b).find? (fun e => e.typ = typ)).map (fun e => slice b e.off e.len)

/-- The bytes of a section, empty where it is absent. -/
def sectionOr (b : Bytes) (typ : Nat) : Bytes := (imgSection b typ).getD []

/-- The signature block (R77): VENDOR_PUB, VENDOR_SIG, OWNER_PUB, OWNER_SIG. -/
def vendorPub (b : Bytes) : Bytes := sliceZ b (imgLength b) 96
def vendorSig (b : Bytes) : Bytes := sliceZ b (imgLength b + 0x60) 96
def ownerPub (b : Bytes) : Bytes := sliceZ b (imgLength b + 0xC0) 96
def ownerSig (b : Bytes) : Bytes := sliceZ b (imgLength b + 0x120) 96

/-- The image hash (R78): SHA-384 of bytes 0 to IMAGE_LENGTH − 1 followed by VENDOR_SIG. -/
def imgHash (b : Bytes) : Hash := sha384 (b.take (imgLength b) ++ vendorSig b)

/-- The fields of the header (R74). -/
def imgBuild (b : Bytes) : Nat := leAt b 0xC 4
def imgSecVersion (b : Bytes) : Nat := byteAt b 0x10
def imgParts (b : Bytes) : Nat := byteAt b 0x11
def imgStartMode (b : Bytes) : Nat := byteAt b 0x14
def imgModes (b : Bytes) : Nat := byteAt b 0x15
def imgWarden (b : Bytes) : Nat := byteAt b 0x16
def imgFactory (b : Bytes) : Bool := byteAt b 0x17 % 2 = 1
/-- RT_SEC_VERSION of the ROUTES section (R88). -/
def imgRouteVersion (b : Bytes) : Nat := byteAt (sectionOr b 5) 4

/-- Whether two sections overlap. -/
def overlaps (x y : DirEntry) : Bool := x.off < y.off + y.len && y.off < x.off + x.len

/-- Whether every 4-byte ALLOC word has a zero RETIRED field: bits 26:18 of a cluster's, 14:10 of a dispatch group's (R76, R92). -/
def allocForm (b : Bytes) : Bool :=
  b.length = 112 && (List.range 28).all (fun k => let w := leAt b (4 * k) 4
    if k < 24 then w / 2 ^ 18 % 2 ^ 9 = 0 else w / 2 ^ 10 % 2 ^ 5 = 0)

/-- Whether a section has whole entries whose reserved bytes are zero: ALLOC, FABRIC and PARAMS (R76). -/
def sectForm (e : DirEntry) (b : Bytes) : Bool :=
  match e.typ with
  | 1 => allocForm b
  | 3 => b.length % 8 = 0 && (List.range (b.length / 8)).all (fun i => allZero b (8 * i + 6) 2)
  | 12 => b.length % 12 = 0
  | _ => true

/-- The checks on lengths, directory, reserved fields and section presence (R74–R77), verdict 0x02. -/
def imgFormed (b : Bytes) : Bool :=
  let n := imgDirCount b
  let len := imgLength b
  let d := imgDir b
  (n = 11 || n = 12) && len % 16 = 0 && len ≤ 0x300000 && len + 512 ≤ b.length && imgSecVersion b ≤ 128
    && imgParts b < 4 && imgStartMode b ≤ 3 && imgModes b < 16 && imgWarden b ≤ 1 && byteAt b 0x17 < 2
    && allZero b 0x18 8 && allZero b 0x60 32 && (!imgFactory b || allZero b 0x20 48)
    && d.all (fun e => e.sver = 1 && e.off % 16 = 0 && 0x80 + 16 * n ≤ e.off && e.off + e.len ≤ len && e.zero
        && 1 ≤ e.typ && e.typ ≤ 12)
    && (d.map (fun e => e.off + e.len)).foldl max 0 = len && d.all (fun e => sectForm e (slice b e.off e.len))
    && d.Pairwise (fun x y => x.typ ≠ y.typ ∧ overlaps x y = false)
    && (List.range 11).all (fun i => d.any (fun e => e.typ = i + 1))
    && allZero b (len + 0x180) 128

/-- Whether the owner signature is allowed in the lifecycle state (R80). -/
def ownerAllowed (s : State) (b : Bytes) : Bool :=
  let h := sha384 (ownerPub b)
  match life s with
  | 0 => imgFactory b && h = s.fuse.shadow.vendorHash
  | 3 => imgFactory b && h = s.fuse.shadow.vendorHash
  | 1 => !imgFactory b && h = ownerKeyHash s && hashBytes h = slice b 0x20 48
  | 2 => !imgFactory b && h = ownerKeyHash s && hashBytes h = slice b 0x20 48
  | _ => false

/-- The number of programmed bits of an anti-rollback counter (R81). -/
def arbCount (s : State) (n : Nat) : Nat := popBits ((s.fuse.shadow.arb[n]?).getD 0).toNat 128

/-- The verdict on a slot: the first check of R79 that fails, 0x00 when all pass (0x0A arises later). -/
def imgVerdict (s : State) (b : Bytes) : Nat :=
  if slice b 0 4 ≠ [0x4B, 0x59, 0x47, 0x53] ∨ leAt b 4 2 ≠ 1 then 0x01
  else if !imgFormed b then 0x02
  else if !(imgParts b).testBit (getF s F.SYSCTL_ID_PART)
      ∨ getF s F.SYSCTL_ID_STEPPING < byteAt b 0x12 ∨ byteAt b 0x13 < getF s F.SYSCTL_ID_STEPPING then 0x03
  else if sha384 (vendorPub b) ≠ s.fuse.shadow.vendorHash then 0x04
  else if !ecdsaVerify P384 (vendorPub b) (hashBytes (sha384 (sectionOr b 5))) (vendorSig b) then 0x05
  else if !ownerAllowed s b then 0x06
  else if !ecdsaVerify P384 (ownerPub b) (hashBytes (imgHash b)) (ownerSig b) then 0x07
  else if imgSecVersion b < arbCount s 1 ∨ imgRouteVersion b < arbCount s 2 then 0x08
  else if imgModes b = 0 ∨ !(imgModes b).testBit (imgStartMode b) then 0x09
  else 0x00

/-! ## Slot selection -/

/-- What a selector holds (R82). -/
structure Selector where
  seq : Nat
  active : Nat
  pending : Nat
  tries : Nat
  failed : Nat
  deriving DecidableEq, Repr

/-- A selector copy that is valid: MAGIC and CRC (R82). -/
def selDecode (b : Bytes) : Option Selector :=
  if slice b 0 4 = [0x4B, 0x59, 0x53, 0x4C] ∧ (crc32 (slice b 0 28)).toNat = leAt b 28 4 ∧ b.length = 32 then
    some { seq := leAt b 4 4, active := byteAt b 8, pending := byteAt b 9, tries := byteAt b 10, failed := byteAt b 11 }
  else none

/-- The bytes of a selector copy (R82). -/
def selEncode (x : Selector) : Bytes :=
  let b : Bytes := [0x4B, 0x59, 0x53, 0x4C] ++ leBytes x.seq 4
    ++ [BitVec.ofNat 8 x.active, BitVec.ofNat 8 x.pending, BitVec.ofNat 8 x.tries, BitVec.ofNat 8 x.failed] ++ zeros 16
  b ++ leBytes (crc32 b).toNat 4

/-- The governing copy: its number and contents; copy 0 where both are valid with equal SEQ (log entry 86); without a valid copy the values
R82 gives. -/
def governing (s : State) : Nat × Selector :=
  match selDecode s.cfg.sel0, selDecode s.cfg.sel1 with
  | some a, some b => if a.seq < b.seq then (1, b) else (0, a)
  | some a, none => (0, a)
  | none, some b => (1, b)
  | none, none => (1, { seq := 0, active := 1, pending := 0, tries := 3, failed := 0 })

/-- Update the selector: write the copy that does not govern, SEQ one above, modulo 2^32 (R83; log entry 86). -/
def writeSelector (s : State) (x : Selector) : State :=
  let (g, old) := governing s
  let b := selEncode { x with seq := (old.seq + 1) % 2 ^ 32 }
  if g = 0 then { s with cfg := { s.cfg with sel1 := b } } else { s with cfg := { s.cfg with sel0 := b } }

/-- The bytes of a Kygus slot: 1 = A, 2 = B. -/
def slotBytes (s : State) (n : Nat) : Bytes := if n = 1 then s.cfg.slotA else s.cfg.slotB

/-- The other slot. -/
def otherSlot (n : Nat) : Nat := if n = 1 then 2 else 1

/-- Whether a selector marks a slot failed (R82). -/
def slotFailed (x : Selector) (n : Nat) : Bool := x.failed.testBit (n - 1)

/-- Record the verdict of a slot. -/
def noteVerdict (s : State) (n v : Nat) : State :=
  if n = 1 then { s with struct := { s.struct with verdictA := v } }
  else { s with struct := { s.struct with verdictB := v } }

/-- Try a slot: its verdict is noted; 0 is acceptance. -/
def trySlot (s : State) (n : Nat) : State × Bool :=
  let v := imgVerdict s (slotBytes s n)
  (noteVerdict { s with struct := { s.struct with lastTried := n } } n v, v = 0)

/-- Use a slot's image. -/
def useSlot (s : State) (n : Nat) : State :=
  let b := slotBytes s n
  setF { s with image := some { slot := n, bytes := b, hash := imgHash b } } F.SYSCTL_STATE_IMAGE_SLOT n

/-- The choice of slot at step 1 of the host leg (R84). -/
def chooseSlot (s : State) : State :=
  let x := (governing s).2
  let onTrial := x.pending != 0 && !slotFailed x x.pending && getF s F.SYSCTL_BOOTATT_COUNT ≤ x.tries
  let s' := if !onTrial && x.pending != 0 then
      writeSelector s { x with failed := setBitN x.failed (x.pending - 1), pending := 0 } else s
  let x' := (governing s').2
  let first := if onTrial then x.pending else x.active
  let (s1, ok1) := trySlot s' first
  if ok1 then useSlot s1 first
  else if slotFailed x' (otherSlot first) then s1
  else
    let (s2, ok2) := trySlot s1 (otherSlot first)
    if ok2 then useSlot s2 (otherSlot first) else s2

/-- The selector update after the Open release (R85). -/
def selectorRelease (s : State) : State :=
  let x := (governing s).2
  let n := getF s F.SYSCTL_STATE_IMAGE_SLOT
  writeSelector s { x with active := n, pending := 0, failed := clrBitN x.failed (n - 1) }

/-- The slot fallback on verdict 0x0A (R86): mark the slot in use failed, clear PENDING if it named the slot; `none` where
the other slot is marked failed already. -/
def slotFallback (s : State) : Option State :=
  let x := (governing s).2
  let n := getF s F.SYSCTL_STATE_IMAGE_SLOT
  if slotFailed x (otherSlot n) then none
  else some (writeSelector s { x with failed := setBitN x.failed (n - 1), pending := if x.pending = n then 0 else x.pending })

/-! ## Routes -/

/-- An index entry of the ROUTES section (R89). -/
structure RouteIdx where
  opcode : Nat
  mode : Nat
  variant : Nat
  cls : Nat
  stepOff : Nat
  stepCount : Nat
  tokens : Nat
  duration : Nat
  hold : Nat
  tileClass : Nat
  flags : Nat
  deriving DecidableEq, Repr

/-- The i-th index entry. -/
def routeIdx (r : Bytes) (i : Nat) : RouteIdx :=
  let o := 0x10 + 24 * i
  { opcode := byteAt r o, mode := byteAt r (o + 1), variant := byteAt r (o + 2), cls := byteAt r (o + 3),
    stepOff := leAt r (o + 4) 4, stepCount := leAt r (o + 8) 2, tokens := leAt r (o + 10) 2,
    duration := leAt r (o + 12) 4, hold := leAt r (o + 16) 2, tileClass := byteAt r (o + 18), flags := byteAt r (o + 19) }

/-- ENTRY_COUNT of the ROUTES section (R88). -/
def routeCount (r : Bytes) : Nat := leAt r 6 2

/-- All index entries. -/
def routeIndex (r : Bytes) : List RouteIdx := (List.range (routeCount r)).map (routeIdx r)

/-- The step area's offset: after the index (R88). -/
def stepArea (r : Bytes) : Nat := 0x10 + 24 * routeCount r

/-- A step word (R90). -/
structure StepWord where
  kind : Nat
  op : Nat
  a : Nat
  b : Nat
  c : Nat
  scale : Nat
  time : Nat
  deriving DecidableEq, Repr

/-- The fields of a step word (R90). -/
def stepOf (w : Nat) : StepWord :=
  { kind := w / 2 ^ 60 % 16, op := w / 2 ^ 52 % 256, a := w / 2 ^ 40 % 4096, b := w / 2 ^ 28 % 4096,
    c := w / 2 ^ 16 % 4096, scale := w / 2 ^ 15 % 2, time := w % 2 ^ 15 }

/-- The steps of an index entry. -/
def routeSteps (r : Bytes) (e : RouteIdx) : List StepWord :=
  (List.range e.stepCount).map (fun i => stepOf (leAt r (stepArea r + e.stepOff + 8 * i) 8))

/-- The order of the index: opcode, mode, class, variant (R89). -/
def routeKey (e : RouteIdx) : Nat := ((e.opcode * 256 + e.mode) * 256 + e.cls) * 256 + e.variant

/-- The slot floor of an owner class (R88). -/
def slotFloor (r : Bytes) (owner : Nat) : Nat := byteAt r (leAt r 0xC 4 + owner)

end Sys2Proof.Machine
end

