-- ==== Sys2Proof/Machine/StructHw.lean ====
section
/-!
DEFINITION. StructHw.lean: STRUCT: loading and checking a structure, drains and amendments (R92, R97–R99).
-/
namespace Sys2Proof.Machine

/-- A violation: CODE, SECTION, INDEX of STRUCT_ERROR. -/
structure Violation where
  code : Nat
  sect : Nat
  index : Nat
  deriving DecidableEq, Repr

/-- The sections STRUCT is given, by type. -/
abbrev Sections := List (Nat × Bytes)

/-- The bytes of a section. -/
def sec (x : Sections) (typ : Nat) : Bytes := ((x.find? (fun e => e.1 = typ)).map (·.2)).getD []

/-- Words as bytes, little-endian. -/
def wordsToBytes (w : List W32) : Bytes := w.flatMap (fun x => leBytes x.toNat 4)

/-- The first index below n at which a check fails. -/
def firstBad (n : Nat) (bad : Nat → Bool) : Option Nat := (List.range n).find? bad

/-- A violation where some index fails. -/
def violAt (code sect : Nat) (n : Nat) (bad : Nat → Bool) : Option Violation :=
  (firstBad n bad).map (fun i => { code := code, sect := sect, index := i })

/-- A violation of a whole section. -/
def violIf (code sect : Nat) (bad : Bool) : Option Violation :=
  if bad then some { code := code, sect := sect, index := 0 } else none

/-- The first violation of a list of checks. -/
def firstViol (l : List (Option Violation)) : Option Violation := (l.find? (·.isSome)).getD none

/-! ## ALLOC -/

/-- Word k of ALLOC: clusters 0–15, cipher clusters 16–23, dispatch groups 24–27 (R76). -/
def allocWord (x : Sections) (k : Nat) : Nat := leAt (sec x 1) (4 * k) 4

/-- Width of a mask in ALLOC word k: nine tiles or five cores. -/
def maskW (k : Nat) : Nat := if k < 24 then 9 else 5

/-- The masks of an ALLOC word: active, spare, retired. -/
def activeMask (k w : Nat) : Nat := w % 2 ^ maskW k
def spareMask (k w : Nat) : Nat := w / 2 ^ maskW k % 2 ^ maskW k
def retiredMask (k w : Nat) : Nat := w / 2 ^ (2 * maskW k) % 2 ^ maskW k

/-- More than eight active tiles, four active cores, or one spare (code 0x10, R35). -/
def badLimit (x : Sections) (k : Nat) : Bool :=
  let w := allocWord x k
  popBits (activeMask k w) (maskW k) > (if k < 24 then 8 else 4) || popBits (spareMask k w) (maskW k) > 1

/-- A part both active and spare (code 0x11). -/
def badOverlap (x : Sections) (k : Nat) : Bool := activeMask k (allocWord x k) &&& spareMask k (allocWord x k) != 0

/-- A retired part active or spare (code 0x12). -/
def badRetired (x : Sections) (k : Nat) : Bool :=
  let w := allocWord x k
  retiredMask k w &&& (activeMask k w ||| spareMask k w) != 0

/-! ## DOMAINS and PCIE -/

/-- WORLD, PF_SERVES and CREATE_FREE of a key domain (R104). -/
def domWorld (x : Sections) (d : Nat) : Nat := byteAt (sec x 2) (4 * d) % 2
def domPfServes (x : Sections) (d : Nat) : Bool := (byteAt (sec x 2) (4 * d)).testBit 1
def domCreateFree (x : Sections) (d : Nat) : Bool := (byteAt (sec x 2) (4 * d)).testBit 2

/-- The fields of function n in PCIE (R103). -/
def fnQps (x : Sections) (n : Nat) : Nat := leAt (sec x 9) (0x10 + 16 * n) 2
def fnTags (x : Sections) (n : Nat) : Nat := leAt (sec x 9) (0x12 + 16 * n) 2
def fnVectors (x : Sections) (n : Nat) : Nat := leAt (sec x 9) (0x14 + 16 * n) 2
def fnDomain (x : Sections) (n : Nat) : Nat := leAt (sec x 9) (0x16 + 16 * n) 2
def fnWeight (x : Sections) (n : Nat) : Nat := byteAt (sec x 9) (0x18 + 16 * n)
def vfCount (x : Sections) : Nat := byteAt (sec x 9) 0

/-- Whether some function serves a key domain (R104). -/
def domServed (x : Sections) (d : Nat) : Bool :=
  domPfServes x d || (List.range (vfCount x)).any (fun i => fnDomain x (i + 1) = d)

/-- Whether a world owns an active dispatch core. -/
def worldHasCore (x : Sections) (w : Nat) : Bool :=
  (List.range 4).any (fun g =>
    let a := allocWord x (24 + g)
    (List.range 5).any (fun i => (activeMask 24 a).testBit i && (if (a / 2 ^ 16).testBit i then w = 1 else w = 0)))

/-- A key domain served by a world that owns no active dispatch core (code 0x13). -/
def badWorld (x : Sections) (d : Nat) : Bool := domServed x d && !worldHasCore x (domWorld x d)

/-- Function n out of the ranges of R103. -/
def badFunction (x : Sections) (n : Nat) : Bool :=
  if n ≤ vfCount x then
    fnQps x n = 0 || fnQps x n > 4096 || fnTags x n = 0 || fnTags x n > 16384 || fnVectors x n = 0
      || fnVectors x n > (if n = 0 then 2048 else 64) || fnDomain x n > 4095 || (n = 0 && fnDomain x 0 != 0)
      || fnWeight x n = 0 || fnWeight x n > 16 || !allZero (sec x 9) (0x19 + 16 * n) 7
  else !allZero (sec x 9) (0x10 + 16 * n) 16

/-- The sums of R103. -/
def badPcieSums (x : Sections) : Bool :=
  let sum := fun f : Nat → Nat => ((List.range 64).map f).foldl (· + ·) 0
  vfCount x > 63 || sum (fnQps x) > 4096 || sum (fnTags x) > 16384

/-! ## ROUTES -/

/-- Whether index entry i is out of order, a duplicate, or names a variant outside Fortress (code 0x20). -/
def badRouteOrder (r : Bytes) (i : Nat) : Bool :=
  let e := routeIdx r i
  (i != 0 && routeKey (routeIdx r (i - 1)) ≥ routeKey e) || (e.variant != 0 && e.mode != 3) || e.variant > 7

/-- Whether a Fortress variant differs in length from the one before it (code 0x21). -/
def badVariant (r : Bytes) (i : Nat) : Bool :=
  let e := routeIdx r i
  let p := routeIdx r (i - 1)
  i != 0 && e.mode = 3 && p.mode = 3 && e.opcode = p.opcode && e.cls = p.cls
    && (e.stepCount != p.stepCount || e.duration != p.duration)

/-- Which of A, B and C of a public-key step name an operand (R194, R195); none for an OP of no table. -/
def pkeOperands (kind op : Nat) : Option (Bool × Bool × Bool) :=
  if kind = 0 ∨ kind = 4 then
    match op with
    | 0x01 | 0x03 | 0x04 | 0x08 | 0x09 | 0x0A | 0x0B | 0x0E | 0x11 | 0x12 | 0x13 | 0x16 => some (true, true, true)
    | 0x02 | 0x05 | 0x0C | 0x0D | 0x14 | 0x15 | 0x17 => some (true, false, true)
    | 0x06 | 0x0F => some (true, false, false)
    | 0x07 => some (true, true, false)
    | 0x10 => some (false, false, true)
    | _ => none
  else if kind = 1 then
    match op with
    | 0x01 => some (true, false, true)
    | 0x02 | 0x03 => some (false, true, true)
    | 0x04 => some (false, false, true)
    | 0x05 | 0x06 => some (true, false, false)
    | _ => none
  else if kind = 2 then
    match op with
    | 0x01 => some (false, false, true)
    | 0x02 => some (true, false, false)
    | _ => none
  else some (false, false, false)

/-- The same for a cipher step (R229, R231). -/
def cipOperands (kind op : Nat) : Option (Bool × Bool × Bool) :=
  if kind = 0 ∨ kind = 4 then
    match op with
    | 0x01 | 0x04 | 0x0A | 0x0C | 0x13 => some (true, false, false)
    | 0x02 | 0x03 | 0x05 | 0x06 | 0x08 | 0x09 | 0x0E | 0x0F | 0x11 | 0x14 => some (true, false, true)
    | 0x07 => some (true, true, true)
    | 0x0B | 0x10 | 0x1F => some (false, false, false)
    | 0x0D => some (false, false, true)
    | 0x12 => some (true, true, false)
    | _ => none
  else if kind = 1 then
    match op with
    | 0x01 => some (true, true, false)
    | 0x02 => some (false, true, true)
    | 0x03 => some (true, false, false)
    | _ => none
  else if kind = 2 then
    match op with
    | 0x01 => some (true, false, false)
    | 0x02 => some (false, false, true)
    | _ => none
  else some (false, false, false)

/-- Entries of a tile's constant store and its ports, by tile class (R193, R228; log entries 22, 25). -/
def storeEntries (tileClass : Nat) : Nat := if tileClass = 1 then 24 else Config.cipConsts
def tilePorts (tileClass : Nat) : Nat := if tileClass = 1 then 5 else 6

/-- Whether an operand's index lies outside its space (R193, R228). -/
def outOfSpace (tileClass v : Nat) : Bool :=
  match v / 1024 with
  | 0 => v % 1024 ≥ 64
  | 1 => v % 1024 ≥ 16
  | 2 => v % 1024 ≥ storeEntries tileClass
  | _ => v % 1024 ≥ tilePorts tileClass

/-- Whether a field names one of the slots or registers 56 to 63. -/
def dummyPlace (v : Nat) : Bool := v / 64 = 0 && 56 ≤ v

/-- Whether a dummy operation writes elsewhere than slots or registers 56 to 63 (R194, R229; refused as an operand outside its tile, log entry
23): the destination is C, of REFRESH A, of CSEL C[5:0]. -/
def badDummy (tileClass : Nat) (w : StepWord) (cNamed : Bool) : Bool :=
  w.kind = 4 && (if w.op = (if tileClass = 1 then 0x07 else 0x12) then !dummyPlace (w.c % 64)
    else if w.op = (if tileClass = 1 then 0x0F else 0x13) then !dummyPlace w.a
    else cNamed && !dummyPlace w.c)

/-- Whether a step has an OP of no table, an operand outside its tile, or a CSEL whose C[11:10] is not 0 (R193, R195, R228, R231;
an unlisted tile operation is refused too, log entry 23). A route of tile class 3 has no tile steps. -/
def badOperand (tileClass : Nat) (w : StepWord) : Bool :=
  match (if tileClass = 1 then pkeOperands w.kind w.op else if tileClass = 2 then cipOperands w.kind w.op
         else if w.kind = 0 || w.kind = 4 then none else some (false, false, false)) with
  | none => true
  | some (a, b, c) =>
    (a && outOfSpace tileClass w.a) || (b && outOfSpace tileClass w.b) || (c && outOfSpace tileClass w.c) || badDummy tileClass w c
      || (tileClass = 1 && (w.kind = 0 || w.kind = 4) && w.op = 0x06 && (w.b = 0 || decide (256 < w.b)))
      || ((w.kind = 0 || w.kind = 4) && w.op = (if tileClass = 1 then 0x07 else 0x12) && w.c ≥ 1024)

/-- Whether a route has a reserved KIND, a step outside the step area, no END, an operand outside its tile, or two BLOCKS steps
(0x22; R195, R228, R230, R231). Other fields of an index entry have no code (log entry 87). -/
def badRouteRef (r : Bytes) (i : Nat) : Bool :=
  let e := routeIdx r i
  let st := routeSteps r e
  e.stepOff % 8 != 0 || e.stepOff + 8 * e.stepCount > leAt r 8 4 || e.stepCount = 0
    || st.any (fun w => (w.kind > 4 && w.kind != 15) || badOperand e.tileClass w)
    || ((st.getLast?).map (fun w => w.kind != 15)).getD true || (st.dropLast.any (fun w => w.kind = 15))
    || (e.tileClass = 2 && decide (1 < (st.filter (fun w => w.kind = 0 && w.op = 0x1F)).length))

/-- Whether an opcode has a route. -/
def hasRoute (r : Bytes) (op : Nat) : Bool := (routeIndex r).any (fun e => e.opcode = op)

/-! ## The registers a structure sets -/

/-- STRUCT_PKEMAP and the like from an ALLOC word. -/
def applyAllocWord (s : State) (k w : Nat) : State :=
  if k < 16 then
    setF (setF (setF (setF s (F.STRUCT_PKEMAP_WORLD k) (w / 2 ^ 31)) (F.STRUCT_PKEMAP_RETIRED k) (retiredMask k w))
      (F.STRUCT_PKEMAP_SPARE k) (spareMask k w)) (F.STRUCT_PKEMAP_ACTIVE k) (activeMask k w)
  else if k < 24 then
    let j := k - 16
    setF (setF (setF (setF s (F.STRUCT_CIPMAP_WORLD j) (w / 2 ^ 31)) (F.STRUCT_CIPMAP_RETIRED j) (retiredMask k w))
      (F.STRUCT_CIPMAP_SPARE j) (spareMask k w)) (F.STRUCT_CIPMAP_ACTIVE j) (activeMask k w)
  else
    let j := k - 24
    setF (setF (setF (setF s (F.STRUCT_DISPMAP_WORLD j) (w / 2 ^ 16)) (F.STRUCT_DISPMAP_RETIRED j) (retiredMask k w))
      (F.STRUCT_DISPMAP_SPARE j) (spareMask k w)) (F.STRUCT_DISPMAP_ACTIVE j) (activeMask k w)

/-- The active, spare and retired masks of a unit: class 1, 2 or 3. -/
def unitActive (s : State) (cls u : Nat) : Nat :=
  match cls with
  | 1 => getF s (F.STRUCT_PKEMAP_ACTIVE u)
  | 2 => getF s (F.STRUCT_CIPMAP_ACTIVE u)
  | 3 => getF s (F.STRUCT_DISPMAP_ACTIVE u)
  | _ => 0
def unitSpare (s : State) (cls u : Nat) : Nat :=
  match cls with
  | 1 => getF s (F.STRUCT_PKEMAP_SPARE u)
  | 2 => getF s (F.STRUCT_CIPMAP_SPARE u)
  | 3 => getF s (F.STRUCT_DISPMAP_SPARE u)
  | _ => 0
def unitRetired (s : State) (cls u : Nat) : Nat :=
  match cls with
  | 1 => getF s (F.STRUCT_PKEMAP_RETIRED u)
  | 2 => getF s (F.STRUCT_CIPMAP_RETIRED u)
  | 3 => getF s (F.STRUCT_DISPMAP_RETIRED u)
  | _ => 0
/-- The world of a unit; for a dispatch group bit i is core i's. -/
def unitWorld (s : State) (cls u : Nat) : Nat :=
  match cls with
  | 1 => getF s (F.STRUCT_PKEMAP_WORLD u)
  | 2 => getF s (F.STRUCT_CIPMAP_WORLD u)
  | 3 => getF s (F.STRUCT_DISPMAP_WORLD u)
  | _ => 0

/-- Set the masks of a unit. -/
def setUnit (s : State) (cls u act spare ret : Nat) : State :=
  match cls with
  | 1 => setF (setF (setF s (F.STRUCT_PKEMAP_ACTIVE u) act) (F.STRUCT_PKEMAP_SPARE u) spare) (F.STRUCT_PKEMAP_RETIRED u) ret
  | 2 => setF (setF (setF s (F.STRUCT_CIPMAP_ACTIVE u) act) (F.STRUCT_CIPMAP_SPARE u) spare) (F.STRUCT_CIPMAP_RETIRED u) ret
  | 3 => setF (setF (setF s (F.STRUCT_DISPMAP_ACTIVE u) act) (F.STRUCT_DISPMAP_SPARE u) spare) (F.STRUCT_DISPMAP_RETIRED u) ret
  | _ => s

/-- How many units and parts a class has (R35). -/
def classUnits (cls : Nat) : Nat := match cls with | 1 => 16 | 2 => 8 | 3 => 4 | _ => 0
def classParts (cls : Nat) : Nat := match cls with | 1 => 9 | 2 => 9 | 3 => 5 | _ => 0

/-- Whether a part is active and not drained, so that a route may start on it. -/
def partServes (s : State) (cls u i : Nat) : Bool :=
  (unitActive s cls u).testBit i && !s.struct.drained.any (fun p => p.cls = cls && p.unit = u && p.idx = i)

/-- Set STRUCT_ERROR (R92). -/
def structError (s : State) (v : Violation) : State :=
  setF (setF (setF s F.STRUCT_ERROR_CODE v.code) F.STRUCT_ERROR_SECTION v.sect) F.STRUCT_ERROR_INDEX v.index

/-- Clear STRUCT_ERROR. -/
def clearStructError (s : State) : State := structError s { code := 0, sect := 0, index := 0 }

/-- A command not allowed in the current STATE: code 0x01, nothing else changes (log entry 13). -/
def structSequence (s : State) : State := structError s { code := 1, sect := 0, index := 0 }

/-- The guard of every STRUCT_CTRL command: Gecko up, the drawbar up, and KEY 0x4B59. -/
def structKeyed (key : BitVec 16) (s t : State) : Res :=
  .next (if geckoUp s ∧ s.drawbar.up ∧ key = 0x4B59 then t else s)

/-- STRUCT_BEGIN: from EMPTY or FAILED to LOADING, with no section selected (R92; log entry 88). -/
def execStructBegin (key : BitVec 16) (s : State) : Res :=
  let st := getF s F.STRUCT_STATUS_STATE
  structKeyed key s
    (if st = 0 ∨ st = 4 then
      setF (clearStructError { s with struct := { s.struct with loading := [], sel := none, seqErr := false } })
        F.STRUCT_STATUS_STATE 1
    else structSequence s)

/-- STRUCT_ABANDON: from LOADING to EMPTY (R92). -/
def execStructAbandon (key : BitVec 16) (s : State) : Res :=
  structKeyed key s
    (if getF s F.STRUCT_STATUS_STATE = 1 then
      setF { s with struct := { s.struct with loading := [], sel := none, seqErr := false } } F.STRUCT_STATUS_STATE 0
    else structSequence s)

/-- STRUCT_SEL_WRITE: select the section being loaded; the data offset returns to 0 (R92). -/
def execStructSelWrite (v : W32) (s : State) : Res :=
  .next (if geckoUp s ∧ s.drawbar.up then
      let t := F.STRUCT_SEL_TYPE.ofWord v.toNat
      let s := setF s F.STRUCT_SEL_TYPE t
      if getF s F.STRUCT_STATUS_STATE = 1 then
        { s with struct := { s.struct with sel := some t, loading := s.struct.loading ++ [(t, [])] } }
      else s
    else s)

/-- Append a word to the section being loaded. -/
def appendWord : List (Nat × List W32) → W32 → List (Nat × List W32)
  | [], _ => []
  | [(t, w)], v => [(t, w ++ [v])]
  | a :: b :: l, v => a :: appendWord (b :: l) v

/-- STRUCT_DATA_WRITE: the next word of the selected section; ignored unless STATE is LOADING; with no section selected the
sequence is broken (R92, code 0x01). -/
def execStructDataWrite (v : W32) (s : State) : Res :=
  .next (if geckoUp s ∧ s.drawbar.up ∧ getF s F.STRUCT_STATUS_STATE = 1 then
      match s.struct.sel with
      | none => structSequence { s with struct := { s.struct with seqErr := true } }
      | some _ => { s with struct := { s.struct with loading := appendWord s.struct.loading v } }
    else s)

/-- STRUCT_COMMIT: from LOADING to CHECKING (R92). -/
def execStructCommit (key : BitVec 16) (s : State) : Res :=
  structKeyed key s
    (if getF s F.STRUCT_STATUS_STATE = 1 then setF (clearStructError s) F.STRUCT_STATUS_STATE 2 else structSequence s)

/-! ## Routes on parts -/

/-- Whether a tag's route runs. -/
def running (t : TagEntry) : Bool := t.commit = .started && t.done.isNone

/-- Whether a route takes a tile, in a context slot of a cipher tile; its second tile in slot 0 (R605). -/
def routeAt (r : RouteAt) (cls unit tile slot : Nat) : Bool :=
  (r.cls = cls && r.unit = unit && r.tile = tile && (cls != 2 || r.slot = slot))
    || (cls = 2 && slot = 0 && (r.also.map (fun a => decide (a.unit = unit ∧ a.tile = tile))).getD false)

/-- Whether a route runs on a tile, in a context slot of a cipher tile. -/
def routeOn (s : State) (cls unit tile slot : Nat) : Bool :=
  s.qm.tags.any (fun t => running t && ((t.route.map (fun r => routeAt r cls unit tile slot)).getD false))

/-- A tile holds nothing between routes: every tile and context slot on which no route runs is clear (R192, R225). -/
def settle (s : State) : State :=
  { s with
    pke := { s.pke with tiles := s.pke.tiles.filter (fun e => routeOn s 1 (e.1 / 16) (e.1 % 16) 0) }
    cip := { s.cip with ctx := s.cip.ctx.filter (fun e => routeOn s 2 (e.1 / 32) (e.1 / 2 % 16) (e.1 % 2)) } }

/-! ## Drains and amendments -/

/-- STRUCT_DRAIN: a write with GO starts the drain it names; while a drain or an amendment is in progress it is refused with 0x82, class 4 with
0x80 (R97–R99). -/
def execStructDrain (v : W32) (s : State) : Res :=
  let w := v.toNat
  let p : Part := { cls := F.STRUCT_DRAIN_CLASS.ofWord w, unit := F.STRUCT_DRAIN_UNIT.ofWord w,
                    idx := F.STRUCT_DRAIN_INDEX.ofWord w }
  .next (if geckoUp s ∧ landauUp s then
      if !w.testBit 31 then
        setF (setF (setF s F.STRUCT_DRAIN_CLASS p.cls) F.STRUCT_DRAIN_UNIT p.unit) F.STRUCT_DRAIN_INDEX p.idx
      else if s.struct.drain.isSome ∨ getF s F.STRUCT_STATUS_STATE = 5 then structError s { code := 0x82, sect := 0, index := 0 }
      else if p.cls = 0 ∨ p.cls > 3 then structError s { code := 0x80, sect := 0, index := 0 }
      else
        let s := setF (setF (setF s F.STRUCT_DRAIN_CLASS p.cls) F.STRUCT_DRAIN_UNIT p.unit) F.STRUCT_DRAIN_INDEX p.idx
        let s := setF (setF (setF s F.STRUCT_DRAIN_GO 1) F.STRUCT_DRAIN_DONE 0) F.STRUCT_DRAIN_CUT 0
        let s := if p.cls = 2 then setF s (F.CIPC_LOCK_HOLD p.unit p.idx) 1 else s
        let s := if p.cls = 3 then raiseDisp s 1 (2 ^ (p.unit * 5 + p.idx)) else s
        { s with struct := { s.struct with drain := some p, drained := p :: s.struct.drained } }
    else s)

/-- The tags whose routes run on a part. -/
def routesOn (s : State) (p : Part) : List TagEntry :=
  s.qm.tags.filter (fun t => t.commit = .started && t.done.isNone &&
    ((t.route.map (fun r => routeAt r p.cls p.unit p.idx 0 || routeAt r p.cls p.unit p.idx 1)).getD false
      || (p.cls = 3 && t.core = p.unit * 5 + p.idx)))

/-- The drain's end: the part runs no route, DONE is set (R97). -/
def drainDone (s : State) : State :=
  setF (setF { s with struct := { s.struct with drain := none } } F.STRUCT_DRAIN_DONE 1) F.STRUCT_DRAIN_GO 0

/-- Whether a part's self-test waits or runs. -/
def partTesting (s : State) (p : Part) : Bool :=
  match p.cls with
  | 1 => (getF s (F.PKEC_STATUS_TESTING p.unit)).testBit p.idx
  | 2 => (getF s (F.CIPC_STATUS_TESTING p.unit)).testBit p.idx
  | _ => false

/-- DRAIN_DONE: the last route on the drained part has ended, and a self-test of it (R97, R219). -/
def execDrainDone (s : State) : Res :=
  match s.struct.drain with
  | none => .next s
  | some p => .next (if (routesOn s p).isEmpty && !partTesting s p then drainDone s else s)

/-- Change the tag entry of a tag. -/
def updTag (s : State) (tag : Nat) (f : TagEntry → TagEntry) : State :=
  { s with qm := { s.qm with tags := s.qm.tags.map (fun t => if t.tag = tag then f t else t) } }

/-- A route with the part it leaves replaced by another: its own tile, or its second one. -/
def movedRoute (p : Part) (unit tile : Nat) (r : RouteAt) : RouteAt :=
  if r.cls = p.cls ∧ r.unit = p.unit ∧ r.tile = p.idx then { r with unit := unit, tile := tile, slot := 0, forced := false, integrity := false }
  else { r with also := r.also.map (fun a => { a with unit := unit, tile := tile }), forced := false, integrity := false }

/-- Restart a route from its first step on another part (R98): tag, window entry and commit are kept; the tile cut is cleared. -/
def restartRoute (s : State) (p : Part) (tag unit tile : Nat) : State :=
  settle (updTag s tag (fun t => { t with route := t.route.map (movedRoute p unit tile) }))

/-- Whether a unit and tile are another active part of a part's cluster, free to take its route. -/
def otherPart (s : State) (p : Part) (unit tile : Nat) : Bool :=
  unit = p.unit && tile != p.idx && partServes s p.cls unit tile && !routeOn s p.cls unit tile 0 && !routeOn s p.cls unit tile 1

/-- A command cut on a dispatch core and restarted on another active core of the group. -/
def restartCore (s : State) (tag core : Nat) : State := updTag s tag (fun t => { t with core := core })

/-- Whether a tag's route can be restarted on a part that a drain's timeout names. -/
def canRestart (s : State) (p : Part) (unit tile : Nat) : Bool :=
  if p.cls = 3 then unit = p.unit && tile != p.idx && partServes s 3 unit tile else otherPart s p unit tile

/-- DRAIN_TIMEOUT: after 1 ms a route still running on the drained part is cut and restarted from its first step on another
active part of the unit; CUT is set (R98). -/
def execDrainTimeout (tag unit tile : Nat) (s : State) : Res :=
  match s.struct.drain with
  | none => .next s
  | some p =>
    .next (if (routesOn s p).any (fun t => t.tag = tag && canRestart s p unit tile) then
        let s := setF (if p.cls = 3 then restartCore s tag (unit * 5 + tile) else restartRoute s p tag unit tile) F.STRUCT_DRAIN_CUT 1
        if (routesOn s p).isEmpty then drainDone s else s
      else s)

/-- The amendment STRUCT_AMEND names: part and spare. -/
def amendPart (s : State) : Part × Nat :=
  ({ cls := getF s F.STRUCT_AMEND_CLASS, unit := getF s F.STRUCT_AMEND_UNIT, idx := getF s F.STRUCT_AMEND_RETIRE },
    getF s F.STRUCT_AMEND_SPARE)

/-- The violation of an amendment (R92 codes 0x80 and 0x81). -/
def amendViolation (s : State) : Option Violation :=
  let (p, sp) := amendPart s
  let act := unitActive s p.cls p.unit
  let spare := unitSpare s p.cls p.unit
  if p.cls = 0 ∨ p.cls > 3 ∨ p.unit ≥ classUnits p.cls ∨ p.idx ≥ classParts p.cls
      ∨ !((act ||| spare).testBit p.idx) then some { code := 0x80, sect := 0, index := 0 }
  else if sp != 0xFF ∧ (sp ≥ classParts p.cls ∨ !spare.testBit sp ∨ sp = p.idx) then
    some { code := 0x81, sect := 0, index := 0 }
  else none

/-- The amendment applied: the part is retired, the spare becomes active; a spare dispatch core takes the world of the core
it replaces (R96, R97). -/
def applyAmend (s : State) : State :=
  let (p, sp) := amendPart s
  let act := clrBitN (unitActive s p.cls p.unit) p.idx
  let act' := if sp = 0xFF then act else setBitN act sp
  let spare := clrBitN (unitSpare s p.cls p.unit) p.idx
  let spare' := if sp = 0xFF then spare else clrBitN spare sp
  let s' := setUnit s p.cls p.unit act' spare' (setBitN (unitRetired s p.cls p.unit) p.idx)
  let s' := if p.cls = 2 then setF s' (F.CIPC_LOCK_HOLD p.unit p.idx) 0 else s'
  if p.cls = 3 ∧ sp != 0xFF then
    let w := unitWorld s 3 p.unit
    setF s' (F.STRUCT_DISPMAP_WORLD p.unit) (if w.testBit p.idx then setBitN w sp else clrBitN w sp)
  else s'

end Sys2Proof.Machine
end

