-- ==== Sys2Proof/Machine/Qm.lean ====
section
/-!
DEFINITION. Qm.lean: the shared operations of the queue manager: tags, duplicate windows, outcomes, completions, interrupts to
the host (R105–R141).
-/
namespace Sys2Proof.Machine

/-! ## Status codes (R133) -/
abbrev stOK : Nat := 0x00
abbrev stDUPLICATE : Nat := 0x01
abbrev stABORTED : Nat := 0x02
abbrev stTOO_LATE : Nat := 0x03
abbrev stBAD_OPCODE : Nat := 0x10
abbrev stBAD_FIELD : Nat := 0x11
abbrev stBAD_LENGTH : Nat := 0x12
abbrev stDMA_ERROR : Nat := 0x13
abbrev stNO_KEY : Nat := 0x20
abbrev stKEY_USAGE : Nat := 0x21
abbrev stUSE_EXHAUSTED : Nat := 0x22
abbrev stCOUNTER_EXHAUSTED : Nat := 0x23
abbrev stKEY_DOMAIN : Nat := 0x24
abbrev stPOINT_INVALID : Nat := 0x30
abbrev stSIGN_CHECK_FAILED : Nat := 0x31
abbrev stVERIFY_FAILED : Nat := 0x32
abbrev stQUORUM_REQUIRED : Nat := 0x40
abbrev stSAFE_STATE : Nat := 0x50
abbrev stRESOURCE : Nat := 0x51
abbrev stINTEGRITY : Nat := 0x60

/-! ## The submission entry (R114) -/
def seOpcode (e : Bytes) : Nat := byteAt e 0
def seFlags (e : Bytes) : Nat := byteAt e 1
def seFence (e : Bytes) : Bool := (seFlags e).testBit 0
def seUrgent (e : Bytes) : Bool := (seFlags e).testBit 1
def seNoIrq (e : Bytes) : Bool := (seFlags e).testBit 2
def seDomain (e : Bytes) : Nat := leAt e 2 2
def seReqId (e : Bytes) : Nat := leAt e 8 8
def seKeyA (e : Bytes) : Nat := leAt e 0x10 8
def seKeyB (e : Bytes) : Nat := leAt e 0x18 8
def seInAddr (e : Bytes) : Nat := leAt e 0x20 8
def seOutAddr (e : Bytes) : Nat := leAt e 0x28 8
def seInLen (e : Bytes) : Nat := leAt e 0x30 4
def seOutLen (e : Bytes) : Nat := leAt e 0x34 4
/-- n little-endian bytes of OPERANDS at an entry offset. -/
def seOp (e : Bytes) (off n : Nat) : Nat := leAt e off n

/-- The outcome of a command that gives only a status. -/
def outStatus (st : Nat) : Outcome := { status := st, detail := 0, result := 0, outBytes := 0, output := [] }

/-- BAD_FIELD or BAD_LENGTH with DETAIL the offset of the field (R115, R133). -/
def outBad (st detail : Nat) : Outcome := { (outStatus st) with detail := detail }

/-- OK with a RESULT. -/
def outResult (r : Nat) : Outcome := { (outStatus stOK) with result := r }

/-- OK with a RESULT and output bytes. -/
def outData (r : Nat) (o : Bytes) : Outcome := { (outStatus stOK) with result := r, outBytes := o.length, output := o }

/-- A buffer length above 16 MiB (R114, R121 check 6). -/
def overLong (e : Bytes) : Option Outcome :=
  if seInLen e > 2 ^ 24 then some (outBad stBAD_LENGTH 0x30)
  else if seOutLen e > 2 ^ 24 then some (outBad stBAD_LENGTH 0x34)
  else none

/-! ## Functions and pairs -/

/-- Whether the host reaches BAR0: the link is up and the Open world released (R53). -/
def hostReach (s : State) : Bool := s.power.dataLink && isSet s F.SYSCTL_RELEASE_OPEN

/-- Whether a function exists: the PF, or a VF of the image while VF Enable is set (R100, R103, R137). -/
def fnExists (s : State) (fn : Nat) : Bool := fn = 0 || (s.qm.vfEnable && fn ≤ vfCount s.struct.built)

/-- The queue pair of a function. -/
def findPair (s : State) (fn qid : Nat) : Option QueuePair := s.qm.pairs.find? (fun p => p.fn = fn && p.qid = qid)

/-- Change a queue pair. -/
def updPair (s : State) (fn qid : Nat) (f : QueuePair → QueuePair) : State :=
  { s with qm := { s.qm with pairs := s.qm.pairs.map (fun p => if p.fn = fn && p.qid = qid then f p else p) } }

/-- The value a word of an MSI-X table resets to: every vector masked, as the base specification has it (R136; log entry 48). -/
def msixReset (i : Nat) : Nat := if i % 4 = 3 then 1 else 0

/-- Write a word of a function's MSI-X table. -/
def putMsix (s : State) (fn i v : Nat) : State :=
  { s with qm := { s.qm with msix := mapSet s.qm.msix (fn * 8192 + i) v (msixReset i) } }

/-- Whether a vector can be sent: its mask is clear and the function is bus master. -/
def msixOpen (s : State) (fn vec : Nat) : Bool :=
  mapGet s.qm.msix (fn * 8192 + 4 * vec + 3) 1 = 0 && s.qm.busMaster.contains fn

/-- Signal an MSI-X vector of a function; one that cannot be sent sets its pending bit (R117). -/
def signal (s : State) (fn vec : Nat) : State :=
  if !s.power.dataLink || !fnExists s fn || getF s (F.DEVINFO_VECTORS_VECTORS fn) ≤ vec then s
  else if msixOpen s fn vec then { s with qm := { s.qm with irqs := s.qm.irqs ++ [(fn, vec)] } }
  else if s.qm.pba.contains (fn, vec) then s
  else { s with qm := { s.qm with pba := s.qm.pba ++ [(fn, vec)] } }

/-- Send the pending vectors of a function that can be sent now. -/
def flushPending (s : State) (fn : Nat) : State :=
  let go := s.qm.pba.filter (fun e => e.1 = fn && msixOpen s fn e.2)
  { s with qm := { s.qm with pba := s.qm.pba.filter (fun e => !go.contains e), irqs := s.qm.irqs ++ go } }

/-- Signal vector 0 of the PF and of every VF (R117). -/
def signalAll (s : State) : State :=
  ((List.range (vfCount s.struct.built + 1)).filter (fnExists s)).foldl (fun t n => signal t n 0) s

/-- The tags a function holds. -/
def fnTagsHeld (s : State) (fn : Nat) : Nat := (s.qm.tags.filter (fun t => t.fn = fn)).length

/-- Mirror the tag counts into TELE_INFLIGHT of a function and QMGR_STATUS. -/
def qmRefresh (s : State) (fn : Nat) : State :=
  let s := setF s (F.TELE_INFLIGHT_COUNT fn) (fnTagsHeld s fn)
  let s := setF s F.QMGR_STATUS_INFLIGHT s.qm.tags.length
  setB s F.QMGR_STATUS_IDLE s.qm.tags.isEmpty

/-- The tag-table entry of a tag. -/
def findTag (s : State) (tag : Nat) : Option TagEntry := s.qm.tags.find? (fun t => t.tag = tag)

/-- Take a tag off the table. -/
def freeTag (s : State) (t : TagEntry) : State :=
  qmRefresh { s with qm := { s.qm with tags := s.qm.tags.filter (fun x => x.tag != t.tag) }
                     rng := { s.rng with pr := s.rng.pr.filter (fun w => w.tag != t.tag) } } t.fn

/-! ## Opcodes (R121, R124, R131) -/

/-- Whether an opcode of the I/O ranges is assigned (R184, R210, R250, 08, 09, 10; 0xB0–0xBF are applets', R114). -/
def opAssigned (op : Nat) : Bool :=
  (0x10 ≤ op && op ≤ 0x19) || (0x1B ≤ op && op ≤ 0x27) || (0x30 ≤ op && op ≤ 0x35) || (0x38 ≤ op && op ≤ 0x3C)
    || (0x50 ≤ op && op ≤ 0x55) || (0x58 ≤ op && op ≤ 0x5B) || (0x60 ≤ op && op ≤ 0x64) || (0x70 ≤ op && op ≤ 0x74)
    || op = 0x80 || op = 0x81 || (0x88 ≤ op && op ≤ 0x8E) || (0xA0 ≤ op && op ≤ 0xAA) || (0xB0 ≤ op && op ≤ 0xBF)

/-- Local opcodes: the admin opcodes other than ABORT (R124). -/
def opLocal (op : Nat) : Bool := op < 6 && op != 2

/-- Effectful opcodes: ABORT, and those QMGR_EFFECT names (R124). -/
def opEffectful (s : State) (op : Nat) : Bool := op = 2 || (getF s (F.QMGR_EFFECT_EFFECTFUL (op / 32))).testBit (op % 32)

/-- Whether a member's role in a domain shuts an opcode out: PENDING and REPLICA members run no effectful opcode of ranges 0x10–0x7F but the
RESTORE opcodes (R326). -/
def roleShuts (s : State) (op d : Nat) : Bool :=
  0x10 ≤ op && op < 0x80 && opEffectful s op && !(0x20 ≤ op && op ≤ 0x22)
    && (((s.ks.domains.find? (fun e => e.1 = d)).map (fun e => decide (2 ≤ e.2.role))).getD false)

/-- Whether an opcode uses KEY_A, KEY_B, the input buffer and the output buffer (the tables of R184, R210, R250 and of
chapters 08 to 10). -/
def opUses (op : Nat) : Bool × Bool × Bool × Bool :=
  if op = 1 ∨ op = 5 then (false, false, false, true)
  else if op < 0x10 then (false, false, false, false)
  else if op = 0x10 then (true, false, false, true)
  else if op = 0x11 then (false, false, true, false)
  else if op = 0x12 ∨ op = 0x14 ∨ op = 0x17 then (true, false, false, true)
  else if op = 0x13 ∨ op = 0x15 ∨ op = 0x1B then (true, false, false, false)
  else if op = 0x16 then (true, false, true, false)
  else if op = 0x18 then (true, true, true, false)
  else if op = 0x19 then (true, true, false, true)
  else if op = 0x1D ∨ op = 0x1E ∨ op = 0x25 ∨ op = 0x27 then (false, false, false, true)
  else if op = 0x21 ∨ op = 0x26 then (false, false, true, false)
  else if op < 0x28 then (false, false, false, false)
  else if op = 0x30 ∨ op = 0x31 ∨ op = 0x38 ∨ op = 0x3A ∨ op = 0x3B then (true, false, true, true)
  else if op = 0x32 ∨ op = 0x33 ∨ op = 0x39 then (true, false, true, false)
  else if op = 0x34 then (false, false, true, false)
  else if op = 0x35 ∨ op = 0x3C then (true, true, true, false)
  else if op = 0x50 ∨ op = 0x51 ∨ op = 0x58 ∨ op = 0x59 then (true, true, true, true)
  else if op = 0x52 ∨ op = 0x5A ∨ op = 0x55 ∨ op = 0x63 ∨ op = 0x73 ∨ op = 0x64 ∨ op = 0x74 then (true, false, true, true)
  else if op = 0x53 ∨ op = 0x5B then (true, false, true, false)
  else if op = 0x54 then (false, false, true, true)
  else if op = 0x60 ∨ op = 0x61 ∨ op = 0x70 ∨ op = 0x71 then (true, true, false, true)
  else if op = 0x62 ∨ op = 0x72 then (true, true, false, false)
  else if op = 0x80 ∨ op = 0x81 ∨ op = 0x88 ∨ op = 0x89 ∨ op = 0x8B ∨ op = 0xA0 ∨ op = 0xA1 ∨ op = 0xA2 ∨ op = 0xA6 then
    (false, false, false, true)
  else if op = 0x8A ∨ op = 0xA3 ∨ op = 0xA4 ∨ op = 0xA7 ∨ op = 0xA8 then (false, false, true, true)
  else if op = 0x8C ∨ op = 0x8E ∨ op = 0xA5 ∨ op = 0xA9 ∨ op = 0xAA then (false, false, true, false)
  else if op = 0x8D then (false, false, false, false)
  else (true, true, true, true)

/-! ## The duplicate window (R125–R128) -/

/-- The window of a key domain. -/
def window (s : State) (d : Nat) : List WinEntry := mapGet s.qm.windows d []

/-- Put a window in place. -/
def setWindow (s : State) (d : Nat) (w : List WinEntry) : State :=
  { s with qm := { s.qm with windows := mapSet s.qm.windows d w [] } }

/-- The entry of a request ID. -/
def winFind (s : State) (d req : Nat) : Option WinEntry := (window s d).find? (fun e => e.reqId = req)

/-- The digest of a submission entry: bytes 0x00–0x07 and 0x10–0x7F under the construction's key (R125). The function is the
implementation's: an opaque MAC of those bytes. -/
def winDigest (s : State) (e : Bytes) : Nat :=
  (hmac384 (leBytes s.qm.digestKey 16) (sliceZ e 0 8 ++ sliceZ e 0x10 0x70)).toNat % 2 ^ 64

/-- Evict the oldest entry that is not PENDING (R127). -/
def evictOldest : List WinEntry → List WinEntry
  | [] => []
  | e :: t => if e.state = .pending then e :: evictOldest t else t

/-- Add an entry, evicting when the window holds 65,536 (R125, R127). -/
def winAdd (s : State) (d : Nat) (e : WinEntry) : State :=
  let w := window s d
  setWindow s d ((if w.length ≥ 65536 then evictOldest w else w) ++ [e])

/-- Remove the entry of a request ID. -/
def winRemove (s : State) (d req : Nat) : State := setWindow s d ((window s d).filter (fun e => e.reqId != req))

/-- Make an entry DONE with the outcome of an effectful command (R125). -/
def winDone (s : State) (d req : Nat) (o : Outcome) : State :=
  setWindow s d ((window s d).map (fun e =>
    if e.reqId = req then { e with state := .done, status := o.status, result := o.result, outBytes := o.outBytes } else e))

/-- Whether a tag entry owns the PENDING entry of its window: it is in the window, no duplicate waiting and no pure command run again (R125). -/
def inWindow (t : TagEntry) : Bool := !opLocal (seOpcode t.entry) && !t.dupWait && !t.rerun

/-! ## Outcomes -/

/-- End a command before commit with an outcome: FAILED; the window entry goes (R121, R122). -/
def failTag (s : State) (t : TagEntry) (o : Outcome) : State :=
  let s := updTag s t.tag (fun x => { x with commit := .failed, done := some o, dupWait := false, staged := none })
  if inWindow t then winRemove s (seDomain t.entry) (seReqId t.entry) else s

/-- A committed route cut with no effect completes SAFE_STATE and its window entry goes (R120, R135). -/
def cutSafe (s : State) (t : TagEntry) : State :=
  let s := updTag s t.tag (fun x => { x with done := some (outStatus stSAFE_STATE), staged := none, route := none })
  if inWindow t then winRemove s (seDomain t.entry) (seReqId t.entry) else s

/-- The keys a command holds from its commit: those its handles name by a generation; a KEY_DELETE and a KEY_RESTRICT hold none, since they wait
for the holders (R209, R253). -/
def heldBy (t : TagEntry) : List Nat :=
  if seOpcode t.entry = 0x13 ∨ seOpcode t.entry = 0x15 then []
  else [seKeyA t.entry, seKeyB t.entry].filter (fun h => h % 1024 != 0)

/-- Commit STARTED: the route runs, holding its keys, and its END will give the staged outcome and effect (R120, R123, R209). -/
def startTag (s : State) (t : TagEntry) (r : RouteAt) (o : Outcome) (e : Effect) : State :=
  updTag s t.tag (fun x => { x with commit := .started, route := some r, staged := some (o, e), refs := heldBy t })

/-- A route has loaded a key: it holds it no longer (R209). -/
def releaseKey (s : State) (tag h : Nat) : State := updTag s tag (fun x => { x with refs := x.refs.filter (fun k => k != h) })

/-- At entry into safe state commands in WAITING complete SAFE_STATE, local opcodes and ABORT apart (R135). -/
def safeQueues (s : State) : State :=
  (s.qm.tags.filter (fun t => t.commit = .waiting && !opLocal (seOpcode t.entry) && seOpcode t.entry != 2)).foldl
    (fun u t => failTag u t (outStatus stSAFE_STATE)) s

/-- Cut the running routes that a predicate picks (R25, R120). -/
def cutRoutes (s : State) (p : TagEntry → Bool) : State :=
  settle ((s.qm.tags.filter (fun t => running t && p t)).foldl cutSafe s)

/-- The 32 bytes of a completion entry (R115). -/
def cqeBytes (t : TagEntry) (o : Outcome) (phase : Bool) : Bytes :=
  leBytes (seReqId t.entry) 8 ++ leBytes o.result 8 ++ leBytes o.outBytes 4 ++ leBytes t.sqHead 2 ++ leBytes t.qid 2
    ++ leBytes o.status 1 ++ leBytes o.detail 1 ++ zeros 2 ++ leBytes (t.tag + (if phase then 2 ^ 31 else 0)) 4

/-- The DUPLICATE outcome an entry gives (R125). -/
def dupOutcome (w : WinEntry) : Outcome :=
  { status := stDUPLICATE, detail := w.status, result := w.result, outBytes := w.outBytes, output := [] }

/-- Decide duplicates that wait on a request ID once its original has left the tag table (R126). -/
def decideDups (s : State) (d req : Nat) : State :=
  match winFind s d req with
  | some w =>
    if w.state = .done then
      { s with qm := { s.qm with tags := s.qm.tags.map (fun t =>
        if t.dupWait && seDomain t.entry = d && seReqId t.entry = req then
          { t with dupWait := false, commit := .failed, done := some (dupOutcome w) } else t) } }
    else s
  | none => s

/-- What a function's reset takes off the tag table at once: uncommitted commands, those that wait for their completion, and a DELETE_QP, whose
pair goes (R132, R136). -/
def goesAtReset (fn : Nat) (t : TagEntry) : Bool := t.fn = fn && (t.commit = .waiting || t.done.isSome || seOpcode t.entry = 4)

/-- Discard what a function's reset discards (R136): uncommitted commands go with their window entries, completions of
committed ones are dropped, the duplicates that wait on those are decided (R126), queue pairs and tags are removed as routes end. -/
def dropFunction (s : State) (fn : Nat) : State :=
  let gone := s.qm.tags.filter (goesAtReset fn)
  let s := (gone.filter (fun t => t.commit = .waiting && inWindow t)).foldl
    (fun u t => winRemove u (seDomain t.entry) (seReqId t.entry)) s
  let s := { s with qm := { s.qm with
    tags := (s.qm.tags.filter (fun t => !goesAtReset fn t)).map
      (fun t => if t.fn = fn then { t with drop := true } else t)
    pairs := s.qm.pairs.filter (fun p => p.fn != fn)
    fetched := s.qm.fetched.filter (fun e => e.1 != fn)
    servedSq := s.qm.servedSq.filter (fun e => e.1 != fn) } }
  let s := (gone.filter (fun t => t.done.isSome && inWindow t)).foldl (fun u t => decideDups u (seDomain t.entry) (seReqId t.entry)) s
  qmRefresh s fn

/-- Reset the BAR0 registers and the MSI-X table of a function (R136). -/
def resetBar0 (s : State) (fn : Nat) : State :=
  let s := resetRegs s (fun b o => b = Blk.BAR0 + fn && 0x1000 ≤ o && o != 0x200000)
  let s := setF s (F.TELE_STATUS_FUNC_ERR fn) 0
  let s := setF s (F.TELE_STATUS_DB_ERR fn) 0
  let w := if fn < 32 then 0 else 1
  let s := setF s (F.QMGR_FNERR_ERR w) (clrBitN (getF s (F.QMGR_FNERR_ERR w)) (fn % 32))
  { s with qm := { s.qm with msix := s.qm.msix.filter (fun e => e.1 / 8192 != fn), pba := s.qm.pba.filter (fun m => m.1 != fn),
                             busMaster := s.qm.busMaster.filter (fun n => n != fn),
                             enStale := s.qm.enStale.filter (fun n => n != fn) } }

/-- The copies of safe state in a function's registers stand through its reset (R483). -/
def mirrorSafe (s : State) (fn : Nat) : State :=
  setB (setB s (F.ADMIN_STATUS_SAFE fn) (inSafe s)) (F.TELE_STATUS_SAFE fn) (inSafe s)

/-- A function-level reset (R136). -/
def flr (s : State) (fn : Nat) : State := mirrorSafe (qmRefresh (resetBar0 (dropFunction s fn) fn) fn) fn

/-- Stop a function on a host-memory error (R134). -/
def funcError (s : State) (fn : Nat) : State :=
  let s := setF (setF s (F.ADMIN_STATUS_FUNC_ERR fn) 1) (F.TELE_STATUS_FUNC_ERR fn) 1
  let w := if fn < 32 then 0 else 1
  let s := setF s (F.QMGR_FNERR_ERR w) (setBitN (getF s (F.QMGR_FNERR_ERR w)) (fn % 32))
  let s := { s with qm := { s.qm with aerErrs := s.qm.aerErrs + 1, tags := s.qm.tags.map (fun t =>
      if t.fn = fn then { t with drop := true } else t) } }
  signal s fn 0

/-- Whether a TLP is taken: one on the IDE stream only while the stream is Secure (R140). -/
def tlpTaken (s : State) (ide : Bool) : Bool := !ide || getF s F.PCIEC_IDE_STATE = 1

/-- Whether fetching is held because IDE is required and the stream is not Secure (R141). -/
def ideHolds (s : State) : Bool := isSet s F.PCIEC_IDE_REQUIRED && getF s F.PCIEC_IDE_STATE != 1

/-- Everything a PCIe fundamental reset abandons: commands in flight with no completion; effects and windows stand (R57,
R138). -/
def dropAllFunctions (s : State) : State := (List.range 64).foldl flr s

end Sys2Proof.Machine
end

