-- ==== Sys2Proof/Machine/TestCore.lean ====
section
/-!
DEFINITION. TestCore.lean: the end of a pattern test (R577, R578).
-/
namespace Sys2Proof.Machine

/-- Enter the counts of the checker: bits compared, and errors, which follow R6 (R577, R578). -/
def testCounts (s : State) (land : Bool) (bits : W64) (errs : Nat) : State :=
  if land then
    bumpBy (clearCounter (setF s F.LTEST_BITS_COUNT bits.toNat) F.LTEST_ERRS_COUNT F.LTEST_ERRS_SAT) F.LTEST_ERRS_COUNT F.LTEST_ERRS_SAT errs
  else bumpBy (clearCounter (setF s F.TEST_BITS_COUNT bits.toNat) F.TEST_ERRS_COUNT F.TEST_ERRS_SAT) F.TEST_ERRS_COUNT F.TEST_ERRS_SAT errs

/-- A request or the running test ends at once with DONE and an ERR; TEST raises source 20, LTEST source 31 (R400, R577, R578). -/
def testDone (s : State) (land : Bool) (err : Nat) : State :=
  if land then raise (setF (setF s F.LTEST_STATUS_ERR err) F.LTEST_STATUS_DONE 1) 31
  else raise (setF (setF s F.TEST_STATUS_ERR err) F.TEST_STATUS_DONE 1) 20

/-- The running test ends: BUSY, LOCK and GO clear (R578). -/
def testEnds (s : State) (t : TestRun) (err : Nat) : State :=
  let s := { s with test := none }
  let s := if t.land then setF (setF (setF s F.LTEST_STATUS_BUSY 0) F.LTEST_STATUS_LOCK 0) F.LTEST_CTRL_GO 0
    else setF (setF (setF s F.TEST_STATUS_BUSY 0) F.TEST_STATUS_LOCK 0) F.TEST_CTRL_GO 0
  testDone s t.land err

/-- A running test that a predicate picks ends with ERR 5; the event proceeds unchanged (R578). What it had counted is open: a free value. -/
def endPattern (s : State) (p : TestRun → Bool) : State :=
  match s.test with
  | none => s
  | some t =>
    if p t then
      let (b, s) := draw s 64
      let (e, s) := draw s 31
      testEnds (testCounts s t.land (BitVec.ofNat 64 b) e) t 5
    else s

end Sys2Proof.Machine
end

