-- ==== Sys2Proof/Machine/FlashCore.lean ====
section
/-!
DEFINITION. FlashCore.lean: sectors and lines of the Gecko flash banks, and what erasing, programming and abandoning do to them
(R434, R441, R447–R450, R455).
-/
namespace Sys2Proof.Machine

/-- The bank of a flash address, the base of a bank, the logical sector of an address, the address of a sector (R434). -/
def flashBank (a : Nat) : Nat := if a < 0x10800000 then 0 else 1
def flashBase (b : Nat) : Nat := 0x10000000 + b * 0x800000
def sectorOf (a : Nat) : Nat := (a - flashBase (flashBank a)) / 4096
def sectorAddr (b n : Nat) : Nat := flashBase b + n * 4096

/-- The state of a line: 0 erased, else 1 + its correction count, 8 uncorrectable. -/
def lineState (s : State) (l : Nat) : Nat := mapGet s.flash.lines l 0

/-- Set a line's state. -/
def setLine (s : State) (l v : Nat) : State := { s with flash := { s.flash with lines := mapSet s.flash.lines l v 0 } }

/-- Erase n bytes from a line boundary on: every byte 0xFF, every line erased (R434). -/
def eraseFlash (s : State) (a n : Nat) : State :=
  { s with mem := { s.mem with gecko := s.mem.gecko.filter (fun c => !(a ≤ c.1 && c.1 < a + n)) },
           flash := { s.flash with lines := s.flash.lines.filter (fun e => !(a ≤ e.1 * 32 && e.1 * 32 < a + n)) } }

/-- Program one line (R441). -/
def programLine (s : State) (a : Nat) (b : Bytes) : State := setLine (geckoWrite s a (sliceZ b 0 32)) (a / 32) 1

/-- Program lines in address order; `fuel` is their number. -/
def programLines (s : State) (a : Nat) (b : Bytes) : Nat → State
  | 0 => s
  | n + 1 => programLines (programLine s a b) (a + 32) (b.drop 32) n

/-- The sectors a running or suspended operation works on: bank, first, count. -/
def opSectors (o : FlashOp) : Nat × Nat × Nat := (flashBank o.addr, sectorOf o.addr, if o.op = 3 ∨ o.op = 4 then o.len else 1)

/-- Whether a range of sectors holds a sector. -/
def inSectors (r : Nat × Nat × Nat) (b n : Nat) : Bool := r.1 = b && r.2.1 ≤ n && n < r.2.1 + r.2.2

/-- A line whose programming was cut off: old content, programmed, or any bytes with any count (R450; free). -/
def tearLine (s : State) (a : Nat) (b : Bytes) : State :=
  let (n, s) := draw s 5
  if n % 4 = 0 then s
  else if n % 4 = 1 then programLine s a b
  else
    let (d, s) := drawBytes s 32
    setLine (geckoWrite s a d) (a / 32) (1 + n / 4)

/-- Lines whose programming was cut off. -/
def tearLines (s : State) (a : Nat) (b : Bytes) : Nat → State
  | 0 => s
  | n + 1 => tearLines (tearLine s a b) (a + 32) (b.drop 32) n

/-- Sectors whose erase was cut off: a mixture of old and erased data with any counts (R449; free, log entry 35). -/
def tearErase (s : State) (a n : Nat) : State :=
  let c := s.freeCtr
  let inside := fun x => a ≤ x && x < a + n
  { s with freeCtr := c + 1
           mem := { s.mem with gecko := s.mem.gecko.filter (fun e => !inside e.1 || (Config.freeByte c e.1).toNat % 2 = 0) }
           flash := { s.flash with lines := (s.flash.lines.map (fun e =>
             if inside (e.1 * 32) then (e.1, (Config.freeByte c (2 ^ 32 + e.1)).toNat % 9) else e)).filter (fun e => e.2 != 0) } }

/-- What abandoning one operation leaves (R447, R449, R450): an erase leaves its intent open. -/
def abandonOp (s : State) (o : FlashOp) : State :=
  match o.op with
  | 1 => tearLines s o.addr o.data (o.len / 32)
  | 2 => tearErase s o.addr 4096
  | 3 => tearErase s o.addr (4096 * o.len)
  | _ => s

/-- Abandon the running operation and every suspended one (R447, R455). -/
def abandonFlash (s : State) : State :=
  let s := (s.flash.run.toList ++ s.flash.stack).foldl abandonOp s
  { s with flash := { s.flash with run := none, stack := [] } }

/-- FLASHC_HALFb and STATUS.HALF show the half-erased ranges (R449). -/
def showHalf (s : State) : State :=
  let show1 := fun (s : State) (b : Nat) =>
    match s.flash.half.find? (fun r => r.1 = b) with
    | none => setF (setF (setF s (F.FLASHC_HALF_VALID b) 0) (F.FLASHC_HALF_COUNT b) 0) (F.FLASHC_HALF_FIRST b) 0
    | some r => setF (setF (setF s (F.FLASHC_HALF_VALID b) 1) (F.FLASHC_HALF_COUNT b) r.2.2) (F.FLASHC_HALF_FIRST b) r.2.1
  setB (show1 (show1 s 0) 1) F.FLASHC_STATUS_HALF (!s.flash.half.isEmpty)

/-- FLASHC_STATUS.SUSP shows what is suspended (R446). -/
def showSusp (s : State) : State :=
  setF s F.FLASHC_STATUS_SUSP (match s.flash.stack with
    | [] => 0
    | [o] => if o.op = 1 then 3 else 1
    | _ => 2)

/-- A warden take-over abandons what is suspended; a running operation runs on (R447). -/
def abandonSuspended (s : State) : State :=
  let s := s.flash.stack.foldl abandonOp s
  showSusp { s with flash := { s.flash with stack := [] } }

/-- The scan of the erase journals at bank power-up: every open intent is a half-erased range (R449). -/
def scanHalf (s : State) : State := showHalf { s with flash := { s.flash with half := s.flash.intents } }

/-- An erase of n sectors from sector f of a bank that completes: the intents of the ranges it covers whole close (R448, R449). -/
def closeIntents (s : State) (b f n : Nat) : State :=
  let left := fun (r : Nat × Nat × Nat) => !(r.1 = b && f ≤ r.2.1 && r.2.1 + r.2.2 ≤ f + n)
  showHalf { s with flash := { s.flash with intents := s.flash.intents.filter left, half := s.flash.half.filter left } }

/-- The spares of a bank in use, by the factory's entries and the field's (R435). -/
def sparesUsed (s : State) (b : Nat) : List Nat :=
  (((Config.flashRepair s.fuse.shadow.repair.toNat ++ s.flash.remap).filter (fun r => r.1 = b)).map (fun r => r.2.2)).eraseDups

/-- The lowest unused spare of a bank (R453). -/
def freeSpare (s : State) (b : Nat) : Option Nat := (List.range 32).find? (fun i => !(sparesUsed s b).contains i)

/-- Spares in use of each bank, as FLASHC_SPARE shows them (R435, R453). -/
def showSpares (s : State) : State :=
  setF (setF s F.FLASHC_SPARE_USED0 (sparesUsed s 0).length) F.FLASHC_SPARE_USED1 (sparesUsed s 1).length

/-- The journal of a bank with room for one erase's two records: a full sector is left for the other one, erased under the next sequence
number (R448). -/
def EraseJournal.room (j : EraseJournal) : EraseJournal :=
  if j.used + 2 ≤ 128 then j else { sect := 1 - j.sect, seq := j.seq + 1, used := 1 }

/-- A change of a bank's erase journal. -/
def updEjour (s : State) (b : Nat) (f : EraseJournal → EraseJournal) : State :=
  { s with flash := if b = 0 then { s.flash with ejour0 := f s.flash.ejour0 } else { s.flash with ejour1 := f s.flash.ejour1 } }

/-- An intent record, before an erase (R448). -/
def noteIntent (s : State) (b : Nat) : State := updEjour s b (fun j => { j.room with used := j.room.used + 1 })

/-- A completion record, after an erase that verifies (R448). -/
def noteDone (s : State) (b : Nat) : State := updEjour s b (fun j => { j with used := j.used + 1 })

end Sys2Proof.Machine
end

