-- ==== Sys2Proof/Machine/RngCore.lean ====
section
/-!
DEFINITION. RngCore.lean: the conditioner's seed blocks, CTR_DRBG instances and their requests, mask streams (R260–R263, R266, R268–R273).
-/
namespace Sys2Proof.Machine

/-! ## Sources and seed blocks -/

/-- The state of a source: 0 OFF, 1 STARTUP, 2 OK, 3 DEAD. -/
def srcState (s : State) (n : Nat) : Nat := if n = 0 then getF s F.RNG_STATUS_STATE0 else getF s F.RNG_STATUS_STATE1
def setSrc (s : State) (n v : Nat) : State := if n = 0 then setF s F.RNG_STATUS_STATE0 v else setF s F.RNG_STATUS_STATE1 v

/-- Whether a source contributes to seeds: healthy, and its raw bits not diverted (R266, R273). -/
def inService (s : State) (n : Nat) : Bool :=
  srcState s n = 2 && !(isSet s F.RNG_CTRL_RAW_EXPORT && getF s F.RNG_RAW_SOURCE = n)

/-- Whether the conditioner can give a seed block: one is ready, or a source is in service (R266). -/
def canSeed (s : State) : Bool := s.rng.ready.isSome || inService s 0 || inService s 1

/-- A seed block: the ready one; else the next, SHA-384 of 2,048 raw bits of physical noise, which are free (R261). -/
def condBlock (s : State) : BitVec 384 × State :=
  match s.rng.ready with
  | some (_, v) => (v, { s with rng := { s.rng with ready := none } })
  | none =>
    let (raw, s) := drawBytes s 256
    (sha384 raw, { s with rng := { s.rng with block := s.rng.block + 1 } })

/-! ## Instances -/

/-- An instance, when it is instantiated. -/
def rngInst (s : State) (i : Nat) : Option RngInst := mapGet? s.rng.insts i

/-- Put an instance in place. -/
def setInst (s : State) (i : Nat) (x : RngInst) : State := { s with rng := { s.rng with insts := mapPut s.rng.insts i x } }

/-- Set or clear an instance's stalled and stretched bits. -/
def setStalled (s : State) (i : Nat) (b : Bool) : State :=
  let v := getF s F.RNG_STALLED_INST
  setF s F.RNG_STALLED_INST (if b then setBitN v i else clrBitN v i)
def setStretch (s : State) (i : Nat) (b : Bool) : State :=
  let v := getF s F.RNG_STRETCH_INST
  setF s F.RNG_STRETCH_INST (if b then setBitN v i else clrBitN v i)

/-- Whether an instance is stalled. -/
def stalled (s : State) (i : Nat) : Bool := (getF s F.RNG_STALLED_INST).testBit i

/-- The reseed interval: other exponents than 10 to 31 act as 20. -/
def reseedAt (s : State) : Nat :=
  let n := getF s F.RNG_RESEED_INTERVAL_LOG2
  2 ^ (if 10 ≤ n then n else 20)

/-- The hard limit (R269). -/
def hardLimit : Nat := 2 ^ 32

/-- Whether an instance can serve n more requests (R268, R270). -/
def rngServes (s : State) (i n : Nat) : Bool :=
  match rngInst s i with
  | none => false
  | some x => !stalled s i && decide (x.reqs + n ≤ hardLimit)

/-- One generate request is counted: at the interval the instance asks for a reseed and is stretched, at the hard limit it stalls (R269,
R270). -/
def drbgRequest (s : State) (i : Nat) : State :=
  match rngInst s i with
  | none => s
  | some x =>
    let n := x.reqs + 1
    let fresh := n ≥ reseedAt s && !(getF s F.RNG_STRETCH_INST).testBit i
    let s := setInst s i { x with reqs := n, since := if fresh then s.rng.order else x.since }
    let s := if fresh then setStretch { s with rng := { s.rng with order := s.rng.order + 1 } } i true else s
    if n ≥ hardLimit then setStalled s i true else s

/-- One generate request for n bytes of CTR_DRBG (R260, R269). Where an instance does not exist the bytes are free. -/
def drbgBytes (s : State) (i n : Nat) : Bytes × State :=
  match rngInst s i with
  | none => drawBytes s n
  | some x =>
    let (b, k, v) := ctrGenerate x.key x.v n
    (b, drbgRequest (setInst s i { x with key := k, v := v }) i)

/-- A generate request for a number of w bits. -/
def drbgBits (s : State) (i w : Nat) : Nat × State :=
  let (b, s) := drbgBytes s i ((w + 7) / 8)
  (beNat b % 2 ^ w, s)

/-- n bytes of output, a request for each 4 KiB or part (R269). -/
def drbgOutput (s : State) (i n : Nat) : Bytes × State :=
  (List.range ((n + 4095) / 4096)).foldl (fun p k =>
    let (b, s) := drbgBytes p.2 i (min 4096 (n - 4096 * k))
    (p.1 ++ b, s)) ([], s)

/-- An instance whose Key and V were just seeded; the seed is counted. -/
def seeded (s : State) (i : Nat) (k : Bytes × W128) : State :=
  let s := setInst s i { key := k.1, v := k.2, reqs := 0, since := 0 }
  bump (setStretch (setStalled s i false) i false) F.RNG_SEEDS_COUNT F.RNG_SEEDS_SAT

/-- The personalisation string: the instance number and the 64-bit construction count. -/
def persString (s : State) (i : Nat) : BitVec 384 := BitVec.ofNat 384 (i * 2 ^ 64 + s.rng.constr % 2 ^ 64)

/-- An instance is instantiated from a block XOR its personalisation string (R268). -/
def seedNew (s : State) (i : Nat) (block : BitVec 384) : State :=
  seeded { s with rng := { s.rng with due := s.rng.due.filter (fun x => x != i) } } i (ctrSeed (hashBytes (block ^^^ persString s i)))

/-- An instance is reseeded with a block; one that is not instantiated is instantiated from it (R268, R270). -/
def seedInst (s : State) (i : Nat) (block : BitVec 384) : State :=
  match rngInst s i with
  | none => seedNew s i block
  | some x => seeded s i (ctrUpdate x.key x.v (hashBytes block))

/-- Instantiate an instance from one seed block of the conditioner; with no source in service it waits for one (R266, R268). -/
def instantiate (s : State) (i : Nat) : State :=
  if canSeed s then
    let (b, s) := condBlock s
    seedNew s i b
  else { s with rng := { s.rng with due := s.rng.due.filter (fun x => x != i) ++ [i] } }

/-- End instances: their state, stalled and stretched bits go (R271). -/
def endInsts (s : State) (p : Nat → Bool) : State :=
  let s := { s with rng := { s.rng with insts := s.rng.insts.filter (fun e => !p e.1), due := s.rng.due.filter (fun i => !p i),
                                        pr := s.rng.pr.filter (fun w => !p w.inst) } }
  (List.range 29).foldl (fun s i => if p i then setStretch (setStalled s i false) i false else s) s

/-! ## Cipher tiles: mask streams and prefetch buffers (R269, R271) -/

/-- The mask stream of a tile takes a new key of 384 bits from its cluster's instance: 256 of key, 128 of counter (R271). -/
def rekeyMask (s : State) (cluster tile : Nat) : State :=
  let (k, s) := drbgBytes s (16 + cluster) 48
  { s with rng := { s.rng with masks := mapPut s.rng.masks (cluster * 16 + tile) { key := k.take 32, ctr := toBlock (k.drop 32), used := 0 } } }

/-- Whether a tile's prefetch buffer holds fewer than n bits. -/
def prefetchShort (s : State) (cluster tile n : Nat) : Bool := (mapGet s.rng.prefetch (cluster * 16 + tile) []).length < (n + 7) / 8

/-- n bits from a tile's prefetch buffer, which a request for 512 bits refills when it has too few (R269). -/
def prefetchBits (s : State) (cluster tile n : Nat) : Nat × State :=
  let u := cluster * 16 + tile
  let need := (n + 7) / 8
  let old := mapGet s.rng.prefetch u []
  let (b, s) := if old.length < need then drbgBytes s (16 + cluster) 64 else (old, s)
  (beNat (b.take need) % 2 ^ n, { s with rng := { s.rng with prefetch := mapSet s.rng.prefetch u (b.drop need) [] } })

end Sys2Proof.Machine
end

