-- ==== Sys2Proof/Machine/Zero.lean ====
section
/-!
DEFINITION. Zero.lean: what the zeroisation responses destroy (R144, R158, R257, R271, R455, R460–R462, R472).
-/
namespace Sys2Proof.Machine

/-- Everything the HBM held is lost: key objects, journals and tables; each domain that has a DMK awaits its restore (R144, R153);
its protection key with it (R158). -/
def hbmLost (s : State) : State :=
  let lose := fun (e : Nat × Domain) =>
    (e.1, { e.2 with state := if e.2.state = .unused then .unused else .awaiting, seq := 0, snap := none, restore := none, retired := 0 })
  { s with
    ks := { s.ks with domains := s.ks.domains.map lose, slots := [], journal := [], tables := [], builds := [] }
    hbm := { s.hbm with key := none, lines := [], leaf := [], nodes := [], root := [], cached := [], poison := [], t10 := [] }
    mem := { s.mem with hbm := [] } }

/-- A pseudo-channel swap ends (R169). -/
def endSwaps (s : State) : State :=
  let s := { s with hbm := { s.hbm with stk := s.hbm.stk.map (fun x => { x with swap := none }) } }
  (List.range 4).foldl (fun t k => setF (setF t (F.HBMC_SWAP_MIRROR k) 0) (F.HBMC_SWAP_GO k) 0) s

/-- Whether a route runs over a suspended one, or is suspended, on its tile (R237, R238). -/
def suspendedPair (s : State) (t : TagEntry) : Bool :=
  (t.route.map (fun r => r.cls = 2 && routeOn s 2 r.unit r.tile 0 && routeOn s 2 r.unit r.tile 1)).getD false

/-- The routes a zeroisation of the key cache cuts: suspended ones with those over them; of the others on a tile that name a key those that
read the cache in its 1.2 µs, which is free (R25, R173, R238; log entry 81). -/
def zeroCuts (s : State) : State :=
  let pairs := s.qm.tags.filter (fun t => running t && suspendedPair s t)
  let keyed := s.qm.tags.filter (fun t => running t && !suspendedPair s t && (t.route.map (fun r => r.cls != 3)).getD false
    && (seKeyA t.entry != 0 || seKeyB t.entry != 0))
  settle (keyed.foldl (fun u t =>
    let (b, u) := draw u 1
    if b = 1 then cutSafe u t else u) (pairs.foldl cutSafe s))

/-- The Landau side of the zeroise wires: key cache with its pinned keys, HBM protection key (R144, R461). -/
def zeroLandau (s : State) : State :=
  let s := zeroCuts s
  let s := endSwaps <| hbmLost { s with ks := { s.ks with cache := [] } }
  let s := { s with pke := { s.pke with combs := [] } }
  setF (setF (setF s F.KCACHE_STATUS_ZERO_DONE 1) F.MCRYPT_STATUS_KEY_VALID 0) F.MCRYPT_STATUS_TREE_READY 0

/-- SCIPH key slots that a predicate picks are cleared (R257). -/
def clearSciphSlots (s : State) (p : Nat → Bool) : State :=
  let s := { s with sciph := { s.sciph with slots := s.sciph.slots.filter (fun e => !p e.1) } }
  setF s F.SCIPH_SLOTS_VALID ((s.sciph.slots.map (fun e => 2 ^ e.1)).foldl (· + ·) 0)

/-- Every instance state, block, prefetch buffer and mask stream goes; instance 28 is instantiated again at once, or when a source serves again
(R266, R271). -/
def zeroRng (s : State) : State :=
  let had := (rngInst s 28).isSome || s.rng.due.contains 28
  let s := endInsts s (fun _ => true)
  let s := { s with rng := { s.rng with ready := none, masks := [], prefetch := [] } }
  if had then instantiate s 28 else s

/-- ZEROISE_WORKING (R460 row 3). -/
def zeroiseWorking (s : State) : State := zeroRng (clearSciphSlots (zeroLandau s) (fun i => 2 ≤ i))

/-- What ZEROISE_ALL destroys beyond it at once: BK, the acknowledgement marks, SCIPH slot 1, SPKE slots 0–2; the MEK and the member table
are unreadable without BK; a quorum session ends (R317, R460 row 4, R541). -/
def zeroKeys (s : State) : State :=
  let s := clearSciphSlots s (fun i => 1 ≤ i)
  let s := { s with tamper := { s.tamper with bk := none, ackMarks := [] }
                    spke := { s.spke with slots := s.spke.slots.filter (fun e => 3 ≤ e.1) }
                    quorum := { s.quorum with session := none }
                    cluster := ClusterState.init }
  setF s F.TAMPER_STATUS_BK_VALID 0

/-- What the erase of ZRANGEk takes away, by the areas Sealed firmware names in it (R462): the wrapped-DMK log, the wrapped MEK with
the epoch and its statement hash, the authorised table with the stored HOST_BOOT_SELECT choice. -/
def eraseRange (s : State) (k : Nat) : State :=
  match k with
  | 0 => { s with ks := { s.ks with dmkLog := [] } }
  | 1 => { s with cluster := ClusterState.init }
  | 2 => { s with hf := { s.hf with auth := [], select := 0 } }
  | _ => s

/-- Erase the sectors of a range too, whatever protects them; half-erased ranges it covers whole are whole again (R449, R455). -/
def eraseZSectors (s : State) (k : Nat) : State :=
  let b := getF s (F.FLASHC_ZRANGE_BANK k)
  let n := getF s (F.FLASHC_ZRANGE_COUNT k) + 1
  let f := getF s (F.FLASHC_ZRANGE_FIRST k)
  closeIntents (eraseFlash (noteDone (noteIntent s b) b) (sectorAddr b f) (4096 * n)) b f n

/-- Erase each valid range (R455). -/
def eraseRanges (s : State) : State :=
  (List.range 4).foldl (fun s k => if isSet s (F.FLASHC_ZRANGE_VALID k) then eraseZSectors (eraseRange s k) k else s) s

/-- An operation that a ZEROISE_ALL abandons ends ABORTED (R455). -/
def abortFlash (s : State) : State :=
  if s.flash.run.isSome || !s.flash.stack.isEmpty then
    let s := abandonFlash s
    setF (setF (setF (setF s F.FLASHC_STATUS_BUSY 0) F.FLASHC_STATUS_SUSP 0) F.FLASHC_STATUS_DONE 1) F.FLASHC_RESULT_ERR 12
  else s

/-- ZEROISE_ALL up to the start of its erases: ZPEND set, everything but the flash ranges destroyed, flash operations abandoned (R455,
R460, R461 steps 3–5). -/
def zeroiseAllStart (s : State) : State :=
  setF (abortFlash (zeroKeys (zeroiseWorking s))) F.TAMPER_STATUS_ZPEND 1

/-- The end of its erases: with the ranges locked they are erased, ZPEND clears and, without a BK, ZALL_DONE is set; without the lock
nothing is erased and ZPEND stays (R455, R461). -/
def zeroiseAllEnd (s : State) : State :=
  if isSet s F.FLASHC_CTRL_ZLOCK then
    let s := setF (eraseRanges s) F.TAMPER_STATUS_ZPEND 0
    if isSet s F.TAMPER_STATUS_BK_VALID then s else setF s F.TAMPER_STATUS_ZALL_DONE 1
  else s

end Sys2Proof.Machine
end

