-- ==== Sys2Proof/Machine/Resets.lean ====
section
/-!
DEFINITION. Resets.lean: what each reset kind covers (R12, R55–R61, R271, R316, R444, R478, R505, R507).
-/
namespace Sys2Proof.Machine

/-- Whether a block is one of Landau's, BAR0 of the functions included. -/
def landauBlk (b : Nat) : Bool := 0x20 ≤ b

/-- Whether a register stands through a main power-on: the cell domain's (R60, R61, R478, TIMEKEEP). -/
def cellReg (b off : Nat) : Bool :=
  (b = Blk.SYSCTL && (off = 0x8 || off = 0x14)) || (b = Blk.TAMPER && off != 0x4 && off != 0x18) || b = Blk.TIMEKEEP

/-- Whether a register stands through a device reset besides: HOSTSPI_REDIR and the HOSTSPI counters (R316), WCORE_STOPA and WCORE_STOPB
(13). -/
def hostReg (b off : Nat) : Bool := (b = Blk.HOSTSPI && (off = 0x1C || (0x20 ≤ off && off < 0x2C))) || (b = Blk.WCORE && (off = 8 || off = 0x10))

/-- The registers of Landau. -/
def resetLandauRegs (s : State) : State := resetRegs s (fun b _ => landauBlk b)

/-- The queue manager after a Landau rebuild or a wider reset: queues, tags and windows are lost (R128); what was written to the host
stays written. -/
def freshQm (q : QmState) (id : Nat) : QmState :=
  { QmState.init with lastWindowId := id, nextOrder := q.nextOrder, hostOut := q.hostOut, irqs := q.irqs, doeOut := q.doeOut }

/-- RAIL_EN and OPERATION fall, the PHY with them (R589). -/
def railsOff (s : State) : State :=
  { s with power := { s.power with enH := false, enL := false, enPE := false, pgH := false, pgL := false, pgPE := false,
                                   operationOn := false, phy := false, dataLink := false } }

/-- Every Landau domain is switched off; a mode change that runs is abandoned, with ERR 4 (R30, R523). -/
def landauDomainsOff (s : State) : State :=
  let on1 := getF s (F.PWRARB_DOMSTATE_ON 1)
  let s := setF (setF s (F.PWRARB_DOMSTATE_ON 0) 0) (F.PWRARB_DOMSTATE_ON 1) (on1 - on1 % 2 ^ 18)
  let s := resetRegs s (fun b o => b = Blk.PWRARB && 0x100 ≤ o)
  let busy := isSet s F.PWRARB_STATUS_MODE_BUSY
  let s := { s with arb := { s.arb with target := none, stageDue := none } }
  let s := setF s F.PWRARB_STATUS_FALLBACK 0
  if busy then setF (setF (setF s F.PWRARB_STATUS_MODE_BUSY 0) F.PWRARB_MODE_ERR 4) F.PWRARB_MODE_DONE 1 else s

/-- What SYSCTL says of a Landau that is gone, and the Open release, which the next step 8 makes again (R53, R55; log entry 79). -/
def closeOpenWorld (s : State) : State :=
  let s := setF (setF s F.SYSCTL_STATE_LANDAU_BUILT 0) F.SYSCTL_STATE_HBM_READY 0
  setF (setF (setF s F.SYSCTL_STATE_OPEN_FW_OK 0) F.SYSCTL_STATE_OPEN_READY 0) F.SYSCTL_RELEASE_OPEN 0

/-- Landau, HBM contents and the drawbar keys (R55 row Landau rebuild): its registers, structure, queues, key cache, engines, memories
and Landau instances of the generator. -/
def resetLandau (s : State) : State :=
  let id := getF s F.QMGR_WINDOW_ID
  let id := if id = 0 then s.qm.lastWindowId else id
  let s := endInsts (hbmLost { s with ks := { s.ks with cache := [] } }) (fun i => i < 28)
  let s := { s with rng := { s.rng with masks := [], prefetch := [], pr := [] } }
  let s := closeOpenWorld (landauDomainsOff (railsOff (resetLandauRegs s)))
  { s with
    struct := { s.struct with loading := [], sel := none, seqErr := false, built := [], drain := none, drained := [] }
    qm := freshQm s.qm id
    pke := PkeState.init
    cip := CipState.init
    drawbar := Drawbar.init
    mem := { s.mem with isram := [], dsram := [], hbm := [] }
    mpu := { s.mpu with act := s.mpu.act.filter (fun e => e.1 < 512), snap := s.mpu.snap.filter (fun e => e.1 < 512), pendL := 0 }
    dispSrc := []
    disp := List.replicate 20 (DCore.dispatch false)
    wbuf := s.wbuf.filter (fun e => e.core < 0x10)
    hbm := { HbmState.init with t10 := [] }
    fc := { s.fc with kcLost := [], kcMapped := [], scfTests := [], cutPending := false }
    power := { s.power with landau := .unbuilt, openSlot := 0 } }

/-- A fuse bit whose programming a reset or a loss of power interrupts is programmed or not: a free value (R71, log entry 80). -/
def cutProg (s : State) : State :=
  match s.fuse.prog with
  | none => s
  | some (t, i) =>
    let (b, s) := draw s 1
    { s with fuse := { s.fuse with prog := none, arr := if fuseReason s t i = 0 && b = 1 then burn s.fuse.arr t i else s.fuse.arr } }

/-- Gecko, apart from its flash, the fuses and the cell domain: `por` a main power-on, else a device reset. SRAM is lost; flash
operations are abandoned (R447); records only SRAM holds, a quorum session, SPDM sessions, the image in force and the keys of the
Sealed engines go. -/
def resetGecko (s : State) (por : Bool) : State :=
  let s := cutProg (abandonFlash s)
  let s := resetRegs s (fun b off => !landauBlk b && !cellReg b off && (por || !hostReg b off))
  { s with
    image := none
    struct := { s.struct with verdictA := 0xFF, verdictB := 0xFF, lastTried := 0 }
    mem := { s.mem with gecko := s.mem.gecko.filter (fun c => isFlash c.1) }
    sciph := SciphState.init
    spke := SpkeState.init
    rng := RngState.init
    mpu := MpuState.init
    irqSrc := 0
    warden := [DCore.warden, DCore.warden]
    wbuf := s.wbuf.filter (fun e => 0x10 ≤ e.core)
    quorum := { s.quorum with session := none }
    spdm := { SpdmState.init with out := s.spdm.out }
    led := { s.led with sram := [], devPub := [], akPub := [], akCert := [], skCert := [], act := none }
    hf := { HostFlash.init with map := if por || s.power.hold then [] else s.hf.map, auth := s.hf.auth, select := s.hf.select, side := s.hf.side,
                                filter56 := !por && !s.power.hold }
    card0 := CardPort.init
    card1 := CardPort.init
    sdh := SdhState.init
    tag := { s.tag with op := none }
    arb := ArbState.init
    test := none
    sb := { SidebState.init with sent := s.sb.sent, answers := s.sb.answers }
    dbg := { s.dbg with halted := [] }
    fc := { FaultState.init with selfFault := s.fc.selfFault }
    tamper := { s.tamper with selfTest := none, zallRunning := false, resp := 0 }
    power := { s.power with phase := .off, start := none, udsOpen := false, sealedMeas := 0, rebuild := false, pendReset := false } }

/-- Registers that show a pin or the supply of a block that goes on: HOST_HOLD_N, HOST_RST_IN_N, the tag's field. -/
def showPins (s : State) : State :=
  let s := setB (setB s F.HOSTSPI_STATUS_HOLD s.power.hold) F.SYSCTL_STATE_HOST_RELEASED (geckoUp s && !s.power.hold)
  setB (setB s F.HOSTSPI_STATUS_HOST_RST (!s.power.hostRstN)) F.TAG_STATUS_FIELD s.tag.field

/-- Set a bit of SYSCTL_RSTCAUSE, and note it for the event recorder, which takes the causes of device-level resets (R60). -/
def noteCause (s : State) (f : Field) : State :=
  let s := setF s f 1
  { s with power := { s.power with causes := s.power.causes ||| 2 ^ f.lo } }

/-- A main power-on or a device reset counts in BOOTATT (R61). -/
def countBoot (s : State) : State := bump s F.SYSCTL_BOOTATT_COUNT F.SYSCTL_BOOTATT_SAT

/-- A device reset (R55, R56): open event records close (R505), then everything of a main power-on without removing power; staged records
stay (R507). A host already released is not held again. The bring-up that follows is the next MAIN_POWER_GOOD (log entry 29). -/
def deviceReset (s : State) (cause : Field) : State :=
  let s := closeOpen (countBoot s) (fun _ => true)
  let s := resetGecko (resetLandau (noteCause s cause)) false
  showPins (evRefresh { s with power := { s.power with skipHold := !s.power.hold } })

/-- A Landau rebuild (R55, R169): open event records close, then Landau, HBM contents and drawbar keys go; the Landau leg that follows
is the next LANDAU_LEG. The sequence number of the ledger, the host and Gecko go on. -/
def landauRebuild (s : State) : State :=
  let s := setF (closeOpen (endPattern s (fun _ => true)) (fun _ => true)) F.SYSCTL_RSTCAUSE_LANDAU 1
  let s := resetLandau s
  evRefresh { s with power := { s.power with rebuild := true } }

end Sys2Proof.Machine
end

