-- ==== Sys2Proof/Machine/FaultCore.lean ====
section
/-!
DEFINITION. FaultCore.lean: the fault collector: reports, classes and actions, safe state, retirement requests and trackers
(R479–R497).
-/
namespace Sys2Proof.Machine

/-! ## Classes (R479) -/

/-- Whether a code is listed. -/
def faultListed (c : Nat) : Bool :=
  [0x01, 0x02, 0x03, 0x04, 0x05, 0x06, 0x08, 0x10, 0x11, 0x12, 0x13, 0x18, 0x19, 0x1C, 0x20, 0x21, 0x22, 0x23, 0x24, 0x25, 0x26,
   0x28, 0x29, 0x2A, 0x2B, 0x2C, 0x2D, 0x2E, 0x2F, 0x30, 0x31].contains c

/-- The class of a listed code: 0 corrected, 1 contained, 2 fatal. -/
def faultClass (c : Nat) : Nat :=
  if [0x05, 0x10, 0x18, 0x1C].contains c then 0
  else if [0x13, 0x21, 0x22, 0x23, 0x26, 0x28, 0x29, 0x30].contains c then 2
  else 1

/-- The exit kind of a fatal code whose action is safe state: 1 CLEAR, 2 REBUILD, 3 HOLD; 0 for every other code. -/
def faultExit (c : Nat) : Nat :=
  match c with
  | 0x13 => 2
  | 0x21 => 2
  | 0x22 => 3
  | 0x23 => 3
  | 0x26 => 1
  | _ => 0

/-- Whether Landau reports a code, so that it crosses the drawbar (R482). -/
def fromLandau (c : Nat) : Bool := c < 0x20 || c = 0x20 || c = 0x21

/-! ## Counting (R479, R480) -/

/-- Store a report in FCOLL_LAST, count it, raise source 3 unless corrected, record its event unless corrected. -/
def noteReport (s : State) (code unit part : Nat) (forced : Bool) : State :=
  let cls := faultClass code
  let s := setF (setB (setF s F.FCOLL_LAST_SECONDS (optime s)) F.FCOLL_LAST_FORCED forced) F.FCOLL_LAST_CLASS cls
  let s := setF (setF (setF s F.FCOLL_LAST_UNIT unit) F.FCOLL_LAST_PART part) F.FCOLL_LAST_CODE code
  let s := bump s (F.FCOLL_COUNT_COUNT code) (F.FCOLL_COUNT_SAT code)
  if cls = 0 then s
  else occurAt (raise s 3) (0x100 + code) (if forced then evFORCED else 0) (unit % 256) (part % 256) cls (rtc s)

/-! ## Retirement (R490–R494) -/

/-- Show what FCOLL_RETIRE asks for: the request in it stays; else the oldest waiting request; else the oldest self-test to make. -/
def showRetire (s : State) : State :=
  let put := fun (s : State) (valid cls unit part reason : Nat) =>
    setF (setF (setF (setF (setF (setF s F.FCOLL_RETIRE_VALID valid) F.FCOLL_STATUS_RETIRE_REQ valid) F.FCOLL_RETIRE_CLASS cls)
      F.FCOLL_RETIRE_UNIT unit) F.FCOLL_RETIRE_PART part) F.FCOLL_RETIRE_REASON reason
  if isSet s F.FCOLL_RETIRE_VALID then s
  else
    match s.fc.waiting, s.fc.scfTests with
    | r :: rest, _ => raise (put { s with fc := { s.fc with waiting := rest } } 1 r.cls r.unit r.part r.reason) 3
    | [], (u, i) :: _ => put s 0 1 u i 0x01
    | [], [] => put s 0 0 0 0 0

/-- Whether a part's retirement is already asked for. -/
def retireAsked (s : State) (cls unit part : Nat) : Bool :=
  (isSet s F.FCOLL_RETIRE_VALID && getF s F.FCOLL_RETIRE_CLASS = cls && getF s F.FCOLL_RETIRE_UNIT = unit && getF s F.FCOLL_RETIRE_PART = part)
    || s.fc.waiting.any (fun r => r.cls = cls && r.unit = unit && r.part = part)

/-- Call for the retirement of a part of class 1–4 (R490). -/
def requestRetire (s : State) (cls unit part reason : Nat) : State :=
  if retireAsked s cls unit part then s
  else showRetire { s with fc := { s.fc with waiting := s.fc.waiting ++ [{ cls := cls, unit := unit, part := part, reason := reason }] } }

/-- A part starts nothing further until it is retired (R493, R417). -/
def stopPart (s : State) (cls unit idx : Nat) : State :=
  let p : Part := { cls := cls, unit := unit, idx := idx }
  if s.struct.drained.contains p then s else { s with struct := { s.struct with drained := p :: s.struct.drained } }

/-- Retire the tile that a report's UNIT and PART name: UNIT is the owner class of R429. -/
def retireTile (s : State) (unit part reason : Nat) : State :=
  if unit < 16 ∧ part < 9 then requestRetire s 1 unit part reason
  else if 16 ≤ unit ∧ unit < 24 ∧ part < 9 then requestRetire s 2 (unit - 16) part reason
  else s

/-- PKE_SCF: ask for a self-test of the tile, unless it is out of the cluster (R492). -/
def askSelftest (s : State) (unit part : Nat) : State :=
  if unit < 16 ∧ part < 9 ∧ (unitActive s 1 unit ||| unitSpare s 1 unit).testBit part ∧ !s.fc.scfTests.contains (unit, part) then
    showRetire { s with fc := { s.fc with scfTests := s.fc.scfTests ++ [(unit, part)] } }
  else s

/-- A PKE_SCF whose test is refused with ERR 1 counts against nothing further (R492). -/
def scfDrop (s : State) (unit part : Nat) : State :=
  if s.fc.scfTests.contains (unit, part) then showRetire { s with fc := { s.fc with scfTests := s.fc.scfTests.filter (fun t => t != (unit, part)) } }
  else s

/-- The end of a self-test on a tile that a PKE_SCF awaits: a pass counts against the tile (R492). -/
def scfTested (s : State) (unit part : Nat) (pass : Bool) : State :=
  if s.fc.scfTests.contains (unit, part) then
    let s := showRetire { s with fc := { s.fc with scfTests := s.fc.scfTests.filter (fun t => t != (unit, part)) } }
    if pass then
      let t := optime s
      let l := (unit, part, t) :: s.fc.scf.filter (fun e => t < e.2.2 + 3600 * getF s F.FCOLL_TILETHR_WINDOW)
      let s := { s with fc := { s.fc with scf := l } }
      if max 1 (getF s F.FCOLL_TILETHR_SCF_LIMIT) ≤ (l.filter (fun e => e.1 = unit && e.2.1 = part)).length then requestRetire s 1 unit part 0x01
      else s
    else s
  else s

/-- A dispatch core stops: the commands it held without committing wait for another core of the same world, and the core is retired
(R417, R494). -/
def dispStop (s : State) (group core : Nat) : State :=
  if group < 4 ∧ core < 5 then
    let n := group * 5 + core
    let s := { s with qm := { s.qm with tags := s.qm.tags.map (fun t =>
      if t.core = n && t.commit = .waiting && t.handed then { t with handed := false } else t) } }
    requestRetire (stopPart s 3 group core) 3 group core 0x08
  else s

/-! ## HBM trackers and key-cache rows (R495–R497) -/

/-- Count a corrected error or HBM_INTEGRITY report of a pseudo-channel in this hour of operating time; at PC_LIMIT a swap is
requested (R495). -/
def trackPc (s : State) (stack pc code : Nat) : State :=
  let k := stack * 32 + pc
  let h := optime s / 3600
  let n := (((s.fc.pcCount.find? (fun e => e.1 = k && e.2.1 = h)).map (fun e => e.2.2)).getD 0) + 1
  let s := { s with fc := { s.fc with pcCount := (k, h, n) :: s.fc.pcCount.filter (fun e => e.1 != k) } }
  if n = max 1 (getF s F.FCOLL_HBMTHR_PC_LIMIT) then requestRetire s 4 stack pc code else s

/-- Note a corrected error of a row: the 16 most recent distinct rows of a stack are tracked (R496). A row is named by its physical
pseudo-channel and number. -/
def trackRow (s : State) (stack row : Nat) : State :=
  let h := optime s / 3600
  let n := (((s.fc.rows.find? (fun e => e.1 = stack && e.2.1 = row && e.2.2.1 = h)).map (fun e => e.2.2.2)).getD 0) + 1
  let mine := (stack, row, h, n) :: s.fc.rows.filter (fun e => e.1 = stack && e.2.1 != row)
  { s with fc := { s.fc with rows := mine.take 16 ++ s.fc.rows.filter (fun e => e.1 != stack) } }

/-- Whether a row has had ROW_LIMIT corrected errors within the hour (R496). -/
def rowFailing (s : State) (stack row : Nat) : Bool :=
  s.fc.rows.any (fun e => e.1 = stack && e.2.1 = row && max 1 (getF s F.FCOLL_HBMTHR_ROW_LIMIT) ≤ e.2.2.2)

/-- Add a repair to the field repair list: 64 records of 32 bytes and their commit lines fill its 4 KiB (R499). -/
def fieldRepair (s : State) (cls unit idx : Nat) : State :=
  let p : Part := { cls := cls, unit := unit, idx := idx }
  if s.struct.fieldRepair.length < 64 ∧ !s.struct.fieldRepair.contains p then
    { s with struct := { s.struct with fieldRepair := s.struct.fieldRepair ++ [p] } }
  else s

/-- The slots with a cache entry's counters and marks in its key's record (R610). -/
def saveCounts (slots : List (Nat × KeySlot)) (e : KcEntry) : List (Nat × KeySlot) :=
  match e.hdr with
  | none => slots
  | some hd => slots.map (fun x => (x.1, { x.2 with obj := x.2.obj.map (fun o =>
      if o.handle = e.name then { o with useCount := hd.useCount, counter := hd.counter, useMark := hd.useMark, ctrMark := hd.ctrMark,
                                         ackUse := hd.ackUse, ackCtr := hd.ackCtr, pend := hd.pend } else o) }))

/-- KC_UNCORR: the unpinned entries of the failing row go, their counters to their records; a redundant row takes its place, and without one the
row is excluded. Pinned keys are loaded again at once (R497; log entry 16). -/
def kcRowRepair (s : State) (bank row : Nat) : State :=
  let hit := fun e : KcEntry => !e.pinned && Config.kcInRow [bank, row, e.kind, e.name]
  let s := { s with ks := { s.ks with
    slots := (s.ks.cache.filter hit).foldl saveCounts s.ks.slots
    cache := s.ks.cache.filter (fun e => !hit e) } }
  if s.fc.kcMapped.contains (bank, row) ∨ s.fc.kcLost.contains (bank, row) then s
  else if (s.fc.kcMapped.filter (fun e => e.1 = bank)).length < Config.kcRedundant then
    fieldRepair { s with fc := { s.fc with kcMapped := s.fc.kcMapped ++ [(bank, row)] } } 5 bank row
  else { s with fc := { s.fc with kcLost := s.fc.kcLost ++ [(bank, row)] } }

/-! ## Safe state (R483–R488) -/

/-- The copies of SAFE in the functions' registers. -/
def mirrorAll (s : State) : State := (List.range 64).foldl mirrorSafe s

/-- SAFE in every register of R483. -/
def setSafe (s : State) (b : Bool) : State :=
  mirrorAll (setB (setB (setB s F.SYSCTL_STATE_SAFE b) F.FCOLL_STATUS_SAFE b) F.QMGR_CTRL_SAFE b)

/-- A fatal report whose action is safe state: enter it, or restart its quiet period and raise its exit kind (R483, R485–R487). -/
def enterSafe (s : State) (code kind : Nat) : State :=
  let s := { s with fc := { s.fc with conds := if s.fc.conds.contains code then s.fc.conds else s.fc.conds ++ [code] } }
  let s := setF (setF s F.FCOLL_STATUS_QUIET 1) F.FCOLL_STATUS_EXIT (max kind (getF s F.FCOLL_STATUS_EXIT))
  if inSafe s then s
  else
    let s := setF (setSafe s true) F.FCOLL_STATUS_SAFE_CODE code
    let s := safeQueues { s with fc := { s.fc with cutPending := s.qm.tags.any running, rebuildAsked := false, withheld := false } }
    occur (signalAll s) 0x30A 0 0 code

/-- Safe state ends by an exit (R486, R487). -/
def leaveSafe (s : State) : State :=
  let kind := getF s F.FCOLL_STATUS_EXIT
  let s := setF (setF (setF (setSafe s false) F.FCOLL_STATUS_QUIET 0) F.FCOLL_STATUS_HOLD 0) F.FCOLL_STATUS_EXIT 0
  let s := { s with fc := { s.fc with conds := [], cutPending := false, rebuildAsked := false, withheld := false, safeUp := false } }
  occur (signalAll s) 0x30B 0 0 kind

/-- Count an exit and its time (R487, R488). -/
def countExit (s : State) : State :=
  let t := optime s
  let w := max 60 (getF s F.FCOLL_RLIMIT_WINDOW)
  bump { s with fc := { s.fc with exits := t :: s.fc.exits.filter (fun x => t < x + w) } } F.FCOLL_RECOV_COUNT F.FCOLL_RECOV_SAT

/-- An exit by the held kind: CLEAR leaves at once; REBUILD asks for a Landau rebuild, at whose step 8 safe state ends (R486). -/
def exitSafe (s : State) : State :=
  let s := countExit s
  if getF s F.FCOLL_STATUS_EXIT = 2 then
    landauRebuild (setF { s with fc := { s.fc with rebuildAsked := true } } F.FCOLL_STATUS_QUIET 0)
  else leaveSafe s

/-- Whether LIMIT exits fall within WINDOW; LIMIT 0 sets no limit (R488). -/
def exitLimit (s : State) : Bool :=
  let w := max 60 (getF s F.FCOLL_RLIMIT_WINDOW)
  getF s F.FCOLL_RLIMIT_LIMIT != 0
    && decide (getF s F.FCOLL_RLIMIT_LIMIT ≤ (s.fc.exits.filter (fun x => optime s < x + w)).length)

/-! ## Actions (R479) -/

/-- WCORE_STOP: the standby core takes over; without one the device resets (R414, R415). -/
def takeOver (s : State) : State :=
  if getF s F.WCORE_STATUS_ARR = 1 then
    let s := abandonSuspended s
    raise (setF (setF (setF (setF s F.WCORE_STATUS_STATE_A 3) F.WCORE_STATUS_STATE_B 1) F.WCORE_STATUS_ARR 2) F.WCORE_STOPA_VALID 1) 63
  else deviceReset s F.SYSCTL_RSTCAUSE_CORE_STOP

/-- What a report makes the collector do beyond counting it. -/
def faultAction (s : State) (code unit part : Nat) : State :=
  match code with
  | 0x01 => askSelftest s unit part
  | 0x02 => retireTile s unit part code
  | 0x03 => retireTile s unit part code
  | 0x04 => retireTile (if unit < 16 then stopPart s 1 unit part else stopPart s 2 (unit - 16) part) unit part code
  | 0x06 => if unit < 16 ∧ landauUp s then setF s (F.PKEC_COMB_REFRESH unit) 1 else s
  | 0x08 => dispStop s unit part
  | 0x10 => if unit < 4 ∧ part < 32 then trackPc s unit part code else s
  | 0x11 => if unit < 4 ∧ part < 32 then trackPc s unit part code else s
  | 0x19 => kcRowRepair s unit part
  | 0x28 => takeOver s
  | 0x29 => deviceReset s F.SYSCTL_RSTCAUSE_CORE_STOP
  | _ => if faultExit code = 0 then s else enterSafe s code (faultExit code)

/-- A report as the collector takes it. FCOLL_SELF makes the sequencer reset the device, and is recorded at the next bring-up (R481);
a fatal report of Landau over a drawbar that is down enters safe state by SAFE_UP with code 0, other reports wait there for good (R482);
a reserved code does nothing. -/
def report (s : State) (code unit part : Nat) (forced : Bool) : State :=
  if !faultListed code then s
  else if code = 0x30 then deviceReset { s with fc := { s.fc with selfFault := some (unit, part, forced) } } F.SYSCTL_RSTCAUSE_FAULT
  else if fromLandau code && !s.drawbar.up && !forced then
    if faultClass code = 2 then enterSafe { s with fc := { s.fc with safeUp := true } } 0 (faultExit code) else s
  else
    let s := noteReport s code unit part forced
    faultAction (if faultExit code != 0 && fromLandau code then { s with fc := { s.fc with safeUp := true } } else s) code unit part

/-- A report by hardware or firmware. -/
def faultReport (s : State) (code unit part : Nat) : State := report s code unit part false

end Sys2Proof.Machine
end

