-- ==== Sys2Proof/Machine/TamperCore.lean ====
section
/-!
DEFINITION. TamperCore.lean: tamper events: ranking, responses, evidence, the cell log (R457–R470).
-/
namespace Sys2Proof.Machine

/-- The Floor of a source (R458). -/
def tamperFloor (n : Nat) : Nat :=
  match n with
  | 0 => 2
  | 2 => 2
  | 3 => 2
  | 5 => 4
  | 6 => 3
  | 9 => 2
  | 10 => 3
  | _ => 0

/-- Whether a source runs on the cell alone (R458). -/
def cellSource (n : Nat) : Bool := [1, 2, 4, 5, 7, 8].contains n

/-- Whether a source can trip now: not disabled, its detectors powered, and past step 2 of the Gecko leg or on the cell alone (R59, R458,
R475). -/
def sourceLive (s : State) (n : Nat) : Bool :=
  n < 15 && !isSet s (F.TAMPER_RESP_DISABLED n) && ((geckoUp s && s.power.phase != .off) || (cellUp s && cellSource n))

/-- The response of a source: MAIN or CELL as supplies stand, 6 and 7 as 5, never below the Floor in OWNED and DEPLOYED (R460, R464,
R465). -/
def tamperResp (s : State) (n : Nat) : Nat :=
  let w := min 5 (if geckoUp s then getF s (F.TAMPER_RESP_MAIN n) else getF s (F.TAMPER_RESP_CELL n))
  if life s = 1 ∨ life s = 2 then max w (tamperFloor n) else w

/-- Enter an event in the cell log; full, it counts the loss in its last entry (R470). -/
def logCell (s : State) (resp sources : Nat) : State :=
  let l := s.tamper.cellLog
  let l := if l.length < 16 then
      l ++ [{ seconds := rtc s, overflow := false, lost := 0, executed := resp, sources := sources }]
    else l.mapIdx (fun i e => if i = 15 then { e with overflow := true, lost := min 255 (e.lost + 1) } else e)
  setF { s with tamper := { s.tamper with cellLog := l } } F.TAMPER_STATUS_CELL_EVENTS 1

/-- Program the lowest unprogrammed evidence bits, at most `k` of them, until `n` are programmed (R467). -/
def evidenceUp (n k : Nat) (b : FuseBits) : FuseBits :=
  (List.range k).foldl (fun (b : FuseBits) _ =>
    if evidenceCount b < n then
      match lowestClear b.evidence.toNat 256 with
      | none => b
      | some i => { b with evidence := b.evidence ||| BitVec.ofNat 256 (2 ^ i) }
    else b) b

/-- Program evidence bits until PROGRAMMED equals TARGET; at 256 the counter is full (R467, R468). -/
def programEvidence (s : State) : State :=
  let n := getF s F.TAMPER_EVID_TARGET
  let s := loadFuseRegs { s with fuse := { s.fuse with arr := evidenceUp n n s.fuse.arr, shadow := evidenceUp n n s.fuse.shadow } }
  if getF s F.TAMPER_EVID_PROGRAMMED = 256 ∧ !isSet s F.TAMPER_EVID_FULL then
    occur (setF (setF s F.TAMPER_EVID_FULL 1) F.TAMPER_STATUS_EVID_FULL 1) 0x307 0 0 256
  else s

/-- Whether the fuses can be programmed: main power is good and step 3 of the Gecko leg is over. -/
def fusesUp (s : State) : Bool := geckoUp s && s.power.phase != .off && s.power.phase != .held

/-- One more evidence bit (R467, R468). -/
def addEvidence (s : State) : State :=
  let s := if isSet s F.TAMPER_EVID_FULL ∨ 256 ≤ getF s F.TAMPER_EVID_TARGET then s
    else setF s F.TAMPER_EVID_TARGET (getF s F.TAMPER_EVID_TARGET + 1)
  if fusesUp s then programEvidence s else s

/-- BK and the acknowledgement marks are destroyed, ZPEND set (R460, R469). -/
def cellZeroise (s : State) : State :=
  let s := { s with tamper := { s.tamper with bk := none, ackMarks := [] } }
  setF (setF s F.TAMPER_STATUS_BK_VALID 0) F.TAMPER_STATUS_ZPEND 1

/-- Whether a response that runs covers one: the event is recorded, and nothing further is executed (R463). -/
def respCovered (s : State) (r : Nat) : Bool := s.tamper.resp != 0 && r ≤ s.tamper.resp

/-- Execute a response with main power, over one that runs only what that one does not cover; its flash erases run until ZEROISE_ALL_COMPLETE,
which makes the reset. Before step 2 of the Gecko leg a reset is in progress, and at step 2 the relay is held in its place (R58, R460,
R461, R463, R466). -/
def mainRespond (s : State) (r : Nat) : State :=
  let s := if 1 ≤ r then raise s 5 else s
  let s := if r = 3 then zeroiseWorking s else if 4 ≤ r ∧ s.tamper.resp < 4 then zeroiseAllStart s else s
  let s := if 3 ≤ r then { s with drawbar := { s.drawbar with keys := none } } else s
  let s := if r = 5 then setF s F.TAMPER_STATUS_LOCKED 1 else s
  if r < 2 || s.power.phase = .off then s
  else if 4 ≤ r && isSet s F.FLASHC_CTRL_ZLOCK then { s with tamper := { s.tamper with resp := r } }
  else if s.power.phase = .held then setF s F.TAMPER_STATUS_HOLD 1
  else deviceReset s F.SYSCTL_RSTCAUSE_TAMPER

/-- Execute a response on the cell alone (R469). -/
def cellRespond (s : State) (r : Nat) : State :=
  let s := if 2 ≤ r then noteCause s F.SYSCTL_RSTCAUSE_TAMPER else s
  let s := if 4 ≤ r then cellZeroise s else s
  if r = 5 then setF s F.TAMPER_STATUS_LOCKED 1 else s

/-- One event of the sources that trip together; the response executed is the most severe of theirs, none where one that runs covers it (R457,
R460–R469). -/
def tamperEvent (s : State) (srcs : List Nat) (forced : Bool) : State :=
  if srcs.isEmpty then s
  else
    let ranked := (srcs.map (tamperResp s)).foldl max 0
    let r := if respCovered s ranked then 0 else ranked
    let mask := (srcs.map (fun n => 2 ^ n)).foldl (· ||| ·) 0
    let evid := 3 ≤ r || srcs.any (fun n => isSet s (F.TAMPER_RESP_EVID n))
    let main := geckoUp s
    let s := setF s F.TAMPER_ALARM_LATCHED (getF s F.TAMPER_ALARM_LATCHED ||| mask)
    let s := srcs.foldl (fun t n => bump t (F.TAMPER_COUNT_COUNT n) (F.TAMPER_COUNT_SAT n)) s
    let s := setB (setF (setF s F.TAMPER_LAST_SOURCES mask) F.TAMPER_LAST_EXECUTED r) F.TAMPER_LAST_CELL (!main)
    let s := if main then
        srcs.foldl (fun t n => occurAt t (0x200 + n) (if forced then evFORCED else 0) 0 0 (mask * 65536 + r) (rtc t)) s
      else logCell s r mask
    let s := if evid then addEvidence s else s
    if !main then cellRespond s r else if respCovered s ranked then s else mainRespond s r

/-- TAMPER_ALARM.TRIPPED shows what is tripped now. -/
def showTripped (s : State) : State := setF s F.TAMPER_ALARM_TRIPPED (s.tamper.tripA ||| s.tamper.tripB).toNat

/-- Whether a source is tripped. -/
def tripped (s : State) (n : Nat) : Bool := s.tamper.tripA.getLsbD n || s.tamper.tripB.getLsbD n

/-- A trip of the L9's own logic or of a force: it makes an event unless the source is tripped already, and is clear again at once. -/
def tripOnce (s : State) (n : Nat) (forced : Bool) : State :=
  if sourceLive s n && !tripped s n then tamperEvent s [n] forced else s

/-- A trip by the L9's own logic. -/
def tamperTrip (s : State) (n : Nat) : State := tripOnce s n false

end Sys2Proof.Machine
end

