-- ==== Sys2Proof/Machine/PowerBase.lean ====
section
/-!
DEFINITION. PowerBase.lean: power domains, the POWER section, grants and voltage steps as routes meet them (R514–R519, R523).
-/
namespace Sys2Proof.Machine

/-! ## Domains (R515, R523) -/

/-- Whether a power domain is powered. -/
def domainOn (s : State) (pd : Nat) : Bool := (getF s (F.PWRARB_DOMSTATE_ON (pd / 32))).testBit (pd % 32)

/-- Power a domain or switch it off. -/
def setDomainOn (s : State) (pd : Nat) (on : Bool) : State :=
  let f := F.PWRARB_DOMSTATE_ON (pd / 32)
  setF s f (if on then setBitN (getF s f) (pd % 32) else clrBitN (getF s f) (pd % 32))

/-- The domain of a cluster: class 1 public-key, 2 cipher/hash, 3 a dispatch group. -/
def unitDomain (cls u : Nat) : Nat := match cls with | 1 => u | 2 => 16 + u | _ => 40 + u

/-- Whether a cluster's domain is powered. -/
def clusterOn (s : State) (cls u : Nat) : Bool := domainOn s (unitDomain cls u)

/-- The route, elastic and reserve classes; every other domain is fixed. -/
def routeDom (d : Nat) : Bool := d < 24
def elasticDom (d : Nat) : Bool :=
  d = 24 || d = 26 || d = 28 || d = 30 || (32 ≤ d && d ≤ 43) || d = 45 || d = 46
def reserveDom (d : Nat) : Bool := d = 47 || (69 ≤ d && d ≤ 78)

/-! ## The POWER section (R516) -/

/-- The POWER section in force: STRUCT's while Landau is built, else the image's. -/
def powerSec (s : State) : Bytes :=
  if s.struct.built.isEmpty then (s.image.map (fun i => sectionOr i.bytes 7)).getD [] else sec s.struct.built 7

/-- Fields of the block of a mode. -/
def pwCap (b : Bytes) (m : Nat) : Nat := leAt b (16 + 336 * m) 2
def pwVid (b : Bytes) (m : Nat) : Nat := leAt b (18 + 336 * m) 2
def pwPke (b : Bytes) (m : Nat) : Nat := leAt b (20 + 336 * m) 2
def pwCip (b : Bytes) (m : Nat) : Nat := byteAt b (22 + 336 * m)
def pwBase (b : Bytes) (m d : Nat) : Nat := leAt b (32 + 336 * m + 4 * d) 2
def pwMax (b : Bytes) (m d : Nat) : Nat := leAt b (34 + 336 * m + 4 * d) 2

/-- Whether the masks of a mode name a cluster domain PD00–PD23. -/
def modeNames (b : Bytes) (m d : Nat) : Bool := if d < 16 then (pwPke b m).testBit d else (pwCip b m).testBit (d - 16)

/-! ## Voltage steps (R519) -/

/-- The token factor of a step, in hundredths. -/
def tokenFactor (step : Nat) : Nat := ([100, 85, 72, 60, 50, 41, 33, 26][step]?).getD 26

/-- The steps whose voltage is not below 0.60 V for a VDD_L target in mV; step 0 always. -/
def allowedSteps (vid : Nat) : List Nat := (List.range 8).filter (fun k => k = 0 || 600 + 25 * k ≤ vid)

/-- The step a domain takes for a demand and a grant: the lowest-numbered one that fits, else the lowest allowed. -/
def stepFor (vid demand grant : Nat) : Nat :=
  let l := allowedSteps vid
  (l.find? (fun k => demand * tokenFactor k ≤ 100 * grant)).getD ((l.getLast?).getD 0)

/-! ## Tokens (R31, R89, R519) -/

/-- TOKENS of an opcode's route of a class in the current mode. -/
def opcodeTokens (s : State) (op cls : Nat) : Nat :=
  (((routeIndex (sec s.struct.built 5)).find? (fun e => e.opcode = op && e.mode = getF s F.PWRARB_STATUS_MODE && e.cls = cls)).map
    (fun e => e.tokens)).getD 0

/-- Step-0 tokens of the routes that run in a cluster. -/
def runningTokens (s : State) (cls u : Nat) : Nat :=
  ((s.qm.tags.filter running).map (fun t =>
    match t.route with
    | some r => (if r.cls = cls ∧ r.unit = u then opcodeTokens s (seOpcode t.entry) r.mode else 0)
        + (match r.also with
          | some a => if cls = 2 ∧ a.unit = u then opcodeTokens s a.op a.cls else 0
          | none => 0)
    | none => 0)).foldl (· + ·) 0

/-- Whether a route of n tokens may start in a cluster: its step's tokens fit the grant beside those that run; none starts in throttle
stage 3 (R519, R529). -/
def tokensAllow (s : State) (cls u n : Nat) : Bool :=
  let d := unitDomain cls u
  getF s F.PWRARB_STATUS_STAGE != 3
    && decide ((runningTokens s cls u + n) * tokenFactor (getF s (F.PWRARB_GRANT_STEP d)) ≤ 100 * getF s (F.PWRARB_GRANT_GRANT d))

/-! ## cap_eff (R518, R522, R529) -/

/-- What a throttle stage leaves of CAP, in percent. -/
def stagePercent (n : Nat) : Nat := match n with | 0 => 100 | 1 => 85 | _ => 70

/-- cap_eff: CAP of the mode, reduced by cap excesses and by the throttle stage, multiplied (R530). -/
def capEff (s : State) : Nat :=
  pwCap (powerSec s) (getF s F.PWRARB_STATUS_MODE) * (100 - s.arb.cut) * stagePercent (getF s F.PWRARB_STATUS_STAGE) / 10000

/-- PWRARB_POOL.CAP_EFF shows it. -/
def showCap (s : State) : State := setF s F.PWRARB_POOL_CAP_EFF (capEff s)

/-- Take a throttle stage; a rise is an entry, counted, with source 2 (R529). -/
def setStage (s : State) (n : Nat) : State :=
  let old := getF s F.PWRARB_STATUS_STAGE
  let s := setF s F.PWRARB_STATUS_STAGE n
  showCap (if old < n then raise (bump s F.PWRARB_THROTTLES_COUNT F.PWRARB_THROTTLES_SAT) 2 else s)

end Sys2Proof.Machine
end

