-- ==== Sys2Proof/Machine/Mpu.lean ====
section
/-!
DEFINITION. Mpu.lean: the world fence, the memory protection units and the stage-table arbiters (R418–R433).
-/
namespace Sys2Proof.Machine

/-! ## Regions and rights (R423–R425) -/

/-- The name of a region of a master of MPU_G (0) or MPU_L (1). -/
def mpuKey (mpu m r : Nat) : Nat := (mpu * 32 + m) * 16 + r

/-- The sizes an enabled region may have. -/
def mpuSizeOk (mpu n : Nat) : Bool := 12 ≤ n && n ≤ (if mpu = 0 then 32 else 40)

/-- The region in force. -/
def mpuRegion (s : State) (mpu m r : Nat) : MpuRegion := mapGet s.mpu.act (mpuKey mpu m r) MpuRegion.off

/-- Whether a region claims an address for a warden access of a world, or for another master (R423). -/
def claims (mpu : Nat) (x : MpuRegion) (world : Option Nat) (a : Nat) : Bool :=
  mpuSizeOk mpu x.size && x.base ≤ a && a < x.base + 2 ^ x.size
    && !x.attr.testBit (24 + (a - x.base) / 2 ^ (x.size - 3))
    && (match world with
        | none => true
        | some w => x.attr.testBit (if w = 0 then 8 else 9))

/-- The region that decides an address: the claiming one with the highest number (R424). -/
def decider (s : State) (mpu m : Nat) (world : Option Nat) (a : Nat) : Option Nat :=
  ((List.range 16).reverse).find? (fun r => claims mpu (mpuRegion s mpu m r) world a)

/-- Whether an access to an address is allowed: `kind` 0 read, 1 write, 2 fetch; supervisor level unless `user` (R424). -/
def mpuAllows (s : State) (mpu m : Nat) (world : Option Nat) (user : Bool) (kind a : Nat) : Bool :=
  match decider s mpu m world a with
  | none => true
  | some r => (mpuRegion s mpu m r).attr.testBit (if user then kind else 4 + kind)

/-- The parts of an access: no region boundary lies within 512 bytes that start at a multiple of 512 (R423, R425); `fuel` bounds
their number. -/
def mpuParts : Nat → Nat → Nat → List (Nat × Nat)
  | 0, _, _ => []
  | fuel + 1, a, n =>
    if n = 0 then []
    else if n ≤ 512 - a % 512 then [(a, n)]
    else (a, 512 - a % 512) :: mpuParts fuel (a + (512 - a % 512)) (n - (512 - a % 512))

/-- All parts of an access. -/
def partsOf (a n : Nat) : List (Nat × Nat) := mpuParts (n / 512 + 2) a n

/-- The first denied part of an access. -/
def firstDenied (s : State) (mpu m : Nat) (world : Option Nat) (user : Bool) (kind a n : Nat) : Option Nat :=
  ((partsOf a n).find? (fun p => !mpuAllows s mpu m world user kind p.1)).map (fun p => p.1)

/-! ## Violations (R426) -/

/-- A violation to record: 0 an MPU denial, 1 a fence refusal; access; world and level; master; deciding region; address. -/
structure Viol where
  kind : Nat
  write : Bool
  fetch : Bool
  w : Nat
  l : Nat
  master : Nat
  region : Nat
  addr : Nat
  deriving DecidableEq, Repr

/-- Record a violation of MPU_G: the first is kept and raises source 10, later ones count (R426). -/
def violG (s : State) (v : Viol) : State :=
  if isSet s F.MPU_G_VIOL_VALID then bump s F.MPU_G_VCOUNT_COUNT F.MPU_G_VCOUNT_SAT
  else
    let s := setF (setF (setB (setB s F.MPU_G_VIOL_WRITE v.write) F.MPU_G_VIOL_FETCH v.fetch) F.MPU_G_VIOL_KIND v.kind) F.MPU_G_VIOL_W v.w
    let s := setF (setF (setF s F.MPU_G_VIOL_L v.l) F.MPU_G_VIOL_MASTER v.master) F.MPU_G_VIOL_REGION v.region
    raise (setF (setF s F.MPU_G_VIOL_ADDR v.addr) F.MPU_G_VIOL_VALID 1) 10

/-- The same for MPU_L, whose first violation is reported (R426, R479). -/
def violL (s : State) (v : Viol) : State :=
  if isSet s F.MPU_L_VIOL_VALID then bump s F.MPU_L_VCOUNT_COUNT F.MPU_L_VCOUNT_SAT
  else
    let s := setF (setF (setB (setB s F.MPU_L_VIOL_WRITE v.write) F.MPU_L_VIOL_FETCH v.fetch) F.MPU_L_VIOL_KIND v.kind) F.MPU_L_VIOL_W v.w
    let s := setF (setF (setF s F.MPU_L_VIOL_L v.l) F.MPU_L_VIOL_MASTER v.master) F.MPU_L_VIOL_REGION v.region
    faultReport (setF (setF s F.MPU_L_VIOL_ADDR v.addr) F.MPU_L_VIOL_VALID 1) 0x20 0 v.master

/-- Record a violation on a die. -/
def violation (s : State) (mpu : Nat) (v : Viol) : State := if mpu = 0 then violG s v else violL s v

/-- The violation a denied address of a master that is no core makes; world Sealed, level supervisor (log entry 36). -/
def masterViol (s : State) (mpu m kind a : Nat) : Viol :=
  { kind := 0, write := kind = 1, fetch := false, w := 1, l := 1, master := m, region := (decider s mpu m none a).getD 0x1F, addr := a }

/-- Record every denied part of an access of a master that is no core. -/
def recordDenied (s : State) (mpu m kind a n : Nat) : State :=
  (partsOf a n).foldl (fun t p => if mpuAllows s mpu m none false kind p.1 then t else violation t mpu (masterViol s mpu m kind p.1)) s

/-- Whether every part of an access of a Gecko master that is no core is allowed. -/
def masterOk (s : State) (m kind a n : Nat) : Bool := (partsOf a n).all (fun p => mpuAllows s 0 m none false kind p.1)

/-- A read by a Gecko master that is no core: denied parts return zeros (R425). -/
def masterRead (s : State) (m a n : Nat) : Bytes × State :=
  ((partsOf a n).flatMap (fun p => if mpuAllows s 0 m none false 0 p.1 then geckoBytes s p.1 p.2 else zeros p.2),
    recordDenied s 0 m 0 a n)

/-- A write by a Gecko master that is no core: denied parts are suppressed (R425). -/
def masterWrite (s : State) (m a : Nat) (b : Bytes) : State :=
  recordDenied ((partsOf a b.length).foldl
    (fun t p => if mpuAllows s 0 m none false 1 p.1 then geckoWrite t p.1 (slice b (p.1 - a) p.2) else t) s) 0 m 1 a b.length

/-! ## Changing the rules (R427, R428) -/

/-- A shadow region of MPU_G. -/
def shadowG (s : State) (m r : Nat) : MpuRegion :=
  { base := getF s (F.MPU_G_ADDR_BASE m r) * 4096, size := getF s (F.MPU_G_ADDR_SIZE m r),
    attr := readReg s Blk.MPU_G (0x108 + m * 0x100 + r * 0x10) }

/-- A shadow region of MPU_L. -/
def shadowL (s : State) (m r : Nat) : MpuRegion :=
  { base := getF s (F.MPU_L_ADDR_BASE m r) * 4096, size := getF s (F.MPU_L_ADDR_SIZE m r),
    attr := readReg s Blk.MPU_L (0x1008 + m * 0x100 + r * 0x10) }

/-- A shadow region. -/
def shadow (s : State) (mpu m r : Nat) : MpuRegion := if mpu = 0 then shadowG s m r else shadowL s m r

/-- Whether step 2 finds a region invalid (R427): SIZE 0 and 1–11 disable nothing else to check; otherwise SIZE in range, BASE
aligned. -/
def badRegion (mpu : Nat) (x : MpuRegion) : Bool :=
  x.size ≥ 12 && (!mpuSizeOk mpu x.size || x.base % 2 ^ x.size != 0 || (mpu = 0 && 2 ^ 32 ≤ x.base))

/-- The regions of the masters of a sync, lowest first. -/
def syncRegions (mpu masters : Nat) : List (Nat × Nat) :=
  ((List.range (if mpu = 0 then 10 else 24)).filter (fun m => masters.testBit m)).flatMap (fun m => (List.range 16).map (fun r => (m, r)))

/-- Masters of the pending sync. -/
def pendOf (s : State) (mpu : Nat) : Nat := if mpu = 0 then s.mpu.pendG else s.mpu.pendL

/-- Set the masters of the pending sync, and its regions as they stand; PENDING follows. -/
def setPend (s : State) (mpu masters : Nat) (snap : List (Nat × MpuRegion)) : State :=
  let keep := s.mpu.snap.filter (fun e => e.1 / 512 != mpu)
  let s := { s with mpu := if mpu = 0 then { s.mpu with pendG := masters, snap := keep ++ snap }
                           else { s.mpu with pendL := masters, snap := keep ++ snap } }
  setB s (if mpu = 0 then F.MPU_G_SYNC_PENDING else F.MPU_L_SYNC_PENDING) (masters != 0)

/-- Note a refused sync (R427 step 2). -/
def syncErr (s : State) (mpu m r : Nat) : State :=
  if mpu = 0 then setF (setF (setF s F.MPU_G_SYNC_ERR 1) F.MPU_G_SYNCERR_MASTER m) F.MPU_G_SYNCERR_REGION r
  else setF (setF (setF s F.MPU_L_SYNC_ERR 1) F.MPU_L_SYNCERR_MASTER m) F.MPU_L_SYNCERR_REGION r

/-- MPU_SYNC: step 2 of R427 on the masters named and, when a sync is pending, on its masters too (R428): an invalid region sets ERR
and nothing is applied; otherwise the regions wait for application. -/
def execMpuSync (landau : Bool) (masters : BitVec 24) (s : State) : Res :=
  let mpu := if landau then 1 else 0
  let all := (masters.toNat % 2 ^ (if landau then 24 else 10)) ||| pendOf s mpu
  let s := setF s (if landau then F.MPU_L_SYNC_ERR else F.MPU_G_SYNC_ERR) 0
  .next (match (syncRegions mpu all).find? (fun p => badRegion mpu (shadow s mpu p.1 p.2)) with
    | some (m, r) => syncErr (setPend s mpu 0 []) mpu m r
    | none => setPend s mpu all ((syncRegions mpu all).map (fun p => (mpuKey mpu p.1 p.2, shadow s mpu p.1 p.2))))

/-- MPU_SYNC_APPLY: once the masters' checked accesses have completed, the regions of the pending sync come into force at once; MPU_L
raises dispatch source 3 (R427 step 3). -/
def execMpuSyncApply (landau : Bool) (s : State) : Res :=
  let mpu := if landau then 1 else 0
  let masters := pendOf s mpu
  if masters = 0 then .next s
  else
    let mine := s.mpu.snap.filter (fun e => e.1 / 512 = mpu)
    let s := { s with mpu := { s.mpu with act := mine.foldl (fun l e => mapSet l e.1 (if mpuSizeOk mpu e.2.size then e.2 else MpuRegion.off) MpuRegion.off) s.mpu.act } }
    let s := setPend s mpu 0 []
    .next (if landau then raiseDisp s 3 masters else s)

/-- MPU_VIOL_CLEAR: a write of 1 to VALID clears the record and VCOUNT together (R426). -/
def execMpuViolClear (landau : Bool) (s : State) : Res :=
  let blk := if landau then Blk.MPU_L else Blk.MPU_G
  .next (resetRegs s (fun b off => b = blk && (off = 0x10 || off = 0x18)))

/-! ## The world fence (R418–R421) -/

/-- WORLD and MINLEVEL of a Gecko block: byte n of the fence array. -/
def fenceBlock (s : State) (n : Nat) : Nat := getF s (F.MPU_G_GFENCE_WORD (n / 4)) / 2 ^ (8 * (n % 4)) % 256

/-- The fence entry of an SRAM or flash address; Sealed, supervisor where no range covers it (R420). -/
def fenceRange (s : State) (a : Nat) : Nat :=
  match (List.range 16).find? (fun i =>
    let base := getF s (F.MPU_G_GRANGE_WORD (2 * i)) / 4096 * 4096
    base ≤ a && a < base + getF s (F.MPU_G_GRANGE_WORD (2 * i + 1))) with
  | none => 5
  | some i => getF s (F.MPU_G_GRANGE_WORD (2 * i)) % 8

/-- The fence entry of the k-th Landau block, from the section in force; Sealed, supervisor before (R421). -/
def fenceLandau (s : State) (k : Nat) : Nat :=
  let b := sec s.struct.built 0xA
  match (List.range (leAt b 0 2)).find? (fun i => byteAt b (16 + 16 * i) = 1 && leAt b (20 + 16 * i) 2 = 0x100 + k) with
  | none => 5
  | some i => byteAt b (17 + 16 * i) + 4 * byteAt b (18 + 16 * i)

/-- Whether an entry admits a core's world and level (R418). -/
def fencePass (entry world level : Nat) : Bool := (entry % 4 = 2 || entry % 4 = world) && entry / 4 % 2 ≤ level

/-! ## Arbiters (R429–R433) -/

/-- Slot and rank bytes of an arbiter: STAGE0–3, then Gecko arbiters 0 and 1. -/
def arbSlot (s : State) (n p : Nat) : Nat :=
  if n < 4 then readReg s (Blk.STAGE + n) (0x100 + p / 4 * 4) / 2 ^ (8 * (p % 4)) % 256
  else if n = 4 then getF s (F.ARB0_SLOT_WORD (p / 4)) / 2 ^ (8 * (p % 4)) % 256
  else getF s (F.ARB1_SLOT_WORD (p / 4)) / 2 ^ (8 * (p % 4)) % 256

/-- The owner at a rank. -/
def arbRank (s : State) (n i : Nat) : Nat :=
  if n < 4 then readReg s (Blk.STAGE + n) (0x200 + i / 4 * 4) / 2 ^ (8 * (i % 4)) % 256
  else if n = 4 then getF s (F.ARB0_RANK_WORD (i / 4)) / 2 ^ (8 * (i % 4)) % 256
  else getF s (F.ARB1_RANK_WORD (i / 4)) / 2 ^ (8 * (i % 4)) % 256

/-- The background ranking: the listed owners, then the others, the lower number first (R430). -/
def ranking (s : State) (n : Nat) : List Nat :=
  let listed := ((List.range (if n < 4 then 32 else 12)).map (arbRank s n)).filter (fun o => o < 32)
  listed ++ (List.range 32).filter (fun o => !listed.contains o)

/-- Pointer P and holder of an arbiter. -/
def arbState (s : State) (n : Nat) : Nat × Nat :=
  if n < 4 then (getF s (F.STAGE_STATUS_SLOT n), getF s (F.STAGE_STATUS_OWNER n))
  else if n = 4 then (s.mpu.p0, s.mpu.h0) else (s.mpu.p1, s.mpu.h1)

/-- Set pointer and holder. -/
def setArb (s : State) (n p h : Nat) : State :=
  if n < 4 then setF (setF s (F.STAGE_STATUS_SLOT n) p) (F.STAGE_STATUS_OWNER n) h
  else if n = 4 then { s with mpu := { s.mpu with p0 := p, h0 := h } } else { s with mpu := { s.mpu with p1 := p, h1 := h } }

/-- ARBITER_DECISION: with the owners that request now; a holder that still requests keeps its grant; otherwise slot P's owner is
granted when it requests, else the highest-ranked requester, and P advances; with no request the port is free and P stays (R430,
R431). -/
def execArbiterDecision (arb : Fin 6) (req : W32) (s : State) : Res :=
  let (p, h) := arbState s arb.val
  let asks := fun o => o < 32 && req.toNat.testBit o
  .next (if asks h then s
    else if req = 0 then setArb s arb.val p 0xFF
    else if asks (arbSlot s arb.val p) then setArb s arb.val ((p + 1) % 256) (arbSlot s arb.val p)
    else setArb s arb.val ((p + 1) % 256) (((ranking s arb.val).find? asks).getD 0xFF))

end Sys2Proof.Machine
end

