-- ==== Sys2Proof/Machine/Route.lean ====
section
/-!
DEFINITION. Route.lean: how an opcode starts: its tag, the order of its checks, the part its route runs on, its variant (R24–R28,
R119–R123, R133, R186, R605).
-/
namespace Sys2Proof.Machine

/-- The first outcome among checks in order (R121). -/
def firstSome {α : Type} : List (Option α) → Option α
  | [] => none
  | some a :: _ => some a
  | none :: t => firstSome t

/-- A check: the outcome when it fails. -/
def chk (bad : Bool) (o : Outcome) : Option Outcome := if bad then some o else none

/-- A field outside its range: BAD_FIELD with its offset. -/
def badField (bad : Bool) (off : Nat) : Option Outcome := chk bad (outBad stBAD_FIELD off)

/-- The output buffer shorter than needed: BAD_LENGTH with the length in RESULT (R133). -/
def shortOut (e : Bytes) (need : Nat) : Option Outcome :=
  chk (seOutLen e < need) { (outBad stBAD_LENGTH 0x34) with result := need }

/-- The input length wrong: BAD_LENGTH. -/
def badInLen (bad : Bool) : Option Outcome := chk bad (outBad stBAD_LENGTH 0x30)

/-- Operand bytes outside the fields the opcode has are zero (R114): the first one that is not. -/
def spareOperands (e : Bytes) (spans : List (Nat × Nat)) : Option Outcome :=
  ((List.range 0x40).find? (fun i => byteAt e (0x40 + i) != 0
    && !spans.any (fun p => p.1 ≤ 0x40 + i && 0x40 + i < p.1 + p.2))).map (fun i => outBad stBAD_FIELD (0x40 + i))

/-- The metered opcodes (R242). -/
def isMetered (op : Nat) : Bool := (0x58 ≤ op && op ≤ 0x5B) || (0x70 ≤ op && op ≤ 0x74)

/-- The operating mode: 0 Express, 1 Steady, 2 Frugal, 3 Fortress. -/
def mode (s : State) : Nat := getF s F.PWRARB_STATUS_MODE

/-- The world of a command's key domain (R104). -/
def tagWorld (s : State) (t : TagEntry) : Nat := domWorld s.struct.built (seDomain t.entry)

/-- The index entries of an opcode and class in the current mode (R24, R89). -/
def routesFor (s : State) (op cls : Nat) : List RouteIdx :=
  (routeIndex (sec s.struct.built 5)).filter (fun e => e.opcode = op && e.mode = mode s && e.cls = cls)

/-- Power tokens a route of an opcode needs. -/
def routeTokens (s : State) (op cls : Nat) : Nat := (((routesFor s op cls).head?).map (fun e => e.tokens)).getD 0

/-- The instance of a dispatch core's group (08). -/
def groupInst (core : Nat) : Nat := 24 + core / 5

/-- The variant chosen: in Fortress by a request to the group's generator, 0 elsewhere (R26, R269). -/
def pickVariant (s : State) (t : TagEntry) (cls : Nat) : Nat × State :=
  if mode s = 3 then
    let (n, s) := drbgBits s (groupInst t.core) 32
    (n % max 1 (routesFor s (seOpcode t.entry) cls).length, s)
  else (0, s)

/-- The instance of a cluster (08). -/
def unitInst (cls unit : Nat) : Nat := if cls = 1 then unit else 16 + unit

/-- How often each step of a route runs for a message of n bytes: the body of its BLOCKS step once for each message block (R229, R230). -/
def stepCounts (st : List StepWord) (n : Nat) : List (StepWord × Nat) :=
  match st.findIdx? (fun w => w.kind = 0 && w.op = 0x1F) with
  | none => st.map (fun w => (w, 1))
  | some i =>
    let w := (st[i]?).getD (stepOf 0)
    let blocks := max 1 ((n + max 1 w.b - 1) / max 1 w.b)
    st.zipIdx.map (fun p => (p.1, if i < p.2 && p.2 ≤ w.a then blocks else 1))

/-- The requests a route makes of its cluster's instance for a message of n bytes: the RAND steps of a public-key route, the 512-bit refills that
the RAND steps of a cipher route need (R269, R270). -/
def routeRands (s : State) (cls op rcls n : Nat) : Nat :=
  match (routesFor s op rcls).head? with
  | none => 0
  | some e =>
    let l := (stepCounts (routeSteps (sec s.struct.built 5) e) n).filter (fun p => p.1.kind = 0 && p.1.op = 0x10)
    if cls = 1 then (l.map (fun p => p.2)).sum else ((l.map (fun p => p.1.b * p.2)).sum + 511) / 512

/-- The requests that running routes will still make of an instance (R270). -/
def outstanding (s : State) (i : Nat) : Nat :=
  ((s.qm.tags.filter running).map (fun t =>
    match t.route with
    | none => 0
    | some r => (if r.cls != 3 && unitInst r.cls r.unit = i then r.rands else 0)
        + (match r.also with
          | some a => if unitInst 2 a.unit = i then a.rands else 0
          | none => 0))).sum

/-- Whether an instance can serve n requests beside those running routes will make, without passing the hard limit (R268, R270). -/
def rngAllows (s : State) (i n : Nat) : Bool := rngServes s i (outstanding s i + n)

/-- Whether no route runs on a part: a public-key tile takes one route, a cipher tile one a context slot. -/
def partIdle (s : State) (cls unit tile slot : Nat) : Bool := !routeOn s cls unit tile slot

/-- Whether a tile is under its self-test. -/
def underTest (s : State) (cls unit tile : Nat) : Bool :=
  match cls with
  | 1 => (getF s (F.PKEC_STATUS_TESTING unit)).testBit tile
  | 2 => (getF s (F.CIPC_STATUS_TESTING unit)).testBit tile
  | _ => false

/-- Whether a tile serves a world at all: active, of the world, its cluster powered in this mode. -/
def tileServes (s : State) (cls w unit tile : Nat) : Bool :=
  unit < classUnits cls && partServes s cls unit tile && unitWorld s cls unit = w && clusterOn s cls unit

/-- Whether some active tile of a class serves a world; without one a command completes RESOURCE (R121, R186). -/
def classServes (s : State) (cls w : Nat) : Bool :=
  (List.range (classUnits cls)).any (fun u => unitWorld s cls u = w && unitActive s cls u != 0)

/-- RESOURCE when a tile class has no active tile serving the world. -/
def needClass (s : State) (cls w : Nat) : Option Outcome := chk (!classServes s cls w) (outStatus stRESOURCE)

/-! ## Urgent commands and long routes (R230, R236, R237) -/

/-- The index entry of a route; variants have equal length (R91). -/
def routeEntry (s : State) (op rcls : Nat) : Option RouteIdx := (routesFor s op rcls).head?

/-- DURATION of a route for a message of IN_LEN bytes, in ns: DURATION + (N − 1) × T over the body of its BLOCKS step (R230). -/
def routeTime (s : State) (op rcls inLen : Nat) : Nat :=
  match routeEntry s op rcls with
  | none => 0
  | some e =>
    let st := routeSteps (sec s.struct.built 5) e
    match st.findIdx? (fun w => w.kind = 0 && w.op = 0x1F) with
    | none => e.duration
    | some i =>
      let w := (st[i]?).getD (stepOf 0)
      let body := (st.drop (i + 1)).take (w.a - i)
      let t := (body.map (fun x => if x.scale = 1 then 16 * x.time else x.time)).foldl (· + ·) 0
      e.duration + (max 1 ((inLen + max 1 w.b - 1) / max 1 w.b) - 1) * t

/-- Whether a route is long: it may be suspended; LONG 0 disables suspension (R236). -/
def isLong (s : State) (t : TagEntry) (unit rcls : Nat) : Bool :=
  getF s (F.CIPC_URGENT_LONG unit) != 0
    && decide (getF s (F.CIPC_URGENT_LONG unit) * 1000 < routeTime s (seOpcode t.entry) rcls (seInLen t.entry))

/-- Whether URGENT has effect on a command: range 0x50–0x7F, and a DURATION of at most SHORT (R236). -/
def urgentOk (s : State) (t : TagEntry) (unit rcls : Nat) : Bool :=
  seUrgent t.entry && 0x50 ≤ seOpcode t.entry && seOpcode t.entry < 0x80
    && decide (((routeEntry s (seOpcode t.entry) rcls).map (fun e => e.duration)).getD 0 ≤ 10 * getF s (F.CIPC_URGENT_SHORT unit))

/-- Whether the route in slot 0 of a tile is long. -/
def slot0Long (s : State) (unit tile : Nat) : Bool :=
  s.qm.tags.any (fun t => running t &&
    ((t.route.map (fun r => r.cls = 2 && r.unit = unit && r.tile = tile && r.slot = 0 && r.long)).getD false))

/-- Whether an active tile of a world has both context slots free and takes routes: the first rule for an URGENT route (R236). -/
def someFree (s : State) (w : Nat) : Bool :=
  (List.range 8).any (fun u => (List.range 9).any (fun i =>
    tileServes s 2 w u i && !isSet s (F.CIPC_LOCK_HOLD u i) && partIdle s 2 u i 0 && partIdle s 2 u i 1))

/-- Whether a cipher tile takes a route in a context slot: slot 0 when both are free; slot 1 for an urgent command, when both are
free or, with no such tile in the world, over a long route while the tile's allowance lasts; never on a held tile (R227, R236, R237). -/
def cipTakes (s : State) (t : TagEntry) (w unit tile slot rcls : Nat) : Bool :=
  !isSet s (F.CIPC_LOCK_HOLD unit tile) && partIdle s 2 unit tile 1
    && ((slot = 0 && partIdle s 2 unit tile 0)
      || (slot = 1 && urgentOk s t unit rcls
        && (partIdle s 2 unit tile 0
          || (!someFree s w && slot0Long s unit tile && mapGet s.cip.gap (unit * 16 + tile) 0 = 0))))

/-- Whether a tile takes the part of a route of an opcode and class: it serves the world, is free and not under test, its cluster holds the
tokens and its instance can serve the requests (R122, R270). -/
def tileTakes (s : State) (t : TagEntry) (w cls unit tile slot op rcls : Nat) : Bool :=
  tileServes s cls w unit tile && !underTest s cls unit tile && tokensAllow s cls unit (routeTokens s op rcls)
    && rngAllows s (unitInst cls unit) (routeRands s cls op rcls (seInLen t.entry))
    && (if cls = 2 then cipTakes s t w unit tile slot rcls else partIdle s cls unit tile 0)

/-- Whether a route may start in a world on the parts a run names: class 3 needs no tile, a route on two tiles both; in Fortress the group's
instance must serve the choice of the variant (R122, R270, R605). -/
def canStartIn (s : State) (t : TagEntry) (w cls : Nat) (r : Run) (rcls : Nat) (also : Option (Nat × Nat)) : Bool :=
  (mode s != 3 || rngAllows s (groupInst t.core) 1)
    && (cls = 3 || tileTakes s t w cls r.unit r.tile r.slot (seOpcode t.entry) rcls)
    && (match also with
      | none => true
      | some (op, c) => tileTakes s t w 2 r.unit2 r.tile2 0 op c)

/-- The same for a route on one tile of the world of its command's domain. -/
def canStart (s : State) (t : TagEntry) (cls : Nat) (r : Run) (rcls : Nat) : Bool := canStartIn s t (tagWorld s t) cls r rcls none

/-- The place a run names for a class of part, and for a second tile. -/
def placeOf (s : State) (t : TagEntry) (cls : Nat) (r : Run) (variant rcls : Nat) (also : Option (Nat × Nat)) : RouteAt :=
  { cls := cls, unit := r.unit, tile := r.tile, slot := if cls = 2 then r.slot else 0, variant := variant, mode := rcls,
    long := cls = 2 && isLong s t r.unit rcls, comb := false, forced := false, integrity := false,
    rands := if cls = 3 then 0 else routeRands s cls (seOpcode t.entry) rcls (seInLen t.entry),
    time := routeTime s (seOpcode t.entry) rcls (seInLen t.entry),
    also := also.map (fun a => { unit := r.unit2, tile := r.tile2, op := a.1, cls := a.2, rands := routeRands s 2 a.1 a.2 (seInLen t.entry) }) }

/-- A suspension of slot 0 by a route that starts in slot 1 is counted (R237). -/
def countSusp (s : State) (cls : Nat) (r : Run) : State :=
  if cls = 2 && r.slot = 1 && !partIdle s 2 r.unit r.tile 0 then bump s (F.CIPC_SUSP_COUNT r.unit) (F.CIPC_SUSP_SAT r.unit) else s

/-- The tag a run names, when it waits at a dispatch core with this opcode and routes may start (R28, R119, R121). -/
def readyTag (s : State) (r : Run) (op : Nat) : Option TagEntry :=
  (findTag s r.tag).filter (fun t => t.commit = .waiting && t.done.isNone && t.handed && seOpcode t.entry = op
    && !isSet s F.PWRARB_STATUS_MODE_BUSY && !inSafe s)

/-- The shape of every opcode's meaning: with no such tag nothing happens (log entry 5). -/
def opcodeRow (s : State) (r : Run) (op : Nat) (f : TagEntry → State) : Res :=
  .next (match readyTag s r op with
    | none => s
    | some t => f t)

/-- Commit STARTED on a part of a class when it can start; otherwise the command waits. -/
def commitOn (s : State) (t : TagEntry) (r : Run) (cls rcls : Nat) (o : Outcome) (e : Effect) : State :=
  if canStart s t cls r rcls then
    let (v, s) := pickVariant (countSusp s cls r) t rcls
    startTag s t (placeOf s t cls r v rcls none) o e
  else s

/-- The same for a command that Sealed firmware or the dispatch core serves with no tile (R605). -/
def commitCore (s : State) (t : TagEntry) (r : Run) (o : Outcome) (e : Effect) : State := commitOn s t r 3 0 o e

/-- The input bytes; a failed read completes DMA_ERROR at END (R133, R134). -/
def withInput (r : Run) (n : Nat) (f : Bytes → Outcome × Effect) : Outcome × Effect :=
  match r.input with
  | none => (outStatus stDMA_ERROR, .nothing)
  | some b => f (sliceZ b 0 n)

end Sys2Proof.Machine
end

