-- ==== Sys2Proof/Machine/KeyObj.lean ====
section
/-!
DEFINITION. KeyObj.lean: handles, size classes, key objects and their wrap (R145–R149), key check values.
-/
namespace Sys2Proof.Machine

/-! ## Handles (R145, R146) -/
def hDomain (h : Nat) : Nat := h / 2 ^ 50
def hClass (h : Nat) : Nat := h / 2 ^ 47 % 8
def hIndex (h : Nat) : Nat := h / 2 ^ 10 % 2 ^ 37
def hGen (h : Nat) : Nat := h % 1024
/-- The slot a handle names, as a key of the slot map. -/
def hSlot (h : Nat) : Nat := h / 1024

/-- Record size of a class and its body area (R146). -/
def recSize (c : Nat) : Nat := 128 * 2 ^ c
def bodyArea (c : Nat) : Nat := recSize c - 96

/-! ## Types (R149, R198) -/
def isAes (t : Nat) : Bool := 1 ≤ t && t ≤ 3
def isTdes (t : Nat) : Bool := t = 4 || t = 5
def isEcPriv (t : Nat) : Bool := 0x10 ≤ t && t ≤ 0x12
def isEcPub (t : Nat) : Bool := 0x18 ≤ t && t ≤ 0x1A
def isEc (t : Nat) : Bool := isEcPriv t || isEcPub t
def isRsa (t : Nat) : Bool := t = 0x20 || t = 0x28
def isAsym (t : Nat) : Bool := isEc t || isRsa t
/-- Whether a type value is one of the list. -/
def isType (t : Nat) : Bool := isAes t || isTdes t || t = 6 || isAsym t

/-- L of a curve: by the low two bits of an EC type (R199). -/
def ecL (t : Nat) : Nat := match t % 8 with | 0 => 32 | 1 => 48 | _ => 66
/-- The curve number Config's functions take. -/
def ecCurve (t : Nat) : Nat := match t % 8 with | 0 => 256 | 1 => 384 | _ => 521
/-- The bytes of the RSA public exponent in a key (log entry 15). -/
abbrev rsaE : Nat := 32
/-- Key bytes of a symmetric type: BITS decides for HMAC. -/
def symBytes (t bits : Nat) : Nat :=
  match t with | 1 => 16 | 2 => 24 | 3 => 32 | 4 => 16 | 5 => 24 | _ => bits / 8
/-- The BITS field of a type. -/
def typeBits (t bits : Nat) : Nat :=
  match t with
  | 1 => 128 | 2 => 192 | 3 => 256 | 4 => 128 | 5 => 192
  | _ => if isEc t then ecCurve t else bits
/-- Body bytes of a type: an EC private key is the scalar followed by the public point; an RSA key holds modulus, exponent
and, when private, p, q, d_p, d_q and q^(−1) (log entry 15). -/
def bodyBytes (t bits : Nat) : Nat :=
  if isEcPriv t then ecL t + 1 + 2 * ecL t
  else if isEcPub t then 1 + 2 * ecL t
  else if t = 0x28 then bits / 8 + rsaE
  else if t = 0x20 then bits / 8 + rsaE + 5 * (bits / 16)
  else symBytes t bits
/-- Bytes of the public key of an asymmetric key. -/
def pubBytes (t bits : Nat) : Nat := if isEc t then 1 + 2 * ecL t else bits / 8 + rsaE
/-- The public key within a body. -/
def pubOf (o : KeyObj) : Bytes :=
  if isEcPriv o.typ then o.body.drop (ecL o.typ) else if isRsa o.typ then o.body.take (pubBytes o.typ o.bits) else o.body

/-! ## Usage flags (R149) -/
abbrev uENCRYPT : Nat := 0
abbrev uDECRYPT : Nat := 1
abbrev uWRAP : Nat := 2
abbrev uUNWRAP : Nat := 3
abbrev uSIGN : Nat := 4
abbrev uVERIFY : Nat := 5
abbrev uMAC_GEN : Nat := 6
abbrev uMAC_VERIFY : Nat := 7
abbrev uDERIVE : Nat := 8
abbrev uPIN : Nat := 9
abbrev uPIN_VERIFY : Nat := 10
abbrev uDUKPT_BDK : Nat := 11
abbrev uEMV_MK : Nat := 12
abbrev uKBPK : Nat := 13
abbrev uSTREAM : Nat := 14
abbrev uKEY_AGREE : Nat := 15
/-- Whether a key has a usage flag. -/
def has (o : KeyObj) (u : Nat) : Bool := o.usage.testBit u
/-- A metered key (R151). -/
def metered (o : KeyObj) : Bool := o.useLimit != 0
/-- A key one of the marks governs (R151). -/
def counted (o : KeyObj) : Bool := metered o || has o uSTREAM

/-! ## Blocks and key check values (R148) -/

/-- Eight bytes as a block. -/
def toBlock8 (b : Bytes) : W64 := BitVec.ofNat 64 (beNat (sliceZ b 0 8))
/-- A block as eight bytes. -/
def ofBlock8 (w : W64) : Bytes := beBytes w.toNat 8

/-- Doubling in GF(2^n) for the CMAC subkeys (SP 800-38B), n = 128 or 64. -/
def cmacDbl128 (w : W128) : W128 := if w.getLsbD 127 then (w <<< 1) ^^^ 0x87 else w <<< 1
def cmacDbl64 (w : W64) : W64 := if w.getLsbD 63 then (w <<< 1) ^^^ 0x1B else w <<< 1

/-- AES-CMAC over one zero block. -/
def cmacZero (key : Bytes) : W128 :=
  aesBlock key false (cmacDbl128 (aesBlock key false 0))

/-- The key check value: AES by CMAC, TDES by the encryption of a zero block, 0 for other types (R148). -/
def kcvOf (t : Nat) (key : Bytes) : Nat :=
  if isAes t then leAt (ofBlock (cmacZero key)) 0 4
  else if isTdes t then leAt (ofBlock8 (tdesBlock key false 0)) 0 4
  else 0

/-- Odd parity by the least significant bit (R214). -/
def oddParity (b : Byte) : Byte :=
  if popBits (b.toNat / 2) 7 % 2 = 0 then b ||| 1 else b &&& 0xFE
/-- Whether a byte has odd parity. -/
def hasOddParity (b : Byte) : Bool := popBits b.toNat 8 % 2 = 1

/-! ## Objects -/

/-- The 64-byte header (R148). -/
def objHeader (o : KeyObj) : Bytes :=
  [0x4B, 0x4F, 0x42, 0x4A, 0x01, BitVec.ofNat 8 o.typ] ++ leBytes o.body.length 2 ++ leBytes o.handle 8 ++ leBytes o.usage 8
    ++ leBytes o.useLimit 4 ++ leBytes o.useCount 4 ++ leBytes o.counter 8 ++ leBytes o.storeId 8 ++ leBytes o.version 4
    ++ leBytes o.bits 2 ++ leBytes o.origin 1 ++ leBytes o.attr 1 ++ leBytes o.kcv 4 ++ zeros 4

/-- A header and a body as an object, its marks unset. -/
def objOf (hd body : Bytes) : KeyObj :=
  { handle := leAt hd 8 8, typ := byteAt hd 5, usage := leAt hd 0x10 8, useLimit := leAt hd 0x18 4,
    useCount := leAt hd 0x1C 4, counter := leAt hd 0x20 8, storeId := leAt hd 0x28 8, version := leAt hd 0x30 4,
    bits := leAt hd 0x34 2, origin := byteAt hd 0x36, attr := byteAt hd 0x37, kcv := leAt hd 0x38 4,
    body := body.take (leAt hd 6 2), useMark := 0, ctrMark := 0, ackUse := 0, ackCtr := 0, pend := [] }

/-- The wrap and log keys of a domain: HKDF-SHA-384 of its DMK with the labels "wrap" and "log" (R143). -/
def wrapKeyOf (dmk : Bytes) : Bytes := hkdf384 [] dmk [0x77, 0x72, 0x61, 0x70] 32
def logKeyOf (dmk : Bytes) : Bytes := hkdf384 [] dmk [0x6C, 0x6F, 0x67] 32

/-- The wrapped object (R149): header, IV and 4 zero bytes, encrypted body area, tag. -/
def wrapObj (key iv : Bytes) (o : KeyObj) : Bytes :=
  objHeader o ++ iv ++ zeros 4 ++ gcmSeal key iv (objHeader o) (sliceZ o.body 0 (bodyArea (hClass o.handle)))

/-- Unwrap an object: none when its form or its tag is wrong (R149). -/
def unwrapObj (key b : Bytes) : Option KeyObj :=
  let hd := b.take 64
  if slice b 0 5 ≠ [0x4B, 0x4F, 0x42, 0x4A, 0x01] ∨ !allZero b 0x3C 4 ∨ !allZero b 76 4
      ∨ hClass (leAt b 8 8) > 6 ∨ b.length ≠ recSize (hClass (leAt b 8 8)) then none
  else
    (gcmOpen key (slice b 64 12) hd (slice b 80 (b.length - 96)) (b.drop (b.length - 16))).map (objOf hd)

end Sys2Proof.Machine
end

