-- ==== Sys2Proof/Machine/Blind.lean ====
section
/-!
DEFINITION. Blind.lean: the blinding of public-key routes (R205), RSA keys, the checks before release that a route computes (R207), and
RSA key generation (R216).
-/
namespace Sys2Proof.Machine

/-! ## Blinding (R205) -/

/-- The masking order: 1 in Express, Steady and Frugal, 2 in Fortress (R205). -/
def maskOrder (s : State) : Nat := if mode s = 3 then 2 else 1

/-- n free numbers. -/
def drawMany (s : State) (w : Nat) : Nat → List Nat × State
  | 0 => ([], s)
  | n + 1 =>
    let (x, s) := draw s w
    let (t, s) := drawMany s w n
    (x :: t, s)

/-- Additive shares of a scalar modulo n: random ones and what is left (R205). -/
def splitScalar (n k : Nat) (rs : List Nat) : List Nat :=
  let l := rs.map (fun x => x % n)
  l ++ [(k % n + (l.length * n - l.sum)) % n]

/-- The blinding of a route with a secret scalar: additive shares, each with its own multiple of n, a scale for each, and the factors of a
blinded inversion where it has one; the masking order sets how many and how wide (R205). -/
def ecBlinding (s : State) (c : Curve) (k : Nat) (inv : Bool) : Blinding × State :=
  let o := maskOrder s
  let (rs, s) := drawMany s (bitLen c.n + 64) o
  let (rho, s) := drawMany s (64 * o) (o + 1)
  let (sc, s) := drawMany s (bitLen c.p + 64) (o + 1)
  let (b, s) := drawMany s (bitLen c.n + 64) (if inv then o else 0)
  ({ shares := List.zipWith (fun x r => x + r * c.n) (splitScalar c.n k rs) rho, scales := sc.map (fun x => x % (c.p - 1) + 1)
     inv := b.map (fun x => x % (c.n - 1) + 1), base := [], expo := [] }, s)

/-- The blinding of an RSA private operation: base factors, one in first order and one per CRT half in second, and the multiples added to
d_p and d_q (R205). -/
def rsaBlinding (s : State) (n : Nat) : Blinding × State :=
  let o := maskOrder s
  let (b, s) := drawMany s (bitLen n + 64) o
  let (e, s) := drawMany s (64 * o) 2
  ({ Blinding.none with base := b.map (fun x => x % n), expo := e }, s)

/-- The tile of a route holds its blinding until END (R192, R205). -/
def blindTile (s : State) (r : Run) (b : Blinding × State) : State :=
  let k := r.unit * 16 + r.tile
  let s' := b.2
  { s' with pke := { s'.pke with tiles := mapSet s'.pke.tiles k { (mapGet s.pke.tiles k PkeTile.clear) with blind := b.1 } PkeTile.clear } }

/-! ## RSA keys (R215) -/

/-- Modulus length in bytes. -/
def rsaLen (o : KeyObj) : Nat := o.bits / 8

/-- Modulus and public exponent of a key. -/
def rsaN (o : KeyObj) : Nat := beNat (o.body.take (rsaLen o))

/-- The CRT parts p, q, d_p, d_q and q^(−1) of a private key. -/
def rsaPart (o : KeyObj) (i : Nat) : Nat := beNat (slice o.body (rsaLen o + rsaE + i * (rsaLen o / 2)) (rsaLen o / 2))

/-- x^65,537 mod N as L bytes. -/
def rsaPub (o : KeyObj) (x : Nat) : Bytes := beBytes (powMod x 65537 (rsaN o)) (rsaLen o)

/-- The private operation in CRT form, as L bytes. -/
def rsaPriv (o : KeyObj) (x : Nat) : Bytes :=
  let p := rsaPart o 0
  let q := rsaPart o 1
  let mp := powMod x (rsaPart o 2) p
  let mq := powMod x (rsaPart o 3) q
  beBytes (mq + q * (rsaPart o 4 * (mp + p - mq % p) % p)) (rsaLen o)

/-- The check of a generated key: N = p·q, both CRT exponents, and a sign-and-check of a fixed block (R207). -/
def rsaKeyOk (o : KeyObj) : Bool :=
  let x := 2 ^ (o.bits - 2) + 1
  rsaN o = rsaPart o 0 * rsaPart o 1 && 65537 * rsaPart o 2 % (rsaPart o 0 - 1) = 1 && 65537 * rsaPart o 3 % (rsaPart o 1 - 1) = 1
    && rsaPub o (beNat (rsaPriv o x)) = beBytes x (rsaLen o)

/-! ## RSA key generation (R216; log entry 95) -/

/-- The primes of the sieve. -/
def sievePrimes : List Nat := [3, 5, 7, 11, 13, 17, 19, 23, 29, 31, 37, 41, 43, 47, 53, 59, 61, 67, 71, 73, 79, 83, 89, 97]

/-- Whether a candidate survives the sieve. -/
def sieveOk (c : Nat) : Bool := sievePrimes.all (fun p => c % p != 0)

/-- The odd part of a number and the power of two it leaves; `fuel` bounds the power. -/
def oddPart : Nat → Nat → Nat × Nat
  | 0, n => (n, 0)
  | fuel + 1, n => if n % 2 = 0 ∧ n ≠ 0 then ((oddPart fuel (n / 2)).1, (oddPart fuel (n / 2)).2 + 1) else (n, 0)

/-- Whether n − 1 appears among k squarings of x. -/
def mrSquares (n : Nat) : Nat → Nat → Bool
  | 0, _ => false
  | k + 1, x => x = n - 1 || mrSquares n k (x * x % n)

/-- One Miller–Rabin round of an odd n to a base. -/
def mrPass (n a : Nat) : Bool :=
  let p := oddPart (bitLen n) (n - 1)
  let x := powMod a p.1 n
  x = 1 || mrSquares n p.2 x

/-- Miller–Rabin rounds for a prime of w bits (FIPS 186-5). -/
def mrRounds (w : Nat) : Nat := if w < 1536 then 5 else 4

/-- One prime attempt of w bits: an odd candidate of full length that the sieve and the rounds pass, whose predecessor is prime to the exponent, far
enough from a prime already held, is kept (R216). -/
def primeAttempt (w : Nat) (held : List Nat) (s : State) : List Nat × State :=
  let (n, s) := draw s w
  let c := n / 2 * 2 + 1
  let (bs, s) := drawMany s w (mrRounds w)
  let ok := decide (2 ^ (2 * w - 1) ≤ c * c) && sieveOk c && (c - 1) % 65537 != 0 && bs.all (fun b => mrPass c (b % (c - 3) + 2))
    && held.all (fun p => decide (2 ^ (w - 100) < (p - c) + (c - p)))
  (if ok then held ++ [c] else held, s)

/-- Attempts until two primes are held, n at most (R216). -/
def primeRuns (w : Nat) : Nat → List Nat → State → List Nat × State
  | 0, held, s => (held, s)
  | n + 1, held, s =>
    if 2 ≤ held.length then (held, s)
    else
      let (held, s) := primeAttempt w held s
      primeRuns w n held s

/-- The body of an RSA private key of a modulus length from its primes: N, e, p, q, d_p, d_q, q^(−1). -/
def rsaBody (bits p q : Nat) : Bytes :=
  beBytes (p * q) (bits / 8) ++ beBytes 65537 rsaE ++ beBytes p (bits / 16) ++ beBytes q (bits / 16)
    ++ beBytes (invMod 65537 (p - 1)) (bits / 16) ++ beBytes (invMod 65537 (q - 1)) (bits / 16) ++ beBytes (invMod q p) (bits / 16)

/-- The key that attempts give, none when they have not held two primes yet (R216). -/
def rsaGenerate (s : State) (bits : Nat) : Option Bytes × State :=
  let (held, s) := primeRuns (bits / 2) Config.rsaAttempts [] s
  ((match held with
    | [p, q] => some (rsaBody bits p q)
    | _ => none), s)

end Sys2Proof.Machine
end

