-- ==== Sys2Proof/Machine/Modes.lean ====
section
/-!
DEFINITION. Modes.lean: modes of operation, MACs, PIN blocks, DUKPT and EMV derivations that cipher routes compute (R233, R244–R249),
by the standards R233 names.
-/
namespace Sys2Proof.Machine

/-! ## Block ciphers -/

/-- Block bytes of a key type. -/
def blkLen (typ : Nat) : Nat := if isTdes typ then 8 else 16

/-- One block under a key. -/
def blkRun (typ : Nat) (key : Bytes) (dec : Bool) (b : Bytes) : Bytes :=
  if isTdes typ then ofBlock8 (tdesBlock key dec (toBlock8 b)) else ofBlock (aesBlock key dec (toBlock b))

/-- A byte string in blocks of n bytes. -/
def chunks (b : Bytes) (n : Nat) : List Bytes := (List.range ((b.length + n - 1) / n)).map (fun i => slice b (i * n) n)

/-- ECB. -/
def ecb (typ : Nat) (key : Bytes) (dec : Bool) (b : Bytes) : Bytes := (chunks b (blkLen typ)).flatMap (blkRun typ key dec)

/-- CBC encryption of blocks after a previous ciphertext block. -/
def cbcEnc (typ : Nat) (key : Bytes) (prev : Bytes) : List Bytes → Bytes
  | [] => []
  | b :: t =>
    let c := blkRun typ key false (xorBytes b prev)
    c ++ cbcEnc typ key c t

/-- CBC decryption of blocks. -/
def cbcDec (typ : Nat) (key : Bytes) (prev : Bytes) : List Bytes → Bytes
  | [] => []
  | c :: t => xorBytes (blkRun typ key true c) prev ++ cbcDec typ key c t

/-- CBC. -/
def cbc (typ : Nat) (key iv : Bytes) (dec : Bool) (b : Bytes) : Bytes :=
  let bs := chunks b (blkLen typ)
  if dec then cbcDec typ key (sliceZ iv 0 (blkLen typ)) bs else cbcEnc typ key (sliceZ iv 0 (blkLen typ)) bs

/-- CTR: the counter block increments modulo 2^128 (R233). -/
def ctr (key iv b : Bytes) : Bytes :=
  ((chunks b 16).mapIdx (fun i x => xorBytes x (ofBlock (aesBlock key false (toBlock iv + BitVec.ofNat 128 i))))).flatten

/-- A·α in GF(2^128) with the byte order of IEEE 1619. -/
def mulAlpha (b : Bytes) : Bytes :=
  let v := leAt b 0 16
  leBytes (if v ≥ 2 ^ 127 then (2 * v) % 2 ^ 128 ^^^ 0x87 else 2 * v) 16

/-- One XTS block under a tweak. -/
def xtsBlock (k : Bytes) (dec : Bool) (tw b : Bytes) : Bytes :=
  xorBytes (ofBlock (aesBlock k dec (toBlock (xorBytes b tw)))) tw

/-- XTS of a data unit, with ciphertext stealing: blocks, the tweak of the first (IEEE 1619). -/
def xtsGo (k : Bytes) (dec : Bool) (tw : Bytes) : List Bytes → Bytes
  | [] => []
  | [b] => xtsBlock k dec tw b
  | [b, p] =>
    if p.length = 16 then xtsBlock k dec tw b ++ xtsBlock k dec (mulAlpha tw) p
    else if dec then
      let pp := xtsBlock k true (mulAlpha tw) b
      xtsBlock k true tw (p ++ pp.drop p.length) ++ pp.take p.length
    else
      let cc := xtsBlock k false tw b
      xtsBlock k false (mulAlpha tw) (p ++ cc.drop p.length) ++ cc.take p.length
  | b :: t => xtsBlock k dec tw b ++ xtsGo k dec (mulAlpha tw) t

/-- XTS: data key, tweak key, data unit number. -/
def xts (k1 k2 unit : Bytes) (dec : Bool) (b : Bytes) : Bytes :=
  xtsGo k1 dec (ofBlock (aesBlock k2 false (toBlock unit))) (chunks b 16)

/-! ## MACs -/

/-- A subkey of CMAC: the doubling of the encrypted zero block, once or twice. -/
def cmacSub (typ : Nat) (key : Bytes) (twice : Bool) : Bytes :=
  if isTdes typ then
    let l := cmacDbl64 (tdesBlock key false 0)
    ofBlock8 (if twice then cmacDbl64 l else l)
  else
    let l := cmacDbl128 (aesBlock key false 0)
    ofBlock (if twice then cmacDbl128 l else l)

/-- CMAC (SP 800-38B), one block. -/
def cmac (typ : Nat) (key msg : Bytes) : Bytes :=
  let n := blkLen typ
  let bs := chunks msg n
  let last := (bs.getLast?).getD []
  let last' := if last.length = n then xorBytes last (cmacSub typ key false)
    else xorBytes (sliceZ (last ++ [0x80]) 0 n) (cmacSub typ key true)
  let c := cbcEnc typ key (zeros n) (bs.dropLast ++ [last'])
  c.drop (c.length - n)

/-- Padding methods 1 and 2 of ISO/IEC 9797-1 for 8-byte blocks. -/
def pad9797 (m n : Nat) (b : Bytes) : Bytes :=
  if m = 1 then b ++ zeros (if b = [] then n else (n - b.length % n) % n) else b ++ [0x80] ++ zeros ((2 * n - 1 - b.length % n) % n)

/-- MAC algorithm 3 of ISO/IEC 9797-1 over padded data: single DES with the left key, then decryption with the right key and
encryption with the left. -/
def retailMac (key padded : Bytes) : Bytes :=
  let l := beNat (sliceZ key 0 8)
  let x := (chunks padded 8).foldl (fun a b => desBlock l false (a ^^^ beNat b)) 0
  beBytes (desBlock l false (desBlock (beNat (sliceZ key 8 8)) true x)) 8

/-! ## PIN blocks (R244) -/

/-- The digits of a byte string, high nibble first. -/
def nibbles (b : Bytes) : List Nat := b.flatMap (fun x => [x.toNat / 16, x.toNat % 16])
/-- Bytes of digits. -/
def ofNibbles : List Nat → Bytes
  | a :: b :: t => BitVec.ofNat 8 (16 * a + b) :: ofNibbles t
  | [a] => [BitVec.ofNat 8 (16 * a)]
  | [] => []

/-- The PAN field of formats 0 and 3: the 12 rightmost digits without the check digit, right-justified; of format 4: its length less 12, its
digits, zeros. -/
def panField (fmt : Nat) (pan : List Nat) : Bytes :=
  if fmt = 4 then ofNibbles ((pan.length - 12) :: (pan ++ List.replicate (31 - pan.length) 0))
  else
    let d := pan.dropLast
    let d := d.drop (d.length - 12)
    ofNibbles (List.replicate (16 - d.length) 0 ++ d)

/-- The PIN of a PIN field, none when it is malformed (R244). -/
def pinOfField (fmt : Nat) (b : Bytes) : Option (List Nat) :=
  let d := (nibbles b).take 16
  let n := (d[1]?).getD 0
  let pin := (d.drop 2).take n
  let fill := d.drop (2 + n)
  let fillOk : Bool := match fmt with
    | 0 => fill.all (fun x => x = 15)
    | 3 => fill.all (fun x => x ≥ 10)
    | 4 => fill.all (fun x => x = 10)
    | _ => true
  if d.head? = some fmt ∧ 4 ≤ n ∧ n ≤ 12 ∧ pin.all (fun x => x ≤ 9) ∧ fillOk then some pin else none

/-- The PIN field of a PIN with random bytes for its fill. -/
def fieldOfPin (fmt : Nat) (pin : List Nat) (rnd : Bytes) : Bytes :=
  let r := nibbles rnd
  let fill := (List.range (14 - pin.length)).map (fun i =>
    let x := (r[i]?).getD 0
    match fmt with
    | 0 => 15
    | 1 => x
    | 3 => 10 + x % 6
    | _ => 10)
  ofNibbles ([fmt, pin.length] ++ pin ++ fill) ++ (if fmt = 4 then sliceZ rnd 8 8 else [])

/-- The PIN of an enciphered block. Format 4 deciphers twice, with the PAN field between (ISO 9564-1). -/
def decodePin (fmt typ : Nat) (key blk : Bytes) (pan : List Nat) : Option (List Nat) :=
  if fmt = 4 then pinOfField 4 (blkRun typ key true (xorBytes (blkRun typ key true blk) (panField 4 pan)))
  else
    let c := blkRun typ key true blk
    pinOfField fmt (if fmt = 1 then c else xorBytes c (panField fmt pan))

/-- The enciphered block of a PIN. -/
def encodePin (fmt typ : Nat) (key : Bytes) (pin pan : List Nat) (rnd : Bytes) : Bytes :=
  let f := fieldOfPin fmt pin rnd
  if fmt = 4 then blkRun typ key false (xorBytes (blkRun typ key false f) (panField 4 pan))
  else blkRun typ key false (if fmt = 1 then f else xorBytes f (panField fmt pan))

/-! ## DUKPT (R247, R248; ANSI X9.24-3) -/

/-- The algorithm indicator and bits of an AES key type. -/
def dukptAlg (typ : Nat) : Nat × Nat := (typ + 1, 64 + 64 * typ)

/-- One derivation: the key, the usage indicator, the type derived, the last eight bytes of the derivation data. -/
def dukptDerive (key : Bytes) (usage typ : Nat) (tail : Bytes) : Bytes :=
  let n := (dukptAlg typ).2 / 8
  let blk := fun i => blkRun 0 key false ([0x01, BitVec.ofNat 8 i] ++ beBytes usage 2 ++ beBytes (dukptAlg typ).1 2
    ++ beBytes (dukptAlg typ).2 2 ++ tail)
  (blk 1 ++ blk 2).take n

/-- The working key of a BDK and a KSN for a usage indicator: the initial key, a step for each counter bit that is set, the
working key. -/
def dukptWorking (typ : Nat) (bdk ksn : Bytes) (usage : Nat) : Bytes :=
  let id := slice ksn 4 4
  let c := beNat (slice ksn 8 4)
  let ik := dukptDerive bdk 0x8001 typ (slice ksn 0 8)
  let k := ((List.range 32).foldl (fun (p : Bytes × Nat) i =>
    if c.testBit (31 - i) then
      let w := p.2 + 2 ^ (31 - i)
      (dukptDerive p.1 0x8000 typ (id ++ beBytes w 4), w)
    else p) (ik, 0)).1
  dukptDerive k usage typ (id ++ beBytes c 4)

/-- Usage indicators of working keys. -/
abbrev duPIN : Nat := 0x1000
abbrev duMACGEN : Nat := 0x2000
abbrev duMACVER : Nat := 0x2001
abbrev duDATADEC : Nat := 0x3001

/-! ## EMV (R249; Book 2, Annex A1) -/

/-- PAN and PSN digits right-justified in n digits. -/
def emvY (pan : List Nat) (psn n : Nat) : Bytes :=
  let d := pan ++ [psn / 16, psn % 16]
  let d := List.replicate (n - d.length) 0 ++ d
  ofNibbles (d.drop (d.length - n))

/-- The ICC master key: option A under TDES, the AES method. -/
def emvMaster (typ : Nat) (imk : Bytes) (pan : List Nat) (psn : Nat) : Bytes :=
  if isTdes typ then
    let y := emvY pan psn 16
    (blkRun typ imk false y ++ blkRun typ imk false (y.map (fun x => ~~~x))).map oddParity
  else
    let y := emvY pan psn 32
    (blkRun typ imk false y ++ blkRun typ imk false (y.map (fun x => ~~~x))).take (symBytes typ 0)

/-- The application cryptogram session key by the common derivation, with the ATC. -/
def emvSession (typ : Nat) (mk atc : Bytes) : Bytes :=
  let n := blkLen typ
  if isTdes typ ∨ symBytes typ 0 > 16 then
    (blkRun typ mk false (sliceZ (atc ++ [0xF0]) 0 n) ++ blkRun typ mk false (sliceZ (atc ++ [0x0F]) 0 n)).take
      (if isTdes typ then 16 else symBytes typ 0)
  else blkRun typ mk false (sliceZ atc 0 16)

/-- The type of a derived EMV key: two-key TDES, or the AES type. -/
def emvType (typ : Nat) : Nat := if isTdes typ then 4 else typ

/-- A MAC of n bytes under a session key: algorithm 3 or CMAC, over data padded by method 2. -/
def emvMac (typ : Nat) (sk : Bytes) (n : Nat) (data : Bytes) : Bytes :=
  (if isTdes typ then retailMac sk (pad9797 2 8 data) else cmac typ sk (pad9797 2 16 data)).take n

/-- The ARPC: method 1 enciphers ARQC XOR (ARC ‖ six zero bytes); method 2 is a 4-byte MAC over ARQC ‖ CSU ‖ proprietary data.
Under AES method 1 takes the leftmost 8 bytes of the enciphered zero-padded block (log entry 26). -/
def emvArpc (typ : Nat) (sk arqc : Bytes) (method : Nat) (arcCsu prop : Bytes) : Bytes :=
  if method = 1 then
    (blkRun (emvType typ) sk false (sliceZ (xorBytes arqc (sliceZ (arcCsu.take 2) 0 8)) 0 (blkLen typ))).take 8
  else emvMac typ sk 4 (arqc ++ arcCsu ++ prop)

end Sys2Proof.Machine
end

