-- ==== Sys2Proof/Machine/Mcrypt.lean ====
section
/-!
DEFINITION. Mcrypt.lean: the HBM's working space and the protection MCRYPT gives every line of it: encryption, MACs, leaf counter blocks, the
counter tree, the node cache, integrity failures and poison (R158–R164, R168, R170). What the rules leave open is log entry 17.
-/
namespace Sys2Proof.Machine

/-! ## The working space (R158, R159) -/

/-- A pseudo-channel, and the protected data of a stack, in MiB: OHL9-144C, OHL9-096C (R158). -/
def pcMib (s : State) : Nat := if getF s F.SYSCTL_ID_PART = 0 then 1152 else 768
def protectedMib (s : State) : Nat := if getF s F.SYSCTL_ID_PART = 0 then 30720 else 20480

/-- The other regions of a stack's working space in MiB: all 31 positions, the MAC lines, the tree region (R158). -/
def workMib (s : State) : Nat := 31 * pcMib s
def macMib (s : State) : Nat := protectedMib s / 8
def treeMib (s : State) : Nat := workMib s - protectedMib s - macMib s

/-- The first working line of the MAC region and of the tree region (R158). -/
def macBase (s : State) : Nat := protectedMib s * 2 ^ 14
def treeBase (s : State) : Nat := (protectedMib s + macMib s) * 2 ^ 14

/-- Where a working line lies: position and line within it (R159). -/
def linePos (n : Nat) : Nat × Nat := (n % 31, n / 31)

/-- The MAC line of a data line, the index of its MAC's first byte in that line, and its leaf counter block (R159). -/
def macLine (s : State) (n : Nat) : Nat := macBase s + n / 8
def macByte (n : Nat) : Nat := n % 8 * 8
def leafBlock (n : Nat) : Nat := n / 32

/-- The nodes of a tree level, level 0 the leaf counter blocks; the level's first working line (R158, R160). -/
def levelNodes (s : State) : Nat → Nat
  | 0 => macBase s / 32
  | l + 1 => (levelNodes s l + 7) / 8
def levelBase (s : State) : Nat → Nat
  | 0 => treeBase s
  | l + 1 => levelBase s l + levelNodes s l

/-- The working line of the node of a level that covers data line n, and which counter of it covers the node below (R159, R160). -/
def nodeLine (s : State) (n lvl : Nat) : Nat := levelBase s lvl + leafBlock n / 8 ^ lvl
def nodeChild (n lvl : Nat) : Nat := leafBlock n / 8 ^ (lvl - 1) % 8

/-- The name of a line or a block of a stack. -/
def lineKey (stack n : Nat) : Nat := stack * 2 ^ 32 + n

/-! ## Encryption and MACs (R160) -/

/-- The XTS data key, the XTS tweak key and the MAC key of the protection key. -/
def hbmKey (s : State) (i : Nat) : Bytes := slice (s.hbm.key.getD []) (32 * i) 32

/-- A line under AES-XTS-256: the tweak is the stack and the working line number (R160). -/
def lineCipher (s : State) (stack n : Nat) (dec : Bool) (b : Bytes) : Bytes :=
  xts (hbmKey s 0) (hbmKey s 1) (leBytes n 8 ++ leBytes stack 8) dec (sliceZ b 0 64)

/-- The leaf counter block that covers a data line: the major counter and 32 minor counters (R160). -/
def leafOf (s : State) (stack n : Nat) : Nat × List Nat := mapGet s.hbm.leaf (lineKey stack (leafBlock n)) (0, List.replicate 32 0)

/-- The MAC of a data line: over the ciphertext, n and both counters (R160). -/
def lineMac (s : State) (n : Nat) (ct : Bytes) (c : Nat × List Nat) : W64 :=
  Config.hbmMac (hbmKey s 2) [n, c.1, (c.2[n % 32]?).getD 0] ct

/-- A counter block after one write to line i: the minor counter rises; where it would wrap the major rises and the minors
restart (R160). -/
def bumpLeaf (c : Nat × List Nat) (i : Nat) : Nat × List Nat :=
  if (c.2[i]?).getD 0 + 1 < 2 ^ 14 then (c.1, c.2.set i ((c.2[i]?).getD 0 + 1)) else ((c.1 + 1) % 2 ^ 64, List.replicate 32 0)

/-- The lines of a block as they stand after its major counter moved: encrypted again under the same tweak, which gives the same
ciphertext, with new MACs (R160). -/
def blockAgain (s : State) (stack n : Nat) (c : Nat × List Nat) : State :=
  { s with hbm := { s.hbm with lines := s.hbm.lines.map (fun e =>
      if e.1 / 32 = lineKey stack n / 32 then (e.1, { e.2 with mac := lineMac s (e.1 % 2 ^ 32) e.2.ct c }) else e) } }

/-! ## The tree (R160, R161) -/

/-- Add one to a 56-bit counter of eight. -/
def bumpCtr (l : List Nat) (i : Nat) : List Nat := l.set i (((l[i]?).getD 0 + 1) % 2 ^ 56)

/-- The root of a stack: the counters of the nodes of level 7, held in Landau SRAM (R160). -/
def rootOf (s : State) (stack : Nat) : List Nat := mapGet s.hbm.root stack (List.replicate 8 0)

/-- The node at a working line of a stack. -/
def nodeOf (s : State) (stack line : Nat) : TreeNode :=
  mapGet s.hbm.nodes (lineKey stack line) { ctrs := List.replicate 8 0, mac := Config.hbmMac (hbmKey s 2) (line :: 0 :: List.replicate 8 0) [] }

/-- One write moves the counter of the node of a level that covers data line n; its MAC covers its line, the counter that covers it and its own
counters (R160). With it the counter that covers the node below. -/
def bumpNode (stack n : Nat) (a : Nat × State) (lvl : Nat) : Nat × State :=
  let line := nodeLine a.2 n lvl
  let ctrs := bumpCtr (nodeOf a.2 stack line).ctrs (nodeChild n lvl)
  let nd : TreeNode := { ctrs := ctrs, mac := Config.hbmMac (hbmKey a.2 2) (line :: a.1 :: ctrs) [] }
  ((ctrs[nodeChild n lvl]?).getD 0, { a.2 with hbm := { a.2.hbm with nodes := mapPut a.2.hbm.nodes (lineKey stack line) nd } })

/-- The tree after one write to data line n: the root's counter first, then the nodes of levels 7 to 1 (R160). -/
def bumpTree (s : State) (stack n : Nat) : State :=
  let i := leafBlock n / 8 ^ 7
  let r := bumpCtr (rootOf s stack) i
  (([7, 6, 5, 4, 3, 2, 1].foldl (bumpNode stack n) ((r[i]?).getD 0,
    { s with hbm := { s.hbm with root := mapPut s.hbm.root stack r } }))).2

/-- The most nodes of levels 0 to 3 a stack's cache holds: 2 MiB of 64-byte nodes (R161). -/
abbrev nodeCacheSize : Nat := 32768

/-- Whether the node at a working line is cached. -/
def nodeCached (s : State) (stack line : Nat) : Bool := s.hbm.cached.contains (lineKey stack line)

/-- The levels among 0 to 3 whose node for data line n is not cached; levels 4 to 7 are resident (R161). -/
def missLevels (s : State) (stack n : Nat) : List Nat := (List.range 4).filter (fun l => !nodeCached s stack (nodeLine s n l))

/-- A node becomes the most recent of its stack's cache; a full cache drops its least recent one (R161). -/
def cacheNode (stack : Nat) (l : List Nat) (line : Nat) : List Nat :=
  let k := lineKey stack line
  let l := k :: l.filter (fun x => x != k)
  let own := l.filter (fun x => x / 2 ^ 32 = stack)
  if own.length ≤ nodeCacheSize then l else l.filter (fun x => some x != own.getLast?)

/-- The nodes of levels 0 to 3 that cover data line n stand in the cache (R161). -/
def cachePath (s : State) (stack n : Nat) : State :=
  { s with hbm := { s.hbm with cached := ([3, 2, 1, 0].map (nodeLine s n)).foldl (cacheNode stack) s.hbm.cached } }

/-! ## Poison (R163, R168) -/

/-- Mirror the number of poisoned lines. -/
def poisonCount (s : State) : State := setF s F.MCRYPT_POISON_LINES s.hbm.poison.length

/-- Whether a working line is poisoned. -/
def poisoned (s : State) (stack n : Nat) : Bool := (mapGet? s.hbm.poison (lineKey stack n)).isSome

/-- Poison a working line, take the poison off one. -/
def setPoison (stack : Nat) (m : List (Nat × Bool)) (n : Nat) : List (Nat × Bool) := mapPut m (lineKey stack n) true
def clearPoison (stack : Nat) (m : List (Nat × Bool)) (n : Nat) : List (Nat × Bool) := mapErase m (lineKey stack n)

/-- The data lines other than n whose MACs, or whose minor counters, a poisoned MAC line or leaf counter block had and a write of n does not
give back. -/
def lostWith (s : State) (stack n : Nat) : List Nat :=
  ((if poisoned s stack (macLine s n) then (List.range 8).map (fun i => n / 8 * 8 + i) else [])
    ++ (if poisoned s stack (nodeLine s n 0) then (List.range 32).map (fun i => n / 32 * 32 + i) else [])).filter (fun m => m != n)

/-- What a write of data line n does to poison: the line, its MAC line and its nodes are written; lines that lose their MAC or counter with
them are poisoned. -/
def writePoison (s : State) (stack n : Nat) : State :=
  let p := (n :: macLine s n :: (List.range 8).map (nodeLine s n)).foldl (clearPoison stack) s.hbm.poison
  { s with hbm := { s.hbm with poison := (lostWith s stack n).foldl (setPoison stack) p } }

/-! ## Protected writes and reads (R160, R161, R163, R164, R168, R170) -/

/-- A protected write of one line of plaintext: its counter and the tree move, its ciphertext and MAC are stored, its poison goes
(R160, R163). -/
def mcWrite (s : State) (stack n : Nat) (plain : Bytes) : State :=
  let c0 := leafOf s stack n
  let c := bumpLeaf c0 (n % 32)
  let s := { s with hbm := { s.hbm with leaf := mapPut s.hbm.leaf (lineKey stack (leafBlock n)) c } }
  let s := if c.1 = c0.1 then s else blockAgain s stack n c
  let ct := lineCipher s stack n false plain
  let s := { s with hbm := { s.hbm with lines := mapPut s.hbm.lines (lineKey stack n) { ct := ct, mac := lineMac s n ct c } } }
  writePoison (cachePath (bumpTree s stack n) stack n) stack n

/-- One line of a stack written whole: its plaintext is what a read that verifies gives (R160). -/
def mcPut (s : State) (stack n : Nat) (plain : Bytes) : State :=
  mcWrite { s with mem := { s.mem with hbm := cellsWrite s.mem.hbm (stack * 2 ^ 36 + 64 * n) plain } } stack n plain

/-- A write of part of a line, given as the line after it, which leaves a poisoned line poisoned (R163). -/
def mcWritePart (s : State) (stack n : Nat) (plain : Bytes) : State :=
  let t := mcPut s stack n plain
  if poisoned s stack n then { t with hbm := { t.hbm with poison := setPoison stack t.hbm.poison n } } else t

/-- Write lines of a stack from the bytes of a record. -/
def mcWriteAll (s : State) (stack : Nat) (lines : List Nat) (b : Bytes) : State :=
  poisonCount ((lines.zipIdx).foldl (fun t p => mcPut t stack p.1 (slice b (64 * p.2) 64)) s)

/-- The physical pseudo-channel of a position of a stack (R158). -/
def physPc (s : State) (stack pos : Nat) : Nat := ((s.hbm.stk[stack]?).bind (fun x => x.pos[pos]?)).getD pos

/-- Whether a position of a stack has failed for good (R170). -/
def posLost (s : State) (stack pos : Nat) : Bool := ((s.hbm.stk[stack]?).map (fun x => x.lost.contains pos)).getD false

/-- A failure recorded in MCRYPT_LASTFAIL, counted in MCRYPT_INTFAIL and reported as HBM_INTEGRITY (R163, R164). -/
def noteFail (s : State) (kind level stack line : Nat) : State :=
  let s := setF (setF (setF (setF s F.MCRYPT_LASTFAIL_KIND kind) F.MCRYPT_LASTFAIL_LEVEL level)
    F.MCRYPT_LASTFAIL_STACK stack) F.MCRYPT_LASTFAIL_LINE line
  let s := bump s F.MCRYPT_INTFAIL_COUNT F.MCRYPT_INTFAIL_SAT
  faultReport s 0x11 stack (physPc s stack (linePos line).1)

/-- A data-line failure poisons the line read (R163). -/
def poisonLine (s : State) (stack n : Nat) : State :=
  poisonCount { s with hbm := { s.hbm with poison := setPoison stack s.hbm.poison n } }

/-- A mismatch found in HBM on the way to data line n: a node of level 1 or higher raises T10 at once; a failure of the line or of its leaf block
poisons it, and more than LIMIT of them within WINDOW raise T10 (R163, R164). -/
def mcFail (s : State) (stack n kind level line at_ : Nat) : State :=
  let s := noteFail s kind level stack line
  if kind = 3 then tamperTrip s 10
  else
    let times := at_ :: s.hbm.t10.filter (fun t => at_ < t + getF s F.MCRYPT_T10_WINDOW)
    let s := poisonLine { s with hbm := { s.hbm with t10 := times } } stack n
    if getF s F.MCRYPT_T10_LIMIT < times.length then tamperTrip s 10 else s

/-- When a working line came back wrong after correction, if it did. -/
def failAt (fails : List MemFail) (stack line : Nat) : Option Nat :=
  (fails.find? (fun f => f.stack = stack && f.line = line)).map (fun f => f.at_)

/-- The check of a read of data line n, from the leaf up and then the data: kind, level, line and time of the first mismatch among the lines
fetched (R161, R163). -/
def readMismatch (s : State) (stack n : Nat) (fails : List MemFail) : Option (Nat × Nat × Nat × Nat) :=
  let node := fun l => (failAt fails stack (nodeLine s n l)).map (fun t => (if l = 0 then 2 else 3, l, nodeLine s n l, t))
  let data := ((failAt fails stack n).orElse (fun _ => failAt fails stack (macLine s n))).map (fun t => (1, 0, n, t))
  ((missLevels s stack n).findSome? node).orElse (fun _ => data)

/-- The lines a read of data line n fetches: the line, its MAC line and the nodes that miss (R161). -/
def readLines (s : State) (stack n : Nat) : List Nat := n :: macLine s n :: (missLevels s stack n).map (nodeLine s n)

/-- A protected read of one data line: whether it verified. A poisoned line fails without an HBM access; a line on a lost position fails
(R161, R163, R164, R168, R170). -/
def mcReadLine (s : State) (stack n : Nat) (fails : List MemFail) : Bool × State :=
  if (readLines s stack n).any (poisoned s stack) then (false, noteFail s 1 0 stack n)
  else if (readLines s stack n).any (fun l => posLost s stack (linePos l).1) then (false, poisonLine (noteFail s 1 0 stack n) stack n)
  else match readMismatch s stack n fails with
    | some (kind, level, line, t) => (false, mcFail s stack n kind level line t)
    | none => (true, cachePath s stack n)

/-- A protected read of lines of one stack: whether all verified. -/
def mcRead (s : State) (stack : Nat) (lines : List Nat) (fails : List MemFail) : Bool × State :=
  lines.foldl (fun a n => let r := mcReadLine a.2 stack n fails; (a.1 && r.1, r.2)) (true, s)

end Sys2Proof.Machine
end

