-- ==== Sys2Proof/Machine/KeyCache.lean ====
section
/-!
DEFINITION. KeyCache.lean: HBM partitions, protected reads and writes under MCRYPT, the key cache and the resolution of handles
(R105, R145, R158–R166, R171–R173, R610).
-/
namespace Sys2Proof.Machine

/-! ## Partitions (R165) -/

/-- A region of the HBMPART section. -/
structure Region where
  domain : Nat
  kind : Nat
  cls : Nat
  stack : Nat
  world : Nat
  base : Nat
  size : Nat
  zero : Bool
  deriving DecidableEq, Repr

/-- Entry i of the section (R165). -/
def regionAt (b : Bytes) (i : Nat) : Region :=
  let o := 16 + 16 * i
  { domain := leAt b o 2, kind := byteAt b (o + 2), cls := byteAt b (o + 3), stack := byteAt b (o + 4),
    world := byteAt b (o + 5), base := leAt b (o + 8) 4, size := leAt b (o + 12) 4, zero := allZero b (o + 6) 2 }

/-- All regions of a section. -/
def regionsOf (b : Bytes) : List Region := (List.range (leAt b 0 2)).map (regionAt b)

/-- The regions in force. -/
def regions (s : State) : List Region := regionsOf (sec s.struct.built 8)

/-- The region of a domain and class. -/
def keyRegion (s : State) (d c : Nat) : Option Region :=
  (regions s).find? (fun r => r.kind = 0 && r.domain = d && r.cls = c)

/-- How many slots a region of KIND 0 holds (R165). -/
def regionSlots (r : Region) : Nat := r.size * 2 ^ 20 / recSize r.cls

/-- Whether an index lies within the capacity of the domain's region for its class (R147). -/
def slotExists (s : State) (h : Nat) : Bool :=
  ((keyRegion s (hDomain h) (hClass h)).map (fun r => decide (hIndex h < regionSlots r))).getD false

/-- The region of a world of KIND 1 or 2. -/
def worldRegion (s : State) (kind w : Nat) : Option Region := (regions s).find? (fun r => r.kind = kind && r.world = w)

/-- The stack and the data lines of a slot's record (R158, R166). -/
def slotLines (s : State) (h : Nat) : Nat × List Nat :=
  match keyRegion s (hDomain h) (hClass h) with
  | none => (0, [])
  | some r =>
    let off := r.base * 2 ^ 20 + hIndex h * recSize r.cls
    (r.stack, (List.range (recSize r.cls / 64)).map (fun i => off / 64 + i))

/-! ## Slots and handles -/

/-- The slot a handle names. -/
def slotOf (s : State) (h : Nat) : KeySlot := mapGet s.ks.slots (hSlot h) KeySlot.fresh

/-- Put a slot in place. -/
def setSlot (s : State) (h : Nat) (x : KeySlot) : State :=
  { s with ks := { s.ks with slots := mapSet s.ks.slots (hSlot h) x KeySlot.fresh } }

/-- A domain. -/
def domainOf (s : State) (d : Nat) : Domain := mapGet s.ks.domains d Domain.unusedDom

/-- Put a domain in place. -/
def setDomain (s : State) (d : Nat) (x : Domain) : State :=
  { s with ks := { s.ks with domains := mapSet s.ks.domains d x Domain.unusedDom } }

/-- Change a domain. -/
def updDomain (s : State) (d : Nat) (f : Domain → Domain) : State := setDomain s d (f (domainOf s d))

/-- The stored object a handle names, none when the handle is not valid or stale (R145, R146). -/
def storedObj (s : State) (h : Nat) : Option KeyObj :=
  if hDomain h > 4095 ∨ hClass h > 6 ∨ hGen h = 0 then none
  else (slotOf s h).obj.filter (fun o => o.handle = h)

/-! ## Records in HBM (R146, R610) -/

/-- The bytes of a key object's record: its header, its marks and the body area (R146, R148; their order within the record is log entry 94). -/
def recordBytes (o : KeyObj) : Bytes :=
  objHeader o ++ leBytes o.useMark 4 ++ leBytes o.ctrMark 8 ++ zeros 20 ++ sliceZ o.body 0 (bodyArea (hClass o.handle))

/-- Read the record of a slot from HBM. -/
def readRecord (s : State) (h : Nat) (fails : List MemFail) : Bool × State :=
  mcRead s (slotLines s h).1 (slotLines s h).2 fails

/-- Write the record of a slot to HBM. -/
def writeRecord (s : State) (h : Nat) : State :=
  match (slotOf s h).obj with
  | none => s
  | some o => mcWriteAll s (slotLines s h).1 (slotLines s h).2 (recordBytes o)

/-- Write the header and the marks of a slot's record alone: its first line and part of its second, which stay poisoned where they are
(R163, R610). -/
def writeHeader (s : State) (h : Nat) : State :=
  match (slotOf s h).obj with
  | none => s
  | some o =>
    poisonCount ((((slotLines s h).2.take 2).zipIdx).foldl
      (fun t p => mcWritePart t (slotLines s h).1 p.1 (slice (recordBytes o) (64 * p.2) 64)) s)

/-! ## The key cache -/

/-- The cache entry of a name. -/
def kcFind (s : State) (kind name : Nat) : Option KcEntry := s.ks.cache.find? (fun e => e.kind = kind && e.name = name)

/-- Change a cache entry. -/
def kcUpd (s : State) (kind name : Nat) (f : KcEntry → KcEntry) : State :=
  { s with ks := { s.ks with cache := s.ks.cache.map (fun e => if e.kind = kind && e.name = name then f e else e) } }

/-- The key an entry's shares hold (R171). -/
def kcKey (e : KcEntry) : Bytes := xorBytes e.share0 e.share1

/-- The size of an entry for a body area (R171). -/
def kcSize (area : Nat) : Nat := 2 * ((area + 31) / 32 * 32) + 64

/-- The pool: 32 MiB less rows lost (R171, R497). -/
def kcCapacity (s : State) : Nat := 32 * 2 ^ 20 - s.fc.kcLost.length * Config.kcRowBytes

/-- Bytes in use. -/
def kcUsed (s : State) : Nat := (s.ks.cache.map (fun e => e.size)).foldl (· + ·) 0

/-- Whether a command holds a key: it committed and its route has not loaded the key yet (R209, R253). -/
def keyHeld (s : State) (h : Nat) : Bool := s.qm.tags.any (fun t => running t && t.refs.contains h)

/-- The entry least recently used among those that are neither pinned nor held. -/
def kcOldest (s : State) : Option KcEntry :=
  (s.ks.cache.filter (fun e => !e.pinned && !(e.kind = 0 && keyHeld s e.name))).foldl (fun a e =>
    match a with
    | none => some e
    | some b => if e.order < b.order then some e else some b) none

/-- Write an entry's counters and marks back to its record in HBM (R610). -/
def kcWriteBack (s : State) (e : KcEntry) : State :=
  if e.kind = 0 && (storedObj s e.name).isSome then writeHeader { s with ks := { s.ks with slots := saveCounts s.ks.slots e } } e.name else s

/-- Take an entry off the cache, writing it back. -/
def kcEvict (s : State) (e : KcEntry) : State :=
  let s := kcWriteBack s e
  { s with ks := { s.ks with cache := s.ks.cache.filter (fun x => !(x.kind = e.kind && x.name = e.name)) } }

/-- Evict least recently used entries until a size fits (R171); `fuel` bounds the number of entries. -/
def kcMakeRoom (s : State) (size : Nat) : Nat → State
  | 0 => s
  | fuel + 1 =>
    if kcUsed s + size ≤ kcCapacity s then s
    else match kcOldest s with
      | none => s
      | some e => kcMakeRoom (kcEvict s e) size fuel

/-- Load a key into the cache as two fresh shares (R171); the use that loads it is counted by `kcTouch`. -/
def kcLoad (s : State) (kind name : Nat) (key : Bytes) (hdr : Option KeyObj) (area : Nat) (pinned : Bool) : State :=
  let s := kcMakeRoom s (kcSize area) s.ks.cache.length
  let (m, s) := drawBytes s key.length
  let e : KcEntry := { kind := kind, name := name, share0 := m, share1 := xorBytes m key, hdr := hdr, size := kcSize area,
                       uses := 0, order := s.ks.clock, pinned := pinned,
                       issue := (hdr.map (fun o => o.counter)).getD 0 }
  { s with ks := { s.ks with cache := s.ks.cache.filter (fun x => !(x.kind = kind && x.name = name)) ++ [e],
                             clock := s.ks.clock + 1 } }

/-- One use of an entry: it becomes the most recent; after KCACHE_REFRESH.USES uses its shares are re-randomised (R171). -/
def kcTouch (s : State) (e : KcEntry) : State :=
  let fresh := max 1 (getF s F.KCACHE_REFRESH_USES) ≤ e.uses + 1
  let (m, s) := if fresh then drawBytes s e.share0.length else (e.share0, s)
  let s := kcUpd s e.kind e.name (fun x =>
    { x with share0 := m, share1 := xorBytes m (kcKey e), uses := if fresh then 0 else e.uses + 1, order := s.ks.clock })
  { s with ks := { s.ks with clock := s.ks.clock + 1 } }

/-- A use of the entry of a name, such as a pinned key of a domain (R171). -/
def kcUse (s : State) (kind name : Nat) : State := ((kcFind s kind name).map (kcTouch s)).getD s

/-- The object as commands see it: the cache's header fields where there is an entry, else the stored record (R610). -/
def liveObj (s : State) (h : Nat) : Option KeyObj :=
  (storedObj s h).map (fun o =>
    match (kcFind s 0 h).bind (fun e => e.hdr) with
    | none => o
    | some hd => { hd with body := o.body })

/-- Change a key's counters and marks: in its cache entry where there is one, else in its record (R610). -/
def updCounts (s : State) (h : Nat) (f : KeyObj → KeyObj) : State :=
  if (kcFind s 0 h).isSome then kcUpd s 0 h (fun e => { e with hdr := e.hdr.map f })
  else match storedObj s h with
    | none => s
    | some o => writeHeader (setSlot s h { (slotOf s h) with obj := some (f o) }) h

/-- Change a key's header fields in the record and in its cache entry. -/
def updKey (s : State) (h : Nat) (f : KeyObj → KeyObj) : State :=
  let s := match (slotOf s h).obj with
    | some o => if o.handle = h then setSlot s h { (slotOf s h) with obj := some (f o) } else s
    | none => s
  kcUpd s 0 h (fun e => { e with hdr := e.hdr.map f })

/-- A route's use of a key: from the cache on a hit; on a miss its record is read, and none answers INTEGRITY (R171, R610). -/
def useKey (s : State) (h : Nat) (fails : List MemFail) : Option KeyObj × State :=
  match kcFind s 0 h with
  | some e =>
    (e.hdr.map (fun o => { o with body := kcKey e }), kcTouch (bump s F.KCACHE_HITS_COUNT F.KCACHE_HITS_SAT) e)
  | none =>
    let s := bump s F.KCACHE_MISSES_COUNT F.KCACHE_MISSES_SAT
    let (ok, s) := readRecord s h fails
    match storedObj s h with
    | some o => if ok then
        let s := kcLoad s 0 h o.body (some { o with body := [] }) (bodyArea (hClass h)) false
        (some o, kcUse s 0 h)
      else (none, s)
    | none => (none, s)

/-- A key of a domain that the cache holds pinned: 1 the DMK, 2 the wrap key, 3 the log key. -/
def domKey (s : State) (kind d : Nat) : Option Bytes := (kcFind s kind d).map kcKey

/-- Pin a domain's DMK and store keys (R156, R171). -/
def pinDomain (s : State) (d : Nat) (dmk : Bytes) : State :=
  kcLoad (kcLoad (kcLoad s 1 d dmk none 32 true) 2 d (wrapKeyOf dmk) none 32 true) 3 d (logKeyOf dmk) none 32 true

/-- Whether a KEY_DELETE of a key has committed and not ended (R209). -/
def deletePending (s : State) (h : Nat) : Bool :=
  s.qm.tags.any (fun t => running t && (match t.staged with
    | some (_, .deleteKey k) => k = h
    | _ => false))

/-- The outcome when a handle does not resolve: KEY_DOMAIN first, then NO_KEY, which a key whose deletion has committed gives too
(R105, R145, R146, R209). -/
def badHandle (s : State) (t : TagEntry) (h : Nat) : Option Outcome :=
  if hDomain h != seDomain t.entry then some (outStatus stKEY_DOMAIN)
  else chk ((storedObj s h).isNone || deletePending s h) (outStatus stNO_KEY)

/-- The outcome of a target handle that names no slot at all (R105, R145). -/
def badTargetHandle (t : TagEntry) (h : Nat) : Option Outcome :=
  if hDomain h != seDomain t.entry then some (outStatus stKEY_DOMAIN) else chk (6 < hClass h) (outStatus stNO_KEY)

/-- BAD_FIELD when a target slot holds an object, is retired or does not exist; BAD_LENGTH at the handle's offset when its class is too small for
a body (R147). -/
def badTargetSlot (s : State) (h off body : Nat) : Option Outcome :=
  if hGen h != 0 ∨ !slotExists s h ∨ (slotOf s h).obj.isSome ∨ (slotOf s h).retired then some (outBad stBAD_FIELD 0x10)
  else chk (bodyArea (hClass h) < body) (outBad stBAD_LENGTH off)

/-- The outcome when a target slot cannot take a body (R145, R147). -/
def badTarget (s : State) (t : TagEntry) (h off body : Nat) : Option Outcome :=
  firstSome [badTargetHandle t h, badTargetSlot s h off body]

/-- NO_KEY unless the domain is LIVE (R154). -/
def needLive (s : State) (t : TagEntry) : Option Outcome :=
  chk ((domainOf s (seDomain t.entry)).state ≠ .live) (outStatus stNO_KEY)

end Sys2Proof.Machine
end

