-- ==== Sys2Proof/Machine/Journal.lean ====
section
/-!
DEFINITION. Journal.lean: journal records and room (R176–R178), counter marks (R151, R152), verification tables (R174, R175), and the
effects that change a store (R123, R146, R150, R187).
-/
namespace Sys2Proof.Machine

/-! ## Journal records -/

/-- The world of a domain (R104). -/
def domWorldOf (s : State) (d : Nat) : Nat := domWorld s.struct.built d

/-- The acknowledgement mark of a domain (R157). -/
def ackMark (s : State) (d : Nat) : Nat := mapGet s.tamper.ackMarks d 0

/-- The bytes of the journal region of a world (R165). -/
def journalBytes (s : State) (w : Nat) : Nat := ((worldRegion s 2 w).map (fun r => r.size * 2 ^ 20)).getD 0

/-- Bytes of a list of records. -/
def recBytes (l : List JRec) : Nat := (l.map (fun r => r.body.length)).foldl (· + ·) 0

/-- Whether a record is acknowledged. -/
def acked (s : State) (r : JRec) : Bool := r.seq ≤ ackMark s r.domain

/-- The bytes of the record that an effect will append. -/
def effectBytes : Effect → Nat
  | .putKey slot _ => 128 + recSize (hClass (slot * 1024))
  | .importKey b => 128 + b.length
  | .deleteKey _ => 128
  | .restrictKey _ _ _ _ => 128
  | _ => 0

/-- The bytes that started commands of a world will still append at their END (R177). -/
def stagedBytes (s : State) (w : Nat) : Nat :=
  ((s.qm.tags.filter (fun t => running t && tagWorld s t = w)).map (fun t => ((t.staged.map (fun p => effectBytes p.2)).getD 0))).foldl (· + ·) 0

/-- Whether a record of n bytes finds room, once acknowledged records are freed, beside those that started commands will append; otherwise the
command waits (R177). -/
def journalRoom (s : State) (w n : Nat) : Bool :=
  n + stagedBytes s w + recBytes (s.ks.journal.filter (fun r => r.world = w && !acked s r)) ≤ journalBytes s w

/-- Take the oldest acknowledged record of a world off the journal. -/
def dropOldestAcked (s : State) (w : Nat) : List JRec → List JRec
  | [] => []
  | r :: t => if r.world = w && acked s r then t else r :: dropOldestAcked s w t

/-- Free acknowledged records, oldest first, until n bytes fit (R177). -/
def freeJournal (s : State) (w n : Nat) : Nat → List JRec → List JRec
  | 0, l => l
  | fuel + 1, l =>
    if n + recBytes (l.filter (fun r => r.world = w)) ≤ journalBytes s w then l
    else freeJournal s w n fuel (dropOldestAcked s w l)

/-- The 64-byte tag block: HMAC-SHA-384 under the log key, then 16 zero bytes (R176). -/
def tagBlock (s : State) (d : Nat) (body : Bytes) : Bytes :=
  hashBytes (hmac384 ((domKey s 3 d).getD []) body) ++ zeros 16

/-- What a record says beside its sequence number, domain and store (R176). -/
structure JBody where
  kind : Nat
  handle : Nat
  version : Nat
  useMark : Nat
  ctrMark : Nat
  usage : Nat
  useLimit : Nat
  attr : Nat
  payload : Bytes
  deriving DecidableEq, Repr

/-- The bytes of a record before its tag block. -/
def recHead (d seq storeId : Nat) (b : JBody) : Bytes :=
  leBytes seq 8 ++ leBytes d 2 ++ leBytes b.kind 1 ++ zeros 1 ++ leBytes (128 + b.payload.length) 4 ++ leBytes b.handle 8
    ++ leBytes b.version 4 ++ leBytes b.useMark 4 ++ leBytes b.ctrMark 8 ++ leBytes b.usage 8 ++ leBytes storeId 8
    ++ leBytes b.useLimit 4 ++ leBytes b.attr 1 ++ zeros 3 ++ b.payload

/-- The lowest n lines from i on that a list does not name; `fuel` bounds the search. -/
def freeLines (used : List Nat) : Nat → Nat → Nat → List Nat
  | 0, _, _ => []
  | fuel + 1, n, i =>
    if n = 0 then [] else if used.contains i then freeLines used fuel n (i + 1) else i :: freeLines used fuel (n - 1) (i + 1)

/-- The lines of a world's journal region that a record of n bytes takes: the lowest that no held record has (log entry 94). -/
def journalLines (j : List JRec) (w n : Nat) : List Nat :=
  let used := (j.filter (fun r => r.world = w)).flatMap (fun r => r.lines)
  freeLines used (used.length + n / 64) (n / 64) 0

/-- The stack and the working lines of a record of the journal (R165, R177). -/
def journalPlace (s : State) (r : JRec) : Nat × List Nat :=
  match worldRegion s 2 r.world with
  | none => (0, [])
  | some g => (g.stack, r.lines.map (fun l => g.base * 2 ^ 14 + l))

/-- Append a record to a domain's journal: acknowledged records make room, its lines go to the region of the domain's world (R160, R176,
R177). -/
def appendJ (s : State) (d : Nat) (b : JBody) : State :=
  let dom := domainOf s d
  let seq := dom.seq + 1
  let body := recHead d seq dom.storeId b
  let full := body ++ tagBlock s d body
  let w := domWorldOf s d
  let j := freeJournal s w full.length s.ks.journal.length s.ks.journal
  let r : JRec := { world := w, seq := seq, domain := d, kind := b.kind, handle := b.handle, body := full,
                    lines := journalLines j w full.length }
  let s := mcWriteAll (kcUse s 3 d) (journalPlace s r).1 (journalPlace s r).2 full
  setDomain { s with ks := { s.ks with journal := j ++ [r] } } d { dom with seq := seq }

/-- Read a record of the journal from HBM. -/
def journalReads (s : State) (fails : List MemFail) : List JRec → Bool × State
  | [] => (true, s)
  | r :: t =>
    let a := mcRead s (journalPlace s r).1 (journalPlace s r).2 fails
    let b := journalReads a.2 fails t
    (a.1 && b.1, b.2)

/-- A body of a record that carries only its kind and object. -/
def jbody (kind : Nat) (o : KeyObj) : JBody :=
  { kind := kind, handle := o.handle, version := o.version, useMark := 0, ctrMark := 0, usage := 0, useLimit := 0, attr := 0,
    payload := [] }

/-! ## Marks (R151) -/

/-- The marks at creation: a mark that does not govern its key is 0 (R151). -/
def createMarks (o : KeyObj) : Nat × Nat :=
  (if metered o then min o.useLimit (o.useCount + 65536) else 0,
   if has o uSTREAM then min (o.counter + 65536) (2 ^ 64 - 1) else 0)

/-- The uses of a key that commands in flight reserve (R242). -/
def reservedUses (s : State) (h : Nat) : Nat :=
  (s.qm.tags.filter (fun t => running t && (match t.staged with
    | some (_, .meteredUse l) => l.contains h
    | _ => false))).length

/-- The counts the marks govern: uses counted and reserved, and the issue pointer (R151, R240, R242). -/
def countsOf (s : State) (o : KeyObj) : Nat × Nat :=
  (o.useCount + reservedUses s o.handle, max (((kcFind s 0 o.handle).map (fun e => e.issue)).getD 0) o.counter)

/-- The marks a RESERVE record would carry: a mark within 32,768 of its count moves to the count plus 65,536 (R151). -/
def reserveMarks (s : State) (o : KeyObj) : Nat × Nat :=
  let (u, c) := countsOf s o
  (if metered o && decide (o.useMark ≤ u + 32768) then max o.useMark (min o.useLimit (u + 65536)) else o.useMark,
   if has o uSTREAM && decide (o.ctrMark ≤ c + 32768) then max o.ctrMark (min (c + 65536) (2 ^ 64 - 1)) else o.ctrMark)

/-- Append a RESERVE record when a count has come within 32,768 of its mark and there is room for it (R151, R177). -/
def reserve (s : State) (h : Nat) : State :=
  match liveObj s h with
  | none => s
  | some o =>
    let m := reserveMarks s o
    if m = (o.useMark, o.ctrMark) ∨ !journalRoom s (domWorldOf s (hDomain h)) 128 then s
    else
      let s := appendJ s (hDomain h) { (jbody 5 o) with useMark := m.1, ctrMark := m.2 }
      let seq := (domainOf s (hDomain h)).seq
      updCounts s h (fun x => { x with useMark := m.1, ctrMark := m.2, pend := x.pend ++ [(seq, m.1, m.2)] })

/-- Whether one more use of a metered key, or one more draw of a stream key, stays within the acknowledged mark (R151). -/
def useMarkOk (s : State) (o : KeyObj) : Bool := (countsOf s o).1 + 1 ≤ o.ackUse
def drawMarkOk (s : State) (o : KeyObj) : Bool := (countsOf s o).2 + 1 ≤ o.ackCtr

/-- Acknowledge the marks whose record lies at or below a sequence number. -/
def ackKey (seq : Nat) (o : KeyObj) : KeyObj :=
  (o.pend.filter (fun p => p.1 ≤ seq)).foldl (fun x p => { x with ackUse := max x.ackUse p.2.1, ackCtr := max x.ackCtr p.2.2 })
    { o with pend := o.pend.filter (fun p => seq < p.1) }

/-- Change every key object of a domain, in its record and in the cache. -/
def updDomainKeys (s : State) (d : Nat) (f : KeyObj → KeyObj) : State :=
  { s with ks := { s.ks with
      slots := s.ks.slots.map (fun e => if e.1 / 2 ^ 40 = d then (e.1, { e.2 with obj := e.2.obj.map f }) else e)
      cache := s.ks.cache.map (fun e => if e.kind = 0 && hDomain e.name = d then { e with hdr := e.hdr.map f } else e) } }

/-! ## Verification tables (R174, R175) -/

/-- Tables a KIND 1 region holds (R166): ⌊SIZE_MIB / 0.140625⌋ of 144 KiB. -/
def regionTables (r : Region) : Nat := r.size * 64 / 9

/-- Tables a world may hold; the total across both worlds above 65,536 is ignored (R166). -/
def tableCap (s : State) (w : Nat) : Nat :=
  let n := fun x => ((worldRegion s 1 x).map regionTables).getD 0
  if w = 0 then min (n 0) 65536 else min (n 1) (65536 - min (n 0) 65536)

/-- The tables of a world. -/
def worldTables (s : State) (w : Nat) : List VTable := s.ks.tables.filter (fun t => t.world = w)

/-- Whether a key has a complete table that new routes may use (R175). -/
def hasTable (s : State) (h : Nat) : Bool := s.ks.tables.any (fun t => t.handle = h && t.complete && !t.evicting)

/-- Whether a table's key is pinned by ATTR.VT_PIN. -/
def tablePinned (s : State) (t : VTable) : Bool := ((liveObj s t.handle).map (fun o => o.attr.testBit 1)).getD false

/-- The table to evict: the least recently used of a key without VT_PIN (R174). -/
def tableVictim (s : State) (w : Nat) : Option VTable :=
  ((worldTables s w).filter (fun t => !t.evicting && !tablePinned s t)).foldl (fun a t =>
    match a with
    | none => some t
    | some b => if t.order < b.order then some t else some b) none

/-- Mark a table for eviction: its key takes no new table-mode route (R175). -/
def startEvict (s : State) (h : Nat) : State :=
  { s with ks := { s.ks with tables := s.ks.tables.map (fun t => if t.handle = h then { t with evicting := true } else t) } }

/-- What a build finds: 0 room, 1 an eviction must end first, 2 no room at all (R174). -/
def tableRoom (s : State) (w : Nat) : Nat :=
  if (worldTables s w).length < tableCap s w then 0
  else if (worldTables s w).any (fun t => t.evicting) ∨ (tableVictim s w).isSome then 1 else 2

/-- Choose a table for eviction unless one is being evicted already. -/
def chooseVictim (s : State) (w : Nat) : State :=
  if (worldTables s w).any (fun t => t.evicting) then s
  else match tableVictim s w with
    | none => s
    | some t => startEvict s t.handle

/-- Entry (j, d) of a verification table of a P-384 point: (d + 1)·16^j·Q as x and y (R204). -/
def vtEntry (q : Pt) (j d : Nat) : Bytes := (ptBytes curve384 (ptMul curve384 ((d + 1) * 16 ^ j) q)).drop 1

/-- The 147,456 bytes of a table: entry (j, d) at offset (16j + d) × 96 (R204). -/
def vtBytes (q : Pt) : Bytes := (List.range 1536).flatMap (fun i => sliceZ (vtEntry q (i / 16) (i % 16)) 0 96)

/-- The stack of a table and working line i of it (R165, R166, R204). -/
def tableLine (s : State) (t : VTable) (i : Nat) : Nat × Nat :=
  match worldRegion s 1 t.world with
  | none => (0, 0)
  | some g => (g.stack, g.base * 2 ^ 14 + 2304 * t.place + i)

/-- The two lines entry (j, d) of a table lies in; an entry of 96 bytes crosses one line boundary or ends at one (R204). -/
def entryLines (s : State) (t : VTable) (j d : Nat) : List Nat :=
  let o := (16 * j + d) * 96
  [(tableLine s t (o / 64)).2, (tableLine s t ((o + 95) / 64)).2]

/-- The table that new routes of a key may use (R175). -/
def keyTable (s : State) (h : Nat) : Option VTable := s.ks.tables.find? (fun t => t.handle = h && t.complete && !t.evicting)

/-- The 96 bytes of entry (j, d) of a table as HBM holds them: x and y (R204). -/
def entryBytes (s : State) (t : VTable) (j d : Nat) : Bytes :=
  cellBytes s.mem.hbm ((tableLine s t 0).1 * 2 ^ 36 + 64 * (tableLine s t 0).2 + (16 * j + d) * 96) 96

/-- A complete table of a key in the lowest free place of its world's region, its lines written (R160, R174, R204). -/
def addTable (s : State) (h : Nat) : State :=
  let w := domWorldOf s (hDomain h)
  let rest := s.ks.tables.filter (fun x => x.handle != h)
  let used := (rest.filter (fun x => x.world = w)).map (fun x => x.place)
  let t : VTable := { handle := h, world := w, place := ((freeLines used (used.length + 1) 1 0).head?).getD 0, complete := true,
                      evicting := false, order := s.ks.clock }
  let b := vtBytes (ptDecode curve384 (((liveObj s h).map pubOf).getD []))
  let s := mcWriteAll s (tableLine s t 0).1 ((List.range 2304).map (fun i => (tableLine s t i).2)) b
  { s with ks := { s.ks with tables := rest ++ [t], clock := s.ks.clock + 1 } }

/-- Ask for a build, after the END of the command that causes it (R174). -/
def askBuild (s : State) (h : Nat) : State :=
  { s with ks := { s.ks with builds := s.ks.builds ++ [{ handle := h, running := false }] } }

/-- Whether a started route holds a key's table. -/
def tableHeld (s : State) (h : Nat) : Bool :=
  s.qm.tags.any (fun t => running t && seKeyA t.entry = h && (t.route.map (fun r => r.cls = 1 && r.mode = 4)).getD false)

/-! ## Changes to a store -/

/-- A wrapped object under the domain's wrap key with a fresh IV (R149). -/
def wrapOut (s : State) (o : KeyObj) : Bytes × State :=
  let (iv, s) := drawBytes s 12
  (wrapObj ((domKey s 2 (hDomain o.handle)).getD []) iv o, kcUse s 2 (hDomain o.handle))

/-- Place an object in its slot with its marks, append CREATE or REPLACE, and ask for its table (R151, R174, R177). -/
def placeObj (s : State) (kind : Nat) (o : KeyObj) : State :=
  let d := hDomain o.handle
  let m := createMarks o
  let (w, s) := wrapOut s o
  let s := appendJ s d { (jbody kind o) with useMark := m.1, ctrMark := m.2, payload := w }
  let o := { o with useMark := m.1, ctrMark := m.2, pend := o.pend ++ [((domainOf s d).seq, m.1, m.2)] }
  let s := writeRecord (setSlot s o.handle { (slotOf s o.handle) with obj := some o }) o.handle
  let s := kcUpd s 0 o.handle (fun e => { e with hdr := some { o with body := [] }, issue := max e.issue o.counter })
  if o.attr.testBit 1 then askBuild s o.handle else s

/-- The effect of a command that makes a key: the slot's generation names it; the outcome carries the handle (R146). -/
def effPutKey (s : State) (slot : Nat) (o : KeyObj) (out : Outcome) : State × Outcome :=
  let h := slot * 1024 + (mapGet s.ks.slots slot KeySlot.fresh).gen
  let o := { o with handle := h, storeId := (domainOf s (hDomain h)).storeId, ackUse := o.useCount, ackCtr := o.counter }
  (placeObj s 1 o, { out with result := h })

/-- The objects of a domain by class and index. -/
def domSlots (s : State) (d : Nat) : List (Nat × KeySlot) := s.ks.slots.filter (fun e => e.1 / 2 ^ 40 = d)

/-- The objects a domain holds. -/
def domObjs (s : State) (d : Nat) : List KeyObj := (domSlots s d).filterMap (fun e => e.2.obj)

/-- Take a key off the cache with its shares, and evict its table (R146, R175). -/
def forgetKey (s : State) (h : Nat) : State :=
  let s := { s with ks := { s.ks with cache := s.ks.cache.filter (fun e => !(e.kind = 0 && e.name = h)),
                                      builds := s.ks.builds.filter (fun b => b.handle != h) } }
  startEvict s h

/-- Free a slot and move its generation, or retire it (R146). -/
def freeSlot (s : State) (h : Nat) : State :=
  if hGen h = 1023 then
    let s := updDomain (setSlot s h { gen := 1023, retired := true, obj := none }) (hDomain h)
      (fun d => { d with retired := d.retired + 1 })
    let d := hDomain h
    occur s 0x304 (d % 256) (d / 256 % 16 + 16 * hClass h) (hIndex h % 2 ^ 28)
  else setSlot s h { gen := hGen h + 1, retired := false, obj := none }

/-- KEY_DELETE at END (R146). -/
def effDeleteKey (s : State) (h : Nat) (out : Outcome) : State × Outcome :=
  match liveObj s h with
  | none => (s, outStatus stNO_KEY)
  | some o => (freeSlot (forgetKey (appendJ s (hDomain h) (jbody 3 o)) h) h, out)

/-- KEY_RESTRICT at END; a limit whose mark is near or not set yet asks for a RESERVE (R150, R151). -/
def effRestrictKey (s : State) (h usage useLimit attr : Nat) (out : Outcome) : State × Outcome :=
  match liveObj s h with
  | none => (s, outStatus stNO_KEY)
  | some o =>
    let f := fun x : KeyObj => { x with usage := usage, useLimit := useLimit, attr := attr, version := o.version + 1 }
    let s := appendJ s (hDomain h) { (jbody 4 (f o)) with usage := usage, useLimit := useLimit, attr := attr }
    let s := writeRecord (updKey s h f) h
    (if attr.testBit 1 ∧ !o.attr.testBit 1 then askBuild (reserve s h) h else reserve s h, { out with result := o.version + 1 })

/-- KEY_IMPORT at END (R187): none of its checks passed answers the failing status. -/
def effImportKey (s : State) (d : Nat) (b : Bytes) (fails : Bool) (out : Outcome) : State × Outcome :=
  let s := kcUse s 2 d
  match unwrapObj ((domKey s 2 d).getD []) b with
  | none => (s, outStatus stVERIFY_FAILED)
  | some o =>
    if o.storeId != (domainOf s d).storeId ∨ hDomain o.handle != d then (s, outStatus stVERIFY_FAILED)
    else if fails then (s, outStatus stINTEGRITY)
    else match (slotOf s o.handle).obj with
      | none =>
        if (slotOf s o.handle).gen = hGen o.handle ∧ !(slotOf s o.handle).retired then
          (placeObj s 2 { o with ackUse := o.useCount, ackCtr := o.counter }, { out with result := o.handle })
        else (s, outStatus stNO_KEY)
      | some _ =>
        match liveObj s o.handle with
        | none => (s, outStatus stNO_KEY)
        | some old =>
          if o.version < old.version then (s, { out with result := o.handle })
          else
            (placeObj s 2 { o with useCount := max o.useCount old.useCount, counter := max o.counter old.counter,
                                   ackUse := old.ackUse, ackCtr := old.ackCtr, pend := old.pend }, { out with result := o.handle })

end Sys2Proof.Machine
end

