-- ==== Sys2Proof/Machine/KeyBlock.lean ====
section
/-!
DEFINITION. KeyBlock.lean: key blocks of ANSI X9.143, version IDs "B" and "D" (R188): their headers, the derivation of their two keys from the
protection key, and the block made and opened (log entries 2 and 18).
-/
namespace Sys2Proof.Machine

/-- Two ASCII characters as a number. -/
def ascii2 (a b : Nat) : Nat := a * 256 + b

/-- The USAGE flags of an X9.143 key usage: those of its generate or encrypt half and those of its verify or decrypt half
(R188); a usage with one flag keeps it in either half (log entry 18). -/
def kbUsage (u : Nat) : Option (Nat × Nat) :=
  if u = ascii2 0x42 0x30 then some (2 ^ uDUKPT_BDK, 2 ^ uDUKPT_BDK)
  else if u = ascii2 0x44 0x30 then some (2 ^ uENCRYPT, 2 ^ uDECRYPT)
  else if u = ascii2 0x45 0x30 then some (2 ^ uEMV_MK, 2 ^ uEMV_MK)
  else if u = ascii2 0x4B 0x30 then some (2 ^ uWRAP, 2 ^ uUNWRAP)
  else if u = ascii2 0x4B 0x31 then some (2 ^ uKBPK, 2 ^ uKBPK)
  else if u = ascii2 0x4D 0x31 ∨ u = ascii2 0x4D 0x33 ∨ u = ascii2 0x4D 0x36 then some (2 ^ uMAC_GEN, 2 ^ uMAC_VERIFY)
  else if u = ascii2 0x50 0x30 then some (2 ^ uPIN, 2 ^ uPIN)
  else none

/-- The USAGE a usage and a mode of use grant (R188). -/
def kbGrant (u m : Nat) : Option Nat :=
  (kbUsage u).bind (fun p =>
    if m = 0x45 ∨ m = 0x47 then some p.1
    else if m = 0x44 ∨ m = 0x56 then some p.2
    else if m = 0x42 ∨ m = 0x4E then some (p.1 ||| p.2)
    else none)

/-- The value of an ASCII hexadecimal digit, 16 when it is none. -/
def hexVal (c : Nat) : Nat :=
  if 0x30 ≤ c ∧ c ≤ 0x39 then c - 0x30 else if 0x41 ≤ c ∧ c ≤ 0x46 then c - 0x37
  else if 0x61 ≤ c ∧ c ≤ 0x66 then c - 0x57 else 16

/-- Hexadecimal characters as bytes. -/
def hexBytes : Bytes → Bytes
  | a :: b :: t => BitVec.ofNat 8 (hexVal a.toNat * 16 + hexVal b.toNat) :: hexBytes t
  | _ => []

/-- A decimal number in ASCII. -/
def decVal (b : Bytes) : Nat := b.foldl (fun a x => 10 * a + (x.toNat - 0x30)) 0

/-- Whether every character is a decimal digit. -/
def isDec (b : Bytes) : Bool := b.all (fun x => 0x30 ≤ x.toNat && x.toNat ≤ 0x39)

/-- Whether every character is a hexadecimal digit. -/
def isHex (b : Bytes) : Bool := b.all (fun x => hexVal x.toNat < 16)

/-- A hexadecimal digit in ASCII, as X9.143 writes it. -/
def hexChar (n : Nat) : Byte := BitVec.ofNat 8 (if n < 10 then 0x30 + n else 0x37 + n)

/-- Bytes as hexadecimal characters. -/
def toHex (b : Bytes) : Bytes := b.flatMap (fun x => [hexChar (x.toNat / 16), hexChar (x.toNat % 16)])

/-- A number in n decimal characters. -/
def toDec (v : Nat) : Nat → Bytes
  | 0 => []
  | n + 1 => toDec (v / 10) n ++ [BitVec.ofNat 8 (0x30 + v % 10)]

/-- The optional blocks of a key block: identifiers and data, none when one is malformed (R188); `n` blocks from `off`. -/
def kbOptional (b : Bytes) : Nat → Nat → Option (List (Nat × Bytes))
  | 0, _ => some []
  | n + 1, off =>
    let len := hexVal (byteAt b (off + 2)) * 16 + hexVal (byteAt b (off + 3))
    if len < 4 ∨ b.length < off + len ∨ len > 255 then none
    else (kbOptional b n (off + len)).map (fun l => (ascii2 (byteAt b off) (byteAt b (off + 1)), slice b (off + 4) (len - 4)) :: l)

/-- Identifiers of the optional blocks import takes (R188). -/
abbrev kbKS : Nat := ascii2 0x4B 0x53
abbrev kbKC : Nat := ascii2 0x4B 0x43
abbrev kbPB : Nat := ascii2 0x50 0x42
abbrev kbTS : Nat := ascii2 0x54 0x53

/-- Whether import takes an optional block. -/
def kbKnown (i : Nat) : Bool := i = kbKS || i = kbKC || i = kbPB || i = kbTS

/-- The method characters of a KC block: "01" for the CMAC of AES, "00" for the encryption of a zero block (R148). -/
def kcMethod (alg : Nat) : Bytes := [0x30, if alg = 0x41 then 0x31 else 0x30]

/-- Whether a KC block has the form of the check value the L9 computes: its method and hexadecimal digits of at least one byte. -/
def kcForm (alg : Nat) (d : Bytes) : Bool := d.take 2 = kcMethod alg && isHex (d.drop 2) && 4 ≤ d.length && d.length % 2 = 0

/-- The header of a key block: version ID, usage, algorithm, mode of use, exportability, optional blocks, its length. -/
structure KbHeader where
  version : Nat
  usage : Nat
  alg : Nat
  mode : Nat
  export_ : Nat
  opts : List (Nat × Bytes)
  size : Nat
  deriving DecidableEq, Repr

/-- Read the header of a key block of ANSI X9.143; none for any value R188 does not name: the key version number and the reserved characters are
"00" (log entry 18). -/
def kbHeader (b : Bytes) : Option KbHeader :=
  let u := ascii2 (byteAt b 5) (byteAt b 6)
  let zero2 : Bytes := [0x30, 0x30]
  match kbOptional b (decVal (slice b 12 2)) 16 with
  | none => none
  | some opts =>
    if (byteAt b 0 = 0x42 ∨ byteAt b 0 = 0x44) ∧ isDec (slice b 1 4) ∧ decVal (slice b 1 4) = b.length ∧ (kbGrant u (byteAt b 8)).isSome
        ∧ (byteAt b 7 = 0x41 ∨ byteAt b 7 = 0x54) ∧ slice b 9 2 = zero2 ∧ (byteAt b 11 = 0x45 ∨ byteAt b 11 = 0x4E ∨ byteAt b 11 = 0x53)
        ∧ isDec (slice b 12 2) ∧ slice b 14 2 = zero2 ∧ opts.all (fun p => kbKnown p.1 && (p.1 != kbKC || kcForm (byteAt b 7) p.2)) then
      some { version := byteAt b 0, usage := u, alg := byteAt b 7, mode := byteAt b 8, export_ := byteAt b 11, opts := opts
             size := 16 + (opts.map (fun p => p.2.length + 4)).sum }
    else none

/-- The type of a key from its algorithm and length. -/
def kbType (alg n : Nat) : Option Nat :=
  if alg = 0x41 then (if n = 16 then some 1 else if n = 24 then some 2 else if n = 32 then some 3 else none)
  else if n = 16 then some 4 else if n = 24 then some 5 else none

/-- The data of an optional block. -/
def kbOpt (h : KbHeader) (i : Nat) : Option Bytes := (h.opts.find? (fun p => p.1 = i)).map (·.2)

/-- Whether a KC block agrees with a key check value (R188): the bytes both have are equal. -/
def kcAgrees (h : KbHeader) (kcv : Nat) : Bool :=
  match kbOpt h kbKC with
  | none => true
  | some d => (hexBytes (d.drop 2)).isPrefixOf (leBytes kcv 4) || (leBytes kcv 4).isPrefixOf (hexBytes (d.drop 2))

/-- The BDK ID a KS block gives a DUKPT key: its first four bytes (R188, R247). -/
def ksBdkId (h : KbHeader) : Nat := beNat ((hexBytes ((kbOpt h kbKS).getD [])).take 4)

/-! ## The two keys of a block, and the block itself (ANSI X9.143) -/

/-- The block encryption key and the block MAC key of a protection key: CMAC over a counter, the usage, the algorithm and the length. -/
def kbDerive (typ : Nat) (key : Bytes) (mac : Bool) : Bytes :=
  let alg := if isTdes typ then typ - 4 else typ + 1
  ((List.range ((key.length + blkLen typ - 1) / blkLen typ)).flatMap (fun i =>
    cmac typ key ([BitVec.ofNat 8 (i + 1), 0, (if mac then 1 else 0), 0] ++ beBytes alg 2 ++ beBytes (8 * key.length) 2))).take key.length

/-- The key in its clear field: its length in bits, the key, padding to whole cipher blocks. -/
def kbField (typ : Nat) (key pad : Bytes) : Bytes :=
  beBytes (8 * key.length) 2 ++ key ++ sliceZ pad 0 ((blkLen typ - (2 + key.length) % blkLen typ) % blkLen typ)

/-- A sealed key: the encrypted field and the MAC over the header and the clear field, which is the CBC vector, both in hexadecimal. -/
def kbSealed (typ : Nat) (kbpk hd field : Bytes) : Bytes :=
  let m := cmac typ (kbDerive typ kbpk true) (hd ++ field)
  toHex (cbc typ (kbDerive typ kbpk false) m false field) ++ toHex m

/-- The key a block holds under a protection key; none when its form or its MAC is wrong (R188). -/
def kbOpen (h : KbHeader) (k : KeyObj) (b : Bytes) : Option Bytes :=
  let n := blkLen k.typ
  let m := hexBytes (b.drop (b.length - 2 * n))
  let ct := hexBytes (slice b h.size (b.length - 2 * n - h.size))
  let f := cbc k.typ (kbDerive k.typ k.body false) m true ct
  let bits := beNat (f.take 2)
  if b.length < h.size + 4 * n ∨ !isHex (b.drop h.size) ∨ ct.length % n ≠ 0 ∨ bits % 8 ≠ 0 ∨ f.length < 2 + bits / 8
      ∨ cmac k.typ (kbDerive k.typ k.body true) (b.take h.size ++ f) ≠ m then none
  else some (slice f 2 (bits / 8))

/-- The key usages that USAGE may be written as (R188), with their mode of use; more than one fits a MAC key. -/
def kbUsages (o : KeyObj) : List (Nat × Nat) :=
  let both : Nat → Nat → Nat := fun g v => if has o g && has o v then 0x42 else if has o g then 0x45 else 0x44
  let mac := if has o uMAC_GEN && has o uMAC_VERIFY then 0x42 else if has o uMAC_GEN then 0x47 else 0x56
  (if has o uDUKPT_BDK then [(ascii2 0x42 0x30, 0x4E)] else [])
    ++ (if has o uENCRYPT || has o uDECRYPT then [(ascii2 0x44 0x30, both uENCRYPT uDECRYPT)] else [])
    ++ (if has o uEMV_MK then [(ascii2 0x45 0x30, 0x4E)] else [])
    ++ (if has o uWRAP || has o uUNWRAP then [(ascii2 0x4B 0x30, both uWRAP uUNWRAP)] else [])
    ++ (if has o uKBPK then [(ascii2 0x4B 0x31, 0x4E)] else [])
    ++ (if has o uMAC_GEN || has o uMAC_VERIFY then
         [(ascii2 0x4D 0x31, mac), (ascii2 0x4D 0x33, mac), (ascii2 0x4D 0x36, mac)] else [])
    ++ (if has o uPIN then [(ascii2 0x50 0x30, 0x4E)] else [])

/-- The characters of an exported PB block: the optional blocks fill whole cipher blocks, a KC block of 14 characters first. -/
def kbPad (version : Nat) : Nat := if version = 0x44 then 18 else 10

/-- The characters of an exported key block (R188). -/
def kbBytes (version : Nat) (o : KeyObj) : Nat :=
  let n := if version = 0x44 then 16 else 8
  30 + kbPad version + 2 * ((2 + o.body.length + n - 1) / n * n) + 2 * n

/-- The header an export writes: the usage and mode of use given, exportability "N", a KC block and padding (R188). -/
def kbHead (version : Nat) (um : Nat × Nat) (o : KeyObj) (pb : Bytes) : Bytes :=
  let alg := if isAes o.typ then 0x41 else 0x54
  [BitVec.ofNat 8 version] ++ toDec (kbBytes version o) 4 ++ beBytes um.1 2 ++ [BitVec.ofNat 8 alg, BitVec.ofNat 8 um.2, 0x30, 0x30, 0x4E]
    ++ [0x30, 0x32, 0x30, 0x30] ++ [0x4B, 0x43, 0x30, 0x45] ++ kcMethod alg ++ toHex (leBytes o.kcv 4)
    ++ [0x50, 0x42] ++ toHex [BitVec.ofNat 8 (kbPad version)] ++ (toHex pb).take (kbPad version - 4)

/-- The key block of an object under a protection key (R188). -/
def kbBlock (version : Nat) (um : Nat × Nat) (k o : KeyObj) (pb pad : Bytes) : Bytes :=
  let hd := kbHead version um o pb
  hd ++ kbSealed k.typ k.body hd (kbField k.typ o.body pad)

end Sys2Proof.Machine
end

