-- ==== Sys2Proof/Machine/Quorum.lean ====
section
/-!
DEFINITION. Quorum.lean: the custodian set, OP_DIGEST and quorum sessions as the commands that need them see them (R535, R538,
R539, R541, R544).
-/
namespace Sys2Proof.Machine

/-- M, N and the public key of custodian i of a set (R535). -/
def csetM (b : Bytes) : Nat := byteAt b 4
def csetN (b : Bytes) : Nat := byteAt b 5
def csetPub (b : Bytes) (i : Nat) : Bytes := slice b (0x20 + 112 * i) 96

/-- Whether a custodian set keeps the rules of R535. -/
def csetOk (b : Bytes) : Bool :=
  slice b 0 4 = [0x43, 0x53, 0x45, 0x54] && 1 ≤ csetN b && csetN b ≤ 16 && 1 ≤ csetM b && csetM b ≤ csetN b
    && b.length = 16 + 112 * csetN b && allZero b 6 10
    && (List.range (csetN b)).all (fun i => byteAt b (0x10 + 112 * i) = i && allZero b (0x11 + 112 * i) 15)
    && ((List.range (csetN b)).map (csetPub b)).Nodup

/-- The OP_DIGEST of a command: opcode, DOMAIN, OPERANDS and the input bytes (R539). -/
def opDigest (t : TagEntry) (input : Bytes) : Hash :=
  sha384 (leBytes (seOpcode t.entry) 1 ++ leBytes (seDomain t.entry) 2 ++ sliceZ t.entry 0x40 0x40 ++ input)

/-- The operation that restores an escrow blob. -/
abbrev opESCROW_RESTORE : Nat := 7

/-- Approvals and, for ESCROW_RESTORE, share openings still needed (R540). -/
def stillNeeded (cset : Bytes) (x : Session) : Nat := csetM cset - x.approved.length

/-- Whether a session is APPROVED (R540); an ESCROW_RESTORE needs as many share openings as its blob's M (R544). -/
def sessionApproved (cset : Bytes) (x : Session) : Bool :=
  csetM cset ≤ x.approved.length && (x.op != opESCROW_RESTORE || byteAt x.blob 5 ≤ x.shares.length)

/-- Open a session for a digest (R539): number, fresh NONCE; for ESCROW_RESTORE a session key. -/
def openSession (s : State) (op : Nat) (dig : Hash) (blob : Bytes) : State :=
  let (n, s) := drawBytes s 16
  let (k, s) := if op = opESCROW_RESTORE then drawBytes s 48 else ([], s)
  let x : Session := { number := s.quorum.next, op := op, digest := dig, nonce := n, approved := [], shares := [], key := k,
                       blob := blob, opened := optime s }
  { s with quorum := { s.quorum with session := some x, next := s.quorum.next % (2 ^ 32 - 1) + 1 } }

/-- What the quorum check answers: none when an APPROVED session with the digest stands, else the RESULT of QUORUM_REQUIRED
(R539); with no session open one opens; without a set none can be given (R535). -/
def quorumNeed (s : State) (op : Nat) (dig : Hash) (blob : Bytes) : Option Nat × State :=
  match s.quorum.cset, s.quorum.session with
  | none, _ => (some 0, s)
  | some c, some x =>
    if x.digest = dig then
      (if sessionApproved c x then none else some (x.number + stillNeeded c x * 2 ^ 32), s)
    else (some 0, s)
  | some c, none => (some (s.quorum.next + csetM c * 2 ^ 32), openSession s op dig blob)

/-- A session ends (R541). -/
def cancelSession (s : State) : State := { s with quorum := { s.quorum with session := none } }

/-- End a command QUORUM_REQUIRED, or go on: with the session consumed once the command commits STARTED (R541). -/
def withQuorum (s : State) (t : TagEntry) (op : Nat) (input : Bytes) (go : State → State) : State :=
  match quorumNeed s op (opDigest t input) input with
  | (some r, s) => failTag s t { (outStatus stQUORUM_REQUIRED) with result := r }
  | (none, s) =>
    let s' := go s
    if s'.qm.tags.any (fun x => x.tag = t.tag && x.commit = .started) then cancelSession s' else s'

end Sys2Proof.Machine
end

