-- ==== Sys2Proof/Machine/KeyCmds.lean ====
section
/-!
DEFINITION. KeyCmds.lean: the key-management opcodes that make, move and change key objects, and verification tables (R145–R150,
R174, R175, R184–R188, R605).
-/
namespace Sys2Proof.Machine

/-- Start a command in a world on a part of a class, with a second tile where the route has one: `f` draws on the state once the parts can take
it (R120, R122, R605). -/
def startIn (s : State) (t : TagEntry) (r : Run) (w cls rcls : Nat) (also : Option (Nat × Nat)) (f : State → (Outcome × Effect) × State) : State :=
  if canStartIn s t w cls r rcls also then
    let place := placeOf s t cls r 0 rcls also
    let (oe, s) := f (countSusp s cls r)
    let (v, s) := pickVariant s t rcls
    startTag s t { place with variant := v } oe.1 oe.2
  else s

/-- Start a command on one part of a class in its domain's world. -/
def startOn (s : State) (t : TagEntry) (r : Run) (cls rcls : Nat) (f : State → (Outcome × Effect) × State) : State :=
  startIn s t r (tagWorld s t) cls rcls none f

/-- The shape of a checked opcode: its checks in order, then its start; a member demoted since the fetch answers KEY_DOMAIN (R329), a
buffer above 16 MiB BAD_LENGTH (R121). -/
def checked (s : State) (r : Run) (op : Nat) (checks : TagEntry → List (Option Outcome)) (go : TagEntry → State) : Res :=
  opcodeRow s r op (fun t =>
    match firstSome (chk (roleShuts s op (seDomain t.entry)) (outStatus stKEY_DOMAIN) :: overLong t.entry :: checks t) with
    | some o => failTag s t o
    | none => go t)

/-- A command that needs a domain's store keys waits while they are not in the key cache (R497). -/
def whenKeys (s : State) (t : TagEntry) (go : State) : State :=
  if (domKey s 2 (seDomain t.entry)).isSome && (domKey s 3 (seDomain t.entry)).isSome then go else s

/-- A change of the store waits for its keys and for journal room before commit (R177, R186). -/
def whenRoom (s : State) (t : TagEntry) (n : Nat) (go : State) : State :=
  whenKeys s t (if journalRoom s (tagWorld s t) n then go else s)

/-- USAGE and ATTR reserved bits (R148, R149). -/
def badUsageAttr (e : Bytes) : Option Outcome :=
  firstSome [badField (seOp e 0x48 8 ≥ 2 ^ 16) 0x48, badField (seOp e 0x50 1 ≥ 4) 0x50]

/-- STREAM only on AES keys, VT_PIN only on P-384 public keys (R150). -/
def badTyped (e : Bytes) (typ : Nat) : Option Outcome :=
  firstSome [badField ((seOp e 0x48 8).testBit uSTREAM && !isAes typ) 0x48, badField ((seOp e 0x50 1).testBit 1 && typ != 0x19) 0x50]

/-- A new object of a type from the operands USE_LIMIT, USAGE and ATTR; slot and generation come at END. -/
def draftObj (e : Bytes) (typ bits usage origin : Nat) (body : Bytes) : KeyObj :=
  { handle := 0, typ := typ, usage := usage, useLimit := if typ = 0 then 0 else seOp e 0x44 4, useCount := 0, counter := 0, storeId := 0,
    version := 1, bits := typeBits typ bits, origin := origin, attr := seOp e 0x50 1, kcv := kcvOf typ body, body := body,
    useMark := 0, ctrMark := 0, ackUse := 0, ackCtr := 0, pend := [] }

/-! ## Public-key routes and the comb (R201–R203) -/

/-- Whether a cluster's comb may be used by a route that starts now (R201, R202). -/
def combFree (s : State) (unit : Nat) : Bool := isSet s (F.PKEC_STATUS_COMB_READY unit) && !isSet s (F.PKEC_COMB_REFRESH unit)

/-- Corrected errors a route met in its cluster's fixed-base SRAM (R203). -/
def sramCorrected (s : State) (r : Run) : State :=
  (List.range r.sramCorr).foldl (fun t _ => faultReport (bump t (F.PKEC_SRAM_CORRECTED r.unit) (F.PKEC_SRAM_SAT r.unit)) 0x05 r.unit 0) s

/-- An uncorrectable error: UNCORR, a report, and a refresh of the table (R203). -/
def sramUncorrected (s : State) (u : Nat) : State :=
  let s := faultReport (setF s (F.PKEC_SRAM_UNCORR u) 1) 0x06 u 0
  setF s (F.PKEC_COMB_REFRESH u) 1

/-- The SRAM events of a comb-using route. -/
def sramEvents (s : State) (r : Run) (comb : Bool) : State :=
  if comb then
    let s := sramCorrected s r
    if r.sramUncorr then sramUncorrected s r.unit else s
  else s

/-- Start a route on a public-key tile, with a cipher/hash tile where it has one; a comb-using one waits for its table, and an uncorrectable
error of the SRAM forces its check flag (R201, R203, R605). -/
def startPke (s : State) (t : TagEntry) (r : Run) (rcls : Nat) (comb : Bool) (also : Option (Nat × Nat))
    (f : State → (Outcome × Effect) × State) : State :=
  if comb && !combFree s r.unit then s
  else
    let s' := startIn s t r (tagWorld s t) 1 rcls also f
    if s'.qm.tags.any (fun x => x.tag = t.tag && x.commit = .started) then
      updTag (sramEvents s' r comb) t.tag (fun x => { x with route := x.route.map (fun p =>
        { p with comb := comb, forced := comb && r.sramUncorr }) })
    else s'

/-! ## Loads of keys and draws by steps (R195, R209, R231, R269) -/

/-- The key a KCLOAD step names: 0 KEY_A, 1 KEY_B. -/
def stepKey (t : TagEntry) (i : Nat) : Nat := if i = 0 then seKeyA t.entry else seKeyB t.entry

/-- A failed HBM read of a fetch step sets the route's INTEGRITY flag (R196). -/
def flagIntegrity (s : State) (tag : Nat) : State :=
  updTag s tag (fun x => { x with route := x.route.map (fun r => { r with integrity := true }) })

/-- A KCLOAD step: the entry is used, or on a miss loaded, and the command holds the key no longer; a key that cannot be read sets the INTEGRITY
flag (R172, R195, R209, R231). -/
def stepLoad (s : State) (t : TagEntry) (h : Nat) : Option KcEntry × State :=
  let s := match kcFind s 0 h with
    | some e => kcTouch s e
    | none => (useKey s h []).2
  let s := releaseKey s t.tag h
  match kcFind s 0 h with
  | some e => (some e, s)
  | none => (none, flagIntegrity s t.tag)

/-- One generator request of a route's part of a tile class is made (R270). -/
def stepDrew (s : State) (tag cls : Nat) : State :=
  updTag s tag (fun x => { x with route := x.route.map (fun r =>
    if r.cls = cls then { r with rands := r.rands - 1 } else { r with also := r.also.map (fun a => { a with rands := a.rands - 1 }) }) })

/-! ## KEY_GENERATE (R185, R216, R605) -/

/-- A fresh symmetric body of a type: random bytes, with odd parity for TDES (R149). -/
def genBody (s : State) (typ bits : Nat) : Bytes × State :=
  let (b, s) := drawBytes s (symBytes typ bits)
  (if isTdes typ then b.map oddParity else b, s)

/-- A fresh EC key: a scalar by the method of R213 and its public point, blinded on the tile (R205, R213, R216). -/
def genEc (s : State) (r : Run) (typ : Nat) : Bytes × State :=
  let c := curveOf (ecCurve typ)
  let (k, s) := draw s (bitLen c.n + 64)
  let d := beBytes (k % (c.n - 1) + 1) (ecL typ)
  (d ++ ecPublic (ecCurve typ) d, blindTile s r (ecBlinding s c (beNat d) false))

/-- Types and lengths KEY_GENERATE takes (R149, R185): the offset of the first bad field. -/
def genTypeBad (e : Bytes) : Option Outcome :=
  let t := seOp e 0x40 1
  let b := seOp e 0x42 2
  firstSome
    [badField (!(isAes t || isTdes t || t = 6 || isEcPriv t || t = 0x20)) 0x40,
     badField (if t = 6 then b < 128 || b > 1280 || b % 8 != 0
               else if t = 0x20 then b < 2048 || b > 16384 || b % 64 != 0 else b != 0) 0x42]

/-- The bytes of public key KEY_GENERATE writes. -/
def genOutBytes (t bits : Nat) : Nat := if isAsym t then pubBytes t bits else 0

/-- The route class of a key type (R197): curves 1 to 3; an RSA modulus of (CLASS + 1) × 64 bits. -/
def pkeClass (t bits : Nat) : Nat := if isEc t then t % 8 + 1 else bits / 64 - 1

/-- The checks of KEY_GENERATE, in order. -/
def chkKeyGenerate (s : State) (t : TagEntry) : List (Option Outcome) :=
  let e := t.entry
  let ty := seOp e 0x40 1
  let b := seOp e 0x42 2
  [spareOperands e [(0x40, 1), (0x42, 2), (0x44, 4), (0x48, 8), (0x50, 1)], genTypeBad e, badUsageAttr e, badTyped e ty,
   chk (genOutBytes ty b = 0 && seOutLen e != 0) (outBad stBAD_LENGTH 0x34), needLive s t,
   badTarget s t (seKeyA e) 0x10 (bodyBytes ty b), shortOut e (genOutBytes ty b),
   (if isAsym ty then needClass s 1 (tagWorld s t) else none), needClass s 2 (tagWorld s t)]

/-- What a key generation stages: the new object, its public key to the output of an asymmetric type; SIGN_CHECK_FAILED where its check fails
(R185, R207). -/
def genStage (e : Bytes) (body : Bytes) (bad : Bool) : Outcome × Effect :=
  let ty := seOp e 0x40 1
  let o := draftObj e ty (seOp e 0x42 2) (seOp e 0x48 8) 1 body
  if bad then (outStatus stSIGN_CHECK_FAILED, .nothing)
  else (outData 0 (if isAsym ty then pubOf o else []), .putKey (hSlot (seKeyA e)) o)

/-- The assembly of an RSA key once attempts have given two primes; until then the command waits (R207, R216). -/
def goRsaGenerate (r : Run) (s : State) (t : TagEntry) : State :=
  let e := t.entry
  let b := seOp e 0x42 2
  if !canStartIn s t (tagWorld s t) 1 r (pkeClass 0x20 b) (some (0x10, 0)) then s
  else
    match rsaGenerate s b with
    | (none, s) => s
    | (some body, s) => startPke s t r (pkeClass 0x20 b) false (some (0x10, 0)) (fun s =>
        let bad := !rsaKeyOk (draftObj e 0x20 b (seOp e 0x48 8) 1 body)
        (genStage e body (r.check || bad), blindTile s r (rsaBlinding s (beNat (body.take (b / 8))))))

/-- KEY_GENERATE once its checks pass: a symmetric key on a cipher/hash tile, an asymmetric one on a public-key and a cipher/hash tile (R605). -/
def goKeyGenerate (r : Run) (s : State) (t : TagEntry) : State :=
  let e := t.entry
  let ty := seOp e 0x40 1
  let b := seOp e 0x42 2
  whenRoom s t (128 + recSize (hClass (seKeyA e)))
    (if ty = 0x20 then goRsaGenerate r s t
     else if isAsym ty then startPke s t r (pkeClass ty b) (ty = 0x11) (some (0x10, 0)) (fun s =>
       let (body, s) := genEc s r ty
       (genStage e body r.check, s))
     else startOn s t r 2 0 (fun s =>
       let (body, s) := genBody s ty b
       (genStage e body false, s)))

/-- KEY_GENERATE: a new key in a chosen slot; its public key to the output of an asymmetric type (R184–R186, R605). -/
def execKeyGenerate (r : Run) (s : State) : Res := checked s r 0x10 (chkKeyGenerate s) (goKeyGenerate r s)

/-! ## KEY_IMPORT, KEY_EXPORT, KEY_DELETE, KEY_INFO, KEY_RESTRICT -/

/-- Whether a length is the record size of a class. -/
def isRecSize (n : Nat) : Bool := (List.range 7).any (fun c => recSize c = n)

/-- The checks of the slot an object to import names: NO_KEY for any state but empty or holding its generation, then an index beyond the region,
then the length of its class (R145, R147, R186, R187). -/
def importHandleBad (s : State) (t : TagEntry) (b : Bytes) : Option Outcome :=
  let h := leAt b 8 8
  if hDomain h != seDomain t.entry then none
  else firstSome
    [chk (hClass h > 6 || hGen h = 0 || slotExists s h && (match (slotOf s h).obj with
       | some o => o.handle != h
       | none => (slotOf s h).retired || (slotOf s h).gen != hGen h)) (outStatus stNO_KEY),
     badField (!slotExists s h) 0x10, badInLen (seInLen t.entry != recSize (hClass h))]

/-- The checks of KEY_IMPORT, in order. -/
def chkKeyImport (r : Run) (s : State) (t : TagEntry) : List (Option Outcome) :=
  [spareOperands t.entry [], badInLen (!isRecSize (seInLen t.entry)), needLive s t, chk r.input.isNone (outStatus stDMA_ERROR),
    importHandleBad s t (r.input.getD []), needClass s 2 (tagWorld s t)]

/-- KEY_IMPORT once its checks pass. -/
def goKeyImport (r : Run) (s : State) (t : TagEntry) : State :=
  let b := sliceZ (r.input.getD []) 0 (seInLen t.entry)
  let h := leAt b 8 8
  whenRoom s t (128 + b.length) (startOn s t r 2 0 (fun s =>
    let (ok, s) := if (storedObj s h).isSome then readRecord s h r.fails else (true, s)
    ((if ok then (outStatus stOK, .importKey b) else (outStatus stINTEGRITY, .nothing)), s)))

/-- KEY_IMPORT: a wrapped object is placed or replaces the stored one (R187). -/
def execKeyImport (r : Run) (s : State) : Res := checked s r 0x11 (chkKeyImport r s) (goKeyImport r s)

/-- The checks of KEY_EXPORT, in order. -/
def chkKeyExport (s : State) (t : TagEntry) : List (Option Outcome) :=
  [spareOperands t.entry [], shortOut t.entry (if hClass (seKeyA t.entry) ≤ 6 then recSize (hClass (seKeyA t.entry)) else 0),
    needLive s t, badHandle s t (seKeyA t.entry), needClass s 2 (tagWorld s t)]

/-- KEY_EXPORT once its checks pass. -/
def goKeyExport (r : Run) (s : State) (t : TagEntry) : State :=
  whenKeys s t (startOn s t r 2 0 (fun s =>
    let (ok, s) := readRecord s (seKeyA t.entry) r.fails
    match liveObj s (seKeyA t.entry) with
    | none => ((outStatus stNO_KEY, .nothing), s)
    | some o =>
      if ok then
        let (w, s) := wrapOut s o
        ((outData w.length w, .nothing), s)
      else ((outStatus stINTEGRITY, .nothing), s)))

/-- KEY_EXPORT: the wrapped object; the stored record is always read (R149, R610). -/
def execKeyExport (r : Run) (s : State) : Res := checked s r 0x12 (chkKeyExport s) (goKeyExport r s)

/-- The checks of KEY_DELETE, in order. -/
def chkKeyDelete (s : State) (t : TagEntry) : List (Option Outcome) :=
  [spareOperands t.entry [], needLive s t, badHandle s t (seKeyA t.entry), needClass s 2 (tagWorld s t)]

/-- KEY_DELETE once its checks pass. -/
def goKeyDelete (r : Run) (s : State) (t : TagEntry) : State :=
  let h := seKeyA t.entry
  whenRoom s t 128 (startOn s t r 2 0 (fun s =>
    ((outResult (if hGen h = 1023 then 0 else hGen h + 1), .deleteKey h), s)))

/-- KEY_DELETE: the slot is freed at END; RESULT is its next generation, 0 when the deletion retires it (R146). -/
def execKeyDelete (r : Run) (s : State) : Res := checked s r 0x13 (chkKeyDelete s) (goKeyDelete r s)

/-- The checks of KEY_INFO, in order. -/
def chkKeyInfo (s : State) (t : TagEntry) : List (Option Outcome) :=
  [spareOperands t.entry [], shortOut t.entry 64, needLive s t, badHandle s t (seKeyA t.entry)]

/-- KEY_INFO once its checks pass. -/
def goKeyInfo (r : Run) (s : State) (t : TagEntry) : State :=
  startOn s t r 3 0 (fun s =>
    let (ok, s) := readRecord s (seKeyA t.entry) r.fails
    match liveObj s (seKeyA t.entry) with
    | none => ((outStatus stNO_KEY, .nothing), s)
    | some o => ((if ok then outData o.version (objHeader o) else outStatus stINTEGRITY, .nothing), s))

/-- KEY_INFO: the 64-byte header; RESULT is VERSION (R184, R610). -/
def execKeyInfo (r : Run) (s : State) : Res := checked s r 0x14 (chkKeyInfo s) (goKeyInfo r s)

/-- What KEY_RESTRICT may not do (R150). -/
def restrictBad (e : Bytes) (o : KeyObj) : Option Outcome :=
  let u := seOp e 0x48 8
  let l := seOp e 0x44 4
  let a := seOp e 0x50 1
  firstSome
    [badField (metered o && (l = 0 || o.useLimit < l)) 0x44, badField (u &&& o.usage != u) 0x48,
     badField (a.testBit 0 && !o.attr.testBit 0) 0x50, badField (a.testBit 1 && o.typ != 0x19) 0x50]

/-- The checks of KEY_RESTRICT, in order. -/
def chkKeyRestrict (s : State) (t : TagEntry) : List (Option Outcome) :=
  let e := t.entry
  [spareOperands e [(0x44, 4), (0x48, 8), (0x50, 1)], badUsageAttr e, needLive s t, badHandle s t (seKeyA e),
   (storedObj s (seKeyA e)).bind (fun _ => (liveObj s (seKeyA e)).bind (restrictBad e)), needClass s 2 (tagWorld s t)]

/-- KEY_RESTRICT once its checks pass. -/
def goKeyRestrict (r : Run) (s : State) (t : TagEntry) : State :=
  let e := t.entry
  whenRoom s t 128 (startOn s t r 2 0 (fun s =>
    let (o, s) := useKey s (seKeyA e) r.fails
    ((match o with
      | none => (outStatus stINTEGRITY, .nothing)
      | some _ => (outStatus stOK, .restrictKey (seKeyA e) (seOp e 0x48 8) (seOp e 0x44 4) (seOp e 0x50 1))), s)))

/-- KEY_RESTRICT: USAGE, USE_LIMIT and EXPORTABLE only narrow; VT_PIN moves either way on a P-384 public key (R150). -/
def execKeyRestrict (r : Run) (s : State) : Res := checked s r 0x15 (chkKeyRestrict s) (goKeyRestrict r s)

/-! ## PUBKEY_ENROLL, PUBKEY_READ -/

/-- Whether an input length is a point of a curve in either form (R185). -/
def pointLen (t n : Nat) : Bool := n = 1 + 2 * ecL t || n = 1 + ecL t

/-- Whether a point's first byte fits its length (R185, R199). -/
def pointForm (t : Nat) (b : Bytes) : Bool :=
  if b.length = 1 + 2 * ecL t then byteAt b 0 = 4 else byteAt b 0 = 2 || byteAt b 0 = 3

/-- A valid point uncompressed (R185, R206). -/
def pointBytes (t : Nat) (b : Bytes) : Bytes :=
  let xy := ecPointXY (ecCurve t) b
  [0x04] ++ beBytes xy.1 (ecL t) ++ beBytes xy.2 (ecL t)

/-- The RSA modulus length an enrolled key's input length gives: modulus then exponent (log entry 15). -/
def rsaInBits (n : Nat) : Nat := (n - rsaE) * 8

/-- Whether an input length is an RSA public key of a length the engine takes. -/
def rsaInLen (n : Nat) : Bool := rsaE < n && 2048 ≤ rsaInBits n && rsaInBits n ≤ 16384 && rsaInBits n % 64 = 0

/-- The checks of PUBKEY_ENROLL, in order. -/
def chkPubkeyEnroll (r : Run) (s : State) (t : TagEntry) : List (Option Outcome) :=
  let e := t.entry
  let ty := seOp e 0x40 1
  let n := seInLen e
  [spareOperands e [(0x40, 1), (0x48, 8), (0x50, 1)], badField (!(isEcPub ty || ty = 0x28)) 0x40, badUsageAttr e, badTyped e ty,
   needLive s t, badTarget s t (seKeyA e) 0x10 (bodyBytes ty (rsaInBits n)),
   badInLen (if isEcPub ty then !pointLen ty n else !rsaInLen n),
   (if ty = 0x28 then firstSome [chk r.input.isNone (outStatus stDMA_ERROR),
      badField (beNat (sliceZ (r.input.getD []) (n - rsaE) rsaE) != 65537) 0x40] else none),
   needClass s 1 (tagWorld s t), needClass s 2 (tagWorld s t)]

/-- PUBKEY_ENROLL once its checks pass. -/
def goPubkeyEnroll (r : Run) (s : State) (t : TagEntry) : State :=
  let e := t.entry
  let ty := seOp e 0x40 1
  let bits := if ty = 0x28 then rsaInBits (seInLen e) else 0
  whenRoom s t (128 + recSize (hClass (seKeyA e))) (startPke s t r (pkeClass ty bits) false (some (0x16, 0)) (fun s =>
    (withInput r (seInLen e) (fun b =>
      if isEcPub ty ∧ !(pointForm ty b && ecPointValid (ecCurve ty) b) then (outStatus stPOINT_INVALID, .nothing)
      else
        let o := draftObj e ty bits (seOp e 0x48 8) 3 (if isEcPub ty then pointBytes ty b else b)
        (outStatus stOK, .putKey (hSlot (seKeyA e)) { o with useLimit := 0 })), s)))

/-- PUBKEY_ENROLL: a public key becomes an object; an invalid point completes POINT_INVALID at END (R185, R198, R206). -/
def execPubkeyEnroll (r : Run) (s : State) : Res := checked s r 0x16 (chkPubkeyEnroll r s) (goPubkeyEnroll r s)

/-- The checks of PUBKEY_READ, in order. -/
def chkPubkeyRead (s : State) (t : TagEntry) : List (Option Outcome) :=
  let e := t.entry
  [spareOperands e [], needLive s t, badHandle s t (seKeyA e),
   (liveObj s (seKeyA e)).bind (fun o => if isAsym o.typ then shortOut e (pubBytes o.typ o.bits) else none),
   (liveObj s (seKeyA e)).bind (fun o => chk (!isAsym o.typ) (outStatus stKEY_USAGE))]

/-- PUBKEY_READ once its checks pass. -/
def goPubkeyRead (r : Run) (s : State) (t : TagEntry) : State :=
  startOn s t r 3 0 (fun s =>
    let (o, s) := useKey s (seKeyA t.entry) r.fails
    ((match o with
      | none => (outStatus stINTEGRITY, .nothing)
      | some o => (outData (pubOf o).length (pubOf o), .nothing)), s))

/-- PUBKEY_READ: the public key; RESULT is its length (R184). -/
def execPubkeyRead (r : Run) (s : State) : Res := checked s r 0x17 (chkPubkeyRead s) (goPubkeyRead r s)

/-! ## Key blocks (R188) -/

/-- The usage checks of the protection key: KBPK, no stream key, and a type that fits the version ID (R188, R241). -/
def kbpkBad (o : KeyObj) (version : Nat) : Bool :=
  !has o uKBPK || has o uSTREAM || (if version = 0x44 then !isAes o.typ else !isTdes o.typ)

/-- The object an opened key block gives, none where its key does not fit its algorithm or its KC disagrees. -/
def kbObject (e : Bytes) (h : KbHeader) (key : Bytes) : Option KeyObj :=
  (kbType h.alg key.length).bind (fun ty =>
    let usage := seOp e 0x48 8 &&& (kbGrant h.usage h.mode).getD 0
    let o := { (draftObj e ty 0 usage 2 key) with
      useLimit := 0, attr := (if h.export_ = 0x45 then 1 else 0)
      counter := if usage.testBit uDUKPT_BDK then ksBdkId h else 0 }
    if kcAgrees h o.kcv then some o else none)

/-- The checks of KEYBLOCK_IMPORT, in order. -/
def chkKeyblockImport (r : Run) (s : State) (t : TagEntry) : List (Option Outcome) :=
  let e := t.entry
  let b := sliceZ (r.input.getD []) 0 (seInLen e)
  [spareOperands e [(0x48, 8)], badUsageAttr e, badInLen (seInLen e < 16), chk r.input.isNone (outStatus stDMA_ERROR),
   badField (kbHeader b).isNone 0x20, badField ((seOp e 0x48 8).testBit uSTREAM && byteAt b 7 != 0x41) 0x48, needLive s t,
   badTargetHandle t (seKeyA e), badHandle s t (seKeyB e), badTargetSlot s (seKeyA e) 0x10 32,
   (liveObj s (seKeyB e)).bind (fun o => chk (kbpkBad o (byteAt b 0)) (outStatus stKEY_USAGE)), needClass s 2 (tagWorld s t)]

/-- KEYBLOCK_IMPORT once its checks pass. -/
def goKeyblockImport (r : Run) (s : State) (t : TagEntry) : State :=
  let e := t.entry
  let b := sliceZ (r.input.getD []) 0 (seInLen e)
  whenRoom s t (128 + recSize (hClass (seKeyA e))) (startOn s t r 2 0 (fun s =>
    let (k, s) := useKey s (seKeyB e) r.fails
    ((match k, kbHeader b with
      | some k, some h =>
        match (kbOpen h k b).bind (kbObject e h) with
        | none => (outStatus stVERIFY_FAILED, .nothing)
        | some o => (outStatus stOK, .putKey (hSlot (seKeyA e)) o)
      | _, _ => (outStatus stINTEGRITY, .nothing)), s)))

/-- KEYBLOCK_IMPORT: a key block opened under KEY_B becomes an object (R188). -/
def execKeyblockImport (r : Run) (s : State) : Res := checked s r 0x18 (chkKeyblockImport r s) (goKeyblockImport r s)

/-- The key block of an object under a protection key, its padding drawn; which of several usages that fit is a free value (log entry 18). -/
def kbSeal (s : State) (version : Nat) (k o : KeyObj) : Bytes × State :=
  let (i, s) := draw s 8
  let (pb, s) := drawBytes s 16
  let (pad, s) := drawBytes s 16
  (kbBlock version ((kbUsages o)[i % max 1 (kbUsages o).length]?.getD (0, 0)) k o pb pad, s)

/-- The checks of KEYBLOCK_EXPORT, in order. -/
def chkKeyblockExport (s : State) (t : TagEntry) : List (Option Outcome) :=
  let e := t.entry
  let v := seOp e 0x40 1
  let len := ((liveObj s (seKeyA e)).map (kbBytes v)).getD 0
  [spareOperands e [(0x40, 1)], badField (v != 0x42 && v != 0x44) 0x40, needLive s t, badHandle s t (seKeyA e),
   badHandle s t (seKeyB e), shortOut e len,
   (liveObj s (seKeyA e)).bind (fun o =>
     chk (!o.attr.testBit 0 || !(isAes o.typ || isTdes o.typ) || has o uSTREAM || (kbUsages o).isEmpty) (outStatus stKEY_USAGE)),
   (liveObj s (seKeyB e)).bind (fun o => chk (kbpkBad o v) (outStatus stKEY_USAGE)), needClass s 2 (tagWorld s t)]

/-- KEYBLOCK_EXPORT once its checks pass. -/
def goKeyblockExport (r : Run) (s : State) (t : TagEntry) : State :=
  let e := t.entry
  startOn s t r 2 0 (fun s =>
    match liveObj s (seKeyA e), liveObj s (seKeyB e) with
    | some _, some _ =>
      let (b, s1) := kbSeal s (seOp e 0x40 1) ((liveObj s (seKeyB e)).getD (objOf [] [])) ((liveObj s (seKeyA e)).getD (objOf [] []))
      let (o, s1) := useKey s1 (seKeyA e) r.fails
      let (k, s1) := useKey s1 (seKeyB e) r.fails
      (((if o.isSome && k.isSome then outData b.length b else outStatus stINTEGRITY), .nothing), s1)
    | _, _ => ((outStatus stNO_KEY, .nothing), s))

/-- KEYBLOCK_EXPORT: the key as a key block under KEY_B, with exportability "N" and a KC block; EXPORTABLE is required (R188). -/
def execKeyblockExport (r : Run) (s : State) : Res := checked s r 0x19 (chkKeyblockExport s) (goKeyblockExport r s)

/-! ## Verification tables -/

/-- The checks of VTABLE_CTRL, in order. -/
def chkVtableCtrl (s : State) (t : TagEntry) : List (Option Outcome) :=
  let e := t.entry
  let w := tagWorld s t
  let build := seOp e 0x40 1 = 1
  [spareOperands e [(0x40, 1)], badField (seOp e 0x40 1 != 1 && seOp e 0x40 1 != 2) 0x40, needLive s t, badHandle s t (seKeyA e),
   (liveObj s (seKeyA e)).bind (fun o => badField (!build && o.attr.testBit 1) 0x40),
   (liveObj s (seKeyA e)).bind (fun o => chk (o.typ != 0x19) (outStatus stKEY_USAGE)),
   (if build then needClass s 1 w else none),
   chk (build && !hasTable s (seKeyA e) && tableRoom s w = 2) (outStatus stRESOURCE)]

/-- VTABLE_CTRL once its checks pass. -/
def goVtableCtrl (r : Run) (s : State) (t : TagEntry) : State :=
  let h := seKeyA t.entry
  let w := tagWorld s t
  if seOp t.entry 0x40 1 = 2 then startOn s t r 3 0 (fun s => ((outResult 0, .vtEvict h), s))
  else if !hasTable s h && tableRoom s w = 1 then chooseVictim s w
  else startOn s t r 1 2 (fun s => ((outResult 1, .vtBuilt h), s))

/-- VTABLE_CTRL: BUILD completes after its build, EVICT starts an eviction (R174, R175). -/
def execVtableCtrl (r : Run) (s : State) : Res := checked s r 0x1B (chkVtableCtrl s) (goVtableCtrl r s)

/-- VTABLE_BUILD: a build that a command caused runs on a public-key tile of the key's world; without any room it is dropped
(R174). -/
def execVtableBuild (handle unit tile : Nat) (s : State) : Res :=
  let w := domWorldOf s (hDomain handle)
  let done := fun s : State => { s with ks := { s.ks with builds := s.ks.builds.filter (fun b => b.handle != handle) } }
  whenLandau s
    (if !(s.ks.builds.any (fun b => b.handle = handle)) then s
     else if (storedObj s handle).isNone ∨ hasTable s handle then done s
     else match tableRoom s w with
       | 0 => if tileServes s 1 w unit tile && partIdle s 1 unit tile 0 && !underTest s 1 unit tile then done (addTable s handle) else s
       | 1 => chooseVictim s w
       | _ => done s)

/-- VTABLE_EVICTION: an eviction ends once no started route holds the table (R175). -/
def execVtableEviction (handle : Nat) (s : State) : Res :=
  .next (if tableHeld s handle then s
    else { s with ks := { s.ks with tables := s.ks.tables.filter (fun t => !(t.handle = handle && t.evicting)) } })

end Sys2Proof.Machine
end

