-- ==== Sys2Proof/Machine/PkeCmds.lean ====
section
/-!
DEFINITION. PkeCmds.lean: the opcodes of range 0x30–0x4F (R206–R216).
-/
namespace Sys2Proof.Machine

/-- KEY_USAGE: a type the opcode does not take, the flag missing, or a metered key (R212). -/
def pkeUsage (s : State) (h : Nat) (okType : Nat → Bool) (flag : Nat) : Option Outcome :=
  (liveObj s h).bind (fun o => chk (!okType o.typ || !has o flag || metered o) (outStatus stKEY_USAGE))

/-- A check that a key's type decides; a type the opcode does not take is left to the usage check. -/
def byType (s : State) (h : Nat) (okType : Nat → Bool) (f : KeyObj → Option Outcome) : Option Outcome :=
  (liveObj s h).bind (fun o => if okType o.typ then f o else none)

/-- Digest lengths (R210). -/
def isDigest (n : Nat) : Bool := n = 32 || n = 48 || n = 64

/-- HASH and PAD out of range (R211). -/
def badHash (e : Bytes) : Option Outcome := badField (seOp e 0x41 1 = 0 || 3 < seOp e 0x41 1) 0x41
def badPad (e : Bytes) : Option Outcome := badField (seOp e 0x42 1 = 0 || 2 < seOp e 0x42 1) 0x42

/-- A message above 16 MiB (R212). -/
def badMsg (e : Bytes) : Option Outcome := badInLen (2 ^ 24 < seInLen e)

/-- The private-key result of a route: withheld when its check fails (R207). -/
def released (bad : Bool) (o : Outcome) : Outcome := if bad then outStatus stSIGN_CHECK_FAILED else o

/-- The verdict of a verification (R210). -/
def verdict (ok : Bool) : Outcome := outStatus (if ok then stOK else stVERIFY_FAILED)

/-- An input length that does not fit the key: BAD_LENGTH with the required output length in RESULT where the opcode has one (R212). -/
def pkeInLen (bad : Bool) (need : Nat) : Option Outcome := chk bad { (outBad stBAD_LENGTH 0x30) with result := need }

/-- The cipher/hash part of a route: the hash of a message (0x54), HKDF-SHA-384 or MGF1 with a hash (0x57) of R232. -/
def hashPart (e : Bytes) : Option (Nat × Nat) := some (0x54, 8 * 16 + seOp e 0x41 1)
def hkdfPart : Option (Nat × Nat) := some (0x57, 9 * 16)
def mgfPart (e : Bytes) : Option (Nat × Nat) := some (0x57, 10 * 16 + seOp e 0x41 1)

/-! ## ECDSA (R213) -/

/-- A nonce by the extra-random-bits method: 64 bits beyond n, mod n − 1, plus 1 (R213). -/
def drawNonce (s : State) (c : Curve) : Nat × State :=
  let (k, s) := draw s (bitLen c.n + 64)
  (k % (c.n - 1) + 1, s)

/-- The signature route, blinded, with its check before release (R205, R207, R213). -/
def signWith (s : State) (r : Run) (h : Nat) (dig : Option Bytes) : (Outcome × Effect) × State :=
  let (o, s) := useKey s h r.fails
  match o, dig with
  | none, _ => ((outStatus stINTEGRITY, .nothing), s)
  | some _, none => ((outStatus stDMA_ERROR, .nothing), s)
  | some o, some dig =>
    let c := curveOf (ecCurve o.typ)
    let (k, s) := drawNonce s c
    let d := o.body.take c.len
    let sig := ecdsaSign (ecCurve o.typ) d dig k
    ((released (r.check || !signChecks (ecCurve o.typ) d dig sig) (outData 0 sig), .nothing), blindTile s r (ecBlinding s c k true))

/-- The checks of ECDSA_SIGN, in order. -/
def chkEcdsaSign (s : State) (t : TagEntry) : List (Option Outcome) :=
  let e := t.entry
  [spareOperands e [], needLive s t, badHandle s t (seKeyA e), byType s (seKeyA e) isEcPriv (fun o => pkeInLen (!isDigest (seInLen e)) (2 * ecL o.typ)),
   byType s (seKeyA e) isEcPriv (fun o => shortOut e (2 * ecL o.typ)), pkeUsage s (seKeyA e) isEcPriv uSIGN, needClass s 1 (tagWorld s t)]

/-- ECDSA_SIGN once its checks pass. -/
def goEcdsaSign (r : Run) (s : State) (t : TagEntry) : State :=
  let h := seKeyA t.entry
  match liveObj s h with
  | none => s
  | some o => startPke s t r (pkeClass o.typ o.bits) (o.typ = 0x11) none
      (fun s => signWith s r h (r.input.map (fun b => sliceZ b 0 (seInLen t.entry))))

/-- ECDSA_SIGN: a signature over a digest, checked before release (R207, R210, R213). -/
def execEcdsaSign (r : Run) (s : State) : Res := checked s r 0x30 (chkEcdsaSign s) (goEcdsaSign r s)

/-- The hash of a message operand (R211). -/
def msgDigest (e : Bytes) (r : Run) : Option Bytes := r.input.map (fun b => hashFn (seOp e 0x41 1) (sliceZ b 0 (seInLen e)))

/-- The checks of ECDSA_SIGN_MSG, in order. -/
def chkEcdsaSignMsg (s : State) (t : TagEntry) : List (Option Outcome) :=
  let e := t.entry
  [spareOperands e [(0x41, 1)], badHash e, badMsg e, needLive s t, badHandle s t (seKeyA e),
   byType s (seKeyA e) isEcPriv (fun o => shortOut e (2 * ecL o.typ)), pkeUsage s (seKeyA e) isEcPriv uSIGN,
   needClass s 1 (tagWorld s t), needClass s 2 (tagWorld s t)]

/-- ECDSA_SIGN_MSG once its checks pass. -/
def goEcdsaSignMsg (r : Run) (s : State) (t : TagEntry) : State :=
  match liveObj s (seKeyA t.entry) with
  | none => s
  | some o => startPke s t r (pkeClass o.typ o.bits) (o.typ = 0x11) (hashPart t.entry) (fun s => signWith s r (seKeyA t.entry) (msgDigest t.entry r))

/-- ECDSA_SIGN_MSG: the message is hashed on a cipher/hash tile of the same world (R213). -/
def execEcdsaSignMsg (r : Run) (s : State) : Res := checked s r 0x31 (chkEcdsaSignMsg s) (goEcdsaSignMsg r s)

/-- The route class of a verification: table mode for a P-384 public key with a complete table (R197, R213). -/
def verifyClass (s : State) (o : KeyObj) : Nat := if o.typ = 0x19 ∧ hasTable s o.handle then 4 else pkeClass o.typ o.bits

/-- u2′ of a table-mode verification: (u2 − M) mod n with M = (16^96 − 1)/15 (R204). -/
def tableScalar (dig sig : Bytes) : Nat × Nat :=
  let c := curve384
  let r := beNat (sig.take c.len)
  let w := invMod (beNat (sig.drop c.len)) c.n
  let m := (16 ^ 96 - 1) / 15
  (digestInt c dig * w % c.n, (r * w % c.n + (c.n - m % c.n)) % c.n)

/-- Base-16 digit j of u2′, least significant first (R204). -/
def tableDigit (u j : Nat) : Nat := u / 16 ^ j % 16

/-- The lines of a table that a route reads for u2′: entry (j, d_j) of each window j (R204). -/
def tableLines (s : State) (x : VTable) (u : Nat) : List Nat := (List.range 96).flatMap (fun j => entryLines s x j (tableDigit u j))

/-- The sum of the entries (j, d_j) of a table in HBM (R204). -/
def tableSum (s : State) (x : VTable) (u : Nat) : Pt :=
  (List.range 96).foldl (fun a j => ptAdd curve384 a (ptDecode curve384 (entryBytes s x j (tableDigit u j)))) none

/-- A table-mode verification: u1·G and the sum of the table's entries give r (R204, R206, R213). -/
def tableVerify (s : State) (x : VTable) (dig sig : Bytes) : Bool :=
  let c := curve384
  let r := beNat (sig.take c.len)
  let v := beNat (sig.drop c.len)
  let u := tableScalar dig sig
  !(r = 0 || decide (c.n ≤ r) || v = 0 || decide (c.n ≤ v) || sig.length != 2 * c.len)
    && ((ptAdd c (ptMul c u.1 c.g) (tableSum s x u.2)).map (fun p => p.1 % c.n)) = some r

/-- The verification route over the variable-base point or, in table mode, over the key's table, whose lines it reads (R163, R204, R213). -/
def verifyWith (s : State) (r : Run) (h rcls : Nat) (sig dig : Option Bytes) : (Outcome × Effect) × State :=
  let (o, s) := useKey s h r.fails
  match o, sig, dig with
  | some o, some sig, some dig =>
    (match (if rcls = 4 then keyTable s h else none) with
      | none => ((verdict (ecdsaVerify (ecCurve o.typ) (pubOf o) dig sig), .nothing), s)
      | some x =>
        let (ok, s) := mcRead s (tableLine s x 0).1 (tableLines s x (tableScalar dig sig).2) r.fails
        ((if ok then verdict (tableVerify s x dig sig) else outStatus stINTEGRITY, .nothing), s))
  | some _, _, _ => ((outStatus stDMA_ERROR, .nothing), s)
  | none, _, _ => ((outStatus stINTEGRITY, .nothing), s)

/-- A table used becomes the most recently used (R174). -/
def touchTable (s : State) (h : Nat) : State :=
  { s with ks := { s.ks with clock := s.ks.clock + 1, tables := s.ks.tables.map (fun t => if t.handle = h then { t with order := s.ks.clock } else t) } }

/-- The checks of ECDSA_VERIFY, in order. -/
def chkEcdsaVerify (s : State) (t : TagEntry) : List (Option Outcome) :=
  let e := t.entry
  [spareOperands e [], needLive s t, badHandle s t (seKeyA e),
   byType s (seKeyA e) isEc (fun o => badInLen (!(2 * ecL o.typ ≤ seInLen e && isDigest (seInLen e - 2 * ecL o.typ)))),
   pkeUsage s (seKeyA e) isEc uVERIFY, needClass s 1 (tagWorld s t)]

/-- ECDSA_VERIFY once its checks pass. -/
def goEcdsaVerify (r : Run) (s : State) (t : TagEntry) : State :=
  match liveObj s (seKeyA t.entry) with
  | none => s
  | some o =>
    let n := 2 * ecL o.typ
    let cls := verifyClass s o
    startPke (if cls = 4 then touchTable s o.handle else s) t r cls (o.typ = 0x11 || o.typ = 0x19) none (fun s =>
      verifyWith s r o.handle cls (r.input.map (fun b => sliceZ b 0 n)) (r.input.map (fun b => sliceZ b n (seInLen t.entry - n))))

/-- ECDSA_VERIFY: signature ‖ digest under a stored key (R210, R213). -/
def execEcdsaVerify (r : Run) (s : State) : Res := checked s r 0x32 (chkEcdsaVerify s) (goEcdsaVerify r s)

/-- The checks of ECDSA_VERIFY_MSG, in order. -/
def chkEcdsaVerifyMsg (s : State) (t : TagEntry) : List (Option Outcome) :=
  let e := t.entry
  [spareOperands e [(0x41, 1)], badHash e, badMsg e, needLive s t, badHandle s t (seKeyA e),
   byType s (seKeyA e) isEc (fun o => badInLen (seInLen e < 2 * ecL o.typ)), pkeUsage s (seKeyA e) isEc uVERIFY,
   needClass s 1 (tagWorld s t), needClass s 2 (tagWorld s t)]

/-- ECDSA_VERIFY_MSG once its checks pass. -/
def goEcdsaVerifyMsg (r : Run) (s : State) (t : TagEntry) : State :=
  match liveObj s (seKeyA t.entry) with
  | none => s
  | some o =>
    let n := 2 * ecL o.typ
    let cls := verifyClass s o
    startPke (if cls = 4 then touchTable s o.handle else s) t r cls (o.typ = 0x11 || o.typ = 0x19) (hashPart t.entry) (fun s =>
      verifyWith s r o.handle cls (r.input.map (fun b => sliceZ b 0 n))
        (r.input.map (fun b => hashFn (seOp t.entry 0x41 1) (sliceZ b n (seInLen t.entry - n)))))

/-- ECDSA_VERIFY_MSG: signature ‖ message (R210, R213). -/
def execEcdsaVerifyMsg (r : Run) (s : State) : Res := checked s r 0x33 (chkEcdsaVerifyMsg s) (goEcdsaVerifyMsg r s)

/-- Bytes of a point by CURVE and POINT_FORM (R199, R211). -/
def extPointLen (ty form : Nat) : Nat := if form = 0 then 1 + 2 * ecL ty else 1 + ecL ty

/-- The checks of ECDSA_VERIFY_EXT, in order. -/
def chkEcdsaVerifyExt (s : State) (t : TagEntry) : List (Option Outcome) :=
  let e := t.entry
  let ty := seOp e 0x40 1
  let fix := extPointLen ty (seOp e 0x51 1) + 2 * ecL ty
  [spareOperands e [(0x40, 1), (0x51, 1)], badField (!isEcPub ty) 0x40, badField (1 < seOp e 0x51 1) 0x51,
   badInLen (!(fix ≤ seInLen e && isDigest (seInLen e - fix))), needClass s 1 (tagWorld s t)]

/-- ECDSA_VERIFY_EXT once its checks pass. -/
def goEcdsaVerifyExt (r : Run) (s : State) (t : TagEntry) : State :=
  let e := t.entry
  let ty := seOp e 0x40 1
  let n := extPointLen ty (seOp e 0x51 1)
  startPke s t r (pkeClass ty 0) (ty = 0x19) none (fun s =>
    (withInput r (seInLen e) (fun b =>
      let pt := b.take n
      if !(pointForm ty pt && ecPointValid (ecCurve ty) pt) then (outStatus stPOINT_INVALID, .nothing)
      else (verdict (ecdsaVerify (ecCurve ty) pt (b.drop (n + 2 * ecL ty)) (slice b n (2 * ecL ty))), .nothing)), s))

/-- ECDSA_VERIFY_EXT: point ‖ signature ‖ digest, the point validated (R206, R210, R213). -/
def execEcdsaVerifyExt (r : Run) (s : State) : Res := checked s r 0x34 (chkEcdsaVerifyExt s) (goEcdsaVerifyExt r s)

/-! ## ECDH (R214) -/

/-- The TYPE, BITS and INFO fields of ECDH_DERIVE (R211). -/
def ecdhFields (e : Bytes) : Option Outcome :=
  let ty := seOp e 0x40 1
  let b := seOp e 0x42 2
  firstSome [badField (ty = 0 || 6 < ty) 0x40, badField (if ty = 6 then b < 128 || 384 < b || b % 8 != 0 else b != 0) 0x42,
    badField (1 < seOp e 0x51 1) 0x51]

/-- The key that Z and info give (R214): HKDF-SHA-384 with a zero salt; odd parity for TDES. -/
def ecdhKey (e z info : Bytes) : Bytes :=
  let k := hkdf384 (zeros 48) z info (symBytes (seOp e 0x40 1) (seOp e 0x42 2))
  if isTdes (seOp e 0x40 1) then k.map oddParity else k

/-- The checks of ECDH_DERIVE, in order. -/
def chkEcdhDerive (s : State) (t : TagEntry) : List (Option Outcome) :=
  let e := t.entry
  let ty := seOp e 0x40 1
  [spareOperands e [(0x40, 1), (0x42, 2), (0x44, 4), (0x48, 8), (0x50, 1), (0x51, 1), (0x52, 1)], ecdhFields e, badUsageAttr e,
   badTyped e ty, needLive s t, badHandle s t (seKeyA e),
   byType s (seKeyA e) isEcPriv (fun o => badInLen (seInLen e != extPointLen o.typ (seOp e 0x51 1) + seOp e 0x52 1)),
   badTarget s t (seKeyB e) 0x18 (symBytes ty (seOp e 0x42 2)), pkeUsage s (seKeyA e) isEcPriv uKEY_AGREE,
   needClass s 1 (tagWorld s t), needClass s 2 (tagWorld s t)]

/-- ECDH_DERIVE once its checks pass. -/
def goEcdhDerive (r : Run) (s : State) (t : TagEntry) : State :=
  let e := t.entry
  match liveObj s (seKeyA e) with
  | none => s
  | some o =>
    let n := extPointLen o.typ (seOp e 0x51 1)
    whenRoom s t (128 + recSize (hClass (seKeyB e))) (startPke s t r (pkeClass o.typ o.bits) false hkdfPart (fun s =>
      let (k, s) := useKey s (seKeyA e) r.fails
      let s := blindTile s r (ecBlinding s (curveOf (ecCurve o.typ)) (beNat (o.body.take (ecL o.typ))) false)
      ((match k with
        | none => (outStatus stINTEGRITY, .nothing)
        | some k => withInput r (seInLen e) (fun b =>
          let pt := b.take n
          if !(pointForm k.typ pt && ecPointValid (ecCurve k.typ) pt) then (outStatus stPOINT_INVALID, .nothing)
          else
            let z := ecdhX (ecCurve k.typ) (k.body.take (ecL k.typ)) pt
            let new := draftObj e (seOp e 0x40 1) (seOp e 0x42 2) (seOp e 0x48 8) 1 (ecdhKey e z (slice b n (seOp e 0x52 1)))
            if r.check ∨ z.isEmpty then (outStatus stSIGN_CHECK_FAILED, .nothing)
            else (outStatus stOK, .putKey (hSlot (seKeyB e)) new))), s)))

/-- ECDH_DERIVE: a shared secret, then a new key by HKDF in the slot KEY_B names (R210–R214). -/
def execEcdhDerive (r : Run) (s : State) : Res := checked s r 0x35 (chkEcdhDerive s) (goEcdhDerive r s)

/-! ## RSA (R215) -/

/-- Types of the RSA opcodes. -/
def isRsaPriv (t : Nat) : Bool := t = 0x20

/-- The encoding of a digest for signing. -/
def rsaEncode (e dig salt : Bytes) (k : Nat) : Bytes :=
  if seOp e 0x42 1 = 1 then emsaV15 (seOp e 0x41 1) dig k else emsaPss (seOp e 0x41 1) dig salt k

/-- The checks of RSA_SIGN, in order. -/
def chkRsaSign (s : State) (t : TagEntry) : List (Option Outcome) :=
  let e := t.entry
  [spareOperands e [(0x41, 1), (0x42, 1)], badHash e, badPad e, needLive s t, badHandle s t (seKeyA e),
   byType s (seKeyA e) isRsaPriv (fun o => pkeInLen (seInLen e != hashLen (seOp e 0x41 1)) (rsaLen o)),
   byType s (seKeyA e) isRsaPriv (fun o => shortOut e (rsaLen o)), pkeUsage s (seKeyA e) isRsaPriv uSIGN, needClass s 1 (tagWorld s t)]

/-- RSA_SIGN once its checks pass. -/
def goRsaSign (r : Run) (s : State) (t : TagEntry) : State :=
  let e := t.entry
  match liveObj s (seKeyA e) with
  | none => s
  | some o => startPke s t r (pkeClass o.typ o.bits) false (if seOp e 0x42 1 = 2 then mgfPart e else none) (fun s =>
      let (k, s) := useKey s (seKeyA e) r.fails
      let (salt, s) := drawBytes s (hashLen (seOp e 0x41 1))
      let s := blindTile s r (rsaBlinding s (rsaN o))
      ((match k with
        | none => (outStatus stINTEGRITY, .nothing)
        | some k => withInput r (seInLen e) (fun dig =>
          let em := rsaEncode e dig salt (rsaLen k)
          let sig := rsaPriv k (beNat em)
          (released (r.check || rsaPub k (beNat sig) != em) (outData 0 sig), .nothing))), s))

/-- RSA_SIGN: a padded signature, raised to 65,537 and compared before release (R207, R215). -/
def execRsaSign (r : Run) (s : State) : Res := checked s r 0x38 (chkRsaSign s) (goRsaSign r s)

/-- The checks of RSA_VERIFY, in order. -/
def chkRsaVerify (s : State) (t : TagEntry) : List (Option Outcome) :=
  let e := t.entry
  [spareOperands e [(0x41, 1), (0x42, 1)], badHash e, badPad e, needLive s t, badHandle s t (seKeyA e),
   byType s (seKeyA e) isRsa (fun o => badInLen (seInLen e != rsaLen o + hashLen (seOp e 0x41 1))),
   pkeUsage s (seKeyA e) isRsa uVERIFY, needClass s 1 (tagWorld s t)]

/-- RSA_VERIFY once its checks pass. -/
def goRsaVerify (r : Run) (s : State) (t : TagEntry) : State :=
  let e := t.entry
  match liveObj s (seKeyA e) with
  | none => s
  | some o => startPke s t r (pkeClass o.typ o.bits) false (if seOp e 0x42 1 = 2 then mgfPart e else none) (fun s =>
      let (k, s) := useKey s (seKeyA e) r.fails
      ((match k with
        | none => (outStatus stINTEGRITY, .nothing)
        | some k => withInput r (seInLen e) (fun b =>
          let sig := beNat (b.take (rsaLen k))
          let dig := b.drop (rsaLen k)
          let em := rsaPub k sig
          let ok := sig < rsaN k && (if seOp e 0x42 1 = 1 then em = emsaV15 (seOp e 0x41 1) dig (rsaLen k) else pssOk (seOp e 0x41 1) dig em)
          (verdict ok, .nothing))), s))

/-- RSA_VERIFY: signature ‖ digest (R206, R215). -/
def execRsaVerify (r : Run) (s : State) : Res := checked s r 0x39 (chkRsaVerify s) (goRsaVerify r s)

/-- The checks of RSA_ENCRYPT, in order. -/
def chkRsaEncrypt (s : State) (t : TagEntry) : List (Option Outcome) :=
  let e := t.entry
  [spareOperands e [(0x41, 1)], badHash e, needLive s t, badHandle s t (seKeyA e),
   byType s (seKeyA e) isRsa (fun o => pkeInLen (rsaLen o < seInLen e + 2 * hashLen (seOp e 0x41 1) + 2) (rsaLen o)),
   byType s (seKeyA e) isRsa (fun o => shortOut e (rsaLen o)), pkeUsage s (seKeyA e) isRsa uENCRYPT,
   needClass s 1 (tagWorld s t), needClass s 2 (tagWorld s t)]

/-- RSA_ENCRYPT once its checks pass. -/
def goRsaEncrypt (r : Run) (s : State) (t : TagEntry) : State :=
  let e := t.entry
  match liveObj s (seKeyA e) with
  | none => s
  | some o => startPke s t r (pkeClass o.typ o.bits) false (mgfPart e) (fun s =>
      let (k, s) := useKey s (seKeyA e) r.fails
      let (seed, s) := drawBytes s (hashLen (seOp e 0x41 1))
      ((match k with
        | none => (outStatus stINTEGRITY, .nothing)
        | some k => withInput r (seInLen e) (fun b =>
          (outData 0 (rsaPub k (beNat (oaepEncode (seOp e 0x41 1) b seed (rsaLen k)))), .nothing))), s))

/-- RSA_ENCRYPT: RSAES-OAEP of data up to L − 2h − 2 bytes (R215). -/
def execRsaEncrypt (r : Run) (s : State) : Res := checked s r 0x3A (chkRsaEncrypt s) (goRsaEncrypt r s)

/-- The OAEP block a ciphertext gives under a private key: its data, whether the check of R207 holds, whether it decodes. -/
def rsaOpen (k : KeyObj) (h : Nat) (ct : Bytes) : Bool × Option Bytes :=
  let em := rsaPriv k (beNat ct)
  (rsaPub k (beNat em) = ct, if beNat ct < rsaN k then oaepDecode h em else none)

/-- The checks of RSA_DECRYPT, in order. -/
def chkRsaDecrypt (s : State) (t : TagEntry) : List (Option Outcome) :=
  let e := t.entry
  [spareOperands e [(0x41, 1)], badHash e, needLive s t, badHandle s t (seKeyA e),
   byType s (seKeyA e) isRsaPriv (fun o => pkeInLen (seInLen e != rsaLen o) (rsaLen o - 2 * hashLen (seOp e 0x41 1) - 2)),
   byType s (seKeyA e) isRsaPriv (fun o => shortOut e (rsaLen o - 2 * hashLen (seOp e 0x41 1) - 2)),
   pkeUsage s (seKeyA e) isRsaPriv uDECRYPT, needClass s 1 (tagWorld s t), needClass s 2 (tagWorld s t)]

/-- RSA_DECRYPT once its checks pass. -/
def goRsaDecrypt (r : Run) (s : State) (t : TagEntry) : State :=
  let e := t.entry
  match liveObj s (seKeyA e) with
  | none => s
  | some o => startPke s t r (pkeClass o.typ o.bits) false (mgfPart e) (fun s =>
      let (k, s) := useKey s (seKeyA e) r.fails
      let s := blindTile s r (rsaBlinding s (rsaN o))
      ((match k with
        | none => (outStatus stINTEGRITY, .nothing)
        | some k => withInput r (seInLen e) (fun b =>
          let x := rsaOpen k (seOp e 0x41 1) b
          (match x.2 with
            | none => outStatus stVERIFY_FAILED
            | some m => released (r.check || !x.1) (outData 0 m), .nothing))), s))

/-- RSA_DECRYPT: the data of an OAEP ciphertext, checked before release (R206, R207, R215). -/
def execRsaDecrypt (r : Run) (s : State) : Res := checked s r 0x3B (chkRsaDecrypt s) (goRsaDecrypt r s)

/-- The checks of RSA_UNWRAP, in order. -/
def chkRsaUnwrap (s : State) (t : TagEntry) : List (Option Outcome) :=
  let e := t.entry
  let ty := seOp e 0x40 1
  [spareOperands e [(0x40, 1), (0x41, 1), (0x44, 4), (0x48, 8), (0x50, 1)], badField (ty = 0 || 5 < ty) 0x40, badHash e, badUsageAttr e,
   badTyped e ty, needLive s t, badHandle s t (seKeyA e), byType s (seKeyA e) isRsaPriv (fun o => badInLen (seInLen e != rsaLen o)),
   badTarget s t (seKeyB e) 0x18 (symBytes ty 0), pkeUsage s (seKeyA e) isRsaPriv uUNWRAP,
   needClass s 1 (tagWorld s t), needClass s 2 (tagWorld s t)]

/-- RSA_UNWRAP once its checks pass. -/
def goRsaUnwrap (r : Run) (s : State) (t : TagEntry) : State :=
  let e := t.entry
  let ty := seOp e 0x40 1
  match liveObj s (seKeyA e) with
  | none => s
  | some o => whenRoom s t (128 + recSize (hClass (seKeyB e))) (startPke s t r (pkeClass o.typ o.bits) false (mgfPart e) (fun s =>
      let (k, s) := useKey s (seKeyA e) r.fails
      let s := blindTile s r (rsaBlinding s (rsaN o))
      ((match k with
        | none => (outStatus stINTEGRITY, .nothing)
        | some k => withInput r (seInLen e) (fun b =>
          let x := rsaOpen k (seOp e 0x41 1) b
          match x.2 with
          | none => (outStatus stVERIFY_FAILED, .nothing)
          | some m =>
            if m.length != symBytes ty 0 ∨ (isTdes ty ∧ !m.all hasOddParity) then (outStatus stVERIFY_FAILED, .nothing)
            else if r.check ∨ !x.1 then (outStatus stSIGN_CHECK_FAILED, .nothing)
            else (outStatus stOK, .putKey (hSlot (seKeyB e)) (draftObj e ty 0 (seOp e 0x48 8) 2 m)))), s)))

/-- RSA_UNWRAP: a wrapped symmetric key becomes a key object of TYPE in the slot KEY_B names (R215). -/
def execRsaUnwrap (r : Run) (s : State) : Res := checked s r 0x3C (chkRsaUnwrap s) (goRsaUnwrap r s)

end Sys2Proof.Machine
end

