-- ==== Sys2Proof/Machine/PkeTile.lean ====
section
/-!
DEFINITION. PkeTile.lean: the steps of public-key routes on their tile (R189–R195, R200, R204). Where the manual leaves a layout open:
a Jacobian point stands in three consecutive slots X, Y, Z in Montgomery form, an affine point in two; which of a point's
Jacobian representatives a step leaves is a free value (log entry 22).
-/
namespace Sys2Proof.Machine

/-! ## Tiles and operands -/

/-- What a tile holds. -/
def pkeTile (s : State) (p : PkeStep) : PkeTile := mapGet s.pke.tiles (p.unit.val * 16 + p.tile.val) PkeTile.clear

/-- Put a tile in place. -/
def setPkeTile (s : State) (p : PkeStep) (x : PkeTile) : State :=
  { s with pke := { s.pke with tiles := mapSet s.pke.tiles (p.unit.val * 16 + p.tile.val) x PkeTile.clear } }

/-- The tag whose route runs on a tile. -/
def tileTag (s : State) (unit tile : Nat) : Option TagEntry :=
  s.qm.tags.find? (fun t => running t && (t.route.map (fun r => r.cls = 1 && r.unit = unit && r.tile = tile)).getD false)

/-- A step has its effect while a route runs on its tile; otherwise there is no step (R192, log entry 5). -/
def pkeStep (s : State) (p : PkeStep) (f : PkeTile → PkeTile) : Res :=
  .next (if (tileTag s p.unit.val p.tile.val).isSome then setPkeTile s p (f (pkeTile s p)) else s)

/-- The same for a step that draws on the state or reads its command. -/
def pkeStepT (s : State) (p : PkeStep) (f : TagEntry → PkeTile → State → PkeTile × State) : Res :=
  .next (match tileTag s p.unit.val p.tile.val with
    | none => s
    | some t =>
      let (x, s) := f t (pkeTile s p) s
      setPkeTile s p x)

/-- The same for a step that draws on the state. -/
def pkeStepS (s : State) (p : PkeStep) (f : PkeTile → State → PkeTile × State) : Res := pkeStepT s p (fun _ => f)

/-- Space and index of an operand field (R193). -/
def opSpace (a : BitVec 12) : Nat := a.toNat / 1024
def opIndex (a : BitVec 12) : Nat := a.toNat % 1024

/-- A slot. -/
def pkeSlot (x : PkeTile) (i : Nat) : Nat := mapGet x.slots (i % 64) 0

/-- Write a slot of 16,384 bits. -/
def putSlot (x : PkeTile) (i v : Nat) : PkeTile := { x with slots := mapSet x.slots (i % 64) (v % 2 ^ 16384) 0 }

/-- A flag. -/
def pkeFlag (x : PkeTile) (i : Nat) : Bool := x.flags.testBit (i % 16)

/-- Write a flag. -/
def putFlag (x : PkeTile) (i : Nat) (b : Bool) : PkeTile :=
  { x with flags := if b then setBitN x.flags (i % 16) else clrBitN x.flags (i % 16) }

/-- The constant store (R189, R219): for each curve in turn p, n, b, the generator's x and y, a; P-384 has the self-test's key and nonce too (log
entry 22). -/
def constStore (i : Nat) : Nat :=
  let c := if i / 8 = 0 then curve256 else if i / 8 = 1 then curve384 else curve521
  match i % 8 with
  | 0 => c.p
  | 1 => c.n
  | 2 => c.b
  | 3 => c.gx
  | 4 => c.gy
  | 5 => c.p - 3
  | k => if i / 8 = 1 then Config.selfTestConst (k - 6) else 0

/-- What an operand field names: a slot, a flag or a constant (R193). -/
def pkeOp (x : PkeTile) (a : BitVec 12) : Nat :=
  match opSpace a with
  | 0 => pkeSlot x (opIndex a)
  | 1 => if pkeFlag x (opIndex a) then 1 else 0
  | 2 => constStore (opIndex a)
  | _ => 0

/-- Write what an operand field names: a slot or a flag; a constant, and a port other than by its own steps, takes no value (R193, log entry 22). -/
def pkePut (x : PkeTile) (a : BitVec 12) (v : Nat) : PkeTile :=
  match opSpace a with
  | 0 => putSlot x (opIndex a) v
  | 1 => putFlag x (opIndex a) (v % 2 = 1)
  | _ => x

/-- Write a flag that an operand field names. -/
def pkePutFlag (x : PkeTile) (a : BitVec 12) (b : Bool) : PkeTile := pkePut x a (if b then 1 else 0)

/-- Bytes of a value at the current modulus: a curve's length L, else 8·m (R189, R199). -/
def opBytes (x : PkeTile) : Nat :=
  (([curve256, curve384, curve521].find? (fun c => c.p = x.mod1 || c.n = x.mod1)).map (fun c => c.len)).getD (8 * x.m)

/-! ## Arithmetic -/

/-- 2^(64m) modulo the active modulus, and its inverse. -/
def montR (x : PkeTile) : Nat := 2 ^ (64 * x.m) % x.mod1
def montInv (x : PkeTile) : Nat := invMod (montR x) x.mod1

/-- A·B·2^(−64m) mod modulus. -/
def montMul (x : PkeTile) (a b : Nat) : Nat := a * b % x.mod1 * montInv x % x.mod1

/-- MMUL. -/
def execMmul (p : PkeStep) (s : State) : Res := pkeStep s p (fun x => pkePut x p.c (montMul x (pkeOp x p.a) (pkeOp x p.b)))

/-- MSQR. -/
def execMsqr (p : PkeStep) (s : State) : Res := pkeStep s p (fun x => pkePut x p.c (montMul x (pkeOp x p.a) (pkeOp x p.a)))

/-- MADD. -/
def execMadd (p : PkeStep) (s : State) : Res := pkeStep s p (fun x => pkePut x p.c ((pkeOp x p.a + pkeOp x p.b) % x.mod1))

/-- MSUB. -/
def execMsub (p : PkeStep) (s : State) : Res :=
  pkeStep s p (fun x => pkePut x p.c ((pkeOp x p.a % x.mod1 + x.mod1 - pkeOp x p.b % x.mod1) % x.mod1))

/-- MRED: A mod the second modulus. -/
def execMred (p : PkeStep) (s : State) : Res := pkeStep s p (fun x => pkePut x p.c (pkeOp x p.a % x.mod2))

/-- SETMOD: load modulus A of B limbs into the active modulus (C 0) or the second (C not 0), and fix m, which runs from 1 to 256 (R189). -/
def execSetmod (p : PkeStep) (s : State) : Res :=
  pkeStep s p (fun x => if p.b.toNat = 0 ∨ 256 < p.b.toNat then x else
    let v := pkeOp x p.a % 2 ^ (64 * p.b.toNat)
    let x := { x with m := p.b.toNat }
    if p.c = 0 then { x with mod1 := v } else { x with mod2 := v })

/-- PKE_CSEL: the slot C[5:0] takes A if the flag C[9:6] is set, else B; both are read (R193). -/
def execPkeCsel (p : PkeStep) (s : State) : Res :=
  pkeStep s p (fun x => putSlot x (p.c.toNat % 64) (if pkeFlag x (p.c.toNat / 64) then pkeOp x p.a else pkeOp x p.b))

/-- PKE_CEQ: the flag C is 1 if A equals B. -/
def execPkeCeq (p : PkeStep) (s : State) : Res := pkeStep s p (fun x => pkePutFlag x p.c (pkeOp x p.a = pkeOp x p.b))

/-- CRANGE: the flag C is 1 if 0 < A < B. -/
def execCrange (p : PkeStep) (s : State) : Res :=
  pkeStep s p (fun x => pkePutFlag x p.c (0 < pkeOp x p.a && pkeOp x p.a < pkeOp x p.b))

/-- ANDF: the flag C is flag A AND flag B. -/
def execAndf (p : PkeStep) (s : State) : Res :=
  pkeStep s p (fun x => pkePutFlag x p.c (pkeFlag x (opIndex p.a) && pkeFlag x (opIndex p.b)))

/-- PKE_MOVE: C = A. -/
def execPkeMove (p : PkeStep) (s : State) : Res := pkeStep s p (fun x => pkePut x p.c (pkeOp x p.a))

/-- MINV: the inverse modulo the active modulus. -/
def execMinv (p : PkeStep) (s : State) : Res := pkeStep s p (fun x => pkePut x p.c (invMod (pkeOp x p.a) x.mod1))

/-! ## Points -/

/-- The curve whose field the active modulus is. -/
def tileCurve (x : PkeTile) : Option Curve := [curve256, curve384, curve521].find? (fun c => c.p = x.mod1)

/-- A Montgomery residue as a plain one. -/
def fromMont (x : PkeTile) (v : Nat) : Nat := v * montInv x % x.mod1

/-- The affine point that Jacobian coordinates from slot i give. -/
def readJac (x : PkeTile) (i : Nat) : Pt :=
  let z := fromMont x (pkeSlot x (i + 2))
  if z = 0 then none
  else
    let w := invMod z x.mod1
    some (fromMont x (pkeSlot x i) * w * w % x.mod1, fromMont x (pkeSlot x (i + 1)) * w * w * w % x.mod1)

/-- The affine point in two slots. -/
def readAff (x : PkeTile) (i : Nat) : Pt := some (fromMont x (pkeSlot x i), fromMont x (pkeSlot x (i + 1)))

/-- Write an affine point into two slots. -/
def writeAff (x : PkeTile) (i : Nat) : Pt → PkeTile
  | none => putSlot (putSlot x i 0) (i + 1) 0
  | some (a, b) => putSlot (putSlot x i (a * montR x % x.mod1)) (i + 1) (b * montR x % x.mod1)

/-- Write a point in Jacobian form with scale l; the identity has Z = 0. -/
def writeJac (x : PkeTile) (i l : Nat) : Pt → PkeTile
  | none => putSlot (putSlot (putSlot x i (montR x)) (i + 1) (montR x)) (i + 2) 0
  | some (a, b) =>
    putSlot (putSlot (putSlot x i (a * l * l % x.mod1 * montR x % x.mod1)) (i + 1) (b * l * l % x.mod1 * l % x.mod1 * montR x % x.mod1))
      (i + 2) (l * montR x % x.mod1)

/-- A point step: its result in Jacobian form with a free scale, where the active modulus is a curve's p. -/
def pointStep (s : State) (p : PkeStep) (f : Curve → PkeTile → Pt) (g : PkeTile → PkeTile := id) : Res :=
  pkeStepS s p (fun x s =>
    match tileCurve x with
    | none => (x, s)
    | some c =>
      let (n, s) := draw s 521
      (g (writeJac x (opIndex p.c) (n % (c.p - 1) + 1) (f c x)), s))

/-- The comb of a cluster. -/
def combOf (s : State) (u : Nat) : Option Comb := mapGet? s.pke.combs u

/-- The correction of a comb pass: the opposite of the sum of Q_j over the windows read, each as often as it was read, from the correction point
of the register file (R200). -/
def combFix (c : Comb) (ws : List Nat) : Pt :=
  let k := ((List.range 64).map (fun j => ws.count j)).foldl max 0
  let rest := ((List.range 64).map (fun j => (k - ws.count j) * (c.q[j]?).getD 0)).sum
  ptAdd curve384 (ptMul curve384 k c.corr) (ptMul curve384 (rest % curve384.n) curve384.g)

/-- The affine point an operand names: two slots, or the correction point through the port of the cluster's SRAM (R193, R200, log entry 22). -/
def readPoint (s : State) (p : PkeStep) (x : PkeTile) (a : BitVec 12) : Pt :=
  if opSpace a = 3 ∧ opIndex a = 3 then ((combOf s p.unit.val).map (fun c => combFix c x.windows)).getD none
  else readAff x (opIndex a)

/-- PADD: complete addition of the Jacobian accumulator A and the affine point B into C; an addition of the correction ends a comb pass. -/
def execPadd (p : PkeStep) (s : State) : Res :=
  pointStep s p (fun c x => ptAdd c (readJac x (opIndex p.a)) (readPoint s p x p.b))
    (fun x => if opSpace p.b = 3 then { x with windows := [] } else x)

/-- PADDJ: complete addition of two Jacobian points. -/
def execPaddj (p : PkeStep) (s : State) : Res := pointStep s p (fun c x => ptAdd c (readJac x (opIndex p.a)) (readJac x (opIndex p.b)))

/-- PDBL: Jacobian doubling. -/
def execPdbl (p : PkeStep) (s : State) : Res := pointStep s p (fun c x => ptAdd c (readJac x (opIndex p.a)) (readJac x (opIndex p.a)))

/-- The bytes of a number whose first byte is not zero. -/
def natBytes (v : Nat) : Bytes := beBytes v ((bitLen v + 7) / 8)

/-- Whether an encoding has the form its command's POINT_FORM names (R206, R211). -/
def formFits (t : TagEntry) (c : Curve) (b : Bytes) : Bool :=
  (seOpcode t.entry != 0x34 && seOpcode t.entry != 0x35)
    || b.length = (if seOp t.entry 0x51 1 = 0 then 1 + 2 * c.len else 1 + c.len)

/-- PVALID: the flag C tells whether A encodes a point of the curve other than the identity, in the form named; it decompresses into B (R206). -/
def execPvalid (p : PkeStep) (s : State) : Res :=
  pkeStepT s p (fun t x s => ((match tileCurve x with
    | none => pkePutFlag x p.c false
    | some c =>
      let b := natBytes (pkeOp x p.a)
      match ptDecode c b with
      | none => pkePutFlag x p.c false
      | some q => if formFits t c b then pkePutFlag (writeAff x (opIndex p.b) (some q)) p.c true else pkePutFlag x p.c false), s))

/-! ## Shares, randomness, exponents, encodings -/

/-- SPLIT: Boolean shares A, B become arithmetic shares modulo the active modulus in C and C+1. -/
def execSplit (p : PkeStep) (s : State) : Res :=
  pkeStepS s p (fun x s =>
    let (n, s) := draw s 16384
    let v := pkeOp x p.a ^^^ pkeOp x p.b
    (putSlot (putSlot x (opIndex p.c) ((v % x.mod1 + x.mod1 - n % x.mod1) % x.mod1)) (opIndex p.c + 1) (n % x.mod1), s))

/-- PKE_REFRESH: the arithmetic shares at A and A+1 are re-randomised; their sum stays (log entry 22). -/
def execPkeRefresh (p : PkeStep) (s : State) : Res :=
  pkeStepS s p (fun x s =>
    let (n, s) := draw s 16384
    let i := opIndex p.a
    (putSlot (putSlot x i ((pkeSlot x i + n) % x.mod1)) (i + 1) ((pkeSlot x (i + 1) % x.mod1 + x.mod1 - n % x.mod1) % x.mod1), s))

/-- PKE_RAND: B bits from the cluster's generator, reduced modulo the active modulus when A is 1; it waits while the generator cannot serve (R194,
R269, R270). -/
def execPkeRand (p : PkeStep) (s : State) : Res :=
  pkeStepT s p (fun t x s =>
    if rngServes s p.unit.val 1 then
      let (n, s) := drbgBits s p.unit.val p.b.toNat
      (pkePut x p.c (if p.a = 1 then n % x.mod1 else n), stepDrew s t.tag 1)
    else (x, s))

/-- SBLIND: C = A + B·n, n the second modulus, recoded into digits: base 256 and 16 for the windows of COMBRD and VTRD, base 16 from the
top for MEXPW (R194, R205, log entry 22). -/
def execSblind (p : PkeStep) (s : State) : Res :=
  pkeStep s p (fun x =>
    { (pkePut x p.c (pkeOp x p.a + pkeOp x p.b * x.mod2)) with
      digits := mapSet x.digits (opIndex p.c) ((bitLen x.mod2 + 64 * maskOrder s + 3) / 4) 0 })

/-- Digit j of a recoded value to a base. -/
def digitOf (v base j : Nat) : Nat := v / base ^ j % base

/-- MEXPW: four squarings of A and one multiplication by the table entry selected by the next digit of B, the most significant first; the
table's 16 entries stand in slots 40 to 55 (R194, log entry 22). -/
def execMexpw (p : PkeStep) (s : State) : Res :=
  pkeStep s p (fun x =>
    let sq := fun v => montMul x v v
    let k := mapGet x.digits (opIndex p.b) 0 - 1
    let x' := { x with digits := mapSet x.digits (opIndex p.b) k 0 }
    pkePut x' p.c (montMul x (sq (sq (sq (sq (pkeOp x p.a))))) (pkeSlot x (40 + digitOf (pkeOp x p.b) 16 k))))

/-- Scheme and hash of an ENCODE or DECODE step: bits [1:0] of B 1 PKCS #1 v1.5, 2 PSS, 3 OAEP; bits [3:2] HASH of R211
(log entry 22). -/
def encScheme (b : BitVec 12) : Nat := b.toNat % 4
def encHash (b : BitVec 12) : Nat := b.toNat / 4 % 4

/-- ENCODE: the encoding of the digest, or of the data of the command's length, at A for the active modulus. -/
def execEncode (p : PkeStep) (s : State) : Res :=
  pkeStepT s p (fun t x s =>
    let k := 8 * x.m
    let h := encHash p.b
    let (r, s) := drawBytes s (hashLen h)
    let dig := beBytes (pkeOp x p.a) (hashLen h)
    let em := match encScheme p.b with
      | 1 => emsaV15 h dig k
      | 2 => emsaPss h dig r k
      | _ => oaepEncode h (beBytes (pkeOp x p.a) (seInLen t.entry)) r k
    (pkePut x p.c (beNat em), s))

/-- DECODE: the flag C tells whether the encoding at A is valid: against the digest in slot A+1 for a signature, as OAEP
otherwise, when the data replaces A. -/
def execDecode (p : PkeStep) (s : State) : Res :=
  pkeStep s p (fun x =>
    let k := 8 * x.m
    let h := encHash p.b
    let em := beBytes (pkeOp x p.a) k
    let dig := beBytes (pkeSlot x (opIndex p.a + 1)) (hashLen h)
    match encScheme p.b with
    | 1 => pkePutFlag x p.c (em = emsaV15 h dig k)
    | 2 => pkePutFlag x p.c (pssOk h dig em)
    | _ =>
      match oaepDecode h em with
      | none => pkePutFlag x p.c false
      | some m => pkePutFlag (putSlot x (opIndex p.a) (beNat m)) p.c true)

/-! ## Fetches and hand-offs (R195) -/

/-- PKE_KCLOAD: the two shares of key A (0 KEY_A, 1 KEY_B) from the key cache into C and C+1; a miss loads the key (R172). -/
def execPkeKcload (p : PkeStep) (s : State) : Res :=
  pkeStepT s p (fun t x s =>
    match stepLoad s t (stepKey t (opIndex p.a)) with
    | (none, s) => (x, s)
    | (some e, s) => (putSlot (putSlot x (opIndex p.c) (beNat e.share0)) (opIndex p.c + 1) (beNat e.share1), s))

/-- Entry (j, d) of a comb: d·256^j·G + Q_j (R200). -/
def combEntry (c : Comb) (j d : Nat) : Pt :=
  ptAdd curve384 (ptMul curve384 (d * 256 ^ j) curve384.g) (ptMul curve384 ((c.q[j]?).getD 1) curve384.g)

/-- The position an entry is stored at: d XOR m_j (R200). -/
def combPos (c : Comb) (j d : Nat) : Nat := (d ^^^ (c.masks[j]?).getD 0) % 256

/-- The SRAM error of a comb read: 1 corrected, 2 uncorrectable, which forces the route's check flag (R203). -/
def combError (s : State) (t : TagEntry) (u tile err : Nat) : State :=
  if err = 1 then faultReport (bump s (F.PKEC_SRAM_CORRECTED u) (F.PKEC_SRAM_SAT u)) 0x05 u tile
  else if err = 2 then updTag (sramUncorrected s u) t.tag (fun y => { y with route := y.route.map (fun r => { r with forced := true }) })
  else s

/-- COMBRD: window A of the generator comb at that digit of the scalar in slot B, through the window's index mask, into C and C+1; `err` is
1 for a corrected and 2 for an uncorrectable error of the fixed-base SRAM (R195, R200, R203). -/
def execCombrd (p : PkeStep) (err : Nat) (s : State) : Res :=
  pkeStepT s p (fun t x s =>
    match combOf s p.unit.val with
    | none => (x, s)
    | some c =>
      let j := opIndex p.a % 64
      let pos := combPos c j (digitOf (pkeOp x p.b) 256 j)
      let x := writeAff x (opIndex p.c) (combEntry c j (combPos c j pos))
      ({ x with windows := x.windows ++ [j] }, combError s t p.unit.val p.tile.val err))

/-- VTRD: window A of the key's verification table at that digit of the value in slot B, as the lines of entry (A, d) in HBM; a failed
read sets the INTEGRITY flag (R163, R195, R204). -/
def execVtrd (p : PkeStep) (s : State) : Res :=
  pkeStepT s p (fun t x s =>
    match keyTable s (seKeyA t.entry) with
    | none => (x, s)
    | some v =>
      let j := opIndex p.a
      let d := digitOf (pkeOp x p.b) 16 j
      let (ok, s') := mcRead s (tableLine s v 0).1 (entryLines s v j d) []
      if ok then (writeAff x (opIndex p.c) (ptDecode curve384 (entryBytes s v j d)), s') else (x, flagIntegrity s' t.tag))

/-- PKE_INRD: input bytes into slot C. -/
def execPkeInrd (p : PkeStep) (bytes : Bytes) (s : State) : Res := pkeStep s p (fun x => pkePut x p.c (beNat bytes))

/-- PKE_OUTST: slot A staged as B bytes of output. -/
def execPkeOutst (p : PkeStep) (s : State) : Res := pkeStep s p (fun x => { x with out := x.out ++ beBytes (pkeOp x p.a) p.b.toNat })

/-- KOUT: slot A staged as the body of a new key object, or as its next part. -/
def execKout (p : PkeStep) (s : State) : Res := pkeStep s p (fun x => { x with body := x.body ++ beBytes (pkeOp x p.a) (opBytes x) })

/-- HASHIN: the digest that the cipher/hash route of the same command handed over, into slot C; without one the route waits. -/
def execHashin (p : PkeAt) (c : BitVec 12) (s : State) : Res :=
  pkeStepT s { unit := p.unit, tile := p.tile, a := 0, b := 0, c := c } (fun t x s =>
    match (t.route.bind (fun r => r.also)).map (fun a => (mapGet s.cip.ctx ((a.unit * 16 + a.tile) * 2) CipCtx.clear).handed) with
    | some (b :: l) => (pkePut x c (beNat (b :: l)), s)
    | _ => (x, s))

/-- HASHOUT: slot A handed to a cipher/hash route. -/
def execHashout (p : PkeStep) (s : State) : Res := pkeStep s p (fun x => { x with hashOut := beBytes (pkeOp x p.a) (opBytes x) })

/-- A tile between routes holds nothing: every slot and flag is cleared at END (R192). -/
def clearPkeTile (s : State) (unit tile : Nat) : State :=
  { s with pke := { s.pke with tiles := mapErase s.pke.tiles (unit * 16 + tile) } }

end Sys2Proof.Machine
end

