-- ==== Sys2Proof/Machine/PkeUnits.lean ====
section
/-!
DEFINITION. PkeUnits.lean: what a public-key cluster does outside routes, and SPKE: comb tables (R200–R203), tile self-tests
(R219), the Sealed public-key engine (R220, R221), token waits (R90).
-/
namespace Sys2Proof.Machine

/-! ## Comb tables -/

/-- A build of a cluster's table: 64 random points, 64 random 8-bit index masks, the correction point; EPOCH counts it (R200, R201). The
points are given by random scalars from 1 to n − 1. -/
def combBuild (s : State) (u : Nat) : State :=
  let (q, s) := drawMany s 448 64
  let (m, s) := drawMany s 8 64
  let q := q.map (fun x => x % (curve384.n - 1) + 1)
  let c : Comb := { q := q, masks := m, corr := ptNeg curve384 (ptMul curve384 (q.sum % curve384.n) curve384.g) }
  let s := { s with pke := { s.pke with combs := mapPut s.pke.combs u c } }
  bump (setF s (F.PKEC_STATUS_COMB_READY u) 1) (F.PKEC_COMB_EPOCH u) (F.PKEC_COMB_SAT u)

/-- The table is lost (R202). -/
def combLose (s : State) (u : Nat) : State :=
  setF { s with pke := { s.pke with combs := mapErase s.pke.combs u } } (F.PKEC_STATUS_COMB_READY u) 0

/-- Whether a cluster's table is in use: by a comb-using route, or by a tile's self-test (R201, R202). -/
def combBusy (s : State) (u : Nat) : Bool :=
  getF s (F.PKEC_STATUS_TESTING u) != 0
    || s.qm.tags.any (fun t => running t && ((t.route.map (fun r => r.cls = 1 && r.unit = u && r.comb)).getD false))

/-- A refresh: the table is lost and built anew, and DONE is set (R202). -/
def combRefresh (s : State) (u : Nat) : State :=
  setF (combBuild (combLose (setF s (F.PKEC_COMB_REFRESH u) 0) u) u) (F.PKEC_COMB_DONE u) 1

/-- PKEC_COMB_REFRESH: a rebuild is requested; no further comb-using route starts (R202). -/
def execPkecCombRefresh (cluster : Fin 16) (s : State) : Res :=
  .next (if landauUp s && clusterOn s 1 cluster then setF s (F.PKEC_COMB_REFRESH cluster) 1 else s)

/-- COMB_REBUILD: once the started routes have ended on the old table, the table is built anew; a mode change defers it
(R202). -/
def execCombRebuild (cluster : Fin 16) (s : State) : Res :=
  .next (if isSet s (F.PKEC_COMB_REFRESH cluster) && !combBusy s cluster && landauUp s && !isSet s F.PWRARB_STATUS_MODE_BUSY then
    combRefresh s cluster
  else s)

/-! ## A spare in service (R97, R271) -/

/-- The amendment applied; a spare cipher tile that becomes active in a powered cluster takes a mask-stream key (R97, R271). -/
def amended (s : State) : State :=
  let (p, sp) := amendPart s
  let t := applyAmend s
  if p.cls = 2 ∧ sp != 0xFF ∧ clusterOn t 2 p.unit then rekeyMask t p.unit sp else t

/-! ## Tile self-test -/

/-- Whether a part is draining or drained. -/
def partDrained (s : State) (cls u i : Nat) : Bool := s.struct.drained.any (fun p => p.cls = cls && p.unit = u && p.idx = i)

/-- PKEC_SELFTEST: GO with a tile: routes stop on it, or ERR says why not (R219). A tile that the cluster does not have, or that
is neither active nor spare, gives 1. -/
def execPkecSelftest (cluster : Fin 16) (v : W32) (s : State) : Res :=
  let u := cluster.val
  let i := v.toNat % 16
  .next (if !landauUp s then s
    else
      let s := writeReg s (Blk.PKEC + u) 8 (v.toNat % 2 ^ 31)
      if !v.getLsbD 31 then s
      else if i ≥ 9 || !(unitActive s 1 u ||| unitSpare s 1 u).testBit i then scfDrop (setF s (F.PKEC_SELFTEST_ERR u) 1) u i
      else if getF s (F.PKEC_STATUS_TESTING u) != 0 || partDrained s 1 u i then setF s (F.PKEC_SELFTEST_ERR u) 2
      else if !combFree s u then setF s (F.PKEC_SELFTEST_ERR u) 3
      else setF (setF (setF s (F.PKEC_SELFTEST_ERR u) 0) (F.PKEC_SELFTEST_GO u) 1) (F.PKEC_STATUS_TESTING u) (2 ^ i))

/-- PKE_SELFTEST_END: once the tile's route has ended the test runs and ends: DONE, FAIL and a report when the result does not match
(R219). Whether it matches is the event's. -/
def execPkeSelftestEnd (cluster : Fin 16) (pass : Bool) (s : State) : Res :=
  let u := cluster.val
  .next (match lowestSet (getF s (F.PKEC_STATUS_TESTING u)) 9 with
    | none => s
    | some i =>
      if !partIdle s 1 u i 0 then s
      else
        let s := setF (setF (setF s (F.PKEC_STATUS_TESTING u) 0) (F.PKEC_SELFTEST_GO u) 0) (F.PKEC_SELFTEST_DONE u) 1
        let s := scfTested s u i pass
        if pass then s else faultReport (setF s (F.PKEC_SELFTEST_FAIL u) 1) 0x02 u i)

/-! ## SPKE -/

/-- The parameter block: 256 bytes in SRAM at PARAM.ADDR, read as master 4 (R425); empty for another address (R221). -/
def paramBlock (s : State) (a : Nat) : Bytes × State :=
  if inSram a 256 && a % 64 = 0 then masterRead s 4 a 256 else ([], s)

/-- A start of an SPKE operation: a write of SPKE_CTRL with GO, ignored while BUSY (R220, R221). -/
def spkeGo (s : State) (op slot : Nat) : State :=
  if !geckoUp s || isSet s F.SPKE_STATUS_BUSY then s
  else
    let s := setF (setF (setF (setF s F.SPKE_CTRL_OP op) F.SPKE_CTRL_SLOT slot) F.SPKE_CTRL_GO 1) F.SPKE_STATUS_BUSY 1
    let a := getF s F.SPKE_PARAM_ADDR
    let (p, s) := paramBlock s a
    { s with spke := { s.spke with op := some (op * 16 + slot % 16, a, p) } }

/-- SPKE_SIGN. -/
def execSpkeSign (slot : Fin 16) (s : State) : Res := .next (spkeGo s 1 slot)

/-- SPKE_VERIFY. -/
def execSpkeVerify (slot : Fin 16) (s : State) : Res := .next (spkeGo s 2 slot)

/-- SPKE_PUBLIC_POINT. -/
def execSpkePublicPoint (slot : Fin 16) (s : State) : Res := .next (spkeGo s 3 slot)

/-- A key slot of SPKE: the private scalar. -/
def spkeSlot (s : State) (i : Nat) : Option Bytes := mapGet? s.spke.slots i

/-- A P-384 signature under an SPKE slot key, with a fresh nonce (R220). -/
def spkeSign (s : State) (key dig : Bytes) : Bytes × State :=
  let (k, s) := draw s 448
  (ecdsaSign 384 key dig (k % (curve384.n - 1) + 1), s)

/-- SPKE_OPERATION_END: RESULT, and the signature or the point in the parameter block. A signature is checked before release: r and s are not 0 and
the recomputed point gives r; `check` is whether a fault of the tile made the check fail (R207, R220). -/
def execSpkeOperationEnd (check : Bool) (s : State) : Res :=
  .next (match s.spke.op with
    | none => s
    | some (code, a, p) =>
      let done := fun (s : State) (r : Nat) =>
        setF (setF (setF (setF { s with spke := { s.spke with op := none } } F.SPKE_STATUS_BUSY 0) F.SPKE_CTRL_GO 0)
          F.SPKE_STATUS_DONE 1) F.SPKE_STATUS_RESULT r
      if p = [] then done s 0x11
      else match code / 16 with
        | 1 =>
          match spkeSlot s (code % 16) with
          | none => done s 0x20
          | some k =>
            let (sig, s) := spkeSign s k (sliceZ p 0 48)
            if check || !signChecks 384 k (sliceZ p 0 48) sig then done s 0x31 else done (masterWrite s 4 (a + 0x40) sig) 0
        | 2 =>
          if !ecPointValid 384 (sliceZ p 0x80 97) then done s 0x30
          else done s (if ecdsaVerify 384 (sliceZ p 0x80 97) (sliceZ p 0 48) (sliceZ p 0x40 96) then 0 else 0x32)
        | 3 =>
          match spkeSlot s (code % 16) with
          | none => done s 0x20
          | some k => done (masterWrite s 4 (a + 0x80) (ecPublic 384 k)) 0
        | _ => let (r, s) := draw s 8; done s r)

/-- TOKEN_WAIT: a KIND 3 step waits until the tile's cluster may draw the power of the next step; the wait ends at once in the
model's order of commands and changes no state (R90). -/
def execTokenWait (_cls _unit : Nat) (s : State) : Res := .next s

end Sys2Proof.Machine
end

