-- ==== Sys2Proof/Machine/TagMem.lean ====
section
/-!
DEFINITION. TagMem.lean: tag memory: its blocks, the summary halves and the ledger ring it carries (R451, R554, R557–R559).
-/
namespace Sys2Proof.Machine

/-! ## Blocks and sectors (R557) -/

/-- The address of a block; one flash line. -/
def tagAddr (b : Nat) : Nat := 0x10B70000 + 32 * b

/-- The bytes of a block; whether it is blank; whether its line reads without an uncorrectable error (R438). -/
def tmBlock (s : State) (b : Nat) : Bytes := geckoBytes s (tagAddr b) 32
def tagBlank (s : State) (b : Nat) : Bool := lineState s (tagAddr b / 32) = 0
def tagReads (s : State) (b : Nat) : Bool := lineState s (tagAddr b / 32) != 8

/-- n blocks from a first one. -/
def tmBlocks (s : State) (b n : Nat) : Bytes := geckoBytes s (tagAddr b) (32 * n)

/-- Erase a tag sector: logical sector 880 + t of bank 1. -/
def tagErase (s : State) (t : Nat) : State := eraseFlash s (sectorAddr 1 (880 + t)) 4096

/-- Program blocks from a first one, 32 bytes each. -/
def tagProgram (s : State) (b : Nat) (d : Bytes) : State := programLines s (tagAddr b) d (d.length / 32)

/-! ## The summary halves (R451, R558) -/

/-- The header line of a half: its bytes for a sequence number and a content (R451). -/
def halfHeader (seq : Nat) (content : Bytes) : Bytes :=
  [0x46, 0x48, 0x44, 0x52] ++ zeros 4 ++ leBytes seq 8 ++ (hashBytes (sha384 content)).take 16

/-- The sequence number of half h when its header is valid and matches. -/
def halfSeq (s : State) (h : Nat) : Option Nat :=
  let b := tmBlock s (128 * h)
  let n := leAt b 8 8
  if (List.range 128).all (fun i => tagReads s (128 * h + i)) && b = halfHeader n (tmBlocks s (128 * h + 1) 127) then some n else none

/-- The half a reader takes: valid, with the higher sequence; its number and sequence (R451). -/
def validHalf (s : State) : Option (Nat × Nat) :=
  match halfSeq s 0, halfSeq s 1 with
  | some a, some b => some (if a < b then (1, b) else (0, a))
  | some a, none => some (0, a)
  | none, some b => some (1, b)
  | none, none => none

/-- Replace the summary: erase the half not in use, write the content, the header last (R451). -/
def replaceHalf (s : State) (content : Bytes) : State :=
  let (h, n) := match validHalf s with
    | none => (0, 1)
    | some (h, n) => (1 - h, n + 1)
  let c := sliceZ content 0 (127 * 32)
  tagProgram (tagProgram (tagErase s h) (128 * h + 1) c) (128 * h) (halfHeader n c)

/-- The configuration block of the valid half. -/
def tagConfig (s : State) : Option Bytes := (validHalf s).map (fun x => tmBlock s (128 * x.1 + 6))

/-- The UID: E0 6C and the serial of the configuration block, 0 with no valid half (R554, R555). -/
def tagUid (s : State) : Nat := 0xE06C * 2 ^ 48 + ((tagConfig s).map (fun b => beNat (slice b 0 6))).getD 0

/-- Privacy mode and FIELD_WRITE: TAG_CFG while main power is good, else the configuration block; off with no valid half (R555). -/
def tagPrivacy (s : State) : Bool :=
  if geckoUp s then isSet s F.TAG_CFG_PRIVACY else ((tagConfig s).map (fun b => (byteAt b 6).testBit 0)).getD false
def tagFieldWrite (s : State) : Bool :=
  if geckoUp s then isSet s F.TAG_CFG_FIELD_WRITE else ((tagConfig s).map (fun b => (byteAt b 6).testBit 1)).getD false

/-! ## The ledger ring of the tag (R559) -/

/-- The first block of a record's slot. -/
def tagSlot (seq : Nat) : Nat := 256 + 32 * (seq % 44)

/-- Write a record into its slot; a sector that holds older records, or whose slot is not blank, is erased first. -/
def tagAppend (s : State) (seq : Nat) (r : Bytes) : State :=
  let slot := seq % 44
  let t := 2 + slot / 4
  let old := if slot % 4 = 0 then !(List.range 128).all (fun i => tagBlank s (128 * t + i))
    else !(List.range 32).all (fun i => tagBlank s (tagSlot seq + i))
  tagProgram (if old then tagErase s t else s) (tagSlot seq) r

/-- The sequence numbers the ring's slots hold. -/
def tagRingSeqs (s : State) : List Nat :=
  ((List.range 44).map (fun i => tmBlock s (256 + 32 * i))).filterMap (fun b =>
    if slice b 0 4 = [0x4C, 0x45, 0x44, 0x47] then some (leAt b 8 8) else none)

/-- The lowest sequence number the ring holds, 0 with none. -/
def tagOldest (s : State) : Nat := ((tagRingSeqs s).min?).getD 0

/-- Unused pool entries: those whose marker block is blank (R561, R569). -/
def tagHandles (s : State) : Nat :=
  ((List.range 32).filter (fun k => !tagBlank s (1664 + 2 * k) && tagBlank s (1665 + 2 * k))).length

end Sys2Proof.Machine
end

