-- ==== Sys2Proof/Machine/Ledger.lean ====
section
/-!
DEFINITION. Ledger.lean: the boot ledger: records, their signing and appending (R294–R304), certificates (R305).
-/
namespace Sys2Proof.Machine

/-! ## Identity -/

/-- SHA-384 of the DeviceID public key; of the AK public key (R294). -/
def deviceId (s : State) : Hash := sha384 s.led.devPub
def akId (s : State) : Hash := sha384 s.led.akPub

/-- A signature by AK over bytes; with AK destroyed the bytes are free (log entry 36). -/
def akSign (s : State) (b : Bytes) : Bytes × State :=
  match spkeSlot s 1 with
  | some k => spkeSign s k (hashBytes (sha384 b))
  | none => drawBytes s 96

/-- Whether some debug scope is in force (R296, R580): granted, or SCAN in BLANK unless debug is closed for good (R68). -/
def debugOpen (s : State) : Bool := getF s F.DEBUG_STATUS_OPEN != 0 || (life s = 0 && !s.fuse.shadow.debugOff)

/-- Programmed evidence bits. -/
def evidence (s : State) : Nat := getF s F.TAMPER_EVID_PROGRAMMED

/-! ## Records -/

/-- The record of a sequence number, from the ring or from SRAM. -/
def recordOf (s : State) (q : Nat) : Option Bytes := (mapGet? s.led.ring q).orElse (fun _ => mapGet? s.led.sram q)

/-- The lowest sequence number still held, 0 with none. -/
def ledgerOldest (s : State) : Nat := (((s.led.ring ++ s.led.sram).map (fun e => e.1)).min?).getD 0

/-- The newest HOST record. -/
def newestHost (s : State) : Option Bytes :=
  let l := (s.led.ring ++ s.led.sram).filter (fun e => byteAt e.2 5 = 2)
  match (l.map (fun e => e.1)).max? with
  | none => none
  | some q => mapGet? l q

/-- SEQ is saturated: no further record (R303). -/
def ledgerFull (s : State) : Bool := 2 ^ 64 - 1 ≤ s.led.head

/-- What a record says beyond the header the ledger gives it: KIND, VERDICT, FLAGS bits 0–3, RSTCAUSE, BODY. -/
structure RecIn where
  kind : Nat
  verdict : Nat
  flags : Nat
  rstcause : Nat
  body : Bytes
  deriving DecidableEq, Repr

/-- FLAGS bits 4–6 of the next record (R296). -/
def ledgerFlags (s : State) : Nat :=
  (if debugOpen s then 16 else 0) + (if s.led.gapNext then 32 else 0) + (if s.led.failNext then 64 else 0)

/-- HOST_BOOT as a record holds it: the count follows R6, with SAT in bit 31. -/
def hostBootWord (s : State) : Nat := if s.hf.hostBoot = 2 ^ 31 - 1 then 2 ^ 32 - 1 else s.hf.hostBoot

/-- The common header (R294). -/
def recHeader (s : State) (r : RecIn) : Bytes :=
  let seq := s.led.head + 1
  [0x4C, 0x45, 0x44, 0x47, 0x01] ++ leBytes r.kind 1 ++ leBytes 0x400 2 ++ leBytes seq 8
    ++ (if seq = 1 then zeros 48 else hashBytes s.led.headHash) ++ hashBytes (deviceId s) ++ hashBytes (akId s)
    ++ leBytes (evidence s) 2 ++ leBytes (life s) 1 ++ leBytes r.verdict 1 ++ leBytes (r.flags + ledgerFlags s) 4
    ++ leBytes r.rstcause 4 ++ leBytes (hostBootWord s) 4 ++ zeros 80

/-- A whole record, signed (R294). -/
def makeRecord (s : State) (r : RecIn) : Bytes × State :=
  let b := sliceZ (recHeader s r ++ r.body) 0 0x3A0
  let (sig, s) := akSign s b
  (b ++ sig, s)

/-! ## Appending (R301–R304) -/

/-- The older records in the sector a record goes to (R301): the ring has 1,024 slots, four a sector. -/
def ringOlder (s : State) (q : Nat) : List (Nat × Bytes) :=
  s.led.ring.filter (fun e => e.1 % 1024 / 4 = q % 1024 / 4 && e.1 + 4 ≤ q)

/-- Count records overwritten before they were mirrored (R304): GAPS follows R6. -/
def countGaps (s : State) (n : Nat) : State :=
  if n = 0 then s
  else
    let g := min (2 ^ 31 - 1) (s.led.gaps + n)
    let t := { s with led := { s.led with gaps := g, gapNext := true } }
    if g = 2 ^ 31 - 1 ∧ s.led.gaps < g then occur t 0x301 0 0 0x01FF0002 else t

/-- Program a record into the ring, erasing its sector when it holds older records. -/
def ringPut (s : State) (q : Nat) (r : Bytes) : State :=
  let old := ringOlder s q
  let t := { s with led := { s.led with ring := mapPut (s.led.ring.filter (fun e => !old.contains e)) q r, failNext := false } }
  countGaps t (old.filter (fun e => s.led.mirrored < e.1)).length

/-- A record whose append failed twice stays in SRAM and is reported (R302). -/
def sramPut (s : State) (q : Nat) (r : Bytes) : State :=
  faultReport { s with led := { s.led with sram := mapPut s.led.sram q r, failNext := true } } 0x2D 0 0

/-- The summary of R558: its 160 bytes. -/
def tagSummary (s : State) : Bytes :=
  let h := newestHost s
  let flags := (if isSet s F.TAMPER_STATUS_LOCKED then 1 else 0) + (if s.led.sram.isEmpty then 0 else 2) + (if ledgerFull s then 4 else 0)
    + (if debugOpen s then 8 else 0)
  [0x4C, 0x54, 0x41, 0x47, 0x01] ++ leBytes (life s) 1 ++ leBytes (evidence s) 2 ++ leBytes s.led.head 8 ++ leBytes (tagOldest s) 8
    ++ leBytes ((h.map (fun r => leAt r 8 8)).getD 0) 8 ++ leBytes ((h.map (fun r => byteAt r 0xA3)).getD 0) 1 ++ leBytes flags 1
    ++ leBytes s.led.akCert.length 2 ++ leBytes (Config.factoryCert 2).length 2 ++ zeros 10 ++ hashBytes (deviceId s)
    ++ hashBytes s.led.headHash ++ zeros 16

/-- The configuration block (R558). -/
def tagConfigBlock (s : State) : Bytes :=
  (hashBytes (deviceId s)).take 6
    ++ leBytes ((if isSet s F.TAG_CFG_PRIVACY then 1 else 0) + (if isSet s F.TAG_CFG_FIELD_WRITE then 2 else 0)) 1 ++ zeros 25

/-- The content of a summary half (R558); each certificate's blocks are filled with zeros after it. -/
def summaryContent (s : State) : Bytes :=
  tagSummary s ++ tagConfigBlock s ++ zeros 32 ++ sliceZ s.led.akCert 0 (56 * 32) ++ sliceZ (Config.factoryCert 2) 0 (64 * 32)

/-- Replace the summary half; TAG_UID and the pool count follow tag memory. -/
def refreshSummary (s : State) : State :=
  let s := replaceHalf s (summaryContent s)
  setF (setF s F.TAG_UID_UID (tagUid s)) F.TAG_STATUS_HANDLES (tagHandles s)

/-- Append a record; `ok` is whether it persists. None is made in DECOMMISSIONED or past saturation (R300, R303). -/
def ledgerAppend (s : State) (r : RecIn) (ok : Bool) : State :=
  if life s = 4 || ledgerFull s then s
  else
    let (b, s) := makeRecord s r
    let q := s.led.head + 1
    let s := { s with led := { s.led with head := q, headHash := sha384 b, gapNext := false } }
    let s := if ok then ringPut s q b else sramPut s q b
    let s := refreshSummary (tagAppend s q b)
    if ledgerFull s then occur s 0x301 0 0 0x01FF0000 else s

/-! ## Certificates (R305) -/

/-- SHA-384 of the boot ROM's 64 KiB. -/
def bootRomHash : Hash := sha384 ((List.range 65536).map Config.bootRomByte)

/-- Issue the AK and SK certificates of this bring-up, signed by DeviceID in SPKE slot 0. -/
def issueCerts (s : State) : State :=
  let ak := s.led.akPub ++ hashBytes bootRomHash ++ hashBytes s.power.sealedMeas ++ leBytes (arbCount s 0) 4
  let sk := (match spkeSlot s 2 with | some k => (ecPublic P384 k).drop 1 | none => []) ++ hashBytes (ownerKeyHash s)
  match spkeSlot s 0 with
  | none => s
  | some k =>
    let (g, s) := spkeSign s k (hashBytes (sha384 ak))
    let (h, s) := spkeSign s k (hashBytes (sha384 sk))
    let der := Config.certDer 1 (ak ++ g)
    { s with led := { s.led with akCert := der, skCert := Config.certDer 2 (sk ++ h), certs := s.led.certs.filter (fun e => e.1 != akId s) ++ [(akId s, der)] } }

/-! ## The scan at bring-up (R301) -/

/-- The public key an AK_ID names: of this bring-up's AK, else of its AK certificate (R295, R305). -/
def akOf (s : State) (id : Bytes) : Option Bytes :=
  if id = hashBytes (akId s) then some s.led.akPub
  else (s.led.certs.find? (fun e => hashBytes e.1 = id)).map (fun e => Config.certKey e.2)

/-- Whether the record in the ring under a SEQ verifies: MAGIC, SEQ, PREV where its predecessor is in the ring, SIG (R295, R301; log entry 30). -/
def recordVerifies (s : State) (e : Nat × Bytes) : Bool :=
  slice e.2 0 4 = [0x4C, 0x45, 0x44, 0x47] && leAt e.2 8 8 = e.1
    && (mapGet? s.led.ring (e.1 - 1)).all (fun p => slice e.2 0x10 48 = hashBytes (sha384 p))
    && (akOf s (slice e.2 0x70 48)).any (fun k => ecdsaVerify P384 k (hashBytes (sha384 (e.2.take 0x3A0))) (slice e.2 0x3A0 96))

/-- The scan: the head is the record with the highest SEQ that verifies; what lies beyond it is torn and overwritten (R301). Records only SRAM
held are gone (R302). -/
def ledgerScan (s : State) : State :=
  match ((s.led.ring.filter (recordVerifies s)).map (fun e => e.1)).max? with
  | none => { s with led := { s.led with head := 0, headHash := 0 } }
  | some q => { s with led := { s.led with head := q, headHash := sha384 ((mapGet? s.led.ring q).getD []) } }

/-- The chain of slot 0 as SPDM formats it: length, reserved, hash of the root certificate, then root CA, product CA, DeviceID, AK. -/
def certChain (s : State) : Bytes :=
  let c := Config.factoryCert 0 ++ Config.factoryCert 1 ++ Config.factoryCert 2 ++ s.led.akCert
  leBytes (52 + c.length) 2 ++ zeros 2 ++ hashBytes (sha384 (Config.factoryCert 0)) ++ c

/-- The certificate of CERT_READ's WHICH (R309). -/
def certOf (s : State) (which : Nat) : Bytes := if which = 0 then certChain s else if which = 1 then s.led.skCert else s.led.akCert

end Sys2Proof.Machine
end

