-- ==== Sys2Proof/Machine/HostFlash.lean ====
section
/-!
DEFINITION. HostFlash.lean: the host-flash interposer: measurement and policy, the hold, filtering, authorised updates (R275–R293,
R313, R314, R316).
-/
namespace Sys2Proof.Machine

/-! ## The hold (R43, R277) -/

/-- Drive HOST_HOLD_N low or release it. -/
def setHold (s : State) (low : Bool) : State :=
  setB (setB { s with power := { s.power with hold := low } } F.HOSTSPI_STATUS_HOLD low) F.SYSCTL_STATE_HOST_RELEASED (!low)

/-- Step 5 of the host leg is over; a device reset that R86 put off follows now. -/
def hostLegEnds (s : State) : State :=
  let s := if s.power.phase = .measuring then { s with power := { s.power with phase := .hostDone } } else s
  if s.power.pendReset then deviceReset s F.SYSCTL_RSTCAUSE_REQUEST else s

/-! ## The map -/

/-- Put a map in force: HOSTSPI filters under it from now on (R56, R278). -/
def loadMap (s : State) (m : Bytes) : State :=
  setF { s with hf := { s.hf with map := m, filter56 := false } } F.HOSTSPI_STATUS_MAP_VALID 1

/-- HOSTSPI_LOAD: the map at MAPADDR, MAPLEN bytes, read from SRAM as MPU master 5; a malformed one sets MAP_ERR (R278, R282, R425). -/
def execHostspiLoad (s : State) : Res :=
  whenGecko s
    (if isSet s F.HOSTSPI_STATUS_MEASURING then s
     else
      let (m, s) := masterRead s 5 (getF s F.HOSTSPI_MAPADDR_VALUE) (getF s F.HOSTSPI_MAPLEN_VALUE)
      if mapOk m then loadMap s m else setF s F.HOSTSPI_STATUS_MAP_ERR 1)

/-! ## Measurement passes (R278) -/

/-- A pass over the ranges HOSTSPI_MEASURE names starts: primary and recovery masks. -/
def startPass (s : State) (prim rcv : Nat) : State :=
  let s := setF (setF s F.HOSTSPI_MEASURE_PRIMARY prim) F.HOSTSPI_MEASURE_RECOVERY rcv
  let s := setF (setF (setF s F.HOSTSPI_STATUS_MEASURING 1) F.HOSTSPI_CTRL_MEASURE 1) F.HOSTSPI_STATUS_MEASURED 0
  { s with hf := { s.hf with pass := some (prim, rcv) } }

/-- HOSTSPI_MEASURE: a pass starts. When the measurement of the host is due it is over every mapped region, and the stored selection
applies to it (R289 step 3, R314); else over what the register names. -/
def execHostspiMeasure (s : State) : Res :=
  whenGecko s
    (if !isSet s F.HOSTSPI_STATUS_MAP_VALID || isSet s F.HOSTSPI_STATUS_MEASURING then s
     else if s.hf.stage = 1 then
      let s := { s with hf := { s.hf with stage := 2, digests := [], applied := s.hf.select = 1 } }
      startPass (setF (setF s F.HOSTSPI_RESULT_PRIMARY 0) F.HOSTSPI_RESULT_RECOVERY 0) (2 ^ hmRegions s.hf.map - 1) 0
     else startPass s (getF s F.HOSTSPI_MEASURE_PRIMARY) (getF s F.HOSTSPI_MEASURE_RECOVERY))

/-- Digest of a range by region and copy (1 the recovery range): none not measured, some none a read error. -/
def digestOf (s : State) (n copy : Nat) : Option (Option Hash) := mapGet? s.hf.digests (2 * n + copy)

/-- The read mode measurement takes on a device: 0 when its SFDP table fails its checks (R275, R278). -/
def readMode (s : State) (d : Nat) : Nat := if d < hmDevices s.hf.map then fastestMode ((s.hf.sfdp[d]?).getD 0) (hmIo s.hf.map d) else 0

/-- What a pass finds of a range from the bytes read: SHA-384 over its length, none a read error; nothing is read under a wrong VDDIO_HF or after
a failed discovery (R278, R593). -/
def rangeDigest (s : State) (n : Nat) (b : Option Bytes) : Option Hash :=
  let x := hmRegion s.hf.map n
  if s.hf.vddBad ∨ readMode s x.device = 0 then none else b.map (fun b => sha384 (sliceZ b 0 x.len))

/-- Enter what a pass read for one copy of the regions a mask names: digests and the two bits of HOSTSPI_RESULT. -/
def enterDigests (s : State) (mask copy : Nat) (f : Field) (d : List (Option Bytes)) : State :=
  (List.range 8).foldl (fun t n =>
    if mask.testBit n && n < hmRegions t.hf.map && (copy = 0 || (hmRegion t.hf.map n).rcv) then
      let h := rangeDigest t n ((d[n]?).getD none)
      let v := getF t f
      let w := v - v / 4 ^ n % 4 * 4 ^ n + (if h.isSome then 1 else 3) * 4 ^ n
      setF { t with hf := { t.hf with digests := mapPut t.hf.digests (2 * n + copy) h } } f w
    else t) s

/-! ## Policy (R286) -/

/-- The entries of the authorised table for a region, in table order. -/
def authDigests (s : State) (x : HRegion) : List Bytes :=
  match s.hf.auth.find? (fun k => k.device = x.device && k.base = x.base && k.length = x.len) with
  | none => []
  | some k => k.entries.map (fun e => hashBytes e.2)

/-- The index on which a digest passes: 0–3 the map's, 4–7 the authorised table's (R297). -/
def passIndex (s : State) (x : HRegion) (d : Option Hash) : Option Nat :=
  match d with
  | none => none
  | some h =>
    match x.allowed.findIdx? (fun b => b = hashBytes h) with
    | some i => some i
    | none => ((authDigests s x).findIdx? (fun b => b = hashBytes h)).map (· + 4)

/-- The digest of a copy as the policy sees it: none when not read. -/
def copyDigest (s : State) (n copy : Nat) : Option Hash := (digestOf s n copy).getD none

/-- Regions whose recovery range must be measured: those with one, not MEASURE_ONLY, that fail or are to be tried there first. -/
def wantsRecovery (s : State) : Nat :=
  ((hmAll s.hf.map).filter (fun x => x.2.rcv && !x.2.measureOnly
    && (s.hf.applied || (passIndex s x.2 (copyDigest s x.1 0)).isNone))).foldl (fun a x => a + 2 ^ x.1) 0

/-- What the policy found for a region: RESULT and ALLOWED of its entry, whether it fails, whether it is redirected, the digest
released. -/
structure HVerdict where
  result : Nat
  allowed : Nat
  fails : Bool
  redirect : Bool
  released : Bytes
  deriving DecidableEq, Repr

/-- The judgement of one region under a policy (R286, R297; log entry 32). -/
def judgeRegion (s : State) (policy n : Nat) (x : HRegion) : HVerdict :=
  let d := copyDigest s n 0
  let r := copyDigest s n 1
  let prim := (d.map hashBytes).getD (zeros 48)
  let onPrim := fun (i : Nat) => ({ result := if policy = 1 then 1 else 0, allowed := i, fails := false, redirect := false,
                                    released := prim } : HVerdict)
  let onRec := fun (i : Nat) => ({ result := 4, allowed := i, fails := false, redirect := true,
                                   released := (r.map hashBytes).getD (zeros 48) } : HVerdict)
  let neither : HVerdict :=
    { result := if policy = 0 then 0 else if x.rcv then 5 else if d.isNone then 3 else 2, allowed := 0xFF, fails := true,
      redirect := false, released := prim }
  let ip := passIndex s x d
  let ir := if x.rcv then passIndex s x r else none
  if x.measureOnly then { result := 0, allowed := 0xFF, fails := false, redirect := false, released := prim }
  else if s.hf.applied && x.rcv then
    match ir, ip with
    | some i, _ => onRec i
    | none, some i => onPrim i
    | none, none => neither
  else
    match ip, ir with
    | some i, _ => onPrim i
    | none, some i => onRec i
    | none, none => neither

/-- The entry of a region in a HOST record (R297). -/
def hostEntry (s : State) (n : Nat) (x : HRegion) (v : HVerdict) : Bytes :=
  ((copyDigest s n 0).map hashBytes).getD (zeros 48) ++ leBytes n 1 ++ leBytes x.device 1 ++ leBytes v.result 1 ++ leBytes v.allowed 1
    ++ leBytes x.base 4 ++ leBytes x.len 4 ++ zeros 4

/-- The policy applied: the map's, measure-only in BLANK and RMA (R67, R286). -/
def policyNow (s : State) : Nat := if life s = 0 || life s = 3 then 0 else hmPolicy s.hf.map

/-- The body of a HOST record (R297). -/
def hostBody (s : State) (policy : Nat) (v : List (Nat × HRegion × HVerdict)) : Bytes :=
  let fail := if policy = 1 then ((v.find? (fun e => e.2.2.fails)).map (fun e => e.1)).getD 0xFF else 0xFF
  hashBytes (sha384 s.hf.map) ++ hashBytes ((s.image.map (fun i => i.hash)).getD 0) ++ leBytes policy 1 ++ leBytes v.length 1
    ++ leBytes fail 1 ++ zeros 13 ++ hashBytes (sha384 (v.flatMap (fun e => e.2.2.released)))
    ++ v.flatMap (fun e => hostEntry s e.1 e.2.1 e.2.2)

/-- HOST_BOOT counts the measurement (R294). -/
def countHostBoot (s : State) : State :=
  let n := min (2 ^ 31 - 1) (s.hf.hostBoot + 1)
  let t := { s with hf := { s.hf with hostBoot := n } }
  if n = 2 ^ 31 - 1 ∧ s.hf.hostBoot < n then occur t 0x301 0 0 0x01FF0001 else t

/-- Step 4 of the host leg, step 6 of R289: the policy decides, the regions recovered are redirected, the HOST record is appended; the
host is released next, or stays held (R286, R288, R300). -/
def hostDecide (s : State) (ok : Bool) : State :=
  let policy := policyNow s
  let v := (hmAll s.hf.map).map (fun x => (x.1, x.2, judgeRegion s policy x.1 x.2))
  let heldNow := policy = 1 && v.any (fun e => e.2.2.fails)
  let redir := (v.filter (fun e => e.2.2.redirect)).foldl (fun a e => a + 2 ^ e.1) 0
  let verdict := if heldNow then 3 else if redir != 0 then 2 else if policy = 0 then 1 else 0
  let flags := (if policy != hmPolicy s.hf.map then 1 else 0) + (if s.hf.restarted then 2 else 0) + (if s.hf.applied then 4 else 0)
  let s := countHostBoot (setF s F.HOSTSPI_REDIR_REGIONS redir)
  let s := ledgerAppend s { kind := 2, verdict := verdict, flags := flags, rstcause := 0, body := hostBody s policy v } ok
  let s := { s with hf := { s.hf with stage := if heldNow then 0 else 4, restarted := false, applied := false,
                                      select := if s.hf.applied then 0 else s.hf.select } }
  if heldNow then hostLegEnds s else s

/-- A pass ends: digests, read modes, rate, MEASURED (R275, R278). -/
def passDone (s : State) (p : PassEnd) (prim rcv : Nat) : State :=
  let s := enterDigests (enterDigests s prim 0 F.HOSTSPI_RESULT_PRIMARY p.prim) rcv 1 F.HOSTSPI_RESULT_RECOVERY p.rcv
  let s := setF (setF (setF s F.HOSTSPI_RATE_MODE0 (readMode s 0)) F.HOSTSPI_RATE_MODE1 (readMode s 1)) F.HOSTSPI_RATE_MBPS p.mbps.toNat
  let s := setF (setF (setF s F.HOSTSPI_STATUS_MEASURING 0) F.HOSTSPI_CTRL_MEASURE 0) F.HOSTSPI_STATUS_MEASURED 1
  { s with hf := { s.hf with pass := none } }

/-- What Sealed firmware does once a pass of the host's measurement has ended: the recovery pass, or the decision (R286, R289). -/
def afterPass (s : State) (ok : Bool) : State :=
  if s.hf.stage == 2 && wantsRecovery s != 0 then startPass { s with hf := { s.hf with stage := 3 } } 0 (wantsRecovery s)
  else if s.hf.stage == 2 || s.hf.stage == 3 then hostDecide s ok
  else s

/-- MEASUREMENT_PASS_END: the digests are placed and MEASURED is set; in the measurement of the host Sealed firmware runs the recovery
pass or decides (R278, R286, R289 steps 4–6). -/
def execMeasurementPassEnd (p : PassEnd) (s : State) : Res :=
  whenGecko s
    (match s.hf.pass with
     | none => s
     | some (prim, rcv) => afterPass (passDone s p prim rcv) p.ledgerOk)

/-- HOSTSPI_RELEASE: the host is released once the decision allows it; windows that waited open; a pattern test ends (R43, R277, R289, R293, R578; log entry 28). A
write while MEASURING is 1 is ignored (R316). -/
def execHostspiRelease (s : State) : Res :=
  whenGecko s
    (if s.hf.stage = 4 ∧ !isSet s F.HOSTSPI_STATUS_MEASURING then
      let s := endPattern s (fun _ => true)
      let s := setF s F.HOSTSPI_OPEN_REGIONS (getF s F.HOSTSPI_OPEN_REGIONS ||| s.hf.openNext)
      hostLegEnds (setHold { s with hf := { s.hf with stage := 0, openNext := 0 } } false)
     else s)

/-! ## Host reset (R289, R290) -/

/-- Steps 2 on: the host is held, windows and redirections close, a pass is abandoned; with a map in force the measurement is due. In
DECOMMISSIONED none is made (R286). -/
def hostResetFrom (s : State) : State :=
  let s := setF (setF (setHold (endPattern s (fun _ => true)) true) F.HOSTSPI_OPEN_REGIONS 0) F.HOSTSPI_REDIR_REGIONS 0
  let s := setF (setF s F.HOSTSPI_STATUS_MEASURING 0) F.HOSTSPI_CTRL_MEASURE 0
  let due := isSet s F.HOSTSPI_STATUS_MAP_VALID && life s != 4 && (s.power.phase = .measuring || s.power.phase = .hostDone)
  { s with
    hf := { s.hf with pass := none, filter56 := false, stage := if due then 1 else 0,
                      restarted := due && (s.hf.restarted || (1 ≤ s.hf.stage && s.hf.stage ≤ 3)) }
    power := { s.power with skipHold := false } }

/-- HOST_RESET: HOST_RST_IN_N was low for so long; below 1 µs it is ignored (R289). -/
def execHostReset (ns : Nat) (s : State) : Res :=
  whenGecko s
    (if ns < 1000 then s
     else hostResetFrom (setF (bump s F.HOSTSPI_RESETS_COUNT F.HOSTSPI_RESETS_SAT) F.HOSTSPI_STATUS_RESET_SEEN 1))

/-! ## Filtering (R281, R283, R284, R288) -/

/-- A range of a device closed to program and erase: device, base, length. Regions with PROTECT and no open window, redirected
regions, every recovery range, filter ranges of ACTION 1. -/
def closedRanges (s : State) : List (Nat × Nat × Nat) :=
  (hmAll s.hf.map).flatMap (fun x =>
    (if (x.2.protect && !(getF s F.HOSTSPI_OPEN_REGIONS).testBit x.1) || (getF s F.HOSTSPI_REDIR_REGIONS).testBit x.1 then
      [(x.2.device, x.2.base, x.2.len)] else [])
    ++ (if x.2.rcv then [(x.2.device, x.2.recBase, x.2.len)] else []))
  ++ ((hmFilterAll s.hf.map).filter (fun f => f.action = 1)).map (fun f => (f.device, f.base, f.len))

/-- The deny ranges. -/
def denyRanges (s : State) : List (Nat × Nat × Nat) :=
  ((hmFilterAll s.hf.map).filter (fun f => f.action = 2)).map (fun f => (f.device, f.base, f.len))

/-- Whether the interposer blocks a transaction of a class (R56, R281, R283). -/
def blocksTrans (s : State) (e : HOpcode) (t : HostTrans) : Bool :=
  let d := t.device.val
  let a := t.addr.toNat
  let at1 := fun (l : List (Nat × Nat × Nat)) => l.any (fun r => rangeMeets r (d, a, 1))
  let blk := max 1 t.block
  if s.hf.filter56 then !(e.cls = 1 || e.cls = 6)
  else if e.addr != 0 && at1 (denyRanges s) then true
  else
    match e.cls with
    | 2 => at1 (closedRanges s)
    | 3 => (closedRanges s).any (fun r => rangeMeets r (d, a - a % blk, blk))
    | 4 => (closedRanges s).any (fun r => r.1 = d)
    | 5 => (closedRanges s).any (fun r => r.1 = d)
    | _ => false

/-- Where a READ goes: the recovery range of the redirected region its address lies in (R288). -/
def redirected (s : State) (d a : Nat) : Nat :=
  match (hmAll s.hf.map).find? (fun x => (getF s F.HOSTSPI_REDIR_REGIONS).testBit x.1 && rangeMeets (x.2.device, x.2.base, x.2.len) (d, a, 1)) with
  | some x => x.2.recBase + (a - x.2.base)
  | none => a

/-- A blocked command: counted and recorded (R284). -/
def blockTrans (s : State) (t : HostTrans) (addr : Nat) : State :=
  let s := setF (setF (setF s F.HOSTSPI_LAST_OPCODE t.opcode.toNat) F.HOSTSPI_LAST_DEVICE t.device.val) F.HOSTSPI_LASTADDR_ADDR addr
  bump { s with hf := { s.hf with side := none } } F.HOSTSPI_BLOCKED_COUNT F.HOSTSPI_BLOCKED_SAT

/-- A transaction after release. -/
def filterTrans (s : State) (t : HostTrans) : State :=
  match (hmOps s.hf.map).find? (fun e => e.op = t.opcode.toNat) with
  | none => blockTrans (bump s F.HOSTSPI_UNKNOWN_COUNT F.HOSTSPI_UNKNOWN_SAT) t 0
  | some e =>
    let a := if e.addr = 0 then 0 else t.addr.toNat
    if blocksTrans s e t then blockTrans s t a
    else
      let side : FlashSide := { device := t.device.val, opcode := t.opcode.toNat, addr := if e.cls = 1 then redirected s t.device.val a else a }
      { s with hf := { s.hf with side := some side } }

/-- HOST_FLASH_TRANSACTION: passed, redirected or blocked; nothing passes while the host is held; activity the interposer did not drive
raises T14 (R277, R283–R285, R288). -/
def execHostFlashTransaction (t : HostTrans) (s : State) : Res :=
  whenGecko s
    (let s := if s.power.hold then { s with hf := { s.hf with side := none } } else filterTrans s t
     if t.intrusion then tamperTrip s 14 else s)

/-! ## Authorised update (R291–R293, R313) -/

/-- The key of the authorised table an authorisation names. -/
def authKeyOf (s : State) (b : Bytes) : Option AuthKey :=
  s.hf.auth.find? (fun k => k.device = byteAt b 4 && k.base = leAt b 8 4 && k.length = leAt b 12 4)

/-- The region of the map in force an authorisation names. -/
def authRegion (s : State) (b : Bytes) : Option Nat :=
  ((hmAll s.hf.map).find? (fun x => x.2.device = byteAt b 4 && x.2.base = leAt b 8 4 && x.2.len = leAt b 12 4)).map (fun x => x.1)

/-- The reason an authorisation is refused for, 0 none (R313). -/
def authReason (s : State) (b : Bytes) : Nat :=
  if slice b 0 4 ≠ [0x48, 0x46, 0x41, 0x55] ∨ !(byteAt b 5 = 1 ∨ byteAt b 5 = 2) ∨ !allZero b 6 2 ∨ !allZero b 0x14 12 then 1
  else if sha384 (sliceZ b 0x80 96) ≠ ownerKeyHash s ∨ !(life s = 1 ∨ life s = 2) then 2
  else if slice b 0x50 48 ≠ hashBytes (deviceId s) then 3
  else if (authRegion s b).isNone then 4
  else if ((authKeyOf s b).map (fun k => decide (leAt b 0x10 4 ≤ k.highest))).getD false then 5
  else if !ecdsaVerify P384 (sliceZ b 0x80 96) (hashBytes (sha384 (sliceZ b 0 0xE0))) (sliceZ b 0xE0 96) then 6
  else 0

/-- Take the entry with the lowest VERSION out. -/
def dropLowest (l : List (Nat × Hash)) : List (Nat × Hash) :=
  match (l.map (fun e => e.1)).min? with
  | none => l
  | some v => l.erase ((l.find? (fun e => e.1 = v)).getD (0, 0))

/-- The entries of a key after an authorisation: MODE 1 adds, evicting the lowest VERSION when four are held; MODE 2 replaces (R292). -/
def authEntries (old : List (Nat × Hash)) (mode v : Nat) (h : Hash) : List (Nat × Hash) :=
  if mode = 2 then [(v, h)] else (if 4 ≤ old.length then dropLowest old else old) ++ [(v, h)]

/-- The table after an authorisation. -/
def authTable (s : State) (b : Bytes) : List AuthKey :=
  let v := leAt b 0x10 4
  let h : Hash := BitVec.ofNat 384 (beNat (sliceZ b 0x20 48))
  match authKeyOf s b with
  | some k => s.hf.auth.map (fun x => if x = k then { x with entries := authEntries x.entries (byteAt b 5) v h, highest := v } else x)
  | none => s.hf.auth ++ [{ device := byteAt b 4, base := leAt b 8 4, length := leAt b 12 4, entries := [(v, h)], highest := v }]

/-- Open the write window of a region: at once, or at the release that follows while the host is held (R293). -/
def openWindow (s : State) (n : Nat) : State :=
  if s.power.hold then { s with hf := { s.hf with openNext := s.hf.openNext ||| 2 ^ n } }
  else setF s F.HOSTSPI_OPEN_REGIONS (getF s F.HOSTSPI_OPEN_REGIONS ||| 2 ^ n)

/-- Apply an authorisation: the table, the window, the AUTH record; answers the reason, 0 accepted (R291–R293, R299, R300). -/
def applyAuth (s : State) (b : Bytes) (ok : Bool) : Nat × State :=
  match authReason s b, authRegion s b with
  | 0, some n =>
    let s := openWindow { s with hf := { s.hf with auth := authTable s b } } n
    (0, ledgerAppend s { kind := 4, verdict := 0, flags := 0, rstcause := 0, body := sliceZ b 0 320 } ok)
  | r, _ => (r, s)

end Sys2Proof.Machine
end

