-- ==== Sys2Proof/Machine/BootCmds.lean ====
section
/-!
DEFINITION. BootCmds.lean: the opcodes 0x88–0x8D: ledger, quote, certificates, authorised update, boot selection (R308–R314).
-/
namespace Sys2Proof.Machine

/-- Opcodes 0x8C–0x8E are the PF's: BAD_OPCODE from a VF (R310). -/
def pfOnly (t : TagEntry) : Option Outcome := chk (t.fn != 0) (outStatus stBAD_OPCODE)

/-- The records from a sequence number up, as many whole ones as a length holds (R311). -/
def ledgerRead (s : State) (first len : Nat) : Bytes :=
  ((((List.range (min (len / 1024) (s.led.head + 1 - first))).map (fun i => recordOf s (first + i))).filterMap id).flatMap id)

/-- The checks of LEDGER_READ, in order. -/
def chkLedgerRead (s : State) (t : TagEntry) : List (Option Outcome) :=
  let e := t.entry
  [spareOperands e [(0x40, 8)], chk (seOutLen e < 1024) (outBad stBAD_LENGTH 0x34),
   chk (seOp e 0x40 8 < ledgerOldest s) { (outBad stBAD_FIELD 0x40) with result := ledgerOldest s }]

/-- LEDGER_READ once its checks pass. -/
def goLedgerRead (r : Run) (s : State) (t : TagEntry) : State :=
  startOn s t r 3 0 (fun s => ((outData s.led.head (ledgerRead s (seOp t.entry 0x40 8) (seOutLen t.entry)), .nothing), s))

/-- LEDGER_READ (R308, R311). -/
def execLedgerRead (r : Run) (s : State) : Res := checked s r 0x88 (chkLedgerRead s) (goLedgerRead r s)

/-- LEDGER_STATUS.CARD: 0 absent, 1 ready, 2 locked to another device, 3 error (R311, R551). -/
def cardCode (s : State) : Nat :=
  match getF s F.SDH_STATUS_STATE with
  | 2 => 1 | 3 => 2 | 4 => 3 | 5 => 3 | _ => 0

/-- The 64-byte status (R311). -/
def ledgerStatus (s : State) : Bytes :=
  leBytes s.led.head 8 ++ leBytes (ledgerOldest s) 8 ++ leBytes s.sdh.head 8
    ++ leBytes (if s.led.gaps = 2 ^ 31 - 1 then 2 ^ 32 - 1 else s.led.gaps) 4 ++ leBytes (cardCode s) 1
    ++ leBytes ((if s.led.sram.isEmpty then 0 else 1) + (if ledgerFull s then 2 else 0)) 1 ++ leBytes (evidence s) 2 ++ zeros 32

/-- The checks of LEDGER_STATUS, in order. -/
def chkLedgerStatus (t : TagEntry) : List (Option Outcome) :=
  [spareOperands t.entry [], chk (seOutLen t.entry < 64) (outBad stBAD_LENGTH 0x34)]

/-- LEDGER_STATUS once its checks pass. -/
def goLedgerStatus (r : Run) (s : State) (t : TagEntry) : State :=
  startOn s t r 3 0 (fun s => ((outData s.led.head (ledgerStatus s), .nothing), s))

/-- LEDGER_STATUS (R308, R311). -/
def execLedgerStatus (r : Run) (s : State) : Res := checked s r 0x89 chkLedgerStatus (goLedgerStatus r s)

/-- The quote for a nonce (R312). -/
def makeQuote (s : State) (nonce : Bytes) : Bytes × State :=
  let b := [0x51, 0x55, 0x4F, 0x54] ++ zeros 4 ++ leBytes s.led.head 8 ++ sliceZ nonce 0 32 ++ hashBytes s.led.headHash
    ++ leBytes (evidence s) 2 ++ leBytes (life s) 1 ++ leBytes (mode s) 1 ++ leBytes (getF s F.QMGR_WINDOW_ID) 4 ++ zeros 56
  let (g, s) := akSign s b
  (b ++ g, s)

/-- The checks of ATTEST_QUOTE, in order. -/
def chkAttestQuote (t : TagEntry) : List (Option Outcome) :=
  [spareOperands t.entry [], badInLen (seInLen t.entry != 32), chk (seOutLen t.entry < 256) (outBad stBAD_LENGTH 0x34)]

/-- ATTEST_QUOTE once its checks pass. -/
def goAttestQuote (r : Run) (s : State) (t : TagEntry) : State :=
  startOn s t r 3 0 (fun s =>
    match r.input with
    | none => ((outStatus stDMA_ERROR, .nothing), s)
    | some n =>
      let (q, s) := makeQuote s n
      ((outData s.led.head q, .nothing), s))

/-- ATTEST_QUOTE (R308, R312). -/
def execAttestQuote (r : Run) (s : State) : Res := checked s r 0x8A chkAttestQuote (goAttestQuote r s)

/-- The checks of CERT_READ, in order. -/
def chkCertRead (t : TagEntry) : List (Option Outcome) :=
  [badField (2 < seOp t.entry 0x40 1) 0x40, spareOperands t.entry [(0x40, 1), (0x44, 4)]]

/-- CERT_READ once its checks pass. -/
def goCertRead (r : Run) (s : State) (t : TagEntry) : State :=
  startOn s t r 3 0 (fun s =>
    let c := certOf s (seOp t.entry 0x40 1)
    ((outData c.length (slice c (seOp t.entry 0x44 4) (seOutLen t.entry)), .nothing), s))

/-- CERT_READ: certificate bytes from OFFSET, as many as OUT_LEN holds (R308, R309). -/
def execCertRead (r : Run) (s : State) : Res := checked s r 0x8B chkCertRead (goCertRead r s)

/-- The checks of HOST_FLASH_AUTH, in order. -/
def chkHostFlashAuth (t : TagEntry) : List (Option Outcome) :=
  [spareOperands t.entry [], badInLen (seInLen t.entry != 320), pfOnly t]

/-- HOST_FLASH_AUTH once its checks pass. -/
def goHostFlashAuth (r : Run) (s : State) (t : TagEntry) : State :=
  startOn s t r 3 0 (fun s =>
    (withInput r 320 (fun b => (outStatus stOK, .hostFlashAuth b)), s))

/-- HOST_FLASH_AUTH (R310, R313). -/
def execHostFlashAuth (r : Run) (s : State) : Res := checked s r 0x8C chkHostFlashAuth (goHostFlashAuth r s)

/-- Its effect: VERSION, or VERIFY_FAILED with the reason (R313). -/
def effHostFlashAuth (s : State) (b : Bytes) (ok : Bool) (out : Outcome) : State × Outcome :=
  match applyAuth s b ok with
  | (0, s) => (s, { out with result := leAt b 0x10 4 })
  | (n, s) => (s, { (outStatus stVERIFY_FAILED) with result := n })

/-- The checks of HOST_BOOT_SELECT, in order. -/
def chkHostBootSelect (t : TagEntry) : List (Option Outcome) :=
  [badField (1 < seOp t.entry 0x40 1) 0x40, spareOperands t.entry [(0x40, 1)], pfOnly t]

/-- HOST_BOOT_SELECT once its checks pass. -/
def goHostBootSelect (r : Run) (s : State) (t : TagEntry) : State :=
  startOn s t r 3 0 (fun s => ((outStatus stOK, .bootSelect (seOp t.entry 0x40 1)), s))

/-- HOST_BOOT_SELECT (R310, R314). -/
def execHostBootSelect (r : Run) (s : State) : Res := checked s r 0x8D chkHostBootSelect (goHostBootSelect r s)

/-- Its effect: the selection is stored, 0 clears it; RESULT the one before (R308, R314). -/
def effBootSelect (s : State) (v : Nat) (out : Outcome) : State × Outcome :=
  ({ s with hf := { s.hf with select := v } }, { out with result := s.hf.select })

end Sys2Proof.Machine
end

