-- ==== Sys2Proof/Machine/Params.lean ====
section
/-!
DEFINITION. Params.lean: the PARAMS section and the registers whose Reset reads image (R76, R93, R608).
-/
namespace Sys2Proof.Machine

/-- An entry of PARAMS: block number as R76 numbers them, register offset, mask, value. -/
structure Param where
  num : Nat
  off : Nat
  mask : Nat
  value : Nat
  deriving DecidableEq, Repr

/-- The i-th entry. -/
def paramAt (b : Bytes) (i : Nat) : Param :=
  { num := leAt b (12 * i) 2, off := leAt b (12 * i + 2) 2, mask := leAt b (12 * i + 4) 4, value := leAt b (12 * i + 8) 4 }

/-- All entries of a section. -/
def params (b : Bytes) : List Param := (List.range (b.length / 12)).map (paramAt b)

/-- The block a number of R76 names: the Gecko n, or the k-th Landau block of R40. -/
def blkOfParam (n : Nat) : Nat :=
  if n < 0x100 then n else if n < 0x109 then 0x20 + (n - 0x100) else if n < 0x111 then 0x30 + (n - 0x109)
  else if n < 0x121 then 0x40 + (n - 0x111) else if n < 0x129 then 0x50 + (n - 0x121) else 0xFFFF

/-- Whether an entry names a field whose Reset is not image (R93), or turns RAW_EXPORT on outside BLANK and RMA (R273). -/
def badParam (s : State) (p : Param) : Bool :=
  let b := blkOfParam p.num
  let ok := paramMask b p.off ||| copiedMask b p.off
  p.mask ||| ok != ok || b = 0xFFFF
    || (b = Blk.RNG && p.off = 0 && p.mask.testBit 8 && p.value.testBit 8 && life s != 0 && life s != 3)

/-- Write the bits of a mask in a register, as Sealed firmware loads them. -/
def setMasked (s : State) (blk off mask v : Nat) : State :=
  (fieldsAt blk off).foldl (fun t f =>
    let m := f.ofWord mask
    if m = 0 then t else setF t f ((getF t f - (getF t f &&& m)) ||| (f.ofWord v &&& m))) s

/-- The registers with fields that PARAMS names: block and offset (R608). -/
def imageRegs : List (Nat × Nat) :=
  [(0x28, 0x4), (0x22, 0x8), (0x23, 0x8), (6, 0), (6, 8), (6, 0x1C), (9, 0x18), (3, 8), (3, 0xC), (3, 0x24), (3, 0x28), (3, 0x2C), (4, 8),
   (2, 0xC), (2, 0x1C), (0xB, 8), (0xC, 8), (0xB, 0x44), (0xD, 8), (0xE, 0x14), (0x11, 4)]
    ++ (List.range 8).map (fun k => (0x26, 0x40 + 4 * k)) ++ (List.range 8).map (fun k => (0x50 + k, 4))
    ++ (List.range 16).map (fun n => (5, 0x40 + 4 * n))

/-- The fields of a register that PARAMS may name take their defaults (R608). -/
def setDefaults (s : State) (blk off : Nat) : State :=
  (fieldsAt blk off).foldl (fun t f => if f.ofWord (paramMask blk off) = 0 then t else setF t f f.reset) s

/-- Apply PARAMS to the blocks of a predicate: every field takes its default, then the entries their values; bits R608 copies from elsewhere
keep what is copied. -/
def applyParams (s : State) (p : Nat → Bool) : State :=
  match s.image with
  | none => s
  | some i =>
    let s := (imageRegs.filter (fun r => p r.1)).foldl (fun t r => setDefaults t r.1 r.2) s
    (params (sectionOr i.bytes 0xC)).foldl (fun t x =>
      let b := blkOfParam x.num
      if p b then setMasked t b x.off (x.mask &&& paramMask b x.off) x.value else t) s

/-- Load the registers of Gecko, the response settings that the cell domain keeps among them (R465, R608). -/
def loadGeckoParams (s : State) : State := applyParams s (fun b => b < 0x20)

end Sys2Proof.Machine
end

