-- ==== Sys2Proof/Machine/RngCmds.lean ====
section
/-!
DEFINITION. RngCmds.lean: health tests of the noise sources, seeds and the random opcodes (R261–R274).
-/
namespace Sys2Proof.Machine

/-! ## Sources -/

/-- With STRICT, every instance stalls while no seed can be made (R266). -/
def strictStall (s : State) : State :=
  if isSet s F.RNG_STATUS_NO_SEED && isSet s F.RNG_CTRL_STRICT then
    s.rng.insts.foldl (fun u e => setStalled u e.1 true) s
  else s

/-- DEGRADED and NO_SEED after a change of service: one source in service, or RAW_EXPORT; NO_SEED is reported when it arises (R265, R266,
R273). -/
def serviceRefresh (s : State) : State :=
  let a := inService s 0
  let b := inService s 1
  let was := isSet s F.RNG_STATUS_NO_SEED
  let s := setB (setB s F.RNG_STATUS_DEGRADED (a != b || isSet s F.RNG_CTRL_RAW_EXPORT)) F.RNG_STATUS_NO_SEED (!a && !b)
  let s := if !a && !b && !was then faultReport s 0x25 0 0 else s
  strictStall s

/-- A continuous-test failure: out of service, counted, FAILn; the start-up test is rerun; the third within one second marks the source
DEAD and is reported (R265). Time is in µs. -/
def healthFail (s : State) (n t : Nat) : State :=
  let old := if n = 0 then s.rng.fails0 else s.rng.fails1
  let l := (old.filter (fun x => t < x + 1000000)) ++ [t]
  let s := { s with rng := if n = 0 then { s.rng with fails0 := l, test0 := HealthRun.init } else { s.rng with fails1 := l, test1 := HealthRun.init } }
  let s := bump s (F.RNG_FAILS_COUNT n) (F.RNG_FAILS_SAT n)
  let s := if n = 0 then setF s F.RNG_STATUS_FAIL0 1 else setF s F.RNG_STATUS_FAIL1 1
  let dead := l.length ≥ 3
  let s := setSrc s n (if dead then 3 else 1)
  serviceRefresh (if dead then faultReport s 0x24 0 n else s)

/-! ## Continuous tests (R263) -/

/-- The bits of a raw string of n bits, first bit first (the highest). -/
def rawBits {w : Nat} (v : BitVec w) (n : Nat) : List Bool := (List.range n).map (fun i => v.getLsbD (n - 1 - i))

/-- One raw bit through both tests: the run it lengthens, the window it falls in. -/
def testBit (h : HealthRun) (b : Bool) : HealthRun :=
  let run := if h.run != 0 && h.last = b then h.run + 1 else 1
  let first := if h.pos = 0 then b else h.first
  { last := b, run := run, pos := (h.pos + 1) % 1024, first := first,
    count := (if h.pos = 0 then 0 else h.count) + (if b = first then 1 else 0) }

/-- Raw bits through both tests, and whether none failed: a run that reaches RCT_CUTOFF, a count that reaches APT_CUTOFF. -/
def testBits (s : State) (h : HealthRun) (l : List Bool) : HealthRun × Bool :=
  l.foldl (fun p b =>
    let h := testBit p.1 b
    (h, p.2 && h.run < getF s F.RNG_HEALTH_RCT_CUTOFF && h.count < getF s F.RNG_HEALTH_APT_CUTOFF)) (h, true)

/-- Raw bits of a source in service, through its tests. -/
def feedSource (s : State) (n : Nat) (l : List Bool) : State × Bool :=
  let (h, ok) := testBits s (if n = 0 then s.rng.test0 else s.rng.test1) l
  ({ s with rng := if n = 0 then { s.rng with test0 := h } else { s.rng with test1 := h } }, ok)

/-- Whether 4,096 raw bits pass the start-up test (R264). -/
def startupOk (s : State) (raw : BitVec 4096) : Bool := (testBits s HealthRun.init (rawBits raw 4096)).2

/-- Bits as bytes, first bit highest. -/
def bitsToBytes (l : List Bool) : Bytes :=
  (List.range (l.length / 8)).map (fun i =>
    BitVec.ofNat 8 (((l.drop (8 * i)).take 8).foldl (fun a b => 2 * a + if b then 1 else 0) 0))

/-- SEED_BLOCK: the conditioner's block from 1,024 raw bits of each source, or 2,048 of the one in service; a failed test discards it
(R261–R263, R265). The raw bits are the event's; with both sources the low 1,024 bits of each count. -/
def execSeedBlock (raw0 raw1 : BitVec 2048) (at_ : Nat) (s : State) : Res :=
  let a := inService s 0
  let b := inService s 1
  let l0 := if a then rawBits raw0 (if b then 1024 else 2048) else []
  let l1 := if b then rawBits raw1 (if a then 1024 else 2048) else []
  .next (if !geckoUp s || (!a && !b) then s
    else
      let (s, ok0) := feedSource s 0 l0
      let (s, ok1) := feedSource s 1 l1
      if ok0 && ok1 then
        { s with rng := { s.rng with ready := some (s.rng.block, sha384 (bitsToBytes (l0 ++ l1))), block := s.rng.block + 1 } }
      else
        let s := { s with rng := { s.rng with block := s.rng.block + 1 } }
        let s := if ok0 then s else healthFail s 0 at_
        if ok1 then s else healthFail s 1 at_)

/-- STARTUP_TEST_END: the start-up test on 4,096 raw bits: passed, the source returns to service; failed, it has failed a continuous test
again (R264, R265). -/
def execStartupTestEnd (src : Fin 2) (raw : BitVec 4096) (at_ : Nat) (s : State) : Res :=
  .next (if srcState s src.val != 1 then s
    else if startupOk s raw then serviceRefresh (setSrc s src.val 2) else healthFail s src.val at_)

/-- SRC_EN: a write of RNG_CTRL; a source leaves service with its enable; enabled again it is in STARTUP until it passes the start-up test (log
entry 77); a DEAD one stays DEAD (R265, R266). -/
def execSrcEn (v : W32) (s : State) : Res :=
  .next (if !geckoUp s then s
    else
      let s := writeReg s Blk.RNG 0 v.toNat
      let f := fun (s : State) (n : Nat) (en : Bool) =>
        if srcState s n = 3 then s else if !en then setSrc s n 0 else if srcState s n = 0 then setSrc s n 1 else s
      serviceRefresh (f (f s 0 (v.getLsbD 0)) 1 (v.getLsbD 1)))

/-- The adjacent equal pairs of a list of bits. -/
def equalPairs (l : List Bool) : Nat := ((l.zip (l.drop 1)).filter (fun p => p.1 = p.2)).length

/-- BIAS_WINDOW: the ones and the adjacent equal pairs of a window of 32,768 raw bits, in two halves (R267). -/
def execBiasWindow (src : Fin 2) (early late : BitVec 16384) (s : State) : Res :=
  let l := rawBits (early ++ late) 32768
  .next (if srcState s src.val = 0 then s
    else setF (setF s (F.RNG_BIAS_ONES src.val) (l.filter id).length) (F.RNG_BIAS_EQUAL src.val) (equalPairs l))

/-! ## Seeds -/

/-- The instances a predicate picks. -/
def instsWhere (s : State) (p : Nat → RngInst → Bool) : List (Nat × RngInst) := s.rng.insts.filter (fun e => p e.1 e.2)

/-- Whether a seed can reach an instance: a Landau instance over the drawbar only (R268, R271). -/
def seedReaches (s : State) (i : Nat) : Bool := i = 28 || s.drawbar.up

/-- The instance the next seed goes to: those whose instantiation waits, which generate nothing yet, and stalled ones, lowest first; stretched
ones, longest first; prediction-resistance requests that the block may serve, in arrival order (R268, R270, R272; log entry 78). -/
def seedTarget (s : State) (blk : Nat) : Option Nat :=
  match ((s.rng.due ++ (instsWhere s (fun i _ => stalled s i)).map (fun e => e.1)).filter (seedReaches s)).min? with
  | some i => some i
  | none =>
    match (instsWhere s (fun i _ => (getF s F.RNG_STRETCH_INST).testBit i && seedReaches s i)).foldl
        (fun (a : Option (Nat × Nat)) e => match a with
          | none => some (e.1, e.2.since)
          | some b => if e.2.since < b.2 then some (e.1, e.2.since) else some b) none with
    | some e => some e.1
    | none => ((s.rng.pr.filter (fun w => !w.served && decide (w.stamp < blk) && seedReaches s w.inst)).head?).map (fun w => w.inst)

/-- SEED_DELIVERY: the ready block reseeds its instance; it serves every prediction-resistance command there whose wait began before the
block was started (R270, R272). -/
def execSeedDelivery (s : State) : Res :=
  .next (match s.rng.ready with
    | none => s
    | some (blk, v) =>
      match seedTarget s blk with
      | none => s
      | some i =>
        let s := seedInst s i v
        { s with rng := { s.rng with ready := none, pr := s.rng.pr.map (fun w =>
            if w.inst = i && decide (w.stamp < blk) then { w with served := true } else w) } })

/-- RNG_STALL: an instance stalled for STALL_MS reports a fatal fault (R270). -/
def execRngStall (inst : Fin 29) (s : State) : Res := .next (if stalled s inst.val then faultReport s 0x26 0 inst.val else s)

/-- MASK_STREAM_REKEY: after 2^20 blocks (R271). -/
def execMaskStreamRekey (cluster : Fin 8) (tile : Fin 9) (s : State) : Res :=
  .next (if rngServes s (16 + cluster.val) 1 then rekeyMask s cluster.val tile.val else s)

/-! ## Registers read -/

/-- RNG_STATUS_REFRESH: the copy of registers 0x004–0x02C that the command reports (R272). -/
def execRngStatusRefresh (s : State) : Res :=
  .next { s with rng := { s.rng with copy := (List.range 11).flatMap (fun i => leBytes (readReg s Blk.RNG (4 + 4 * i)) 4) } }

/-- RNG_DATA_READ: the next 32 bits of instance 28, or 0 with DATA_ERR when it cannot serve (R274). -/
def execRngDataRead (s : State) : Res :=
  .next (if rngServes s 28 1 then
      let (v, s) := drbgBits s 28 32
      setF s F.RNG_DATA_VALUE v
    else setF (setF s F.RNG_DATA_VALUE 0) F.RNG_STATUS_DATA_ERR 1)

/-- RNG_RAW_READ: while raw export diverts a powered source, the next 16 raw bits, which are free and go through the continuous tests of a
healthy source (R263, R273); otherwise nothing valid. -/
def execRngRawRead (s : State) : Res :=
  .next (if isSet s F.RNG_CTRL_RAW_EXPORT && srcState s (getF s F.RNG_RAW_SOURCE) != 0 then
      let n := getF s F.RNG_RAW_SOURCE
      let (v, s) := draw s 16
      let (s, ok) := if srcState s n = 2 then feedSource s n (rawBits (BitVec.ofNat 16 v) 16) else (s, true)
      let s := if ok then s else healthFail s n (1000000 * optime s)
      setF (setF s F.RNG_RAW_VALID 1) F.RNG_RAW_BITS v
    else setF (setF s F.RNG_RAW_VALID 0) F.RNG_RAW_BITS 0)

/-! ## Opcodes (R272) -/

/-- The checks of RANDOM_BYTES, in order. -/
def chkRandomBytes (s : State) (t : TagEntry) : List (Option Outcome) :=
  let e := t.entry
  [spareOperands e [(0x40, 1)], badField (1 < byteAt e 0x40) 0x40,
   chk (seOutLen e = 0 || 65536 < seOutLen e) (outBad stBAD_LENGTH 0x34), needClass s 2 (tagWorld s t)]

/-- RANDOM_BYTES once its checks pass. -/
def goRandomBytes (r : Run) (s : State) (t : TagEntry) : State :=
  let e := t.entry
  let i := 16 + r.unit
  let pr := byteAt e 0x40 = 1
  let n := (seOutLen e + 4095) / 4096
  match s.rng.pr.find? (fun w => w.tag = t.tag) with
  | none =>
    if pr then
      if tileServes s 2 (tagWorld s t) r.unit r.tile then
        { s with rng := { s.rng with pr := s.rng.pr ++ [{ tag := t.tag, inst := i, stamp := s.rng.block, served := false }] } }
      else s
    else if !rngAllows s i n then s
    else startOn s t r 2 0 (fun s =>
      let (b, s) := drbgOutput s i (seOutLen e)
      (({ (outData i b) with result := i }, .nothing), s))
  | some w =>
    if !w.served || w.inst != i || !rngAllows s i n || !canStart s t 2 r 1 then s
    else
      let s := { s with rng := { s.rng with pr := s.rng.pr.filter (fun x => x.tag != t.tag) } }
      startOn s t r 2 1 (fun s =>
        let (b, s) := drbgOutput s i (seOutLen e)
        (({ (outData i b) with result := i }, .nothing), s))

/-- RANDOM_BYTES: generator output; with PR only after a fresh seed has reached the serving instance since the wait began. -/
def execRandomBytes (r : Run) (s : State) : Res := checked s r 0x80 (chkRandomBytes s) (goRandomBytes r s)

/-- The checks of RNG_STATUS, in order. -/
def chkRngStatus (t : TagEntry) : List (Option Outcome) :=
  [spareOperands t.entry [], shortOut t.entry 64]

/-- RNG_STATUS once its checks pass. -/
def goRngStatus (r : Run) (s : State) (t : TagEntry) : State :=
  commitCore s t r { (outData 0 (sliceZ s.rng.copy 0 64)) with result := leAt s.rng.copy 0 4 } .nothing

/-- RNG_STATUS: the status copy, then zeros; RESULT is its status word. -/
def execRngStatus (r : Run) (s : State) : Res := checked s r 0x81 chkRngStatus (goRngStatus r s)

end Sys2Proof.Machine
end

