-- ==== Sys2Proof/Machine/PowerArb.lean ====
section
/-!
DEFINITION. PowerArb.lean: the power arbiter: grants, the cap, throttling, domains and mode changes (R514–R530).
-/
namespace Sys2Proof.Machine

/-! ## Grants (R518, R519, R521) -/

/-- Demand of a domain: the TOKENS of its running routes and what waits or the domain's logic draws, within BASE to MAX. -/
def demandOf (s : State) (extra : List (Nat × Nat)) (d : Nat) : Nat :=
  let b := powerSec s
  let run := if d < 16 then runningTokens s 1 d else if d < 24 then runningTokens s 2 (d - 16)
    else if 40 ≤ d ∧ d < 44 then runningTokens s 3 (d - 40) else 0
  max (pwBase b (mode s) d) (min (pwMax b (mode s) d) (run + mapGet extra d 0))

/-- Whether a domain takes part in the pool now: a powered route or elastic domain. -/
def inPool (s : State) (d : Nat) : Bool := (routeDom d || elasticDom d) && domainOn s d

/-- Sum over the domains of a predicate. -/
def sumDoms (p : Nat → Bool) (f : Nat → Nat) : Nat := (((List.range 80).filter p).map f).foldl (· + ·) 0

/-- cap_eff − 400 − ΣBASE of the powered domains; no pool in throttle stage 3 (R518, R529). -/
def dynPool (s : State) : Int :=
  let f : Int := (capEff s : Int) - 400 - (sumDoms (domainOn s) (pwBase (powerSec s) (mode s)) : Int)
  if getF s F.PWRARB_STATUS_STAGE = 3 then min f 0 else f

/-- The grant of a domain in the pool for a demand function. A negative pool scales every route and elastic grant by one factor. -/
def grantOf (s : State) (dem : Nat → Nat) (d : Nat) : Nat :=
  let b := powerSec s
  let base := pwBase b (mode s)
  let f := dynPool s
  let e := sumDoms (inPool s) (fun d => dem d - base d)
  if f < 0 then
    let all := sumDoms (inPool s) base
    base d * ((all : Int) + f).toNat / max 1 all
  else if (e : Int) ≤ f then dem d
  else base d + (dem d - base d) * f.toNat / e

/-- Put a grant and a demand in a domain's register and take the step they give (R519). -/
def putGrant (s : State) (d dem grant : Nat) : State :=
  let s := setF (setF s (F.PWRARB_GRANT_GRANT d) grant) (F.PWRARB_GRANT_DEMAND d) dem
  setF s (F.PWRARB_GRANT_STEP d) (stepFor (getF s F.PWRARB_VID_TARGET_MV) dem grant)

/-- Entries of fixed and reserve domains read their BASE with STEP 0. -/
def putFixed (s : State) (d : Nat) : State :=
  setF (setF (setF s (F.PWRARB_GRANT_GRANT d) (pwBase (powerSec s) (mode s) d)) (F.PWRARB_GRANT_DEMAND d) 0) (F.PWRARB_GRANT_STEP d) 0

/-- Put a grant in each register of the Landau domains. -/
def putGrants (s : State) (dem grant : Nat → Nat) : State :=
  (List.range 48).foldl (fun t d =>
    if inPool s d then putGrant t d (dem d) (grant d)
    else if routeDom d || elasticDom d then putGrant t d 0 0 else putFixed t d) s

/-- Every domain at its BASE, as the arbiter loads the grants of a mode (R525). -/
def loadGrants (s : State) : State :=
  let base := pwBase (powerSec s) (mode s)
  showCap (putGrants s base base)

/-- GRANT_CYCLE: the grants of 1 µs, and each domain's step (R518, R519). What waits in a domain and what its logic draws beyond its running
routes is the event's. -/
def execGrantCycle (demands : List (Nat × Nat)) (s : State) : Res :=
  let dem := demandOf s demands
  let given := sumDoms (inPool s) (fun d => grantOf s dem d - pwBase (powerSec s) (mode s) d)
  whenLandau s (setF (setF (putGrants s dem (grantOf s dem)) F.PWRARB_POOL_FREE ((dynPool s).toNat - given)) F.PWRARB_STATUS_FALLBACK 0)

/-- GRANT_REFRESH_LOSS: a Landau domain falls back to its BASE and the step that BASE allows (R521). -/
def execGrantRefreshLoss (d : Fin 48) (s : State) : Res :=
  let b := pwBase (powerSec s) (mode s) d
  whenLandau s (if inPool s d then setF (putGrant s d (getF s (F.PWRARB_GRANT_DEMAND d)) b) F.PWRARB_STATUS_FALLBACK 1
    else setF s F.PWRARB_STATUS_FALLBACK 1)

/-! ## The cap (R522) -/

/-- A window within CAP: after ten of them 1% of CAP returns. -/
def quietWindow (s : State) : State :=
  let n := s.arb.quiet + 1
  { s with arb := { s.arb with quiet := n % 10, cut := if n = 10 then s.arb.cut - 1 else s.arb.cut } }

/-- A window above CAP: 5% less for the next one, counted, CAPEX set. -/
def overWindow (s : State) : State :=
  let s := { s with arb := { s.arb with quiet := 0, cut := min 100 (s.arb.cut + 5) } }
  bump (setF s F.PWRARB_STATUS_CAPEX 1) F.PWRARB_CAPEX_COUNT F.PWRARB_CAPEX_SAT

/-- POWER_WINDOW: the average of a 100 µs window in 0.1 W, which is four tokens (R514, R522). -/
def execPowerWindow (deci : Nat) (s : State) : Res :=
  let s1 := setF (setF s F.PWRARB_POWER_NOW (min 65535 deci)) F.PWRARB_POWER_PEAK (max (getF s F.PWRARB_POWER_PEAK) (min 65535 deci))
  whenGecko s (if (powerSec s).isEmpty then s1
    else showCap (if pwCap (powerSec s) (mode s) < 4 * deci then overWindow s1 else quietWindow s1))

/-! ## Temperature (R528, R529) -/

/-- Whether the entry condition of a stage holds; temperatures in °C, the junction offset by 64. -/
def stageHot (s : State) (tj hbm n : Nat) : Bool :=
  match n with
  | 1 => getF s F.PWRARB_THERM_WARN + 64 ≤ tj
  | 2 => getF s F.PWRARB_THERM_HOT + 64 ≤ tj || getF s F.PWRARB_THERM_HBM_HOT ≤ hbm
  | _ => getF s F.PWRARB_THERM_CRIT + 64 ≤ tj || getF s F.PWRARB_THERM_HBM_HOT + 5 ≤ hbm

/-- Whether it is false by at least 3 °C. -/
def stageCool (s : State) (tj hbm n : Nat) : Bool :=
  match n with
  | 1 => tj + 3 ≤ getF s F.PWRARB_THERM_WARN + 64
  | 2 => tj + 3 ≤ getF s F.PWRARB_THERM_HOT + 64 && hbm + 3 ≤ getF s F.PWRARB_THERM_HBM_HOT
  | _ => tj + 3 ≤ getF s F.PWRARB_THERM_CRIT + 64 && hbm + 3 ≤ getF s F.PWRARB_THERM_HBM_HOT + 5

/-- Readings a stage's condition still needs to be false, of the 100 in 10 ms; 0 when it is not in force. -/
def stageLeft (s : State) (tj hbm n : Nat) : Nat :=
  let old := (s.arb.cool[n - 1]?).getD 0
  if stageHot s tj hbm n then 100 else if old = 0 then 0 else if stageCool s tj hbm n then old - 1 else 100

/-- The highest stage in force. -/
def stageOf (cool : List Nat) : Nat :=
  if (cool[2]?).getD 0 != 0 then 3 else if (cool[1]?).getD 0 != 0 then 2 else if (cool[0]?).getD 0 != 0 then 1 else 0

/-- Whether the arbiter reads a junction sensor of a domain: a powered Landau domain's diode, or PD78's Gecko sensors (R528). -/
def sensed (s : State) (d : Nat) : Bool := domainOn s d && (d < 50 || d = 78)

/-- The hottest of the junction readings and its domain, the lowest-numbered of equal ones (DESIGN CHOICE, log entry 100). -/
def hottest (l : List (Fin 80 × BitVec 8)) : Nat × Nat :=
  l.foldl (fun m r => if m.2 < r.2.toNat ∨ (m.2 = r.2.toNat ∧ r.1.val < m.1) then (r.1.val, r.2.toNat) else m) (0, 0)

/-- The highest of the temperatures that the stacks report. -/
def hottestStack (l : List (BitVec 8)) : Nat := l.foldl (fun m t => max m t.toNat) 0

/-- The junction readings: the Landau domains' diodes and PD78's Gecko sensors (R528). -/
def junctions (landau : List (Fin 50 × BitVec 8)) (gecko : List (BitVec 8)) : List (Fin 80 × BitVec 8) :=
  landau.map (fun r => (r.1.castLE (by decide), r.2)) ++ gecko.map (fun v => (78, v))

/-- THERMAL_READING: the sensors of 100 µs give the highest junction with its domain and the highest HBM reading; the stage follows, at once
or at the end of a mode change (R528–R530). -/
def execThermalReading (landau : List (Fin 50 × BitVec 8)) (gecko hbms : List (BitVec 8)) (s : State) : Res :=
  let (dom, tj) := hottest ((junctions landau gecko).filter (fun r => sensed s r.1))
  let hbm := hottestStack hbms
  let cool := [1, 2, 3].map (stageLeft s tj hbm)
  let s1 := setF (setF (setF s F.PWRARB_TEMP_TJ_MAX tj) F.PWRARB_TEMP_TJ_DOMAIN dom) F.PWRARB_TEMP_HBM_MAX hbm
  let s1 := { s1 with arb := { s1.arb with cool := cool } }
  whenGecko s (if isSet s F.PWRARB_STATUS_MODE_BUSY then { s1 with arb := { s1.arb with stageDue := some (stageOf cool) } }
    else setStage s1 (stageOf cool))

/-! ## Domains (R524) -/

/-- The domains that Sealed firmware may switch. -/
def switchable (d : Nat) : Bool := [60, 61, 63, 64, 65, 66, 67, 79].contains d

/-- Whether the block of a switchable domain is busy; a configuration-flash read never spans two commands. -/
def domainBusy (s : State) (d : Nat) : Bool :=
  match d with
  | 60 => isSet s F.SCIPH_STATUS_BUSY
  | 61 => isSet s F.SPKE_STATUS_BUSY
  | 64 => s.card0.cmd.isSome
  | 65 => s.card1.cmd.isSome
  | 66 => s.sdh.cmd.isSome
  | _ => false

/-- The register blocks of a switchable domain. -/
def domainBlks (d : Nat) : List Nat :=
  match d with
  | 60 => [Blk.SCIPH]
  | 61 => [Blk.SPKE]
  | 63 => [Blk.SIDEB]
  | 64 => [Blk.CARD]
  | 65 => [Blk.CARD + 1]
  | 66 => [Blk.SDH]
  | 67 => [Blk.CFGSPI]
  | 79 => [Blk.TEST, Blk.DEBUG]
  | _ => []

/-- What a switchable domain holds beyond its registers is lost with its power. -/
def domainLose (s : State) (d : Nat) : State :=
  match d with
  | 60 => { s with sciph := SciphState.init }
  | 61 => { s with spke := SpkeState.init }
  | 63 => { s with sb := { SidebState.init with sent := s.sb.sent, answers := s.sb.answers, nonce := s.sb.nonce, total := s.sb.total,
                                                 arrived := s.sb.arrived } }
  | 64 => { s with card0 := CardPort.init }
  | 65 => { s with card1 := CardPort.init }
  | 66 => { s with sdh := SdhState.init }
  | 79 => { s with dbg := { s.dbg with halted := [] } }
  | _ => s

/-- Switch a Gecko domain: its block's registers hold their reset values (R524). -/
def switchDomain (s : State) (d : Nat) (on : Bool) : State :=
  if domainOn s d = on then s
  else
    let s := if d = 79 then endPattern s (fun t => !t.land) else s
    let s := resetRegs (domainLose s d) (fun b _ => (domainBlks d).contains b)
    let s := setDomainOn (applyParams s (fun b => (domainBlks d).contains b)) d on
    if d = 79 then loadDebugFuse s else s

/-- PWRARB_DOMCTRL: switch a domain, or set ERR (R524); another KEY is ignored. -/
def execPwrarbDomctrl (v : W32) (s : State) : Res :=
  let d := v.toNat % 128
  whenGecko s (if v.toNat / 65536 != 0x5044 then s
    else if !switchable d || (d = 61 && landauUp s) then setF s F.PWRARB_DOMCTRL_ERR 1
    else if domainBusy s d then setF s F.PWRARB_DOMCTRL_ERR 2
    else switchDomain (setF s F.PWRARB_DOMCTRL_ERR 0) d (v.getLsbD 15))

/-! ## Cluster domains (R268, R523, R525) -/

/-- The tiles of a cipher cluster that are active take fresh mask-stream keys. -/
def rekeyCluster (s : State) (u : Nat) : State :=
  (List.range 9).foldl (fun t i => if (unitActive t 2 u).testBit i then rekeyMask t u i else t) s

/-- Power a cluster: its instance is instantiated, its comb table built, its mask streams keyed. -/
def clusterUp (s : State) (d : Nat) : State :=
  let s := instantiate (setDomainOn s d true) d
  if d < 16 then combBuild s d else rekeyCluster s (d - 16)

/-- Switch a cluster off: what it holds goes with its registers. -/
def clusterDown (s : State) (d : Nat) : State :=
  let s := endInsts (setDomainOn s d false) (fun i => i = d)
  let blk := if d < 16 then Blk.PKEC + d else Blk.CIPC + (d - 16)
  let s := applyParams (resetRegs s (fun b _ => b = blk)) (fun b => b = blk)
  if d < 16 then
    { s with pke := { tiles := s.pke.tiles.filter (fun e => e.1 / 16 != d), combs := s.pke.combs.filter (fun e => e.1 != d) } }
  else
    { s with cip := { ctx := s.cip.ctx.filter (fun e => e.1 / 32 != d - 16), gap := s.cip.gap.filter (fun e => e.1 / 16 != d - 16) }
             rng := { s.rng with masks := s.rng.masks.filter (fun e => e.1 / 16 != d - 16) } }

/-- Bring the cluster domains to what the masks of a mode name. -/
def switchClusters (s : State) (m : Nat) : State :=
  let b := powerSec s
  let s := (List.range 24).foldl (fun t d => if modeNames b m d ∧ !domainOn t d then clusterUp t d else t) s
  (List.range 24).foldl (fun t d => if !modeNames b m d ∧ domainOn t d then clusterDown t d else t) s

/-! ## Mode changes (R28–R30, R525–R527) -/

/-- The ERR of a mode request, 0 when it is accepted. -/
def modeErr (s : State) (m : Nat) : Nat :=
  if !(getF s F.STRUCT_MODE_ALLOWED).testBit m then 1
  else if inSafe s then 2
  else if isSet s F.PWRARB_STATUS_MODE_BUSY ∨ getF s F.STRUCT_STATUS_STATE = 5 ∨ s.hbm.stk.any (fun x => x.swap.isSome) then 3
  else 0

/-- Accept a mode change: route starts stop, and every dispatch core is told (R28, R416). -/
def beginMode (s : State) (m : Nat) : State :=
  let s := setF (setF (setF s F.PWRARB_STATUS_MODE_BUSY 1) F.PWRARB_MODE_ERR 0) F.PWRARB_MODE_DONE 0
  raiseDisp { s with arb := { s.arb with target := some m } } 2 0xFFFFF

/-- MODE_CHANGE: a write of PWRARB_MODE; with GO it requests the change to TARGET (R525); another KEY is ignored. -/
def execModeChange (v : W32) (s : State) : Res :=
  let s1 := writeReg s Blk.PWRARB 4 (v.toNat &&& 0x4003)
  let e := modeErr s (v.toNat % 4)
  whenGecko s (if v.toNat / 65536 != 0x504D then s
    else if !v.getLsbD 15 then s1
    else if e = 0 then beginMode s1 (v.toNat % 4)
    else setF (setF s1 F.PWRARB_MODE_ERR e) F.PWRARB_MODE_DONE 1)

/-- Whether a READ_VOUT lies within ±10 mV of a target (R526). -/
def settled (mv target : Nat) : Bool := target ≤ mv + 10 && mv ≤ target + 10

/-- A VID transaction failed twice: VID.ERR and source 2 (R527). -/
def vidFail (s : State) : State := raise (setF s F.PWRARB_VID_ERR 1) 2

/-- HBMC_STATUS.RATE of a mode's pin rate (R27). -/
def hbmRate (m : Nat) : Nat := match m with | 0 => 2 | 2 => 0 | _ => 1

/-- The modes' registers show a mode (R525), and trained stacks its pin rate. -/
def showMode (s : State) (m : Nat) : State :=
  let s := setF (setF s F.PWRARB_STATUS_MODE m) F.STRUCT_MODE_CURRENT m
  let s := (List.range 64).foldl (fun t n => setF t (F.TELE_STATUS_MODE n) m) s
  (List.range 4).foldl (fun t k => if isSet t (F.HBMC_STATUS_TRAINED k) then setF t (F.HBMC_STATUS_RATE k) (hbmRate m) else t) s

/-- Step 4 of R28: routes start again, under the mode in force; a stage that waited comes into force. -/
def endMode (s : State) (err : Nat) : State :=
  let s := setF (setF (setF s F.PWRARB_MODE_ERR err) F.PWRARB_MODE_DONE 1) F.PWRARB_STATUS_MODE_BUSY 0
  let due := s.arb.stageDue
  let s := { s with arb := { s.arb with target := none, stageDue := none } }
  loadGrants (match due with
    | some n => setStage s n
    | none => s)

/-- A change of the masking order: every mask stream takes a new key, and every comb table that the change did not build is built anew, which
counts as a refresh (R28, R202, R271). -/
def moveOrder (before s : State) : State :=
  let s := (List.range 8).foldl (fun t u => if clusterOn t 2 u then rekeyCluster t u else t) s
  (List.range 16).foldl (fun t u => if clusterOn before 1 u && clusterOn t 1 u then combRefresh t u else t) s

/-- Step 3 of R28 with a regulator that follows: clusters and HBM move to the new mode; mask streams and comb tables are made anew when the
masking order changes. An HBM PHY that does not retrain is a fault. -/
def moveMode (s : State) (m : Nat) (phyFail : Option (Fin 4)) : State :=
  let old := s
  let s := setF s F.PWRARB_VID_TARGET_MV (pwVid (powerSec s) m)
  let s := switchClusters (endPattern s (fun t => t.cls = 2)) m
  let s := if (mode old = 3) = (m = 3) then s else moveOrder old s
  let s := endMode (showMode s m) 0
  match phyFail with
  | some k => faultReport s 0x13 k 0
  | none => s

/-- A change whose regulator fails: the old target is written back, and the change ends under the old mode's clusters and grants with
ERR 5 (R527). Clusters a fall of VDD_L had switched off are powered again. -/
def vidModeFail (s : State) (m : Nat) : State :=
  let old := mode s
  let s := if pwVid (powerSec s) m < pwVid (powerSec s) old then switchClusters (switchClusters s m) old else s
  endMode (vidFail s) 5

/-- MODE_CHANGE_ROUTES_FINISHED: once no route runs, steps 3 and 4 (R28, R525–R527). The last READ_VOUT and a PHY that does not retrain are
the event's. -/
def execModeChangeRoutesFinished (mv : BitVec 10) (phyFail : Option (Fin 4)) (s : State) : Res :=
  .next (match s.arb.target with
    | none => s
    | some m =>
      if s.qm.tags.any running then s
      else
        let new := pwVid (powerSec s) m
        let moves := new != pwVid (powerSec s) (mode s)
        let s := if moves then setF s F.PWRARB_VID_READ_MV mv.toNat else s
        if moves && !settled mv.toNat new then vidModeFail s m else moveMode s m phyFail)

/-- VID_ALERT: the arbiter reads STATUS_WORD and sends CLEAR_FAULTS; two failures set VID.ERR; a regulator that cannot hold VDD_L trips T00
(R527). Whether the transactions succeed and what STATUS_WORD says is the event's. -/
def execVidAlert (good holds : Bool) (s : State) : Res :=
  whenGecko s (let s := if good then s else vidFail s
    if good && !holds then tamperTrip s 0 else s)

/-- RAIL_PG_FALL: a power-good input falls while its enable is high: a Landau rebuild (R590). 0 H, 1 L, 2 PE. -/
def execRailPgFall (rail : Fin 3) (s : State) : Res :=
  let on := match rail.val with | 0 => s.power.enH && s.power.pgH | 1 => s.power.enL && s.power.pgL | _ => s.power.enPE && s.power.pgPE
  .next (if on then landauRebuild s else s)

end Sys2Proof.Machine
end

