-- ==== Sys2Proof/Machine/Store.lean ====
section
/-!
DEFINITION. Store.lean: snapshots, the journal and restore, domains and escrow, KCACHE and HBMC commands (R152–R157, R167–R184,
R543, R544, R611).
-/
namespace Sys2Proof.Machine

/-! ## Snapshots (R179, R180) -/

/-- NO_KEY when a domain is UNUSED (R154). -/
def needDmk (s : State) (t : TagEntry) : Option Outcome :=
  chk ((domainOf s (seDomain t.entry)).state = .unused) (outStatus stNO_KEY)

/-- The regions of a domain by class. -/
def domRegions (s : State) (d : Nat) : List Region := (List.range 7).filterMap (keyRegion s d)

/-- The body chunks of a domain's snapshot: one a MiB of its regions (R179, log entry 19). -/
def chunkCount (s : State) (d : Nat) : Nat := ((domRegions s d).map (fun r => r.size)).foldl (· + ·) 0

/-- The class and first index of chunk k, and how many slots it covers. -/
def chunkRange : List Region → Nat → Option (Nat × Nat × Nat)
  | [], _ => none
  | r :: t, k =>
    if k < r.size then some (r.cls, k * (2 ^ 20 / recSize r.cls), 2 ^ 20 / recSize r.cls) else chunkRange t (k - r.size)

/-- The objects chunk k lists. -/
def chunkObjs (s : State) (d k : Nat) : List KeyObj :=
  match chunkRange (domRegions s d) k with
  | none => []
  | some (c, i, n) => (domObjs s d).filter (fun o => hClass o.handle = c && i ≤ hIndex o.handle && hIndex o.handle < i + n)

/-- The checks of SNAPSHOT_BEGIN, in order. -/
def chkSnapshotBegin (s : State) (t : TagEntry) : List (Option Outcome) :=
  [spareOperands t.entry [], needLive s t]

/-- SNAPSHOT_BEGIN once its checks pass. -/
def goSnapshotBegin (r : Run) (s : State) (t : TagEntry) : State :=
  startOn s t r 3 0 (fun s => ((outStatus stOK, .snapBegin (seDomain t.entry)), s))

/-- SNAPSHOT_BEGIN: fixes BASE_SEQ and a new SNAP_ID (R179). -/
def execSnapshotBegin (r : Run) (s : State) : Res := checked s r 0x1C (chkSnapshotBegin s) (goSnapshotBegin r s)

/-- Its effect. -/
def effSnapBegin (s : State) (d : Nat) (out : Outcome) : State × Outcome :=
  let (n, s) := draw s 64
  let id := max 1 n
  (updDomain s d (fun x => { x with snap := some { id := id, base := x.seq } }), { out with result := id })

/-- The header of a snapshot chunk (R180). -/
def chunkHeader (d kind storeId snap index count base endSeq : Nat) : Bytes :=
  [0x4B, 0x53, 0x4E, 0x50] ++ leBytes d 2 ++ leBytes kind 1 ++ zeros 1 ++ leBytes storeId 8 ++ leBytes snap 8 ++ leBytes index 4
    ++ leBytes count 4 ++ leBytes base 8 ++ leBytes endSeq 8 ++ zeros 16

/-- Wrap a list of objects one after another. -/
def wrapAll (s : State) : List KeyObj → Bytes × State
  | [] => ([], s)
  | o :: t =>
    let (w, s) := wrapOut s o
    let (ws, s) := wrapAll s t
    (w ++ ws, s)

/-- Read the records of a list of objects; whether all verified. -/
def readAll (s : State) (fails : List MemFail) : List KeyObj → Bool × State
  | [] => (true, s)
  | o :: t =>
    let (a, s) := readRecord s o.handle fails
    let (b, s) := readAll s fails t
    (a && b, s)

/-- The bytes of chunk k, or of the trailer (R180). -/
def chunkBytes (s : State) (d : Nat) (sn : Snap) (k : Nat) : Bytes × State :=
  let dom := domainOf s d
  let s := kcUse s 3 d
  if k < chunkCount s d then
    let (w, s) := wrapAll s ((chunkObjs s d k).filterMap (fun o => liveObj s o.handle))
    let b := chunkHeader d 1 dom.storeId sn.id k (chunkObjs s d k).length sn.base 0 ++ w
    (b ++ tagBlock s d b, s)
  else
    let b := chunkHeader d 2 dom.storeId sn.id k (domObjs s d).length sn.base dom.seq
    (b ++ tagBlock s d b, s)

/-- The bytes a chunk takes. -/
def chunkLen (s : State) (d k : Nat) : Nat :=
  128 + ((chunkObjs s d k).map (fun o => recSize (hClass o.handle))).foldl (· + ·) 0

/-- The checks of SNAPSHOT_READ, in order. -/
def chkSnapshotRead (s : State) (t : TagEntry) : List (Option Outcome) :=
  let e := t.entry
  let d := seDomain e
  [spareOperands e [(0x40, 8), (0x48, 4)],
   badField (((domainOf s d).snap.map (fun x => x.id)) != some (seOp e 0x40 8)) 0x40,
   badField (chunkCount s d < seOp e 0x48 4) 0x48, shortOut e (chunkLen s d (seOp e 0x48 4)), needDmk s t, needClass s 2 (tagWorld s t)]

/-- SNAPSHOT_READ once its checks pass. -/
def goSnapshotRead (r : Run) (s : State) (t : TagEntry) : State :=
  whenKeys s t (startOn s t r 2 0 (fun s =>
    let d := seDomain t.entry
    let k := seOp t.entry 0x48 4
    match (domainOf s d).snap with
    | none => ((outBad stBAD_FIELD 0x40, .nothing), s)
    | some sn =>
      let (ok, s) := readAll s r.fails (chunkObjs s d k)
      if ok then
        let (b, s) := chunkBytes s d sn k
        ((outData b.length b, .nothing), s)
      else ((outStatus stINTEGRITY, .nothing), s)))

/-- SNAPSHOT_READ: chunk INDEX of the current snapshot, or its trailer (R179, R180, R185). -/
def execSnapshotRead (r : Run) (s : State) : Res := checked s r 0x1D (chkSnapshotRead s) (goSnapshotRead r s)

/-! ## The journal -/

/-- The records of a domain still held. -/
def domRecs (s : State) (d : Nat) : List JRec := s.ks.journal.filter (fun r => r.domain = d)

/-- The oldest SEQ of a domain still held, or 0. -/
def oldestSeq (s : State) (d : Nat) : Nat := (((domRecs s d).head?).map (fun r => r.seq)).getD 0

/-- As many whole records as fit. -/
def takeFit : List JRec → Nat → List JRec
  | [], _ => []
  | r :: t, n => if r.body.length ≤ n then r :: takeFit t (n - r.body.length) else []

/-- The checks of JOURNAL_READ, in order. -/
def chkJournalRead (s : State) (t : TagEntry) : List (Option Outcome) :=
  let e := t.entry
  let d := seDomain e
  let want := max 1 (seOp e 0x40 8)
  let recs := (domRecs s d).filter (fun x => want ≤ x.seq)
  [spareOperands e [(0x40, 8)],
   chk (want ≤ (domainOf s d).seq && !(domRecs s d).any (fun x => x.seq = want))
     { (outBad stBAD_FIELD 0x40) with result := oldestSeq s d },
   shortOut e (((recs.head?).map (fun x => x.body.length)).getD 128), needDmk s t]

/-- JOURNAL_READ once its checks pass. -/
def goJournalRead (r : Run) (s : State) (t : TagEntry) : State :=
  startOn s t r 3 0 (fun s =>
    let d := seDomain t.entry
    let recs := takeFit ((domRecs s d).filter (fun x => max 1 (seOp t.entry 0x40 8) ≤ x.seq)) (seOutLen t.entry)
    let (ok, s) := journalReads s r.fails recs
    ((if ok then outData (((recs.getLast?).map (fun x => x.seq)).getD (domainOf s d).seq) (recs.flatMap (fun x => x.body))
      else outStatus stINTEGRITY, .nothing), s))

/-- JOURNAL_READ: whole records from the SEQ wanted on, as many as fit, read from HBM; RESULT is the SEQ of the last record written (R163, R177,
R184, R185; without one that of the domain's last, log entry 53). -/
def execJournalRead (r : Run) (s : State) : Res := checked s r 0x1E (chkJournalRead s) (goJournalRead r s)

/-- The checks of JOURNAL_ACK, in order. -/
def chkJournalAck (s : State) (t : TagEntry) : List (Option Outcome) :=
  [spareOperands t.entry [(0x40, 8)], badField ((domainOf s (seDomain t.entry)).seq < seOp t.entry 0x40 8) 0x40, needLive s t]

/-- JOURNAL_ACK once its checks pass. -/
def goJournalAck (r : Run) (s : State) (t : TagEntry) : State :=
  startOn s t r 3 0 (fun s => ((outStatus stOK, .journalAck (seDomain t.entry) (seOp t.entry 0x40 8)), s))

/-- JOURNAL_ACK: the acknowledgement mark rises (R157, R185). -/
def execJournalAck (r : Run) (s : State) : Res := checked s r 0x1F (chkJournalAck s) (goJournalAck r s)

/-- Its effect: the mark in the cell domain, and the counter marks whose records it acknowledges (R151, R157). -/
def effJournalAck (s : State) (d seq : Nat) (out : Outcome) : State × Outcome :=
  let m := max (ackMark s d) seq
  let s := { s with tamper := { s.tamper with ackMarks := mapSet s.tamper.ackMarks d m 0 } }
  (updDomainKeys s d (ackKey m), { out with result := m })

/-! ## Restore (R152, R181, R182) -/

/-- Take everything of a domain's store away: slots, cached keys, tables and builds (R181). -/
def emptyStore (s : State) (d : Nat) : State :=
  { s with ks := { s.ks with
      slots := s.ks.slots.filter (fun e => e.1 / 2 ^ 40 != d)
      cache := s.ks.cache.filter (fun e => !(e.kind = 0 && hDomain e.name = d))
      tables := s.ks.tables.map (fun t => if hDomain t.handle = d then { t with evicting := true } else t)
      builds := s.ks.builds.filter (fun b => hDomain b.handle != d) } }

/-- The checks of RESTORE_BEGIN, in order. -/
def chkRestoreBegin (s : State) (t : TagEntry) : List (Option Outcome) :=
  [spareOperands t.entry [(0x40, 8)], needDmk s t]

/-- RESTORE_BEGIN once its checks pass. -/
def goRestoreBegin (r : Run) (s : State) (t : TagEntry) : State :=
  let d := seDomain t.entry
  if (domainOf s d).state = .live ∧ s.qm.tags.any (fun x => running x && seDomain x.entry = d && opEffectful s (seOpcode x.entry)) then s
  else startOn s t r 3 0 (fun s => ((outResult 0, .restoreBegin d (seOp t.entry 0x40 8)), s))

/-- RESTORE_BEGIN: on a LIVE domain it waits until no effectful command of the domain is STARTED (R181). -/
def execRestoreBegin (r : Run) (s : State) : Res := checked s r 0x20 (chkRestoreBegin s) (goRestoreBegin r s)

/-- Its effect. -/
def effRestoreBegin (s : State) (d snap : Nat) (out : Outcome) : State × Outcome :=
  (updDomain (emptyStore s d) d (fun x =>
    { x with state := .awaiting, retired := 0, restore := some { snap := snap, nextChunk := 0, trailer := none, last := 0 } }), out)

/-- BAD_FIELD with DETAIL 0 while no restore is in progress (R182). -/
def needRestore (s : State) (t : TagEntry) : Option Outcome :=
  badField ((domainOf s (seDomain t.entry)).restore.isNone) 0

/-- The checks of RESTORE_DATA, in order. -/
def chkRestoreData (s : State) (t : TagEntry) : List (Option Outcome) :=
  [spareOperands t.entry [], badInLen (seInLen t.entry = 0), needDmk s t, needRestore s t, needClass s 2 (tagWorld s t)]

/-- RESTORE_DATA once its checks pass. -/
def goRestoreData (r : Run) (s : State) (t : TagEntry) : State :=
  whenKeys s t (startOn s t r 2 0 (fun s =>
    (withInput r (seInLen t.entry) (fun b => (outStatus stOK, .restoreData (seDomain t.entry) b)), s)))

/-- RESTORE_DATA: a chunk or records in order (R181, R184). -/
def execRestoreData (r : Run) (s : State) : Res := checked s r 0x21 (chkRestoreData s) (goRestoreData r s)

/-- The checks of RESTORE_END, in order. -/
def chkRestoreEnd (s : State) (t : TagEntry) : List (Option Outcome) :=
  [spareOperands t.entry [], needDmk s t, needRestore s t]

/-- RESTORE_END once its checks pass. -/
def goRestoreEnd (r : Run) (s : State) (t : TagEntry) : State :=
  startOn s t r 3 0 (fun s => ((outStatus stOK, .restoreEnd (seDomain t.entry)), s))

/-- RESTORE_END: puts the domain in service (R181). -/
def execRestoreEnd (r : Run) (s : State) : Res := checked s r 0x22 (chkRestoreEnd s) (goRestoreEnd r s)

/-- Whether a tag block verifies and ends in zeros (R176). -/
def tagOk (s : State) (d : Nat) (b : Bytes) : Bool :=
  128 ≤ b.length && tagBlock s d (b.take (b.length - 64)) = b.drop (b.length - 64)

/-- Objects one after another, unwrapped; none when one fails (R149, R180); `fuel` bounds their number. -/
def unwrapAll (key : Bytes) : Nat → Bytes → Option (List KeyObj)
  | 0, b => if b.isEmpty then some [] else none
  | fuel + 1, b =>
    if b.isEmpty then some []
    else
      let n := recSize (hClass (leAt b 8 8))
      match unwrapObj key (b.take n), unwrapAll key fuel (b.drop n) with
      | some o, some l => some (o :: l)
      | _, _ => none

/-- Place a restored object: its slot, its record in HBM. -/
def restoreObj (s : State) (o : KeyObj) : State :=
  writeRecord (setSlot s o.handle { gen := hGen o.handle, retired := false, obj := some o }) o.handle

/-- A body chunk or the trailer applied; none when it fails (R181, R182). -/
def applyChunk (s : State) (d : Nat) (re : Restore) (b : Bytes) : Option (State × Nat) :=
  let dom := domainOf s d
  let kind := byteAt b 6
  let body := slice b 64 (b.length - 128)
  if !tagOk s d b ∨ leAt b 4 2 != d ∨ leAt b 8 8 != dom.storeId ∨ re.snap = 0 ∨ leAt b 0x10 8 != re.snap ∨ re.trailer.isSome
      ∨ leAt b 0x18 4 != re.nextChunk then none
  else if kind = 1 then
    match unwrapAll ((domKey s 2 d).getD []) (body.length / 128) body with
    | none => none
    | some l =>
      if l.length != leAt b 0x1C 4 ∨ l.any (fun o => hDomain o.handle != d || o.storeId != dom.storeId) then none
      else some (updDomain (l.foldl restoreObj s) d (fun x => { x with restore := some { re with nextChunk := re.nextChunk + 1 } }),
        re.nextChunk)
  else if kind = 2 ∧ body.isEmpty then
    some (updDomain s d (fun x => { x with restore := some { re with trailer := some (leAt b 0x28 8), last := leAt b 0x20 8 } }),
      re.nextChunk)
  else none

/-- Marks of a restored record: a mark moves only upward (R181). -/
def raiseMarks (s : State) (h um cm : Nat) : State :=
  updKey s h (fun o => { o with useMark := max o.useMark um, ctrMark := max o.ctrMark cm })

/-- One record applied, idempotently (R181); its payload's object where it has one. -/
def applyRec (s : State) (rcd : Bytes) (o : Option KeyObj) : State :=
  let h := leAt rcd 0x10 8
  let ver := leAt rcd 0x18 4
  let um := leAt rcd 0x1C 4
  let cm := leAt rcd 0x20 8
  match byteAt rcd 0x0A with
  | 3 => if (storedObj s h).isSome ∨ (slotOf s h).gen ≤ hGen h then
      (if hGen h = 1023 then updDomain (setSlot s h { gen := 1023, retired := true, obj := none }) (hDomain h)
          (fun d => { d with retired := d.retired + 1 })
        else setSlot s h { gen := hGen h + 1, retired := false, obj := none })
    else s
  | 4 => updKey s h (fun x => if x.version < ver then
      { x with usage := leAt rcd 0x28 8, useLimit := leAt rcd 0x38 4, attr := byteAt rcd 0x3C, version := ver } else x)
  | 5 => raiseMarks s h um cm
  | _ =>
    match o with
    | none => s
    | some o =>
      let s := match storedObj s h with
        | some old => if old.version ≤ ver then
            restoreObj s { o with useMark := old.useMark, ctrMark := old.ctrMark } else s
        | none => if (slotOf s h).gen ≤ hGen h ∧ !(slotOf s h).retired ∧ (slotOf s h).obj.isNone then restoreObj s o else s
      raiseMarks s h um cm

/-- Records one after another, each verified before it is applied; none at the first failure (R181, R182). `last` is the last
SEQ applied; `fuel` the records at most. -/
def applyRecs (s : State) (d last : Nat) : Nat → Bytes → Option (State × Nat)
  | 0, b => if b.isEmpty then some (s, last) else none
  | fuel + 1, b =>
    if b.isEmpty then some (s, last)
    else
      let n := leAt b 0x0C 4
      let rcd := b.take n
      let kind := byteAt b 0x0A
      let pay := slice rcd 64 (n - 128)
      let obj := unwrapObj ((domKey s 2 d).getD []) pay
      if n < 128 ∨ b.length < n ∨ !tagOk s d rcd ∨ leAt b 0 8 != last + 1 ∨ leAt b 8 2 != d ∨ kind = 0 ∨ 5 < kind ∨ byteAt b 0x0B != 0
          ∨ leAt b 0x30 8 != (domainOf s d).storeId ∨ hDomain (leAt b 0x10 8) != d
          ∨ (if kind ≤ 2 then (obj.map (fun o => decide (o.handle = leAt b 0x10 8))).getD false = false else !pay.isEmpty) then none
      else applyRecs (applyRec s rcd obj) d (last + 1) fuel (b.drop n)

/-- RESTORE_DATA at END: VERIFY_FAILED leaves the restore where it was (R182, R123). -/
def effRestoreData (s : State) (d : Nat) (b : Bytes) (out : Outcome) : State × Outcome :=
  let s := kcUse (kcUse s 3 d) 2 d
  match (domainOf s d).restore with
  | none => (s, outBad stBAD_FIELD 0)
  | some re =>
    if slice b 0 4 = [0x4B, 0x53, 0x4E, 0x50] then
      match applyChunk s d re b with
      | some (s', k) => (s', { out with result := k })
      | none => (s, outStatus stVERIFY_FAILED)
    else if re.snap != 0 ∧ re.trailer.isNone then (s, outStatus stVERIFY_FAILED)
    else
      match applyRecs s d re.last 4096 b with
      | some (s', last) =>
        (updDomain s' d (fun x => { x with restore := some { re with last := last } }), { out with result := last })
      | none => (s, outStatus stVERIFY_FAILED)

/-- Whether a KIND 0 region of a domain was dropped with a lost stack (R170). -/
def droppedRegion (s : State) (d : Nat) : Bool :=
  let img := (s.image.map (fun i => sectionOr i.bytes 8)).getD []
  (regionsOf img).any (fun r => r.kind = 0 && r.domain = d && (keyRegion s d r.cls).isNone)

/-- Every reserved use counts as spent (R152). -/
def spendMarks (o : KeyObj) : KeyObj :=
  let u := max o.useCount o.useMark
  let c := max o.counter o.ctrMark
  { o with useCount := u, counter := c, useMark := if metered o then u else 0, ctrMark := if has o uSTREAM then c else 0,
           ackUse := u, ackCtr := c, pend := [] }

/-! ## Domains (R153–R156, R183) -/

/-- What an entry of the DMK log holds under SRK: DMK, STORE_ID, role, version and PRIMARY (R155, R325; log entry 20). -/
def dmkPayload (dmk : Bytes) (d : Domain) : Bytes :=
  dmk ++ leBytes d.storeId 8 ++ leBytes d.role 1 ++ leBytes d.epoch 8 ++ leBytes d.step 8 ++ leBytes d.primary 2 ++ leBytes d.awaitSeq 8

/-- SRK, slot 1 of SCIPH. -/
def srk (s : State) : Bytes := (mapGet? s.sciph.slots 1).getD []

/-- What an entry holds, when its wrap verifies (R155). -/
def openDmk (s : State) (e : DmkEntry) : Option Bytes :=
  gcmOpen (srk s) e.iv (leBytes e.domain 2) (e.sealed.take (e.sealed.length - 16)) (e.sealed.drop (e.sealed.length - 16))

/-- The entries compaction keeps: of each domain the latest whose wrap verifies, erasures apart (R155, R446). -/
def compactDmk (s : State) : List DmkEntry → List DmkEntry
  | [] => []
  | e :: t =>
    if (openDmk s e).getD [] = [] || t.any (fun x => x.domain = e.domain && (openDmk s x).isSome) then compactDmk s t
    else e :: compactDmk s t

/-- The DMK log with an entry more: a log that would pass its 1 MiB is compacted first (R155; the bytes of an entry are log entry 20). -/
def appendDmk (s : State) (e : DmkEntry) : List DmkEntry :=
  (if (s.ks.dmkLog.length + 1) * Config.dmkEntryBytes ≤ 2 ^ 20 then s.ks.dmkLog else compactDmk s s.ks.dmkLog) ++ [e]

/-- Append an entry to the DMK log: the domain's present state, or its erasure (R155). -/
def logDmk (s : State) (d : Nat) (payload : Bytes) : State :=
  let (iv, s) := drawBytes (kcUse s 1 d) 12
  let e : DmkEntry := { domain := d, iv := iv, sealed := gcmSeal (srk s) iv (leBytes d 2) payload }
  { s with ks := { s.ks with dmkLog := appendDmk s e } }

/-- The payload that governs a domain: of the latest entry whose wrap verifies; empty where that is an erasure (R155). -/
def governingDmk (s : State) (d : Nat) : Bytes :=
  (((s.ks.dmkLog.filter (fun e => e.domain = d)).filterMap (openDmk s)).getLast?).getD []

/-- Put a domain in service with a DMK: logged and pinned (R153, R155). -/
def installDomain (s : State) (d : Nat) (dmk : Bytes) (x : Domain) : State :=
  let s := logDmk (setDomain s d x) d (dmkPayload dmk x)
  pinDomain s d dmk

/-- A PENDING member that has reached LAST_SEQ is PRIMARY (R329). -/
def reachPrimary (x : Domain) : Domain := if x.role = 2 && x.awaitSeq ≤ x.seq then { x with role := 1 } else x

/-- RESTORE_END at END; a role that changes is logged (R152, R174, R181, R182, R325, R329). -/
def effRestoreEnd (s : State) (d : Nat) (out : Outcome) : State × Outcome :=
  match (domainOf s d).restore with
  | none => (s, outBad stBAD_FIELD 0)
  | some re =>
    let need := max (re.trailer.getD 0) (ackMark s d)
    if (re.snap != 0 ∧ re.trailer.isNone) ∨ droppedRegion s d then (s, outStatus stVERIFY_FAILED)
    else if re.last < need then (s, { (outStatus stVERIFY_FAILED) with result := re.last + 1 })
    else
      let s := updDomainKeys s d spendMarks
      let s := { s with ks := { s.ks with journal := s.ks.journal.filter (fun r => !(r.domain = d && re.last < r.seq)) } }
      let role := (domainOf s d).role
      let s := updDomain s d (fun x => reachPrimary { x with state := .live, seq := re.last, restore := none })
      let s := if (domainOf s d).role = role then s else logDmk s d (dmkPayload ((domKey s 1 d).getD []) (domainOf s d))
      (((domObjs s d).filter (fun o => o.attr.testBit 1)).foldl (fun t o => askBuild t o.handle) s, { out with result := re.last })

/-- The checks of DOMAIN_CREATE, in order. -/
def chkDomainCreate (s : State) (t : TagEntry) : List (Option Outcome) :=
  [spareOperands t.entry [], badField ((domainOf s (seDomain t.entry)).state ≠ .unused) 0x02]

/-- DOMAIN_CREATE once its checks pass. -/
def goDomainCreate (r : Run) (s : State) (t : TagEntry) : State :=
  let go := fun s => startOn s t r 3 0 (fun s => ((outStatus stOK, .domainCreate (seDomain t.entry)), s))
  if domCreateFree s.struct.built (seDomain t.entry) then go s else withQuorum s t 4 [] go

/-- DOMAIN_CREATE: from UNUSED to LIVE; quorum when CREATE_FREE is 0 (R153, R154, R186). -/
def execDomainCreate (r : Run) (s : State) : Res := checked s r 0x23 (chkDomainCreate s) (goDomainCreate r s)

/-- Its effect (R153): a new DMK and STORE_ID, an empty store, sequence 0; an unclustered domain has version (E, 0) (R325). -/
def effDomainCreate (s : State) (d : Nat) (out : Outcome) : State × Outcome :=
  let (dmk, s) := drawBytes s 32
  let (id, s) := draw s 64
  (installDomain s d dmk { Domain.unusedDom with state := .live, storeId := id }, { out with result := id })

/-- Take a domain back to UNUSED: store, journal, keys, mark (R153, R157). -/
def eraseDomain (s : State) (d : Nat) : State :=
  let s := logDmk (emptyStore s d) d []
  let s := { s with ks := { s.ks with
      cache := s.ks.cache.filter (fun e => !(1 ≤ e.kind && e.kind ≤ 3 && e.name = d))
      journal := s.ks.journal.filter (fun r => r.domain != d) } }
  setDomain { s with tamper := { s.tamper with ackMarks := mapErase s.tamper.ackMarks d } } d Domain.unusedDom

/-- The checks of DOMAIN_ERASE, in order. -/
def chkDomainErase (s : State) (t : TagEntry) : List (Option Outcome) :=
  [spareOperands t.entry [], needDmk s t]

/-- DOMAIN_ERASE once its checks pass. -/
def goDomainErase (r : Run) (s : State) (t : TagEntry) : State :=
  withQuorum s t 5 [] (fun s => startOn s t r 3 0 (fun s => ((outResult 0, .domainErase (seDomain t.entry)), s)))

/-- DOMAIN_ERASE: under quorum, to UNUSED (R153, R154, R186). -/
def execDomainErase (r : Run) (s : State) : Res := checked s r 0x24 (chkDomainErase s) (goDomainErase r s)

/-- RESOURCE unless both tile classes serve the Sealed world (R605). -/
def needSealedTiles (s : State) : Option Outcome := firstSome [needClass s 1 1, needClass s 2 1]

/-- A compressed encoding of an uncompressed point. -/
def compressPoint (p : Bytes) : Bytes :=
  let l := (p.length - 1) / 2
  [if byteAt p (2 * l) % 2 = 0 then 0x02 else 0x03] ++ slice p 1 l

/-- The share record of a custodian (R543). -/
def shareRecord (s : State) (cset qtk coeff : Bytes) (i : Nat) : Bytes × State :=
  let (k, s) := drawBytes s 48
  let (iv, s) := drawBytes s 12
  let eph := compressPoint (ecPublic P384 k)
  let key := hkdf384 [] (ecdhX P384 k ([0x04] ++ csetPub cset i)) ([0x4B, 0x45, 0x53, 0x48] ++ leBytes i 1) 32
  (leBytes i 1 ++ eph ++ iv ++ gcmSeal key iv (leBytes i 1 ++ eph) (shamirSplit qtk coeff (i + 1) (csetM cset)) ++ zeros 2, s)

/-- All share records of a set. -/
def shareRecords (s : State) (cset qtk coeff : Bytes) : List Nat → Bytes × State
  | [] => ([], s)
  | i :: t =>
    let (a, s) := shareRecord s cset qtk coeff i
    let (b, s) := shareRecords s cset qtk coeff t
    (a ++ b, s)

/-- The escrow blob of a domain (R543). -/
def escrowBlob (s : State) (d : Nat) (cset : Bytes) : Bytes × State :=
  let (qtk, s) := drawBytes s 32
  let (coeff, s) := drawBytes s (32 * (csetM cset - 1))
  let (iv, s) := drawBytes s 12
  let hd : Bytes := [0x4B, 0x45, 0x53, 0x43, 0x01] ++ leBytes (csetM cset) 1 ++ leBytes (csetN cset) 1 ++ zeros 1 ++ leBytes d 2 ++ zeros 6
    ++ hashBytes (sha384 cset) ++ iv ++ zeros 4
  let s := kcUse s 1 d
  let secret := ((domKey s 1 d).getD []) ++ leBytes (domainOf s d).storeId 8
  let (sh, s) := shareRecords s cset qtk coeff (List.range (csetN cset))
  (hd ++ gcmSeal qtk iv hd secret ++ sh, s)

/-- DOMAIN_ESCROW_EXPORT: the DMK and STORE_ID under a quorum transport key (R183, R543). -/
def execDomainEscrowExport (r : Run) (s : State) : Res :=
  let cset := s.quorum.cset.getD []
  checked s r 0x25
    (fun t => [spareOperands t.entry [], shortOut t.entry (136 + 112 * csetN cset), needDmk s t])
    (fun t => withQuorum s t 6 [] (fun s =>
      match needSealedTiles s with
      | some o => failTag s t o
      | none => whenKeys s t (startIn s t r 1 1 0 (some (0x25, 0)) (fun s =>
          let (b, s) := escrowBlob s (seDomain t.entry) cset
          ((outData b.length b, .nothing), s)))))

/-- The secret an escrow blob holds, from the shares the session opened; none on a tag failure (R544). -/
def openEscrow (x : Session) (b : Bytes) : Option Bytes :=
  gcmOpen (shamirJoin (x.shares.map (fun p => (p.1 + 1, p.2)))) (slice b 0x40 12) (slice b 0 0x50) (slice b 0x50 40)
    (slice b 0x78 16)

/-- Whether a blob has the form of R543. -/
def escrowForm (b : Bytes) : Bool :=
  slice b 0 5 = [0x4B, 0x45, 0x53, 0x43, 0x01] && byteAt b 7 = 0 && allZero b 0x0A 6 && allZero b 0x4C 4
    && b.length = 136 + 112 * byteAt b 6

/-- The checks of DOMAIN_ESCROW_RESTORE, in order. -/
def chkDomainEscrowRestore (r : Run) (s : State) (t : TagEntry) : List (Option Outcome) :=
  let n := seInLen t.entry
  [spareOperands t.entry [], badInLen (n < 248 || (n - 136) % 112 != 0 || 16 < (n - 136) / 112),
   badField ((domainOf s (seDomain t.entry)).state ≠ .unused) 0x02, chk r.input.isNone (outStatus stDMA_ERROR)]

/-- DOMAIN_ESCROW_RESTORE once its checks pass. -/
def goDomainEscrowRestore (r : Run) (s : State) (t : TagEntry) : State :=
  let b := sliceZ (r.input.getD []) 0 (seInLen t.entry)
  let x := s.quorum.session
  withQuorum s t 7 b (fun s =>
    match needSealedTiles s with
    | some o => failTag s t o
    | none => startIn s t r 1 1 0 (some (0x26, 0)) (fun s =>
        ((match x.bind (fun x => openEscrow x b) with
          | some sec => if escrowForm b then
              (outResult (leAt sec 32 8), .escrowRestore (seDomain t.entry) (sec.take 32) (leAt sec 32 8))
            else (outStatus stVERIFY_FAILED, .nothing)
          | none => (outStatus stVERIFY_FAILED, .nothing)), s)))

/-- DOMAIN_ESCROW_RESTORE: the blob installed in an UNUSED domain, left AWAITING (R183, R544). -/
def execDomainEscrowRestore (r : Run) (s : State) : Res := checked s r 0x26 (chkDomainEscrowRestore r s) (goDomainEscrowRestore r s)

/-- Its effect: AWAITING, with an acknowledgement mark of 0 (R183). -/
def effEscrowRestore (s : State) (d : Nat) (dmk : Bytes) (id : Nat) (out : Outcome) : State × Outcome :=
  let s := { s with tamper := { s.tamper with ackMarks := mapErase s.tamper.ackMarks d } }
  (installDomain s d dmk { Domain.unusedDom with state := .awaiting, storeId := id }, out)

/-- The number of a domain state. -/
def stateNum : DomState → Nat
  | .unused => 0
  | .awaiting => 1
  | .live => 2

/-- The checks of STORE_STATUS, in order. -/
def chkStoreStatus (t : TagEntry) : List (Option Outcome) :=
  [spareOperands t.entry [], shortOut t.entry 64]

/-- The 64 bytes of STORE_STATUS (R611). -/
def storeStatusBytes (s : State) (t : TagEntry) : Bytes :=
  let d := seDomain t.entry
  let x := domainOf s d
  leBytes (stateNum x.state) 1 ++ leBytes (tagWorld s t) 1 ++ leBytes x.role 1 ++ leBytes (if x.restore.isSome then 1 else 0) 1
    ++ leBytes (domObjs s d).length 4 ++ leBytes x.storeId 8 ++ leBytes x.seq 8 ++ leBytes (ackMark s d) 8 ++ leBytes (oldestSeq s d) 8
    ++ leBytes ((x.snap.map (fun y => y.id)).getD 0) 8 ++ leBytes x.retired 4
    ++ leBytes (s.ks.tables.filter (fun t => hDomain t.handle = d && !t.evicting)).length 4 ++ zeros 8

/-- STORE_STATUS once its checks pass. -/
def goStoreStatus (r : Run) (s : State) (t : TagEntry) : State :=
  startOn s t r 3 0 (fun s => ((outData (stateNum (domainOf s (seDomain t.entry)).state) (storeStatusBytes s t), .nothing), s))

/-- STORE_STATUS: the 64-byte status; RESULT is the domain's state (R611). -/
def execStoreStatus (r : Run) (s : State) : Res := checked s r 0x27 chkStoreStatus (goStoreStatus r s)

/-! ## KCACHE_CTRL -/

/-- Evict the unpinned entries a predicate picks. -/
def kcEvictAll (s : State) (p : KcEntry → Bool) : State := (s.ks.cache.filter (fun e => !e.pinned && p e)).foldl kcEvict s

/-- KCACHE_EVICT_DOMAIN: command 1 of KCACHE_CTRL. -/
def execKcacheEvictDomain (key : BitVec 16) (domain : Nat) (s : State) : Res :=
  whenLandau s (if key = 0x4B43 then kcEvictAll s (fun e => e.kind = 0 && hDomain e.name = domain) else s)

/-- KCACHE_EVICT_ALL: command 2 of KCACHE_CTRL. -/
def execKcacheEvictAll (key : BitVec 16) (s : State) : Res :=
  whenLandau s (if key = 0x4B43 then kcEvictAll s (fun _ => true) else s)

/-- All four banks zeroised at once, pinned entries included; routes that read the cache meanwhile are cut (R173). -/
def kcZeroise (s : State) (reading : List Nat) : State :=
  let s := cutRoutes s (fun t => reading.contains t.tag || suspendedPair s t)
  setF { s with ks := { s.ks with cache := [] } } F.KCACHE_STATUS_ZERO_DONE 1

/-- KCACHE_ZEROISE: command 3 of KCACHE_CTRL; `reading` names the tags whose routes read the cache during it (R173). -/
def execKcacheZeroise (key : BitVec 16) (reading : List Nat) (s : State) : Res :=
  whenLandau s (if key = 0x4B43 then kcZeroise s reading else s)

/-! ## HBMC_SWAP (R167, R168) -/

/-- The working position a physical pseudo-channel holds. -/
def hbmPos (s : State) (stack pc : Nat) : Option Nat :=
  ((s.hbm.stk[stack]?).map (fun x => (List.range 31).find? (fun i => x.pos[i]? = some pc))).getD none

/-- Change a stack. -/
def updStack (s : State) (stack : Nat) (f : HbmStack → HbmStack) : State :=
  { s with hbm := { s.hbm with stk := s.hbm.stk.mapIdx (fun i x => if i = stack then f x else x) } }

/-- The ERR of a swap request, 0 when it is accepted. -/
def swapErr (s : State) (k pc : Nat) : Nat :=
  if isSet s (F.HBMC_SWAP_MIRROR k) then 2
  else if isSet s F.PWRARB_STATUS_MODE_BUSY then 4
  else if isSet s (F.HBMC_STATUS_SPARE_USED k) then 1
  else if (hbmPos s k pc).isNone then 3
  else 0

end Sys2Proof.Machine
end

