-- ==== Sys2Proof/Machine/Cards.lean ====
section
/-!
DEFINITION. Cards.lean: the contact ports, the custodian applet and quorum approvals (R531–R544).
-/
namespace Sys2Proof.Machine

/-! ## Ports -/

/-- A contact port. -/
def cardOf (s : State) (p : Nat) : CardPort := if p = 0 then s.card0 else s.card1
def setCard (s : State) (p : Nat) (c : CardPort) : State := if p = 0 then { s with card0 := c } else { s with card1 := c }

/-- A port whose domain PD64 or PD65 is powered; otherwise nothing reaches it. -/
def withPort (s : State) (p : Nat) (t : State) : Res := .next (if geckoUp s ∧ domainOn s (64 + p) then t else s)

/-- Interrupt source 11 or 12. -/
def cardIrq (s : State) (p : Nat) : State := raise s (11 + p)

/-- A command ends with an ERR: DONE. -/
def cardDone (s : State) (p err : Nat) : State :=
  cardIrq (setF (setF s (F.CARD_RESULT_ERR p) err) (F.CARD_STATUS_DONE p) 1) p

/-- The deactivation sequence: RST, CLK, I/O and VCC are off; the card is in a STATE (R533). -/
def cardOff (s : State) (p st : Nat) : State :=
  let s := setF (setF s (F.CARD_STATUS_STATE p) st) (F.CARD_STATUS_CLASS p) 0
  let s := setF (setF (setF s (F.CARD_PROTO_T p) 0) (F.CARD_PROTO_FI p) 0) (F.CARD_PROTO_DI p) 0
  setCard s p { cardOf s p with applet := 0, key := [] }

/-- A command starts: BUSY. -/
def cardStart (s : State) (p cmd : Nat) : State :=
  setF (setCard s p { cardOf s p with cmd := some cmd }) (F.CARD_STATUS_BUSY p) 1

/-- A command of a port: while BUSY it ends BUSY, in a STATE that does not allow it STATE (R534). -/
def cardCmd (p cmd : Nat) (states : List Nat) (go : State → State) (s : State) : Res :=
  withPort s p
    (if (cardOf s p).cmd.isSome then cardDone s p 7
     else if !states.contains (getF s (F.CARD_STATUS_STATE p)) then cardDone s p 8
     else go (cardStart s p cmd))

/-- ACTIVATE: a present card that is not active (R532). -/
def execActivate (port : Fin 2) (s : State) : Res := cardCmd port.val 1 [1, 3] (fun s => s) s

/-- DEACTIVATE (R533). -/
def execDeactivate (port : Fin 2) (s : State) : Res := cardCmd port.val 3 [2] (fun s => s) s

/-- WARM_RESET (R532). -/
def execWarmReset (port : Fin 2) (s : State) : Res := cardCmd port.val 4 [2] (fun s => s) s

/-- The command APDU of an exchange: TXLEN bytes of those pushed; bytes never pushed are free. -/
def takeApdu (s : State) (p : Nat) : State :=
  let c := cardOf s p
  let n := getF s (F.CARD_TXLEN_LEN p)
  let (fill, s) := if c.tx.length < n then drawBytes s (n - c.tx.length) else ([], s)
  setF (setCard s p { c with tx := [], rx := [], apdu := c.tx.take n ++ fill }) (F.CARD_RESULT_RXLEN p) 0

/-- EXCHANGE: the APDU in the FIFO is framed and sent; TXLEN outside 4–261 ends LENGTH (R534). -/
def execExchange (port : Fin 2) (s : State) : Res :=
  let p := port.val
  let n := getF s (F.CARD_TXLEN_LEN p)
  if (cardOf s p).cmd.isNone && getF s (F.CARD_STATUS_STATE p) = 2 && (n < 4 || 261 < n) then withPort s p (cardDone s p 9)
  else cardCmd p 2 [2] (fun s => takeApdu s p) s

/-- CARD_DATA_ACCESS: a write of CARDn_DATA pushes four bytes to transmit; a read pops four received ones, bytes past the length 0 (R534). The
FIFO holds an APDU of 261 bytes. -/
def execCardDataAccess (port : Fin 2) (w : Option W32) (s : State) : Res :=
  let p := port.val
  let c := cardOf s p
  withPort s p (match w with
    | some v => setCard s p { c with tx := (c.tx ++ leBytes v.toNat 4).take 264 }
    | none => setF (setCard s p { c with rx := c.rx.drop 4 }) (F.CARD_DATA_BYTES p) (leAt (c.rx ++ zeros 4) 0 4))

/-! ## The custodian applet and approvals (R536–R544) -/

/-- The AID of the applet. -/
def appletAid : Bytes := [0xF0, 0x4F, 0x48, 0x4C, 0x39, 0x43, 0x55, 0x01]

/-- INDEX of the custodian of a set with a public key. -/
def custodian (cset pub : Bytes) : Option Nat := (List.range (csetN cset)).find? (fun i => csetPub cset i = pub)

/-- The approval request a custodian's card signs (R537). -/
def approvalRequest (s : State) (x : Session) (i : Nat) : Bytes :=
  [0x51, 0x41, 0x50, 0x52] ++ leBytes x.op 1 ++ leBytes i 1 ++ zeros 2 ++ hashBytes (deviceId s) ++ hashBytes x.digest ++ x.nonce ++ zeros 8

/-- Change the open session. -/
def updSession (s : State) (f : Session → Session) : State :=
  { s with quorum := { s.quorum with session := s.quorum.session.map f } }

/-- The key GET_INFO returned: a card whose key is not in the set is not asked to approve; it is deactivated and counted, saturating
(R540). A card may also serve a restore's share records, which name no key. -/
def cardInfo (s : State) (p : Nat) (data : Bytes) : State :=
  let key := slice data 2 96
  let s := setCard s p { cardOf s p with applet := 2, key := key }
  match s.quorum.session with
  | none => s
  | some x =>
    if ((s.quorum.cset.getD []) |> (fun c => custodian c key)).isSome || x.op = opESCROW_RESTORE then s
    else cardOff (bumpNoSat s (F.CARD_QUORUM_REJECTS 0)) p 1

/-- An approval: it counts when the request is the session's own for this custodian and the signature verifies, once a custodian (R537,
R540). -/
def cardApprove (s : State) (p : Nat) (req sig : Bytes) : State :=
  let key := (cardOf s p).key
  match s.quorum.session, custodian (s.quorum.cset.getD []) key with
  | some x, some i =>
    if req = approvalRequest s x i ∧ sig.length = 96 ∧ ecdsaVerify P384 key (hashBytes (sha384 req)) sig then
      updSession s (fun x => if x.approved.contains i then x else { x with approved := x.approved ++ [i] })
    else s
  | _, _ => s

/-- The share a card sends back: encrypted under the ECDH of the session key with the card's (R544). -/
def shareOpened (x : Session) (key : Bytes) (i : Nat) (data : Bytes) : Option Bytes :=
  gcmOpen (hkdf384 [] (ecdhX P384 x.key (4 :: key)) ([0x4B, 0x45, 0x53, 0x52] ++ leBytes i 1) 32) (slice data 0 12) (leBytes i 1)
    (slice data 12 32) (slice data 44 16)

/-- An opened share: one of the blob's share records sent with the session's point, the answer opening under the key both share (R544). -/
def cardShare (s : State) (p : Nat) (req data : Bytes) : State :=
  match s.quorum.session with
  | none => s
  | some x =>
    let record := req.take 112
    let i := byteAt record 0
    let mine := (List.range (byteAt x.blob 6)).any (fun k => slice x.blob (0x88 + 112 * k) 112 = record)
    let pt := compressPoint (ecPublic P384 x.key)
    if x.op = opESCROW_RESTORE && mine && req.drop 112 = pt && data.length = 60 then
      updSession s (fun x => match shareOpened x (cardOf s p).key i data with
        | none => x
        | some sh => if x.shares.any (fun e => e.1 = i) then x else { x with shares := x.shares ++ [(i, sh)] })
    else s

/-- What a completed exchange means to Sealed firmware's dealings with the applet (R536, R540, R542, R544). -/
def appletStep (s : State) (p : Nat) (sw : Nat) (data : Bytes) : State :=
  let c := cardOf s p
  let a := c.apdu
  let n := byteAt a 4
  let body := slice a 5 n
  let sel := slice a 0 3 = [0x00, 0xA4, 0x04] && body = appletAid
  let app := byteAt a 0 = 0x80 && [0x10, 0x20, 0x30].contains (byteAt a 1)
  if c.ended || !(sel || app) then s
  else if sw != 0x9000 then setCard s p { c with ended := true }
  else if sel then (if s.quorum.session.isNone then cardOff s p 1 else setCard s p { c with applet := 1 })
  else if c.applet = 0 then s
  else if byteAt a 1 = 0x10 then (if data.length = 98 then cardInfo s p data else s)
  else if c.applet = 1 then s
  else if byteAt a 1 = 0x20 then cardApprove s p body data
  else cardShare s p body data

/-! ## The ends of commands -/

/-- Whether an ERR is one an activation or an exchange can end with; others make no end. -/
def cardErrOk (e : Nat) : Bool := [0, 2, 3, 4, 6].contains e

/-- The end of an activation or a warm reset: ACTIVE, or deactivated in FAULT (R532). -/
def activated (s : State) (p : Nat) (e : CardEnd) : State :=
  if e.err.val = 0 then
    let top := max 1 (min 5 (getF s (F.CARD_CFG_DI_MAX p)))
    let s := setF (setF s (F.CARD_STATUS_STATE p) 2) (F.CARD_STATUS_CLASS p) (max 1 e.cls.val)
    let s := setF (setF (setB s (F.CARD_PROTO_T p) e.t1) (F.CARD_PROTO_FI p) e.fi.val) (F.CARD_PROTO_DI p) (max 1 (min top e.di.val))
    setCard s p { cardOf s p with applet := 0, key := [] }
  else cardOff s p 3

/-- The end of an exchange: SW and the response, or nothing of it (R534). -/
def exchanged (s : State) (p : Nat) (e : CardEnd) : State :=
  if e.err.val = 0 then
    let d := e.data.take 256
    let s := setF (setF s (F.CARD_RESULT_SW p) e.sw.toNat) (F.CARD_RESULT_RXLEN p) d.length
    appletStep (setCard s p { cardOf s p with rx := d }) p e.sw.toNat d
  else bump s (F.CARD_ERRCNT_COUNT p) (F.CARD_ERRCNT_SAT p)

/-- CARD_OPERATION_END: the running command ends; an approval or a share counts in the open session (R534, R540, R544). How it ends is the
event's. -/
def execCardOperationEnd (port : Fin 2) (e : CardEnd) (s : State) : Res :=
  let p := port.val
  let s1 := setF (setCard s p { cardOf s p with cmd := none }) (F.CARD_STATUS_BUSY p) 0
  withPort s p (if !cardErrOk e.err.val then s
    else match (cardOf s p).cmd with
    | none => s
    | some 3 => cardDone (cardOff s1 p 1) p 0
    | some 2 => cardDone (exchanged s1 p e) p e.err.val
    | some _ => cardDone (activated s1 p e) p e.err.val)

/-- CARD_INSERTION: present for 20 ms, a card is reported (R533). -/
def execCardInsertion (port : Fin 2) (s : State) : Res :=
  let p := port.val
  withPort s p (if isSet s (F.CARD_STATUS_PRESENT p) then s
    else setCard (setF (setF s (F.CARD_STATUS_PRESENT p) 1) (F.CARD_STATUS_STATE p) 1) p CardPort.init)

/-- The running command of a port, if one runs, ends with an ERR; nothing of it counts. -/
def cardAbort (s : State) (p err : Nat) : State :=
  if (cardOf s p).cmd.isSome then
    let s := setF (setCard s p { cardOf s p with cmd := none, rx := [] }) (F.CARD_STATUS_BUSY p) 0
    cardDone (setF s (F.CARD_RESULT_RXLEN p) 0) p err
  else s

/-- CARD_REMOVAL: the card is deactivated and what runs ends REMOVED (R533, R542). -/
def execCardRemoval (port : Fin 2) (s : State) : Res :=
  let p := port.val
  withPort s p (if !isSet s (F.CARD_STATUS_PRESENT p) then s
    else
      let s := cardOff (cardAbort s p 1) p 0
      let s := setF (setF s (F.CARD_STATUS_PRESENT p) 0) (F.CARD_STATUS_REMOVED p) 1
      cardIrq (setCard s p { cardOf s p with ended := false }) p)

/-- CARD_OVERCURRENT: VCC current above the limit deactivates the card with ERR OVERCURRENT (R533). -/
def execCardOvercurrent (port : Fin 2) (s : State) : Res :=
  let p := port.val
  withPort s p (if getF s (F.CARD_STATUS_STATE p) = 2 ∨ (cardOf s p).cmd.isSome then
      setF (cardOff (cardAbort s p 5) p 3) (F.CARD_RESULT_ERR p) 5
    else s)

/-- QUORUM_SESSION_EXPIRY: CARD_QTIME seconds of operating time after it opened (R541, R542). -/
def execQuorumSessionExpiry (s : State) : Res :=
  .next (match s.quorum.session with
    | none => s
    | some x => if x.opened + max 60 (getF s (F.CARD_QTIME_SECONDS 0)) ≤ optime s then cancelSession s else s)

end Sys2Proof.Machine
end

