-- ==== Sys2Proof/Machine/CipTile.lean ====
section
/-!
DEFINITION. CipTile.lean: the steps of cipher routes on their context slot (R222, R225–R231). Where the manual leaves a layout
open: a value longer than a block register stands in consecutive registers, first bytes first; 8-byte blocks stand in the leftmost
half; keys made on the tile stand as their bytes (log entry 25).
-/
namespace Sys2Proof.Machine

/-- The key of a context slot. -/
def cipKey (p : CipStep) : Nat := (p.unit.val * 16 + p.tile.val) * 2 + p.slot.val

/-- A context slot. -/
def cipCtx (s : State) (p : CipStep) : CipCtx := mapGet s.cip.ctx (cipKey p) CipCtx.clear

/-- Put a context slot in place. -/
def setCipCtx (s : State) (p : CipStep) (x : CipCtx) : State :=
  { s with cip := { s.cip with ctx := mapSet s.cip.ctx (cipKey p) x CipCtx.clear } }

/-- The tag whose route runs in a context slot; slot 0 is suspended while a route runs in slot 1 (R237). -/
def cipTag (s : State) (p : CipStep) : Option TagEntry :=
  if p.slot = 0 && routeOn s 2 p.unit p.tile 1 then none
  else s.qm.tags.find? (fun t => running t && ((t.route.map (fun r => routeAt r 2 p.unit.val p.tile.val p.slot.val)).getD false))

/-- A step that draws on the state; without a route in its context slot there is no step (log entry 5). -/
def cipStepS (s : State) (p : CipStep) (f : TagEntry → CipCtx → State → CipCtx × State) : Res :=
  .next (match cipTag s p with
    | none => s
    | some t =>
      let (x, s) := f t (cipCtx s p) s
      setCipCtx s p x)

/-- A step has its effect while a route runs in its context slot; otherwise there is no step (log entry 5). -/
def cipStep (s : State) (p : CipStep) (f : TagEntry → CipCtx → CipCtx) : Res :=
  .next (match cipTag s p with
    | none => s
    | some t => setCipCtx s p (f t (cipCtx s p)))

/-- Space and index of an operand field (R228). -/
def cipSpace (a : BitVec 12) : Nat := a.toNat / 1024
def cipIndex (a : BitVec 12) : Nat := a.toNat % 1024

/-- A block register. -/
def cipReg (x : CipCtx) (i : Nat) : W128 := mapGet x.regs (i % 64) 0

/-- Write a block register. -/
def putReg (x : CipCtx) (i : Nat) (v : W128) : CipCtx := { x with regs := mapSet x.regs (i % 64) v 0 }

/-- A flag. -/
def cipFlag (x : CipCtx) (i : Nat) : Bool := x.flags.testBit (i % 16)

/-- Write a flag. -/
def putCipFlag (x : CipCtx) (i : Nat) (b : Bool) : CipCtx :=
  { x with flags := if b then setBitN x.flags (i % 16) else clrBitN x.flags (i % 16) }

/-- n bytes from consecutive registers. -/
def regBytes (x : CipCtx) (i n : Nat) : Bytes := ((List.range ((n + 15) / 16)).flatMap (fun k => ofBlock (cipReg x (i + k)))).take n

/-- Bytes into consecutive registers. -/
def putBytes (x : CipCtx) (i : Nat) (b : Bytes) : CipCtx :=
  (List.range ((b.length + 15) / 16)).foldl (fun y k => putReg y (i + k) (toBlock (slice b (16 * k) 16))) x

/-- What an operand field names: a register, a flag, an entry of the constant store, which no rule gives (R228, log entry 25). -/
def cipOp (x : CipCtx) (a : BitVec 12) : W128 :=
  match cipSpace a with
  | 0 => cipReg x (cipIndex a)
  | 1 => if cipFlag x (cipIndex a) then 1 else 0
  | 2 => Config.cipConst (cipIndex a)
  | _ => 0

/-- The key bytes at an operand: a port's key, or bytes from consecutive registers. -/
def keyAt (x : CipCtx) (a : BitVec 12) (n : Nat) : Bytes :=
  if cipSpace a = 3 then (if cipIndex a = 0 then x.key0 else x.key1) else regBytes x (cipIndex a) n

/-- AESK: the ring takes the key at A; a key in registers has the length of the first key (R229). -/
def execAesk (p : CipStep) (s : State) : Res := cipStep s p (fun _ x => { x with ring := some (false, keyAt x p.a x.key0.length) })

/-- The ring's block operation, when it is in the form named. -/
def ringRun (x : CipCtx) (des dec : Bool) (a : W128) : W128 :=
  match x.ring with
  | some (d, k) =>
    if d != des then a
    else if des then toBlock (ofBlock8 (tdesBlock k dec (toBlock8 (ofBlock a)))) else aesBlock k dec a
  | none => a

/-- AESE. -/
def execAese (p : CipStep) (s : State) : Res := cipStep s p (fun _ x => putReg x (cipIndex p.c) (ringRun x false false (cipOp x p.a)))
/-- AESD. -/
def execAesd (p : CipStep) (s : State) : Res := cipStep s p (fun _ x => putReg x (cipIndex p.c) (ringRun x false true (cipOp x p.a)))

/-- DESK: the TDES key at A, of two or three keys as B gives. -/
def execDesk (p : CipStep) (s : State) : Res :=
  cipStep s p (fun _ x => { x with ring := some (true, sliceZ (keyAt x p.a (8 * p.b.toNat)) 0 (8 * p.b.toNat)) })
/-- DESE. -/
def execDese (p : CipStep) (s : State) : Res := cipStep s p (fun _ x => putReg x (cipIndex p.c) (ringRun x true false (cipOp x p.a)))
/-- DESD. -/
def execDesd (p : CipStep) (s : State) : Res := cipStep s p (fun _ x => putReg x (cipIndex p.c) (ringRun x true true (cipOp x p.a)))

/-- CIP_XOR: C = A XOR B. -/
def execCipXor (p : CipStep) (s : State) : Res := cipStep s p (fun _ x => putReg x (cipIndex p.c) (cipOp x p.a ^^^ cipOp x p.b))

/-- CTRB: C takes A, and A is incremented modulo 2^128 as a big-endian integer. -/
def execCtrb (p : CipStep) (s : State) : Res :=
  cipStep s p (fun _ x => putReg (putReg x (cipIndex p.a) (cipOp x p.a + 1)) (cipIndex p.c) (cipOp x p.a))

/-- MULA: C = A·α. -/
def execMula (p : CipStep) (s : State) : Res := cipStep s p (fun _ x => putReg x (cipIndex p.c) (toBlock (mulAlpha (ofBlock (cipOp x p.a)))))

/-- GHASH: A folded into the accumulator under H, the zero block enciphered by the first key (SP 800-38D). -/
def execGhash (p : CipStep) (s : State) : Res :=
  cipStep s p (fun _ x => { x with acc := ghashMul (x.acc ^^^ cipOp x p.a) (aesBlock x.key0 false 0) })

/-- SHAI: the initial state of the hash B names. -/
def execShai (p : CipStep) (s : State) : Res := cipStep s p (fun _ x => { x with sha := (p.b.toNat, shaInit p.b.toNat, 0) })

/-- SHAC: the message block at A compressed. -/
def execShac (p : CipStep) (s : State) : Res :=
  cipStep s p (fun _ x =>
    let n := shaBlock x.sha.1
    { x with sha := (x.sha.1, shaCompress x.sha.1 x.sha.2.1 (regBytes x (cipIndex p.a) n), x.sha.2.2 + n) })

/-- SHAF: the bytes after the last whole block, padding and length; the digest to C. -/
def execShaf (p : CipStep) (tail : Bytes) (s : State) : Res :=
  cipStep s p (fun _ x =>
    let h := x.sha.1
    putBytes x (cipIndex p.c) (shaOut h (shaBlocks h x.sha.2.1 (tail ++ shaPad h (x.sha.2.2 + tail.length)))))

/-- PAN_DIGITS and PAN of the operands (R251). -/
def panOf (e : Bytes) : List Nat := (nibbles (slice e 0x48 10)).drop (20 - seOp e 0x42 1)

/-- PINDEC: the PIN field of the clear block A in format B to C; flag F0 when it is malformed (R229, R244). -/
def execPindec (p : CipStep) (s : State) : Res :=
  cipStep s p (fun t x =>
    let f := p.b.toNat
    let c := ofBlock (cipOp x p.a)
    let d := if f = 0 ∨ f = 3 then xorBytes (c.take 8) (panField f (panOf t.entry)) else c
    putCipFlag (putReg x (cipIndex p.c) (toBlock d)) 0 (pinOfField f d).isNone)

/-- PINENC: the PIN field A encoded in format B, with fill from V55 and the PAN field, to C (R229, R244). -/
def execPinenc (p : CipStep) (s : State) : Res :=
  cipStep s p (fun t x =>
    let f := p.b.toNat
    let d := (nibbles (ofBlock (cipOp x p.a))).take 16
    let g := fieldOfPin f ((d.drop 2).take (min 12 ((d[1]?).getD 0))) (ofBlock (cipReg x 55))
    putReg x (cipIndex p.c) (toBlock (if f = 0 ∨ f = 3 then xorBytes g (panField f (panOf t.entry)) else g)))

/-- CIP_RAND: V55 takes B bits from the prefetch buffer, which the cluster's CTR_DRBG refills; while the generator cannot serve a refill it
needs, it waits (R229, R270, R271). -/
def execCipRand (p : CipStep) (s : State) : Res :=
  cipStepS s p (fun t x s =>
    let n := min 128 p.b.toNat
    let refill := prefetchShort s p.unit.val p.tile.val n
    if refill && !rngServes s (16 + p.unit.val) 1 then (x, s)
    else
      let (v, s) := prefetchBits s p.unit.val p.tile.val n
      (putReg x 55 (BitVec.ofNat 128 (v * 2 ^ (128 - n))), if refill then stepDrew s t.tag 2 else s))

/-- CIP_CEQ: flag C when the leftmost B bytes of registers A and C are equal. -/
def execCipCeq (p : CipStep) (s : State) : Res :=
  cipStep s p (fun _ x => putCipFlag x (cipIndex p.c)
    ((ofBlock (cipReg x (cipIndex p.a))).take p.b.toNat = (ofBlock (cipReg x (cipIndex p.c))).take p.b.toNat))

/-- CIP_CSEL: register C[5:0] takes A if the flag C[9:6] is set, else B. -/
def execCipCsel (p : CipStep) (s : State) : Res :=
  cipStep s p (fun _ x => putReg x (p.c.toNat % 64) (if cipFlag x (p.c.toNat / 64) then cipOp x p.a else cipOp x p.b))

/-- CIP_REFRESH: the shares at A take a new mask; the value they hold stays (the model keeps shares as their value). -/
def execCipRefresh (p : CipStep) (s : State) : Res :=
  .next (if (cipTag s p).isNone then s else (draw s 128).2)

/-- TRUNC: C takes the leftmost B bytes of A, zero-filled. -/
def execTrunc (p : CipStep) (s : State) : Res :=
  cipStep s p (fun _ x => putReg x (cipIndex p.c) (toBlock ((ofBlock (cipOp x p.a)).take p.b.toNat)))

/-- BLOCKS: the body begins on one more message block; a block that slot 0 issues goes towards its tile's allowance (R229, R230,
R237). -/
def execBlocks (p : CipStep) (s : State) : Res :=
  .next (if (cipTag s p).isNone then s
    else
      let x := cipCtx s p
      let s := setCipCtx s p { x with blocks := x.blocks + 1 }
      let k := p.unit.val * 16 + p.tile.val
      if p.slot = 0 then { s with cip := { s.cip with gap := mapSet s.cip.gap k (mapGet s.cip.gap k 0 - 1) 0 } } else s)

/-- CIP_KCLOAD: key A (0 KEY_A, 1 KEY_B) through port B into the slot; a miss loads the key (R172, R231). -/
def execCipKcload (p : CipStep) (s : State) : Res :=
  cipStepS s p (fun t x s =>
    match stepLoad s t (stepKey t (cipIndex p.a)) with
    | (none, s) => (x, s)
    | (some e, s) => (if cipIndex p.b = 0 then { x with key0 := kcKey e } else { x with key1 := kcKey e }, s))

/-- CIP_INRD: input bytes, or operand bytes through port 5, into C. -/
def execCipInrd (p : CipStep) (bytes : Bytes) (s : State) : Res :=
  cipStep s p (fun t x => putBytes x (cipIndex p.c) (if cipSpace p.b = 3 ∧ cipIndex p.b = 5 then slice t.entry 0x40 0x40 else bytes))

/-- CIP_OUTST: B bytes from register A staged as output. -/
def execCipOutst (p : CipStep) (s : State) : Res := cipStep s p (fun _ x => { x with out := x.out ++ regBytes x (cipIndex p.a) p.b.toNat })

/-- PKOUT: the digest at A, as long as the slot's hash gives, handed to the public-key route of the same command. -/
def execPkout (p : CipStep) (s : State) : Res :=
  cipStep s p (fun _ x => { x with handed := regBytes x (cipIndex p.a) (hashLen x.sha.1) })

/-- PKIN: the value that the public-key route of the same command handed over, into C; without one the route waits. -/
def execPkin (p : CipAt) (c : BitVec 12) (s : State) : Res :=
  cipStep s { unit := p.unit, tile := p.tile, slot := p.slot, a := 0, b := 0, c := c } (fun t x =>
    match t.route.map (fun r => (mapGet s.pke.tiles (r.unit * 16 + r.tile) PkeTile.clear).hashOut) with
    | some (b :: l) => putBytes x (cipIndex c) (b :: l)
    | _ => x)

end Sys2Proof.Machine
end

