-- ==== Sys2Proof/Machine/CipCmds.lean ====
section
/-!
DEFINITION. CipCmds.lean: the opcodes of range 0x50–0x7F (R232–R252).
-/
namespace Sys2Proof.Machine

/-! ## Starting -/

/-- Load the keys a route names, in order; none when a record's read fails. -/
def useKeys (s : State) (fails : List MemFail) : List Nat → Option (List KeyObj) × State
  | [] => (some [], s)
  | h :: t =>
    let (k, s) := useKey s h fails
    let (ks, s) := useKeys s fails t
    ((match k, ks with
      | some k, some ks => some (k :: ks)
      | _, _ => none), s)

/-- The metered keys among handles, each once. -/
def meteredOf (s : State) (hs : List Nat) : List Nat :=
  (hs.filter (fun h => ((liveObj s h).map metered).getD false)).eraseDups

/-- What a cipher route computes: whether it verifies (none: a malformed PIN block or a failed tag, VERIFY_FAILED in every form), and
its output. -/
structure CipResult where
  ok : Option Bool
  out : Bytes
  deriving DecidableEq, Repr

/-- The outcome of a computed result: a pure opcode reports a mismatch as VERIFY_FAILED, a metered verification opcode as its verdict
in RESULT bit 63 (R243, R250). -/
def cipOutcome (met verdictOp : Bool) (x : CipResult) : Outcome :=
  match x.ok with
  | none => outStatus stVERIFY_FAILED
  | some true => outData (if met && verdictOp then 2 ^ 63 else 0) x.out
  | some false => if met && verdictOp then outResult 0 else outStatus stVERIFY_FAILED

/-- Start a cipher route: keys loaded, input read, result computed; every command ends at END (R234, R235, R252). -/
def cipStart (s : State) (t : TagEntry) (r : Run) (rcls : Nat) (hs : List Nat) (verdictOp : Bool)
    (f : List KeyObj → Bytes → State → CipResult × State) : State :=
  let met := isMetered (seOpcode t.entry)
  let uses := meteredOf s hs
  let eff := if met then Effect.meteredUse uses else Effect.nothing
  startOn s t r 2 rcls (fun s =>
    let (ks, s) := useKeys s r.fails hs
    match ks with
    | none => ((outStatus stINTEGRITY, eff), s)
    | some ks =>
      match (if seInLen t.entry = 0 then some [] else r.input) with
      | none => ((outStatus stDMA_ERROR, eff), s)
      | some b =>
        let (x, s) := f ks (sliceZ b 0 (seInLen t.entry)) s
        ((cipOutcome met verdictOp x, eff), s))

/-- The commit point of a metered opcode: USE_EXHAUSTED when a key's uses and reservations would pass its limit; a wait while a mark is
not acknowledged, for which a RESERVE is appended where one is due; then one use of each is reserved (R151, R242). -/
def cipCommit (s : State) (t : TagEntry) (r : Run) (rcls : Nat) (hs : List Nat) (verdictOp : Bool)
    (f : List KeyObj → Bytes → State → CipResult × State) : State :=
  if !isMetered (seOpcode t.entry) then cipStart s t r rcls hs verdictOp f
  else if !canStart s t 2 r rcls then s
  else
    let ms := meteredOf s hs
    if ms.any (fun h => ((liveObj s h).map (fun o => decide (o.useLimit < (countsOf s o).1 + 1))).getD false) then
      failTag s t (outStatus stUSE_EXHAUSTED)
    else if !ms.all (fun h => ((liveObj s h).map (useMarkOk s)).getD true) then ms.foldl reserve s
    else ms.foldl reserve (cipStart s t r rcls hs verdictOp f)

/-! ## Checks (R251, R252) -/

/-- Step 2 and the handles of step 3. -/
def cipHandles (s : State) (t : TagEntry) (hs : List Nat) : Option Outcome :=
  firstSome (needLive s t :: hs.map (badHandle s t))

/-- Step 4 for one key: a type taken, its flag, a metered key only by a metered opcode, a stream key by none but those of R241. -/
def cipUsage (s : State) (t : TagEntry) (h flag : Nat) (okType : Nat → Bool) (streamOk : Bool) : Option Outcome :=
  (liveObj s h).bind (fun o => chk (!okType o.typ || !has o flag || (metered o && !isMetered (seOpcode t.entry))
    || (has o uSTREAM && !streamOk)) (outStatus stKEY_USAGE))

/-- A check on a key's object. -/
def onKey (s : State) (h : Nat) (f : KeyObj → Option Outcome) : Option Outcome := (liveObj s h).bind f

/-- The type of a key. -/
def typOf (s : State) (h : Nat) : Nat := ((liveObj s h).map (fun o => o.typ)).getD 0

/-- AES and TDES types. -/
def isSym (t : Nat) : Bool := isAes t || isTdes t

/-- OUT_LEN of a command that writes no output is 0. -/
def noOut (e : Bytes) : Option Outcome := chk (seOutLen e != 0) (outBad stBAD_LENGTH 0x34)

/-! ## CIPHER_ENCRYPT, CIPHER_DECRYPT and STREAM_ENCRYPT -/

/-- MODE, TAG_LEN, AAD_LEN, IV and the data bytes of an entry. -/
def cMode (e : Bytes) : Nat := if seOpcode e = 0x55 then 3 else seOp e 0x40 1
def cTag (e : Bytes) : Nat := seOp e 0x41 1
def cAad (e : Bytes) : Nat := seOp e 0x42 2
def cIv (e : Bytes) : Bytes := slice e 0x48 16
def cData (e : Bytes) (dec : Bool) : Nat := seInLen e - cAad e - (if dec ∧ cMode e = 3 then cTag e else 0)

/-- Step 1 of the cipher opcodes. -/
def cipherFields (e : Bytes) (dec : Bool) : Option Outcome :=
  let m := cMode e
  firstSome
    [spareOperands e (if seOpcode e = 0x55 then [(0x41, 1), (0x42, 2), (0x44, 4)] else [(0x40, 1), (0x41, 1), (0x42, 2), (0x48, 16)]),
     badField (4 < m) 0x40,
     badField (if seOpcode e = 0x55 then cTag e != 16 else if m = 3 then cTag e < 12 || 16 < cTag e else cTag e != 0) 0x41,
     badField (4096 < cAad e || (cAad e != 0 && m != 3)) 0x42,
     badField (seOpcode e != 0x55 && ((m = 0 && !allZero e 0x48 16) || (m = 3 && !allZero e 0x54 4))) 0x48,
     badField (m != 4 && seKeyB e != 0) 0x18,
     badInLen (seInLen e < cAad e + (if dec && m = 3 then cTag e else 0) || 65536 < cData e dec || (m = 4 && cData e dec < 16))]

/-- Output bytes of the cipher opcodes. -/
def cipherOut (e : Bytes) (dec : Bool) : Nat :=
  cData e dec + (if cMode e = 3 && !dec then cTag e else 0) + (if seOpcode e = 0x55 then 12 else 0)

/-- Key types a mode takes: TDES in ECB and CBC only, AES-128 or AES-256 in XTS (R233). -/
def modeTakes (m typ : Nat) : Bool := if m ≤ 1 then isSym typ else if m = 4 then typ = 1 || typ = 3 else isAes typ

/-- The checks of CIPHER_ENCRYPT and CIPHER_DECRYPT and their metered forms. -/
def cipherChecks (s : State) (dec : Bool) (t : TagEntry) : List (Option Outcome) :=
  let e := t.entry
  let hs := if cMode e = 4 then [seKeyA e, seKeyB e] else [seKeyA e]
  [cipherFields e dec, cipHandles s t hs,
   onKey s (seKeyA e) (fun o => badInLen (cMode e ≤ 1 && isSym o.typ && cData e dec % blkLen o.typ != 0)),
   shortOut e (cipherOut e dec),
   cipUsage s t (seKeyA e) (if dec then uDECRYPT else uENCRYPT) (modeTakes (cMode e)) (dec && cMode e = 3),
   (if cMode e = 4 then cipUsage s t (seKeyB e) uENCRYPT (fun y => y = typOf s (seKeyA e)) false else none),
   badField (cMode e = 4 && seKeyA e = seKeyB e) 0x18,
   onKey s (seKeyA e) (fun o => badField (cMode e = 1 && isTdes o.typ && !allZero e 0x50 8) 0x48),
   needClass s 2 (tagWorld s t)]

/-- The cipher computation. -/
def cipherRun (e : Bytes) (dec : Bool) (ks : List KeyObj) (b : Bytes) (s : State) : CipResult × State :=
  let k := ((ks.head?).map (fun o => o.body)).getD []
  let k2 := ((ks[1]?).map (fun o => o.body)).getD []
  let typ := ((ks.head?).map (fun o => o.typ)).getD 1
  let aad := b.take (cAad e)
  let d := slice b (cAad e) (cData e dec)
  ((match cMode e with
    | 0 => { ok := some true, out := ecb typ k dec d }
    | 1 => { ok := some true, out := cbc typ k (cIv e) dec d }
    | 2 => { ok := some true, out := ctr k (cIv e) d }
    | 3 =>
      if dec then
        match gcmOpen k (cIv e |>.take 12) aad d (b.drop (cAad e + cData e dec)) with
        | none => { ok := none, out := [] }
        | some p => { ok := some true, out := p }
      else { ok := some true, out := (gcmSeal k ((cIv e).take 12) aad d).take (d.length + cTag e) }
    | _ => { ok := some true, out := xts k k2 (cIv e) dec d }), s)

/-- The commands of this shape once their checks pass. -/
def goCipherRow (r : Run) (dec : Bool) (s : State) (t : TagEntry) : State :=
  let e := t.entry
  cipCommit s t r (cMode e * 16 + typOf s (seKeyA e)) (if cMode e = 4 then [seKeyA e, seKeyB e] else [seKeyA e]) false
    (cipherRun e dec)

/-- The shape of the four cipher opcodes. -/
def cipherRow (r : Run) (op : Nat) (dec : Bool) (s : State) : Res := checked s r op (cipherChecks s dec) (goCipherRow r dec s)

/-- CIPHER_ENCRYPT. -/
def execCipherEncrypt (r : Run) (s : State) : Res := cipherRow r 0x50 false s
/-- CIPHER_DECRYPT: the tag is checked before release. -/
def execCipherDecrypt (r : Run) (s : State) : Res := cipherRow r 0x51 true s
/-- CIPHER_ENCRYPT_M: one use of each metered key. -/
def execCipherEncryptM (r : Run) (s : State) : Res := cipherRow r 0x58 false s
/-- CIPHER_DECRYPT_M: a use only on success (R243). -/
def execCipherDecryptM (r : Run) (s : State) : Res := cipherRow r 0x59 true s

/-- The checks of STREAM_ENCRYPT, in order. -/
def chkStreamEncrypt (s : State) (t : TagEntry) : List (Option Outcome) :=
  let e := t.entry
  [cipherFields e false, cipHandles s t [seKeyA e], shortOut e (cipherOut e false),
   onKey s (seKeyA e) (fun o => chk (!isAes o.typ || !has o uENCRYPT || !has o uSTREAM || metered o) (outStatus stKEY_USAGE)),
   needClass s 2 (tagWorld s t)]

/-- STREAM_ENCRYPT once its checks pass. -/
def goStreamEncrypt (r : Run) (s : State) (t : TagEntry) : State :=
  let e := t.entry
  let h := seKeyA e
  let rcls := 3 * 16 + typOf s h
  match liveObj s h with
  | none => s
  | some o =>
    let v := (countsOf s o).2
    if !canStart s t 2 r rcls then s
    else if v ≥ 2 ^ 64 - 1 then failTag s t (outStatus stCOUNTER_EXHAUSTED)
    else if !drawMarkOk s o then reserve s h
    else
      let s := startOn s t r 2 rcls (fun s =>
        let (k, s) := useKey s h r.fails
        match k with
        | none => ((outStatus stINTEGRITY, .nothing), s)
        | some k =>
          let s := kcUpd s 0 h (fun x => { x with issue := v + 1 })
          match (if seInLen e = 0 then some [] else r.input) with
          | none => ((outStatus stDMA_ERROR, .nothing), s)
          | some b =>
            let iv := slice e 0x44 4 ++ beBytes v 8
            let b := sliceZ b 0 (seInLen e)
            let c := iv ++ gcmSeal k.body iv (b.take (cAad e)) (b.drop (cAad e))
            (({ (outData v c) with result := v }, .streamUse h v), s))
      reserve s h

/-- STREAM_ENCRYPT: GCM under FIXED ‖ v with v drawn from the key's issue pointer at commit; COUNTER_EXHAUSTED at its end, a wait while
the mark is not acknowledged (R151, R239–R241). -/
def execStreamEncrypt (r : Run) (s : State) : Res := checked s r 0x55 (chkStreamEncrypt s) (goStreamEncrypt r s)

/-! ## MAC_GENERATE, MAC_VERIFY and HASH -/

/-- ALG, HASH, MAC_LEN, PAD. -/
def mAlg (e : Bytes) : Nat := seOp e 0x40 1
def mHash (e : Bytes) : Nat := seOp e 0x41 1
def mLen (e : Bytes) : Nat := seOp e 0x42 1
def mPad (e : Bytes) : Nat := seOp e 0x43 1

/-- The checks of the MAC opcodes. -/
def macChecks (s : State) (ver : Bool) (t : TagEntry) : List (Option Outcome) :=
  let e := t.entry
  [spareOperands e [(0x40, 1), (0x41, 1), (0x42, 1), (0x43, 1)],
   badField (mAlg e = 0 || 3 < mAlg e) 0x40,
   badField (if mAlg e = 3 then mHash e = 0 || 3 < mHash e else mHash e != 0) 0x41,
   badField (mLen e < (if mAlg e = 3 then 10 else 4)) 0x42,
   badField (if mAlg e = 2 then mPad e = 0 || 2 < mPad e else mPad e != 0) 0x43,
   badInLen (ver && seInLen e < mLen e),
   cipHandles s t [seKeyA e],
   (if ver then noOut e else shortOut e (mLen e)),
   cipUsage s t (seKeyA e) (if ver then uMAC_VERIFY else uMAC_GEN)
     (fun y => if mAlg e = 3 then y = 6 else if mAlg e = 2 then y = 4 else isSym y) false,
   onKey s (seKeyA e) (fun o => badField ((if mAlg e = 3 then hashLen (mHash e) else blkLen o.typ) < mLen e) 0x42),
   needClass s 2 (tagWorld s t)]

/-- The MAC of a message. -/
def macOf (e : Bytes) (o : KeyObj) (msg : Bytes) : Bytes :=
  (match mAlg e with
    | 1 => cmac o.typ o.body msg
    | 2 => retailMac o.body (pad9797 (mPad e) 8 msg)
    | _ => hmacBytes (mHash e) o.body msg).take (mLen e)

/-- The commands of this shape once their checks pass. -/
def goMacRow (r : Run) (ver : Bool) (s : State) (t : TagEntry) : State :=
  let e := t.entry
  cipCommit s t r ((mAlg e + 4) * 16 + (if mAlg e = 3 then mHash e else typOf s (seKeyA e))) [seKeyA e] ver
    (fun ks b s =>
      match ks.head? with
      | none => ({ ok := none, out := [] }, s)
      | some o =>
        if ver then ({ ok := some (decide (macOf e o (b.drop (mLen e)) = b.take (mLen e))), out := [] }, s)
        else ({ ok := some true, out := macOf e o b }, s))

/-- The shape of the MAC opcodes. -/
def macRow (r : Run) (op : Nat) (ver : Bool) (s : State) : Res := checked s r op (macChecks s ver) (goMacRow r ver s)

/-- MAC_GENERATE. -/
def execMacGenerate (r : Run) (s : State) : Res := macRow r 0x52 false s
/-- MAC_VERIFY: a mismatch is VERIFY_FAILED. -/
def execMacVerify (r : Run) (s : State) : Res := macRow r 0x53 true s
/-- MAC_GENERATE_M. -/
def execMacGenerateM (r : Run) (s : State) : Res := macRow r 0x5A false s
/-- MAC_VERIFY_M: the verdict in RESULT, a use consumed (R243). -/
def execMacVerifyM (r : Run) (s : State) : Res := macRow r 0x5B true s

/-- The checks of HASH, in order. -/
def chkHash (s : State) (t : TagEntry) : List (Option Outcome) :=
  let e := t.entry
  [spareOperands e [(0x41, 1)], badField (mHash e = 0 || 3 < mHash e) 0x41, shortOut e (hashLen (mHash e)),
   needClass s 2 (tagWorld s t)]

/-- HASH once its checks pass. -/
def goHash (r : Run) (s : State) (t : TagEntry) : State :=
  cipCommit s t r (8 * 16 + mHash t.entry) [] false
    (fun _ b s => ({ ok := some true, out := shaBytes (mHash t.entry) b }, s))

/-- HASH. -/
def execHash (r : Run) (s : State) : Res := checked s r 0x54 (chkHash s) (goHash r s)

/-! ## PIN translation and comparison (R244–R246) -/

/-- IN_FORMAT and OUT_FORMAT, or the formats of blocks A and B. -/
def pIn (e : Bytes) : Nat := seOp e 0x40 1
def pOut (e : Bytes) : Nat := seOp e 0x41 1

/-- The formats handled. -/
def isFormat (f : Nat) : Bool := f = 0 || f = 1 || f = 3 || f = 4

/-- PAN_DIGITS and PAN: 12–19 digits of packed BCD, right-justified; both 0 where no format needs the PAN (R244, R251). -/
def badPan (e : Bytes) (needed : Bool) : Option Outcome :=
  let n := seOp e 0x42 1
  if !needed && n = 0 && allZero e 0x48 10 then none
  else firstSome
    [badField (n < 12 || 19 < n) 0x42,
     badField ((panOf e).any (fun d => 9 < d) || !((nibbles (slice e 0x48 10)).take (20 - n)).all (fun d => d = 0)) 0x48]

/-- A block field: formats 0, 1 and 3 use 8 of its bytes. -/
def badBlock (e : Bytes) (f off : Nat) : Option Outcome := badField (f != 4 && !allZero e (off + 8) 8) off

/-- The PIN index of a format and key type (R232). -/
def pinIdx (f typ : Nat) : Nat := if f = 4 then 5 + typ else (match f with | 0 => 0 | 1 => 2 | _ => 4) + (typ - 4)

/-- A format that does not match a key's type (R245). -/
def badPinKey (s : State) (h f off : Nat) : Option Outcome := onKey s h (fun o => badField ((f = 4) != isAes o.typ) off)

/-- The block of a field. -/
def blockOf (e : Bytes) (f off : Nat) : Bytes := slice e off (if f = 4 then 16 else 8)

/-- The checks of the translations; `dukpt` takes a format 4 block under a DUKPT working key (R248). -/
def transChecks (s : State) (dukpt : Bool) (t : TagEntry) : List (Option Outcome) :=
  let e := t.entry
  [spareOperands e ([(0x40, 1), (0x41, 1), (0x42, 1), (0x48, 10), (0x60, 16)] ++ if dukpt then [(0x54, 12)] else []),
   badField (!isFormat (pIn e)) 0x40, badField (!isFormat (pOut e)) 0x41,
   badPan e (pIn e != 1 || pOut e != 1), badBlock e (pIn e) 0x60,
   cipHandles s t [seKeyA e, seKeyB e], shortOut e (if pOut e = 4 then 16 else 8),
   cipUsage s t (seKeyA e) (if dukpt then uDUKPT_BDK else uPIN) (if dukpt then isAes else isSym) false,
   cipUsage s t (seKeyB e) uPIN isSym false,
   badField (pIn e != 1 && pOut e = 1) 0x41,
   badPinKey s (seKeyA e) (pIn e) 0x40, badPinKey s (seKeyB e) (pOut e) 0x41,
   (if dukpt then onKey s (seKeyA e) (fun o => badField
      ((o.counter % 2 ^ 32 != 0 && o.counter % 2 ^ 32 != beNat (slice e 0x54 4)) || allZero e 0x5C 4
        || 16 < popBits (beNat (slice e 0x5C 4)) 32) 0x54) else none),
   needClass s 2 (tagWorld s t)]

/-- A once its checks pass. -/
def goTransRow (r : Run) (dukpt : Bool) (s : State) (t : TagEntry) : State :=
  let e := t.entry
  let ta := typOf s (seKeyA e)
  let tb := typOf s (seKeyB e)
  cipCommit s t r (pinIdx (pIn e) ta * 16 + pinIdx (pOut e) tb) [seKeyA e, seKeyB e] false
    (fun ks _ s =>
      match ks with
      | [a, b] =>
        let k := if dukpt then dukptWorking a.typ a.body (slice e 0x54 12) duPIN else a.body
        let (rnd, s) := drawBytes s 16
        match decodePin (pIn e) a.typ k (blockOf e (pIn e) 0x60) (panOf e) with
        | none => ({ ok := none, out := [] }, s)
        | some pin => ({ ok := some true, out := encodePin (pOut e) b.typ b.body pin (panOf e) rnd }, s)
      | _ => ({ ok := none, out := [] }, s))

/-- A translation: decode, draw fill, encode; a malformed block ends VERIFY_FAILED (R244, R246). -/
def transRow (r : Run) (op : Nat) (dukpt : Bool) (s : State) : Res := checked s r op (transChecks s dukpt) (goTransRow r dukpt s)

/-- PIN_TRANSLATE. -/
def execPinTranslate (r : Run) (s : State) : Res := transRow r 0x60 false s
/-- PIN_TRANSLATE_DUKPT: from a working PIN key. -/
def execPinTranslateDukpt (r : Run) (s : State) : Res := transRow r 0x61 true s
/-- PIN_TRANSLATE_M. -/
def execPinTranslateM (r : Run) (s : State) : Res := transRow r 0x70 false s
/-- PIN_TRANSLATE_DUKPT_M. -/
def execPinTranslateDukptM (r : Run) (s : State) : Res := transRow r 0x71 true s

/-- The checks of PIN_COMPARE, in order. -/
def chkCompareRow (s : State) (t : TagEntry) : List (Option Outcome) :=
  let e := t.entry
  [spareOperands e [(0x40, 1), (0x41, 1), (0x42, 1), (0x48, 10), (0x60, 16), (0x70, 16)],
   badField (!isFormat (pIn e)) 0x40, badField (!isFormat (pOut e)) 0x41,
   badPan e (pIn e != 1 || pOut e != 1), badBlock e (pIn e) 0x60, badBlock e (pOut e) 0x70,
   cipHandles s t [seKeyA e, seKeyB e],
   cipUsage s t (seKeyA e) uPIN isSym false, cipUsage s t (seKeyB e) uPIN_VERIFY isSym false,
   onKey s (seKeyB e) (fun o => chk (metered o) (outStatus stKEY_USAGE)),
   badPinKey s (seKeyA e) (pIn e) 0x40, badPinKey s (seKeyB e) (pOut e) 0x41,
   needClass s 2 (tagWorld s t)]

/-- PIN_COMPARE once its checks pass. -/
def goCompareRow (r : Run) (s : State) (t : TagEntry) : State :=
  let e := t.entry
  cipCommit s t r (pinIdx (pIn e) (typOf s (seKeyA e)) * 16 + pinIdx (pOut e) (typOf s (seKeyB e))) [seKeyA e, seKeyB e] true
    (fun ks _ s =>
      match ks with
      | [a, b] =>
        match decodePin (pIn e) a.typ a.body (blockOf e (pIn e) 0x60) (panOf e),
            decodePin (pOut e) b.typ b.body (blockOf e (pOut e) 0x70) (panOf e) with
        | some x, some y => ({ ok := some (decide (x = y)), out := [] }, s)
        | _, _ => ({ ok := none, out := [] }, s)
      | _ => ({ ok := none, out := [] }, s))

/-- PIN_COMPARE and its metered form: the PINs of blocks A and B; KEY_B of the metered form is not metered (R246, R250). -/
def compareRow (r : Run) (op : Nat) (s : State) : Res := checked s r op (chkCompareRow s) (goCompareRow r s)

/-- PIN_COMPARE. -/
def execPinCompare (r : Run) (s : State) : Res := compareRow r 0x62 s
/-- PIN_COMPARE_M. -/
def execPinCompareM (r : Run) (s : State) : Res := compareRow r 0x72 s

/-! ## DUKPT_DATA (R247, R248) -/

/-- The checks of DUKPT_DATA, in order. -/
def chkDukptRow (s : State) (t : TagEntry) : List (Option Outcome) :=
  let e := t.entry
  let sub := seOp e 0x40 1
  [spareOperands e [(0x40, 1), (0x42, 1), (0x54, 12), (0x60, 16)],
   badField (sub = 0 || 3 < sub) 0x40,
   badField (if sub = 1 then mLen e != 0 else mLen e < 4 || 16 < mLen e) 0x42,
   badField (sub != 1 && !allZero e 0x60 16) 0x60,
   badInLen ((sub = 1 && (65536 < seInLen e || seInLen e % 16 != 0)) || (sub = 2 && seInLen e < mLen e)),
   cipHandles s t [seKeyA e],
   (match sub with | 1 => shortOut e (seInLen e) | 2 => noOut e | _ => shortOut e (mLen e)),
   cipUsage s t (seKeyA e) uDUKPT_BDK isAes false,
   onKey s (seKeyA e) (fun o => badField
     ((o.counter % 2 ^ 32 != 0 && o.counter % 2 ^ 32 != beNat (slice e 0x54 4)) || allZero e 0x5C 4
       || 16 < popBits (beNat (slice e 0x5C 4)) 32) 0x54),
   needClass s 2 (tagWorld s t)]

/-- DUKPT_DATA once its checks pass. -/
def goDukptRow (r : Run) (s : State) (t : TagEntry) : State :=
  let e := t.entry
  let sub := seOp e 0x40 1
  cipCommit s t r (sub * 16 + typOf s (seKeyA e)) [seKeyA e] false
    (fun ks b s =>
      match ks.head? with
      | none => ({ ok := none, out := [] }, s)
      | some o =>
        let w := fun u => dukptWorking o.typ o.body (slice e 0x54 12) u
        ((match sub with
          | 1 => { ok := some true, out := cbc o.typ (w duDATADEC) (slice e 0x60 16) true b }
          | 2 => { ok := some (decide ((cmac o.typ (w duMACVER) (b.drop (mLen e))).take (mLen e) = b.take (mLen e))), out := [] }
          | _ => { ok := some true, out := (cmac o.typ (w duMACGEN) b).take (mLen e) }), s))

/-- DUKPT_DATA and its metered form: CBC decryption, CMAC verification or generation under a working key. -/
def dukptRow (r : Run) (op : Nat) (s : State) : Res := checked s r op (chkDukptRow s) (goDukptRow r s)

/-- DUKPT_DATA. -/
def execDukptData (r : Run) (s : State) : Res := dukptRow r 0x63 s
/-- DUKPT_DATA_M. -/
def execDukptDataM (r : Run) (s : State) : Res := dukptRow r 0x73 s

/-! ## EMV_ARQC (R249) -/

/-- Output bytes by ARPC_METHOD. -/
def arpcLen (m : Nat) : Nat := match m with | 1 => 8 | 2 => 4 | _ => 0

/-- The checks of EMV_ARQC, in order. -/
def chkEmvRow (s : State) (t : TagEntry) : List (Option Outcome) :=
  let e := t.entry
  let m := seOp e 0x41 1
  [spareOperands e [(0x40, 1), (0x41, 1), (0x42, 1), (0x43, 1), (0x44, 2), (0x48, 10), (0x58, 8), (0x60, 4), (0x64, 1), (0x68, 8)],
   badField (seOp e 0x40 1 = 0 || 2 < seOp e 0x40 1) 0x40, badField (2 < m) 0x41,
   badPan e true, badField (9 < byteAt e 0x43 / 16 || 9 < byteAt e 0x43 % 16) 0x43,
   badField ((m = 0 && !allZero e 0x60 4) || (m = 1 && !allZero e 0x62 2)) 0x60,
   badField (8 < byteAt e 0x64 || (m != 2 && byteAt e 0x64 != 0)) 0x64,
   badField (!allZero e (0x68 + min 8 (byteAt e 0x64)) (8 - min 8 (byteAt e 0x64))) 0x68,
   badInLen (1024 < seInLen e), cipHandles s t [seKeyA e],
   (if m = 0 then noOut e else shortOut e (arpcLen m)),
   cipUsage s t (seKeyA e) uEMV_MK (fun y => if seOp e 0x40 1 = 1 then isTdes y else isAes y) false,
   badField (16 < seOp e 0x42 1) 0x42, needClass s 2 (tagWorld s t)]

/-- EMV_ARQC once its checks pass. -/
def goEmvRow (r : Run) (s : State) (t : TagEntry) : State :=
  let e := t.entry
  let m := seOp e 0x41 1
  cipCommit s t r (seOp e 0x40 1 * 16 + m) [seKeyA e] true
    (fun ks b s =>
      match ks.head? with
      | none => ({ ok := none, out := [] }, s)
      | some o =>
        let sk := emvSession o.typ (emvMaster o.typ o.body (panOf e) (byteAt e 0x43)) (slice e 0x44 2)
        let arqc := slice e 0x58 8
        let ok := decide (emvMac o.typ sk 8 b = arqc)
        ({ ok := some ok, out := if ok ∧ m != 0 then emvArpc o.typ sk arqc m (slice e 0x60 4) (slice e 0x68 (byteAt e 0x64)) else [] }, s))

/-- EMV_ARQC and its metered form: the ARQC compared, an ARPC on a match. -/
def emvRow (r : Run) (op : Nat) (s : State) : Res := checked s r op (chkEmvRow s) (goEmvRow r s)

/-- EMV_ARQC. -/
def execEmvArqc (r : Run) (s : State) : Res := emvRow r 0x64 s
/-- EMV_ARQC_M. -/
def execEmvArqcM (r : Run) (s : State) : Res := emvRow r 0x74 s

end Sys2Proof.Machine
end

