-- ==== Sys2Proof/Machine/CipUnits.lean ====
section
/-!
DEFINITION. CipUnits.lean: locks and self-tests of cipher tiles (R227, R256) and SCIPH (R257–R259).
-/
namespace Sys2Proof.Machine

/-! ## Lock and self-test -/

/-- CIPC_LOCK_HOLD: a write of CIPC_LOCKn sets or clears HOLD (R227). -/
def execCipcLockHold (cluster : Fin 8) (tile : Fin 9) (v : W32) (s : State) : Res :=
  whenLandau s (setB s (F.CIPC_LOCK_HOLD cluster.val tile.val) (v.getLsbD 31))

/-- CIPC_SELFTEST: GO with a tile: HOLD is set on it, or ERR says why not (R256). -/
def execCipcSelftest (cluster : Fin 8) (v : W32) (s : State) : Res :=
  let u := cluster.val
  let i := v.toNat % 16
  .next (if !landauUp s then s
    else
      let s := writeReg s (Blk.CIPC + u) 8 (v.toNat % 2 ^ 31)
      if !v.getLsbD 31 then s
      else if i ≥ 9 || !(unitActive s 2 u ||| unitSpare s 2 u).testBit i then setF s (F.CIPC_SELFTEST_ERR u) 1
      else if getF s (F.CIPC_STATUS_TESTING u) != 0 || partDrained s 2 u i then setF s (F.CIPC_SELFTEST_ERR u) 2
      else
        let s := setF (setF s (F.CIPC_SELFTEST_ERR u) 0) (F.CIPC_SELFTEST_GO u) 1
        setF (setF s (F.CIPC_LOCK_HOLD u i) 1) (F.CIPC_STATUS_TESTING u) (2 ^ i))

/-- CIP_SELFTEST_END: once the tile's routes have ended the test runs and ends: DONE, FAIL and a report when a result does not match, HOLD
cleared (R256). Whether they match is the event's. -/
def execCipSelftestEnd (cluster : Fin 8) (pass : Bool) (s : State) : Res :=
  let u := cluster.val
  .next (match lowestSet (getF s (F.CIPC_STATUS_TESTING u)) 9 with
    | none => s
    | some i =>
      if routeOn s 2 u i 0 || routeOn s 2 u i 1 then s
      else
        let s := setF (setF (setF s (F.CIPC_STATUS_TESTING u) 0) (F.CIPC_SELFTEST_GO u) 0) (F.CIPC_SELFTEST_DONE u) 1
        let s := setF s (F.CIPC_LOCK_HOLD u i) 0
        if pass then s else faultReport (setF s (F.CIPC_SELFTEST_FAIL u) 1) 0x03 (16 + u) i)

/-! ## SCIPH -/

/-- A start of a SCIPH operation: a write of SCIPH_CTRL with GO, ignored while BUSY (R258). -/
def sciphGo (s : State) (op : Nat) (slot : Fin 16) : State :=
  if !geckoUp s || isSet s F.SCIPH_STATUS_BUSY then s
  else
    let s := setF (setF (setF (setF s F.SCIPH_CTRL_OP op) F.SCIPH_CTRL_SLOT slot.val) F.SCIPH_CTRL_GO 1) F.SCIPH_STATUS_BUSY 1
    let a := getF s F.SCIPH_PARAM_ADDR
    let (p, s) := if inSram a 128 && a % 64 = 0 then masterRead s 3 a 128 else ([], s)
    { s with sciph := { s.sciph with op := some (op * 16 + slot.val, a, p) } }

/-- GCM_ENC. -/
def execGcmEnc (slot : Fin 16) (s : State) : Res := .next (sciphGo s 1 slot)
/-- GCM_DEC. -/
def execGcmDec (slot : Fin 16) (s : State) : Res := .next (sciphGo s 2 slot)
/-- SHA384. -/
def execSha384 (slot : Fin 16) (s : State) : Res := .next (sciphGo s 3 slot)
/-- HMAC384. -/
def execHmac384 (slot : Fin 16) (s : State) : Res := .next (sciphGo s 4 slot)
/-- HKDF. -/
def execHkdf (slot : Fin 16) (s : State) : Res := .next (sciphGo s 5 slot)
/-- DERIVE_SRK. -/
def execDeriveSrk (slot : Fin 16) (s : State) : Res := .next (sciphGo s 6 slot)
/-- UNWRAP_DMK. -/
def execUnwrapDmk (slot : Fin 16) (s : State) : Res := .next (sciphGo s 7 slot)
/-- LOAD. -/
def execLoad (slot : Fin 16) (s : State) : Res := .next (sciphGo s 8 slot)

/-- A key slot of SCIPH. -/
def sciphSlot (s : State) (i : Nat) : Option Bytes := mapGet? s.sciph.slots i

/-- Put a key into a slot; VALID follows. -/
def setSciphSlot (s : State) (i : Nat) (k : Bytes) : State :=
  let s := { s with sciph := { s.sciph with slots := mapPut s.sciph.slots i k } }
  setF s F.SCIPH_SLOTS_VALID (setBitN (getF s F.SCIPH_SLOTS_VALID) i)

/-- Clear the slots a predicate picks. -/
def clearSciph (s : State) (p : Nat → Bool) : State :=
  let s := { s with sciph := { s.sciph with slots := s.sciph.slots.filter (fun e => !p e.1) } }
  setF s F.SCIPH_SLOTS_VALID ((s.sciph.slots.map (fun e => 2 ^ e.1)).foldl (· + ·) 0)

/-- The parameter block's fields (R259). -/
def spSrc (p : Bytes) : Nat := leAt p 0 4
def spSrcLen (p : Bytes) : Nat := leAt p 4 4
def spDst (p : Bytes) : Nat := leAt p 8 4
def spCap (p : Bytes) : Nat := leAt p 0xC 4
def spAad (p : Bytes) : Nat := leAt p 0x10 4
def spAadLen (p : Bytes) : Nat := leAt p 0x14 4
def spOut (p : Bytes) : Nat := byteAt p 0x18
def spDomain (p : Bytes) : Nat := leAt p 0x1A 2

/-- Output bytes of a SCIPH operation. -/
def spOutLen (op : Nat) (p : Bytes) : Nat := match op with | 1 | 2 => spSrcLen p | 3 | 4 => 48 | _ => 0

/-- Whether a parameter is bad: an address outside SRAM, an output longer than DST_CAP, a slot above 7, an OUT_SLOT above 7, a LOAD of
other than 32 bytes, a domain above 4,095 (RESULT 0x11; log entry 27). -/
def sciphBad (op slot : Nat) (p : Bytes) : Bool :=
  p = [] || slot > 7
    || ((op ≤ 4 || op ≥ 7) && !inSram (spSrc p) (spSrcLen p))
    || ((op ≤ 2 || op = 7) && !inSram (spAad p) (spAadLen p))
    || (op ≤ 4 && (!inSram (spDst p) (spCap p) || spCap p < spOutLen op p))
    || ((op = 5 || op = 8) && spOut p > 7) || (op = 8 && spSrcLen p != 32)
    || (op = 7 && spDomain p > 4095) || op = 0 || op > 8

/-- Whether an operation uses the key slot named. -/
def sciphKeyed (op : Nat) : Bool := op = 1 || op = 2 || op = 4 || op = 5

/-- A key of 32 bytes for AES-256: the first 32 of a slot. -/
def key32 (k : Bytes) : Bytes := sliceZ k 0 32

/-- The input and AAD of an operation that takes them, read as master 3 (R422, R425). -/
def sciphIn (s : State) (op : Nat) (p : Bytes) : (Bytes × Bytes) × State :=
  let (src, s) := if op = 5 ∨ op = 6 then ([], s) else masterRead s 3 (spSrc p) (spSrcLen p)
  let (aad, s) := if op ≤ 2 ∨ op = 7 then masterRead s 3 (spAad p) (spAadLen p) else ([], s)
  ((src, aad), s)

/-- What a SCIPH operation does: RESULT and the state (R257–R259); its output is written as master 3. -/
def sciphRun (s : State) (op slot a : Nat) (p : Bytes) : Nat × State :=
  let iv := slice p 0x20 12
  let k := (sciphSlot s slot).getD []
  if sciphBad op slot p then (0x11, s)
  else if (op = 5 || op = 8) && spOut p < 2 then (0x21, s)
  else if sciphKeyed op && (sciphSlot s slot).isNone then (0x20, s)
  else
    let ((src, aad), s) := sciphIn s op p
    match op with
    | 1 =>
      let c := gcmSeal (key32 k) iv aad src
      (0, masterWrite (masterWrite s 3 (spDst p) (c.take src.length)) 3 (a + 0x30) (c.drop src.length))
    | 2 =>
      match gcmOpen (key32 k) iv aad src (slice p 0x30 16) with
      | none => (0x32, s)
      | some m => (0, masterWrite s 3 (spDst p) m)
    | 3 => (0, masterWrite s 3 (spDst p) (hashBytes (sha384 src)))
    | 4 => (0, masterWrite s 3 (spDst p) (hashBytes (hmac384 k src)))
    | 5 => (0, setSciphSlot s (spOut p) (hkdf384 [] k (slice p 0x41 (byteAt p 0x40)) 32))
    | 6 =>
      match sciphSlot s 0, s.tamper.bk with
      | some ss, some bk => (0, setSciphSlot s 1 (hkdf384 ss (hashBytes bk) [] 32))
      | _, _ => (0x20, s)
    | 7 =>
      if !s.drawbar.up then (0x09, s)
      else match sciphSlot s 1 with
        | none => (0x20, s)
        | some w =>
          match gcmOpen w iv aad src (slice p 0x30 16) with
          | none => (0x32, s)
          | some m => (0, pinDomain s (spDomain p) (key32 m))
    | _ => (0, setSciphSlot s (spOut p) src)

/-- SCIPH_OPERATION_END. -/
def execSciphOperationEnd (s : State) : Res :=
  .next (match s.sciph.op with
    | none => s
    | some (code, a, p) =>
      let (res, s) := sciphRun s (code / 16) (code % 16) a p
      setF (setF (setF (setF { s with sciph := { s.sciph with op := none } } F.SCIPH_STATUS_BUSY 0) F.SCIPH_CTRL_GO 0)
        F.SCIPH_STATUS_DONE 1) F.SCIPH_STATUS_RESULT res)

end Sys2Proof.Machine
end

