-- ==== Sys2Proof/Machine/Cluster.lean ====
section
/-!
DEFINITION. Cluster.lean: Forilkar clusters: member key, epoch statements, replication bundles, the opcodes 0xA0–0xAA (R317–R334).
-/
namespace Sys2Proof.Machine

/-! ## Certificates (R317, R318) -/

/-- A membership certificate without its signature. -/
def memberCertHead (s : State) (cid mekPub : Bytes) : Bytes :=
  [0x46, 0x4B, 0x4D, 0x43] ++ leBytes 1 2 ++ zeros 2 ++ cid ++ sliceZ s.led.devPub 0 96 ++ hashBytes (ownerKeyHash s) ++ mekPub ++ zeros 8

/-- A signature by the DeviceID key, SPKE slot 0; with the key destroyed its bytes are free. -/
def deviceSign (s : State) (b : Bytes) : Bytes × State :=
  match spkeSlot s 0 with
  | some k => spkeSign s k (hashBytes (sha384 b))
  | none => drawBytes s 96

/-- A whole membership certificate. -/
def memberCert (s : State) (cid mekPub : Bytes) : Bytes × State :=
  let h := memberCertHead s cid mekPub
  let (g, s) := deviceSign s h
  (h ++ g, s)

/-- The fields of a certificate. -/
def mcCid (b : Bytes) : Bytes := slice b 8 16
def mcDevPub (b : Bytes) : Bytes := slice b 0x18 96
def mcOwner (b : Bytes) : Bytes := slice b 0x78 48
def mcMekPub (b : Bytes) : Bytes := slice b 0xA8 96

/-- Whether a certificate has its form; whether its signature verifies. -/
def mcForm (b : Bytes) : Bool := b.length = 368 && slice b 0 4 = [0x46, 0x4B, 0x4D, 0x43] && leAt b 4 2 = 1 && allZero b 6 2 && allZero b 0x108 8
def mcSigned (b : Bytes) : Bool := ecdsaVerify P384 (mcDevPub b) (hashBytes (sha384 (b.take 0x110))) (slice b 0x110 96)

/-! ## The member key (R317, R171) -/

/-- Pin the MEK in the key cache. -/
def pinMek (s : State) : State :=
  match s.cluster.mek with
  | none => s
  | some k => kcLoad s 4 0 k none 48 true

/-- A signature by the MEK over bytes: a use of its pinned entry (R171). -/
def mekSign (s : State) (b : Bytes) : Bytes × State :=
  match s.cluster.mek with
  | some k => spkeSign (kcUse s 4 0) k (hashBytes (sha384 b))
  | none => drawBytes s 96

/-- CL_MEMBER_REQUEST at END: a fresh MEK for a CLUSTER_ID and its certificate; it replaces one the device holds, with the membership that
went with it (R317). -/
def effMemberRequest (s : State) (cid : Bytes) : State × Outcome :=
  let (b, s) := drawBytes s 56
  let d := beBytes (beNat b % (curve384.n - 1) + 1) 48
  let pub := (ecPublic P384 d).drop 1
  let (c, s) := memberCert s cid pub
  (pinMek { s with cluster := { ClusterState.init with mek := some d, mekPub := pub, cid := cid, cert := c } }, outData 0 c)

/-! ## The member table (R319) -/

/-- An entry of the table, and whether it is ACTIVE. -/
def memberOf (c : ClusterState) (n : Nat) : Option Member := mapGet? c.table n
def activeMember (c : ClusterState) (n : Nat) : Bool := ((memberOf c n).map (fun m => decide (m.state = 1))).getD false

/-- The number of ACTIVE members. -/
def activeCount (c : ClusterState) : Nat := (c.table.filter (fun e => e.2.state = 1)).length

/-- The 64 bytes of an entry. -/
def memberBytes (m : Option Member) : Bytes :=
  match m with
  | none => zeros 64
  | some m => leBytes m.state 1 ++ zeros 7 ++ leBytes m.epoch 8 ++ hashBytes m.mekHash

/-- The table image of 1 MiB. -/
def tableImage (c : ClusterState) : Bytes := (List.range 16384).flatMap (fun n => memberBytes (memberOf c n))

/-- A table from its image. -/
def tableOf (b : Bytes) : List (Nat × Member) :=
  ((List.range 16384).filter (fun n => byteAt b (64 * n) != 0)).map (fun n =>
    (n, { state := byteAt b (64 * n), epoch := leAt b (64 * n + 8) 8, mekHash := BitVec.ofNat 384 (beNat (slice b (64 * n + 16) 48)) }))

/-! ## Epoch statements (R320) -/

def stAction (b : Bytes) : Nat := byteAt b 5
def stDomain (b : Bytes) : Nat := leAt b 6 2
def stCid (b : Bytes) : Bytes := slice b 8 16
def stEpoch (b : Bytes) : Nat := leAt b 0x18 8
def stPrev (b : Bytes) : Bytes := slice b 0x20 48
def stSubject (b : Bytes) : Nat := leAt b 0x50 2
def stIssuer (b : Bytes) : Nat := leAt b 0x52 2
def stEndorsers (b : Bytes) : Nat := leAt b 0x54 2
def stActive (b : Bytes) : Nat := leAt b 0x56 2
def stTable (b : Bytes) : Bytes := slice b 0x60 48
def stCert (b : Bytes) : Bytes := slice b 0x90 368
def stSig (b : Bytes) : Bytes := slice b 0x200 96

/-- What its signatures cover and its hash covers, with ENDORSERS zero as issued (R320; log entry 40). -/
def stSigned (b : Bytes) : Bytes := overwrite (b.take 0x200) 0x54 (zeros 2)
def stHash (b : Bytes) : Hash := sha384 (overwrite (b.take 0x260) 0x54 (zeros 2))

/-- Endorsement i: MEMBER, MEK_PUB, SIG. -/
def stEndorsement (b : Bytes) (i : Nat) : Nat × Bytes × Bytes :=
  let o := 0x260 + 194 * i
  (leAt b o 2, slice b (o + 2) 96, slice b (o + 98) 96)
def stAll (b : Bytes) : List (Nat × Bytes × Bytes) := (List.range (stEndorsers b)).map (stEndorsement b)

/-- Whether a statement has its form; `n` its length. -/
def stForm (b : Bytes) (n : Nat) : Bool :=
  slice b 0 5 = [0x46, 0x4B, 0x45, 0x50, 0x01] && 1 ≤ stAction b && stAction b ≤ 5 && (stAction b = 5 || stDomain b = 0) && stDomain b < 4096
    && stSubject b < 16384 && stIssuer b < 16384 && allZero b 0x58 8
    && (if stAction b ≤ 2 then mcForm (stCert b) else allZero b 0x90 368) && n = 608 + 194 * stEndorsers b

/-- A statement before its signature. -/
structure StIn where
  action : Nat
  domain : Nat
  cid : Bytes
  epoch : Nat
  prev : Bytes
  subject : Nat
  issuer : Nat
  active : Nat
  table : Bytes
  cert : Bytes
  deriving DecidableEq, Repr

/-- Its 0x200 bytes. -/
def stBytes (x : StIn) : Bytes :=
  [0x46, 0x4B, 0x45, 0x50, 0x01] ++ leBytes x.action 1 ++ leBytes x.domain 2 ++ x.cid ++ leBytes x.epoch 8 ++ x.prev ++ leBytes x.subject 2
    ++ leBytes x.issuer 2 ++ zeros 2 ++ leBytes x.active 2 ++ zeros 8 ++ x.table ++ x.cert

/-- Issue a statement: signed by the MEK; its hash counts as endorsed (R320, R322). -/
def stIssue (s : State) (x : StIn) : Bytes × State :=
  let h := stBytes x
  let (g, s) := mekSign s h
  let b := h ++ g
  (b, { s with cluster := { s.cluster with endorsed := mapPut s.cluster.endorsed x.epoch (stHash b) } })

/-- Whether a signature verifies under a public key of a member whose entry holds only its hash (R319, R321; log entry 41). -/
def memberSigned (c : ClusterState) (n : Nat) (signed sig : Bytes) : Bool :=
  match memberOf c n with
  | none => false
  | some m => (ecdsaRecover P384 (hashBytes (sha384 signed)) sig).any (fun q =>
      sha384 q = m.mekHash && ecdsaVerify P384 q (hashBytes (sha384 signed)) sig)

/-- The first reason whose check fails, 0 with none. -/
def firstReason (l : List (Bool × Nat)) : Nat := ((l.find? (fun e => e.1)).map (fun e => e.2)).getD 0

/-- Whether the action rule of R321 fails for a statement on a table. -/
def actionFails (c : ClusterState) (b : Bytes) : Bool :=
  match stAction b with
  | 2 => activeMember c (stSubject b) || mcCid (stCert b) != stCid b || 16384 ≤ activeCount c
  | 3 => stIssuer b != stSubject b
  | 4 => !activeMember c (stSubject b) || stSubject b = stIssuer b
  | 5 => !activeMember c (stSubject b)
  | _ => true

/-- Whether an endorsement holds: an ACTIVE member's, its MEK_PUB the table's, its signature good. -/
def endorseOk (c : ClusterState) (e : Nat × Bytes × Bytes) : Bool :=
  activeMember c e.1 && ((memberOf c e.1).map (fun m => decide (sha384 e.2.1 = m.mekHash))).getD false
def endorseSigned (b : Bytes) (e : Nat × Bytes × Bytes) : Bool := ecdsaVerify P384 e.2.1 (hashBytes (sha384 (stSigned b))) e.2.2

/-- The reason a statement for epoch E + 1 is refused for, on a membership; `full` with the rule on endorsements (R321, R333). -/
def stReason (s : State) (c : ClusterState) (b : Bytes) (full : Bool) : Nat :=
  let es := if full then stAll b else []
  firstReason
    [(stAction b = 2 && mcOwner (stCert b) != hashBytes (ownerKeyHash s), 3),
     (c.epoch + 1 < stEpoch b, 4),
     (stEpoch b != c.epoch + 1 || stPrev b != hashBytes c.hash || stTable b != hashBytes (sha384 (tableImage c)) || stActive b != activeCount c, 5),
     (!memberSigned c (stIssuer b) (stSigned b) (stSig b) || !es.all (endorseSigned b) || (stAction b = 2 && !mcSigned (stCert b)), 6),
     (!activeMember c (stIssuer b) || !es.all (endorseOk c) || !(stIssuer b :: es.map (fun e => e.1)).Nodup
        || (full && (es.length + 1) * 2 ≤ stActive b), 7),
     (actionFails c b, 8)]

/-! ## Roles of domains (R325, R329, R331) -/

/-- Change a domain and write its DMK log entry (R325). -/
def putRole (s : State) (d : Nat) (x : Domain) : State :=
  let s := setDomain s d x
  logDmk s d (dmkPayload ((domKey s 1 d).getD []) x)

/-- The version a member holds: (E, 0) for an unclustered domain (R325). -/
def heldVersion (s : State) (x : Domain) : Nat × Nat := if x.role = 0 then (s.cluster.epoch, 0) else (x.epoch, x.step)

/-- Whether a version is later than another. -/
def laterVersion (a b : Nat × Nat) : Bool := b.1 < a.1 || (a.1 = b.1 && b.2 < a.2)

/-- Take a role: on taking PRIMARY every reserved use counts as spent (R152, R329). -/
def takeRole (s : State) (d : Nat) (x : Domain) : State :=
  let was := (domainOf s d).role
  let s := putRole s d x
  if x.role = 1 && was != 1 then updDomainKeys s d spendMarks else s

/-- A version raised, with the PRIMARY it names; `last` the LAST_SEQ of a HANDOVER (R329). -/
def raiseVersion (s : State) (d : Nat) (v : Nat × Nat) (primary : Nat) (last : Option Nat) : State :=
  let x := domainOf s d
  let mine := s.cluster.self = some primary
  let wait := match last with
    | some n => decide (x.seq < n)
    | none => false
  takeRole s d { x with epoch := v.1, step := v.2, primary := primary, role := if !mine then 3 else if wait then 2 else 1,
                        awaitSeq := if mine && wait then last.getD 0 else 0 }

/-- The primary a member holds for a domain it holds. -/
def heldPrimary (s : State) (d : Nat) : Option Nat :=
  let x := domainOf s d
  if x.state = .unused || x.role = 0 then none else some x.primary

/-! ## Applying a statement (R321, R323, R331) -/

/-- Leave the cluster: every replicated domain is erased, MEK, table and epoch are discarded (R323). -/
def leaveCluster (s : State) : State :=
  let ds := (s.ks.domains.filter (fun e => e.2.role != 0)).map (fun e => e.1)
  let s := ds.foldl eraseDomain s
  { s with cluster := ClusterState.init, ks := { s.ks with cache := s.ks.cache.filter (fun e => e.kind != 4) } }

/-- Change the entry of a statement's subject. -/
def applyEntry (c : ClusterState) (b : Bytes) : ClusterState :=
  let n := stSubject b
  let c := { c with epoch := stEpoch b, hash := stHash b }
  let st := fun (k : Nat) =>
    { c with table := c.table.map (fun e => if e.1 = n then (e.1, { e.2 with state := k, epoch := stEpoch b }) else e) }
  match stAction b with
  | 1 => { c with table := mapPut c.table n { state := 1, epoch := stEpoch b, mekHash := sha384 (mcMekPub (stCert b)) } }
  | 2 => { c with table := mapPut c.table n { state := 1, epoch := stEpoch b, mekHash := sha384 (mcMekPub (stCert b)) } }
  | 3 => st 2
  | 4 => st 3
  | _ => c

/-- Whether a statement takes the applier out of the cluster (R323). -/
def leavesMe (c : ClusterState) (b : Bytes) : Bool :=
  c.self = some (stSubject b)
    && (stAction b = 3 || stAction b = 4 || (stAction b = 2 && mcMekPub (stCert b) != c.mekPub))

/-- E saturated: COUNTER_SAT is recorded (R6, R319). -/
def epochSat (s : State) : State := if s.cluster.epoch = 2 ^ 64 - 1 then occur s 0x301 0 0 0x01FF0003 else s

/-- Apply a statement that passed its checks. -/
def applyStatement (s : State) (b : Bytes) : State :=
  if leavesMe s.cluster b then leaveCluster s
  else
    let s := epochSat { s with cluster := applyEntry s.cluster b }
    if stAction b = 5 && (domainOf s (stDomain b)).state != .unused then
      raiseVersion s (stDomain b) (stEpoch b, 0) (stSubject b) none
    else s

/-- A failed content check (R333). -/
def clFail (reason : Nat) : Outcome := { (outStatus stVERIFY_FAILED) with result := reason }

/-- The first statement a device with a MEK and no epoch accepts: the reason and, where it is 0, the membership it starts from (R324). -/
def firstStatement (s : State) (b image : Bytes) : Nat × ClusterState :=
  let c := s.cluster
  if stAction b = 1 then
    (firstReason
      [(stCert b != c.cert, 2), (mcOwner (stCert b) != hashBytes (ownerKeyHash s), 3), (1 < stEpoch b, 4),
       (stEpoch b != 1 || !allZero b 0x20 48 || !allZero b 0x60 48 || stActive b != 0, 5),
       (!mcSigned (stCert b) || !ecdsaVerify P384 c.mekPub (hashBytes (sha384 (stSigned b))) (stSig b), 6), (stEndorsers b != 0, 7)],
     { c with self := some (stSubject b) })
  else
    let t : ClusterState := { c with epoch := stEpoch b - 1, hash := BitVec.ofNat 384 (beNat (stPrev b)), table := tableOf image }
    let r := firstReason [(stAction b != 2, 8), (stCert b != c.cert, 2), (image.length != 2 ^ 20, 1),
      (sha384 image != BitVec.ofNat 384 (beNat (stTable b)), 5)]
    (if r != 0 then r else stReason s t b true, { t with self := some (stSubject b) })

/-- CL_APPLY_EPOCH at END (R321, R324, R333). -/
def effApplyEpoch (s : State) (b : Bytes) : State × Outcome :=
  let c := s.cluster
  let n := 608 + 194 * stEndorsers b
  let image := b.drop n
  if !stForm b (min n b.length) || !(image.isEmpty || image.length = 2 ^ 20) then (s, clFail 1)
  else if c.mek.isNone || stCid b != c.cid || c.cid = zeros 16 then (s, clFail 2)
  else if c.epoch = 0 then
    match firstStatement s b image with
    | (0, c) =>
      let s := epochSat { s with cluster := applyEntry c b }
      (s, outResult s.cluster.epoch)
    | (r, _) => (s, clFail r)
  else if stEpoch b ≤ c.epoch then (s, outResult c.epoch)
  else
    match stReason s c b true with
    | 0 => (applyStatement s b, outResult (stEpoch b))
    | r => (s, clFail r)

/-- CL_FOUND at END (R317, R332). -/
def effFound (s : State) : State × Outcome :=
  if s.cluster.mek.isNone || s.cluster.cid != zeros 16 || s.cluster.epoch != 0 then (s, clFail 2)
  else
    let (n, s) := draw s 128
    let cid := leBytes (max 1 n) 16
    let (cert, s) := memberCert s cid s.cluster.mekPub
    let s := { s with cluster := { s.cluster with cid := cid, cert := cert } }
    let (b, s) := stIssue s { action := 1, domain := 0, cid := cid, epoch := 1, prev := zeros 48, subject := 0, issuer := 0, active := 0,
                              table := zeros 48, cert := cert }
    ({ s with cluster := { applyEntry s.cluster b with self := some 0 } }, outData 1 b)

/-- Whether a PROMOTE is refused while the primary held is ACTIVE (R331). -/
def promoteRefused (s : State) (b : Bytes) : Bool :=
  stAction b = 5 && ((heldPrimary s (stDomain b)).map (activeMember s.cluster)).getD false

/-- Whether another statement of the epoch was endorsed (R322). -/
def endorsedOther (c : ClusterState) (epoch : Nat) (h : Option Hash) : Bool :=
  match mapGet? c.endorsed epoch with
  | none => false
  | some x => some x != h

/-- The reason a JOIN request is refused for: certificate, then DeviceID certificate under the product CA (R305, R332). -/
def joinReason (s : State) (input : Bytes) : Nat :=
  let m := input.take 368
  let der := input.drop 368
  firstReason
    [(!mcForm m, 1), (mcCid m != s.cluster.cid, 2), (mcOwner m != hashBytes (ownerKeyHash s), 3),
     (!mcSigned m || !Config.certSigned der (Config.factoryCert 1) || Config.certKey der != mcDevPub m, 6)]

/-- CL_ISSUE at END: the statement for epoch E + 1 (R320, R322, R332). A saturated E takes no further statement (R334). -/
def effIssue (s : State) (action subject domain : Nat) (input : Bytes) : State × Outcome :=
  let c := s.cluster
  let x : StIn := { action := action, domain := domain, cid := c.cid, epoch := c.epoch + 1, prev := hashBytes c.hash, subject := subject,
                    issuer := c.self.getD 0, active := activeCount c, table := hashBytes (sha384 (tableImage c)),
                    cert := if action = 2 then input.take 368 else zeros 368 }
  let r := firstReason
    [(c.mek.isNone || c.epoch = 0 || c.self.isNone, 2), (action = 2 && joinReason s input != 0, joinReason s input),
     (c.epoch = 2 ^ 64 - 1, 4), (actionFails c (stBytes x) || promoteRefused s (stBytes x), 8), (endorsedOther c (c.epoch + 1) none, 9)]
  if r != 0 then (s, clFail r)
  else
    let (b, s) := stIssue s x
    (s, outData (c.epoch + 1) b)

/-- CL_ENDORSE at END (R321, R322, R331). -/
def effEndorse (s : State) (b : Bytes) : State × Outcome :=
  let c := s.cluster
  if !stForm b 608 then (s, clFail 1)
  else if c.mek.isNone || c.epoch = 0 || c.self.isNone || stCid b != c.cid then (s, clFail 2)
  else
    let r := stReason s c b false
    let r := if r != 0 then r else if promoteRefused s b then 8 else if endorsedOther c (stEpoch b) (some (stHash b)) then 9 else 0
    if r != 0 then (s, clFail r)
    else
      let (g, s) := mekSign s (stSigned b)
      ({ s with cluster := { s.cluster with endorsed := mapPut s.cluster.endorsed (stEpoch b) (stHash b) } },
       outData (stEpoch b) (leBytes (c.self.getD 0) 2 ++ c.mekPub ++ g))

/-! ## Replication bundles (R327, R328) -/

/-- The wrap key of a bundle from its first 0x70 bytes (R327). -/
def bundleKey (mek pub b : Bytes) : Bytes :=
  hkdf384 (slice b 0x50 32) (ecdhX P384 mek ([0x04] ++ pub)) ([0x46, 0x4B, 0x52, 0x42] ++ b.take 0x50) 32

/-- A bundle of a kind for a recipient. -/
def sealBundle (s : State) (kind d rcpt : Nat) (pub : Bytes) : Bytes × State :=
  let c := s.cluster
  let x := domainOf s d
  let v := heldVersion s x
  let (salt, s) := drawBytes (kcUse (kcUse s 4 0) 1 d) 32
  let (iv, s) := drawBytes s 12
  let h := [0x46, 0x4B, 0x52, 0x42, 0x01] ++ leBytes kind 1 ++ leBytes d 2 ++ c.cid ++ leBytes c.epoch 8 ++ leBytes v.1 8 ++ leBytes v.2 4
    ++ leBytes (c.self.getD 0) 2 ++ leBytes rcpt 2 ++ leBytes x.primary 2 ++ leBytes (domWorldOf s d) 1 ++ zeros 5 ++ leBytes x.storeId 8
    ++ leBytes (ackMark s d) 8 ++ leBytes (if kind = 2 then x.seq else 0) 8 ++ salt ++ iv ++ zeros 4
  let b := h ++ gcmSeal (bundleKey (c.mek.getD []) pub h) iv h ((domKey s 1 d).getD []) ++ c.mekPub
  let (g, s) := mekSign s b
  (b ++ g, s)

/-- The ACTIVE member a certificate is of. -/
def rcptOf (c : ClusterState) (m : Bytes) : Option Nat :=
  (c.table.find? (fun e => e.2.state = 1 && e.2.mekHash = sha384 (mcMekPub m))).map (fun e => e.1)

/-- The reason a recipient's certificate is refused for. -/
def rcptReason (s : State) (m : Bytes) : Nat :=
  let c := s.cluster
  firstReason
    [(!mcForm m, 1), (c.mek.isNone || c.epoch = 0 || c.self.isNone || mcCid m != c.cid, 2), (mcOwner m != hashBytes (ownerKeyHash s), 3),
     (!mcSigned m, 6), ((rcptOf c m).isNone, 2)]

/-- An unclustered domain becomes the cluster's when its first bundle is sealed (R325). -/
def clusterDomain (s : State) (d : Nat) : State :=
  let x := domainOf s d
  if x.role = 0 then putRole s d { x with role := 1, epoch := s.cluster.epoch, step := 0, primary := s.cluster.self.getD 0 } else s

/-- CL_SEAL_BUNDLE at END (R325, R327, R332). -/
def effSealBundle (s : State) (d : Nat) (m : Bytes) : State × Outcome :=
  match rcptReason s m with
  | 0 =>
    let (b, s) := sealBundle (clusterDomain s d) 1 d ((rcptOf s.cluster m).getD 0) (mcMekPub m)
    (s, outData 0 b)
  | r => (s, clFail r)

/-- CL_HANDOVER at END (R330). -/
def effHandover (s : State) (d : Nat) (m : Bytes) : State × Outcome :=
  match rcptReason s m with
  | 0 =>
    let n := (rcptOf s.cluster m).getD 0
    let x := domainOf s d
    let s := putRole s d { x with step := x.step + 1, role := 3, primary := n }
    let (b, s) := sealBundle s 2 d n (mcMekPub m)
    (s, outData (x.step + 1) b)
  | r => (s, clFail r)

/-- Whether a bundle has its form for a domain. -/
def bundleForm (b : Bytes) (d : Nat) : Bool :=
  b.length = 368 && slice b 0 5 = [0x46, 0x4B, 0x52, 0x42, 0x01] && (byteAt b 5 = 1 || byteAt b 5 = 2) && leAt b 6 2 = d && allZero b 0x33 5
    && allZero b 0x7C 4 && (byteAt b 5 = 2 || allZero b 0x48 8)

/-- The DMK a bundle holds, when its TAG verifies. -/
def bundleDmk (s : State) (b : Bytes) : Option Bytes :=
  gcmOpen (bundleKey (s.cluster.mek.getD []) (slice b 0xB0 96) b) (slice b 0x70 12) (b.take 0x80) (slice b 0x80 32) (slice b 0xA0 16)

/-- The reason a bundle is refused for before versions are compared (R328, R333). -/
def bundleReason (s : State) (d : Nat) (b : Bytes) : Nat :=
  let c := s.cluster
  let snd := leAt b 0x2C 2
  firstReason
    [(!bundleForm b d, 1), (c.mek.isNone || c.epoch = 0 || slice b 8 16 != c.cid || c.self != some (leAt b 0x2E 2), 2),
     (c.epoch < leAt b 0x18 8, 10),
     (!activeMember c snd || !((memberOf c snd).map (fun m => decide (m.mekHash = sha384 (slice b 0xB0 96)))).getD false, 11),
     (!ecdsaVerify P384 (slice b 0xB0 96) (hashBytes (sha384 (b.take 0x110))) (slice b 0x110 96) || (bundleDmk s b).isNone, 6),
     (byteAt b 0x32 != domWorldOf s d, 14)]

/-- Raise the acknowledgement mark of a domain. -/
def raiseAck (s : State) (d n : Nat) : State :=
  { s with tamper := { s.tamper with ackMarks := mapSet s.tamper.ackMarks d (max (ackMark s d) n) 0 } }

/-- CL_APPLY_BUNDLE at END (R328, R329). -/
def effApplyBundle (s : State) (d : Nat) (b : Bytes) : State × Outcome :=
  let v := (leAt b 0x20 8, leAt b 0x28 4)
  let prim := leAt b 0x30 2
  let x := domainOf s d
  let dmk := (bundleDmk s b).getD []
  let hand := byteAt b 5 = 2
  let mine := s.cluster.self = some prim
  let s := kcUse s 4 0
  match bundleReason s d b with
  | 0 =>
    if x.state = .unused then
      let s := raiseAck { s with tamper := { s.tamper with ackMarks := mapErase s.tamper.ackMarks d } } d (leAt b 0x40 8)
      (installDomain s d dmk { Domain.unusedDom with
        state := .awaiting, storeId := leAt b 0x38 8, role := if hand && mine then 2 else 3, epoch := v.1, step := v.2, primary := prim,
        awaitSeq := if hand && mine then leAt b 0x48 8 else 0 }, outResult 0)
    else if leAt b 0x38 8 != x.storeId || domKey s 1 d != some dmk then (s, clFail 13)
    else if laterVersion v (heldVersion s x) then
      (raiseVersion (raiseAck s d (leAt b 0x40 8)) d v prim (if hand then some (leAt b 0x48 8) else none), outResult 0)
    else if v = heldVersion s x then
      (if x.role = 0 || prim = x.primary then (s, outResult 1) else (s, clFail 12))
    else (s, outResult 2)
  | r => (s, clFail r)

/-- CL_REPLAY at END: records as RESTORE_DATA applies them; a PENDING member that reaches LAST_SEQ is PRIMARY (R181, R182, R326, R329). -/
def effReplay (s : State) (d : Nat) (b : Bytes) : State × Outcome :=
  match applyRecs s d (domainOf s d).seq 4096 b with
  | none => (s, outStatus stVERIFY_FAILED)
  | some (s, last) =>
    let s := updDomain s d (fun x => { x with seq := last })
    let x := domainOf s d
    let s := if (reachPrimary x).role != x.role then takeRole s d (reachPrimary x) else s
    (((domObjs s d).filter (fun o => o.attr.testBit 1 && !hasTable s o.handle && !s.ks.builds.any (fun v => v.handle = o.handle))).foldl
      (fun t o => askBuild t o.handle) s, outResult last)

/-- The effect of a cluster opcode at END. -/
def effCluster (s : State) (op d a b c : Nat) (input : Bytes) (out : Outcome) : State × Outcome :=
  match op with
  | 0xA1 => effMemberRequest s input
  | 0xA2 => effFound s
  | 0xA3 => effIssue s a b c input
  | 0xA4 => effEndorse s input
  | 0xA5 => effApplyEpoch s input
  | 0xA7 => effSealBundle s d input
  | 0xA8 => effHandover s d input
  | 0xA9 => effApplyBundle s d input
  | 0xAA => effReplay s d input
  | _ => (s, out)

/-! ## The opcodes (R332, R333) -/

/-- Check 5: both tile classes serve the Sealed world. -/
def clTiles (s : State) (t : TagEntry) (go : State) : State :=
  match needSealedTiles s with
  | some o => failTag s t o
  | none => go

/-- Start an opcode on a public-key tile and a cipher/hash tile of the Sealed world, on which every cluster command runs. -/
def clRun (s : State) (t : TagEntry) (r : Run) (f : State → (Outcome × Effect) × State) : State :=
  clTiles s t (startIn s t r 1 1 0 (some (seOpcode t.entry, 0)) f)

/-- Start an opcode whose effect is made at END from its input. -/
def clStart (s : State) (t : TagEntry) (r : Run) (op a b c : Nat) : State :=
  clRun s t r (fun s =>
    (withInput r (seInLen t.entry) (fun i => (outStatus stOK, .cluster op (seDomain t.entry) a b c i)), s))

/-- KEY_DOMAIN by role: CL_HANDOVER on a member that is not PRIMARY, CL_REPLAY on the PRIMARY. -/
def clRole (s : State) (t : TagEntry) (primary : Bool) : Option Outcome :=
  chk (decide ((domainOf s (seDomain t.entry)).role = 1) != primary) (outStatus stKEY_DOMAIN)

/-- The 64-byte status (R332). -/
def clStatus (c : ClusterState) : Bytes :=
  leBytes c.epoch 8 ++ leBytes (c.self.getD 0xFFFF) 2 ++ leBytes (activeCount c) 2 ++ zeros 4 ++ sliceZ c.cid 0 16 ++ (hashBytes c.hash).take 32

/-- The checks of CL_STATUS, in order. -/
def chkClStatus (t : TagEntry) : List (Option Outcome) :=
  [spareOperands t.entry [], shortOut t.entry 64]

/-- CL_STATUS once its checks pass. -/
def goClStatus (r : Run) (s : State) (t : TagEntry) : State :=
  clRun s t r (fun s => ((outData s.cluster.epoch (clStatus s.cluster), .nothing), s))

/-- CL_STATUS. -/
def execClStatus (r : Run) (s : State) : Res := checked s r 0xA0 chkClStatus (goClStatus r s)

/-- The checks of CL_MEMBER_REQUEST, in order. -/
def chkClMemberRequest (t : TagEntry) : List (Option Outcome) :=
  [spareOperands t.entry [(0x40, 16)], shortOut t.entry 368, pfOnly t]

/-- CL_MEMBER_REQUEST once its checks pass. -/
def goClMemberRequest (r : Run) (s : State) (t : TagEntry) : State :=
  withQuorum s t 8 [] (fun s => clRun s t r (fun s =>
    ((outStatus stOK, .cluster 0xA1 (seDomain t.entry) 0 0 0 (sliceZ t.entry 0x40 16)), s)))

/-- CL_MEMBER_REQUEST, under quorum (R317). -/
def execClMemberRequest (r : Run) (s : State) : Res := checked s r 0xA1 chkClMemberRequest (goClMemberRequest r s)

/-- The checks of CL_FOUND, in order. -/
def chkClFound (t : TagEntry) : List (Option Outcome) :=
  [spareOperands t.entry [], shortOut t.entry 608, pfOnly t]

/-- CL_FOUND once its checks pass. -/
def goClFound (r : Run) (s : State) (t : TagEntry) : State :=
  withQuorum s t 9 [] (fun s => clRun s t r (fun s =>
    ((outStatus stOK, .cluster 0xA2 (seDomain t.entry) 0 0 0 []), s)))

/-- CL_FOUND, under quorum (R332). -/
def execClFound (r : Run) (s : State) : Res := checked s r 0xA2 chkClFound (goClFound r s)

/-- The checks of CL_ISSUE, in order. -/
def chkClIssue (r : Run) (t : TagEntry) : List (Option Outcome) :=
  let e := t.entry
  let a := seOp e 0x40 2
  [spareOperands e [(0x40, 6)], badField (a < 2 || 5 < a) 0x40, badField (16384 ≤ seOp e 0x42 2) 0x42,
   badField (if a = 5 then 4096 ≤ seOp e 0x44 2 else seOp e 0x44 2 != 0) 0x44,
   badInLen (if a = 2 then seInLen e ≤ 368 else seInLen e != 0), shortOut e 608, pfOnly t,
   chk (a = 2 && r.input.isNone) (outStatus stDMA_ERROR)]

/-- CL_ISSUE once its checks pass. -/
def goClIssue (r : Run) (s : State) (t : TagEntry) : State :=
  let e := t.entry
  let a := seOp e 0x40 2
  let go := fun s => clStart s t r 0xA3 a (seOp e 0x42 2) (seOp e 0x44 2)
  if a = 3 then go s else withQuorum s t 10 (sliceZ (r.input.getD []) 0 (seInLen e)) go

/-- CL_ISSUE, under quorum except for LEAVE (R332, R538). -/
def execClIssue (r : Run) (s : State) : Res := checked s r 0xA3 (chkClIssue r) (goClIssue r s)

/-- The checks of CL_ENDORSE, in order. -/
def chkClEndorse (t : TagEntry) : List (Option Outcome) :=
  [spareOperands t.entry [], badInLen (seInLen t.entry != 608), shortOut t.entry 194, pfOnly t]

/-- CL_ENDORSE once its checks pass. -/
def goClEndorse (r : Run) (s : State) (t : TagEntry) : State :=
  clStart s t r 0xA4 0 0 0

/-- CL_ENDORSE (R322). -/
def execClEndorse (r : Run) (s : State) : Res := checked s r 0xA4 chkClEndorse (goClEndorse r s)

/-- The checks of CL_APPLY_EPOCH, in order. -/
def chkClApplyEpoch (t : TagEntry) : List (Option Outcome) :=
  let n := seInLen t.entry
  [spareOperands t.entry [],
   badInLen (!((608 ≤ n && (n - 608) % 194 = 0) || (608 + 2 ^ 20 ≤ n && (n - 608 - 2 ^ 20) % 194 = 0))), pfOnly t]

/-- CL_APPLY_EPOCH once its checks pass. -/
def goClApplyEpoch (r : Run) (s : State) (t : TagEntry) : State :=
  clStart s t r 0xA5 0 0 0

/-- CL_APPLY_EPOCH (R321, R324). -/
def execClApplyEpoch (r : Run) (s : State) : Res := checked s r 0xA5 chkClApplyEpoch (goClApplyEpoch r s)

/-- The checks of CL_MEMBER_READ, in order. -/
def chkClMemberRead (t : TagEntry) : List (Option Outcome) :=
  [spareOperands t.entry [(0x40, 2)], badField (16384 ≤ seOp t.entry 0x40 2) 0x40, shortOut t.entry 64]

/-- CL_MEMBER_READ once its checks pass. -/
def goClMemberRead (r : Run) (s : State) (t : TagEntry) : State :=
  clRun s t r (fun s =>
    let f := seOp t.entry 0x40 2
    ((outData s.cluster.epoch ((List.range (min (seOutLen t.entry / 64) (16384 - f))).flatMap (fun i => memberBytes (memberOf s.cluster (f + i)))),
      .nothing), s))

/-- CL_MEMBER_READ: entries from FIRST, as many as fit (R332). -/
def execClMemberRead (r : Run) (s : State) : Res := checked s r 0xA6 chkClMemberRead (goClMemberRead r s)

/-- The checks of CL_SEAL_BUNDLE, in order. -/
def chkClSealBundle (s : State) (t : TagEntry) : List (Option Outcome) :=
  [spareOperands t.entry [], badInLen (seInLen t.entry != 368), shortOut t.entry 368, needLive s t]

/-- CL_SEAL_BUNDLE once its checks pass. -/
def goClSealBundle (r : Run) (s : State) (t : TagEntry) : State :=
  whenKeys s t (clStart s t r 0xA7 0 0 0)

/-- CL_SEAL_BUNDLE (R325, R327). -/
def execClSealBundle (r : Run) (s : State) : Res := checked s r 0xA7 (chkClSealBundle s) (goClSealBundle r s)

/-- The checks of CL_HANDOVER, in order; a device that has left the cluster answers KEY_DOMAIN (R334; log entry 41). -/
def chkClHandover (s : State) (t : TagEntry) : List (Option Outcome) :=
  [spareOperands t.entry [], badInLen (seInLen t.entry != 368), shortOut t.entry 368, chk s.cluster.mek.isNone (outStatus stKEY_DOMAIN),
   needLive s t, clRole s t true]

/-- CL_HANDOVER once its checks pass. -/
def goClHandover (r : Run) (s : State) (t : TagEntry) : State :=
  if s.qm.tags.any (fun x => running x && seDomain x.entry = seDomain t.entry && opEffectful s (seOpcode x.entry)) then s
  else whenKeys s t (clStart s t r 0xA8 0 0 0)

/-- CL_HANDOVER: it waits until no effectful command of the domain is STARTED (R330). -/
def execClHandover (r : Run) (s : State) : Res := checked s r 0xA8 (chkClHandover s) (goClHandover r s)

/-- The checks of CL_APPLY_BUNDLE, in order. -/
def chkClApplyBundle (t : TagEntry) : List (Option Outcome) :=
  [spareOperands t.entry [], badInLen (seInLen t.entry != 368)]

/-- CL_APPLY_BUNDLE once its checks pass. -/
def goClApplyBundle (r : Run) (s : State) (t : TagEntry) : State :=
  clStart s t r 0xA9 0 0 0

/-- CL_APPLY_BUNDLE (R328). -/
def execClApplyBundle (r : Run) (s : State) : Res := checked s r 0xA9 chkClApplyBundle (goClApplyBundle r s)

/-- The checks of CL_REPLAY, in order. -/
def chkClReplay (s : State) (t : TagEntry) : List (Option Outcome) :=
  [spareOperands t.entry [], badInLen (seInLen t.entry = 0), needLive s t, clRole s t false]

/-- CL_REPLAY once its checks pass. -/
def goClReplay (r : Run) (s : State) (t : TagEntry) : State :=
  whenKeys s t (clStart s t r 0xAA 0 0 0)

/-- CL_REPLAY (R326). -/
def execClReplay (r : Run) (s : State) : Res := checked s r 0xAA (chkClReplay s) (goClReplay r s)

end Sys2Proof.Machine
end

