-- ==== Sys2Proof/Machine/Flags.lean ====
section
/-!
DEFINITION. Flags.lean: the results and flags of the Delpin operations (R370–R377, R391).
-/
namespace Sys2Proof.Machine

/-- NZVC. -/
structure Flags where
  n : Bool
  z : Bool
  v : Bool
  c : Bool
  deriving DecidableEq, Repr

/-- The width of an operand in bits and in bytes (R345). -/
def sizeBits (size : Nat) : Nat := 8 * 2 ^ size
def sizeBytes (size : Nat) : Nat := 2 ^ size

/-- The sign bit of a value of width w. -/
def signBit (w r : Nat) : Bool := r.testBit (w - 1)

/-- A value as a signed integer, and back. -/
def toSigned (w a : Nat) : Int := if signBit w a then (a : Int) - 2 ^ w else a
def ofSigned (w : Nat) (x : Int) : Nat := (x % 2 ^ w).toNat

/-- All ones. -/
def onesOf (w : Nat) : Nat := 2 ^ w - 1

/-- Class L (R371). -/
def flagsL (f : Flags) (w r : Nat) : Flags := { n := signBit w r, z := r = 0, v := false, c := f.c }

/-- Class L on a result. -/
def resL (f : Flags) (w r : Nat) : Nat × Flags := (r, flagsL f w r)

/-- a + b + carry with class A flags. -/
def addA (w a b cin : Nat) : Nat × Flags :=
  let r := (a + b + cin) % 2 ^ w
  (r, { n := signBit w r, z := r = 0, v := signBit w a = signBit w b && signBit w r != signBit w a, c := decide (2 ^ w ≤ a + b + cin) })

/-- a − b − borrow with class A flags: C is 1 when no borrow occurs. -/
def subA (w a b bin : Nat) : Nat × Flags :=
  let r := (a + 2 * 2 ^ w - b - bin) % 2 ^ w
  (r, { n := signBit w r, z := r = 0, v := signBit w a != signBit w b && signBit w r != signBit w a, c := decide (b + bin ≤ a) })

/-- Class X: Z falls when the result is not zero and otherwise stands. -/
def classX (f : Flags) (x : Nat × Flags) : Nat × Flags := (x.1, { x.2 with z := x.1 = 0 && f.z })

/-- The carry flag as a number. -/
def carry (f : Flags) : Nat := if f.c then 1 else 0

/-- Class S: the last bit moved out; C stands when the amount is 0. -/
def resS (f : Flags) (w r k : Nat) (out : Bool) : Nat × Flags :=
  (r, { n := signBit w r, z := r = 0, v := false, c := if k = 0 then f.c else out })

/-- Shifts and rotates of a by k < w. -/
def shlS (f : Flags) (w a k : Nat) : Nat × Flags := resS f w (a * 2 ^ k % 2 ^ w) k (a.testBit (w - k))
def shrS (f : Flags) (w a k : Nat) : Nat × Flags := resS f w (a / 2 ^ k) k (a.testBit (k - 1))
def sarS (f : Flags) (w a k : Nat) : Nat × Flags := resS f w (ofSigned w (toSigned w a / 2 ^ k)) k (a.testBit (k - 1))
def rolS (f : Flags) (w a k : Nat) : Nat × Flags := resS f w ((a * 2 ^ k % 2 ^ w) + a / 2 ^ (w - k)) k (a.testBit (w - k))
def rorS (f : Flags) (w a k : Nat) : Nat × Flags := resS f w (a / 2 ^ k + a * 2 ^ (w - k) % 2 ^ w) k (a.testBit (k - 1))

/-- Class M: the low half of the product; V and C when it does not fit. -/
def mulM (w a b : Nat) : Nat × Flags :=
  let r := a * b % 2 ^ w
  (r, { n := signBit w r, z := r = 0, v := decide (2 ^ w ≤ a * b), c := decide (2 ^ w ≤ a * b) })

/-- The high half of the signed product. -/
def mulHigh (w a b : Nat) : Nat := ofSigned w (toSigned w a * toSigned w b / 2 ^ w)

/-- Class D on a quotient or remainder. -/
def resD (w r : Nat) (v : Bool) : Nat × Flags := (r, { n := signBit w r, z := r = 0, v := v, c := false })

/-- The most negative value of a width. -/
def mostNeg (w : Nat) : Nat := 2 ^ (w - 1)

/-- DIVS: truncated toward zero; the most negative value by −1 gives itself with V (R372). -/
def divSigned (w a b : Nat) : Nat × Flags :=
  if a = mostNeg w ∧ b = onesOf w then resD w (mostNeg w) true
  else resD w (ofSigned w ((toSigned w a).tdiv (toSigned w b))) false

/-- REMS: the sign of a; the most negative value mod −1 gives 0 (R372). -/
def remSigned (w a b : Nat) : Nat × Flags := resD w (ofSigned w ((toSigned w a).tmod (toSigned w b))) false

/-- Leading zero bits. -/
def leadingZeros (w a : Nat) : Nat := w - ((List.range w).filter (fun i => a / 2 ^ i != 0)).length

/-- The bytes of a value in reverse order. -/
def swapBytes (w a : Nat) : Nat := leAt (leBytes a (w / 8)).reverse 0 (w / 8)

/-- Sign or zero extension of the low k bits into width w (EXT). -/
def extendTo (w k a : Nat) (signed : Bool) : Nat := if signed then ofSigned w (toSigned k (a % 2 ^ k)) else a % 2 ^ k

/-- Class T: Z alone. -/
def flagsT (f : Flags) (holds : Bool) : Flags := { f with z := holds }

/-- All ones when a comparison holds, with class T flags. -/
def resT (f : Flags) (w : Nat) (holds : Bool) : Nat × Flags := (if holds then onesOf w else 0, flagsT f holds)

/-- A condition on NZVC (R354); 15 is reserved. -/
def condHolds (f : Flags) (cond : Nat) : Bool :=
  match cond with
  | 0 => true
  | 1 => f.z
  | 2 => !f.z
  | 3 => f.c
  | 4 => !f.c
  | 5 => f.n
  | 6 => !f.n
  | 7 => f.v
  | 8 => !f.v
  | 9 => f.c && !f.z
  | 10 => !f.c || f.z
  | 11 => f.n = f.v
  | 12 => f.n != f.v
  | 13 => !f.z && f.n = f.v
  | 14 => f.z || f.n != f.v
  | _ => false

end Sys2Proof.Machine
end

