-- ==== Sys2Proof/Machine/Operands.lean ====
section
/-!
DEFINITION. Operands.lean: Delpin cores, their banks and status, and the operand forms of long instructions (R335–R345, R355–R360).
-/
namespace Sys2Proof.Machine

/-! ## Cores and banks -/

/-- Whether the warden cores run in lockstep (R413). -/
def inLockstep (s : State) : Bool := getF s F.WCORE_STATUS_ARR = 0

/-- The state of a core. -/
def getCore (s : State) (c : CoreId) : DCore :=
  match c with
  | .a => (s.warden[0]?).getD DCore.warden
  | .b => (s.warden[1]?).getD DCore.warden
  | .d i => (s.disp[i.val]?).getD (DCore.dispatch false)

/-- Set the state of a core; in lockstep both warden cores hold one programming model (R336). -/
def setCore (s : State) (c : CoreId) (x : DCore) : State :=
  match c with
  | .a => if inLockstep s then { s with warden := [x, x] } else { s with warden := s.warden.set 0 x }
  | .b => { s with warden := s.warden.set 1 x }
  | .d i => { s with disp := s.disp.set i.val x }

/-- Whether a core is a dispatch core. -/
def isDisp (c : CoreId) : Bool := match c with | .d _ => true | _ => false

/-- The number that CORE shows (R394). -/
def coreNumber (c : CoreId) : Nat := match c with | .a => 0 | .b => 1 | .d i => 0x10 + i.val

/-- The MPU and master of a core (R422): in lockstep master 0 alone. -/
def coreMaster (c : CoreId) : Nat × Nat := match c with | .a => (0, 0) | .b => (0, 1) | .d i => (1, i.val)

/-- Whether a core runs instructions: a warden core once the boot ROM runs, B only after a take-over; a dispatch core that is active. -/
def coreRuns (s : State) (c : CoreId) : Bool :=
  let x := getCore s c
  !x.stopped && (match c with
    | .a => geckoUp s && s.power.phase != .off && s.power.phase != .held && getF s F.WCORE_STATUS_STATE_A != 3
    | .b => geckoUp s && s.power.phase != .off && s.power.phase != .held && getF s F.WCORE_STATUS_STATE_B = 1
    | .d i => landauUp s && (getF s (F.STRUCT_DISPMAP_ACTIVE (i.val / 5))).testBit (i.val % 5))

/-- The scopes a warden core is halted under: bit 0 OPEN_WORLD, bit 1 SEALED_WORLD; 0 for none (R583). -/
def haltScopes (s : State) (c : CoreId) : Nat :=
  match c with
  | .a => mapGet s.dbg.halted 0 0
  | .b => mapGet s.dbg.halted 1 0
  | .d _ => 0

/-- Whether a core is halted by debug in the world it runs in (R580, R583). -/
def coreHalted (s : State) (c : CoreId) : Bool := (haltScopes s c).testBit (if (getCore s c).w then 1 else 0)

/-- The flags of a core, and a core with other flags. -/
def DCore.flags (x : DCore) : Flags := { n := x.n, z := x.z, v := x.v, c := x.c }
def DCore.setFlags (x : DCore) (f : Flags) : DCore := { x with n := f.n, z := f.z, v := f.v, c := f.c }

/-- The number of a bank: 2 × W + L. -/
def bankNo (w l : Bool) : Nat := (if w then 2 else 0) + (if l then 1 else 0)

/-- A bank, and a core with another bank (R337). -/
def DCore.bank (x : DCore) (w l : Bool) : Bank := (x.banks[bankNo w l]?).getD Bank.init
def DCore.setBank (x : DCore) (w l : Bool) (b : Bank) : DCore := { x with banks := x.banks.set (bankNo w l) b }

/-- The active bank. -/
def DCore.active (x : DCore) : Bank := x.bank x.w x.l

/-- Address and segment registers of a bank. -/
def Bank.areg (b : Bank) (r : Nat) : W64 := (b.a[r]?).getD 0
def Bank.seg (b : Bank) (r : Nat) : SegDesc := (b.sg[r]?).getD SegDesc.invalid
def Bank.setA (b : Bank) (r : Nat) (v : W64) : Bank := { b with a := b.a.set r v }
def Bank.setSeg (b : Bank) (r : Nat) (d : SegDesc) : Bank := { b with sg := b.sg.set r d }

/-- Address registers of the active bank. -/
def DCore.areg (x : DCore) (r : Nat) : W64 := x.active.areg r
def DCore.setA (x : DCore) (r : Nat) (v : W64) : DCore := x.setBank x.w x.l (x.active.setA r v)

/-- The control registers of a world. -/
def DCore.ctlOf (x : DCore) (w : Bool) : CtlRegs := (x.ctl[if w then 1 else 0]?).getD CtlRegs.init
def DCore.setCtl (x : DCore) (w : Bool) (r : CtlRegs) : DCore := { x with ctl := x.ctl.set (if w then 1 else 0) r }

/-- A one-bit value at a place. -/
def bitAt (b : Bool) (i : Nat) : Nat := if b then 2 ^ i else 0

/-- PS as a word: B reads BUSY of the world in W (R338, R396). -/
def DCore.psWord (x : DCore) : Nat :=
  bitAt x.w 15 + bitAt x.l 14 + x.m % 8 * 256 + bitAt (x.ctlOf x.w).busy 7 + bitAt x.n 3 + bitAt x.z 2 + bitAt x.v 1 + bitAt x.c 0

/-- The PC after an instruction of n words; the handler's first instruction is over (R402). -/
def DCore.advance (x : DCore) (n : Nat) : DCore := { x with pc := x.pc + BitVec.ofNat 32 (4 * n), fresh := false }

/-! ## Segment descriptors (R340) -/

def SegDesc.valid (d : SegDesc) : Bool := d.attr.testBit 0
def SegDesc.canRead (d : SegDesc) : Bool := d.attr.testBit 1 && !d.attr.testBit 4
def SegDesc.canWrite (d : SegDesc) : Bool := d.attr.testBit 2
def SegDesc.canFetch (d : SegDesc) : Bool := d.attr.testBit 3
def SegDesc.world (d : SegDesc) : Bool := d.attr.testBit 5
def SegDesc.minLevel (d : SegDesc) : Bool := d.attr.testBit 6

/-- A descriptor as its 16 bytes. -/
def SegDesc.bytes (d : SegDesc) : Bytes := leBytes d.base 8 ++ leBytes d.limit 4 ++ leBytes d.attr 4

/-- A descriptor from 16 bytes, and whether LSEG takes it in a world (R341). -/
def segOfBytes (b : Bytes) : SegDesc := { base := leAt b 0 8, limit := leAt b 8 4, attr := leAt b 12 4 }
def segLoads (d : SegDesc) (w : Bool) : Bool :=
  d.base < 2 ^ 40 && d.attr < 128 && (!d.attr.testBit 4 || d.attr.testBit 3) && !(d.attr.testBit 2 && d.attr.testBit 3) && d.world = w

/-! ## Specifiers (R355–R359) -/

/-- Words of a specifier with its extension words. -/
def specWords (p : OpSpec) (size : Nat) : Nat :=
  match p.mode.toNat with
  | 8 => 2
  | 11 => if size = 3 then 3 else 2
  | _ => 1

/-- Whether a specifier breaks its mode's form: a reserved mode, a field that is not zero though unused, D21[15] in mode 5. -/
def specBad (p : OpSpec) : Bool :=
  let d := p.d21.toNat
  match p.mode.toNat with
  | 0 => p.seg.val != 0 || d != 0
  | 1 => d != 0
  | 2 => false
  | 3 => d != 0
  | 4 => d != 0
  | 5 => d.testBit 15
  | 6 => false
  | 7 => p.reg.val != 0
  | 8 => p.reg.val != 0 || d != 0
  | 9 => p.reg.val != 0 || p.seg.val != 0
  | 10 => p.reg.val != 0 || p.seg.val != 0
  | 11 => p.reg.val != 0 || p.seg.val != 0 || d != 0
  | _ => true

/-- The register a specifier increments or decrements. -/
def specMoves (p : OpSpec) : Option Nat := if p.mode.toNat = 3 ∨ p.mode.toNat = 4 then some p.reg.val else none

/-- The registers two specifiers name stand in conflict (R359): both move one, or one moves what the other names in mode 0. -/
def specClash (p q : OpSpec) : Bool :=
  match specMoves p with
  | none => false
  | some r => specMoves q = some r || (q.mode.toNat = 0 && q.reg.val = r)

/-- Whether some pair of specifiers stands in conflict. -/
def specsClash : List OpSpec → Bool
  | [] => false
  | p :: t => t.any (fun q => specClash p q || specClash q p) || specsClash t

/-- The displacement of a specifier, sign-extended. -/
def specDisp (p : OpSpec) : Int := p.d21.toInt

/-- The effective offset of a specifier (R346, R358), the pointer's own offset in mode 6; `bytes` is the operand's size. -/
def specOffset (x : DCore) (p : OpSpec) (bytes : Nat) : Int :=
  let r := (x.areg p.reg.val).toInt
  let d := p.d21.toNat
  match p.mode.toNat with
  | 1 => r
  | 2 => r + specDisp p
  | 3 => r
  | 4 => r - bytes
  | 5 => r + (x.areg (d / 2 ^ 18 % 8)).toInt * 2 ^ (d / 2 ^ 16 % 4) + toSigned 15 (d % 2 ^ 15)
  | 6 => r + specDisp p
  | 7 => d
  | 8 => p.ext.toNat % 2 ^ 32
  | 9 => x.pc.toNat + specDisp p
  | _ => 0

/-- The value of an immediate of a width (R358). -/
def specImm (p : OpSpec) (w : Nat) : Nat :=
  if p.mode.toNat = 10 then ofSigned w (specDisp p) else p.ext.toNat % 2 ^ w

/-- The segment register a specifier uses. -/
def specSeg (p : OpSpec) : Nat := if p.mode.toNat = 9 then 0 else p.seg.val

/-- Post-increments and pre-decrements applied to a core, modulo 2^64 (R346). -/
def specMove (x : DCore) (p : OpSpec) (bytes : Nat) : DCore :=
  match p.mode.toNat with
  | 3 => x.setA p.reg.val (x.areg p.reg.val + BitVec.ofNat 64 bytes)
  | 4 => x.setA p.reg.val (x.areg p.reg.val - BitVec.ofNat 64 bytes)
  | _ => x

/-- Whether a specifier's mode lies in a range. -/
def modeIn (p : OpSpec) (lo hi : Nat) : Bool := lo ≤ p.mode.toNat && p.mode.toNat ≤ hi

/-- A and B go on with the same state, then B waits in its Sealed supervisor bank (R413). -/
def splitCores (s : State) : State :=
  if geckoUp s && inLockstep s then
    let x := getCore s .a
    let s := setF (setF (setF (setF s F.WCORE_CTRL_SPLIT 1) F.WCORE_STATUS_ARR 1) F.WCORE_STATUS_STATE_A 1) F.WCORE_STATUS_STATE_B 2
    { s with warden := [x, { x with w := true, l := true, waiting := true }] }
  else s

/-- WCORE_CTRL_SPLIT (R413). -/
def execWcoreCtrlSplit (s : State) : Res := .next (splitCores s)

end Sys2Proof.Machine
end

