-- ==== Sys2Proof/Machine/DebugPort.lean ====
section
/-!
DEFINITION. DebugPort.lean: boundary scan and debug unlock (R579–R583).
-/
namespace Sys2Proof.Machine

/-! ## Scopes (R580) -/

/-- The scopes a token of the state can open (R580). -/
def scopeMask (s : State) : Nat :=
  if s.fuse.shadow.debugOff then 0
  else match life s with
    | 0 => 15
    | 1 => 13
    | 3 => 15
    | _ => 0

/-- The scopes open: those granted, and SCAN in BLANK without a token (R580). -/
def scopesOpen (s : State) : Nat :=
  (getF s F.DEBUG_STATUS_OPEN &&& scopeMask s) ||| (if life s = 0 && !s.fuse.shadow.debugOff then 8 else 0)

/-- Whether a SUBMIT or a TAP instruction beyond IDCODE and BYPASS trips T11 (R582). -/
def debugTrips (s : State) : Bool := scopeMask s = 0 || 3 ≤ getF s F.DEBUG_STATUS_FAILS

/-- Whether the test access port is powered. -/
def tapUp (s : State) : Bool := geckoUp s && domainOn s 79

/-- Whether the Sealed firmware that answers a token runs. -/
def debugServed (s : State) : Bool := geckoUp s && s.power.phase != .off && s.power.phase != .held && s.power.phase != .romRecovery

/-! ## Boundary scan (R579) -/

/-- Put a TAP instruction in force, with the word its data register gives. -/
def tapSet (s : State) (i : TapInsn) (dr : W32) : State := { s with dbg := { s.dbg with tap := i, dr := dr } }

/-- The identification register: version 1, part 0x9400, manufacturer 0x4CC, bit 0 set (R579). -/
abbrev idcodeWord : W32 := 0x19400999

/-- IDCODE works in every state. -/
def execIdcode (s : State) : Res := .next (if tapUp s then tapSet s .idcode idcodeWord else s)

/-- BYPASS works in every state. -/
def execBypass (s : State) : Res := .next (if tapUp s then tapSet s .bypass 0 else s)

/-- Any other instruction: T11 where R582 says so; without the SCAN scope it acts as BYPASS. -/
def tapScan (s : State) (i : TapInsn) : Res :=
  .next (if !tapUp s then s
    else
      let t := tapSet s (if (scopesOpen s).testBit 3 then i else .bypass) 0
      if debugTrips s then tamperTrip t 11 else t)

/-- SAMPLE/PRELOAD, EXTEST, EXTEST_PULSE, EXTEST_TRAIN, HIGHZ. -/
def execSamplePreload (s : State) : Res := tapScan s .samplePreload
def execExtest (s : State) : Res := tapScan s .extest
def execExtestPulse (s : State) : Res := tapScan s .extestPulse
def execExtestTrain (s : State) : Res := tapScan s .extestTrain
def execHighz (s : State) : Res := tapScan s .highz

/-- DBGMBOX: reaches the nonce and the token registers; where every scope is closed, or after three refusals, it trips T11 and acts as BYPASS
(R581, R582). -/
def execDbgmbox (acc : MboxAcc) (s : State) : Res :=
  .next (if !tapUp s then s
    else if debugTrips s then tamperTrip (tapSet s .bypass 0) 11
    else match acc with
      | .readNonce n => tapSet s .dbgmbox (BitVec.ofNat 32 (getF s (F.DEBUG_NONCE_VALUE n.val)))
      | .writeToken n v => setF (tapSet s .dbgmbox v) (F.DEBUG_TOKEN_VALUE n.val) v.toNat)

/-! ## Unlock (R581, R582) -/

/-- The token as its registers hold it. -/
def tokenBytes (s : State) : Bytes := (List.range 80).flatMap (fun n => leBytes (getF s (F.DEBUG_TOKEN_VALUE n)) 4)

/-- The nonce as its registers hold it. -/
def nonceBytes (s : State) : Bytes := (List.range 8).flatMap (fun n => leBytes (getF s (F.DEBUG_NONCE_VALUE n)) 4)

/-- Draw a new nonce (R581). -/
def freshNonce (s : State) : State :=
  let (n, s) := drawBytes s 32
  (List.range 8).foldl (fun t i => setF t (F.DEBUG_NONCE_VALUE i) (leAt n (4 * i) 4)) s

/-- Whether a signer's key is the one the state takes a token from: Ohmolaku's in BLANK and RMA, the owner's in OWNED (R580). -/
def tokenSigner (s : State) (pub : Bytes) : Bool :=
  match life s with
  | 0 => sha384 pub = s.fuse.shadow.vendorHash
  | 1 => sha384 pub = ownerKeyHash s
  | 3 => sha384 pub = s.fuse.shadow.vendorHash
  | _ => false

/-- Whether the token verifies (R581). -/
def tokenOk (s : State) : Bool :=
  let b := tokenBytes s
  slice b 0 4 = [0x44, 0x42, 0x55, 0x4C] && slice b 8 32 = nonceBytes s && slice b 0x28 48 = hashBytes (deviceId s)
    && allZero b 0x58 8 && allZero b 0x120 32 && tokenSigner s (slice b 0x60 96)
    && ecdsaVerify P384 (slice b 0x60 96) (hashBytes (sha384 (b.take 0xC0))) (slice b 0xC0 96)

/-- SUBMIT: written from the TAP: the token waits, source 23 is raised; or T11 (R581, R582). -/
def execSubmit (s : State) : Res :=
  .next (if !tapUp s then s
    else if debugTrips s then tamperTrip s 11
    else raise (setF (setF s F.DEBUG_CTRL_SUBMIT 1) F.DEBUG_STATUS_PENDING 1) 23)

/-- The end of a token's verification: nothing pends, a new nonce is drawn. -/
def tokenEnds (s : State) : State := freshNonce (setF (setF s F.DEBUG_CTRL_SUBMIT 0) F.DEBUG_STATUS_PENDING 0)

/-- GRANT: Sealed firmware writes DEBUG_CTRL for a token it has verified; a wrong KEY is ignored; the scopes opened are those written, of the
token's SCOPE, that the state allows (R580, R581). -/
def execGrant (v : W32) (s : State) : Res :=
  .next (if !debugServed s || F.DEBUG_CTRL_KEY.ofWord v.toNat != 0x4442 || !isSet s F.DEBUG_STATUS_PENDING || !tokenOk s then s
    else
      let g := F.DEBUG_CTRL_GRANT.ofWord v.toNat &&& leAt (tokenBytes s) 4 4 &&& scopeMask s
      tokenEnds (setF s F.DEBUG_STATUS_OPEN (getF s F.DEBUG_STATUS_OPEN ||| g)))

/-- REFUSE: adds 1 to FAILS; a new nonce is drawn; a wrong KEY is ignored (R581, R582). -/
def execRefuse (v : W32) (s : State) : Res :=
  .next (if !debugServed s || F.DEBUG_CTRL_KEY.ofWord v.toNat != 0x4442 || !v.getLsbD 8 || !isSet s F.DEBUG_STATUS_PENDING then s
    else tokenEnds (bump s F.DEBUG_STATUS_FAILS F.DEBUG_STATUS_SAT))

/-! ## Halt (R580, R583) -/

/-- DEBUG_HALT: a running warden core is halted under OPEN_WORLD or SEALED_WORLD; under OPEN_WORLD alone the halt takes effect while the core
runs in the Open world. The core does not count as stopped. -/
def execDebugHalt (core : Fin 2) (s : State) : Res :=
  let o := scopesOpen s
  .next (if !tapUp s || o % 4 = 0 || !coreRuns s (if core.val = 0 then .a else .b) then s
    else { s with dbg := { s.dbg with halted := mapPut s.dbg.halted core.val (o % 4) } })

end Sys2Proof.Machine
end

