-- ==== Sys2Proof/Machine/EventRec.lean ====
section
/-!
DEFINITION. EventRec.lean: the layout of records and batches (R450, R502, R506), the recorder's own commands (R505–R510) and TIMEKEEP (R512).
-/
namespace Sys2Proof.Machine

/-- The 32 bytes of an event record (R502). -/
def evRecBytes (r : EvRec) : Bytes :=
  leBytes r.code 2 ++ leBytes r.flags 1 ++ leBytes r.unit 1 ++ leBytes r.part 1 ++ zeros 1 ++ leBytes r.rep 2 ++ leBytes r.optFirst 4
    ++ leBytes r.optLast 4 ++ leBytes r.pcycle 3 ++ zeros 1 ++ leBytes r.detail 4 ++ leBytes r.rtc 4 ++ zeros 4

/-- The commit line of an append-only area's record (R450). -/
def commitLine (seq : Nat) (lines : Bytes) : Bytes :=
  [0x46, 0x43, 0x4D, 0x54] ++ zeros 4 ++ leBytes seq 8 ++ (hashBytes (sha384 lines)).take 16 ++ List.replicate 4 0xFF#8

/-- The 256 bytes of a batch: seven record slots, unused ones 0xFF, and the commit line (R506). -/
def batchBytes (q : Nat) (l : List EvRec) : Bytes :=
  let b := (l.take 7).flatMap evRecBytes
  let b := b ++ List.replicate (224 - b.length) 0xFF#8
  b ++ commitLine q b

/-- MERGE_WINDOW_EXPIRY: WINDOW seconds after its first occurrence an open record closes (R505). -/
def execMergeWindowExpiry (s : State) : Res :=
  whenGecko s (closeOpen s (fun r => r.optFirst + getF s F.EVREC_MERGE_WINDOW ≤ optime s))

/-- The sequence number of the next batch: one above the newest (R506). -/
def nextBatch (s : State) : Nat := getF s F.EVREC_HEAD_SEQ + 1

/-- Whether programming a batch first erases a sector that holds older batches: the ring has 2,048 slots, 16 a sector
(R508). -/
def batchErases (s : State) (q : Nat) : Bool := (q - 1) % 16 = 0 && s.ev.ring.any (fun b => b.1 + 2032 < q)

/-- The flash address of a batch (R506, R508). -/
def batchAddr (q : Nat) : Nat := 0x10B80000 + (q - 1) % 2048 * 256

/-- The batch in flash, its sector erased first where that holds older batches (R506, R508). -/
def writeBatch (s : State) (q : Nat) (l : List EvRec) : State :=
  let s := if batchErases s q then eraseFlash (noteDone (noteIntent s 1) 1) (batchAddr q / 4096 * 4096) 4096 else s
  programLines s (batchAddr q) (batchBytes q l) 8

/-- Program one batch of up to seven staged records and move HEAD and OLDEST (R506, R508). -/
def programBatch (s : State) : State :=
  let q := nextBatch s
  let s := writeBatch s q (s.ev.staging.take 7)
  let kept := if batchErases s q then s.ev.ring.filter (fun b => q ≤ b.1 + 2032) else s.ev.ring
  let ring := kept ++ [(q, s.ev.staging.take 7)]
  let s := evRefresh { s with ev := { s.ev with ring := ring, staging := s.ev.staging.drop 7 } }
  setF (setF s F.EVREC_HEAD_SEQ q) F.EVREC_OLDEST_SEQ ((ring.head?.map (fun b => b.1)).getD 0)

/-- BATCH_PROGRAM: a batch is programmed once it holds seven records or 1 s after its first; FREEZE holds a batch that
would need an erase, and it waits behind another flash operation (R506, R508, R509). -/
def execBatchProgram (s : State) : Res :=
  whenGecko s
    (if s.ev.staging.isEmpty ∨ s.flash.run.isSome ∨ (isSet s F.EVREC_CTRL_FREEZE ∧ batchErases s (nextBatch s)) then s else programBatch s)

/-- EVREC_SW: a write makes one occurrence of a firmware event; any other CODE is ignored (R510). -/
def execEvrecSw (v : W32) (s : State) : Res :=
  let code := F.EVREC_SW_CODE.ofWord v.toNat
  whenGecko s
    (if 0x400 ≤ code ∧ code ≤ 0x4FF then
      occur s code (F.EVREC_SW_UNIT.ofWord v.toNat) (F.EVREC_SW_PART.ofWord v.toNat) (getF s F.EVREC_SWDET_DETAIL)
    else s)

/-- EVREC_FREEZE: a write of EVREC_CTRL (R509). -/
def execEvrecFreeze (on : Bool) (s : State) : Res := whenGecko s (setB s F.EVREC_CTRL_FREEZE on)

/-- One second of RTC: it counts always while its crystal runs, and wraps at 32 bits (R512; log entry 10). -/
def rtcTick (s : State) : State :=
  if isSet s F.TIMEKEEP_STATUS_OSC_FAIL then s else setF s F.TIMEKEEP_RTC_SECONDS (rtc s + 1)

/-- TIMEKEEP_SECOND: RTC counts, and OPTIME counts while main power is good, under R6 (R512). -/
def execTimekeepSecond (s : State) : Res :=
  .next (if cellUp s then
      let s := rtcTick s
      if s.power.mainGood then bump s F.TIMEKEEP_OPTIME_COUNT F.TIMEKEEP_OPTIME_SAT else s
    else s)

/-- RTC_SET: a write of TIMEKEEP_RTC sets it and RTC_VALID and makes a record with the previous value (R512, R503). -/
def execRtcSet (v : W32) (s : State) : Res :=
  let old := rtc s
  whenGecko s (occur (setF (setF s F.TIMEKEEP_RTC_SECONDS v.toNat) F.TIMEKEEP_STATUS_RTC_VALID 1) 0x312 0 0 old)

/-- OSC_FAIL: the crystal has stopped; RTC stops and OPTIME goes on from the reference (R512, R597). -/
def execOscFail (s : State) : Res := .next (if cellUp s then setF s F.TIMEKEEP_STATUS_OSC_FAIL 1 else s)

end Sys2Proof.Machine
end

