-- ==== Sys2Proof/Machine/Fault.lean ====
section
/-!
DEFINITION. Fault.lean: the commands of the fault collector (R479–R499).
-/
namespace Sys2Proof.Machine

/-- What the reporter of an HBM code has done besides: a corrected error is counted and its row tracked (R495, R496); a position that
fails with no spare left is lost (R170). -/
def hbmReported (s : State) (r : Report) : State :=
  if r.code = 0x10 ∧ r.unit < 4 ∧ r.part < 32 then
    trackRow (bump s (F.HBMC_CERR_COUNT r.unit) (F.HBMC_CERR_SAT r.unit)) r.unit (r.part * 2 ^ 32 + r.row)
  else if r.code = 0x12 ∧ r.unit < 4 then
    let s := setF s (F.HBMC_STATUS_LOST r.unit) 1
    match hbmPos s r.unit r.part with
    | none => s
    | some p => updStack s r.unit (fun x => if x.lost.contains p then x else { x with lost := x.lost ++ [p] })
  else s

/-- FAULT_REPORT: a report reaches the collector; one that fails its parity or sequence number counts as REPORT_BAD (R479, R481). -/
def execFaultReport (r : Report) (s : State) : Res :=
  whenGecko s (if r.good then faultReport (hbmReported s r) r.code r.unit r.part else faultReport s 0x31 0 0)

/-- SAFE_STATE_CUT: 1 ms after entry the routes that still run are cut (R483). -/
def execSafeStateCut (s : State) : Res :=
  .next (if inSafe s ∧ s.fc.cutPending then cutRoutes { s with fc := { s.fc with cutPending := false } } (fun _ => true) else s)

/-- QUIET_PERIOD_EXPIRY: the collector exits by the held kind when the conditions have cleared, no instance stalled for RNG_STALL, and the
recovery limit is not reached; otherwise it holds and the timer starts again; HOLD has no exit by the collector (R486, R488). Whether
the other conditions have cleared is the event's. -/
def execQuietPeriodExpiry (cleared : Bool) (s : State) : Res :=
  let ok := cleared && (!s.fc.conds.contains 0x26 || getF s F.RNG_STALLED_INST = 0)
  .next (if !inSafe s ∨ !isSet s F.FCOLL_STATUS_QUIET then s
    else if getF s F.FCOLL_STATUS_EXIT = 3 then setF (setF s F.FCOLL_STATUS_QUIET 0) F.FCOLL_STATUS_HOLD 1
    else if !ok then setF s F.FCOLL_STATUS_HOLD 1
    else if s.fc.withheld then s
    else if exitLimit s then
      let s := setF (setF { s with fc := { s.fc with withheld := true } } F.FCOLL_STATUS_HOLD 1) F.FCOLL_STATUS_LIMIT 1
      occur s 0x30C 0 0 (getF s F.FCOLL_RECOV_COUNT)
    else exitSafe (setF s F.FCOLL_STATUS_HOLD 0))

/-- FCOLL_HEARTBEAT_LOSS: a copy mismatch or a missing heartbeat makes the sequencer reset the device; FCOLL_SELF is recorded at the next
bring-up (R481). -/
def execFcollHeartbeatLoss (s : State) : Res := whenGecko s (faultReport s 0x30 0 0)

/-- Whether a route has run longer than 4 × DURATION × 1000 / PACE_MIN, `ran` in ns (R493). -/
def routeLate (s : State) (r : RouteAt) (ran : Nat) : Bool := 4 * r.time * 1000 < ran * getF s F.LSENSE_PACE_PACE_MIN

/-- ROUTE_TIMEOUT: the watchdog cuts a route that has run longer than its bound, and restarts it on another active tile of its
cluster; the tile starts nothing further and is reported (R493). Where it restarts is the event's. -/
def execRouteTimeout (p : LateRoute) (unit tile : Nat) (s : State) : Res :=
  .next (match findTag s p.tag with
    | none => s
    | some t =>
      match t.route with
      | none => s
      | some r =>
        let q : Part := { cls := r.cls, unit := r.unit, idx := r.tile }
        if running t && (r.cls = 1 || r.cls = 2) && routeLate s r p.ran && otherPart s q unit tile then
          faultReport (restartRoute s q p.tag unit tile) 0x04 (if r.cls = 1 then r.unit else 16 + r.unit) r.tile
        else s)

/-- A write of FCOLL_CTRL with its KEY; another KEY is ignored. -/
def fcollKeyed (key : BitVec 16) (s t : State) : Res := whenGecko s (if key = 0x4643 then t else s)

/-- RETIRE_ACK: the request in FCOLL_RETIRE is done; the next one is shown (R490). -/
def execRetireAck (key : BitVec 16) (s : State) : Res :=
  fcollKeyed key s (if isSet s F.FCOLL_RETIRE_VALID then showRetire (setF s F.FCOLL_RETIRE_VALID 0) else s)

/-- EXIT: Sealed firmware leaves safe state by the held kind; refused while the held kind is HOLD or the entering code LANDAU_BUILD or
OPEN_FW (R488). -/
def execExit (key : BitVec 16) (s : State) : Res :=
  let code := getF s F.FCOLL_STATUS_SAFE_CODE
  fcollKeyed key s (if !inSafe s ∨ s.fc.rebuildAsked ∨ getF s F.FCOLL_STATUS_EXIT = 3 ∨ code = 0x22 ∨ code = 0x23 then s else exitSafe s)

/-- RCLR: FCOLL_RECOV is cleared (R487). -/
def execRclr (key : BitVec 16) (s : State) : Res := fcollKeyed key s (clearCounter s F.FCOLL_RECOV_COUNT F.FCOLL_RECOV_SAT)

/-- FCOLL_FORCE: with GO the report it names is made, marked FORCED; a fatal code only in BLANK and RMA (R489). -/
def execFcollForce (v : W32) (s : State) : Res :=
  let w := v.toNat
  let code := F.FCOLL_FORCE_CODE.ofWord w
  let s1 := setF (setF (setF s F.FCOLL_FORCE_CODE code) F.FCOLL_FORCE_UNIT (F.FCOLL_FORCE_UNIT.ofWord w)) F.FCOLL_FORCE_PART
    (F.FCOLL_FORCE_PART.ofWord w)
  whenGecko s
    (if !v.getLsbD 31 then s1
     else if faultClass code = 2 ∧ life s != 0 ∧ life s != 3 then s1
     else report s1 code (F.FCOLL_FORCE_UNIT.ofWord w) (F.FCOLL_FORCE_PART.ofWord w) true)

/-- HBM_ROW_REPAIR: a row with ROW_LIMIT corrected errors within the hour is repaired for good; lines that could not be corrected come back
poisoned; with no repair resource left a swap of the pseudo-channel is requested (R495, R496). -/
def execHbmRowRepair (stack : Fin 4) (pc : Fin 32) (row : Nat) (left : Bool) (uncorr : List Nat) (s : State) : Res :=
  let k := pc.val * 2 ^ 32 + row
  .next (if !geckoUp s ∨ !rowFailing s stack.val k then s
    else if !left then requestRetire s 4 stack.val pc.val 0x10
    else
      let s := { s with fc := { s.fc with rows := s.fc.rows.filter (fun e => !(e.1 = stack.val && e.2.1 = k)) } }
      let bad := uncorr.filter (fun n => physPc s stack.val (linePos n).1 = pc.val)
      poisonCount { s with hbm := { s.hbm with poison := bad.foldl (fun m n => mapPut m (lineKey stack.val n) true) s.hbm.poison } })

/-- The lane map of a direction. -/
def laneMap (s : State) (dir : Nat) : LaneMap := if dir = 0 then s.drawbar.dir0 else s.drawbar.dir1
def setLaneMap (s : State) (dir : Nat) (m : LaneMap) : State :=
  { s with drawbar := if dir = 0 then { s.drawbar with dir0 := m } else { s.drawbar with dir1 := m } }

/-- The lowest spare lane that is neither in use nor bad (R498). -/
def healthySpare (m : LaneMap) : Option Nat := [32, 33, 34, 35].find? (fun p => !m.lane.contains p && !m.bad.contains p)

/-- Take a physical lane out of service: a main lane goes to the lowest healthy spare, if there is one. -/
def swapLane (m : LaneMap) (lane : Nat) : LaneMap :=
  let bad := if m.bad.contains lane then m.bad else m.bad ++ [lane]
  match healthySpare m with
  | some p => { lane := m.lane.map (fun x => if x = lane then p else x), bad := bad }
  | none => { m with bad := bad }

/-- DRAWBAR_LANE_SWAP: a physical lane with LIMIT errors within one second: a main lane is swapped for the lowest healthy spare, and the
repair recorded; with none left T09 trips; an unused spare is marked bad (R498, R499). -/
def execDrawbarLaneSwap (dir : Fin 2) (lane : Fin 36) (errors : Nat) (s : State) : Res :=
  let m := laneMap s dir.val
  .next (if !geckoUp s ∨ !s.drawbar.up then s
    else if m.lane.contains lane.val then
      if errors < getF s F.FCOLL_LANETHR_LIMIT then s
      else if (healthySpare m).isSome then fieldRepair (setLaneMap s dir.val (swapLane m lane.val)) 6 dir.val lane.val
      else tamperTrip (setLaneMap s dir.val (swapLane m lane.val)) 9
    else if !s.drawbar.patterns then s
    else setLaneMap s dir.val { m with bad := if m.bad.contains lane.val then m.bad else m.bad ++ [lane.val] })

end Sys2Proof.Machine
end

