-- ==== Sys2Proof/Machine/Flash.lean ====
section
/-!
DEFINITION. Flash.lean: the operations of the Gecko flash controller (R434–R456).
-/
namespace Sys2Proof.Machine

/-! ## Reading (R436–R438) -/

/-- The correction count a line reads with: 0–4, or 7 when uncorrectable. -/
def lineCount (s : State) (l : Nat) : Nat := if lineState s l = 8 then 7 else lineState s l - 1

/-- The weak-line threshold; values other than 1–4 act as 4. -/
def weakAt (s : State) : Nat :=
  let t := getF s F.FLASHC_ECCTHR_THRESH
  if 1 ≤ t ∧ t ≤ 4 then t else 4

/-- An uncorrectable line is read: counted, reported, and T13 when too many fall within a second (R438; log entry 34). -/
def readUncorr (s : State) (l : Nat) : State :=
  let s := faultReport (setF (bump s F.FLASHC_UNCORR_COUNT F.FLASHC_UNCORR_SAT) F.FLASHC_STATUS_UNCORR 1) 0x2A (flashBank (32 * l)) 0
  let n := if s.flash.burst.1 = optime s then s.flash.burst.2 + 1 else 1
  let s := { s with flash := { s.flash with burst := (optime s, n) } }
  if n = getF s F.FLASHC_ECCTHR_T13_LIMIT + 1 then tamperTrip s 13 else s

/-- A corrected line is read: counted, and weak from the threshold on (R437). -/
def readCorrected (s : State) (l c : Nat) : State :=
  let s := bump s F.FLASHC_CORR_COUNT F.FLASHC_CORR_SAT
  if c < weakAt s then s
  else
    let s := if isSet s F.FLASHC_WEAK_VALID then s
      else setF (setF (setF s F.FLASHC_WEAK_VALID 1) F.FLASHC_WEAK_BANK (flashBank (32 * l))) F.FLASHC_WEAK_SECTOR (sectorOf (32 * l))
    raise (setF s F.FLASHC_STATUS_WEAK 1) 9

/-- What reading a line does besides giving its bytes. -/
def readLine (s : State) (l : Nat) : State :=
  let c := lineCount s l
  if c = 0 then s else if c = 7 then readUncorr s l else readCorrected s l c

/-- A line read by a warden core: its count and address stand in FLASHC_ECCLAST; whether it can be delivered (R436, R438). -/
def wardenLine (s : State) (l : Nat) : Bool × State :=
  let c := lineCount s l
  let s := setF (setF s F.FLASHC_ECCLAST_COUNT c) F.FLASHC_ECCLAST_BANK (flashBank (32 * l))
  (c != 7, readLine (setF s F.FLASHC_ECCLAST_OFFSET (32 * l - flashBase (flashBank (32 * l)))) l)

/-- Whether a flash address cannot be read now: its bank programs or erases, so that the read waits (R367). -/
def flashWaits (s : State) (a : Nat) : Bool :=
  (s.flash.run.map (fun o => o.op != 4 && flashBank o.addr = flashBank a)).getD false

/-- Whether a flash address lies in a sector under suspended erase or a line under suspended program: BUS_ERROR (R446). -/
def flashSuspended (s : State) (a : Nat) : Bool :=
  s.flash.stack.any (fun o => if o.op = 1 then o.addr ≤ a && a < o.addr + o.len else inSectors (opSectors o) (flashBank a) (sectorOf a))

/-! ## Starting an operation (R439–R446) -/

/-- The lines an operation touches lie in its sectors: each line that is not erased, by line number. -/
def linesIn (s : State) (a n : Nat) : List Nat := (s.flash.lines.map (fun e => e.1)).filter (fun l => a ≤ 32 * l && 32 * l < a + n)

/-- Whether a sector is write-protected (R444). -/
def writeProtected (s : State) (b n : Nat) : Bool :=
  (if b = 0 then getF s (F.FLASHC_WP0_PROTECT (n / 32)) else getF s (F.FLASHC_WP1_PROTECT (n / 32))).testBit (n % 32)

/-- Whether some sector of a range has a property. -/
def anySector (r : Nat × Nat × Nat) (p : Nat → Nat → Bool) : Bool := (List.range r.2.2).any (fun i => p r.1 (r.2.1 + i))

/-- Whether an operation's ADDR and LEN are in range (R439, R440). -/
def flashArgs (op a n : Nat) : Bool :=
  isFlash a && (match op with
    | 1 => a % 32 = 0 && 32 ≤ n && n ≤ 256 && n % 32 = 0 && a % 4096 + n ≤ 4096
    | 2 => a % 4096 = 0 && n = 0
    | 3 => a % 4096 = 0 && 1 ≤ n && n ≤ 256 && sectorOf a + n ≤ 1024
    | 4 => a % 4096 = 0 && 1 ≤ n && n ≤ 256 && sectorOf a + n ≤ 1024
    | 5 => a % 4096 = 0 && n = 0
    | _ => false)

/-- Whether another operation stands in the way: one runs; an erase or RETIRE while anything is suspended; a second PROGRAM while one
is suspended (R440, R446). -/
def flashBusy (s : State) (op : Nat) : Bool :=
  s.flash.run.isSome || (!s.flash.stack.isEmpty && (op = 2 || op = 3 || op = 5)) || (op = 1 && s.flash.stack.any (fun o => o.op = 1))

/-- Whether a sector belongs to a suspended erase. -/
def underSuspErase (s : State) (b n : Nat) : Bool := s.flash.stack.any (fun o => o.op != 1 && inSectors (opSectors o) b n)

/-- Whether a sector is half-erased (R449). -/
def halfErased (s : State) (b n : Nat) : Bool := s.flash.half.any (fun r => inSectors r b n)

/-- The first reason to refuse an operation, 0 when there is none (R440; log entry 33); `fetch` the bank the write was fetched from. -/
def flashErr (s : State) (o : FlashOp) (src fetch : Nat) : Nat :=
  let r := opSectors o
  if !flashArgs o.op o.addr o.len then 1
  else if o.op = 1 ∧ !o.tag ∧ !inSram src o.len then 1
  else if flashBusy s o.op then 2
  else if o.op != 4 ∧ fetch = r.1 then 3
  else if o.op ≤ 3 ∧ anySector r (writeProtected s) then 4
  else if (o.op = 1 ∨ o.op = 4) ∧ anySector r (underSuspErase s) then 9
  else if o.op = 1 ∧ anySector r (halfErased s) then 10
  else if o.op = 1 ∧ !(linesIn s o.addr o.len).isEmpty then 5
  else if o.op = 1 ∧ !o.tag ∧ !masterOk s 2 0 src o.len then 8
  else if o.op = 5 ∧ (freeSpare s r.1).isNone then 11
  else 0

/-- A refused operation: DONE and ERR, nothing touched (R439). -/
def flashRefuse (s : State) (err : Nat) : State :=
  setF (setF (setF (setF s F.FLASHC_STATUS_DONE 1) F.FLASHC_RESULT_ERR err) F.FLASHC_RESULT_MAXCNT 0) F.FLASHC_RESULT_LOST 0

/-- Start an operation: BUSY and OP; an erase, RETIRE's of the spare too, programs its intent first (R448, R453). -/
def flashBegin (s : State) (o : FlashOp) : State :=
  let s := if o.op = 2 ∨ o.op = 3 ∨ o.op = 5 then noteIntent s (flashBank o.addr) else s
  let s := { s with flash := { s.flash with run := some o,
                                            intents := if o.op = 2 ∨ o.op = 3 then s.flash.intents ++ [opSectors o] else s.flash.intents } }
  setF (setF (setF s F.FLASHC_STATUS_BUSY 1) F.FLASHC_STATUS_DONE 0) F.FLASHC_STATUS_OP o.op

/-- A RETIRE that finds no spare is recorded and reported (R454, R479). -/
def sparesOut (s : State) (a : Nat) : State := faultReport (occur s 0x309 (flashBank a) 0 (sectorOf a)) 0x2C (flashBank a) 0

/-- An operation asked for: refused or started; the source of a PROGRAM is read through master 2, whose denied parts are recorded
(R425, R441). -/
def flashStart (s : State) (o : FlashOp) (src fetch : Nat) : State :=
  match flashErr s o src fetch with
  | 0 =>
    if o.op = 1 ∧ !o.tag then flashBegin s { o with data := geckoBytes s src o.len } else flashBegin s o
  | 8 => flashRefuse (recordDenied s 0 2 0 src o.len) 8
  | 11 => flashRefuse (sparesOut s o.addr) 11
  | e => flashRefuse s e

/-- A write of FLASHC_CMD with a KEY; a wrong one ends KEY (R440). -/
def flashKeyed (w : FlashWr) (s t : State) : Res :=
  whenGecko s (if w.key = 0x464C then t
    else setF (setF s F.FLASHC_STATUS_DONE 1) F.FLASHC_RESULT_ERR 13)

/-- The operation that FLASHC_ADDR and FLASHC_LEN name. -/
def flashAsked (s : State) (op : Nat) : FlashOp :=
  { op := op, addr := getF s F.FLASHC_ADDR_VALUE, len := getF s F.FLASHC_LEN_VALUE, data := [], tag := false, susp := 0 }

/-- A start of operation 1–5. -/
def flashCmd (op : Nat) (w : FlashWr) (s : State) : Res :=
  flashKeyed w s (flashStart s (flashAsked s op) (getF s F.FLASHC_SRC_VALUE) w.fetch.val)

/-- PROGRAM: lines from SRAM (R439, R441). -/
def execProgram (w : FlashWr) (s : State) : Res := flashCmd 1 w s
/-- ERASE: one sector (R439). -/
def execErase (w : FlashWr) (s : State) : Res := flashCmd 2 w s
/-- ERASE_RANGE: consecutive sectors (R439). -/
def execEraseRange (w : FlashWr) (s : State) : Res := flashCmd 3 w s
/-- CHECK: every line of the sectors is read (R439). -/
def execCheck (w : FlashWr) (s : State) : Res := flashCmd 4 w s
/-- RETIRE: the sector moves onto a spare (R439, R453). -/
def execRetire (w : FlashWr) (s : State) : Res := flashCmd 5 w s

/-- SUSPEND: the running erase or program stops once it may; a further one than the 64th of an erase or the 8th of a program waits for its
end (R446). -/
def execSuspend (w : FlashWr) (s : State) : Res :=
  flashKeyed w s (match s.flash.run with
    | none => s
    | some o =>
      if flashBank o.addr = w.fetch.val then flashRefuse s 3
      else if o.op = 4 ∨ o.op = 5 ∨ (if o.op = 1 then 8 else 64) ≤ o.susp then s
      else
        let s := { s with flash := { s.flash with run := none, stack := { o with susp := o.susp + 1 } :: s.flash.stack } }
        showSusp (setF s F.FLASHC_STATUS_BUSY 0))

/-- RESUME: the innermost suspended operation goes on; with none it is ignored; while another runs it ends BUSY (R445, R446). -/
def execResume (w : FlashWr) (s : State) : Res :=
  flashKeyed w s (match s.flash.stack with
    | [] => s
    | o :: rest =>
      if s.flash.run.isSome then flashRefuse s 2
      else if flashBank o.addr = w.fetch.val then flashRefuse s 3
      else
        let s := showSusp { s with flash := { s.flash with run := some o, stack := rest } }
        setF (setF s F.FLASHC_STATUS_BUSY 1) F.FLASHC_STATUS_OP o.op)

/-! ## Ending (R439–R441, R448, R453) -/

/-- The counts that lines are found or left with; erased lines stay erased. -/
def takeCounts (s : State) (a n : Nat) (l : List (Nat × Fin 8)) : State :=
  l.foldl (fun t e =>
    if a ≤ 32 * e.1 && 32 * e.1 < a + n && lineState t e.1 != 0 then setLine t e.1 (if 5 ≤ e.2.val then 8 else 1 + e.2.val) else t) s

/-- The highest count among lines. -/
def maxCount (s : State) (l : List Nat) : Nat := (l.map (lineCount s)).foldl max 0

/-- RETIRE's copy: uncorrectable lines are left erased, the others are programmed again; the remap entry (R453). -/
def retireSector (s : State) (a : Nat) : State :=
  let b := flashBank a
  let used := (freeSpare s b).getD 0
  let s := (linesIn s a 4096).foldl (fun t l => if lineCount t l = 7 then eraseFlash t (32 * l) 32 else setLine t l 1) s
  showSpares { s with flash := { s.flash with remap := s.flash.remap ++ [(b, sectorOf a, used)] } }

/-- The effect of an operation on the array as it ends; ERR, MAXCNT and LOST. -/
def flashEffect (s : State) (o : FlashOp) (e : FlashEnd) : State × Nat × Nat × Nat :=
  let r := opSectors o
  match o.op with
  | 1 =>
    if e.bad then (tearLines s o.addr o.data (o.len / 32), 6, 0, 0)
    else (takeCounts (programLines s o.addr o.data (o.len / 32)) o.addr o.len e.counts, 0, 0, 0)
  | 4 =>
    let s := takeCounts s o.addr (4096 * o.len) e.counts
    let l := linesIn s o.addr (4096 * o.len)
    let m := maxCount s l
    (l.foldl readLine s, if m = 7 then 7 else 0, m, 0)
  | 5 =>
    let s := takeCounts s o.addr 4096 e.counts
    let l := linesIn s o.addr 4096
    let m := maxCount s l
    if e.bad then (s, 6, 0, 0)
    else (retireSector (l.foldl readLine (noteDone s r.1)) o.addr, if m = 7 then 7 else 0, m, (l.filter (fun x => lineCount s x = 7)).length)
  | _ =>
    if e.bad then (tearErase s o.addr (4096 * r.2.2), 6, 0, 0)
    else (closeIntents (eraseFlash (noteDone s r.1) o.addr (4096 * r.2.2)) r.1 r.2.1 r.2.2, 0, 0, 0)

/-- The running operation ends with DONE and its result; a verify failure is reported (R439, R440, R479). -/
def flashFinish (s : State) (o : FlashOp) (e : FlashEnd) : State :=
  let (s, err, m, lost) := flashEffect s o e
  let s := { s with flash := { s.flash with run := none } }
  let s := setF (setF (setF s F.FLASHC_RESULT_ERR err) F.FLASHC_RESULT_MAXCNT m) F.FLASHC_RESULT_LOST lost
  let s := setF (setF s F.FLASHC_STATUS_BUSY 0) F.FLASHC_STATUS_DONE 1
  if err = 6 then faultReport s 0x2B (flashBank o.addr) 0 else s

/-- FLASH_OPERATION_END: an operation that Sealed firmware asked for ends (R439). Whether it verifies, and the counts, are the
event's. -/
def execFlashOperationEnd (e : FlashEnd) (s : State) : Res :=
  .next (match s.flash.run with
    | none => s
    | some o => if o.tag then s else flashFinish s o e)

end Sys2Proof.Machine
end

