-- ==== Sys2Proof/Machine/QmCmds.lean ====
section
/-!
DEFINITION. QmCmds.lean: the commands of the queue manager and the endpoint (R53, R57, R106–R141).
-/
namespace Sys2Proof.Machine

/-! ## Doorbells -/

/-- An invalid doorbell write: recorded and signalled on vector 0 of the function (R111). -/
def badDoorbell (s : State) (fn qid v : Nat) (cq : Bool) : State :=
  let s := setF (setF (setB s (F.TELE_DBERR_CQ fn) cq) (F.TELE_DBERR_QID fn) qid) (F.TELE_DBERR_VALUE fn) v
  signal (setF s (F.TELE_STATUS_DB_ERR fn) 1) fn 0

/-- Whether a doorbell write reaches a doorbell of the function: beyond QPS it is ignored (R106). -/
def doorbellThere (s : State) (fn qid : Nat) : Bool :=
  hostReach s && fnExists s fn && qid < getF s (F.DEVINFO_LIMITS_QPS fn)

/-- SQ_TAIL_DOORBELL: new entries are announced; an invalid write is recorded (R110–R112). `ide`: the TLP comes on the IDE stream. -/
def execSqTailDoorbell (fn qid : Nat) (p : DoorbellWr) (s : State) : Res :=
  let ⟨v, ide⟩ := p
  let i := v.toNat % 65536
  .next (if !doorbellThere s fn qid || !tlpTaken s ide then s
    else match findPair s fn qid with
      | none => badDoorbell s fn qid i false
      | some p => if i < p.sqSize then updPair s fn qid (fun p => { p with sqTail := i }) else badDoorbell s fn qid i false)

/-- How far an index lies past another in a queue. -/
def ahead (size a b : Nat) : Nat := (b + size - a % size) % size

/-- CQ_HEAD_DOORBELL: completion entries are freed; past what was posted the write is invalid (R110, R111, R113). -/
def execCqHeadDoorbell (fn qid : Nat) (p : DoorbellWr) (s : State) : Res :=
  let ⟨v, ide⟩ := p
  let i := v.toNat % 65536
  .next (if !doorbellThere s fn qid || !tlpTaken s ide then s
    else match findPair s fn qid with
      | none => badDoorbell s fn qid i true
      | some p =>
        if i < p.cqSize ∧ ahead p.cqSize p.cqHead i ≤ ahead p.cqSize p.cqHead p.cqTail then
          updPair s fn qid (fun p => { p with cqHead := i })
        else badDoorbell s fn qid i true)

/-! ## Fetch -/

/-- Whether the lifecycle state leaves an opcode out: BLANK has DeviceID attestation and enrolment only (R67). -/
def lifeShuts (s : State) (op : Nat) : Bool := life s = 0 && 0x10 ≤ op && !(0x88 ≤ op && op ≤ 0x8E)

/-- The first OPERANDS byte that an admin opcode does not use (R114, R129, R131, R132). -/
def adminSpare (op : Nat) : Nat := match op with | 2 => 0x48 | 3 => 0x5A | 4 => 0x42 | _ => 0x40

/-- Checks 1–3 of R121 by the queue manager: the outcome of the first that fails; on a member that is not PRIMARY an effectful opcode
completes KEY_DOMAIN (R326). -/
def queueChecks (s : State) (fn qid : Nat) (e : Bytes) : Option Outcome :=
  let op := seOpcode e
  let (ka, kb, i, o) := opUses op
  if (if op < 0x10 then op > 5 || qid != 0 else !opAssigned op || qid = 0 || lifeShuts s op) then some (outStatus stBAD_OPCODE)
  else if seFlags e > 7 then some (outBad stBAD_FIELD 0x01)
  else if !opLocal op && seDomain e > 4095 then some (outBad stBAD_FIELD 0x02)
  else if !allZero e 4 4 then some (outBad stBAD_FIELD 0x04)
  else if seReqId e = 0 then some (outBad stBAD_FIELD 0x08)
  else if !ka ∧ seKeyA e != 0 then some (outBad stBAD_FIELD 0x10)
  else if !kb ∧ seKeyB e != 0 then some (outBad stBAD_FIELD 0x18)
  else if !i ∧ seInLen e != 0 then some (outBad stBAD_FIELD 0x30)
  else if !o ∧ seOutLen e != 0 then some (outBad stBAD_FIELD 0x34)
  else if !allZero e 0x38 8 then some (outBad stBAD_FIELD 0x38)
  else if op < 6 && !allZero e (adminSpare op) (0x80 - adminSpare op) then some (outBad stBAD_FIELD (adminSpare op))
  else if opLocal op then none
  else if (if fn = 0 then domPfServes s.struct.built (seDomain e) else seDomain e = getF s (F.DEVINFO_FUNC_DOMAIN fn)) then
    (if roleShuts s op (seDomain e) then some (outStatus stKEY_DOMAIN) else none)
  else some (outStatus stKEY_DOMAIN)

/-- Whether a pair has an entry that the queue manager may fetch (R112, R118, R134, R138, R141). -/
def sqReady (s : State) (p : QueuePair) : Bool :=
  isSet s F.QMGR_CTRL_FETCH && s.qm.busMaster.contains p.fn && !isSet s (F.ADMIN_STATUS_FUNC_ERR p.fn) && !ideHolds s
    && p.deleting.isNone && p.sqHead != p.sqTail && fnTagsHeld s p.fn < getF s (F.DEVINFO_LIMITS_TAGS p.fn)

/-- Fetches of a function in this round; whether its WEIGHT leaves it another (R103, R118). -/
def fetchesOf (s : State) (fn : Nat) : Nat := mapGet s.qm.fetched fn 0
def hasShare (s : State) (fn : Nat) : Bool := decide (fetchesOf s fn < fnWeight s.struct.built fn)

/-- Whether it is a function's turn: it has a share left in the round, or no function that could be served has one and a new round starts
(R118, log entry 90). -/
def fnTurn (s : State) (fn : Nat) : Bool :=
  hasShare s fn || (s.qm.pairs.filter (sqReady s)).all (fun p => !hasShare s p.fn)

/-- Whether it is an SQ's turn among its function's: not served yet in the function's round, or every SQ that holds entries was (R118,
log entry 90). -/
def sqTurn (s : State) (fn qid : Nat) : Bool :=
  !s.qm.servedSq.contains (fn, qid) || (s.qm.pairs.filter (fun p => p.fn = fn && sqReady s p)).all (fun p => s.qm.servedSq.contains (fn, p.qid))

/-- Whether the queue manager fetches from a pair into a tag (R112, R118). -/
def fetchOk (s : State) (fn tag : Nat) (p : QueuePair) : Bool :=
  sqReady s p && tag < 16384 && (findTag s tag).isNone && fnTurn s fn && sqTurn s fn p.qid

/-- A fetch is counted in the rounds of its function and of the function's SQs (R118). -/
def noteFetch (s : State) (fn qid : Nat) : State :=
  let f := if hasShare s fn then mapSet s.qm.fetched fn (fetchesOf s fn + 1) 0 else [(fn, 1)]
  let q := if s.qm.servedSq.contains (fn, qid) then s.qm.servedSq.filter (fun e => e.1 != fn) else s.qm.servedSq
  { s with qm := { s.qm with fetched := f, servedSq := q ++ [(fn, qid)] } }

/-- The tag-table entry of a fetched entry. -/
def freshTag (s : State) (fn qid tag head : Nat) (e : Bytes) : TagEntry :=
  { tag := tag, fn := fn, qid := qid, entry := e, order := s.qm.nextOrder, sqHead := head, commit := .waiting,
    handed := false, core := 0, dupWait := false, rerun := false, refs := [], route := none, staged := none, done := none, drop := false }

/-- Add a tag-table entry. -/
def addTag (s : State) (t : TagEntry) : State :=
  qmRefresh { s with qm := { s.qm with tags := s.qm.tags ++ [t], nextOrder := s.qm.nextOrder + 1 } } t.fn

/-- Check 4: the duplicate window is consulted (R125). -/
def windowCheck (s : State) (t : TagEntry) : State :=
  let d := seDomain t.entry
  let req := seReqId t.entry
  let dig := winDigest s t.entry
  let fresh : WinEntry := { reqId := req, digest := dig, state := .pending, status := 0, result := 0, outBytes := 0 }
  match winFind s d req with
  | none => winAdd (addTag s t) d fresh
  | some w =>
    if w.state = .preAborted then
      bump (winRemove (addTag s { t with commit := .aborted, done := some (outStatus stABORTED) }) d req)
        F.QMGR_ABORTS_COUNT F.QMGR_ABORTS_SAT
    else if w.digest != dig then addTag s { t with commit := .failed, done := some (outBad stBAD_FIELD 0x08) }
    else if !opEffectful s (seOpcode t.entry) then addTag s { t with rerun := true }
    else if w.state = .pending then addTag s { t with dupWait := true }
    else addTag s { t with commit := .failed, done := some (dupOutcome w) }

/-- SQ_ENTRY_FETCH: an entry is read once, gets a tag and passes checks 1–4 (R112, R118, R121, R125); a failed read stops the
function (R134). The entry's 128 bytes are what host memory returned. -/
def execSqEntryFetch (fn qid tag : Nat) (entry : Option Bytes) (s : State) : Res :=
  match findPair s fn qid with
  | none => .next s
  | some p =>
    if !fetchOk s fn tag p then .next s
    else match entry with
      | none => .next (funcError s fn)
      | some e =>
        let e := sliceZ e 0 128
        let head := (p.sqHead + 1) % p.sqSize
        let s := updPair (noteFetch s fn qid) fn qid (fun p => { p with sqHead := head })
        let t := freshTag s fn qid tag head e
        match queueChecks s fn qid e with
        | some o => .next (addTag s { t with commit := .failed, done := some o })
        | none => .next (if opLocal (seOpcode e) then addTag s t else windowCheck s t)

/-! ## Hand-over -/

/-- The tags fetched earlier from the same SQ. -/
def earlier (s : State) (t : TagEntry) : List TagEntry :=
  s.qm.tags.filter (fun x => x.fn = t.fn && x.qid = t.qid && x.order < t.order)

/-- Whether a command may be handed over: submission order and FENCE (R119). -/
def orderOk (s : State) (t : TagEntry) : Bool :=
  (earlier s t).all (fun x => (x.handed || x.commit != .waiting) && !seFence x.entry)
    && (!seFence t.entry || (earlier s t).isEmpty)

/-- Whether a core is an active dispatch core of a world that is not drained. -/
def coreServes (s : State) (w core : Nat) : Bool :=
  core < 20 && partServes s 3 (core / 5) (core % 5)
    && (if (unitWorld s 3 (core / 5)).testBit (core % 5) then w = 1 else w = 0)

/-- Whether some active dispatch core of a world is left. -/
def worldServed (s : State) (w : Nat) : Bool := (List.range 20).any (coreServes s w)

/-- A duplicate whose original went without trace proceeds as a new command (R126). -/
def dupAsNew (s : State) (t : TagEntry) : State :=
  let fresh : WinEntry := { reqId := seReqId t.entry, digest := winDigest s t.entry, state := .pending, status := 0,
                            result := 0, outBytes := 0 }
  winAdd (updTag s t.tag (fun x => { x with dupWait := false })) (seDomain t.entry) fresh

/-- Hand a command over: check 5, then the dispatch core has it (R119, R121, R135, R494). -/
def handOver (s : State) (t : TagEntry) (core : Nat) : State :=
  let w := domWorld s.struct.built (seDomain t.entry)
  if inSafe s then failTag s t (outStatus stSAFE_STATE)
  else if !worldServed s w then failTag s t (outStatus stRESOURCE)
  else if coreServes s w core then raiseDisp (updTag s t.tag (fun x => { x with handed := true, core := core })) 0 (2 ^ core)
  else s

/-- COMMAND_HANDOFF: a waiting command goes to a dispatch core of its domain's world once order, fence and mode change
allow (R29, R119, R121, R122, R126). -/
def execCommandHandoff (tag core : Nat) (s : State) : Res :=
  match findTag s tag with
  | none => .next s
  | some t =>
    .next (if t.commit != .waiting ∨ t.handed ∨ seOpcode t.entry < 0x10 ∨ !orderOk s t ∨ isSet s F.PWRARB_STATUS_MODE_BUSY then s
      else if t.dupWait then
        match winFind s (seDomain t.entry) (seReqId t.entry) with
        | some _ => s
        | none => handOver (dupAsNew s t) { t with dupWait := false } core
      else handOver s t core)

/-! ## Completion -/

/-- Whether an ABORT's completion must still wait for its target's (R130). -/
def abortWaits (s : State) (t : TagEntry) : Bool :=
  seOpcode t.entry = 2 && s.qm.tags.any (fun x => x.commit = .aborted && x.tag != t.tag
    && seDomain x.entry = seDomain t.entry && seReqId x.entry = seOp t.entry 0x40 8)

/-- Whether a CQ has a free entry: full as an SQ is, with one entry left unused (R110, R113; log entry 89). -/
def cqRoom (p : QueuePair) : Bool := (p.cqTail + 1) % p.cqSize != p.cqHead

/-- Signal a CQ's vector when enough completions wait (R117). -/
def coalesce (s : State) (p : QueuePair) : State :=
  if p.coalCount ≤ p.unsignalled ∨ p.coalTime = 0 then
    signal (updPair s p.fn p.qid (fun p => { p with unsignalled := 0 })) p.fn p.vector
  else s

/-- Write output and completion entry, move the CQ tail, invert P at the wrap (R113, R115, R116). -/
def postEntry (s : State) (t : TagEntry) (o : Outcome) (p : QueuePair) : State :=
  let out : List HostWrite := if o.output.isEmpty then [] else [{ fn := t.fn, addr := seOutAddr t.entry, data := o.output }]
  let cqe : HostWrite := { fn := t.fn, addr := p.cqBase + 32 * p.cqTail, data := cqeBytes t o p.phase }
  let tail := (p.cqTail + 1) % p.cqSize
  let n := if seNoIrq t.entry then p.unsignalled else p.unsignalled + 1
  let s := { s with qm := { s.qm with hostOut := s.qm.hostOut ++ out ++ [cqe] } }
  let s := updPair s t.fn t.qid (fun p => { p with cqTail := tail, phase := if tail = 0 then !p.phase else p.phase, unsignalled := n })
  if seNoIrq t.entry then s else coalesce s { p with unsignalled := n }

/-- After a completion is posted: the tag is free, duplicates are decided and counted (R118, R126). -/
def afterPost (s : State) (t : TagEntry) (o : Outcome) : State :=
  let s := freeTag s t
  let s := if o.status = stDUPLICATE then bump s F.QMGR_DUPS_COUNT F.QMGR_DUPS_SAT else s
  if inWindow t then decideDups s (seDomain t.entry) (seReqId t.entry) else s

/-- COMPLETION_POST: output and completion are written once the CQ has room; a failed write stops the function; a dropped
completion only frees its tag (R113–R118, R130, R134, R136, R141). -/
def rowCompletionPost (tag : Nat) (writeOk : Bool) (s : State) : Res :=
  match findTag s tag with
  | none => .next s
  | some t =>
    match t.done with
    | none => .next s
    | some o =>
      if t.drop then .next (afterPost s t o)
      else match findPair s t.fn t.qid with
        | none => .next (afterPost s t o)
        | some p =>
          .next (if !cqRoom p ∨ ideHolds s ∨ abortWaits s t then s
            else if !writeOk then funcError s t.fn
            else afterPost (postEntry s t o p) t o)

/-- INTERRUPT_COALESCE_TIMER: COAL_TIME has passed since the oldest unsignalled completion (R117). -/
def execInterruptCoalesceTimer (fn qid : Nat) (s : State) : Res :=
  match findPair s fn qid with
  | none => .next s
  | some p =>
    .next (if p.unsignalled = 0 ∨ p.coalTime = 0 then s
      else signal (updPair s fn qid (fun p => { p with unsignalled := 0 })) fn p.vector)

/-! ## The admin pair -/

/-- ADMIN_ENABLE: host software sets EN; a write of 1 while EN is 1 changes nothing (R107, R138). -/
def execAdminEnable (p : AdminWr) (s : State) : Res :=
  let ⟨fn, ide⟩ := p
  .next (if hostReach s ∧ fnExists s fn ∧ tlpTaken s ide then setF s (F.ADMIN_CTRL_EN fn) 1 else s)

/-- The admin queue pair that ADMIN_AQSIZE, ADMIN_ASQ and ADMIN_ACQ describe. -/
def adminPair (s : State) (fn : Nat) : QueuePair :=
  { fn := fn, qid := 0, sqBase := getF s (F.ADMIN_ASQ_BASE fn) * 4096, cqBase := getF s (F.ADMIN_ACQ_BASE fn) * 4096,
    vector := 0, sqSize := getF s (F.ADMIN_AQSIZE_ASQ fn) + 1, cqSize := getF s (F.ADMIN_AQSIZE_ACQ fn) + 1, coalCount := 0,
    coalTime := 0, sqHead := 0, sqTail := 0, cqHead := 0, cqTail := 0, phase := true, unsignalled := 0, deleting := none }

/-- ADMIN_READY: with EN and Bus Master Enable both 1 the admin pair is live and RDY set; a size below two entries leaves RDY
0, and so does an EN that stood when Bus Master Enable was cleared (R107, R138). -/
def execAdminReady (fn : Nat) (s : State) : Res :=
  .next (if hostReach s ∧ fnExists s fn ∧ s.qm.busMaster.contains fn ∧ isSet s (F.ADMIN_CTRL_EN fn)
        ∧ !isSet s (F.ADMIN_STATUS_RDY fn) ∧ 1 ≤ getF s (F.ADMIN_AQSIZE_ASQ fn) ∧ 1 ≤ getF s (F.ADMIN_AQSIZE_ACQ fn)
        ∧ (findPair s fn 0).isNone ∧ !s.qm.enStale.contains fn then
      setF { s with qm := { s.qm with pairs := s.qm.pairs ++ [adminPair s fn] } } (F.ADMIN_STATUS_RDY fn) 1
    else s)

/-- FUNC_ERR of a function cleared everywhere (R134). -/
def clearFuncErr (s : State) (fn : Nat) : State :=
  let w := if fn < 32 then 0 else 1
  let s := setF (setF s (F.ADMIN_STATUS_FUNC_ERR fn) 0) (F.TELE_STATUS_FUNC_ERR fn) 0
  setF s (F.QMGR_FNERR_ERR w) (clrBitN (getF s (F.QMGR_FNERR_ERR w)) (fn % 32))

/-- ADMIN_DISABLE: clearing EN treats every queue pair as by a function-level reset, then RDY clears (R108, R134). -/
def rowAdminDisable (fn : Nat) (ide : Bool) (s : State) : Res :=
  .next (if hostReach s ∧ fnExists s fn ∧ tlpTaken s ide then
      let s := clearFuncErr (setF (setF (dropFunction s fn) (F.ADMIN_CTRL_EN fn) 0) (F.ADMIN_STATUS_RDY fn) 0) fn
      { s with qm := { s.qm with enStale := s.qm.enStale.filter (fun n => n != fn) } }
    else s)

/-! ## Admin commands (R131) -/

/-- The tag of an admin command that may be served: waiting on pair 0 in its turn, with the opcode; a duplicate only once its original has
gone without trace (R126). -/
def adminTag (s : State) (tag op : Nat) : Option TagEntry :=
  (findTag s tag).filter (fun t => t.commit = .waiting && t.done.isNone && seOpcode t.entry = op && t.qid = 0 && orderOk s t
    && (!t.dupWait || (winFind s (seDomain t.entry) (seReqId t.entry)).isNone))

/-- An admin command ends with an outcome. -/
def adminDone (s : State) (t : TagEntry) (o : Outcome) : State :=
  updTag s t.tag (fun x => { x with commit := if o.status = stOK then .started else .failed, done := some o })

/-- Bytes of BAR0 of a function. -/
def bar0Bytes (s : State) (fn off : Nat) (words : Nat) : Bytes :=
  (List.range words).flatMap (fun i => leBytes (readReg s (Blk.BAR0 + fn) (off + 4 * i)) 4)

/-- Serve an admin command with the outcome a function of its tag entry gives. -/
def serveAdmin (s : State) (tag op : Nat) (f : TagEntry → Outcome) : State :=
  match adminTag s tag op with
  | none => s
  | some t => adminDone s t (f t)

/-- A read of BAR0 into the output buffer: OUT_LEN below the length gives BAD_LENGTH with the length in RESULT; a failed write of the output
DMA_ERROR (R133). -/
def bar0Outcome (s : State) (off words : Nat) (outOk : Bool) (t : TagEntry) : Outcome :=
  if seOutLen t.entry < 4 * words then { (outBad stBAD_LENGTH 0x34) with result := 4 * words }
  else match overLong t.entry with
    | some o => o
    | none => if outOk then outData 0 (bar0Bytes s t.fn off words) else outStatus stDMA_ERROR

/-- IDENTIFY: BAR0 bytes 0x000–0x0FF to the output buffer (R131). -/
def execIdentify (p : TagOut) (s : State) : Res := .next (serveAdmin s p.tag 1 (bar0Outcome s 0 64 p.outOk))

/-- GET_STATUS: BAR0 bytes 0x20_0000–0x20_003F to the output buffer (R131). -/
def execGetStatus (p : TagOut) (s : State) : Res := .next (serveAdmin s p.tag 5 (bar0Outcome s 0x200000 16 p.outOk))

/-- The first CREATE_QP field out of range (R131). -/
def createQpBad (s : State) (t : TagEntry) : Option Nat :=
  let e := t.entry
  if seOp e 0x40 8 % 4096 != 0 then some 0x40
  else if seOp e 0x48 8 % 4096 != 0 then some 0x48
  else if seOp e 0x50 2 = 0 ∨ seOp e 0x50 2 ≥ getF s (F.DEVINFO_LIMITS_QPS t.fn) ∨ (findPair s t.fn (seOp e 0x50 2)).isSome then
    some 0x50
  else if seOp e 0x52 2 < 2 ∨ seOp e 0x52 2 > 4096 then some 0x52
  else if seOp e 0x54 2 < 2 ∨ seOp e 0x54 2 > 4096 then some 0x54
  else if seOp e 0x56 2 ≥ getF s (F.DEVINFO_VECTORS_VECTORS t.fn) then some 0x56
  else none

/-- The queue pair CREATE_QP describes. -/
def newPair (t : TagEntry) : QueuePair :=
  let e := t.entry
  { fn := t.fn, qid := seOp e 0x50 2, sqBase := seOp e 0x40 8, cqBase := seOp e 0x48 8, sqSize := seOp e 0x52 2,
    cqSize := seOp e 0x54 2, vector := seOp e 0x56 2, coalCount := seOp e 0x58 1, coalTime := seOp e 0x59 1, sqHead := 0,
    sqTail := 0, cqHead := 0, cqTail := 0, phase := true, unsignalled := 0, deleting := none }

/-- CREATE_QP: an I/O queue pair bound to a vector; RESULT holds QID (R131). -/
def execCreateQp (tag : Nat) (s : State) : Res :=
  match adminTag s tag 3 with
  | none => .next s
  | some t =>
    match createQpBad s t with
    | some d => .next (adminDone s t (outBad stBAD_FIELD d))
    | none =>
      .next (adminDone { s with qm := { s.qm with pairs := s.qm.pairs ++ [newPair t] } } t (outResult (seOp t.entry 0x50 2)))

/-- DELETE_QP: fetching from the SQ stops and unfetched entries are dropped; QID 0 or a missing pair is BAD_FIELD (R132). One of
a pair that another DELETE_QP removes waits for that one (log entry 91). -/
def execDeleteQp (tag : Nat) (s : State) : Res :=
  match adminTag s tag 4 with
  | none => .next s
  | some t =>
    let q := seOp t.entry 0x40 2
    if q = 0 ∨ (findPair s t.fn q).isNone then .next (adminDone s t (outBad stBAD_FIELD 0x40))
    else if ((findPair s t.fn q).bind (fun p => p.deleting)).isSome then .next s
    else
      .next (updTag (updPair s t.fn q (fun p => { p with deleting := some tag, sqTail := p.sqHead })) tag
        (fun x => { x with commit := .started }))

/-- DELETE_QP_COMPLETE: the pair's fetched commands have completed: the pair is removed and the command ends OK (R132). -/
def execDeleteQpComplete (tag : Nat) (s : State) : Res :=
  match findTag s tag, s.qm.pairs.find? (fun p => p.deleting = some tag) with
  | some t, some p =>
    .next (if s.qm.tags.any (fun x => x.fn = p.fn && x.qid = p.qid) then s
      else updTag { s with qm := { s.qm with pairs := s.qm.pairs.filter (fun x => !(x.fn = p.fn && x.qid = p.qid)) } } t.tag
        (fun x => { x with done := some (outStatus stOK) }))
  | _, _ => .next s

/-- Whether a target in flight has not committed; an ABORT always has (R129). -/
def stillWaits (x : TagEntry) : Bool := x.commit = .waiting && x.done.isNone && seOpcode x.entry != 2

/-- The in-flight target of an ABORT. -/
def abortTarget (s : State) (d target self : Nat) : Option TagEntry :=
  let c := s.qm.tags.filter (fun x => x.tag != self && !opLocal (seOpcode x.entry) && seDomain x.entry = d && seReqId x.entry = target)
  ((c.find? stillWaits).orElse (fun _ => c.head?))

/-- Apply ABORTED to a waiting target: it completes ABORTED and leaves no window entry (R122, R129). -/
def applyAborted (s : State) (x : TagEntry) : State :=
  let s := updTag s x.tag (fun y => { y with commit := .aborted, done := some (outStatus stABORTED), dupWait := false })
  let s := if inWindow x then winRemove s (seDomain x.entry) (seReqId x.entry) else s
  bump s F.QMGR_ABORTS_COUNT F.QMGR_ABORTS_SAT

/-- The ABORT's own end: it commits at once and its window entry is DONE with its outcome (R124, R129). -/
def abortEnds (s : State) (t : TagEntry) (o : Outcome) : State :=
  winDone (updTag s t.tag (fun x => { x with commit := .started, done := some o })) (seDomain t.entry) (seReqId t.entry) o

/-- An ABORT that waited as a duplicate and proceeds as new enters the window (R126). -/
def abortEnters (s : State) (t : TagEntry) : State := if t.dupWait then dupAsNew s t else s

/-- ABORT with a target decides it by the table of R129. -/
def abortDecides (s : State) (t : TagEntry) (d target : Nat) : State :=
  match abortTarget s d target t.tag with
  | some x => if stillWaits x then abortEnds (applyAborted s x) t (outResult 1) else abortEnds s t (outStatus stTOO_LATE)
  | none =>
    match winFind s d target with
    | some w => abortEnds s t (if w.state = .preAborted then outResult 3 else outStatus stTOO_LATE)
    | none =>
      let pre : WinEntry := { reqId := target, digest := 0, state := .preAborted, status := 0, result := 0, outBytes := 0 }
      abortEnds (winAdd s d pre) t (outResult 2)

/-- ABORT: its own checks, then its target (R129). -/
def execAbort (tag : Nat) (s : State) : Res :=
  match adminTag s tag 2 with
  | none => .next s
  | some t =>
    let s := abortEnters s t
    let t := { t with dupWait := false }
    let target := seOp t.entry 0x40 8
    .next (if target = 0 then failTag s t (outBad stBAD_FIELD 0x40)
      else match overLong t.entry with
        | some o => failTag s t o
        | none => abortDecides s t (seDomain t.entry) target)

/-! ## Function resets and the endpoint -/

/-- Clear VF Enable: a function-level reset of every VF (R137). -/
def clearVfs (s : State) : State :=
  { (((List.range 63).map (· + 1)).foldl flr s) with qm := { (((List.range 63).map (· + 1)).foldl flr s).qm with vfEnable := false } }

/-- FUNCTION_LEVEL_RESET: of a VF (R136), or of the PF with every VF (R137). -/
def rowFunctionLevelReset (fn : Nat) (s : State) : Res :=
  .next (if !(hostReach s && fnExists s fn) then s else
    let s := endPattern s (fun _ => true)
    if fn = 0 then clearVfs (flr s 0) else flr s fn)

/-- VF_ENABLE_CLEAR: clearing VF Enable acts as a function-level reset of every VF (R137). -/
def rowVfEnableClear (s : State) : Res := .next (if hostReach s then clearVfs s else s)

/-- BUS_MASTER_ENABLE_CLEAR: the function's queues go as by a function-level reset, the admin pair among them; RDY clears and
EN stays (R138). -/
def rowBusMasterEnableClear (fn : Nat) (s : State) : Res :=
  .next (if hostReach s ∧ fnExists s fn then
      let stale := isSet s (F.ADMIN_STATUS_RDY fn) && !s.qm.enStale.contains fn
      let s := setF (dropFunction s fn) (F.ADMIN_STATUS_RDY fn) 0
      let s := if stale then { s with qm := { s.qm with enStale := s.qm.enStale ++ [fn] } } else s
      { s with qm := { s.qm with busMaster := s.qm.busMaster.filter (fun n => n != fn) } }
    else s)

/-- The reset of PCIEC at a fundamental reset: everything but the two counters, IDE_REQUIRED reloaded (R57). -/
def resetPciec (s : State) : State :=
  let fails := getF s F.PCIEC_IDE_FAILS
  let sat := getF s F.PCIEC_IDE_SAT
  let req := getF s F.PCIEC_IDE_REQUIRED
  let s := resetRegs s (fun b o => b = Blk.PCIEC && (o = 0 || o = 8))
  setF (setF (setF { s with qm := { s.qm with ideKeyed := false, ideRange := none } } F.PCIEC_IDE_FAILS fails) F.PCIEC_IDE_SAT sat)
    F.PCIEC_IDE_REQUIRED req

/-- The scope of a PCIe fundamental reset: PHY, controller, queue state; windows and effects stand (R55, R57). -/
def fundamentalReset (s : State) : State :=
  let s := endPattern s (fun _ => true)
  resetPciec (dropAllFunctions { s with power := { s.power with dataLink := false }, qm := { s.qm with vfEnable := false } })

/-- Whether a device reset or a main power-on is in progress: the Gecko leg has not come past step 2 (R58). -/
def inReset (s : State) : Bool := s.power.phase = .off || s.power.phase = .held

/-- PCIE_FUNDAMENTAL_RESET: PE_PERST_N falls; while a wider reset is in progress only the pin does (R55, R57, R58, R60). -/
def rowPcieFundamentalReset (s : State) : Res :=
  let t := { s with power := { s.power with perst := false } }
  .next (if inReset s then t else setF (fundamentalReset t) F.SYSCTL_RSTCAUSE_PERST 1)

/-- PE_PERST_N_RISE: the link may train while the PHY is powered (R53). -/
def execPePerstNRise (s : State) : Res := .next { s with power := { s.power with perst := true } }

/-- The widths and speeds a link has (R100). -/
def linkFits (width speed ltssm : Nat) : Bool := [1, 2, 4, 8, 16].contains width && 1 ≤ speed && speed ≤ 5 && ltssm < 64

/-- LINK_TRAINED: the data link layer is active (R53, R100); until the Open release every request but configuration gets no
answer and configuration gets retry status. -/
def execLinkTrained (width speed ltssm : Nat) (s : State) : Res :=
  .next (if s.power.phy ∧ s.power.perst ∧ linkFits width speed ltssm then
      let s := { s with power := { s.power with dataLink := true } }
      setF (setF (setF (setF s F.PCIEC_LINK_UP 1) F.PCIEC_LINK_WIDTH width) F.PCIEC_LINK_SPEED speed) F.PCIEC_LINK_LTSSM ltssm
    else s)

/-- IDE_TLP_FAILURE: the TLP is dropped, the stream goes Insecure, the failure is counted and reported (R140). -/
def execIdeTlpFailure (s : State) : Res :=
  .next (if s.qm.ideKeyed ∧ s.power.dataLink then
      let s := { s with qm := { s.qm with ideKeyed := false, aerErrs := s.qm.aerErrs + 1 } }
      bump (setF s F.PCIEC_IDE_STATE 0) F.PCIEC_IDE_FAILS F.PCIEC_IDE_SAT
    else s)

end Sys2Proof.Machine
end

