-- ==== Sys2Proof/Machine/Tamper.lean ====
section
/-!
DEFINITION. Tamper.lean: the commands of the tamper block (R457–R477). TAMPER_HOLD_END stands with bring-up, ZEROISE_ALL_COMPLETE with the
lifecycle.
-/
namespace Sys2Proof.Machine

/-- Detectors of the live sources that trip, the one under self-test masked (R476). -/
def liveTrips (s : State) (det : Nat) (v : BitVec 16) : BitVec 16 :=
  (List.range 16).foldl (fun a n => if v.getLsbD n && sourceLive s n && s.tamper.selfTest != some (n, det) then a ||| BitVec.ofNat 16 (2 ^ n) else a) 0

/-- Detectors report tripped: the sources that were clear start one event together (R457, R463). -/
def tripDetectors (s : State) (a b : BitVec 16) : State :=
  let srcs := (List.range 15).filter (fun n => !tripped s n && ((liveTrips s 0 a ||| liveTrips s 1 b).getLsbD n))
  let s := showTripped { s with tamper := { s.tamper with tripA := s.tamper.tripA ||| liveTrips s 0 a, tripB := s.tamper.tripB ||| liveTrips s 1 b } }
  tamperEvent s srcs false

/-- Both detectors of a source clear. -/
def clearSource (s : State) (n : Nat) : State :=
  let keep := ~~~ BitVec.ofNat 16 (2 ^ n)
  showTripped { s with tamper := { s.tamper with tripA := s.tamper.tripA &&& keep, tripB := s.tamper.tripB &&& keep } }

/-- TAMPER_EVENT: the detectors that trip within the 20 ns of ranking (R463). -/
def execTamperEvent (tripsA tripsB : BitVec 16) (s : State) : Res := .next (tripDetectors s tripsA tripsB)

/-- TAMPER_SOURCE_CLEAR: a source is clear; its next trip starts a new event (R457). -/
def execTamperSourceClear (src : Fin 16) (s : State) : Res := .next (clearSource s src.val)

/-- MONITOR_DISAGREE: one detector of a pair has been tripped alone for more than 1 ms (R457). -/
def execMonitorDisagree (src : Fin 16) (s : State) : Res :=
  let n := src.val
  .next (if sourceLive s n && s.tamper.tripA.getLsbD n != s.tamper.tripB.getLsbD n then
      let s := setF s F.TAMPER_DISAGREE_LATCHED (getF s F.TAMPER_DISAGREE_LATCHED ||| 2 ^ n)
      if geckoUp s then faultReport (occur s 0x306 n 0 0) 0x2E n 0 else s
    else s)

/-- The judgement of a loop: two consecutive bad measurements trip its source, a good one clears it (R458, R598). -/
def judgeLoop (s : State) (n bad : Nat) : State :=
  if bad = 0 then clearSource s n
  else if 2 ≤ bad then tripDetectors s (BitVec.ofNat 16 (2 ^ n)) (BitVec.ofNat 16 (2 ^ n))
  else s

/-- LOOP0_MEASUREMENT: the resistance of loop 0 lies outside 100 Ω–10 kΩ or not (R458). -/
def execLoop0Measurement (ohms : Nat) (s : State) : Res :=
  .next (if sourceLive s 7 then
      let bad := if ohms < 100 ∨ 10000 < ohms then s.tamper.loop0Bad + 1 else 0
      judgeLoop { s with tamper := { s.tamper with loop0Bad := min 2 bad } } 7 bad
    else s)

/-- LOOP1_CODE: the code received on loop 1 against the generator's next code; its counter moves on (R459). -/
def execLoop1Code (code : BitVec 16) (late : Bool) (s : State) : Res :=
  .next (if sourceLive s 8 then
      let want := (Config.loopCode s.tamper.loopKey s.tamper.loopCtr).setWidth 16
      let bad := if late ∨ code != want then s.tamper.loop1Bad + 1 else 0
      judgeLoop { s with tamper := { s.tamper with loop1Bad := min 2 bad, loopCtr := s.tamper.loopCtr + 1 } } 8 bad
    else s)

/-- A write of TAMPER_CTRL with its KEY; another KEY is ignored. -/
def tamperKeyed (key : BitVec 16) (s t : State) : Res := whenGecko s (if key = 0x7A4D then t else s)

/-- A ZEROISE_ALL is requested; ignored while ZPEND is 1 and in DECOMMISSIONED. Sealed firmware records the request with the TARGET
of the transition it belongs to (R472). -/
def requestZall (s : State) : State :=
  if isSet s F.TAMPER_STATUS_ZPEND || life s = 4 then s
  else
    let s := zeroiseAllStart { s with tamper := { s.tamper with zallRunning := true } }
    occur s 0x402 ((s.led.act.map (fun a => a.target)).getD 0) 0 0

/-- ZALL (R472). -/
def execZall (key : BitVec 16) (s : State) : Res := tamperKeyed key s (requestZall s)

/-- A new battery key from instance 28 (R470). -/
def makeBk (s : State) : State :=
  if isSet s F.TAMPER_STATUS_BK_VALID then s
  else
    let (k, s) := drbgBits s 28 384
    setF (setF { s with tamper := { s.tamper with bk := some (BitVec.ofNat 384 k) } } F.TAMPER_STATUS_BK_VALID 1) F.TAMPER_STATUS_ZALL_DONE 0

/-- BKGEN: ignored while BK_VALID is 1 (R470). -/
def execBkgen (key : BitVec 16) (s : State) : Res := tamperKeyed key s (makeBk s)

/-- ZPEND clears, and ZALL_DONE is set when there is no BK (R471, R472). -/
def zdone (s : State) : State :=
  if isSet s F.TAMPER_STATUS_ZPEND then
    let s := setF s F.TAMPER_STATUS_ZPEND 0
    if isSet s F.TAMPER_STATUS_BK_VALID then s else setF s F.TAMPER_STATUS_ZALL_DONE 1
  else s

/-- ZDONE (R471). -/
def execZdone (key : BitVec 16) (s : State) : Res := tamperKeyed key s (zdone s)

/-- UNLOCK: LOCKED clears; ignored while ZPEND is 1 (R474). -/
def execUnlock (key : BitVec 16) (s : State) : Res :=
  tamperKeyed key s (if isSet s F.TAMPER_STATUS_ZPEND then s else setF s F.TAMPER_STATUS_LOCKED 0)

/-- CFG_LOCK: needs no KEY; the response fields are locked (R465). -/
def execCfgLock (s : State) : Res := whenGecko s (setF s F.TAMPER_CTRL_CFG_LOCK 1)

/-- TAMPER_SELFTEST: a write; with GO the test of a detector starts, or is refused (R476). -/
def execTamperSelftest (v : W32) (s : State) : Res :=
  let w := v.toNat
  let n := F.TAMPER_SELFTEST_SOURCE.ofWord w
  let d := F.TAMPER_SELFTEST_DET.ofWord w
  let other := if d = 0 then s.tamper.tripB.getLsbD n else s.tamper.tripA.getLsbD n
  let s1 := writeReg s Blk.TAMPER 0x18 (w % 2 ^ 31)
  whenGecko s
    (if !v.getLsbD 31 then s1
     else if n = 15 ∨ isSet s (F.TAMPER_RESP_DISABLED n) then setF s1 F.TAMPER_SELFTEST_ERR 1
     else if s.tamper.selfTest.isSome then setF s1 F.TAMPER_SELFTEST_ERR 2
     else if other then setF s1 F.TAMPER_SELFTEST_ERR 3
     else
      let s := setF (setF s1 F.TAMPER_SELFTEST_ERR 0) F.TAMPER_SELFTEST_GO 1
      setF { s with tamper := { s.tamper with selfTest := some (n, d) } } F.TAMPER_STATUS_SELFTEST_BUSY 1)

/-- TAMPER_SELFTEST_END: DONE, with FAIL and a report when the detector did not trip or did not clear (R476). Whether it did is the
event's. -/
def execTamperSelftestEnd (tripped cleared : Bool) (s : State) : Res :=
  .next (match s.tamper.selfTest with
    | none => s
    | some (n, d) =>
      let s := setF (setF { s with tamper := { s.tamper with selfTest := none } } F.TAMPER_STATUS_SELFTEST_BUSY 0) F.TAMPER_SELFTEST_GO 0
      let s := setF s F.TAMPER_SELFTEST_DONE 1
      if tripped && cleared then s else faultReport (setF s F.TAMPER_SELFTEST_FAIL 1) 0x2F n d)

/-- TAMPER_FORCE: each bit trips a source as its detector A would, as one event; only in BLANK and RMA (R477). The trip is gone at once,
as the register reads 0. -/
def execTamperForce (v : BitVec 16) (s : State) : Res :=
  whenGecko s
    (if life s != 0 ∧ life s != 3 then s
     else tamperEvent s ((List.range 15).filter (fun n => v.getLsbD n && sourceLive s n && !tripped s n)) true)

/-- TAMPER_CELLLOG_READ: a read pops one entry; the register keeps what it gave (R470). -/
def execTamperCelllogRead (s : State) : Res :=
  whenGecko s
    (match s.tamper.cellLog with
     | [] =>
       let s := setF (setF (setF s F.TAMPER_CELLLOG_SECONDS 0) F.TAMPER_CELLLOG_VALID 0) F.TAMPER_CELLLOG_OVERFLOW 0
       setF (setF (setF s F.TAMPER_CELLLOG_LOSTCNT 0) F.TAMPER_CELLLOG_EXECUTED 0) F.TAMPER_CELLLOG_SOURCES 0
     | e :: rest =>
       let s := { s with tamper := { s.tamper with cellLog := rest } }
       let s := setF (setB s F.TAMPER_STATUS_CELL_EVENTS (!rest.isEmpty)) F.TAMPER_CELLLOG_VALID 1
       let s := setB (setF s F.TAMPER_CELLLOG_SECONDS e.seconds) F.TAMPER_CELLLOG_OVERFLOW e.overflow
       setF (setF (setF s F.TAMPER_CELLLOG_LOSTCNT e.lost) F.TAMPER_CELLLOG_EXECUTED e.executed) F.TAMPER_CELLLOG_SOURCES e.sources)

end Sys2Proof.Machine
end

