-- ==== Sys2Proof/Machine/Lifecycle.lean ====
section
/-!
DEFINITION. Lifecycle.lean: lifecycle transitions (R62–R66, R299, R310, R315), the requested ZEROISE_ALL they make (R472), and the
commands after which a transition's action follows.
-/
namespace Sys2Proof.Machine

/-! ## What a transition needs (R64) -/

/-- The state and ownership period a transition starts from. -/
def lifePeriod (s : State) : Nat := ownerPeriod s.fuse.shadow.life

/-- Whether R64 has a transition to TARGET from the current state. -/
def transitionOk (s : State) (target : Nat) : Bool :=
  match life s, target with
  | 0, 1 => true
  | 1, 2 => true
  | 2, 3 => true
  | 3, 1 => lifePeriod s = 0
  | 0, 4 => true
  | 1, 4 => true
  | 2, 4 => true
  | 3, 4 => true
  | _, _ => false

/-- The quorum operation of a transition, 0 where none is needed (R64, R538). -/
def transitionQuorum (s : State) (target : Nat) : Nat :=
  match life s, target with
  | 1, 2 => 1
  | 2, 3 => 2
  | 0, 4 => 0
  | _, 4 => 3
  | _, _ => 0

/-- The length of an enrolment bundle with its custodian set. -/
def bundleLen (n : Nat) : Bool := (List.range 16).any (fun i => n = 256 + 16 + 112 * (i + 1))

/-- Whether an input length fits R315; a TARGET without a transition is refused by a later check. -/
def lifeLenOk (s : State) (target n : Nat) : Bool :=
  match life s, target with
  | 0, 1 => bundleLen n
  | 1, 2 => n = 0
  | 2, 3 => n = 256
  | 3, 1 => 304 ≤ n && bundleLen (n - 304)
  | 0, 4 => n = 256
  | 1, 4 => n = 0
  | 2, 4 => n = 0
  | 3, 4 => n = 0
  | _, _ => true

/-! ## Content (R315) -/

/-- The public key and body of a signed message of LIFECYCLE. -/
def lifePub (b : Bytes) : Bytes := sliceZ b 0x38 96
def lifeBody (b : Bytes) : Bytes := slice b 0xA0 (leAt b 0x98 4)

/-- Whether a message is well formed for a target, of the length its BODY_LEN gives, names this device and is signed by SIGNER_PUB. -/
def lifeSigned (s : State) (b : Bytes) (target : Nat) : Bool :=
  let n := leAt b 0x98 4
  slice b 0 4 = [0x4C, 0x43, 0x59, 0x43] && byteAt b 4 = target && allZero b 5 3 && slice b 8 48 = hashBytes (deviceId s)
    && allZero b 0x9C 4 && b.length = 256 + n
    && ecdsaVerify P384 (lifePub b) (hashBytes (sha384 (b.take (0xA0 + n)))) (slice b (0xA0 + n) 96)

/-- Whether a key is Ohmolaku's. -/
def vendorKey (s : State) (pub : Bytes) : Bool := sha384 pub = s.fuse.shadow.vendorHash

/-- Whether every programmed bit of a hash is set in another (R66). -/
def hashFits (have_ want : Hash) : Bool := have_ &&& want = have_

/-- What the content gives: the new owner's key hash, the custodian set and AUTH of R299; none fails verification. -/
def lifeContent (s : State) (target : Nat) (b : Bytes) : Option (Option Hash × Option Bytes × Nat) :=
  match life s, target with
  | 0, 1 =>
    if lifeSigned s b 1 && csetOk (lifeBody b) && hashFits s.fuse.shadow.owner0 (sha384 (lifePub b)) then
      some (some (sha384 (lifePub b)), some (lifeBody b), 1) else none
  | 3, 1 =>
    let tok := b.take 304
    let bun := b.drop 304
    let h := sha384 (lifePub bun)
    if lifeSigned s tok 1 && vendorKey s (lifePub tok) && lifeBody tok = hashBytes h && lifeSigned s bun 1 && csetOk (lifeBody bun)
        && hashFits s.fuse.shadow.owner1 h then
      some (some h, some (lifeBody bun), 5) else none
  | 2, 3 => if lifeSigned s b 3 && vendorKey s (lifePub b) && leAt b 0x98 4 = 0 then some (none, none, 4) else none
  | 0, 4 => if lifeSigned s b 4 && vendorKey s (lifePub b) && leAt b 0x98 4 = 0 then some (none, none, 2) else none
  | _, _ => some (none, none, 3)

/-- Whether the action of a transition begins with a ZEROISE_ALL (R64). -/
def lifeZeroises (s : State) (target : Nat) : Bool := target = 3 || target = 4 || (life s = 3 && target = 1)

/-- The body of a LIFECYCLE record (R299). -/
def lifeRecBody (s : State) (target auth quorum : Nat) (b : Bytes) : Bytes :=
  leBytes (life s) 1 ++ leBytes target 1 ++ leBytes auth 1 ++ zeros 1 ++ leBytes quorum 2 ++ zeros 10
    ++ (if b.isEmpty then zeros 48 else hashBytes (sha384 b))

/-- Accept a transition: its record, and its action to come; none when the content fails (R300, R315). -/
def acceptLife (s : State) (tag target quorum : Nat) (b : Bytes) (ok : Bool) : Option State :=
  match lifeContent s target b with
  | none => none
  | some (owner, cset, auth) =>
    let act : LifeAct := { tag := tag, source := life s, target := target, owner := owner, cset := cset, zall := lifeZeroises s target }
    let s := ledgerAppend s { kind := 3, verdict := 0, flags := 0, rstcause := 0, body := lifeRecBody s target auth quorum b } ok
    some { s with led := { s.led with act := some act } }

/-! ## The action (R63–R66, R315) -/

/-- The lifecycle bit pair of a target state in a period (R62). -/
def lifePair (period target : Nat) : Nat := if target = 4 then 3 else (if period = 0 then 0 else 4) + (target - 1)

/-- Program the bits of an owner key hash that are set. -/
def burnHash (s : State) (target : Nat) (h : Hash) : State :=
  (List.range 384).foldl (fun t i => if h.getLsbD (hashBit i) then (requestBurn t target i).1 else t) s

/-- Program the first bit of a state, then the second (R63). -/
def burnPair (s : State) (p : Nat) : State := (requestBurn (requestBurn s 0 (2 * p)).1 0 (2 * p + 1)).1

/-- The new owner's set and an empty authorised table (R65, R291, R535). -/
def newOwner (s : State) (a : LifeAct) : State :=
  { s with quorum := { s.quorum with cset := a.cset }, hf := { s.hf with auth := [], select := 0 } }

/-- The fuses of a transition. For OWNED the owner key hash comes first and is read back (R64, R66). -/
def lifeFuses (s : State) (a : LifeAct) : State :=
  if a.target = 1 then
    let p := if a.source = 3 then 1 else 0
    let h := a.owner.getD 0
    let s := burnHash s (if p = 1 then 5 else 2) h
    if (if p = 1 then s.fuse.shadow.owner1 else s.fuse.shadow.owner0) = h then newOwner (burnPair s (lifePair p 1)) a else s
  else burnPair s (lifePair (lifePeriod s) a.target)

/-- The end of the action: fuses, then a device reset (R64, R315). -/
def lifeFinish (s : State) (a : LifeAct) : State :=
  deviceReset (lifeFuses { s with led := { s.led with act := none } } a) F.SYSCTL_RSTCAUSE_LIFECYCLE

/-- Whether a transition's completion has been posted or dropped: its tag is no longer in the table. -/
def lifePosted (s : State) (a : LifeAct) : Bool := !s.qm.tags.any (fun t => t.tag = a.tag)

/-- The action, due within 100 ms after the completion (R315): with a ZEROISE_ALL it is requested now, and the rest follows its end; an
erase still owed is made first (R471). -/
def lifeDue (s : State) : State :=
  match s.led.act with
  | none => s
  | some a =>
    if !lifePosted s a || s.tamper.zallRunning then s
    else if a.zall then requestZall (if isSet s F.TAMPER_STATUS_ZPEND then zdone (eraseRanges s) else s)
    else lifeFinish s a

/-- ZEROISE_ALL_COMPLETE: every range is erased: ZPEND clears and ZALL_DONE is set. A tamper response makes its reset now (R461 step 8); else a
transition that waited goes on (R315, R472). -/
def execZeroiseAllComplete (s : State) : Res :=
  whenGecko s
    (if !s.tamper.zallRunning && s.tamper.resp = 0 then s
     else if s.tamper.resp != 0 then
      deviceReset (zeroiseAllEnd { s with tamper := { s.tamper with zallRunning := false, resp := 0 } }) F.SYSCTL_RSTCAUSE_TAMPER
     else
      let s := zeroiseAllEnd { s with tamper := { s.tamper with zallRunning := false } }
      match s.led.act with
      | none => s
      | some a => if a.zall && lifePosted s a then lifeFinish s a else s)

/-! ## LIFECYCLE -/

/-- The custodians who counted in the open session, a bit each (R299). -/
def quorumBits (s : State) : Nat := ((s.quorum.session.map (fun x => x.approved)).getD []).foldl (fun a i => a ||| 2 ^ i) 0

/-- The checks of LIFECYCLE, in order. -/
def chkLifecycle (s : State) (t : TagEntry) : List (Option Outcome) :=
  let g := seOp t.entry 0x40 1
  [spareOperands t.entry [(0x40, 1)], badInLen (!lifeLenOk s g (seInLen t.entry)), pfOnly t, badField (!transitionOk s g) 0x40]

/-- LIFECYCLE once its checks pass. -/
def goLifecycle (r : Run) (s : State) (t : TagEntry) : State :=
  let g := seOp t.entry 0x40 1
  let b := sliceZ (r.input.getD []) 0 (seInLen t.entry)
  let go := fun (q : Nat) (s : State) => startOn s t r 3 0 (fun s =>
    (withInput r (seInLen t.entry) (fun b => (outResult g, .lifecycle g q b)), s))
  if transitionQuorum s g = 0 then go 0 s else withQuorum s t (transitionQuorum s g) b (go (quorumBits s))

/-- LIFECYCLE (R310, R315). -/
def execLifecycle (r : Run) (s : State) : Res := checked s r 0x8E (chkLifecycle s) (goLifecycle r s)

/-- Its effect: the record, and VERIFY_FAILED when the content fails (R315). A transition another request has made since is not made
again. -/
def effLifecycle (s : State) (tag target quorum : Nat) (b : Bytes) (ok : Bool) (out : Outcome) : State × Outcome :=
  if s.led.act.isSome || !transitionOk s target then (s, outBad stBAD_FIELD 0x40)
  else
    match acceptLife s tag target quorum b ok with
    | none => (s, outStatus stVERIFY_FAILED)
    | some s => (s, out)

/-! ## Commands that take a tag off the table -/

/-- What a command leaves, with a transition's action once its completion has gone. -/
def thenLife : Res → Res
  | .next s => .next (lifeDue s)
  | .fault f => .fault f
  | .refused x => .refused x

/-- COMPLETION_POST (R113–R118, R130, R134, R136, R141, R315). -/
def execCompletionPost (tag : Nat) (writeOk : Bool) (s : State) : Res := thenLife (rowCompletionPost tag writeOk s)

/-- FUNCTION_LEVEL_RESET: of a VF (R136), or of the PF with every VF (R137). -/
def execFunctionLevelReset (fn : Nat) (s : State) : Res := thenLife (rowFunctionLevelReset fn s)

/-- VF_ENABLE_CLEAR (R137). -/
def execVfEnableClear (s : State) : Res := thenLife (rowVfEnableClear s)

/-- BUS_MASTER_ENABLE_CLEAR (R138). -/
def execBusMasterEnableClear (fn : Nat) (s : State) : Res := thenLife (rowBusMasterEnableClear fn s)

/-- ADMIN_DISABLE (R108, R134). -/
def execAdminDisable (p : AdminWr) (s : State) : Res := thenLife (rowAdminDisable p.fn p.ide s)

/-- PCIE_FUNDAMENTAL_RESET: PE_PERST_N falls (R55, R57, R60). -/
def execPcieFundamentalReset (s : State) : Res := thenLife (rowPcieFundamentalReset s)

end Sys2Proof.Machine
end

