-- ==== Sys2Proof/Machine/PatternTest.lean ====
section
/-!
DEFINITION. PatternTest.lean: the pattern engines TEST and LTEST (R577, R578).
-/
namespace Sys2Proof.Machine

/-- Whether a class and index name a target; LTEST has classes 1 to 3 (R577). -/
def testTarget (land : Bool) (cls idx : Nat) : Bool :=
  match cls with
  | 1 => idx < 16
  | 2 => idx < 128
  | 3 => idx < 36
  | 4 => !land
  | 5 => !land
  | _ => false

/-- Whether the state allows a test of a target (R577). -/
def testAllowed (s : State) (cls idx : Nat) : Bool :=
  let free := life s = 0 || life s = 3
  let owned := life s = 1 || life s = 2
  match cls with
  | 1 => free && !s.power.dataLink
  | 2 =>
    if free then !s.ks.domains.any (fun d => d.2.state = .live)
    else owned && idx % 32 = getF s (F.HBMC_STATUS_SPARE_PC (idx / 32)) && !isSet s (F.HBMC_STATUS_SPARE_USED (idx / 32))
  | 3 => free || (owned && 32 ≤ idx)
  | 4 => free
  | 5 => free && s.power.hold
  | _ => false

/-- The fields of a TEST_CTRL word that a write keeps. -/
def testCtrl (s : State) (land : Bool) (w : Nat) : State :=
  if land then
    setF (setF (setF (setF (setF s F.LTEST_CTRL_PATTERN (F.LTEST_CTRL_PATTERN.ofWord w)) F.LTEST_CTRL_CLASS (F.LTEST_CTRL_CLASS.ofWord w))
      F.LTEST_CTRL_DIR (F.LTEST_CTRL_DIR.ofWord w)) F.LTEST_CTRL_INDEX (F.LTEST_CTRL_INDEX.ofWord w)) F.LTEST_CTRL_SECONDS (F.LTEST_CTRL_SECONDS.ofWord w)
  else
    setF (setF (setF (setF (setF s F.TEST_CTRL_PATTERN (F.TEST_CTRL_PATTERN.ofWord w)) F.TEST_CTRL_CLASS (F.TEST_CTRL_CLASS.ofWord w))
      F.TEST_CTRL_DIR (F.TEST_CTRL_DIR.ofWord w)) F.TEST_CTRL_INDEX (F.TEST_CTRL_INDEX.ofWord w)) F.TEST_CTRL_SECONDS (F.TEST_CTRL_SECONDS.ofWord w)

/-- The ERR a GO of a TEST_CTRL word ends with at once, 0 for a test that runs: busy, no target, not allowed, no lock. Landau's targets give
no lock while it is not built. -/
def testErr (s : State) (land : Bool) (w : Nat) (lock : Bool) : Nat :=
  let cls := F.TEST_CTRL_CLASS.ofWord w
  let idx := F.TEST_CTRL_INDEX.ofWord w
  if s.test.isSome then 2
  else if !testTarget land cls idx then 3
  else if !testAllowed s cls idx || 4 < F.TEST_CTRL_PATTERN.ofWord w then 1
  else if !lock || (cls ≤ 3 && !landauUp s) then 4
  else 0

/-- The test runs: BUSY, LOCK, counts 0. -/
def testRuns (s : State) (land : Bool) (w : Nat) : State :=
  let s := testCounts (testCtrl s land w) land 0 0
  let t : TestRun := { land := land, cls := F.TEST_CTRL_CLASS.ofWord w, idx := F.TEST_CTRL_INDEX.ofWord w, dir := F.TEST_CTRL_DIR.ofWord w }
  let s := { s with test := some t }
  if land then setF (setF (setF (setF s F.LTEST_STATUS_BUSY 1) F.LTEST_STATUS_LOCK 1) F.LTEST_STATUS_ERR 0) F.LTEST_CTRL_GO 1
  else setF (setF (setF (setF s F.TEST_STATUS_BUSY 1) F.TEST_STATUS_LOCK 1) F.TEST_STATUS_ERR 0) F.TEST_CTRL_GO 1

/-- A write of TEST_CTRL with GO; while a test runs its settings stand (R577). -/
def testStart (s : State) (land : Bool) (w : Nat) (lock : Bool) : State :=
  match testErr s land w lock with
  | 0 => testRuns s land w
  | 2 => testDone s land 2
  | e => testDone (testCtrl s land w) land e

/-- PATTERN_TEST_START: a write of TEST_CTRL or LTEST_CTRL; without GO only its settings change. -/
def execPatternTestStart (land : Bool) (v : W32) (lock : Bool) (s : State) : Res :=
  let t := if v.getLsbD 31 then testStart s land v.toNat lock else testCtrl s land v.toNat
  .next (if (if land then landauUp s else geckoUp s && domainOn s 79) then t else s)

/-- PATTERN_TEST_STOP: STOP ends the running test of its engine, with what the checker has counted (R578). -/
def execPatternTestStop (land : Bool) (bits : W64) (errs : BitVec 31) (s : State) : Res :=
  .next (match s.test with
    | none => s
    | some t => if t.land = land then testEnds (testCounts s land bits errs.toNat) t 0 else s)

/-- The SECONDS of the running test. -/
def testSeconds (s : State) (land : Bool) : Nat := if land then getF s F.LTEST_CTRL_SECONDS else getF s F.TEST_CTRL_SECONDS

/-- PATTERN_TEST_END: SECONDS have passed; a test with SECONDS 0 runs on (R578). -/
def execPatternTestEnd (bits : W64) (errs : BitVec 31) (s : State) : Res :=
  .next (match s.test with
    | none => s
    | some t => if testSeconds s t.land = 0 then s else testEnds (testCounts s t.land bits errs.toNat) t 0)

end Sys2Proof.Machine
end

