-- ==== Sys2Proof/Machine/FwSlots.lean ====
section
/-!
DEFINITION. FwSlots.lean: the Sealed firmware slots and their verification (R45).
-/
namespace Sys2Proof.Machine

/-- Whether a Sealed slot verifies: the key, the signature over its image, the version against anti-rollback counter 0 (R45). -/
def fwVerifies (s : State) (x : FwSlot) : Bool :=
  sha384 x.pub = s.fuse.shadow.vendorHash && ecdsaVerify P384 x.pub (hashBytes (sha384 x.image)) x.sig && arbCount s 0 ≤ x.version

/-- A slot read from the bytes stored in it (R45; log entry 38); the active mark is the slot's own. -/
def fwOfBytes (active : Bool) (b : Bytes) : FwSlot :=
  { image := Config.fwPart 0 b, pub := Config.fwPart 1 b, sig := Config.fwPart 2 b, version := leAt (Config.fwPart 3 b) 0 4, active := active }

/-- Sealed slot 1 = A, 2 = B. -/
def fwSlot (s : State) (n : Nat) : FwSlot := if n = 1 then s.boot.slotA else s.boot.slotB
def setFwSlot (s : State) (n : Nat) (x : FwSlot) : State :=
  { s with boot := if n = 1 then { s.boot with slotA := x } else { s.boot with slotB := x } }

/-- The slot tried first: the one marked active; A where both are marked, B where neither is (R45; log entry 83). -/
def fwFirst (s : State) : Nat := if s.boot.slotA.active then 1 else 2

/-- The slot the boot ROM starts, 0 when neither verifies (R45, R47). -/
def fwChoose (s : State) : Nat :=
  let n := fwFirst s
  if fwVerifies s (fwSlot s n) then n else if fwVerifies s (fwSlot s (otherSlot n)) then otherSlot n else 0

end Sys2Proof.Machine
end

