-- ==== Sys2Proof/Machine/Tag.lean ====
section
/-!
DEFINITION. Tag.lean: the contactless tag: field commands, its handle pool and service intents, firmware operations (R553–R569).
-/
namespace Sys2Proof.Machine

/-! ## Answers -/

/-- Give an answer; one given while main power is good is counted. -/
def tagSay (s : State) (a : TagAns) : State :=
  let s := { s with tag := { s.tag with out := s.tag.out ++ [a] } }
  if a != .silent && geckoUp s then bump s F.TAG_CMDS_COUNT F.TAG_CMDS_SAT else s

/-- Interrupt source 14, while Gecko is powered. -/
def tagIrq (s : State) : State := if geckoUp s then raise s 14 else s

/-- TAG_STATUS.HANDLES follows the pool. -/
def showHandles (s : State) : State := setF s F.TAG_STATUS_HANDLES (tagHandles s)

/-- The identity in force: the UID, or in privacy mode the round's handle (R554, R561). -/
def tagIdent (s : State) : Option Nat := if tagPrivacy s then s.tag.round.map (fun r => beNat r.2) else some (tagUid s)

/-- Whether a bank-1 erase that can be suspended no further runs, so that a field command gets no answer (R446, R567). -/
def eraseHolds (s : State) : Bool :=
  (s.flash.run.map (fun o => (o.op = 2 || o.op = 3) && flashBank o.addr = 1 && 64 ≤ o.susp)).getD false

/-- A field command suspends a running bank-1 erase and lets it go on after the response (R446, R567). -/
def countEraseSusp (s : State) : State :=
  { s with flash := { s.flash with run := s.flash.run.map (fun o =>
      if (o.op = 2 ∨ o.op = 3) ∧ flashBank o.addr = 1 then { o with susp := o.susp + 1 } else o) } }

/-- A field command that reaches the tag: in a field, in the supported form, answered in time; else nothing is answered (R553, R567). -/
def tagHears (s : State) (q : TagReq) (f : State → State) : Res :=
  .next (if !s.tag.field then s
    else if q.sub || q.late || eraseHolds s then tagSay s .silent
    else f (countEraseSusp s))

/-- Whether an addressed, selected or open request is for this tag; a quiet tag takes addressed ones only (R553). -/
def tagMine (s : State) (q : TagReq) : Bool :=
  if q.sel then s.tag.selected
  else match q.uid with
    | some u => tagIdent s = some u.toNat
    | none => !s.tag.quiet

/-- A command for this tag; another's goes unanswered. -/
def tagFor (s : State) (q : TagReq) (f : State → State) : Res := tagHears s q (fun s => if tagMine s q then f s else tagSay s .silent)

/-! ## The field (R555, R556) -/

/-- FIELD_APPEARS: the Tadpole domain is powered and ready; FIELD_SEEN (R555). -/
def execFieldAppears (s : State) : Res :=
  .next (if s.tag.field then s
    else
      let s := setF (setF { s with tag := { s.tag with field := true } } F.TAG_STATUS_FIELD 1) F.TAG_STATUS_FIELD_SEEN 1
      tagIrq (setB (setB s F.TAG_STATUS_SOURCE (!geckoUp s)) F.FLASHC_STATUS_FIELD (!geckoUp s)))

/-- FIELD_ABSENT: after 1 ms without a field Quiet, Selected and the round are left (R556). -/
def execFieldAbsent (s : State) : Res :=
  .next (if s.tag.field then
      setF (setF (setF { s with tag := { s.tag with field := false, quiet := false, selected := false, round := none } } F.TAG_STATUS_FIELD 0)
        F.TAG_STATUS_SOURCE 0) F.FLASHC_STATUS_FIELD 0
    else s)

/-! ## Inventory (R560, R561) -/

/-- Whether a mask fits an identity: its least significant bits. -/
def maskFits (ident len mask : Nat) : Bool := mask % 2 ^ len = ident % 2 ^ len

/-- The inventory answer by the mask rule: DSFID 0x00, then the identity, in its slot. -/
def inventoryAnswer (s : State) (ident : Nat) (slots16 : Bool) (len mask : Nat) : State :=
  if s.tag.quiet || (slots16 && 60 < len) || !maskFits ident len mask then tagSay s .silent
  else tagSay s (.inSlot (if slots16 then ident / 2 ^ len % 16 else 0) (0 :: leBytes ident 8))

/-- INVENTORY: answered with privacy off, unless it asks for an AFI that is not 0x00 (R553, R560). -/
def execInventory (q : TagReq) (slots16 : Bool) (len : Fin 65) (mask : BitVec 64) (afi : Option (BitVec 8)) (s : State) : Res :=
  tagHears s q (fun s =>
    if tagPrivacy s || (afi.map (fun a => a != 0)).getD false then tagSay s .silent
    else inventoryAnswer s (tagUid s) slots16 len.val mask.toNat)

/-- STAY QUIET: the addressed tag becomes quiet; it has no response (R553). -/
def execStayQuiet (q : TagReq) (s : State) : Res :=
  tagHears s q (fun s =>
    tagSay (if q.uid.isSome && tagMine s q && !q.sel then { s with tag := { s.tag with quiet := true, selected := false } } else s) .silent)

/-- SELECT: the addressed tag becomes selected, any other selected one ready (R553). -/
def execSelect (q : TagReq) (s : State) : Res :=
  tagHears s q (fun s =>
    match q.uid with
    | none => tagSay s .silent
    | some u =>
      if tagIdent s = some u.toNat then tagSay { s with tag := { s.tag with selected := true, quiet := false } } (.ok [])
      else tagSay { s with tag := { s.tag with selected := false } } .silent)

/-- RESET TO READY (R553). -/
def execResetToReady (q : TagReq) (s : State) : Res :=
  tagFor s q (fun s => tagSay { s with tag := { s.tag with quiet := false, selected := false } } (.ok []))

/-- GET SYSTEM INFORMATION: identity, DSFID and AFI 0x00, 2,048 blocks of 32 bytes, IC reference 0x09 (R554). -/
def execGetSystemInformation (q : TagReq) (_ext : Bool) (s : State) : Res :=
  tagFor s q (fun s => match tagIdent s with
    | none => tagSay s .silent
    | some u => tagSay s (.system u 0 0 2048 32 9))

/-! ## Reading blocks (R557) -/

/-- Hidden blocks: block 6 of each half, the handle pool, the service intents. -/
def tagHidden (b : Nat) : Bool := b = 6 || b = 134 || (1664 ≤ b && b < 1920)

/-- Whether firmware erases the sector of a block now, running or suspended (R567). -/
def tagErasing (s : State) (b : Nat) : Bool :=
  (s.flash.run.toList ++ s.flash.stack).any (fun o => (o.op = 2 || o.op = 3 || o.op = 5) && inSectors (opSectors o) 1 (880 + b / 128))

/-- A block as the field reads it: blank when no summary half is valid; free where its line does not read, or its sector is under an erase
(R446, R450, R555). -/
def tagRead (s : State) (b : Nat) : Bytes × State :=
  if (validHalf s).isNone then (List.replicate 32 0xFF, s)
  else if tagReads s b && !tagErasing s b then (tmBlock s b, s) else drawBytes s 32

/-- Blocks from a first one. -/
def tagReadMany (s : State) (b : Nat) : Nat → Bytes × State
  | 0 => ([], s)
  | n + 1 =>
    let (x, s) := tagRead s b
    let (t, s) := tagReadMany s (b + 1) n
    (x ++ t, s)

/-- Whether a range of blocks cannot be named: none, more than 8, or beyond what the form or the memory has. -/
def tagRange (ext : Bool) (b n : Nat) : Bool := n = 0 || 8 < n || (if ext then 2048 else 256) < b + n

/-- The answer to a read. -/
def tagReadAnswer (s : State) (ext : Bool) (b n : Nat) : State :=
  if tagRange ext b n || (List.range n).any (fun i => tagHidden (b + i)) then tagSay s (.error 0x10)
  else
    let (d, s) := tagReadMany s b n
    tagSay s (.ok d)

/-- READ SINGLE BLOCK (R557). -/
def execReadSingleBlock (q : TagReq) (ext : Bool) (block : BitVec 16) (s : State) : Res :=
  tagFor s q (fun s => tagReadAnswer s ext block.toNat 1)

/-- READ MULTIPLE BLOCKS: up to 8 (R557). -/
def execReadMultipleBlocks (q : TagReq) (ext : Bool) (first count : BitVec 16) (s : State) : Res :=
  tagFor s q (fun s => tagReadAnswer s ext first.toNat count.toNat)

/-! ## Programs for the field (R565, R566) -/

/-- Measure the rectified voltage. -/
def tagMeasure (s : State) (w : TagWr) : State := setF s F.TAG_FIELD_VRECT_MV w.mv.toNat

/-- Whether the check passes: always with main power, else at 2.4 V or more with a store that covers every line (R565). -/
def tagChecked (s : State) (w : TagWr) : Bool := geckoUp s || (w.enough && 2400 ≤ w.mv.toNat)

/-- A failed check is counted. -/
def tagWeak (s : State) : State := bump s F.TAG_WEAK_COUNT F.TAG_WEAK_SAT

/-- Program lines, (block, bytes), in order: how many programmed whole, and the state; a collapse or a line that does not verify tears its
line and ends it. With main power a collapse cuts no program. -/
def tagLines (s : State) (w : TagWr) : List (Nat × Bytes) → Nat → Nat × State
  | [], i => (i, s)
  | (b, d) :: t, i =>
    if (w.cut = some i && !geckoUp s) || w.bad = some i then (i, tearLine s (tagAddr b) d)
    else tagLines (programLine s (tagAddr b) d) w t (i + 1)

/-- What the reader sees of n lines asked for and k programmed: nothing after a collapse; error 0x13 where a line failed to verify. -/
def tagWritten (s : State) (w : TagWr) (k n : Nat) : State :=
  if w.cut.isSome then tagSay s .silent
  else if k < n then tagSay s (.error 0x13)
  else tagSay s (.ok [])

/-- A block write from the field: the owner area, FIELD_WRITE on, no erase there, blank blocks, one check for all lines (R557, R565–R567). -/
def tagFieldPut (s : State) (ext : Bool) (b n : Nat) (data : Bytes) (w : TagWr) : State :=
  if tagRange ext b n then tagSay s (.error 0x10)
  else if b < 1920 || !tagFieldWrite s then tagSay s (.error 0x12)
  else if data.length != 32 * n then tagSay s (.error 0x02)
  else if tagErasing s b then tagSay s (.error 0xA2)
  else if (List.range n).any (fun i => !tagBlank s (b + i)) then tagSay s (.error 0xA0)
  else
    let s := tagMeasure s w
    if !tagChecked s w then tagSay (tagWeak s) (.error 0x13)
    else
      let (k, s) := tagLines s w ((List.range n).map (fun i => (b + i, slice data (32 * i) 32))) 0
      tagWritten s w k n

/-- WRITE SINGLE BLOCK (R557, R565). -/
def execWriteSingleBlock (q : TagReq) (ext : Bool) (block : BitVec 16) (data : Bytes) (w : TagWr) (s : State) : Res :=
  tagFor s q (fun s => tagFieldPut s ext block.toNat 1 data w)

/-- WRITE MULTIPLE BLOCKS: up to 8, in ascending order (R565). -/
def execWriteMultipleBlocks (q : TagReq) (ext : Bool) (first count : BitVec 16) (data : Bytes) (w : TagWr) (s : State) : Res :=
  tagFor s q (fun s => tagFieldPut s ext first.toNat count.toNat data w)

/-- A request the tag does not support: error 0x01; a custom code of another manufacturer goes unanswered (R553, R563). -/
def execTagRequestUnsupported (q : TagReq) (code mfr : BitVec 8) (s : State) : Res :=
  tagFor s q (fun s => if 0xA0 ≤ code.toNat && mfr != 0x6C then tagSay s .silent else tagSay s (.error 0x01))

/-! ## Custom commands (R561–R564) -/

/-- A custom command of this manufacturer. -/
def tagCustom (s : State) (mfr : BitVec 8) (f : State → State) : State := if mfr = 0x6C then f s else tagSay s .silent

/-- LEDGER_SUMMARY_READ: the low 4 bytes of the valid half's sequence, then blocks of it, block 6 as zeros (R563). -/
def execLedgerSummaryRead (q : TagReq) (mfr first count : BitVec 8) (s : State) : Res :=
  tagFor s q (fun s => tagCustom s mfr (fun s =>
    let b := first.toNat
    let n := count.toNat
    if n = 0 || 8 < n || 128 < b + n then tagSay s (.error 0x10)
    else match validHalf s with
      | none => tagSay s (.error 0x10)
      | some (h, seq) =>
        tagSay s (.ok (leBytes seq 4 ++ (List.range n).flatMap (fun i => if b + i = 6 then zeros 32 else tmBlock s (128 * h + b + i))))))

/-- The lowest pool entry that holds a handle and has a blank marker (R561). -/
def poolEntry (s : State) : Option Nat :=
  (List.range 32).find? (fun k => !tagBlank s (1664 + 2 * k) && tagBlank s (1665 + 2 * k))

/-- A round starts: the marker of the lowest entry is programmed under the check of R565, and its handle serves (R561). -/
def startRound (s : State) (w : TagWr) : State :=
  let s := { s with tag := { s.tag with round := none } }
  match poolEntry s with
  | none => s
  | some k =>
    if tagErasing s 1664 then s
    else
      let s := tagMeasure s w
      if !tagChecked s w then tagWeak s
      else
        let h := [0xE0, 0x6C] ++ slice (tmBlock s (1664 + 2 * k)) 0 6
        let (m, s) := drawBytes s 32
        let (n, s) := tagLines s w [(1665 + 2 * k, m)] 0
        let s := showHandles s
        if n = 1 && w.cut.isNone then { s with tag := { s.tag with round := some (k, h) } } else s

/-- PRIVACY_INVENTORY: the round's handle answers, a new round starting where one is due; with privacy off the UID answers (R561, R563). -/
def execPrivacyInventory (q : TagReq) (mfr : BitVec 8) (slots16 : Bool) (len : Fin 65) (mask : BitVec 64) (w : TagWr) (s : State) : Res :=
  tagHears s q (fun s => tagCustom s mfr (fun s =>
    if !tagPrivacy s then inventoryAnswer s (tagUid s) slots16 len.val mask.toNat
    else if s.tag.quiet then tagSay s .silent
    else
      let s := if len.val = 0 || s.tag.round.isNone then startRound s w else s
      match s.tag.round with
      | none => tagSay s .silent
      | some (_, h) => inventoryAnswer s (beNat h) slots16 len.val mask.toNat))

/-- Whether an intent block has its MAGIC, a KIND and zero reserved bytes (R564). -/
def intentOk (b : Bytes) : Bool :=
  b.length = 32 && slice b 0 4 = [0x53, 0x56, 0x49, 0x4E] && 1 ≤ byteAt b 4 && byteAt b 4 ≤ 4 && allZero b 5 3

/-- The commit block of an intent in a slot (R564). -/
def intentCommit (slot : Nat) (b : Bytes) : Bytes :=
  [0x49, 0x4E, 0x43, 0x4D] ++ leBytes slot 2 ++ zeros 2 ++ leBytes (crc32 b).toNat 4 ++ List.replicate 20 0xFF#8

/-- The slot after the highest one that holds a programmed line (R564). -/
def intentSlot (s : State) : Nat :=
  (((List.range 128).filter (fun i => !tagBlank s (1792 + i))).map (fun i => i / 2 + 1)).foldl max 0

/-- SERVICE_INTENT_WRITE: the intent, then its commit block, in the next slot (R564–R567). -/
def execServiceIntentWrite (q : TagReq) (mfr : BitVec 8) (data : Bytes) (w : TagWr) (s : State) : Res :=
  tagFor s q (fun s => tagCustom s mfr (fun s =>
    let k := intentSlot s
    if !intentOk data then tagSay s (.error 0x02)
    else if 64 ≤ k then tagSay s (.error 0xA1)
    else if tagErasing s 1792 then tagSay s (.error 0xA2)
    else
      let s := tagMeasure s w
      if !tagChecked s w then tagSay (tagWeak s) (.error 0x13)
      else
        let (n, s) := tagLines s w [(1792 + 2 * k, data), (1793 + 2 * k, intentCommit k data)] 0
        let s := if n = 2 && geckoUp s then tagIrq (setF s F.TAG_STATUS_INTENT 1) else s
        tagWritten s w n 2))

/-! ## What Sealed firmware keeps in tag memory (R562, R564) -/

/-- Draw handles into the pool from entry k on. -/
def fillPool (s : State) : Nat → State
  | 0 => s
  | n + 1 =>
    let (h, s) := drawBytes (fillPool s n) 6
    tagProgram s (1664 + 2 * n) (h ++ zeros 26)

/-- Refill the pool: erase sector 13, write 32 fresh handles. -/
def refillPool (s : State) : State := showHandles (fillPool (tagErase s 13) 32)

/-- HANDLE_POOL_REFILL: when fewer than 8 handles remain and instance 28 can serve (R562). -/
def execHandlePoolRefill (s : State) : Res :=
  whenGecko s (if tagHandles s < 8 && rngServes s 28 0 && s.tag.op.isNone then refillPool s else s)

/-- The intents that count: slot and block (R564). -/
def countedIntents (s : State) : List (Nat × Bytes) :=
  ((List.range 64).map (fun k => (k, tmBlock s (1792 + 2 * k)))).filter (fun e =>
    !tagBlank s (1792 + 2 * e.1) && tagReads s (1792 + 2 * e.1) && tagReads s (1793 + 2 * e.1)
      && tmBlock s (1793 + 2 * e.1) = intentCommit e.1 e.2)

/-- Record each counted intent as event 0x0401 and erase the intents. -/
def recordIntents (s : State) : State :=
  let l := countedIntents s
  let s := l.foldl (fun t e => occur t 0x401 (byteAt e.2 4) e.1 (leAt e.2 0x10 4)) s
  if (List.range 128).all (fun i => tagBlank s (1792 + i)) then s else tagErase s 14

/-- INTENT_RECORDING: on TAG_STATUS.INTENT (R564). -/
def execIntentRecording (s : State) : Res := whenGecko s (if s.tag.op.isNone then recordIntents s else s)

/-! ## Firmware operations (R567, R569) -/

/-- A firmware operation ends: DONE with ERR and FLASHC's result. -/
def tagDone (s : State) (err flashErr : Nat) : State :=
  tagIrq (setF (setF (setF s F.TAG_RESULT_ERR err) F.TAG_RESULT_FLASH_ERR flashErr) F.TAG_STATUS_DONE 1)

/-- Hand an operation to the flash controller; one it refuses ends with ERR FLASH. -/
def tagFlash (s : State) (cmd : Nat) (o : FlashOp) (fetch : Nat) : State :=
  let t := flashStart s o 0 fetch
  if t.flash.run = some o then setF { t with tag := { t.tag with op := some cmd } } F.TAG_STATUS_BUSY 1
  else tagDone t 2 (getF t F.FLASHC_RESULT_ERR)

/-- A write of TAG_CMD: a wrong KEY is ignored, one while BUSY ends BUSY (R569). -/
def tagCmd (w : FlashWr) (s : State) (f : State → State) : Res :=
  whenGecko s (if w.key != 0x5447 then s else if s.tag.op.isSome then tagDone s 4 0 else f s)

/-- TAG_WRITE: COUNT lines within one tag sector from SRAM, the whole source checked as master 8 first (R569). -/
def execTagWrite (w : FlashWr) (s : State) : Res :=
  tagCmd w s (fun s =>
    let n := getF s F.TAG_ADDR_COUNT
    let b := getF s F.TAG_ADDR_BLOCK
    let a := getF s F.TAG_SRC_ADDR
    if n = 0 || 8 < n || 128 < b % 128 + n || a % 32 != 0 || !inSram a (32 * n) then tagDone s 1 0
    else if !masterOk s 8 0 a (32 * n) then tagDone (recordDenied s 0 8 0 a (32 * n)) 3 0
    else tagFlash s 1 { op := 1, addr := tagAddr b, len := 32 * n, data := geckoBytes s a (32 * n), tag := true, susp := 0 } w.fetch.val)

/-- TAG_ERASE: the tag sector whose first block is BLOCK (R569). -/
def execTagErase (w : FlashWr) (s : State) : Res :=
  tagCmd w s (fun s =>
    let b := getF s F.TAG_ADDR_BLOCK
    if b % 128 != 0 then tagDone s 1 0
    else tagFlash s 2 { op := 2, addr := tagAddr b, len := 0, data := [], tag := true, susp := 0 } w.fetch.val)

/-- TAG_OPERATION_END: the firmware operation ends with FLASHC's result (R569). -/
def execTagOperationEnd (e : FlashEnd) (s : State) : Res :=
  .next (match s.flash.run with
    | none => s
    | some o =>
      if !o.tag then s
      else
        let t := flashFinish s o e
        let err := getF t F.FLASHC_RESULT_ERR
        let t := setF { t with tag := { t.tag with op := none } } F.TAG_STATUS_BUSY 0
        showHandles (tagDone t (if err = 0 then 0 else 2) err))

end Sys2Proof.Machine
end

