-- ==== Sys2Proof/Machine/PowerUp.lean ====
section
/-!
DEFINITION. PowerUp.lean: supplies, the Gecko leg and the reset commands (R42–R47, R55–R61, R264, R268, R444, R459, R466–R470, R473,
R508, R513, R587–R589).
-/
namespace Sys2Proof.Machine

/-! ## Supplies (R42, R43, R55, R473) -/

/-- The cell domain without a supply: its registers, BK, marks, cell log, evidence target and times are lost (R473). -/
def cellLose (s : State) : State :=
  { resetRegs s cellReg with tamper := TamperState.init, power := { s.power with vbat := false, main := false, hold := false } }

/-- Open and staged event records are lost with main power (R507). -/
def evLose (s : State) : State :=
  evRefresh { s with ev := { s.ev with openRecs := [], staging := [], lostPending := false, restored := false } }

/-- A cell power-on: every register of the cell domain at its reset value, CELL_POR among them; the times are to be restored and CELL_LOSS
judged at the next bring-up (R55, R60, R473, R513). -/
def cellPowerOn (s : State) (vbat main : Bool) : State :=
  let s := evLose (cellLose s)
  { s with
    tamper := { s.tamper with cellLoss := true }
    ev := { s.ev with cellOn := true }
    power := { s.power with vbat := vbat, main := main, hold := true, causes := 1 } }

/-- CELL_POWER_ON: VBAT or main power returns while neither was present (R55, R473, R607). -/
def execCellPowerOn (vbat main : Bool) (s : State) : Res :=
  .next (if cellUp s || !(vbat || main) then s else cellPowerOn s vbat main)

/-- CELL_SUPPLY_LOSS: the cell is removed. Without main power the cell domain loses its supply; with it T01 trips and the domain runs on
(R473). -/
def execCellSupplyLoss (s : State) : Res :=
  .next (if !s.power.vbat then s
    else if geckoUp s then tripDetectors { s with power := { s.power with vbat := false } } 2 2
    else cellLose s)

/-- Main power good is withdrawn: bring-up or service ends, and with it everything but the cell domain, fuses and flash; without VBAT the
cell domain goes too (R42, R55, R507, R589). -/
def mainPowerLost (s : State) : State :=
  let s := resetGecko (resetLandau (noteCause s F.SYSCTL_RSTCAUSE_BROWNOUT)) true
  let s := setF (evLose s) F.TAMPER_STATUS_HOLD 0
  let cell : BitVec 16 := 0x1B6
  let s := showTripped { s with tamper := { s.tamper with tripA := s.tamper.tripA &&& cell, tripB := s.tamper.tripB &&& cell } }
  let s := { s with power := { s.power with main := false, mainGood := false, hold := true, skipHold := false } }
  if s.power.vbat then s else cellLose s

/-- MAIN_POWER_GOOD_WITHDRAWN (R42). -/
def execMainPowerGoodWithdrawn (s : State) : Res := .next (if geckoUp s then mainPowerLost s else s)

/-! ## Gecko leg step 2 (R44, R59, R466, R470, R476, R508, R513) -/

/-- The domains of step 2, with the cell domain and the power sequencer's own. -/
def geckoDomains : List Nat := (List.range 12).map (· + 52) ++ [67, 68, 69] ++ (List.range 10).map (· + 70)

/-- The recorder reads its ring: HEAD and OLDEST (R508). -/
def evScan (s : State) : State :=
  let s := setF s F.EVREC_HEAD_SEQ (((s.ev.ring.getLast?).map (fun b => b.1)).getD 0)
  let s := setF s F.EVREC_OLDEST_SEQ (((s.ev.ring.head?).map (fun b => b.1)).getD 0)
  evRefresh (setF s F.EVREC_STATUS_SCANNED 1)

/-- A counter takes a value restored, saturated with its SAT bit where that value is its largest (R6, R7). -/
def restoreCount (s : State) (f sat : Field) (v : Nat) : State :=
  setB (setF s f v) sat (2 ^ f.width - 1 ≤ v)

/-- OPTIME and PCYCLE from the newest record found (R513 step 1); with none they start from 0. -/
def restoreTimes (s : State) : State :=
  let r := (s.ev.ring.getLast?).bind (fun b => b.2.getLast?)
  let s := restoreCount s F.TIMEKEEP_OPTIME_COUNT F.TIMEKEEP_OPTIME_SAT ((r.map (fun x => x.optLast)).getD 0)
  let s := restoreCount s F.TIMEKEEP_PCYCLE_COUNT F.TIMEKEEP_PCYCLE_SAT ((r.map (fun x => x.pcycle)).getD 0)
  let s := bump s F.TIMEKEEP_PCYCLE_COUNT F.TIMEKEEP_PCYCLE_SAT
  setF { s with ev := { s.ev with restored := true } } F.TIMEKEEP_STATUS_RESTORED 1

/-- The records of one entry of the cell log: one for each source of the event (R470). -/
def copyEntry (s : State) (e : CellEntry) : State :=
  (List.range 16).foldl (fun t n =>
    if e.sources.testBit n then occurAt t (0x200 + n) evCELL 0 0 (e.sources * 65536 + e.executed) e.seconds else t) s

/-- The cell log is copied to the recorder and emptied; a response of INTERRUPT or above raises source 5 now (R469, R470). -/
def copyCellLog (s : State) : State :=
  let l := s.tamper.cellLog
  let s := l.foldl copyEntry { s with tamper := { s.tamper with cellLog := [] } }
  let s := if l.any (fun e => 1 ≤ e.executed) then raise s 5 else s
  let s := setF s F.TAMPER_STATUS_CELL_EVENTS 0
  match l.getLast? with
  | some e => if e.overflow then occurAt s 0x310 evCELL 0 0 e.lost (rtc s) else s
  | none => s

/-- After a cell power-on the times are restored, and TIME_RESTORED follows what was copied; else the cell log alone is copied (R470, R513). -/
def copyTimes (s : State) : State :=
  if s.ev.cellOn then
    let s := copyCellLog (restoreTimes s)
    let s := occur s 0x311 0 0 (optime s)
    { s with ev := { s.ev with restored := false, cellOn := false } }
  else copyCellLog s

/-- The self-tests of step 2: a detector that fails is reported (R476). -/
def testMonitors (s : State) (fail : BitVec 16) : State :=
  (List.range 15).foldl (fun t n =>
    if fail.getLsbD n && n != 10 && !isSet t (F.TAMPER_RESP_DISABLED n) then faultReport t 0x2F n 0 else t) s

/-- The monitors start: a source still tripped starts a new event, which holds the relay in place of a reset (R59, R466). -/
def startMonitors (s : State) : State :=
  let srcs := (List.range 15).filter (fun n => sourceLive s n && tripped s n)
  tamperEvent s srcs false

/-- Step 2: domains, banks, recorder, monitors. A collector self-fault of before is recorded (R481). -/
def geckoStep2 (s : State) (p : PowerGood) : State :=
  let s := { s with power := { s.power with phase := .held, start := some p, udsOpen := true } }
  let s := geckoDomains.foldl (fun t d => setDomainOn t d true) s
  let s := copyTimes (evScan (showSpares (scanHalf s)))
  let s := occur s 0x30D 0 0 s.power.causes
  let s := { s with power := { s.power with causes := 0 } }
  let s := match s.fc.selfFault with
    | some (u, i, forced) => noteReport { s with fc := { s.fc with selfFault := none } } 0x30 u i forced
    | none => s
  startMonitors (testMonitors s p.monFail)

/-! ## Steps 3 to 6 -/

/-- Step 3: the fuse load (R46, R435, R475); TARGET takes PROGRAMMED where it is lower. What each read of the array misreads is the event's. -/
def fuseLoad (s : State) (p : PowerGood) : State :=
  let rd := readFuses s.fuse.arr
  let s := loadFuseRegs { s with fuse := { s.fuse with shadow := settleFuses (rd p.miss1) (rd p.miss2) (rd p.miss3) } }
  let s := setF (showSpares s) F.FUSE_STATUS_LOADED 1
  let s := setF s F.TAMPER_EVID_TARGET (max (getF s F.TAMPER_EVID_TARGET) (getF s F.TAMPER_EVID_PROGRAMMED))
  let s := { s with power := { s.power with phase := .sealed, start := none } }
  if rd p.miss1 = rd p.miss2 then s else tamperTrip (setF s F.FUSE_STATUS_MISMATCH 1) 12

/-- Evidence that waits is programmed after step 3; a cell power-on in OWNED or DEPLOYED adds to it and is recorded (R467, R473). -/
def pendingEvidence (s : State) : State :=
  let s := if s.tamper.cellLoss && (life s = 1 || life s = 2) then
      let t := min 256 (getF s F.TAMPER_EVID_TARGET + 1)
      occur (setF s F.TAMPER_EVID_TARGET t) 0x308 0 0 t
    else s
  programEvidence { s with tamper := { s.tamper with cellLoss := false } }

/-- Step 4: start-up and known-answer tests; instance 28; the loop-code key (R264, R265, R268, R459). The raw bits and the known-answer tests' outcome are the
event's. -/
def geckoStep4 (s : State) (p : PowerGood) : State :=
  let s := if p.kat then
      let s := setSrc (setSrc s 0 2) 1 2
      let s := if startupOk s p.noise0 then s else healthFail s 0 0
      serviceRefresh (if startupOk s p.noise1 then s else healthFail s 1 0)
    else occur (serviceRefresh (setSrc (setSrc (setF s F.RNG_STATUS_KAT_FAIL 1) 0 3) 1 3)) 0x30E 0 0 2
  if isSet s F.RNG_STATUS_NO_SEED then s
  else
    let (k, s) := drbgBits (instantiate s 28) 28 128
    { s with tamper := { s.tamper with loopKey := BitVec.ofNat 128 k, loopCtr := 0 } }

/-- The private scalars of the boot ROM's derivation: 0 DeviceID, 1 alias/attestation key, 2 structure key (R44 step 6, R94). -/
def bootKey (s : State) (which : Nat) : Bytes :=
  sliceZ (Config.diceKey which (match which with
    | 1 => hashBytes bootRomHash ++ hashBytes s.power.sealedMeas
    | 2 => hashBytes (ownerKeyHash s)
    | _ => [])) 0 48

/-- The storage seed SS (R142, R257). -/
def storageSeed : Bytes := hashBytes (hmac384 Config.uds [0x73, 0x74, 0x6F, 0x72, 0x61, 0x67, 0x65])

/-- Step 5 for the slot that verifies, its sectors write-protected, and step 6: keys, identity; UDS closes (R44, R94, R257, R444). -/
def startSealed (s : State) (n : Nat) : State :=
  let s := setF s F.SYSCTL_STATE_SEALED_SLOT n
  let s := { s with power := { s.power with sealedMeas := sha384 (fwSlot s n).image } }
  let s := (List.range 32).foldl (fun t i => setF t (if n = 1 then F.FLASHC_WP0_PROTECT i else F.FLASHC_WP1_PROTECT i) (Config.slotWp n i).toNat) s
  let keys := (List.range 3).map (fun i => (i, bootKey s i))
  let pub := fun i => (ecPublic P384 (bootKey s i)).drop 1
  let s := setSciphSlot { s with spke := { s.spke with slots := keys } } 0 storageSeed
  { s with led := { s.led with devPub := pub 0, akPub := pub 1 }, power := { s.power with udsOpen := false, phase := .sealed } }

/-- What Sealed firmware does first: a battery key where there is none, fresh nonces, the handle pool, the service intents (R470, R562,
R564, R575, R581). -/
def sealedStarts (s : State) : State :=
  let s := if rngServes s 28 1 then makeBk s else s
  let (n, s) := drbgBytes s 28 32
  let s := freshNonce { s with sb := { s.sb with nonce := n } }
  recordIntents (if rngServes s 28 0 then refillPool s else s)

/-- Steps 3 to 6, once nothing holds the relay; a response to T12 may end the bring-up (R44–R47). -/
def geckoRest (s : State) (p : PowerGood) : State :=
  let s := fuseLoad s p
  if s.power.phase != .sealed then s
  else
    let s := geckoStep4 (pendingEvidence s) p
    match fwChoose s with
    | 0 => occur { s with power := { s.power with phase := .romRecovery, udsOpen := false } } 0x30E 0 0 1
    | n => sealedStarts (startSealed s n)

/-- The Gecko leg from step 2: held at the end of step 2 while HOLD is set (R44, R466). -/
def geckoLeg (s : State) (p : PowerGood) : State :=
  let s := geckoStep2 s p
  if isSet s F.TAMPER_STATUS_HOLD then s else geckoRest s p

/-- Main power-on: the cell domain too where it had no supply; the power cycle is counted (R42, R43, R55, R512). -/
def mainPowerOn (s : State) : State :=
  let s := if cellUp s then s else cellPowerOn s false true
  let s := { s with power := { s.power with main := true, mainGood := true, hold := true, skipHold := false } }
  let s := countBoot (noteCause (showPins s) F.SYSCTL_RSTCAUSE_MAIN_POR)
  if s.ev.cellOn then s else bump s F.TIMEKEEP_PCYCLE_COUNT F.TIMEKEEP_PCYCLE_SAT

/-- MAIN_POWER_GOOD: a main power-on and the Gecko leg; after a device reset, the Gecko leg alone (log entry 29). -/
def execMainPowerGood (p : PowerGood) (s : State) : Res :=
  .next (if geckoUp s then if s.power.phase = .off then geckoLeg s p else s
    else geckoLeg (mainPowerOn s) p)

/-- Whether a source still tripped keeps the relay held: its response is RESET or above (R466). -/
def stillHolds (s : State) : Bool := (List.range 15).any (fun n => sourceLive s n && tripped s n && decide (2 ≤ tamperResp s n))

/-- TAMPER_HOLD_END: every such source has been clear for 100 ms; bring-up goes on from step 3 (R466). -/
def execTamperHoldEnd (s : State) : Res :=
  .next (match s.power.phase, s.power.start with
    | .held, some p => if stillHolds s then s else geckoRest (setF s F.TAMPER_STATUS_HOLD 0) p
    | _, _ => s)

/-! ## Resets by command (R55, R56, R58) -/

/-- The cause bit of a device reset. -/
def causeField : ResetCause → Field
  | .request _ => F.SYSCTL_RSTCAUSE_REQUEST
  | .fault => F.SYSCTL_RSTCAUSE_FAULT
  | .tamper => F.SYSCTL_RSTCAUSE_TAMPER
  | .coreStop => F.SYSCTL_RSTCAUSE_CORE_STOP
  | .debug => F.SYSCTL_RSTCAUSE_DEBUG
  | .lifecycle => F.SYSCTL_RSTCAUSE_LIFECYCLE

/-- Whether a trigger counts: SYSCTL_RESET needs its KEY, a reset through debug access a scope. -/
def resetCounts (s : State) : ResetCause → Bool
  | .request key => key = 0x5A3C
  | .debug => scopesOpen s != 0
  | _ => true

/-- DEVICE_RESET: dropped until the Gecko leg of a reset at least as wide has come past step 2 (R55, R56, R58). -/
def execDeviceReset (c : ResetCause) (s : State) : Res :=
  whenGecko s (if s.power.phase = .off || s.power.phase = .held || !resetCounts s c then s else deviceReset s (causeField c))

/-- LANDAU_REBUILD: SYSCTL_RESET kind 2; dropped while a wider reset is in progress (R55, R58). -/
def execLandauRebuild (s : State) : Res :=
  whenGecko s (if s.power.phase = .off || s.power.phase = .held then s else landauRebuild s)

end Sys2Proof.Machine
end

