-- ==== Sys2Proof/Machine/RetireChain.lean ====
section
/-!
DEFINITION. RetireChain.lean: the retire chain (R94–R96), substitutions and pseudo-channel swaps, whose records it holds (R97, R167).
-/
namespace Sys2Proof.Machine

/-! ## Records (R95) -/

/-- Bytes 0x00–0x3F of a record, and all 160. -/
def retireHead (r : RetireRec) : Bytes :=
  [0x4B, 0x59, 0x41, 0x4D] ++ leBytes r.seq 4 ++ leBytes r.cls 1 ++ leBytes r.unit 1 ++ leBytes r.retire 1 ++ leBytes r.spare 1
    ++ leBytes r.reason 2 ++ zeros 2 ++ hashBytes r.prev
def retireBytes (r : RetireRec) : Bytes := retireHead r ++ sliceZ r.sig 0 96

/-- The public key of SK, which SPKE slot 2 holds. -/
def skPub (s : State) : Bytes := ((spkeSlot s 2).map (fun k => (ecPublic P384 k).drop 1)).getD []

/-- The records from a list that verify after a record's hash and SEQ. -/
def verifiedFrom (s : State) (seq : Nat) (prev : Hash) : List RetireRec → List RetireRec
  | [] => []
  | r :: l =>
    if r.seq = seq ∧ r.prev = prev ∧ ecdsaVerify P384 (skPub s) (hashBytes (sha384 (retireHead r))) r.sig then
      r :: verifiedFrom s (seq + 1) (sha384 (retireBytes r)) l
    else []

/-- The verified chain; what follows the first record that does not verify is ignored (R96). -/
def verifiedChain (s : State) : List RetireRec := verifiedFrom s 1 0 s.struct.chain

/-- Whether a verified record of the chain holds a part's retirement. -/
def inChain (s : State) (cls unit idx : Nat) : Bool := (verifiedChain s).any (fun r => r.cls = cls && r.unit = unit && r.retire = idx)

/-- Append a record, signed by SK; a part is retired at most once (R95). REASON is the collector's where its request names the part. -/
def appendRetire (s : State) (cls unit idx spare : Nat) : State :=
  if inChain s cls unit idx then s
  else
    let asked := isSet s F.FCOLL_RETIRE_VALID && getF s F.FCOLL_RETIRE_CLASS = cls && getF s F.FCOLL_RETIRE_UNIT = unit
      && getF s F.FCOLL_RETIRE_PART = idx
    let v := verifiedChain s
    let r : RetireRec :=
      { seq := v.length + 1, cls := cls, unit := unit, retire := idx, spare := spare,
        reason := if asked then getF s F.FCOLL_RETIRE_REASON else 0,
        prev := ((v.getLast?).map (fun r => sha384 (retireBytes r))).getD 0, sig := [] }
    let (sig, s) := match spkeSlot s 2 with
      | some k => spkeSign s k (hashBytes (sha384 (retireHead r)))
      | none => drawBytes s 96
    { s with struct := { s.struct with chain := v ++ [{ r with sig := sig }] } }

/-- The event of a retirement (R97, R503). -/
def retireEvent (s : State) (cls unit idx : Nat) : State := occur s 0x30F cls 0 (256 * unit + idx)

/-! ## Substitution (R97–R99) -/

/-- AMEND_COMMIT: from BUILT to AMENDING; with an amendment or drain in progress it is refused with 0x82 (R97, R99); a mode
change in progress refuses it as well (R30). The retire record is in the chain before it (R97 step 2). -/
def execAmendCommit (key : BitVec 16) (s : State) : Res :=
  structKeyed key s
    (if getF s F.STRUCT_STATUS_STATE = 5 ∨ s.struct.drain.isSome ∨ isSet s F.PWRARB_STATUS_MODE_BUSY then
      structError s { code := 0x82, sect := 0, index := 0 }
    else if getF s F.STRUCT_STATUS_STATE = 3 then
      let (p, sp) := amendPart s
      let s := if 1 ≤ p.cls ∧ p.cls ≤ 3 then appendRetire s p.cls p.unit p.idx sp else s
      setF (clearStructError s) F.STRUCT_STATUS_STATE 5
    else structSequence s)

/-- AMEND_CHECK_END: the check ends; the spare comes into service, or the structure is unchanged and STRUCT_ERROR set; STATE
reads BUILT (R97). -/
def execAmendCheckEnd (s : State) : Res :=
  .next (if getF s F.STRUCT_STATUS_STATE = 5 then
      let s := match amendViolation s with
        | some v => structError s v
        | none => retireEvent (amended s) (amendPart s).1.cls (amendPart s).1.unit (amendPart s).1.idx
      setF s F.STRUCT_STATUS_STATE 3
    else s)

/-! ## Pseudo-channel swaps (R167, R168) -/

/-- HBMC_SWAP: a write of HBMC_SWAP; with GO it starts the swap of RETIRE, whose record is in the chain before it, or sets ERR (R167, R168). -/
def execHbmcSwap (k : Fin 4) (v : W32) (s : State) : Res :=
  let stack := k.val
  let pc := (F.HBMC_SWAP_RETIRE stack).ofWord v.toNat
  let s1 := setF s (F.HBMC_SWAP_RETIRE stack) pc
  whenLandau s
    (if !v.getLsbD 31 then s1
     else if swapErr s stack pc != 0 then setF s (F.HBMC_SWAP_ERR stack) (swapErr s stack pc)
     else
       let s1 := endPattern s1 (fun t => t.cls = 2 && t.idx = 32 * stack + getF s (F.HBMC_STATUS_SPARE_PC stack))
       let s := setF (setF (setF s1 (F.HBMC_SWAP_GO stack) 1) (F.HBMC_SWAP_DONE stack) 0) (F.HBMC_SWAP_ERR stack) 0
       let s := setF (setF s (F.HBMC_SWAP_MIRROR stack) 1) (F.HBMC_COPY_MIB stack) 0
       let s := appendRetire s 4 stack pc (getF s (F.HBMC_STATUS_SPARE_PC stack))
       updStack s stack (fun x => { x with swap := hbmPos s stack pc }))

/-- HBMC_SWAP_DONE: the copy has ended: the position switches to the spare, DONE is set; lines that could not be read come out
poisoned (R167, R168). -/
def execHbmcSwapDone (k : Fin 4) (unread : List Nat) (s : State) : Res :=
  let stack := k.val
  match (s.hbm.stk[stack]?).bind (fun x => x.swap) with
  | none => .next s
  | some p =>
    let spare := getF s (F.HBMC_STATUS_SPARE_PC stack)
    let s := retireEvent s 4 stack (physPc s stack p)
    let s := updStack s stack (fun x => { x with swap := none, pos := x.pos.set p spare })
    let s := { s with hbm := { s.hbm with
      poison := unread.foldl (fun m n => if (linePos n).1 = p then mapPut m (lineKey stack n) true else m) s.hbm.poison } }
    let s := setF (setF (setF s (F.HBMC_SWAP_MIRROR stack) 0) (F.HBMC_SWAP_DONE stack) 1) (F.HBMC_SWAP_GO stack) 0
    .next (poisonCount (setF (setF s (F.HBMC_STATUS_SPARE_USED stack) 1) (F.HBMC_COPY_MIB stack)
      (if getF s F.SYSCTL_ID_PART = 0 then 1152 else 768)))

end Sys2Proof.Machine
end

