-- ==== Sys2Proof/Machine/StructCheck.lean ====
section
/-!
DEFINITION. StructCheck.lean: the checks of a structure: those of STRUCT (R92, R165, R166, R419, R420, R432, R516, R517) and those of
Sealed firmware (R93, R282, R399, R420, R432, R608); the end of STRUCT's checks.
-/
namespace Sys2Proof.Machine

/-- The first index below n at which a check fails, among indices a list names. -/
def anyEarlier (i : Nat) (p : Nat → Bool) : Bool := (List.range i).any p

/-! ## Sections (code 0x02) -/

/-- Whether a Landau section has a length its layout allows; the other fields of the ROUTES header have no code (log entry 87). -/
def sectLenOk (typ : Nat) (b : Bytes) : Bool :=
  match typ with
  | 1 => b.length = 112
  | 2 => b.length = 16384
  | 3 => b.length % 8 = 0
  | 4 => b.length = 1840
  | 5 => decide (16 ≤ b.length) && decide (stepArea b + leAt b 8 4 ≤ leAt b 0xC 4) && b.length = leAt b 0xC 4 + 32
  | 6 => decide (16 ≤ b.length) && b.length = 16 + 8 * leAt b 0 2
  | 7 => b.length = 1360
  | 8 => decide (16 ≤ b.length) && b.length = 16 + 16 * leAt b 0 2
  | 9 => b.length = 1040
  | 10 => decide (16 ≤ b.length) && b.length = 16 + 16 * leAt b 0 2
  | _ => false

/-- A section type 1–10 missing, repeated or of the wrong length; another type loaded. -/
def badSection (x : Sections) (i : Nat) : Bool :=
  (x.filter (fun e => e.1 = i + 1)).length != 1 || !sectLenOk (i + 1) (sec x (i + 1))

/-- The violation of the sections as loaded. -/
def sectionViol (x : Sections) : Option Violation :=
  match (List.range 10).find? (badSection x) with
  | some i => some { code := 2, sect := i + 1, index := 0 }
  | none => (x.find? (fun e => e.1 = 0 || 10 < e.1)).map (fun e => { code := 2, sect := e.1 % 256, index := 0 })

/-! ## STAGE (codes 0x30 and 0x31) -/

/-- Table t of the section: its slots and ranking (R432). -/
def tabSlot (b : Bytes) (t i : Nat) : Nat := byteAt b (32 + 304 * t + i)
def tabRank (b : Bytes) (t i : Nat) : Nat := byteAt b (288 + 304 * t + i)

/-- The slots of an owner in a table. -/
def ownerSlots (b : Bytes) (t o : Nat) : Nat := ((List.range 256).filter (fun i => tabSlot b t i = o)).length

/-- An owner class short of its floor in some HBM table: index 32 × table + class. -/
def badFloor (x : Sections) (i : Nat) : Bool := decide (ownerSlots (sec x 4) (i / 32) (i % 32) < slotFloor (sec x 5) (i % 32))

/-- A ranking entry of a table that repeats an owner or follows an 0xFF. -/
def badRank (b : Bytes) (t i owners : Nat) : Bool :=
  let r := tabRank b t i
  r != 0xFF && (decide (owners ≤ r) || anyEarlier i (fun j => tabRank b t j = r || tabRank b t j = 0xFF))

/-- A slot or ranking of an HBM table that names no owner: index 256 × table + slot. -/
def badOwner (x : Sections) (i : Nat) : Bool :=
  let b := sec x 4
  let o := tabSlot b (i / 256) (i % 256)
  (o != 0xFF && decide (30 ≤ o)) || (decide (i % 256 < 32) && badRank b (i / 256) (i % 256) 30)
    || byteAt b (16 + 304 * (i / 256)) != i / 256

/-! ## POWER (codes 0x40 and 0x41) -/

/-- The cap of a mode (R514), the clusters it allows (R92). -/
def modeCap (m : Nat) : Nat := ([7200, 5000, 1800, 4400][m]?).getD 0
def modeClusters (m : Nat) : Nat × Nat := ([(16, 8), (16, 8), (4, 2), (12, 6)][m]?).getD (0, 0)

/-- Domains powered in a mode: clusters its masks name and every other domain. -/
def modePowers (b : Bytes) (m d : Nat) : Bool := decide (24 ≤ d) || modeNames b m d

/-- A mode's block that breaks R517. -/
def badBudget (b : Bytes) (modes m : Nat) : Bool :=
  modes.testBit m &&
    (decide (pwCap b m < (((List.range 80).filter (modePowers b m)).map (pwBase b m)).foldl (· + ·) 400) || decide (modeCap m < pwCap b m)
      || decide (pwVid b m < 600) || decide (850 < pwVid b m)
      || (List.range 80).any (fun d => decide (pwMax b m d < pwBase b m d) || (reserveDom d && (pwBase b m d != 0 || pwMax b m d != 0))))

/-- A mode that powers more clusters than it may. -/
def badModeSize (b : Bytes) (modes m : Nat) : Bool :=
  modes.testBit m && (decide ((modeClusters m).1 < popBits (pwPke b m) 16) || decide ((modeClusters m).2 < popBits (pwCip b m) 8))

/-! ## HBMPART (code 0x50) -/

/-- Whether two regions overlap. -/
def regionsMeet (x y : Region) : Bool := x.stack = y.stack && decide (x.base < y.base + y.size) && decide (y.base < x.base + x.size)

/-- A region that breaks R165 by itself, or reaches beyond the protected data. -/
def badRegionSelf (x : Sections) (mib : Nat) (r : Region) : Bool :=
  decide (3 < r.kind) || decide (6 < r.cls) || decide (3 < r.stack) || decide (1 < r.world) || !r.zero || r.size = 0
    || decide (mib < r.base + r.size) || (r.kind != 0 && r.cls != 0) || (decide (4095 < r.domain) && r.domain != 0xFFFF)
    || (r.kind = 0 && r.domain = 0xFFFF) || ((r.kind = 1 || r.kind = 2) && r.domain != 0xFFFF)
    || (decide (r.domain < 4096) && r.world != domWorld x r.domain)

/-- Whether two regions may not both stand. -/
def regionsClash (x y : Region) : Bool :=
  regionsMeet x y || (x.kind = 0 && y.kind = 0 && x.domain = y.domain && x.cls = y.cls)
    || ((x.kind = 1 || x.kind = 2) && x.kind = y.kind && x.world = y.world)

/-- Entry i of the section breaks R165 or R166. -/
def badPart (x : Sections) (mib i : Nat) : Bool :=
  let b := sec x 8
  let r := regionAt b i
  badRegionSelf x mib r || anyEarlier i (fun j => regionsClash (regionAt b j) r)
    || decide (268435456 < ((((regionsOf b).take (i + 1)).filter (fun r => r.kind = 0)).map regionSlots).foldl (· + ·) 0)

/-- A world that serves a domain and has no journal region. -/
def badJournal (x : Sections) : Bool :=
  (List.range 2).any (fun w => (List.range 4096).any (fun d => domWorld x d = w && domServed x d)
    && !(regionsOf (sec x 8)).any (fun r => r.kind = 2 && r.world = w))

/-! ## PCIE and DOMAINS -/

/-- The header of PCIE (R103), reserved bits of DOMAINS (R104). -/
def badPcieHead (x : Sections) : Bool := byteAt (sec x 9) 1 ≥ 2 || !allZero (sec x 9) 6 10 || badPcieSums x

/-! ## FENCE (code 0x70; R419, R420) -/

/-- The fields of entry i. -/
def fnKind (b : Bytes) (i : Nat) : Nat := byteAt b (16 + 16 * i)
def fnWorld (b : Bytes) (i : Nat) : Nat := byteAt b (17 + 16 * i)
def fnLevel (b : Bytes) (i : Nat) : Nat := byteAt b (18 + 16 * i)
def fnBlock (b : Bytes) (i : Nat) : Nat := leAt b (20 + 16 * i) 2
def fnBase (b : Bytes) (i : Nat) : Nat := leAt b (24 + 16 * i) 4
def fnLen (b : Bytes) (i : Nat) : Nat := leAt b (28 + 16 * i) 4

/-- Entries of a kind and block. -/
def fenceCount (b : Bytes) (kind block : Nat) : Nat :=
  ((List.range (leAt b 0 2)).filter (fun i => fnKind b i = kind && fnBlock b i = block)).length

/-- Whether an entry's fields lie in their ranges. -/
def fenceFields (b : Bytes) (i : Nat) : Bool :=
  fnWorld b i < 3 && fnLevel b i < 2 && byteAt b (19 + 16 * i) = 0 && leAt b (22 + 16 * i) 2 = 0

/-- Landau blocks that only the Sealed supervisor may reach, as k of R40: STRUCT, KCACHE, MCRYPT, MPU_L, LTEST, HBMC0–3, STAGE0–3. -/
def sealedLandau (k : Nat) : Bool := k = 0 || (2 ≤ k && k ≤ 4) || k = 7 || (9 ≤ k && k ≤ 16)

/-- An entry of KIND 1 that breaks R420 or the FENCE check. -/
def badLandauFence (b : Bytes) (i : Nat) : Bool :=
  fnKind b i = 1 && (!fenceFields b i || fnBlock b i < 0x100 || 0x128 < fnBlock b i || fnBase b i != 0 || fnLen b i != 0
    || (sealedLandau (fnBlock b i - 0x100) && (fnWorld b i != 1 || fnLevel b i = 0)))

/-- Whether a Landau block lacks its one entry. -/
def badLandauBlock (b : Bytes) (k : Nat) : Bool := fenceCount b 1 (0x100 + k) != 1

/-- Whether a KIND 2 range lies within SRAM or one main array. -/
def fenceInside (a n : Nat) : Bool :=
  (0x20000000 ≤ a && a + n ≤ 0x20100000) || (0x10000000 ≤ a && a + n ≤ 0x10400000) || (0x10800000 ≤ a && a + n ≤ 0x10C00000)

/-- Whether a Gecko block must stay with the Sealed supervisor: all but EVREC and SENSE (R93). -/
def sealedGecko (n : Nat) : Bool := n != Blk.EVREC && n != Blk.SENSE

/-- An entry of KIND 0 or 2, or of none, that breaks R93 or R420. -/
def badGeckoFence (b : Bytes) (i : Nat) : Bool :=
  match fnKind b i with
  | 0 => !fenceFields b i || 0x17 < fnBlock b i || fnBase b i != 0 || fnLen b i != 0
      || (sealedGecko (fnBlock b i) && (fnWorld b i != 1 || fnLevel b i = 0))
  | 1 => false
  | 2 => !fenceFields b i || fnBlock b i != 0 || fnBase b i % 4096 != 0 || fnLen b i % 4096 != 0 || fnLen b i = 0
      || !fenceInside (fnBase b i) (fnLen b i)
      || anyEarlier i (fun j => fnKind b j = 2 && fnBase b j < fnBase b i + fnLen b i && fnBase b i < fnBase b j + fnLen b j)
  | _ => true

/-- Whether the Gecko half of FENCE fails. -/
def geckoFenceBad (b : Bytes) : Bool :=
  (List.range (leAt b 0 2)).any (badGeckoFence b) || (List.range 24).any (fun n => fenceCount b 0 n != 1)
    || 16 < ((List.range (leAt b 0 2)).filter (fun i => fnKind b i = 2)).length

/-! ## FABRIC (code 0x71) -/

/-- A path that names a quadrant that does not exist, does not end, or does not reach its target (R76; which quadrants join a master and a
block is the fabric's, log entry 42). -/
def badFabric (b : Bytes) (i : Nat) : Bool :=
  let path := leAt b (8 * i + 4) 2
  let hops := (List.range 4).map (fun j => path / 16 ^ j % 16)
  leAt b (8 * i + 6) 2 != 0 || (hops.takeWhile (fun h => h != 15)).any (fun h => 3 < h)
    || !Config.fabricReaches (leAt b (8 * i) 2) (leAt b (8 * i + 2) 2) (hops.takeWhile (fun h => h != 15))

/-! ## The checks of STRUCT -/

/-- Whether a route reaches a cluster of another world (code 0x13). An index entry names neither a world nor a cluster, so which routes do is
the implementation's (log entry 42). -/
def badReach (x : Sections) (i : Nat) : Bool :=
  Config.routeCrosses (slice (sec x 5) (0x10 + 24 * i) 24) ((List.range 24).map (fun k => allocWord x k / 2 ^ 31))

/-- Whether an opcode is effectful with no route and no applet binding (R142); applets have 0xB0–0xBF. -/
def badEffect (r : Bytes) (eff bind : Nat → Bool) (op : Nat) : Bool := eff op && !hasRoute r op && !(0xB0 ≤ op && op ≤ 0xBF && bind op)

/-- The first violation of a structure in the order of the codes (R92; log entry 43). `modes` are the modes the image allows, `mib` the
protected data of a stack, `eff` the effectful opcodes, `bind` those that an applet binds. -/
def structViol (x : Sections) (modes mib : Nat) (eff bind : Nat → Bool) : Option Violation :=
  let r := sec x 5
  let n := routeCount r
  firstViol
    [sectionViol x, violAt 0x10 1 28 (badLimit x), violAt 0x11 1 28 (badOverlap x), violAt 0x12 1 28 (badRetired x),
     violAt 0x13 2 4096 (badWorld x), violAt 0x13 5 n (badReach x), violAt 0x20 5 n (badRouteOrder r), violAt 0x21 5 n (badVariant r), violAt 0x22 5 n (badRouteRef r),
     violAt 0x22 12 256 (badEffect r eff bind),
     violAt 0x30 4 128 (badFloor x), violAt 0x31 4 1024 (badOwner x), violAt 0x40 7 4 (badBudget (sec x 7) modes),
     violAt 0x41 7 4 (badModeSize (sec x 7) modes), violAt 0x50 8 (leAt (sec x 8) 0 2) (badPart x mib), violIf 0x50 8 (badJournal x || !allZero (sec x 8) 2 14),
     violIf 0x60 9 (badPcieHead x), violAt 0x60 9 64 (badFunction x), violAt 0x70 10 (leAt (sec x 10) 0 2) (badLandauFence (sec x 10)),
     violAt 0x70 10 41 (badLandauBlock (sec x 10)), violAt 0x71 3 ((sec x 3).length / 8) (badFabric (sec x 3))]

/-- The checks STRUCT makes of loaded sections in this machine. -/
def structCheck (s : State) (x : Sections) : Option Violation :=
  structViol x ((s.image.map (fun i => imgModes i.bytes)).getD 0xF) (protectedMib s)
    (fun op => (getF s (F.QMGR_EFFECT_EFFECTFUL (op / 32))).testBit (op % 32))
    (Config.appletBinds (((s.image.map (fun i => i.hash)).getD (0 : Hash)).toNat))

/-! ## The checks of Sealed firmware (R93) -/

/-- Whether a source or cause of EXCROUTE exists and may be named (R398, R399). -/
def excNumber (cls kind n : Nat) : Bool :=
  match kind with
  | 0 => (1 ≤ n && n ≤ 9) || n = 0xC || n = 0xE
  | 1 => n < 16
  | 2 => true
  | _ => if cls = 0 then n < 32 || (48 ≤ n && n < 56) else n < 5 || (8 ≤ n && n < 16)

/-- Whether entry i of EXCROUTE is refused. -/
def badExc (b : Bytes) (i : Nat) : Bool :=
  let at_ := fun j k => byteAt b (16 + 8 * j + k)
  let cls := at_ i 0
  let kind := at_ i 1
  let world := at_ i 4
  let callers := at_ i 5
  1 < cls || 3 < kind || !excNumber cls kind (at_ i 2) || at_ i 3 = 0 || 7 < at_ i 3 || 1 < world
    || (if kind = 2 then 15 < callers else callers != 0) || !allZero b (16 + 8 * i + 6) 2
    || (cls = 1 && kind = 2 && (if world = 0 then callers / 4 != 0 else callers % 4 != 0))
    || anyEarlier i (fun j => at_ j 0 = cls && at_ j 1 = kind && at_ j 2 = at_ i 2 && (1 < kind || at_ j 4 = world))

/-- Whether a Gecko table of STAGE names an owner above 9 or gives masters 0 to 2 no slot (R432). -/
def badGeckoStage (b : Bytes) (t : Nat) : Bool :=
  byteAt b (16 + 304 * t) != t || (List.range 256).any (fun i => tabSlot b t i != 0xFF && 9 < tabSlot b t i)
    || (List.range 32).any (fun i => badRank b t i 10) || (List.range 3).any (fun o => ownerSlots b t o = 0)

/-- Whether PARAMS names QMGR_EFFECTk (R608). -/
def namesEffect (b : Bytes) (k : Nat) : Bool :=
  (params b).any (fun p => blkOfParam p.num = Blk.QMGR && p.off = (F.QMGR_EFFECT_EFFECTFUL k).off && p.mask != 0)

/-- Whether Sealed firmware refuses an image with verdict 0x0A before STRUCT sees it (R93, R282, R399, R420, R432, R608). -/
def geckoRefuses (s : State) (img : Bytes) : Bool :=
  let e := sectionOr img 6
  let p := sectionOr img 0xC
  (List.range (leAt e 0 2)).any (badExc e) || geckoFenceBad (sectionOr img 10) || !mapOk (sectionOr img 0xB)
    || p.length % 12 != 0 || (params p).any (badParam s) || (List.range 8).any (fun k => !namesEffect p k)
    || badGeckoStage (sectionOr img 4) 4 || badGeckoStage (sectionOr img 4) 5

end Sys2Proof.Machine
end

