-- ==== Sys2Proof/Machine/HostLeg.lean ====
section
/-!
DEFINITION. HostLeg.lean: the host leg (R48–R50, R63, R84, R93, R305, R421, R433, R455, R462, R465, R471) and the DEVICE record of the
boot ledger (R296, R298, R300).
-/
namespace Sys2Proof.Machine

/-! ## The DEVICE record -/

/-- The Open-world firmware slots: 1 A, 2 B. -/
def openBytes (s : State) (n : Nat) : Bytes := if n = 1 then s.cfg.openA else if n = 2 then s.cfg.openB else []

/-- The body of a DEVICE record; `landau` as R298 codes it. -/
def deviceBody (s : State) (landau : Nat) : Bytes :=
  let v := verifiedChain s
  hashBytes s.power.sealedMeas ++ hashBytes ((s.image.map (fun i => i.hash)).getD 0)
    ++ (if s.power.openSlot = 0 then zeros 48 else hashBytes (sha384 (openBytes s s.power.openSlot)))
    ++ leBytes (getF s F.SYSCTL_STATE_SEALED_SLOT) 1 ++ leBytes (getF s F.SYSCTL_STATE_IMAGE_SLOT) 1 ++ leBytes s.struct.verdictA 1
    ++ leBytes s.struct.verdictB 1 ++ leBytes s.power.openSlot 1 ++ leBytes landau 1
    ++ leBytes ((s.image.map (fun i => imgStartMode i.bytes)).getD 0) 1 ++ zeros 1 ++ leBytes ((s.image.map (fun i => imgBuild i.bytes)).getD 0) 4
    ++ leBytes (getF s F.STRUCT_ERROR_CODE) 1 ++ leBytes (getF s F.STRUCT_ERROR_SECTION) 1 ++ zeros 2
    ++ (List.range 8).flatMap (fun n => leBytes (arbCount s n) 1) ++ leBytes ((v.getLast?.map (fun r => r.seq)).getD 0) 4 ++ zeros 4
    ++ ((v.getLast?.map (fun r => hashBytes (sha384 (retireBytes r)))).getD (zeros 48))

/-- The verdict a DEVICE record names: of the slot in use, else of the slot tried last (R296). -/
def deviceVerdict (s : State) : Nat :=
  let n := if getF s F.SYSCTL_STATE_IMAGE_SLOT = 0 then s.struct.lastTried else getF s F.SYSCTL_STATE_IMAGE_SLOT
  if n = 1 then s.struct.verdictA else if n = 2 then s.struct.verdictB else 0xFF

/-- Append the DEVICE record of this bring-up or rebuild, and clear the reset causes it recorded (R298, R300). -/
def deviceRecord (s : State) (landau : Nat) (ok : Bool) : State :=
  if life s = 4 || ledgerFull s then s
  else
    let causes := readReg s Blk.SYSCTL 8
    let s := ledgerAppend s { kind := 1, verdict := deviceVerdict s, flags := if s.power.rebuild then 8 else 0, rstcause := causes,
                              body := deviceBody s landau } ok
    writeReg { s with power := { s.power with rebuild := false } } Blk.SYSCTL 8 causes

/-! ## Before step 1 -/

/-- The second bit of each lifecycle state that has only one is programmed (R63). -/
def completeLife (s : State) : State :=
  (List.range 7).foldl (fun t i =>
    let a := t.fuse.shadow.life.getLsbD (2 * i)
    let b := t.fuse.shadow.life.getLsbD (2 * i + 1)
    if a && !b then (requestBurn t 0 (2 * i + 1)).1 else if b && !a then (requestBurn t 0 (2 * i)).1 else t) s

/-- Load one range with its bank, at sectors no rule places. -/
def loadZrange (s : State) (k bank count : Nat) : State :=
  let (f, s) := draw s 10
  setF (setF (setF (setF s (F.FLASHC_ZRANGE_VALID k) 1) (F.FLASHC_ZRANGE_BANK k) bank) (F.FLASHC_ZRANGE_COUNT k) count)
    (F.FLASHC_ZRANGE_FIRST k) f

/-- FLASHC_ZRANGE0–2 loaded and locked, ZRANGE3 left invalid: the 1 MiB wrapped-DMK log and the MEK area in bank 1, the authorised table in bank
0 (R455, R462). -/
def loadZranges (s : State) : State :=
  let s := loadZrange s 0 1 255
  let (n1, s) := draw s 8
  let s := loadZrange s 1 1 n1
  let (n2, s) := draw s 8
  let s := loadZrange s 2 0 n2
  setF (setF s (F.FLASHC_ZRANGE_VALID 3) 0) F.FLASHC_CTRL_ZLOCK 1

/-- With ZPEND set the ranges are erased and ZDONE written (R471). -/
def finishZall (s : State) : State := if isSet s F.TAMPER_STATUS_ZPEND then zdone (eraseRanges s) else s

/-- What Sealed firmware does whatever the image says: lifecycle bits, certificates, the ledger's head, the zeroise ranges. -/
def hostLegStart (s : State) : State := finishZall (loadZranges (ledgerScan (issueCerts (completeLife s))))

/-! ## The Gecko half of an image (R93, R421, R433, R465) -/

/-- Byte n of the fence array: WORLD and MINLEVEL of Gecko block n. -/
def fenceByte (b : Bytes) (n : Nat) : Nat :=
  match (List.range (leAt b 0 2)).find? (fun i => fnKind b i = 0 && fnBlock b i = n) with
  | some i => fnWorld b i + 4 * fnLevel b i
  | none => 5

/-- The Gecko half of FENCE, and its lock. -/
def applyGeckoFence (s : State) (b : Bytes) : State :=
  let s := fillWords s F.MPU_G_GFENCE_WORD 6 (fun k =>
    fenceByte b (4 * k) + 256 * fenceByte b (4 * k + 1) + 65536 * fenceByte b (4 * k + 2) + 16777216 * fenceByte b (4 * k + 3))
  let r := (List.range (leAt b 0 2)).filter (fun i => fnKind b i = 2)
  let s := fillWords s F.MPU_G_GRANGE_WORD 32 (fun k =>
    match r[k / 2]? with
    | none => 0
    | some i => if k % 2 = 0 then fnBase b i + fnWorld b i + 4 * fnLevel b i else fnLen b i)
  setF s F.MPU_G_CTRL_FENCE_LOCK 1

/-- Word k of table t's slots and ranking. -/
def stageWord (b : Bytes) (t k : Nat) : Nat := leAt b (32 + 304 * t + 4 * k) 4
def rankWord (b : Bytes) (t k : Nat) : Nat := leAt b (288 + 304 * t + 4 * k) 4

/-- The tables of the Gecko arbiters, and their lock. -/
def applyGeckoArb (s : State) (b : Bytes) : State :=
  let s := fillWords (fillWords s F.ARB0_SLOT_WORD 64 (stageWord b 4)) F.ARB1_SLOT_WORD 64 (stageWord b 5)
  let s := fillWords (fillWords s F.ARB0_RANK_WORD 3 (rankWord b 4)) F.ARB1_RANK_WORD 3 (rankWord b 5)
  setF s F.MPU_G_CTRL_ARB_LOCK 1

/-- An image that Sealed firmware does not refuse governs Gecko: its registers, the generator's service under them (R266, R273), the tamper
responses, the fence, the arbiters, the arrangement of the warden cores. -/
def applyGecko (s : State) (img : Bytes) : State :=
  let s := serviceRefresh (setF (loadGeckoParams s) F.TAMPER_CTRL_CFG_LOCK 1)
  let s := applyGeckoArb (applyGeckoFence s (sectionOr img 10)) (sectionOr img 4)
  if imgWarden img = 1 then splitCores s else s

/-! ## Steps 2 and 3 -/

/-- Step 2: the map in force, VDDIO_HF compared with it, the devices' SFDP tables read (R275, R278, R593); the measurement of the host starts, unless the host runs on through a
device reset (R56). A map that fails its checks leaves the host held. -/
def startMeasure (s : State) (img : Bytes) (h : HostLegIn) : State :=
  let m := sectionOr img 0xB
  if !mapOk m then { s with power := { s.power with phase := .hostDone } }
  else
    let s := loadMap s m
    let s := { s with hf := { s.hf with vddBad := h.vddio != hmVddio m, sfdp := h.sfdp.map sfdpModes } }
    if s.power.skipHold then { s with power := { s.power with phase := .hostDone } }
    else
      let s := { s with hf := { s.hf with stage := 2, digests := [], applied := s.hf.select = 1 }, power := { s.power with phase := .measuring } }
      startPass (setF (setF s F.HOSTSPI_RESULT_PRIMARY 0) F.HOSTSPI_RESULT_RECOVERY 0) (2 ^ hmRegions m - 1) 0

/-- No image is in force: the host is kept held, but for one that a device reset found released (R56); Landau unbuilt, a DEVICE record made
(R50). -/
def noImage (s : State) (ok : Bool) : State :=
  let s := { s with power := { s.power with phase := .noImage } }
  deviceRecord (if s.power.skipHold then s else setHold s true) 3 ok

/-- Step 1: the choice of a slot. A flash that cannot be read gives both slots verdict NO_IMAGE. -/
def pickImage (s : State) (h : HostLegIn) : State :=
  if h.cfgOk then chooseSlot s
  else { s with struct := { s.struct with verdictA := 1, verdictB := 1, lastTried := 2 } }

/-- HOST_LEG: steps 1 to 3 of the host leg, with what Sealed firmware does around them. In DECOMMISSIONED no image is read and the host is held
(R48, R50, R67, R80). -/
def execHostLeg (h : HostLegIn) (s : State) : Res :=
  whenGecko s
    (if s.power.phase != .sealed then s
     else
      let s := hostLegStart s
      if life s = 4 then setHold { s with power := { s.power with phase := .noImage } } true
      else
        let s := pickImage s h
        match s.image with
        | none => noImage s h.ledgerOk
        | some i => startMeasure (if geckoRefuses s i.bytes then s else applyGecko s i.bytes) i.bytes h)

end Sys2Proof.Machine
end

