-- ==== Sys2Proof/Machine/Release.lean ====
section
/-!
DEFINITION. Release.lean: the release of the Open world, step 8 of the Landau leg (R52, R61, R69, R81, R85, R486).
-/
namespace Sys2Proof.Machine

/-- Landau's stage. -/
def setLandau (s : State) (l : Landau) : State := { s with power := { s.power with landau := l } }

/-- The bytes of the image in force. -/
def imgNow (s : State) : Bytes := (s.image.map (fun i => i.bytes)).getD []

/-! ## Step 8 (R69, R81, R85, R300, R486, R487) -/

/-- Program counter n up to a version, bit by bit; a refusal ends it with event ROLLBACK_REFUSED (R8, R81). -/
def advanceArb (s : State) (n version : Nat) : State :=
  let c := arbCount s n
  let r := (List.range (version - c)).foldl (fun (p : State × Option Nat) i =>
    match p.2 with
    | some _ => p
    | none => if c + i < 128 then
        let (t, ok) := requestBurn p.1 1 (128 * n + c + i)
        (t, if ok then none else some (c + i))
      else (p.1, some (c + i))) (s, none)
  match r.2 with
  | none => r.1
  | some bit => occur r.1 0x403 n (bit % 256) version

/-- Safe state ends at step 8; a rebuild that Sealed firmware asked for counts as an exit there (R486, R487). -/
def releaseSafe (s : State) : State :=
  if !inSafe s then s else leaveSafe (if s.fc.rebuildAsked then s else countExit s)

/-- Step 8: fetching starts, retry status ends, the DEVICE record, safe state ends, the counters advance, the selector is updated, BOOTATT
cleared. -/
def releaseOpen (s : State) (ledgerOk : Bool) : State :=
  let s := setF (setF s F.SYSCTL_RELEASE_OPEN 1) F.SYSCTL_STATE_OPEN_READY 1
  let s := setLandau (setF s F.QMGR_CTRL_FETCH 1) .opened
  let s := releaseSafe (deviceRecord s 0 ledgerOk)
  let s := advanceArb (advanceArb s 1 (imgSecVersion (imgNow s))) 2 (imgRouteVersion (imgNow s))
  clearCounter (selectorRelease s) F.SYSCTL_BOOTATT_COUNT F.SYSCTL_BOOTATT_SAT

/-- SYSCTL_RELEASE_OPEN: a write of SYSCTL_RELEASE with OPEN, once OPEN_FW_OK is 1 (R69). -/
def execSysctlReleaseOpen (v : W32) (ledgerOk : Bool) (s : State) : Res :=
  whenGecko s
    (if !v.getLsbD 0 || !isSet s F.SYSCTL_STATE_OPEN_FW_OK || isSet s F.SYSCTL_RELEASE_OPEN then s else releaseOpen s ledgerOk)

end Sys2Proof.Machine
end

