-- ==== Sys2Proof/Machine/Sdcard.lean ====
section
/-!
DEFINITION. Sdcard.lean: the ledger card: its port, its layout, its claim and scan, mirroring (R304, R511, R545–R552).
-/
namespace Sys2Proof.Machine

/-! ## The port -/

/-- A port whose domain PD66 is powered. -/
def withSd (s t : State) : Res := .next (if geckoUp s ∧ domainOn s 66 then t else s)

/-- Interrupt source 13. -/
def sdIrq (s : State) : State := raise s 13

/-- A command ends with an ERR and its count; a write that ends otherwise than NONE is counted (R548). -/
def sdDone (s : State) (op err n : Nat) : State :=
  let s := setF (setF (setF s F.SDH_RESULT_ERR err) F.SDH_RESULT_DONE_BLOCKS n) F.SDH_STATUS_DONE 1
  sdIrq (if op = 1 ∧ err != 0 then bump s F.SDH_WERR_COUNT F.SDH_WERR_SAT else s)

/-- The state of the card as SDH_STATUS gives it. -/
def sdState (s : State) (n : Nat) : State := setF s F.SDH_STATUS_STATE n

/-- Change the card in place. -/
def updSd (s : State) (f : SdCard → SdCard) : State := { s with sdh := { s.sdh with card := s.sdh.card.map f } }

/-- The 512 bytes of a block. -/
def sdBlock (c : SdCard) (b : Nat) : Bytes := sliceZ (mapGet c.blocks b []) 0 512

/-- Write blocks from a first one. -/
def sdPut (c : SdCard) (b : Nat) (d : Bytes) : SdCard :=
  { c with blocks := (List.range (d.length / 512)).foldl (fun m i => mapSet m (b + i) (slice d (512 * i) 512) (zeros 512)) c.blocks }

/-! ## Layout (R550) -/

/-- The header of a card this device claims. -/
def sdHeader (s : State) (first : Nat) : Bytes :=
  let b := sliceZ ([0x4F, 0x4C, 0x43, 0x44, 0x01] ++ zeros 3 ++ hashBytes (deviceId s) ++ leBytes first 8) 0 508
  b ++ leBytes (crc32 b).toNat 4

/-- The valid header copy, if one is. -/
def sdHeaderOf (c : SdCard) : Option Bytes :=
  ([sdBlock c 0, sdBlock c 1]).find? (fun b => slice b 0 5 = [0x4F, 0x4C, 0x43, 0x44, 0x01] && (crc32 (b.take 508)).toNat = leAt b 508 4)

/-- The first block of a record's slot. -/
def sdRecBlock (first q : Nat) : Nat := 149504 + 2 * (q - first)

/-- The record in a slot. -/
def sdRecord (c : SdCard) (first q : Nat) : Bytes := sdBlock c (sdRecBlock first q) ++ sdBlock c (sdRecBlock first q + 1)

/-- Certificate slot i: AK_ID and DER; the first slot nothing is written in. -/
def sdCert (c : SdCard) (i : Nat) : Bytes × Bytes :=
  let b := (List.range 8).flatMap (fun k => sdBlock c (2048 + 8 * i + k))
  (slice b 0 48, slice b 64 (leAt b 48 4))
def sdCertFree (c : SdCard) : Nat := ((List.range 2048).find? (fun i => allZero (sdBlock c (2048 + 8 * i)) 0 52)).getD 2048

/-- The 4 KiB of a certificate slot. -/
def sdCertBytes (ak : Bytes) (der : Bytes) : Bytes :=
  let b := ak ++ leBytes der.length 4 ++ zeros 12 ++ der
  b.take 4096 ++ List.replicate (4096 - b.length) 0xFF#8

/-! ## Claim and scan (R546, R547, R551) -/

/-- The password that binds a card to this device (R547). -/
def sdPassword (s : State) (c : SdCard) : Bytes :=
  (hashBytes (sha384 ([0x4F, 0x48, 0x4C, 0x39, 0x4C, 0x43] ++ hashBytes (deviceId s) ++ c.cid))).take 16

/-- The public key a record's AK_ID names: this bring-up's AK, or that of a certificate on the card. -/
def sdSigner (s : State) (c : SdCard) (ak : Bytes) : Option Bytes :=
  if ak = hashBytes (akId s) then some s.led.akPub
  else (((List.range (sdCertFree c)).map (sdCert c)).find? (fun x => x.1 = ak)).map (fun x => Config.certKey x.2)

/-- Whether a slot holds its record: SEQ, MAGIC, PREV and SIG (R551). -/
def sdSlotOk (s : State) (c : SdCard) (first q : Nat) : Bool :=
  let r := sdRecord c first q
  slice r 0 4 = [0x4C, 0x45, 0x44, 0x47] && leAt r 8 8 = q
    && (q = first || slice r 16 48 = hashBytes (sha384 (sdRecord c first (q - 1))))
    && (match sdSigner s c (slice r 0x70 48) with
        | some k => ecdsaVerify P384 k (hashBytes (sha384 (r.take 0x3A0))) (slice r 0x3A0 96)
        | none => false : Bool)

/-- The highest slot that holds its record, 0 with none. -/
def sdHead (s : State) (c : SdCard) (first : Nat) : Nat :=
  let l := (c.blocks.map (fun e => e.1)).filter (fun b => 149504 ≤ b && b % 2 = 0)
  (((l.map (fun b => first + (b - 149504) / 2)).filter (sdSlotOk s c first)).max?).getD 0

/-- The next record to mirror. -/
def sdNext (s : State) : Nat := max (s.sdh.head + 1) s.sdh.firstSeq

/-- Whether the ledger area has room for a record. -/
def sdRoom (c : SdCard) (first q : Nat) : Bool := sdRecBlock first q + 2 ≤ c.cap

/-- FORCE_ERASE starts: STATE ERASING (R547). -/
def sdErase (s : State) : State :=
  setF (sdState { s with sdh := { s.sdh with cmd := some (3, 0, 0, 0, []) } } 6) F.SDH_STATUS_BUSY 1

/-- The card is FOREIGN; with AUTO_ERASE it is erased at once (R547). -/
def sdForeign (s : State) : State := if isSet s F.SDH_CFG_AUTO_ERASE then sdErase (sdState s 3) else sdState s 3

/-- The scan of a card that is used (R551). -/
def sdScan (s : State) (c : SdCard) (first : Nat) : State :=
  let head := sdHead s c first
  let s := { s with sdh := { s.sdh with firstSeq := first, nextCert := sdCertFree c, head := head } }
  let differs := match recordOf s head with
    | some r => head != 0 && r != sdRecord c first head
    | none => false
  if differs then sdForeign s
  else
    let s := { s with led := { s.led with mirrored := max s.led.mirrored head } }
    sdState s (if sdRoom c first (sdNext s) then 2 else 5)

/-- A card is used: it is unlocked, with its password set. -/
def sdUse (s : State) (c : SdCard) (first : Nat) : State :=
  let c := { c with pwd := some (sdPassword s c) }
  sdScan (setF { s with sdh := { s.sdh with card := some c, unlocked := true } } F.SDH_STATUS_LOCKED 0) c first

/-- Claim a card: both header copies, then the password (R547). -/
def sdClaim (s : State) (c : SdCard) : State :=
  let first := ((s.led.ring.map (fun e => e.1)).min?).getD (s.led.head + 1)
  sdUse s (sdPut c 0 (sdHeader s first ++ sdHeader s first)) first

/-- Step 4 of R546: unlock, claim or refuse. -/
def sdSettle (s : State) (c : SdCard) : State :=
  match c.pwd, sdHeaderOf c with
  | some p, h =>
    if p != sdPassword s c then sdForeign (setF s F.SDH_STATUS_LOCKED 1)
    else match h with
      | some h => sdUse s c (leAt h 0x38 8)
      | none => sdClaim s c
  | none, some h => if slice h 8 48 = hashBytes (deviceId s) then sdUse s c (leAt h 0x38 8) else sdForeign s
  | none, none => sdClaim s c

/-- Whether a card is one SDH takes: at least 1 GiB; above 2 TiB only with the queue (R545). -/
def sdTakes (s : State) (c : SdCard) : Bool :=
  2 ^ 21 ≤ c.cap && (c.cap ≤ 2 ^ 32 || isSet s F.SDH_CFG_CQ_EN) && c.cid.length = 16

/-- Steps 2–5 of R546 on a card that is powered. -/
def sdInit (s : State) (c : SdCard) (ok : Bool) : State :=
  let s := { s with sdh := { SdhState.init with card := some c } }
  let s := setB (setB s F.SDH_STATUS_CQ (c.cq && isSet s F.SDH_CFG_CQ_EN)) F.SDH_STATUS_V18 c.s18
  let s := setB (setF s F.SDH_CAP_BLOCK c.cap) F.SDH_STATUS_LOCKED c.pwd.isSome
  if ok && sdTakes s c then sdSettle s c else sdState s 4

/-- SD_INSERTION: present for 20 ms the card is powered, initialised, claimed and scanned (R546). Whether it initialises is the event's. -/
def execSdInsertion (card : SdCard) (initOk : Bool) (s : State) : Res :=
  withSd s (if isSet s F.SDH_STATUS_PRESENT then s else sdInit (setF s F.SDH_STATUS_PRESENT 1) card initOk)

/-- The card's supply goes. -/
def sdUnpower (s : State) : State :=
  setF (setF (setF (setF s F.SDH_STATUS_CQ 0) F.SDH_STATUS_V18 0) F.SDH_STATUS_LOCKED 0) F.SDH_CAP_BLOCK 0

/-- SD_REMOVAL: a write ends REMOVED, or UNDETERMINED from the last block's CRC status token on; the supply goes (R549). -/
def execSdRemoval (afterToken : Bool) (s : State) : Res :=
  withSd s (if !isSet s F.SDH_STATUS_PRESENT then s
    else
      let run := s.sdh.cmd
      let s := sdState (sdUnpower { s with sdh := SdhState.init }) 0
      let s := setF (setF (setF s F.SDH_STATUS_PRESENT 0) F.SDH_STATUS_BUSY 0) F.SDH_STATUS_REMOVED 1
      sdIrq (match run with
        | some (op, _) => sdDone s op (if op = 1 ∧ afterToken then 10 else 1) 0
        | none => s))

/-! ## Commands (R545, R547, R548, R552) -/

/-- A transfer whose BLOCK, COUNT and SRAM address are out of range. -/
def sdRange (s : State) (c : SdCard) : Bool :=
  let n := getF s F.SDH_COUNT_VALUE
  let a := getF s F.SDH_SRAM_VALUE
  n = 0 || 256 < n || c.cap < getF s F.SDH_BLOCK_BLOCK + n || a % 4 != 0 || !inSram a (512 * n)

/-- Start a command: BUSY. -/
def sdStart (s : State) (op n : Nat) (data : Bytes) : State :=
  setF { s with sdh := { s.sdh with cmd := some (op, getF s F.SDH_BLOCK_BLOCK, n, getF s F.SDH_SRAM_VALUE, data) } } F.SDH_STATUS_BUSY 1

/-- The shape of a command: a second one while BUSY is not taken; without a powered card it times out. -/
def sdCmd (s : State) (op : Nat) (f : SdCard → State) : Res :=
  withSd s (if s.sdh.cmd.isSome then s
    else match s.sdh.card with
      | none => sdDone s op 3 0
      | some c => f c)

/-- SDH_WRITE: blocks from SRAM; the whole source is checked first, and a denied part sends nothing (R548, R552). -/
def execSdhWrite (s : State) : Res :=
  let n := getF s F.SDH_COUNT_VALUE
  let a := getF s F.SDH_SRAM_VALUE
  sdCmd s 1 (fun c =>
    if c.pwd.isSome && !s.sdh.unlocked then sdDone s 1 6 0
    else if sdRange s c then sdDone s 1 8 0
    else if !masterOk s 7 0 a (512 * n) then sdDone (recordDenied s 0 7 0 a (512 * n)) 1 7 0
    else sdStart s 1 n (geckoBytes s a (512 * n)))

/-- SDH_READ: blocks into SRAM (R545). -/
def execSdhRead (s : State) : Res :=
  sdCmd s 2 (fun c =>
    if c.pwd.isSome && !s.sdh.unlocked then sdDone s 2 6 0
    else if sdRange s c then sdDone s 2 8 0
    else sdStart s 2 (getF s F.SDH_COUNT_VALUE) [])

/-- FORCE_ERASE: with its KEY, the card is force-erased; a wrong KEY is ignored (R547). -/
def execForceErase (key : BitVec 16) (s : State) : Res :=
  if key != 0x5344 then .next s else sdCmd s 3 (fun _ => sdErase s)

/-- A password command: the 16 bytes are read from SRAM as master 7. -/
def sdPwdCmd (s : State) (op : Nat) : Res :=
  let a := getF s F.SDH_SRAM_VALUE
  sdCmd s op (fun _ =>
    if a % 4 != 0 || !inSram a 16 then sdDone s op 8 0
    else if !masterOk s 7 0 a 16 then sdDone (recordDenied s 0 7 0 a 16) op 7 0
    else sdStart s op 0 (geckoBytes s a 16))

/-- SET_LOCK: set the card's password and lock it (R547). -/
def execSetLock (s : State) : Res := sdPwdCmd s 4

/-- UNLOCK: unlock the card with its password (R547). -/
def execSdhUnlock (s : State) : Res := sdPwdCmd s 5

/-- POWER_OFF (R545). -/
def execPowerOff (s : State) : Res := sdCmd s 6 (fun _ => sdStart s 6 0 [])

/-- The end of a write: the blocks whose transfer ended are on the card; after a busy that outlasts its bound the card is powered off and on
through R546 (R548). -/
def sdWrote (s : State) (b n : Nat) (data : Bytes) (e : SdEnd) : State :=
  let k := if e.err.val = 0 then n else min n e.done
  let s := sdDone (updSd s (fun c => sdPut c b (data.take (512 * k)))) 1 e.err.val k
  match e.err.val, s.sdh.card with
  | 5, some c => sdInit (sdUnpower s) c true
  | _, _ => s

/-- The end of a read: the blocks delivered are in SRAM. -/
def sdWasRead (s : State) (b n a : Nat) (e : SdEnd) : State :=
  let k := if e.err.val = 0 then n else min n e.done
  let d := match s.sdh.card with
    | some c => (List.range k).flatMap (fun i => sdBlock c (b + i))
    | none => []
  sdDone (masterWrite s 7 a d) 2 e.err.val k

/-- The end of a forced erase: the card is new and is claimed; else it is in ERROR (R547). -/
def sdErased (s : State) (err : Nat) : State :=
  let s := sdDone s 3 err 0
  match err, s.sdh.card with
  | 0, some c => sdSettle s { c with pwd := none, blocks := [] }
  | _, _ => sdState s 4

/-- The end of SET_LOCK and UNLOCK: the card holds a password, or is unlocked when it matches. -/
def sdLocked (s : State) (op : Nat) (p : Bytes) (err : Nat) : State :=
  if err != 0 then sdDone s op err 0
  else if op = 4 then
    sdDone (setF { (updSd s (fun c => { c with pwd := some p })) with sdh := { (updSd s (fun c => { c with pwd := some p })).sdh with unlocked := false } }
      F.SDH_STATUS_LOCKED 1) 4 0 0
  else if (s.sdh.card.bind (fun c => c.pwd)) = some p then
    sdDone (setF { s with sdh := { s.sdh with unlocked := true } } F.SDH_STATUS_LOCKED 0) 5 0 0
  else sdDone s 5 6 0

/-- Whether an ERR is one a command that has been sent can end with; WRITE_STATUS and BUSY_TIMEOUT end a write only. Removal has its own
event, and BUSY, MPU and RANGE refuse a command at its start (R548, R549, R552). -/
def sdErrOk (op e : Nat) : Bool := [0, 2, 3, 6, 9].contains e || (op = 1 && (e = 4 || e = 5))

/-- SDH_OPERATION_END: the running command ends (R548). How it ends is the event's. -/
def execSdhOperationEnd (e : SdEnd) (s : State) : Res :=
  let s1 := setF { s with sdh := { s.sdh with cmd := none } } F.SDH_STATUS_BUSY 0
  withSd s (if !((s.sdh.cmd.map (fun c => sdErrOk c.1 e.err.val)).getD false) then s else match s.sdh.cmd with
    | none => s
    | some (1, b, n, _, d) => sdWrote s1 b n d e
    | some (2, b, n, a, _) => sdWasRead s1 b n a e
    | some (3, _) => sdErased s1 e.err.val
    | some (6, _) => sdDone (sdState (sdUnpower { s1 with sdh := SdhState.init }) 0) 6 0 0
    | some (op, _, _, _, p) => sdLocked s1 op p e.err.val)

/-! ## Mirroring (R304, R511, R551) -/

/-- Put the certificate of a record's AK_ID on the card before its first record. -/
def mirrorCert (s : State) (ak : Bytes) : State :=
  match s.sdh.card, s.led.certs.find? (fun e => hashBytes e.1 = ak) with
  | some c, some (_, der) =>
    let i := s.sdh.nextCert
    if 2048 ≤ i ∨ (List.range i).any (fun k => (sdCert c k).1 = ak) then s
    else { updSd s (fun c => sdPut c (2048 + 8 * i) (sdCertBytes ak der)) with
             sdh := { (updSd s (fun c => sdPut c (2048 + 8 * i) (sdCertBytes ak der))).sdh with nextCert := i + 1 } }
  | _, _ => s

/-- Mirror one record: with no room for it the card is FULL and mirroring stops. -/
def mirrorRecord (s : State) (q : Nat) : State :=
  match s.sdh.card, recordOf s q with
  | some c, some r =>
    if getF s F.SDH_STATUS_STATE != 2 then s
    else if !sdRoom c s.sdh.firstSeq q then sdState s 5
    else
      let s := mirrorCert s (slice r 0x70 48)
      let s := updSd s (fun c => sdPut c (sdRecBlock s.sdh.firstSeq q) r)
      { s with sdh := { s.sdh with head := q }, led := { s.led with mirrored := max s.led.mirrored q } }
  | _, _ => s

/-- Export the batches of the event ring: batch q in slot q mod 262,144, two a block (R511, R550). -/
def mirrorEvents (s : State) : State :=
  s.ev.ring.foldl (fun t e =>
    let slot := e.1 % 262144
    let b := 18432 + slot / 2
    updSd t (fun c => sdPut c b (overwrite (sdBlock c b) (256 * (slot % 2)) (batchBytes e.1 e.2)))) s

/-- LEDGER_MIRROR: every record not yet mirrored, in order of SEQ, with its certificate, then the event batches, onto a card that is ready
(R304, R551). A write that fails counts and mirrors nothing. -/
def execLedgerMirror (ok : Bool) (s : State) : Res :=
  withSd s (if getF s F.SDH_STATUS_STATE != 2 || s.sdh.cmd.isSome then s
    else if !ok then bump s F.SDH_WERR_COUNT F.SDH_WERR_SAT
    else
      let l := ((s.led.ring ++ s.led.sram).map (fun e => e.1)).filter (fun q => sdNext s ≤ q)
      mirrorEvents ((l.mergeSort (fun a b => a ≤ b)).foldl mirrorRecord s))

end Sys2Proof.Machine
end

