-- ==== Sys2Proof/Machine/Spdm.lean ====
section
/-!
DEFINITION. Spdm.lean: the SPDM responder over DOE and MCTP (R139, R140, R305–R307; log entry 31). A message's protection is an operand:
whether its MAC holds. Signatures over transcripts and the responder's exchange keys are free bytes.
-/
namespace Sys2Proof.Machine

/-! ## Error codes (DSP0274) -/
abbrev spInvalid : Nat := 0x01
abbrev spUnexpected : Nat := 0x04
abbrev spDecrypt : Nat := 0x06
abbrev spUnsupported : Nat := 0x07
abbrev spSessionLimit : Nat := 0x0A
abbrev spSessionRequired : Nat := 0x0B

/-- Whether a transport reaches the responder: DOE from step 8 of the Landau leg over an active link, MCTP while Sealed firmware runs
(R139, R306). -/
def spdmReach (s : State) (doe : Bool) : Bool :=
  geckoUp s && (match s.power.phase with | .sealed | .noImage | .measuring | .hostDone => true | _ => false) && (!doe || hostReach s)

/-- Give an answer on a transport. -/
def spdmSay (s : State) (doe : Bool) (a : SpdmAns) : State := { s with spdm := { s.spdm with out := s.spdm.out ++ [(doe, a)] } }

/-- How far a transport has negotiated. -/
def spdmStage (s : State) (doe : Bool) : Nat := if doe then s.spdm.doe else s.spdm.mctp

/-- Set it. -/
def setSpdmStage (s : State) (doe : Bool) (n : Nat) : State :=
  { s with spdm := if doe then { s.spdm with doe := n } else { s.spdm with mctp := n } }

/-- A request on a transport that needs a stage of the negotiation: else ERROR UnexpectedRequest. -/
def spdmAt (s : State) (doe : Bool) (need : Nat) (f : State → State) : State :=
  if !spdmReach s doe then s
  else if spdmStage s doe < need then spdmSay s doe (.error spUnexpected)
  else f s

/-- GET_VERSION: the negotiation of the transport starts anew; versions 1.2 and 1.3 (R306). -/
def spdmVersion (s : State) (doe : Bool) : State :=
  spdmAt s doe 0 (fun s =>
    let s := setSpdmStage s doe 1
    let s := { s with spdm := { s.spdm with sessions := s.spdm.sessions.filter (fun x => x.doe != doe) } }
    spdmSay s doe (.version [0x12, 0x13]))

/-- GET_CAPABILITIES: CERT 1, CHAL 2, MEAS with signature 4, MEAS_FRESH 5, ENCRYPT 6, MAC 7, KEY_EX 9, HBEAT 13, KEY_UPD 14 (R306). -/
def spdmCapabilities (s : State) (doe : Bool) : State :=
  spdmAt s doe 1 (fun s => spdmSay (setSpdmStage s doe (max 2 (spdmStage s doe))) doe (.capabilities [1, 2, 4, 5, 6, 7, 9, 13, 14]))

/-- Whether an offer has the algorithms of R306: DMTF measurements, ECDSA P-384, SHA-384, secp384r1, AES-256-GCM. -/
def offerCommon (o : SpdmOffer) : Bool := o.meas.testBit 0 && o.asym.testBit 7 && o.hash.testBit 1 && o.dhe.testBit 4 && o.aead.testBit 1

/-- The offer of a NEGOTIATE_ALGORITHMS message: its fixed fields, then the structures that follow its external algorithms. -/
def offerOf (b : Bytes) : SpdmOffer :=
  let o := 32 + 4 * byteAt b 28 + 4 * byteAt b 29
  let alg := fun t => (((List.range (byteAt b 2)).find? (fun i => byteAt b (o + 4 * i) = t)).map (fun i => leAt b (o + 4 * i + 2) 2)).getD 0
  { meas := byteAt b 6, asym := leAt b 8 4, hash := leAt b 12 4, dhe := alg 2, aead := alg 3 }

/-- NEGOTIATE_ALGORITHMS: the algorithms of R306 when the requester offers them. -/
def spdmAlgorithms (s : State) (doe : Bool) (o : SpdmOffer) : State :=
  spdmAt s doe 2 (fun s => if offerCommon o then spdmSay (setSpdmStage s doe 3) doe .algorithms else spdmSay s doe (.error spInvalid))

/-- GET_DIGESTS: the digest of slot 0's chain (R305). -/
def spdmDigests (s : State) (doe : Bool) : State := spdmAt s doe 3 (fun s => spdmSay s doe (.digests (sha384 (certChain s))))

/-- GET_CERTIFICATE: a portion of slot 0's chain and what remains; no other slot is provisioned (R305). -/
def spdmCertificate (s : State) (doe : Bool) (slot off len : Nat) : State :=
  spdmAt s doe 3 (fun s =>
    let c := certChain s
    if slot != 0 || c.length ≤ off then spdmSay s doe (.error spInvalid)
    else
      let p := slice c off len
      spdmSay s doe (.certificate p (c.length - off - p.length)))

/-- A signature by AK over a transcript. -/
def transcriptSig (s : State) : Bytes × State := drawBytes s 96

/-- CHALLENGE: the chain's digest and a signature by AK (R306). -/
def spdmChallenge (s : State) (doe : Bool) (slot : Nat) : State :=
  spdmAt s doe 3 (fun s =>
    if slot != 0 then spdmSay s doe (.error spInvalid)
    else
      let (g, s) := transcriptSig s
      spdmSay s doe (.challengeAuth (sha384 (certChain s)) g))

/-! ## Measurements (R307) -/

/-- The released digest of an entry of a HOST record: its DIGEST, or for RECOVERED the allowed digest that matched. -/
def releasedDigest (s : State) (r : Bytes) (i : Nat) : Bytes :=
  let o := 0x1A0 + 64 * i
  if byteAt r (o + 50) = 4 then
    let k := byteAt r (o + 51)
    let x := hmRegion s.hf.map i
    ((if k < 4 then x.allowed[k]? else (authDigests s x)[k - 4]?)).getD (slice r o 48)
  else slice r o 48

/-- The Open-world firmware that runs, zero before step 6 of the Landau leg. -/
def openMeas (s : State) : Bytes :=
  match s.power.openSlot with
  | 1 => hashBytes (sha384 s.cfg.openA)
  | 2 => hashBytes (sha384 s.cfg.openB)
  | _ => zeros 48

/-- A measurement block: its DMTF type (bit 7 raw) and value; none for an index not served. -/
def measBlock (s : State) (i : Nat) : Option (Nat × Bytes) :=
  match i with
  | 1 => some (0x00, hashBytes bootRomHash)
  | 2 => some (0x01, hashBytes s.power.sealedMeas)
  | 3 => some (0x03, hashBytes ((s.image.map (fun x => x.hash)).getD 0))
  | 4 => some (0x01, openMeas s)
  | 5 => some (0x83, leBytes s.led.head 8 ++ hashBytes s.led.headHash)
  | 6 => some (0x85, leBytes (life s) 1 ++ leBytes (if debugOpen s then 1 else 0) 1 ++ leBytes (evidence s) 2
      ++ leBytes (getF s F.PWRARB_STATUS_MODE) 1 ++ zeros 3)
  | 7 => some (0x03, ((newestHost s).map (fun r => slice r 0x170 48)).getD (zeros 48))
  | 8 => some (0x03, if isSet s F.HOSTSPI_STATUS_MAP_VALID then hashBytes (sha384 s.hf.map) else zeros 48)
  | n => if 0x10 ≤ n && n ≤ 0x17 then
      (newestHost s).bind (fun r => if n - 0x10 < byteAt r 0x161 then some (0x03, releasedDigest s r (n - 0x10)) else none)
    else none

/-- All blocks served, with their indices. -/
def measAll (s : State) : List (Nat × Nat × Bytes) :=
  ((List.range 0x18).map (fun i => (measBlock s i).map (fun b => (i, b.1, b.2)))).filterMap id

/-- GET_MEASUREMENTS: index 0 only the count, 0xFF every block, else one; signed when asked (R306, R307). -/
def spdmMeasurements (s : State) (doe : Bool) (index : Nat) (signed : Bool) : State :=
  spdmAt s doe 3 (fun s =>
    let (g, s) := if signed then transcriptSig s else ([], s)
    match index with
    | 0 => spdmSay s doe (.measurements [(0, 0, leBytes (measAll s).length 1)] g)
    | 0xFF => spdmSay s doe (.measurements (measAll s) g)
    | n =>
      match measBlock s n with
      | some b => spdmSay s doe (.measurements [(n, b.1, b.2)] g)
      | none => spdmSay s doe (.error spInvalid))

/-! ## Sessions (R306) -/

/-- KEY_EXCHANGE: a session opens; four at once across both transports, a fifth gets SessionLimitExceeded. -/
def spdmKeyExchange (s : State) (doe : Bool) (slot : Nat) (pub : Bytes) : State :=
  spdmAt s doe 3 (fun s =>
    if slot != 0 || pub.length != 96 then spdmSay s doe (.error spInvalid)
    else if 4 ≤ s.spdm.sessions.length then spdmSay s doe (.error spSessionLimit)
    else
      let (k, s) := drawBytes s 96
      let (g, s) := transcriptSig s
      let n := s.spdm.next
      let s := { s with spdm := { s.spdm with sessions := s.spdm.sessions ++ [{ id := n, doe := doe, done := false }], next := n + 1 } }
      spdmSay s doe (.keyExchange n k g))

/-- A session by its number. -/
def spdmFind (s : State) (n : Nat) : Option SpdmSession := s.spdm.sessions.find? (fun x => x.id = n)

/-- End a session. -/
def spdmDrop (s : State) (n : Nat) : State := { s with spdm := { s.spdm with sessions := s.spdm.sessions.filter (fun x => x.id != n) } }

/-- FINISH: the session's handshake ends; a MAC that fails ends the session with DecryptError. -/
def spdmFinish (s : State) (n : Nat) (mac : Bool) : State :=
  match spdmFind s n with
  | none => s
  | some x => spdmAt s x.doe 3 (fun s =>
    if x.done then spdmSay s x.doe (.error spUnexpected)
    else if !mac then spdmSay (spdmDrop s n) x.doe (.error spDecrypt)
    else spdmSay { s with spdm := { s.spdm with sessions := s.spdm.sessions.map (fun y => if y.id = n then { y with done := true } else y) } }
      x.doe .finish)

/-- A request inside an established session; a message whose MAC fails ends the session (DSP0277). -/
def inSession (s : State) (n : Nat) (mac : Bool) (f : State → Bool → State) : State :=
  match spdmFind s n with
  | none => s
  | some x => spdmAt s x.doe 3 (fun s =>
    if !x.done then spdmSay s x.doe (.error spUnexpected)
    else if !mac then spdmSay (spdmDrop s n) x.doe (.error spDecrypt)
    else f s x.doe)

/-- HEARTBEAT, KEY_UPDATE, END_SESSION. -/
def spdmHeartbeat (s : State) (n : Nat) (mac : Bool) : State := inSession s n mac (fun s d => spdmSay s d .heartbeat)
def spdmKeyUpdate (s : State) (n : Nat) (mac : Bool) : State := inSession s n mac (fun s d => spdmSay s d .keyUpdate)
def spdmEndSession (s : State) (n : Nat) (mac : Bool) : State := inSession s n mac (fun s d => spdmSay (spdmDrop s n) d .endSession)

/-- The ranges an IDE_KM message names; its layout is the base specification's (log entry 92). -/
def ideRangeOf (b : Bytes) : IdeRange :=
  { addrLo := Config.ideKm b 0, addrHi := Config.ideKm b 1, reqLo := Config.ideKm b 2, reqHi := Config.ideKm b 3 }

/-- VENDOR_DEFINED_REQUEST: IDE_KM, inside a secured session, keys the stream for the ranges it names, and it is Secure then; anything else
is unsupported (R140, R306). -/
def spdmVendor (s : State) (n : Nat) (mac : Bool) (ideKm : Option Bytes) : State :=
  inSession s n mac (fun s d =>
    match ideKm with
    | none => spdmSay s d (.error spUnsupported)
    | some b =>
      if !s.power.dataLink then spdmSay s d (.error spUnexpected)
      else spdmSay (setF { s with qm := { s.qm with ideKeyed := true, ideRange := some (ideRangeOf b) } } F.PCIEC_IDE_STATE 1) d .vendorDefined)

/-! ## The commands -/

/-- GET_VERSION. -/
def execGetVersion (doe : Bool) (s : State) : Res := .next (spdmVersion s doe)
/-- GET_CAPABILITIES. -/
def execGetCapabilities (doe : Bool) (s : State) : Res := .next (spdmCapabilities s doe)
/-- NEGOTIATE_ALGORITHMS. -/
def execNegotiateAlgorithms (doe : Bool) (offer : SpdmOffer) (s : State) : Res := .next (spdmAlgorithms s doe offer)
/-- GET_DIGESTS. -/
def execGetDigests (doe : Bool) (s : State) : Res := .next (spdmDigests s doe)
/-- GET_CERTIFICATE. -/
def execGetCertificate (doe : Bool) (slot off len : Nat) (s : State) : Res := .next (spdmCertificate s doe slot off len)
/-- CHALLENGE. -/
def execChallenge (doe : Bool) (slot : Nat) (s : State) : Res := .next (spdmChallenge s doe slot)
/-- GET_MEASUREMENTS. -/
def execGetMeasurements (doe : Bool) (index : Nat) (signed : Bool) (s : State) : Res := .next (spdmMeasurements s doe index signed)
/-- KEY_EXCHANGE. -/
def execKeyExchange (doe : Bool) (slot : Nat) (pub : Bytes) (s : State) : Res := .next (spdmKeyExchange s doe slot pub)
/-- FINISH. -/
def execFinish (session : Nat) (macOk : Bool) (s : State) : Res := .next (spdmFinish s session macOk)
/-- HEARTBEAT. -/
def execHeartbeat (session : Nat) (macOk : Bool) (s : State) : Res := .next (spdmHeartbeat s session macOk)
/-- KEY_UPDATE. -/
def execKeyUpdate (session : Nat) (macOk : Bool) (s : State) : Res := .next (spdmKeyUpdate s session macOk)
/-- END_SESSION. -/
def execEndSession (session : Nat) (macOk : Bool) (s : State) : Res := .next (spdmEndSession s session macOk)
/-- VENDOR_DEFINED_REQUEST. -/
def execVendorDefinedRequest (session : Nat) (macOk : Bool) (ideKm : Option Bytes) (s : State) : Res := .next (spdmVendor s session macOk ideKm)

/-! ## Data objects (R139) -/

/-- Serve a plain SPDM message: version, request code, two parameters, then the request's fields (DSP0274). -/
def spdmMessage (s : State) (doe : Bool) (b : Bytes) : State :=
  match byteAt b 1 with
  | 0x84 => spdmVersion s doe
  | 0xE1 => spdmCapabilities s doe
  | 0xE3 => spdmAlgorithms s doe (offerOf b)
  | 0x81 => spdmDigests s doe
  | 0x82 => spdmCertificate s doe (byteAt b 2 % 16) (leAt b 4 2) (leAt b 6 2)
  | 0x83 => spdmChallenge s doe (byteAt b 2 % 16)
  | 0xE0 => spdmMeasurements s doe (byteAt b 3) ((byteAt b 2).testBit 0)
  | 0xE4 => spdmKeyExchange s doe (byteAt b 3 % 16) (slice b 40 96)
  | 0xE5 => spdmAt s doe 3 (fun s => spdmSay s doe (.error spSessionRequired))
  | 0xE8 => spdmAt s doe 3 (fun s => spdmSay s doe (.error spSessionRequired))
  | 0xE9 => spdmAt s doe 3 (fun s => spdmSay s doe (.error spSessionRequired))
  | 0xEC => spdmAt s doe 3 (fun s => spdmSay s doe (.error spSessionRequired))
  | 0xFE => spdmAt s doe 3 (fun s => spdmSay s doe (.error spSessionRequired))
  | _ => spdmAt s doe 0 (fun s => spdmSay s doe (.error spUnsupported))

/-- Serve a secured message: the session's number, then the message it protects. -/
def spdmSecured (s : State) (doe : Bool) (b : Bytes) : State :=
  let n := leAt b 0 4
  match byteAt b 5 with
  | 0xE5 => spdmFinish s n true
  | 0xE8 => spdmHeartbeat s n true
  | 0xE9 => spdmKeyUpdate s n true
  | 0xEC => spdmEndSession s n true
  | 0xFE => spdmVendor s n true (if leAt b 8 2 = 3 then some (b.drop 10) else none)
  | _ => inSession s n true (fun s d => if d = doe then spdmMessage s d (b.drop 4) else s)

/-- The answer of DOE Discovery to an index: vendor, protocol, next index; an index past the last answers vendor 0xFFFF. -/
def doeDiscovery (i : Nat) : Bytes :=
  if i < 3 then leBytes 1 2 ++ leBytes i 1 ++ leBytes ((i + 1) % 3) 1 else leBytes 0xFFFF 2 ++ zeros 2

/-- DOE_DATA_OBJECT: Discovery, CMA/SPDM and secured CMA/SPDM of vendor 1, up to 256 KiB; any other protocol gets no response, as the base
specification has it (R139). Before step 8 of the Landau leg the mailbox is not reached. -/
def execDoeDataObject (vendor typ : Nat) (payload : Bytes) (s : State) : Res :=
  .next (if !hostReach s || 262144 < payload.length || vendor != 1 then s
    else match typ with
      | 0 => { s with qm := { s.qm with doeOut := s.qm.doeOut ++ [doeDiscovery (byteAt payload 0)] } }
      | 1 => spdmMessage s true payload
      | 2 => spdmSecured s true payload
      | _ => s)

end Sys2Proof.Machine
end

