-- ==== Sys2Proof/Machine/Sideband.lean ====
section
/-!
DEFINITION. Sideband.lean: the sideband: bus modes, MCTP, management messages, SIDEB registers (R570–R576, R87, R47).
-/
namespace Sys2Proof.Machine

/-! ## The bus (R570) -/

/-- Whether firmware, the boot ROM's in ROM recovery, serves the sideband and SIDEB is powered. -/
def sbRuns (s : State) : Bool := geckoUp s && domainOn s 63 && s.power.phase != .off && s.power.phase != .held

/-- Whether Sealed firmware runs. -/
def sealedRuns (s : State) : Bool := sbRuns s && s.power.phase != .romRecovery

/-- Whether a controller reaches the L9: a mode is settled. -/
def sbReach (s : State) : Bool := sbRuns s && s.sb.settled != 0

/-- DYNAMIC_ADDRESS_ASSIGNMENT: I3C from now on; after the fallback has begun it is not answered (R570). -/
def execDynamicAddressAssignment (addr : BitVec 7) (s : State) : Res :=
  .next (if !sbRuns s || s.sb.settled = 2 then s
    else setF (setF { s with sb := { s.sb with settled := 1 } } F.SIDEB_STATUS_MODE 1) F.SIDEB_STATUS_DYN_ADDR addr.toNat)

/-- FALLBACK_TIMEOUT: 100 ms of Sealed firmware running without a dynamic address (R570). -/
def execFallbackTimeout (s : State) : Res :=
  .next (if !sealedRuns s || s.sb.settled != 0 then s
    else setF { s with sb := { s.sb with settled := 2 } } F.SIDEB_STATUS_MODE 0)

/-- Interrupt source 17. -/
def sbIrq (s : State) : State := raise s 17

/-! ## MCTP messages (R571) -/

/-- Show the oldest assembled message in RXINFO. -/
def sbShow (s : State) : State :=
  match s.sb.rx with
  | [] => setF (setF s F.SIDEB_RXINFO_VALID 0) F.SIDEB_STATUS_RX_READY 0
  | m :: _ =>
    let s := setF (setF (setF s F.SIDEB_RXINFO_VALID 1) F.SIDEB_RXINFO_LEN m.data.length) F.SIDEB_RXINFO_EID m.eid
    sbIrq (setF (setF (setB s F.SIDEB_RXINFO_TO m.own) F.SIDEB_RXINFO_TAG m.tag) F.SIDEB_STATUS_RX_READY 1)

/-- The transmission unit: MTU on I3C, 64 bytes in a fallback (R571). -/
def sbUnit (s : State) : Nat := if s.sb.settled = 1 then getF s F.SIDEB_CFG_MTU else 64

/-- Discard what is being assembled, and count (R571). -/
def sbDiscard (s : State) : State :=
  setF (bump { s with sb := { s.sb with asm := none } } F.SIDEB_ERRCNT_COUNT F.SIDEB_ERRCNT_SAT) F.SIDEB_STATUS_RX_OVF 1

/-- Give an answer on the sideband. -/
def sbSay (s : State) (b : Bytes) : State := { s with sb := { s.sb with answers := s.sb.answers ++ [b] } }

/-- A management response (R572). -/
def sbAnswer (s : State) (code cc : Nat) (body : Bytes) : State :=
  sbSay s ([0x7E, 0x1F, 0xA7] ++ leBytes (code + 0x80) 1 ++ leBytes cc 1 ++ zeros 3 ++ body)

/-- The completions (R572). -/
abbrev sbOK : Nat := 0
abbrev sbBUSY : Nat := 1
abbrev sbBAD_FORMAT : Nat := 2
abbrev sbNOT_NOW : Nat := 3
abbrev sbVERIFY_FAILED : Nat := 4
abbrev sbQUORUM_REQUIRED : Nat := 5
abbrev sbUNSUPPORTED : Nat := 6

/-- Whether a message is a management request (R572). -/
def sbIsRequest (m : Bytes) : Bool := 8 ≤ m.length && slice m 0 3 = [0x7E, 0x1F, 0xA7] && byteAt m 3 < 0x80

/-- What a whole message leads to: SPDM is served (R306); a management request of an unknown CODE is answered UNSUPPORTED (R572); every other
one waits for firmware to serve it, which is that message's own command. -/
def sbArrived (s : State) (m : SbMsg) : State :=
  let s := sbShow { s with sb := { s.sb with asm := none, rx := s.sb.rx ++ [m] } }
  match byteAt m.data 0 % 128 with
  | 5 => spdmMessage s false (m.data.drop 1)
  | 6 => spdmSecured s false (m.data.drop 1)
  | _ =>
    if sbIsRequest m.data && !(1 ≤ byteAt m.data 3 && byteAt m.data 3 ≤ 0x10) then
      sbAnswer s (byteAt m.data 3) (if sealedRuns s then sbUNSUPPORTED else sbNOT_NOW) []
    else s

/-- Add a packet to the message being assembled. -/
def sbTake (s : State) (p : MctpPkt) (data : Bytes) : State :=
  let m : SbMsg := { eid := p.src.toNat, own := p.own, tag := p.tag.val, data := data }
  if 4096 < data.length then sbDiscard s
  else if p.eom then sbArrived s m
  else { s with sb := { s.sb with asm := some (m, (p.seq.val + 1) % 4) } }

/-- Whether the bus mode requires a packet error code: SMBus (R570). -/
def sbNeedsPec (s : State) : Bool := s.sb.settled = 2 && getF s F.SIDEB_CFG_FALLBACK != 0

/-- MCTP_PACKET: a start begins a message, dropping an unfinished one; any other packet goes on with the message of its source and tag in
sequence; else, or where it exceeds the transmission unit or lacks the right PEC on SMBus, it is discarded and counted (R570, R571, DSP0236). -/
def execMctpPacket (p : MctpPkt) (s : State) : Res :=
  .next (if !sbReach s then s
    else if sbUnit s < p.payload.length || (sbNeedsPec s && !p.pec) then sbDiscard s
    else if p.som then sbTake (if s.sb.asm.isSome then sbDiscard s else s) p p.payload
    else match s.sb.asm with
      | none => sbDiscard s
      | some (m, q) =>
        if m.eid = p.src.toNat && m.own = p.own && m.tag = p.tag.val && q = p.seq.val then sbTake s p (m.data ++ p.payload)
        else sbDiscard s)

/-- SIDEB_RXDATA_READ: pops four bytes of the oldest message; the last make way for the next (R571). -/
def execSidebRxdataRead (s : State) : Res :=
  whenGecko s
    (match s.sb.rx with
     | [] => setF s F.SIDEB_RXDATA_BYTES 0
     | m :: l =>
       let s := setF s F.SIDEB_RXDATA_BYTES (leAt m.data 0 4)
       let d := m.data.drop 4
       if d.isEmpty then sbShow { s with sb := { s.sb with rx := l } }
       else { s with sb := { s.sb with rx := { m with data := d } :: l } })

/-- SIDEB_TXDATA_WRITE: pushes four bytes, up to the longest message. -/
def execSidebTxdataWrite (v : W32) (s : State) : Res :=
  whenGecko s (if 4096 < s.sb.tx.length + 4 then s else { s with sb := { s.sb with tx := s.sb.tx ++ leBytes v.toNat 4 } })

/-- Send the bytes pushed. -/
def sbSend (s : State) (w : Nat) : State :=
  let m : SbMsg := { eid := F.SIDEB_TXCTRL_EID.ofWord w, own := F.SIDEB_TXCTRL_TO.ofWord w = 1, tag := F.SIDEB_TXCTRL_TAG.ofWord w,
                     data := s.sb.tx.take (F.SIDEB_TXCTRL_LEN.ofWord w) }
  sbIrq (setF { s with sb := { s.sb with tx := [], sent := s.sb.sent ++ [m] } } F.SIDEB_STATUS_TX_DONE 1)

/-- SIDEB_SEND: a write of SIDEB_TXCTRL; with GO the message of LEN bytes is sent. A LEN outside 1 to 4,096 or beyond the bytes pushed, or no
mode settled, sends nothing. -/
def execSidebSend (v : W32) (s : State) : Res :=
  let w := v.toNat
  let n := F.SIDEB_TXCTRL_LEN.ofWord w
  let t := setF (setF (setF (setF s F.SIDEB_TXCTRL_LEN n) F.SIDEB_TXCTRL_EID (F.SIDEB_TXCTRL_EID.ofWord w)) F.SIDEB_TXCTRL_TO
    (F.SIDEB_TXCTRL_TO.ofWord w)) F.SIDEB_TXCTRL_TAG (F.SIDEB_TXCTRL_TAG.ofWord w)
  whenGecko s (if v.getLsbD 31 && sbReach s && 1 ≤ n && n ≤ 4096 && n ≤ s.sb.tx.length then sbSend t w else t)

/-! ## MCTP control commands (R571, DSP0236) -/

/-- A control response: type 0, instance, command, completion, data. -/
def sbControl (s : State) (inst : BitVec 5) (cmd cc : Nat) (data : Bytes) : Res :=
  .next (if sbReach s then sbSay s ([0x00] ++ leBytes inst.toNat 1 ++ leBytes cmd 1 ++ leBytes cc 1 ++ data) else s)

/-- SET_ENDPOINT_ID: operations 0 set and 1 force; 0 and 0xFF are no endpoint IDs; other operations are invalid data. -/
def execSetEndpointId (inst : BitVec 5) (op : BitVec 2) (eid : BitVec 8) (s : State) : Res :=
  if op.toNat < 2 && eid != 0 && eid != 0xFF then
    sbControl (if sbReach s then setF s F.SIDEB_STATUS_EID eid.toNat else s) inst 1 0 [0x00, eid, 0x00]
  else sbControl s inst 1 2 []

/-- GET_ENDPOINT_ID: the ID; a simple endpoint of dynamic ID. -/
def execGetEndpointId (inst : BitVec 5) (s : State) : Res := sbControl s inst 2 0 (leBytes (getF s F.SIDEB_STATUS_EID) 1 ++ zeros 2)

/-- GET_ENDPOINT_UUID (log entry 39). -/
def execGetEndpointUuid (inst : BitVec 5) (s : State) : Res := sbControl s inst 3 0 ((List.range 16).map Config.uuidByte)

/-- The message types the L9 supports (R571). -/
def sbTypes (s : State) : Bytes := if sealedRuns s then [0x00, 0x05, 0x06, 0x7E] else [0x00, 0x7E]

/-- GET_MCTP_VERSION_SUPPORT: 1.3 for the base and control protocol; the version entry of another supported type is open, a free value; an
unsupported type gets completion 0x80. -/
def execGetMctpVersionSupport (inst : BitVec 5) (typ : BitVec 8) (s : State) : Res :=
  if typ = 0xFF || typ = 0 then sbControl s inst 4 0 [0x01, 0xF1, 0xF3, 0xFF, 0x00]
  else if (sbTypes s).contains typ then
    let (v, t) := if sbReach s then drawBytes s 4 else ([], s)
    sbControl t inst 4 0 ([0x01] ++ v)
  else sbControl s inst 4 0x80 []

/-- GET_MESSAGE_TYPE_SUPPORT. -/
def execGetMessageTypeSupport (inst : BitVec 5) (s : State) : Res := sbControl s inst 5 0 (leBytes (sbTypes s).length 1 ++ sbTypes s)

/-- GET_VENDOR_DEFINED_MESSAGE_SUPPORT: one set, PCI vendor 0x1FA7, version 0x0100; another selector is invalid data. -/
def execGetVendorDefinedMessageSupport (inst : BitVec 5) (sel : BitVec 8) (s : State) : Res :=
  if sel = 0 then sbControl s inst 6 0 [0xFF, 0x00, 0x1F, 0xA7, 0x01, 0x00] else sbControl s inst 6 2 []

/-! ## Management requests (R572–R574) -/

/-- The body of a request. -/
def sbBody (m : Bytes) : Bytes := m.drop 8

/-- Serve a request of a CODE: what reaches the L9 as another message does nothing here; reserved bytes and the length of the body are checked,
then whether the present state accepts it. -/
def sbServe (s : State) (code : Nat) (m : Bytes) (lenOk accepted : Bool) (go : State → Bytes → State) : Res :=
  .next (if !sbReach s || !sbIsRequest m || byteAt m 3 != code then s
    else if !accepted then sbAnswer s code sbNOT_NOW []
    else if !allZero m 4 4 || !lenOk then sbAnswer s code sbBAD_FORMAT []
    else go s (sbBody m))

/-- Whether the body of a message has a length. -/
def sbLen (m : Bytes) (n : Nat) : Bool := m.length = 8 + n

/-- STATUS (R573). -/
def execStatus (msg : Bytes) (s : State) : Res :=
  sbServe s 1 msg (sbLen msg 0) true fun s _ =>
    let st := leBytes (readReg s Blk.SYSCTL 4) 4
    let rc := leBytes (readReg s Blk.SYSCTL 8) 4
    if sealedRuns s then
      sbAnswer s 1 sbOK (st ++ leBytes (readReg s Blk.TAMPER 0) 4 ++ leBytes (readReg s Blk.FCOLL 0) 4 ++ rc ++ leBytes s.led.head 8 ++ sliceZ s.sb.nonce 0 32)
    else sbAnswer s 1 sbOK (st ++ zeros 8 ++ rc ++ zeros 40)

/-- SB_LEDGER_READ: up to three records (R311, R573); a FIRST_SEQ below the oldest is a wrong field. -/
def execSbLedgerRead (msg : Bytes) (s : State) : Res :=
  sbServe s 2 msg (sbLen msg 8) (sealedRuns s) fun s b =>
    if leAt b 0 8 < ledgerOldest s then sbAnswer s 2 sbBAD_FORMAT []
    else sbAnswer s 2 sbOK (ledgerRead s (leAt b 0 8) 3072)

/-- EVENT_READ: up to 15 closed batches from a sequence number (R511, R573). -/
def execEventRead (msg : Bytes) (s : State) : Res :=
  sbServe s 3 msg (sbLen msg 8) (sealedRuns s) fun s b =>
    sbAnswer s 3 sbOK ((((s.ev.ring.filter (fun x => leAt b 0 8 ≤ x.1)).take 15)).flatMap (fun x => batchBytes x.1 x.2))

/-! ### Images -/

/-- Whether chunks cover bytes 0 to n − 1: walk up from what is covered as far as any chunk carries. -/
def covered (l : List (Nat × Nat)) (n : Nat) : Bool :=
  n ≤ l.foldl (fun r _ => l.foldl (fun r c => if c.1 ≤ r then max r (c.1 + c.2) else r) r) 0

/-- The chunk fields of RECOVERY_WRITE and IMAGE_STAGE at an offset of the body: OFFSET, TOTAL, data. -/
def chunkOk (b : Bytes) (o limit : Nat) : Bool :=
  let n := b.length - (o + 8)
  o + 8 ≤ b.length && n ≤ 3968 && leAt b o 4 + n ≤ leAt b (o + 4) 4 && leAt b (o + 4) 4 ≤ limit

/-- RECOVERY_WRITE: data into a Sealed slot (1 A, 2 B); the last of it has the boot ROM verify the slot (R45, R47, R574), and the
device reset that follows is one by request (log entry 85). -/
def recoveryWrite (s : State) (b : Bytes) : State :=
  let n := byteAt b 0
  if !(n = 1 || n = 2) || !allZero b 1 3 || !chunkOk b 4 (2 ^ 32) then sbAnswer s 4 sbBAD_FORMAT []
  else
    let off := leAt b 4 4
    let total := leAt b 8 4
    let d := b.drop 12
    let old := if s.sb.recSlot = n && s.sb.recTotal = total && off != 0 then s.sb.recImage else []
    let img := overwrite old off d
    let x := fwOfBytes (fwSlot s n).active img
    let s := setFwSlot { s with sb := { s.sb with recSlot := n, recImage := img, recTotal := total } } n x
    if off + d.length < total then sbAnswer s 4 sbOK []
    else if fwVerifies s x then deviceReset (sbAnswer s 4 sbOK []) F.SYSCTL_RSTCAUSE_REQUEST
    else sbAnswer s 4 sbVERIFY_FAILED [1]

/-- RECOVERY_WRITE, in ROM recovery only (R47, R573). -/
def execRecoveryWrite (msg : Bytes) (s : State) : Res :=
  sbServe s 4 msg (20 ≤ msg.length) (s.power.phase = .romRecovery) recoveryWrite

/-- The slot images are staged into: not the one in use (R87). -/
def stageSlot (s : State) : Nat := otherSlot (getF s F.SYSCTL_STATE_IMAGE_SLOT)

/-- Whether staging is accepted. -/
def stageOk (s : State) : Bool := sealedRuns s && life s != 4

/-- IMAGE_STAGE: step 1 of R87; an image of another TOTAL begins anew. -/
def imageStage (s : State) (b : Bytes) : State :=
  if !chunkOk b 0 0x300200 then sbAnswer s 5 sbBAD_FORMAT []
  else
    let off := leAt b 0 4
    let total := leAt b 4 4
    let d := b.drop 8
    let fresh := s.sb.total != total
    let old := if fresh then List.replicate total 0xFF#8 else slotBytes s (stageSlot s)
    let img := overwrite old off d
    let s := { s with sb := { s.sb with total := total, arrived := (if fresh then [] else s.sb.arrived) ++ [(off, d.length)] } }
    let s := if stageSlot s = 1 then { s with cfg := { s.cfg with slotA := img } } else { s with cfg := { s.cfg with slotB := img } }
    sbAnswer s 5 sbOK []

/-- IMAGE_STAGE (R87, R573, R574). -/
def execImageStage (msg : Bytes) (s : State) : Res := sbServe s 5 msg (16 ≤ msg.length) (stageOk s) imageStage

/-- IMAGE_COMMIT: steps 2 and 3 of R87: the verdict, and on 0x00 the selector's PENDING and TRIES with FAILED of the slot clear. -/
def imageCommit (s : State) (b : Bytes) : State :=
  let tries := byteAt b 0
  if tries = 0 || 15 < tries || s.sb.total = 0 || !covered s.sb.arrived s.sb.total then sbAnswer s 6 sbBAD_FORMAT []
  else
    let n := stageSlot s
    let v := imgVerdict s (slotBytes s n)
    if v != 0 then sbAnswer s 6 sbVERIFY_FAILED (leBytes v 1)
    else
      let x := (governing s).2
      sbAnswer (writeSelector s { x with pending := n, tries := tries, failed := clrBitN x.failed (n - 1) }) 6 sbOK [0x00]

/-- IMAGE_COMMIT (R87, R573, R574). -/
def execImageCommit (msg : Bytes) (s : State) : Res := sbServe s 6 msg (sbLen msg 1) (stageOk s) imageCommit

/-! ### Measurement, authorisation, lifecycle -/

/-- Whether a host is held after a HOST record with VERDICT HELD (R573). -/
def heldByPolicy (s : State) : Bool :=
  sealedRuns s && s.power.hold && s.hf.stage = 0 && ((newestHost s).map (fun r => decide (byteAt r 0xA3 = 3))).getD false

/-- REMEASURE: R289 from step 2, without a host reset (R574). -/
def execRemeasure (msg : Bytes) (s : State) : Res :=
  sbServe s 7 msg (sbLen msg 0) (heldByPolicy s) fun s _ => sbAnswer (hostResetFrom (setF s F.HOSTSPI_STATUS_RESET_SEEN 1)) 7 sbOK []

/-- SB_HOST_FLASH_AUTH (R313, R574). -/
def execSbHostFlashAuth (msg : Bytes) (ledgerOk : Bool) (s : State) : Res :=
  sbServe s 8 msg (sbLen msg 320) (sealedRuns s) fun s b =>
    match applyAuth s b ledgerOk with
    | (0, s) => sbAnswer s 8 sbOK []
    | (n, s) => sbAnswer s 8 sbVERIFY_FAILED (leBytes n 1)

/-- OP_DIGEST of a sideband request: CODE followed by the body (R539, R574). -/
def sbDigest (code : Nat) (b : Bytes) : Hash := sha384 (leBytes code 1 ++ b)

/-- The quorum check of a sideband request: answered QUORUM_REQUIRED, or the session is consumed and it goes on (R539, R541, R576). -/
def sbQuorum (s : State) (code op : Nat) (b : Bytes) (go : State → State) : State :=
  match quorumNeed s op (sbDigest code b) [] with
  | (some r, s) => sbAnswer s code sbQUORUM_REQUIRED (leBytes (r % 2 ^ 32) 4 ++ leBytes (r / 2 ^ 32) 1)
  | (none, s) => go (cancelSession s)

/-- The tag of a transition the sideband asked for: no command has it. -/
abbrev sbTag : Nat := 2 ^ 32

/-- A transition is made: its record and its answer, then its action; or the content fails (R315). -/
def sbTransition (s : State) (target quorum : Nat) (b : Bytes) (ok : Bool) : State :=
  match acceptLife s sbTag target quorum b ok with
  | none => sbAnswer s 9 sbVERIFY_FAILED []
  | some t => lifeDue (sbAnswer t 9 sbOK [])

/-- LIFECYCLE: TARGET, three zero bytes, the input of R315; a transition already made, or that the state does not have, answers NOT_NOW (R574,
R576). -/
def sbLifecycle (s : State) (b : Bytes) (ok : Bool) : State :=
  let g := byteAt b 0
  let i := b.drop 4
  if 4 < g || !allZero b 1 3 then sbAnswer s 9 sbBAD_FORMAT []
  else if s.led.act.isSome || !transitionOk s g then sbAnswer s 9 sbNOT_NOW []
  else if !lifeLenOk s g i.length then sbAnswer s 9 sbBAD_FORMAT []
  else if transitionQuorum s g = 0 then sbTransition s g 0 i ok
  else let q := quorumBits s; sbQuorum s 9 (transitionQuorum s g) b (fun s => sbTransition s g q i ok)

/-- SB_LIFECYCLE (R573, R574). -/
def execSbLifecycle (msg : Bytes) (ledgerOk : Bool) (s : State) : Res :=
  sbServe s 9 msg (12 ≤ msg.length) (sealedRuns s) (fun s b => sbLifecycle s b ledgerOk)

/-- QUORUM_CANCEL: the open session ends (R541). -/
def execQuorumCancel (msg : Bytes) (s : State) : Res :=
  sbServe s 10 msg (sbLen msg 0) (sealedRuns s) fun s _ => sbAnswer (cancelSession s) 10 sbOK []

/-- SB_UNLOCK: under quorum it writes TAMPER_CTRL.UNLOCK (R474, R574). -/
def execSbUnlock (msg : Bytes) (s : State) : Res :=
  sbServe s 11 msg (sbLen msg 0) (sealedRuns s && isSet s F.TAMPER_STATUS_LOCKED && !isSet s F.TAMPER_STATUS_ZPEND) fun s b =>
    sbQuorum s 11 11 b (fun s => sbAnswer (setF s F.TAMPER_STATUS_LOCKED 0) 11 sbOK [])

/-- CSET_REPLACE: under quorum the set is replaced and every session ends (R535, R541, R574). -/
def execCsetReplace (msg : Bytes) (s : State) : Res :=
  sbServe s 12 msg (csetOk (sbBody msg)) (sealedRuns s && (life s = 1 || life s = 2)) fun s b =>
    sbQuorum s 12 12 b (fun s => sbAnswer { s with quorum := { s.quorum with cset := some b, session := none } } 12 sbOK [])

/-! ### Owner requests (R575) -/

/-- The reason an owner request is refused for, 0 none. -/
def ownerReason (s : State) (code : Nat) (b : Bytes) : Nat :=
  if slice b 0 32 != sliceZ s.sb.nonce 0 32 then 3
  else if slice b 32 48 != hashBytes (deviceId s) then 2
  else if sha384 (slice b 80 96) != ownerKeyHash s
    || !ecdsaVerify P384 (slice b 80 96) (hashBytes (sha384 (leBytes code 1 ++ b.take 176))) (slice b 176 96) then 1
  else 0

/-- Take an owner request: refused or accepted, a fresh NONCE follows. -/
def ownerRequest (s : State) (code : Nat) (b : Bytes) (go : State → State) : State :=
  let r := ownerReason s code b
  let (n, s) := drbgBytes s 28 32
  let s := { s with sb := { s.sb with nonce := n } }
  if r = 0 then go s else sbAnswer s code sbVERIFY_FAILED (leBytes r 1)

/-- CARD_ERASE: a FOREIGN card is force-erased; answered at the start (R547, R573). -/
def execCardErase (msg : Bytes) (s : State) : Res :=
  sbServe s 13 msg (sbLen msg 272) (sealedRuns s && getF s F.SDH_STATUS_STATE = 3) fun s b =>
    ownerRequest s 13 b (fun s => if s.sdh.cmd.isSome then sbAnswer s 13 sbBUSY [] else sbAnswer (sdErase s) 13 sbOK [])

/-- TAG_OWNER_ERASE: the tag's owner area is erased (R559, R573). -/
def execTagOwnerErase (msg : Bytes) (s : State) : Res :=
  sbServe s 14 msg (sbLen msg 272) (sealedRuns s) fun s b => ownerRequest s 14 b (fun s => sbAnswer (tagErase s 15) 14 sbOK [])

/-! ### Pattern tests -/

/-- LINK_TEST: TEST_USER and TEST_CTRL are written, which with GO starts a test, with STOP ends one; one R577 does not allow is not accepted; TEST_STATUS
after the start is answered (R573). `lock` is whether the checker locks. -/
def execLinkTest (msg : Bytes) (lock : Bool) (s : State) : Res :=
  let w := leAt (sbBody msg) 0 4
  sbServe s 15 msg (sbLen msg 8) (sealedRuns s && domainOn s 79 && (w.testBit 30 || !w.testBit 31 || testErr s false w lock != 1)) fun s b =>
    let s := if s.test.isSome then s else setF s F.TEST_USER_PATTERN (leAt b 4 4)
    let s := if w.testBit 30 then
        (match s.test with
         | none => s
         | some t =>
           if t.land then s
           else
             let (n, s) := draw s 64
             let (e, s) := draw s 31
             testEnds (testCounts s false (BitVec.ofNat 64 n) e) t 0)
      else if w.testBit 31 then testStart s false w lock
      else testCtrl s false w
    sbAnswer s 15 sbOK (leBytes (readReg s Blk.TEST 4) 4)

/-- LINK_RESULT (R573). -/
def execLinkResult (msg : Bytes) (s : State) : Res :=
  sbServe s 16 msg (sbLen msg 0) (sealedRuns s) fun s _ =>
    sbAnswer s 16 sbOK (leBytes (readReg s Blk.TEST 4) 4 ++ leBytes (getF s F.TEST_BITS_COUNT) 8 ++ leBytes (readReg s Blk.TEST 0x10) 4)

end Sys2Proof.Machine
end

