-- ==== Sys2Proof/Machine/RegWrite.lean ====
section
/-!
DEFINITION. RegWrite.lean: software writes to registers: by access code (R10, R11), under the locks (R421, R433, R462, R465), or as the row of
the register's own does (log entry 47); the host's writes to BAR0 and configuration space (R106, R107, R117, R137, R138).
-/
namespace Sys2Proof.Machine

/-- The state a row leaves. -/
def afterRow (s : State) (r : Res) : State := match r with | .next t => t | _ => s

/-- The KEY in bits [31:16] of a value. -/
def keyOf (v : Nat) : BitVec 16 := BitVec.ofNat 16 (v / 65536)

/-- A value as 32 bits. -/
def as32 (v : Nat) : W32 := BitVec.ofNat 32 v

/-- Clear the write-one-to-clear flags a value names, and nothing else. -/
def clearFlags (s : State) (blk off v : Nat) : State :=
  (fieldsAt blk off).foldl (fun t f => if f.acc = .w1c then writeField t f v else t) s

/-- Rows done one after another, each where its condition holds. -/
def rowsIf (s : State) (l : List (Bool × (State → Res))) : State :=
  l.foldl (fun t e => if e.1 then afterRow t (e.2 t) else t) s

/-! ## Gecko blocks -/

/-- SYSCTL: RESET by its KEY and KIND; RELEASE.OPEN as R69 lets it. -/
def writeSysctl (s : State) (off v : Nat) : Option State :=
  match off with
  | 0xC =>
    some (if v / 65536 % 65536 != 0x5A3C then s
      else if v % 16 = 1 then afterRow s (execDeviceReset (.request 0x5A3C) s)
      else if v % 16 = 2 then afterRow s (execLandauRebuild s) else s)
  | 0x10 =>
    let (ok, t) := draw s 1
    some (if v.testBit 0 then afterRow s (execSysctlReleaseOpen (as32 v) (ok = 1) t) else s)
  | 0x14 => some (if v % 256 = 0 then clearCounter s F.SYSCTL_BOOTATT_COUNT F.SYSCTL_BOOTATT_SAT else writeReg s Blk.SYSCTL 0x14 v)
  | _ => none

/-- The operations of FLASHC_CMD; other values end BAD_ARG (R439). -/
def writeFlashCmd (s : State) (fetch : Fin 3) (v : Nat) : State :=
  let w : FlashWr := { key := keyOf v, fetch := fetch }
  afterRow s (match v % 16 with
    | 1 => execProgram w s
    | 2 => execErase w s
    | 3 => execEraseRange w s
    | 4 => execCheck w s
    | 5 => execRetire w s
    | 6 => execSuspend w s
    | 7 => execResume w s
    | _ => flashKeyed w s (flashRefuse s 1))

/-- FLASHC: its operations; ZRANGE until ZLOCK. -/
def writeFlashc (s : State) (fetch : Fin 3) (off v : Nat) : Option State :=
  if off = 4 then some (writeFlashCmd s fetch v)
  else if 0x40 ≤ off ∧ off < 0x50 ∧ isSet s F.FLASHC_CTRL_ZLOCK then some s
  else none

/-- TAMPER: CFG_LOCK needs no KEY; UNLOCK, ZDONE, BKGEN and ZALL in this order; RESP until CFG_LOCK, and never of a disabled source (R475). -/
def writeTamper (s : State) (off v : Nat) : Option State :=
  if off = 4 then
    some (rowsIf s [(v.testBit 0, execCfgLock), (v.testBit 1, execUnlock (keyOf v)), (v.testBit 2, execZdone (keyOf v)),
      (v.testBit 3, execBkgen (keyOf v)), (v.testBit 4, execZall (keyOf v))])
  else if off = 0x18 then some (afterRow s (execTamperSelftest (as32 v) s))
  else if off = 0x1C then some (afterRow s (execTamperForce (BitVec.ofNat 16 v) s))
  else if 0x40 ≤ off ∧ off < 0x80 ∧ (isSet s F.TAMPER_CTRL_CFG_LOCK ∨ isSet s (F.TAMPER_RESP_DISABLED ((off - 0x40) / 4))) then some s
  else none

/-- FCOLL: its commands by KEY, and FORCE. -/
def writeFcoll (s : State) (off v : Nat) : Option State :=
  match off with
  | 4 => some (rowsIf s [(v.testBit 0, execRetireAck (keyOf v)), (v.testBit 1, execExit (keyOf v)), (v.testBit 2, execRclr (keyOf v))])
  | 0x20 => some (afterRow s (execFcollForce (as32 v) s))
  | _ => none

/-- PWRARB: MODE and DOMCTRL; a write of 1 to bit 31 of POWER clears PEAK (R522). -/
def writePwrarb (s : State) (off v : Nat) : Option State :=
  match off with
  | 4 => some (afterRow s (execModeChange (as32 v) s))
  | 0x30 => some (afterRow s (execPwrarbDomctrl (as32 v) s))
  | 0x14 => some (if v.testBit 31 then setF s F.PWRARB_POWER_PEAK 0 else s)
  | _ => none

/-- A contact port: its commands and its FIFO. -/
def writeCard (s : State) (port : Fin 2) (off v : Nat) : Option State :=
  match off with
  | 4 =>
    some (afterRow s (match v % 16 with
      | 1 => execActivate port s
      | 2 => execExchange port s
      | 3 => execDeactivate port s
      | 4 => execWarmReset port s
      | _ => .next s))
  | 0x14 => some (afterRow s (execCardDataAccess port (some (as32 v)) s))
  | _ => none

/-- SDH: its commands. -/
def writeSdh (s : State) (off v : Nat) : Option State :=
  if off = 4 then
    some (afterRow s (match v % 16 with
      | 1 => execSdhWrite s
      | 2 => execSdhRead s
      | 3 => execForceErase (keyOf v) s
      | 4 => execSetLock s
      | 5 => execSdhUnlock s
      | 6 => execPowerOff s
      | _ => .next s))
  else none

/-- TAG: its commands; another value is ignored. -/
def writeTag (s : State) (fetch : Fin 3) (off v : Nat) : Option State :=
  let w : FlashWr := { key := keyOf v, fetch := fetch }
  if off = 4 then
    some (afterRow s (match v % 16 with
      | 1 => execTagWrite w s
      | 2 => execTagErase w s
      | _ => .next s))
  else none

/-- SIDEB: its transmit FIFO, and GO of TXCTRL. -/
def writeSideb (s : State) (off v : Nat) : Option State :=
  match off with
  | 0x10 => some (afterRow s (execSidebTxdataWrite (as32 v) s))
  | 0x14 => if v.testBit 31 then some (afterRow s (execSidebSend (as32 v) s)) else none
  | _ => none

/-- A write of TEST_CTRL or LTEST_CTRL: STOP, then GO. What the checker counted and whether it locks are free. -/
def writeTestCtrl (s : State) (land : Bool) (v : Nat) : State :=
  let (bits, s) := draw s 64
  let (errs, s) := draw s 31
  let (lock, s) := draw s 1
  let s := if v.testBit 30 then afterRow s (execPatternTestStop land (BitVec.ofNat 64 bits) (BitVec.ofNat 31 errs) s) else s
  if v.testBit 30 && !v.testBit 31 then s else afterRow s (execPatternTestStart land (as32 v) (lock != 0) s)

/-- DEBUG: REFUSE, or GRANT. -/
def writeDebug (s : State) (off v : Nat) : Option State :=
  if off = 4 then some (afterRow s (if v.testBit 8 then execRefuse (as32 v) s else execGrant (as32 v) s)) else none

/-- HOSTSPI: LOAD, RELEASE and MEASURE, in this order. -/
def writeHostspi (s : State) (off v : Nat) : Option State :=
  if off = 0 then some (rowsIf s [(v.testBit 29, execHostspiLoad), (v.testBit 30, execHostspiRelease), (v.testBit 31, execHostspiMeasure)])
  else none

/-- The Gecko half of memory protection and arbitration: syncs, the violation record, the fence arrays until FENCE_LOCK, the arbiter tables
until ARB_LOCK (R421, R426, R427, R433). -/
def writeMpuG (s : State) (off v : Nat) : Option State :=
  if off = 4 then
    let s := clearFlags s Blk.MPU_G 4 v
    some (if v % 2 ^ 24 = 0 then s else afterRow s (execMpuSync false (BitVec.ofNat 24 v) s))
  else if off = 0x10 then some (if v.testBit 63 then afterRow s (execMpuViolClear false s) else s)
  else if 0x40 ≤ off ∧ off < 0xE0 ∧ isSet s F.MPU_G_CTRL_FENCE_LOCK then some s
  else if 0xC00 ≤ off ∧ off < 0xE20 ∧ isSet s F.MPU_G_CTRL_ARB_LOCK then some s
  else none

/-- An event-recorder register; writes take effect only from the Sealed supervisor (18). -/
def writeEvrec (s : State) (off v : Nat) : Option State :=
  match off with
  | 4 => some (afterRow s (execEvrecFreeze (v.testBit 0) s))
  | 0x24 => some (afterRow s (execEvrecSw (as32 v) s))
  | _ => none

/-- GO of SPKE_CTRL; a write with GO while BUSY is ignored. -/
def writeSpke (s : State) (off v : Nat) : Option State :=
  if off = 0 ∧ v.testBit 31 then some (spkeGo s (v % 256) (v / 256 % 16)) else none

/-- GO of SCIPH_CTRL. -/
def writeSciph (s : State) (off v : Nat) : Option State :=
  if off = 0 ∧ v.testBit 31 then some (sciphGo s (v % 256) ⟨v / 256 % 16, Nat.mod_lt _ (by decide)⟩) else none

/-- What a write to a register of a Gecko block does beyond its access code; none where the code says it all. -/
def writeGecko (s : State) (fetch : Fin 3) (blk off v : Nat) : Option State :=
  match blk with
  | 0x0 => writeSysctl s off v
  | 0x1 => if off = 0x14 then some (afterRow s (execFuseProgram (as32 v) s)) else none
  | 0x2 => writePwrarb s off v
  | 0x3 => writeFcoll s off v
  | 0x4 => writeEvrec s off v
  | 0x5 => writeTamper s off v
  | 0x6 => if off = 0 then some (afterRow s (execSrcEn (as32 v) s))
    else if off = 0x30 then some (serviceRefresh (writeReg s blk off v)) else none
  | 0x7 => writeSciph s off v
  | 0x8 => writeSpke s off v
  | 0x9 => writeFlashc s fetch off v
  | 0xA => writeMpuG s off v
  | 0xB => writeCard s 0 off v
  | 0xC => writeCard s 1 off v
  | 0xD => writeSdh s off v
  | 0xE => writeTag s fetch off v
  | 0x10 => writeHostspi s off v
  | 0x11 => writeSideb s off v
  | 0x13 => if off = 4 then some (afterRow s (execRtcSet (as32 v) s)) else none
  | 0x14 => if off = 0 then some (writeTestCtrl s false v) else none
  | 0x15 => if off = 4 then some (if v.testBit 0 then splitCores s else s) else none
  | 0x17 => writeDebug s off v
  | _ => none

/-- The power domain of a switchable Gecko block (R524). -/
def blkDomain (blk : Nat) : Option Nat := [60, 61, 63, 64, 65, 66, 67, 79].find? (fun d => (domainBlks d).contains blk)

/-- Drop the request of a block whose flags software has cleared (R400): PWRARB and FCOLL at any write, TAMPER once no source is latched,
FLASHC once no weak sector is shown. -/
def dropRequest (s : State) (blk : Nat) : State :=
  let drop := match blk with
    | 0x2 => true
    | 0x3 => true
    | 0x5 => getF s F.TAMPER_ALARM_LATCHED = 0
    | 0x9 => !isSet s F.FLASHC_STATUS_WEAK
    | _ => false
  if drop then { s with irqSrc := s.irqSrc &&& ~~~(BitVec.ofNat 64 (2 ^ blk)) } else s

/-- A write to a Gecko register; none takes effect while the block is without power. -/
def geckoRegWrite (s : State) (fetch : Fin 3) (blk off v : Nat) : State :=
  if !geckoUp s || !((blkDomain blk).map (domainOn s)).getD true then s
  else match writeGecko s fetch blk off v with
    | some t => t
    | none => dropRequest (writeReg s blk off v) blk

/-! ## Landau blocks -/

/-- STRUCT: commands by KEY, the selector, data, the image hash while LOADING, and drains. -/
def writeStruct (s : State) (off v : Nat) : Option State :=
  if off = 4 then
    some (if v / 65536 % 65536 != 0x4B59 then s
      else afterRow s (match v % 16 with
        | 1 => execStructBegin (keyOf v) s
        | 2 => execStructCommit (keyOf v) s
        | 3 => execStructAbandon (keyOf v) s
        | 4 => execAmendCommit (keyOf v) s
        | _ => .next s))
  else if off = 0xC then some (afterRow s (execStructSelWrite (as32 v) s))
  else if off = 0x10 then some (afterRow s (execStructDataWrite (as32 v) s))
  else if off = 0x80 then some (afterRow s (execStructDrain (as32 v) s))
  else if 0x40 ≤ off ∧ off < 0x70 ∧ getF s F.STRUCT_STATUS_STATE != 1 then some s
  else none

/-- KCACHE_CTRL: its commands; a zeroisation finds no entry being read. -/
def writeKcache (s : State) (off v : Nat) : Option State :=
  if off = 4 then
    let key := BitVec.ofNat 16 v
    some (afterRow s (match v / 2 ^ 28 % 16 with
      | 1 => execKcacheEvictDomain key (v / 65536 % 4096) s
      | 2 => execKcacheEvictAll key s
      | 3 => execKcacheZeroise key [] (if key = 0x4B43 && landauUp s then zeroCuts s else s)
      | _ => .next s))
  else none

/-- The Landau half of memory protection. -/
def writeMpuL (s : State) (off v : Nat) : Option State :=
  if off = 4 then
    let s := clearFlags s Blk.MPU_L 4 v
    some (if v % 2 ^ 24 = 0 then s else afterRow s (execMpuSync true (BitVec.ofNat 24 v) s))
  else if off = 0x10 then some (if v.testBit 63 then afterRow s (execMpuViolClear true s) else s)
  else none

/-- A swap of an HBM controller. -/
def writeHbmc (s : State) (k : Fin 4) (off v : Nat) : Option State :=
  if off = 4 ∧ v.testBit 31 then some (afterRow s (execHbmcSwap k (as32 v) s)) else none

/-- An HBM arbiter: LOCK shows as LOCKED; the tables until LOCK (R433). -/
def writeStage (s : State) (k off v : Nat) : Option State :=
  if off = 4 then some (if v.testBit 0 then setF (setF s (F.STAGE_CTRL_LOCK k) 1) (F.STAGE_STATUS_LOCKED k) 1 else s)
  else if 0x100 ≤ off ∧ isSet s (F.STAGE_CTRL_LOCK k) then some s
  else none

/-- A public-key cluster: a comb refresh and a self-test, from the Sealed supervisor only. -/
def writePkec (s : State) (sealedSup : Bool) (k : Fin 16) (off v : Nat) : Option State :=
  if off = 4 ∨ off = 8 then
    some (if !sealedSup then s
      else if off = 4 then
        let s := clearFlags s (Blk.PKEC + k.val) 4 v
        if v.testBit 31 then afterRow s (execPkecCombRefresh k s) else s
      else afterRow s (execPkecSelftest k (as32 v) s))
  else none

/-- A cipher cluster: URGENT, a self-test and HOLD of a tile, from the Sealed supervisor only. -/
def writeCipc (s : State) (sealedSup : Bool) (k : Fin 8) (off v : Nat) : Option State :=
  if !sealedSup then some s
  else if off = 8 then some (afterRow s (execCipcSelftest k (as32 v) s))
  else if h : 0x40 ≤ off ∧ off % 4 = 0 ∧ (off - 0x40) / 4 < 9 then
    some (afterRow s (execCipcLockHold k ⟨(off - 0x40) / 4, h.2.2⟩ (as32 v) s))
  else none

/-- What a write to a register of a Landau block does beyond its access code. -/
def writeLandau (s : State) (sealedSup : Bool) (blk off v : Nat) : Option State :=
  if blk = Blk.STRUCT then writeStruct s off v
  else if blk = Blk.KCACHE then writeKcache s off v
  else if blk = Blk.MPU_L then writeMpuL s off v
  else if blk = Blk.LTEST then (if off = 0 then some (writeTestCtrl s true v) else none)
  else if h : Blk.HBMC ≤ blk ∧ blk - Blk.HBMC < 4 then writeHbmc s ⟨blk - Blk.HBMC, h.2⟩ off v
  else if Blk.STAGE ≤ blk ∧ blk < Blk.STAGE + 4 then writeStage s (blk - Blk.STAGE) off v
  else if h : Blk.PKEC ≤ blk ∧ blk - Blk.PKEC < 16 then writePkec s sealedSup ⟨blk - Blk.PKEC, h.2⟩ off v
  else if h : Blk.CIPC ≤ blk ∧ blk - Blk.CIPC < 8 then writeCipc s sealedSup ⟨blk - Blk.CIPC, h.2⟩ off v
  else none

/-- The cluster domain of a Landau block. -/
def clusterOf (blk : Nat) : Option Nat :=
  if Blk.PKEC ≤ blk ∧ blk < Blk.PKEC + 16 then some (blk - Blk.PKEC)
  else if Blk.CIPC ≤ blk ∧ blk < Blk.CIPC + 8 then some (16 + (blk - Blk.CIPC))
  else none

/-- A write to a Landau register; none takes effect while the block is without power. -/
def landauRegWrite (s : State) (sealedSup : Bool) (blk off v : Nat) : State :=
  if !geckoUp s || !((clusterOf blk).map (domainOn s)).getD true then s
  else match writeLandau s sealedSup blk off v with
    | some t => t
    | none => writeReg s blk off v

/-! ## Halves of 64-bit registers (R362) -/

/-- Whether the register at an offset is 64 bits wide (R362). -/
def isReg64 (blk off : Nat) : Bool := (fieldsAt blk off).any (fun f => 32 ≤ f.hi)

/-- What the fields outside the half written must be given so that they stand. -/
def keepBits (s : State) (blk off : Nat) : Nat :=
  (fieldsAt blk off).foldl (fun a f => if f.acc = .rw then a + getF s f * 2 ^ f.lo else a) 0

/-- The register and the whole value that a write of n bytes makes. -/
def wholeWrite (s : State) (blk off n v : Nat) : Nat × Nat :=
  if n = 8 then (off, v)
  else if off % 8 = 4 && isReg64 blk (off - 4) then (off - 4, keepBits s blk (off - 4) % 2 ^ 32 + v % 2 ^ 32 * 2 ^ 32)
  else if isReg64 blk off then (off, keepBits s blk off / 2 ^ 32 * 2 ^ 32 + v % 2 ^ 32)
  else (off, v % 2 ^ 32)

/-- A register write of n bytes by software of a core; `fetch` the flash bank its code comes from, 2 for none. -/
def busWrite (s : State) (sealedSup : Bool) (fetch : Fin 3) (blk off n v : Nat) : State :=
  let (o, w) := wholeWrite s blk off n v
  if blk < 0x20 then
    if blk = Blk.EVREC && !sealedSup then s else geckoRegWrite s fetch blk o w
  else landauRegWrite s sealedSup blk o w

/-! ## The host's writes -/

/-- An entry of the MSI-X table: setting the mask, or clearing it, which sends a pending message (R117). -/
def writeMsix (s : State) (fn off v : Nat) : State :=
  let i := off / 4
  if getF s (F.DEVINFO_VECTORS_VECTORS fn) ≤ i / 4 then s
  else if i % 4 = 3 then flushPending (putMsix s fn i (v % 2)) fn
  else putMsix s fn i (v % 2 ^ 32)

/-- A write to BAR0 of a function (R106, R107, R111): doorbells and the ADMIN enable as their rows do. -/
def bar0Write (s : State) (fn off v : Nat) : State :=
  if off = 0x1000 then
    if v.testBit 0 then afterRow s (execAdminEnable ⟨fn, false⟩ s)
    else if isSet s (F.ADMIN_CTRL_EN fn) then afterRow s (execAdminDisable ⟨fn, false⟩ s) else s
  else if 0x1008 ≤ off ∧ off < 0x1020 ∧ (isSet s (F.ADMIN_CTRL_EN fn) ∨ isSet s (F.ADMIN_STATUS_RDY fn)) then s
  else if 0x10000 ≤ off ∧ off < 0x90000 then
    let q := (off - 0x10000) / 0x80
    match (off - 0x10000) % 0x80 with
    | 0 => afterRow s (execSqTailDoorbell fn q ⟨as32 v, false⟩ s)
    | 0x40 => afterRow s (execCqHeadDoorbell fn q ⟨as32 v, false⟩ s)
    | _ => s
  else if 0x100000 ≤ off ∧ off < 0x108000 then writeMsix s fn (off - 0x100000) v
  else writeReg s (Blk.BAR0 + fn) off v

/-- A write of one 4-byte half, or of a whole 64-bit register, of BAR0. -/
def bar0Part (s : State) (fn off n v : Nat) : State :=
  let (o, w) := wholeWrite s (Blk.BAR0 + fn) off n v
  bar0Write s fn o w

/-- A host write of n bytes to BAR0: 4 or 8, aligned; 8 bytes over two 32-bit registers write both; any other is dropped and logged through
AER (R106). -/
def hostWrite (s : State) (fn off n v : Nat) : State :=
  if !hostReach s || !fnExists s fn then s
  else if n = 4 ∧ off % 4 = 0 then bar0Part s fn off 4 (v % 2 ^ 32)
  else if n = 8 ∧ off % 8 = 0 then
    if isReg64 (Blk.BAR0 + fn) off then bar0Part s fn off 8 v
    else bar0Part (bar0Part s fn off 4 (v % 2 ^ 32)) fn (off + 4) 4 (v / 2 ^ 32)
  else { s with qm := { s.qm with aerErrs := s.qm.aerErrs + 1 } }

/-- A configuration write: offset 0 VF Enable, offset 4 + 4 × fn Bus Master Enable of function fn (R103, R137, R138; log entry 47). -/
def configWrite (s : State) (off v : Nat) : State :=
  if !hostReach s then s
  else if off = 0 then
    if v.testBit 0 then { s with qm := { s.qm with vfEnable := true } } else afterRow s (execVfEnableClear s)
  else
    let fn := off / 4 - 1
    if !fnExists s fn then s
    else if !v.testBit 0 then afterRow s (execBusMasterEnableClear fn s)
    else if s.qm.busMaster.contains fn then s
    else flushPending { s with qm := { s.qm with busMaster := s.qm.busMaster ++ [fn] } } fn

end Sys2Proof.Machine
end

