-- ==== Sys2Proof/Machine/Bus.lean ====
section
/-!
DEFINITION. Bus.lean: register reads by the cores (R10, R11, R362); those whose read does more than read (log entry 47).
-/
namespace Sys2Proof.Machine

/-- A word of the digest that HOSTSPI_DIGSEL selects, first byte in bits [7:0]; 0 where the range has none. -/
def digestWord (s : State) (i : Nat) : Nat :=
  match digestOf s (getF s F.HOSTSPI_DIGSEL_REGION) (getF s F.HOSTSPI_DIGSEL_REC) with
  | some (some h) => leAt (hashBytes h) (4 * i) 4
  | _ => 0

/-- What a read does first: RNG_RAW, RNG_DATA, CARDn_DATA, SIDEB_RXDATA and TAMPER_CELLLOG pop. -/
def readEffect (s : State) (blk off : Nat) : State :=
  if blk = Blk.RNG ∧ off = 0x30 then afterRow s (execRngRawRead s)
  else if blk = Blk.RNG ∧ off = 0x34 then afterRow s (execRngDataRead s)
  else if blk = Blk.CARD ∧ off = 0x14 then afterRow s (execCardDataAccess 0 none s)
  else if blk = Blk.CARD + 1 ∧ off = 0x14 then afterRow s (execCardDataAccess 1 none s)
  else if blk = Blk.SIDEB ∧ off = 8 then afterRow s (execSidebRxdataRead s)
  else if blk = Blk.TAMPER ∧ off = 0x20 then afterRow s (execTamperCelllogRead s)
  else s

/-- A word whose bit i tells whether p holds of tile i of a cluster. -/
def tileBits (p : Nat → Bool) : Nat := ((List.range 9).map (fun i => if p i then 2 ^ i else 0)).sum

/-- The domain of the route in a context slot, 0 for none. -/
def slotDomain (s : State) (u i slot : Nat) : Nat :=
  ((s.qm.tags.find? (fun t => running t && ((t.route.map (fun r => routeAt r 2 u i slot)).getD false))).map (fun t => seDomain t.entry)).getD 0

/-- CIPC_LOCKn.OWNER: 0 idle, 1 slot 0, 2 slot 1 with slot 0 empty, 3 slot 1 with slot 0 suspended, 4 self-test, 5 held and idle (R227). -/
def lockOwner (s : State) (u i : Nat) : Nat :=
  if routeOn s 2 u i 1 then (if routeOn s 2 u i 0 then 3 else 2)
  else if routeOn s 2 u i 0 then 1
  else if (getF s (F.CIPC_STATUS_TESTING u)).testBit i then 4
  else if isSet s (F.CIPC_LOCK_HOLD u i) then 5
  else 0

/-- The fields that show which tiles run routes: PKEC_STATUS.BUSY, CIPC_STATUS.BUSY and SUSPENDED, CIPC_LOCKn but for HOLD (R227, R237). -/
def routeFields (s : State) (blk off : Nat) : Nat :=
  if Blk.PKEC ≤ blk ∧ blk < Blk.PKEC + 16 ∧ off = 0 then tileBits (fun i => routeOn s 1 (blk - Blk.PKEC) i 0)
  else if Blk.CIPC ≤ blk ∧ blk < Blk.CIPC + 8 then
    let u := blk - Blk.CIPC
    if off = 0 then
      tileBits (fun i => routeOn s 2 u i 0 || routeOn s 2 u i 1) + 2 ^ 9 * tileBits (fun i => routeOn s 2 u i 0 && routeOn s 2 u i 1)
    else if 0x40 ≤ off ∧ off < 0x64 ∧ off % 4 = 0 then
      let i := (off - 0x40) / 4
      lockOwner s u i * 2 ^ 24 + slotDomain s u i 1 * 2 ^ 12 + slotDomain s u i 0
    else 0
  else 0

/-- A register's value once what a read does is done. -/
def regValue (s : State) (blk off : Nat) : Nat :=
  if blk = Blk.HOSTSPI ∧ 0x40 ≤ off ∧ off < 0x70 then digestWord s ((off - 0x40) / 4) else readReg s blk off + routeFields s blk off

/-- A register read, n bytes from an aligned offset: half of a 64-bit register stands for its word. -/
def busRead (s : State) (blk off n : Nat) : Nat × State :=
  let s := readEffect s blk off
  if n = 8 then (regValue s blk off, s)
  else if off % 8 = 4 && isReg64 blk (off - 4) then (regValue s blk (off - 4) / 2 ^ 32, s)
  else (regValue s blk off % 2 ^ 32, s)

end Sys2Proof.Machine
end

