-- ==== Sys2Proof/Machine/DelpinMem.lean ====
section
/-!
DEFINITION. DelpinMem.lean: the accesses of the Delpin cores: segment, MPU, address map and fence (R343, R344, R361, R362, R366–R369,
R418, R425).
-/
namespace Sys2Proof.Machine

/-- A fault of an instruction (R395): cause code, segment, whether a fetch or a write, offset, physical address, gate or trap number, and
the words by which EPC lies past the instruction's head. -/
structure DFault where
  code : Nat
  seg : Nat
  fetch : Bool
  write : Bool
  eaddr : Nat
  ephys : Nat
  detail : Nat
  skip : Nat
  deriving DecidableEq, Repr

/-- A fault that names no access. -/
def DFault.plain (code : Nat) : DFault :=
  { code := code, seg := 0, fetch := false, write := false, eaddr := 0, ephys := 0, detail := 0, skip := 0 }

/-- What a part of an instruction comes to: a result; a fault, with what the hardware noted; or a wait for a busy flash bank (R367). -/
inductive DOut (α : Type) where
  | ok (a : α) (s : State)
  | fault (f : DFault) (s : State)
  | wait

/-- Go on with a result. -/
def DOut.bind {α β : Type} (o : DOut α) (k : α → State → DOut β) : DOut β :=
  match o with
  | .ok a s => k a s
  | .fault f s => .fault f s
  | .wait => .wait

/-- A data access: segment register, offset, bytes, whether it writes; `block` where register blocks are out of its reach: it is atomic
(R382) or no W or D access (R362). -/
structure Acc where
  seg : Nat
  off : Int
  n : Nat
  write : Bool
  block : Bool
  deriving DecidableEq, Repr

/-! ## The address maps (R38, R40, R368) -/

/-- Where an access lies. -/
inductive Place where
  | nowhere
  | rom
  | flash
  | sram
  | gecko (blk off : Nat)
  | landau (k blk off : Nat)
  | isram (key : Nat)
  | dsram (key : Nat)
  | hbm (stack off : Nat)
  deriving DecidableEq, Repr

/-- A Landau register address: the block in the order of R40, its number, the offset. -/
def landauPlace (a : Nat) : Place :=
  let i := (a - 0x80000000) / 0x10000
  if i ≤ 8 then .landau i (0x20 + i) (a % 0x10000)
  else if 0x10 ≤ i ∧ i < 0x18 then .landau (i - 7) (0x20 + i) (a % 0x10000)
  else if 0x20 ≤ i ∧ i < 0x38 then .landau (i - 15) (0x20 + i) (a % 0x10000)
  else .nowhere

/-- The map of the warden cores (R38). -/
def wardenPlace (a n : Nat) : Place :=
  if a + n ≤ 0x10000 then .rom
  else if isFlash a ∧ isFlash (a + n - 1) then .flash
  else if inSram a n then .sram
  else if 0x40000000 ≤ a ∧ a < 0x40018000 then .gecko ((a - 0x40000000) / 0x1000) (a % 0x1000)
  else if 0x80000000 ≤ a ∧ a < 0x100000000 then landauPlace a
  else .nowhere

/-- The map of dispatch core i (R368). -/
def dispPlace (s : State) (i a n : Nat) : Place :=
  if a + n ≤ 0x40000 then .isram (i / 5 * 0x40000 + a)
  else if 0x10000000 ≤ a ∧ a + n ≤ 0x10010000 then .dsram (i * 0x10000 + (a - 0x10000000))
  else if 0x80000000 ≤ a ∧ a < 0x100000000 then landauPlace a
  else if 0x1000000000 ≤ a ∧ a < 0x3000000000 ∧ (a - 0x1000000000) % 0x800000000 + n ≤ protectedMib s * 2 ^ 20 then
    .hbm ((a - 0x1000000000) / 0x800000000) ((a - 0x1000000000) % 0x800000000)
  else .nowhere

/-- The map of a core. -/
def corePlace (s : State) (c : CoreId) (a n : Nat) : Place :=
  match c with
  | .d i => dispPlace s i.val a n
  | _ => wardenPlace a n

/-- The fence entry of a place; none where the fence does not reach (R418). -/
def fenceEntry (s : State) (a : Nat) (p : Place) : Option Nat :=
  match p with
  | .rom => some 5
  | .flash => some (fenceRange s a)
  | .sram => some (fenceRange s a)
  | .gecko blk _ => some (fenceBlock s blk)
  | .landau k _ _ => some (fenceLandau s k)
  | _ => none

/-- The numbers of the units of u bytes that n bytes from an address lie in. -/
def unitsOf (u a n : Nat) : List Nat := (List.range ((a + n - 1) / u + 1 - a / u)).map (fun i => a / u + i)

/-- Whether an access to a register is of a permitted form (R362). -/
def regForm (a : Acc) (blk off : Nat) : Bool := !a.block && ((a.n = 4 && off % 4 = 0) || (a.n = 8 && off % 8 = 0 && isReg64 blk off))

/-- Whether the domain of a block is powered; an access to a block whose domain is off is a BUS_ERROR (R523). -/
def blkOn (s : State) (blk : Nat) : Bool :=
  ((blkDomain blk).map (domainOn s)).getD true
    && (blk < 0x40 || 0x50 ≤ blk || clusterOn s 1 (blk - 0x40)) && (blk < 0x50 || 0x58 ≤ blk || clusterOn s 2 (blk - 0x50))

/-- Whether the address map and its rules let an access through (step 5 of R343). -/
def placeAllows (s : State) (x : DCore) (a : Acc) (phys : Nat) (p : Place) : Bool :=
  match p with
  | .nowhere => false
  | .rom => !a.write
  | .flash => !a.write && !(unitsOf 32 phys a.n).any (fun l => flashSuspended s (32 * l))
  | .sram => true
  | .gecko blk off => blkOn s blk && regForm a blk off
  | .landau _ blk off => blkOn s blk && regForm a blk off
  | .isram _ => !a.write
  | .dsram _ => true
  | .hbm k off => (unitsOf 64 off a.n).all (fun l =>
      (regions s).any (fun r => r.kind = 3 && r.stack = k && r.world = (if x.w then 1 else 0)
        && r.base * 2 ^ 20 ≤ 64 * l && 64 * l < (r.base + r.size) * 2 ^ 20))

/-- Whether a warden core's place is a Landau window that cannot be reached (R39); after a failed construction the window stays reachable while
the drawbar is up (log entry 84). -/
def windowDown (s : State) (c : CoreId) (p : Place) : Bool :=
  match p with
  | .landau _ _ _ => !isDisp c && (!s.drawbar.up || s.power.landau = .unbuilt)
  | _ => false

/-! ## Checking an access (R343) -/

/-- The segment's part of the check: the cause, if it fails (steps 1 to 3). -/
def segFault (x : DCore) (a : Acc) : Option Nat :=
  let d := x.active.seg a.seg
  if !d.valid then some 7
  else if (if a.write then !d.canWrite else !d.canRead) || d.world != x.w || (d.minLevel && !x.l) then some 6
  else if a.off < 0 ∨ (d.limit : Int) < a.off + a.n - 1 then some 5
  else none

/-- The physical address of an access. -/
def physOf (x : DCore) (a : Acc) : Nat := ((x.active.seg a.seg).base + a.off).toNat

/-- The fault of a data access. -/
def accFault (a : Acc) (code ephys : Nat) : DFault :=
  { code := code, seg := a.seg, fetch := false, write := a.write, eaddr := ofSigned 64 a.off, ephys := ephys % 2 ^ 40, detail := 0, skip := 0 }

/-- The world by which a core's MPU regions are chosen: none on a dispatch core (R423). -/
def mpuWorld (c : CoreId) (x : DCore) : Option Nat := if isDisp c then none else some (if x.w then 1 else 0)

/-- The violation of a core. -/
def coreViol (c : CoreId) (x : DCore) (kind : Nat) (write fetch : Bool) (region addr : Nat) : Viol :=
  { kind := kind, write := write, fetch := fetch, w := if x.w then 1 else 0, l := if x.l then 1 else 0, master := (coreMaster c).2,
    region := region, addr := addr }

/-- Record an MPU denial of a core. -/
def denyCore (s : State) (c : CoreId) (x : DCore) (write fetch : Bool) (d : Nat) : State :=
  let (mpu, m) := coreMaster c
  violation s mpu (coreViol c x 0 write fetch ((decider s mpu m (mpuWorld c x) d).getD 0x1F) d)

/-- Whether the fence refuses a place to a core (R418). -/
def fenceRefuses (s : State) (c : CoreId) (x : DCore) (phys : Nat) (p : Place) : Bool :=
  match fenceEntry s phys p with
  | none => false
  | some e => !windowDown s c p && !fencePass e (if x.w then 1 else 0) (if x.l then 1 else 0)

/-- The check of a data access: its physical address. -/
def checkAcc (s : State) (c : CoreId) (x : DCore) (a : Acc) : DOut Nat :=
  match segFault x a with
  | some code => .fault (accFault a code 0) s
  | none =>
    let phys := physOf x a
    let (mpu, m) := coreMaster c
    match firstDenied s mpu m (mpuWorld c x) (!x.l) (if a.write then 1 else 0) phys a.n with
    | some d => .fault (accFault a 8 d) (denyCore s c x a.write false d)
    | none =>
      let p := corePlace s c phys a.n
      if fenceRefuses s c x phys p then .fault (accFault a 9 phys) (violation s mpu (coreViol c x 1 a.write false 0x1F phys))
      else if windowDown s c p || !placeAllows s x a phys p then .fault (accFault a 9 phys) s
      else if p = .flash ∧ flashWaits s phys then .wait
      else .ok phys s

/-! ## Making an access -/

/-- Read flash lines through the prefetch buffer: whether all can be delivered. -/
def wardenLines (s : State) (a n : Nat) : Bool × State :=
  (unitsOf 32 a n).foldl (fun r l => let (ok, t) := wardenLine r.2 l; (r.1 && ok, t)) (true, s)

/-- A read of a register by a core; a warden read that MPU_L's master 22 denies returns zeros (R422, R425). -/
def regRead (s : State) (c : CoreId) (phys blk off n : Nat) : Bytes × State :=
  if !isDisp c && landauBlk blk && (firstDenied s 1 22 none false 0 phys n).isSome then (zeros n, recordDenied s 1 22 0 phys n)
  else
    let (v, s) := busRead s blk off n
    (leBytes v n, s)

/-- The bytes that a core's write buffer holds at an address, newest write first found. -/
def bufByte (s : State) (c : CoreId) (a : Nat) : Option Byte :=
  (s.wbuf.filter (fun e => e.core = coreNumber c && e.addr ≤ a && a < e.addr + e.bytes.length)).getLast?.map (fun e => (e.bytes[a - e.addr]?).getD 0)

/-- What a core reads of memory: a byte held in its own write buffer is the buffered one (R363). -/
def ownBytes (s : State) (c : CoreId) (a : Nat) (b : Bytes) : Bytes :=
  (List.range b.length).map (fun i => (bufByte s c (a + i)).getD ((b[i]?).getD 0))

/-- Whether a core's write buffer holds every byte of a read. -/
def bufHolds (s : State) (c : CoreId) (a n : Nat) : Bool := (List.range n).all (fun i => (bufByte s c (a + i)).isSome)

/-- A checked read; of SRAM and HBM a core reads its own buffered writes (R363). -/
def memRead (s : State) (c : CoreId) (a : Acc) (phys : Nat) (fails : List MemFail) : DOut Bytes :=
  match corePlace s c phys a.n with
  | .nowhere => .fault (accFault a 9 phys) s
  | .rom => .ok ((List.range a.n).map (fun i => Config.bootRomByte (phys + i))) s
  | .flash =>
    let (ok, t) := wardenLines s phys a.n
    if ok then .ok (geckoBytes t phys a.n) t else .fault (accFault a 9 phys) t
  | .sram => .ok (ownBytes s c phys (geckoBytes s phys a.n)) s
  | .gecko blk off => let (b, t) := regRead s c phys blk off a.n; .ok b t
  | .landau _ blk off => let (b, t) := regRead s c phys blk off a.n; .ok b t
  | .isram k => .ok (cellBytes s.mem.isram k a.n) s
  | .dsram k => .ok (cellBytes s.mem.dsram k a.n) s
  | .hbm k off =>
    if bufHolds s c phys a.n then .ok (ownBytes s c phys (zeros a.n)) s
    else
      let (ok, t) := mcRead s k (unitsOf 64 off a.n) fails
      if ok then .ok (ownBytes t c phys (cellBytes t.mem.hbm (k * 2 ^ 36 + off) a.n)) t else .fault (accFault a 9 phys) t

/-- One line of protected data written by a core, as its memory now holds it: a write of part of it leaves a poisoned line poisoned (R163). -/
def hbmLineWrite (s : State) (stack off n l : Nat) : State :=
  let b := cellBytes s.mem.hbm (stack * 2 ^ 36 + 64 * l) 64
  if off ≤ 64 * l && 64 * l + 64 ≤ off + n then mcWrite s stack l b else mcWritePart s stack l b

/-- The flash bank that a core's running instruction was fetched from, 2 for none; its last word lies just before PC. -/
def codeBank (s : State) (c : CoreId) : Fin 3 :=
  let x := getCore s c
  let a := (x.active.seg 0).base + x.pc.toNat - 4
  if !isFlash a then 2 else if flashBank a = 0 then 0 else 1

/-- A write of SRAM or HBM made in memory itself (R160). -/
def memPut (s : State) (a : Nat) (b : Bytes) : State :=
  if a < 0x1000000000 then geckoWrite s a b
  else
    let k := (a - 0x1000000000) / 0x800000000
    let off := (a - 0x1000000000) % 0x800000000
    let s := { s with mem := { s.mem with hbm := cellsWrite s.mem.hbm (k * 2 ^ 36 + off) b } }
    poisonCount ((unitsOf 64 off b.length).foldl (fun t l => hbmLineWrite t k off b.length l) s)

/-- A core's oldest n buffered writes reach memory (R363). -/
def bufDrain (s : State) (core n : Nat) : State :=
  let mine := s.wbuf.filter (fun e => e.core = core)
  let s := { s with wbuf := s.wbuf.filter (fun e => e.core != core) ++ mine.drop n }
  (mine.take n).foldl (fun t e => memPut t e.addr e.bytes) s

/-- A core's write buffer drains (R363). -/
def drainCore (s : State) (c : CoreId) : State := bufDrain s (coreNumber c) 4

/-- Other masters may see a buffered write late: how many of each buffer's oldest writes have reached memory by now is free (R363; log entry
96). -/
def bufSettle (s : State) : State :=
  ((s.wbuf.map (fun e : BufWrite => e.core)).eraseDups).foldl (fun t n => let (k, t) := draw t 3; bufDrain t n (k % 5)) s

/-- A core's write enters its write buffer of four entries; a full buffer first drains its oldest (R363). -/
def bufWrite (s : State) (c : CoreId) (a : Nat) (b : Bytes) : State :=
  let s := if (s.wbuf.filter (fun e => e.core = coreNumber c)).length < 4 then s else bufDrain s (coreNumber c) 1
  { s with wbuf := s.wbuf ++ [{ core := coreNumber c, addr := a, bytes := b }] }

/-- A checked write: SRAM and HBM through the write buffer, registers at once (R362–R364, R160). -/
def memWrite (s : State) (c : CoreId) (sealedSup : Bool) (phys : Nat) (b : Bytes) : State :=
  match corePlace s c phys b.length with
  | .sram => bufWrite s c phys b
  | .gecko blk off => busWrite s sealedSup (codeBank s c) blk off b.length (leAt b 0 b.length)
  | .landau _ blk off =>
    if !isDisp c && (firstDenied s 1 22 none false 1 phys b.length).isSome then recordDenied s 1 22 1 phys b.length
    else busWrite s sealedSup (codeBank s c) blk off b.length (leAt b 0 b.length)
  | .dsram k => { s with mem := { s.mem with dsram := cellsWrite s.mem.dsram k b } }
  | .hbm _ _ => bufWrite s c phys b
  | _ => s

/-! ## Fetching (R344, R366, R369) -/

/-- The fault of a fetch. -/
def fetchFault (x : DCore) (code ephys : Nat) : DFault :=
  { code := code, seg := 0, fetch := true, write := false, eaddr := x.pc.toNat, ephys := ephys % 2 ^ 40, detail := 0, skip := 0 }

/-- Whether a place is one from which code may run. -/
def codePlace (p : Place) : Bool :=
  match p with
  | .rom => true
  | .flash => true
  | .sram => true
  | .isram _ => true
  | _ => false

/-- Read the flash lines of a fetch: whether all can be delivered. -/
def fetchLines (s : State) (a n : Nat) : Bool × State :=
  (unitsOf 32 a n).foldl (fun r l => (r.1 && lineCount r.2 l != 7, readLine r.2 l)) (true, s)

/-- The check of the fetch of an instruction of n words. -/
def fetchCheck (s : State) (c : CoreId) (x : DCore) (n : Nat) : DOut Unit :=
  let d := x.active.seg 0
  let phys := d.base + x.pc.toNat
  let (mpu, m) := coreMaster c
  if !d.valid then .fault (fetchFault x 7 0) s
  else if !d.canFetch || d.world != x.w || (d.minLevel && !x.l) then .fault (fetchFault x 1 0) s
  else if d.limit < x.pc.toNat + 4 * n - 1 then .fault (fetchFault x 5 0) s
  else
    match firstDenied s mpu m (mpuWorld c x) (!x.l) 2 phys (4 * n) with
    | some e => .fault (fetchFault x 8 e) (denyCore s c x false true e)
    | none =>
      let p := corePlace s c phys (4 * n)
      if !codePlace p then .fault (fetchFault x 1 phys) s
      else if fenceRefuses s c x phys p then .fault (fetchFault x 9 phys) (violation s mpu (coreViol c x 1 false true 0x1F phys))
      else if p != .flash then .ok () s
      else if flashWaits s phys then .wait
      else if (unitsOf 32 phys (4 * n)).any (fun l => flashSuspended s (32 * l)) then .fault (fetchFault x 9 phys) s
      else
        let (ok, t) := fetchLines s phys (4 * n)
        if ok then .ok () t else .fault (fetchFault x 9 phys) t

end Sys2Proof.Machine
end

