-- ==== Sys2Proof/Machine/DelpinExc.lean ====
section
/-!
DEFINITION. DelpinExc.lean: exceptions of the Delpin cores: routing, admission, entry, stop and return (R397–R417).
-/
namespace Sys2Proof.Machine

/-! ## Routing (R398, R399) -/

/-- The EXCROUTE section that governs a core: the image's on the warden cores, the structure's on a dispatch core. -/
def excSection (s : State) (c : CoreId) : Bytes :=
  if isDisp c then sec s.struct.built 6 else (s.image.map (fun i => sectionOr i.bytes 6)).getD []

/-- Offset of the entry of a class, kind and number in a section; `world` where KIND 0 and 1 name one. -/
def excEntry (b : Bytes) (cls kind number : Nat) (world : Option Nat) : Option Nat :=
  ((List.range (leAt b 0 2)).map (fun i => 16 + 8 * i)).find? (fun o =>
    byteAt b o = cls && byteAt b (o + 1) = kind && byteAt b (o + 2) = number && (world.map (fun w => decide (byteAt b (o + 4) = w))).getD true)

/-- The class of a core. -/
def excClass (c : CoreId) : Nat := if isDisp c then 1 else 0

/-- A world as a number. -/
def worldNo (w : Bool) : Nat := if w then 1 else 0

/-- The level of a synchronous cause of a core in a world: its entry's, or 6, or 5 for a TRAP (R399). A gate's level is its own. -/
def syncLevel (s : State) (c : CoreId) (w : Bool) (f : DFault) : Nat :=
  let b := excSection s c
  let lev := fun (o : Option Nat) (d : Nat) => (o.map (fun o => byteAt b (o + 3))).getD d
  if f.code = 0x20 then lev (excEntry b (excClass c) 2 f.detail none) 6
  else if 0x10 ≤ f.code ∧ f.code < 0x20 then lev (excEntry b (excClass c) 1 f.detail (some (worldNo w))) 5
  else lev (excEntry b (excClass c) 0 f.code (some (worldNo w))) 6

/-- The target world of a gate from a context, if its entry has the caller's CALLERS bit (R399, R412). -/
def gateWorld (s : State) (c : CoreId) (x : DCore) (n : Nat) : Option Bool :=
  let b := excSection s c
  match excEntry b (excClass c) 2 n none with
  | none => none
  | some o => if (byteAt b (o + 5)).testBit (bankNo x.w x.l) then some (byteAt b (o + 4) = 1) else none

/-! ## Interrupts (R400–R402) -/

/-- Whether a Gecko block that holds its request by its flags holds it: MPU_G while VALID, the ports and SDH while DONE or REMOVED, TAG while
DONE, FIELD_SEEN or INTENT, SIDEB while RX_READY or TX_DONE, TEST and LTEST on DONE, DEBUG while a token waits (R400, R426; 20, 21, 22). -/
def blockHolds (s : State) (n : Nat) : Bool :=
  match n with
  | 10 => isSet s F.MPU_G_VIOL_VALID
  | 11 => isSet s (F.CARD_STATUS_DONE 0) || isSet s (F.CARD_STATUS_REMOVED 0)
  | 12 => isSet s (F.CARD_STATUS_DONE 1) || isSet s (F.CARD_STATUS_REMOVED 1)
  | 13 => isSet s F.SDH_STATUS_DONE || isSet s F.SDH_STATUS_REMOVED
  | 14 => isSet s F.TAG_STATUS_DONE || isSet s F.TAG_STATUS_FIELD_SEEN || isSet s F.TAG_STATUS_INTENT
  | 17 => isSet s F.SIDEB_STATUS_RX_READY || isSet s F.SIDEB_STATUS_TX_DONE
  | 20 => isSet s F.TEST_STATUS_DONE
  | 23 => isSet s F.DEBUG_STATUS_PENDING
  | 31 => isSet s F.LTEST_STATUS_DONE
  | _ => true

/-- The warden sources that are pending (R400). -/
def wardenSrc (s : State) : Nat :=
  [10, 11, 12, 13, 14, 17, 20, 23, 31].foldl (fun a n => if blockHolds s n then a else clrBitN a n) s.irqSrc.toNat

/-- The sources pending on a core: after a split all but TAKEOVER go to core A, after a take-over to B. -/
def pendingSrc (s : State) (c : CoreId) : Nat :=
  match c with
  | .a => clrBitN (wardenSrc s) 63
  | .b => if getF s F.WCORE_STATUS_ARR = 2 then wardenSrc s else 0
  | .d i => mapGet s.dispSrc i.val 0

/-- Level and target world of a source of a core; none where it is never taken. -/
def srcRoute (s : State) (c : CoreId) (n : Nat) : Option (Nat × Bool) :=
  let b := excSection s c
  if !isDisp c ∧ n = 63 then some (7, true)
  else (excEntry b (excClass c) 3 n none).map (fun o => (byteAt b (o + 3), byteAt b (o + 4) = 1))

/-- Whether a source is admitted (R401): its level and world. -/
def admits (s : State) (c : CoreId) (x : DCore) (n : Nat) : Option (Nat × Bool) :=
  match srcRoute s c n with
  | none => none
  | some (l, w) =>
    if !isDisp c ∧ n = 63 then some (l, w)
    else if isDisp c ∧ w != x.w then none
    else if (x.ctlOf w).imask.getLsbD n then none
    else if w && !x.w then (if (x.ctlOf true).maskS.toNat < l then some (l, w) else none)
    else if x.m < l then some (l, w)
    else none

/-- Whether a halt lets a core take a source of a world: under OPEN_WORLD alone one routed to the Sealed world (R583). -/
def haltTakes (s : State) (c : CoreId) (w : Bool) : Bool := !coreHalted s c || (w && haltScopes s c = 1)

/-- The admitted source that is taken first: highest level, then Sealed, then the lowest number (R402): number, level, world. -/
def admitted (s : State) (c : CoreId) : Option (Nat × Nat × Bool) :=
  let x := getCore s c
  let p := pendingSrc s c
  let all := ((List.range 64).filter (fun n => p.testBit n)).filterMap (fun n => (admits s c x n).map (fun r => (n, r.1, r.2)))
  let all := all.filter (fun e => haltTakes s c e.2.2)
  let rank := fun (e : Nat × Nat × Bool) => 2 * e.2.1 + worldNo e.2.2
  all.foldl (fun best e => match best with
    | none => some e
    | some b => if rank b < rank e then some e else some b) none

/-- The sources of a core routed to the world it runs in (PENDING). -/
def pendingShown (s : State) (c : CoreId) (x : DCore) : Nat :=
  let p := pendingSrc s c
  (List.range 64).foldl (fun a n => if p.testBit n && ((srcRoute s c n).map (fun r => decide (r.2 = x.w))).getD false then a + 2 ^ n else a) 0

/-- A source that stays pending no longer than until it is taken. -/
def dropSource (s : State) (c : CoreId) (n : Nat) : State :=
  match c with
  | .d i => { s with dispSrc := mapSet s.dispSrc i.val (clrBitN (mapGet s.dispSrc i.val 0) n) 0 }
  | _ => if n < 32 then s else { s with irqSrc := s.irqSrc &&& ~~~(BitVec.ofNat 64 (2 ^ n)) }

/-! ## Stops (R403, R406, R413–R417) -/

/-- Write WCORE_STOPA. -/
def stopA (s : State) (x : DCore) (code orig : Nat) : State :=
  let s := setF (setF (setF s F.WCORE_STOPA_PC x.pc.toNat) F.WCORE_STOPA_VALID 1) F.WCORE_STOPA_CODE code
  setB (setB (setF s F.WCORE_STOPA_ORIG orig) F.WCORE_STOPA_W x.w) F.WCORE_STOPA_L x.l

/-- Write WCORE_STOPB. -/
def stopB (s : State) (x : DCore) (code orig : Nat) : State :=
  let s := setF (setF (setF s F.WCORE_STOPB_PC x.pc.toNat) F.WCORE_STOPB_VALID 1) F.WCORE_STOPB_CODE code
  setB (setB (setF s F.WCORE_STOPB_ORIG orig) F.WCORE_STOPB_W x.w) F.WCORE_STOPB_L x.l

/-- A core stops with a code and the original cause: in standby core B takes over; a last warden core resets the device, a standby that
stops leaves core A alone; a dispatch core is reported and retired (R414, R415, R417). Its buffered writes are fenced off (log entry 96). -/
def coreStop (s : State) (c : CoreId) (code orig : Nat) : State :=
  let s := { s with wbuf := s.wbuf.filter (fun e => e.core != coreNumber c) }
  let x := getCore s c
  match c with
  | .d i => faultReport (setCore s c { x with stopped := true }) 0x08 (i.val / 5) (i.val % 5)
  | .b =>
    let t := setF (setCore (stopB s x code orig) c { x with stopped := true }) F.WCORE_STATUS_STATE_B 3
    if getF s F.WCORE_STATUS_ARR = 1 then setF t F.WCORE_STATUS_ARR 3 else faultReport t 0x29 1 0
  | .a =>
    if inLockstep s then faultReport (stopB (stopA s x code orig) x code orig) 0x29 0 0
    else if getF s F.WCORE_STATUS_ARR = 1 then faultReport (setCore (stopA s x code orig) c { x with stopped := true }) 0x28 0 0
    else faultReport (setF (setCore (stopA s x code orig) c { x with stopped := true }) F.WCORE_STATUS_STATE_A 3) 0x29 0 0

/-! ## Entry (R404–R407) -/

/-- What an entry writes: target world and level, code, SUB, ORIG, the fault or interrupt it comes from (whose code is `f.code`), whether
ORIG_VALID. -/
structure Entry where
  world : Bool
  level : Nat
  code : Nat
  sub : Nat
  orig : Nat
  f : DFault
  origValid : Bool
  deriving DecidableEq, Repr

/-- CAUSE (R395). -/
def causeWord (e : Entry) : Nat :=
  e.f.seg * 2 ^ 36 + bitAt e.f.fetch 35 + bitAt e.f.write 34 + (if e.code = e.f.code then e.f.detail else 0) * 2 ^ 24 + e.sub * 2 ^ 16
    + e.orig * 2 ^ 8 + e.code

/-- ESTAT (R396). -/
def CtlRegs.estat (r : CtlRegs) : Nat := r.depth * 256 + bitAt r.origValid 3 + bitAt r.origW 2 + bitAt r.origL 1 + bitAt r.busy 0

/-- The frame of the save slots (R405). -/
def frameBytes (r : CtlRegs) : Bytes :=
  leBytes r.epc.toNat 8 ++ leBytes r.eps.toNat 8 ++ leBytes r.cause.toNat 8 ++ leBytes r.eaddr.toNat 8 ++ leBytes r.ephys.toNat 8
    ++ leBytes (r.estat % 16 / 2 * 2) 8

/-- Step 3: the place of the frame that an entry pushes, none without one; false when the stack is invalid. -/
def entryStack (s : State) (c : CoreId) (x : DCore) (e : Entry) : Option (Option Nat) × State :=
  let r := x.ctlOf e.world
  let y := { x with w := e.world, l := true }
  let top := (y.areg 7).toInt - 48
  if 255 ≤ r.depth then (none, s)
  else if !r.busy then (some none, s)
  else if top % 8 != 0 then (none, s)
  else match checkAcc s c y { seg := 15, off := top, n := 48, write := true, block := true } with
    | .ok phys t => (some (some phys), t)
    | .fault _ t => (none, t)
    | .wait => (none, s)

/-- Steps 4 to 7: push, save, switch. -/
def enterCore (s : State) (c : CoreId) (x : DCore) (e : Entry) (frame : Option Nat) : State :=
  let r := x.ctlOf e.world
  let push := frame.isSome
  let args := [x.areg 0, x.areg 1, x.areg 2, x.areg 3]
  let r' := { r with
    depth := if push then r.depth + 1 else r.depth
    epc := BitVec.ofNat 64 (x.pc.toNat + 4 * e.f.skip)
    eps := BitVec.ofNat 64 x.psWord
    cause := BitVec.ofNat 64 (causeWord e)
    eaddr := BitVec.ofNat 64 e.f.eaddr
    ephys := BitVec.ofNat 64 e.f.ephys
    origValid := e.origValid
    origW := x.w
    origL := x.l
    busy := true
    garg := if e.code = 0x20 then args else r.garg }
  let y := (x.setCtl e.world r')
  let y := { y with w := e.world, l := true, m := e.level, pc := BitVec.ofNat 32 r.vbar.toNat, waiting := false, fresh := true }
  let s := setCore s c (if push then y.setA 7 (y.areg 7 - 48) else y)
  match frame with
  | none => s
  | some phys => memWrite s c e.world phys (frameBytes r)

/-- An entry, once the write buffer has drained; an invalid stack makes the Open world's entry a WORLD_FAULT and stops a core whose Sealed or own stack it is (R406,
R416). -/
def enter (s : State) (c : CoreId) (e : Entry) : State :=
  let s := drainCore s c
  let x := getCore s c
  match entryStack s c x e with
  | (some frame, t) => enterCore t c x e frame
  | (none, t) =>
    if isDisp c || e.world then coreStop t c 0x0A e.f.code
    else
      let e' := { e with world := true, level := 7, code := 0x0D, sub := 0x0A, orig := e.f.code }
      match entryStack t c x e' with
      | (some frame, u) => enterCore u c x e' frame
      | (none, u) => coreStop u c 0x0A e.f.code

/-- A synchronous cause: taken as itself, as ESCALATED, as WORLD_FAULT, or a stop (R403, R416). -/
def raiseSync (s : State) (c : CoreId) (f : DFault) : State :=
  let x := getCore s c
  let l := syncLevel s c x.w f
  if x.m < l then
    let w := if f.code = 0x20 then (gateWorld s c x f.detail).getD x.w else x.w
    enter s c { world := w, level := l, code := f.code, sub := 0, orig := 0, f := f, origValid := true }
  else if x.m < 7 then enter s c { world := x.w, level := 7, code := 0x0B, sub := 0, orig := f.code, f := f, origValid := true }
  else if isDisp c || x.w then coreStop s c 0x0B f.code
  else enter s c { world := true, level := 7, code := 0x0D, sub := 0x0B, orig := f.code, f := f, origValid := true }

/-- An interrupt ends a halt (R583). -/
def endHalt (s : State) (c : CoreId) : State :=
  if coreHalted s c then
    { s with dbg := { s.dbg with halted := s.dbg.halted.filter (fun e => e.1 != (match c with | .a => 0 | .b => 1 | .d _ => 2 : Nat)) } }
  else s

/-- INTERRUPT_ENTRY: at an instruction boundary a running core takes the admitted source of highest level (R402, R404). -/
def execInterruptEntry (core : CoreId) (s : State) : Res :=
  .next (match admitted s core with
    | none => s
    | some (n, l, w) =>
      if !coreRuns s core || (getCore s core).fresh then s
      else enter (endHalt (dropSource s core n) core) core { world := w, level := l, code := 0x40 + n, sub := 0, orig := 0, f := DFault.plain (0x40 + n), origValid := true })

/-! ## Starting the Open world, software sources, the split (R410, R411, R413) -/

/-- What a write of 1 to bit 0 of WSTART does once the MTCR has completed (R410). -/
def openStart (s : State) (c : CoreId) : State :=
  let x := getCore s c
  let clear := fun (r : CtlRegs) => { r with busy := false, depth := 0 }
  let x := (x.setCtl false (clear (x.ctlOf false))).setCtl true (clear (x.ctlOf true))
  enter (setCore s c x) c { world := false, level := 7, code := 0x7E, sub := 0, orig := 0, f := DFault.plain 0x7E, origValid := false }

/-- What a write to SWI does (R411): a warden core's sources 48 to 55; a dispatch core's 8 to 15 on every core of its world. -/
def softRaise (s : State) (c : CoreId) (v : Nat) : State :=
  let bits := (List.range 8).filter (fun n => v.testBit n)
  match c with
  | .d i =>
    let w := (getCore s (.d i)).w
    let cores := (List.range 20).foldl (fun a k => if ((s.disp[k]?).map (fun y => decide (y.w = w))).getD false then a + 2 ^ k else a) 0
    bits.foldl (fun t n => raiseDisp t (8 + n) cores) s
  | _ => bits.foldl (fun t n => raise t (48 + n)) s

/-- Whether a core stands ready to run an instruction: it is not halted by debug (R583). -/
def ready (s : State) (c : CoreId) : Bool := coreRuns s c && !(getCore s c).waiting && !coreHalted s c

/-- WSTART: a write to the register by the Sealed supervisor of a warden core (R410). -/
def execWstart (core : CoreId) (v : W64) (s : State) : Res :=
  let x := getCore s core
  .next (if ready s core && !isDisp core && x.w && x.l && v.getLsbD 0 then openStart s core else s)

/-- SWI: a write to the register by a supervisor (R411). -/
def execSwi (core : CoreId) (v : W64) (s : State) : Res :=
  .next (if ready s core && (getCore s core).l then softRaise s core v.toNat else s)

/-- LOCKSTEP_MISMATCH: the comparator stops both cores, and the device resets (R413). -/
def execLockstepMismatch (s : State) : Res :=
  let x := getCore s .a
  .next (if geckoUp s && inLockstep s then faultReport (stopB (stopA s x 0xF0 0) x 0xF0 0) 0x29 0 0 else s)

end Sys2Proof.Machine
end

