-- ==== Sys2Proof/Machine/LandauLeg.lean ====
section
/-!
DEFINITION. LandauLeg.lean: the Landau leg (R16, R19, R33, R51–R54, R86, R96, R125, R128, R156, R170, R201, R268, R339, R369, R433, R474,
R491, R499, R523, R526, R527, R588), the end of STRUCT's checks (R92).
-/
namespace Sys2Proof.Machine

/-! ## Ends of the leg -/

/-- A construction fails: the PHY stays unpowered, a DEVICE record, then safe state (R33, R54). -/
def buildFailed (s : State) (ok : Bool) : State :=
  let s := deviceRecord (setLandau { s with power := { s.power with phy := false } } .failed) 1 ok
  faultReport s 0x22 0 0

/-- The checks refuse the image: verdict 0x0A, the DEVICE record; the slot is marked failed and a device reset follows, at once or when the host
leg ends, with cause REQUEST (log entry 85); with the other slot failed too the construction has failed (R33, R79, R86). -/
def refuseImage (s : State) (ok : Bool) : State :=
  let s := noteVerdict (setLandau s .failed) (getF s F.SYSCTL_STATE_IMAGE_SLOT) 0x0A
  let s := deviceRecord s 1 ok
  match slotFallback s with
  | none => faultReport s 0x22 0 0
  | some t =>
    if t.power.phase = .hostDone then deviceReset t F.SYSCTL_RSTCAUSE_REQUEST
    else { t with power := { t.power with pendReset := true } }

/-! ## Step 1 (R523, R526, R527, R588) -/

/-- Domains powered at step 1, in order. -/
def landauDomains (s : State) (m : Nat) : List Nat :=
  [48, 49, 36, 37, 38, 39, 47, 32, 33, 34, 35, 40, 41, 42, 43, 45, 46] ++ (List.range 8).map (· + 24)
    ++ (List.range 24).filter (modeNames (powerSec s) m)

/-- VOUT_COMMAND with the start mode's VID_MV, and the rail groups in order; a group that does not come up in time, a regulator of another
mode or two failed transactions end the step. -/
def raiseRails (s : State) (l : LandauIn) : State × Bool :=
  let m := imgStartMode (imgNow s)
  let s := setF (setF s F.PWRARB_STATUS_MODE m) F.PWRARB_VID_TARGET_MV (pwVid (powerSec s) m)
  if !l.vid then (vidFail s, false)
  else if !l.ulinear then (s, false)
  else
    let s := { s with power := { s.power with voutMv := pwVid (powerSec s) m, enH := true, pgH := l.pgH } }
    if !l.pgH then (s, false)
    else
      let s := { s with power := { s.power with enL := true, operationOn := true, pgL := l.pgL } }
      if !l.pgL then (s, false)
      else
        let s := { s with power := { s.power with enPE := true, pgPE := l.pgPE } }
        (s, l.pgPE)

/-- Rails, then domains. -/
def landauStep1 (s : State) (l : LandauIn) : State × Bool :=
  let (s, ok) := raiseRails s l
  if !ok then (s, false)
  else (setLandau ((landauDomains s (mode s)).foldl (fun t d => setDomainOn t d true) s) .railsOn, true)

/-! ## Step 2 (R16, R499) -/

/-- The key-cache rows of the fuse repair map, then the repairs of the field list: drawbar lanes, key-cache rows (R173, R499). -/
def applyRepairs (s : State) : State :=
  s.struct.fieldRepair.foldl (fun t p =>
    if p.cls = 6 then setLaneMap t p.unit (swapLane (laneMap t p.unit) p.idx)
    else { t with fc := { t.fc with kcMapped := t.fc.kcMapped ++ [(p.unit, p.idx)] } })
    ((Config.kcRepair s.fuse.shadow.repair.toNat).foldl (fun t e => kcRowRepair t e.1 e.2) s)

/-- The drawbar up under a fresh key for each direction (R16; log entry 82), the patterns of its spare lanes running; the index of each stack's spare pseudo-channel is Landau's from its fuses; unless Sealed firmware
refuses the image, Landau's registers take its values (R12, R93, R608). -/
def landauStep2 (s : State) (l : LandauIn) : State × Bool :=
  if !l.ref25 || !l.drawbar then (s, false)
  else
    let s := applyRepairs s
    let (k0, s) := drawBytes s 32
    let (k1, s) := drawBytes s 32
    let s := { s with drawbar := { s.drawbar with up := true, patterns := true, keys := some (k0, k1) } }
    let s := (List.range 4).foldl (fun t k => setF t (F.HBMC_STATUS_SPARE_PC k) (s.fuse.shadow.spares.toNat / 32 ^ k % 32)) s
    (setLandau (if geckoRefuses s (imgNow s) then s else applyParams s (fun b => 0x20 ≤ b)) .drawbarUp, true)

/-! ## Step 3: the allocation (R96) -/

/-- The bit of the fuse repair map for a part of class 1–4. -/
def repairBit (cls unit idx : Nat) : Nat :=
  match cls with
  | 1 => unit * 9 + idx
  | 2 => 144 + unit * 9 + idx
  | 3 => 216 + unit * 5 + idx
  | _ => 236 + unit * 32 + idx

/-- Whether the repair map or a verified record of the chain names a part bad. -/
def partBad (s : State) (v : List RetireRec) (cls unit idx : Nat) : Bool :=
  s.fuse.shadow.repair.getLsbD (repairBit cls unit idx) || v.any (fun r => r.cls = cls && r.unit = unit && r.retire = idx)

/-- Merge an ALLOC word: bad parts are retired and leave the masks; the spare takes the place of a retired active part, a spare core its
world. -/
def mergeWord (bad : Nat → Bool) (k w : Nat) : Nat :=
  let n := maskW k
  let act := activeMask k w
  let ret := (List.range n).foldl (fun m i => if bad i then setBitN m i else m) (retiredMask k w)
  let lost := act &&& ret
  let act1 := act - lost
  let sp1 := spareMask k w - (spareMask k w &&& ret)
  let takes := lost != 0 && sp1 != 0
  let up := w / 2 ^ (3 * n)
  let i := (lowestSet lost n).getD 0
  let j := (lowestSet sp1 n).getD 0
  let up := if takes && decide (24 ≤ k) then (if w.testBit (16 + i) then setBitN up (1 + j) else clrBitN up (1 + j)) else up
  up * 2 ^ (3 * n) + ret * 2 ^ (2 * n) + (if takes then 0 else sp1) * 2 ^ n + (if takes then act1 ||| sp1 else act1)

/-- The class and unit of ALLOC word k. -/
def allocUnit (k : Nat) : Nat × Nat := if k < 16 then (1, k) else if k < 24 then (2, k - 16) else (3, k - 24)

/-- The merged ALLOC section. -/
def mergedAlloc (s : State) (b : Bytes) : Bytes :=
  let v := verifiedChain s
  (List.range 28).flatMap (fun k => leBytes (mergeWord (partBad s v (allocUnit k).1 (allocUnit k).2) k (leAt b (4 * k) 4)) 4)
    ++ b.drop 112

/-- RETIRE_CHAIN for a chain that does not verify to its end. -/
def noteChain (s : State) : State :=
  match s.struct.chain[(verifiedChain s).length]? with
  | none => s
  | some r => occur s 0x303 0 0 r.seq

/-- The sections Sealed firmware writes to STRUCT. -/
def imageSections (s : State) : Sections :=
  (List.range 10).map (fun i =>
    let b := sectionOr (imgNow s) (i + 1)
    (i + 1, if i = 0 then mergedAlloc s b else b))

/-! ## Step 3: the structure in force -/

/-- The registers that show the ALLOC words. -/
def applyAlloc (s : State) (x : Sections) : State := (List.range 28).foldl (fun t k => applyAllocWord t k (allocWord x k)) s

/-- The stage tables of the HBM arbiters, and their lock (R432, R433). -/
def applyStage (s : State) (b : Bytes) : State :=
  (List.range 4).foldl (fun t k =>
    let t := (List.range 64).foldl (fun t n =>
      setF (setF (setF (setF t (F.STAGE_SLOT_SLOT0 k n) (tabSlot b k (4 * n))) (F.STAGE_SLOT_SLOT1 k n) (tabSlot b k (4 * n + 1)))
        (F.STAGE_SLOT_SLOT2 k n) (tabSlot b k (4 * n + 2))) (F.STAGE_SLOT_SLOT3 k n) (tabSlot b k (4 * n + 3))) t
    let t := (List.range 8).foldl (fun t n =>
      setF (setF (setF (setF t (F.STAGE_RANK_RANK0 k n) (tabRank b k (4 * n))) (F.STAGE_RANK_RANK1 k n) (tabRank b k (4 * n + 1)))
        (F.STAGE_RANK_RANK2 k n) (tabRank b k (4 * n + 2))) (F.STAGE_RANK_RANK3 k n) (tabRank b k (4 * n + 3))) t
    setF (setF t (F.STAGE_CTRL_LOCK k) 1) (F.STAGE_STATUS_LOCKED k) 1) s

/-- What the functions show of PCIE and of the effectful set (R103, R608). -/
def applyPcie (s : State) (x : Sections) : State :=
  let b := sec x 9
  let s := setF (setF s F.PCIEC_SUBSYS_SVID (leAt b 2 2)) F.PCIEC_SUBSYS_SSID (leAt b 4 2)
  let s := setF s F.PCIEC_IDE_REQUIRED (byteAt b 1 % 2)
  (List.range (vfCount x + 1)).foldl (fun t n =>
    let t := setF (setF t (F.DEVINFO_FUNC_DOMAIN n) (fnDomain x n)) (F.DEVINFO_LIMITS_TAGS n) (fnTags x n)
    let t := setF (setF t (F.DEVINFO_LIMITS_QPS n) (fnQps x n)) (F.DEVINFO_VECTORS_VECTORS n) (fnVectors x n)
    (List.range 8).foldl (fun t k => setF t (F.DEVINFO_EFFECT_EFFECTFUL n k) (getF t (F.QMGR_EFFECT_EFFECTFUL k))) t) s

/-- A non-zero WINDOW_ID that differs from the one before; the key of the digests; empty windows (R125, R128). -/
def newWindow (s : State) : State :=
  let last := s.qm.lastWindowId
  let (r, s) := draw s 64
  let (k, s) := draw s 128
  let c := 1 + r % (if last = 0 then 2 ^ 32 - 1 else 2 ^ 32 - 2)
  let id := if last != 0 && decide (last ≤ c) then c + 1 else c
  let s := setF { s with qm := { s.qm with digestKey := k, windows := [] } } F.QMGR_WINDOW_ID id
  (List.range 64).foldl (fun t n => setF t (F.DEVINFO_WINDOW_WINDOW_ID n) id) s

/-- The instances of powered clusters and of the groups, and the cipher tiles' mask streams (R268, R271). -/
def seedLandau (s : State) : State :=
  let s := { s with rng := { s.rng with constr := s.rng.constr + 1 } }
  let s := setF s F.RNG_CONSTR_COUNT s.rng.constr
  let on := fun (d : Nat) => if d < 24 then domainOn s d else domainOn s (16 + d)
  let s := ((List.range 28).filter on).foldl instantiate s
  (List.range 8).foldl (fun t u => if domainOn t (16 + u) then rekeyCluster t u else t) s

/-- The dispatch cores as they start, each in its bound world (R19, R339). -/
def startDispatch (s : State) (x : Sections) : State :=
  { s with disp := (List.range 20).map (fun c => DCore.dispatch ((allocWord x (24 + c / 5)).testBit (16 + c % 5))) }

/-- STATE becomes BUILT and the structure is in force (R92). -/
def applyStruct (s : State) (x : Sections) : State :=
  let s := { s with struct := { s.struct with built := x, loading := [], sel := none, seqErr := false } }
  let s := applyAlloc (setF (clearStructError s) F.STRUCT_STATUS_STATE 3) x
  let s := setF (setF s F.STRUCT_MODE_ALLOWED (imgModes (imgNow s))) F.STRUCT_MODE_START (imgStartMode (imgNow s))
  let s := loadGrants (showMode s (imgStartMode (imgNow s)))
  let s := applyPcie (applyStage s (sec x 4)) x
  let s := startDispatch (seedLandau (newWindow s)) x
  setF (setLandau s .built) F.SYSCTL_STATE_LANDAU_BUILT 1

/-- STATE becomes FAILED and STRUCT_ERROR names the violation. -/
def failStruct (s : State) (v : Violation) : State :=
  structError (setF { s with struct := { s.struct with loading := [], sel := none, seqErr := false } } F.STRUCT_STATUS_STATE 4) v

/-- Step 3: the image refused by Sealed firmware, or its structure written and checked. -/
def landauStep3 (s : State) : State × Bool :=
  let img := imgNow s
  if geckoRefuses s img then (s, false)
  else
    let s := noteChain s
    let x := imageSections s
    let s := setF s F.STRUCT_SEL_TYPE 10
    let s := fillWords s F.STRUCT_IMGHASH_HASH 12 (hashWord ((s.image.map (fun i => i.hash)).getD 0))
    match structCheck s x with
    | some v => (failStruct s v, false)
    | none => (applyStruct s x, true)

/-- STRUCT_CHECK_END: the checks of a structure written row by row end (R92). -/
def execStructCheckEnd (ledgerOk : Bool) (s : State) : Res :=
  .next (if geckoUp s && s.drawbar.up && getF s F.STRUCT_STATUS_STATE = 2 then
      let x : Sections := s.struct.loading.map (fun e => (e.1, wordsToBytes e.2))
      let v := if s.struct.seqErr then some { code := 1, sect := 0, index := 0 } else structCheck s x
      match v with
      | some v => refuseImage (failStruct s v) ledgerOk
      | none => applyStruct s x
    else s)

/-! ## Step 4 (R158, R167, R169, R170) -/

/-- The working pseudo-channel of each position of a stack; the first that is bad gives its position to a healthy spare; positions left bad. -/
def mapStack (s : State) (v : List RetireRec) (k : Nat) : HbmStack :=
  let sp := getF s (F.HBMC_STATUS_SPARE_PC k)
  let pos := (List.range 32).filter (fun p => p != sp)
  let bad := (List.range 31).filter (fun i => partBad s v 4 k ((pos[i]?).getD 0))
  if partBad s v 4 k sp then { pos := pos, swap := none, lost := bad }
  else
    match bad with
    | [] => { pos := pos, swap := none, lost := [] }
    | i :: rest => { pos := pos.set i sp, swap := none, lost := rest }

/-- HBMPART without the entries of lost stacks. -/
def dropRegions (s : State) (b : Bytes) : Bytes :=
  let keep := (List.range (leAt b 0 2)).filter (fun i => !isSet s (F.HBMC_STATUS_LOST (regionAt b i).stack))
  leBytes keep.length 2 ++ sliceZ b 2 14 ++ keep.flatMap (fun i => sliceZ b (16 + 16 * i) 16)

/-- Train a stack: its positions, its spare, its loss. -/
def trainStack (v : List RetireRec) (s : State) (k : Nat) : State :=
  let x := mapStack s v k
  let s := updStack s k (fun _ => x)
  let s := setF (setF s (F.HBMC_STATUS_TRAINED k) 1) (F.HBMC_STATUS_RATE k) (hbmRate (mode s))
  let s := setB s (F.HBMC_STATUS_SPARE_USED k) (x.pos.contains (getF s (F.HBMC_STATUS_SPARE_PC k)))
  if x.lost.isEmpty then s else occur (setF s (F.HBMC_STATUS_LOST k) 1) 0x305 k 0 0

/-- Step 4: every stack trains. -/
def landauStep4 (s : State) (l : LandauIn) : State × Bool :=
  if !(List.range 4).all (fun k => (l.hbm[k]?).getD false) then (s, false)
  else
    let s := (List.range 4).foldl (trainStack (verifiedChain s)) s
    let x := s.struct.built.map (fun e => if e.1 = 8 then (8, dropRegions s e.2) else e)
    (setLandau { s with struct := { s.struct with built := x } } .hbmTrained, true)

/-! ## Step 5 (R201, R219, R256, R476, R491) -/

/-- A request for a part's retirement is done, shown or waiting (R490). -/
def ackRetire (s : State) (cls unit idx : Nat) : State :=
  let s := { s with fc := { s.fc with waiting := s.fc.waiting.filter (fun r => !(r.cls = cls && r.unit = unit && r.part = idx)) } }
  if isSet s F.FCOLL_RETIRE_VALID && getF s F.FCOLL_RETIRE_CLASS = cls && getF s F.FCOLL_RETIRE_UNIT = unit && getF s F.FCOLL_RETIRE_PART = idx
  then showRetire (setF s F.FCOLL_RETIRE_VALID 0) else s

/-- Retire a part that failed its self-test: record, amendment, event, acknowledgement. -/
def retireNow (s : State) (cls unit idx : Nat) : State :=
  let spare := unitSpare s cls unit
  let sp := if (unitActive s cls unit).testBit idx then (lowestSet (clrBitN spare idx) 9).getD 0xFF else 0xFF
  let s := setF (setF s F.STRUCT_AMEND_CLASS cls) F.STRUCT_AMEND_UNIT unit
  let s := setF (setF s F.STRUCT_AMEND_RETIRE idx) F.STRUCT_AMEND_SPARE sp
  let s := retireEvent (amended (appendRetire s cls unit idx sp)) cls unit idx
  ackRetire s cls unit idx

/-- A tile that fails its self-test is reported as one failing in service, and retired. -/
def badTile (s : State) (p : Nat × Nat × Nat) : State :=
  let (cls, unit, idx) := p
  if (cls = 1 || cls = 2) && clusterOn s cls unit && decide (unit < classUnits cls) && (unitActive s cls unit ||| unitSpare s cls unit).testBit idx then
    retireNow (faultReport s (if cls = 1 then 0x02 else 0x03) (if cls = 1 then unit else 16 + unit) idx) cls unit idx
  else s

/-- Step 5: a fresh protection key from the generator, the tree, the comb tables, the self-tests. -/
def landauStep5 (s : State) (l : LandauIn) : State :=
  let (k, s) := drbgBytes s 28 96
  let s := { s with hbm := { s.hbm with key := some k, lines := [], leaf := [], nodes := [], root := [], cached := [], poison := [] } }
  let s := setF (setF s F.MCRYPT_STATUS_KEY_VALID 1) F.MCRYPT_STATUS_TREE_READY 0xF
  let s := ((List.range 16).filter (domainOn s)).foldl combBuild s
  let s := if l.t10Ok || isSet s (F.TAMPER_RESP_DISABLED 10) then s else faultReport s 0x2F 10 0
  let s := l.badParts.foldl badTile s
  setF (setLandau s .treeReady) F.SYSCTL_STATE_HBM_READY 1

/-! ## Steps 6 and 7 (R51, R54, R143, R153, R155, R156) -/

/-- The Open-world firmware slot that verifies: A first. -/
def openChoose (s : State) : Nat := if Config.openVerifies s.cfg.openA then 1 else if Config.openVerifies s.cfg.openB then 2 else 0

/-- The PCIe PHY and its domain. -/
def setPhy (s : State) (on : Bool) : State := setDomainOn { s with power := { s.power with phy := on } } 44 on

/-- Both Open-world slots fail: the PHY goes down, the record names it, safe state (R54). -/
def openFailed (s : State) (ok : Bool) : State :=
  let s := deviceRecord (setLandau (setPhy s false) .failed) 2 ok
  faultReport s 0x23 0 0

/-- A domain as its log entry says: its DMK loaded, its store empty until restored. -/
def loadDomain (s : State) (d : Nat) : State :=
  let p := governingDmk s d
  if p = [] then s
  else
    let x : Domain := { Domain.unusedDom with
      state := .awaiting, storeId := leAt p 32 8, role := byteAt p 40, epoch := leAt p 41 8, step := leAt p 49 8, primary := leAt p 57 2,
      awaitSeq := leAt p 59 8 }
    pinDomain { s with ks := { s.ks with domains := mapPut s.ks.domains d x } } d (sliceZ p 0 32)

/-- Step 7: SRK where SCIPH lacks it, then every logged DMK with its store keys, pinned; domains without one are UNUSED. -/
def reloadKeys (s : State) : State :=
  let s := match sciphSlot s 1, sciphSlot s 0, s.tamper.bk with
    | none, some ss, some bk => setSciphSlot s 1 (hkdf384 ss (hashBytes bk) [] 32)
    | _, _, _ => s
  let s := { s with ks := { s.ks with domains := [] } }
  pinMek ((s.ks.dmkLog.map (fun e => e.domain)).eraseDups.foldl loadDomain s)

/-- Steps 6 and 7. -/
def landauStep67 (s : State) (l : LandauIn) : State :=
  let s := setPhy s true
  match openChoose s with
  | 0 => openFailed s l.ledgerOk
  | n =>
    let s := setF (setLandau { s with power := { s.power with openSlot := n } } .openFw) F.SYSCTL_STATE_OPEN_FW_OK 1
    reloadKeys (openStart s .a)

/-! ## The leg -/

/-- Instruction SRAM as firmware loads it (R369). -/
def loadCode (s : State) (code : List (Nat × Bytes)) : State :=
  { s with mem := { s.mem with isram := code.foldl (fun m e =>
      cellsWrite m e.1 (e.2.take (0x100000 - e.1))) s.mem.isram } }

/-- Steps 4 to 7 of a structure that is BUILT. A generator that cannot give step 5 its key fails the construction (R54). In RMA Landau is built only for test: the leg ends there (R67). -/
def landauFrom4 (s : State) (l : LandauIn) : State :=
  match landauStep4 (loadCode s l.code) l with
  | (s, false) => buildFailed s l.ledgerOk
  | (s, true) =>
    if !rngServes s 28 1 then buildFailed s l.ledgerOk
    else
    let s := landauStep5 s l
    if life s = 3 then deviceRecord s 3 l.ledgerOk else landauStep67 s l

/-- Step 3 and on; written row by row, the structure is left to STRUCT's commands. -/
def landauFrom3 (s : State) (l : LandauIn) : State :=
  if l.byRows && !geckoRefuses s (imgNow s) then noteChain s
  else
    match landauStep3 s with
    | (s, false) => refuseImage s l.ledgerOk
    | (s, true) => landauFrom4 s l

/-- The leg from step 1; LOCKED leaves Landau unbuilt (R474). -/
def landauFrom1 (s : State) (l : LandauIn) : State :=
  if isSet s F.TAMPER_STATUS_LOCKED then deviceRecord (setLandau s .failed) 3 l.ledgerOk
  else
    match landauStep1 s l with
    | (s, false) => buildFailed s l.ledgerOk
    | (s, true) =>
      match landauStep2 s l with
      | (s, false) => buildFailed s l.ledgerOk
      | (s, true) => landauFrom3 s l

/-- LANDAU_LEG: steps 1 to 7, once an image is in force and Landau unbuilt; with the structure BUILT by STRUCT's commands, from step 4. Step 8 is
SYSCTL_RELEASE_OPEN (R51, log entry 46). -/
def execLandauLeg (l : LandauIn) (s : State) : Res :=
  whenGecko s
    (if s.image.isNone || s.power.pendReset || !(s.power.phase = .measuring || s.power.phase = .hostDone) then s
     else
      match s.power.landau with
      | .unbuilt => landauFrom1 s l
      | .built => landauFrom4 s l
      | _ => s)

end Sys2Proof.Machine
end

