-- ==== Sys2Proof/Machine/RegRow.lean ====
section
/-!
DEFINITION. RegRow.lean: the command REGISTER_WRITE (R10, R11, R106; log entry 47).
-/
namespace Sys2Proof.Machine

/-- A write to SYSCTL_RELEASE goes on as step 8 of the Landau leg. -/
def thenRelease (s t : State) : State :=
  if !isSet s F.SYSCTL_RELEASE_OPEN && isSet t F.SYSCTL_RELEASE_OPEN then releaseOpen t true else t

/-- REGISTER_WRITE: a write of n bytes by the Sealed supervisor to a Gecko or Landau register, by the host to BAR0 of a function (on the IDE
stream with `ide`, R140), or to configuration space (block 0xC0). A misaligned or unreachable one changes nothing. -/
def execRegisterWrite (blk off : Nat) (p : RegWr) (s : State) : Res :=
  let ⟨n, v, ide⟩ := p
  .next (if blk = 0xC0 then configWrite s off v.toNat
    else if 0x80 ≤ blk then (if tlpTaken s ide then hostWrite s (blk - 0x80) off n v.toNat else s)
    else if !(n = 4 && off % 4 = 0 || n = 8 && off % 8 = 0 && isReg64 blk off)
        || (0x20 ≤ blk && (!s.drawbar.up || s.power.landau = .unbuilt)) then s
    else thenRelease s (busWrite s true 2 blk off n v.toNat))

end Sys2Proof.Machine
end

