-- ==== Sys2Proof/Machine/DelpinRun.lean ====
section
/-!
DEFINITION. DelpinRun.lean: how a Delpin instruction runs: decode checks, fetch, condition, operands, result (R346–R360, R370–R373).
-/
namespace Sys2Proof.Machine

/-! ## Decode checks (R353, R357–R359, R372, R373) -/

/-- Specifier k of an instruction. -/
def insnSpec (i : LongInsn) (k : Nat) : OpSpec := (i.specs[k]?).getD { mode := 0, reg := 0, seg := 0, d21 := 0, ext := 0 }

/-- The words of an instruction. -/
def insnWords (i : LongInsn) : Nat := 1 + (i.specs.map (fun p => specWords p i.size.toNat)).sum

/-- What an opcode takes: COUNT, its smallest and largest SIZE, how many of the last specifiers are destinations, whether COND must be 0,
whether IMM16 has a permitted value. -/
structure Form where
  count : Nat
  lo : Nat
  hi : Nat
  dsts : Nat
  always : Bool
  imm : Bool
  deriving DecidableEq, Repr

/-- A form of any size that uses no IMM16. -/
def formAny (count dsts : Nat) : Form := { count := count, lo := 0, hi := 3, dsts := dsts, always := false, imm := true }

/-- A form of one size. -/
def formOf (count size dsts : Nat) (always imm : Bool) : Form := { count := count, lo := size, hi := size, dsts := dsts, always := always, imm := imm }

/-- Whether decoding raises ILLEGAL by the rules that all long instructions share. -/
def formBad (i : LongInsn) (f : Form) : Bool :=
  i.cond.toNat = 15 || i.specs.length != f.count || i.size.toNat < f.lo || f.hi < i.size.toNat || (f.always && i.cond.toNat != 0) || !f.imm
    || i.specs.any specBad || specsClash i.specs || (i.specs.drop (f.count - f.dsts)).any (fun p => !modeIn p 0 8)

/-- Whether IMM16 is 0. -/
def noImm (i : LongInsn) : Bool := i.imm16.toNat = 0

/-! ## Running -/

/-- Run a long instruction, before which some buffered writes of the cores may have reached memory (R363; R346, R347, R354): a core with an admitted interrupt takes that first (R402); fetch faults; ILLEGAL;
PRIV_INSN; a condition that fails only advances PC; then `go`. -/
def runInsn (i : LongInsn) (s : State) (bad : DCore → Bool) (priv : Bool) (go : State → DCore → DOut State) : Res :=
  let c := i.core
  let x := getCore s c
  .next (if !ready s c || (!x.fresh && (admitted s c).isSome) then s
    else
      let s := bufSettle s
      match fetchCheck s c x (insnWords i) with
      | .wait => s
      | .fault f t => raiseSync t c f
      | .ok _ t =>
        if bad x then raiseSync t c (DFault.plain 3)
        else if priv && !x.l then raiseSync t c (DFault.plain 2)
        else if !condHolds x.flags i.cond.toNat then setCore t c (x.advance (insnWords i))
        else match go t x with
          | .ok u _ => thenRelease t u
          | .fault f u => raiseSync u c f
          | .wait => s)

/-- End an instruction: the core's registers, then its writes to memory. -/
def finish (s : State) (c : CoreId) (x : DCore) (writes : List (Nat × Bytes)) : DOut State :=
  let t := writes.foldl (fun t w => memWrite t c (x.w && x.l) w.1 w.2) (setCore s c x)
  .ok t t

/-! ## Operands (R346, R358) -/

/-- An operand once its offset is known and its accesses are checked. -/
inductive Loc where
  | reg (r : Nat)
  | mem (a : Acc) (phys : Nat)
  | imm (v : Nat)
  deriving DecidableEq, Repr

/-- The offset of an operand: mode 6 reads its pointer (R358). -/
def operandOff (s : State) (c : CoreId) (x : DCore) (p : OpSpec) (bytes : Nat) (fails : List MemFail) : DOut Int :=
  if p.mode.toNat = 6 then
    let a : Acc := { seg := p.seg.val, off := specOffset x p bytes, n := 4, write := false, block := false }
    (checkAcc s c x a).bind fun phys s => (memRead s c a phys fails).bind fun b s => .ok (leAt b 0 4 : Nat) s
  else .ok (specOffset x p bytes) s

/-- How an operand is used: its bytes, whether it is read, written, a block or atomic. -/
structure Use where
  bytes : Nat
  read : Bool
  write : Bool
  block : Bool
  deriving DecidableEq, Repr

def useSrc (n : Nat) : Use := { bytes := n, read := true, write := false, block := false }
def useDst (n : Nat) : Use := { bytes := n, read := false, write := true, block := false }

/-- Locate an operand and check its accesses (phases 1 and 2 of R346); `n` the bytes of the access. -/
def locate (s : State) (c : CoreId) (x : DCore) (p : OpSpec) (u : Use) (n : Nat) (fails : List MemFail) : DOut Loc :=
  if p.mode.toNat = 0 then .ok (.reg p.reg.val) s
  else if p.mode.toNat = 10 ∨ p.mode.toNat = 11 then .ok (.imm (specImm p (8 * u.bytes))) s
  else
    (operandOff s c x p u.bytes fails).bind fun off s =>
      let a : Acc := { seg := specSeg p, off := off, n := n, write := u.write && !u.read, block := u.block }
      (checkAcc s c x a).bind fun phys s =>
        if u.read && u.write then (checkAcc s c x { a with write := true }).bind fun phys s => .ok (.mem a phys) s
        else .ok (.mem a phys) s

/-- Read an operand (phase 3). -/
def readLoc (s : State) (c : CoreId) (x : DCore) (l : Loc) (bytes : Nat) (fails : List MemFail) : DOut Nat :=
  match l with
  | .reg r => .ok ((x.areg r).toNat % 2 ^ (8 * bytes)) s
  | .imm v => .ok v s
  | .mem a phys => (memRead s c a phys fails).bind fun b s => .ok (leAt b 0 b.length) s

/-- Locate several operands in order. -/
def locateAll (c : CoreId) (x : DCore) (fails : List MemFail) : List (OpSpec × Use × Nat) → State → DOut (List Loc)
  | [], s => .ok [] s
  | (p, u, n) :: t, s => (locate s c x p u n fails).bind fun l s => (locateAll c x fails t s).bind fun ls s => .ok (l :: ls) s

/-- Read several operands in order. -/
def readLocs (c : CoreId) (x : DCore) (fails : List MemFail) (bytes : Nat) : List Loc → State → DOut (List Nat)
  | [], s => .ok [] s
  | l :: t, s => (readLoc s c x l bytes fails).bind fun v s => (readLocs c x fails bytes t s).bind fun vs s => .ok (v :: vs) s

/-- Write a result of n bytes: a register takes it zero-extended (R345), memory its bytes. -/
def putLoc (x : DCore) (l : Option Loc) (n v : Nat) : DCore × List (Nat × Bytes) :=
  match l with
  | some (.reg r) => (x.setA r (BitVec.ofNat 64 (v % 2 ^ (8 * n))), [])
  | some (.mem _ phys) => (x, [(phys, leBytes v n)])
  | _ => (x, [])

/-- Post-increments and pre-decrements of every specifier. -/
def moveAll (x : DCore) (l : List (OpSpec × Nat)) : DCore := l.foldl (fun y e => specMove y e.1 e.2) x

/-! ## Instructions that compute a result from operands -/

/-- The result of an operation: the value for the destination and the core with its new flags, or the cause it raises. -/
abbrev OpResult := Except Nat (Nat × DCore)

/-- An operation on flags and values. -/
def onFlags (x : DCore) (r : Nat × Flags) : OpResult := .ok (r.1, x.setFlags r.2)

/-- An operation that sets no flags. -/
def noFlags (x : DCore) (v : Nat) : OpResult := .ok (v, x)

/-- The body of an instruction with `nsrc` source specifiers of `srcBytes` bytes (accessed as `n` bytes) and, after them, a destination where
the form has one. -/
def dataBody (i : LongInsn) (nsrc srcBytes n : Nat) (f : State → DCore → List Nat → OpResult) (s : State) (x : DCore) : DOut State :=
  let bytes := sizeBytes i.size.toNat
  let srcs := i.specs.take nsrc
  let dsts := i.specs.drop nsrc
  let block := decide (8 < n)
  let plan := srcs.map (fun p => (p, { useSrc srcBytes with block := block }, n))
    ++ dsts.map (fun p => (p, { useDst bytes with block := block }, if block then n else bytes))
  (locateAll i.core x i.fails plan s).bind fun locs s =>
    (readLocs i.core x i.fails srcBytes (locs.take nsrc) s).bind fun vals s =>
      match f s x vals with
      | .error code => .fault (DFault.plain code) s
      | .ok (v, y) =>
        let y := moveAll (moveAll y (srcs.map (fun p => (p, srcBytes)))) (dsts.map (fun p => (p, bytes)))
        let (y, ws) := putLoc y (locs[nsrc]?) (if block then n else bytes) v
        finish s i.core (y.advance (insnWords i)) ws

/-- Run such an instruction. -/
def dataOp (i : LongInsn) (s : State) (form : Form) (bad priv : Bool) (nsrc srcBytes n : Nat)
    (f : State → DCore → List Nat → OpResult) : Res :=
  runInsn i s (fun _ => formBad i form || bad) priv (dataBody i nsrc srcBytes n f)

/-- Operand k of a list of values. -/
def val (l : List Nat) (k : Nat) : Nat := (l[k]?).getD 0

/-- dst = a op b with flags (R370). -/
def threeOp (i : LongInsn) (s : State) (f : Flags → Nat → Nat → Nat → Nat × Flags) : Res :=
  dataOp i s { formAny 3 1 with imm := noImm i } false false 2 (sizeBytes i.size.toNat) (sizeBytes i.size.toNat) fun _ x v =>
    onFlags x (f x.flags (sizeBits i.size.toNat) (val v 0) (val v 1))

/-- dst = op src with flags. -/
def twoOp (i : LongInsn) (s : State) (lo : Nat) (f : Flags → Nat → Nat → Nat × Flags) : Res :=
  dataOp i s { formAny 2 1 with lo := lo, imm := noImm i } false false 1 (sizeBytes i.size.toNat) (sizeBytes i.size.toNat) fun _ x v =>
    onFlags x (f x.flags (sizeBits i.size.toNat) (val v 0))

/-- Flags of a op b, no write. -/
def testOp (i : LongInsn) (s : State) (f : Flags → Nat → Nat → Nat → Nat × Flags) : Res :=
  dataOp i s { formAny 2 0 with imm := noImm i } false false 2 (sizeBytes i.size.toNat) (sizeBytes i.size.toNat) fun _ x v =>
    onFlags x (f x.flags (sizeBits i.size.toNat) (val v 0) (val v 1))

/-- A division: DIVIDE where the divisor is 0 (R376). -/
def divOp (i : LongInsn) (s : State) (f : Nat → Nat → Nat → Nat × Flags) : Res :=
  dataOp i s { formAny 3 1 with imm := noImm i } false false 2 (sizeBytes i.size.toNat) (sizeBytes i.size.toNat) fun _ x v =>
    if val v 1 = 0 then .error 0x0E else onFlags x (f (sizeBits i.size.toNat) (val v 0) (val v 1))

/-! ## Operations that short and long forms share (R371, R372, R391) -/

def addF (_ : Flags) (w a b : Nat) : Nat × Flags := addA w a b 0
def addcF (f : Flags) (w a b : Nat) : Nat × Flags := classX f (addA w a b (carry f))
def subF (_ : Flags) (w a b : Nat) : Nat × Flags := subA w a b 0
def subcF (f : Flags) (w a b : Nat) : Nat × Flags := classX f (subA w a b (1 - carry f))
def andF (f : Flags) (w a b : Nat) : Nat × Flags := resL f w (a &&& b)
def orF (f : Flags) (w a b : Nat) : Nat × Flags := resL f w (a ||| b)
def xorF (f : Flags) (w a b : Nat) : Nat × Flags := resL f w (a ^^^ b)
def notF (f : Flags) (w a : Nat) : Nat × Flags := resL f w (onesOf w - a)
def mulF (_ : Flags) (w a b : Nat) : Nat × Flags := mulM w a b

/-! ## Stack (R375) -/

/-- The access of a push or pop of 8 bytes at an offset. -/
def stackAcc (off : Int) (write : Bool) : Acc := { seg := 15, off := off, n := 8, write := write, block := false }

/-- Whether a specifier moves A7. -/
def movesA7 (i : LongInsn) : Bool := i.specs.any (fun p => specMoves p = some 7)

/-! ## Control transfers (R360, R380) -/

/-- The target of a transfer: an offset in SG0 as PC holds it. -/
def targetOf (s : State) (c : CoreId) (x : DCore) (p : OpSpec) (size : Nat) (fails : List MemFail) : DOut W32 :=
  match p.mode.toNat with
  | 0 => .ok (BitVec.ofNat 32 (x.areg p.reg.val).toNat) s
  | 10 => .ok (BitVec.ofInt 32 (specDisp p)) s
  | 11 => .ok (BitVec.ofNat 32 p.ext.toNat) s
  | _ => (operandOff s c x p (sizeBytes size) fails).bind fun off s => .ok (BitVec.ofInt 32 off) s

/-- A core that transfers. -/
def DCore.jump (x : DCore) (pc : W32) : DCore := { x with pc := pc, fresh := false }

/-- Whether a target may be transferred to. -/
def aligned4 (pc : W32) : Bool := pc.toNat % 4 = 0

end Sys2Proof.Machine
end

