-- ==== Sys2Proof/Machine/DelpinAlu.lean ====
section
/-!
DEFINITION. DelpinAlu.lean: the Delpin instructions that move, compute and compare (R370–R379, R391, R392).
-/
namespace Sys2Proof.Machine

/-! ## Data movement -/

/-- MOVE. -/
def execMove (i : LongInsn) (s : State) : Res := twoOp i s 0 (fun f w a => resL f w a)

/-- EXT: the source at size IMM16[1:0], zero- or sign-extended by IMM16[2]. -/
def execExt (i : LongInsn) (s : State) : Res :=
  let m := i.imm16.toNat
  dataOp i s { formAny 2 1 with lo := 1, imm := decide (m < 8) && decide (m % 4 < i.size.toNat) } false false 1 (sizeBytes (m % 4)) (sizeBytes (m % 4))
    fun _ x v => onFlags x (resL x.flags (sizeBits i.size.toNat) (extendTo (sizeBits i.size.toNat) (sizeBits (m % 4)) (val v 0) (m.testBit 2)))

/-- LEA: the offset of the source, which makes no access but a mode-6 pointer read (R374). -/
def execLea (i : LongInsn) (s : State) : Res :=
  runInsn i s (fun _ => formBad i (formOf 2 3 1 false (noImm i)) || !modeIn (insnSpec i 0) 1 9) false fun s x =>
    (operandOff s i.core x (insnSpec i 0) 8 i.fails).bind fun off s =>
      (locate s i.core x (insnSpec i 1) (useDst 8) 8 i.fails).bind fun l s =>
        let y := specMove (specMove x (insnSpec i 0) 8) (insnSpec i 1) 8
        let (y, ws) := putLoc y (some l) 8 (ofSigned 64 off)
        finish s i.core (y.advance (insnWords i)) ws

/-- CLR. -/
def execClr (i : LongInsn) (s : State) : Res :=
  dataOp i s { formAny 1 1 with imm := noImm i } false false 0 0 0 fun _ x _ => onFlags x (resL x.flags (sizeBits i.size.toNat) 0)

/-- PUSH (R375). -/
def execPush (i : LongInsn) (s : State) : Res :=
  let bytes := sizeBytes i.size.toNat
  runInsn i s (fun _ => formBad i { formAny 1 0 with imm := noImm i } || movesA7 i) false fun s x =>
    (locate s i.core x (insnSpec i 0) (useSrc bytes) bytes i.fails).bind fun l s =>
      let a := stackAcc ((x.areg 7).toInt - 8) true
      (checkAcc s i.core x a).bind fun phys s =>
        (readLoc s i.core x l bytes i.fails).bind fun v s =>
          let y := specMove x (insnSpec i 0) bytes
          finish s i.core ((y.setA 7 (y.areg 7 - 8)).advance (insnWords i)) [(phys, leBytes v 8)]

/-- POP (R375): the destination's offset from the registers as the instruction began; A7 moves after the destination is written. -/
def execPop (i : LongInsn) (s : State) : Res :=
  let bytes := sizeBytes i.size.toNat
  runInsn i s (fun _ => formBad i { formAny 1 1 with imm := noImm i } || movesA7 i) false fun s x =>
    (locate s i.core x (insnSpec i 0) (useDst bytes) bytes i.fails).bind fun l s =>
      let a := stackAcc (x.areg 7).toInt false
      (checkAcc s i.core x a).bind fun phys s =>
        (memRead s i.core a phys i.fails).bind fun b s =>
          let v := leAt b 0 bytes
          let y := (specMove x (insnSpec i 0) bytes).setFlags (flagsL x.flags (8 * bytes) v)
          let (y, ws) := putLoc y (some l) bytes v
          finish s i.core ((y.setA 7 (y.areg 7 + 8)).advance (insnWords i)) ws

/-! ## Arithmetic -/

/-- ADD. -/
def execAdd (i : LongInsn) (s : State) : Res := threeOp i s addF
/-- ADDC. -/
def execAddc (i : LongInsn) (s : State) : Res := threeOp i s addcF
/-- SUB. -/
def execSub (i : LongInsn) (s : State) : Res := threeOp i s subF
/-- SUBC. -/
def execSubc (i : LongInsn) (s : State) : Res := threeOp i s subcF
/-- CMP. -/
def execCmp (i : LongInsn) (s : State) : Res := testOp i s subF
/-- NEG. -/
def execNeg (i : LongInsn) (s : State) : Res := twoOp i s 0 (fun f w a => subF f w 0 a)
/-- MUL. -/
def execMul (i : LongInsn) (s : State) : Res := threeOp i s mulF
/-- MULH: the high half of the unsigned product. -/
def execMulh (i : LongInsn) (s : State) : Res := threeOp i s (fun f w a b => resL f w (a * b / 2 ^ w))
/-- MULHS: the high half of the signed product. -/
def execMulhs (i : LongInsn) (s : State) : Res := threeOp i s (fun f w a b => resL f w (mulHigh w a b))
/-- DIV. -/
def execDiv (i : LongInsn) (s : State) : Res := divOp i s (fun w a b => resD w (a / b) false)
/-- DIVS. -/
def execDivs (i : LongInsn) (s : State) : Res := divOp i s divSigned
/-- REM. -/
def execRem (i : LongInsn) (s : State) : Res := divOp i s (fun w a b => resD w (a % b) false)
/-- REMS. -/
def execRems (i : LongInsn) (s : State) : Res := divOp i s remSigned

/-! ## Logic, shifts, bits -/

/-- AND. -/
def execAnd (i : LongInsn) (s : State) : Res := threeOp i s andF
/-- OR. -/
def execOr (i : LongInsn) (s : State) : Res := threeOp i s orF
/-- XOR. -/
def execXor (i : LongInsn) (s : State) : Res := threeOp i s xorF
/-- NOT. -/
def execNot (i : LongInsn) (s : State) : Res := twoOp i s 0 notF
/-- TST. -/
def execTst (i : LongInsn) (s : State) : Res := testOp i s andF
/-- SHL: by b mod w (R377). -/
def execShl (i : LongInsn) (s : State) : Res := threeOp i s (fun f w a b => shlS f w a (b % w))
/-- SHR. -/
def execShr (i : LongInsn) (s : State) : Res := threeOp i s (fun f w a b => shrS f w a (b % w))
/-- SAR. -/
def execSar (i : LongInsn) (s : State) : Res := threeOp i s (fun f w a b => sarS f w a (b % w))
/-- ROL. -/
def execRol (i : LongInsn) (s : State) : Res := threeOp i s (fun f w a b => rolS f w a (b % w))
/-- ROR. -/
def execRor (i : LongInsn) (s : State) : Res := threeOp i s (fun f w a b => rorS f w a (b % w))
/-- CLZ. -/
def execClz (i : LongInsn) (s : State) : Res := twoOp i s 0 (fun f w a => resL f w (leadingZeros w a))
/-- POPC. -/
def execPopc (i : LongInsn) (s : State) : Res := twoOp i s 0 (fun f w a => resL f w (popBits a w))
/-- BSWAP. -/
def execBswap (i : LongInsn) (s : State) : Res := twoOp i s 1 (fun f w a => resL f w (swapBytes w a))

/-! ## Constant-time select and compare (R378, R379) -/

/-- CSEL: a if condition IMM16[3:0] holds, else b. -/
def execCsel (i : LongInsn) (s : State) : Res :=
  let m := i.imm16.toNat
  dataOp i s { formAny 3 1 with imm := decide (m < 15) } false false 2 (sizeBytes i.size.toNat) (sizeBytes i.size.toNat) fun _ x v =>
    noFlags x (if condHolds x.flags m then val v 0 else val v 1)

/-- CTEQ. -/
def execCteq (i : LongInsn) (s : State) : Res := threeOp i s (fun f w a b => resT f w (a = b))
/-- CTLT. -/
def execCtlt (i : LongInsn) (s : State) : Res := threeOp i s (fun f w a b => resT f w (decide (a < b)))
/-- CTMASK. -/
def execCtmask (i : LongInsn) (s : State) : Res := twoOp i s 0 (fun f w a => resT f w (a != 0))

/-- CTBEQ: compares IMM16 bytes at two offsets (R379). -/
def execCtbeq (i : LongInsn) (s : State) : Res :=
  let n := i.imm16.toNat
  runInsn i s (fun _ => formBad i (formOf 2 0 0 false (decide (1 ≤ n) && decide (n ≤ 4096))) || !i.specs.all (fun p => modeIn p 1 9)) false fun s x =>
    let u : Use := { useSrc 1 with block := true }
    (locateAll i.core x i.fails (i.specs.map (fun p => (p, u, n))) s).bind fun locs s =>
      (readLocs i.core x i.fails n locs s).bind fun vals s =>
        let y := moveAll x (i.specs.map (fun p => (p, 1)))
        finish s i.core ((y.setFlags (flagsT x.flags (val vals 0 = val vals 1))).advance (insnWords i)) []

/-! ## Short operations and paired words (R349–R352, R391, R392) -/

/-- The result of a short operation from [Aa] and [Ab]; none without a write. -/
def shortResult (op : Nat) (f : Flags) (w a b : Nat) : Option Nat × Flags :=
  let put := fun (r : Nat × Flags) => (some r.1, r.2)
  match op with
  | 1 => put (resL f w a)
  | 2 => put (addF f w b a)
  | 3 => put (addcF f w b a)
  | 4 => put (subF f w b a)
  | 5 => put (subcF f w b a)
  | 6 => put (andF f w b a)
  | 7 => put (orF f w b a)
  | 8 => put (xorF f w b a)
  | 9 => (none, (subF f w b a).2)
  | 10 => (none, (andF f w b a).2)
  | 11 => put (subF f w 0 a)
  | 12 => put (notF f w a)
  | 13 => put (shlS f w b (a % w))
  | 14 => put (shrS f w b (a % w))
  | 15 => put (sarS f w b (a % w))
  | 16 => put (mulF f w b a)
  | 17 => put (rolS f w b (a % w))
  | _ => (none, f)

/-- Whether a short operation raises ILLEGAL: a reserved code, or a NOP with fields that are not zero (R349, R391). -/
def shortBad (o : ShortOp) : Bool :=
  0x11 < o.op.toNat || (o.op.toNat = 0 && (o.a.val != 0 || o.b.val != 0 || o.size.toNat != 0 || o.inc.toNat != 0))

/-- The registers a short operation names, and those it increments; a NOP names none. -/
def shortNames (o : ShortOp) : List Nat := if o.op.toNat = 0 then [] else [o.a.val, o.b.val]
def shortIncs (o : ShortOp) : List Nat :=
  (if o.inc.toNat.testBit 0 then [o.a.val] else []) ++ (if o.inc.toNat.testBit 1 then [o.b.val] else [])

/-- Whether a pair conflicts (R351). -/
def pairConflict (f g : ShortOp) : Bool :=
  (shortIncs f).any (fun r => (shortNames g).contains r) || (shortIncs g).any (fun r => (shortNames f).contains r)

/-- Whether a short operation reads [Ab], and whether it writes it. -/
def shortReadsB (o : ShortOp) : Bool := !([0, 1, 11, 12].contains o.op.toNat)
def shortWritesB (o : ShortOp) : Bool := !([0, 9, 10].contains o.op.toNat)

/-- The access of a short operation to SG1:[r]. -/
def shortAcc (x : DCore) (o : ShortOp) (r : Nat) (write : Bool) : Acc :=
  { seg := 1, off := (x.areg r).toInt, n := sizeBytes o.size.toNat, write := write, block := false }

/-- The checks of a short operation: the physical addresses of [Aa] and [Ab]. -/
def shortCheck (s : State) (c : CoreId) (x : DCore) (o : ShortOp) : DOut (Nat × Nat) :=
  if o.op.toNat = 0 then .ok (0, 0) s
  else
    (checkAcc s c x (shortAcc x o o.a.val false)).bind fun pa s =>
      if shortReadsB o && shortWritesB o then
        (checkAcc s c x (shortAcc x o o.b.val false)).bind fun _ s => (checkAcc s c x (shortAcc x o o.b.val true)).bind fun pb s => .ok (pa, pb) s
      else (checkAcc s c x (shortAcc x o o.b.val (shortWritesB o))).bind fun pb s => .ok (pa, pb) s

/-- The reads of a short operation, and what it leaves: the new flags and the write to make. -/
def shortRun (s : State) (c : CoreId) (x : DCore) (fl : Flags) (o : ShortOp) (p : Nat × Nat) (fails : List MemFail) :
    DOut (Option Nat × Flags) :=
  let w := sizeBits o.size.toNat
  if o.op.toNat = 0 then .ok (none, fl) s
  else
    (memRead s c (shortAcc x o o.a.val false) p.1 fails).bind fun a s =>
      if shortReadsB o then
        (memRead s c (shortAcc x o o.b.val false) p.2 fails).bind fun b s => .ok (shortResult o.op.toNat fl w (leAt a 0 a.length) (leAt b 0 b.length)) s
      else .ok (shortResult o.op.toNat fl w (leAt a 0 a.length) 0) s

/-- Make the write of a short operation. -/
def shortWrite (s : State) (c : CoreId) (x : DCore) (o : ShortOp) (p : Nat × Nat) (r : Option Nat) : State :=
  match r with
  | none => s
  | some v => memWrite s c (x.w && x.l) p.2 (leBytes v (sizeBytes o.size.toNat))

/-- Post-increments of a short operation. -/
def shortMove (x : DCore) (o : ShortOp) : DCore :=
  (shortIncs o).foldl (fun y r => y.setA r (y.areg r + BitVec.ofNat 64 (sizeBytes o.size.toNat))) x

/-- A pair after its checks: the first operation, then the second on what the first left; a fault of a read leaves both without
effect. -/
def pairRun (s : State) (c : CoreId) (x : DCore) (f g : ShortOp) (pf pg : Nat × Nat) (fails : List MemFail) : DOut State :=
  (shortRun s c x x.flags f pf fails).bind fun rf s =>
    let y := ((shortMove (shortMove x f) g).setFlags rf.2).advance 1
    let t := shortWrite (setCore s c y) c x f pf rf.1
    match shortRun t c x rf.2 g pg fails with
    | .ok rg u => let v := shortWrite (setCore u c (y.setFlags rg.2)) c x g pg rg.1; .ok v v
    | .fault e _ => match shortRun s c x rf.2 g pg fails with
      | .fault e' u => .fault e' u
      | _ => .fault e s
    | .wait => .wait

/-- PAIRED_WORD (R349–R352, R392). -/
def execPairedWord (core : CoreId) (f g : ShortOp) (bit15 : Bool) (fails : List MemFail) (s : State) : Res :=
  let i : LongInsn := { core := core, size := 0, cond := 0, imm16 := 0, specs := [], fails := fails }
  if shortBad f || shortBad g || bit15 then runInsn i s (fun _ => true) false (fun s _ => .ok s s)
  else if pairConflict f g then runInsn i s (fun _ => false) false (fun s _ => .fault (DFault.plain 4) s)
  else runInsn i s (fun _ => false) false fun s x =>
    (shortCheck s core x f).bind fun pf s => (shortCheck s core x g).bind fun pg s => pairRun s core x f g pf pg fails

end Sys2Proof.Machine
end

