-- ==== Sys2Proof/Machine/DelpinSys.lean ====
section
/-!
DEFINITION. DelpinSys.lean: the Delpin control transfers, atomics, block moves and system instructions (R380–R390, R394, R408–R412).
-/
namespace Sys2Proof.Machine

/-! ## Control transfers (R380, R381) -/

/-- JMP. -/
def execJmp (i : LongInsn) (s : State) : Res :=
  runInsn i s (fun _ => formBad i (formOf 1 0 0 false (noImm i))) false fun s x =>
    (targetOf s i.core x (insnSpec i 0) 0 i.fails).bind fun pc s =>
      if !aligned4 pc then .fault (DFault.plain 3) s else finish s i.core ((specMove x (insnSpec i 0) 1).jump pc) []

/-- CALL: pushes the offset of the word after it. -/
def execCall (i : LongInsn) (s : State) : Res :=
  runInsn i s (fun _ => formBad i (formOf 1 0 0 false (noImm i)) || movesA7 i) false fun s x =>
    (targetOf s i.core x (insnSpec i 0) 0 i.fails).bind fun pc s =>
      if !aligned4 pc then .fault (DFault.plain 3) s
      else
        (checkAcc s i.core x (stackAcc ((x.areg 7).toInt - 8) true)).bind fun phys s =>
          let y := specMove x (insnSpec i 0) 1
          finish s i.core ((y.setA 7 (y.areg 7 - 8)).jump pc) [(phys, leBytes (x.pc.toNat + 4 * insnWords i) 8)]

/-- RET. -/
def execRet (i : LongInsn) (s : State) : Res :=
  runInsn i s (fun _ => formBad i (formOf 0 0 0 false (noImm i))) false fun s x =>
    let a := stackAcc (x.areg 7).toInt false
    (checkAcc s i.core x a).bind fun phys s =>
      (memRead s i.core a phys i.fails).bind fun b s =>
        let v := leAt b 0 8
        if 2 ^ 32 ≤ v ∨ v % 4 != 0 then .fault (DFault.plain 3) s
        else finish s i.core ((x.setA 7 (x.areg 7 + 8)).jump (BitVec.ofNat 32 v)) []

/-- LOOP (R381). -/
def execLoop (i : LongInsn) (s : State) : Res :=
  let bytes := sizeBytes i.size.toNat
  runInsn i s (fun _ => formBad i { formAny 2 0 with imm := noImm i } || !modeIn (insnSpec i 0) 0 8) false fun s x =>
    (locate s i.core x (insnSpec i 0) { bytes := bytes, read := true, write := true, block := false } bytes i.fails).bind fun l s =>
      (targetOf s i.core x (insnSpec i 1) i.size.toNat i.fails).bind fun pc s =>
        (readLoc s i.core x l bytes i.fails).bind fun v s =>
          let n := (v + 2 ^ (8 * bytes) - 1) % 2 ^ (8 * bytes)
          if n != 0 && !aligned4 pc then .fault (DFault.plain 3) s
          else
            let y := specMove (specMove x (insnSpec i 0) bytes) (insnSpec i 1) bytes
            let (y, ws) := putLoc y (some l) bytes n
            finish s i.core (if n = 0 then y.advance (insnWords i) else y.jump pc) ws

/-! ## Atomic operations (R382, R383) -/

/-- An atomic instruction: the memory operand is the last specifier, in modes 1–8, aligned, and in no register block; `f` takes the
register, memory and the value operand, and gives the value to store, if any, and the core's flags. The write buffer drains before it, and
its own write is not buffered (R363). -/
def atomicOp (i : LongInsn) (s : State) (count : Nat) (f : DCore → Nat → Nat → Nat → Option Nat × DCore) : Res :=
  let bytes := sizeBytes i.size.toNat
  let r := insnSpec i 0
  let m := insnSpec i (count - 1)
  runInsn i s (fun _ => formBad i { formAny count 1 with always := true, imm := noImm i } || r.mode.toNat != 0 || !modeIn m 1 8) false fun s x =>
    (operandOff s i.core x m bytes i.fails).bind fun off s =>
      let a : Acc := { seg := specSeg m, off := off, n := bytes, write := false, block := true }
      if physOf x a % bytes != 0 then .fault (DFault.plain 3) s
      else
        (locateAll i.core x i.fails (((i.specs.drop 1).take (count - 2)).map (fun p => (p, useSrc bytes, bytes))) s).bind fun locs s =>
          (checkAcc s i.core x a).bind fun _ s => (checkAcc s i.core x { a with write := true }).bind fun phys s =>
            (readLocs i.core x i.fails bytes locs s).bind fun vals s =>
              (memRead (drainCore s i.core) i.core a phys i.fails).bind fun b s =>
                let old := leAt b 0 bytes
                let (v, y) := f x ((x.areg r.reg.val).toNat % 2 ^ (8 * bytes)) old ((vals[0]?).getD 0)
                let y := moveAll y ((i.specs.drop 1).map (fun p => (p, bytes)))
                (finish s i.core ((y.setA r.reg.val (BitVec.ofNat 64 old)).advance (insnWords i)) ((v.map (fun v => (phys, leBytes v bytes))).toList)).bind
                  fun _ s => let t := drainCore s i.core; .ok t t

/-- SWAPA. -/
def execSwapa (i : LongInsn) (s : State) : Res := atomicOp i s 2 (fun x reg _ _ => (some reg, x))

/-- CAS. -/
def execCas (i : LongInsn) (s : State) : Res :=
  atomicOp i s 3 (fun x reg old new => (if old = reg then some new else none, x.setFlags (flagsT x.flags (old = reg))))

/-- FADD. -/
def execFadd (i : LongInsn) (s : State) : Res :=
  atomicOp i s 3 (fun x _ old add => let r := addF x.flags (sizeBits i.size.toNat) old add; (some r.1, x.setFlags r.2))

/-! ## Block moves (R384, R385) -/

/-- Copy n bytes one at a time in ascending order. -/
def copyBytes (c : CoreId) (x : DCore) (fails : List MemFail) (src dst : Int) (sseg dseg : Nat) : Nat → Nat → State → DOut Unit
  | 0, _, s => .ok () s
  | k + 1, n, s =>
    let a : Acc := { seg := sseg, off := src + n, n := 1, write := false, block := true }
    let b : Acc := { seg := dseg, off := dst + n, n := 1, write := true, block := true }
    (memRead s c a (physOf x a) fails).bind fun v s =>
      copyBytes c x fails src dst sseg dseg k (n + 1) (memWrite s c (x.w && x.l) (physOf x b) v)

/-- One step of a block move: its length, which ends at a 64-byte boundary of the destination offset. -/
def stepLen (dst : W64) (count : Nat) : Nat := min count (64 - dst.toNat % 64)

/-- The registers after a step of n bytes: destination and source advance, the count falls. -/
def blockRegs (x : DCore) (src : Option Nat) (dst cnt n : Nat) : DCore :=
  let x := (x.setA dst (x.areg dst + BitVec.ofNat 64 n)).setA cnt (x.areg cnt - BitVec.ofNat 64 n)
  match src with
  | none => x
  | some r => x.setA r (x.areg r + BitVec.ofNat 64 n)

/-- The steps of a block move until the count is 0, a fault, or an interrupt between two steps; each step's registers are the core's
when it has completed. `step` makes one step of n bytes from the core's registers. -/
def blockSteps (c : CoreId) (src : Option Nat) (dst cnt : Nat) (step : State → DCore → Nat → DOut Unit) (last : DCore → DCore) :
    Nat → State → DOut State
  | 0, s => .ok s s
  | fuel + 1, s =>
    let x := getCore s c
    let count := (x.areg cnt).toNat
    if count = 0 then let t := setCore s c (last x); .ok t t
    else
      let n := stepLen (x.areg dst) count
      match step s x n with
      | .ok _ t =>
        let t := setCore t c (blockRegs x src dst cnt n)
        if count != n && !x.fresh && (admitted t c).isSome then .ok t t else blockSteps c src dst cnt step last fuel t
      | .fault f t => .fault f t
      | .wait => .ok s s

/-- The steps that a count can take. -/
def blockFuel (count : W64) : Nat := count.toNat / 64 + 3

/-- BMOVE. -/
def execBmove (i : LongInsn) (s : State) : Res :=
  let a := insnSpec i 0
  let b := insnSpec i 1
  let k := insnSpec i 2
  runInsn i s (fun _ => formBad i (formOf 3 3 0 true (noImm i)) || a.mode.toNat != 1 || b.mode.toNat != 1 || k.mode.toNat != 0
      || a.reg = b.reg || a.reg = k.reg || b.reg = k.reg) false fun s x =>
    let step := fun (s : State) (x : DCore) (n : Nat) =>
      let src := (x.areg a.reg.val).toInt
      let dst := (x.areg b.reg.val).toInt
      (checkAcc s i.core x { seg := a.seg.val, off := src, n := n, write := false, block := true }).bind fun _ s =>
        (checkAcc s i.core x { seg := b.seg.val, off := dst, n := n, write := true, block := true }).bind fun _ s =>
          copyBytes i.core x i.fails src dst a.seg.val b.seg.val n 0 s
    blockSteps i.core (some a.reg.val) b.reg.val k.reg.val step (fun y => y.advance (insnWords i)) (blockFuel (x.areg k.reg.val)) s

/-- The registers that a specifier names. -/
def specRegs (p : OpSpec) : List Nat :=
  if p.mode.toNat ≤ 4 ∨ p.mode.toNat = 6 then [p.reg.val]
  else if p.mode.toNat = 5 then [p.reg.val, p.d21.toNat / 2 ^ 18 % 8]
  else []

/-- BFILL. The value is read once, and a count of 0 makes no access. -/
def execBfill (i : LongInsn) (s : State) : Res :=
  let a := insnSpec i 0
  let b := insnSpec i 1
  let k := insnSpec i 2
  runInsn i s (fun _ => formBad i (formOf 3 3 0 true (noImm i)) || b.mode.toNat != 1 || k.mode.toNat != 0 || b.reg = k.reg
      || (specRegs a).contains b.reg.val || (specRegs a).contains k.reg.val) false fun s x =>
    let finishCore := fun (y : DCore) => (specMove y a 8).advance (insnWords i)
    if (x.areg k.reg.val).toNat = 0 then finish s i.core (finishCore x) []
    else
      (locate s i.core x a (useSrc 8) 8 i.fails).bind fun l s =>
        (readLoc s i.core x l 8 i.fails).bind fun v s =>
          let step := fun (s : State) (x : DCore) (n : Nat) =>
            let acc : Acc := { seg := b.seg.val, off := (x.areg b.reg.val).toInt, n := n, write := true, block := true }
            (checkAcc s i.core x acc).bind fun phys s =>
              .ok () (memWrite s i.core (x.w && x.l) phys (List.replicate n (BitVec.ofNat 8 v)))
          blockSteps i.core none b.reg.val k.reg.val step finishCore (blockFuel (x.areg k.reg.val)) s

/-! ## TRAP, GATE, RTE (R387, R408, R409, R412) -/

/-- TRAP. -/
def execTrap (i : LongInsn) (s : State) : Res :=
  let n := i.imm16.toNat
  runInsn i s (fun _ => formBad i (formOf 0 0 0 false (decide (n < 16)))) false fun s _ =>
    .fault { DFault.plain (0x10 + n) with detail := n, skip := 1 } s

/-- GATE: ILLEGAL where the gate has no entry for the caller's context, or leads a dispatch core to the other world (R399, R416). -/
def execGate (i : LongInsn) (s : State) : Res :=
  let n := i.imm16.toNat
  runInsn i s (fun x => formBad i (formOf 0 0 0 true (decide (n < 256)))
      || (match gateWorld s i.core x n with
          | none => true
          | some w => isDisp i.core && w != x.w)) false fun s _ =>
    .fault { DFault.plain 0x20 with detail := n, skip := 1 } s

/-- Whether RTE's target is allowed (R408, R416). -/
def rteAllowed (c : CoreId) (x : DCore) : Bool :=
  let r := x.ctlOf x.w
  let w := r.eps.getLsbD 15
  let l := r.eps.getLsbD 14
  (r.origValid && w = r.origW && l = r.origL) || (!isDisp c && w = x.w && !l && (!r.origValid || r.origW = x.w))

/-- The save slots that a popped frame gives back (R405). -/
def framePop (r : CtlRegs) (b : Bytes) : CtlRegs :=
  let st := leAt b 40 8
  { r with
    depth := r.depth - 1
    epc := BitVec.ofNat 64 (leAt b 0 8)
    eps := BitVec.ofNat 64 (leAt b 8 8)
    cause := BitVec.ofNat 64 (leAt b 16 8)
    eaddr := BitVec.ofNat 64 (leAt b 24 8)
    ephys := BitVec.ofNat 64 (leAt b 32 8)
    origValid := st.testBit 3
    origW := st.testBit 2
    origL := st.testBit 1 }

/-- Steps 4 to 6 of R409; `frame` what was popped. -/
def rteCore (x : DCore) (frame : Option Bytes) : DCore :=
  let r := x.ctlOf x.w
  let ps := r.eps.toNat
  let w := ps.testBit 15
  let l := ps.testBit 14
  let home := r.cause.toNat % 256 = 0x20 && r.origValid && w = r.origW && l = r.origL
  let y := if home then x.setBank w l (((x.bank w l).setA 0 r.gres0).setA 1 r.gres1) else x
  let y := match frame with
    | some b => (y.setA 7 (y.areg 7 + 48)).setCtl x.w (framePop r b)
    | none => y.setCtl x.w { r with busy := false }
  { y with pc := BitVec.ofNat 32 r.epc.toNat, w := w, l := l, m := ps / 256 % 8, n := ps.testBit 3, z := ps.testBit 2, v := ps.testBit 1,
           c := ps.testBit 0, fresh := false }

/-- What a pop that fails its check does (R406 with ORIG 0x0C). -/
def rteBadStack (s : State) (c : CoreId) (x : DCore) : State :=
  if isDisp c || x.w then coreStop s c 0x0A 0x0C
  else enter s c { world := true, level := 7, code := 0x0D, sub := 0x0A, orig := 0x0C, f := DFault.plain 0x0C, origValid := true }

/-- RTE (R408, R409). -/
def execRte (i : LongInsn) (s : State) : Res :=
  let c := i.core
  runInsn i s (fun x => formBad i (formOf 0 0 0 true (noImm i)) || (isDisp c && x.l && !rteAllowed c x)) true fun s x =>
    let r := x.ctlOf x.w
    if !rteAllowed c x then .fault (DFault.plain 0x0C) s
    else if r.depth = 0 then finish (drainCore s c) c (rteCore x none) []
    else
      let a : Acc := { seg := 15, off := (x.areg 7).toInt, n := 48, write := false, block := true }
      if (x.areg 7).toNat % 8 != 0 then (let t := rteBadStack s c x; .ok t t)
      else match (checkAcc s c x a).bind (fun phys s => memRead (drainCore s c) c a phys i.fails) with
        | .ok b t => finish t c (rteCore x (some b)) []
        | .fault _ t => (let u := rteBadStack t c x; .ok u u)
        | .wait => .wait

/-! ## Segments, mask, wait, fence, status (R341, R386–R390) -/

/-- LSEG: drains the write buffer (R363), then loads SG IMM16[3:0] from 16 bytes; SEG_INVALID loads nothing (R341). -/
def execLseg (i : LongInsn) (s : State) : Res :=
  let n := i.imm16.toNat
  runInsn i s (fun _ => formBad i (formOf 1 0 0 true (decide (n < 16))) || !modeIn (insnSpec i 0) 1 9) true fun s x =>
    dataBody i 1 1 16 (fun _ x v =>
      let d := segOfBytes (leBytes (val v 0) 16)
      if segLoads d x.w then noFlags (x.setBank x.w x.l (x.active.setSeg n d)) 0 else .error 7) (drainCore s i.core) x

/-- SSEG: stores SG IMM16[3:0] as held. -/
def execSseg (i : LongInsn) (s : State) : Res :=
  let n := i.imm16.toNat
  dataOp i s (formOf 1 0 1 true (decide (n < 16))) (!modeIn (insnSpec i 0) 1 8) true 0 1 16 fun _ x _ =>
    noFlags x (leAt (x.active.seg n).bytes 0 16)

/-- MASK. -/
def execMask (i : LongInsn) (s : State) : Res :=
  let bytes := sizeBytes i.size.toNat
  dataOp i s { formAny 1 0 with always := true, imm := noImm i } false true 1 bytes bytes fun _ x v => noFlags { x with m := val v 0 % 8 } 0

/-- WAIT: at M 7 ILLEGAL (R373); with an admitted interrupt pending it completes at once, else the core waits; the word after it is the
return point (R388). -/
def execWait (i : LongInsn) (s : State) : Res :=
  runInsn i s (fun x => formBad i (formOf 0 0 0 true (noImm i)) || x.m = 7) true fun s x =>
    finish s i.core { x.advance (insnWords i) with waiting := (admitted s i.core).isNone } []

/-- FENCE: with DATA the write buffer drains; INSN has no further effect, since no instruction word is fetched ahead of its step (R365,
R390). -/
def execFence (i : LongInsn) (s : State) : Res :=
  let m := i.imm16.toNat
  runInsn i s (fun _ => formBad i (formOf 0 0 0 true (decide (1 ≤ m) && decide (m ≤ 3)))) false fun s x =>
    finish (if m.testBit 0 then drainCore s i.core else s) i.core (x.advance (insnWords i)) []

/-- MFPS. -/
def execMfps (i : LongInsn) (s : State) : Res :=
  dataOp i s { formAny 1 1 with imm := noImm i } false false 0 0 0 fun _ x _ => noFlags x x.psWord

/-- MTF. -/
def execMtf (i : LongInsn) (s : State) : Res :=
  let bytes := sizeBytes i.size.toNat
  dataOp i s { formAny 1 0 with imm := noImm i } false false 1 bytes bytes fun _ x v =>
    let a := val v 0
    onFlags x (0, { n := a.testBit 3, z := a.testBit 2, v := a.testBit 1, c := a.testBit 0 })

/-! ## Control registers (R394) -/

/-- Whether a control register number is absent on a core in its world. -/
def crAbsent (c : CoreId) (x : DCore) (n : Nat) : Bool := 18 < n || (17 ≤ n && (isDisp c || !x.w))

/-- CORE. -/
def coreWord (s : State) (c : CoreId) (x : DCore) : Nat :=
  coreNumber c + (if isDisp c then bitAt x.w 16 else getF s F.WCORE_STATUS_ARR * 256)

/-- A control register as MFCR reads it; write-only ones read 0. -/
def readCr (s : State) (c : CoreId) (x : DCore) (n : Nat) : Nat :=
  let r := x.ctlOf x.w
  match n with
  | 0 => r.vbar.toNat
  | 1 => r.epc.toNat
  | 2 => r.eps.toNat
  | 3 => r.cause.toNat
  | 4 => r.eaddr.toNat
  | 5 => r.ephys.toNat
  | 6 => r.estat
  | 7 => r.imask.toNat
  | 8 => pendingShown s c x
  | 10 => coreWord s c x
  | 11 => ((r.garg[0]?).getD 0).toNat
  | 12 => ((r.garg[1]?).getD 0).toNat
  | 13 => ((r.garg[2]?).getD 0).toNat
  | 14 => ((r.garg[3]?).getD 0).toNat
  | 15 => r.gres0.toNat
  | 16 => r.gres1.toNat
  | 17 => r.maskS.toNat
  | _ => 0

/-- The control registers after a write; read-only ones stand. -/
def writeCr (r : CtlRegs) (n : Nat) (v : W64) : CtlRegs :=
  match n with
  | 0 => { r with vbar := v &&& ~~~3 }
  | 1 => { r with epc := v }
  | 2 => { r with eps := v }
  | 7 => { r with imask := v }
  | 15 => { r with gres0 := v }
  | 16 => { r with gres1 := v }
  | 17 => { r with maskS := v }
  | _ => r

/-- MFCR. -/
def execMfcr (i : LongInsn) (s : State) : Res :=
  let n := i.imm16.toNat
  dataOp i s (formOf 1 3 1 false true) (crAbsent i.core (getCore s i.core) n) true 0 0 0 fun s x _ => noFlags x (readCr s i.core x n)

/-- MTCR: SWI raises sources, WSTART starts the Open world once the instruction has completed. -/
def execMtcr (i : LongInsn) (s : State) : Res :=
  let n := i.imm16.toNat
  runInsn i s (fun x => formBad i (formOf 1 3 0 false true) || crAbsent i.core x n) true fun s x =>
    (locate s i.core x (insnSpec i 0) (useSrc 8) 8 i.fails).bind fun l s =>
      (readLoc s i.core x l 8 i.fails).bind fun v s =>
        let y := specMove x (insnSpec i 0) 8
        let y := (y.setCtl x.w (writeCr (y.ctlOf x.w) n (BitVec.ofNat 64 v))).advance (insnWords i)
        let t := setCore s i.core y
        let t := if n = 9 then softRaise t i.core v else if n = 18 ∧ v.testBit 0 then openStart t i.core else t
        .ok t t

end Sys2Proof.Machine
end

