-- ==== Sys2Proof/Machine/Nop.lean ====
section
/-!
DEFINITION. Nop.lean: NOP, the admin command and the Delpin instruction (R131, R348, R372).
-/
namespace Sys2Proof.Machine

/-- NOP: the admin command completes OK; the long instruction only advances PC, whatever its condition. -/
def execNop (form : NopForm) (s : State) : Res :=
  match form with
  | .admin tag => .next (serveAdmin s tag 0 (fun _ => outStatus stOK))
  | .delpin i => runInsn i s (fun _ => formBad i (formOf 0 0 0 false (noImm i))) false fun s x =>
      finish s i.core (x.advance (insnWords i)) []

end Sys2Proof.Machine
end

