-- ==== Sys2Proof/Machine/Pace.lean ====
section
/-!
DEFINITION. Pace.lean: LSENSE: pace windows (R20–R23, R613).
-/
namespace Sys2Proof.Machine

/-- Whether a domain holds handshake logic: every one of PD00–PD47 but the PHYs, which are clocked (R20, R515; log entry 74). -/
def hasLoop (d : Nat) : Bool := d < 48 && !([25, 27, 29, 31, 44].contains d)

/-- The pace of a domain whose loop completed n times in 250 reference periods, in parts per thousand of its fused nominal count (R20). -/
def paceOf (s : State) (d n : Nat) : Nat := n * 1000 / (Config.paceNominal s.fuse.shadow.trim.toNat d + 1)

/-- The lowest pace among powered domains with a loop, with its domain, the lowest-numbered where several share it. -/
def lowestPace (s : State) (l : List (Nat × Nat)) : Option (Nat × Nat) :=
  ((l.filter (fun e => hasLoop e.1 && domainOn s e.1)).map (fun e => (e.1, paceOf s e.1 e.2))).foldl (fun m e =>
    match m with
    | none => some e
    | some x => if e.2 < x.2 ∨ (e.2 = x.2 ∧ e.1 < x.1) then some e else m) none

/-- Publish a window: LSENSE_PACE and its copy in every function (R20, R22). -/
def publishPace (s : State) (d pace : Nat) : State :=
  let s := setF (setF (setF s F.LSENSE_PACE_PACE_MIN pace) F.LSENSE_PACE_MIN_DOMAIN d) F.LSENSE_PACE_VALID 1
  (List.range 64).foldl (fun t n => setF (setF t (F.TELE_PACE_PACE_MIN n) pace) (F.TELE_PACE_VALID n) 1) s

/-- PACE_WINDOW: the loops' completions in a window of 10 µs, by domain; a pace below FLOOR sets LOW, recorded when it was 0 (R20–R23). The counts
are measured, the event's (R613). -/
def execPaceWindow (counts : List (Nat × Nat)) (s : State) : Res :=
  whenLandau s (match lowestPace s counts with
    | none => s
    | some (d, p) =>
      let pace := min 65535 p
      let t := publishPace s d pace
      if pace < getF s F.LSENSE_PACE_FLOOR_FLOOR then
        let t := setF t F.LSENSE_PACE_LOW 1
        if isSet s F.LSENSE_PACE_LOW then t else occur t 0x302 d 0 pace
      else t)

end Sys2Proof.Machine
end

