-- ==== Sys2Proof/Machine/RouteEnd.lean ====
section
/-!
DEFINITION. RouteEnd.lean: the END step of a route (R25, R123, R125, R151, R192, R196, R208, R225, R235, R237, R239, R242, R250).
-/
namespace Sys2Proof.Machine

/-! ## Counts (R239, R242, R250) -/

/-- A stream key's COUNTER after its draw v is released; a mark that comes near moves (R151, R239). -/
def effStreamUse (s : State) (h v : Nat) (out : Outcome) : State × Outcome :=
  (reserve (updCounts s h (fun o => { o with counter := max o.counter (v + 1) })) h, out)

/-- USE_COUNT of a key. -/
def useCountOf (s : State) (h : Nat) : Nat := ((liveObj s h).map (fun o => o.useCount)).getD 0

/-- RESULT of a metered opcode: USE_COUNT of KEY_A, for the translations the low 31 bits of KEY_B's; bit 63 stands (R250). -/
def meteredResult (s : State) (e : Bytes) (out : Outcome) : Nat :=
  let b := if seOpcode e = 0x70 ∨ seOpcode e = 0x71 then useCountOf s (seKeyB e) % 2 ^ 31 else 0
  out.result / 2 ^ 63 * 2 ^ 63 + b * 2 ^ 32 + useCountOf s (seKeyA e) % 2 ^ 32

/-- Each reservation becomes a use (R242); marks that come near move (R151). -/
def effMeteredUse (s : State) (hs : List Nat) (out : Outcome) : State × Outcome :=
  let s := hs.foldl (fun t h => updCounts t h (fun o => { o with useCount := o.useCount + 1 })) s
  (hs.foldl reserve s, out)

/-! ## Effects (R123) -/

/-- The effect of a command that ends OK, and its outcome. Whether a ledger record persists and whether reading an object that an import
replaces fails is the event's. -/
def applyEffect (s : State) (t : TagEntry) (e : Effect) (ledgerOk memFail : Bool) (out : Outcome) : State × Outcome :=
  match e with
  | .nothing => (s, out)
  | .putKey slot o => effPutKey s slot o out
  | .importKey b => effImportKey s (seDomain t.entry) b memFail out
  | .deleteKey h => effDeleteKey s h out
  | .restrictKey h u l a => effRestrictKey s h u l a out
  | .vtBuilt h => (addTable s h, out)
  | .vtEvict h => (startEvict s h, out)
  | .snapBegin d => effSnapBegin s d out
  | .journalAck d q => effJournalAck s d q out
  | .restoreBegin d n => effRestoreBegin s d n out
  | .restoreData d b => effRestoreData s d b out
  | .restoreEnd d => effRestoreEnd s d out
  | .domainCreate d => effDomainCreate s d out
  | .domainErase d => (eraseDomain s d, out)
  | .escrowRestore d k i => effEscrowRestore s d k i out
  | .streamUse h v => effStreamUse s h v out
  | .meteredUse hs => effMeteredUse s hs out
  | .hostFlashAuth b => effHostFlashAuth s b ledgerOk out
  | .bootSelect v => effBootSelect s v out
  | .lifecycle g q b => effLifecycle s t.tag g q b ledgerOk out
  | .cluster op d a b c i => effCluster s op d a b c i out

/-- At END: with OK the effect, whole; else none (R123). -/
def endEffect (s : State) (t : TagEntry) (e : Effect) (ledgerOk memFail : Bool) (out : Outcome) : State × Outcome :=
  if out.status = stOK then applyEffect s t e ledgerOk memFail out else (s, out)

/-! ## Status, output and RESULT (R195, R196, R203, R210, R235, R250) -/

/-- The status END sets from what the route found, in the order of precedence: INTEGRITY; POINT_INVALID, or DMA_ERROR of an input that could
not be read; VERIFY_FAILED; SIGN_CHECK_FAILED; OK. A forced check flag fails a verification or withholds a private-key result (R196, R203). -/
def endStatus (op : Nat) (r : RouteAt) (st : Nat) : Nat :=
  if r.integrity ∨ st = stINTEGRITY then stINTEGRITY
  else if st = stPOINT_INVALID ∨ st = stDMA_ERROR then st
  else if st = stVERIFY_FAILED ∨ (r.forced ∧ 0x32 ≤ op ∧ op ≤ 0x34) then stVERIFY_FAILED
  else if st = stSIGN_CHECK_FAILED ∨ r.forced then stSIGN_CHECK_FAILED
  else st

/-- The bytes that the steps of a route staged on its tile or in its context slot (R195, R231, R235). -/
def tileOut (s : State) (r : RouteAt) : Bytes :=
  match r.cls with
  | 1 => (mapGet s.pke.tiles (r.unit * 16 + r.tile) PkeTile.clear).out
  | 2 => (mapGet s.cip.ctx ((r.unit * 16 + r.tile) * 2 + r.slot) CipCtx.clear).out
  | _ => []

/-- The key body that KOUT steps staged on the tile (R195). -/
def tileBody (s : State) (r : RouteAt) : Bytes :=
  if r.cls = 1 then (mapGet s.pke.tiles (r.unit * 16 + r.tile) PkeTile.clear).body else []

/-- The outcome at END: its status, and with OK the bytes that steps staged in place of the row's where they staged any (R196, log entry 22). -/
def endOutcome (s : State) (t : TagEntry) (r : RouteAt) (o : Outcome) : Outcome :=
  let st := endStatus (seOpcode t.entry) r o.status
  let b := (tileOut s r).take (seOutLen t.entry)
  if st != o.status then outStatus st
  else if st = stOK && !b.isEmpty then { o with outBytes := b.length, output := b }
  else o

/-- A new key object takes the body that KOUT steps staged where it is one of its type. -/
def endBody (s : State) (r : RouteAt) (e : Effect) : Effect :=
  match e with
  | .putKey slot o =>
    if (tileBody s r).length = bodyBytes o.typ o.bits ∧ !(tileBody s r).isEmpty then
      .putKey slot { o with body := tileBody s r, kcv := kcvOf o.typ (tileBody s r) }
    else e
  | _ => e

/-- Opcodes that are pure and run on a public-key tile, on a cipher/hash tile: RESULT names the tile (R210, R250). -/
def pkePure (op : Nat) : Bool := (0x30 ≤ op && op ≤ 0x34) || (0x38 ≤ op && op ≤ 0x3B)
def cipPure (op : Nat) : Bool := (0x50 ≤ op && op ≤ 0x54) || (0x60 ≤ op && op ≤ 0x64)

/-- RESULT, whatever the status: the tile of a pure opcode, the counts of a metered one (R210, R250). -/
def endResult (s : State) (t : TagEntry) (r : RouteAt) (out : Outcome) : Outcome :=
  let op := seOpcode t.entry
  { out with result :=
      if pkePure op then r.tile + 16 * r.unit
      else if cipPure op then r.tile + 16 * (r.unit % 8)
      else if isMetered op then meteredResult s t.entry out
      else out.result }

/-! ## The tile (R203, R208, R237) -/

/-- A SIGN_CHECK_FAILED is counted for its tile; found by the check itself it is reported as PKE_SCF (R208). -/
def countScf (s : State) (t : TagEntry) (r : RouteAt) (out : Outcome) : State :=
  if r.cls = 1 && out.status = stSIGN_CHECK_FAILED then
    let s := bump s (F.PKEC_SCF_COUNT r.unit r.tile) (F.PKEC_SCF_SAT r.unit r.tile)
    let s := setF (setF s (F.PKEC_LASTSCF_OPCODE r.unit) (seOpcode t.entry)) (F.PKEC_LASTSCF_TILE r.unit) r.tile
    let s := setF (setF s (F.PKEC_LASTSCF_DOMAIN r.unit) (seDomain t.entry)) (F.PKEC_LASTSCF_CLASS r.unit) r.mode
    if r.forced then s else faultReport s 0x01 r.unit r.tile
  else s

/-- After an urgent route over a suspended one the tile's allowance is spent until slot 0 has issued GAP blocks (R237). -/
def spendAllowance (s : State) (r : RouteAt) : State :=
  if r.cls = 2 && r.slot = 1 && routeOn s 2 r.unit r.tile 0 then
    { s with cip := { s.cip with gap := mapSet s.cip.gap (r.unit * 16 + r.tile) (max 1 (getF s (F.CIPC_URGENT_GAP r.unit))) 0 } }
  else s

/-! ## END -/

/-- The outcome is delivered to the queue manager: the command is done, its window entry DONE; the tile is clear (R125, R192, R196, R225). -/
def deliver (s : State) (t : TagEntry) (out : Outcome) : State :=
  let s := updTag s t.tag (fun x => { x with done := some out, staged := none })
  let s := if inWindow t then winDone s (seDomain t.entry) (seReqId t.entry) out else s
  settle s

/-- What the END gives: with output whose write fails DMA_ERROR and no effect (R133). -/
def endWrites (s : State) (t : TagEntry) (r : RouteAt) (e : Effect) (ledgerOk memFail outOk : Bool) (o : Outcome) : State × Outcome :=
  let p := endEffect s t (endBody s r e) ledgerOk memFail (endOutcome s t r o)
  if !outOk && !t.drop && !p.2.output.isEmpty then (s, endResult s t r (outStatus stDMA_ERROR)) else (p.1, endResult p.1 t r p.2)

/-- The END of a route with what it staged. -/
def routeEnd (s : State) (t : TagEntry) (r : RouteAt) (o : Outcome) (e : Effect) (ledgerOk memFail outOk : Bool) : State :=
  let (s, out) := endWrites s t r e ledgerOk memFail outOk o
  countScf (spendAllowance (deliver s t out) r) t r out

/-- Whether a route must wait before its END: slot 0 while slot 1 runs on its tile (R237), a deletion or restriction while a command holds
the key (R209). -/
def endWaits (s : State) (r : RouteAt) (e : Effect) : Bool :=
  (r.cls = 2 && r.slot = 0 && routeOn s 2 r.unit r.tile 1)
    || (r.also.map (fun a => routeOn s 2 a.unit a.tile 1)).getD false
    || (match e with
        | .deleteKey h => keyHeld s h
        | .restrictKey h _ _ _ => keyHeld s h
        | _ => false)

/-- ROUTE_END: a running route reaches its END step (R123, R196). `outOk`: its output, where it has any, is written. -/
def execRouteEnd (tag : Nat) (ledgerOk : Bool) (p : EndOut) (s : State) : Res :=
  .next (match (findTag s tag).filter running with
    | none => s
    | some t =>
      match t.route, t.staged with
      | some r, some (o, e) => if endWaits s r e then s else routeEnd s t r o e ledgerOk p.memFail p.outOk
      | _, _ => s)

end Sys2Proof.Machine
end

