-- ==== Sys2Proof/Machine/Dispatch.lean ====
section
/-!
DEFINITION. Dispatch.lean: one arm for each command.
-/
namespace Sys2Proof.Machine

def exec (i : Instr) (s : State) : Host.Outcome State Fault Refusal :=
  match i with
  | .mainPowerGood p => Sys2Proof.Machine.execMainPowerGood p s
  | .mainPowerGoodWithdrawn => Sys2Proof.Machine.execMainPowerGoodWithdrawn s
  | .cellPowerOn vbat main => Sys2Proof.Machine.execCellPowerOn vbat main s
  | .hostLeg h => Sys2Proof.Machine.execHostLeg h s
  | .landauLeg l => Sys2Proof.Machine.execLandauLeg l s
  | .sysctlReleaseOpen v ledgerOk => Sys2Proof.Machine.execSysctlReleaseOpen v ledgerOk s
  | .deviceReset c => Sys2Proof.Machine.execDeviceReset c s
  | .landauRebuild => Sys2Proof.Machine.execLandauRebuild s
  | .pcieFundamentalReset => Sys2Proof.Machine.execPcieFundamentalReset s
  | .pePerstNRise => Sys2Proof.Machine.execPePerstNRise s
  | .linkTrained width speed ltssm => Sys2Proof.Machine.execLinkTrained width speed ltssm s
  | .fuseProgram v => Sys2Proof.Machine.execFuseProgram v s
  | .fuseProgramDone => Sys2Proof.Machine.execFuseProgramDone s
  | .registerWrite blk off p => Sys2Proof.Machine.execRegisterWrite blk off p s
  | .paceWindow counts => Sys2Proof.Machine.execPaceWindow counts s
  | .modeChange v => Sys2Proof.Machine.execModeChange v s
  | .modeChangeRoutesFinished mv phyFail => Sys2Proof.Machine.execModeChangeRoutesFinished mv phyFail s
  | .structBegin key => Sys2Proof.Machine.execStructBegin key s
  | .structSelWrite v => Sys2Proof.Machine.execStructSelWrite v s
  | .structDataWrite v => Sys2Proof.Machine.execStructDataWrite v s
  | .structCommit key => Sys2Proof.Machine.execStructCommit key s
  | .structAbandon key => Sys2Proof.Machine.execStructAbandon key s
  | .structCheckEnd ledgerOk => Sys2Proof.Machine.execStructCheckEnd ledgerOk s
  | .amendCommit key => Sys2Proof.Machine.execAmendCommit key s
  | .amendCheckEnd => Sys2Proof.Machine.execAmendCheckEnd s
  | .structDrain v => Sys2Proof.Machine.execStructDrain v s
  | .drainDone => Sys2Proof.Machine.execDrainDone s
  | .drainTimeout tag unit tile => Sys2Proof.Machine.execDrainTimeout tag unit tile s
  | .sqTailDoorbell fn qid p => Sys2Proof.Machine.execSqTailDoorbell fn qid p s
  | .cqHeadDoorbell fn qid p => Sys2Proof.Machine.execCqHeadDoorbell fn qid p s
  | .sqEntryFetch fn qid tag entry => Sys2Proof.Machine.execSqEntryFetch fn qid tag entry s
  | .commandHandoff tag core => Sys2Proof.Machine.execCommandHandoff tag core s
  | .routeEnd tag ledgerOk p => Sys2Proof.Machine.execRouteEnd tag ledgerOk p s
  | .completionPost tag writeOk => Sys2Proof.Machine.execCompletionPost tag writeOk s
  | .interruptCoalesceTimer fn qid => Sys2Proof.Machine.execInterruptCoalesceTimer fn qid s
  | .adminEnable p => Sys2Proof.Machine.execAdminEnable p s
  | .adminReady fn => Sys2Proof.Machine.execAdminReady fn s
  | .adminDisable p => Sys2Proof.Machine.execAdminDisable p s
  | .nop form => Sys2Proof.Machine.execNop form s
  | .identify p => Sys2Proof.Machine.execIdentify p s
  | .abort tag => Sys2Proof.Machine.execAbort tag s
  | .createQp tag => Sys2Proof.Machine.execCreateQp tag s
  | .deleteQp tag => Sys2Proof.Machine.execDeleteQp tag s
  | .deleteQpComplete tag => Sys2Proof.Machine.execDeleteQpComplete tag s
  | .getStatus p => Sys2Proof.Machine.execGetStatus p s
  | .functionLevelReset fn => Sys2Proof.Machine.execFunctionLevelReset fn s
  | .vfEnableClear => Sys2Proof.Machine.execVfEnableClear s
  | .busMasterEnableClear fn => Sys2Proof.Machine.execBusMasterEnableClear fn s
  | .doeDataObject vendor typ payload => Sys2Proof.Machine.execDoeDataObject vendor typ payload s
  | .ideTlpFailure => Sys2Proof.Machine.execIdeTlpFailure s
  | .keyGenerate r => Sys2Proof.Machine.execKeyGenerate r s
  | .keyImport r => Sys2Proof.Machine.execKeyImport r s
  | .keyExport r => Sys2Proof.Machine.execKeyExport r s
  | .keyDelete r => Sys2Proof.Machine.execKeyDelete r s
  | .keyInfo r => Sys2Proof.Machine.execKeyInfo r s
  | .keyRestrict r => Sys2Proof.Machine.execKeyRestrict r s
  | .pubkeyEnroll r => Sys2Proof.Machine.execPubkeyEnroll r s
  | .pubkeyRead r => Sys2Proof.Machine.execPubkeyRead r s
  | .keyblockImport r => Sys2Proof.Machine.execKeyblockImport r s
  | .keyblockExport r => Sys2Proof.Machine.execKeyblockExport r s
  | .vtableCtrl r => Sys2Proof.Machine.execVtableCtrl r s
  | .vtableBuild handle unit tile => Sys2Proof.Machine.execVtableBuild handle unit tile s
  | .vtableEviction handle => Sys2Proof.Machine.execVtableEviction handle s
  | .snapshotBegin r => Sys2Proof.Machine.execSnapshotBegin r s
  | .snapshotRead r => Sys2Proof.Machine.execSnapshotRead r s
  | .journalRead r => Sys2Proof.Machine.execJournalRead r s
  | .journalAck r => Sys2Proof.Machine.execJournalAck r s
  | .restoreBegin r => Sys2Proof.Machine.execRestoreBegin r s
  | .restoreData r => Sys2Proof.Machine.execRestoreData r s
  | .restoreEnd r => Sys2Proof.Machine.execRestoreEnd r s
  | .domainCreate r => Sys2Proof.Machine.execDomainCreate r s
  | .domainErase r => Sys2Proof.Machine.execDomainErase r s
  | .domainEscrowExport r => Sys2Proof.Machine.execDomainEscrowExport r s
  | .domainEscrowRestore r => Sys2Proof.Machine.execDomainEscrowRestore r s
  | .storeStatus r => Sys2Proof.Machine.execStoreStatus r s
  | .kcacheEvictDomain key domain => Sys2Proof.Machine.execKcacheEvictDomain key domain s
  | .kcacheEvictAll key => Sys2Proof.Machine.execKcacheEvictAll key s
  | .kcacheZeroise key reading => Sys2Proof.Machine.execKcacheZeroise key reading s
  | .hbmcSwap stack v => Sys2Proof.Machine.execHbmcSwap stack v s
  | .hbmcSwapDone stack unread => Sys2Proof.Machine.execHbmcSwapDone stack unread s
  | .ecdsaSign r => Sys2Proof.Machine.execEcdsaSign r s
  | .ecdsaSignMsg r => Sys2Proof.Machine.execEcdsaSignMsg r s
  | .ecdsaVerify r => Sys2Proof.Machine.execEcdsaVerify r s
  | .ecdsaVerifyMsg r => Sys2Proof.Machine.execEcdsaVerifyMsg r s
  | .ecdsaVerifyExt r => Sys2Proof.Machine.execEcdsaVerifyExt r s
  | .ecdhDerive r => Sys2Proof.Machine.execEcdhDerive r s
  | .rsaSign r => Sys2Proof.Machine.execRsaSign r s
  | .rsaVerify r => Sys2Proof.Machine.execRsaVerify r s
  | .rsaEncrypt r => Sys2Proof.Machine.execRsaEncrypt r s
  | .rsaDecrypt r => Sys2Proof.Machine.execRsaDecrypt r s
  | .rsaUnwrap r => Sys2Proof.Machine.execRsaUnwrap r s
  | .pkecCombRefresh cluster => Sys2Proof.Machine.execPkecCombRefresh cluster s
  | .combRebuild cluster => Sys2Proof.Machine.execCombRebuild cluster s
  | .pkecSelftest cluster v => Sys2Proof.Machine.execPkecSelftest cluster v s
  | .pkeSelftestEnd cluster pass => Sys2Proof.Machine.execPkeSelftestEnd cluster pass s
  | .spkeSign slot => Sys2Proof.Machine.execSpkeSign slot s
  | .spkeVerify slot => Sys2Proof.Machine.execSpkeVerify slot s
  | .spkePublicPoint slot => Sys2Proof.Machine.execSpkePublicPoint slot s
  | .spkeOperationEnd check => Sys2Proof.Machine.execSpkeOperationEnd check s
  | .mmul p => Sys2Proof.Machine.execMmul p s
  | .msqr p => Sys2Proof.Machine.execMsqr p s
  | .madd p => Sys2Proof.Machine.execMadd p s
  | .msub p => Sys2Proof.Machine.execMsub p s
  | .mred p => Sys2Proof.Machine.execMred p s
  | .setmod p => Sys2Proof.Machine.execSetmod p s
  | .pkeCsel p => Sys2Proof.Machine.execPkeCsel p s
  | .pkeCeq p => Sys2Proof.Machine.execPkeCeq p s
  | .crange p => Sys2Proof.Machine.execCrange p s
  | .padd p => Sys2Proof.Machine.execPadd p s
  | .paddj p => Sys2Proof.Machine.execPaddj p s
  | .pdbl p => Sys2Proof.Machine.execPdbl p s
  | .minv p => Sys2Proof.Machine.execMinv p s
  | .split p => Sys2Proof.Machine.execSplit p s
  | .pkeRefresh p => Sys2Proof.Machine.execPkeRefresh p s
  | .pkeRand p => Sys2Proof.Machine.execPkeRand p s
  | .sblind p => Sys2Proof.Machine.execSblind p s
  | .pvalid p => Sys2Proof.Machine.execPvalid p s
  | .mexpw p => Sys2Proof.Machine.execMexpw p s
  | .encode p => Sys2Proof.Machine.execEncode p s
  | .decode p => Sys2Proof.Machine.execDecode p s
  | .andf p => Sys2Proof.Machine.execAndf p s
  | .pkeMove p => Sys2Proof.Machine.execPkeMove p s
  | .pkeKcload p => Sys2Proof.Machine.execPkeKcload p s
  | .combrd p err => Sys2Proof.Machine.execCombrd p err s
  | .vtrd p => Sys2Proof.Machine.execVtrd p s
  | .pkeInrd p bytes => Sys2Proof.Machine.execPkeInrd p bytes s
  | .pkeOutst p => Sys2Proof.Machine.execPkeOutst p s
  | .kout p => Sys2Proof.Machine.execKout p s
  | .hashin p c => Sys2Proof.Machine.execHashin p c s
  | .hashout p => Sys2Proof.Machine.execHashout p s
  | .tokenWait cls unit => Sys2Proof.Machine.execTokenWait cls unit s
  | .cipherEncrypt r => Sys2Proof.Machine.execCipherEncrypt r s
  | .cipherDecrypt r => Sys2Proof.Machine.execCipherDecrypt r s
  | .macGenerate r => Sys2Proof.Machine.execMacGenerate r s
  | .macVerify r => Sys2Proof.Machine.execMacVerify r s
  | .hash r => Sys2Proof.Machine.execHash r s
  | .streamEncrypt r => Sys2Proof.Machine.execStreamEncrypt r s
  | .cipherEncryptM r => Sys2Proof.Machine.execCipherEncryptM r s
  | .cipherDecryptM r => Sys2Proof.Machine.execCipherDecryptM r s
  | .macGenerateM r => Sys2Proof.Machine.execMacGenerateM r s
  | .macVerifyM r => Sys2Proof.Machine.execMacVerifyM r s
  | .pinTranslate r => Sys2Proof.Machine.execPinTranslate r s
  | .pinTranslateDukpt r => Sys2Proof.Machine.execPinTranslateDukpt r s
  | .pinCompare r => Sys2Proof.Machine.execPinCompare r s
  | .dukptData r => Sys2Proof.Machine.execDukptData r s
  | .emvArqc r => Sys2Proof.Machine.execEmvArqc r s
  | .pinTranslateM r => Sys2Proof.Machine.execPinTranslateM r s
  | .pinTranslateDukptM r => Sys2Proof.Machine.execPinTranslateDukptM r s
  | .pinCompareM r => Sys2Proof.Machine.execPinCompareM r s
  | .dukptDataM r => Sys2Proof.Machine.execDukptDataM r s
  | .emvArqcM r => Sys2Proof.Machine.execEmvArqcM r s
  | .cipcLockHold cluster tile v => Sys2Proof.Machine.execCipcLockHold cluster tile v s
  | .cipcSelftest cluster v => Sys2Proof.Machine.execCipcSelftest cluster v s
  | .cipSelftestEnd cluster pass => Sys2Proof.Machine.execCipSelftestEnd cluster pass s
  | .aesk p => Sys2Proof.Machine.execAesk p s
  | .aese p => Sys2Proof.Machine.execAese p s
  | .aesd p => Sys2Proof.Machine.execAesd p s
  | .desk p => Sys2Proof.Machine.execDesk p s
  | .dese p => Sys2Proof.Machine.execDese p s
  | .desd p => Sys2Proof.Machine.execDesd p s
  | .cipXor p => Sys2Proof.Machine.execCipXor p s
  | .ctrb p => Sys2Proof.Machine.execCtrb p s
  | .mula p => Sys2Proof.Machine.execMula p s
  | .ghash p => Sys2Proof.Machine.execGhash p s
  | .shai p => Sys2Proof.Machine.execShai p s
  | .shac p => Sys2Proof.Machine.execShac p s
  | .shaf p tail => Sys2Proof.Machine.execShaf p tail s
  | .pindec p => Sys2Proof.Machine.execPindec p s
  | .pinenc p => Sys2Proof.Machine.execPinenc p s
  | .cipRand p => Sys2Proof.Machine.execCipRand p s
  | .cipCeq p => Sys2Proof.Machine.execCipCeq p s
  | .cipCsel p => Sys2Proof.Machine.execCipCsel p s
  | .cipRefresh p => Sys2Proof.Machine.execCipRefresh p s
  | .trunc p => Sys2Proof.Machine.execTrunc p s
  | .blocks p => Sys2Proof.Machine.execBlocks p s
  | .cipKcload p => Sys2Proof.Machine.execCipKcload p s
  | .cipInrd p bytes => Sys2Proof.Machine.execCipInrd p bytes s
  | .cipOutst p => Sys2Proof.Machine.execCipOutst p s
  | .pkout p => Sys2Proof.Machine.execPkout p s
  | .pkin p c => Sys2Proof.Machine.execPkin p c s
  | .gcmEnc slot => Sys2Proof.Machine.execGcmEnc slot s
  | .gcmDec slot => Sys2Proof.Machine.execGcmDec slot s
  | .sha384 slot => Sys2Proof.Machine.execSha384 slot s
  | .hmac384 slot => Sys2Proof.Machine.execHmac384 slot s
  | .hkdf slot => Sys2Proof.Machine.execHkdf slot s
  | .deriveSrk slot => Sys2Proof.Machine.execDeriveSrk slot s
  | .unwrapDmk slot => Sys2Proof.Machine.execUnwrapDmk slot s
  | .load slot => Sys2Proof.Machine.execLoad slot s
  | .sciphOperationEnd => Sys2Proof.Machine.execSciphOperationEnd s
  | .randomBytes r => Sys2Proof.Machine.execRandomBytes r s
  | .rngStatus r => Sys2Proof.Machine.execRngStatus r s
  | .seedBlock raw0 raw1 at_ => Sys2Proof.Machine.execSeedBlock raw0 raw1 at_ s
  | .seedDelivery => Sys2Proof.Machine.execSeedDelivery s
  | .rngStall inst => Sys2Proof.Machine.execRngStall inst s
  | .biasWindow src early late => Sys2Proof.Machine.execBiasWindow src early late s
  | .maskStreamRekey cluster tile => Sys2Proof.Machine.execMaskStreamRekey cluster tile s
  | .rngStatusRefresh => Sys2Proof.Machine.execRngStatusRefresh s
  | .rngDataRead => Sys2Proof.Machine.execRngDataRead s
  | .rngRawRead => Sys2Proof.Machine.execRngRawRead s
  | .hostspiMeasure => Sys2Proof.Machine.execHostspiMeasure s
  | .measurementPassEnd p => Sys2Proof.Machine.execMeasurementPassEnd p s
  | .hostspiRelease => Sys2Proof.Machine.execHostspiRelease s
  | .hostspiLoad => Sys2Proof.Machine.execHostspiLoad s
  | .hostFlashTransaction t => Sys2Proof.Machine.execHostFlashTransaction t s
  | .hostReset ns => Sys2Proof.Machine.execHostReset ns s
  | .ledgerMirror ok => Sys2Proof.Machine.execLedgerMirror ok s
  | .ledgerRead r => Sys2Proof.Machine.execLedgerRead r s
  | .ledgerStatus r => Sys2Proof.Machine.execLedgerStatus r s
  | .attestQuote r => Sys2Proof.Machine.execAttestQuote r s
  | .certRead r => Sys2Proof.Machine.execCertRead r s
  | .hostFlashAuth r => Sys2Proof.Machine.execHostFlashAuth r s
  | .hostBootSelect r => Sys2Proof.Machine.execHostBootSelect r s
  | .lifecycle r => Sys2Proof.Machine.execLifecycle r s
  | .getVersion doe => Sys2Proof.Machine.execGetVersion doe s
  | .getCapabilities doe => Sys2Proof.Machine.execGetCapabilities doe s
  | .negotiateAlgorithms doe offer => Sys2Proof.Machine.execNegotiateAlgorithms doe offer s
  | .getDigests doe => Sys2Proof.Machine.execGetDigests doe s
  | .getCertificate doe slot off len => Sys2Proof.Machine.execGetCertificate doe slot off len s
  | .challenge doe slot => Sys2Proof.Machine.execChallenge doe slot s
  | .getMeasurements doe index signed => Sys2Proof.Machine.execGetMeasurements doe index signed s
  | .keyExchange doe slot pub => Sys2Proof.Machine.execKeyExchange doe slot pub s
  | .finish session macOk => Sys2Proof.Machine.execFinish session macOk s
  | .heartbeat session macOk => Sys2Proof.Machine.execHeartbeat session macOk s
  | .keyUpdate session macOk => Sys2Proof.Machine.execKeyUpdate session macOk s
  | .endSession session macOk => Sys2Proof.Machine.execEndSession session macOk s
  | .vendorDefinedRequest session macOk ideKm => Sys2Proof.Machine.execVendorDefinedRequest session macOk ideKm s
  | .clStatus r => Sys2Proof.Machine.execClStatus r s
  | .clMemberRequest r => Sys2Proof.Machine.execClMemberRequest r s
  | .clFound r => Sys2Proof.Machine.execClFound r s
  | .clIssue r => Sys2Proof.Machine.execClIssue r s
  | .clEndorse r => Sys2Proof.Machine.execClEndorse r s
  | .clApplyEpoch r => Sys2Proof.Machine.execClApplyEpoch r s
  | .clMemberRead r => Sys2Proof.Machine.execClMemberRead r s
  | .clSealBundle r => Sys2Proof.Machine.execClSealBundle r s
  | .clHandover r => Sys2Proof.Machine.execClHandover r s
  | .clApplyBundle r => Sys2Proof.Machine.execClApplyBundle r s
  | .clReplay r => Sys2Proof.Machine.execClReplay r s
  | .pairedWord core f g bit15 fails => Sys2Proof.Machine.execPairedWord core f g bit15 fails s
  | .move insn => Sys2Proof.Machine.execMove insn s
  | .ext insn => Sys2Proof.Machine.execExt insn s
  | .lea insn => Sys2Proof.Machine.execLea insn s
  | .clr insn => Sys2Proof.Machine.execClr insn s
  | .push insn => Sys2Proof.Machine.execPush insn s
  | .pop insn => Sys2Proof.Machine.execPop insn s
  | .add insn => Sys2Proof.Machine.execAdd insn s
  | .addc insn => Sys2Proof.Machine.execAddc insn s
  | .sub insn => Sys2Proof.Machine.execSub insn s
  | .subc insn => Sys2Proof.Machine.execSubc insn s
  | .cmp insn => Sys2Proof.Machine.execCmp insn s
  | .neg insn => Sys2Proof.Machine.execNeg insn s
  | .mul insn => Sys2Proof.Machine.execMul insn s
  | .mulh insn => Sys2Proof.Machine.execMulh insn s
  | .mulhs insn => Sys2Proof.Machine.execMulhs insn s
  | .div insn => Sys2Proof.Machine.execDiv insn s
  | .divs insn => Sys2Proof.Machine.execDivs insn s
  | .rem insn => Sys2Proof.Machine.execRem insn s
  | .rems insn => Sys2Proof.Machine.execRems insn s
  | .and insn => Sys2Proof.Machine.execAnd insn s
  | .or insn => Sys2Proof.Machine.execOr insn s
  | .xor insn => Sys2Proof.Machine.execXor insn s
  | .not insn => Sys2Proof.Machine.execNot insn s
  | .tst insn => Sys2Proof.Machine.execTst insn s
  | .shl insn => Sys2Proof.Machine.execShl insn s
  | .shr insn => Sys2Proof.Machine.execShr insn s
  | .sar insn => Sys2Proof.Machine.execSar insn s
  | .rol insn => Sys2Proof.Machine.execRol insn s
  | .ror insn => Sys2Proof.Machine.execRor insn s
  | .clz insn => Sys2Proof.Machine.execClz insn s
  | .popc insn => Sys2Proof.Machine.execPopc insn s
  | .bswap insn => Sys2Proof.Machine.execBswap insn s
  | .csel insn => Sys2Proof.Machine.execCsel insn s
  | .cteq insn => Sys2Proof.Machine.execCteq insn s
  | .ctlt insn => Sys2Proof.Machine.execCtlt insn s
  | .ctmask insn => Sys2Proof.Machine.execCtmask insn s
  | .ctbeq insn => Sys2Proof.Machine.execCtbeq insn s
  | .jmp insn => Sys2Proof.Machine.execJmp insn s
  | .call insn => Sys2Proof.Machine.execCall insn s
  | .ret insn => Sys2Proof.Machine.execRet insn s
  | .loop insn => Sys2Proof.Machine.execLoop insn s
  | .swapa insn => Sys2Proof.Machine.execSwapa insn s
  | .cas insn => Sys2Proof.Machine.execCas insn s
  | .fadd insn => Sys2Proof.Machine.execFadd insn s
  | .bmove insn => Sys2Proof.Machine.execBmove insn s
  | .bfill insn => Sys2Proof.Machine.execBfill insn s
  | .trap insn => Sys2Proof.Machine.execTrap insn s
  | .gate insn => Sys2Proof.Machine.execGate insn s
  | .rte insn => Sys2Proof.Machine.execRte insn s
  | .lseg insn => Sys2Proof.Machine.execLseg insn s
  | .sseg insn => Sys2Proof.Machine.execSseg insn s
  | .mask insn => Sys2Proof.Machine.execMask insn s
  | .wait insn => Sys2Proof.Machine.execWait insn s
  | .fence insn => Sys2Proof.Machine.execFence insn s
  | .mfps insn => Sys2Proof.Machine.execMfps insn s
  | .mtf insn => Sys2Proof.Machine.execMtf insn s
  | .mfcr insn => Sys2Proof.Machine.execMfcr insn s
  | .mtcr insn => Sys2Proof.Machine.execMtcr insn s
  | .wstart core v => Sys2Proof.Machine.execWstart core v s
  | .swi core v => Sys2Proof.Machine.execSwi core v s
  | .interruptEntry core => Sys2Proof.Machine.execInterruptEntry core s
  | .lockstepMismatch => Sys2Proof.Machine.execLockstepMismatch s
  | .mpuSync landau masters => Sys2Proof.Machine.execMpuSync landau masters s
  | .mpuSyncApply landau => Sys2Proof.Machine.execMpuSyncApply landau s
  | .mpuViolClear landau => Sys2Proof.Machine.execMpuViolClear landau s
  | .arbiterDecision arb req => Sys2Proof.Machine.execArbiterDecision arb req s
  | .program w => Sys2Proof.Machine.execProgram w s
  | .erase w => Sys2Proof.Machine.execErase w s
  | .eraseRange w => Sys2Proof.Machine.execEraseRange w s
  | .check w => Sys2Proof.Machine.execCheck w s
  | .retire w => Sys2Proof.Machine.execRetire w s
  | .suspend w => Sys2Proof.Machine.execSuspend w s
  | .resume w => Sys2Proof.Machine.execResume w s
  | .flashOperationEnd e => Sys2Proof.Machine.execFlashOperationEnd e s
  | .tamperEvent tripsA tripsB => Sys2Proof.Machine.execTamperEvent tripsA tripsB s
  | .monitorDisagree src => Sys2Proof.Machine.execMonitorDisagree src s
  | .loop0Measurement ohms => Sys2Proof.Machine.execLoop0Measurement ohms s
  | .loop1Code code late => Sys2Proof.Machine.execLoop1Code code late s
  | .tamperHoldEnd => Sys2Proof.Machine.execTamperHoldEnd s
  | .zall key => Sys2Proof.Machine.execZall key s
  | .zeroiseAllComplete => Sys2Proof.Machine.execZeroiseAllComplete s
  | .bkgen key => Sys2Proof.Machine.execBkgen key s
  | .zdone key => Sys2Proof.Machine.execZdone key s
  | .unlock key => Sys2Proof.Machine.execUnlock key s
  | .cfgLock => Sys2Proof.Machine.execCfgLock s
  | .tamperSelftest v => Sys2Proof.Machine.execTamperSelftest v s
  | .tamperSelftestEnd tripped cleared => Sys2Proof.Machine.execTamperSelftestEnd tripped cleared s
  | .tamperForce v => Sys2Proof.Machine.execTamperForce v s
  | .tamperCelllogRead => Sys2Proof.Machine.execTamperCelllogRead s
  | .faultReport r => Sys2Proof.Machine.execFaultReport r s
  | .safeStateCut => Sys2Proof.Machine.execSafeStateCut s
  | .quietPeriodExpiry cleared => Sys2Proof.Machine.execQuietPeriodExpiry cleared s
  | .fcollHeartbeatLoss => Sys2Proof.Machine.execFcollHeartbeatLoss s
  | .routeTimeout p unit tile => Sys2Proof.Machine.execRouteTimeout p unit tile s
  | .retireAck key => Sys2Proof.Machine.execRetireAck key s
  | .exit key => Sys2Proof.Machine.execExit key s
  | .rclr key => Sys2Proof.Machine.execRclr key s
  | .fcollForce v => Sys2Proof.Machine.execFcollForce v s
  | .hbmRowRepair stack pc row left uncorr => Sys2Proof.Machine.execHbmRowRepair stack pc row left uncorr s
  | .drawbarLaneSwap dir lane errors => Sys2Proof.Machine.execDrawbarLaneSwap dir lane errors s
  | .mergeWindowExpiry => Sys2Proof.Machine.execMergeWindowExpiry s
  | .batchProgram => Sys2Proof.Machine.execBatchProgram s
  | .evrecSw v => Sys2Proof.Machine.execEvrecSw v s
  | .evrecFreeze on => Sys2Proof.Machine.execEvrecFreeze on s
  | .timekeepSecond => Sys2Proof.Machine.execTimekeepSecond s
  | .rtcSet v => Sys2Proof.Machine.execRtcSet v s
  | .oscFail => Sys2Proof.Machine.execOscFail s
  | .grantCycle demands => Sys2Proof.Machine.execGrantCycle demands s
  | .grantRefreshLoss d => Sys2Proof.Machine.execGrantRefreshLoss d s
  | .powerWindow deci => Sys2Proof.Machine.execPowerWindow deci s
  | .thermalReading landau gecko hbms => Sys2Proof.Machine.execThermalReading landau gecko hbms s
  | .pwrarbDomctrl v => Sys2Proof.Machine.execPwrarbDomctrl v s
  | .vidAlert good holds => Sys2Proof.Machine.execVidAlert good holds s
  | .railPgFall rail => Sys2Proof.Machine.execRailPgFall rail s
  | .activate port => Sys2Proof.Machine.execActivate port s
  | .exchange port => Sys2Proof.Machine.execExchange port s
  | .deactivate port => Sys2Proof.Machine.execDeactivate port s
  | .warmReset port => Sys2Proof.Machine.execWarmReset port s
  | .cardOperationEnd port e => Sys2Proof.Machine.execCardOperationEnd port e s
  | .cardInsertion port => Sys2Proof.Machine.execCardInsertion port s
  | .cardRemoval port => Sys2Proof.Machine.execCardRemoval port s
  | .cardOvercurrent port => Sys2Proof.Machine.execCardOvercurrent port s
  | .quorumSessionExpiry => Sys2Proof.Machine.execQuorumSessionExpiry s
  | .sdInsertion card initOk => Sys2Proof.Machine.execSdInsertion card initOk s
  | .sdRemoval afterToken => Sys2Proof.Machine.execSdRemoval afterToken s
  | .sdhWrite => Sys2Proof.Machine.execSdhWrite s
  | .sdhRead => Sys2Proof.Machine.execSdhRead s
  | .forceErase key => Sys2Proof.Machine.execForceErase key s
  | .setLock => Sys2Proof.Machine.execSetLock s
  | .sdhUnlock => Sys2Proof.Machine.execSdhUnlock s
  | .powerOff => Sys2Proof.Machine.execPowerOff s
  | .sdhOperationEnd e => Sys2Proof.Machine.execSdhOperationEnd e s
  | .fieldAppears => Sys2Proof.Machine.execFieldAppears s
  | .fieldAbsent => Sys2Proof.Machine.execFieldAbsent s
  | .inventory q slots16 len mask afi => Sys2Proof.Machine.execInventory q slots16 len mask afi s
  | .stayQuiet q => Sys2Proof.Machine.execStayQuiet q s
  | .readSingleBlock q ext block => Sys2Proof.Machine.execReadSingleBlock q ext block s
  | .writeSingleBlock q ext block data w => Sys2Proof.Machine.execWriteSingleBlock q ext block data w s
  | .readMultipleBlocks q ext first count => Sys2Proof.Machine.execReadMultipleBlocks q ext first count s
  | .writeMultipleBlocks q ext first count data w => Sys2Proof.Machine.execWriteMultipleBlocks q ext first count data w s
  | .select q => Sys2Proof.Machine.execSelect q s
  | .resetToReady q => Sys2Proof.Machine.execResetToReady q s
  | .getSystemInformation q ext => Sys2Proof.Machine.execGetSystemInformation q ext s
  | .tagRequestUnsupported q code mfr => Sys2Proof.Machine.execTagRequestUnsupported q code mfr s
  | .ledgerSummaryRead q mfr first count => Sys2Proof.Machine.execLedgerSummaryRead q mfr first count s
  | .privacyInventory q mfr slots16 len mask w => Sys2Proof.Machine.execPrivacyInventory q mfr slots16 len mask w s
  | .serviceIntentWrite q mfr data w => Sys2Proof.Machine.execServiceIntentWrite q mfr data w s
  | .handlePoolRefill => Sys2Proof.Machine.execHandlePoolRefill s
  | .intentRecording => Sys2Proof.Machine.execIntentRecording s
  | .tagWrite w => Sys2Proof.Machine.execTagWrite w s
  | .tagErase w => Sys2Proof.Machine.execTagErase w s
  | .tagOperationEnd e => Sys2Proof.Machine.execTagOperationEnd e s
  | .dynamicAddressAssignment addr => Sys2Proof.Machine.execDynamicAddressAssignment addr s
  | .fallbackTimeout => Sys2Proof.Machine.execFallbackTimeout s
  | .mctpPacket p => Sys2Proof.Machine.execMctpPacket p s
  | .setEndpointId inst op eid => Sys2Proof.Machine.execSetEndpointId inst op eid s
  | .getEndpointId inst => Sys2Proof.Machine.execGetEndpointId inst s
  | .getEndpointUuid inst => Sys2Proof.Machine.execGetEndpointUuid inst s
  | .getMctpVersionSupport inst typ => Sys2Proof.Machine.execGetMctpVersionSupport inst typ s
  | .getMessageTypeSupport inst => Sys2Proof.Machine.execGetMessageTypeSupport inst s
  | .getVendorDefinedMessageSupport inst sel => Sys2Proof.Machine.execGetVendorDefinedMessageSupport inst sel s
  | .status msg => Sys2Proof.Machine.execStatus msg s
  | .sbLedgerRead msg => Sys2Proof.Machine.execSbLedgerRead msg s
  | .eventRead msg => Sys2Proof.Machine.execEventRead msg s
  | .recoveryWrite msg => Sys2Proof.Machine.execRecoveryWrite msg s
  | .imageStage msg => Sys2Proof.Machine.execImageStage msg s
  | .imageCommit msg => Sys2Proof.Machine.execImageCommit msg s
  | .remeasure msg => Sys2Proof.Machine.execRemeasure msg s
  | .sbHostFlashAuth msg ledgerOk => Sys2Proof.Machine.execSbHostFlashAuth msg ledgerOk s
  | .sbLifecycle msg ledgerOk => Sys2Proof.Machine.execSbLifecycle msg ledgerOk s
  | .quorumCancel msg => Sys2Proof.Machine.execQuorumCancel msg s
  | .sbUnlock msg => Sys2Proof.Machine.execSbUnlock msg s
  | .csetReplace msg => Sys2Proof.Machine.execCsetReplace msg s
  | .cardErase msg => Sys2Proof.Machine.execCardErase msg s
  | .tagOwnerErase msg => Sys2Proof.Machine.execTagOwnerErase msg s
  | .linkTest msg lock => Sys2Proof.Machine.execLinkTest msg lock s
  | .linkResult msg => Sys2Proof.Machine.execLinkResult msg s
  | .patternTestStart land v lock => Sys2Proof.Machine.execPatternTestStart land v lock s
  | .patternTestStop land bits errs => Sys2Proof.Machine.execPatternTestStop land bits errs s
  | .patternTestEnd bits errs => Sys2Proof.Machine.execPatternTestEnd bits errs s
  | .sidebSend v => Sys2Proof.Machine.execSidebSend v s
  | .sidebRxdataRead => Sys2Proof.Machine.execSidebRxdataRead s
  | .sidebTxdataWrite v => Sys2Proof.Machine.execSidebTxdataWrite v s
  | .cardDataAccess port w => Sys2Proof.Machine.execCardDataAccess port w s
  | .idcode => Sys2Proof.Machine.execIdcode s
  | .bypass => Sys2Proof.Machine.execBypass s
  | .samplePreload => Sys2Proof.Machine.execSamplePreload s
  | .extest => Sys2Proof.Machine.execExtest s
  | .extestPulse => Sys2Proof.Machine.execExtestPulse s
  | .extestTrain => Sys2Proof.Machine.execExtestTrain s
  | .highz => Sys2Proof.Machine.execHighz s
  | .dbgmbox acc => Sys2Proof.Machine.execDbgmbox acc s
  | .submit => Sys2Proof.Machine.execSubmit s
  | .grant v => Sys2Proof.Machine.execGrant v s
  | .refuse v => Sys2Proof.Machine.execRefuse v s
  | .debugHalt core => Sys2Proof.Machine.execDebugHalt core s
  | .startupTestEnd src raw at_ => Sys2Proof.Machine.execStartupTestEnd src raw at_ s
  | .cellSupplyLoss => Sys2Proof.Machine.execCellSupplyLoss s
  | .tamperSourceClear src => Sys2Proof.Machine.execTamperSourceClear src s
  | .wcoreCtrlSplit => Sys2Proof.Machine.execWcoreCtrlSplit s
  | .srcEn v => Sys2Proof.Machine.execSrcEn v s

end Sys2Proof.Machine
end

