-- ==== Sys2Proof/Safety.lean ====
section
/-!
DEFINITION. Safety.lean: what counts as a safe run of the L9, in the terms claims use.
-/
namespace Sys2Proof.Machine

/-- The canonical form of what State holds sparsely: the register store lists its fields by rising key, and the addressed memories list no
cell that reads the same unlisted. -/
def Canonical (s : State) : Prop := keysRise s.regs = true ∧ Memory.wf s.mem = true

/-- Every fuse bit that `w` has programmed, `v` has programmed, those a request names and the evidence: fuses are one-way. -/
def fuseLe (w v : FuseBits) : Prop :=
  (∀ target index, burned w target index = true → burned v target index = true)
    ∧ ∀ i, w.evidence.getLsbD i = true → v.evidence.getLsbD i = true

/-- What a run from `s` to `t` may never do: unprogram a fuse. -/
def OneWay (s t : State) : Prop := fuseLe s.fuse.arr t.fuse.arr

end Sys2Proof.Machine
end

