-- ==== Sys2Proof/WellFormed.lean ====
section
/-!
DEFINITION. WellFormed.lean: which operands a command of the L9 can have. A meaning runs on any operands (log entry 5); these checks say which
the hardware can meet.
-/
namespace Sys2Proof

/-- A read of the fuses gives the eight words of ARB (R62). -/
def FuseBits.wf (f : FuseBits) : Bool := f.arb.length = 8

/-- What the three reads misread are bits of the fuses (R46). -/
def PowerGood.wf (p : PowerGood) : Bool := p.miss1.wf && p.miss2.wf && p.miss3.wf

/-- Four stacks train; parts that fail are tiles of the 24 clusters; code lies within a group's instruction SRAM (R51, R369). -/
def LandauIn.wf (l : LandauIn) : Bool :=
  l.hbm.length = 4 && l.badParts.all (fun p => (p.1 = 1 && p.2.1 < 16 || p.1 = 2 && p.2.1 < 8) && p.2.2 < 9)
    && l.code.all (fun e => e.1 + e.2.length ≤ 0x100000)

/-- A report names its code, unit and part in a byte each (R479). -/
def Report.wf (r : Report) : Bool := r.code < 256 && r.unit < 256 && r.part < 256

/-- A protected read fails with one of the kinds of R163, on a line of a stack. -/
def MemFail.wf (m : MemFail) : Bool := m.stack < 4

/-- A command of the queues has one of the 16,384 tags; what it runs on is a tile, or a context slot of one (R118, R90). -/
def Run.wf (r : Run) : Bool := r.tag < 16384 && r.unit < 20 && r.tile < 9 && r.slot < 2 && r.unit2 < 8 && r.tile2 < 9 && r.fails.all MemFail.wf

/-- A pass gives at most one digest a region and copy (R278). -/
def PassEnd.wf (p : PassEnd) : Bool := p.prim.length ≤ 8 && p.rcv.length ≤ 8

/-- A card has a 16-byte CID, a password of at most 16 bytes, and blocks of 512 bytes within its capacity (R545). -/
def SdCard.wf (c : SdCard) : Bool :=
  c.cid.length = 16 && ((c.pwd.map (fun p => decide (p.length ≤ 16))).getD true)
    && c.blocks.all (fun e => e.1 < c.cap && e.2.length = 512)

/-- The numbers of a list rise strictly. -/
def risesFrom : Nat → List Nat → Bool
  | _, [] => true
  | a, b :: t => decide (a ≤ b) && risesFrom (b + 1) t

/-- A flash operation gives each line one count (R440). -/
def FlashEnd.wf (e : FlashEnd) : Bool := risesFrom 0 (e.counts.map (fun x => x.1))

/-- A mode that takes no extension word has none; the head leaves room for seven specifiers at most (R355, R357). -/
def LongInsn.wf (i : LongInsn) : Bool := i.specs.length ≤ 7 && i.fails.all MemFail.wf

/-- An MCTP payload is at most the longest transmission unit (R571). -/
def MctpPkt.wf (p : MctpPkt) : Bool := p.payload.length ≤ 256

/-- A sideband message is 1 to 4,096 bytes (R571). -/
def msgWf (m : Bytes) : Bool := 1 ≤ m.length && m.length ≤ 4096

/-- A function is the PF or one of 63 VFs; a queue pair one of 4,096 (R100, R103). -/
def pairWf (fn qid : Nat) : Bool := fn < 64 && qid < 4096

/-- A tag is one of 16,384 (R118). -/
def tagWf (tag : Nat) : Bool := tag < 16384

/-- A part that a route runs on. -/
def partWf (unit tile : Nat) : Bool := unit < 20 && tile < 9

/-- Whether the hardware can meet a command with these operands. -/
def Instr.wf : Instr → Bool
  | .mainPowerGood p => p.wf
  | .mainPowerGoodWithdrawn => true
  | .cellPowerOn _ _ => true
  | .hostLeg _ => true
  | .landauLeg l => l.wf
  | .sysctlReleaseOpen _ _ => true
  | .deviceReset _ => true
  | .landauRebuild => true
  | .pcieFundamentalReset => true
  | .pePerstNRise => true
  | .linkTrained _ _ _ => true
  | .fuseProgram _ => true
  | .fuseProgramDone => true
  | .registerWrite blk off p => blk ≤ 0xC0 && off < 4194304 && (p.n = 4 || p.n = 8)
  | .paceWindow _ => true
  | .modeChange _ => true
  | .modeChangeRoutesFinished _ _ => true
  | .structBegin _ => true
  | .structSelWrite _ => true
  | .structDataWrite _ => true
  | .structCommit _ => true
  | .structAbandon _ => true
  | .structCheckEnd _ => true
  | .amendCommit _ => true
  | .amendCheckEnd => true
  | .structDrain _ => true
  | .drainDone => true
  | .drainTimeout tag unit tile => tagWf tag && partWf unit tile
  | .sqTailDoorbell fn qid _ => pairWf fn qid
  | .cqHeadDoorbell fn qid _ => pairWf fn qid
  | .sqEntryFetch fn qid tag entry => pairWf fn qid && tagWf tag && (entry.map (fun e => decide (e.length = 128))).getD true
  | .commandHandoff tag core => tagWf tag && core < 20
  | .routeEnd tag _ _ => tagWf tag
  | .completionPost tag _ => tagWf tag
  | .interruptCoalesceTimer fn qid => pairWf fn qid
  | .adminEnable p => p.fn < 64
  | .adminReady fn => fn < 64
  | .adminDisable p => p.fn < 64
  | .nop (.admin tag) => tagWf tag
  | .nop (.delpin i) => i.wf
  | .identify p => tagWf p.tag
  | .abort tag => tagWf tag
  | .createQp tag => tagWf tag
  | .deleteQp tag => tagWf tag
  | .deleteQpComplete tag => tagWf tag
  | .getStatus p => tagWf p.tag
  | .functionLevelReset fn => fn < 64
  | .vfEnableClear => true
  | .busMasterEnableClear fn => fn < 64
  | .doeDataObject _ _ _ => true
  | .ideTlpFailure => true
  | .keyGenerate r => r.wf
  | .keyImport r => r.wf
  | .keyExport r => r.wf
  | .keyDelete r => r.wf
  | .keyInfo r => r.wf
  | .keyRestrict r => r.wf
  | .pubkeyEnroll r => r.wf
  | .pubkeyRead r => r.wf
  | .keyblockImport r => r.wf
  | .keyblockExport r => r.wf
  | .vtableCtrl r => r.wf
  | .vtableBuild _ unit tile => partWf unit tile
  | .vtableEviction _ => true
  | .snapshotBegin r => r.wf
  | .snapshotRead r => r.wf
  | .journalRead r => r.wf
  | .journalAck r => r.wf
  | .restoreBegin r => r.wf
  | .restoreData r => r.wf
  | .restoreEnd r => r.wf
  | .domainCreate r => r.wf
  | .domainErase r => r.wf
  | .domainEscrowExport r => r.wf
  | .domainEscrowRestore r => r.wf
  | .storeStatus r => r.wf
  | .kcacheEvictDomain _ _ => true
  | .kcacheEvictAll _ => true
  | .kcacheZeroise _ _ => true
  | .hbmcSwap _ _ => true
  | .hbmcSwapDone _ _ => true
  | .ecdsaSign r => r.wf
  | .ecdsaSignMsg r => r.wf
  | .ecdsaVerify r => r.wf
  | .ecdsaVerifyMsg r => r.wf
  | .ecdsaVerifyExt r => r.wf
  | .ecdhDerive r => r.wf
  | .rsaSign r => r.wf
  | .rsaVerify r => r.wf
  | .rsaEncrypt r => r.wf
  | .rsaDecrypt r => r.wf
  | .rsaUnwrap r => r.wf
  | .pkecCombRefresh _ => true
  | .combRebuild _ => true
  | .pkecSelftest _ _ => true
  | .pkeSelftestEnd _ _ => true
  | .spkeSign _ => true
  | .spkeVerify _ => true
  | .spkePublicPoint _ => true
  | .spkeOperationEnd _ => true
  | .mmul _ => true
  | .msqr _ => true
  | .madd _ => true
  | .msub _ => true
  | .mred _ => true
  | .setmod _ => true
  | .pkeCsel _ => true
  | .pkeCeq _ => true
  | .crange _ => true
  | .padd _ => true
  | .paddj _ => true
  | .pdbl _ => true
  | .minv _ => true
  | .split _ => true
  | .pkeRefresh _ => true
  | .pkeRand _ => true
  | .sblind _ => true
  | .pvalid _ => true
  | .mexpw _ => true
  | .encode _ => true
  | .decode _ => true
  | .andf _ => true
  | .pkeMove _ => true
  | .pkeKcload _ => true
  | .combrd _ _ => true
  | .vtrd _ => true
  | .pkeInrd _ _ => true
  | .pkeOutst _ => true
  | .kout _ => true
  | .hashin _ _ => true
  | .hashout _ => true
  | .tokenWait _ _ => true
  | .cipherEncrypt r => r.wf
  | .cipherDecrypt r => r.wf
  | .macGenerate r => r.wf
  | .macVerify r => r.wf
  | .hash r => r.wf
  | .streamEncrypt r => r.wf
  | .cipherEncryptM r => r.wf
  | .cipherDecryptM r => r.wf
  | .macGenerateM r => r.wf
  | .macVerifyM r => r.wf
  | .pinTranslate r => r.wf
  | .pinTranslateDukpt r => r.wf
  | .pinCompare r => r.wf
  | .dukptData r => r.wf
  | .emvArqc r => r.wf
  | .pinTranslateM r => r.wf
  | .pinTranslateDukptM r => r.wf
  | .pinCompareM r => r.wf
  | .dukptDataM r => r.wf
  | .emvArqcM r => r.wf
  | .cipcLockHold _ _ _ => true
  | .cipcSelftest _ _ => true
  | .cipSelftestEnd _ _ => true
  | .aesk _ => true
  | .aese _ => true
  | .aesd _ => true
  | .desk _ => true
  | .dese _ => true
  | .desd _ => true
  | .cipXor _ => true
  | .ctrb _ => true
  | .mula _ => true
  | .ghash _ => true
  | .shai _ => true
  | .shac _ => true
  | .shaf _ _ => true
  | .pindec _ => true
  | .pinenc _ => true
  | .cipRand _ => true
  | .cipCeq _ => true
  | .cipCsel _ => true
  | .cipRefresh _ => true
  | .trunc _ => true
  | .blocks _ => true
  | .cipKcload _ => true
  | .cipInrd _ _ => true
  | .cipOutst _ => true
  | .pkout _ => true
  | .pkin _ _ => true
  | .gcmEnc _ => true
  | .gcmDec _ => true
  | .sha384 _ => true
  | .hmac384 _ => true
  | .hkdf _ => true
  | .deriveSrk _ => true
  | .unwrapDmk _ => true
  | .load _ => true
  | .sciphOperationEnd => true
  | .randomBytes r => r.wf
  | .rngStatus r => r.wf
  | .seedBlock _ _ _ => true
  | .seedDelivery => true
  | .rngStall _ => true
  | .biasWindow _ _ _ => true
  | .maskStreamRekey _ _ => true
  | .rngStatusRefresh => true
  | .rngDataRead => true
  | .rngRawRead => true
  | .hostspiMeasure => true
  | .measurementPassEnd p => p.wf
  | .hostspiRelease => true
  | .hostspiLoad => true
  | .hostFlashTransaction _ => true
  | .hostReset _ => true
  | .ledgerMirror _ => true
  | .ledgerRead r => r.wf
  | .ledgerStatus r => r.wf
  | .attestQuote r => r.wf
  | .certRead r => r.wf
  | .hostFlashAuth r => r.wf
  | .hostBootSelect r => r.wf
  | .lifecycle r => r.wf
  | .getVersion _ => true
  | .getCapabilities _ => true
  | .negotiateAlgorithms _ _ => true
  | .getDigests _ => true
  | .getCertificate _ _ _ _ => true
  | .challenge _ _ => true
  | .getMeasurements _ _ _ => true
  | .keyExchange _ _ _ => true
  | .finish _ _ => true
  | .heartbeat _ _ => true
  | .keyUpdate _ _ => true
  | .endSession _ _ => true
  | .vendorDefinedRequest _ _ _ => true
  | .clStatus r => r.wf
  | .clMemberRequest r => r.wf
  | .clFound r => r.wf
  | .clIssue r => r.wf
  | .clEndorse r => r.wf
  | .clApplyEpoch r => r.wf
  | .clMemberRead r => r.wf
  | .clSealBundle r => r.wf
  | .clHandover r => r.wf
  | .clApplyBundle r => r.wf
  | .clReplay r => r.wf
  | .pairedWord _ _ _ _ fails => fails.all MemFail.wf
  | .move i => i.wf
  | .ext i => i.wf
  | .lea i => i.wf
  | .clr i => i.wf
  | .push i => i.wf
  | .pop i => i.wf
  | .add i => i.wf
  | .addc i => i.wf
  | .sub i => i.wf
  | .subc i => i.wf
  | .cmp i => i.wf
  | .neg i => i.wf
  | .mul i => i.wf
  | .mulh i => i.wf
  | .mulhs i => i.wf
  | .div i => i.wf
  | .divs i => i.wf
  | .rem i => i.wf
  | .rems i => i.wf
  | .and i => i.wf
  | .or i => i.wf
  | .xor i => i.wf
  | .not i => i.wf
  | .tst i => i.wf
  | .shl i => i.wf
  | .shr i => i.wf
  | .sar i => i.wf
  | .rol i => i.wf
  | .ror i => i.wf
  | .clz i => i.wf
  | .popc i => i.wf
  | .bswap i => i.wf
  | .csel i => i.wf
  | .cteq i => i.wf
  | .ctlt i => i.wf
  | .ctmask i => i.wf
  | .ctbeq i => i.wf
  | .jmp i => i.wf
  | .call i => i.wf
  | .ret i => i.wf
  | .loop i => i.wf
  | .swapa i => i.wf
  | .cas i => i.wf
  | .fadd i => i.wf
  | .bmove i => i.wf
  | .bfill i => i.wf
  | .trap i => i.wf
  | .gate i => i.wf
  | .rte i => i.wf
  | .lseg i => i.wf
  | .sseg i => i.wf
  | .mask i => i.wf
  | .wait i => i.wf
  | .fence i => i.wf
  | .mfps i => i.wf
  | .mtf i => i.wf
  | .mfcr i => i.wf
  | .mtcr i => i.wf
  | .wstart _ _ => true
  | .swi _ _ => true
  | .interruptEntry _ => true
  | .lockstepMismatch => true
  | .mpuSync _ _ => true
  | .mpuSyncApply _ => true
  | .mpuViolClear _ => true
  | .arbiterDecision _ _ => true
  | .program _ => true
  | .erase _ => true
  | .eraseRange _ => true
  | .check _ => true
  | .retire _ => true
  | .suspend _ => true
  | .resume _ => true
  | .flashOperationEnd e => e.wf
  | .tamperEvent _ _ => true
  | .monitorDisagree _ => true
  | .loop0Measurement _ => true
  | .loop1Code _ _ => true
  | .tamperHoldEnd => true
  | .zall _ => true
  | .zeroiseAllComplete => true
  | .bkgen _ => true
  | .zdone _ => true
  | .unlock _ => true
  | .cfgLock => true
  | .tamperSelftest _ => true
  | .tamperSelftestEnd _ _ => true
  | .tamperForce _ => true
  | .tamperCelllogRead => true
  | .faultReport r => r.wf
  | .safeStateCut => true
  | .quietPeriodExpiry _ => true
  | .fcollHeartbeatLoss => true
  | .routeTimeout p unit tile => tagWf p.tag && partWf unit tile
  | .retireAck _ => true
  | .exit _ => true
  | .rclr _ => true
  | .fcollForce _ => true
  | .hbmRowRepair _ _ _ _ _ => true
  | .drawbarLaneSwap _ _ _ => true
  | .mergeWindowExpiry => true
  | .batchProgram => true
  | .evrecSw _ => true
  | .evrecFreeze _ => true
  | .timekeepSecond => true
  | .rtcSet _ => true
  | .oscFail => true
  | .grantCycle _ => true
  | .grantRefreshLoss _ => true
  | .powerWindow _ => true
  | .thermalReading _ _ _ => true
  | .pwrarbDomctrl _ => true
  | .vidAlert _ _ => true
  | .railPgFall _ => true
  | .activate _ => true
  | .exchange _ => true
  | .deactivate _ => true
  | .warmReset _ => true
  | .cardOperationEnd _ _ => true
  | .cardInsertion _ => true
  | .cardRemoval _ => true
  | .cardOvercurrent _ => true
  | .quorumSessionExpiry => true
  | .sdInsertion card _ => card.wf
  | .sdRemoval _ => true
  | .sdhWrite => true
  | .sdhRead => true
  | .forceErase _ => true
  | .setLock => true
  | .sdhUnlock => true
  | .powerOff => true
  | .sdhOperationEnd _ => true
  | .fieldAppears => true
  | .fieldAbsent => true
  | .inventory _ _ _ _ _ => true
  | .stayQuiet _ => true
  | .readSingleBlock _ _ _ => true
  | .writeSingleBlock _ _ _ _ _ => true
  | .readMultipleBlocks _ _ _ _ => true
  | .writeMultipleBlocks _ _ _ _ _ _ => true
  | .select _ => true
  | .resetToReady _ => true
  | .getSystemInformation _ _ => true
  | .tagRequestUnsupported _ _ _ => true
  | .ledgerSummaryRead _ _ _ _ => true
  | .privacyInventory _ _ _ _ _ _ => true
  | .serviceIntentWrite _ _ _ _ => true
  | .handlePoolRefill => true
  | .intentRecording => true
  | .tagWrite _ => true
  | .tagErase _ => true
  | .tagOperationEnd e => e.wf
  | .dynamicAddressAssignment _ => true
  | .fallbackTimeout => true
  | .mctpPacket p => p.wf
  | .setEndpointId _ _ _ => true
  | .getEndpointId _ => true
  | .getEndpointUuid _ => true
  | .getMctpVersionSupport _ _ => true
  | .getMessageTypeSupport _ => true
  | .getVendorDefinedMessageSupport _ _ => true
  | .status msg => msgWf msg
  | .sbLedgerRead msg => msgWf msg
  | .eventRead msg => msgWf msg
  | .recoveryWrite msg => msgWf msg
  | .imageStage msg => msgWf msg
  | .imageCommit msg => msgWf msg
  | .remeasure msg => msgWf msg
  | .sbHostFlashAuth msg _ => msgWf msg
  | .sbLifecycle msg _ => msgWf msg
  | .quorumCancel msg => msgWf msg
  | .sbUnlock msg => msgWf msg
  | .csetReplace msg => msgWf msg
  | .cardErase msg => msgWf msg
  | .tagOwnerErase msg => msgWf msg
  | .linkTest msg _ => msgWf msg
  | .linkResult msg => msgWf msg
  | .patternTestStart _ _ _ => true
  | .patternTestStop _ _ _ => true
  | .patternTestEnd _ _ => true
  | .sidebSend _ => true
  | .sidebRxdataRead => true
  | .sidebTxdataWrite _ => true
  | .cardDataAccess _ _ => true
  | .idcode => true
  | .bypass => true
  | .samplePreload => true
  | .extest => true
  | .extestPulse => true
  | .extestTrain => true
  | .highz => true
  | .dbgmbox _ => true
  | .submit => true
  | .grant _ => true
  | .refuse _ => true
  | .debugHalt _ => true
  | .startupTestEnd _ _ _ => true
  | .cellSupplyLoss => true
  | .tamperSourceClear _ => true
  | .wcoreCtrlSplit => true
  | .srcEn _ => true

end Sys2Proof
end

