-- ==== Sys2Proof/Certificates/Slice0/Obligations.lean ====
section
/-!
DEFINITION. Certificates/Slice0/Obligations.lean: the statements about the L9 that the provers prove.
-/
namespace Sys2Proof.Machine

/-- Every register field outside `p` (of block and offset) holds after what it held before. -/
def SameRegs (s t : State) (p : Nat → Nat → Bool) : Prop :=
  ∀ f : Field, f.off < 4194304 → f.lo < 64 → p f.blk f.off = false → getF t f = getF s f

/-- Every register field `p` covers (by block and offset) reads its reset value. -/
def RegsReset (t : State) (p : Nat → Nat → Bool) : Prop :=
  ∀ f : Field, f.off < 4194304 → f.lo < 64 → p f.blk f.off = true → getF t f = f.reset

/-- A fuse request that ends refused: BUSY 0, REFUSED with its REASON, the array as before. -/
def fuseRefused (s : State) (r : Nat) : State :=
  setF (setB (setB (setF { s with fuse := { s.fuse with prog := none } } F.FUSE_STATUS_BUSY 0) F.FUSE_PROG_RESULT_DONE false)
    F.FUSE_PROG_RESULT_REFUSED true) F.FUSE_PROG_RESULT_REASON r

/-- The fall of the pace below FLOOR: LOW, recorded when it was 0 (R23). -/
def paceLow (s : State) (d pace : Nat) (t : State) : State :=
  if isSet s F.LSENSE_PACE_LOW then setF t F.LSENSE_PACE_LOW 1 else occur (setF t F.LSENSE_PACE_LOW 1) 0x302 d 0 pace

/-- The empty loading of STRUCT. -/
def structFresh (s : State) : State := { s with struct := { s.struct with loading := [], sel := none, seqErr := false } }

/-- Tag `t` waits at a dispatch core with opcode `op`, its member's role does not shut the opcode out, its buffers keep the 16 MiB
limit, and no check of the list fails. -/
def Passes (s : State) (r : Run) (op : Nat) (t : TagEntry) (checks : List (Option Outcome)) : Prop :=
  readyTag s r op = some t ∧ roleShuts s op (seDomain t.entry) = false ∧ firstSome (overLong t.entry :: checks) = none

/-- The store of the tag's domain has its keys in the key cache, and its journal room for `n` bytes. -/
def StoreReady (s : State) (t : TagEntry) (n : Nat) : Prop :=
  (domKey s 2 (seDomain t.entry)).isSome = true ∧ (domKey s 3 (seDomain t.entry)).isSome = true ∧ journalRoom s (tagWorld s t) n = true

/-- Tag `t` of `s` is STARTED in `u` with an outcome and an effect of which `P` holds, to be given at its route's END, and holds the keys its
handles name. No other tag changes, and nothing else but the free-value counter, registers, the key store's cache and records, protected memory
(a cached key that makes room writes its header back), the tile's blinding, the event recorder and the generator. -/
def Staged (s : State) (t : TagEntry) (P : Outcome → Effect → Prop) (u : State) : Prop :=
  ∃ p o e, findTag u t.tag = some { t with commit := .started, route := some p, staged := some (o, e), refs := heldBy t } ∧ P o e
    ∧ (∀ j, j ≠ t.tag → findTag u j = findTag s j)
    ∧ ∃ f g k h m b v n l, u = { s with
        freeCtr := f, regs := g, ks := k, hbm := h, mem := { s.mem with hbm := m }, pke := { s.pke with tiles := b }, ev := v, rng := n
        qm := { s.qm with tags := l } }

/-- The command commits tag `t`: it is STARTED with an outcome and an effect of which `P` holds, and the rest stays. -/
def Commits (c : Instr) (s : State) (t : TagEntry) (P : Outcome → Effect → Prop) : Prop :=
  ∃ u, exec c s = .next u ∧ Staged s t P u

/-- The quorum session approves the command of tag `t` on an input. -/
def Approved (s : State) (t : TagEntry) (input : Bytes) : Prop :=
  ∃ c x, s.quorum.cset = some c ∧ s.quorum.session = some x ∧ x.digest = opDigest t input ∧ sessionApproved c x = true

/-- The command commits tag `t` as `Commits` says, and its quorum session ends. -/
def CommitsByQuorum (c : Instr) (s : State) (t : TagEntry) (P : Outcome → Effect → Prop) : Prop :=
  ∃ u, exec c s = .next (cancelSession u) ∧ Staged s t P u

/-- A run whose memory reads and route checks all succeed. -/
def CleanRun (r : Run) : Prop := r.fails = [] ∧ r.check = false ∧ r.sramCorr = 0 ∧ r.sramUncorr = false

/-- The key of a handle is live, and its use yields it: from the cache, or from a record that verifies. -/
def KeyReady (s : State) (h : Nat) (k : KeyObj) : Prop := liveObj s h = some k ∧ (useKey s h []).1 = some k

/-- A public-key route of a tag can start: the tile is free for it, and the cipher/hash tile of its second part where it has one; a comb-using
one finds its table free. -/
def PkeStarts (s : State) (t : TagEntry) (r : Run) (rcls : Nat) (comb : Bool) (also : Option (Nat × Nat)) : Prop :=
  canStartIn s t (tagWorld s t) 1 r rcls also = true ∧ (comb = true → combFree s r.unit = true)

/-- A tile of the public-key engine runs the route of tag `t` (R192). -/
def OnPkeTile (s : State) (p : PkeStep) (t : TagEntry) : Prop := tileTag s p.unit.val p.tile.val = some t

/-- The end of an SPKE operation with a RESULT (R221). -/
def SpkeDone (s : State) (r : Nat) : State :=
  setF (setF (setF (setF { s with spke := { s.spke with op := none } } F.SPKE_STATUS_BUSY 0) F.SPKE_CTRL_GO 0) F.SPKE_STATUS_DONE 1) F.SPKE_STATUS_RESULT r

/-- The metered keys among the handles have a use left and marks that allow it (R151, R242). -/
def Affordable (s : State) (t : TagEntry) (hs : List Nat) : Prop :=
  isMetered (seOpcode t.entry) = true → (meteredOf s hs).all (fun h => ((liveObj s h).map (fun o =>
    decide ((countsOf s o).1 + 1 ≤ o.useLimit) && useMarkOk s o)).getD true) = true

/-- A cipher opcode commits what it computes: with the checks passed, the keys `hs` ready and affordable and a slot free, its outcome is that of
a result for which `out` holds, and its effect one use of each metered key, none for a pure opcode (R242, R250). -/
def CipCommits (c : Run → Instr) (op : Nat) (checks : State → TagEntry → List (Option Outcome)) (rcls : State → Bytes → Nat) (hs : Bytes → List Nat)
    (verdictOp : Bool) (out : Bytes → List KeyObj → Bytes → CipResult → Prop) : Prop :=
  ∀ (r : Run) (s : State) (t : TagEntry) (b : Bytes) (ks : List KeyObj), Passes s r op t (checks s t) → r.fails = [] →
    (if seInLen t.entry = 0 then some [] else r.input) = some b → canStart s t 2 r (rcls s t.entry) = true →
    (useKeys (countSusp s 2 r) [] (hs t.entry)).1 = some ks → Affordable s t (hs t.entry) →
    Commits (c r) s t (fun o e => (∃ x, out t.entry ks (sliceZ b 0 (seInLen t.entry)) x ∧ o = cipOutcome (isMetered op) verdictOp x)
      ∧ e = if isMetered op then .meteredUse (meteredOf s (hs t.entry)) else .nothing)

/-- What the cipher opcodes compute in each mode (R233–R237). -/
def CipherOut (dec : Bool) (e : Bytes) (ks : List KeyObj) (b : Bytes) (x : CipResult) : Prop :=
  ∃ k k2 typ aad d, k = ((ks.head?).map (fun o => o.body)).getD [] ∧ k2 = ((ks[1]?).map (fun o => o.body)).getD []
    ∧ typ = ((ks.head?).map (fun o => o.typ)).getD 1 ∧ aad = b.take (cAad e) ∧ d = slice b (cAad e) (cData e dec)
    ∧ (cMode e = 0 → x = { ok := some true, out := ecb typ k dec d })
    ∧ (cMode e = 1 → x = { ok := some true, out := cbc typ k (cIv e) dec d })
    ∧ (cMode e = 2 → x = { ok := some true, out := ctr k (cIv e) d })
    ∧ (cMode e = 3 → dec = false → x = { ok := some true, out := (gcmSeal k ((cIv e).take 12) aad d).take (d.length + cTag e) })
    ∧ (cMode e = 3 → dec = true → x = match gcmOpen k ((cIv e).take 12) aad d (b.drop (cAad e + cData e dec)) with
        | none => { ok := none, out := [] }
        | some p => { ok := some true, out := p })
    ∧ (cMode e = 4 → x = { ok := some true, out := xts k k2 (cIv e) dec d })

/-- A context slot of a cipher tile runs the route of tag `t`, not suspended (R225, R237). -/
def OnCipSlot (s : State) (p : CipStep) (t : TagEntry) : Prop := cipTag s p = some t

/-- The end of a SCIPH operation with a RESULT (R258). -/
def SciphDone (s : State) (r : Nat) : State :=
  setF (setF (setF (setF { s with sciph := { s.sciph with op := none } } F.SCIPH_STATUS_BUSY 0) F.SCIPH_CTRL_GO 0) F.SCIPH_STATUS_DONE 1) F.SCIPH_STATUS_RESULT r

/-- A transport reaches the SPDM responder and has negotiated as far as a request needs. -/
def SpdmNow (s : State) (doe : Bool) (need : Nat) : Prop := spdmReach s doe = true ∧ need ≤ spdmStage s doe

/-- An established SPDM session of a transport that reaches the responder. -/
def SpdmIn (s : State) (n : Nat) (doe : Bool) : Prop :=
  SpdmNow s doe 3 ∧ ∃ x, spdmFind s n = some x ∧ x.done = true ∧ x.doe = doe

/-- On a public-key and a cipher/hash tile of the Sealed world, with an input, a cluster opcode commits an OK whose effect at its END is the
cluster operation on that input (R332, R333). -/
def ClCommits (c : Run → Instr) (op : Nat) (checks : Run → State → TagEntry → List (Option Outcome)) (ready : State → TagEntry → Prop)
    (abc : Bytes → Nat × Nat × Nat) : Prop :=
  ∀ (r : Run) (s : State) (t : TagEntry) (i : Bytes), Passes s r op t (checks r s t) → ready s t → r.input = some i → needSealedTiles s = none →
    canStartIn s t 1 1 r 0 (some (seOpcode t.entry, 0)) = true →
    Commits (c r) s t (fun o e => o = outStatus stOK
      ∧ e = .cluster op (seDomain t.entry) (abc t.entry).1 (abc t.entry).2.1 (abc t.entry).2.2 (sliceZ i 0 (seInLen t.entry)))

/-- The domain keys of the tag's domain are in the key cache. -/
def DomKeys (s : State) (t : TagEntry) : Prop :=
  (domKey s 2 (seDomain t.entry)).isSome = true ∧ (domKey s 3 (seDomain t.entry)).isSome = true

/-- A core runs a long instruction (R346, R347, R354): it is ready, no interrupt goes first, its fetch passes and leaves `t`, `bad`, its decoding's
verdict, is false and its condition holds. -/
def Runs (i : LongInsn) (s t : State) (bad : Bool) : Prop :=
  ready s i.core = true ∧ ((getCore s i.core).fresh = true ∨ admitted s i.core = none)
    ∧ fetchCheck (bufSettle s) i.core (getCore s i.core) (insnWords i) = .ok () t ∧ bad = false ∧ condHolds (getCore s i.core).flags i.cond.toNat = true

/-- The operands of a long instruction pass their checks and its first `k`, of `n` bytes, are read as `vals` (R346); `locs` are where its
operands lie, `u` what the accesses leave. -/
def Reads (i : LongInsn) (x : DCore) (t u : State) (k n : Nat) (locs : List Loc) (vals : List Nat) : Prop :=
  ∃ v, locateAll i.core x i.fails ((i.specs.take k).map (fun p => (p, useSrc n, n))
      ++ (i.specs.drop k).map (fun p => (p, useDst (sizeBytes i.size.toNat), sizeBytes i.size.toNat))) t = .ok locs v
    ∧ readLocs i.core x i.fails n (locs.take k) v = .ok vals u

/-- The end of a long instruction: its core's registers, its writes, and what a write to SYSCTL_RELEASE sets off. -/
def Ended (t u : State) (c : CoreId) (x : DCore) (ws : List (Nat × Bytes)) : State :=
  thenRelease t (ws.foldl (fun v w => memWrite v c (x.w && x.l) w.1 w.2) (setCore u c x))

/-- What a long instruction with `k` sources of `n` bytes leaves: the core `y` with its post-increments and pre-decrements, the result, of
the instruction's size, in its destination, PC past its words. -/
def Puts (i : LongInsn) (t u : State) (k n : Nat) (locs : List Loc) (y : DCore) (r : Nat) : State :=
  let z := moveAll (moveAll y ((i.specs.take k).map (fun p => (p, n)))) ((i.specs.drop k).map (fun p => (p, sizeBytes i.size.toNat)))
  let o := putLoc z (locs[k]?) (sizeBytes i.size.toNat) r
  Ended t u i.core (o.1.advance (insnWords i)) o.2

/-- A long instruction of a form puts a result and flags computed from the flags before, the width and two values. -/
def Computes (c : LongInsn → Instr) (form : LongInsn → Form) (k : Nat) (g : Flags → Nat → Nat → Nat → Nat × Flags) : Prop :=
  ∀ (i : LongInsn) (s t u : State) (locs : List Loc) (vals : List Nat) (x : DCore) (o : Nat × Flags), x = getCore s i.core →
    Runs i s t (formBad i (form i)) → Reads i x t u k (sizeBytes i.size.toNat) locs vals →
    o = g x.flags (8 * 2 ^ i.size.toNat) (val vals 0) (val vals 1) →
    exec (c i) s = .next (Puts i t u k (sizeBytes i.size.toNat) locs (x.setFlags o.2) o.1)

/-- Three operands, two with a destination, and two without one, of any size, IMM16 zero (R372). -/
def three (i : LongInsn) : Form := { formAny 3 1 with imm := noImm i }
def two (i : LongInsn) : Form := { formAny 2 1 with imm := noImm i }
def tests (i : LongInsn) : Form := { formAny 2 0 with imm := noImm i }

/-- Flags by class (R371): A and X on a result, with what V and C show; L; S with the last bit moved out and the amount; M; T. -/
def classA (w r : Nat) (v c : Bool) : Nat × Flags := (r, { n := r.testBit (w - 1), z := r = 0, v := v, c := c })
def classXF (f : Flags) (w r : Nat) (v c : Bool) : Nat × Flags := (r, { n := r.testBit (w - 1), z := r = 0 && f.z, v := v, c := c })
def classL (f : Flags) (w r : Nat) : Nat × Flags := (r, { n := r.testBit (w - 1), z := r = 0, v := false, c := f.c })
def classS (f : Flags) (w r k : Nat) (out : Bool) : Nat × Flags := (r, { n := r.testBit (w - 1), z := r = 0, v := false, c := if k = 0 then f.c else out })
def classT (f : Flags) (r : Nat) (z : Bool) : Nat × Flags := (r, { f with z := z })

/-- The end of an atomic instruction: its write reaches memory at once (R363). -/
def drained (t u : State) (c : CoreId) (x : DCore) (ws : List (Nat × Bytes)) : State :=
  thenRelease t (drainCore (ws.foldl (fun v w => memWrite v c (x.w && x.l) w.1 w.2) (setCore u c x)) c)

/-- A request reaches the tag in a field, in time and in the supported form; a running erase of bank 1 counts one more suspension (R553, R567);
`u` is the state it is served in. -/
def TagServes (s u : State) (q : TagReq) : Prop :=
  s.tag.field = true ∧ q.sub = false ∧ q.late = false ∧ eraseHolds s = false ∧ u = countEraseSusp s

/-- A request that is for this tag: selected, addressed by its identity, or open to a tag that is not quiet. -/
def TagTakes (s u : State) (q : TagReq) : Prop := TagServes s u q ∧ tagMine u q = true

/-- A management request with code `k` and a body of `n` bytes reaches the L9 on a settled bus: type 0x7E, vendor 0x1FA7, bytes 4 to 7 zero (R572). -/
def SbServed (s : State) (m : Bytes) (k n : Nat) : Prop :=
  sbReach s = true ∧ sbIsRequest m = true ∧ byteAt m 3 = k ∧ allZero m 4 4 = true ∧ m.length = 8 + n

/-- The open quorum session is approved for a sideband request: its digest is that of the code and the body (R539, R574). -/
def SbApproved (s : State) (k : Nat) (b : Bytes) : Prop :=
  ∃ c x, s.quorum.cset = some c ∧ s.quorum.session = some x ∧ x.digest = sbDigest k b ∧ sessionApproved c x = true

/-- `c` is the management request of code `k` with message `m`; what the link test's checker or the ledger does stands beside it. -/
def SbRequest (k : Nat) (m : Bytes) (a : Bool) (c : Instr) : Prop :=
  (k, c) ∈ [(1, Instr.status m), (2, .sbLedgerRead m), (3, .eventRead m), (4, .recoveryWrite m), (5, .imageStage m), (6, .imageCommit m), (7, .remeasure m),
    (8, .sbHostFlashAuth m a), (9, .sbLifecycle m a), (10, .quorumCancel m), (11, .sbUnlock m), (12, .csetReplace m), (13, .cardErase m),
    (14, .tagOwnerErase m), (15, .linkTest m a), (16, .linkResult m)]

end Sys2Proof.Machine

open Sys2Proof Sys2Proof.Machine

/-- A step runs the command at the front of the queue; on an empty queue it idles (model: log entry 49) (00_scope.md). -/
def Obligations.StepRunsFrontCommand : Prop :=
  (∀ (c : Instr) (q : List Instr) (s : State),
      Sys2Proof.Machine.step { s with pending := c :: q } = exec c { s with pending := q })
    ∧ ∀ s : State, s.pending = [] → Sys2Proof.Machine.step s = .next s

/-- Every command completes: exec answers a next state, never a fault or a refusal (95_what_each_step_holds.md). -/
def Obligations.EveryCommandAnswersAState : Prop :=
  ∀ (c : Instr) (s : State), ∃ t, exec c s = .next t

/-- A command changes everything but the queue of commands that wait (95_what_each_step_holds.md). -/
def Obligations.ExecLeavesTheQueue : Prop :=
  ∀ (c : Instr) (s t : State), Canonical s → exec c s = .next t → t.pending = s.pending

/-- The register store and the memories are in canonical form at reset (00_scope.md, 02_power_up_and_lifecycle.md). -/
def Obligations.ResetKeepsInvariant : Prop :=
  Canonical State.reset ∧ State.reset.pending = []

/-- Every step keeps the register store and the four memories in canonical form (00_scope.md, 95_what_each_step_holds.md). -/
def Obligations.EveryStepKeepsInvariant : Prop :=
  ∀ s t : State, Canonical s → Sys2Proof.Machine.step s = .next t → Canonical t

/-- No command unprograms a fuse bit: lifecycle, anti-rollback, owner key hashes, source disables, options, evidence (R8, R62, R71, R467, R468). -/
def Obligations.NoStepUnprogramsAFuse : Prop :=
  ∀ s t : State, Canonical s → Sys2Proof.Machine.step s = .next t → OneWay s t

/-- CELL_POWER_ON, CELL_SUPPLY_LOSS, MAIN_POWER_GOOD_WITHDRAWN and MAIN_POWER_GOOD: what each leaves of the cell domain, the fuses and the queues (R42, R55, R60, R473, 02_power_up_and_lifecycle.md). -/
def Obligations.SupplyCommandsComplete : Prop :=
  (∀ (vbat main : Bool) (s : State), cellUp s = false → (vbat || main) = true →
    ∃ t, exec (.cellPowerOn vbat main) s = .next t
      ∧ RegsReset t cellReg ∧ getF t F.SYSCTL_RSTCAUSE_CELL_POR = 1
      ∧ t.tamper = { TamperState.init with cellLoss := true }
      ∧ t.power = { s.power with vbat := vbat, main := main, hold := true, causes := 1 }
      ∧ { t with regs := s.regs, tamper := s.tamper, power := s.power, ev := s.ev } = s)
  ∧ (∀ s : State, s.power.vbat = true → geckoUp s = false →
    ∃ t, exec .cellSupplyLoss s = .next t ∧ RegsReset t cellReg ∧ SameRegs s t cellReg ∧ t.tamper = TamperState.init
      ∧ t.power = { s.power with vbat := false, main := false, hold := false }
      ∧ { t with regs := s.regs, tamper := s.tamper, power := s.power } = s)
  ∧ (∀ s : State, s.power.vbat = true → geckoUp s = true →
    exec .cellSupplyLoss s = .next (tripDetectors { s with power := { s.power with vbat := false } } 2 2))
  ∧ (∀ s : State, geckoUp s = true →
    ∃ t, exec .mainPowerGoodWithdrawn s = .next t ∧ geckoUp t = false ∧ t.power.hold = s.power.vbat ∧ t.image = none ∧ t.qm.tags = []
      ∧ t.ev.openRecs = [] ∧ t.ev.staging = [] ∧ (t.fuse.arr = s.fuse.arr ∨ ∃ g i, s.fuse.prog = some (g, i) ∧ t.fuse.arr = burn s.fuse.arr g i) ∧ t.cfg = s.cfg
      ∧ (s.power.vbat = true → t.tamper.bk = s.tamper.bk ∧ t.tamper.ackMarks = s.tamper.ackMarks ∧ t.tamper.cellLog = s.tamper.cellLog)
      ∧ (s.power.vbat = false → t.tamper = TamperState.init ∧ RegsReset t cellReg))
  ∧ (∀ (p : PowerGood) (s : State), geckoUp s = false →
    exec (.mainPowerGood p) s = .next (geckoLeg (mainPowerOn s) p) ∧ geckoUp (mainPowerOn s) = true
      ∧ isSet (mainPowerOn s) F.SYSCTL_RSTCAUSE_MAIN_POR = true ∧ (mainPowerOn s).power.hold = true)
  ∧ (∀ (p : PowerGood) (s : State), geckoUp s = true → s.power.phase = .off → exec (.mainPowerGood p) s = .next (geckoLeg s p))

/-- TAMPER_HOLD_END, HOST_LEG and LANDAU_LEG: the leg of the bring-up each runs, and when it waits (R44, R48, R50, R51, R466, 02_power_up_and_lifecycle.md). -/
def Obligations.BringUpStepsComplete : Prop :=
  (∀ (p : PowerGood) (s : State), s.power.phase = .held → s.power.start = some p →
    exec .tamperHoldEnd s = .next (if stillHolds s then s else geckoRest (setF s F.TAMPER_STATUS_HOLD 0) p))
  ∧ (∀ (h : HostLegIn) (s : State) (i : Image), geckoUp s = true → s.power.phase = .sealed → life (hostLegStart s) ≠ 4 →
      (pickImage (hostLegStart s) h).image = some i → geckoRefuses (pickImage (hostLegStart s) h) i.bytes = false →
    exec (.hostLeg h) s = .next (startMeasure (applyGecko (pickImage (hostLegStart s) h) i.bytes) i.bytes h))
  ∧ (∀ (h : HostLegIn) (s : State) (i : Image), geckoUp s = true → s.power.phase = .sealed → life (hostLegStart s) ≠ 4 →
      (pickImage (hostLegStart s) h).image = some i → geckoRefuses (pickImage (hostLegStart s) h) i.bytes = true →
    exec (.hostLeg h) s = .next (startMeasure (pickImage (hostLegStart s) h) i.bytes h))
  ∧ (∀ (h : HostLegIn) (s : State), geckoUp s = true → s.power.phase = .sealed → life (hostLegStart s) ≠ 4 →
      (pickImage (hostLegStart s) h).image = none →
    exec (.hostLeg h) s = .next
      (deviceRecord (if (pickImage (hostLegStart s) h).power.skipHold = true
          then { pickImage (hostLegStart s) h with power := { (pickImage (hostLegStart s) h).power with phase := .noImage } }
          else setHold { pickImage (hostLegStart s) h with power := { (pickImage (hostLegStart s) h).power with phase := .noImage } } true) 3 h.ledgerOk))
  ∧ (∀ (h : HostLegIn) (s : State), geckoUp s = true → s.power.phase = .sealed → life (hostLegStart s) = 4 →
    exec (.hostLeg h) s = .next (setHold { hostLegStart s with power := { (hostLegStart s).power with phase := .noImage } } true))
  ∧ (∀ (l : LandauIn) (s s1 s2 s3 s4 : State), geckoUp s = true → s.image.isSome = true → s.power.pendReset = false →
      (s.power.phase = .measuring ∨ s.power.phase = .hostDone) → s.power.landau = .unbuilt → isSet s F.TAMPER_STATUS_LOCKED = false →
      landauStep1 s l = (s1, true) → landauStep2 s1 l = (s2, true) → l.byRows = false → landauStep3 s2 = (s3, true) →
      landauStep4 (loadCode s3 l.code) l = (s4, true) → rngServes s4 28 1 = true →
    exec (.landauLeg l) s = .next (if life (landauStep5 s4 l) = 3 then deviceRecord (landauStep5 s4 l) 3 l.ledgerOk
      else landauStep67 (landauStep5 s4 l) l))
  ∧ (∀ (l : LandauIn) (s s1 : State), geckoUp s = true → s.image.isSome = true → s.power.pendReset = false →
      (s.power.phase = .measuring ∨ s.power.phase = .hostDone) → s.power.landau = .unbuilt → isSet s F.TAMPER_STATUS_LOCKED = false →
      landauStep1 s l = (s1, false) →
    exec (.landauLeg l) s = .next (buildFailed s1 l.ledgerOk))

/-- SYSCTL_RELEASE_OPEN: ignored unless OPEN_FW_OK is 1; else the Open world is released (R69). -/
def Obligations.OpenReleaseNeedsOpenFwOk : Prop :=
  (∀ (v : W32) (ok : Bool) (s : State), v.getLsbD 0 = true → isSet s F.SYSCTL_STATE_OPEN_FW_OK = false →
    exec (.sysctlReleaseOpen v ok) s = .next s)
  ∧ (∀ (v : W32) (ok : Bool) (s : State), geckoUp s = true → v.getLsbD 0 = true → isSet s F.SYSCTL_STATE_OPEN_FW_OK = true →
      isSet s F.SYSCTL_RELEASE_OPEN = false →
    exec (.sysctlReleaseOpen v ok) s = .next (releaseOpen s ok))

/-- DEVICE_RESET, LANDAU_REBUILD, PCIE_FUNDAMENTAL_RESET, PE_PERST_N_RISE, LINK_TRAINED and HOST_RESET: the scope of each (R53, R55, R56, R57, R58, R60, R289). -/
def Obligations.ResetCommandsComplete : Prop :=
  (∀ (c : ResetCause) (s : State), geckoUp s = true → inReset s = false → resetCounts s c = true →
    exec (.deviceReset c) s = .next (deviceReset s (causeField c)))
  ∧ (∀ (c : ResetCause) (s : State), inReset s = true → exec (.deviceReset c) s = .next s ∧ exec .landauRebuild s = .next s)
  ∧ (∀ s : State, geckoUp s = true → inReset s = false →
    exec .landauRebuild s = .next (landauRebuild s))
  ∧ (∀ s : State, exec .pcieFundamentalReset s = thenLife (rowPcieFundamentalReset s)
      ∧ rowPcieFundamentalReset s = .next (if inReset s then { s with power := { s.power with perst := false } }
          else setF (fundamentalReset { s with power := { s.power with perst := false } }) F.SYSCTL_RSTCAUSE_PERST 1))
  ∧ (∀ s : State, exec .pePerstNRise s = .next { s with power := { s.power with perst := true } })
  ∧ (∀ (w v l : Nat) (s : State), s.power.phy = true → s.power.perst = true → w ∈ [1, 2, 4, 8, 16] → 1 ≤ v → v ≤ 5 → l < 64 →
    exec (.linkTrained w v l) s = .next (setF (setF (setF (setF { s with power := { s.power with dataLink := true } } F.PCIEC_LINK_UP 1)
      F.PCIEC_LINK_WIDTH w) F.PCIEC_LINK_SPEED v) F.PCIEC_LINK_LTSSM l))
  ∧ (∀ (ns : Nat) (s : State), geckoUp s = true → 1000 ≤ ns →
    exec (.hostReset ns) s = .next (hostResetFrom (setF (bump s F.HOSTSPI_RESETS_COUNT F.HOSTSPI_RESETS_SAT) F.HOSTSPI_STATUS_RESET_SEEN 1)))
  ∧ (∀ (ns : Nat) (s : State), ns < 1000 → exec (.hostReset ns) s = .next s)

/-- FUSE_PROGRAM and FUSE_PROGRAM_DONE: BUSY, the bit, DONE or REFUSED with its REASON (R66, R71, 02_power_up_and_lifecycle.md). -/
def Obligations.FuseCommandsComplete : Prop :=
  (∀ (v : W32) (s : State), geckoUp s = true → F.FUSE_PROG_CTRL_KEY.ofWord v.toNat = 0xC3 → isSet s F.FUSE_STATUS_BUSY = false →
    exec (.fuseProgram v) s = .next (setF { s with fuse := { s.fuse with
      prog := some (F.FUSE_PROG_CTRL_TARGET.ofWord v.toNat, F.FUSE_PROG_CTRL_INDEX.ofWord v.toNat) } } F.FUSE_STATUS_BUSY 1))
  ∧ (∀ (v : W32) (s : State), geckoUp s = true → F.FUSE_PROG_CTRL_KEY.ofWord v.toNat = 0xC3 → isSet s F.FUSE_STATUS_BUSY = true →
    exec (.fuseProgram v) s = .next (setF (setF s F.FUSE_PROG_RESULT_REFUSED 1) F.FUSE_PROG_RESULT_REASON 4))
  ∧ (∀ (v : W32) (s : State), F.FUSE_PROG_CTRL_KEY.ofWord v.toNat ≠ 0xC3 → exec (.fuseProgram v) s = .next s)
  ∧ (∀ (s : State) (tg ix : Nat), s.fuse.prog = some (tg, ix) → fuseReason s tg ix = 0 →
    ∃ t, exec .fuseProgramDone s = .next t ∧ t.fuse = { s.fuse with arr := burn s.fuse.arr tg ix, shadow := burn s.fuse.shadow tg ix, prog := none }
      ∧ isSet t F.FUSE_STATUS_BUSY = false ∧ isSet t F.FUSE_PROG_RESULT_DONE = true ∧ isSet t F.FUSE_PROG_RESULT_REFUSED = false
      ∧ getF t F.FUSE_PROG_RESULT_REASON = 0 ∧ ∃ r f, t = { s with regs := r, fuse := f })
  ∧ (∀ (s : State) (tg ix : Nat), s.fuse.prog = some (tg, ix) → fuseReason s tg ix ≠ 0 →
    exec .fuseProgramDone s = .next (fuseRefused s (fuseReason s tg ix)))

/-- The lifecycle state and the ownership period follow the lifecycle fuse word (R62). -/
def Obligations.LifecycleStateFollowsTheFuses : Prop :=
  (∀ (w : BitVec 14) (n : Nat), lifeReached w n = true ↔ (w.getLsbD (2 * n) = true ∨ w.getLsbD (2 * n + 1) = true))
  ∧ (∀ w : BitVec 14, lifeReached w 3 = true → lifeState w = 4)
  ∧ (∀ w : BitVec 14, lifeReached w 3 = false → (lifeReached w 4 || lifeReached w 5 || lifeReached w 6) = true →
      ownerPeriod w = 1 ∧ lifeState w = if lifeReached w 6 then 3 else if lifeReached w 5 then 2 else 1)
  ∧ (∀ w : BitVec 14, lifeReached w 3 = false → (lifeReached w 4 || lifeReached w 5 || lifeReached w 6) = false →
      ownerPeriod w = 0 ∧ lifeState w = if lifeReached w 2 then 3 else if lifeReached w 1 then 2 else if lifeReached w 0 then 1 else 0)
  ∧ (∀ s : State, getF (loadFuseRegs s) F.SYSCTL_STATE_OWNER_PERIOD = ownerPeriod s.fuse.shadow.life
      ∧ getF (loadFuseRegs s) F.SYSCTL_STATE_LIFECYCLE = lifeState s.fuse.shadow.life
      ∧ ownerKeyHash s = (if ownerPeriod s.fuse.shadow.life = 0 then s.fuse.shadow.owner0 else s.fuse.shadow.owner1))

/-- What the fuse controller refuses and what it always accepts, whatever firmware asks (R66, R71). -/
def Obligations.FuseControllerRefusals : Prop :=
  (∀ (s : State) (tg ix : Nat), s.fuse.prog = some (tg, ix) →
      (6 ≤ tg
        ∨ (tg = 1 ∧ ix % 128 ≠ 0 ∧ burned s.fuse.shadow 1 (ix - 1) = false)
        ∨ (tg = 0 ∧ (ix / 2 = 2 ∨ ix / 2 = 3 ∨ ix / 2 = 4 ∨ ix / 2 = 6) ∧ lifeReached s.fuse.shadow.life (ix / 2) = false
            ∧ isSet s F.TAMPER_STATUS_ZALL_DONE = false)
        ∨ (tg = 5 ∧ isSet s F.TAMPER_STATUS_ZALL_DONE = false)
        ∨ (tg = 2 ∧ lifeState s.fuse.shadow.life ≠ 0)
        ∨ ((tg = 5 ∨ (tg = 0 ∧ ix / 2 = 4 ∧ lifeReached s.fuse.shadow.life 4 = false))
            ∧ ¬ (lifeState s.fuse.shadow.life = 3 ∧ ownerPeriod s.fuse.shadow.life = 0))) →
    ∃ t, exec .fuseProgramDone s = .next t ∧ t.fuse.arr = s.fuse.arr ∧ isSet t F.FUSE_PROG_RESULT_REFUSED = true
      ∧ getF t F.FUSE_PROG_RESULT_REASON ≠ 0 ∧ isSet t F.FUSE_PROG_RESULT_DONE = false)
  ∧ (∀ (s : State) (ix : Nat), s.fuse.prog = some (0, ix) → ix < 14 → lifeReached s.fuse.shadow.life (ix / 2) = true →
      s.fuse.shadow.life.getLsbD ix = false →
    ∃ t, exec .fuseProgramDone s = .next t ∧ burned t.fuse.arr 0 ix = true ∧ isSet t F.FUSE_PROG_RESULT_DONE = true)

/-- A software write to a register field does what its access code says; a write to a register writes each field so (R10, R11, 00_scope.md). -/
def Obligations.AccessCodesGovernWrites : Prop :=
  (∀ (s : State) (f : Field) (v : Nat), getF s f < 2 ^ f.width →
      getF (writeField s f v) f = match f.acc with
        | .rw => f.ofWord v
        | .w1c => getF s f - (getF s f &&& f.ofWord v)
        | .w1s => (getF s f ||| f.ofWord v) % 2 ^ f.width
        | .ss => (getF s f ||| f.ofWord v) % 2 ^ f.width
        | .ro => getF s f
        | .wo => getF s f)
  ∧ (∀ (s : State) (f g : Field) (v : Nat), f.key ≠ g.key → getF (writeField s f v) g = getF s g)
  ∧ (∀ (s : State) (blk off : Nat), fieldsAt blk off = [] → readReg s blk off = 0 ∧ ∀ v, writeReg s blk off v = s)

/-- REGISTER_WRITE: a Gecko or Landau register, BAR0 of a function, configuration space; what is ignored (R10, R11, R106, R524, 98_reader.md). -/
def Obligations.RegisterWriteCompletes : Prop :=
  (∀ (blk off : Nat) (v : W64) (ide : Bool) (s : State), blk < 0x20 → blk ≠ Blk.EVREC → off % 4 = 0 → isReg64 blk off = false → isReg64 blk (off - 4) = false →
      geckoUp s = true → ((blkDomain blk).map (domainOn s)).getD true = true → writeGecko s 2 blk off (v.toNat % 2 ^ 32) = none →
    exec (.registerWrite blk off ⟨4, v, ide⟩) s = .next (thenRelease s (dropRequest (writeReg s blk off (v.toNat % 2 ^ 32)) blk)))
  ∧ (∀ (blk off : Nat) (v : W64) (ide : Bool) (s : State), 0x20 ≤ blk → blk < 0x80 → off % 4 = 0 → isReg64 blk off = false → isReg64 blk (off - 4) = false →
      geckoUp s = true → s.drawbar.up = true → s.power.landau ≠ .unbuilt → ((clusterOf blk).map (domainOn s)).getD true = true →
      writeLandau s true blk off (v.toNat % 2 ^ 32) = none →
    exec (.registerWrite blk off ⟨4, v, ide⟩) s = .next (thenRelease s (writeReg s blk off (v.toNat % 2 ^ 32))))
  ∧ (∀ (blk off n : Nat) (v : W64) (s : State), 0x80 ≤ blk → blk ≠ 0xC0 →
    exec (.registerWrite blk off ⟨n, v, false⟩) s = .next (hostWrite s (blk - 0x80) off n v.toNat)
      ∧ exec (.registerWrite blk off ⟨n, v, true⟩) s = .next (if getF s F.PCIEC_IDE_STATE = 1 then hostWrite s (blk - 0x80) off n v.toNat else s))
  ∧ (∀ (off n : Nat) (v : W64) (ide : Bool) (s : State), exec (.registerWrite 0xC0 off ⟨n, v, ide⟩) s = .next (configWrite s off v.toNat))
  ∧ (∀ (blk off n : Nat) (v : W64) (ide : Bool) (s : State), blk < 0x80 → (off % 4 ≠ 0 ∨ (n ≠ 4 ∧ n ≠ 8) ∨ (n = 8 ∧ isReg64 blk off = false)) →
    exec (.registerWrite blk off ⟨n, v, ide⟩) s = .next s)
  ∧ (∀ (blk off n : Nat) (v : W64) (ide : Bool) (s : State), 0x20 ≤ blk → blk < 0x80 → (s.drawbar.up = false ∨ s.power.landau = .unbuilt) →
    exec (.registerWrite blk off ⟨n, v, ide⟩) s = .next s)

/-- PACE_WINDOW, MODE_CHANGE, MODE_CHANGE_ROUTES_FINISHED, VID_ALERT, RAIL_PG_FALL, WCORE_CTRL_SPLIT and SRC_EN (R22, R23, R28, R413, R525, R527, R590, 19_power.md). -/
def Obligations.PaceAndModeCommandsComplete : Prop :=
  (∀ (l : List (Nat × Nat)) (s : State) (d p : Nat), landauUp s = true → lowestPace s l = some (d, p) →
    exec (.paceWindow l) s = .next (if min 65535 p < getF s F.LSENSE_PACE_FLOOR_FLOOR then paceLow s d (min 65535 p) (publishPace s d (min 65535 p))
      else publishPace s d (min 65535 p)))
  ∧ (∀ (v : W32) (s : State), geckoUp s = true → v.toNat / 65536 = 0x504D → v.getLsbD 15 = true → modeErr s (v.toNat % 4) = 0 →
    exec (.modeChange v) s = .next (beginMode (writeReg s Blk.PWRARB 4 (v.toNat &&& 0x4003)) (v.toNat % 4)))
  ∧ (∀ (v : W32) (s : State), geckoUp s = true → v.toNat / 65536 = 0x504D → v.getLsbD 15 = true → modeErr s (v.toNat % 4) ≠ 0 →
    exec (.modeChange v) s = .next (setF (setF (writeReg s Blk.PWRARB 4 (v.toNat &&& 0x4003)) F.PWRARB_MODE_ERR (modeErr s (v.toNat % 4))) F.PWRARB_MODE_DONE 1))
  ∧ (∀ (mv : BitVec 10) (q : Option (Fin 4)) (s : State) (m : Nat), s.arb.target = some m → s.qm.tags.any running = false →
      pwVid (powerSec s) m = pwVid (powerSec s) (mode s) →
    exec (.modeChangeRoutesFinished mv q) s = .next (moveMode s m q))
  ∧ (∀ (mv : BitVec 10) (q : Option (Fin 4)) (s : State) (m : Nat), s.arb.target = some m → s.qm.tags.any running = false →
      pwVid (powerSec s) m ≠ pwVid (powerSec s) (mode s) →
    exec (.modeChangeRoutesFinished mv q) s = .next (if settled mv.toNat (pwVid (powerSec s) m) then moveMode (setF s F.PWRARB_VID_READ_MV mv.toNat) m q
      else vidModeFail (setF s F.PWRARB_VID_READ_MV mv.toNat) m))
  ∧ (∀ s : State, geckoUp s = true → exec (.vidAlert true false) s = .next (tamperTrip s 0))
  ∧ (∀ (h : Bool) (s : State), geckoUp s = true → exec (.vidAlert false h) s = .next (raise (setF s F.PWRARB_VID_ERR 1) 2))
  ∧ (∀ s : State, s.power.enH = true → s.power.pgH = true → exec (.railPgFall 0) s = .next (landauRebuild s))
  ∧ (∀ s : State, s.power.enL = true → s.power.pgL = true → exec (.railPgFall 1) s = .next (landauRebuild s))
  ∧ (∀ s : State, s.power.enPE = true → s.power.pgPE = true → exec (.railPgFall 2) s = .next (landauRebuild s))
  ∧ (∀ s : State, exec .wcoreCtrlSplit s = .next (splitCores s))
  ∧ (∀ (v : W32) (s : State), geckoUp s = true → v.getLsbD 0 = true → v.getLsbD 1 = false →
      srcState (writeReg s Blk.RNG 0 v.toNat) 0 = 2 → srcState (writeReg s Blk.RNG 0 v.toNat) 1 = 2 →
    exec (.srcEn v) s = .next (serviceRefresh (setSrc (writeReg s Blk.RNG 0 v.toNat) 1 0)))

/-- GRANT_CYCLE, GRANT_REFRESH_LOSS, POWER_WINDOW, THERMAL_READING and PWRARB_DOMCTRL (R518, R519, R521, R522, R524, R528, R529, R530, 19_power.md). -/
def Obligations.PowerArbiterCommandsComplete : Prop :=
  (∀ (l : List (Nat × Nat)) (s : State), landauUp s = true →
    exec (.grantCycle l) s = .next (setF (setF (putGrants s (demandOf s l) (grantOf s (demandOf s l))) F.PWRARB_POOL_FREE
      ((dynPool s).toNat - sumDoms (inPool s) (fun d => grantOf s (demandOf s l) d - pwBase (powerSec s) (mode s) d))) F.PWRARB_STATUS_FALLBACK 0))
  ∧ (∀ (d : Fin 48) (s : State), landauUp s = true → inPool s d = true →
    exec (.grantRefreshLoss d) s = .next (setF (putGrant s d (getF s (F.PWRARB_GRANT_DEMAND d)) (pwBase (powerSec s) (mode s) d)) F.PWRARB_STATUS_FALLBACK 1))
  ∧ (∀ (p : Nat) (s : State), geckoUp s = true → (powerSec s).isEmpty = false →
    exec (.powerWindow p) s = .next (showCap ((if pwCap (powerSec s) (mode s) < 4 * p then overWindow else quietWindow)
      (setF (setF s F.PWRARB_POWER_NOW (min 65535 p)) F.PWRARB_POWER_PEAK (max (getF s F.PWRARB_POWER_PEAK) (min 65535 p))))))
  ∧ (∀ (la : List (Fin 50 × BitVec 8)) (ge hs : List (BitVec 8)) (s : State) (dom tj : Nat), geckoUp s = true → isSet s F.PWRARB_STATUS_MODE_BUSY = false →
      hottest ((la.map (fun (r : Fin 50 × BitVec 8) => ((r.1.castLE (by decide) : Fin 80), r.2)) ++ ge.map (fun v => ((78 : Fin 80), v))).filter (fun r => sensed s r.1)) = (dom, tj) →
    ∃ u, u = setF (setF (setF s F.PWRARB_TEMP_TJ_MAX tj) F.PWRARB_TEMP_TJ_DOMAIN dom) F.PWRARB_TEMP_HBM_MAX (hottestStack hs)
      ∧ exec (.thermalReading la ge hs) s = .next (setStage { u with arb := { u.arb with cool := [1, 2, 3].map (stageLeft s tj (hottestStack hs)) } }
          (stageOf ([1, 2, 3].map (stageLeft s tj (hottestStack hs))))))
  ∧ (∀ (la : List (Fin 50 × BitVec 8)) (ge hs : List (BitVec 8)) (s : State) (dom tj : Nat), geckoUp s = true → isSet s F.PWRARB_STATUS_MODE_BUSY = true →
      hottest ((la.map (fun (r : Fin 50 × BitVec 8) => ((r.1.castLE (by decide) : Fin 80), r.2)) ++ ge.map (fun v => ((78 : Fin 80), v))).filter (fun r => sensed s r.1)) = (dom, tj) →
    ∃ u, u = setF (setF (setF s F.PWRARB_TEMP_TJ_MAX tj) F.PWRARB_TEMP_TJ_DOMAIN dom) F.PWRARB_TEMP_HBM_MAX (hottestStack hs)
      ∧ exec (.thermalReading la ge hs) s = .next { u with arb := { u.arb with
          cool := [1, 2, 3].map (stageLeft s tj (hottestStack hs)), stageDue := some (stageOf ([1, 2, 3].map (stageLeft s tj (hottestStack hs)))) } })
  ∧ (∀ (v : W32) (s : State), geckoUp s = true → v.toNat / 65536 = 0x5044 → switchable (v.toNat % 128) = true →
      (v.toNat % 128 = 61 → landauUp s = false) → domainBusy s (v.toNat % 128) = false →
    exec (.pwrarbDomctrl v) s = .next (switchDomain (setF s F.PWRARB_DOMCTRL_ERR 0) (v.toNat % 128) (v.getLsbD 15)))
  ∧ (∀ (v : W32) (s : State), geckoUp s = true → v.toNat / 65536 = 0x5044 → (switchable (v.toNat % 128) = false ∨ (v.toNat % 128 = 61 ∧ landauUp s = true)) →
    exec (.pwrarbDomctrl v) s = .next (setF s F.PWRARB_DOMCTRL_ERR 1))
  ∧ (∀ (v : W32) (s : State), v.toNat / 65536 ≠ 0x5044 → exec (.pwrarbDomctrl v) s = .next s)

/-- STRUCT_BEGIN, STRUCT_SEL_WRITE, STRUCT_DATA_WRITE, STRUCT_COMMIT, STRUCT_ABANDON and STRUCT_CHECK_END (R92, R78, 03_kygus_image.md). -/
def Obligations.StructLoadCommandsComplete : Prop :=
  (∀ s : State, geckoUp s = true → s.drawbar.up = true → (getF s F.STRUCT_STATUS_STATE = 0 ∨ getF s F.STRUCT_STATUS_STATE = 4) →
    exec (.structBegin 0x4B59) s = .next (setF (clearStructError (structFresh s)) F.STRUCT_STATUS_STATE 1))
  ∧ (∀ s : State, geckoUp s = true → s.drawbar.up = true → getF s F.STRUCT_STATUS_STATE = 1 →
    exec (.structCommit 0x4B59) s = .next (setF (clearStructError s) F.STRUCT_STATUS_STATE 2)
      ∧ exec (.structAbandon 0x4B59) s = .next (setF (structFresh s) F.STRUCT_STATUS_STATE 0))
  ∧ (∀ s : State, geckoUp s = true → s.drawbar.up = true → getF s F.STRUCT_STATUS_STATE ≠ 1 →
    exec (.structCommit 0x4B59) s = .next (structSequence s) ∧ exec (.structAbandon 0x4B59) s = .next (structSequence s))
  ∧ (∀ (key : BitVec 16) (s : State), key ≠ 0x4B59 →
    exec (.structBegin key) s = .next s ∧ exec (.structCommit key) s = .next s ∧ exec (.structAbandon key) s = .next s)
  ∧ (∀ (v : W32) (s : State), geckoUp s = true → s.drawbar.up = true → getF s F.STRUCT_STATUS_STATE = 1 →
    ∃ t, exec (.structSelWrite v) s = .next t ∧ getF t F.STRUCT_SEL_TYPE = F.STRUCT_SEL_TYPE.ofWord v.toNat
      ∧ t = setF { s with struct := { s.struct with
          sel := some (F.STRUCT_SEL_TYPE.ofWord v.toNat)
          loading := s.struct.loading ++ [(F.STRUCT_SEL_TYPE.ofWord v.toNat, [])] } } F.STRUCT_SEL_TYPE (F.STRUCT_SEL_TYPE.ofWord v.toNat))
  ∧ (∀ (v : W32) (s : State) (l : List (Nat × List W32)) (ty : Nat) (w : List W32), geckoUp s = true → s.drawbar.up = true →
      getF s F.STRUCT_STATUS_STATE = 1 → s.struct.sel.isSome = true → s.struct.loading = l ++ [(ty, w)] →
    exec (.structDataWrite v) s = .next { s with struct := { s.struct with loading := l ++ [(ty, w ++ [v])] } })
  ∧ (∀ (v : W32) (s : State), getF s F.STRUCT_STATUS_STATE ≠ 1 → exec (.structDataWrite v) s = .next s)
  ∧ (∀ (ok : Bool) (s : State), geckoUp s = true → s.drawbar.up = true → getF s F.STRUCT_STATUS_STATE = 2 → s.struct.seqErr = false →
    exec (.structCheckEnd ok) s = .next (match structCheck s (s.struct.loading.map (fun e => (e.1, wordsToBytes e.2))) with
      | none => applyStruct s (s.struct.loading.map (fun e => (e.1, wordsToBytes e.2)))
      | some x => refuseImage (failStruct s x) ok))

/-- STRUCT_DRAIN, DRAIN_DONE, DRAIN_TIMEOUT, AMEND_COMMIT and AMEND_CHECK_END (R30, R97, R98, R99). -/
def Obligations.DrainAndAmendCommandsComplete : Prop :=
  (∀ (v : W32) (s : State), geckoUp s = true → landauUp s = true → v.toNat.testBit 31 = true → s.struct.drain = none →
      getF s F.STRUCT_STATUS_STATE ≠ 5 → F.STRUCT_DRAIN_CLASS.ofWord v.toNat = 1 →
    ∃ u, u = setF (setF (setF (setF (setF (setF s F.STRUCT_DRAIN_CLASS 1) F.STRUCT_DRAIN_UNIT (F.STRUCT_DRAIN_UNIT.ofWord v.toNat))
          F.STRUCT_DRAIN_INDEX (F.STRUCT_DRAIN_INDEX.ofWord v.toNat)) F.STRUCT_DRAIN_GO 1) F.STRUCT_DRAIN_DONE 0) F.STRUCT_DRAIN_CUT 0
      ∧ exec (.structDrain v) s = .next { u with struct := { u.struct with
          drain := some ⟨1, F.STRUCT_DRAIN_UNIT.ofWord v.toNat, F.STRUCT_DRAIN_INDEX.ofWord v.toNat⟩
          drained := ⟨1, F.STRUCT_DRAIN_UNIT.ofWord v.toNat, F.STRUCT_DRAIN_INDEX.ofWord v.toNat⟩ :: s.struct.drained } })
  ∧ (∀ (v : W32) (s : State), geckoUp s = true → landauUp s = true → v.toNat.testBit 31 = true →
      (s.struct.drain.isSome = true ∨ getF s F.STRUCT_STATUS_STATE = 5) →
    exec (.structDrain v) s = .next (structError s ⟨0x82, 0, 0⟩))
  ∧ (∀ (v : W32) (s : State), geckoUp s = true → landauUp s = true → v.toNat.testBit 31 = true → s.struct.drain = none →
      getF s F.STRUCT_STATUS_STATE ≠ 5 → (F.STRUCT_DRAIN_CLASS.ofWord v.toNat = 0 ∨ 3 < F.STRUCT_DRAIN_CLASS.ofWord v.toNat) →
    exec (.structDrain v) s = .next (structError s ⟨0x80, 0, 0⟩))
  ∧ (∀ (s : State) (p : Part), s.struct.drain = some p → routesOn s p = [] → partTesting s p = false →
    exec .drainDone s = .next (setF (setF { s with struct := { s.struct with drain := none } } F.STRUCT_DRAIN_DONE 1) F.STRUCT_DRAIN_GO 0))
  ∧ (∀ (s : State) (p : Part) (t : TagEntry) (unit tile : Nat), s.struct.drain = some p → p.cls ≠ 3 → t ∈ routesOn s p → canRestart s p unit tile = true →
    exec (.drainTimeout t.tag unit tile) s = .next (if routesOn (setF (restartRoute s p t.tag unit tile) F.STRUCT_DRAIN_CUT 1) p = []
      then drainDone (setF (restartRoute s p t.tag unit tile) F.STRUCT_DRAIN_CUT 1) else setF (restartRoute s p t.tag unit tile) F.STRUCT_DRAIN_CUT 1))
  ∧ (∀ s : State, geckoUp s = true → s.drawbar.up = true → getF s F.STRUCT_STATUS_STATE = 3 → s.struct.drain = none →
      isSet s F.PWRARB_STATUS_MODE_BUSY = false → 1 ≤ (amendPart s).1.cls → (amendPart s).1.cls ≤ 3 →
    exec (.amendCommit 0x4B59) s = .next (setF (clearStructError
      (appendRetire s (amendPart s).1.cls (amendPart s).1.unit (amendPart s).1.idx (amendPart s).2)) F.STRUCT_STATUS_STATE 5))
  ∧ (∀ s : State, geckoUp s = true → s.drawbar.up = true →
      (getF s F.STRUCT_STATUS_STATE = 5 ∨ s.struct.drain.isSome = true ∨ isSet s F.PWRARB_STATUS_MODE_BUSY = true) →
    exec (.amendCommit 0x4B59) s = .next (structError s ⟨0x82, 0, 0⟩))
  ∧ (∀ s : State, getF s F.STRUCT_STATUS_STATE = 5 → amendViolation s = none →
    exec .amendCheckEnd s = .next (setF (retireEvent (amended s) (amendPart s).1.cls (amendPart s).1.unit (amendPart s).1.idx) F.STRUCT_STATUS_STATE 3))
  ∧ (∀ (s : State) (v : Violation), getF s F.STRUCT_STATUS_STATE = 5 → amendViolation s = some v →
    exec .amendCheckEnd s = .next (setF (structError s v) F.STRUCT_STATUS_STATE 3))

/-- SQ_TAIL_DOORBELL, CQ_HEAD_DOORBELL, SQ_ENTRY_FETCH, COMMAND_HANDOFF, ROUTE_END, COMPLETION_POST, INTERRUPT_COALESCE_TIMER (R110, R111, R113, R116, R117, R118, R121, R125, R134, 04_host_queues.md). -/
def Obligations.QueueCommandsComplete : Prop :=
  (∀ (fn qid : Nat) (v : W32) (ide : Bool) (s : State) (p : QueuePair), doorbellThere s fn qid = true → tlpTaken s ide = true → findPair s fn qid = some p → v.toNat % 65536 < p.sqSize →
    exec (.sqTailDoorbell fn qid ⟨v, ide⟩) s = .next (updPair s fn qid (fun p => { p with sqTail := v.toNat % 65536 })))
  ∧ (∀ (fn qid : Nat) (v : W32) (ide : Bool) (s : State), doorbellThere s fn qid = true → tlpTaken s ide = true →
      (findPair s fn qid = none ∨ ∃ p, findPair s fn qid = some p ∧ p.sqSize ≤ v.toNat % 65536) →
    exec (.sqTailDoorbell fn qid ⟨v, ide⟩) s = .next (badDoorbell s fn qid (v.toNat % 65536) false))
  ∧ (∀ (fn qid : Nat) (v : W32) (ide : Bool) (s : State) (p : QueuePair), doorbellThere s fn qid = true → tlpTaken s ide = true → findPair s fn qid = some p → v.toNat % 65536 < p.cqSize →
      ahead p.cqSize p.cqHead (v.toNat % 65536) ≤ ahead p.cqSize p.cqHead p.cqTail →
    exec (.cqHeadDoorbell fn qid ⟨v, ide⟩) s = .next (updPair s fn qid (fun p => { p with cqHead := v.toNat % 65536 })))
  ∧ (∀ (fn qid : Nat) (v : W32) (ide : Bool) (s : State) (p : QueuePair), doorbellThere s fn qid = true → tlpTaken s ide = true → findPair s fn qid = some p →
      (p.cqSize ≤ v.toNat % 65536 ∨ ahead p.cqSize p.cqHead p.cqTail < ahead p.cqSize p.cqHead (v.toNat % 65536)) →
    exec (.cqHeadDoorbell fn qid ⟨v, ide⟩) s = .next (badDoorbell s fn qid (v.toNat % 65536) true))
  ∧ (∀ (fn qid : Nat) (v : W32) (ide : Bool) (s : State), (doorbellThere s fn qid = false ∨ tlpTaken s ide = false) →
    exec (.sqTailDoorbell fn qid ⟨v, ide⟩) s = .next s ∧ exec (.cqHeadDoorbell fn qid ⟨v, ide⟩) s = .next s)
  ∧ (∀ (fn qid tag : Nat) (e : Bytes) (s : State) (p : QueuePair), findPair s fn qid = some p → fetchOk s fn tag p = true →
    ∃ u t, u = updPair (noteFetch s fn qid) fn qid (fun x => { x with sqHead := (p.sqHead + 1) % p.sqSize })
      ∧ t = freshTag u fn qid tag ((p.sqHead + 1) % p.sqSize) (sliceZ e 0 128)
      ∧ exec (.sqEntryFetch fn qid tag (some e)) s = .next (match queueChecks u fn qid (sliceZ e 0 128) with
        | some o => addTag u { t with commit := .failed, done := some o }
        | none => if opLocal (seOpcode (sliceZ e 0 128)) then addTag u t else windowCheck u t))
  ∧ (∀ (fn qid tag : Nat) (s : State) (p : QueuePair), findPair s fn qid = some p → fetchOk s fn tag p = true →
    exec (.sqEntryFetch fn qid tag none) s = .next (funcError s fn))
  ∧ (∀ (tag core : Nat) (s : State) (t : TagEntry), findTag s tag = some t → t.commit = .waiting → t.handed = false → 0x10 ≤ seOpcode t.entry →
      orderOk s t = true → isSet s F.PWRARB_STATUS_MODE_BUSY = false → t.dupWait = false →
    exec (.commandHandoff tag core) s = .next (handOver s t core))
  ∧ (∀ (tag : Nat) (l m w : Bool) (s : State) (t : TagEntry) (r : RouteAt) (o : Outcome) (e : Effect), findTag s tag = some t → running t = true →
      t.route = some r → t.staged = some (o, e) → endWaits s r e = false →
    exec (.routeEnd tag l ⟨m, w⟩) s = .next (routeEnd s t r o e l m w))
  ∧ (∀ (s : State) (t : TagEntry) (r : RouteAt) (o : Outcome) (e : Effect) (l m w : Bool),
      endWrites s t r e l m w o = if w = false ∧ t.drop = false ∧ (endEffect s t (endBody s r e) l m (endOutcome s t r o)).2.output ≠ [] then
          (s, endResult s t r (outStatus stDMA_ERROR))
        else ((endEffect s t (endBody s r e) l m (endOutcome s t r o)).1,
          endResult (endEffect s t (endBody s r e) l m (endOutcome s t r o)).1 t r (endEffect s t (endBody s r e) l m (endOutcome s t r o)).2))
  ∧ (∀ (op : Nat) (r : RouteAt) (st : Nat), (r.integrity = true → endStatus op r st = stINTEGRITY)
      ∧ (r.integrity = false → r.forced = true → st = stOK → endStatus op r st = if 0x32 ≤ op ∧ op ≤ 0x34 then stVERIFY_FAILED else stSIGN_CHECK_FAILED)
      ∧ (r.integrity = false → r.forced = false → endStatus op r st = st))
  ∧ (∀ (tag : Nat) (s : State) (t : TagEntry) (o : Outcome) (p : QueuePair), findTag s tag = some t → t.done = some o → t.drop = false →
      findPair s t.fn t.qid = some p → cqRoom p = true → ideHolds s = false → abortWaits s t = false →
    exec (.completionPost tag true) s = .next (lifeDue (afterPost (postEntry s t o p) t o))
      ∧ exec (.completionPost tag false) s = .next (lifeDue (funcError s t.fn)))
  ∧ (∀ (fn qid : Nat) (s : State) (p : QueuePair), findPair s fn qid = some p → p.unsignalled ≠ 0 → p.coalTime ≠ 0 →
    exec (.interruptCoalesceTimer fn qid) s = .next (signal (updPair s fn qid (fun p => { p with unsignalled := 0 })) fn p.vector))

/-- ADMIN_ENABLE, ADMIN_READY, ADMIN_DISABLE, NOP, IDENTIFY, ABORT, CREATE_QP, DELETE_QP, DELETE_QP_COMPLETE, GET_STATUS (R107, R108, R122, R129, R131, R132, R138, 04_host_queues.md). -/
def Obligations.AdminCommandsComplete : Prop :=
  (∀ (fn : Nat) (ide : Bool) (s : State), hostReach s = true → fnExists s fn = true → tlpTaken s ide = true →
    exec (.adminEnable ⟨fn, ide⟩) s = .next (setF s (F.ADMIN_CTRL_EN fn) 1)
      ∧ ∃ u, u = clearFuncErr (setF (setF (dropFunction s fn) (F.ADMIN_CTRL_EN fn) 0) (F.ADMIN_STATUS_RDY fn) 0) fn
        ∧ exec (.adminDisable ⟨fn, ide⟩) s = .next (lifeDue { u with qm := { u.qm with enStale := u.qm.enStale.filter (fun n => n != fn) } }))
  ∧ (∀ (fn : Nat) (s : State), hostReach s = true → fnExists s fn = true → s.qm.busMaster.contains fn = true → isSet s (F.ADMIN_CTRL_EN fn) = true →
      isSet s (F.ADMIN_STATUS_RDY fn) = false → 1 ≤ getF s (F.ADMIN_AQSIZE_ASQ fn) → 1 ≤ getF s (F.ADMIN_AQSIZE_ACQ fn) → findPair s fn 0 = none →
      s.qm.enStale.contains fn = false →
    exec (.adminReady fn) s = .next (setF { s with qm := { s.qm with pairs := s.qm.pairs ++ [adminPair s fn] } } (F.ADMIN_STATUS_RDY fn) 1))
  ∧ (∀ (fn : Nat) (s : State), (getF s (F.ADMIN_AQSIZE_ASQ fn) = 0 ∨ getF s (F.ADMIN_AQSIZE_ACQ fn) = 0 ∨ s.qm.enStale.contains fn = true) → exec (.adminReady fn) s = .next s)
  ∧ (∀ (tag : Nat) (s : State) (t : TagEntry), adminTag s tag 0 = some t →
    exec (.nop (.admin tag)) s = .next (updTag s t.tag (fun x => { x with commit := .started, done := some (outStatus stOK) })))
  ∧ (∀ (tag : Nat) (s : State) (t : TagEntry), adminTag s tag 1 = some t →
    ∀ w, exec (.identify ⟨tag, w⟩) s = .next (adminDone s t (if seOutLen t.entry < 256 then { outBad stBAD_LENGTH 0x34 with result := 256 }
      else (overLong t.entry).getD (if w then outData 0 (bar0Bytes s t.fn 0 64) else outStatus stDMA_ERROR))))
  ∧ (∀ (tag : Nat) (s : State) (t : TagEntry), adminTag s tag 5 = some t →
    ∀ w, exec (.getStatus ⟨tag, w⟩) s = .next (adminDone s t (if seOutLen t.entry < 64 then { outBad stBAD_LENGTH 0x34 with result := 64 }
      else (overLong t.entry).getD (if w then outData 0 (bar0Bytes s t.fn 0x200000 16) else outStatus stDMA_ERROR))))
  ∧ (∀ (tag : Nat) (s : State) (t : TagEntry), adminTag s tag 3 = some t → createQpBad s t = none →
    exec (.createQp tag) s = .next (updTag { s with qm := { s.qm with pairs := s.qm.pairs ++ [newPair t] } } t.tag
      (fun x => { x with commit := .started, done := some (outResult (seOp t.entry 0x50 2)) })))
  ∧ (∀ (tag d : Nat) (s : State) (t : TagEntry), adminTag s tag 3 = some t → createQpBad s t = some d →
    exec (.createQp tag) s = .next (updTag s t.tag (fun x => { x with commit := .failed, done := some (outBad stBAD_FIELD d) })))
  ∧ (∀ (tag : Nat) (s : State) (t : TagEntry), adminTag s tag 4 = some t → seOp t.entry 0x40 2 ≠ 0 → (findPair s t.fn (seOp t.entry 0x40 2)).isSome = true →
      (findPair s t.fn (seOp t.entry 0x40 2)).bind (fun p => p.deleting) = none →
    exec (.deleteQp tag) s = .next (updTag (updPair s t.fn (seOp t.entry 0x40 2) (fun p => { p with deleting := some tag, sqTail := p.sqHead })) tag
      (fun x => { x with commit := .started })))
  ∧ (∀ (tag : Nat) (s : State) (t : TagEntry), adminTag s tag 4 = some t → (seOp t.entry 0x40 2 = 0 ∨ findPair s t.fn (seOp t.entry 0x40 2) = none) →
    exec (.deleteQp tag) s = .next (adminDone s t (outBad stBAD_FIELD 0x40)))
  ∧ (∀ (tag : Nat) (s : State) (t : TagEntry) (p : QueuePair), findTag s tag = some t → s.qm.pairs.find? (fun p => p.deleting = some tag) = some p →
      s.qm.tags.any (fun x => x.fn = p.fn && x.qid = p.qid) = false →
    exec (.deleteQpComplete tag) s = .next (updTag { s with qm := { s.qm with pairs := s.qm.pairs.filter (fun x => !(x.fn = p.fn && x.qid = p.qid)) } } t.tag
      (fun x => { x with done := some (outStatus stOK) })))
  ∧ (∀ (tag : Nat) (s : State) (t x : TagEntry), adminTag s tag 2 = some t → seOp t.entry 0x40 8 ≠ 0 → overLong t.entry = none → t.dupWait = false →
      abortTarget s (seDomain t.entry) (seOp t.entry 0x40 8) tag = some x →
    exec (.abort tag) s = .next (if x.commit = .waiting ∧ x.done = none ∧ seOpcode x.entry ≠ 2 then abortEnds (applyAborted s x) t (outResult 1)
      else abortEnds s t (outStatus stTOO_LATE)))
  ∧ (∀ (tag : Nat) (s : State) (t : TagEntry), adminTag s tag 2 = some t → seOp t.entry 0x40 8 ≠ 0 → overLong t.entry = none → t.dupWait = false →
      abortTarget s (seDomain t.entry) (seOp t.entry 0x40 8) tag = none → winFind s (seDomain t.entry) (seOp t.entry 0x40 8) = none →
    exec (.abort tag) s = .next (abortEnds (winAdd s (seDomain t.entry)
      { reqId := seOp t.entry 0x40 8, digest := 0, state := .preAborted, status := 0, result := 0, outBytes := 0 }) t (outResult 2)))

/-- FUNCTION_LEVEL_RESET, VF_ENABLE_CLEAR, BUS_MASTER_ENABLE_CLEAR, DOE_DATA_OBJECT, IDE_TLP_FAILURE (R136, R137, R138, R139, R140). -/
def Obligations.FunctionAndLinkCommandsComplete : Prop :=
  (∀ (fn : Nat) (s : State), hostReach s = true → fnExists s fn = true → fn ≠ 0 →
    exec (.functionLevelReset fn) s = .next (lifeDue (flr (endPattern s (fun _ => true)) fn)))
  ∧ (∀ s : State, hostReach s = true → exec (.functionLevelReset 0) s = .next (lifeDue (clearVfs (flr (endPattern s (fun _ => true)) 0))))
  ∧ (∀ s : State, hostReach s = true → exec .vfEnableClear s = .next (lifeDue (clearVfs s)))
  ∧ (∀ (fn : Nat) (s : State), hostReach s = true → fnExists s fn = true →
    ∃ u w, u = setF (dropFunction s fn) (F.ADMIN_STATUS_RDY fn) 0
      ∧ w = (if isSet s (F.ADMIN_STATUS_RDY fn) = true ∧ s.qm.enStale.contains fn = false then
          { u with qm := { u.qm with enStale := u.qm.enStale ++ [fn] } } else u)
      ∧ exec (.busMasterEnableClear fn) s = .next (lifeDue { w with qm := { w.qm with busMaster := w.qm.busMaster.filter (fun n => n != fn) } }))
  ∧ (∀ (b : Bytes) (s : State), hostReach s = true → b.length ≤ 262144 →
    exec (.doeDataObject 1 0 b) s = .next { s with qm := { s.qm with doeOut := s.qm.doeOut ++ [doeDiscovery (byteAt b 0)] } }
      ∧ exec (.doeDataObject 1 1 b) s = .next (spdmMessage s true b) ∧ exec (.doeDataObject 1 2 b) s = .next (spdmSecured s true b))
  ∧ (∀ s : State, s.qm.ideKeyed = true → s.power.dataLink = true →
    exec .ideTlpFailure s = .next (bump (setF { s with qm := { s.qm with ideKeyed := false, aerErrs := s.qm.aerErrs + 1 } } F.PCIEC_IDE_STATE 0)
      F.PCIEC_IDE_FAILS F.PCIEC_IDE_SAT))

/-- KEY_GENERATE, KEY_IMPORT, KEY_EXPORT, KEY_DELETE, KEY_INFO, KEY_RESTRICT, PUBKEY_ENROLL, PUBKEY_READ: what each commits when its checks pass (R147, R149, R150, R185, R186, R187, R188, 05_key_store.md). -/
def Obligations.KeyRowsCommit : Prop :=
  (∀ (r : Run) (s : State) (t : TagEntry), Passes s r 0x10 t (chkKeyGenerate s t) → isAsym (seOp t.entry 0x40 1) = false →
      StoreReady s t (128 + recSize (hClass (seKeyA t.entry))) → canStart s t 2 r 0 = true →
    Commits (.keyGenerate r) s t (fun o e => o = outData 0 [] ∧ ∃ body,
      e = .putKey (hSlot (seKeyA t.entry)) (draftObj t.entry (seOp t.entry 0x40 1) (seOp t.entry 0x42 2) (seOp t.entry 0x48 8) 1 body)))
  ∧ (∀ (r : Run) (s : State) (t : TagEntry), Passes s r 0x10 t (chkKeyGenerate s t) → isEcPriv (seOp t.entry 0x40 1) = true → r.check = false →
      (seOp t.entry 0x40 1 = 0x11 → combFree s r.unit = true ∧ r.sramCorr = 0 ∧ r.sramUncorr = false) →
      StoreReady s t (128 + recSize (hClass (seKeyA t.entry))) →
      canStartIn s t (tagWorld s t) 1 r (pkeClass (seOp t.entry 0x40 1) (seOp t.entry 0x42 2)) (some (0x10, 0)) = true →
    Commits (.keyGenerate r) s t (fun o e => ∃ d k, o = outData 0 (pubOf k) ∧ e = .putKey (hSlot (seKeyA t.entry)) k
      ∧ k = draftObj t.entry (seOp t.entry 0x40 1) (seOp t.entry 0x42 2) (seOp t.entry 0x48 8) 1 (d ++ ecPublic (ecCurve (seOp t.entry 0x40 1)) d)))
  ∧ (∀ (r : Run) (s v : State) (t : TagEntry) (body : Bytes) (k : KeyObj), Passes s r 0x10 t (chkKeyGenerate s t) → seOp t.entry 0x40 1 = 0x20 →
      r.check = false → rsaGenerate s (seOp t.entry 0x42 2) = (some body, v) →
      k = draftObj t.entry 0x20 (seOp t.entry 0x42 2) (seOp t.entry 0x48 8) 1 body → rsaKeyOk k = true →
      StoreReady s t (128 + recSize (hClass (seKeyA t.entry))) →
      canStartIn s t (tagWorld s t) 1 r (pkeClass 0x20 (seOp t.entry 0x42 2)) (some (0x10, 0)) = true →
    Commits (.keyGenerate r) s t (fun o e => o = outData 0 (pubOf k) ∧ e = .putKey (hSlot (seKeyA t.entry)) k))
  ∧ (∀ (r : Run) (s : State) (t : TagEntry) (b : Bytes), r.input = some b → Passes s r 0x11 t (chkKeyImport r s t) →
      r.fails = [] →
      (storedObj s (leAt (sliceZ b 0 (seInLen t.entry)) 8 8) = none ∨ (readRecord (countSusp s 2 r) (leAt (sliceZ b 0 (seInLen t.entry)) 8 8) []).1 = true) →
      StoreReady s t (128 + seInLen t.entry) → canStart s t 2 r 0 = true →
    Commits (.keyImport r) s t (fun o e => o = outStatus stOK ∧ e = .importKey (sliceZ b 0 (seInLen t.entry))))
  ∧ (∀ (r : Run) (s : State) (t : TagEntry) (k : KeyObj) (n : Nat), Passes s r 0x12 t (chkKeyExport s t) → r.fails = [] → StoreReady s t n →
      canStart s t 2 r 0 = true → (readRecord (countSusp s 2 r) (seKeyA t.entry) []).1 = true → liveObj s (seKeyA t.entry) = some k →
    Commits (.keyExport r) s t (fun o e => e = .nothing ∧ ∃ v, o = outData (wrapOut v k).1.length (wrapOut v k).1))
  ∧ (∀ (r : Run) (s : State) (t : TagEntry), Passes s r 0x13 t (chkKeyDelete s t) → StoreReady s t 128 → canStart s t 2 r 0 = true →
    Commits (.keyDelete r) s t (fun o e => o = outResult (if hGen (seKeyA t.entry) = 1023 then 0 else hGen (seKeyA t.entry) + 1)
      ∧ e = .deleteKey (seKeyA t.entry)))
  ∧ (∀ (r : Run) (s : State) (t : TagEntry) (k : KeyObj), Passes s r 0x14 t (chkKeyInfo s t) → r.fails = [] → canStart s t 3 r 0 = true →
      (readRecord s (seKeyA t.entry) []).1 = true → liveObj s (seKeyA t.entry) = some k →
    Commits (.keyInfo r) s t (fun o e => o = outData k.version (objHeader k) ∧ e = .nothing))
  ∧ (∀ (r : Run) (s : State) (t : TagEntry) (k : KeyObj), Passes s r 0x15 t (chkKeyRestrict s t) → r.fails = [] → StoreReady s t 128 →
      canStart s t 2 r 0 = true → (useKey (countSusp s 2 r) (seKeyA t.entry) []).1 = some k →
    Commits (.keyRestrict r) s t (fun o e => o = outStatus stOK
      ∧ e = .restrictKey (seKeyA t.entry) (seOp t.entry 0x48 8) (seOp t.entry 0x44 4) (seOp t.entry 0x50 1)))
  ∧ (∀ (r : Run) (s : State) (t : TagEntry) (b : Bytes), r.input = some b → Passes s r 0x16 t (chkPubkeyEnroll r s t) → isEcPub (seOp t.entry 0x40 1) = true →
      pointForm (seOp t.entry 0x40 1) (sliceZ b 0 (seInLen t.entry)) = true →
      ecPointValid (ecCurve (seOp t.entry 0x40 1)) (sliceZ b 0 (seInLen t.entry)) = true →
      StoreReady s t (128 + recSize (hClass (seKeyA t.entry))) →
      canStartIn s t (tagWorld s t) 1 r (pkeClass (seOp t.entry 0x40 1) (if seOp t.entry 0x40 1 = 0x28 then rsaInBits (seInLen t.entry) else 0))
        (some (0x16, 0)) = true →
    Commits (.pubkeyEnroll r) s t (fun o e => o = outStatus stOK ∧ ∃ k : KeyObj, k.useLimit = 0
      ∧ k.body = pointBytes (seOp t.entry 0x40 1) (sliceZ b 0 (seInLen t.entry)) ∧ e = .putKey (hSlot (seKeyA t.entry)) k))
  ∧ (∀ (r : Run) (s : State) (t : TagEntry) (k : KeyObj), Passes s r 0x17 t (chkPubkeyRead s t) → r.fails = [] → canStart s t 3 r 0 = true →
      (useKey s (seKeyA t.entry) []).1 = some k →
    Commits (.pubkeyRead r) s t (fun o e => o = outData (pubOf k).length (pubOf k) ∧ e = .nothing))

/-- SNAPSHOT_BEGIN, SNAPSHOT_READ, JOURNAL_READ, JOURNAL_ACK, RESTORE_BEGIN, RESTORE_DATA, RESTORE_END, DOMAIN_CREATE, DOMAIN_ERASE, DOMAIN_ESCROW_EXPORT, DOMAIN_ESCROW_RESTORE, STORE_STATUS: what each commits when its checks pass (R152, R153, R154, R157, R177, R179, R180, R181, R182, R183, R543, 05_key_store.md). -/
def Obligations.StoreRowsCommit : Prop :=
  (∀ (r : Run) (s : State) (t : TagEntry), Passes s r 0x1C t (chkSnapshotBegin s t) → canStart s t 3 r 0 = true →
    Commits (.snapshotBegin r) s t (fun o e => o = outStatus stOK ∧ e = .snapBegin (seDomain t.entry)))
  ∧ (∀ (r : Run) (s : State) (t : TagEntry) (sn : Snap), Passes s r 0x1D t (chkSnapshotRead s t) → r.fails = [] → StoreReady s t 0 →
      (domainOf s (seDomain t.entry)).snap = some sn → canStart s t 2 r 0 = true →
      (readAll (countSusp s 2 r) [] (chunkObjs s (seDomain t.entry) (seOp t.entry 0x48 4))).1 = true →
    Commits (.snapshotRead r) s t (fun o e => e = .nothing
      ∧ ∃ m b, b = (chunkBytes { countSusp s 2 r with hbm := m } (seDomain t.entry) sn (seOp t.entry 0x48 4)).1 ∧ o = outData b.length b))
  ∧ (∀ (r : Run) (s : State) (t : TagEntry) (recs : List JRec), Passes s r 0x1E t (chkJournalRead s t) → canStart s t 3 r 0 = true →
      recs = takeFit ((domRecs s (seDomain t.entry)).filter (fun x => max 1 (seOp t.entry 0x40 8) ≤ x.seq)) (seOutLen t.entry) →
      (journalReads s r.fails recs).1 = true →
    Commits (.journalRead r) s t (fun o e => e = .nothing
      ∧ o = outData (((recs.getLast?).map (fun x => x.seq)).getD (domainOf s (seDomain t.entry)).seq) (recs.flatMap (fun x => x.body))))
  ∧ (∀ (r : Run) (s : State) (t : TagEntry), Passes s r 0x1F t (chkJournalAck s t) → canStart s t 3 r 0 = true →
    Commits (.journalAck r) s t (fun o e => o = outStatus stOK ∧ e = .journalAck (seDomain t.entry) (seOp t.entry 0x40 8)))
  ∧ (∀ (r : Run) (s : State) (t : TagEntry), Passes s r 0x20 t (chkRestoreBegin s t) → canStart s t 3 r 0 = true →
      ((domainOf s (seDomain t.entry)).state ≠ .live
        ∨ s.qm.tags.any (fun x => running x && seDomain x.entry = seDomain t.entry && opEffectful s (seOpcode x.entry)) = false) →
    Commits (.restoreBegin r) s t (fun o e => o = outResult 0 ∧ e = .restoreBegin (seDomain t.entry) (seOp t.entry 0x40 8)))
  ∧ (∀ (r : Run) (s : State) (t : TagEntry) (b : Bytes), r.input = some b → Passes s r 0x21 t (chkRestoreData s t) → StoreReady s t 0 →
      canStart s t 2 r 0 = true →
    Commits (.restoreData r) s t (fun o e => o = outStatus stOK ∧ e = .restoreData (seDomain t.entry) (sliceZ b 0 (seInLen t.entry))))
  ∧ (∀ (r : Run) (s : State) (t : TagEntry), Passes s r 0x22 t (chkRestoreEnd s t) → canStart s t 3 r 0 = true →
    Commits (.restoreEnd r) s t (fun o e => o = outStatus stOK ∧ e = .restoreEnd (seDomain t.entry)))
  ∧ (∀ (r : Run) (s : State) (t : TagEntry), Passes s r 0x23 t (chkDomainCreate s t) → canStart s t 3 r 0 = true →
    (domCreateFree s.struct.built (seDomain t.entry) = true →
      Commits (.domainCreate r) s t (fun o e => o = outStatus stOK ∧ e = .domainCreate (seDomain t.entry)))
    ∧ (domCreateFree s.struct.built (seDomain t.entry) = false → Approved s t [] →
      CommitsByQuorum (.domainCreate r) s t (fun o e => o = outStatus stOK ∧ e = .domainCreate (seDomain t.entry))))
  ∧ (∀ (r : Run) (s : State) (t : TagEntry), Passes s r 0x24 t (chkDomainErase s t) → canStart s t 3 r 0 = true → Approved s t [] →
    CommitsByQuorum (.domainErase r) s t (fun o e => o = outResult 0 ∧ e = .domainErase (seDomain t.entry)))
  ∧ (∀ (r : Run) (s : State) (t : TagEntry) (c : Bytes), s.quorum.cset = some c →
      Passes s r 0x25 t [spareOperands t.entry [], shortOut t.entry (136 + 112 * csetN c), needDmk s t] → canStartIn s t 1 1 r 0 (some (0x25, 0)) = true →
      Approved s t [] → needSealedTiles s = none → StoreReady s t 0 →
    CommitsByQuorum (.domainEscrowExport r) s t (fun o e => e = .nothing
      ∧ o = outData (escrowBlob s (seDomain t.entry) c).1.length (escrowBlob s (seDomain t.entry) c).1))
  ∧ (∀ (r : Run) (s : State) (t : TagEntry) (b sec : Bytes) (x : Session), r.input = some b → Passes s r 0x26 t (chkDomainEscrowRestore r s t) →
      canStartIn s t 1 1 r 0 (some (0x26, 0)) = true → Approved s t (sliceZ b 0 (seInLen t.entry)) → needSealedTiles s = none → s.quorum.session = some x →
      openEscrow x (sliceZ b 0 (seInLen t.entry)) = some sec → escrowForm (sliceZ b 0 (seInLen t.entry)) = true →
    CommitsByQuorum (.domainEscrowRestore r) s t (fun o e => o = outResult (leAt sec 32 8)
      ∧ e = .escrowRestore (seDomain t.entry) (sec.take 32) (leAt sec 32 8)))
  ∧ (∀ (r : Run) (s : State) (t : TagEntry), Passes s r 0x27 t (chkStoreStatus t) → canStart s t 3 r 0 = true →
    Commits (.storeStatus r) s t (fun o e => e = .nothing ∧ o = outData (stateNum (domainOf s (seDomain t.entry)).state) (storeStatusBytes s t)))

/-- KEYBLOCK_IMPORT, KEYBLOCK_EXPORT, VTABLE_CTRL, VTABLE_BUILD, VTABLE_EVICTION, KCACHE_EVICT_DOMAIN, KCACHE_EVICT_ALL, KCACHE_ZEROISE, HBMC_SWAP, HBMC_SWAP_DONE (R168, R173, R174, R175, R188, 05_key_store.md). -/
def Obligations.KeyBlockTableAndCacheRows : Prop :=
  (∀ (r : Run) (s : State) (t : TagEntry) (b : Bytes) (k : KeyObj) (h : KbHeader), b = sliceZ (r.input.getD []) 0 (seInLen t.entry) →
      Passes s r 0x18 t (chkKeyblockImport r s t) → r.fails = [] → StoreReady s t (128 + recSize (hClass (seKeyA t.entry))) → canStart s t 2 r 0 = true →
      (useKey (countSusp s 2 r) (seKeyB t.entry) []).1 = some k → kbHeader b = some h →
    Commits (.keyblockImport r) s t (fun o e => match (kbOpen h k b).bind (kbObject t.entry h) with
      | none => o = outStatus stVERIFY_FAILED ∧ e = .nothing
      | some x => o = outStatus stOK ∧ e = .putKey (hSlot (seKeyA t.entry)) x))
  ∧ (∀ (r : Run) (s v : State) (t : TagEntry) (x k x1 k1 : KeyObj) (b : Bytes), Passes s r 0x19 t (chkKeyblockExport s t) → canStart s t 2 r 0 = true →
      liveObj s (seKeyA t.entry) = some x → liveObj s (seKeyB t.entry) = some k →
      kbSeal (countSusp s 2 r) (seOp t.entry 0x40 1) k x = (b, v) → (useKey v (seKeyA t.entry) r.fails).1 = some x1 →
      (useKey (useKey v (seKeyA t.entry) r.fails).2 (seKeyB t.entry) r.fails).1 = some k1 →
    Commits (.keyblockExport r) s t (fun o e => e = .nothing ∧ o = outData b.length b))
  ∧ (∀ (r : Run) (s : State) (t : TagEntry), Passes s r 0x1B t (chkVtableCtrl s t) → seOp t.entry 0x40 1 = 2 → canStart s t 3 r 0 = true →
    Commits (.vtableCtrl r) s t (fun o e => o = outResult 0 ∧ e = .vtEvict (seKeyA t.entry)))
  ∧ (∀ (r : Run) (s : State) (t : TagEntry), Passes s r 0x1B t (chkVtableCtrl s t) → seOp t.entry 0x40 1 ≠ 2 → canStart s t 1 r 2 = true →
      (hasTable s (seKeyA t.entry) = true ∨ tableRoom s (tagWorld s t) ≠ 1) →
    Commits (.vtableCtrl r) s t (fun o e => o = outResult 1 ∧ e = .vtBuilt (seKeyA t.entry)))
  ∧ (∀ (h u i w : Nat) (s : State), landauUp s = true → w = domWorldOf s (hDomain h) → s.ks.builds.any (fun b => b.handle = h) = true →
      (storedObj s h).isSome = true → hasTable s h = false → tableRoom s w = 0 → tileServes s 1 w u i = true → partIdle s 1 u i 0 = true →
      underTest s 1 u i = false →
    ∃ v, v = addTable s h ∧ exec (.vtableBuild h u i) s = .next { v with ks := { v.ks with builds := v.ks.builds.filter (fun b => b.handle != h) } })
  ∧ (∀ (h : Nat) (s : State), tableHeld s h = false → exec (.vtableEviction h) s = .next { s with ks := { s.ks with
      tables := s.ks.tables.filter (fun t => !(t.handle = h && t.evicting)) } })
  ∧ (∀ (d : Nat) (l : List Nat) (s : State), landauUp s = true →
    exec (.kcacheEvictDomain 0x4B43 d) s = .next (kcEvictAll s (fun e => e.kind = 0 && hDomain e.name = d))
      ∧ exec (.kcacheEvictAll 0x4B43) s = .next (kcEvictAll s (fun _ => true))
      ∧ ∃ v, v = cutRoutes s (fun t => l.contains t.tag || suspendedPair s t)
        ∧ exec (.kcacheZeroise 0x4B43 l) s = .next (setF { v with ks := { v.ks with cache := [] } } F.KCACHE_STATUS_ZERO_DONE 1))
  ∧ (∀ (key : BitVec 16) (d : Nat) (l : List Nat) (s : State), key ≠ 0x4B43 →
    exec (.kcacheEvictDomain key d) s = .next s ∧ exec (.kcacheEvictAll key) s = .next s ∧ exec (.kcacheZeroise key l) s = .next s)
  ∧ (∀ (k : Fin 4) (v : W32) (pc : Nat) (s : State), landauUp s = true → pc = (F.HBMC_SWAP_RETIRE k).ofWord v.toNat → v.getLsbD 31 = true →
    (swapErr s k pc ≠ 0 → exec (.hbmcSwap k v) s = .next (setF s (F.HBMC_SWAP_ERR k) (swapErr s k pc)))
    ∧ (swapErr s k pc = 0 → ∃ a b c d, a = endPattern (setF s (F.HBMC_SWAP_RETIRE k) pc)
            (fun t => t.cls = 2 && t.idx = 32 * k.val + getF s (F.HBMC_STATUS_SPARE_PC k))
        ∧ b = setF (setF (setF a (F.HBMC_SWAP_GO k) 1) (F.HBMC_SWAP_DONE k) 0) (F.HBMC_SWAP_ERR k) 0
        ∧ c = setF (setF b (F.HBMC_SWAP_MIRROR k) 1) (F.HBMC_COPY_MIB k) 0
        ∧ d = appendRetire c 4 k pc (getF c (F.HBMC_STATUS_SPARE_PC k))
        ∧ exec (.hbmcSwap k v) s = .next (updStack d k (fun x => { x with swap := hbmPos d k pc }))))
  ∧ (∀ (k : Fin 4) (n : List Nat) (s : State) (x : HbmStack) (p : Nat), s.hbm.stk[k.val]? = some x → x.swap = some p →
    ∃ a b, a = updStack (retireEvent s 4 k (physPc s k p)) k (fun x => { x with swap := none, pos := x.pos.set p (getF s (F.HBMC_STATUS_SPARE_PC k)) })
      ∧ b = setF (setF (setF { a with hbm := { a.hbm with
            poison := n.foldl (fun m n => if (linePos n).1 = p then mapPut m (lineKey k n) true else m) a.hbm.poison } }
          (F.HBMC_SWAP_MIRROR k) 0) (F.HBMC_SWAP_DONE k) 1) (F.HBMC_SWAP_GO k) 0
      ∧ exec (.hbmcSwapDone k n) s = .next (poisonCount (setF (setF b (F.HBMC_STATUS_SPARE_USED k) 1) (F.HBMC_COPY_MIB k)
          (if getF b F.SYSCTL_ID_PART = 0 then 1152 else 768))))

/-- ECDSA_SIGN, ECDSA_SIGN_MSG, ECDSA_VERIFY, ECDSA_VERIFY_MSG, ECDSA_VERIFY_EXT, ECDH_DERIVE, RSA_SIGN, RSA_VERIFY, RSA_ENCRYPT, RSA_DECRYPT, RSA_UNWRAP: what each commits (R203, R206, R207, R210, R211, R213, R214, R215, 06_public_key_engine.md). -/
def Obligations.PublicKeyRowsCommit : Prop :=
  (∀ (r : Run) (s : State) (t : TagEntry) (b : Bytes) (k : KeyObj), Passes s r 0x30 t (chkEcdsaSign s t) → CleanRun r → r.input = some b → KeyReady s (seKeyA t.entry) k →
      PkeStarts s t r (pkeClass k.typ k.bits) (k.typ = 0x11) none →
    Commits (.ecdsaSign r) s t (fun o e => e = .nothing ∧ ∃ n sig, sig = ecdsaSign (ecCurve k.typ) (k.body.take (curveOf (ecCurve k.typ)).len) (sliceZ b 0 (seInLen t.entry)) n
      ∧ o = if signChecks (ecCurve k.typ) (k.body.take (curveOf (ecCurve k.typ)).len) (sliceZ b 0 (seInLen t.entry)) sig then outData 0 sig else outStatus stSIGN_CHECK_FAILED))
  ∧ (∀ (r : Run) (s : State) (t : TagEntry) (b : Bytes) (k : KeyObj), Passes s r 0x31 t (chkEcdsaSignMsg s t) → CleanRun r → r.input = some b → KeyReady s (seKeyA t.entry) k →
      PkeStarts s t r (pkeClass k.typ k.bits) (k.typ = 0x11) (hashPart t.entry) →
    Commits (.ecdsaSignMsg r) s t (fun o e => e = .nothing ∧ ∃ n sig, sig = ecdsaSign (ecCurve k.typ) (k.body.take (curveOf (ecCurve k.typ)).len) (hashFn (seOp t.entry 0x41 1) (sliceZ b 0 (seInLen t.entry))) n
      ∧ o = if signChecks (ecCurve k.typ) (k.body.take (curveOf (ecCurve k.typ)).len) (hashFn (seOp t.entry 0x41 1) (sliceZ b 0 (seInLen t.entry))) sig then outData 0 sig else outStatus stSIGN_CHECK_FAILED))
  ∧ (∀ (r : Run) (s : State) (t : TagEntry) (b : Bytes) (k : KeyObj), Passes s r 0x32 t (chkEcdsaVerify s t) → CleanRun r → r.input = some b → KeyReady s (seKeyA t.entry) k →
      isEc k.typ = true → k.handle = seKeyA t.entry → (hasTable s k.handle = false ∨ k.typ ≠ 0x19) → PkeStarts s t r (pkeClass k.typ k.bits) (k.typ = 0x11 || k.typ = 0x19) none →
    Commits (.ecdsaVerify r) s t (fun o e => e = .nothing ∧ o = outStatus (if ecdsaVerify (ecCurve k.typ) (pubOf k) (sliceZ b (2 * ecL k.typ) (seInLen t.entry - 2 * ecL k.typ)) (sliceZ b 0 (2 * ecL k.typ)) then stOK else stVERIFY_FAILED)))
  ∧ (∀ (r : Run) (s u v : State) (t : TagEntry) (x : VTable) (b dig sig : Bytes) (k : KeyObj), Passes s r 0x32 t (chkEcdsaVerify s t) → CleanRun r →
      r.input = some b → liveObj s (seKeyA t.entry) = some k → k.handle = seKeyA t.entry → k.typ = 0x19 → hasTable s k.handle = true →
      PkeStarts (touchTable s k.handle) t r 4 true none → useKey (touchTable s k.handle) k.handle [] = (some k, u) → keyTable u k.handle = some x →
      sig = sliceZ b 0 (2 * ecL k.typ) → dig = (sliceZ b (2 * ecL k.typ) (seInLen t.entry - 2 * ecL k.typ)) →
      mcRead u (tableLine u x 0).1 (tableLines u x (tableScalar dig sig).2) [] = (true, v) →
    Commits (.ecdsaVerify r) s t (fun o e => e = .nothing ∧ o = outStatus (if tableVerify v x dig sig then stOK else stVERIFY_FAILED)))
  ∧ (∀ (r : Run) (s : State) (t : TagEntry) (b : Bytes) (k : KeyObj), Passes s r 0x33 t (chkEcdsaVerifyMsg s t) → CleanRun r → r.input = some b → KeyReady s (seKeyA t.entry) k →
      isEc k.typ = true → k.handle = seKeyA t.entry → (hasTable s k.handle = false ∨ k.typ ≠ 0x19) → PkeStarts s t r (pkeClass k.typ k.bits) (k.typ = 0x11 || k.typ = 0x19) (hashPart t.entry) →
    Commits (.ecdsaVerifyMsg r) s t (fun o e => e = .nothing ∧ o = outStatus (if ecdsaVerify (ecCurve k.typ) (pubOf k) (hashFn (seOp t.entry 0x41 1) (sliceZ b (2 * ecL k.typ) (seInLen t.entry - 2 * ecL k.typ))) (sliceZ b 0 (2 * ecL k.typ)) then stOK else stVERIFY_FAILED)))
  ∧ (∀ (r : Run) (s u v : State) (t : TagEntry) (x : VTable) (b dig sig : Bytes) (k : KeyObj), Passes s r 0x33 t (chkEcdsaVerifyMsg s t) → CleanRun r →
      r.input = some b → liveObj s (seKeyA t.entry) = some k → k.handle = seKeyA t.entry → k.typ = 0x19 → hasTable s k.handle = true →
      PkeStarts (touchTable s k.handle) t r 4 true (hashPart t.entry) → useKey (touchTable s k.handle) k.handle [] = (some k, u) → keyTable u k.handle = some x →
      sig = sliceZ b 0 (2 * ecL k.typ) → dig = (hashFn (seOp t.entry 0x41 1) (sliceZ b (2 * ecL k.typ) (seInLen t.entry - 2 * ecL k.typ))) →
      mcRead u (tableLine u x 0).1 (tableLines u x (tableScalar dig sig).2) [] = (true, v) →
    Commits (.ecdsaVerifyMsg r) s t (fun o e => e = .nothing ∧ o = outStatus (if tableVerify v x dig sig then stOK else stVERIFY_FAILED)))
  ∧ (∀ (r : Run) (s : State) (t : TagEntry) (b : Bytes) (ty n : Nat), ty = seOp t.entry 0x40 1 → n = extPointLen ty (seOp t.entry 0x51 1) →
      Passes s r 0x34 t (chkEcdsaVerifyExt s t) → CleanRun r → r.input = some b → PkeStarts s t r (pkeClass ty 0) (ty = 0x19) none →
    Commits (.ecdsaVerifyExt r) s t (fun o e => e = .nothing
      ∧ o = if pointForm ty ((sliceZ b 0 (seInLen t.entry)).take n) && ecPointValid (ecCurve ty) ((sliceZ b 0 (seInLen t.entry)).take n) then
          (if ecdsaVerify (ecCurve ty) ((sliceZ b 0 (seInLen t.entry)).take n) ((sliceZ b 0 (seInLen t.entry)).drop (n + 2 * ecL ty))
              (slice (sliceZ b 0 (seInLen t.entry)) n (2 * ecL ty))
            then outStatus stOK else outStatus stVERIFY_FAILED)
        else outStatus stPOINT_INVALID))
  ∧ (∀ (r : Run) (s : State) (t : TagEntry) (b pt z : Bytes) (k : KeyObj), Passes s r 0x35 t (chkEcdhDerive s t) → CleanRun r → r.input = some b →
      KeyReady s (seKeyA t.entry) k → StoreReady s t (128 + recSize (hClass (seKeyB t.entry))) → PkeStarts s t r (pkeClass k.typ k.bits) false hkdfPart →
      pt = (sliceZ b 0 (seInLen t.entry)).take (extPointLen k.typ (seOp t.entry 0x51 1)) → pointForm k.typ pt = true →
      ecPointValid (ecCurve k.typ) pt = true → z = ecdhX (ecCurve k.typ) (k.body.take (ecL k.typ)) pt → z.isEmpty = false →
    Commits (.ecdhDerive r) s t (fun o e => o = outStatus stOK ∧ e = .putKey (hSlot (seKeyB t.entry)) (draftObj t.entry (seOp t.entry 0x40 1)
      (seOp t.entry 0x42 2) (seOp t.entry 0x48 8) 1
      (ecdhKey t.entry z (slice (sliceZ b 0 (seInLen t.entry)) (extPointLen k.typ (seOp t.entry 0x51 1)) (seOp t.entry 0x52 1))))))
  ∧ (∀ (r : Run) (s : State) (t : TagEntry) (b : Bytes) (k : KeyObj), Passes s r 0x38 t (chkRsaSign s t) → CleanRun r → r.input = some b → KeyReady s (seKeyA t.entry) k →
      PkeStarts s t r (pkeClass k.typ k.bits) false (if seOp t.entry 0x42 1 = 2 then mgfPart t.entry else none) →
    Commits (.rsaSign r) s t (fun o e => e = .nothing ∧ ∃ salt sig, sig = rsaPriv k (beNat (rsaEncode t.entry (sliceZ b 0 (seInLen t.entry)) salt (rsaLen k)))
      ∧ o = if rsaPub k (beNat sig) = rsaEncode t.entry (sliceZ b 0 (seInLen t.entry)) salt (rsaLen k) then outData 0 sig else outStatus stSIGN_CHECK_FAILED))
  ∧ (∀ (r : Run) (s : State) (t : TagEntry) (b : Bytes) (k : KeyObj), Passes s r 0x39 t (chkRsaVerify s t) → CleanRun r → r.input = some b → KeyReady s (seKeyA t.entry) k →
      PkeStarts s t r (pkeClass k.typ k.bits) false (if seOp t.entry 0x42 1 = 2 then mgfPart t.entry else none) →
    Commits (.rsaVerify r) s t (fun o e => e = .nothing ∧ ∃ sig dig, sig = beNat ((sliceZ b 0 (seInLen t.entry)).take (rsaLen k)) ∧ dig = (sliceZ b 0 (seInLen t.entry)).drop (rsaLen k)
      ∧ o = if sig < rsaN k ∧ (if seOp t.entry 0x42 1 = 1 then decide (rsaPub k sig = emsaV15 (seOp t.entry 0x41 1) dig (rsaLen k))
          else pssOk (seOp t.entry 0x41 1) dig (rsaPub k sig)) = true
        then outStatus stOK else outStatus stVERIFY_FAILED))
  ∧ (∀ (r : Run) (s : State) (t : TagEntry) (b : Bytes) (k : KeyObj), Passes s r 0x3A t (chkRsaEncrypt s t) → CleanRun r → r.input = some b → KeyReady s (seKeyA t.entry) k →
      PkeStarts s t r (pkeClass k.typ k.bits) false (mgfPart t.entry) →
    Commits (.rsaEncrypt r) s t (fun o e => e = .nothing
      ∧ ∃ seed, o = outData 0 (rsaPub k (beNat (oaepEncode (seOp t.entry 0x41 1) (sliceZ b 0 (seInLen t.entry)) seed (rsaLen k))))))
  ∧ (∀ (r : Run) (s : State) (t : TagEntry) (b : Bytes) (k : KeyObj), Passes s r 0x3B t (chkRsaDecrypt s t) → CleanRun r → r.input = some b → KeyReady s (seKeyA t.entry) k →
      PkeStarts s t r (pkeClass k.typ k.bits) false (mgfPart t.entry) →
    Commits (.rsaDecrypt r) s t (fun o e => e = .nothing ∧ o = match (rsaOpen k (seOp t.entry 0x41 1) (sliceZ b 0 (seInLen t.entry))).2 with
      | none => outStatus stVERIFY_FAILED
      | some m => if (rsaOpen k (seOp t.entry 0x41 1) (sliceZ b 0 (seInLen t.entry))).1 then outData 0 m else outStatus stSIGN_CHECK_FAILED))
  ∧ (∀ (r : Run) (s : State) (t : TagEntry) (b m : Bytes) (k : KeyObj), Passes s r 0x3C t (chkRsaUnwrap s t) → CleanRun r → r.input = some b →
      KeyReady s (seKeyA t.entry) k → StoreReady s t (128 + recSize (hClass (seKeyB t.entry))) → PkeStarts s t r (pkeClass k.typ k.bits) false (mgfPart t.entry) →
      rsaOpen k (seOp t.entry 0x41 1) (sliceZ b 0 (seInLen t.entry)) = (true, some m) → m.length = symBytes (seOp t.entry 0x40 1) 0 →
      (isTdes (seOp t.entry 0x40 1) = true → m.all hasOddParity = true) →
    Commits (.rsaUnwrap r) s t (fun o e => o = outStatus stOK
      ∧ e = .putKey (hSlot (seKeyB t.entry)) (draftObj t.entry (seOp t.entry 0x40 1) 0 (seOp t.entry 0x48 8) 2 m)))

/-- MMUL, MSQR, MADD, MSUB, MRED, MINV, PKE_MOVE, SBLIND, PKE_CSEL, PKE_CEQ, CRANGE, ANDF, MEXPW, SETMOD, PADD, PADDJ, PDBL on a tile that runs a route; without one nothing changes (R189, R192, R193, R194, 06_public_key_engine.md). -/
def Obligations.PkeTileArithmeticComplete : Prop :=
  (∀ (p : PkeStep) (s : State) (t : TagEntry) (x : PkeTile), OnPkeTile s p t → x = pkeTile s p →
    exec (.mmul p) s = .next (setPkeTile s p (pkePut x p.c (pkeOp x p.a * pkeOp x p.b % x.mod1 * montInv x % x.mod1)))
    ∧ exec (.msqr p) s = .next (setPkeTile s p (pkePut x p.c (pkeOp x p.a * pkeOp x p.a % x.mod1 * montInv x % x.mod1)))
    ∧ exec (.madd p) s = .next (setPkeTile s p (pkePut x p.c ((pkeOp x p.a + pkeOp x p.b) % x.mod1)))
    ∧ exec (.msub p) s = .next (setPkeTile s p (pkePut x p.c ((pkeOp x p.a % x.mod1 + x.mod1 - pkeOp x p.b % x.mod1) % x.mod1)))
    ∧ exec (.mred p) s = .next (setPkeTile s p (pkePut x p.c (pkeOp x p.a % x.mod2)))
    ∧ exec (.minv p) s = .next (setPkeTile s p (pkePut x p.c (invMod (pkeOp x p.a) x.mod1)))
    ∧ exec (.pkeMove p) s = .next (setPkeTile s p (pkePut x p.c (pkeOp x p.a)))
    ∧ exec (.sblind p) s = .next (setPkeTile s p ({ (pkePut x p.c (pkeOp x p.a + pkeOp x p.b * x.mod2)) with digits := mapSet x.digits (opIndex p.c) ((bitLen x.mod2 + 64 * maskOrder s + 3) / 4) 0 }))
    ∧ exec (.pkeCsel p) s = .next (setPkeTile s p (putSlot x (p.c.toNat % 64) (if pkeFlag x (p.c.toNat / 64) then pkeOp x p.a else pkeOp x p.b)))
    ∧ exec (.pkeCeq p) s = .next (setPkeTile s p (pkePutFlag x p.c (pkeOp x p.a = pkeOp x p.b)))
    ∧ exec (.crange p) s = .next (setPkeTile s p (pkePutFlag x p.c (0 < pkeOp x p.a && pkeOp x p.a < pkeOp x p.b)))
    ∧ exec (.andf p) s = .next (setPkeTile s p (pkePutFlag x p.c (pkeFlag x (opIndex p.a) && pkeFlag x (opIndex p.b))))
    ∧ (∀ k, k = mapGet x.digits (opIndex p.b) 0 - 1 → exec (.mexpw p) s = .next (setPkeTile s p (pkePut { x with digits := mapSet x.digits (opIndex p.b) k 0 } p.c (montMul x ((fun v => montMul x v v) ((fun v => montMul x v v) ((fun v => montMul x v v) ((fun v => montMul x v v) (pkeOp x p.a))))) (pkeSlot x (40 + digitOf (pkeOp x p.b) 16 k))))))
    ∧ (0 < p.b.toNat → p.b.toNat ≤ 256 → p.c = 0 → exec (.setmod p) s = .next (setPkeTile s p ({ x with m := p.b.toNat, mod1 := pkeOp x p.a % 2 ^ (64 * p.b.toNat) })))
    ∧ (0 < p.b.toNat → p.b.toNat ≤ 256 → p.c ≠ 0 → exec (.setmod p) s = .next (setPkeTile s p ({ x with m := p.b.toNat, mod2 := pkeOp x p.a % 2 ^ (64 * p.b.toNat) }))))
  ∧ (∀ (p : PkeStep) (s : State) (t : TagEntry) (x : PkeTile) (c : Curve), OnPkeTile s p t → x = pkeTile s p → tileCurve x = some c →
    (opSpace p.b ≠ 3 → exec (.padd p) s = .next (setPkeTile (draw s 521).2 p (writeJac x (opIndex p.c) ((draw s 521).1 % (c.p - 1) + 1) (ptAdd c (readJac x (opIndex p.a)) (readAff x (opIndex p.b))))))
    ∧ (∀ e, opSpace p.b = 3 → opIndex p.b = 3 → combOf s p.unit.val = some e → exec (.padd p) s = .next (setPkeTile (draw s 521).2 p ({ (writeJac x (opIndex p.c) ((draw s 521).1 % (c.p - 1) + 1) (ptAdd c (readJac x (opIndex p.a)) (combFix e x.windows))) with windows := [] })))
    ∧ exec (.paddj p) s = .next (setPkeTile (draw s 521).2 p (writeJac x (opIndex p.c) ((draw s 521).1 % (c.p - 1) + 1) (ptAdd c (readJac x (opIndex p.a)) (readJac x (opIndex p.b)))))
    ∧ exec (.pdbl p) s = .next (setPkeTile (draw s 521).2 p (writeJac x (opIndex p.c) ((draw s 521).1 % (c.p - 1) + 1) (ptAdd c (readJac x (opIndex p.a)) (readJac x (opIndex p.a))))))
  ∧ (∀ (p : PkeStep) (s : State), tileTag s p.unit.val p.tile.val = none → ∀ c ∈ [Instr.mmul p, .msqr p, .madd p, .msub p, .mred p, .minv p, .pkeMove p,
      .sblind p, .pkeCsel p, .pkeCeq p, .crange p, .andf p, .mexpw p, .setmod p, .padd p, .paddj p, .pdbl p], exec c s = .next s)

/-- PVALID, SPLIT, PKE_REFRESH, PKE_RAND, ENCODE, DECODE, PKE_KCLOAD, COMBRD, VTRD, PKE_INRD, PKE_OUTST, KOUT, HASHIN, HASHOUT on a tile that runs a route (R192, R193, R194, R195, R200, R203, R204, R206, R269, 06_public_key_engine.md). -/
def Obligations.PkeTileTransfersComplete : Prop :=
  (∀ (p : PkeStep) (s : State) (t : TagEntry) (x : PkeTile) (c : Curve), OnPkeTile s p t → x = pkeTile s p → tileCurve x = some c →
    exec (.pvalid p) s = .next (setPkeTile s p (match ptDecode c (natBytes (pkeOp x p.a)) with
      | none => pkePutFlag x p.c false
      | some q => if formFits t c (natBytes (pkeOp x p.a)) then pkePutFlag (writeAff x (opIndex p.b) (some q)) p.c true else pkePutFlag x p.c false)))
  ∧ (∀ (p : PkeStep) (s : State) (t : TagEntry) (x : PkeTile) (b : Bytes), OnPkeTile s p t → x = pkeTile s p →
    exec (.pkeInrd p b) s = .next (setPkeTile s p (pkePut x p.c (beNat b)))
    ∧ (∀ (r : RouteAt) (a : AlsoAt), t.route = some r → r.also = some a → b ≠ [] → (mapGet s.cip.ctx ((a.unit * 16 + a.tile) * 2) CipCtx.clear).handed = some b →
      exec (.hashin ⟨p.unit, p.tile⟩ p.c) s = .next (setPkeTile s p (pkePut x p.c (beNat b))))
    ∧ exec (.pkeOutst p) s = .next (setPkeTile s p { x with out := x.out ++ beBytes (pkeOp x p.a) p.b.toNat })
    ∧ exec (.kout p) s = .next (setPkeTile s p { x with body := x.body ++ beBytes (pkeOp x p.a) (opBytes x) })
    ∧ exec (.hashout p) s = .next (setPkeTile s p { x with hashOut := beBytes (pkeOp x p.a) (opBytes x) }))
  ∧ (∀ (p : PkeStep) (s : State) (t : TagEntry) (x : PkeTile), OnPkeTile s p t → x = pkeTile s p → 0 < x.mod1 →
    (∃ a b z, exec (.split p) s = .next (setPkeTile z p (putSlot (putSlot x (opIndex p.c) a) (opIndex p.c + 1) b)) ∧ z = (draw s 16384).2
      ∧ (a + b) % x.mod1 = (pkeOp x p.a ^^^ pkeOp x p.b) % x.mod1)
    ∧ (∃ a b z, exec (.pkeRefresh p) s = .next (setPkeTile z p (putSlot (putSlot x (opIndex p.a) a) (opIndex p.a + 1) b)) ∧ z = (draw s 16384).2
      ∧ (a + b) % x.mod1 = (pkeSlot x (opIndex p.a) + pkeSlot x (opIndex p.a + 1)) % x.mod1))
  ∧ (∀ (p : PkeStep) (s z : State) (n : Nat) (t : TagEntry) (x : PkeTile), OnPkeTile s p t → x = pkeTile s p →
    (rngServes s p.unit.val 1 = true → drbgBits s p.unit.val p.b.toNat = (n, z) →
      exec (.pkeRand p) s = .next (setPkeTile (stepDrew z t.tag 1) p (pkePut x p.c (if p.a = 1 then n % x.mod1 else n))))
    ∧ (rngServes s p.unit.val 1 = false → exec (.pkeRand p) s = .next (setPkeTile s p x)))
  ∧ (∀ (p : PkeStep) (s : State) (t : TagEntry) (x : PkeTile), OnPkeTile s p t → x = pkeTile s p →
    (∃ r z, (r, z) = drawBytes s (hashLen (encHash p.b)) ∧ exec (.encode p) s = .next (setPkeTile z p (pkePut x p.c (beNat (match encScheme p.b with
      | 1 => emsaV15 (encHash p.b) (beBytes (pkeOp x p.a) (hashLen (encHash p.b))) (8 * x.m)
      | 2 => emsaPss (encHash p.b) (beBytes (pkeOp x p.a) (hashLen (encHash p.b))) r (8 * x.m)
      | _ => oaepEncode (encHash p.b) (beBytes (pkeOp x p.a) (seInLen t.entry)) r (8 * x.m))))))
    ∧ (encScheme p.b = 1 → exec (.decode p) s = .next (setPkeTile s p (pkePutFlag x p.c
        (beBytes (pkeOp x p.a) (8 * x.m) = emsaV15 (encHash p.b) (beBytes (pkeSlot x (opIndex p.a + 1)) (hashLen (encHash p.b))) (8 * x.m)))))
    ∧ (encScheme p.b = 2 → exec (.decode p) s = .next (setPkeTile s p (pkePutFlag x p.c
        (pssOk (encHash p.b) (beBytes (pkeSlot x (opIndex p.a + 1)) (hashLen (encHash p.b))) (beBytes (pkeOp x p.a) (8 * x.m))))))
    ∧ (encScheme p.b = 3 → ∀ m, oaepDecode (encHash p.b) (beBytes (pkeOp x p.a) (8 * x.m)) = some m →
        exec (.decode p) s = .next (setPkeTile s p (pkePutFlag (putSlot x (opIndex p.a) (beNat m)) p.c true))))
  ∧ (∀ (p : PkeStep) (s z : State) (t : TagEntry) (x : PkeTile) (e : KcEntry), OnPkeTile s p t → x = pkeTile s p →
      stepLoad s t (stepKey t (opIndex p.a)) = (some e, z) →
    exec (.pkeKcload p) s = .next (setPkeTile z p (putSlot (putSlot x (opIndex p.c) (beNat e.share0)) (opIndex p.c + 1) (beNat e.share1))))
  ∧ (∀ (p : PkeStep) (s : State) (t : TagEntry) (x w y : PkeTile) (c : Comb) (j : Nat), OnPkeTile s p t → x = pkeTile s p → combOf s p.unit.val = some c →
      j = opIndex p.a % 64 →
      w = writeAff x (opIndex p.c) (combEntry c j (combPos c j (combPos c j (digitOf (pkeOp x p.b) 256 j)))) → y = { w with windows := w.windows ++ [j] } →
    exec (.combrd p 0) s = .next (setPkeTile s p y)
    ∧ exec (.combrd p 1) s = .next (setPkeTile (faultReport (bump s (F.PKEC_SRAM_CORRECTED p.unit.val) (F.PKEC_SRAM_SAT p.unit.val)) 0x05 p.unit.val p.tile.val) p y)
    ∧ exec (.combrd p 2) s = .next (setPkeTile (updTag (sramUncorrected s p.unit.val) t.tag
        (fun y => { y with route := y.route.map (fun r => { r with forced := true }) })) p y))
  ∧ (∀ (p : PkeStep) (s z : State) (t : TagEntry) (x : PkeTile) (v : VTable) (d : Nat), OnPkeTile s p t → x = pkeTile s p →
      keyTable s (seKeyA t.entry) = some v → d = digitOf (pkeOp x p.b) 16 (opIndex p.a) →
    (mcRead s (tableLine s v 0).1 (entryLines s v (opIndex p.a) d) [] = (true, z) →
      exec (.vtrd p) s = .next (setPkeTile z p (writeAff x (opIndex p.c) (ptDecode curve384 (entryBytes s v (opIndex p.a) d)))))
    ∧ (mcRead s (tableLine s v 0).1 (entryLines s v (opIndex p.a) d) [] = (false, z) →
      exec (.vtrd p) s = .next (setPkeTile (flagIntegrity z t.tag) p x)))

/-- PKEC_COMB_REFRESH, COMB_REBUILD, PKEC_SELFTEST, PKE_SELFTEST_END, SPKE_SIGN, SPKE_VERIFY, SPKE_PUBLIC_POINT, SPKE_OPERATION_END, TOKEN_WAIT (R90, R201, R202, R219, R220, R221, 06_public_key_engine.md). -/
def Obligations.PublicKeyUnitsComplete : Prop :=
  (∀ (n : Fin 16) (s : State), landauUp s = true → clusterOn s 1 n = true → exec (.pkecCombRefresh n) s = .next (setF s (F.PKEC_COMB_REFRESH n) 1))
  ∧ (∀ (n : Fin 16) (s : State), isSet s (F.PKEC_COMB_REFRESH n) = true → combBusy s n = false → landauUp s = true →
      isSet s F.PWRARB_STATUS_MODE_BUSY = false →
    exec (.combRebuild n) s = .next (setF (combBuild (combLose (setF s (F.PKEC_COMB_REFRESH n) 0) n) n) (F.PKEC_COMB_DONE n) 1))
  ∧ (∀ (n : Fin 16) (v : W32) (u s : State), landauUp s = true → v.getLsbD 31 = true → u = writeReg s (Blk.PKEC + n.val) 8 (v.toNat % 2 ^ 31) →
      v.toNat % 16 < 9 → (unitActive u 1 n ||| unitSpare u 1 n).testBit (v.toNat % 16) = true → getF u (F.PKEC_STATUS_TESTING n) = 0 →
      partDrained u 1 n (v.toNat % 16) = false → combFree u n = true →
    exec (.pkecSelftest n v) s = .next (setF (setF (setF u (F.PKEC_SELFTEST_ERR n) 0) (F.PKEC_SELFTEST_GO n) 1) (F.PKEC_STATUS_TESTING n)
      (2 ^ (v.toNat % 16))))
  ∧ (∀ (n : Fin 16) (i : Nat) (b : Bool) (s : State), lowestSet (getF s (F.PKEC_STATUS_TESTING n)) 9 = some i → partIdle s 1 n i 0 = true →
    ∃ u, u = scfTested (setF (setF (setF s (F.PKEC_STATUS_TESTING n) 0) (F.PKEC_SELFTEST_GO n) 0) (F.PKEC_SELFTEST_DONE n) 1) n i b
      ∧ exec (.pkeSelftestEnd n b) s = .next (if b then u else faultReport (setF u (F.PKEC_SELFTEST_FAIL n) 1) 0x02 n i))
  ∧ (∀ (k : Fin 16) (s : State), geckoUp s = true → isSet s F.SPKE_STATUS_BUSY = false →
    exec (.spkeSign k) s = .next (spkeGo s 1 k) ∧ exec (.spkeVerify k) s = .next (spkeGo s 2 k) ∧ exec (.spkePublicPoint k) s = .next (spkeGo s 3 k)
      ∧ ∀ op, ∃ u, u = setF (setF (setF (setF s F.SPKE_CTRL_OP op) F.SPKE_CTRL_SLOT k) F.SPKE_CTRL_GO 1) F.SPKE_STATUS_BUSY 1
        ∧ spkeGo s op k = { (paramBlock u (getF u F.SPKE_PARAM_ADDR)).2 with
            spke := { (paramBlock u (getF u F.SPKE_PARAM_ADDR)).2.spke with op := some (op * 16 + k.val, getF u F.SPKE_PARAM_ADDR, (paramBlock u (getF u F.SPKE_PARAM_ADDR)).1) } })
  ∧ (∀ (k : Fin 16) (s : State), isSet s F.SPKE_STATUS_BUSY = true →
    exec (.spkeSign k) s = .next s ∧ exec (.spkeVerify k) s = .next s ∧ exec (.spkePublicPoint k) s = .next s)
  ∧ (∀ (j a : Nat) (p key sig : Bytes) (s z : State), p ≠ [] → j < 16 → spkeSlot s j = some key → s.spke.op = some (16 + j, a, p) →
      spkeSign s key (sliceZ p 0 48) = (sig, z) →
    (signChecks 384 key (sliceZ p 0 48) sig = true → exec (.spkeOperationEnd false) s = .next (SpkeDone (masterWrite z 4 (a + 0x40) sig) 0))
      ∧ (signChecks 384 key (sliceZ p 0 48) sig = false → exec (.spkeOperationEnd false) s = .next (SpkeDone z 0x31))
      ∧ exec (.spkeOperationEnd true) s = .next (SpkeDone z 0x31))
  ∧ (∀ (j a : Nat) (p : Bytes) (c : Bool) (s : State), p ≠ [] → j < 16 → s.spke.op = some (32 + j, a, p) →
    exec (.spkeOperationEnd c) s = .next (SpkeDone s (if ecPointValid 384 (sliceZ p 0x80 97) then
      (if ecdsaVerify 384 (sliceZ p 0x80 97) (sliceZ p 0 48) (sliceZ p 0x40 96) then 0 else 0x32) else 0x30)))
  ∧ (∀ (j a : Nat) (p key : Bytes) (c : Bool) (s : State), p ≠ [] → j < 16 → spkeSlot s j = some key → s.spke.op = some (48 + j, a, p) →
    exec (.spkeOperationEnd c) s = .next (SpkeDone (masterWrite s 4 (a + 0x80) (ecPublic 384 key)) 0))
  ∧ (∀ (j a : Nat) (p : Bytes) (c : Bool) (s : State), p ≠ [] → j < 16 → spkeSlot s j = none →
      (s.spke.op = some (16 + j, a, p) ∨ s.spke.op = some (48 + j, a, p)) →
    exec (.spkeOperationEnd c) s = .next (SpkeDone s 0x20))
  ∧ (∀ (op a : Nat) (c : Bool) (s : State), s.spke.op = some (op, a, []) → exec (.spkeOperationEnd c) s = .next (SpkeDone s 0x11))
  ∧ (∀ (a b : Nat) (s : State), exec (.tokenWait a b) s = .next s)

/-- CIPHER_ENCRYPT, CIPHER_DECRYPT, MAC_GENERATE, MAC_VERIFY, their metered forms, HASH, STREAM_ENCRYPT: what each commits (R151, R233, R239, R240, R241, R242, R243, R250, 07_cipher_and_payment.md). -/
def Obligations.CipherRowsCommit : Prop :=
  CipCommits .cipherEncrypt 0x50 (fun s => cipherChecks s false) (fun s e => cMode e * 16 + typOf s (seKeyA e)) (fun e => if cMode e = 4 then [seKeyA e, seKeyB e] else [seKeyA e]) false
      (CipherOut false)
  ∧ CipCommits .cipherDecrypt 0x51 (fun s => cipherChecks s true) (fun s e => cMode e * 16 + typOf s (seKeyA e)) (fun e => if cMode e = 4 then [seKeyA e, seKeyB e] else [seKeyA e]) false
      (CipherOut true)
  ∧ CipCommits .macGenerate 0x52 (fun s => macChecks s false) (fun s e => (mAlg e + 4) * 16 + (if mAlg e = 3 then mHash e else typOf s (seKeyA e))) (fun e => [seKeyA e]) false
      (fun e ks b x => ∀ k, ks = [k] → x = { ok := some true, out := macOf e k b })
  ∧ CipCommits .macVerify 0x53 (fun s => macChecks s true) (fun s e => (mAlg e + 4) * 16 + (if mAlg e = 3 then mHash e else typOf s (seKeyA e))) (fun e => [seKeyA e]) true
      (fun e ks b x => ∀ k, ks = [k] → x = { ok := some (decide (macOf e k (b.drop (mLen e)) = b.take (mLen e))), out := [] })
  ∧ CipCommits .cipherEncryptM 0x58 (fun s => cipherChecks s false) (fun s e => cMode e * 16 + typOf s (seKeyA e)) (fun e => if cMode e = 4 then [seKeyA e, seKeyB e] else [seKeyA e]) false
      (CipherOut false)
  ∧ CipCommits .cipherDecryptM 0x59 (fun s => cipherChecks s true) (fun s e => cMode e * 16 + typOf s (seKeyA e)) (fun e => if cMode e = 4 then [seKeyA e, seKeyB e] else [seKeyA e]) false
      (CipherOut true)
  ∧ CipCommits .macGenerateM 0x5A (fun s => macChecks s false) (fun s e => (mAlg e + 4) * 16 + (if mAlg e = 3 then mHash e else typOf s (seKeyA e))) (fun e => [seKeyA e]) false
      (fun e ks b x => ∀ k, ks = [k] → x = { ok := some true, out := macOf e k b })
  ∧ CipCommits .macVerifyM 0x5B (fun s => macChecks s true) (fun s e => (mAlg e + 4) * 16 + (if mAlg e = 3 then mHash e else typOf s (seKeyA e))) (fun e => [seKeyA e]) true
      (fun e ks b x => ∀ k, ks = [k] → x = { ok := some (decide (macOf e k (b.drop (mLen e)) = b.take (mLen e))), out := [] })
  ∧ CipCommits .hash 0x54 chkHash (fun _ e => 8 * 16 + mHash e) (fun _ => []) false
      (fun e _ b x => x = { ok := some true, out := shaBytes (mHash e) b })
  ∧ (∀ (r : Run) (s : State) (t : TagEntry) (b : Bytes) (k : KeyObj) (v : Nat), Passes s r 0x55 t (chkStreamEncrypt s t) → r.fails = [] →
      (if seInLen t.entry = 0 then some [] else r.input) = some b → liveObj s (seKeyA t.entry) = some k → v = (countsOf s k).2 →
      canStart s t 2 r (3 * 16 + typOf s (seKeyA t.entry)) = true → v < 2 ^ 64 - 1 → drawMarkOk s k = true →
      (useKey (countSusp s 2 r) (seKeyA t.entry) []).1 = some k →
    Commits (.streamEncrypt r) s t (fun o e => e = .streamUse (seKeyA t.entry) v
      ∧ ∃ iv c, iv = slice t.entry 0x44 4 ++ beBytes v 8
        ∧ c = iv ++ gcmSeal k.body iv ((sliceZ b 0 (seInLen t.entry)).take (cAad t.entry)) ((sliceZ b 0 (seInLen t.entry)).drop (cAad t.entry))
        ∧ o = outData v c))

/-- PIN_TRANSLATE, PIN_TRANSLATE_DUKPT, PIN_COMPARE, DUKPT_DATA, EMV_ARQC and their metered forms: what each commits (R242, R243, R244, R246, R247, R248, R249, R250, 07_cipher_and_payment.md). -/
def Obligations.PaymentRowsCommit : Prop :=
  CipCommits .pinTranslate 0x60 (fun s => transChecks s false) (fun s e => pinIdx (pIn e) (typOf s (seKeyA e)) * 16 + pinIdx (pOut e) (typOf s (seKeyB e))) (fun e => [seKeyA e, seKeyB e]) false
      (fun e ks _ x => ∀ a b, ks = [a, b] → ∃ rnd, x = match decodePin (pIn e) a.typ (a.body) (blockOf e (pIn e) 0x60) (panOf e) with
        | none => { ok := none, out := [] }
        | some pin => { ok := some true, out := encodePin (pOut e) b.typ b.body pin (panOf e) rnd })
  ∧ CipCommits .pinTranslateDukpt 0x61 (fun s => transChecks s true) (fun s e => pinIdx (pIn e) (typOf s (seKeyA e)) * 16 + pinIdx (pOut e) (typOf s (seKeyB e))) (fun e => [seKeyA e, seKeyB e]) false
      (fun e ks _ x => ∀ a b, ks = [a, b] → ∃ rnd, x = match decodePin (pIn e) a.typ (dukptWorking a.typ a.body (slice e 0x54 12) duPIN) (blockOf e (pIn e) 0x60) (panOf e) with
        | none => { ok := none, out := [] }
        | some pin => { ok := some true, out := encodePin (pOut e) b.typ b.body pin (panOf e) rnd })
  ∧ CipCommits .pinCompare 0x62 chkCompareRow (fun s e => pinIdx (pIn e) (typOf s (seKeyA e)) * 16 + pinIdx (pOut e) (typOf s (seKeyB e))) (fun e => [seKeyA e, seKeyB e]) true
      (fun e ks _ x => ∀ a b, ks = [a, b] →
        x = match decodePin (pIn e) a.typ a.body (blockOf e (pIn e) 0x60) (panOf e), decodePin (pOut e) b.typ b.body (blockOf e (pOut e) 0x70) (panOf e) with
          | some p, some q => { ok := some (decide (p = q)), out := [] }
          | _, _ => { ok := none, out := [] })
  ∧ CipCommits .dukptData 0x63 chkDukptRow (fun s e => seOp e 0x40 1 * 16 + typOf s (seKeyA e)) (fun e => [seKeyA e]) false
      (fun e ks b x => ∀ k w, ks = [k] → w = (fun u => dukptWorking k.typ k.body (slice e 0x54 12) u) →
        x = match seOp e 0x40 1 with
          | 1 => { ok := some true, out := cbc k.typ (w duDATADEC) (slice e 0x60 16) true b }
          | 2 => { ok := some (decide ((cmac k.typ (w duMACVER) (b.drop (mLen e))).take (mLen e) = b.take (mLen e))), out := [] }
          | _ => { ok := some true, out := (cmac k.typ (w duMACGEN) b).take (mLen e) })
  ∧ CipCommits .emvArqc 0x64 chkEmvRow (fun _ e => seOp e 0x40 1 * 16 + seOp e 0x41 1) (fun e => [seKeyA e]) true
      (fun e ks b x => ∀ k sk arqc ok, ks = [k] → sk = emvSession k.typ (emvMaster k.typ k.body (panOf e) (byteAt e 0x43)) (slice e 0x44 2) →
        arqc = slice e 0x58 8 → ok = decide (emvMac k.typ sk 8 b = arqc) →
        x = { ok := some ok, out := if ok ∧ seOp e 0x41 1 ≠ 0 then emvArpc k.typ sk arqc (seOp e 0x41 1) (slice e 0x60 4) (slice e 0x68 (byteAt e 0x64)) else [] })
  ∧ CipCommits .pinTranslateM 0x70 (fun s => transChecks s false) (fun s e => pinIdx (pIn e) (typOf s (seKeyA e)) * 16 + pinIdx (pOut e) (typOf s (seKeyB e))) (fun e => [seKeyA e, seKeyB e]) false
      (fun e ks _ x => ∀ a b, ks = [a, b] → ∃ rnd, x = match decodePin (pIn e) a.typ (a.body) (blockOf e (pIn e) 0x60) (panOf e) with
        | none => { ok := none, out := [] }
        | some pin => { ok := some true, out := encodePin (pOut e) b.typ b.body pin (panOf e) rnd })
  ∧ CipCommits .pinTranslateDukptM 0x71 (fun s => transChecks s true) (fun s e => pinIdx (pIn e) (typOf s (seKeyA e)) * 16 + pinIdx (pOut e) (typOf s (seKeyB e))) (fun e => [seKeyA e, seKeyB e]) false
      (fun e ks _ x => ∀ a b, ks = [a, b] → ∃ rnd, x = match decodePin (pIn e) a.typ (dukptWorking a.typ a.body (slice e 0x54 12) duPIN) (blockOf e (pIn e) 0x60) (panOf e) with
        | none => { ok := none, out := [] }
        | some pin => { ok := some true, out := encodePin (pOut e) b.typ b.body pin (panOf e) rnd })
  ∧ CipCommits .pinCompareM 0x72 chkCompareRow (fun s e => pinIdx (pIn e) (typOf s (seKeyA e)) * 16 + pinIdx (pOut e) (typOf s (seKeyB e))) (fun e => [seKeyA e, seKeyB e]) true
      (fun e ks _ x => ∀ a b, ks = [a, b] →
        x = match decodePin (pIn e) a.typ a.body (blockOf e (pIn e) 0x60) (panOf e), decodePin (pOut e) b.typ b.body (blockOf e (pOut e) 0x70) (panOf e) with
          | some p, some q => { ok := some (decide (p = q)), out := [] }
          | _, _ => { ok := none, out := [] })
  ∧ CipCommits .dukptDataM 0x73 chkDukptRow (fun s e => seOp e 0x40 1 * 16 + typOf s (seKeyA e)) (fun e => [seKeyA e]) false
      (fun e ks b x => ∀ k w, ks = [k] → w = (fun u => dukptWorking k.typ k.body (slice e 0x54 12) u) →
        x = match seOp e 0x40 1 with
          | 1 => { ok := some true, out := cbc k.typ (w duDATADEC) (slice e 0x60 16) true b }
          | 2 => { ok := some (decide ((cmac k.typ (w duMACVER) (b.drop (mLen e))).take (mLen e) = b.take (mLen e))), out := [] }
          | _ => { ok := some true, out := (cmac k.typ (w duMACGEN) b).take (mLen e) })
  ∧ CipCommits .emvArqcM 0x74 chkEmvRow (fun _ e => seOp e 0x40 1 * 16 + seOp e 0x41 1) (fun e => [seKeyA e]) true
      (fun e ks b x => ∀ k sk arqc ok, ks = [k] → sk = emvSession k.typ (emvMaster k.typ k.body (panOf e) (byteAt e 0x43)) (slice e 0x44 2) →
        arqc = slice e 0x58 8 → ok = decide (emvMac k.typ sk 8 b = arqc) →
        x = { ok := some ok, out := if ok ∧ seOp e 0x41 1 ≠ 0 then emvArpc k.typ sk arqc (seOp e 0x41 1) (slice e 0x60 4) (slice e 0x68 (byteAt e 0x64)) else [] })

/-- The 26 steps of a cipher tile in a context slot that runs a route; without one, or suspended, a step changes nothing (R225, R228, R229, R230, R231, R237, R244, R271, 07_cipher_and_payment.md). -/
def Obligations.CipherTileStepsComplete : Prop :=
  (∀ (p : CipStep) (s : State) (t : TagEntry) (x : CipCtx) (b : Bytes), OnCipSlot s p t → x = cipCtx s p →
    exec (.aesk p) s = .next (setCipCtx s p ({ x with ring := some (false, keyAt x p.a x.key0.length) }))
    ∧ exec (.desk p) s = .next (setCipCtx s p ({ x with ring := some (true, sliceZ (keyAt x p.a (8 * p.b.toNat)) 0 (8 * p.b.toNat)) }))
    ∧ exec (.aese p) s = .next (setCipCtx s p (putReg x (cipIndex p.c) (ringRun x false false (cipOp x p.a))))
    ∧ exec (.aesd p) s = .next (setCipCtx s p (putReg x (cipIndex p.c) (ringRun x false true (cipOp x p.a))))
    ∧ exec (.dese p) s = .next (setCipCtx s p (putReg x (cipIndex p.c) (ringRun x true false (cipOp x p.a))))
    ∧ exec (.desd p) s = .next (setCipCtx s p (putReg x (cipIndex p.c) (ringRun x true true (cipOp x p.a))))
    ∧ exec (.cipXor p) s = .next (setCipCtx s p (putReg x (cipIndex p.c) (cipOp x p.a ^^^ cipOp x p.b)))
    ∧ exec (.ctrb p) s = .next (setCipCtx s p (putReg (putReg x (cipIndex p.a) (cipOp x p.a + 1)) (cipIndex p.c) (cipOp x p.a)))
    ∧ exec (.mula p) s = .next (setCipCtx s p (putReg x (cipIndex p.c) (toBlock (mulAlpha (ofBlock (cipOp x p.a))))))
    ∧ exec (.ghash p) s = .next (setCipCtx s p ({ x with acc := ghashMul (x.acc ^^^ cipOp x p.a) (aesBlock x.key0 false 0) }))
    ∧ exec (.shai p) s = .next (setCipCtx s p ({ x with sha := (p.b.toNat, shaInit p.b.toNat, 0) }))
    ∧ exec (.shac p) s = .next (setCipCtx s p ({ x with sha := (x.sha.1, shaCompress x.sha.1 x.sha.2.1 (regBytes x (cipIndex p.a) (shaBlock x.sha.1)), x.sha.2.2 + shaBlock x.sha.1) }))
    ∧ exec (.shaf p b) s = .next (setCipCtx s p (putBytes x (cipIndex p.c) (shaOut x.sha.1 (shaBlocks x.sha.1 x.sha.2.1 (b ++ shaPad x.sha.1 (x.sha.2.2 + b.length))))))
    ∧ exec (.cipCeq p) s = .next (setCipCtx s p (putCipFlag x (cipIndex p.c) ((ofBlock (cipReg x (cipIndex p.a))).take p.b.toNat = (ofBlock (cipReg x (cipIndex p.c))).take p.b.toNat)))
    ∧ exec (.cipCsel p) s = .next (setCipCtx s p (putReg x (p.c.toNat % 64) (if cipFlag x (p.c.toNat / 64) then cipOp x p.a else cipOp x p.b)))
    ∧ exec (.trunc p) s = .next (setCipCtx s p (putReg x (cipIndex p.c) (toBlock ((ofBlock (cipOp x p.a)).take p.b.toNat))))
    ∧ exec (.cipInrd p b) s = .next (setCipCtx s p (putBytes x (cipIndex p.c) (if cipSpace p.b = 3 ∧ cipIndex p.b = 5 then slice t.entry 0x40 0x40 else b)))
    ∧ exec (.cipOutst p) s = .next (setCipCtx s p ({ x with out := x.out ++ regBytes x (cipIndex p.a) p.b.toNat }))
    ∧ exec (.pkout p) s = .next (setCipCtx s p ({ x with handed := regBytes x (cipIndex p.a) (hashLen x.sha.1) }))
    ∧ (∀ r : RouteAt, t.route = some r → b ≠ [] → (mapGet s.pke.tiles (r.unit * 16 + r.tile) PkeTile.clear).hashOut = b →
      exec (.pkin ⟨p.unit, p.tile, p.slot⟩ p.c) s = .next (setCipCtx s p (putBytes x (cipIndex p.c) b))))
  ∧ (∀ (p : CipStep) (s : State) (t : TagEntry) (x : CipCtx) (f : Nat) (d : Bytes), OnCipSlot s p t → x = cipCtx s p → f = p.b.toNat →
      d = (if f = 0 ∨ f = 3 then xorBytes ((ofBlock (cipOp x p.a)).take 8) (panField f (panOf t.entry)) else ofBlock (cipOp x p.a)) →
    exec (.pindec p) s = .next (setCipCtx s p (putCipFlag (putReg x (cipIndex p.c) (toBlock d)) 0 (pinOfField f d).isNone)))
  ∧ (∀ (p : CipStep) (s : State) (t : TagEntry) (x : CipCtx) (f : Nat) (d : List Nat), OnCipSlot s p t → x = cipCtx s p → f = p.b.toNat →
      d = (nibbles (ofBlock (cipOp x p.a))).take 16 →
    exec (.pinenc p) s = .next (setCipCtx s p (putReg x (cipIndex p.c) (toBlock (if f = 0 ∨ f = 3 then
      xorBytes (fieldOfPin f ((d.drop 2).take (min 12 ((d[1]?).getD 0))) (ofBlock (cipReg x 55))) (panField f (panOf t.entry))
      else fieldOfPin f ((d.drop 2).take (min 12 ((d[1]?).getD 0))) (ofBlock (cipReg x 55)))))))
  ∧ (∀ (p : CipStep) (s z : State) (t : TagEntry) (x : CipCtx) (v n : Nat), OnCipSlot s p t → x = cipCtx s p → n = min 128 p.b.toNat →
      prefetchBits s p.unit.val p.tile.val n = (v, z) →
      (prefetchShort s p.unit.val p.tile.val n = false ∨ rngServes s (16 + p.unit.val) 1 = true) →
    exec (.cipRand p) s = .next (setCipCtx (if prefetchShort s p.unit.val p.tile.val n then stepDrew z t.tag 2 else z) p
      (putReg x 55 (BitVec.ofNat 128 (v * 2 ^ (128 - n))))))
  ∧ (∀ (p : CipStep) (s : State) (t : TagEntry), OnCipSlot s p t → exec (.cipRefresh p) s = .next (draw s 128).2)
  ∧ (∀ (p : CipStep) (s u : State) (t : TagEntry) (x : CipCtx), OnCipSlot s p t → x = cipCtx s p → u = setCipCtx s p { x with blocks := x.blocks + 1 } →
    (p.slot ≠ 0 → exec (.blocks p) s = .next u)
    ∧ (p.slot = 0 → exec (.blocks p) s = .next { u with cip := { u.cip with
        gap := mapSet u.cip.gap (p.unit.val * 16 + p.tile.val) (mapGet u.cip.gap (p.unit.val * 16 + p.tile.val) 0 - 1) 0 } }))
  ∧ (∀ (p : CipStep) (s z : State) (t : TagEntry) (x : CipCtx) (e : KcEntry), OnCipSlot s p t → x = cipCtx s p →
      stepLoad s t (stepKey t (cipIndex p.a)) = (some e, z) →
    exec (.cipKcload p) s = .next (setCipCtx z p (if cipIndex p.b = 0 then { x with key0 := kcKey e } else { x with key1 := kcKey e })))
  ∧ (∀ (p : CipStep) (s : State) (b : Bytes), cipTag s p = none → ∀ c ∈ [Instr.aesk p, .aese p, .cipXor p, .ghash p, .shaf p b, .cipRand p, .cipRefresh p,
      .blocks p, .cipKcload p], exec c s = .next s)

/-- CIPC_LOCK_HOLD, CIPC_SELFTEST, CIP_SELFTEST_END; GCM_ENC, GCM_DEC, SHA384, HMAC384, HKDF, DERIVE_SRK, UNWRAP_DMK, LOAD, SCIPH_OPERATION_END (R227, R256, R257, R258, R259, 07_cipher_and_payment.md). -/
def Obligations.CipherUnitsComplete : Prop :=
  (∀ (u : Fin 8) (i : Fin 9) (v : W32) (s : State), landauUp s = true → exec (.cipcLockHold u i v) s = .next (setB s (F.CIPC_LOCK_HOLD u i) (v.getLsbD 31)))
  ∧ (∀ (n : Fin 8) (v : W32) (u s : State), landauUp s = true → v.getLsbD 31 = true → u = writeReg s (Blk.CIPC + n.val) 8 (v.toNat % 2 ^ 31) →
      v.toNat % 16 < 9 → (unitActive u 2 n ||| unitSpare u 2 n).testBit (v.toNat % 16) = true → getF u (F.CIPC_STATUS_TESTING n) = 0 →
      partDrained u 2 n (v.toNat % 16) = false →
    exec (.cipcSelftest n v) s = .next (setF (setF (setF (setF u (F.CIPC_SELFTEST_ERR n) 0) (F.CIPC_SELFTEST_GO n) 1) (F.CIPC_LOCK_HOLD n (v.toNat % 16)) 1)
      (F.CIPC_STATUS_TESTING n) (2 ^ (v.toNat % 16))))
  ∧ (∀ (n : Fin 8) (i : Nat) (b : Bool) (s : State), lowestSet (getF s (F.CIPC_STATUS_TESTING n)) 9 = some i → routeOn s 2 n i 0 = false → routeOn s 2 n i 1 = false →
    ∃ u, u = setF (setF (setF (setF s (F.CIPC_STATUS_TESTING n) 0) (F.CIPC_SELFTEST_GO n) 0) (F.CIPC_SELFTEST_DONE n) 1) (F.CIPC_LOCK_HOLD n i) 0
      ∧ exec (.cipSelftestEnd n b) s = .next (if b then u else faultReport (setF u (F.CIPC_SELFTEST_FAIL n) 1) 0x03 (16 + n.val) i))
  ∧ (∀ (k : Fin 16) (s : State), geckoUp s = true → isSet s F.SCIPH_STATUS_BUSY = false →
    exec (.gcmEnc k) s = .next (sciphGo s 1 k)
      ∧ exec (.gcmDec k) s = .next (sciphGo s 2 k)
      ∧ exec (.sha384 k) s = .next (sciphGo s 3 k)
      ∧ exec (.hmac384 k) s = .next (sciphGo s 4 k)
      ∧ exec (.hkdf k) s = .next (sciphGo s 5 k)
      ∧ exec (.deriveSrk k) s = .next (sciphGo s 6 k)
      ∧ exec (.unwrapDmk k) s = .next (sciphGo s 7 k)
      ∧ exec (.load k) s = .next (sciphGo s 8 k)
      ∧ ∀ op, ∃ u p, u = setF (setF (setF (setF s F.SCIPH_CTRL_OP op) F.SCIPH_CTRL_SLOT k) F.SCIPH_CTRL_GO 1) F.SCIPH_STATUS_BUSY 1
        ∧ p = (if inSram (getF u F.SCIPH_PARAM_ADDR) 128 && getF u F.SCIPH_PARAM_ADDR % 64 = 0 then masterRead u 3 (getF u F.SCIPH_PARAM_ADDR) 128 else ([], u))
        ∧ sciphGo s op k = { p.2 with sciph := { p.2.sciph with op := some (op * 16 + k.val, getF u F.SCIPH_PARAM_ADDR, p.1) } })
  ∧ (∀ (k : Fin 16) (s : State), isSet s F.SCIPH_STATUS_BUSY = true → ∀ c ∈ [Instr.gcmEnc k, .gcmDec k, .sha384 k, .hmac384 k, .hkdf k, .deriveSrk k, .unwrapDmk k, .load k], exec c s = .next s)
  ∧ (∀ (op j a : Nat) (p : Bytes) (s : State), j < 16 → s.sciph.op = some (op * 16 + j, a, p) →
    (sciphBad op j p = true → exec .sciphOperationEnd s = .next (SciphDone s 0x11))
    ∧ (sciphBad op j p = false → op = 5 ∨ op = 8 → spOut p < 2 → exec .sciphOperationEnd s = .next (SciphDone s 0x21))
    ∧ (sciphBad op j p = false → op = 1 ∨ op = 2 ∨ op = 4 → sciphSlot s j = none → exec .sciphOperationEnd s = .next (SciphDone s 0x20)))
  ∧ (∀ (op j a : Nat) (p k src aad : Bytes) (s v : State), j < 16 → s.sciph.op = some (op * 16 + j, a, p) → sciphBad op j p = false → sciphSlot s j = some k →
      sciphIn s op p = ((src, aad), v) →
    (op = 1 → ∃ c, c = gcmSeal (key32 k) (slice p 0x20 12) aad src ∧ exec .sciphOperationEnd s = .next (SciphDone
        (masterWrite (masterWrite v 3 (spDst p) (c.take src.length)) 3 (a + 0x30) (c.drop src.length)) 0))
    ∧ (op = 2 → exec .sciphOperationEnd s = .next (match gcmOpen (key32 k) (slice p 0x20 12) aad src (slice p 0x30 16) with
        | none => SciphDone v 0x32
        | some m => SciphDone (masterWrite v 3 (spDst p) m) 0))
    ∧ (op = 4 → exec .sciphOperationEnd s = .next (SciphDone (masterWrite v 3 (spDst p) (hashBytes (hmac384 k src))) 0))
    ∧ (op = 5 → 2 ≤ spOut p → exec .sciphOperationEnd s = .next (SciphDone (setSciphSlot v (spOut p) (hkdf384 [] k (slice p 0x41 (byteAt p 0x40)) 32)) 0)))
  ∧ (∀ (op j a : Nat) (p src aad : Bytes) (s v : State), j < 16 → s.sciph.op = some (op * 16 + j, a, p) → sciphBad op j p = false →
      sciphIn s op p = ((src, aad), v) →
    (op = 3 → exec .sciphOperationEnd s = .next (SciphDone (masterWrite v 3 (spDst p) (hashBytes (sha384 src))) 0))
    ∧ (op = 6 → ∀ a bk, sciphSlot v 0 = some a → v.tamper.bk = some bk → exec .sciphOperationEnd s = .next (SciphDone (setSciphSlot v 1 (hkdf384 a (hashBytes bk) [] 32)) 0))
    ∧ (op = 7 → v.drawbar.up = false → exec .sciphOperationEnd s = .next (SciphDone v 0x09))
    ∧ (op = 7 → v.drawbar.up = true → ∀ w m, sciphSlot v 1 = some w → gcmOpen w (slice p 0x20 12) aad src (slice p 0x30 16) = some m →
        exec .sciphOperationEnd s = .next (SciphDone (pinDomain v (spDomain p) (key32 m)) 0))
    ∧ (op = 8 → 2 ≤ spOut p → exec .sciphOperationEnd s = .next (SciphDone (setSciphSlot v (spOut p) src) 0)))

/-- RANDOM_BYTES, RNG_STATUS, SEED_BLOCK, SEED_DELIVERY, RNG_STALL, BIAS_WINDOW, MASK_STREAM_REKEY, RNG_STATUS_REFRESH, RNG_DATA_READ, RNG_RAW_READ, STARTUP_TEST_END (R263, R265, R267, R268, R270, R271, R272, R273, R274, 08_random.md). -/
def Obligations.RandomCommandsComplete : Prop :=
  (∀ (r : Run) (s : State) (t : TagEntry) (n : Nat), Passes s r 0x80 t (chkRandomBytes s t) → n = (seOutLen t.entry + 4095) / 4096 →
      s.rng.pr.find? (fun w => w.tag = t.tag) = none → byteAt t.entry 0x40 ≠ 1 → rngAllows s (16 + r.unit) n = true → canStart s t 2 r 0 = true →
    Commits (.randomBytes r) s t (fun o e => e = .nothing ∧ ∃ b : Bytes, b = (drbgOutput (countSusp s 2 r) (16 + r.unit) (seOutLen t.entry)).1
      ∧ o = outData (16 + r.unit) b))
  ∧ (∀ (r : Run) (s : State) (t : TagEntry), Passes s r 0x80 t (chkRandomBytes s t) → s.rng.pr.find? (fun w => w.tag = t.tag) = none →
      byteAt t.entry 0x40 = 1 → tileServes s 2 (tagWorld s t) r.unit r.tile = true →
    exec (.randomBytes r) s = .next { s with rng := { s.rng with pr := s.rng.pr ++ [{ tag := t.tag, inst := 16 + r.unit, stamp := s.rng.block, served := false }] } })
  ∧ (∀ (r : Run) (s : State) (t : TagEntry) (n : Nat) (w : PrWait) (z : State), Passes s r 0x80 t (chkRandomBytes s t) → n = (seOutLen t.entry + 4095) / 4096 →
      s.rng.pr.find? (fun w => w.tag = t.tag) = some w → w.served = true → w.inst = 16 + r.unit → rngAllows s (16 + r.unit) n = true →
      canStart s t 2 r 1 = true → z = { s with rng := { s.rng with pr := s.rng.pr.filter (fun x => x.tag != t.tag) } } →
    Commits (.randomBytes r) s t (fun o e => e = .nothing ∧ ∃ b : Bytes, b = (drbgOutput (countSusp z 2 r) (16 + r.unit) (seOutLen t.entry)).1
      ∧ o = outData (16 + r.unit) b))
  ∧ (∀ (s : State) (i n : Nat), (drbgOutput s i n).1.length = n)
  ∧ (∀ (r : Run) (s : State) (t : TagEntry), Passes s r 0x81 t (chkRngStatus t) →
    exec (.rngStatus r) s = .next (commitCore s t r { (outData 0 (sliceZ s.rng.copy 0 64)) with result := leAt s.rng.copy 0 4 } .nothing))
  ∧ (∀ (a b : BitVec 2048) (n : Nat) (s u v w : State) (l0 l1 : List Bool) (o0 o1 : Bool), geckoUp s = true → inService s 0 || inService s 1 →
      l0 = (if inService s 0 then rawBits a (if inService s 1 then 1024 else 2048) else []) →
      l1 = (if inService s 1 then rawBits b (if inService s 0 then 1024 else 2048) else []) →
      feedSource s 0 l0 = (u, o0) → feedSource u 1 l1 = (v, o1) → w = { v with rng := { v.rng with block := v.rng.block + 1 } } →
    (o0 = true → o1 = true →
      exec (.seedBlock a b n) s = .next { w with rng := { w.rng with ready := some (v.rng.block, sha384 (bitsToBytes (l0 ++ l1))) } })
    ∧ (o0 = false → o1 = true → exec (.seedBlock a b n) s = .next (healthFail w 0 n))
    ∧ (o0 = true → o1 = false → exec (.seedBlock a b n) s = .next (healthFail w 1 n))
    ∧ (o0 = false → o1 = false → exec (.seedBlock a b n) s = .next (healthFail (healthFail w 0 n) 1 n)))
  ∧ (∀ (s u : State) (k i : Nat) (v : BitVec 384), s.rng.ready = some (k, v) → seedTarget s k = some i → u = seedInst s i v →
    exec .seedDelivery s = .next { u with rng := { u.rng with ready := none, pr := u.rng.pr.map (fun w => if w.inst = i && decide (w.stamp < k) then { w with served := true } else w) } })
  ∧ (∀ (i : Fin 29) (s : State), stalled s i.val = true → exec (.rngStall i) s = .next (faultReport s 0x26 0 i.val))
  ∧ (∀ (k : Fin 2) (a b : BitVec 16384) (l : List Bool) (s : State), srcState s k.val ≠ 0 → l = rawBits (a ++ b) 32768 →
    exec (.biasWindow k a b) s = .next (setF (setF s (F.RNG_BIAS_ONES k.val) (l.filter id).length) (F.RNG_BIAS_EQUAL k.val) (equalPairs l)))
  ∧ (∀ (u : Fin 8) (i : Fin 9) (s : State), rngServes s (16 + u.val) 1 = true → exec (.maskStreamRekey u i) s = .next (rekeyMask s u.val i.val))
  ∧ (∀ s : State, exec .rngStatusRefresh s = .next { s with rng := { s.rng with copy := (List.range 11).flatMap (fun i => leBytes (readReg s Blk.RNG (4 + 4 * i)) 4) } })
  ∧ (∀ s : State, (rngServes s 28 1 = true → exec .rngDataRead s = .next (setF (drbgBits s 28 32).2 F.RNG_DATA_VALUE (drbgBits s 28 32).1))
    ∧ (rngServes s 28 1 = false → exec .rngDataRead s = .next (setF (setF s F.RNG_DATA_VALUE 0) F.RNG_STATUS_DATA_ERR 1)))
  ∧ (∀ (s u z : State) (n v : Nat) (ok : Bool), isSet s F.RNG_CTRL_RAW_EXPORT = true → n = getF s F.RNG_RAW_SOURCE → srcState s n ≠ 0 → draw s 16 = (v, u) →
      (z, ok) = (if srcState u n = 2 then feedSource u n (rawBits (BitVec.ofNat 16 v) 16) else (u, true)) →
    exec .rngRawRead s = .next (setF (setF (if ok then z else healthFail z n (1000000 * optime z)) F.RNG_RAW_VALID 1) F.RNG_RAW_BITS v))
  ∧ (∀ s : State, isSet s F.RNG_CTRL_RAW_EXPORT = false → exec .rngRawRead s = .next (setF (setF s F.RNG_RAW_VALID 0) F.RNG_RAW_BITS 0))
  ∧ (∀ (k : Fin 2) (raw : BitVec 4096) (n : Nat) (s : State), srcState s k.val = 1 →
      (startupOk s raw = true → exec (.startupTestEnd k raw n) s = .next (serviceRefresh (setSrc s k.val 2)))
      ∧ (startupOk s raw = false → exec (.startupTestEnd k raw n) s = .next (healthFail s k.val n)))

/-- LEDGER_READ, LEDGER_STATUS, ATTEST_QUOTE, CERT_READ, HOST_FLASH_AUTH, HOST_BOOT_SELECT, LIFECYCLE: what each commits; the end of a ZEROISE_ALL (R308, R309, R310, R311, R312, R313, R314, R315). -/
def Obligations.BootRowsCommit : Prop :=
  (∀ (r : Run) (s : State) (t : TagEntry), Passes s r 0x88 t (chkLedgerRead s t) → canStart s t 3 r 0 = true →
    Commits (.ledgerRead r) s t (fun o e => e = .nothing ∧ o = outData s.led.head
      ((((List.range (min (seOutLen t.entry / 1024) (s.led.head + 1 - seOp t.entry 0x40 8))).map
        (fun i => recordOf s (seOp t.entry 0x40 8 + i))).filterMap id).flatMap id)))
  ∧ (∀ (r : Run) (s : State) (t : TagEntry), Passes s r 0x89 t (chkLedgerStatus t) → canStart s t 3 r 0 = true →
    Commits (.ledgerStatus r) s t (fun o e => e = .nothing ∧ o = outData s.led.head (leBytes s.led.head 8 ++ leBytes (ledgerOldest s) 8
      ++ leBytes s.sdh.head 8 ++ leBytes (if s.led.gaps = 2 ^ 31 - 1 then 2 ^ 32 - 1 else s.led.gaps) 4 ++ leBytes (cardCode s) 1
      ++ leBytes ((if s.led.sram.isEmpty then 0 else 1) + (if ledgerFull s then 2 else 0)) 1 ++ leBytes (evidence s) 2 ++ zeros 32)))
  ∧ (∀ (r : Run) (s : State) (t : TagEntry) (n : Bytes), Passes s r 0x8A t (chkAttestQuote t) → r.input = some n → canStart s t 3 r 0 = true →
    Commits (.attestQuote r) s t (fun o e => e = .nothing ∧ ∃ b, b = [0x51, 0x55, 0x4F, 0x54] ++ zeros 4 ++ leBytes s.led.head 8 ++ sliceZ n 0 32
        ++ hashBytes s.led.headHash ++ leBytes (evidence s) 2 ++ leBytes (life s) 1 ++ leBytes (mode s) 1 ++ leBytes (getF s F.QMGR_WINDOW_ID) 4 ++ zeros 56
      ∧ o = outData s.led.head (b ++ (akSign s b).1)))
  ∧ (∀ (r : Run) (s : State) (t : TagEntry), Passes s r 0x8A t (chkAttestQuote t) → r.input = none → canStart s t 3 r 0 = true →
    Commits (.attestQuote r) s t (fun o e => e = .nothing ∧ o = outStatus stDMA_ERROR))
  ∧ (∀ (r : Run) (s : State) (t : TagEntry), Passes s r 0x8B t (chkCertRead t) → canStart s t 3 r 0 = true →
    Commits (.certRead r) s t (fun o e => e = .nothing ∧ ∃ c, c = certOf s (seOp t.entry 0x40 1)
      ∧ o = outData c.length (slice c (seOp t.entry 0x44 4) (seOutLen t.entry))))
  ∧ (∀ (r : Run) (s : State) (t : TagEntry) (b : Bytes), Passes s r 0x8C t (chkHostFlashAuth t) → r.input = some b → canStart s t 3 r 0 = true →
    Commits (.hostFlashAuth r) s t (fun o e => o = outStatus stOK ∧ e = .hostFlashAuth (sliceZ b 0 320)))
  ∧ (∀ (r : Run) (s : State) (t : TagEntry), Passes s r 0x8D t (chkHostBootSelect t) → canStart s t 3 r 0 = true →
    Commits (.hostBootSelect r) s t (fun o e => o = outStatus stOK ∧ e = .bootSelect (seOp t.entry 0x40 1)))
  ∧ (∀ (r : Run) (s : State) (t : TagEntry) (g : Nat) (b : Bytes), g = seOp t.entry 0x40 1 → Passes s r 0x8E t (chkLifecycle s t) →
      r.input = some b → canStart s t 3 r 0 = true →
    (transitionQuorum s g = 0 → Commits (.lifecycle r) s t (fun o e => o = outResult g ∧ e = .lifecycle g 0 (sliceZ b 0 (seInLen t.entry))))
    ∧ (transitionQuorum s g ≠ 0 → Approved s t (sliceZ b 0 (seInLen t.entry)) →
      CommitsByQuorum (.lifecycle r) s t (fun o e => o = outResult g ∧ e = .lifecycle g (quorumBits s) (sliceZ b 0 (seInLen t.entry)))))
  ∧ (∀ s : State, geckoUp s = true → s.tamper.resp ≠ 0 → exec .zeroiseAllComplete s
      = .next (deviceReset (zeroiseAllEnd { s with tamper := { s.tamper with zallRunning := false, resp := 0 } }) F.SYSCTL_RSTCAUSE_TAMPER))
  ∧ (∀ (s u : State), geckoUp s = true → s.tamper.zallRunning = true → s.tamper.resp = 0 → u = zeroiseAllEnd { s with tamper := { s.tamper with zallRunning := false } } →
    (u.led.act = none → exec .zeroiseAllComplete s = .next u)
    ∧ (∀ a, u.led.act = some a → a.zall = true → u.qm.tags.any (fun t => t.tag = a.tag) = false →
      exec .zeroiseAllComplete s = .next (deviceReset (lifeFuses { u with led := { u.led with act := none } } a) F.SYSCTL_RSTCAUSE_LIFECYCLE)))

/-- HOSTSPI_LOAD, HOSTSPI_MEASURE, MEASUREMENT_PASS_END, HOSTSPI_RELEASE and a host flash transaction: what each leaves (R277, R278, R281, R283, R284, R286, R289, R293). -/
def Obligations.HostFlashCommandsComplete : Prop :=
  (∀ (s u : State) (m : Bytes), geckoUp s = true → isSet s F.HOSTSPI_STATUS_MEASURING = false →
      masterRead s 5 (getF s F.HOSTSPI_MAPADDR_VALUE) (getF s F.HOSTSPI_MAPLEN_VALUE) = (m, u) →
    (mapOk m = true → exec .hostspiLoad s = .next (setF { u with hf := { u.hf with map := m, filter56 := false } } F.HOSTSPI_STATUS_MAP_VALID 1))
    ∧ (mapOk m = false → exec .hostspiLoad s = .next (setF u F.HOSTSPI_STATUS_MAP_ERR 1)))
  ∧ (∀ s : State, geckoUp s = true → isSet s F.HOSTSPI_STATUS_MAP_VALID = true → isSet s F.HOSTSPI_STATUS_MEASURING = false →
    (s.hf.stage = 1 → ∃ u, u = { s with hf := { s.hf with stage := 2, digests := [], applied := s.hf.select = 1 } }
      ∧ exec .hostspiMeasure s = .next (startPass (setF (setF u F.HOSTSPI_RESULT_PRIMARY 0) F.HOSTSPI_RESULT_RECOVERY 0) (2 ^ hmRegions s.hf.map - 1) 0))
    ∧ (s.hf.stage ≠ 1 → exec .hostspiMeasure s = .next (startPass s (getF s F.HOSTSPI_MEASURE_PRIMARY) (getF s F.HOSTSPI_MEASURE_RECOVERY))))
  ∧ (∀ (p : PassEnd) (s u : State) (a b : Nat), geckoUp s = true → s.hf.pass = some (a, b) → u = passDone s p a b →
    (u.hf.stage = 2 → wantsRecovery u ≠ 0 → exec (.measurementPassEnd p) s
      = .next (startPass { u with hf := { u.hf with stage := 3 } } 0 (wantsRecovery u)))
    ∧ (u.hf.stage = 2 → wantsRecovery u = 0 → exec (.measurementPassEnd p) s = .next (hostDecide u p.ledgerOk))
    ∧ (u.hf.stage = 3 → exec (.measurementPassEnd p) s = .next (hostDecide u p.ledgerOk))
    ∧ (u.hf.stage ≠ 2 → u.hf.stage ≠ 3 → exec (.measurementPassEnd p) s = .next u))
  ∧ (∀ s : State, geckoUp s = true → s.hf.stage = 4 → isSet s F.HOSTSPI_STATUS_MEASURING = false →
    ∃ u v, u = endPattern s (fun _ => true) ∧ v = setF u F.HOSTSPI_OPEN_REGIONS (getF u F.HOSTSPI_OPEN_REGIONS ||| u.hf.openNext)
      ∧ exec .hostspiRelease s = .next (hostLegEnds (setHold { v with hf := { v.hf with stage := 0, openNext := 0 } } false)))
  ∧ (∀ s : State, geckoUp s = true → (s.hf.stage ≠ 4 ∨ isSet s F.HOSTSPI_STATUS_MEASURING = true) → exec .hostspiRelease s = .next s)
  ∧ (∀ (t : HostTrans) (s : State), geckoUp s = true → s.power.hold = true → t.intrusion = false →
    exec (.hostFlashTransaction t) s = .next { s with hf := { s.hf with side := none } })
  ∧ (∀ (t : HostTrans) (s : State) (e : HOpcode) (a : Nat), geckoUp s = true → s.power.hold = false → t.intrusion = false →
      (hmOps s.hf.map).find? (fun e => e.op = t.opcode.toNat) = some e → a = (if e.addr = 0 then 0 else t.addr.toNat) →
    (blocksTrans s e t = true → exec (.hostFlashTransaction t) s = .next (blockTrans s t a))
    ∧ (blocksTrans s e t = false → exec (.hostFlashTransaction t) s = .next { s with hf := { s.hf with side := some { device := t.device.val, opcode := t.opcode.toNat, addr := if e.cls = 1 then redirected s t.device.val a else a } } }))
  ∧ (∀ (t : HostTrans) (s : State), geckoUp s = true → s.power.hold = false → t.intrusion = false →
      (hmOps s.hf.map).find? (fun e => e.op = t.opcode.toNat) = none →
    exec (.hostFlashTransaction t) s = .next (blockTrans (bump s F.HOSTSPI_UNKNOWN_COUNT F.HOSTSPI_UNKNOWN_SAT) t 0))
  ∧ (∀ (t : HostTrans) (s : State), geckoUp s = true → t.intrusion = true →
    exec (.hostFlashTransaction t) s = .next (tamperTrip (if s.power.hold then { s with hf := { s.hf with side := none } } else filterTrans s t) 14))

/-- The thirteen SPDM requests: what each answers and leaves (R140, R305, R306, R307). -/
def Obligations.SpdmRequestsAreAnswered : Prop :=
  (∀ (d : Bool) (s u : State), SpdmNow s d 0 → u = setSpdmStage s d 1 →
    exec (.getVersion d) s = .next (spdmSay { u with spdm := { u.spdm with sessions := u.spdm.sessions.filter (fun x => x.doe != d) } } d (.version [0x12, 0x13])))
  ∧ (∀ (d : Bool) (s : State), SpdmNow s d 1 →
    exec (.getCapabilities d) s = .next (spdmSay (setSpdmStage s d (max 2 (spdmStage s d))) d (.capabilities [1, 2, 4, 5, 6, 7, 9, 13, 14])))
  ∧ (∀ (d : Bool) (o : SpdmOffer) (s : State), SpdmNow s d 2 →
    (offerCommon o = true → exec (.negotiateAlgorithms d o) s = .next (spdmSay (setSpdmStage s d 3) d .algorithms))
      ∧ (offerCommon o = false → exec (.negotiateAlgorithms d o) s = .next (spdmSay s d (.error 0x01))))
  ∧ (∀ (d : Bool) (s : State), SpdmNow s d 3 → exec (.getDigests d) s = .next (spdmSay s d (.digests (sha384 (certChain s)))))
  ∧ (∀ (d : Bool) (off len : Nat) (s : State) (p : Bytes), SpdmNow s d 3 → off < (certChain s).length → p = slice (certChain s) off len →
    exec (.getCertificate d 0 off len) s = .next (spdmSay s d (.certificate p ((certChain s).length - off - p.length))))
  ∧ (∀ (d : Bool) (slot off len : Nat) (s : State), SpdmNow s d 3 → slot ≠ 0 →
    exec (.getCertificate d slot off len) s = .next (spdmSay s d (.error 0x01)) ∧ exec (.challenge d slot) s = .next (spdmSay s d (.error 0x01)))
  ∧ (∀ (d : Bool) (s : State), SpdmNow s d 3 →
    exec (.challenge d 0) s = .next (spdmSay (drawBytes s 96).2 d (.challengeAuth (sha384 (certChain s)) (drawBytes s 96).1)))
  ∧ (∀ (d : Bool) (s : State), SpdmNow s d 3 →
    exec (.getMeasurements d 0 false) s = .next (spdmSay s d (.measurements [(0, 0, leBytes (measAll s).length 1)] []))
      ∧ exec (.getMeasurements d 0xFF false) s = .next (spdmSay s d (.measurements (measAll s) [])))
  ∧ (∀ (d : Bool) (n : Nat) (s u : State) (g : Bytes) (b : Nat × Bytes), SpdmNow s d 3 → drawBytes s 96 = (g, u) → n ≠ 0 → n ≠ 0xFF → measBlock u n = some b →
    exec (.getMeasurements d n true) s = .next (spdmSay u d (.measurements [(n, b.1, b.2)] g)))
  ∧ (∀ (d : Bool) (n : Nat) (s : State), SpdmNow s d 3 → n ≠ 0 → n ≠ 0xFF → measBlock s n = none →
    exec (.getMeasurements d n false) s = .next (spdmSay s d (.error 0x01)))
  ∧ (∀ (d : Bool) (p : Bytes) (s u v : State) (k g : Bytes), SpdmNow s d 3 → p.length = 96 → s.spdm.sessions.length < 4 → drawBytes s 96 = (k, u) →
      drawBytes u 96 = (g, v) →
    exec (.keyExchange d 0 p) s = .next (spdmSay { v with spdm := { v.spdm with sessions := v.spdm.sessions ++ [{ id := v.spdm.next, doe := d, done := false }], next := v.spdm.next + 1 } }
      d (.keyExchange v.spdm.next k g)))
  ∧ (∀ (d : Bool) (p : Bytes) (s : State), SpdmNow s d 3 → p.length = 96 → 4 ≤ s.spdm.sessions.length →
    exec (.keyExchange d 0 p) s = .next (spdmSay s d (.error 0x0A)))
  ∧ (∀ (n : Nat) (s : State) (x : SpdmSession), spdmFind s n = some x → x.done = false → SpdmNow s x.doe 3 →
    exec (.finish n true) s = .next (spdmSay { s with spdm := { s.spdm with
        sessions := s.spdm.sessions.map (fun y => if y.id = n then { y with done := true } else y) } } x.doe .finish)
      ∧ exec (.finish n false) s = .next (spdmSay (spdmDrop s n) x.doe (.error 0x06)))
  ∧ (∀ (n : Nat) (d : Bool) (s : State), SpdmIn s n d →
    exec (.heartbeat n true) s = .next (spdmSay s d .heartbeat) ∧ exec (.keyUpdate n true) s = .next (spdmSay s d .keyUpdate)
      ∧ exec (.endSession n true) s = .next (spdmSay (spdmDrop s n) d .endSession)
      ∧ (∀ b, s.power.dataLink = true → exec (.vendorDefinedRequest n true (some b)) s
          = .next (spdmSay (setF { s with qm := { s.qm with ideKeyed := true, ideRange := some (ideRangeOf b) } } F.PCIEC_IDE_STATE 1) d .vendorDefined))
      ∧ exec (.vendorDefinedRequest n true none) s = .next (spdmSay s d (.error 0x07)))
  ∧ (∀ (n : Nat) (d : Bool) (i : Option Bytes) (s : State), SpdmIn s n d →
    ∀ c ∈ [Instr.heartbeat n false, .keyUpdate n false, .endSession n false, .vendorDefinedRequest n false i],
      exec c s = .next (spdmSay (spdmDrop s n) d (.error 0x06)))

/-- The cluster opcodes CL_STATUS to CL_REPLAY: what each commits (R317, R321, R322, R325, R326, R328, R330, R332, R333). -/
def Obligations.ClusterRowsCommit : Prop :=
  (∀ (r : Run) (s : State) (t : TagEntry), Passes s r 0xA0 t (chkClStatus t) → needSealedTiles s = none → canStartIn s t 1 1 r 0 (some (seOpcode t.entry, 0)) = true →
    Commits (.clStatus r) s t (fun o e => e = .nothing ∧ o = outData s.cluster.epoch (leBytes s.cluster.epoch 8 ++ leBytes (s.cluster.self.getD 0xFFFF) 2
      ++ leBytes (activeCount s.cluster) 2 ++ zeros 4 ++ sliceZ s.cluster.cid 0 16 ++ (hashBytes s.cluster.hash).take 32)))
  ∧ (∀ (r : Run) (s : State) (t : TagEntry), Passes s r 0xA6 t (chkClMemberRead t) → needSealedTiles s = none → canStartIn s t 1 1 r 0 (some (seOpcode t.entry, 0)) = true →
    Commits (.clMemberRead r) s t (fun o e => e = .nothing ∧ o = outData s.cluster.epoch
      ((List.range (min (seOutLen t.entry / 64) (16384 - seOp t.entry 0x40 2))).flatMap (fun i => memberBytes (memberOf s.cluster (seOp t.entry 0x40 2 + i))))))
  ∧ (∀ (r : Run) (s : State) (t : TagEntry), needSealedTiles s = none → canStartIn s t 1 1 r 0 (some (seOpcode t.entry, 0)) = true → Approved s t [] →
    (Passes s r 0xA1 t (chkClMemberRequest t) → CommitsByQuorum (.clMemberRequest r) s t (fun o e => o = outStatus stOK
      ∧ e = .cluster 0xA1 (seDomain t.entry) 0 0 0 (sliceZ t.entry 0x40 16)))
    ∧ (Passes s r 0xA2 t (chkClFound t) → CommitsByQuorum (.clFound r) s t (fun o e => o = outStatus stOK
      ∧ e = .cluster 0xA2 (seDomain t.entry) 0 0 0 [])))
  ∧ (∀ (r : Run) (s : State) (t : TagEntry) (i : Bytes) (a : Nat), a = seOp t.entry 0x40 2 → Passes s r 0xA3 t (chkClIssue r t) → a ≠ 3 → r.input = some i →
      needSealedTiles s = none → canStartIn s t 1 1 r 0 (some (seOpcode t.entry, 0)) = true → Approved s t (sliceZ i 0 (seInLen t.entry)) →
    CommitsByQuorum (.clIssue r) s t (fun o e => o = outStatus stOK
      ∧ e = .cluster 0xA3 (seDomain t.entry) a (seOp t.entry 0x42 2) (seOp t.entry 0x44 2) (sliceZ i 0 (seInLen t.entry))))
  ∧ ClCommits .clIssue 0xA3 (fun r _ => chkClIssue r) (fun _ t => seOp t.entry 0x40 2 = 3) (fun e => (3, seOp e 0x42 2, seOp e 0x44 2))
  ∧ ClCommits .clEndorse 0xA4 (fun _ _ => chkClEndorse) (fun _ _ => True) (fun _ => (0, 0, 0))
  ∧ ClCommits .clApplyEpoch 0xA5 (fun _ _ => chkClApplyEpoch) (fun _ _ => True) (fun _ => (0, 0, 0))
  ∧ ClCommits .clSealBundle 0xA7 (fun _ => chkClSealBundle) DomKeys (fun _ => (0, 0, 0))
  ∧ ClCommits .clHandover 0xA8 (fun _ => chkClHandover) (fun s t => DomKeys s t ∧
      s.qm.tags.any (fun x => running x && seDomain x.entry = seDomain t.entry && opEffectful s (seOpcode x.entry)) = false) (fun _ => (0, 0, 0))
  ∧ ClCommits .clApplyBundle 0xA9 (fun _ _ => chkClApplyBundle) (fun _ _ => True) (fun _ => (0, 0, 0))
  ∧ ClCommits .clReplay 0xAA (fun _ => chkClReplay) DomKeys (fun _ => (0, 0, 0))
  ∧ (∀ (r : Run) (s : State) (t : TagEntry), Passes s r 0xA8 t (chkClHandover s t) →
      s.qm.tags.any (fun x => running x && seDomain x.entry = seDomain t.entry && opEffectful s (seOpcode x.entry)) = true →
    exec (.clHandover r) s = .next s)

/-- MOVE, ADD, ADDC, SUB, SUBC, CMP, NEG, MUL, MULH, MULHS, AND, OR, XOR, NOT, TST: result and flags in every operand form (R346, R354, R370, R371, R372). -/
def Obligations.DelpinArithmeticAndLogic : Prop :=
  Computes .move two 1 (fun f w a _ => classL f w a)
  ∧ Computes .add three 2 (fun _ w a b => classA w ((a + b) % 2 ^ w) (decide (a.testBit (w - 1) = b.testBit (w - 1)) && (((a + b) % 2 ^ w).testBit (w - 1) != a.testBit (w - 1))) (decide (2 ^ w ≤ a + b)))
  ∧ Computes .addc three 2 (fun f w a b => classXF f w ((a + b + (if f.c then 1 else 0)) % 2 ^ w) (decide (a.testBit (w - 1) = b.testBit (w - 1)) && (((a + b + (if f.c then 1 else 0)) % 2 ^ w).testBit (w - 1) != a.testBit (w - 1))) (decide (2 ^ w ≤ a + b + (if f.c then 1 else 0))))
  ∧ Computes .sub three 2 (fun _ w a b => classA w ((a + 2 * 2 ^ w - b) % 2 ^ w) ((a.testBit (w - 1) != b.testBit (w - 1)) && (((a + 2 * 2 ^ w - b) % 2 ^ w).testBit (w - 1) != a.testBit (w - 1))) (decide (b ≤ a)))
  ∧ Computes .subc three 2 (fun f w a b => classXF f w ((a + 2 * 2 ^ w - b - (1 - (if f.c then 1 else 0))) % 2 ^ w) ((a.testBit (w - 1) != b.testBit (w - 1)) && (((a + 2 * 2 ^ w - b - (1 - (if f.c then 1 else 0))) % 2 ^ w).testBit (w - 1) != a.testBit (w - 1))) (decide (b + (1 - (if f.c then 1 else 0)) ≤ a)))
  ∧ Computes .cmp tests 2 (fun _ w a b => classA w ((a + 2 * 2 ^ w - b) % 2 ^ w) ((a.testBit (w - 1) != b.testBit (w - 1)) && (((a + 2 * 2 ^ w - b) % 2 ^ w).testBit (w - 1) != a.testBit (w - 1))) (decide (b ≤ a)))
  ∧ Computes .neg two 1 (fun _ w a _ => classA w ((0 + 2 * 2 ^ w - a) % 2 ^ w) (((0).testBit (w - 1) != a.testBit (w - 1)) && (((0 + 2 * 2 ^ w - a) % 2 ^ w).testBit (w - 1) != (0).testBit (w - 1))) (decide (a ≤ 0)))
  ∧ Computes .mul three 2 (fun _ w a b => classA w (a * b % 2 ^ w) (decide (2 ^ w ≤ a * b)) (decide (2 ^ w ≤ a * b)))
  ∧ Computes .mulh three 2 (fun f w a b => classL f w (a * b / 2 ^ w))
  ∧ Computes .mulhs three 2 (fun f w a b => classL f w (ofSigned w (toSigned w a * toSigned w b / 2 ^ w)))
  ∧ Computes .and three 2 (fun f w a b => classL f w (a &&& b))
  ∧ Computes .or three 2 (fun f w a b => classL f w (a ||| b))
  ∧ Computes .xor three 2 (fun f w a b => classL f w (a ^^^ b))
  ∧ Computes .not two 1 (fun f w a _ => classL f w (2 ^ w - 1 - a))
  ∧ Computes .tst tests 2 (fun f w a b => classL f w (a &&& b))

/-- SHL, SHR, SAR, ROL, ROR, CLZ, POPC, BSWAP, DIV, DIVS, REM, REMS, CSEL, CTEQ, CTLT, CTMASK: result and flags in every operand form (R370, R371, R372, R376, R377, R378). -/
def Obligations.DelpinShiftsDivisionsAndSelects : Prop :=
  Computes .shl three 2 (fun f w a b => classS f w (a * 2 ^ (b % w) % 2 ^ w) (b % w) (a.testBit (w - b % w)))
  ∧ Computes .shr three 2 (fun f w a b => classS f w (a / 2 ^ (b % w)) (b % w) (a.testBit (b % w - 1)))
  ∧ Computes .sar three 2 (fun f w a b => classS f w (ofSigned w (toSigned w a / 2 ^ (b % w))) (b % w) (a.testBit (b % w - 1)))
  ∧ Computes .rol three 2 (fun f w a b => classS f w (a * 2 ^ (b % w) % 2 ^ w + a / 2 ^ (w - b % w)) (b % w) (a.testBit (w - b % w)))
  ∧ Computes .ror three 2 (fun f w a b => classS f w (a / 2 ^ (b % w) + a * 2 ^ (w - b % w) % 2 ^ w) (b % w) (a.testBit (b % w - 1)))
  ∧ Computes .clz two 1 (fun f w a _ => classL f w (w - ((List.range w).filter (fun i => a / 2 ^ i != 0)).length))
  ∧ Computes .popc two 1 (fun f w a _ => classL f w (popBits a w))
  ∧ Computes .cteq three 2 (fun f w a b => classT f (if a = b then 2 ^ w - 1 else 0) (a = b))
  ∧ Computes .ctlt three 2 (fun f w a b => classT f (if a < b then 2 ^ w - 1 else 0) (a < b))
  ∧ Computes .ctmask two 1 (fun f w a _ => classT f (if a = 0 then 0 else 2 ^ w - 1) (a != 0))
  ∧ Computes .bswap (fun i => { formAny 2 1 with lo := 1, imm := noImm i }) 1
      (fun f w a _ => classL f w (leAt (leBytes a (w / 8)).reverse 0 (w / 8)))
  ∧ (∀ (i : LongInsn) (s t u : State) (locs : List Loc) (vals : List Nat) (x : DCore) (a b w : Nat), x = getCore s i.core → Runs i s t (formBad i (three i)) →
      Reads i x t u 2 (sizeBytes i.size.toNat) locs vals → a = val vals 0 → b = val vals 1 → w = 8 * 2 ^ i.size.toNat →
    (b = 0 → ∀ c ∈ [Instr.div i, .divs i, .rem i, .rems i], exec c s = .next (raiseSync u i.core (DFault.plain 0x0E)))
    ∧ (b ≠ 0 → ∀ y : Nat → Bool → State, y = (fun r v => Puts i t u 2 (sizeBytes i.size.toNat) locs
          (x.setFlags { n := r.testBit (w - 1), z := r = 0, v := v, c := false }) r) →
      exec (.div i) s = .next (y (a / b) false) ∧ exec (.rem i) s = .next (y (a % b) false)
      ∧ exec (.rems i) s = .next (y (ofSigned w ((toSigned w a).tmod (toSigned w b))) false)
      ∧ (a = 2 ^ (w - 1) → b = 2 ^ w - 1 → exec (.divs i) s = .next (y (2 ^ (w - 1)) true))
      ∧ (¬ (a = 2 ^ (w - 1) ∧ b = 2 ^ w - 1) → exec (.divs i) s = .next (y (ofSigned w ((toSigned w a).tdiv (toSigned w b))) false))))
  ∧ (∀ (i : LongInsn) (s t u : State) (locs : List Loc) (vals : List Nat) (x : DCore), x = getCore s i.core →
      Runs i s t (formBad i { formAny 3 1 with imm := decide (i.imm16.toNat < 15) }) → Reads i x t u 2 (sizeBytes i.size.toNat) locs vals →
    exec (.csel i) s = .next (Puts i t u 2 (sizeBytes i.size.toNat) locs x (if condHolds x.flags i.imm16.toNat then val vals 0 else val vals 1)))

/-- EXT, LEA, CLR, PUSH, POP, CTBEQ and the paired word: what each leaves (R349, R350, R351, R352, R372, R373, R374, R375, R379, R391, R392). -/
def Obligations.DelpinMovesStackAndPairs : Prop :=
  (∀ (i : LongInsn) (s t u : State) (locs : List Loc) (vals : List Nat) (x : DCore) (m r w : Nat), x = getCore s i.core → m = i.imm16.toNat →
      Runs i s t (formBad i { formAny 2 1 with lo := 1, imm := decide (m < 8) && decide (m % 4 < i.size.toNat) }) →
      Reads i x t u 1 (sizeBytes (m % 4)) locs vals → w = 8 * 2 ^ i.size.toNat →
      r = (if m.testBit 2 then ofSigned w (toSigned (8 * 2 ^ (m % 4)) (val vals 0 % 2 ^ (8 * 2 ^ (m % 4)))) else val vals 0 % 2 ^ (8 * 2 ^ (m % 4))) →
    exec (.ext i) s = .next (Puts i t u 1 (sizeBytes (m % 4)) locs (x.setFlags (classL x.flags w r).2) r))
  ∧ (∀ (i : LongInsn) (s t u v : State) (x : DCore) (off : Int) (l : Loc), x = getCore s i.core →
      Runs i s t (formBad i (formOf 2 3 1 false (noImm i)) || !modeIn (insnSpec i 0) 1 9) → operandOff t i.core x (insnSpec i 0) 8 i.fails = .ok off u →
      locate u i.core x (insnSpec i 1) (useDst 8) 8 i.fails = .ok l v →
    ∃ o, o = putLoc (specMove (specMove x (insnSpec i 0) 8) (insnSpec i 1) 8) (some l) 8 (ofSigned 64 off)
      ∧ exec (.lea i) s = .next (Ended t v i.core (o.1.advance (insnWords i)) o.2))
  ∧ (∀ (i : LongInsn) (s t u : State) (locs : List Loc) (x : DCore), x = getCore s i.core → Runs i s t (formBad i { formAny 1 1 with imm := noImm i }) →
      Reads i x t u 0 0 locs [] →
    exec (.clr i) s = .next (Puts i t u 0 0 locs (x.setFlags { n := false, z := true, v := false, c := x.c }) 0))
  ∧ (∀ (i : LongInsn) (s t u v q : State) (x : DCore) (n phys val : Nat) (l : Loc), x = getCore s i.core → n = sizeBytes i.size.toNat →
      Runs i s t (formBad i { formAny 1 0 with imm := noImm i } || movesA7 i) → locate t i.core x (insnSpec i 0) (useSrc n) n i.fails = .ok l u →
      checkAcc u i.core x (stackAcc ((x.areg 7).toInt - 8) true) = .ok phys v → readLoc v i.core x l n i.fails = .ok val q →
    ∃ y, y = specMove x (insnSpec i 0) n
      ∧ exec (.push i) s = .next (Ended t q i.core ((y.setA 7 (y.areg 7 - 8)).advance (insnWords i)) [(phys, leBytes val 8)]))
  ∧ (∀ (i : LongInsn) (s t u v q : State) (x : DCore) (n phys : Nat) (b : Bytes) (l : Loc), x = getCore s i.core → n = sizeBytes i.size.toNat →
      Runs i s t (formBad i { formAny 1 1 with imm := noImm i } || movesA7 i) → locate t i.core x (insnSpec i 0) (useDst n) n i.fails = .ok l u →
      checkAcc u i.core x (stackAcc (x.areg 7).toInt false) = .ok phys v → memRead v i.core (stackAcc (x.areg 7).toInt false) phys i.fails = .ok b q →
    ∃ o, o = putLoc ((specMove x (insnSpec i 0) n).setFlags (classL x.flags (8 * n) (leAt b 0 n)).2) (some l) n (leAt b 0 n)
      ∧ exec (.pop i) s = .next (Ended t q i.core ((o.1.setA 7 (o.1.areg 7 + 8)).advance (insnWords i)) o.2))
  ∧ (∀ (i : LongInsn) (s t u v : State) (x : DCore) (n a b : Nat) (locs : List Loc), x = getCore s i.core → n = i.imm16.toNat →
      Runs i s t (formBad i (formOf 2 0 0 false (decide (1 ≤ n) && decide (n ≤ 4096))) || !i.specs.all (fun p => modeIn p 1 9)) →
      locateAll i.core x i.fails (i.specs.map (fun p => (p, { useSrc 1 with block := true }, n))) t = .ok locs u →
      readLocs i.core x i.fails n locs u = .ok [a, b] v →
    ∃ y, y = moveAll x (i.specs.map (fun p => (p, 1)))
      ∧ exec (.ctbeq i) s = .next (Ended t v i.core ((y.setFlags { x.flags with z := a = b }).advance (insnWords i)) []))
  ∧ (∀ (c : CoreId) (f g : ShortOp) (fails : List MemFail) (s t a b u v : State) (i : LongInsn) (x y : DCore) (pf pg : Nat × Nat) (rf rg : Option Nat × Flags),
      i = { core := c, size := 0, cond := 0, imm16 := 0, specs := [], fails := fails } → x = getCore s c → Runs i s t false →
      shortBad f = false → shortBad g = false → pairConflict f g = false → shortCheck t c x f = .ok pf a → shortCheck a c x g = .ok pg b →
      shortRun b c x x.flags f pf fails = .ok rf u → y = ((shortMove (shortMove x f) g).setFlags rf.2).advance 1 →
      shortRun (shortWrite (setCore u c y) c x f pf rf.1) c x rf.2 g pg fails = .ok rg v →
    exec (.pairedWord c f g false fails) s = .next (thenRelease t (shortWrite (setCore v c (y.setFlags rg.2)) c x g pg rg.1)))
  ∧ (∀ (c : CoreId) (f g : ShortOp) (fails : List MemFail) (s t : State) (i : LongInsn),
      i = { core := c, size := 0, cond := 0, imm16 := 0, specs := [], fails := fails } → Runs i s t false →
    exec (.pairedWord c f g true fails) s = .next (raiseSync t c (DFault.plain 3))
    ∧ (shortBad f = true ∨ shortBad g = true → exec (.pairedWord c f g false fails) s = .next (raiseSync t c (DFault.plain 3)))
    ∧ (shortBad f = false → shortBad g = false → pairConflict f g = true → exec (.pairedWord c f g false fails) s = .next (raiseSync t c (DFault.plain 4))))

/-- JMP, CALL, RET, LOOP, SWAPA, CAS, FADD, BMOVE, BFILL, TRAP, GATE, RTE: what each leaves (R346, R360, R380, R381, R382, R384, R385, R387, R408, R409). -/
def Obligations.DelpinTransfersAtomicsAndBlocks : Prop :=
  (∀ (i : LongInsn) (s t u : State) (x : DCore) (pc : W32), x = getCore s i.core → Runs i s t (formBad i (formOf 1 0 0 false (noImm i))) →
      targetOf t i.core x (insnSpec i 0) 0 i.fails = .ok pc u →
    (aligned4 pc = true → exec (.jmp i) s = .next (Ended t u i.core { specMove x (insnSpec i 0) 1 with pc := pc, fresh := false } []))
    ∧ (aligned4 pc = false → exec (.jmp i) s = .next (raiseSync u i.core (DFault.plain 3))))
  ∧ (∀ (i : LongInsn) (s t u v : State) (x y : DCore) (pc : W32) (phys : Nat), x = getCore s i.core →
      Runs i s t (formBad i (formOf 1 0 0 false (noImm i)) || movesA7 i) → targetOf t i.core x (insnSpec i 0) 0 i.fails = .ok pc u → aligned4 pc = true →
      checkAcc u i.core x (stackAcc ((x.areg 7).toInt - 8) true) = .ok phys v → y = specMove x (insnSpec i 0) 1 →
    exec (.call i) s = .next (Ended t v i.core { y.setA 7 (y.areg 7 - 8) with pc := pc, fresh := false } [(phys, leBytes (x.pc.toNat + 4 * insnWords i) 8)]))
  ∧ (∀ (i : LongInsn) (s t u v : State) (x : DCore) (phys n : Nat) (b : Bytes), x = getCore s i.core → Runs i s t (formBad i (formOf 0 0 0 false (noImm i))) →
      checkAcc t i.core x (stackAcc (x.areg 7).toInt false) = .ok phys u → memRead u i.core (stackAcc (x.areg 7).toInt false) phys i.fails = .ok b v →
      n = leAt b 0 8 →
    (n < 2 ^ 32 → n % 4 = 0 → exec (.ret i) s = .next (Ended t v i.core { x.setA 7 (x.areg 7 + 8) with pc := BitVec.ofNat 32 n, fresh := false } []))
    ∧ ((2 ^ 32 ≤ n ∨ n % 4 ≠ 0) → exec (.ret i) s = .next (raiseSync v i.core (DFault.plain 3))))
  ∧ (∀ (i : LongInsn) (s t u v q : State) (x : DCore) (k n m : Nat) (pc : W32) (l : Loc), x = getCore s i.core → k = sizeBytes i.size.toNat →
      Runs i s t (formBad i { formAny 2 0 with imm := noImm i } || !modeIn (insnSpec i 0) 0 8) →
      locate t i.core x (insnSpec i 0) { bytes := k, read := true, write := true, block := false } k i.fails = .ok l u →
      targetOf u i.core x (insnSpec i 1) i.size.toNat i.fails = .ok pc v → readLoc v i.core x l k i.fails = .ok n q →
      m = (n + 2 ^ (8 * k) - 1) % 2 ^ (8 * k) → m = 0 ∨ aligned4 pc = true →
    ∃ o, o = putLoc (specMove (specMove x (insnSpec i 0) k) (insnSpec i 1) k) (some l) k m
      ∧ exec (.loop i) s = .next (Ended t q i.core (if m = 0 then o.1.advance (insnWords i) else { o.1 with pc := pc, fresh := false }) o.2))
  ∧ (∀ (i : LongInsn) (count : Nat) (s t a b d e u : State) (x : DCore) (k reg old phys p : Nat) (off : Int) (locs : List Loc) (vals : List Nat) (m : Bytes) (acc : Acc),
      x = getCore s i.core → k = sizeBytes i.size.toNat →
      Runs i s t (formBad i { formAny count 1 with always := true, imm := noImm i } || (insnSpec i 0).mode.toNat != 0 || !modeIn (insnSpec i (count - 1)) 1 8) →
      operandOff t i.core x (insnSpec i (count - 1)) k i.fails = .ok off a →
      acc = { seg := specSeg (insnSpec i (count - 1)), off := off, n := k, write := false, block := true } → physOf x acc % k = 0 →
      locateAll i.core x i.fails (((i.specs.drop 1).take (count - 2)).map (fun p => (p, useSrc k, k))) a = .ok locs b →
      checkAcc b i.core x acc = .ok p d → checkAcc d i.core x { acc with write := true } = .ok phys e →
      (∃ f, readLocs i.core x i.fails k locs e = .ok vals f ∧ memRead (drainCore f i.core) i.core acc phys i.fails = .ok m u) →
      old = leAt m 0 k → reg = (x.areg (insnSpec i 0).reg.val).toNat % 2 ^ (8 * k) →
      ∀ done : DCore → List (Nat × Bytes) → State, done = (fun y ws => drained t u i.core
        (((moveAll y ((i.specs.drop 1).map (fun p => (p, k)))).setA (insnSpec i 0).reg.val (BitVec.ofNat 64 old)).advance (insnWords i)) ws) →
    (count = 2 → exec (.swapa i) s = .next (done x [(phys, leBytes reg k)]))
    ∧ (count = 3 → exec (.cas i) s = .next (done (x.setFlags { x.flags with z := old = reg }) (if old = reg then [(phys, leBytes (vals[0]?.getD 0) k)] else [])))
    ∧ (count = 3 → exec (.fadd i) s = .next (done (x.setFlags (addF x.flags (8 * 2 ^ i.size.toNat) old (vals[0]?.getD 0)).2)
        [(phys, leBytes ((old + vals[0]?.getD 0) % 2 ^ (8 * 2 ^ i.size.toNat)) k)])))
  ∧ (∀ (i : LongInsn) (s t : State) (x : DCore), x = getCore s i.core → getCore t i.core = x → (x.areg (insnSpec i 2).reg.val).toNat = 0 →
    (Runs i s t (formBad i (formOf 3 3 0 true (noImm i)) || (insnSpec i 0).mode.toNat != 1 || (insnSpec i 1).mode.toNat != 1 || (insnSpec i 2).mode.toNat != 0
        || (insnSpec i 0).reg = (insnSpec i 1).reg || (insnSpec i 0).reg = (insnSpec i 2).reg || (insnSpec i 1).reg = (insnSpec i 2).reg) →
      exec (.bmove i) s = .next (Ended t t i.core (x.advance (insnWords i)) []))
    ∧ (Runs i s t (formBad i (formOf 3 3 0 true (noImm i)) || (insnSpec i 1).mode.toNat != 1 || (insnSpec i 2).mode.toNat != 0
        || (insnSpec i 1).reg = (insnSpec i 2).reg || (specRegs (insnSpec i 0)).contains (insnSpec i 1).reg.val
        || (specRegs (insnSpec i 0)).contains (insnSpec i 2).reg.val) →
      exec (.bfill i) s = .next (Ended t t i.core ((specMove x (insnSpec i 0) 8).advance (insnWords i)) [])))
  ∧ (∀ (i : LongInsn) (s t u v q w : State) (x y : DCore) (ra rb rk n pa pb : Nat), x = getCore s i.core → getCore t i.core = x →
      Runs i s t (formBad i (formOf 3 3 0 true (noImm i)) || (insnSpec i 0).mode.toNat != 1 || (insnSpec i 1).mode.toNat != 1 || (insnSpec i 2).mode.toNat != 0
        || (insnSpec i 0).reg = (insnSpec i 1).reg || (insnSpec i 0).reg = (insnSpec i 2).reg || (insnSpec i 1).reg = (insnSpec i 2).reg) →
      ra = (insnSpec i 0).reg.val → rb = (insnSpec i 1).reg.val → rk = (insnSpec i 2).reg.val → n = (x.areg rk).toNat → n ≠ 0 → n ≤ 64 - (x.areg rb).toNat % 64 →
      checkAcc t i.core x { seg := (insnSpec i 0).seg.val, off := (x.areg ra).toInt, n := n, write := false, block := true } = .ok pa u →
      checkAcc u i.core x { seg := (insnSpec i 1).seg.val, off := (x.areg rb).toInt, n := n, write := true, block := true } = .ok pb v →
      copyBytes i.core x i.fails (x.areg ra).toInt (x.areg rb).toInt (insnSpec i 0).seg.val (insnSpec i 1).seg.val n 0 v = .ok () q →
      y = blockRegs x (some ra) rb rk n → w = setCore q i.core y → getCore w i.core = y → (y.areg rk).toNat = 0 →
    exec (.bmove i) s = .next (thenRelease t (setCore w i.core (y.advance (insnWords i)))))
  ∧ (∀ (i : LongInsn) (s t u v q w : State) (x y : DCore) (rb rk n a p : Nat) (l : Loc), x = getCore s i.core → getCore v i.core = x →
      Runs i s t (formBad i (formOf 3 3 0 true (noImm i)) || (insnSpec i 1).mode.toNat != 1 || (insnSpec i 2).mode.toNat != 0
        || (insnSpec i 1).reg = (insnSpec i 2).reg || (specRegs (insnSpec i 0)).contains (insnSpec i 1).reg.val
        || (specRegs (insnSpec i 0)).contains (insnSpec i 2).reg.val) →
      rb = (insnSpec i 1).reg.val → rk = (insnSpec i 2).reg.val → n = (x.areg rk).toNat → n ≠ 0 → n ≤ 64 - (x.areg rb).toNat % 64 →
      locate t i.core x (insnSpec i 0) (useSrc 8) 8 i.fails = .ok l u → readLoc u i.core x l 8 i.fails = .ok a v →
      checkAcc v i.core x { seg := (insnSpec i 1).seg.val, off := (x.areg rb).toInt, n := n, write := true, block := true } = .ok p q →
      y = blockRegs x none rb rk n → w = setCore (memWrite q i.core (x.w && x.l) p (List.replicate n (BitVec.ofNat 8 a))) i.core y →
      getCore w i.core = y → (y.areg rk).toNat = 0 →
    exec (.bfill i) s = .next (thenRelease t (setCore w i.core ((specMove y (insnSpec i 0) 8).advance (insnWords i)))))
  ∧ (∀ (i : LongInsn) (s t : State) (n : Nat), n = i.imm16.toNat →
    (Runs i s t (formBad i (formOf 0 0 0 false (decide (n < 16)))) →
      exec (.trap i) s = .next (raiseSync t i.core { DFault.plain (0x10 + n) with detail := n, skip := 1 }))
    ∧ (∀ w, gateWorld s i.core (getCore s i.core) n = some w → (isDisp i.core = true → w = (getCore s i.core).w) →
      Runs i s t (formBad i (formOf 0 0 0 true (decide (n < 256)))) →
      exec (.gate i) s = .next (raiseSync t i.core { DFault.plain 0x20 with detail := n, skip := 1 })))
  ∧ (∀ (i : LongInsn) (s t : State) (x : DCore), x = getCore s i.core → x.l = true → Runs i s t (formBad i (formOf 0 0 0 true (noImm i))) →
    (rteAllowed i.core x = true → (x.ctlOf x.w).depth = 0 → ∃ y r, r = x.ctlOf x.w ∧ y.pc = BitVec.ofNat 32 r.epc.toNat ∧ y.w = r.eps.toNat.testBit 15
        ∧ y.l = r.eps.toNat.testBit 14 ∧ y.m = r.eps.toNat / 256 % 8 ∧ y.flags = { n := r.eps.toNat.testBit 3, z := r.eps.toNat.testBit 2, v := r.eps.toNat.testBit 1, c := r.eps.toNat.testBit 0 }
        ∧ exec (.rte i) s = .next (Ended t (drainCore t i.core) i.core y []))
    ∧ (rteAllowed i.core x = true → (x.ctlOf x.w).depth ≠ 0 → (x.areg 7).toNat % 8 = 0 → ∀ (u v : State) (p : Nat) (b : Bytes) (a : Acc),
        a = { seg := 15, off := (x.areg 7).toInt, n := 48, write := false, block := true } → checkAcc t i.core x a = .ok p u → memRead (drainCore u i.core) i.core a p i.fails = .ok b v →
        exec (.rte i) s = .next (Ended t v i.core (rteCore x (some b)) []))
    ∧ (rteAllowed i.core x = false → isDisp i.core = false → exec (.rte i) s = .next (raiseSync t i.core (DFault.plain 0x0C))))

/-- LSEG, SSEG, MASK, WAIT, FENCE, MFPS, MTF, MFCR, MTCR, and writes to WSTART and SWI: what each leaves (R341, R370, R372, R386, R388, R389, R390, R394, R410, R411). -/
def Obligations.DelpinSystemInstructions : Prop :=
  (∀ (i : LongInsn) (s t u v : State) (x : DCore) (n a : Nat) (l : Loc) (d : SegDesc), x = getCore s i.core → x.l = true → n = i.imm16.toNat →
      Runs i s t (formBad i (formOf 1 0 0 true (decide (n < 16))) || !modeIn (insnSpec i 0) 1 9) → i.specs = [insnSpec i 0] →
      locate (drainCore t i.core) i.core x (insnSpec i 0) { useSrc 1 with block := true } 16 i.fails = .ok l u → readLoc u i.core x l 1 i.fails = .ok a v →
      d = segOfBytes (leBytes a 16) →
    (segLoads d x.w = true → exec (.lseg i) s
      = .next (Ended t v i.core ((specMove (x.setBank x.w x.l (x.active.setSeg n d)) (insnSpec i 0) 1).advance (insnWords i)) []))
    ∧ (segLoads d x.w = false → exec (.lseg i) s = .next (raiseSync v i.core (DFault.plain 7))))
  ∧ (∀ (i : LongInsn) (s t u : State) (x : DCore) (n p : Nat) (a : Acc), x = getCore s i.core → x.l = true → n = i.imm16.toNat →
      Runs i s t (formBad i (formOf 1 0 1 true (decide (n < 16))) || !modeIn (insnSpec i 0) 1 8) → i.specs = [insnSpec i 0] →
      locate t i.core x (insnSpec i 0) { useDst 1 with block := true } 16 i.fails = .ok (.mem a p) u →
    exec (.sseg i) s = .next (Ended t u i.core ((specMove x (insnSpec i 0) 1).advance (insnWords i)) [(p, leBytes (leAt (x.active.seg n).bytes 0 16) 16)]))
  ∧ (∀ (i : LongInsn) (s t u : State) (x : DCore) (k : Nat) (locs : List Loc) (vals : List Nat), x = getCore s i.core → k = sizeBytes i.size.toNat →
      Reads i x t u 1 k locs vals →
    (x.l = true → Runs i s t (formBad i { formAny 1 0 with always := true, imm := noImm i }) →
      exec (.mask i) s = .next (Puts i t u 1 k locs { x with m := val vals 0 % 8 } 0))
    ∧ (Runs i s t (formBad i { formAny 1 0 with imm := noImm i }) → exec (.mtf i) s = .next (Puts i t u 1 k locs
        (x.setFlags { n := (val vals 0).testBit 3, z := (val vals 0).testBit 2, v := (val vals 0).testBit 1, c := (val vals 0).testBit 0 }) 0)))
  ∧ (∀ (i : LongInsn) (s t : State) (x : DCore), x = getCore s i.core →
    (x.l = true → Runs i s t (formBad i (formOf 0 0 0 true (noImm i)) || x.m = 7) →
      exec (.wait i) s = .next (Ended t t i.core { x.advance (insnWords i) with waiting := (admitted t i.core).isNone } []))
    ∧ (Runs i s t (formBad i (formOf 0 0 0 true (decide (1 ≤ i.imm16.toNat) && decide (i.imm16.toNat ≤ 3)))) →
      exec (.fence i) s = .next (Ended t (if i.imm16.toNat.testBit 0 then drainCore t i.core else t) i.core (x.advance (insnWords i)) [])))
  ∧ (∀ (i : LongInsn) (s t u : State) (x : DCore) (locs : List Loc), x = getCore s i.core → Reads i x t u 0 0 locs [] →
    (Runs i s t (formBad i { formAny 1 1 with imm := noImm i }) → exec (.mfps i) s = .next (Puts i t u 0 0 locs x x.psWord))
    ∧ (x.l = true → Runs i s t (formBad i (formOf 1 3 1 false true) || crAbsent i.core x i.imm16.toNat) →
      exec (.mfcr i) s = .next (Puts i t u 0 0 locs x (readCr u i.core x i.imm16.toNat))))
  ∧ (∀ (i : LongInsn) (s t u q w : State) (x y : DCore) (n v : Nat) (l : Loc), x = getCore s i.core → x.l = true → n = i.imm16.toNat →
      Runs i s t (formBad i (formOf 1 3 0 false true) || crAbsent i.core x n) → locate t i.core x (insnSpec i 0) (useSrc 8) 8 i.fails = .ok l u →
      readLoc u i.core x l 8 i.fails = .ok v q → y = specMove x (insnSpec i 0) 8 →
      w = setCore q i.core ((y.setCtl x.w (writeCr (y.ctlOf x.w) n (BitVec.ofNat 64 v))).advance (insnWords i)) →
    (n = 9 → exec (.mtcr i) s = .next (thenRelease t (softRaise w i.core v)))
    ∧ (n = 18 → v.testBit 0 = true → exec (.mtcr i) s = .next (thenRelease t (openStart w i.core)))
    ∧ (n ≠ 9 → n ≠ 18 → exec (.mtcr i) s = .next (thenRelease t w)))
  ∧ (∀ (c : CoreId) (v : W64) (s : State), ready s c = true → (getCore s c).l = true →
    exec (.swi c v) s = .next (softRaise s c v.toNat)
      ∧ ((getCore s c).w = true → isDisp c = false → v.getLsbD 0 = true → exec (.wstart c v) s = .next (openStart s c)))
  ∧ (∀ (i : LongInsn) (s t : State) (x : DCore), x = getCore s i.core → x.l = false →
    (Runs i s t (formBad i (formOf 0 0 0 true (noImm i)) || x.m = 7) → exec (.wait i) s = .next (raiseSync t i.core (DFault.plain 2)))
    ∧ (Runs i s t (formBad i (formOf 1 3 1 false true) || crAbsent i.core x i.imm16.toNat) → exec (.mfcr i) s = .next (raiseSync t i.core (DFault.plain 2))))

/-- Interrupt entry, lockstep mismatch, MPU sync and its application, violation clear, an arbiter decision: what each leaves (R402, R404, R407, R413, R426, R427, R428, R430, R431, 14_protection_and_arbitration.md). -/
def Obligations.EntriesProtectionAndArbitration : Prop :=
  (∀ (c : CoreId) (s z t : State) (n l : Nat) (w : Bool) (x : DCore) (r : CtlRegs), admitted s c = some (n, l, w) → coreRuns s c = true →
      (getCore s c).fresh = false → z = drainCore (endHalt (dropSource s c n) c) c → x = getCore z c → r = x.ctlOf w →
      entryStack z c x { world := w, level := l, code := 0x40 + n, sub := 0, orig := 0, f := DFault.plain (0x40 + n), origValid := true } = (some none, t) →
    exec (.interruptEntry c) s = .next (setCore t c { x.setCtl w { r with epc := BitVec.ofNat 64 (x.pc.toNat), eps := BitVec.ofNat 64 x.psWord, cause := BitVec.ofNat 64 (0x40 + n), eaddr := 0, ephys := 0, origValid := true, origW := x.w, origL := x.l, busy := true } with w := w, l := true, m := l, pc := BitVec.ofNat 32 r.vbar.toNat, waiting := false, fresh := true }))
  ∧ (∀ (s : State) (x : DCore), geckoUp s = true → inLockstep s = true → x = getCore s .a →
    exec .lockstepMismatch s = .next (faultReport (stopB (stopA s x 0xF0 0) x 0xF0 0) 0x29 0 0))
  ∧ (∀ (m : BitVec 24) (s u : State) (all : Nat), u = setF s F.MPU_L_SYNC_ERR 0 → all = (m.toNat % 2 ^ 24 ||| pendOf s 1) →
      (syncRegions 1 all).find? (fun p => badRegion 1 (shadow u 1 p.1 p.2)) = none →
    exec (.mpuSync true m) s = .next (setPend u 1 all ((syncRegions 1 all).map (fun p => (mpuKey 1 p.1 p.2, shadow u 1 p.1 p.2)))))
  ∧ (∀ (m : BitVec 24) (s u : State) (all : Nat), u = setF s F.MPU_G_SYNC_ERR 0 → all = (m.toNat % 2 ^ 10 ||| pendOf s 0) →
    ((syncRegions 0 all).find? (fun p => badRegion 0 (shadow u 0 p.1 p.2)) = none →
      exec (.mpuSync false m) s = .next (setPend u 0 all ((syncRegions 0 all).map (fun p => (mpuKey 0 p.1 p.2, shadow u 0 p.1 p.2)))))
    ∧ (∀ a b, (syncRegions 0 all).find? (fun p => badRegion 0 (shadow u 0 p.1 p.2)) = some (a, b) →
      exec (.mpuSync false m) s = .next (syncErr (setPend u 0 0 []) 0 a b)))
  ∧ (∀ (s : State), pendOf s 1 ≠ 0 → ∃ u, u = setPend { s with mpu := { s.mpu with act := (s.mpu.snap.filter (fun e => e.1 / 512 = 1)).foldl (fun l e => mapSet l e.1 (if mpuSizeOk 1 e.2.size then e.2 else MpuRegion.off) MpuRegion.off) s.mpu.act } } 1 0 []
      ∧ exec (.mpuSyncApply true) s = .next (raiseDisp u 3 (pendOf s 1)))
  ∧ (∀ (s : State), pendOf s 0 ≠ 0 → exec (.mpuSyncApply false) s = .next (setPend { s with mpu := { s.mpu with act := (s.mpu.snap.filter (fun e => e.1 / 512 = 0)).foldl (fun l e => mapSet l e.1 (if mpuSizeOk 0 e.2.size then e.2 else MpuRegion.off) MpuRegion.off) s.mpu.act } } 0 0 []))
  ∧ (∀ (b : Bool) (s : State), pendOf s (if b then 1 else 0) = 0 → exec (.mpuSyncApply b) s = .next s)
  ∧ (∀ s : State, exec (.mpuViolClear true) s = .next (resetRegs s (fun b off => b = Blk.MPU_L && (off = 0x10 || off = 0x18)))
      ∧ exec (.mpuViolClear false) s = .next (resetRegs s (fun b off => b = Blk.MPU_G && (off = 0x10 || off = 0x18))))
  ∧ (∀ (a : Fin 6) (q : W32) (s : State) (p h : Nat) (asks : Nat → Bool), arbState s a.val = (p, h) → asks = (fun o => o < 32 && q.toNat.testBit o) →
    (asks h = true → exec (.arbiterDecision a q) s = .next s)
    ∧ (asks h = false → q = 0 → exec (.arbiterDecision a q) s = .next (setArb s a.val p 0xFF))
    ∧ (asks h = false → q ≠ 0 → asks (arbSlot s a.val p) = true →
      exec (.arbiterDecision a q) s = .next (setArb s a.val ((p + 1) % 256) (arbSlot s a.val p)))
    ∧ (∀ o, asks h = false → q ≠ 0 → asks (arbSlot s a.val p) = false → (ranking s a.val).find? asks = some o →
      exec (.arbiterDecision a q) s = .next (setArb s a.val ((p + 1) % 256) o)))

/-- PROGRAM, ERASE, ERASE_RANGE, CHECK, RETIRE, SUSPEND, RESUME and an operation end: what each leaves (R439, R440, R441, R445, R446, R448, R453, R454). -/
def Obligations.FlashCommandsComplete : Prop :=
  (∀ (w : FlashWr) (s : State) (n : Nat), geckoUp s = true → w.key = 0x464C →
    ∀ e ∈ [(Instr.program w, 1), (.erase w, 2), (.eraseRange w, 3), (.check w, 4), (.retire w, 5)],
      ∀ o : FlashOp, o = { op := e.2, addr := getF s F.FLASHC_ADDR_VALUE, len := getF s F.FLASHC_LEN_VALUE, data := [], tag := false, susp := 0 } →
      flashErr s o (getF s F.FLASHC_SRC_VALUE) w.fetch.val = n →
      (n = 0 → ∃ z u, z = (if e.2 = 2 ∨ e.2 = 3 ∨ e.2 = 5 then noteIntent s (flashBank o.addr) else s)
          ∧ u = { z with flash := { z.flash with run := some { o with data := if e.2 = 1 then geckoBytes s (getF s F.FLASHC_SRC_VALUE) o.len else [] }, intents := if e.2 = 2 ∨ e.2 = 3 then z.flash.intents ++ [opSectors o] else z.flash.intents } }
        ∧ exec e.1 s = .next (setF (setF (setF u F.FLASHC_STATUS_BUSY 1) F.FLASHC_STATUS_DONE 0) F.FLASHC_STATUS_OP e.2))
      ∧ (n ≠ 0 → n ≠ 8 → n ≠ 11 → exec e.1 s = .next (setF (setF (setF (setF s F.FLASHC_STATUS_DONE 1) F.FLASHC_RESULT_ERR n) F.FLASHC_RESULT_MAXCNT 0) F.FLASHC_RESULT_LOST 0))
      ∧ (n = 11 → exec e.1 s = .next (flashRefuse (faultReport (occur s 0x309 (flashBank o.addr) 0 (sectorOf o.addr)) 0x2C (flashBank o.addr) 0) 11)))
  ∧ (∀ (w : FlashWr) (s : State), geckoUp s = true → w.key ≠ 0x464C →
    ∀ c ∈ [Instr.program w, .erase w, .eraseRange w, .check w, .retire w, .suspend w, .resume w],
      exec c s = .next (setF (setF s F.FLASHC_STATUS_DONE 1) F.FLASHC_RESULT_ERR 13))
  ∧ (∀ (w : FlashWr) (s : State) (o : FlashOp), geckoUp s = true → w.key = 0x464C → s.flash.run = some o → flashBank o.addr ≠ w.fetch.val →
    ((o.op = 2 ∨ o.op = 3) → o.susp < 64 → exec (.suspend w) s = .next (showSusp (setF { s with flash := { s.flash with run := none, stack := { o with susp := o.susp + 1 } :: s.flash.stack } } F.FLASHC_STATUS_BUSY 0)))
    ∧ (o.op = 1 → o.susp < 8 → exec (.suspend w) s = .next (showSusp (setF { s with flash := { s.flash with run := none, stack := { o with susp := o.susp + 1 } :: s.flash.stack } } F.FLASHC_STATUS_BUSY 0)))
    ∧ ((o.op = 4 ∨ o.op = 5) → exec (.suspend w) s = .next s))
  ∧ (∀ (w : FlashWr) (s : State) (o : FlashOp) (l : List FlashOp), geckoUp s = true → w.key = 0x464C → s.flash.run = none → s.flash.stack = o :: l →
      flashBank o.addr ≠ w.fetch.val →
    exec (.resume w) s = .next (setF (setF (showSusp { s with flash := { s.flash with run := some o, stack := l } }) F.FLASHC_STATUS_BUSY 1) F.FLASHC_STATUS_OP o.op))
  ∧ (∀ (w : FlashWr) (s : State), geckoUp s = true → w.key = 0x464C → s.flash.stack = [] → exec (.resume w) s = .next s)
  ∧ (∀ (e : FlashEnd) (s u : State) (o : FlashOp) (err m lost : Nat), s.flash.run = some o → o.tag = false → flashEffect s o e = (u, err, m, lost) →
    ∃ v, v = setF (setF (setF (setF (setF { u with flash := { u.flash with run := none } } F.FLASHC_RESULT_ERR err) F.FLASHC_RESULT_MAXCNT m) F.FLASHC_RESULT_LOST lost) F.FLASHC_STATUS_BUSY 0) F.FLASHC_STATUS_DONE 1
      ∧ exec (.flashOperationEnd e) s = .next (if err = 6 then faultReport v 0x2B (flashBank o.addr) 0 else v))

/-- The commands of the tamper block: events, loops, self-tests, ZALL, BKGEN, ZDONE, UNLOCK, CFG_LOCK, TAMPER_FORCE, the cell log (R457, R458, R459, R465, R470, R471, R472, R474, R476, R477). -/
def Obligations.TamperCommandsComplete : Prop :=
  (∀ (a b : BitVec 16) (s : State), ∃ l u, l = (List.range 15).filter (fun n => !tripped s n && ((liveTrips s 0 a ||| liveTrips s 1 b).getLsbD n))
      ∧ u = showTripped { s with tamper := { s.tamper with tripA := s.tamper.tripA ||| liveTrips s 0 a, tripB := s.tamper.tripB ||| liveTrips s 1 b } }
      ∧ exec (.tamperEvent a b) s = .next (tamperEvent u l false))
  ∧ (∀ (n : Fin 16) (s : State) (k : BitVec 16), k = ~~~ BitVec.ofNat 16 (2 ^ n.val) →
    exec (.tamperSourceClear n) s = .next (showTripped { s with tamper := { s.tamper with tripA := s.tamper.tripA &&& k, tripB := s.tamper.tripB &&& k } }))
  ∧ (∀ (n : Fin 16) (s u : State), sourceLive s n.val = true → s.tamper.tripA.getLsbD n.val ≠ s.tamper.tripB.getLsbD n.val →
      u = setF s F.TAMPER_DISAGREE_LATCHED (getF s F.TAMPER_DISAGREE_LATCHED ||| 2 ^ n.val) → geckoUp u = true →
    exec (.monitorDisagree n) s = .next (faultReport (occur u 0x306 n.val 0 0) 0x2E n.val 0))
  ∧ (∀ (r : Nat) (s : State), sourceLive s 7 = true →
    (100 ≤ r → r ≤ 10000 → exec (.loop0Measurement r) s = .next (clearSource { s with tamper := { s.tamper with loop0Bad := 0 } } 7))
    ∧ ((r < 100 ∨ 10000 < r) → s.tamper.loop0Bad = 0 → exec (.loop0Measurement r) s = .next { s with tamper := { s.tamper with loop0Bad := 1 } })
    ∧ ((r < 100 ∨ 10000 < r) → 1 ≤ s.tamper.loop0Bad → exec (.loop0Measurement r) s
        = .next (tripDetectors { s with tamper := { s.tamper with loop0Bad := 2 } } (BitVec.ofNat 16 (2 ^ 7)) (BitVec.ofNat 16 (2 ^ 7)))))
  ∧ (∀ (c : BitVec 16) (s : State), sourceLive s 8 = true → c = (Config.loopCode s.tamper.loopKey s.tamper.loopCtr).setWidth 16 →
    exec (.loop1Code c false) s = .next (clearSource { s with tamper := { s.tamper with loop1Bad := 0, loopCtr := s.tamper.loopCtr + 1 } } 8)
    ∧ (s.tamper.loop1Bad = 0 → exec (.loop1Code c true) s = .next { s with tamper := { s.tamper with loop1Bad := 1, loopCtr := s.tamper.loopCtr + 1 } })
    ∧ (1 ≤ s.tamper.loop1Bad → exec (.loop1Code c true) s = .next (tripDetectors { s with tamper := { s.tamper with loop1Bad := 2, loopCtr := s.tamper.loopCtr + 1 } } (BitVec.ofNat 16 (2 ^ 8)) (BitVec.ofNat 16 (2 ^ 8)))))
  ∧ (∀ s : State, geckoUp s = true → isSet s F.TAMPER_STATUS_ZPEND = false → life s ≠ 4 → ∃ u, u = zeroiseAllStart { s with tamper := { s.tamper with zallRunning := true } }
      ∧ exec (.zall 0x7A4D) s = .next (occur u 0x402 ((u.led.act.map (fun a => a.target)).getD 0) 0 0))
  ∧ (∀ (s u : State) (k : Nat), geckoUp s = true → isSet s F.TAMPER_STATUS_BK_VALID = false → drbgBits s 28 384 = (k, u) →
      exec (.bkgen 0x7A4D) s = .next (setF (setF { u with tamper := { u.tamper with bk := some (BitVec.ofNat 384 k) } } F.TAMPER_STATUS_BK_VALID 1) F.TAMPER_STATUS_ZALL_DONE 0))
  ∧ (∀ (s u : State), geckoUp s = true → isSet s F.TAMPER_STATUS_ZPEND = true → u = setF s F.TAMPER_STATUS_ZPEND 0 →
    (isSet u F.TAMPER_STATUS_BK_VALID = true → exec (.zdone 0x7A4D) s = .next u)
    ∧ (isSet u F.TAMPER_STATUS_BK_VALID = false → exec (.zdone 0x7A4D) s = .next (setF u F.TAMPER_STATUS_ZALL_DONE 1)))
  ∧ (∀ s : State, geckoUp s = true → exec .cfgLock s = .next (setF s F.TAMPER_CTRL_CFG_LOCK 1)
    ∧ (isSet s F.TAMPER_STATUS_ZPEND = false → exec (.unlock 0x7A4D) s = .next (setF s F.TAMPER_STATUS_LOCKED 0))
    ∧ (isSet s F.TAMPER_STATUS_ZPEND = true → exec (.unlock 0x7A4D) s = .next s ∧ exec (.zall 0x7A4D) s = .next s)
    ∧ (∀ k : BitVec 16, k ≠ 0x7A4D → exec (.zall k) s = .next s ∧ exec (.bkgen k) s = .next s ∧ exec (.zdone k) s = .next s ∧ exec (.unlock k) s = .next s))
  ∧ (∀ (v : W32) (s u : State) (n d : Nat), geckoUp s = true → n = F.TAMPER_SELFTEST_SOURCE.ofWord v.toNat → d = F.TAMPER_SELFTEST_DET.ofWord v.toNat →
      u = writeReg s Blk.TAMPER 0x18 (v.toNat % 2 ^ 31) →
    (v.getLsbD 31 = false → exec (.tamperSelftest v) s = .next u)
    ∧ (v.getLsbD 31 = true → (n = 15 ∨ isSet s (F.TAMPER_RESP_DISABLED n) = true) → exec (.tamperSelftest v) s = .next (setF u F.TAMPER_SELFTEST_ERR 1))
    ∧ (v.getLsbD 31 = true → n ≠ 15 → isSet s (F.TAMPER_RESP_DISABLED n) = false → s.tamper.selfTest.isSome = true →
      exec (.tamperSelftest v) s = .next (setF u F.TAMPER_SELFTEST_ERR 2))
    ∧ (v.getLsbD 31 = true → n ≠ 15 → isSet s (F.TAMPER_RESP_DISABLED n) = false → s.tamper.selfTest = none →
      (if d = 0 then s.tamper.tripB.getLsbD n else s.tamper.tripA.getLsbD n) = false → ∃ w, w = setF (setF u F.TAMPER_SELFTEST_ERR 0) F.TAMPER_SELFTEST_GO 1
        ∧ exec (.tamperSelftest v) s = .next (setF { w with tamper := { w.tamper with selfTest := some (n, d) } } F.TAMPER_STATUS_SELFTEST_BUSY 1)))
  ∧ (∀ (s u : State) (n d : Nat), s.tamper.selfTest = some (n, d) → u = setF (setF (setF { s with tamper := { s.tamper with selfTest := none } } F.TAMPER_STATUS_SELFTEST_BUSY 0) F.TAMPER_SELFTEST_GO 0) F.TAMPER_SELFTEST_DONE 1 →
    exec (.tamperSelftestEnd true true) s = .next u
    ∧ ∀ t, exec (.tamperSelftestEnd t false) s = .next (faultReport (setF u F.TAMPER_SELFTEST_FAIL 1) 0x2F n d))
  ∧ (∀ (v : BitVec 16) (s : State), geckoUp s = true → ((life s = 0 ∨ life s = 3) → exec (.tamperForce v) s = .next (tamperEvent s
        ((List.range 15).filter (fun n => v.getLsbD n && sourceLive s n && !tripped s n)) true))
    ∧ (life s ≠ 0 → life s ≠ 3 → exec (.tamperForce v) s = .next s))
  ∧ (∀ (s : State) (e : CellEntry) (l : List CellEntry), geckoUp s = true → s.tamper.cellLog = e :: l →
    ∃ u w, u = { s with tamper := { s.tamper with cellLog := l } }
      ∧ w = setB (setF (setF (setB u F.TAMPER_STATUS_CELL_EVENTS (!l.isEmpty)) F.TAMPER_CELLLOG_VALID 1) F.TAMPER_CELLLOG_SECONDS e.seconds) F.TAMPER_CELLLOG_OVERFLOW e.overflow
      ∧ exec .tamperCelllogRead s = .next (setF (setF (setF w F.TAMPER_CELLLOG_LOSTCNT e.lost) F.TAMPER_CELLLOG_EXECUTED e.executed) F.TAMPER_CELLLOG_SOURCES e.sources))

/-- The commands of the fault collector and of repair: what each leaves (R479, R481, R483, R486, R487, R488, R489, R490, R493, R495, R498). -/
def Obligations.FaultAndRepairCommandsComplete : Prop :=
  (∀ (r : Report) (s : State), geckoUp s = true → (r.good = true → exec (.faultReport r) s = .next (faultReport (hbmReported s r) r.code r.unit r.part))
      ∧ (r.good = false → exec (.faultReport r) s = .next (faultReport s 0x31 0 0)))
  ∧ (∀ s : State, inSafe s = true → s.fc.cutPending = true →
    exec .safeStateCut s = .next (cutRoutes { s with fc := { s.fc with cutPending := false } } (fun _ => true)))
  ∧ (∀ (c : Bool) (s : State), inSafe s = true → isSet s F.FCOLL_STATUS_QUIET = true →
    (getF s F.FCOLL_STATUS_EXIT = 3 → exec (.quietPeriodExpiry c) s = .next (setF (setF s F.FCOLL_STATUS_QUIET 0) F.FCOLL_STATUS_HOLD 1))
    ∧ (getF s F.FCOLL_STATUS_EXIT ≠ 3 → (c = false ∨ (s.fc.conds.contains 0x26 = true ∧ getF s F.RNG_STALLED_INST ≠ 0)) →
      exec (.quietPeriodExpiry c) s = .next (setF s F.FCOLL_STATUS_HOLD 1))
    ∧ (getF s F.FCOLL_STATUS_EXIT ≠ 3 → c = true → s.fc.conds.contains 0x26 = false → s.fc.withheld = false → exitLimit s = false →
      exec (.quietPeriodExpiry c) s = .next (exitSafe (setF s F.FCOLL_STATUS_HOLD 0)))
    ∧ (getF s F.FCOLL_STATUS_EXIT ≠ 3 → c = true → s.fc.conds.contains 0x26 = false → s.fc.withheld = false → exitLimit s = true →
      ∃ u, u = setF (setF { s with fc := { s.fc with withheld := true } } F.FCOLL_STATUS_HOLD 1) F.FCOLL_STATUS_LIMIT 1
        ∧ exec (.quietPeriodExpiry c) s = .next (occur u 0x30C 0 0 (getF u F.FCOLL_RECOV_COUNT))))
  ∧ (∀ s : State, geckoUp s = true → exec .fcollHeartbeatLoss s = .next (faultReport s 0x30 0 0))
  ∧ (∀ (tag unit tile ran : Nat) (s : State) (t : TagEntry) (r : RouteAt) (p : Part), findTag s tag = some t → t.route = some r → running t = true →
      4 * r.time * 1000 < ran * getF s F.LSENSE_PACE_PACE_MIN → p = { cls := r.cls, unit := r.unit, idx := r.tile } → otherPart s p unit tile = true →
    (r.cls = 1 → exec (.routeTimeout ⟨tag, ran⟩ unit tile) s = .next (faultReport (restartRoute s p tag unit tile) 0x04 r.unit r.tile))
    ∧ (r.cls = 2 → exec (.routeTimeout ⟨tag, ran⟩ unit tile) s = .next (faultReport (restartRoute s p tag unit tile) 0x04 (16 + r.unit) r.tile)))
  ∧ (∀ s : State, geckoUp s = true →
    (isSet s F.FCOLL_RETIRE_VALID = true → exec (.retireAck 0x4643) s = .next (showRetire (setF s F.FCOLL_RETIRE_VALID 0)))
    ∧ exec (.rclr 0x4643) s = .next (clearCounter s F.FCOLL_RECOV_COUNT F.FCOLL_RECOV_SAT)
    ∧ (inSafe s = true → s.fc.rebuildAsked = false → getF s F.FCOLL_STATUS_EXIT ≠ 3 → getF s F.FCOLL_STATUS_SAFE_CODE ≠ 0x22 → getF s F.FCOLL_STATUS_SAFE_CODE ≠ 0x23 →
      exec (.exit 0x4643) s = .next (exitSafe s))
    ∧ ((getF s F.FCOLL_STATUS_EXIT = 3 ∨ getF s F.FCOLL_STATUS_SAFE_CODE = 0x22 ∨ getF s F.FCOLL_STATUS_SAFE_CODE = 0x23) → exec (.exit 0x4643) s = .next s)
    ∧ (∀ k : BitVec 16, k ≠ 0x4643 → exec (.retireAck k) s = .next s ∧ exec (.exit k) s = .next s ∧ exec (.rclr k) s = .next s))
  ∧ (∀ (v : W32) (s u : State) (c a b : Nat), geckoUp s = true → c = F.FCOLL_FORCE_CODE.ofWord v.toNat → a = F.FCOLL_FORCE_UNIT.ofWord v.toNat →
      b = F.FCOLL_FORCE_PART.ofWord v.toNat → u = setF (setF (setF s F.FCOLL_FORCE_CODE c) F.FCOLL_FORCE_UNIT a) F.FCOLL_FORCE_PART b →
    (v.getLsbD 31 = false → exec (.fcollForce v) s = .next u)
    ∧ (v.getLsbD 31 = true → faultClass c = 2 → life s ≠ 0 → life s ≠ 3 → exec (.fcollForce v) s = .next u)
    ∧ (v.getLsbD 31 = true → (faultClass c ≠ 2 ∨ life s = 0 ∨ life s = 3) → exec (.fcollForce v) s = .next (report u c a b true)))
  ∧ (∀ (k : Fin 4) (p : Fin 32) (row : Nat) (l : List Nat) (s : State), geckoUp s = true → rowFailing s k.val (p.val * 2 ^ 32 + row) = true →
    exec (.hbmRowRepair k p row false l) s = .next (requestRetire s 4 k.val p.val 0x10)
    ∧ ∃ u, u = { s with fc := { s.fc with rows := s.fc.rows.filter (fun e => !(e.1 = k.val && e.2.1 = p.val * 2 ^ 32 + row)) } }
      ∧ exec (.hbmRowRepair k p row true l) s = .next (poisonCount { u with hbm := { u.hbm with poison := (l.filter (fun n => physPc u k.val (linePos n).1 = p.val)).foldl (fun m n => mapPut m (lineKey k.val n) true) u.hbm.poison } }))
  ∧ (∀ (d : Fin 2) (n : Fin 36) (e : Nat) (s : State) (m : LaneMap), geckoUp s = true → s.drawbar.up = true → m = laneMap s d.val →
    (m.lane.contains n.val = true → getF s F.FCOLL_LANETHR_LIMIT ≤ e → (healthySpare m).isSome = true →
      exec (.drawbarLaneSwap d n e) s = .next (fieldRepair (setLaneMap s d.val (swapLane m n.val)) 6 d.val n.val))
    ∧ (m.lane.contains n.val = true → getF s F.FCOLL_LANETHR_LIMIT ≤ e → healthySpare m = none →
      exec (.drawbarLaneSwap d n e) s = .next (tamperTrip (setLaneMap s d.val (swapLane m n.val)) 9))
    ∧ (m.lane.contains n.val = true → e < getF s F.FCOLL_LANETHR_LIMIT → exec (.drawbarLaneSwap d n e) s = .next s)
    ∧ (m.lane.contains n.val = false → s.drawbar.patterns = false → exec (.drawbarLaneSwap d n e) s = .next s)
    ∧ (m.lane.contains n.val = false → s.drawbar.patterns = true → exec (.drawbarLaneSwap d n e) s
        = .next (setLaneMap s d.val { m with bad := if m.bad.contains n.val then m.bad else m.bad ++ [n.val] })))

/-- The event recorder and TIMEKEEP: merge windows, batches, EVREC_SW, FREEZE, seconds, RTC, the crystal (R503, R505, R506, R508, R509, R510, R512). -/
def Obligations.EventRecorderCommandsComplete : Prop :=
  (∀ s : State, geckoUp s = true → exec .mergeWindowExpiry s = .next (closeOpen s (fun r => r.optFirst + getF s F.EVREC_MERGE_WINDOW ≤ optime s)))
  ∧ (∀ (s : State) (q : Nat), geckoUp s = true → s.ev.staging ≠ [] → q = getF s F.EVREC_HEAD_SEQ + 1 →
    (s.flash.run = none → isSet s F.EVREC_CTRL_FREEZE = false ∨ batchErases s q = false → ∃ z y l u,
        z = (if batchErases s q then eraseFlash (noteDone (noteIntent s 1) 1) (batchAddr q / 4096 * 4096) 4096 else s)
      ∧ y = programLines z (batchAddr q) (batchBytes q (s.ev.staging.take 7)) 8
      ∧ l = (if batchErases y q then y.ev.ring.filter (fun b => q ≤ b.1 + 2032) else y.ev.ring) ++ [(q, y.ev.staging.take 7)]
      ∧ u = evRefresh { y with ev := { y.ev with ring := l, staging := y.ev.staging.drop 7 } }
      ∧ exec .batchProgram s = .next (setF (setF u F.EVREC_HEAD_SEQ q) F.EVREC_OLDEST_SEQ ((l.head?.map (fun b => b.1)).getD 0)))
    ∧ (s.flash.run.isSome = true ∨ (isSet s F.EVREC_CTRL_FREEZE = true ∧ batchErases s q = true) → exec .batchProgram s = .next s))
  ∧ (∀ (v : W32) (s : State) (c : Nat), geckoUp s = true → c = F.EVREC_SW_CODE.ofWord v.toNat →
    (0x400 ≤ c → c ≤ 0x4FF → exec (.evrecSw v) s = .next (occur s c (F.EVREC_SW_UNIT.ofWord v.toNat) (F.EVREC_SW_PART.ofWord v.toNat) (getF s F.EVREC_SWDET_DETAIL)))
    ∧ ((c < 0x400 ∨ 0x4FF < c) → exec (.evrecSw v) s = .next s))
  ∧ (∀ (b : Bool) (s : State), geckoUp s = true → exec (.evrecFreeze b) s = .next (setB s F.EVREC_CTRL_FREEZE b))
  ∧ (∀ (s u : State), cellUp s = true → u = (if isSet s F.TIMEKEEP_STATUS_OSC_FAIL then s else setF s F.TIMEKEEP_RTC_SECONDS (rtc s + 1)) →
    (u.power.mainGood = true → exec .timekeepSecond s = .next (bump u F.TIMEKEEP_OPTIME_COUNT F.TIMEKEEP_OPTIME_SAT))
    ∧ (u.power.mainGood = false → exec .timekeepSecond s = .next u))
  ∧ (∀ (v : W32) (s : State), geckoUp s = true → exec (.rtcSet v) s
      = .next (occur (setF (setF s F.TIMEKEEP_RTC_SECONDS v.toNat) F.TIMEKEEP_STATUS_RTC_VALID 1) 0x312 0 0 (rtc s)))
  ∧ (∀ s : State, cellUp s = true → exec .oscFail s = .next (setF s F.TIMEKEEP_STATUS_OSC_FAIL 1))

/-- The commands of the contact ports and the end of a quorum session: what each leaves (R532, R533, R534, R540, R541, R542). -/
def Obligations.CardPortCommandsComplete : Prop :=
  (∀ (p : Fin 2) (s : State), geckoUp s = true → domainOn s (64 + p.val) = true →
    ((cardOf s p.val).cmd.isSome = true → ∀ c ∈ [Instr.activate p, .deactivate p, .warmReset p, .exchange p], exec c s = .next (cardDone s p.val 7))
    ∧ ((cardOf s p.val).cmd = none →
      ((getF s (F.CARD_STATUS_STATE p.val) = 1 ∨ getF s (F.CARD_STATUS_STATE p.val) = 3) → exec (.activate p) s = .next (cardStart s p.val 1))
      ∧ (getF s (F.CARD_STATUS_STATE p.val) = 2 → exec (.deactivate p) s = .next (cardStart s p.val 3) ∧ exec (.warmReset p) s = .next (cardStart s p.val 4)
        ∧ exec (.activate p) s = .next (cardDone s p.val 8))
      ∧ (getF s (F.CARD_STATUS_STATE p.val) ≠ 2 → ∀ c ∈ [Instr.deactivate p, .warmReset p, .exchange p], exec c s = .next (cardDone s p.val 8))
      ∧ (getF s (F.CARD_STATUS_STATE p.val) = 2 → (getF s (F.CARD_TXLEN_LEN p.val) < 4 ∨ 261 < getF s (F.CARD_TXLEN_LEN p.val)) →
        exec (.exchange p) s = .next (cardDone s p.val 9))
      ∧ (∀ (u : State) (n : Nat) (k : CardPort), getF s (F.CARD_STATUS_STATE p.val) = 2 → 4 ≤ getF s (F.CARD_TXLEN_LEN p.val) → getF s (F.CARD_TXLEN_LEN p.val) ≤ 261 →
        u = cardStart s p.val 2 → n = getF u (F.CARD_TXLEN_LEN p.val) → k = cardOf u p.val → n ≤ k.tx.length →
        exec (.exchange p) s = .next (setF (setCard u p.val { k with tx := [], rx := [], apdu := k.tx.take n }) (F.CARD_RESULT_RXLEN p.val) 0))))
  ∧ (∀ (p : Fin 2) (s : State) (k : CardPort), geckoUp s = true → domainOn s (64 + p.val) = true → k = cardOf s p.val →
    (∀ v : W32, exec (.cardDataAccess p (some v)) s = .next (setCard s p.val { k with tx := (k.tx ++ leBytes v.toNat 4).take 264 }))
    ∧ exec (.cardDataAccess p none) s = .next (setF (setCard s p.val { k with rx := k.rx.drop 4 }) (F.CARD_DATA_BYTES p.val) (leAt (k.rx ++ zeros 4) 0 4)))
  ∧ (∀ (p : Fin 2) (e : CardEnd) (s u : State), geckoUp s = true → domainOn s (64 + p.val) = true → cardErrOk e.err.val = true →
      u = setF (setCard s p.val { cardOf s p.val with cmd := none }) (F.CARD_STATUS_BUSY p.val) 0 →
    ((cardOf s p.val).cmd = some 3 → exec (.cardOperationEnd p e) s = .next (cardDone (cardOff u p.val 1) p.val 0))
    ∧ ((cardOf s p.val).cmd = some 2 → exec (.cardOperationEnd p e) s = .next (cardDone (exchanged u p.val e) p.val e.err.val))
    ∧ (((cardOf s p.val).cmd = some 1 ∨ (cardOf s p.val).cmd = some 4) → exec (.cardOperationEnd p e) s = .next (cardDone (activated u p.val e) p.val e.err.val))
    ∧ ((cardOf s p.val).cmd = none → exec (.cardOperationEnd p e) s = .next s))
  ∧ (∀ (p : Fin 2) (s : State), geckoUp s = true → domainOn s (64 + p.val) = true → isSet s (F.CARD_STATUS_PRESENT p.val) = false →
    exec (.cardInsertion p) s = .next (setCard (setF (setF s (F.CARD_STATUS_PRESENT p.val) 1) (F.CARD_STATUS_STATE p.val) 1) p.val CardPort.init))
  ∧ (∀ (p : Fin 2) (s : State), geckoUp s = true → domainOn s (64 + p.val) = true → isSet s (F.CARD_STATUS_PRESENT p.val) = true →
    ∃ u, u = setF (setF (cardOff (cardAbort s p.val 1) p.val 0) (F.CARD_STATUS_PRESENT p.val) 0) (F.CARD_STATUS_REMOVED p.val) 1
      ∧ exec (.cardRemoval p) s = .next (cardIrq (setCard u p.val { cardOf u p.val with ended := false }) p.val))
  ∧ (∀ (p : Fin 2) (s : State), geckoUp s = true → domainOn s (64 + p.val) = true →
      (getF s (F.CARD_STATUS_STATE p.val) = 2 ∨ (cardOf s p.val).cmd.isSome = true) →
    exec (.cardOvercurrent p) s = .next (setF (cardOff (cardAbort s p.val 5) p.val 3) (F.CARD_RESULT_ERR p.val) 5))
  ∧ (∀ (s : State) (x : Session), s.quorum.session = some x →
    (x.opened + max 60 (getF s (F.CARD_QTIME_SECONDS 0)) ≤ optime s → exec .quorumSessionExpiry s = .next (cancelSession s))
    ∧ (optime s < x.opened + max 60 (getF s (F.CARD_QTIME_SECONDS 0)) → exec .quorumSessionExpiry s = .next s))

/-- The commands of the ledger card: insertion, removal, SDH operations, mirroring: what each leaves (R304, R545, R546, R547, R548, R549, R551, R552). -/
def Obligations.LedgerCardCommandsComplete : Prop :=
  (∀ (c : SdCard) (ok : Bool) (s : State), geckoUp s = true → domainOn s 66 = true → isSet s F.SDH_STATUS_PRESENT = false →
    exec (.sdInsertion c ok) s = .next (sdInit (setF s F.SDH_STATUS_PRESENT 1) c ok))
  ∧ (∀ (a : Bool) (s u : State), geckoUp s = true → domainOn s 66 = true → isSet s F.SDH_STATUS_PRESENT = true →
      u = setF (setF (setF (sdState (sdUnpower { s with sdh := SdhState.init }) 0) F.SDH_STATUS_PRESENT 0) F.SDH_STATUS_BUSY 0) F.SDH_STATUS_REMOVED 1 →
    (s.sdh.cmd = none → exec (.sdRemoval a) s = .next (sdIrq u))
    ∧ (∀ op y, s.sdh.cmd = some (op, y) → exec (.sdRemoval a) s = .next (sdIrq (sdDone u op (if op = 1 ∧ a = true then 10 else 1) 0))))
  ∧ (∀ (s : State) (n a : Nat) (c : SdCard), geckoUp s = true → domainOn s 66 = true → s.sdh.cmd = none → s.sdh.card = some c → n = getF s F.SDH_COUNT_VALUE →
      a = getF s F.SDH_SRAM_VALUE →
    (c.pwd.isSome = true → s.sdh.unlocked = false → exec .sdhWrite s = .next (sdDone s 1 6 0) ∧ exec .sdhRead s = .next (sdDone s 2 6 0))
    ∧ ((c.pwd = none ∨ s.sdh.unlocked = true) → sdRange s c = true → exec .sdhWrite s = .next (sdDone s 1 8 0) ∧ exec .sdhRead s = .next (sdDone s 2 8 0))
    ∧ ((c.pwd = none ∨ s.sdh.unlocked = true) → sdRange s c = false → exec .sdhRead s = .next (sdStart s 2 n [])
      ∧ (masterOk s 7 0 a (512 * n) = false → exec .sdhWrite s = .next (sdDone (recordDenied s 0 7 0 a (512 * n)) 1 7 0))
      ∧ (masterOk s 7 0 a (512 * n) = true → exec .sdhWrite s = .next (sdStart s 1 n (geckoBytes s a (512 * n)))))
    ∧ exec .powerOff s = .next (sdStart s 6 0 []) ∧ exec (.forceErase 0x5344) s = .next (sdErase s)
    ∧ (∀ k : BitVec 16, k ≠ 0x5344 → exec (.forceErase k) s = .next s)
    ∧ (a % 4 = 0 → inSram a 16 = true → masterOk s 7 0 a 16 = true → exec .setLock s = .next (sdStart s 4 0 (geckoBytes s a 16))
      ∧ exec .sdhUnlock s = .next (sdStart s 5 0 (geckoBytes s a 16))))
  ∧ (∀ (e : SdEnd) (s u : State) (op b n a : Nat) (d : Bytes), geckoUp s = true → domainOn s 66 = true → s.sdh.cmd = some (op, b, n, a, d) →
      u = setF { s with sdh := { s.sdh with cmd := none } } F.SDH_STATUS_BUSY 0 → (e.err.val ∈ [0, 2, 3, 6, 9] ∨ (op = 1 ∧ (e.err.val = 4 ∨ e.err.val = 5))) →
    (op = 1 → exec (.sdhOperationEnd e) s = .next (sdWrote u b n d e)) ∧ (op = 2 → exec (.sdhOperationEnd e) s = .next (sdWasRead u b n a e))
    ∧ (op = 3 → exec (.sdhOperationEnd e) s = .next (sdErased u e.err.val))
    ∧ (op = 6 → exec (.sdhOperationEnd e) s = .next (sdDone (sdState (sdUnpower { u with sdh := SdhState.init }) 0) 6 0 0))
    ∧ ((op = 4 ∨ op = 5) → exec (.sdhOperationEnd e) s = .next (sdLocked u op d e.err.val)))
  ∧ (∀ s : State, geckoUp s = true → domainOn s 66 = true → getF s F.SDH_STATUS_STATE = 2 → s.sdh.cmd = none →
    exec (.ledgerMirror false) s = .next (bump s F.SDH_WERR_COUNT F.SDH_WERR_SAT)
    ∧ ∃ l, l = (((s.led.ring ++ s.led.sram).map (fun e => e.1)).filter (fun q => sdNext s ≤ q)).mergeSort (fun a b => a ≤ b)
      ∧ exec (.ledgerMirror true) s = .next (mirrorEvents (l.foldl mirrorRecord s)))

/-- The tag in the field: FIELD_APPEARS to TAG_REQUEST_UNSUPPORTED: what each leaves and answers (R553, R554, R555, R556, R557, R560, R561, R563, R565). -/
def Obligations.TagFieldCommandsComplete : Prop :=
  (∀ (s u : State), s.tag.field = false → u = setF (setF { s with tag := { s.tag with field := true } } F.TAG_STATUS_FIELD 1) F.TAG_STATUS_FIELD_SEEN 1 →
    exec .fieldAppears s = .next (tagIrq (setB (setB u F.TAG_STATUS_SOURCE (!geckoUp u)) F.FLASHC_STATUS_FIELD (!geckoUp u))))
  ∧ (∀ s : State, s.tag.field = true → exec .fieldAbsent s = .next (setF (setF (setF { s with tag := { s.tag with field := false, quiet := false, selected := false, round := none } } F.TAG_STATUS_FIELD 0) F.TAG_STATUS_SOURCE 0) F.FLASHC_STATUS_FIELD 0))
  ∧ (∀ (q : TagReq) (l : Fin 65) (m : BitVec 64) (s u : State), TagServes s u q → tagPrivacy u = false → u.tag.quiet = false →
    ((m.toNat % 2 ^ l.val = tagUid u % 2 ^ l.val) →
      exec (.inventory q false l m none) s = .next (tagSay u (.inSlot 0 (0 :: leBytes (tagUid u) 8)))
      ∧ (l.val ≤ 60 → exec (.inventory q true l m (some 0)) s = .next (tagSay u (.inSlot (tagUid u / 2 ^ l.val % 16) (0 :: leBytes (tagUid u) 8)))))
    ∧ ((m.toNat % 2 ^ l.val ≠ tagUid u % 2 ^ l.val) → ∀ b, exec (.inventory q b l m none) s = .next (tagSay u .silent)))
  ∧ (∀ (q : TagReq) (v : BitVec 64) (s u : State), TagServes s u q → q.uid = some v → q.sel = false → tagIdent u = some v.toNat →
    exec (.stayQuiet q) s = .next (tagSay { u with tag := { u.tag with quiet := true, selected := false } } .silent)
      ∧ exec (.select q) s = .next (tagSay { u with tag := { u.tag with selected := true, quiet := false } } (.ok [])))
  ∧ (∀ (q : TagReq) (s u : State), TagTakes s u q →
    exec (.resetToReady q) s = .next (tagSay { u with tag := { u.tag with quiet := false, selected := false } } (.ok []))
    ∧ (∀ e n, tagIdent u = some n → exec (.getSystemInformation q e) s = .next (tagSay u (.system n 0 0 2048 32 9)))
    ∧ (∀ (c m : BitVec 8), c.toNat < 0xA0 → exec (.tagRequestUnsupported q c m) s = .next (tagSay u (.error 0x01)))
    ∧ (∀ (c m : BitVec 8), 0xA0 ≤ c.toNat → exec (.tagRequestUnsupported q c m) s = .next (tagSay u (if m = 0x6C then .error 0x01 else .silent))))
  ∧ (∀ (q : TagReq) (e : Bool) (b n : BitVec 16) (s u v : State) (d : Bytes), TagTakes s u q →
    ((List.range n.toNat).any (fun i => tagHidden (b.toNat + i)) = true ∨ tagRange e b.toNat n.toNat = true →
      exec (.readMultipleBlocks q e b n) s = .next (tagSay u (.error 0x10)))
    ∧ (tagRange e b.toNat n.toNat = false → (List.range n.toNat).any (fun i => tagHidden (b.toNat + i)) = false → tagReadMany u b.toNat n.toNat = (d, v) →
      exec (.readMultipleBlocks q e b n) s = .next (tagSay v (.ok d)))
    ∧ (tagRange e b.toNat 1 = false → tagHidden b.toNat = false → tagReadMany u b.toNat 1 = (d, v) → exec (.readSingleBlock q e b) s = .next (tagSay v (.ok d))))
  ∧ (∀ (q : TagReq) (e : Bool) (b n : BitVec 16) (d : Bytes) (w : TagWr) (s u v x : State) (k : Nat), TagTakes s u q →
    (tagRange e b.toNat n.toNat = false → b.toNat < 1920 → exec (.writeMultipleBlocks q e b n d w) s = .next (tagSay u (.error 0x12)))
    ∧ (tagRange e b.toNat n.toNat = false → 1920 ≤ b.toNat → tagFieldWrite u = true → d.length = 32 * n.toNat → tagErasing u b.toNat = false →
        (List.range n.toNat).any (fun i => !tagBlank u (b.toNat + i)) = false → v = tagMeasure u w →
        (tagChecked v w = false → exec (.writeMultipleBlocks q e b n d w) s = .next (tagSay (tagWeak v) (.error 0x13)))
        ∧ (tagChecked v w = true → tagLines v w ((List.range n.toNat).map (fun i => (b.toNat + i, slice d (32 * i) 32))) 0 = (k, x) →
          exec (.writeMultipleBlocks q e b n d w) s = .next (tagWritten x w k n.toNat)))
    ∧ (tagRange e b.toNat 1 = false → 1920 ≤ b.toNat → tagFieldWrite u = true → d.length = 32 → tagErasing u b.toNat = false → tagBlank u b.toNat = true →
        v = tagMeasure u w → tagChecked v w = true → tagLines v w [(b.toNat, slice d 0 32)] 0 = (k, x) →
        exec (.writeSingleBlock q e b d w) s = .next (tagWritten x w k 1)))

/-- LEDGER_SUMMARY_READ, PRIVACY_INVENTORY, SERVICE_INTENT_WRITE, the handle pool, intents, TAG_WRITE, TAG_ERASE and their end (R558, R561, R562, R563, R564, R565, R567, R569). -/
def Obligations.TagMemoryCommandsComplete : Prop :=
  (∀ (q : TagReq) (b n : BitVec 8) (s u : State), TagTakes s u q →
    ((n.toNat = 0 ∨ 8 < n.toNat ∨ 128 < b.toNat + n.toNat) → exec (.ledgerSummaryRead q 0x6C b n) s = .next (tagSay u (.error 0x10)))
    ∧ (∀ h seq, 1 ≤ n.toNat → n.toNat ≤ 8 → b.toNat + n.toNat ≤ 128 → validHalf u = some (h, seq) → exec (.ledgerSummaryRead q 0x6C b n) s
        = .next (tagSay u (.ok (leBytes seq 4 ++ (List.range n.toNat).flatMap (fun i => if b.toNat + i = 6 then zeros 32 else tmBlock u (128 * h + b.toNat + i))))))
    ∧ (∀ m : BitVec 8, m ≠ 0x6C → exec (.ledgerSummaryRead q m b n) s = .next (tagSay u .silent)))
  ∧ (∀ (q : TagReq) (x : Bool) (l : Fin 65) (m : BitVec 64) (w : TagWr) (s u : State), TagServes s u q →
    (tagPrivacy u = false → exec (.privacyInventory q 0x6C x l m w) s = .next (inventoryAnswer u (tagUid u) x l.val m.toNat))
    ∧ (tagPrivacy u = true → u.tag.quiet = true → exec (.privacyInventory q 0x6C x l m w) s = .next (tagSay u .silent))
    ∧ (∀ k h, tagPrivacy u = true → u.tag.quiet = false → l.val ≠ 0 → u.tag.round = some (k, h) →
      exec (.privacyInventory q 0x6C x l m w) s = .next (inventoryAnswer u (beNat h) x l.val m.toNat))
    ∧ (∀ v k h, tagPrivacy u = true → u.tag.quiet = false → l.val = 0 → v = startRound u w → v.tag.round = some (k, h) →
      exec (.privacyInventory q 0x6C x l m w) s = .next (inventoryAnswer v (beNat h) x l.val m.toNat)))
  ∧ (∀ (q : TagReq) (d : Bytes) (w : TagWr) (s u v x : State) (k n : Nat), TagTakes s u q → k = intentSlot u → v = tagMeasure u w →
    (intentOk d = false → exec (.serviceIntentWrite q 0x6C d w) s = .next (tagSay u (.error 0x02)))
    ∧ (intentOk d = true → 64 ≤ k → exec (.serviceIntentWrite q 0x6C d w) s = .next (tagSay u (.error 0xA1)))
    ∧ (intentOk d = true → k < 64 → tagErasing u 1792 = false → tagChecked v w = false → exec (.serviceIntentWrite q 0x6C d w) s = .next (tagSay (tagWeak v) (.error 0x13)))
    ∧ (intentOk d = true → k < 64 → tagErasing u 1792 = false → tagChecked v w = true →
      tagLines v w [(1792 + 2 * k, d), (1793 + 2 * k, intentCommit k d)] 0 = (n, x) →
      exec (.serviceIntentWrite q 0x6C d w) s = .next (tagWritten (if n = 2 && geckoUp x then tagIrq (setF x F.TAG_STATUS_INTENT 1) else x) w n 2)))
  ∧ (∀ s : State, geckoUp s = true → s.tag.op = none → exec .intentRecording s = .next (recordIntents s)
    ∧ (tagHandles s < 8 → rngServes s 28 0 = true → exec .handlePoolRefill s = .next (showHandles (fillPool (tagErase s 13) 32)))
    ∧ (8 ≤ tagHandles s → exec .handlePoolRefill s = .next s))
  ∧ (∀ (w : FlashWr) (s t : State) (n b a : Nat) (o : FlashOp), geckoUp s = true → w.key = 0x5447 → s.tag.op = none → n = getF s F.TAG_ADDR_COUNT →
      b = getF s F.TAG_ADDR_BLOCK → a = getF s F.TAG_SRC_ADDR → 1 ≤ n → n ≤ 8 → b % 128 + n ≤ 128 → a % 32 = 0 → inSram a (32 * n) = true →
    (masterOk s 8 0 a (32 * n) = false → exec (.tagWrite w) s = .next (tagDone (recordDenied s 0 8 0 a (32 * n)) 3 0))
    ∧ (masterOk s 8 0 a (32 * n) = true → o = { op := 1, addr := tagAddr b, len := 32 * n, data := geckoBytes s a (32 * n), tag := true, susp := 0 } →
      t = flashStart s o 0 w.fetch.val →
      (t.flash.run = some o → exec (.tagWrite w) s = .next (setF { t with tag := { t.tag with op := some 1 } } F.TAG_STATUS_BUSY 1))
      ∧ (t.flash.run ≠ some o → exec (.tagWrite w) s = .next (tagDone t 2 (getF t F.FLASHC_RESULT_ERR)))))
  ∧ (∀ (w : FlashWr) (s t : State) (b : Nat) (o : FlashOp), geckoUp s = true → w.key = 0x5447 → s.tag.op = none → b = getF s F.TAG_ADDR_BLOCK → b % 128 = 0 →
      o = { op := 2, addr := tagAddr b, len := 0, data := [], tag := true, susp := 0 } → t = flashStart s o 0 w.fetch.val → t.flash.run = some o →
    exec (.tagErase w) s = .next (setF { t with tag := { t.tag with op := some 2 } } F.TAG_STATUS_BUSY 1))
  ∧ (∀ (w : FlashWr) (s : State), geckoUp s = true → w.key = 0x5447 → s.tag.op.isSome = true →
    exec (.tagWrite w) s = .next (tagDone s 4 0) ∧ exec (.tagErase w) s = .next (tagDone s 4 0))
  ∧ (∀ (e : FlashEnd) (s t : State) (o : FlashOp) (n : Nat), s.flash.run = some o → o.tag = true → t = flashFinish s o e → n = getF t F.FLASHC_RESULT_ERR →
    exec (.tagOperationEnd e) s = .next (showHandles (tagDone (setF { t with tag := { t.tag with op := none } } F.TAG_STATUS_BUSY 0) (if n = 0 then 0 else 2) n)))

/-- The sideband bus, MCTP packets, control commands and the SIDEB registers: what each leaves (R570, R571). -/
def Obligations.SidebandBusCommandsComplete : Prop :=
  (∀ (a : BitVec 7) (s : State), sbRuns s = true →
    (s.sb.settled ≠ 2 → exec (.dynamicAddressAssignment a) s = .next (setF (setF { s with sb := { s.sb with settled := 1 } } F.SIDEB_STATUS_MODE 1) F.SIDEB_STATUS_DYN_ADDR a.toNat))
    ∧ (s.sb.settled = 2 → exec (.dynamicAddressAssignment a) s = .next s))
  ∧ (∀ s : State, sealedRuns s = true →
    (s.sb.settled = 0 → exec .fallbackTimeout s = .next (setF { s with sb := { s.sb with settled := 2 } } F.SIDEB_STATUS_MODE 0))
    ∧ (s.sb.settled ≠ 0 → exec .fallbackTimeout s = .next s))
  ∧ (∀ (p : MctpPkt) (s : State), sbReach s = true →
    ((sbUnit s < p.payload.length ∨ (s.sb.settled = 2 ∧ getF s F.SIDEB_CFG_FALLBACK ≠ 0 ∧ p.pec = false)) → exec (.mctpPacket p) s = .next (sbDiscard s))
    ∧ (p.payload.length ≤ sbUnit s → (s.sb.settled = 2 → getF s F.SIDEB_CFG_FALLBACK ≠ 0 → p.pec = true) → p.payload.length ≤ 4096 → p.som = true → s.sb.asm = none → ∀ m : SbMsg, m = { eid := p.src.toNat, own := p.own, tag := p.tag.val, data := p.payload } →
      (p.eom = false → exec (.mctpPacket p) s = .next { s with sb := { s.sb with asm := some (m, (p.seq.val + 1) % 4) } })
      ∧ (p.eom = true → exec (.mctpPacket p) s = .next (sbArrived s m)))
    ∧ (p.payload.length ≤ sbUnit s → (s.sb.settled = 2 → getF s F.SIDEB_CFG_FALLBACK ≠ 0 → p.pec = true) → p.som = false →
      (s.sb.asm = none → exec (.mctpPacket p) s = .next (sbDiscard s))
      ∧ (∀ (o m : SbMsg) (q : Nat), s.sb.asm = some (o, q) → m = { eid := p.src.toNat, own := p.own, tag := p.tag.val, data := o.data ++ p.payload } →
        (q ≠ p.seq.val → exec (.mctpPacket p) s = .next (sbDiscard s))
        ∧ (o.eid = p.src.toNat → o.own = p.own → o.tag = p.tag.val → q = p.seq.val →
          (4096 < m.data.length → exec (.mctpPacket p) s = .next (sbDiscard s))
          ∧ (m.data.length ≤ 4096 → p.eom = false → exec (.mctpPacket p) s = .next { s with sb := { s.sb with asm := some (m, (p.seq.val + 1) % 4) } })
          ∧ (m.data.length ≤ 4096 → p.eom = true → exec (.mctpPacket p) s = .next (sbArrived s m))))))
  ∧ (∀ (i : BitVec 5) (s : State), sbReach s = true →
    (∀ (o : BitVec 2) (e : BitVec 8), o.toNat < 2 → e ≠ 0 → e ≠ 0xFF →
      exec (.setEndpointId i o e) s = .next (sbSay (setF s F.SIDEB_STATUS_EID e.toNat) [0, BitVec.ofNat 8 i.toNat, 1, 0, 0, e, 0]))
    ∧ (∀ (o : BitVec 2) (e : BitVec 8), (2 ≤ o.toNat ∨ e = 0 ∨ e = 0xFF) → exec (.setEndpointId i o e) s = .next (sbSay s [0, BitVec.ofNat 8 i.toNat, 1, 2]))
    ∧ exec (.getEndpointId i) s = .next (sbSay s [0, BitVec.ofNat 8 i.toNat, 2, 0, BitVec.ofNat 8 (getF s F.SIDEB_STATUS_EID), 0, 0])
    ∧ exec (.getEndpointUuid i) s = .next (sbSay s ([0, BitVec.ofNat 8 i.toNat, 3, 0] ++ (List.range 16).map Config.uuidByte))
    ∧ (∀ t : BitVec 8, (t = 0 ∨ t = 0xFF) → exec (.getMctpVersionSupport i t) s = .next (sbSay s [0, BitVec.ofNat 8 i.toNat, 4, 0, 1, 0xF1, 0xF3, 0xFF, 0]))
    ∧ (∀ t : BitVec 8, t ≠ 0 → t ≠ 0xFF → t ∉ sbTypes s → exec (.getMctpVersionSupport i t) s = .next (sbSay s [0, BitVec.ofNat 8 i.toNat, 4, 0x80]))
    ∧ (∀ (t : BitVec 8) (v : Bytes) (u : State), t ≠ 0 → t ≠ 0xFF → t ∈ sbTypes s → drawBytes s 4 = (v, u) →
      exec (.getMctpVersionSupport i t) s = .next (sbSay u ([0, BitVec.ofNat 8 i.toNat, 4, 0, 1] ++ v)))
    ∧ (sealedRuns s = true → exec (.getMessageTypeSupport i) s = .next (sbSay s [0, BitVec.ofNat 8 i.toNat, 5, 0, 4, 0, 5, 6, 0x7E]))
    ∧ (sealedRuns s = false → exec (.getMessageTypeSupport i) s = .next (sbSay s [0, BitVec.ofNat 8 i.toNat, 5, 0, 2, 0, 0x7E]))
    ∧ exec (.getVendorDefinedMessageSupport i 0) s = .next (sbSay s [0, BitVec.ofNat 8 i.toNat, 6, 0, 0xFF, 0, 0x1F, 0xA7, 1, 0])
    ∧ (∀ x : BitVec 8, x ≠ 0 → exec (.getVendorDefinedMessageSupport i x) s = .next (sbSay s [0, BitVec.ofNat 8 i.toNat, 6, 2])))
  ∧ (∀ (v : W32) (s : State), geckoUp s = true →
    (s.sb.tx.length ≤ 4092 → exec (.sidebTxdataWrite v) s = .next { s with sb := { s.sb with tx := s.sb.tx ++ leBytes v.toNat 4 } })
    ∧ (s.sb.rx = [] → exec .sidebRxdataRead s = .next (setF s F.SIDEB_RXDATA_BYTES 0))
    ∧ (∀ (m : SbMsg) (l : List SbMsg) (u : State), s.sb.rx = m :: l → u = setF s F.SIDEB_RXDATA_BYTES (leAt m.data 0 4) →
      (4 < m.data.length → exec .sidebRxdataRead s = .next { u with sb := { u.sb with rx := { m with data := m.data.drop 4 } :: l } })
      ∧ (m.data.length ≤ 4 → exec .sidebRxdataRead s = .next (sbShow { u with sb := { u.sb with rx := l } })))
    ∧ (∀ (n : Nat) (u : State), n = F.SIDEB_TXCTRL_LEN.ofWord v.toNat →
        u = setF (setF (setF (setF s F.SIDEB_TXCTRL_LEN n) F.SIDEB_TXCTRL_EID (F.SIDEB_TXCTRL_EID.ofWord v.toNat)) F.SIDEB_TXCTRL_TO (F.SIDEB_TXCTRL_TO.ofWord v.toNat)) F.SIDEB_TXCTRL_TAG (F.SIDEB_TXCTRL_TAG.ofWord v.toNat) →
      (v.getLsbD 31 = false → exec (.sidebSend v) s = .next u)
      ∧ (v.getLsbD 31 = true → sbReach s = true → 1 ≤ n → n ≤ 4096 → n ≤ s.sb.tx.length → exec (.sidebSend v) s = .next (sbSend u v.toNat))))

/-- The sixteen management requests of the sideband: what each answers and leaves (R572, R573, R574, R575, R577, R47, R87, R289, R311, R313, R511, R541). -/
def Obligations.ManagementRequestsComplete : Prop :=
  (∀ (k : Nat) (m : Bytes) (a : Bool) (c : Instr) (s : State), SbRequest k m a c →
    (sbReach s = false ∨ sbIsRequest m = false ∨ byteAt m 3 ≠ k → exec c s = .next s)
    ∧ (sbReach s = true → sbIsRequest m = true → byteAt m 3 = k → sealedRuns s = false → k ≠ 1 → k ≠ 4 → exec c s = .next (sbAnswer s k sbNOT_NOW []))
    ∧ (sbReach s = true → sbIsRequest m = true → byteAt m 3 = k → allZero m 4 4 = false → exec c s = .next (sbAnswer s k sbNOT_NOW []) ∨ exec c s = .next (sbAnswer s k sbBAD_FORMAT [])))
  ∧ (∀ (m : Bytes) (s : State), SbServed s m 1 0 →
    (sealedRuns s = true → exec (.status m) s = .next (sbAnswer s 1 sbOK (leBytes (readReg s Blk.SYSCTL 4) 4 ++ leBytes (readReg s Blk.TAMPER 0) 4 ++ leBytes (readReg s Blk.FCOLL 0) 4 ++ leBytes (readReg s Blk.SYSCTL 8) 4 ++ leBytes s.led.head 8 ++ sliceZ s.sb.nonce 0 32)))
    ∧ (sealedRuns s = false → exec (.status m) s = .next (sbAnswer s 1 sbOK (leBytes (readReg s Blk.SYSCTL 4) 4 ++ zeros 8 ++ leBytes (readReg s Blk.SYSCTL 8) 4 ++ zeros 40))))
  ∧ (∀ (m : Bytes) (s : State), sealedRuns s = true →
    (SbServed s m 2 8 → ledgerOldest s ≤ leAt (sbBody m) 0 8 → exec (.sbLedgerRead m) s = .next (sbAnswer s 2 sbOK (ledgerRead s (leAt (sbBody m) 0 8) 3072)))
    ∧ (SbServed s m 3 8 → exec (.eventRead m) s = .next (sbAnswer s 3 sbOK (((s.ev.ring.filter (fun x => leAt (sbBody m) 0 8 ≤ x.1)).take 15).flatMap (fun x => batchBytes x.1 x.2))))
    ∧ (∀ n, SbServed s m 5 n → 8 ≤ n → stageOk s = true → exec (.imageStage m) s = .next (imageStage s (sbBody m)))
    ∧ (SbServed s m 6 1 → stageOk s = true → exec (.imageCommit m) s = .next (imageCommit s (sbBody m)))
    ∧ (SbServed s m 7 0 → heldByPolicy s = true → exec (.remeasure m) s = .next (sbAnswer (hostResetFrom (setF s F.HOSTSPI_STATUS_RESET_SEEN 1)) 7 sbOK []))
    ∧ (∀ (a : Bool) (r : Nat) (u : State), SbServed s m 8 320 → applyAuth s (sbBody m) a = (r, u) →
      (r = 0 → exec (.sbHostFlashAuth m a) s = .next (sbAnswer u 8 sbOK [])) ∧ (r ≠ 0 → exec (.sbHostFlashAuth m a) s = .next (sbAnswer u 8 sbVERIFY_FAILED (leBytes r 1))))
    ∧ (SbServed s m 10 0 → exec (.quorumCancel m) s = .next (sbAnswer (cancelSession s) 10 sbOK [])))
  ∧ (∀ (m : Bytes) (s : State) (n : Nat), s.power.phase = .romRecovery → SbServed s m 4 n → 12 ≤ n → exec (.recoveryWrite m) s = .next (recoveryWrite s (sbBody m)))
  ∧ (∀ (m : Bytes) (s : State) (n : Nat) (a : Bool), sealedRuns s = true → SbServed s m 9 n → 4 ≤ n → allZero (sbBody m) 1 3 = true → s.led.act = none →
      transitionOk s (byteAt (sbBody m) 0) = true → byteAt (sbBody m) 0 ≤ 4 → lifeLenOk s (byteAt (sbBody m) 0) ((sbBody m).drop 4).length = true →
    (transitionQuorum s (byteAt (sbBody m) 0) = 0 → exec (.sbLifecycle m a) s = .next (sbTransition s (byteAt (sbBody m) 0) 0 ((sbBody m).drop 4) a))
    ∧ (transitionQuorum s (byteAt (sbBody m) 0) ≠ 0 → SbApproved s 9 (sbBody m) →
      exec (.sbLifecycle m a) s = .next (sbTransition (cancelSession s) (byteAt (sbBody m) 0) (quorumBits s) ((sbBody m).drop 4) a)))
  ∧ (∀ (m : Bytes) (s : State), sealedRuns s = true →
    (SbServed s m 11 0 → isSet s F.TAMPER_STATUS_LOCKED = true → isSet s F.TAMPER_STATUS_ZPEND = false → SbApproved s 11 (sbBody m) →
      exec (.sbUnlock m) s = .next (sbAnswer (setF (cancelSession s) F.TAMPER_STATUS_LOCKED 0) 11 sbOK []))
    ∧ (∀ n, SbServed s m 12 n → csetOk (sbBody m) = true → (life s = 1 ∨ life s = 2) → SbApproved s 12 (sbBody m) →
      exec (.csetReplace m) s = .next (sbAnswer { s with quorum := { s.quorum with cset := some (sbBody m), session := none } } 12 sbOK [])))
  ∧ (∀ (m b : Bytes) (s u : State), sealedRuns s = true → drbgBytes s 28 32 = (b, u) →
    (SbServed s m 13 272 → getF s F.SDH_STATUS_STATE = 3 →
      (ownerReason s 13 (sbBody m) = 0 → s.sdh.cmd = none → exec (.cardErase m) s = .next (sbAnswer (sdErase { u with sb := { u.sb with nonce := b } }) 13 sbOK []))
      ∧ (ownerReason s 13 (sbBody m) ≠ 0 → exec (.cardErase m) s = .next (sbAnswer { u with sb := { u.sb with nonce := b } } 13 sbVERIFY_FAILED (leBytes (ownerReason s 13 (sbBody m)) 1))))
    ∧ (SbServed s m 14 272 →
      (ownerReason s 14 (sbBody m) = 0 → exec (.tagOwnerErase m) s = .next (sbAnswer (tagErase { u with sb := { u.sb with nonce := b } } 15) 14 sbOK []))
      ∧ (ownerReason s 14 (sbBody m) ≠ 0 → exec (.tagOwnerErase m) s = .next (sbAnswer { u with sb := { u.sb with nonce := b } } 14 sbVERIFY_FAILED (leBytes (ownerReason s 14 (sbBody m)) 1)))))
  ∧ (∀ (m : Bytes) (s u v : State) (a : Bool), sealedRuns s = true →
    (SbServed s m 15 8 → domainOn s 79 = true → s.test = none → (leAt (sbBody m) 0 4).testBit 30 = false → (leAt (sbBody m) 0 4).testBit 31 = true → testErr s false (leAt (sbBody m) 0 4) a = 0 →
      u = setF s F.TEST_USER_PATTERN (leAt (sbBody m) 4 4) → v = testStart u false (leAt (sbBody m) 0 4) a →
      exec (.linkTest m a) s = .next (sbAnswer v 15 sbOK (leBytes (readReg v Blk.TEST 4) 4)))
    ∧ (SbServed s m 15 8 → domainOn s 79 = true → s.test = none → (leAt (sbBody m) 0 4).testBit 30 = false → (leAt (sbBody m) 0 4).testBit 31 = false →
      v = testCtrl (setF s F.TEST_USER_PATTERN (leAt (sbBody m) 4 4)) false (leAt (sbBody m) 0 4) →
      exec (.linkTest m a) s = .next (sbAnswer v 15 sbOK (leBytes (readReg v Blk.TEST 4) 4)))
    ∧ (∀ (t : TestRun) (p q : State) (n k : Nat), SbServed s m 15 8 → domainOn s 79 = true → s.test = some t → t.land = false →
      (leAt (sbBody m) 0 4).testBit 30 = true → draw s 64 = (n, p) → draw p 31 = (k, q) → v = testEnds (testCounts q false (BitVec.ofNat 64 n) k) t 0 →
      exec (.linkTest m a) s = .next (sbAnswer v 15 sbOK (leBytes (readReg v Blk.TEST 4) 4)))
    ∧ (SbServed s m 16 0 → exec (.linkResult m) s = .next (sbAnswer s 16 sbOK (leBytes (readReg s Blk.TEST 4) 4 ++ leBytes (getF s F.TEST_BITS_COUNT) 8 ++ leBytes (readReg s Blk.TEST 0x10) 4))))

/-- Pattern tests, the test access port and debug unlock: what each command leaves (R577, R578, R579, R580, R581, R582, R583). -/
def Obligations.PatternTestsAndDebugComplete : Prop :=
  (∀ (l a : Bool) (v : W32) (s : State), (if l then landauUp s else geckoUp s && domainOn s 79) = true →
    (v.getLsbD 31 = false → exec (.patternTestStart l v a) s = .next (testCtrl s l v.toNat))
    ∧ (v.getLsbD 31 = true → testErr s l v.toNat a = 0 → exec (.patternTestStart l v a) s = .next (testRuns s l v.toNat))
    ∧ (v.getLsbD 31 = true → testErr s l v.toNat a = 2 → exec (.patternTestStart l v a) s = .next (testDone s l 2))
    ∧ (v.getLsbD 31 = true → testErr s l v.toNat a ≠ 0 → testErr s l v.toNat a ≠ 2 →
      exec (.patternTestStart l v a) s = .next (testDone (testCtrl s l v.toNat) l (testErr s l v.toNat a))))
  ∧ (∀ (b : W64) (e : BitVec 31) (s : State) (t : TestRun), s.test = some t →
    exec (.patternTestStop t.land b e) s = .next (testEnds (testCounts s t.land b e.toNat) t 0)
    ∧ exec (.patternTestStop (!t.land) b e) s = .next s
    ∧ (testSeconds s t.land ≠ 0 → exec (.patternTestEnd b e) s = .next (testEnds (testCounts s t.land b e.toNat) t 0))
    ∧ (testSeconds s t.land = 0 → exec (.patternTestEnd b e) s = .next s))
  ∧ (∀ s : State, tapUp s = true →
    exec .idcode s = .next (tapSet s .idcode 0x19400999)
    ∧ exec .bypass s = .next (tapSet s .bypass 0)
    ∧ (∀ p ∈ [(Instr.samplePreload, TapInsn.samplePreload), (.extest, .extest), (.extestPulse, .extestPulse), (.extestTrain, .extestTrain), (.highz, .highz)],
      (debugTrips s = false → (scopesOpen s).testBit 3 = true → exec p.1 s = .next (tapSet s p.2 0))
      ∧ (debugTrips s = false → (scopesOpen s).testBit 3 = false → exec p.1 s = .next (tapSet s .bypass 0))
      ∧ (debugTrips s = true → exec p.1 s = .next (tamperTrip (tapSet s (if (scopesOpen s).testBit 3 then p.2 else .bypass) 0) 11)))
    ∧ (debugTrips s = false →
      (∀ n : Fin 8, exec (.dbgmbox (.readNonce n)) s = .next (tapSet s .dbgmbox (BitVec.ofNat 32 (getF s (F.DEBUG_NONCE_VALUE n.val)))))
      ∧ (∀ (n : Fin 80) (v : W32), exec (.dbgmbox (.writeToken n v)) s = .next (setF (tapSet s .dbgmbox v) (F.DEBUG_TOKEN_VALUE n.val) v.toNat))
      ∧ exec .submit s = .next (raise (setF (setF s F.DEBUG_CTRL_SUBMIT 1) F.DEBUG_STATUS_PENDING 1) 23))
    ∧ (debugTrips s = true → (∀ a : MboxAcc, exec (.dbgmbox a) s = .next (tamperTrip (tapSet s .bypass 0) 11)) ∧ exec .submit s = .next (tamperTrip s 11))
    ∧ (∀ (c : Fin 2) (o : Nat), scopesOpen s = o → o % 4 ≠ 0 → coreRuns s (if c.val = 0 then .a else .b) = true →
      exec (.debugHalt c) s = .next { s with dbg := { s.dbg with halted := mapPut s.dbg.halted c.val (o % 4) } }))
  ∧ (∀ (v : W32) (s : State), debugServed s = true → F.DEBUG_CTRL_KEY.ofWord v.toNat = 0x4442 → isSet s F.DEBUG_STATUS_PENDING = true →
    (tokenOk s = true → exec (.grant v) s = .next (tokenEnds (setF s F.DEBUG_STATUS_OPEN (getF s F.DEBUG_STATUS_OPEN ||| (F.DEBUG_CTRL_GRANT.ofWord v.toNat &&& leAt (tokenBytes s) 4 4 &&& scopeMask s)))))
    ∧ (v.getLsbD 8 = true → exec (.refuse v) s = .next (tokenEnds (bump s F.DEBUG_STATUS_FAILS F.DEBUG_STATUS_SAT))))
  ∧ (∀ (v : W32) (s : State), F.DEBUG_CTRL_KEY.ofWord v.toNat ≠ 0x4442 → exec (.grant v) s = .next s ∧ exec (.refuse v) s = .next s)
end

