-- ==== Sys2Proof/Laws/Dispatch.lean ====
section
/-!
SUPPORT. Laws/Dispatch.lean: what `exec` is of each command: its meaning.
-/
namespace Sys2Proof.Machine

@[simp] theorem exec_mainPowerGood (s : State) (p : PowerGood) : exec (.mainPowerGood p) s = execMainPowerGood p s := rfl
@[simp] theorem exec_mainPowerGoodWithdrawn (s : State) : exec .mainPowerGoodWithdrawn s = execMainPowerGoodWithdrawn s := rfl
@[simp] theorem exec_cellPowerOn (s : State) (vbat main : Bool) : exec (.cellPowerOn vbat main) s = execCellPowerOn vbat main s := rfl
@[simp] theorem exec_hostLeg (s : State) (h : HostLegIn) : exec (.hostLeg h) s = execHostLeg h s := rfl
@[simp] theorem exec_landauLeg (s : State) (l : LandauIn) : exec (.landauLeg l) s = execLandauLeg l s := rfl
@[simp] theorem exec_sysctlReleaseOpen (s : State) (v : W32) (ledgerOk : Bool) : exec (.sysctlReleaseOpen v ledgerOk) s = execSysctlReleaseOpen v ledgerOk s := rfl
@[simp] theorem exec_deviceReset (s : State) (c : ResetCause) : exec (.deviceReset c) s = execDeviceReset c s := rfl
@[simp] theorem exec_landauRebuild (s : State) : exec .landauRebuild s = execLandauRebuild s := rfl
@[simp] theorem exec_pcieFundamentalReset (s : State) : exec .pcieFundamentalReset s = execPcieFundamentalReset s := rfl
@[simp] theorem exec_pePerstNRise (s : State) : exec .pePerstNRise s = execPePerstNRise s := rfl
@[simp] theorem exec_linkTrained (s : State) (width speed ltssm : Nat) : exec (.linkTrained width speed ltssm) s = execLinkTrained width speed ltssm s := rfl
@[simp] theorem exec_fuseProgram (s : State) (v : W32) : exec (.fuseProgram v) s = execFuseProgram v s := rfl
@[simp] theorem exec_fuseProgramDone (s : State) : exec .fuseProgramDone s = execFuseProgramDone s := rfl
@[simp] theorem exec_registerWrite (s : State) (blk off : Nat) (p : RegWr) : exec (.registerWrite blk off p) s = execRegisterWrite blk off p s := rfl
@[simp] theorem exec_paceWindow (s : State) (counts : List (Nat × Nat)) : exec (.paceWindow counts) s = execPaceWindow counts s := rfl
@[simp] theorem exec_modeChange (s : State) (v : W32) : exec (.modeChange v) s = execModeChange v s := rfl
@[simp] theorem exec_modeChangeRoutesFinished (s : State) (mv : BitVec 10) (phyFail : Option (Fin 4)) : exec (.modeChangeRoutesFinished mv phyFail) s = execModeChangeRoutesFinished mv phyFail s := rfl
@[simp] theorem exec_structBegin (s : State) (key : BitVec 16) : exec (.structBegin key) s = execStructBegin key s := rfl
@[simp] theorem exec_structSelWrite (s : State) (v : W32) : exec (.structSelWrite v) s = execStructSelWrite v s := rfl
@[simp] theorem exec_structDataWrite (s : State) (v : W32) : exec (.structDataWrite v) s = execStructDataWrite v s := rfl
@[simp] theorem exec_structCommit (s : State) (key : BitVec 16) : exec (.structCommit key) s = execStructCommit key s := rfl
@[simp] theorem exec_structAbandon (s : State) (key : BitVec 16) : exec (.structAbandon key) s = execStructAbandon key s := rfl
@[simp] theorem exec_structCheckEnd (s : State) (ledgerOk : Bool) : exec (.structCheckEnd ledgerOk) s = execStructCheckEnd ledgerOk s := rfl
@[simp] theorem exec_amendCommit (s : State) (key : BitVec 16) : exec (.amendCommit key) s = execAmendCommit key s := rfl
@[simp] theorem exec_amendCheckEnd (s : State) : exec .amendCheckEnd s = execAmendCheckEnd s := rfl
@[simp] theorem exec_structDrain (s : State) (v : W32) : exec (.structDrain v) s = execStructDrain v s := rfl
@[simp] theorem exec_drainDone (s : State) : exec .drainDone s = execDrainDone s := rfl
@[simp] theorem exec_drainTimeout (s : State) (tag unit tile : Nat) : exec (.drainTimeout tag unit tile) s = execDrainTimeout tag unit tile s := rfl
@[simp] theorem exec_sqTailDoorbell (s : State) (fn qid : Nat) (p : DoorbellWr) : exec (.sqTailDoorbell fn qid p) s = execSqTailDoorbell fn qid p s := rfl
@[simp] theorem exec_cqHeadDoorbell (s : State) (fn qid : Nat) (p : DoorbellWr) : exec (.cqHeadDoorbell fn qid p) s = execCqHeadDoorbell fn qid p s := rfl
@[simp] theorem exec_sqEntryFetch (s : State) (fn qid tag : Nat) (entry : Option Bytes) : exec (.sqEntryFetch fn qid tag entry) s = execSqEntryFetch fn qid tag entry s := rfl
@[simp] theorem exec_commandHandoff (s : State) (tag core : Nat) : exec (.commandHandoff tag core) s = execCommandHandoff tag core s := rfl
@[simp] theorem exec_routeEnd (s : State) (tag : Nat) (ledgerOk : Bool) (p : EndOut) : exec (.routeEnd tag ledgerOk p) s = execRouteEnd tag ledgerOk p s := rfl
@[simp] theorem exec_completionPost (s : State) (tag : Nat) (writeOk : Bool) : exec (.completionPost tag writeOk) s = execCompletionPost tag writeOk s := rfl
@[simp] theorem exec_interruptCoalesceTimer (s : State) (fn qid : Nat) : exec (.interruptCoalesceTimer fn qid) s = execInterruptCoalesceTimer fn qid s := rfl
@[simp] theorem exec_adminEnable (s : State) (p : AdminWr) : exec (.adminEnable p) s = execAdminEnable p s := rfl
@[simp] theorem exec_adminReady (s : State) (fn : Nat) : exec (.adminReady fn) s = execAdminReady fn s := rfl
@[simp] theorem exec_adminDisable (s : State) (p : AdminWr) : exec (.adminDisable p) s = execAdminDisable p s := rfl
@[simp] theorem exec_nop (s : State) (form : NopForm) : exec (.nop form) s = execNop form s := rfl
@[simp] theorem exec_identify (s : State) (p : TagOut) : exec (.identify p) s = execIdentify p s := rfl
@[simp] theorem exec_abort (s : State) (tag : Nat) : exec (.abort tag) s = execAbort tag s := rfl
@[simp] theorem exec_createQp (s : State) (tag : Nat) : exec (.createQp tag) s = execCreateQp tag s := rfl
@[simp] theorem exec_deleteQp (s : State) (tag : Nat) : exec (.deleteQp tag) s = execDeleteQp tag s := rfl
@[simp] theorem exec_deleteQpComplete (s : State) (tag : Nat) : exec (.deleteQpComplete tag) s = execDeleteQpComplete tag s := rfl
@[simp] theorem exec_getStatus (s : State) (p : TagOut) : exec (.getStatus p) s = execGetStatus p s := rfl
@[simp] theorem exec_functionLevelReset (s : State) (fn : Nat) : exec (.functionLevelReset fn) s = execFunctionLevelReset fn s := rfl
@[simp] theorem exec_vfEnableClear (s : State) : exec .vfEnableClear s = execVfEnableClear s := rfl
@[simp] theorem exec_busMasterEnableClear (s : State) (fn : Nat) : exec (.busMasterEnableClear fn) s = execBusMasterEnableClear fn s := rfl
@[simp] theorem exec_doeDataObject (s : State) (vendor typ : Nat) (payload : Bytes) : exec (.doeDataObject vendor typ payload) s = execDoeDataObject vendor typ payload s := rfl
@[simp] theorem exec_ideTlpFailure (s : State) : exec .ideTlpFailure s = execIdeTlpFailure s := rfl
@[simp] theorem exec_keyGenerate (s : State) (r : Run) : exec (.keyGenerate r) s = execKeyGenerate r s := rfl
@[simp] theorem exec_keyImport (s : State) (r : Run) : exec (.keyImport r) s = execKeyImport r s := rfl
@[simp] theorem exec_keyExport (s : State) (r : Run) : exec (.keyExport r) s = execKeyExport r s := rfl
@[simp] theorem exec_keyDelete (s : State) (r : Run) : exec (.keyDelete r) s = execKeyDelete r s := rfl
@[simp] theorem exec_keyInfo (s : State) (r : Run) : exec (.keyInfo r) s = execKeyInfo r s := rfl
@[simp] theorem exec_keyRestrict (s : State) (r : Run) : exec (.keyRestrict r) s = execKeyRestrict r s := rfl
@[simp] theorem exec_pubkeyEnroll (s : State) (r : Run) : exec (.pubkeyEnroll r) s = execPubkeyEnroll r s := rfl
@[simp] theorem exec_pubkeyRead (s : State) (r : Run) : exec (.pubkeyRead r) s = execPubkeyRead r s := rfl
@[simp] theorem exec_keyblockImport (s : State) (r : Run) : exec (.keyblockImport r) s = execKeyblockImport r s := rfl
@[simp] theorem exec_keyblockExport (s : State) (r : Run) : exec (.keyblockExport r) s = execKeyblockExport r s := rfl
@[simp] theorem exec_vtableCtrl (s : State) (r : Run) : exec (.vtableCtrl r) s = execVtableCtrl r s := rfl
@[simp] theorem exec_vtableBuild (s : State) (handle unit tile : Nat) : exec (.vtableBuild handle unit tile) s = execVtableBuild handle unit tile s := rfl
@[simp] theorem exec_vtableEviction (s : State) (handle : Nat) : exec (.vtableEviction handle) s = execVtableEviction handle s := rfl
@[simp] theorem exec_snapshotBegin (s : State) (r : Run) : exec (.snapshotBegin r) s = execSnapshotBegin r s := rfl
@[simp] theorem exec_snapshotRead (s : State) (r : Run) : exec (.snapshotRead r) s = execSnapshotRead r s := rfl
@[simp] theorem exec_journalRead (s : State) (r : Run) : exec (.journalRead r) s = execJournalRead r s := rfl
@[simp] theorem exec_journalAck (s : State) (r : Run) : exec (.journalAck r) s = execJournalAck r s := rfl
@[simp] theorem exec_restoreBegin (s : State) (r : Run) : exec (.restoreBegin r) s = execRestoreBegin r s := rfl
@[simp] theorem exec_restoreData (s : State) (r : Run) : exec (.restoreData r) s = execRestoreData r s := rfl
@[simp] theorem exec_restoreEnd (s : State) (r : Run) : exec (.restoreEnd r) s = execRestoreEnd r s := rfl
@[simp] theorem exec_domainCreate (s : State) (r : Run) : exec (.domainCreate r) s = execDomainCreate r s := rfl
@[simp] theorem exec_domainErase (s : State) (r : Run) : exec (.domainErase r) s = execDomainErase r s := rfl
@[simp] theorem exec_domainEscrowExport (s : State) (r : Run) : exec (.domainEscrowExport r) s = execDomainEscrowExport r s := rfl
@[simp] theorem exec_domainEscrowRestore (s : State) (r : Run) : exec (.domainEscrowRestore r) s = execDomainEscrowRestore r s := rfl
@[simp] theorem exec_storeStatus (s : State) (r : Run) : exec (.storeStatus r) s = execStoreStatus r s := rfl
@[simp] theorem exec_kcacheEvictDomain (s : State) (key : BitVec 16) (domain : Nat) : exec (.kcacheEvictDomain key domain) s = execKcacheEvictDomain key domain s := rfl
@[simp] theorem exec_kcacheEvictAll (s : State) (key : BitVec 16) : exec (.kcacheEvictAll key) s = execKcacheEvictAll key s := rfl
@[simp] theorem exec_kcacheZeroise (s : State) (key : BitVec 16) (reading : List Nat) : exec (.kcacheZeroise key reading) s = execKcacheZeroise key reading s := rfl
@[simp] theorem exec_hbmcSwap (s : State) (stack : Fin 4) (v : W32) : exec (.hbmcSwap stack v) s = execHbmcSwap stack v s := rfl
@[simp] theorem exec_hbmcSwapDone (s : State) (stack : Fin 4) (unread : List Nat) : exec (.hbmcSwapDone stack unread) s = execHbmcSwapDone stack unread s := rfl
@[simp] theorem exec_ecdsaSign (s : State) (r : Run) : exec (.ecdsaSign r) s = execEcdsaSign r s := rfl
@[simp] theorem exec_ecdsaSignMsg (s : State) (r : Run) : exec (.ecdsaSignMsg r) s = execEcdsaSignMsg r s := rfl
@[simp] theorem exec_ecdsaVerify (s : State) (r : Run) : exec (.ecdsaVerify r) s = execEcdsaVerify r s := rfl
@[simp] theorem exec_ecdsaVerifyMsg (s : State) (r : Run) : exec (.ecdsaVerifyMsg r) s = execEcdsaVerifyMsg r s := rfl
@[simp] theorem exec_ecdsaVerifyExt (s : State) (r : Run) : exec (.ecdsaVerifyExt r) s = execEcdsaVerifyExt r s := rfl
@[simp] theorem exec_ecdhDerive (s : State) (r : Run) : exec (.ecdhDerive r) s = execEcdhDerive r s := rfl
@[simp] theorem exec_rsaSign (s : State) (r : Run) : exec (.rsaSign r) s = execRsaSign r s := rfl
@[simp] theorem exec_rsaVerify (s : State) (r : Run) : exec (.rsaVerify r) s = execRsaVerify r s := rfl
@[simp] theorem exec_rsaEncrypt (s : State) (r : Run) : exec (.rsaEncrypt r) s = execRsaEncrypt r s := rfl
@[simp] theorem exec_rsaDecrypt (s : State) (r : Run) : exec (.rsaDecrypt r) s = execRsaDecrypt r s := rfl
@[simp] theorem exec_rsaUnwrap (s : State) (r : Run) : exec (.rsaUnwrap r) s = execRsaUnwrap r s := rfl
@[simp] theorem exec_pkecCombRefresh (s : State) (cluster : Fin 16) : exec (.pkecCombRefresh cluster) s = execPkecCombRefresh cluster s := rfl
@[simp] theorem exec_combRebuild (s : State) (cluster : Fin 16) : exec (.combRebuild cluster) s = execCombRebuild cluster s := rfl
@[simp] theorem exec_pkecSelftest (s : State) (cluster : Fin 16) (v : W32) : exec (.pkecSelftest cluster v) s = execPkecSelftest cluster v s := rfl
@[simp] theorem exec_pkeSelftestEnd (s : State) (cluster : Fin 16) (pass : Bool) : exec (.pkeSelftestEnd cluster pass) s = execPkeSelftestEnd cluster pass s := rfl
@[simp] theorem exec_spkeSign (s : State) (slot : Fin 16) : exec (.spkeSign slot) s = execSpkeSign slot s := rfl
@[simp] theorem exec_spkeVerify (s : State) (slot : Fin 16) : exec (.spkeVerify slot) s = execSpkeVerify slot s := rfl
@[simp] theorem exec_spkePublicPoint (s : State) (slot : Fin 16) : exec (.spkePublicPoint slot) s = execSpkePublicPoint slot s := rfl
@[simp] theorem exec_spkeOperationEnd (s : State) (check : Bool) : exec (.spkeOperationEnd check) s = execSpkeOperationEnd check s := rfl
@[simp] theorem exec_mmul (s : State) (p : PkeStep) : exec (.mmul p) s = execMmul p s := rfl
@[simp] theorem exec_msqr (s : State) (p : PkeStep) : exec (.msqr p) s = execMsqr p s := rfl
@[simp] theorem exec_madd (s : State) (p : PkeStep) : exec (.madd p) s = execMadd p s := rfl
@[simp] theorem exec_msub (s : State) (p : PkeStep) : exec (.msub p) s = execMsub p s := rfl
@[simp] theorem exec_mred (s : State) (p : PkeStep) : exec (.mred p) s = execMred p s := rfl
@[simp] theorem exec_setmod (s : State) (p : PkeStep) : exec (.setmod p) s = execSetmod p s := rfl
@[simp] theorem exec_pkeCsel (s : State) (p : PkeStep) : exec (.pkeCsel p) s = execPkeCsel p s := rfl
@[simp] theorem exec_pkeCeq (s : State) (p : PkeStep) : exec (.pkeCeq p) s = execPkeCeq p s := rfl
@[simp] theorem exec_crange (s : State) (p : PkeStep) : exec (.crange p) s = execCrange p s := rfl
@[simp] theorem exec_padd (s : State) (p : PkeStep) : exec (.padd p) s = execPadd p s := rfl
@[simp] theorem exec_paddj (s : State) (p : PkeStep) : exec (.paddj p) s = execPaddj p s := rfl
@[simp] theorem exec_pdbl (s : State) (p : PkeStep) : exec (.pdbl p) s = execPdbl p s := rfl
@[simp] theorem exec_minv (s : State) (p : PkeStep) : exec (.minv p) s = execMinv p s := rfl
@[simp] theorem exec_split (s : State) (p : PkeStep) : exec (.split p) s = execSplit p s := rfl
@[simp] theorem exec_pkeRefresh (s : State) (p : PkeStep) : exec (.pkeRefresh p) s = execPkeRefresh p s := rfl
@[simp] theorem exec_pkeRand (s : State) (p : PkeStep) : exec (.pkeRand p) s = execPkeRand p s := rfl
@[simp] theorem exec_sblind (s : State) (p : PkeStep) : exec (.sblind p) s = execSblind p s := rfl
@[simp] theorem exec_pvalid (s : State) (p : PkeStep) : exec (.pvalid p) s = execPvalid p s := rfl
@[simp] theorem exec_mexpw (s : State) (p : PkeStep) : exec (.mexpw p) s = execMexpw p s := rfl
@[simp] theorem exec_encode (s : State) (p : PkeStep) : exec (.encode p) s = execEncode p s := rfl
@[simp] theorem exec_decode (s : State) (p : PkeStep) : exec (.decode p) s = execDecode p s := rfl
@[simp] theorem exec_andf (s : State) (p : PkeStep) : exec (.andf p) s = execAndf p s := rfl
@[simp] theorem exec_pkeMove (s : State) (p : PkeStep) : exec (.pkeMove p) s = execPkeMove p s := rfl
@[simp] theorem exec_pkeKcload (s : State) (p : PkeStep) : exec (.pkeKcload p) s = execPkeKcload p s := rfl
@[simp] theorem exec_combrd (s : State) (p : PkeStep) (err : Nat) : exec (.combrd p err) s = execCombrd p err s := rfl
@[simp] theorem exec_vtrd (s : State) (p : PkeStep) : exec (.vtrd p) s = execVtrd p s := rfl
@[simp] theorem exec_pkeInrd (s : State) (p : PkeStep) (bytes : Bytes) : exec (.pkeInrd p bytes) s = execPkeInrd p bytes s := rfl
@[simp] theorem exec_pkeOutst (s : State) (p : PkeStep) : exec (.pkeOutst p) s = execPkeOutst p s := rfl
@[simp] theorem exec_kout (s : State) (p : PkeStep) : exec (.kout p) s = execKout p s := rfl
@[simp] theorem exec_hashin (s : State) (p : PkeAt) (c : BitVec 12) : exec (.hashin p c) s = execHashin p c s := rfl
@[simp] theorem exec_hashout (s : State) (p : PkeStep) : exec (.hashout p) s = execHashout p s := rfl
@[simp] theorem exec_tokenWait (s : State) (cls : Nat) (unit : Nat) : exec (.tokenWait cls unit) s = execTokenWait cls unit s := rfl
@[simp] theorem exec_cipherEncrypt (s : State) (r : Run) : exec (.cipherEncrypt r) s = execCipherEncrypt r s := rfl
@[simp] theorem exec_cipherDecrypt (s : State) (r : Run) : exec (.cipherDecrypt r) s = execCipherDecrypt r s := rfl
@[simp] theorem exec_macGenerate (s : State) (r : Run) : exec (.macGenerate r) s = execMacGenerate r s := rfl
@[simp] theorem exec_macVerify (s : State) (r : Run) : exec (.macVerify r) s = execMacVerify r s := rfl
@[simp] theorem exec_hash (s : State) (r : Run) : exec (.hash r) s = execHash r s := rfl
@[simp] theorem exec_streamEncrypt (s : State) (r : Run) : exec (.streamEncrypt r) s = execStreamEncrypt r s := rfl
@[simp] theorem exec_cipherEncryptM (s : State) (r : Run) : exec (.cipherEncryptM r) s = execCipherEncryptM r s := rfl
@[simp] theorem exec_cipherDecryptM (s : State) (r : Run) : exec (.cipherDecryptM r) s = execCipherDecryptM r s := rfl
@[simp] theorem exec_macGenerateM (s : State) (r : Run) : exec (.macGenerateM r) s = execMacGenerateM r s := rfl
@[simp] theorem exec_macVerifyM (s : State) (r : Run) : exec (.macVerifyM r) s = execMacVerifyM r s := rfl
@[simp] theorem exec_pinTranslate (s : State) (r : Run) : exec (.pinTranslate r) s = execPinTranslate r s := rfl
@[simp] theorem exec_pinTranslateDukpt (s : State) (r : Run) : exec (.pinTranslateDukpt r) s = execPinTranslateDukpt r s := rfl
@[simp] theorem exec_pinCompare (s : State) (r : Run) : exec (.pinCompare r) s = execPinCompare r s := rfl
@[simp] theorem exec_dukptData (s : State) (r : Run) : exec (.dukptData r) s = execDukptData r s := rfl
@[simp] theorem exec_emvArqc (s : State) (r : Run) : exec (.emvArqc r) s = execEmvArqc r s := rfl
@[simp] theorem exec_pinTranslateM (s : State) (r : Run) : exec (.pinTranslateM r) s = execPinTranslateM r s := rfl
@[simp] theorem exec_pinTranslateDukptM (s : State) (r : Run) : exec (.pinTranslateDukptM r) s = execPinTranslateDukptM r s := rfl
@[simp] theorem exec_pinCompareM (s : State) (r : Run) : exec (.pinCompareM r) s = execPinCompareM r s := rfl
@[simp] theorem exec_dukptDataM (s : State) (r : Run) : exec (.dukptDataM r) s = execDukptDataM r s := rfl
@[simp] theorem exec_emvArqcM (s : State) (r : Run) : exec (.emvArqcM r) s = execEmvArqcM r s := rfl
@[simp] theorem exec_cipcLockHold (s : State) (cluster : Fin 8) (tile : Fin 9) (v : W32) : exec (.cipcLockHold cluster tile v) s = execCipcLockHold cluster tile v s := rfl
@[simp] theorem exec_cipcSelftest (s : State) (cluster : Fin 8) (v : W32) : exec (.cipcSelftest cluster v) s = execCipcSelftest cluster v s := rfl
@[simp] theorem exec_cipSelftestEnd (s : State) (cluster : Fin 8) (pass : Bool) : exec (.cipSelftestEnd cluster pass) s = execCipSelftestEnd cluster pass s := rfl
@[simp] theorem exec_aesk (s : State) (p : CipStep) : exec (.aesk p) s = execAesk p s := rfl
@[simp] theorem exec_aese (s : State) (p : CipStep) : exec (.aese p) s = execAese p s := rfl
@[simp] theorem exec_aesd (s : State) (p : CipStep) : exec (.aesd p) s = execAesd p s := rfl
@[simp] theorem exec_desk (s : State) (p : CipStep) : exec (.desk p) s = execDesk p s := rfl
@[simp] theorem exec_dese (s : State) (p : CipStep) : exec (.dese p) s = execDese p s := rfl
@[simp] theorem exec_desd (s : State) (p : CipStep) : exec (.desd p) s = execDesd p s := rfl
@[simp] theorem exec_cipXor (s : State) (p : CipStep) : exec (.cipXor p) s = execCipXor p s := rfl
@[simp] theorem exec_ctrb (s : State) (p : CipStep) : exec (.ctrb p) s = execCtrb p s := rfl
@[simp] theorem exec_mula (s : State) (p : CipStep) : exec (.mula p) s = execMula p s := rfl
@[simp] theorem exec_ghash (s : State) (p : CipStep) : exec (.ghash p) s = execGhash p s := rfl
@[simp] theorem exec_shai (s : State) (p : CipStep) : exec (.shai p) s = execShai p s := rfl
@[simp] theorem exec_shac (s : State) (p : CipStep) : exec (.shac p) s = execShac p s := rfl
@[simp] theorem exec_shaf (s : State) (p : CipStep) (tail : Bytes) : exec (.shaf p tail) s = execShaf p tail s := rfl
@[simp] theorem exec_pindec (s : State) (p : CipStep) : exec (.pindec p) s = execPindec p s := rfl
@[simp] theorem exec_pinenc (s : State) (p : CipStep) : exec (.pinenc p) s = execPinenc p s := rfl
@[simp] theorem exec_cipRand (s : State) (p : CipStep) : exec (.cipRand p) s = execCipRand p s := rfl
@[simp] theorem exec_cipCeq (s : State) (p : CipStep) : exec (.cipCeq p) s = execCipCeq p s := rfl
@[simp] theorem exec_cipCsel (s : State) (p : CipStep) : exec (.cipCsel p) s = execCipCsel p s := rfl
@[simp] theorem exec_cipRefresh (s : State) (p : CipStep) : exec (.cipRefresh p) s = execCipRefresh p s := rfl
@[simp] theorem exec_trunc (s : State) (p : CipStep) : exec (.trunc p) s = execTrunc p s := rfl
@[simp] theorem exec_blocks (s : State) (p : CipStep) : exec (.blocks p) s = execBlocks p s := rfl
@[simp] theorem exec_cipKcload (s : State) (p : CipStep) : exec (.cipKcload p) s = execCipKcload p s := rfl
@[simp] theorem exec_cipInrd (s : State) (p : CipStep) (bytes : Bytes) : exec (.cipInrd p bytes) s = execCipInrd p bytes s := rfl
@[simp] theorem exec_cipOutst (s : State) (p : CipStep) : exec (.cipOutst p) s = execCipOutst p s := rfl
@[simp] theorem exec_pkout (s : State) (p : CipStep) : exec (.pkout p) s = execPkout p s := rfl
@[simp] theorem exec_pkin (s : State) (p : CipAt) (c : BitVec 12) : exec (.pkin p c) s = execPkin p c s := rfl
@[simp] theorem exec_gcmEnc (s : State) (slot : Fin 16) : exec (.gcmEnc slot) s = execGcmEnc slot s := rfl
@[simp] theorem exec_gcmDec (s : State) (slot : Fin 16) : exec (.gcmDec slot) s = execGcmDec slot s := rfl
@[simp] theorem exec_sha384 (s : State) (slot : Fin 16) : exec (.sha384 slot) s = execSha384 slot s := rfl
@[simp] theorem exec_hmac384 (s : State) (slot : Fin 16) : exec (.hmac384 slot) s = execHmac384 slot s := rfl
@[simp] theorem exec_hkdf (s : State) (slot : Fin 16) : exec (.hkdf slot) s = execHkdf slot s := rfl
@[simp] theorem exec_deriveSrk (s : State) (slot : Fin 16) : exec (.deriveSrk slot) s = execDeriveSrk slot s := rfl
@[simp] theorem exec_unwrapDmk (s : State) (slot : Fin 16) : exec (.unwrapDmk slot) s = execUnwrapDmk slot s := rfl
@[simp] theorem exec_load (s : State) (slot : Fin 16) : exec (.load slot) s = execLoad slot s := rfl
@[simp] theorem exec_sciphOperationEnd (s : State) : exec .sciphOperationEnd s = execSciphOperationEnd s := rfl
@[simp] theorem exec_randomBytes (s : State) (r : Run) : exec (.randomBytes r) s = execRandomBytes r s := rfl
@[simp] theorem exec_rngStatus (s : State) (r : Run) : exec (.rngStatus r) s = execRngStatus r s := rfl
@[simp] theorem exec_seedBlock (s : State) (raw0 raw1 : BitVec 2048) (at_ : Nat) : exec (.seedBlock raw0 raw1 at_) s = execSeedBlock raw0 raw1 at_ s := rfl
@[simp] theorem exec_seedDelivery (s : State) : exec .seedDelivery s = execSeedDelivery s := rfl
@[simp] theorem exec_rngStall (s : State) (inst : Fin 29) : exec (.rngStall inst) s = execRngStall inst s := rfl
@[simp] theorem exec_biasWindow (s : State) (src : Fin 2) (early late : BitVec 16384) : exec (.biasWindow src early late) s = execBiasWindow src early late s := rfl
@[simp] theorem exec_maskStreamRekey (s : State) (cluster : Fin 8) (tile : Fin 9) : exec (.maskStreamRekey cluster tile) s = execMaskStreamRekey cluster tile s := rfl
@[simp] theorem exec_rngStatusRefresh (s : State) : exec .rngStatusRefresh s = execRngStatusRefresh s := rfl
@[simp] theorem exec_rngDataRead (s : State) : exec .rngDataRead s = execRngDataRead s := rfl
@[simp] theorem exec_rngRawRead (s : State) : exec .rngRawRead s = execRngRawRead s := rfl
@[simp] theorem exec_hostspiMeasure (s : State) : exec .hostspiMeasure s = execHostspiMeasure s := rfl
@[simp] theorem exec_measurementPassEnd (s : State) (p : PassEnd) : exec (.measurementPassEnd p) s = execMeasurementPassEnd p s := rfl
@[simp] theorem exec_hostspiRelease (s : State) : exec .hostspiRelease s = execHostspiRelease s := rfl
@[simp] theorem exec_hostspiLoad (s : State) : exec .hostspiLoad s = execHostspiLoad s := rfl
@[simp] theorem exec_hostFlashTransaction (s : State) (t : HostTrans) : exec (.hostFlashTransaction t) s = execHostFlashTransaction t s := rfl
@[simp] theorem exec_hostReset (s : State) (ns : Nat) : exec (.hostReset ns) s = execHostReset ns s := rfl
@[simp] theorem exec_ledgerMirror (s : State) (ok : Bool) : exec (.ledgerMirror ok) s = execLedgerMirror ok s := rfl
@[simp] theorem exec_ledgerRead (s : State) (r : Run) : exec (.ledgerRead r) s = execLedgerRead r s := rfl
@[simp] theorem exec_ledgerStatus (s : State) (r : Run) : exec (.ledgerStatus r) s = execLedgerStatus r s := rfl
@[simp] theorem exec_attestQuote (s : State) (r : Run) : exec (.attestQuote r) s = execAttestQuote r s := rfl
@[simp] theorem exec_certRead (s : State) (r : Run) : exec (.certRead r) s = execCertRead r s := rfl
@[simp] theorem exec_hostFlashAuth (s : State) (r : Run) : exec (.hostFlashAuth r) s = execHostFlashAuth r s := rfl
@[simp] theorem exec_hostBootSelect (s : State) (r : Run) : exec (.hostBootSelect r) s = execHostBootSelect r s := rfl
@[simp] theorem exec_lifecycle (s : State) (r : Run) : exec (.lifecycle r) s = execLifecycle r s := rfl
@[simp] theorem exec_getVersion (s : State) (doe : Bool) : exec (.getVersion doe) s = execGetVersion doe s := rfl
@[simp] theorem exec_getCapabilities (s : State) (doe : Bool) : exec (.getCapabilities doe) s = execGetCapabilities doe s := rfl
@[simp] theorem exec_negotiateAlgorithms (s : State) (doe : Bool) (offer : SpdmOffer) : exec (.negotiateAlgorithms doe offer) s = execNegotiateAlgorithms doe offer s := rfl
@[simp] theorem exec_getDigests (s : State) (doe : Bool) : exec (.getDigests doe) s = execGetDigests doe s := rfl
@[simp] theorem exec_getCertificate (s : State) (doe : Bool) (slot off len : Nat) : exec (.getCertificate doe slot off len) s = execGetCertificate doe slot off len s := rfl
@[simp] theorem exec_challenge (s : State) (doe : Bool) (slot : Nat) : exec (.challenge doe slot) s = execChallenge doe slot s := rfl
@[simp] theorem exec_getMeasurements (s : State) (doe : Bool) (index : Nat) (signed : Bool) : exec (.getMeasurements doe index signed) s = execGetMeasurements doe index signed s := rfl
@[simp] theorem exec_keyExchange (s : State) (doe : Bool) (slot : Nat) (pub : Bytes) : exec (.keyExchange doe slot pub) s = execKeyExchange doe slot pub s := rfl
@[simp] theorem exec_finish (s : State) (session : Nat) (macOk : Bool) : exec (.finish session macOk) s = execFinish session macOk s := rfl
@[simp] theorem exec_heartbeat (s : State) (session : Nat) (macOk : Bool) : exec (.heartbeat session macOk) s = execHeartbeat session macOk s := rfl
@[simp] theorem exec_keyUpdate (s : State) (session : Nat) (macOk : Bool) : exec (.keyUpdate session macOk) s = execKeyUpdate session macOk s := rfl
@[simp] theorem exec_endSession (s : State) (session : Nat) (macOk : Bool) : exec (.endSession session macOk) s = execEndSession session macOk s := rfl
@[simp] theorem exec_vendorDefinedRequest (s : State) (session : Nat) (macOk : Bool) (ideKm : Option Bytes) : exec (.vendorDefinedRequest session macOk ideKm) s = execVendorDefinedRequest session macOk ideKm s := rfl
@[simp] theorem exec_clStatus (s : State) (r : Run) : exec (.clStatus r) s = execClStatus r s := rfl
@[simp] theorem exec_clMemberRequest (s : State) (r : Run) : exec (.clMemberRequest r) s = execClMemberRequest r s := rfl
@[simp] theorem exec_clFound (s : State) (r : Run) : exec (.clFound r) s = execClFound r s := rfl
@[simp] theorem exec_clIssue (s : State) (r : Run) : exec (.clIssue r) s = execClIssue r s := rfl
@[simp] theorem exec_clEndorse (s : State) (r : Run) : exec (.clEndorse r) s = execClEndorse r s := rfl
@[simp] theorem exec_clApplyEpoch (s : State) (r : Run) : exec (.clApplyEpoch r) s = execClApplyEpoch r s := rfl
@[simp] theorem exec_clMemberRead (s : State) (r : Run) : exec (.clMemberRead r) s = execClMemberRead r s := rfl
@[simp] theorem exec_clSealBundle (s : State) (r : Run) : exec (.clSealBundle r) s = execClSealBundle r s := rfl
@[simp] theorem exec_clHandover (s : State) (r : Run) : exec (.clHandover r) s = execClHandover r s := rfl
@[simp] theorem exec_clApplyBundle (s : State) (r : Run) : exec (.clApplyBundle r) s = execClApplyBundle r s := rfl
@[simp] theorem exec_clReplay (s : State) (r : Run) : exec (.clReplay r) s = execClReplay r s := rfl
@[simp] theorem exec_pairedWord (s : State) (core : CoreId) (f g : ShortOp) (bit15 : Bool) (fails : List MemFail) : exec (.pairedWord core f g bit15 fails) s = execPairedWord core f g bit15 fails s := rfl
@[simp] theorem exec_move (s : State) (i : LongInsn) : exec (.move i) s = execMove i s := rfl
@[simp] theorem exec_ext (s : State) (i : LongInsn) : exec (.ext i) s = execExt i s := rfl
@[simp] theorem exec_lea (s : State) (i : LongInsn) : exec (.lea i) s = execLea i s := rfl
@[simp] theorem exec_clr (s : State) (i : LongInsn) : exec (.clr i) s = execClr i s := rfl
@[simp] theorem exec_push (s : State) (i : LongInsn) : exec (.push i) s = execPush i s := rfl
@[simp] theorem exec_pop (s : State) (i : LongInsn) : exec (.pop i) s = execPop i s := rfl
@[simp] theorem exec_add (s : State) (i : LongInsn) : exec (.add i) s = execAdd i s := rfl
@[simp] theorem exec_addc (s : State) (i : LongInsn) : exec (.addc i) s = execAddc i s := rfl
@[simp] theorem exec_sub (s : State) (i : LongInsn) : exec (.sub i) s = execSub i s := rfl
@[simp] theorem exec_subc (s : State) (i : LongInsn) : exec (.subc i) s = execSubc i s := rfl
@[simp] theorem exec_cmp (s : State) (i : LongInsn) : exec (.cmp i) s = execCmp i s := rfl
@[simp] theorem exec_neg (s : State) (i : LongInsn) : exec (.neg i) s = execNeg i s := rfl
@[simp] theorem exec_mul (s : State) (i : LongInsn) : exec (.mul i) s = execMul i s := rfl
@[simp] theorem exec_mulh (s : State) (i : LongInsn) : exec (.mulh i) s = execMulh i s := rfl
@[simp] theorem exec_mulhs (s : State) (i : LongInsn) : exec (.mulhs i) s = execMulhs i s := rfl
@[simp] theorem exec_div (s : State) (i : LongInsn) : exec (.div i) s = execDiv i s := rfl
@[simp] theorem exec_divs (s : State) (i : LongInsn) : exec (.divs i) s = execDivs i s := rfl
@[simp] theorem exec_rem (s : State) (i : LongInsn) : exec (.rem i) s = execRem i s := rfl
@[simp] theorem exec_rems (s : State) (i : LongInsn) : exec (.rems i) s = execRems i s := rfl
@[simp] theorem exec_and (s : State) (i : LongInsn) : exec (.and i) s = execAnd i s := rfl
@[simp] theorem exec_or (s : State) (i : LongInsn) : exec (.or i) s = execOr i s := rfl
@[simp] theorem exec_xor (s : State) (i : LongInsn) : exec (.xor i) s = execXor i s := rfl
@[simp] theorem exec_not (s : State) (i : LongInsn) : exec (.not i) s = execNot i s := rfl
@[simp] theorem exec_tst (s : State) (i : LongInsn) : exec (.tst i) s = execTst i s := rfl
@[simp] theorem exec_shl (s : State) (i : LongInsn) : exec (.shl i) s = execShl i s := rfl
@[simp] theorem exec_shr (s : State) (i : LongInsn) : exec (.shr i) s = execShr i s := rfl
@[simp] theorem exec_sar (s : State) (i : LongInsn) : exec (.sar i) s = execSar i s := rfl
@[simp] theorem exec_rol (s : State) (i : LongInsn) : exec (.rol i) s = execRol i s := rfl
@[simp] theorem exec_ror (s : State) (i : LongInsn) : exec (.ror i) s = execRor i s := rfl
@[simp] theorem exec_clz (s : State) (i : LongInsn) : exec (.clz i) s = execClz i s := rfl
@[simp] theorem exec_popc (s : State) (i : LongInsn) : exec (.popc i) s = execPopc i s := rfl
@[simp] theorem exec_bswap (s : State) (i : LongInsn) : exec (.bswap i) s = execBswap i s := rfl
@[simp] theorem exec_csel (s : State) (i : LongInsn) : exec (.csel i) s = execCsel i s := rfl
@[simp] theorem exec_cteq (s : State) (i : LongInsn) : exec (.cteq i) s = execCteq i s := rfl
@[simp] theorem exec_ctlt (s : State) (i : LongInsn) : exec (.ctlt i) s = execCtlt i s := rfl
@[simp] theorem exec_ctmask (s : State) (i : LongInsn) : exec (.ctmask i) s = execCtmask i s := rfl
@[simp] theorem exec_ctbeq (s : State) (i : LongInsn) : exec (.ctbeq i) s = execCtbeq i s := rfl
@[simp] theorem exec_jmp (s : State) (i : LongInsn) : exec (.jmp i) s = execJmp i s := rfl
@[simp] theorem exec_call (s : State) (i : LongInsn) : exec (.call i) s = execCall i s := rfl
@[simp] theorem exec_ret (s : State) (i : LongInsn) : exec (.ret i) s = execRet i s := rfl
@[simp] theorem exec_loop (s : State) (i : LongInsn) : exec (.loop i) s = execLoop i s := rfl
@[simp] theorem exec_swapa (s : State) (i : LongInsn) : exec (.swapa i) s = execSwapa i s := rfl
@[simp] theorem exec_cas (s : State) (i : LongInsn) : exec (.cas i) s = execCas i s := rfl
@[simp] theorem exec_fadd (s : State) (i : LongInsn) : exec (.fadd i) s = execFadd i s := rfl
@[simp] theorem exec_bmove (s : State) (i : LongInsn) : exec (.bmove i) s = execBmove i s := rfl
@[simp] theorem exec_bfill (s : State) (i : LongInsn) : exec (.bfill i) s = execBfill i s := rfl
@[simp] theorem exec_trap (s : State) (i : LongInsn) : exec (.trap i) s = execTrap i s := rfl
@[simp] theorem exec_gate (s : State) (i : LongInsn) : exec (.gate i) s = execGate i s := rfl
@[simp] theorem exec_rte (s : State) (i : LongInsn) : exec (.rte i) s = execRte i s := rfl
@[simp] theorem exec_lseg (s : State) (i : LongInsn) : exec (.lseg i) s = execLseg i s := rfl
@[simp] theorem exec_sseg (s : State) (i : LongInsn) : exec (.sseg i) s = execSseg i s := rfl
@[simp] theorem exec_mask (s : State) (i : LongInsn) : exec (.mask i) s = execMask i s := rfl
@[simp] theorem exec_wait (s : State) (i : LongInsn) : exec (.wait i) s = execWait i s := rfl
@[simp] theorem exec_fence (s : State) (i : LongInsn) : exec (.fence i) s = execFence i s := rfl
@[simp] theorem exec_mfps (s : State) (i : LongInsn) : exec (.mfps i) s = execMfps i s := rfl
@[simp] theorem exec_mtf (s : State) (i : LongInsn) : exec (.mtf i) s = execMtf i s := rfl
@[simp] theorem exec_mfcr (s : State) (i : LongInsn) : exec (.mfcr i) s = execMfcr i s := rfl
@[simp] theorem exec_mtcr (s : State) (i : LongInsn) : exec (.mtcr i) s = execMtcr i s := rfl
@[simp] theorem exec_wstart (s : State) (core : CoreId) (v : W64) : exec (.wstart core v) s = execWstart core v s := rfl
@[simp] theorem exec_swi (s : State) (core : CoreId) (v : W64) : exec (.swi core v) s = execSwi core v s := rfl
@[simp] theorem exec_interruptEntry (s : State) (core : CoreId) : exec (.interruptEntry core) s = execInterruptEntry core s := rfl
@[simp] theorem exec_lockstepMismatch (s : State) : exec .lockstepMismatch s = execLockstepMismatch s := rfl
@[simp] theorem exec_mpuSync (s : State) (landau : Bool) (masters : BitVec 24) : exec (.mpuSync landau masters) s = execMpuSync landau masters s := rfl
@[simp] theorem exec_mpuSyncApply (s : State) (landau : Bool) : exec (.mpuSyncApply landau) s = execMpuSyncApply landau s := rfl
@[simp] theorem exec_mpuViolClear (s : State) (landau : Bool) : exec (.mpuViolClear landau) s = execMpuViolClear landau s := rfl
@[simp] theorem exec_arbiterDecision (s : State) (arb : Fin 6) (req : W32) : exec (.arbiterDecision arb req) s = execArbiterDecision arb req s := rfl
@[simp] theorem exec_program (s : State) (w : FlashWr) : exec (.program w) s = execProgram w s := rfl
@[simp] theorem exec_erase (s : State) (w : FlashWr) : exec (.erase w) s = execErase w s := rfl
@[simp] theorem exec_eraseRange (s : State) (w : FlashWr) : exec (.eraseRange w) s = execEraseRange w s := rfl
@[simp] theorem exec_check (s : State) (w : FlashWr) : exec (.check w) s = execCheck w s := rfl
@[simp] theorem exec_retire (s : State) (w : FlashWr) : exec (.retire w) s = execRetire w s := rfl
@[simp] theorem exec_suspend (s : State) (w : FlashWr) : exec (.suspend w) s = execSuspend w s := rfl
@[simp] theorem exec_resume (s : State) (w : FlashWr) : exec (.resume w) s = execResume w s := rfl
@[simp] theorem exec_flashOperationEnd (s : State) (e : FlashEnd) : exec (.flashOperationEnd e) s = execFlashOperationEnd e s := rfl
@[simp] theorem exec_tamperEvent (s : State) (tripsA tripsB : BitVec 16) : exec (.tamperEvent tripsA tripsB) s = execTamperEvent tripsA tripsB s := rfl
@[simp] theorem exec_monitorDisagree (s : State) (src : Fin 16) : exec (.monitorDisagree src) s = execMonitorDisagree src s := rfl
@[simp] theorem exec_loop0Measurement (s : State) (ohms : Nat) : exec (.loop0Measurement ohms) s = execLoop0Measurement ohms s := rfl
@[simp] theorem exec_loop1Code (s : State) (code : BitVec 16) (late : Bool) : exec (.loop1Code code late) s = execLoop1Code code late s := rfl
@[simp] theorem exec_tamperHoldEnd (s : State) : exec .tamperHoldEnd s = execTamperHoldEnd s := rfl
@[simp] theorem exec_zall (s : State) (key : BitVec 16) : exec (.zall key) s = execZall key s := rfl
@[simp] theorem exec_zeroiseAllComplete (s : State) : exec .zeroiseAllComplete s = execZeroiseAllComplete s := rfl
@[simp] theorem exec_bkgen (s : State) (key : BitVec 16) : exec (.bkgen key) s = execBkgen key s := rfl
@[simp] theorem exec_zdone (s : State) (key : BitVec 16) : exec (.zdone key) s = execZdone key s := rfl
@[simp] theorem exec_unlock (s : State) (key : BitVec 16) : exec (.unlock key) s = execUnlock key s := rfl
@[simp] theorem exec_cfgLock (s : State) : exec .cfgLock s = execCfgLock s := rfl
@[simp] theorem exec_tamperSelftest (s : State) (v : W32) : exec (.tamperSelftest v) s = execTamperSelftest v s := rfl
@[simp] theorem exec_tamperSelftestEnd (s : State) (tripped cleared : Bool) : exec (.tamperSelftestEnd tripped cleared) s = execTamperSelftestEnd tripped cleared s := rfl
@[simp] theorem exec_tamperForce (s : State) (v : BitVec 16) : exec (.tamperForce v) s = execTamperForce v s := rfl
@[simp] theorem exec_tamperCelllogRead (s : State) : exec .tamperCelllogRead s = execTamperCelllogRead s := rfl
@[simp] theorem exec_faultReport (s : State) (r : Report) : exec (.faultReport r) s = execFaultReport r s := rfl
@[simp] theorem exec_safeStateCut (s : State) : exec .safeStateCut s = execSafeStateCut s := rfl
@[simp] theorem exec_quietPeriodExpiry (s : State) (cleared : Bool) : exec (.quietPeriodExpiry cleared) s = execQuietPeriodExpiry cleared s := rfl
@[simp] theorem exec_fcollHeartbeatLoss (s : State) : exec .fcollHeartbeatLoss s = execFcollHeartbeatLoss s := rfl
@[simp] theorem exec_routeTimeout (s : State) (p : LateRoute) (unit tile : Nat) : exec (.routeTimeout p unit tile) s = execRouteTimeout p unit tile s := rfl
@[simp] theorem exec_retireAck (s : State) (key : BitVec 16) : exec (.retireAck key) s = execRetireAck key s := rfl
@[simp] theorem exec_exit (s : State) (key : BitVec 16) : exec (.exit key) s = execExit key s := rfl
@[simp] theorem exec_rclr (s : State) (key : BitVec 16) : exec (.rclr key) s = execRclr key s := rfl
@[simp] theorem exec_fcollForce (s : State) (v : W32) : exec (.fcollForce v) s = execFcollForce v s := rfl
@[simp] theorem exec_hbmRowRepair (s : State) (stack : Fin 4) (pc : Fin 32) (row : Nat) (left : Bool) (uncorr : List Nat) : exec (.hbmRowRepair stack pc row left uncorr) s = execHbmRowRepair stack pc row left uncorr s := rfl
@[simp] theorem exec_drawbarLaneSwap (s : State) (dir : Fin 2) (lane : Fin 36) (errors : Nat) : exec (.drawbarLaneSwap dir lane errors) s = execDrawbarLaneSwap dir lane errors s := rfl
@[simp] theorem exec_mergeWindowExpiry (s : State) : exec .mergeWindowExpiry s = execMergeWindowExpiry s := rfl
@[simp] theorem exec_batchProgram (s : State) : exec .batchProgram s = execBatchProgram s := rfl
@[simp] theorem exec_evrecSw (s : State) (v : W32) : exec (.evrecSw v) s = execEvrecSw v s := rfl
@[simp] theorem exec_evrecFreeze (s : State) (on : Bool) : exec (.evrecFreeze on) s = execEvrecFreeze on s := rfl
@[simp] theorem exec_timekeepSecond (s : State) : exec .timekeepSecond s = execTimekeepSecond s := rfl
@[simp] theorem exec_rtcSet (s : State) (v : W32) : exec (.rtcSet v) s = execRtcSet v s := rfl
@[simp] theorem exec_oscFail (s : State) : exec .oscFail s = execOscFail s := rfl
@[simp] theorem exec_grantCycle (s : State) (demands : List (Nat × Nat)) : exec (.grantCycle demands) s = execGrantCycle demands s := rfl
@[simp] theorem exec_grantRefreshLoss (s : State) (d : Fin 48) : exec (.grantRefreshLoss d) s = execGrantRefreshLoss d s := rfl
@[simp] theorem exec_powerWindow (s : State) (deci : Nat) : exec (.powerWindow deci) s = execPowerWindow deci s := rfl
@[simp] theorem exec_thermalReading (s : State) (landau : List (Fin 50 × BitVec 8)) (gecko hbms : List (BitVec 8)) : exec (.thermalReading landau gecko hbms) s = execThermalReading landau gecko hbms s := rfl
@[simp] theorem exec_pwrarbDomctrl (s : State) (v : W32) : exec (.pwrarbDomctrl v) s = execPwrarbDomctrl v s := rfl
@[simp] theorem exec_vidAlert (s : State) (good holds : Bool) : exec (.vidAlert good holds) s = execVidAlert good holds s := rfl
@[simp] theorem exec_railPgFall (s : State) (rail : Fin 3) : exec (.railPgFall rail) s = execRailPgFall rail s := rfl
@[simp] theorem exec_activate (s : State) (port : Fin 2) : exec (.activate port) s = execActivate port s := rfl
@[simp] theorem exec_exchange (s : State) (port : Fin 2) : exec (.exchange port) s = execExchange port s := rfl
@[simp] theorem exec_deactivate (s : State) (port : Fin 2) : exec (.deactivate port) s = execDeactivate port s := rfl
@[simp] theorem exec_warmReset (s : State) (port : Fin 2) : exec (.warmReset port) s = execWarmReset port s := rfl
@[simp] theorem exec_cardOperationEnd (s : State) (port : Fin 2) (e : CardEnd) : exec (.cardOperationEnd port e) s = execCardOperationEnd port e s := rfl
@[simp] theorem exec_cardInsertion (s : State) (port : Fin 2) : exec (.cardInsertion port) s = execCardInsertion port s := rfl
@[simp] theorem exec_cardRemoval (s : State) (port : Fin 2) : exec (.cardRemoval port) s = execCardRemoval port s := rfl
@[simp] theorem exec_cardOvercurrent (s : State) (port : Fin 2) : exec (.cardOvercurrent port) s = execCardOvercurrent port s := rfl
@[simp] theorem exec_quorumSessionExpiry (s : State) : exec .quorumSessionExpiry s = execQuorumSessionExpiry s := rfl
@[simp] theorem exec_sdInsertion (s : State) (card : SdCard) (initOk : Bool) : exec (.sdInsertion card initOk) s = execSdInsertion card initOk s := rfl
@[simp] theorem exec_sdRemoval (s : State) (afterToken : Bool) : exec (.sdRemoval afterToken) s = execSdRemoval afterToken s := rfl
@[simp] theorem exec_sdhWrite (s : State) : exec .sdhWrite s = execSdhWrite s := rfl
@[simp] theorem exec_sdhRead (s : State) : exec .sdhRead s = execSdhRead s := rfl
@[simp] theorem exec_forceErase (s : State) (key : BitVec 16) : exec (.forceErase key) s = execForceErase key s := rfl
@[simp] theorem exec_setLock (s : State) : exec .setLock s = execSetLock s := rfl
@[simp] theorem exec_sdhUnlock (s : State) : exec .sdhUnlock s = execSdhUnlock s := rfl
@[simp] theorem exec_powerOff (s : State) : exec .powerOff s = execPowerOff s := rfl
@[simp] theorem exec_sdhOperationEnd (s : State) (e : SdEnd) : exec (.sdhOperationEnd e) s = execSdhOperationEnd e s := rfl
@[simp] theorem exec_fieldAppears (s : State) : exec .fieldAppears s = execFieldAppears s := rfl
@[simp] theorem exec_fieldAbsent (s : State) : exec .fieldAbsent s = execFieldAbsent s := rfl
@[simp] theorem exec_inventory (s : State) (q : TagReq) (slots16 : Bool) (len : Fin 65) (mask : BitVec 64) (afi : Option (BitVec 8)) : exec (.inventory q slots16 len mask afi) s = execInventory q slots16 len mask afi s := rfl
@[simp] theorem exec_stayQuiet (s : State) (q : TagReq) : exec (.stayQuiet q) s = execStayQuiet q s := rfl
@[simp] theorem exec_readSingleBlock (s : State) (q : TagReq) (ext : Bool) (block : BitVec 16) : exec (.readSingleBlock q ext block) s = execReadSingleBlock q ext block s := rfl
@[simp] theorem exec_writeSingleBlock (s : State) (q : TagReq) (ext : Bool) (block : BitVec 16) (data : Bytes) (w : TagWr) : exec (.writeSingleBlock q ext block data w) s = execWriteSingleBlock q ext block data w s := rfl
@[simp] theorem exec_readMultipleBlocks (s : State) (q : TagReq) (ext : Bool) (first count : BitVec 16) : exec (.readMultipleBlocks q ext first count) s = execReadMultipleBlocks q ext first count s := rfl
@[simp] theorem exec_writeMultipleBlocks (s : State) (q : TagReq) (ext : Bool) (first count : BitVec 16) (data : Bytes) (w : TagWr) : exec (.writeMultipleBlocks q ext first count data w) s = execWriteMultipleBlocks q ext first count data w s := rfl
@[simp] theorem exec_select (s : State) (q : TagReq) : exec (.select q) s = execSelect q s := rfl
@[simp] theorem exec_resetToReady (s : State) (q : TagReq) : exec (.resetToReady q) s = execResetToReady q s := rfl
@[simp] theorem exec_getSystemInformation (s : State) (q : TagReq) (ext : Bool) : exec (.getSystemInformation q ext) s = execGetSystemInformation q ext s := rfl
@[simp] theorem exec_tagRequestUnsupported (s : State) (q : TagReq) (code mfr : BitVec 8) : exec (.tagRequestUnsupported q code mfr) s = execTagRequestUnsupported q code mfr s := rfl
@[simp] theorem exec_ledgerSummaryRead (s : State) (q : TagReq) (mfr first count : BitVec 8) : exec (.ledgerSummaryRead q mfr first count) s = execLedgerSummaryRead q mfr first count s := rfl
@[simp] theorem exec_privacyInventory (s : State) (q : TagReq) (mfr : BitVec 8) (slots16 : Bool) (len : Fin 65) (mask : BitVec 64) (w : TagWr) : exec (.privacyInventory q mfr slots16 len mask w) s = execPrivacyInventory q mfr slots16 len mask w s := rfl
@[simp] theorem exec_serviceIntentWrite (s : State) (q : TagReq) (mfr : BitVec 8) (data : Bytes) (w : TagWr) : exec (.serviceIntentWrite q mfr data w) s = execServiceIntentWrite q mfr data w s := rfl
@[simp] theorem exec_handlePoolRefill (s : State) : exec .handlePoolRefill s = execHandlePoolRefill s := rfl
@[simp] theorem exec_intentRecording (s : State) : exec .intentRecording s = execIntentRecording s := rfl
@[simp] theorem exec_tagWrite (s : State) (w : FlashWr) : exec (.tagWrite w) s = execTagWrite w s := rfl
@[simp] theorem exec_tagErase (s : State) (w : FlashWr) : exec (.tagErase w) s = execTagErase w s := rfl
@[simp] theorem exec_tagOperationEnd (s : State) (e : FlashEnd) : exec (.tagOperationEnd e) s = execTagOperationEnd e s := rfl
@[simp] theorem exec_dynamicAddressAssignment (s : State) (addr : BitVec 7) : exec (.dynamicAddressAssignment addr) s = execDynamicAddressAssignment addr s := rfl
@[simp] theorem exec_fallbackTimeout (s : State) : exec .fallbackTimeout s = execFallbackTimeout s := rfl
@[simp] theorem exec_mctpPacket (s : State) (p : MctpPkt) : exec (.mctpPacket p) s = execMctpPacket p s := rfl
@[simp] theorem exec_setEndpointId (s : State) (inst : BitVec 5) (op : BitVec 2) (eid : BitVec 8) : exec (.setEndpointId inst op eid) s = execSetEndpointId inst op eid s := rfl
@[simp] theorem exec_getEndpointId (s : State) (inst : BitVec 5) : exec (.getEndpointId inst) s = execGetEndpointId inst s := rfl
@[simp] theorem exec_getEndpointUuid (s : State) (inst : BitVec 5) : exec (.getEndpointUuid inst) s = execGetEndpointUuid inst s := rfl
@[simp] theorem exec_getMctpVersionSupport (s : State) (inst : BitVec 5) (typ : BitVec 8) : exec (.getMctpVersionSupport inst typ) s = execGetMctpVersionSupport inst typ s := rfl
@[simp] theorem exec_getMessageTypeSupport (s : State) (inst : BitVec 5) : exec (.getMessageTypeSupport inst) s = execGetMessageTypeSupport inst s := rfl
@[simp] theorem exec_getVendorDefinedMessageSupport (s : State) (inst : BitVec 5) (sel : BitVec 8) : exec (.getVendorDefinedMessageSupport inst sel) s = execGetVendorDefinedMessageSupport inst sel s := rfl
@[simp] theorem exec_status (s : State) (msg : Bytes) : exec (.status msg) s = execStatus msg s := rfl
@[simp] theorem exec_sbLedgerRead (s : State) (msg : Bytes) : exec (.sbLedgerRead msg) s = execSbLedgerRead msg s := rfl
@[simp] theorem exec_eventRead (s : State) (msg : Bytes) : exec (.eventRead msg) s = execEventRead msg s := rfl
@[simp] theorem exec_recoveryWrite (s : State) (msg : Bytes) : exec (.recoveryWrite msg) s = execRecoveryWrite msg s := rfl
@[simp] theorem exec_imageStage (s : State) (msg : Bytes) : exec (.imageStage msg) s = execImageStage msg s := rfl
@[simp] theorem exec_imageCommit (s : State) (msg : Bytes) : exec (.imageCommit msg) s = execImageCommit msg s := rfl
@[simp] theorem exec_remeasure (s : State) (msg : Bytes) : exec (.remeasure msg) s = execRemeasure msg s := rfl
@[simp] theorem exec_sbHostFlashAuth (s : State) (msg : Bytes) (ledgerOk : Bool) : exec (.sbHostFlashAuth msg ledgerOk) s = execSbHostFlashAuth msg ledgerOk s := rfl
@[simp] theorem exec_sbLifecycle (s : State) (msg : Bytes) (ledgerOk : Bool) : exec (.sbLifecycle msg ledgerOk) s = execSbLifecycle msg ledgerOk s := rfl
@[simp] theorem exec_quorumCancel (s : State) (msg : Bytes) : exec (.quorumCancel msg) s = execQuorumCancel msg s := rfl
@[simp] theorem exec_sbUnlock (s : State) (msg : Bytes) : exec (.sbUnlock msg) s = execSbUnlock msg s := rfl
@[simp] theorem exec_csetReplace (s : State) (msg : Bytes) : exec (.csetReplace msg) s = execCsetReplace msg s := rfl
@[simp] theorem exec_cardErase (s : State) (msg : Bytes) : exec (.cardErase msg) s = execCardErase msg s := rfl
@[simp] theorem exec_tagOwnerErase (s : State) (msg : Bytes) : exec (.tagOwnerErase msg) s = execTagOwnerErase msg s := rfl
@[simp] theorem exec_linkTest (s : State) (msg : Bytes) (lock : Bool) : exec (.linkTest msg lock) s = execLinkTest msg lock s := rfl
@[simp] theorem exec_linkResult (s : State) (msg : Bytes) : exec (.linkResult msg) s = execLinkResult msg s := rfl
@[simp] theorem exec_patternTestStart (s : State) (land : Bool) (v : W32) (lock : Bool) : exec (.patternTestStart land v lock) s = execPatternTestStart land v lock s := rfl
@[simp] theorem exec_patternTestStop (s : State) (land : Bool) (bits : W64) (errs : BitVec 31) : exec (.patternTestStop land bits errs) s = execPatternTestStop land bits errs s := rfl
@[simp] theorem exec_patternTestEnd (s : State) (bits : W64) (errs : BitVec 31) : exec (.patternTestEnd bits errs) s = execPatternTestEnd bits errs s := rfl
@[simp] theorem exec_sidebSend (s : State) (v : W32) : exec (.sidebSend v) s = execSidebSend v s := rfl
@[simp] theorem exec_sidebRxdataRead (s : State) : exec .sidebRxdataRead s = execSidebRxdataRead s := rfl
@[simp] theorem exec_sidebTxdataWrite (s : State) (v : W32) : exec (.sidebTxdataWrite v) s = execSidebTxdataWrite v s := rfl
@[simp] theorem exec_cardDataAccess (s : State) (port : Fin 2) (w : Option W32) : exec (.cardDataAccess port w) s = execCardDataAccess port w s := rfl
@[simp] theorem exec_idcode (s : State) : exec .idcode s = execIdcode s := rfl
@[simp] theorem exec_bypass (s : State) : exec .bypass s = execBypass s := rfl
@[simp] theorem exec_samplePreload (s : State) : exec .samplePreload s = execSamplePreload s := rfl
@[simp] theorem exec_extest (s : State) : exec .extest s = execExtest s := rfl
@[simp] theorem exec_extestPulse (s : State) : exec .extestPulse s = execExtestPulse s := rfl
@[simp] theorem exec_extestTrain (s : State) : exec .extestTrain s = execExtestTrain s := rfl
@[simp] theorem exec_highz (s : State) : exec .highz s = execHighz s := rfl
@[simp] theorem exec_dbgmbox (s : State) (acc : MboxAcc) : exec (.dbgmbox acc) s = execDbgmbox acc s := rfl
@[simp] theorem exec_submit (s : State) : exec .submit s = execSubmit s := rfl
@[simp] theorem exec_grant (s : State) (v : W32) : exec (.grant v) s = execGrant v s := rfl
@[simp] theorem exec_refuse (s : State) (v : W32) : exec (.refuse v) s = execRefuse v s := rfl
@[simp] theorem exec_debugHalt (s : State) (core : Fin 2) : exec (.debugHalt core) s = execDebugHalt core s := rfl
@[simp] theorem exec_startupTestEnd (s : State) (src : Fin 2) (raw : BitVec 4096) (at_ : Nat) : exec (.startupTestEnd src raw at_) s = execStartupTestEnd src raw at_ s := rfl
@[simp] theorem exec_cellSupplyLoss (s : State) : exec .cellSupplyLoss s = execCellSupplyLoss s := rfl
@[simp] theorem exec_tamperSourceClear (s : State) (src : Fin 16) : exec (.tamperSourceClear src) s = execTamperSourceClear src s := rfl
@[simp] theorem exec_wcoreCtrlSplit (s : State) : exec .wcoreCtrlSplit s = execWcoreCtrlSplit s := rfl
@[simp] theorem exec_srcEn (s : State) (v : W32) : exec (.srcEn v) s = execSrcEn v s := rfl

end Sys2Proof.Machine
end

