-- ==== Sys2Proof/Laws/Sparse.lean ====
section
/-!
SUPPORT. Laws/Sparse.lean: reading after writing a sparse map, and its canonical form.
-/
namespace Sys2Proof.Machine

variable {α : Type}

@[simp] theorem mapGet?_nil (q : Nat) : mapGet? ([] : List (Nat × α)) q = none := rfl

theorem mapGet?_cons (k : Nat) (v : α) (t : List (Nat × α)) (q : Nat) :
    mapGet? ((k, v) :: t) q = if k = q then some v else mapGet? t q := rfl

/-- Listing a key: that key reads the value, every other key as before. -/
theorem mapGet?_put (m : List (Nat × α)) (q : Nat) (v : α) (r : Nat) :
    mapGet? (mapPut m q v) r = if q = r then some v else mapGet? m r := by
  induction m with
  | nil => simp [mapPut, mapGet?_cons]
  | cons e t ih =>
    obtain ⟨k, x⟩ := e
    by_cases h1 : k = q
    · subst h1
      simp only [mapPut, if_true, mapGet?_cons]
      split <;> simp_all
    · by_cases h2 : q < k
      · simp only [mapPut, h1, h2, if_true, if_false, mapGet?_cons]
      · simp only [mapPut, h1, h2, if_false, mapGet?_cons, ih]
        split <;> split <;> simp_all

/-- Taking a key off: that key reads nothing, every other key as before. -/
theorem mapGet?_erase (m : List (Nat × α)) (q r : Nat) :
    mapGet? (mapErase m q) r = if q = r then none else mapGet? m r := by
  induction m with
  | nil => simp [mapErase]
  | cons e t ih =>
    obtain ⟨k, x⟩ := e
    unfold mapErase at *
    by_cases h : k = q
    · subst h
      simp only [List.filter_cons, bne_self_eq_false, Bool.false_eq_true, if_false, ih, mapGet?_cons]
      split <;> simp_all
    · simp only [List.filter_cons, bne_iff_ne, ne_eq, h, not_false_eq_true, if_true, mapGet?_cons, ih]
      split <;> split <;> simp_all

/-- Setting a key of a map: that key reads the value, every other key as before. -/
theorem mapGet_set [DecidableEq α] (m : List (Nat × α)) (q : Nat) (v d : α) (r : Nat) :
    mapGet (mapSet m q v d) r d = if q = r then v else mapGet m r d := by
  unfold mapGet mapSet
  by_cases h : v = d
  · subst h
    simp only [if_true, mapGet?_erase]
    split <;> simp_all
  · simp only [h, if_false, mapGet?_put]
    split <;> simp_all

@[simp] theorem mapGet_set_same [DecidableEq α] (m : List (Nat × α)) (q : Nat) (v d : α) :
    mapGet (mapSet m q v d) q d = v := by simp [mapGet_set]

/-- A key other than the one set reads as before, whatever its default. -/
theorem mapGet_set_ne [DecidableEq α] (m : List (Nat × α)) {q r : Nat} (v d e : α) (h : q ≠ r) :
    mapGet (mapSet m q v d) r e = mapGet m r e := by
  unfold mapGet mapSet
  split <;> simp [mapGet?_erase, mapGet?_put, h]

/-! ## The canonical form -/

/-- Rising keys as a chain on the keys. -/
theorem keysRise_iff (m : List (Nat × α)) : keysRise m = true ↔ (m.map Prod.fst).Pairwise (· < ·) := by
  induction m with
  | nil => simp [keysRise]
  | cons e t ih =>
    cases t with
    | nil => simp [keysRise]
    | cons b u =>
      simp only [keysRise, Bool.and_eq_true, decide_eq_true_eq, ih, List.map_cons, List.pairwise_cons]
      constructor
      · rintro ⟨h, h1, h2⟩
        refine ⟨?_, h1, h2⟩
        intro a ha
        rcases List.mem_cons.1 ha with rfl | ha
        · exact h
        · exact Nat.lt_trans h (h1 a ha)
      · rintro ⟨h, h1, h2⟩
        exact ⟨h _ (by simp), h1, h2⟩

theorem mapPut_keys (m : List (Nat × α)) (q : Nat) (v : α) (x : Nat) :
    x ∈ (mapPut m q v).map Prod.fst → x = q ∨ x ∈ m.map Prod.fst := by
  induction m with
  | nil => simp [mapPut]
  | cons e t ih =>
    obtain ⟨k, y⟩ := e
    simp only [mapPut]
    split
    · intro h
      rcases List.mem_cons.1 h with h | h
      · exact .inl h
      · exact .inr (List.mem_cons_of_mem _ h)
    · split
      · intro h
        rcases List.mem_cons.1 h with h | h
        · exact .inl h
        · exact .inr h
      · rw [List.map_cons, List.mem_cons]
        rintro (rfl | hx)
        · simp
        · rcases ih hx with rfl | h
          · exact .inl rfl
          · exact .inr (by simp only [List.map_cons, List.mem_cons]; exact .inr h)

theorem keysRise_put (m : List (Nat × α)) (q : Nat) (v : α) (h : keysRise m = true) : keysRise (mapPut m q v) = true := by
  rw [keysRise_iff] at *
  induction m with
  | nil => simp [mapPut]
  | cons e t ih =>
    obtain ⟨k, y⟩ := e
    simp only [List.map_cons, List.pairwise_cons] at h
    simp only [mapPut]
    split
    · rename_i hk; subst hk
      simpa using h
    · split
      · rename_i hk
        simp only [List.map_cons, List.pairwise_cons, List.mem_cons]
        refine ⟨?_, h⟩
        rintro a (rfl | ha)
        · exact hk
        · exact Nat.lt_trans hk (h.1 a ha)
      · simp only [List.map_cons, List.pairwise_cons]
        refine ⟨?_, ih h.2⟩
        intro a ha
        rcases mapPut_keys _ _ _ _ ha with rfl | ha
        · omega
        · exact h.1 a ha

theorem keysRise_filter (m : List (Nat × α)) (p : Nat × α → Bool) (h : keysRise m = true) : keysRise (m.filter p) = true := by
  rw [keysRise_iff] at *
  exact h.sublist (List.Sublist.map _ List.filter_sublist)

theorem keysRise_set [DecidableEq α] (m : List (Nat × α)) (q : Nat) (v d : α) (h : keysRise m = true) :
    keysRise (mapSet m q v d) = true := by
  unfold mapSet
  split
  · exact keysRise_filter _ _ h
  · exact keysRise_put _ _ _ h

/-- What a listed cell of a changed map is: the one put, or one of before. -/
theorem mem_put {m : List (Nat × α)} {q : Nat} {v : α} {e : Nat × α} (h : e ∈ mapPut m q v) : e = (q, v) ∨ e ∈ m := by
  induction m with
  | nil => simp [mapPut] at h; exact .inl h
  | cons x t ih =>
    obtain ⟨k, y⟩ := x
    simp only [mapPut] at h
    split at h
    · rcases List.mem_cons.1 h with h | h
      · exact .inl h
      · exact .inr (List.mem_cons_of_mem _ h)
    · split at h
      · rcases List.mem_cons.1 h with h | h
        · exact .inl h
        · exact .inr h
      · rcases List.mem_cons.1 h with h | h
        · exact .inr (h ▸ List.mem_cons_self)
        · rcases ih h with h | h
          · exact .inl h
          · exact .inr (List.mem_cons_of_mem _ h)

end Sys2Proof.Machine
end

