-- ==== Sys2Proof/Laws/State.lean ====
section
/-!
SUPPORT. Laws/State.lean: one lemma a field an update of State, true by rfl, so that no later proof unfolds a record update.
-/
namespace Sys2Proof.Machine

variable (s : State)

@[simp] theorem State.upd_pending_pending (v : List Instr) : ({ s with pending := v } : State).pending = v := rfl
@[simp] theorem State.upd_pending_freeCtr (v : List Instr) : ({ s with pending := v } : State).freeCtr = s.freeCtr := rfl
@[simp] theorem State.upd_pending_regs (v : List Instr) : ({ s with pending := v } : State).regs = s.regs := rfl
@[simp] theorem State.upd_pending_power (v : List Instr) : ({ s with pending := v } : State).power = s.power := rfl
@[simp] theorem State.upd_pending_fuse (v : List Instr) : ({ s with pending := v } : State).fuse = s.fuse := rfl
@[simp] theorem State.upd_pending_boot (v : List Instr) : ({ s with pending := v } : State).boot = s.boot := rfl
@[simp] theorem State.upd_pending_cfg (v : List Instr) : ({ s with pending := v } : State).cfg = s.cfg := rfl
@[simp] theorem State.upd_pending_image (v : List Instr) : ({ s with pending := v } : State).image = s.image := rfl
@[simp] theorem State.upd_pending_struct (v : List Instr) : ({ s with pending := v } : State).struct = s.struct := rfl
@[simp] theorem State.upd_pending_qm (v : List Instr) : ({ s with pending := v } : State).qm = s.qm := rfl
@[simp] theorem State.upd_pending_tamper (v : List Instr) : ({ s with pending := v } : State).tamper = s.tamper := rfl
@[simp] theorem State.upd_pending_fc (v : List Instr) : ({ s with pending := v } : State).fc = s.fc := rfl
@[simp] theorem State.upd_pending_drawbar (v : List Instr) : ({ s with pending := v } : State).drawbar = s.drawbar := rfl
@[simp] theorem State.upd_pending_ev (v : List Instr) : ({ s with pending := v } : State).ev = s.ev := rfl
@[simp] theorem State.upd_pending_irqSrc (v : List Instr) : ({ s with pending := v } : State).irqSrc = s.irqSrc := rfl
@[simp] theorem State.upd_pending_ks (v : List Instr) : ({ s with pending := v } : State).ks = s.ks := rfl
@[simp] theorem State.upd_pending_hbm (v : List Instr) : ({ s with pending := v } : State).hbm = s.hbm := rfl
@[simp] theorem State.upd_pending_quorum (v : List Instr) : ({ s with pending := v } : State).quorum = s.quorum := rfl
@[simp] theorem State.upd_pending_sciph (v : List Instr) : ({ s with pending := v } : State).sciph = s.sciph := rfl
@[simp] theorem State.upd_pending_spke (v : List Instr) : ({ s with pending := v } : State).spke = s.spke := rfl
@[simp] theorem State.upd_pending_pke (v : List Instr) : ({ s with pending := v } : State).pke = s.pke := rfl
@[simp] theorem State.upd_pending_mem (v : List Instr) : ({ s with pending := v } : State).mem = s.mem := rfl
@[simp] theorem State.upd_pending_cip (v : List Instr) : ({ s with pending := v } : State).cip = s.cip := rfl
@[simp] theorem State.upd_pending_rng (v : List Instr) : ({ s with pending := v } : State).rng = s.rng := rfl
@[simp] theorem State.upd_pending_hf (v : List Instr) : ({ s with pending := v } : State).hf = s.hf := rfl
@[simp] theorem State.upd_pending_led (v : List Instr) : ({ s with pending := v } : State).led = s.led := rfl
@[simp] theorem State.upd_pending_spdm (v : List Instr) : ({ s with pending := v } : State).spdm = s.spdm := rfl
@[simp] theorem State.upd_pending_mpu (v : List Instr) : ({ s with pending := v } : State).mpu = s.mpu := rfl
@[simp] theorem State.upd_pending_flash (v : List Instr) : ({ s with pending := v } : State).flash = s.flash := rfl
@[simp] theorem State.upd_pending_card0 (v : List Instr) : ({ s with pending := v } : State).card0 = s.card0 := rfl
@[simp] theorem State.upd_pending_card1 (v : List Instr) : ({ s with pending := v } : State).card1 = s.card1 := rfl
@[simp] theorem State.upd_pending_sdh (v : List Instr) : ({ s with pending := v } : State).sdh = s.sdh := rfl
@[simp] theorem State.upd_pending_tag (v : List Instr) : ({ s with pending := v } : State).tag = s.tag := rfl
@[simp] theorem State.upd_pending_dispSrc (v : List Instr) : ({ s with pending := v } : State).dispSrc = s.dispSrc := rfl
@[simp] theorem State.upd_pending_cluster (v : List Instr) : ({ s with pending := v } : State).cluster = s.cluster := rfl
@[simp] theorem State.upd_pending_warden (v : List Instr) : ({ s with pending := v } : State).warden = s.warden := rfl
@[simp] theorem State.upd_pending_disp (v : List Instr) : ({ s with pending := v } : State).disp = s.disp := rfl
@[simp] theorem State.upd_pending_wbuf (v : List Instr) : ({ s with pending := v } : State).wbuf = s.wbuf := rfl
@[simp] theorem State.upd_pending_arb (v : List Instr) : ({ s with pending := v } : State).arb = s.arb := rfl
@[simp] theorem State.upd_pending_test (v : List Instr) : ({ s with pending := v } : State).test = s.test := rfl
@[simp] theorem State.upd_pending_sb (v : List Instr) : ({ s with pending := v } : State).sb = s.sb := rfl
@[simp] theorem State.upd_pending_dbg (v : List Instr) : ({ s with pending := v } : State).dbg = s.dbg := rfl
@[simp] theorem State.upd_freeCtr_pending (v : Nat) : ({ s with freeCtr := v } : State).pending = s.pending := rfl
@[simp] theorem State.upd_freeCtr_freeCtr (v : Nat) : ({ s with freeCtr := v } : State).freeCtr = v := rfl
@[simp] theorem State.upd_freeCtr_regs (v : Nat) : ({ s with freeCtr := v } : State).regs = s.regs := rfl
@[simp] theorem State.upd_freeCtr_power (v : Nat) : ({ s with freeCtr := v } : State).power = s.power := rfl
@[simp] theorem State.upd_freeCtr_fuse (v : Nat) : ({ s with freeCtr := v } : State).fuse = s.fuse := rfl
@[simp] theorem State.upd_freeCtr_boot (v : Nat) : ({ s with freeCtr := v } : State).boot = s.boot := rfl
@[simp] theorem State.upd_freeCtr_cfg (v : Nat) : ({ s with freeCtr := v } : State).cfg = s.cfg := rfl
@[simp] theorem State.upd_freeCtr_image (v : Nat) : ({ s with freeCtr := v } : State).image = s.image := rfl
@[simp] theorem State.upd_freeCtr_struct (v : Nat) : ({ s with freeCtr := v } : State).struct = s.struct := rfl
@[simp] theorem State.upd_freeCtr_qm (v : Nat) : ({ s with freeCtr := v } : State).qm = s.qm := rfl
@[simp] theorem State.upd_freeCtr_tamper (v : Nat) : ({ s with freeCtr := v } : State).tamper = s.tamper := rfl
@[simp] theorem State.upd_freeCtr_fc (v : Nat) : ({ s with freeCtr := v } : State).fc = s.fc := rfl
@[simp] theorem State.upd_freeCtr_drawbar (v : Nat) : ({ s with freeCtr := v } : State).drawbar = s.drawbar := rfl
@[simp] theorem State.upd_freeCtr_ev (v : Nat) : ({ s with freeCtr := v } : State).ev = s.ev := rfl
@[simp] theorem State.upd_freeCtr_irqSrc (v : Nat) : ({ s with freeCtr := v } : State).irqSrc = s.irqSrc := rfl
@[simp] theorem State.upd_freeCtr_ks (v : Nat) : ({ s with freeCtr := v } : State).ks = s.ks := rfl
@[simp] theorem State.upd_freeCtr_hbm (v : Nat) : ({ s with freeCtr := v } : State).hbm = s.hbm := rfl
@[simp] theorem State.upd_freeCtr_quorum (v : Nat) : ({ s with freeCtr := v } : State).quorum = s.quorum := rfl
@[simp] theorem State.upd_freeCtr_sciph (v : Nat) : ({ s with freeCtr := v } : State).sciph = s.sciph := rfl
@[simp] theorem State.upd_freeCtr_spke (v : Nat) : ({ s with freeCtr := v } : State).spke = s.spke := rfl
@[simp] theorem State.upd_freeCtr_pke (v : Nat) : ({ s with freeCtr := v } : State).pke = s.pke := rfl
@[simp] theorem State.upd_freeCtr_mem (v : Nat) : ({ s with freeCtr := v } : State).mem = s.mem := rfl
@[simp] theorem State.upd_freeCtr_cip (v : Nat) : ({ s with freeCtr := v } : State).cip = s.cip := rfl
@[simp] theorem State.upd_freeCtr_rng (v : Nat) : ({ s with freeCtr := v } : State).rng = s.rng := rfl
@[simp] theorem State.upd_freeCtr_hf (v : Nat) : ({ s with freeCtr := v } : State).hf = s.hf := rfl
@[simp] theorem State.upd_freeCtr_led (v : Nat) : ({ s with freeCtr := v } : State).led = s.led := rfl
@[simp] theorem State.upd_freeCtr_spdm (v : Nat) : ({ s with freeCtr := v } : State).spdm = s.spdm := rfl
@[simp] theorem State.upd_freeCtr_mpu (v : Nat) : ({ s with freeCtr := v } : State).mpu = s.mpu := rfl
@[simp] theorem State.upd_freeCtr_flash (v : Nat) : ({ s with freeCtr := v } : State).flash = s.flash := rfl
@[simp] theorem State.upd_freeCtr_card0 (v : Nat) : ({ s with freeCtr := v } : State).card0 = s.card0 := rfl
@[simp] theorem State.upd_freeCtr_card1 (v : Nat) : ({ s with freeCtr := v } : State).card1 = s.card1 := rfl
@[simp] theorem State.upd_freeCtr_sdh (v : Nat) : ({ s with freeCtr := v } : State).sdh = s.sdh := rfl
@[simp] theorem State.upd_freeCtr_tag (v : Nat) : ({ s with freeCtr := v } : State).tag = s.tag := rfl
@[simp] theorem State.upd_freeCtr_dispSrc (v : Nat) : ({ s with freeCtr := v } : State).dispSrc = s.dispSrc := rfl
@[simp] theorem State.upd_freeCtr_cluster (v : Nat) : ({ s with freeCtr := v } : State).cluster = s.cluster := rfl
@[simp] theorem State.upd_freeCtr_warden (v : Nat) : ({ s with freeCtr := v } : State).warden = s.warden := rfl
@[simp] theorem State.upd_freeCtr_disp (v : Nat) : ({ s with freeCtr := v } : State).disp = s.disp := rfl
@[simp] theorem State.upd_freeCtr_wbuf (v : Nat) : ({ s with freeCtr := v } : State).wbuf = s.wbuf := rfl
@[simp] theorem State.upd_freeCtr_arb (v : Nat) : ({ s with freeCtr := v } : State).arb = s.arb := rfl
@[simp] theorem State.upd_freeCtr_test (v : Nat) : ({ s with freeCtr := v } : State).test = s.test := rfl
@[simp] theorem State.upd_freeCtr_sb (v : Nat) : ({ s with freeCtr := v } : State).sb = s.sb := rfl
@[simp] theorem State.upd_freeCtr_dbg (v : Nat) : ({ s with freeCtr := v } : State).dbg = s.dbg := rfl
@[simp] theorem State.upd_regs_pending (v : List (Nat × Nat)) : ({ s with regs := v } : State).pending = s.pending := rfl
@[simp] theorem State.upd_regs_freeCtr (v : List (Nat × Nat)) : ({ s with regs := v } : State).freeCtr = s.freeCtr := rfl
@[simp] theorem State.upd_regs_regs (v : List (Nat × Nat)) : ({ s with regs := v } : State).regs = v := rfl
@[simp] theorem State.upd_regs_power (v : List (Nat × Nat)) : ({ s with regs := v } : State).power = s.power := rfl
@[simp] theorem State.upd_regs_fuse (v : List (Nat × Nat)) : ({ s with regs := v } : State).fuse = s.fuse := rfl
@[simp] theorem State.upd_regs_boot (v : List (Nat × Nat)) : ({ s with regs := v } : State).boot = s.boot := rfl
@[simp] theorem State.upd_regs_cfg (v : List (Nat × Nat)) : ({ s with regs := v } : State).cfg = s.cfg := rfl
@[simp] theorem State.upd_regs_image (v : List (Nat × Nat)) : ({ s with regs := v } : State).image = s.image := rfl
@[simp] theorem State.upd_regs_struct (v : List (Nat × Nat)) : ({ s with regs := v } : State).struct = s.struct := rfl
@[simp] theorem State.upd_regs_qm (v : List (Nat × Nat)) : ({ s with regs := v } : State).qm = s.qm := rfl
@[simp] theorem State.upd_regs_tamper (v : List (Nat × Nat)) : ({ s with regs := v } : State).tamper = s.tamper := rfl
@[simp] theorem State.upd_regs_fc (v : List (Nat × Nat)) : ({ s with regs := v } : State).fc = s.fc := rfl
@[simp] theorem State.upd_regs_drawbar (v : List (Nat × Nat)) : ({ s with regs := v } : State).drawbar = s.drawbar := rfl
@[simp] theorem State.upd_regs_ev (v : List (Nat × Nat)) : ({ s with regs := v } : State).ev = s.ev := rfl
@[simp] theorem State.upd_regs_irqSrc (v : List (Nat × Nat)) : ({ s with regs := v } : State).irqSrc = s.irqSrc := rfl
@[simp] theorem State.upd_regs_ks (v : List (Nat × Nat)) : ({ s with regs := v } : State).ks = s.ks := rfl
@[simp] theorem State.upd_regs_hbm (v : List (Nat × Nat)) : ({ s with regs := v } : State).hbm = s.hbm := rfl
@[simp] theorem State.upd_regs_quorum (v : List (Nat × Nat)) : ({ s with regs := v } : State).quorum = s.quorum := rfl
@[simp] theorem State.upd_regs_sciph (v : List (Nat × Nat)) : ({ s with regs := v } : State).sciph = s.sciph := rfl
@[simp] theorem State.upd_regs_spke (v : List (Nat × Nat)) : ({ s with regs := v } : State).spke = s.spke := rfl
@[simp] theorem State.upd_regs_pke (v : List (Nat × Nat)) : ({ s with regs := v } : State).pke = s.pke := rfl
@[simp] theorem State.upd_regs_mem (v : List (Nat × Nat)) : ({ s with regs := v } : State).mem = s.mem := rfl
@[simp] theorem State.upd_regs_cip (v : List (Nat × Nat)) : ({ s with regs := v } : State).cip = s.cip := rfl
@[simp] theorem State.upd_regs_rng (v : List (Nat × Nat)) : ({ s with regs := v } : State).rng = s.rng := rfl
@[simp] theorem State.upd_regs_hf (v : List (Nat × Nat)) : ({ s with regs := v } : State).hf = s.hf := rfl
@[simp] theorem State.upd_regs_led (v : List (Nat × Nat)) : ({ s with regs := v } : State).led = s.led := rfl
@[simp] theorem State.upd_regs_spdm (v : List (Nat × Nat)) : ({ s with regs := v } : State).spdm = s.spdm := rfl
@[simp] theorem State.upd_regs_mpu (v : List (Nat × Nat)) : ({ s with regs := v } : State).mpu = s.mpu := rfl
@[simp] theorem State.upd_regs_flash (v : List (Nat × Nat)) : ({ s with regs := v } : State).flash = s.flash := rfl
@[simp] theorem State.upd_regs_card0 (v : List (Nat × Nat)) : ({ s with regs := v } : State).card0 = s.card0 := rfl
@[simp] theorem State.upd_regs_card1 (v : List (Nat × Nat)) : ({ s with regs := v } : State).card1 = s.card1 := rfl
@[simp] theorem State.upd_regs_sdh (v : List (Nat × Nat)) : ({ s with regs := v } : State).sdh = s.sdh := rfl
@[simp] theorem State.upd_regs_tag (v : List (Nat × Nat)) : ({ s with regs := v } : State).tag = s.tag := rfl
@[simp] theorem State.upd_regs_dispSrc (v : List (Nat × Nat)) : ({ s with regs := v } : State).dispSrc = s.dispSrc := rfl
@[simp] theorem State.upd_regs_cluster (v : List (Nat × Nat)) : ({ s with regs := v } : State).cluster = s.cluster := rfl
@[simp] theorem State.upd_regs_warden (v : List (Nat × Nat)) : ({ s with regs := v } : State).warden = s.warden := rfl
@[simp] theorem State.upd_regs_disp (v : List (Nat × Nat)) : ({ s with regs := v } : State).disp = s.disp := rfl
@[simp] theorem State.upd_regs_wbuf (v : List (Nat × Nat)) : ({ s with regs := v } : State).wbuf = s.wbuf := rfl
@[simp] theorem State.upd_regs_arb (v : List (Nat × Nat)) : ({ s with regs := v } : State).arb = s.arb := rfl
@[simp] theorem State.upd_regs_test (v : List (Nat × Nat)) : ({ s with regs := v } : State).test = s.test := rfl
@[simp] theorem State.upd_regs_sb (v : List (Nat × Nat)) : ({ s with regs := v } : State).sb = s.sb := rfl
@[simp] theorem State.upd_regs_dbg (v : List (Nat × Nat)) : ({ s with regs := v } : State).dbg = s.dbg := rfl
@[simp] theorem State.upd_power_pending (v : PowerState) : ({ s with power := v } : State).pending = s.pending := rfl
@[simp] theorem State.upd_power_freeCtr (v : PowerState) : ({ s with power := v } : State).freeCtr = s.freeCtr := rfl
@[simp] theorem State.upd_power_regs (v : PowerState) : ({ s with power := v } : State).regs = s.regs := rfl
@[simp] theorem State.upd_power_power (v : PowerState) : ({ s with power := v } : State).power = v := rfl
@[simp] theorem State.upd_power_fuse (v : PowerState) : ({ s with power := v } : State).fuse = s.fuse := rfl
@[simp] theorem State.upd_power_boot (v : PowerState) : ({ s with power := v } : State).boot = s.boot := rfl
@[simp] theorem State.upd_power_cfg (v : PowerState) : ({ s with power := v } : State).cfg = s.cfg := rfl
@[simp] theorem State.upd_power_image (v : PowerState) : ({ s with power := v } : State).image = s.image := rfl
@[simp] theorem State.upd_power_struct (v : PowerState) : ({ s with power := v } : State).struct = s.struct := rfl
@[simp] theorem State.upd_power_qm (v : PowerState) : ({ s with power := v } : State).qm = s.qm := rfl
@[simp] theorem State.upd_power_tamper (v : PowerState) : ({ s with power := v } : State).tamper = s.tamper := rfl
@[simp] theorem State.upd_power_fc (v : PowerState) : ({ s with power := v } : State).fc = s.fc := rfl
@[simp] theorem State.upd_power_drawbar (v : PowerState) : ({ s with power := v } : State).drawbar = s.drawbar := rfl
@[simp] theorem State.upd_power_ev (v : PowerState) : ({ s with power := v } : State).ev = s.ev := rfl
@[simp] theorem State.upd_power_irqSrc (v : PowerState) : ({ s with power := v } : State).irqSrc = s.irqSrc := rfl
@[simp] theorem State.upd_power_ks (v : PowerState) : ({ s with power := v } : State).ks = s.ks := rfl
@[simp] theorem State.upd_power_hbm (v : PowerState) : ({ s with power := v } : State).hbm = s.hbm := rfl
@[simp] theorem State.upd_power_quorum (v : PowerState) : ({ s with power := v } : State).quorum = s.quorum := rfl
@[simp] theorem State.upd_power_sciph (v : PowerState) : ({ s with power := v } : State).sciph = s.sciph := rfl
@[simp] theorem State.upd_power_spke (v : PowerState) : ({ s with power := v } : State).spke = s.spke := rfl
@[simp] theorem State.upd_power_pke (v : PowerState) : ({ s with power := v } : State).pke = s.pke := rfl
@[simp] theorem State.upd_power_mem (v : PowerState) : ({ s with power := v } : State).mem = s.mem := rfl
@[simp] theorem State.upd_power_cip (v : PowerState) : ({ s with power := v } : State).cip = s.cip := rfl
@[simp] theorem State.upd_power_rng (v : PowerState) : ({ s with power := v } : State).rng = s.rng := rfl
@[simp] theorem State.upd_power_hf (v : PowerState) : ({ s with power := v } : State).hf = s.hf := rfl
@[simp] theorem State.upd_power_led (v : PowerState) : ({ s with power := v } : State).led = s.led := rfl
@[simp] theorem State.upd_power_spdm (v : PowerState) : ({ s with power := v } : State).spdm = s.spdm := rfl
@[simp] theorem State.upd_power_mpu (v : PowerState) : ({ s with power := v } : State).mpu = s.mpu := rfl
@[simp] theorem State.upd_power_flash (v : PowerState) : ({ s with power := v } : State).flash = s.flash := rfl
@[simp] theorem State.upd_power_card0 (v : PowerState) : ({ s with power := v } : State).card0 = s.card0 := rfl
@[simp] theorem State.upd_power_card1 (v : PowerState) : ({ s with power := v } : State).card1 = s.card1 := rfl
@[simp] theorem State.upd_power_sdh (v : PowerState) : ({ s with power := v } : State).sdh = s.sdh := rfl
@[simp] theorem State.upd_power_tag (v : PowerState) : ({ s with power := v } : State).tag = s.tag := rfl
@[simp] theorem State.upd_power_dispSrc (v : PowerState) : ({ s with power := v } : State).dispSrc = s.dispSrc := rfl
@[simp] theorem State.upd_power_cluster (v : PowerState) : ({ s with power := v } : State).cluster = s.cluster := rfl
@[simp] theorem State.upd_power_warden (v : PowerState) : ({ s with power := v } : State).warden = s.warden := rfl
@[simp] theorem State.upd_power_disp (v : PowerState) : ({ s with power := v } : State).disp = s.disp := rfl
@[simp] theorem State.upd_power_wbuf (v : PowerState) : ({ s with power := v } : State).wbuf = s.wbuf := rfl
@[simp] theorem State.upd_power_arb (v : PowerState) : ({ s with power := v } : State).arb = s.arb := rfl
@[simp] theorem State.upd_power_test (v : PowerState) : ({ s with power := v } : State).test = s.test := rfl
@[simp] theorem State.upd_power_sb (v : PowerState) : ({ s with power := v } : State).sb = s.sb := rfl
@[simp] theorem State.upd_power_dbg (v : PowerState) : ({ s with power := v } : State).dbg = s.dbg := rfl
@[simp] theorem State.upd_fuse_pending (v : FuseState) : ({ s with fuse := v } : State).pending = s.pending := rfl
@[simp] theorem State.upd_fuse_freeCtr (v : FuseState) : ({ s with fuse := v } : State).freeCtr = s.freeCtr := rfl
@[simp] theorem State.upd_fuse_regs (v : FuseState) : ({ s with fuse := v } : State).regs = s.regs := rfl
@[simp] theorem State.upd_fuse_power (v : FuseState) : ({ s with fuse := v } : State).power = s.power := rfl
@[simp] theorem State.upd_fuse_fuse (v : FuseState) : ({ s with fuse := v } : State).fuse = v := rfl
@[simp] theorem State.upd_fuse_boot (v : FuseState) : ({ s with fuse := v } : State).boot = s.boot := rfl
@[simp] theorem State.upd_fuse_cfg (v : FuseState) : ({ s with fuse := v } : State).cfg = s.cfg := rfl
@[simp] theorem State.upd_fuse_image (v : FuseState) : ({ s with fuse := v } : State).image = s.image := rfl
@[simp] theorem State.upd_fuse_struct (v : FuseState) : ({ s with fuse := v } : State).struct = s.struct := rfl
@[simp] theorem State.upd_fuse_qm (v : FuseState) : ({ s with fuse := v } : State).qm = s.qm := rfl
@[simp] theorem State.upd_fuse_tamper (v : FuseState) : ({ s with fuse := v } : State).tamper = s.tamper := rfl
@[simp] theorem State.upd_fuse_fc (v : FuseState) : ({ s with fuse := v } : State).fc = s.fc := rfl
@[simp] theorem State.upd_fuse_drawbar (v : FuseState) : ({ s with fuse := v } : State).drawbar = s.drawbar := rfl
@[simp] theorem State.upd_fuse_ev (v : FuseState) : ({ s with fuse := v } : State).ev = s.ev := rfl
@[simp] theorem State.upd_fuse_irqSrc (v : FuseState) : ({ s with fuse := v } : State).irqSrc = s.irqSrc := rfl
@[simp] theorem State.upd_fuse_ks (v : FuseState) : ({ s with fuse := v } : State).ks = s.ks := rfl
@[simp] theorem State.upd_fuse_hbm (v : FuseState) : ({ s with fuse := v } : State).hbm = s.hbm := rfl
@[simp] theorem State.upd_fuse_quorum (v : FuseState) : ({ s with fuse := v } : State).quorum = s.quorum := rfl
@[simp] theorem State.upd_fuse_sciph (v : FuseState) : ({ s with fuse := v } : State).sciph = s.sciph := rfl
@[simp] theorem State.upd_fuse_spke (v : FuseState) : ({ s with fuse := v } : State).spke = s.spke := rfl
@[simp] theorem State.upd_fuse_pke (v : FuseState) : ({ s with fuse := v } : State).pke = s.pke := rfl
@[simp] theorem State.upd_fuse_mem (v : FuseState) : ({ s with fuse := v } : State).mem = s.mem := rfl
@[simp] theorem State.upd_fuse_cip (v : FuseState) : ({ s with fuse := v } : State).cip = s.cip := rfl
@[simp] theorem State.upd_fuse_rng (v : FuseState) : ({ s with fuse := v } : State).rng = s.rng := rfl
@[simp] theorem State.upd_fuse_hf (v : FuseState) : ({ s with fuse := v } : State).hf = s.hf := rfl
@[simp] theorem State.upd_fuse_led (v : FuseState) : ({ s with fuse := v } : State).led = s.led := rfl
@[simp] theorem State.upd_fuse_spdm (v : FuseState) : ({ s with fuse := v } : State).spdm = s.spdm := rfl
@[simp] theorem State.upd_fuse_mpu (v : FuseState) : ({ s with fuse := v } : State).mpu = s.mpu := rfl
@[simp] theorem State.upd_fuse_flash (v : FuseState) : ({ s with fuse := v } : State).flash = s.flash := rfl
@[simp] theorem State.upd_fuse_card0 (v : FuseState) : ({ s with fuse := v } : State).card0 = s.card0 := rfl
@[simp] theorem State.upd_fuse_card1 (v : FuseState) : ({ s with fuse := v } : State).card1 = s.card1 := rfl
@[simp] theorem State.upd_fuse_sdh (v : FuseState) : ({ s with fuse := v } : State).sdh = s.sdh := rfl
@[simp] theorem State.upd_fuse_tag (v : FuseState) : ({ s with fuse := v } : State).tag = s.tag := rfl
@[simp] theorem State.upd_fuse_dispSrc (v : FuseState) : ({ s with fuse := v } : State).dispSrc = s.dispSrc := rfl
@[simp] theorem State.upd_fuse_cluster (v : FuseState) : ({ s with fuse := v } : State).cluster = s.cluster := rfl
@[simp] theorem State.upd_fuse_warden (v : FuseState) : ({ s with fuse := v } : State).warden = s.warden := rfl
@[simp] theorem State.upd_fuse_disp (v : FuseState) : ({ s with fuse := v } : State).disp = s.disp := rfl
@[simp] theorem State.upd_fuse_wbuf (v : FuseState) : ({ s with fuse := v } : State).wbuf = s.wbuf := rfl
@[simp] theorem State.upd_fuse_arb (v : FuseState) : ({ s with fuse := v } : State).arb = s.arb := rfl
@[simp] theorem State.upd_fuse_test (v : FuseState) : ({ s with fuse := v } : State).test = s.test := rfl
@[simp] theorem State.upd_fuse_sb (v : FuseState) : ({ s with fuse := v } : State).sb = s.sb := rfl
@[simp] theorem State.upd_fuse_dbg (v : FuseState) : ({ s with fuse := v } : State).dbg = s.dbg := rfl
@[simp] theorem State.upd_boot_pending (v : BootState) : ({ s with boot := v } : State).pending = s.pending := rfl
@[simp] theorem State.upd_boot_freeCtr (v : BootState) : ({ s with boot := v } : State).freeCtr = s.freeCtr := rfl
@[simp] theorem State.upd_boot_regs (v : BootState) : ({ s with boot := v } : State).regs = s.regs := rfl
@[simp] theorem State.upd_boot_power (v : BootState) : ({ s with boot := v } : State).power = s.power := rfl
@[simp] theorem State.upd_boot_fuse (v : BootState) : ({ s with boot := v } : State).fuse = s.fuse := rfl
@[simp] theorem State.upd_boot_boot (v : BootState) : ({ s with boot := v } : State).boot = v := rfl
@[simp] theorem State.upd_boot_cfg (v : BootState) : ({ s with boot := v } : State).cfg = s.cfg := rfl
@[simp] theorem State.upd_boot_image (v : BootState) : ({ s with boot := v } : State).image = s.image := rfl
@[simp] theorem State.upd_boot_struct (v : BootState) : ({ s with boot := v } : State).struct = s.struct := rfl
@[simp] theorem State.upd_boot_qm (v : BootState) : ({ s with boot := v } : State).qm = s.qm := rfl
@[simp] theorem State.upd_boot_tamper (v : BootState) : ({ s with boot := v } : State).tamper = s.tamper := rfl
@[simp] theorem State.upd_boot_fc (v : BootState) : ({ s with boot := v } : State).fc = s.fc := rfl
@[simp] theorem State.upd_boot_drawbar (v : BootState) : ({ s with boot := v } : State).drawbar = s.drawbar := rfl
@[simp] theorem State.upd_boot_ev (v : BootState) : ({ s with boot := v } : State).ev = s.ev := rfl
@[simp] theorem State.upd_boot_irqSrc (v : BootState) : ({ s with boot := v } : State).irqSrc = s.irqSrc := rfl
@[simp] theorem State.upd_boot_ks (v : BootState) : ({ s with boot := v } : State).ks = s.ks := rfl
@[simp] theorem State.upd_boot_hbm (v : BootState) : ({ s with boot := v } : State).hbm = s.hbm := rfl
@[simp] theorem State.upd_boot_quorum (v : BootState) : ({ s with boot := v } : State).quorum = s.quorum := rfl
@[simp] theorem State.upd_boot_sciph (v : BootState) : ({ s with boot := v } : State).sciph = s.sciph := rfl
@[simp] theorem State.upd_boot_spke (v : BootState) : ({ s with boot := v } : State).spke = s.spke := rfl
@[simp] theorem State.upd_boot_pke (v : BootState) : ({ s with boot := v } : State).pke = s.pke := rfl
@[simp] theorem State.upd_boot_mem (v : BootState) : ({ s with boot := v } : State).mem = s.mem := rfl
@[simp] theorem State.upd_boot_cip (v : BootState) : ({ s with boot := v } : State).cip = s.cip := rfl
@[simp] theorem State.upd_boot_rng (v : BootState) : ({ s with boot := v } : State).rng = s.rng := rfl
@[simp] theorem State.upd_boot_hf (v : BootState) : ({ s with boot := v } : State).hf = s.hf := rfl
@[simp] theorem State.upd_boot_led (v : BootState) : ({ s with boot := v } : State).led = s.led := rfl
@[simp] theorem State.upd_boot_spdm (v : BootState) : ({ s with boot := v } : State).spdm = s.spdm := rfl
@[simp] theorem State.upd_boot_mpu (v : BootState) : ({ s with boot := v } : State).mpu = s.mpu := rfl
@[simp] theorem State.upd_boot_flash (v : BootState) : ({ s with boot := v } : State).flash = s.flash := rfl
@[simp] theorem State.upd_boot_card0 (v : BootState) : ({ s with boot := v } : State).card0 = s.card0 := rfl
@[simp] theorem State.upd_boot_card1 (v : BootState) : ({ s with boot := v } : State).card1 = s.card1 := rfl
@[simp] theorem State.upd_boot_sdh (v : BootState) : ({ s with boot := v } : State).sdh = s.sdh := rfl
@[simp] theorem State.upd_boot_tag (v : BootState) : ({ s with boot := v } : State).tag = s.tag := rfl
@[simp] theorem State.upd_boot_dispSrc (v : BootState) : ({ s with boot := v } : State).dispSrc = s.dispSrc := rfl
@[simp] theorem State.upd_boot_cluster (v : BootState) : ({ s with boot := v } : State).cluster = s.cluster := rfl
@[simp] theorem State.upd_boot_warden (v : BootState) : ({ s with boot := v } : State).warden = s.warden := rfl
@[simp] theorem State.upd_boot_disp (v : BootState) : ({ s with boot := v } : State).disp = s.disp := rfl
@[simp] theorem State.upd_boot_wbuf (v : BootState) : ({ s with boot := v } : State).wbuf = s.wbuf := rfl
@[simp] theorem State.upd_boot_arb (v : BootState) : ({ s with boot := v } : State).arb = s.arb := rfl
@[simp] theorem State.upd_boot_test (v : BootState) : ({ s with boot := v } : State).test = s.test := rfl
@[simp] theorem State.upd_boot_sb (v : BootState) : ({ s with boot := v } : State).sb = s.sb := rfl
@[simp] theorem State.upd_boot_dbg (v : BootState) : ({ s with boot := v } : State).dbg = s.dbg := rfl
@[simp] theorem State.upd_cfg_pending (v : CfgFlash) : ({ s with cfg := v } : State).pending = s.pending := rfl
@[simp] theorem State.upd_cfg_freeCtr (v : CfgFlash) : ({ s with cfg := v } : State).freeCtr = s.freeCtr := rfl
@[simp] theorem State.upd_cfg_regs (v : CfgFlash) : ({ s with cfg := v } : State).regs = s.regs := rfl
@[simp] theorem State.upd_cfg_power (v : CfgFlash) : ({ s with cfg := v } : State).power = s.power := rfl
@[simp] theorem State.upd_cfg_fuse (v : CfgFlash) : ({ s with cfg := v } : State).fuse = s.fuse := rfl
@[simp] theorem State.upd_cfg_boot (v : CfgFlash) : ({ s with cfg := v } : State).boot = s.boot := rfl
@[simp] theorem State.upd_cfg_cfg (v : CfgFlash) : ({ s with cfg := v } : State).cfg = v := rfl
@[simp] theorem State.upd_cfg_image (v : CfgFlash) : ({ s with cfg := v } : State).image = s.image := rfl
@[simp] theorem State.upd_cfg_struct (v : CfgFlash) : ({ s with cfg := v } : State).struct = s.struct := rfl
@[simp] theorem State.upd_cfg_qm (v : CfgFlash) : ({ s with cfg := v } : State).qm = s.qm := rfl
@[simp] theorem State.upd_cfg_tamper (v : CfgFlash) : ({ s with cfg := v } : State).tamper = s.tamper := rfl
@[simp] theorem State.upd_cfg_fc (v : CfgFlash) : ({ s with cfg := v } : State).fc = s.fc := rfl
@[simp] theorem State.upd_cfg_drawbar (v : CfgFlash) : ({ s with cfg := v } : State).drawbar = s.drawbar := rfl
@[simp] theorem State.upd_cfg_ev (v : CfgFlash) : ({ s with cfg := v } : State).ev = s.ev := rfl
@[simp] theorem State.upd_cfg_irqSrc (v : CfgFlash) : ({ s with cfg := v } : State).irqSrc = s.irqSrc := rfl
@[simp] theorem State.upd_cfg_ks (v : CfgFlash) : ({ s with cfg := v } : State).ks = s.ks := rfl
@[simp] theorem State.upd_cfg_hbm (v : CfgFlash) : ({ s with cfg := v } : State).hbm = s.hbm := rfl
@[simp] theorem State.upd_cfg_quorum (v : CfgFlash) : ({ s with cfg := v } : State).quorum = s.quorum := rfl
@[simp] theorem State.upd_cfg_sciph (v : CfgFlash) : ({ s with cfg := v } : State).sciph = s.sciph := rfl
@[simp] theorem State.upd_cfg_spke (v : CfgFlash) : ({ s with cfg := v } : State).spke = s.spke := rfl
@[simp] theorem State.upd_cfg_pke (v : CfgFlash) : ({ s with cfg := v } : State).pke = s.pke := rfl
@[simp] theorem State.upd_cfg_mem (v : CfgFlash) : ({ s with cfg := v } : State).mem = s.mem := rfl
@[simp] theorem State.upd_cfg_cip (v : CfgFlash) : ({ s with cfg := v } : State).cip = s.cip := rfl
@[simp] theorem State.upd_cfg_rng (v : CfgFlash) : ({ s with cfg := v } : State).rng = s.rng := rfl
@[simp] theorem State.upd_cfg_hf (v : CfgFlash) : ({ s with cfg := v } : State).hf = s.hf := rfl
@[simp] theorem State.upd_cfg_led (v : CfgFlash) : ({ s with cfg := v } : State).led = s.led := rfl
@[simp] theorem State.upd_cfg_spdm (v : CfgFlash) : ({ s with cfg := v } : State).spdm = s.spdm := rfl
@[simp] theorem State.upd_cfg_mpu (v : CfgFlash) : ({ s with cfg := v } : State).mpu = s.mpu := rfl
@[simp] theorem State.upd_cfg_flash (v : CfgFlash) : ({ s with cfg := v } : State).flash = s.flash := rfl
@[simp] theorem State.upd_cfg_card0 (v : CfgFlash) : ({ s with cfg := v } : State).card0 = s.card0 := rfl
@[simp] theorem State.upd_cfg_card1 (v : CfgFlash) : ({ s with cfg := v } : State).card1 = s.card1 := rfl
@[simp] theorem State.upd_cfg_sdh (v : CfgFlash) : ({ s with cfg := v } : State).sdh = s.sdh := rfl
@[simp] theorem State.upd_cfg_tag (v : CfgFlash) : ({ s with cfg := v } : State).tag = s.tag := rfl
@[simp] theorem State.upd_cfg_dispSrc (v : CfgFlash) : ({ s with cfg := v } : State).dispSrc = s.dispSrc := rfl
@[simp] theorem State.upd_cfg_cluster (v : CfgFlash) : ({ s with cfg := v } : State).cluster = s.cluster := rfl
@[simp] theorem State.upd_cfg_warden (v : CfgFlash) : ({ s with cfg := v } : State).warden = s.warden := rfl
@[simp] theorem State.upd_cfg_disp (v : CfgFlash) : ({ s with cfg := v } : State).disp = s.disp := rfl
@[simp] theorem State.upd_cfg_wbuf (v : CfgFlash) : ({ s with cfg := v } : State).wbuf = s.wbuf := rfl
@[simp] theorem State.upd_cfg_arb (v : CfgFlash) : ({ s with cfg := v } : State).arb = s.arb := rfl
@[simp] theorem State.upd_cfg_test (v : CfgFlash) : ({ s with cfg := v } : State).test = s.test := rfl
@[simp] theorem State.upd_cfg_sb (v : CfgFlash) : ({ s with cfg := v } : State).sb = s.sb := rfl
@[simp] theorem State.upd_cfg_dbg (v : CfgFlash) : ({ s with cfg := v } : State).dbg = s.dbg := rfl
@[simp] theorem State.upd_image_pending (v : Option Image) : ({ s with image := v } : State).pending = s.pending := rfl
@[simp] theorem State.upd_image_freeCtr (v : Option Image) : ({ s with image := v } : State).freeCtr = s.freeCtr := rfl
@[simp] theorem State.upd_image_regs (v : Option Image) : ({ s with image := v } : State).regs = s.regs := rfl
@[simp] theorem State.upd_image_power (v : Option Image) : ({ s with image := v } : State).power = s.power := rfl
@[simp] theorem State.upd_image_fuse (v : Option Image) : ({ s with image := v } : State).fuse = s.fuse := rfl
@[simp] theorem State.upd_image_boot (v : Option Image) : ({ s with image := v } : State).boot = s.boot := rfl
@[simp] theorem State.upd_image_cfg (v : Option Image) : ({ s with image := v } : State).cfg = s.cfg := rfl
@[simp] theorem State.upd_image_image (v : Option Image) : ({ s with image := v } : State).image = v := rfl
@[simp] theorem State.upd_image_struct (v : Option Image) : ({ s with image := v } : State).struct = s.struct := rfl
@[simp] theorem State.upd_image_qm (v : Option Image) : ({ s with image := v } : State).qm = s.qm := rfl
@[simp] theorem State.upd_image_tamper (v : Option Image) : ({ s with image := v } : State).tamper = s.tamper := rfl
@[simp] theorem State.upd_image_fc (v : Option Image) : ({ s with image := v } : State).fc = s.fc := rfl
@[simp] theorem State.upd_image_drawbar (v : Option Image) : ({ s with image := v } : State).drawbar = s.drawbar := rfl
@[simp] theorem State.upd_image_ev (v : Option Image) : ({ s with image := v } : State).ev = s.ev := rfl
@[simp] theorem State.upd_image_irqSrc (v : Option Image) : ({ s with image := v } : State).irqSrc = s.irqSrc := rfl
@[simp] theorem State.upd_image_ks (v : Option Image) : ({ s with image := v } : State).ks = s.ks := rfl
@[simp] theorem State.upd_image_hbm (v : Option Image) : ({ s with image := v } : State).hbm = s.hbm := rfl
@[simp] theorem State.upd_image_quorum (v : Option Image) : ({ s with image := v } : State).quorum = s.quorum := rfl
@[simp] theorem State.upd_image_sciph (v : Option Image) : ({ s with image := v } : State).sciph = s.sciph := rfl
@[simp] theorem State.upd_image_spke (v : Option Image) : ({ s with image := v } : State).spke = s.spke := rfl
@[simp] theorem State.upd_image_pke (v : Option Image) : ({ s with image := v } : State).pke = s.pke := rfl
@[simp] theorem State.upd_image_mem (v : Option Image) : ({ s with image := v } : State).mem = s.mem := rfl
@[simp] theorem State.upd_image_cip (v : Option Image) : ({ s with image := v } : State).cip = s.cip := rfl
@[simp] theorem State.upd_image_rng (v : Option Image) : ({ s with image := v } : State).rng = s.rng := rfl
@[simp] theorem State.upd_image_hf (v : Option Image) : ({ s with image := v } : State).hf = s.hf := rfl
@[simp] theorem State.upd_image_led (v : Option Image) : ({ s with image := v } : State).led = s.led := rfl
@[simp] theorem State.upd_image_spdm (v : Option Image) : ({ s with image := v } : State).spdm = s.spdm := rfl
@[simp] theorem State.upd_image_mpu (v : Option Image) : ({ s with image := v } : State).mpu = s.mpu := rfl
@[simp] theorem State.upd_image_flash (v : Option Image) : ({ s with image := v } : State).flash = s.flash := rfl
@[simp] theorem State.upd_image_card0 (v : Option Image) : ({ s with image := v } : State).card0 = s.card0 := rfl
@[simp] theorem State.upd_image_card1 (v : Option Image) : ({ s with image := v } : State).card1 = s.card1 := rfl
@[simp] theorem State.upd_image_sdh (v : Option Image) : ({ s with image := v } : State).sdh = s.sdh := rfl
@[simp] theorem State.upd_image_tag (v : Option Image) : ({ s with image := v } : State).tag = s.tag := rfl
@[simp] theorem State.upd_image_dispSrc (v : Option Image) : ({ s with image := v } : State).dispSrc = s.dispSrc := rfl
@[simp] theorem State.upd_image_cluster (v : Option Image) : ({ s with image := v } : State).cluster = s.cluster := rfl
@[simp] theorem State.upd_image_warden (v : Option Image) : ({ s with image := v } : State).warden = s.warden := rfl
@[simp] theorem State.upd_image_disp (v : Option Image) : ({ s with image := v } : State).disp = s.disp := rfl
@[simp] theorem State.upd_image_wbuf (v : Option Image) : ({ s with image := v } : State).wbuf = s.wbuf := rfl
@[simp] theorem State.upd_image_arb (v : Option Image) : ({ s with image := v } : State).arb = s.arb := rfl
@[simp] theorem State.upd_image_test (v : Option Image) : ({ s with image := v } : State).test = s.test := rfl
@[simp] theorem State.upd_image_sb (v : Option Image) : ({ s with image := v } : State).sb = s.sb := rfl
@[simp] theorem State.upd_image_dbg (v : Option Image) : ({ s with image := v } : State).dbg = s.dbg := rfl
@[simp] theorem State.upd_struct_pending (v : StructState) : ({ s with struct := v } : State).pending = s.pending := rfl
@[simp] theorem State.upd_struct_freeCtr (v : StructState) : ({ s with struct := v } : State).freeCtr = s.freeCtr := rfl
@[simp] theorem State.upd_struct_regs (v : StructState) : ({ s with struct := v } : State).regs = s.regs := rfl
@[simp] theorem State.upd_struct_power (v : StructState) : ({ s with struct := v } : State).power = s.power := rfl
@[simp] theorem State.upd_struct_fuse (v : StructState) : ({ s with struct := v } : State).fuse = s.fuse := rfl
@[simp] theorem State.upd_struct_boot (v : StructState) : ({ s with struct := v } : State).boot = s.boot := rfl
@[simp] theorem State.upd_struct_cfg (v : StructState) : ({ s with struct := v } : State).cfg = s.cfg := rfl
@[simp] theorem State.upd_struct_image (v : StructState) : ({ s with struct := v } : State).image = s.image := rfl
@[simp] theorem State.upd_struct_struct (v : StructState) : ({ s with struct := v } : State).struct = v := rfl
@[simp] theorem State.upd_struct_qm (v : StructState) : ({ s with struct := v } : State).qm = s.qm := rfl
@[simp] theorem State.upd_struct_tamper (v : StructState) : ({ s with struct := v } : State).tamper = s.tamper := rfl
@[simp] theorem State.upd_struct_fc (v : StructState) : ({ s with struct := v } : State).fc = s.fc := rfl
@[simp] theorem State.upd_struct_drawbar (v : StructState) : ({ s with struct := v } : State).drawbar = s.drawbar := rfl
@[simp] theorem State.upd_struct_ev (v : StructState) : ({ s with struct := v } : State).ev = s.ev := rfl
@[simp] theorem State.upd_struct_irqSrc (v : StructState) : ({ s with struct := v } : State).irqSrc = s.irqSrc := rfl
@[simp] theorem State.upd_struct_ks (v : StructState) : ({ s with struct := v } : State).ks = s.ks := rfl
@[simp] theorem State.upd_struct_hbm (v : StructState) : ({ s with struct := v } : State).hbm = s.hbm := rfl
@[simp] theorem State.upd_struct_quorum (v : StructState) : ({ s with struct := v } : State).quorum = s.quorum := rfl
@[simp] theorem State.upd_struct_sciph (v : StructState) : ({ s with struct := v } : State).sciph = s.sciph := rfl
@[simp] theorem State.upd_struct_spke (v : StructState) : ({ s with struct := v } : State).spke = s.spke := rfl
@[simp] theorem State.upd_struct_pke (v : StructState) : ({ s with struct := v } : State).pke = s.pke := rfl
@[simp] theorem State.upd_struct_mem (v : StructState) : ({ s with struct := v } : State).mem = s.mem := rfl
@[simp] theorem State.upd_struct_cip (v : StructState) : ({ s with struct := v } : State).cip = s.cip := rfl
@[simp] theorem State.upd_struct_rng (v : StructState) : ({ s with struct := v } : State).rng = s.rng := rfl
@[simp] theorem State.upd_struct_hf (v : StructState) : ({ s with struct := v } : State).hf = s.hf := rfl
@[simp] theorem State.upd_struct_led (v : StructState) : ({ s with struct := v } : State).led = s.led := rfl
@[simp] theorem State.upd_struct_spdm (v : StructState) : ({ s with struct := v } : State).spdm = s.spdm := rfl
@[simp] theorem State.upd_struct_mpu (v : StructState) : ({ s with struct := v } : State).mpu = s.mpu := rfl
@[simp] theorem State.upd_struct_flash (v : StructState) : ({ s with struct := v } : State).flash = s.flash := rfl
@[simp] theorem State.upd_struct_card0 (v : StructState) : ({ s with struct := v } : State).card0 = s.card0 := rfl
@[simp] theorem State.upd_struct_card1 (v : StructState) : ({ s with struct := v } : State).card1 = s.card1 := rfl
@[simp] theorem State.upd_struct_sdh (v : StructState) : ({ s with struct := v } : State).sdh = s.sdh := rfl
@[simp] theorem State.upd_struct_tag (v : StructState) : ({ s with struct := v } : State).tag = s.tag := rfl
@[simp] theorem State.upd_struct_dispSrc (v : StructState) : ({ s with struct := v } : State).dispSrc = s.dispSrc := rfl
@[simp] theorem State.upd_struct_cluster (v : StructState) : ({ s with struct := v } : State).cluster = s.cluster := rfl
@[simp] theorem State.upd_struct_warden (v : StructState) : ({ s with struct := v } : State).warden = s.warden := rfl
@[simp] theorem State.upd_struct_disp (v : StructState) : ({ s with struct := v } : State).disp = s.disp := rfl
@[simp] theorem State.upd_struct_wbuf (v : StructState) : ({ s with struct := v } : State).wbuf = s.wbuf := rfl
@[simp] theorem State.upd_struct_arb (v : StructState) : ({ s with struct := v } : State).arb = s.arb := rfl
@[simp] theorem State.upd_struct_test (v : StructState) : ({ s with struct := v } : State).test = s.test := rfl
@[simp] theorem State.upd_struct_sb (v : StructState) : ({ s with struct := v } : State).sb = s.sb := rfl
@[simp] theorem State.upd_struct_dbg (v : StructState) : ({ s with struct := v } : State).dbg = s.dbg := rfl
@[simp] theorem State.upd_qm_pending (v : QmState) : ({ s with qm := v } : State).pending = s.pending := rfl
@[simp] theorem State.upd_qm_freeCtr (v : QmState) : ({ s with qm := v } : State).freeCtr = s.freeCtr := rfl
@[simp] theorem State.upd_qm_regs (v : QmState) : ({ s with qm := v } : State).regs = s.regs := rfl
@[simp] theorem State.upd_qm_power (v : QmState) : ({ s with qm := v } : State).power = s.power := rfl
@[simp] theorem State.upd_qm_fuse (v : QmState) : ({ s with qm := v } : State).fuse = s.fuse := rfl
@[simp] theorem State.upd_qm_boot (v : QmState) : ({ s with qm := v } : State).boot = s.boot := rfl
@[simp] theorem State.upd_qm_cfg (v : QmState) : ({ s with qm := v } : State).cfg = s.cfg := rfl
@[simp] theorem State.upd_qm_image (v : QmState) : ({ s with qm := v } : State).image = s.image := rfl
@[simp] theorem State.upd_qm_struct (v : QmState) : ({ s with qm := v } : State).struct = s.struct := rfl
@[simp] theorem State.upd_qm_qm (v : QmState) : ({ s with qm := v } : State).qm = v := rfl
@[simp] theorem State.upd_qm_tamper (v : QmState) : ({ s with qm := v } : State).tamper = s.tamper := rfl
@[simp] theorem State.upd_qm_fc (v : QmState) : ({ s with qm := v } : State).fc = s.fc := rfl
@[simp] theorem State.upd_qm_drawbar (v : QmState) : ({ s with qm := v } : State).drawbar = s.drawbar := rfl
@[simp] theorem State.upd_qm_ev (v : QmState) : ({ s with qm := v } : State).ev = s.ev := rfl
@[simp] theorem State.upd_qm_irqSrc (v : QmState) : ({ s with qm := v } : State).irqSrc = s.irqSrc := rfl
@[simp] theorem State.upd_qm_ks (v : QmState) : ({ s with qm := v } : State).ks = s.ks := rfl
@[simp] theorem State.upd_qm_hbm (v : QmState) : ({ s with qm := v } : State).hbm = s.hbm := rfl
@[simp] theorem State.upd_qm_quorum (v : QmState) : ({ s with qm := v } : State).quorum = s.quorum := rfl
@[simp] theorem State.upd_qm_sciph (v : QmState) : ({ s with qm := v } : State).sciph = s.sciph := rfl
@[simp] theorem State.upd_qm_spke (v : QmState) : ({ s with qm := v } : State).spke = s.spke := rfl
@[simp] theorem State.upd_qm_pke (v : QmState) : ({ s with qm := v } : State).pke = s.pke := rfl
@[simp] theorem State.upd_qm_mem (v : QmState) : ({ s with qm := v } : State).mem = s.mem := rfl
@[simp] theorem State.upd_qm_cip (v : QmState) : ({ s with qm := v } : State).cip = s.cip := rfl
@[simp] theorem State.upd_qm_rng (v : QmState) : ({ s with qm := v } : State).rng = s.rng := rfl
@[simp] theorem State.upd_qm_hf (v : QmState) : ({ s with qm := v } : State).hf = s.hf := rfl
@[simp] theorem State.upd_qm_led (v : QmState) : ({ s with qm := v } : State).led = s.led := rfl
@[simp] theorem State.upd_qm_spdm (v : QmState) : ({ s with qm := v } : State).spdm = s.spdm := rfl
@[simp] theorem State.upd_qm_mpu (v : QmState) : ({ s with qm := v } : State).mpu = s.mpu := rfl
@[simp] theorem State.upd_qm_flash (v : QmState) : ({ s with qm := v } : State).flash = s.flash := rfl
@[simp] theorem State.upd_qm_card0 (v : QmState) : ({ s with qm := v } : State).card0 = s.card0 := rfl
@[simp] theorem State.upd_qm_card1 (v : QmState) : ({ s with qm := v } : State).card1 = s.card1 := rfl
@[simp] theorem State.upd_qm_sdh (v : QmState) : ({ s with qm := v } : State).sdh = s.sdh := rfl
@[simp] theorem State.upd_qm_tag (v : QmState) : ({ s with qm := v } : State).tag = s.tag := rfl
@[simp] theorem State.upd_qm_dispSrc (v : QmState) : ({ s with qm := v } : State).dispSrc = s.dispSrc := rfl
@[simp] theorem State.upd_qm_cluster (v : QmState) : ({ s with qm := v } : State).cluster = s.cluster := rfl
@[simp] theorem State.upd_qm_warden (v : QmState) : ({ s with qm := v } : State).warden = s.warden := rfl
@[simp] theorem State.upd_qm_disp (v : QmState) : ({ s with qm := v } : State).disp = s.disp := rfl
@[simp] theorem State.upd_qm_wbuf (v : QmState) : ({ s with qm := v } : State).wbuf = s.wbuf := rfl
@[simp] theorem State.upd_qm_arb (v : QmState) : ({ s with qm := v } : State).arb = s.arb := rfl
@[simp] theorem State.upd_qm_test (v : QmState) : ({ s with qm := v } : State).test = s.test := rfl
@[simp] theorem State.upd_qm_sb (v : QmState) : ({ s with qm := v } : State).sb = s.sb := rfl
@[simp] theorem State.upd_qm_dbg (v : QmState) : ({ s with qm := v } : State).dbg = s.dbg := rfl
@[simp] theorem State.upd_tamper_pending (v : TamperState) : ({ s with tamper := v } : State).pending = s.pending := rfl
@[simp] theorem State.upd_tamper_freeCtr (v : TamperState) : ({ s with tamper := v } : State).freeCtr = s.freeCtr := rfl
@[simp] theorem State.upd_tamper_regs (v : TamperState) : ({ s with tamper := v } : State).regs = s.regs := rfl
@[simp] theorem State.upd_tamper_power (v : TamperState) : ({ s with tamper := v } : State).power = s.power := rfl
@[simp] theorem State.upd_tamper_fuse (v : TamperState) : ({ s with tamper := v } : State).fuse = s.fuse := rfl
@[simp] theorem State.upd_tamper_boot (v : TamperState) : ({ s with tamper := v } : State).boot = s.boot := rfl
@[simp] theorem State.upd_tamper_cfg (v : TamperState) : ({ s with tamper := v } : State).cfg = s.cfg := rfl
@[simp] theorem State.upd_tamper_image (v : TamperState) : ({ s with tamper := v } : State).image = s.image := rfl
@[simp] theorem State.upd_tamper_struct (v : TamperState) : ({ s with tamper := v } : State).struct = s.struct := rfl
@[simp] theorem State.upd_tamper_qm (v : TamperState) : ({ s with tamper := v } : State).qm = s.qm := rfl
@[simp] theorem State.upd_tamper_tamper (v : TamperState) : ({ s with tamper := v } : State).tamper = v := rfl
@[simp] theorem State.upd_tamper_fc (v : TamperState) : ({ s with tamper := v } : State).fc = s.fc := rfl
@[simp] theorem State.upd_tamper_drawbar (v : TamperState) : ({ s with tamper := v } : State).drawbar = s.drawbar := rfl
@[simp] theorem State.upd_tamper_ev (v : TamperState) : ({ s with tamper := v } : State).ev = s.ev := rfl
@[simp] theorem State.upd_tamper_irqSrc (v : TamperState) : ({ s with tamper := v } : State).irqSrc = s.irqSrc := rfl
@[simp] theorem State.upd_tamper_ks (v : TamperState) : ({ s with tamper := v } : State).ks = s.ks := rfl
@[simp] theorem State.upd_tamper_hbm (v : TamperState) : ({ s with tamper := v } : State).hbm = s.hbm := rfl
@[simp] theorem State.upd_tamper_quorum (v : TamperState) : ({ s with tamper := v } : State).quorum = s.quorum := rfl
@[simp] theorem State.upd_tamper_sciph (v : TamperState) : ({ s with tamper := v } : State).sciph = s.sciph := rfl
@[simp] theorem State.upd_tamper_spke (v : TamperState) : ({ s with tamper := v } : State).spke = s.spke := rfl
@[simp] theorem State.upd_tamper_pke (v : TamperState) : ({ s with tamper := v } : State).pke = s.pke := rfl
@[simp] theorem State.upd_tamper_mem (v : TamperState) : ({ s with tamper := v } : State).mem = s.mem := rfl
@[simp] theorem State.upd_tamper_cip (v : TamperState) : ({ s with tamper := v } : State).cip = s.cip := rfl
@[simp] theorem State.upd_tamper_rng (v : TamperState) : ({ s with tamper := v } : State).rng = s.rng := rfl
@[simp] theorem State.upd_tamper_hf (v : TamperState) : ({ s with tamper := v } : State).hf = s.hf := rfl
@[simp] theorem State.upd_tamper_led (v : TamperState) : ({ s with tamper := v } : State).led = s.led := rfl
@[simp] theorem State.upd_tamper_spdm (v : TamperState) : ({ s with tamper := v } : State).spdm = s.spdm := rfl
@[simp] theorem State.upd_tamper_mpu (v : TamperState) : ({ s with tamper := v } : State).mpu = s.mpu := rfl
@[simp] theorem State.upd_tamper_flash (v : TamperState) : ({ s with tamper := v } : State).flash = s.flash := rfl
@[simp] theorem State.upd_tamper_card0 (v : TamperState) : ({ s with tamper := v } : State).card0 = s.card0 := rfl
@[simp] theorem State.upd_tamper_card1 (v : TamperState) : ({ s with tamper := v } : State).card1 = s.card1 := rfl
@[simp] theorem State.upd_tamper_sdh (v : TamperState) : ({ s with tamper := v } : State).sdh = s.sdh := rfl
@[simp] theorem State.upd_tamper_tag (v : TamperState) : ({ s with tamper := v } : State).tag = s.tag := rfl
@[simp] theorem State.upd_tamper_dispSrc (v : TamperState) : ({ s with tamper := v } : State).dispSrc = s.dispSrc := rfl
@[simp] theorem State.upd_tamper_cluster (v : TamperState) : ({ s with tamper := v } : State).cluster = s.cluster := rfl
@[simp] theorem State.upd_tamper_warden (v : TamperState) : ({ s with tamper := v } : State).warden = s.warden := rfl
@[simp] theorem State.upd_tamper_disp (v : TamperState) : ({ s with tamper := v } : State).disp = s.disp := rfl
@[simp] theorem State.upd_tamper_wbuf (v : TamperState) : ({ s with tamper := v } : State).wbuf = s.wbuf := rfl
@[simp] theorem State.upd_tamper_arb (v : TamperState) : ({ s with tamper := v } : State).arb = s.arb := rfl
@[simp] theorem State.upd_tamper_test (v : TamperState) : ({ s with tamper := v } : State).test = s.test := rfl
@[simp] theorem State.upd_tamper_sb (v : TamperState) : ({ s with tamper := v } : State).sb = s.sb := rfl
@[simp] theorem State.upd_tamper_dbg (v : TamperState) : ({ s with tamper := v } : State).dbg = s.dbg := rfl
@[simp] theorem State.upd_fc_pending (v : FaultState) : ({ s with fc := v } : State).pending = s.pending := rfl
@[simp] theorem State.upd_fc_freeCtr (v : FaultState) : ({ s with fc := v } : State).freeCtr = s.freeCtr := rfl
@[simp] theorem State.upd_fc_regs (v : FaultState) : ({ s with fc := v } : State).regs = s.regs := rfl
@[simp] theorem State.upd_fc_power (v : FaultState) : ({ s with fc := v } : State).power = s.power := rfl
@[simp] theorem State.upd_fc_fuse (v : FaultState) : ({ s with fc := v } : State).fuse = s.fuse := rfl
@[simp] theorem State.upd_fc_boot (v : FaultState) : ({ s with fc := v } : State).boot = s.boot := rfl
@[simp] theorem State.upd_fc_cfg (v : FaultState) : ({ s with fc := v } : State).cfg = s.cfg := rfl
@[simp] theorem State.upd_fc_image (v : FaultState) : ({ s with fc := v } : State).image = s.image := rfl
@[simp] theorem State.upd_fc_struct (v : FaultState) : ({ s with fc := v } : State).struct = s.struct := rfl
@[simp] theorem State.upd_fc_qm (v : FaultState) : ({ s with fc := v } : State).qm = s.qm := rfl
@[simp] theorem State.upd_fc_tamper (v : FaultState) : ({ s with fc := v } : State).tamper = s.tamper := rfl
@[simp] theorem State.upd_fc_fc (v : FaultState) : ({ s with fc := v } : State).fc = v := rfl
@[simp] theorem State.upd_fc_drawbar (v : FaultState) : ({ s with fc := v } : State).drawbar = s.drawbar := rfl
@[simp] theorem State.upd_fc_ev (v : FaultState) : ({ s with fc := v } : State).ev = s.ev := rfl
@[simp] theorem State.upd_fc_irqSrc (v : FaultState) : ({ s with fc := v } : State).irqSrc = s.irqSrc := rfl
@[simp] theorem State.upd_fc_ks (v : FaultState) : ({ s with fc := v } : State).ks = s.ks := rfl
@[simp] theorem State.upd_fc_hbm (v : FaultState) : ({ s with fc := v } : State).hbm = s.hbm := rfl
@[simp] theorem State.upd_fc_quorum (v : FaultState) : ({ s with fc := v } : State).quorum = s.quorum := rfl
@[simp] theorem State.upd_fc_sciph (v : FaultState) : ({ s with fc := v } : State).sciph = s.sciph := rfl
@[simp] theorem State.upd_fc_spke (v : FaultState) : ({ s with fc := v } : State).spke = s.spke := rfl
@[simp] theorem State.upd_fc_pke (v : FaultState) : ({ s with fc := v } : State).pke = s.pke := rfl
@[simp] theorem State.upd_fc_mem (v : FaultState) : ({ s with fc := v } : State).mem = s.mem := rfl
@[simp] theorem State.upd_fc_cip (v : FaultState) : ({ s with fc := v } : State).cip = s.cip := rfl
@[simp] theorem State.upd_fc_rng (v : FaultState) : ({ s with fc := v } : State).rng = s.rng := rfl
@[simp] theorem State.upd_fc_hf (v : FaultState) : ({ s with fc := v } : State).hf = s.hf := rfl
@[simp] theorem State.upd_fc_led (v : FaultState) : ({ s with fc := v } : State).led = s.led := rfl
@[simp] theorem State.upd_fc_spdm (v : FaultState) : ({ s with fc := v } : State).spdm = s.spdm := rfl
@[simp] theorem State.upd_fc_mpu (v : FaultState) : ({ s with fc := v } : State).mpu = s.mpu := rfl
@[simp] theorem State.upd_fc_flash (v : FaultState) : ({ s with fc := v } : State).flash = s.flash := rfl
@[simp] theorem State.upd_fc_card0 (v : FaultState) : ({ s with fc := v } : State).card0 = s.card0 := rfl
@[simp] theorem State.upd_fc_card1 (v : FaultState) : ({ s with fc := v } : State).card1 = s.card1 := rfl
@[simp] theorem State.upd_fc_sdh (v : FaultState) : ({ s with fc := v } : State).sdh = s.sdh := rfl
@[simp] theorem State.upd_fc_tag (v : FaultState) : ({ s with fc := v } : State).tag = s.tag := rfl
@[simp] theorem State.upd_fc_dispSrc (v : FaultState) : ({ s with fc := v } : State).dispSrc = s.dispSrc := rfl
@[simp] theorem State.upd_fc_cluster (v : FaultState) : ({ s with fc := v } : State).cluster = s.cluster := rfl
@[simp] theorem State.upd_fc_warden (v : FaultState) : ({ s with fc := v } : State).warden = s.warden := rfl
@[simp] theorem State.upd_fc_disp (v : FaultState) : ({ s with fc := v } : State).disp = s.disp := rfl
@[simp] theorem State.upd_fc_wbuf (v : FaultState) : ({ s with fc := v } : State).wbuf = s.wbuf := rfl
@[simp] theorem State.upd_fc_arb (v : FaultState) : ({ s with fc := v } : State).arb = s.arb := rfl
@[simp] theorem State.upd_fc_test (v : FaultState) : ({ s with fc := v } : State).test = s.test := rfl
@[simp] theorem State.upd_fc_sb (v : FaultState) : ({ s with fc := v } : State).sb = s.sb := rfl
@[simp] theorem State.upd_fc_dbg (v : FaultState) : ({ s with fc := v } : State).dbg = s.dbg := rfl
@[simp] theorem State.upd_drawbar_pending (v : Drawbar) : ({ s with drawbar := v } : State).pending = s.pending := rfl
@[simp] theorem State.upd_drawbar_freeCtr (v : Drawbar) : ({ s with drawbar := v } : State).freeCtr = s.freeCtr := rfl
@[simp] theorem State.upd_drawbar_regs (v : Drawbar) : ({ s with drawbar := v } : State).regs = s.regs := rfl
@[simp] theorem State.upd_drawbar_power (v : Drawbar) : ({ s with drawbar := v } : State).power = s.power := rfl
@[simp] theorem State.upd_drawbar_fuse (v : Drawbar) : ({ s with drawbar := v } : State).fuse = s.fuse := rfl
@[simp] theorem State.upd_drawbar_boot (v : Drawbar) : ({ s with drawbar := v } : State).boot = s.boot := rfl
@[simp] theorem State.upd_drawbar_cfg (v : Drawbar) : ({ s with drawbar := v } : State).cfg = s.cfg := rfl
@[simp] theorem State.upd_drawbar_image (v : Drawbar) : ({ s with drawbar := v } : State).image = s.image := rfl
@[simp] theorem State.upd_drawbar_struct (v : Drawbar) : ({ s with drawbar := v } : State).struct = s.struct := rfl
@[simp] theorem State.upd_drawbar_qm (v : Drawbar) : ({ s with drawbar := v } : State).qm = s.qm := rfl
@[simp] theorem State.upd_drawbar_tamper (v : Drawbar) : ({ s with drawbar := v } : State).tamper = s.tamper := rfl
@[simp] theorem State.upd_drawbar_fc (v : Drawbar) : ({ s with drawbar := v } : State).fc = s.fc := rfl
@[simp] theorem State.upd_drawbar_drawbar (v : Drawbar) : ({ s with drawbar := v } : State).drawbar = v := rfl
@[simp] theorem State.upd_drawbar_ev (v : Drawbar) : ({ s with drawbar := v } : State).ev = s.ev := rfl
@[simp] theorem State.upd_drawbar_irqSrc (v : Drawbar) : ({ s with drawbar := v } : State).irqSrc = s.irqSrc := rfl
@[simp] theorem State.upd_drawbar_ks (v : Drawbar) : ({ s with drawbar := v } : State).ks = s.ks := rfl
@[simp] theorem State.upd_drawbar_hbm (v : Drawbar) : ({ s with drawbar := v } : State).hbm = s.hbm := rfl
@[simp] theorem State.upd_drawbar_quorum (v : Drawbar) : ({ s with drawbar := v } : State).quorum = s.quorum := rfl
@[simp] theorem State.upd_drawbar_sciph (v : Drawbar) : ({ s with drawbar := v } : State).sciph = s.sciph := rfl
@[simp] theorem State.upd_drawbar_spke (v : Drawbar) : ({ s with drawbar := v } : State).spke = s.spke := rfl
@[simp] theorem State.upd_drawbar_pke (v : Drawbar) : ({ s with drawbar := v } : State).pke = s.pke := rfl
@[simp] theorem State.upd_drawbar_mem (v : Drawbar) : ({ s with drawbar := v } : State).mem = s.mem := rfl
@[simp] theorem State.upd_drawbar_cip (v : Drawbar) : ({ s with drawbar := v } : State).cip = s.cip := rfl
@[simp] theorem State.upd_drawbar_rng (v : Drawbar) : ({ s with drawbar := v } : State).rng = s.rng := rfl
@[simp] theorem State.upd_drawbar_hf (v : Drawbar) : ({ s with drawbar := v } : State).hf = s.hf := rfl
@[simp] theorem State.upd_drawbar_led (v : Drawbar) : ({ s with drawbar := v } : State).led = s.led := rfl
@[simp] theorem State.upd_drawbar_spdm (v : Drawbar) : ({ s with drawbar := v } : State).spdm = s.spdm := rfl
@[simp] theorem State.upd_drawbar_mpu (v : Drawbar) : ({ s with drawbar := v } : State).mpu = s.mpu := rfl
@[simp] theorem State.upd_drawbar_flash (v : Drawbar) : ({ s with drawbar := v } : State).flash = s.flash := rfl
@[simp] theorem State.upd_drawbar_card0 (v : Drawbar) : ({ s with drawbar := v } : State).card0 = s.card0 := rfl
@[simp] theorem State.upd_drawbar_card1 (v : Drawbar) : ({ s with drawbar := v } : State).card1 = s.card1 := rfl
@[simp] theorem State.upd_drawbar_sdh (v : Drawbar) : ({ s with drawbar := v } : State).sdh = s.sdh := rfl
@[simp] theorem State.upd_drawbar_tag (v : Drawbar) : ({ s with drawbar := v } : State).tag = s.tag := rfl
@[simp] theorem State.upd_drawbar_dispSrc (v : Drawbar) : ({ s with drawbar := v } : State).dispSrc = s.dispSrc := rfl
@[simp] theorem State.upd_drawbar_cluster (v : Drawbar) : ({ s with drawbar := v } : State).cluster = s.cluster := rfl
@[simp] theorem State.upd_drawbar_warden (v : Drawbar) : ({ s with drawbar := v } : State).warden = s.warden := rfl
@[simp] theorem State.upd_drawbar_disp (v : Drawbar) : ({ s with drawbar := v } : State).disp = s.disp := rfl
@[simp] theorem State.upd_drawbar_wbuf (v : Drawbar) : ({ s with drawbar := v } : State).wbuf = s.wbuf := rfl
@[simp] theorem State.upd_drawbar_arb (v : Drawbar) : ({ s with drawbar := v } : State).arb = s.arb := rfl
@[simp] theorem State.upd_drawbar_test (v : Drawbar) : ({ s with drawbar := v } : State).test = s.test := rfl
@[simp] theorem State.upd_drawbar_sb (v : Drawbar) : ({ s with drawbar := v } : State).sb = s.sb := rfl
@[simp] theorem State.upd_drawbar_dbg (v : Drawbar) : ({ s with drawbar := v } : State).dbg = s.dbg := rfl
@[simp] theorem State.upd_ev_pending (v : EvState) : ({ s with ev := v } : State).pending = s.pending := rfl
@[simp] theorem State.upd_ev_freeCtr (v : EvState) : ({ s with ev := v } : State).freeCtr = s.freeCtr := rfl
@[simp] theorem State.upd_ev_regs (v : EvState) : ({ s with ev := v } : State).regs = s.regs := rfl
@[simp] theorem State.upd_ev_power (v : EvState) : ({ s with ev := v } : State).power = s.power := rfl
@[simp] theorem State.upd_ev_fuse (v : EvState) : ({ s with ev := v } : State).fuse = s.fuse := rfl
@[simp] theorem State.upd_ev_boot (v : EvState) : ({ s with ev := v } : State).boot = s.boot := rfl
@[simp] theorem State.upd_ev_cfg (v : EvState) : ({ s with ev := v } : State).cfg = s.cfg := rfl
@[simp] theorem State.upd_ev_image (v : EvState) : ({ s with ev := v } : State).image = s.image := rfl
@[simp] theorem State.upd_ev_struct (v : EvState) : ({ s with ev := v } : State).struct = s.struct := rfl
@[simp] theorem State.upd_ev_qm (v : EvState) : ({ s with ev := v } : State).qm = s.qm := rfl
@[simp] theorem State.upd_ev_tamper (v : EvState) : ({ s with ev := v } : State).tamper = s.tamper := rfl
@[simp] theorem State.upd_ev_fc (v : EvState) : ({ s with ev := v } : State).fc = s.fc := rfl
@[simp] theorem State.upd_ev_drawbar (v : EvState) : ({ s with ev := v } : State).drawbar = s.drawbar := rfl
@[simp] theorem State.upd_ev_ev (v : EvState) : ({ s with ev := v } : State).ev = v := rfl
@[simp] theorem State.upd_ev_irqSrc (v : EvState) : ({ s with ev := v } : State).irqSrc = s.irqSrc := rfl
@[simp] theorem State.upd_ev_ks (v : EvState) : ({ s with ev := v } : State).ks = s.ks := rfl
@[simp] theorem State.upd_ev_hbm (v : EvState) : ({ s with ev := v } : State).hbm = s.hbm := rfl
@[simp] theorem State.upd_ev_quorum (v : EvState) : ({ s with ev := v } : State).quorum = s.quorum := rfl
@[simp] theorem State.upd_ev_sciph (v : EvState) : ({ s with ev := v } : State).sciph = s.sciph := rfl
@[simp] theorem State.upd_ev_spke (v : EvState) : ({ s with ev := v } : State).spke = s.spke := rfl
@[simp] theorem State.upd_ev_pke (v : EvState) : ({ s with ev := v } : State).pke = s.pke := rfl
@[simp] theorem State.upd_ev_mem (v : EvState) : ({ s with ev := v } : State).mem = s.mem := rfl
@[simp] theorem State.upd_ev_cip (v : EvState) : ({ s with ev := v } : State).cip = s.cip := rfl
@[simp] theorem State.upd_ev_rng (v : EvState) : ({ s with ev := v } : State).rng = s.rng := rfl
@[simp] theorem State.upd_ev_hf (v : EvState) : ({ s with ev := v } : State).hf = s.hf := rfl
@[simp] theorem State.upd_ev_led (v : EvState) : ({ s with ev := v } : State).led = s.led := rfl
@[simp] theorem State.upd_ev_spdm (v : EvState) : ({ s with ev := v } : State).spdm = s.spdm := rfl
@[simp] theorem State.upd_ev_mpu (v : EvState) : ({ s with ev := v } : State).mpu = s.mpu := rfl
@[simp] theorem State.upd_ev_flash (v : EvState) : ({ s with ev := v } : State).flash = s.flash := rfl
@[simp] theorem State.upd_ev_card0 (v : EvState) : ({ s with ev := v } : State).card0 = s.card0 := rfl
@[simp] theorem State.upd_ev_card1 (v : EvState) : ({ s with ev := v } : State).card1 = s.card1 := rfl
@[simp] theorem State.upd_ev_sdh (v : EvState) : ({ s with ev := v } : State).sdh = s.sdh := rfl
@[simp] theorem State.upd_ev_tag (v : EvState) : ({ s with ev := v } : State).tag = s.tag := rfl
@[simp] theorem State.upd_ev_dispSrc (v : EvState) : ({ s with ev := v } : State).dispSrc = s.dispSrc := rfl
@[simp] theorem State.upd_ev_cluster (v : EvState) : ({ s with ev := v } : State).cluster = s.cluster := rfl
@[simp] theorem State.upd_ev_warden (v : EvState) : ({ s with ev := v } : State).warden = s.warden := rfl
@[simp] theorem State.upd_ev_disp (v : EvState) : ({ s with ev := v } : State).disp = s.disp := rfl
@[simp] theorem State.upd_ev_wbuf (v : EvState) : ({ s with ev := v } : State).wbuf = s.wbuf := rfl
@[simp] theorem State.upd_ev_arb (v : EvState) : ({ s with ev := v } : State).arb = s.arb := rfl
@[simp] theorem State.upd_ev_test (v : EvState) : ({ s with ev := v } : State).test = s.test := rfl
@[simp] theorem State.upd_ev_sb (v : EvState) : ({ s with ev := v } : State).sb = s.sb := rfl
@[simp] theorem State.upd_ev_dbg (v : EvState) : ({ s with ev := v } : State).dbg = s.dbg := rfl
@[simp] theorem State.upd_irqSrc_pending (v : BitVec 64) : ({ s with irqSrc := v } : State).pending = s.pending := rfl
@[simp] theorem State.upd_irqSrc_freeCtr (v : BitVec 64) : ({ s with irqSrc := v } : State).freeCtr = s.freeCtr := rfl
@[simp] theorem State.upd_irqSrc_regs (v : BitVec 64) : ({ s with irqSrc := v } : State).regs = s.regs := rfl
@[simp] theorem State.upd_irqSrc_power (v : BitVec 64) : ({ s with irqSrc := v } : State).power = s.power := rfl
@[simp] theorem State.upd_irqSrc_fuse (v : BitVec 64) : ({ s with irqSrc := v } : State).fuse = s.fuse := rfl
@[simp] theorem State.upd_irqSrc_boot (v : BitVec 64) : ({ s with irqSrc := v } : State).boot = s.boot := rfl
@[simp] theorem State.upd_irqSrc_cfg (v : BitVec 64) : ({ s with irqSrc := v } : State).cfg = s.cfg := rfl
@[simp] theorem State.upd_irqSrc_image (v : BitVec 64) : ({ s with irqSrc := v } : State).image = s.image := rfl
@[simp] theorem State.upd_irqSrc_struct (v : BitVec 64) : ({ s with irqSrc := v } : State).struct = s.struct := rfl
@[simp] theorem State.upd_irqSrc_qm (v : BitVec 64) : ({ s with irqSrc := v } : State).qm = s.qm := rfl
@[simp] theorem State.upd_irqSrc_tamper (v : BitVec 64) : ({ s with irqSrc := v } : State).tamper = s.tamper := rfl
@[simp] theorem State.upd_irqSrc_fc (v : BitVec 64) : ({ s with irqSrc := v } : State).fc = s.fc := rfl
@[simp] theorem State.upd_irqSrc_drawbar (v : BitVec 64) : ({ s with irqSrc := v } : State).drawbar = s.drawbar := rfl
@[simp] theorem State.upd_irqSrc_ev (v : BitVec 64) : ({ s with irqSrc := v } : State).ev = s.ev := rfl
@[simp] theorem State.upd_irqSrc_irqSrc (v : BitVec 64) : ({ s with irqSrc := v } : State).irqSrc = v := rfl
@[simp] theorem State.upd_irqSrc_ks (v : BitVec 64) : ({ s with irqSrc := v } : State).ks = s.ks := rfl
@[simp] theorem State.upd_irqSrc_hbm (v : BitVec 64) : ({ s with irqSrc := v } : State).hbm = s.hbm := rfl
@[simp] theorem State.upd_irqSrc_quorum (v : BitVec 64) : ({ s with irqSrc := v } : State).quorum = s.quorum := rfl
@[simp] theorem State.upd_irqSrc_sciph (v : BitVec 64) : ({ s with irqSrc := v } : State).sciph = s.sciph := rfl
@[simp] theorem State.upd_irqSrc_spke (v : BitVec 64) : ({ s with irqSrc := v } : State).spke = s.spke := rfl
@[simp] theorem State.upd_irqSrc_pke (v : BitVec 64) : ({ s with irqSrc := v } : State).pke = s.pke := rfl
@[simp] theorem State.upd_irqSrc_mem (v : BitVec 64) : ({ s with irqSrc := v } : State).mem = s.mem := rfl
@[simp] theorem State.upd_irqSrc_cip (v : BitVec 64) : ({ s with irqSrc := v } : State).cip = s.cip := rfl
@[simp] theorem State.upd_irqSrc_rng (v : BitVec 64) : ({ s with irqSrc := v } : State).rng = s.rng := rfl
@[simp] theorem State.upd_irqSrc_hf (v : BitVec 64) : ({ s with irqSrc := v } : State).hf = s.hf := rfl
@[simp] theorem State.upd_irqSrc_led (v : BitVec 64) : ({ s with irqSrc := v } : State).led = s.led := rfl
@[simp] theorem State.upd_irqSrc_spdm (v : BitVec 64) : ({ s with irqSrc := v } : State).spdm = s.spdm := rfl
@[simp] theorem State.upd_irqSrc_mpu (v : BitVec 64) : ({ s with irqSrc := v } : State).mpu = s.mpu := rfl
@[simp] theorem State.upd_irqSrc_flash (v : BitVec 64) : ({ s with irqSrc := v } : State).flash = s.flash := rfl
@[simp] theorem State.upd_irqSrc_card0 (v : BitVec 64) : ({ s with irqSrc := v } : State).card0 = s.card0 := rfl
@[simp] theorem State.upd_irqSrc_card1 (v : BitVec 64) : ({ s with irqSrc := v } : State).card1 = s.card1 := rfl
@[simp] theorem State.upd_irqSrc_sdh (v : BitVec 64) : ({ s with irqSrc := v } : State).sdh = s.sdh := rfl
@[simp] theorem State.upd_irqSrc_tag (v : BitVec 64) : ({ s with irqSrc := v } : State).tag = s.tag := rfl
@[simp] theorem State.upd_irqSrc_dispSrc (v : BitVec 64) : ({ s with irqSrc := v } : State).dispSrc = s.dispSrc := rfl
@[simp] theorem State.upd_irqSrc_cluster (v : BitVec 64) : ({ s with irqSrc := v } : State).cluster = s.cluster := rfl
@[simp] theorem State.upd_irqSrc_warden (v : BitVec 64) : ({ s with irqSrc := v } : State).warden = s.warden := rfl
@[simp] theorem State.upd_irqSrc_disp (v : BitVec 64) : ({ s with irqSrc := v } : State).disp = s.disp := rfl
@[simp] theorem State.upd_irqSrc_wbuf (v : BitVec 64) : ({ s with irqSrc := v } : State).wbuf = s.wbuf := rfl
@[simp] theorem State.upd_irqSrc_arb (v : BitVec 64) : ({ s with irqSrc := v } : State).arb = s.arb := rfl
@[simp] theorem State.upd_irqSrc_test (v : BitVec 64) : ({ s with irqSrc := v } : State).test = s.test := rfl
@[simp] theorem State.upd_irqSrc_sb (v : BitVec 64) : ({ s with irqSrc := v } : State).sb = s.sb := rfl
@[simp] theorem State.upd_irqSrc_dbg (v : BitVec 64) : ({ s with irqSrc := v } : State).dbg = s.dbg := rfl
@[simp] theorem State.upd_ks_pending (v : KsState) : ({ s with ks := v } : State).pending = s.pending := rfl
@[simp] theorem State.upd_ks_freeCtr (v : KsState) : ({ s with ks := v } : State).freeCtr = s.freeCtr := rfl
@[simp] theorem State.upd_ks_regs (v : KsState) : ({ s with ks := v } : State).regs = s.regs := rfl
@[simp] theorem State.upd_ks_power (v : KsState) : ({ s with ks := v } : State).power = s.power := rfl
@[simp] theorem State.upd_ks_fuse (v : KsState) : ({ s with ks := v } : State).fuse = s.fuse := rfl
@[simp] theorem State.upd_ks_boot (v : KsState) : ({ s with ks := v } : State).boot = s.boot := rfl
@[simp] theorem State.upd_ks_cfg (v : KsState) : ({ s with ks := v } : State).cfg = s.cfg := rfl
@[simp] theorem State.upd_ks_image (v : KsState) : ({ s with ks := v } : State).image = s.image := rfl
@[simp] theorem State.upd_ks_struct (v : KsState) : ({ s with ks := v } : State).struct = s.struct := rfl
@[simp] theorem State.upd_ks_qm (v : KsState) : ({ s with ks := v } : State).qm = s.qm := rfl
@[simp] theorem State.upd_ks_tamper (v : KsState) : ({ s with ks := v } : State).tamper = s.tamper := rfl
@[simp] theorem State.upd_ks_fc (v : KsState) : ({ s with ks := v } : State).fc = s.fc := rfl
@[simp] theorem State.upd_ks_drawbar (v : KsState) : ({ s with ks := v } : State).drawbar = s.drawbar := rfl
@[simp] theorem State.upd_ks_ev (v : KsState) : ({ s with ks := v } : State).ev = s.ev := rfl
@[simp] theorem State.upd_ks_irqSrc (v : KsState) : ({ s with ks := v } : State).irqSrc = s.irqSrc := rfl
@[simp] theorem State.upd_ks_ks (v : KsState) : ({ s with ks := v } : State).ks = v := rfl
@[simp] theorem State.upd_ks_hbm (v : KsState) : ({ s with ks := v } : State).hbm = s.hbm := rfl
@[simp] theorem State.upd_ks_quorum (v : KsState) : ({ s with ks := v } : State).quorum = s.quorum := rfl
@[simp] theorem State.upd_ks_sciph (v : KsState) : ({ s with ks := v } : State).sciph = s.sciph := rfl
@[simp] theorem State.upd_ks_spke (v : KsState) : ({ s with ks := v } : State).spke = s.spke := rfl
@[simp] theorem State.upd_ks_pke (v : KsState) : ({ s with ks := v } : State).pke = s.pke := rfl
@[simp] theorem State.upd_ks_mem (v : KsState) : ({ s with ks := v } : State).mem = s.mem := rfl
@[simp] theorem State.upd_ks_cip (v : KsState) : ({ s with ks := v } : State).cip = s.cip := rfl
@[simp] theorem State.upd_ks_rng (v : KsState) : ({ s with ks := v } : State).rng = s.rng := rfl
@[simp] theorem State.upd_ks_hf (v : KsState) : ({ s with ks := v } : State).hf = s.hf := rfl
@[simp] theorem State.upd_ks_led (v : KsState) : ({ s with ks := v } : State).led = s.led := rfl
@[simp] theorem State.upd_ks_spdm (v : KsState) : ({ s with ks := v } : State).spdm = s.spdm := rfl
@[simp] theorem State.upd_ks_mpu (v : KsState) : ({ s with ks := v } : State).mpu = s.mpu := rfl
@[simp] theorem State.upd_ks_flash (v : KsState) : ({ s with ks := v } : State).flash = s.flash := rfl
@[simp] theorem State.upd_ks_card0 (v : KsState) : ({ s with ks := v } : State).card0 = s.card0 := rfl
@[simp] theorem State.upd_ks_card1 (v : KsState) : ({ s with ks := v } : State).card1 = s.card1 := rfl
@[simp] theorem State.upd_ks_sdh (v : KsState) : ({ s with ks := v } : State).sdh = s.sdh := rfl
@[simp] theorem State.upd_ks_tag (v : KsState) : ({ s with ks := v } : State).tag = s.tag := rfl
@[simp] theorem State.upd_ks_dispSrc (v : KsState) : ({ s with ks := v } : State).dispSrc = s.dispSrc := rfl
@[simp] theorem State.upd_ks_cluster (v : KsState) : ({ s with ks := v } : State).cluster = s.cluster := rfl
@[simp] theorem State.upd_ks_warden (v : KsState) : ({ s with ks := v } : State).warden = s.warden := rfl
@[simp] theorem State.upd_ks_disp (v : KsState) : ({ s with ks := v } : State).disp = s.disp := rfl
@[simp] theorem State.upd_ks_wbuf (v : KsState) : ({ s with ks := v } : State).wbuf = s.wbuf := rfl
@[simp] theorem State.upd_ks_arb (v : KsState) : ({ s with ks := v } : State).arb = s.arb := rfl
@[simp] theorem State.upd_ks_test (v : KsState) : ({ s with ks := v } : State).test = s.test := rfl
@[simp] theorem State.upd_ks_sb (v : KsState) : ({ s with ks := v } : State).sb = s.sb := rfl
@[simp] theorem State.upd_ks_dbg (v : KsState) : ({ s with ks := v } : State).dbg = s.dbg := rfl
@[simp] theorem State.upd_hbm_pending (v : HbmState) : ({ s with hbm := v } : State).pending = s.pending := rfl
@[simp] theorem State.upd_hbm_freeCtr (v : HbmState) : ({ s with hbm := v } : State).freeCtr = s.freeCtr := rfl
@[simp] theorem State.upd_hbm_regs (v : HbmState) : ({ s with hbm := v } : State).regs = s.regs := rfl
@[simp] theorem State.upd_hbm_power (v : HbmState) : ({ s with hbm := v } : State).power = s.power := rfl
@[simp] theorem State.upd_hbm_fuse (v : HbmState) : ({ s with hbm := v } : State).fuse = s.fuse := rfl
@[simp] theorem State.upd_hbm_boot (v : HbmState) : ({ s with hbm := v } : State).boot = s.boot := rfl
@[simp] theorem State.upd_hbm_cfg (v : HbmState) : ({ s with hbm := v } : State).cfg = s.cfg := rfl
@[simp] theorem State.upd_hbm_image (v : HbmState) : ({ s with hbm := v } : State).image = s.image := rfl
@[simp] theorem State.upd_hbm_struct (v : HbmState) : ({ s with hbm := v } : State).struct = s.struct := rfl
@[simp] theorem State.upd_hbm_qm (v : HbmState) : ({ s with hbm := v } : State).qm = s.qm := rfl
@[simp] theorem State.upd_hbm_tamper (v : HbmState) : ({ s with hbm := v } : State).tamper = s.tamper := rfl
@[simp] theorem State.upd_hbm_fc (v : HbmState) : ({ s with hbm := v } : State).fc = s.fc := rfl
@[simp] theorem State.upd_hbm_drawbar (v : HbmState) : ({ s with hbm := v } : State).drawbar = s.drawbar := rfl
@[simp] theorem State.upd_hbm_ev (v : HbmState) : ({ s with hbm := v } : State).ev = s.ev := rfl
@[simp] theorem State.upd_hbm_irqSrc (v : HbmState) : ({ s with hbm := v } : State).irqSrc = s.irqSrc := rfl
@[simp] theorem State.upd_hbm_ks (v : HbmState) : ({ s with hbm := v } : State).ks = s.ks := rfl
@[simp] theorem State.upd_hbm_hbm (v : HbmState) : ({ s with hbm := v } : State).hbm = v := rfl
@[simp] theorem State.upd_hbm_quorum (v : HbmState) : ({ s with hbm := v } : State).quorum = s.quorum := rfl
@[simp] theorem State.upd_hbm_sciph (v : HbmState) : ({ s with hbm := v } : State).sciph = s.sciph := rfl
@[simp] theorem State.upd_hbm_spke (v : HbmState) : ({ s with hbm := v } : State).spke = s.spke := rfl
@[simp] theorem State.upd_hbm_pke (v : HbmState) : ({ s with hbm := v } : State).pke = s.pke := rfl
@[simp] theorem State.upd_hbm_mem (v : HbmState) : ({ s with hbm := v } : State).mem = s.mem := rfl
@[simp] theorem State.upd_hbm_cip (v : HbmState) : ({ s with hbm := v } : State).cip = s.cip := rfl
@[simp] theorem State.upd_hbm_rng (v : HbmState) : ({ s with hbm := v } : State).rng = s.rng := rfl
@[simp] theorem State.upd_hbm_hf (v : HbmState) : ({ s with hbm := v } : State).hf = s.hf := rfl
@[simp] theorem State.upd_hbm_led (v : HbmState) : ({ s with hbm := v } : State).led = s.led := rfl
@[simp] theorem State.upd_hbm_spdm (v : HbmState) : ({ s with hbm := v } : State).spdm = s.spdm := rfl
@[simp] theorem State.upd_hbm_mpu (v : HbmState) : ({ s with hbm := v } : State).mpu = s.mpu := rfl
@[simp] theorem State.upd_hbm_flash (v : HbmState) : ({ s with hbm := v } : State).flash = s.flash := rfl
@[simp] theorem State.upd_hbm_card0 (v : HbmState) : ({ s with hbm := v } : State).card0 = s.card0 := rfl
@[simp] theorem State.upd_hbm_card1 (v : HbmState) : ({ s with hbm := v } : State).card1 = s.card1 := rfl
@[simp] theorem State.upd_hbm_sdh (v : HbmState) : ({ s with hbm := v } : State).sdh = s.sdh := rfl
@[simp] theorem State.upd_hbm_tag (v : HbmState) : ({ s with hbm := v } : State).tag = s.tag := rfl
@[simp] theorem State.upd_hbm_dispSrc (v : HbmState) : ({ s with hbm := v } : State).dispSrc = s.dispSrc := rfl
@[simp] theorem State.upd_hbm_cluster (v : HbmState) : ({ s with hbm := v } : State).cluster = s.cluster := rfl
@[simp] theorem State.upd_hbm_warden (v : HbmState) : ({ s with hbm := v } : State).warden = s.warden := rfl
@[simp] theorem State.upd_hbm_disp (v : HbmState) : ({ s with hbm := v } : State).disp = s.disp := rfl
@[simp] theorem State.upd_hbm_wbuf (v : HbmState) : ({ s with hbm := v } : State).wbuf = s.wbuf := rfl
@[simp] theorem State.upd_hbm_arb (v : HbmState) : ({ s with hbm := v } : State).arb = s.arb := rfl
@[simp] theorem State.upd_hbm_test (v : HbmState) : ({ s with hbm := v } : State).test = s.test := rfl
@[simp] theorem State.upd_hbm_sb (v : HbmState) : ({ s with hbm := v } : State).sb = s.sb := rfl
@[simp] theorem State.upd_hbm_dbg (v : HbmState) : ({ s with hbm := v } : State).dbg = s.dbg := rfl
@[simp] theorem State.upd_quorum_pending (v : QuorumState) : ({ s with quorum := v } : State).pending = s.pending := rfl
@[simp] theorem State.upd_quorum_freeCtr (v : QuorumState) : ({ s with quorum := v } : State).freeCtr = s.freeCtr := rfl
@[simp] theorem State.upd_quorum_regs (v : QuorumState) : ({ s with quorum := v } : State).regs = s.regs := rfl
@[simp] theorem State.upd_quorum_power (v : QuorumState) : ({ s with quorum := v } : State).power = s.power := rfl
@[simp] theorem State.upd_quorum_fuse (v : QuorumState) : ({ s with quorum := v } : State).fuse = s.fuse := rfl
@[simp] theorem State.upd_quorum_boot (v : QuorumState) : ({ s with quorum := v } : State).boot = s.boot := rfl
@[simp] theorem State.upd_quorum_cfg (v : QuorumState) : ({ s with quorum := v } : State).cfg = s.cfg := rfl
@[simp] theorem State.upd_quorum_image (v : QuorumState) : ({ s with quorum := v } : State).image = s.image := rfl
@[simp] theorem State.upd_quorum_struct (v : QuorumState) : ({ s with quorum := v } : State).struct = s.struct := rfl
@[simp] theorem State.upd_quorum_qm (v : QuorumState) : ({ s with quorum := v } : State).qm = s.qm := rfl
@[simp] theorem State.upd_quorum_tamper (v : QuorumState) : ({ s with quorum := v } : State).tamper = s.tamper := rfl
@[simp] theorem State.upd_quorum_fc (v : QuorumState) : ({ s with quorum := v } : State).fc = s.fc := rfl
@[simp] theorem State.upd_quorum_drawbar (v : QuorumState) : ({ s with quorum := v } : State).drawbar = s.drawbar := rfl
@[simp] theorem State.upd_quorum_ev (v : QuorumState) : ({ s with quorum := v } : State).ev = s.ev := rfl
@[simp] theorem State.upd_quorum_irqSrc (v : QuorumState) : ({ s with quorum := v } : State).irqSrc = s.irqSrc := rfl
@[simp] theorem State.upd_quorum_ks (v : QuorumState) : ({ s with quorum := v } : State).ks = s.ks := rfl
@[simp] theorem State.upd_quorum_hbm (v : QuorumState) : ({ s with quorum := v } : State).hbm = s.hbm := rfl
@[simp] theorem State.upd_quorum_quorum (v : QuorumState) : ({ s with quorum := v } : State).quorum = v := rfl
@[simp] theorem State.upd_quorum_sciph (v : QuorumState) : ({ s with quorum := v } : State).sciph = s.sciph := rfl
@[simp] theorem State.upd_quorum_spke (v : QuorumState) : ({ s with quorum := v } : State).spke = s.spke := rfl
@[simp] theorem State.upd_quorum_pke (v : QuorumState) : ({ s with quorum := v } : State).pke = s.pke := rfl
@[simp] theorem State.upd_quorum_mem (v : QuorumState) : ({ s with quorum := v } : State).mem = s.mem := rfl
@[simp] theorem State.upd_quorum_cip (v : QuorumState) : ({ s with quorum := v } : State).cip = s.cip := rfl
@[simp] theorem State.upd_quorum_rng (v : QuorumState) : ({ s with quorum := v } : State).rng = s.rng := rfl
@[simp] theorem State.upd_quorum_hf (v : QuorumState) : ({ s with quorum := v } : State).hf = s.hf := rfl
@[simp] theorem State.upd_quorum_led (v : QuorumState) : ({ s with quorum := v } : State).led = s.led := rfl
@[simp] theorem State.upd_quorum_spdm (v : QuorumState) : ({ s with quorum := v } : State).spdm = s.spdm := rfl
@[simp] theorem State.upd_quorum_mpu (v : QuorumState) : ({ s with quorum := v } : State).mpu = s.mpu := rfl
@[simp] theorem State.upd_quorum_flash (v : QuorumState) : ({ s with quorum := v } : State).flash = s.flash := rfl
@[simp] theorem State.upd_quorum_card0 (v : QuorumState) : ({ s with quorum := v } : State).card0 = s.card0 := rfl
@[simp] theorem State.upd_quorum_card1 (v : QuorumState) : ({ s with quorum := v } : State).card1 = s.card1 := rfl
@[simp] theorem State.upd_quorum_sdh (v : QuorumState) : ({ s with quorum := v } : State).sdh = s.sdh := rfl
@[simp] theorem State.upd_quorum_tag (v : QuorumState) : ({ s with quorum := v } : State).tag = s.tag := rfl
@[simp] theorem State.upd_quorum_dispSrc (v : QuorumState) : ({ s with quorum := v } : State).dispSrc = s.dispSrc := rfl
@[simp] theorem State.upd_quorum_cluster (v : QuorumState) : ({ s with quorum := v } : State).cluster = s.cluster := rfl
@[simp] theorem State.upd_quorum_warden (v : QuorumState) : ({ s with quorum := v } : State).warden = s.warden := rfl
@[simp] theorem State.upd_quorum_disp (v : QuorumState) : ({ s with quorum := v } : State).disp = s.disp := rfl
@[simp] theorem State.upd_quorum_wbuf (v : QuorumState) : ({ s with quorum := v } : State).wbuf = s.wbuf := rfl
@[simp] theorem State.upd_quorum_arb (v : QuorumState) : ({ s with quorum := v } : State).arb = s.arb := rfl
@[simp] theorem State.upd_quorum_test (v : QuorumState) : ({ s with quorum := v } : State).test = s.test := rfl
@[simp] theorem State.upd_quorum_sb (v : QuorumState) : ({ s with quorum := v } : State).sb = s.sb := rfl
@[simp] theorem State.upd_quorum_dbg (v : QuorumState) : ({ s with quorum := v } : State).dbg = s.dbg := rfl
@[simp] theorem State.upd_sciph_pending (v : SciphState) : ({ s with sciph := v } : State).pending = s.pending := rfl
@[simp] theorem State.upd_sciph_freeCtr (v : SciphState) : ({ s with sciph := v } : State).freeCtr = s.freeCtr := rfl
@[simp] theorem State.upd_sciph_regs (v : SciphState) : ({ s with sciph := v } : State).regs = s.regs := rfl
@[simp] theorem State.upd_sciph_power (v : SciphState) : ({ s with sciph := v } : State).power = s.power := rfl
@[simp] theorem State.upd_sciph_fuse (v : SciphState) : ({ s with sciph := v } : State).fuse = s.fuse := rfl
@[simp] theorem State.upd_sciph_boot (v : SciphState) : ({ s with sciph := v } : State).boot = s.boot := rfl
@[simp] theorem State.upd_sciph_cfg (v : SciphState) : ({ s with sciph := v } : State).cfg = s.cfg := rfl
@[simp] theorem State.upd_sciph_image (v : SciphState) : ({ s with sciph := v } : State).image = s.image := rfl
@[simp] theorem State.upd_sciph_struct (v : SciphState) : ({ s with sciph := v } : State).struct = s.struct := rfl
@[simp] theorem State.upd_sciph_qm (v : SciphState) : ({ s with sciph := v } : State).qm = s.qm := rfl
@[simp] theorem State.upd_sciph_tamper (v : SciphState) : ({ s with sciph := v } : State).tamper = s.tamper := rfl
@[simp] theorem State.upd_sciph_fc (v : SciphState) : ({ s with sciph := v } : State).fc = s.fc := rfl
@[simp] theorem State.upd_sciph_drawbar (v : SciphState) : ({ s with sciph := v } : State).drawbar = s.drawbar := rfl
@[simp] theorem State.upd_sciph_ev (v : SciphState) : ({ s with sciph := v } : State).ev = s.ev := rfl
@[simp] theorem State.upd_sciph_irqSrc (v : SciphState) : ({ s with sciph := v } : State).irqSrc = s.irqSrc := rfl
@[simp] theorem State.upd_sciph_ks (v : SciphState) : ({ s with sciph := v } : State).ks = s.ks := rfl
@[simp] theorem State.upd_sciph_hbm (v : SciphState) : ({ s with sciph := v } : State).hbm = s.hbm := rfl
@[simp] theorem State.upd_sciph_quorum (v : SciphState) : ({ s with sciph := v } : State).quorum = s.quorum := rfl
@[simp] theorem State.upd_sciph_sciph (v : SciphState) : ({ s with sciph := v } : State).sciph = v := rfl
@[simp] theorem State.upd_sciph_spke (v : SciphState) : ({ s with sciph := v } : State).spke = s.spke := rfl
@[simp] theorem State.upd_sciph_pke (v : SciphState) : ({ s with sciph := v } : State).pke = s.pke := rfl
@[simp] theorem State.upd_sciph_mem (v : SciphState) : ({ s with sciph := v } : State).mem = s.mem := rfl
@[simp] theorem State.upd_sciph_cip (v : SciphState) : ({ s with sciph := v } : State).cip = s.cip := rfl
@[simp] theorem State.upd_sciph_rng (v : SciphState) : ({ s with sciph := v } : State).rng = s.rng := rfl
@[simp] theorem State.upd_sciph_hf (v : SciphState) : ({ s with sciph := v } : State).hf = s.hf := rfl
@[simp] theorem State.upd_sciph_led (v : SciphState) : ({ s with sciph := v } : State).led = s.led := rfl
@[simp] theorem State.upd_sciph_spdm (v : SciphState) : ({ s with sciph := v } : State).spdm = s.spdm := rfl
@[simp] theorem State.upd_sciph_mpu (v : SciphState) : ({ s with sciph := v } : State).mpu = s.mpu := rfl
@[simp] theorem State.upd_sciph_flash (v : SciphState) : ({ s with sciph := v } : State).flash = s.flash := rfl
@[simp] theorem State.upd_sciph_card0 (v : SciphState) : ({ s with sciph := v } : State).card0 = s.card0 := rfl
@[simp] theorem State.upd_sciph_card1 (v : SciphState) : ({ s with sciph := v } : State).card1 = s.card1 := rfl
@[simp] theorem State.upd_sciph_sdh (v : SciphState) : ({ s with sciph := v } : State).sdh = s.sdh := rfl
@[simp] theorem State.upd_sciph_tag (v : SciphState) : ({ s with sciph := v } : State).tag = s.tag := rfl
@[simp] theorem State.upd_sciph_dispSrc (v : SciphState) : ({ s with sciph := v } : State).dispSrc = s.dispSrc := rfl
@[simp] theorem State.upd_sciph_cluster (v : SciphState) : ({ s with sciph := v } : State).cluster = s.cluster := rfl
@[simp] theorem State.upd_sciph_warden (v : SciphState) : ({ s with sciph := v } : State).warden = s.warden := rfl
@[simp] theorem State.upd_sciph_disp (v : SciphState) : ({ s with sciph := v } : State).disp = s.disp := rfl
@[simp] theorem State.upd_sciph_wbuf (v : SciphState) : ({ s with sciph := v } : State).wbuf = s.wbuf := rfl
@[simp] theorem State.upd_sciph_arb (v : SciphState) : ({ s with sciph := v } : State).arb = s.arb := rfl
@[simp] theorem State.upd_sciph_test (v : SciphState) : ({ s with sciph := v } : State).test = s.test := rfl
@[simp] theorem State.upd_sciph_sb (v : SciphState) : ({ s with sciph := v } : State).sb = s.sb := rfl
@[simp] theorem State.upd_sciph_dbg (v : SciphState) : ({ s with sciph := v } : State).dbg = s.dbg := rfl
@[simp] theorem State.upd_spke_pending (v : SpkeState) : ({ s with spke := v } : State).pending = s.pending := rfl
@[simp] theorem State.upd_spke_freeCtr (v : SpkeState) : ({ s with spke := v } : State).freeCtr = s.freeCtr := rfl
@[simp] theorem State.upd_spke_regs (v : SpkeState) : ({ s with spke := v } : State).regs = s.regs := rfl
@[simp] theorem State.upd_spke_power (v : SpkeState) : ({ s with spke := v } : State).power = s.power := rfl
@[simp] theorem State.upd_spke_fuse (v : SpkeState) : ({ s with spke := v } : State).fuse = s.fuse := rfl
@[simp] theorem State.upd_spke_boot (v : SpkeState) : ({ s with spke := v } : State).boot = s.boot := rfl
@[simp] theorem State.upd_spke_cfg (v : SpkeState) : ({ s with spke := v } : State).cfg = s.cfg := rfl
@[simp] theorem State.upd_spke_image (v : SpkeState) : ({ s with spke := v } : State).image = s.image := rfl
@[simp] theorem State.upd_spke_struct (v : SpkeState) : ({ s with spke := v } : State).struct = s.struct := rfl
@[simp] theorem State.upd_spke_qm (v : SpkeState) : ({ s with spke := v } : State).qm = s.qm := rfl
@[simp] theorem State.upd_spke_tamper (v : SpkeState) : ({ s with spke := v } : State).tamper = s.tamper := rfl
@[simp] theorem State.upd_spke_fc (v : SpkeState) : ({ s with spke := v } : State).fc = s.fc := rfl
@[simp] theorem State.upd_spke_drawbar (v : SpkeState) : ({ s with spke := v } : State).drawbar = s.drawbar := rfl
@[simp] theorem State.upd_spke_ev (v : SpkeState) : ({ s with spke := v } : State).ev = s.ev := rfl
@[simp] theorem State.upd_spke_irqSrc (v : SpkeState) : ({ s with spke := v } : State).irqSrc = s.irqSrc := rfl
@[simp] theorem State.upd_spke_ks (v : SpkeState) : ({ s with spke := v } : State).ks = s.ks := rfl
@[simp] theorem State.upd_spke_hbm (v : SpkeState) : ({ s with spke := v } : State).hbm = s.hbm := rfl
@[simp] theorem State.upd_spke_quorum (v : SpkeState) : ({ s with spke := v } : State).quorum = s.quorum := rfl
@[simp] theorem State.upd_spke_sciph (v : SpkeState) : ({ s with spke := v } : State).sciph = s.sciph := rfl
@[simp] theorem State.upd_spke_spke (v : SpkeState) : ({ s with spke := v } : State).spke = v := rfl
@[simp] theorem State.upd_spke_pke (v : SpkeState) : ({ s with spke := v } : State).pke = s.pke := rfl
@[simp] theorem State.upd_spke_mem (v : SpkeState) : ({ s with spke := v } : State).mem = s.mem := rfl
@[simp] theorem State.upd_spke_cip (v : SpkeState) : ({ s with spke := v } : State).cip = s.cip := rfl
@[simp] theorem State.upd_spke_rng (v : SpkeState) : ({ s with spke := v } : State).rng = s.rng := rfl
@[simp] theorem State.upd_spke_hf (v : SpkeState) : ({ s with spke := v } : State).hf = s.hf := rfl
@[simp] theorem State.upd_spke_led (v : SpkeState) : ({ s with spke := v } : State).led = s.led := rfl
@[simp] theorem State.upd_spke_spdm (v : SpkeState) : ({ s with spke := v } : State).spdm = s.spdm := rfl
@[simp] theorem State.upd_spke_mpu (v : SpkeState) : ({ s with spke := v } : State).mpu = s.mpu := rfl
@[simp] theorem State.upd_spke_flash (v : SpkeState) : ({ s with spke := v } : State).flash = s.flash := rfl
@[simp] theorem State.upd_spke_card0 (v : SpkeState) : ({ s with spke := v } : State).card0 = s.card0 := rfl
@[simp] theorem State.upd_spke_card1 (v : SpkeState) : ({ s with spke := v } : State).card1 = s.card1 := rfl
@[simp] theorem State.upd_spke_sdh (v : SpkeState) : ({ s with spke := v } : State).sdh = s.sdh := rfl
@[simp] theorem State.upd_spke_tag (v : SpkeState) : ({ s with spke := v } : State).tag = s.tag := rfl
@[simp] theorem State.upd_spke_dispSrc (v : SpkeState) : ({ s with spke := v } : State).dispSrc = s.dispSrc := rfl
@[simp] theorem State.upd_spke_cluster (v : SpkeState) : ({ s with spke := v } : State).cluster = s.cluster := rfl
@[simp] theorem State.upd_spke_warden (v : SpkeState) : ({ s with spke := v } : State).warden = s.warden := rfl
@[simp] theorem State.upd_spke_disp (v : SpkeState) : ({ s with spke := v } : State).disp = s.disp := rfl
@[simp] theorem State.upd_spke_wbuf (v : SpkeState) : ({ s with spke := v } : State).wbuf = s.wbuf := rfl
@[simp] theorem State.upd_spke_arb (v : SpkeState) : ({ s with spke := v } : State).arb = s.arb := rfl
@[simp] theorem State.upd_spke_test (v : SpkeState) : ({ s with spke := v } : State).test = s.test := rfl
@[simp] theorem State.upd_spke_sb (v : SpkeState) : ({ s with spke := v } : State).sb = s.sb := rfl
@[simp] theorem State.upd_spke_dbg (v : SpkeState) : ({ s with spke := v } : State).dbg = s.dbg := rfl
@[simp] theorem State.upd_pke_pending (v : PkeState) : ({ s with pke := v } : State).pending = s.pending := rfl
@[simp] theorem State.upd_pke_freeCtr (v : PkeState) : ({ s with pke := v } : State).freeCtr = s.freeCtr := rfl
@[simp] theorem State.upd_pke_regs (v : PkeState) : ({ s with pke := v } : State).regs = s.regs := rfl
@[simp] theorem State.upd_pke_power (v : PkeState) : ({ s with pke := v } : State).power = s.power := rfl
@[simp] theorem State.upd_pke_fuse (v : PkeState) : ({ s with pke := v } : State).fuse = s.fuse := rfl
@[simp] theorem State.upd_pke_boot (v : PkeState) : ({ s with pke := v } : State).boot = s.boot := rfl
@[simp] theorem State.upd_pke_cfg (v : PkeState) : ({ s with pke := v } : State).cfg = s.cfg := rfl
@[simp] theorem State.upd_pke_image (v : PkeState) : ({ s with pke := v } : State).image = s.image := rfl
@[simp] theorem State.upd_pke_struct (v : PkeState) : ({ s with pke := v } : State).struct = s.struct := rfl
@[simp] theorem State.upd_pke_qm (v : PkeState) : ({ s with pke := v } : State).qm = s.qm := rfl
@[simp] theorem State.upd_pke_tamper (v : PkeState) : ({ s with pke := v } : State).tamper = s.tamper := rfl
@[simp] theorem State.upd_pke_fc (v : PkeState) : ({ s with pke := v } : State).fc = s.fc := rfl
@[simp] theorem State.upd_pke_drawbar (v : PkeState) : ({ s with pke := v } : State).drawbar = s.drawbar := rfl
@[simp] theorem State.upd_pke_ev (v : PkeState) : ({ s with pke := v } : State).ev = s.ev := rfl
@[simp] theorem State.upd_pke_irqSrc (v : PkeState) : ({ s with pke := v } : State).irqSrc = s.irqSrc := rfl
@[simp] theorem State.upd_pke_ks (v : PkeState) : ({ s with pke := v } : State).ks = s.ks := rfl
@[simp] theorem State.upd_pke_hbm (v : PkeState) : ({ s with pke := v } : State).hbm = s.hbm := rfl
@[simp] theorem State.upd_pke_quorum (v : PkeState) : ({ s with pke := v } : State).quorum = s.quorum := rfl
@[simp] theorem State.upd_pke_sciph (v : PkeState) : ({ s with pke := v } : State).sciph = s.sciph := rfl
@[simp] theorem State.upd_pke_spke (v : PkeState) : ({ s with pke := v } : State).spke = s.spke := rfl
@[simp] theorem State.upd_pke_pke (v : PkeState) : ({ s with pke := v } : State).pke = v := rfl
@[simp] theorem State.upd_pke_mem (v : PkeState) : ({ s with pke := v } : State).mem = s.mem := rfl
@[simp] theorem State.upd_pke_cip (v : PkeState) : ({ s with pke := v } : State).cip = s.cip := rfl
@[simp] theorem State.upd_pke_rng (v : PkeState) : ({ s with pke := v } : State).rng = s.rng := rfl
@[simp] theorem State.upd_pke_hf (v : PkeState) : ({ s with pke := v } : State).hf = s.hf := rfl
@[simp] theorem State.upd_pke_led (v : PkeState) : ({ s with pke := v } : State).led = s.led := rfl
@[simp] theorem State.upd_pke_spdm (v : PkeState) : ({ s with pke := v } : State).spdm = s.spdm := rfl
@[simp] theorem State.upd_pke_mpu (v : PkeState) : ({ s with pke := v } : State).mpu = s.mpu := rfl
@[simp] theorem State.upd_pke_flash (v : PkeState) : ({ s with pke := v } : State).flash = s.flash := rfl
@[simp] theorem State.upd_pke_card0 (v : PkeState) : ({ s with pke := v } : State).card0 = s.card0 := rfl
@[simp] theorem State.upd_pke_card1 (v : PkeState) : ({ s with pke := v } : State).card1 = s.card1 := rfl
@[simp] theorem State.upd_pke_sdh (v : PkeState) : ({ s with pke := v } : State).sdh = s.sdh := rfl
@[simp] theorem State.upd_pke_tag (v : PkeState) : ({ s with pke := v } : State).tag = s.tag := rfl
@[simp] theorem State.upd_pke_dispSrc (v : PkeState) : ({ s with pke := v } : State).dispSrc = s.dispSrc := rfl
@[simp] theorem State.upd_pke_cluster (v : PkeState) : ({ s with pke := v } : State).cluster = s.cluster := rfl
@[simp] theorem State.upd_pke_warden (v : PkeState) : ({ s with pke := v } : State).warden = s.warden := rfl
@[simp] theorem State.upd_pke_disp (v : PkeState) : ({ s with pke := v } : State).disp = s.disp := rfl
@[simp] theorem State.upd_pke_wbuf (v : PkeState) : ({ s with pke := v } : State).wbuf = s.wbuf := rfl
@[simp] theorem State.upd_pke_arb (v : PkeState) : ({ s with pke := v } : State).arb = s.arb := rfl
@[simp] theorem State.upd_pke_test (v : PkeState) : ({ s with pke := v } : State).test = s.test := rfl
@[simp] theorem State.upd_pke_sb (v : PkeState) : ({ s with pke := v } : State).sb = s.sb := rfl
@[simp] theorem State.upd_pke_dbg (v : PkeState) : ({ s with pke := v } : State).dbg = s.dbg := rfl
@[simp] theorem State.upd_mem_pending (v : MemState) : ({ s with mem := v } : State).pending = s.pending := rfl
@[simp] theorem State.upd_mem_freeCtr (v : MemState) : ({ s with mem := v } : State).freeCtr = s.freeCtr := rfl
@[simp] theorem State.upd_mem_regs (v : MemState) : ({ s with mem := v } : State).regs = s.regs := rfl
@[simp] theorem State.upd_mem_power (v : MemState) : ({ s with mem := v } : State).power = s.power := rfl
@[simp] theorem State.upd_mem_fuse (v : MemState) : ({ s with mem := v } : State).fuse = s.fuse := rfl
@[simp] theorem State.upd_mem_boot (v : MemState) : ({ s with mem := v } : State).boot = s.boot := rfl
@[simp] theorem State.upd_mem_cfg (v : MemState) : ({ s with mem := v } : State).cfg = s.cfg := rfl
@[simp] theorem State.upd_mem_image (v : MemState) : ({ s with mem := v } : State).image = s.image := rfl
@[simp] theorem State.upd_mem_struct (v : MemState) : ({ s with mem := v } : State).struct = s.struct := rfl
@[simp] theorem State.upd_mem_qm (v : MemState) : ({ s with mem := v } : State).qm = s.qm := rfl
@[simp] theorem State.upd_mem_tamper (v : MemState) : ({ s with mem := v } : State).tamper = s.tamper := rfl
@[simp] theorem State.upd_mem_fc (v : MemState) : ({ s with mem := v } : State).fc = s.fc := rfl
@[simp] theorem State.upd_mem_drawbar (v : MemState) : ({ s with mem := v } : State).drawbar = s.drawbar := rfl
@[simp] theorem State.upd_mem_ev (v : MemState) : ({ s with mem := v } : State).ev = s.ev := rfl
@[simp] theorem State.upd_mem_irqSrc (v : MemState) : ({ s with mem := v } : State).irqSrc = s.irqSrc := rfl
@[simp] theorem State.upd_mem_ks (v : MemState) : ({ s with mem := v } : State).ks = s.ks := rfl
@[simp] theorem State.upd_mem_hbm (v : MemState) : ({ s with mem := v } : State).hbm = s.hbm := rfl
@[simp] theorem State.upd_mem_quorum (v : MemState) : ({ s with mem := v } : State).quorum = s.quorum := rfl
@[simp] theorem State.upd_mem_sciph (v : MemState) : ({ s with mem := v } : State).sciph = s.sciph := rfl
@[simp] theorem State.upd_mem_spke (v : MemState) : ({ s with mem := v } : State).spke = s.spke := rfl
@[simp] theorem State.upd_mem_pke (v : MemState) : ({ s with mem := v } : State).pke = s.pke := rfl
@[simp] theorem State.upd_mem_mem (v : MemState) : ({ s with mem := v } : State).mem = v := rfl
@[simp] theorem State.upd_mem_cip (v : MemState) : ({ s with mem := v } : State).cip = s.cip := rfl
@[simp] theorem State.upd_mem_rng (v : MemState) : ({ s with mem := v } : State).rng = s.rng := rfl
@[simp] theorem State.upd_mem_hf (v : MemState) : ({ s with mem := v } : State).hf = s.hf := rfl
@[simp] theorem State.upd_mem_led (v : MemState) : ({ s with mem := v } : State).led = s.led := rfl
@[simp] theorem State.upd_mem_spdm (v : MemState) : ({ s with mem := v } : State).spdm = s.spdm := rfl
@[simp] theorem State.upd_mem_mpu (v : MemState) : ({ s with mem := v } : State).mpu = s.mpu := rfl
@[simp] theorem State.upd_mem_flash (v : MemState) : ({ s with mem := v } : State).flash = s.flash := rfl
@[simp] theorem State.upd_mem_card0 (v : MemState) : ({ s with mem := v } : State).card0 = s.card0 := rfl
@[simp] theorem State.upd_mem_card1 (v : MemState) : ({ s with mem := v } : State).card1 = s.card1 := rfl
@[simp] theorem State.upd_mem_sdh (v : MemState) : ({ s with mem := v } : State).sdh = s.sdh := rfl
@[simp] theorem State.upd_mem_tag (v : MemState) : ({ s with mem := v } : State).tag = s.tag := rfl
@[simp] theorem State.upd_mem_dispSrc (v : MemState) : ({ s with mem := v } : State).dispSrc = s.dispSrc := rfl
@[simp] theorem State.upd_mem_cluster (v : MemState) : ({ s with mem := v } : State).cluster = s.cluster := rfl
@[simp] theorem State.upd_mem_warden (v : MemState) : ({ s with mem := v } : State).warden = s.warden := rfl
@[simp] theorem State.upd_mem_disp (v : MemState) : ({ s with mem := v } : State).disp = s.disp := rfl
@[simp] theorem State.upd_mem_wbuf (v : MemState) : ({ s with mem := v } : State).wbuf = s.wbuf := rfl
@[simp] theorem State.upd_mem_arb (v : MemState) : ({ s with mem := v } : State).arb = s.arb := rfl
@[simp] theorem State.upd_mem_test (v : MemState) : ({ s with mem := v } : State).test = s.test := rfl
@[simp] theorem State.upd_mem_sb (v : MemState) : ({ s with mem := v } : State).sb = s.sb := rfl
@[simp] theorem State.upd_mem_dbg (v : MemState) : ({ s with mem := v } : State).dbg = s.dbg := rfl
@[simp] theorem State.upd_cip_pending (v : CipState) : ({ s with cip := v } : State).pending = s.pending := rfl
@[simp] theorem State.upd_cip_freeCtr (v : CipState) : ({ s with cip := v } : State).freeCtr = s.freeCtr := rfl
@[simp] theorem State.upd_cip_regs (v : CipState) : ({ s with cip := v } : State).regs = s.regs := rfl
@[simp] theorem State.upd_cip_power (v : CipState) : ({ s with cip := v } : State).power = s.power := rfl
@[simp] theorem State.upd_cip_fuse (v : CipState) : ({ s with cip := v } : State).fuse = s.fuse := rfl
@[simp] theorem State.upd_cip_boot (v : CipState) : ({ s with cip := v } : State).boot = s.boot := rfl
@[simp] theorem State.upd_cip_cfg (v : CipState) : ({ s with cip := v } : State).cfg = s.cfg := rfl
@[simp] theorem State.upd_cip_image (v : CipState) : ({ s with cip := v } : State).image = s.image := rfl
@[simp] theorem State.upd_cip_struct (v : CipState) : ({ s with cip := v } : State).struct = s.struct := rfl
@[simp] theorem State.upd_cip_qm (v : CipState) : ({ s with cip := v } : State).qm = s.qm := rfl
@[simp] theorem State.upd_cip_tamper (v : CipState) : ({ s with cip := v } : State).tamper = s.tamper := rfl
@[simp] theorem State.upd_cip_fc (v : CipState) : ({ s with cip := v } : State).fc = s.fc := rfl
@[simp] theorem State.upd_cip_drawbar (v : CipState) : ({ s with cip := v } : State).drawbar = s.drawbar := rfl
@[simp] theorem State.upd_cip_ev (v : CipState) : ({ s with cip := v } : State).ev = s.ev := rfl
@[simp] theorem State.upd_cip_irqSrc (v : CipState) : ({ s with cip := v } : State).irqSrc = s.irqSrc := rfl
@[simp] theorem State.upd_cip_ks (v : CipState) : ({ s with cip := v } : State).ks = s.ks := rfl
@[simp] theorem State.upd_cip_hbm (v : CipState) : ({ s with cip := v } : State).hbm = s.hbm := rfl
@[simp] theorem State.upd_cip_quorum (v : CipState) : ({ s with cip := v } : State).quorum = s.quorum := rfl
@[simp] theorem State.upd_cip_sciph (v : CipState) : ({ s with cip := v } : State).sciph = s.sciph := rfl
@[simp] theorem State.upd_cip_spke (v : CipState) : ({ s with cip := v } : State).spke = s.spke := rfl
@[simp] theorem State.upd_cip_pke (v : CipState) : ({ s with cip := v } : State).pke = s.pke := rfl
@[simp] theorem State.upd_cip_mem (v : CipState) : ({ s with cip := v } : State).mem = s.mem := rfl
@[simp] theorem State.upd_cip_cip (v : CipState) : ({ s with cip := v } : State).cip = v := rfl
@[simp] theorem State.upd_cip_rng (v : CipState) : ({ s with cip := v } : State).rng = s.rng := rfl
@[simp] theorem State.upd_cip_hf (v : CipState) : ({ s with cip := v } : State).hf = s.hf := rfl
@[simp] theorem State.upd_cip_led (v : CipState) : ({ s with cip := v } : State).led = s.led := rfl
@[simp] theorem State.upd_cip_spdm (v : CipState) : ({ s with cip := v } : State).spdm = s.spdm := rfl
@[simp] theorem State.upd_cip_mpu (v : CipState) : ({ s with cip := v } : State).mpu = s.mpu := rfl
@[simp] theorem State.upd_cip_flash (v : CipState) : ({ s with cip := v } : State).flash = s.flash := rfl
@[simp] theorem State.upd_cip_card0 (v : CipState) : ({ s with cip := v } : State).card0 = s.card0 := rfl
@[simp] theorem State.upd_cip_card1 (v : CipState) : ({ s with cip := v } : State).card1 = s.card1 := rfl
@[simp] theorem State.upd_cip_sdh (v : CipState) : ({ s with cip := v } : State).sdh = s.sdh := rfl
@[simp] theorem State.upd_cip_tag (v : CipState) : ({ s with cip := v } : State).tag = s.tag := rfl
@[simp] theorem State.upd_cip_dispSrc (v : CipState) : ({ s with cip := v } : State).dispSrc = s.dispSrc := rfl
@[simp] theorem State.upd_cip_cluster (v : CipState) : ({ s with cip := v } : State).cluster = s.cluster := rfl
@[simp] theorem State.upd_cip_warden (v : CipState) : ({ s with cip := v } : State).warden = s.warden := rfl
@[simp] theorem State.upd_cip_disp (v : CipState) : ({ s with cip := v } : State).disp = s.disp := rfl
@[simp] theorem State.upd_cip_wbuf (v : CipState) : ({ s with cip := v } : State).wbuf = s.wbuf := rfl
@[simp] theorem State.upd_cip_arb (v : CipState) : ({ s with cip := v } : State).arb = s.arb := rfl
@[simp] theorem State.upd_cip_test (v : CipState) : ({ s with cip := v } : State).test = s.test := rfl
@[simp] theorem State.upd_cip_sb (v : CipState) : ({ s with cip := v } : State).sb = s.sb := rfl
@[simp] theorem State.upd_cip_dbg (v : CipState) : ({ s with cip := v } : State).dbg = s.dbg := rfl
@[simp] theorem State.upd_rng_pending (v : RngState) : ({ s with rng := v } : State).pending = s.pending := rfl
@[simp] theorem State.upd_rng_freeCtr (v : RngState) : ({ s with rng := v } : State).freeCtr = s.freeCtr := rfl
@[simp] theorem State.upd_rng_regs (v : RngState) : ({ s with rng := v } : State).regs = s.regs := rfl
@[simp] theorem State.upd_rng_power (v : RngState) : ({ s with rng := v } : State).power = s.power := rfl
@[simp] theorem State.upd_rng_fuse (v : RngState) : ({ s with rng := v } : State).fuse = s.fuse := rfl
@[simp] theorem State.upd_rng_boot (v : RngState) : ({ s with rng := v } : State).boot = s.boot := rfl
@[simp] theorem State.upd_rng_cfg (v : RngState) : ({ s with rng := v } : State).cfg = s.cfg := rfl
@[simp] theorem State.upd_rng_image (v : RngState) : ({ s with rng := v } : State).image = s.image := rfl
@[simp] theorem State.upd_rng_struct (v : RngState) : ({ s with rng := v } : State).struct = s.struct := rfl
@[simp] theorem State.upd_rng_qm (v : RngState) : ({ s with rng := v } : State).qm = s.qm := rfl
@[simp] theorem State.upd_rng_tamper (v : RngState) : ({ s with rng := v } : State).tamper = s.tamper := rfl
@[simp] theorem State.upd_rng_fc (v : RngState) : ({ s with rng := v } : State).fc = s.fc := rfl
@[simp] theorem State.upd_rng_drawbar (v : RngState) : ({ s with rng := v } : State).drawbar = s.drawbar := rfl
@[simp] theorem State.upd_rng_ev (v : RngState) : ({ s with rng := v } : State).ev = s.ev := rfl
@[simp] theorem State.upd_rng_irqSrc (v : RngState) : ({ s with rng := v } : State).irqSrc = s.irqSrc := rfl
@[simp] theorem State.upd_rng_ks (v : RngState) : ({ s with rng := v } : State).ks = s.ks := rfl
@[simp] theorem State.upd_rng_hbm (v : RngState) : ({ s with rng := v } : State).hbm = s.hbm := rfl
@[simp] theorem State.upd_rng_quorum (v : RngState) : ({ s with rng := v } : State).quorum = s.quorum := rfl
@[simp] theorem State.upd_rng_sciph (v : RngState) : ({ s with rng := v } : State).sciph = s.sciph := rfl
@[simp] theorem State.upd_rng_spke (v : RngState) : ({ s with rng := v } : State).spke = s.spke := rfl
@[simp] theorem State.upd_rng_pke (v : RngState) : ({ s with rng := v } : State).pke = s.pke := rfl
@[simp] theorem State.upd_rng_mem (v : RngState) : ({ s with rng := v } : State).mem = s.mem := rfl
@[simp] theorem State.upd_rng_cip (v : RngState) : ({ s with rng := v } : State).cip = s.cip := rfl
@[simp] theorem State.upd_rng_rng (v : RngState) : ({ s with rng := v } : State).rng = v := rfl
@[simp] theorem State.upd_rng_hf (v : RngState) : ({ s with rng := v } : State).hf = s.hf := rfl
@[simp] theorem State.upd_rng_led (v : RngState) : ({ s with rng := v } : State).led = s.led := rfl
@[simp] theorem State.upd_rng_spdm (v : RngState) : ({ s with rng := v } : State).spdm = s.spdm := rfl
@[simp] theorem State.upd_rng_mpu (v : RngState) : ({ s with rng := v } : State).mpu = s.mpu := rfl
@[simp] theorem State.upd_rng_flash (v : RngState) : ({ s with rng := v } : State).flash = s.flash := rfl
@[simp] theorem State.upd_rng_card0 (v : RngState) : ({ s with rng := v } : State).card0 = s.card0 := rfl
@[simp] theorem State.upd_rng_card1 (v : RngState) : ({ s with rng := v } : State).card1 = s.card1 := rfl
@[simp] theorem State.upd_rng_sdh (v : RngState) : ({ s with rng := v } : State).sdh = s.sdh := rfl
@[simp] theorem State.upd_rng_tag (v : RngState) : ({ s with rng := v } : State).tag = s.tag := rfl
@[simp] theorem State.upd_rng_dispSrc (v : RngState) : ({ s with rng := v } : State).dispSrc = s.dispSrc := rfl
@[simp] theorem State.upd_rng_cluster (v : RngState) : ({ s with rng := v } : State).cluster = s.cluster := rfl
@[simp] theorem State.upd_rng_warden (v : RngState) : ({ s with rng := v } : State).warden = s.warden := rfl
@[simp] theorem State.upd_rng_disp (v : RngState) : ({ s with rng := v } : State).disp = s.disp := rfl
@[simp] theorem State.upd_rng_wbuf (v : RngState) : ({ s with rng := v } : State).wbuf = s.wbuf := rfl
@[simp] theorem State.upd_rng_arb (v : RngState) : ({ s with rng := v } : State).arb = s.arb := rfl
@[simp] theorem State.upd_rng_test (v : RngState) : ({ s with rng := v } : State).test = s.test := rfl
@[simp] theorem State.upd_rng_sb (v : RngState) : ({ s with rng := v } : State).sb = s.sb := rfl
@[simp] theorem State.upd_rng_dbg (v : RngState) : ({ s with rng := v } : State).dbg = s.dbg := rfl
@[simp] theorem State.upd_hf_pending (v : HostFlash) : ({ s with hf := v } : State).pending = s.pending := rfl
@[simp] theorem State.upd_hf_freeCtr (v : HostFlash) : ({ s with hf := v } : State).freeCtr = s.freeCtr := rfl
@[simp] theorem State.upd_hf_regs (v : HostFlash) : ({ s with hf := v } : State).regs = s.regs := rfl
@[simp] theorem State.upd_hf_power (v : HostFlash) : ({ s with hf := v } : State).power = s.power := rfl
@[simp] theorem State.upd_hf_fuse (v : HostFlash) : ({ s with hf := v } : State).fuse = s.fuse := rfl
@[simp] theorem State.upd_hf_boot (v : HostFlash) : ({ s with hf := v } : State).boot = s.boot := rfl
@[simp] theorem State.upd_hf_cfg (v : HostFlash) : ({ s with hf := v } : State).cfg = s.cfg := rfl
@[simp] theorem State.upd_hf_image (v : HostFlash) : ({ s with hf := v } : State).image = s.image := rfl
@[simp] theorem State.upd_hf_struct (v : HostFlash) : ({ s with hf := v } : State).struct = s.struct := rfl
@[simp] theorem State.upd_hf_qm (v : HostFlash) : ({ s with hf := v } : State).qm = s.qm := rfl
@[simp] theorem State.upd_hf_tamper (v : HostFlash) : ({ s with hf := v } : State).tamper = s.tamper := rfl
@[simp] theorem State.upd_hf_fc (v : HostFlash) : ({ s with hf := v } : State).fc = s.fc := rfl
@[simp] theorem State.upd_hf_drawbar (v : HostFlash) : ({ s with hf := v } : State).drawbar = s.drawbar := rfl
@[simp] theorem State.upd_hf_ev (v : HostFlash) : ({ s with hf := v } : State).ev = s.ev := rfl
@[simp] theorem State.upd_hf_irqSrc (v : HostFlash) : ({ s with hf := v } : State).irqSrc = s.irqSrc := rfl
@[simp] theorem State.upd_hf_ks (v : HostFlash) : ({ s with hf := v } : State).ks = s.ks := rfl
@[simp] theorem State.upd_hf_hbm (v : HostFlash) : ({ s with hf := v } : State).hbm = s.hbm := rfl
@[simp] theorem State.upd_hf_quorum (v : HostFlash) : ({ s with hf := v } : State).quorum = s.quorum := rfl
@[simp] theorem State.upd_hf_sciph (v : HostFlash) : ({ s with hf := v } : State).sciph = s.sciph := rfl
@[simp] theorem State.upd_hf_spke (v : HostFlash) : ({ s with hf := v } : State).spke = s.spke := rfl
@[simp] theorem State.upd_hf_pke (v : HostFlash) : ({ s with hf := v } : State).pke = s.pke := rfl
@[simp] theorem State.upd_hf_mem (v : HostFlash) : ({ s with hf := v } : State).mem = s.mem := rfl
@[simp] theorem State.upd_hf_cip (v : HostFlash) : ({ s with hf := v } : State).cip = s.cip := rfl
@[simp] theorem State.upd_hf_rng (v : HostFlash) : ({ s with hf := v } : State).rng = s.rng := rfl
@[simp] theorem State.upd_hf_hf (v : HostFlash) : ({ s with hf := v } : State).hf = v := rfl
@[simp] theorem State.upd_hf_led (v : HostFlash) : ({ s with hf := v } : State).led = s.led := rfl
@[simp] theorem State.upd_hf_spdm (v : HostFlash) : ({ s with hf := v } : State).spdm = s.spdm := rfl
@[simp] theorem State.upd_hf_mpu (v : HostFlash) : ({ s with hf := v } : State).mpu = s.mpu := rfl
@[simp] theorem State.upd_hf_flash (v : HostFlash) : ({ s with hf := v } : State).flash = s.flash := rfl
@[simp] theorem State.upd_hf_card0 (v : HostFlash) : ({ s with hf := v } : State).card0 = s.card0 := rfl
@[simp] theorem State.upd_hf_card1 (v : HostFlash) : ({ s with hf := v } : State).card1 = s.card1 := rfl
@[simp] theorem State.upd_hf_sdh (v : HostFlash) : ({ s with hf := v } : State).sdh = s.sdh := rfl
@[simp] theorem State.upd_hf_tag (v : HostFlash) : ({ s with hf := v } : State).tag = s.tag := rfl
@[simp] theorem State.upd_hf_dispSrc (v : HostFlash) : ({ s with hf := v } : State).dispSrc = s.dispSrc := rfl
@[simp] theorem State.upd_hf_cluster (v : HostFlash) : ({ s with hf := v } : State).cluster = s.cluster := rfl
@[simp] theorem State.upd_hf_warden (v : HostFlash) : ({ s with hf := v } : State).warden = s.warden := rfl
@[simp] theorem State.upd_hf_disp (v : HostFlash) : ({ s with hf := v } : State).disp = s.disp := rfl
@[simp] theorem State.upd_hf_wbuf (v : HostFlash) : ({ s with hf := v } : State).wbuf = s.wbuf := rfl
@[simp] theorem State.upd_hf_arb (v : HostFlash) : ({ s with hf := v } : State).arb = s.arb := rfl
@[simp] theorem State.upd_hf_test (v : HostFlash) : ({ s with hf := v } : State).test = s.test := rfl
@[simp] theorem State.upd_hf_sb (v : HostFlash) : ({ s with hf := v } : State).sb = s.sb := rfl
@[simp] theorem State.upd_hf_dbg (v : HostFlash) : ({ s with hf := v } : State).dbg = s.dbg := rfl
@[simp] theorem State.upd_led_pending (v : LedState) : ({ s with led := v } : State).pending = s.pending := rfl
@[simp] theorem State.upd_led_freeCtr (v : LedState) : ({ s with led := v } : State).freeCtr = s.freeCtr := rfl
@[simp] theorem State.upd_led_regs (v : LedState) : ({ s with led := v } : State).regs = s.regs := rfl
@[simp] theorem State.upd_led_power (v : LedState) : ({ s with led := v } : State).power = s.power := rfl
@[simp] theorem State.upd_led_fuse (v : LedState) : ({ s with led := v } : State).fuse = s.fuse := rfl
@[simp] theorem State.upd_led_boot (v : LedState) : ({ s with led := v } : State).boot = s.boot := rfl
@[simp] theorem State.upd_led_cfg (v : LedState) : ({ s with led := v } : State).cfg = s.cfg := rfl
@[simp] theorem State.upd_led_image (v : LedState) : ({ s with led := v } : State).image = s.image := rfl
@[simp] theorem State.upd_led_struct (v : LedState) : ({ s with led := v } : State).struct = s.struct := rfl
@[simp] theorem State.upd_led_qm (v : LedState) : ({ s with led := v } : State).qm = s.qm := rfl
@[simp] theorem State.upd_led_tamper (v : LedState) : ({ s with led := v } : State).tamper = s.tamper := rfl
@[simp] theorem State.upd_led_fc (v : LedState) : ({ s with led := v } : State).fc = s.fc := rfl
@[simp] theorem State.upd_led_drawbar (v : LedState) : ({ s with led := v } : State).drawbar = s.drawbar := rfl
@[simp] theorem State.upd_led_ev (v : LedState) : ({ s with led := v } : State).ev = s.ev := rfl
@[simp] theorem State.upd_led_irqSrc (v : LedState) : ({ s with led := v } : State).irqSrc = s.irqSrc := rfl
@[simp] theorem State.upd_led_ks (v : LedState) : ({ s with led := v } : State).ks = s.ks := rfl
@[simp] theorem State.upd_led_hbm (v : LedState) : ({ s with led := v } : State).hbm = s.hbm := rfl
@[simp] theorem State.upd_led_quorum (v : LedState) : ({ s with led := v } : State).quorum = s.quorum := rfl
@[simp] theorem State.upd_led_sciph (v : LedState) : ({ s with led := v } : State).sciph = s.sciph := rfl
@[simp] theorem State.upd_led_spke (v : LedState) : ({ s with led := v } : State).spke = s.spke := rfl
@[simp] theorem State.upd_led_pke (v : LedState) : ({ s with led := v } : State).pke = s.pke := rfl
@[simp] theorem State.upd_led_mem (v : LedState) : ({ s with led := v } : State).mem = s.mem := rfl
@[simp] theorem State.upd_led_cip (v : LedState) : ({ s with led := v } : State).cip = s.cip := rfl
@[simp] theorem State.upd_led_rng (v : LedState) : ({ s with led := v } : State).rng = s.rng := rfl
@[simp] theorem State.upd_led_hf (v : LedState) : ({ s with led := v } : State).hf = s.hf := rfl
@[simp] theorem State.upd_led_led (v : LedState) : ({ s with led := v } : State).led = v := rfl
@[simp] theorem State.upd_led_spdm (v : LedState) : ({ s with led := v } : State).spdm = s.spdm := rfl
@[simp] theorem State.upd_led_mpu (v : LedState) : ({ s with led := v } : State).mpu = s.mpu := rfl
@[simp] theorem State.upd_led_flash (v : LedState) : ({ s with led := v } : State).flash = s.flash := rfl
@[simp] theorem State.upd_led_card0 (v : LedState) : ({ s with led := v } : State).card0 = s.card0 := rfl
@[simp] theorem State.upd_led_card1 (v : LedState) : ({ s with led := v } : State).card1 = s.card1 := rfl
@[simp] theorem State.upd_led_sdh (v : LedState) : ({ s with led := v } : State).sdh = s.sdh := rfl
@[simp] theorem State.upd_led_tag (v : LedState) : ({ s with led := v } : State).tag = s.tag := rfl
@[simp] theorem State.upd_led_dispSrc (v : LedState) : ({ s with led := v } : State).dispSrc = s.dispSrc := rfl
@[simp] theorem State.upd_led_cluster (v : LedState) : ({ s with led := v } : State).cluster = s.cluster := rfl
@[simp] theorem State.upd_led_warden (v : LedState) : ({ s with led := v } : State).warden = s.warden := rfl
@[simp] theorem State.upd_led_disp (v : LedState) : ({ s with led := v } : State).disp = s.disp := rfl
@[simp] theorem State.upd_led_wbuf (v : LedState) : ({ s with led := v } : State).wbuf = s.wbuf := rfl
@[simp] theorem State.upd_led_arb (v : LedState) : ({ s with led := v } : State).arb = s.arb := rfl
@[simp] theorem State.upd_led_test (v : LedState) : ({ s with led := v } : State).test = s.test := rfl
@[simp] theorem State.upd_led_sb (v : LedState) : ({ s with led := v } : State).sb = s.sb := rfl
@[simp] theorem State.upd_led_dbg (v : LedState) : ({ s with led := v } : State).dbg = s.dbg := rfl
@[simp] theorem State.upd_spdm_pending (v : SpdmState) : ({ s with spdm := v } : State).pending = s.pending := rfl
@[simp] theorem State.upd_spdm_freeCtr (v : SpdmState) : ({ s with spdm := v } : State).freeCtr = s.freeCtr := rfl
@[simp] theorem State.upd_spdm_regs (v : SpdmState) : ({ s with spdm := v } : State).regs = s.regs := rfl
@[simp] theorem State.upd_spdm_power (v : SpdmState) : ({ s with spdm := v } : State).power = s.power := rfl
@[simp] theorem State.upd_spdm_fuse (v : SpdmState) : ({ s with spdm := v } : State).fuse = s.fuse := rfl
@[simp] theorem State.upd_spdm_boot (v : SpdmState) : ({ s with spdm := v } : State).boot = s.boot := rfl
@[simp] theorem State.upd_spdm_cfg (v : SpdmState) : ({ s with spdm := v } : State).cfg = s.cfg := rfl
@[simp] theorem State.upd_spdm_image (v : SpdmState) : ({ s with spdm := v } : State).image = s.image := rfl
@[simp] theorem State.upd_spdm_struct (v : SpdmState) : ({ s with spdm := v } : State).struct = s.struct := rfl
@[simp] theorem State.upd_spdm_qm (v : SpdmState) : ({ s with spdm := v } : State).qm = s.qm := rfl
@[simp] theorem State.upd_spdm_tamper (v : SpdmState) : ({ s with spdm := v } : State).tamper = s.tamper := rfl
@[simp] theorem State.upd_spdm_fc (v : SpdmState) : ({ s with spdm := v } : State).fc = s.fc := rfl
@[simp] theorem State.upd_spdm_drawbar (v : SpdmState) : ({ s with spdm := v } : State).drawbar = s.drawbar := rfl
@[simp] theorem State.upd_spdm_ev (v : SpdmState) : ({ s with spdm := v } : State).ev = s.ev := rfl
@[simp] theorem State.upd_spdm_irqSrc (v : SpdmState) : ({ s with spdm := v } : State).irqSrc = s.irqSrc := rfl
@[simp] theorem State.upd_spdm_ks (v : SpdmState) : ({ s with spdm := v } : State).ks = s.ks := rfl
@[simp] theorem State.upd_spdm_hbm (v : SpdmState) : ({ s with spdm := v } : State).hbm = s.hbm := rfl
@[simp] theorem State.upd_spdm_quorum (v : SpdmState) : ({ s with spdm := v } : State).quorum = s.quorum := rfl
@[simp] theorem State.upd_spdm_sciph (v : SpdmState) : ({ s with spdm := v } : State).sciph = s.sciph := rfl
@[simp] theorem State.upd_spdm_spke (v : SpdmState) : ({ s with spdm := v } : State).spke = s.spke := rfl
@[simp] theorem State.upd_spdm_pke (v : SpdmState) : ({ s with spdm := v } : State).pke = s.pke := rfl
@[simp] theorem State.upd_spdm_mem (v : SpdmState) : ({ s with spdm := v } : State).mem = s.mem := rfl
@[simp] theorem State.upd_spdm_cip (v : SpdmState) : ({ s with spdm := v } : State).cip = s.cip := rfl
@[simp] theorem State.upd_spdm_rng (v : SpdmState) : ({ s with spdm := v } : State).rng = s.rng := rfl
@[simp] theorem State.upd_spdm_hf (v : SpdmState) : ({ s with spdm := v } : State).hf = s.hf := rfl
@[simp] theorem State.upd_spdm_led (v : SpdmState) : ({ s with spdm := v } : State).led = s.led := rfl
@[simp] theorem State.upd_spdm_spdm (v : SpdmState) : ({ s with spdm := v } : State).spdm = v := rfl
@[simp] theorem State.upd_spdm_mpu (v : SpdmState) : ({ s with spdm := v } : State).mpu = s.mpu := rfl
@[simp] theorem State.upd_spdm_flash (v : SpdmState) : ({ s with spdm := v } : State).flash = s.flash := rfl
@[simp] theorem State.upd_spdm_card0 (v : SpdmState) : ({ s with spdm := v } : State).card0 = s.card0 := rfl
@[simp] theorem State.upd_spdm_card1 (v : SpdmState) : ({ s with spdm := v } : State).card1 = s.card1 := rfl
@[simp] theorem State.upd_spdm_sdh (v : SpdmState) : ({ s with spdm := v } : State).sdh = s.sdh := rfl
@[simp] theorem State.upd_spdm_tag (v : SpdmState) : ({ s with spdm := v } : State).tag = s.tag := rfl
@[simp] theorem State.upd_spdm_dispSrc (v : SpdmState) : ({ s with spdm := v } : State).dispSrc = s.dispSrc := rfl
@[simp] theorem State.upd_spdm_cluster (v : SpdmState) : ({ s with spdm := v } : State).cluster = s.cluster := rfl
@[simp] theorem State.upd_spdm_warden (v : SpdmState) : ({ s with spdm := v } : State).warden = s.warden := rfl
@[simp] theorem State.upd_spdm_disp (v : SpdmState) : ({ s with spdm := v } : State).disp = s.disp := rfl
@[simp] theorem State.upd_spdm_wbuf (v : SpdmState) : ({ s with spdm := v } : State).wbuf = s.wbuf := rfl
@[simp] theorem State.upd_spdm_arb (v : SpdmState) : ({ s with spdm := v } : State).arb = s.arb := rfl
@[simp] theorem State.upd_spdm_test (v : SpdmState) : ({ s with spdm := v } : State).test = s.test := rfl
@[simp] theorem State.upd_spdm_sb (v : SpdmState) : ({ s with spdm := v } : State).sb = s.sb := rfl
@[simp] theorem State.upd_spdm_dbg (v : SpdmState) : ({ s with spdm := v } : State).dbg = s.dbg := rfl
@[simp] theorem State.upd_mpu_pending (v : MpuState) : ({ s with mpu := v } : State).pending = s.pending := rfl
@[simp] theorem State.upd_mpu_freeCtr (v : MpuState) : ({ s with mpu := v } : State).freeCtr = s.freeCtr := rfl
@[simp] theorem State.upd_mpu_regs (v : MpuState) : ({ s with mpu := v } : State).regs = s.regs := rfl
@[simp] theorem State.upd_mpu_power (v : MpuState) : ({ s with mpu := v } : State).power = s.power := rfl
@[simp] theorem State.upd_mpu_fuse (v : MpuState) : ({ s with mpu := v } : State).fuse = s.fuse := rfl
@[simp] theorem State.upd_mpu_boot (v : MpuState) : ({ s with mpu := v } : State).boot = s.boot := rfl
@[simp] theorem State.upd_mpu_cfg (v : MpuState) : ({ s with mpu := v } : State).cfg = s.cfg := rfl
@[simp] theorem State.upd_mpu_image (v : MpuState) : ({ s with mpu := v } : State).image = s.image := rfl
@[simp] theorem State.upd_mpu_struct (v : MpuState) : ({ s with mpu := v } : State).struct = s.struct := rfl
@[simp] theorem State.upd_mpu_qm (v : MpuState) : ({ s with mpu := v } : State).qm = s.qm := rfl
@[simp] theorem State.upd_mpu_tamper (v : MpuState) : ({ s with mpu := v } : State).tamper = s.tamper := rfl
@[simp] theorem State.upd_mpu_fc (v : MpuState) : ({ s with mpu := v } : State).fc = s.fc := rfl
@[simp] theorem State.upd_mpu_drawbar (v : MpuState) : ({ s with mpu := v } : State).drawbar = s.drawbar := rfl
@[simp] theorem State.upd_mpu_ev (v : MpuState) : ({ s with mpu := v } : State).ev = s.ev := rfl
@[simp] theorem State.upd_mpu_irqSrc (v : MpuState) : ({ s with mpu := v } : State).irqSrc = s.irqSrc := rfl
@[simp] theorem State.upd_mpu_ks (v : MpuState) : ({ s with mpu := v } : State).ks = s.ks := rfl
@[simp] theorem State.upd_mpu_hbm (v : MpuState) : ({ s with mpu := v } : State).hbm = s.hbm := rfl
@[simp] theorem State.upd_mpu_quorum (v : MpuState) : ({ s with mpu := v } : State).quorum = s.quorum := rfl
@[simp] theorem State.upd_mpu_sciph (v : MpuState) : ({ s with mpu := v } : State).sciph = s.sciph := rfl
@[simp] theorem State.upd_mpu_spke (v : MpuState) : ({ s with mpu := v } : State).spke = s.spke := rfl
@[simp] theorem State.upd_mpu_pke (v : MpuState) : ({ s with mpu := v } : State).pke = s.pke := rfl
@[simp] theorem State.upd_mpu_mem (v : MpuState) : ({ s with mpu := v } : State).mem = s.mem := rfl
@[simp] theorem State.upd_mpu_cip (v : MpuState) : ({ s with mpu := v } : State).cip = s.cip := rfl
@[simp] theorem State.upd_mpu_rng (v : MpuState) : ({ s with mpu := v } : State).rng = s.rng := rfl
@[simp] theorem State.upd_mpu_hf (v : MpuState) : ({ s with mpu := v } : State).hf = s.hf := rfl
@[simp] theorem State.upd_mpu_led (v : MpuState) : ({ s with mpu := v } : State).led = s.led := rfl
@[simp] theorem State.upd_mpu_spdm (v : MpuState) : ({ s with mpu := v } : State).spdm = s.spdm := rfl
@[simp] theorem State.upd_mpu_mpu (v : MpuState) : ({ s with mpu := v } : State).mpu = v := rfl
@[simp] theorem State.upd_mpu_flash (v : MpuState) : ({ s with mpu := v } : State).flash = s.flash := rfl
@[simp] theorem State.upd_mpu_card0 (v : MpuState) : ({ s with mpu := v } : State).card0 = s.card0 := rfl
@[simp] theorem State.upd_mpu_card1 (v : MpuState) : ({ s with mpu := v } : State).card1 = s.card1 := rfl
@[simp] theorem State.upd_mpu_sdh (v : MpuState) : ({ s with mpu := v } : State).sdh = s.sdh := rfl
@[simp] theorem State.upd_mpu_tag (v : MpuState) : ({ s with mpu := v } : State).tag = s.tag := rfl
@[simp] theorem State.upd_mpu_dispSrc (v : MpuState) : ({ s with mpu := v } : State).dispSrc = s.dispSrc := rfl
@[simp] theorem State.upd_mpu_cluster (v : MpuState) : ({ s with mpu := v } : State).cluster = s.cluster := rfl
@[simp] theorem State.upd_mpu_warden (v : MpuState) : ({ s with mpu := v } : State).warden = s.warden := rfl
@[simp] theorem State.upd_mpu_disp (v : MpuState) : ({ s with mpu := v } : State).disp = s.disp := rfl
@[simp] theorem State.upd_mpu_wbuf (v : MpuState) : ({ s with mpu := v } : State).wbuf = s.wbuf := rfl
@[simp] theorem State.upd_mpu_arb (v : MpuState) : ({ s with mpu := v } : State).arb = s.arb := rfl
@[simp] theorem State.upd_mpu_test (v : MpuState) : ({ s with mpu := v } : State).test = s.test := rfl
@[simp] theorem State.upd_mpu_sb (v : MpuState) : ({ s with mpu := v } : State).sb = s.sb := rfl
@[simp] theorem State.upd_mpu_dbg (v : MpuState) : ({ s with mpu := v } : State).dbg = s.dbg := rfl
@[simp] theorem State.upd_flash_pending (v : FlashState) : ({ s with flash := v } : State).pending = s.pending := rfl
@[simp] theorem State.upd_flash_freeCtr (v : FlashState) : ({ s with flash := v } : State).freeCtr = s.freeCtr := rfl
@[simp] theorem State.upd_flash_regs (v : FlashState) : ({ s with flash := v } : State).regs = s.regs := rfl
@[simp] theorem State.upd_flash_power (v : FlashState) : ({ s with flash := v } : State).power = s.power := rfl
@[simp] theorem State.upd_flash_fuse (v : FlashState) : ({ s with flash := v } : State).fuse = s.fuse := rfl
@[simp] theorem State.upd_flash_boot (v : FlashState) : ({ s with flash := v } : State).boot = s.boot := rfl
@[simp] theorem State.upd_flash_cfg (v : FlashState) : ({ s with flash := v } : State).cfg = s.cfg := rfl
@[simp] theorem State.upd_flash_image (v : FlashState) : ({ s with flash := v } : State).image = s.image := rfl
@[simp] theorem State.upd_flash_struct (v : FlashState) : ({ s with flash := v } : State).struct = s.struct := rfl
@[simp] theorem State.upd_flash_qm (v : FlashState) : ({ s with flash := v } : State).qm = s.qm := rfl
@[simp] theorem State.upd_flash_tamper (v : FlashState) : ({ s with flash := v } : State).tamper = s.tamper := rfl
@[simp] theorem State.upd_flash_fc (v : FlashState) : ({ s with flash := v } : State).fc = s.fc := rfl
@[simp] theorem State.upd_flash_drawbar (v : FlashState) : ({ s with flash := v } : State).drawbar = s.drawbar := rfl
@[simp] theorem State.upd_flash_ev (v : FlashState) : ({ s with flash := v } : State).ev = s.ev := rfl
@[simp] theorem State.upd_flash_irqSrc (v : FlashState) : ({ s with flash := v } : State).irqSrc = s.irqSrc := rfl
@[simp] theorem State.upd_flash_ks (v : FlashState) : ({ s with flash := v } : State).ks = s.ks := rfl
@[simp] theorem State.upd_flash_hbm (v : FlashState) : ({ s with flash := v } : State).hbm = s.hbm := rfl
@[simp] theorem State.upd_flash_quorum (v : FlashState) : ({ s with flash := v } : State).quorum = s.quorum := rfl
@[simp] theorem State.upd_flash_sciph (v : FlashState) : ({ s with flash := v } : State).sciph = s.sciph := rfl
@[simp] theorem State.upd_flash_spke (v : FlashState) : ({ s with flash := v } : State).spke = s.spke := rfl
@[simp] theorem State.upd_flash_pke (v : FlashState) : ({ s with flash := v } : State).pke = s.pke := rfl
@[simp] theorem State.upd_flash_mem (v : FlashState) : ({ s with flash := v } : State).mem = s.mem := rfl
@[simp] theorem State.upd_flash_cip (v : FlashState) : ({ s with flash := v } : State).cip = s.cip := rfl
@[simp] theorem State.upd_flash_rng (v : FlashState) : ({ s with flash := v } : State).rng = s.rng := rfl
@[simp] theorem State.upd_flash_hf (v : FlashState) : ({ s with flash := v } : State).hf = s.hf := rfl
@[simp] theorem State.upd_flash_led (v : FlashState) : ({ s with flash := v } : State).led = s.led := rfl
@[simp] theorem State.upd_flash_spdm (v : FlashState) : ({ s with flash := v } : State).spdm = s.spdm := rfl
@[simp] theorem State.upd_flash_mpu (v : FlashState) : ({ s with flash := v } : State).mpu = s.mpu := rfl
@[simp] theorem State.upd_flash_flash (v : FlashState) : ({ s with flash := v } : State).flash = v := rfl
@[simp] theorem State.upd_flash_card0 (v : FlashState) : ({ s with flash := v } : State).card0 = s.card0 := rfl
@[simp] theorem State.upd_flash_card1 (v : FlashState) : ({ s with flash := v } : State).card1 = s.card1 := rfl
@[simp] theorem State.upd_flash_sdh (v : FlashState) : ({ s with flash := v } : State).sdh = s.sdh := rfl
@[simp] theorem State.upd_flash_tag (v : FlashState) : ({ s with flash := v } : State).tag = s.tag := rfl
@[simp] theorem State.upd_flash_dispSrc (v : FlashState) : ({ s with flash := v } : State).dispSrc = s.dispSrc := rfl
@[simp] theorem State.upd_flash_cluster (v : FlashState) : ({ s with flash := v } : State).cluster = s.cluster := rfl
@[simp] theorem State.upd_flash_warden (v : FlashState) : ({ s with flash := v } : State).warden = s.warden := rfl
@[simp] theorem State.upd_flash_disp (v : FlashState) : ({ s with flash := v } : State).disp = s.disp := rfl
@[simp] theorem State.upd_flash_wbuf (v : FlashState) : ({ s with flash := v } : State).wbuf = s.wbuf := rfl
@[simp] theorem State.upd_flash_arb (v : FlashState) : ({ s with flash := v } : State).arb = s.arb := rfl
@[simp] theorem State.upd_flash_test (v : FlashState) : ({ s with flash := v } : State).test = s.test := rfl
@[simp] theorem State.upd_flash_sb (v : FlashState) : ({ s with flash := v } : State).sb = s.sb := rfl
@[simp] theorem State.upd_flash_dbg (v : FlashState) : ({ s with flash := v } : State).dbg = s.dbg := rfl
@[simp] theorem State.upd_card0_pending (v : CardPort) : ({ s with card0 := v } : State).pending = s.pending := rfl
@[simp] theorem State.upd_card0_freeCtr (v : CardPort) : ({ s with card0 := v } : State).freeCtr = s.freeCtr := rfl
@[simp] theorem State.upd_card0_regs (v : CardPort) : ({ s with card0 := v } : State).regs = s.regs := rfl
@[simp] theorem State.upd_card0_power (v : CardPort) : ({ s with card0 := v } : State).power = s.power := rfl
@[simp] theorem State.upd_card0_fuse (v : CardPort) : ({ s with card0 := v } : State).fuse = s.fuse := rfl
@[simp] theorem State.upd_card0_boot (v : CardPort) : ({ s with card0 := v } : State).boot = s.boot := rfl
@[simp] theorem State.upd_card0_cfg (v : CardPort) : ({ s with card0 := v } : State).cfg = s.cfg := rfl
@[simp] theorem State.upd_card0_image (v : CardPort) : ({ s with card0 := v } : State).image = s.image := rfl
@[simp] theorem State.upd_card0_struct (v : CardPort) : ({ s with card0 := v } : State).struct = s.struct := rfl
@[simp] theorem State.upd_card0_qm (v : CardPort) : ({ s with card0 := v } : State).qm = s.qm := rfl
@[simp] theorem State.upd_card0_tamper (v : CardPort) : ({ s with card0 := v } : State).tamper = s.tamper := rfl
@[simp] theorem State.upd_card0_fc (v : CardPort) : ({ s with card0 := v } : State).fc = s.fc := rfl
@[simp] theorem State.upd_card0_drawbar (v : CardPort) : ({ s with card0 := v } : State).drawbar = s.drawbar := rfl
@[simp] theorem State.upd_card0_ev (v : CardPort) : ({ s with card0 := v } : State).ev = s.ev := rfl
@[simp] theorem State.upd_card0_irqSrc (v : CardPort) : ({ s with card0 := v } : State).irqSrc = s.irqSrc := rfl
@[simp] theorem State.upd_card0_ks (v : CardPort) : ({ s with card0 := v } : State).ks = s.ks := rfl
@[simp] theorem State.upd_card0_hbm (v : CardPort) : ({ s with card0 := v } : State).hbm = s.hbm := rfl
@[simp] theorem State.upd_card0_quorum (v : CardPort) : ({ s with card0 := v } : State).quorum = s.quorum := rfl
@[simp] theorem State.upd_card0_sciph (v : CardPort) : ({ s with card0 := v } : State).sciph = s.sciph := rfl
@[simp] theorem State.upd_card0_spke (v : CardPort) : ({ s with card0 := v } : State).spke = s.spke := rfl
@[simp] theorem State.upd_card0_pke (v : CardPort) : ({ s with card0 := v } : State).pke = s.pke := rfl
@[simp] theorem State.upd_card0_mem (v : CardPort) : ({ s with card0 := v } : State).mem = s.mem := rfl
@[simp] theorem State.upd_card0_cip (v : CardPort) : ({ s with card0 := v } : State).cip = s.cip := rfl
@[simp] theorem State.upd_card0_rng (v : CardPort) : ({ s with card0 := v } : State).rng = s.rng := rfl
@[simp] theorem State.upd_card0_hf (v : CardPort) : ({ s with card0 := v } : State).hf = s.hf := rfl
@[simp] theorem State.upd_card0_led (v : CardPort) : ({ s with card0 := v } : State).led = s.led := rfl
@[simp] theorem State.upd_card0_spdm (v : CardPort) : ({ s with card0 := v } : State).spdm = s.spdm := rfl
@[simp] theorem State.upd_card0_mpu (v : CardPort) : ({ s with card0 := v } : State).mpu = s.mpu := rfl
@[simp] theorem State.upd_card0_flash (v : CardPort) : ({ s with card0 := v } : State).flash = s.flash := rfl
@[simp] theorem State.upd_card0_card0 (v : CardPort) : ({ s with card0 := v } : State).card0 = v := rfl
@[simp] theorem State.upd_card0_card1 (v : CardPort) : ({ s with card0 := v } : State).card1 = s.card1 := rfl
@[simp] theorem State.upd_card0_sdh (v : CardPort) : ({ s with card0 := v } : State).sdh = s.sdh := rfl
@[simp] theorem State.upd_card0_tag (v : CardPort) : ({ s with card0 := v } : State).tag = s.tag := rfl
@[simp] theorem State.upd_card0_dispSrc (v : CardPort) : ({ s with card0 := v } : State).dispSrc = s.dispSrc := rfl
@[simp] theorem State.upd_card0_cluster (v : CardPort) : ({ s with card0 := v } : State).cluster = s.cluster := rfl
@[simp] theorem State.upd_card0_warden (v : CardPort) : ({ s with card0 := v } : State).warden = s.warden := rfl
@[simp] theorem State.upd_card0_disp (v : CardPort) : ({ s with card0 := v } : State).disp = s.disp := rfl
@[simp] theorem State.upd_card0_wbuf (v : CardPort) : ({ s with card0 := v } : State).wbuf = s.wbuf := rfl
@[simp] theorem State.upd_card0_arb (v : CardPort) : ({ s with card0 := v } : State).arb = s.arb := rfl
@[simp] theorem State.upd_card0_test (v : CardPort) : ({ s with card0 := v } : State).test = s.test := rfl
@[simp] theorem State.upd_card0_sb (v : CardPort) : ({ s with card0 := v } : State).sb = s.sb := rfl
@[simp] theorem State.upd_card0_dbg (v : CardPort) : ({ s with card0 := v } : State).dbg = s.dbg := rfl
@[simp] theorem State.upd_card1_pending (v : CardPort) : ({ s with card1 := v } : State).pending = s.pending := rfl
@[simp] theorem State.upd_card1_freeCtr (v : CardPort) : ({ s with card1 := v } : State).freeCtr = s.freeCtr := rfl
@[simp] theorem State.upd_card1_regs (v : CardPort) : ({ s with card1 := v } : State).regs = s.regs := rfl
@[simp] theorem State.upd_card1_power (v : CardPort) : ({ s with card1 := v } : State).power = s.power := rfl
@[simp] theorem State.upd_card1_fuse (v : CardPort) : ({ s with card1 := v } : State).fuse = s.fuse := rfl
@[simp] theorem State.upd_card1_boot (v : CardPort) : ({ s with card1 := v } : State).boot = s.boot := rfl
@[simp] theorem State.upd_card1_cfg (v : CardPort) : ({ s with card1 := v } : State).cfg = s.cfg := rfl
@[simp] theorem State.upd_card1_image (v : CardPort) : ({ s with card1 := v } : State).image = s.image := rfl
@[simp] theorem State.upd_card1_struct (v : CardPort) : ({ s with card1 := v } : State).struct = s.struct := rfl
@[simp] theorem State.upd_card1_qm (v : CardPort) : ({ s with card1 := v } : State).qm = s.qm := rfl
@[simp] theorem State.upd_card1_tamper (v : CardPort) : ({ s with card1 := v } : State).tamper = s.tamper := rfl
@[simp] theorem State.upd_card1_fc (v : CardPort) : ({ s with card1 := v } : State).fc = s.fc := rfl
@[simp] theorem State.upd_card1_drawbar (v : CardPort) : ({ s with card1 := v } : State).drawbar = s.drawbar := rfl
@[simp] theorem State.upd_card1_ev (v : CardPort) : ({ s with card1 := v } : State).ev = s.ev := rfl
@[simp] theorem State.upd_card1_irqSrc (v : CardPort) : ({ s with card1 := v } : State).irqSrc = s.irqSrc := rfl
@[simp] theorem State.upd_card1_ks (v : CardPort) : ({ s with card1 := v } : State).ks = s.ks := rfl
@[simp] theorem State.upd_card1_hbm (v : CardPort) : ({ s with card1 := v } : State).hbm = s.hbm := rfl
@[simp] theorem State.upd_card1_quorum (v : CardPort) : ({ s with card1 := v } : State).quorum = s.quorum := rfl
@[simp] theorem State.upd_card1_sciph (v : CardPort) : ({ s with card1 := v } : State).sciph = s.sciph := rfl
@[simp] theorem State.upd_card1_spke (v : CardPort) : ({ s with card1 := v } : State).spke = s.spke := rfl
@[simp] theorem State.upd_card1_pke (v : CardPort) : ({ s with card1 := v } : State).pke = s.pke := rfl
@[simp] theorem State.upd_card1_mem (v : CardPort) : ({ s with card1 := v } : State).mem = s.mem := rfl
@[simp] theorem State.upd_card1_cip (v : CardPort) : ({ s with card1 := v } : State).cip = s.cip := rfl
@[simp] theorem State.upd_card1_rng (v : CardPort) : ({ s with card1 := v } : State).rng = s.rng := rfl
@[simp] theorem State.upd_card1_hf (v : CardPort) : ({ s with card1 := v } : State).hf = s.hf := rfl
@[simp] theorem State.upd_card1_led (v : CardPort) : ({ s with card1 := v } : State).led = s.led := rfl
@[simp] theorem State.upd_card1_spdm (v : CardPort) : ({ s with card1 := v } : State).spdm = s.spdm := rfl
@[simp] theorem State.upd_card1_mpu (v : CardPort) : ({ s with card1 := v } : State).mpu = s.mpu := rfl
@[simp] theorem State.upd_card1_flash (v : CardPort) : ({ s with card1 := v } : State).flash = s.flash := rfl
@[simp] theorem State.upd_card1_card0 (v : CardPort) : ({ s with card1 := v } : State).card0 = s.card0 := rfl
@[simp] theorem State.upd_card1_card1 (v : CardPort) : ({ s with card1 := v } : State).card1 = v := rfl
@[simp] theorem State.upd_card1_sdh (v : CardPort) : ({ s with card1 := v } : State).sdh = s.sdh := rfl
@[simp] theorem State.upd_card1_tag (v : CardPort) : ({ s with card1 := v } : State).tag = s.tag := rfl
@[simp] theorem State.upd_card1_dispSrc (v : CardPort) : ({ s with card1 := v } : State).dispSrc = s.dispSrc := rfl
@[simp] theorem State.upd_card1_cluster (v : CardPort) : ({ s with card1 := v } : State).cluster = s.cluster := rfl
@[simp] theorem State.upd_card1_warden (v : CardPort) : ({ s with card1 := v } : State).warden = s.warden := rfl
@[simp] theorem State.upd_card1_disp (v : CardPort) : ({ s with card1 := v } : State).disp = s.disp := rfl
@[simp] theorem State.upd_card1_wbuf (v : CardPort) : ({ s with card1 := v } : State).wbuf = s.wbuf := rfl
@[simp] theorem State.upd_card1_arb (v : CardPort) : ({ s with card1 := v } : State).arb = s.arb := rfl
@[simp] theorem State.upd_card1_test (v : CardPort) : ({ s with card1 := v } : State).test = s.test := rfl
@[simp] theorem State.upd_card1_sb (v : CardPort) : ({ s with card1 := v } : State).sb = s.sb := rfl
@[simp] theorem State.upd_card1_dbg (v : CardPort) : ({ s with card1 := v } : State).dbg = s.dbg := rfl
@[simp] theorem State.upd_sdh_pending (v : SdhState) : ({ s with sdh := v } : State).pending = s.pending := rfl
@[simp] theorem State.upd_sdh_freeCtr (v : SdhState) : ({ s with sdh := v } : State).freeCtr = s.freeCtr := rfl
@[simp] theorem State.upd_sdh_regs (v : SdhState) : ({ s with sdh := v } : State).regs = s.regs := rfl
@[simp] theorem State.upd_sdh_power (v : SdhState) : ({ s with sdh := v } : State).power = s.power := rfl
@[simp] theorem State.upd_sdh_fuse (v : SdhState) : ({ s with sdh := v } : State).fuse = s.fuse := rfl
@[simp] theorem State.upd_sdh_boot (v : SdhState) : ({ s with sdh := v } : State).boot = s.boot := rfl
@[simp] theorem State.upd_sdh_cfg (v : SdhState) : ({ s with sdh := v } : State).cfg = s.cfg := rfl
@[simp] theorem State.upd_sdh_image (v : SdhState) : ({ s with sdh := v } : State).image = s.image := rfl
@[simp] theorem State.upd_sdh_struct (v : SdhState) : ({ s with sdh := v } : State).struct = s.struct := rfl
@[simp] theorem State.upd_sdh_qm (v : SdhState) : ({ s with sdh := v } : State).qm = s.qm := rfl
@[simp] theorem State.upd_sdh_tamper (v : SdhState) : ({ s with sdh := v } : State).tamper = s.tamper := rfl
@[simp] theorem State.upd_sdh_fc (v : SdhState) : ({ s with sdh := v } : State).fc = s.fc := rfl
@[simp] theorem State.upd_sdh_drawbar (v : SdhState) : ({ s with sdh := v } : State).drawbar = s.drawbar := rfl
@[simp] theorem State.upd_sdh_ev (v : SdhState) : ({ s with sdh := v } : State).ev = s.ev := rfl
@[simp] theorem State.upd_sdh_irqSrc (v : SdhState) : ({ s with sdh := v } : State).irqSrc = s.irqSrc := rfl
@[simp] theorem State.upd_sdh_ks (v : SdhState) : ({ s with sdh := v } : State).ks = s.ks := rfl
@[simp] theorem State.upd_sdh_hbm (v : SdhState) : ({ s with sdh := v } : State).hbm = s.hbm := rfl
@[simp] theorem State.upd_sdh_quorum (v : SdhState) : ({ s with sdh := v } : State).quorum = s.quorum := rfl
@[simp] theorem State.upd_sdh_sciph (v : SdhState) : ({ s with sdh := v } : State).sciph = s.sciph := rfl
@[simp] theorem State.upd_sdh_spke (v : SdhState) : ({ s with sdh := v } : State).spke = s.spke := rfl
@[simp] theorem State.upd_sdh_pke (v : SdhState) : ({ s with sdh := v } : State).pke = s.pke := rfl
@[simp] theorem State.upd_sdh_mem (v : SdhState) : ({ s with sdh := v } : State).mem = s.mem := rfl
@[simp] theorem State.upd_sdh_cip (v : SdhState) : ({ s with sdh := v } : State).cip = s.cip := rfl
@[simp] theorem State.upd_sdh_rng (v : SdhState) : ({ s with sdh := v } : State).rng = s.rng := rfl
@[simp] theorem State.upd_sdh_hf (v : SdhState) : ({ s with sdh := v } : State).hf = s.hf := rfl
@[simp] theorem State.upd_sdh_led (v : SdhState) : ({ s with sdh := v } : State).led = s.led := rfl
@[simp] theorem State.upd_sdh_spdm (v : SdhState) : ({ s with sdh := v } : State).spdm = s.spdm := rfl
@[simp] theorem State.upd_sdh_mpu (v : SdhState) : ({ s with sdh := v } : State).mpu = s.mpu := rfl
@[simp] theorem State.upd_sdh_flash (v : SdhState) : ({ s with sdh := v } : State).flash = s.flash := rfl
@[simp] theorem State.upd_sdh_card0 (v : SdhState) : ({ s with sdh := v } : State).card0 = s.card0 := rfl
@[simp] theorem State.upd_sdh_card1 (v : SdhState) : ({ s with sdh := v } : State).card1 = s.card1 := rfl
@[simp] theorem State.upd_sdh_sdh (v : SdhState) : ({ s with sdh := v } : State).sdh = v := rfl
@[simp] theorem State.upd_sdh_tag (v : SdhState) : ({ s with sdh := v } : State).tag = s.tag := rfl
@[simp] theorem State.upd_sdh_dispSrc (v : SdhState) : ({ s with sdh := v } : State).dispSrc = s.dispSrc := rfl
@[simp] theorem State.upd_sdh_cluster (v : SdhState) : ({ s with sdh := v } : State).cluster = s.cluster := rfl
@[simp] theorem State.upd_sdh_warden (v : SdhState) : ({ s with sdh := v } : State).warden = s.warden := rfl
@[simp] theorem State.upd_sdh_disp (v : SdhState) : ({ s with sdh := v } : State).disp = s.disp := rfl
@[simp] theorem State.upd_sdh_wbuf (v : SdhState) : ({ s with sdh := v } : State).wbuf = s.wbuf := rfl
@[simp] theorem State.upd_sdh_arb (v : SdhState) : ({ s with sdh := v } : State).arb = s.arb := rfl
@[simp] theorem State.upd_sdh_test (v : SdhState) : ({ s with sdh := v } : State).test = s.test := rfl
@[simp] theorem State.upd_sdh_sb (v : SdhState) : ({ s with sdh := v } : State).sb = s.sb := rfl
@[simp] theorem State.upd_sdh_dbg (v : SdhState) : ({ s with sdh := v } : State).dbg = s.dbg := rfl
@[simp] theorem State.upd_tag_pending (v : TagState) : ({ s with tag := v } : State).pending = s.pending := rfl
@[simp] theorem State.upd_tag_freeCtr (v : TagState) : ({ s with tag := v } : State).freeCtr = s.freeCtr := rfl
@[simp] theorem State.upd_tag_regs (v : TagState) : ({ s with tag := v } : State).regs = s.regs := rfl
@[simp] theorem State.upd_tag_power (v : TagState) : ({ s with tag := v } : State).power = s.power := rfl
@[simp] theorem State.upd_tag_fuse (v : TagState) : ({ s with tag := v } : State).fuse = s.fuse := rfl
@[simp] theorem State.upd_tag_boot (v : TagState) : ({ s with tag := v } : State).boot = s.boot := rfl
@[simp] theorem State.upd_tag_cfg (v : TagState) : ({ s with tag := v } : State).cfg = s.cfg := rfl
@[simp] theorem State.upd_tag_image (v : TagState) : ({ s with tag := v } : State).image = s.image := rfl
@[simp] theorem State.upd_tag_struct (v : TagState) : ({ s with tag := v } : State).struct = s.struct := rfl
@[simp] theorem State.upd_tag_qm (v : TagState) : ({ s with tag := v } : State).qm = s.qm := rfl
@[simp] theorem State.upd_tag_tamper (v : TagState) : ({ s with tag := v } : State).tamper = s.tamper := rfl
@[simp] theorem State.upd_tag_fc (v : TagState) : ({ s with tag := v } : State).fc = s.fc := rfl
@[simp] theorem State.upd_tag_drawbar (v : TagState) : ({ s with tag := v } : State).drawbar = s.drawbar := rfl
@[simp] theorem State.upd_tag_ev (v : TagState) : ({ s with tag := v } : State).ev = s.ev := rfl
@[simp] theorem State.upd_tag_irqSrc (v : TagState) : ({ s with tag := v } : State).irqSrc = s.irqSrc := rfl
@[simp] theorem State.upd_tag_ks (v : TagState) : ({ s with tag := v } : State).ks = s.ks := rfl
@[simp] theorem State.upd_tag_hbm (v : TagState) : ({ s with tag := v } : State).hbm = s.hbm := rfl
@[simp] theorem State.upd_tag_quorum (v : TagState) : ({ s with tag := v } : State).quorum = s.quorum := rfl
@[simp] theorem State.upd_tag_sciph (v : TagState) : ({ s with tag := v } : State).sciph = s.sciph := rfl
@[simp] theorem State.upd_tag_spke (v : TagState) : ({ s with tag := v } : State).spke = s.spke := rfl
@[simp] theorem State.upd_tag_pke (v : TagState) : ({ s with tag := v } : State).pke = s.pke := rfl
@[simp] theorem State.upd_tag_mem (v : TagState) : ({ s with tag := v } : State).mem = s.mem := rfl
@[simp] theorem State.upd_tag_cip (v : TagState) : ({ s with tag := v } : State).cip = s.cip := rfl
@[simp] theorem State.upd_tag_rng (v : TagState) : ({ s with tag := v } : State).rng = s.rng := rfl
@[simp] theorem State.upd_tag_hf (v : TagState) : ({ s with tag := v } : State).hf = s.hf := rfl
@[simp] theorem State.upd_tag_led (v : TagState) : ({ s with tag := v } : State).led = s.led := rfl
@[simp] theorem State.upd_tag_spdm (v : TagState) : ({ s with tag := v } : State).spdm = s.spdm := rfl
@[simp] theorem State.upd_tag_mpu (v : TagState) : ({ s with tag := v } : State).mpu = s.mpu := rfl
@[simp] theorem State.upd_tag_flash (v : TagState) : ({ s with tag := v } : State).flash = s.flash := rfl
@[simp] theorem State.upd_tag_card0 (v : TagState) : ({ s with tag := v } : State).card0 = s.card0 := rfl
@[simp] theorem State.upd_tag_card1 (v : TagState) : ({ s with tag := v } : State).card1 = s.card1 := rfl
@[simp] theorem State.upd_tag_sdh (v : TagState) : ({ s with tag := v } : State).sdh = s.sdh := rfl
@[simp] theorem State.upd_tag_tag (v : TagState) : ({ s with tag := v } : State).tag = v := rfl
@[simp] theorem State.upd_tag_dispSrc (v : TagState) : ({ s with tag := v } : State).dispSrc = s.dispSrc := rfl
@[simp] theorem State.upd_tag_cluster (v : TagState) : ({ s with tag := v } : State).cluster = s.cluster := rfl
@[simp] theorem State.upd_tag_warden (v : TagState) : ({ s with tag := v } : State).warden = s.warden := rfl
@[simp] theorem State.upd_tag_disp (v : TagState) : ({ s with tag := v } : State).disp = s.disp := rfl
@[simp] theorem State.upd_tag_wbuf (v : TagState) : ({ s with tag := v } : State).wbuf = s.wbuf := rfl
@[simp] theorem State.upd_tag_arb (v : TagState) : ({ s with tag := v } : State).arb = s.arb := rfl
@[simp] theorem State.upd_tag_test (v : TagState) : ({ s with tag := v } : State).test = s.test := rfl
@[simp] theorem State.upd_tag_sb (v : TagState) : ({ s with tag := v } : State).sb = s.sb := rfl
@[simp] theorem State.upd_tag_dbg (v : TagState) : ({ s with tag := v } : State).dbg = s.dbg := rfl
@[simp] theorem State.upd_dispSrc_pending (v : List (Nat × Nat)) : ({ s with dispSrc := v } : State).pending = s.pending := rfl
@[simp] theorem State.upd_dispSrc_freeCtr (v : List (Nat × Nat)) : ({ s with dispSrc := v } : State).freeCtr = s.freeCtr := rfl
@[simp] theorem State.upd_dispSrc_regs (v : List (Nat × Nat)) : ({ s with dispSrc := v } : State).regs = s.regs := rfl
@[simp] theorem State.upd_dispSrc_power (v : List (Nat × Nat)) : ({ s with dispSrc := v } : State).power = s.power := rfl
@[simp] theorem State.upd_dispSrc_fuse (v : List (Nat × Nat)) : ({ s with dispSrc := v } : State).fuse = s.fuse := rfl
@[simp] theorem State.upd_dispSrc_boot (v : List (Nat × Nat)) : ({ s with dispSrc := v } : State).boot = s.boot := rfl
@[simp] theorem State.upd_dispSrc_cfg (v : List (Nat × Nat)) : ({ s with dispSrc := v } : State).cfg = s.cfg := rfl
@[simp] theorem State.upd_dispSrc_image (v : List (Nat × Nat)) : ({ s with dispSrc := v } : State).image = s.image := rfl
@[simp] theorem State.upd_dispSrc_struct (v : List (Nat × Nat)) : ({ s with dispSrc := v } : State).struct = s.struct := rfl
@[simp] theorem State.upd_dispSrc_qm (v : List (Nat × Nat)) : ({ s with dispSrc := v } : State).qm = s.qm := rfl
@[simp] theorem State.upd_dispSrc_tamper (v : List (Nat × Nat)) : ({ s with dispSrc := v } : State).tamper = s.tamper := rfl
@[simp] theorem State.upd_dispSrc_fc (v : List (Nat × Nat)) : ({ s with dispSrc := v } : State).fc = s.fc := rfl
@[simp] theorem State.upd_dispSrc_drawbar (v : List (Nat × Nat)) : ({ s with dispSrc := v } : State).drawbar = s.drawbar := rfl
@[simp] theorem State.upd_dispSrc_ev (v : List (Nat × Nat)) : ({ s with dispSrc := v } : State).ev = s.ev := rfl
@[simp] theorem State.upd_dispSrc_irqSrc (v : List (Nat × Nat)) : ({ s with dispSrc := v } : State).irqSrc = s.irqSrc := rfl
@[simp] theorem State.upd_dispSrc_ks (v : List (Nat × Nat)) : ({ s with dispSrc := v } : State).ks = s.ks := rfl
@[simp] theorem State.upd_dispSrc_hbm (v : List (Nat × Nat)) : ({ s with dispSrc := v } : State).hbm = s.hbm := rfl
@[simp] theorem State.upd_dispSrc_quorum (v : List (Nat × Nat)) : ({ s with dispSrc := v } : State).quorum = s.quorum := rfl
@[simp] theorem State.upd_dispSrc_sciph (v : List (Nat × Nat)) : ({ s with dispSrc := v } : State).sciph = s.sciph := rfl
@[simp] theorem State.upd_dispSrc_spke (v : List (Nat × Nat)) : ({ s with dispSrc := v } : State).spke = s.spke := rfl
@[simp] theorem State.upd_dispSrc_pke (v : List (Nat × Nat)) : ({ s with dispSrc := v } : State).pke = s.pke := rfl
@[simp] theorem State.upd_dispSrc_mem (v : List (Nat × Nat)) : ({ s with dispSrc := v } : State).mem = s.mem := rfl
@[simp] theorem State.upd_dispSrc_cip (v : List (Nat × Nat)) : ({ s with dispSrc := v } : State).cip = s.cip := rfl
@[simp] theorem State.upd_dispSrc_rng (v : List (Nat × Nat)) : ({ s with dispSrc := v } : State).rng = s.rng := rfl
@[simp] theorem State.upd_dispSrc_hf (v : List (Nat × Nat)) : ({ s with dispSrc := v } : State).hf = s.hf := rfl
@[simp] theorem State.upd_dispSrc_led (v : List (Nat × Nat)) : ({ s with dispSrc := v } : State).led = s.led := rfl
@[simp] theorem State.upd_dispSrc_spdm (v : List (Nat × Nat)) : ({ s with dispSrc := v } : State).spdm = s.spdm := rfl
@[simp] theorem State.upd_dispSrc_mpu (v : List (Nat × Nat)) : ({ s with dispSrc := v } : State).mpu = s.mpu := rfl
@[simp] theorem State.upd_dispSrc_flash (v : List (Nat × Nat)) : ({ s with dispSrc := v } : State).flash = s.flash := rfl
@[simp] theorem State.upd_dispSrc_card0 (v : List (Nat × Nat)) : ({ s with dispSrc := v } : State).card0 = s.card0 := rfl
@[simp] theorem State.upd_dispSrc_card1 (v : List (Nat × Nat)) : ({ s with dispSrc := v } : State).card1 = s.card1 := rfl
@[simp] theorem State.upd_dispSrc_sdh (v : List (Nat × Nat)) : ({ s with dispSrc := v } : State).sdh = s.sdh := rfl
@[simp] theorem State.upd_dispSrc_tag (v : List (Nat × Nat)) : ({ s with dispSrc := v } : State).tag = s.tag := rfl
@[simp] theorem State.upd_dispSrc_dispSrc (v : List (Nat × Nat)) : ({ s with dispSrc := v } : State).dispSrc = v := rfl
@[simp] theorem State.upd_dispSrc_cluster (v : List (Nat × Nat)) : ({ s with dispSrc := v } : State).cluster = s.cluster := rfl
@[simp] theorem State.upd_dispSrc_warden (v : List (Nat × Nat)) : ({ s with dispSrc := v } : State).warden = s.warden := rfl
@[simp] theorem State.upd_dispSrc_disp (v : List (Nat × Nat)) : ({ s with dispSrc := v } : State).disp = s.disp := rfl
@[simp] theorem State.upd_dispSrc_wbuf (v : List (Nat × Nat)) : ({ s with dispSrc := v } : State).wbuf = s.wbuf := rfl
@[simp] theorem State.upd_dispSrc_arb (v : List (Nat × Nat)) : ({ s with dispSrc := v } : State).arb = s.arb := rfl
@[simp] theorem State.upd_dispSrc_test (v : List (Nat × Nat)) : ({ s with dispSrc := v } : State).test = s.test := rfl
@[simp] theorem State.upd_dispSrc_sb (v : List (Nat × Nat)) : ({ s with dispSrc := v } : State).sb = s.sb := rfl
@[simp] theorem State.upd_dispSrc_dbg (v : List (Nat × Nat)) : ({ s with dispSrc := v } : State).dbg = s.dbg := rfl
@[simp] theorem State.upd_cluster_pending (v : ClusterState) : ({ s with cluster := v } : State).pending = s.pending := rfl
@[simp] theorem State.upd_cluster_freeCtr (v : ClusterState) : ({ s with cluster := v } : State).freeCtr = s.freeCtr := rfl
@[simp] theorem State.upd_cluster_regs (v : ClusterState) : ({ s with cluster := v } : State).regs = s.regs := rfl
@[simp] theorem State.upd_cluster_power (v : ClusterState) : ({ s with cluster := v } : State).power = s.power := rfl
@[simp] theorem State.upd_cluster_fuse (v : ClusterState) : ({ s with cluster := v } : State).fuse = s.fuse := rfl
@[simp] theorem State.upd_cluster_boot (v : ClusterState) : ({ s with cluster := v } : State).boot = s.boot := rfl
@[simp] theorem State.upd_cluster_cfg (v : ClusterState) : ({ s with cluster := v } : State).cfg = s.cfg := rfl
@[simp] theorem State.upd_cluster_image (v : ClusterState) : ({ s with cluster := v } : State).image = s.image := rfl
@[simp] theorem State.upd_cluster_struct (v : ClusterState) : ({ s with cluster := v } : State).struct = s.struct := rfl
@[simp] theorem State.upd_cluster_qm (v : ClusterState) : ({ s with cluster := v } : State).qm = s.qm := rfl
@[simp] theorem State.upd_cluster_tamper (v : ClusterState) : ({ s with cluster := v } : State).tamper = s.tamper := rfl
@[simp] theorem State.upd_cluster_fc (v : ClusterState) : ({ s with cluster := v } : State).fc = s.fc := rfl
@[simp] theorem State.upd_cluster_drawbar (v : ClusterState) : ({ s with cluster := v } : State).drawbar = s.drawbar := rfl
@[simp] theorem State.upd_cluster_ev (v : ClusterState) : ({ s with cluster := v } : State).ev = s.ev := rfl
@[simp] theorem State.upd_cluster_irqSrc (v : ClusterState) : ({ s with cluster := v } : State).irqSrc = s.irqSrc := rfl
@[simp] theorem State.upd_cluster_ks (v : ClusterState) : ({ s with cluster := v } : State).ks = s.ks := rfl
@[simp] theorem State.upd_cluster_hbm (v : ClusterState) : ({ s with cluster := v } : State).hbm = s.hbm := rfl
@[simp] theorem State.upd_cluster_quorum (v : ClusterState) : ({ s with cluster := v } : State).quorum = s.quorum := rfl
@[simp] theorem State.upd_cluster_sciph (v : ClusterState) : ({ s with cluster := v } : State).sciph = s.sciph := rfl
@[simp] theorem State.upd_cluster_spke (v : ClusterState) : ({ s with cluster := v } : State).spke = s.spke := rfl
@[simp] theorem State.upd_cluster_pke (v : ClusterState) : ({ s with cluster := v } : State).pke = s.pke := rfl
@[simp] theorem State.upd_cluster_mem (v : ClusterState) : ({ s with cluster := v } : State).mem = s.mem := rfl
@[simp] theorem State.upd_cluster_cip (v : ClusterState) : ({ s with cluster := v } : State).cip = s.cip := rfl
@[simp] theorem State.upd_cluster_rng (v : ClusterState) : ({ s with cluster := v } : State).rng = s.rng := rfl
@[simp] theorem State.upd_cluster_hf (v : ClusterState) : ({ s with cluster := v } : State).hf = s.hf := rfl
@[simp] theorem State.upd_cluster_led (v : ClusterState) : ({ s with cluster := v } : State).led = s.led := rfl
@[simp] theorem State.upd_cluster_spdm (v : ClusterState) : ({ s with cluster := v } : State).spdm = s.spdm := rfl
@[simp] theorem State.upd_cluster_mpu (v : ClusterState) : ({ s with cluster := v } : State).mpu = s.mpu := rfl
@[simp] theorem State.upd_cluster_flash (v : ClusterState) : ({ s with cluster := v } : State).flash = s.flash := rfl
@[simp] theorem State.upd_cluster_card0 (v : ClusterState) : ({ s with cluster := v } : State).card0 = s.card0 := rfl
@[simp] theorem State.upd_cluster_card1 (v : ClusterState) : ({ s with cluster := v } : State).card1 = s.card1 := rfl
@[simp] theorem State.upd_cluster_sdh (v : ClusterState) : ({ s with cluster := v } : State).sdh = s.sdh := rfl
@[simp] theorem State.upd_cluster_tag (v : ClusterState) : ({ s with cluster := v } : State).tag = s.tag := rfl
@[simp] theorem State.upd_cluster_dispSrc (v : ClusterState) : ({ s with cluster := v } : State).dispSrc = s.dispSrc := rfl
@[simp] theorem State.upd_cluster_cluster (v : ClusterState) : ({ s with cluster := v } : State).cluster = v := rfl
@[simp] theorem State.upd_cluster_warden (v : ClusterState) : ({ s with cluster := v } : State).warden = s.warden := rfl
@[simp] theorem State.upd_cluster_disp (v : ClusterState) : ({ s with cluster := v } : State).disp = s.disp := rfl
@[simp] theorem State.upd_cluster_wbuf (v : ClusterState) : ({ s with cluster := v } : State).wbuf = s.wbuf := rfl
@[simp] theorem State.upd_cluster_arb (v : ClusterState) : ({ s with cluster := v } : State).arb = s.arb := rfl
@[simp] theorem State.upd_cluster_test (v : ClusterState) : ({ s with cluster := v } : State).test = s.test := rfl
@[simp] theorem State.upd_cluster_sb (v : ClusterState) : ({ s with cluster := v } : State).sb = s.sb := rfl
@[simp] theorem State.upd_cluster_dbg (v : ClusterState) : ({ s with cluster := v } : State).dbg = s.dbg := rfl
@[simp] theorem State.upd_warden_pending (v : List DCore) : ({ s with warden := v } : State).pending = s.pending := rfl
@[simp] theorem State.upd_warden_freeCtr (v : List DCore) : ({ s with warden := v } : State).freeCtr = s.freeCtr := rfl
@[simp] theorem State.upd_warden_regs (v : List DCore) : ({ s with warden := v } : State).regs = s.regs := rfl
@[simp] theorem State.upd_warden_power (v : List DCore) : ({ s with warden := v } : State).power = s.power := rfl
@[simp] theorem State.upd_warden_fuse (v : List DCore) : ({ s with warden := v } : State).fuse = s.fuse := rfl
@[simp] theorem State.upd_warden_boot (v : List DCore) : ({ s with warden := v } : State).boot = s.boot := rfl
@[simp] theorem State.upd_warden_cfg (v : List DCore) : ({ s with warden := v } : State).cfg = s.cfg := rfl
@[simp] theorem State.upd_warden_image (v : List DCore) : ({ s with warden := v } : State).image = s.image := rfl
@[simp] theorem State.upd_warden_struct (v : List DCore) : ({ s with warden := v } : State).struct = s.struct := rfl
@[simp] theorem State.upd_warden_qm (v : List DCore) : ({ s with warden := v } : State).qm = s.qm := rfl
@[simp] theorem State.upd_warden_tamper (v : List DCore) : ({ s with warden := v } : State).tamper = s.tamper := rfl
@[simp] theorem State.upd_warden_fc (v : List DCore) : ({ s with warden := v } : State).fc = s.fc := rfl
@[simp] theorem State.upd_warden_drawbar (v : List DCore) : ({ s with warden := v } : State).drawbar = s.drawbar := rfl
@[simp] theorem State.upd_warden_ev (v : List DCore) : ({ s with warden := v } : State).ev = s.ev := rfl
@[simp] theorem State.upd_warden_irqSrc (v : List DCore) : ({ s with warden := v } : State).irqSrc = s.irqSrc := rfl
@[simp] theorem State.upd_warden_ks (v : List DCore) : ({ s with warden := v } : State).ks = s.ks := rfl
@[simp] theorem State.upd_warden_hbm (v : List DCore) : ({ s with warden := v } : State).hbm = s.hbm := rfl
@[simp] theorem State.upd_warden_quorum (v : List DCore) : ({ s with warden := v } : State).quorum = s.quorum := rfl
@[simp] theorem State.upd_warden_sciph (v : List DCore) : ({ s with warden := v } : State).sciph = s.sciph := rfl
@[simp] theorem State.upd_warden_spke (v : List DCore) : ({ s with warden := v } : State).spke = s.spke := rfl
@[simp] theorem State.upd_warden_pke (v : List DCore) : ({ s with warden := v } : State).pke = s.pke := rfl
@[simp] theorem State.upd_warden_mem (v : List DCore) : ({ s with warden := v } : State).mem = s.mem := rfl
@[simp] theorem State.upd_warden_cip (v : List DCore) : ({ s with warden := v } : State).cip = s.cip := rfl
@[simp] theorem State.upd_warden_rng (v : List DCore) : ({ s with warden := v } : State).rng = s.rng := rfl
@[simp] theorem State.upd_warden_hf (v : List DCore) : ({ s with warden := v } : State).hf = s.hf := rfl
@[simp] theorem State.upd_warden_led (v : List DCore) : ({ s with warden := v } : State).led = s.led := rfl
@[simp] theorem State.upd_warden_spdm (v : List DCore) : ({ s with warden := v } : State).spdm = s.spdm := rfl
@[simp] theorem State.upd_warden_mpu (v : List DCore) : ({ s with warden := v } : State).mpu = s.mpu := rfl
@[simp] theorem State.upd_warden_flash (v : List DCore) : ({ s with warden := v } : State).flash = s.flash := rfl
@[simp] theorem State.upd_warden_card0 (v : List DCore) : ({ s with warden := v } : State).card0 = s.card0 := rfl
@[simp] theorem State.upd_warden_card1 (v : List DCore) : ({ s with warden := v } : State).card1 = s.card1 := rfl
@[simp] theorem State.upd_warden_sdh (v : List DCore) : ({ s with warden := v } : State).sdh = s.sdh := rfl
@[simp] theorem State.upd_warden_tag (v : List DCore) : ({ s with warden := v } : State).tag = s.tag := rfl
@[simp] theorem State.upd_warden_dispSrc (v : List DCore) : ({ s with warden := v } : State).dispSrc = s.dispSrc := rfl
@[simp] theorem State.upd_warden_cluster (v : List DCore) : ({ s with warden := v } : State).cluster = s.cluster := rfl
@[simp] theorem State.upd_warden_warden (v : List DCore) : ({ s with warden := v } : State).warden = v := rfl
@[simp] theorem State.upd_warden_disp (v : List DCore) : ({ s with warden := v } : State).disp = s.disp := rfl
@[simp] theorem State.upd_warden_wbuf (v : List DCore) : ({ s with warden := v } : State).wbuf = s.wbuf := rfl
@[simp] theorem State.upd_warden_arb (v : List DCore) : ({ s with warden := v } : State).arb = s.arb := rfl
@[simp] theorem State.upd_warden_test (v : List DCore) : ({ s with warden := v } : State).test = s.test := rfl
@[simp] theorem State.upd_warden_sb (v : List DCore) : ({ s with warden := v } : State).sb = s.sb := rfl
@[simp] theorem State.upd_warden_dbg (v : List DCore) : ({ s with warden := v } : State).dbg = s.dbg := rfl
@[simp] theorem State.upd_disp_pending (v : List DCore) : ({ s with disp := v } : State).pending = s.pending := rfl
@[simp] theorem State.upd_disp_freeCtr (v : List DCore) : ({ s with disp := v } : State).freeCtr = s.freeCtr := rfl
@[simp] theorem State.upd_disp_regs (v : List DCore) : ({ s with disp := v } : State).regs = s.regs := rfl
@[simp] theorem State.upd_disp_power (v : List DCore) : ({ s with disp := v } : State).power = s.power := rfl
@[simp] theorem State.upd_disp_fuse (v : List DCore) : ({ s with disp := v } : State).fuse = s.fuse := rfl
@[simp] theorem State.upd_disp_boot (v : List DCore) : ({ s with disp := v } : State).boot = s.boot := rfl
@[simp] theorem State.upd_disp_cfg (v : List DCore) : ({ s with disp := v } : State).cfg = s.cfg := rfl
@[simp] theorem State.upd_disp_image (v : List DCore) : ({ s with disp := v } : State).image = s.image := rfl
@[simp] theorem State.upd_disp_struct (v : List DCore) : ({ s with disp := v } : State).struct = s.struct := rfl
@[simp] theorem State.upd_disp_qm (v : List DCore) : ({ s with disp := v } : State).qm = s.qm := rfl
@[simp] theorem State.upd_disp_tamper (v : List DCore) : ({ s with disp := v } : State).tamper = s.tamper := rfl
@[simp] theorem State.upd_disp_fc (v : List DCore) : ({ s with disp := v } : State).fc = s.fc := rfl
@[simp] theorem State.upd_disp_drawbar (v : List DCore) : ({ s with disp := v } : State).drawbar = s.drawbar := rfl
@[simp] theorem State.upd_disp_ev (v : List DCore) : ({ s with disp := v } : State).ev = s.ev := rfl
@[simp] theorem State.upd_disp_irqSrc (v : List DCore) : ({ s with disp := v } : State).irqSrc = s.irqSrc := rfl
@[simp] theorem State.upd_disp_ks (v : List DCore) : ({ s with disp := v } : State).ks = s.ks := rfl
@[simp] theorem State.upd_disp_hbm (v : List DCore) : ({ s with disp := v } : State).hbm = s.hbm := rfl
@[simp] theorem State.upd_disp_quorum (v : List DCore) : ({ s with disp := v } : State).quorum = s.quorum := rfl
@[simp] theorem State.upd_disp_sciph (v : List DCore) : ({ s with disp := v } : State).sciph = s.sciph := rfl
@[simp] theorem State.upd_disp_spke (v : List DCore) : ({ s with disp := v } : State).spke = s.spke := rfl
@[simp] theorem State.upd_disp_pke (v : List DCore) : ({ s with disp := v } : State).pke = s.pke := rfl
@[simp] theorem State.upd_disp_mem (v : List DCore) : ({ s with disp := v } : State).mem = s.mem := rfl
@[simp] theorem State.upd_disp_cip (v : List DCore) : ({ s with disp := v } : State).cip = s.cip := rfl
@[simp] theorem State.upd_disp_rng (v : List DCore) : ({ s with disp := v } : State).rng = s.rng := rfl
@[simp] theorem State.upd_disp_hf (v : List DCore) : ({ s with disp := v } : State).hf = s.hf := rfl
@[simp] theorem State.upd_disp_led (v : List DCore) : ({ s with disp := v } : State).led = s.led := rfl
@[simp] theorem State.upd_disp_spdm (v : List DCore) : ({ s with disp := v } : State).spdm = s.spdm := rfl
@[simp] theorem State.upd_disp_mpu (v : List DCore) : ({ s with disp := v } : State).mpu = s.mpu := rfl
@[simp] theorem State.upd_disp_flash (v : List DCore) : ({ s with disp := v } : State).flash = s.flash := rfl
@[simp] theorem State.upd_disp_card0 (v : List DCore) : ({ s with disp := v } : State).card0 = s.card0 := rfl
@[simp] theorem State.upd_disp_card1 (v : List DCore) : ({ s with disp := v } : State).card1 = s.card1 := rfl
@[simp] theorem State.upd_disp_sdh (v : List DCore) : ({ s with disp := v } : State).sdh = s.sdh := rfl
@[simp] theorem State.upd_disp_tag (v : List DCore) : ({ s with disp := v } : State).tag = s.tag := rfl
@[simp] theorem State.upd_disp_dispSrc (v : List DCore) : ({ s with disp := v } : State).dispSrc = s.dispSrc := rfl
@[simp] theorem State.upd_disp_cluster (v : List DCore) : ({ s with disp := v } : State).cluster = s.cluster := rfl
@[simp] theorem State.upd_disp_warden (v : List DCore) : ({ s with disp := v } : State).warden = s.warden := rfl
@[simp] theorem State.upd_disp_disp (v : List DCore) : ({ s with disp := v } : State).disp = v := rfl
@[simp] theorem State.upd_disp_wbuf (v : List DCore) : ({ s with disp := v } : State).wbuf = s.wbuf := rfl
@[simp] theorem State.upd_disp_arb (v : List DCore) : ({ s with disp := v } : State).arb = s.arb := rfl
@[simp] theorem State.upd_disp_test (v : List DCore) : ({ s with disp := v } : State).test = s.test := rfl
@[simp] theorem State.upd_disp_sb (v : List DCore) : ({ s with disp := v } : State).sb = s.sb := rfl
@[simp] theorem State.upd_disp_dbg (v : List DCore) : ({ s with disp := v } : State).dbg = s.dbg := rfl
@[simp] theorem State.upd_wbuf_pending (v : List BufWrite) : ({ s with wbuf := v } : State).pending = s.pending := rfl
@[simp] theorem State.upd_wbuf_freeCtr (v : List BufWrite) : ({ s with wbuf := v } : State).freeCtr = s.freeCtr := rfl
@[simp] theorem State.upd_wbuf_regs (v : List BufWrite) : ({ s with wbuf := v } : State).regs = s.regs := rfl
@[simp] theorem State.upd_wbuf_power (v : List BufWrite) : ({ s with wbuf := v } : State).power = s.power := rfl
@[simp] theorem State.upd_wbuf_fuse (v : List BufWrite) : ({ s with wbuf := v } : State).fuse = s.fuse := rfl
@[simp] theorem State.upd_wbuf_boot (v : List BufWrite) : ({ s with wbuf := v } : State).boot = s.boot := rfl
@[simp] theorem State.upd_wbuf_cfg (v : List BufWrite) : ({ s with wbuf := v } : State).cfg = s.cfg := rfl
@[simp] theorem State.upd_wbuf_image (v : List BufWrite) : ({ s with wbuf := v } : State).image = s.image := rfl
@[simp] theorem State.upd_wbuf_struct (v : List BufWrite) : ({ s with wbuf := v } : State).struct = s.struct := rfl
@[simp] theorem State.upd_wbuf_qm (v : List BufWrite) : ({ s with wbuf := v } : State).qm = s.qm := rfl
@[simp] theorem State.upd_wbuf_tamper (v : List BufWrite) : ({ s with wbuf := v } : State).tamper = s.tamper := rfl
@[simp] theorem State.upd_wbuf_fc (v : List BufWrite) : ({ s with wbuf := v } : State).fc = s.fc := rfl
@[simp] theorem State.upd_wbuf_drawbar (v : List BufWrite) : ({ s with wbuf := v } : State).drawbar = s.drawbar := rfl
@[simp] theorem State.upd_wbuf_ev (v : List BufWrite) : ({ s with wbuf := v } : State).ev = s.ev := rfl
@[simp] theorem State.upd_wbuf_irqSrc (v : List BufWrite) : ({ s with wbuf := v } : State).irqSrc = s.irqSrc := rfl
@[simp] theorem State.upd_wbuf_ks (v : List BufWrite) : ({ s with wbuf := v } : State).ks = s.ks := rfl
@[simp] theorem State.upd_wbuf_hbm (v : List BufWrite) : ({ s with wbuf := v } : State).hbm = s.hbm := rfl
@[simp] theorem State.upd_wbuf_quorum (v : List BufWrite) : ({ s with wbuf := v } : State).quorum = s.quorum := rfl
@[simp] theorem State.upd_wbuf_sciph (v : List BufWrite) : ({ s with wbuf := v } : State).sciph = s.sciph := rfl
@[simp] theorem State.upd_wbuf_spke (v : List BufWrite) : ({ s with wbuf := v } : State).spke = s.spke := rfl
@[simp] theorem State.upd_wbuf_pke (v : List BufWrite) : ({ s with wbuf := v } : State).pke = s.pke := rfl
@[simp] theorem State.upd_wbuf_mem (v : List BufWrite) : ({ s with wbuf := v } : State).mem = s.mem := rfl
@[simp] theorem State.upd_wbuf_cip (v : List BufWrite) : ({ s with wbuf := v } : State).cip = s.cip := rfl
@[simp] theorem State.upd_wbuf_rng (v : List BufWrite) : ({ s with wbuf := v } : State).rng = s.rng := rfl
@[simp] theorem State.upd_wbuf_hf (v : List BufWrite) : ({ s with wbuf := v } : State).hf = s.hf := rfl
@[simp] theorem State.upd_wbuf_led (v : List BufWrite) : ({ s with wbuf := v } : State).led = s.led := rfl
@[simp] theorem State.upd_wbuf_spdm (v : List BufWrite) : ({ s with wbuf := v } : State).spdm = s.spdm := rfl
@[simp] theorem State.upd_wbuf_mpu (v : List BufWrite) : ({ s with wbuf := v } : State).mpu = s.mpu := rfl
@[simp] theorem State.upd_wbuf_flash (v : List BufWrite) : ({ s with wbuf := v } : State).flash = s.flash := rfl
@[simp] theorem State.upd_wbuf_card0 (v : List BufWrite) : ({ s with wbuf := v } : State).card0 = s.card0 := rfl
@[simp] theorem State.upd_wbuf_card1 (v : List BufWrite) : ({ s with wbuf := v } : State).card1 = s.card1 := rfl
@[simp] theorem State.upd_wbuf_sdh (v : List BufWrite) : ({ s with wbuf := v } : State).sdh = s.sdh := rfl
@[simp] theorem State.upd_wbuf_tag (v : List BufWrite) : ({ s with wbuf := v } : State).tag = s.tag := rfl
@[simp] theorem State.upd_wbuf_dispSrc (v : List BufWrite) : ({ s with wbuf := v } : State).dispSrc = s.dispSrc := rfl
@[simp] theorem State.upd_wbuf_cluster (v : List BufWrite) : ({ s with wbuf := v } : State).cluster = s.cluster := rfl
@[simp] theorem State.upd_wbuf_warden (v : List BufWrite) : ({ s with wbuf := v } : State).warden = s.warden := rfl
@[simp] theorem State.upd_wbuf_disp (v : List BufWrite) : ({ s with wbuf := v } : State).disp = s.disp := rfl
@[simp] theorem State.upd_wbuf_wbuf (v : List BufWrite) : ({ s with wbuf := v } : State).wbuf = v := rfl
@[simp] theorem State.upd_wbuf_arb (v : List BufWrite) : ({ s with wbuf := v } : State).arb = s.arb := rfl
@[simp] theorem State.upd_wbuf_test (v : List BufWrite) : ({ s with wbuf := v } : State).test = s.test := rfl
@[simp] theorem State.upd_wbuf_sb (v : List BufWrite) : ({ s with wbuf := v } : State).sb = s.sb := rfl
@[simp] theorem State.upd_wbuf_dbg (v : List BufWrite) : ({ s with wbuf := v } : State).dbg = s.dbg := rfl
@[simp] theorem State.upd_arb_pending (v : ArbState) : ({ s with arb := v } : State).pending = s.pending := rfl
@[simp] theorem State.upd_arb_freeCtr (v : ArbState) : ({ s with arb := v } : State).freeCtr = s.freeCtr := rfl
@[simp] theorem State.upd_arb_regs (v : ArbState) : ({ s with arb := v } : State).regs = s.regs := rfl
@[simp] theorem State.upd_arb_power (v : ArbState) : ({ s with arb := v } : State).power = s.power := rfl
@[simp] theorem State.upd_arb_fuse (v : ArbState) : ({ s with arb := v } : State).fuse = s.fuse := rfl
@[simp] theorem State.upd_arb_boot (v : ArbState) : ({ s with arb := v } : State).boot = s.boot := rfl
@[simp] theorem State.upd_arb_cfg (v : ArbState) : ({ s with arb := v } : State).cfg = s.cfg := rfl
@[simp] theorem State.upd_arb_image (v : ArbState) : ({ s with arb := v } : State).image = s.image := rfl
@[simp] theorem State.upd_arb_struct (v : ArbState) : ({ s with arb := v } : State).struct = s.struct := rfl
@[simp] theorem State.upd_arb_qm (v : ArbState) : ({ s with arb := v } : State).qm = s.qm := rfl
@[simp] theorem State.upd_arb_tamper (v : ArbState) : ({ s with arb := v } : State).tamper = s.tamper := rfl
@[simp] theorem State.upd_arb_fc (v : ArbState) : ({ s with arb := v } : State).fc = s.fc := rfl
@[simp] theorem State.upd_arb_drawbar (v : ArbState) : ({ s with arb := v } : State).drawbar = s.drawbar := rfl
@[simp] theorem State.upd_arb_ev (v : ArbState) : ({ s with arb := v } : State).ev = s.ev := rfl
@[simp] theorem State.upd_arb_irqSrc (v : ArbState) : ({ s with arb := v } : State).irqSrc = s.irqSrc := rfl
@[simp] theorem State.upd_arb_ks (v : ArbState) : ({ s with arb := v } : State).ks = s.ks := rfl
@[simp] theorem State.upd_arb_hbm (v : ArbState) : ({ s with arb := v } : State).hbm = s.hbm := rfl
@[simp] theorem State.upd_arb_quorum (v : ArbState) : ({ s with arb := v } : State).quorum = s.quorum := rfl
@[simp] theorem State.upd_arb_sciph (v : ArbState) : ({ s with arb := v } : State).sciph = s.sciph := rfl
@[simp] theorem State.upd_arb_spke (v : ArbState) : ({ s with arb := v } : State).spke = s.spke := rfl
@[simp] theorem State.upd_arb_pke (v : ArbState) : ({ s with arb := v } : State).pke = s.pke := rfl
@[simp] theorem State.upd_arb_mem (v : ArbState) : ({ s with arb := v } : State).mem = s.mem := rfl
@[simp] theorem State.upd_arb_cip (v : ArbState) : ({ s with arb := v } : State).cip = s.cip := rfl
@[simp] theorem State.upd_arb_rng (v : ArbState) : ({ s with arb := v } : State).rng = s.rng := rfl
@[simp] theorem State.upd_arb_hf (v : ArbState) : ({ s with arb := v } : State).hf = s.hf := rfl
@[simp] theorem State.upd_arb_led (v : ArbState) : ({ s with arb := v } : State).led = s.led := rfl
@[simp] theorem State.upd_arb_spdm (v : ArbState) : ({ s with arb := v } : State).spdm = s.spdm := rfl
@[simp] theorem State.upd_arb_mpu (v : ArbState) : ({ s with arb := v } : State).mpu = s.mpu := rfl
@[simp] theorem State.upd_arb_flash (v : ArbState) : ({ s with arb := v } : State).flash = s.flash := rfl
@[simp] theorem State.upd_arb_card0 (v : ArbState) : ({ s with arb := v } : State).card0 = s.card0 := rfl
@[simp] theorem State.upd_arb_card1 (v : ArbState) : ({ s with arb := v } : State).card1 = s.card1 := rfl
@[simp] theorem State.upd_arb_sdh (v : ArbState) : ({ s with arb := v } : State).sdh = s.sdh := rfl
@[simp] theorem State.upd_arb_tag (v : ArbState) : ({ s with arb := v } : State).tag = s.tag := rfl
@[simp] theorem State.upd_arb_dispSrc (v : ArbState) : ({ s with arb := v } : State).dispSrc = s.dispSrc := rfl
@[simp] theorem State.upd_arb_cluster (v : ArbState) : ({ s with arb := v } : State).cluster = s.cluster := rfl
@[simp] theorem State.upd_arb_warden (v : ArbState) : ({ s with arb := v } : State).warden = s.warden := rfl
@[simp] theorem State.upd_arb_disp (v : ArbState) : ({ s with arb := v } : State).disp = s.disp := rfl
@[simp] theorem State.upd_arb_wbuf (v : ArbState) : ({ s with arb := v } : State).wbuf = s.wbuf := rfl
@[simp] theorem State.upd_arb_arb (v : ArbState) : ({ s with arb := v } : State).arb = v := rfl
@[simp] theorem State.upd_arb_test (v : ArbState) : ({ s with arb := v } : State).test = s.test := rfl
@[simp] theorem State.upd_arb_sb (v : ArbState) : ({ s with arb := v } : State).sb = s.sb := rfl
@[simp] theorem State.upd_arb_dbg (v : ArbState) : ({ s with arb := v } : State).dbg = s.dbg := rfl
@[simp] theorem State.upd_test_pending (v : Option TestRun) : ({ s with test := v } : State).pending = s.pending := rfl
@[simp] theorem State.upd_test_freeCtr (v : Option TestRun) : ({ s with test := v } : State).freeCtr = s.freeCtr := rfl
@[simp] theorem State.upd_test_regs (v : Option TestRun) : ({ s with test := v } : State).regs = s.regs := rfl
@[simp] theorem State.upd_test_power (v : Option TestRun) : ({ s with test := v } : State).power = s.power := rfl
@[simp] theorem State.upd_test_fuse (v : Option TestRun) : ({ s with test := v } : State).fuse = s.fuse := rfl
@[simp] theorem State.upd_test_boot (v : Option TestRun) : ({ s with test := v } : State).boot = s.boot := rfl
@[simp] theorem State.upd_test_cfg (v : Option TestRun) : ({ s with test := v } : State).cfg = s.cfg := rfl
@[simp] theorem State.upd_test_image (v : Option TestRun) : ({ s with test := v } : State).image = s.image := rfl
@[simp] theorem State.upd_test_struct (v : Option TestRun) : ({ s with test := v } : State).struct = s.struct := rfl
@[simp] theorem State.upd_test_qm (v : Option TestRun) : ({ s with test := v } : State).qm = s.qm := rfl
@[simp] theorem State.upd_test_tamper (v : Option TestRun) : ({ s with test := v } : State).tamper = s.tamper := rfl
@[simp] theorem State.upd_test_fc (v : Option TestRun) : ({ s with test := v } : State).fc = s.fc := rfl
@[simp] theorem State.upd_test_drawbar (v : Option TestRun) : ({ s with test := v } : State).drawbar = s.drawbar := rfl
@[simp] theorem State.upd_test_ev (v : Option TestRun) : ({ s with test := v } : State).ev = s.ev := rfl
@[simp] theorem State.upd_test_irqSrc (v : Option TestRun) : ({ s with test := v } : State).irqSrc = s.irqSrc := rfl
@[simp] theorem State.upd_test_ks (v : Option TestRun) : ({ s with test := v } : State).ks = s.ks := rfl
@[simp] theorem State.upd_test_hbm (v : Option TestRun) : ({ s with test := v } : State).hbm = s.hbm := rfl
@[simp] theorem State.upd_test_quorum (v : Option TestRun) : ({ s with test := v } : State).quorum = s.quorum := rfl
@[simp] theorem State.upd_test_sciph (v : Option TestRun) : ({ s with test := v } : State).sciph = s.sciph := rfl
@[simp] theorem State.upd_test_spke (v : Option TestRun) : ({ s with test := v } : State).spke = s.spke := rfl
@[simp] theorem State.upd_test_pke (v : Option TestRun) : ({ s with test := v } : State).pke = s.pke := rfl
@[simp] theorem State.upd_test_mem (v : Option TestRun) : ({ s with test := v } : State).mem = s.mem := rfl
@[simp] theorem State.upd_test_cip (v : Option TestRun) : ({ s with test := v } : State).cip = s.cip := rfl
@[simp] theorem State.upd_test_rng (v : Option TestRun) : ({ s with test := v } : State).rng = s.rng := rfl
@[simp] theorem State.upd_test_hf (v : Option TestRun) : ({ s with test := v } : State).hf = s.hf := rfl
@[simp] theorem State.upd_test_led (v : Option TestRun) : ({ s with test := v } : State).led = s.led := rfl
@[simp] theorem State.upd_test_spdm (v : Option TestRun) : ({ s with test := v } : State).spdm = s.spdm := rfl
@[simp] theorem State.upd_test_mpu (v : Option TestRun) : ({ s with test := v } : State).mpu = s.mpu := rfl
@[simp] theorem State.upd_test_flash (v : Option TestRun) : ({ s with test := v } : State).flash = s.flash := rfl
@[simp] theorem State.upd_test_card0 (v : Option TestRun) : ({ s with test := v } : State).card0 = s.card0 := rfl
@[simp] theorem State.upd_test_card1 (v : Option TestRun) : ({ s with test := v } : State).card1 = s.card1 := rfl
@[simp] theorem State.upd_test_sdh (v : Option TestRun) : ({ s with test := v } : State).sdh = s.sdh := rfl
@[simp] theorem State.upd_test_tag (v : Option TestRun) : ({ s with test := v } : State).tag = s.tag := rfl
@[simp] theorem State.upd_test_dispSrc (v : Option TestRun) : ({ s with test := v } : State).dispSrc = s.dispSrc := rfl
@[simp] theorem State.upd_test_cluster (v : Option TestRun) : ({ s with test := v } : State).cluster = s.cluster := rfl
@[simp] theorem State.upd_test_warden (v : Option TestRun) : ({ s with test := v } : State).warden = s.warden := rfl
@[simp] theorem State.upd_test_disp (v : Option TestRun) : ({ s with test := v } : State).disp = s.disp := rfl
@[simp] theorem State.upd_test_wbuf (v : Option TestRun) : ({ s with test := v } : State).wbuf = s.wbuf := rfl
@[simp] theorem State.upd_test_arb (v : Option TestRun) : ({ s with test := v } : State).arb = s.arb := rfl
@[simp] theorem State.upd_test_test (v : Option TestRun) : ({ s with test := v } : State).test = v := rfl
@[simp] theorem State.upd_test_sb (v : Option TestRun) : ({ s with test := v } : State).sb = s.sb := rfl
@[simp] theorem State.upd_test_dbg (v : Option TestRun) : ({ s with test := v } : State).dbg = s.dbg := rfl
@[simp] theorem State.upd_sb_pending (v : SidebState) : ({ s with sb := v } : State).pending = s.pending := rfl
@[simp] theorem State.upd_sb_freeCtr (v : SidebState) : ({ s with sb := v } : State).freeCtr = s.freeCtr := rfl
@[simp] theorem State.upd_sb_regs (v : SidebState) : ({ s with sb := v } : State).regs = s.regs := rfl
@[simp] theorem State.upd_sb_power (v : SidebState) : ({ s with sb := v } : State).power = s.power := rfl
@[simp] theorem State.upd_sb_fuse (v : SidebState) : ({ s with sb := v } : State).fuse = s.fuse := rfl
@[simp] theorem State.upd_sb_boot (v : SidebState) : ({ s with sb := v } : State).boot = s.boot := rfl
@[simp] theorem State.upd_sb_cfg (v : SidebState) : ({ s with sb := v } : State).cfg = s.cfg := rfl
@[simp] theorem State.upd_sb_image (v : SidebState) : ({ s with sb := v } : State).image = s.image := rfl
@[simp] theorem State.upd_sb_struct (v : SidebState) : ({ s with sb := v } : State).struct = s.struct := rfl
@[simp] theorem State.upd_sb_qm (v : SidebState) : ({ s with sb := v } : State).qm = s.qm := rfl
@[simp] theorem State.upd_sb_tamper (v : SidebState) : ({ s with sb := v } : State).tamper = s.tamper := rfl
@[simp] theorem State.upd_sb_fc (v : SidebState) : ({ s with sb := v } : State).fc = s.fc := rfl
@[simp] theorem State.upd_sb_drawbar (v : SidebState) : ({ s with sb := v } : State).drawbar = s.drawbar := rfl
@[simp] theorem State.upd_sb_ev (v : SidebState) : ({ s with sb := v } : State).ev = s.ev := rfl
@[simp] theorem State.upd_sb_irqSrc (v : SidebState) : ({ s with sb := v } : State).irqSrc = s.irqSrc := rfl
@[simp] theorem State.upd_sb_ks (v : SidebState) : ({ s with sb := v } : State).ks = s.ks := rfl
@[simp] theorem State.upd_sb_hbm (v : SidebState) : ({ s with sb := v } : State).hbm = s.hbm := rfl
@[simp] theorem State.upd_sb_quorum (v : SidebState) : ({ s with sb := v } : State).quorum = s.quorum := rfl
@[simp] theorem State.upd_sb_sciph (v : SidebState) : ({ s with sb := v } : State).sciph = s.sciph := rfl
@[simp] theorem State.upd_sb_spke (v : SidebState) : ({ s with sb := v } : State).spke = s.spke := rfl
@[simp] theorem State.upd_sb_pke (v : SidebState) : ({ s with sb := v } : State).pke = s.pke := rfl
@[simp] theorem State.upd_sb_mem (v : SidebState) : ({ s with sb := v } : State).mem = s.mem := rfl
@[simp] theorem State.upd_sb_cip (v : SidebState) : ({ s with sb := v } : State).cip = s.cip := rfl
@[simp] theorem State.upd_sb_rng (v : SidebState) : ({ s with sb := v } : State).rng = s.rng := rfl
@[simp] theorem State.upd_sb_hf (v : SidebState) : ({ s with sb := v } : State).hf = s.hf := rfl
@[simp] theorem State.upd_sb_led (v : SidebState) : ({ s with sb := v } : State).led = s.led := rfl
@[simp] theorem State.upd_sb_spdm (v : SidebState) : ({ s with sb := v } : State).spdm = s.spdm := rfl
@[simp] theorem State.upd_sb_mpu (v : SidebState) : ({ s with sb := v } : State).mpu = s.mpu := rfl
@[simp] theorem State.upd_sb_flash (v : SidebState) : ({ s with sb := v } : State).flash = s.flash := rfl
@[simp] theorem State.upd_sb_card0 (v : SidebState) : ({ s with sb := v } : State).card0 = s.card0 := rfl
@[simp] theorem State.upd_sb_card1 (v : SidebState) : ({ s with sb := v } : State).card1 = s.card1 := rfl
@[simp] theorem State.upd_sb_sdh (v : SidebState) : ({ s with sb := v } : State).sdh = s.sdh := rfl
@[simp] theorem State.upd_sb_tag (v : SidebState) : ({ s with sb := v } : State).tag = s.tag := rfl
@[simp] theorem State.upd_sb_dispSrc (v : SidebState) : ({ s with sb := v } : State).dispSrc = s.dispSrc := rfl
@[simp] theorem State.upd_sb_cluster (v : SidebState) : ({ s with sb := v } : State).cluster = s.cluster := rfl
@[simp] theorem State.upd_sb_warden (v : SidebState) : ({ s with sb := v } : State).warden = s.warden := rfl
@[simp] theorem State.upd_sb_disp (v : SidebState) : ({ s with sb := v } : State).disp = s.disp := rfl
@[simp] theorem State.upd_sb_wbuf (v : SidebState) : ({ s with sb := v } : State).wbuf = s.wbuf := rfl
@[simp] theorem State.upd_sb_arb (v : SidebState) : ({ s with sb := v } : State).arb = s.arb := rfl
@[simp] theorem State.upd_sb_test (v : SidebState) : ({ s with sb := v } : State).test = s.test := rfl
@[simp] theorem State.upd_sb_sb (v : SidebState) : ({ s with sb := v } : State).sb = v := rfl
@[simp] theorem State.upd_sb_dbg (v : SidebState) : ({ s with sb := v } : State).dbg = s.dbg := rfl
@[simp] theorem State.upd_dbg_pending (v : DebugState) : ({ s with dbg := v } : State).pending = s.pending := rfl
@[simp] theorem State.upd_dbg_freeCtr (v : DebugState) : ({ s with dbg := v } : State).freeCtr = s.freeCtr := rfl
@[simp] theorem State.upd_dbg_regs (v : DebugState) : ({ s with dbg := v } : State).regs = s.regs := rfl
@[simp] theorem State.upd_dbg_power (v : DebugState) : ({ s with dbg := v } : State).power = s.power := rfl
@[simp] theorem State.upd_dbg_fuse (v : DebugState) : ({ s with dbg := v } : State).fuse = s.fuse := rfl
@[simp] theorem State.upd_dbg_boot (v : DebugState) : ({ s with dbg := v } : State).boot = s.boot := rfl
@[simp] theorem State.upd_dbg_cfg (v : DebugState) : ({ s with dbg := v } : State).cfg = s.cfg := rfl
@[simp] theorem State.upd_dbg_image (v : DebugState) : ({ s with dbg := v } : State).image = s.image := rfl
@[simp] theorem State.upd_dbg_struct (v : DebugState) : ({ s with dbg := v } : State).struct = s.struct := rfl
@[simp] theorem State.upd_dbg_qm (v : DebugState) : ({ s with dbg := v } : State).qm = s.qm := rfl
@[simp] theorem State.upd_dbg_tamper (v : DebugState) : ({ s with dbg := v } : State).tamper = s.tamper := rfl
@[simp] theorem State.upd_dbg_fc (v : DebugState) : ({ s with dbg := v } : State).fc = s.fc := rfl
@[simp] theorem State.upd_dbg_drawbar (v : DebugState) : ({ s with dbg := v } : State).drawbar = s.drawbar := rfl
@[simp] theorem State.upd_dbg_ev (v : DebugState) : ({ s with dbg := v } : State).ev = s.ev := rfl
@[simp] theorem State.upd_dbg_irqSrc (v : DebugState) : ({ s with dbg := v } : State).irqSrc = s.irqSrc := rfl
@[simp] theorem State.upd_dbg_ks (v : DebugState) : ({ s with dbg := v } : State).ks = s.ks := rfl
@[simp] theorem State.upd_dbg_hbm (v : DebugState) : ({ s with dbg := v } : State).hbm = s.hbm := rfl
@[simp] theorem State.upd_dbg_quorum (v : DebugState) : ({ s with dbg := v } : State).quorum = s.quorum := rfl
@[simp] theorem State.upd_dbg_sciph (v : DebugState) : ({ s with dbg := v } : State).sciph = s.sciph := rfl
@[simp] theorem State.upd_dbg_spke (v : DebugState) : ({ s with dbg := v } : State).spke = s.spke := rfl
@[simp] theorem State.upd_dbg_pke (v : DebugState) : ({ s with dbg := v } : State).pke = s.pke := rfl
@[simp] theorem State.upd_dbg_mem (v : DebugState) : ({ s with dbg := v } : State).mem = s.mem := rfl
@[simp] theorem State.upd_dbg_cip (v : DebugState) : ({ s with dbg := v } : State).cip = s.cip := rfl
@[simp] theorem State.upd_dbg_rng (v : DebugState) : ({ s with dbg := v } : State).rng = s.rng := rfl
@[simp] theorem State.upd_dbg_hf (v : DebugState) : ({ s with dbg := v } : State).hf = s.hf := rfl
@[simp] theorem State.upd_dbg_led (v : DebugState) : ({ s with dbg := v } : State).led = s.led := rfl
@[simp] theorem State.upd_dbg_spdm (v : DebugState) : ({ s with dbg := v } : State).spdm = s.spdm := rfl
@[simp] theorem State.upd_dbg_mpu (v : DebugState) : ({ s with dbg := v } : State).mpu = s.mpu := rfl
@[simp] theorem State.upd_dbg_flash (v : DebugState) : ({ s with dbg := v } : State).flash = s.flash := rfl
@[simp] theorem State.upd_dbg_card0 (v : DebugState) : ({ s with dbg := v } : State).card0 = s.card0 := rfl
@[simp] theorem State.upd_dbg_card1 (v : DebugState) : ({ s with dbg := v } : State).card1 = s.card1 := rfl
@[simp] theorem State.upd_dbg_sdh (v : DebugState) : ({ s with dbg := v } : State).sdh = s.sdh := rfl
@[simp] theorem State.upd_dbg_tag (v : DebugState) : ({ s with dbg := v } : State).tag = s.tag := rfl
@[simp] theorem State.upd_dbg_dispSrc (v : DebugState) : ({ s with dbg := v } : State).dispSrc = s.dispSrc := rfl
@[simp] theorem State.upd_dbg_cluster (v : DebugState) : ({ s with dbg := v } : State).cluster = s.cluster := rfl
@[simp] theorem State.upd_dbg_warden (v : DebugState) : ({ s with dbg := v } : State).warden = s.warden := rfl
@[simp] theorem State.upd_dbg_disp (v : DebugState) : ({ s with dbg := v } : State).disp = s.disp := rfl
@[simp] theorem State.upd_dbg_wbuf (v : DebugState) : ({ s with dbg := v } : State).wbuf = s.wbuf := rfl
@[simp] theorem State.upd_dbg_arb (v : DebugState) : ({ s with dbg := v } : State).arb = s.arb := rfl
@[simp] theorem State.upd_dbg_test (v : DebugState) : ({ s with dbg := v } : State).test = s.test := rfl
@[simp] theorem State.upd_dbg_sb (v : DebugState) : ({ s with dbg := v } : State).sb = s.sb := rfl
@[simp] theorem State.upd_dbg_dbg (v : DebugState) : ({ s with dbg := v } : State).dbg = v := rfl

end Sys2Proof.Machine
end

