-- ==== Sys2Proof/Laws/Ops.lean ====
section
/-!
SUPPORT. Laws/Ops.lean: what reads of registers answer after writes, and what the register operations leave alone.
-/
namespace Sys2Proof.Machine

variable (s : State)

/-- A register field holds what was put into it, at its width. -/
@[simp] theorem getF_setF_same (f : Field) (v : Nat) : getF (setF s f v) f = v % 2 ^ f.width := mapGet_set_same _ _ _ _

/-- Other fields stay. -/
theorem getF_setF_ne {f g : Field} (v : Nat) (h : f.key ≠ g.key) : getF (setF s f v) g = getF s g := mapGet_set_ne _ _ _ _ h

@[simp] theorem getF_setB_same (f : Field) (b : Bool) (h : f.hi = f.lo) : getF (setB s f b) f = if b then 1 else 0 := by
  cases b <;> simp [setB, Field.width, h]
theorem getF_setB_ne {f g : Field} (b : Bool) (h : f.key ≠ g.key) : getF (setB s f b) g = getF s g := getF_setF_ne _ _ h

@[simp] theorem isSet_setF_one (f : Field) : isSet (setF s f 1) f = true := by
  have : 1 % 2 ^ f.width ≠ 0 := by
    rw [Nat.mod_eq_of_lt] <;> simp [Field.width]
  simp [isSet, this]
@[simp] theorem isSet_setF_zero (f : Field) : isSet (setF s f 0) f = false := by simp [isSet]
theorem isSet_setF_ne {f g : Field} (v : Nat) (h : f.key ≠ g.key) : isSet (setF s f v) g = isSet s g := by
  simp [isSet, getF_setF_ne _ _ h]

@[simp] theorem getF_upd_pending (v : List Instr) (f : Field) : getF ({ s with pending := v } : State) f = getF s f := rfl
@[simp] theorem isSet_upd_pending (v : List Instr) (f : Field) : isSet ({ s with pending := v } : State) f = isSet s f := rfl
@[simp] theorem getF_upd_freeCtr (v : Nat) (f : Field) : getF ({ s with freeCtr := v } : State) f = getF s f := rfl
@[simp] theorem isSet_upd_freeCtr (v : Nat) (f : Field) : isSet ({ s with freeCtr := v } : State) f = isSet s f := rfl
@[simp] theorem getF_upd_power (v : PowerState) (f : Field) : getF ({ s with power := v } : State) f = getF s f := rfl
@[simp] theorem isSet_upd_power (v : PowerState) (f : Field) : isSet ({ s with power := v } : State) f = isSet s f := rfl
@[simp] theorem getF_upd_fuse (v : FuseState) (f : Field) : getF ({ s with fuse := v } : State) f = getF s f := rfl
@[simp] theorem isSet_upd_fuse (v : FuseState) (f : Field) : isSet ({ s with fuse := v } : State) f = isSet s f := rfl
@[simp] theorem getF_upd_boot (v : BootState) (f : Field) : getF ({ s with boot := v } : State) f = getF s f := rfl
@[simp] theorem isSet_upd_boot (v : BootState) (f : Field) : isSet ({ s with boot := v } : State) f = isSet s f := rfl
@[simp] theorem getF_upd_cfg (v : CfgFlash) (f : Field) : getF ({ s with cfg := v } : State) f = getF s f := rfl
@[simp] theorem isSet_upd_cfg (v : CfgFlash) (f : Field) : isSet ({ s with cfg := v } : State) f = isSet s f := rfl
@[simp] theorem getF_upd_image (v : Option Image) (f : Field) : getF ({ s with image := v } : State) f = getF s f := rfl
@[simp] theorem isSet_upd_image (v : Option Image) (f : Field) : isSet ({ s with image := v } : State) f = isSet s f := rfl
@[simp] theorem getF_upd_struct (v : StructState) (f : Field) : getF ({ s with struct := v } : State) f = getF s f := rfl
@[simp] theorem isSet_upd_struct (v : StructState) (f : Field) : isSet ({ s with struct := v } : State) f = isSet s f := rfl
@[simp] theorem getF_upd_qm (v : QmState) (f : Field) : getF ({ s with qm := v } : State) f = getF s f := rfl
@[simp] theorem isSet_upd_qm (v : QmState) (f : Field) : isSet ({ s with qm := v } : State) f = isSet s f := rfl
@[simp] theorem getF_upd_tamper (v : TamperState) (f : Field) : getF ({ s with tamper := v } : State) f = getF s f := rfl
@[simp] theorem isSet_upd_tamper (v : TamperState) (f : Field) : isSet ({ s with tamper := v } : State) f = isSet s f := rfl
@[simp] theorem getF_upd_fc (v : FaultState) (f : Field) : getF ({ s with fc := v } : State) f = getF s f := rfl
@[simp] theorem isSet_upd_fc (v : FaultState) (f : Field) : isSet ({ s with fc := v } : State) f = isSet s f := rfl
@[simp] theorem getF_upd_drawbar (v : Drawbar) (f : Field) : getF ({ s with drawbar := v } : State) f = getF s f := rfl
@[simp] theorem isSet_upd_drawbar (v : Drawbar) (f : Field) : isSet ({ s with drawbar := v } : State) f = isSet s f := rfl
@[simp] theorem getF_upd_ev (v : EvState) (f : Field) : getF ({ s with ev := v } : State) f = getF s f := rfl
@[simp] theorem isSet_upd_ev (v : EvState) (f : Field) : isSet ({ s with ev := v } : State) f = isSet s f := rfl
@[simp] theorem getF_upd_irqSrc (v : BitVec 64) (f : Field) : getF ({ s with irqSrc := v } : State) f = getF s f := rfl
@[simp] theorem isSet_upd_irqSrc (v : BitVec 64) (f : Field) : isSet ({ s with irqSrc := v } : State) f = isSet s f := rfl
@[simp] theorem getF_upd_ks (v : KsState) (f : Field) : getF ({ s with ks := v } : State) f = getF s f := rfl
@[simp] theorem isSet_upd_ks (v : KsState) (f : Field) : isSet ({ s with ks := v } : State) f = isSet s f := rfl
@[simp] theorem getF_upd_hbm (v : HbmState) (f : Field) : getF ({ s with hbm := v } : State) f = getF s f := rfl
@[simp] theorem isSet_upd_hbm (v : HbmState) (f : Field) : isSet ({ s with hbm := v } : State) f = isSet s f := rfl
@[simp] theorem getF_upd_quorum (v : QuorumState) (f : Field) : getF ({ s with quorum := v } : State) f = getF s f := rfl
@[simp] theorem isSet_upd_quorum (v : QuorumState) (f : Field) : isSet ({ s with quorum := v } : State) f = isSet s f := rfl
@[simp] theorem getF_upd_sciph (v : SciphState) (f : Field) : getF ({ s with sciph := v } : State) f = getF s f := rfl
@[simp] theorem isSet_upd_sciph (v : SciphState) (f : Field) : isSet ({ s with sciph := v } : State) f = isSet s f := rfl
@[simp] theorem getF_upd_spke (v : SpkeState) (f : Field) : getF ({ s with spke := v } : State) f = getF s f := rfl
@[simp] theorem isSet_upd_spke (v : SpkeState) (f : Field) : isSet ({ s with spke := v } : State) f = isSet s f := rfl
@[simp] theorem getF_upd_pke (v : PkeState) (f : Field) : getF ({ s with pke := v } : State) f = getF s f := rfl
@[simp] theorem isSet_upd_pke (v : PkeState) (f : Field) : isSet ({ s with pke := v } : State) f = isSet s f := rfl
@[simp] theorem getF_upd_mem (v : MemState) (f : Field) : getF ({ s with mem := v } : State) f = getF s f := rfl
@[simp] theorem isSet_upd_mem (v : MemState) (f : Field) : isSet ({ s with mem := v } : State) f = isSet s f := rfl
@[simp] theorem getF_upd_cip (v : CipState) (f : Field) : getF ({ s with cip := v } : State) f = getF s f := rfl
@[simp] theorem isSet_upd_cip (v : CipState) (f : Field) : isSet ({ s with cip := v } : State) f = isSet s f := rfl
@[simp] theorem getF_upd_rng (v : RngState) (f : Field) : getF ({ s with rng := v } : State) f = getF s f := rfl
@[simp] theorem isSet_upd_rng (v : RngState) (f : Field) : isSet ({ s with rng := v } : State) f = isSet s f := rfl
@[simp] theorem getF_upd_hf (v : HostFlash) (f : Field) : getF ({ s with hf := v } : State) f = getF s f := rfl
@[simp] theorem isSet_upd_hf (v : HostFlash) (f : Field) : isSet ({ s with hf := v } : State) f = isSet s f := rfl
@[simp] theorem getF_upd_led (v : LedState) (f : Field) : getF ({ s with led := v } : State) f = getF s f := rfl
@[simp] theorem isSet_upd_led (v : LedState) (f : Field) : isSet ({ s with led := v } : State) f = isSet s f := rfl
@[simp] theorem getF_upd_spdm (v : SpdmState) (f : Field) : getF ({ s with spdm := v } : State) f = getF s f := rfl
@[simp] theorem isSet_upd_spdm (v : SpdmState) (f : Field) : isSet ({ s with spdm := v } : State) f = isSet s f := rfl
@[simp] theorem getF_upd_mpu (v : MpuState) (f : Field) : getF ({ s with mpu := v } : State) f = getF s f := rfl
@[simp] theorem isSet_upd_mpu (v : MpuState) (f : Field) : isSet ({ s with mpu := v } : State) f = isSet s f := rfl
@[simp] theorem getF_upd_flash (v : FlashState) (f : Field) : getF ({ s with flash := v } : State) f = getF s f := rfl
@[simp] theorem isSet_upd_flash (v : FlashState) (f : Field) : isSet ({ s with flash := v } : State) f = isSet s f := rfl
@[simp] theorem getF_upd_card0 (v : CardPort) (f : Field) : getF ({ s with card0 := v } : State) f = getF s f := rfl
@[simp] theorem isSet_upd_card0 (v : CardPort) (f : Field) : isSet ({ s with card0 := v } : State) f = isSet s f := rfl
@[simp] theorem getF_upd_card1 (v : CardPort) (f : Field) : getF ({ s with card1 := v } : State) f = getF s f := rfl
@[simp] theorem isSet_upd_card1 (v : CardPort) (f : Field) : isSet ({ s with card1 := v } : State) f = isSet s f := rfl
@[simp] theorem getF_upd_sdh (v : SdhState) (f : Field) : getF ({ s with sdh := v } : State) f = getF s f := rfl
@[simp] theorem isSet_upd_sdh (v : SdhState) (f : Field) : isSet ({ s with sdh := v } : State) f = isSet s f := rfl
@[simp] theorem getF_upd_tag (v : TagState) (f : Field) : getF ({ s with tag := v } : State) f = getF s f := rfl
@[simp] theorem isSet_upd_tag (v : TagState) (f : Field) : isSet ({ s with tag := v } : State) f = isSet s f := rfl
@[simp] theorem getF_upd_dispSrc (v : List (Nat × Nat)) (f : Field) : getF ({ s with dispSrc := v } : State) f = getF s f := rfl
@[simp] theorem isSet_upd_dispSrc (v : List (Nat × Nat)) (f : Field) : isSet ({ s with dispSrc := v } : State) f = isSet s f := rfl
@[simp] theorem getF_upd_cluster (v : ClusterState) (f : Field) : getF ({ s with cluster := v } : State) f = getF s f := rfl
@[simp] theorem isSet_upd_cluster (v : ClusterState) (f : Field) : isSet ({ s with cluster := v } : State) f = isSet s f := rfl
@[simp] theorem getF_upd_warden (v : List DCore) (f : Field) : getF ({ s with warden := v } : State) f = getF s f := rfl
@[simp] theorem isSet_upd_warden (v : List DCore) (f : Field) : isSet ({ s with warden := v } : State) f = isSet s f := rfl
@[simp] theorem getF_upd_disp (v : List DCore) (f : Field) : getF ({ s with disp := v } : State) f = getF s f := rfl
@[simp] theorem getF_upd_wbuf (v : List BufWrite) (f : Field) : getF ({ s with wbuf := v } : State) f = getF s f := rfl
@[simp] theorem isSet_upd_disp (v : List DCore) (f : Field) : isSet ({ s with disp := v } : State) f = isSet s f := rfl
@[simp] theorem isSet_upd_wbuf (v : List BufWrite) (f : Field) : isSet ({ s with wbuf := v } : State) f = isSet s f := rfl
@[simp] theorem getF_upd_arb (v : ArbState) (f : Field) : getF ({ s with arb := v } : State) f = getF s f := rfl
@[simp] theorem isSet_upd_arb (v : ArbState) (f : Field) : isSet ({ s with arb := v } : State) f = isSet s f := rfl
@[simp] theorem getF_upd_test (v : Option TestRun) (f : Field) : getF ({ s with test := v } : State) f = getF s f := rfl
@[simp] theorem isSet_upd_test (v : Option TestRun) (f : Field) : isSet ({ s with test := v } : State) f = isSet s f := rfl
@[simp] theorem getF_upd_sb (v : SidebState) (f : Field) : getF ({ s with sb := v } : State) f = getF s f := rfl
@[simp] theorem isSet_upd_sb (v : SidebState) (f : Field) : isSet ({ s with sb := v } : State) f = isSet s f := rfl
@[simp] theorem getF_upd_dbg (v : DebugState) (f : Field) : getF ({ s with dbg := v } : State) f = getF s f := rfl
@[simp] theorem isSet_upd_dbg (v : DebugState) (f : Field) : isSet ({ s with dbg := v } : State) f = isSet s f := rfl

@[simp] theorem setF_pending (f : Field) (v : Nat) : (setF s f v).pending = s.pending := rfl
@[simp] theorem setF_freeCtr (f : Field) (v : Nat) : (setF s f v).freeCtr = s.freeCtr := rfl
@[simp] theorem setF_power (f : Field) (v : Nat) : (setF s f v).power = s.power := rfl
@[simp] theorem setF_fuse (f : Field) (v : Nat) : (setF s f v).fuse = s.fuse := rfl
@[simp] theorem setF_boot (f : Field) (v : Nat) : (setF s f v).boot = s.boot := rfl
@[simp] theorem setF_cfg (f : Field) (v : Nat) : (setF s f v).cfg = s.cfg := rfl
@[simp] theorem setF_image (f : Field) (v : Nat) : (setF s f v).image = s.image := rfl
@[simp] theorem setF_struct (f : Field) (v : Nat) : (setF s f v).struct = s.struct := rfl
@[simp] theorem setF_qm (f : Field) (v : Nat) : (setF s f v).qm = s.qm := rfl
@[simp] theorem setF_tamper (f : Field) (v : Nat) : (setF s f v).tamper = s.tamper := rfl
@[simp] theorem setF_fc (f : Field) (v : Nat) : (setF s f v).fc = s.fc := rfl
@[simp] theorem setF_drawbar (f : Field) (v : Nat) : (setF s f v).drawbar = s.drawbar := rfl
@[simp] theorem setF_ev (f : Field) (v : Nat) : (setF s f v).ev = s.ev := rfl
@[simp] theorem setF_irqSrc (f : Field) (v : Nat) : (setF s f v).irqSrc = s.irqSrc := rfl
@[simp] theorem setF_ks (f : Field) (v : Nat) : (setF s f v).ks = s.ks := rfl
@[simp] theorem setF_hbm (f : Field) (v : Nat) : (setF s f v).hbm = s.hbm := rfl
@[simp] theorem setF_quorum (f : Field) (v : Nat) : (setF s f v).quorum = s.quorum := rfl
@[simp] theorem setF_sciph (f : Field) (v : Nat) : (setF s f v).sciph = s.sciph := rfl
@[simp] theorem setF_spke (f : Field) (v : Nat) : (setF s f v).spke = s.spke := rfl
@[simp] theorem setF_pke (f : Field) (v : Nat) : (setF s f v).pke = s.pke := rfl
@[simp] theorem setF_mem (f : Field) (v : Nat) : (setF s f v).mem = s.mem := rfl
@[simp] theorem setF_cip (f : Field) (v : Nat) : (setF s f v).cip = s.cip := rfl
@[simp] theorem setF_rng (f : Field) (v : Nat) : (setF s f v).rng = s.rng := rfl
@[simp] theorem setF_hf (f : Field) (v : Nat) : (setF s f v).hf = s.hf := rfl
@[simp] theorem setF_led (f : Field) (v : Nat) : (setF s f v).led = s.led := rfl
@[simp] theorem setF_spdm (f : Field) (v : Nat) : (setF s f v).spdm = s.spdm := rfl
@[simp] theorem setF_mpu (f : Field) (v : Nat) : (setF s f v).mpu = s.mpu := rfl
@[simp] theorem setF_flash (f : Field) (v : Nat) : (setF s f v).flash = s.flash := rfl
@[simp] theorem setF_card0 (f : Field) (v : Nat) : (setF s f v).card0 = s.card0 := rfl
@[simp] theorem setF_card1 (f : Field) (v : Nat) : (setF s f v).card1 = s.card1 := rfl
@[simp] theorem setF_sdh (f : Field) (v : Nat) : (setF s f v).sdh = s.sdh := rfl
@[simp] theorem setF_tag (f : Field) (v : Nat) : (setF s f v).tag = s.tag := rfl
@[simp] theorem setF_dispSrc (f : Field) (v : Nat) : (setF s f v).dispSrc = s.dispSrc := rfl
@[simp] theorem setF_cluster (f : Field) (v : Nat) : (setF s f v).cluster = s.cluster := rfl
@[simp] theorem setF_warden (f : Field) (v : Nat) : (setF s f v).warden = s.warden := rfl
@[simp] theorem setF_disp (f : Field) (v : Nat) : (setF s f v).disp = s.disp := rfl
@[simp] theorem setF_wbuf (f : Field) (v : Nat) : (setF s f v).wbuf = s.wbuf := rfl
@[simp] theorem setF_arb (f : Field) (v : Nat) : (setF s f v).arb = s.arb := rfl
@[simp] theorem setF_test (f : Field) (v : Nat) : (setF s f v).test = s.test := rfl
@[simp] theorem setF_sb (f : Field) (v : Nat) : (setF s f v).sb = s.sb := rfl
@[simp] theorem setF_dbg (f : Field) (v : Nat) : (setF s f v).dbg = s.dbg := rfl
@[simp] theorem setB_pending (f : Field) (b : Bool) : (setB s f b).pending = s.pending := rfl
@[simp] theorem setB_freeCtr (f : Field) (b : Bool) : (setB s f b).freeCtr = s.freeCtr := rfl
@[simp] theorem setB_power (f : Field) (b : Bool) : (setB s f b).power = s.power := rfl
@[simp] theorem setB_fuse (f : Field) (b : Bool) : (setB s f b).fuse = s.fuse := rfl
@[simp] theorem setB_boot (f : Field) (b : Bool) : (setB s f b).boot = s.boot := rfl
@[simp] theorem setB_cfg (f : Field) (b : Bool) : (setB s f b).cfg = s.cfg := rfl
@[simp] theorem setB_image (f : Field) (b : Bool) : (setB s f b).image = s.image := rfl
@[simp] theorem setB_struct (f : Field) (b : Bool) : (setB s f b).struct = s.struct := rfl
@[simp] theorem setB_qm (f : Field) (b : Bool) : (setB s f b).qm = s.qm := rfl
@[simp] theorem setB_tamper (f : Field) (b : Bool) : (setB s f b).tamper = s.tamper := rfl
@[simp] theorem setB_fc (f : Field) (b : Bool) : (setB s f b).fc = s.fc := rfl
@[simp] theorem setB_drawbar (f : Field) (b : Bool) : (setB s f b).drawbar = s.drawbar := rfl
@[simp] theorem setB_ev (f : Field) (b : Bool) : (setB s f b).ev = s.ev := rfl
@[simp] theorem setB_irqSrc (f : Field) (b : Bool) : (setB s f b).irqSrc = s.irqSrc := rfl
@[simp] theorem setB_ks (f : Field) (b : Bool) : (setB s f b).ks = s.ks := rfl
@[simp] theorem setB_hbm (f : Field) (b : Bool) : (setB s f b).hbm = s.hbm := rfl
@[simp] theorem setB_quorum (f : Field) (b : Bool) : (setB s f b).quorum = s.quorum := rfl
@[simp] theorem setB_sciph (f : Field) (b : Bool) : (setB s f b).sciph = s.sciph := rfl
@[simp] theorem setB_spke (f : Field) (b : Bool) : (setB s f b).spke = s.spke := rfl
@[simp] theorem setB_pke (f : Field) (b : Bool) : (setB s f b).pke = s.pke := rfl
@[simp] theorem setB_mem (f : Field) (b : Bool) : (setB s f b).mem = s.mem := rfl
@[simp] theorem setB_cip (f : Field) (b : Bool) : (setB s f b).cip = s.cip := rfl
@[simp] theorem setB_rng (f : Field) (b : Bool) : (setB s f b).rng = s.rng := rfl
@[simp] theorem setB_hf (f : Field) (b : Bool) : (setB s f b).hf = s.hf := rfl
@[simp] theorem setB_led (f : Field) (b : Bool) : (setB s f b).led = s.led := rfl
@[simp] theorem setB_spdm (f : Field) (b : Bool) : (setB s f b).spdm = s.spdm := rfl
@[simp] theorem setB_mpu (f : Field) (b : Bool) : (setB s f b).mpu = s.mpu := rfl
@[simp] theorem setB_flash (f : Field) (b : Bool) : (setB s f b).flash = s.flash := rfl
@[simp] theorem setB_card0 (f : Field) (b : Bool) : (setB s f b).card0 = s.card0 := rfl
@[simp] theorem setB_card1 (f : Field) (b : Bool) : (setB s f b).card1 = s.card1 := rfl
@[simp] theorem setB_sdh (f : Field) (b : Bool) : (setB s f b).sdh = s.sdh := rfl
@[simp] theorem setB_tag (f : Field) (b : Bool) : (setB s f b).tag = s.tag := rfl
@[simp] theorem setB_dispSrc (f : Field) (b : Bool) : (setB s f b).dispSrc = s.dispSrc := rfl
@[simp] theorem setB_cluster (f : Field) (b : Bool) : (setB s f b).cluster = s.cluster := rfl
@[simp] theorem setB_warden (f : Field) (b : Bool) : (setB s f b).warden = s.warden := rfl
@[simp] theorem setB_disp (f : Field) (b : Bool) : (setB s f b).disp = s.disp := rfl
@[simp] theorem setB_wbuf (f : Field) (b : Bool) : (setB s f b).wbuf = s.wbuf := rfl
@[simp] theorem setB_arb (f : Field) (b : Bool) : (setB s f b).arb = s.arb := rfl
@[simp] theorem setB_test (f : Field) (b : Bool) : (setB s f b).test = s.test := rfl
@[simp] theorem setB_sb (f : Field) (b : Bool) : (setB s f b).sb = s.sb := rfl
@[simp] theorem setB_dbg (f : Field) (b : Bool) : (setB s f b).dbg = s.dbg := rfl
@[simp] theorem raise_pending (n : Nat) : (raise s n).pending = s.pending := rfl
@[simp] theorem raise_freeCtr (n : Nat) : (raise s n).freeCtr = s.freeCtr := rfl
@[simp] theorem raise_regs (n : Nat) : (raise s n).regs = s.regs := rfl
@[simp] theorem raise_power (n : Nat) : (raise s n).power = s.power := rfl
@[simp] theorem raise_fuse (n : Nat) : (raise s n).fuse = s.fuse := rfl
@[simp] theorem raise_boot (n : Nat) : (raise s n).boot = s.boot := rfl
@[simp] theorem raise_cfg (n : Nat) : (raise s n).cfg = s.cfg := rfl
@[simp] theorem raise_image (n : Nat) : (raise s n).image = s.image := rfl
@[simp] theorem raise_struct (n : Nat) : (raise s n).struct = s.struct := rfl
@[simp] theorem raise_qm (n : Nat) : (raise s n).qm = s.qm := rfl
@[simp] theorem raise_tamper (n : Nat) : (raise s n).tamper = s.tamper := rfl
@[simp] theorem raise_fc (n : Nat) : (raise s n).fc = s.fc := rfl
@[simp] theorem raise_drawbar (n : Nat) : (raise s n).drawbar = s.drawbar := rfl
@[simp] theorem raise_ev (n : Nat) : (raise s n).ev = s.ev := rfl
@[simp] theorem raise_ks (n : Nat) : (raise s n).ks = s.ks := rfl
@[simp] theorem raise_hbm (n : Nat) : (raise s n).hbm = s.hbm := rfl
@[simp] theorem raise_quorum (n : Nat) : (raise s n).quorum = s.quorum := rfl
@[simp] theorem raise_sciph (n : Nat) : (raise s n).sciph = s.sciph := rfl
@[simp] theorem raise_spke (n : Nat) : (raise s n).spke = s.spke := rfl
@[simp] theorem raise_pke (n : Nat) : (raise s n).pke = s.pke := rfl
@[simp] theorem raise_mem (n : Nat) : (raise s n).mem = s.mem := rfl
@[simp] theorem raise_cip (n : Nat) : (raise s n).cip = s.cip := rfl
@[simp] theorem raise_rng (n : Nat) : (raise s n).rng = s.rng := rfl
@[simp] theorem raise_hf (n : Nat) : (raise s n).hf = s.hf := rfl
@[simp] theorem raise_led (n : Nat) : (raise s n).led = s.led := rfl
@[simp] theorem raise_spdm (n : Nat) : (raise s n).spdm = s.spdm := rfl
@[simp] theorem raise_mpu (n : Nat) : (raise s n).mpu = s.mpu := rfl
@[simp] theorem raise_flash (n : Nat) : (raise s n).flash = s.flash := rfl
@[simp] theorem raise_card0 (n : Nat) : (raise s n).card0 = s.card0 := rfl
@[simp] theorem raise_card1 (n : Nat) : (raise s n).card1 = s.card1 := rfl
@[simp] theorem raise_sdh (n : Nat) : (raise s n).sdh = s.sdh := rfl
@[simp] theorem raise_tag (n : Nat) : (raise s n).tag = s.tag := rfl
@[simp] theorem raise_dispSrc (n : Nat) : (raise s n).dispSrc = s.dispSrc := rfl
@[simp] theorem raise_cluster (n : Nat) : (raise s n).cluster = s.cluster := rfl
@[simp] theorem raise_warden (n : Nat) : (raise s n).warden = s.warden := rfl
@[simp] theorem raise_disp (n : Nat) : (raise s n).disp = s.disp := rfl
@[simp] theorem raise_wbuf (n : Nat) : (raise s n).wbuf = s.wbuf := rfl
@[simp] theorem raise_arb (n : Nat) : (raise s n).arb = s.arb := rfl
@[simp] theorem raise_test (n : Nat) : (raise s n).test = s.test := rfl
@[simp] theorem raise_sb (n : Nat) : (raise s n).sb = s.sb := rfl
@[simp] theorem raise_dbg (n : Nat) : (raise s n).dbg = s.dbg := rfl
@[simp] theorem getF_raise (n : Nat) (f : Field) : getF (raise s n) f = getF s f := rfl
@[simp] theorem isSet_raise (n : Nat) (f : Field) : isSet (raise s n) f = isSet s f := rfl
@[simp] theorem draw_pending (k : Nat) : (draw s k).2.pending = s.pending := rfl
@[simp] theorem drawBytes_pending (k : Nat) : (drawBytes s k).2.pending = s.pending := rfl
@[simp] theorem draw_regs (k : Nat) : (draw s k).2.regs = s.regs := rfl
@[simp] theorem drawBytes_regs (k : Nat) : (drawBytes s k).2.regs = s.regs := rfl
@[simp] theorem draw_power (k : Nat) : (draw s k).2.power = s.power := rfl
@[simp] theorem drawBytes_power (k : Nat) : (drawBytes s k).2.power = s.power := rfl
@[simp] theorem draw_fuse (k : Nat) : (draw s k).2.fuse = s.fuse := rfl
@[simp] theorem drawBytes_fuse (k : Nat) : (drawBytes s k).2.fuse = s.fuse := rfl
@[simp] theorem draw_boot (k : Nat) : (draw s k).2.boot = s.boot := rfl
@[simp] theorem drawBytes_boot (k : Nat) : (drawBytes s k).2.boot = s.boot := rfl
@[simp] theorem draw_cfg (k : Nat) : (draw s k).2.cfg = s.cfg := rfl
@[simp] theorem drawBytes_cfg (k : Nat) : (drawBytes s k).2.cfg = s.cfg := rfl
@[simp] theorem draw_image (k : Nat) : (draw s k).2.image = s.image := rfl
@[simp] theorem drawBytes_image (k : Nat) : (drawBytes s k).2.image = s.image := rfl
@[simp] theorem draw_struct (k : Nat) : (draw s k).2.struct = s.struct := rfl
@[simp] theorem drawBytes_struct (k : Nat) : (drawBytes s k).2.struct = s.struct := rfl
@[simp] theorem draw_qm (k : Nat) : (draw s k).2.qm = s.qm := rfl
@[simp] theorem drawBytes_qm (k : Nat) : (drawBytes s k).2.qm = s.qm := rfl
@[simp] theorem draw_tamper (k : Nat) : (draw s k).2.tamper = s.tamper := rfl
@[simp] theorem drawBytes_tamper (k : Nat) : (drawBytes s k).2.tamper = s.tamper := rfl
@[simp] theorem draw_fc (k : Nat) : (draw s k).2.fc = s.fc := rfl
@[simp] theorem drawBytes_fc (k : Nat) : (drawBytes s k).2.fc = s.fc := rfl
@[simp] theorem draw_drawbar (k : Nat) : (draw s k).2.drawbar = s.drawbar := rfl
@[simp] theorem drawBytes_drawbar (k : Nat) : (drawBytes s k).2.drawbar = s.drawbar := rfl
@[simp] theorem draw_ev (k : Nat) : (draw s k).2.ev = s.ev := rfl
@[simp] theorem drawBytes_ev (k : Nat) : (drawBytes s k).2.ev = s.ev := rfl
@[simp] theorem draw_irqSrc (k : Nat) : (draw s k).2.irqSrc = s.irqSrc := rfl
@[simp] theorem drawBytes_irqSrc (k : Nat) : (drawBytes s k).2.irqSrc = s.irqSrc := rfl
@[simp] theorem draw_ks (k : Nat) : (draw s k).2.ks = s.ks := rfl
@[simp] theorem drawBytes_ks (k : Nat) : (drawBytes s k).2.ks = s.ks := rfl
@[simp] theorem draw_hbm (k : Nat) : (draw s k).2.hbm = s.hbm := rfl
@[simp] theorem drawBytes_hbm (k : Nat) : (drawBytes s k).2.hbm = s.hbm := rfl
@[simp] theorem draw_quorum (k : Nat) : (draw s k).2.quorum = s.quorum := rfl
@[simp] theorem drawBytes_quorum (k : Nat) : (drawBytes s k).2.quorum = s.quorum := rfl
@[simp] theorem draw_sciph (k : Nat) : (draw s k).2.sciph = s.sciph := rfl
@[simp] theorem drawBytes_sciph (k : Nat) : (drawBytes s k).2.sciph = s.sciph := rfl
@[simp] theorem draw_spke (k : Nat) : (draw s k).2.spke = s.spke := rfl
@[simp] theorem drawBytes_spke (k : Nat) : (drawBytes s k).2.spke = s.spke := rfl
@[simp] theorem draw_pke (k : Nat) : (draw s k).2.pke = s.pke := rfl
@[simp] theorem drawBytes_pke (k : Nat) : (drawBytes s k).2.pke = s.pke := rfl
@[simp] theorem draw_mem (k : Nat) : (draw s k).2.mem = s.mem := rfl
@[simp] theorem drawBytes_mem (k : Nat) : (drawBytes s k).2.mem = s.mem := rfl
@[simp] theorem draw_cip (k : Nat) : (draw s k).2.cip = s.cip := rfl
@[simp] theorem drawBytes_cip (k : Nat) : (drawBytes s k).2.cip = s.cip := rfl
@[simp] theorem draw_rng (k : Nat) : (draw s k).2.rng = s.rng := rfl
@[simp] theorem drawBytes_rng (k : Nat) : (drawBytes s k).2.rng = s.rng := rfl
@[simp] theorem draw_hf (k : Nat) : (draw s k).2.hf = s.hf := rfl
@[simp] theorem drawBytes_hf (k : Nat) : (drawBytes s k).2.hf = s.hf := rfl
@[simp] theorem draw_led (k : Nat) : (draw s k).2.led = s.led := rfl
@[simp] theorem drawBytes_led (k : Nat) : (drawBytes s k).2.led = s.led := rfl
@[simp] theorem draw_spdm (k : Nat) : (draw s k).2.spdm = s.spdm := rfl
@[simp] theorem drawBytes_spdm (k : Nat) : (drawBytes s k).2.spdm = s.spdm := rfl
@[simp] theorem draw_mpu (k : Nat) : (draw s k).2.mpu = s.mpu := rfl
@[simp] theorem drawBytes_mpu (k : Nat) : (drawBytes s k).2.mpu = s.mpu := rfl
@[simp] theorem draw_flash (k : Nat) : (draw s k).2.flash = s.flash := rfl
@[simp] theorem drawBytes_flash (k : Nat) : (drawBytes s k).2.flash = s.flash := rfl
@[simp] theorem draw_card0 (k : Nat) : (draw s k).2.card0 = s.card0 := rfl
@[simp] theorem drawBytes_card0 (k : Nat) : (drawBytes s k).2.card0 = s.card0 := rfl
@[simp] theorem draw_card1 (k : Nat) : (draw s k).2.card1 = s.card1 := rfl
@[simp] theorem drawBytes_card1 (k : Nat) : (drawBytes s k).2.card1 = s.card1 := rfl
@[simp] theorem draw_sdh (k : Nat) : (draw s k).2.sdh = s.sdh := rfl
@[simp] theorem drawBytes_sdh (k : Nat) : (drawBytes s k).2.sdh = s.sdh := rfl
@[simp] theorem draw_tag (k : Nat) : (draw s k).2.tag = s.tag := rfl
@[simp] theorem drawBytes_tag (k : Nat) : (drawBytes s k).2.tag = s.tag := rfl
@[simp] theorem draw_dispSrc (k : Nat) : (draw s k).2.dispSrc = s.dispSrc := rfl
@[simp] theorem drawBytes_dispSrc (k : Nat) : (drawBytes s k).2.dispSrc = s.dispSrc := rfl
@[simp] theorem draw_cluster (k : Nat) : (draw s k).2.cluster = s.cluster := rfl
@[simp] theorem drawBytes_cluster (k : Nat) : (drawBytes s k).2.cluster = s.cluster := rfl
@[simp] theorem draw_warden (k : Nat) : (draw s k).2.warden = s.warden := rfl
@[simp] theorem drawBytes_warden (k : Nat) : (drawBytes s k).2.warden = s.warden := rfl
@[simp] theorem draw_disp (k : Nat) : (draw s k).2.disp = s.disp := rfl
@[simp] theorem draw_wbuf (k : Nat) : (draw s k).2.wbuf = s.wbuf := rfl
@[simp] theorem drawBytes_disp (k : Nat) : (drawBytes s k).2.disp = s.disp := rfl
@[simp] theorem drawBytes_wbuf (k : Nat) : (drawBytes s k).2.wbuf = s.wbuf := rfl
@[simp] theorem draw_arb (k : Nat) : (draw s k).2.arb = s.arb := rfl
@[simp] theorem drawBytes_arb (k : Nat) : (drawBytes s k).2.arb = s.arb := rfl
@[simp] theorem draw_test (k : Nat) : (draw s k).2.test = s.test := rfl
@[simp] theorem drawBytes_test (k : Nat) : (drawBytes s k).2.test = s.test := rfl
@[simp] theorem draw_sb (k : Nat) : (draw s k).2.sb = s.sb := rfl
@[simp] theorem drawBytes_sb (k : Nat) : (drawBytes s k).2.sb = s.sb := rfl
@[simp] theorem draw_dbg (k : Nat) : (draw s k).2.dbg = s.dbg := rfl
@[simp] theorem drawBytes_dbg (k : Nat) : (drawBytes s k).2.dbg = s.dbg := rfl
@[simp] theorem getF_draw (k : Nat) (f : Field) : getF (draw s k).2 f = getF s f := rfl
@[simp] theorem getF_drawBytes (k : Nat) (f : Field) : getF (drawBytes s k).2 f = getF s f := rfl

theorem mapGet?_filter {α : Type} (m : List (Nat × α)) (p : Nat × α → Bool) (q : Nat) (h : ∀ v, p (q, v) = true) :
    mapGet? (m.filter p) q = mapGet? m q := by
  induction m with
  | nil => rfl
  | cons e t ih =>
    obtain ⟨k, v⟩ := e
    rw [List.filter_cons]
    split
    · rw [mapGet?_cons, mapGet?_cons, ih]
    · rename_i hp
      rw [mapGet?_cons, ih, if_neg]
      intro e
      subst e
      exact hp (h v)
theorem mapGet?_filter_none {α : Type} (m : List (Nat × α)) (p : Nat × α → Bool) (q : Nat) (h : ∀ v, p (q, v) = false) :
    mapGet? (m.filter p) q = none := by
  induction m with
  | nil => rfl
  | cons e t ih =>
    obtain ⟨k, v⟩ := e
    rw [List.filter_cons]
    split
    · rename_i hp
      rw [mapGet?_cons, ih, if_neg]
      intro e
      subst e
      rw [h v] at hp
      cases hp
    · exact ih

/-- Reads of registers depend on the register store alone. -/
theorem getF_regs {s t : State} (h : s.regs = t.regs) (f : Field) : getF s f = getF t f := by unfold getF; rw [h]
theorem isSet_regs {s t : State} (h : s.regs = t.regs) (f : Field) : isSet s f = isSet t f := by unfold isSet; rw [getF_regs h]

theorem Field.key_blk (f : Field) (ho : f.off < 4194304) (hl : f.lo < 64) : f.key / 64 / 4194304 = f.blk := by unfold Field.key; omega
theorem Field.key_off (f : Field) (ho : f.off < 4194304) (hl : f.lo < 64) : f.key / 64 % 4194304 = f.off := by unfold Field.key; omega

/-- A reset gives the fields it covers their reset value and leaves the others. -/
theorem getF_resetRegs (p : Nat → Nat → Bool) (f : Field) (ho : f.off < 4194304) (hl : f.lo < 64) :
    getF (resetRegs s p) f = if p f.blk f.off then f.reset else getF s f := by
  unfold getF resetRegs mapGet
  dsimp only
  split
  · rename_i h
    rw [mapGet?_filter_none]
    · rfl
    · intro v
      dsimp only
      rw [Field.key_blk f ho hl, Field.key_off f ho hl, h]
      rfl
  · rename_i h
    rw [mapGet?_filter]
    intro v
    dsimp only
    rw [Field.key_blk f ho hl, Field.key_off f ho hl]
    simpa using h
@[simp] theorem resetRegs_pending (p : Nat → Nat → Bool) : (resetRegs s p).pending = s.pending := rfl
@[simp] theorem resetRegs_freeCtr (p : Nat → Nat → Bool) : (resetRegs s p).freeCtr = s.freeCtr := rfl
@[simp] theorem resetRegs_power (p : Nat → Nat → Bool) : (resetRegs s p).power = s.power := rfl
@[simp] theorem resetRegs_fuse (p : Nat → Nat → Bool) : (resetRegs s p).fuse = s.fuse := rfl
@[simp] theorem resetRegs_boot (p : Nat → Nat → Bool) : (resetRegs s p).boot = s.boot := rfl
@[simp] theorem resetRegs_cfg (p : Nat → Nat → Bool) : (resetRegs s p).cfg = s.cfg := rfl
@[simp] theorem resetRegs_image (p : Nat → Nat → Bool) : (resetRegs s p).image = s.image := rfl
@[simp] theorem resetRegs_struct (p : Nat → Nat → Bool) : (resetRegs s p).struct = s.struct := rfl
@[simp] theorem resetRegs_qm (p : Nat → Nat → Bool) : (resetRegs s p).qm = s.qm := rfl
@[simp] theorem resetRegs_tamper (p : Nat → Nat → Bool) : (resetRegs s p).tamper = s.tamper := rfl
@[simp] theorem resetRegs_fc (p : Nat → Nat → Bool) : (resetRegs s p).fc = s.fc := rfl
@[simp] theorem resetRegs_drawbar (p : Nat → Nat → Bool) : (resetRegs s p).drawbar = s.drawbar := rfl
@[simp] theorem resetRegs_ev (p : Nat → Nat → Bool) : (resetRegs s p).ev = s.ev := rfl
@[simp] theorem resetRegs_irqSrc (p : Nat → Nat → Bool) : (resetRegs s p).irqSrc = s.irqSrc := rfl
@[simp] theorem resetRegs_ks (p : Nat → Nat → Bool) : (resetRegs s p).ks = s.ks := rfl
@[simp] theorem resetRegs_hbm (p : Nat → Nat → Bool) : (resetRegs s p).hbm = s.hbm := rfl
@[simp] theorem resetRegs_quorum (p : Nat → Nat → Bool) : (resetRegs s p).quorum = s.quorum := rfl
@[simp] theorem resetRegs_sciph (p : Nat → Nat → Bool) : (resetRegs s p).sciph = s.sciph := rfl
@[simp] theorem resetRegs_spke (p : Nat → Nat → Bool) : (resetRegs s p).spke = s.spke := rfl
@[simp] theorem resetRegs_pke (p : Nat → Nat → Bool) : (resetRegs s p).pke = s.pke := rfl
@[simp] theorem resetRegs_mem (p : Nat → Nat → Bool) : (resetRegs s p).mem = s.mem := rfl
@[simp] theorem resetRegs_cip (p : Nat → Nat → Bool) : (resetRegs s p).cip = s.cip := rfl
@[simp] theorem resetRegs_rng (p : Nat → Nat → Bool) : (resetRegs s p).rng = s.rng := rfl
@[simp] theorem resetRegs_hf (p : Nat → Nat → Bool) : (resetRegs s p).hf = s.hf := rfl
@[simp] theorem resetRegs_led (p : Nat → Nat → Bool) : (resetRegs s p).led = s.led := rfl
@[simp] theorem resetRegs_spdm (p : Nat → Nat → Bool) : (resetRegs s p).spdm = s.spdm := rfl
@[simp] theorem resetRegs_mpu (p : Nat → Nat → Bool) : (resetRegs s p).mpu = s.mpu := rfl
@[simp] theorem resetRegs_flash (p : Nat → Nat → Bool) : (resetRegs s p).flash = s.flash := rfl
@[simp] theorem resetRegs_card0 (p : Nat → Nat → Bool) : (resetRegs s p).card0 = s.card0 := rfl
@[simp] theorem resetRegs_card1 (p : Nat → Nat → Bool) : (resetRegs s p).card1 = s.card1 := rfl
@[simp] theorem resetRegs_sdh (p : Nat → Nat → Bool) : (resetRegs s p).sdh = s.sdh := rfl
@[simp] theorem resetRegs_tag (p : Nat → Nat → Bool) : (resetRegs s p).tag = s.tag := rfl
@[simp] theorem resetRegs_dispSrc (p : Nat → Nat → Bool) : (resetRegs s p).dispSrc = s.dispSrc := rfl
@[simp] theorem resetRegs_cluster (p : Nat → Nat → Bool) : (resetRegs s p).cluster = s.cluster := rfl
@[simp] theorem resetRegs_warden (p : Nat → Nat → Bool) : (resetRegs s p).warden = s.warden := rfl
@[simp] theorem resetRegs_disp (p : Nat → Nat → Bool) : (resetRegs s p).disp = s.disp := rfl
@[simp] theorem resetRegs_wbuf (p : Nat → Nat → Bool) : (resetRegs s p).wbuf = s.wbuf := rfl
@[simp] theorem resetRegs_arb (p : Nat → Nat → Bool) : (resetRegs s p).arb = s.arb := rfl
@[simp] theorem resetRegs_test (p : Nat → Nat → Bool) : (resetRegs s p).test = s.test := rfl
@[simp] theorem resetRegs_sb (p : Nat → Nat → Bool) : (resetRegs s p).sb = s.sb := rfl
@[simp] theorem resetRegs_dbg (p : Nat → Nat → Bool) : (resetRegs s p).dbg = s.dbg := rfl

end Sys2Proof.Machine
end

