-- ==== Sys2Proof/Laws/Events.lean ====
section
/-!
SUPPORT. Laws/Events.lean: an occurrence and a counter change nothing but the recorder, its registers and the counter.
-/
namespace Sys2Proof.Machine

variable (s : State)

/-- A state that differs at most in the recorder and its registers. -/
structure EvOnly (s t : State) : Prop where
  pending : t.pending = s.pending
  freeCtr : t.freeCtr = s.freeCtr
  power : t.power = s.power
  fuse : t.fuse = s.fuse
  boot : t.boot = s.boot
  cfg : t.cfg = s.cfg
  image : t.image = s.image
  struct : t.struct = s.struct
  qm : t.qm = s.qm
  tamper : t.tamper = s.tamper
  fc : t.fc = s.fc
  drawbar : t.drawbar = s.drawbar
  irqSrc : t.irqSrc = s.irqSrc
  ks : t.ks = s.ks
  hbm : t.hbm = s.hbm
  quorum : t.quorum = s.quorum
  sciph : t.sciph = s.sciph
  spke : t.spke = s.spke
  pke : t.pke = s.pke
  mem : t.mem = s.mem
  cip : t.cip = s.cip
  rng : t.rng = s.rng
  hf : t.hf = s.hf
  led : t.led = s.led
  spdm : t.spdm = s.spdm
  mpu : t.mpu = s.mpu
  flash : t.flash = s.flash
  card0 : t.card0 = s.card0
  card1 : t.card1 = s.card1
  sdh : t.sdh = s.sdh
  tag : t.tag = s.tag
  dispSrc : t.dispSrc = s.dispSrc
  cluster : t.cluster = s.cluster
  warden : t.warden = s.warden
  disp : t.disp = s.disp
  wbuf : t.wbuf = s.wbuf
  arb : t.arb = s.arb
  test : t.test = s.test
  sb : t.sb = s.sb
  dbg : t.dbg = s.dbg
  reg : ∀ f : Field, f.blk ≠ 4 → f.off < 4194304 → f.lo < 64 → getF t f = getF s f

theorem EvOnly.refl : EvOnly s s := by constructor <;> intros <;> rfl
theorem EvOnly.trans {s t u : State} (h : EvOnly s t) (k : EvOnly t u) : EvOnly s u where
  pending := k.pending.trans h.pending
  freeCtr := k.freeCtr.trans h.freeCtr
  power := k.power.trans h.power
  fuse := k.fuse.trans h.fuse
  boot := k.boot.trans h.boot
  cfg := k.cfg.trans h.cfg
  image := k.image.trans h.image
  struct := k.struct.trans h.struct
  qm := k.qm.trans h.qm
  tamper := k.tamper.trans h.tamper
  fc := k.fc.trans h.fc
  drawbar := k.drawbar.trans h.drawbar
  irqSrc := k.irqSrc.trans h.irqSrc
  ks := k.ks.trans h.ks
  hbm := k.hbm.trans h.hbm
  quorum := k.quorum.trans h.quorum
  sciph := k.sciph.trans h.sciph
  spke := k.spke.trans h.spke
  pke := k.pke.trans h.pke
  mem := k.mem.trans h.mem
  cip := k.cip.trans h.cip
  rng := k.rng.trans h.rng
  hf := k.hf.trans h.hf
  led := k.led.trans h.led
  spdm := k.spdm.trans h.spdm
  mpu := k.mpu.trans h.mpu
  flash := k.flash.trans h.flash
  card0 := k.card0.trans h.card0
  card1 := k.card1.trans h.card1
  sdh := k.sdh.trans h.sdh
  tag := k.tag.trans h.tag
  dispSrc := k.dispSrc.trans h.dispSrc
  cluster := k.cluster.trans h.cluster
  warden := k.warden.trans h.warden
  disp := k.disp.trans h.disp
  wbuf := k.wbuf.trans h.wbuf
  arb := k.arb.trans h.arb
  test := k.test.trans h.test
  sb := k.sb.trans h.sb
  dbg := k.dbg.trans h.dbg
  reg := fun f a b c => (k.reg f a b c).trans (h.reg f a b c)
theorem EvOnly.ev {s t : State} (h : EvOnly s t) (e : EvState) : EvOnly s { t with ev := e } where
  pending := h.pending
  freeCtr := h.freeCtr
  power := h.power
  fuse := h.fuse
  boot := h.boot
  cfg := h.cfg
  image := h.image
  struct := h.struct
  qm := h.qm
  tamper := h.tamper
  fc := h.fc
  drawbar := h.drawbar
  irqSrc := h.irqSrc
  ks := h.ks
  hbm := h.hbm
  quorum := h.quorum
  sciph := h.sciph
  spke := h.spke
  pke := h.pke
  mem := h.mem
  cip := h.cip
  rng := h.rng
  hf := h.hf
  led := h.led
  spdm := h.spdm
  mpu := h.mpu
  flash := h.flash
  card0 := h.card0
  card1 := h.card1
  sdh := h.sdh
  tag := h.tag
  dispSrc := h.dispSrc
  cluster := h.cluster
  warden := h.warden
  disp := h.disp
  wbuf := h.wbuf
  arb := h.arb
  test := h.test
  sb := h.sb
  dbg := h.dbg
  reg := h.reg
theorem Field.key_ne {f g : Field} (h : f.blk ≠ g.blk) (hf : f.off < 4194304) (hf' : f.lo < 64) (hg : g.off < 4194304) (hg' : g.lo < 64) :
    f.key ≠ g.key := by unfold Field.key; omega
theorem EvOnly.setF {s t : State} (h : EvOnly s t) (f : Field) (v : Nat) (hb : f.blk = 4) (ho : f.off < 4194304) (hl : f.lo < 64) :
    EvOnly s (setF t f v) where
  pending := h.pending
  freeCtr := h.freeCtr
  power := h.power
  fuse := h.fuse
  boot := h.boot
  cfg := h.cfg
  image := h.image
  struct := h.struct
  qm := h.qm
  tamper := h.tamper
  fc := h.fc
  drawbar := h.drawbar
  irqSrc := h.irqSrc
  ks := h.ks
  hbm := h.hbm
  quorum := h.quorum
  sciph := h.sciph
  spke := h.spke
  pke := h.pke
  mem := h.mem
  cip := h.cip
  rng := h.rng
  hf := h.hf
  led := h.led
  spdm := h.spdm
  mpu := h.mpu
  flash := h.flash
  card0 := h.card0
  card1 := h.card1
  sdh := h.sdh
  tag := h.tag
  dispSrc := h.dispSrc
  cluster := h.cluster
  warden := h.warden
  disp := h.disp
  wbuf := h.wbuf
  arb := h.arb
  test := h.test
  sb := h.sb
  dbg := h.dbg
  reg := fun g a b c => (getF_setF_ne t v (Field.key_ne (by omega) ho hl b c)).trans (h.reg g a b c)
theorem EvOnly.ite {s t u : State} {c : Prop} [Decidable c] (h : EvOnly s t) (k : EvOnly s u) : EvOnly s (if c then t else u) := by
  split <;> assumption

theorem EvOnly.evRefresh {s t : State} (h : EvOnly s t) : EvOnly s (evRefresh t) :=
  (h.setF _ _ rfl (by decide) (by decide)).setF _ _ rfl (by decide) (by decide)
theorem EvOnly.closeOpen {s t : State} (h : EvOnly s t) (p : EvRec → Bool) : EvOnly s (closeOpen t p) := (h.ev _).evRefresh
theorem EvOnly.openRec {s t : State} (h : EvOnly s t) (r : EvRec) : EvOnly s (openRec t r) :=
  .ite (h.ev _).evRefresh (.ite (h.ev _).evRefresh (h.ev _).evRefresh)
theorem EvOnly.evDrop {s t : State} (h : EvOnly s t) : EvOnly s (evDrop t) := by
  have h1 : EvOnly s (Machine.setF t F.EVREC_STATUS_FROZEN_FULL 1) := h.setF _ _ rfl (by decide) (by decide)
  have h2 : EvOnly s (if getF t F.EVREC_DROPPED_COUNT ≥ 2 ^ 31 - 1 then Machine.setF t F.EVREC_STATUS_FROZEN_FULL 1
      else Machine.setF (Machine.setF t F.EVREC_STATUS_FROZEN_FULL 1) F.EVREC_DROPPED_COUNT (getF t F.EVREC_DROPPED_COUNT + 1)) :=
    .ite h1 (h1.setF _ _ rfl (by decide) (by decide))
  exact EvOnly.ev (.ite (h2.setF _ _ rfl (by decide) (by decide)) h2) _
theorem EvOnly.evDroppedRec {s t : State} (h : EvOnly s t) : EvOnly s (evDroppedRec t) :=
  .ite h (((h.openRec _).setF _ _ rfl (by decide) (by decide)).setF _ _ rfl (by decide) (by decide))

/-- What an occurrence leaves alone. -/
theorem occurAt_only (code flags unit part detail r : Nat) : EvOnly s (occurAt s code flags unit part detail r) := by
  unfold occurAt
  have h := EvOnly.refl s
  dsimp only
  generalize (flags ||| if s.ev.restored && (flags.testBit 0 || code = 0x311) then evRESTORED else 0) = fl
  exact .ite ((h.ev _).closeOpen _) (.ite h.evDrop (.ite (h.openRec _).evDroppedRec (h.openRec _)))
theorem occur_only (code unit part detail : Nat) : EvOnly s (occur s code unit part detail) := occurAt_only ..
theorem occurForced_only (code unit part detail : Nat) : EvOnly s (occurForced s code unit part detail) := occurAt_only ..

/-- Below its greatest value a counter goes up by what is added. -/
theorem bumpBy_count {cnt : Field} (sat : Field) {n : Nat} (h : getF s cnt + n < 2 ^ cnt.width - 1) (hn : n ≠ 0) :
    bumpBy s cnt sat n = setF s cnt (getF s cnt + n) := by
  unfold bumpBy
  dsimp only
  rw [if_neg (by omega), if_pos h]
theorem bump_count {cnt : Field} (sat : Field) (h : getF s cnt + 1 < 2 ^ cnt.width - 1) :
    bump s cnt sat = setF s cnt (getF s cnt + 1) := bumpBy_count s sat h (by decide)

@[simp] theorem occurAt_pending (c fl u p d r : Nat) : (occurAt s c fl u p d r).pending = s.pending := (occurAt_only s c fl u p d r).pending
@[simp] theorem occurAt_freeCtr (c fl u p d r : Nat) : (occurAt s c fl u p d r).freeCtr = s.freeCtr := (occurAt_only s c fl u p d r).freeCtr
@[simp] theorem occurAt_power (c fl u p d r : Nat) : (occurAt s c fl u p d r).power = s.power := (occurAt_only s c fl u p d r).power
@[simp] theorem occurAt_fuse (c fl u p d r : Nat) : (occurAt s c fl u p d r).fuse = s.fuse := (occurAt_only s c fl u p d r).fuse
@[simp] theorem occurAt_boot (c fl u p d r : Nat) : (occurAt s c fl u p d r).boot = s.boot := (occurAt_only s c fl u p d r).boot
@[simp] theorem occurAt_cfg (c fl u p d r : Nat) : (occurAt s c fl u p d r).cfg = s.cfg := (occurAt_only s c fl u p d r).cfg
@[simp] theorem occurAt_image (c fl u p d r : Nat) : (occurAt s c fl u p d r).image = s.image := (occurAt_only s c fl u p d r).image
@[simp] theorem occurAt_struct (c fl u p d r : Nat) : (occurAt s c fl u p d r).struct = s.struct := (occurAt_only s c fl u p d r).struct
@[simp] theorem occurAt_qm (c fl u p d r : Nat) : (occurAt s c fl u p d r).qm = s.qm := (occurAt_only s c fl u p d r).qm
@[simp] theorem occurAt_tamper (c fl u p d r : Nat) : (occurAt s c fl u p d r).tamper = s.tamper := (occurAt_only s c fl u p d r).tamper
@[simp] theorem occurAt_fc (c fl u p d r : Nat) : (occurAt s c fl u p d r).fc = s.fc := (occurAt_only s c fl u p d r).fc
@[simp] theorem occurAt_drawbar (c fl u p d r : Nat) : (occurAt s c fl u p d r).drawbar = s.drawbar := (occurAt_only s c fl u p d r).drawbar
@[simp] theorem occurAt_irqSrc (c fl u p d r : Nat) : (occurAt s c fl u p d r).irqSrc = s.irqSrc := (occurAt_only s c fl u p d r).irqSrc
@[simp] theorem occurAt_ks (c fl u p d r : Nat) : (occurAt s c fl u p d r).ks = s.ks := (occurAt_only s c fl u p d r).ks
@[simp] theorem occurAt_hbm (c fl u p d r : Nat) : (occurAt s c fl u p d r).hbm = s.hbm := (occurAt_only s c fl u p d r).hbm
@[simp] theorem occurAt_quorum (c fl u p d r : Nat) : (occurAt s c fl u p d r).quorum = s.quorum := (occurAt_only s c fl u p d r).quorum
@[simp] theorem occurAt_sciph (c fl u p d r : Nat) : (occurAt s c fl u p d r).sciph = s.sciph := (occurAt_only s c fl u p d r).sciph
@[simp] theorem occurAt_spke (c fl u p d r : Nat) : (occurAt s c fl u p d r).spke = s.spke := (occurAt_only s c fl u p d r).spke
@[simp] theorem occurAt_pke (c fl u p d r : Nat) : (occurAt s c fl u p d r).pke = s.pke := (occurAt_only s c fl u p d r).pke
@[simp] theorem occurAt_mem (c fl u p d r : Nat) : (occurAt s c fl u p d r).mem = s.mem := (occurAt_only s c fl u p d r).mem
@[simp] theorem occurAt_cip (c fl u p d r : Nat) : (occurAt s c fl u p d r).cip = s.cip := (occurAt_only s c fl u p d r).cip
@[simp] theorem occurAt_rng (c fl u p d r : Nat) : (occurAt s c fl u p d r).rng = s.rng := (occurAt_only s c fl u p d r).rng
@[simp] theorem occurAt_hf (c fl u p d r : Nat) : (occurAt s c fl u p d r).hf = s.hf := (occurAt_only s c fl u p d r).hf
@[simp] theorem occurAt_led (c fl u p d r : Nat) : (occurAt s c fl u p d r).led = s.led := (occurAt_only s c fl u p d r).led
@[simp] theorem occurAt_spdm (c fl u p d r : Nat) : (occurAt s c fl u p d r).spdm = s.spdm := (occurAt_only s c fl u p d r).spdm
@[simp] theorem occurAt_mpu (c fl u p d r : Nat) : (occurAt s c fl u p d r).mpu = s.mpu := (occurAt_only s c fl u p d r).mpu
@[simp] theorem occurAt_flash (c fl u p d r : Nat) : (occurAt s c fl u p d r).flash = s.flash := (occurAt_only s c fl u p d r).flash
@[simp] theorem occurAt_card0 (c fl u p d r : Nat) : (occurAt s c fl u p d r).card0 = s.card0 := (occurAt_only s c fl u p d r).card0
@[simp] theorem occurAt_card1 (c fl u p d r : Nat) : (occurAt s c fl u p d r).card1 = s.card1 := (occurAt_only s c fl u p d r).card1
@[simp] theorem occurAt_sdh (c fl u p d r : Nat) : (occurAt s c fl u p d r).sdh = s.sdh := (occurAt_only s c fl u p d r).sdh
@[simp] theorem occurAt_tag (c fl u p d r : Nat) : (occurAt s c fl u p d r).tag = s.tag := (occurAt_only s c fl u p d r).tag
@[simp] theorem occurAt_dispSrc (c fl u p d r : Nat) : (occurAt s c fl u p d r).dispSrc = s.dispSrc := (occurAt_only s c fl u p d r).dispSrc
@[simp] theorem occurAt_cluster (c fl u p d r : Nat) : (occurAt s c fl u p d r).cluster = s.cluster := (occurAt_only s c fl u p d r).cluster
@[simp] theorem occurAt_warden (c fl u p d r : Nat) : (occurAt s c fl u p d r).warden = s.warden := (occurAt_only s c fl u p d r).warden
@[simp] theorem occurAt_disp (c fl u p d r : Nat) : (occurAt s c fl u p d r).disp = s.disp := (occurAt_only s c fl u p d r).disp
@[simp] theorem occurAt_wbuf (c fl u p d r : Nat) : (occurAt s c fl u p d r).wbuf = s.wbuf := (occurAt_only s c fl u p d r).wbuf
@[simp] theorem occurAt_arb (c fl u p d r : Nat) : (occurAt s c fl u p d r).arb = s.arb := (occurAt_only s c fl u p d r).arb
@[simp] theorem occurAt_test (c fl u p d r : Nat) : (occurAt s c fl u p d r).test = s.test := (occurAt_only s c fl u p d r).test
@[simp] theorem occurAt_sb (c fl u p d r : Nat) : (occurAt s c fl u p d r).sb = s.sb := (occurAt_only s c fl u p d r).sb
@[simp] theorem occurAt_dbg (c fl u p d r : Nat) : (occurAt s c fl u p d r).dbg = s.dbg := (occurAt_only s c fl u p d r).dbg
theorem getF_occurAt (c fl u p d r : Nat) (f : Field) (h1 : f.blk ≠ 4) (h2 : f.off < 4194304) (h3 : f.lo < 64) : getF (occurAt s c fl u p d r) f = getF s f :=
  (occurAt_only s c fl u p d r).reg f h1 h2 h3
@[simp] theorem occur_pending (c u p d : Nat) : (occur s c u p d).pending = s.pending := (occur_only s c u p d).pending
@[simp] theorem occur_freeCtr (c u p d : Nat) : (occur s c u p d).freeCtr = s.freeCtr := (occur_only s c u p d).freeCtr
@[simp] theorem occur_power (c u p d : Nat) : (occur s c u p d).power = s.power := (occur_only s c u p d).power
@[simp] theorem occur_fuse (c u p d : Nat) : (occur s c u p d).fuse = s.fuse := (occur_only s c u p d).fuse
@[simp] theorem occur_boot (c u p d : Nat) : (occur s c u p d).boot = s.boot := (occur_only s c u p d).boot
@[simp] theorem occur_cfg (c u p d : Nat) : (occur s c u p d).cfg = s.cfg := (occur_only s c u p d).cfg
@[simp] theorem occur_image (c u p d : Nat) : (occur s c u p d).image = s.image := (occur_only s c u p d).image
@[simp] theorem occur_struct (c u p d : Nat) : (occur s c u p d).struct = s.struct := (occur_only s c u p d).struct
@[simp] theorem occur_qm (c u p d : Nat) : (occur s c u p d).qm = s.qm := (occur_only s c u p d).qm
@[simp] theorem occur_tamper (c u p d : Nat) : (occur s c u p d).tamper = s.tamper := (occur_only s c u p d).tamper
@[simp] theorem occur_fc (c u p d : Nat) : (occur s c u p d).fc = s.fc := (occur_only s c u p d).fc
@[simp] theorem occur_drawbar (c u p d : Nat) : (occur s c u p d).drawbar = s.drawbar := (occur_only s c u p d).drawbar
@[simp] theorem occur_irqSrc (c u p d : Nat) : (occur s c u p d).irqSrc = s.irqSrc := (occur_only s c u p d).irqSrc
@[simp] theorem occur_ks (c u p d : Nat) : (occur s c u p d).ks = s.ks := (occur_only s c u p d).ks
@[simp] theorem occur_hbm (c u p d : Nat) : (occur s c u p d).hbm = s.hbm := (occur_only s c u p d).hbm
@[simp] theorem occur_quorum (c u p d : Nat) : (occur s c u p d).quorum = s.quorum := (occur_only s c u p d).quorum
@[simp] theorem occur_sciph (c u p d : Nat) : (occur s c u p d).sciph = s.sciph := (occur_only s c u p d).sciph
@[simp] theorem occur_spke (c u p d : Nat) : (occur s c u p d).spke = s.spke := (occur_only s c u p d).spke
@[simp] theorem occur_pke (c u p d : Nat) : (occur s c u p d).pke = s.pke := (occur_only s c u p d).pke
@[simp] theorem occur_mem (c u p d : Nat) : (occur s c u p d).mem = s.mem := (occur_only s c u p d).mem
@[simp] theorem occur_cip (c u p d : Nat) : (occur s c u p d).cip = s.cip := (occur_only s c u p d).cip
@[simp] theorem occur_rng (c u p d : Nat) : (occur s c u p d).rng = s.rng := (occur_only s c u p d).rng
@[simp] theorem occur_hf (c u p d : Nat) : (occur s c u p d).hf = s.hf := (occur_only s c u p d).hf
@[simp] theorem occur_led (c u p d : Nat) : (occur s c u p d).led = s.led := (occur_only s c u p d).led
@[simp] theorem occur_spdm (c u p d : Nat) : (occur s c u p d).spdm = s.spdm := (occur_only s c u p d).spdm
@[simp] theorem occur_mpu (c u p d : Nat) : (occur s c u p d).mpu = s.mpu := (occur_only s c u p d).mpu
@[simp] theorem occur_flash (c u p d : Nat) : (occur s c u p d).flash = s.flash := (occur_only s c u p d).flash
@[simp] theorem occur_card0 (c u p d : Nat) : (occur s c u p d).card0 = s.card0 := (occur_only s c u p d).card0
@[simp] theorem occur_card1 (c u p d : Nat) : (occur s c u p d).card1 = s.card1 := (occur_only s c u p d).card1
@[simp] theorem occur_sdh (c u p d : Nat) : (occur s c u p d).sdh = s.sdh := (occur_only s c u p d).sdh
@[simp] theorem occur_tag (c u p d : Nat) : (occur s c u p d).tag = s.tag := (occur_only s c u p d).tag
@[simp] theorem occur_dispSrc (c u p d : Nat) : (occur s c u p d).dispSrc = s.dispSrc := (occur_only s c u p d).dispSrc
@[simp] theorem occur_cluster (c u p d : Nat) : (occur s c u p d).cluster = s.cluster := (occur_only s c u p d).cluster
@[simp] theorem occur_warden (c u p d : Nat) : (occur s c u p d).warden = s.warden := (occur_only s c u p d).warden
@[simp] theorem occur_disp (c u p d : Nat) : (occur s c u p d).disp = s.disp := (occur_only s c u p d).disp
@[simp] theorem occur_wbuf (c u p d : Nat) : (occur s c u p d).wbuf = s.wbuf := (occur_only s c u p d).wbuf
@[simp] theorem occur_arb (c u p d : Nat) : (occur s c u p d).arb = s.arb := (occur_only s c u p d).arb
@[simp] theorem occur_test (c u p d : Nat) : (occur s c u p d).test = s.test := (occur_only s c u p d).test
@[simp] theorem occur_sb (c u p d : Nat) : (occur s c u p d).sb = s.sb := (occur_only s c u p d).sb
@[simp] theorem occur_dbg (c u p d : Nat) : (occur s c u p d).dbg = s.dbg := (occur_only s c u p d).dbg
theorem getF_occur (c u p d : Nat) (f : Field) (h1 : f.blk ≠ 4) (h2 : f.off < 4194304) (h3 : f.lo < 64) : getF (occur s c u p d) f = getF s f :=
  (occur_only s c u p d).reg f h1 h2 h3
@[simp] theorem occurForced_pending (c u p d : Nat) : (occurForced s c u p d).pending = s.pending := (occurForced_only s c u p d).pending
@[simp] theorem occurForced_freeCtr (c u p d : Nat) : (occurForced s c u p d).freeCtr = s.freeCtr := (occurForced_only s c u p d).freeCtr
@[simp] theorem occurForced_power (c u p d : Nat) : (occurForced s c u p d).power = s.power := (occurForced_only s c u p d).power
@[simp] theorem occurForced_fuse (c u p d : Nat) : (occurForced s c u p d).fuse = s.fuse := (occurForced_only s c u p d).fuse
@[simp] theorem occurForced_boot (c u p d : Nat) : (occurForced s c u p d).boot = s.boot := (occurForced_only s c u p d).boot
@[simp] theorem occurForced_cfg (c u p d : Nat) : (occurForced s c u p d).cfg = s.cfg := (occurForced_only s c u p d).cfg
@[simp] theorem occurForced_image (c u p d : Nat) : (occurForced s c u p d).image = s.image := (occurForced_only s c u p d).image
@[simp] theorem occurForced_struct (c u p d : Nat) : (occurForced s c u p d).struct = s.struct := (occurForced_only s c u p d).struct
@[simp] theorem occurForced_qm (c u p d : Nat) : (occurForced s c u p d).qm = s.qm := (occurForced_only s c u p d).qm
@[simp] theorem occurForced_tamper (c u p d : Nat) : (occurForced s c u p d).tamper = s.tamper := (occurForced_only s c u p d).tamper
@[simp] theorem occurForced_fc (c u p d : Nat) : (occurForced s c u p d).fc = s.fc := (occurForced_only s c u p d).fc
@[simp] theorem occurForced_drawbar (c u p d : Nat) : (occurForced s c u p d).drawbar = s.drawbar := (occurForced_only s c u p d).drawbar
@[simp] theorem occurForced_irqSrc (c u p d : Nat) : (occurForced s c u p d).irqSrc = s.irqSrc := (occurForced_only s c u p d).irqSrc
@[simp] theorem occurForced_ks (c u p d : Nat) : (occurForced s c u p d).ks = s.ks := (occurForced_only s c u p d).ks
@[simp] theorem occurForced_hbm (c u p d : Nat) : (occurForced s c u p d).hbm = s.hbm := (occurForced_only s c u p d).hbm
@[simp] theorem occurForced_quorum (c u p d : Nat) : (occurForced s c u p d).quorum = s.quorum := (occurForced_only s c u p d).quorum
@[simp] theorem occurForced_sciph (c u p d : Nat) : (occurForced s c u p d).sciph = s.sciph := (occurForced_only s c u p d).sciph
@[simp] theorem occurForced_spke (c u p d : Nat) : (occurForced s c u p d).spke = s.spke := (occurForced_only s c u p d).spke
@[simp] theorem occurForced_pke (c u p d : Nat) : (occurForced s c u p d).pke = s.pke := (occurForced_only s c u p d).pke
@[simp] theorem occurForced_mem (c u p d : Nat) : (occurForced s c u p d).mem = s.mem := (occurForced_only s c u p d).mem
@[simp] theorem occurForced_cip (c u p d : Nat) : (occurForced s c u p d).cip = s.cip := (occurForced_only s c u p d).cip
@[simp] theorem occurForced_rng (c u p d : Nat) : (occurForced s c u p d).rng = s.rng := (occurForced_only s c u p d).rng
@[simp] theorem occurForced_hf (c u p d : Nat) : (occurForced s c u p d).hf = s.hf := (occurForced_only s c u p d).hf
@[simp] theorem occurForced_led (c u p d : Nat) : (occurForced s c u p d).led = s.led := (occurForced_only s c u p d).led
@[simp] theorem occurForced_spdm (c u p d : Nat) : (occurForced s c u p d).spdm = s.spdm := (occurForced_only s c u p d).spdm
@[simp] theorem occurForced_mpu (c u p d : Nat) : (occurForced s c u p d).mpu = s.mpu := (occurForced_only s c u p d).mpu
@[simp] theorem occurForced_flash (c u p d : Nat) : (occurForced s c u p d).flash = s.flash := (occurForced_only s c u p d).flash
@[simp] theorem occurForced_card0 (c u p d : Nat) : (occurForced s c u p d).card0 = s.card0 := (occurForced_only s c u p d).card0
@[simp] theorem occurForced_card1 (c u p d : Nat) : (occurForced s c u p d).card1 = s.card1 := (occurForced_only s c u p d).card1
@[simp] theorem occurForced_sdh (c u p d : Nat) : (occurForced s c u p d).sdh = s.sdh := (occurForced_only s c u p d).sdh
@[simp] theorem occurForced_tag (c u p d : Nat) : (occurForced s c u p d).tag = s.tag := (occurForced_only s c u p d).tag
@[simp] theorem occurForced_dispSrc (c u p d : Nat) : (occurForced s c u p d).dispSrc = s.dispSrc := (occurForced_only s c u p d).dispSrc
@[simp] theorem occurForced_cluster (c u p d : Nat) : (occurForced s c u p d).cluster = s.cluster := (occurForced_only s c u p d).cluster
@[simp] theorem occurForced_warden (c u p d : Nat) : (occurForced s c u p d).warden = s.warden := (occurForced_only s c u p d).warden
@[simp] theorem occurForced_disp (c u p d : Nat) : (occurForced s c u p d).disp = s.disp := (occurForced_only s c u p d).disp
@[simp] theorem occurForced_wbuf (c u p d : Nat) : (occurForced s c u p d).wbuf = s.wbuf := (occurForced_only s c u p d).wbuf
@[simp] theorem occurForced_arb (c u p d : Nat) : (occurForced s c u p d).arb = s.arb := (occurForced_only s c u p d).arb
@[simp] theorem occurForced_test (c u p d : Nat) : (occurForced s c u p d).test = s.test := (occurForced_only s c u p d).test
@[simp] theorem occurForced_sb (c u p d : Nat) : (occurForced s c u p d).sb = s.sb := (occurForced_only s c u p d).sb
@[simp] theorem occurForced_dbg (c u p d : Nat) : (occurForced s c u p d).dbg = s.dbg := (occurForced_only s c u p d).dbg
theorem getF_occurForced (c u p d : Nat) (f : Field) (h1 : f.blk ≠ 4) (h2 : f.off < 4194304) (h3 : f.lo < 64) : getF (occurForced s c u p d) f = getF s f :=
  (occurForced_only s c u p d).reg f h1 h2 h3

theorem counterSat_pres {β : Type} (π : State → β) (h : ∀ s c u p d, π (occur s c u p d) = π s) (s : State) (b o : Nat) :
    π (counterSat s b o) = π s := h ..

/-- A counter leaves every other register as it was, the recorder's apart. -/
theorem getF_bumpBy_other (s : State) {cnt sat g : Field} (n : Nat) (h1 : g.blk ≠ 4) (h2 : g.off < 4194304) (h3 : g.lo < 64)
    (hc : cnt.key ≠ g.key) (hs : sat.key ≠ g.key) : getF (bumpBy s cnt sat n) g = getF s g := by
  unfold bumpBy counterSat
  dsimp only
  split
  · rfl
  · split
    · exact getF_setF_ne _ _ hc
    · rw [getF_occur (f := g) (h1 := h1) (h2 := h2) (h3 := h3), getF_setF_ne _ _ hs, getF_setF_ne _ _ hc]
theorem getF_bump_other (s : State) {cnt sat g : Field} (h1 : g.blk ≠ 4) (h2 : g.off < 4194304) (h3 : g.lo < 64)
    (hc : cnt.key ≠ g.key) (hs : sat.key ≠ g.key) : getF (bump s cnt sat) g = getF s g := getF_bumpBy_other s 1 h1 h2 h3 hc hs
@[simp] theorem bumpBy_pending (s : State) (a b : Field) (n : Nat) : (bumpBy s a b n).pending = s.pending := by
  unfold bumpBy counterSat; dsimp only; split
  · rfl
  · split <;> simp
@[simp] theorem bump_pending (s : State) (a b : Field) : (bump s a b).pending = s.pending := bumpBy_pending ..
@[simp] theorem bumpBy_freeCtr (s : State) (a b : Field) (n : Nat) : (bumpBy s a b n).freeCtr = s.freeCtr := by
  unfold bumpBy counterSat; dsimp only; split
  · rfl
  · split <;> simp
@[simp] theorem bump_freeCtr (s : State) (a b : Field) : (bump s a b).freeCtr = s.freeCtr := bumpBy_freeCtr ..
@[simp] theorem bumpBy_power (s : State) (a b : Field) (n : Nat) : (bumpBy s a b n).power = s.power := by
  unfold bumpBy counterSat; dsimp only; split
  · rfl
  · split <;> simp
@[simp] theorem bump_power (s : State) (a b : Field) : (bump s a b).power = s.power := bumpBy_power ..
@[simp] theorem bumpBy_fuse (s : State) (a b : Field) (n : Nat) : (bumpBy s a b n).fuse = s.fuse := by
  unfold bumpBy counterSat; dsimp only; split
  · rfl
  · split <;> simp
@[simp] theorem bump_fuse (s : State) (a b : Field) : (bump s a b).fuse = s.fuse := bumpBy_fuse ..
@[simp] theorem bumpBy_boot (s : State) (a b : Field) (n : Nat) : (bumpBy s a b n).boot = s.boot := by
  unfold bumpBy counterSat; dsimp only; split
  · rfl
  · split <;> simp
@[simp] theorem bump_boot (s : State) (a b : Field) : (bump s a b).boot = s.boot := bumpBy_boot ..
@[simp] theorem bumpBy_cfg (s : State) (a b : Field) (n : Nat) : (bumpBy s a b n).cfg = s.cfg := by
  unfold bumpBy counterSat; dsimp only; split
  · rfl
  · split <;> simp
@[simp] theorem bump_cfg (s : State) (a b : Field) : (bump s a b).cfg = s.cfg := bumpBy_cfg ..
@[simp] theorem bumpBy_image (s : State) (a b : Field) (n : Nat) : (bumpBy s a b n).image = s.image := by
  unfold bumpBy counterSat; dsimp only; split
  · rfl
  · split <;> simp
@[simp] theorem bump_image (s : State) (a b : Field) : (bump s a b).image = s.image := bumpBy_image ..
@[simp] theorem bumpBy_struct (s : State) (a b : Field) (n : Nat) : (bumpBy s a b n).struct = s.struct := by
  unfold bumpBy counterSat; dsimp only; split
  · rfl
  · split <;> simp
@[simp] theorem bump_struct (s : State) (a b : Field) : (bump s a b).struct = s.struct := bumpBy_struct ..
@[simp] theorem bumpBy_qm (s : State) (a b : Field) (n : Nat) : (bumpBy s a b n).qm = s.qm := by
  unfold bumpBy counterSat; dsimp only; split
  · rfl
  · split <;> simp
@[simp] theorem bump_qm (s : State) (a b : Field) : (bump s a b).qm = s.qm := bumpBy_qm ..
@[simp] theorem bumpBy_tamper (s : State) (a b : Field) (n : Nat) : (bumpBy s a b n).tamper = s.tamper := by
  unfold bumpBy counterSat; dsimp only; split
  · rfl
  · split <;> simp
@[simp] theorem bump_tamper (s : State) (a b : Field) : (bump s a b).tamper = s.tamper := bumpBy_tamper ..
@[simp] theorem bumpBy_fc (s : State) (a b : Field) (n : Nat) : (bumpBy s a b n).fc = s.fc := by
  unfold bumpBy counterSat; dsimp only; split
  · rfl
  · split <;> simp
@[simp] theorem bump_fc (s : State) (a b : Field) : (bump s a b).fc = s.fc := bumpBy_fc ..
@[simp] theorem bumpBy_drawbar (s : State) (a b : Field) (n : Nat) : (bumpBy s a b n).drawbar = s.drawbar := by
  unfold bumpBy counterSat; dsimp only; split
  · rfl
  · split <;> simp
@[simp] theorem bump_drawbar (s : State) (a b : Field) : (bump s a b).drawbar = s.drawbar := bumpBy_drawbar ..
@[simp] theorem bumpBy_ks (s : State) (a b : Field) (n : Nat) : (bumpBy s a b n).ks = s.ks := by
  unfold bumpBy counterSat; dsimp only; split
  · rfl
  · split <;> simp
@[simp] theorem bump_ks (s : State) (a b : Field) : (bump s a b).ks = s.ks := bumpBy_ks ..
@[simp] theorem bumpBy_hbm (s : State) (a b : Field) (n : Nat) : (bumpBy s a b n).hbm = s.hbm := by
  unfold bumpBy counterSat; dsimp only; split
  · rfl
  · split <;> simp
@[simp] theorem bump_hbm (s : State) (a b : Field) : (bump s a b).hbm = s.hbm := bumpBy_hbm ..
@[simp] theorem bumpBy_quorum (s : State) (a b : Field) (n : Nat) : (bumpBy s a b n).quorum = s.quorum := by
  unfold bumpBy counterSat; dsimp only; split
  · rfl
  · split <;> simp
@[simp] theorem bump_quorum (s : State) (a b : Field) : (bump s a b).quorum = s.quorum := bumpBy_quorum ..
@[simp] theorem bumpBy_sciph (s : State) (a b : Field) (n : Nat) : (bumpBy s a b n).sciph = s.sciph := by
  unfold bumpBy counterSat; dsimp only; split
  · rfl
  · split <;> simp
@[simp] theorem bump_sciph (s : State) (a b : Field) : (bump s a b).sciph = s.sciph := bumpBy_sciph ..
@[simp] theorem bumpBy_spke (s : State) (a b : Field) (n : Nat) : (bumpBy s a b n).spke = s.spke := by
  unfold bumpBy counterSat; dsimp only; split
  · rfl
  · split <;> simp
@[simp] theorem bump_spke (s : State) (a b : Field) : (bump s a b).spke = s.spke := bumpBy_spke ..
@[simp] theorem bumpBy_pke (s : State) (a b : Field) (n : Nat) : (bumpBy s a b n).pke = s.pke := by
  unfold bumpBy counterSat; dsimp only; split
  · rfl
  · split <;> simp
@[simp] theorem bump_pke (s : State) (a b : Field) : (bump s a b).pke = s.pke := bumpBy_pke ..
@[simp] theorem bumpBy_mem (s : State) (a b : Field) (n : Nat) : (bumpBy s a b n).mem = s.mem := by
  unfold bumpBy counterSat; dsimp only; split
  · rfl
  · split <;> simp
@[simp] theorem bump_mem (s : State) (a b : Field) : (bump s a b).mem = s.mem := bumpBy_mem ..
@[simp] theorem bumpBy_cip (s : State) (a b : Field) (n : Nat) : (bumpBy s a b n).cip = s.cip := by
  unfold bumpBy counterSat; dsimp only; split
  · rfl
  · split <;> simp
@[simp] theorem bump_cip (s : State) (a b : Field) : (bump s a b).cip = s.cip := bumpBy_cip ..
@[simp] theorem bumpBy_rng (s : State) (a b : Field) (n : Nat) : (bumpBy s a b n).rng = s.rng := by
  unfold bumpBy counterSat; dsimp only; split
  · rfl
  · split <;> simp
@[simp] theorem bump_rng (s : State) (a b : Field) : (bump s a b).rng = s.rng := bumpBy_rng ..
@[simp] theorem bumpBy_hf (s : State) (a b : Field) (n : Nat) : (bumpBy s a b n).hf = s.hf := by
  unfold bumpBy counterSat; dsimp only; split
  · rfl
  · split <;> simp
@[simp] theorem bump_hf (s : State) (a b : Field) : (bump s a b).hf = s.hf := bumpBy_hf ..
@[simp] theorem bumpBy_led (s : State) (a b : Field) (n : Nat) : (bumpBy s a b n).led = s.led := by
  unfold bumpBy counterSat; dsimp only; split
  · rfl
  · split <;> simp
@[simp] theorem bump_led (s : State) (a b : Field) : (bump s a b).led = s.led := bumpBy_led ..
@[simp] theorem bumpBy_spdm (s : State) (a b : Field) (n : Nat) : (bumpBy s a b n).spdm = s.spdm := by
  unfold bumpBy counterSat; dsimp only; split
  · rfl
  · split <;> simp
@[simp] theorem bump_spdm (s : State) (a b : Field) : (bump s a b).spdm = s.spdm := bumpBy_spdm ..
@[simp] theorem bumpBy_mpu (s : State) (a b : Field) (n : Nat) : (bumpBy s a b n).mpu = s.mpu := by
  unfold bumpBy counterSat; dsimp only; split
  · rfl
  · split <;> simp
@[simp] theorem bump_mpu (s : State) (a b : Field) : (bump s a b).mpu = s.mpu := bumpBy_mpu ..
@[simp] theorem bumpBy_flash (s : State) (a b : Field) (n : Nat) : (bumpBy s a b n).flash = s.flash := by
  unfold bumpBy counterSat; dsimp only; split
  · rfl
  · split <;> simp
@[simp] theorem bump_flash (s : State) (a b : Field) : (bump s a b).flash = s.flash := bumpBy_flash ..
@[simp] theorem bumpBy_card0 (s : State) (a b : Field) (n : Nat) : (bumpBy s a b n).card0 = s.card0 := by
  unfold bumpBy counterSat; dsimp only; split
  · rfl
  · split <;> simp
@[simp] theorem bump_card0 (s : State) (a b : Field) : (bump s a b).card0 = s.card0 := bumpBy_card0 ..
@[simp] theorem bumpBy_card1 (s : State) (a b : Field) (n : Nat) : (bumpBy s a b n).card1 = s.card1 := by
  unfold bumpBy counterSat; dsimp only; split
  · rfl
  · split <;> simp
@[simp] theorem bump_card1 (s : State) (a b : Field) : (bump s a b).card1 = s.card1 := bumpBy_card1 ..
@[simp] theorem bumpBy_sdh (s : State) (a b : Field) (n : Nat) : (bumpBy s a b n).sdh = s.sdh := by
  unfold bumpBy counterSat; dsimp only; split
  · rfl
  · split <;> simp
@[simp] theorem bump_sdh (s : State) (a b : Field) : (bump s a b).sdh = s.sdh := bumpBy_sdh ..
@[simp] theorem bumpBy_tag (s : State) (a b : Field) (n : Nat) : (bumpBy s a b n).tag = s.tag := by
  unfold bumpBy counterSat; dsimp only; split
  · rfl
  · split <;> simp
@[simp] theorem bump_tag (s : State) (a b : Field) : (bump s a b).tag = s.tag := bumpBy_tag ..
@[simp] theorem bumpBy_dispSrc (s : State) (a b : Field) (n : Nat) : (bumpBy s a b n).dispSrc = s.dispSrc := by
  unfold bumpBy counterSat; dsimp only; split
  · rfl
  · split <;> simp
@[simp] theorem bump_dispSrc (s : State) (a b : Field) : (bump s a b).dispSrc = s.dispSrc := bumpBy_dispSrc ..
@[simp] theorem bumpBy_cluster (s : State) (a b : Field) (n : Nat) : (bumpBy s a b n).cluster = s.cluster := by
  unfold bumpBy counterSat; dsimp only; split
  · rfl
  · split <;> simp
@[simp] theorem bump_cluster (s : State) (a b : Field) : (bump s a b).cluster = s.cluster := bumpBy_cluster ..
@[simp] theorem bumpBy_warden (s : State) (a b : Field) (n : Nat) : (bumpBy s a b n).warden = s.warden := by
  unfold bumpBy counterSat; dsimp only; split
  · rfl
  · split <;> simp
@[simp] theorem bump_warden (s : State) (a b : Field) : (bump s a b).warden = s.warden := bumpBy_warden ..
@[simp] theorem bumpBy_disp (s : State) (a b : Field) (n : Nat) : (bumpBy s a b n).disp = s.disp := by
  unfold bumpBy counterSat; dsimp only; split
  · rfl
  · split <;> simp
@[simp] theorem bumpBy_wbuf (s : State) (a b : Field) (n : Nat) : (bumpBy s a b n).wbuf = s.wbuf := by
  unfold bumpBy counterSat; dsimp only; split
  · rfl
  · split <;> simp
@[simp] theorem bump_disp (s : State) (a b : Field) : (bump s a b).disp = s.disp := bumpBy_disp ..
@[simp] theorem bump_wbuf (s : State) (a b : Field) : (bump s a b).wbuf = s.wbuf := bumpBy_wbuf ..
@[simp] theorem bumpBy_arb (s : State) (a b : Field) (n : Nat) : (bumpBy s a b n).arb = s.arb := by
  unfold bumpBy counterSat; dsimp only; split
  · rfl
  · split <;> simp
@[simp] theorem bump_arb (s : State) (a b : Field) : (bump s a b).arb = s.arb := bumpBy_arb ..
@[simp] theorem bumpBy_test (s : State) (a b : Field) (n : Nat) : (bumpBy s a b n).test = s.test := by
  unfold bumpBy counterSat; dsimp only; split
  · rfl
  · split <;> simp
@[simp] theorem bump_test (s : State) (a b : Field) : (bump s a b).test = s.test := bumpBy_test ..
@[simp] theorem bumpBy_sb (s : State) (a b : Field) (n : Nat) : (bumpBy s a b n).sb = s.sb := by
  unfold bumpBy counterSat; dsimp only; split
  · rfl
  · split <;> simp
@[simp] theorem bump_sb (s : State) (a b : Field) : (bump s a b).sb = s.sb := bumpBy_sb ..
@[simp] theorem bumpBy_dbg (s : State) (a b : Field) (n : Nat) : (bumpBy s a b n).dbg = s.dbg := by
  unfold bumpBy counterSat; dsimp only; split
  · rfl
  · split <;> simp
@[simp] theorem bump_dbg (s : State) (a b : Field) : (bump s a b).dbg = s.dbg := bumpBy_dbg ..

end Sys2Proof.Machine
end

