-- ==== Sys2Proof/Laws/Mem.lean ====
section
/-!
SUPPORT. Laws/Mem.lean: reading a memory after writing it, and that every memory operation keeps the canonical form.
-/
namespace Sys2Proof.Machine

/-- A byte read after a write: the byte written at its address, every other as before. -/
theorem cellRead_write (d : Nat → Byte) (m : List Host.Cell) (a : Nat) (b : Byte) (x : Nat) :
    cellRead d (cellWrite d m a b) x = if a = x then b else cellRead d m x := by
  unfold cellRead cellWrite
  by_cases h : a = x
  · subst h; simp
  · simp [h, mapGet_set_ne _ b (d a) (d x) h]

theorem cellsWf_write (d : Nat → Byte) (m : List Host.Cell) (a : Nat) (b : Byte) (h : cellsWf d m = true) :
    cellsWf d (cellWrite d m a b) = true := by
  simp only [cellsWf, cellWrite, Bool.and_eq_true, List.all_eq_true] at *
  refine ⟨keysRise_set _ _ _ _ h.1, ?_⟩
  intro e he
  unfold mapSet at he
  split at he
  · exact h.2 e (List.mem_filter.1 he).1
  · rename_i hb
    rcases mem_put he with rfl | he
    · simpa using hb
    · exact h.2 e he

theorem cellsWf_filter (d : Nat → Byte) (m : List Host.Cell) (p : Host.Cell → Bool) (h : cellsWf d m = true) :
    cellsWf d (m.filter p) = true := by
  simp only [cellsWf, Bool.and_eq_true, List.all_eq_true] at *
  exact ⟨keysRise_filter _ _ h.1, fun e he => h.2 e (List.mem_filter.1 he).1⟩

theorem cellsWf_writes (m : List Host.Cell) (a : Nat) (b : Bytes) (h : cellsWf zeroByte m = true) :
    cellsWf zeroByte (cellsWrite m a b) = true := by
  induction b generalizing m a with
  | nil => exact h
  | cons x t ih => exact ih _ _ (cellsWf_write _ _ _ _ h)

theorem cellsWf_foldl {α : Type} (d : Nat → Byte) (l : List α) (f : List Host.Cell → α → List Host.Cell) (m : List Host.Cell)
    (h : cellsWf d m = true) (hf : ∀ m e, cellsWf d m = true → cellsWf d (f m e) = true) : cellsWf d (l.foldl f m) = true := by
  induction l generalizing m with
  | nil => exact h
  | cons e l ih => exact ih _ (hf _ _ h)

@[simp] theorem cellsWf_nil (d : Nat → Byte) : cellsWf d [] = true := rfl

/-- A byte of Gecko memory after a byte is written. -/
theorem geckoByte_put (s : State) (a x : Nat) (b : Byte) :
    geckoByte (geckoPut s a b) x = if a = x then b else geckoByte s x := cellRead_write _ _ _ _ _

/-- A byte of Gecko memory after bytes are written: the bytes written where they lie, every other as before. -/
theorem geckoByte_write (s : State) (a : Nat) (b : Bytes) (x : Nat) :
    geckoByte (geckoWrite s a b) x = if a ≤ x ∧ x < a + b.length then (b[x - a]?).getD 0 else geckoByte s x := by
  induction b generalizing s a with
  | nil => simp only [geckoWrite, List.length_nil]; rw [if_neg (by omega)]
  | cons y t ih =>
    rw [geckoWrite, ih, geckoByte_put, List.length_cons]
    by_cases h : a = x
    · subst h
      rw [if_neg (by omega), if_pos rfl, if_pos (by omega)]
      simp
    · by_cases h2 : a + 1 ≤ x ∧ x < a + 1 + t.length
      · rw [if_pos h2, if_pos (by omega)]
        obtain ⟨k, rfl⟩ : ∃ k, x = a + 1 + k := ⟨x - (a + 1), by omega⟩
        rw [show a + 1 + k - (a + 1) = k by omega, show a + 1 + k - a = k + 1 by omega]
        simp
      · rw [if_neg h2, if_neg h, if_neg (by omega)]

end Sys2Proof.Machine
end

