-- ==== Sys2Proof/Laws/Keeps.lean ====
section
/-!
SUPPORT. Laws/Keeps.lean: what every operation keeps: the queue, the canonical forms, the fuses programmed; and how it passes through the
shapes in which operations are written.
-/
namespace Sys2Proof.Machine

/-- The state holds queue `q`, is in canonical form, and has every fuse bit of `w` programmed. -/
structure Keeps (q : List Instr) (w : FuseBits) (s : State) : Prop where
  queue : s.pending = q
  regs : keysRise s.regs = true
  mem : Memory.wf s.mem = true
  fuse : fuseLe w s.fuse.arr

/-- The same of what a command answers. -/
structure KeepsR (q : List Instr) (w : FuseBits) (r : Res) : Prop where
  out : ∀ t, r = .next t → Keeps q w t
/-- The same of a state that may be absent. -/
structure KeepsO (q : List Instr) (w : FuseBits) (r : Option State) : Prop where
  out : ∀ t, r = some t → Keeps q w t
/-- The same of an answer and a state. -/
structure KeepsP {α : Type} (q : List Instr) (w : FuseBits) (r : α × State) : Prop where
  out : Keeps q w r.2
/-- The same of a state and an answer. -/
structure KeepsL {α : Type} (q : List Instr) (w : FuseBits) (r : State × α) : Prop where
  out : Keeps q w r.1

variable {q : List Instr} {w : FuseBits} {s t : State} {α β : Type}

theorem KeepsR.next (h : Keeps q w s) : KeepsR q w (.next s) := ⟨by intro t e; cases e; exact h⟩
theorem KeepsR.fault (f : Fault) : KeepsR q w (.fault f) := ⟨by intro t e; cases e⟩
theorem KeepsR.refused (f : Refusal) : KeepsR q w (.refused f) := ⟨by intro t e; cases e⟩
theorem KeepsR.ite {c : Prop} [Decidable c] {a b : Res} (ha : KeepsR q w a) (hb : KeepsR q w b) : KeepsR q w (if c then a else b) := by
  split <;> assumption
theorem KeepsO.none : KeepsO q w none := ⟨by intro t e; cases e⟩
theorem KeepsO.some (h : Keeps q w s) : KeepsO q w (.some s) := ⟨by intro t e; cases e; exact h⟩
theorem KeepsO.ite {c : Prop} [Decidable c] {a b : Option State} (ha : KeepsO q w a) (hb : KeepsO q w b) : KeepsO q w (if c then a else b) := by
  split <;> assumption
theorem KeepsP.pair {a : α} (h : Keeps q w s) : KeepsP q w (a, s) := ⟨h⟩
theorem KeepsL.pair {a : α} (h : Keeps q w s) : KeepsL q w (s, a) := ⟨h⟩
theorem KeepsP.ite {c : Prop} [Decidable c] {a b : α × State} (ha : KeepsP q w a) (hb : KeepsP q w b) : KeepsP q w (if c then a else b) := by
  split <;> assumption
theorem KeepsL.ite {c : Prop} [Decidable c] {a b : State × α} (ha : KeepsL q w a) (hb : KeepsL q w b) : KeepsL q w (if c then a else b) := by
  split <;> assumption
theorem Keeps.ite {c : Prop} [Decidable c] {a b : State} (ha : Keeps q w a) (hb : Keeps q w b) : Keeps q w (if c then a else b) := by
  split <;> assumption
theorem Keeps.snd {r : α × State} (h : KeepsP q w r) : Keeps q w r.2 := h.out
theorem Keeps.fst {r : State × α} (h : KeepsL q w r) : Keeps q w r.1 := h.out
theorem Keeps.eqP {a : α} {r : α × State} (e : r = (a, t)) (h : KeepsP q w r) : Keeps q w t := by subst e; exact h.out
theorem Keeps.eqL {a : α} {r : State × α} (e : r = (t, a)) (h : KeepsL q w r) : Keeps q w t := by subst e; exact h.out
theorem Keeps.eqO {r : Option State} (e : r = .some t) (h : KeepsO q w r) : Keeps q w t := h.out t e
theorem Keeps.foldl {l : List β} {f : State → β → State} (h : Keeps q w s) (hf : ∀ t e, Keeps q w t → Keeps q w (f t e)) :
    Keeps q w (l.foldl f s) := by
  induction l generalizing s with
  | nil => exact h
  | cons a l ih => exact ih (hf _ _ h)
theorem KeepsP.foldl {l : List β} {f : α × State → β → α × State} {r : α × State} (h : KeepsP q w r)
    (hf : ∀ t e, KeepsP q w t → KeepsP q w (f t e)) : KeepsP q w (l.foldl f r) := by
  induction l generalizing r with
  | nil => exact h
  | cons a l ih => exact ih (hf _ _ h)
theorem KeepsL.foldl {l : List β} {f : State × α → β → State × α} {r : State × α} (h : KeepsL q w r)
    (hf : ∀ t e, KeepsL q w t → KeepsL q w (f t e)) : KeepsL q w (l.foldl f r) := by
  induction l generalizing r with
  | nil => exact h
  | cons a l ih => exact ih (hf _ _ h)

/-- A state that differs in none of the four is kept with the other. -/
theorem Keeps.of (h : Keeps q w s) (h1 : t.pending = s.pending) (h2 : t.regs = s.regs) (h3 : t.mem = s.mem) (h4 : t.fuse = s.fuse) :
    Keeps q w t := ⟨h1 ▸ h.queue, h2 ▸ h.regs, h3 ▸ h.mem, h4 ▸ h.fuse⟩


/-- An update that leaves the queue, the registers, the memories and the fuses. -/
theorem Keeps.upd (h : Keeps q w s) {freeCtr : Nat} {power : PowerState} {boot : BootState} {cfg : CfgFlash} {image : Option Image} {struct : StructState} {qm : QmState} {tamper : TamperState} {fc : FaultState} {drawbar : Drawbar} {ev : EvState} {irqSrc : BitVec 64} {ks : KsState} {hbm : HbmState} {quorum : QuorumState} {sciph : SciphState} {spke : SpkeState} {pke : PkeState} {cip : CipState} {rng : RngState} {hf : HostFlash} {led : LedState} {spdm : SpdmState} {mpu : MpuState} {flash : FlashState} {card0 : CardPort} {card1 : CardPort} {sdh : SdhState} {tag : TagState} {dispSrc : List (Nat × Nat)} {cluster : ClusterState} {warden : List DCore} {disp : List DCore} {wbuf : List BufWrite} {arb : ArbState} {test : Option TestRun} {sb : SidebState} {dbg : DebugState} :
    Keeps q w (State.mk s.pending freeCtr s.regs power s.fuse boot cfg image struct qm tamper fc drawbar ev irqSrc ks hbm quorum sciph spke pke s.mem cip rng hf led spdm mpu flash card0 card1 sdh tag dispSrc cluster warden disp wbuf arb test sb dbg) := ⟨h.queue, h.regs, h.mem, h.fuse⟩

/-- An update of the protected memory's state; of the key store. -/
theorem Keeps.updHbm (h : Keeps q w s) (v : HbmState) : Keeps q w { s with hbm := v } := h.upd
theorem Keeps.updKs (h : Keeps q w s) (v : KsState) : Keeps q w { s with ks := v } := h.upd

/-- An update that may change the shadow or a request of the fuses. -/
theorem Keeps.updFuse (h : Keeps q w s) {freeCtr : Nat} {power : PowerState} {boot : BootState} {cfg : CfgFlash} {image : Option Image} {struct : StructState} {qm : QmState} {tamper : TamperState} {fc : FaultState} {drawbar : Drawbar} {ev : EvState} {irqSrc : BitVec 64} {ks : KsState} {hbm : HbmState} {quorum : QuorumState} {sciph : SciphState} {spke : SpkeState} {pke : PkeState} {cip : CipState} {rng : RngState} {hf : HostFlash} {led : LedState} {spdm : SpdmState} {mpu : MpuState} {flash : FlashState} {card0 : CardPort} {card1 : CardPort} {sdh : SdhState} {tag : TagState} {dispSrc : List (Nat × Nat)} {cluster : ClusterState} {warden : List DCore} {disp : List DCore} {wbuf : List BufWrite} {arb : ArbState} {test : Option TestRun} {sb : SidebState} {dbg : DebugState} {shadow : FuseBits} {prog : Option (Nat × Nat)} :
    Keeps q w (State.mk s.pending freeCtr s.regs power (FuseState.mk s.fuse.arr shadow prog) boot cfg image struct qm tamper fc drawbar ev irqSrc ks hbm quorum sciph spke pke s.mem cip rng hf led spdm mpu flash card0 card1 sdh tag dispSrc cluster warden disp wbuf arb test sb dbg) := ⟨h.queue, h.regs, h.mem, h.fuse⟩

/-- An update of the memories that keeps their canonical form. -/
theorem Keeps.updMem (h : Keeps q w s) {freeCtr : Nat} {power : PowerState} {boot : BootState} {cfg : CfgFlash} {image : Option Image} {struct : StructState} {qm : QmState} {tamper : TamperState} {fc : FaultState} {drawbar : Drawbar} {ev : EvState} {irqSrc : BitVec 64} {ks : KsState} {hbm : HbmState} {quorum : QuorumState} {sciph : SciphState} {spke : SpkeState} {pke : PkeState} {cip : CipState} {rng : RngState} {hf : HostFlash} {led : LedState} {spdm : SpdmState} {mpu : MpuState} {flash : FlashState} {card0 : CardPort} {card1 : CardPort} {sdh : SdhState} {tag : TagState} {dispSrc : List (Nat × Nat)} {cluster : ClusterState} {warden : List DCore} {disp : List DCore} {wbuf : List BufWrite} {arb : ArbState} {test : Option TestRun} {sb : SidebState} {dbg : DebugState} {mem : MemState} (hm : Memory.wf mem = true) :
    Keeps q w (State.mk s.pending freeCtr s.regs power s.fuse boot cfg image struct qm tamper fc drawbar ev irqSrc ks hbm quorum sciph spke pke mem cip rng hf led spdm mpu flash card0 card1 sdh tag dispSrc cluster warden disp wbuf arb test sb dbg) := ⟨h.queue, h.regs, hm, h.fuse⟩

/-- An update of the memories, the shadow and a request of the fuses. -/
theorem Keeps.updMemFuse (h : Keeps q w s) {freeCtr : Nat} {power : PowerState} {boot : BootState} {cfg : CfgFlash} {image : Option Image} {struct : StructState} {qm : QmState} {tamper : TamperState} {fc : FaultState} {drawbar : Drawbar} {ev : EvState} {irqSrc : BitVec 64} {ks : KsState} {hbm : HbmState} {quorum : QuorumState} {sciph : SciphState} {spke : SpkeState} {pke : PkeState} {cip : CipState} {rng : RngState} {hf : HostFlash} {led : LedState} {spdm : SpdmState} {mpu : MpuState} {flash : FlashState} {card0 : CardPort} {card1 : CardPort} {sdh : SdhState} {tag : TagState} {dispSrc : List (Nat × Nat)} {cluster : ClusterState} {warden : List DCore} {disp : List DCore} {wbuf : List BufWrite} {arb : ArbState} {test : Option TestRun} {sb : SidebState} {dbg : DebugState} {mem : MemState} {shadow : FuseBits} {prog : Option (Nat × Nat)} (hm : Memory.wf mem = true) :
    Keeps q w (State.mk s.pending freeCtr s.regs power (FuseState.mk s.fuse.arr shadow prog) boot cfg image struct qm tamper fc drawbar ev irqSrc ks hbm quorum sciph spke pke mem cip rng hf led spdm mpu flash card0 card1 sdh tag dispSrc cluster warden disp wbuf arb test sb dbg) := ⟨h.queue, h.regs, hm, h.fuse⟩

theorem Keeps.wf4 (h : Keeps q w s) : cellsWf geckoDefault s.mem.gecko = true ∧ cellsWf zeroByte s.mem.isram = true
    ∧ cellsWf zeroByte s.mem.dsram = true ∧ cellsWf zeroByte s.mem.hbm = true := by
  have := h.mem
  simp only [Memory.wf, Bool.and_eq_true] at this
  exact ⟨this.1.1.1, this.1.1.2, this.1.2, this.2⟩

theorem Keeps.cellsG (q : List Instr) (w : FuseBits) {s : State} (h : Keeps q w s) : cellsWf geckoDefault s.mem.gecko = true := h.wf4.1
theorem Keeps.cellsI (q : List Instr) (w : FuseBits) {s : State} (h : Keeps q w s) : cellsWf zeroByte s.mem.isram = true := h.wf4.2.1
theorem Keeps.cellsD (q : List Instr) (w : FuseBits) {s : State} (h : Keeps q w s) : cellsWf zeroByte s.mem.dsram = true := h.wf4.2.2.1
theorem Keeps.cellsH (q : List Instr) (w : FuseBits) {s : State} (h : Keeps q w s) : cellsWf zeroByte s.mem.hbm = true := h.wf4.2.2.2

theorem Memory.wf_mk {a b c d : List Host.Cell} (ha : cellsWf geckoDefault a = true) (hb : cellsWf zeroByte b = true)
    (hc : cellsWf zeroByte c = true) (hd : cellsWf zeroByte d = true) :
    Memory.wf { gecko := a, isram := b, dsram := c, hbm := d } = true := by simp [Memory.wf, ha, hb, hc, hd]

/-- Programming a bit leaves every bit programmed that was. -/
theorem burned_burn (b : FuseBits) (t i t' i' : Nat) (h : burned b t' i' = true) : burned (burn b t i) t' i' = true := by
  unfold burn
  split
  · unfold burned at *; split <;> simp_all
  · unfold burned at *
    split <;> simp_all
    rename_i h
    try rw [List.getElem?_mapIdx]
    cases hx : b.arb[i' / 128]? with
    | none => rw [hx] at h; simp at h
    | some y =>
      rw [hx] at h
      simp only [Option.getD_some] at h
      simp only [Option.map_some, Option.getD_some]
      split <;> simp_all
  · unfold burned at *; split <;> simp_all
  · unfold burned at *; split <;> simp_all
  · unfold burned at *
    split at h
    all_goals (try split) <;> simp_all
    all_goals (try split) <;> simp_all
  · unfold burned at *; split <;> simp_all
  · exact h

/-- A request programs no evidence bit. -/
theorem burn_evidence (b : FuseBits) (t i : Nat) : (burn b t i).evidence = b.evidence := by
  unfold burn; split <;> (try split) <;> rfl

/-- Programming evidence leaves every bit programmed that was. -/
theorem fuseLe_evidenceUp {v : FuseBits} (n k : Nat) (h : fuseLe w v) : fuseLe w (evidenceUp n k v) := by
  unfold evidenceUp
  generalize List.range k = l
  induction l generalizing v with
  | nil => exact h
  | cons x l ih =>
    refine ih ?_
    dsimp only
    split
    · split
      · exact h
      · refine ⟨fun t i e => ?_, fun i e => ?_⟩
        · have := h.1 t i e
          unfold burned at *
          exact this
        · have := h.2 i e
          simp [this]
    · exact h

/-- Programming evidence bits. -/
theorem Keeps.updEvid (h : Keeps q w s) {freeCtr : Nat} {power : PowerState} {boot : BootState} {cfg : CfgFlash} {image : Option Image} {struct : StructState} {qm : QmState} {tamper : TamperState} {fc : FaultState} {drawbar : Drawbar} {ev : EvState} {irqSrc : BitVec 64} {ks : KsState} {hbm : HbmState} {quorum : QuorumState} {sciph : SciphState} {spke : SpkeState} {pke : PkeState} {cip : CipState} {rng : RngState} {hf : HostFlash} {led : LedState} {spdm : SpdmState} {mpu : MpuState} {flash : FlashState} {card0 : CardPort} {card1 : CardPort} {sdh : SdhState} {tag : TagState} {dispSrc : List (Nat × Nat)} {cluster : ClusterState} {warden : List DCore} {disp : List DCore} {wbuf : List BufWrite} {arb : ArbState} {test : Option TestRun} {sb : SidebState} {dbg : DebugState} {shadow : FuseBits} {prog : Option (Nat × Nat)} {n k : Nat} :
    Keeps q w (State.mk s.pending freeCtr s.regs power (FuseState.mk (evidenceUp n k s.fuse.arr) shadow prog) boot cfg image struct qm tamper fc drawbar ev irqSrc ks hbm quorum sciph spke pke s.mem cip rng hf led spdm mpu flash card0 card1 sdh tag dispSrc cluster warden disp wbuf arb test sb dbg) :=
  ⟨h.queue, h.regs, h.mem, fuseLe_evidenceUp _ _ h.fuse⟩

/-- Programming a fuse bit. -/
theorem Keeps.updBurn (h : Keeps q w s) {freeCtr : Nat} {power : PowerState} {boot : BootState} {cfg : CfgFlash} {image : Option Image} {struct : StructState} {qm : QmState} {tamper : TamperState} {fc : FaultState} {drawbar : Drawbar} {ev : EvState} {irqSrc : BitVec 64} {ks : KsState} {hbm : HbmState} {quorum : QuorumState} {sciph : SciphState} {spke : SpkeState} {pke : PkeState} {cip : CipState} {rng : RngState} {hf : HostFlash} {led : LedState} {spdm : SpdmState} {mpu : MpuState} {flash : FlashState} {card0 : CardPort} {card1 : CardPort} {sdh : SdhState} {tag : TagState} {dispSrc : List (Nat × Nat)} {cluster : ClusterState} {warden : List DCore} {disp : List DCore} {wbuf : List BufWrite} {arb : ArbState} {test : Option TestRun} {sb : SidebState} {dbg : DebugState} {shadow : FuseBits} {prog : Option (Nat × Nat)} {target index : Nat} :
    Keeps q w (State.mk s.pending freeCtr s.regs power (FuseState.mk (burn s.fuse.arr target index) shadow prog) boot cfg image struct qm tamper fc drawbar ev irqSrc ks hbm quorum sciph spke pke s.mem cip rng hf led spdm mpu flash card0 card1 sdh tag dispSrc cluster warden disp wbuf arb test sb dbg) :=
  ⟨h.queue, h.regs, h.mem, fun t i e => burned_burn _ _ _ _ _ (h.fuse.1 t i e), fun i e => by rw [burn_evidence]; exact h.fuse.2 i e⟩

theorem setF_keeps (f : Field) (v : Nat) (h : Keeps q w s) : Keeps q w (setF s f v) :=
  ⟨h.queue, keysRise_set _ _ _ _ h.regs, h.mem, h.fuse⟩

theorem resetRegs_keeps (p : Nat → Nat → Bool) (h : Keeps q w s) : Keeps q w (resetRegs s p) :=
  ⟨h.queue, keysRise_filter _ _ h.regs, h.mem, h.fuse⟩

theorem geckoPut_keeps (a : Nat) (b : Byte) (h : Keeps q w s) : Keeps q w (geckoPut s a b) := by
  refine ⟨h.queue, h.regs, ?_, h.fuse⟩
  have := h.mem
  simp only [geckoPut, Memory.wf, Bool.and_eq_true] at *
  exact ⟨⟨⟨cellsWf_write _ _ _ _ this.1.1.1, this.1.1.2⟩, this.1.2⟩, this.2⟩

/-- What a part of a Delpin instruction keeps: the states it ends in. -/
structure KeepsD {α : Type} (q : List Instr) (w : FuseBits) (r : DOut α) : Prop where
  ok : ∀ a t, r = .ok a t → Keeps q w t
  flt : ∀ f t, r = .fault f t → Keeps q w t
/-- The same of a part that answers a state. -/
structure KeepsDS (q : List Instr) (w : FuseBits) (r : DOut State) : Prop where
  ok : ∀ a t, r = .ok a t → Keeps q w a ∧ Keeps q w t
  flt : ∀ f t, r = .fault f t → Keeps q w t

theorem KeepsD.ok' {a : α} (h : Keeps q w s) : KeepsD q w (DOut.ok a s) := ⟨(by intro a t e; cases e; exact h), by intro f t e; cases e⟩
theorem KeepsD.fault {f : DFault} (h : Keeps q w s) : KeepsD (α := α) q w (DOut.fault f s) := ⟨(by intro a t e; cases e), by intro f t e; cases e; exact h⟩
theorem KeepsD.wait : KeepsD (α := α) q w DOut.wait := ⟨(by intro a t e; cases e), by intro f t e; cases e⟩
theorem KeepsD.ite {c : Prop} [Decidable c] {a b : DOut α} (ha : KeepsD q w a) (hb : KeepsD q w b) : KeepsD q w (if c then a else b) := by
  split <;> assumption
theorem KeepsD.bind {o : DOut α} {k : α → State → DOut β} (h : KeepsD q w o) (hk : ∀ a t, Keeps q w t → KeepsD q w (k a t)) :
    KeepsD q w (o.bind k) := by
  cases o with
  | ok a t => exact hk a t (h.ok _ _ rfl)
  | fault f t => exact KeepsD.fault (h.flt _ _ rfl)
  | wait => exact KeepsD.wait
theorem KeepsDS.ok' (h : Keeps q w s) (h' : Keeps q w t) : KeepsDS q w (DOut.ok t s) :=
  ⟨(by intro a t e; cases e; exact ⟨h', h⟩), by intro f t e; cases e⟩
theorem KeepsDS.fault {f : DFault} (h : Keeps q w s) : KeepsDS q w (DOut.fault f s) := ⟨(by intro a t e; cases e), by intro f t e; cases e; exact h⟩
theorem KeepsDS.wait : KeepsDS q w DOut.wait := ⟨(by intro a t e; cases e), by intro f t e; cases e⟩
theorem KeepsDS.ite {c : Prop} [Decidable c] {a b : DOut State} (ha : KeepsDS q w a) (hb : KeepsDS q w b) : KeepsDS q w (if c then a else b) := by
  split <;> assumption
theorem KeepsDS.bind {o : DOut α} {k : α → State → DOut State} (h : KeepsD q w o) (hk : ∀ a t, Keeps q w t → KeepsDS q w (k a t)) :
    KeepsDS q w (o.bind k) := by
  cases o with
  | ok a t => exact hk a t (h.ok _ _ rfl)
  | fault f t => exact KeepsDS.fault (h.flt _ _ rfl)
  | wait => exact KeepsDS.wait
theorem KeepsDS.toD {r : DOut State} (h : KeepsDS q w r) : KeepsD q w r := ⟨fun a t e => (h.ok a t e).2, h.flt⟩
theorem Keeps.eqD {a : α} {r : DOut α} (e : r = .ok a t) (h : KeepsD q w r) : Keeps q w t := h.ok _ _ e
theorem Keeps.eqDF {f : DFault} {r : DOut α} (e : r = .fault f t) (h : KeepsD q w r) : Keeps q w t := h.flt _ _ e
theorem Keeps.eqDS {r : DOut State} (e : r = .ok t s) (h : KeepsDS q w r) : Keeps q w t := (h.ok _ _ e).1
theorem Keeps.eqDT {r : DOut State} (e : r = .ok t s) (h : KeepsDS q w r) : Keeps q w s := (h.ok _ _ e).2
theorem Keeps.eqDSF {f : DFault} {r : DOut State} (e : r = .fault f t) (h : KeepsDS q w r) : Keeps q w t := h.flt _ _ e

/-- The same of a state and a count that may be absent. -/
structure KeepsOL (q : List Instr) (w : FuseBits) (r : Option (State × Nat)) : Prop where
  out : ∀ t n, r = .some (t, n) → Keeps q w t
theorem KeepsOL.none : KeepsOL q w none := ⟨by intro t n e; cases e⟩
theorem KeepsOL.some {n : Nat} (h : Keeps q w s) : KeepsOL q w (.some (s, n)) := ⟨by intro t n e; cases e; exact h⟩
theorem KeepsOL.ite {c : Prop} [Decidable c] {a b : Option (State × Nat)} (ha : KeepsOL q w a) (hb : KeepsOL q w b) : KeepsOL q w (if c then a else b) := by
  split <;> assumption
theorem Keeps.eqOL {n : Nat} {r : Option (State × Nat)} (e : r = .some (t, n)) (h : KeepsOL q w r) : Keeps q w t := h.out t n e

theorem geckoWrite_keeps (a : Nat) (b : Bytes) (h : Keeps q w s) : Keeps q w (geckoWrite s a b) := by
  induction b generalizing s a with
  | nil => exact h
  | cons x t ih => exact ih _ (geckoPut_keeps _ _ h)

end Sys2Proof.Machine
end

