-- ==== Sys2Proof/Laws/KeepsOps.lean ====
section
/-!
SUPPORT. Laws/KeepsOps.lean: what the operations of Ops.lean keep.
-/
namespace Sys2Proof.Machine

variable {q : List Instr} {w : FuseBits}

theorem setB_keeps {s : State} (f : Field) (b : Bool) (hs : Keeps q w s) : Keeps q w (setB s f b) := by
  unfold setB
  try dsimp only
  repeat' first
    | with_reducible assumption
    | intro _
    | with_reducible apply setF_keeps
    | with_reducible apply Keeps.ite
    | with_reducible apply Keeps.foldl
    | split

theorem writeField_keeps {s : State} (f : Field) (v : Nat) (hs : Keeps q w s) : Keeps q w (writeField s f v) := by
  unfold writeField
  try dsimp only
  repeat' first
    | with_reducible assumption
    | intro _
    | with_reducible apply setF_keeps
    | with_reducible apply Keeps.ite
    | with_reducible apply Keeps.foldl
    | split

theorem writeReg_keeps {s : State} (blk : Nat) (off : Nat) (v : Nat) (hs : Keeps q w s) : Keeps q w (writeReg s blk off v) := by
  unfold writeReg
  try dsimp only
  repeat' first
    | with_reducible assumption
    | intro _
    | with_reducible apply writeField_keeps
    | with_reducible apply Keeps.ite
    | with_reducible apply Keeps.foldl
    | split

theorem draw_keeps {s : State} (w_ : Nat) (hs : Keeps q w s) : KeepsP q w (draw s w_) := by
  unfold draw
  try dsimp only
  repeat' first
    | with_reducible assumption
    | intro _
    | refine Keeps.eqP (by with_reducible assumption) ?_
    | with_reducible apply Keeps.ite
    | with_reducible apply Keeps.foldl
    | with_reducible apply KeepsP.ite
    | with_reducible apply KeepsP.foldl
    | split
    | with_reducible apply Keeps.snd
    | with_reducible apply KeepsP.pair
    | with_reducible apply Keeps.upd

theorem drawBytes_keeps {s : State} (n : Nat) (hs : Keeps q w s) : KeepsP q w (drawBytes s n) := by
  unfold drawBytes
  try dsimp only
  repeat' first
    | with_reducible assumption
    | intro _
    | refine Keeps.eqP (by with_reducible assumption) ?_
    | with_reducible apply Keeps.ite
    | with_reducible apply Keeps.foldl
    | with_reducible apply KeepsP.ite
    | with_reducible apply KeepsP.foldl
    | split
    | with_reducible apply Keeps.snd
    | with_reducible apply KeepsP.pair
    | with_reducible apply Keeps.upd

theorem raise_keeps {s : State} (n : Nat) (hs : Keeps q w s) : Keeps q w (raise s n) := by
  unfold raise
  try dsimp only
  repeat' first
    | with_reducible assumption
    | intro _
    | with_reducible apply Keeps.ite
    | with_reducible apply Keeps.foldl
    | split
    | with_reducible apply Keeps.upd

theorem raiseDisp_keeps {s : State} (src : Nat) (cores : Nat) (hs : Keeps q w s) : Keeps q w (raiseDisp s src cores) := by
  unfold raiseDisp
  try dsimp only
  repeat' first
    | with_reducible assumption
    | intro _
    | with_reducible apply Keeps.ite
    | with_reducible apply Keeps.foldl
    | split
    | with_reducible apply Keeps.upd

theorem whenGecko_keeps {s : State} {t : State} (hs : Keeps q w s) (ht : Keeps q w t) : KeepsR q w (whenGecko s t) := by
  unfold whenGecko
  try dsimp only
  repeat' first
    | with_reducible assumption
    | intro _
    | with_reducible apply Keeps.ite
    | with_reducible apply Keeps.foldl
    | with_reducible apply KeepsR.next
    | with_reducible apply KeepsR.ite
    | split

theorem whenLandau_keeps {s : State} {t : State} (hs : Keeps q w s) (ht : Keeps q w t) : KeepsR q w (whenLandau s t) := by
  unfold whenLandau
  try dsimp only
  repeat' first
    | with_reducible assumption
    | intro _
    | with_reducible apply Keeps.ite
    | with_reducible apply Keeps.foldl
    | with_reducible apply KeepsR.next
    | with_reducible apply KeepsR.ite
    | split

end Sys2Proof.Machine
end

