-- ==== Sys2Proof/Laws/KeepsEvents.lean ====
section
/-!
SUPPORT. Laws/KeepsEvents.lean: what the operations of Events.lean keep.
-/
namespace Sys2Proof.Machine

variable {q : List Instr} {w : FuseBits}

theorem evRefresh_keeps {s : State} (hs : Keeps q w s) : Keeps q w (evRefresh s) := by
  unfold evRefresh
  try dsimp only
  repeat' first
    | with_reducible assumption
    | intro _
    | with_reducible apply setF_keeps
    | with_reducible apply Keeps.ite
    | with_reducible apply Keeps.foldl
    | split

theorem closeOpen_keeps {s : State} (p : EvRec → Bool) (hs : Keeps q w s) : Keeps q w (closeOpen s p) := by
  unfold closeOpen
  try dsimp only
  repeat' first
    | with_reducible assumption
    | intro _
    | with_reducible apply evRefresh_keeps
    | with_reducible apply Keeps.ite
    | with_reducible apply Keeps.foldl
    | split
    | with_reducible apply Keeps.upd

theorem openRec_keeps {s : State} (r : EvRec) (hs : Keeps q w s) : Keeps q w (openRec s r) := by
  unfold openRec
  try dsimp only
  repeat' first
    | with_reducible assumption
    | intro _
    | with_reducible apply evRefresh_keeps
    | with_reducible apply Keeps.ite
    | with_reducible apply Keeps.foldl
    | split
    | with_reducible apply Keeps.upd

theorem evDrop_keeps {s : State} (hs : Keeps q w s) : Keeps q w (evDrop s) := by
  unfold evDrop
  try dsimp only
  repeat' first
    | with_reducible assumption
    | intro _
    | with_reducible apply setF_keeps
    | with_reducible apply Keeps.ite
    | with_reducible apply Keeps.foldl
    | split
    | with_reducible apply Keeps.upd

theorem evDroppedRec_keeps {s : State} (hs : Keeps q w s) : Keeps q w (evDroppedRec s) := by
  unfold evDroppedRec
  try dsimp only
  repeat' first
    | with_reducible assumption
    | intro _
    | with_reducible apply openRec_keeps
    | with_reducible apply setF_keeps
    | with_reducible apply Keeps.ite
    | with_reducible apply Keeps.foldl
    | split

theorem occurAt_keeps {s : State} (code : Nat) (flags : Nat) (unit : Nat) (part : Nat) (detail : Nat) (rtcV : Nat) (hs : Keeps q w s) : Keeps q w (occurAt s code flags unit part detail rtcV) := by
  unfold occurAt
  try dsimp only
  repeat' first
    | with_reducible assumption
    | intro _
    | with_reducible apply evDroppedRec_keeps
    | with_reducible apply evDrop_keeps
    | with_reducible apply openRec_keeps
    | with_reducible apply closeOpen_keeps
    | with_reducible apply Keeps.ite
    | with_reducible apply Keeps.foldl
    | split
    | with_reducible apply Keeps.upd

theorem occur_keeps {s : State} (code : Nat) (unit : Nat) (part : Nat) (detail : Nat) (hs : Keeps q w s) : Keeps q w (occur s code unit part detail) := by
  unfold occur
  try dsimp only
  repeat' first
    | with_reducible assumption
    | intro _
    | with_reducible apply occurAt_keeps
    | with_reducible apply Keeps.ite
    | with_reducible apply Keeps.foldl
    | split

theorem occurForced_keeps {s : State} (code : Nat) (unit : Nat) (part : Nat) (detail : Nat) (hs : Keeps q w s) : Keeps q w (occurForced s code unit part detail) := by
  unfold occurForced
  try dsimp only
  repeat' first
    | with_reducible assumption
    | intro _
    | with_reducible apply occurAt_keeps
    | with_reducible apply Keeps.ite
    | with_reducible apply Keeps.foldl
    | split

theorem counterSat_keeps {s : State} (blk : Nat) (off : Nat) (hs : Keeps q w s) : Keeps q w (counterSat s blk off) := by
  unfold counterSat
  try dsimp only
  repeat' first
    | with_reducible assumption
    | intro _
    | with_reducible apply occur_keeps
    | with_reducible apply Keeps.ite
    | with_reducible apply Keeps.foldl
    | split

theorem bumpBy_keeps {s : State} (cnt : Field) (sat : Field) (n : Nat) (hs : Keeps q w s) : Keeps q w (bumpBy s cnt sat n) := by
  unfold bumpBy
  try dsimp only
  repeat' first
    | with_reducible assumption
    | intro _
    | with_reducible apply counterSat_keeps
    | with_reducible apply setF_keeps
    | with_reducible apply Keeps.ite
    | with_reducible apply Keeps.foldl
    | split

theorem bump_keeps {s : State} (cnt : Field) (sat : Field) (hs : Keeps q w s) : Keeps q w (bump s cnt sat) := by
  unfold bump
  try dsimp only
  repeat' first
    | with_reducible assumption
    | intro _
    | with_reducible apply bumpBy_keeps
    | with_reducible apply Keeps.ite
    | with_reducible apply Keeps.foldl
    | split

theorem bumpNoSat_keeps {s : State} (cnt : Field) (hs : Keeps q w s) : Keeps q w (bumpNoSat s cnt) := by
  unfold bumpNoSat
  try dsimp only
  repeat' first
    | with_reducible assumption
    | intro _
    | with_reducible apply counterSat_keeps
    | with_reducible apply setF_keeps
    | with_reducible apply Keeps.ite
    | with_reducible apply Keeps.foldl
    | split

theorem clearCounter_keeps {s : State} (cnt : Field) (sat : Field) (hs : Keeps q w s) : Keeps q w (clearCounter s cnt sat) := by
  unfold clearCounter
  try dsimp only
  repeat' first
    | with_reducible assumption
    | intro _
    | with_reducible apply setF_keeps
    | with_reducible apply Keeps.ite
    | with_reducible apply Keeps.foldl
    | split

end Sys2Proof.Machine
end

