-- ==== Sys2Proof/Laws/KeepsFlashCore.lean ====
section
/-!
SUPPORT. Laws/KeepsFlashCore.lean: what the operations of FlashCore.lean keep.
-/
namespace Sys2Proof.Machine

variable {q : List Instr} {w : FuseBits}

theorem setLine_keeps {s : State} (l : Nat) (v : Nat) (hs : Keeps q w s) : Keeps q w (setLine s l v) := by
  unfold setLine
  try dsimp only
  repeat' first
    | with_reducible assumption
    | intro _
    | with_reducible apply Keeps.ite
    | with_reducible apply Keeps.foldl
    | split
    | with_reducible apply Keeps.upd

theorem eraseFlash_keeps {s : State} (a : Nat) (n : Nat) (hs : Keeps q w s) : Keeps q w (eraseFlash s a n) := by
  unfold eraseFlash
  try dsimp only
  repeat' first
    | with_reducible assumption
    | intro _
    | with_reducible apply Keeps.ite
    | with_reducible apply Keeps.foldl
    | split
    | refine Keeps.updMem ?_ (Memory.wf_mk ?_ ?_ ?_ ?_)
    | with_reducible apply cellsWf_filter
    | with_reducible apply cellsWf_writes
    | with_reducible apply cellsWf_foldl
    | with_reducible apply Keeps.cellsG q w
    | with_reducible apply Keeps.cellsI q w
    | with_reducible apply Keeps.cellsD q w
    | with_reducible apply Keeps.cellsH q w
    | exact cellsWf_nil _
    | with_reducible apply Keeps.upd

theorem programLine_keeps {s : State} (a : Nat) (b : Bytes) (hs : Keeps q w s) : Keeps q w (programLine s a b) := by
  unfold programLine
  try dsimp only
  repeat' first
    | with_reducible assumption
    | intro _
    | with_reducible apply setLine_keeps
    | with_reducible apply geckoWrite_keeps
    | with_reducible apply Keeps.ite
    | with_reducible apply Keeps.foldl
    | split

/-- `programLines` takes its lines in address order. -/
theorem programLines_succ (s : State) (a : Nat) (b : Bytes) (n : Nat) : programLines s a b (n + 1) = programLines (programLine s a b) (a + 32) (b.drop 32) n := by
  delta programLines; exact rfl

theorem programLines_keeps {s : State} (a : Nat) (b : Bytes) (n : Nat) (hs : Keeps q w s) : Keeps q w (programLines s a b n) := by
  induction n generalizing s a b with
  | zero => exact hs
  | succ n ih => rw [programLines_succ]; exact ih _ _ (programLine_keeps a b hs)

theorem tearLine_keeps {s : State} (a : Nat) (b : Bytes) (hs : Keeps q w s) : Keeps q w (tearLine s a b) := by
  unfold tearLine
  try dsimp only
  repeat' first
    | with_reducible assumption
    | intro _
    | refine Keeps.eqP (by with_reducible assumption) ?_
    | with_reducible apply programLine_keeps
    | with_reducible apply setLine_keeps
    | with_reducible apply drawBytes_keeps
    | with_reducible apply draw_keeps
    | with_reducible apply geckoWrite_keeps
    | with_reducible apply Keeps.ite
    | with_reducible apply Keeps.foldl
    | with_reducible apply KeepsP.ite
    | with_reducible apply KeepsP.foldl
    | split
    | with_reducible apply Keeps.snd
    | with_reducible apply KeepsP.pair

/-- `tearLines` takes its lines in address order. -/
theorem tearLines_succ (s : State) (a : Nat) (b : Bytes) (n : Nat) : tearLines s a b (n + 1) = tearLines (tearLine s a b) (a + 32) (b.drop 32) n := by
  delta tearLines; exact rfl

theorem tearLines_keeps {s : State} (a : Nat) (b : Bytes) (n : Nat) (hs : Keeps q w s) : Keeps q w (tearLines s a b n) := by
  induction n generalizing s a b with
  | zero => exact hs
  | succ n ih => rw [tearLines_succ]; exact ih _ _ (tearLine_keeps a b hs)

theorem tearErase_keeps {s : State} (a : Nat) (n : Nat) (hs : Keeps q w s) : Keeps q w (tearErase s a n) := by
  unfold tearErase
  try dsimp only
  repeat' first
    | with_reducible assumption
    | intro _
    | with_reducible apply Keeps.ite
    | with_reducible apply Keeps.foldl
    | split
    | refine Keeps.updMem ?_ (Memory.wf_mk ?_ ?_ ?_ ?_)
    | with_reducible apply cellsWf_filter
    | with_reducible apply cellsWf_writes
    | with_reducible apply cellsWf_foldl
    | with_reducible apply Keeps.cellsG q w
    | with_reducible apply Keeps.cellsI q w
    | with_reducible apply Keeps.cellsD q w
    | with_reducible apply Keeps.cellsH q w
    | exact cellsWf_nil _
    | with_reducible apply Keeps.upd

theorem abandonOp_keeps {s : State} (o : FlashOp) (hs : Keeps q w s) : Keeps q w (abandonOp s o) := by
  unfold abandonOp
  try dsimp only
  repeat' first
    | with_reducible assumption
    | intro _
    | with_reducible apply tearErase_keeps
    | with_reducible apply tearLines_keeps
    | with_reducible apply Keeps.ite
    | with_reducible apply Keeps.foldl
    | split

theorem abandonFlash_keeps {s : State} (hs : Keeps q w s) : Keeps q w (abandonFlash s) := by
  unfold abandonFlash
  try dsimp only
  repeat' first
    | with_reducible assumption
    | intro _
    | with_reducible apply abandonOp_keeps
    | with_reducible apply Keeps.ite
    | with_reducible apply Keeps.foldl
    | split
    | with_reducible apply Keeps.upd

theorem showHalf_keeps {s : State} (hs : Keeps q w s) : Keeps q w (showHalf s) := by
  unfold showHalf
  try dsimp only
  repeat' first
    | with_reducible assumption
    | intro _
    | with_reducible apply setB_keeps
    | with_reducible apply setF_keeps
    | with_reducible apply Keeps.ite
    | with_reducible apply Keeps.foldl
    | split

theorem showSusp_keeps {s : State} (hs : Keeps q w s) : Keeps q w (showSusp s) := by
  unfold showSusp
  try dsimp only
  repeat' first
    | with_reducible assumption
    | intro _
    | with_reducible apply setF_keeps
    | with_reducible apply Keeps.ite
    | with_reducible apply Keeps.foldl
    | split

theorem abandonSuspended_keeps {s : State} (hs : Keeps q w s) : Keeps q w (abandonSuspended s) := by
  unfold abandonSuspended
  try dsimp only
  repeat' first
    | with_reducible assumption
    | intro _
    | with_reducible apply showSusp_keeps
    | with_reducible apply abandonOp_keeps
    | with_reducible apply Keeps.ite
    | with_reducible apply Keeps.foldl
    | split
    | with_reducible apply Keeps.upd

theorem scanHalf_keeps {s : State} (hs : Keeps q w s) : Keeps q w (scanHalf s) := by
  unfold scanHalf
  try dsimp only
  repeat' first
    | with_reducible assumption
    | intro _
    | with_reducible apply showHalf_keeps
    | with_reducible apply Keeps.ite
    | with_reducible apply Keeps.foldl
    | split
    | with_reducible apply Keeps.upd

theorem closeIntents_keeps {s : State} (b : Nat) (f : Nat) (n : Nat) (hs : Keeps q w s) : Keeps q w (closeIntents s b f n) := by
  unfold closeIntents
  try dsimp only
  repeat' first
    | with_reducible assumption
    | intro _
    | with_reducible apply showHalf_keeps
    | with_reducible apply Keeps.ite
    | with_reducible apply Keeps.foldl
    | split
    | with_reducible apply Keeps.upd

theorem showSpares_keeps {s : State} (hs : Keeps q w s) : Keeps q w (showSpares s) := by
  unfold showSpares
  try dsimp only
  repeat' first
    | with_reducible assumption
    | intro _
    | with_reducible apply setF_keeps
    | with_reducible apply Keeps.ite
    | with_reducible apply Keeps.foldl
    | split

theorem updEjour_keeps {s : State} (b : Nat) (f : EraseJournal → EraseJournal) (hs : Keeps q w s) : Keeps q w (updEjour s b f) := by
  unfold updEjour
  try dsimp only
  repeat' first
    | with_reducible assumption
    | intro _
    | with_reducible apply Keeps.ite
    | with_reducible apply Keeps.foldl
    | split
    | with_reducible apply Keeps.upd

theorem noteIntent_keeps {s : State} (b : Nat) (hs : Keeps q w s) : Keeps q w (noteIntent s b) := by
  unfold noteIntent
  try dsimp only
  repeat' first
    | with_reducible assumption
    | intro _
    | with_reducible apply updEjour_keeps
    | with_reducible apply Keeps.ite
    | with_reducible apply Keeps.foldl
    | split
    | with_reducible apply Keeps.upd

theorem noteDone_keeps {s : State} (b : Nat) (hs : Keeps q w s) : Keeps q w (noteDone s b) := by
  unfold noteDone
  try dsimp only
  repeat' first
    | with_reducible assumption
    | intro _
    | with_reducible apply updEjour_keeps
    | with_reducible apply Keeps.ite
    | with_reducible apply Keeps.foldl
    | split
    | with_reducible apply Keeps.upd

end Sys2Proof.Machine
end

