-- ==== Sys2Proof/Laws/KeepsFuse.lean ====
section
/-!
SUPPORT. Laws/KeepsFuse.lean: what the operations of Fuse.lean keep.
-/
namespace Sys2Proof.Machine

variable {q : List Instr} {w : FuseBits}

theorem fillWords_keeps {s : State} (f : Nat → Field) (n : Nat) (w_ : Nat → Nat) (hs : Keeps q w s) : Keeps q w (fillWords s f n w_) := by
  unfold fillWords
  try dsimp only
  repeat' first
    | with_reducible assumption
    | intro _
    | with_reducible apply setF_keeps
    | with_reducible apply Keeps.ite
    | with_reducible apply Keeps.foldl
    | split

theorem loadDebugFuse_keeps {s : State} (hs : Keeps q w s) : Keeps q w (loadDebugFuse s) := by
  unfold loadDebugFuse
  try dsimp only
  repeat' first
    | with_reducible assumption
    | intro _
    | with_reducible apply setB_keeps
    | with_reducible apply Keeps.ite
    | with_reducible apply Keeps.foldl
    | split

theorem loadFuseRegs_keeps {s : State} (hs : Keeps q w s) : Keeps q w (loadFuseRegs s) := by
  unfold loadFuseRegs
  try dsimp only
  repeat' first
    | with_reducible assumption
    | intro _
    | with_reducible apply loadDebugFuse_keeps
    | with_reducible apply fillWords_keeps
    | with_reducible apply setB_keeps
    | with_reducible apply setF_keeps
    | with_reducible apply Keeps.ite
    | with_reducible apply Keeps.foldl
    | split

theorem burnBit_keeps {s : State} (target : Nat) (index : Nat) (hs : Keeps q w s) : Keeps q w (burnBit s target index) := by
  unfold burnBit
  try dsimp only
  repeat' first
    | with_reducible assumption
    | intro _
    | with_reducible apply loadFuseRegs_keeps
    | with_reducible apply Keeps.ite
    | with_reducible apply Keeps.foldl
    | split
    | with_reducible apply Keeps.upd
    | with_reducible apply Keeps.updFuse
    | with_reducible apply Keeps.updBurn
    | with_reducible apply Keeps.updEvid

theorem requestBurn_keeps {s : State} (target : Nat) (index : Nat) (hs : Keeps q w s) : KeepsL q w (requestBurn s target index) := by
  unfold requestBurn
  try dsimp only
  repeat' first
    | with_reducible assumption
    | intro _
    | refine Keeps.eqL (by with_reducible assumption) ?_
    | with_reducible apply burnBit_keeps
    | with_reducible apply Keeps.ite
    | with_reducible apply Keeps.foldl
    | with_reducible apply KeepsL.ite
    | with_reducible apply KeepsL.foldl
    | split
    | with_reducible apply Keeps.fst
    | with_reducible apply KeepsL.pair

theorem execFuseProgram_keeps (v : W32) {s : State} (hs : Keeps q w s) : KeepsR q w (execFuseProgram v s) := by
  unfold execFuseProgram
  try dsimp only
  repeat' first
    | with_reducible assumption
    | intro _
    | with_reducible apply whenGecko_keeps
    | with_reducible apply setF_keeps
    | with_reducible apply Keeps.ite
    | with_reducible apply Keeps.foldl
    | with_reducible apply KeepsR.next
    | with_reducible apply KeepsR.ite
    | split
    | with_reducible apply Keeps.upd
    | with_reducible apply Keeps.updFuse
    | with_reducible apply Keeps.updBurn
    | with_reducible apply Keeps.updEvid

theorem execFuseProgramDone_keeps {s : State} (hs : Keeps q w s) : KeepsR q w (execFuseProgramDone s) := by
  unfold execFuseProgramDone
  try dsimp only
  repeat' first
    | with_reducible assumption
    | intro _
    | with_reducible apply burnBit_keeps
    | with_reducible apply setB_keeps
    | with_reducible apply setF_keeps
    | with_reducible apply Keeps.ite
    | with_reducible apply Keeps.foldl
    | with_reducible apply KeepsR.next
    | with_reducible apply KeepsR.ite
    | split
    | with_reducible apply Keeps.upd
    | with_reducible apply Keeps.updFuse
    | with_reducible apply Keeps.updBurn
    | with_reducible apply Keeps.updEvid

end Sys2Proof.Machine
end

