-- ==== Sys2Proof/Laws/KeepsImage.lean ====
section
/-!
SUPPORT. Laws/KeepsImage.lean: what the operations of Image.lean keep.
-/
namespace Sys2Proof.Machine

variable {q : List Instr} {w : FuseBits}

theorem writeSelector_keeps {s : State} (x : Selector) (hs : Keeps q w s) : Keeps q w (writeSelector s x) := by
  unfold writeSelector
  try dsimp only
  repeat' first
    | with_reducible assumption
    | intro _
    | with_reducible apply Keeps.ite
    | with_reducible apply Keeps.foldl
    | split
    | with_reducible apply Keeps.upd

theorem noteVerdict_keeps {s : State} (n : Nat) (v : Nat) (hs : Keeps q w s) : Keeps q w (noteVerdict s n v) := by
  unfold noteVerdict
  try dsimp only
  repeat' first
    | with_reducible assumption
    | intro _
    | with_reducible apply Keeps.ite
    | with_reducible apply Keeps.foldl
    | split
    | with_reducible apply Keeps.upd

theorem trySlot_keeps {s : State} (n : Nat) (hs : Keeps q w s) : KeepsL q w (trySlot s n) := by
  unfold trySlot
  try dsimp only
  repeat' first
    | with_reducible assumption
    | intro _
    | refine Keeps.eqL (by with_reducible assumption) ?_
    | with_reducible apply noteVerdict_keeps
    | with_reducible apply Keeps.ite
    | with_reducible apply Keeps.foldl
    | with_reducible apply KeepsL.ite
    | with_reducible apply KeepsL.foldl
    | split
    | with_reducible apply Keeps.fst
    | with_reducible apply KeepsL.pair
    | with_reducible apply Keeps.upd

theorem useSlot_keeps {s : State} (n : Nat) (hs : Keeps q w s) : Keeps q w (useSlot s n) := by
  unfold useSlot
  try dsimp only
  repeat' first
    | with_reducible assumption
    | intro _
    | with_reducible apply setF_keeps
    | with_reducible apply Keeps.ite
    | with_reducible apply Keeps.foldl
    | split
    | with_reducible apply Keeps.upd

theorem chooseSlot_keeps {s : State} (hs : Keeps q w s) : Keeps q w (chooseSlot s) := by
  unfold chooseSlot
  try dsimp only
  repeat' first
    | with_reducible assumption
    | intro _
    | refine Keeps.eqL (by with_reducible assumption) ?_
    | with_reducible apply useSlot_keeps
    | with_reducible apply trySlot_keeps
    | with_reducible apply writeSelector_keeps
    | with_reducible apply Keeps.ite
    | with_reducible apply Keeps.foldl
    | with_reducible apply KeepsL.ite
    | with_reducible apply KeepsL.foldl
    | split
    | with_reducible apply Keeps.fst
    | with_reducible apply KeepsL.pair
    | with_reducible apply Keeps.upd

theorem selectorRelease_keeps {s : State} (hs : Keeps q w s) : Keeps q w (selectorRelease s) := by
  unfold selectorRelease
  try dsimp only
  repeat' first
    | with_reducible assumption
    | intro _
    | with_reducible apply writeSelector_keeps
    | with_reducible apply Keeps.ite
    | with_reducible apply Keeps.foldl
    | split
    | with_reducible apply Keeps.upd

theorem slotFallback_keeps {s : State} (hs : Keeps q w s) : KeepsO q w (slotFallback s) := by
  unfold slotFallback
  try dsimp only
  repeat' first
    | with_reducible assumption
    | intro _
    | refine Keeps.eqO (by with_reducible assumption) ?_
    | with_reducible apply writeSelector_keeps
    | with_reducible apply Keeps.ite
    | with_reducible apply Keeps.foldl
    | with_reducible apply KeepsO.some
    | with_reducible apply KeepsO.none
    | with_reducible apply KeepsO.ite
    | split
    | with_reducible apply Keeps.upd

end Sys2Proof.Machine
end

