-- ==== Sys2Proof/Laws/KeepsStructHw.lean ====
section
/-!
SUPPORT. Laws/KeepsStructHw.lean: what the operations of StructHw.lean keep.
-/
namespace Sys2Proof.Machine

variable {q : List Instr} {w : FuseBits}

theorem applyAllocWord_keeps {s : State} (k : Nat) (w_ : Nat) (hs : Keeps q w s) : Keeps q w (applyAllocWord s k w_) := by
  unfold applyAllocWord
  try dsimp only
  repeat' first
    | with_reducible assumption
    | intro _
    | with_reducible apply setF_keeps
    | with_reducible apply Keeps.ite
    | with_reducible apply Keeps.foldl
    | split

theorem setUnit_keeps {s : State} (cls : Nat) (u : Nat) (act : Nat) (spare : Nat) (ret : Nat) (hs : Keeps q w s) : Keeps q w (setUnit s cls u act spare ret) := by
  unfold setUnit
  try dsimp only
  repeat' first
    | with_reducible assumption
    | intro _
    | with_reducible apply setF_keeps
    | with_reducible apply Keeps.ite
    | with_reducible apply Keeps.foldl
    | split

theorem structError_keeps {s : State} (v : Violation) (hs : Keeps q w s) : Keeps q w (structError s v) := by
  unfold structError
  try dsimp only
  repeat' first
    | with_reducible assumption
    | intro _
    | with_reducible apply setF_keeps
    | with_reducible apply Keeps.ite
    | with_reducible apply Keeps.foldl
    | split

theorem clearStructError_keeps {s : State} (hs : Keeps q w s) : Keeps q w (clearStructError s) := by
  unfold clearStructError
  try dsimp only
  repeat' first
    | with_reducible assumption
    | intro _
    | with_reducible apply structError_keeps
    | with_reducible apply Keeps.ite
    | with_reducible apply Keeps.foldl
    | split

theorem structSequence_keeps {s : State} (hs : Keeps q w s) : Keeps q w (structSequence s) := by
  unfold structSequence
  try dsimp only
  repeat' first
    | with_reducible assumption
    | intro _
    | with_reducible apply structError_keeps
    | with_reducible apply Keeps.ite
    | with_reducible apply Keeps.foldl
    | split

theorem structKeyed_keeps (key : BitVec 16) {s : State} {t : State} (hs : Keeps q w s) (ht : Keeps q w t) : KeepsR q w (structKeyed key s t) := by
  unfold structKeyed
  try dsimp only
  repeat' first
    | with_reducible assumption
    | intro _
    | with_reducible apply Keeps.ite
    | with_reducible apply Keeps.foldl
    | with_reducible apply KeepsR.next
    | with_reducible apply KeepsR.ite
    | split

theorem execStructBegin_keeps (key : BitVec 16) {s : State} (hs : Keeps q w s) : KeepsR q w (execStructBegin key s) := by
  unfold execStructBegin
  try dsimp only
  repeat' first
    | with_reducible assumption
    | intro _
    | with_reducible apply structKeyed_keeps
    | with_reducible apply structSequence_keeps
    | with_reducible apply clearStructError_keeps
    | with_reducible apply setF_keeps
    | with_reducible apply Keeps.ite
    | with_reducible apply Keeps.foldl
    | with_reducible apply KeepsR.next
    | with_reducible apply KeepsR.ite
    | split
    | with_reducible apply Keeps.upd

theorem execStructAbandon_keeps (key : BitVec 16) {s : State} (hs : Keeps q w s) : KeepsR q w (execStructAbandon key s) := by
  unfold execStructAbandon
  try dsimp only
  repeat' first
    | with_reducible assumption
    | intro _
    | with_reducible apply structKeyed_keeps
    | with_reducible apply structSequence_keeps
    | with_reducible apply setF_keeps
    | with_reducible apply Keeps.ite
    | with_reducible apply Keeps.foldl
    | with_reducible apply KeepsR.next
    | with_reducible apply KeepsR.ite
    | split
    | with_reducible apply Keeps.upd

theorem execStructSelWrite_keeps (v : W32) {s : State} (hs : Keeps q w s) : KeepsR q w (execStructSelWrite v s) := by
  unfold execStructSelWrite
  try dsimp only
  repeat' first
    | with_reducible assumption
    | intro _
    | with_reducible apply setF_keeps
    | with_reducible apply Keeps.ite
    | with_reducible apply Keeps.foldl
    | with_reducible apply KeepsR.next
    | with_reducible apply KeepsR.ite
    | split
    | with_reducible apply Keeps.upd

theorem execStructDataWrite_keeps (v : W32) {s : State} (hs : Keeps q w s) : KeepsR q w (execStructDataWrite v s) := by
  unfold execStructDataWrite
  try dsimp only
  repeat' first
    | with_reducible assumption
    | intro _
    | with_reducible apply structSequence_keeps
    | with_reducible apply Keeps.ite
    | with_reducible apply Keeps.foldl
    | with_reducible apply KeepsR.next
    | with_reducible apply KeepsR.ite
    | split
    | with_reducible apply Keeps.upd

theorem execStructCommit_keeps (key : BitVec 16) {s : State} (hs : Keeps q w s) : KeepsR q w (execStructCommit key s) := by
  unfold execStructCommit
  try dsimp only
  repeat' first
    | with_reducible assumption
    | intro _
    | with_reducible apply structKeyed_keeps
    | with_reducible apply structSequence_keeps
    | with_reducible apply clearStructError_keeps
    | with_reducible apply setF_keeps
    | with_reducible apply Keeps.ite
    | with_reducible apply Keeps.foldl
    | with_reducible apply KeepsR.next
    | with_reducible apply KeepsR.ite
    | split

theorem settle_keeps {s : State} (hs : Keeps q w s) : Keeps q w (settle s) := by
  unfold settle
  try dsimp only
  repeat' first
    | with_reducible assumption
    | intro _
    | with_reducible apply Keeps.ite
    | with_reducible apply Keeps.foldl
    | split
    | with_reducible apply Keeps.upd

theorem execStructDrain_keeps (v : W32) {s : State} (hs : Keeps q w s) : KeepsR q w (execStructDrain v s) := by
  unfold execStructDrain
  try dsimp only
  repeat' first
    | with_reducible assumption
    | intro _
    | with_reducible apply structError_keeps
    | with_reducible apply raiseDisp_keeps
    | with_reducible apply setF_keeps
    | with_reducible apply Keeps.ite
    | with_reducible apply Keeps.foldl
    | with_reducible apply KeepsR.next
    | with_reducible apply KeepsR.ite
    | split
    | with_reducible apply Keeps.upd

theorem drainDone_keeps {s : State} (hs : Keeps q w s) : Keeps q w (drainDone s) := by
  unfold drainDone
  try dsimp only
  repeat' first
    | with_reducible assumption
    | intro _
    | with_reducible apply setF_keeps
    | with_reducible apply Keeps.ite
    | with_reducible apply Keeps.foldl
    | split
    | with_reducible apply Keeps.upd

theorem execDrainDone_keeps {s : State} (hs : Keeps q w s) : KeepsR q w (execDrainDone s) := by
  unfold execDrainDone
  try dsimp only
  repeat' first
    | with_reducible assumption
    | intro _
    | with_reducible apply drainDone_keeps
    | with_reducible apply Keeps.ite
    | with_reducible apply Keeps.foldl
    | with_reducible apply KeepsR.next
    | with_reducible apply KeepsR.ite
    | split

theorem updTag_keeps {s : State} (tag : Nat) (f : TagEntry → TagEntry) (hs : Keeps q w s) : Keeps q w (updTag s tag f) := by
  unfold updTag
  try dsimp only
  repeat' first
    | with_reducible assumption
    | intro _
    | with_reducible apply Keeps.ite
    | with_reducible apply Keeps.foldl
    | split
    | with_reducible apply Keeps.upd

theorem restartRoute_keeps {s : State} (p : Part) (tag : Nat) (unit : Nat) (tile : Nat) (hs : Keeps q w s) : Keeps q w (restartRoute s p tag unit tile) := by
  unfold restartRoute
  try dsimp only
  repeat' first
    | with_reducible assumption
    | intro _
    | with_reducible apply updTag_keeps
    | with_reducible apply settle_keeps
    | with_reducible apply Keeps.ite
    | with_reducible apply Keeps.foldl
    | split
    | with_reducible apply Keeps.upd

theorem restartCore_keeps {s : State} (tag : Nat) (core : Nat) (hs : Keeps q w s) : Keeps q w (restartCore s tag core) := by
  unfold restartCore
  try dsimp only
  repeat' first
    | with_reducible assumption
    | intro _
    | with_reducible apply updTag_keeps
    | with_reducible apply Keeps.ite
    | with_reducible apply Keeps.foldl
    | split
    | with_reducible apply Keeps.upd

theorem execDrainTimeout_keeps (tag : Nat) (unit : Nat) (tile : Nat) {s : State} (hs : Keeps q w s) : KeepsR q w (execDrainTimeout tag unit tile s) := by
  unfold execDrainTimeout
  try dsimp only
  repeat' first
    | with_reducible assumption
    | intro _
    | with_reducible apply restartCore_keeps
    | with_reducible apply restartRoute_keeps
    | with_reducible apply drainDone_keeps
    | with_reducible apply setF_keeps
    | with_reducible apply Keeps.ite
    | with_reducible apply Keeps.foldl
    | with_reducible apply KeepsR.next
    | with_reducible apply KeepsR.ite
    | split

theorem applyAmend_keeps {s : State} (hs : Keeps q w s) : Keeps q w (applyAmend s) := by
  unfold applyAmend
  try dsimp only
  repeat' first
    | with_reducible assumption
    | intro _
    | with_reducible apply setUnit_keeps
    | with_reducible apply setF_keeps
    | with_reducible apply Keeps.ite
    | with_reducible apply Keeps.foldl
    | split

end Sys2Proof.Machine
end

