-- ==== Sys2Proof/Laws/KeepsQm.lean ====
section
/-!
SUPPORT. Laws/KeepsQm.lean: what the operations of Qm.lean keep.
-/
namespace Sys2Proof.Machine

variable {q : List Instr} {w : FuseBits}

theorem updPair_keeps {s : State} (fn : Nat) (qid : Nat) (f : QueuePair → QueuePair) (hs : Keeps q w s) : Keeps q w (updPair s fn qid f) := by
  unfold updPair
  try dsimp only
  repeat' first
    | with_reducible assumption
    | intro _
    | with_reducible apply Keeps.ite
    | with_reducible apply Keeps.foldl
    | split
    | with_reducible apply Keeps.upd

theorem putMsix_keeps {s : State} (fn : Nat) (i : Nat) (v : Nat) (hs : Keeps q w s) : Keeps q w (putMsix s fn i v) := by
  unfold putMsix
  try dsimp only
  repeat' first
    | with_reducible assumption
    | intro _
    | with_reducible apply Keeps.ite
    | with_reducible apply Keeps.foldl
    | split
    | with_reducible apply Keeps.upd

theorem signal_keeps {s : State} (fn : Nat) (vec : Nat) (hs : Keeps q w s) : Keeps q w (signal s fn vec) := by
  unfold signal
  try dsimp only
  repeat' first
    | with_reducible assumption
    | intro _
    | with_reducible apply Keeps.ite
    | with_reducible apply Keeps.foldl
    | split
    | with_reducible apply Keeps.upd

theorem flushPending_keeps {s : State} (fn : Nat) (hs : Keeps q w s) : Keeps q w (flushPending s fn) := by
  unfold flushPending
  try dsimp only
  repeat' first
    | with_reducible assumption
    | intro _
    | with_reducible apply Keeps.ite
    | with_reducible apply Keeps.foldl
    | split
    | with_reducible apply Keeps.upd

theorem signalAll_keeps {s : State} (hs : Keeps q w s) : Keeps q w (signalAll s) := by
  unfold signalAll
  try dsimp only
  repeat' first
    | with_reducible assumption
    | intro _
    | with_reducible apply signal_keeps
    | with_reducible apply Keeps.ite
    | with_reducible apply Keeps.foldl
    | split

theorem qmRefresh_keeps {s : State} (fn : Nat) (hs : Keeps q w s) : Keeps q w (qmRefresh s fn) := by
  unfold qmRefresh
  try dsimp only
  repeat' first
    | with_reducible assumption
    | intro _
    | with_reducible apply setB_keeps
    | with_reducible apply setF_keeps
    | with_reducible apply Keeps.ite
    | with_reducible apply Keeps.foldl
    | split

theorem freeTag_keeps {s : State} (t : TagEntry) (hs : Keeps q w s) : Keeps q w (freeTag s t) := by
  unfold freeTag
  try dsimp only
  repeat' first
    | with_reducible assumption
    | intro _
    | with_reducible apply qmRefresh_keeps
    | with_reducible apply Keeps.ite
    | with_reducible apply Keeps.foldl
    | split
    | with_reducible apply Keeps.upd

theorem setWindow_keeps {s : State} (d : Nat) (w_ : List WinEntry) (hs : Keeps q w s) : Keeps q w (setWindow s d w_) := by
  unfold setWindow
  try dsimp only
  repeat' first
    | with_reducible assumption
    | intro _
    | with_reducible apply Keeps.ite
    | with_reducible apply Keeps.foldl
    | split
    | with_reducible apply Keeps.upd

theorem winAdd_keeps {s : State} (d : Nat) (e : WinEntry) (hs : Keeps q w s) : Keeps q w (winAdd s d e) := by
  unfold winAdd
  try dsimp only
  repeat' first
    | with_reducible assumption
    | intro _
    | with_reducible apply setWindow_keeps
    | with_reducible apply Keeps.ite
    | with_reducible apply Keeps.foldl
    | split

theorem winRemove_keeps {s : State} (d : Nat) (req : Nat) (hs : Keeps q w s) : Keeps q w (winRemove s d req) := by
  unfold winRemove
  try dsimp only
  repeat' first
    | with_reducible assumption
    | intro _
    | with_reducible apply setWindow_keeps
    | with_reducible apply Keeps.ite
    | with_reducible apply Keeps.foldl
    | split

theorem winDone_keeps {s : State} (d : Nat) (req : Nat) (o : Outcome) (hs : Keeps q w s) : Keeps q w (winDone s d req o) := by
  unfold winDone
  try dsimp only
  repeat' first
    | with_reducible assumption
    | intro _
    | with_reducible apply setWindow_keeps
    | with_reducible apply Keeps.ite
    | with_reducible apply Keeps.foldl
    | split
    | with_reducible apply Keeps.upd

theorem failTag_keeps {s : State} (t : TagEntry) (o : Outcome) (hs : Keeps q w s) : Keeps q w (failTag s t o) := by
  unfold failTag
  try dsimp only
  repeat' first
    | with_reducible assumption
    | intro _
    | with_reducible apply winRemove_keeps
    | with_reducible apply updTag_keeps
    | with_reducible apply Keeps.ite
    | with_reducible apply Keeps.foldl
    | split
    | with_reducible apply Keeps.upd

theorem cutSafe_keeps {s : State} (t : TagEntry) (hs : Keeps q w s) : Keeps q w (cutSafe s t) := by
  unfold cutSafe
  try dsimp only
  repeat' first
    | with_reducible assumption
    | intro _
    | with_reducible apply winRemove_keeps
    | with_reducible apply updTag_keeps
    | with_reducible apply Keeps.ite
    | with_reducible apply Keeps.foldl
    | split
    | with_reducible apply Keeps.upd

theorem startTag_keeps {s : State} (t : TagEntry) (r : RouteAt) (o : Outcome) (e : Effect) (hs : Keeps q w s) : Keeps q w (startTag s t r o e) := by
  unfold startTag
  try dsimp only
  repeat' first
    | with_reducible assumption
    | intro _
    | with_reducible apply updTag_keeps
    | with_reducible apply Keeps.ite
    | with_reducible apply Keeps.foldl
    | split
    | with_reducible apply Keeps.upd

theorem releaseKey_keeps {s : State} (tag : Nat) (h_ : Nat) (hs : Keeps q w s) : Keeps q w (releaseKey s tag h_) := by
  unfold releaseKey
  try dsimp only
  repeat' first
    | with_reducible assumption
    | intro _
    | with_reducible apply updTag_keeps
    | with_reducible apply Keeps.ite
    | with_reducible apply Keeps.foldl
    | split
    | with_reducible apply Keeps.upd

theorem safeQueues_keeps {s : State} (hs : Keeps q w s) : Keeps q w (safeQueues s) := by
  unfold safeQueues
  try dsimp only
  repeat' first
    | with_reducible assumption
    | intro _
    | with_reducible apply failTag_keeps
    | with_reducible apply Keeps.ite
    | with_reducible apply Keeps.foldl
    | split

theorem cutRoutes_keeps {s : State} (p : TagEntry → Bool) (hs : Keeps q w s) : Keeps q w (cutRoutes s p) := by
  unfold cutRoutes
  try dsimp only
  repeat' first
    | with_reducible assumption
    | intro _
    | with_reducible apply cutSafe_keeps
    | with_reducible apply settle_keeps
    | with_reducible apply Keeps.ite
    | with_reducible apply Keeps.foldl
    | split

theorem decideDups_keeps {s : State} (d : Nat) (req : Nat) (hs : Keeps q w s) : Keeps q w (decideDups s d req) := by
  unfold decideDups
  try dsimp only
  repeat' first
    | with_reducible assumption
    | intro _
    | with_reducible apply Keeps.ite
    | with_reducible apply Keeps.foldl
    | split
    | with_reducible apply Keeps.upd

theorem dropFunction_keeps {s : State} (fn : Nat) (hs : Keeps q w s) : Keeps q w (dropFunction s fn) := by
  unfold dropFunction
  try dsimp only
  repeat' first
    | with_reducible assumption
    | intro _
    | with_reducible apply decideDups_keeps
    | with_reducible apply winRemove_keeps
    | with_reducible apply qmRefresh_keeps
    | with_reducible apply Keeps.ite
    | with_reducible apply Keeps.foldl
    | split
    | with_reducible apply Keeps.upd

theorem resetBar0_keeps {s : State} (fn : Nat) (hs : Keeps q w s) : Keeps q w (resetBar0 s fn) := by
  unfold resetBar0
  try dsimp only
  repeat' first
    | with_reducible assumption
    | intro _
    | with_reducible apply resetRegs_keeps
    | with_reducible apply setF_keeps
    | with_reducible apply Keeps.ite
    | with_reducible apply Keeps.foldl
    | split
    | with_reducible apply Keeps.upd

theorem mirrorSafe_keeps {s : State} (fn : Nat) (hs : Keeps q w s) : Keeps q w (mirrorSafe s fn) := by
  unfold mirrorSafe
  try dsimp only
  repeat' first
    | with_reducible assumption
    | intro _
    | with_reducible apply setB_keeps
    | with_reducible apply Keeps.ite
    | with_reducible apply Keeps.foldl
    | split

theorem flr_keeps {s : State} (fn : Nat) (hs : Keeps q w s) : Keeps q w (flr s fn) := by
  unfold flr
  try dsimp only
  repeat' first
    | with_reducible assumption
    | intro _
    | with_reducible apply mirrorSafe_keeps
    | with_reducible apply resetBar0_keeps
    | with_reducible apply dropFunction_keeps
    | with_reducible apply qmRefresh_keeps
    | with_reducible apply Keeps.ite
    | with_reducible apply Keeps.foldl
    | split

theorem funcError_keeps {s : State} (fn : Nat) (hs : Keeps q w s) : Keeps q w (funcError s fn) := by
  unfold funcError
  try dsimp only
  repeat' first
    | with_reducible assumption
    | intro _
    | with_reducible apply signal_keeps
    | with_reducible apply setF_keeps
    | with_reducible apply Keeps.ite
    | with_reducible apply Keeps.foldl
    | split
    | with_reducible apply Keeps.upd

theorem dropAllFunctions_keeps {s : State} (hs : Keeps q w s) : Keeps q w (dropAllFunctions s) := by
  unfold dropAllFunctions
  try dsimp only
  repeat' first
    | with_reducible assumption
    | intro _
    | with_reducible apply flr_keeps
    | with_reducible apply Keeps.ite
    | with_reducible apply Keeps.foldl
    | split

end Sys2Proof.Machine
end

