-- ==== Sys2Proof/Laws/KeepsRngCore.lean ====
section
/-!
SUPPORT. Laws/KeepsRngCore.lean: what the operations of RngCore.lean keep.
-/
namespace Sys2Proof.Machine

variable {q : List Instr} {w : FuseBits}

theorem setSrc_keeps {s : State} (n : Nat) (v : Nat) (hs : Keeps q w s) : Keeps q w (setSrc s n v) := by
  unfold setSrc
  try dsimp only
  repeat' first
    | with_reducible assumption
    | intro _
    | with_reducible apply setF_keeps
    | with_reducible apply Keeps.ite
    | with_reducible apply Keeps.foldl
    | split

theorem condBlock_keeps {s : State} (hs : Keeps q w s) : KeepsP q w (condBlock s) := by
  unfold condBlock
  try dsimp only
  repeat' first
    | with_reducible assumption
    | intro _
    | refine Keeps.eqP (by with_reducible assumption) ?_
    | with_reducible apply drawBytes_keeps
    | with_reducible apply Keeps.ite
    | with_reducible apply Keeps.foldl
    | with_reducible apply KeepsP.ite
    | with_reducible apply KeepsP.foldl
    | split
    | with_reducible apply Keeps.snd
    | with_reducible apply KeepsP.pair
    | with_reducible apply Keeps.upd

theorem setInst_keeps {s : State} (i : Nat) (x : RngInst) (hs : Keeps q w s) : Keeps q w (setInst s i x) := by
  unfold setInst
  try dsimp only
  repeat' first
    | with_reducible assumption
    | intro _
    | with_reducible apply Keeps.ite
    | with_reducible apply Keeps.foldl
    | split
    | with_reducible apply Keeps.upd

theorem setStalled_keeps {s : State} (i : Nat) (b : Bool) (hs : Keeps q w s) : Keeps q w (setStalled s i b) := by
  unfold setStalled
  try dsimp only
  repeat' first
    | with_reducible assumption
    | intro _
    | with_reducible apply setF_keeps
    | with_reducible apply Keeps.ite
    | with_reducible apply Keeps.foldl
    | split

theorem setStretch_keeps {s : State} (i : Nat) (b : Bool) (hs : Keeps q w s) : Keeps q w (setStretch s i b) := by
  unfold setStretch
  try dsimp only
  repeat' first
    | with_reducible assumption
    | intro _
    | with_reducible apply setF_keeps
    | with_reducible apply Keeps.ite
    | with_reducible apply Keeps.foldl
    | split

theorem drbgRequest_keeps {s : State} (i : Nat) (hs : Keeps q w s) : Keeps q w (drbgRequest s i) := by
  unfold drbgRequest
  try dsimp only
  repeat' first
    | with_reducible assumption
    | intro _
    | with_reducible apply setStretch_keeps
    | with_reducible apply setStalled_keeps
    | with_reducible apply setInst_keeps
    | with_reducible apply Keeps.ite
    | with_reducible apply Keeps.foldl
    | split
    | with_reducible apply Keeps.upd

theorem drbgBytes_keeps {s : State} (i : Nat) (n : Nat) (hs : Keeps q w s) : KeepsP q w (drbgBytes s i n) := by
  unfold drbgBytes
  try dsimp only
  repeat' first
    | with_reducible assumption
    | intro _
    | refine Keeps.eqP (by with_reducible assumption) ?_
    | with_reducible apply drbgRequest_keeps
    | with_reducible apply setInst_keeps
    | with_reducible apply drawBytes_keeps
    | with_reducible apply Keeps.ite
    | with_reducible apply Keeps.foldl
    | with_reducible apply KeepsP.ite
    | with_reducible apply KeepsP.foldl
    | split
    | with_reducible apply Keeps.snd
    | with_reducible apply KeepsP.pair
    | with_reducible apply Keeps.upd

theorem drbgBits_keeps {s : State} (i : Nat) (w_ : Nat) (hs : Keeps q w s) : KeepsP q w (drbgBits s i w_) := by
  unfold drbgBits
  try dsimp only
  repeat' first
    | with_reducible assumption
    | intro _
    | refine Keeps.eqP (by with_reducible assumption) ?_
    | with_reducible apply drbgBytes_keeps
    | with_reducible apply Keeps.ite
    | with_reducible apply Keeps.foldl
    | with_reducible apply KeepsP.ite
    | with_reducible apply KeepsP.foldl
    | split
    | with_reducible apply Keeps.snd
    | with_reducible apply KeepsP.pair

theorem drbgOutput_keeps {s : State} (i : Nat) (n : Nat) (hs : Keeps q w s) : KeepsP q w (drbgOutput s i n) := by
  unfold drbgOutput
  try dsimp only
  repeat' first
    | with_reducible assumption
    | intro _
    | refine Keeps.eqP (by with_reducible assumption) ?_
    | with_reducible apply drbgBytes_keeps
    | with_reducible apply Keeps.ite
    | with_reducible apply Keeps.foldl
    | with_reducible apply KeepsP.ite
    | with_reducible apply KeepsP.foldl
    | split
    | with_reducible apply Keeps.snd
    | with_reducible apply KeepsP.pair

theorem seeded_keeps {s : State} (i : Nat) (k : Bytes × W128) (hs : Keeps q w s) : Keeps q w (seeded s i k) := by
  unfold seeded
  try dsimp only
  repeat' first
    | with_reducible assumption
    | intro _
    | with_reducible apply setStretch_keeps
    | with_reducible apply setStalled_keeps
    | with_reducible apply setInst_keeps
    | with_reducible apply bump_keeps
    | with_reducible apply Keeps.ite
    | with_reducible apply Keeps.foldl
    | split

theorem seedNew_keeps {s : State} (i : Nat) (block : BitVec 384) (hs : Keeps q w s) : Keeps q w (seedNew s i block) := by
  unfold seedNew
  try dsimp only
  repeat' first
    | with_reducible assumption
    | intro _
    | with_reducible apply seeded_keeps
    | with_reducible apply Keeps.ite
    | with_reducible apply Keeps.foldl
    | split
    | with_reducible apply Keeps.upd

theorem seedInst_keeps {s : State} (i : Nat) (block : BitVec 384) (hs : Keeps q w s) : Keeps q w (seedInst s i block) := by
  unfold seedInst
  try dsimp only
  repeat' first
    | with_reducible assumption
    | intro _
    | with_reducible apply seedNew_keeps
    | with_reducible apply seeded_keeps
    | with_reducible apply Keeps.ite
    | with_reducible apply Keeps.foldl
    | split

theorem instantiate_keeps {s : State} (i : Nat) (hs : Keeps q w s) : Keeps q w (instantiate s i) := by
  unfold instantiate
  try dsimp only
  repeat' first
    | with_reducible assumption
    | intro _
    | refine Keeps.eqP (by with_reducible assumption) ?_
    | with_reducible apply seedNew_keeps
    | with_reducible apply condBlock_keeps
    | with_reducible apply Keeps.ite
    | with_reducible apply Keeps.foldl
    | with_reducible apply KeepsP.ite
    | with_reducible apply KeepsP.foldl
    | split
    | with_reducible apply Keeps.snd
    | with_reducible apply KeepsP.pair
    | with_reducible apply Keeps.upd

theorem endInsts_keeps {s : State} (p : Nat → Bool) (hs : Keeps q w s) : Keeps q w (endInsts s p) := by
  unfold endInsts
  try dsimp only
  repeat' first
    | with_reducible assumption
    | intro _
    | with_reducible apply setStretch_keeps
    | with_reducible apply setStalled_keeps
    | with_reducible apply Keeps.ite
    | with_reducible apply Keeps.foldl
    | split
    | with_reducible apply Keeps.upd

theorem rekeyMask_keeps {s : State} (cluster : Nat) (tile : Nat) (hs : Keeps q w s) : Keeps q w (rekeyMask s cluster tile) := by
  unfold rekeyMask
  try dsimp only
  repeat' first
    | with_reducible assumption
    | intro _
    | refine Keeps.eqP (by with_reducible assumption) ?_
    | with_reducible apply drbgBytes_keeps
    | with_reducible apply Keeps.ite
    | with_reducible apply Keeps.foldl
    | with_reducible apply KeepsP.ite
    | with_reducible apply KeepsP.foldl
    | split
    | with_reducible apply Keeps.snd
    | with_reducible apply KeepsP.pair
    | with_reducible apply Keeps.upd

theorem prefetchBits_keeps {s : State} (cluster : Nat) (tile : Nat) (n : Nat) (hs : Keeps q w s) : KeepsP q w (prefetchBits s cluster tile n) := by
  unfold prefetchBits
  try dsimp only
  repeat' first
    | with_reducible assumption
    | intro _
    | refine Keeps.eqP (by with_reducible assumption) ?_
    | with_reducible apply drbgBytes_keeps
    | with_reducible apply Keeps.ite
    | with_reducible apply Keeps.foldl
    | with_reducible apply KeepsP.ite
    | with_reducible apply KeepsP.foldl
    | split
    | with_reducible apply Keeps.snd
    | with_reducible apply KeepsP.pair
    | with_reducible apply Keeps.upd

end Sys2Proof.Machine
end

