-- ==== Sys2Proof/Laws/KeepsTestCore.lean ====
section
/-!
SUPPORT. Laws/KeepsTestCore.lean: what the operations of TestCore.lean keep.
-/
namespace Sys2Proof.Machine

variable {q : List Instr} {w : FuseBits}

theorem testCounts_keeps {s : State} (land : Bool) (bits : W64) (errs : Nat) (hs : Keeps q w s) : Keeps q w (testCounts s land bits errs) := by
  unfold testCounts
  try dsimp only
  repeat' first
    | with_reducible assumption
    | intro _
    | with_reducible apply clearCounter_keeps
    | with_reducible apply bumpBy_keeps
    | with_reducible apply setF_keeps
    | with_reducible apply Keeps.ite
    | with_reducible apply Keeps.foldl
    | split

theorem testDone_keeps {s : State} (land : Bool) (err : Nat) (hs : Keeps q w s) : Keeps q w (testDone s land err) := by
  unfold testDone
  try dsimp only
  repeat' first
    | with_reducible assumption
    | intro _
    | with_reducible apply raise_keeps
    | with_reducible apply setF_keeps
    | with_reducible apply Keeps.ite
    | with_reducible apply Keeps.foldl
    | split

theorem testEnds_keeps {s : State} (t : TestRun) (err : Nat) (hs : Keeps q w s) : Keeps q w (testEnds s t err) := by
  unfold testEnds
  try dsimp only
  repeat' first
    | with_reducible assumption
    | intro _
    | with_reducible apply testDone_keeps
    | with_reducible apply setF_keeps
    | with_reducible apply Keeps.ite
    | with_reducible apply Keeps.foldl
    | split
    | with_reducible apply Keeps.upd

theorem endPattern_keeps {s : State} (p : TestRun → Bool) (hs : Keeps q w s) : Keeps q w (endPattern s p) := by
  unfold endPattern
  try dsimp only
  repeat' first
    | with_reducible assumption
    | intro _
    | refine Keeps.eqP (by with_reducible assumption) ?_
    | with_reducible apply testEnds_keeps
    | with_reducible apply testCounts_keeps
    | with_reducible apply draw_keeps
    | with_reducible apply Keeps.ite
    | with_reducible apply Keeps.foldl
    | with_reducible apply KeepsP.ite
    | with_reducible apply KeepsP.foldl
    | split
    | with_reducible apply Keeps.snd
    | with_reducible apply KeepsP.pair

end Sys2Proof.Machine
end

