-- ==== Sys2Proof/Laws/KeepsZero.lean ====
section
/-!
SUPPORT. Laws/KeepsZero.lean: what the operations of Zero.lean keep.
-/
namespace Sys2Proof.Machine

variable {q : List Instr} {w : FuseBits}

theorem hbmLost_keeps {s : State} (hs : Keeps q w s) : Keeps q w (hbmLost s) := by
  unfold hbmLost
  try dsimp only
  repeat' first
    | with_reducible assumption
    | intro _
    | with_reducible apply Keeps.ite
    | with_reducible apply Keeps.foldl
    | split
    | refine Keeps.updMem ?_ (Memory.wf_mk ?_ ?_ ?_ ?_)
    | with_reducible apply cellsWf_filter
    | with_reducible apply cellsWf_writes
    | with_reducible apply cellsWf_foldl
    | with_reducible apply Keeps.cellsG q w
    | with_reducible apply Keeps.cellsI q w
    | with_reducible apply Keeps.cellsD q w
    | with_reducible apply Keeps.cellsH q w
    | exact cellsWf_nil _
    | with_reducible apply Keeps.upd

theorem endSwaps_keeps {s : State} (hs : Keeps q w s) : Keeps q w (endSwaps s) := by
  unfold endSwaps
  try dsimp only
  repeat' first
    | with_reducible assumption
    | intro _
    | with_reducible apply setF_keeps
    | with_reducible apply Keeps.ite
    | with_reducible apply Keeps.foldl
    | split
    | with_reducible apply Keeps.upd

theorem zeroCuts_keeps {s : State} (hs : Keeps q w s) : Keeps q w (zeroCuts s) := by
  unfold zeroCuts
  try dsimp only
  repeat' first
    | with_reducible assumption
    | intro _
    | refine Keeps.eqP (by with_reducible assumption) ?_
    | with_reducible apply cutSafe_keeps
    | with_reducible apply settle_keeps
    | with_reducible apply draw_keeps
    | with_reducible apply Keeps.ite
    | with_reducible apply Keeps.foldl
    | with_reducible apply KeepsP.ite
    | with_reducible apply KeepsP.foldl
    | split
    | with_reducible apply Keeps.snd
    | with_reducible apply KeepsP.pair

theorem zeroLandau_keeps {s : State} (hs : Keeps q w s) : Keeps q w (zeroLandau s) := by
  unfold zeroLandau
  try dsimp only
  repeat' first
    | with_reducible assumption
    | intro _
    | with_reducible apply zeroCuts_keeps
    | with_reducible apply endSwaps_keeps
    | with_reducible apply hbmLost_keeps
    | with_reducible apply setF_keeps
    | with_reducible apply Keeps.ite
    | with_reducible apply Keeps.foldl
    | split
    | with_reducible apply Keeps.upd

theorem clearSciphSlots_keeps {s : State} (p : Nat → Bool) (hs : Keeps q w s) : Keeps q w (clearSciphSlots s p) := by
  unfold clearSciphSlots
  try dsimp only
  repeat' first
    | with_reducible assumption
    | intro _
    | with_reducible apply setF_keeps
    | with_reducible apply Keeps.ite
    | with_reducible apply Keeps.foldl
    | split
    | with_reducible apply Keeps.upd

theorem zeroRng_keeps {s : State} (hs : Keeps q w s) : Keeps q w (zeroRng s) := by
  unfold zeroRng
  try dsimp only
  repeat' first
    | with_reducible assumption
    | intro _
    | with_reducible apply endInsts_keeps
    | with_reducible apply instantiate_keeps
    | with_reducible apply Keeps.ite
    | with_reducible apply Keeps.foldl
    | split
    | with_reducible apply Keeps.upd

theorem zeroiseWorking_keeps {s : State} (hs : Keeps q w s) : Keeps q w (zeroiseWorking s) := by
  unfold zeroiseWorking
  try dsimp only
  repeat' first
    | with_reducible assumption
    | intro _
    | with_reducible apply zeroRng_keeps
    | with_reducible apply clearSciphSlots_keeps
    | with_reducible apply zeroLandau_keeps
    | with_reducible apply Keeps.ite
    | with_reducible apply Keeps.foldl
    | split

theorem zeroKeys_keeps {s : State} (hs : Keeps q w s) : Keeps q w (zeroKeys s) := by
  unfold zeroKeys
  try dsimp only
  repeat' first
    | with_reducible assumption
    | intro _
    | with_reducible apply clearSciphSlots_keeps
    | with_reducible apply setF_keeps
    | with_reducible apply Keeps.ite
    | with_reducible apply Keeps.foldl
    | split
    | with_reducible apply Keeps.upd

theorem eraseRange_keeps {s : State} (k : Nat) (hs : Keeps q w s) : Keeps q w (eraseRange s k) := by
  unfold eraseRange
  try dsimp only
  repeat' first
    | with_reducible assumption
    | intro _
    | with_reducible apply Keeps.ite
    | with_reducible apply Keeps.foldl
    | split
    | with_reducible apply Keeps.upd

theorem eraseZSectors_keeps {s : State} (k : Nat) (hs : Keeps q w s) : Keeps q w (eraseZSectors s k) := by
  unfold eraseZSectors
  try dsimp only
  repeat' first
    | with_reducible assumption
    | intro _
    | with_reducible apply noteDone_keeps
    | with_reducible apply noteIntent_keeps
    | with_reducible apply closeIntents_keeps
    | with_reducible apply eraseFlash_keeps
    | with_reducible apply Keeps.ite
    | with_reducible apply Keeps.foldl
    | split

theorem eraseRanges_keeps {s : State} (hs : Keeps q w s) : Keeps q w (eraseRanges s) := by
  unfold eraseRanges
  try dsimp only
  repeat' first
    | with_reducible assumption
    | intro _
    | with_reducible apply eraseZSectors_keeps
    | with_reducible apply eraseRange_keeps
    | with_reducible apply Keeps.ite
    | with_reducible apply Keeps.foldl
    | split

theorem abortFlash_keeps {s : State} (hs : Keeps q w s) : Keeps q w (abortFlash s) := by
  unfold abortFlash
  try dsimp only
  repeat' first
    | with_reducible assumption
    | intro _
    | with_reducible apply abandonFlash_keeps
    | with_reducible apply setF_keeps
    | with_reducible apply Keeps.ite
    | with_reducible apply Keeps.foldl
    | split

theorem zeroiseAllStart_keeps {s : State} (hs : Keeps q w s) : Keeps q w (zeroiseAllStart s) := by
  unfold zeroiseAllStart
  try dsimp only
  repeat' first
    | with_reducible assumption
    | intro _
    | with_reducible apply abortFlash_keeps
    | with_reducible apply zeroKeys_keeps
    | with_reducible apply zeroiseWorking_keeps
    | with_reducible apply setF_keeps
    | with_reducible apply Keeps.ite
    | with_reducible apply Keeps.foldl
    | split

theorem zeroiseAllEnd_keeps {s : State} (hs : Keeps q w s) : Keeps q w (zeroiseAllEnd s) := by
  unfold zeroiseAllEnd
  try dsimp only
  repeat' first
    | with_reducible assumption
    | intro _
    | with_reducible apply eraseRanges_keeps
    | with_reducible apply setF_keeps
    | with_reducible apply Keeps.ite
    | with_reducible apply Keeps.foldl
    | split

end Sys2Proof.Machine
end

