-- ==== Sys2Proof/Laws/KeepsResets.lean ====
section
/-!
SUPPORT. Laws/KeepsResets.lean: what the operations of Resets.lean keep.
-/
namespace Sys2Proof.Machine

variable {q : List Instr} {w : FuseBits}

theorem resetLandauRegs_keeps {s : State} (hs : Keeps q w s) : Keeps q w (resetLandauRegs s) := by
  unfold resetLandauRegs
  try dsimp only
  repeat' first
    | with_reducible assumption
    | intro _
    | with_reducible apply resetRegs_keeps
    | with_reducible apply Keeps.ite
    | with_reducible apply Keeps.foldl
    | split

theorem railsOff_keeps {s : State} (hs : Keeps q w s) : Keeps q w (railsOff s) := by
  unfold railsOff
  try dsimp only
  repeat' first
    | with_reducible assumption
    | intro _
    | with_reducible apply Keeps.ite
    | with_reducible apply Keeps.foldl
    | split
    | with_reducible apply Keeps.upd

theorem landauDomainsOff_keeps {s : State} (hs : Keeps q w s) : Keeps q w (landauDomainsOff s) := by
  unfold landauDomainsOff
  try dsimp only
  repeat' first
    | with_reducible assumption
    | intro _
    | with_reducible apply resetRegs_keeps
    | with_reducible apply setF_keeps
    | with_reducible apply Keeps.ite
    | with_reducible apply Keeps.foldl
    | split
    | with_reducible apply Keeps.upd

theorem closeOpenWorld_keeps {s : State} (hs : Keeps q w s) : Keeps q w (closeOpenWorld s) := by
  unfold closeOpenWorld
  try dsimp only
  repeat' first
    | with_reducible assumption
    | intro _
    | with_reducible apply setF_keeps
    | with_reducible apply Keeps.ite
    | with_reducible apply Keeps.foldl
    | split

theorem resetLandau_keeps {s : State} (hs : Keeps q w s) : Keeps q w (resetLandau s) := by
  unfold resetLandau
  try dsimp only
  repeat' first
    | with_reducible assumption
    | intro _
    | with_reducible apply closeOpenWorld_keeps
    | with_reducible apply landauDomainsOff_keeps
    | with_reducible apply railsOff_keeps
    | with_reducible apply resetLandauRegs_keeps
    | with_reducible apply hbmLost_keeps
    | with_reducible apply endInsts_keeps
    | with_reducible apply Keeps.ite
    | with_reducible apply Keeps.foldl
    | split
    | refine Keeps.updMem ?_ (Memory.wf_mk ?_ ?_ ?_ ?_)
    | with_reducible apply cellsWf_filter
    | with_reducible apply cellsWf_writes
    | with_reducible apply cellsWf_foldl
    | with_reducible apply Keeps.cellsG q w
    | with_reducible apply Keeps.cellsI q w
    | with_reducible apply Keeps.cellsD q w
    | with_reducible apply Keeps.cellsH q w
    | exact cellsWf_nil _
    | with_reducible apply Keeps.upd

theorem cutProg_keeps {s : State} (hs : Keeps q w s) : Keeps q w (cutProg s) := by
  unfold cutProg
  try dsimp only
  repeat' first
    | with_reducible assumption
    | intro _
    | refine Keeps.eqP (by with_reducible assumption) ?_
    | with_reducible apply draw_keeps
    | with_reducible apply Keeps.ite
    | with_reducible apply Keeps.foldl
    | with_reducible apply KeepsP.ite
    | with_reducible apply KeepsP.foldl
    | split
    | with_reducible apply Keeps.snd
    | with_reducible apply KeepsP.pair
    | with_reducible apply Keeps.upd
    | with_reducible apply Keeps.updFuse
    | with_reducible apply Keeps.updBurn
    | with_reducible apply Keeps.updEvid

theorem resetGecko_keeps {s : State} (por : Bool) (hs : Keeps q w s) : Keeps q w (resetGecko s por) := by
  unfold resetGecko
  try dsimp only
  repeat' first
    | with_reducible assumption
    | intro _
    | with_reducible apply cutProg_keeps
    | with_reducible apply abandonFlash_keeps
    | with_reducible apply resetRegs_keeps
    | with_reducible apply Keeps.ite
    | with_reducible apply Keeps.foldl
    | split
    | refine Keeps.updMem ?_ (Memory.wf_mk ?_ ?_ ?_ ?_)
    | with_reducible apply cellsWf_filter
    | with_reducible apply cellsWf_writes
    | with_reducible apply cellsWf_foldl
    | with_reducible apply Keeps.cellsG q w
    | with_reducible apply Keeps.cellsI q w
    | with_reducible apply Keeps.cellsD q w
    | with_reducible apply Keeps.cellsH q w
    | exact cellsWf_nil _
    | with_reducible apply Keeps.upd

theorem showPins_keeps {s : State} (hs : Keeps q w s) : Keeps q w (showPins s) := by
  unfold showPins
  try dsimp only
  repeat' first
    | with_reducible assumption
    | intro _
    | with_reducible apply setB_keeps
    | with_reducible apply Keeps.ite
    | with_reducible apply Keeps.foldl
    | split

theorem noteCause_keeps {s : State} (f : Field) (hs : Keeps q w s) : Keeps q w (noteCause s f) := by
  unfold noteCause
  try dsimp only
  repeat' first
    | with_reducible assumption
    | intro _
    | with_reducible apply setF_keeps
    | with_reducible apply Keeps.ite
    | with_reducible apply Keeps.foldl
    | split
    | with_reducible apply Keeps.upd

theorem countBoot_keeps {s : State} (hs : Keeps q w s) : Keeps q w (countBoot s) := by
  unfold countBoot
  try dsimp only
  repeat' first
    | with_reducible assumption
    | intro _
    | with_reducible apply bump_keeps
    | with_reducible apply Keeps.ite
    | with_reducible apply Keeps.foldl
    | split

theorem deviceReset_keeps {s : State} (cause : Field) (hs : Keeps q w s) : Keeps q w (deviceReset s cause) := by
  unfold deviceReset
  try dsimp only
  repeat' first
    | with_reducible assumption
    | intro _
    | with_reducible apply countBoot_keeps
    | with_reducible apply noteCause_keeps
    | with_reducible apply showPins_keeps
    | with_reducible apply resetGecko_keeps
    | with_reducible apply resetLandau_keeps
    | with_reducible apply closeOpen_keeps
    | with_reducible apply evRefresh_keeps
    | with_reducible apply Keeps.ite
    | with_reducible apply Keeps.foldl
    | split
    | with_reducible apply Keeps.upd

theorem landauRebuild_keeps {s : State} (hs : Keeps q w s) : Keeps q w (landauRebuild s) := by
  unfold landauRebuild
  try dsimp only
  repeat' first
    | with_reducible assumption
    | intro _
    | with_reducible apply resetLandau_keeps
    | with_reducible apply endPattern_keeps
    | with_reducible apply closeOpen_keeps
    | with_reducible apply evRefresh_keeps
    | with_reducible apply setF_keeps
    | with_reducible apply Keeps.ite
    | with_reducible apply Keeps.foldl
    | split
    | with_reducible apply Keeps.upd

end Sys2Proof.Machine
end

