-- ==== Sys2Proof/Laws/KeepsFaultCore.lean ====
section
/-!
SUPPORT. Laws/KeepsFaultCore.lean: what the operations of FaultCore.lean keep.
-/
namespace Sys2Proof.Machine

variable {q : List Instr} {w : FuseBits}

theorem noteReport_keeps {s : State} (code : Nat) (unit : Nat) (part : Nat) (forced : Bool) (hs : Keeps q w s) : Keeps q w (noteReport s code unit part forced) := by
  unfold noteReport
  try dsimp only
  repeat' first
    | with_reducible assumption
    | intro _
    | with_reducible apply bump_keeps
    | with_reducible apply occurAt_keeps
    | with_reducible apply raise_keeps
    | with_reducible apply setB_keeps
    | with_reducible apply setF_keeps
    | with_reducible apply Keeps.ite
    | with_reducible apply Keeps.foldl
    | split

theorem showRetire_keeps {s : State} (hs : Keeps q w s) : Keeps q w (showRetire s) := by
  unfold showRetire
  try dsimp only
  repeat' first
    | with_reducible assumption
    | intro _
    | with_reducible apply raise_keeps
    | with_reducible apply setF_keeps
    | with_reducible apply Keeps.ite
    | with_reducible apply Keeps.foldl
    | split
    | with_reducible apply Keeps.upd

theorem requestRetire_keeps {s : State} (cls : Nat) (unit : Nat) (part : Nat) (reason : Nat) (hs : Keeps q w s) : Keeps q w (requestRetire s cls unit part reason) := by
  unfold requestRetire
  try dsimp only
  repeat' first
    | with_reducible assumption
    | intro _
    | with_reducible apply showRetire_keeps
    | with_reducible apply Keeps.ite
    | with_reducible apply Keeps.foldl
    | split
    | with_reducible apply Keeps.upd

theorem stopPart_keeps {s : State} (cls : Nat) (unit : Nat) (idx : Nat) (hs : Keeps q w s) : Keeps q w (stopPart s cls unit idx) := by
  unfold stopPart
  try dsimp only
  repeat' first
    | with_reducible assumption
    | intro _
    | with_reducible apply Keeps.ite
    | with_reducible apply Keeps.foldl
    | split
    | with_reducible apply Keeps.upd

theorem retireTile_keeps {s : State} (unit : Nat) (part : Nat) (reason : Nat) (hs : Keeps q w s) : Keeps q w (retireTile s unit part reason) := by
  unfold retireTile
  try dsimp only
  repeat' first
    | with_reducible assumption
    | intro _
    | with_reducible apply requestRetire_keeps
    | with_reducible apply Keeps.ite
    | with_reducible apply Keeps.foldl
    | split

theorem askSelftest_keeps {s : State} (unit : Nat) (part : Nat) (hs : Keeps q w s) : Keeps q w (askSelftest s unit part) := by
  unfold askSelftest
  try dsimp only
  repeat' first
    | with_reducible assumption
    | intro _
    | with_reducible apply showRetire_keeps
    | with_reducible apply Keeps.ite
    | with_reducible apply Keeps.foldl
    | split
    | with_reducible apply Keeps.upd

theorem scfDrop_keeps {s : State} (unit : Nat) (part : Nat) (hs : Keeps q w s) : Keeps q w (scfDrop s unit part) := by
  unfold scfDrop
  try dsimp only
  repeat' first
    | with_reducible assumption
    | intro _
    | with_reducible apply showRetire_keeps
    | with_reducible apply Keeps.ite
    | with_reducible apply Keeps.foldl
    | split
    | with_reducible apply Keeps.upd

theorem scfTested_keeps {s : State} (unit : Nat) (part : Nat) (pass : Bool) (hs : Keeps q w s) : Keeps q w (scfTested s unit part pass) := by
  unfold scfTested
  try dsimp only
  repeat' first
    | with_reducible assumption
    | intro _
    | with_reducible apply requestRetire_keeps
    | with_reducible apply showRetire_keeps
    | with_reducible apply Keeps.ite
    | with_reducible apply Keeps.foldl
    | split
    | with_reducible apply Keeps.upd

theorem dispStop_keeps {s : State} (group : Nat) (core : Nat) (hs : Keeps q w s) : Keeps q w (dispStop s group core) := by
  unfold dispStop
  try dsimp only
  repeat' first
    | with_reducible assumption
    | intro _
    | with_reducible apply stopPart_keeps
    | with_reducible apply requestRetire_keeps
    | with_reducible apply Keeps.ite
    | with_reducible apply Keeps.foldl
    | split
    | with_reducible apply Keeps.upd

theorem trackPc_keeps {s : State} (stack : Nat) (pc : Nat) (code : Nat) (hs : Keeps q w s) : Keeps q w (trackPc s stack pc code) := by
  unfold trackPc
  try dsimp only
  repeat' first
    | with_reducible assumption
    | intro _
    | with_reducible apply requestRetire_keeps
    | with_reducible apply Keeps.ite
    | with_reducible apply Keeps.foldl
    | split
    | with_reducible apply Keeps.upd

theorem trackRow_keeps {s : State} (stack : Nat) (row : Nat) (hs : Keeps q w s) : Keeps q w (trackRow s stack row) := by
  unfold trackRow
  try dsimp only
  repeat' first
    | with_reducible assumption
    | intro _
    | with_reducible apply Keeps.ite
    | with_reducible apply Keeps.foldl
    | split
    | with_reducible apply Keeps.upd

theorem fieldRepair_keeps {s : State} (cls : Nat) (unit : Nat) (idx : Nat) (hs : Keeps q w s) : Keeps q w (fieldRepair s cls unit idx) := by
  unfold fieldRepair
  try dsimp only
  repeat' first
    | with_reducible assumption
    | intro _
    | with_reducible apply Keeps.ite
    | with_reducible apply Keeps.foldl
    | split
    | with_reducible apply Keeps.upd

theorem kcRowRepair_keeps {s : State} (bank : Nat) (row : Nat) (hs : Keeps q w s) : Keeps q w (kcRowRepair s bank row) := by
  unfold kcRowRepair
  try dsimp only
  repeat' first
    | with_reducible assumption
    | intro _
    | with_reducible apply fieldRepair_keeps
    | with_reducible apply Keeps.ite
    | with_reducible apply Keeps.foldl
    | split
    | with_reducible apply Keeps.upd

theorem mirrorAll_keeps {s : State} (hs : Keeps q w s) : Keeps q w (mirrorAll s) := by
  unfold mirrorAll
  try dsimp only
  repeat' first
    | with_reducible assumption
    | intro _
    | with_reducible apply mirrorSafe_keeps
    | with_reducible apply Keeps.ite
    | with_reducible apply Keeps.foldl
    | split

theorem setSafe_keeps {s : State} (b : Bool) (hs : Keeps q w s) : Keeps q w (setSafe s b) := by
  unfold setSafe
  try dsimp only
  repeat' first
    | with_reducible assumption
    | intro _
    | with_reducible apply mirrorAll_keeps
    | with_reducible apply setB_keeps
    | with_reducible apply Keeps.ite
    | with_reducible apply Keeps.foldl
    | split

theorem enterSafe_keeps {s : State} (code : Nat) (kind : Nat) (hs : Keeps q w s) : Keeps q w (enterSafe s code kind) := by
  unfold enterSafe
  try dsimp only
  repeat' first
    | with_reducible assumption
    | intro _
    | with_reducible apply setSafe_keeps
    | with_reducible apply safeQueues_keeps
    | with_reducible apply signalAll_keeps
    | with_reducible apply occur_keeps
    | with_reducible apply setF_keeps
    | with_reducible apply Keeps.ite
    | with_reducible apply Keeps.foldl
    | split
    | with_reducible apply Keeps.upd

theorem leaveSafe_keeps {s : State} (hs : Keeps q w s) : Keeps q w (leaveSafe s) := by
  unfold leaveSafe
  try dsimp only
  repeat' first
    | with_reducible assumption
    | intro _
    | with_reducible apply setSafe_keeps
    | with_reducible apply signalAll_keeps
    | with_reducible apply occur_keeps
    | with_reducible apply setF_keeps
    | with_reducible apply Keeps.ite
    | with_reducible apply Keeps.foldl
    | split
    | with_reducible apply Keeps.upd

theorem countExit_keeps {s : State} (hs : Keeps q w s) : Keeps q w (countExit s) := by
  unfold countExit
  try dsimp only
  repeat' first
    | with_reducible assumption
    | intro _
    | with_reducible apply bump_keeps
    | with_reducible apply Keeps.ite
    | with_reducible apply Keeps.foldl
    | split
    | with_reducible apply Keeps.upd

theorem exitSafe_keeps {s : State} (hs : Keeps q w s) : Keeps q w (exitSafe s) := by
  unfold exitSafe
  try dsimp only
  repeat' first
    | with_reducible assumption
    | intro _
    | with_reducible apply countExit_keeps
    | with_reducible apply leaveSafe_keeps
    | with_reducible apply landauRebuild_keeps
    | with_reducible apply setF_keeps
    | with_reducible apply Keeps.ite
    | with_reducible apply Keeps.foldl
    | split
    | with_reducible apply Keeps.upd

theorem takeOver_keeps {s : State} (hs : Keeps q w s) : Keeps q w (takeOver s) := by
  unfold takeOver
  try dsimp only
  repeat' first
    | with_reducible assumption
    | intro _
    | with_reducible apply deviceReset_keeps
    | with_reducible apply abandonSuspended_keeps
    | with_reducible apply raise_keeps
    | with_reducible apply setF_keeps
    | with_reducible apply Keeps.ite
    | with_reducible apply Keeps.foldl
    | split

theorem faultAction_keeps {s : State} (code : Nat) (unit : Nat) (part : Nat) (hs : Keeps q w s) : Keeps q w (faultAction s code unit part) := by
  unfold faultAction
  try dsimp only
  repeat' first
    | with_reducible assumption
    | intro _
    | with_reducible apply takeOver_keeps
    | with_reducible apply enterSafe_keeps
    | with_reducible apply kcRowRepair_keeps
    | with_reducible apply trackPc_keeps
    | with_reducible apply dispStop_keeps
    | with_reducible apply askSelftest_keeps
    | with_reducible apply retireTile_keeps
    | with_reducible apply stopPart_keeps
    | with_reducible apply deviceReset_keeps
    | with_reducible apply setF_keeps
    | with_reducible apply Keeps.ite
    | with_reducible apply Keeps.foldl
    | split

theorem report_keeps {s : State} (code : Nat) (unit : Nat) (part : Nat) (forced : Bool) (hs : Keeps q w s) : Keeps q w (report s code unit part forced) := by
  unfold report
  try dsimp only
  repeat' first
    | with_reducible assumption
    | intro _
    | with_reducible apply faultAction_keeps
    | with_reducible apply enterSafe_keeps
    | with_reducible apply noteReport_keeps
    | with_reducible apply deviceReset_keeps
    | with_reducible apply Keeps.ite
    | with_reducible apply Keeps.foldl
    | split
    | with_reducible apply Keeps.upd

theorem faultReport_keeps {s : State} (code : Nat) (unit : Nat) (part : Nat) (hs : Keeps q w s) : Keeps q w (faultReport s code unit part) := by
  unfold faultReport
  try dsimp only
  repeat' first
    | with_reducible assumption
    | intro _
    | with_reducible apply report_keeps
    | with_reducible apply Keeps.ite
    | with_reducible apply Keeps.foldl
    | split

end Sys2Proof.Machine
end

