-- ==== Sys2Proof/Laws/KeepsTamperCore.lean ====
section
/-!
SUPPORT. Laws/KeepsTamperCore.lean: what the operations of TamperCore.lean keep.
-/
namespace Sys2Proof.Machine

variable {q : List Instr} {w : FuseBits}

theorem logCell_keeps {s : State} (resp : Nat) (sources : Nat) (hs : Keeps q w s) : Keeps q w (logCell s resp sources) := by
  unfold logCell
  try dsimp only
  repeat' first
    | with_reducible assumption
    | intro _
    | with_reducible apply setF_keeps
    | with_reducible apply Keeps.ite
    | with_reducible apply Keeps.foldl
    | split
    | with_reducible apply Keeps.upd

theorem programEvidence_keeps {s : State} (hs : Keeps q w s) : Keeps q w (programEvidence s) := by
  unfold programEvidence
  try dsimp only
  repeat' first
    | with_reducible assumption
    | intro _
    | with_reducible apply loadFuseRegs_keeps
    | with_reducible apply occur_keeps
    | with_reducible apply setF_keeps
    | with_reducible apply Keeps.ite
    | with_reducible apply Keeps.foldl
    | split
    | with_reducible apply Keeps.upd
    | with_reducible apply Keeps.updFuse
    | with_reducible apply Keeps.updBurn
    | with_reducible apply Keeps.updEvid

theorem addEvidence_keeps {s : State} (hs : Keeps q w s) : Keeps q w (addEvidence s) := by
  unfold addEvidence
  try dsimp only
  repeat' first
    | with_reducible assumption
    | intro _
    | with_reducible apply programEvidence_keeps
    | with_reducible apply setF_keeps
    | with_reducible apply Keeps.ite
    | with_reducible apply Keeps.foldl
    | split

theorem cellZeroise_keeps {s : State} (hs : Keeps q w s) : Keeps q w (cellZeroise s) := by
  unfold cellZeroise
  try dsimp only
  repeat' first
    | with_reducible assumption
    | intro _
    | with_reducible apply setF_keeps
    | with_reducible apply Keeps.ite
    | with_reducible apply Keeps.foldl
    | split
    | with_reducible apply Keeps.upd

theorem mainRespond_keeps {s : State} (r : Nat) (hs : Keeps q w s) : Keeps q w (mainRespond s r) := by
  unfold mainRespond
  try dsimp only
  repeat' first
    | with_reducible assumption
    | intro _
    | with_reducible apply deviceReset_keeps
    | with_reducible apply zeroiseAllStart_keeps
    | with_reducible apply zeroiseWorking_keeps
    | with_reducible apply raise_keeps
    | with_reducible apply setF_keeps
    | with_reducible apply Keeps.ite
    | with_reducible apply Keeps.foldl
    | split
    | with_reducible apply Keeps.upd

theorem cellRespond_keeps {s : State} (r : Nat) (hs : Keeps q w s) : Keeps q w (cellRespond s r) := by
  unfold cellRespond
  try dsimp only
  repeat' first
    | with_reducible assumption
    | intro _
    | with_reducible apply cellZeroise_keeps
    | with_reducible apply noteCause_keeps
    | with_reducible apply setF_keeps
    | with_reducible apply Keeps.ite
    | with_reducible apply Keeps.foldl
    | split

theorem tamperEvent_keeps {s : State} (srcs : List Nat) (forced : Bool) (hs : Keeps q w s) : Keeps q w (tamperEvent s srcs forced) := by
  unfold tamperEvent
  try dsimp only
  repeat' first
    | with_reducible assumption
    | intro _
    | with_reducible apply cellRespond_keeps
    | with_reducible apply mainRespond_keeps
    | with_reducible apply addEvidence_keeps
    | with_reducible apply logCell_keeps
    | with_reducible apply bump_keeps
    | with_reducible apply occurAt_keeps
    | with_reducible apply setB_keeps
    | with_reducible apply setF_keeps
    | with_reducible apply Keeps.ite
    | with_reducible apply Keeps.foldl
    | split

theorem showTripped_keeps {s : State} (hs : Keeps q w s) : Keeps q w (showTripped s) := by
  unfold showTripped
  try dsimp only
  repeat' first
    | with_reducible assumption
    | intro _
    | with_reducible apply setF_keeps
    | with_reducible apply Keeps.ite
    | with_reducible apply Keeps.foldl
    | split

theorem tripOnce_keeps {s : State} (n : Nat) (forced : Bool) (hs : Keeps q w s) : Keeps q w (tripOnce s n forced) := by
  unfold tripOnce
  try dsimp only
  repeat' first
    | with_reducible assumption
    | intro _
    | with_reducible apply tamperEvent_keeps
    | with_reducible apply Keeps.ite
    | with_reducible apply Keeps.foldl
    | split

theorem tamperTrip_keeps {s : State} (n : Nat) (hs : Keeps q w s) : Keeps q w (tamperTrip s n) := by
  unfold tamperTrip
  try dsimp only
  repeat' first
    | with_reducible assumption
    | intro _
    | with_reducible apply tripOnce_keeps
    | with_reducible apply Keeps.ite
    | with_reducible apply Keeps.foldl
    | split

end Sys2Proof.Machine
end

