-- ==== Sys2Proof/Laws/KeepsPowerBase.lean ====
section
/-!
SUPPORT. Laws/KeepsPowerBase.lean: what the operations of PowerBase.lean keep.
-/
namespace Sys2Proof.Machine

variable {q : List Instr} {w : FuseBits}

theorem setDomainOn_keeps {s : State} (pd : Nat) (on : Bool) (hs : Keeps q w s) : Keeps q w (setDomainOn s pd on) := by
  unfold setDomainOn
  try dsimp only
  repeat' first
    | with_reducible assumption
    | intro _
    | with_reducible apply setF_keeps
    | with_reducible apply Keeps.ite
    | with_reducible apply Keeps.foldl
    | split

theorem showCap_keeps {s : State} (hs : Keeps q w s) : Keeps q w (showCap s) := by
  unfold showCap
  try dsimp only
  repeat' first
    | with_reducible assumption
    | intro _
    | with_reducible apply setF_keeps
    | with_reducible apply Keeps.ite
    | with_reducible apply Keeps.foldl
    | split

theorem setStage_keeps {s : State} (n : Nat) (hs : Keeps q w s) : Keeps q w (setStage s n) := by
  unfold setStage
  try dsimp only
  repeat' first
    | with_reducible assumption
    | intro _
    | with_reducible apply showCap_keeps
    | with_reducible apply bump_keeps
    | with_reducible apply raise_keeps
    | with_reducible apply setF_keeps
    | with_reducible apply Keeps.ite
    | with_reducible apply Keeps.foldl
    | split

end Sys2Proof.Machine
end

