-- ==== Sys2Proof/Laws/KeepsRoute.lean ====
section
/-!
SUPPORT. Laws/KeepsRoute.lean: what the operations of Route.lean keep.
-/
namespace Sys2Proof.Machine

variable {q : List Instr} {w : FuseBits}

theorem pickVariant_keeps {s : State} (t : TagEntry) (cls : Nat) (hs : Keeps q w s) : KeepsP q w (pickVariant s t cls) := by
  unfold pickVariant
  try dsimp only
  repeat' first
    | with_reducible assumption
    | intro _
    | refine Keeps.eqP (by with_reducible assumption) ?_
    | with_reducible apply drbgBits_keeps
    | with_reducible apply Keeps.ite
    | with_reducible apply Keeps.foldl
    | with_reducible apply KeepsP.ite
    | with_reducible apply KeepsP.foldl
    | split
    | with_reducible apply Keeps.snd
    | with_reducible apply KeepsP.pair

theorem countSusp_keeps {s : State} (cls : Nat) (r : Run) (hs : Keeps q w s) : Keeps q w (countSusp s cls r) := by
  unfold countSusp
  try dsimp only
  repeat' first
    | with_reducible assumption
    | intro _
    | with_reducible apply bump_keeps
    | with_reducible apply Keeps.ite
    | with_reducible apply Keeps.foldl
    | split

theorem opcodeRow_keeps {s : State} (r : Run) (op : Nat) (f : TagEntry → State) (hs : Keeps q w s) (hf : ∀ x0, Keeps q w (f x0)) : KeepsR q w (opcodeRow s r op f) := by
  unfold opcodeRow
  try dsimp only
  repeat' first
    | with_reducible assumption
    | intro _
    | with_reducible apply hf
    | with_reducible apply Keeps.ite
    | with_reducible apply Keeps.foldl
    | with_reducible apply KeepsR.next
    | with_reducible apply KeepsR.ite
    | split

theorem commitOn_keeps {s : State} (t : TagEntry) (r : Run) (cls : Nat) (rcls : Nat) (o : Outcome) (e : Effect) (hs : Keeps q w s) : Keeps q w (commitOn s t r cls rcls o e) := by
  unfold commitOn
  try dsimp only
  repeat' first
    | with_reducible assumption
    | intro _
    | refine Keeps.eqP (by with_reducible assumption) ?_
    | with_reducible apply countSusp_keeps
    | with_reducible apply pickVariant_keeps
    | with_reducible apply startTag_keeps
    | with_reducible apply Keeps.ite
    | with_reducible apply Keeps.foldl
    | with_reducible apply KeepsP.ite
    | with_reducible apply KeepsP.foldl
    | split
    | with_reducible apply Keeps.snd
    | with_reducible apply KeepsP.pair

theorem commitCore_keeps {s : State} (t : TagEntry) (r : Run) (o : Outcome) (e : Effect) (hs : Keeps q w s) : Keeps q w (commitCore s t r o e) := by
  unfold commitCore
  try dsimp only
  repeat' first
    | with_reducible assumption
    | intro _
    | with_reducible apply commitOn_keeps
    | with_reducible apply Keeps.ite
    | with_reducible apply Keeps.foldl
    | split

end Sys2Proof.Machine
end

