-- ==== Sys2Proof/Laws/KeepsBlind.lean ====
section
/-!
SUPPORT. Laws/KeepsBlind.lean: what the operations of Blind.lean keep.
-/
namespace Sys2Proof.Machine

variable {q : List Instr} {w : FuseBits}

theorem drawMany_keeps {s : State} (k n : Nat) (hs : Keeps q w s) : KeepsP q w (drawMany s k n) := by
  induction n generalizing s with
  | zero => exact ⟨hs⟩
  | succ n ih => exact ⟨(ih (draw_keeps k hs).out).out⟩

theorem ecBlinding_keeps {s : State} (c : Curve) (k : Nat) (inv : Bool) (hs : Keeps q w s) : KeepsP q w (ecBlinding s c k inv) := by
  unfold ecBlinding
  try dsimp only
  repeat' first
    | with_reducible assumption
    | intro _
    | refine Keeps.eqP (by with_reducible assumption) ?_
    | with_reducible apply drawMany_keeps
    | with_reducible apply Keeps.ite
    | with_reducible apply Keeps.foldl
    | with_reducible apply KeepsP.ite
    | with_reducible apply KeepsP.foldl
    | split
    | with_reducible apply Keeps.snd
    | with_reducible apply KeepsP.pair

theorem rsaBlinding_keeps {s : State} (n : Nat) (hs : Keeps q w s) : KeepsP q w (rsaBlinding s n) := by
  unfold rsaBlinding
  try dsimp only
  repeat' first
    | with_reducible assumption
    | intro _
    | refine Keeps.eqP (by with_reducible assumption) ?_
    | with_reducible apply drawMany_keeps
    | with_reducible apply Keeps.ite
    | with_reducible apply Keeps.foldl
    | with_reducible apply KeepsP.ite
    | with_reducible apply KeepsP.foldl
    | split
    | with_reducible apply Keeps.snd
    | with_reducible apply KeepsP.pair
    | with_reducible apply Keeps.upd

theorem blindTile_keeps {s : State} (r : Run) (b : Blinding × State) (hb : KeepsP q w b) : Keeps q w (blindTile s r b) := hb.out.upd

theorem primeAttempt_keeps (w_ : Nat) (held : List Nat) {s : State} (hs : Keeps q w s) : KeepsP q w (primeAttempt w_ held s) := by
  unfold primeAttempt
  try dsimp only
  repeat' first
    | with_reducible assumption
    | intro _
    | refine Keeps.eqP (by with_reducible assumption) ?_
    | with_reducible apply drawMany_keeps
    | with_reducible apply draw_keeps
    | with_reducible apply Keeps.ite
    | with_reducible apply Keeps.foldl
    | with_reducible apply KeepsP.ite
    | with_reducible apply KeepsP.foldl
    | split
    | with_reducible apply Keeps.snd
    | with_reducible apply KeepsP.pair

theorem primeRuns_keeps {s : State} (k n : Nat) (held : List Nat) (hs : Keeps q w s) : KeepsP q w (primeRuns k n held s) := by
  induction n generalizing s held with
  | zero => exact ⟨hs⟩
  | succ n ih =>
    unfold primeRuns
    split
    · exact ⟨hs⟩
    · exact ih _ (primeAttempt_keeps k held hs).out

theorem rsaGenerate_keeps {s : State} (bits : Nat) (hs : Keeps q w s) : KeepsP q w (rsaGenerate s bits) := by
  unfold rsaGenerate
  try dsimp only
  repeat' first
    | with_reducible assumption
    | intro _
    | refine Keeps.eqP (by with_reducible assumption) ?_
    | with_reducible apply primeRuns_keeps
    | with_reducible apply Keeps.ite
    | with_reducible apply Keeps.foldl
    | with_reducible apply KeepsP.ite
    | with_reducible apply KeepsP.foldl
    | split
    | with_reducible apply Keeps.snd
    | with_reducible apply KeepsP.pair

end Sys2Proof.Machine
end

