-- ==== Sys2Proof/Laws/KeepsMcrypt.lean ====
section
/-!
SUPPORT. Laws/KeepsMcrypt.lean: what the operations of Mcrypt.lean keep.
-/
namespace Sys2Proof.Machine

variable {q : List Instr} {w : FuseBits}

theorem blockAgain_keeps {s : State} (stack : Nat) (n : Nat) (c : Nat × List Nat) (hs : Keeps q w s) : Keeps q w (blockAgain s stack n c) := by
  unfold blockAgain
  try dsimp only
  repeat' first
    | with_reducible assumption
    | intro _
    | with_reducible apply Keeps.ite
    | with_reducible apply Keeps.foldl
    | split
    | with_reducible apply Keeps.upd

theorem bumpNode_keeps {a : Nat × State} (stack n lvl : Nat) (hs : Keeps q w a.2) : Keeps q w (bumpNode stack n a lvl).2 := hs.upd

theorem bumpTree_keeps {s : State} (stack n : Nat) (hs : Keeps q w s) : Keeps q w (bumpTree s stack n) := by
  unfold bumpTree
  simp only [List.foldl_cons, List.foldl_nil]
  repeat with_reducible apply bumpNode_keeps
  exact hs.upd

theorem cachePath_keeps {s : State} (stack : Nat) (n : Nat) (hs : Keeps q w s) : Keeps q w (cachePath s stack n) := by
  unfold cachePath
  try dsimp only
  repeat' first
    | with_reducible assumption
    | intro _
    | with_reducible apply Keeps.ite
    | with_reducible apply Keeps.foldl
    | split
    | with_reducible apply Keeps.upd

theorem poisonCount_keeps {s : State} (hs : Keeps q w s) : Keeps q w (poisonCount s) := by
  unfold poisonCount
  try dsimp only
  repeat' first
    | with_reducible assumption
    | intro _
    | with_reducible apply setF_keeps
    | with_reducible apply Keeps.ite
    | with_reducible apply Keeps.foldl
    | split

theorem writePoison_keeps {s : State} (stack : Nat) (n : Nat) (hs : Keeps q w s) : Keeps q w (writePoison s stack n) := by
  unfold writePoison
  try dsimp only
  repeat' first
    | with_reducible assumption
    | intro _
    | with_reducible apply Keeps.ite
    | with_reducible apply Keeps.foldl
    | split
    | with_reducible apply Keeps.upd

theorem mcWrite_keeps {s : State} (stack n : Nat) (plain : Bytes) (hs : Keeps q w s) : Keeps q w (mcWrite s stack n plain) := by
  unfold mcWrite
  dsimp only
  refine writePoison_keeps _ _ (cachePath_keeps _ _ (bumpTree_keeps _ _ (Keeps.updHbm ?_ _)))
  split
  · exact hs.updHbm _
  · exact blockAgain_keeps _ _ _ (hs.updHbm _)

theorem mcPut_keeps {s : State} (stack : Nat) (n : Nat) (plain : Bytes) (hs : Keeps q w s) : Keeps q w (mcPut s stack n plain) := by
  unfold mcPut
  try dsimp only
  repeat' first
    | with_reducible assumption
    | intro _
    | with_reducible apply mcWrite_keeps
    | with_reducible apply Keeps.ite
    | with_reducible apply Keeps.foldl
    | split
    | refine Keeps.updMem ?_ (Memory.wf_mk ?_ ?_ ?_ ?_)
    | with_reducible apply cellsWf_filter
    | with_reducible apply cellsWf_writes
    | with_reducible apply cellsWf_foldl
    | with_reducible apply Keeps.cellsG q w
    | with_reducible apply Keeps.cellsI q w
    | with_reducible apply Keeps.cellsD q w
    | with_reducible apply Keeps.cellsH q w
    | exact cellsWf_nil _
    | with_reducible apply Keeps.upd

theorem mcWritePart_keeps {s : State} (stack : Nat) (n : Nat) (plain : Bytes) (hs : Keeps q w s) : Keeps q w (mcWritePart s stack n plain) := by
  unfold mcWritePart
  try dsimp only
  repeat' first
    | with_reducible assumption
    | intro _
    | with_reducible apply mcPut_keeps
    | with_reducible apply Keeps.ite
    | with_reducible apply Keeps.foldl
    | split
    | with_reducible apply Keeps.upd

theorem mcWriteAll_keeps {s : State} (stack : Nat) (lines : List Nat) (b : Bytes) (hs : Keeps q w s) : Keeps q w (mcWriteAll s stack lines b) := by
  unfold mcWriteAll
  try dsimp only
  repeat' first
    | with_reducible assumption
    | intro _
    | with_reducible apply mcPut_keeps
    | with_reducible apply poisonCount_keeps
    | with_reducible apply Keeps.ite
    | with_reducible apply Keeps.foldl
    | split

theorem noteFail_keeps {s : State} (kind : Nat) (level : Nat) (stack : Nat) (line : Nat) (hs : Keeps q w s) : Keeps q w (noteFail s kind level stack line) := by
  unfold noteFail
  try dsimp only
  repeat' first
    | with_reducible assumption
    | intro _
    | with_reducible apply faultReport_keeps
    | with_reducible apply bump_keeps
    | with_reducible apply setF_keeps
    | with_reducible apply Keeps.ite
    | with_reducible apply Keeps.foldl
    | split

theorem poisonLine_keeps {s : State} (stack : Nat) (n : Nat) (hs : Keeps q w s) : Keeps q w (poisonLine s stack n) := by
  unfold poisonLine
  try dsimp only
  repeat' first
    | with_reducible assumption
    | intro _
    | with_reducible apply poisonCount_keeps
    | with_reducible apply Keeps.ite
    | with_reducible apply Keeps.foldl
    | split
    | with_reducible apply Keeps.upd

theorem mcFail_keeps {s : State} (stack : Nat) (n : Nat) (kind : Nat) (level : Nat) (line : Nat) (at_ : Nat) (hs : Keeps q w s) : Keeps q w (mcFail s stack n kind level line at_) := by
  unfold mcFail
  try dsimp only
  repeat' first
    | with_reducible assumption
    | intro _
    | with_reducible apply poisonLine_keeps
    | with_reducible apply noteFail_keeps
    | with_reducible apply tamperTrip_keeps
    | with_reducible apply Keeps.ite
    | with_reducible apply Keeps.foldl
    | split
    | with_reducible apply Keeps.upd

theorem mcReadLine_keeps {s : State} (stack : Nat) (n : Nat) (fails : List MemFail) (hs : Keeps q w s) : KeepsP q w (mcReadLine s stack n fails) := by
  unfold mcReadLine
  try dsimp only
  repeat' first
    | with_reducible assumption
    | intro _
    | refine Keeps.eqP (by with_reducible assumption) ?_
    | with_reducible apply mcFail_keeps
    | with_reducible apply poisonLine_keeps
    | with_reducible apply noteFail_keeps
    | with_reducible apply cachePath_keeps
    | with_reducible apply Keeps.ite
    | with_reducible apply Keeps.foldl
    | with_reducible apply KeepsP.ite
    | with_reducible apply KeepsP.foldl
    | split
    | with_reducible apply Keeps.snd
    | with_reducible apply KeepsP.pair

theorem mcRead_keeps {s : State} (stack : Nat) (lines : List Nat) (fails : List MemFail) (hs : Keeps q w s) : KeepsP q w (mcRead s stack lines fails) := by
  unfold mcRead
  try dsimp only
  repeat' first
    | with_reducible assumption
    | intro _
    | refine Keeps.eqP (by with_reducible assumption) ?_
    | with_reducible apply mcReadLine_keeps
    | with_reducible apply Keeps.ite
    | with_reducible apply Keeps.foldl
    | with_reducible apply KeepsP.ite
    | with_reducible apply KeepsP.foldl
    | split
    | with_reducible apply Keeps.snd
    | with_reducible apply KeepsP.pair

end Sys2Proof.Machine
end

