-- ==== Sys2Proof/Laws/KeepsKeyCache.lean ====
section
/-!
SUPPORT. Laws/KeepsKeyCache.lean: what the operations of KeyCache.lean keep.
-/
namespace Sys2Proof.Machine

variable {q : List Instr} {w : FuseBits}

theorem setSlot_keeps {s : State} (h_ : Nat) (x : KeySlot) (hs : Keeps q w s) : Keeps q w (setSlot s h_ x) := by
  unfold setSlot
  try dsimp only
  repeat' first
    | with_reducible assumption
    | intro _
    | with_reducible apply Keeps.ite
    | with_reducible apply Keeps.foldl
    | split
    | with_reducible apply Keeps.upd

theorem setDomain_keeps {s : State} (d : Nat) (x : Domain) (hs : Keeps q w s) : Keeps q w (setDomain s d x) := by
  unfold setDomain
  try dsimp only
  repeat' first
    | with_reducible assumption
    | intro _
    | with_reducible apply Keeps.ite
    | with_reducible apply Keeps.foldl
    | split
    | with_reducible apply Keeps.upd

theorem updDomain_keeps {s : State} (d : Nat) (f : Domain → Domain) (hs : Keeps q w s) : Keeps q w (updDomain s d f) := by
  unfold updDomain
  try dsimp only
  repeat' first
    | with_reducible assumption
    | intro _
    | with_reducible apply setDomain_keeps
    | with_reducible apply Keeps.ite
    | with_reducible apply Keeps.foldl
    | split

theorem readRecord_keeps {s : State} (h_ : Nat) (fails : List MemFail) (hs : Keeps q w s) : KeepsP q w (readRecord s h_ fails) := by
  unfold readRecord
  try dsimp only
  repeat' first
    | with_reducible assumption
    | intro _
    | refine Keeps.eqP (by with_reducible assumption) ?_
    | with_reducible apply mcRead_keeps
    | with_reducible apply Keeps.ite
    | with_reducible apply Keeps.foldl
    | with_reducible apply KeepsP.ite
    | with_reducible apply KeepsP.foldl
    | split
    | with_reducible apply Keeps.snd
    | with_reducible apply KeepsP.pair

theorem writeRecord_keeps {s : State} (h_ : Nat) (hs : Keeps q w s) : Keeps q w (writeRecord s h_) := by
  unfold writeRecord
  try dsimp only
  repeat' first
    | with_reducible assumption
    | intro _
    | with_reducible apply mcWriteAll_keeps
    | with_reducible apply Keeps.ite
    | with_reducible apply Keeps.foldl
    | split

theorem writeHeader_keeps {s : State} (h_ : Nat) (hs : Keeps q w s) : Keeps q w (writeHeader s h_) := by
  unfold writeHeader
  try dsimp only
  repeat' first
    | with_reducible assumption
    | intro _
    | with_reducible apply mcWritePart_keeps
    | with_reducible apply poisonCount_keeps
    | with_reducible apply Keeps.ite
    | with_reducible apply Keeps.foldl
    | split

theorem kcUpd_keeps {s : State} (kind : Nat) (name : Nat) (f : KcEntry → KcEntry) (hs : Keeps q w s) : Keeps q w (kcUpd s kind name f) := by
  unfold kcUpd
  try dsimp only
  repeat' first
    | with_reducible assumption
    | intro _
    | with_reducible apply Keeps.ite
    | with_reducible apply Keeps.foldl
    | split
    | with_reducible apply Keeps.upd

theorem kcWriteBack_keeps {s : State} (e : KcEntry) (hs : Keeps q w s) : Keeps q w (kcWriteBack s e) := by
  unfold kcWriteBack
  try dsimp only
  repeat' first
    | with_reducible assumption
    | intro _
    | with_reducible apply writeHeader_keeps
    | with_reducible apply Keeps.ite
    | with_reducible apply Keeps.foldl
    | split
    | with_reducible apply Keeps.upd

theorem kcEvict_keeps {s : State} (e : KcEntry) (hs : Keeps q w s) : Keeps q w (kcEvict s e) := by
  unfold kcEvict
  try dsimp only
  repeat' first
    | with_reducible assumption
    | intro _
    | with_reducible apply kcWriteBack_keeps
    | with_reducible apply Keeps.ite
    | with_reducible apply Keeps.foldl
    | split
    | with_reducible apply Keeps.upd

theorem kcMakeRoom_keeps {s : State} (size n : Nat) (hs : Keeps q w s) : Keeps q w (kcMakeRoom s size n) := by
  induction n generalizing s with
  | zero => exact hs
  | succ n ih =>
    unfold kcMakeRoom
    split
    · exact hs
    · split
      · exact hs
      · exact ih (kcEvict_keeps _ hs)

theorem kcLoad_keeps {s : State} (kind : Nat) (name : Nat) (key : Bytes) (hdr : Option KeyObj) (area : Nat) (pinned : Bool) (hs : Keeps q w s) : Keeps q w (kcLoad s kind name key hdr area pinned) := by
  unfold kcLoad
  try dsimp only
  repeat' first
    | with_reducible assumption
    | intro _
    | refine Keeps.eqP (by with_reducible assumption) ?_
    | with_reducible apply kcMakeRoom_keeps
    | with_reducible apply drawBytes_keeps
    | with_reducible apply Keeps.ite
    | with_reducible apply Keeps.foldl
    | with_reducible apply KeepsP.ite
    | with_reducible apply KeepsP.foldl
    | split
    | with_reducible apply Keeps.snd
    | with_reducible apply KeepsP.pair
    | with_reducible apply Keeps.upd

theorem kcTouch_keeps {s : State} (e : KcEntry) (hs : Keeps q w s) : Keeps q w (kcTouch s e) := by
  unfold kcTouch
  try dsimp only
  repeat' first
    | with_reducible assumption
    | intro _
    | refine Keeps.eqP (by with_reducible assumption) ?_
    | with_reducible apply kcUpd_keeps
    | with_reducible apply drawBytes_keeps
    | with_reducible apply Keeps.ite
    | with_reducible apply Keeps.foldl
    | with_reducible apply KeepsP.ite
    | with_reducible apply KeepsP.foldl
    | split
    | with_reducible apply Keeps.snd
    | with_reducible apply KeepsP.pair
    | with_reducible apply Keeps.upd

theorem kcUse_keeps {s : State} (kind d : Nat) (hs : Keeps q w s) : Keeps q w (kcUse s kind d) := by
  unfold kcUse
  cases kcFind s kind d with
  | none => exact hs
  | some e => exact kcTouch_keeps e hs

theorem updCounts_keeps {s : State} (h_ : Nat) (f : KeyObj → KeyObj) (hs : Keeps q w s) : Keeps q w (updCounts s h_ f) := by
  unfold updCounts
  try dsimp only
  repeat' first
    | with_reducible assumption
    | intro _
    | with_reducible apply kcUpd_keeps
    | with_reducible apply writeHeader_keeps
    | with_reducible apply setSlot_keeps
    | with_reducible apply Keeps.ite
    | with_reducible apply Keeps.foldl
    | split
    | with_reducible apply Keeps.upd

theorem updKey_keeps {s : State} (h_ : Nat) (f : KeyObj → KeyObj) (hs : Keeps q w s) : Keeps q w (updKey s h_ f) := by
  unfold updKey
  try dsimp only
  repeat' first
    | with_reducible assumption
    | intro _
    | with_reducible apply kcUpd_keeps
    | with_reducible apply setSlot_keeps
    | with_reducible apply Keeps.ite
    | with_reducible apply Keeps.foldl
    | split
    | with_reducible apply Keeps.upd

theorem useKey_keeps {s : State} (h_ : Nat) (fails : List MemFail) (hs : Keeps q w s) : KeepsP q w (useKey s h_ fails) := by
  unfold useKey
  try dsimp only
  repeat' first
    | with_reducible assumption
    | intro _
    | refine Keeps.eqP (by with_reducible assumption) ?_
    | with_reducible apply kcUse_keeps
    | with_reducible apply kcTouch_keeps
    | with_reducible apply kcLoad_keeps
    | with_reducible apply readRecord_keeps
    | with_reducible apply bump_keeps
    | with_reducible apply Keeps.ite
    | with_reducible apply Keeps.foldl
    | with_reducible apply KeepsP.ite
    | with_reducible apply KeepsP.foldl
    | split
    | with_reducible apply Keeps.snd
    | with_reducible apply KeepsP.pair
    | with_reducible apply Keeps.upd

theorem pinDomain_keeps {s : State} (d : Nat) (dmk : Bytes) (hs : Keeps q w s) : Keeps q w (pinDomain s d dmk) := by
  unfold pinDomain
  try dsimp only
  repeat' first
    | with_reducible assumption
    | intro _
    | with_reducible apply kcLoad_keeps
    | with_reducible apply Keeps.ite
    | with_reducible apply Keeps.foldl
    | split

end Sys2Proof.Machine
end

