-- ==== Sys2Proof/Laws/KeepsJournal.lean ====
section
/-!
SUPPORT. Laws/KeepsJournal.lean: what the operations of Journal.lean keep.
-/
namespace Sys2Proof.Machine

variable {q : List Instr} {w : FuseBits}

theorem appendJ_keeps {s : State} (d : Nat) (b : JBody) (hs : Keeps q w s) : Keeps q w (appendJ s d b) := by
  unfold appendJ
  try dsimp only
  repeat' first
    | with_reducible assumption
    | intro _
    | with_reducible apply kcUse_keeps
    | with_reducible apply setDomain_keeps
    | with_reducible apply mcWriteAll_keeps
    | with_reducible apply Keeps.ite
    | with_reducible apply Keeps.foldl
    | split
    | with_reducible apply Keeps.upd

theorem journalReads_keeps {s : State} (fails : List MemFail) (l : List JRec) (hs : Keeps q w s) : KeepsP q w (journalReads s fails l) := by
  induction l generalizing s with
  | nil => exact ⟨hs⟩
  | cons r l ih => exact ⟨(ih (mcRead_keeps _ _ _ hs).out).out⟩

theorem reserve_keeps {s : State} (h_ : Nat) (hs : Keeps q w s) : Keeps q w (reserve s h_) := by
  unfold reserve
  try dsimp only
  repeat' first
    | with_reducible assumption
    | intro _
    | with_reducible apply appendJ_keeps
    | with_reducible apply updCounts_keeps
    | with_reducible apply Keeps.ite
    | with_reducible apply Keeps.foldl
    | split
    | with_reducible apply Keeps.upd

theorem updDomainKeys_keeps {s : State} (d : Nat) (f : KeyObj → KeyObj) (hs : Keeps q w s) : Keeps q w (updDomainKeys s d f) := by
  unfold updDomainKeys
  try dsimp only
  repeat' first
    | with_reducible assumption
    | intro _
    | with_reducible apply Keeps.ite
    | with_reducible apply Keeps.foldl
    | split
    | with_reducible apply Keeps.upd

theorem startEvict_keeps {s : State} (h_ : Nat) (hs : Keeps q w s) : Keeps q w (startEvict s h_) := by
  unfold startEvict
  try dsimp only
  repeat' first
    | with_reducible assumption
    | intro _
    | with_reducible apply Keeps.ite
    | with_reducible apply Keeps.foldl
    | split
    | with_reducible apply Keeps.upd

theorem chooseVictim_keeps {s : State} (w_ : Nat) (hs : Keeps q w s) : Keeps q w (chooseVictim s w_) := by
  unfold chooseVictim
  try dsimp only
  repeat' first
    | with_reducible assumption
    | intro _
    | with_reducible apply startEvict_keeps
    | with_reducible apply Keeps.ite
    | with_reducible apply Keeps.foldl
    | split

theorem addTable_keeps {s : State} (h : Nat) (hs : Keeps q w s) : Keeps q w (addTable s h) := by
  unfold addTable
  exact Keeps.updKs (mcWriteAll_keeps _ _ _ hs) _

theorem askBuild_keeps {s : State} (h_ : Nat) (hs : Keeps q w s) : Keeps q w (askBuild s h_) := by
  unfold askBuild
  try dsimp only
  repeat' first
    | with_reducible assumption
    | intro _
    | with_reducible apply Keeps.ite
    | with_reducible apply Keeps.foldl
    | split
    | with_reducible apply Keeps.upd

theorem wrapOut_keeps {s : State} (o : KeyObj) (hs : Keeps q w s) : KeepsP q w (wrapOut s o) := by
  unfold wrapOut
  try dsimp only
  repeat' first
    | with_reducible assumption
    | intro _
    | refine Keeps.eqP (by with_reducible assumption) ?_
    | with_reducible apply kcUse_keeps
    | with_reducible apply drawBytes_keeps
    | with_reducible apply Keeps.ite
    | with_reducible apply Keeps.foldl
    | with_reducible apply KeepsP.ite
    | with_reducible apply KeepsP.foldl
    | split
    | with_reducible apply Keeps.snd
    | with_reducible apply KeepsP.pair

theorem placeObj_keeps {s : State} (kind : Nat) (o : KeyObj) (hs : Keeps q w s) : Keeps q w (placeObj s kind o) := by
  unfold placeObj
  try dsimp only
  repeat' first
    | with_reducible assumption
    | intro _
    | refine Keeps.eqP (by with_reducible assumption) ?_
    | with_reducible apply wrapOut_keeps
    | with_reducible apply askBuild_keeps
    | with_reducible apply appendJ_keeps
    | with_reducible apply kcUpd_keeps
    | with_reducible apply writeRecord_keeps
    | with_reducible apply setSlot_keeps
    | with_reducible apply Keeps.ite
    | with_reducible apply Keeps.foldl
    | with_reducible apply KeepsP.ite
    | with_reducible apply KeepsP.foldl
    | split
    | with_reducible apply Keeps.snd
    | with_reducible apply KeepsP.pair
    | with_reducible apply Keeps.upd

theorem effPutKey_keeps {s : State} (slot : Nat) (o : KeyObj) (out : Outcome) (hs : Keeps q w s) : KeepsL q w (effPutKey s slot o out) := by
  unfold effPutKey
  try dsimp only
  repeat' first
    | with_reducible assumption
    | intro _
    | refine Keeps.eqL (by with_reducible assumption) ?_
    | with_reducible apply placeObj_keeps
    | with_reducible apply Keeps.ite
    | with_reducible apply Keeps.foldl
    | with_reducible apply KeepsL.ite
    | with_reducible apply KeepsL.foldl
    | split
    | with_reducible apply Keeps.fst
    | with_reducible apply KeepsL.pair
    | with_reducible apply Keeps.upd

theorem forgetKey_keeps {s : State} (h_ : Nat) (hs : Keeps q w s) : Keeps q w (forgetKey s h_) := by
  unfold forgetKey
  try dsimp only
  repeat' first
    | with_reducible assumption
    | intro _
    | with_reducible apply startEvict_keeps
    | with_reducible apply Keeps.ite
    | with_reducible apply Keeps.foldl
    | split
    | with_reducible apply Keeps.upd

theorem freeSlot_keeps {s : State} (h_ : Nat) (hs : Keeps q w s) : Keeps q w (freeSlot s h_) := by
  unfold freeSlot
  try dsimp only
  repeat' first
    | with_reducible assumption
    | intro _
    | with_reducible apply updDomain_keeps
    | with_reducible apply setSlot_keeps
    | with_reducible apply occur_keeps
    | with_reducible apply Keeps.ite
    | with_reducible apply Keeps.foldl
    | split
    | with_reducible apply Keeps.upd

theorem effDeleteKey_keeps {s : State} (h_ : Nat) (out : Outcome) (hs : Keeps q w s) : KeepsL q w (effDeleteKey s h_ out) := by
  unfold effDeleteKey
  try dsimp only
  repeat' first
    | with_reducible assumption
    | intro _
    | refine Keeps.eqL (by with_reducible assumption) ?_
    | with_reducible apply freeSlot_keeps
    | with_reducible apply forgetKey_keeps
    | with_reducible apply appendJ_keeps
    | with_reducible apply Keeps.ite
    | with_reducible apply Keeps.foldl
    | with_reducible apply KeepsL.ite
    | with_reducible apply KeepsL.foldl
    | split
    | with_reducible apply Keeps.fst
    | with_reducible apply KeepsL.pair

theorem effRestrictKey_keeps {s : State} (h_ : Nat) (usage : Nat) (useLimit : Nat) (attr : Nat) (out : Outcome) (hs : Keeps q w s) : KeepsL q w (effRestrictKey s h_ usage useLimit attr out) := by
  unfold effRestrictKey
  try dsimp only
  repeat' first
    | with_reducible assumption
    | intro _
    | refine Keeps.eqL (by with_reducible assumption) ?_
    | with_reducible apply askBuild_keeps
    | with_reducible apply reserve_keeps
    | with_reducible apply appendJ_keeps
    | with_reducible apply updKey_keeps
    | with_reducible apply writeRecord_keeps
    | with_reducible apply Keeps.ite
    | with_reducible apply Keeps.foldl
    | with_reducible apply KeepsL.ite
    | with_reducible apply KeepsL.foldl
    | split
    | with_reducible apply Keeps.fst
    | with_reducible apply KeepsL.pair
    | with_reducible apply Keeps.upd

theorem effImportKey_keeps {s : State} (d : Nat) (b : Bytes) (fails : Bool) (out : Outcome) (hs : Keeps q w s) : KeepsL q w (effImportKey s d b fails out) := by
  unfold effImportKey
  try dsimp only
  repeat' first
    | with_reducible assumption
    | intro _
    | refine Keeps.eqL (by with_reducible assumption) ?_
    | with_reducible apply placeObj_keeps
    | with_reducible apply kcUse_keeps
    | with_reducible apply Keeps.ite
    | with_reducible apply Keeps.foldl
    | with_reducible apply KeepsL.ite
    | with_reducible apply KeepsL.foldl
    | split
    | with_reducible apply Keeps.fst
    | with_reducible apply KeepsL.pair
    | with_reducible apply Keeps.upd

end Sys2Proof.Machine
end

