-- ==== Sys2Proof/Laws/KeepsQuorum.lean ====
section
/-!
SUPPORT. Laws/KeepsQuorum.lean: what the operations of Quorum.lean keep.
-/
namespace Sys2Proof.Machine

variable {q : List Instr} {w : FuseBits}

theorem openSession_keeps {s : State} (op : Nat) (dig : Hash) (blob : Bytes) (hs : Keeps q w s) : Keeps q w (openSession s op dig blob) := by
  unfold openSession
  try dsimp only
  repeat' first
    | with_reducible assumption
    | intro _
    | refine Keeps.eqP (by with_reducible assumption) ?_
    | with_reducible apply drawBytes_keeps
    | with_reducible apply Keeps.ite
    | with_reducible apply Keeps.foldl
    | with_reducible apply KeepsP.ite
    | with_reducible apply KeepsP.foldl
    | split
    | with_reducible apply Keeps.snd
    | with_reducible apply KeepsP.pair
    | with_reducible apply Keeps.upd

theorem quorumNeed_keeps {s : State} (op : Nat) (dig : Hash) (blob : Bytes) (hs : Keeps q w s) : KeepsP q w (quorumNeed s op dig blob) := by
  unfold quorumNeed
  try dsimp only
  repeat' first
    | with_reducible assumption
    | intro _
    | refine Keeps.eqP (by with_reducible assumption) ?_
    | with_reducible apply openSession_keeps
    | with_reducible apply Keeps.ite
    | with_reducible apply Keeps.foldl
    | with_reducible apply KeepsP.ite
    | with_reducible apply KeepsP.foldl
    | split
    | with_reducible apply Keeps.snd
    | with_reducible apply KeepsP.pair

theorem cancelSession_keeps {s : State} (hs : Keeps q w s) : Keeps q w (cancelSession s) := by
  unfold cancelSession
  try dsimp only
  repeat' first
    | with_reducible assumption
    | intro _
    | with_reducible apply Keeps.ite
    | with_reducible apply Keeps.foldl
    | split
    | with_reducible apply Keeps.upd

theorem withQuorum_keeps {s : State} (t : TagEntry) (op : Nat) (input : Bytes) (go : State → State) (hs : Keeps q w s) (hgo : ∀ x0, Keeps q w x0 → Keeps q w (go x0)) : Keeps q w (withQuorum s t op input go) := by
  unfold withQuorum
  try dsimp only
  repeat' first
    | with_reducible assumption
    | intro _
    | refine Keeps.eqP (by with_reducible assumption) ?_
    | with_reducible apply hgo
    | with_reducible apply cancelSession_keeps
    | with_reducible apply quorumNeed_keeps
    | with_reducible apply failTag_keeps
    | with_reducible apply Keeps.ite
    | with_reducible apply Keeps.foldl
    | with_reducible apply KeepsP.ite
    | with_reducible apply KeepsP.foldl
    | split
    | with_reducible apply Keeps.snd
    | with_reducible apply KeepsP.pair
    | with_reducible apply Keeps.upd

end Sys2Proof.Machine
end

