-- ==== Sys2Proof/Laws/KeepsKeyCmds.lean ====
section
/-!
SUPPORT. Laws/KeepsKeyCmds.lean: what the operations of KeyCmds.lean keep.
-/
namespace Sys2Proof.Machine

variable {q : List Instr} {w : FuseBits}

theorem startIn_keeps {s : State} (t : TagEntry) (r : Run) (w_ : Nat) (cls : Nat) (rcls : Nat) (also : Option (Nat × Nat)) (f : State → (Outcome × Effect) × State) (hs : Keeps q w s) (hf : ∀ x0, Keeps q w x0 → KeepsP q w (f x0)) : Keeps q w (startIn s t r w_ cls rcls also f) := by
  unfold startIn
  try dsimp only
  repeat' first
    | with_reducible assumption
    | intro _
    | refine Keeps.eqP (by with_reducible assumption) ?_
    | with_reducible apply hf
    | with_reducible apply countSusp_keeps
    | with_reducible apply pickVariant_keeps
    | with_reducible apply startTag_keeps
    | with_reducible apply Keeps.ite
    | with_reducible apply Keeps.foldl
    | with_reducible apply KeepsP.ite
    | with_reducible apply KeepsP.foldl
    | split
    | with_reducible apply Keeps.snd
    | with_reducible apply KeepsP.pair
    | with_reducible apply Keeps.upd

theorem startOn_keeps {s : State} (t : TagEntry) (r : Run) (cls : Nat) (rcls : Nat) (f : State → (Outcome × Effect) × State) (hs : Keeps q w s) (hf : ∀ x0, Keeps q w x0 → KeepsP q w (f x0)) : Keeps q w (startOn s t r cls rcls f) := by
  unfold startOn
  try dsimp only
  repeat' first
    | with_reducible assumption
    | intro _
    | refine Keeps.eqP (by with_reducible assumption) ?_
    | with_reducible apply hf
    | with_reducible apply startIn_keeps
    | with_reducible apply Keeps.ite
    | with_reducible apply Keeps.foldl
    | with_reducible apply KeepsP.ite
    | with_reducible apply KeepsP.foldl
    | split
    | with_reducible apply Keeps.snd
    | with_reducible apply KeepsP.pair

theorem checked_keeps {s : State} (r : Run) (op : Nat) (checks : TagEntry → List (Option Outcome)) (go : TagEntry → State) (hs : Keeps q w s) (hgo : ∀ x0, Keeps q w (go x0)) : KeepsR q w (checked s r op checks go) := by
  unfold checked
  try dsimp only
  repeat' first
    | with_reducible assumption
    | intro _
    | with_reducible apply hgo
    | with_reducible apply opcodeRow_keeps
    | with_reducible apply failTag_keeps
    | with_reducible apply Keeps.ite
    | with_reducible apply Keeps.foldl
    | with_reducible apply KeepsR.next
    | with_reducible apply KeepsR.ite
    | split

theorem whenKeys_keeps {s : State} (t : TagEntry) {go : State} (hs : Keeps q w s) (hgo : Keeps q w go) : Keeps q w (whenKeys s t go) := by
  unfold whenKeys
  try dsimp only
  repeat' first
    | with_reducible assumption
    | intro _
    | with_reducible apply Keeps.ite
    | with_reducible apply Keeps.foldl
    | split

theorem whenRoom_keeps {s : State} (t : TagEntry) (n : Nat) {go : State} (hs : Keeps q w s) (hgo : Keeps q w go) : Keeps q w (whenRoom s t n go) := by
  unfold whenRoom
  try dsimp only
  repeat' first
    | with_reducible assumption
    | intro _
    | with_reducible apply whenKeys_keeps
    | with_reducible apply Keeps.ite
    | with_reducible apply Keeps.foldl
    | split

theorem sramCorrected_keeps {s : State} (r : Run) (hs : Keeps q w s) : Keeps q w (sramCorrected s r) := by
  unfold sramCorrected
  try dsimp only
  repeat' first
    | with_reducible assumption
    | intro _
    | with_reducible apply faultReport_keeps
    | with_reducible apply bump_keeps
    | with_reducible apply Keeps.ite
    | with_reducible apply Keeps.foldl
    | split

theorem sramUncorrected_keeps {s : State} (u : Nat) (hs : Keeps q w s) : Keeps q w (sramUncorrected s u) := by
  unfold sramUncorrected
  try dsimp only
  repeat' first
    | with_reducible assumption
    | intro _
    | with_reducible apply faultReport_keeps
    | with_reducible apply setF_keeps
    | with_reducible apply Keeps.ite
    | with_reducible apply Keeps.foldl
    | split

theorem sramEvents_keeps {s : State} (r : Run) (comb : Bool) (hs : Keeps q w s) : Keeps q w (sramEvents s r comb) := by
  unfold sramEvents
  try dsimp only
  repeat' first
    | with_reducible assumption
    | intro _
    | with_reducible apply sramUncorrected_keeps
    | with_reducible apply sramCorrected_keeps
    | with_reducible apply Keeps.ite
    | with_reducible apply Keeps.foldl
    | split

theorem startPke_keeps {s : State} (t : TagEntry) (r : Run) (rcls : Nat) (comb : Bool) (also : Option (Nat × Nat)) (f : State → (Outcome × Effect) × State) (hs : Keeps q w s) (hf : ∀ x0, Keeps q w x0 → KeepsP q w (f x0)) : Keeps q w (startPke s t r rcls comb also f) := by
  unfold startPke
  try dsimp only
  repeat' first
    | with_reducible assumption
    | intro _
    | refine Keeps.eqP (by with_reducible assumption) ?_
    | with_reducible apply hf
    | with_reducible apply sramEvents_keeps
    | with_reducible apply startIn_keeps
    | with_reducible apply updTag_keeps
    | with_reducible apply Keeps.ite
    | with_reducible apply Keeps.foldl
    | with_reducible apply KeepsP.ite
    | with_reducible apply KeepsP.foldl
    | split
    | with_reducible apply Keeps.snd
    | with_reducible apply KeepsP.pair
    | with_reducible apply Keeps.upd

theorem flagIntegrity_keeps {s : State} (tag : Nat) (hs : Keeps q w s) : Keeps q w (flagIntegrity s tag) := by
  unfold flagIntegrity
  try dsimp only
  repeat' first
    | with_reducible assumption
    | intro _
    | with_reducible apply updTag_keeps
    | with_reducible apply Keeps.ite
    | with_reducible apply Keeps.foldl
    | split
    | with_reducible apply Keeps.upd

theorem stepLoad_keeps {s : State} (t : TagEntry) (h_ : Nat) (hs : Keeps q w s) : KeepsP q w (stepLoad s t h_) := by
  unfold stepLoad
  try dsimp only
  repeat' first
    | with_reducible assumption
    | intro _
    | refine Keeps.eqP (by with_reducible assumption) ?_
    | with_reducible apply flagIntegrity_keeps
    | with_reducible apply useKey_keeps
    | with_reducible apply kcTouch_keeps
    | with_reducible apply releaseKey_keeps
    | with_reducible apply Keeps.ite
    | with_reducible apply Keeps.foldl
    | with_reducible apply KeepsP.ite
    | with_reducible apply KeepsP.foldl
    | split
    | with_reducible apply Keeps.snd
    | with_reducible apply KeepsP.pair

theorem stepDrew_keeps {s : State} (tag : Nat) (cls : Nat) (hs : Keeps q w s) : Keeps q w (stepDrew s tag cls) := by
  unfold stepDrew
  try dsimp only
  repeat' first
    | with_reducible assumption
    | intro _
    | with_reducible apply updTag_keeps
    | with_reducible apply Keeps.ite
    | with_reducible apply Keeps.foldl
    | split
    | with_reducible apply Keeps.upd

theorem genBody_keeps {s : State} (typ : Nat) (bits : Nat) (hs : Keeps q w s) : KeepsP q w (genBody s typ bits) := by
  unfold genBody
  try dsimp only
  repeat' first
    | with_reducible assumption
    | intro _
    | refine Keeps.eqP (by with_reducible assumption) ?_
    | with_reducible apply drawBytes_keeps
    | with_reducible apply Keeps.ite
    | with_reducible apply Keeps.foldl
    | with_reducible apply KeepsP.ite
    | with_reducible apply KeepsP.foldl
    | split
    | with_reducible apply Keeps.snd
    | with_reducible apply KeepsP.pair

theorem genEc_keeps {s : State} (r : Run) (typ : Nat) (hs : Keeps q w s) : KeepsP q w (genEc s r typ) := by
  unfold genEc
  try dsimp only
  repeat' first
    | with_reducible assumption
    | intro _
    | refine Keeps.eqP (by with_reducible assumption) ?_
    | with_reducible apply blindTile_keeps
    | with_reducible apply ecBlinding_keeps
    | with_reducible apply draw_keeps
    | with_reducible apply Keeps.ite
    | with_reducible apply Keeps.foldl
    | with_reducible apply KeepsP.ite
    | with_reducible apply KeepsP.foldl
    | split
    | with_reducible apply Keeps.snd
    | with_reducible apply KeepsP.pair

theorem goRsaGenerate_keeps (r : Run) {s : State} (t : TagEntry) (hs : Keeps q w s) : Keeps q w (goRsaGenerate r s t) := by
  unfold goRsaGenerate
  try dsimp only
  repeat' first
    | with_reducible assumption
    | intro _
    | refine Keeps.eqP (by with_reducible assumption) ?_
    | with_reducible apply startPke_keeps
    | with_reducible apply rsaGenerate_keeps
    | with_reducible apply blindTile_keeps
    | with_reducible apply rsaBlinding_keeps
    | with_reducible apply Keeps.ite
    | with_reducible apply Keeps.foldl
    | with_reducible apply KeepsP.ite
    | with_reducible apply KeepsP.foldl
    | split
    | with_reducible apply Keeps.snd
    | with_reducible apply KeepsP.pair

theorem goKeyGenerate_keeps (r : Run) {s : State} (t : TagEntry) (hs : Keeps q w s) : Keeps q w (goKeyGenerate r s t) := by
  unfold goKeyGenerate
  try dsimp only
  repeat' first
    | with_reducible assumption
    | intro _
    | refine Keeps.eqP (by with_reducible assumption) ?_
    | with_reducible apply goRsaGenerate_keeps
    | with_reducible apply genEc_keeps
    | with_reducible apply genBody_keeps
    | with_reducible apply startPke_keeps
    | with_reducible apply whenRoom_keeps
    | with_reducible apply startOn_keeps
    | with_reducible apply Keeps.ite
    | with_reducible apply Keeps.foldl
    | with_reducible apply KeepsP.ite
    | with_reducible apply KeepsP.foldl
    | split
    | with_reducible apply Keeps.snd
    | with_reducible apply KeepsP.pair

theorem execKeyGenerate_keeps (r : Run) {s : State} (hs : Keeps q w s) : KeepsR q w (execKeyGenerate r s) := by
  unfold execKeyGenerate
  try dsimp only
  repeat' first
    | with_reducible assumption
    | intro _
    | with_reducible apply goKeyGenerate_keeps
    | with_reducible apply checked_keeps
    | with_reducible apply Keeps.ite
    | with_reducible apply Keeps.foldl
    | with_reducible apply KeepsR.next
    | with_reducible apply KeepsR.ite
    | split

theorem goKeyImport_keeps (r : Run) {s : State} (t : TagEntry) (hs : Keeps q w s) : Keeps q w (goKeyImport r s t) := by
  unfold goKeyImport
  try dsimp only
  repeat' first
    | with_reducible assumption
    | intro _
    | refine Keeps.eqP (by with_reducible assumption) ?_
    | with_reducible apply whenRoom_keeps
    | with_reducible apply startOn_keeps
    | with_reducible apply readRecord_keeps
    | with_reducible apply Keeps.ite
    | with_reducible apply Keeps.foldl
    | with_reducible apply KeepsP.ite
    | with_reducible apply KeepsP.foldl
    | split
    | with_reducible apply Keeps.snd
    | with_reducible apply KeepsP.pair

theorem execKeyImport_keeps (r : Run) {s : State} (hs : Keeps q w s) : KeepsR q w (execKeyImport r s) := by
  unfold execKeyImport
  try dsimp only
  repeat' first
    | with_reducible assumption
    | intro _
    | with_reducible apply goKeyImport_keeps
    | with_reducible apply checked_keeps
    | with_reducible apply Keeps.ite
    | with_reducible apply Keeps.foldl
    | with_reducible apply KeepsR.next
    | with_reducible apply KeepsR.ite
    | split

theorem goKeyExport_keeps (r : Run) {s : State} (t : TagEntry) (hs : Keeps q w s) : Keeps q w (goKeyExport r s t) := by
  unfold goKeyExport
  try dsimp only
  repeat' first
    | with_reducible assumption
    | intro _
    | refine Keeps.eqP (by with_reducible assumption) ?_
    | with_reducible apply whenKeys_keeps
    | with_reducible apply startOn_keeps
    | with_reducible apply wrapOut_keeps
    | with_reducible apply readRecord_keeps
    | with_reducible apply Keeps.ite
    | with_reducible apply Keeps.foldl
    | with_reducible apply KeepsP.ite
    | with_reducible apply KeepsP.foldl
    | split
    | with_reducible apply Keeps.snd
    | with_reducible apply KeepsP.pair

theorem execKeyExport_keeps (r : Run) {s : State} (hs : Keeps q w s) : KeepsR q w (execKeyExport r s) := by
  unfold execKeyExport
  try dsimp only
  repeat' first
    | with_reducible assumption
    | intro _
    | with_reducible apply goKeyExport_keeps
    | with_reducible apply checked_keeps
    | with_reducible apply Keeps.ite
    | with_reducible apply Keeps.foldl
    | with_reducible apply KeepsR.next
    | with_reducible apply KeepsR.ite
    | split

theorem goKeyDelete_keeps (r : Run) {s : State} (t : TagEntry) (hs : Keeps q w s) : Keeps q w (goKeyDelete r s t) := by
  unfold goKeyDelete
  try dsimp only
  repeat' first
    | with_reducible assumption
    | intro _
    | refine Keeps.eqP (by with_reducible assumption) ?_
    | with_reducible apply whenRoom_keeps
    | with_reducible apply startOn_keeps
    | with_reducible apply Keeps.ite
    | with_reducible apply Keeps.foldl
    | with_reducible apply KeepsP.ite
    | with_reducible apply KeepsP.foldl
    | split
    | with_reducible apply Keeps.snd
    | with_reducible apply KeepsP.pair

theorem execKeyDelete_keeps (r : Run) {s : State} (hs : Keeps q w s) : KeepsR q w (execKeyDelete r s) := by
  unfold execKeyDelete
  try dsimp only
  repeat' first
    | with_reducible assumption
    | intro _
    | with_reducible apply goKeyDelete_keeps
    | with_reducible apply checked_keeps
    | with_reducible apply Keeps.ite
    | with_reducible apply Keeps.foldl
    | with_reducible apply KeepsR.next
    | with_reducible apply KeepsR.ite
    | split

theorem goKeyInfo_keeps (r : Run) {s : State} (t : TagEntry) (hs : Keeps q w s) : Keeps q w (goKeyInfo r s t) := by
  unfold goKeyInfo
  try dsimp only
  repeat' first
    | with_reducible assumption
    | intro _
    | refine Keeps.eqP (by with_reducible assumption) ?_
    | with_reducible apply startOn_keeps
    | with_reducible apply readRecord_keeps
    | with_reducible apply Keeps.ite
    | with_reducible apply Keeps.foldl
    | with_reducible apply KeepsP.ite
    | with_reducible apply KeepsP.foldl
    | split
    | with_reducible apply Keeps.snd
    | with_reducible apply KeepsP.pair

theorem execKeyInfo_keeps (r : Run) {s : State} (hs : Keeps q w s) : KeepsR q w (execKeyInfo r s) := by
  unfold execKeyInfo
  try dsimp only
  repeat' first
    | with_reducible assumption
    | intro _
    | with_reducible apply goKeyInfo_keeps
    | with_reducible apply checked_keeps
    | with_reducible apply Keeps.ite
    | with_reducible apply Keeps.foldl
    | with_reducible apply KeepsR.next
    | with_reducible apply KeepsR.ite
    | split

theorem goKeyRestrict_keeps (r : Run) {s : State} (t : TagEntry) (hs : Keeps q w s) : Keeps q w (goKeyRestrict r s t) := by
  unfold goKeyRestrict
  try dsimp only
  repeat' first
    | with_reducible assumption
    | intro _
    | refine Keeps.eqP (by with_reducible assumption) ?_
    | with_reducible apply whenRoom_keeps
    | with_reducible apply startOn_keeps
    | with_reducible apply useKey_keeps
    | with_reducible apply Keeps.ite
    | with_reducible apply Keeps.foldl
    | with_reducible apply KeepsP.ite
    | with_reducible apply KeepsP.foldl
    | split
    | with_reducible apply Keeps.snd
    | with_reducible apply KeepsP.pair

theorem execKeyRestrict_keeps (r : Run) {s : State} (hs : Keeps q w s) : KeepsR q w (execKeyRestrict r s) := by
  unfold execKeyRestrict
  try dsimp only
  repeat' first
    | with_reducible assumption
    | intro _
    | with_reducible apply goKeyRestrict_keeps
    | with_reducible apply checked_keeps
    | with_reducible apply Keeps.ite
    | with_reducible apply Keeps.foldl
    | with_reducible apply KeepsR.next
    | with_reducible apply KeepsR.ite
    | split

theorem goPubkeyEnroll_keeps (r : Run) {s : State} (t : TagEntry) (hs : Keeps q w s) : Keeps q w (goPubkeyEnroll r s t) := by
  unfold goPubkeyEnroll
  try dsimp only
  repeat' first
    | with_reducible assumption
    | intro _
    | refine Keeps.eqP (by with_reducible assumption) ?_
    | with_reducible apply startPke_keeps
    | with_reducible apply whenRoom_keeps
    | with_reducible apply Keeps.ite
    | with_reducible apply Keeps.foldl
    | with_reducible apply KeepsP.ite
    | with_reducible apply KeepsP.foldl
    | split
    | with_reducible apply Keeps.snd
    | with_reducible apply KeepsP.pair
    | with_reducible apply Keeps.upd

theorem execPubkeyEnroll_keeps (r : Run) {s : State} (hs : Keeps q w s) : KeepsR q w (execPubkeyEnroll r s) := by
  unfold execPubkeyEnroll
  try dsimp only
  repeat' first
    | with_reducible assumption
    | intro _
    | with_reducible apply goPubkeyEnroll_keeps
    | with_reducible apply checked_keeps
    | with_reducible apply Keeps.ite
    | with_reducible apply Keeps.foldl
    | with_reducible apply KeepsR.next
    | with_reducible apply KeepsR.ite
    | split

theorem goPubkeyRead_keeps (r : Run) {s : State} (t : TagEntry) (hs : Keeps q w s) : Keeps q w (goPubkeyRead r s t) := by
  unfold goPubkeyRead
  try dsimp only
  repeat' first
    | with_reducible assumption
    | intro _
    | refine Keeps.eqP (by with_reducible assumption) ?_
    | with_reducible apply startOn_keeps
    | with_reducible apply useKey_keeps
    | with_reducible apply Keeps.ite
    | with_reducible apply Keeps.foldl
    | with_reducible apply KeepsP.ite
    | with_reducible apply KeepsP.foldl
    | split
    | with_reducible apply Keeps.snd
    | with_reducible apply KeepsP.pair

theorem execPubkeyRead_keeps (r : Run) {s : State} (hs : Keeps q w s) : KeepsR q w (execPubkeyRead r s) := by
  unfold execPubkeyRead
  try dsimp only
  repeat' first
    | with_reducible assumption
    | intro _
    | with_reducible apply goPubkeyRead_keeps
    | with_reducible apply checked_keeps
    | with_reducible apply Keeps.ite
    | with_reducible apply Keeps.foldl
    | with_reducible apply KeepsR.next
    | with_reducible apply KeepsR.ite
    | split

theorem goKeyblockImport_keeps (r : Run) {s : State} (t : TagEntry) (hs : Keeps q w s) : Keeps q w (goKeyblockImport r s t) := by
  unfold goKeyblockImport
  try dsimp only
  repeat' first
    | with_reducible assumption
    | intro _
    | refine Keeps.eqP (by with_reducible assumption) ?_
    | with_reducible apply whenRoom_keeps
    | with_reducible apply startOn_keeps
    | with_reducible apply useKey_keeps
    | with_reducible apply Keeps.ite
    | with_reducible apply Keeps.foldl
    | with_reducible apply KeepsP.ite
    | with_reducible apply KeepsP.foldl
    | split
    | with_reducible apply Keeps.snd
    | with_reducible apply KeepsP.pair

theorem execKeyblockImport_keeps (r : Run) {s : State} (hs : Keeps q w s) : KeepsR q w (execKeyblockImport r s) := by
  unfold execKeyblockImport
  try dsimp only
  repeat' first
    | with_reducible assumption
    | intro _
    | with_reducible apply goKeyblockImport_keeps
    | with_reducible apply checked_keeps
    | with_reducible apply Keeps.ite
    | with_reducible apply Keeps.foldl
    | with_reducible apply KeepsR.next
    | with_reducible apply KeepsR.ite
    | split

theorem kbSeal_keeps {s : State} (version : Nat) (k : KeyObj) (o : KeyObj) (hs : Keeps q w s) : KeepsP q w (kbSeal s version k o) := by
  unfold kbSeal
  try dsimp only
  repeat' first
    | with_reducible assumption
    | intro _
    | refine Keeps.eqP (by with_reducible assumption) ?_
    | with_reducible apply drawBytes_keeps
    | with_reducible apply draw_keeps
    | with_reducible apply Keeps.ite
    | with_reducible apply Keeps.foldl
    | with_reducible apply KeepsP.ite
    | with_reducible apply KeepsP.foldl
    | split
    | with_reducible apply Keeps.snd
    | with_reducible apply KeepsP.pair

theorem goKeyblockExport_keeps (r : Run) {s : State} (t : TagEntry) (hs : Keeps q w s) : Keeps q w (goKeyblockExport r s t) := by
  unfold goKeyblockExport
  try dsimp only
  repeat' first
    | with_reducible assumption
    | intro _
    | refine Keeps.eqP (by with_reducible assumption) ?_
    | with_reducible apply kbSeal_keeps
    | with_reducible apply startOn_keeps
    | with_reducible apply useKey_keeps
    | with_reducible apply Keeps.ite
    | with_reducible apply Keeps.foldl
    | with_reducible apply KeepsP.ite
    | with_reducible apply KeepsP.foldl
    | split
    | with_reducible apply Keeps.snd
    | with_reducible apply KeepsP.pair

theorem execKeyblockExport_keeps (r : Run) {s : State} (hs : Keeps q w s) : KeepsR q w (execKeyblockExport r s) := by
  unfold execKeyblockExport
  try dsimp only
  repeat' first
    | with_reducible assumption
    | intro _
    | with_reducible apply goKeyblockExport_keeps
    | with_reducible apply checked_keeps
    | with_reducible apply Keeps.ite
    | with_reducible apply Keeps.foldl
    | with_reducible apply KeepsR.next
    | with_reducible apply KeepsR.ite
    | split

theorem goVtableCtrl_keeps (r : Run) {s : State} (t : TagEntry) (hs : Keeps q w s) : Keeps q w (goVtableCtrl r s t) := by
  unfold goVtableCtrl
  try dsimp only
  repeat' first
    | with_reducible assumption
    | intro _
    | refine Keeps.eqP (by with_reducible assumption) ?_
    | with_reducible apply startOn_keeps
    | with_reducible apply chooseVictim_keeps
    | with_reducible apply Keeps.ite
    | with_reducible apply Keeps.foldl
    | with_reducible apply KeepsP.ite
    | with_reducible apply KeepsP.foldl
    | split
    | with_reducible apply Keeps.snd
    | with_reducible apply KeepsP.pair

theorem execVtableCtrl_keeps (r : Run) {s : State} (hs : Keeps q w s) : KeepsR q w (execVtableCtrl r s) := by
  unfold execVtableCtrl
  try dsimp only
  repeat' first
    | with_reducible assumption
    | intro _
    | with_reducible apply goVtableCtrl_keeps
    | with_reducible apply checked_keeps
    | with_reducible apply Keeps.ite
    | with_reducible apply Keeps.foldl
    | with_reducible apply KeepsR.next
    | with_reducible apply KeepsR.ite
    | split

theorem execVtableBuild_keeps (handle : Nat) (unit : Nat) (tile : Nat) {s : State} (hs : Keeps q w s) : KeepsR q w (execVtableBuild handle unit tile s) := by
  unfold execVtableBuild
  try dsimp only
  repeat' first
    | with_reducible assumption
    | intro _
    | with_reducible apply addTable_keeps
    | with_reducible apply chooseVictim_keeps
    | with_reducible apply whenLandau_keeps
    | with_reducible apply Keeps.ite
    | with_reducible apply Keeps.foldl
    | with_reducible apply KeepsR.next
    | with_reducible apply KeepsR.ite
    | split
    | with_reducible apply Keeps.upd

theorem execVtableEviction_keeps (handle : Nat) {s : State} (hs : Keeps q w s) : KeepsR q w (execVtableEviction handle s) := by
  unfold execVtableEviction
  try dsimp only
  repeat' first
    | with_reducible assumption
    | intro _
    | with_reducible apply Keeps.ite
    | with_reducible apply Keeps.foldl
    | with_reducible apply KeepsR.next
    | with_reducible apply KeepsR.ite
    | split
    | with_reducible apply Keeps.upd

end Sys2Proof.Machine
end

