-- ==== Sys2Proof/Laws/KeepsMpu.lean ====
section
/-!
SUPPORT. Laws/KeepsMpu.lean: what the operations of Mpu.lean keep.
-/
namespace Sys2Proof.Machine

variable {q : List Instr} {w : FuseBits}

theorem violG_keeps {s : State} (v : Viol) (hs : Keeps q w s) : Keeps q w (violG s v) := by
  unfold violG
  try dsimp only
  repeat' first
    | with_reducible assumption
    | intro _
    | with_reducible apply bump_keeps
    | with_reducible apply raise_keeps
    | with_reducible apply setB_keeps
    | with_reducible apply setF_keeps
    | with_reducible apply Keeps.ite
    | with_reducible apply Keeps.foldl
    | split

theorem violL_keeps {s : State} (v : Viol) (hs : Keeps q w s) : Keeps q w (violL s v) := by
  unfold violL
  try dsimp only
  repeat' first
    | with_reducible assumption
    | intro _
    | with_reducible apply faultReport_keeps
    | with_reducible apply bump_keeps
    | with_reducible apply setB_keeps
    | with_reducible apply setF_keeps
    | with_reducible apply Keeps.ite
    | with_reducible apply Keeps.foldl
    | split

theorem violation_keeps {s : State} (mpu : Nat) (v : Viol) (hs : Keeps q w s) : Keeps q w (violation s mpu v) := by
  unfold violation
  try dsimp only
  repeat' first
    | with_reducible assumption
    | intro _
    | with_reducible apply violL_keeps
    | with_reducible apply violG_keeps
    | with_reducible apply Keeps.ite
    | with_reducible apply Keeps.foldl
    | split

theorem recordDenied_keeps {s : State} (mpu : Nat) (m : Nat) (kind : Nat) (a : Nat) (n : Nat) (hs : Keeps q w s) : Keeps q w (recordDenied s mpu m kind a n) := by
  unfold recordDenied
  try dsimp only
  repeat' first
    | with_reducible assumption
    | intro _
    | with_reducible apply violation_keeps
    | with_reducible apply Keeps.ite
    | with_reducible apply Keeps.foldl
    | split

theorem masterRead_keeps {s : State} (m : Nat) (a : Nat) (n : Nat) (hs : Keeps q w s) : KeepsP q w (masterRead s m a n) := by
  unfold masterRead
  try dsimp only
  repeat' first
    | with_reducible assumption
    | intro _
    | refine Keeps.eqP (by with_reducible assumption) ?_
    | with_reducible apply recordDenied_keeps
    | with_reducible apply Keeps.ite
    | with_reducible apply Keeps.foldl
    | with_reducible apply KeepsP.ite
    | with_reducible apply KeepsP.foldl
    | split
    | with_reducible apply Keeps.snd
    | with_reducible apply KeepsP.pair

theorem masterWrite_keeps {s : State} (m : Nat) (a : Nat) (b : Bytes) (hs : Keeps q w s) : Keeps q w (masterWrite s m a b) := by
  unfold masterWrite
  try dsimp only
  repeat' first
    | with_reducible assumption
    | intro _
    | with_reducible apply recordDenied_keeps
    | with_reducible apply geckoWrite_keeps
    | with_reducible apply Keeps.ite
    | with_reducible apply Keeps.foldl
    | split

theorem setPend_keeps {s : State} (mpu : Nat) (masters : Nat) (snap : List (Nat × MpuRegion)) (hs : Keeps q w s) : Keeps q w (setPend s mpu masters snap) := by
  unfold setPend
  try dsimp only
  repeat' first
    | with_reducible assumption
    | intro _
    | with_reducible apply setB_keeps
    | with_reducible apply Keeps.ite
    | with_reducible apply Keeps.foldl
    | split
    | with_reducible apply Keeps.upd

theorem syncErr_keeps {s : State} (mpu : Nat) (m : Nat) (r : Nat) (hs : Keeps q w s) : Keeps q w (syncErr s mpu m r) := by
  unfold syncErr
  try dsimp only
  repeat' first
    | with_reducible assumption
    | intro _
    | with_reducible apply setF_keeps
    | with_reducible apply Keeps.ite
    | with_reducible apply Keeps.foldl
    | split

theorem execMpuSync_keeps (landau : Bool) (masters : BitVec 24) {s : State} (hs : Keeps q w s) : KeepsR q w (execMpuSync landau masters s) := by
  unfold execMpuSync
  try dsimp only
  repeat' first
    | with_reducible assumption
    | intro _
    | with_reducible apply syncErr_keeps
    | with_reducible apply setPend_keeps
    | with_reducible apply setF_keeps
    | with_reducible apply Keeps.ite
    | with_reducible apply Keeps.foldl
    | with_reducible apply KeepsR.next
    | with_reducible apply KeepsR.ite
    | split

theorem execMpuSyncApply_keeps (landau : Bool) {s : State} (hs : Keeps q w s) : KeepsR q w (execMpuSyncApply landau s) := by
  unfold execMpuSyncApply
  try dsimp only
  repeat' first
    | with_reducible assumption
    | intro _
    | with_reducible apply setPend_keeps
    | with_reducible apply raiseDisp_keeps
    | with_reducible apply Keeps.ite
    | with_reducible apply Keeps.foldl
    | with_reducible apply KeepsR.next
    | with_reducible apply KeepsR.ite
    | split
    | with_reducible apply Keeps.upd

theorem execMpuViolClear_keeps (landau : Bool) {s : State} (hs : Keeps q w s) : KeepsR q w (execMpuViolClear landau s) := by
  unfold execMpuViolClear
  try dsimp only
  repeat' first
    | with_reducible assumption
    | intro _
    | with_reducible apply resetRegs_keeps
    | with_reducible apply Keeps.ite
    | with_reducible apply Keeps.foldl
    | with_reducible apply KeepsR.next
    | with_reducible apply KeepsR.ite
    | split

theorem setArb_keeps {s : State} (n : Nat) (p : Nat) (h_ : Nat) (hs : Keeps q w s) : Keeps q w (setArb s n p h_) := by
  unfold setArb
  try dsimp only
  repeat' first
    | with_reducible assumption
    | intro _
    | with_reducible apply setF_keeps
    | with_reducible apply Keeps.ite
    | with_reducible apply Keeps.foldl
    | split
    | with_reducible apply Keeps.upd

theorem execArbiterDecision_keeps (arb : Fin 6) (req : W32) {s : State} (hs : Keeps q w s) : KeepsR q w (execArbiterDecision arb req s) := by
  unfold execArbiterDecision
  try dsimp only
  repeat' first
    | with_reducible assumption
    | intro _
    | with_reducible apply setArb_keeps
    | with_reducible apply Keeps.ite
    | with_reducible apply Keeps.foldl
    | with_reducible apply KeepsR.next
    | with_reducible apply KeepsR.ite
    | split

end Sys2Proof.Machine
end

