-- ==== Sys2Proof/Laws/KeepsPkeCmds.lean ====
section
/-!
SUPPORT. Laws/KeepsPkeCmds.lean: what the operations of PkeCmds.lean keep.
-/
namespace Sys2Proof.Machine

variable {q : List Instr} {w : FuseBits}

theorem drawNonce_keeps {s : State} (c : Curve) (hs : Keeps q w s) : KeepsP q w (drawNonce s c) := by
  unfold drawNonce
  try dsimp only
  repeat' first
    | with_reducible assumption
    | intro _
    | refine Keeps.eqP (by with_reducible assumption) ?_
    | with_reducible apply draw_keeps
    | with_reducible apply Keeps.ite
    | with_reducible apply Keeps.foldl
    | with_reducible apply KeepsP.ite
    | with_reducible apply KeepsP.foldl
    | split
    | with_reducible apply Keeps.snd
    | with_reducible apply KeepsP.pair

theorem signWith_keeps {s : State} (r : Run) (h_ : Nat) (dig : Option Bytes) (hs : Keeps q w s) : KeepsP q w (signWith s r h_ dig) := by
  unfold signWith
  try dsimp only
  repeat' first
    | with_reducible assumption
    | intro _
    | refine Keeps.eqP (by with_reducible assumption) ?_
    | with_reducible apply drawNonce_keeps
    | with_reducible apply useKey_keeps
    | with_reducible apply blindTile_keeps
    | with_reducible apply ecBlinding_keeps
    | with_reducible apply Keeps.ite
    | with_reducible apply Keeps.foldl
    | with_reducible apply KeepsP.ite
    | with_reducible apply KeepsP.foldl
    | split
    | with_reducible apply Keeps.snd
    | with_reducible apply KeepsP.pair

theorem goEcdsaSign_keeps (r : Run) {s : State} (t : TagEntry) (hs : Keeps q w s) : Keeps q w (goEcdsaSign r s t) := by
  unfold goEcdsaSign
  try dsimp only
  repeat' first
    | with_reducible assumption
    | intro _
    | refine Keeps.eqP (by with_reducible assumption) ?_
    | with_reducible apply signWith_keeps
    | with_reducible apply startPke_keeps
    | with_reducible apply Keeps.ite
    | with_reducible apply Keeps.foldl
    | with_reducible apply KeepsP.ite
    | with_reducible apply KeepsP.foldl
    | split
    | with_reducible apply Keeps.snd
    | with_reducible apply KeepsP.pair

theorem execEcdsaSign_keeps (r : Run) {s : State} (hs : Keeps q w s) : KeepsR q w (execEcdsaSign r s) := by
  unfold execEcdsaSign
  try dsimp only
  repeat' first
    | with_reducible assumption
    | intro _
    | with_reducible apply goEcdsaSign_keeps
    | with_reducible apply checked_keeps
    | with_reducible apply Keeps.ite
    | with_reducible apply Keeps.foldl
    | with_reducible apply KeepsR.next
    | with_reducible apply KeepsR.ite
    | split

theorem goEcdsaSignMsg_keeps (r : Run) {s : State} (t : TagEntry) (hs : Keeps q w s) : Keeps q w (goEcdsaSignMsg r s t) := by
  unfold goEcdsaSignMsg
  try dsimp only
  repeat' first
    | with_reducible assumption
    | intro _
    | refine Keeps.eqP (by with_reducible assumption) ?_
    | with_reducible apply signWith_keeps
    | with_reducible apply startPke_keeps
    | with_reducible apply Keeps.ite
    | with_reducible apply Keeps.foldl
    | with_reducible apply KeepsP.ite
    | with_reducible apply KeepsP.foldl
    | split
    | with_reducible apply Keeps.snd
    | with_reducible apply KeepsP.pair

theorem execEcdsaSignMsg_keeps (r : Run) {s : State} (hs : Keeps q w s) : KeepsR q w (execEcdsaSignMsg r s) := by
  unfold execEcdsaSignMsg
  try dsimp only
  repeat' first
    | with_reducible assumption
    | intro _
    | with_reducible apply goEcdsaSignMsg_keeps
    | with_reducible apply checked_keeps
    | with_reducible apply Keeps.ite
    | with_reducible apply Keeps.foldl
    | with_reducible apply KeepsR.next
    | with_reducible apply KeepsR.ite
    | split

theorem verifyWith_keeps {s : State} (r : Run) (h_ : Nat) (rcls : Nat) (sig : Option Bytes) (dig : Option Bytes) (hs : Keeps q w s) : KeepsP q w (verifyWith s r h_ rcls sig dig) := by
  unfold verifyWith
  try dsimp only
  repeat' first
    | with_reducible assumption
    | intro _
    | refine Keeps.eqP (by with_reducible assumption) ?_
    | with_reducible apply useKey_keeps
    | with_reducible apply mcRead_keeps
    | with_reducible apply Keeps.ite
    | with_reducible apply Keeps.foldl
    | with_reducible apply KeepsP.ite
    | with_reducible apply KeepsP.foldl
    | split
    | with_reducible apply Keeps.snd
    | with_reducible apply KeepsP.pair

theorem touchTable_keeps {s : State} (h_ : Nat) (hs : Keeps q w s) : Keeps q w (touchTable s h_) := by
  unfold touchTable
  try dsimp only
  repeat' first
    | with_reducible assumption
    | intro _
    | with_reducible apply Keeps.ite
    | with_reducible apply Keeps.foldl
    | split
    | with_reducible apply Keeps.upd

theorem goEcdsaVerify_keeps (r : Run) {s : State} (t : TagEntry) (hs : Keeps q w s) : Keeps q w (goEcdsaVerify r s t) := by
  unfold goEcdsaVerify
  try dsimp only
  repeat' first
    | with_reducible assumption
    | intro _
    | refine Keeps.eqP (by with_reducible assumption) ?_
    | with_reducible apply touchTable_keeps
    | with_reducible apply verifyWith_keeps
    | with_reducible apply startPke_keeps
    | with_reducible apply Keeps.ite
    | with_reducible apply Keeps.foldl
    | with_reducible apply KeepsP.ite
    | with_reducible apply KeepsP.foldl
    | split
    | with_reducible apply Keeps.snd
    | with_reducible apply KeepsP.pair

theorem execEcdsaVerify_keeps (r : Run) {s : State} (hs : Keeps q w s) : KeepsR q w (execEcdsaVerify r s) := by
  unfold execEcdsaVerify
  try dsimp only
  repeat' first
    | with_reducible assumption
    | intro _
    | with_reducible apply goEcdsaVerify_keeps
    | with_reducible apply checked_keeps
    | with_reducible apply Keeps.ite
    | with_reducible apply Keeps.foldl
    | with_reducible apply KeepsR.next
    | with_reducible apply KeepsR.ite
    | split

theorem goEcdsaVerifyMsg_keeps (r : Run) {s : State} (t : TagEntry) (hs : Keeps q w s) : Keeps q w (goEcdsaVerifyMsg r s t) := by
  unfold goEcdsaVerifyMsg
  try dsimp only
  repeat' first
    | with_reducible assumption
    | intro _
    | refine Keeps.eqP (by with_reducible assumption) ?_
    | with_reducible apply touchTable_keeps
    | with_reducible apply verifyWith_keeps
    | with_reducible apply startPke_keeps
    | with_reducible apply Keeps.ite
    | with_reducible apply Keeps.foldl
    | with_reducible apply KeepsP.ite
    | with_reducible apply KeepsP.foldl
    | split
    | with_reducible apply Keeps.snd
    | with_reducible apply KeepsP.pair

theorem execEcdsaVerifyMsg_keeps (r : Run) {s : State} (hs : Keeps q w s) : KeepsR q w (execEcdsaVerifyMsg r s) := by
  unfold execEcdsaVerifyMsg
  try dsimp only
  repeat' first
    | with_reducible assumption
    | intro _
    | with_reducible apply goEcdsaVerifyMsg_keeps
    | with_reducible apply checked_keeps
    | with_reducible apply Keeps.ite
    | with_reducible apply Keeps.foldl
    | with_reducible apply KeepsR.next
    | with_reducible apply KeepsR.ite
    | split

theorem goEcdsaVerifyExt_keeps (r : Run) {s : State} (t : TagEntry) (hs : Keeps q w s) : Keeps q w (goEcdsaVerifyExt r s t) := by
  unfold goEcdsaVerifyExt
  try dsimp only
  repeat' first
    | with_reducible assumption
    | intro _
    | refine Keeps.eqP (by with_reducible assumption) ?_
    | with_reducible apply startPke_keeps
    | with_reducible apply Keeps.ite
    | with_reducible apply Keeps.foldl
    | with_reducible apply KeepsP.ite
    | with_reducible apply KeepsP.foldl
    | split
    | with_reducible apply Keeps.snd
    | with_reducible apply KeepsP.pair

theorem execEcdsaVerifyExt_keeps (r : Run) {s : State} (hs : Keeps q w s) : KeepsR q w (execEcdsaVerifyExt r s) := by
  unfold execEcdsaVerifyExt
  try dsimp only
  repeat' first
    | with_reducible assumption
    | intro _
    | with_reducible apply goEcdsaVerifyExt_keeps
    | with_reducible apply checked_keeps
    | with_reducible apply Keeps.ite
    | with_reducible apply Keeps.foldl
    | with_reducible apply KeepsR.next
    | with_reducible apply KeepsR.ite
    | split

theorem goEcdhDerive_keeps (r : Run) {s : State} (t : TagEntry) (hs : Keeps q w s) : Keeps q w (goEcdhDerive r s t) := by
  unfold goEcdhDerive
  try dsimp only
  repeat' first
    | with_reducible assumption
    | intro _
    | refine Keeps.eqP (by with_reducible assumption) ?_
    | with_reducible apply startPke_keeps
    | with_reducible apply whenRoom_keeps
    | with_reducible apply useKey_keeps
    | with_reducible apply blindTile_keeps
    | with_reducible apply ecBlinding_keeps
    | with_reducible apply Keeps.ite
    | with_reducible apply Keeps.foldl
    | with_reducible apply KeepsP.ite
    | with_reducible apply KeepsP.foldl
    | split
    | with_reducible apply Keeps.snd
    | with_reducible apply KeepsP.pair

theorem execEcdhDerive_keeps (r : Run) {s : State} (hs : Keeps q w s) : KeepsR q w (execEcdhDerive r s) := by
  unfold execEcdhDerive
  try dsimp only
  repeat' first
    | with_reducible assumption
    | intro _
    | with_reducible apply goEcdhDerive_keeps
    | with_reducible apply checked_keeps
    | with_reducible apply Keeps.ite
    | with_reducible apply Keeps.foldl
    | with_reducible apply KeepsR.next
    | with_reducible apply KeepsR.ite
    | split

theorem goRsaSign_keeps (r : Run) {s : State} (t : TagEntry) (hs : Keeps q w s) : Keeps q w (goRsaSign r s t) := by
  unfold goRsaSign
  try dsimp only
  repeat' first
    | with_reducible assumption
    | intro _
    | refine Keeps.eqP (by with_reducible assumption) ?_
    | with_reducible apply startPke_keeps
    | with_reducible apply useKey_keeps
    | with_reducible apply blindTile_keeps
    | with_reducible apply rsaBlinding_keeps
    | with_reducible apply drawBytes_keeps
    | with_reducible apply Keeps.ite
    | with_reducible apply Keeps.foldl
    | with_reducible apply KeepsP.ite
    | with_reducible apply KeepsP.foldl
    | split
    | with_reducible apply Keeps.snd
    | with_reducible apply KeepsP.pair

theorem execRsaSign_keeps (r : Run) {s : State} (hs : Keeps q w s) : KeepsR q w (execRsaSign r s) := by
  unfold execRsaSign
  try dsimp only
  repeat' first
    | with_reducible assumption
    | intro _
    | with_reducible apply goRsaSign_keeps
    | with_reducible apply checked_keeps
    | with_reducible apply Keeps.ite
    | with_reducible apply Keeps.foldl
    | with_reducible apply KeepsR.next
    | with_reducible apply KeepsR.ite
    | split

theorem goRsaVerify_keeps (r : Run) {s : State} (t : TagEntry) (hs : Keeps q w s) : Keeps q w (goRsaVerify r s t) := by
  unfold goRsaVerify
  try dsimp only
  repeat' first
    | with_reducible assumption
    | intro _
    | refine Keeps.eqP (by with_reducible assumption) ?_
    | with_reducible apply startPke_keeps
    | with_reducible apply useKey_keeps
    | with_reducible apply Keeps.ite
    | with_reducible apply Keeps.foldl
    | with_reducible apply KeepsP.ite
    | with_reducible apply KeepsP.foldl
    | split
    | with_reducible apply Keeps.snd
    | with_reducible apply KeepsP.pair

theorem execRsaVerify_keeps (r : Run) {s : State} (hs : Keeps q w s) : KeepsR q w (execRsaVerify r s) := by
  unfold execRsaVerify
  try dsimp only
  repeat' first
    | with_reducible assumption
    | intro _
    | with_reducible apply goRsaVerify_keeps
    | with_reducible apply checked_keeps
    | with_reducible apply Keeps.ite
    | with_reducible apply Keeps.foldl
    | with_reducible apply KeepsR.next
    | with_reducible apply KeepsR.ite
    | split

theorem goRsaEncrypt_keeps (r : Run) {s : State} (t : TagEntry) (hs : Keeps q w s) : Keeps q w (goRsaEncrypt r s t) := by
  unfold goRsaEncrypt
  try dsimp only
  repeat' first
    | with_reducible assumption
    | intro _
    | refine Keeps.eqP (by with_reducible assumption) ?_
    | with_reducible apply startPke_keeps
    | with_reducible apply useKey_keeps
    | with_reducible apply drawBytes_keeps
    | with_reducible apply Keeps.ite
    | with_reducible apply Keeps.foldl
    | with_reducible apply KeepsP.ite
    | with_reducible apply KeepsP.foldl
    | split
    | with_reducible apply Keeps.snd
    | with_reducible apply KeepsP.pair

theorem execRsaEncrypt_keeps (r : Run) {s : State} (hs : Keeps q w s) : KeepsR q w (execRsaEncrypt r s) := by
  unfold execRsaEncrypt
  try dsimp only
  repeat' first
    | with_reducible assumption
    | intro _
    | with_reducible apply goRsaEncrypt_keeps
    | with_reducible apply checked_keeps
    | with_reducible apply Keeps.ite
    | with_reducible apply Keeps.foldl
    | with_reducible apply KeepsR.next
    | with_reducible apply KeepsR.ite
    | split

theorem goRsaDecrypt_keeps (r : Run) {s : State} (t : TagEntry) (hs : Keeps q w s) : Keeps q w (goRsaDecrypt r s t) := by
  unfold goRsaDecrypt
  try dsimp only
  repeat' first
    | with_reducible assumption
    | intro _
    | refine Keeps.eqP (by with_reducible assumption) ?_
    | with_reducible apply startPke_keeps
    | with_reducible apply useKey_keeps
    | with_reducible apply blindTile_keeps
    | with_reducible apply rsaBlinding_keeps
    | with_reducible apply Keeps.ite
    | with_reducible apply Keeps.foldl
    | with_reducible apply KeepsP.ite
    | with_reducible apply KeepsP.foldl
    | split
    | with_reducible apply Keeps.snd
    | with_reducible apply KeepsP.pair

theorem execRsaDecrypt_keeps (r : Run) {s : State} (hs : Keeps q w s) : KeepsR q w (execRsaDecrypt r s) := by
  unfold execRsaDecrypt
  try dsimp only
  repeat' first
    | with_reducible assumption
    | intro _
    | with_reducible apply goRsaDecrypt_keeps
    | with_reducible apply checked_keeps
    | with_reducible apply Keeps.ite
    | with_reducible apply Keeps.foldl
    | with_reducible apply KeepsR.next
    | with_reducible apply KeepsR.ite
    | split

theorem goRsaUnwrap_keeps (r : Run) {s : State} (t : TagEntry) (hs : Keeps q w s) : Keeps q w (goRsaUnwrap r s t) := by
  unfold goRsaUnwrap
  try dsimp only
  repeat' first
    | with_reducible assumption
    | intro _
    | refine Keeps.eqP (by with_reducible assumption) ?_
    | with_reducible apply startPke_keeps
    | with_reducible apply whenRoom_keeps
    | with_reducible apply useKey_keeps
    | with_reducible apply blindTile_keeps
    | with_reducible apply rsaBlinding_keeps
    | with_reducible apply Keeps.ite
    | with_reducible apply Keeps.foldl
    | with_reducible apply KeepsP.ite
    | with_reducible apply KeepsP.foldl
    | split
    | with_reducible apply Keeps.snd
    | with_reducible apply KeepsP.pair

theorem execRsaUnwrap_keeps (r : Run) {s : State} (hs : Keeps q w s) : KeepsR q w (execRsaUnwrap r s) := by
  unfold execRsaUnwrap
  try dsimp only
  repeat' first
    | with_reducible assumption
    | intro _
    | with_reducible apply goRsaUnwrap_keeps
    | with_reducible apply checked_keeps
    | with_reducible apply Keeps.ite
    | with_reducible apply Keeps.foldl
    | with_reducible apply KeepsR.next
    | with_reducible apply KeepsR.ite
    | split

end Sys2Proof.Machine
end

