-- ==== Sys2Proof/Laws/KeepsPkeTile.lean ====
section
/-!
SUPPORT. Laws/KeepsPkeTile.lean: what the operations of PkeTile.lean keep.
-/
namespace Sys2Proof.Machine

variable {q : List Instr} {w : FuseBits}

theorem setPkeTile_keeps {s : State} (p : PkeStep) (x : PkeTile) (hs : Keeps q w s) : Keeps q w (setPkeTile s p x) := by
  unfold setPkeTile
  try dsimp only
  repeat' first
    | with_reducible assumption
    | intro _
    | with_reducible apply Keeps.ite
    | with_reducible apply Keeps.foldl
    | split
    | with_reducible apply Keeps.upd

theorem pkeStep_keeps {s : State} (p : PkeStep) (f : PkeTile → PkeTile) (hs : Keeps q w s) : KeepsR q w (pkeStep s p f) := by
  unfold pkeStep
  try dsimp only
  repeat' first
    | with_reducible assumption
    | intro _
    | with_reducible apply setPkeTile_keeps
    | with_reducible apply Keeps.ite
    | with_reducible apply Keeps.foldl
    | with_reducible apply KeepsR.next
    | with_reducible apply KeepsR.ite
    | split

theorem pkeStepT_keeps {s : State} (p : PkeStep) (f : TagEntry → PkeTile → State → PkeTile × State) (hs : Keeps q w s) (hf : ∀ x0 x1 x2, Keeps q w x2 → KeepsP q w (f x0 x1 x2)) : KeepsR q w (pkeStepT s p f) := by
  unfold pkeStepT
  try dsimp only
  repeat' first
    | with_reducible assumption
    | intro _
    | refine Keeps.eqP (by with_reducible assumption) ?_
    | with_reducible apply hf
    | with_reducible apply setPkeTile_keeps
    | with_reducible apply Keeps.ite
    | with_reducible apply Keeps.foldl
    | with_reducible apply KeepsR.next
    | with_reducible apply KeepsR.ite
    | with_reducible apply KeepsP.ite
    | with_reducible apply KeepsP.foldl
    | split
    | with_reducible apply Keeps.snd
    | with_reducible apply KeepsP.pair

theorem pkeStepS_keeps {s : State} (p : PkeStep) (f : PkeTile → State → PkeTile × State) (hs : Keeps q w s) (hf : ∀ x0 x1, Keeps q w x1 → KeepsP q w (f x0 x1)) : KeepsR q w (pkeStepS s p f) := by
  unfold pkeStepS
  try dsimp only
  repeat' first
    | with_reducible assumption
    | intro _
    | refine Keeps.eqP (by with_reducible assumption) ?_
    | with_reducible apply hf
    | with_reducible apply pkeStepT_keeps
    | with_reducible apply Keeps.ite
    | with_reducible apply Keeps.foldl
    | with_reducible apply KeepsR.next
    | with_reducible apply KeepsR.ite
    | with_reducible apply KeepsP.ite
    | with_reducible apply KeepsP.foldl
    | split
    | with_reducible apply Keeps.snd
    | with_reducible apply KeepsP.pair

theorem execMmul_keeps (p : PkeStep) {s : State} (hs : Keeps q w s) : KeepsR q w (execMmul p s) := by
  unfold execMmul
  try dsimp only
  repeat' first
    | with_reducible assumption
    | intro _
    | with_reducible apply pkeStep_keeps
    | with_reducible apply Keeps.ite
    | with_reducible apply Keeps.foldl
    | with_reducible apply KeepsR.next
    | with_reducible apply KeepsR.ite
    | split

theorem execMsqr_keeps (p : PkeStep) {s : State} (hs : Keeps q w s) : KeepsR q w (execMsqr p s) := by
  unfold execMsqr
  try dsimp only
  repeat' first
    | with_reducible assumption
    | intro _
    | with_reducible apply pkeStep_keeps
    | with_reducible apply Keeps.ite
    | with_reducible apply Keeps.foldl
    | with_reducible apply KeepsR.next
    | with_reducible apply KeepsR.ite
    | split

theorem execMadd_keeps (p : PkeStep) {s : State} (hs : Keeps q w s) : KeepsR q w (execMadd p s) := by
  unfold execMadd
  try dsimp only
  repeat' first
    | with_reducible assumption
    | intro _
    | with_reducible apply pkeStep_keeps
    | with_reducible apply Keeps.ite
    | with_reducible apply Keeps.foldl
    | with_reducible apply KeepsR.next
    | with_reducible apply KeepsR.ite
    | split

theorem execMsub_keeps (p : PkeStep) {s : State} (hs : Keeps q w s) : KeepsR q w (execMsub p s) := by
  unfold execMsub
  try dsimp only
  repeat' first
    | with_reducible assumption
    | intro _
    | with_reducible apply pkeStep_keeps
    | with_reducible apply Keeps.ite
    | with_reducible apply Keeps.foldl
    | with_reducible apply KeepsR.next
    | with_reducible apply KeepsR.ite
    | split

theorem execMred_keeps (p : PkeStep) {s : State} (hs : Keeps q w s) : KeepsR q w (execMred p s) := by
  unfold execMred
  try dsimp only
  repeat' first
    | with_reducible assumption
    | intro _
    | with_reducible apply pkeStep_keeps
    | with_reducible apply Keeps.ite
    | with_reducible apply Keeps.foldl
    | with_reducible apply KeepsR.next
    | with_reducible apply KeepsR.ite
    | split

theorem execSetmod_keeps (p : PkeStep) {s : State} (hs : Keeps q w s) : KeepsR q w (execSetmod p s) := by
  unfold execSetmod
  try dsimp only
  repeat' first
    | with_reducible assumption
    | intro _
    | with_reducible apply pkeStep_keeps
    | with_reducible apply Keeps.ite
    | with_reducible apply Keeps.foldl
    | with_reducible apply KeepsR.next
    | with_reducible apply KeepsR.ite
    | split
    | with_reducible apply Keeps.upd

theorem execPkeCsel_keeps (p : PkeStep) {s : State} (hs : Keeps q w s) : KeepsR q w (execPkeCsel p s) := by
  unfold execPkeCsel
  try dsimp only
  repeat' first
    | with_reducible assumption
    | intro _
    | with_reducible apply pkeStep_keeps
    | with_reducible apply Keeps.ite
    | with_reducible apply Keeps.foldl
    | with_reducible apply KeepsR.next
    | with_reducible apply KeepsR.ite
    | split

theorem execPkeCeq_keeps (p : PkeStep) {s : State} (hs : Keeps q w s) : KeepsR q w (execPkeCeq p s) := by
  unfold execPkeCeq
  try dsimp only
  repeat' first
    | with_reducible assumption
    | intro _
    | with_reducible apply pkeStep_keeps
    | with_reducible apply Keeps.ite
    | with_reducible apply Keeps.foldl
    | with_reducible apply KeepsR.next
    | with_reducible apply KeepsR.ite
    | split

theorem execCrange_keeps (p : PkeStep) {s : State} (hs : Keeps q w s) : KeepsR q w (execCrange p s) := by
  unfold execCrange
  try dsimp only
  repeat' first
    | with_reducible assumption
    | intro _
    | with_reducible apply pkeStep_keeps
    | with_reducible apply Keeps.ite
    | with_reducible apply Keeps.foldl
    | with_reducible apply KeepsR.next
    | with_reducible apply KeepsR.ite
    | split

theorem execAndf_keeps (p : PkeStep) {s : State} (hs : Keeps q w s) : KeepsR q w (execAndf p s) := by
  unfold execAndf
  try dsimp only
  repeat' first
    | with_reducible assumption
    | intro _
    | with_reducible apply pkeStep_keeps
    | with_reducible apply Keeps.ite
    | with_reducible apply Keeps.foldl
    | with_reducible apply KeepsR.next
    | with_reducible apply KeepsR.ite
    | split

theorem execPkeMove_keeps (p : PkeStep) {s : State} (hs : Keeps q w s) : KeepsR q w (execPkeMove p s) := by
  unfold execPkeMove
  try dsimp only
  repeat' first
    | with_reducible assumption
    | intro _
    | with_reducible apply pkeStep_keeps
    | with_reducible apply Keeps.ite
    | with_reducible apply Keeps.foldl
    | with_reducible apply KeepsR.next
    | with_reducible apply KeepsR.ite
    | split

theorem execMinv_keeps (p : PkeStep) {s : State} (hs : Keeps q w s) : KeepsR q w (execMinv p s) := by
  unfold execMinv
  try dsimp only
  repeat' first
    | with_reducible assumption
    | intro _
    | with_reducible apply pkeStep_keeps
    | with_reducible apply Keeps.ite
    | with_reducible apply Keeps.foldl
    | with_reducible apply KeepsR.next
    | with_reducible apply KeepsR.ite
    | split

theorem pointStep_keeps {s : State} (p : PkeStep) (f : Curve → PkeTile → Pt) (g : PkeTile → PkeTile := id) (hs : Keeps q w s) : KeepsR q w (pointStep s p f g) := by
  unfold pointStep
  try dsimp only
  repeat' first
    | with_reducible assumption
    | intro _
    | refine Keeps.eqP (by with_reducible assumption) ?_
    | with_reducible apply pkeStepS_keeps
    | with_reducible apply draw_keeps
    | with_reducible apply Keeps.ite
    | with_reducible apply Keeps.foldl
    | with_reducible apply KeepsR.next
    | with_reducible apply KeepsR.ite
    | with_reducible apply KeepsP.ite
    | with_reducible apply KeepsP.foldl
    | split
    | with_reducible apply Keeps.snd
    | with_reducible apply KeepsP.pair

theorem execPadd_keeps (p : PkeStep) {s : State} (hs : Keeps q w s) : KeepsR q w (execPadd p s) := by
  unfold execPadd
  try dsimp only
  repeat' first
    | with_reducible assumption
    | intro _
    | with_reducible apply pointStep_keeps
    | with_reducible apply Keeps.ite
    | with_reducible apply Keeps.foldl
    | with_reducible apply KeepsR.next
    | with_reducible apply KeepsR.ite
    | split
    | with_reducible apply Keeps.upd

theorem execPaddj_keeps (p : PkeStep) {s : State} (hs : Keeps q w s) : KeepsR q w (execPaddj p s) := by
  unfold execPaddj
  try dsimp only
  repeat' first
    | with_reducible assumption
    | intro _
    | with_reducible apply pointStep_keeps
    | with_reducible apply Keeps.ite
    | with_reducible apply Keeps.foldl
    | with_reducible apply KeepsR.next
    | with_reducible apply KeepsR.ite
    | split

theorem execPdbl_keeps (p : PkeStep) {s : State} (hs : Keeps q w s) : KeepsR q w (execPdbl p s) := by
  unfold execPdbl
  try dsimp only
  repeat' first
    | with_reducible assumption
    | intro _
    | with_reducible apply pointStep_keeps
    | with_reducible apply Keeps.ite
    | with_reducible apply Keeps.foldl
    | with_reducible apply KeepsR.next
    | with_reducible apply KeepsR.ite
    | split

theorem execPvalid_keeps (p : PkeStep) {s : State} (hs : Keeps q w s) : KeepsR q w (execPvalid p s) := by
  unfold execPvalid
  try dsimp only
  repeat' first
    | with_reducible assumption
    | intro _
    | refine Keeps.eqP (by with_reducible assumption) ?_
    | with_reducible apply pkeStepT_keeps
    | with_reducible apply Keeps.ite
    | with_reducible apply Keeps.foldl
    | with_reducible apply KeepsR.next
    | with_reducible apply KeepsR.ite
    | with_reducible apply KeepsP.ite
    | with_reducible apply KeepsP.foldl
    | split
    | with_reducible apply Keeps.snd
    | with_reducible apply KeepsP.pair

theorem execSplit_keeps (p : PkeStep) {s : State} (hs : Keeps q w s) : KeepsR q w (execSplit p s) := by
  unfold execSplit
  try dsimp only
  repeat' first
    | with_reducible assumption
    | intro _
    | refine Keeps.eqP (by with_reducible assumption) ?_
    | with_reducible apply pkeStepS_keeps
    | with_reducible apply draw_keeps
    | with_reducible apply Keeps.ite
    | with_reducible apply Keeps.foldl
    | with_reducible apply KeepsR.next
    | with_reducible apply KeepsR.ite
    | with_reducible apply KeepsP.ite
    | with_reducible apply KeepsP.foldl
    | split
    | with_reducible apply Keeps.snd
    | with_reducible apply KeepsP.pair

theorem execPkeRefresh_keeps (p : PkeStep) {s : State} (hs : Keeps q w s) : KeepsR q w (execPkeRefresh p s) := by
  unfold execPkeRefresh
  try dsimp only
  repeat' first
    | with_reducible assumption
    | intro _
    | refine Keeps.eqP (by with_reducible assumption) ?_
    | with_reducible apply pkeStepS_keeps
    | with_reducible apply draw_keeps
    | with_reducible apply Keeps.ite
    | with_reducible apply Keeps.foldl
    | with_reducible apply KeepsR.next
    | with_reducible apply KeepsR.ite
    | with_reducible apply KeepsP.ite
    | with_reducible apply KeepsP.foldl
    | split
    | with_reducible apply Keeps.snd
    | with_reducible apply KeepsP.pair

theorem execPkeRand_keeps (p : PkeStep) {s : State} (hs : Keeps q w s) : KeepsR q w (execPkeRand p s) := by
  unfold execPkeRand
  try dsimp only
  repeat' first
    | with_reducible assumption
    | intro _
    | refine Keeps.eqP (by with_reducible assumption) ?_
    | with_reducible apply pkeStepT_keeps
    | with_reducible apply stepDrew_keeps
    | with_reducible apply drbgBits_keeps
    | with_reducible apply Keeps.ite
    | with_reducible apply Keeps.foldl
    | with_reducible apply KeepsR.next
    | with_reducible apply KeepsR.ite
    | with_reducible apply KeepsP.ite
    | with_reducible apply KeepsP.foldl
    | split
    | with_reducible apply Keeps.snd
    | with_reducible apply KeepsP.pair

theorem execSblind_keeps (p : PkeStep) {s : State} (hs : Keeps q w s) : KeepsR q w (execSblind p s) := by
  unfold execSblind
  try dsimp only
  repeat' first
    | with_reducible assumption
    | intro _
    | with_reducible apply pkeStep_keeps
    | with_reducible apply Keeps.ite
    | with_reducible apply Keeps.foldl
    | with_reducible apply KeepsR.next
    | with_reducible apply KeepsR.ite
    | split
    | with_reducible apply Keeps.upd

theorem execMexpw_keeps (p : PkeStep) {s : State} (hs : Keeps q w s) : KeepsR q w (execMexpw p s) := by
  unfold execMexpw
  try dsimp only
  repeat' first
    | with_reducible assumption
    | intro _
    | with_reducible apply pkeStep_keeps
    | with_reducible apply Keeps.ite
    | with_reducible apply Keeps.foldl
    | with_reducible apply KeepsR.next
    | with_reducible apply KeepsR.ite
    | split
    | with_reducible apply Keeps.upd

theorem execEncode_keeps (p : PkeStep) {s : State} (hs : Keeps q w s) : KeepsR q w (execEncode p s) := by
  unfold execEncode
  try dsimp only
  repeat' first
    | with_reducible assumption
    | intro _
    | refine Keeps.eqP (by with_reducible assumption) ?_
    | with_reducible apply pkeStepT_keeps
    | with_reducible apply drawBytes_keeps
    | with_reducible apply Keeps.ite
    | with_reducible apply Keeps.foldl
    | with_reducible apply KeepsR.next
    | with_reducible apply KeepsR.ite
    | with_reducible apply KeepsP.ite
    | with_reducible apply KeepsP.foldl
    | split
    | with_reducible apply Keeps.snd
    | with_reducible apply KeepsP.pair

theorem execDecode_keeps (p : PkeStep) {s : State} (hs : Keeps q w s) : KeepsR q w (execDecode p s) := by
  unfold execDecode
  try dsimp only
  repeat' first
    | with_reducible assumption
    | intro _
    | with_reducible apply pkeStep_keeps
    | with_reducible apply Keeps.ite
    | with_reducible apply Keeps.foldl
    | with_reducible apply KeepsR.next
    | with_reducible apply KeepsR.ite
    | split

theorem execPkeKcload_keeps (p : PkeStep) {s : State} (hs : Keeps q w s) : KeepsR q w (execPkeKcload p s) := by
  unfold execPkeKcload
  try dsimp only
  repeat' first
    | with_reducible assumption
    | intro _
    | refine Keeps.eqP (by with_reducible assumption) ?_
    | with_reducible apply pkeStepT_keeps
    | with_reducible apply stepLoad_keeps
    | with_reducible apply Keeps.ite
    | with_reducible apply Keeps.foldl
    | with_reducible apply KeepsR.next
    | with_reducible apply KeepsR.ite
    | with_reducible apply KeepsP.ite
    | with_reducible apply KeepsP.foldl
    | split
    | with_reducible apply Keeps.snd
    | with_reducible apply KeepsP.pair

theorem combError_keeps {s : State} (t : TagEntry) (u : Nat) (tile : Nat) (err : Nat) (hs : Keeps q w s) : Keeps q w (combError s t u tile err) := by
  unfold combError
  try dsimp only
  repeat' first
    | with_reducible assumption
    | intro _
    | with_reducible apply sramUncorrected_keeps
    | with_reducible apply faultReport_keeps
    | with_reducible apply updTag_keeps
    | with_reducible apply bump_keeps
    | with_reducible apply Keeps.ite
    | with_reducible apply Keeps.foldl
    | split
    | with_reducible apply Keeps.upd

theorem execCombrd_keeps (p : PkeStep) (err : Nat) {s : State} (hs : Keeps q w s) : KeepsR q w (execCombrd p err s) := by
  unfold execCombrd
  try dsimp only
  repeat' first
    | with_reducible assumption
    | intro _
    | refine Keeps.eqP (by with_reducible assumption) ?_
    | with_reducible apply combError_keeps
    | with_reducible apply pkeStepT_keeps
    | with_reducible apply Keeps.ite
    | with_reducible apply Keeps.foldl
    | with_reducible apply KeepsR.next
    | with_reducible apply KeepsR.ite
    | with_reducible apply KeepsP.ite
    | with_reducible apply KeepsP.foldl
    | split
    | with_reducible apply Keeps.snd
    | with_reducible apply KeepsP.pair
    | with_reducible apply Keeps.upd

theorem execVtrd_keeps (p : PkeStep) {s : State} (hs : Keeps q w s) : KeepsR q w (execVtrd p s) := by
  unfold execVtrd
  try dsimp only
  repeat' first
    | with_reducible assumption
    | intro _
    | refine Keeps.eqP (by with_reducible assumption) ?_
    | with_reducible apply pkeStepT_keeps
    | with_reducible apply flagIntegrity_keeps
    | with_reducible apply mcRead_keeps
    | with_reducible apply Keeps.ite
    | with_reducible apply Keeps.foldl
    | with_reducible apply KeepsR.next
    | with_reducible apply KeepsR.ite
    | with_reducible apply KeepsP.ite
    | with_reducible apply KeepsP.foldl
    | split
    | with_reducible apply Keeps.snd
    | with_reducible apply KeepsP.pair

theorem execPkeInrd_keeps (p : PkeStep) (bytes : Bytes) {s : State} (hs : Keeps q w s) : KeepsR q w (execPkeInrd p bytes s) := by
  unfold execPkeInrd
  try dsimp only
  repeat' first
    | with_reducible assumption
    | intro _
    | with_reducible apply pkeStep_keeps
    | with_reducible apply Keeps.ite
    | with_reducible apply Keeps.foldl
    | with_reducible apply KeepsR.next
    | with_reducible apply KeepsR.ite
    | split

theorem execPkeOutst_keeps (p : PkeStep) {s : State} (hs : Keeps q w s) : KeepsR q w (execPkeOutst p s) := by
  unfold execPkeOutst
  try dsimp only
  repeat' first
    | with_reducible assumption
    | intro _
    | with_reducible apply pkeStep_keeps
    | with_reducible apply Keeps.ite
    | with_reducible apply Keeps.foldl
    | with_reducible apply KeepsR.next
    | with_reducible apply KeepsR.ite
    | split
    | with_reducible apply Keeps.upd

theorem execKout_keeps (p : PkeStep) {s : State} (hs : Keeps q w s) : KeepsR q w (execKout p s) := by
  unfold execKout
  try dsimp only
  repeat' first
    | with_reducible assumption
    | intro _
    | with_reducible apply pkeStep_keeps
    | with_reducible apply Keeps.ite
    | with_reducible apply Keeps.foldl
    | with_reducible apply KeepsR.next
    | with_reducible apply KeepsR.ite
    | split
    | with_reducible apply Keeps.upd

theorem execHashin_keeps (p : PkeAt) (c : BitVec 12) {s : State} (hs : Keeps q w s) : KeepsR q w (execHashin p c s) := by
  unfold execHashin
  try dsimp only
  repeat' first
    | with_reducible assumption
    | intro _
    | refine Keeps.eqP (by with_reducible assumption) ?_
    | with_reducible apply pkeStepT_keeps
    | with_reducible apply Keeps.ite
    | with_reducible apply Keeps.foldl
    | with_reducible apply KeepsR.next
    | with_reducible apply KeepsR.ite
    | with_reducible apply KeepsP.ite
    | with_reducible apply KeepsP.foldl
    | split
    | with_reducible apply Keeps.snd
    | with_reducible apply KeepsP.pair

theorem execHashout_keeps (p : PkeStep) {s : State} (hs : Keeps q w s) : KeepsR q w (execHashout p s) := by
  unfold execHashout
  try dsimp only
  repeat' first
    | with_reducible assumption
    | intro _
    | with_reducible apply pkeStep_keeps
    | with_reducible apply Keeps.ite
    | with_reducible apply Keeps.foldl
    | with_reducible apply KeepsR.next
    | with_reducible apply KeepsR.ite
    | split
    | with_reducible apply Keeps.upd

theorem clearPkeTile_keeps {s : State} (unit : Nat) (tile : Nat) (hs : Keeps q w s) : Keeps q w (clearPkeTile s unit tile) := by
  unfold clearPkeTile
  try dsimp only
  repeat' first
    | with_reducible assumption
    | intro _
    | with_reducible apply Keeps.ite
    | with_reducible apply Keeps.foldl
    | split
    | with_reducible apply Keeps.upd

end Sys2Proof.Machine
end

