-- ==== Sys2Proof/Laws/KeepsPkeUnits.lean ====
section
/-!
SUPPORT. Laws/KeepsPkeUnits.lean: what the operations of PkeUnits.lean keep.
-/
namespace Sys2Proof.Machine

variable {q : List Instr} {w : FuseBits}

theorem combBuild_keeps {s : State} (u : Nat) (hs : Keeps q w s) : Keeps q w (combBuild s u) := by
  unfold combBuild
  try dsimp only
  repeat' first
    | with_reducible assumption
    | intro _
    | refine Keeps.eqP (by with_reducible assumption) ?_
    | with_reducible apply drawMany_keeps
    | with_reducible apply bump_keeps
    | with_reducible apply setF_keeps
    | with_reducible apply Keeps.ite
    | with_reducible apply Keeps.foldl
    | with_reducible apply KeepsP.ite
    | with_reducible apply KeepsP.foldl
    | split
    | with_reducible apply Keeps.snd
    | with_reducible apply KeepsP.pair
    | with_reducible apply Keeps.upd

theorem combLose_keeps {s : State} (u : Nat) (hs : Keeps q w s) : Keeps q w (combLose s u) := by
  unfold combLose
  try dsimp only
  repeat' first
    | with_reducible assumption
    | intro _
    | with_reducible apply setF_keeps
    | with_reducible apply Keeps.ite
    | with_reducible apply Keeps.foldl
    | split
    | with_reducible apply Keeps.upd

theorem combRefresh_keeps {s : State} (u : Nat) (hs : Keeps q w s) : Keeps q w (combRefresh s u) := by
  unfold combRefresh
  try dsimp only
  repeat' first
    | with_reducible assumption
    | intro _
    | with_reducible apply combLose_keeps
    | with_reducible apply combBuild_keeps
    | with_reducible apply setF_keeps
    | with_reducible apply Keeps.ite
    | with_reducible apply Keeps.foldl
    | split

theorem execPkecCombRefresh_keeps (cluster : Fin 16) {s : State} (hs : Keeps q w s) : KeepsR q w (execPkecCombRefresh cluster s) := by
  unfold execPkecCombRefresh
  try dsimp only
  repeat' first
    | with_reducible assumption
    | intro _
    | with_reducible apply setF_keeps
    | with_reducible apply Keeps.ite
    | with_reducible apply Keeps.foldl
    | with_reducible apply KeepsR.next
    | with_reducible apply KeepsR.ite
    | split

theorem execCombRebuild_keeps (cluster : Fin 16) {s : State} (hs : Keeps q w s) : KeepsR q w (execCombRebuild cluster s) := by
  unfold execCombRebuild
  try dsimp only
  repeat' first
    | with_reducible assumption
    | intro _
    | with_reducible apply combRefresh_keeps
    | with_reducible apply Keeps.ite
    | with_reducible apply Keeps.foldl
    | with_reducible apply KeepsR.next
    | with_reducible apply KeepsR.ite
    | split

theorem amended_keeps {s : State} (hs : Keeps q w s) : Keeps q w (amended s) := by
  unfold amended
  try dsimp only
  repeat' first
    | with_reducible assumption
    | intro _
    | with_reducible apply rekeyMask_keeps
    | with_reducible apply applyAmend_keeps
    | with_reducible apply Keeps.ite
    | with_reducible apply Keeps.foldl
    | split

theorem execPkecSelftest_keeps (cluster : Fin 16) (v : W32) {s : State} (hs : Keeps q w s) : KeepsR q w (execPkecSelftest cluster v s) := by
  unfold execPkecSelftest
  try dsimp only
  repeat' first
    | with_reducible assumption
    | intro _
    | with_reducible apply scfDrop_keeps
    | with_reducible apply writeReg_keeps
    | with_reducible apply setF_keeps
    | with_reducible apply Keeps.ite
    | with_reducible apply Keeps.foldl
    | with_reducible apply KeepsR.next
    | with_reducible apply KeepsR.ite
    | split

theorem execPkeSelftestEnd_keeps (cluster : Fin 16) (pass : Bool) {s : State} (hs : Keeps q w s) : KeepsR q w (execPkeSelftestEnd cluster pass s) := by
  unfold execPkeSelftestEnd
  try dsimp only
  repeat' first
    | with_reducible assumption
    | intro _
    | with_reducible apply faultReport_keeps
    | with_reducible apply scfTested_keeps
    | with_reducible apply setF_keeps
    | with_reducible apply Keeps.ite
    | with_reducible apply Keeps.foldl
    | with_reducible apply KeepsR.next
    | with_reducible apply KeepsR.ite
    | split

theorem paramBlock_keeps {s : State} (a : Nat) (hs : Keeps q w s) : KeepsP q w (paramBlock s a) := by
  unfold paramBlock
  try dsimp only
  repeat' first
    | with_reducible assumption
    | intro _
    | refine Keeps.eqP (by with_reducible assumption) ?_
    | with_reducible apply masterRead_keeps
    | with_reducible apply Keeps.ite
    | with_reducible apply Keeps.foldl
    | with_reducible apply KeepsP.ite
    | with_reducible apply KeepsP.foldl
    | split
    | with_reducible apply Keeps.snd
    | with_reducible apply KeepsP.pair

theorem spkeGo_keeps {s : State} (op : Nat) (slot : Nat) (hs : Keeps q w s) : Keeps q w (spkeGo s op slot) := by
  unfold spkeGo
  try dsimp only
  repeat' first
    | with_reducible assumption
    | intro _
    | refine Keeps.eqP (by with_reducible assumption) ?_
    | with_reducible apply paramBlock_keeps
    | with_reducible apply setF_keeps
    | with_reducible apply Keeps.ite
    | with_reducible apply Keeps.foldl
    | with_reducible apply KeepsP.ite
    | with_reducible apply KeepsP.foldl
    | split
    | with_reducible apply Keeps.snd
    | with_reducible apply KeepsP.pair
    | with_reducible apply Keeps.upd

theorem execSpkeSign_keeps (slot : Fin 16) {s : State} (hs : Keeps q w s) : KeepsR q w (execSpkeSign slot s) := by
  unfold execSpkeSign
  try dsimp only
  repeat' first
    | with_reducible assumption
    | intro _
    | with_reducible apply spkeGo_keeps
    | with_reducible apply Keeps.ite
    | with_reducible apply Keeps.foldl
    | with_reducible apply KeepsR.next
    | with_reducible apply KeepsR.ite
    | split

theorem execSpkeVerify_keeps (slot : Fin 16) {s : State} (hs : Keeps q w s) : KeepsR q w (execSpkeVerify slot s) := by
  unfold execSpkeVerify
  try dsimp only
  repeat' first
    | with_reducible assumption
    | intro _
    | with_reducible apply spkeGo_keeps
    | with_reducible apply Keeps.ite
    | with_reducible apply Keeps.foldl
    | with_reducible apply KeepsR.next
    | with_reducible apply KeepsR.ite
    | split

theorem execSpkePublicPoint_keeps (slot : Fin 16) {s : State} (hs : Keeps q w s) : KeepsR q w (execSpkePublicPoint slot s) := by
  unfold execSpkePublicPoint
  try dsimp only
  repeat' first
    | with_reducible assumption
    | intro _
    | with_reducible apply spkeGo_keeps
    | with_reducible apply Keeps.ite
    | with_reducible apply Keeps.foldl
    | with_reducible apply KeepsR.next
    | with_reducible apply KeepsR.ite
    | split

theorem spkeSign_keeps {s : State} (key : Bytes) (dig : Bytes) (hs : Keeps q w s) : KeepsP q w (spkeSign s key dig) := by
  unfold spkeSign
  try dsimp only
  repeat' first
    | with_reducible assumption
    | intro _
    | refine Keeps.eqP (by with_reducible assumption) ?_
    | with_reducible apply draw_keeps
    | with_reducible apply Keeps.ite
    | with_reducible apply Keeps.foldl
    | with_reducible apply KeepsP.ite
    | with_reducible apply KeepsP.foldl
    | split
    | with_reducible apply Keeps.snd
    | with_reducible apply KeepsP.pair

theorem execSpkeOperationEnd_keeps (check : Bool) {s : State} (hs : Keeps q w s) : KeepsR q w (execSpkeOperationEnd check s) := by
  unfold execSpkeOperationEnd
  try dsimp only
  repeat' first
    | with_reducible assumption
    | intro _
    | refine Keeps.eqP (by with_reducible assumption) ?_
    | with_reducible apply spkeSign_keeps
    | with_reducible apply masterWrite_keeps
    | with_reducible apply draw_keeps
    | with_reducible apply setF_keeps
    | with_reducible apply Keeps.ite
    | with_reducible apply Keeps.foldl
    | with_reducible apply KeepsR.next
    | with_reducible apply KeepsR.ite
    | with_reducible apply KeepsP.ite
    | with_reducible apply KeepsP.foldl
    | split
    | with_reducible apply Keeps.snd
    | with_reducible apply KeepsP.pair
    | with_reducible apply Keeps.upd

theorem execTokenWait_keeps (u1 : Nat) (u2 : Nat) {s : State} (hs : Keeps q w s) : KeepsR q w (execTokenWait u1 u2 s) := by
  unfold execTokenWait
  try dsimp only
  repeat' first
    | with_reducible assumption
    | intro _
    | with_reducible apply Keeps.ite
    | with_reducible apply Keeps.foldl
    | with_reducible apply KeepsR.next
    | with_reducible apply KeepsR.ite
    | split

end Sys2Proof.Machine
end

