-- ==== Sys2Proof/Laws/KeepsTagMem.lean ====
section
/-!
SUPPORT. Laws/KeepsTagMem.lean: what the operations of TagMem.lean keep.
-/
namespace Sys2Proof.Machine

variable {q : List Instr} {w : FuseBits}

theorem tagErase_keeps {s : State} (t : Nat) (hs : Keeps q w s) : Keeps q w (tagErase s t) := by
  unfold tagErase
  try dsimp only
  repeat' first
    | with_reducible assumption
    | intro _
    | with_reducible apply eraseFlash_keeps
    | with_reducible apply Keeps.ite
    | with_reducible apply Keeps.foldl
    | split

theorem tagProgram_keeps {s : State} (b : Nat) (d : Bytes) (hs : Keeps q w s) : Keeps q w (tagProgram s b d) := by
  unfold tagProgram
  try dsimp only
  repeat' first
    | with_reducible assumption
    | intro _
    | with_reducible apply programLines_keeps
    | with_reducible apply Keeps.ite
    | with_reducible apply Keeps.foldl
    | split

theorem replaceHalf_keeps {s : State} (content : Bytes) (hs : Keeps q w s) : Keeps q w (replaceHalf s content) := by
  unfold replaceHalf
  try dsimp only
  repeat' first
    | with_reducible assumption
    | intro _
    | with_reducible apply tagProgram_keeps
    | with_reducible apply tagErase_keeps
    | with_reducible apply Keeps.ite
    | with_reducible apply Keeps.foldl
    | split

theorem tagAppend_keeps {s : State} (seq : Nat) (r : Bytes) (hs : Keeps q w s) : Keeps q w (tagAppend s seq r) := by
  unfold tagAppend
  try dsimp only
  repeat' first
    | with_reducible assumption
    | intro _
    | with_reducible apply tagProgram_keeps
    | with_reducible apply tagErase_keeps
    | with_reducible apply Keeps.ite
    | with_reducible apply Keeps.foldl
    | split

end Sys2Proof.Machine
end

