-- ==== Sys2Proof/Laws/KeepsLedger.lean ====
section
/-!
SUPPORT. Laws/KeepsLedger.lean: what the operations of Ledger.lean keep.
-/
namespace Sys2Proof.Machine

variable {q : List Instr} {w : FuseBits}

theorem akSign_keeps {s : State} (b : Bytes) (hs : Keeps q w s) : KeepsP q w (akSign s b) := by
  unfold akSign
  try dsimp only
  repeat' first
    | with_reducible assumption
    | intro _
    | refine Keeps.eqP (by with_reducible assumption) ?_
    | with_reducible apply spkeSign_keeps
    | with_reducible apply drawBytes_keeps
    | with_reducible apply Keeps.ite
    | with_reducible apply Keeps.foldl
    | with_reducible apply KeepsP.ite
    | with_reducible apply KeepsP.foldl
    | split
    | with_reducible apply Keeps.snd
    | with_reducible apply KeepsP.pair

theorem makeRecord_keeps {s : State} (r : RecIn) (hs : Keeps q w s) : KeepsP q w (makeRecord s r) := by
  unfold makeRecord
  try dsimp only
  repeat' first
    | with_reducible assumption
    | intro _
    | refine Keeps.eqP (by with_reducible assumption) ?_
    | with_reducible apply akSign_keeps
    | with_reducible apply Keeps.ite
    | with_reducible apply Keeps.foldl
    | with_reducible apply KeepsP.ite
    | with_reducible apply KeepsP.foldl
    | split
    | with_reducible apply Keeps.snd
    | with_reducible apply KeepsP.pair

theorem countGaps_keeps {s : State} (n : Nat) (hs : Keeps q w s) : Keeps q w (countGaps s n) := by
  unfold countGaps
  try dsimp only
  repeat' first
    | with_reducible assumption
    | intro _
    | with_reducible apply occur_keeps
    | with_reducible apply Keeps.ite
    | with_reducible apply Keeps.foldl
    | split
    | with_reducible apply Keeps.upd

theorem ringPut_keeps {s : State} (q_ : Nat) (r : Bytes) (hs : Keeps q w s) : Keeps q w (ringPut s q_ r) := by
  unfold ringPut
  try dsimp only
  repeat' first
    | with_reducible assumption
    | intro _
    | with_reducible apply countGaps_keeps
    | with_reducible apply Keeps.ite
    | with_reducible apply Keeps.foldl
    | split
    | with_reducible apply Keeps.upd

theorem sramPut_keeps {s : State} (q_ : Nat) (r : Bytes) (hs : Keeps q w s) : Keeps q w (sramPut s q_ r) := by
  unfold sramPut
  try dsimp only
  repeat' first
    | with_reducible assumption
    | intro _
    | with_reducible apply faultReport_keeps
    | with_reducible apply Keeps.ite
    | with_reducible apply Keeps.foldl
    | split
    | with_reducible apply Keeps.upd

theorem refreshSummary_keeps {s : State} (hs : Keeps q w s) : Keeps q w (refreshSummary s) := by
  unfold refreshSummary
  try dsimp only
  repeat' first
    | with_reducible assumption
    | intro _
    | with_reducible apply replaceHalf_keeps
    | with_reducible apply setF_keeps
    | with_reducible apply Keeps.ite
    | with_reducible apply Keeps.foldl
    | split

theorem ledgerAppend_keeps {s : State} (r : RecIn) (ok : Bool) (hs : Keeps q w s) : Keeps q w (ledgerAppend s r ok) := by
  unfold ledgerAppend
  try dsimp only
  repeat' first
    | with_reducible assumption
    | intro _
    | refine Keeps.eqP (by with_reducible assumption) ?_
    | with_reducible apply refreshSummary_keeps
    | with_reducible apply sramPut_keeps
    | with_reducible apply ringPut_keeps
    | with_reducible apply makeRecord_keeps
    | with_reducible apply tagAppend_keeps
    | with_reducible apply occur_keeps
    | with_reducible apply Keeps.ite
    | with_reducible apply Keeps.foldl
    | with_reducible apply KeepsP.ite
    | with_reducible apply KeepsP.foldl
    | split
    | with_reducible apply Keeps.snd
    | with_reducible apply KeepsP.pair
    | with_reducible apply Keeps.upd

theorem issueCerts_keeps {s : State} (hs : Keeps q w s) : Keeps q w (issueCerts s) := by
  unfold issueCerts
  try dsimp only
  repeat' first
    | with_reducible assumption
    | intro _
    | refine Keeps.eqP (by with_reducible assumption) ?_
    | with_reducible apply spkeSign_keeps
    | with_reducible apply Keeps.ite
    | with_reducible apply Keeps.foldl
    | with_reducible apply KeepsP.ite
    | with_reducible apply KeepsP.foldl
    | split
    | with_reducible apply Keeps.snd
    | with_reducible apply KeepsP.pair
    | with_reducible apply Keeps.upd

theorem ledgerScan_keeps {s : State} (hs : Keeps q w s) : Keeps q w (ledgerScan s) := by
  unfold ledgerScan
  try dsimp only
  repeat' first
    | with_reducible assumption
    | intro _
    | with_reducible apply Keeps.ite
    | with_reducible apply Keeps.foldl
    | split
    | with_reducible apply Keeps.upd

end Sys2Proof.Machine
end

