-- ==== Sys2Proof/Laws/KeepsHostFlash.lean ====
section
/-!
SUPPORT. Laws/KeepsHostFlash.lean: what the operations of HostFlash.lean keep.
-/
namespace Sys2Proof.Machine

variable {q : List Instr} {w : FuseBits}

theorem setHold_keeps {s : State} (low : Bool) (hs : Keeps q w s) : Keeps q w (setHold s low) := by
  unfold setHold
  try dsimp only
  repeat' first
    | with_reducible assumption
    | intro _
    | with_reducible apply setB_keeps
    | with_reducible apply Keeps.ite
    | with_reducible apply Keeps.foldl
    | split
    | with_reducible apply Keeps.upd

theorem hostLegEnds_keeps {s : State} (hs : Keeps q w s) : Keeps q w (hostLegEnds s) := by
  unfold hostLegEnds
  try dsimp only
  repeat' first
    | with_reducible assumption
    | intro _
    | with_reducible apply deviceReset_keeps
    | with_reducible apply Keeps.ite
    | with_reducible apply Keeps.foldl
    | split
    | with_reducible apply Keeps.upd

theorem loadMap_keeps {s : State} (m : Bytes) (hs : Keeps q w s) : Keeps q w (loadMap s m) := by
  unfold loadMap
  try dsimp only
  repeat' first
    | with_reducible assumption
    | intro _
    | with_reducible apply setF_keeps
    | with_reducible apply Keeps.ite
    | with_reducible apply Keeps.foldl
    | split
    | with_reducible apply Keeps.upd

theorem execHostspiLoad_keeps {s : State} (hs : Keeps q w s) : KeepsR q w (execHostspiLoad s) := by
  unfold execHostspiLoad
  try dsimp only
  repeat' first
    | with_reducible assumption
    | intro _
    | refine Keeps.eqP (by with_reducible assumption) ?_
    | with_reducible apply loadMap_keeps
    | with_reducible apply masterRead_keeps
    | with_reducible apply whenGecko_keeps
    | with_reducible apply setF_keeps
    | with_reducible apply Keeps.ite
    | with_reducible apply Keeps.foldl
    | with_reducible apply KeepsR.next
    | with_reducible apply KeepsR.ite
    | with_reducible apply KeepsP.ite
    | with_reducible apply KeepsP.foldl
    | split
    | with_reducible apply Keeps.snd
    | with_reducible apply KeepsP.pair

theorem startPass_keeps {s : State} (prim : Nat) (rcv : Nat) (hs : Keeps q w s) : Keeps q w (startPass s prim rcv) := by
  unfold startPass
  try dsimp only
  repeat' first
    | with_reducible assumption
    | intro _
    | with_reducible apply setF_keeps
    | with_reducible apply Keeps.ite
    | with_reducible apply Keeps.foldl
    | split
    | with_reducible apply Keeps.upd

theorem execHostspiMeasure_keeps {s : State} (hs : Keeps q w s) : KeepsR q w (execHostspiMeasure s) := by
  unfold execHostspiMeasure
  try dsimp only
  repeat' first
    | with_reducible assumption
    | intro _
    | with_reducible apply startPass_keeps
    | with_reducible apply whenGecko_keeps
    | with_reducible apply setF_keeps
    | with_reducible apply Keeps.ite
    | with_reducible apply Keeps.foldl
    | with_reducible apply KeepsR.next
    | with_reducible apply KeepsR.ite
    | split
    | with_reducible apply Keeps.upd

theorem enterDigests_keeps {s : State} (mask : Nat) (copy : Nat) (f : Field) (d : List (Option Bytes)) (hs : Keeps q w s) : Keeps q w (enterDigests s mask copy f d) := by
  unfold enterDigests
  try dsimp only
  repeat' first
    | with_reducible assumption
    | intro _
    | with_reducible apply setF_keeps
    | with_reducible apply Keeps.ite
    | with_reducible apply Keeps.foldl
    | split
    | with_reducible apply Keeps.upd

theorem countHostBoot_keeps {s : State} (hs : Keeps q w s) : Keeps q w (countHostBoot s) := by
  unfold countHostBoot
  try dsimp only
  repeat' first
    | with_reducible assumption
    | intro _
    | with_reducible apply occur_keeps
    | with_reducible apply Keeps.ite
    | with_reducible apply Keeps.foldl
    | split
    | with_reducible apply Keeps.upd

theorem hostDecide_keeps {s : State} (ok : Bool) (hs : Keeps q w s) : Keeps q w (hostDecide s ok) := by
  unfold hostDecide
  try dsimp only
  repeat' first
    | with_reducible assumption
    | intro _
    | with_reducible apply countHostBoot_keeps
    | with_reducible apply hostLegEnds_keeps
    | with_reducible apply ledgerAppend_keeps
    | with_reducible apply setF_keeps
    | with_reducible apply Keeps.ite
    | with_reducible apply Keeps.foldl
    | split
    | with_reducible apply Keeps.upd

theorem passDone_keeps {s : State} (p : PassEnd) (prim : Nat) (rcv : Nat) (hs : Keeps q w s) : Keeps q w (passDone s p prim rcv) := by
  unfold passDone
  try dsimp only
  repeat' first
    | with_reducible assumption
    | intro _
    | with_reducible apply enterDigests_keeps
    | with_reducible apply setF_keeps
    | with_reducible apply Keeps.ite
    | with_reducible apply Keeps.foldl
    | split
    | with_reducible apply Keeps.upd

theorem afterPass_keeps {s : State} (ok : Bool) (hs : Keeps q w s) : Keeps q w (afterPass s ok) := by
  unfold afterPass
  try dsimp only
  repeat' first
    | with_reducible assumption
    | intro _
    | with_reducible apply hostDecide_keeps
    | with_reducible apply startPass_keeps
    | with_reducible apply Keeps.ite
    | with_reducible apply Keeps.foldl
    | split
    | with_reducible apply Keeps.upd

theorem execMeasurementPassEnd_keeps (p : PassEnd) {s : State} (hs : Keeps q w s) : KeepsR q w (execMeasurementPassEnd p s) := by
  unfold execMeasurementPassEnd
  try dsimp only
  repeat' first
    | with_reducible assumption
    | intro _
    | with_reducible apply afterPass_keeps
    | with_reducible apply passDone_keeps
    | with_reducible apply whenGecko_keeps
    | with_reducible apply Keeps.ite
    | with_reducible apply Keeps.foldl
    | with_reducible apply KeepsR.next
    | with_reducible apply KeepsR.ite
    | split

theorem execHostspiRelease_keeps {s : State} (hs : Keeps q w s) : KeepsR q w (execHostspiRelease s) := by
  unfold execHostspiRelease
  try dsimp only
  repeat' first
    | with_reducible assumption
    | intro _
    | with_reducible apply hostLegEnds_keeps
    | with_reducible apply setHold_keeps
    | with_reducible apply endPattern_keeps
    | with_reducible apply whenGecko_keeps
    | with_reducible apply setF_keeps
    | with_reducible apply Keeps.ite
    | with_reducible apply Keeps.foldl
    | with_reducible apply KeepsR.next
    | with_reducible apply KeepsR.ite
    | split
    | with_reducible apply Keeps.upd

theorem hostResetFrom_keeps {s : State} (hs : Keeps q w s) : Keeps q w (hostResetFrom s) := by
  unfold hostResetFrom
  try dsimp only
  repeat' first
    | with_reducible assumption
    | intro _
    | with_reducible apply setHold_keeps
    | with_reducible apply endPattern_keeps
    | with_reducible apply setF_keeps
    | with_reducible apply Keeps.ite
    | with_reducible apply Keeps.foldl
    | split
    | with_reducible apply Keeps.upd

theorem execHostReset_keeps (ns : Nat) {s : State} (hs : Keeps q w s) : KeepsR q w (execHostReset ns s) := by
  unfold execHostReset
  try dsimp only
  repeat' first
    | with_reducible assumption
    | intro _
    | with_reducible apply hostResetFrom_keeps
    | with_reducible apply bump_keeps
    | with_reducible apply whenGecko_keeps
    | with_reducible apply setF_keeps
    | with_reducible apply Keeps.ite
    | with_reducible apply Keeps.foldl
    | with_reducible apply KeepsR.next
    | with_reducible apply KeepsR.ite
    | split

theorem blockTrans_keeps {s : State} (t : HostTrans) (addr : Nat) (hs : Keeps q w s) : Keeps q w (blockTrans s t addr) := by
  unfold blockTrans
  try dsimp only
  repeat' first
    | with_reducible assumption
    | intro _
    | with_reducible apply bump_keeps
    | with_reducible apply setF_keeps
    | with_reducible apply Keeps.ite
    | with_reducible apply Keeps.foldl
    | split
    | with_reducible apply Keeps.upd

theorem filterTrans_keeps {s : State} (t : HostTrans) (hs : Keeps q w s) : Keeps q w (filterTrans s t) := by
  unfold filterTrans
  try dsimp only
  repeat' first
    | with_reducible assumption
    | intro _
    | with_reducible apply blockTrans_keeps
    | with_reducible apply bump_keeps
    | with_reducible apply Keeps.ite
    | with_reducible apply Keeps.foldl
    | split
    | with_reducible apply Keeps.upd

theorem execHostFlashTransaction_keeps (t : HostTrans) {s : State} (hs : Keeps q w s) : KeepsR q w (execHostFlashTransaction t s) := by
  unfold execHostFlashTransaction
  try dsimp only
  repeat' first
    | with_reducible assumption
    | intro _
    | with_reducible apply filterTrans_keeps
    | with_reducible apply tamperTrip_keeps
    | with_reducible apply whenGecko_keeps
    | with_reducible apply Keeps.ite
    | with_reducible apply Keeps.foldl
    | with_reducible apply KeepsR.next
    | with_reducible apply KeepsR.ite
    | split
    | with_reducible apply Keeps.upd

theorem openWindow_keeps {s : State} (n : Nat) (hs : Keeps q w s) : Keeps q w (openWindow s n) := by
  unfold openWindow
  try dsimp only
  repeat' first
    | with_reducible assumption
    | intro _
    | with_reducible apply setF_keeps
    | with_reducible apply Keeps.ite
    | with_reducible apply Keeps.foldl
    | split
    | with_reducible apply Keeps.upd

theorem applyAuth_keeps {s : State} (b : Bytes) (ok : Bool) (hs : Keeps q w s) : KeepsP q w (applyAuth s b ok) := by
  unfold applyAuth
  try dsimp only
  repeat' first
    | with_reducible assumption
    | intro _
    | refine Keeps.eqP (by with_reducible assumption) ?_
    | with_reducible apply openWindow_keeps
    | with_reducible apply ledgerAppend_keeps
    | with_reducible apply Keeps.ite
    | with_reducible apply Keeps.foldl
    | with_reducible apply KeepsP.ite
    | with_reducible apply KeepsP.foldl
    | split
    | with_reducible apply Keeps.snd
    | with_reducible apply KeepsP.pair
    | with_reducible apply Keeps.upd

end Sys2Proof.Machine
end

