-- ==== Sys2Proof/Laws/KeepsBootCmds.lean ====
section
/-!
SUPPORT. Laws/KeepsBootCmds.lean: what the operations of BootCmds.lean keep.
-/
namespace Sys2Proof.Machine

variable {q : List Instr} {w : FuseBits}

theorem goLedgerRead_keeps (r : Run) {s : State} (t : TagEntry) (hs : Keeps q w s) : Keeps q w (goLedgerRead r s t) := by
  unfold goLedgerRead
  try dsimp only
  repeat' first
    | with_reducible assumption
    | intro _
    | refine Keeps.eqP (by with_reducible assumption) ?_
    | with_reducible apply startOn_keeps
    | with_reducible apply Keeps.ite
    | with_reducible apply Keeps.foldl
    | with_reducible apply KeepsP.ite
    | with_reducible apply KeepsP.foldl
    | split
    | with_reducible apply Keeps.snd
    | with_reducible apply KeepsP.pair

theorem execLedgerRead_keeps (r : Run) {s : State} (hs : Keeps q w s) : KeepsR q w (execLedgerRead r s) := by
  unfold execLedgerRead
  try dsimp only
  repeat' first
    | with_reducible assumption
    | intro _
    | with_reducible apply goLedgerRead_keeps
    | with_reducible apply checked_keeps
    | with_reducible apply Keeps.ite
    | with_reducible apply Keeps.foldl
    | with_reducible apply KeepsR.next
    | with_reducible apply KeepsR.ite
    | split

theorem goLedgerStatus_keeps (r : Run) {s : State} (t : TagEntry) (hs : Keeps q w s) : Keeps q w (goLedgerStatus r s t) := by
  unfold goLedgerStatus
  try dsimp only
  repeat' first
    | with_reducible assumption
    | intro _
    | refine Keeps.eqP (by with_reducible assumption) ?_
    | with_reducible apply startOn_keeps
    | with_reducible apply Keeps.ite
    | with_reducible apply Keeps.foldl
    | with_reducible apply KeepsP.ite
    | with_reducible apply KeepsP.foldl
    | split
    | with_reducible apply Keeps.snd
    | with_reducible apply KeepsP.pair

theorem execLedgerStatus_keeps (r : Run) {s : State} (hs : Keeps q w s) : KeepsR q w (execLedgerStatus r s) := by
  unfold execLedgerStatus
  try dsimp only
  repeat' first
    | with_reducible assumption
    | intro _
    | with_reducible apply goLedgerStatus_keeps
    | with_reducible apply checked_keeps
    | with_reducible apply Keeps.ite
    | with_reducible apply Keeps.foldl
    | with_reducible apply KeepsR.next
    | with_reducible apply KeepsR.ite
    | split

theorem makeQuote_keeps {s : State} (nonce : Bytes) (hs : Keeps q w s) : KeepsP q w (makeQuote s nonce) := by
  unfold makeQuote
  try dsimp only
  repeat' first
    | with_reducible assumption
    | intro _
    | refine Keeps.eqP (by with_reducible assumption) ?_
    | with_reducible apply akSign_keeps
    | with_reducible apply Keeps.ite
    | with_reducible apply Keeps.foldl
    | with_reducible apply KeepsP.ite
    | with_reducible apply KeepsP.foldl
    | split
    | with_reducible apply Keeps.snd
    | with_reducible apply KeepsP.pair

theorem goAttestQuote_keeps (r : Run) {s : State} (t : TagEntry) (hs : Keeps q w s) : Keeps q w (goAttestQuote r s t) := by
  unfold goAttestQuote
  try dsimp only
  repeat' first
    | with_reducible assumption
    | intro _
    | refine Keeps.eqP (by with_reducible assumption) ?_
    | with_reducible apply makeQuote_keeps
    | with_reducible apply startOn_keeps
    | with_reducible apply Keeps.ite
    | with_reducible apply Keeps.foldl
    | with_reducible apply KeepsP.ite
    | with_reducible apply KeepsP.foldl
    | split
    | with_reducible apply Keeps.snd
    | with_reducible apply KeepsP.pair

theorem execAttestQuote_keeps (r : Run) {s : State} (hs : Keeps q w s) : KeepsR q w (execAttestQuote r s) := by
  unfold execAttestQuote
  try dsimp only
  repeat' first
    | with_reducible assumption
    | intro _
    | with_reducible apply goAttestQuote_keeps
    | with_reducible apply checked_keeps
    | with_reducible apply Keeps.ite
    | with_reducible apply Keeps.foldl
    | with_reducible apply KeepsR.next
    | with_reducible apply KeepsR.ite
    | split

theorem goCertRead_keeps (r : Run) {s : State} (t : TagEntry) (hs : Keeps q w s) : Keeps q w (goCertRead r s t) := by
  unfold goCertRead
  try dsimp only
  repeat' first
    | with_reducible assumption
    | intro _
    | refine Keeps.eqP (by with_reducible assumption) ?_
    | with_reducible apply startOn_keeps
    | with_reducible apply Keeps.ite
    | with_reducible apply Keeps.foldl
    | with_reducible apply KeepsP.ite
    | with_reducible apply KeepsP.foldl
    | split
    | with_reducible apply Keeps.snd
    | with_reducible apply KeepsP.pair

theorem execCertRead_keeps (r : Run) {s : State} (hs : Keeps q w s) : KeepsR q w (execCertRead r s) := by
  unfold execCertRead
  try dsimp only
  repeat' first
    | with_reducible assumption
    | intro _
    | with_reducible apply goCertRead_keeps
    | with_reducible apply checked_keeps
    | with_reducible apply Keeps.ite
    | with_reducible apply Keeps.foldl
    | with_reducible apply KeepsR.next
    | with_reducible apply KeepsR.ite
    | split

theorem goHostFlashAuth_keeps (r : Run) {s : State} (t : TagEntry) (hs : Keeps q w s) : Keeps q w (goHostFlashAuth r s t) := by
  unfold goHostFlashAuth
  try dsimp only
  repeat' first
    | with_reducible assumption
    | intro _
    | refine Keeps.eqP (by with_reducible assumption) ?_
    | with_reducible apply startOn_keeps
    | with_reducible apply Keeps.ite
    | with_reducible apply Keeps.foldl
    | with_reducible apply KeepsP.ite
    | with_reducible apply KeepsP.foldl
    | split
    | with_reducible apply Keeps.snd
    | with_reducible apply KeepsP.pair

theorem execHostFlashAuth_keeps (r : Run) {s : State} (hs : Keeps q w s) : KeepsR q w (execHostFlashAuth r s) := by
  unfold execHostFlashAuth
  try dsimp only
  repeat' first
    | with_reducible assumption
    | intro _
    | with_reducible apply goHostFlashAuth_keeps
    | with_reducible apply checked_keeps
    | with_reducible apply Keeps.ite
    | with_reducible apply Keeps.foldl
    | with_reducible apply KeepsR.next
    | with_reducible apply KeepsR.ite
    | split

theorem effHostFlashAuth_keeps {s : State} (b : Bytes) (ok : Bool) (out : Outcome) (hs : Keeps q w s) : KeepsL q w (effHostFlashAuth s b ok out) := by
  unfold effHostFlashAuth
  try dsimp only
  repeat' first
    | with_reducible assumption
    | intro _
    | refine Keeps.eqP (by with_reducible assumption) ?_
    | refine Keeps.eqL (by with_reducible assumption) ?_
    | with_reducible apply applyAuth_keeps
    | with_reducible apply Keeps.ite
    | with_reducible apply Keeps.foldl
    | with_reducible apply KeepsP.ite
    | with_reducible apply KeepsP.foldl
    | with_reducible apply KeepsL.ite
    | with_reducible apply KeepsL.foldl
    | split
    | with_reducible apply Keeps.snd
    | with_reducible apply KeepsP.pair
    | with_reducible apply Keeps.fst
    | with_reducible apply KeepsL.pair
    | with_reducible apply Keeps.upd

theorem goHostBootSelect_keeps (r : Run) {s : State} (t : TagEntry) (hs : Keeps q w s) : Keeps q w (goHostBootSelect r s t) := by
  unfold goHostBootSelect
  try dsimp only
  repeat' first
    | with_reducible assumption
    | intro _
    | refine Keeps.eqP (by with_reducible assumption) ?_
    | with_reducible apply startOn_keeps
    | with_reducible apply Keeps.ite
    | with_reducible apply Keeps.foldl
    | with_reducible apply KeepsP.ite
    | with_reducible apply KeepsP.foldl
    | split
    | with_reducible apply Keeps.snd
    | with_reducible apply KeepsP.pair

theorem execHostBootSelect_keeps (r : Run) {s : State} (hs : Keeps q w s) : KeepsR q w (execHostBootSelect r s) := by
  unfold execHostBootSelect
  try dsimp only
  repeat' first
    | with_reducible assumption
    | intro _
    | with_reducible apply goHostBootSelect_keeps
    | with_reducible apply checked_keeps
    | with_reducible apply Keeps.ite
    | with_reducible apply Keeps.foldl
    | with_reducible apply KeepsR.next
    | with_reducible apply KeepsR.ite
    | split

theorem effBootSelect_keeps {s : State} (v : Nat) (out : Outcome) (hs : Keeps q w s) : KeepsL q w (effBootSelect s v out) := by
  unfold effBootSelect
  try dsimp only
  repeat' first
    | with_reducible assumption
    | intro _
    | refine Keeps.eqL (by with_reducible assumption) ?_
    | with_reducible apply Keeps.ite
    | with_reducible apply Keeps.foldl
    | with_reducible apply KeepsL.ite
    | with_reducible apply KeepsL.foldl
    | split
    | with_reducible apply Keeps.fst
    | with_reducible apply KeepsL.pair
    | with_reducible apply Keeps.upd

end Sys2Proof.Machine
end

