-- ==== Sys2Proof/Laws/KeepsParams.lean ====
section
/-!
SUPPORT. Laws/KeepsParams.lean: what the operations of Params.lean keep.
-/
namespace Sys2Proof.Machine

variable {q : List Instr} {w : FuseBits}

theorem setMasked_keeps {s : State} (blk : Nat) (off : Nat) (mask : Nat) (v : Nat) (hs : Keeps q w s) : Keeps q w (setMasked s blk off mask v) := by
  unfold setMasked
  try dsimp only
  repeat' first
    | with_reducible assumption
    | intro _
    | with_reducible apply setF_keeps
    | with_reducible apply Keeps.ite
    | with_reducible apply Keeps.foldl
    | split

theorem setDefaults_keeps {s : State} (blk : Nat) (off : Nat) (hs : Keeps q w s) : Keeps q w (setDefaults s blk off) := by
  unfold setDefaults
  try dsimp only
  repeat' first
    | with_reducible assumption
    | intro _
    | with_reducible apply setF_keeps
    | with_reducible apply Keeps.ite
    | with_reducible apply Keeps.foldl
    | split

theorem applyParams_keeps {s : State} (p : Nat → Bool) (hs : Keeps q w s) : Keeps q w (applyParams s p) := by
  unfold applyParams
  try dsimp only
  repeat' first
    | with_reducible assumption
    | intro _
    | with_reducible apply setDefaults_keeps
    | with_reducible apply setMasked_keeps
    | with_reducible apply Keeps.ite
    | with_reducible apply Keeps.foldl
    | split

theorem loadGeckoParams_keeps {s : State} (hs : Keeps q w s) : Keeps q w (loadGeckoParams s) := by
  unfold loadGeckoParams
  try dsimp only
  repeat' first
    | with_reducible assumption
    | intro _
    | with_reducible apply applyParams_keeps
    | with_reducible apply Keeps.ite
    | with_reducible apply Keeps.foldl
    | split

end Sys2Proof.Machine
end

