-- ==== Sys2Proof/Laws/KeepsRngCmds.lean ====
section
/-!
SUPPORT. Laws/KeepsRngCmds.lean: what the operations of RngCmds.lean keep.
-/
namespace Sys2Proof.Machine

variable {q : List Instr} {w : FuseBits}

theorem strictStall_keeps {s : State} (hs : Keeps q w s) : Keeps q w (strictStall s) := by
  unfold strictStall
  try dsimp only
  repeat' first
    | with_reducible assumption
    | intro _
    | with_reducible apply setStalled_keeps
    | with_reducible apply Keeps.ite
    | with_reducible apply Keeps.foldl
    | split

theorem serviceRefresh_keeps {s : State} (hs : Keeps q w s) : Keeps q w (serviceRefresh s) := by
  unfold serviceRefresh
  try dsimp only
  repeat' first
    | with_reducible assumption
    | intro _
    | with_reducible apply strictStall_keeps
    | with_reducible apply faultReport_keeps
    | with_reducible apply setB_keeps
    | with_reducible apply Keeps.ite
    | with_reducible apply Keeps.foldl
    | split

theorem healthFail_keeps {s : State} (n : Nat) (t : Nat) (hs : Keeps q w s) : Keeps q w (healthFail s n t) := by
  unfold healthFail
  try dsimp only
  repeat' first
    | with_reducible assumption
    | intro _
    | with_reducible apply serviceRefresh_keeps
    | with_reducible apply faultReport_keeps
    | with_reducible apply setSrc_keeps
    | with_reducible apply bump_keeps
    | with_reducible apply setF_keeps
    | with_reducible apply Keeps.ite
    | with_reducible apply Keeps.foldl
    | split
    | with_reducible apply Keeps.upd

theorem feedSource_keeps {s : State} (n : Nat) (l : List Bool) (hs : Keeps q w s) : KeepsL q w (feedSource s n l) := by
  unfold feedSource
  try dsimp only
  repeat' first
    | with_reducible assumption
    | intro _
    | refine Keeps.eqL (by with_reducible assumption) ?_
    | with_reducible apply Keeps.ite
    | with_reducible apply Keeps.foldl
    | with_reducible apply KeepsL.ite
    | with_reducible apply KeepsL.foldl
    | split
    | with_reducible apply Keeps.fst
    | with_reducible apply KeepsL.pair
    | with_reducible apply Keeps.upd

theorem execSeedBlock_keeps (raw0 : BitVec 2048) (raw1 : BitVec 2048) (at_ : Nat) {s : State} (hs : Keeps q w s) : KeepsR q w (execSeedBlock raw0 raw1 at_ s) := by
  unfold execSeedBlock
  try dsimp only
  repeat' first
    | with_reducible assumption
    | intro _
    | refine Keeps.eqL (by with_reducible assumption) ?_
    | with_reducible apply feedSource_keeps
    | with_reducible apply healthFail_keeps
    | with_reducible apply Keeps.ite
    | with_reducible apply Keeps.foldl
    | with_reducible apply KeepsR.next
    | with_reducible apply KeepsR.ite
    | with_reducible apply KeepsL.ite
    | with_reducible apply KeepsL.foldl
    | split
    | with_reducible apply Keeps.fst
    | with_reducible apply KeepsL.pair
    | with_reducible apply Keeps.upd

theorem execStartupTestEnd_keeps (src : Fin 2) (raw : BitVec 4096) (at_ : Nat) {s : State} (hs : Keeps q w s) : KeepsR q w (execStartupTestEnd src raw at_ s) := by
  unfold execStartupTestEnd
  try dsimp only
  repeat' first
    | with_reducible assumption
    | intro _
    | with_reducible apply healthFail_keeps
    | with_reducible apply serviceRefresh_keeps
    | with_reducible apply setSrc_keeps
    | with_reducible apply Keeps.ite
    | with_reducible apply Keeps.foldl
    | with_reducible apply KeepsR.next
    | with_reducible apply KeepsR.ite
    | split

theorem execSrcEn_keeps (v : W32) {s : State} (hs : Keeps q w s) : KeepsR q w (execSrcEn v s) := by
  unfold execSrcEn
  try dsimp only
  repeat' first
    | with_reducible assumption
    | intro _
    | with_reducible apply serviceRefresh_keeps
    | with_reducible apply setSrc_keeps
    | with_reducible apply writeReg_keeps
    | with_reducible apply Keeps.ite
    | with_reducible apply Keeps.foldl
    | with_reducible apply KeepsR.next
    | with_reducible apply KeepsR.ite
    | split

theorem execBiasWindow_keeps (src : Fin 2) (early : BitVec 16384) (late : BitVec 16384) {s : State} (hs : Keeps q w s) : KeepsR q w (execBiasWindow src early late s) := by
  unfold execBiasWindow
  try dsimp only
  repeat' first
    | with_reducible assumption
    | intro _
    | with_reducible apply setF_keeps
    | with_reducible apply Keeps.ite
    | with_reducible apply Keeps.foldl
    | with_reducible apply KeepsR.next
    | with_reducible apply KeepsR.ite
    | split

theorem execSeedDelivery_keeps {s : State} (hs : Keeps q w s) : KeepsR q w (execSeedDelivery s) := by
  unfold execSeedDelivery
  try dsimp only
  repeat' first
    | with_reducible assumption
    | intro _
    | with_reducible apply seedInst_keeps
    | with_reducible apply Keeps.ite
    | with_reducible apply Keeps.foldl
    | with_reducible apply KeepsR.next
    | with_reducible apply KeepsR.ite
    | split
    | with_reducible apply Keeps.upd

theorem execRngStall_keeps (inst : Fin 29) {s : State} (hs : Keeps q w s) : KeepsR q w (execRngStall inst s) := by
  unfold execRngStall
  try dsimp only
  repeat' first
    | with_reducible assumption
    | intro _
    | with_reducible apply faultReport_keeps
    | with_reducible apply Keeps.ite
    | with_reducible apply Keeps.foldl
    | with_reducible apply KeepsR.next
    | with_reducible apply KeepsR.ite
    | split

theorem execMaskStreamRekey_keeps (cluster : Fin 8) (tile : Fin 9) {s : State} (hs : Keeps q w s) : KeepsR q w (execMaskStreamRekey cluster tile s) := by
  unfold execMaskStreamRekey
  try dsimp only
  repeat' first
    | with_reducible assumption
    | intro _
    | with_reducible apply rekeyMask_keeps
    | with_reducible apply Keeps.ite
    | with_reducible apply Keeps.foldl
    | with_reducible apply KeepsR.next
    | with_reducible apply KeepsR.ite
    | split

theorem execRngStatusRefresh_keeps {s : State} (hs : Keeps q w s) : KeepsR q w (execRngStatusRefresh s) := by
  unfold execRngStatusRefresh
  try dsimp only
  repeat' first
    | with_reducible assumption
    | intro _
    | with_reducible apply Keeps.ite
    | with_reducible apply Keeps.foldl
    | with_reducible apply KeepsR.next
    | with_reducible apply KeepsR.ite
    | split
    | with_reducible apply Keeps.upd

theorem execRngDataRead_keeps {s : State} (hs : Keeps q w s) : KeepsR q w (execRngDataRead s) := by
  unfold execRngDataRead
  try dsimp only
  repeat' first
    | with_reducible assumption
    | intro _
    | refine Keeps.eqP (by with_reducible assumption) ?_
    | with_reducible apply drbgBits_keeps
    | with_reducible apply setF_keeps
    | with_reducible apply Keeps.ite
    | with_reducible apply Keeps.foldl
    | with_reducible apply KeepsR.next
    | with_reducible apply KeepsR.ite
    | with_reducible apply KeepsP.ite
    | with_reducible apply KeepsP.foldl
    | split
    | with_reducible apply Keeps.snd
    | with_reducible apply KeepsP.pair

theorem execRngRawRead_keeps {s : State} (hs : Keeps q w s) : KeepsR q w (execRngRawRead s) := by
  unfold execRngRawRead
  try dsimp only
  repeat' first
    | with_reducible assumption
    | intro _
    | refine Keeps.eqP (by with_reducible assumption) ?_
    | refine Keeps.eqL (by with_reducible assumption) ?_
    | with_reducible apply feedSource_keeps
    | with_reducible apply healthFail_keeps
    | with_reducible apply draw_keeps
    | with_reducible apply setF_keeps
    | with_reducible apply Keeps.ite
    | with_reducible apply Keeps.foldl
    | with_reducible apply KeepsR.next
    | with_reducible apply KeepsR.ite
    | with_reducible apply KeepsP.ite
    | with_reducible apply KeepsP.foldl
    | with_reducible apply KeepsL.ite
    | with_reducible apply KeepsL.foldl
    | split
    | with_reducible apply Keeps.snd
    | with_reducible apply KeepsP.pair
    | with_reducible apply Keeps.fst
    | with_reducible apply KeepsL.pair

theorem goRandomBytes_keeps (r : Run) {s : State} (t : TagEntry) (hs : Keeps q w s) : Keeps q w (goRandomBytes r s t) := by
  unfold goRandomBytes
  try dsimp only
  repeat' first
    | with_reducible assumption
    | intro _
    | refine Keeps.eqP (by with_reducible assumption) ?_
    | with_reducible apply startOn_keeps
    | with_reducible apply drbgOutput_keeps
    | with_reducible apply Keeps.ite
    | with_reducible apply Keeps.foldl
    | with_reducible apply KeepsP.ite
    | with_reducible apply KeepsP.foldl
    | split
    | with_reducible apply Keeps.snd
    | with_reducible apply KeepsP.pair
    | with_reducible apply Keeps.upd

theorem execRandomBytes_keeps (r : Run) {s : State} (hs : Keeps q w s) : KeepsR q w (execRandomBytes r s) := by
  unfold execRandomBytes
  try dsimp only
  repeat' first
    | with_reducible assumption
    | intro _
    | with_reducible apply goRandomBytes_keeps
    | with_reducible apply checked_keeps
    | with_reducible apply Keeps.ite
    | with_reducible apply Keeps.foldl
    | with_reducible apply KeepsR.next
    | with_reducible apply KeepsR.ite
    | split

theorem goRngStatus_keeps (r : Run) {s : State} (t : TagEntry) (hs : Keeps q w s) : Keeps q w (goRngStatus r s t) := by
  unfold goRngStatus
  try dsimp only
  repeat' first
    | with_reducible assumption
    | intro _
    | with_reducible apply commitCore_keeps
    | with_reducible apply Keeps.ite
    | with_reducible apply Keeps.foldl
    | split
    | with_reducible apply Keeps.upd

theorem execRngStatus_keeps (r : Run) {s : State} (hs : Keeps q w s) : KeepsR q w (execRngStatus r s) := by
  unfold execRngStatus
  try dsimp only
  repeat' first
    | with_reducible assumption
    | intro _
    | with_reducible apply goRngStatus_keeps
    | with_reducible apply checked_keeps
    | with_reducible apply Keeps.ite
    | with_reducible apply Keeps.foldl
    | with_reducible apply KeepsR.next
    | with_reducible apply KeepsR.ite
    | split

end Sys2Proof.Machine
end

