-- ==== Sys2Proof/Laws/KeepsPowerArb.lean ====
section
/-!
SUPPORT. Laws/KeepsPowerArb.lean: what the operations of PowerArb.lean keep.
-/
namespace Sys2Proof.Machine

variable {q : List Instr} {w : FuseBits}

theorem putGrant_keeps {s : State} (d : Nat) (dem : Nat) (grant : Nat) (hs : Keeps q w s) : Keeps q w (putGrant s d dem grant) := by
  unfold putGrant
  try dsimp only
  repeat' first
    | with_reducible assumption
    | intro _
    | with_reducible apply setF_keeps
    | with_reducible apply Keeps.ite
    | with_reducible apply Keeps.foldl
    | split

theorem putFixed_keeps {s : State} (d : Nat) (hs : Keeps q w s) : Keeps q w (putFixed s d) := by
  unfold putFixed
  try dsimp only
  repeat' first
    | with_reducible assumption
    | intro _
    | with_reducible apply setF_keeps
    | with_reducible apply Keeps.ite
    | with_reducible apply Keeps.foldl
    | split

theorem putGrants_keeps {s : State} (dem : Nat → Nat) (grant : Nat → Nat) (hs : Keeps q w s) : Keeps q w (putGrants s dem grant) := by
  unfold putGrants
  try dsimp only
  repeat' first
    | with_reducible assumption
    | intro _
    | with_reducible apply putFixed_keeps
    | with_reducible apply putGrant_keeps
    | with_reducible apply Keeps.ite
    | with_reducible apply Keeps.foldl
    | split

theorem loadGrants_keeps {s : State} (hs : Keeps q w s) : Keeps q w (loadGrants s) := by
  unfold loadGrants
  try dsimp only
  repeat' first
    | with_reducible assumption
    | intro _
    | with_reducible apply putGrants_keeps
    | with_reducible apply showCap_keeps
    | with_reducible apply Keeps.ite
    | with_reducible apply Keeps.foldl
    | split

theorem execGrantCycle_keeps (demands : List (Nat × Nat)) {s : State} (hs : Keeps q w s) : KeepsR q w (execGrantCycle demands s) := by
  unfold execGrantCycle
  try dsimp only
  repeat' first
    | with_reducible assumption
    | intro _
    | with_reducible apply putGrants_keeps
    | with_reducible apply whenLandau_keeps
    | with_reducible apply setF_keeps
    | with_reducible apply Keeps.ite
    | with_reducible apply Keeps.foldl
    | with_reducible apply KeepsR.next
    | with_reducible apply KeepsR.ite
    | split

theorem execGrantRefreshLoss_keeps (d : Fin 48) {s : State} (hs : Keeps q w s) : KeepsR q w (execGrantRefreshLoss d s) := by
  unfold execGrantRefreshLoss
  try dsimp only
  repeat' first
    | with_reducible assumption
    | intro _
    | with_reducible apply putGrant_keeps
    | with_reducible apply whenLandau_keeps
    | with_reducible apply setF_keeps
    | with_reducible apply Keeps.ite
    | with_reducible apply Keeps.foldl
    | with_reducible apply KeepsR.next
    | with_reducible apply KeepsR.ite
    | split

theorem quietWindow_keeps {s : State} (hs : Keeps q w s) : Keeps q w (quietWindow s) := by
  unfold quietWindow
  try dsimp only
  repeat' first
    | with_reducible assumption
    | intro _
    | with_reducible apply Keeps.ite
    | with_reducible apply Keeps.foldl
    | split
    | with_reducible apply Keeps.upd

theorem overWindow_keeps {s : State} (hs : Keeps q w s) : Keeps q w (overWindow s) := by
  unfold overWindow
  try dsimp only
  repeat' first
    | with_reducible assumption
    | intro _
    | with_reducible apply bump_keeps
    | with_reducible apply setF_keeps
    | with_reducible apply Keeps.ite
    | with_reducible apply Keeps.foldl
    | split
    | with_reducible apply Keeps.upd

theorem execPowerWindow_keeps (deci : Nat) {s : State} (hs : Keeps q w s) : KeepsR q w (execPowerWindow deci s) := by
  unfold execPowerWindow
  try dsimp only
  repeat' first
    | with_reducible assumption
    | intro _
    | with_reducible apply overWindow_keeps
    | with_reducible apply quietWindow_keeps
    | with_reducible apply showCap_keeps
    | with_reducible apply whenGecko_keeps
    | with_reducible apply setF_keeps
    | with_reducible apply Keeps.ite
    | with_reducible apply Keeps.foldl
    | with_reducible apply KeepsR.next
    | with_reducible apply KeepsR.ite
    | split

theorem execThermalReading_keeps (landau : List (Fin 50 × BitVec 8)) (gecko : List (BitVec 8)) (hbms : List (BitVec 8)) {s : State} (hs : Keeps q w s) : KeepsR q w (execThermalReading landau gecko hbms s) := by
  unfold execThermalReading
  try dsimp only
  repeat' first
    | with_reducible assumption
    | intro _
    | with_reducible apply setStage_keeps
    | with_reducible apply whenGecko_keeps
    | with_reducible apply setF_keeps
    | with_reducible apply Keeps.ite
    | with_reducible apply Keeps.foldl
    | with_reducible apply KeepsR.next
    | with_reducible apply KeepsR.ite
    | split
    | with_reducible apply Keeps.upd

theorem domainLose_keeps {s : State} (d : Nat) (hs : Keeps q w s) : Keeps q w (domainLose s d) := by
  unfold domainLose
  try dsimp only
  repeat' first
    | with_reducible assumption
    | intro _
    | with_reducible apply Keeps.ite
    | with_reducible apply Keeps.foldl
    | split
    | with_reducible apply Keeps.upd

theorem switchDomain_keeps {s : State} (d : Nat) (on : Bool) (hs : Keeps q w s) : Keeps q w (switchDomain s d on) := by
  unfold switchDomain
  try dsimp only
  repeat' first
    | with_reducible assumption
    | intro _
    | with_reducible apply domainLose_keeps
    | with_reducible apply applyParams_keeps
    | with_reducible apply setDomainOn_keeps
    | with_reducible apply endPattern_keeps
    | with_reducible apply loadDebugFuse_keeps
    | with_reducible apply resetRegs_keeps
    | with_reducible apply Keeps.ite
    | with_reducible apply Keeps.foldl
    | split

theorem execPwrarbDomctrl_keeps (v : W32) {s : State} (hs : Keeps q w s) : KeepsR q w (execPwrarbDomctrl v s) := by
  unfold execPwrarbDomctrl
  try dsimp only
  repeat' first
    | with_reducible assumption
    | intro _
    | with_reducible apply switchDomain_keeps
    | with_reducible apply whenGecko_keeps
    | with_reducible apply setF_keeps
    | with_reducible apply Keeps.ite
    | with_reducible apply Keeps.foldl
    | with_reducible apply KeepsR.next
    | with_reducible apply KeepsR.ite
    | split

theorem rekeyCluster_keeps {s : State} (u : Nat) (hs : Keeps q w s) : Keeps q w (rekeyCluster s u) := by
  unfold rekeyCluster
  try dsimp only
  repeat' first
    | with_reducible assumption
    | intro _
    | with_reducible apply rekeyMask_keeps
    | with_reducible apply Keeps.ite
    | with_reducible apply Keeps.foldl
    | split

theorem clusterUp_keeps {s : State} (d : Nat) (hs : Keeps q w s) : Keeps q w (clusterUp s d) := by
  unfold clusterUp
  try dsimp only
  repeat' first
    | with_reducible assumption
    | intro _
    | with_reducible apply rekeyCluster_keeps
    | with_reducible apply combBuild_keeps
    | with_reducible apply setDomainOn_keeps
    | with_reducible apply instantiate_keeps
    | with_reducible apply Keeps.ite
    | with_reducible apply Keeps.foldl
    | split

theorem clusterDown_keeps {s : State} (d : Nat) (hs : Keeps q w s) : Keeps q w (clusterDown s d) := by
  unfold clusterDown
  try dsimp only
  repeat' first
    | with_reducible assumption
    | intro _
    | with_reducible apply applyParams_keeps
    | with_reducible apply setDomainOn_keeps
    | with_reducible apply endInsts_keeps
    | with_reducible apply resetRegs_keeps
    | with_reducible apply Keeps.ite
    | with_reducible apply Keeps.foldl
    | split
    | with_reducible apply Keeps.upd

theorem switchClusters_keeps {s : State} (m : Nat) (hs : Keeps q w s) : Keeps q w (switchClusters s m) := by
  unfold switchClusters
  try dsimp only
  repeat' first
    | with_reducible assumption
    | intro _
    | with_reducible apply clusterDown_keeps
    | with_reducible apply clusterUp_keeps
    | with_reducible apply Keeps.ite
    | with_reducible apply Keeps.foldl
    | split

theorem beginMode_keeps {s : State} (m : Nat) (hs : Keeps q w s) : Keeps q w (beginMode s m) := by
  unfold beginMode
  try dsimp only
  repeat' first
    | with_reducible assumption
    | intro _
    | with_reducible apply raiseDisp_keeps
    | with_reducible apply setF_keeps
    | with_reducible apply Keeps.ite
    | with_reducible apply Keeps.foldl
    | split
    | with_reducible apply Keeps.upd

theorem execModeChange_keeps (v : W32) {s : State} (hs : Keeps q w s) : KeepsR q w (execModeChange v s) := by
  unfold execModeChange
  try dsimp only
  repeat' first
    | with_reducible assumption
    | intro _
    | with_reducible apply beginMode_keeps
    | with_reducible apply whenGecko_keeps
    | with_reducible apply writeReg_keeps
    | with_reducible apply setF_keeps
    | with_reducible apply Keeps.ite
    | with_reducible apply Keeps.foldl
    | with_reducible apply KeepsR.next
    | with_reducible apply KeepsR.ite
    | split

theorem vidFail_keeps {s : State} (hs : Keeps q w s) : Keeps q w (vidFail s) := by
  unfold vidFail
  try dsimp only
  repeat' first
    | with_reducible assumption
    | intro _
    | with_reducible apply raise_keeps
    | with_reducible apply setF_keeps
    | with_reducible apply Keeps.ite
    | with_reducible apply Keeps.foldl
    | split

theorem showMode_keeps {s : State} (m : Nat) (hs : Keeps q w s) : Keeps q w (showMode s m) := by
  unfold showMode
  try dsimp only
  repeat' first
    | with_reducible assumption
    | intro _
    | with_reducible apply setF_keeps
    | with_reducible apply Keeps.ite
    | with_reducible apply Keeps.foldl
    | split

theorem endMode_keeps {s : State} (err : Nat) (hs : Keeps q w s) : Keeps q w (endMode s err) := by
  unfold endMode
  try dsimp only
  repeat' first
    | with_reducible assumption
    | intro _
    | with_reducible apply loadGrants_keeps
    | with_reducible apply setStage_keeps
    | with_reducible apply setF_keeps
    | with_reducible apply Keeps.ite
    | with_reducible apply Keeps.foldl
    | split
    | with_reducible apply Keeps.upd

theorem moveOrder_keeps {before : State} {s : State} (hbefore : Keeps q w before) (hs : Keeps q w s) : Keeps q w (moveOrder before s) := by
  unfold moveOrder
  try dsimp only
  repeat' first
    | with_reducible assumption
    | intro _
    | with_reducible apply rekeyCluster_keeps
    | with_reducible apply combRefresh_keeps
    | with_reducible apply Keeps.ite
    | with_reducible apply Keeps.foldl
    | split

theorem moveMode_keeps {s : State} (m : Nat) (phyFail : Option (Fin 4)) (hs : Keeps q w s) : Keeps q w (moveMode s m phyFail) := by
  unfold moveMode
  try dsimp only
  repeat' first
    | with_reducible assumption
    | intro _
    | with_reducible apply moveOrder_keeps
    | with_reducible apply endMode_keeps
    | with_reducible apply showMode_keeps
    | with_reducible apply switchClusters_keeps
    | with_reducible apply faultReport_keeps
    | with_reducible apply endPattern_keeps
    | with_reducible apply setF_keeps
    | with_reducible apply Keeps.ite
    | with_reducible apply Keeps.foldl
    | split

theorem vidModeFail_keeps {s : State} (m : Nat) (hs : Keeps q w s) : Keeps q w (vidModeFail s m) := by
  unfold vidModeFail
  try dsimp only
  repeat' first
    | with_reducible assumption
    | intro _
    | with_reducible apply endMode_keeps
    | with_reducible apply vidFail_keeps
    | with_reducible apply switchClusters_keeps
    | with_reducible apply Keeps.ite
    | with_reducible apply Keeps.foldl
    | split

theorem execModeChangeRoutesFinished_keeps (mv : BitVec 10) (phyFail : Option (Fin 4)) {s : State} (hs : Keeps q w s) : KeepsR q w (execModeChangeRoutesFinished mv phyFail s) := by
  unfold execModeChangeRoutesFinished
  try dsimp only
  repeat' first
    | with_reducible assumption
    | intro _
    | with_reducible apply vidModeFail_keeps
    | with_reducible apply moveMode_keeps
    | with_reducible apply setF_keeps
    | with_reducible apply Keeps.ite
    | with_reducible apply Keeps.foldl
    | with_reducible apply KeepsR.next
    | with_reducible apply KeepsR.ite
    | split

theorem execVidAlert_keeps (good : Bool) (holds : Bool) {s : State} (hs : Keeps q w s) : KeepsR q w (execVidAlert good holds s) := by
  unfold execVidAlert
  try dsimp only
  repeat' first
    | with_reducible assumption
    | intro _
    | with_reducible apply vidFail_keeps
    | with_reducible apply tamperTrip_keeps
    | with_reducible apply whenGecko_keeps
    | with_reducible apply Keeps.ite
    | with_reducible apply Keeps.foldl
    | with_reducible apply KeepsR.next
    | with_reducible apply KeepsR.ite
    | split

theorem execRailPgFall_keeps (rail : Fin 3) {s : State} (hs : Keeps q w s) : KeepsR q w (execRailPgFall rail s) := by
  unfold execRailPgFall
  try dsimp only
  repeat' first
    | with_reducible assumption
    | intro _
    | with_reducible apply landauRebuild_keeps
    | with_reducible apply Keeps.ite
    | with_reducible apply Keeps.foldl
    | with_reducible apply KeepsR.next
    | with_reducible apply KeepsR.ite
    | split

end Sys2Proof.Machine
end

