-- ==== Sys2Proof/Laws/KeepsStore.lean ====
section
/-!
SUPPORT. Laws/KeepsStore.lean: what the operations of Store.lean keep.
-/
namespace Sys2Proof.Machine

variable {q : List Instr} {w : FuseBits}

theorem goSnapshotBegin_keeps (r : Run) {s : State} (t : TagEntry) (hs : Keeps q w s) : Keeps q w (goSnapshotBegin r s t) := by
  unfold goSnapshotBegin
  try dsimp only
  repeat' first
    | with_reducible assumption
    | intro _
    | refine Keeps.eqP (by with_reducible assumption) ?_
    | with_reducible apply startOn_keeps
    | with_reducible apply Keeps.ite
    | with_reducible apply Keeps.foldl
    | with_reducible apply KeepsP.ite
    | with_reducible apply KeepsP.foldl
    | split
    | with_reducible apply Keeps.snd
    | with_reducible apply KeepsP.pair

theorem execSnapshotBegin_keeps (r : Run) {s : State} (hs : Keeps q w s) : KeepsR q w (execSnapshotBegin r s) := by
  unfold execSnapshotBegin
  try dsimp only
  repeat' first
    | with_reducible assumption
    | intro _
    | with_reducible apply goSnapshotBegin_keeps
    | with_reducible apply checked_keeps
    | with_reducible apply Keeps.ite
    | with_reducible apply Keeps.foldl
    | with_reducible apply KeepsR.next
    | with_reducible apply KeepsR.ite
    | split

theorem effSnapBegin_keeps {s : State} (d : Nat) (out : Outcome) (hs : Keeps q w s) : KeepsL q w (effSnapBegin s d out) := by
  unfold effSnapBegin
  try dsimp only
  repeat' first
    | with_reducible assumption
    | intro _
    | refine Keeps.eqP (by with_reducible assumption) ?_
    | refine Keeps.eqL (by with_reducible assumption) ?_
    | with_reducible apply updDomain_keeps
    | with_reducible apply draw_keeps
    | with_reducible apply Keeps.ite
    | with_reducible apply Keeps.foldl
    | with_reducible apply KeepsP.ite
    | with_reducible apply KeepsP.foldl
    | with_reducible apply KeepsL.ite
    | with_reducible apply KeepsL.foldl
    | split
    | with_reducible apply Keeps.snd
    | with_reducible apply KeepsP.pair
    | with_reducible apply Keeps.fst
    | with_reducible apply KeepsL.pair
    | with_reducible apply Keeps.upd

theorem wrapAll_keeps {s : State} (l : List KeyObj) (hs : Keeps q w s) : KeepsP q w (wrapAll s l) := by
  induction l generalizing s with
  | nil => exact ⟨hs⟩
  | cons o l ih => exact ⟨(ih (wrapOut_keeps o hs).out).out⟩

theorem readAll_keeps {s : State} (fails : List MemFail) (l : List KeyObj) (hs : Keeps q w s) : KeepsP q w (readAll s fails l) := by
  induction l generalizing s with
  | nil => exact ⟨hs⟩
  | cons o l ih => exact ⟨(ih (readRecord_keeps o.handle fails hs).out).out⟩

theorem chunkBytes_keeps {s : State} (d : Nat) (sn : Snap) (k : Nat) (hs : Keeps q w s) : KeepsP q w (chunkBytes s d sn k) := by
  unfold chunkBytes
  try dsimp only
  repeat' first
    | with_reducible assumption
    | intro _
    | refine Keeps.eqP (by with_reducible assumption) ?_
    | with_reducible apply wrapAll_keeps
    | with_reducible apply kcUse_keeps
    | with_reducible apply Keeps.ite
    | with_reducible apply Keeps.foldl
    | with_reducible apply KeepsP.ite
    | with_reducible apply KeepsP.foldl
    | split
    | with_reducible apply Keeps.snd
    | with_reducible apply KeepsP.pair

theorem goSnapshotRead_keeps (r : Run) {s : State} (t : TagEntry) (hs : Keeps q w s) : Keeps q w (goSnapshotRead r s t) := by
  unfold goSnapshotRead
  try dsimp only
  repeat' first
    | with_reducible assumption
    | intro _
    | refine Keeps.eqP (by with_reducible assumption) ?_
    | with_reducible apply chunkBytes_keeps
    | with_reducible apply readAll_keeps
    | with_reducible apply whenKeys_keeps
    | with_reducible apply startOn_keeps
    | with_reducible apply Keeps.ite
    | with_reducible apply Keeps.foldl
    | with_reducible apply KeepsP.ite
    | with_reducible apply KeepsP.foldl
    | split
    | with_reducible apply Keeps.snd
    | with_reducible apply KeepsP.pair

theorem execSnapshotRead_keeps (r : Run) {s : State} (hs : Keeps q w s) : KeepsR q w (execSnapshotRead r s) := by
  unfold execSnapshotRead
  try dsimp only
  repeat' first
    | with_reducible assumption
    | intro _
    | with_reducible apply goSnapshotRead_keeps
    | with_reducible apply checked_keeps
    | with_reducible apply Keeps.ite
    | with_reducible apply Keeps.foldl
    | with_reducible apply KeepsR.next
    | with_reducible apply KeepsR.ite
    | split

theorem goJournalRead_keeps (r : Run) {s : State} (t : TagEntry) (hs : Keeps q w s) : Keeps q w (goJournalRead r s t) := by
  unfold goJournalRead
  try dsimp only
  repeat' first
    | with_reducible assumption
    | intro _
    | refine Keeps.eqP (by with_reducible assumption) ?_
    | with_reducible apply startOn_keeps
    | with_reducible apply journalReads_keeps
    | with_reducible apply Keeps.ite
    | with_reducible apply Keeps.foldl
    | with_reducible apply KeepsP.ite
    | with_reducible apply KeepsP.foldl
    | split
    | with_reducible apply Keeps.snd
    | with_reducible apply KeepsP.pair

theorem execJournalRead_keeps (r : Run) {s : State} (hs : Keeps q w s) : KeepsR q w (execJournalRead r s) := by
  unfold execJournalRead
  try dsimp only
  repeat' first
    | with_reducible assumption
    | intro _
    | with_reducible apply goJournalRead_keeps
    | with_reducible apply checked_keeps
    | with_reducible apply Keeps.ite
    | with_reducible apply Keeps.foldl
    | with_reducible apply KeepsR.next
    | with_reducible apply KeepsR.ite
    | split

theorem goJournalAck_keeps (r : Run) {s : State} (t : TagEntry) (hs : Keeps q w s) : Keeps q w (goJournalAck r s t) := by
  unfold goJournalAck
  try dsimp only
  repeat' first
    | with_reducible assumption
    | intro _
    | refine Keeps.eqP (by with_reducible assumption) ?_
    | with_reducible apply startOn_keeps
    | with_reducible apply Keeps.ite
    | with_reducible apply Keeps.foldl
    | with_reducible apply KeepsP.ite
    | with_reducible apply KeepsP.foldl
    | split
    | with_reducible apply Keeps.snd
    | with_reducible apply KeepsP.pair

theorem execJournalAck_keeps (r : Run) {s : State} (hs : Keeps q w s) : KeepsR q w (execJournalAck r s) := by
  unfold execJournalAck
  try dsimp only
  repeat' first
    | with_reducible assumption
    | intro _
    | with_reducible apply goJournalAck_keeps
    | with_reducible apply checked_keeps
    | with_reducible apply Keeps.ite
    | with_reducible apply Keeps.foldl
    | with_reducible apply KeepsR.next
    | with_reducible apply KeepsR.ite
    | split

theorem effJournalAck_keeps {s : State} (d : Nat) (seq : Nat) (out : Outcome) (hs : Keeps q w s) : KeepsL q w (effJournalAck s d seq out) := by
  unfold effJournalAck
  try dsimp only
  repeat' first
    | with_reducible assumption
    | intro _
    | refine Keeps.eqL (by with_reducible assumption) ?_
    | with_reducible apply updDomainKeys_keeps
    | with_reducible apply Keeps.ite
    | with_reducible apply Keeps.foldl
    | with_reducible apply KeepsL.ite
    | with_reducible apply KeepsL.foldl
    | split
    | with_reducible apply Keeps.fst
    | with_reducible apply KeepsL.pair
    | with_reducible apply Keeps.upd

theorem emptyStore_keeps {s : State} (d : Nat) (hs : Keeps q w s) : Keeps q w (emptyStore s d) := by
  unfold emptyStore
  try dsimp only
  repeat' first
    | with_reducible assumption
    | intro _
    | with_reducible apply Keeps.ite
    | with_reducible apply Keeps.foldl
    | split
    | with_reducible apply Keeps.upd

theorem goRestoreBegin_keeps (r : Run) {s : State} (t : TagEntry) (hs : Keeps q w s) : Keeps q w (goRestoreBegin r s t) := by
  unfold goRestoreBegin
  try dsimp only
  repeat' first
    | with_reducible assumption
    | intro _
    | refine Keeps.eqP (by with_reducible assumption) ?_
    | with_reducible apply startOn_keeps
    | with_reducible apply Keeps.ite
    | with_reducible apply Keeps.foldl
    | with_reducible apply KeepsP.ite
    | with_reducible apply KeepsP.foldl
    | split
    | with_reducible apply Keeps.snd
    | with_reducible apply KeepsP.pair

theorem execRestoreBegin_keeps (r : Run) {s : State} (hs : Keeps q w s) : KeepsR q w (execRestoreBegin r s) := by
  unfold execRestoreBegin
  try dsimp only
  repeat' first
    | with_reducible assumption
    | intro _
    | with_reducible apply goRestoreBegin_keeps
    | with_reducible apply checked_keeps
    | with_reducible apply Keeps.ite
    | with_reducible apply Keeps.foldl
    | with_reducible apply KeepsR.next
    | with_reducible apply KeepsR.ite
    | split

theorem effRestoreBegin_keeps {s : State} (d : Nat) (snap : Nat) (out : Outcome) (hs : Keeps q w s) : KeepsL q w (effRestoreBegin s d snap out) := by
  unfold effRestoreBegin
  try dsimp only
  repeat' first
    | with_reducible assumption
    | intro _
    | refine Keeps.eqL (by with_reducible assumption) ?_
    | with_reducible apply emptyStore_keeps
    | with_reducible apply updDomain_keeps
    | with_reducible apply Keeps.ite
    | with_reducible apply Keeps.foldl
    | with_reducible apply KeepsL.ite
    | with_reducible apply KeepsL.foldl
    | split
    | with_reducible apply Keeps.fst
    | with_reducible apply KeepsL.pair
    | with_reducible apply Keeps.upd

theorem goRestoreData_keeps (r : Run) {s : State} (t : TagEntry) (hs : Keeps q w s) : Keeps q w (goRestoreData r s t) := by
  unfold goRestoreData
  try dsimp only
  repeat' first
    | with_reducible assumption
    | intro _
    | refine Keeps.eqP (by with_reducible assumption) ?_
    | with_reducible apply whenKeys_keeps
    | with_reducible apply startOn_keeps
    | with_reducible apply Keeps.ite
    | with_reducible apply Keeps.foldl
    | with_reducible apply KeepsP.ite
    | with_reducible apply KeepsP.foldl
    | split
    | with_reducible apply Keeps.snd
    | with_reducible apply KeepsP.pair

theorem execRestoreData_keeps (r : Run) {s : State} (hs : Keeps q w s) : KeepsR q w (execRestoreData r s) := by
  unfold execRestoreData
  try dsimp only
  repeat' first
    | with_reducible assumption
    | intro _
    | with_reducible apply goRestoreData_keeps
    | with_reducible apply checked_keeps
    | with_reducible apply Keeps.ite
    | with_reducible apply Keeps.foldl
    | with_reducible apply KeepsR.next
    | with_reducible apply KeepsR.ite
    | split

theorem goRestoreEnd_keeps (r : Run) {s : State} (t : TagEntry) (hs : Keeps q w s) : Keeps q w (goRestoreEnd r s t) := by
  unfold goRestoreEnd
  try dsimp only
  repeat' first
    | with_reducible assumption
    | intro _
    | refine Keeps.eqP (by with_reducible assumption) ?_
    | with_reducible apply startOn_keeps
    | with_reducible apply Keeps.ite
    | with_reducible apply Keeps.foldl
    | with_reducible apply KeepsP.ite
    | with_reducible apply KeepsP.foldl
    | split
    | with_reducible apply Keeps.snd
    | with_reducible apply KeepsP.pair

theorem execRestoreEnd_keeps (r : Run) {s : State} (hs : Keeps q w s) : KeepsR q w (execRestoreEnd r s) := by
  unfold execRestoreEnd
  try dsimp only
  repeat' first
    | with_reducible assumption
    | intro _
    | with_reducible apply goRestoreEnd_keeps
    | with_reducible apply checked_keeps
    | with_reducible apply Keeps.ite
    | with_reducible apply Keeps.foldl
    | with_reducible apply KeepsR.next
    | with_reducible apply KeepsR.ite
    | split

theorem restoreObj_keeps {s : State} (o : KeyObj) (hs : Keeps q w s) : Keeps q w (restoreObj s o) := by
  unfold restoreObj
  try dsimp only
  repeat' first
    | with_reducible assumption
    | intro _
    | with_reducible apply writeRecord_keeps
    | with_reducible apply setSlot_keeps
    | with_reducible apply Keeps.ite
    | with_reducible apply Keeps.foldl
    | split

theorem applyChunk_keeps {s : State} (d : Nat) (re : Restore) (b : Bytes) (hs : Keeps q w s) : KeepsOL q w (applyChunk s d re b) := by
  unfold applyChunk
  try dsimp only
  repeat' first
    | with_reducible assumption
    | intro _
    | refine Keeps.eqOL (by with_reducible assumption) ?_
    | with_reducible apply restoreObj_keeps
    | with_reducible apply updDomain_keeps
    | with_reducible apply Keeps.ite
    | with_reducible apply Keeps.foldl
    | with_reducible apply KeepsOL.some
    | with_reducible apply KeepsOL.none
    | with_reducible apply KeepsOL.ite
    | split
    | with_reducible apply Keeps.upd

theorem raiseMarks_keeps {s : State} (h_ : Nat) (um : Nat) (cm : Nat) (hs : Keeps q w s) : Keeps q w (raiseMarks s h_ um cm) := by
  unfold raiseMarks
  try dsimp only
  repeat' first
    | with_reducible assumption
    | intro _
    | with_reducible apply updKey_keeps
    | with_reducible apply Keeps.ite
    | with_reducible apply Keeps.foldl
    | split
    | with_reducible apply Keeps.upd

theorem applyRec_keeps {s : State} (rcd : Bytes) (o : Option KeyObj) (hs : Keeps q w s) : Keeps q w (applyRec s rcd o) := by
  unfold applyRec
  try dsimp only
  repeat' first
    | with_reducible assumption
    | intro _
    | with_reducible apply raiseMarks_keeps
    | with_reducible apply restoreObj_keeps
    | with_reducible apply updKey_keeps
    | with_reducible apply updDomain_keeps
    | with_reducible apply setSlot_keeps
    | with_reducible apply Keeps.ite
    | with_reducible apply Keeps.foldl
    | split
    | with_reducible apply Keeps.upd

theorem applyRecs_keeps {s : State} (d last n : Nat) (b : Bytes) (hs : Keeps q w s) : KeepsOL q w (applyRecs s d last n b) := by
  induction n generalizing s last b with
  | zero =>
    unfold applyRecs
    split
    · exact KeepsOL.some hs
    · exact KeepsOL.none
  | succ n ih =>
    unfold applyRecs
    split
    · exact KeepsOL.some hs
    · dsimp only
      repeat' first
        | with_reducible apply KeepsOL.none
        | with_reducible apply ih
        | with_reducible exact applyRec_keeps _ _ hs
        | with_reducible apply KeepsOL.ite
        | split

theorem effRestoreData_keeps {s : State} (d : Nat) (b : Bytes) (out : Outcome) (hs : Keeps q w s) : KeepsL q w (effRestoreData s d b out) := by
  unfold effRestoreData
  try dsimp only
  repeat' first
    | with_reducible assumption
    | intro _
    | refine Keeps.eqL (by with_reducible assumption) ?_
    | refine Keeps.eqOL (by with_reducible assumption) ?_
    | with_reducible apply applyRecs_keeps
    | with_reducible apply applyChunk_keeps
    | with_reducible apply kcUse_keeps
    | with_reducible apply updDomain_keeps
    | with_reducible apply Keeps.ite
    | with_reducible apply Keeps.foldl
    | with_reducible apply KeepsL.ite
    | with_reducible apply KeepsL.foldl
    | with_reducible apply KeepsOL.some
    | with_reducible apply KeepsOL.none
    | with_reducible apply KeepsOL.ite
    | split
    | with_reducible apply Keeps.fst
    | with_reducible apply KeepsL.pair
    | with_reducible apply Keeps.upd

theorem logDmk_keeps {s : State} (d : Nat) (payload : Bytes) (hs : Keeps q w s) : Keeps q w (logDmk s d payload) := by
  unfold logDmk
  try dsimp only
  repeat' first
    | with_reducible assumption
    | intro _
    | refine Keeps.eqP (by with_reducible assumption) ?_
    | with_reducible apply kcUse_keeps
    | with_reducible apply drawBytes_keeps
    | with_reducible apply Keeps.ite
    | with_reducible apply Keeps.foldl
    | with_reducible apply KeepsP.ite
    | with_reducible apply KeepsP.foldl
    | split
    | with_reducible apply Keeps.snd
    | with_reducible apply KeepsP.pair
    | with_reducible apply Keeps.upd

theorem installDomain_keeps {s : State} (d : Nat) (dmk : Bytes) (x : Domain) (hs : Keeps q w s) : Keeps q w (installDomain s d dmk x) := by
  unfold installDomain
  try dsimp only
  repeat' first
    | with_reducible assumption
    | intro _
    | with_reducible apply logDmk_keeps
    | with_reducible apply pinDomain_keeps
    | with_reducible apply setDomain_keeps
    | with_reducible apply Keeps.ite
    | with_reducible apply Keeps.foldl
    | split

theorem effRestoreEnd_keeps {s : State} (d : Nat) (out : Outcome) (hs : Keeps q w s) : KeepsL q w (effRestoreEnd s d out) := by
  unfold effRestoreEnd
  try dsimp only
  repeat' first
    | with_reducible assumption
    | intro _
    | refine Keeps.eqL (by with_reducible assumption) ?_
    | with_reducible apply logDmk_keeps
    | with_reducible apply askBuild_keeps
    | with_reducible apply updDomainKeys_keeps
    | with_reducible apply updDomain_keeps
    | with_reducible apply Keeps.ite
    | with_reducible apply Keeps.foldl
    | with_reducible apply KeepsL.ite
    | with_reducible apply KeepsL.foldl
    | split
    | with_reducible apply Keeps.fst
    | with_reducible apply KeepsL.pair
    | with_reducible apply Keeps.upd

theorem goDomainCreate_keeps (r : Run) {s : State} (t : TagEntry) (hs : Keeps q w s) : Keeps q w (goDomainCreate r s t) := by
  unfold goDomainCreate
  try dsimp only
  repeat' first
    | with_reducible assumption
    | intro _
    | refine Keeps.eqP (by with_reducible assumption) ?_
    | with_reducible apply startOn_keeps
    | with_reducible apply withQuorum_keeps
    | with_reducible apply Keeps.ite
    | with_reducible apply Keeps.foldl
    | with_reducible apply KeepsP.ite
    | with_reducible apply KeepsP.foldl
    | split
    | with_reducible apply Keeps.snd
    | with_reducible apply KeepsP.pair

theorem execDomainCreate_keeps (r : Run) {s : State} (hs : Keeps q w s) : KeepsR q w (execDomainCreate r s) := by
  unfold execDomainCreate
  try dsimp only
  repeat' first
    | with_reducible assumption
    | intro _
    | with_reducible apply goDomainCreate_keeps
    | with_reducible apply checked_keeps
    | with_reducible apply Keeps.ite
    | with_reducible apply Keeps.foldl
    | with_reducible apply KeepsR.next
    | with_reducible apply KeepsR.ite
    | split

theorem effDomainCreate_keeps {s : State} (d : Nat) (out : Outcome) (hs : Keeps q w s) : KeepsL q w (effDomainCreate s d out) := by
  unfold effDomainCreate
  try dsimp only
  repeat' first
    | with_reducible assumption
    | intro _
    | refine Keeps.eqP (by with_reducible assumption) ?_
    | refine Keeps.eqL (by with_reducible assumption) ?_
    | with_reducible apply installDomain_keeps
    | with_reducible apply drawBytes_keeps
    | with_reducible apply draw_keeps
    | with_reducible apply Keeps.ite
    | with_reducible apply Keeps.foldl
    | with_reducible apply KeepsP.ite
    | with_reducible apply KeepsP.foldl
    | with_reducible apply KeepsL.ite
    | with_reducible apply KeepsL.foldl
    | split
    | with_reducible apply Keeps.snd
    | with_reducible apply KeepsP.pair
    | with_reducible apply Keeps.fst
    | with_reducible apply KeepsL.pair
    | with_reducible apply Keeps.upd

theorem eraseDomain_keeps {s : State} (d : Nat) (hs : Keeps q w s) : Keeps q w (eraseDomain s d) := by
  unfold eraseDomain
  try dsimp only
  repeat' first
    | with_reducible assumption
    | intro _
    | with_reducible apply logDmk_keeps
    | with_reducible apply emptyStore_keeps
    | with_reducible apply setDomain_keeps
    | with_reducible apply Keeps.ite
    | with_reducible apply Keeps.foldl
    | split
    | with_reducible apply Keeps.upd

theorem goDomainErase_keeps (r : Run) {s : State} (t : TagEntry) (hs : Keeps q w s) : Keeps q w (goDomainErase r s t) := by
  unfold goDomainErase
  try dsimp only
  repeat' first
    | with_reducible assumption
    | intro _
    | refine Keeps.eqP (by with_reducible assumption) ?_
    | with_reducible apply startOn_keeps
    | with_reducible apply withQuorum_keeps
    | with_reducible apply Keeps.ite
    | with_reducible apply Keeps.foldl
    | with_reducible apply KeepsP.ite
    | with_reducible apply KeepsP.foldl
    | split
    | with_reducible apply Keeps.snd
    | with_reducible apply KeepsP.pair

theorem execDomainErase_keeps (r : Run) {s : State} (hs : Keeps q w s) : KeepsR q w (execDomainErase r s) := by
  unfold execDomainErase
  try dsimp only
  repeat' first
    | with_reducible assumption
    | intro _
    | with_reducible apply goDomainErase_keeps
    | with_reducible apply checked_keeps
    | with_reducible apply Keeps.ite
    | with_reducible apply Keeps.foldl
    | with_reducible apply KeepsR.next
    | with_reducible apply KeepsR.ite
    | split

theorem shareRecord_keeps {s : State} (cset : Bytes) (qtk : Bytes) (coeff : Bytes) (i : Nat) (hs : Keeps q w s) : KeepsP q w (shareRecord s cset qtk coeff i) := by
  unfold shareRecord
  try dsimp only
  repeat' first
    | with_reducible assumption
    | intro _
    | refine Keeps.eqP (by with_reducible assumption) ?_
    | with_reducible apply drawBytes_keeps
    | with_reducible apply Keeps.ite
    | with_reducible apply Keeps.foldl
    | with_reducible apply KeepsP.ite
    | with_reducible apply KeepsP.foldl
    | split
    | with_reducible apply Keeps.snd
    | with_reducible apply KeepsP.pair

theorem shareRecords_keeps {s : State} (cset qtk coeff : Bytes) (l : List Nat) (hs : Keeps q w s) : KeepsP q w (shareRecords s cset qtk coeff l) := by
  induction l generalizing s with
  | nil => exact ⟨hs⟩
  | cons i l ih => exact ⟨(ih (shareRecord_keeps cset qtk coeff i hs).out).out⟩

theorem escrowBlob_keeps {s : State} (d : Nat) (cset : Bytes) (hs : Keeps q w s) : KeepsP q w (escrowBlob s d cset) := by
  unfold escrowBlob
  try dsimp only
  repeat' first
    | with_reducible assumption
    | intro _
    | refine Keeps.eqP (by with_reducible assumption) ?_
    | with_reducible apply shareRecords_keeps
    | with_reducible apply kcUse_keeps
    | with_reducible apply drawBytes_keeps
    | with_reducible apply Keeps.ite
    | with_reducible apply Keeps.foldl
    | with_reducible apply KeepsP.ite
    | with_reducible apply KeepsP.foldl
    | split
    | with_reducible apply Keeps.snd
    | with_reducible apply KeepsP.pair

theorem execDomainEscrowExport_keeps (r : Run) {s : State} (hs : Keeps q w s) : KeepsR q w (execDomainEscrowExport r s) := by
  unfold execDomainEscrowExport
  try dsimp only
  repeat' first
    | with_reducible assumption
    | intro _
    | refine Keeps.eqP (by with_reducible assumption) ?_
    | with_reducible apply escrowBlob_keeps
    | with_reducible apply whenKeys_keeps
    | with_reducible apply checked_keeps
    | with_reducible apply startIn_keeps
    | with_reducible apply withQuorum_keeps
    | with_reducible apply failTag_keeps
    | with_reducible apply Keeps.ite
    | with_reducible apply Keeps.foldl
    | with_reducible apply KeepsR.next
    | with_reducible apply KeepsR.ite
    | with_reducible apply KeepsP.ite
    | with_reducible apply KeepsP.foldl
    | split
    | with_reducible apply Keeps.snd
    | with_reducible apply KeepsP.pair

theorem goDomainEscrowRestore_keeps (r : Run) {s : State} (t : TagEntry) (hs : Keeps q w s) : Keeps q w (goDomainEscrowRestore r s t) := by
  unfold goDomainEscrowRestore
  try dsimp only
  repeat' first
    | with_reducible assumption
    | intro _
    | refine Keeps.eqP (by with_reducible assumption) ?_
    | with_reducible apply startIn_keeps
    | with_reducible apply withQuorum_keeps
    | with_reducible apply failTag_keeps
    | with_reducible apply Keeps.ite
    | with_reducible apply Keeps.foldl
    | with_reducible apply KeepsP.ite
    | with_reducible apply KeepsP.foldl
    | split
    | with_reducible apply Keeps.snd
    | with_reducible apply KeepsP.pair

theorem execDomainEscrowRestore_keeps (r : Run) {s : State} (hs : Keeps q w s) : KeepsR q w (execDomainEscrowRestore r s) := by
  unfold execDomainEscrowRestore
  try dsimp only
  repeat' first
    | with_reducible assumption
    | intro _
    | with_reducible apply goDomainEscrowRestore_keeps
    | with_reducible apply checked_keeps
    | with_reducible apply Keeps.ite
    | with_reducible apply Keeps.foldl
    | with_reducible apply KeepsR.next
    | with_reducible apply KeepsR.ite
    | split

theorem effEscrowRestore_keeps {s : State} (d : Nat) (dmk : Bytes) (id : Nat) (out : Outcome) (hs : Keeps q w s) : KeepsL q w (effEscrowRestore s d dmk id out) := by
  unfold effEscrowRestore
  try dsimp only
  repeat' first
    | with_reducible assumption
    | intro _
    | refine Keeps.eqL (by with_reducible assumption) ?_
    | with_reducible apply installDomain_keeps
    | with_reducible apply Keeps.ite
    | with_reducible apply Keeps.foldl
    | with_reducible apply KeepsL.ite
    | with_reducible apply KeepsL.foldl
    | split
    | with_reducible apply Keeps.fst
    | with_reducible apply KeepsL.pair
    | with_reducible apply Keeps.upd

theorem goStoreStatus_keeps (r : Run) {s : State} (t : TagEntry) (hs : Keeps q w s) : Keeps q w (goStoreStatus r s t) := by
  unfold goStoreStatus
  try dsimp only
  repeat' first
    | with_reducible assumption
    | intro _
    | refine Keeps.eqP (by with_reducible assumption) ?_
    | with_reducible apply startOn_keeps
    | with_reducible apply Keeps.ite
    | with_reducible apply Keeps.foldl
    | with_reducible apply KeepsP.ite
    | with_reducible apply KeepsP.foldl
    | split
    | with_reducible apply Keeps.snd
    | with_reducible apply KeepsP.pair

theorem execStoreStatus_keeps (r : Run) {s : State} (hs : Keeps q w s) : KeepsR q w (execStoreStatus r s) := by
  unfold execStoreStatus
  try dsimp only
  repeat' first
    | with_reducible assumption
    | intro _
    | with_reducible apply goStoreStatus_keeps
    | with_reducible apply checked_keeps
    | with_reducible apply Keeps.ite
    | with_reducible apply Keeps.foldl
    | with_reducible apply KeepsR.next
    | with_reducible apply KeepsR.ite
    | split

theorem kcEvictAll_keeps {s : State} (p : KcEntry → Bool) (hs : Keeps q w s) : Keeps q w (kcEvictAll s p) := by
  unfold kcEvictAll
  try dsimp only
  repeat' first
    | with_reducible assumption
    | intro _
    | with_reducible apply kcEvict_keeps
    | with_reducible apply Keeps.ite
    | with_reducible apply Keeps.foldl
    | split

theorem execKcacheEvictDomain_keeps (key : BitVec 16) (domain : Nat) {s : State} (hs : Keeps q w s) : KeepsR q w (execKcacheEvictDomain key domain s) := by
  unfold execKcacheEvictDomain
  try dsimp only
  repeat' first
    | with_reducible assumption
    | intro _
    | with_reducible apply kcEvictAll_keeps
    | with_reducible apply whenLandau_keeps
    | with_reducible apply Keeps.ite
    | with_reducible apply Keeps.foldl
    | with_reducible apply KeepsR.next
    | with_reducible apply KeepsR.ite
    | split

theorem execKcacheEvictAll_keeps (key : BitVec 16) {s : State} (hs : Keeps q w s) : KeepsR q w (execKcacheEvictAll key s) := by
  unfold execKcacheEvictAll
  try dsimp only
  repeat' first
    | with_reducible assumption
    | intro _
    | with_reducible apply kcEvictAll_keeps
    | with_reducible apply whenLandau_keeps
    | with_reducible apply Keeps.ite
    | with_reducible apply Keeps.foldl
    | with_reducible apply KeepsR.next
    | with_reducible apply KeepsR.ite
    | split

theorem kcZeroise_keeps {s : State} (reading : List Nat) (hs : Keeps q w s) : Keeps q w (kcZeroise s reading) := by
  unfold kcZeroise
  try dsimp only
  repeat' first
    | with_reducible assumption
    | intro _
    | with_reducible apply cutRoutes_keeps
    | with_reducible apply setF_keeps
    | with_reducible apply Keeps.ite
    | with_reducible apply Keeps.foldl
    | split
    | with_reducible apply Keeps.upd

theorem execKcacheZeroise_keeps (key : BitVec 16) (reading : List Nat) {s : State} (hs : Keeps q w s) : KeepsR q w (execKcacheZeroise key reading s) := by
  unfold execKcacheZeroise
  try dsimp only
  repeat' first
    | with_reducible assumption
    | intro _
    | with_reducible apply kcZeroise_keeps
    | with_reducible apply whenLandau_keeps
    | with_reducible apply Keeps.ite
    | with_reducible apply Keeps.foldl
    | with_reducible apply KeepsR.next
    | with_reducible apply KeepsR.ite
    | split

theorem updStack_keeps {s : State} (stack : Nat) (f : HbmStack → HbmStack) (hs : Keeps q w s) : Keeps q w (updStack s stack f) := by
  unfold updStack
  try dsimp only
  repeat' first
    | with_reducible assumption
    | intro _
    | with_reducible apply Keeps.ite
    | with_reducible apply Keeps.foldl
    | split
    | with_reducible apply Keeps.upd

end Sys2Proof.Machine
end

