-- ==== Sys2Proof/Laws/KeepsCards.lean ====
section
/-!
SUPPORT. Laws/KeepsCards.lean: what the operations of Cards.lean keep.
-/
namespace Sys2Proof.Machine

variable {q : List Instr} {w : FuseBits}

theorem setCard_keeps {s : State} (p : Nat) (c : CardPort) (hs : Keeps q w s) : Keeps q w (setCard s p c) := by
  unfold setCard
  try dsimp only
  repeat' first
    | with_reducible assumption
    | intro _
    | with_reducible apply Keeps.ite
    | with_reducible apply Keeps.foldl
    | split
    | with_reducible apply Keeps.upd

theorem withPort_keeps {s : State} (p : Nat) {t : State} (hs : Keeps q w s) (ht : Keeps q w t) : KeepsR q w (withPort s p t) := by
  unfold withPort
  try dsimp only
  repeat' first
    | with_reducible assumption
    | intro _
    | with_reducible apply Keeps.ite
    | with_reducible apply Keeps.foldl
    | with_reducible apply KeepsR.next
    | with_reducible apply KeepsR.ite
    | split

theorem cardIrq_keeps {s : State} (p : Nat) (hs : Keeps q w s) : Keeps q w (cardIrq s p) := by
  unfold cardIrq
  try dsimp only
  repeat' first
    | with_reducible assumption
    | intro _
    | with_reducible apply raise_keeps
    | with_reducible apply Keeps.ite
    | with_reducible apply Keeps.foldl
    | split

theorem cardDone_keeps {s : State} (p : Nat) (err : Nat) (hs : Keeps q w s) : Keeps q w (cardDone s p err) := by
  unfold cardDone
  try dsimp only
  repeat' first
    | with_reducible assumption
    | intro _
    | with_reducible apply cardIrq_keeps
    | with_reducible apply setF_keeps
    | with_reducible apply Keeps.ite
    | with_reducible apply Keeps.foldl
    | split

theorem cardOff_keeps {s : State} (p : Nat) (st : Nat) (hs : Keeps q w s) : Keeps q w (cardOff s p st) := by
  unfold cardOff
  try dsimp only
  repeat' first
    | with_reducible assumption
    | intro _
    | with_reducible apply setCard_keeps
    | with_reducible apply setF_keeps
    | with_reducible apply Keeps.ite
    | with_reducible apply Keeps.foldl
    | split
    | with_reducible apply Keeps.upd

theorem cardStart_keeps {s : State} (p : Nat) (cmd : Nat) (hs : Keeps q w s) : Keeps q w (cardStart s p cmd) := by
  unfold cardStart
  try dsimp only
  repeat' first
    | with_reducible assumption
    | intro _
    | with_reducible apply setCard_keeps
    | with_reducible apply setF_keeps
    | with_reducible apply Keeps.ite
    | with_reducible apply Keeps.foldl
    | split
    | with_reducible apply Keeps.upd

theorem cardCmd_keeps (p : Nat) (cmd : Nat) (states : List Nat) (go : State → State) {s : State} (hgo : ∀ x0, Keeps q w x0 → Keeps q w (go x0)) (hs : Keeps q w s) : KeepsR q w (cardCmd p cmd states go s) := by
  unfold cardCmd
  try dsimp only
  repeat' first
    | with_reducible assumption
    | intro _
    | with_reducible apply hgo
    | with_reducible apply cardStart_keeps
    | with_reducible apply cardDone_keeps
    | with_reducible apply withPort_keeps
    | with_reducible apply Keeps.ite
    | with_reducible apply Keeps.foldl
    | with_reducible apply KeepsR.next
    | with_reducible apply KeepsR.ite
    | split

theorem execActivate_keeps (port : Fin 2) {s : State} (hs : Keeps q w s) : KeepsR q w (execActivate port s) := by
  unfold execActivate
  try dsimp only
  repeat' first
    | with_reducible assumption
    | intro _
    | with_reducible apply cardCmd_keeps
    | with_reducible apply Keeps.ite
    | with_reducible apply Keeps.foldl
    | with_reducible apply KeepsR.next
    | with_reducible apply KeepsR.ite
    | split

theorem execDeactivate_keeps (port : Fin 2) {s : State} (hs : Keeps q w s) : KeepsR q w (execDeactivate port s) := by
  unfold execDeactivate
  try dsimp only
  repeat' first
    | with_reducible assumption
    | intro _
    | with_reducible apply cardCmd_keeps
    | with_reducible apply Keeps.ite
    | with_reducible apply Keeps.foldl
    | with_reducible apply KeepsR.next
    | with_reducible apply KeepsR.ite
    | split

theorem execWarmReset_keeps (port : Fin 2) {s : State} (hs : Keeps q w s) : KeepsR q w (execWarmReset port s) := by
  unfold execWarmReset
  try dsimp only
  repeat' first
    | with_reducible assumption
    | intro _
    | with_reducible apply cardCmd_keeps
    | with_reducible apply Keeps.ite
    | with_reducible apply Keeps.foldl
    | with_reducible apply KeepsR.next
    | with_reducible apply KeepsR.ite
    | split

theorem takeApdu_keeps {s : State} (p : Nat) (hs : Keeps q w s) : Keeps q w (takeApdu s p) := by
  unfold takeApdu
  try dsimp only
  repeat' first
    | with_reducible assumption
    | intro _
    | refine Keeps.eqP (by with_reducible assumption) ?_
    | with_reducible apply setCard_keeps
    | with_reducible apply drawBytes_keeps
    | with_reducible apply setF_keeps
    | with_reducible apply Keeps.ite
    | with_reducible apply Keeps.foldl
    | with_reducible apply KeepsP.ite
    | with_reducible apply KeepsP.foldl
    | split
    | with_reducible apply Keeps.snd
    | with_reducible apply KeepsP.pair
    | with_reducible apply Keeps.upd

theorem execExchange_keeps (port : Fin 2) {s : State} (hs : Keeps q w s) : KeepsR q w (execExchange port s) := by
  unfold execExchange
  try dsimp only
  repeat' first
    | with_reducible assumption
    | intro _
    | with_reducible apply takeApdu_keeps
    | with_reducible apply cardCmd_keeps
    | with_reducible apply cardDone_keeps
    | with_reducible apply withPort_keeps
    | with_reducible apply Keeps.ite
    | with_reducible apply Keeps.foldl
    | with_reducible apply KeepsR.next
    | with_reducible apply KeepsR.ite
    | split

theorem execCardDataAccess_keeps (port : Fin 2) (w_ : Option W32) {s : State} (hs : Keeps q w s) : KeepsR q w (execCardDataAccess port w_ s) := by
  unfold execCardDataAccess
  try dsimp only
  repeat' first
    | with_reducible assumption
    | intro _
    | with_reducible apply withPort_keeps
    | with_reducible apply setCard_keeps
    | with_reducible apply setF_keeps
    | with_reducible apply Keeps.ite
    | with_reducible apply Keeps.foldl
    | with_reducible apply KeepsR.next
    | with_reducible apply KeepsR.ite
    | split
    | with_reducible apply Keeps.upd

theorem updSession_keeps {s : State} (f : Session → Session) (hs : Keeps q w s) : Keeps q w (updSession s f) := by
  unfold updSession
  try dsimp only
  repeat' first
    | with_reducible assumption
    | intro _
    | with_reducible apply Keeps.ite
    | with_reducible apply Keeps.foldl
    | split
    | with_reducible apply Keeps.upd

theorem cardInfo_keeps {s : State} (p : Nat) (data : Bytes) (hs : Keeps q w s) : Keeps q w (cardInfo s p data) := by
  unfold cardInfo
  try dsimp only
  repeat' first
    | with_reducible assumption
    | intro _
    | with_reducible apply cardOff_keeps
    | with_reducible apply setCard_keeps
    | with_reducible apply bumpNoSat_keeps
    | with_reducible apply Keeps.ite
    | with_reducible apply Keeps.foldl
    | split
    | with_reducible apply Keeps.upd

theorem cardApprove_keeps {s : State} (p : Nat) (req : Bytes) (sig : Bytes) (hs : Keeps q w s) : Keeps q w (cardApprove s p req sig) := by
  unfold cardApprove
  try dsimp only
  repeat' first
    | with_reducible assumption
    | intro _
    | with_reducible apply updSession_keeps
    | with_reducible apply Keeps.ite
    | with_reducible apply Keeps.foldl
    | split
    | with_reducible apply Keeps.upd

theorem cardShare_keeps {s : State} (p : Nat) (req : Bytes) (data : Bytes) (hs : Keeps q w s) : Keeps q w (cardShare s p req data) := by
  unfold cardShare
  try dsimp only
  repeat' first
    | with_reducible assumption
    | intro _
    | with_reducible apply updSession_keeps
    | with_reducible apply Keeps.ite
    | with_reducible apply Keeps.foldl
    | split
    | with_reducible apply Keeps.upd

theorem appletStep_keeps {s : State} (p : Nat) (sw : Nat) (data : Bytes) (hs : Keeps q w s) : Keeps q w (appletStep s p sw data) := by
  unfold appletStep
  try dsimp only
  repeat' first
    | with_reducible assumption
    | intro _
    | with_reducible apply cardShare_keeps
    | with_reducible apply cardApprove_keeps
    | with_reducible apply cardInfo_keeps
    | with_reducible apply cardOff_keeps
    | with_reducible apply setCard_keeps
    | with_reducible apply Keeps.ite
    | with_reducible apply Keeps.foldl
    | split
    | with_reducible apply Keeps.upd

theorem activated_keeps {s : State} (p : Nat) (e : CardEnd) (hs : Keeps q w s) : Keeps q w (activated s p e) := by
  unfold activated
  try dsimp only
  repeat' first
    | with_reducible assumption
    | intro _
    | with_reducible apply cardOff_keeps
    | with_reducible apply setCard_keeps
    | with_reducible apply setB_keeps
    | with_reducible apply setF_keeps
    | with_reducible apply Keeps.ite
    | with_reducible apply Keeps.foldl
    | split
    | with_reducible apply Keeps.upd

theorem exchanged_keeps {s : State} (p : Nat) (e : CardEnd) (hs : Keeps q w s) : Keeps q w (exchanged s p e) := by
  unfold exchanged
  try dsimp only
  repeat' first
    | with_reducible assumption
    | intro _
    | with_reducible apply appletStep_keeps
    | with_reducible apply setCard_keeps
    | with_reducible apply bump_keeps
    | with_reducible apply setF_keeps
    | with_reducible apply Keeps.ite
    | with_reducible apply Keeps.foldl
    | split
    | with_reducible apply Keeps.upd

theorem execCardOperationEnd_keeps (port : Fin 2) (e : CardEnd) {s : State} (hs : Keeps q w s) : KeepsR q w (execCardOperationEnd port e s) := by
  unfold execCardOperationEnd
  try dsimp only
  repeat' first
    | with_reducible assumption
    | intro _
    | with_reducible apply exchanged_keeps
    | with_reducible apply activated_keeps
    | with_reducible apply cardOff_keeps
    | with_reducible apply cardDone_keeps
    | with_reducible apply withPort_keeps
    | with_reducible apply setCard_keeps
    | with_reducible apply setF_keeps
    | with_reducible apply Keeps.ite
    | with_reducible apply Keeps.foldl
    | with_reducible apply KeepsR.next
    | with_reducible apply KeepsR.ite
    | split
    | with_reducible apply Keeps.upd

theorem execCardInsertion_keeps (port : Fin 2) {s : State} (hs : Keeps q w s) : KeepsR q w (execCardInsertion port s) := by
  unfold execCardInsertion
  try dsimp only
  repeat' first
    | with_reducible assumption
    | intro _
    | with_reducible apply withPort_keeps
    | with_reducible apply setCard_keeps
    | with_reducible apply setF_keeps
    | with_reducible apply Keeps.ite
    | with_reducible apply Keeps.foldl
    | with_reducible apply KeepsR.next
    | with_reducible apply KeepsR.ite
    | split

theorem cardAbort_keeps {s : State} (p : Nat) (err : Nat) (hs : Keeps q w s) : Keeps q w (cardAbort s p err) := by
  unfold cardAbort
  try dsimp only
  repeat' first
    | with_reducible assumption
    | intro _
    | with_reducible apply cardDone_keeps
    | with_reducible apply setCard_keeps
    | with_reducible apply setF_keeps
    | with_reducible apply Keeps.ite
    | with_reducible apply Keeps.foldl
    | split
    | with_reducible apply Keeps.upd

theorem execCardRemoval_keeps (port : Fin 2) {s : State} (hs : Keeps q w s) : KeepsR q w (execCardRemoval port s) := by
  unfold execCardRemoval
  try dsimp only
  repeat' first
    | with_reducible assumption
    | intro _
    | with_reducible apply cardAbort_keeps
    | with_reducible apply cardOff_keeps
    | with_reducible apply cardIrq_keeps
    | with_reducible apply withPort_keeps
    | with_reducible apply setCard_keeps
    | with_reducible apply setF_keeps
    | with_reducible apply Keeps.ite
    | with_reducible apply Keeps.foldl
    | with_reducible apply KeepsR.next
    | with_reducible apply KeepsR.ite
    | split
    | with_reducible apply Keeps.upd

theorem execCardOvercurrent_keeps (port : Fin 2) {s : State} (hs : Keeps q w s) : KeepsR q w (execCardOvercurrent port s) := by
  unfold execCardOvercurrent
  try dsimp only
  repeat' first
    | with_reducible assumption
    | intro _
    | with_reducible apply cardAbort_keeps
    | with_reducible apply cardOff_keeps
    | with_reducible apply withPort_keeps
    | with_reducible apply setF_keeps
    | with_reducible apply Keeps.ite
    | with_reducible apply Keeps.foldl
    | with_reducible apply KeepsR.next
    | with_reducible apply KeepsR.ite
    | split

theorem execQuorumSessionExpiry_keeps {s : State} (hs : Keeps q w s) : KeepsR q w (execQuorumSessionExpiry s) := by
  unfold execQuorumSessionExpiry
  try dsimp only
  repeat' first
    | with_reducible assumption
    | intro _
    | with_reducible apply cancelSession_keeps
    | with_reducible apply Keeps.ite
    | with_reducible apply Keeps.foldl
    | with_reducible apply KeepsR.next
    | with_reducible apply KeepsR.ite
    | split

end Sys2Proof.Machine
end

