-- ==== Sys2Proof/Laws/KeepsCipTile.lean ====
section
/-!
SUPPORT. Laws/KeepsCipTile.lean: what the operations of CipTile.lean keep.
-/
namespace Sys2Proof.Machine

variable {q : List Instr} {w : FuseBits}

theorem setCipCtx_keeps {s : State} (p : CipStep) (x : CipCtx) (hs : Keeps q w s) : Keeps q w (setCipCtx s p x) := by
  unfold setCipCtx
  try dsimp only
  repeat' first
    | with_reducible assumption
    | intro _
    | with_reducible apply Keeps.ite
    | with_reducible apply Keeps.foldl
    | split
    | with_reducible apply Keeps.upd

theorem cipStepS_keeps {s : State} (p : CipStep) (f : TagEntry → CipCtx → State → CipCtx × State) (hs : Keeps q w s) (hf : ∀ x0 x1 x2, Keeps q w x2 → KeepsP q w (f x0 x1 x2)) : KeepsR q w (cipStepS s p f) := by
  unfold cipStepS
  try dsimp only
  repeat' first
    | with_reducible assumption
    | intro _
    | refine Keeps.eqP (by with_reducible assumption) ?_
    | with_reducible apply hf
    | with_reducible apply setCipCtx_keeps
    | with_reducible apply Keeps.ite
    | with_reducible apply Keeps.foldl
    | with_reducible apply KeepsR.next
    | with_reducible apply KeepsR.ite
    | with_reducible apply KeepsP.ite
    | with_reducible apply KeepsP.foldl
    | split
    | with_reducible apply Keeps.snd
    | with_reducible apply KeepsP.pair

theorem cipStep_keeps {s : State} (p : CipStep) (f : TagEntry → CipCtx → CipCtx) (hs : Keeps q w s) : KeepsR q w (cipStep s p f) := by
  unfold cipStep
  try dsimp only
  repeat' first
    | with_reducible assumption
    | intro _
    | with_reducible apply setCipCtx_keeps
    | with_reducible apply Keeps.ite
    | with_reducible apply Keeps.foldl
    | with_reducible apply KeepsR.next
    | with_reducible apply KeepsR.ite
    | split

theorem execAesk_keeps (p : CipStep) {s : State} (hs : Keeps q w s) : KeepsR q w (execAesk p s) := by
  unfold execAesk
  try dsimp only
  repeat' first
    | with_reducible assumption
    | intro _
    | with_reducible apply cipStep_keeps
    | with_reducible apply Keeps.ite
    | with_reducible apply Keeps.foldl
    | with_reducible apply KeepsR.next
    | with_reducible apply KeepsR.ite
    | split
    | with_reducible apply Keeps.upd

theorem execAese_keeps (p : CipStep) {s : State} (hs : Keeps q w s) : KeepsR q w (execAese p s) := by
  unfold execAese
  try dsimp only
  repeat' first
    | with_reducible assumption
    | intro _
    | with_reducible apply cipStep_keeps
    | with_reducible apply Keeps.ite
    | with_reducible apply Keeps.foldl
    | with_reducible apply KeepsR.next
    | with_reducible apply KeepsR.ite
    | split

theorem execAesd_keeps (p : CipStep) {s : State} (hs : Keeps q w s) : KeepsR q w (execAesd p s) := by
  unfold execAesd
  try dsimp only
  repeat' first
    | with_reducible assumption
    | intro _
    | with_reducible apply cipStep_keeps
    | with_reducible apply Keeps.ite
    | with_reducible apply Keeps.foldl
    | with_reducible apply KeepsR.next
    | with_reducible apply KeepsR.ite
    | split

theorem execDesk_keeps (p : CipStep) {s : State} (hs : Keeps q w s) : KeepsR q w (execDesk p s) := by
  unfold execDesk
  try dsimp only
  repeat' first
    | with_reducible assumption
    | intro _
    | with_reducible apply cipStep_keeps
    | with_reducible apply Keeps.ite
    | with_reducible apply Keeps.foldl
    | with_reducible apply KeepsR.next
    | with_reducible apply KeepsR.ite
    | split
    | with_reducible apply Keeps.upd

theorem execDese_keeps (p : CipStep) {s : State} (hs : Keeps q w s) : KeepsR q w (execDese p s) := by
  unfold execDese
  try dsimp only
  repeat' first
    | with_reducible assumption
    | intro _
    | with_reducible apply cipStep_keeps
    | with_reducible apply Keeps.ite
    | with_reducible apply Keeps.foldl
    | with_reducible apply KeepsR.next
    | with_reducible apply KeepsR.ite
    | split

theorem execDesd_keeps (p : CipStep) {s : State} (hs : Keeps q w s) : KeepsR q w (execDesd p s) := by
  unfold execDesd
  try dsimp only
  repeat' first
    | with_reducible assumption
    | intro _
    | with_reducible apply cipStep_keeps
    | with_reducible apply Keeps.ite
    | with_reducible apply Keeps.foldl
    | with_reducible apply KeepsR.next
    | with_reducible apply KeepsR.ite
    | split

theorem execCipXor_keeps (p : CipStep) {s : State} (hs : Keeps q w s) : KeepsR q w (execCipXor p s) := by
  unfold execCipXor
  try dsimp only
  repeat' first
    | with_reducible assumption
    | intro _
    | with_reducible apply cipStep_keeps
    | with_reducible apply Keeps.ite
    | with_reducible apply Keeps.foldl
    | with_reducible apply KeepsR.next
    | with_reducible apply KeepsR.ite
    | split

theorem execCtrb_keeps (p : CipStep) {s : State} (hs : Keeps q w s) : KeepsR q w (execCtrb p s) := by
  unfold execCtrb
  try dsimp only
  repeat' first
    | with_reducible assumption
    | intro _
    | with_reducible apply cipStep_keeps
    | with_reducible apply Keeps.ite
    | with_reducible apply Keeps.foldl
    | with_reducible apply KeepsR.next
    | with_reducible apply KeepsR.ite
    | split

theorem execMula_keeps (p : CipStep) {s : State} (hs : Keeps q w s) : KeepsR q w (execMula p s) := by
  unfold execMula
  try dsimp only
  repeat' first
    | with_reducible assumption
    | intro _
    | with_reducible apply cipStep_keeps
    | with_reducible apply Keeps.ite
    | with_reducible apply Keeps.foldl
    | with_reducible apply KeepsR.next
    | with_reducible apply KeepsR.ite
    | split

theorem execGhash_keeps (p : CipStep) {s : State} (hs : Keeps q w s) : KeepsR q w (execGhash p s) := by
  unfold execGhash
  try dsimp only
  repeat' first
    | with_reducible assumption
    | intro _
    | with_reducible apply cipStep_keeps
    | with_reducible apply Keeps.ite
    | with_reducible apply Keeps.foldl
    | with_reducible apply KeepsR.next
    | with_reducible apply KeepsR.ite
    | split
    | with_reducible apply Keeps.upd

theorem execShai_keeps (p : CipStep) {s : State} (hs : Keeps q w s) : KeepsR q w (execShai p s) := by
  unfold execShai
  try dsimp only
  repeat' first
    | with_reducible assumption
    | intro _
    | with_reducible apply cipStep_keeps
    | with_reducible apply Keeps.ite
    | with_reducible apply Keeps.foldl
    | with_reducible apply KeepsR.next
    | with_reducible apply KeepsR.ite
    | split
    | with_reducible apply Keeps.upd

theorem execShac_keeps (p : CipStep) {s : State} (hs : Keeps q w s) : KeepsR q w (execShac p s) := by
  unfold execShac
  try dsimp only
  repeat' first
    | with_reducible assumption
    | intro _
    | with_reducible apply cipStep_keeps
    | with_reducible apply Keeps.ite
    | with_reducible apply Keeps.foldl
    | with_reducible apply KeepsR.next
    | with_reducible apply KeepsR.ite
    | split
    | with_reducible apply Keeps.upd

theorem execShaf_keeps (p : CipStep) (tail : Bytes) {s : State} (hs : Keeps q w s) : KeepsR q w (execShaf p tail s) := by
  unfold execShaf
  try dsimp only
  repeat' first
    | with_reducible assumption
    | intro _
    | with_reducible apply cipStep_keeps
    | with_reducible apply Keeps.ite
    | with_reducible apply Keeps.foldl
    | with_reducible apply KeepsR.next
    | with_reducible apply KeepsR.ite
    | split

theorem execPindec_keeps (p : CipStep) {s : State} (hs : Keeps q w s) : KeepsR q w (execPindec p s) := by
  unfold execPindec
  try dsimp only
  repeat' first
    | with_reducible assumption
    | intro _
    | with_reducible apply cipStep_keeps
    | with_reducible apply Keeps.ite
    | with_reducible apply Keeps.foldl
    | with_reducible apply KeepsR.next
    | with_reducible apply KeepsR.ite
    | split

theorem execPinenc_keeps (p : CipStep) {s : State} (hs : Keeps q w s) : KeepsR q w (execPinenc p s) := by
  unfold execPinenc
  try dsimp only
  repeat' first
    | with_reducible assumption
    | intro _
    | with_reducible apply cipStep_keeps
    | with_reducible apply Keeps.ite
    | with_reducible apply Keeps.foldl
    | with_reducible apply KeepsR.next
    | with_reducible apply KeepsR.ite
    | split

theorem execCipRand_keeps (p : CipStep) {s : State} (hs : Keeps q w s) : KeepsR q w (execCipRand p s) := by
  unfold execCipRand
  try dsimp only
  repeat' first
    | with_reducible assumption
    | intro _
    | refine Keeps.eqP (by with_reducible assumption) ?_
    | with_reducible apply cipStepS_keeps
    | with_reducible apply stepDrew_keeps
    | with_reducible apply prefetchBits_keeps
    | with_reducible apply Keeps.ite
    | with_reducible apply Keeps.foldl
    | with_reducible apply KeepsR.next
    | with_reducible apply KeepsR.ite
    | with_reducible apply KeepsP.ite
    | with_reducible apply KeepsP.foldl
    | split
    | with_reducible apply Keeps.snd
    | with_reducible apply KeepsP.pair

theorem execCipCeq_keeps (p : CipStep) {s : State} (hs : Keeps q w s) : KeepsR q w (execCipCeq p s) := by
  unfold execCipCeq
  try dsimp only
  repeat' first
    | with_reducible assumption
    | intro _
    | with_reducible apply cipStep_keeps
    | with_reducible apply Keeps.ite
    | with_reducible apply Keeps.foldl
    | with_reducible apply KeepsR.next
    | with_reducible apply KeepsR.ite
    | split

theorem execCipCsel_keeps (p : CipStep) {s : State} (hs : Keeps q w s) : KeepsR q w (execCipCsel p s) := by
  unfold execCipCsel
  try dsimp only
  repeat' first
    | with_reducible assumption
    | intro _
    | with_reducible apply cipStep_keeps
    | with_reducible apply Keeps.ite
    | with_reducible apply Keeps.foldl
    | with_reducible apply KeepsR.next
    | with_reducible apply KeepsR.ite
    | split

theorem execCipRefresh_keeps (p : CipStep) {s : State} (hs : Keeps q w s) : KeepsR q w (execCipRefresh p s) := by
  unfold execCipRefresh
  try dsimp only
  repeat' first
    | with_reducible assumption
    | intro _
    | refine Keeps.eqP (by with_reducible assumption) ?_
    | with_reducible apply draw_keeps
    | with_reducible apply Keeps.ite
    | with_reducible apply Keeps.foldl
    | with_reducible apply KeepsR.next
    | with_reducible apply KeepsR.ite
    | with_reducible apply KeepsP.ite
    | with_reducible apply KeepsP.foldl
    | split
    | with_reducible apply Keeps.snd
    | with_reducible apply KeepsP.pair

theorem execTrunc_keeps (p : CipStep) {s : State} (hs : Keeps q w s) : KeepsR q w (execTrunc p s) := by
  unfold execTrunc
  try dsimp only
  repeat' first
    | with_reducible assumption
    | intro _
    | with_reducible apply cipStep_keeps
    | with_reducible apply Keeps.ite
    | with_reducible apply Keeps.foldl
    | with_reducible apply KeepsR.next
    | with_reducible apply KeepsR.ite
    | split

theorem execBlocks_keeps (p : CipStep) {s : State} (hs : Keeps q w s) : KeepsR q w (execBlocks p s) := by
  unfold execBlocks
  try dsimp only
  repeat' first
    | with_reducible assumption
    | intro _
    | with_reducible apply setCipCtx_keeps
    | with_reducible apply Keeps.ite
    | with_reducible apply Keeps.foldl
    | with_reducible apply KeepsR.next
    | with_reducible apply KeepsR.ite
    | split
    | with_reducible apply Keeps.upd

theorem execCipKcload_keeps (p : CipStep) {s : State} (hs : Keeps q w s) : KeepsR q w (execCipKcload p s) := by
  unfold execCipKcload
  try dsimp only
  repeat' first
    | with_reducible assumption
    | intro _
    | refine Keeps.eqP (by with_reducible assumption) ?_
    | with_reducible apply cipStepS_keeps
    | with_reducible apply stepLoad_keeps
    | with_reducible apply Keeps.ite
    | with_reducible apply Keeps.foldl
    | with_reducible apply KeepsR.next
    | with_reducible apply KeepsR.ite
    | with_reducible apply KeepsP.ite
    | with_reducible apply KeepsP.foldl
    | split
    | with_reducible apply Keeps.snd
    | with_reducible apply KeepsP.pair
    | with_reducible apply Keeps.upd

theorem execCipInrd_keeps (p : CipStep) (bytes : Bytes) {s : State} (hs : Keeps q w s) : KeepsR q w (execCipInrd p bytes s) := by
  unfold execCipInrd
  try dsimp only
  repeat' first
    | with_reducible assumption
    | intro _
    | with_reducible apply cipStep_keeps
    | with_reducible apply Keeps.ite
    | with_reducible apply Keeps.foldl
    | with_reducible apply KeepsR.next
    | with_reducible apply KeepsR.ite
    | split

theorem execCipOutst_keeps (p : CipStep) {s : State} (hs : Keeps q w s) : KeepsR q w (execCipOutst p s) := by
  unfold execCipOutst
  try dsimp only
  repeat' first
    | with_reducible assumption
    | intro _
    | with_reducible apply cipStep_keeps
    | with_reducible apply Keeps.ite
    | with_reducible apply Keeps.foldl
    | with_reducible apply KeepsR.next
    | with_reducible apply KeepsR.ite
    | split
    | with_reducible apply Keeps.upd

theorem execPkout_keeps (p : CipStep) {s : State} (hs : Keeps q w s) : KeepsR q w (execPkout p s) := by
  unfold execPkout
  try dsimp only
  repeat' first
    | with_reducible assumption
    | intro _
    | with_reducible apply cipStep_keeps
    | with_reducible apply Keeps.ite
    | with_reducible apply Keeps.foldl
    | with_reducible apply KeepsR.next
    | with_reducible apply KeepsR.ite
    | split
    | with_reducible apply Keeps.upd

theorem execPkin_keeps (p : CipAt) (c : BitVec 12) {s : State} (hs : Keeps q w s) : KeepsR q w (execPkin p c s) := by
  unfold execPkin
  try dsimp only
  repeat' first
    | with_reducible assumption
    | intro _
    | with_reducible apply cipStep_keeps
    | with_reducible apply Keeps.ite
    | with_reducible apply Keeps.foldl
    | with_reducible apply KeepsR.next
    | with_reducible apply KeepsR.ite
    | split

end Sys2Proof.Machine
end

