-- ==== Sys2Proof/Laws/KeepsCipCmds.lean ====
section
/-!
SUPPORT. Laws/KeepsCipCmds.lean: what the operations of CipCmds.lean keep.
-/
namespace Sys2Proof.Machine

variable {q : List Instr} {w : FuseBits}

theorem useKeys_keeps {s : State} (fails : List MemFail) (l : List Nat) (hs : Keeps q w s) : KeepsP q w (useKeys s fails l) := by
  induction l generalizing s with
  | nil => exact ⟨hs⟩
  | cons h l ih => exact ⟨(ih (useKey_keeps h fails hs).out).out⟩

theorem cipStart_keeps {s : State} (t : TagEntry) (r : Run) (rcls : Nat) (hs_ : List Nat) (verdictOp : Bool) (f : List KeyObj → Bytes → State → CipResult × State) (hs : Keeps q w s) (hf : ∀ x0 x1 x2, Keeps q w x2 → KeepsP q w (f x0 x1 x2)) : Keeps q w (cipStart s t r rcls hs_ verdictOp f) := by
  unfold cipStart
  try dsimp only
  repeat' first
    | with_reducible assumption
    | intro _
    | refine Keeps.eqP (by with_reducible assumption) ?_
    | with_reducible apply hf
    | with_reducible apply useKeys_keeps
    | with_reducible apply startOn_keeps
    | with_reducible apply Keeps.ite
    | with_reducible apply Keeps.foldl
    | with_reducible apply KeepsP.ite
    | with_reducible apply KeepsP.foldl
    | split
    | with_reducible apply Keeps.snd
    | with_reducible apply KeepsP.pair

theorem cipCommit_keeps {s : State} (t : TagEntry) (r : Run) (rcls : Nat) (hs_ : List Nat) (verdictOp : Bool) (f : List KeyObj → Bytes → State → CipResult × State) (hs : Keeps q w s) (hf : ∀ x0 x1 x2, Keeps q w x2 → KeepsP q w (f x0 x1 x2)) : Keeps q w (cipCommit s t r rcls hs_ verdictOp f) := by
  unfold cipCommit
  try dsimp only
  repeat' first
    | with_reducible assumption
    | intro _
    | refine Keeps.eqP (by with_reducible assumption) ?_
    | with_reducible apply hf
    | with_reducible apply cipStart_keeps
    | with_reducible apply reserve_keeps
    | with_reducible apply failTag_keeps
    | with_reducible apply Keeps.ite
    | with_reducible apply Keeps.foldl
    | with_reducible apply KeepsP.ite
    | with_reducible apply KeepsP.foldl
    | split
    | with_reducible apply Keeps.snd
    | with_reducible apply KeepsP.pair

theorem cipherRun_keeps (e : Bytes) (dec : Bool) (ks : List KeyObj) (b : Bytes) {s : State} (hs : Keeps q w s) : KeepsP q w (cipherRun e dec ks b s) := by
  unfold cipherRun
  try dsimp only
  repeat' first
    | with_reducible assumption
    | intro _
    | refine Keeps.eqP (by with_reducible assumption) ?_
    | with_reducible apply Keeps.ite
    | with_reducible apply Keeps.foldl
    | with_reducible apply KeepsP.ite
    | with_reducible apply KeepsP.foldl
    | split
    | with_reducible apply Keeps.snd
    | with_reducible apply KeepsP.pair

theorem goCipherRow_keeps (r : Run) (dec : Bool) {s : State} (t : TagEntry) (hs : Keeps q w s) : Keeps q w (goCipherRow r dec s t) := by
  unfold goCipherRow
  try dsimp only
  repeat' first
    | with_reducible assumption
    | intro _
    | refine Keeps.eqP (by with_reducible assumption) ?_
    | with_reducible apply cipherRun_keeps
    | with_reducible apply cipCommit_keeps
    | with_reducible apply Keeps.ite
    | with_reducible apply Keeps.foldl
    | with_reducible apply KeepsP.ite
    | with_reducible apply KeepsP.foldl
    | split
    | with_reducible apply Keeps.snd
    | with_reducible apply KeepsP.pair

theorem cipherRow_keeps (r : Run) (op : Nat) (dec : Bool) {s : State} (hs : Keeps q w s) : KeepsR q w (cipherRow r op dec s) := by
  unfold cipherRow
  try dsimp only
  repeat' first
    | with_reducible assumption
    | intro _
    | with_reducible apply goCipherRow_keeps
    | with_reducible apply checked_keeps
    | with_reducible apply Keeps.ite
    | with_reducible apply Keeps.foldl
    | with_reducible apply KeepsR.next
    | with_reducible apply KeepsR.ite
    | split

theorem execCipherEncrypt_keeps (r : Run) {s : State} (hs : Keeps q w s) : KeepsR q w (execCipherEncrypt r s) := by
  unfold execCipherEncrypt
  try dsimp only
  repeat' first
    | with_reducible assumption
    | intro _
    | with_reducible apply cipherRow_keeps
    | with_reducible apply Keeps.ite
    | with_reducible apply Keeps.foldl
    | with_reducible apply KeepsR.next
    | with_reducible apply KeepsR.ite
    | split

theorem execCipherDecrypt_keeps (r : Run) {s : State} (hs : Keeps q w s) : KeepsR q w (execCipherDecrypt r s) := by
  unfold execCipherDecrypt
  try dsimp only
  repeat' first
    | with_reducible assumption
    | intro _
    | with_reducible apply cipherRow_keeps
    | with_reducible apply Keeps.ite
    | with_reducible apply Keeps.foldl
    | with_reducible apply KeepsR.next
    | with_reducible apply KeepsR.ite
    | split

theorem execCipherEncryptM_keeps (r : Run) {s : State} (hs : Keeps q w s) : KeepsR q w (execCipherEncryptM r s) := by
  unfold execCipherEncryptM
  try dsimp only
  repeat' first
    | with_reducible assumption
    | intro _
    | with_reducible apply cipherRow_keeps
    | with_reducible apply Keeps.ite
    | with_reducible apply Keeps.foldl
    | with_reducible apply KeepsR.next
    | with_reducible apply KeepsR.ite
    | split

theorem execCipherDecryptM_keeps (r : Run) {s : State} (hs : Keeps q w s) : KeepsR q w (execCipherDecryptM r s) := by
  unfold execCipherDecryptM
  try dsimp only
  repeat' first
    | with_reducible assumption
    | intro _
    | with_reducible apply cipherRow_keeps
    | with_reducible apply Keeps.ite
    | with_reducible apply Keeps.foldl
    | with_reducible apply KeepsR.next
    | with_reducible apply KeepsR.ite
    | split

theorem goStreamEncrypt_keeps (r : Run) {s : State} (t : TagEntry) (hs : Keeps q w s) : Keeps q w (goStreamEncrypt r s t) := by
  unfold goStreamEncrypt
  try dsimp only
  repeat' first
    | with_reducible assumption
    | intro _
    | refine Keeps.eqP (by with_reducible assumption) ?_
    | with_reducible apply startOn_keeps
    | with_reducible apply reserve_keeps
    | with_reducible apply useKey_keeps
    | with_reducible apply kcUpd_keeps
    | with_reducible apply failTag_keeps
    | with_reducible apply Keeps.ite
    | with_reducible apply Keeps.foldl
    | with_reducible apply KeepsP.ite
    | with_reducible apply KeepsP.foldl
    | split
    | with_reducible apply Keeps.snd
    | with_reducible apply KeepsP.pair
    | with_reducible apply Keeps.upd

theorem execStreamEncrypt_keeps (r : Run) {s : State} (hs : Keeps q w s) : KeepsR q w (execStreamEncrypt r s) := by
  unfold execStreamEncrypt
  try dsimp only
  repeat' first
    | with_reducible assumption
    | intro _
    | with_reducible apply goStreamEncrypt_keeps
    | with_reducible apply checked_keeps
    | with_reducible apply Keeps.ite
    | with_reducible apply Keeps.foldl
    | with_reducible apply KeepsR.next
    | with_reducible apply KeepsR.ite
    | split

theorem goMacRow_keeps (r : Run) (ver : Bool) {s : State} (t : TagEntry) (hs : Keeps q w s) : Keeps q w (goMacRow r ver s t) := by
  unfold goMacRow
  try dsimp only
  repeat' first
    | with_reducible assumption
    | intro _
    | refine Keeps.eqP (by with_reducible assumption) ?_
    | with_reducible apply cipCommit_keeps
    | with_reducible apply Keeps.ite
    | with_reducible apply Keeps.foldl
    | with_reducible apply KeepsP.ite
    | with_reducible apply KeepsP.foldl
    | split
    | with_reducible apply Keeps.snd
    | with_reducible apply KeepsP.pair

theorem macRow_keeps (r : Run) (op : Nat) (ver : Bool) {s : State} (hs : Keeps q w s) : KeepsR q w (macRow r op ver s) := by
  unfold macRow
  try dsimp only
  repeat' first
    | with_reducible assumption
    | intro _
    | with_reducible apply goMacRow_keeps
    | with_reducible apply checked_keeps
    | with_reducible apply Keeps.ite
    | with_reducible apply Keeps.foldl
    | with_reducible apply KeepsR.next
    | with_reducible apply KeepsR.ite
    | split

theorem execMacGenerate_keeps (r : Run) {s : State} (hs : Keeps q w s) : KeepsR q w (execMacGenerate r s) := by
  unfold execMacGenerate
  try dsimp only
  repeat' first
    | with_reducible assumption
    | intro _
    | with_reducible apply macRow_keeps
    | with_reducible apply Keeps.ite
    | with_reducible apply Keeps.foldl
    | with_reducible apply KeepsR.next
    | with_reducible apply KeepsR.ite
    | split

theorem execMacVerify_keeps (r : Run) {s : State} (hs : Keeps q w s) : KeepsR q w (execMacVerify r s) := by
  unfold execMacVerify
  try dsimp only
  repeat' first
    | with_reducible assumption
    | intro _
    | with_reducible apply macRow_keeps
    | with_reducible apply Keeps.ite
    | with_reducible apply Keeps.foldl
    | with_reducible apply KeepsR.next
    | with_reducible apply KeepsR.ite
    | split

theorem execMacGenerateM_keeps (r : Run) {s : State} (hs : Keeps q w s) : KeepsR q w (execMacGenerateM r s) := by
  unfold execMacGenerateM
  try dsimp only
  repeat' first
    | with_reducible assumption
    | intro _
    | with_reducible apply macRow_keeps
    | with_reducible apply Keeps.ite
    | with_reducible apply Keeps.foldl
    | with_reducible apply KeepsR.next
    | with_reducible apply KeepsR.ite
    | split

theorem execMacVerifyM_keeps (r : Run) {s : State} (hs : Keeps q w s) : KeepsR q w (execMacVerifyM r s) := by
  unfold execMacVerifyM
  try dsimp only
  repeat' first
    | with_reducible assumption
    | intro _
    | with_reducible apply macRow_keeps
    | with_reducible apply Keeps.ite
    | with_reducible apply Keeps.foldl
    | with_reducible apply KeepsR.next
    | with_reducible apply KeepsR.ite
    | split

theorem goHash_keeps (r : Run) {s : State} (t : TagEntry) (hs : Keeps q w s) : Keeps q w (goHash r s t) := by
  unfold goHash
  try dsimp only
  repeat' first
    | with_reducible assumption
    | intro _
    | refine Keeps.eqP (by with_reducible assumption) ?_
    | with_reducible apply cipCommit_keeps
    | with_reducible apply Keeps.ite
    | with_reducible apply Keeps.foldl
    | with_reducible apply KeepsP.ite
    | with_reducible apply KeepsP.foldl
    | split
    | with_reducible apply Keeps.snd
    | with_reducible apply KeepsP.pair

theorem execHash_keeps (r : Run) {s : State} (hs : Keeps q w s) : KeepsR q w (execHash r s) := by
  unfold execHash
  try dsimp only
  repeat' first
    | with_reducible assumption
    | intro _
    | with_reducible apply goHash_keeps
    | with_reducible apply checked_keeps
    | with_reducible apply Keeps.ite
    | with_reducible apply Keeps.foldl
    | with_reducible apply KeepsR.next
    | with_reducible apply KeepsR.ite
    | split

theorem goTransRow_keeps (r : Run) (dukpt : Bool) {s : State} (t : TagEntry) (hs : Keeps q w s) : Keeps q w (goTransRow r dukpt s t) := by
  unfold goTransRow
  try dsimp only
  repeat' first
    | with_reducible assumption
    | intro _
    | refine Keeps.eqP (by with_reducible assumption) ?_
    | with_reducible apply cipCommit_keeps
    | with_reducible apply drawBytes_keeps
    | with_reducible apply Keeps.ite
    | with_reducible apply Keeps.foldl
    | with_reducible apply KeepsP.ite
    | with_reducible apply KeepsP.foldl
    | split
    | with_reducible apply Keeps.snd
    | with_reducible apply KeepsP.pair

theorem transRow_keeps (r : Run) (op : Nat) (dukpt : Bool) {s : State} (hs : Keeps q w s) : KeepsR q w (transRow r op dukpt s) := by
  unfold transRow
  try dsimp only
  repeat' first
    | with_reducible assumption
    | intro _
    | with_reducible apply goTransRow_keeps
    | with_reducible apply checked_keeps
    | with_reducible apply Keeps.ite
    | with_reducible apply Keeps.foldl
    | with_reducible apply KeepsR.next
    | with_reducible apply KeepsR.ite
    | split

theorem execPinTranslate_keeps (r : Run) {s : State} (hs : Keeps q w s) : KeepsR q w (execPinTranslate r s) := by
  unfold execPinTranslate
  try dsimp only
  repeat' first
    | with_reducible assumption
    | intro _
    | with_reducible apply transRow_keeps
    | with_reducible apply Keeps.ite
    | with_reducible apply Keeps.foldl
    | with_reducible apply KeepsR.next
    | with_reducible apply KeepsR.ite
    | split

theorem execPinTranslateDukpt_keeps (r : Run) {s : State} (hs : Keeps q w s) : KeepsR q w (execPinTranslateDukpt r s) := by
  unfold execPinTranslateDukpt
  try dsimp only
  repeat' first
    | with_reducible assumption
    | intro _
    | with_reducible apply transRow_keeps
    | with_reducible apply Keeps.ite
    | with_reducible apply Keeps.foldl
    | with_reducible apply KeepsR.next
    | with_reducible apply KeepsR.ite
    | split

theorem execPinTranslateM_keeps (r : Run) {s : State} (hs : Keeps q w s) : KeepsR q w (execPinTranslateM r s) := by
  unfold execPinTranslateM
  try dsimp only
  repeat' first
    | with_reducible assumption
    | intro _
    | with_reducible apply transRow_keeps
    | with_reducible apply Keeps.ite
    | with_reducible apply Keeps.foldl
    | with_reducible apply KeepsR.next
    | with_reducible apply KeepsR.ite
    | split

theorem execPinTranslateDukptM_keeps (r : Run) {s : State} (hs : Keeps q w s) : KeepsR q w (execPinTranslateDukptM r s) := by
  unfold execPinTranslateDukptM
  try dsimp only
  repeat' first
    | with_reducible assumption
    | intro _
    | with_reducible apply transRow_keeps
    | with_reducible apply Keeps.ite
    | with_reducible apply Keeps.foldl
    | with_reducible apply KeepsR.next
    | with_reducible apply KeepsR.ite
    | split

theorem goCompareRow_keeps (r : Run) {s : State} (t : TagEntry) (hs : Keeps q w s) : Keeps q w (goCompareRow r s t) := by
  unfold goCompareRow
  try dsimp only
  repeat' first
    | with_reducible assumption
    | intro _
    | refine Keeps.eqP (by with_reducible assumption) ?_
    | with_reducible apply cipCommit_keeps
    | with_reducible apply Keeps.ite
    | with_reducible apply Keeps.foldl
    | with_reducible apply KeepsP.ite
    | with_reducible apply KeepsP.foldl
    | split
    | with_reducible apply Keeps.snd
    | with_reducible apply KeepsP.pair

theorem compareRow_keeps (r : Run) (op : Nat) {s : State} (hs : Keeps q w s) : KeepsR q w (compareRow r op s) := by
  unfold compareRow
  try dsimp only
  repeat' first
    | with_reducible assumption
    | intro _
    | with_reducible apply goCompareRow_keeps
    | with_reducible apply checked_keeps
    | with_reducible apply Keeps.ite
    | with_reducible apply Keeps.foldl
    | with_reducible apply KeepsR.next
    | with_reducible apply KeepsR.ite
    | split

theorem execPinCompare_keeps (r : Run) {s : State} (hs : Keeps q w s) : KeepsR q w (execPinCompare r s) := by
  unfold execPinCompare
  try dsimp only
  repeat' first
    | with_reducible assumption
    | intro _
    | with_reducible apply compareRow_keeps
    | with_reducible apply Keeps.ite
    | with_reducible apply Keeps.foldl
    | with_reducible apply KeepsR.next
    | with_reducible apply KeepsR.ite
    | split

theorem execPinCompareM_keeps (r : Run) {s : State} (hs : Keeps q w s) : KeepsR q w (execPinCompareM r s) := by
  unfold execPinCompareM
  try dsimp only
  repeat' first
    | with_reducible assumption
    | intro _
    | with_reducible apply compareRow_keeps
    | with_reducible apply Keeps.ite
    | with_reducible apply Keeps.foldl
    | with_reducible apply KeepsR.next
    | with_reducible apply KeepsR.ite
    | split

theorem goDukptRow_keeps (r : Run) {s : State} (t : TagEntry) (hs : Keeps q w s) : Keeps q w (goDukptRow r s t) := by
  unfold goDukptRow
  try dsimp only
  repeat' first
    | with_reducible assumption
    | intro _
    | refine Keeps.eqP (by with_reducible assumption) ?_
    | with_reducible apply cipCommit_keeps
    | with_reducible apply Keeps.ite
    | with_reducible apply Keeps.foldl
    | with_reducible apply KeepsP.ite
    | with_reducible apply KeepsP.foldl
    | split
    | with_reducible apply Keeps.snd
    | with_reducible apply KeepsP.pair

theorem dukptRow_keeps (r : Run) (op : Nat) {s : State} (hs : Keeps q w s) : KeepsR q w (dukptRow r op s) := by
  unfold dukptRow
  try dsimp only
  repeat' first
    | with_reducible assumption
    | intro _
    | with_reducible apply goDukptRow_keeps
    | with_reducible apply checked_keeps
    | with_reducible apply Keeps.ite
    | with_reducible apply Keeps.foldl
    | with_reducible apply KeepsR.next
    | with_reducible apply KeepsR.ite
    | split

theorem execDukptData_keeps (r : Run) {s : State} (hs : Keeps q w s) : KeepsR q w (execDukptData r s) := by
  unfold execDukptData
  try dsimp only
  repeat' first
    | with_reducible assumption
    | intro _
    | with_reducible apply dukptRow_keeps
    | with_reducible apply Keeps.ite
    | with_reducible apply Keeps.foldl
    | with_reducible apply KeepsR.next
    | with_reducible apply KeepsR.ite
    | split

theorem execDukptDataM_keeps (r : Run) {s : State} (hs : Keeps q w s) : KeepsR q w (execDukptDataM r s) := by
  unfold execDukptDataM
  try dsimp only
  repeat' first
    | with_reducible assumption
    | intro _
    | with_reducible apply dukptRow_keeps
    | with_reducible apply Keeps.ite
    | with_reducible apply Keeps.foldl
    | with_reducible apply KeepsR.next
    | with_reducible apply KeepsR.ite
    | split

theorem goEmvRow_keeps (r : Run) {s : State} (t : TagEntry) (hs : Keeps q w s) : Keeps q w (goEmvRow r s t) := by
  unfold goEmvRow
  try dsimp only
  repeat' first
    | with_reducible assumption
    | intro _
    | refine Keeps.eqP (by with_reducible assumption) ?_
    | with_reducible apply cipCommit_keeps
    | with_reducible apply Keeps.ite
    | with_reducible apply Keeps.foldl
    | with_reducible apply KeepsP.ite
    | with_reducible apply KeepsP.foldl
    | split
    | with_reducible apply Keeps.snd
    | with_reducible apply KeepsP.pair

theorem emvRow_keeps (r : Run) (op : Nat) {s : State} (hs : Keeps q w s) : KeepsR q w (emvRow r op s) := by
  unfold emvRow
  try dsimp only
  repeat' first
    | with_reducible assumption
    | intro _
    | with_reducible apply goEmvRow_keeps
    | with_reducible apply checked_keeps
    | with_reducible apply Keeps.ite
    | with_reducible apply Keeps.foldl
    | with_reducible apply KeepsR.next
    | with_reducible apply KeepsR.ite
    | split

theorem execEmvArqc_keeps (r : Run) {s : State} (hs : Keeps q w s) : KeepsR q w (execEmvArqc r s) := by
  unfold execEmvArqc
  try dsimp only
  repeat' first
    | with_reducible assumption
    | intro _
    | with_reducible apply emvRow_keeps
    | with_reducible apply Keeps.ite
    | with_reducible apply Keeps.foldl
    | with_reducible apply KeepsR.next
    | with_reducible apply KeepsR.ite
    | split

theorem execEmvArqcM_keeps (r : Run) {s : State} (hs : Keeps q w s) : KeepsR q w (execEmvArqcM r s) := by
  unfold execEmvArqcM
  try dsimp only
  repeat' first
    | with_reducible assumption
    | intro _
    | with_reducible apply emvRow_keeps
    | with_reducible apply Keeps.ite
    | with_reducible apply Keeps.foldl
    | with_reducible apply KeepsR.next
    | with_reducible apply KeepsR.ite
    | split

end Sys2Proof.Machine
end

