-- ==== Sys2Proof/Laws/KeepsCipUnits.lean ====
section
/-!
SUPPORT. Laws/KeepsCipUnits.lean: what the operations of CipUnits.lean keep.
-/
namespace Sys2Proof.Machine

variable {q : List Instr} {w : FuseBits}

theorem execCipcLockHold_keeps (cluster : Fin 8) (tile : Fin 9) (v : W32) {s : State} (hs : Keeps q w s) : KeepsR q w (execCipcLockHold cluster tile v s) := by
  unfold execCipcLockHold
  try dsimp only
  repeat' first
    | with_reducible assumption
    | intro _
    | with_reducible apply whenLandau_keeps
    | with_reducible apply setB_keeps
    | with_reducible apply Keeps.ite
    | with_reducible apply Keeps.foldl
    | with_reducible apply KeepsR.next
    | with_reducible apply KeepsR.ite
    | split

theorem execCipcSelftest_keeps (cluster : Fin 8) (v : W32) {s : State} (hs : Keeps q w s) : KeepsR q w (execCipcSelftest cluster v s) := by
  unfold execCipcSelftest
  try dsimp only
  repeat' first
    | with_reducible assumption
    | intro _
    | with_reducible apply writeReg_keeps
    | with_reducible apply setF_keeps
    | with_reducible apply Keeps.ite
    | with_reducible apply Keeps.foldl
    | with_reducible apply KeepsR.next
    | with_reducible apply KeepsR.ite
    | split

theorem execCipSelftestEnd_keeps (cluster : Fin 8) (pass : Bool) {s : State} (hs : Keeps q w s) : KeepsR q w (execCipSelftestEnd cluster pass s) := by
  unfold execCipSelftestEnd
  try dsimp only
  repeat' first
    | with_reducible assumption
    | intro _
    | with_reducible apply faultReport_keeps
    | with_reducible apply setF_keeps
    | with_reducible apply Keeps.ite
    | with_reducible apply Keeps.foldl
    | with_reducible apply KeepsR.next
    | with_reducible apply KeepsR.ite
    | split

theorem sciphGo_keeps {s : State} (op : Nat) (slot : Fin 16) (hs : Keeps q w s) : Keeps q w (sciphGo s op slot) := by
  unfold sciphGo
  try dsimp only
  repeat' first
    | with_reducible assumption
    | intro _
    | refine Keeps.eqP (by with_reducible assumption) ?_
    | with_reducible apply masterRead_keeps
    | with_reducible apply setF_keeps
    | with_reducible apply Keeps.ite
    | with_reducible apply Keeps.foldl
    | with_reducible apply KeepsP.ite
    | with_reducible apply KeepsP.foldl
    | split
    | with_reducible apply Keeps.snd
    | with_reducible apply KeepsP.pair
    | with_reducible apply Keeps.upd

theorem execGcmEnc_keeps (slot : Fin 16) {s : State} (hs : Keeps q w s) : KeepsR q w (execGcmEnc slot s) := by
  unfold execGcmEnc
  try dsimp only
  repeat' first
    | with_reducible assumption
    | intro _
    | with_reducible apply sciphGo_keeps
    | with_reducible apply Keeps.ite
    | with_reducible apply Keeps.foldl
    | with_reducible apply KeepsR.next
    | with_reducible apply KeepsR.ite
    | split

theorem execGcmDec_keeps (slot : Fin 16) {s : State} (hs : Keeps q w s) : KeepsR q w (execGcmDec slot s) := by
  unfold execGcmDec
  try dsimp only
  repeat' first
    | with_reducible assumption
    | intro _
    | with_reducible apply sciphGo_keeps
    | with_reducible apply Keeps.ite
    | with_reducible apply Keeps.foldl
    | with_reducible apply KeepsR.next
    | with_reducible apply KeepsR.ite
    | split

theorem execSha384_keeps (slot : Fin 16) {s : State} (hs : Keeps q w s) : KeepsR q w (execSha384 slot s) := by
  unfold execSha384
  try dsimp only
  repeat' first
    | with_reducible assumption
    | intro _
    | with_reducible apply sciphGo_keeps
    | with_reducible apply Keeps.ite
    | with_reducible apply Keeps.foldl
    | with_reducible apply KeepsR.next
    | with_reducible apply KeepsR.ite
    | split

theorem execHmac384_keeps (slot : Fin 16) {s : State} (hs : Keeps q w s) : KeepsR q w (execHmac384 slot s) := by
  unfold execHmac384
  try dsimp only
  repeat' first
    | with_reducible assumption
    | intro _
    | with_reducible apply sciphGo_keeps
    | with_reducible apply Keeps.ite
    | with_reducible apply Keeps.foldl
    | with_reducible apply KeepsR.next
    | with_reducible apply KeepsR.ite
    | split

theorem execHkdf_keeps (slot : Fin 16) {s : State} (hs : Keeps q w s) : KeepsR q w (execHkdf slot s) := by
  unfold execHkdf
  try dsimp only
  repeat' first
    | with_reducible assumption
    | intro _
    | with_reducible apply sciphGo_keeps
    | with_reducible apply Keeps.ite
    | with_reducible apply Keeps.foldl
    | with_reducible apply KeepsR.next
    | with_reducible apply KeepsR.ite
    | split

theorem execDeriveSrk_keeps (slot : Fin 16) {s : State} (hs : Keeps q w s) : KeepsR q w (execDeriveSrk slot s) := by
  unfold execDeriveSrk
  try dsimp only
  repeat' first
    | with_reducible assumption
    | intro _
    | with_reducible apply sciphGo_keeps
    | with_reducible apply Keeps.ite
    | with_reducible apply Keeps.foldl
    | with_reducible apply KeepsR.next
    | with_reducible apply KeepsR.ite
    | split

theorem execUnwrapDmk_keeps (slot : Fin 16) {s : State} (hs : Keeps q w s) : KeepsR q w (execUnwrapDmk slot s) := by
  unfold execUnwrapDmk
  try dsimp only
  repeat' first
    | with_reducible assumption
    | intro _
    | with_reducible apply sciphGo_keeps
    | with_reducible apply Keeps.ite
    | with_reducible apply Keeps.foldl
    | with_reducible apply KeepsR.next
    | with_reducible apply KeepsR.ite
    | split

theorem execLoad_keeps (slot : Fin 16) {s : State} (hs : Keeps q w s) : KeepsR q w (execLoad slot s) := by
  unfold execLoad
  try dsimp only
  repeat' first
    | with_reducible assumption
    | intro _
    | with_reducible apply sciphGo_keeps
    | with_reducible apply Keeps.ite
    | with_reducible apply Keeps.foldl
    | with_reducible apply KeepsR.next
    | with_reducible apply KeepsR.ite
    | split

theorem setSciphSlot_keeps {s : State} (i : Nat) (k : Bytes) (hs : Keeps q w s) : Keeps q w (setSciphSlot s i k) := by
  unfold setSciphSlot
  try dsimp only
  repeat' first
    | with_reducible assumption
    | intro _
    | with_reducible apply setF_keeps
    | with_reducible apply Keeps.ite
    | with_reducible apply Keeps.foldl
    | split
    | with_reducible apply Keeps.upd

theorem clearSciph_keeps {s : State} (p : Nat → Bool) (hs : Keeps q w s) : Keeps q w (clearSciph s p) := by
  unfold clearSciph
  try dsimp only
  repeat' first
    | with_reducible assumption
    | intro _
    | with_reducible apply setF_keeps
    | with_reducible apply Keeps.ite
    | with_reducible apply Keeps.foldl
    | split
    | with_reducible apply Keeps.upd

theorem sciphIn_keeps {s : State} (op : Nat) (p : Bytes) (hs : Keeps q w s) : KeepsP q w (sciphIn s op p) := by
  unfold sciphIn
  try dsimp only
  repeat' first
    | with_reducible assumption
    | intro _
    | refine Keeps.eqP (by with_reducible assumption) ?_
    | with_reducible apply masterRead_keeps
    | with_reducible apply Keeps.ite
    | with_reducible apply Keeps.foldl
    | with_reducible apply KeepsP.ite
    | with_reducible apply KeepsP.foldl
    | split
    | with_reducible apply Keeps.snd
    | with_reducible apply KeepsP.pair

theorem sciphRun_keeps {s : State} (op : Nat) (slot : Nat) (a : Nat) (p : Bytes) (hs : Keeps q w s) : KeepsP q w (sciphRun s op slot a p) := by
  unfold sciphRun
  try dsimp only
  repeat' first
    | with_reducible assumption
    | intro _
    | refine Keeps.eqP (by with_reducible assumption) ?_
    | with_reducible apply sciphIn_keeps
    | with_reducible apply setSciphSlot_keeps
    | with_reducible apply pinDomain_keeps
    | with_reducible apply masterWrite_keeps
    | with_reducible apply Keeps.ite
    | with_reducible apply Keeps.foldl
    | with_reducible apply KeepsP.ite
    | with_reducible apply KeepsP.foldl
    | split
    | with_reducible apply Keeps.snd
    | with_reducible apply KeepsP.pair

theorem execSciphOperationEnd_keeps {s : State} (hs : Keeps q w s) : KeepsR q w (execSciphOperationEnd s) := by
  unfold execSciphOperationEnd
  try dsimp only
  repeat' first
    | with_reducible assumption
    | intro _
    | refine Keeps.eqP (by with_reducible assumption) ?_
    | with_reducible apply sciphRun_keeps
    | with_reducible apply setF_keeps
    | with_reducible apply Keeps.ite
    | with_reducible apply Keeps.foldl
    | with_reducible apply KeepsR.next
    | with_reducible apply KeepsR.ite
    | with_reducible apply KeepsP.ite
    | with_reducible apply KeepsP.foldl
    | split
    | with_reducible apply Keeps.snd
    | with_reducible apply KeepsP.pair
    | with_reducible apply Keeps.upd

end Sys2Proof.Machine
end

