-- ==== Sys2Proof/Laws/KeepsOperands.lean ====
section
/-!
SUPPORT. Laws/KeepsOperands.lean: what the operations of Operands.lean keep.
-/
namespace Sys2Proof.Machine

variable {q : List Instr} {w : FuseBits}

theorem setCore_keeps {s : State} (c : CoreId) (x : DCore) (hs : Keeps q w s) : Keeps q w (setCore s c x) := by
  unfold setCore
  try dsimp only
  repeat' first
    | with_reducible assumption
    | intro _
    | with_reducible apply Keeps.ite
    | with_reducible apply Keeps.foldl
    | split
    | with_reducible apply Keeps.upd

theorem splitCores_keeps {s : State} (hs : Keeps q w s) : Keeps q w (splitCores s) := by
  unfold splitCores
  try dsimp only
  repeat' first
    | with_reducible assumption
    | intro _
    | with_reducible apply setF_keeps
    | with_reducible apply Keeps.ite
    | with_reducible apply Keeps.foldl
    | split
    | with_reducible apply Keeps.upd

theorem execWcoreCtrlSplit_keeps {s : State} (hs : Keeps q w s) : KeepsR q w (execWcoreCtrlSplit s) := by
  unfold execWcoreCtrlSplit
  try dsimp only
  repeat' first
    | with_reducible assumption
    | intro _
    | with_reducible apply splitCores_keeps
    | with_reducible apply Keeps.ite
    | with_reducible apply Keeps.foldl
    | with_reducible apply KeepsR.next
    | with_reducible apply KeepsR.ite
    | split

end Sys2Proof.Machine
end

