-- ==== Sys2Proof/Laws/KeepsDebugPort.lean ====
section
/-!
SUPPORT. Laws/KeepsDebugPort.lean: what the operations of DebugPort.lean keep.
-/
namespace Sys2Proof.Machine

variable {q : List Instr} {w : FuseBits}

theorem tapSet_keeps {s : State} (i : TapInsn) (dr : W32) (hs : Keeps q w s) : Keeps q w (tapSet s i dr) := by
  unfold tapSet
  try dsimp only
  repeat' first
    | with_reducible assumption
    | intro _
    | with_reducible apply Keeps.ite
    | with_reducible apply Keeps.foldl
    | split
    | with_reducible apply Keeps.upd

theorem execIdcode_keeps {s : State} (hs : Keeps q w s) : KeepsR q w (execIdcode s) := by
  unfold execIdcode
  try dsimp only
  repeat' first
    | with_reducible assumption
    | intro _
    | with_reducible apply tapSet_keeps
    | with_reducible apply Keeps.ite
    | with_reducible apply Keeps.foldl
    | with_reducible apply KeepsR.next
    | with_reducible apply KeepsR.ite
    | split

theorem execBypass_keeps {s : State} (hs : Keeps q w s) : KeepsR q w (execBypass s) := by
  unfold execBypass
  try dsimp only
  repeat' first
    | with_reducible assumption
    | intro _
    | with_reducible apply tapSet_keeps
    | with_reducible apply Keeps.ite
    | with_reducible apply Keeps.foldl
    | with_reducible apply KeepsR.next
    | with_reducible apply KeepsR.ite
    | split

theorem tapScan_keeps {s : State} (i : TapInsn) (hs : Keeps q w s) : KeepsR q w (tapScan s i) := by
  unfold tapScan
  try dsimp only
  repeat' first
    | with_reducible assumption
    | intro _
    | with_reducible apply tapSet_keeps
    | with_reducible apply tamperTrip_keeps
    | with_reducible apply Keeps.ite
    | with_reducible apply Keeps.foldl
    | with_reducible apply KeepsR.next
    | with_reducible apply KeepsR.ite
    | split

theorem execSamplePreload_keeps {s : State} (hs : Keeps q w s) : KeepsR q w (execSamplePreload s) := by
  unfold execSamplePreload
  try dsimp only
  repeat' first
    | with_reducible assumption
    | intro _
    | with_reducible apply tapScan_keeps
    | with_reducible apply Keeps.ite
    | with_reducible apply Keeps.foldl
    | with_reducible apply KeepsR.next
    | with_reducible apply KeepsR.ite
    | split

theorem execExtest_keeps {s : State} (hs : Keeps q w s) : KeepsR q w (execExtest s) := by
  unfold execExtest
  try dsimp only
  repeat' first
    | with_reducible assumption
    | intro _
    | with_reducible apply tapScan_keeps
    | with_reducible apply Keeps.ite
    | with_reducible apply Keeps.foldl
    | with_reducible apply KeepsR.next
    | with_reducible apply KeepsR.ite
    | split

theorem execExtestPulse_keeps {s : State} (hs : Keeps q w s) : KeepsR q w (execExtestPulse s) := by
  unfold execExtestPulse
  try dsimp only
  repeat' first
    | with_reducible assumption
    | intro _
    | with_reducible apply tapScan_keeps
    | with_reducible apply Keeps.ite
    | with_reducible apply Keeps.foldl
    | with_reducible apply KeepsR.next
    | with_reducible apply KeepsR.ite
    | split

theorem execExtestTrain_keeps {s : State} (hs : Keeps q w s) : KeepsR q w (execExtestTrain s) := by
  unfold execExtestTrain
  try dsimp only
  repeat' first
    | with_reducible assumption
    | intro _
    | with_reducible apply tapScan_keeps
    | with_reducible apply Keeps.ite
    | with_reducible apply Keeps.foldl
    | with_reducible apply KeepsR.next
    | with_reducible apply KeepsR.ite
    | split

theorem execHighz_keeps {s : State} (hs : Keeps q w s) : KeepsR q w (execHighz s) := by
  unfold execHighz
  try dsimp only
  repeat' first
    | with_reducible assumption
    | intro _
    | with_reducible apply tapScan_keeps
    | with_reducible apply Keeps.ite
    | with_reducible apply Keeps.foldl
    | with_reducible apply KeepsR.next
    | with_reducible apply KeepsR.ite
    | split

theorem execDbgmbox_keeps (acc : MboxAcc) {s : State} (hs : Keeps q w s) : KeepsR q w (execDbgmbox acc s) := by
  unfold execDbgmbox
  try dsimp only
  repeat' first
    | with_reducible assumption
    | intro _
    | with_reducible apply tapSet_keeps
    | with_reducible apply tamperTrip_keeps
    | with_reducible apply setF_keeps
    | with_reducible apply Keeps.ite
    | with_reducible apply Keeps.foldl
    | with_reducible apply KeepsR.next
    | with_reducible apply KeepsR.ite
    | split

theorem freshNonce_keeps {s : State} (hs : Keeps q w s) : Keeps q w (freshNonce s) := by
  unfold freshNonce
  try dsimp only
  repeat' first
    | with_reducible assumption
    | intro _
    | refine Keeps.eqP (by with_reducible assumption) ?_
    | with_reducible apply drawBytes_keeps
    | with_reducible apply setF_keeps
    | with_reducible apply Keeps.ite
    | with_reducible apply Keeps.foldl
    | with_reducible apply KeepsP.ite
    | with_reducible apply KeepsP.foldl
    | split
    | with_reducible apply Keeps.snd
    | with_reducible apply KeepsP.pair

theorem execSubmit_keeps {s : State} (hs : Keeps q w s) : KeepsR q w (execSubmit s) := by
  unfold execSubmit
  try dsimp only
  repeat' first
    | with_reducible assumption
    | intro _
    | with_reducible apply tamperTrip_keeps
    | with_reducible apply raise_keeps
    | with_reducible apply setF_keeps
    | with_reducible apply Keeps.ite
    | with_reducible apply Keeps.foldl
    | with_reducible apply KeepsR.next
    | with_reducible apply KeepsR.ite
    | split

theorem tokenEnds_keeps {s : State} (hs : Keeps q w s) : Keeps q w (tokenEnds s) := by
  unfold tokenEnds
  try dsimp only
  repeat' first
    | with_reducible assumption
    | intro _
    | with_reducible apply freshNonce_keeps
    | with_reducible apply setF_keeps
    | with_reducible apply Keeps.ite
    | with_reducible apply Keeps.foldl
    | split

theorem execGrant_keeps (v : W32) {s : State} (hs : Keeps q w s) : KeepsR q w (execGrant v s) := by
  unfold execGrant
  try dsimp only
  repeat' first
    | with_reducible assumption
    | intro _
    | with_reducible apply tokenEnds_keeps
    | with_reducible apply setF_keeps
    | with_reducible apply Keeps.ite
    | with_reducible apply Keeps.foldl
    | with_reducible apply KeepsR.next
    | with_reducible apply KeepsR.ite
    | split

theorem execRefuse_keeps (v : W32) {s : State} (hs : Keeps q w s) : KeepsR q w (execRefuse v s) := by
  unfold execRefuse
  try dsimp only
  repeat' first
    | with_reducible assumption
    | intro _
    | with_reducible apply tokenEnds_keeps
    | with_reducible apply bump_keeps
    | with_reducible apply Keeps.ite
    | with_reducible apply Keeps.foldl
    | with_reducible apply KeepsR.next
    | with_reducible apply KeepsR.ite
    | split

theorem execDebugHalt_keeps (core : Fin 2) {s : State} (hs : Keeps q w s) : KeepsR q w (execDebugHalt core s) := by
  unfold execDebugHalt
  try dsimp only
  repeat' first
    | with_reducible assumption
    | intro _
    | with_reducible apply Keeps.ite
    | with_reducible apply Keeps.foldl
    | with_reducible apply KeepsR.next
    | with_reducible apply KeepsR.ite
    | split
    | with_reducible apply Keeps.upd

end Sys2Proof.Machine
end

