-- ==== Sys2Proof/Laws/KeepsEventRec.lean ====
section
/-!
SUPPORT. Laws/KeepsEventRec.lean: what the operations of EventRec.lean keep.
-/
namespace Sys2Proof.Machine

variable {q : List Instr} {w : FuseBits}

theorem execMergeWindowExpiry_keeps {s : State} (hs : Keeps q w s) : KeepsR q w (execMergeWindowExpiry s) := by
  unfold execMergeWindowExpiry
  try dsimp only
  repeat' first
    | with_reducible assumption
    | intro _
    | with_reducible apply closeOpen_keeps
    | with_reducible apply whenGecko_keeps
    | with_reducible apply Keeps.ite
    | with_reducible apply Keeps.foldl
    | with_reducible apply KeepsR.next
    | with_reducible apply KeepsR.ite
    | split

theorem writeBatch_keeps {s : State} (q_ : Nat) (l : List EvRec) (hs : Keeps q w s) : Keeps q w (writeBatch s q_ l) := by
  unfold writeBatch
  try dsimp only
  repeat' first
    | with_reducible assumption
    | intro _
    | with_reducible apply noteDone_keeps
    | with_reducible apply noteIntent_keeps
    | with_reducible apply programLines_keeps
    | with_reducible apply eraseFlash_keeps
    | with_reducible apply Keeps.ite
    | with_reducible apply Keeps.foldl
    | split

theorem programBatch_keeps {s : State} (hs : Keeps q w s) : Keeps q w (programBatch s) := by
  unfold programBatch
  try dsimp only
  repeat' first
    | with_reducible assumption
    | intro _
    | with_reducible apply writeBatch_keeps
    | with_reducible apply evRefresh_keeps
    | with_reducible apply setF_keeps
    | with_reducible apply Keeps.ite
    | with_reducible apply Keeps.foldl
    | split
    | with_reducible apply Keeps.upd

theorem execBatchProgram_keeps {s : State} (hs : Keeps q w s) : KeepsR q w (execBatchProgram s) := by
  unfold execBatchProgram
  try dsimp only
  repeat' first
    | with_reducible assumption
    | intro _
    | with_reducible apply programBatch_keeps
    | with_reducible apply whenGecko_keeps
    | with_reducible apply Keeps.ite
    | with_reducible apply Keeps.foldl
    | with_reducible apply KeepsR.next
    | with_reducible apply KeepsR.ite
    | split

theorem execEvrecSw_keeps (v : W32) {s : State} (hs : Keeps q w s) : KeepsR q w (execEvrecSw v s) := by
  unfold execEvrecSw
  try dsimp only
  repeat' first
    | with_reducible assumption
    | intro _
    | with_reducible apply occur_keeps
    | with_reducible apply whenGecko_keeps
    | with_reducible apply Keeps.ite
    | with_reducible apply Keeps.foldl
    | with_reducible apply KeepsR.next
    | with_reducible apply KeepsR.ite
    | split

theorem execEvrecFreeze_keeps (on : Bool) {s : State} (hs : Keeps q w s) : KeepsR q w (execEvrecFreeze on s) := by
  unfold execEvrecFreeze
  try dsimp only
  repeat' first
    | with_reducible assumption
    | intro _
    | with_reducible apply whenGecko_keeps
    | with_reducible apply setB_keeps
    | with_reducible apply Keeps.ite
    | with_reducible apply Keeps.foldl
    | with_reducible apply KeepsR.next
    | with_reducible apply KeepsR.ite
    | split

theorem rtcTick_keeps {s : State} (hs : Keeps q w s) : Keeps q w (rtcTick s) := by
  unfold rtcTick
  try dsimp only
  repeat' first
    | with_reducible assumption
    | intro _
    | with_reducible apply setF_keeps
    | with_reducible apply Keeps.ite
    | with_reducible apply Keeps.foldl
    | split

theorem execTimekeepSecond_keeps {s : State} (hs : Keeps q w s) : KeepsR q w (execTimekeepSecond s) := by
  unfold execTimekeepSecond
  try dsimp only
  repeat' first
    | with_reducible assumption
    | intro _
    | with_reducible apply rtcTick_keeps
    | with_reducible apply bump_keeps
    | with_reducible apply Keeps.ite
    | with_reducible apply Keeps.foldl
    | with_reducible apply KeepsR.next
    | with_reducible apply KeepsR.ite
    | split

theorem execRtcSet_keeps (v : W32) {s : State} (hs : Keeps q w s) : KeepsR q w (execRtcSet v s) := by
  unfold execRtcSet
  try dsimp only
  repeat' first
    | with_reducible assumption
    | intro _
    | with_reducible apply occur_keeps
    | with_reducible apply whenGecko_keeps
    | with_reducible apply setF_keeps
    | with_reducible apply Keeps.ite
    | with_reducible apply Keeps.foldl
    | with_reducible apply KeepsR.next
    | with_reducible apply KeepsR.ite
    | split

theorem execOscFail_keeps {s : State} (hs : Keeps q w s) : KeepsR q w (execOscFail s) := by
  unfold execOscFail
  try dsimp only
  repeat' first
    | with_reducible assumption
    | intro _
    | with_reducible apply setF_keeps
    | with_reducible apply Keeps.ite
    | with_reducible apply Keeps.foldl
    | with_reducible apply KeepsR.next
    | with_reducible apply KeepsR.ite
    | split

end Sys2Proof.Machine
end

