-- ==== Sys2Proof/Laws/KeepsFault.lean ====
section
/-!
SUPPORT. Laws/KeepsFault.lean: what the operations of Fault.lean keep.
-/
namespace Sys2Proof.Machine

variable {q : List Instr} {w : FuseBits}

theorem hbmReported_keeps {s : State} (r : Report) (hs : Keeps q w s) : Keeps q w (hbmReported s r) := by
  unfold hbmReported
  try dsimp only
  repeat' first
    | with_reducible assumption
    | intro _
    | with_reducible apply updStack_keeps
    | with_reducible apply trackRow_keeps
    | with_reducible apply bump_keeps
    | with_reducible apply setF_keeps
    | with_reducible apply Keeps.ite
    | with_reducible apply Keeps.foldl
    | split
    | with_reducible apply Keeps.upd

theorem execFaultReport_keeps (r : Report) {s : State} (hs : Keeps q w s) : KeepsR q w (execFaultReport r s) := by
  unfold execFaultReport
  try dsimp only
  repeat' first
    | with_reducible assumption
    | intro _
    | with_reducible apply hbmReported_keeps
    | with_reducible apply faultReport_keeps
    | with_reducible apply whenGecko_keeps
    | with_reducible apply Keeps.ite
    | with_reducible apply Keeps.foldl
    | with_reducible apply KeepsR.next
    | with_reducible apply KeepsR.ite
    | split

theorem execSafeStateCut_keeps {s : State} (hs : Keeps q w s) : KeepsR q w (execSafeStateCut s) := by
  unfold execSafeStateCut
  try dsimp only
  repeat' first
    | with_reducible assumption
    | intro _
    | with_reducible apply cutRoutes_keeps
    | with_reducible apply Keeps.ite
    | with_reducible apply Keeps.foldl
    | with_reducible apply KeepsR.next
    | with_reducible apply KeepsR.ite
    | split
    | with_reducible apply Keeps.upd

theorem execQuietPeriodExpiry_keeps (cleared : Bool) {s : State} (hs : Keeps q w s) : KeepsR q w (execQuietPeriodExpiry cleared s) := by
  unfold execQuietPeriodExpiry
  try dsimp only
  repeat' first
    | with_reducible assumption
    | intro _
    | with_reducible apply exitSafe_keeps
    | with_reducible apply occur_keeps
    | with_reducible apply setF_keeps
    | with_reducible apply Keeps.ite
    | with_reducible apply Keeps.foldl
    | with_reducible apply KeepsR.next
    | with_reducible apply KeepsR.ite
    | split
    | with_reducible apply Keeps.upd

theorem execFcollHeartbeatLoss_keeps {s : State} (hs : Keeps q w s) : KeepsR q w (execFcollHeartbeatLoss s) := by
  unfold execFcollHeartbeatLoss
  try dsimp only
  repeat' first
    | with_reducible assumption
    | intro _
    | with_reducible apply faultReport_keeps
    | with_reducible apply whenGecko_keeps
    | with_reducible apply Keeps.ite
    | with_reducible apply Keeps.foldl
    | with_reducible apply KeepsR.next
    | with_reducible apply KeepsR.ite
    | split

theorem execRouteTimeout_keeps (p : LateRoute) (unit : Nat) (tile : Nat) {s : State} (hs : Keeps q w s) : KeepsR q w (execRouteTimeout p unit tile s) := by
  unfold execRouteTimeout
  try dsimp only
  repeat' first
    | with_reducible assumption
    | intro _
    | with_reducible apply faultReport_keeps
    | with_reducible apply restartRoute_keeps
    | with_reducible apply Keeps.ite
    | with_reducible apply Keeps.foldl
    | with_reducible apply KeepsR.next
    | with_reducible apply KeepsR.ite
    | split

theorem fcollKeyed_keeps (key : BitVec 16) {s : State} {t : State} (hs : Keeps q w s) (ht : Keeps q w t) : KeepsR q w (fcollKeyed key s t) := by
  unfold fcollKeyed
  try dsimp only
  repeat' first
    | with_reducible assumption
    | intro _
    | with_reducible apply whenGecko_keeps
    | with_reducible apply Keeps.ite
    | with_reducible apply Keeps.foldl
    | with_reducible apply KeepsR.next
    | with_reducible apply KeepsR.ite
    | split

theorem execRetireAck_keeps (key : BitVec 16) {s : State} (hs : Keeps q w s) : KeepsR q w (execRetireAck key s) := by
  unfold execRetireAck
  try dsimp only
  repeat' first
    | with_reducible assumption
    | intro _
    | with_reducible apply fcollKeyed_keeps
    | with_reducible apply showRetire_keeps
    | with_reducible apply setF_keeps
    | with_reducible apply Keeps.ite
    | with_reducible apply Keeps.foldl
    | with_reducible apply KeepsR.next
    | with_reducible apply KeepsR.ite
    | split

theorem execExit_keeps (key : BitVec 16) {s : State} (hs : Keeps q w s) : KeepsR q w (execExit key s) := by
  unfold execExit
  try dsimp only
  repeat' first
    | with_reducible assumption
    | intro _
    | with_reducible apply fcollKeyed_keeps
    | with_reducible apply exitSafe_keeps
    | with_reducible apply Keeps.ite
    | with_reducible apply Keeps.foldl
    | with_reducible apply KeepsR.next
    | with_reducible apply KeepsR.ite
    | split

theorem execRclr_keeps (key : BitVec 16) {s : State} (hs : Keeps q w s) : KeepsR q w (execRclr key s) := by
  unfold execRclr
  try dsimp only
  repeat' first
    | with_reducible assumption
    | intro _
    | with_reducible apply fcollKeyed_keeps
    | with_reducible apply clearCounter_keeps
    | with_reducible apply Keeps.ite
    | with_reducible apply Keeps.foldl
    | with_reducible apply KeepsR.next
    | with_reducible apply KeepsR.ite
    | split

theorem execFcollForce_keeps (v : W32) {s : State} (hs : Keeps q w s) : KeepsR q w (execFcollForce v s) := by
  unfold execFcollForce
  try dsimp only
  repeat' first
    | with_reducible assumption
    | intro _
    | with_reducible apply report_keeps
    | with_reducible apply whenGecko_keeps
    | with_reducible apply setF_keeps
    | with_reducible apply Keeps.ite
    | with_reducible apply Keeps.foldl
    | with_reducible apply KeepsR.next
    | with_reducible apply KeepsR.ite
    | split

theorem execHbmRowRepair_keeps (stack : Fin 4) (pc : Fin 32) (row : Nat) (left : Bool) (uncorr : List Nat) {s : State} (hs : Keeps q w s) : KeepsR q w (execHbmRowRepair stack pc row left uncorr s) := by
  unfold execHbmRowRepair
  try dsimp only
  repeat' first
    | with_reducible assumption
    | intro _
    | with_reducible apply poisonCount_keeps
    | with_reducible apply requestRetire_keeps
    | with_reducible apply Keeps.ite
    | with_reducible apply Keeps.foldl
    | with_reducible apply KeepsR.next
    | with_reducible apply KeepsR.ite
    | split
    | with_reducible apply Keeps.upd

theorem setLaneMap_keeps {s : State} (dir : Nat) (m : LaneMap) (hs : Keeps q w s) : Keeps q w (setLaneMap s dir m) := by
  unfold setLaneMap
  try dsimp only
  repeat' first
    | with_reducible assumption
    | intro _
    | with_reducible apply Keeps.ite
    | with_reducible apply Keeps.foldl
    | split
    | with_reducible apply Keeps.upd

theorem execDrawbarLaneSwap_keeps (dir : Fin 2) (lane : Fin 36) (errors : Nat) {s : State} (hs : Keeps q w s) : KeepsR q w (execDrawbarLaneSwap dir lane errors s) := by
  unfold execDrawbarLaneSwap
  try dsimp only
  repeat' first
    | with_reducible assumption
    | intro _
    | with_reducible apply setLaneMap_keeps
    | with_reducible apply tamperTrip_keeps
    | with_reducible apply fieldRepair_keeps
    | with_reducible apply Keeps.ite
    | with_reducible apply Keeps.foldl
    | with_reducible apply KeepsR.next
    | with_reducible apply KeepsR.ite
    | split
    | with_reducible apply Keeps.upd

end Sys2Proof.Machine
end

