-- ==== Sys2Proof/Laws/KeepsFlash.lean ====
section
/-!
SUPPORT. Laws/KeepsFlash.lean: what the operations of Flash.lean keep.
-/
namespace Sys2Proof.Machine

variable {q : List Instr} {w : FuseBits}

theorem readUncorr_keeps {s : State} (l : Nat) (hs : Keeps q w s) : Keeps q w (readUncorr s l) := by
  unfold readUncorr
  try dsimp only
  repeat' first
    | with_reducible assumption
    | intro _
    | with_reducible apply tamperTrip_keeps
    | with_reducible apply faultReport_keeps
    | with_reducible apply bump_keeps
    | with_reducible apply setF_keeps
    | with_reducible apply Keeps.ite
    | with_reducible apply Keeps.foldl
    | split
    | with_reducible apply Keeps.upd

theorem readCorrected_keeps {s : State} (l : Nat) (c : Nat) (hs : Keeps q w s) : Keeps q w (readCorrected s l c) := by
  unfold readCorrected
  try dsimp only
  repeat' first
    | with_reducible assumption
    | intro _
    | with_reducible apply bump_keeps
    | with_reducible apply raise_keeps
    | with_reducible apply setF_keeps
    | with_reducible apply Keeps.ite
    | with_reducible apply Keeps.foldl
    | split

theorem readLine_keeps {s : State} (l : Nat) (hs : Keeps q w s) : Keeps q w (readLine s l) := by
  unfold readLine
  try dsimp only
  repeat' first
    | with_reducible assumption
    | intro _
    | with_reducible apply readCorrected_keeps
    | with_reducible apply readUncorr_keeps
    | with_reducible apply Keeps.ite
    | with_reducible apply Keeps.foldl
    | split

theorem wardenLine_keeps {s : State} (l : Nat) (hs : Keeps q w s) : KeepsP q w (wardenLine s l) := by
  unfold wardenLine
  try dsimp only
  repeat' first
    | with_reducible assumption
    | intro _
    | refine Keeps.eqP (by with_reducible assumption) ?_
    | with_reducible apply readLine_keeps
    | with_reducible apply setF_keeps
    | with_reducible apply Keeps.ite
    | with_reducible apply Keeps.foldl
    | with_reducible apply KeepsP.ite
    | with_reducible apply KeepsP.foldl
    | split
    | with_reducible apply Keeps.snd
    | with_reducible apply KeepsP.pair

theorem flashRefuse_keeps {s : State} (err : Nat) (hs : Keeps q w s) : Keeps q w (flashRefuse s err) := by
  unfold flashRefuse
  try dsimp only
  repeat' first
    | with_reducible assumption
    | intro _
    | with_reducible apply setF_keeps
    | with_reducible apply Keeps.ite
    | with_reducible apply Keeps.foldl
    | split

theorem flashBegin_keeps {s : State} (o : FlashOp) (hs : Keeps q w s) : Keeps q w (flashBegin s o) := by
  unfold flashBegin
  try dsimp only
  repeat' first
    | with_reducible assumption
    | intro _
    | with_reducible apply noteIntent_keeps
    | with_reducible apply setF_keeps
    | with_reducible apply Keeps.ite
    | with_reducible apply Keeps.foldl
    | split
    | with_reducible apply Keeps.upd

theorem sparesOut_keeps {s : State} (a : Nat) (hs : Keeps q w s) : Keeps q w (sparesOut s a) := by
  unfold sparesOut
  try dsimp only
  repeat' first
    | with_reducible assumption
    | intro _
    | with_reducible apply faultReport_keeps
    | with_reducible apply occur_keeps
    | with_reducible apply Keeps.ite
    | with_reducible apply Keeps.foldl
    | split

theorem flashStart_keeps {s : State} (o : FlashOp) (src : Nat) (fetch : Nat) (hs : Keeps q w s) : Keeps q w (flashStart s o src fetch) := by
  unfold flashStart
  try dsimp only
  repeat' first
    | with_reducible assumption
    | intro _
    | with_reducible apply sparesOut_keeps
    | with_reducible apply flashBegin_keeps
    | with_reducible apply flashRefuse_keeps
    | with_reducible apply recordDenied_keeps
    | with_reducible apply Keeps.ite
    | with_reducible apply Keeps.foldl
    | split
    | with_reducible apply Keeps.upd

theorem flashKeyed_keeps (w_ : FlashWr) {s : State} {t : State} (hs : Keeps q w s) (ht : Keeps q w t) : KeepsR q w (flashKeyed w_ s t) := by
  unfold flashKeyed
  try dsimp only
  repeat' first
    | with_reducible assumption
    | intro _
    | with_reducible apply whenGecko_keeps
    | with_reducible apply setF_keeps
    | with_reducible apply Keeps.ite
    | with_reducible apply Keeps.foldl
    | with_reducible apply KeepsR.next
    | with_reducible apply KeepsR.ite
    | split

theorem flashCmd_keeps (op : Nat) (w_ : FlashWr) {s : State} (hs : Keeps q w s) : KeepsR q w (flashCmd op w_ s) := by
  unfold flashCmd
  try dsimp only
  repeat' first
    | with_reducible assumption
    | intro _
    | with_reducible apply flashKeyed_keeps
    | with_reducible apply flashStart_keeps
    | with_reducible apply Keeps.ite
    | with_reducible apply Keeps.foldl
    | with_reducible apply KeepsR.next
    | with_reducible apply KeepsR.ite
    | split

theorem execProgram_keeps (w_ : FlashWr) {s : State} (hs : Keeps q w s) : KeepsR q w (execProgram w_ s) := by
  unfold execProgram
  try dsimp only
  repeat' first
    | with_reducible assumption
    | intro _
    | with_reducible apply flashCmd_keeps
    | with_reducible apply Keeps.ite
    | with_reducible apply Keeps.foldl
    | with_reducible apply KeepsR.next
    | with_reducible apply KeepsR.ite
    | split

theorem execErase_keeps (w_ : FlashWr) {s : State} (hs : Keeps q w s) : KeepsR q w (execErase w_ s) := by
  unfold execErase
  try dsimp only
  repeat' first
    | with_reducible assumption
    | intro _
    | with_reducible apply flashCmd_keeps
    | with_reducible apply Keeps.ite
    | with_reducible apply Keeps.foldl
    | with_reducible apply KeepsR.next
    | with_reducible apply KeepsR.ite
    | split

theorem execEraseRange_keeps (w_ : FlashWr) {s : State} (hs : Keeps q w s) : KeepsR q w (execEraseRange w_ s) := by
  unfold execEraseRange
  try dsimp only
  repeat' first
    | with_reducible assumption
    | intro _
    | with_reducible apply flashCmd_keeps
    | with_reducible apply Keeps.ite
    | with_reducible apply Keeps.foldl
    | with_reducible apply KeepsR.next
    | with_reducible apply KeepsR.ite
    | split

theorem execCheck_keeps (w_ : FlashWr) {s : State} (hs : Keeps q w s) : KeepsR q w (execCheck w_ s) := by
  unfold execCheck
  try dsimp only
  repeat' first
    | with_reducible assumption
    | intro _
    | with_reducible apply flashCmd_keeps
    | with_reducible apply Keeps.ite
    | with_reducible apply Keeps.foldl
    | with_reducible apply KeepsR.next
    | with_reducible apply KeepsR.ite
    | split

theorem execRetire_keeps (w_ : FlashWr) {s : State} (hs : Keeps q w s) : KeepsR q w (execRetire w_ s) := by
  unfold execRetire
  try dsimp only
  repeat' first
    | with_reducible assumption
    | intro _
    | with_reducible apply flashCmd_keeps
    | with_reducible apply Keeps.ite
    | with_reducible apply Keeps.foldl
    | with_reducible apply KeepsR.next
    | with_reducible apply KeepsR.ite
    | split

theorem execSuspend_keeps (w_ : FlashWr) {s : State} (hs : Keeps q w s) : KeepsR q w (execSuspend w_ s) := by
  unfold execSuspend
  try dsimp only
  repeat' first
    | with_reducible assumption
    | intro _
    | with_reducible apply flashKeyed_keeps
    | with_reducible apply flashRefuse_keeps
    | with_reducible apply showSusp_keeps
    | with_reducible apply setF_keeps
    | with_reducible apply Keeps.ite
    | with_reducible apply Keeps.foldl
    | with_reducible apply KeepsR.next
    | with_reducible apply KeepsR.ite
    | split
    | with_reducible apply Keeps.upd

theorem execResume_keeps (w_ : FlashWr) {s : State} (hs : Keeps q w s) : KeepsR q w (execResume w_ s) := by
  unfold execResume
  try dsimp only
  repeat' first
    | with_reducible assumption
    | intro _
    | with_reducible apply flashKeyed_keeps
    | with_reducible apply flashRefuse_keeps
    | with_reducible apply showSusp_keeps
    | with_reducible apply setF_keeps
    | with_reducible apply Keeps.ite
    | with_reducible apply Keeps.foldl
    | with_reducible apply KeepsR.next
    | with_reducible apply KeepsR.ite
    | split
    | with_reducible apply Keeps.upd

theorem takeCounts_keeps {s : State} (a : Nat) (n : Nat) (l : List (Nat × Fin 8)) (hs : Keeps q w s) : Keeps q w (takeCounts s a n l) := by
  unfold takeCounts
  try dsimp only
  repeat' first
    | with_reducible assumption
    | intro _
    | with_reducible apply setLine_keeps
    | with_reducible apply Keeps.ite
    | with_reducible apply Keeps.foldl
    | split

theorem retireSector_keeps {s : State} (a : Nat) (hs : Keeps q w s) : Keeps q w (retireSector s a) := by
  unfold retireSector
  try dsimp only
  repeat' first
    | with_reducible assumption
    | intro _
    | with_reducible apply showSpares_keeps
    | with_reducible apply eraseFlash_keeps
    | with_reducible apply setLine_keeps
    | with_reducible apply Keeps.ite
    | with_reducible apply Keeps.foldl
    | split
    | with_reducible apply Keeps.upd

theorem flashEffect_keeps {s : State} (o : FlashOp) (e : FlashEnd) (hs : Keeps q w s) : KeepsL q w (flashEffect s o e) := by
  unfold flashEffect
  try dsimp only
  repeat' first
    | with_reducible assumption
    | intro _
    | refine Keeps.eqL (by with_reducible assumption) ?_
    | with_reducible apply retireSector_keeps
    | with_reducible apply takeCounts_keeps
    | with_reducible apply readLine_keeps
    | with_reducible apply noteDone_keeps
    | with_reducible apply closeIntents_keeps
    | with_reducible apply tearErase_keeps
    | with_reducible apply tearLines_keeps
    | with_reducible apply programLines_keeps
    | with_reducible apply eraseFlash_keeps
    | with_reducible apply Keeps.ite
    | with_reducible apply Keeps.foldl
    | with_reducible apply KeepsL.ite
    | with_reducible apply KeepsL.foldl
    | split
    | with_reducible apply Keeps.fst
    | with_reducible apply KeepsL.pair

theorem flashFinish_keeps {s : State} (o : FlashOp) (e : FlashEnd) (hs : Keeps q w s) : Keeps q w (flashFinish s o e) := by
  unfold flashFinish
  try dsimp only
  repeat' first
    | with_reducible assumption
    | intro _
    | refine Keeps.eqL (by with_reducible assumption) ?_
    | with_reducible apply flashEffect_keeps
    | with_reducible apply faultReport_keeps
    | with_reducible apply setF_keeps
    | with_reducible apply Keeps.ite
    | with_reducible apply Keeps.foldl
    | with_reducible apply KeepsL.ite
    | with_reducible apply KeepsL.foldl
    | split
    | with_reducible apply Keeps.fst
    | with_reducible apply KeepsL.pair
    | with_reducible apply Keeps.upd

theorem execFlashOperationEnd_keeps (e : FlashEnd) {s : State} (hs : Keeps q w s) : KeepsR q w (execFlashOperationEnd e s) := by
  unfold execFlashOperationEnd
  try dsimp only
  repeat' first
    | with_reducible assumption
    | intro _
    | with_reducible apply flashFinish_keeps
    | with_reducible apply Keeps.ite
    | with_reducible apply Keeps.foldl
    | with_reducible apply KeepsR.next
    | with_reducible apply KeepsR.ite
    | split

end Sys2Proof.Machine
end

