-- ==== Sys2Proof/Laws/KeepsFwSlots.lean ====
section
/-!
SUPPORT. Laws/KeepsFwSlots.lean: what the operations of FwSlots.lean keep.
-/
namespace Sys2Proof.Machine

variable {q : List Instr} {w : FuseBits}

theorem setFwSlot_keeps {s : State} (n : Nat) (x : FwSlot) (hs : Keeps q w s) : Keeps q w (setFwSlot s n x) := by
  unfold setFwSlot
  try dsimp only
  repeat' first
    | with_reducible assumption
    | intro _
    | with_reducible apply Keeps.ite
    | with_reducible apply Keeps.foldl
    | split
    | with_reducible apply Keeps.upd

end Sys2Proof.Machine
end

