-- ==== Sys2Proof/Laws/KeepsTag.lean ====
section
/-!
SUPPORT. Laws/KeepsTag.lean: what the operations of Tag.lean keep.
-/
namespace Sys2Proof.Machine

variable {q : List Instr} {w : FuseBits}

theorem tagSay_keeps {s : State} (a : TagAns) (hs : Keeps q w s) : Keeps q w (tagSay s a) := by
  unfold tagSay
  try dsimp only
  repeat' first
    | with_reducible assumption
    | intro _
    | with_reducible apply bump_keeps
    | with_reducible apply Keeps.ite
    | with_reducible apply Keeps.foldl
    | split
    | with_reducible apply Keeps.upd

theorem tagIrq_keeps {s : State} (hs : Keeps q w s) : Keeps q w (tagIrq s) := by
  unfold tagIrq
  try dsimp only
  repeat' first
    | with_reducible assumption
    | intro _
    | with_reducible apply raise_keeps
    | with_reducible apply Keeps.ite
    | with_reducible apply Keeps.foldl
    | split

theorem showHandles_keeps {s : State} (hs : Keeps q w s) : Keeps q w (showHandles s) := by
  unfold showHandles
  try dsimp only
  repeat' first
    | with_reducible assumption
    | intro _
    | with_reducible apply setF_keeps
    | with_reducible apply Keeps.ite
    | with_reducible apply Keeps.foldl
    | split

theorem countEraseSusp_keeps {s : State} (hs : Keeps q w s) : Keeps q w (countEraseSusp s) := by
  unfold countEraseSusp
  try dsimp only
  repeat' first
    | with_reducible assumption
    | intro _
    | with_reducible apply Keeps.ite
    | with_reducible apply Keeps.foldl
    | split
    | with_reducible apply Keeps.upd

theorem tagHears_keeps {s : State} (q_ : TagReq) (f : State → State) (hs : Keeps q w s) (hf : ∀ x0, Keeps q w x0 → Keeps q w (f x0)) : KeepsR q w (tagHears s q_ f) := by
  unfold tagHears
  try dsimp only
  repeat' first
    | with_reducible assumption
    | intro _
    | with_reducible apply hf
    | with_reducible apply countEraseSusp_keeps
    | with_reducible apply tagSay_keeps
    | with_reducible apply Keeps.ite
    | with_reducible apply Keeps.foldl
    | with_reducible apply KeepsR.next
    | with_reducible apply KeepsR.ite
    | split

theorem tagFor_keeps {s : State} (q_ : TagReq) (f : State → State) (hs : Keeps q w s) (hf : ∀ x0, Keeps q w x0 → Keeps q w (f x0)) : KeepsR q w (tagFor s q_ f) := by
  unfold tagFor
  try dsimp only
  repeat' first
    | with_reducible assumption
    | intro _
    | with_reducible apply hf
    | with_reducible apply tagHears_keeps
    | with_reducible apply tagSay_keeps
    | with_reducible apply Keeps.ite
    | with_reducible apply Keeps.foldl
    | with_reducible apply KeepsR.next
    | with_reducible apply KeepsR.ite
    | split

theorem execFieldAppears_keeps {s : State} (hs : Keeps q w s) : KeepsR q w (execFieldAppears s) := by
  unfold execFieldAppears
  try dsimp only
  repeat' first
    | with_reducible assumption
    | intro _
    | with_reducible apply tagIrq_keeps
    | with_reducible apply setB_keeps
    | with_reducible apply setF_keeps
    | with_reducible apply Keeps.ite
    | with_reducible apply Keeps.foldl
    | with_reducible apply KeepsR.next
    | with_reducible apply KeepsR.ite
    | split
    | with_reducible apply Keeps.upd

theorem execFieldAbsent_keeps {s : State} (hs : Keeps q w s) : KeepsR q w (execFieldAbsent s) := by
  unfold execFieldAbsent
  try dsimp only
  repeat' first
    | with_reducible assumption
    | intro _
    | with_reducible apply setF_keeps
    | with_reducible apply Keeps.ite
    | with_reducible apply Keeps.foldl
    | with_reducible apply KeepsR.next
    | with_reducible apply KeepsR.ite
    | split
    | with_reducible apply Keeps.upd

theorem inventoryAnswer_keeps {s : State} (ident : Nat) (slots16 : Bool) (len : Nat) (mask : Nat) (hs : Keeps q w s) : Keeps q w (inventoryAnswer s ident slots16 len mask) := by
  unfold inventoryAnswer
  try dsimp only
  repeat' first
    | with_reducible assumption
    | intro _
    | with_reducible apply tagSay_keeps
    | with_reducible apply Keeps.ite
    | with_reducible apply Keeps.foldl
    | split

theorem execInventory_keeps (q_ : TagReq) (slots16 : Bool) (len : Fin 65) (mask : BitVec 64) (afi : Option (BitVec 8)) {s : State} (hs : Keeps q w s) : KeepsR q w (execInventory q_ slots16 len mask afi s) := by
  unfold execInventory
  try dsimp only
  repeat' first
    | with_reducible assumption
    | intro _
    | with_reducible apply inventoryAnswer_keeps
    | with_reducible apply tagHears_keeps
    | with_reducible apply tagSay_keeps
    | with_reducible apply Keeps.ite
    | with_reducible apply Keeps.foldl
    | with_reducible apply KeepsR.next
    | with_reducible apply KeepsR.ite
    | split

theorem execStayQuiet_keeps (q_ : TagReq) {s : State} (hs : Keeps q w s) : KeepsR q w (execStayQuiet q_ s) := by
  unfold execStayQuiet
  try dsimp only
  repeat' first
    | with_reducible assumption
    | intro _
    | with_reducible apply tagHears_keeps
    | with_reducible apply tagSay_keeps
    | with_reducible apply Keeps.ite
    | with_reducible apply Keeps.foldl
    | with_reducible apply KeepsR.next
    | with_reducible apply KeepsR.ite
    | split
    | with_reducible apply Keeps.upd

theorem execSelect_keeps (q_ : TagReq) {s : State} (hs : Keeps q w s) : KeepsR q w (execSelect q_ s) := by
  unfold execSelect
  try dsimp only
  repeat' first
    | with_reducible assumption
    | intro _
    | with_reducible apply tagHears_keeps
    | with_reducible apply tagSay_keeps
    | with_reducible apply Keeps.ite
    | with_reducible apply Keeps.foldl
    | with_reducible apply KeepsR.next
    | with_reducible apply KeepsR.ite
    | split
    | with_reducible apply Keeps.upd

theorem execResetToReady_keeps (q_ : TagReq) {s : State} (hs : Keeps q w s) : KeepsR q w (execResetToReady q_ s) := by
  unfold execResetToReady
  try dsimp only
  repeat' first
    | with_reducible assumption
    | intro _
    | with_reducible apply tagFor_keeps
    | with_reducible apply tagSay_keeps
    | with_reducible apply Keeps.ite
    | with_reducible apply Keeps.foldl
    | with_reducible apply KeepsR.next
    | with_reducible apply KeepsR.ite
    | split
    | with_reducible apply Keeps.upd

theorem execGetSystemInformation_keeps (q_ : TagReq) (u1 : Bool) {s : State} (hs : Keeps q w s) : KeepsR q w (execGetSystemInformation q_ u1 s) := by
  unfold execGetSystemInformation
  try dsimp only
  repeat' first
    | with_reducible assumption
    | intro _
    | with_reducible apply tagFor_keeps
    | with_reducible apply tagSay_keeps
    | with_reducible apply Keeps.ite
    | with_reducible apply Keeps.foldl
    | with_reducible apply KeepsR.next
    | with_reducible apply KeepsR.ite
    | split

theorem tagRead_keeps {s : State} (b : Nat) (hs : Keeps q w s) : KeepsP q w (tagRead s b) := by
  unfold tagRead
  try dsimp only
  repeat' first
    | with_reducible assumption
    | intro _
    | refine Keeps.eqP (by with_reducible assumption) ?_
    | with_reducible apply drawBytes_keeps
    | with_reducible apply Keeps.ite
    | with_reducible apply Keeps.foldl
    | with_reducible apply KeepsP.ite
    | with_reducible apply KeepsP.foldl
    | split
    | with_reducible apply Keeps.snd
    | with_reducible apply KeepsP.pair

theorem tagReadMany_keeps {s : State} (b n : Nat) (hs : Keeps q w s) : KeepsP q w (tagReadMany s b n) := by
  induction n generalizing s b with
  | zero => exact ⟨hs⟩
  | succ n ih => exact ⟨(ih (b + 1) (tagRead_keeps b hs).out).out⟩

theorem tagReadAnswer_keeps {s : State} (ext : Bool) (b : Nat) (n : Nat) (hs : Keeps q w s) : Keeps q w (tagReadAnswer s ext b n) := by
  unfold tagReadAnswer
  try dsimp only
  repeat' first
    | with_reducible assumption
    | intro _
    | refine Keeps.eqP (by with_reducible assumption) ?_
    | with_reducible apply tagReadMany_keeps
    | with_reducible apply tagSay_keeps
    | with_reducible apply Keeps.ite
    | with_reducible apply Keeps.foldl
    | with_reducible apply KeepsP.ite
    | with_reducible apply KeepsP.foldl
    | split
    | with_reducible apply Keeps.snd
    | with_reducible apply KeepsP.pair

theorem execReadSingleBlock_keeps (q_ : TagReq) (ext : Bool) (block : BitVec 16) {s : State} (hs : Keeps q w s) : KeepsR q w (execReadSingleBlock q_ ext block s) := by
  unfold execReadSingleBlock
  try dsimp only
  repeat' first
    | with_reducible assumption
    | intro _
    | with_reducible apply tagReadAnswer_keeps
    | with_reducible apply tagFor_keeps
    | with_reducible apply Keeps.ite
    | with_reducible apply Keeps.foldl
    | with_reducible apply KeepsR.next
    | with_reducible apply KeepsR.ite
    | split

theorem execReadMultipleBlocks_keeps (q_ : TagReq) (ext : Bool) (first : BitVec 16) (count : BitVec 16) {s : State} (hs : Keeps q w s) : KeepsR q w (execReadMultipleBlocks q_ ext first count s) := by
  unfold execReadMultipleBlocks
  try dsimp only
  repeat' first
    | with_reducible assumption
    | intro _
    | with_reducible apply tagReadAnswer_keeps
    | with_reducible apply tagFor_keeps
    | with_reducible apply Keeps.ite
    | with_reducible apply Keeps.foldl
    | with_reducible apply KeepsR.next
    | with_reducible apply KeepsR.ite
    | split

theorem tagMeasure_keeps {s : State} (w_ : TagWr) (hs : Keeps q w s) : Keeps q w (tagMeasure s w_) := by
  unfold tagMeasure
  try dsimp only
  repeat' first
    | with_reducible assumption
    | intro _
    | with_reducible apply setF_keeps
    | with_reducible apply Keeps.ite
    | with_reducible apply Keeps.foldl
    | split

theorem tagWeak_keeps {s : State} (hs : Keeps q w s) : Keeps q w (tagWeak s) := by
  unfold tagWeak
  try dsimp only
  repeat' first
    | with_reducible assumption
    | intro _
    | with_reducible apply bump_keeps
    | with_reducible apply Keeps.ite
    | with_reducible apply Keeps.foldl
    | split

theorem tagLines_keeps {s : State} (x : TagWr) (l : List (Nat × Bytes)) (i : Nat) (hs : Keeps q w s) : KeepsP q w (tagLines s x l i) := by
  induction l generalizing s i with
  | nil => exact ⟨hs⟩
  | cons e l ih =>
    unfold tagLines
    split
    · exact ⟨tearLine_keeps _ _ hs⟩
    · exact ih _ (programLine_keeps _ _ hs)

theorem tagWritten_keeps {s : State} (w_ : TagWr) (k : Nat) (n : Nat) (hs : Keeps q w s) : Keeps q w (tagWritten s w_ k n) := by
  unfold tagWritten
  try dsimp only
  repeat' first
    | with_reducible assumption
    | intro _
    | with_reducible apply tagSay_keeps
    | with_reducible apply Keeps.ite
    | with_reducible apply Keeps.foldl
    | split

theorem tagFieldPut_keeps {s : State} (ext : Bool) (b : Nat) (n : Nat) (data : Bytes) (w_ : TagWr) (hs : Keeps q w s) : Keeps q w (tagFieldPut s ext b n data w_) := by
  unfold tagFieldPut
  try dsimp only
  repeat' first
    | with_reducible assumption
    | intro _
    | refine Keeps.eqP (by with_reducible assumption) ?_
    | with_reducible apply tagWritten_keeps
    | with_reducible apply tagLines_keeps
    | with_reducible apply tagWeak_keeps
    | with_reducible apply tagMeasure_keeps
    | with_reducible apply tagSay_keeps
    | with_reducible apply Keeps.ite
    | with_reducible apply Keeps.foldl
    | with_reducible apply KeepsP.ite
    | with_reducible apply KeepsP.foldl
    | split
    | with_reducible apply Keeps.snd
    | with_reducible apply KeepsP.pair

theorem execWriteSingleBlock_keeps (q_ : TagReq) (ext : Bool) (block : BitVec 16) (data : Bytes) (w_ : TagWr) {s : State} (hs : Keeps q w s) : KeepsR q w (execWriteSingleBlock q_ ext block data w_ s) := by
  unfold execWriteSingleBlock
  try dsimp only
  repeat' first
    | with_reducible assumption
    | intro _
    | with_reducible apply tagFieldPut_keeps
    | with_reducible apply tagFor_keeps
    | with_reducible apply Keeps.ite
    | with_reducible apply Keeps.foldl
    | with_reducible apply KeepsR.next
    | with_reducible apply KeepsR.ite
    | split

theorem execWriteMultipleBlocks_keeps (q_ : TagReq) (ext : Bool) (first : BitVec 16) (count : BitVec 16) (data : Bytes) (w_ : TagWr) {s : State} (hs : Keeps q w s) : KeepsR q w (execWriteMultipleBlocks q_ ext first count data w_ s) := by
  unfold execWriteMultipleBlocks
  try dsimp only
  repeat' first
    | with_reducible assumption
    | intro _
    | with_reducible apply tagFieldPut_keeps
    | with_reducible apply tagFor_keeps
    | with_reducible apply Keeps.ite
    | with_reducible apply Keeps.foldl
    | with_reducible apply KeepsR.next
    | with_reducible apply KeepsR.ite
    | split

theorem execTagRequestUnsupported_keeps (q_ : TagReq) (code : BitVec 8) (mfr : BitVec 8) {s : State} (hs : Keeps q w s) : KeepsR q w (execTagRequestUnsupported q_ code mfr s) := by
  unfold execTagRequestUnsupported
  try dsimp only
  repeat' first
    | with_reducible assumption
    | intro _
    | with_reducible apply tagFor_keeps
    | with_reducible apply tagSay_keeps
    | with_reducible apply Keeps.ite
    | with_reducible apply Keeps.foldl
    | with_reducible apply KeepsR.next
    | with_reducible apply KeepsR.ite
    | split

theorem tagCustom_keeps {s : State} (mfr : BitVec 8) (f : State → State) (hs : Keeps q w s) (hf : ∀ x0, Keeps q w x0 → Keeps q w (f x0)) : Keeps q w (tagCustom s mfr f) := by
  unfold tagCustom
  try dsimp only
  repeat' first
    | with_reducible assumption
    | intro _
    | with_reducible apply hf
    | with_reducible apply tagSay_keeps
    | with_reducible apply Keeps.ite
    | with_reducible apply Keeps.foldl
    | split

theorem execLedgerSummaryRead_keeps (q_ : TagReq) (mfr : BitVec 8) (first : BitVec 8) (count : BitVec 8) {s : State} (hs : Keeps q w s) : KeepsR q w (execLedgerSummaryRead q_ mfr first count s) := by
  unfold execLedgerSummaryRead
  try dsimp only
  repeat' first
    | with_reducible assumption
    | intro _
    | with_reducible apply tagCustom_keeps
    | with_reducible apply tagFor_keeps
    | with_reducible apply tagSay_keeps
    | with_reducible apply Keeps.ite
    | with_reducible apply Keeps.foldl
    | with_reducible apply KeepsR.next
    | with_reducible apply KeepsR.ite
    | split

theorem startRound_keeps {s : State} (w_ : TagWr) (hs : Keeps q w s) : Keeps q w (startRound s w_) := by
  unfold startRound
  try dsimp only
  repeat' first
    | with_reducible assumption
    | intro _
    | refine Keeps.eqP (by with_reducible assumption) ?_
    | with_reducible apply tagLines_keeps
    | with_reducible apply tagWeak_keeps
    | with_reducible apply tagMeasure_keeps
    | with_reducible apply showHandles_keeps
    | with_reducible apply drawBytes_keeps
    | with_reducible apply Keeps.ite
    | with_reducible apply Keeps.foldl
    | with_reducible apply KeepsP.ite
    | with_reducible apply KeepsP.foldl
    | split
    | with_reducible apply Keeps.snd
    | with_reducible apply KeepsP.pair
    | with_reducible apply Keeps.upd

theorem execPrivacyInventory_keeps (q_ : TagReq) (mfr : BitVec 8) (slots16 : Bool) (len : Fin 65) (mask : BitVec 64) (w_ : TagWr) {s : State} (hs : Keeps q w s) : KeepsR q w (execPrivacyInventory q_ mfr slots16 len mask w_ s) := by
  unfold execPrivacyInventory
  try dsimp only
  repeat' first
    | with_reducible assumption
    | intro _
    | with_reducible apply startRound_keeps
    | with_reducible apply tagCustom_keeps
    | with_reducible apply inventoryAnswer_keeps
    | with_reducible apply tagHears_keeps
    | with_reducible apply tagSay_keeps
    | with_reducible apply Keeps.ite
    | with_reducible apply Keeps.foldl
    | with_reducible apply KeepsR.next
    | with_reducible apply KeepsR.ite
    | split

theorem execServiceIntentWrite_keeps (q_ : TagReq) (mfr : BitVec 8) (data : Bytes) (w_ : TagWr) {s : State} (hs : Keeps q w s) : KeepsR q w (execServiceIntentWrite q_ mfr data w_ s) := by
  unfold execServiceIntentWrite
  try dsimp only
  repeat' first
    | with_reducible assumption
    | intro _
    | refine Keeps.eqP (by with_reducible assumption) ?_
    | with_reducible apply tagCustom_keeps
    | with_reducible apply tagWritten_keeps
    | with_reducible apply tagLines_keeps
    | with_reducible apply tagWeak_keeps
    | with_reducible apply tagMeasure_keeps
    | with_reducible apply tagFor_keeps
    | with_reducible apply tagIrq_keeps
    | with_reducible apply tagSay_keeps
    | with_reducible apply setF_keeps
    | with_reducible apply Keeps.ite
    | with_reducible apply Keeps.foldl
    | with_reducible apply KeepsR.next
    | with_reducible apply KeepsR.ite
    | with_reducible apply KeepsP.ite
    | with_reducible apply KeepsP.foldl
    | split
    | with_reducible apply Keeps.snd
    | with_reducible apply KeepsP.pair

theorem fillPool_keeps {s : State} (n : Nat) (hs : Keeps q w s) : Keeps q w (fillPool s n) := by
  induction n with
  | zero => exact hs
  | succ n ih => exact tagProgram_keeps _ _ (drawBytes_keeps 6 ih).out

theorem refillPool_keeps {s : State} (hs : Keeps q w s) : Keeps q w (refillPool s) := by
  unfold refillPool
  try dsimp only
  repeat' first
    | with_reducible assumption
    | intro _
    | with_reducible apply fillPool_keeps
    | with_reducible apply showHandles_keeps
    | with_reducible apply tagErase_keeps
    | with_reducible apply Keeps.ite
    | with_reducible apply Keeps.foldl
    | split

theorem execHandlePoolRefill_keeps {s : State} (hs : Keeps q w s) : KeepsR q w (execHandlePoolRefill s) := by
  unfold execHandlePoolRefill
  try dsimp only
  repeat' first
    | with_reducible assumption
    | intro _
    | with_reducible apply refillPool_keeps
    | with_reducible apply whenGecko_keeps
    | with_reducible apply Keeps.ite
    | with_reducible apply Keeps.foldl
    | with_reducible apply KeepsR.next
    | with_reducible apply KeepsR.ite
    | split

theorem recordIntents_keeps {s : State} (hs : Keeps q w s) : Keeps q w (recordIntents s) := by
  unfold recordIntents
  try dsimp only
  repeat' first
    | with_reducible assumption
    | intro _
    | with_reducible apply tagErase_keeps
    | with_reducible apply occur_keeps
    | with_reducible apply Keeps.ite
    | with_reducible apply Keeps.foldl
    | split

theorem execIntentRecording_keeps {s : State} (hs : Keeps q w s) : KeepsR q w (execIntentRecording s) := by
  unfold execIntentRecording
  try dsimp only
  repeat' first
    | with_reducible assumption
    | intro _
    | with_reducible apply recordIntents_keeps
    | with_reducible apply whenGecko_keeps
    | with_reducible apply Keeps.ite
    | with_reducible apply Keeps.foldl
    | with_reducible apply KeepsR.next
    | with_reducible apply KeepsR.ite
    | split

theorem tagDone_keeps {s : State} (err : Nat) (flashErr : Nat) (hs : Keeps q w s) : Keeps q w (tagDone s err flashErr) := by
  unfold tagDone
  try dsimp only
  repeat' first
    | with_reducible assumption
    | intro _
    | with_reducible apply tagIrq_keeps
    | with_reducible apply setF_keeps
    | with_reducible apply Keeps.ite
    | with_reducible apply Keeps.foldl
    | split

theorem tagFlash_keeps {s : State} (cmd : Nat) (o : FlashOp) (fetch : Nat) (hs : Keeps q w s) : Keeps q w (tagFlash s cmd o fetch) := by
  unfold tagFlash
  try dsimp only
  repeat' first
    | with_reducible assumption
    | intro _
    | with_reducible apply tagDone_keeps
    | with_reducible apply flashStart_keeps
    | with_reducible apply setF_keeps
    | with_reducible apply Keeps.ite
    | with_reducible apply Keeps.foldl
    | split
    | with_reducible apply Keeps.upd

theorem tagCmd_keeps (w_ : FlashWr) {s : State} (f : State → State) (hs : Keeps q w s) (hf : ∀ x0, Keeps q w x0 → Keeps q w (f x0)) : KeepsR q w (tagCmd w_ s f) := by
  unfold tagCmd
  try dsimp only
  repeat' first
    | with_reducible assumption
    | intro _
    | with_reducible apply hf
    | with_reducible apply tagDone_keeps
    | with_reducible apply whenGecko_keeps
    | with_reducible apply Keeps.ite
    | with_reducible apply Keeps.foldl
    | with_reducible apply KeepsR.next
    | with_reducible apply KeepsR.ite
    | split

theorem execTagWrite_keeps (w_ : FlashWr) {s : State} (hs : Keeps q w s) : KeepsR q w (execTagWrite w_ s) := by
  unfold execTagWrite
  try dsimp only
  repeat' first
    | with_reducible assumption
    | intro _
    | with_reducible apply tagCmd_keeps
    | with_reducible apply tagFlash_keeps
    | with_reducible apply tagDone_keeps
    | with_reducible apply recordDenied_keeps
    | with_reducible apply Keeps.ite
    | with_reducible apply Keeps.foldl
    | with_reducible apply KeepsR.next
    | with_reducible apply KeepsR.ite
    | split

theorem execTagErase_keeps (w_ : FlashWr) {s : State} (hs : Keeps q w s) : KeepsR q w (execTagErase w_ s) := by
  unfold execTagErase
  try dsimp only
  repeat' first
    | with_reducible assumption
    | intro _
    | with_reducible apply tagCmd_keeps
    | with_reducible apply tagFlash_keeps
    | with_reducible apply tagDone_keeps
    | with_reducible apply Keeps.ite
    | with_reducible apply Keeps.foldl
    | with_reducible apply KeepsR.next
    | with_reducible apply KeepsR.ite
    | split

theorem execTagOperationEnd_keeps (e : FlashEnd) {s : State} (hs : Keeps q w s) : KeepsR q w (execTagOperationEnd e s) := by
  unfold execTagOperationEnd
  try dsimp only
  repeat' first
    | with_reducible assumption
    | intro _
    | with_reducible apply tagDone_keeps
    | with_reducible apply showHandles_keeps
    | with_reducible apply flashFinish_keeps
    | with_reducible apply setF_keeps
    | with_reducible apply Keeps.ite
    | with_reducible apply Keeps.foldl
    | with_reducible apply KeepsR.next
    | with_reducible apply KeepsR.ite
    | split
    | with_reducible apply Keeps.upd

end Sys2Proof.Machine
end

