-- ==== Sys2Proof/Laws/KeepsTamper.lean ====
section
/-!
SUPPORT. Laws/KeepsTamper.lean: what the operations of Tamper.lean keep.
-/
namespace Sys2Proof.Machine

variable {q : List Instr} {w : FuseBits}

theorem tripDetectors_keeps {s : State} (a : BitVec 16) (b : BitVec 16) (hs : Keeps q w s) : Keeps q w (tripDetectors s a b) := by
  unfold tripDetectors
  try dsimp only
  repeat' first
    | with_reducible assumption
    | intro _
    | with_reducible apply showTripped_keeps
    | with_reducible apply tamperEvent_keeps
    | with_reducible apply Keeps.ite
    | with_reducible apply Keeps.foldl
    | split
    | with_reducible apply Keeps.upd

theorem clearSource_keeps {s : State} (n : Nat) (hs : Keeps q w s) : Keeps q w (clearSource s n) := by
  unfold clearSource
  try dsimp only
  repeat' first
    | with_reducible assumption
    | intro _
    | with_reducible apply showTripped_keeps
    | with_reducible apply Keeps.ite
    | with_reducible apply Keeps.foldl
    | split
    | with_reducible apply Keeps.upd

theorem execTamperEvent_keeps (tripsA : BitVec 16) (tripsB : BitVec 16) {s : State} (hs : Keeps q w s) : KeepsR q w (execTamperEvent tripsA tripsB s) := by
  unfold execTamperEvent
  try dsimp only
  repeat' first
    | with_reducible assumption
    | intro _
    | with_reducible apply tripDetectors_keeps
    | with_reducible apply Keeps.ite
    | with_reducible apply Keeps.foldl
    | with_reducible apply KeepsR.next
    | with_reducible apply KeepsR.ite
    | split

theorem execTamperSourceClear_keeps (src : Fin 16) {s : State} (hs : Keeps q w s) : KeepsR q w (execTamperSourceClear src s) := by
  unfold execTamperSourceClear
  try dsimp only
  repeat' first
    | with_reducible assumption
    | intro _
    | with_reducible apply clearSource_keeps
    | with_reducible apply Keeps.ite
    | with_reducible apply Keeps.foldl
    | with_reducible apply KeepsR.next
    | with_reducible apply KeepsR.ite
    | split

theorem execMonitorDisagree_keeps (src : Fin 16) {s : State} (hs : Keeps q w s) : KeepsR q w (execMonitorDisagree src s) := by
  unfold execMonitorDisagree
  try dsimp only
  repeat' first
    | with_reducible assumption
    | intro _
    | with_reducible apply faultReport_keeps
    | with_reducible apply occur_keeps
    | with_reducible apply setF_keeps
    | with_reducible apply Keeps.ite
    | with_reducible apply Keeps.foldl
    | with_reducible apply KeepsR.next
    | with_reducible apply KeepsR.ite
    | split

theorem judgeLoop_keeps {s : State} (n : Nat) (bad : Nat) (hs : Keeps q w s) : Keeps q w (judgeLoop s n bad) := by
  unfold judgeLoop
  try dsimp only
  repeat' first
    | with_reducible assumption
    | intro _
    | with_reducible apply clearSource_keeps
    | with_reducible apply tripDetectors_keeps
    | with_reducible apply Keeps.ite
    | with_reducible apply Keeps.foldl
    | split

theorem execLoop0Measurement_keeps (ohms : Nat) {s : State} (hs : Keeps q w s) : KeepsR q w (execLoop0Measurement ohms s) := by
  unfold execLoop0Measurement
  try dsimp only
  repeat' first
    | with_reducible assumption
    | intro _
    | with_reducible apply judgeLoop_keeps
    | with_reducible apply Keeps.ite
    | with_reducible apply Keeps.foldl
    | with_reducible apply KeepsR.next
    | with_reducible apply KeepsR.ite
    | split
    | with_reducible apply Keeps.upd

theorem execLoop1Code_keeps (code : BitVec 16) (late : Bool) {s : State} (hs : Keeps q w s) : KeepsR q w (execLoop1Code code late s) := by
  unfold execLoop1Code
  try dsimp only
  repeat' first
    | with_reducible assumption
    | intro _
    | with_reducible apply judgeLoop_keeps
    | with_reducible apply Keeps.ite
    | with_reducible apply Keeps.foldl
    | with_reducible apply KeepsR.next
    | with_reducible apply KeepsR.ite
    | split
    | with_reducible apply Keeps.upd

theorem tamperKeyed_keeps (key : BitVec 16) {s : State} {t : State} (hs : Keeps q w s) (ht : Keeps q w t) : KeepsR q w (tamperKeyed key s t) := by
  unfold tamperKeyed
  try dsimp only
  repeat' first
    | with_reducible assumption
    | intro _
    | with_reducible apply whenGecko_keeps
    | with_reducible apply Keeps.ite
    | with_reducible apply Keeps.foldl
    | with_reducible apply KeepsR.next
    | with_reducible apply KeepsR.ite
    | split

theorem requestZall_keeps {s : State} (hs : Keeps q w s) : Keeps q w (requestZall s) := by
  unfold requestZall
  try dsimp only
  repeat' first
    | with_reducible assumption
    | intro _
    | with_reducible apply zeroiseAllStart_keeps
    | with_reducible apply occur_keeps
    | with_reducible apply Keeps.ite
    | with_reducible apply Keeps.foldl
    | split
    | with_reducible apply Keeps.upd

theorem execZall_keeps (key : BitVec 16) {s : State} (hs : Keeps q w s) : KeepsR q w (execZall key s) := by
  unfold execZall
  try dsimp only
  repeat' first
    | with_reducible assumption
    | intro _
    | with_reducible apply requestZall_keeps
    | with_reducible apply tamperKeyed_keeps
    | with_reducible apply Keeps.ite
    | with_reducible apply Keeps.foldl
    | with_reducible apply KeepsR.next
    | with_reducible apply KeepsR.ite
    | split

theorem makeBk_keeps {s : State} (hs : Keeps q w s) : Keeps q w (makeBk s) := by
  unfold makeBk
  try dsimp only
  repeat' first
    | with_reducible assumption
    | intro _
    | refine Keeps.eqP (by with_reducible assumption) ?_
    | with_reducible apply drbgBits_keeps
    | with_reducible apply setF_keeps
    | with_reducible apply Keeps.ite
    | with_reducible apply Keeps.foldl
    | with_reducible apply KeepsP.ite
    | with_reducible apply KeepsP.foldl
    | split
    | with_reducible apply Keeps.snd
    | with_reducible apply KeepsP.pair
    | with_reducible apply Keeps.upd

theorem execBkgen_keeps (key : BitVec 16) {s : State} (hs : Keeps q w s) : KeepsR q w (execBkgen key s) := by
  unfold execBkgen
  try dsimp only
  repeat' first
    | with_reducible assumption
    | intro _
    | with_reducible apply makeBk_keeps
    | with_reducible apply tamperKeyed_keeps
    | with_reducible apply Keeps.ite
    | with_reducible apply Keeps.foldl
    | with_reducible apply KeepsR.next
    | with_reducible apply KeepsR.ite
    | split

theorem zdone_keeps {s : State} (hs : Keeps q w s) : Keeps q w (zdone s) := by
  unfold zdone
  try dsimp only
  repeat' first
    | with_reducible assumption
    | intro _
    | with_reducible apply setF_keeps
    | with_reducible apply Keeps.ite
    | with_reducible apply Keeps.foldl
    | split

theorem execZdone_keeps (key : BitVec 16) {s : State} (hs : Keeps q w s) : KeepsR q w (execZdone key s) := by
  unfold execZdone
  try dsimp only
  repeat' first
    | with_reducible assumption
    | intro _
    | with_reducible apply zdone_keeps
    | with_reducible apply tamperKeyed_keeps
    | with_reducible apply Keeps.ite
    | with_reducible apply Keeps.foldl
    | with_reducible apply KeepsR.next
    | with_reducible apply KeepsR.ite
    | split

theorem execUnlock_keeps (key : BitVec 16) {s : State} (hs : Keeps q w s) : KeepsR q w (execUnlock key s) := by
  unfold execUnlock
  try dsimp only
  repeat' first
    | with_reducible assumption
    | intro _
    | with_reducible apply tamperKeyed_keeps
    | with_reducible apply setF_keeps
    | with_reducible apply Keeps.ite
    | with_reducible apply Keeps.foldl
    | with_reducible apply KeepsR.next
    | with_reducible apply KeepsR.ite
    | split

theorem execCfgLock_keeps {s : State} (hs : Keeps q w s) : KeepsR q w (execCfgLock s) := by
  unfold execCfgLock
  try dsimp only
  repeat' first
    | with_reducible assumption
    | intro _
    | with_reducible apply whenGecko_keeps
    | with_reducible apply setF_keeps
    | with_reducible apply Keeps.ite
    | with_reducible apply Keeps.foldl
    | with_reducible apply KeepsR.next
    | with_reducible apply KeepsR.ite
    | split

theorem execTamperSelftest_keeps (v : W32) {s : State} (hs : Keeps q w s) : KeepsR q w (execTamperSelftest v s) := by
  unfold execTamperSelftest
  try dsimp only
  repeat' first
    | with_reducible assumption
    | intro _
    | with_reducible apply whenGecko_keeps
    | with_reducible apply writeReg_keeps
    | with_reducible apply setF_keeps
    | with_reducible apply Keeps.ite
    | with_reducible apply Keeps.foldl
    | with_reducible apply KeepsR.next
    | with_reducible apply KeepsR.ite
    | split
    | with_reducible apply Keeps.upd

theorem execTamperSelftestEnd_keeps (tripped : Bool) (cleared : Bool) {s : State} (hs : Keeps q w s) : KeepsR q w (execTamperSelftestEnd tripped cleared s) := by
  unfold execTamperSelftestEnd
  try dsimp only
  repeat' first
    | with_reducible assumption
    | intro _
    | with_reducible apply faultReport_keeps
    | with_reducible apply setF_keeps
    | with_reducible apply Keeps.ite
    | with_reducible apply Keeps.foldl
    | with_reducible apply KeepsR.next
    | with_reducible apply KeepsR.ite
    | split
    | with_reducible apply Keeps.upd

theorem execTamperForce_keeps (v : BitVec 16) {s : State} (hs : Keeps q w s) : KeepsR q w (execTamperForce v s) := by
  unfold execTamperForce
  try dsimp only
  repeat' first
    | with_reducible assumption
    | intro _
    | with_reducible apply tamperEvent_keeps
    | with_reducible apply whenGecko_keeps
    | with_reducible apply Keeps.ite
    | with_reducible apply Keeps.foldl
    | with_reducible apply KeepsR.next
    | with_reducible apply KeepsR.ite
    | split

theorem execTamperCelllogRead_keeps {s : State} (hs : Keeps q w s) : KeepsR q w (execTamperCelllogRead s) := by
  unfold execTamperCelllogRead
  try dsimp only
  repeat' first
    | with_reducible assumption
    | intro _
    | with_reducible apply whenGecko_keeps
    | with_reducible apply setB_keeps
    | with_reducible apply setF_keeps
    | with_reducible apply Keeps.ite
    | with_reducible apply Keeps.foldl
    | with_reducible apply KeepsR.next
    | with_reducible apply KeepsR.ite
    | split
    | with_reducible apply Keeps.upd

end Sys2Proof.Machine
end

