-- ==== Sys2Proof/Laws/KeepsPowerUp.lean ====
section
/-!
SUPPORT. Laws/KeepsPowerUp.lean: what the operations of PowerUp.lean keep.
-/
namespace Sys2Proof.Machine

variable {q : List Instr} {w : FuseBits}

theorem cellLose_keeps {s : State} (hs : Keeps q w s) : Keeps q w (cellLose s) := by
  unfold cellLose
  try dsimp only
  repeat' first
    | with_reducible assumption
    | intro _
    | with_reducible apply resetRegs_keeps
    | with_reducible apply Keeps.ite
    | with_reducible apply Keeps.foldl
    | split
    | with_reducible apply Keeps.upd

theorem evLose_keeps {s : State} (hs : Keeps q w s) : Keeps q w (evLose s) := by
  unfold evLose
  try dsimp only
  repeat' first
    | with_reducible assumption
    | intro _
    | with_reducible apply evRefresh_keeps
    | with_reducible apply Keeps.ite
    | with_reducible apply Keeps.foldl
    | split
    | with_reducible apply Keeps.upd

theorem cellPowerOn_keeps {s : State} (vbat : Bool) (main : Bool) (hs : Keeps q w s) : Keeps q w (cellPowerOn s vbat main) := by
  unfold cellPowerOn
  try dsimp only
  repeat' first
    | with_reducible assumption
    | intro _
    | with_reducible apply evLose_keeps
    | with_reducible apply cellLose_keeps
    | with_reducible apply Keeps.ite
    | with_reducible apply Keeps.foldl
    | split
    | with_reducible apply Keeps.upd

theorem execCellPowerOn_keeps (vbat : Bool) (main : Bool) {s : State} (hs : Keeps q w s) : KeepsR q w (execCellPowerOn vbat main s) := by
  unfold execCellPowerOn
  try dsimp only
  repeat' first
    | with_reducible assumption
    | intro _
    | with_reducible apply cellPowerOn_keeps
    | with_reducible apply Keeps.ite
    | with_reducible apply Keeps.foldl
    | with_reducible apply KeepsR.next
    | with_reducible apply KeepsR.ite
    | split

theorem execCellSupplyLoss_keeps {s : State} (hs : Keeps q w s) : KeepsR q w (execCellSupplyLoss s) := by
  unfold execCellSupplyLoss
  try dsimp only
  repeat' first
    | with_reducible assumption
    | intro _
    | with_reducible apply cellLose_keeps
    | with_reducible apply tripDetectors_keeps
    | with_reducible apply Keeps.ite
    | with_reducible apply Keeps.foldl
    | with_reducible apply KeepsR.next
    | with_reducible apply KeepsR.ite
    | split
    | with_reducible apply Keeps.upd

theorem mainPowerLost_keeps {s : State} (hs : Keeps q w s) : Keeps q w (mainPowerLost s) := by
  unfold mainPowerLost
  try dsimp only
  repeat' first
    | with_reducible assumption
    | intro _
    | with_reducible apply evLose_keeps
    | with_reducible apply cellLose_keeps
    | with_reducible apply showTripped_keeps
    | with_reducible apply noteCause_keeps
    | with_reducible apply resetGecko_keeps
    | with_reducible apply resetLandau_keeps
    | with_reducible apply setF_keeps
    | with_reducible apply Keeps.ite
    | with_reducible apply Keeps.foldl
    | split
    | with_reducible apply Keeps.upd

theorem execMainPowerGoodWithdrawn_keeps {s : State} (hs : Keeps q w s) : KeepsR q w (execMainPowerGoodWithdrawn s) := by
  unfold execMainPowerGoodWithdrawn
  try dsimp only
  repeat' first
    | with_reducible assumption
    | intro _
    | with_reducible apply mainPowerLost_keeps
    | with_reducible apply Keeps.ite
    | with_reducible apply Keeps.foldl
    | with_reducible apply KeepsR.next
    | with_reducible apply KeepsR.ite
    | split

theorem evScan_keeps {s : State} (hs : Keeps q w s) : Keeps q w (evScan s) := by
  unfold evScan
  try dsimp only
  repeat' first
    | with_reducible assumption
    | intro _
    | with_reducible apply evRefresh_keeps
    | with_reducible apply setF_keeps
    | with_reducible apply Keeps.ite
    | with_reducible apply Keeps.foldl
    | split

theorem restoreCount_keeps {s : State} (f : Field) (sat : Field) (v : Nat) (hs : Keeps q w s) : Keeps q w (restoreCount s f sat v) := by
  unfold restoreCount
  try dsimp only
  repeat' first
    | with_reducible assumption
    | intro _
    | with_reducible apply setB_keeps
    | with_reducible apply setF_keeps
    | with_reducible apply Keeps.ite
    | with_reducible apply Keeps.foldl
    | split

theorem restoreTimes_keeps {s : State} (hs : Keeps q w s) : Keeps q w (restoreTimes s) := by
  unfold restoreTimes
  try dsimp only
  repeat' first
    | with_reducible assumption
    | intro _
    | with_reducible apply restoreCount_keeps
    | with_reducible apply bump_keeps
    | with_reducible apply setF_keeps
    | with_reducible apply Keeps.ite
    | with_reducible apply Keeps.foldl
    | split
    | with_reducible apply Keeps.upd

theorem copyEntry_keeps {s : State} (e : CellEntry) (hs : Keeps q w s) : Keeps q w (copyEntry s e) := by
  unfold copyEntry
  try dsimp only
  repeat' first
    | with_reducible assumption
    | intro _
    | with_reducible apply occurAt_keeps
    | with_reducible apply Keeps.ite
    | with_reducible apply Keeps.foldl
    | split

theorem copyCellLog_keeps {s : State} (hs : Keeps q w s) : Keeps q w (copyCellLog s) := by
  unfold copyCellLog
  try dsimp only
  repeat' first
    | with_reducible assumption
    | intro _
    | with_reducible apply copyEntry_keeps
    | with_reducible apply occurAt_keeps
    | with_reducible apply raise_keeps
    | with_reducible apply setF_keeps
    | with_reducible apply Keeps.ite
    | with_reducible apply Keeps.foldl
    | split
    | with_reducible apply Keeps.upd

theorem copyTimes_keeps {s : State} (hs : Keeps q w s) : Keeps q w (copyTimes s) := by
  unfold copyTimes
  try dsimp only
  repeat' first
    | with_reducible assumption
    | intro _
    | with_reducible apply copyCellLog_keeps
    | with_reducible apply restoreTimes_keeps
    | with_reducible apply occur_keeps
    | with_reducible apply Keeps.ite
    | with_reducible apply Keeps.foldl
    | split
    | with_reducible apply Keeps.upd

theorem testMonitors_keeps {s : State} (fail : BitVec 16) (hs : Keeps q w s) : Keeps q w (testMonitors s fail) := by
  unfold testMonitors
  try dsimp only
  repeat' first
    | with_reducible assumption
    | intro _
    | with_reducible apply faultReport_keeps
    | with_reducible apply Keeps.ite
    | with_reducible apply Keeps.foldl
    | split

theorem startMonitors_keeps {s : State} (hs : Keeps q w s) : Keeps q w (startMonitors s) := by
  unfold startMonitors
  try dsimp only
  repeat' first
    | with_reducible assumption
    | intro _
    | with_reducible apply tamperEvent_keeps
    | with_reducible apply Keeps.ite
    | with_reducible apply Keeps.foldl
    | split

theorem geckoStep2_keeps {s : State} (p : PowerGood) (hs : Keeps q w s) : Keeps q w (geckoStep2 s p) := by
  unfold geckoStep2
  try dsimp only
  repeat' first
    | with_reducible assumption
    | intro _
    | with_reducible apply startMonitors_keeps
    | with_reducible apply testMonitors_keeps
    | with_reducible apply copyTimes_keeps
    | with_reducible apply evScan_keeps
    | with_reducible apply setDomainOn_keeps
    | with_reducible apply noteReport_keeps
    | with_reducible apply showSpares_keeps
    | with_reducible apply scanHalf_keeps
    | with_reducible apply occur_keeps
    | with_reducible apply Keeps.ite
    | with_reducible apply Keeps.foldl
    | split
    | with_reducible apply Keeps.upd

theorem fuseLoad_keeps {s : State} (p : PowerGood) (hs : Keeps q w s) : Keeps q w (fuseLoad s p) := by
  unfold fuseLoad
  try dsimp only
  repeat' first
    | with_reducible assumption
    | intro _
    | with_reducible apply tamperTrip_keeps
    | with_reducible apply showSpares_keeps
    | with_reducible apply loadFuseRegs_keeps
    | with_reducible apply setF_keeps
    | with_reducible apply Keeps.ite
    | with_reducible apply Keeps.foldl
    | split
    | with_reducible apply Keeps.upd
    | with_reducible apply Keeps.updFuse
    | with_reducible apply Keeps.updBurn
    | with_reducible apply Keeps.updEvid

theorem pendingEvidence_keeps {s : State} (hs : Keeps q w s) : Keeps q w (pendingEvidence s) := by
  unfold pendingEvidence
  try dsimp only
  repeat' first
    | with_reducible assumption
    | intro _
    | with_reducible apply programEvidence_keeps
    | with_reducible apply occur_keeps
    | with_reducible apply setF_keeps
    | with_reducible apply Keeps.ite
    | with_reducible apply Keeps.foldl
    | split
    | with_reducible apply Keeps.upd

theorem geckoStep4_keeps {s : State} (p : PowerGood) (hs : Keeps q w s) : Keeps q w (geckoStep4 s p) := by
  unfold geckoStep4
  try dsimp only
  repeat' first
    | with_reducible assumption
    | intro _
    | refine Keeps.eqP (by with_reducible assumption) ?_
    | with_reducible apply healthFail_keeps
    | with_reducible apply serviceRefresh_keeps
    | with_reducible apply instantiate_keeps
    | with_reducible apply drbgBits_keeps
    | with_reducible apply setSrc_keeps
    | with_reducible apply occur_keeps
    | with_reducible apply setF_keeps
    | with_reducible apply Keeps.ite
    | with_reducible apply Keeps.foldl
    | with_reducible apply KeepsP.ite
    | with_reducible apply KeepsP.foldl
    | split
    | with_reducible apply Keeps.snd
    | with_reducible apply KeepsP.pair
    | with_reducible apply Keeps.upd

theorem startSealed_keeps {s : State} (n : Nat) (hs : Keeps q w s) : Keeps q w (startSealed s n) := by
  unfold startSealed
  try dsimp only
  repeat' first
    | with_reducible assumption
    | intro _
    | with_reducible apply setSciphSlot_keeps
    | with_reducible apply setF_keeps
    | with_reducible apply Keeps.ite
    | with_reducible apply Keeps.foldl
    | split
    | with_reducible apply Keeps.upd

theorem sealedStarts_keeps {s : State} (hs : Keeps q w s) : Keeps q w (sealedStarts s) := by
  unfold sealedStarts
  try dsimp only
  repeat' first
    | with_reducible assumption
    | intro _
    | refine Keeps.eqP (by with_reducible assumption) ?_
    | with_reducible apply recordIntents_keeps
    | with_reducible apply refillPool_keeps
    | with_reducible apply makeBk_keeps
    | with_reducible apply freshNonce_keeps
    | with_reducible apply drbgBytes_keeps
    | with_reducible apply Keeps.ite
    | with_reducible apply Keeps.foldl
    | with_reducible apply KeepsP.ite
    | with_reducible apply KeepsP.foldl
    | split
    | with_reducible apply Keeps.snd
    | with_reducible apply KeepsP.pair
    | with_reducible apply Keeps.upd

theorem geckoRest_keeps {s : State} (p : PowerGood) (hs : Keeps q w s) : Keeps q w (geckoRest s p) := by
  unfold geckoRest
  try dsimp only
  repeat' first
    | with_reducible assumption
    | intro _
    | with_reducible apply sealedStarts_keeps
    | with_reducible apply startSealed_keeps
    | with_reducible apply geckoStep4_keeps
    | with_reducible apply pendingEvidence_keeps
    | with_reducible apply fuseLoad_keeps
    | with_reducible apply occur_keeps
    | with_reducible apply Keeps.ite
    | with_reducible apply Keeps.foldl
    | split
    | with_reducible apply Keeps.upd

theorem geckoLeg_keeps {s : State} (p : PowerGood) (hs : Keeps q w s) : Keeps q w (geckoLeg s p) := by
  unfold geckoLeg
  try dsimp only
  repeat' first
    | with_reducible assumption
    | intro _
    | with_reducible apply geckoRest_keeps
    | with_reducible apply geckoStep2_keeps
    | with_reducible apply Keeps.ite
    | with_reducible apply Keeps.foldl
    | split

theorem mainPowerOn_keeps {s : State} (hs : Keeps q w s) : Keeps q w (mainPowerOn s) := by
  unfold mainPowerOn
  try dsimp only
  repeat' first
    | with_reducible assumption
    | intro _
    | with_reducible apply cellPowerOn_keeps
    | with_reducible apply countBoot_keeps
    | with_reducible apply noteCause_keeps
    | with_reducible apply showPins_keeps
    | with_reducible apply bump_keeps
    | with_reducible apply Keeps.ite
    | with_reducible apply Keeps.foldl
    | split
    | with_reducible apply Keeps.upd

theorem execMainPowerGood_keeps (p : PowerGood) {s : State} (hs : Keeps q w s) : KeepsR q w (execMainPowerGood p s) := by
  unfold execMainPowerGood
  try dsimp only
  repeat' first
    | with_reducible assumption
    | intro _
    | with_reducible apply mainPowerOn_keeps
    | with_reducible apply geckoLeg_keeps
    | with_reducible apply Keeps.ite
    | with_reducible apply Keeps.foldl
    | with_reducible apply KeepsR.next
    | with_reducible apply KeepsR.ite
    | split

theorem execTamperHoldEnd_keeps {s : State} (hs : Keeps q w s) : KeepsR q w (execTamperHoldEnd s) := by
  unfold execTamperHoldEnd
  try dsimp only
  repeat' first
    | with_reducible assumption
    | intro _
    | with_reducible apply geckoRest_keeps
    | with_reducible apply setF_keeps
    | with_reducible apply Keeps.ite
    | with_reducible apply Keeps.foldl
    | with_reducible apply KeepsR.next
    | with_reducible apply KeepsR.ite
    | split

theorem execDeviceReset_keeps (c : ResetCause) {s : State} (hs : Keeps q w s) : KeepsR q w (execDeviceReset c s) := by
  unfold execDeviceReset
  try dsimp only
  repeat' first
    | with_reducible assumption
    | intro _
    | with_reducible apply deviceReset_keeps
    | with_reducible apply whenGecko_keeps
    | with_reducible apply Keeps.ite
    | with_reducible apply Keeps.foldl
    | with_reducible apply KeepsR.next
    | with_reducible apply KeepsR.ite
    | split

theorem execLandauRebuild_keeps {s : State} (hs : Keeps q w s) : KeepsR q w (execLandauRebuild s) := by
  unfold execLandauRebuild
  try dsimp only
  repeat' first
    | with_reducible assumption
    | intro _
    | with_reducible apply landauRebuild_keeps
    | with_reducible apply whenGecko_keeps
    | with_reducible apply Keeps.ite
    | with_reducible apply Keeps.foldl
    | with_reducible apply KeepsR.next
    | with_reducible apply KeepsR.ite
    | split

end Sys2Proof.Machine
end

