-- ==== Sys2Proof/Laws/KeepsRetireChain.lean ====
section
/-!
SUPPORT. Laws/KeepsRetireChain.lean: what the operations of RetireChain.lean keep.
-/
namespace Sys2Proof.Machine

variable {q : List Instr} {w : FuseBits}

theorem appendRetire_keeps {s : State} (cls : Nat) (unit : Nat) (idx : Nat) (spare : Nat) (hs : Keeps q w s) : Keeps q w (appendRetire s cls unit idx spare) := by
  unfold appendRetire
  try dsimp only
  repeat' first
    | with_reducible assumption
    | intro _
    | refine Keeps.eqP (by with_reducible assumption) ?_
    | with_reducible apply spkeSign_keeps
    | with_reducible apply drawBytes_keeps
    | with_reducible apply Keeps.ite
    | with_reducible apply Keeps.foldl
    | with_reducible apply KeepsP.ite
    | with_reducible apply KeepsP.foldl
    | split
    | with_reducible apply Keeps.snd
    | with_reducible apply KeepsP.pair
    | with_reducible apply Keeps.upd

theorem retireEvent_keeps {s : State} (cls : Nat) (unit : Nat) (idx : Nat) (hs : Keeps q w s) : Keeps q w (retireEvent s cls unit idx) := by
  unfold retireEvent
  try dsimp only
  repeat' first
    | with_reducible assumption
    | intro _
    | with_reducible apply occur_keeps
    | with_reducible apply Keeps.ite
    | with_reducible apply Keeps.foldl
    | split

theorem execAmendCommit_keeps (key : BitVec 16) {s : State} (hs : Keeps q w s) : KeepsR q w (execAmendCommit key s) := by
  unfold execAmendCommit
  try dsimp only
  repeat' first
    | with_reducible assumption
    | intro _
    | with_reducible apply appendRetire_keeps
    | with_reducible apply structKeyed_keeps
    | with_reducible apply structSequence_keeps
    | with_reducible apply clearStructError_keeps
    | with_reducible apply structError_keeps
    | with_reducible apply setF_keeps
    | with_reducible apply Keeps.ite
    | with_reducible apply Keeps.foldl
    | with_reducible apply KeepsR.next
    | with_reducible apply KeepsR.ite
    | split

theorem execAmendCheckEnd_keeps {s : State} (hs : Keeps q w s) : KeepsR q w (execAmendCheckEnd s) := by
  unfold execAmendCheckEnd
  try dsimp only
  repeat' first
    | with_reducible assumption
    | intro _
    | with_reducible apply retireEvent_keeps
    | with_reducible apply amended_keeps
    | with_reducible apply structError_keeps
    | with_reducible apply setF_keeps
    | with_reducible apply Keeps.ite
    | with_reducible apply Keeps.foldl
    | with_reducible apply KeepsR.next
    | with_reducible apply KeepsR.ite
    | split

theorem execHbmcSwap_keeps (k : Fin 4) (v : W32) {s : State} (hs : Keeps q w s) : KeepsR q w (execHbmcSwap k v s) := by
  unfold execHbmcSwap
  try dsimp only
  repeat' first
    | with_reducible assumption
    | intro _
    | with_reducible apply appendRetire_keeps
    | with_reducible apply updStack_keeps
    | with_reducible apply endPattern_keeps
    | with_reducible apply whenLandau_keeps
    | with_reducible apply setF_keeps
    | with_reducible apply Keeps.ite
    | with_reducible apply Keeps.foldl
    | with_reducible apply KeepsR.next
    | with_reducible apply KeepsR.ite
    | split
    | with_reducible apply Keeps.upd

theorem execHbmcSwapDone_keeps (k : Fin 4) (unread : List Nat) {s : State} (hs : Keeps q w s) : KeepsR q w (execHbmcSwapDone k unread s) := by
  unfold execHbmcSwapDone
  try dsimp only
  repeat' first
    | with_reducible assumption
    | intro _
    | with_reducible apply retireEvent_keeps
    | with_reducible apply updStack_keeps
    | with_reducible apply poisonCount_keeps
    | with_reducible apply setF_keeps
    | with_reducible apply Keeps.ite
    | with_reducible apply Keeps.foldl
    | with_reducible apply KeepsR.next
    | with_reducible apply KeepsR.ite
    | split
    | with_reducible apply Keeps.upd

end Sys2Proof.Machine
end

