-- ==== Sys2Proof/Laws/KeepsHostLeg.lean ====
section
/-!
SUPPORT. Laws/KeepsHostLeg.lean: what the operations of HostLeg.lean keep.
-/
namespace Sys2Proof.Machine

variable {q : List Instr} {w : FuseBits}

theorem deviceRecord_keeps {s : State} (landau : Nat) (ok : Bool) (hs : Keeps q w s) : Keeps q w (deviceRecord s landau ok) := by
  unfold deviceRecord
  try dsimp only
  repeat' first
    | with_reducible assumption
    | intro _
    | with_reducible apply ledgerAppend_keeps
    | with_reducible apply writeReg_keeps
    | with_reducible apply Keeps.ite
    | with_reducible apply Keeps.foldl
    | split
    | with_reducible apply Keeps.upd

theorem completeLife_keeps {s : State} (hs : Keeps q w s) : Keeps q w (completeLife s) := by
  unfold completeLife
  try dsimp only
  repeat' first
    | with_reducible assumption
    | intro _
    | refine Keeps.eqL (by with_reducible assumption) ?_
    | with_reducible apply requestBurn_keeps
    | with_reducible apply Keeps.ite
    | with_reducible apply Keeps.foldl
    | with_reducible apply KeepsL.ite
    | with_reducible apply KeepsL.foldl
    | split
    | with_reducible apply Keeps.fst
    | with_reducible apply KeepsL.pair

theorem loadZrange_keeps {s : State} (k : Nat) (bank : Nat) (count : Nat) (hs : Keeps q w s) : Keeps q w (loadZrange s k bank count) := by
  unfold loadZrange
  try dsimp only
  repeat' first
    | with_reducible assumption
    | intro _
    | refine Keeps.eqP (by with_reducible assumption) ?_
    | with_reducible apply draw_keeps
    | with_reducible apply setF_keeps
    | with_reducible apply Keeps.ite
    | with_reducible apply Keeps.foldl
    | with_reducible apply KeepsP.ite
    | with_reducible apply KeepsP.foldl
    | split
    | with_reducible apply Keeps.snd
    | with_reducible apply KeepsP.pair

theorem loadZranges_keeps {s : State} (hs : Keeps q w s) : Keeps q w (loadZranges s) := by
  unfold loadZranges
  try dsimp only
  repeat' first
    | with_reducible assumption
    | intro _
    | refine Keeps.eqP (by with_reducible assumption) ?_
    | with_reducible apply loadZrange_keeps
    | with_reducible apply draw_keeps
    | with_reducible apply setF_keeps
    | with_reducible apply Keeps.ite
    | with_reducible apply Keeps.foldl
    | with_reducible apply KeepsP.ite
    | with_reducible apply KeepsP.foldl
    | split
    | with_reducible apply Keeps.snd
    | with_reducible apply KeepsP.pair

theorem finishZall_keeps {s : State} (hs : Keeps q w s) : Keeps q w (finishZall s) := by
  unfold finishZall
  try dsimp only
  repeat' first
    | with_reducible assumption
    | intro _
    | with_reducible apply zdone_keeps
    | with_reducible apply eraseRanges_keeps
    | with_reducible apply Keeps.ite
    | with_reducible apply Keeps.foldl
    | split

theorem hostLegStart_keeps {s : State} (hs : Keeps q w s) : Keeps q w (hostLegStart s) := by
  unfold hostLegStart
  try dsimp only
  repeat' first
    | with_reducible assumption
    | intro _
    | with_reducible apply finishZall_keeps
    | with_reducible apply loadZranges_keeps
    | with_reducible apply completeLife_keeps
    | with_reducible apply ledgerScan_keeps
    | with_reducible apply issueCerts_keeps
    | with_reducible apply Keeps.ite
    | with_reducible apply Keeps.foldl
    | split

theorem applyGeckoFence_keeps {s : State} (b : Bytes) (hs : Keeps q w s) : Keeps q w (applyGeckoFence s b) := by
  unfold applyGeckoFence
  try dsimp only
  repeat' first
    | with_reducible assumption
    | intro _
    | with_reducible apply fillWords_keeps
    | with_reducible apply setF_keeps
    | with_reducible apply Keeps.ite
    | with_reducible apply Keeps.foldl
    | split

theorem applyGeckoArb_keeps {s : State} (b : Bytes) (hs : Keeps q w s) : Keeps q w (applyGeckoArb s b) := by
  unfold applyGeckoArb
  try dsimp only
  repeat' first
    | with_reducible assumption
    | intro _
    | with_reducible apply fillWords_keeps
    | with_reducible apply setF_keeps
    | with_reducible apply Keeps.ite
    | with_reducible apply Keeps.foldl
    | split

theorem applyGecko_keeps {s : State} (img : Bytes) (hs : Keeps q w s) : Keeps q w (applyGecko s img) := by
  unfold applyGecko
  try dsimp only
  repeat' first
    | with_reducible assumption
    | intro _
    | with_reducible apply applyGeckoArb_keeps
    | with_reducible apply applyGeckoFence_keeps
    | with_reducible apply splitCores_keeps
    | with_reducible apply serviceRefresh_keeps
    | with_reducible apply loadGeckoParams_keeps
    | with_reducible apply setF_keeps
    | with_reducible apply Keeps.ite
    | with_reducible apply Keeps.foldl
    | split

theorem startMeasure_keeps {s : State} (img : Bytes) (h_ : HostLegIn) (hs : Keeps q w s) : Keeps q w (startMeasure s img h_) := by
  unfold startMeasure
  try dsimp only
  repeat' first
    | with_reducible assumption
    | intro _
    | with_reducible apply startPass_keeps
    | with_reducible apply loadMap_keeps
    | with_reducible apply setF_keeps
    | with_reducible apply Keeps.ite
    | with_reducible apply Keeps.foldl
    | split
    | with_reducible apply Keeps.upd

theorem noImage_keeps {s : State} (ok : Bool) (hs : Keeps q w s) : Keeps q w (noImage s ok) := by
  unfold noImage
  try dsimp only
  repeat' first
    | with_reducible assumption
    | intro _
    | with_reducible apply deviceRecord_keeps
    | with_reducible apply setHold_keeps
    | with_reducible apply Keeps.ite
    | with_reducible apply Keeps.foldl
    | split
    | with_reducible apply Keeps.upd

theorem pickImage_keeps {s : State} (h_ : HostLegIn) (hs : Keeps q w s) : Keeps q w (pickImage s h_) := by
  unfold pickImage
  try dsimp only
  repeat' first
    | with_reducible assumption
    | intro _
    | with_reducible apply chooseSlot_keeps
    | with_reducible apply Keeps.ite
    | with_reducible apply Keeps.foldl
    | split
    | with_reducible apply Keeps.upd

theorem execHostLeg_keeps (h_ : HostLegIn) {s : State} (hs : Keeps q w s) : KeepsR q w (execHostLeg h_ s) := by
  unfold execHostLeg
  try dsimp only
  repeat' first
    | with_reducible assumption
    | intro _
    | with_reducible apply pickImage_keeps
    | with_reducible apply noImage_keeps
    | with_reducible apply startMeasure_keeps
    | with_reducible apply applyGecko_keeps
    | with_reducible apply hostLegStart_keeps
    | with_reducible apply setHold_keeps
    | with_reducible apply whenGecko_keeps
    | with_reducible apply Keeps.ite
    | with_reducible apply Keeps.foldl
    | with_reducible apply KeepsR.next
    | with_reducible apply KeepsR.ite
    | split
    | with_reducible apply Keeps.upd

end Sys2Proof.Machine
end

