-- ==== Sys2Proof/Laws/KeepsQmCmds.lean ====
section
/-!
SUPPORT. Laws/KeepsQmCmds.lean: what the operations of QmCmds.lean keep.
-/
namespace Sys2Proof.Machine

variable {q : List Instr} {w : FuseBits}

theorem badDoorbell_keeps {s : State} (fn : Nat) (qid : Nat) (v : Nat) (cq : Bool) (hs : Keeps q w s) : Keeps q w (badDoorbell s fn qid v cq) := by
  unfold badDoorbell
  try dsimp only
  repeat' first
    | with_reducible assumption
    | intro _
    | with_reducible apply signal_keeps
    | with_reducible apply setB_keeps
    | with_reducible apply setF_keeps
    | with_reducible apply Keeps.ite
    | with_reducible apply Keeps.foldl
    | split

theorem execSqTailDoorbell_keeps (fn : Nat) (qid : Nat) (p : DoorbellWr) {s : State} (hs : Keeps q w s) : KeepsR q w (execSqTailDoorbell fn qid p s) := by
  obtain ⟨v, ide⟩ := p
  unfold execSqTailDoorbell
  try dsimp only
  repeat' first
    | with_reducible assumption
    | intro _
    | with_reducible apply badDoorbell_keeps
    | with_reducible apply updPair_keeps
    | with_reducible apply Keeps.ite
    | with_reducible apply Keeps.foldl
    | with_reducible apply KeepsR.next
    | with_reducible apply KeepsR.ite
    | split
    | with_reducible apply Keeps.upd

theorem execCqHeadDoorbell_keeps (fn : Nat) (qid : Nat) (p : DoorbellWr) {s : State} (hs : Keeps q w s) : KeepsR q w (execCqHeadDoorbell fn qid p s) := by
  obtain ⟨v, ide⟩ := p
  unfold execCqHeadDoorbell
  try dsimp only
  repeat' first
    | with_reducible assumption
    | intro _
    | with_reducible apply badDoorbell_keeps
    | with_reducible apply updPair_keeps
    | with_reducible apply Keeps.ite
    | with_reducible apply Keeps.foldl
    | with_reducible apply KeepsR.next
    | with_reducible apply KeepsR.ite
    | split
    | with_reducible apply Keeps.upd

theorem noteFetch_keeps {s : State} (fn : Nat) (qid : Nat) (hs : Keeps q w s) : Keeps q w (noteFetch s fn qid) := by
  unfold noteFetch
  try dsimp only
  repeat' first
    | with_reducible assumption
    | intro _
    | with_reducible apply Keeps.ite
    | with_reducible apply Keeps.foldl
    | split
    | with_reducible apply Keeps.upd

theorem addTag_keeps {s : State} (t : TagEntry) (hs : Keeps q w s) : Keeps q w (addTag s t) := by
  unfold addTag
  try dsimp only
  repeat' first
    | with_reducible assumption
    | intro _
    | with_reducible apply qmRefresh_keeps
    | with_reducible apply Keeps.ite
    | with_reducible apply Keeps.foldl
    | split
    | with_reducible apply Keeps.upd

theorem windowCheck_keeps {s : State} (t : TagEntry) (hs : Keeps q w s) : Keeps q w (windowCheck s t) := by
  unfold windowCheck
  try dsimp only
  repeat' first
    | with_reducible assumption
    | intro _
    | with_reducible apply addTag_keeps
    | with_reducible apply winRemove_keeps
    | with_reducible apply winAdd_keeps
    | with_reducible apply bump_keeps
    | with_reducible apply Keeps.ite
    | with_reducible apply Keeps.foldl
    | split
    | with_reducible apply Keeps.upd

theorem execSqEntryFetch_keeps (fn : Nat) (qid : Nat) (tag : Nat) (entry : Option Bytes) {s : State} (hs : Keeps q w s) : KeepsR q w (execSqEntryFetch fn qid tag entry s) := by
  unfold execSqEntryFetch
  try dsimp only
  repeat' first
    | with_reducible assumption
    | intro _
    | with_reducible apply windowCheck_keeps
    | with_reducible apply addTag_keeps
    | with_reducible apply noteFetch_keeps
    | with_reducible apply funcError_keeps
    | with_reducible apply updPair_keeps
    | with_reducible apply Keeps.ite
    | with_reducible apply Keeps.foldl
    | with_reducible apply KeepsR.next
    | with_reducible apply KeepsR.ite
    | split
    | with_reducible apply Keeps.upd

theorem dupAsNew_keeps {s : State} (t : TagEntry) (hs : Keeps q w s) : Keeps q w (dupAsNew s t) := by
  unfold dupAsNew
  try dsimp only
  repeat' first
    | with_reducible assumption
    | intro _
    | with_reducible apply winAdd_keeps
    | with_reducible apply updTag_keeps
    | with_reducible apply Keeps.ite
    | with_reducible apply Keeps.foldl
    | split
    | with_reducible apply Keeps.upd

theorem handOver_keeps {s : State} (t : TagEntry) (core : Nat) (hs : Keeps q w s) : Keeps q w (handOver s t core) := by
  unfold handOver
  try dsimp only
  repeat' first
    | with_reducible assumption
    | intro _
    | with_reducible apply failTag_keeps
    | with_reducible apply updTag_keeps
    | with_reducible apply raiseDisp_keeps
    | with_reducible apply Keeps.ite
    | with_reducible apply Keeps.foldl
    | split
    | with_reducible apply Keeps.upd

theorem execCommandHandoff_keeps (tag : Nat) (core : Nat) {s : State} (hs : Keeps q w s) : KeepsR q w (execCommandHandoff tag core s) := by
  unfold execCommandHandoff
  try dsimp only
  repeat' first
    | with_reducible assumption
    | intro _
    | with_reducible apply handOver_keeps
    | with_reducible apply dupAsNew_keeps
    | with_reducible apply Keeps.ite
    | with_reducible apply Keeps.foldl
    | with_reducible apply KeepsR.next
    | with_reducible apply KeepsR.ite
    | split
    | with_reducible apply Keeps.upd

theorem coalesce_keeps {s : State} (p : QueuePair) (hs : Keeps q w s) : Keeps q w (coalesce s p) := by
  unfold coalesce
  try dsimp only
  repeat' first
    | with_reducible assumption
    | intro _
    | with_reducible apply signal_keeps
    | with_reducible apply updPair_keeps
    | with_reducible apply Keeps.ite
    | with_reducible apply Keeps.foldl
    | split
    | with_reducible apply Keeps.upd

theorem postEntry_keeps {s : State} (t : TagEntry) (o : Outcome) (p : QueuePair) (hs : Keeps q w s) : Keeps q w (postEntry s t o p) := by
  unfold postEntry
  try dsimp only
  repeat' first
    | with_reducible assumption
    | intro _
    | with_reducible apply coalesce_keeps
    | with_reducible apply updPair_keeps
    | with_reducible apply Keeps.ite
    | with_reducible apply Keeps.foldl
    | split
    | with_reducible apply Keeps.upd

theorem afterPost_keeps {s : State} (t : TagEntry) (o : Outcome) (hs : Keeps q w s) : Keeps q w (afterPost s t o) := by
  unfold afterPost
  try dsimp only
  repeat' first
    | with_reducible assumption
    | intro _
    | with_reducible apply decideDups_keeps
    | with_reducible apply freeTag_keeps
    | with_reducible apply bump_keeps
    | with_reducible apply Keeps.ite
    | with_reducible apply Keeps.foldl
    | split

theorem rowCompletionPost_keeps (tag : Nat) (writeOk : Bool) {s : State} (hs : Keeps q w s) : KeepsR q w (rowCompletionPost tag writeOk s) := by
  unfold rowCompletionPost
  try dsimp only
  repeat' first
    | with_reducible assumption
    | intro _
    | with_reducible apply afterPost_keeps
    | with_reducible apply postEntry_keeps
    | with_reducible apply funcError_keeps
    | with_reducible apply Keeps.ite
    | with_reducible apply Keeps.foldl
    | with_reducible apply KeepsR.next
    | with_reducible apply KeepsR.ite
    | split

theorem execInterruptCoalesceTimer_keeps (fn : Nat) (qid : Nat) {s : State} (hs : Keeps q w s) : KeepsR q w (execInterruptCoalesceTimer fn qid s) := by
  unfold execInterruptCoalesceTimer
  try dsimp only
  repeat' first
    | with_reducible assumption
    | intro _
    | with_reducible apply signal_keeps
    | with_reducible apply updPair_keeps
    | with_reducible apply Keeps.ite
    | with_reducible apply Keeps.foldl
    | with_reducible apply KeepsR.next
    | with_reducible apply KeepsR.ite
    | split
    | with_reducible apply Keeps.upd

theorem execAdminEnable_keeps (p : AdminWr) {s : State} (hs : Keeps q w s) : KeepsR q w (execAdminEnable p s) := by
  obtain ⟨fn, ide⟩ := p
  unfold execAdminEnable
  try dsimp only
  repeat' first
    | with_reducible assumption
    | intro _
    | with_reducible apply setF_keeps
    | with_reducible apply Keeps.ite
    | with_reducible apply Keeps.foldl
    | with_reducible apply KeepsR.next
    | with_reducible apply KeepsR.ite
    | split

theorem execAdminReady_keeps (fn : Nat) {s : State} (hs : Keeps q w s) : KeepsR q w (execAdminReady fn s) := by
  unfold execAdminReady
  try dsimp only
  repeat' first
    | with_reducible assumption
    | intro _
    | with_reducible apply setF_keeps
    | with_reducible apply Keeps.ite
    | with_reducible apply Keeps.foldl
    | with_reducible apply KeepsR.next
    | with_reducible apply KeepsR.ite
    | split
    | with_reducible apply Keeps.upd

theorem clearFuncErr_keeps {s : State} (fn : Nat) (hs : Keeps q w s) : Keeps q w (clearFuncErr s fn) := by
  unfold clearFuncErr
  try dsimp only
  repeat' first
    | with_reducible assumption
    | intro _
    | with_reducible apply setF_keeps
    | with_reducible apply Keeps.ite
    | with_reducible apply Keeps.foldl
    | split

theorem rowAdminDisable_keeps (fn : Nat) (ide : Bool) {s : State} (hs : Keeps q w s) : KeepsR q w (rowAdminDisable fn ide s) := by
  unfold rowAdminDisable
  try dsimp only
  repeat' first
    | with_reducible assumption
    | intro _
    | with_reducible apply clearFuncErr_keeps
    | with_reducible apply dropFunction_keeps
    | with_reducible apply setF_keeps
    | with_reducible apply Keeps.ite
    | with_reducible apply Keeps.foldl
    | with_reducible apply KeepsR.next
    | with_reducible apply KeepsR.ite
    | split
    | with_reducible apply Keeps.upd

theorem adminDone_keeps {s : State} (t : TagEntry) (o : Outcome) (hs : Keeps q w s) : Keeps q w (adminDone s t o) := by
  unfold adminDone
  try dsimp only
  repeat' first
    | with_reducible assumption
    | intro _
    | with_reducible apply updTag_keeps
    | with_reducible apply Keeps.ite
    | with_reducible apply Keeps.foldl
    | split
    | with_reducible apply Keeps.upd

theorem serveAdmin_keeps {s : State} (tag : Nat) (op : Nat) (f : TagEntry → Outcome) (hs : Keeps q w s) : Keeps q w (serveAdmin s tag op f) := by
  unfold serveAdmin
  try dsimp only
  repeat' first
    | with_reducible assumption
    | intro _
    | with_reducible apply adminDone_keeps
    | with_reducible apply Keeps.ite
    | with_reducible apply Keeps.foldl
    | split

theorem execIdentify_keeps (p : TagOut) {s : State} (hs : Keeps q w s) : KeepsR q w (execIdentify p s) := by
  unfold execIdentify
  try dsimp only
  repeat' first
    | with_reducible assumption
    | intro _
    | with_reducible apply serveAdmin_keeps
    | with_reducible apply Keeps.ite
    | with_reducible apply Keeps.foldl
    | with_reducible apply KeepsR.next
    | with_reducible apply KeepsR.ite
    | split

theorem execGetStatus_keeps (p : TagOut) {s : State} (hs : Keeps q w s) : KeepsR q w (execGetStatus p s) := by
  unfold execGetStatus
  try dsimp only
  repeat' first
    | with_reducible assumption
    | intro _
    | with_reducible apply serveAdmin_keeps
    | with_reducible apply Keeps.ite
    | with_reducible apply Keeps.foldl
    | with_reducible apply KeepsR.next
    | with_reducible apply KeepsR.ite
    | split

theorem execCreateQp_keeps (tag : Nat) {s : State} (hs : Keeps q w s) : KeepsR q w (execCreateQp tag s) := by
  unfold execCreateQp
  try dsimp only
  repeat' first
    | with_reducible assumption
    | intro _
    | with_reducible apply adminDone_keeps
    | with_reducible apply Keeps.ite
    | with_reducible apply Keeps.foldl
    | with_reducible apply KeepsR.next
    | with_reducible apply KeepsR.ite
    | split
    | with_reducible apply Keeps.upd

theorem execDeleteQp_keeps (tag : Nat) {s : State} (hs : Keeps q w s) : KeepsR q w (execDeleteQp tag s) := by
  unfold execDeleteQp
  try dsimp only
  repeat' first
    | with_reducible assumption
    | intro _
    | with_reducible apply adminDone_keeps
    | with_reducible apply updPair_keeps
    | with_reducible apply updTag_keeps
    | with_reducible apply Keeps.ite
    | with_reducible apply Keeps.foldl
    | with_reducible apply KeepsR.next
    | with_reducible apply KeepsR.ite
    | split
    | with_reducible apply Keeps.upd

theorem execDeleteQpComplete_keeps (tag : Nat) {s : State} (hs : Keeps q w s) : KeepsR q w (execDeleteQpComplete tag s) := by
  unfold execDeleteQpComplete
  try dsimp only
  repeat' first
    | with_reducible assumption
    | intro _
    | with_reducible apply updTag_keeps
    | with_reducible apply Keeps.ite
    | with_reducible apply Keeps.foldl
    | with_reducible apply KeepsR.next
    | with_reducible apply KeepsR.ite
    | split
    | with_reducible apply Keeps.upd

theorem applyAborted_keeps {s : State} (x : TagEntry) (hs : Keeps q w s) : Keeps q w (applyAborted s x) := by
  unfold applyAborted
  try dsimp only
  repeat' first
    | with_reducible assumption
    | intro _
    | with_reducible apply winRemove_keeps
    | with_reducible apply updTag_keeps
    | with_reducible apply bump_keeps
    | with_reducible apply Keeps.ite
    | with_reducible apply Keeps.foldl
    | split
    | with_reducible apply Keeps.upd

theorem abortEnds_keeps {s : State} (t : TagEntry) (o : Outcome) (hs : Keeps q w s) : Keeps q w (abortEnds s t o) := by
  unfold abortEnds
  try dsimp only
  repeat' first
    | with_reducible assumption
    | intro _
    | with_reducible apply winDone_keeps
    | with_reducible apply updTag_keeps
    | with_reducible apply Keeps.ite
    | with_reducible apply Keeps.foldl
    | split
    | with_reducible apply Keeps.upd

theorem abortEnters_keeps {s : State} (t : TagEntry) (hs : Keeps q w s) : Keeps q w (abortEnters s t) := by
  unfold abortEnters
  try dsimp only
  repeat' first
    | with_reducible assumption
    | intro _
    | with_reducible apply dupAsNew_keeps
    | with_reducible apply Keeps.ite
    | with_reducible apply Keeps.foldl
    | split

theorem abortDecides_keeps {s : State} (t : TagEntry) (d : Nat) (target : Nat) (hs : Keeps q w s) : Keeps q w (abortDecides s t d target) := by
  unfold abortDecides
  try dsimp only
  repeat' first
    | with_reducible assumption
    | intro _
    | with_reducible apply abortEnds_keeps
    | with_reducible apply applyAborted_keeps
    | with_reducible apply winAdd_keeps
    | with_reducible apply Keeps.ite
    | with_reducible apply Keeps.foldl
    | split

theorem execAbort_keeps (tag : Nat) {s : State} (hs : Keeps q w s) : KeepsR q w (execAbort tag s) := by
  unfold execAbort
  try dsimp only
  repeat' first
    | with_reducible assumption
    | intro _
    | with_reducible apply abortDecides_keeps
    | with_reducible apply abortEnters_keeps
    | with_reducible apply failTag_keeps
    | with_reducible apply Keeps.ite
    | with_reducible apply Keeps.foldl
    | with_reducible apply KeepsR.next
    | with_reducible apply KeepsR.ite
    | split
    | with_reducible apply Keeps.upd

theorem clearVfs_keeps {s : State} (hs : Keeps q w s) : Keeps q w (clearVfs s) := by
  unfold clearVfs
  try dsimp only
  repeat' first
    | with_reducible assumption
    | intro _
    | with_reducible apply flr_keeps
    | with_reducible apply Keeps.ite
    | with_reducible apply Keeps.foldl
    | split
    | with_reducible apply Keeps.upd

theorem rowFunctionLevelReset_keeps (fn : Nat) {s : State} (hs : Keeps q w s) : KeepsR q w (rowFunctionLevelReset fn s) := by
  unfold rowFunctionLevelReset
  try dsimp only
  repeat' first
    | with_reducible assumption
    | intro _
    | with_reducible apply clearVfs_keeps
    | with_reducible apply endPattern_keeps
    | with_reducible apply flr_keeps
    | with_reducible apply Keeps.ite
    | with_reducible apply Keeps.foldl
    | with_reducible apply KeepsR.next
    | with_reducible apply KeepsR.ite
    | split

theorem rowVfEnableClear_keeps {s : State} (hs : Keeps q w s) : KeepsR q w (rowVfEnableClear s) := by
  unfold rowVfEnableClear
  try dsimp only
  repeat' first
    | with_reducible assumption
    | intro _
    | with_reducible apply clearVfs_keeps
    | with_reducible apply Keeps.ite
    | with_reducible apply Keeps.foldl
    | with_reducible apply KeepsR.next
    | with_reducible apply KeepsR.ite
    | split

theorem rowBusMasterEnableClear_keeps (fn : Nat) {s : State} (hs : Keeps q w s) : KeepsR q w (rowBusMasterEnableClear fn s) := by
  unfold rowBusMasterEnableClear
  try dsimp only
  repeat' first
    | with_reducible assumption
    | intro _
    | with_reducible apply dropFunction_keeps
    | with_reducible apply setF_keeps
    | with_reducible apply Keeps.ite
    | with_reducible apply Keeps.foldl
    | with_reducible apply KeepsR.next
    | with_reducible apply KeepsR.ite
    | split
    | with_reducible apply Keeps.upd

theorem resetPciec_keeps {s : State} (hs : Keeps q w s) : Keeps q w (resetPciec s) := by
  unfold resetPciec
  try dsimp only
  repeat' first
    | with_reducible assumption
    | intro _
    | with_reducible apply resetRegs_keeps
    | with_reducible apply setF_keeps
    | with_reducible apply Keeps.ite
    | with_reducible apply Keeps.foldl
    | split
    | with_reducible apply Keeps.upd

theorem fundamentalReset_keeps {s : State} (hs : Keeps q w s) : Keeps q w (fundamentalReset s) := by
  unfold fundamentalReset
  try dsimp only
  repeat' first
    | with_reducible assumption
    | intro _
    | with_reducible apply resetPciec_keeps
    | with_reducible apply endPattern_keeps
    | with_reducible apply dropAllFunctions_keeps
    | with_reducible apply Keeps.ite
    | with_reducible apply Keeps.foldl
    | split
    | with_reducible apply Keeps.upd

theorem rowPcieFundamentalReset_keeps {s : State} (hs : Keeps q w s) : KeepsR q w (rowPcieFundamentalReset s) := by
  unfold rowPcieFundamentalReset
  try dsimp only
  repeat' first
    | with_reducible assumption
    | intro _
    | with_reducible apply fundamentalReset_keeps
    | with_reducible apply setF_keeps
    | with_reducible apply Keeps.ite
    | with_reducible apply Keeps.foldl
    | with_reducible apply KeepsR.next
    | with_reducible apply KeepsR.ite
    | split
    | with_reducible apply Keeps.upd

theorem execPePerstNRise_keeps {s : State} (hs : Keeps q w s) : KeepsR q w (execPePerstNRise s) := by
  unfold execPePerstNRise
  try dsimp only
  repeat' first
    | with_reducible assumption
    | intro _
    | with_reducible apply Keeps.ite
    | with_reducible apply Keeps.foldl
    | with_reducible apply KeepsR.next
    | with_reducible apply KeepsR.ite
    | split
    | with_reducible apply Keeps.upd

theorem execLinkTrained_keeps (width : Nat) (speed : Nat) (ltssm : Nat) {s : State} (hs : Keeps q w s) : KeepsR q w (execLinkTrained width speed ltssm s) := by
  unfold execLinkTrained
  try dsimp only
  repeat' first
    | with_reducible assumption
    | intro _
    | with_reducible apply setF_keeps
    | with_reducible apply Keeps.ite
    | with_reducible apply Keeps.foldl
    | with_reducible apply KeepsR.next
    | with_reducible apply KeepsR.ite
    | split
    | with_reducible apply Keeps.upd

theorem execIdeTlpFailure_keeps {s : State} (hs : Keeps q w s) : KeepsR q w (execIdeTlpFailure s) := by
  unfold execIdeTlpFailure
  try dsimp only
  repeat' first
    | with_reducible assumption
    | intro _
    | with_reducible apply bump_keeps
    | with_reducible apply setF_keeps
    | with_reducible apply Keeps.ite
    | with_reducible apply Keeps.foldl
    | with_reducible apply KeepsR.next
    | with_reducible apply KeepsR.ite
    | split
    | with_reducible apply Keeps.upd

end Sys2Proof.Machine
end

