-- ==== Sys2Proof/Laws/KeepsLifecycle.lean ====
section
/-!
SUPPORT. Laws/KeepsLifecycle.lean: what the operations of Lifecycle.lean keep.
-/
namespace Sys2Proof.Machine

variable {q : List Instr} {w : FuseBits}

theorem acceptLife_keeps {s : State} (tag : Nat) (target : Nat) (quorum : Nat) (b : Bytes) (ok : Bool) (hs : Keeps q w s) : KeepsO q w (acceptLife s tag target quorum b ok) := by
  unfold acceptLife
  try dsimp only
  repeat' first
    | with_reducible assumption
    | intro _
    | refine Keeps.eqO (by with_reducible assumption) ?_
    | with_reducible apply ledgerAppend_keeps
    | with_reducible apply Keeps.ite
    | with_reducible apply Keeps.foldl
    | with_reducible apply KeepsO.some
    | with_reducible apply KeepsO.none
    | with_reducible apply KeepsO.ite
    | split
    | with_reducible apply Keeps.upd

theorem burnHash_keeps {s : State} (target : Nat) (h_ : Hash) (hs : Keeps q w s) : Keeps q w (burnHash s target h_) := by
  unfold burnHash
  try dsimp only
  repeat' first
    | with_reducible assumption
    | intro _
    | refine Keeps.eqL (by with_reducible assumption) ?_
    | with_reducible apply requestBurn_keeps
    | with_reducible apply Keeps.ite
    | with_reducible apply Keeps.foldl
    | with_reducible apply KeepsL.ite
    | with_reducible apply KeepsL.foldl
    | split
    | with_reducible apply Keeps.fst
    | with_reducible apply KeepsL.pair

theorem burnPair_keeps {s : State} (p : Nat) (hs : Keeps q w s) : Keeps q w (burnPair s p) := by
  unfold burnPair
  try dsimp only
  repeat' first
    | with_reducible assumption
    | intro _
    | refine Keeps.eqL (by with_reducible assumption) ?_
    | with_reducible apply requestBurn_keeps
    | with_reducible apply Keeps.ite
    | with_reducible apply Keeps.foldl
    | with_reducible apply KeepsL.ite
    | with_reducible apply KeepsL.foldl
    | split
    | with_reducible apply Keeps.fst
    | with_reducible apply KeepsL.pair

theorem newOwner_keeps {s : State} (a : LifeAct) (hs : Keeps q w s) : Keeps q w (newOwner s a) := by
  unfold newOwner
  try dsimp only
  repeat' first
    | with_reducible assumption
    | intro _
    | with_reducible apply Keeps.ite
    | with_reducible apply Keeps.foldl
    | split
    | with_reducible apply Keeps.upd

theorem lifeFuses_keeps {s : State} (a : LifeAct) (hs : Keeps q w s) : Keeps q w (lifeFuses s a) := by
  unfold lifeFuses
  try dsimp only
  repeat' first
    | with_reducible assumption
    | intro _
    | with_reducible apply newOwner_keeps
    | with_reducible apply burnPair_keeps
    | with_reducible apply burnHash_keeps
    | with_reducible apply Keeps.ite
    | with_reducible apply Keeps.foldl
    | split

theorem lifeFinish_keeps {s : State} (a : LifeAct) (hs : Keeps q w s) : Keeps q w (lifeFinish s a) := by
  unfold lifeFinish
  try dsimp only
  repeat' first
    | with_reducible assumption
    | intro _
    | with_reducible apply lifeFuses_keeps
    | with_reducible apply deviceReset_keeps
    | with_reducible apply Keeps.ite
    | with_reducible apply Keeps.foldl
    | split
    | with_reducible apply Keeps.upd

theorem lifeDue_keeps {s : State} (hs : Keeps q w s) : Keeps q w (lifeDue s) := by
  unfold lifeDue
  try dsimp only
  repeat' first
    | with_reducible assumption
    | intro _
    | with_reducible apply lifeFinish_keeps
    | with_reducible apply zdone_keeps
    | with_reducible apply requestZall_keeps
    | with_reducible apply eraseRanges_keeps
    | with_reducible apply Keeps.ite
    | with_reducible apply Keeps.foldl
    | split

theorem execZeroiseAllComplete_keeps {s : State} (hs : Keeps q w s) : KeepsR q w (execZeroiseAllComplete s) := by
  unfold execZeroiseAllComplete
  try dsimp only
  repeat' first
    | with_reducible assumption
    | intro _
    | with_reducible apply lifeFinish_keeps
    | with_reducible apply deviceReset_keeps
    | with_reducible apply zeroiseAllEnd_keeps
    | with_reducible apply whenGecko_keeps
    | with_reducible apply Keeps.ite
    | with_reducible apply Keeps.foldl
    | with_reducible apply KeepsR.next
    | with_reducible apply KeepsR.ite
    | split
    | with_reducible apply Keeps.upd

theorem goLifecycle_keeps (r : Run) {s : State} (t : TagEntry) (hs : Keeps q w s) : Keeps q w (goLifecycle r s t) := by
  unfold goLifecycle
  try dsimp only
  repeat' first
    | with_reducible assumption
    | intro _
    | refine Keeps.eqP (by with_reducible assumption) ?_
    | with_reducible apply startOn_keeps
    | with_reducible apply withQuorum_keeps
    | with_reducible apply Keeps.ite
    | with_reducible apply Keeps.foldl
    | with_reducible apply KeepsP.ite
    | with_reducible apply KeepsP.foldl
    | split
    | with_reducible apply Keeps.snd
    | with_reducible apply KeepsP.pair

theorem execLifecycle_keeps (r : Run) {s : State} (hs : Keeps q w s) : KeepsR q w (execLifecycle r s) := by
  unfold execLifecycle
  try dsimp only
  repeat' first
    | with_reducible assumption
    | intro _
    | with_reducible apply goLifecycle_keeps
    | with_reducible apply checked_keeps
    | with_reducible apply Keeps.ite
    | with_reducible apply Keeps.foldl
    | with_reducible apply KeepsR.next
    | with_reducible apply KeepsR.ite
    | split

theorem effLifecycle_keeps {s : State} (tag : Nat) (target : Nat) (quorum : Nat) (b : Bytes) (ok : Bool) (out : Outcome) (hs : Keeps q w s) : KeepsL q w (effLifecycle s tag target quorum b ok out) := by
  unfold effLifecycle
  try dsimp only
  repeat' first
    | with_reducible assumption
    | intro _
    | refine Keeps.eqL (by with_reducible assumption) ?_
    | refine Keeps.eqO (by with_reducible assumption) ?_
    | with_reducible apply acceptLife_keeps
    | with_reducible apply Keeps.ite
    | with_reducible apply Keeps.foldl
    | with_reducible apply KeepsO.some
    | with_reducible apply KeepsO.none
    | with_reducible apply KeepsO.ite
    | with_reducible apply KeepsL.ite
    | with_reducible apply KeepsL.foldl
    | split
    | with_reducible apply Keeps.fst
    | with_reducible apply KeepsL.pair

theorem thenLife_keeps {r : Res} (hr : KeepsR q w r) : KeepsR q w (thenLife r) := by
  cases r with
  | next s => exact KeepsR.next (lifeDue_keeps (hr.out s rfl))
  | fault f => exact KeepsR.fault f
  | refused x => exact KeepsR.refused x

theorem execCompletionPost_keeps (tag : Nat) (writeOk : Bool) {s : State} (hs : Keeps q w s) : KeepsR q w (execCompletionPost tag writeOk s) := by
  unfold execCompletionPost
  try dsimp only
  repeat' first
    | with_reducible assumption
    | intro _
    | with_reducible apply thenLife_keeps
    | with_reducible apply rowCompletionPost_keeps
    | with_reducible apply Keeps.ite
    | with_reducible apply Keeps.foldl
    | with_reducible apply KeepsR.next
    | with_reducible apply KeepsR.ite
    | split

theorem execFunctionLevelReset_keeps (fn : Nat) {s : State} (hs : Keeps q w s) : KeepsR q w (execFunctionLevelReset fn s) := by
  unfold execFunctionLevelReset
  try dsimp only
  repeat' first
    | with_reducible assumption
    | intro _
    | with_reducible apply thenLife_keeps
    | with_reducible apply rowFunctionLevelReset_keeps
    | with_reducible apply Keeps.ite
    | with_reducible apply Keeps.foldl
    | with_reducible apply KeepsR.next
    | with_reducible apply KeepsR.ite
    | split

theorem execVfEnableClear_keeps {s : State} (hs : Keeps q w s) : KeepsR q w (execVfEnableClear s) := by
  unfold execVfEnableClear
  try dsimp only
  repeat' first
    | with_reducible assumption
    | intro _
    | with_reducible apply thenLife_keeps
    | with_reducible apply rowVfEnableClear_keeps
    | with_reducible apply Keeps.ite
    | with_reducible apply Keeps.foldl
    | with_reducible apply KeepsR.next
    | with_reducible apply KeepsR.ite
    | split

theorem execBusMasterEnableClear_keeps (fn : Nat) {s : State} (hs : Keeps q w s) : KeepsR q w (execBusMasterEnableClear fn s) := by
  unfold execBusMasterEnableClear
  try dsimp only
  repeat' first
    | with_reducible assumption
    | intro _
    | with_reducible apply thenLife_keeps
    | with_reducible apply rowBusMasterEnableClear_keeps
    | with_reducible apply Keeps.ite
    | with_reducible apply Keeps.foldl
    | with_reducible apply KeepsR.next
    | with_reducible apply KeepsR.ite
    | split

theorem execAdminDisable_keeps (p : AdminWr) {s : State} (hs : Keeps q w s) : KeepsR q w (execAdminDisable p s) := by
  unfold execAdminDisable
  try dsimp only
  repeat' first
    | with_reducible assumption
    | intro _
    | with_reducible apply thenLife_keeps
    | with_reducible apply rowAdminDisable_keeps
    | with_reducible apply Keeps.ite
    | with_reducible apply Keeps.foldl
    | with_reducible apply KeepsR.next
    | with_reducible apply KeepsR.ite
    | split

theorem execPcieFundamentalReset_keeps {s : State} (hs : Keeps q w s) : KeepsR q w (execPcieFundamentalReset s) := by
  unfold execPcieFundamentalReset
  try dsimp only
  repeat' first
    | with_reducible assumption
    | intro _
    | with_reducible apply thenLife_keeps
    | with_reducible apply rowPcieFundamentalReset_keeps
    | with_reducible apply Keeps.ite
    | with_reducible apply Keeps.foldl
    | with_reducible apply KeepsR.next
    | with_reducible apply KeepsR.ite
    | split

end Sys2Proof.Machine
end

