-- ==== Sys2Proof/Laws/KeepsPatternTest.lean ====
section
/-!
SUPPORT. Laws/KeepsPatternTest.lean: what the operations of PatternTest.lean keep.
-/
namespace Sys2Proof.Machine

variable {q : List Instr} {w : FuseBits}

theorem testCtrl_keeps {s : State} (land : Bool) (w_ : Nat) (hs : Keeps q w s) : Keeps q w (testCtrl s land w_) := by
  unfold testCtrl
  try dsimp only
  repeat' first
    | with_reducible assumption
    | intro _
    | with_reducible apply setF_keeps
    | with_reducible apply Keeps.ite
    | with_reducible apply Keeps.foldl
    | split

theorem testRuns_keeps {s : State} (land : Bool) (w_ : Nat) (hs : Keeps q w s) : Keeps q w (testRuns s land w_) := by
  unfold testRuns
  try dsimp only
  repeat' first
    | with_reducible assumption
    | intro _
    | with_reducible apply testCtrl_keeps
    | with_reducible apply testCounts_keeps
    | with_reducible apply setF_keeps
    | with_reducible apply Keeps.ite
    | with_reducible apply Keeps.foldl
    | split
    | with_reducible apply Keeps.upd

theorem testStart_keeps {s : State} (land : Bool) (w_ : Nat) (lock : Bool) (hs : Keeps q w s) : Keeps q w (testStart s land w_ lock) := by
  unfold testStart
  try dsimp only
  repeat' first
    | with_reducible assumption
    | intro _
    | with_reducible apply testRuns_keeps
    | with_reducible apply testCtrl_keeps
    | with_reducible apply testDone_keeps
    | with_reducible apply Keeps.ite
    | with_reducible apply Keeps.foldl
    | split

theorem execPatternTestStart_keeps (land : Bool) (v : W32) (lock : Bool) {s : State} (hs : Keeps q w s) : KeepsR q w (execPatternTestStart land v lock s) := by
  unfold execPatternTestStart
  try dsimp only
  repeat' first
    | with_reducible assumption
    | intro _
    | with_reducible apply testStart_keeps
    | with_reducible apply testCtrl_keeps
    | with_reducible apply Keeps.ite
    | with_reducible apply Keeps.foldl
    | with_reducible apply KeepsR.next
    | with_reducible apply KeepsR.ite
    | split

theorem execPatternTestStop_keeps (land : Bool) (bits : W64) (errs : BitVec 31) {s : State} (hs : Keeps q w s) : KeepsR q w (execPatternTestStop land bits errs s) := by
  unfold execPatternTestStop
  try dsimp only
  repeat' first
    | with_reducible assumption
    | intro _
    | with_reducible apply testEnds_keeps
    | with_reducible apply testCounts_keeps
    | with_reducible apply Keeps.ite
    | with_reducible apply Keeps.foldl
    | with_reducible apply KeepsR.next
    | with_reducible apply KeepsR.ite
    | split

theorem execPatternTestEnd_keeps (bits : W64) (errs : BitVec 31) {s : State} (hs : Keeps q w s) : KeepsR q w (execPatternTestEnd bits errs s) := by
  unfold execPatternTestEnd
  try dsimp only
  repeat' first
    | with_reducible assumption
    | intro _
    | with_reducible apply testEnds_keeps
    | with_reducible apply testCounts_keeps
    | with_reducible apply Keeps.ite
    | with_reducible apply Keeps.foldl
    | with_reducible apply KeepsR.next
    | with_reducible apply KeepsR.ite
    | split

end Sys2Proof.Machine
end

