-- ==== Sys2Proof/Laws/KeepsRelease.lean ====
section
/-!
SUPPORT. Laws/KeepsRelease.lean: what the operations of Release.lean keep.
-/
namespace Sys2Proof.Machine

variable {q : List Instr} {w : FuseBits}

theorem setLandau_keeps {s : State} (l : Landau) (hs : Keeps q w s) : Keeps q w (setLandau s l) := by
  unfold setLandau
  try dsimp only
  repeat' first
    | with_reducible assumption
    | intro _
    | with_reducible apply Keeps.ite
    | with_reducible apply Keeps.foldl
    | split
    | with_reducible apply Keeps.upd

theorem advanceArb_keeps {s : State} (n : Nat) (version : Nat) (hs : Keeps q w s) : Keeps q w (advanceArb s n version) := by
  unfold advanceArb
  try dsimp only
  repeat' first
    | with_reducible assumption
    | intro _
    | refine Keeps.eqL (by with_reducible assumption) ?_
    | with_reducible apply requestBurn_keeps
    | with_reducible apply occur_keeps
    | with_reducible apply Keeps.ite
    | with_reducible apply Keeps.foldl
    | with_reducible apply KeepsL.ite
    | with_reducible apply KeepsL.foldl
    | split
    | with_reducible apply Keeps.fst
    | with_reducible apply KeepsL.pair

theorem releaseSafe_keeps {s : State} (hs : Keeps q w s) : Keeps q w (releaseSafe s) := by
  unfold releaseSafe
  try dsimp only
  repeat' first
    | with_reducible assumption
    | intro _
    | with_reducible apply countExit_keeps
    | with_reducible apply leaveSafe_keeps
    | with_reducible apply Keeps.ite
    | with_reducible apply Keeps.foldl
    | split

theorem releaseOpen_keeps {s : State} (ledgerOk : Bool) (hs : Keeps q w s) : Keeps q w (releaseOpen s ledgerOk) := by
  unfold releaseOpen
  try dsimp only
  repeat' first
    | with_reducible assumption
    | intro _
    | with_reducible apply releaseSafe_keeps
    | with_reducible apply advanceArb_keeps
    | with_reducible apply setLandau_keeps
    | with_reducible apply deviceRecord_keeps
    | with_reducible apply selectorRelease_keeps
    | with_reducible apply clearCounter_keeps
    | with_reducible apply setF_keeps
    | with_reducible apply Keeps.ite
    | with_reducible apply Keeps.foldl
    | split

theorem execSysctlReleaseOpen_keeps (v : W32) (ledgerOk : Bool) {s : State} (hs : Keeps q w s) : KeepsR q w (execSysctlReleaseOpen v ledgerOk s) := by
  unfold execSysctlReleaseOpen
  try dsimp only
  repeat' first
    | with_reducible assumption
    | intro _
    | with_reducible apply releaseOpen_keeps
    | with_reducible apply whenGecko_keeps
    | with_reducible apply Keeps.ite
    | with_reducible apply Keeps.foldl
    | with_reducible apply KeepsR.next
    | with_reducible apply KeepsR.ite
    | split

end Sys2Proof.Machine
end

