-- ==== Sys2Proof/Laws/KeepsSdcard.lean ====
section
/-!
SUPPORT. Laws/KeepsSdcard.lean: what the operations of Sdcard.lean keep.
-/
namespace Sys2Proof.Machine

variable {q : List Instr} {w : FuseBits}

theorem withSd_keeps {s : State} {t : State} (hs : Keeps q w s) (ht : Keeps q w t) : KeepsR q w (withSd s t) := by
  unfold withSd
  try dsimp only
  repeat' first
    | with_reducible assumption
    | intro _
    | with_reducible apply Keeps.ite
    | with_reducible apply Keeps.foldl
    | with_reducible apply KeepsR.next
    | with_reducible apply KeepsR.ite
    | split

theorem sdIrq_keeps {s : State} (hs : Keeps q w s) : Keeps q w (sdIrq s) := by
  unfold sdIrq
  try dsimp only
  repeat' first
    | with_reducible assumption
    | intro _
    | with_reducible apply raise_keeps
    | with_reducible apply Keeps.ite
    | with_reducible apply Keeps.foldl
    | split

theorem sdDone_keeps {s : State} (op : Nat) (err : Nat) (n : Nat) (hs : Keeps q w s) : Keeps q w (sdDone s op err n) := by
  unfold sdDone
  try dsimp only
  repeat' first
    | with_reducible assumption
    | intro _
    | with_reducible apply sdIrq_keeps
    | with_reducible apply bump_keeps
    | with_reducible apply setF_keeps
    | with_reducible apply Keeps.ite
    | with_reducible apply Keeps.foldl
    | split

theorem sdState_keeps {s : State} (n : Nat) (hs : Keeps q w s) : Keeps q w (sdState s n) := by
  unfold sdState
  try dsimp only
  repeat' first
    | with_reducible assumption
    | intro _
    | with_reducible apply setF_keeps
    | with_reducible apply Keeps.ite
    | with_reducible apply Keeps.foldl
    | split

theorem updSd_keeps {s : State} (f : SdCard → SdCard) (hs : Keeps q w s) : Keeps q w (updSd s f) := by
  unfold updSd
  try dsimp only
  repeat' first
    | with_reducible assumption
    | intro _
    | with_reducible apply Keeps.ite
    | with_reducible apply Keeps.foldl
    | split
    | with_reducible apply Keeps.upd

theorem sdErase_keeps {s : State} (hs : Keeps q w s) : Keeps q w (sdErase s) := by
  unfold sdErase
  try dsimp only
  repeat' first
    | with_reducible assumption
    | intro _
    | with_reducible apply sdState_keeps
    | with_reducible apply setF_keeps
    | with_reducible apply Keeps.ite
    | with_reducible apply Keeps.foldl
    | split
    | with_reducible apply Keeps.upd

theorem sdForeign_keeps {s : State} (hs : Keeps q w s) : Keeps q w (sdForeign s) := by
  unfold sdForeign
  try dsimp only
  repeat' first
    | with_reducible assumption
    | intro _
    | with_reducible apply sdErase_keeps
    | with_reducible apply sdState_keeps
    | with_reducible apply Keeps.ite
    | with_reducible apply Keeps.foldl
    | split

theorem sdScan_keeps {s : State} (c : SdCard) (first : Nat) (hs : Keeps q w s) : Keeps q w (sdScan s c first) := by
  unfold sdScan
  try dsimp only
  repeat' first
    | with_reducible assumption
    | intro _
    | with_reducible apply sdForeign_keeps
    | with_reducible apply sdState_keeps
    | with_reducible apply Keeps.ite
    | with_reducible apply Keeps.foldl
    | split
    | with_reducible apply Keeps.upd

theorem sdUse_keeps {s : State} (c : SdCard) (first : Nat) (hs : Keeps q w s) : Keeps q w (sdUse s c first) := by
  unfold sdUse
  try dsimp only
  repeat' first
    | with_reducible assumption
    | intro _
    | with_reducible apply sdScan_keeps
    | with_reducible apply setF_keeps
    | with_reducible apply Keeps.ite
    | with_reducible apply Keeps.foldl
    | split
    | with_reducible apply Keeps.upd

theorem sdClaim_keeps {s : State} (c : SdCard) (hs : Keeps q w s) : Keeps q w (sdClaim s c) := by
  unfold sdClaim
  try dsimp only
  repeat' first
    | with_reducible assumption
    | intro _
    | with_reducible apply sdUse_keeps
    | with_reducible apply Keeps.ite
    | with_reducible apply Keeps.foldl
    | split

theorem sdSettle_keeps {s : State} (c : SdCard) (hs : Keeps q w s) : Keeps q w (sdSettle s c) := by
  unfold sdSettle
  try dsimp only
  repeat' first
    | with_reducible assumption
    | intro _
    | with_reducible apply sdClaim_keeps
    | with_reducible apply sdUse_keeps
    | with_reducible apply sdForeign_keeps
    | with_reducible apply setF_keeps
    | with_reducible apply Keeps.ite
    | with_reducible apply Keeps.foldl
    | split

theorem sdInit_keeps {s : State} (c : SdCard) (ok : Bool) (hs : Keeps q w s) : Keeps q w (sdInit s c ok) := by
  unfold sdInit
  try dsimp only
  repeat' first
    | with_reducible assumption
    | intro _
    | with_reducible apply sdSettle_keeps
    | with_reducible apply sdState_keeps
    | with_reducible apply setB_keeps
    | with_reducible apply setF_keeps
    | with_reducible apply Keeps.ite
    | with_reducible apply Keeps.foldl
    | split
    | with_reducible apply Keeps.upd

theorem execSdInsertion_keeps (card : SdCard) (initOk : Bool) {s : State} (hs : Keeps q w s) : KeepsR q w (execSdInsertion card initOk s) := by
  unfold execSdInsertion
  try dsimp only
  repeat' first
    | with_reducible assumption
    | intro _
    | with_reducible apply sdInit_keeps
    | with_reducible apply withSd_keeps
    | with_reducible apply setF_keeps
    | with_reducible apply Keeps.ite
    | with_reducible apply Keeps.foldl
    | with_reducible apply KeepsR.next
    | with_reducible apply KeepsR.ite
    | split

theorem sdUnpower_keeps {s : State} (hs : Keeps q w s) : Keeps q w (sdUnpower s) := by
  unfold sdUnpower
  try dsimp only
  repeat' first
    | with_reducible assumption
    | intro _
    | with_reducible apply setF_keeps
    | with_reducible apply Keeps.ite
    | with_reducible apply Keeps.foldl
    | split

theorem execSdRemoval_keeps (afterToken : Bool) {s : State} (hs : Keeps q w s) : KeepsR q w (execSdRemoval afterToken s) := by
  unfold execSdRemoval
  try dsimp only
  repeat' first
    | with_reducible assumption
    | intro _
    | with_reducible apply sdUnpower_keeps
    | with_reducible apply sdState_keeps
    | with_reducible apply sdDone_keeps
    | with_reducible apply sdIrq_keeps
    | with_reducible apply withSd_keeps
    | with_reducible apply setF_keeps
    | with_reducible apply Keeps.ite
    | with_reducible apply Keeps.foldl
    | with_reducible apply KeepsR.next
    | with_reducible apply KeepsR.ite
    | split
    | with_reducible apply Keeps.upd

theorem sdStart_keeps {s : State} (op : Nat) (n : Nat) (data : Bytes) (hs : Keeps q w s) : Keeps q w (sdStart s op n data) := by
  unfold sdStart
  try dsimp only
  repeat' first
    | with_reducible assumption
    | intro _
    | with_reducible apply setF_keeps
    | with_reducible apply Keeps.ite
    | with_reducible apply Keeps.foldl
    | split
    | with_reducible apply Keeps.upd

theorem sdCmd_keeps {s : State} (op : Nat) (f : SdCard → State) (hs : Keeps q w s) (hf : ∀ x0, Keeps q w (f x0)) : KeepsR q w (sdCmd s op f) := by
  unfold sdCmd
  try dsimp only
  repeat' first
    | with_reducible assumption
    | intro _
    | with_reducible apply hf
    | with_reducible apply sdDone_keeps
    | with_reducible apply withSd_keeps
    | with_reducible apply Keeps.ite
    | with_reducible apply Keeps.foldl
    | with_reducible apply KeepsR.next
    | with_reducible apply KeepsR.ite
    | split

theorem execSdhWrite_keeps {s : State} (hs : Keeps q w s) : KeepsR q w (execSdhWrite s) := by
  unfold execSdhWrite
  try dsimp only
  repeat' first
    | with_reducible assumption
    | intro _
    | with_reducible apply sdCmd_keeps
    | with_reducible apply sdStart_keeps
    | with_reducible apply sdDone_keeps
    | with_reducible apply recordDenied_keeps
    | with_reducible apply Keeps.ite
    | with_reducible apply Keeps.foldl
    | with_reducible apply KeepsR.next
    | with_reducible apply KeepsR.ite
    | split

theorem execSdhRead_keeps {s : State} (hs : Keeps q w s) : KeepsR q w (execSdhRead s) := by
  unfold execSdhRead
  try dsimp only
  repeat' first
    | with_reducible assumption
    | intro _
    | with_reducible apply sdCmd_keeps
    | with_reducible apply sdStart_keeps
    | with_reducible apply sdDone_keeps
    | with_reducible apply Keeps.ite
    | with_reducible apply Keeps.foldl
    | with_reducible apply KeepsR.next
    | with_reducible apply KeepsR.ite
    | split

theorem execForceErase_keeps (key : BitVec 16) {s : State} (hs : Keeps q w s) : KeepsR q w (execForceErase key s) := by
  unfold execForceErase
  try dsimp only
  repeat' first
    | with_reducible assumption
    | intro _
    | with_reducible apply sdCmd_keeps
    | with_reducible apply sdErase_keeps
    | with_reducible apply Keeps.ite
    | with_reducible apply Keeps.foldl
    | with_reducible apply KeepsR.next
    | with_reducible apply KeepsR.ite
    | split

theorem sdPwdCmd_keeps {s : State} (op : Nat) (hs : Keeps q w s) : KeepsR q w (sdPwdCmd s op) := by
  unfold sdPwdCmd
  try dsimp only
  repeat' first
    | with_reducible assumption
    | intro _
    | with_reducible apply sdCmd_keeps
    | with_reducible apply sdStart_keeps
    | with_reducible apply sdDone_keeps
    | with_reducible apply recordDenied_keeps
    | with_reducible apply Keeps.ite
    | with_reducible apply Keeps.foldl
    | with_reducible apply KeepsR.next
    | with_reducible apply KeepsR.ite
    | split

theorem execSetLock_keeps {s : State} (hs : Keeps q w s) : KeepsR q w (execSetLock s) := by
  unfold execSetLock
  try dsimp only
  repeat' first
    | with_reducible assumption
    | intro _
    | with_reducible apply sdPwdCmd_keeps
    | with_reducible apply Keeps.ite
    | with_reducible apply Keeps.foldl
    | with_reducible apply KeepsR.next
    | with_reducible apply KeepsR.ite
    | split

theorem execSdhUnlock_keeps {s : State} (hs : Keeps q w s) : KeepsR q w (execSdhUnlock s) := by
  unfold execSdhUnlock
  try dsimp only
  repeat' first
    | with_reducible assumption
    | intro _
    | with_reducible apply sdPwdCmd_keeps
    | with_reducible apply Keeps.ite
    | with_reducible apply Keeps.foldl
    | with_reducible apply KeepsR.next
    | with_reducible apply KeepsR.ite
    | split

theorem execPowerOff_keeps {s : State} (hs : Keeps q w s) : KeepsR q w (execPowerOff s) := by
  unfold execPowerOff
  try dsimp only
  repeat' first
    | with_reducible assumption
    | intro _
    | with_reducible apply sdCmd_keeps
    | with_reducible apply sdStart_keeps
    | with_reducible apply Keeps.ite
    | with_reducible apply Keeps.foldl
    | with_reducible apply KeepsR.next
    | with_reducible apply KeepsR.ite
    | split

theorem sdWrote_keeps {s : State} (b : Nat) (n : Nat) (data : Bytes) (e : SdEnd) (hs : Keeps q w s) : Keeps q w (sdWrote s b n data e) := by
  unfold sdWrote
  try dsimp only
  repeat' first
    | with_reducible assumption
    | intro _
    | with_reducible apply sdUnpower_keeps
    | with_reducible apply sdInit_keeps
    | with_reducible apply updSd_keeps
    | with_reducible apply sdDone_keeps
    | with_reducible apply Keeps.ite
    | with_reducible apply Keeps.foldl
    | split

theorem sdWasRead_keeps {s : State} (b : Nat) (n : Nat) (a : Nat) (e : SdEnd) (hs : Keeps q w s) : Keeps q w (sdWasRead s b n a e) := by
  unfold sdWasRead
  try dsimp only
  repeat' first
    | with_reducible assumption
    | intro _
    | with_reducible apply sdDone_keeps
    | with_reducible apply masterWrite_keeps
    | with_reducible apply Keeps.ite
    | with_reducible apply Keeps.foldl
    | split

theorem sdErased_keeps {s : State} (err : Nat) (hs : Keeps q w s) : Keeps q w (sdErased s err) := by
  unfold sdErased
  try dsimp only
  repeat' first
    | with_reducible assumption
    | intro _
    | with_reducible apply sdSettle_keeps
    | with_reducible apply sdState_keeps
    | with_reducible apply sdDone_keeps
    | with_reducible apply Keeps.ite
    | with_reducible apply Keeps.foldl
    | split
    | with_reducible apply Keeps.upd

theorem sdLocked_keeps {s : State} (op : Nat) (p : Bytes) (err : Nat) (hs : Keeps q w s) : Keeps q w (sdLocked s op p err) := by
  unfold sdLocked
  try dsimp only
  repeat' first
    | with_reducible assumption
    | intro _
    | with_reducible apply updSd_keeps
    | with_reducible apply sdDone_keeps
    | with_reducible apply setF_keeps
    | with_reducible apply Keeps.ite
    | with_reducible apply Keeps.foldl
    | split
    | with_reducible apply Keeps.upd

theorem execSdhOperationEnd_keeps (e : SdEnd) {s : State} (hs : Keeps q w s) : KeepsR q w (execSdhOperationEnd e s) := by
  unfold execSdhOperationEnd
  try dsimp only
  repeat' first
    | with_reducible assumption
    | intro _
    | with_reducible apply sdLocked_keeps
    | with_reducible apply sdErased_keeps
    | with_reducible apply sdWasRead_keeps
    | with_reducible apply sdWrote_keeps
    | with_reducible apply sdUnpower_keeps
    | with_reducible apply sdState_keeps
    | with_reducible apply sdDone_keeps
    | with_reducible apply withSd_keeps
    | with_reducible apply setF_keeps
    | with_reducible apply Keeps.ite
    | with_reducible apply Keeps.foldl
    | with_reducible apply KeepsR.next
    | with_reducible apply KeepsR.ite
    | split
    | with_reducible apply Keeps.upd

theorem mirrorCert_keeps {s : State} (ak : Bytes) (hs : Keeps q w s) : Keeps q w (mirrorCert s ak) := by
  unfold mirrorCert
  try dsimp only
  repeat' first
    | with_reducible assumption
    | intro _
    | with_reducible apply updSd_keeps
    | with_reducible apply Keeps.ite
    | with_reducible apply Keeps.foldl
    | split
    | with_reducible apply Keeps.upd

theorem mirrorRecord_keeps {s : State} (q_ : Nat) (hs : Keeps q w s) : Keeps q w (mirrorRecord s q_) := by
  unfold mirrorRecord
  try dsimp only
  repeat' first
    | with_reducible assumption
    | intro _
    | with_reducible apply mirrorCert_keeps
    | with_reducible apply updSd_keeps
    | with_reducible apply sdState_keeps
    | with_reducible apply Keeps.ite
    | with_reducible apply Keeps.foldl
    | split
    | with_reducible apply Keeps.upd

theorem mirrorEvents_keeps {s : State} (hs : Keeps q w s) : Keeps q w (mirrorEvents s) := by
  unfold mirrorEvents
  try dsimp only
  repeat' first
    | with_reducible assumption
    | intro _
    | with_reducible apply updSd_keeps
    | with_reducible apply Keeps.ite
    | with_reducible apply Keeps.foldl
    | split

theorem execLedgerMirror_keeps (ok : Bool) {s : State} (hs : Keeps q w s) : KeepsR q w (execLedgerMirror ok s) := by
  unfold execLedgerMirror
  try dsimp only
  repeat' first
    | with_reducible assumption
    | intro _
    | with_reducible apply mirrorEvents_keeps
    | with_reducible apply mirrorRecord_keeps
    | with_reducible apply withSd_keeps
    | with_reducible apply bump_keeps
    | with_reducible apply Keeps.ite
    | with_reducible apply Keeps.foldl
    | with_reducible apply KeepsR.next
    | with_reducible apply KeepsR.ite
    | split

end Sys2Proof.Machine
end

