-- ==== Sys2Proof/Laws/KeepsSpdm.lean ====
section
/-!
SUPPORT. Laws/KeepsSpdm.lean: what the operations of Spdm.lean keep.
-/
namespace Sys2Proof.Machine

variable {q : List Instr} {w : FuseBits}

theorem spdmSay_keeps {s : State} (doe : Bool) (a : SpdmAns) (hs : Keeps q w s) : Keeps q w (spdmSay s doe a) := by
  unfold spdmSay
  try dsimp only
  repeat' first
    | with_reducible assumption
    | intro _
    | with_reducible apply Keeps.ite
    | with_reducible apply Keeps.foldl
    | split
    | with_reducible apply Keeps.upd

theorem setSpdmStage_keeps {s : State} (doe : Bool) (n : Nat) (hs : Keeps q w s) : Keeps q w (setSpdmStage s doe n) := by
  unfold setSpdmStage
  try dsimp only
  repeat' first
    | with_reducible assumption
    | intro _
    | with_reducible apply Keeps.ite
    | with_reducible apply Keeps.foldl
    | split
    | with_reducible apply Keeps.upd

theorem spdmAt_keeps {s : State} (doe : Bool) (need : Nat) (f : State → State) (hs : Keeps q w s) (hf : ∀ x0, Keeps q w x0 → Keeps q w (f x0)) : Keeps q w (spdmAt s doe need f) := by
  unfold spdmAt
  try dsimp only
  repeat' first
    | with_reducible assumption
    | intro _
    | with_reducible apply hf
    | with_reducible apply spdmSay_keeps
    | with_reducible apply Keeps.ite
    | with_reducible apply Keeps.foldl
    | split

theorem spdmVersion_keeps {s : State} (doe : Bool) (hs : Keeps q w s) : Keeps q w (spdmVersion s doe) := by
  unfold spdmVersion
  try dsimp only
  repeat' first
    | with_reducible assumption
    | intro _
    | with_reducible apply spdmAt_keeps
    | with_reducible apply setSpdmStage_keeps
    | with_reducible apply spdmSay_keeps
    | with_reducible apply Keeps.ite
    | with_reducible apply Keeps.foldl
    | split
    | with_reducible apply Keeps.upd

theorem spdmCapabilities_keeps {s : State} (doe : Bool) (hs : Keeps q w s) : Keeps q w (spdmCapabilities s doe) := by
  unfold spdmCapabilities
  try dsimp only
  repeat' first
    | with_reducible assumption
    | intro _
    | with_reducible apply spdmAt_keeps
    | with_reducible apply setSpdmStage_keeps
    | with_reducible apply spdmSay_keeps
    | with_reducible apply Keeps.ite
    | with_reducible apply Keeps.foldl
    | split

theorem spdmAlgorithms_keeps {s : State} (doe : Bool) (o : SpdmOffer) (hs : Keeps q w s) : Keeps q w (spdmAlgorithms s doe o) := by
  unfold spdmAlgorithms
  try dsimp only
  repeat' first
    | with_reducible assumption
    | intro _
    | with_reducible apply spdmAt_keeps
    | with_reducible apply setSpdmStage_keeps
    | with_reducible apply spdmSay_keeps
    | with_reducible apply Keeps.ite
    | with_reducible apply Keeps.foldl
    | split

theorem spdmDigests_keeps {s : State} (doe : Bool) (hs : Keeps q w s) : Keeps q w (spdmDigests s doe) := by
  unfold spdmDigests
  try dsimp only
  repeat' first
    | with_reducible assumption
    | intro _
    | with_reducible apply spdmAt_keeps
    | with_reducible apply spdmSay_keeps
    | with_reducible apply Keeps.ite
    | with_reducible apply Keeps.foldl
    | split

theorem spdmCertificate_keeps {s : State} (doe : Bool) (slot : Nat) (off : Nat) (len : Nat) (hs : Keeps q w s) : Keeps q w (spdmCertificate s doe slot off len) := by
  unfold spdmCertificate
  try dsimp only
  repeat' first
    | with_reducible assumption
    | intro _
    | with_reducible apply spdmAt_keeps
    | with_reducible apply spdmSay_keeps
    | with_reducible apply Keeps.ite
    | with_reducible apply Keeps.foldl
    | split

theorem transcriptSig_keeps {s : State} (hs : Keeps q w s) : KeepsP q w (transcriptSig s) := by
  unfold transcriptSig
  try dsimp only
  repeat' first
    | with_reducible assumption
    | intro _
    | refine Keeps.eqP (by with_reducible assumption) ?_
    | with_reducible apply drawBytes_keeps
    | with_reducible apply Keeps.ite
    | with_reducible apply Keeps.foldl
    | with_reducible apply KeepsP.ite
    | with_reducible apply KeepsP.foldl
    | split
    | with_reducible apply Keeps.snd
    | with_reducible apply KeepsP.pair

theorem spdmChallenge_keeps {s : State} (doe : Bool) (slot : Nat) (hs : Keeps q w s) : Keeps q w (spdmChallenge s doe slot) := by
  unfold spdmChallenge
  try dsimp only
  repeat' first
    | with_reducible assumption
    | intro _
    | refine Keeps.eqP (by with_reducible assumption) ?_
    | with_reducible apply transcriptSig_keeps
    | with_reducible apply spdmAt_keeps
    | with_reducible apply spdmSay_keeps
    | with_reducible apply Keeps.ite
    | with_reducible apply Keeps.foldl
    | with_reducible apply KeepsP.ite
    | with_reducible apply KeepsP.foldl
    | split
    | with_reducible apply Keeps.snd
    | with_reducible apply KeepsP.pair

theorem spdmMeasurements_keeps {s : State} (doe : Bool) (index : Nat) (signed : Bool) (hs : Keeps q w s) : Keeps q w (spdmMeasurements s doe index signed) := by
  unfold spdmMeasurements
  try dsimp only
  repeat' first
    | with_reducible assumption
    | intro _
    | refine Keeps.eqP (by with_reducible assumption) ?_
    | with_reducible apply transcriptSig_keeps
    | with_reducible apply spdmAt_keeps
    | with_reducible apply spdmSay_keeps
    | with_reducible apply Keeps.ite
    | with_reducible apply Keeps.foldl
    | with_reducible apply KeepsP.ite
    | with_reducible apply KeepsP.foldl
    | split
    | with_reducible apply Keeps.snd
    | with_reducible apply KeepsP.pair

theorem spdmKeyExchange_keeps {s : State} (doe : Bool) (slot : Nat) (pub : Bytes) (hs : Keeps q w s) : Keeps q w (spdmKeyExchange s doe slot pub) := by
  unfold spdmKeyExchange
  try dsimp only
  repeat' first
    | with_reducible assumption
    | intro _
    | refine Keeps.eqP (by with_reducible assumption) ?_
    | with_reducible apply transcriptSig_keeps
    | with_reducible apply spdmAt_keeps
    | with_reducible apply spdmSay_keeps
    | with_reducible apply drawBytes_keeps
    | with_reducible apply Keeps.ite
    | with_reducible apply Keeps.foldl
    | with_reducible apply KeepsP.ite
    | with_reducible apply KeepsP.foldl
    | split
    | with_reducible apply Keeps.snd
    | with_reducible apply KeepsP.pair
    | with_reducible apply Keeps.upd

theorem spdmDrop_keeps {s : State} (n : Nat) (hs : Keeps q w s) : Keeps q w (spdmDrop s n) := by
  unfold spdmDrop
  try dsimp only
  repeat' first
    | with_reducible assumption
    | intro _
    | with_reducible apply Keeps.ite
    | with_reducible apply Keeps.foldl
    | split
    | with_reducible apply Keeps.upd

theorem spdmFinish_keeps {s : State} (n : Nat) (mac : Bool) (hs : Keeps q w s) : Keeps q w (spdmFinish s n mac) := by
  unfold spdmFinish
  try dsimp only
  repeat' first
    | with_reducible assumption
    | intro _
    | with_reducible apply spdmDrop_keeps
    | with_reducible apply spdmAt_keeps
    | with_reducible apply spdmSay_keeps
    | with_reducible apply Keeps.ite
    | with_reducible apply Keeps.foldl
    | split
    | with_reducible apply Keeps.upd

theorem inSession_keeps {s : State} (n : Nat) (mac : Bool) (f : State → Bool → State) (hs : Keeps q w s) (hf : ∀ x0 x1, Keeps q w x0 → Keeps q w (f x0 x1)) : Keeps q w (inSession s n mac f) := by
  unfold inSession
  try dsimp only
  repeat' first
    | with_reducible assumption
    | intro _
    | with_reducible apply hf
    | with_reducible apply spdmDrop_keeps
    | with_reducible apply spdmAt_keeps
    | with_reducible apply spdmSay_keeps
    | with_reducible apply Keeps.ite
    | with_reducible apply Keeps.foldl
    | split

theorem spdmHeartbeat_keeps {s : State} (n : Nat) (mac : Bool) (hs : Keeps q w s) : Keeps q w (spdmHeartbeat s n mac) := by
  unfold spdmHeartbeat
  try dsimp only
  repeat' first
    | with_reducible assumption
    | intro _
    | with_reducible apply inSession_keeps
    | with_reducible apply spdmSay_keeps
    | with_reducible apply Keeps.ite
    | with_reducible apply Keeps.foldl
    | split

theorem spdmKeyUpdate_keeps {s : State} (n : Nat) (mac : Bool) (hs : Keeps q w s) : Keeps q w (spdmKeyUpdate s n mac) := by
  unfold spdmKeyUpdate
  try dsimp only
  repeat' first
    | with_reducible assumption
    | intro _
    | with_reducible apply inSession_keeps
    | with_reducible apply spdmSay_keeps
    | with_reducible apply Keeps.ite
    | with_reducible apply Keeps.foldl
    | split

theorem spdmEndSession_keeps {s : State} (n : Nat) (mac : Bool) (hs : Keeps q w s) : Keeps q w (spdmEndSession s n mac) := by
  unfold spdmEndSession
  try dsimp only
  repeat' first
    | with_reducible assumption
    | intro _
    | with_reducible apply inSession_keeps
    | with_reducible apply spdmDrop_keeps
    | with_reducible apply spdmSay_keeps
    | with_reducible apply Keeps.ite
    | with_reducible apply Keeps.foldl
    | split

theorem spdmVendor_keeps {s : State} (n : Nat) (mac : Bool) (ideKm : Option Bytes) (hs : Keeps q w s) : Keeps q w (spdmVendor s n mac ideKm) := by
  unfold spdmVendor
  try dsimp only
  repeat' first
    | with_reducible assumption
    | intro _
    | with_reducible apply inSession_keeps
    | with_reducible apply spdmSay_keeps
    | with_reducible apply setF_keeps
    | with_reducible apply Keeps.ite
    | with_reducible apply Keeps.foldl
    | split
    | with_reducible apply Keeps.upd

theorem execGetVersion_keeps (doe : Bool) {s : State} (hs : Keeps q w s) : KeepsR q w (execGetVersion doe s) := by
  unfold execGetVersion
  try dsimp only
  repeat' first
    | with_reducible assumption
    | intro _
    | with_reducible apply spdmVersion_keeps
    | with_reducible apply Keeps.ite
    | with_reducible apply Keeps.foldl
    | with_reducible apply KeepsR.next
    | with_reducible apply KeepsR.ite
    | split

theorem execGetCapabilities_keeps (doe : Bool) {s : State} (hs : Keeps q w s) : KeepsR q w (execGetCapabilities doe s) := by
  unfold execGetCapabilities
  try dsimp only
  repeat' first
    | with_reducible assumption
    | intro _
    | with_reducible apply spdmCapabilities_keeps
    | with_reducible apply Keeps.ite
    | with_reducible apply Keeps.foldl
    | with_reducible apply KeepsR.next
    | with_reducible apply KeepsR.ite
    | split

theorem execNegotiateAlgorithms_keeps (doe : Bool) (offer : SpdmOffer) {s : State} (hs : Keeps q w s) : KeepsR q w (execNegotiateAlgorithms doe offer s) := by
  unfold execNegotiateAlgorithms
  try dsimp only
  repeat' first
    | with_reducible assumption
    | intro _
    | with_reducible apply spdmAlgorithms_keeps
    | with_reducible apply Keeps.ite
    | with_reducible apply Keeps.foldl
    | with_reducible apply KeepsR.next
    | with_reducible apply KeepsR.ite
    | split

theorem execGetDigests_keeps (doe : Bool) {s : State} (hs : Keeps q w s) : KeepsR q w (execGetDigests doe s) := by
  unfold execGetDigests
  try dsimp only
  repeat' first
    | with_reducible assumption
    | intro _
    | with_reducible apply spdmDigests_keeps
    | with_reducible apply Keeps.ite
    | with_reducible apply Keeps.foldl
    | with_reducible apply KeepsR.next
    | with_reducible apply KeepsR.ite
    | split

theorem execGetCertificate_keeps (doe : Bool) (slot : Nat) (off : Nat) (len : Nat) {s : State} (hs : Keeps q w s) : KeepsR q w (execGetCertificate doe slot off len s) := by
  unfold execGetCertificate
  try dsimp only
  repeat' first
    | with_reducible assumption
    | intro _
    | with_reducible apply spdmCertificate_keeps
    | with_reducible apply Keeps.ite
    | with_reducible apply Keeps.foldl
    | with_reducible apply KeepsR.next
    | with_reducible apply KeepsR.ite
    | split

theorem execChallenge_keeps (doe : Bool) (slot : Nat) {s : State} (hs : Keeps q w s) : KeepsR q w (execChallenge doe slot s) := by
  unfold execChallenge
  try dsimp only
  repeat' first
    | with_reducible assumption
    | intro _
    | with_reducible apply spdmChallenge_keeps
    | with_reducible apply Keeps.ite
    | with_reducible apply Keeps.foldl
    | with_reducible apply KeepsR.next
    | with_reducible apply KeepsR.ite
    | split

theorem execGetMeasurements_keeps (doe : Bool) (index : Nat) (signed : Bool) {s : State} (hs : Keeps q w s) : KeepsR q w (execGetMeasurements doe index signed s) := by
  unfold execGetMeasurements
  try dsimp only
  repeat' first
    | with_reducible assumption
    | intro _
    | with_reducible apply spdmMeasurements_keeps
    | with_reducible apply Keeps.ite
    | with_reducible apply Keeps.foldl
    | with_reducible apply KeepsR.next
    | with_reducible apply KeepsR.ite
    | split

theorem execKeyExchange_keeps (doe : Bool) (slot : Nat) (pub : Bytes) {s : State} (hs : Keeps q w s) : KeepsR q w (execKeyExchange doe slot pub s) := by
  unfold execKeyExchange
  try dsimp only
  repeat' first
    | with_reducible assumption
    | intro _
    | with_reducible apply spdmKeyExchange_keeps
    | with_reducible apply Keeps.ite
    | with_reducible apply Keeps.foldl
    | with_reducible apply KeepsR.next
    | with_reducible apply KeepsR.ite
    | split

theorem execFinish_keeps (session : Nat) (macOk : Bool) {s : State} (hs : Keeps q w s) : KeepsR q w (execFinish session macOk s) := by
  unfold execFinish
  try dsimp only
  repeat' first
    | with_reducible assumption
    | intro _
    | with_reducible apply spdmFinish_keeps
    | with_reducible apply Keeps.ite
    | with_reducible apply Keeps.foldl
    | with_reducible apply KeepsR.next
    | with_reducible apply KeepsR.ite
    | split

theorem execHeartbeat_keeps (session : Nat) (macOk : Bool) {s : State} (hs : Keeps q w s) : KeepsR q w (execHeartbeat session macOk s) := by
  unfold execHeartbeat
  try dsimp only
  repeat' first
    | with_reducible assumption
    | intro _
    | with_reducible apply spdmHeartbeat_keeps
    | with_reducible apply Keeps.ite
    | with_reducible apply Keeps.foldl
    | with_reducible apply KeepsR.next
    | with_reducible apply KeepsR.ite
    | split

theorem execKeyUpdate_keeps (session : Nat) (macOk : Bool) {s : State} (hs : Keeps q w s) : KeepsR q w (execKeyUpdate session macOk s) := by
  unfold execKeyUpdate
  try dsimp only
  repeat' first
    | with_reducible assumption
    | intro _
    | with_reducible apply spdmKeyUpdate_keeps
    | with_reducible apply Keeps.ite
    | with_reducible apply Keeps.foldl
    | with_reducible apply KeepsR.next
    | with_reducible apply KeepsR.ite
    | split

theorem execEndSession_keeps (session : Nat) (macOk : Bool) {s : State} (hs : Keeps q w s) : KeepsR q w (execEndSession session macOk s) := by
  unfold execEndSession
  try dsimp only
  repeat' first
    | with_reducible assumption
    | intro _
    | with_reducible apply spdmEndSession_keeps
    | with_reducible apply Keeps.ite
    | with_reducible apply Keeps.foldl
    | with_reducible apply KeepsR.next
    | with_reducible apply KeepsR.ite
    | split

theorem execVendorDefinedRequest_keeps (session : Nat) (macOk : Bool) (ideKm : Option Bytes) {s : State} (hs : Keeps q w s) : KeepsR q w (execVendorDefinedRequest session macOk ideKm s) := by
  unfold execVendorDefinedRequest
  try dsimp only
  repeat' first
    | with_reducible assumption
    | intro _
    | with_reducible apply spdmVendor_keeps
    | with_reducible apply Keeps.ite
    | with_reducible apply Keeps.foldl
    | with_reducible apply KeepsR.next
    | with_reducible apply KeepsR.ite
    | split

theorem spdmMessage_keeps {s : State} (doe : Bool) (b : Bytes) (hs : Keeps q w s) : Keeps q w (spdmMessage s doe b) := by
  unfold spdmMessage
  try dsimp only
  repeat' first
    | with_reducible assumption
    | intro _
    | with_reducible apply spdmKeyExchange_keeps
    | with_reducible apply spdmMeasurements_keeps
    | with_reducible apply spdmChallenge_keeps
    | with_reducible apply spdmCertificate_keeps
    | with_reducible apply spdmDigests_keeps
    | with_reducible apply spdmAlgorithms_keeps
    | with_reducible apply spdmCapabilities_keeps
    | with_reducible apply spdmVersion_keeps
    | with_reducible apply spdmAt_keeps
    | with_reducible apply spdmSay_keeps
    | with_reducible apply Keeps.ite
    | with_reducible apply Keeps.foldl
    | split

theorem spdmSecured_keeps {s : State} (doe : Bool) (b : Bytes) (hs : Keeps q w s) : Keeps q w (spdmSecured s doe b) := by
  unfold spdmSecured
  try dsimp only
  repeat' first
    | with_reducible assumption
    | intro _
    | with_reducible apply spdmMessage_keeps
    | with_reducible apply spdmVendor_keeps
    | with_reducible apply spdmEndSession_keeps
    | with_reducible apply spdmKeyUpdate_keeps
    | with_reducible apply spdmHeartbeat_keeps
    | with_reducible apply inSession_keeps
    | with_reducible apply spdmFinish_keeps
    | with_reducible apply Keeps.ite
    | with_reducible apply Keeps.foldl
    | split

theorem execDoeDataObject_keeps (vendor : Nat) (typ : Nat) (payload : Bytes) {s : State} (hs : Keeps q w s) : KeepsR q w (execDoeDataObject vendor typ payload s) := by
  unfold execDoeDataObject
  try dsimp only
  repeat' first
    | with_reducible assumption
    | intro _
    | with_reducible apply spdmSecured_keeps
    | with_reducible apply spdmMessage_keeps
    | with_reducible apply Keeps.ite
    | with_reducible apply Keeps.foldl
    | with_reducible apply KeepsR.next
    | with_reducible apply KeepsR.ite
    | split
    | with_reducible apply Keeps.upd

end Sys2Proof.Machine
end

