-- ==== Sys2Proof/Laws/KeepsSideband.lean ====
section
/-!
SUPPORT. Laws/KeepsSideband.lean: what the operations of Sideband.lean keep.
-/
namespace Sys2Proof.Machine

variable {q : List Instr} {w : FuseBits}

theorem execDynamicAddressAssignment_keeps (addr : BitVec 7) {s : State} (hs : Keeps q w s) : KeepsR q w (execDynamicAddressAssignment addr s) := by
  unfold execDynamicAddressAssignment
  try dsimp only
  repeat' first
    | with_reducible assumption
    | intro _
    | with_reducible apply setF_keeps
    | with_reducible apply Keeps.ite
    | with_reducible apply Keeps.foldl
    | with_reducible apply KeepsR.next
    | with_reducible apply KeepsR.ite
    | split
    | with_reducible apply Keeps.upd

theorem execFallbackTimeout_keeps {s : State} (hs : Keeps q w s) : KeepsR q w (execFallbackTimeout s) := by
  unfold execFallbackTimeout
  try dsimp only
  repeat' first
    | with_reducible assumption
    | intro _
    | with_reducible apply setF_keeps
    | with_reducible apply Keeps.ite
    | with_reducible apply Keeps.foldl
    | with_reducible apply KeepsR.next
    | with_reducible apply KeepsR.ite
    | split
    | with_reducible apply Keeps.upd

theorem sbIrq_keeps {s : State} (hs : Keeps q w s) : Keeps q w (sbIrq s) := by
  unfold sbIrq
  try dsimp only
  repeat' first
    | with_reducible assumption
    | intro _
    | with_reducible apply raise_keeps
    | with_reducible apply Keeps.ite
    | with_reducible apply Keeps.foldl
    | split

theorem sbShow_keeps {s : State} (hs : Keeps q w s) : Keeps q w (sbShow s) := by
  unfold sbShow
  try dsimp only
  repeat' first
    | with_reducible assumption
    | intro _
    | with_reducible apply sbIrq_keeps
    | with_reducible apply setB_keeps
    | with_reducible apply setF_keeps
    | with_reducible apply Keeps.ite
    | with_reducible apply Keeps.foldl
    | split

theorem sbDiscard_keeps {s : State} (hs : Keeps q w s) : Keeps q w (sbDiscard s) := by
  unfold sbDiscard
  try dsimp only
  repeat' first
    | with_reducible assumption
    | intro _
    | with_reducible apply bump_keeps
    | with_reducible apply setF_keeps
    | with_reducible apply Keeps.ite
    | with_reducible apply Keeps.foldl
    | split
    | with_reducible apply Keeps.upd

theorem sbSay_keeps {s : State} (b : Bytes) (hs : Keeps q w s) : Keeps q w (sbSay s b) := by
  unfold sbSay
  try dsimp only
  repeat' first
    | with_reducible assumption
    | intro _
    | with_reducible apply Keeps.ite
    | with_reducible apply Keeps.foldl
    | split
    | with_reducible apply Keeps.upd

theorem sbAnswer_keeps {s : State} (code : Nat) (cc : Nat) (body : Bytes) (hs : Keeps q w s) : Keeps q w (sbAnswer s code cc body) := by
  unfold sbAnswer
  try dsimp only
  repeat' first
    | with_reducible assumption
    | intro _
    | with_reducible apply sbSay_keeps
    | with_reducible apply Keeps.ite
    | with_reducible apply Keeps.foldl
    | split

theorem sbArrived_keeps {s : State} (m : SbMsg) (hs : Keeps q w s) : Keeps q w (sbArrived s m) := by
  unfold sbArrived
  try dsimp only
  repeat' first
    | with_reducible assumption
    | intro _
    | with_reducible apply sbAnswer_keeps
    | with_reducible apply sbShow_keeps
    | with_reducible apply spdmSecured_keeps
    | with_reducible apply spdmMessage_keeps
    | with_reducible apply Keeps.ite
    | with_reducible apply Keeps.foldl
    | split
    | with_reducible apply Keeps.upd

theorem sbTake_keeps {s : State} (p : MctpPkt) (data : Bytes) (hs : Keeps q w s) : Keeps q w (sbTake s p data) := by
  unfold sbTake
  try dsimp only
  repeat' first
    | with_reducible assumption
    | intro _
    | with_reducible apply sbArrived_keeps
    | with_reducible apply sbDiscard_keeps
    | with_reducible apply Keeps.ite
    | with_reducible apply Keeps.foldl
    | split
    | with_reducible apply Keeps.upd

theorem execMctpPacket_keeps (p : MctpPkt) {s : State} (hs : Keeps q w s) : KeepsR q w (execMctpPacket p s) := by
  unfold execMctpPacket
  try dsimp only
  repeat' first
    | with_reducible assumption
    | intro _
    | with_reducible apply sbTake_keeps
    | with_reducible apply sbDiscard_keeps
    | with_reducible apply Keeps.ite
    | with_reducible apply Keeps.foldl
    | with_reducible apply KeepsR.next
    | with_reducible apply KeepsR.ite
    | split

theorem execSidebRxdataRead_keeps {s : State} (hs : Keeps q w s) : KeepsR q w (execSidebRxdataRead s) := by
  unfold execSidebRxdataRead
  try dsimp only
  repeat' first
    | with_reducible assumption
    | intro _
    | with_reducible apply sbShow_keeps
    | with_reducible apply whenGecko_keeps
    | with_reducible apply setF_keeps
    | with_reducible apply Keeps.ite
    | with_reducible apply Keeps.foldl
    | with_reducible apply KeepsR.next
    | with_reducible apply KeepsR.ite
    | split
    | with_reducible apply Keeps.upd

theorem execSidebTxdataWrite_keeps (v : W32) {s : State} (hs : Keeps q w s) : KeepsR q w (execSidebTxdataWrite v s) := by
  unfold execSidebTxdataWrite
  try dsimp only
  repeat' first
    | with_reducible assumption
    | intro _
    | with_reducible apply whenGecko_keeps
    | with_reducible apply Keeps.ite
    | with_reducible apply Keeps.foldl
    | with_reducible apply KeepsR.next
    | with_reducible apply KeepsR.ite
    | split
    | with_reducible apply Keeps.upd

theorem sbSend_keeps {s : State} (w_ : Nat) (hs : Keeps q w s) : Keeps q w (sbSend s w_) := by
  unfold sbSend
  try dsimp only
  repeat' first
    | with_reducible assumption
    | intro _
    | with_reducible apply sbIrq_keeps
    | with_reducible apply setF_keeps
    | with_reducible apply Keeps.ite
    | with_reducible apply Keeps.foldl
    | split
    | with_reducible apply Keeps.upd

theorem execSidebSend_keeps (v : W32) {s : State} (hs : Keeps q w s) : KeepsR q w (execSidebSend v s) := by
  unfold execSidebSend
  try dsimp only
  repeat' first
    | with_reducible assumption
    | intro _
    | with_reducible apply sbSend_keeps
    | with_reducible apply whenGecko_keeps
    | with_reducible apply setF_keeps
    | with_reducible apply Keeps.ite
    | with_reducible apply Keeps.foldl
    | with_reducible apply KeepsR.next
    | with_reducible apply KeepsR.ite
    | split

theorem sbControl_keeps {s : State} (inst : BitVec 5) (cmd : Nat) (cc : Nat) (data : Bytes) (hs : Keeps q w s) : KeepsR q w (sbControl s inst cmd cc data) := by
  unfold sbControl
  try dsimp only
  repeat' first
    | with_reducible assumption
    | intro _
    | with_reducible apply sbSay_keeps
    | with_reducible apply Keeps.ite
    | with_reducible apply Keeps.foldl
    | with_reducible apply KeepsR.next
    | with_reducible apply KeepsR.ite
    | split

theorem execSetEndpointId_keeps (inst : BitVec 5) (op : BitVec 2) (eid : BitVec 8) {s : State} (hs : Keeps q w s) : KeepsR q w (execSetEndpointId inst op eid s) := by
  unfold execSetEndpointId
  try dsimp only
  repeat' first
    | with_reducible assumption
    | intro _
    | with_reducible apply sbControl_keeps
    | with_reducible apply setF_keeps
    | with_reducible apply Keeps.ite
    | with_reducible apply Keeps.foldl
    | with_reducible apply KeepsR.next
    | with_reducible apply KeepsR.ite
    | split

theorem execGetEndpointId_keeps (inst : BitVec 5) {s : State} (hs : Keeps q w s) : KeepsR q w (execGetEndpointId inst s) := by
  unfold execGetEndpointId
  try dsimp only
  repeat' first
    | with_reducible assumption
    | intro _
    | with_reducible apply sbControl_keeps
    | with_reducible apply Keeps.ite
    | with_reducible apply Keeps.foldl
    | with_reducible apply KeepsR.next
    | with_reducible apply KeepsR.ite
    | split

theorem execGetEndpointUuid_keeps (inst : BitVec 5) {s : State} (hs : Keeps q w s) : KeepsR q w (execGetEndpointUuid inst s) := by
  unfold execGetEndpointUuid
  try dsimp only
  repeat' first
    | with_reducible assumption
    | intro _
    | with_reducible apply sbControl_keeps
    | with_reducible apply Keeps.ite
    | with_reducible apply Keeps.foldl
    | with_reducible apply KeepsR.next
    | with_reducible apply KeepsR.ite
    | split

theorem execGetMctpVersionSupport_keeps (inst : BitVec 5) (typ : BitVec 8) {s : State} (hs : Keeps q w s) : KeepsR q w (execGetMctpVersionSupport inst typ s) := by
  unfold execGetMctpVersionSupport
  try dsimp only
  repeat' first
    | with_reducible assumption
    | intro _
    | refine Keeps.eqP (by with_reducible assumption) ?_
    | with_reducible apply sbControl_keeps
    | with_reducible apply drawBytes_keeps
    | with_reducible apply Keeps.ite
    | with_reducible apply Keeps.foldl
    | with_reducible apply KeepsR.next
    | with_reducible apply KeepsR.ite
    | with_reducible apply KeepsP.ite
    | with_reducible apply KeepsP.foldl
    | split
    | with_reducible apply Keeps.snd
    | with_reducible apply KeepsP.pair

theorem execGetMessageTypeSupport_keeps (inst : BitVec 5) {s : State} (hs : Keeps q w s) : KeepsR q w (execGetMessageTypeSupport inst s) := by
  unfold execGetMessageTypeSupport
  try dsimp only
  repeat' first
    | with_reducible assumption
    | intro _
    | with_reducible apply sbControl_keeps
    | with_reducible apply Keeps.ite
    | with_reducible apply Keeps.foldl
    | with_reducible apply KeepsR.next
    | with_reducible apply KeepsR.ite
    | split

theorem execGetVendorDefinedMessageSupport_keeps (inst : BitVec 5) (sel : BitVec 8) {s : State} (hs : Keeps q w s) : KeepsR q w (execGetVendorDefinedMessageSupport inst sel s) := by
  unfold execGetVendorDefinedMessageSupport
  try dsimp only
  repeat' first
    | with_reducible assumption
    | intro _
    | with_reducible apply sbControl_keeps
    | with_reducible apply Keeps.ite
    | with_reducible apply Keeps.foldl
    | with_reducible apply KeepsR.next
    | with_reducible apply KeepsR.ite
    | split

theorem sbServe_keeps {s : State} (code : Nat) (m : Bytes) (lenOk : Bool) (accepted : Bool) (go : State → Bytes → State) (hs : Keeps q w s) (hgo : ∀ x0 x1, Keeps q w x0 → Keeps q w (go x0 x1)) : KeepsR q w (sbServe s code m lenOk accepted go) := by
  unfold sbServe
  try dsimp only
  repeat' first
    | with_reducible assumption
    | intro _
    | with_reducible apply hgo
    | with_reducible apply sbAnswer_keeps
    | with_reducible apply Keeps.ite
    | with_reducible apply Keeps.foldl
    | with_reducible apply KeepsR.next
    | with_reducible apply KeepsR.ite
    | split

theorem execStatus_keeps (msg : Bytes) {s : State} (hs : Keeps q w s) : KeepsR q w (execStatus msg s) := by
  unfold execStatus
  try dsimp only
  repeat' first
    | with_reducible assumption
    | intro _
    | with_reducible apply sbServe_keeps
    | with_reducible apply sbAnswer_keeps
    | with_reducible apply Keeps.ite
    | with_reducible apply Keeps.foldl
    | with_reducible apply KeepsR.next
    | with_reducible apply KeepsR.ite
    | split

theorem execSbLedgerRead_keeps (msg : Bytes) {s : State} (hs : Keeps q w s) : KeepsR q w (execSbLedgerRead msg s) := by
  unfold execSbLedgerRead
  try dsimp only
  repeat' first
    | with_reducible assumption
    | intro _
    | with_reducible apply sbServe_keeps
    | with_reducible apply sbAnswer_keeps
    | with_reducible apply Keeps.ite
    | with_reducible apply Keeps.foldl
    | with_reducible apply KeepsR.next
    | with_reducible apply KeepsR.ite
    | split

theorem execEventRead_keeps (msg : Bytes) {s : State} (hs : Keeps q w s) : KeepsR q w (execEventRead msg s) := by
  unfold execEventRead
  try dsimp only
  repeat' first
    | with_reducible assumption
    | intro _
    | with_reducible apply sbServe_keeps
    | with_reducible apply sbAnswer_keeps
    | with_reducible apply Keeps.ite
    | with_reducible apply Keeps.foldl
    | with_reducible apply KeepsR.next
    | with_reducible apply KeepsR.ite
    | split

theorem recoveryWrite_keeps {s : State} (b : Bytes) (hs : Keeps q w s) : Keeps q w (recoveryWrite s b) := by
  unfold recoveryWrite
  try dsimp only
  repeat' first
    | with_reducible assumption
    | intro _
    | with_reducible apply sbAnswer_keeps
    | with_reducible apply setFwSlot_keeps
    | with_reducible apply deviceReset_keeps
    | with_reducible apply Keeps.ite
    | with_reducible apply Keeps.foldl
    | split
    | with_reducible apply Keeps.upd

theorem execRecoveryWrite_keeps (msg : Bytes) {s : State} (hs : Keeps q w s) : KeepsR q w (execRecoveryWrite msg s) := by
  unfold execRecoveryWrite
  try dsimp only
  repeat' first
    | with_reducible assumption
    | intro _
    | with_reducible apply recoveryWrite_keeps
    | with_reducible apply sbServe_keeps
    | with_reducible apply Keeps.ite
    | with_reducible apply Keeps.foldl
    | with_reducible apply KeepsR.next
    | with_reducible apply KeepsR.ite
    | split

theorem imageStage_keeps {s : State} (b : Bytes) (hs : Keeps q w s) : Keeps q w (imageStage s b) := by
  unfold imageStage
  try dsimp only
  repeat' first
    | with_reducible assumption
    | intro _
    | with_reducible apply sbAnswer_keeps
    | with_reducible apply Keeps.ite
    | with_reducible apply Keeps.foldl
    | split
    | with_reducible apply Keeps.upd

theorem execImageStage_keeps (msg : Bytes) {s : State} (hs : Keeps q w s) : KeepsR q w (execImageStage msg s) := by
  unfold execImageStage
  try dsimp only
  repeat' first
    | with_reducible assumption
    | intro _
    | with_reducible apply imageStage_keeps
    | with_reducible apply sbServe_keeps
    | with_reducible apply Keeps.ite
    | with_reducible apply Keeps.foldl
    | with_reducible apply KeepsR.next
    | with_reducible apply KeepsR.ite
    | split

theorem imageCommit_keeps {s : State} (b : Bytes) (hs : Keeps q w s) : Keeps q w (imageCommit s b) := by
  unfold imageCommit
  try dsimp only
  repeat' first
    | with_reducible assumption
    | intro _
    | with_reducible apply sbAnswer_keeps
    | with_reducible apply writeSelector_keeps
    | with_reducible apply Keeps.ite
    | with_reducible apply Keeps.foldl
    | split
    | with_reducible apply Keeps.upd

theorem execImageCommit_keeps (msg : Bytes) {s : State} (hs : Keeps q w s) : KeepsR q w (execImageCommit msg s) := by
  unfold execImageCommit
  try dsimp only
  repeat' first
    | with_reducible assumption
    | intro _
    | with_reducible apply imageCommit_keeps
    | with_reducible apply sbServe_keeps
    | with_reducible apply Keeps.ite
    | with_reducible apply Keeps.foldl
    | with_reducible apply KeepsR.next
    | with_reducible apply KeepsR.ite
    | split

theorem execRemeasure_keeps (msg : Bytes) {s : State} (hs : Keeps q w s) : KeepsR q w (execRemeasure msg s) := by
  unfold execRemeasure
  try dsimp only
  repeat' first
    | with_reducible assumption
    | intro _
    | with_reducible apply sbServe_keeps
    | with_reducible apply sbAnswer_keeps
    | with_reducible apply hostResetFrom_keeps
    | with_reducible apply setF_keeps
    | with_reducible apply Keeps.ite
    | with_reducible apply Keeps.foldl
    | with_reducible apply KeepsR.next
    | with_reducible apply KeepsR.ite
    | split

theorem execSbHostFlashAuth_keeps (msg : Bytes) (ledgerOk : Bool) {s : State} (hs : Keeps q w s) : KeepsR q w (execSbHostFlashAuth msg ledgerOk s) := by
  unfold execSbHostFlashAuth
  try dsimp only
  repeat' first
    | with_reducible assumption
    | intro _
    | refine Keeps.eqP (by with_reducible assumption) ?_
    | with_reducible apply sbServe_keeps
    | with_reducible apply sbAnswer_keeps
    | with_reducible apply applyAuth_keeps
    | with_reducible apply Keeps.ite
    | with_reducible apply Keeps.foldl
    | with_reducible apply KeepsR.next
    | with_reducible apply KeepsR.ite
    | with_reducible apply KeepsP.ite
    | with_reducible apply KeepsP.foldl
    | split
    | with_reducible apply Keeps.snd
    | with_reducible apply KeepsP.pair

theorem sbQuorum_keeps {s : State} (code : Nat) (op : Nat) (b : Bytes) (go : State → State) (hs : Keeps q w s) (hgo : ∀ x0, Keeps q w x0 → Keeps q w (go x0)) : Keeps q w (sbQuorum s code op b go) := by
  unfold sbQuorum
  try dsimp only
  repeat' first
    | with_reducible assumption
    | intro _
    | refine Keeps.eqP (by with_reducible assumption) ?_
    | with_reducible apply hgo
    | with_reducible apply sbAnswer_keeps
    | with_reducible apply cancelSession_keeps
    | with_reducible apply quorumNeed_keeps
    | with_reducible apply Keeps.ite
    | with_reducible apply Keeps.foldl
    | with_reducible apply KeepsP.ite
    | with_reducible apply KeepsP.foldl
    | split
    | with_reducible apply Keeps.snd
    | with_reducible apply KeepsP.pair

theorem sbTransition_keeps {s : State} (target : Nat) (quorum : Nat) (b : Bytes) (ok : Bool) (hs : Keeps q w s) : Keeps q w (sbTransition s target quorum b ok) := by
  unfold sbTransition
  try dsimp only
  repeat' first
    | with_reducible assumption
    | intro _
    | refine Keeps.eqO (by with_reducible assumption) ?_
    | with_reducible apply sbAnswer_keeps
    | with_reducible apply lifeDue_keeps
    | with_reducible apply acceptLife_keeps
    | with_reducible apply Keeps.ite
    | with_reducible apply Keeps.foldl
    | with_reducible apply KeepsO.some
    | with_reducible apply KeepsO.none
    | with_reducible apply KeepsO.ite
    | split

theorem sbLifecycle_keeps {s : State} (b : Bytes) (ok : Bool) (hs : Keeps q w s) : Keeps q w (sbLifecycle s b ok) := by
  unfold sbLifecycle
  try dsimp only
  repeat' first
    | with_reducible assumption
    | intro _
    | with_reducible apply sbTransition_keeps
    | with_reducible apply sbQuorum_keeps
    | with_reducible apply sbAnswer_keeps
    | with_reducible apply Keeps.ite
    | with_reducible apply Keeps.foldl
    | split

theorem execSbLifecycle_keeps (msg : Bytes) (ledgerOk : Bool) {s : State} (hs : Keeps q w s) : KeepsR q w (execSbLifecycle msg ledgerOk s) := by
  unfold execSbLifecycle
  try dsimp only
  repeat' first
    | with_reducible assumption
    | intro _
    | with_reducible apply sbLifecycle_keeps
    | with_reducible apply sbServe_keeps
    | with_reducible apply Keeps.ite
    | with_reducible apply Keeps.foldl
    | with_reducible apply KeepsR.next
    | with_reducible apply KeepsR.ite
    | split

theorem execQuorumCancel_keeps (msg : Bytes) {s : State} (hs : Keeps q w s) : KeepsR q w (execQuorumCancel msg s) := by
  unfold execQuorumCancel
  try dsimp only
  repeat' first
    | with_reducible assumption
    | intro _
    | with_reducible apply sbServe_keeps
    | with_reducible apply sbAnswer_keeps
    | with_reducible apply cancelSession_keeps
    | with_reducible apply Keeps.ite
    | with_reducible apply Keeps.foldl
    | with_reducible apply KeepsR.next
    | with_reducible apply KeepsR.ite
    | split

theorem execSbUnlock_keeps (msg : Bytes) {s : State} (hs : Keeps q w s) : KeepsR q w (execSbUnlock msg s) := by
  unfold execSbUnlock
  try dsimp only
  repeat' first
    | with_reducible assumption
    | intro _
    | with_reducible apply sbQuorum_keeps
    | with_reducible apply sbServe_keeps
    | with_reducible apply sbAnswer_keeps
    | with_reducible apply setF_keeps
    | with_reducible apply Keeps.ite
    | with_reducible apply Keeps.foldl
    | with_reducible apply KeepsR.next
    | with_reducible apply KeepsR.ite
    | split

theorem execCsetReplace_keeps (msg : Bytes) {s : State} (hs : Keeps q w s) : KeepsR q w (execCsetReplace msg s) := by
  unfold execCsetReplace
  try dsimp only
  repeat' first
    | with_reducible assumption
    | intro _
    | with_reducible apply sbQuorum_keeps
    | with_reducible apply sbServe_keeps
    | with_reducible apply sbAnswer_keeps
    | with_reducible apply Keeps.ite
    | with_reducible apply Keeps.foldl
    | with_reducible apply KeepsR.next
    | with_reducible apply KeepsR.ite
    | split
    | with_reducible apply Keeps.upd

theorem ownerRequest_keeps {s : State} (code : Nat) (b : Bytes) (go : State → State) (hs : Keeps q w s) (hgo : ∀ x0, Keeps q w x0 → Keeps q w (go x0)) : Keeps q w (ownerRequest s code b go) := by
  unfold ownerRequest
  try dsimp only
  repeat' first
    | with_reducible assumption
    | intro _
    | refine Keeps.eqP (by with_reducible assumption) ?_
    | with_reducible apply hgo
    | with_reducible apply sbAnswer_keeps
    | with_reducible apply drbgBytes_keeps
    | with_reducible apply Keeps.ite
    | with_reducible apply Keeps.foldl
    | with_reducible apply KeepsP.ite
    | with_reducible apply KeepsP.foldl
    | split
    | with_reducible apply Keeps.snd
    | with_reducible apply KeepsP.pair
    | with_reducible apply Keeps.upd

theorem execCardErase_keeps (msg : Bytes) {s : State} (hs : Keeps q w s) : KeepsR q w (execCardErase msg s) := by
  unfold execCardErase
  try dsimp only
  repeat' first
    | with_reducible assumption
    | intro _
    | with_reducible apply ownerRequest_keeps
    | with_reducible apply sbServe_keeps
    | with_reducible apply sbAnswer_keeps
    | with_reducible apply sdErase_keeps
    | with_reducible apply Keeps.ite
    | with_reducible apply Keeps.foldl
    | with_reducible apply KeepsR.next
    | with_reducible apply KeepsR.ite
    | split

theorem execTagOwnerErase_keeps (msg : Bytes) {s : State} (hs : Keeps q w s) : KeepsR q w (execTagOwnerErase msg s) := by
  unfold execTagOwnerErase
  try dsimp only
  repeat' first
    | with_reducible assumption
    | intro _
    | with_reducible apply ownerRequest_keeps
    | with_reducible apply sbServe_keeps
    | with_reducible apply sbAnswer_keeps
    | with_reducible apply tagErase_keeps
    | with_reducible apply Keeps.ite
    | with_reducible apply Keeps.foldl
    | with_reducible apply KeepsR.next
    | with_reducible apply KeepsR.ite
    | split

theorem execLinkTest_keeps (msg : Bytes) (lock : Bool) {s : State} (hs : Keeps q w s) : KeepsR q w (execLinkTest msg lock s) := by
  unfold execLinkTest
  try dsimp only
  repeat' first
    | with_reducible assumption
    | intro _
    | refine Keeps.eqP (by with_reducible assumption) ?_
    | with_reducible apply sbServe_keeps
    | with_reducible apply sbAnswer_keeps
    | with_reducible apply testStart_keeps
    | with_reducible apply testCtrl_keeps
    | with_reducible apply testEnds_keeps
    | with_reducible apply testCounts_keeps
    | with_reducible apply draw_keeps
    | with_reducible apply setF_keeps
    | with_reducible apply Keeps.ite
    | with_reducible apply Keeps.foldl
    | with_reducible apply KeepsR.next
    | with_reducible apply KeepsR.ite
    | with_reducible apply KeepsP.ite
    | with_reducible apply KeepsP.foldl
    | split
    | with_reducible apply Keeps.snd
    | with_reducible apply KeepsP.pair

theorem execLinkResult_keeps (msg : Bytes) {s : State} (hs : Keeps q w s) : KeepsR q w (execLinkResult msg s) := by
  unfold execLinkResult
  try dsimp only
  repeat' first
    | with_reducible assumption
    | intro _
    | with_reducible apply sbServe_keeps
    | with_reducible apply sbAnswer_keeps
    | with_reducible apply Keeps.ite
    | with_reducible apply Keeps.foldl
    | with_reducible apply KeepsR.next
    | with_reducible apply KeepsR.ite
    | split

end Sys2Proof.Machine
end

