-- ==== Sys2Proof/Laws/KeepsRegWrite.lean ====
section
/-!
SUPPORT. Laws/KeepsRegWrite.lean: what the operations of RegWrite.lean keep.
-/
namespace Sys2Proof.Machine

variable {q : List Instr} {w : FuseBits}

theorem afterRow_keeps {s : State} {r : Res} (hs : Keeps q w s) (hr : KeepsR q w r) : Keeps q w (afterRow s r) := by
  cases r with
  | next t => exact hr.out t rfl
  | fault f => exact hs
  | refused x => exact hs

theorem clearFlags_keeps {s : State} (blk : Nat) (off : Nat) (v : Nat) (hs : Keeps q w s) : Keeps q w (clearFlags s blk off v) := by
  unfold clearFlags
  try dsimp only
  repeat' first
    | with_reducible assumption
    | intro _
    | with_reducible apply writeField_keeps
    | with_reducible apply Keeps.ite
    | with_reducible apply Keeps.foldl
    | split

theorem rowsIf_nil_keeps {s : State} (hs : Keeps q w s) : Keeps q w (rowsIf s []) := hs

theorem rowsIf_keeps {s : State} {b : Bool} {f : State → Res} {l : List (Bool × (State → Res))} (hs : Keeps q w s)
    (hf : ∀ t, Keeps q w t → KeepsR q w (f t)) (hl : ∀ t, Keeps q w t → Keeps q w (rowsIf t l)) : Keeps q w (rowsIf s ((b, f) :: l)) := by
  refine hl _ ?_
  dsimp only
  split
  · exact afterRow_keeps hs (hf _ hs)
  · exact hs

theorem writeSysctl_keeps {s : State} (off : Nat) (v : Nat) (hs : Keeps q w s) : KeepsO q w (writeSysctl s off v) := by
  unfold writeSysctl
  try dsimp only
  repeat' first
    | with_reducible assumption
    | intro _
    | refine Keeps.eqP (by with_reducible assumption) ?_
    | refine Keeps.eqO (by with_reducible assumption) ?_
    | with_reducible apply afterRow_keeps
    | with_reducible apply execSysctlReleaseOpen_keeps
    | with_reducible apply execLandauRebuild_keeps
    | with_reducible apply execDeviceReset_keeps
    | with_reducible apply clearCounter_keeps
    | with_reducible apply draw_keeps
    | with_reducible apply writeReg_keeps
    | with_reducible apply Keeps.ite
    | with_reducible apply Keeps.foldl
    | with_reducible apply KeepsR.next
    | with_reducible apply KeepsR.ite
    | with_reducible apply KeepsO.some
    | with_reducible apply KeepsO.none
    | with_reducible apply KeepsO.ite
    | with_reducible apply KeepsP.ite
    | with_reducible apply KeepsP.foldl
    | split
    | with_reducible apply Keeps.snd
    | with_reducible apply KeepsP.pair

theorem writeFlashCmd_keeps {s : State} (fetch : Fin 3) (v : Nat) (hs : Keeps q w s) : Keeps q w (writeFlashCmd s fetch v) := by
  unfold writeFlashCmd
  try dsimp only
  repeat' first
    | with_reducible assumption
    | intro _
    | with_reducible apply afterRow_keeps
    | with_reducible apply execResume_keeps
    | with_reducible apply execSuspend_keeps
    | with_reducible apply execRetire_keeps
    | with_reducible apply execCheck_keeps
    | with_reducible apply execEraseRange_keeps
    | with_reducible apply execErase_keeps
    | with_reducible apply execProgram_keeps
    | with_reducible apply flashKeyed_keeps
    | with_reducible apply flashRefuse_keeps
    | with_reducible apply Keeps.ite
    | with_reducible apply Keeps.foldl
    | with_reducible apply KeepsR.next
    | with_reducible apply KeepsR.ite
    | split

theorem writeFlashc_keeps {s : State} (fetch : Fin 3) (off : Nat) (v : Nat) (hs : Keeps q w s) : KeepsO q w (writeFlashc s fetch off v) := by
  unfold writeFlashc
  try dsimp only
  repeat' first
    | with_reducible assumption
    | intro _
    | refine Keeps.eqO (by with_reducible assumption) ?_
    | with_reducible apply writeFlashCmd_keeps
    | with_reducible apply Keeps.ite
    | with_reducible apply Keeps.foldl
    | with_reducible apply KeepsO.some
    | with_reducible apply KeepsO.none
    | with_reducible apply KeepsO.ite
    | split

theorem writeTamper_keeps {s : State} (off : Nat) (v : Nat) (hs : Keeps q w s) : KeepsO q w (writeTamper s off v) := by
  unfold writeTamper
  try dsimp only
  repeat' first
    | with_reducible assumption
    | intro _
    | refine Keeps.eqO (by with_reducible assumption) ?_
    | with_reducible apply rowsIf_keeps
    | with_reducible apply afterRow_keeps
    | with_reducible apply execTamperForce_keeps
    | with_reducible apply execTamperSelftest_keeps
    | with_reducible apply execCfgLock_keeps
    | with_reducible apply execUnlock_keeps
    | with_reducible apply execZdone_keeps
    | with_reducible apply execBkgen_keeps
    | with_reducible apply execZall_keeps
    | with_reducible apply rowsIf_nil_keeps
    | with_reducible apply Keeps.ite
    | with_reducible apply Keeps.foldl
    | with_reducible apply KeepsR.next
    | with_reducible apply KeepsR.ite
    | with_reducible apply KeepsO.some
    | with_reducible apply KeepsO.none
    | with_reducible apply KeepsO.ite
    | split

theorem writeFcoll_keeps {s : State} (off : Nat) (v : Nat) (hs : Keeps q w s) : KeepsO q w (writeFcoll s off v) := by
  unfold writeFcoll
  try dsimp only
  repeat' first
    | with_reducible assumption
    | intro _
    | refine Keeps.eqO (by with_reducible assumption) ?_
    | with_reducible apply rowsIf_keeps
    | with_reducible apply afterRow_keeps
    | with_reducible apply execFcollForce_keeps
    | with_reducible apply execRclr_keeps
    | with_reducible apply execExit_keeps
    | with_reducible apply execRetireAck_keeps
    | with_reducible apply rowsIf_nil_keeps
    | with_reducible apply Keeps.ite
    | with_reducible apply Keeps.foldl
    | with_reducible apply KeepsR.next
    | with_reducible apply KeepsR.ite
    | with_reducible apply KeepsO.some
    | with_reducible apply KeepsO.none
    | with_reducible apply KeepsO.ite
    | split

theorem writePwrarb_keeps {s : State} (off : Nat) (v : Nat) (hs : Keeps q w s) : KeepsO q w (writePwrarb s off v) := by
  unfold writePwrarb
  try dsimp only
  repeat' first
    | with_reducible assumption
    | intro _
    | refine Keeps.eqO (by with_reducible assumption) ?_
    | with_reducible apply afterRow_keeps
    | with_reducible apply execModeChange_keeps
    | with_reducible apply execPwrarbDomctrl_keeps
    | with_reducible apply setF_keeps
    | with_reducible apply Keeps.ite
    | with_reducible apply Keeps.foldl
    | with_reducible apply KeepsR.next
    | with_reducible apply KeepsR.ite
    | with_reducible apply KeepsO.some
    | with_reducible apply KeepsO.none
    | with_reducible apply KeepsO.ite
    | split

theorem writeCard_keeps {s : State} (port : Fin 2) (off : Nat) (v : Nat) (hs : Keeps q w s) : KeepsO q w (writeCard s port off v) := by
  unfold writeCard
  try dsimp only
  repeat' first
    | with_reducible assumption
    | intro _
    | refine Keeps.eqO (by with_reducible assumption) ?_
    | with_reducible apply afterRow_keeps
    | with_reducible apply execCardDataAccess_keeps
    | with_reducible apply execExchange_keeps
    | with_reducible apply execWarmReset_keeps
    | with_reducible apply execDeactivate_keeps
    | with_reducible apply execActivate_keeps
    | with_reducible apply Keeps.ite
    | with_reducible apply Keeps.foldl
    | with_reducible apply KeepsR.next
    | with_reducible apply KeepsR.ite
    | with_reducible apply KeepsO.some
    | with_reducible apply KeepsO.none
    | with_reducible apply KeepsO.ite
    | split

theorem writeSdh_keeps {s : State} (off : Nat) (v : Nat) (hs : Keeps q w s) : KeepsO q w (writeSdh s off v) := by
  unfold writeSdh
  try dsimp only
  repeat' first
    | with_reducible assumption
    | intro _
    | refine Keeps.eqO (by with_reducible assumption) ?_
    | with_reducible apply afterRow_keeps
    | with_reducible apply execPowerOff_keeps
    | with_reducible apply execSdhUnlock_keeps
    | with_reducible apply execSetLock_keeps
    | with_reducible apply execForceErase_keeps
    | with_reducible apply execSdhRead_keeps
    | with_reducible apply execSdhWrite_keeps
    | with_reducible apply Keeps.ite
    | with_reducible apply Keeps.foldl
    | with_reducible apply KeepsR.next
    | with_reducible apply KeepsR.ite
    | with_reducible apply KeepsO.some
    | with_reducible apply KeepsO.none
    | with_reducible apply KeepsO.ite
    | split

theorem writeTag_keeps {s : State} (fetch : Fin 3) (off : Nat) (v : Nat) (hs : Keeps q w s) : KeepsO q w (writeTag s fetch off v) := by
  unfold writeTag
  try dsimp only
  repeat' first
    | with_reducible assumption
    | intro _
    | refine Keeps.eqO (by with_reducible assumption) ?_
    | with_reducible apply afterRow_keeps
    | with_reducible apply execTagErase_keeps
    | with_reducible apply execTagWrite_keeps
    | with_reducible apply Keeps.ite
    | with_reducible apply Keeps.foldl
    | with_reducible apply KeepsR.next
    | with_reducible apply KeepsR.ite
    | with_reducible apply KeepsO.some
    | with_reducible apply KeepsO.none
    | with_reducible apply KeepsO.ite
    | split

theorem writeSideb_keeps {s : State} (off : Nat) (v : Nat) (hs : Keeps q w s) : KeepsO q w (writeSideb s off v) := by
  unfold writeSideb
  try dsimp only
  repeat' first
    | with_reducible assumption
    | intro _
    | refine Keeps.eqO (by with_reducible assumption) ?_
    | with_reducible apply afterRow_keeps
    | with_reducible apply execSidebSend_keeps
    | with_reducible apply execSidebTxdataWrite_keeps
    | with_reducible apply Keeps.ite
    | with_reducible apply Keeps.foldl
    | with_reducible apply KeepsR.next
    | with_reducible apply KeepsR.ite
    | with_reducible apply KeepsO.some
    | with_reducible apply KeepsO.none
    | with_reducible apply KeepsO.ite
    | split

theorem writeTestCtrl_keeps {s : State} (land : Bool) (v : Nat) (hs : Keeps q w s) : Keeps q w (writeTestCtrl s land v) := by
  unfold writeTestCtrl
  try dsimp only
  repeat' first
    | with_reducible assumption
    | intro _
    | refine Keeps.eqP (by with_reducible assumption) ?_
    | with_reducible apply afterRow_keeps
    | with_reducible apply execPatternTestStop_keeps
    | with_reducible apply execPatternTestStart_keeps
    | with_reducible apply draw_keeps
    | with_reducible apply Keeps.ite
    | with_reducible apply Keeps.foldl
    | with_reducible apply KeepsR.next
    | with_reducible apply KeepsR.ite
    | with_reducible apply KeepsP.ite
    | with_reducible apply KeepsP.foldl
    | split
    | with_reducible apply Keeps.snd
    | with_reducible apply KeepsP.pair

theorem writeDebug_keeps {s : State} (off : Nat) (v : Nat) (hs : Keeps q w s) : KeepsO q w (writeDebug s off v) := by
  unfold writeDebug
  try dsimp only
  repeat' first
    | with_reducible assumption
    | intro _
    | refine Keeps.eqO (by with_reducible assumption) ?_
    | with_reducible apply afterRow_keeps
    | with_reducible apply execRefuse_keeps
    | with_reducible apply execGrant_keeps
    | with_reducible apply Keeps.ite
    | with_reducible apply Keeps.foldl
    | with_reducible apply KeepsR.next
    | with_reducible apply KeepsR.ite
    | with_reducible apply KeepsO.some
    | with_reducible apply KeepsO.none
    | with_reducible apply KeepsO.ite
    | split

theorem writeHostspi_keeps {s : State} (off : Nat) (v : Nat) (hs : Keeps q w s) : KeepsO q w (writeHostspi s off v) := by
  unfold writeHostspi
  try dsimp only
  repeat' first
    | with_reducible assumption
    | intro _
    | refine Keeps.eqO (by with_reducible assumption) ?_
    | with_reducible apply rowsIf_keeps
    | with_reducible apply execHostspiRelease_keeps
    | with_reducible apply execHostspiMeasure_keeps
    | with_reducible apply execHostspiLoad_keeps
    | with_reducible apply rowsIf_nil_keeps
    | with_reducible apply Keeps.ite
    | with_reducible apply Keeps.foldl
    | with_reducible apply KeepsR.next
    | with_reducible apply KeepsR.ite
    | with_reducible apply KeepsO.some
    | with_reducible apply KeepsO.none
    | with_reducible apply KeepsO.ite
    | split

theorem writeMpuG_keeps {s : State} (off : Nat) (v : Nat) (hs : Keeps q w s) : KeepsO q w (writeMpuG s off v) := by
  unfold writeMpuG
  try dsimp only
  repeat' first
    | with_reducible assumption
    | intro _
    | refine Keeps.eqO (by with_reducible assumption) ?_
    | with_reducible apply clearFlags_keeps
    | with_reducible apply afterRow_keeps
    | with_reducible apply execMpuViolClear_keeps
    | with_reducible apply execMpuSync_keeps
    | with_reducible apply Keeps.ite
    | with_reducible apply Keeps.foldl
    | with_reducible apply KeepsR.next
    | with_reducible apply KeepsR.ite
    | with_reducible apply KeepsO.some
    | with_reducible apply KeepsO.none
    | with_reducible apply KeepsO.ite
    | split

theorem writeEvrec_keeps {s : State} (off : Nat) (v : Nat) (hs : Keeps q w s) : KeepsO q w (writeEvrec s off v) := by
  unfold writeEvrec
  try dsimp only
  repeat' first
    | with_reducible assumption
    | intro _
    | refine Keeps.eqO (by with_reducible assumption) ?_
    | with_reducible apply afterRow_keeps
    | with_reducible apply execEvrecFreeze_keeps
    | with_reducible apply execEvrecSw_keeps
    | with_reducible apply Keeps.ite
    | with_reducible apply Keeps.foldl
    | with_reducible apply KeepsR.next
    | with_reducible apply KeepsR.ite
    | with_reducible apply KeepsO.some
    | with_reducible apply KeepsO.none
    | with_reducible apply KeepsO.ite
    | split

theorem writeSpke_keeps {s : State} (off : Nat) (v : Nat) (hs : Keeps q w s) : KeepsO q w (writeSpke s off v) := by
  unfold writeSpke
  try dsimp only
  repeat' first
    | with_reducible assumption
    | intro _
    | refine Keeps.eqO (by with_reducible assumption) ?_
    | with_reducible apply spkeGo_keeps
    | with_reducible apply Keeps.ite
    | with_reducible apply Keeps.foldl
    | with_reducible apply KeepsO.some
    | with_reducible apply KeepsO.none
    | with_reducible apply KeepsO.ite
    | split

theorem writeSciph_keeps {s : State} (off : Nat) (v : Nat) (hs : Keeps q w s) : KeepsO q w (writeSciph s off v) := by
  unfold writeSciph
  try dsimp only
  repeat' first
    | with_reducible assumption
    | intro _
    | refine Keeps.eqO (by with_reducible assumption) ?_
    | with_reducible apply sciphGo_keeps
    | with_reducible apply Keeps.ite
    | with_reducible apply Keeps.foldl
    | with_reducible apply KeepsO.some
    | with_reducible apply KeepsO.none
    | with_reducible apply KeepsO.ite
    | split

theorem writeGecko_keeps {s : State} (fetch : Fin 3) (blk : Nat) (off : Nat) (v : Nat) (hs : Keeps q w s) : KeepsO q w (writeGecko s fetch blk off v) := by
  unfold writeGecko
  try dsimp only
  repeat' first
    | with_reducible assumption
    | intro _
    | refine Keeps.eqO (by with_reducible assumption) ?_
    | with_reducible apply writeSciph_keeps
    | with_reducible apply writeSpke_keeps
    | with_reducible apply writeEvrec_keeps
    | with_reducible apply writeMpuG_keeps
    | with_reducible apply writeHostspi_keeps
    | with_reducible apply writeDebug_keeps
    | with_reducible apply writeTestCtrl_keeps
    | with_reducible apply writeSideb_keeps
    | with_reducible apply writeTag_keeps
    | with_reducible apply writeSdh_keeps
    | with_reducible apply writeCard_keeps
    | with_reducible apply writePwrarb_keeps
    | with_reducible apply writeFcoll_keeps
    | with_reducible apply writeTamper_keeps
    | with_reducible apply writeFlashc_keeps
    | with_reducible apply writeSysctl_keeps
    | with_reducible apply afterRow_keeps
    | with_reducible apply execRtcSet_keeps
    | with_reducible apply splitCores_keeps
    | with_reducible apply execSrcEn_keeps
    | with_reducible apply serviceRefresh_keeps
    | with_reducible apply execFuseProgram_keeps
    | with_reducible apply writeReg_keeps
    | with_reducible apply Keeps.ite
    | with_reducible apply Keeps.foldl
    | with_reducible apply KeepsR.next
    | with_reducible apply KeepsR.ite
    | with_reducible apply KeepsO.some
    | with_reducible apply KeepsO.none
    | with_reducible apply KeepsO.ite
    | split

theorem dropRequest_keeps {s : State} (blk : Nat) (hs : Keeps q w s) : Keeps q w (dropRequest s blk) := by
  unfold dropRequest
  try dsimp only
  repeat' first
    | with_reducible assumption
    | intro _
    | with_reducible apply Keeps.ite
    | with_reducible apply Keeps.foldl
    | split
    | with_reducible apply Keeps.upd

theorem geckoRegWrite_keeps {s : State} (fetch : Fin 3) (blk : Nat) (off : Nat) (v : Nat) (hs : Keeps q w s) : Keeps q w (geckoRegWrite s fetch blk off v) := by
  unfold geckoRegWrite
  try dsimp only
  repeat' first
    | with_reducible assumption
    | intro _
    | refine Keeps.eqO (by with_reducible assumption) ?_
    | with_reducible apply dropRequest_keeps
    | with_reducible apply writeGecko_keeps
    | with_reducible apply writeReg_keeps
    | with_reducible apply Keeps.ite
    | with_reducible apply Keeps.foldl
    | with_reducible apply KeepsO.some
    | with_reducible apply KeepsO.none
    | with_reducible apply KeepsO.ite
    | split

theorem writeStruct_keeps {s : State} (off : Nat) (v : Nat) (hs : Keeps q w s) : KeepsO q w (writeStruct s off v) := by
  unfold writeStruct
  try dsimp only
  repeat' first
    | with_reducible assumption
    | intro _
    | refine Keeps.eqO (by with_reducible assumption) ?_
    | with_reducible apply afterRow_keeps
    | with_reducible apply execAmendCommit_keeps
    | with_reducible apply execStructDrain_keeps
    | with_reducible apply execStructCommit_keeps
    | with_reducible apply execStructDataWrite_keeps
    | with_reducible apply execStructSelWrite_keeps
    | with_reducible apply execStructAbandon_keeps
    | with_reducible apply execStructBegin_keeps
    | with_reducible apply Keeps.ite
    | with_reducible apply Keeps.foldl
    | with_reducible apply KeepsR.next
    | with_reducible apply KeepsR.ite
    | with_reducible apply KeepsO.some
    | with_reducible apply KeepsO.none
    | with_reducible apply KeepsO.ite
    | split

theorem writeKcache_keeps {s : State} (off : Nat) (v : Nat) (hs : Keeps q w s) : KeepsO q w (writeKcache s off v) := by
  unfold writeKcache
  try dsimp only
  repeat' first
    | with_reducible assumption
    | intro _
    | refine Keeps.eqO (by with_reducible assumption) ?_
    | with_reducible apply afterRow_keeps
    | with_reducible apply execKcacheZeroise_keeps
    | with_reducible apply execKcacheEvictAll_keeps
    | with_reducible apply execKcacheEvictDomain_keeps
    | with_reducible apply zeroCuts_keeps
    | with_reducible apply Keeps.ite
    | with_reducible apply Keeps.foldl
    | with_reducible apply KeepsR.next
    | with_reducible apply KeepsR.ite
    | with_reducible apply KeepsO.some
    | with_reducible apply KeepsO.none
    | with_reducible apply KeepsO.ite
    | split

theorem writeMpuL_keeps {s : State} (off : Nat) (v : Nat) (hs : Keeps q w s) : KeepsO q w (writeMpuL s off v) := by
  unfold writeMpuL
  try dsimp only
  repeat' first
    | with_reducible assumption
    | intro _
    | refine Keeps.eqO (by with_reducible assumption) ?_
    | with_reducible apply clearFlags_keeps
    | with_reducible apply afterRow_keeps
    | with_reducible apply execMpuViolClear_keeps
    | with_reducible apply execMpuSync_keeps
    | with_reducible apply Keeps.ite
    | with_reducible apply Keeps.foldl
    | with_reducible apply KeepsR.next
    | with_reducible apply KeepsR.ite
    | with_reducible apply KeepsO.some
    | with_reducible apply KeepsO.none
    | with_reducible apply KeepsO.ite
    | split

theorem writeHbmc_keeps {s : State} (k : Fin 4) (off : Nat) (v : Nat) (hs : Keeps q w s) : KeepsO q w (writeHbmc s k off v) := by
  unfold writeHbmc
  try dsimp only
  repeat' first
    | with_reducible assumption
    | intro _
    | refine Keeps.eqO (by with_reducible assumption) ?_
    | with_reducible apply afterRow_keeps
    | with_reducible apply execHbmcSwap_keeps
    | with_reducible apply Keeps.ite
    | with_reducible apply Keeps.foldl
    | with_reducible apply KeepsR.next
    | with_reducible apply KeepsR.ite
    | with_reducible apply KeepsO.some
    | with_reducible apply KeepsO.none
    | with_reducible apply KeepsO.ite
    | split

theorem writeStage_keeps {s : State} (k : Nat) (off : Nat) (v : Nat) (hs : Keeps q w s) : KeepsO q w (writeStage s k off v) := by
  unfold writeStage
  try dsimp only
  repeat' first
    | with_reducible assumption
    | intro _
    | refine Keeps.eqO (by with_reducible assumption) ?_
    | with_reducible apply setF_keeps
    | with_reducible apply Keeps.ite
    | with_reducible apply Keeps.foldl
    | with_reducible apply KeepsO.some
    | with_reducible apply KeepsO.none
    | with_reducible apply KeepsO.ite
    | split

theorem writePkec_keeps {s : State} (sealedSup : Bool) (k : Fin 16) (off : Nat) (v : Nat) (hs : Keeps q w s) : KeepsO q w (writePkec s sealedSup k off v) := by
  unfold writePkec
  try dsimp only
  repeat' first
    | with_reducible assumption
    | intro _
    | refine Keeps.eqO (by with_reducible assumption) ?_
    | with_reducible apply clearFlags_keeps
    | with_reducible apply afterRow_keeps
    | with_reducible apply execPkecSelftest_keeps
    | with_reducible apply execPkecCombRefresh_keeps
    | with_reducible apply Keeps.ite
    | with_reducible apply Keeps.foldl
    | with_reducible apply KeepsR.next
    | with_reducible apply KeepsR.ite
    | with_reducible apply KeepsO.some
    | with_reducible apply KeepsO.none
    | with_reducible apply KeepsO.ite
    | split

theorem writeCipc_keeps {s : State} (sealedSup : Bool) (k : Fin 8) (off : Nat) (v : Nat) (hs : Keeps q w s) : KeepsO q w (writeCipc s sealedSup k off v) := by
  unfold writeCipc
  try dsimp only
  repeat' first
    | with_reducible assumption
    | intro _
    | refine Keeps.eqO (by with_reducible assumption) ?_
    | with_reducible apply afterRow_keeps
    | with_reducible apply execCipcSelftest_keeps
    | with_reducible apply execCipcLockHold_keeps
    | with_reducible apply Keeps.ite
    | with_reducible apply Keeps.foldl
    | with_reducible apply KeepsR.next
    | with_reducible apply KeepsR.ite
    | with_reducible apply KeepsO.some
    | with_reducible apply KeepsO.none
    | with_reducible apply KeepsO.ite
    | split

theorem writeLandau_keeps {s : State} (sealedSup : Bool) (blk : Nat) (off : Nat) (v : Nat) (hs : Keeps q w s) : KeepsO q w (writeLandau s sealedSup blk off v) := by
  unfold writeLandau
  try dsimp only
  repeat' first
    | with_reducible assumption
    | intro _
    | refine Keeps.eqO (by with_reducible assumption) ?_
    | with_reducible apply writeCipc_keeps
    | with_reducible apply writePkec_keeps
    | with_reducible apply writeStage_keeps
    | with_reducible apply writeHbmc_keeps
    | with_reducible apply writeMpuL_keeps
    | with_reducible apply writeKcache_keeps
    | with_reducible apply writeStruct_keeps
    | with_reducible apply writeTestCtrl_keeps
    | with_reducible apply Keeps.ite
    | with_reducible apply Keeps.foldl
    | with_reducible apply KeepsO.some
    | with_reducible apply KeepsO.none
    | with_reducible apply KeepsO.ite
    | split

theorem landauRegWrite_keeps {s : State} (sealedSup : Bool) (blk : Nat) (off : Nat) (v : Nat) (hs : Keeps q w s) : Keeps q w (landauRegWrite s sealedSup blk off v) := by
  unfold landauRegWrite
  try dsimp only
  repeat' first
    | with_reducible assumption
    | intro _
    | refine Keeps.eqO (by with_reducible assumption) ?_
    | with_reducible apply writeLandau_keeps
    | with_reducible apply writeReg_keeps
    | with_reducible apply Keeps.ite
    | with_reducible apply Keeps.foldl
    | with_reducible apply KeepsO.some
    | with_reducible apply KeepsO.none
    | with_reducible apply KeepsO.ite
    | split

theorem busWrite_keeps {s : State} (sealedSup : Bool) (fetch : Fin 3) (blk : Nat) (off : Nat) (n : Nat) (v : Nat) (hs : Keeps q w s) : Keeps q w (busWrite s sealedSup fetch blk off n v) := by
  unfold busWrite
  try dsimp only
  repeat' first
    | with_reducible assumption
    | intro _
    | with_reducible apply landauRegWrite_keeps
    | with_reducible apply geckoRegWrite_keeps
    | with_reducible apply Keeps.ite
    | with_reducible apply Keeps.foldl
    | split

theorem writeMsix_keeps {s : State} (fn : Nat) (off : Nat) (v : Nat) (hs : Keeps q w s) : Keeps q w (writeMsix s fn off v) := by
  unfold writeMsix
  try dsimp only
  repeat' first
    | with_reducible assumption
    | intro _
    | with_reducible apply flushPending_keeps
    | with_reducible apply putMsix_keeps
    | with_reducible apply Keeps.ite
    | with_reducible apply Keeps.foldl
    | split

theorem bar0Write_keeps {s : State} (fn : Nat) (off : Nat) (v : Nat) (hs : Keeps q w s) : Keeps q w (bar0Write s fn off v) := by
  unfold bar0Write
  try dsimp only
  repeat' first
    | with_reducible assumption
    | intro _
    | with_reducible apply writeMsix_keeps
    | with_reducible apply afterRow_keeps
    | with_reducible apply execAdminDisable_keeps
    | with_reducible apply execAdminEnable_keeps
    | with_reducible apply execCqHeadDoorbell_keeps
    | with_reducible apply execSqTailDoorbell_keeps
    | with_reducible apply writeReg_keeps
    | with_reducible apply Keeps.ite
    | with_reducible apply Keeps.foldl
    | with_reducible apply KeepsR.next
    | with_reducible apply KeepsR.ite
    | split

theorem bar0Part_keeps {s : State} (fn : Nat) (off : Nat) (n : Nat) (v : Nat) (hs : Keeps q w s) : Keeps q w (bar0Part s fn off n v) := by
  unfold bar0Part
  try dsimp only
  repeat' first
    | with_reducible assumption
    | intro _
    | with_reducible apply bar0Write_keeps
    | with_reducible apply Keeps.ite
    | with_reducible apply Keeps.foldl
    | split

theorem hostWrite_keeps {s : State} (fn : Nat) (off : Nat) (n : Nat) (v : Nat) (hs : Keeps q w s) : Keeps q w (hostWrite s fn off n v) := by
  unfold hostWrite
  try dsimp only
  repeat' first
    | with_reducible assumption
    | intro _
    | with_reducible apply bar0Part_keeps
    | with_reducible apply Keeps.ite
    | with_reducible apply Keeps.foldl
    | split
    | with_reducible apply Keeps.upd

theorem configWrite_keeps {s : State} (off : Nat) (v : Nat) (hs : Keeps q w s) : Keeps q w (configWrite s off v) := by
  unfold configWrite
  try dsimp only
  repeat' first
    | with_reducible assumption
    | intro _
    | with_reducible apply afterRow_keeps
    | with_reducible apply execBusMasterEnableClear_keeps
    | with_reducible apply execVfEnableClear_keeps
    | with_reducible apply flushPending_keeps
    | with_reducible apply Keeps.ite
    | with_reducible apply Keeps.foldl
    | with_reducible apply KeepsR.next
    | with_reducible apply KeepsR.ite
    | split
    | with_reducible apply Keeps.upd

end Sys2Proof.Machine
end

