-- ==== Sys2Proof/Laws/KeepsBus.lean ====
section
/-!
SUPPORT. Laws/KeepsBus.lean: what the operations of Bus.lean keep.
-/
namespace Sys2Proof.Machine

variable {q : List Instr} {w : FuseBits}

theorem readEffect_keeps {s : State} (blk : Nat) (off : Nat) (hs : Keeps q w s) : Keeps q w (readEffect s blk off) := by
  unfold readEffect
  try dsimp only
  repeat' first
    | with_reducible assumption
    | intro _
    | with_reducible apply afterRow_keeps
    | with_reducible apply execSidebRxdataRead_keeps
    | with_reducible apply execTamperCelllogRead_keeps
    | with_reducible apply execCardDataAccess_keeps
    | with_reducible apply execRngRawRead_keeps
    | with_reducible apply execRngDataRead_keeps
    | with_reducible apply Keeps.ite
    | with_reducible apply Keeps.foldl
    | with_reducible apply KeepsR.next
    | with_reducible apply KeepsR.ite
    | split

theorem busRead_keeps {s : State} (blk : Nat) (off : Nat) (n : Nat) (hs : Keeps q w s) : KeepsP q w (busRead s blk off n) := by
  unfold busRead
  try dsimp only
  repeat' first
    | with_reducible assumption
    | intro _
    | refine Keeps.eqP (by with_reducible assumption) ?_
    | with_reducible apply readEffect_keeps
    | with_reducible apply Keeps.ite
    | with_reducible apply Keeps.foldl
    | with_reducible apply KeepsP.ite
    | with_reducible apply KeepsP.foldl
    | split
    | with_reducible apply Keeps.snd
    | with_reducible apply KeepsP.pair

end Sys2Proof.Machine
end

