-- ==== Sys2Proof/Laws/KeepsCluster.lean ====
section
/-!
SUPPORT. Laws/KeepsCluster.lean: what the operations of Cluster.lean keep.
-/
namespace Sys2Proof.Machine

variable {q : List Instr} {w : FuseBits}

theorem deviceSign_keeps {s : State} (b : Bytes) (hs : Keeps q w s) : KeepsP q w (deviceSign s b) := by
  unfold deviceSign
  try dsimp only
  repeat' first
    | with_reducible assumption
    | intro _
    | refine Keeps.eqP (by with_reducible assumption) ?_
    | with_reducible apply spkeSign_keeps
    | with_reducible apply drawBytes_keeps
    | with_reducible apply Keeps.ite
    | with_reducible apply Keeps.foldl
    | with_reducible apply KeepsP.ite
    | with_reducible apply KeepsP.foldl
    | split
    | with_reducible apply Keeps.snd
    | with_reducible apply KeepsP.pair

theorem memberCert_keeps {s : State} (cid : Bytes) (mekPub : Bytes) (hs : Keeps q w s) : KeepsP q w (memberCert s cid mekPub) := by
  unfold memberCert
  try dsimp only
  repeat' first
    | with_reducible assumption
    | intro _
    | refine Keeps.eqP (by with_reducible assumption) ?_
    | with_reducible apply deviceSign_keeps
    | with_reducible apply Keeps.ite
    | with_reducible apply Keeps.foldl
    | with_reducible apply KeepsP.ite
    | with_reducible apply KeepsP.foldl
    | split
    | with_reducible apply Keeps.snd
    | with_reducible apply KeepsP.pair

theorem pinMek_keeps {s : State} (hs : Keeps q w s) : Keeps q w (pinMek s) := by
  unfold pinMek
  try dsimp only
  repeat' first
    | with_reducible assumption
    | intro _
    | with_reducible apply kcLoad_keeps
    | with_reducible apply Keeps.ite
    | with_reducible apply Keeps.foldl
    | split

theorem mekSign_keeps {s : State} (b : Bytes) (hs : Keeps q w s) : KeepsP q w (mekSign s b) := by
  unfold mekSign
  try dsimp only
  repeat' first
    | with_reducible assumption
    | intro _
    | refine Keeps.eqP (by with_reducible assumption) ?_
    | with_reducible apply spkeSign_keeps
    | with_reducible apply kcUse_keeps
    | with_reducible apply drawBytes_keeps
    | with_reducible apply Keeps.ite
    | with_reducible apply Keeps.foldl
    | with_reducible apply KeepsP.ite
    | with_reducible apply KeepsP.foldl
    | split
    | with_reducible apply Keeps.snd
    | with_reducible apply KeepsP.pair

theorem effMemberRequest_keeps {s : State} (cid : Bytes) (hs : Keeps q w s) : KeepsL q w (effMemberRequest s cid) := by
  unfold effMemberRequest
  try dsimp only
  repeat' first
    | with_reducible assumption
    | intro _
    | refine Keeps.eqP (by with_reducible assumption) ?_
    | refine Keeps.eqL (by with_reducible assumption) ?_
    | with_reducible apply pinMek_keeps
    | with_reducible apply memberCert_keeps
    | with_reducible apply drawBytes_keeps
    | with_reducible apply Keeps.ite
    | with_reducible apply Keeps.foldl
    | with_reducible apply KeepsP.ite
    | with_reducible apply KeepsP.foldl
    | with_reducible apply KeepsL.ite
    | with_reducible apply KeepsL.foldl
    | split
    | with_reducible apply Keeps.snd
    | with_reducible apply KeepsP.pair
    | with_reducible apply Keeps.fst
    | with_reducible apply KeepsL.pair
    | with_reducible apply Keeps.upd

theorem stIssue_keeps {s : State} (x : StIn) (hs : Keeps q w s) : KeepsP q w (stIssue s x) := by
  unfold stIssue
  try dsimp only
  repeat' first
    | with_reducible assumption
    | intro _
    | refine Keeps.eqP (by with_reducible assumption) ?_
    | with_reducible apply mekSign_keeps
    | with_reducible apply Keeps.ite
    | with_reducible apply Keeps.foldl
    | with_reducible apply KeepsP.ite
    | with_reducible apply KeepsP.foldl
    | split
    | with_reducible apply Keeps.snd
    | with_reducible apply KeepsP.pair
    | with_reducible apply Keeps.upd

theorem putRole_keeps {s : State} (d : Nat) (x : Domain) (hs : Keeps q w s) : Keeps q w (putRole s d x) := by
  unfold putRole
  try dsimp only
  repeat' first
    | with_reducible assumption
    | intro _
    | with_reducible apply logDmk_keeps
    | with_reducible apply setDomain_keeps
    | with_reducible apply Keeps.ite
    | with_reducible apply Keeps.foldl
    | split

theorem takeRole_keeps {s : State} (d : Nat) (x : Domain) (hs : Keeps q w s) : Keeps q w (takeRole s d x) := by
  unfold takeRole
  try dsimp only
  repeat' first
    | with_reducible assumption
    | intro _
    | with_reducible apply putRole_keeps
    | with_reducible apply updDomainKeys_keeps
    | with_reducible apply Keeps.ite
    | with_reducible apply Keeps.foldl
    | split

theorem raiseVersion_keeps {s : State} (d : Nat) (v : Nat × Nat) (primary : Nat) (last : Option Nat) (hs : Keeps q w s) : Keeps q w (raiseVersion s d v primary last) := by
  unfold raiseVersion
  try dsimp only
  repeat' first
    | with_reducible assumption
    | intro _
    | with_reducible apply takeRole_keeps
    | with_reducible apply Keeps.ite
    | with_reducible apply Keeps.foldl
    | split
    | with_reducible apply Keeps.upd

theorem leaveCluster_keeps {s : State} (hs : Keeps q w s) : Keeps q w (leaveCluster s) := by
  unfold leaveCluster
  try dsimp only
  repeat' first
    | with_reducible assumption
    | intro _
    | with_reducible apply eraseDomain_keeps
    | with_reducible apply Keeps.ite
    | with_reducible apply Keeps.foldl
    | split
    | with_reducible apply Keeps.upd

theorem epochSat_keeps {s : State} (hs : Keeps q w s) : Keeps q w (epochSat s) := by
  unfold epochSat
  try dsimp only
  repeat' first
    | with_reducible assumption
    | intro _
    | with_reducible apply occur_keeps
    | with_reducible apply Keeps.ite
    | with_reducible apply Keeps.foldl
    | split

theorem applyStatement_keeps {s : State} (b : Bytes) (hs : Keeps q w s) : Keeps q w (applyStatement s b) := by
  unfold applyStatement
  try dsimp only
  repeat' first
    | with_reducible assumption
    | intro _
    | with_reducible apply epochSat_keeps
    | with_reducible apply leaveCluster_keeps
    | with_reducible apply raiseVersion_keeps
    | with_reducible apply Keeps.ite
    | with_reducible apply Keeps.foldl
    | split
    | with_reducible apply Keeps.upd

theorem effApplyEpoch_keeps {s : State} (b : Bytes) (hs : Keeps q w s) : KeepsL q w (effApplyEpoch s b) := by
  unfold effApplyEpoch
  try dsimp only
  repeat' first
    | with_reducible assumption
    | intro _
    | refine Keeps.eqL (by with_reducible assumption) ?_
    | with_reducible apply applyStatement_keeps
    | with_reducible apply epochSat_keeps
    | with_reducible apply Keeps.ite
    | with_reducible apply Keeps.foldl
    | with_reducible apply KeepsL.ite
    | with_reducible apply KeepsL.foldl
    | split
    | with_reducible apply Keeps.fst
    | with_reducible apply KeepsL.pair
    | with_reducible apply Keeps.upd

theorem effFound_keeps {s : State} (hs : Keeps q w s) : KeepsL q w (effFound s) := by
  unfold effFound
  try dsimp only
  repeat' first
    | with_reducible assumption
    | intro _
    | refine Keeps.eqP (by with_reducible assumption) ?_
    | refine Keeps.eqL (by with_reducible assumption) ?_
    | with_reducible apply stIssue_keeps
    | with_reducible apply memberCert_keeps
    | with_reducible apply draw_keeps
    | with_reducible apply Keeps.ite
    | with_reducible apply Keeps.foldl
    | with_reducible apply KeepsP.ite
    | with_reducible apply KeepsP.foldl
    | with_reducible apply KeepsL.ite
    | with_reducible apply KeepsL.foldl
    | split
    | with_reducible apply Keeps.snd
    | with_reducible apply KeepsP.pair
    | with_reducible apply Keeps.fst
    | with_reducible apply KeepsL.pair
    | with_reducible apply Keeps.upd

theorem effIssue_keeps {s : State} (action : Nat) (subject : Nat) (domain : Nat) (input : Bytes) (hs : Keeps q w s) : KeepsL q w (effIssue s action subject domain input) := by
  unfold effIssue
  try dsimp only
  repeat' first
    | with_reducible assumption
    | intro _
    | refine Keeps.eqP (by with_reducible assumption) ?_
    | refine Keeps.eqL (by with_reducible assumption) ?_
    | with_reducible apply stIssue_keeps
    | with_reducible apply Keeps.ite
    | with_reducible apply Keeps.foldl
    | with_reducible apply KeepsP.ite
    | with_reducible apply KeepsP.foldl
    | with_reducible apply KeepsL.ite
    | with_reducible apply KeepsL.foldl
    | split
    | with_reducible apply Keeps.snd
    | with_reducible apply KeepsP.pair
    | with_reducible apply Keeps.fst
    | with_reducible apply KeepsL.pair

theorem effEndorse_keeps {s : State} (b : Bytes) (hs : Keeps q w s) : KeepsL q w (effEndorse s b) := by
  unfold effEndorse
  try dsimp only
  repeat' first
    | with_reducible assumption
    | intro _
    | refine Keeps.eqP (by with_reducible assumption) ?_
    | refine Keeps.eqL (by with_reducible assumption) ?_
    | with_reducible apply mekSign_keeps
    | with_reducible apply Keeps.ite
    | with_reducible apply Keeps.foldl
    | with_reducible apply KeepsP.ite
    | with_reducible apply KeepsP.foldl
    | with_reducible apply KeepsL.ite
    | with_reducible apply KeepsL.foldl
    | split
    | with_reducible apply Keeps.snd
    | with_reducible apply KeepsP.pair
    | with_reducible apply Keeps.fst
    | with_reducible apply KeepsL.pair
    | with_reducible apply Keeps.upd

theorem sealBundle_keeps {s : State} (kind : Nat) (d : Nat) (rcpt : Nat) (pub : Bytes) (hs : Keeps q w s) : KeepsP q w (sealBundle s kind d rcpt pub) := by
  unfold sealBundle
  try dsimp only
  repeat' first
    | with_reducible assumption
    | intro _
    | refine Keeps.eqP (by with_reducible assumption) ?_
    | with_reducible apply mekSign_keeps
    | with_reducible apply kcUse_keeps
    | with_reducible apply drawBytes_keeps
    | with_reducible apply Keeps.ite
    | with_reducible apply Keeps.foldl
    | with_reducible apply KeepsP.ite
    | with_reducible apply KeepsP.foldl
    | split
    | with_reducible apply Keeps.snd
    | with_reducible apply KeepsP.pair

theorem clusterDomain_keeps {s : State} (d : Nat) (hs : Keeps q w s) : Keeps q w (clusterDomain s d) := by
  unfold clusterDomain
  try dsimp only
  repeat' first
    | with_reducible assumption
    | intro _
    | with_reducible apply putRole_keeps
    | with_reducible apply Keeps.ite
    | with_reducible apply Keeps.foldl
    | split
    | with_reducible apply Keeps.upd

theorem effSealBundle_keeps {s : State} (d : Nat) (m : Bytes) (hs : Keeps q w s) : KeepsL q w (effSealBundle s d m) := by
  unfold effSealBundle
  try dsimp only
  repeat' first
    | with_reducible assumption
    | intro _
    | refine Keeps.eqP (by with_reducible assumption) ?_
    | refine Keeps.eqL (by with_reducible assumption) ?_
    | with_reducible apply clusterDomain_keeps
    | with_reducible apply sealBundle_keeps
    | with_reducible apply Keeps.ite
    | with_reducible apply Keeps.foldl
    | with_reducible apply KeepsP.ite
    | with_reducible apply KeepsP.foldl
    | with_reducible apply KeepsL.ite
    | with_reducible apply KeepsL.foldl
    | split
    | with_reducible apply Keeps.snd
    | with_reducible apply KeepsP.pair
    | with_reducible apply Keeps.fst
    | with_reducible apply KeepsL.pair

theorem effHandover_keeps {s : State} (d : Nat) (m : Bytes) (hs : Keeps q w s) : KeepsL q w (effHandover s d m) := by
  unfold effHandover
  try dsimp only
  repeat' first
    | with_reducible assumption
    | intro _
    | refine Keeps.eqP (by with_reducible assumption) ?_
    | refine Keeps.eqL (by with_reducible assumption) ?_
    | with_reducible apply sealBundle_keeps
    | with_reducible apply putRole_keeps
    | with_reducible apply Keeps.ite
    | with_reducible apply Keeps.foldl
    | with_reducible apply KeepsP.ite
    | with_reducible apply KeepsP.foldl
    | with_reducible apply KeepsL.ite
    | with_reducible apply KeepsL.foldl
    | split
    | with_reducible apply Keeps.snd
    | with_reducible apply KeepsP.pair
    | with_reducible apply Keeps.fst
    | with_reducible apply KeepsL.pair
    | with_reducible apply Keeps.upd

theorem raiseAck_keeps {s : State} (d : Nat) (n : Nat) (hs : Keeps q w s) : Keeps q w (raiseAck s d n) := by
  unfold raiseAck
  try dsimp only
  repeat' first
    | with_reducible assumption
    | intro _
    | with_reducible apply Keeps.ite
    | with_reducible apply Keeps.foldl
    | split
    | with_reducible apply Keeps.upd

theorem effApplyBundle_keeps {s : State} (d : Nat) (b : Bytes) (hs : Keeps q w s) : KeepsL q w (effApplyBundle s d b) := by
  unfold effApplyBundle
  try dsimp only
  repeat' first
    | with_reducible assumption
    | intro _
    | refine Keeps.eqL (by with_reducible assumption) ?_
    | with_reducible apply raiseAck_keeps
    | with_reducible apply raiseVersion_keeps
    | with_reducible apply installDomain_keeps
    | with_reducible apply kcUse_keeps
    | with_reducible apply Keeps.ite
    | with_reducible apply Keeps.foldl
    | with_reducible apply KeepsL.ite
    | with_reducible apply KeepsL.foldl
    | split
    | with_reducible apply Keeps.fst
    | with_reducible apply KeepsL.pair
    | with_reducible apply Keeps.upd

theorem effReplay_keeps {s : State} (d : Nat) (b : Bytes) (hs : Keeps q w s) : KeepsL q w (effReplay s d b) := by
  unfold effReplay
  try dsimp only
  repeat' first
    | with_reducible assumption
    | intro _
    | refine Keeps.eqL (by with_reducible assumption) ?_
    | refine Keeps.eqOL (by with_reducible assumption) ?_
    | with_reducible apply takeRole_keeps
    | with_reducible apply applyRecs_keeps
    | with_reducible apply askBuild_keeps
    | with_reducible apply updDomain_keeps
    | with_reducible apply Keeps.ite
    | with_reducible apply Keeps.foldl
    | with_reducible apply KeepsL.ite
    | with_reducible apply KeepsL.foldl
    | with_reducible apply KeepsOL.some
    | with_reducible apply KeepsOL.none
    | with_reducible apply KeepsOL.ite
    | split
    | with_reducible apply Keeps.fst
    | with_reducible apply KeepsL.pair
    | with_reducible apply Keeps.upd

theorem effCluster_keeps {s : State} (op : Nat) (d : Nat) (a : Nat) (b : Nat) (c : Nat) (input : Bytes) (out : Outcome) (hs : Keeps q w s) : KeepsL q w (effCluster s op d a b c input out) := by
  unfold effCluster
  try dsimp only
  repeat' first
    | with_reducible assumption
    | intro _
    | refine Keeps.eqL (by with_reducible assumption) ?_
    | with_reducible apply effReplay_keeps
    | with_reducible apply effApplyBundle_keeps
    | with_reducible apply effHandover_keeps
    | with_reducible apply effSealBundle_keeps
    | with_reducible apply effEndorse_keeps
    | with_reducible apply effIssue_keeps
    | with_reducible apply effFound_keeps
    | with_reducible apply effApplyEpoch_keeps
    | with_reducible apply effMemberRequest_keeps
    | with_reducible apply Keeps.ite
    | with_reducible apply Keeps.foldl
    | with_reducible apply KeepsL.ite
    | with_reducible apply KeepsL.foldl
    | split
    | with_reducible apply Keeps.fst
    | with_reducible apply KeepsL.pair

theorem clTiles_keeps {s : State} (t : TagEntry) {go : State} (hs : Keeps q w s) (hgo : Keeps q w go) : Keeps q w (clTiles s t go) := by
  unfold clTiles
  try dsimp only
  repeat' first
    | with_reducible assumption
    | intro _
    | with_reducible apply failTag_keeps
    | with_reducible apply Keeps.ite
    | with_reducible apply Keeps.foldl
    | split

theorem clRun_keeps {s : State} (t : TagEntry) (r : Run) (f : State → (Outcome × Effect) × State) (hs : Keeps q w s) (hf : ∀ x0, Keeps q w x0 → KeepsP q w (f x0)) : Keeps q w (clRun s t r f) := by
  unfold clRun
  try dsimp only
  repeat' first
    | with_reducible assumption
    | intro _
    | refine Keeps.eqP (by with_reducible assumption) ?_
    | with_reducible apply hf
    | with_reducible apply clTiles_keeps
    | with_reducible apply startIn_keeps
    | with_reducible apply Keeps.ite
    | with_reducible apply Keeps.foldl
    | with_reducible apply KeepsP.ite
    | with_reducible apply KeepsP.foldl
    | split
    | with_reducible apply Keeps.snd
    | with_reducible apply KeepsP.pair

theorem clStart_keeps {s : State} (t : TagEntry) (r : Run) (op : Nat) (a : Nat) (b : Nat) (c : Nat) (hs : Keeps q w s) : Keeps q w (clStart s t r op a b c) := by
  unfold clStart
  try dsimp only
  repeat' first
    | with_reducible assumption
    | intro _
    | refine Keeps.eqP (by with_reducible assumption) ?_
    | with_reducible apply clRun_keeps
    | with_reducible apply Keeps.ite
    | with_reducible apply Keeps.foldl
    | with_reducible apply KeepsP.ite
    | with_reducible apply KeepsP.foldl
    | split
    | with_reducible apply Keeps.snd
    | with_reducible apply KeepsP.pair

theorem goClStatus_keeps (r : Run) {s : State} (t : TagEntry) (hs : Keeps q w s) : Keeps q w (goClStatus r s t) := by
  unfold goClStatus
  try dsimp only
  repeat' first
    | with_reducible assumption
    | intro _
    | refine Keeps.eqP (by with_reducible assumption) ?_
    | with_reducible apply clRun_keeps
    | with_reducible apply Keeps.ite
    | with_reducible apply Keeps.foldl
    | with_reducible apply KeepsP.ite
    | with_reducible apply KeepsP.foldl
    | split
    | with_reducible apply Keeps.snd
    | with_reducible apply KeepsP.pair

theorem execClStatus_keeps (r : Run) {s : State} (hs : Keeps q w s) : KeepsR q w (execClStatus r s) := by
  unfold execClStatus
  try dsimp only
  repeat' first
    | with_reducible assumption
    | intro _
    | with_reducible apply goClStatus_keeps
    | with_reducible apply checked_keeps
    | with_reducible apply Keeps.ite
    | with_reducible apply Keeps.foldl
    | with_reducible apply KeepsR.next
    | with_reducible apply KeepsR.ite
    | split

theorem goClMemberRequest_keeps (r : Run) {s : State} (t : TagEntry) (hs : Keeps q w s) : Keeps q w (goClMemberRequest r s t) := by
  unfold goClMemberRequest
  try dsimp only
  repeat' first
    | with_reducible assumption
    | intro _
    | refine Keeps.eqP (by with_reducible assumption) ?_
    | with_reducible apply clRun_keeps
    | with_reducible apply withQuorum_keeps
    | with_reducible apply Keeps.ite
    | with_reducible apply Keeps.foldl
    | with_reducible apply KeepsP.ite
    | with_reducible apply KeepsP.foldl
    | split
    | with_reducible apply Keeps.snd
    | with_reducible apply KeepsP.pair

theorem execClMemberRequest_keeps (r : Run) {s : State} (hs : Keeps q w s) : KeepsR q w (execClMemberRequest r s) := by
  unfold execClMemberRequest
  try dsimp only
  repeat' first
    | with_reducible assumption
    | intro _
    | with_reducible apply goClMemberRequest_keeps
    | with_reducible apply checked_keeps
    | with_reducible apply Keeps.ite
    | with_reducible apply Keeps.foldl
    | with_reducible apply KeepsR.next
    | with_reducible apply KeepsR.ite
    | split

theorem goClFound_keeps (r : Run) {s : State} (t : TagEntry) (hs : Keeps q w s) : Keeps q w (goClFound r s t) := by
  unfold goClFound
  try dsimp only
  repeat' first
    | with_reducible assumption
    | intro _
    | refine Keeps.eqP (by with_reducible assumption) ?_
    | with_reducible apply clRun_keeps
    | with_reducible apply withQuorum_keeps
    | with_reducible apply Keeps.ite
    | with_reducible apply Keeps.foldl
    | with_reducible apply KeepsP.ite
    | with_reducible apply KeepsP.foldl
    | split
    | with_reducible apply Keeps.snd
    | with_reducible apply KeepsP.pair

theorem execClFound_keeps (r : Run) {s : State} (hs : Keeps q w s) : KeepsR q w (execClFound r s) := by
  unfold execClFound
  try dsimp only
  repeat' first
    | with_reducible assumption
    | intro _
    | with_reducible apply goClFound_keeps
    | with_reducible apply checked_keeps
    | with_reducible apply Keeps.ite
    | with_reducible apply Keeps.foldl
    | with_reducible apply KeepsR.next
    | with_reducible apply KeepsR.ite
    | split

theorem goClIssue_keeps (r : Run) {s : State} (t : TagEntry) (hs : Keeps q w s) : Keeps q w (goClIssue r s t) := by
  unfold goClIssue
  try dsimp only
  repeat' first
    | with_reducible assumption
    | intro _
    | with_reducible apply clStart_keeps
    | with_reducible apply withQuorum_keeps
    | with_reducible apply Keeps.ite
    | with_reducible apply Keeps.foldl
    | split

theorem execClIssue_keeps (r : Run) {s : State} (hs : Keeps q w s) : KeepsR q w (execClIssue r s) := by
  unfold execClIssue
  try dsimp only
  repeat' first
    | with_reducible assumption
    | intro _
    | with_reducible apply goClIssue_keeps
    | with_reducible apply checked_keeps
    | with_reducible apply Keeps.ite
    | with_reducible apply Keeps.foldl
    | with_reducible apply KeepsR.next
    | with_reducible apply KeepsR.ite
    | split

theorem goClEndorse_keeps (r : Run) {s : State} (t : TagEntry) (hs : Keeps q w s) : Keeps q w (goClEndorse r s t) := by
  unfold goClEndorse
  try dsimp only
  repeat' first
    | with_reducible assumption
    | intro _
    | with_reducible apply clStart_keeps
    | with_reducible apply Keeps.ite
    | with_reducible apply Keeps.foldl
    | split

theorem execClEndorse_keeps (r : Run) {s : State} (hs : Keeps q w s) : KeepsR q w (execClEndorse r s) := by
  unfold execClEndorse
  try dsimp only
  repeat' first
    | with_reducible assumption
    | intro _
    | with_reducible apply goClEndorse_keeps
    | with_reducible apply checked_keeps
    | with_reducible apply Keeps.ite
    | with_reducible apply Keeps.foldl
    | with_reducible apply KeepsR.next
    | with_reducible apply KeepsR.ite
    | split

theorem goClApplyEpoch_keeps (r : Run) {s : State} (t : TagEntry) (hs : Keeps q w s) : Keeps q w (goClApplyEpoch r s t) := by
  unfold goClApplyEpoch
  try dsimp only
  repeat' first
    | with_reducible assumption
    | intro _
    | with_reducible apply clStart_keeps
    | with_reducible apply Keeps.ite
    | with_reducible apply Keeps.foldl
    | split

theorem execClApplyEpoch_keeps (r : Run) {s : State} (hs : Keeps q w s) : KeepsR q w (execClApplyEpoch r s) := by
  unfold execClApplyEpoch
  try dsimp only
  repeat' first
    | with_reducible assumption
    | intro _
    | with_reducible apply goClApplyEpoch_keeps
    | with_reducible apply checked_keeps
    | with_reducible apply Keeps.ite
    | with_reducible apply Keeps.foldl
    | with_reducible apply KeepsR.next
    | with_reducible apply KeepsR.ite
    | split

theorem goClMemberRead_keeps (r : Run) {s : State} (t : TagEntry) (hs : Keeps q w s) : Keeps q w (goClMemberRead r s t) := by
  unfold goClMemberRead
  try dsimp only
  repeat' first
    | with_reducible assumption
    | intro _
    | refine Keeps.eqP (by with_reducible assumption) ?_
    | with_reducible apply clRun_keeps
    | with_reducible apply Keeps.ite
    | with_reducible apply Keeps.foldl
    | with_reducible apply KeepsP.ite
    | with_reducible apply KeepsP.foldl
    | split
    | with_reducible apply Keeps.snd
    | with_reducible apply KeepsP.pair

theorem execClMemberRead_keeps (r : Run) {s : State} (hs : Keeps q w s) : KeepsR q w (execClMemberRead r s) := by
  unfold execClMemberRead
  try dsimp only
  repeat' first
    | with_reducible assumption
    | intro _
    | with_reducible apply goClMemberRead_keeps
    | with_reducible apply checked_keeps
    | with_reducible apply Keeps.ite
    | with_reducible apply Keeps.foldl
    | with_reducible apply KeepsR.next
    | with_reducible apply KeepsR.ite
    | split

theorem goClSealBundle_keeps (r : Run) {s : State} (t : TagEntry) (hs : Keeps q w s) : Keeps q w (goClSealBundle r s t) := by
  unfold goClSealBundle
  try dsimp only
  repeat' first
    | with_reducible assumption
    | intro _
    | with_reducible apply clStart_keeps
    | with_reducible apply whenKeys_keeps
    | with_reducible apply Keeps.ite
    | with_reducible apply Keeps.foldl
    | split

theorem execClSealBundle_keeps (r : Run) {s : State} (hs : Keeps q w s) : KeepsR q w (execClSealBundle r s) := by
  unfold execClSealBundle
  try dsimp only
  repeat' first
    | with_reducible assumption
    | intro _
    | with_reducible apply goClSealBundle_keeps
    | with_reducible apply checked_keeps
    | with_reducible apply Keeps.ite
    | with_reducible apply Keeps.foldl
    | with_reducible apply KeepsR.next
    | with_reducible apply KeepsR.ite
    | split

theorem goClHandover_keeps (r : Run) {s : State} (t : TagEntry) (hs : Keeps q w s) : Keeps q w (goClHandover r s t) := by
  unfold goClHandover
  try dsimp only
  repeat' first
    | with_reducible assumption
    | intro _
    | with_reducible apply clStart_keeps
    | with_reducible apply whenKeys_keeps
    | with_reducible apply Keeps.ite
    | with_reducible apply Keeps.foldl
    | split

theorem execClHandover_keeps (r : Run) {s : State} (hs : Keeps q w s) : KeepsR q w (execClHandover r s) := by
  unfold execClHandover
  try dsimp only
  repeat' first
    | with_reducible assumption
    | intro _
    | with_reducible apply goClHandover_keeps
    | with_reducible apply checked_keeps
    | with_reducible apply Keeps.ite
    | with_reducible apply Keeps.foldl
    | with_reducible apply KeepsR.next
    | with_reducible apply KeepsR.ite
    | split

theorem goClApplyBundle_keeps (r : Run) {s : State} (t : TagEntry) (hs : Keeps q w s) : Keeps q w (goClApplyBundle r s t) := by
  unfold goClApplyBundle
  try dsimp only
  repeat' first
    | with_reducible assumption
    | intro _
    | with_reducible apply clStart_keeps
    | with_reducible apply Keeps.ite
    | with_reducible apply Keeps.foldl
    | split

theorem execClApplyBundle_keeps (r : Run) {s : State} (hs : Keeps q w s) : KeepsR q w (execClApplyBundle r s) := by
  unfold execClApplyBundle
  try dsimp only
  repeat' first
    | with_reducible assumption
    | intro _
    | with_reducible apply goClApplyBundle_keeps
    | with_reducible apply checked_keeps
    | with_reducible apply Keeps.ite
    | with_reducible apply Keeps.foldl
    | with_reducible apply KeepsR.next
    | with_reducible apply KeepsR.ite
    | split

theorem goClReplay_keeps (r : Run) {s : State} (t : TagEntry) (hs : Keeps q w s) : Keeps q w (goClReplay r s t) := by
  unfold goClReplay
  try dsimp only
  repeat' first
    | with_reducible assumption
    | intro _
    | with_reducible apply clStart_keeps
    | with_reducible apply whenKeys_keeps
    | with_reducible apply Keeps.ite
    | with_reducible apply Keeps.foldl
    | split

theorem execClReplay_keeps (r : Run) {s : State} (hs : Keeps q w s) : KeepsR q w (execClReplay r s) := by
  unfold execClReplay
  try dsimp only
  repeat' first
    | with_reducible assumption
    | intro _
    | with_reducible apply goClReplay_keeps
    | with_reducible apply checked_keeps
    | with_reducible apply Keeps.ite
    | with_reducible apply Keeps.foldl
    | with_reducible apply KeepsR.next
    | with_reducible apply KeepsR.ite
    | split

end Sys2Proof.Machine
end

