-- ==== Sys2Proof/Laws/KeepsDelpinMem.lean ====
section
/-!
SUPPORT. Laws/KeepsDelpinMem.lean: what the operations of DelpinMem.lean keep.
-/
namespace Sys2Proof.Machine

variable {q : List Instr} {w : FuseBits}

theorem denyCore_keeps {s : State} (c : CoreId) (x : DCore) (write : Bool) (fetch : Bool) (d : Nat) (hs : Keeps q w s) : Keeps q w (denyCore s c x write fetch d) := by
  unfold denyCore
  try dsimp only
  repeat' first
    | with_reducible assumption
    | intro _
    | with_reducible apply violation_keeps
    | with_reducible apply Keeps.ite
    | with_reducible apply Keeps.foldl
    | split

theorem checkAcc_keeps {s : State} (c : CoreId) (x : DCore) (a : Acc) (hs : Keeps q w s) : KeepsD q w (checkAcc s c x a) := by
  unfold checkAcc
  try dsimp only
  repeat' first
    | with_reducible assumption
    | intro _
    | refine Keeps.eqD (by with_reducible assumption) ?_
    | refine Keeps.eqDF (by with_reducible assumption) ?_
    | with_reducible apply denyCore_keeps
    | with_reducible apply violation_keeps
    | with_reducible apply Keeps.ite
    | with_reducible apply Keeps.foldl
    | with_reducible apply KeepsD.ok'
    | with_reducible apply KeepsD.fault
    | with_reducible apply KeepsD.wait
    | with_reducible apply KeepsD.bind
    | with_reducible apply KeepsD.ite
    | split

theorem wardenLines_keeps {s : State} (a : Nat) (n : Nat) (hs : Keeps q w s) : KeepsP q w (wardenLines s a n) := by
  unfold wardenLines
  try dsimp only
  repeat' first
    | with_reducible assumption
    | intro _
    | refine Keeps.eqP (by with_reducible assumption) ?_
    | with_reducible apply wardenLine_keeps
    | with_reducible apply Keeps.ite
    | with_reducible apply Keeps.foldl
    | with_reducible apply KeepsP.ite
    | with_reducible apply KeepsP.foldl
    | split
    | with_reducible apply Keeps.snd
    | with_reducible apply KeepsP.pair

theorem regRead_keeps {s : State} (c : CoreId) (phys : Nat) (blk : Nat) (off : Nat) (n : Nat) (hs : Keeps q w s) : KeepsP q w (regRead s c phys blk off n) := by
  unfold regRead
  try dsimp only
  repeat' first
    | with_reducible assumption
    | intro _
    | refine Keeps.eqP (by with_reducible assumption) ?_
    | with_reducible apply busRead_keeps
    | with_reducible apply recordDenied_keeps
    | with_reducible apply Keeps.ite
    | with_reducible apply Keeps.foldl
    | with_reducible apply KeepsP.ite
    | with_reducible apply KeepsP.foldl
    | split
    | with_reducible apply Keeps.snd
    | with_reducible apply KeepsP.pair

theorem memRead_keeps {s : State} (c : CoreId) (a : Acc) (phys : Nat) (fails : List MemFail) (hs : Keeps q w s) : KeepsD q w (memRead s c a phys fails) := by
  unfold memRead
  try dsimp only
  repeat' first
    | with_reducible assumption
    | intro _
    | refine Keeps.eqP (by with_reducible assumption) ?_
    | refine Keeps.eqD (by with_reducible assumption) ?_
    | refine Keeps.eqDF (by with_reducible assumption) ?_
    | with_reducible apply regRead_keeps
    | with_reducible apply wardenLines_keeps
    | with_reducible apply mcRead_keeps
    | with_reducible apply Keeps.ite
    | with_reducible apply Keeps.foldl
    | with_reducible apply KeepsP.ite
    | with_reducible apply KeepsP.foldl
    | with_reducible apply KeepsD.ok'
    | with_reducible apply KeepsD.fault
    | with_reducible apply KeepsD.wait
    | with_reducible apply KeepsD.bind
    | with_reducible apply KeepsD.ite
    | split
    | with_reducible apply Keeps.snd
    | with_reducible apply KeepsP.pair

theorem hbmLineWrite_keeps {s : State} (stack : Nat) (off : Nat) (n : Nat) (l : Nat) (hs : Keeps q w s) : Keeps q w (hbmLineWrite s stack off n l) := by
  unfold hbmLineWrite
  try dsimp only
  repeat' first
    | with_reducible assumption
    | intro _
    | with_reducible apply mcWritePart_keeps
    | with_reducible apply mcWrite_keeps
    | with_reducible apply Keeps.ite
    | with_reducible apply Keeps.foldl
    | split

theorem memPut_keeps {s : State} (a : Nat) (b : Bytes) (hs : Keeps q w s) : Keeps q w (memPut s a b) := by
  unfold memPut
  try dsimp only
  repeat' first
    | with_reducible assumption
    | intro _
    | with_reducible apply hbmLineWrite_keeps
    | with_reducible apply poisonCount_keeps
    | with_reducible apply geckoWrite_keeps
    | with_reducible apply Keeps.ite
    | with_reducible apply Keeps.foldl
    | split
    | refine Keeps.updMem ?_ (Memory.wf_mk ?_ ?_ ?_ ?_)
    | with_reducible apply cellsWf_filter
    | with_reducible apply cellsWf_writes
    | with_reducible apply cellsWf_foldl
    | with_reducible apply Keeps.cellsG q w
    | with_reducible apply Keeps.cellsI q w
    | with_reducible apply Keeps.cellsD q w
    | with_reducible apply Keeps.cellsH q w
    | exact cellsWf_nil _
    | with_reducible apply Keeps.upd

theorem bufDrain_keeps {s : State} (core : Nat) (n : Nat) (hs : Keeps q w s) : Keeps q w (bufDrain s core n) := by
  unfold bufDrain
  try dsimp only
  repeat' first
    | with_reducible assumption
    | intro _
    | with_reducible apply memPut_keeps
    | with_reducible apply Keeps.ite
    | with_reducible apply Keeps.foldl
    | split
    | with_reducible apply Keeps.upd

theorem drainCore_keeps {s : State} (c : CoreId) (hs : Keeps q w s) : Keeps q w (drainCore s c) := by
  unfold drainCore
  try dsimp only
  repeat' first
    | with_reducible assumption
    | intro _
    | with_reducible apply bufDrain_keeps
    | with_reducible apply Keeps.ite
    | with_reducible apply Keeps.foldl
    | split

theorem bufSettle_keeps {s : State} (hs : Keeps q w s) : Keeps q w (bufSettle s) := by
  unfold bufSettle
  try dsimp only
  repeat' first
    | with_reducible assumption
    | intro _
    | refine Keeps.eqP (by with_reducible assumption) ?_
    | with_reducible apply bufDrain_keeps
    | with_reducible apply draw_keeps
    | with_reducible apply Keeps.ite
    | with_reducible apply Keeps.foldl
    | with_reducible apply KeepsP.ite
    | with_reducible apply KeepsP.foldl
    | split
    | with_reducible apply Keeps.snd
    | with_reducible apply KeepsP.pair

theorem bufWrite_keeps {s : State} (c : CoreId) (a : Nat) (b : Bytes) (hs : Keeps q w s) : Keeps q w (bufWrite s c a b) := by
  unfold bufWrite
  try dsimp only
  repeat' first
    | with_reducible assumption
    | intro _
    | with_reducible apply bufDrain_keeps
    | with_reducible apply Keeps.ite
    | with_reducible apply Keeps.foldl
    | split
    | with_reducible apply Keeps.upd

theorem memWrite_keeps {s : State} (c : CoreId) (sealedSup : Bool) (phys : Nat) (b : Bytes) (hs : Keeps q w s) : Keeps q w (memWrite s c sealedSup phys b) := by
  unfold memWrite
  try dsimp only
  repeat' first
    | with_reducible assumption
    | intro _
    | with_reducible apply bufWrite_keeps
    | with_reducible apply busWrite_keeps
    | with_reducible apply recordDenied_keeps
    | with_reducible apply Keeps.ite
    | with_reducible apply Keeps.foldl
    | split
    | refine Keeps.updMem ?_ (Memory.wf_mk ?_ ?_ ?_ ?_)
    | with_reducible apply cellsWf_filter
    | with_reducible apply cellsWf_writes
    | with_reducible apply cellsWf_foldl
    | with_reducible apply Keeps.cellsG q w
    | with_reducible apply Keeps.cellsI q w
    | with_reducible apply Keeps.cellsD q w
    | with_reducible apply Keeps.cellsH q w
    | exact cellsWf_nil _
    | with_reducible apply Keeps.upd

theorem fetchLines_keeps {s : State} (a : Nat) (n : Nat) (hs : Keeps q w s) : KeepsP q w (fetchLines s a n) := by
  unfold fetchLines
  try dsimp only
  repeat' first
    | with_reducible assumption
    | intro _
    | refine Keeps.eqP (by with_reducible assumption) ?_
    | with_reducible apply readLine_keeps
    | with_reducible apply Keeps.ite
    | with_reducible apply Keeps.foldl
    | with_reducible apply KeepsP.ite
    | with_reducible apply KeepsP.foldl
    | split
    | with_reducible apply Keeps.snd
    | with_reducible apply KeepsP.pair

theorem fetchCheck_keeps {s : State} (c : CoreId) (x : DCore) (n : Nat) (hs : Keeps q w s) : KeepsD q w (fetchCheck s c x n) := by
  unfold fetchCheck
  try dsimp only
  repeat' first
    | with_reducible assumption
    | intro _
    | refine Keeps.eqP (by with_reducible assumption) ?_
    | refine Keeps.eqD (by with_reducible assumption) ?_
    | refine Keeps.eqDF (by with_reducible assumption) ?_
    | with_reducible apply fetchLines_keeps
    | with_reducible apply denyCore_keeps
    | with_reducible apply violation_keeps
    | with_reducible apply Keeps.ite
    | with_reducible apply Keeps.foldl
    | with_reducible apply KeepsP.ite
    | with_reducible apply KeepsP.foldl
    | with_reducible apply KeepsD.ok'
    | with_reducible apply KeepsD.fault
    | with_reducible apply KeepsD.wait
    | with_reducible apply KeepsD.bind
    | with_reducible apply KeepsD.ite
    | split
    | with_reducible apply Keeps.snd
    | with_reducible apply KeepsP.pair

end Sys2Proof.Machine
end

