-- ==== Sys2Proof/Laws/KeepsDelpinExc.lean ====
section
/-!
SUPPORT. Laws/KeepsDelpinExc.lean: what the operations of DelpinExc.lean keep.
-/
namespace Sys2Proof.Machine

variable {q : List Instr} {w : FuseBits}

theorem dropSource_keeps {s : State} (c : CoreId) (n : Nat) (hs : Keeps q w s) : Keeps q w (dropSource s c n) := by
  unfold dropSource
  try dsimp only
  repeat' first
    | with_reducible assumption
    | intro _
    | with_reducible apply Keeps.ite
    | with_reducible apply Keeps.foldl
    | split
    | with_reducible apply Keeps.upd

theorem stopA_keeps {s : State} (x : DCore) (code : Nat) (orig : Nat) (hs : Keeps q w s) : Keeps q w (stopA s x code orig) := by
  unfold stopA
  try dsimp only
  repeat' first
    | with_reducible assumption
    | intro _
    | with_reducible apply setB_keeps
    | with_reducible apply setF_keeps
    | with_reducible apply Keeps.ite
    | with_reducible apply Keeps.foldl
    | split

theorem stopB_keeps {s : State} (x : DCore) (code : Nat) (orig : Nat) (hs : Keeps q w s) : Keeps q w (stopB s x code orig) := by
  unfold stopB
  try dsimp only
  repeat' first
    | with_reducible assumption
    | intro _
    | with_reducible apply setB_keeps
    | with_reducible apply setF_keeps
    | with_reducible apply Keeps.ite
    | with_reducible apply Keeps.foldl
    | split

theorem coreStop_keeps {s : State} (c : CoreId) (code : Nat) (orig : Nat) (hs : Keeps q w s) : Keeps q w (coreStop s c code orig) := by
  unfold coreStop
  try dsimp only
  repeat' first
    | with_reducible assumption
    | intro _
    | with_reducible apply stopB_keeps
    | with_reducible apply stopA_keeps
    | with_reducible apply setCore_keeps
    | with_reducible apply faultReport_keeps
    | with_reducible apply setF_keeps
    | with_reducible apply Keeps.ite
    | with_reducible apply Keeps.foldl
    | split
    | with_reducible apply Keeps.upd

theorem entryStack_keeps {s : State} (c : CoreId) (x : DCore) (e : Entry) (hs : Keeps q w s) : KeepsP q w (entryStack s c x e) := by
  unfold entryStack
  try dsimp only
  repeat' first
    | with_reducible assumption
    | intro _
    | refine Keeps.eqP (by with_reducible assumption) ?_
    | refine Keeps.eqD (by with_reducible assumption) ?_
    | refine Keeps.eqDF (by with_reducible assumption) ?_
    | with_reducible apply checkAcc_keeps
    | with_reducible apply Keeps.ite
    | with_reducible apply Keeps.foldl
    | with_reducible apply KeepsP.ite
    | with_reducible apply KeepsP.foldl
    | with_reducible apply KeepsD.ok'
    | with_reducible apply KeepsD.fault
    | with_reducible apply KeepsD.wait
    | with_reducible apply KeepsD.bind
    | with_reducible apply KeepsD.ite
    | split
    | with_reducible apply Keeps.snd
    | with_reducible apply KeepsP.pair
    | with_reducible apply Keeps.upd

theorem enterCore_keeps {s : State} (c : CoreId) (x : DCore) (e : Entry) (frame : Option Nat) (hs : Keeps q w s) : Keeps q w (enterCore s c x e frame) := by
  unfold enterCore
  try dsimp only
  repeat' first
    | with_reducible assumption
    | intro _
    | with_reducible apply memWrite_keeps
    | with_reducible apply setCore_keeps
    | with_reducible apply Keeps.ite
    | with_reducible apply Keeps.foldl
    | split
    | with_reducible apply Keeps.upd

theorem enter_keeps {s : State} (c : CoreId) (e : Entry) (hs : Keeps q w s) : Keeps q w (enter s c e) := by
  unfold enter
  try dsimp only
  repeat' first
    | with_reducible assumption
    | intro _
    | refine Keeps.eqP (by with_reducible assumption) ?_
    | with_reducible apply enterCore_keeps
    | with_reducible apply entryStack_keeps
    | with_reducible apply coreStop_keeps
    | with_reducible apply drainCore_keeps
    | with_reducible apply Keeps.ite
    | with_reducible apply Keeps.foldl
    | with_reducible apply KeepsP.ite
    | with_reducible apply KeepsP.foldl
    | split
    | with_reducible apply Keeps.snd
    | with_reducible apply KeepsP.pair
    | with_reducible apply Keeps.upd

theorem raiseSync_keeps {s : State} (c : CoreId) (f : DFault) (hs : Keeps q w s) : Keeps q w (raiseSync s c f) := by
  unfold raiseSync
  try dsimp only
  repeat' first
    | with_reducible assumption
    | intro _
    | with_reducible apply enter_keeps
    | with_reducible apply coreStop_keeps
    | with_reducible apply Keeps.ite
    | with_reducible apply Keeps.foldl
    | split

theorem endHalt_keeps {s : State} (c : CoreId) (hs : Keeps q w s) : Keeps q w (endHalt s c) := by
  unfold endHalt
  try dsimp only
  repeat' first
    | with_reducible assumption
    | intro _
    | with_reducible apply Keeps.ite
    | with_reducible apply Keeps.foldl
    | split
    | with_reducible apply Keeps.upd

theorem execInterruptEntry_keeps (core : CoreId) {s : State} (hs : Keeps q w s) : KeepsR q w (execInterruptEntry core s) := by
  unfold execInterruptEntry
  try dsimp only
  repeat' first
    | with_reducible assumption
    | intro _
    | with_reducible apply endHalt_keeps
    | with_reducible apply enter_keeps
    | with_reducible apply dropSource_keeps
    | with_reducible apply Keeps.ite
    | with_reducible apply Keeps.foldl
    | with_reducible apply KeepsR.next
    | with_reducible apply KeepsR.ite
    | split

theorem openStart_keeps {s : State} (c : CoreId) (hs : Keeps q w s) : Keeps q w (openStart s c) := by
  unfold openStart
  try dsimp only
  repeat' first
    | with_reducible assumption
    | intro _
    | with_reducible apply enter_keeps
    | with_reducible apply setCore_keeps
    | with_reducible apply Keeps.ite
    | with_reducible apply Keeps.foldl
    | split
    | with_reducible apply Keeps.upd

theorem softRaise_keeps {s : State} (c : CoreId) (v : Nat) (hs : Keeps q w s) : Keeps q w (softRaise s c v) := by
  unfold softRaise
  try dsimp only
  repeat' first
    | with_reducible assumption
    | intro _
    | with_reducible apply raiseDisp_keeps
    | with_reducible apply raise_keeps
    | with_reducible apply Keeps.ite
    | with_reducible apply Keeps.foldl
    | split

theorem execWstart_keeps (core : CoreId) (v : W64) {s : State} (hs : Keeps q w s) : KeepsR q w (execWstart core v s) := by
  unfold execWstart
  try dsimp only
  repeat' first
    | with_reducible assumption
    | intro _
    | with_reducible apply openStart_keeps
    | with_reducible apply Keeps.ite
    | with_reducible apply Keeps.foldl
    | with_reducible apply KeepsR.next
    | with_reducible apply KeepsR.ite
    | split

theorem execSwi_keeps (core : CoreId) (v : W64) {s : State} (hs : Keeps q w s) : KeepsR q w (execSwi core v s) := by
  unfold execSwi
  try dsimp only
  repeat' first
    | with_reducible assumption
    | intro _
    | with_reducible apply softRaise_keeps
    | with_reducible apply Keeps.ite
    | with_reducible apply Keeps.foldl
    | with_reducible apply KeepsR.next
    | with_reducible apply KeepsR.ite
    | split

theorem execLockstepMismatch_keeps {s : State} (hs : Keeps q w s) : KeepsR q w (execLockstepMismatch s) := by
  unfold execLockstepMismatch
  try dsimp only
  repeat' first
    | with_reducible assumption
    | intro _
    | with_reducible apply stopB_keeps
    | with_reducible apply stopA_keeps
    | with_reducible apply faultReport_keeps
    | with_reducible apply Keeps.ite
    | with_reducible apply Keeps.foldl
    | with_reducible apply KeepsR.next
    | with_reducible apply KeepsR.ite
    | split

end Sys2Proof.Machine
end

