-- ==== Sys2Proof/Laws/KeepsLandauLeg.lean ====
section
/-!
SUPPORT. Laws/KeepsLandauLeg.lean: what the operations of LandauLeg.lean keep.
-/
namespace Sys2Proof.Machine

variable {q : List Instr} {w : FuseBits}

theorem buildFailed_keeps {s : State} (ok : Bool) (hs : Keeps q w s) : Keeps q w (buildFailed s ok) := by
  unfold buildFailed
  try dsimp only
  repeat' first
    | with_reducible assumption
    | intro _
    | with_reducible apply setLandau_keeps
    | with_reducible apply deviceRecord_keeps
    | with_reducible apply faultReport_keeps
    | with_reducible apply Keeps.ite
    | with_reducible apply Keeps.foldl
    | split
    | with_reducible apply Keeps.upd

theorem refuseImage_keeps {s : State} (ok : Bool) (hs : Keeps q w s) : Keeps q w (refuseImage s ok) := by
  unfold refuseImage
  try dsimp only
  repeat' first
    | with_reducible assumption
    | intro _
    | refine Keeps.eqO (by with_reducible assumption) ?_
    | with_reducible apply setLandau_keeps
    | with_reducible apply deviceRecord_keeps
    | with_reducible apply faultReport_keeps
    | with_reducible apply deviceReset_keeps
    | with_reducible apply slotFallback_keeps
    | with_reducible apply noteVerdict_keeps
    | with_reducible apply Keeps.ite
    | with_reducible apply Keeps.foldl
    | with_reducible apply KeepsO.some
    | with_reducible apply KeepsO.none
    | with_reducible apply KeepsO.ite
    | split
    | with_reducible apply Keeps.upd

theorem raiseRails_keeps {s : State} (l : LandauIn) (hs : Keeps q w s) : KeepsL q w (raiseRails s l) := by
  unfold raiseRails
  try dsimp only
  repeat' first
    | with_reducible assumption
    | intro _
    | refine Keeps.eqL (by with_reducible assumption) ?_
    | with_reducible apply vidFail_keeps
    | with_reducible apply setF_keeps
    | with_reducible apply Keeps.ite
    | with_reducible apply Keeps.foldl
    | with_reducible apply KeepsL.ite
    | with_reducible apply KeepsL.foldl
    | split
    | with_reducible apply Keeps.fst
    | with_reducible apply KeepsL.pair
    | with_reducible apply Keeps.upd

theorem landauStep1_keeps {s : State} (l : LandauIn) (hs : Keeps q w s) : KeepsL q w (landauStep1 s l) := by
  unfold landauStep1
  try dsimp only
  repeat' first
    | with_reducible assumption
    | intro _
    | refine Keeps.eqL (by with_reducible assumption) ?_
    | with_reducible apply raiseRails_keeps
    | with_reducible apply setLandau_keeps
    | with_reducible apply setDomainOn_keeps
    | with_reducible apply Keeps.ite
    | with_reducible apply Keeps.foldl
    | with_reducible apply KeepsL.ite
    | with_reducible apply KeepsL.foldl
    | split
    | with_reducible apply Keeps.fst
    | with_reducible apply KeepsL.pair

theorem applyRepairs_keeps {s : State} (hs : Keeps q w s) : Keeps q w (applyRepairs s) := by
  unfold applyRepairs
  try dsimp only
  repeat' first
    | with_reducible assumption
    | intro _
    | with_reducible apply setLaneMap_keeps
    | with_reducible apply kcRowRepair_keeps
    | with_reducible apply Keeps.ite
    | with_reducible apply Keeps.foldl
    | split
    | with_reducible apply Keeps.upd

theorem landauStep2_keeps {s : State} (l : LandauIn) (hs : Keeps q w s) : KeepsL q w (landauStep2 s l) := by
  unfold landauStep2
  try dsimp only
  repeat' first
    | with_reducible assumption
    | intro _
    | refine Keeps.eqP (by with_reducible assumption) ?_
    | refine Keeps.eqL (by with_reducible assumption) ?_
    | with_reducible apply applyRepairs_keeps
    | with_reducible apply setLandau_keeps
    | with_reducible apply applyParams_keeps
    | with_reducible apply drawBytes_keeps
    | with_reducible apply setF_keeps
    | with_reducible apply Keeps.ite
    | with_reducible apply Keeps.foldl
    | with_reducible apply KeepsP.ite
    | with_reducible apply KeepsP.foldl
    | with_reducible apply KeepsL.ite
    | with_reducible apply KeepsL.foldl
    | split
    | with_reducible apply Keeps.snd
    | with_reducible apply KeepsP.pair
    | with_reducible apply Keeps.fst
    | with_reducible apply KeepsL.pair
    | with_reducible apply Keeps.upd

theorem noteChain_keeps {s : State} (hs : Keeps q w s) : Keeps q w (noteChain s) := by
  unfold noteChain
  try dsimp only
  repeat' first
    | with_reducible assumption
    | intro _
    | with_reducible apply occur_keeps
    | with_reducible apply Keeps.ite
    | with_reducible apply Keeps.foldl
    | split

theorem applyAlloc_keeps {s : State} (x : Sections) (hs : Keeps q w s) : Keeps q w (applyAlloc s x) := by
  unfold applyAlloc
  try dsimp only
  repeat' first
    | with_reducible assumption
    | intro _
    | with_reducible apply applyAllocWord_keeps
    | with_reducible apply Keeps.ite
    | with_reducible apply Keeps.foldl
    | split

theorem applyStage_keeps {s : State} (b : Bytes) (hs : Keeps q w s) : Keeps q w (applyStage s b) := by
  unfold applyStage
  try dsimp only
  repeat' first
    | with_reducible assumption
    | intro _
    | with_reducible apply setF_keeps
    | with_reducible apply Keeps.ite
    | with_reducible apply Keeps.foldl
    | split

theorem applyPcie_keeps {s : State} (x : Sections) (hs : Keeps q w s) : Keeps q w (applyPcie s x) := by
  unfold applyPcie
  try dsimp only
  repeat' first
    | with_reducible assumption
    | intro _
    | with_reducible apply setF_keeps
    | with_reducible apply Keeps.ite
    | with_reducible apply Keeps.foldl
    | split

theorem newWindow_keeps {s : State} (hs : Keeps q w s) : Keeps q w (newWindow s) := by
  unfold newWindow
  try dsimp only
  repeat' first
    | with_reducible assumption
    | intro _
    | refine Keeps.eqP (by with_reducible assumption) ?_
    | with_reducible apply draw_keeps
    | with_reducible apply setF_keeps
    | with_reducible apply Keeps.ite
    | with_reducible apply Keeps.foldl
    | with_reducible apply KeepsP.ite
    | with_reducible apply KeepsP.foldl
    | split
    | with_reducible apply Keeps.snd
    | with_reducible apply KeepsP.pair
    | with_reducible apply Keeps.upd

theorem seedLandau_keeps {s : State} (hs : Keeps q w s) : Keeps q w (seedLandau s) := by
  unfold seedLandau
  try dsimp only
  repeat' first
    | with_reducible assumption
    | intro _
    | with_reducible apply rekeyCluster_keeps
    | with_reducible apply instantiate_keeps
    | with_reducible apply setF_keeps
    | with_reducible apply Keeps.ite
    | with_reducible apply Keeps.foldl
    | split
    | with_reducible apply Keeps.upd

theorem startDispatch_keeps {s : State} (x : Sections) (hs : Keeps q w s) : Keeps q w (startDispatch s x) := by
  unfold startDispatch
  try dsimp only
  repeat' first
    | with_reducible assumption
    | intro _
    | with_reducible apply Keeps.ite
    | with_reducible apply Keeps.foldl
    | split
    | with_reducible apply Keeps.upd

theorem applyStruct_keeps {s : State} (x : Sections) (hs : Keeps q w s) : Keeps q w (applyStruct s x) := by
  unfold applyStruct
  try dsimp only
  repeat' first
    | with_reducible assumption
    | intro _
    | with_reducible apply startDispatch_keeps
    | with_reducible apply seedLandau_keeps
    | with_reducible apply newWindow_keeps
    | with_reducible apply applyPcie_keeps
    | with_reducible apply applyStage_keeps
    | with_reducible apply applyAlloc_keeps
    | with_reducible apply setLandau_keeps
    | with_reducible apply showMode_keeps
    | with_reducible apply loadGrants_keeps
    | with_reducible apply clearStructError_keeps
    | with_reducible apply setF_keeps
    | with_reducible apply Keeps.ite
    | with_reducible apply Keeps.foldl
    | split
    | with_reducible apply Keeps.upd

theorem failStruct_keeps {s : State} (v : Violation) (hs : Keeps q w s) : Keeps q w (failStruct s v) := by
  unfold failStruct
  try dsimp only
  repeat' first
    | with_reducible assumption
    | intro _
    | with_reducible apply structError_keeps
    | with_reducible apply setF_keeps
    | with_reducible apply Keeps.ite
    | with_reducible apply Keeps.foldl
    | split
    | with_reducible apply Keeps.upd

theorem landauStep3_keeps {s : State} (hs : Keeps q w s) : KeepsL q w (landauStep3 s) := by
  unfold landauStep3
  try dsimp only
  repeat' first
    | with_reducible assumption
    | intro _
    | refine Keeps.eqL (by with_reducible assumption) ?_
    | with_reducible apply failStruct_keeps
    | with_reducible apply applyStruct_keeps
    | with_reducible apply noteChain_keeps
    | with_reducible apply fillWords_keeps
    | with_reducible apply setF_keeps
    | with_reducible apply Keeps.ite
    | with_reducible apply Keeps.foldl
    | with_reducible apply KeepsL.ite
    | with_reducible apply KeepsL.foldl
    | split
    | with_reducible apply Keeps.fst
    | with_reducible apply KeepsL.pair

theorem execStructCheckEnd_keeps (ledgerOk : Bool) {s : State} (hs : Keeps q w s) : KeepsR q w (execStructCheckEnd ledgerOk s) := by
  unfold execStructCheckEnd
  try dsimp only
  repeat' first
    | with_reducible assumption
    | intro _
    | with_reducible apply failStruct_keeps
    | with_reducible apply applyStruct_keeps
    | with_reducible apply refuseImage_keeps
    | with_reducible apply Keeps.ite
    | with_reducible apply Keeps.foldl
    | with_reducible apply KeepsR.next
    | with_reducible apply KeepsR.ite
    | split

theorem trainStack_keeps (v : List RetireRec) {s : State} (k : Nat) (hs : Keeps q w s) : Keeps q w (trainStack v s k) := by
  unfold trainStack
  try dsimp only
  repeat' first
    | with_reducible assumption
    | intro _
    | with_reducible apply updStack_keeps
    | with_reducible apply occur_keeps
    | with_reducible apply setB_keeps
    | with_reducible apply setF_keeps
    | with_reducible apply Keeps.ite
    | with_reducible apply Keeps.foldl
    | split

theorem landauStep4_keeps {s : State} (l : LandauIn) (hs : Keeps q w s) : KeepsL q w (landauStep4 s l) := by
  unfold landauStep4
  try dsimp only
  repeat' first
    | with_reducible assumption
    | intro _
    | refine Keeps.eqL (by with_reducible assumption) ?_
    | with_reducible apply trainStack_keeps
    | with_reducible apply setLandau_keeps
    | with_reducible apply Keeps.ite
    | with_reducible apply Keeps.foldl
    | with_reducible apply KeepsL.ite
    | with_reducible apply KeepsL.foldl
    | split
    | with_reducible apply Keeps.fst
    | with_reducible apply KeepsL.pair
    | with_reducible apply Keeps.upd

theorem ackRetire_keeps {s : State} (cls : Nat) (unit : Nat) (idx : Nat) (hs : Keeps q w s) : Keeps q w (ackRetire s cls unit idx) := by
  unfold ackRetire
  try dsimp only
  repeat' first
    | with_reducible assumption
    | intro _
    | with_reducible apply showRetire_keeps
    | with_reducible apply setF_keeps
    | with_reducible apply Keeps.ite
    | with_reducible apply Keeps.foldl
    | split
    | with_reducible apply Keeps.upd

theorem retireNow_keeps {s : State} (cls : Nat) (unit : Nat) (idx : Nat) (hs : Keeps q w s) : Keeps q w (retireNow s cls unit idx) := by
  unfold retireNow
  try dsimp only
  repeat' first
    | with_reducible assumption
    | intro _
    | with_reducible apply ackRetire_keeps
    | with_reducible apply retireEvent_keeps
    | with_reducible apply appendRetire_keeps
    | with_reducible apply amended_keeps
    | with_reducible apply setF_keeps
    | with_reducible apply Keeps.ite
    | with_reducible apply Keeps.foldl
    | split

theorem badTile_keeps {s : State} (p : Nat × Nat × Nat) (hs : Keeps q w s) : Keeps q w (badTile s p) := by
  unfold badTile
  try dsimp only
  repeat' first
    | with_reducible assumption
    | intro _
    | with_reducible apply retireNow_keeps
    | with_reducible apply faultReport_keeps
    | with_reducible apply Keeps.ite
    | with_reducible apply Keeps.foldl
    | split

theorem landauStep5_keeps {s : State} (l : LandauIn) (hs : Keeps q w s) : Keeps q w (landauStep5 s l) := by
  unfold landauStep5
  try dsimp only
  repeat' first
    | with_reducible assumption
    | intro _
    | refine Keeps.eqP (by with_reducible assumption) ?_
    | with_reducible apply badTile_keeps
    | with_reducible apply setLandau_keeps
    | with_reducible apply combBuild_keeps
    | with_reducible apply faultReport_keeps
    | with_reducible apply drbgBytes_keeps
    | with_reducible apply setF_keeps
    | with_reducible apply Keeps.ite
    | with_reducible apply Keeps.foldl
    | with_reducible apply KeepsP.ite
    | with_reducible apply KeepsP.foldl
    | split
    | with_reducible apply Keeps.snd
    | with_reducible apply KeepsP.pair
    | with_reducible apply Keeps.upd

theorem setPhy_keeps {s : State} (on : Bool) (hs : Keeps q w s) : Keeps q w (setPhy s on) := by
  unfold setPhy
  try dsimp only
  repeat' first
    | with_reducible assumption
    | intro _
    | with_reducible apply setDomainOn_keeps
    | with_reducible apply Keeps.ite
    | with_reducible apply Keeps.foldl
    | split
    | with_reducible apply Keeps.upd

theorem openFailed_keeps {s : State} (ok : Bool) (hs : Keeps q w s) : Keeps q w (openFailed s ok) := by
  unfold openFailed
  try dsimp only
  repeat' first
    | with_reducible assumption
    | intro _
    | with_reducible apply setPhy_keeps
    | with_reducible apply setLandau_keeps
    | with_reducible apply deviceRecord_keeps
    | with_reducible apply faultReport_keeps
    | with_reducible apply Keeps.ite
    | with_reducible apply Keeps.foldl
    | split

theorem loadDomain_keeps {s : State} (d : Nat) (hs : Keeps q w s) : Keeps q w (loadDomain s d) := by
  unfold loadDomain
  try dsimp only
  repeat' first
    | with_reducible assumption
    | intro _
    | with_reducible apply pinDomain_keeps
    | with_reducible apply Keeps.ite
    | with_reducible apply Keeps.foldl
    | split
    | with_reducible apply Keeps.upd

theorem reloadKeys_keeps {s : State} (hs : Keeps q w s) : Keeps q w (reloadKeys s) := by
  unfold reloadKeys
  try dsimp only
  repeat' first
    | with_reducible assumption
    | intro _
    | with_reducible apply loadDomain_keeps
    | with_reducible apply pinMek_keeps
    | with_reducible apply setSciphSlot_keeps
    | with_reducible apply Keeps.ite
    | with_reducible apply Keeps.foldl
    | split
    | with_reducible apply Keeps.upd

theorem landauStep67_keeps {s : State} (l : LandauIn) (hs : Keeps q w s) : Keeps q w (landauStep67 s l) := by
  unfold landauStep67
  try dsimp only
  repeat' first
    | with_reducible assumption
    | intro _
    | with_reducible apply reloadKeys_keeps
    | with_reducible apply openFailed_keeps
    | with_reducible apply setPhy_keeps
    | with_reducible apply openStart_keeps
    | with_reducible apply setLandau_keeps
    | with_reducible apply setF_keeps
    | with_reducible apply Keeps.ite
    | with_reducible apply Keeps.foldl
    | split
    | with_reducible apply Keeps.upd

theorem loadCode_keeps {s : State} (code : List (Nat × Bytes)) (hs : Keeps q w s) : Keeps q w (loadCode s code) := by
  unfold loadCode
  try dsimp only
  repeat' first
    | with_reducible assumption
    | intro _
    | with_reducible apply Keeps.ite
    | with_reducible apply Keeps.foldl
    | split
    | refine Keeps.updMem ?_ (Memory.wf_mk ?_ ?_ ?_ ?_)
    | with_reducible apply cellsWf_filter
    | with_reducible apply cellsWf_writes
    | with_reducible apply cellsWf_foldl
    | with_reducible apply Keeps.cellsG q w
    | with_reducible apply Keeps.cellsI q w
    | with_reducible apply Keeps.cellsD q w
    | with_reducible apply Keeps.cellsH q w
    | exact cellsWf_nil _
    | with_reducible apply Keeps.upd

theorem landauFrom4_keeps {s : State} (l : LandauIn) (hs : Keeps q w s) : Keeps q w (landauFrom4 s l) := by
  unfold landauFrom4
  try dsimp only
  repeat' first
    | with_reducible assumption
    | intro _
    | refine Keeps.eqL (by with_reducible assumption) ?_
    | with_reducible apply loadCode_keeps
    | with_reducible apply landauStep67_keeps
    | with_reducible apply landauStep5_keeps
    | with_reducible apply landauStep4_keeps
    | with_reducible apply buildFailed_keeps
    | with_reducible apply deviceRecord_keeps
    | with_reducible apply Keeps.ite
    | with_reducible apply Keeps.foldl
    | with_reducible apply KeepsL.ite
    | with_reducible apply KeepsL.foldl
    | split
    | with_reducible apply Keeps.fst
    | with_reducible apply KeepsL.pair

theorem landauFrom3_keeps {s : State} (l : LandauIn) (hs : Keeps q w s) : Keeps q w (landauFrom3 s l) := by
  unfold landauFrom3
  try dsimp only
  repeat' first
    | with_reducible assumption
    | intro _
    | refine Keeps.eqL (by with_reducible assumption) ?_
    | with_reducible apply landauFrom4_keeps
    | with_reducible apply landauStep3_keeps
    | with_reducible apply noteChain_keeps
    | with_reducible apply refuseImage_keeps
    | with_reducible apply Keeps.ite
    | with_reducible apply Keeps.foldl
    | with_reducible apply KeepsL.ite
    | with_reducible apply KeepsL.foldl
    | split
    | with_reducible apply Keeps.fst
    | with_reducible apply KeepsL.pair

theorem landauFrom1_keeps {s : State} (l : LandauIn) (hs : Keeps q w s) : Keeps q w (landauFrom1 s l) := by
  unfold landauFrom1
  try dsimp only
  repeat' first
    | with_reducible assumption
    | intro _
    | refine Keeps.eqL (by with_reducible assumption) ?_
    | with_reducible apply landauFrom3_keeps
    | with_reducible apply landauStep2_keeps
    | with_reducible apply landauStep1_keeps
    | with_reducible apply buildFailed_keeps
    | with_reducible apply setLandau_keeps
    | with_reducible apply deviceRecord_keeps
    | with_reducible apply Keeps.ite
    | with_reducible apply Keeps.foldl
    | with_reducible apply KeepsL.ite
    | with_reducible apply KeepsL.foldl
    | split
    | with_reducible apply Keeps.fst
    | with_reducible apply KeepsL.pair

theorem execLandauLeg_keeps (l : LandauIn) {s : State} (hs : Keeps q w s) : KeepsR q w (execLandauLeg l s) := by
  unfold execLandauLeg
  try dsimp only
  repeat' first
    | with_reducible assumption
    | intro _
    | with_reducible apply landauFrom1_keeps
    | with_reducible apply landauFrom4_keeps
    | with_reducible apply whenGecko_keeps
    | with_reducible apply Keeps.ite
    | with_reducible apply Keeps.foldl
    | with_reducible apply KeepsR.next
    | with_reducible apply KeepsR.ite
    | split

end Sys2Proof.Machine
end

