-- ==== Sys2Proof/Laws/KeepsRegRow.lean ====
section
/-!
SUPPORT. Laws/KeepsRegRow.lean: what the operations of RegRow.lean keep.
-/
namespace Sys2Proof.Machine

variable {q : List Instr} {w : FuseBits}

theorem thenRelease_keeps {s : State} {t : State} (hs : Keeps q w s) (ht : Keeps q w t) : Keeps q w (thenRelease s t) := by
  unfold thenRelease
  try dsimp only
  repeat' first
    | with_reducible assumption
    | intro _
    | with_reducible apply releaseOpen_keeps
    | with_reducible apply Keeps.ite
    | with_reducible apply Keeps.foldl
    | split

theorem execRegisterWrite_keeps (blk : Nat) (off : Nat) (p : RegWr) {s : State} (hs : Keeps q w s) : KeepsR q w (execRegisterWrite blk off p s) := by
  obtain ⟨n, v, ide⟩ := p
  unfold execRegisterWrite
  try dsimp only
  repeat' first
    | with_reducible assumption
    | intro _
    | with_reducible apply thenRelease_keeps
    | with_reducible apply configWrite_keeps
    | with_reducible apply hostWrite_keeps
    | with_reducible apply busWrite_keeps
    | with_reducible apply Keeps.ite
    | with_reducible apply Keeps.foldl
    | with_reducible apply KeepsR.next
    | with_reducible apply KeepsR.ite
    | split

end Sys2Proof.Machine
end

