-- ==== Sys2Proof/Laws/KeepsDelpinRun.lean ====
section
/-!
SUPPORT. Laws/KeepsDelpinRun.lean: what the operations of DelpinRun.lean keep.
-/
namespace Sys2Proof.Machine

variable {q : List Instr} {w : FuseBits}

theorem runInsn_keeps (i : LongInsn) {s : State} (bad : DCore → Bool) (priv : Bool) (go : State → DCore → DOut State) (hs : Keeps q w s) (hgo : ∀ x0 x1, Keeps q w x0 → KeepsDS q w (go x0 x1)) : KeepsR q w (runInsn i s bad priv go) := by
  unfold runInsn
  try dsimp only
  repeat' first
    | with_reducible assumption
    | intro _
    | refine Keeps.eqD (by with_reducible assumption) ?_
    | refine Keeps.eqDF (by with_reducible assumption) ?_
    | refine Keeps.eqDS (by with_reducible assumption) ?_
    | refine Keeps.eqDT (by with_reducible assumption) ?_
    | refine Keeps.eqDSF (by with_reducible assumption) ?_
    | with_reducible apply hgo
    | with_reducible apply thenRelease_keeps
    | with_reducible apply raiseSync_keeps
    | with_reducible apply fetchCheck_keeps
    | with_reducible apply bufSettle_keeps
    | with_reducible apply setCore_keeps
    | with_reducible apply Keeps.ite
    | with_reducible apply Keeps.foldl
    | with_reducible apply KeepsR.next
    | with_reducible apply KeepsR.ite
    | with_reducible apply KeepsD.ok'
    | with_reducible apply KeepsD.fault
    | with_reducible apply KeepsD.wait
    | with_reducible apply KeepsD.bind
    | with_reducible apply KeepsD.ite
    | with_reducible apply KeepsDS.toD
    | with_reducible apply KeepsDS.ok'
    | with_reducible apply KeepsDS.fault
    | with_reducible apply KeepsDS.wait
    | with_reducible apply KeepsDS.bind
    | with_reducible apply KeepsDS.ite
    | split

theorem finish_keeps {s : State} (c : CoreId) (x : DCore) (writes : List (Nat × Bytes)) (hs : Keeps q w s) : KeepsDS q w (finish s c x writes) := by
  unfold finish
  try dsimp only
  repeat' first
    | with_reducible assumption
    | intro _
    | refine Keeps.eqD (by with_reducible assumption) ?_
    | refine Keeps.eqDF (by with_reducible assumption) ?_
    | refine Keeps.eqDS (by with_reducible assumption) ?_
    | refine Keeps.eqDT (by with_reducible assumption) ?_
    | refine Keeps.eqDSF (by with_reducible assumption) ?_
    | with_reducible apply memWrite_keeps
    | with_reducible apply setCore_keeps
    | with_reducible apply Keeps.ite
    | with_reducible apply Keeps.foldl
    | with_reducible apply KeepsD.ok'
    | with_reducible apply KeepsD.fault
    | with_reducible apply KeepsD.wait
    | with_reducible apply KeepsD.bind
    | with_reducible apply KeepsD.ite
    | with_reducible apply KeepsDS.toD
    | with_reducible apply KeepsDS.ok'
    | with_reducible apply KeepsDS.fault
    | with_reducible apply KeepsDS.wait
    | with_reducible apply KeepsDS.bind
    | with_reducible apply KeepsDS.ite
    | split

theorem operandOff_keeps {s : State} (c : CoreId) (x : DCore) (p : OpSpec) (bytes : Nat) (fails : List MemFail) (hs : Keeps q w s) : KeepsD q w (operandOff s c x p bytes fails) := by
  unfold operandOff
  try dsimp only
  repeat' first
    | with_reducible assumption
    | intro _
    | refine Keeps.eqD (by with_reducible assumption) ?_
    | refine Keeps.eqDF (by with_reducible assumption) ?_
    | with_reducible apply memRead_keeps
    | with_reducible apply checkAcc_keeps
    | with_reducible apply Keeps.ite
    | with_reducible apply Keeps.foldl
    | with_reducible apply KeepsD.ok'
    | with_reducible apply KeepsD.fault
    | with_reducible apply KeepsD.wait
    | with_reducible apply KeepsD.bind
    | with_reducible apply KeepsD.ite
    | split

theorem locate_keeps {s : State} (c : CoreId) (x : DCore) (p : OpSpec) (u : Use) (n : Nat) (fails : List MemFail) (hs : Keeps q w s) : KeepsD q w (locate s c x p u n fails) := by
  unfold locate
  try dsimp only
  repeat' first
    | with_reducible assumption
    | intro _
    | refine Keeps.eqD (by with_reducible assumption) ?_
    | refine Keeps.eqDF (by with_reducible assumption) ?_
    | with_reducible apply operandOff_keeps
    | with_reducible apply checkAcc_keeps
    | with_reducible apply Keeps.ite
    | with_reducible apply Keeps.foldl
    | with_reducible apply KeepsD.ok'
    | with_reducible apply KeepsD.fault
    | with_reducible apply KeepsD.wait
    | with_reducible apply KeepsD.bind
    | with_reducible apply KeepsD.ite
    | split
    | with_reducible apply Keeps.upd

theorem readLoc_keeps {s : State} (c : CoreId) (x : DCore) (l : Loc) (bytes : Nat) (fails : List MemFail) (hs : Keeps q w s) : KeepsD q w (readLoc s c x l bytes fails) := by
  unfold readLoc
  try dsimp only
  repeat' first
    | with_reducible assumption
    | intro _
    | refine Keeps.eqD (by with_reducible assumption) ?_
    | refine Keeps.eqDF (by with_reducible assumption) ?_
    | with_reducible apply memRead_keeps
    | with_reducible apply Keeps.ite
    | with_reducible apply Keeps.foldl
    | with_reducible apply KeepsD.ok'
    | with_reducible apply KeepsD.fault
    | with_reducible apply KeepsD.wait
    | with_reducible apply KeepsD.bind
    | with_reducible apply KeepsD.ite
    | split

theorem locateAll_keeps {s : State} (c : CoreId) (x : DCore) (fails : List MemFail) (l : List (OpSpec × Use × Nat)) (hs : Keeps q w s) :
    KeepsD q w (locateAll c x fails l s) := by
  induction l generalizing s with
  | nil => exact KeepsD.ok' hs
  | cons e l ih => exact KeepsD.bind (locate_keeps _ _ _ _ _ _ hs) fun _ _ h => KeepsD.bind (ih h) fun _ _ h => KeepsD.ok' h

theorem readLocs_keeps {s : State} (c : CoreId) (x : DCore) (fails : List MemFail) (bytes : Nat) (l : List Loc) (hs : Keeps q w s) :
    KeepsD q w (readLocs c x fails bytes l s) := by
  induction l generalizing s with
  | nil => exact KeepsD.ok' hs
  | cons e l ih => exact KeepsD.bind (readLoc_keeps _ _ _ _ _ hs) fun _ _ h => KeepsD.bind (ih h) fun _ _ h => KeepsD.ok' h

theorem dataBody_keeps (i : LongInsn) (nsrc : Nat) (srcBytes : Nat) (n : Nat) (f : State → DCore → List Nat → OpResult) {s : State} (x : DCore) (hs : Keeps q w s) : KeepsDS q w (dataBody i nsrc srcBytes n f s x) := by
  unfold dataBody
  try dsimp only
  repeat' first
    | with_reducible assumption
    | intro _
    | refine Keeps.eqD (by with_reducible assumption) ?_
    | refine Keeps.eqDF (by with_reducible assumption) ?_
    | refine Keeps.eqDS (by with_reducible assumption) ?_
    | refine Keeps.eqDT (by with_reducible assumption) ?_
    | refine Keeps.eqDSF (by with_reducible assumption) ?_
    | with_reducible apply readLocs_keeps
    | with_reducible apply locateAll_keeps
    | with_reducible apply finish_keeps
    | with_reducible apply Keeps.ite
    | with_reducible apply Keeps.foldl
    | with_reducible apply KeepsD.ok'
    | with_reducible apply KeepsD.fault
    | with_reducible apply KeepsD.wait
    | with_reducible apply KeepsD.bind
    | with_reducible apply KeepsD.ite
    | with_reducible apply KeepsDS.toD
    | with_reducible apply KeepsDS.ok'
    | with_reducible apply KeepsDS.fault
    | with_reducible apply KeepsDS.wait
    | with_reducible apply KeepsDS.bind
    | with_reducible apply KeepsDS.ite
    | split
    | with_reducible apply Keeps.upd

theorem dataOp_keeps (i : LongInsn) {s : State} (form : Form) (bad : Bool) (priv : Bool) (nsrc : Nat) (srcBytes : Nat) (n : Nat) (f : State → DCore → List Nat → OpResult) (hs : Keeps q w s) : KeepsR q w (dataOp i s form bad priv nsrc srcBytes n f) := by
  unfold dataOp
  try dsimp only
  repeat' first
    | with_reducible assumption
    | intro _
    | refine Keeps.eqD (by with_reducible assumption) ?_
    | refine Keeps.eqDF (by with_reducible assumption) ?_
    | refine Keeps.eqDS (by with_reducible assumption) ?_
    | refine Keeps.eqDT (by with_reducible assumption) ?_
    | refine Keeps.eqDSF (by with_reducible assumption) ?_
    | with_reducible apply dataBody_keeps
    | with_reducible apply runInsn_keeps
    | with_reducible apply Keeps.ite
    | with_reducible apply Keeps.foldl
    | with_reducible apply KeepsR.next
    | with_reducible apply KeepsR.ite
    | with_reducible apply KeepsD.ok'
    | with_reducible apply KeepsD.fault
    | with_reducible apply KeepsD.wait
    | with_reducible apply KeepsD.bind
    | with_reducible apply KeepsD.ite
    | with_reducible apply KeepsDS.toD
    | with_reducible apply KeepsDS.ok'
    | with_reducible apply KeepsDS.fault
    | with_reducible apply KeepsDS.wait
    | with_reducible apply KeepsDS.bind
    | with_reducible apply KeepsDS.ite
    | split

theorem threeOp_keeps (i : LongInsn) {s : State} (f : Flags → Nat → Nat → Nat → Nat × Flags) (hs : Keeps q w s) : KeepsR q w (threeOp i s f) := by
  unfold threeOp
  try dsimp only
  repeat' first
    | with_reducible assumption
    | intro _
    | with_reducible apply dataOp_keeps
    | with_reducible apply Keeps.ite
    | with_reducible apply Keeps.foldl
    | with_reducible apply KeepsR.next
    | with_reducible apply KeepsR.ite
    | split
    | with_reducible apply Keeps.upd

theorem twoOp_keeps (i : LongInsn) {s : State} (lo : Nat) (f : Flags → Nat → Nat → Nat × Flags) (hs : Keeps q w s) : KeepsR q w (twoOp i s lo f) := by
  unfold twoOp
  try dsimp only
  repeat' first
    | with_reducible assumption
    | intro _
    | with_reducible apply dataOp_keeps
    | with_reducible apply Keeps.ite
    | with_reducible apply Keeps.foldl
    | with_reducible apply KeepsR.next
    | with_reducible apply KeepsR.ite
    | split
    | with_reducible apply Keeps.upd

theorem testOp_keeps (i : LongInsn) {s : State} (f : Flags → Nat → Nat → Nat → Nat × Flags) (hs : Keeps q w s) : KeepsR q w (testOp i s f) := by
  unfold testOp
  try dsimp only
  repeat' first
    | with_reducible assumption
    | intro _
    | with_reducible apply dataOp_keeps
    | with_reducible apply Keeps.ite
    | with_reducible apply Keeps.foldl
    | with_reducible apply KeepsR.next
    | with_reducible apply KeepsR.ite
    | split
    | with_reducible apply Keeps.upd

theorem divOp_keeps (i : LongInsn) {s : State} (f : Nat → Nat → Nat → Nat × Flags) (hs : Keeps q w s) : KeepsR q w (divOp i s f) := by
  unfold divOp
  try dsimp only
  repeat' first
    | with_reducible assumption
    | intro _
    | with_reducible apply dataOp_keeps
    | with_reducible apply Keeps.ite
    | with_reducible apply Keeps.foldl
    | with_reducible apply KeepsR.next
    | with_reducible apply KeepsR.ite
    | split
    | with_reducible apply Keeps.upd

theorem targetOf_keeps {s : State} (c : CoreId) (x : DCore) (p : OpSpec) (size : Nat) (fails : List MemFail) (hs : Keeps q w s) : KeepsD q w (targetOf s c x p size fails) := by
  unfold targetOf
  try dsimp only
  repeat' first
    | with_reducible assumption
    | intro _
    | refine Keeps.eqD (by with_reducible assumption) ?_
    | refine Keeps.eqDF (by with_reducible assumption) ?_
    | with_reducible apply operandOff_keeps
    | with_reducible apply Keeps.ite
    | with_reducible apply Keeps.foldl
    | with_reducible apply KeepsD.ok'
    | with_reducible apply KeepsD.fault
    | with_reducible apply KeepsD.wait
    | with_reducible apply KeepsD.bind
    | with_reducible apply KeepsD.ite
    | split

end Sys2Proof.Machine
end

