-- ==== Sys2Proof/Laws/KeepsDelpinAlu.lean ====
section
/-!
SUPPORT. Laws/KeepsDelpinAlu.lean: what the operations of DelpinAlu.lean keep.
-/
namespace Sys2Proof.Machine

variable {q : List Instr} {w : FuseBits}

theorem execMove_keeps (i : LongInsn) {s : State} (hs : Keeps q w s) : KeepsR q w (execMove i s) := by
  unfold execMove
  try dsimp only
  repeat' first
    | with_reducible assumption
    | intro _
    | with_reducible apply twoOp_keeps
    | with_reducible apply Keeps.ite
    | with_reducible apply Keeps.foldl
    | with_reducible apply KeepsR.next
    | with_reducible apply KeepsR.ite
    | split

theorem execExt_keeps (i : LongInsn) {s : State} (hs : Keeps q w s) : KeepsR q w (execExt i s) := by
  unfold execExt
  try dsimp only
  repeat' first
    | with_reducible assumption
    | intro _
    | with_reducible apply dataOp_keeps
    | with_reducible apply Keeps.ite
    | with_reducible apply Keeps.foldl
    | with_reducible apply KeepsR.next
    | with_reducible apply KeepsR.ite
    | split
    | with_reducible apply Keeps.upd

theorem execLea_keeps (i : LongInsn) {s : State} (hs : Keeps q w s) : KeepsR q w (execLea i s) := by
  unfold execLea
  try dsimp only
  repeat' first
    | with_reducible assumption
    | intro _
    | refine Keeps.eqD (by with_reducible assumption) ?_
    | refine Keeps.eqDF (by with_reducible assumption) ?_
    | refine Keeps.eqDS (by with_reducible assumption) ?_
    | refine Keeps.eqDT (by with_reducible assumption) ?_
    | refine Keeps.eqDSF (by with_reducible assumption) ?_
    | with_reducible apply locate_keeps
    | with_reducible apply operandOff_keeps
    | with_reducible apply finish_keeps
    | with_reducible apply runInsn_keeps
    | with_reducible apply Keeps.ite
    | with_reducible apply Keeps.foldl
    | with_reducible apply KeepsR.next
    | with_reducible apply KeepsR.ite
    | with_reducible apply KeepsD.ok'
    | with_reducible apply KeepsD.fault
    | with_reducible apply KeepsD.wait
    | with_reducible apply KeepsD.bind
    | with_reducible apply KeepsD.ite
    | with_reducible apply KeepsDS.toD
    | with_reducible apply KeepsDS.ok'
    | with_reducible apply KeepsDS.fault
    | with_reducible apply KeepsDS.wait
    | with_reducible apply KeepsDS.bind
    | with_reducible apply KeepsDS.ite
    | split

theorem execClr_keeps (i : LongInsn) {s : State} (hs : Keeps q w s) : KeepsR q w (execClr i s) := by
  unfold execClr
  try dsimp only
  repeat' first
    | with_reducible assumption
    | intro _
    | with_reducible apply dataOp_keeps
    | with_reducible apply Keeps.ite
    | with_reducible apply Keeps.foldl
    | with_reducible apply KeepsR.next
    | with_reducible apply KeepsR.ite
    | split
    | with_reducible apply Keeps.upd

theorem execPush_keeps (i : LongInsn) {s : State} (hs : Keeps q w s) : KeepsR q w (execPush i s) := by
  unfold execPush
  try dsimp only
  repeat' first
    | with_reducible assumption
    | intro _
    | refine Keeps.eqD (by with_reducible assumption) ?_
    | refine Keeps.eqDF (by with_reducible assumption) ?_
    | refine Keeps.eqDS (by with_reducible assumption) ?_
    | refine Keeps.eqDT (by with_reducible assumption) ?_
    | refine Keeps.eqDSF (by with_reducible assumption) ?_
    | with_reducible apply readLoc_keeps
    | with_reducible apply locate_keeps
    | with_reducible apply finish_keeps
    | with_reducible apply runInsn_keeps
    | with_reducible apply checkAcc_keeps
    | with_reducible apply Keeps.ite
    | with_reducible apply Keeps.foldl
    | with_reducible apply KeepsR.next
    | with_reducible apply KeepsR.ite
    | with_reducible apply KeepsD.ok'
    | with_reducible apply KeepsD.fault
    | with_reducible apply KeepsD.wait
    | with_reducible apply KeepsD.bind
    | with_reducible apply KeepsD.ite
    | with_reducible apply KeepsDS.toD
    | with_reducible apply KeepsDS.ok'
    | with_reducible apply KeepsDS.fault
    | with_reducible apply KeepsDS.wait
    | with_reducible apply KeepsDS.bind
    | with_reducible apply KeepsDS.ite
    | split
    | with_reducible apply Keeps.upd

theorem execPop_keeps (i : LongInsn) {s : State} (hs : Keeps q w s) : KeepsR q w (execPop i s) := by
  unfold execPop
  try dsimp only
  repeat' first
    | with_reducible assumption
    | intro _
    | refine Keeps.eqD (by with_reducible assumption) ?_
    | refine Keeps.eqDF (by with_reducible assumption) ?_
    | refine Keeps.eqDS (by with_reducible assumption) ?_
    | refine Keeps.eqDT (by with_reducible assumption) ?_
    | refine Keeps.eqDSF (by with_reducible assumption) ?_
    | with_reducible apply locate_keeps
    | with_reducible apply finish_keeps
    | with_reducible apply runInsn_keeps
    | with_reducible apply memRead_keeps
    | with_reducible apply checkAcc_keeps
    | with_reducible apply Keeps.ite
    | with_reducible apply Keeps.foldl
    | with_reducible apply KeepsR.next
    | with_reducible apply KeepsR.ite
    | with_reducible apply KeepsD.ok'
    | with_reducible apply KeepsD.fault
    | with_reducible apply KeepsD.wait
    | with_reducible apply KeepsD.bind
    | with_reducible apply KeepsD.ite
    | with_reducible apply KeepsDS.toD
    | with_reducible apply KeepsDS.ok'
    | with_reducible apply KeepsDS.fault
    | with_reducible apply KeepsDS.wait
    | with_reducible apply KeepsDS.bind
    | with_reducible apply KeepsDS.ite
    | split
    | with_reducible apply Keeps.upd

theorem execAdd_keeps (i : LongInsn) {s : State} (hs : Keeps q w s) : KeepsR q w (execAdd i s) := by
  unfold execAdd
  try dsimp only
  repeat' first
    | with_reducible assumption
    | intro _
    | with_reducible apply threeOp_keeps
    | with_reducible apply Keeps.ite
    | with_reducible apply Keeps.foldl
    | with_reducible apply KeepsR.next
    | with_reducible apply KeepsR.ite
    | split

theorem execAddc_keeps (i : LongInsn) {s : State} (hs : Keeps q w s) : KeepsR q w (execAddc i s) := by
  unfold execAddc
  try dsimp only
  repeat' first
    | with_reducible assumption
    | intro _
    | with_reducible apply threeOp_keeps
    | with_reducible apply Keeps.ite
    | with_reducible apply Keeps.foldl
    | with_reducible apply KeepsR.next
    | with_reducible apply KeepsR.ite
    | split

theorem execSub_keeps (i : LongInsn) {s : State} (hs : Keeps q w s) : KeepsR q w (execSub i s) := by
  unfold execSub
  try dsimp only
  repeat' first
    | with_reducible assumption
    | intro _
    | with_reducible apply threeOp_keeps
    | with_reducible apply Keeps.ite
    | with_reducible apply Keeps.foldl
    | with_reducible apply KeepsR.next
    | with_reducible apply KeepsR.ite
    | split

theorem execSubc_keeps (i : LongInsn) {s : State} (hs : Keeps q w s) : KeepsR q w (execSubc i s) := by
  unfold execSubc
  try dsimp only
  repeat' first
    | with_reducible assumption
    | intro _
    | with_reducible apply threeOp_keeps
    | with_reducible apply Keeps.ite
    | with_reducible apply Keeps.foldl
    | with_reducible apply KeepsR.next
    | with_reducible apply KeepsR.ite
    | split

theorem execCmp_keeps (i : LongInsn) {s : State} (hs : Keeps q w s) : KeepsR q w (execCmp i s) := by
  unfold execCmp
  try dsimp only
  repeat' first
    | with_reducible assumption
    | intro _
    | with_reducible apply testOp_keeps
    | with_reducible apply Keeps.ite
    | with_reducible apply Keeps.foldl
    | with_reducible apply KeepsR.next
    | with_reducible apply KeepsR.ite
    | split

theorem execNeg_keeps (i : LongInsn) {s : State} (hs : Keeps q w s) : KeepsR q w (execNeg i s) := by
  unfold execNeg
  try dsimp only
  repeat' first
    | with_reducible assumption
    | intro _
    | with_reducible apply twoOp_keeps
    | with_reducible apply Keeps.ite
    | with_reducible apply Keeps.foldl
    | with_reducible apply KeepsR.next
    | with_reducible apply KeepsR.ite
    | split

theorem execMul_keeps (i : LongInsn) {s : State} (hs : Keeps q w s) : KeepsR q w (execMul i s) := by
  unfold execMul
  try dsimp only
  repeat' first
    | with_reducible assumption
    | intro _
    | with_reducible apply threeOp_keeps
    | with_reducible apply Keeps.ite
    | with_reducible apply Keeps.foldl
    | with_reducible apply KeepsR.next
    | with_reducible apply KeepsR.ite
    | split

theorem execMulh_keeps (i : LongInsn) {s : State} (hs : Keeps q w s) : KeepsR q w (execMulh i s) := by
  unfold execMulh
  try dsimp only
  repeat' first
    | with_reducible assumption
    | intro _
    | with_reducible apply threeOp_keeps
    | with_reducible apply Keeps.ite
    | with_reducible apply Keeps.foldl
    | with_reducible apply KeepsR.next
    | with_reducible apply KeepsR.ite
    | split

theorem execMulhs_keeps (i : LongInsn) {s : State} (hs : Keeps q w s) : KeepsR q w (execMulhs i s) := by
  unfold execMulhs
  try dsimp only
  repeat' first
    | with_reducible assumption
    | intro _
    | with_reducible apply threeOp_keeps
    | with_reducible apply Keeps.ite
    | with_reducible apply Keeps.foldl
    | with_reducible apply KeepsR.next
    | with_reducible apply KeepsR.ite
    | split

theorem execDiv_keeps (i : LongInsn) {s : State} (hs : Keeps q w s) : KeepsR q w (execDiv i s) := by
  unfold execDiv
  try dsimp only
  repeat' first
    | with_reducible assumption
    | intro _
    | with_reducible apply divOp_keeps
    | with_reducible apply Keeps.ite
    | with_reducible apply Keeps.foldl
    | with_reducible apply KeepsR.next
    | with_reducible apply KeepsR.ite
    | split

theorem execDivs_keeps (i : LongInsn) {s : State} (hs : Keeps q w s) : KeepsR q w (execDivs i s) := by
  unfold execDivs
  try dsimp only
  repeat' first
    | with_reducible assumption
    | intro _
    | with_reducible apply divOp_keeps
    | with_reducible apply Keeps.ite
    | with_reducible apply Keeps.foldl
    | with_reducible apply KeepsR.next
    | with_reducible apply KeepsR.ite
    | split

theorem execRem_keeps (i : LongInsn) {s : State} (hs : Keeps q w s) : KeepsR q w (execRem i s) := by
  unfold execRem
  try dsimp only
  repeat' first
    | with_reducible assumption
    | intro _
    | with_reducible apply divOp_keeps
    | with_reducible apply Keeps.ite
    | with_reducible apply Keeps.foldl
    | with_reducible apply KeepsR.next
    | with_reducible apply KeepsR.ite
    | split

theorem execRems_keeps (i : LongInsn) {s : State} (hs : Keeps q w s) : KeepsR q w (execRems i s) := by
  unfold execRems
  try dsimp only
  repeat' first
    | with_reducible assumption
    | intro _
    | with_reducible apply divOp_keeps
    | with_reducible apply Keeps.ite
    | with_reducible apply Keeps.foldl
    | with_reducible apply KeepsR.next
    | with_reducible apply KeepsR.ite
    | split

theorem execAnd_keeps (i : LongInsn) {s : State} (hs : Keeps q w s) : KeepsR q w (execAnd i s) := by
  unfold execAnd
  try dsimp only
  repeat' first
    | with_reducible assumption
    | intro _
    | with_reducible apply threeOp_keeps
    | with_reducible apply Keeps.ite
    | with_reducible apply Keeps.foldl
    | with_reducible apply KeepsR.next
    | with_reducible apply KeepsR.ite
    | split

theorem execOr_keeps (i : LongInsn) {s : State} (hs : Keeps q w s) : KeepsR q w (execOr i s) := by
  unfold execOr
  try dsimp only
  repeat' first
    | with_reducible assumption
    | intro _
    | with_reducible apply threeOp_keeps
    | with_reducible apply Keeps.ite
    | with_reducible apply Keeps.foldl
    | with_reducible apply KeepsR.next
    | with_reducible apply KeepsR.ite
    | split

theorem execXor_keeps (i : LongInsn) {s : State} (hs : Keeps q w s) : KeepsR q w (execXor i s) := by
  unfold execXor
  try dsimp only
  repeat' first
    | with_reducible assumption
    | intro _
    | with_reducible apply threeOp_keeps
    | with_reducible apply Keeps.ite
    | with_reducible apply Keeps.foldl
    | with_reducible apply KeepsR.next
    | with_reducible apply KeepsR.ite
    | split

theorem execNot_keeps (i : LongInsn) {s : State} (hs : Keeps q w s) : KeepsR q w (execNot i s) := by
  unfold execNot
  try dsimp only
  repeat' first
    | with_reducible assumption
    | intro _
    | with_reducible apply twoOp_keeps
    | with_reducible apply Keeps.ite
    | with_reducible apply Keeps.foldl
    | with_reducible apply KeepsR.next
    | with_reducible apply KeepsR.ite
    | split

theorem execTst_keeps (i : LongInsn) {s : State} (hs : Keeps q w s) : KeepsR q w (execTst i s) := by
  unfold execTst
  try dsimp only
  repeat' first
    | with_reducible assumption
    | intro _
    | with_reducible apply testOp_keeps
    | with_reducible apply Keeps.ite
    | with_reducible apply Keeps.foldl
    | with_reducible apply KeepsR.next
    | with_reducible apply KeepsR.ite
    | split

theorem execShl_keeps (i : LongInsn) {s : State} (hs : Keeps q w s) : KeepsR q w (execShl i s) := by
  unfold execShl
  try dsimp only
  repeat' first
    | with_reducible assumption
    | intro _
    | with_reducible apply threeOp_keeps
    | with_reducible apply Keeps.ite
    | with_reducible apply Keeps.foldl
    | with_reducible apply KeepsR.next
    | with_reducible apply KeepsR.ite
    | split

theorem execShr_keeps (i : LongInsn) {s : State} (hs : Keeps q w s) : KeepsR q w (execShr i s) := by
  unfold execShr
  try dsimp only
  repeat' first
    | with_reducible assumption
    | intro _
    | with_reducible apply threeOp_keeps
    | with_reducible apply Keeps.ite
    | with_reducible apply Keeps.foldl
    | with_reducible apply KeepsR.next
    | with_reducible apply KeepsR.ite
    | split

theorem execSar_keeps (i : LongInsn) {s : State} (hs : Keeps q w s) : KeepsR q w (execSar i s) := by
  unfold execSar
  try dsimp only
  repeat' first
    | with_reducible assumption
    | intro _
    | with_reducible apply threeOp_keeps
    | with_reducible apply Keeps.ite
    | with_reducible apply Keeps.foldl
    | with_reducible apply KeepsR.next
    | with_reducible apply KeepsR.ite
    | split

theorem execRol_keeps (i : LongInsn) {s : State} (hs : Keeps q w s) : KeepsR q w (execRol i s) := by
  unfold execRol
  try dsimp only
  repeat' first
    | with_reducible assumption
    | intro _
    | with_reducible apply threeOp_keeps
    | with_reducible apply Keeps.ite
    | with_reducible apply Keeps.foldl
    | with_reducible apply KeepsR.next
    | with_reducible apply KeepsR.ite
    | split

theorem execRor_keeps (i : LongInsn) {s : State} (hs : Keeps q w s) : KeepsR q w (execRor i s) := by
  unfold execRor
  try dsimp only
  repeat' first
    | with_reducible assumption
    | intro _
    | with_reducible apply threeOp_keeps
    | with_reducible apply Keeps.ite
    | with_reducible apply Keeps.foldl
    | with_reducible apply KeepsR.next
    | with_reducible apply KeepsR.ite
    | split

theorem execClz_keeps (i : LongInsn) {s : State} (hs : Keeps q w s) : KeepsR q w (execClz i s) := by
  unfold execClz
  try dsimp only
  repeat' first
    | with_reducible assumption
    | intro _
    | with_reducible apply twoOp_keeps
    | with_reducible apply Keeps.ite
    | with_reducible apply Keeps.foldl
    | with_reducible apply KeepsR.next
    | with_reducible apply KeepsR.ite
    | split

theorem execPopc_keeps (i : LongInsn) {s : State} (hs : Keeps q w s) : KeepsR q w (execPopc i s) := by
  unfold execPopc
  try dsimp only
  repeat' first
    | with_reducible assumption
    | intro _
    | with_reducible apply twoOp_keeps
    | with_reducible apply Keeps.ite
    | with_reducible apply Keeps.foldl
    | with_reducible apply KeepsR.next
    | with_reducible apply KeepsR.ite
    | split

theorem execBswap_keeps (i : LongInsn) {s : State} (hs : Keeps q w s) : KeepsR q w (execBswap i s) := by
  unfold execBswap
  try dsimp only
  repeat' first
    | with_reducible assumption
    | intro _
    | with_reducible apply twoOp_keeps
    | with_reducible apply Keeps.ite
    | with_reducible apply Keeps.foldl
    | with_reducible apply KeepsR.next
    | with_reducible apply KeepsR.ite
    | split

theorem execCsel_keeps (i : LongInsn) {s : State} (hs : Keeps q w s) : KeepsR q w (execCsel i s) := by
  unfold execCsel
  try dsimp only
  repeat' first
    | with_reducible assumption
    | intro _
    | with_reducible apply dataOp_keeps
    | with_reducible apply Keeps.ite
    | with_reducible apply Keeps.foldl
    | with_reducible apply KeepsR.next
    | with_reducible apply KeepsR.ite
    | split
    | with_reducible apply Keeps.upd

theorem execCteq_keeps (i : LongInsn) {s : State} (hs : Keeps q w s) : KeepsR q w (execCteq i s) := by
  unfold execCteq
  try dsimp only
  repeat' first
    | with_reducible assumption
    | intro _
    | with_reducible apply threeOp_keeps
    | with_reducible apply Keeps.ite
    | with_reducible apply Keeps.foldl
    | with_reducible apply KeepsR.next
    | with_reducible apply KeepsR.ite
    | split

theorem execCtlt_keeps (i : LongInsn) {s : State} (hs : Keeps q w s) : KeepsR q w (execCtlt i s) := by
  unfold execCtlt
  try dsimp only
  repeat' first
    | with_reducible assumption
    | intro _
    | with_reducible apply threeOp_keeps
    | with_reducible apply Keeps.ite
    | with_reducible apply Keeps.foldl
    | with_reducible apply KeepsR.next
    | with_reducible apply KeepsR.ite
    | split

theorem execCtmask_keeps (i : LongInsn) {s : State} (hs : Keeps q w s) : KeepsR q w (execCtmask i s) := by
  unfold execCtmask
  try dsimp only
  repeat' first
    | with_reducible assumption
    | intro _
    | with_reducible apply twoOp_keeps
    | with_reducible apply Keeps.ite
    | with_reducible apply Keeps.foldl
    | with_reducible apply KeepsR.next
    | with_reducible apply KeepsR.ite
    | split

theorem execCtbeq_keeps (i : LongInsn) {s : State} (hs : Keeps q w s) : KeepsR q w (execCtbeq i s) := by
  unfold execCtbeq
  try dsimp only
  repeat' first
    | with_reducible assumption
    | intro _
    | refine Keeps.eqD (by with_reducible assumption) ?_
    | refine Keeps.eqDF (by with_reducible assumption) ?_
    | refine Keeps.eqDS (by with_reducible assumption) ?_
    | refine Keeps.eqDT (by with_reducible assumption) ?_
    | refine Keeps.eqDSF (by with_reducible assumption) ?_
    | with_reducible apply readLocs_keeps
    | with_reducible apply locateAll_keeps
    | with_reducible apply finish_keeps
    | with_reducible apply runInsn_keeps
    | with_reducible apply Keeps.ite
    | with_reducible apply Keeps.foldl
    | with_reducible apply KeepsR.next
    | with_reducible apply KeepsR.ite
    | with_reducible apply KeepsD.ok'
    | with_reducible apply KeepsD.fault
    | with_reducible apply KeepsD.wait
    | with_reducible apply KeepsD.bind
    | with_reducible apply KeepsD.ite
    | with_reducible apply KeepsDS.toD
    | with_reducible apply KeepsDS.ok'
    | with_reducible apply KeepsDS.fault
    | with_reducible apply KeepsDS.wait
    | with_reducible apply KeepsDS.bind
    | with_reducible apply KeepsDS.ite
    | split
    | with_reducible apply Keeps.upd

theorem shortCheck_keeps {s : State} (c : CoreId) (x : DCore) (o : ShortOp) (hs : Keeps q w s) : KeepsD q w (shortCheck s c x o) := by
  unfold shortCheck
  try dsimp only
  repeat' first
    | with_reducible assumption
    | intro _
    | refine Keeps.eqD (by with_reducible assumption) ?_
    | refine Keeps.eqDF (by with_reducible assumption) ?_
    | with_reducible apply checkAcc_keeps
    | with_reducible apply Keeps.ite
    | with_reducible apply Keeps.foldl
    | with_reducible apply KeepsD.ok'
    | with_reducible apply KeepsD.fault
    | with_reducible apply KeepsD.wait
    | with_reducible apply KeepsD.bind
    | with_reducible apply KeepsD.ite
    | split

theorem shortRun_keeps {s : State} (c : CoreId) (x : DCore) (fl : Flags) (o : ShortOp) (p : Nat × Nat) (fails : List MemFail) (hs : Keeps q w s) : KeepsD q w (shortRun s c x fl o p fails) := by
  unfold shortRun
  try dsimp only
  repeat' first
    | with_reducible assumption
    | intro _
    | refine Keeps.eqD (by with_reducible assumption) ?_
    | refine Keeps.eqDF (by with_reducible assumption) ?_
    | with_reducible apply memRead_keeps
    | with_reducible apply Keeps.ite
    | with_reducible apply Keeps.foldl
    | with_reducible apply KeepsD.ok'
    | with_reducible apply KeepsD.fault
    | with_reducible apply KeepsD.wait
    | with_reducible apply KeepsD.bind
    | with_reducible apply KeepsD.ite
    | split

theorem shortWrite_keeps {s : State} (c : CoreId) (x : DCore) (o : ShortOp) (p : Nat × Nat) (r : Option Nat) (hs : Keeps q w s) : Keeps q w (shortWrite s c x o p r) := by
  unfold shortWrite
  try dsimp only
  repeat' first
    | with_reducible assumption
    | intro _
    | with_reducible apply memWrite_keeps
    | with_reducible apply Keeps.ite
    | with_reducible apply Keeps.foldl
    | split

theorem pairRun_keeps {s : State} (c : CoreId) (x : DCore) (f : ShortOp) (g : ShortOp) (pf : Nat × Nat) (pg : Nat × Nat) (fails : List MemFail) (hs : Keeps q w s) : KeepsDS q w (pairRun s c x f g pf pg fails) := by
  unfold pairRun
  try dsimp only
  repeat' first
    | with_reducible assumption
    | intro _
    | refine Keeps.eqD (by with_reducible assumption) ?_
    | refine Keeps.eqDF (by with_reducible assumption) ?_
    | refine Keeps.eqDS (by with_reducible assumption) ?_
    | refine Keeps.eqDT (by with_reducible assumption) ?_
    | refine Keeps.eqDSF (by with_reducible assumption) ?_
    | with_reducible apply shortWrite_keeps
    | with_reducible apply shortRun_keeps
    | with_reducible apply setCore_keeps
    | with_reducible apply Keeps.ite
    | with_reducible apply Keeps.foldl
    | with_reducible apply KeepsD.ok'
    | with_reducible apply KeepsD.fault
    | with_reducible apply KeepsD.wait
    | with_reducible apply KeepsD.bind
    | with_reducible apply KeepsD.ite
    | with_reducible apply KeepsDS.toD
    | with_reducible apply KeepsDS.ok'
    | with_reducible apply KeepsDS.fault
    | with_reducible apply KeepsDS.wait
    | with_reducible apply KeepsDS.bind
    | with_reducible apply KeepsDS.ite
    | split

theorem execPairedWord_keeps (core : CoreId) (f : ShortOp) (g : ShortOp) (bit15 : Bool) (fails : List MemFail) {s : State} (hs : Keeps q w s) : KeepsR q w (execPairedWord core f g bit15 fails s) := by
  unfold execPairedWord
  try dsimp only
  repeat' first
    | with_reducible assumption
    | intro _
    | refine Keeps.eqD (by with_reducible assumption) ?_
    | refine Keeps.eqDF (by with_reducible assumption) ?_
    | refine Keeps.eqDS (by with_reducible assumption) ?_
    | refine Keeps.eqDT (by with_reducible assumption) ?_
    | refine Keeps.eqDSF (by with_reducible assumption) ?_
    | with_reducible apply pairRun_keeps
    | with_reducible apply shortCheck_keeps
    | with_reducible apply runInsn_keeps
    | with_reducible apply Keeps.ite
    | with_reducible apply Keeps.foldl
    | with_reducible apply KeepsR.next
    | with_reducible apply KeepsR.ite
    | with_reducible apply KeepsD.ok'
    | with_reducible apply KeepsD.fault
    | with_reducible apply KeepsD.wait
    | with_reducible apply KeepsD.bind
    | with_reducible apply KeepsD.ite
    | with_reducible apply KeepsDS.toD
    | with_reducible apply KeepsDS.ok'
    | with_reducible apply KeepsDS.fault
    | with_reducible apply KeepsDS.wait
    | with_reducible apply KeepsDS.bind
    | with_reducible apply KeepsDS.ite
    | split

end Sys2Proof.Machine
end

