-- ==== Sys2Proof/Laws/KeepsDelpinSys.lean ====
section
/-!
SUPPORT. Laws/KeepsDelpinSys.lean: what the operations of DelpinSys.lean keep.
-/
namespace Sys2Proof.Machine

variable {q : List Instr} {w : FuseBits}

theorem execJmp_keeps (i : LongInsn) {s : State} (hs : Keeps q w s) : KeepsR q w (execJmp i s) := by
  unfold execJmp
  try dsimp only
  repeat' first
    | with_reducible assumption
    | intro _
    | refine Keeps.eqD (by with_reducible assumption) ?_
    | refine Keeps.eqDF (by with_reducible assumption) ?_
    | refine Keeps.eqDS (by with_reducible assumption) ?_
    | refine Keeps.eqDT (by with_reducible assumption) ?_
    | refine Keeps.eqDSF (by with_reducible assumption) ?_
    | with_reducible apply targetOf_keeps
    | with_reducible apply finish_keeps
    | with_reducible apply runInsn_keeps
    | with_reducible apply Keeps.ite
    | with_reducible apply Keeps.foldl
    | with_reducible apply KeepsR.next
    | with_reducible apply KeepsR.ite
    | with_reducible apply KeepsD.ok'
    | with_reducible apply KeepsD.fault
    | with_reducible apply KeepsD.wait
    | with_reducible apply KeepsD.bind
    | with_reducible apply KeepsD.ite
    | with_reducible apply KeepsDS.toD
    | with_reducible apply KeepsDS.ok'
    | with_reducible apply KeepsDS.fault
    | with_reducible apply KeepsDS.wait
    | with_reducible apply KeepsDS.bind
    | with_reducible apply KeepsDS.ite
    | split

theorem execCall_keeps (i : LongInsn) {s : State} (hs : Keeps q w s) : KeepsR q w (execCall i s) := by
  unfold execCall
  try dsimp only
  repeat' first
    | with_reducible assumption
    | intro _
    | refine Keeps.eqD (by with_reducible assumption) ?_
    | refine Keeps.eqDF (by with_reducible assumption) ?_
    | refine Keeps.eqDS (by with_reducible assumption) ?_
    | refine Keeps.eqDT (by with_reducible assumption) ?_
    | refine Keeps.eqDSF (by with_reducible assumption) ?_
    | with_reducible apply targetOf_keeps
    | with_reducible apply finish_keeps
    | with_reducible apply runInsn_keeps
    | with_reducible apply checkAcc_keeps
    | with_reducible apply Keeps.ite
    | with_reducible apply Keeps.foldl
    | with_reducible apply KeepsR.next
    | with_reducible apply KeepsR.ite
    | with_reducible apply KeepsD.ok'
    | with_reducible apply KeepsD.fault
    | with_reducible apply KeepsD.wait
    | with_reducible apply KeepsD.bind
    | with_reducible apply KeepsD.ite
    | with_reducible apply KeepsDS.toD
    | with_reducible apply KeepsDS.ok'
    | with_reducible apply KeepsDS.fault
    | with_reducible apply KeepsDS.wait
    | with_reducible apply KeepsDS.bind
    | with_reducible apply KeepsDS.ite
    | split

theorem execRet_keeps (i : LongInsn) {s : State} (hs : Keeps q w s) : KeepsR q w (execRet i s) := by
  unfold execRet
  try dsimp only
  repeat' first
    | with_reducible assumption
    | intro _
    | refine Keeps.eqD (by with_reducible assumption) ?_
    | refine Keeps.eqDF (by with_reducible assumption) ?_
    | refine Keeps.eqDS (by with_reducible assumption) ?_
    | refine Keeps.eqDT (by with_reducible assumption) ?_
    | refine Keeps.eqDSF (by with_reducible assumption) ?_
    | with_reducible apply finish_keeps
    | with_reducible apply runInsn_keeps
    | with_reducible apply memRead_keeps
    | with_reducible apply checkAcc_keeps
    | with_reducible apply Keeps.ite
    | with_reducible apply Keeps.foldl
    | with_reducible apply KeepsR.next
    | with_reducible apply KeepsR.ite
    | with_reducible apply KeepsD.ok'
    | with_reducible apply KeepsD.fault
    | with_reducible apply KeepsD.wait
    | with_reducible apply KeepsD.bind
    | with_reducible apply KeepsD.ite
    | with_reducible apply KeepsDS.toD
    | with_reducible apply KeepsDS.ok'
    | with_reducible apply KeepsDS.fault
    | with_reducible apply KeepsDS.wait
    | with_reducible apply KeepsDS.bind
    | with_reducible apply KeepsDS.ite
    | split

theorem execLoop_keeps (i : LongInsn) {s : State} (hs : Keeps q w s) : KeepsR q w (execLoop i s) := by
  unfold execLoop
  try dsimp only
  repeat' first
    | with_reducible assumption
    | intro _
    | refine Keeps.eqD (by with_reducible assumption) ?_
    | refine Keeps.eqDF (by with_reducible assumption) ?_
    | refine Keeps.eqDS (by with_reducible assumption) ?_
    | refine Keeps.eqDT (by with_reducible assumption) ?_
    | refine Keeps.eqDSF (by with_reducible assumption) ?_
    | with_reducible apply targetOf_keeps
    | with_reducible apply readLoc_keeps
    | with_reducible apply locate_keeps
    | with_reducible apply finish_keeps
    | with_reducible apply runInsn_keeps
    | with_reducible apply Keeps.ite
    | with_reducible apply Keeps.foldl
    | with_reducible apply KeepsR.next
    | with_reducible apply KeepsR.ite
    | with_reducible apply KeepsD.ok'
    | with_reducible apply KeepsD.fault
    | with_reducible apply KeepsD.wait
    | with_reducible apply KeepsD.bind
    | with_reducible apply KeepsD.ite
    | with_reducible apply KeepsDS.toD
    | with_reducible apply KeepsDS.ok'
    | with_reducible apply KeepsDS.fault
    | with_reducible apply KeepsDS.wait
    | with_reducible apply KeepsDS.bind
    | with_reducible apply KeepsDS.ite
    | split
    | with_reducible apply Keeps.upd

theorem atomicOp_keeps (i : LongInsn) {s : State} (count : Nat) (f : DCore → Nat → Nat → Nat → Option Nat × DCore) (hs : Keeps q w s) : KeepsR q w (atomicOp i s count f) := by
  unfold atomicOp
  try dsimp only
  repeat' first
    | with_reducible assumption
    | intro _
    | refine Keeps.eqD (by with_reducible assumption) ?_
    | refine Keeps.eqDF (by with_reducible assumption) ?_
    | refine Keeps.eqDS (by with_reducible assumption) ?_
    | refine Keeps.eqDT (by with_reducible assumption) ?_
    | refine Keeps.eqDSF (by with_reducible assumption) ?_
    | with_reducible apply readLocs_keeps
    | with_reducible apply locateAll_keeps
    | with_reducible apply operandOff_keeps
    | with_reducible apply finish_keeps
    | with_reducible apply runInsn_keeps
    | with_reducible apply drainCore_keeps
    | with_reducible apply memRead_keeps
    | with_reducible apply checkAcc_keeps
    | with_reducible apply Keeps.ite
    | with_reducible apply Keeps.foldl
    | with_reducible apply KeepsR.next
    | with_reducible apply KeepsR.ite
    | with_reducible apply KeepsD.ok'
    | with_reducible apply KeepsD.fault
    | with_reducible apply KeepsD.wait
    | with_reducible apply KeepsD.bind
    | with_reducible apply KeepsD.ite
    | with_reducible apply KeepsDS.toD
    | with_reducible apply KeepsDS.ok'
    | with_reducible apply KeepsDS.fault
    | with_reducible apply KeepsDS.wait
    | with_reducible apply KeepsDS.bind
    | with_reducible apply KeepsDS.ite
    | split
    | with_reducible apply Keeps.upd

theorem execSwapa_keeps (i : LongInsn) {s : State} (hs : Keeps q w s) : KeepsR q w (execSwapa i s) := by
  unfold execSwapa
  try dsimp only
  repeat' first
    | with_reducible assumption
    | intro _
    | with_reducible apply atomicOp_keeps
    | with_reducible apply Keeps.ite
    | with_reducible apply Keeps.foldl
    | with_reducible apply KeepsR.next
    | with_reducible apply KeepsR.ite
    | split

theorem execCas_keeps (i : LongInsn) {s : State} (hs : Keeps q w s) : KeepsR q w (execCas i s) := by
  unfold execCas
  try dsimp only
  repeat' first
    | with_reducible assumption
    | intro _
    | with_reducible apply atomicOp_keeps
    | with_reducible apply Keeps.ite
    | with_reducible apply Keeps.foldl
    | with_reducible apply KeepsR.next
    | with_reducible apply KeepsR.ite
    | split

theorem execFadd_keeps (i : LongInsn) {s : State} (hs : Keeps q w s) : KeepsR q w (execFadd i s) := by
  unfold execFadd
  try dsimp only
  repeat' first
    | with_reducible assumption
    | intro _
    | with_reducible apply atomicOp_keeps
    | with_reducible apply Keeps.ite
    | with_reducible apply Keeps.foldl
    | with_reducible apply KeepsR.next
    | with_reducible apply KeepsR.ite
    | split

theorem copyBytes_keeps {s : State} (c : CoreId) (x : DCore) (fails : List MemFail) (src dst : Int) (sseg dseg k n : Nat) (hs : Keeps q w s) :
    KeepsD q w (copyBytes c x fails src dst sseg dseg k n s) := by
  induction k generalizing s n with
  | zero => exact KeepsD.ok' hs
  | succ k ih => exact KeepsD.bind (memRead_keeps _ _ _ _ hs) fun _ _ h => ih _ (memWrite_keeps _ _ _ _ h)

theorem blockSteps_keeps {s : State} (c : CoreId) (src : Option Nat) (dst cnt : Nat) (step : State → DCore → Nat → DOut Unit) (last : DCore → DCore)
    (n : Nat) (hs : Keeps q w s) (hstep : ∀ t x k, Keeps q w t → KeepsD q w (step t x k)) : KeepsDS q w (blockSteps c src dst cnt step last n s) := by
  induction n generalizing s with
  | zero => exact KeepsDS.ok' hs hs
  | succ n ih =>
    unfold blockSteps
    dsimp only
    split
    · exact KeepsDS.ok' (setCore_keeps _ _ hs) (setCore_keeps _ _ hs)
    · split
      · rename_i e
        have h := setCore_keeps c (blockRegs (getCore s c) src dst cnt (stepLen ((getCore s c).areg dst) ((getCore s c).areg cnt).toNat))
          ((hstep _ _ _ hs).ok _ _ e)
        split
        · exact KeepsDS.ok' h h
        · exact ih h
      · rename_i e
        exact KeepsDS.fault ((hstep _ _ _ hs).flt _ _ e)
      · exact KeepsDS.ok' hs hs

theorem execBmove_keeps (i : LongInsn) {s : State} (hs : Keeps q w s) : KeepsR q w (execBmove i s) := by
  unfold execBmove
  try dsimp only
  repeat' first
    | with_reducible assumption
    | intro _
    | refine Keeps.eqD (by with_reducible assumption) ?_
    | refine Keeps.eqDF (by with_reducible assumption) ?_
    | refine Keeps.eqDS (by with_reducible assumption) ?_
    | refine Keeps.eqDT (by with_reducible assumption) ?_
    | refine Keeps.eqDSF (by with_reducible assumption) ?_
    | with_reducible apply blockSteps_keeps
    | with_reducible apply copyBytes_keeps
    | with_reducible apply runInsn_keeps
    | with_reducible apply checkAcc_keeps
    | with_reducible apply Keeps.ite
    | with_reducible apply Keeps.foldl
    | with_reducible apply KeepsR.next
    | with_reducible apply KeepsR.ite
    | with_reducible apply KeepsD.ok'
    | with_reducible apply KeepsD.fault
    | with_reducible apply KeepsD.wait
    | with_reducible apply KeepsD.bind
    | with_reducible apply KeepsD.ite
    | with_reducible apply KeepsDS.toD
    | with_reducible apply KeepsDS.ok'
    | with_reducible apply KeepsDS.fault
    | with_reducible apply KeepsDS.wait
    | with_reducible apply KeepsDS.bind
    | with_reducible apply KeepsDS.ite
    | split

theorem execBfill_keeps (i : LongInsn) {s : State} (hs : Keeps q w s) : KeepsR q w (execBfill i s) := by
  unfold execBfill
  try dsimp only
  repeat' first
    | with_reducible assumption
    | intro _
    | refine Keeps.eqD (by with_reducible assumption) ?_
    | refine Keeps.eqDF (by with_reducible assumption) ?_
    | refine Keeps.eqDS (by with_reducible assumption) ?_
    | refine Keeps.eqDT (by with_reducible assumption) ?_
    | refine Keeps.eqDSF (by with_reducible assumption) ?_
    | with_reducible apply blockSteps_keeps
    | with_reducible apply readLoc_keeps
    | with_reducible apply locate_keeps
    | with_reducible apply finish_keeps
    | with_reducible apply runInsn_keeps
    | with_reducible apply memWrite_keeps
    | with_reducible apply checkAcc_keeps
    | with_reducible apply Keeps.ite
    | with_reducible apply Keeps.foldl
    | with_reducible apply KeepsR.next
    | with_reducible apply KeepsR.ite
    | with_reducible apply KeepsD.ok'
    | with_reducible apply KeepsD.fault
    | with_reducible apply KeepsD.wait
    | with_reducible apply KeepsD.bind
    | with_reducible apply KeepsD.ite
    | with_reducible apply KeepsDS.toD
    | with_reducible apply KeepsDS.ok'
    | with_reducible apply KeepsDS.fault
    | with_reducible apply KeepsDS.wait
    | with_reducible apply KeepsDS.bind
    | with_reducible apply KeepsDS.ite
    | split

theorem execTrap_keeps (i : LongInsn) {s : State} (hs : Keeps q w s) : KeepsR q w (execTrap i s) := by
  unfold execTrap
  try dsimp only
  repeat' first
    | with_reducible assumption
    | intro _
    | refine Keeps.eqD (by with_reducible assumption) ?_
    | refine Keeps.eqDF (by with_reducible assumption) ?_
    | refine Keeps.eqDS (by with_reducible assumption) ?_
    | refine Keeps.eqDT (by with_reducible assumption) ?_
    | refine Keeps.eqDSF (by with_reducible assumption) ?_
    | with_reducible apply runInsn_keeps
    | with_reducible apply Keeps.ite
    | with_reducible apply Keeps.foldl
    | with_reducible apply KeepsR.next
    | with_reducible apply KeepsR.ite
    | with_reducible apply KeepsD.ok'
    | with_reducible apply KeepsD.fault
    | with_reducible apply KeepsD.wait
    | with_reducible apply KeepsD.bind
    | with_reducible apply KeepsD.ite
    | with_reducible apply KeepsDS.toD
    | with_reducible apply KeepsDS.ok'
    | with_reducible apply KeepsDS.fault
    | with_reducible apply KeepsDS.wait
    | with_reducible apply KeepsDS.bind
    | with_reducible apply KeepsDS.ite
    | split
    | with_reducible apply Keeps.upd

theorem execGate_keeps (i : LongInsn) {s : State} (hs : Keeps q w s) : KeepsR q w (execGate i s) := by
  unfold execGate
  try dsimp only
  repeat' first
    | with_reducible assumption
    | intro _
    | refine Keeps.eqD (by with_reducible assumption) ?_
    | refine Keeps.eqDF (by with_reducible assumption) ?_
    | refine Keeps.eqDS (by with_reducible assumption) ?_
    | refine Keeps.eqDT (by with_reducible assumption) ?_
    | refine Keeps.eqDSF (by with_reducible assumption) ?_
    | with_reducible apply runInsn_keeps
    | with_reducible apply Keeps.ite
    | with_reducible apply Keeps.foldl
    | with_reducible apply KeepsR.next
    | with_reducible apply KeepsR.ite
    | with_reducible apply KeepsD.ok'
    | with_reducible apply KeepsD.fault
    | with_reducible apply KeepsD.wait
    | with_reducible apply KeepsD.bind
    | with_reducible apply KeepsD.ite
    | with_reducible apply KeepsDS.toD
    | with_reducible apply KeepsDS.ok'
    | with_reducible apply KeepsDS.fault
    | with_reducible apply KeepsDS.wait
    | with_reducible apply KeepsDS.bind
    | with_reducible apply KeepsDS.ite
    | split
    | with_reducible apply Keeps.upd

theorem rteBadStack_keeps {s : State} (c : CoreId) (x : DCore) (hs : Keeps q w s) : Keeps q w (rteBadStack s c x) := by
  unfold rteBadStack
  try dsimp only
  repeat' first
    | with_reducible assumption
    | intro _
    | with_reducible apply enter_keeps
    | with_reducible apply coreStop_keeps
    | with_reducible apply Keeps.ite
    | with_reducible apply Keeps.foldl
    | split

theorem execRte_keeps (i : LongInsn) {s : State} (hs : Keeps q w s) : KeepsR q w (execRte i s) := by
  unfold execRte
  try dsimp only
  repeat' first
    | with_reducible assumption
    | intro _
    | refine Keeps.eqD (by with_reducible assumption) ?_
    | refine Keeps.eqDF (by with_reducible assumption) ?_
    | refine Keeps.eqDS (by with_reducible assumption) ?_
    | refine Keeps.eqDT (by with_reducible assumption) ?_
    | refine Keeps.eqDSF (by with_reducible assumption) ?_
    | with_reducible apply rteBadStack_keeps
    | with_reducible apply finish_keeps
    | with_reducible apply runInsn_keeps
    | with_reducible apply drainCore_keeps
    | with_reducible apply memRead_keeps
    | with_reducible apply checkAcc_keeps
    | with_reducible apply Keeps.ite
    | with_reducible apply Keeps.foldl
    | with_reducible apply KeepsR.next
    | with_reducible apply KeepsR.ite
    | with_reducible apply KeepsD.ok'
    | with_reducible apply KeepsD.fault
    | with_reducible apply KeepsD.wait
    | with_reducible apply KeepsD.bind
    | with_reducible apply KeepsD.ite
    | with_reducible apply KeepsDS.toD
    | with_reducible apply KeepsDS.ok'
    | with_reducible apply KeepsDS.fault
    | with_reducible apply KeepsDS.wait
    | with_reducible apply KeepsDS.bind
    | with_reducible apply KeepsDS.ite
    | split

theorem execLseg_keeps (i : LongInsn) {s : State} (hs : Keeps q w s) : KeepsR q w (execLseg i s) := by
  unfold execLseg
  try dsimp only
  repeat' first
    | with_reducible assumption
    | intro _
    | refine Keeps.eqD (by with_reducible assumption) ?_
    | refine Keeps.eqDF (by with_reducible assumption) ?_
    | refine Keeps.eqDS (by with_reducible assumption) ?_
    | refine Keeps.eqDT (by with_reducible assumption) ?_
    | refine Keeps.eqDSF (by with_reducible assumption) ?_
    | with_reducible apply dataBody_keeps
    | with_reducible apply runInsn_keeps
    | with_reducible apply drainCore_keeps
    | with_reducible apply Keeps.ite
    | with_reducible apply Keeps.foldl
    | with_reducible apply KeepsR.next
    | with_reducible apply KeepsR.ite
    | with_reducible apply KeepsD.ok'
    | with_reducible apply KeepsD.fault
    | with_reducible apply KeepsD.wait
    | with_reducible apply KeepsD.bind
    | with_reducible apply KeepsD.ite
    | with_reducible apply KeepsDS.toD
    | with_reducible apply KeepsDS.ok'
    | with_reducible apply KeepsDS.fault
    | with_reducible apply KeepsDS.wait
    | with_reducible apply KeepsDS.bind
    | with_reducible apply KeepsDS.ite
    | split

theorem execSseg_keeps (i : LongInsn) {s : State} (hs : Keeps q w s) : KeepsR q w (execSseg i s) := by
  unfold execSseg
  try dsimp only
  repeat' first
    | with_reducible assumption
    | intro _
    | with_reducible apply dataOp_keeps
    | with_reducible apply Keeps.ite
    | with_reducible apply Keeps.foldl
    | with_reducible apply KeepsR.next
    | with_reducible apply KeepsR.ite
    | split

theorem execMask_keeps (i : LongInsn) {s : State} (hs : Keeps q w s) : KeepsR q w (execMask i s) := by
  unfold execMask
  try dsimp only
  repeat' first
    | with_reducible assumption
    | intro _
    | with_reducible apply dataOp_keeps
    | with_reducible apply Keeps.ite
    | with_reducible apply Keeps.foldl
    | with_reducible apply KeepsR.next
    | with_reducible apply KeepsR.ite
    | split
    | with_reducible apply Keeps.upd

theorem execWait_keeps (i : LongInsn) {s : State} (hs : Keeps q w s) : KeepsR q w (execWait i s) := by
  unfold execWait
  try dsimp only
  repeat' first
    | with_reducible assumption
    | intro _
    | refine Keeps.eqD (by with_reducible assumption) ?_
    | refine Keeps.eqDF (by with_reducible assumption) ?_
    | refine Keeps.eqDS (by with_reducible assumption) ?_
    | refine Keeps.eqDT (by with_reducible assumption) ?_
    | refine Keeps.eqDSF (by with_reducible assumption) ?_
    | with_reducible apply finish_keeps
    | with_reducible apply runInsn_keeps
    | with_reducible apply Keeps.ite
    | with_reducible apply Keeps.foldl
    | with_reducible apply KeepsR.next
    | with_reducible apply KeepsR.ite
    | with_reducible apply KeepsD.ok'
    | with_reducible apply KeepsD.fault
    | with_reducible apply KeepsD.wait
    | with_reducible apply KeepsD.bind
    | with_reducible apply KeepsD.ite
    | with_reducible apply KeepsDS.toD
    | with_reducible apply KeepsDS.ok'
    | with_reducible apply KeepsDS.fault
    | with_reducible apply KeepsDS.wait
    | with_reducible apply KeepsDS.bind
    | with_reducible apply KeepsDS.ite
    | split
    | with_reducible apply Keeps.upd

theorem execFence_keeps (i : LongInsn) {s : State} (hs : Keeps q w s) : KeepsR q w (execFence i s) := by
  unfold execFence
  try dsimp only
  repeat' first
    | with_reducible assumption
    | intro _
    | refine Keeps.eqD (by with_reducible assumption) ?_
    | refine Keeps.eqDF (by with_reducible assumption) ?_
    | refine Keeps.eqDS (by with_reducible assumption) ?_
    | refine Keeps.eqDT (by with_reducible assumption) ?_
    | refine Keeps.eqDSF (by with_reducible assumption) ?_
    | with_reducible apply finish_keeps
    | with_reducible apply runInsn_keeps
    | with_reducible apply drainCore_keeps
    | with_reducible apply Keeps.ite
    | with_reducible apply Keeps.foldl
    | with_reducible apply KeepsR.next
    | with_reducible apply KeepsR.ite
    | with_reducible apply KeepsD.ok'
    | with_reducible apply KeepsD.fault
    | with_reducible apply KeepsD.wait
    | with_reducible apply KeepsD.bind
    | with_reducible apply KeepsD.ite
    | with_reducible apply KeepsDS.toD
    | with_reducible apply KeepsDS.ok'
    | with_reducible apply KeepsDS.fault
    | with_reducible apply KeepsDS.wait
    | with_reducible apply KeepsDS.bind
    | with_reducible apply KeepsDS.ite
    | split

theorem execMfps_keeps (i : LongInsn) {s : State} (hs : Keeps q w s) : KeepsR q w (execMfps i s) := by
  unfold execMfps
  try dsimp only
  repeat' first
    | with_reducible assumption
    | intro _
    | with_reducible apply dataOp_keeps
    | with_reducible apply Keeps.ite
    | with_reducible apply Keeps.foldl
    | with_reducible apply KeepsR.next
    | with_reducible apply KeepsR.ite
    | split
    | with_reducible apply Keeps.upd

theorem execMtf_keeps (i : LongInsn) {s : State} (hs : Keeps q w s) : KeepsR q w (execMtf i s) := by
  unfold execMtf
  try dsimp only
  repeat' first
    | with_reducible assumption
    | intro _
    | with_reducible apply dataOp_keeps
    | with_reducible apply Keeps.ite
    | with_reducible apply Keeps.foldl
    | with_reducible apply KeepsR.next
    | with_reducible apply KeepsR.ite
    | split
    | with_reducible apply Keeps.upd

theorem execMfcr_keeps (i : LongInsn) {s : State} (hs : Keeps q w s) : KeepsR q w (execMfcr i s) := by
  unfold execMfcr
  try dsimp only
  repeat' first
    | with_reducible assumption
    | intro _
    | with_reducible apply dataOp_keeps
    | with_reducible apply Keeps.ite
    | with_reducible apply Keeps.foldl
    | with_reducible apply KeepsR.next
    | with_reducible apply KeepsR.ite
    | split

theorem execMtcr_keeps (i : LongInsn) {s : State} (hs : Keeps q w s) : KeepsR q w (execMtcr i s) := by
  unfold execMtcr
  try dsimp only
  repeat' first
    | with_reducible assumption
    | intro _
    | refine Keeps.eqD (by with_reducible assumption) ?_
    | refine Keeps.eqDF (by with_reducible assumption) ?_
    | refine Keeps.eqDS (by with_reducible assumption) ?_
    | refine Keeps.eqDT (by with_reducible assumption) ?_
    | refine Keeps.eqDSF (by with_reducible assumption) ?_
    | with_reducible apply readLoc_keeps
    | with_reducible apply locate_keeps
    | with_reducible apply runInsn_keeps
    | with_reducible apply softRaise_keeps
    | with_reducible apply openStart_keeps
    | with_reducible apply setCore_keeps
    | with_reducible apply Keeps.ite
    | with_reducible apply Keeps.foldl
    | with_reducible apply KeepsR.next
    | with_reducible apply KeepsR.ite
    | with_reducible apply KeepsD.ok'
    | with_reducible apply KeepsD.fault
    | with_reducible apply KeepsD.wait
    | with_reducible apply KeepsD.bind
    | with_reducible apply KeepsD.ite
    | with_reducible apply KeepsDS.toD
    | with_reducible apply KeepsDS.ok'
    | with_reducible apply KeepsDS.fault
    | with_reducible apply KeepsDS.wait
    | with_reducible apply KeepsDS.bind
    | with_reducible apply KeepsDS.ite
    | split

end Sys2Proof.Machine
end

