-- ==== Sys2Proof/Laws/KeepsNop.lean ====
section
/-!
SUPPORT. Laws/KeepsNop.lean: what the operations of Nop.lean keep.
-/
namespace Sys2Proof.Machine

variable {q : List Instr} {w : FuseBits}

theorem execNop_keeps (form : NopForm) {s : State} (hs : Keeps q w s) : KeepsR q w (execNop form s) := by
  unfold execNop
  try dsimp only
  repeat' first
    | with_reducible assumption
    | intro _
    | refine Keeps.eqD (by with_reducible assumption) ?_
    | refine Keeps.eqDF (by with_reducible assumption) ?_
    | refine Keeps.eqDS (by with_reducible assumption) ?_
    | refine Keeps.eqDT (by with_reducible assumption) ?_
    | refine Keeps.eqDSF (by with_reducible assumption) ?_
    | with_reducible apply finish_keeps
    | with_reducible apply runInsn_keeps
    | with_reducible apply serveAdmin_keeps
    | with_reducible apply Keeps.ite
    | with_reducible apply Keeps.foldl
    | with_reducible apply KeepsR.next
    | with_reducible apply KeepsR.ite
    | with_reducible apply KeepsD.ok'
    | with_reducible apply KeepsD.fault
    | with_reducible apply KeepsD.wait
    | with_reducible apply KeepsD.bind
    | with_reducible apply KeepsD.ite
    | with_reducible apply KeepsDS.toD
    | with_reducible apply KeepsDS.ok'
    | with_reducible apply KeepsDS.fault
    | with_reducible apply KeepsDS.wait
    | with_reducible apply KeepsDS.bind
    | with_reducible apply KeepsDS.ite
    | split

end Sys2Proof.Machine
end

