-- ==== Sys2Proof/Laws/KeepsPace.lean ====
section
/-!
SUPPORT. Laws/KeepsPace.lean: what the operations of Pace.lean keep.
-/
namespace Sys2Proof.Machine

variable {q : List Instr} {w : FuseBits}

theorem publishPace_keeps {s : State} (d : Nat) (pace : Nat) (hs : Keeps q w s) : Keeps q w (publishPace s d pace) := by
  unfold publishPace
  try dsimp only
  repeat' first
    | with_reducible assumption
    | intro _
    | with_reducible apply setF_keeps
    | with_reducible apply Keeps.ite
    | with_reducible apply Keeps.foldl
    | split

theorem execPaceWindow_keeps (counts : List (Nat × Nat)) {s : State} (hs : Keeps q w s) : KeepsR q w (execPaceWindow counts s) := by
  unfold execPaceWindow
  try dsimp only
  repeat' first
    | with_reducible assumption
    | intro _
    | with_reducible apply publishPace_keeps
    | with_reducible apply occur_keeps
    | with_reducible apply whenLandau_keeps
    | with_reducible apply setF_keeps
    | with_reducible apply Keeps.ite
    | with_reducible apply Keeps.foldl
    | with_reducible apply KeepsR.next
    | with_reducible apply KeepsR.ite
    | split

end Sys2Proof.Machine
end

