-- ==== Sys2Proof/Laws/KeepsRouteEnd.lean ====
section
/-!
SUPPORT. Laws/KeepsRouteEnd.lean: what the operations of RouteEnd.lean keep.
-/
namespace Sys2Proof.Machine

variable {q : List Instr} {w : FuseBits}

theorem effStreamUse_keeps {s : State} (h_ : Nat) (v : Nat) (out : Outcome) (hs : Keeps q w s) : KeepsL q w (effStreamUse s h_ v out) := by
  unfold effStreamUse
  try dsimp only
  repeat' first
    | with_reducible assumption
    | intro _
    | refine Keeps.eqL (by with_reducible assumption) ?_
    | with_reducible apply reserve_keeps
    | with_reducible apply updCounts_keeps
    | with_reducible apply Keeps.ite
    | with_reducible apply Keeps.foldl
    | with_reducible apply KeepsL.ite
    | with_reducible apply KeepsL.foldl
    | split
    | with_reducible apply Keeps.fst
    | with_reducible apply KeepsL.pair
    | with_reducible apply Keeps.upd

theorem effMeteredUse_keeps {s : State} (hs_ : List Nat) (out : Outcome) (hs : Keeps q w s) : KeepsL q w (effMeteredUse s hs_ out) := by
  unfold effMeteredUse
  try dsimp only
  repeat' first
    | with_reducible assumption
    | intro _
    | refine Keeps.eqL (by with_reducible assumption) ?_
    | with_reducible apply reserve_keeps
    | with_reducible apply updCounts_keeps
    | with_reducible apply Keeps.ite
    | with_reducible apply Keeps.foldl
    | with_reducible apply KeepsL.ite
    | with_reducible apply KeepsL.foldl
    | split
    | with_reducible apply Keeps.fst
    | with_reducible apply KeepsL.pair
    | with_reducible apply Keeps.upd

theorem applyEffect_keeps {s : State} (t : TagEntry) (e : Effect) (ledgerOk : Bool) (memFail : Bool) (out : Outcome) (hs : Keeps q w s) : KeepsL q w (applyEffect s t e ledgerOk memFail out) := by
  unfold applyEffect
  try dsimp only
  repeat' first
    | with_reducible assumption
    | intro _
    | refine Keeps.eqL (by with_reducible assumption) ?_
    | with_reducible apply effMeteredUse_keeps
    | with_reducible apply effStreamUse_keeps
    | with_reducible apply effCluster_keeps
    | with_reducible apply effLifecycle_keeps
    | with_reducible apply effEscrowRestore_keeps
    | with_reducible apply eraseDomain_keeps
    | with_reducible apply effDomainCreate_keeps
    | with_reducible apply effRestoreEnd_keeps
    | with_reducible apply effRestoreData_keeps
    | with_reducible apply effRestoreBegin_keeps
    | with_reducible apply effJournalAck_keeps
    | with_reducible apply effSnapBegin_keeps
    | with_reducible apply effBootSelect_keeps
    | with_reducible apply effHostFlashAuth_keeps
    | with_reducible apply effImportKey_keeps
    | with_reducible apply effRestrictKey_keeps
    | with_reducible apply effDeleteKey_keeps
    | with_reducible apply effPutKey_keeps
    | with_reducible apply addTable_keeps
    | with_reducible apply startEvict_keeps
    | with_reducible apply Keeps.ite
    | with_reducible apply Keeps.foldl
    | with_reducible apply KeepsL.ite
    | with_reducible apply KeepsL.foldl
    | split
    | with_reducible apply Keeps.fst
    | with_reducible apply KeepsL.pair

theorem endEffect_keeps {s : State} (t : TagEntry) (e : Effect) (ledgerOk : Bool) (memFail : Bool) (out : Outcome) (hs : Keeps q w s) : KeepsL q w (endEffect s t e ledgerOk memFail out) := by
  unfold endEffect
  try dsimp only
  repeat' first
    | with_reducible assumption
    | intro _
    | refine Keeps.eqL (by with_reducible assumption) ?_
    | with_reducible apply applyEffect_keeps
    | with_reducible apply Keeps.ite
    | with_reducible apply Keeps.foldl
    | with_reducible apply KeepsL.ite
    | with_reducible apply KeepsL.foldl
    | split
    | with_reducible apply Keeps.fst
    | with_reducible apply KeepsL.pair

theorem countScf_keeps {s : State} (t : TagEntry) (r : RouteAt) (out : Outcome) (hs : Keeps q w s) : Keeps q w (countScf s t r out) := by
  unfold countScf
  try dsimp only
  repeat' first
    | with_reducible assumption
    | intro _
    | with_reducible apply faultReport_keeps
    | with_reducible apply bump_keeps
    | with_reducible apply setF_keeps
    | with_reducible apply Keeps.ite
    | with_reducible apply Keeps.foldl
    | split

theorem spendAllowance_keeps {s : State} (r : RouteAt) (hs : Keeps q w s) : Keeps q w (spendAllowance s r) := by
  unfold spendAllowance
  try dsimp only
  repeat' first
    | with_reducible assumption
    | intro _
    | with_reducible apply Keeps.ite
    | with_reducible apply Keeps.foldl
    | split
    | with_reducible apply Keeps.upd

theorem deliver_keeps {s : State} (t : TagEntry) (out : Outcome) (hs : Keeps q w s) : Keeps q w (deliver s t out) := by
  unfold deliver
  try dsimp only
  repeat' first
    | with_reducible assumption
    | intro _
    | with_reducible apply winDone_keeps
    | with_reducible apply updTag_keeps
    | with_reducible apply settle_keeps
    | with_reducible apply Keeps.ite
    | with_reducible apply Keeps.foldl
    | split
    | with_reducible apply Keeps.upd

theorem endWrites_keeps {s : State} (t : TagEntry) (r : RouteAt) (e : Effect) (ledgerOk : Bool) (memFail : Bool) (outOk : Bool) (o : Outcome) (hs : Keeps q w s) : KeepsL q w (endWrites s t r e ledgerOk memFail outOk o) := by
  unfold endWrites
  try dsimp only
  repeat' first
    | with_reducible assumption
    | intro _
    | refine Keeps.eqL (by with_reducible assumption) ?_
    | with_reducible apply endEffect_keeps
    | with_reducible apply Keeps.ite
    | with_reducible apply Keeps.foldl
    | with_reducible apply KeepsL.ite
    | with_reducible apply KeepsL.foldl
    | split
    | with_reducible apply Keeps.fst
    | with_reducible apply KeepsL.pair

theorem routeEnd_keeps {s : State} (t : TagEntry) (r : RouteAt) (o : Outcome) (e : Effect) (ledgerOk : Bool) (memFail : Bool) (outOk : Bool) (hs : Keeps q w s) : Keeps q w (routeEnd s t r o e ledgerOk memFail outOk) := by
  unfold routeEnd
  try dsimp only
  repeat' first
    | with_reducible assumption
    | intro _
    | refine Keeps.eqL (by with_reducible assumption) ?_
    | with_reducible apply endWrites_keeps
    | with_reducible apply deliver_keeps
    | with_reducible apply spendAllowance_keeps
    | with_reducible apply countScf_keeps
    | with_reducible apply Keeps.ite
    | with_reducible apply Keeps.foldl
    | with_reducible apply KeepsL.ite
    | with_reducible apply KeepsL.foldl
    | split
    | with_reducible apply Keeps.fst
    | with_reducible apply KeepsL.pair

theorem execRouteEnd_keeps (tag : Nat) (ledgerOk : Bool) (p : EndOut) {s : State} (hs : Keeps q w s) : KeepsR q w (execRouteEnd tag ledgerOk p s) := by
  unfold execRouteEnd
  try dsimp only
  repeat' first
    | with_reducible assumption
    | intro _
    | with_reducible apply routeEnd_keeps
    | with_reducible apply Keeps.ite
    | with_reducible apply Keeps.foldl
    | with_reducible apply KeepsR.next
    | with_reducible apply KeepsR.ite
    | split

end Sys2Proof.Machine
end

