-- ==== Sys2Proof/Laws/Quiet.lean ====
section
/-!
SUPPORT. Laws/Quiet.lean: operations that change nothing but the free-value counter, registers, the key cache and its records, the recorder
and the generator; and how that passes through the shapes in which operations are written.
-/
namespace Sys2Proof.Machine

/-- `s` differs from `z` in the free-value counter, registers, key store, protected memory, public-key tiles, recorder and generator at most. -/
structure Quiet (z s : State) : Prop where
  pending : s.pending = z.pending
  power : s.power = z.power
  fuse : s.fuse = z.fuse
  boot : s.boot = z.boot
  cfg : s.cfg = z.cfg
  image : s.image = z.image
  struct : s.struct = z.struct
  qm : s.qm = z.qm
  tamper : s.tamper = z.tamper
  fc : s.fc = z.fc
  drawbar : s.drawbar = z.drawbar
  irqSrc : s.irqSrc = z.irqSrc
  quorum : s.quorum = z.quorum
  sciph : s.sciph = z.sciph
  spke : s.spke = z.spke
  combs : s.pke.combs = z.pke.combs
  gecko : s.mem.gecko = z.mem.gecko
  isram : s.mem.isram = z.mem.isram
  dsram : s.mem.dsram = z.mem.dsram
  cip : s.cip = z.cip
  hf : s.hf = z.hf
  led : s.led = z.led
  spdm : s.spdm = z.spdm
  mpu : s.mpu = z.mpu
  flash : s.flash = z.flash
  card0 : s.card0 = z.card0
  card1 : s.card1 = z.card1
  sdh : s.sdh = z.sdh
  tag : s.tag = z.tag
  dispSrc : s.dispSrc = z.dispSrc
  cluster : s.cluster = z.cluster
  warden : s.warden = z.warden
  disp : s.disp = z.disp
  wbuf : s.wbuf = z.wbuf
  arb : s.arb = z.arb
  test : s.test = z.test
  sb : s.sb = z.sb
  dbg : s.dbg = z.dbg

/-- The same of an answer and a state. -/
structure QuietP {α : Type} (z : State) (r : α × State) : Prop where
  out : Quiet z r.2
/-- The same of a state and an answer. -/
structure QuietL {α : Type} (z : State) (r : State × α) : Prop where
  out : Quiet z r.1
/-- The same of a state that may be absent. -/
structure QuietO (z : State) (r : Option State) : Prop where
  out : ∀ t, r = some t → Quiet z t

variable {z s t : State} {α β : Type}

theorem Quiet.refl (s : State) : Quiet s s := by constructor <;> rfl
theorem QuietO.none : QuietO z none := ⟨by intro t e; cases e⟩
theorem QuietO.some (h : Quiet z s) : QuietO z (.some s) := ⟨by intro t e; cases e; exact h⟩
theorem QuietO.ite {c : Prop} [Decidable c] {a b : Option State} (ha : QuietO z a) (hb : QuietO z b) : QuietO z (if c then a else b) := by
  split <;> assumption
theorem QuietP.pair {a : α} (h : Quiet z s) : QuietP z (a, s) := ⟨h⟩
theorem QuietL.pair {a : α} (h : Quiet z s) : QuietL z (s, a) := ⟨h⟩
theorem QuietP.ite {c : Prop} [Decidable c] {a b : α × State} (ha : QuietP z a) (hb : QuietP z b) : QuietP z (if c then a else b) := by
  split <;> assumption
theorem QuietL.ite {c : Prop} [Decidable c] {a b : State × α} (ha : QuietL z a) (hb : QuietL z b) : QuietL z (if c then a else b) := by
  split <;> assumption
theorem Quiet.ite {c : Prop} [Decidable c] {a b : State} (ha : Quiet z a) (hb : Quiet z b) : Quiet z (if c then a else b) := by
  split <;> assumption
theorem Quiet.snd {r : α × State} (h : QuietP z r) : Quiet z r.2 := h.out
theorem Quiet.fst {r : State × α} (h : QuietL z r) : Quiet z r.1 := h.out
theorem Quiet.eqP {a : α} {r : α × State} (e : r = (a, t)) (h : QuietP z r) : Quiet z t := by subst e; exact h.out
theorem Quiet.eqL {a : α} {r : State × α} (e : r = (t, a)) (h : QuietL z r) : Quiet z t := by subst e; exact h.out
theorem Quiet.eqO {r : Option State} (e : r = .some t) (h : QuietO z r) : Quiet z t := h.out t e
theorem Quiet.foldl {l : List β} {f : State → β → State} (h : Quiet z s) (hf : ∀ t e, Quiet z t → Quiet z (f t e)) :
    Quiet z (l.foldl f s) := by
  induction l generalizing s with
  | nil => exact h
  | cons a l ih => exact ih (hf _ _ h)
theorem QuietP.foldl {l : List β} {f : α × State → β → α × State} {r : α × State} (h : QuietP z r)
    (hf : ∀ t e, QuietP z t → QuietP z (f t e)) : QuietP z (l.foldl f r) := by
  induction l generalizing r with
  | nil => exact h
  | cons a l ih => exact ih (hf _ _ h)

/-- An update of what may differ. -/
theorem Quiet.upd (h : Quiet z s) {freeCtr : Nat} {regs : List (Nat × Nat)} {ev : EvState} {ks : KsState} {hbm : HbmState} {rng : RngState} {tiles : List (Nat × PkeTile)} {cells : List Host.Cell} : Quiet z (State.mk s.pending freeCtr regs s.power s.fuse s.boot s.cfg s.image s.struct s.qm s.tamper s.fc s.drawbar ev s.irqSrc ks hbm s.quorum s.sciph s.spke (PkeState.mk tiles s.pke.combs) (MemState.mk s.mem.gecko s.mem.isram s.mem.dsram cells) s.cip rng s.hf s.led s.spdm s.mpu s.flash s.card0 s.card1 s.sdh s.tag s.dispSrc s.cluster s.warden s.disp s.wbuf s.arb s.test s.sb s.dbg) where
  pending := h.pending
  power := h.power
  fuse := h.fuse
  boot := h.boot
  cfg := h.cfg
  image := h.image
  struct := h.struct
  qm := h.qm
  tamper := h.tamper
  fc := h.fc
  drawbar := h.drawbar
  irqSrc := h.irqSrc
  quorum := h.quorum
  sciph := h.sciph
  spke := h.spke
  combs := h.combs
  gecko := h.gecko
  isram := h.isram
  dsram := h.dsram
  cip := h.cip
  hf := h.hf
  led := h.led
  spdm := h.spdm
  mpu := h.mpu
  flash := h.flash
  card0 := h.card0
  card1 := h.card1
  sdh := h.sdh
  tag := h.tag
  dispSrc := h.dispSrc
  cluster := h.cluster
  warden := h.warden
  disp := h.disp
  wbuf := h.wbuf
  arb := h.arb
  test := h.test
  sb := h.sb
  dbg := h.dbg
/-- An update of the key store. -/
theorem Quiet.updKs (h : Quiet z s) (v : KsState) : Quiet z { s with ks := v } := h.upd

/-- An update of the protected memory's state. -/
theorem Quiet.updHbm (h : Quiet z s) (v : HbmState) : Quiet z { s with hbm := v } := h.upd

theorem setF_quiet (f : Field) (v : Nat) (h : Quiet z s) : Quiet z (setF s f v) := h.upd
theorem occurAt_quiet (c fl u p d r : Nat) (h : Quiet z s) : Quiet z (occurAt s c fl u p d r) where
  pending := (occurAt_only s c fl u p d r).pending.trans h.pending
  power := (occurAt_only s c fl u p d r).power.trans h.power
  fuse := (occurAt_only s c fl u p d r).fuse.trans h.fuse
  boot := (occurAt_only s c fl u p d r).boot.trans h.boot
  cfg := (occurAt_only s c fl u p d r).cfg.trans h.cfg
  image := (occurAt_only s c fl u p d r).image.trans h.image
  struct := (occurAt_only s c fl u p d r).struct.trans h.struct
  qm := (occurAt_only s c fl u p d r).qm.trans h.qm
  tamper := (occurAt_only s c fl u p d r).tamper.trans h.tamper
  fc := (occurAt_only s c fl u p d r).fc.trans h.fc
  drawbar := (occurAt_only s c fl u p d r).drawbar.trans h.drawbar
  irqSrc := (occurAt_only s c fl u p d r).irqSrc.trans h.irqSrc
  quorum := (occurAt_only s c fl u p d r).quorum.trans h.quorum
  sciph := (occurAt_only s c fl u p d r).sciph.trans h.sciph
  spke := (occurAt_only s c fl u p d r).spke.trans h.spke
  combs := (congrArg PkeState.combs (occurAt_only s c fl u p d r).pke).trans h.combs
  gecko := (congrArg (fun m => m.gecko) (occurAt_only s c fl u p d r).mem).trans h.gecko
  isram := (congrArg (fun m => m.isram) (occurAt_only s c fl u p d r).mem).trans h.isram
  dsram := (congrArg (fun m => m.dsram) (occurAt_only s c fl u p d r).mem).trans h.dsram
  cip := (occurAt_only s c fl u p d r).cip.trans h.cip
  hf := (occurAt_only s c fl u p d r).hf.trans h.hf
  led := (occurAt_only s c fl u p d r).led.trans h.led
  spdm := (occurAt_only s c fl u p d r).spdm.trans h.spdm
  mpu := (occurAt_only s c fl u p d r).mpu.trans h.mpu
  flash := (occurAt_only s c fl u p d r).flash.trans h.flash
  card0 := (occurAt_only s c fl u p d r).card0.trans h.card0
  card1 := (occurAt_only s c fl u p d r).card1.trans h.card1
  sdh := (occurAt_only s c fl u p d r).sdh.trans h.sdh
  tag := (occurAt_only s c fl u p d r).tag.trans h.tag
  dispSrc := (occurAt_only s c fl u p d r).dispSrc.trans h.dispSrc
  cluster := (occurAt_only s c fl u p d r).cluster.trans h.cluster
  warden := (occurAt_only s c fl u p d r).warden.trans h.warden
  disp := (occurAt_only s c fl u p d r).disp.trans h.disp
  wbuf := (occurAt_only s c fl u p d r).wbuf.trans h.wbuf
  arb := (occurAt_only s c fl u p d r).arb.trans h.arb
  test := (occurAt_only s c fl u p d r).test.trans h.test
  sb := (occurAt_only s c fl u p d r).sb.trans h.sb
  dbg := (occurAt_only s c fl u p d r).dbg.trans h.dbg

end Sys2Proof.Machine
end

