-- ==== Sys2Proof/Laws/QuietOps.lean ====
section
/-!
SUPPORT. Laws/QuietOps.lean: the operations that are quiet.
-/
namespace Sys2Proof.Machine

variable {z : State}

theorem setB_quiet {s : State} (f : Field) (b : Bool) (hs : Quiet z s) : Quiet z (setB s f b) := by
  unfold setB
  try dsimp only
  repeat' first
    | with_reducible assumption
    | intro _
    | with_reducible apply setF_quiet
    | with_reducible apply Quiet.ite
    | with_reducible apply Quiet.foldl
    | split

theorem writeField_quiet {s : State} (f : Field) (v : Nat) (hs : Quiet z s) : Quiet z (writeField s f v) := by
  unfold writeField
  try dsimp only
  repeat' first
    | with_reducible assumption
    | intro _
    | with_reducible apply setF_quiet
    | with_reducible apply Quiet.ite
    | with_reducible apply Quiet.foldl
    | split

theorem writeReg_quiet {s : State} (blk : Nat) (off : Nat) (v : Nat) (hs : Quiet z s) : Quiet z (writeReg s blk off v) := by
  unfold writeReg
  try dsimp only
  repeat' first
    | with_reducible assumption
    | intro _
    | with_reducible apply writeField_quiet
    | with_reducible apply Quiet.ite
    | with_reducible apply Quiet.foldl
    | split

theorem resetRegs_quiet {s : State} (p : Nat → Nat → Bool) (hs : Quiet z s) : Quiet z (resetRegs s p) := by
  unfold resetRegs
  try dsimp only
  repeat' first
    | with_reducible assumption
    | intro _
    | with_reducible apply Quiet.ite
    | with_reducible apply Quiet.foldl
    | split
    | with_reducible apply Quiet.upd

theorem draw_quiet {s : State} (w_ : Nat) (hs : Quiet z s) : QuietP z (draw s w_) := by
  unfold draw
  try dsimp only
  repeat' first
    | with_reducible assumption
    | intro _
    | refine Quiet.eqP (by with_reducible assumption) ?_
    | with_reducible apply Quiet.ite
    | with_reducible apply Quiet.foldl
    | with_reducible apply QuietP.ite
    | with_reducible apply QuietP.foldl
    | split
    | with_reducible apply Quiet.snd
    | with_reducible apply QuietP.pair
    | with_reducible apply Quiet.upd

theorem drawBytes_quiet {s : State} (n : Nat) (hs : Quiet z s) : QuietP z (drawBytes s n) := by
  unfold drawBytes
  try dsimp only
  repeat' first
    | with_reducible assumption
    | intro _
    | refine Quiet.eqP (by with_reducible assumption) ?_
    | with_reducible apply Quiet.ite
    | with_reducible apply Quiet.foldl
    | with_reducible apply QuietP.ite
    | with_reducible apply QuietP.foldl
    | split
    | with_reducible apply Quiet.snd
    | with_reducible apply QuietP.pair
    | with_reducible apply Quiet.upd

theorem evRefresh_quiet {s : State} (hs : Quiet z s) : Quiet z (evRefresh s) := by
  unfold evRefresh
  try dsimp only
  repeat' first
    | with_reducible assumption
    | intro _
    | with_reducible apply setF_quiet
    | with_reducible apply Quiet.ite
    | with_reducible apply Quiet.foldl
    | split

theorem closeOpen_quiet {s : State} (p : EvRec → Bool) (hs : Quiet z s) : Quiet z (closeOpen s p) := by
  unfold closeOpen
  try dsimp only
  repeat' first
    | with_reducible assumption
    | intro _
    | with_reducible apply evRefresh_quiet
    | with_reducible apply Quiet.ite
    | with_reducible apply Quiet.foldl
    | split
    | with_reducible apply Quiet.upd

theorem openRec_quiet {s : State} (r : EvRec) (hs : Quiet z s) : Quiet z (openRec s r) := by
  unfold openRec
  try dsimp only
  repeat' first
    | with_reducible assumption
    | intro _
    | with_reducible apply evRefresh_quiet
    | with_reducible apply Quiet.ite
    | with_reducible apply Quiet.foldl
    | split
    | with_reducible apply Quiet.upd

theorem evDrop_quiet {s : State} (hs : Quiet z s) : Quiet z (evDrop s) := by
  unfold evDrop
  try dsimp only
  repeat' first
    | with_reducible assumption
    | intro _
    | with_reducible apply setF_quiet
    | with_reducible apply Quiet.ite
    | with_reducible apply Quiet.foldl
    | split
    | with_reducible apply Quiet.upd

theorem evDroppedRec_quiet {s : State} (hs : Quiet z s) : Quiet z (evDroppedRec s) := by
  unfold evDroppedRec
  try dsimp only
  repeat' first
    | with_reducible assumption
    | intro _
    | with_reducible apply openRec_quiet
    | with_reducible apply setF_quiet
    | with_reducible apply Quiet.ite
    | with_reducible apply Quiet.foldl
    | split

theorem occur_quiet {s : State} (code : Nat) (unit : Nat) (part : Nat) (detail : Nat) (hs : Quiet z s) : Quiet z (occur s code unit part detail) := by
  unfold occur
  try dsimp only
  repeat' first
    | with_reducible assumption
    | intro _
    | with_reducible apply occurAt_quiet
    | with_reducible apply Quiet.ite
    | with_reducible apply Quiet.foldl
    | split

theorem occurForced_quiet {s : State} (code : Nat) (unit : Nat) (part : Nat) (detail : Nat) (hs : Quiet z s) : Quiet z (occurForced s code unit part detail) := by
  unfold occurForced
  try dsimp only
  repeat' first
    | with_reducible assumption
    | intro _
    | with_reducible apply occurAt_quiet
    | with_reducible apply Quiet.ite
    | with_reducible apply Quiet.foldl
    | split

theorem counterSat_quiet {s : State} (blk : Nat) (off : Nat) (hs : Quiet z s) : Quiet z (counterSat s blk off) := by
  unfold counterSat
  try dsimp only
  repeat' first
    | with_reducible assumption
    | intro _
    | with_reducible apply occur_quiet
    | with_reducible apply Quiet.ite
    | with_reducible apply Quiet.foldl
    | split

theorem bumpBy_quiet {s : State} (cnt : Field) (sat : Field) (n : Nat) (hs : Quiet z s) : Quiet z (bumpBy s cnt sat n) := by
  unfold bumpBy
  try dsimp only
  repeat' first
    | with_reducible assumption
    | intro _
    | with_reducible apply counterSat_quiet
    | with_reducible apply setF_quiet
    | with_reducible apply Quiet.ite
    | with_reducible apply Quiet.foldl
    | split

theorem bump_quiet {s : State} (cnt : Field) (sat : Field) (hs : Quiet z s) : Quiet z (bump s cnt sat) := by
  unfold bump
  try dsimp only
  repeat' first
    | with_reducible assumption
    | intro _
    | with_reducible apply bumpBy_quiet
    | with_reducible apply Quiet.ite
    | with_reducible apply Quiet.foldl
    | split

theorem bumpNoSat_quiet {s : State} (cnt : Field) (hs : Quiet z s) : Quiet z (bumpNoSat s cnt) := by
  unfold bumpNoSat
  try dsimp only
  repeat' first
    | with_reducible assumption
    | intro _
    | with_reducible apply counterSat_quiet
    | with_reducible apply setF_quiet
    | with_reducible apply Quiet.ite
    | with_reducible apply Quiet.foldl
    | split

theorem clearCounter_quiet {s : State} (cnt : Field) (sat : Field) (hs : Quiet z s) : Quiet z (clearCounter s cnt sat) := by
  unfold clearCounter
  try dsimp only
  repeat' first
    | with_reducible assumption
    | intro _
    | with_reducible apply setF_quiet
    | with_reducible apply Quiet.ite
    | with_reducible apply Quiet.foldl
    | split

theorem fillWords_quiet {s : State} (f : Nat → Field) (n : Nat) (w_ : Nat → Nat) (hs : Quiet z s) : Quiet z (fillWords s f n w_) := by
  unfold fillWords
  try dsimp only
  repeat' first
    | with_reducible assumption
    | intro _
    | with_reducible apply setF_quiet
    | with_reducible apply Quiet.ite
    | with_reducible apply Quiet.foldl
    | split

theorem loadDebugFuse_quiet {s : State} (hs : Quiet z s) : Quiet z (loadDebugFuse s) := by
  unfold loadDebugFuse
  try dsimp only
  repeat' first
    | with_reducible assumption
    | intro _
    | with_reducible apply setB_quiet
    | with_reducible apply Quiet.ite
    | with_reducible apply Quiet.foldl
    | split

theorem loadFuseRegs_quiet {s : State} (hs : Quiet z s) : Quiet z (loadFuseRegs s) := by
  unfold loadFuseRegs
  try dsimp only
  repeat' first
    | with_reducible assumption
    | intro _
    | with_reducible apply loadDebugFuse_quiet
    | with_reducible apply fillWords_quiet
    | with_reducible apply setB_quiet
    | with_reducible apply setF_quiet
    | with_reducible apply Quiet.ite
    | with_reducible apply Quiet.foldl
    | split

theorem applyAllocWord_quiet {s : State} (k_ : Nat) (w_ : Nat) (hs : Quiet z s) : Quiet z (applyAllocWord s k_ w_) := by
  unfold applyAllocWord
  try dsimp only
  repeat' first
    | with_reducible assumption
    | intro _
    | with_reducible apply setF_quiet
    | with_reducible apply Quiet.ite
    | with_reducible apply Quiet.foldl
    | split

theorem setUnit_quiet {s : State} (cls : Nat) (u : Nat) (act : Nat) (spare : Nat) (ret : Nat) (hs : Quiet z s) : Quiet z (setUnit s cls u act spare ret) := by
  unfold setUnit
  try dsimp only
  repeat' first
    | with_reducible assumption
    | intro _
    | with_reducible apply setF_quiet
    | with_reducible apply Quiet.ite
    | with_reducible apply Quiet.foldl
    | split

theorem structError_quiet {s : State} (v : Violation) (hs : Quiet z s) : Quiet z (structError s v) := by
  unfold structError
  try dsimp only
  repeat' first
    | with_reducible assumption
    | intro _
    | with_reducible apply setF_quiet
    | with_reducible apply Quiet.ite
    | with_reducible apply Quiet.foldl
    | split

theorem clearStructError_quiet {s : State} (hs : Quiet z s) : Quiet z (clearStructError s) := by
  unfold clearStructError
  try dsimp only
  repeat' first
    | with_reducible assumption
    | intro _
    | with_reducible apply structError_quiet
    | with_reducible apply Quiet.ite
    | with_reducible apply Quiet.foldl
    | split

theorem structSequence_quiet {s : State} (hs : Quiet z s) : Quiet z (structSequence s) := by
  unfold structSequence
  try dsimp only
  repeat' first
    | with_reducible assumption
    | intro _
    | with_reducible apply structError_quiet
    | with_reducible apply Quiet.ite
    | with_reducible apply Quiet.foldl
    | split

theorem applyAmend_quiet {s : State} (hs : Quiet z s) : Quiet z (applyAmend s) := by
  unfold applyAmend
  try dsimp only
  repeat' first
    | with_reducible assumption
    | intro _
    | with_reducible apply setUnit_quiet
    | with_reducible apply setF_quiet
    | with_reducible apply Quiet.ite
    | with_reducible apply Quiet.foldl
    | split

theorem qmRefresh_quiet {s : State} (fn : Nat) (hs : Quiet z s) : Quiet z (qmRefresh s fn) := by
  unfold qmRefresh
  try dsimp only
  repeat' first
    | with_reducible assumption
    | intro _
    | with_reducible apply setB_quiet
    | with_reducible apply setF_quiet
    | with_reducible apply Quiet.ite
    | with_reducible apply Quiet.foldl
    | split

theorem mirrorSafe_quiet {s : State} (fn : Nat) (hs : Quiet z s) : Quiet z (mirrorSafe s fn) := by
  unfold mirrorSafe
  try dsimp only
  repeat' first
    | with_reducible assumption
    | intro _
    | with_reducible apply setB_quiet
    | with_reducible apply Quiet.ite
    | with_reducible apply Quiet.foldl
    | split

theorem testCounts_quiet {s : State} (land : Bool) (bits : W64) (errs : Nat) (hs : Quiet z s) : Quiet z (testCounts s land bits errs) := by
  unfold testCounts
  try dsimp only
  repeat' first
    | with_reducible assumption
    | intro _
    | with_reducible apply clearCounter_quiet
    | with_reducible apply bumpBy_quiet
    | with_reducible apply setF_quiet
    | with_reducible apply Quiet.ite
    | with_reducible apply Quiet.foldl
    | split

theorem showHalf_quiet {s : State} (hs : Quiet z s) : Quiet z (showHalf s) := by
  unfold showHalf
  try dsimp only
  repeat' first
    | with_reducible assumption
    | intro _
    | with_reducible apply setB_quiet
    | with_reducible apply setF_quiet
    | with_reducible apply Quiet.ite
    | with_reducible apply Quiet.foldl
    | split

theorem showSusp_quiet {s : State} (hs : Quiet z s) : Quiet z (showSusp s) := by
  unfold showSusp
  try dsimp only
  repeat' first
    | with_reducible assumption
    | intro _
    | with_reducible apply setF_quiet
    | with_reducible apply Quiet.ite
    | with_reducible apply Quiet.foldl
    | split

theorem showSpares_quiet {s : State} (hs : Quiet z s) : Quiet z (showSpares s) := by
  unfold showSpares
  try dsimp only
  repeat' first
    | with_reducible assumption
    | intro _
    | with_reducible apply setF_quiet
    | with_reducible apply Quiet.ite
    | with_reducible apply Quiet.foldl
    | split

theorem setSrc_quiet {s : State} (n : Nat) (v : Nat) (hs : Quiet z s) : Quiet z (setSrc s n v) := by
  unfold setSrc
  try dsimp only
  repeat' first
    | with_reducible assumption
    | intro _
    | with_reducible apply setF_quiet
    | with_reducible apply Quiet.ite
    | with_reducible apply Quiet.foldl
    | split

theorem condBlock_quiet {s : State} (hs : Quiet z s) : QuietP z (condBlock s) := by
  unfold condBlock
  try dsimp only
  repeat' first
    | with_reducible assumption
    | intro _
    | refine Quiet.eqP (by with_reducible assumption) ?_
    | with_reducible apply drawBytes_quiet
    | with_reducible apply Quiet.ite
    | with_reducible apply Quiet.foldl
    | with_reducible apply QuietP.ite
    | with_reducible apply QuietP.foldl
    | split
    | with_reducible apply Quiet.snd
    | with_reducible apply QuietP.pair
    | with_reducible apply Quiet.upd

theorem setInst_quiet {s : State} (i : Nat) (x : RngInst) (hs : Quiet z s) : Quiet z (setInst s i x) := by
  unfold setInst
  try dsimp only
  repeat' first
    | with_reducible assumption
    | intro _
    | with_reducible apply Quiet.ite
    | with_reducible apply Quiet.foldl
    | split
    | with_reducible apply Quiet.upd

theorem setStalled_quiet {s : State} (i : Nat) (b : Bool) (hs : Quiet z s) : Quiet z (setStalled s i b) := by
  unfold setStalled
  try dsimp only
  repeat' first
    | with_reducible assumption
    | intro _
    | with_reducible apply setF_quiet
    | with_reducible apply Quiet.ite
    | with_reducible apply Quiet.foldl
    | split

theorem setStretch_quiet {s : State} (i : Nat) (b : Bool) (hs : Quiet z s) : Quiet z (setStretch s i b) := by
  unfold setStretch
  try dsimp only
  repeat' first
    | with_reducible assumption
    | intro _
    | with_reducible apply setF_quiet
    | with_reducible apply Quiet.ite
    | with_reducible apply Quiet.foldl
    | split

theorem drbgRequest_quiet {s : State} (i : Nat) (hs : Quiet z s) : Quiet z (drbgRequest s i) := by
  unfold drbgRequest
  try dsimp only
  repeat' first
    | with_reducible assumption
    | intro _
    | with_reducible apply setStretch_quiet
    | with_reducible apply setStalled_quiet
    | with_reducible apply setInst_quiet
    | with_reducible apply Quiet.ite
    | with_reducible apply Quiet.foldl
    | split
    | with_reducible apply Quiet.upd

theorem drbgBytes_quiet {s : State} (i : Nat) (n : Nat) (hs : Quiet z s) : QuietP z (drbgBytes s i n) := by
  unfold drbgBytes
  try dsimp only
  repeat' first
    | with_reducible assumption
    | intro _
    | refine Quiet.eqP (by with_reducible assumption) ?_
    | with_reducible apply drbgRequest_quiet
    | with_reducible apply setInst_quiet
    | with_reducible apply drawBytes_quiet
    | with_reducible apply Quiet.ite
    | with_reducible apply Quiet.foldl
    | with_reducible apply QuietP.ite
    | with_reducible apply QuietP.foldl
    | split
    | with_reducible apply Quiet.snd
    | with_reducible apply QuietP.pair

theorem drbgBits_quiet {s : State} (i : Nat) (w_ : Nat) (hs : Quiet z s) : QuietP z (drbgBits s i w_) := by
  unfold drbgBits
  try dsimp only
  repeat' first
    | with_reducible assumption
    | intro _
    | refine Quiet.eqP (by with_reducible assumption) ?_
    | with_reducible apply drbgBytes_quiet
    | with_reducible apply Quiet.ite
    | with_reducible apply Quiet.foldl
    | with_reducible apply QuietP.ite
    | with_reducible apply QuietP.foldl
    | split
    | with_reducible apply Quiet.snd
    | with_reducible apply QuietP.pair

theorem drbgOutput_quiet {s : State} (i : Nat) (n : Nat) (hs : Quiet z s) : QuietP z (drbgOutput s i n) := by
  unfold drbgOutput
  try dsimp only
  repeat' first
    | with_reducible assumption
    | intro _
    | refine Quiet.eqP (by with_reducible assumption) ?_
    | with_reducible apply drbgBytes_quiet
    | with_reducible apply Quiet.ite
    | with_reducible apply Quiet.foldl
    | with_reducible apply QuietP.ite
    | with_reducible apply QuietP.foldl
    | split
    | with_reducible apply Quiet.snd
    | with_reducible apply QuietP.pair

theorem seeded_quiet {s : State} (i : Nat) (k_ : Bytes × W128) (hs : Quiet z s) : Quiet z (seeded s i k_) := by
  unfold seeded
  try dsimp only
  repeat' first
    | with_reducible assumption
    | intro _
    | with_reducible apply setStretch_quiet
    | with_reducible apply setStalled_quiet
    | with_reducible apply setInst_quiet
    | with_reducible apply bump_quiet
    | with_reducible apply Quiet.ite
    | with_reducible apply Quiet.foldl
    | split

theorem seedNew_quiet {s : State} (i : Nat) (block : BitVec 384) (hs : Quiet z s) : Quiet z (seedNew s i block) := by
  unfold seedNew
  try dsimp only
  repeat' first
    | with_reducible assumption
    | intro _
    | with_reducible apply seeded_quiet
    | with_reducible apply Quiet.ite
    | with_reducible apply Quiet.foldl
    | split
    | with_reducible apply Quiet.upd

theorem seedInst_quiet {s : State} (i : Nat) (block : BitVec 384) (hs : Quiet z s) : Quiet z (seedInst s i block) := by
  unfold seedInst
  try dsimp only
  repeat' first
    | with_reducible assumption
    | intro _
    | with_reducible apply seedNew_quiet
    | with_reducible apply seeded_quiet
    | with_reducible apply Quiet.ite
    | with_reducible apply Quiet.foldl
    | split

theorem instantiate_quiet {s : State} (i : Nat) (hs : Quiet z s) : Quiet z (instantiate s i) := by
  unfold instantiate
  try dsimp only
  repeat' first
    | with_reducible assumption
    | intro _
    | refine Quiet.eqP (by with_reducible assumption) ?_
    | with_reducible apply seedNew_quiet
    | with_reducible apply condBlock_quiet
    | with_reducible apply Quiet.ite
    | with_reducible apply Quiet.foldl
    | with_reducible apply QuietP.ite
    | with_reducible apply QuietP.foldl
    | split
    | with_reducible apply Quiet.snd
    | with_reducible apply QuietP.pair
    | with_reducible apply Quiet.upd

theorem endInsts_quiet {s : State} (p : Nat → Bool) (hs : Quiet z s) : Quiet z (endInsts s p) := by
  unfold endInsts
  try dsimp only
  repeat' first
    | with_reducible assumption
    | intro _
    | with_reducible apply setStretch_quiet
    | with_reducible apply setStalled_quiet
    | with_reducible apply Quiet.ite
    | with_reducible apply Quiet.foldl
    | split
    | with_reducible apply Quiet.upd

theorem rekeyMask_quiet {s : State} (cluster : Nat) (tile : Nat) (hs : Quiet z s) : Quiet z (rekeyMask s cluster tile) := by
  unfold rekeyMask
  try dsimp only
  repeat' first
    | with_reducible assumption
    | intro _
    | refine Quiet.eqP (by with_reducible assumption) ?_
    | with_reducible apply drbgBytes_quiet
    | with_reducible apply Quiet.ite
    | with_reducible apply Quiet.foldl
    | with_reducible apply QuietP.ite
    | with_reducible apply QuietP.foldl
    | split
    | with_reducible apply Quiet.snd
    | with_reducible apply QuietP.pair
    | with_reducible apply Quiet.upd

theorem prefetchBits_quiet {s : State} (cluster : Nat) (tile : Nat) (n : Nat) (hs : Quiet z s) : QuietP z (prefetchBits s cluster tile n) := by
  unfold prefetchBits
  try dsimp only
  repeat' first
    | with_reducible assumption
    | intro _
    | refine Quiet.eqP (by with_reducible assumption) ?_
    | with_reducible apply drbgBytes_quiet
    | with_reducible apply Quiet.ite
    | with_reducible apply Quiet.foldl
    | with_reducible apply QuietP.ite
    | with_reducible apply QuietP.foldl
    | split
    | with_reducible apply Quiet.snd
    | with_reducible apply QuietP.pair
    | with_reducible apply Quiet.upd

theorem hbmLost_quiet {s : State} (hs : Quiet z s) : Quiet z (hbmLost s) := by
  unfold hbmLost
  try dsimp only
  repeat' first
    | with_reducible assumption
    | intro _
    | with_reducible apply Quiet.ite
    | with_reducible apply Quiet.foldl
    | split
    | with_reducible apply Quiet.upd

theorem endSwaps_quiet {s : State} (hs : Quiet z s) : Quiet z (endSwaps s) := by
  unfold endSwaps
  try dsimp only
  repeat' first
    | with_reducible assumption
    | intro _
    | with_reducible apply setF_quiet
    | with_reducible apply Quiet.ite
    | with_reducible apply Quiet.foldl
    | split
    | with_reducible apply Quiet.upd

theorem zeroRng_quiet {s : State} (hs : Quiet z s) : Quiet z (zeroRng s) := by
  unfold zeroRng
  try dsimp only
  repeat' first
    | with_reducible assumption
    | intro _
    | with_reducible apply endInsts_quiet
    | with_reducible apply instantiate_quiet
    | with_reducible apply Quiet.ite
    | with_reducible apply Quiet.foldl
    | split
    | with_reducible apply Quiet.upd

theorem resetLandauRegs_quiet {s : State} (hs : Quiet z s) : Quiet z (resetLandauRegs s) := by
  unfold resetLandauRegs
  try dsimp only
  repeat' first
    | with_reducible assumption
    | intro _
    | with_reducible apply resetRegs_quiet
    | with_reducible apply Quiet.ite
    | with_reducible apply Quiet.foldl
    | split

theorem closeOpenWorld_quiet {s : State} (hs : Quiet z s) : Quiet z (closeOpenWorld s) := by
  unfold closeOpenWorld
  try dsimp only
  repeat' first
    | with_reducible assumption
    | intro _
    | with_reducible apply setF_quiet
    | with_reducible apply Quiet.ite
    | with_reducible apply Quiet.foldl
    | split

theorem showPins_quiet {s : State} (hs : Quiet z s) : Quiet z (showPins s) := by
  unfold showPins
  try dsimp only
  repeat' first
    | with_reducible assumption
    | intro _
    | with_reducible apply setB_quiet
    | with_reducible apply Quiet.ite
    | with_reducible apply Quiet.foldl
    | split

theorem countBoot_quiet {s : State} (hs : Quiet z s) : Quiet z (countBoot s) := by
  unfold countBoot
  try dsimp only
  repeat' first
    | with_reducible assumption
    | intro _
    | with_reducible apply bump_quiet
    | with_reducible apply Quiet.ite
    | with_reducible apply Quiet.foldl
    | split

theorem mirrorAll_quiet {s : State} (hs : Quiet z s) : Quiet z (mirrorAll s) := by
  unfold mirrorAll
  try dsimp only
  repeat' first
    | with_reducible assumption
    | intro _
    | with_reducible apply mirrorSafe_quiet
    | with_reducible apply Quiet.ite
    | with_reducible apply Quiet.foldl
    | split

theorem setSafe_quiet {s : State} (b : Bool) (hs : Quiet z s) : Quiet z (setSafe s b) := by
  unfold setSafe
  try dsimp only
  repeat' first
    | with_reducible assumption
    | intro _
    | with_reducible apply mirrorAll_quiet
    | with_reducible apply setB_quiet
    | with_reducible apply Quiet.ite
    | with_reducible apply Quiet.foldl
    | split

theorem showTripped_quiet {s : State} (hs : Quiet z s) : Quiet z (showTripped s) := by
  unfold showTripped
  try dsimp only
  repeat' first
    | with_reducible assumption
    | intro _
    | with_reducible apply setF_quiet
    | with_reducible apply Quiet.ite
    | with_reducible apply Quiet.foldl
    | split

theorem setDomainOn_quiet {s : State} (pd : Nat) (on : Bool) (hs : Quiet z s) : Quiet z (setDomainOn s pd on) := by
  unfold setDomainOn
  try dsimp only
  repeat' first
    | with_reducible assumption
    | intro _
    | with_reducible apply setF_quiet
    | with_reducible apply Quiet.ite
    | with_reducible apply Quiet.foldl
    | split

theorem showCap_quiet {s : State} (hs : Quiet z s) : Quiet z (showCap s) := by
  unfold showCap
  try dsimp only
  repeat' first
    | with_reducible assumption
    | intro _
    | with_reducible apply setF_quiet
    | with_reducible apply Quiet.ite
    | with_reducible apply Quiet.foldl
    | split

theorem pickVariant_quiet {s : State} (t : TagEntry) (cls : Nat) (hs : Quiet z s) : QuietP z (pickVariant s t cls) := by
  unfold pickVariant
  try dsimp only
  repeat' first
    | with_reducible assumption
    | intro _
    | refine Quiet.eqP (by with_reducible assumption) ?_
    | with_reducible apply drbgBits_quiet
    | with_reducible apply Quiet.ite
    | with_reducible apply Quiet.foldl
    | with_reducible apply QuietP.ite
    | with_reducible apply QuietP.foldl
    | split
    | with_reducible apply Quiet.snd
    | with_reducible apply QuietP.pair

theorem countSusp_quiet {s : State} (cls : Nat) (r : Run) (hs : Quiet z s) : Quiet z (countSusp s cls r) := by
  unfold countSusp
  try dsimp only
  repeat' first
    | with_reducible assumption
    | intro _
    | with_reducible apply bump_quiet
    | with_reducible apply Quiet.ite
    | with_reducible apply Quiet.foldl
    | split

theorem drawMany_quiet {s : State} (k n : Nat) (hs : Quiet z s) : QuietP z (drawMany s k n) := by
  induction n generalizing s with
  | zero => exact ⟨hs⟩
  | succ n ih => exact ⟨(ih (draw_quiet k hs).out).out⟩

theorem ecBlinding_quiet {s : State} (c : Curve) (k_ : Nat) (inv : Bool) (hs : Quiet z s) : QuietP z (ecBlinding s c k_ inv) := by
  unfold ecBlinding
  try dsimp only
  repeat' first
    | with_reducible assumption
    | intro _
    | refine Quiet.eqP (by with_reducible assumption) ?_
    | with_reducible apply drawMany_quiet
    | with_reducible apply Quiet.ite
    | with_reducible apply Quiet.foldl
    | with_reducible apply QuietP.ite
    | with_reducible apply QuietP.foldl
    | split
    | with_reducible apply Quiet.snd
    | with_reducible apply QuietP.pair

theorem rsaBlinding_quiet {s : State} (n : Nat) (hs : Quiet z s) : QuietP z (rsaBlinding s n) := by
  unfold rsaBlinding
  try dsimp only
  repeat' first
    | with_reducible assumption
    | intro _
    | refine Quiet.eqP (by with_reducible assumption) ?_
    | with_reducible apply drawMany_quiet
    | with_reducible apply Quiet.ite
    | with_reducible apply Quiet.foldl
    | with_reducible apply QuietP.ite
    | with_reducible apply QuietP.foldl
    | split
    | with_reducible apply Quiet.snd
    | with_reducible apply QuietP.pair

theorem blindTile_quiet {s : State} (r : Run) (b : Blinding × State) (hb : QuietP z b) : Quiet z (blindTile s r b) := hb.out.upd

theorem primeAttempt_quiet (w_ : Nat) (held : List Nat) {s : State} (hs : Quiet z s) : QuietP z (primeAttempt w_ held s) := by
  unfold primeAttempt
  try dsimp only
  repeat' first
    | with_reducible assumption
    | intro _
    | refine Quiet.eqP (by with_reducible assumption) ?_
    | with_reducible apply drawMany_quiet
    | with_reducible apply draw_quiet
    | with_reducible apply Quiet.ite
    | with_reducible apply Quiet.foldl
    | with_reducible apply QuietP.ite
    | with_reducible apply QuietP.foldl
    | split
    | with_reducible apply Quiet.snd
    | with_reducible apply QuietP.pair

theorem syncErr_quiet {s : State} (mpu : Nat) (m : Nat) (r : Nat) (hs : Quiet z s) : Quiet z (syncErr s mpu m r) := by
  unfold syncErr
  try dsimp only
  repeat' first
    | with_reducible assumption
    | intro _
    | with_reducible apply setF_quiet
    | with_reducible apply Quiet.ite
    | with_reducible apply Quiet.foldl
    | split

theorem blockAgain_quiet {s : State} (stack : Nat) (n : Nat) (c : Nat × List Nat) (hs : Quiet z s) : Quiet z (blockAgain s stack n c) := by
  unfold blockAgain
  try dsimp only
  repeat' first
    | with_reducible assumption
    | intro _
    | with_reducible apply Quiet.ite
    | with_reducible apply Quiet.foldl
    | split
    | with_reducible apply Quiet.upd

theorem bumpNode_quiet {a : Nat × State} (stack n lvl : Nat) (hs : Quiet z a.2) : Quiet z (bumpNode stack n a lvl).2 := hs.upd

theorem bumpTree_quiet {s : State} (stack n : Nat) (hs : Quiet z s) : Quiet z (bumpTree s stack n) := by
  unfold bumpTree
  simp only [List.foldl_cons, List.foldl_nil]
  repeat with_reducible apply bumpNode_quiet
  exact hs.upd

theorem cachePath_quiet {s : State} (stack : Nat) (n : Nat) (hs : Quiet z s) : Quiet z (cachePath s stack n) := by
  unfold cachePath
  try dsimp only
  repeat' first
    | with_reducible assumption
    | intro _
    | with_reducible apply Quiet.ite
    | with_reducible apply Quiet.foldl
    | split
    | with_reducible apply Quiet.upd

theorem poisonCount_quiet {s : State} (hs : Quiet z s) : Quiet z (poisonCount s) := by
  unfold poisonCount
  try dsimp only
  repeat' first
    | with_reducible assumption
    | intro _
    | with_reducible apply setF_quiet
    | with_reducible apply Quiet.ite
    | with_reducible apply Quiet.foldl
    | split

theorem writePoison_quiet {s : State} (stack : Nat) (n : Nat) (hs : Quiet z s) : Quiet z (writePoison s stack n) := by
  unfold writePoison
  try dsimp only
  repeat' first
    | with_reducible assumption
    | intro _
    | with_reducible apply Quiet.ite
    | with_reducible apply Quiet.foldl
    | split
    | with_reducible apply Quiet.upd

theorem mcWrite_quiet {s : State} (stack n : Nat) (plain : Bytes) (hs : Quiet z s) : Quiet z (mcWrite s stack n plain) := by
  unfold mcWrite
  dsimp only
  refine writePoison_quiet _ _ (cachePath_quiet _ _ (bumpTree_quiet _ _ (Quiet.updHbm ?_ _)))
  split
  · exact hs.updHbm _
  · exact blockAgain_quiet _ _ _ (hs.updHbm _)

theorem mcPut_quiet {s : State} (stack : Nat) (n : Nat) (plain : Bytes) (hs : Quiet z s) : Quiet z (mcPut s stack n plain) := by
  unfold mcPut
  try dsimp only
  repeat' first
    | with_reducible assumption
    | intro _
    | with_reducible apply mcWrite_quiet
    | with_reducible apply Quiet.ite
    | with_reducible apply Quiet.foldl
    | split
    | with_reducible apply Quiet.upd

theorem mcWritePart_quiet {s : State} (stack : Nat) (n : Nat) (plain : Bytes) (hs : Quiet z s) : Quiet z (mcWritePart s stack n plain) := by
  unfold mcWritePart
  try dsimp only
  repeat' first
    | with_reducible assumption
    | intro _
    | with_reducible apply mcPut_quiet
    | with_reducible apply Quiet.ite
    | with_reducible apply Quiet.foldl
    | split
    | with_reducible apply Quiet.upd

theorem mcWriteAll_quiet {s : State} (stack : Nat) (lines : List Nat) (b : Bytes) (hs : Quiet z s) : Quiet z (mcWriteAll s stack lines b) := by
  unfold mcWriteAll
  try dsimp only
  repeat' first
    | with_reducible assumption
    | intro _
    | with_reducible apply mcPut_quiet
    | with_reducible apply poisonCount_quiet
    | with_reducible apply Quiet.ite
    | with_reducible apply Quiet.foldl
    | split

theorem poisonLine_quiet {s : State} (stack : Nat) (n : Nat) (hs : Quiet z s) : Quiet z (poisonLine s stack n) := by
  unfold poisonLine
  try dsimp only
  repeat' first
    | with_reducible assumption
    | intro _
    | with_reducible apply poisonCount_quiet
    | with_reducible apply Quiet.ite
    | with_reducible apply Quiet.foldl
    | split
    | with_reducible apply Quiet.upd

theorem setSlot_quiet {s : State} (h_ : Nat) (x : KeySlot) (hs : Quiet z s) : Quiet z (setSlot s h_ x) := by
  unfold setSlot
  try dsimp only
  repeat' first
    | with_reducible assumption
    | intro _
    | with_reducible apply Quiet.ite
    | with_reducible apply Quiet.foldl
    | split
    | with_reducible apply Quiet.upd

theorem setDomain_quiet {s : State} (d : Nat) (x : Domain) (hs : Quiet z s) : Quiet z (setDomain s d x) := by
  unfold setDomain
  try dsimp only
  repeat' first
    | with_reducible assumption
    | intro _
    | with_reducible apply Quiet.ite
    | with_reducible apply Quiet.foldl
    | split
    | with_reducible apply Quiet.upd

theorem updDomain_quiet {s : State} (d : Nat) (f : Domain → Domain) (hs : Quiet z s) : Quiet z (updDomain s d f) := by
  unfold updDomain
  try dsimp only
  repeat' first
    | with_reducible assumption
    | intro _
    | with_reducible apply setDomain_quiet
    | with_reducible apply Quiet.ite
    | with_reducible apply Quiet.foldl
    | split

theorem writeRecord_quiet {s : State} (h_ : Nat) (hs : Quiet z s) : Quiet z (writeRecord s h_) := by
  unfold writeRecord
  try dsimp only
  repeat' first
    | with_reducible assumption
    | intro _
    | with_reducible apply mcWriteAll_quiet
    | with_reducible apply Quiet.ite
    | with_reducible apply Quiet.foldl
    | split

theorem writeHeader_quiet {s : State} (h_ : Nat) (hs : Quiet z s) : Quiet z (writeHeader s h_) := by
  unfold writeHeader
  try dsimp only
  repeat' first
    | with_reducible assumption
    | intro _
    | with_reducible apply mcWritePart_quiet
    | with_reducible apply poisonCount_quiet
    | with_reducible apply Quiet.ite
    | with_reducible apply Quiet.foldl
    | split

theorem kcUpd_quiet {s : State} (kind : Nat) (name : Nat) (f : KcEntry → KcEntry) (hs : Quiet z s) : Quiet z (kcUpd s kind name f) := by
  unfold kcUpd
  try dsimp only
  repeat' first
    | with_reducible assumption
    | intro _
    | with_reducible apply Quiet.ite
    | with_reducible apply Quiet.foldl
    | split
    | with_reducible apply Quiet.upd

theorem kcWriteBack_quiet {s : State} (e : KcEntry) (hs : Quiet z s) : Quiet z (kcWriteBack s e) := by
  unfold kcWriteBack
  try dsimp only
  repeat' first
    | with_reducible assumption
    | intro _
    | with_reducible apply writeHeader_quiet
    | with_reducible apply Quiet.ite
    | with_reducible apply Quiet.foldl
    | split
    | with_reducible apply Quiet.upd

theorem kcEvict_quiet {s : State} (e : KcEntry) (hs : Quiet z s) : Quiet z (kcEvict s e) := by
  unfold kcEvict
  try dsimp only
  repeat' first
    | with_reducible assumption
    | intro _
    | with_reducible apply kcWriteBack_quiet
    | with_reducible apply Quiet.ite
    | with_reducible apply Quiet.foldl
    | split
    | with_reducible apply Quiet.upd

theorem kcMakeRoom_quiet {s : State} (size n : Nat) (hs : Quiet z s) : Quiet z (kcMakeRoom s size n) := by
  induction n generalizing s with
  | zero => exact hs
  | succ n ih =>
    unfold kcMakeRoom
    split
    · exact hs
    · split
      · exact hs
      · exact ih (kcEvict_quiet _ hs)

theorem kcLoad_quiet {s : State} (kind : Nat) (name : Nat) (key : Bytes) (hdr : Option KeyObj) (area : Nat) (pinned : Bool) (hs : Quiet z s) : Quiet z (kcLoad s kind name key hdr area pinned) := by
  unfold kcLoad
  try dsimp only
  repeat' first
    | with_reducible assumption
    | intro _
    | refine Quiet.eqP (by with_reducible assumption) ?_
    | with_reducible apply kcMakeRoom_quiet
    | with_reducible apply drawBytes_quiet
    | with_reducible apply Quiet.ite
    | with_reducible apply Quiet.foldl
    | with_reducible apply QuietP.ite
    | with_reducible apply QuietP.foldl
    | split
    | with_reducible apply Quiet.snd
    | with_reducible apply QuietP.pair
    | with_reducible apply Quiet.upd

theorem kcTouch_quiet {s : State} (e : KcEntry) (hs : Quiet z s) : Quiet z (kcTouch s e) := by
  unfold kcTouch
  try dsimp only
  repeat' first
    | with_reducible assumption
    | intro _
    | refine Quiet.eqP (by with_reducible assumption) ?_
    | with_reducible apply kcUpd_quiet
    | with_reducible apply drawBytes_quiet
    | with_reducible apply Quiet.ite
    | with_reducible apply Quiet.foldl
    | with_reducible apply QuietP.ite
    | with_reducible apply QuietP.foldl
    | split
    | with_reducible apply Quiet.snd
    | with_reducible apply QuietP.pair
    | with_reducible apply Quiet.upd

theorem kcUse_quiet {s : State} (kind d : Nat) (hs : Quiet z s) : Quiet z (kcUse s kind d) := by
  unfold kcUse
  cases kcFind s kind d with
  | none => exact hs
  | some e => exact kcTouch_quiet e hs

theorem updCounts_quiet {s : State} (h_ : Nat) (f : KeyObj → KeyObj) (hs : Quiet z s) : Quiet z (updCounts s h_ f) := by
  unfold updCounts
  try dsimp only
  repeat' first
    | with_reducible assumption
    | intro _
    | with_reducible apply kcUpd_quiet
    | with_reducible apply writeHeader_quiet
    | with_reducible apply setSlot_quiet
    | with_reducible apply Quiet.ite
    | with_reducible apply Quiet.foldl
    | split

theorem updKey_quiet {s : State} (h_ : Nat) (f : KeyObj → KeyObj) (hs : Quiet z s) : Quiet z (updKey s h_ f) := by
  unfold updKey
  try dsimp only
  repeat' first
    | with_reducible assumption
    | intro _
    | with_reducible apply kcUpd_quiet
    | with_reducible apply setSlot_quiet
    | with_reducible apply Quiet.ite
    | with_reducible apply Quiet.foldl
    | split

theorem pinDomain_quiet {s : State} (d : Nat) (dmk : Bytes) (hs : Quiet z s) : Quiet z (pinDomain s d dmk) := by
  unfold pinDomain
  try dsimp only
  repeat' first
    | with_reducible assumption
    | intro _
    | with_reducible apply kcLoad_quiet
    | with_reducible apply Quiet.ite
    | with_reducible apply Quiet.foldl
    | split

theorem appendJ_quiet {s : State} (d : Nat) (b : JBody) (hs : Quiet z s) : Quiet z (appendJ s d b) := by
  unfold appendJ
  try dsimp only
  repeat' first
    | with_reducible assumption
    | intro _
    | with_reducible apply kcUse_quiet
    | with_reducible apply setDomain_quiet
    | with_reducible apply mcWriteAll_quiet
    | with_reducible apply Quiet.ite
    | with_reducible apply Quiet.foldl
    | split
    | with_reducible apply Quiet.upd

theorem reserve_quiet {s : State} (h_ : Nat) (hs : Quiet z s) : Quiet z (reserve s h_) := by
  unfold reserve
  try dsimp only
  repeat' first
    | with_reducible assumption
    | intro _
    | with_reducible apply appendJ_quiet
    | with_reducible apply updCounts_quiet
    | with_reducible apply Quiet.ite
    | with_reducible apply Quiet.foldl
    | split

theorem updDomainKeys_quiet {s : State} (d : Nat) (f : KeyObj → KeyObj) (hs : Quiet z s) : Quiet z (updDomainKeys s d f) := by
  unfold updDomainKeys
  try dsimp only
  repeat' first
    | with_reducible assumption
    | intro _
    | with_reducible apply Quiet.ite
    | with_reducible apply Quiet.foldl
    | split
    | with_reducible apply Quiet.upd

theorem startEvict_quiet {s : State} (h_ : Nat) (hs : Quiet z s) : Quiet z (startEvict s h_) := by
  unfold startEvict
  try dsimp only
  repeat' first
    | with_reducible assumption
    | intro _
    | with_reducible apply Quiet.ite
    | with_reducible apply Quiet.foldl
    | split
    | with_reducible apply Quiet.upd

theorem chooseVictim_quiet {s : State} (w_ : Nat) (hs : Quiet z s) : Quiet z (chooseVictim s w_) := by
  unfold chooseVictim
  try dsimp only
  repeat' first
    | with_reducible assumption
    | intro _
    | with_reducible apply startEvict_quiet
    | with_reducible apply Quiet.ite
    | with_reducible apply Quiet.foldl
    | split

theorem addTable_quiet {s : State} (h : Nat) (hs : Quiet z s) : Quiet z (addTable s h) := by
  unfold addTable
  exact Quiet.updKs (mcWriteAll_quiet _ _ _ hs) _

theorem askBuild_quiet {s : State} (h_ : Nat) (hs : Quiet z s) : Quiet z (askBuild s h_) := by
  unfold askBuild
  try dsimp only
  repeat' first
    | with_reducible assumption
    | intro _
    | with_reducible apply Quiet.ite
    | with_reducible apply Quiet.foldl
    | split
    | with_reducible apply Quiet.upd

theorem wrapOut_quiet {s : State} (o : KeyObj) (hs : Quiet z s) : QuietP z (wrapOut s o) := by
  unfold wrapOut
  try dsimp only
  repeat' first
    | with_reducible assumption
    | intro _
    | refine Quiet.eqP (by with_reducible assumption) ?_
    | with_reducible apply kcUse_quiet
    | with_reducible apply drawBytes_quiet
    | with_reducible apply Quiet.ite
    | with_reducible apply Quiet.foldl
    | with_reducible apply QuietP.ite
    | with_reducible apply QuietP.foldl
    | split
    | with_reducible apply Quiet.snd
    | with_reducible apply QuietP.pair

theorem placeObj_quiet {s : State} (kind : Nat) (o : KeyObj) (hs : Quiet z s) : Quiet z (placeObj s kind o) := by
  unfold placeObj
  try dsimp only
  repeat' first
    | with_reducible assumption
    | intro _
    | refine Quiet.eqP (by with_reducible assumption) ?_
    | with_reducible apply wrapOut_quiet
    | with_reducible apply askBuild_quiet
    | with_reducible apply appendJ_quiet
    | with_reducible apply kcUpd_quiet
    | with_reducible apply writeRecord_quiet
    | with_reducible apply setSlot_quiet
    | with_reducible apply Quiet.ite
    | with_reducible apply Quiet.foldl
    | with_reducible apply QuietP.ite
    | with_reducible apply QuietP.foldl
    | split
    | with_reducible apply Quiet.snd
    | with_reducible apply QuietP.pair

theorem effPutKey_quiet {s : State} (slot : Nat) (o : KeyObj) (out : Outcome) (hs : Quiet z s) : QuietL z (effPutKey s slot o out) := by
  unfold effPutKey
  try dsimp only
  repeat' first
    | with_reducible assumption
    | intro _
    | refine Quiet.eqL (by with_reducible assumption) ?_
    | with_reducible apply placeObj_quiet
    | with_reducible apply Quiet.ite
    | with_reducible apply Quiet.foldl
    | with_reducible apply QuietL.ite
    | split
    | with_reducible apply Quiet.fst
    | with_reducible apply QuietL.pair

theorem forgetKey_quiet {s : State} (h_ : Nat) (hs : Quiet z s) : Quiet z (forgetKey s h_) := by
  unfold forgetKey
  try dsimp only
  repeat' first
    | with_reducible assumption
    | intro _
    | with_reducible apply startEvict_quiet
    | with_reducible apply Quiet.ite
    | with_reducible apply Quiet.foldl
    | split
    | with_reducible apply Quiet.upd

theorem freeSlot_quiet {s : State} (h_ : Nat) (hs : Quiet z s) : Quiet z (freeSlot s h_) := by
  unfold freeSlot
  try dsimp only
  repeat' first
    | with_reducible assumption
    | intro _
    | with_reducible apply updDomain_quiet
    | with_reducible apply setSlot_quiet
    | with_reducible apply occur_quiet
    | with_reducible apply Quiet.ite
    | with_reducible apply Quiet.foldl
    | split

theorem effDeleteKey_quiet {s : State} (h_ : Nat) (out : Outcome) (hs : Quiet z s) : QuietL z (effDeleteKey s h_ out) := by
  unfold effDeleteKey
  try dsimp only
  repeat' first
    | with_reducible assumption
    | intro _
    | refine Quiet.eqL (by with_reducible assumption) ?_
    | with_reducible apply freeSlot_quiet
    | with_reducible apply forgetKey_quiet
    | with_reducible apply appendJ_quiet
    | with_reducible apply Quiet.ite
    | with_reducible apply Quiet.foldl
    | with_reducible apply QuietL.ite
    | split
    | with_reducible apply Quiet.fst
    | with_reducible apply QuietL.pair

theorem effRestrictKey_quiet {s : State} (h_ : Nat) (usage : Nat) (useLimit : Nat) (attr : Nat) (out : Outcome) (hs : Quiet z s) : QuietL z (effRestrictKey s h_ usage useLimit attr out) := by
  unfold effRestrictKey
  try dsimp only
  repeat' first
    | with_reducible assumption
    | intro _
    | refine Quiet.eqL (by with_reducible assumption) ?_
    | with_reducible apply askBuild_quiet
    | with_reducible apply reserve_quiet
    | with_reducible apply appendJ_quiet
    | with_reducible apply updKey_quiet
    | with_reducible apply writeRecord_quiet
    | with_reducible apply Quiet.ite
    | with_reducible apply Quiet.foldl
    | with_reducible apply QuietL.ite
    | split
    | with_reducible apply Quiet.fst
    | with_reducible apply QuietL.pair

theorem effImportKey_quiet {s : State} (d : Nat) (b : Bytes) (fails : Bool) (out : Outcome) (hs : Quiet z s) : QuietL z (effImportKey s d b fails out) := by
  unfold effImportKey
  try dsimp only
  repeat' first
    | with_reducible assumption
    | intro _
    | refine Quiet.eqL (by with_reducible assumption) ?_
    | with_reducible apply placeObj_quiet
    | with_reducible apply kcUse_quiet
    | with_reducible apply Quiet.ite
    | with_reducible apply Quiet.foldl
    | with_reducible apply QuietL.ite
    | split
    | with_reducible apply Quiet.fst
    | with_reducible apply QuietL.pair

theorem whenKeys_quiet {s : State} (t : TagEntry) {go : State} (hs : Quiet z s) (hgo : Quiet z go) : Quiet z (whenKeys s t go) := by
  unfold whenKeys
  try dsimp only
  repeat' first
    | with_reducible assumption
    | intro _
    | with_reducible apply Quiet.ite
    | with_reducible apply Quiet.foldl
    | split

theorem whenRoom_quiet {s : State} (t : TagEntry) (n : Nat) {go : State} (hs : Quiet z s) (hgo : Quiet z go) : Quiet z (whenRoom s t n go) := by
  unfold whenRoom
  try dsimp only
  repeat' first
    | with_reducible assumption
    | intro _
    | with_reducible apply whenKeys_quiet
    | with_reducible apply Quiet.ite
    | with_reducible apply Quiet.foldl
    | split

theorem genBody_quiet {s : State} (typ : Nat) (bits : Nat) (hs : Quiet z s) : QuietP z (genBody s typ bits) := by
  unfold genBody
  try dsimp only
  repeat' first
    | with_reducible assumption
    | intro _
    | refine Quiet.eqP (by with_reducible assumption) ?_
    | with_reducible apply drawBytes_quiet
    | with_reducible apply Quiet.ite
    | with_reducible apply Quiet.foldl
    | with_reducible apply QuietP.ite
    | with_reducible apply QuietP.foldl
    | split
    | with_reducible apply Quiet.snd
    | with_reducible apply QuietP.pair

theorem genEc_quiet {s : State} (r : Run) (typ : Nat) (hs : Quiet z s) : QuietP z (genEc s r typ) := by
  unfold genEc
  try dsimp only
  repeat' first
    | with_reducible assumption
    | intro _
    | refine Quiet.eqP (by with_reducible assumption) ?_
    | with_reducible apply blindTile_quiet
    | with_reducible apply ecBlinding_quiet
    | with_reducible apply draw_quiet
    | with_reducible apply Quiet.ite
    | with_reducible apply Quiet.foldl
    | with_reducible apply QuietP.ite
    | with_reducible apply QuietP.foldl
    | split
    | with_reducible apply Quiet.snd
    | with_reducible apply QuietP.pair

theorem kbSeal_quiet {s : State} (version : Nat) (k_ : KeyObj) (o : KeyObj) (hs : Quiet z s) : QuietP z (kbSeal s version k_ o) := by
  unfold kbSeal
  try dsimp only
  repeat' first
    | with_reducible assumption
    | intro _
    | refine Quiet.eqP (by with_reducible assumption) ?_
    | with_reducible apply drawBytes_quiet
    | with_reducible apply draw_quiet
    | with_reducible apply Quiet.ite
    | with_reducible apply Quiet.foldl
    | with_reducible apply QuietP.ite
    | with_reducible apply QuietP.foldl
    | split
    | with_reducible apply Quiet.snd
    | with_reducible apply QuietP.pair

theorem drawNonce_quiet {s : State} (c : Curve) (hs : Quiet z s) : QuietP z (drawNonce s c) := by
  unfold drawNonce
  try dsimp only
  repeat' first
    | with_reducible assumption
    | intro _
    | refine Quiet.eqP (by with_reducible assumption) ?_
    | with_reducible apply draw_quiet
    | with_reducible apply Quiet.ite
    | with_reducible apply Quiet.foldl
    | with_reducible apply QuietP.ite
    | with_reducible apply QuietP.foldl
    | split
    | with_reducible apply Quiet.snd
    | with_reducible apply QuietP.pair

theorem touchTable_quiet {s : State} (h_ : Nat) (hs : Quiet z s) : Quiet z (touchTable s h_) := by
  unfold touchTable
  try dsimp only
  repeat' first
    | with_reducible assumption
    | intro _
    | with_reducible apply Quiet.ite
    | with_reducible apply Quiet.foldl
    | split
    | with_reducible apply Quiet.upd

theorem amended_quiet {s : State} (hs : Quiet z s) : Quiet z (amended s) := by
  unfold amended
  try dsimp only
  repeat' first
    | with_reducible assumption
    | intro _
    | with_reducible apply rekeyMask_quiet
    | with_reducible apply applyAmend_quiet
    | with_reducible apply Quiet.ite
    | with_reducible apply Quiet.foldl
    | split

theorem spkeSign_quiet {s : State} (key : Bytes) (dig : Bytes) (hs : Quiet z s) : QuietP z (spkeSign s key dig) := by
  unfold spkeSign
  try dsimp only
  repeat' first
    | with_reducible assumption
    | intro _
    | refine Quiet.eqP (by with_reducible assumption) ?_
    | with_reducible apply draw_quiet
    | with_reducible apply Quiet.ite
    | with_reducible apply Quiet.foldl
    | with_reducible apply QuietP.ite
    | with_reducible apply QuietP.foldl
    | split
    | with_reducible apply Quiet.snd
    | with_reducible apply QuietP.pair

theorem akSign_quiet {s : State} (b : Bytes) (hs : Quiet z s) : QuietP z (akSign s b) := by
  unfold akSign
  try dsimp only
  repeat' first
    | with_reducible assumption
    | intro _
    | refine Quiet.eqP (by with_reducible assumption) ?_
    | with_reducible apply spkeSign_quiet
    | with_reducible apply drawBytes_quiet
    | with_reducible apply Quiet.ite
    | with_reducible apply Quiet.foldl
    | with_reducible apply QuietP.ite
    | with_reducible apply QuietP.foldl
    | split
    | with_reducible apply Quiet.snd
    | with_reducible apply QuietP.pair

theorem makeRecord_quiet {s : State} (r : RecIn) (hs : Quiet z s) : QuietP z (makeRecord s r) := by
  unfold makeRecord
  try dsimp only
  repeat' first
    | with_reducible assumption
    | intro _
    | refine Quiet.eqP (by with_reducible assumption) ?_
    | with_reducible apply akSign_quiet
    | with_reducible apply Quiet.ite
    | with_reducible apply Quiet.foldl
    | with_reducible apply QuietP.ite
    | with_reducible apply QuietP.foldl
    | split
    | with_reducible apply Quiet.snd
    | with_reducible apply QuietP.pair

theorem makeQuote_quiet {s : State} (nonce : Bytes) (hs : Quiet z s) : QuietP z (makeQuote s nonce) := by
  unfold makeQuote
  try dsimp only
  repeat' first
    | with_reducible assumption
    | intro _
    | refine Quiet.eqP (by with_reducible assumption) ?_
    | with_reducible apply akSign_quiet
    | with_reducible apply Quiet.ite
    | with_reducible apply Quiet.foldl
    | with_reducible apply QuietP.ite
    | with_reducible apply QuietP.foldl
    | split
    | with_reducible apply Quiet.snd
    | with_reducible apply QuietP.pair

theorem setMasked_quiet {s : State} (blk : Nat) (off : Nat) (mask : Nat) (v : Nat) (hs : Quiet z s) : Quiet z (setMasked s blk off mask v) := by
  unfold setMasked
  try dsimp only
  repeat' first
    | with_reducible assumption
    | intro _
    | with_reducible apply setF_quiet
    | with_reducible apply Quiet.ite
    | with_reducible apply Quiet.foldl
    | split

theorem setDefaults_quiet {s : State} (blk : Nat) (off : Nat) (hs : Quiet z s) : Quiet z (setDefaults s blk off) := by
  unfold setDefaults
  try dsimp only
  repeat' first
    | with_reducible assumption
    | intro _
    | with_reducible apply setF_quiet
    | with_reducible apply Quiet.ite
    | with_reducible apply Quiet.foldl
    | split

theorem applyParams_quiet {s : State} (p : Nat → Bool) (hs : Quiet z s) : Quiet z (applyParams s p) := by
  unfold applyParams
  try dsimp only
  repeat' first
    | with_reducible assumption
    | intro _
    | with_reducible apply setDefaults_quiet
    | with_reducible apply setMasked_quiet
    | with_reducible apply Quiet.ite
    | with_reducible apply Quiet.foldl
    | split

theorem loadGeckoParams_quiet {s : State} (hs : Quiet z s) : Quiet z (loadGeckoParams s) := by
  unfold loadGeckoParams
  try dsimp only
  repeat' first
    | with_reducible assumption
    | intro _
    | with_reducible apply applyParams_quiet
    | with_reducible apply Quiet.ite
    | with_reducible apply Quiet.foldl
    | split

theorem strictStall_quiet {s : State} (hs : Quiet z s) : Quiet z (strictStall s) := by
  unfold strictStall
  try dsimp only
  repeat' first
    | with_reducible assumption
    | intro _
    | with_reducible apply setStalled_quiet
    | with_reducible apply Quiet.ite
    | with_reducible apply Quiet.foldl
    | split

theorem feedSource_quiet {s : State} (n : Nat) (l : List Bool) (hs : Quiet z s) : QuietL z (feedSource s n l) := by
  unfold feedSource
  try dsimp only
  repeat' first
    | with_reducible assumption
    | intro _
    | refine Quiet.eqL (by with_reducible assumption) ?_
    | with_reducible apply Quiet.ite
    | with_reducible apply Quiet.foldl
    | with_reducible apply QuietL.ite
    | split
    | with_reducible apply Quiet.fst
    | with_reducible apply QuietL.pair
    | with_reducible apply Quiet.upd

theorem putGrant_quiet {s : State} (d : Nat) (dem : Nat) (grant : Nat) (hs : Quiet z s) : Quiet z (putGrant s d dem grant) := by
  unfold putGrant
  try dsimp only
  repeat' first
    | with_reducible assumption
    | intro _
    | with_reducible apply setF_quiet
    | with_reducible apply Quiet.ite
    | with_reducible apply Quiet.foldl
    | split

theorem putFixed_quiet {s : State} (d : Nat) (hs : Quiet z s) : Quiet z (putFixed s d) := by
  unfold putFixed
  try dsimp only
  repeat' first
    | with_reducible assumption
    | intro _
    | with_reducible apply setF_quiet
    | with_reducible apply Quiet.ite
    | with_reducible apply Quiet.foldl
    | split

theorem putGrants_quiet {s : State} (dem : Nat → Nat) (grant : Nat → Nat) (hs : Quiet z s) : Quiet z (putGrants s dem grant) := by
  unfold putGrants
  try dsimp only
  repeat' first
    | with_reducible assumption
    | intro _
    | with_reducible apply putFixed_quiet
    | with_reducible apply putGrant_quiet
    | with_reducible apply Quiet.ite
    | with_reducible apply Quiet.foldl
    | split

theorem loadGrants_quiet {s : State} (hs : Quiet z s) : Quiet z (loadGrants s) := by
  unfold loadGrants
  try dsimp only
  repeat' first
    | with_reducible assumption
    | intro _
    | with_reducible apply putGrants_quiet
    | with_reducible apply showCap_quiet
    | with_reducible apply Quiet.ite
    | with_reducible apply Quiet.foldl
    | split

theorem rekeyCluster_quiet {s : State} (u : Nat) (hs : Quiet z s) : Quiet z (rekeyCluster s u) := by
  unfold rekeyCluster
  try dsimp only
  repeat' first
    | with_reducible assumption
    | intro _
    | with_reducible apply rekeyMask_quiet
    | with_reducible apply Quiet.ite
    | with_reducible apply Quiet.foldl
    | split

theorem showMode_quiet {s : State} (m : Nat) (hs : Quiet z s) : Quiet z (showMode s m) := by
  unfold showMode
  try dsimp only
  repeat' first
    | with_reducible assumption
    | intro _
    | with_reducible apply setF_quiet
    | with_reducible apply Quiet.ite
    | with_reducible apply Quiet.foldl
    | split

theorem effSnapBegin_quiet {s : State} (d : Nat) (out : Outcome) (hs : Quiet z s) : QuietL z (effSnapBegin s d out) := by
  unfold effSnapBegin
  try dsimp only
  repeat' first
    | with_reducible assumption
    | intro _
    | refine Quiet.eqP (by with_reducible assumption) ?_
    | refine Quiet.eqL (by with_reducible assumption) ?_
    | with_reducible apply updDomain_quiet
    | with_reducible apply draw_quiet
    | with_reducible apply Quiet.ite
    | with_reducible apply Quiet.foldl
    | with_reducible apply QuietP.ite
    | with_reducible apply QuietP.foldl
    | with_reducible apply QuietL.ite
    | split
    | with_reducible apply Quiet.snd
    | with_reducible apply QuietP.pair
    | with_reducible apply Quiet.fst
    | with_reducible apply QuietL.pair

theorem wrapAll_quiet {s : State} (l : List KeyObj) (hs : Quiet z s) : QuietP z (wrapAll s l) := by
  induction l generalizing s with
  | nil => exact ⟨hs⟩
  | cons o l ih => exact ⟨(ih (wrapOut_quiet o hs).out).out⟩

theorem chunkBytes_quiet {s : State} (d : Nat) (sn : Snap) (k_ : Nat) (hs : Quiet z s) : QuietP z (chunkBytes s d sn k_) := by
  unfold chunkBytes
  try dsimp only
  repeat' first
    | with_reducible assumption
    | intro _
    | refine Quiet.eqP (by with_reducible assumption) ?_
    | with_reducible apply wrapAll_quiet
    | with_reducible apply kcUse_quiet
    | with_reducible apply Quiet.ite
    | with_reducible apply Quiet.foldl
    | with_reducible apply QuietP.ite
    | with_reducible apply QuietP.foldl
    | split
    | with_reducible apply Quiet.snd
    | with_reducible apply QuietP.pair

theorem emptyStore_quiet {s : State} (d : Nat) (hs : Quiet z s) : Quiet z (emptyStore s d) := by
  unfold emptyStore
  try dsimp only
  repeat' first
    | with_reducible assumption
    | intro _
    | with_reducible apply Quiet.ite
    | with_reducible apply Quiet.foldl
    | split
    | with_reducible apply Quiet.upd

theorem effRestoreBegin_quiet {s : State} (d : Nat) (snap : Nat) (out : Outcome) (hs : Quiet z s) : QuietL z (effRestoreBegin s d snap out) := by
  unfold effRestoreBegin
  try dsimp only
  repeat' first
    | with_reducible assumption
    | intro _
    | refine Quiet.eqL (by with_reducible assumption) ?_
    | with_reducible apply emptyStore_quiet
    | with_reducible apply updDomain_quiet
    | with_reducible apply Quiet.ite
    | with_reducible apply Quiet.foldl
    | with_reducible apply QuietL.ite
    | split
    | with_reducible apply Quiet.fst
    | with_reducible apply QuietL.pair

theorem restoreObj_quiet {s : State} (o : KeyObj) (hs : Quiet z s) : Quiet z (restoreObj s o) := by
  unfold restoreObj
  try dsimp only
  repeat' first
    | with_reducible assumption
    | intro _
    | with_reducible apply writeRecord_quiet
    | with_reducible apply setSlot_quiet
    | with_reducible apply Quiet.ite
    | with_reducible apply Quiet.foldl
    | split

theorem raiseMarks_quiet {s : State} (h_ : Nat) (um : Nat) (cm : Nat) (hs : Quiet z s) : Quiet z (raiseMarks s h_ um cm) := by
  unfold raiseMarks
  try dsimp only
  repeat' first
    | with_reducible assumption
    | intro _
    | with_reducible apply updKey_quiet
    | with_reducible apply Quiet.ite
    | with_reducible apply Quiet.foldl
    | split

theorem applyRec_quiet {s : State} (rcd : Bytes) (o : Option KeyObj) (hs : Quiet z s) : Quiet z (applyRec s rcd o) := by
  unfold applyRec
  try dsimp only
  repeat' first
    | with_reducible assumption
    | intro _
    | with_reducible apply raiseMarks_quiet
    | with_reducible apply restoreObj_quiet
    | with_reducible apply updKey_quiet
    | with_reducible apply updDomain_quiet
    | with_reducible apply setSlot_quiet
    | with_reducible apply Quiet.ite
    | with_reducible apply Quiet.foldl
    | split

theorem logDmk_quiet {s : State} (d : Nat) (payload : Bytes) (hs : Quiet z s) : Quiet z (logDmk s d payload) := by
  unfold logDmk
  try dsimp only
  repeat' first
    | with_reducible assumption
    | intro _
    | refine Quiet.eqP (by with_reducible assumption) ?_
    | with_reducible apply kcUse_quiet
    | with_reducible apply drawBytes_quiet
    | with_reducible apply Quiet.ite
    | with_reducible apply Quiet.foldl
    | with_reducible apply QuietP.ite
    | with_reducible apply QuietP.foldl
    | split
    | with_reducible apply Quiet.snd
    | with_reducible apply QuietP.pair
    | with_reducible apply Quiet.upd

theorem installDomain_quiet {s : State} (d : Nat) (dmk : Bytes) (x : Domain) (hs : Quiet z s) : Quiet z (installDomain s d dmk x) := by
  unfold installDomain
  try dsimp only
  repeat' first
    | with_reducible assumption
    | intro _
    | with_reducible apply logDmk_quiet
    | with_reducible apply pinDomain_quiet
    | with_reducible apply setDomain_quiet
    | with_reducible apply Quiet.ite
    | with_reducible apply Quiet.foldl
    | split

theorem effRestoreEnd_quiet {s : State} (d : Nat) (out : Outcome) (hs : Quiet z s) : QuietL z (effRestoreEnd s d out) := by
  unfold effRestoreEnd
  try dsimp only
  repeat' first
    | with_reducible assumption
    | intro _
    | refine Quiet.eqL (by with_reducible assumption) ?_
    | with_reducible apply logDmk_quiet
    | with_reducible apply askBuild_quiet
    | with_reducible apply updDomainKeys_quiet
    | with_reducible apply updDomain_quiet
    | with_reducible apply Quiet.ite
    | with_reducible apply Quiet.foldl
    | with_reducible apply QuietL.ite
    | split
    | with_reducible apply Quiet.fst
    | with_reducible apply QuietL.pair
    | with_reducible apply Quiet.upd

theorem effDomainCreate_quiet {s : State} (d : Nat) (out : Outcome) (hs : Quiet z s) : QuietL z (effDomainCreate s d out) := by
  unfold effDomainCreate
  try dsimp only
  repeat' first
    | with_reducible assumption
    | intro _
    | refine Quiet.eqP (by with_reducible assumption) ?_
    | refine Quiet.eqL (by with_reducible assumption) ?_
    | with_reducible apply installDomain_quiet
    | with_reducible apply drawBytes_quiet
    | with_reducible apply draw_quiet
    | with_reducible apply Quiet.ite
    | with_reducible apply Quiet.foldl
    | with_reducible apply QuietP.ite
    | with_reducible apply QuietP.foldl
    | with_reducible apply QuietL.ite
    | split
    | with_reducible apply Quiet.snd
    | with_reducible apply QuietP.pair
    | with_reducible apply Quiet.fst
    | with_reducible apply QuietL.pair

theorem shareRecord_quiet {s : State} (cset : Bytes) (qtk : Bytes) (coeff : Bytes) (i : Nat) (hs : Quiet z s) : QuietP z (shareRecord s cset qtk coeff i) := by
  unfold shareRecord
  try dsimp only
  repeat' first
    | with_reducible assumption
    | intro _
    | refine Quiet.eqP (by with_reducible assumption) ?_
    | with_reducible apply drawBytes_quiet
    | with_reducible apply Quiet.ite
    | with_reducible apply Quiet.foldl
    | with_reducible apply QuietP.ite
    | with_reducible apply QuietP.foldl
    | split
    | with_reducible apply Quiet.snd
    | with_reducible apply QuietP.pair

theorem shareRecords_quiet {s : State} (cset qtk coeff : Bytes) (l : List Nat) (hs : Quiet z s) : QuietP z (shareRecords s cset qtk coeff l) := by
  induction l generalizing s with
  | nil => exact ⟨hs⟩
  | cons i l ih => exact ⟨(ih (shareRecord_quiet cset qtk coeff i hs).out).out⟩

theorem escrowBlob_quiet {s : State} (d : Nat) (cset : Bytes) (hs : Quiet z s) : QuietP z (escrowBlob s d cset) := by
  unfold escrowBlob
  try dsimp only
  repeat' first
    | with_reducible assumption
    | intro _
    | refine Quiet.eqP (by with_reducible assumption) ?_
    | with_reducible apply shareRecords_quiet
    | with_reducible apply kcUse_quiet
    | with_reducible apply drawBytes_quiet
    | with_reducible apply Quiet.ite
    | with_reducible apply Quiet.foldl
    | with_reducible apply QuietP.ite
    | with_reducible apply QuietP.foldl
    | split
    | with_reducible apply Quiet.snd
    | with_reducible apply QuietP.pair

theorem kcEvictAll_quiet {s : State} (p : KcEntry → Bool) (hs : Quiet z s) : Quiet z (kcEvictAll s p) := by
  unfold kcEvictAll
  try dsimp only
  repeat' first
    | with_reducible assumption
    | intro _
    | with_reducible apply kcEvict_quiet
    | with_reducible apply Quiet.ite
    | with_reducible apply Quiet.foldl
    | split

theorem updStack_quiet {s : State} (stack : Nat) (f : HbmStack → HbmStack) (hs : Quiet z s) : Quiet z (updStack s stack f) := by
  unfold updStack
  try dsimp only
  repeat' first
    | with_reducible assumption
    | intro _
    | with_reducible apply Quiet.ite
    | with_reducible apply Quiet.foldl
    | split
    | with_reducible apply Quiet.upd

theorem cipherRun_quiet (e : Bytes) (dec : Bool) (ks : List KeyObj) (b : Bytes) {s : State} (hs : Quiet z s) : QuietP z (cipherRun e dec ks b s) := by
  unfold cipherRun
  try dsimp only
  repeat' first
    | with_reducible assumption
    | intro _
    | refine Quiet.eqP (by with_reducible assumption) ?_
    | with_reducible apply Quiet.ite
    | with_reducible apply Quiet.foldl
    | with_reducible apply QuietP.ite
    | with_reducible apply QuietP.foldl
    | split
    | with_reducible apply Quiet.snd
    | with_reducible apply QuietP.pair

theorem freshNonce_quiet {s : State} (hs : Quiet z s) : Quiet z (freshNonce s) := by
  unfold freshNonce
  try dsimp only
  repeat' first
    | with_reducible assumption
    | intro _
    | refine Quiet.eqP (by with_reducible assumption) ?_
    | with_reducible apply drawBytes_quiet
    | with_reducible apply setF_quiet
    | with_reducible apply Quiet.ite
    | with_reducible apply Quiet.foldl
    | with_reducible apply QuietP.ite
    | with_reducible apply QuietP.foldl
    | split
    | with_reducible apply Quiet.snd
    | with_reducible apply QuietP.pair

theorem tokenEnds_quiet {s : State} (hs : Quiet z s) : Quiet z (tokenEnds s) := by
  unfold tokenEnds
  try dsimp only
  repeat' first
    | with_reducible assumption
    | intro _
    | with_reducible apply freshNonce_quiet
    | with_reducible apply setF_quiet
    | with_reducible apply Quiet.ite
    | with_reducible apply Quiet.foldl
    | split

theorem rtcTick_quiet {s : State} (hs : Quiet z s) : Quiet z (rtcTick s) := by
  unfold rtcTick
  try dsimp only
  repeat' first
    | with_reducible assumption
    | intro _
    | with_reducible apply setF_quiet
    | with_reducible apply Quiet.ite
    | with_reducible apply Quiet.foldl
    | split

theorem flashRefuse_quiet {s : State} (err : Nat) (hs : Quiet z s) : Quiet z (flashRefuse s err) := by
  unfold flashRefuse
  try dsimp only
  repeat' first
    | with_reducible assumption
    | intro _
    | with_reducible apply setF_quiet
    | with_reducible apply Quiet.ite
    | with_reducible apply Quiet.foldl
    | split

theorem clearFuncErr_quiet {s : State} (fn : Nat) (hs : Quiet z s) : Quiet z (clearFuncErr s fn) := by
  unfold clearFuncErr
  try dsimp only
  repeat' first
    | with_reducible assumption
    | intro _
    | with_reducible apply setF_quiet
    | with_reducible apply Quiet.ite
    | with_reducible apply Quiet.foldl
    | split

theorem zdone_quiet {s : State} (hs : Quiet z s) : Quiet z (zdone s) := by
  unfold zdone
  try dsimp only
  repeat' first
    | with_reducible assumption
    | intro _
    | with_reducible apply setF_quiet
    | with_reducible apply Quiet.ite
    | with_reducible apply Quiet.foldl
    | split

theorem testCtrl_quiet {s : State} (land : Bool) (w_ : Nat) (hs : Quiet z s) : Quiet z (testCtrl s land w_) := by
  unfold testCtrl
  try dsimp only
  repeat' first
    | with_reducible assumption
    | intro _
    | with_reducible apply setF_quiet
    | with_reducible apply Quiet.ite
    | with_reducible apply Quiet.foldl
    | split

theorem showHandles_quiet {s : State} (hs : Quiet z s) : Quiet z (showHandles s) := by
  unfold showHandles
  try dsimp only
  repeat' first
    | with_reducible assumption
    | intro _
    | with_reducible apply setF_quiet
    | with_reducible apply Quiet.ite
    | with_reducible apply Quiet.foldl
    | split

theorem tagRead_quiet {s : State} (b : Nat) (hs : Quiet z s) : QuietP z (tagRead s b) := by
  unfold tagRead
  try dsimp only
  repeat' first
    | with_reducible assumption
    | intro _
    | refine Quiet.eqP (by with_reducible assumption) ?_
    | with_reducible apply drawBytes_quiet
    | with_reducible apply Quiet.ite
    | with_reducible apply Quiet.foldl
    | with_reducible apply QuietP.ite
    | with_reducible apply QuietP.foldl
    | split
    | with_reducible apply Quiet.snd
    | with_reducible apply QuietP.pair

theorem tagMeasure_quiet {s : State} (w_ : TagWr) (hs : Quiet z s) : Quiet z (tagMeasure s w_) := by
  unfold tagMeasure
  try dsimp only
  repeat' first
    | with_reducible assumption
    | intro _
    | with_reducible apply setF_quiet
    | with_reducible apply Quiet.ite
    | with_reducible apply Quiet.foldl
    | split

theorem tagWeak_quiet {s : State} (hs : Quiet z s) : Quiet z (tagWeak s) := by
  unfold tagWeak
  try dsimp only
  repeat' first
    | with_reducible assumption
    | intro _
    | with_reducible apply bump_quiet
    | with_reducible apply Quiet.ite
    | with_reducible apply Quiet.foldl
    | split

theorem evLose_quiet {s : State} (hs : Quiet z s) : Quiet z (evLose s) := by
  unfold evLose
  try dsimp only
  repeat' first
    | with_reducible assumption
    | intro _
    | with_reducible apply evRefresh_quiet
    | with_reducible apply Quiet.ite
    | with_reducible apply Quiet.foldl
    | split
    | with_reducible apply Quiet.upd

theorem evScan_quiet {s : State} (hs : Quiet z s) : Quiet z (evScan s) := by
  unfold evScan
  try dsimp only
  repeat' first
    | with_reducible assumption
    | intro _
    | with_reducible apply evRefresh_quiet
    | with_reducible apply setF_quiet
    | with_reducible apply Quiet.ite
    | with_reducible apply Quiet.foldl
    | split

theorem restoreCount_quiet {s : State} (f : Field) (sat : Field) (v : Nat) (hs : Quiet z s) : Quiet z (restoreCount s f sat v) := by
  unfold restoreCount
  try dsimp only
  repeat' first
    | with_reducible assumption
    | intro _
    | with_reducible apply setB_quiet
    | with_reducible apply setF_quiet
    | with_reducible apply Quiet.ite
    | with_reducible apply Quiet.foldl
    | split

theorem restoreTimes_quiet {s : State} (hs : Quiet z s) : Quiet z (restoreTimes s) := by
  unfold restoreTimes
  try dsimp only
  repeat' first
    | with_reducible assumption
    | intro _
    | with_reducible apply restoreCount_quiet
    | with_reducible apply bump_quiet
    | with_reducible apply setF_quiet
    | with_reducible apply Quiet.ite
    | with_reducible apply Quiet.foldl
    | split
    | with_reducible apply Quiet.upd

theorem copyEntry_quiet {s : State} (e : CellEntry) (hs : Quiet z s) : Quiet z (copyEntry s e) := by
  unfold copyEntry
  try dsimp only
  repeat' first
    | with_reducible assumption
    | intro _
    | with_reducible apply occurAt_quiet
    | with_reducible apply Quiet.ite
    | with_reducible apply Quiet.foldl
    | split

theorem retireEvent_quiet {s : State} (cls : Nat) (unit : Nat) (idx : Nat) (hs : Quiet z s) : Quiet z (retireEvent s cls unit idx) := by
  unfold retireEvent
  try dsimp only
  repeat' first
    | with_reducible assumption
    | intro _
    | with_reducible apply occur_quiet
    | with_reducible apply Quiet.ite
    | with_reducible apply Quiet.foldl
    | split

theorem loadZrange_quiet {s : State} (k_ : Nat) (bank : Nat) (count : Nat) (hs : Quiet z s) : Quiet z (loadZrange s k_ bank count) := by
  unfold loadZrange
  try dsimp only
  repeat' first
    | with_reducible assumption
    | intro _
    | refine Quiet.eqP (by with_reducible assumption) ?_
    | with_reducible apply draw_quiet
    | with_reducible apply setF_quiet
    | with_reducible apply Quiet.ite
    | with_reducible apply Quiet.foldl
    | with_reducible apply QuietP.ite
    | with_reducible apply QuietP.foldl
    | split
    | with_reducible apply Quiet.snd
    | with_reducible apply QuietP.pair

theorem loadZranges_quiet {s : State} (hs : Quiet z s) : Quiet z (loadZranges s) := by
  unfold loadZranges
  try dsimp only
  repeat' first
    | with_reducible assumption
    | intro _
    | refine Quiet.eqP (by with_reducible assumption) ?_
    | with_reducible apply loadZrange_quiet
    | with_reducible apply draw_quiet
    | with_reducible apply setF_quiet
    | with_reducible apply Quiet.ite
    | with_reducible apply Quiet.foldl
    | with_reducible apply QuietP.ite
    | with_reducible apply QuietP.foldl
    | split
    | with_reducible apply Quiet.snd
    | with_reducible apply QuietP.pair

theorem applyGeckoFence_quiet {s : State} (b : Bytes) (hs : Quiet z s) : Quiet z (applyGeckoFence s b) := by
  unfold applyGeckoFence
  try dsimp only
  repeat' first
    | with_reducible assumption
    | intro _
    | with_reducible apply fillWords_quiet
    | with_reducible apply setF_quiet
    | with_reducible apply Quiet.ite
    | with_reducible apply Quiet.foldl
    | split

theorem applyGeckoArb_quiet {s : State} (b : Bytes) (hs : Quiet z s) : Quiet z (applyGeckoArb s b) := by
  unfold applyGeckoArb
  try dsimp only
  repeat' first
    | with_reducible assumption
    | intro _
    | with_reducible apply fillWords_quiet
    | with_reducible apply setF_quiet
    | with_reducible apply Quiet.ite
    | with_reducible apply Quiet.foldl
    | split

theorem sdState_quiet {s : State} (n : Nat) (hs : Quiet z s) : Quiet z (sdState s n) := by
  unfold sdState
  try dsimp only
  repeat' first
    | with_reducible assumption
    | intro _
    | with_reducible apply setF_quiet
    | with_reducible apply Quiet.ite
    | with_reducible apply Quiet.foldl
    | split

theorem sdUnpower_quiet {s : State} (hs : Quiet z s) : Quiet z (sdUnpower s) := by
  unfold sdUnpower
  try dsimp only
  repeat' first
    | with_reducible assumption
    | intro _
    | with_reducible apply setF_quiet
    | with_reducible apply Quiet.ite
    | with_reducible apply Quiet.foldl
    | split

theorem transcriptSig_quiet {s : State} (hs : Quiet z s) : QuietP z (transcriptSig s) := by
  unfold transcriptSig
  try dsimp only
  repeat' first
    | with_reducible assumption
    | intro _
    | refine Quiet.eqP (by with_reducible assumption) ?_
    | with_reducible apply drawBytes_quiet
    | with_reducible apply Quiet.ite
    | with_reducible apply Quiet.foldl
    | with_reducible apply QuietP.ite
    | with_reducible apply QuietP.foldl
    | split
    | with_reducible apply Quiet.snd
    | with_reducible apply QuietP.pair

theorem clearFlags_quiet {s : State} (blk : Nat) (off : Nat) (v : Nat) (hs : Quiet z s) : Quiet z (clearFlags s blk off v) := by
  unfold clearFlags
  try dsimp only
  repeat' first
    | with_reducible assumption
    | intro _
    | with_reducible apply writeField_quiet
    | with_reducible apply Quiet.ite
    | with_reducible apply Quiet.foldl
    | split

theorem deviceSign_quiet {s : State} (b : Bytes) (hs : Quiet z s) : QuietP z (deviceSign s b) := by
  unfold deviceSign
  try dsimp only
  repeat' first
    | with_reducible assumption
    | intro _
    | refine Quiet.eqP (by with_reducible assumption) ?_
    | with_reducible apply spkeSign_quiet
    | with_reducible apply drawBytes_quiet
    | with_reducible apply Quiet.ite
    | with_reducible apply Quiet.foldl
    | with_reducible apply QuietP.ite
    | with_reducible apply QuietP.foldl
    | split
    | with_reducible apply Quiet.snd
    | with_reducible apply QuietP.pair

theorem memberCert_quiet {s : State} (cid : Bytes) (mekPub : Bytes) (hs : Quiet z s) : QuietP z (memberCert s cid mekPub) := by
  unfold memberCert
  try dsimp only
  repeat' first
    | with_reducible assumption
    | intro _
    | refine Quiet.eqP (by with_reducible assumption) ?_
    | with_reducible apply deviceSign_quiet
    | with_reducible apply Quiet.ite
    | with_reducible apply Quiet.foldl
    | with_reducible apply QuietP.ite
    | with_reducible apply QuietP.foldl
    | split
    | with_reducible apply Quiet.snd
    | with_reducible apply QuietP.pair

theorem pinMek_quiet {s : State} (hs : Quiet z s) : Quiet z (pinMek s) := by
  unfold pinMek
  try dsimp only
  repeat' first
    | with_reducible assumption
    | intro _
    | with_reducible apply kcLoad_quiet
    | with_reducible apply Quiet.ite
    | with_reducible apply Quiet.foldl
    | split

theorem mekSign_quiet {s : State} (b : Bytes) (hs : Quiet z s) : QuietP z (mekSign s b) := by
  unfold mekSign
  try dsimp only
  repeat' first
    | with_reducible assumption
    | intro _
    | refine Quiet.eqP (by with_reducible assumption) ?_
    | with_reducible apply spkeSign_quiet
    | with_reducible apply kcUse_quiet
    | with_reducible apply drawBytes_quiet
    | with_reducible apply Quiet.ite
    | with_reducible apply Quiet.foldl
    | with_reducible apply QuietP.ite
    | with_reducible apply QuietP.foldl
    | split
    | with_reducible apply Quiet.snd
    | with_reducible apply QuietP.pair

theorem putRole_quiet {s : State} (d : Nat) (x : Domain) (hs : Quiet z s) : Quiet z (putRole s d x) := by
  unfold putRole
  try dsimp only
  repeat' first
    | with_reducible assumption
    | intro _
    | with_reducible apply logDmk_quiet
    | with_reducible apply setDomain_quiet
    | with_reducible apply Quiet.ite
    | with_reducible apply Quiet.foldl
    | split

theorem takeRole_quiet {s : State} (d : Nat) (x : Domain) (hs : Quiet z s) : Quiet z (takeRole s d x) := by
  unfold takeRole
  try dsimp only
  repeat' first
    | with_reducible assumption
    | intro _
    | with_reducible apply putRole_quiet
    | with_reducible apply updDomainKeys_quiet
    | with_reducible apply Quiet.ite
    | with_reducible apply Quiet.foldl
    | split

theorem raiseVersion_quiet {s : State} (d : Nat) (v : Nat × Nat) (primary : Nat) (last : Option Nat) (hs : Quiet z s) : Quiet z (raiseVersion s d v primary last) := by
  unfold raiseVersion
  try dsimp only
  repeat' first
    | with_reducible assumption
    | intro _
    | with_reducible apply takeRole_quiet
    | with_reducible apply Quiet.ite
    | with_reducible apply Quiet.foldl
    | split

theorem epochSat_quiet {s : State} (hs : Quiet z s) : Quiet z (epochSat s) := by
  unfold epochSat
  try dsimp only
  repeat' first
    | with_reducible assumption
    | intro _
    | with_reducible apply occur_quiet
    | with_reducible apply Quiet.ite
    | with_reducible apply Quiet.foldl
    | split

theorem sealBundle_quiet {s : State} (kind : Nat) (d : Nat) (rcpt : Nat) (pub : Bytes) (hs : Quiet z s) : QuietP z (sealBundle s kind d rcpt pub) := by
  unfold sealBundle
  try dsimp only
  repeat' first
    | with_reducible assumption
    | intro _
    | refine Quiet.eqP (by with_reducible assumption) ?_
    | with_reducible apply mekSign_quiet
    | with_reducible apply kcUse_quiet
    | with_reducible apply drawBytes_quiet
    | with_reducible apply Quiet.ite
    | with_reducible apply Quiet.foldl
    | with_reducible apply QuietP.ite
    | with_reducible apply QuietP.foldl
    | split
    | with_reducible apply Quiet.snd
    | with_reducible apply QuietP.pair

theorem clusterDomain_quiet {s : State} (d : Nat) (hs : Quiet z s) : Quiet z (clusterDomain s d) := by
  unfold clusterDomain
  try dsimp only
  repeat' first
    | with_reducible assumption
    | intro _
    | with_reducible apply putRole_quiet
    | with_reducible apply Quiet.ite
    | with_reducible apply Quiet.foldl
    | split

theorem effSealBundle_quiet {s : State} (d : Nat) (m : Bytes) (hs : Quiet z s) : QuietL z (effSealBundle s d m) := by
  unfold effSealBundle
  try dsimp only
  repeat' first
    | with_reducible assumption
    | intro _
    | refine Quiet.eqP (by with_reducible assumption) ?_
    | refine Quiet.eqL (by with_reducible assumption) ?_
    | with_reducible apply clusterDomain_quiet
    | with_reducible apply sealBundle_quiet
    | with_reducible apply Quiet.ite
    | with_reducible apply Quiet.foldl
    | with_reducible apply QuietP.ite
    | with_reducible apply QuietP.foldl
    | with_reducible apply QuietL.ite
    | split
    | with_reducible apply Quiet.snd
    | with_reducible apply QuietP.pair
    | with_reducible apply Quiet.fst
    | with_reducible apply QuietL.pair

theorem effHandover_quiet {s : State} (d : Nat) (m : Bytes) (hs : Quiet z s) : QuietL z (effHandover s d m) := by
  unfold effHandover
  try dsimp only
  repeat' first
    | with_reducible assumption
    | intro _
    | refine Quiet.eqP (by with_reducible assumption) ?_
    | refine Quiet.eqL (by with_reducible assumption) ?_
    | with_reducible apply sealBundle_quiet
    | with_reducible apply putRole_quiet
    | with_reducible apply Quiet.ite
    | with_reducible apply Quiet.foldl
    | with_reducible apply QuietP.ite
    | with_reducible apply QuietP.foldl
    | with_reducible apply QuietL.ite
    | split
    | with_reducible apply Quiet.snd
    | with_reducible apply QuietP.pair
    | with_reducible apply Quiet.fst
    | with_reducible apply QuietL.pair

theorem hbmLineWrite_quiet {s : State} (stack : Nat) (off : Nat) (n : Nat) (l : Nat) (hs : Quiet z s) : Quiet z (hbmLineWrite s stack off n l) := by
  unfold hbmLineWrite
  try dsimp only
  repeat' first
    | with_reducible assumption
    | intro _
    | with_reducible apply mcWritePart_quiet
    | with_reducible apply mcWrite_quiet
    | with_reducible apply Quiet.ite
    | with_reducible apply Quiet.foldl
    | split

theorem stopA_quiet {s : State} (x : DCore) (code : Nat) (orig : Nat) (hs : Quiet z s) : Quiet z (stopA s x code orig) := by
  unfold stopA
  try dsimp only
  repeat' first
    | with_reducible assumption
    | intro _
    | with_reducible apply setB_quiet
    | with_reducible apply setF_quiet
    | with_reducible apply Quiet.ite
    | with_reducible apply Quiet.foldl
    | split

theorem stopB_quiet {s : State} (x : DCore) (code : Nat) (orig : Nat) (hs : Quiet z s) : Quiet z (stopB s x code orig) := by
  unfold stopB
  try dsimp only
  repeat' first
    | with_reducible assumption
    | intro _
    | with_reducible apply setB_quiet
    | with_reducible apply setF_quiet
    | with_reducible apply Quiet.ite
    | with_reducible apply Quiet.foldl
    | split

theorem noteChain_quiet {s : State} (hs : Quiet z s) : Quiet z (noteChain s) := by
  unfold noteChain
  try dsimp only
  repeat' first
    | with_reducible assumption
    | intro _
    | with_reducible apply occur_quiet
    | with_reducible apply Quiet.ite
    | with_reducible apply Quiet.foldl
    | split

theorem applyAlloc_quiet {s : State} (x : Sections) (hs : Quiet z s) : Quiet z (applyAlloc s x) := by
  unfold applyAlloc
  try dsimp only
  repeat' first
    | with_reducible assumption
    | intro _
    | with_reducible apply applyAllocWord_quiet
    | with_reducible apply Quiet.ite
    | with_reducible apply Quiet.foldl
    | split

theorem applyStage_quiet {s : State} (b : Bytes) (hs : Quiet z s) : Quiet z (applyStage s b) := by
  unfold applyStage
  try dsimp only
  repeat' first
    | with_reducible assumption
    | intro _
    | with_reducible apply setF_quiet
    | with_reducible apply Quiet.ite
    | with_reducible apply Quiet.foldl
    | split

theorem applyPcie_quiet {s : State} (x : Sections) (hs : Quiet z s) : Quiet z (applyPcie s x) := by
  unfold applyPcie
  try dsimp only
  repeat' first
    | with_reducible assumption
    | intro _
    | with_reducible apply setF_quiet
    | with_reducible apply Quiet.ite
    | with_reducible apply Quiet.foldl
    | split

theorem seedLandau_quiet {s : State} (hs : Quiet z s) : Quiet z (seedLandau s) := by
  unfold seedLandau
  try dsimp only
  repeat' first
    | with_reducible assumption
    | intro _
    | with_reducible apply rekeyCluster_quiet
    | with_reducible apply instantiate_quiet
    | with_reducible apply setF_quiet
    | with_reducible apply Quiet.ite
    | with_reducible apply Quiet.foldl
    | split
    | with_reducible apply Quiet.upd

theorem trainStack_quiet (v : List RetireRec) {s : State} (k_ : Nat) (hs : Quiet z s) : Quiet z (trainStack v s k_) := by
  unfold trainStack
  try dsimp only
  repeat' first
    | with_reducible assumption
    | intro _
    | with_reducible apply updStack_quiet
    | with_reducible apply occur_quiet
    | with_reducible apply setB_quiet
    | with_reducible apply setF_quiet
    | with_reducible apply Quiet.ite
    | with_reducible apply Quiet.foldl
    | split

theorem loadDomain_quiet {s : State} (d : Nat) (hs : Quiet z s) : Quiet z (loadDomain s d) := by
  unfold loadDomain
  try dsimp only
  repeat' first
    | with_reducible assumption
    | intro _
    | with_reducible apply pinDomain_quiet
    | with_reducible apply Quiet.ite
    | with_reducible apply Quiet.foldl
    | split
    | with_reducible apply Quiet.upd

theorem publishPace_quiet {s : State} (d : Nat) (pace : Nat) (hs : Quiet z s) : Quiet z (publishPace s d pace) := by
  unfold publishPace
  try dsimp only
  repeat' first
    | with_reducible assumption
    | intro _
    | with_reducible apply setF_quiet
    | with_reducible apply Quiet.ite
    | with_reducible apply Quiet.foldl
    | split

theorem effStreamUse_quiet {s : State} (h_ : Nat) (v : Nat) (out : Outcome) (hs : Quiet z s) : QuietL z (effStreamUse s h_ v out) := by
  unfold effStreamUse
  try dsimp only
  repeat' first
    | with_reducible assumption
    | intro _
    | refine Quiet.eqL (by with_reducible assumption) ?_
    | with_reducible apply reserve_quiet
    | with_reducible apply updCounts_quiet
    | with_reducible apply Quiet.ite
    | with_reducible apply Quiet.foldl
    | with_reducible apply QuietL.ite
    | split
    | with_reducible apply Quiet.fst
    | with_reducible apply QuietL.pair

theorem effMeteredUse_quiet {s : State} (hs_ : List Nat) (out : Outcome) (hs : Quiet z s) : QuietL z (effMeteredUse s hs_ out) := by
  unfold effMeteredUse
  try dsimp only
  repeat' first
    | with_reducible assumption
    | intro _
    | refine Quiet.eqL (by with_reducible assumption) ?_
    | with_reducible apply reserve_quiet
    | with_reducible apply updCounts_quiet
    | with_reducible apply Quiet.ite
    | with_reducible apply Quiet.foldl
    | with_reducible apply QuietL.ite
    | split
    | with_reducible apply Quiet.fst
    | with_reducible apply QuietL.pair

end Sys2Proof.Machine
end

