-- ==== Sys2Proof/Laws/RegsOnly.lean ====
section
/-!
SUPPORT. Laws/RegsOnly.lean: operations that change registers only.
-/
namespace Sys2Proof.Machine

/-- `t` is `s` with other registers. -/
def RegsOnly (s t : State) : Prop := ∃ r, t = { s with regs := r }

theorem RegsOnly.refl (s : State) : RegsOnly s s := ⟨s.regs, rfl⟩
theorem RegsOnly.trans {s t u : State} (h : RegsOnly s t) (k : RegsOnly t u) : RegsOnly s u := by
  obtain ⟨r, rfl⟩ := h; obtain ⟨q, rfl⟩ := k; exact ⟨q, rfl⟩
theorem RegsOnly.setF {s t : State} (h : RegsOnly s t) (f : Field) (v : Nat) : RegsOnly s (Sys2Proof.Machine.setF t f v) :=
  h.trans ⟨_, rfl⟩
theorem RegsOnly.setB {s t : State} (h : RegsOnly s t) (f : Field) (v : Bool) : RegsOnly s (Sys2Proof.Machine.setB t f v) :=
  h.trans ⟨_, rfl⟩
theorem RegsOnly.resetRegs {s t : State} (h : RegsOnly s t) (p : Nat → Nat → Bool) : RegsOnly s (Sys2Proof.Machine.resetRegs t p) :=
  h.trans ⟨_, rfl⟩
theorem RegsOnly.ite {s t u : State} {c : Prop} [Decidable c] (h : RegsOnly s t) (k : RegsOnly s u) : RegsOnly s (if c then t else u) := by
  split <;> assumption
theorem RegsOnly.fold {α : Type} {s : State} {f : State → α → State} (hf : ∀ t a, RegsOnly t (f t a)) (l : List α) :
    ∀ {t : State}, RegsOnly s t → RegsOnly s (l.foldl f t) := by
  induction l with
  | nil => exact fun h => h
  | cons a l ih => exact fun h => ih (h.trans (hf _ a))
theorem RegsOnly.fill {s t : State} (h : RegsOnly s t) (f : Nat → Field) (n : Nat) (w : Nat → Nat) : RegsOnly s (fillWords t f n w) :=
  RegsOnly.fold (fun _ _ => ⟨_, rfl⟩) _ h
theorem RegsOnly.writeField {s t : State} (h : RegsOnly s t) (f : Field) (v : Nat) : RegsOnly s (Sys2Proof.Machine.writeField t f v) := by
  refine h.trans ?_
  unfold Sys2Proof.Machine.writeField
  split <;> exact ⟨_, rfl⟩
theorem RegsOnly.writeReg {s t : State} (h : RegsOnly s t) (b o v : Nat) : RegsOnly s (Sys2Proof.Machine.writeReg t b o v) :=
  RegsOnly.fold (fun _ f => RegsOnly.writeField (RegsOnly.refl _) f v) _ h

/-- The fuse load writes registers only. -/
theorem loadFuseRegs_regsOnly (s : State) : RegsOnly s (loadFuseRegs s) := by
  unfold loadFuseRegs loadDebugFuse
  dsimp only
  repeat' first
    | with_reducible apply RegsOnly.setF
    | with_reducible apply RegsOnly.setB
    | with_reducible apply RegsOnly.fill
  exact RegsOnly.refl s

/-- Programming one bit changes the array, the shadow and registers. -/
theorem burnBit_only (s : State) (t i : Nat) : ∃ r, burnBit s t i = { s with
    regs := r, fuse := { s.fuse with arr := burn s.fuse.arr t i, shadow := burn s.fuse.shadow t i } } := by
  obtain ⟨r, h⟩ := loadFuseRegs_regsOnly { s with fuse := { s.fuse with arr := burn s.fuse.arr t i, shadow := burn s.fuse.shadow t i } }
  exact ⟨r, h⟩

/-- A register that no word of an array is stays when the array is filled. -/
theorem getF_fillWords_ne (s : State) {f : Nat → Field} {g : Field} (n : Nat) (w : Nat → Nat) (h : ∀ i, (f i).key ≠ g.key) :
    getF (fillWords s f n w) g = getF s g := by
  unfold fillWords
  generalize List.range n = l
  induction l generalizing s with
  | nil => rfl
  | cons a l ih => rw [List.foldl_cons, ih, getF_setF_ne _ _ (h a)]

/-- A register reads the same in both states. -/
def SameF (g : Field) (s t : State) : Prop := getF t g = getF s g
theorem SameF.refl (g : Field) (s : State) : SameF g s s := rfl
theorem SameF.setF {g f : Field} {s t : State} (h : SameF g s t) (v : Nat) (n : f.key ≠ g.key) : SameF g s (Sys2Proof.Machine.setF t f v) :=
  (getF_setF_ne t v n).trans h
theorem SameF.setB {g f : Field} {s t : State} (h : SameF g s t) (b : Bool) (n : f.key ≠ g.key) : SameF g s (Sys2Proof.Machine.setB t f b) :=
  (getF_setB_ne t b n).trans h
theorem SameF.fill {g : Field} {s t : State} (h : SameF g s t) (f : Nat → Field) (n : Nat) (w : Nat → Nat) (k : ∀ i, (f i).key ≠ g.key) :
    SameF g s (fillWords t f n w) := (getF_fillWords_ne t n w k).trans h

/-- What the fuse load puts into SYSCTL_STATE. -/
theorem getF_loadFuseRegs_state (s : State) : getF (loadFuseRegs s) F.SYSCTL_STATE_LIFECYCLE = lifeState s.fuse.shadow.life := by
  let u := setF (setF (setB (setF s F.SYSCTL_ID_STEPPING s.fuse.shadow.stepping.toNat) F.SYSCTL_ID_PART s.fuse.shadow.part)
    F.SYSCTL_STATE_OWNER_PERIOD (ownerPeriod s.fuse.shadow.life)) F.SYSCTL_STATE_LIFECYCLE (lifeState s.fuse.shadow.life)
  have h : SameF F.SYSCTL_STATE_LIFECYCLE u (loadFuseRegs s) := by
    unfold loadFuseRegs loadDebugFuse
    dsimp only
    repeat' first
      | with_reducible exact SameF.refl _ _
      | with_reducible refine SameF.setF ?_ _ (by decide)
      | with_reducible refine SameF.setB ?_ _ (by decide)
      | with_reducible refine SameF.fill ?_ _ _ _ (by intro i; simp only [Field.key, Blk.SYSCTL, Blk.FUSE, Blk.TAMPER]; omega)
  rw [h, getF_setF_same, Nat.mod_eq_of_lt]
  unfold lifeState
  repeat' split
  all_goals decide
theorem getF_loadFuseRegs_period (s : State) : getF (loadFuseRegs s) F.SYSCTL_STATE_OWNER_PERIOD = ownerPeriod s.fuse.shadow.life := by
  let u := setF (setB (setF s F.SYSCTL_ID_STEPPING s.fuse.shadow.stepping.toNat) F.SYSCTL_ID_PART s.fuse.shadow.part)
    F.SYSCTL_STATE_OWNER_PERIOD (ownerPeriod s.fuse.shadow.life)
  have h : SameF F.SYSCTL_STATE_OWNER_PERIOD u (loadFuseRegs s) := by
    unfold loadFuseRegs loadDebugFuse
    dsimp only
    repeat' first
      | with_reducible exact SameF.refl _ _
      | with_reducible refine SameF.setF ?_ _ (by decide)
      | with_reducible refine SameF.setB ?_ _ (by decide)
      | with_reducible refine SameF.fill ?_ _ _ _ (by intro i; simp only [Field.key, Blk.SYSCTL, Blk.FUSE, Blk.TAMPER]; omega)
  rw [h, getF_setF_same, Nat.mod_eq_of_lt]
  unfold ownerPeriod
  repeat' split
  all_goals decide

end Sys2Proof.Machine
end

