-- ==== Sys2Proof/Laws/Resets.lean ====
section
/-!
SUPPORT. Laws/Resets.lean: what abandoning flash operations, ending generator instances and losing HBM leave alone.
-/
namespace Sys2Proof.Machine

/-- A fold whose steps keep a part of the state keeps it. -/
theorem foldl_keeps {α β : Type} (π : State → β) (f : State → α → State) (h : ∀ s a, π (f s a) = π s) (l : List α) (s : State) :
    π (l.foldl f s) = π s := by
  induction l generalizing s with
  | nil => rfl
  | cons a l ih => rw [List.foldl_cons, ih, h]

theorem geckoWrite_tamper (b : Bytes) : ∀ (s : State) (a : Nat), (geckoWrite s a b).tamper = s.tamper := by
  induction b with
  | nil => intro s a; rfl
  | cons c b ih => intro s a; rw [geckoWrite, ih]; rfl
theorem tearLine_tamper (s : State) (a : Nat) (b : Bytes) : (tearLine s a b).tamper = s.tamper := by
  unfold tearLine draw drawBytes programLine setLine
  simp only [apply_ite State.tamper, geckoWrite_tamper, ite_self]
theorem tearLines_tamper (n : Nat) : ∀ (s : State) (a : Nat) (b : Bytes), (tearLines s a b n).tamper = s.tamper := by
  induction n with
  | zero => intro s a b; rfl
  | succ n ih => intro s a b; rw [tearLines, ih, tearLine_tamper]
theorem abandonOp_tamper (s : State) (o : FlashOp) : (abandonOp s o).tamper = s.tamper := by
  unfold abandonOp; split
  · exact tearLines_tamper _ _ _ _
  all_goals rfl
@[simp] theorem abandonFlash_tamper (s : State) : (abandonFlash s).tamper = s.tamper :=
  foldl_keeps State.tamper abandonOp abandonOp_tamper _ _

theorem geckoWrite_fuse (b : Bytes) : ∀ (s : State) (a : Nat), (geckoWrite s a b).fuse = s.fuse := by
  induction b with
  | nil => intro s a; rfl
  | cons c b ih => intro s a; rw [geckoWrite, ih]; rfl
theorem tearLine_fuse (s : State) (a : Nat) (b : Bytes) : (tearLine s a b).fuse = s.fuse := by
  unfold tearLine draw drawBytes programLine setLine
  simp only [apply_ite State.fuse, geckoWrite_fuse, ite_self]
theorem tearLines_fuse (n : Nat) : ∀ (s : State) (a : Nat) (b : Bytes), (tearLines s a b n).fuse = s.fuse := by
  induction n with
  | zero => intro s a b; rfl
  | succ n ih => intro s a b; rw [tearLines, ih, tearLine_fuse]
theorem abandonOp_fuse (s : State) (o : FlashOp) : (abandonOp s o).fuse = s.fuse := by
  unfold abandonOp; split
  · exact tearLines_fuse _ _ _ _
  all_goals rfl
@[simp] theorem abandonFlash_fuse (s : State) : (abandonFlash s).fuse = s.fuse :=
  foldl_keeps State.fuse abandonOp abandonOp_fuse _ _

theorem geckoWrite_power (b : Bytes) : ∀ (s : State) (a : Nat), (geckoWrite s a b).power = s.power := by
  induction b with
  | nil => intro s a; rfl
  | cons c b ih => intro s a; rw [geckoWrite, ih]; rfl
theorem tearLine_power (s : State) (a : Nat) (b : Bytes) : (tearLine s a b).power = s.power := by
  unfold tearLine draw drawBytes programLine setLine
  simp only [apply_ite State.power, geckoWrite_power, ite_self]
theorem tearLines_power (n : Nat) : ∀ (s : State) (a : Nat) (b : Bytes), (tearLines s a b n).power = s.power := by
  induction n with
  | zero => intro s a b; rfl
  | succ n ih => intro s a b; rw [tearLines, ih, tearLine_power]
theorem abandonOp_power (s : State) (o : FlashOp) : (abandonOp s o).power = s.power := by
  unfold abandonOp; split
  · exact tearLines_power _ _ _ _
  all_goals rfl
@[simp] theorem abandonFlash_power (s : State) : (abandonFlash s).power = s.power :=
  foldl_keeps State.power abandonOp abandonOp_power _ _

theorem geckoWrite_regs (b : Bytes) : ∀ (s : State) (a : Nat), (geckoWrite s a b).regs = s.regs := by
  induction b with
  | nil => intro s a; rfl
  | cons c b ih => intro s a; rw [geckoWrite, ih]; rfl
theorem tearLine_regs (s : State) (a : Nat) (b : Bytes) : (tearLine s a b).regs = s.regs := by
  unfold tearLine draw drawBytes programLine setLine
  simp only [apply_ite State.regs, geckoWrite_regs, ite_self]
theorem tearLines_regs (n : Nat) : ∀ (s : State) (a : Nat) (b : Bytes), (tearLines s a b n).regs = s.regs := by
  induction n with
  | zero => intro s a b; rfl
  | succ n ih => intro s a b; rw [tearLines, ih, tearLine_regs]
theorem abandonOp_regs (s : State) (o : FlashOp) : (abandonOp s o).regs = s.regs := by
  unfold abandonOp; split
  · exact tearLines_regs _ _ _ _
  all_goals rfl
@[simp] theorem abandonFlash_regs (s : State) : (abandonFlash s).regs = s.regs :=
  foldl_keeps State.regs abandonOp abandonOp_regs _ _

theorem geckoWrite_cfg (b : Bytes) : ∀ (s : State) (a : Nat), (geckoWrite s a b).cfg = s.cfg := by
  induction b with
  | nil => intro s a; rfl
  | cons c b ih => intro s a; rw [geckoWrite, ih]; rfl
theorem tearLine_cfg (s : State) (a : Nat) (b : Bytes) : (tearLine s a b).cfg = s.cfg := by
  unfold tearLine draw drawBytes programLine setLine
  simp only [apply_ite State.cfg, geckoWrite_cfg, ite_self]
theorem tearLines_cfg (n : Nat) : ∀ (s : State) (a : Nat) (b : Bytes), (tearLines s a b n).cfg = s.cfg := by
  induction n with
  | zero => intro s a b; rfl
  | succ n ih => intro s a b; rw [tearLines, ih, tearLine_cfg]
theorem abandonOp_cfg (s : State) (o : FlashOp) : (abandonOp s o).cfg = s.cfg := by
  unfold abandonOp; split
  · exact tearLines_cfg _ _ _ _
  all_goals rfl
@[simp] theorem abandonFlash_cfg (s : State) : (abandonFlash s).cfg = s.cfg :=
  foldl_keeps State.cfg abandonOp abandonOp_cfg _ _

theorem geckoWrite_hf (b : Bytes) : ∀ (s : State) (a : Nat), (geckoWrite s a b).hf = s.hf := by
  induction b with
  | nil => intro s a; rfl
  | cons c b ih => intro s a; rw [geckoWrite, ih]; rfl
theorem tearLine_hf (s : State) (a : Nat) (b : Bytes) : (tearLine s a b).hf = s.hf := by
  unfold tearLine draw drawBytes programLine setLine
  simp only [apply_ite State.hf, geckoWrite_hf, ite_self]
theorem tearLines_hf (n : Nat) : ∀ (s : State) (a : Nat) (b : Bytes), (tearLines s a b n).hf = s.hf := by
  induction n with
  | zero => intro s a b; rfl
  | succ n ih => intro s a b; rw [tearLines, ih, tearLine_hf]
theorem abandonOp_hf (s : State) (o : FlashOp) : (abandonOp s o).hf = s.hf := by
  unfold abandonOp; split
  · exact tearLines_hf _ _ _ _
  all_goals rfl
@[simp] theorem abandonFlash_hf (s : State) : (abandonFlash s).hf = s.hf :=
  foldl_keeps State.hf abandonOp abandonOp_hf _ _

theorem geckoWrite_ev (b : Bytes) : ∀ (s : State) (a : Nat), (geckoWrite s a b).ev = s.ev := by
  induction b with
  | nil => intro s a; rfl
  | cons c b ih => intro s a; rw [geckoWrite, ih]; rfl
theorem tearLine_ev (s : State) (a : Nat) (b : Bytes) : (tearLine s a b).ev = s.ev := by
  unfold tearLine draw drawBytes programLine setLine
  simp only [apply_ite State.ev, geckoWrite_ev, ite_self]
theorem tearLines_ev (n : Nat) : ∀ (s : State) (a : Nat) (b : Bytes), (tearLines s a b n).ev = s.ev := by
  induction n with
  | zero => intro s a b; rfl
  | succ n ih => intro s a b; rw [tearLines, ih, tearLine_ev]
theorem abandonOp_ev (s : State) (o : FlashOp) : (abandonOp s o).ev = s.ev := by
  unfold abandonOp; split
  · exact tearLines_ev _ _ _ _
  all_goals rfl
@[simp] theorem abandonFlash_ev (s : State) : (abandonFlash s).ev = s.ev :=
  foldl_keeps State.ev abandonOp abandonOp_ev _ _

theorem geckoWrite_qm (b : Bytes) : ∀ (s : State) (a : Nat), (geckoWrite s a b).qm = s.qm := by
  induction b with
  | nil => intro s a; rfl
  | cons c b ih => intro s a; rw [geckoWrite, ih]; rfl
theorem tearLine_qm (s : State) (a : Nat) (b : Bytes) : (tearLine s a b).qm = s.qm := by
  unfold tearLine draw drawBytes programLine setLine
  simp only [apply_ite State.qm, geckoWrite_qm, ite_self]
theorem tearLines_qm (n : Nat) : ∀ (s : State) (a : Nat) (b : Bytes), (tearLines s a b n).qm = s.qm := by
  induction n with
  | zero => intro s a b; rfl
  | succ n ih => intro s a b; rw [tearLines, ih, tearLine_qm]
theorem abandonOp_qm (s : State) (o : FlashOp) : (abandonOp s o).qm = s.qm := by
  unfold abandonOp; split
  · exact tearLines_qm _ _ _ _
  all_goals rfl
@[simp] theorem abandonFlash_qm (s : State) : (abandonFlash s).qm = s.qm :=
  foldl_keeps State.qm abandonOp abandonOp_qm _ _

theorem geckoWrite_image (b : Bytes) : ∀ (s : State) (a : Nat), (geckoWrite s a b).image = s.image := by
  induction b with
  | nil => intro s a; rfl
  | cons c b ih => intro s a; rw [geckoWrite, ih]; rfl
theorem tearLine_image (s : State) (a : Nat) (b : Bytes) : (tearLine s a b).image = s.image := by
  unfold tearLine draw drawBytes programLine setLine
  simp only [apply_ite State.image, geckoWrite_image, ite_self]
theorem tearLines_image (n : Nat) : ∀ (s : State) (a : Nat) (b : Bytes), (tearLines s a b n).image = s.image := by
  induction n with
  | zero => intro s a b; rfl
  | succ n ih => intro s a b; rw [tearLines, ih, tearLine_image]
theorem abandonOp_image (s : State) (o : FlashOp) : (abandonOp s o).image = s.image := by
  unfold abandonOp; split
  · exact tearLines_image _ _ _ _
  all_goals rfl
@[simp] theorem abandonFlash_image (s : State) : (abandonFlash s).image = s.image :=
  foldl_keeps State.image abandonOp abandonOp_image _ _

theorem geckoWrite_ks (b : Bytes) : ∀ (s : State) (a : Nat), (geckoWrite s a b).ks = s.ks := by
  induction b with
  | nil => intro s a; rfl
  | cons c b ih => intro s a; rw [geckoWrite, ih]; rfl
theorem tearLine_ks (s : State) (a : Nat) (b : Bytes) : (tearLine s a b).ks = s.ks := by
  unfold tearLine draw drawBytes programLine setLine
  simp only [apply_ite State.ks, geckoWrite_ks, ite_self]
theorem tearLines_ks (n : Nat) : ∀ (s : State) (a : Nat) (b : Bytes), (tearLines s a b n).ks = s.ks := by
  induction n with
  | zero => intro s a b; rfl
  | succ n ih => intro s a b; rw [tearLines, ih, tearLine_ks]
theorem abandonOp_ks (s : State) (o : FlashOp) : (abandonOp s o).ks = s.ks := by
  unfold abandonOp; split
  · exact tearLines_ks _ _ _ _
  all_goals rfl
@[simp] theorem abandonFlash_ks (s : State) : (abandonFlash s).ks = s.ks :=
  foldl_keeps State.ks abandonOp abandonOp_ks _ _

theorem geckoWrite_pending (b : Bytes) : ∀ (s : State) (a : Nat), (geckoWrite s a b).pending = s.pending := by
  induction b with
  | nil => intro s a; rfl
  | cons c b ih => intro s a; rw [geckoWrite, ih]; rfl
theorem tearLine_pending (s : State) (a : Nat) (b : Bytes) : (tearLine s a b).pending = s.pending := by
  unfold tearLine draw drawBytes programLine setLine
  simp only [apply_ite State.pending, geckoWrite_pending, ite_self]
theorem tearLines_pending (n : Nat) : ∀ (s : State) (a : Nat) (b : Bytes), (tearLines s a b n).pending = s.pending := by
  induction n with
  | zero => intro s a b; rfl
  | succ n ih => intro s a b; rw [tearLines, ih, tearLine_pending]
theorem abandonOp_pending (s : State) (o : FlashOp) : (abandonOp s o).pending = s.pending := by
  unfold abandonOp; split
  · exact tearLines_pending _ _ _ _
  all_goals rfl
@[simp] theorem abandonFlash_pending (s : State) : (abandonFlash s).pending = s.pending :=
  foldl_keeps State.pending abandonOp abandonOp_pending _ _
@[simp] theorem endInsts_pending (s : State) (p : Nat → Bool) : (endInsts s p).pending = s.pending :=
  foldl_keeps State.pending _ (by intro s a; split <;> rfl) _ _
@[simp] theorem endInsts_power (s : State) (p : Nat → Bool) : (endInsts s p).power = s.power :=
  foldl_keeps State.power _ (by intro s a; split <;> rfl) _ _
@[simp] theorem endInsts_fuse (s : State) (p : Nat → Bool) : (endInsts s p).fuse = s.fuse :=
  foldl_keeps State.fuse _ (by intro s a; split <;> rfl) _ _
@[simp] theorem endInsts_boot (s : State) (p : Nat → Bool) : (endInsts s p).boot = s.boot :=
  foldl_keeps State.boot _ (by intro s a; split <;> rfl) _ _
@[simp] theorem endInsts_cfg (s : State) (p : Nat → Bool) : (endInsts s p).cfg = s.cfg :=
  foldl_keeps State.cfg _ (by intro s a; split <;> rfl) _ _
@[simp] theorem endInsts_image (s : State) (p : Nat → Bool) : (endInsts s p).image = s.image :=
  foldl_keeps State.image _ (by intro s a; split <;> rfl) _ _
@[simp] theorem endInsts_tamper (s : State) (p : Nat → Bool) : (endInsts s p).tamper = s.tamper :=
  foldl_keeps State.tamper _ (by intro s a; split <;> rfl) _ _
@[simp] theorem endInsts_ev (s : State) (p : Nat → Bool) : (endInsts s p).ev = s.ev :=
  foldl_keeps State.ev _ (by intro s a; split <;> rfl) _ _
@[simp] theorem endInsts_irqSrc (s : State) (p : Nat → Bool) : (endInsts s p).irqSrc = s.irqSrc :=
  foldl_keeps State.irqSrc _ (by intro s a; split <;> rfl) _ _
@[simp] theorem endInsts_quorum (s : State) (p : Nat → Bool) : (endInsts s p).quorum = s.quorum :=
  foldl_keeps State.quorum _ (by intro s a; split <;> rfl) _ _
@[simp] theorem endInsts_sciph (s : State) (p : Nat → Bool) : (endInsts s p).sciph = s.sciph :=
  foldl_keeps State.sciph _ (by intro s a; split <;> rfl) _ _
@[simp] theorem endInsts_spke (s : State) (p : Nat → Bool) : (endInsts s p).spke = s.spke :=
  foldl_keeps State.spke _ (by intro s a; split <;> rfl) _ _
@[simp] theorem endInsts_hf (s : State) (p : Nat → Bool) : (endInsts s p).hf = s.hf :=
  foldl_keeps State.hf _ (by intro s a; split <;> rfl) _ _
@[simp] theorem endInsts_led (s : State) (p : Nat → Bool) : (endInsts s p).led = s.led :=
  foldl_keeps State.led _ (by intro s a; split <;> rfl) _ _
@[simp] theorem endInsts_spdm (s : State) (p : Nat → Bool) : (endInsts s p).spdm = s.spdm :=
  foldl_keeps State.spdm _ (by intro s a; split <;> rfl) _ _
@[simp] theorem endInsts_flash (s : State) (p : Nat → Bool) : (endInsts s p).flash = s.flash :=
  foldl_keeps State.flash _ (by intro s a; split <;> rfl) _ _
@[simp] theorem endInsts_card0 (s : State) (p : Nat → Bool) : (endInsts s p).card0 = s.card0 :=
  foldl_keeps State.card0 _ (by intro s a; split <;> rfl) _ _
@[simp] theorem endInsts_card1 (s : State) (p : Nat → Bool) : (endInsts s p).card1 = s.card1 :=
  foldl_keeps State.card1 _ (by intro s a; split <;> rfl) _ _
@[simp] theorem endInsts_sdh (s : State) (p : Nat → Bool) : (endInsts s p).sdh = s.sdh :=
  foldl_keeps State.sdh _ (by intro s a; split <;> rfl) _ _
@[simp] theorem endInsts_tag (s : State) (p : Nat → Bool) : (endInsts s p).tag = s.tag :=
  foldl_keeps State.tag _ (by intro s a; split <;> rfl) _ _
@[simp] theorem endInsts_cluster (s : State) (p : Nat → Bool) : (endInsts s p).cluster = s.cluster :=
  foldl_keeps State.cluster _ (by intro s a; split <;> rfl) _ _
@[simp] theorem endInsts_warden (s : State) (p : Nat → Bool) : (endInsts s p).warden = s.warden :=
  foldl_keeps State.warden _ (by intro s a; split <;> rfl) _ _
@[simp] theorem endInsts_test (s : State) (p : Nat → Bool) : (endInsts s p).test = s.test :=
  foldl_keeps State.test _ (by intro s a; split <;> rfl) _ _
@[simp] theorem endInsts_sb (s : State) (p : Nat → Bool) : (endInsts s p).sb = s.sb :=
  foldl_keeps State.sb _ (by intro s a; split <;> rfl) _ _
@[simp] theorem endInsts_dbg (s : State) (p : Nat → Bool) : (endInsts s p).dbg = s.dbg :=
  foldl_keeps State.dbg _ (by intro s a; split <;> rfl) _ _

/-- What an interrupted programming of a fuse bit leaves: that bit at most. -/
theorem cutProg_only (s : State) : ∃ c a, cutProg s = { s with freeCtr := c, fuse := { s.fuse with prog := none, arr := a } }
    ∧ (a = s.fuse.arr ∨ ∃ g i, s.fuse.prog = some (g, i) ∧ a = burn s.fuse.arr g i) := by
  unfold cutProg
  split
  · rename_i h
    exact ⟨s.freeCtr, s.fuse.arr, by rw [← h], .inl rfl⟩
  · rename_i g i h
    dsimp only
    refine ⟨_, _, rfl, ?_⟩
    split
    · exact .inr ⟨g, i, h, rfl⟩
    · exact .inl rfl

end Sys2Proof.Machine
end

