-- ==== Sys2Proof/Laws/Route.lean ====
section
/-!
SUPPORT. Laws/Route.lean: what the start of an opcode's route leaves: the tag STARTED with its outcome and effect staged, every other tag and
everything that is not quiet as before.
-/
namespace Sys2Proof.Machine

variable {s u : State} {t x : TagEntry} {r : Run} {op cls rcls : Nat}

theorem findTag_updTag (s : State) (k j : Nat) (f : TagEntry → TagEntry) (hf : ∀ x, (f x).tag = x.tag) :
    findTag (updTag s k f) j = (findTag s j).map (fun x => if x.tag = k then f x else x) := by
  unfold findTag updTag
  dsimp only
  induction s.qm.tags with
  | nil => rfl
  | cons a l ih =>
    rw [List.map_cons, List.find?_cons, List.find?_cons]
    have : ∀ y : TagEntry, (if y.tag = k then f y else y).tag = y.tag := by intro y; split <;> simp [hf]
    rw [this]
    by_cases h : a.tag = j
    · simp [h]
    · simp only [h, decide_false]
      exact ih

theorem findTag_tag {k : Nat} (h : findTag s k = some t) : t.tag = k := by
  have := List.find?_some h
  simpa using this

/-- A ready tag is in the tag table, waits, and has the opcode. -/
theorem readyTag_some (h : readyTag s r op = some t) :
    findTag s r.tag = some t ∧ t.tag = r.tag ∧ t.commit = .waiting ∧ seOpcode t.entry = op := by
  unfold readyTag at h
  rw [Option.filter_eq_some_iff] at h
  obtain ⟨h1, h2⟩ := h
  simp only [Bool.and_eq_true, decide_eq_true_eq] at h2
  exact ⟨h1, findTag_tag h1, h2.1.1.1.1.1, h2.1.1.2⟩

/-- What `startTag` leaves. -/
theorem startTag_find (s : State) (t : TagEntry) (p : RouteAt) (o : Outcome) (e : Effect) (hf : findTag s t.tag = some x) :
    findTag (startTag s t p o e) t.tag
      = some { x with commit := .started, route := some p, staged := some (o, e), refs := heldBy t } := by
  unfold startTag
  rw [findTag_updTag (hf := by intro _; rfl), hf]
  simp [findTag_tag hf]

theorem startTag_other (s : State) (t : TagEntry) (p : RouteAt) (o : Outcome) (e : Effect) {k : Nat} (hk : k ≠ t.tag) :
    findTag (startTag s t p o e) k = findTag s k := by
  unfold startTag
  rw [findTag_updTag (hf := by intro _; rfl)]
  cases h : findTag s k with
  | none => rfl
  | some y => simp [findTag_tag h, hk]

/-- The state differs from `s` quietly, and in the tag `k` at most. -/
structure TagOnly (s u : State) (k : Nat) : Prop where
  quiet : Quiet s { u with qm := s.qm }
  queues : u.qm = { s.qm with tags := u.qm.tags }
  others : ∀ j, j ≠ k → findTag u j = findTag s j

theorem TagOnly.start (h : Quiet s u) (p : RouteAt) (o : Outcome) (e : Effect) : TagOnly s (startTag u t p o e) t.tag := by
  refine ⟨?_, ?_, ?_⟩
  · obtain ⟨⟩ := h
    constructor <;> first | assumption | rfl
  · have := h.qm
    unfold startTag updTag
    dsimp only
    rw [this]
  · intro j hj
    rw [startTag_other _ _ _ _ _ hj]
    unfold findTag
    rw [h.qm]

/-- The whole of what a quiet step leaves. -/
theorem Quiet.eq {v : State} (h : Quiet s v) : v = { s with
    freeCtr := v.freeCtr, regs := v.regs, ks := v.ks, hbm := v.hbm, ev := v.ev, rng := v.rng,
    pke := { s.pke with tiles := v.pke.tiles }, mem := { s.mem with hbm := v.mem.hbm } } := by
  obtain ⟨⟩ := h
  have hm : v.mem = { s.mem with hbm := v.mem.hbm } := by
    cases hv : v.mem with | mk a b c d => simp_all
  have hp : v.pke = { s.pke with tiles := v.pke.tiles } := by
    show v.pke = PkeState.mk v.pke.tiles s.pke.combs
    rw [← ‹v.pke.combs = s.pke.combs›]
  generalize v.pke.tiles = k at *
  generalize v.mem.hbm = m at *
  cases v
  cases s
  dsimp only at *
  subst_vars
  rfl

/-- The whole of what such a step leaves. -/
theorem TagOnly.eq {k : Nat} (h : TagOnly s u k) : u = { s with
    freeCtr := u.freeCtr, regs := u.regs, ks := u.ks, hbm := u.hbm, ev := u.ev, rng := u.rng,
    pke := { s.pke with tiles := u.pke.tiles }, mem := { s.mem with hbm := u.mem.hbm }, qm := { s.qm with tags := u.qm.tags } } := by
  have h' := congrArg (fun v : State => { v with qm := { s.qm with tags := u.qm.tags } }) h.quiet.eq
  dsimp only at h'
  refine Eq.trans ?_ h'
  rw [← h.queues]

/-- A command whose parts can take it has started, with what `f` answers staged. -/
theorem startIn_starts {w : Nat} {also : Option (Nat × Nat)} {f : State → (Outcome × Effect) × State} (hf : findTag s t.tag = some t)
    (hc : canStartIn s t w cls r rcls also = true) (hq : QuietP s (f (countSusp s cls r))) :
    (∃ p, findTag (startIn s t r w cls rcls also f) t.tag
      = some { t with commit := .started, route := some p, staged := some (f (countSusp s cls r)).1, refs := heldBy t })
    ∧ TagOnly s (startIn s t r w cls rcls also f) t.tag := by
  unfold startIn
  rw [if_pos hc]
  have h2 := pickVariant_quiet t rcls hq.out
  dsimp only
  refine ⟨⟨_, startTag_find _ _ _ _ _ ?_⟩, TagOnly.start h2.out _ _ _⟩
  unfold findTag
  rw [h2.out.qm]
  exact hf

/-- The same on one part in the world of the command's domain. -/
theorem startOn_starts {f : State → (Outcome × Effect) × State} (hf : findTag s t.tag = some t) (hc : canStart s t cls r rcls = true)
    (hq : QuietP s (f (countSusp s cls r))) :
    (∃ p, findTag (startOn s t r cls rcls f) t.tag
      = some { t with commit := .started, route := some p, staged := some (f (countSusp s cls r)).1, refs := heldBy t })
    ∧ TagOnly s (startOn s t r cls rcls f) t.tag := startIn_starts hf hc hq

/-- An opcode whose checks pass goes on. -/
theorem checked_go {checks : TagEntry → List (Option Outcome)} {go : TagEntry → State} (h : readyTag s r op = some t)
    (hr : roleShuts s op (seDomain t.entry) = false) (hc : firstSome (overLong t.entry :: checks t) = none) :
    checked s r op checks go = .next (go t) := by
  unfold checked opcodeRow
  rw [h]
  simp [hr, chk, firstSome, hc]

theorem whenRoom_go {n : Nat} {g : State} (h2 : (domKey s 2 (seDomain t.entry)).isSome = true) (h3 : (domKey s 3 (seDomain t.entry)).isSome = true)
    (hj : journalRoom s (tagWorld s t) n = true) : whenRoom s t n g = g := by
  simp [whenRoom, whenKeys, h2, h3, hj]
theorem whenKeys_go {g : State} (h2 : (domKey s 2 (seDomain t.entry)).isSome = true) (h3 : (domKey s 3 (seDomain t.entry)).isSome = true) :
    whenKeys s t g = g := by
  simp [whenKeys, h2, h3]

theorem TagOnly.update {k : Nat} {f : TagEntry → TagEntry} (h : TagOnly s u k) (hf : ∀ x, (f x).tag = x.tag) : TagOnly s (updTag u k f) k := by
  refine ⟨?_, ?_, ?_⟩
  · obtain ⟨⟩ := h.quiet
    constructor <;> first | assumption | rfl
  · have := h.queues
    unfold updTag
    dsimp only
    rw [this]
  · intro j hj
    rw [findTag_updTag (hf := hf), ← h.others j hj]
    cases hh : findTag u j with
    | none => rfl
    | some y => simp [findTag_tag hh, hj]

/-- A public-key command that can start, with its comb table free and its SRAM free of errors, has started. -/
theorem startPke_starts {comb : Bool} {also : Option (Nat × Nat)} {f : State → (Outcome × Effect) × State} (hf : findTag s t.tag = some t)
    (hc : canStartIn s t (tagWorld s t) 1 r rcls also = true) (hcomb : comb = true → combFree s r.unit = true) 
    (h0 : comb = true → r.sramCorr = 0) (h1 : comb = true → r.sramUncorr = false) (hq : QuietP s (f (countSusp s 1 r))) :
    (∃ p, findTag (startPke s t r rcls comb also f) t.tag
      = some { t with commit := .started, route := some p, staged := some (f (countSusp s 1 r)).1, refs := heldBy t })
    ∧ TagOnly s (startPke s t r rcls comb also f) t.tag := by
  obtain ⟨⟨p, hp⟩, ho⟩ := startIn_starts hf hc hq
  have hs : sramEvents (startIn s t r (tagWorld s t) 1 rcls also f) r comb = startIn s t r (tagWorld s t) 1 rcls also f := by
    unfold sramEvents
    split
    · rename_i hc
      dsimp only
      rw [h1 hc]
      unfold sramCorrected
      rw [h0 hc]
      rfl
    · rfl
  have ha : (startIn s t r (tagWorld s t) 1 rcls also f).qm.tags.any
      (fun x => decide (x.tag = t.tag) && decide (x.commit = .started)) = true := by
    rw [List.any_eq_true]
    exact ⟨_, List.mem_of_find?_eq_some hp, by simp⟩
  unfold startPke
  have hg : ¬ ((comb && !combFree s r.unit) = true) := by
    cases comb
    · simp
    · simp [hcomb rfl]
  rw [if_neg hg]
  dsimp only
  rw [ha, hs, if_pos rfl]
  refine ⟨⟨{ p with comb := comb, forced := false }, ?_⟩, TagOnly.update ho (by intro x; rfl)⟩
  rw [findTag_updTag (hf := by intro x; rfl), hp]
  cases comb
  · simp
  · simp [h1 rfl]

/-! ## Reads of protected memory and uses of keys that succeed -/

/-- A protected read of a line that verifies only caches nodes of its tree. -/
theorem mcReadLine_only {k n : Nat} {l : List MemFail} (h : (mcReadLine s k n l).1 = true) : ∃ b, (mcReadLine s k n l).2 = { s with hbm := b } := by
  unfold mcReadLine at *
  split at h
  · simp at h
  · rename_i h1
    rw [if_neg h1]
    split at h
    · simp at h
    · rename_i h2
      rw [if_neg h2]
      split at h
      · simp at h
      · exact ⟨_, rfl⟩
/-- Whether every line read so far verified only falls. -/
theorem mcReadFold_first (k : Nat) (l : List MemFail) (lines : List Nat) (a : Bool × State)
    (h : (lines.foldl (fun a n => let r := mcReadLine a.2 k n l; (a.1 && r.1, r.2)) a).1 = true) : a.1 = true := by
  induction lines generalizing a with
  | nil => exact h
  | cons n t ih => exact (Bool.and_eq_true _ _ ▸ ih _ h).1
theorem mcRead_only {k : Nat} {lines : List Nat} {l : List MemFail} (h : (mcRead s k lines l).1 = true) :
    ∃ b, (mcRead s k lines l).2 = { s with hbm := b } := by
  unfold mcRead at *
  suffices H : ∀ a : Bool × State, (∃ b, a.2 = { s with hbm := b }) →
      (lines.foldl (fun a n => let r := mcReadLine a.2 k n l; (a.1 && r.1, r.2)) a).1 = true →
      ∃ b, (lines.foldl (fun a n => let r := mcReadLine a.2 k n l; (a.1 && r.1, r.2)) a).2 = { s with hbm := b } from H (true, s) ⟨s.hbm, rfl⟩ h
  clear h
  induction lines with
  | nil => intro a ha _; exact ha
  | cons n t ih =>
    intro a ha h
    rw [List.foldl_cons] at h ⊢
    have h1 := mcReadFold_first _ _ _ _ h
    dsimp only at h1
    refine ih _ ?_ h
    obtain ⟨b, hb⟩ := ha
    obtain ⟨c, hc⟩ := mcReadLine_only (s := a.2) (by simp only [Bool.and_eq_true] at h1; exact h1.2)
    exact ⟨c, by dsimp only; rw [hc, hb]⟩
theorem readRecord_only {h : Nat} {l : List MemFail} (h1 : (readRecord s h l).1 = true) : ∃ b, (readRecord s h l).2 = { s with hbm := b } :=
  mcRead_only h1
/-- Reads of all the records of objects, and of the journal, that verify. -/
theorem readAll_only {l : List MemFail} {os : List KeyObj} (h : (readAll s l os).1 = true) : ∃ b, (readAll s l os).2 = { s with hbm := b } := by
  induction os generalizing s with
  | nil => exact ⟨s.hbm, rfl⟩
  | cons o t ih =>
    simp only [readAll, Bool.and_eq_true] at h ⊢
    obtain ⟨b, hb⟩ := readRecord_only h.1
    obtain ⟨c, hc⟩ := ih h.2
    exact ⟨c, by rw [hc, hb]⟩
theorem journalReads_only {l : List MemFail} {rs : List JRec} (h : (journalReads s l rs).1 = true) :
    ∃ b, (journalReads s l rs).2 = { s with hbm := b } := by
  induction rs generalizing s with
  | nil => exact ⟨s.hbm, rfl⟩
  | cons o t ih =>
    simp only [journalReads, Bool.and_eq_true] at h ⊢
    obtain ⟨b, hb⟩ := mcRead_only h.1
    obtain ⟨c, hc⟩ := ih h.2
    exact ⟨c, by rw [hc, hb]⟩
theorem mcRead_quiet {z : State} {k : Nat} {lines : List Nat} {l : List MemFail} (hs : Quiet z s) (h : (mcRead s k lines l).1 = true) :
    Quiet z (mcRead s k lines l).2 := by
  obtain ⟨b, hb⟩ := mcRead_only h
  rw [hb]; exact hs.updHbm b
theorem readRecord_quiet {z : State} {h : Nat} {l : List MemFail} (hs : Quiet z s) (h1 : (readRecord s h l).1 = true) :
    Quiet z (readRecord s h l).2 := mcRead_quiet hs h1

/-- A use of a key that yields it is quiet. -/
theorem useKey_quiet {z : State} {h : Nat} {l : List MemFail} (hs : Quiet z s) (h1 : (useKey s h l).1.isSome = true) : Quiet z (useKey s h l).2 := by
  unfold useKey at *
  split at h1
  · exact kcTouch_quiet _ (bump_quiet _ _ hs)
  · dsimp only at *
    split at h1
    · split at h1
      · rename_i h2
        have h4 := readRecord_quiet (z := z) (bump_quiet _ _ hs) h2
        rw [if_pos h2]
        dsimp only
        exact kcUse_quiet 0 h (kcLoad_quiet _ _ _ _ _ _ h4)
      · simp at h1
    · simp at h1
theorem useKeys_cons (s : State) (l : List MemFail) (h : Nat) (t : List Nat) : useKeys s l (h :: t)
    = ((match (useKey s h l).1, (useKeys (useKey s h l).2 l t).1 with
        | some k, some ks => some (k :: ks)
        | _, _ => none), (useKeys (useKey s h l).2 l t).2) := rfl
theorem useKeys_quiet {z : State} {hs : List Nat} {l : List MemFail} (hz : Quiet z s) (h1 : (useKeys s l hs).1.isSome = true) :
    Quiet z (useKeys s l hs).2 := by
  induction hs generalizing s with
  | nil => exact hz
  | cons h t ih =>
    rw [useKeys_cons] at h1 ⊢
    dsimp only at *
    cases hk : (useKey s h l).1 with
    | none => rw [hk] at h1; simp at h1
    | some k =>
      cases hk2 : (useKeys (useKey s h l).2 l t).1 with
      | none => rw [hk, hk2] at h1; simp at h1
      | some ks => exact ih (useKey_quiet hz (by rw [hk]; rfl)) (by rw [hk2]; rfl)

@[simp] theorem countSusp_ks (s : State) (cls : Nat) (r : Run) : (countSusp s cls r).ks = s.ks := by
  unfold countSusp; split <;> simp
theorem liveObj_ks {s u : State} (h : u.ks = s.ks) (k : Nat) : liveObj u k = liveObj s k := by
  unfold liveObj storedObj slotOf kcFind; rw [h]
theorem storedObj_ks {s u : State} (h : u.ks = s.ks) (k : Nat) : storedObj u k = storedObj s k := by
  unfold storedObj slotOf; rw [h]
theorem domKey_ks {s u : State} (h : u.ks = s.ks) (a b : Nat) : domKey u a b = domKey s a b := by
  unfold domKey kcFind; rw [h]

end Sys2Proof.Machine
end

