-- ==== Sys2Proof/Laws/Step.lean ====
section
/-!
SUPPORT. Laws/Step.lean: a step on an empty queue, and on a queue with a command at its front.
-/
namespace Sys2Proof.Machine

theorem step_nil (s : State) (h : s.pending = []) : step s = .next s := by
  unfold step; rw [h]

theorem step_cons (s : State) {c : Instr} {l : List Instr} (h : s.pending = c :: l) : step s = exec c { s with pending := l } := by
  unfold step; rw [h]

end Sys2Proof.Machine
end

