-- ==== Sys2Proof/Machine/HostRead.lean ====
section
/-!
DEFINITION. HostRead.lean: what the host reads of a function: its configuration header (R100) and its BAR0 (R41, R106).
-/
namespace Sys2Proof.Machine

/-- Identity of a function in configuration space: vendor, device, revision, class code, subsystem vendor and subsystem (R100). -/
structure ConfigId where
  vendor : Nat
  device : Nat
  revision : Nat
  classCode : Nat
  subVendor : Nat
  subsystem : Nat
  deriving DecidableEq, Repr

/-- The identity of function fn: the PF's device differs from the VFs'. -/
def configId (s : State) (fn : Nat) : ConfigId :=
  { vendor := 0x1FA7, device := if fn = 0 then 0x9400 else 0x9401, revision := getF s F.SYSCTL_ID_STEPPING, classCode := 0x108000,
    subVendor := getF s F.PCIEC_SUBSYS_SVID, subsystem := getF s F.PCIEC_SUBSYS_SSID }

/-- The largest payload and read request of the endpoint, in bytes, and the non-posted requests it has outstanding at most (R100). -/
def maxPayload : Nat := 512
def maxReadRequest : Nat := 4096
def maxNonPosted : Nat := 768

/-- A word of the MSI-X table of a function, as written or reset; vectors the image does not give read 0. -/
def msixWord (s : State) (fn i : Nat) : Nat :=
  if getF s (F.DEVINFO_VECTORS_VECTORS fn) ≤ i / 4 then 0 else mapGet s.qm.msix (fn * 8192 + i) (msixReset i)

/-- A word of the pending bit array of a function (R106, R117). -/
def pbaWord (s : State) (fn i : Nat) : Nat :=
  ((List.range 32).filter (fun b => s.qm.pba.contains (fn, 32 * i + b))).foldl (fun a b => a + 2 ^ b) 0

/-- A 4-byte word of BAR0; unassigned offsets and doorbells read 0. -/
def bar0Word (s : State) (fn off : Nat) : Nat :=
  if 0x100000 ≤ off ∧ off < 0x108000 then msixWord s fn ((off - 0x100000) / 4)
  else if 0x108000 ≤ off ∧ off < 0x109000 then pbaWord s fn ((off - 0x108000) / 4)
  else if off % 8 = 4 then
    (if (fieldsAt (Blk.BAR0 + fn) (off - 4)).any (fun f => 32 ≤ f.hi) then readReg s (Blk.BAR0 + fn) (off - 4) / 2 ^ 32
     else readReg s (Blk.BAR0 + fn) off % 2 ^ 32)
  else readReg s (Blk.BAR0 + fn) off % 2 ^ 32

/-- What a memory read of BAR0 completes with: the data, or Unsupported Request (none) for one that is not 4 or 8 bytes, aligned (R106). -/
def hostRead (s : State) (fn off n : Nat) : Option Nat :=
  if n = 4 ∧ off % 4 = 0 then some (bar0Word s fn off)
  else if n = 8 ∧ off % 8 = 0 then some (bar0Word s fn off + bar0Word s fn (off + 4) * 2 ^ 32)
  else none

end Sys2Proof.Machine
end

