-- ==== Sys2Proof/Tests/Slice0.lean ====
section
/-!
SUPPORT. Tests/Slice0.lean: the model's own tests. `test_wf_*`: terms that WellFormed refuses, one for each kind of check. `test_step_*`: one step,
with the result the cited rule gives. `test_wit_<statement>`: states and operands that meet the hypotheses of a statement's clauses.
-/
namespace Sys2Proof.Tests
open Sys2Proof Sys2Proof.Machine

/-! ## States -/

/-- Gecko powered, bring-up over, every domain on. -/
def geckoOn : State :=
  let s := { State.reset with power := { State.reset.power with vbat := true, main := true, mainGood := true, phase := .hostDone, hold := false } }
  setF (setF (setF s (F.PWRARB_DOMSTATE_ON 0) 0xFFFFFFFF) (F.PWRARB_DOMSTATE_ON 1) 0xFFFFFFFF) (F.PWRARB_DOMSTATE_ON 2) 0xFFFFFFFF

/-- Landau built besides: one cluster of each kind with its tiles active, the dispatch cores of group 0, the generators in service. -/
def landauOn : State :=
  let s := setF (setF (setF (setF geckoOn F.STRUCT_STATUS_STATE 3) (F.STRUCT_PKEMAP_ACTIVE 0) 0x1FF) (F.STRUCT_CIPMAP_ACTIVE 0) 0x1FF)
    (F.STRUCT_DISPMAP_ACTIVE 0) 0x1F
  let x : RngInst := { key := zeros 32, v := 0, reqs := 0, since := 0 }
  { s with drawbar := { s.drawbar with up := true }, rng := { s.rng with insts := [(0, x), (16, x), (24, x), (28, x)] } }

/-- The host link up and the Open world released. -/
def hostOn : State :=
  let s := setF landauOn F.SYSCTL_RELEASE_OPEN 1
  { s with power := { s.power with dataLink := true, phy := true, perst := true } }

/-- Sealed firmware at step 8 of the bring-up, with a sideband mode settled. -/
def busOn : State := { hostOn with sb := { hostOn.sb with settled := 1 } }

/-- An entry of 128 bytes: opcode, length of output, the first three operand bytes; the rest zero. -/
def entryOf (op outLen : Nat) (o : Bytes) : Bytes := leBytes op 1 ++ zeros 0x33 ++ leBytes outLen 4 ++ zeros 8 ++ o ++ zeros (0x40 - o.length)

/-- The tag of a command that waits at dispatch core 0. -/
def tagOf (e : Bytes) : TagEntry :=
  { tag := 1, fn := 0, qid := 1, entry := e, order := 0, sqHead := 0, commit := .waiting, handed := true, core := 0, dupWait := false,
    rerun := false, refs := [], route := none, staged := none, done := none, drop := false }

/-- The same of an admin command. -/
def adminOf (e : Bytes) : TagEntry := { tagOf e with qid := 0 }

/-- Landau with one tag. -/
def withTag (t : TagEntry) : State := { landauOn with qm := { landauOn.qm with tags := [t] } }

/-- A run of tag 1 on tile 0 of cluster 0 in which nothing fails. -/
def run1 (input : Option Bytes) : Run :=
  { tag := 1, input := input, unit := 0, tile := 0, slot := 0, unit2 := 0, tile2 := 1, check := false, sramCorr := 0, sramUncorr := false, fails := [] }

/-- A tag whose route runs on tile 0 of cluster 0 of a class. -/
def runningOf (cls : Nat) : TagEntry :=
  { tagOf (entryOf 0x54 32 []) with
    commit := .started
    route := some { cls := cls, unit := 0, tile := 0, slot := 0, variant := 0, mode := 0, long := false, comb := false, forced := false,
                    integrity := false, rands := 0, time := 0, also := none }
    staged := some (outStatus stOK, .nothing) }


/-- A queue pair of the PF. -/
def pair1 : QueuePair := { adminPair hostOn 0 with qid := 1, sqSize := 16, cqSize := 16, sqTail := 1 }

/-- The host link with queue pair 1 and one tag. -/
def queueOn (t : TagEntry) : State :=
  { setF hostOn (F.DEVINFO_LIMITS_QPS 0) 2 with qm := { hostOn.qm with tags := [t], pairs := [pair1], busMaster := [0] } }

/-- A long instruction of the Sealed warden core with specifiers that name registers A0, A1, A2. -/
def insnOf (n : Nat) (size : BitVec 2) (imm : BitVec 16) : LongInsn :=
  { core := .a, size := size, cond := 0, imm16 := imm, fails := []
    specs := ([0, 1, 2].take n).map (fun r => { mode := 0, reg := r, seg := 0, d21 := 0, ext := 0 }) }

/-! ## Ill-formed terms -/

/-- A tag is one of 16,384 (R118). -/
theorem test_wf_tag : Instr.wf (.abort 16384) = false ∧ Instr.wf (.abort 16383) = true := by decide

/-- A queue pair is one of 4,096 of a function (R103). -/
theorem test_wf_pair : Instr.wf (.interruptCoalesceTimer 64 0) = false ∧ Instr.wf (.interruptCoalesceTimer 0 4096) = false := by decide

/-- A submission entry has 128 bytes (R114). -/
theorem test_wf_entry : Instr.wf (.sqEntryFetch 0 1 0 (some [1])) = false := by decide

/-- A register write has 4 or 8 bytes (R106). -/
theorem test_wf_width : Instr.wf (.registerWrite 0 0 ⟨2, 0, false⟩) = false := by decide

/-- A run names one of nine tiles (R90). -/
theorem test_wf_run : Instr.wf (.hash { run1 none with tile := 9 }) = false := by decide

/-- A report names its code in a byte (R479). -/
theorem test_wf_report : Instr.wf (.faultReport { code := 256, unit := 0, part := 0, good := true, row := 0 }) = false := by decide

/-- A sideband message is at most 4,096 bytes (R571). -/
theorem test_wf_message : Instr.wf (.status []) = false := by decide

/-- A long instruction names at most seven operands (R353). -/
theorem test_wf_specs : Instr.wf (.move { insnOf 1 0 0 with specs := List.replicate 8 { mode := 0, reg := 0, seg := 0, d21 := 0, ext := 0 } }) = false := by decide

/-! ## One step -/

/-- On an empty queue a step idles (log entry 49). -/
theorem test_step_idle : Sys2Proof.Machine.step State.reset = .next State.reset := rfl

/-- What a field reads after a command. -/
def readsAfter (c : Instr) (s : State) (f : Field) (v : Nat) : Bool := match exec c s with | .next t => getF t f = v | _ => false

/-- A fuse request without its KEY is ignored (R71). -/
theorem test_step_fuse_key : exec (.fuseProgram 0) geckoOn = .next geckoOn := rfl

/-- A fuse request with its KEY sets BUSY; one while BUSY is refused with REASON 4 (R71). -/
theorem test_step_fuse_busy : readsAfter (.fuseProgram 0xC3000000) geckoOn F.FUSE_STATUS_BUSY 1 = true
    ∧ readsAfter (.fuseProgram 0xC3000000) (setF geckoOn F.FUSE_STATUS_BUSY 1) F.FUSE_PROG_RESULT_REASON 4 = true := by decide

/-- STRUCT_CTRL BEGIN from EMPTY starts loading; COMMIT from EMPTY is error 0x01 (R92). -/
theorem test_step_struct : readsAfter (.structBegin 0x4B59) (setF landauOn F.STRUCT_STATUS_STATE 0) F.STRUCT_STATUS_STATE 1 = true
    ∧ readsAfter (.structCommit 0x4B59) (setF landauOn F.STRUCT_STATUS_STATE 0) F.STRUCT_ERROR_CODE 1 = true := by decide

/-- OPEN is ignored while OPEN_FW_OK is 0 (R69). -/
theorem test_step_open : readsAfter (.sysctlReleaseOpen 1 true) landauOn F.SYSCTL_RELEASE_OPEN 0 = true := by decide

/-- A link comes up with its width and speed (R100); a width of 3 does not exist. -/
theorem test_step_link : readsAfter (.linkTrained 16 5 0x10) hostOn F.PCIEC_LINK_WIDTH 16 = true
    ∧ readsAfter (.linkTrained 3 5 0x10) hostOn F.PCIEC_LINK_UP 0 = true := by decide

/-- ADD of 8 bytes wraps: all ones and 1 give 0 with Z and C, without N and V (R371). -/
theorem test_step_add : (match exec (.add (insnOf 3 3 0)) (setCore geckoOn .a (((getCore geckoOn .a).setA 0 0xFFFFFFFFFFFFFFFF).setA 1 1)) with
    | .next t => ((getCore t .a).areg 2 = 0 && (getCore t .a).z && (getCore t .a).c && !(getCore t .a).n && !(getCore t .a).v && (getCore t .a).pc = 16)
    | _ => false) = true := by decide

/-- DIV by zero takes exception 0x0E with the PC of the instruction saved (R376, R398). -/
theorem test_step_div_zero : (match exec (.div (insnOf 3 3 0)) (setCore geckoOn .a { getCore geckoOn .a with m := 0 }) with
    | .next t => (((getCore t .a).ctlOf true).cause = 0x0E && ((getCore t .a).ctlOf true).epc = 0)
    | _ => false) = true := by decide

/-- IDCODE is 0x1940_0999 (R579). -/
theorem test_step_idcode : exec .idcode geckoOn = .next (tapSet geckoOn .idcode 0x19400999) := rfl

/-- The PAN field of format 0 with twelve digits: eleven digits right-justified (R244). -/
theorem test_step_pan : panField 0 [1, 2, 3, 4, 5, 6, 7, 8, 9, 0, 1, 2] = [0x00, 0x00, 0x01, 0x23, 0x45, 0x67, 0x89, 0x01] := by decide

/-! ## Witnesses -/

theorem test_wit_StepRunsFrontCommand : State.reset.pending = [] := by decide

theorem test_wit_ExecLeavesTheQueue : Canonical State.reset ∧ ∃ t, exec .tamperHoldEnd State.reset = .next t :=
  ⟨by unfold Canonical; decide, _, rfl⟩

theorem test_wit_EveryStepKeepsInvariant : Canonical State.reset ∧ ∃ t, Sys2Proof.Machine.step State.reset = .next t := ⟨by unfold Canonical; decide, _, rfl⟩

theorem test_wit_NoStepUnprogramsAFuse : Canonical { State.reset with fuse := { State.reset.fuse with arr := burn State.reset.fuse.arr 0 0 } }
    ∧ burned (burn State.reset.fuse.arr 0 0) 0 0 = true := by unfold Canonical; decide

theorem test_wit_SupplyCommandsComplete : cellUp State.reset = false ∧ geckoUp State.reset = false ∧ geckoOn.power.vbat = true ∧ geckoUp geckoOn = true
    ∧ geckoUp { geckoOn with power := { geckoOn.power with phase := .off } } = true
    ∧ geckoUp { State.reset with power := { State.reset.power with vbat := true } } = false := by decide

/-- Nothing misread, no noise. -/
def noMiss : FuseBits :=
  { life := 0, arb := List.replicate 8 0, evidence := 0, vendorHash := 0, owner0 := 0, owner1 := 0, srcdis := 0, debugOff := false, part := false,
    stepping := 0, trim := 0, repair := 0, spares := 0 }
def quietUp : PowerGood := { miss1 := noMiss, miss2 := noMiss, miss3 := noMiss, noise0 := 0, noise1 := 0, kat := true, monFail := 0 }

theorem test_wit_BringUpStepsComplete : quietUp.wf = true
    ∧ { geckoOn with power := { geckoOn.power with phase := .held, start := some quietUp } }.power.start = some quietUp
    ∧ geckoUp { geckoOn with power := { geckoOn.power with phase := .sealed } } = true := ⟨by decide, rfl, by decide⟩

theorem test_wit_OpenReleaseNeedsOpenFwOk : (1 : W32).getLsbD 0 = true ∧ isSet geckoOn F.SYSCTL_STATE_OPEN_FW_OK = false ∧ geckoUp (setF geckoOn F.SYSCTL_STATE_OPEN_FW_OK 1) = true
    ∧ isSet (setF geckoOn F.SYSCTL_STATE_OPEN_FW_OK 1) F.SYSCTL_STATE_OPEN_FW_OK = true
    ∧ isSet (setF geckoOn F.SYSCTL_STATE_OPEN_FW_OK 1) F.SYSCTL_RELEASE_OPEN = false := by decide

theorem test_wit_ResetCommandsComplete : geckoUp geckoOn = true ∧ inReset geckoOn = false ∧ resetCounts geckoOn (.request 0x5A3C) = true ∧ inReset State.reset = true
    ∧ hostOn.power.phy = true ∧ hostOn.power.perst = true := by decide

theorem test_wit_FuseCommandsComplete : F.FUSE_PROG_CTRL_KEY.ofWord (0xC3000000 : W32).toNat = 0xC3 ∧ isSet geckoOn F.FUSE_STATUS_BUSY = false
    ∧ isSet (setF geckoOn F.FUSE_STATUS_BUSY 1) F.FUSE_STATUS_BUSY = true ∧ fuseReason { geckoOn with fuse := { geckoOn.fuse with prog := some (6, 0) } } 6 0 ≠ 0 := by
  decide

theorem test_wit_LifecycleStateFollowsTheFuses : lifeReached 0x40 3 = true ∧ lifeReached 0x100 3 = false ∧ lifeReached 0x100 4 = true ∧ lifeReached 1 3 = false := by decide

theorem test_wit_FuseControllerRefusals : lifeReached 0x1 0 = true ∧ (0x1 : BitVec 14).getLsbD 1 = false ∧ 6 ≤ 6 := by decide

theorem test_wit_AccessCodesGovernWrites : getF State.reset F.SYSCTL_STATE_OWNER_PERIOD < 2 ^ F.SYSCTL_STATE_OWNER_PERIOD.width
    ∧ F.SYSCTL_STATE_OWNER_PERIOD.key ≠ F.SYSCTL_STATE_LIFECYCLE.key ∧ fieldsAt Blk.TIMEKEEP 0x800 = [] := by decide

theorem test_wit_RegisterWriteCompletes : Blk.TAMPER < 0x20 ∧ isReg64 Blk.HOSTSPI 4 = false ∧ isReg64 Blk.HOSTSPI 0 = false
    ∧ ((blkDomain Blk.HOSTSPI).map (domainOn geckoOn)).getD true = true ∧ (writeGecko geckoOn 2 Blk.HOSTSPI 4 0).isNone = true
    ∧ (landauOn.power.landau = .unbuilt ∧ landauOn.drawbar.up = true) := by decide

theorem test_wit_PaceAndModeCommandsComplete : (0x504D8001 : W32).toNat / 65536 = 0x504D ∧ (0x504D8001 : W32).getLsbD 15 = true ∧ modeErr geckoOn 1 ≠ 0
    ∧ geckoUp geckoOn = true := by decide

theorem test_wit_PowerArbiterCommandsComplete : landauUp landauOn = true ∧ inPool landauOn 0 = true ∧ (0x5044003D : W32).toNat % 128 = 61 := by decide

theorem test_wit_StructLoadCommandsComplete : geckoUp landauOn = true ∧ landauOn.drawbar.up = true ∧ getF (setF landauOn F.STRUCT_STATUS_STATE 0) F.STRUCT_STATUS_STATE = 0
    ∧ getF (setF landauOn F.STRUCT_STATUS_STATE 1) F.STRUCT_STATUS_STATE = 1 ∧ getF landauOn F.STRUCT_STATUS_STATE ≠ 1
    ∧ getF (setF landauOn F.STRUCT_STATUS_STATE 2) F.STRUCT_STATUS_STATE = 2 ∧ landauOn.struct.seqErr = false := by decide

theorem test_wit_DrainAndAmendCommandsComplete : geckoUp landauOn = true ∧ landauUp landauOn = true ∧ landauOn.struct.drain = none
    ∧ getF landauOn F.STRUCT_STATUS_STATE ≠ 5 ∧ landauUp (setF landauOn F.STRUCT_STATUS_STATE 5) = true
    ∧ routesOn landauOn ⟨1, 0, 0⟩ = [] ∧ partTesting landauOn ⟨1, 0, 0⟩ = false ∧ isSet landauOn F.PWRARB_STATUS_MODE_BUSY = false := by decide

theorem test_wit_QueueCommandsComplete : doorbellThere (queueOn (runningOf 2)) 0 1 = true ∧ tlpTaken (queueOn (runningOf 2)) false = true
    ∧ findPair (queueOn (runningOf 2)) 0 1 = some pair1 ∧ findTag (queueOn (runningOf 2)) 1 = some (runningOf 2) ∧ running (runningOf 2) = true
    ∧ cqRoom pair1 = true ∧ ideHolds (queueOn (runningOf 2)) = false
    ∧ endWaits (queueOn (runningOf 2)) ((runningOf 2).route.getD ⟨0, 0, 0, 0, 0, 0, false, false, false, false, 0, 0, none⟩) .nothing = false := by decide

theorem test_wit_AdminCommandsComplete : hostReach hostOn = true ∧ fnExists hostOn 0 = true ∧ tlpTaken hostOn false = true
    ∧ adminTag (queueOn (adminOf (entryOf 0 0 []))) 1 0 = some (adminOf (entryOf 0 0 [])) ∧ adminTag (queueOn (adminOf (entryOf 1 256 []))) 1 1 = some (adminOf (entryOf 1 256 [])) := by
  decide

theorem test_wit_FunctionAndLinkCommandsComplete : hostReach hostOn = true ∧ fnExists hostOn 0 = true
    ∧ { hostOn with qm := { hostOn.qm with ideKeyed := true } }.power.dataLink = true := by decide

theorem test_wit_a : geckoUp geckoOn = true ∧ landauUp landauOn = true ∧ hostReach hostOn = true := by decide
theorem test_wit_b : Passes (withTag (tagOf (entryOf 0x27 64 []))) (run1 none) 0x27 (tagOf (entryOf 0x27 64 [])) (chkStoreStatus (tagOf (entryOf 0x27 64 [])))
    ∧ canStart (withTag (tagOf (entryOf 0x27 64 []))) (tagOf (entryOf 0x27 64 [])) 3 (run1 none) 0 = true := by
  unfold Passes; decide

/-- Domain 0 live with its wrap and log keys in the cache, room for one MiB of keys of class 0 and one of journal, and a key of a type and
usage under handle 1, cached. -/
def keyOn (typ usage : Nat) (t : TagEntry) : State :=
  let s := withTag t
  let k : KeyObj := { handle := 1, typ := typ, usage := 2 ^ usage, useLimit := 0, useCount := 0, counter := 0, storeId := 0, version := 1, bits := 0,
                      origin := 1, attr := 0, kcv := 0, body := zeros 16, useMark := 0, ctrMark := 0, ackUse := 0, ackCtr := 0, pend := [] }
  let c := fun kind name hdr => ({ kind := kind, name := name, share0 := zeros 16, share1 := zeros 16, hdr := hdr, size := 32, uses := 0, order := 0,
                                    pinned := kind != 0, issue := 0 } : KcEntry)
  let region := fun (kind : Byte) (base : Nat) => leBytes 0 2 ++ [kind, 0, 0, 0, 0, 0] ++ leBytes base 4 ++ leBytes 1 4
  { s with
    ks := { s.ks with slots := [(0, { gen := 1, retired := false, obj := some k })], cache := [c 0 1 (some { k with body := [] }), c 2 0 none, c 3 0 none]
                      domains := [(0, { Domain.unusedDom with state := .live })] }
    struct := { s.struct with built := [(8, leBytes 2 2 ++ zeros 14 ++ region 0 0 ++ region 2 1)] } }

/-- An entry that names key 1. -/
def keyEntry (op inLen outLen : Nat) (o : Bytes) : Bytes :=
  leBytes op 1 ++ zeros 15 ++ leBytes 1 8 ++ zeros 24 ++ leBytes inLen 4 ++ leBytes outLen 4 ++ zeros 8 ++ o ++ zeros (0x40 - o.length)

theorem test_wit_KeyRowsCommit : ∃ t, t = tagOf (keyEntry 0x13 0 0 []) ∧ Passes (keyOn 1 0 t) (run1 none) 0x13 t (chkKeyDelete (keyOn 1 0 t) t)
    ∧ StoreReady (keyOn 1 0 t) t 128 ∧ canStart (keyOn 1 0 t) t 2 (run1 none) 0 = true := ⟨_, rfl, by unfold Passes StoreReady; decide⟩

theorem test_wit_StoreRowsCommit : ∃ t, t = tagOf (entryOf 0x27 64 []) ∧ Passes (withTag t) (run1 none) 0x27 t (chkStoreStatus t)
    ∧ canStart (withTag t) t 3 (run1 none) 0 = true := ⟨_, rfl, by unfold Passes; decide⟩

theorem test_wit_KeyBlockTableAndCacheRows : landauUp landauOn = true ∧ tableHeld landauOn 1 = false
    ∧ ∃ t, t = tagOf (keyEntry 0x1B 0 0 [2]) ∧ Passes (keyOn 0x19 0 t) (run1 none) 0x1B t (chkVtableCtrl (keyOn 0x19 0 t) t) ∧ seOp t.entry 0x40 1 = 2
      ∧ canStart (keyOn 0x19 0 t) t 3 (run1 none) 0 = true := ⟨by decide, by decide, _, rfl, by unfold Passes; decide⟩

/-- An ECDSA_VERIFY_EXT of P-256 with an uncompressed point and a 32-byte digest. -/
theorem test_wit_PublicKeyRowsCommit : ∃ t, t = tagOf (keyEntry 0x34 161 0 [0x18]) ∧ Passes (withTag t) (run1 (some (zeros 161))) 0x34 t (chkEcdsaVerifyExt (withTag t) t)
    ∧ CleanRun (run1 (some (zeros 161))) ∧ PkeStarts (withTag t) t (run1 (some (zeros 161))) (pkeClass 0x18 0) false none :=
  ⟨_, rfl, by unfold Passes CleanRun PkeStarts; decide⟩

theorem test_wit_PkeTileArithmeticComplete : OnPkeTile (withTag (runningOf 1)) ⟨0, 0, 0, 1, 0⟩ (runningOf 1)
    ∧ tileTag landauOn 0 0 = none := by unfold OnPkeTile; decide

theorem test_wit_PkeTileTransfersComplete : OnPkeTile (withTag (runningOf 1)) ⟨0, 0, 0, 1, 0⟩ (runningOf 1)
    ∧ rngServes (withTag (runningOf 1)) 0 1 = true := by unfold OnPkeTile; decide

theorem test_wit_PublicKeyUnitsComplete : landauUp landauOn = true ∧ clusterOn landauOn 1 0 = true ∧ isSet (setF landauOn (F.PKEC_COMB_REFRESH 0) 1) (F.PKEC_COMB_REFRESH 0) = true
    ∧ combBusy (setF landauOn (F.PKEC_COMB_REFRESH 0) 1) 0 = false ∧ geckoUp geckoOn = true ∧ isSet geckoOn F.SPKE_STATUS_BUSY = false
    ∧ isSet (setF geckoOn F.SPKE_STATUS_BUSY 1) F.SPKE_STATUS_BUSY = true := by decide

/-- HASH with SHA-256 of no bytes. -/
theorem test_wit_CipherRowsCommit : ∃ t, t = tagOf (entryOf 0x54 32 [0, 1]) ∧ Passes (withTag t) (run1 none) 0x54 t (chkHash (withTag t) t)
    ∧ seInLen t.entry = 0 ∧ canStart (withTag t) t 2 (run1 none) (8 * 16 + mHash t.entry) = true ∧ Affordable (withTag t) t [] :=
  ⟨_, rfl, by unfold Passes Affordable; decide⟩

set_option maxRecDepth 4096 in
/-- EMV_ARQC with the TDES key 1 and a PAN of twelve digits. -/
theorem test_wit_PaymentRowsCommit : ∃ t, t = tagOf (keyEntry 0x64 0 0 ([1, 0, 12] ++ zeros 61)) ∧ Passes (keyOn 4 uEMV_MK t) (run1 none) 0x64 t (chkEmvRow (keyOn 4 uEMV_MK t) t)
    ∧ seInLen t.entry = 0 ∧ canStart (keyOn 4 uEMV_MK t) t 2 (run1 none) (1 * 16 + 0) = true
    ∧ ((useKeys (countSusp (keyOn 4 uEMV_MK t) 2 (run1 none)) [] [seKeyA t.entry]).1).isSome = true ∧ Affordable (keyOn 4 uEMV_MK t) t [seKeyA t.entry] :=
  ⟨_, rfl, by unfold Passes; exact ⟨by decide, by decide, by decide⟩, by decide, by decide, by decide, by unfold Affordable; decide⟩

theorem test_wit_CipherTileStepsComplete : OnCipSlot (withTag (runningOf 2)) ⟨0, 0, 0, 0, 0, 0⟩ (runningOf 2) ∧ cipTag landauOn ⟨0, 0, 0, 0, 0, 0⟩ = none
    ∧ rngServes (withTag (runningOf 2)) 16 1 = true := by unfold OnCipSlot; decide

theorem test_wit_CipherUnitsComplete : landauUp landauOn = true ∧ geckoUp geckoOn = true ∧ isSet geckoOn F.SCIPH_STATUS_BUSY = false
    ∧ isSet (setF geckoOn F.SCIPH_STATUS_BUSY 1) F.SCIPH_STATUS_BUSY = true ∧ sciphBad 5 0 [] = true := by decide

theorem test_wit_RandomCommandsComplete : rngServes landauOn 28 1 = true ∧ rngServes geckoOn 28 1 = false ∧ isSet geckoOn F.RNG_CTRL_RAW_EXPORT = false
    ∧ srcState (setSrc geckoOn 0 1) 0 = 1
    ∧ ∃ t, t = tagOf (entryOf 0x81 64 []) ∧ Passes (withTag t) (run1 none) 0x81 t (chkRngStatus t) := ⟨by decide, by decide, by decide, by decide, _, rfl, by unfold Passes; decide⟩

theorem test_wit_BootRowsCommit : ∃ t, t = tagOf (entryOf 0x8B 0 [1]) ∧ Passes (withTag t) (run1 none) 0x8B t (chkCertRead t)
    ∧ canStart (withTag t) t 3 (run1 none) 0 = true := ⟨_, rfl, by unfold Passes; decide⟩

theorem test_wit_HostFlashCommandsComplete : geckoUp geckoOn = true ∧ geckoOn.power.hold = false ∧ isSet geckoOn F.HOSTSPI_STATUS_MEASURING = false ∧ geckoOn.hf.stage ≠ 4
    ∧ isSet (setF geckoOn F.HOSTSPI_STATUS_MAP_VALID 1) F.HOSTSPI_STATUS_MAP_VALID = true := by decide

theorem test_wit_SpdmRequestsAreAnswered : SpdmNow { hostOn with spdm := { hostOn.spdm with doe := 3 } } true 3
    ∧ SpdmIn { hostOn with spdm := { hostOn.spdm with doe := 3, sessions := [{ id := 7, doe := true, done := true }] } } 7 true := by
  unfold SpdmIn SpdmNow; exact ⟨by decide, by decide, _, rfl, rfl, rfl⟩

/-- CL_STATUS on tiles of the Sealed world. -/
def sealedOn (t : TagEntry) : State := setF (setF (withTag t) (F.STRUCT_PKEMAP_WORLD 0) 1) (F.STRUCT_CIPMAP_WORLD 0) 1

theorem test_wit_ClusterRowsCommit : ∃ t, t = tagOf (entryOf 0xA0 64 []) ∧ Passes (sealedOn t) (run1 none) 0xA0 t (chkClStatus t)
    ∧ needSealedTiles (sealedOn t) = none ∧ canStartIn (sealedOn t) t 1 1 (run1 none) 0 (some (seOpcode t.entry, 0)) = true :=
  ⟨_, rfl, by unfold Passes; decide⟩

theorem test_wit_DelpinArithmeticAndLogic : ∃ t locs vals u, Runs (insnOf 3 3 0) geckoOn t (formBad (insnOf 3 3 0) (three (insnOf 3 3 0)))
    ∧ Reads (insnOf 3 3 0) (getCore geckoOn .a) t u 2 8 locs vals := by
  unfold Runs Reads; exact ⟨_, _, _, _, ⟨by decide, by decide, rfl, by decide, by decide⟩, _, rfl, rfl⟩

theorem test_wit_DelpinShiftsDivisionsAndSelects : ∃ t locs vals u, Runs (insnOf 3 3 0) geckoOn t (formBad (insnOf 3 3 0) { formAny 3 1 with imm := true })
    ∧ Reads (insnOf 3 3 0) (getCore geckoOn .a) t u 2 8 locs vals ∧ val vals 1 = 0 := by
  unfold Runs Reads; exact ⟨_, _, _, _, ⟨by decide, by decide, rfl, by decide, by decide⟩, ⟨_, rfl, rfl⟩, by decide⟩

theorem test_wit_DelpinMovesStackAndPairs : ∃ t locs u, Runs (insnOf 1 3 0) geckoOn t (formBad (insnOf 1 3 0) { formAny 1 1 with imm := true })
    ∧ Reads (insnOf 1 3 0) (getCore geckoOn .a) t u 0 0 locs [] := by
  unfold Runs Reads; exact ⟨_, _, _, ⟨by decide, by decide, rfl, by decide, by decide⟩, _, rfl, rfl⟩

/-- The Sealed warden core with a saved status of its own world's user level. -/
def backOn : State :=
  let x := getCore geckoOn .a
  setCore geckoOn .a (x.setCtl true { x.ctlOf true with eps := 0x8000 })

theorem test_wit_DelpinTransfersAtomicsAndBlocks : ∃ t, Runs (insnOf 0 0 0) backOn t (formBad (insnOf 0 0 0) (formOf 0 0 0 true true))
    ∧ (getCore backOn .a).l = true ∧ rteAllowed .a (getCore backOn .a) = true ∧ ((getCore backOn .a).ctlOf (getCore backOn .a).w).depth = 0 := by
  unfold Runs; exact ⟨_, ⟨by decide, by decide, rfl, by decide, by decide⟩, by decide⟩

theorem test_wit_DelpinSystemInstructions : ∃ t, Runs (insnOf 0 0 3) geckoOn t (formBad (insnOf 0 0 3) (formOf 0 0 0 true true))
    ∧ ready geckoOn .a = true ∧ (getCore geckoOn .a).w = true := by
  unfold Runs; exact ⟨_, ⟨by decide, by decide, rfl, by decide, by decide⟩, by decide⟩

theorem test_wit_EntriesProtectionAndArbitration : inLockstep geckoOn = true ∧ pendOf geckoOn 1 = 0 ∧ pendOf (setPend geckoOn 1 1 []) 1 ≠ 0
    ∧ arbState geckoOn 4 = (geckoOn.mpu.p0, geckoOn.mpu.h0) := by decide

theorem test_wit_FlashCommandsComplete : geckoUp geckoOn = true ∧ (0x464C : BitVec 16) ≠ 0 ∧ geckoOn.flash.stack = []
    ∧ flashBank { op := 2, addr := 0x10000000, len := 0, data := [], tag := false, susp := 0 : FlashOp }.addr ≠ 2 := by decide

theorem test_wit_TamperCommandsComplete : sourceLive geckoOn 7 = true ∧ sourceLive geckoOn 8 = true ∧ geckoUp geckoOn = true
    ∧ isSet geckoOn F.TAMPER_STATUS_ZPEND = false ∧ isSet (setF geckoOn F.TAMPER_STATUS_ZPEND 1) F.TAMPER_STATUS_ZPEND = true
    ∧ isSet geckoOn F.TAMPER_STATUS_BK_VALID = false := by decide

theorem test_wit_FaultAndRepairCommandsComplete : geckoUp geckoOn = true ∧ inSafe (setF geckoOn F.SYSCTL_STATE_SAFE 1) = true
    ∧ isSet (setF geckoOn F.FCOLL_STATUS_QUIET 1) F.FCOLL_STATUS_QUIET = true ∧ getF (setF geckoOn F.FCOLL_STATUS_EXIT 3) F.FCOLL_STATUS_EXIT = 3
    ∧ (laneMap landauOn 0).lane.contains 0 = true ∧ landauOn.drawbar.up = true
    ∧ findTag (withTag (runningOf 2)) 1 = some (runningOf 2) ∧ otherPart (withTag (runningOf 2)) ⟨2, 0, 0⟩ 0 1 = true := by decide

theorem test_wit_EventRecorderCommandsComplete : geckoUp geckoOn = true ∧ cellUp geckoOn = true ∧ geckoOn.power.mainGood = true
    ∧ geckoOn.flash.run = none ∧ isSet geckoOn F.EVREC_CTRL_FREEZE = false := by decide

theorem test_wit_CardPortCommandsComplete : domainOn geckoOn 64 = true ∧ domainOn geckoOn 65 = true ∧ (cardOf geckoOn 0).cmd = none
    ∧ getF (setF geckoOn (F.CARD_STATUS_STATE 0) 2) (F.CARD_STATUS_STATE 0) = 2 ∧ isSet geckoOn (F.CARD_STATUS_PRESENT 0) = false := by decide

theorem test_wit_LedgerCardCommandsComplete : domainOn geckoOn 66 = true ∧ isSet geckoOn F.SDH_STATUS_PRESENT = false
    ∧ geckoOn.sdh.cmd = none ∧ getF (setF geckoOn F.SDH_STATUS_STATE 2) F.SDH_STATUS_STATE = 2 := by decide

/-- A field around the tag. -/
def fieldOn : State := { geckoOn with tag := { geckoOn.tag with field := true } }

theorem test_wit_TagFieldCommandsComplete : ∃ u, TagTakes fieldOn u { uid := none, sel := false, sub := false, late := false } ∧ tagPrivacy u = false ∧ u.tag.quiet = false := by
  unfold TagTakes TagServes; exact ⟨_, ⟨⟨by decide, rfl, rfl, by decide, rfl⟩, by decide⟩, by decide, by decide⟩

theorem test_wit_TagMemoryCommandsComplete : ∃ u, TagTakes fieldOn u { uid := none, sel := false, sub := false, late := false } ∧ geckoOn.tag.op = none := by
  unfold TagTakes TagServes; exact ⟨_, ⟨⟨by decide, rfl, rfl, by decide, rfl⟩, by decide⟩, by decide⟩

theorem test_wit_SidebandBusCommandsComplete : sbRuns busOn = true ∧ sealedRuns busOn = true ∧ sbReach busOn = true ∧ sbRuns geckoOn = true ∧ geckoOn.sb.settled = 0 := by decide

theorem test_wit_ManagementRequestsComplete : SbServed busOn [0x7E, 0x1F, 0xA7, 1, 0, 0, 0, 0] 1 0 ∧ sealedRuns busOn = true
    ∧ SbRequest 1 [0x7E, 0x1F, 0xA7, 1, 0, 0, 0, 0] false (.status [0x7E, 0x1F, 0xA7, 1, 0, 0, 0, 0]) := by
  unfold SbServed SbRequest; exact ⟨by decide, by decide, .head _⟩

theorem test_wit_PatternTestsAndDebugComplete : tapUp geckoOn = true ∧ debugServed geckoOn = true ∧ landauUp landauOn = true ∧ domainOn geckoOn 79 = true
    ∧ F.DEBUG_CTRL_KEY.ofWord (0x44420000 : W32).toNat = 0x4442 ∧ isSet (setF geckoOn F.DEBUG_STATUS_PENDING 1) F.DEBUG_STATUS_PENDING = true := by decide

end Sys2Proof.Tests
end

section
/-!
The fuses are one-way. Every command keeps what `Keeps` names, so a step programs fuse bits and never unprograms one (O6).
-/
namespace Sys2Proof.Machine

variable {q : List Instr} {w : FuseBits}

theorem fuseLe_refl (v : FuseBits) : fuseLe v v := ⟨fun _ _ h => h, fun _ h => h⟩

/-- A canonical state keeps its own fuses, whatever its queue is replaced by. -/
theorem Keeps.ofCanonical {s : State} (hs : Canonical s) (q : List Instr) : Keeps q s.fuse.arr { s with pending := q } :=
  ⟨rfl, hs.1, hs.2, fuseLe_refl _⟩

/-- What a meaning keeps, the command that has it keeps. -/
theorem KeepsR.of_eq {r r' : Res} (h : KeepsR q w r) (e : r' = r) : KeepsR q w r' := e ▸ h

/-- Every command keeps the queue, the canonical forms and the programmed fuses: each by the law of its meaning. -/
theorem exec_keeps (c : Instr) {s : State} (hs : Keeps q w s) : KeepsR q w (exec c s) := by
  cases c with
  | mainPowerGood p => exact (execMainPowerGood_keeps p hs).of_eq (exec_mainPowerGood ..)
  | mainPowerGoodWithdrawn => exact (execMainPowerGoodWithdrawn_keeps hs).of_eq (exec_mainPowerGoodWithdrawn ..)
  | cellPowerOn vbat main => exact (execCellPowerOn_keeps vbat main hs).of_eq (exec_cellPowerOn ..)
  | hostLeg h => exact (execHostLeg_keeps h hs).of_eq (exec_hostLeg ..)
  | landauLeg l => exact (execLandauLeg_keeps l hs).of_eq (exec_landauLeg ..)
  | sysctlReleaseOpen v ledgerOk => exact (execSysctlReleaseOpen_keeps v ledgerOk hs).of_eq (exec_sysctlReleaseOpen ..)
  | deviceReset c => exact (execDeviceReset_keeps c hs).of_eq (exec_deviceReset ..)
  | landauRebuild => exact (execLandauRebuild_keeps hs).of_eq (exec_landauRebuild ..)
  | pcieFundamentalReset => exact (execPcieFundamentalReset_keeps hs).of_eq (exec_pcieFundamentalReset ..)
  | pePerstNRise => exact (execPePerstNRise_keeps hs).of_eq (exec_pePerstNRise ..)
  | linkTrained width speed ltssm => exact (execLinkTrained_keeps width speed ltssm hs).of_eq (exec_linkTrained ..)
  | fuseProgram v => exact (execFuseProgram_keeps v hs).of_eq (exec_fuseProgram ..)
  | fuseProgramDone => exact (execFuseProgramDone_keeps hs).of_eq (exec_fuseProgramDone ..)
  | registerWrite blk off p => exact (execRegisterWrite_keeps blk off p hs).of_eq (exec_registerWrite ..)
  | paceWindow counts => exact (execPaceWindow_keeps counts hs).of_eq (exec_paceWindow ..)
  | modeChange v => exact (execModeChange_keeps v hs).of_eq (exec_modeChange ..)
  | modeChangeRoutesFinished mv phyFail => exact (execModeChangeRoutesFinished_keeps mv phyFail hs).of_eq (exec_modeChangeRoutesFinished ..)
  | structBegin key => exact (execStructBegin_keeps key hs).of_eq (exec_structBegin ..)
  | structSelWrite v => exact (execStructSelWrite_keeps v hs).of_eq (exec_structSelWrite ..)
  | structDataWrite v => exact (execStructDataWrite_keeps v hs).of_eq (exec_structDataWrite ..)
  | structCommit key => exact (execStructCommit_keeps key hs).of_eq (exec_structCommit ..)
  | structAbandon key => exact (execStructAbandon_keeps key hs).of_eq (exec_structAbandon ..)
  | structCheckEnd ledgerOk => exact (execStructCheckEnd_keeps ledgerOk hs).of_eq (exec_structCheckEnd ..)
  | amendCommit key => exact (execAmendCommit_keeps key hs).of_eq (exec_amendCommit ..)
  | amendCheckEnd => exact (execAmendCheckEnd_keeps hs).of_eq (exec_amendCheckEnd ..)
  | structDrain v => exact (execStructDrain_keeps v hs).of_eq (exec_structDrain ..)
  | drainDone => exact (execDrainDone_keeps hs).of_eq (exec_drainDone ..)
  | drainTimeout tag unit tile => exact (execDrainTimeout_keeps tag unit tile hs).of_eq (exec_drainTimeout ..)
  | sqTailDoorbell fn qid p => exact (execSqTailDoorbell_keeps fn qid p hs).of_eq (exec_sqTailDoorbell ..)
  | cqHeadDoorbell fn qid p => exact (execCqHeadDoorbell_keeps fn qid p hs).of_eq (exec_cqHeadDoorbell ..)
  | sqEntryFetch fn qid tag entry => exact (execSqEntryFetch_keeps fn qid tag entry hs).of_eq (exec_sqEntryFetch ..)
  | commandHandoff tag core => exact (execCommandHandoff_keeps tag core hs).of_eq (exec_commandHandoff ..)
  | routeEnd tag ledgerOk p => exact (execRouteEnd_keeps tag ledgerOk p hs).of_eq (exec_routeEnd ..)
  | completionPost tag writeOk => exact (execCompletionPost_keeps tag writeOk hs).of_eq (exec_completionPost ..)
  | interruptCoalesceTimer fn qid => exact (execInterruptCoalesceTimer_keeps fn qid hs).of_eq (exec_interruptCoalesceTimer ..)
  | adminEnable p => exact (execAdminEnable_keeps p hs).of_eq (exec_adminEnable ..)
  | adminReady fn => exact (execAdminReady_keeps fn hs).of_eq (exec_adminReady ..)
  | adminDisable p => exact (execAdminDisable_keeps p hs).of_eq (exec_adminDisable ..)
  | nop form => exact (execNop_keeps form hs).of_eq (exec_nop ..)
  | identify p => exact (execIdentify_keeps p hs).of_eq (exec_identify ..)
  | abort tag => exact (execAbort_keeps tag hs).of_eq (exec_abort ..)
  | createQp tag => exact (execCreateQp_keeps tag hs).of_eq (exec_createQp ..)
  | deleteQp tag => exact (execDeleteQp_keeps tag hs).of_eq (exec_deleteQp ..)
  | deleteQpComplete tag => exact (execDeleteQpComplete_keeps tag hs).of_eq (exec_deleteQpComplete ..)
  | getStatus p => exact (execGetStatus_keeps p hs).of_eq (exec_getStatus ..)
  | functionLevelReset fn => exact (execFunctionLevelReset_keeps fn hs).of_eq (exec_functionLevelReset ..)
  | vfEnableClear => exact (execVfEnableClear_keeps hs).of_eq (exec_vfEnableClear ..)
  | busMasterEnableClear fn => exact (execBusMasterEnableClear_keeps fn hs).of_eq (exec_busMasterEnableClear ..)
  | doeDataObject vendor typ payload => exact (execDoeDataObject_keeps vendor typ payload hs).of_eq (exec_doeDataObject ..)
  | ideTlpFailure => exact (execIdeTlpFailure_keeps hs).of_eq (exec_ideTlpFailure ..)
  | keyGenerate r => exact (execKeyGenerate_keeps r hs).of_eq (exec_keyGenerate ..)
  | keyImport r => exact (execKeyImport_keeps r hs).of_eq (exec_keyImport ..)
  | keyExport r => exact (execKeyExport_keeps r hs).of_eq (exec_keyExport ..)
  | keyDelete r => exact (execKeyDelete_keeps r hs).of_eq (exec_keyDelete ..)
  | keyInfo r => exact (execKeyInfo_keeps r hs).of_eq (exec_keyInfo ..)
  | keyRestrict r => exact (execKeyRestrict_keeps r hs).of_eq (exec_keyRestrict ..)
  | pubkeyEnroll r => exact (execPubkeyEnroll_keeps r hs).of_eq (exec_pubkeyEnroll ..)
  | pubkeyRead r => exact (execPubkeyRead_keeps r hs).of_eq (exec_pubkeyRead ..)
  | keyblockImport r => exact (execKeyblockImport_keeps r hs).of_eq (exec_keyblockImport ..)
  | keyblockExport r => exact (execKeyblockExport_keeps r hs).of_eq (exec_keyblockExport ..)
  | vtableCtrl r => exact (execVtableCtrl_keeps r hs).of_eq (exec_vtableCtrl ..)
  | vtableBuild handle unit tile => exact (execVtableBuild_keeps handle unit tile hs).of_eq (exec_vtableBuild ..)
  | vtableEviction handle => exact (execVtableEviction_keeps handle hs).of_eq (exec_vtableEviction ..)
  | snapshotBegin r => exact (execSnapshotBegin_keeps r hs).of_eq (exec_snapshotBegin ..)
  | snapshotRead r => exact (execSnapshotRead_keeps r hs).of_eq (exec_snapshotRead ..)
  | journalRead r => exact (execJournalRead_keeps r hs).of_eq (exec_journalRead ..)
  | journalAck r => exact (execJournalAck_keeps r hs).of_eq (exec_journalAck ..)
  | restoreBegin r => exact (execRestoreBegin_keeps r hs).of_eq (exec_restoreBegin ..)
  | restoreData r => exact (execRestoreData_keeps r hs).of_eq (exec_restoreData ..)
  | restoreEnd r => exact (execRestoreEnd_keeps r hs).of_eq (exec_restoreEnd ..)
  | domainCreate r => exact (execDomainCreate_keeps r hs).of_eq (exec_domainCreate ..)
  | domainErase r => exact (execDomainErase_keeps r hs).of_eq (exec_domainErase ..)
  | domainEscrowExport r => exact (execDomainEscrowExport_keeps r hs).of_eq (exec_domainEscrowExport ..)
  | domainEscrowRestore r => exact (execDomainEscrowRestore_keeps r hs).of_eq (exec_domainEscrowRestore ..)
  | storeStatus r => exact (execStoreStatus_keeps r hs).of_eq (exec_storeStatus ..)
  | kcacheEvictDomain key domain => exact (execKcacheEvictDomain_keeps key domain hs).of_eq (exec_kcacheEvictDomain ..)
  | kcacheEvictAll key => exact (execKcacheEvictAll_keeps key hs).of_eq (exec_kcacheEvictAll ..)
  | kcacheZeroise key reading => exact (execKcacheZeroise_keeps key reading hs).of_eq (exec_kcacheZeroise ..)
  | hbmcSwap stack v => exact (execHbmcSwap_keeps stack v hs).of_eq (exec_hbmcSwap ..)
  | hbmcSwapDone stack unread => exact (execHbmcSwapDone_keeps stack unread hs).of_eq (exec_hbmcSwapDone ..)
  | ecdsaSign r => exact (execEcdsaSign_keeps r hs).of_eq (exec_ecdsaSign ..)
  | ecdsaSignMsg r => exact (execEcdsaSignMsg_keeps r hs).of_eq (exec_ecdsaSignMsg ..)
  | ecdsaVerify r => exact (execEcdsaVerify_keeps r hs).of_eq (exec_ecdsaVerify ..)
  | ecdsaVerifyMsg r => exact (execEcdsaVerifyMsg_keeps r hs).of_eq (exec_ecdsaVerifyMsg ..)
  | ecdsaVerifyExt r => exact (execEcdsaVerifyExt_keeps r hs).of_eq (exec_ecdsaVerifyExt ..)
  | ecdhDerive r => exact (execEcdhDerive_keeps r hs).of_eq (exec_ecdhDerive ..)
  | rsaSign r => exact (execRsaSign_keeps r hs).of_eq (exec_rsaSign ..)
  | rsaVerify r => exact (execRsaVerify_keeps r hs).of_eq (exec_rsaVerify ..)
  | rsaEncrypt r => exact (execRsaEncrypt_keeps r hs).of_eq (exec_rsaEncrypt ..)
  | rsaDecrypt r => exact (execRsaDecrypt_keeps r hs).of_eq (exec_rsaDecrypt ..)
  | rsaUnwrap r => exact (execRsaUnwrap_keeps r hs).of_eq (exec_rsaUnwrap ..)
  | pkecCombRefresh cluster => exact (execPkecCombRefresh_keeps cluster hs).of_eq (exec_pkecCombRefresh ..)
  | combRebuild cluster => exact (execCombRebuild_keeps cluster hs).of_eq (exec_combRebuild ..)
  | pkecSelftest cluster v => exact (execPkecSelftest_keeps cluster v hs).of_eq (exec_pkecSelftest ..)
  | pkeSelftestEnd cluster pass => exact (execPkeSelftestEnd_keeps cluster pass hs).of_eq (exec_pkeSelftestEnd ..)
  | spkeSign slot => exact (execSpkeSign_keeps slot hs).of_eq (exec_spkeSign ..)
  | spkeVerify slot => exact (execSpkeVerify_keeps slot hs).of_eq (exec_spkeVerify ..)
  | spkePublicPoint slot => exact (execSpkePublicPoint_keeps slot hs).of_eq (exec_spkePublicPoint ..)
  | spkeOperationEnd check => exact (execSpkeOperationEnd_keeps check hs).of_eq (exec_spkeOperationEnd ..)
  | mmul p => exact (execMmul_keeps p hs).of_eq (exec_mmul ..)
  | msqr p => exact (execMsqr_keeps p hs).of_eq (exec_msqr ..)
  | madd p => exact (execMadd_keeps p hs).of_eq (exec_madd ..)
  | msub p => exact (execMsub_keeps p hs).of_eq (exec_msub ..)
  | mred p => exact (execMred_keeps p hs).of_eq (exec_mred ..)
  | setmod p => exact (execSetmod_keeps p hs).of_eq (exec_setmod ..)
  | pkeCsel p => exact (execPkeCsel_keeps p hs).of_eq (exec_pkeCsel ..)
  | pkeCeq p => exact (execPkeCeq_keeps p hs).of_eq (exec_pkeCeq ..)
  | crange p => exact (execCrange_keeps p hs).of_eq (exec_crange ..)
  | padd p => exact (execPadd_keeps p hs).of_eq (exec_padd ..)
  | paddj p => exact (execPaddj_keeps p hs).of_eq (exec_paddj ..)
  | pdbl p => exact (execPdbl_keeps p hs).of_eq (exec_pdbl ..)
  | minv p => exact (execMinv_keeps p hs).of_eq (exec_minv ..)
  | split p => exact (execSplit_keeps p hs).of_eq (exec_split ..)
  | pkeRefresh p => exact (execPkeRefresh_keeps p hs).of_eq (exec_pkeRefresh ..)
  | pkeRand p => exact (execPkeRand_keeps p hs).of_eq (exec_pkeRand ..)
  | sblind p => exact (execSblind_keeps p hs).of_eq (exec_sblind ..)
  | pvalid p => exact (execPvalid_keeps p hs).of_eq (exec_pvalid ..)
  | mexpw p => exact (execMexpw_keeps p hs).of_eq (exec_mexpw ..)
  | encode p => exact (execEncode_keeps p hs).of_eq (exec_encode ..)
  | decode p => exact (execDecode_keeps p hs).of_eq (exec_decode ..)
  | andf p => exact (execAndf_keeps p hs).of_eq (exec_andf ..)
  | pkeMove p => exact (execPkeMove_keeps p hs).of_eq (exec_pkeMove ..)
  | pkeKcload p => exact (execPkeKcload_keeps p hs).of_eq (exec_pkeKcload ..)
  | combrd p err => exact (execCombrd_keeps p err hs).of_eq (exec_combrd ..)
  | vtrd p => exact (execVtrd_keeps p hs).of_eq (exec_vtrd ..)
  | pkeInrd p bytes => exact (execPkeInrd_keeps p bytes hs).of_eq (exec_pkeInrd ..)
  | pkeOutst p => exact (execPkeOutst_keeps p hs).of_eq (exec_pkeOutst ..)
  | kout p => exact (execKout_keeps p hs).of_eq (exec_kout ..)
  | hashin p c => exact (execHashin_keeps p c hs).of_eq (exec_hashin ..)
  | hashout p => exact (execHashout_keeps p hs).of_eq (exec_hashout ..)
  | tokenWait cls unit => exact (execTokenWait_keeps cls unit hs).of_eq (exec_tokenWait ..)
  | cipherEncrypt r => exact (execCipherEncrypt_keeps r hs).of_eq (exec_cipherEncrypt ..)
  | cipherDecrypt r => exact (execCipherDecrypt_keeps r hs).of_eq (exec_cipherDecrypt ..)
  | macGenerate r => exact (execMacGenerate_keeps r hs).of_eq (exec_macGenerate ..)
  | macVerify r => exact (execMacVerify_keeps r hs).of_eq (exec_macVerify ..)
  | hash r => exact (execHash_keeps r hs).of_eq (exec_hash ..)
  | streamEncrypt r => exact (execStreamEncrypt_keeps r hs).of_eq (exec_streamEncrypt ..)
  | cipherEncryptM r => exact (execCipherEncryptM_keeps r hs).of_eq (exec_cipherEncryptM ..)
  | cipherDecryptM r => exact (execCipherDecryptM_keeps r hs).of_eq (exec_cipherDecryptM ..)
  | macGenerateM r => exact (execMacGenerateM_keeps r hs).of_eq (exec_macGenerateM ..)
  | macVerifyM r => exact (execMacVerifyM_keeps r hs).of_eq (exec_macVerifyM ..)
  | pinTranslate r => exact (execPinTranslate_keeps r hs).of_eq (exec_pinTranslate ..)
  | pinTranslateDukpt r => exact (execPinTranslateDukpt_keeps r hs).of_eq (exec_pinTranslateDukpt ..)
  | pinCompare r => exact (execPinCompare_keeps r hs).of_eq (exec_pinCompare ..)
  | dukptData r => exact (execDukptData_keeps r hs).of_eq (exec_dukptData ..)
  | emvArqc r => exact (execEmvArqc_keeps r hs).of_eq (exec_emvArqc ..)
  | pinTranslateM r => exact (execPinTranslateM_keeps r hs).of_eq (exec_pinTranslateM ..)
  | pinTranslateDukptM r => exact (execPinTranslateDukptM_keeps r hs).of_eq (exec_pinTranslateDukptM ..)
  | pinCompareM r => exact (execPinCompareM_keeps r hs).of_eq (exec_pinCompareM ..)
  | dukptDataM r => exact (execDukptDataM_keeps r hs).of_eq (exec_dukptDataM ..)
  | emvArqcM r => exact (execEmvArqcM_keeps r hs).of_eq (exec_emvArqcM ..)
  | cipcLockHold cluster tile v => exact (execCipcLockHold_keeps cluster tile v hs).of_eq (exec_cipcLockHold ..)
  | cipcSelftest cluster v => exact (execCipcSelftest_keeps cluster v hs).of_eq (exec_cipcSelftest ..)
  | cipSelftestEnd cluster pass => exact (execCipSelftestEnd_keeps cluster pass hs).of_eq (exec_cipSelftestEnd ..)
  | aesk p => exact (execAesk_keeps p hs).of_eq (exec_aesk ..)
  | aese p => exact (execAese_keeps p hs).of_eq (exec_aese ..)
  | aesd p => exact (execAesd_keeps p hs).of_eq (exec_aesd ..)
  | desk p => exact (execDesk_keeps p hs).of_eq (exec_desk ..)
  | dese p => exact (execDese_keeps p hs).of_eq (exec_dese ..)
  | desd p => exact (execDesd_keeps p hs).of_eq (exec_desd ..)
  | cipXor p => exact (execCipXor_keeps p hs).of_eq (exec_cipXor ..)
  | ctrb p => exact (execCtrb_keeps p hs).of_eq (exec_ctrb ..)
  | mula p => exact (execMula_keeps p hs).of_eq (exec_mula ..)
  | ghash p => exact (execGhash_keeps p hs).of_eq (exec_ghash ..)
  | shai p => exact (execShai_keeps p hs).of_eq (exec_shai ..)
  | shac p => exact (execShac_keeps p hs).of_eq (exec_shac ..)
  | shaf p tail => exact (execShaf_keeps p tail hs).of_eq (exec_shaf ..)
  | pindec p => exact (execPindec_keeps p hs).of_eq (exec_pindec ..)
  | pinenc p => exact (execPinenc_keeps p hs).of_eq (exec_pinenc ..)
  | cipRand p => exact (execCipRand_keeps p hs).of_eq (exec_cipRand ..)
  | cipCeq p => exact (execCipCeq_keeps p hs).of_eq (exec_cipCeq ..)
  | cipCsel p => exact (execCipCsel_keeps p hs).of_eq (exec_cipCsel ..)
  | cipRefresh p => exact (execCipRefresh_keeps p hs).of_eq (exec_cipRefresh ..)
  | trunc p => exact (execTrunc_keeps p hs).of_eq (exec_trunc ..)
  | blocks p => exact (execBlocks_keeps p hs).of_eq (exec_blocks ..)
  | cipKcload p => exact (execCipKcload_keeps p hs).of_eq (exec_cipKcload ..)
  | cipInrd p bytes => exact (execCipInrd_keeps p bytes hs).of_eq (exec_cipInrd ..)
  | cipOutst p => exact (execCipOutst_keeps p hs).of_eq (exec_cipOutst ..)
  | pkout p => exact (execPkout_keeps p hs).of_eq (exec_pkout ..)
  | pkin p c => exact (execPkin_keeps p c hs).of_eq (exec_pkin ..)
  | gcmEnc slot => exact (execGcmEnc_keeps slot hs).of_eq (exec_gcmEnc ..)
  | gcmDec slot => exact (execGcmDec_keeps slot hs).of_eq (exec_gcmDec ..)
  | sha384 slot => exact (execSha384_keeps slot hs).of_eq (exec_sha384 ..)
  | hmac384 slot => exact (execHmac384_keeps slot hs).of_eq (exec_hmac384 ..)
  | hkdf slot => exact (execHkdf_keeps slot hs).of_eq (exec_hkdf ..)
  | deriveSrk slot => exact (execDeriveSrk_keeps slot hs).of_eq (exec_deriveSrk ..)
  | unwrapDmk slot => exact (execUnwrapDmk_keeps slot hs).of_eq (exec_unwrapDmk ..)
  | load slot => exact (execLoad_keeps slot hs).of_eq (exec_load ..)
  | sciphOperationEnd => exact (execSciphOperationEnd_keeps hs).of_eq (exec_sciphOperationEnd ..)
  | randomBytes r => exact (execRandomBytes_keeps r hs).of_eq (exec_randomBytes ..)
  | rngStatus r => exact (execRngStatus_keeps r hs).of_eq (exec_rngStatus ..)
  | seedBlock raw0 raw1 at_ => exact (execSeedBlock_keeps raw0 raw1 at_ hs).of_eq (exec_seedBlock ..)
  | seedDelivery => exact (execSeedDelivery_keeps hs).of_eq (exec_seedDelivery ..)
  | rngStall inst => exact (execRngStall_keeps inst hs).of_eq (exec_rngStall ..)
  | biasWindow src early late => exact (execBiasWindow_keeps src early late hs).of_eq (exec_biasWindow ..)
  | maskStreamRekey cluster tile => exact (execMaskStreamRekey_keeps cluster tile hs).of_eq (exec_maskStreamRekey ..)
  | rngStatusRefresh => exact (execRngStatusRefresh_keeps hs).of_eq (exec_rngStatusRefresh ..)
  | rngDataRead => exact (execRngDataRead_keeps hs).of_eq (exec_rngDataRead ..)
  | rngRawRead => exact (execRngRawRead_keeps hs).of_eq (exec_rngRawRead ..)
  | hostspiMeasure => exact (execHostspiMeasure_keeps hs).of_eq (exec_hostspiMeasure ..)
  | measurementPassEnd p => exact (execMeasurementPassEnd_keeps p hs).of_eq (exec_measurementPassEnd ..)
  | hostspiRelease => exact (execHostspiRelease_keeps hs).of_eq (exec_hostspiRelease ..)
  | hostspiLoad => exact (execHostspiLoad_keeps hs).of_eq (exec_hostspiLoad ..)
  | hostFlashTransaction t => exact (execHostFlashTransaction_keeps t hs).of_eq (exec_hostFlashTransaction ..)
  | hostReset ns => exact (execHostReset_keeps ns hs).of_eq (exec_hostReset ..)
  | ledgerMirror ok => exact (execLedgerMirror_keeps ok hs).of_eq (exec_ledgerMirror ..)
  | ledgerRead r => exact (execLedgerRead_keeps r hs).of_eq (exec_ledgerRead ..)
  | ledgerStatus r => exact (execLedgerStatus_keeps r hs).of_eq (exec_ledgerStatus ..)
  | attestQuote r => exact (execAttestQuote_keeps r hs).of_eq (exec_attestQuote ..)
  | certRead r => exact (execCertRead_keeps r hs).of_eq (exec_certRead ..)
  | hostFlashAuth r => exact (execHostFlashAuth_keeps r hs).of_eq (exec_hostFlashAuth ..)
  | hostBootSelect r => exact (execHostBootSelect_keeps r hs).of_eq (exec_hostBootSelect ..)
  | lifecycle r => exact (execLifecycle_keeps r hs).of_eq (exec_lifecycle ..)
  | getVersion doe => exact (execGetVersion_keeps doe hs).of_eq (exec_getVersion ..)
  | getCapabilities doe => exact (execGetCapabilities_keeps doe hs).of_eq (exec_getCapabilities ..)
  | negotiateAlgorithms doe offer => exact (execNegotiateAlgorithms_keeps doe offer hs).of_eq (exec_negotiateAlgorithms ..)
  | getDigests doe => exact (execGetDigests_keeps doe hs).of_eq (exec_getDigests ..)
  | getCertificate doe slot off len => exact (execGetCertificate_keeps doe slot off len hs).of_eq (exec_getCertificate ..)
  | challenge doe slot => exact (execChallenge_keeps doe slot hs).of_eq (exec_challenge ..)
  | getMeasurements doe index signed => exact (execGetMeasurements_keeps doe index signed hs).of_eq (exec_getMeasurements ..)
  | keyExchange doe slot pub => exact (execKeyExchange_keeps doe slot pub hs).of_eq (exec_keyExchange ..)
  | finish session macOk => exact (execFinish_keeps session macOk hs).of_eq (exec_finish ..)
  | heartbeat session macOk => exact (execHeartbeat_keeps session macOk hs).of_eq (exec_heartbeat ..)
  | keyUpdate session macOk => exact (execKeyUpdate_keeps session macOk hs).of_eq (exec_keyUpdate ..)
  | endSession session macOk => exact (execEndSession_keeps session macOk hs).of_eq (exec_endSession ..)
  | vendorDefinedRequest session macOk ideKm => exact (execVendorDefinedRequest_keeps session macOk ideKm hs).of_eq (exec_vendorDefinedRequest ..)
  | clStatus r => exact (execClStatus_keeps r hs).of_eq (exec_clStatus ..)
  | clMemberRequest r => exact (execClMemberRequest_keeps r hs).of_eq (exec_clMemberRequest ..)
  | clFound r => exact (execClFound_keeps r hs).of_eq (exec_clFound ..)
  | clIssue r => exact (execClIssue_keeps r hs).of_eq (exec_clIssue ..)
  | clEndorse r => exact (execClEndorse_keeps r hs).of_eq (exec_clEndorse ..)
  | clApplyEpoch r => exact (execClApplyEpoch_keeps r hs).of_eq (exec_clApplyEpoch ..)
  | clMemberRead r => exact (execClMemberRead_keeps r hs).of_eq (exec_clMemberRead ..)
  | clSealBundle r => exact (execClSealBundle_keeps r hs).of_eq (exec_clSealBundle ..)
  | clHandover r => exact (execClHandover_keeps r hs).of_eq (exec_clHandover ..)
  | clApplyBundle r => exact (execClApplyBundle_keeps r hs).of_eq (exec_clApplyBundle ..)
  | clReplay r => exact (execClReplay_keeps r hs).of_eq (exec_clReplay ..)
  | pairedWord core f g bit15 fails => exact (execPairedWord_keeps core f g bit15 fails hs).of_eq (exec_pairedWord ..)
  | move insn => exact (execMove_keeps insn hs).of_eq (exec_move ..)
  | ext insn => exact (execExt_keeps insn hs).of_eq (exec_ext ..)
  | lea insn => exact (execLea_keeps insn hs).of_eq (exec_lea ..)
  | clr insn => exact (execClr_keeps insn hs).of_eq (exec_clr ..)
  | push insn => exact (execPush_keeps insn hs).of_eq (exec_push ..)
  | pop insn => exact (execPop_keeps insn hs).of_eq (exec_pop ..)
  | add insn => exact (execAdd_keeps insn hs).of_eq (exec_add ..)
  | addc insn => exact (execAddc_keeps insn hs).of_eq (exec_addc ..)
  | sub insn => exact (execSub_keeps insn hs).of_eq (exec_sub ..)
  | subc insn => exact (execSubc_keeps insn hs).of_eq (exec_subc ..)
  | cmp insn => exact (execCmp_keeps insn hs).of_eq (exec_cmp ..)
  | neg insn => exact (execNeg_keeps insn hs).of_eq (exec_neg ..)
  | mul insn => exact (execMul_keeps insn hs).of_eq (exec_mul ..)
  | mulh insn => exact (execMulh_keeps insn hs).of_eq (exec_mulh ..)
  | mulhs insn => exact (execMulhs_keeps insn hs).of_eq (exec_mulhs ..)
  | div insn => exact (execDiv_keeps insn hs).of_eq (exec_div ..)
  | divs insn => exact (execDivs_keeps insn hs).of_eq (exec_divs ..)
  | rem insn => exact (execRem_keeps insn hs).of_eq (exec_rem ..)
  | rems insn => exact (execRems_keeps insn hs).of_eq (exec_rems ..)
  | and insn => exact (execAnd_keeps insn hs).of_eq (exec_and ..)
  | or insn => exact (execOr_keeps insn hs).of_eq (exec_or ..)
  | xor insn => exact (execXor_keeps insn hs).of_eq (exec_xor ..)
  | not insn => exact (execNot_keeps insn hs).of_eq (exec_not ..)
  | tst insn => exact (execTst_keeps insn hs).of_eq (exec_tst ..)
  | shl insn => exact (execShl_keeps insn hs).of_eq (exec_shl ..)
  | shr insn => exact (execShr_keeps insn hs).of_eq (exec_shr ..)
  | sar insn => exact (execSar_keeps insn hs).of_eq (exec_sar ..)
  | rol insn => exact (execRol_keeps insn hs).of_eq (exec_rol ..)
  | ror insn => exact (execRor_keeps insn hs).of_eq (exec_ror ..)
  | clz insn => exact (execClz_keeps insn hs).of_eq (exec_clz ..)
  | popc insn => exact (execPopc_keeps insn hs).of_eq (exec_popc ..)
  | bswap insn => exact (execBswap_keeps insn hs).of_eq (exec_bswap ..)
  | csel insn => exact (execCsel_keeps insn hs).of_eq (exec_csel ..)
  | cteq insn => exact (execCteq_keeps insn hs).of_eq (exec_cteq ..)
  | ctlt insn => exact (execCtlt_keeps insn hs).of_eq (exec_ctlt ..)
  | ctmask insn => exact (execCtmask_keeps insn hs).of_eq (exec_ctmask ..)
  | ctbeq insn => exact (execCtbeq_keeps insn hs).of_eq (exec_ctbeq ..)
  | jmp insn => exact (execJmp_keeps insn hs).of_eq (exec_jmp ..)
  | call insn => exact (execCall_keeps insn hs).of_eq (exec_call ..)
  | ret insn => exact (execRet_keeps insn hs).of_eq (exec_ret ..)
  | loop insn => exact (execLoop_keeps insn hs).of_eq (exec_loop ..)
  | swapa insn => exact (execSwapa_keeps insn hs).of_eq (exec_swapa ..)
  | cas insn => exact (execCas_keeps insn hs).of_eq (exec_cas ..)
  | fadd insn => exact (execFadd_keeps insn hs).of_eq (exec_fadd ..)
  | bmove insn => exact (execBmove_keeps insn hs).of_eq (exec_bmove ..)
  | bfill insn => exact (execBfill_keeps insn hs).of_eq (exec_bfill ..)
  | trap insn => exact (execTrap_keeps insn hs).of_eq (exec_trap ..)
  | gate insn => exact (execGate_keeps insn hs).of_eq (exec_gate ..)
  | rte insn => exact (execRte_keeps insn hs).of_eq (exec_rte ..)
  | lseg insn => exact (execLseg_keeps insn hs).of_eq (exec_lseg ..)
  | sseg insn => exact (execSseg_keeps insn hs).of_eq (exec_sseg ..)
  | mask insn => exact (execMask_keeps insn hs).of_eq (exec_mask ..)
  | wait insn => exact (execWait_keeps insn hs).of_eq (exec_wait ..)
  | fence insn => exact (execFence_keeps insn hs).of_eq (exec_fence ..)
  | mfps insn => exact (execMfps_keeps insn hs).of_eq (exec_mfps ..)
  | mtf insn => exact (execMtf_keeps insn hs).of_eq (exec_mtf ..)
  | mfcr insn => exact (execMfcr_keeps insn hs).of_eq (exec_mfcr ..)
  | mtcr insn => exact (execMtcr_keeps insn hs).of_eq (exec_mtcr ..)
  | wstart core v => exact (execWstart_keeps core v hs).of_eq (exec_wstart ..)
  | swi core v => exact (execSwi_keeps core v hs).of_eq (exec_swi ..)
  | interruptEntry core => exact (execInterruptEntry_keeps core hs).of_eq (exec_interruptEntry ..)
  | lockstepMismatch => exact (execLockstepMismatch_keeps hs).of_eq (exec_lockstepMismatch ..)
  | mpuSync landau masters => exact (execMpuSync_keeps landau masters hs).of_eq (exec_mpuSync ..)
  | mpuSyncApply landau => exact (execMpuSyncApply_keeps landau hs).of_eq (exec_mpuSyncApply ..)
  | mpuViolClear landau => exact (execMpuViolClear_keeps landau hs).of_eq (exec_mpuViolClear ..)
  | arbiterDecision arb req => exact (execArbiterDecision_keeps arb req hs).of_eq (exec_arbiterDecision ..)
  | program w => exact (execProgram_keeps w hs).of_eq (exec_program ..)
  | erase w => exact (execErase_keeps w hs).of_eq (exec_erase ..)
  | eraseRange w => exact (execEraseRange_keeps w hs).of_eq (exec_eraseRange ..)
  | check w => exact (execCheck_keeps w hs).of_eq (exec_check ..)
  | retire w => exact (execRetire_keeps w hs).of_eq (exec_retire ..)
  | suspend w => exact (execSuspend_keeps w hs).of_eq (exec_suspend ..)
  | resume w => exact (execResume_keeps w hs).of_eq (exec_resume ..)
  | flashOperationEnd e => exact (execFlashOperationEnd_keeps e hs).of_eq (exec_flashOperationEnd ..)
  | tamperEvent tripsA tripsB => exact (execTamperEvent_keeps tripsA tripsB hs).of_eq (exec_tamperEvent ..)
  | monitorDisagree src => exact (execMonitorDisagree_keeps src hs).of_eq (exec_monitorDisagree ..)
  | loop0Measurement ohms => exact (execLoop0Measurement_keeps ohms hs).of_eq (exec_loop0Measurement ..)
  | loop1Code code late => exact (execLoop1Code_keeps code late hs).of_eq (exec_loop1Code ..)
  | tamperHoldEnd => exact (execTamperHoldEnd_keeps hs).of_eq (exec_tamperHoldEnd ..)
  | zall key => exact (execZall_keeps key hs).of_eq (exec_zall ..)
  | zeroiseAllComplete => exact (execZeroiseAllComplete_keeps hs).of_eq (exec_zeroiseAllComplete ..)
  | bkgen key => exact (execBkgen_keeps key hs).of_eq (exec_bkgen ..)
  | zdone key => exact (execZdone_keeps key hs).of_eq (exec_zdone ..)
  | unlock key => exact (execUnlock_keeps key hs).of_eq (exec_unlock ..)
  | cfgLock => exact (execCfgLock_keeps hs).of_eq (exec_cfgLock ..)
  | tamperSelftest v => exact (execTamperSelftest_keeps v hs).of_eq (exec_tamperSelftest ..)
  | tamperSelftestEnd tripped cleared => exact (execTamperSelftestEnd_keeps tripped cleared hs).of_eq (exec_tamperSelftestEnd ..)
  | tamperForce v => exact (execTamperForce_keeps v hs).of_eq (exec_tamperForce ..)
  | tamperCelllogRead => exact (execTamperCelllogRead_keeps hs).of_eq (exec_tamperCelllogRead ..)
  | faultReport r => exact (execFaultReport_keeps r hs).of_eq (exec_faultReport ..)
  | safeStateCut => exact (execSafeStateCut_keeps hs).of_eq (exec_safeStateCut ..)
  | quietPeriodExpiry cleared => exact (execQuietPeriodExpiry_keeps cleared hs).of_eq (exec_quietPeriodExpiry ..)
  | fcollHeartbeatLoss => exact (execFcollHeartbeatLoss_keeps hs).of_eq (exec_fcollHeartbeatLoss ..)
  | routeTimeout p unit tile => exact (execRouteTimeout_keeps p unit tile hs).of_eq (exec_routeTimeout ..)
  | retireAck key => exact (execRetireAck_keeps key hs).of_eq (exec_retireAck ..)
  | exit key => exact (execExit_keeps key hs).of_eq (exec_exit ..)
  | rclr key => exact (execRclr_keeps key hs).of_eq (exec_rclr ..)
  | fcollForce v => exact (execFcollForce_keeps v hs).of_eq (exec_fcollForce ..)
  | hbmRowRepair stack pc row left uncorr => exact (execHbmRowRepair_keeps stack pc row left uncorr hs).of_eq (exec_hbmRowRepair ..)
  | drawbarLaneSwap dir lane errors => exact (execDrawbarLaneSwap_keeps dir lane errors hs).of_eq (exec_drawbarLaneSwap ..)
  | mergeWindowExpiry => exact (execMergeWindowExpiry_keeps hs).of_eq (exec_mergeWindowExpiry ..)
  | batchProgram => exact (execBatchProgram_keeps hs).of_eq (exec_batchProgram ..)
  | evrecSw v => exact (execEvrecSw_keeps v hs).of_eq (exec_evrecSw ..)
  | evrecFreeze on => exact (execEvrecFreeze_keeps on hs).of_eq (exec_evrecFreeze ..)
  | timekeepSecond => exact (execTimekeepSecond_keeps hs).of_eq (exec_timekeepSecond ..)
  | rtcSet v => exact (execRtcSet_keeps v hs).of_eq (exec_rtcSet ..)
  | oscFail => exact (execOscFail_keeps hs).of_eq (exec_oscFail ..)
  | grantCycle demands => exact (execGrantCycle_keeps demands hs).of_eq (exec_grantCycle ..)
  | grantRefreshLoss d => exact (execGrantRefreshLoss_keeps d hs).of_eq (exec_grantRefreshLoss ..)
  | powerWindow deci => exact (execPowerWindow_keeps deci hs).of_eq (exec_powerWindow ..)
  | thermalReading landau gecko hbms => exact (execThermalReading_keeps landau gecko hbms hs).of_eq (exec_thermalReading ..)
  | pwrarbDomctrl v => exact (execPwrarbDomctrl_keeps v hs).of_eq (exec_pwrarbDomctrl ..)
  | vidAlert good holds => exact (execVidAlert_keeps good holds hs).of_eq (exec_vidAlert ..)
  | railPgFall rail => exact (execRailPgFall_keeps rail hs).of_eq (exec_railPgFall ..)
  | activate port => exact (execActivate_keeps port hs).of_eq (exec_activate ..)
  | exchange port => exact (execExchange_keeps port hs).of_eq (exec_exchange ..)
  | deactivate port => exact (execDeactivate_keeps port hs).of_eq (exec_deactivate ..)
  | warmReset port => exact (execWarmReset_keeps port hs).of_eq (exec_warmReset ..)
  | cardOperationEnd port e => exact (execCardOperationEnd_keeps port e hs).of_eq (exec_cardOperationEnd ..)
  | cardInsertion port => exact (execCardInsertion_keeps port hs).of_eq (exec_cardInsertion ..)
  | cardRemoval port => exact (execCardRemoval_keeps port hs).of_eq (exec_cardRemoval ..)
  | cardOvercurrent port => exact (execCardOvercurrent_keeps port hs).of_eq (exec_cardOvercurrent ..)
  | quorumSessionExpiry => exact (execQuorumSessionExpiry_keeps hs).of_eq (exec_quorumSessionExpiry ..)
  | sdInsertion card initOk => exact (execSdInsertion_keeps card initOk hs).of_eq (exec_sdInsertion ..)
  | sdRemoval afterToken => exact (execSdRemoval_keeps afterToken hs).of_eq (exec_sdRemoval ..)
  | sdhWrite => exact (execSdhWrite_keeps hs).of_eq (exec_sdhWrite ..)
  | sdhRead => exact (execSdhRead_keeps hs).of_eq (exec_sdhRead ..)
  | forceErase key => exact (execForceErase_keeps key hs).of_eq (exec_forceErase ..)
  | setLock => exact (execSetLock_keeps hs).of_eq (exec_setLock ..)
  | sdhUnlock => exact (execSdhUnlock_keeps hs).of_eq (exec_sdhUnlock ..)
  | powerOff => exact (execPowerOff_keeps hs).of_eq (exec_powerOff ..)
  | sdhOperationEnd e => exact (execSdhOperationEnd_keeps e hs).of_eq (exec_sdhOperationEnd ..)
  | fieldAppears => exact (execFieldAppears_keeps hs).of_eq (exec_fieldAppears ..)
  | fieldAbsent => exact (execFieldAbsent_keeps hs).of_eq (exec_fieldAbsent ..)
  | inventory q slots16 len mask afi => exact (execInventory_keeps q slots16 len mask afi hs).of_eq (exec_inventory ..)
  | stayQuiet q => exact (execStayQuiet_keeps q hs).of_eq (exec_stayQuiet ..)
  | readSingleBlock q ext block => exact (execReadSingleBlock_keeps q ext block hs).of_eq (exec_readSingleBlock ..)
  | writeSingleBlock q ext block data w => exact (execWriteSingleBlock_keeps q ext block data w hs).of_eq (exec_writeSingleBlock ..)
  | readMultipleBlocks q ext first count => exact (execReadMultipleBlocks_keeps q ext first count hs).of_eq (exec_readMultipleBlocks ..)
  | writeMultipleBlocks q ext first count data w => exact (execWriteMultipleBlocks_keeps q ext first count data w hs).of_eq (exec_writeMultipleBlocks ..)
  | select q => exact (execSelect_keeps q hs).of_eq (exec_select ..)
  | resetToReady q => exact (execResetToReady_keeps q hs).of_eq (exec_resetToReady ..)
  | getSystemInformation q ext => exact (execGetSystemInformation_keeps q ext hs).of_eq (exec_getSystemInformation ..)
  | tagRequestUnsupported q code mfr => exact (execTagRequestUnsupported_keeps q code mfr hs).of_eq (exec_tagRequestUnsupported ..)
  | ledgerSummaryRead q mfr first count => exact (execLedgerSummaryRead_keeps q mfr first count hs).of_eq (exec_ledgerSummaryRead ..)
  | privacyInventory q mfr slots16 len mask w => exact (execPrivacyInventory_keeps q mfr slots16 len mask w hs).of_eq (exec_privacyInventory ..)
  | serviceIntentWrite q mfr data w => exact (execServiceIntentWrite_keeps q mfr data w hs).of_eq (exec_serviceIntentWrite ..)
  | handlePoolRefill => exact (execHandlePoolRefill_keeps hs).of_eq (exec_handlePoolRefill ..)
  | intentRecording => exact (execIntentRecording_keeps hs).of_eq (exec_intentRecording ..)
  | tagWrite w => exact (execTagWrite_keeps w hs).of_eq (exec_tagWrite ..)
  | tagErase w => exact (execTagErase_keeps w hs).of_eq (exec_tagErase ..)
  | tagOperationEnd e => exact (execTagOperationEnd_keeps e hs).of_eq (exec_tagOperationEnd ..)
  | dynamicAddressAssignment addr => exact (execDynamicAddressAssignment_keeps addr hs).of_eq (exec_dynamicAddressAssignment ..)
  | fallbackTimeout => exact (execFallbackTimeout_keeps hs).of_eq (exec_fallbackTimeout ..)
  | mctpPacket p => exact (execMctpPacket_keeps p hs).of_eq (exec_mctpPacket ..)
  | setEndpointId inst op eid => exact (execSetEndpointId_keeps inst op eid hs).of_eq (exec_setEndpointId ..)
  | getEndpointId inst => exact (execGetEndpointId_keeps inst hs).of_eq (exec_getEndpointId ..)
  | getEndpointUuid inst => exact (execGetEndpointUuid_keeps inst hs).of_eq (exec_getEndpointUuid ..)
  | getMctpVersionSupport inst typ => exact (execGetMctpVersionSupport_keeps inst typ hs).of_eq (exec_getMctpVersionSupport ..)
  | getMessageTypeSupport inst => exact (execGetMessageTypeSupport_keeps inst hs).of_eq (exec_getMessageTypeSupport ..)
  | getVendorDefinedMessageSupport inst sel => exact (execGetVendorDefinedMessageSupport_keeps inst sel hs).of_eq (exec_getVendorDefinedMessageSupport ..)
  | status msg => exact (execStatus_keeps msg hs).of_eq (exec_status ..)
  | sbLedgerRead msg => exact (execSbLedgerRead_keeps msg hs).of_eq (exec_sbLedgerRead ..)
  | eventRead msg => exact (execEventRead_keeps msg hs).of_eq (exec_eventRead ..)
  | recoveryWrite msg => exact (execRecoveryWrite_keeps msg hs).of_eq (exec_recoveryWrite ..)
  | imageStage msg => exact (execImageStage_keeps msg hs).of_eq (exec_imageStage ..)
  | imageCommit msg => exact (execImageCommit_keeps msg hs).of_eq (exec_imageCommit ..)
  | remeasure msg => exact (execRemeasure_keeps msg hs).of_eq (exec_remeasure ..)
  | sbHostFlashAuth msg ledgerOk => exact (execSbHostFlashAuth_keeps msg ledgerOk hs).of_eq (exec_sbHostFlashAuth ..)
  | sbLifecycle msg ledgerOk => exact (execSbLifecycle_keeps msg ledgerOk hs).of_eq (exec_sbLifecycle ..)
  | quorumCancel msg => exact (execQuorumCancel_keeps msg hs).of_eq (exec_quorumCancel ..)
  | sbUnlock msg => exact (execSbUnlock_keeps msg hs).of_eq (exec_sbUnlock ..)
  | csetReplace msg => exact (execCsetReplace_keeps msg hs).of_eq (exec_csetReplace ..)
  | cardErase msg => exact (execCardErase_keeps msg hs).of_eq (exec_cardErase ..)
  | tagOwnerErase msg => exact (execTagOwnerErase_keeps msg hs).of_eq (exec_tagOwnerErase ..)
  | linkTest msg lock => exact (execLinkTest_keeps msg lock hs).of_eq (exec_linkTest ..)
  | linkResult msg => exact (execLinkResult_keeps msg hs).of_eq (exec_linkResult ..)
  | patternTestStart land v lock => exact (execPatternTestStart_keeps land v lock hs).of_eq (exec_patternTestStart ..)
  | patternTestStop land bits errs => exact (execPatternTestStop_keeps land bits errs hs).of_eq (exec_patternTestStop ..)
  | patternTestEnd bits errs => exact (execPatternTestEnd_keeps bits errs hs).of_eq (exec_patternTestEnd ..)
  | sidebSend v => exact (execSidebSend_keeps v hs).of_eq (exec_sidebSend ..)
  | sidebRxdataRead => exact (execSidebRxdataRead_keeps hs).of_eq (exec_sidebRxdataRead ..)
  | sidebTxdataWrite v => exact (execSidebTxdataWrite_keeps v hs).of_eq (exec_sidebTxdataWrite ..)
  | cardDataAccess port w => exact (execCardDataAccess_keeps port w hs).of_eq (exec_cardDataAccess ..)
  | idcode => exact (execIdcode_keeps hs).of_eq (exec_idcode ..)
  | bypass => exact (execBypass_keeps hs).of_eq (exec_bypass ..)
  | samplePreload => exact (execSamplePreload_keeps hs).of_eq (exec_samplePreload ..)
  | extest => exact (execExtest_keeps hs).of_eq (exec_extest ..)
  | extestPulse => exact (execExtestPulse_keeps hs).of_eq (exec_extestPulse ..)
  | extestTrain => exact (execExtestTrain_keeps hs).of_eq (exec_extestTrain ..)
  | highz => exact (execHighz_keeps hs).of_eq (exec_highz ..)
  | dbgmbox acc => exact (execDbgmbox_keeps acc hs).of_eq (exec_dbgmbox ..)
  | submit => exact (execSubmit_keeps hs).of_eq (exec_submit ..)
  | grant v => exact (execGrant_keeps v hs).of_eq (exec_grant ..)
  | refuse v => exact (execRefuse_keeps v hs).of_eq (exec_refuse ..)
  | debugHalt core => exact (execDebugHalt_keeps core hs).of_eq (exec_debugHalt ..)
  | startupTestEnd src raw at_ => exact (execStartupTestEnd_keeps src raw at_ hs).of_eq (exec_startupTestEnd ..)
  | cellSupplyLoss => exact (execCellSupplyLoss_keeps hs).of_eq (exec_cellSupplyLoss ..)
  | tamperSourceClear src => exact (execTamperSourceClear_keeps src hs).of_eq (exec_tamperSourceClear ..)
  | wcoreCtrlSplit => exact (execWcoreCtrlSplit_keeps hs).of_eq (exec_wcoreCtrlSplit ..)
  | srcEn v => exact (execSrcEn_keeps v hs).of_eq (exec_srcEn ..)

/-- A step keeps the rest of the queue, the canonical forms and the programmed fuses. -/
theorem step_keeps {s : State} (hs : Canonical s) : KeepsR s.pending.tail s.fuse.arr (step s) := by
  cases hq : s.pending with
  | nil =>
    rw [step_nil s hq]
    exact KeepsR.next ⟨hq, hs.1, hs.2, fuseLe_refl _⟩
  | cons c rest =>
    rw [step_cons s hq]
    exact exec_keeps c (Keeps.ofCanonical hs rest)

/-- Settles O6: the fuses are the part of `Keeps` that every step keeps. -/
theorem noStepUnprogramsAFuse : Obligations.NoStepUnprogramsAFuse := by
  unfold Obligations.NoStepUnprogramsAFuse OneWay
  intro s t hs hstep
  exact ((step_keeps hs).out t hstep).fuse

end Sys2Proof.Machine
end

section
/-!
Register writes. What REGISTER_WRITE does in each space its block operand names (O15).
-/
namespace Sys2Proof.Machine

variable {s : State} {blk off n v : Nat}

theorem tlpTaken_of_no_ide (s : State) : tlpTaken s false = true := rfl

theorem tlpTaken_of_ide (s : State) : tlpTaken s true = decide (getF s F.PCIEC_IDE_STATE = 1) := rfl

/-- A 4-byte write that touches no half of a 64-bit register names the register at its offset. -/
theorem wholeWrite_of_reg32 (s : State) (v : Nat) (h : isReg64 blk off = false) (hlow : isReg64 blk (off - 4) = false) :
    wholeWrite s blk off 4 v = (off, v % 2 ^ 32) := by
  simp [wholeWrite, h, hlow]

/-- A write to a powered Gecko register without a row of its own goes by the access codes of its fields. -/
theorem geckoRegWrite_of_plain {fetch : Fin 3} (hup : geckoUp s = true) (hon : ((blkDomain blk).map (domainOn s)).getD true = true)
    (hplain : writeGecko s fetch blk off v = none) : geckoRegWrite s fetch blk off v = dropRequest (writeReg s blk off v) blk := by
  simp [geckoRegWrite, hup, hon, hplain]

/-- The same of a powered Landau register. -/
theorem landauRegWrite_of_plain {sup : Bool} (hup : geckoUp s = true) (hon : ((clusterOf blk).map (domainOn s)).getD true = true)
    (hplain : writeLandau s sup blk off v = none) : landauRegWrite s sup blk off v = writeReg s blk off v := by
  simp [landauRegWrite, hup, hon, hplain]

/-- An aligned 4-byte write of the Sealed supervisor to a 32-bit Gecko register. -/
theorem busWrite_gecko32 (hblk : blk < 0x20) (h : isReg64 blk off = false) (hlow : isReg64 blk (off - 4) = false) :
    busWrite s true 2 blk off 4 v = geckoRegWrite s 2 blk off (v % 2 ^ 32) := by
  simp [busWrite, wholeWrite_of_reg32 s v h hlow, hblk]

/-- An aligned 4-byte write of the Sealed supervisor to a 32-bit Landau register. -/
theorem busWrite_landau32 (hblk : 0x20 ≤ blk) (h : isReg64 blk off = false) (hlow : isReg64 blk (off - 4) = false) :
    busWrite s true 2 blk off 4 v = landauRegWrite s true blk off (v % 2 ^ 32) := by
  simp [busWrite, wholeWrite_of_reg32 s v h hlow, Nat.not_lt.mpr hblk]

/-- REGISTER_WRITE to Gecko or Landau is the bus write of the Sealed supervisor where its size fits and Landau, if named, is reached. -/
theorem execRegisterWrite_software (w : W64) (ide : Bool) (hblk : blk < 0x80) :
    execRegisterWrite blk off ⟨n, w, ide⟩ s
      = .next (if !(n = 4 && off % 4 = 0 || n = 8 && off % 8 = 0 && isReg64 blk off)
            || (0x20 ≤ blk && (!s.drawbar.up || s.power.landau = .unbuilt)) then s
          else thenRelease s (busWrite s true 2 blk off n w.toNat)) := by
  have hcfg : blk ≠ 0xC0 := by omega
  have hbar : ¬ 0x80 ≤ blk := by omega
  simp only [execRegisterWrite, hcfg, hbar, if_false]

/-- REGISTER_WRITE of four aligned bytes to Gecko, or to Landau where its drawbar is up and it is built, is a bus write. -/
theorem execRegisterWrite_bus (w : W64) (ide : Bool) (hblk : blk < 0x80) (hoff : off % 4 = 0)
    (hreach : 0x20 ≤ blk → s.drawbar.up = true ∧ s.power.landau ≠ .unbuilt) :
    execRegisterWrite blk off ⟨4, w, ide⟩ s = .next (thenRelease s (busWrite s true 2 blk off 4 w.toNat)) := by
  have hland : (0x20 ≤ blk && (!s.drawbar.up || s.power.landau = .unbuilt)) = false := by
    by_cases hl : 0x20 ≤ blk
    · simp [hl, hreach hl]
    · simp [hl]
  simp [execRegisterWrite_software w ide hblk, hoff, hland]

/-- REGISTER_WRITE of the host's to BAR0 of a function: its IDE stream must be Secure where it came on one. -/
theorem execRegisterWrite_bar0 (w : W64) (ide : Bool) (hblk : 0x80 ≤ blk) (hcfg : blk ≠ 0xC0) :
    execRegisterWrite blk off ⟨n, w, ide⟩ s = .next (if tlpTaken s ide then hostWrite s (blk - 0x80) off n w.toNat else s) := by
  simp [execRegisterWrite, hcfg, hblk]

/-- REGISTER_WRITE to Gecko or Landau at an offset its size does not fit, or of 8 bytes to a 32-bit register, changes nothing. -/
theorem execRegisterWrite_misfit (w : W64) (ide : Bool) (hblk : blk < 0x80)
    (hfit : off % 4 ≠ 0 ∨ (n ≠ 4 ∧ n ≠ 8) ∨ (n = 8 ∧ isReg64 blk off = false)) :
    execRegisterWrite blk off ⟨n, w, ide⟩ s = .next s := by
  have hno : (n = 4 && off % 4 = 0 || n = 8 && off % 8 = 0 && isReg64 blk off) = false := by
    rcases hfit with h | ⟨h4, h8⟩ | ⟨h8, h64⟩
    · have : off % 8 ≠ 0 := by omega
      simp [h, this]
    · simp [h4, h8]
    · simp [h8, h64]
  simp [execRegisterWrite_software w ide hblk, hno]

/-- REGISTER_WRITE to Landau with the drawbar down or Landau unbuilt changes nothing. -/
theorem execRegisterWrite_unreached (w : W64) (ide : Bool) (hlo : 0x20 ≤ blk) (hhi : blk < 0x80)
    (hland : s.drawbar.up = false ∨ s.power.landau = .unbuilt) : execRegisterWrite blk off ⟨n, w, ide⟩ s = .next s := by
  have hno : (0x20 ≤ blk && (!s.drawbar.up || s.power.landau = .unbuilt)) = true := by
    rcases hland with h | h <;> simp [hlo, h]
  simp [execRegisterWrite_software w ide hhi, hno]

/-- Settles O15: one clause for each space of the block operand. -/
theorem registerWriteCompletes : Obligations.RegisterWriteCompletes := by
  unfold Obligations.RegisterWriteCompletes
  simp only [exec_registerWrite]
  refine ⟨?gecko, ?landau, ?bar0, ?config, ?misfit, ?unreached⟩
  case gecko =>
    intro blk off v ide s hblk _ hoff h hlow hup hon hplain
    have hreach : 0x20 ≤ blk → s.drawbar.up = true ∧ s.power.landau ≠ .unbuilt := fun hl => absurd hblk (by omega)
    rw [execRegisterWrite_bus v ide (by omega) hoff hreach, busWrite_gecko32 hblk h hlow, geckoRegWrite_of_plain hup hon hplain]
  case landau =>
    intro blk off v ide s hlo hhi hoff h hlow hup hdrawbar hbuilt hon hplain
    rw [execRegisterWrite_bus v ide hhi hoff fun _ => ⟨hdrawbar, hbuilt⟩, busWrite_landau32 hlo h hlow,
      landauRegWrite_of_plain hup hon hplain]
  case bar0 =>
    intro blk off n v s hblk hcfg
    rw [execRegisterWrite_bar0 v false hblk hcfg, execRegisterWrite_bar0 v true hblk hcfg]
    simp [tlpTaken_of_no_ide, tlpTaken_of_ide]
  case config =>
    intro off n v ide s
    rfl
  case misfit =>
    intro blk off n v ide s hblk hfit
    exact execRegisterWrite_misfit v ide hblk hfit
  case unreached =>
    intro blk off n v ide s hlo hhi hland
    exact execRegisterWrite_unreached v ide hlo hhi hland

end Sys2Proof.Machine
end

section
/-!
Answering. What the shared guards of the commands give once the part they name answers.
-/
namespace Sys2Proof.Machine

variable {s t : State}

/-- With Gecko powered, an effect that needs it takes place. -/
theorem whenGecko_of_up (hup : geckoUp s = true) : whenGecko s t = .next t := by simp [whenGecko, hup]

/-- With Landau's structure running, an effect that needs it takes place. -/
theorem whenLandau_of_up (hup : landauUp s = true) : whenLandau s t = .next t := by simp [whenLandau, hup]

/-- With Gecko and the drawbar up, a STRUCT_CTRL command with its key takes place (R92). -/
theorem structKeyed_of_up (hup : geckoUp s = true) (hdrawbar : s.drawbar.up = true) : structKeyed 0x4B59 s t = .next t := by
  simp [structKeyed, hup, hdrawbar]

end Sys2Proof.Machine
end

section
/-!
Drains and amendments. A drain starts, ends or cuts the routes on its part; an amendment is committed and checked (O19).
-/
namespace Sys2Proof.Machine

variable {s : State} {p : Part}

/-- STRUCT_DRAIN with GO is refused while a drain or an amendment is in progress (R97, R99). -/
theorem execStructDrain_in_progress {v : W32} (hup : geckoUp s = true) (hland : landauUp s = true) (hgo : v.toNat.testBit 31 = true)
    (hbusy : s.struct.drain.isSome = true ∨ getF s F.STRUCT_STATUS_STATE = 5) :
    execStructDrain v s = .next (structError s ⟨0x82, 0, 0⟩) := by
  simp only [execStructDrain, hup, hland, hgo, hbusy, and_self, if_true, Bool.not_true, Bool.false_eq_true, if_false]

/-- With nothing in progress, STRUCT_DRAIN with GO of a class that has no drain is refused (R98 for class 4). -/
theorem execStructDrain_other_class {v : W32} (hup : geckoUp s = true) (hland : landauUp s = true) (hgo : v.toNat.testBit 31 = true)
    (hdrain : s.struct.drain = none) (hstate : getF s F.STRUCT_STATUS_STATE ≠ 5)
    (hcls : F.STRUCT_DRAIN_CLASS.ofWord v.toNat = 0 ∨ 3 < F.STRUCT_DRAIN_CLASS.ofWord v.toNat) :
    execStructDrain v s = .next (structError s ⟨0x80, 0, 0⟩) := by
  simp only [execStructDrain, hup, hland, hgo, hdrain, hstate, gt_iff_lt, hcls, and_self, or_self, if_true, Bool.not_true,
    Option.isSome_none, Bool.false_eq_true, if_false]

/-- A public-key tile's drain starts: GO is set, DONE and CUT are clear, and the tile takes no new route (R97). -/
theorem execStructDrain_starts_pke {v : W32} (hup : geckoUp s = true) (hland : landauUp s = true) (hgo : v.toNat.testBit 31 = true)
    (hdrain : s.struct.drain = none) (hstate : getF s F.STRUCT_STATUS_STATE ≠ 5) (hcls : F.STRUCT_DRAIN_CLASS.ofWord v.toNat = 1) :
    ∃ u, u = setF (setF (setF (setF (setF (setF s F.STRUCT_DRAIN_CLASS 1) F.STRUCT_DRAIN_UNIT (F.STRUCT_DRAIN_UNIT.ofWord v.toNat))
          F.STRUCT_DRAIN_INDEX (F.STRUCT_DRAIN_INDEX.ofWord v.toNat)) F.STRUCT_DRAIN_GO 1) F.STRUCT_DRAIN_DONE 0) F.STRUCT_DRAIN_CUT 0
      ∧ execStructDrain v s = .next { u with struct := { u.struct with
          drain := some ⟨1, F.STRUCT_DRAIN_UNIT.ofWord v.toNat, F.STRUCT_DRAIN_INDEX.ofWord v.toNat⟩
          drained := ⟨1, F.STRUCT_DRAIN_UNIT.ofWord v.toNat, F.STRUCT_DRAIN_INDEX.ofWord v.toNat⟩ :: s.struct.drained } } := by
  refine ⟨_, rfl, ?_⟩
  simp [execStructDrain, hup, hland, hgo, hdrain, hstate, hcls]

/-- A drain whose part runs no route and waits for no self-test ends (R97, R219). -/
theorem execDrainDone_ends (hdrain : s.struct.drain = some p) (hroutes : routesOn s p = []) (htest : partTesting s p = false) :
    execDrainDone s = .next (drainDone s) := by
  simp [execDrainDone, hdrain, hroutes, htest]

/-- A drain's timeout that names a running route and a part that can take it moves the route there and sets CUT; the drain ends when that was the
part's last (R98). -/
theorem execDrainTimeout_restarts {t : TagEntry} {unit tile : Nat} (hdrain : s.struct.drain = some p) (hcls : p.cls ≠ 3)
    (hroute : t ∈ routesOn s p) (hfree : canRestart s p unit tile = true) :
    execDrainTimeout t.tag unit tile s = .next (if routesOn (setF (restartRoute s p t.tag unit tile) F.STRUCT_DRAIN_CUT 1) p = []
      then drainDone (setF (restartRoute s p t.tag unit tile) F.STRUCT_DRAIN_CUT 1)
      else setF (restartRoute s p t.tag unit tile) F.STRUCT_DRAIN_CUT 1) := by
  have hnamed : (routesOn s p).any (fun x => x.tag = t.tag && canRestart s p unit tile) = true :=
    List.any_eq_true.mpr ⟨t, hroute, by simp [hfree]⟩
  simp only [execDrainTimeout, hdrain, hnamed, hcls, if_true, if_false, List.isEmpty_iff]

/-- AMEND_COMMIT is refused while an amendment, a drain or a mode change is in progress (R30, R97, R99). -/
theorem execAmendCommit_in_progress (hup : geckoUp s = true) (hdrawbar : s.drawbar.up = true)
    (hbusy : getF s F.STRUCT_STATUS_STATE = 5 ∨ s.struct.drain.isSome = true ∨ isSet s F.PWRARB_STATUS_MODE_BUSY = true) :
    execAmendCommit 0x4B59 s = .next (structError s ⟨0x82, 0, 0⟩) := by
  rw [execAmendCommit, structKeyed_of_up hup hdrawbar, if_pos hbusy]

/-- AMEND_COMMIT from BUILT of a part of class 1, 2 or 3 appends its retirement to the chain and goes to AMENDING (R97). -/
theorem execAmendCommit_from_built (hup : geckoUp s = true) (hdrawbar : s.drawbar.up = true) (hstate : getF s F.STRUCT_STATUS_STATE = 3)
    (hdrain : s.struct.drain = none) (hmode : isSet s F.PWRARB_STATUS_MODE_BUSY = false)
    {spare : Nat} (hpart : amendPart s = (p, spare)) (hcls : 1 ≤ p.cls ∧ p.cls ≤ 3) :
    execAmendCommit 0x4B59 s = .next (setF (clearStructError (appendRetire s p.cls p.unit p.idx spare)) F.STRUCT_STATUS_STATE 5) := by
  have hidle : ¬ (getF s F.STRUCT_STATUS_STATE = 5 ∨ s.struct.drain.isSome = true ∨ isSet s F.PWRARB_STATUS_MODE_BUSY = true) := by
    simp [hstate, hdrain, hmode]
  rw [execAmendCommit, structKeyed_of_up hup hdrawbar, if_neg hidle, if_pos hstate, hpart]
  simp only [hcls, and_self, if_true]

/-- A check that finds no violation ends with the amendment in force, recorded as an event; STATE reads BUILT (R97). -/
theorem execAmendCheckEnd_applies (hstate : getF s F.STRUCT_STATUS_STATE = 5) (hv : amendViolation s = none) :
    execAmendCheckEnd s
      = .next (setF (retireEvent (amended s) (amendPart s).1.cls (amendPart s).1.unit (amendPart s).1.idx) F.STRUCT_STATUS_STATE 3) := by
  rw [execAmendCheckEnd, if_pos hstate, hv]

/-- A check that finds a violation ends with STRUCT_ERROR showing it and nothing amended; STATE reads BUILT (R97). -/
theorem execAmendCheckEnd_refuses {v : Violation} (hstate : getF s F.STRUCT_STATUS_STATE = 5) (hv : amendViolation s = some v) :
    execAmendCheckEnd s = .next (setF (structError s v) F.STRUCT_STATUS_STATE 3) := by
  rw [execAmendCheckEnd, if_pos hstate, hv]

/-- Settles O19: one clause for each case of the five commands. -/
theorem drainAndAmendCommandsComplete : Obligations.DrainAndAmendCommandsComplete := by
  unfold Obligations.DrainAndAmendCommandsComplete
  simp only [exec_structDrain, exec_drainDone, exec_drainTimeout, exec_amendCommit, exec_amendCheckEnd]
  refine ⟨?starts, ?inProgress, ?otherClass, ?drainEnds, ?timeout, ?commit, ?commitRefused, ?applied, ?violated⟩
  case starts => exact fun _ _ hup hland hgo hdrain hstate hcls => execStructDrain_starts_pke hup hland hgo hdrain hstate hcls
  case inProgress => exact fun _ _ hup hland hgo hbusy => execStructDrain_in_progress hup hland hgo hbusy
  case otherClass => exact fun _ _ hup hland hgo hdrain hstate hcls => execStructDrain_other_class hup hland hgo hdrain hstate hcls
  case drainEnds => exact fun _ _ hdrain hroutes htest => execDrainDone_ends hdrain hroutes htest
  case timeout => exact fun _ _ _ _ _ hdrain hcls hroute hfree => execDrainTimeout_restarts hdrain hcls hroute hfree
  case commit =>
    exact fun _ hup hdrawbar hstate hdrain hmode hlo hhi => execAmendCommit_from_built hup hdrawbar hstate hdrain hmode rfl ⟨hlo, hhi⟩
  case commitRefused => exact fun _ hup hdrawbar hbusy => execAmendCommit_in_progress hup hdrawbar hbusy
  case applied => exact fun _ hstate hv => execAmendCheckEnd_applies hstate hv
  case violated => exact fun _ _ hstate hv => execAmendCheckEnd_refuses hstate hv

end Sys2Proof.Machine
end

section
/-!
Pace, mode and supply. What a pace window, a mode request and its end, the regulator's alerts, the warden cores' split and the sources' enables do
(O16).
-/
namespace Sys2Proof.Machine

variable {s : State}

/-- A pace window publishes the lowest pace, at most 65535; below FLOOR it sets LOW (R20–R23; log entry 52). -/
theorem execPaceWindow_of_lowest {l : List (Nat × Nat)} {d p : Nat} (hup : landauUp s = true) (hlow : lowestPace s l = some (d, p)) :
    execPaceWindow l s = .next (if min 65535 p < getF s F.LSENSE_PACE_FLOOR_FLOOR then paceLow s d (min 65535 p) (publishPace s d (min 65535 p))
      else publishPace s d (min 65535 p)) := by
  rw [execPaceWindow, whenLandau_of_up hup, hlow]
  rfl

/-- A write of PWRARB_MODE with KEY and GO asks for a mode: accepted when its ERR would be 0, else ended at once with ERR (R525). -/
theorem execModeChange_go {v : W32} (hup : geckoUp s = true) (hkey : v.toNat / 65536 = 0x504D) (hgo : v.getLsbD 15 = true) :
    execModeChange v s = .next (if modeErr s (v.toNat % 4) = 0 then beginMode (writeReg s Blk.PWRARB 4 (v.toNat &&& 0x4003)) (v.toNat % 4)
      else setF (setF (writeReg s Blk.PWRARB 4 (v.toNat &&& 0x4003)) F.PWRARB_MODE_ERR (modeErr s (v.toNat % 4))) F.PWRARB_MODE_DONE 1) := by
  simp only [execModeChange, whenGecko_of_up hup, hkey, hgo, bne_self_eq_false, Bool.not_true, Bool.false_eq_true, if_false]

/-- With no route running, an accepted change between modes of one voltage is made (R28). -/
theorem execModeChangeRoutesFinished_same_voltage {mv : BitVec 10} {q : Option (Fin 4)} {m : Nat} (htarget : s.arb.target = some m)
    (hidle : s.qm.tags.any running = false) (hvid : pwVid (powerSec s) m = pwVid (powerSec s) (mode s)) :
    execModeChangeRoutesFinished mv q s = .next (moveMode s m q) := by
  simp [execModeChangeRoutesFinished, htarget, hidle, hvid]

/-- With no route running, a change that moves the voltage is made when the last READ_VOUT is within the target's window, else it fails (R526,
R527). -/
theorem execModeChangeRoutesFinished_new_voltage {mv : BitVec 10} {q : Option (Fin 4)} {m : Nat} (htarget : s.arb.target = some m)
    (hidle : s.qm.tags.any running = false) (hvid : pwVid (powerSec s) m ≠ pwVid (powerSec s) (mode s)) :
    execModeChangeRoutesFinished mv q s = .next (if settled mv.toNat (pwVid (powerSec s) m)
      then moveMode (setF s F.PWRARB_VID_READ_MV mv.toNat) m q else vidModeFail (setF s F.PWRARB_VID_READ_MV mv.toNat) m) := by
  have hmoves : (pwVid (powerSec s) m != pwVid (powerSec s) (mode s)) = true := bne_iff_ne.mpr hvid
  cases hsettled : settled mv.toNat (pwVid (powerSec s) m) <;>
    simp [execModeChangeRoutesFinished, htarget, hidle, hmoves, hsettled]

/-- A regulator that answers and cannot hold VDD_L trips T00 (R527). -/
theorem execVidAlert_trips (hup : geckoUp s = true) : execVidAlert true false s = .next (tamperTrip s 0) := whenGecko_of_up hup

/-- A transaction that fails is recorded in VID, whatever the regulator holds (R527). -/
theorem execVidAlert_fails (h : Bool) (hup : geckoUp s = true) : execVidAlert false h s = .next (raise (setF s F.PWRARB_VID_ERR 1) 2) :=
  whenGecko_of_up hup

/-- Of two healthy sources the second leaves service with its enable, and the first stays (R265). -/
theorem execSrcEn_drops_second {v : W32} (hup : geckoUp s = true) (hon : v.getLsbD 0 = true) (hoff : v.getLsbD 1 = false)
    (hfirst : srcState (writeReg s Blk.RNG 0 v.toNat) 0 = 2) (hsecond : srcState (writeReg s Blk.RNG 0 v.toNat) 1 = 2) :
    execSrcEn v s = .next (serviceRefresh (setSrc (writeReg s Blk.RNG 0 v.toNat) 1 0)) := by
  simp only [execSrcEn, hup, hon, hoff, hfirst, hsecond, Bool.not_true, Bool.not_false, Bool.false_eq_true, Nat.reduceEqDiff, if_true, if_false]

/-- Settles O16: one clause for each case of the seven commands. -/
theorem paceAndModeCommandsComplete : Obligations.PaceAndModeCommandsComplete := by
  unfold Obligations.PaceAndModeCommandsComplete
  simp only [exec_paceWindow, exec_modeChange, exec_modeChangeRoutesFinished, exec_vidAlert, exec_railPgFall, exec_wcoreCtrlSplit, exec_srcEn]
  refine ⟨?pace, ?modeAccepted, ?modeRefused, ?sameVoltage, ?newVoltage, ?vidTrips, ?vidFails, ?railH, ?railL, ?railPE, ?split, ?srcEn⟩
  case pace => exact fun _ _ _ _ hup hlow => execPaceWindow_of_lowest hup hlow
  case modeAccepted =>
    intro v s hup hkey hgo herr
    rw [execModeChange_go hup hkey hgo, if_pos herr]
  case modeRefused =>
    intro v s hup hkey hgo herr
    rw [execModeChange_go hup hkey hgo, if_neg herr]
  case sameVoltage => exact fun _ _ _ _ htarget hidle hvid => execModeChangeRoutesFinished_same_voltage htarget hidle hvid
  case newVoltage => exact fun _ _ _ _ htarget hidle hvid => execModeChangeRoutesFinished_new_voltage htarget hidle hvid
  case vidTrips => exact fun _ hup => execVidAlert_trips hup
  case vidFails => exact fun h _ hup => execVidAlert_fails h hup
  case railH | railL | railPE =>
    intro s hen hpg
    simp [execRailPgFall, hen, hpg]
  case split => exact fun _ => rfl
  case srcEn => exact fun _ _ hup hon hoff hfirst hsecond => execSrcEn_drops_second hup hon hoff hfirst hsecond

end Sys2Proof.Machine
end

section
/-!
Fuse requests. What FUSE_PROGRAM takes, and what FUSE_PROGRAM_DONE programs or refuses (O11, O13).
-/
namespace Sys2Proof.Machine

variable {s : State} {tg ix : Nat}

/-- A request is accepted when its bit has a name, R66 allows it and it is not programmed yet. -/
theorem fuseReason_eq_zero_iff : fuseReason s tg ix = 0
    ↔ fuseNamed s.fuse.shadow tg ix = true ∧ fuseAllowed s tg ix = true ∧ burned s.fuse.shadow tg ix = false := by
  cases hnamed : fuseNamed s.fuse.shadow tg ix with
  | false => simp [fuseReason, hnamed]
  | true =>
    cases hallowed : fuseAllowed s tg ix with
    | false => simp [fuseReason, hnamed, hallowed]
    | true => cases hburned : burned s.fuse.shadow tg ix <;> simp [fuseReason, hnamed, hallowed, hburned]

theorem fuseReason_ne_zero_of_unnamed (h : fuseNamed s.fuse.shadow tg ix = false) : fuseReason s tg ix ≠ 0 := by
  simp [fuseReason_eq_zero_iff, h]

theorem fuseReason_ne_zero_of_not_allowed (h : fuseAllowed s tg ix = false) : fuseReason s tg ix ≠ 0 := by
  simp [fuseReason_eq_zero_iff, h]

/-- Every REASON fits its field. -/
theorem fuseReason_mod : fuseReason s tg ix % 2 ^ F.FUSE_PROG_RESULT_REASON.width = fuseReason s tg ix := by
  refine Nat.mod_eq_of_lt ?_
  unfold fuseReason
  repeat' split
  all_goals decide

/-! ## What R66 and R71 refuse -/

/-- No target above 5 has a bit (R71). -/
theorem fuseNamed_of_reserved (h : 6 ≤ tg) (b : FuseBits) : fuseNamed b tg ix = false := by
  obtain ⟨n, rfl⟩ := Nat.exists_eq_add_of_le' h
  rfl

/-- A counter's bit cannot be asked for before its lower neighbour (R71). -/
theorem fuseNamed_arb_of_gap {b : FuseBits} (hlow : ix % 128 ≠ 0) (hgap : burned b 1 (ix - 1) = false) : fuseNamed b 1 ix = false := by
  simp [fuseNamed, hlow, hgap]

/-- The first bit of RMA, DECOMMISSIONED or a period-1 OWNED or RMA waits for a zeroise-all (R66). -/
theorem fuseAllowed_life_of_no_zall (hpair : ix / 2 = 2 ∨ ix / 2 = 3 ∨ ix / 2 = 4 ∨ ix / 2 = 6)
    (hfirst : lifeReached s.fuse.shadow.life (ix / 2) = false) (hzall : isSet s F.TAMPER_STATUS_ZALL_DONE = false) :
    fuseAllowed s 0 ix = false := by
  rcases hpair with h | h | h | h <;> rw [h] at hfirst <;> simp [fuseAllowed, h, hfirst, hzall]

/-- The first bit of period-1 OWNED is for RMA of period 0 (R66). -/
theorem fuseAllowed_owned1_outside_rma0 (hpair : ix / 2 = 4) (hfirst : lifeReached s.fuse.shadow.life 4 = false)
    (hrma0 : ¬ (lifeState s.fuse.shadow.life = 3 ∧ ownerPeriod s.fuse.shadow.life = 0)) : fuseAllowed s 0 ix = false := by
  simpa [fuseAllowed, hpair, hfirst] using fun _ => not_and.mp hrma0

/-- OWNER_KEY_HASH1 waits for a zeroise-all (R66). -/
theorem fuseAllowed_owner1_of_no_zall (hzall : isSet s F.TAMPER_STATUS_ZALL_DONE = false) : fuseAllowed s 5 ix = false := by
  simp [fuseAllowed, hzall]

/-- OWNER_KEY_HASH1 is for RMA of period 0 (R66). -/
theorem fuseAllowed_owner1_outside_rma0 (hrma0 : ¬ (lifeState s.fuse.shadow.life = 3 ∧ ownerPeriod s.fuse.shadow.life = 0)) :
    fuseAllowed s 5 ix = false := by
  simpa [fuseAllowed] using fun _ => not_and.mp hrma0

/-- OWNER_KEY_HASH0 is for BLANK (R66). -/
theorem fuseAllowed_owner0_outside_blank (hblank : lifeState s.fuse.shadow.life ≠ 0) : fuseAllowed s 2 ix = false := by
  simp [fuseAllowed, hblank]

/-- The other bit of a state that is reached is accepted whatever else holds (R66). -/
theorem fuseReason_second_life_bit (hix : ix < 14) (hreached : lifeReached s.fuse.shadow.life (ix / 2) = true)
    (hclear : s.fuse.shadow.life.getLsbD ix = false) : fuseReason s 0 ix = 0 :=
  fuseReason_eq_zero_iff.mpr ⟨by simp [fuseNamed, hix], by simp [fuseAllowed, hreached], hclear⟩

/-- Programming a lifecycle bit leaves it programmed. -/
theorem burned_burn_life (b : FuseBits) (hix : ix < 14) : burned (burn b 0 ix) 0 ix = true := by
  simp only [burned, burn, BitVec.getLsbD_or, BitVec.getLsbD_ofNat, hix, Nat.testBit_two_pow_self, decide_true, Bool.and_true, Bool.or_true]

/-! ## The end of a request -/

/-- A request that ends with REASON `r`: BUSY clears, and DONE, REFUSED and REASON say how it ended (R71; log entry 76). -/
def fuseEnded (s : State) (r : Nat) : State :=
  setF (setB (setB (setF { s with fuse := { s.fuse with prog := none } } F.FUSE_STATUS_BUSY 0) F.FUSE_PROG_RESULT_DONE (r = 0))
    F.FUSE_PROG_RESULT_REFUSED (r != 0)) F.FUSE_PROG_RESULT_REASON r

@[simp] theorem fuseEnded_fuse (s : State) (r : Nat) : (fuseEnded s r).fuse = { s.fuse with prog := none } := rfl

theorem fuseEnded_only (s : State) (r : Nat) : ∃ g f, fuseEnded s r = { s with regs := g, fuse := f } := ⟨_, _, rfl⟩

@[simp] theorem isSet_fuseEnded_busy (s : State) (r : Nat) : isSet (fuseEnded s r) F.FUSE_STATUS_BUSY = false := by
  simp (disch := decide) only [fuseEnded, setB, isSet_setF_ne, isSet_setF_zero]

@[simp] theorem isSet_fuseEnded_done (s : State) (r : Nat) : isSet (fuseEnded s r) F.FUSE_PROG_RESULT_DONE = decide (r = 0) := by
  cases h : decide (r = 0) <;>
    simp (disch := decide) only [fuseEnded, setB, h, isSet_setF_ne, isSet_setF_one, isSet_setF_zero, if_true, Bool.false_eq_true, if_false]

@[simp] theorem isSet_fuseEnded_refused (s : State) (r : Nat) : isSet (fuseEnded s r) F.FUSE_PROG_RESULT_REFUSED = (r != 0) := by
  cases h : r != 0 <;>
    simp (disch := decide) only [fuseEnded, setB, h, isSet_setF_ne, isSet_setF_one, isSet_setF_zero, if_true, Bool.false_eq_true, if_false]

@[simp] theorem getF_fuseEnded_reason (s : State) (r : Nat) :
    getF (fuseEnded s r) F.FUSE_PROG_RESULT_REASON = r % 2 ^ F.FUSE_PROG_RESULT_REASON.width := getF_setF_same ..

/-- FUSE_PROGRAM_DONE programs the bit of a request without a REASON to refuse it, and ends the request. -/
theorem execFuseProgramDone_accepts (hprog : s.fuse.prog = some (tg, ix)) (h : fuseReason s tg ix = 0) :
    execFuseProgramDone s = .next (fuseEnded (burnBit s tg ix) 0) := by
  simp only [execFuseProgramDone, hprog, h, if_true, fuseEnded]

/-- FUSE_PROGRAM_DONE ends a request that has a REASON against it. -/
theorem execFuseProgramDone_refuses (hprog : s.fuse.prog = some (tg, ix)) (h : fuseReason s tg ix ≠ 0) :
    execFuseProgramDone s = .next (fuseEnded s (fuseReason s tg ix)) := by
  simp only [execFuseProgramDone, hprog, h, if_false, fuseEnded]

/-- With a REASON the end is the statement's refused one. -/
theorem fuseEnded_of_ne_zero (s : State) {r : Nat} (h : r ≠ 0) : fuseEnded s r = fuseRefused s r := by
  have hrefused : (r != 0) = true := bne_iff_ne.mpr h
  simp only [fuseEnded, fuseRefused, h, hrefused, decide_false]

/-- An accepted request programs its bit in the array and in the shadow, and is over. -/
theorem fuseEnded_burnBit_fuse (s : State) (tg ix r : Nat) : (fuseEnded (burnBit s tg ix) r).fuse
    = { s.fuse with arr := burn s.fuse.arr tg ix, shadow := burn s.fuse.shadow tg ix, prog := none } := by
  obtain ⟨g, h⟩ := burnBit_only s tg ix
  rw [fuseEnded_fuse, h]

theorem fuseEnded_burnBit_only (s : State) (tg ix r : Nat) : ∃ g f, fuseEnded (burnBit s tg ix) r = { s with regs := g, fuse := f } := by
  obtain ⟨g, h⟩ := burnBit_only s tg ix
  rw [h]
  exact fuseEnded_only _ _

/-- Settles O13: each refusal is a bit without a name or one R66 does not allow; a second lifecycle bit has neither against it. -/
theorem fuseControllerRefusals : Obligations.FuseControllerRefusals := by
  unfold Obligations.FuseControllerRefusals
  simp only [exec_fuseProgramDone]
  refine ⟨?refused, ?second⟩
  case refused =>
    intro s tg ix hprog hcase
    have hreason : fuseReason s tg ix ≠ 0 := by
      rcases hcase with h | ⟨rfl, hlow, hgap⟩ | ⟨rfl, hpair, hfirst, hzall⟩ | ⟨rfl, hzall⟩ | ⟨rfl, hblank⟩ | ⟨rfl | ⟨rfl, hpair, hfirst⟩, hrma0⟩
      · exact fuseReason_ne_zero_of_unnamed (fuseNamed_of_reserved h _)
      · exact fuseReason_ne_zero_of_unnamed (fuseNamed_arb_of_gap hlow hgap)
      · exact fuseReason_ne_zero_of_not_allowed (fuseAllowed_life_of_no_zall hpair hfirst hzall)
      · exact fuseReason_ne_zero_of_not_allowed (fuseAllowed_owner1_of_no_zall hzall)
      · exact fuseReason_ne_zero_of_not_allowed (fuseAllowed_owner0_outside_blank hblank)
      · exact fuseReason_ne_zero_of_not_allowed (fuseAllowed_owner1_outside_rma0 hrma0)
      · exact fuseReason_ne_zero_of_not_allowed (fuseAllowed_owned1_outside_rma0 hpair hfirst hrma0)
    refine ⟨_, execFuseProgramDone_refuses hprog hreason, rfl, ?_, ?_, ?_⟩
    · simp [hreason]
    · rw [getF_fuseEnded_reason, fuseReason_mod]
      exact hreason
    · simp [hreason]
  case second =>
    intro s ix hprog hix hreached hclear
    refine ⟨_, execFuseProgramDone_accepts hprog (fuseReason_second_life_bit hix hreached hclear), ?_, isSet_fuseEnded_done _ 0⟩
    rw [fuseEnded_burnBit_fuse]
    exact burned_burn_life _ hix

/-- FUSE_PROGRAM with its KEY: refused with REASON 4 while the controller is busy, else held (R71). -/
theorem execFuseProgram_keyed {v : W32} (hup : geckoUp s = true) (hkey : F.FUSE_PROG_CTRL_KEY.ofWord v.toNat = 0xC3) :
    execFuseProgram v s = .next (if isSet s F.FUSE_STATUS_BUSY then setF (setF s F.FUSE_PROG_RESULT_REFUSED 1) F.FUSE_PROG_RESULT_REASON 4
      else setF { s with fuse := { s.fuse with prog := some (F.FUSE_PROG_CTRL_TARGET.ofWord v.toNat, F.FUSE_PROG_CTRL_INDEX.ofWord v.toNat) } }
        F.FUSE_STATUS_BUSY 1) := by
  rw [execFuseProgram, whenGecko_of_up hup, hkey]
  rfl

/-- FUSE_PROGRAM without its KEY changes nothing (R71). -/
theorem execFuseProgram_without_key {v : W32} (hkey : F.FUSE_PROG_CTRL_KEY.ofWord v.toNat ≠ 0xC3) : execFuseProgram v s = .next s := by
  simp [execFuseProgram, whenGecko, hkey]

/-- Settles O11: the request's three answers, and its two ends. -/
theorem fuseCommandsComplete : Obligations.FuseCommandsComplete := by
  unfold Obligations.FuseCommandsComplete
  simp only [exec_fuseProgram, exec_fuseProgramDone]
  refine ⟨?taken, ?busy, ?noKey, ?programmed, ?refused⟩
  case taken =>
    intro v s hup hkey hidle
    rw [execFuseProgram_keyed hup hkey, hidle]
    rfl
  case busy =>
    intro v s hup hkey hbusy
    rw [execFuseProgram_keyed hup hkey, hbusy]
    rfl
  case noKey => exact fun _ _ hkey => execFuseProgram_without_key hkey
  case programmed =>
    intro s tg ix hprog h
    exact ⟨_, execFuseProgramDone_accepts hprog h, fuseEnded_burnBit_fuse .., isSet_fuseEnded_busy .., isSet_fuseEnded_done _ 0,
      isSet_fuseEnded_refused _ 0, getF_fuseEnded_reason _ 0, fuseEnded_burnBit_only ..⟩
  case refused =>
    intro s tg ix hprog h
    rw [execFuseProgramDone_refuses hprog h, fuseEnded_of_ne_zero _ h]

end Sys2Proof.Machine
end

section
/-!
Lifecycle and bring-up. What the lifecycle fuse word says (O12), and the legs of the bring-up up to the release of the Open world (O8, O9).
-/
namespace Sys2Proof.Machine

variable {s : State}

/-! ## The lifecycle fuse word (R62) -/

theorem lifeState_of_decommissioned {w : BitVec 14} (h : lifeReached w 3 = true) : lifeState w = 4 := by simp [lifeState, h]

/-- Short of DECOMMISSIONED, a period-1 state reached puts period 1 in force. -/
theorem ownerPeriod_of_period1 {w : BitVec 14} (h : lifeReached w 3 = false)
    (h1 : (lifeReached w 4 || lifeReached w 5 || lifeReached w 6) = true) : ownerPeriod w = 1 := by simp [ownerPeriod, h, h1]

/-- Short of DECOMMISSIONED and of every period-1 state, period 0 is in force. -/
theorem ownerPeriod_of_period0 {w : BitVec 14} (h : lifeReached w 3 = false)
    (h1 : (lifeReached w 4 || lifeReached w 5 || lifeReached w 6) = false) : ownerPeriod w = 0 := by simp [ownerPeriod, h, h1]

/-- In period 1 the state is the highest-ranked period-1 state reached. -/
theorem lifeState_of_period1 {w : BitVec 14} (h : lifeReached w 3 = false)
    (h1 : (lifeReached w 4 || lifeReached w 5 || lifeReached w 6) = true) :
    lifeState w = if lifeReached w 6 then 3 else if lifeReached w 5 then 2 else 1 := by
  cases h6 : lifeReached w 6 with
  | true => simp only [lifeState, h, h6, Bool.false_eq_true, if_true, if_false]
  | false =>
    cases h5 : lifeReached w 5 with
    | true => simp only [lifeState, h, h6, h5, Bool.false_eq_true, if_true, if_false]
    | false =>
      have h4 : lifeReached w 4 = true := by simpa only [h6, h5, Bool.or_false] using h1
      simp only [lifeState, h, h6, h5, h4, Bool.false_eq_true, if_true, if_false]

/-- In period 0 the state is the highest-ranked state reached, BLANK when none is. -/
theorem lifeState_of_period0 {w : BitVec 14} (h : lifeReached w 3 = false)
    (h1 : (lifeReached w 4 || lifeReached w 5 || lifeReached w 6) = false) :
    lifeState w = if lifeReached w 2 then 3 else if lifeReached w 1 then 2 else if lifeReached w 0 then 1 else 0 := by
  obtain ⟨⟨h4, h5⟩, h6⟩ : (lifeReached w 4 = false ∧ lifeReached w 5 = false) ∧ lifeReached w 6 = false := by simpa using h1
  simp only [lifeState, h, h4, h5, h6, Bool.false_eq_true, if_false]

/-- Settles O12: the ranking, the period, and what the fuse load shows of them. -/
theorem lifecycleStateFollowsTheFuses : Obligations.LifecycleStateFollowsTheFuses := by
  unfold Obligations.LifecycleStateFollowsTheFuses
  refine ⟨?reached, ?decommissioned, ?period1, ?period0, ?shown⟩
  case reached => exact fun _ _ => Bool.or_eq_true_iff
  case decommissioned => exact fun _ h => lifeState_of_decommissioned h
  case period1 => exact fun _ h h1 => ⟨ownerPeriod_of_period1 h h1, lifeState_of_period1 h h1⟩
  case period0 => exact fun _ h h1 => ⟨ownerPeriod_of_period0 h h1, lifeState_of_period0 h h1⟩
  case shown => exact fun s => ⟨getF_loadFuseRegs_period s, getF_loadFuseRegs_state s, rfl⟩

/-! ## The legs of the bring-up (R44–R54) -/

/-- The relay's hold ends once no source of response RESET or above is tripped; the Gecko leg goes on from step 3 (R466). -/
theorem execTamperHoldEnd_held {p : PowerGood} (hphase : s.power.phase = .held) (hstart : s.power.start = some p) :
    execTamperHoldEnd s = .next (if stillHolds s then s else geckoRest (setF s F.TAMPER_STATUS_HOLD 0) p) := by
  simp only [execTamperHoldEnd, hphase, hstart]

/-- In DECOMMISSIONED the host leg reads no image and holds the host (R67). -/
theorem execHostLeg_decommissioned (h : HostLegIn) (hup : geckoUp s = true) (hphase : s.power.phase = .sealed) (hlife : life (hostLegStart s) = 4) :
    execHostLeg h s = .next (setHold { hostLegStart s with power := { (hostLegStart s).power with phase := .noImage } } true) := by
  simp only [execHostLeg, whenGecko_of_up hup, hphase, hlife, bne_self_eq_false, Bool.false_eq_true, if_true, if_false]

/-- After the Sealed world started the host leg picks an image, and measures the host under its map; one that Sealed firmware refuses does not
reach Gecko's registers (R48, R93). -/
theorem execHostLeg_of_image (h : HostLegIn) {i : Image} (hup : geckoUp s = true) (hphase : s.power.phase = .sealed)
    (hlife : life (hostLegStart s) ≠ 4) (himage : (pickImage (hostLegStart s) h).image = some i) :
    execHostLeg h s = .next (startMeasure (if geckoRefuses (pickImage (hostLegStart s) h) i.bytes then pickImage (hostLegStart s) h
      else applyGecko (pickImage (hostLegStart s) h) i.bytes) i.bytes h) := by
  simp only [execHostLeg, whenGecko_of_up hup, hphase, hlife, himage, bne_self_eq_false, Bool.false_eq_true, if_false]

/-- Without an image Landau stays unbuilt (R50). -/
theorem execHostLeg_of_no_image (h : HostLegIn) (hup : geckoUp s = true) (hphase : s.power.phase = .sealed)
    (hlife : life (hostLegStart s) ≠ 4) (himage : (pickImage (hostLegStart s) h).image = none) :
    execHostLeg h s = .next (noImage (pickImage (hostLegStart s) h) h.ledgerOk) := by
  simp only [execHostLeg, whenGecko_of_up hup, hphase, hlife, himage, bne_self_eq_false, Bool.false_eq_true, if_false]

/-- The Landau leg of an unlocked device runs from step 1 once an image is in force and no reset waits (R51, R474). -/
theorem execLandauLeg_of_unbuilt (l : LandauIn) (hup : geckoUp s = true) (himage : s.image.isSome = true) (hreset : s.power.pendReset = false)
    (hphase : s.power.phase = .measuring ∨ s.power.phase = .hostDone) (hland : s.power.landau = .unbuilt) :
    execLandauLeg l s = .next (landauFrom1 s l) := by
  have hnone : s.image.isNone = false := Option.isNone_eq_false_iff.mpr himage
  have hwait : (s.image.isNone || s.power.pendReset || !(s.power.phase = .measuring || s.power.phase = .hostDone)) = false := by
    rcases hphase with h | h <;> simp [hnone, hreset, h]
  simp only [execLandauLeg, whenGecko_of_up hup, hwait, hland, Bool.false_eq_true, if_false]

/-- A failure of step 1 ends the construction (R54). -/
theorem landauFrom1_of_step1_fails {l : LandauIn} {s1 : State} (hlocked : isSet s F.TAMPER_STATUS_LOCKED = false)
    (h1 : landauStep1 s l = (s1, false)) : landauFrom1 s l = buildFailed s1 l.ledgerOk := by
  simp only [landauFrom1, hlocked, h1, Bool.false_eq_true, if_false]

/-- Steps 1 and 2 done, the leg goes on from step 3. -/
theorem landauFrom1_of_steps {l : LandauIn} {s1 s2 : State} (hlocked : isSet s F.TAMPER_STATUS_LOCKED = false)
    (h1 : landauStep1 s l = (s1, true)) (h2 : landauStep2 s1 l = (s2, true)) : landauFrom1 s l = landauFrom3 s2 l := by
  simp only [landauFrom1, hlocked, h1, h2, Bool.false_eq_true, if_false]

/-- Step 3 done in one, the leg goes on from step 4. -/
theorem landauFrom3_of_step {l : LandauIn} {s3 : State} (hrows : l.byRows = false) (h3 : landauStep3 s = (s3, true)) :
    landauFrom3 s l = landauFrom4 s3 l := by
  simp only [landauFrom3, hrows, h3, Bool.false_and, Bool.false_eq_true, if_false]

/-- Step 4 done and the generator serving, step 5 follows, and steps 6 and 7 outside RMA (R67; log entry 46). -/
theorem landauFrom4_of_step {l : LandauIn} {s4 : State} (h4 : landauStep4 (loadCode s l.code) l = (s4, true)) (hrng : rngServes s4 28 1 = true) :
    landauFrom4 s l = if life (landauStep5 s4 l) = 3 then deviceRecord (landauStep5 s4 l) 3 l.ledgerOk else landauStep67 (landauStep5 s4 l) l := by
  simp only [landauFrom4, h4, hrng, Bool.not_true, Bool.false_eq_true, if_false]

/-- Settles O8: one clause for each way a leg goes. -/
theorem bringUpStepsComplete : Obligations.BringUpStepsComplete := by
  unfold Obligations.BringUpStepsComplete
  simp only [exec_tamperHoldEnd, exec_hostLeg, exec_landauLeg]
  refine ⟨?holdEnd, ?applied, ?refused, ?noImage, ?decommissioned, ?built, ?failed⟩
  case holdEnd => exact fun _ _ hphase hstart => execTamperHoldEnd_held hphase hstart
  case applied =>
    intro h s i hup hphase hlife himage haccepted
    rw [execHostLeg_of_image h hup hphase hlife himage, haccepted]
    rfl
  case refused =>
    intro h s i hup hphase hlife himage hrefused
    rw [execHostLeg_of_image h hup hphase hlife himage, hrefused]
    rfl
  case noImage => exact fun h _ hup hphase hlife himage => execHostLeg_of_no_image h hup hphase hlife himage
  case decommissioned => exact fun h _ hup hphase hlife => execHostLeg_decommissioned h hup hphase hlife
  case built =>
    intro l s s1 s2 s3 s4 hup himage hreset hphase hland hlocked h1 h2 hrows h3 h4 hrng
    rw [execLandauLeg_of_unbuilt l hup himage hreset hphase hland, landauFrom1_of_steps hlocked h1 h2, landauFrom3_of_step hrows h3,
      landauFrom4_of_step h4 hrng]
  case failed =>
    intro l s s1 hup himage hreset hphase hland hlocked h1
    rw [execLandauLeg_of_unbuilt l hup himage hreset hphase hland, landauFrom1_of_step1_fails hlocked h1]

/-- Settles O9: the two answers of the write by OPEN_FW_OK. -/
theorem openReleaseNeedsOpenFwOk : Obligations.OpenReleaseNeedsOpenFwOk := by
  unfold Obligations.OpenReleaseNeedsOpenFwOk
  simp only [exec_sysctlReleaseOpen, execSysctlReleaseOpen]
  refine ⟨?ignored, ?released⟩
  case ignored =>
    intro v ok s _ hfw
    simp only [whenGecko, hfw, Bool.not_false, Bool.or_true, Bool.true_or, if_true, ite_self]
  case released =>
    intro v ok s hup hopen hfw hclosed
    simp only [whenGecko_of_up hup, hopen, hfw, hclosed, Bool.not_true, Bool.or_self, Bool.false_eq_true, if_false]

end Sys2Proof.Machine
end

section
/-!
Supplies. What the cell's supply and main power leave of the cell domain, the fuses and the queues as they come and go (O7).
-/
namespace Sys2Proof.Machine

variable {s t : State}

/-! ## The cell domain (R473, R507) -/

theorem cellReg_blk_ne_evrec {blk off : Nat} (h : cellReg blk off = true) : blk ≠ 4 := by
  rintro rfl
  simp [cellReg, Blk.SYSCTL, Blk.TAMPER, Blk.TIMEKEEP] at h

/-- What changes the recorder and its registers alone leaves the cell domain at reset. -/
theorem RegsReset.evOnly (h : RegsReset s cellReg) (hev : EvOnly s t) : RegsReset t cellReg :=
  fun f hoff hlo hcell => (hev.reg f (cellReg_blk_ne_evrec hcell) hoff hlo).trans (h f hoff hlo hcell)

/-- Without a supply the cell domain's registers are at reset, and the others as they were. -/
theorem cellLose_regsReset (s : State) : RegsReset (cellLose s) cellReg := by
  intro f hoff hlo hcell
  exact (getF_resetRegs s cellReg f hoff hlo).trans (if_pos hcell)

theorem cellLose_sameRegs (s : State) : SameRegs s (cellLose s) cellReg := by
  intro f hoff hlo hcell
  exact (getF_resetRegs s cellReg f hoff hlo).trans (by rw [hcell]; rfl)

section
variable (s : State)

@[simp] theorem cellLose_fuse : (cellLose s).fuse = s.fuse := rfl
@[simp] theorem cellLose_cfg : (cellLose s).cfg = s.cfg := rfl
@[simp] theorem cellLose_image : (cellLose s).image = s.image := rfl
@[simp] theorem cellLose_qm : (cellLose s).qm = s.qm := rfl
@[simp] theorem cellLose_ev : (cellLose s).ev = s.ev := rfl
@[simp] theorem cellLose_tamper : (cellLose s).tamper = TamperState.init := rfl
@[simp] theorem cellLose_power : (cellLose s).power = { s.power with vbat := false, main := false, hold := false } := rfl
@[simp] theorem cellLose_geckoUp : geckoUp (cellLose s) = geckoUp s := rfl
theorem cellLose_rest : { cellLose s with regs := s.regs, tamper := s.tamper, power := s.power } = s := rfl

end

theorem evLose_only (s : State) : EvOnly s (evLose s) := ((EvOnly.refl s).ev _).evRefresh

theorem cellPowerOn_regsReset (s : State) (vbat main : Bool) : RegsReset (cellPowerOn s vbat main) cellReg :=
  fun f hoff hlo hcell => (getF_regs rfl f).trans ((cellLose_regsReset s).evOnly (evLose_only _) f hoff hlo hcell)

/-- A cell power-on leaves CELL_POR set: its reset value (R60). -/
theorem getF_cellPowerOn_cellPor (s : State) (vbat main : Bool) : getF (cellPowerOn s vbat main) F.SYSCTL_RSTCAUSE_CELL_POR = 1 :=
  cellPowerOn_regsReset s vbat main F.SYSCTL_RSTCAUSE_CELL_POR (by decide) (by decide) (by decide)

theorem cellPowerOn_tamper (s : State) (vbat main : Bool) :
    (cellPowerOn s vbat main).tamper = { TamperState.init with cellLoss := true } := rfl
theorem cellPowerOn_power (s : State) (vbat main : Bool) :
    (cellPowerOn s vbat main).power = { s.power with vbat := vbat, main := main, hold := true, causes := 1 } := rfl
theorem cellPowerOn_rest (s : State) (vbat main : Bool) :
    { cellPowerOn s vbat main with regs := s.regs, tamper := s.tamper, power := s.power, ev := s.ev } = s := by
  simp only [cellPowerOn, evLose, evRefresh, setF, cellLose, resetRegs]

theorem execCellPowerOn_of_no_supply {vbat main : Bool} (hdown : cellUp s = false) (hsupply : (vbat || main) = true) :
    execCellPowerOn vbat main s = .next (cellPowerOn s vbat main) := by
  simp only [execCellPowerOn, hdown, hsupply, Bool.not_true, Bool.or_false, Bool.false_eq_true, if_false]

theorem execCellSupplyLoss_without_main (hvbat : s.power.vbat = true) (hdown : geckoUp s = false) :
    execCellSupplyLoss s = .next (cellLose s) := by
  simp only [execCellSupplyLoss, hvbat, hdown, Bool.not_true, Bool.false_eq_true, if_false]

/-- With main power the cell's removal trips T01. -/
theorem execCellSupplyLoss_with_main (hvbat : s.power.vbat = true) (hup : geckoUp s = true) :
    execCellSupplyLoss s = .next (tripDetectors { s with power := { s.power with vbat := false } } 2 2) := by
  simp only [execCellSupplyLoss, hvbat, hup, Bool.not_true, Bool.false_eq_true, if_false, if_true]

/-! ## What the resets leave -/

section
variable (s : State)

@[simp] theorem landauDomainsOff_fuse : (landauDomainsOff s).fuse = s.fuse := by
  simp only [landauDomainsOff, apply_ite State.fuse, setF_fuse, resetRegs_fuse, ite_self]
@[simp] theorem landauDomainsOff_cfg : (landauDomainsOff s).cfg = s.cfg := by
  simp only [landauDomainsOff, apply_ite State.cfg, setF_cfg, resetRegs_cfg, ite_self]
@[simp] theorem landauDomainsOff_tamper : (landauDomainsOff s).tamper = s.tamper := by
  simp only [landauDomainsOff, apply_ite State.tamper, setF_tamper, resetRegs_tamper, ite_self]
@[simp] theorem landauDomainsOff_power : (landauDomainsOff s).power = s.power := by
  simp only [landauDomainsOff, apply_ite State.power, setF_power, resetRegs_power, ite_self]

@[simp] theorem resetLandau_fuse : (resetLandau s).fuse = s.fuse := by
  simp only [resetLandau, closeOpenWorld, railsOff, resetLandauRegs, hbmLost, setF_fuse, resetRegs_fuse, landauDomainsOff_fuse, endInsts_fuse]
@[simp] theorem resetLandau_cfg : (resetLandau s).cfg = s.cfg := by
  simp only [resetLandau, closeOpenWorld, railsOff, resetLandauRegs, hbmLost, setF_cfg, resetRegs_cfg, landauDomainsOff_cfg, endInsts_cfg]
@[simp] theorem resetLandau_tamper : (resetLandau s).tamper = s.tamper := by
  simp only [resetLandau, closeOpenWorld, railsOff, resetLandauRegs, hbmLost, setF_tamper, resetRegs_tamper, landauDomainsOff_tamper, endInsts_tamper]
@[simp] theorem resetLandau_vbat : (resetLandau s).power.vbat = s.power.vbat := by
  simp only [resetLandau, closeOpenWorld, railsOff, resetLandauRegs, hbmLost, setF_power, resetRegs_power, landauDomainsOff_power, endInsts_power]
/-- A Landau reset takes every tag off the table (R128). -/
@[simp] theorem resetLandau_tags : (resetLandau s).qm.tags = [] := by
  simp only [resetLandau, freshQm, QmState.init]

@[simp] theorem cutProg_cfg : (cutProg s).cfg = s.cfg := by obtain ⟨c, a, h, -⟩ := cutProg_only s; rw [h]
@[simp] theorem cutProg_qm : (cutProg s).qm = s.qm := by obtain ⟨c, a, h, -⟩ := cutProg_only s; rw [h]
@[simp] theorem cutProg_tamper : (cutProg s).tamper = s.tamper := by obtain ⟨c, a, h, -⟩ := cutProg_only s; rw [h]
@[simp] theorem cutProg_power : (cutProg s).power = s.power := by obtain ⟨c, a, h, -⟩ := cutProg_only s; rw [h]
/-- Of the fuse array a cut programming changes the bit under way at most (R71; log entry 80). -/
theorem cutProg_arr : (cutProg s).fuse.arr = s.fuse.arr ∨ ∃ g i, s.fuse.prog = some (g, i) ∧ (cutProg s).fuse.arr = burn s.fuse.arr g i := by
  obtain ⟨c, a, h, harr⟩ := cutProg_only s
  rw [h]
  exact harr

variable (por : Bool)

@[simp] theorem resetGecko_image : (resetGecko s por).image = none := by simp only [resetGecko]
@[simp] theorem resetGecko_fuse : (resetGecko s por).fuse = (cutProg (abandonFlash s)).fuse := by simp only [resetGecko, resetRegs_fuse]
@[simp] theorem resetGecko_cfg : (resetGecko s por).cfg = s.cfg := by
  simp only [resetGecko, resetRegs_cfg, cutProg_cfg, abandonFlash_cfg]
@[simp] theorem resetGecko_qm : (resetGecko s por).qm = s.qm := by
  simp only [resetGecko, resetRegs_qm, cutProg_qm, abandonFlash_qm]
@[simp] theorem resetGecko_vbat : (resetGecko s por).power.vbat = s.power.vbat := by
  simp only [resetGecko, resetRegs_power, cutProg_power, abandonFlash_power]
/-- A Gecko reset ends what the tamper controller has under way, and keeps its part of the cell domain. -/
@[simp] theorem resetGecko_tamper : (resetGecko s por).tamper = { s.tamper with selfTest := none, zallRunning := false, resp := 0 } := by
  simp only [resetGecko, resetRegs_tamper, cutProg_tamper, abandonFlash_tamper]

end

/-! ## Main power (R42, R55, R589) -/

/-- What the loss of main power leaves while the cell domain still has its supply. -/
def mainPowerGone (s : State) : State :=
  let u := setF (evLose (resetGecko (resetLandau (noteCause s F.SYSCTL_RSTCAUSE_BROWNOUT)) true)) F.TAMPER_STATUS_HOLD 0
  let u := showTripped { u with tamper := { u.tamper with tripA := u.tamper.tripA &&& 0x1B6, tripB := u.tamper.tripB &&& 0x1B6 } }
  { u with power := { u.power with main := false, mainGood := false, hold := true, skipHold := false } }

section
variable (s : State)

theorem mainPowerGone_vbat : (mainPowerGone s).power.vbat = s.power.vbat := by
  simp only [mainPowerGone, showTripped, setF_power, (evLose_only _).power, resetGecko_vbat, resetLandau_vbat, noteCause]
theorem mainPowerGone_geckoUp : geckoUp (mainPowerGone s) = false := by simp only [geckoUp, mainPowerGone]
theorem mainPowerGone_hold : (mainPowerGone s).power.hold = true := by simp only [mainPowerGone]
theorem mainPowerGone_image : (mainPowerGone s).image = none := by
  simp only [mainPowerGone, showTripped, setF_image, (evLose_only _).image, resetGecko_image]
theorem mainPowerGone_tags : (mainPowerGone s).qm.tags = [] := by
  simp only [mainPowerGone, showTripped, setF_qm, (evLose_only _).qm, resetGecko_qm, resetLandau_tags]
theorem mainPowerGone_fuse : (mainPowerGone s).fuse = (cutProg (abandonFlash (resetLandau (noteCause s F.SYSCTL_RSTCAUSE_BROWNOUT)))).fuse := by
  simp only [mainPowerGone, showTripped, setF_fuse, (evLose_only _).fuse, resetGecko_fuse]
theorem mainPowerGone_cfg : (mainPowerGone s).cfg = s.cfg := by
  simp only [mainPowerGone, showTripped, setF_cfg, (evLose_only _).cfg, resetGecko_cfg, resetLandau_cfg, noteCause]
theorem mainPowerGone_openRecs : (mainPowerGone s).ev.openRecs = [] := by
  simp only [mainPowerGone, showTripped, setF_ev, evLose, evRefresh]
theorem mainPowerGone_staging : (mainPowerGone s).ev.staging = [] := by
  simp only [mainPowerGone, showTripped, setF_ev, evLose, evRefresh]
/-- The battery key, the marks and the cell log stay while the cell domain has a supply (R473). -/
theorem mainPowerGone_tamper : (mainPowerGone s).tamper.bk = s.tamper.bk ∧ (mainPowerGone s).tamper.ackMarks = s.tamper.ackMarks
    ∧ (mainPowerGone s).tamper.cellLog = s.tamper.cellLog := by
  simp only [mainPowerGone, showTripped, setF_tamper, (evLose_only _).tamper, resetGecko_tamper, resetLandau_tamper, noteCause, and_self]
theorem mainPowerGone_arr : (mainPowerGone s).fuse.arr = s.fuse.arr
    ∨ ∃ g i, s.fuse.prog = some (g, i) ∧ (mainPowerGone s).fuse.arr = burn s.fuse.arr g i := by
  have h := cutProg_arr (abandonFlash (resetLandau (noteCause s F.SYSCTL_RSTCAUSE_BROWNOUT)))
  simpa only [mainPowerGone_fuse, abandonFlash_fuse, resetLandau_fuse, noteCause, setF_fuse] using h

/-- Without VBAT the cell domain goes with main power (R473). -/
theorem mainPowerLost_eq : mainPowerLost s = if s.power.vbat then mainPowerGone s else cellLose (mainPowerGone s) := by
  rw [← mainPowerGone_vbat]
  rfl

end

/-- A main power-on: Gecko is powered, the host is held, and MAIN_POR is noted among the causes (R42, R43, R60). -/
theorem mainPowerOn_power (s : State) : geckoUp (mainPowerOn s) = true ∧ (mainPowerOn s).power.hold = true := by
  simp only [geckoUp, mainPowerOn, countBoot, noteCause, showPins, apply_ite State.power, bump_power, setF_power, setB_power, ite_self, and_self]

theorem isSet_noteCause (s : State) (f : Field) : isSet (noteCause s f) f = true := by
  simp only [noteCause, isSet_upd_power, isSet_setF_one]

/-- A counter changes no flag but its own SAT bit and the recorder's. -/
theorem isSet_bump_other (s : State) {cnt sat g : Field} (hev : g.blk ≠ 4) (hoff : g.off < 4194304) (hlo : g.lo < 64) (hcnt : cnt.key ≠ g.key)
    (hsat : sat.key ≠ g.key) : isSet (bump s cnt sat) g = isSet s g := by
  rw [isSet, getF_bump_other s hev hoff hlo hcnt hsat, isSet]

theorem isSet_ite (c : Prop) [Decidable c] (a b : State) (f : Field) : isSet (if c then a else b) f = if c then isSet a f else isSet b f :=
  apply_ite (isSet · f) c a b

theorem isSet_mainPowerOn_mainPor (s : State) : isSet (mainPowerOn s) F.SYSCTL_RSTCAUSE_MAIN_POR = true := by
  unfold mainPowerOn
  dsimp only
  rw [isSet_ite]
  simp (disch := decide) only [countBoot, isSet_bump_other, isSet_noteCause, ite_self]

/-- Settles O7: one clause for each supply that comes or goes. -/
theorem supplyCommandsComplete : Obligations.SupplyCommandsComplete := by
  unfold Obligations.SupplyCommandsComplete
  simp only [exec_cellPowerOn, exec_cellSupplyLoss, exec_mainPowerGoodWithdrawn, exec_mainPowerGood]
  refine ⟨?cellOn, ?cellLost, ?cellTrips, ?withdrawn, ?powerOn, ?afterReset⟩
  case cellOn =>
    intro vbat main s hdown hsupply
    exact ⟨_, execCellPowerOn_of_no_supply hdown hsupply, cellPowerOn_regsReset s vbat main, getF_cellPowerOn_cellPor s vbat main,
      cellPowerOn_tamper s vbat main, cellPowerOn_power s vbat main, cellPowerOn_rest s vbat main⟩
  case cellLost =>
    intro s hvbat hdown
    exact ⟨_, execCellSupplyLoss_without_main hvbat hdown, cellLose_regsReset s, cellLose_sameRegs s, cellLose_tamper s, cellLose_power s,
      cellLose_rest s⟩
  case cellTrips => exact fun _ hvbat hup => execCellSupplyLoss_with_main hvbat hup
  case withdrawn =>
    intro s hup
    refine ⟨mainPowerLost s, by rw [execMainPowerGoodWithdrawn, if_pos hup], ?_⟩
    cases hvbat : s.power.vbat with
    | true =>
      rw [mainPowerLost_eq, if_pos hvbat]
      exact ⟨mainPowerGone_geckoUp s, mainPowerGone_hold s, mainPowerGone_image s, mainPowerGone_tags s, mainPowerGone_openRecs s,
        mainPowerGone_staging s, mainPowerGone_arr s, mainPowerGone_cfg s, fun _ => mainPowerGone_tamper s, nofun⟩
    | false =>
      rw [mainPowerLost_eq, if_neg (by simp [hvbat])]
      simp only [cellLose_geckoUp, cellLose_power, cellLose_image, cellLose_qm, cellLose_ev, cellLose_fuse, cellLose_cfg, cellLose_tamper]
      exact ⟨mainPowerGone_geckoUp s, trivial, mainPowerGone_image s, mainPowerGone_tags s, mainPowerGone_openRecs s,
        mainPowerGone_staging s, mainPowerGone_arr s, mainPowerGone_cfg s, nofun, fun _ => ⟨trivial, cellLose_regsReset _⟩⟩
  case powerOn =>
    intro p s hdown
    obtain ⟨hup, hhold⟩ := mainPowerOn_power s
    exact ⟨by rw [execMainPowerGood, if_neg (by simp [hdown])], hup, isSet_mainPowerOn_mainPor s, hhold⟩
  case afterReset =>
    intro p s hup hoff
    rw [execMainPowerGood, if_pos hup, if_pos hoff]

end Sys2Proof.Machine
end

section
/-!
Loading a structure. What the STRUCT_CTRL commands, the section writes and the end of the checks do in each STATE (O18).
-/
namespace Sys2Proof.Machine

variable {s : State}

/-- A STRUCT_CTRL command with another key changes nothing (R92). -/
theorem structKeyed_of_other_key {t : State} {key : BitVec 16} (hkey : key ≠ 0x4B59) : structKeyed key s t = .next s := by
  rw [structKeyed, if_neg fun h => hkey h.2.2]

/-- STRUCT_BEGIN from EMPTY or FAILED starts a fresh load, with no section selected (R92; log entry 88). -/
theorem execStructBegin_starts (hup : geckoUp s = true) (hdrawbar : s.drawbar.up = true)
    (hstate : getF s F.STRUCT_STATUS_STATE = 0 ∨ getF s F.STRUCT_STATUS_STATE = 4) :
    execStructBegin 0x4B59 s = .next (setF (clearStructError (structFresh s)) F.STRUCT_STATUS_STATE 1) := by
  rw [execStructBegin, structKeyed_of_up hup hdrawbar, if_pos hstate, structFresh]

/-- STRUCT_COMMIT from LOADING goes to CHECKING (R92). -/
theorem execStructCommit_from_loading (hup : geckoUp s = true) (hdrawbar : s.drawbar.up = true) (hstate : getF s F.STRUCT_STATUS_STATE = 1) :
    execStructCommit 0x4B59 s = .next (setF (clearStructError s) F.STRUCT_STATUS_STATE 2) := by
  rw [execStructCommit, structKeyed_of_up hup hdrawbar, if_pos hstate]

/-- STRUCT_COMMIT in another STATE breaks the sequence (R92; log entry 13). -/
theorem execStructCommit_out_of_sequence (hup : geckoUp s = true) (hdrawbar : s.drawbar.up = true) (hstate : getF s F.STRUCT_STATUS_STATE ≠ 1) :
    execStructCommit 0x4B59 s = .next (structSequence s) := by
  rw [execStructCommit, structKeyed_of_up hup hdrawbar, if_neg hstate]

/-- STRUCT_ABANDON from LOADING drops the load and goes to EMPTY (R92). -/
theorem execStructAbandon_from_loading (hup : geckoUp s = true) (hdrawbar : s.drawbar.up = true) (hstate : getF s F.STRUCT_STATUS_STATE = 1) :
    execStructAbandon 0x4B59 s = .next (setF (structFresh s) F.STRUCT_STATUS_STATE 0) := by
  rw [execStructAbandon, structKeyed_of_up hup hdrawbar, if_pos hstate, structFresh]

/-- STRUCT_ABANDON in another STATE breaks the sequence (R92; log entry 13). -/
theorem execStructAbandon_out_of_sequence (hup : geckoUp s = true) (hdrawbar : s.drawbar.up = true) (hstate : getF s F.STRUCT_STATUS_STATE ≠ 1) :
    execStructAbandon 0x4B59 s = .next (structSequence s) := by
  rw [execStructAbandon, structKeyed_of_up hup hdrawbar, if_neg hstate]

/-- A selector write reads back in STRUCT_SEL. -/
theorem getF_setF_structSel (v : Nat) : getF (setF s F.STRUCT_SEL_TYPE (F.STRUCT_SEL_TYPE.ofWord v)) F.STRUCT_SEL_TYPE = F.STRUCT_SEL_TYPE.ofWord v := by
  rw [getF_setF_same, Field.ofWord, Nat.mod_mod]

/-- A selector write while LOADING opens an empty section of its type and selects it (R92). -/
theorem execStructSelWrite_loading {v : W32} (hup : geckoUp s = true) (hdrawbar : s.drawbar.up = true) (hstate : getF s F.STRUCT_STATUS_STATE = 1) :
    execStructSelWrite v s = .next (setF { s with struct := { s.struct with
        sel := some (F.STRUCT_SEL_TYPE.ofWord v.toNat)
        loading := s.struct.loading ++ [(F.STRUCT_SEL_TYPE.ofWord v.toNat, [])] } } F.STRUCT_SEL_TYPE (F.STRUCT_SEL_TYPE.ofWord v.toNat)) := by
  have hstill : ∀ x, getF (setF s F.STRUCT_SEL_TYPE x) F.STRUCT_STATUS_STATE = 1 := fun x => (getF_setF_ne s x (by decide)).trans hstate
  rw [execStructSelWrite, if_pos ⟨hup, hdrawbar⟩]
  simp only [hstill, if_true]
  rfl

/-- A word goes to the end of the last section, and the sections before it stay. -/
theorem appendWord_concat (l : List (Nat × List W32)) (ty : Nat) (w : List W32) (v : W32) :
    appendWord (l ++ [(ty, w)]) v = l ++ [(ty, w ++ [v])] := by
  induction l with
  | nil => rfl
  | cons a l ih =>
    cases l with
    | nil => rfl
    | cons b l => exact congrArg (a :: ·) ih

/-- A data write while LOADING with a section selected appends its word to the section opened last (R92). -/
theorem execStructDataWrite_appends {v : W32} {l : List (Nat × List W32)} {ty : Nat} {w : List W32} (hup : geckoUp s = true)
    (hdrawbar : s.drawbar.up = true) (hstate : getF s F.STRUCT_STATUS_STATE = 1) (hsel : s.struct.sel.isSome = true)
    (hload : s.struct.loading = l ++ [(ty, w)]) :
    execStructDataWrite v s = .next { s with struct := { s.struct with loading := l ++ [(ty, w ++ [v])] } } := by
  obtain ⟨x, hx⟩ := Option.isSome_iff_exists.mp hsel
  simp only [execStructDataWrite, hup, hdrawbar, hstate, hx, hload, appendWord_concat, and_self, if_true]

/-- A data write in another STATE than LOADING is ignored (R92). -/
theorem execStructDataWrite_ignored {v : W32} (hstate : getF s F.STRUCT_STATUS_STATE ≠ 1) : execStructDataWrite v s = .next s := by
  rw [execStructDataWrite, if_neg fun h => hstate h.2.2]

/-- The sections a load holds when its checks end: the words written to each, as bytes. -/
def loadedSections (s : State) : Sections := s.struct.loading.map fun e => (e.1, wordsToBytes e.2)

/-- With the sequence kept and no violation found, the checks end with the structure in force (R92). -/
theorem execStructCheckEnd_builds {ok : Bool} (hup : geckoUp s = true) (hdrawbar : s.drawbar.up = true) (hstate : getF s F.STRUCT_STATUS_STATE = 2)
    (hseq : s.struct.seqErr = false) (hv : structCheck s (loadedSections s) = none) :
    execStructCheckEnd ok s = .next (applyStruct s (loadedSections s)) := by
  rw [loadedSections] at hv ⊢
  simp [execStructCheckEnd, hup, hdrawbar, hstate, hseq, hv]

/-- With the sequence kept, a violation found ends the checks with FAILED and the image refused (R78, R92). -/
theorem execStructCheckEnd_refuses {ok : Bool} {x : Violation} (hup : geckoUp s = true) (hdrawbar : s.drawbar.up = true)
    (hstate : getF s F.STRUCT_STATUS_STATE = 2) (hseq : s.struct.seqErr = false) (hv : structCheck s (loadedSections s) = some x) :
    execStructCheckEnd ok s = .next (refuseImage (failStruct s x) ok) := by
  rw [loadedSections] at hv
  simp [execStructCheckEnd, hup, hdrawbar, hstate, hseq, hv]

/-- Settles O18: one clause for each case of the six commands. -/
theorem structLoadCommandsComplete : Obligations.StructLoadCommandsComplete := by
  unfold Obligations.StructLoadCommandsComplete
  simp only [exec_structBegin, exec_structCommit, exec_structAbandon, exec_structSelWrite, exec_structDataWrite, exec_structCheckEnd]
  refine ⟨?start, ?fromLoading, ?outOfSequence, ?otherKey, ?select, ?append, ?ignored, ?checked⟩
  case start => exact fun _ hup hdrawbar hstate => execStructBegin_starts hup hdrawbar hstate
  case fromLoading =>
    exact fun _ hup hdrawbar hstate => ⟨execStructCommit_from_loading hup hdrawbar hstate, execStructAbandon_from_loading hup hdrawbar hstate⟩
  case outOfSequence =>
    exact fun _ hup hdrawbar hstate => ⟨execStructCommit_out_of_sequence hup hdrawbar hstate, execStructAbandon_out_of_sequence hup hdrawbar hstate⟩
  case otherKey =>
    exact fun _ _ hkey => ⟨structKeyed_of_other_key hkey, structKeyed_of_other_key hkey, structKeyed_of_other_key hkey⟩
  case select =>
    exact fun v _ hup hdrawbar hstate => ⟨_, execStructSelWrite_loading hup hdrawbar hstate, getF_setF_structSel v.toNat, rfl⟩
  case append => exact fun _ _ _ _ _ hup hdrawbar hstate hsel hload => execStructDataWrite_appends hup hdrawbar hstate hsel hload
  case ignored => exact fun _ _ hstate => execStructDataWrite_ignored hstate
  case checked =>
    intro ok s hup hdrawbar hstate hseq
    split
    next hv => exact execStructCheckEnd_builds hup hdrawbar hstate hseq hv
    next x hv => exact execStructCheckEnd_refuses hup hdrawbar hstate hseq hv

end Sys2Proof.Machine
end

section
/-!
The public-key units outside routes. The comb's refresh and rebuild, the tile self-test, the operations of SPKE and TOKEN_WAIT (O29).
-/
namespace Sys2Proof.Machine

variable {s : State} {n : Fin 16}

/-! ## Comb tables (R202) -/

/-- PKEC_COMB_REFRESH of a powered cluster requests a rebuild (R202). -/
theorem execPkecCombRefresh_requests (hland : landauUp s = true) (hon : clusterOn s 1 n = true) :
    execPkecCombRefresh n s = .next (setF s (F.PKEC_COMB_REFRESH n) 1) := by
  simp [execPkecCombRefresh, hland, hon]

/-- A requested rebuild of a table no route and no self-test uses takes place, outside a mode change (R202). -/
theorem execCombRebuild_rebuilds (hreq : isSet s (F.PKEC_COMB_REFRESH n) = true) (hfree : combBusy s n = false) (hland : landauUp s = true)
    (hmode : isSet s F.PWRARB_STATUS_MODE_BUSY = false) : execCombRebuild n s = .next (combRefresh s n) := by
  simp [execCombRebuild, hreq, hfree, hland, hmode]

/-! ## Tile self-test (R219) -/

/-- PKEC_SELFTEST with GO takes a tile the cluster has off for the test: active or spare, not draining, no other test, its table free (R219). -/
theorem execPkecSelftest_starts {v : W32} {u : State} (hland : landauUp s = true) (hgo : v.getLsbD 31 = true)
    (hu : u = writeReg s (Blk.PKEC + n.val) 8 (v.toNat % 2 ^ 31)) (htile : v.toNat % 16 < 9)
    (hpart : (unitActive u 1 n ||| unitSpare u 1 n).testBit (v.toNat % 16) = true) (htest : getF u (F.PKEC_STATUS_TESTING n) = 0)
    (hdrain : partDrained u 1 n (v.toNat % 16) = false) (hcomb : combFree u n = true) :
    execPkecSelftest n v s = .next (setF (setF (setF u (F.PKEC_SELFTEST_ERR n) 0) (F.PKEC_SELFTEST_GO n) 1) (F.PKEC_STATUS_TESTING n)
      (2 ^ (v.toNat % 16))) := by
  subst hu
  simp only [execPkecSelftest, hland, hgo, Nat.not_le.mpr htile, hpart, htest, hdrain, hcomb, decide_false, bne_self_eq_false,
    Bool.not_true, Bool.or_self, Bool.false_eq_true, if_false]

/-- The test ends once its tile runs no route: DONE, counted where the fault collector asked for it, and a FAIL is reported (R219). -/
theorem execPkeSelftestEnd_ends {i : Nat} (pass : Bool) (htile : lowestSet (getF s (F.PKEC_STATUS_TESTING n)) 9 = some i)
    (hidle : partIdle s 1 n i 0 = true) :
    ∃ u, u = scfTested (setF (setF (setF s (F.PKEC_STATUS_TESTING n) 0) (F.PKEC_SELFTEST_GO n) 0) (F.PKEC_SELFTEST_DONE n) 1) n i pass
      ∧ execPkeSelftestEnd n pass s = .next (if pass then u else faultReport (setF u (F.PKEC_SELFTEST_FAIL n) 1) 0x02 n i) := by
  refine ⟨_, rfl, ?_⟩
  simp only [execPkeSelftestEnd, htile, hidle, Bool.not_true, Bool.false_eq_true, if_false]

/-! ## SPKE (R220, R221) -/

/-- A start takes the parameter block and the operation, unless SPKE is busy (R221). -/
theorem spkeGo_starts (op : Nat) (k : Fin 16) (hup : geckoUp s = true) (hidle : isSet s F.SPKE_STATUS_BUSY = false) :
    ∃ u, u = setF (setF (setF (setF s F.SPKE_CTRL_OP op) F.SPKE_CTRL_SLOT k) F.SPKE_CTRL_GO 1) F.SPKE_STATUS_BUSY 1
      ∧ spkeGo s op k = { (paramBlock u (getF u F.SPKE_PARAM_ADDR)).2 with
          spke := { (paramBlock u (getF u F.SPKE_PARAM_ADDR)).2.spke with
            op := some (op * 16 + k.val, getF u F.SPKE_PARAM_ADDR, (paramBlock u (getF u F.SPKE_PARAM_ADDR)).1) } } := by
  refine ⟨_, rfl, ?_⟩
  simp only [spkeGo, hup, hidle, Nat.mod_eq_of_lt k.isLt, Bool.not_true, Bool.or_self, Bool.false_eq_true, if_false]

theorem spkeGo_busy (op slot : Nat) (hbusy : isSet s F.SPKE_STATUS_BUSY = true) : spkeGo s op slot = s := by
  simp [spkeGo, hbusy]

section
variable {code j a : Nat} {p key : Bytes} {c : Bool}

/-- An operation with no parameter block, its address unaligned or outside SRAM, ends with 11h (R221). -/
theorem execSpkeOperationEnd_without_block (hop : s.spke.op = some (code, a, [])) : execSpkeOperationEnd c s = .next (SpkeDone s 0x11) := by
  simp only [execSpkeOperationEnd, hop, if_true, SpkeDone]

/-- A code of SPKE holds its operation above its slot. -/
theorem spkeCode_op_slot (op : Nat) (hj : j < 16) : (16 * op + j) / 16 = op ∧ (16 * op + j) % 16 = j := by omega

/-- A signature is released to the parameter block when no fault spoilt its check and it passes, and else withheld with 31h (R207, R220). -/
theorem execSpkeOperationEnd_sign {sig : Bytes} {z : State} (hp : p ≠ []) (hj : j < 16) (hkey : spkeSlot s j = some key)
    (hop : s.spke.op = some (16 + j, a, p)) (hsign : spkeSign s key (sliceZ p 0 48) = (sig, z)) :
    execSpkeOperationEnd c s = .next (if c || !signChecks 384 key (sliceZ p 0 48) sig then SpkeDone z 0x31
      else SpkeDone (masterWrite z 4 (a + 0x40) sig) 0) := by
  obtain ⟨hcode, hslot⟩ := spkeCode_op_slot 1 hj
  simp only [execSpkeOperationEnd, hop, hp, hcode, hslot, hkey, hsign, if_false, SpkeDone]

/-- A verification needs a valid point, and answers whether the signature is the point's (R220). Both are read as given though they overlap in
the block (log entry 24). -/
theorem execSpkeOperationEnd_verify (hp : p ≠ []) (hj : j < 16) (hop : s.spke.op = some (32 + j, a, p)) :
    execSpkeOperationEnd c s = .next (SpkeDone s (if ecPointValid 384 (sliceZ p 0x80 97) then
      (if ecdsaVerify 384 (sliceZ p 0x80 97) (sliceZ p 0 48) (sliceZ p 0x40 96) then 0 else 0x32) else 0x30)) := by
  have hcode := (spkeCode_op_slot 2 hj).1
  cases hpoint : ecPointValid 384 (sliceZ p 0x80 97) <;>
    simp [execSpkeOperationEnd, hop, hp, hcode, hpoint, SpkeDone]

/-- The public point of a slot's key goes to the parameter block (R220). -/
theorem execSpkeOperationEnd_publicPoint (hp : p ≠ []) (hj : j < 16) (hkey : spkeSlot s j = some key) (hop : s.spke.op = some (48 + j, a, p)) :
    execSpkeOperationEnd c s = .next (SpkeDone (masterWrite s 4 (a + 0x80) (ecPublic 384 key)) 0) := by
  obtain ⟨hcode, hslot⟩ := spkeCode_op_slot 3 hj
  simp only [execSpkeOperationEnd, hop, hp, hcode, hslot, hkey, if_false, SpkeDone]

/-- An operation that needs a key its slot does not hold ends with 20h (R221). -/
theorem execSpkeOperationEnd_without_key (hp : p ≠ []) (hj : j < 16) (hkey : spkeSlot s j = none)
    (hop : s.spke.op = some (16 + j, a, p) ∨ s.spke.op = some (48 + j, a, p)) : execSpkeOperationEnd c s = .next (SpkeDone s 0x20) := by
  obtain ⟨hsign, hsignSlot⟩ := spkeCode_op_slot 1 hj
  obtain ⟨hpoint, hpointSlot⟩ := spkeCode_op_slot 3 hj
  rcases hop with hop | hop
  · simp only [execSpkeOperationEnd, hop, hp, hsign, hsignSlot, hkey, if_false, SpkeDone]
  · simp only [execSpkeOperationEnd, hop, hp, hpoint, hpointSlot, hkey, if_false, SpkeDone]

end

/-- Settles O29: one clause for each case of the nine commands. -/
theorem publicKeyUnitsComplete : Obligations.PublicKeyUnitsComplete := by
  unfold Obligations.PublicKeyUnitsComplete
  simp only [exec_pkecCombRefresh, exec_combRebuild, exec_pkecSelftest, exec_pkeSelftestEnd, exec_spkeSign, exec_spkeVerify, exec_spkePublicPoint,
    exec_spkeOperationEnd, exec_tokenWait]
  refine ⟨?refresh, ?rebuild, ?testStarts, ?testEnds, ?starts, ?busy, ?sign, ?verify, ?point, ?noKey, ?noBlock, ?wait⟩
  case refresh => exact fun _ _ hland hon => execPkecCombRefresh_requests hland hon
  case rebuild => exact fun _ _ hreq hfree hland hmode => execCombRebuild_rebuilds hreq hfree hland hmode
  case testStarts =>
    exact fun _ _ _ _ hland hgo hu htile hpart htest hdrain hcomb => execPkecSelftest_starts hland hgo hu htile hpart htest hdrain hcomb
  case testEnds => exact fun _ _ pass _ htile hidle => execPkeSelftestEnd_ends pass htile hidle
  case starts => exact fun k _ hup hidle => ⟨rfl, rfl, rfl, fun op => spkeGo_starts op k hup hidle⟩
  case busy =>
    intro k s hbusy
    simp only [execSpkeSign, execSpkeVerify, execSpkePublicPoint, spkeGo_busy _ _ hbusy, and_self]
  case sign =>
    intro j a p key sig s z hp hj hkey hop hsign
    have hend := fun c => execSpkeOperationEnd_sign (c := c) hp hj hkey hop hsign
    refine ⟨fun hgood => ?_, fun hbad => ?_, ?_⟩
    · simp [hend, hgood]
    · simp [hend, hbad]
    · simp [hend]
  case verify => exact fun _ _ _ _ _ hp hj hop => execSpkeOperationEnd_verify hp hj hop
  case point => exact fun _ _ _ _ _ _ hp hj hkey hop => execSpkeOperationEnd_publicPoint hp hj hkey hop
  case noKey => exact fun _ _ _ _ _ hp hj hkey hop => execSpkeOperationEnd_without_key hp hj hkey hop
  case noBlock => exact fun _ _ _ _ hop => execSpkeOperationEnd_without_block hop
  case wait => exact fun _ _ _ => rfl

end Sys2Proof.Machine
end

section
/-!
Queues. Doorbells, fetches, hand-overs, the END of a route, completions and the coalescing timer (O20).
-/
namespace Sys2Proof.Machine

variable {s u : State} {fn qid tag : Nat} {p : QueuePair} {t : TagEntry}

/-! ## Doorbells (R106, R110–R113) -/

section
variable {v : W32} {ide : Bool}

/-- A doorbell write beyond QPS, or on an IDE stream that is not Secure, is dropped (R106, R140). -/
theorem execSqTailDoorbell_dropped (hno : doorbellThere s fn qid = false ∨ tlpTaken s ide = false) :
    execSqTailDoorbell fn qid ⟨v, ide⟩ s = .next s := by
  rcases hno with h | h <;> simp [execSqTailDoorbell, h]

/-- The same of a CQ doorbell. -/
theorem execCqHeadDoorbell_dropped (hno : doorbellThere s fn qid = false ∨ tlpTaken s ide = false) :
    execCqHeadDoorbell fn qid ⟨v, ide⟩ s = .next s := by
  rcases hno with h | h <;> simp [execCqHeadDoorbell, h]

variable (hthere : doorbellThere s fn qid = true) (htaken : tlpTaken s ide = true)
include hthere htaken

/-- An SQ doorbell within the size of its pair moves the tail (R110). -/
theorem execSqTailDoorbell_moves (hp : findPair s fn qid = some p) (hin : v.toNat % 65536 < p.sqSize) :
    execSqTailDoorbell fn qid ⟨v, ide⟩ s = .next (updPair s fn qid (fun p => { p with sqTail := v.toNat % 65536 })) := by
  simp only [execSqTailDoorbell, hthere, htaken, hp, hin, Bool.not_true, Bool.or_self, Bool.false_eq_true, if_false, if_true]

/-- An SQ doorbell of no pair, or past the size of its pair, is recorded (R111). -/
theorem execSqTailDoorbell_invalid
    (hbad : findPair s fn qid = none ∨ ∃ p, findPair s fn qid = some p ∧ p.sqSize ≤ v.toNat % 65536) :
    execSqTailDoorbell fn qid ⟨v, ide⟩ s = .next (badDoorbell s fn qid (v.toNat % 65536) false) := by
  rcases hbad with hnone | ⟨p, hp, hout⟩
  · simp [execSqTailDoorbell, hthere, htaken, hnone]
  · simp [execSqTailDoorbell, hthere, htaken, hp, Nat.not_lt.mpr hout]

/-- A CQ doorbell up to what was posted frees entries (R110, R113). -/
theorem execCqHeadDoorbell_frees (hp : findPair s fn qid = some p) (hin : v.toNat % 65536 < p.cqSize)
    (hposted : ahead p.cqSize p.cqHead (v.toNat % 65536) ≤ ahead p.cqSize p.cqHead p.cqTail) :
    execCqHeadDoorbell fn qid ⟨v, ide⟩ s = .next (updPair s fn qid (fun p => { p with cqHead := v.toNat % 65536 })) := by
  simp only [execCqHeadDoorbell, hthere, htaken, hp, hin, hposted, Bool.not_true, Bool.or_self, Bool.false_eq_true, if_false, and_self,
    if_true]

/-- A CQ doorbell past the size of its pair or past what was posted is recorded (R111, R113). -/
theorem execCqHeadDoorbell_invalid (hp : findPair s fn qid = some p)
    (hbad : p.cqSize ≤ v.toNat % 65536 ∨ ahead p.cqSize p.cqHead p.cqTail < ahead p.cqSize p.cqHead (v.toNat % 65536)) :
    execCqHeadDoorbell fn qid ⟨v, ide⟩ s = .next (badDoorbell s fn qid (v.toNat % 65536) true) := by
  have hno : ¬ (v.toNat % 65536 < p.cqSize ∧ ahead p.cqSize p.cqHead (v.toNat % 65536) ≤ ahead p.cqSize p.cqHead p.cqTail) := by omega
  simp only [execCqHeadDoorbell, hthere, htaken, hp, hno, Bool.not_true, Bool.or_self, Bool.false_eq_true, if_false]

end

/-! ## Fetch and hand-over (R118, R119, R121, R125, R134) -/

section
variable {e : Bytes} (hp : findPair s fn qid = some p) (hok : fetchOk s fn tag p = true)
include hp hok

/-- A read of an entry that fails stops the function (R134). -/
theorem execSqEntryFetch_unread : execSqEntryFetch fn qid tag none s = .next (funcError s fn) := by
  simp [execSqEntryFetch, hp, hok]

variable (hu : u = updPair (noteFetch s fn qid) fn qid (fun x => { x with sqHead := (p.sqHead + 1) % p.sqSize }))
  (ht : t = freshTag u fn qid tag ((p.sqHead + 1) % p.sqSize) (sliceZ e 0 128))
include hu ht

/-- A fetched entry that fails a check of the queue manager completes with its outcome (R121). -/
theorem execSqEntryFetch_fails {o : Outcome} (hbad : queueChecks u fn qid (sliceZ e 0 128) = some o) :
    execSqEntryFetch fn qid tag (some e) s = .next (addTag u { t with commit := .failed, done := some o }) := by
  subst hu ht
  simp [execSqEntryFetch, hp, hok, hbad]

/-- A fetched entry that passes them gets its tag, and meets its window unless its opcode is local (R121, R125). -/
theorem execSqEntryFetch_enters (hgood : queueChecks u fn qid (sliceZ e 0 128) = none) :
    execSqEntryFetch fn qid tag (some e) s
      = .next (if opLocal (seOpcode (sliceZ e 0 128)) then addTag u t else windowCheck u t) := by
  subst hu ht
  simp only [execSqEntryFetch, hp, hok, hgood, Bool.not_true, Bool.false_eq_true, if_false]

end

/-- A waiting command that order, fences and mode changes let through goes to the core (R29, R119). -/
theorem execCommandHandoff_hands (core : Nat) (ht : findTag s tag = some t) (hwait : t.commit = .waiting) (hhere : t.handed = false)
    (hop : 0x10 ≤ seOpcode t.entry) (hord : orderOk s t = true) (hmode : isSet s F.PWRARB_STATUS_MODE_BUSY = false)
    (hdup : t.dupWait = false) : execCommandHandoff tag core s = .next (handOver s t core) := by
  simp [execCommandHandoff, ht, hwait, hhere, Nat.not_lt.mpr hop, hord, hmode, hdup]

/-! ## The END of a route (R123, R133, R196) -/

section
variable {r : RouteAt} {o : Outcome} {e : Effect}

/-- A running route that nothing holds back reaches its END with what it staged (R123). -/
theorem execRouteEnd_ends (l m w : Bool) (ht : findTag s tag = some t) (hrun : running t = true) (hr : t.route = some r)
    (hst : t.staged = some (o, e)) (hgo : endWaits s r e = false) :
    execRouteEnd tag l ⟨m, w⟩ s = .next (routeEnd s t r o e l m w) := by
  simp [execRouteEnd, ht, hrun, hr, hst, hgo, Option.filter]

/-- Output whose write fails gives DMA_ERROR and no effect; else the END gives what its effect gave (R133). -/
theorem endWrites_eq (s : State) (t : TagEntry) (r : RouteAt) (o : Outcome) (e : Effect) (l m w : Bool) :
    endWrites s t r e l m w o
      = if w = false ∧ t.drop = false ∧ (endEffect s t (endBody s r e) l m (endOutcome s t r o)).2.output ≠ [] then
          (s, endResult s t r (outStatus stDMA_ERROR))
        else ((endEffect s t (endBody s r e) l m (endOutcome s t r o)).1,
          endResult (endEffect s t (endBody s r e) l m (endOutcome s t r o)).1 t r
            (endEffect s t (endBody s r e) l m (endOutcome s t r o)).2) := by
  simp [endWrites, and_assoc]

variable {op st : Nat}

/-- INTEGRITY comes before every other status (R196). -/
theorem endStatus_of_integrity (h : r.integrity = true) : endStatus op r st = stINTEGRITY := by
  simp [endStatus, h]

/-- A forced check flag fails a verification and withholds any other result that was OK (R196, R203). -/
theorem endStatus_of_forced (h : r.integrity = false) (hforced : r.forced = true) :
    endStatus op r stOK = if 0x32 ≤ op ∧ op ≤ 0x34 then stVERIFY_FAILED else stSIGN_CHECK_FAILED := by
  simp [endStatus, h, hforced]

/-- With neither, the status is the one the route found: each test of END answers the status it asks for (R196). -/
theorem endStatus_of_found (h : r.integrity = false) (hforced : r.forced = false) : endStatus op r st = st := by
  simp only [endStatus, h, hforced, Bool.false_eq_true, false_or, false_and, or_false]
  split
  case isTrue hst => exact hst.symm
  split
  case isTrue => rfl
  split
  case isTrue hst => exact hst.symm
  split
  case isTrue hst => exact hst.symm
  rfl

end

/-! ## Completion (R113, R116, R117, R134) -/

@[simp] theorem thenLife_next (s : State) : thenLife (.next s) = .next (lifeDue s) := rfl

/-- A completion whose pair has room, held back by neither IDE nor an abort, is written and frees its tag (R113); a failed write stops the
function (R134). -/
theorem rowCompletionPost_posts (writeOk : Bool) {o : Outcome} (ht : findTag s tag = some t) (hdone : t.done = some o)
    (hdrop : t.drop = false) (hp : findPair s t.fn t.qid = some p) (hroom : cqRoom p = true) (hide : ideHolds s = false)
    (habort : abortWaits s t = false) :
    rowCompletionPost tag writeOk s = .next (if writeOk then afterPost (postEntry s t o p) t o else funcError s t.fn) := by
  cases writeOk <;> simp [rowCompletionPost, ht, hdone, hdrop, hp, hroom, hide, habort]

/-- The coalescing timer signals the vector of the completions that wait (R117). -/
theorem execInterruptCoalesceTimer_signals (hp : findPair s fn qid = some p) (hwait : p.unsignalled ≠ 0) (htime : p.coalTime ≠ 0) :
    execInterruptCoalesceTimer fn qid s = .next (signal (updPair s fn qid (fun p => { p with unsignalled := 0 })) fn p.vector) := by
  simp [execInterruptCoalesceTimer, hp, hwait, htime]

/-- Settles O20: one clause for each case of the seven commands, and what the END of a route gives. -/
theorem queueCommandsComplete : Obligations.QueueCommandsComplete := by
  unfold Obligations.QueueCommandsComplete
  simp only [exec_sqTailDoorbell, exec_cqHeadDoorbell, exec_sqEntryFetch, exec_commandHandoff, exec_routeEnd, exec_completionPost,
    exec_interruptCoalesceTimer]
  refine ⟨?sqMoves, ?sqInvalid, ?cqFrees, ?cqInvalid, ?dropped, ?fetch, ?unread, ?hand, ?ends, ?writes, ?status, ?post, ?timer⟩
  case sqMoves => exact fun _ _ _ _ _ _ hthere htaken hp hin => execSqTailDoorbell_moves hthere htaken hp hin
  case sqInvalid => exact fun _ _ _ _ _ hthere htaken hbad => execSqTailDoorbell_invalid hthere htaken hbad
  case cqFrees => exact fun _ _ _ _ _ _ hthere htaken hp hin hposted => execCqHeadDoorbell_frees hthere htaken hp hin hposted
  case cqInvalid => exact fun _ _ _ _ _ _ hthere htaken hp hbad => execCqHeadDoorbell_invalid hthere htaken hp hbad
  case dropped => exact fun _ _ _ _ _ hno => ⟨execSqTailDoorbell_dropped hno, execCqHeadDoorbell_dropped hno⟩
  case fetch =>
    intro fn qid tag e s p hp hok
    refine ⟨_, _, rfl, rfl, ?_⟩
    split
    case h_1 o hbad => exact execSqEntryFetch_fails hp hok rfl rfl hbad
    case h_2 hgood => exact execSqEntryFetch_enters hp hok rfl rfl hgood
  case unread => exact fun _ _ _ _ _ hp hok => execSqEntryFetch_unread hp hok
  case hand => exact fun _ core _ _ ht hwait hhere hop hord hmode hdup => execCommandHandoff_hands core ht hwait hhere hop hord hmode hdup
  case ends => exact fun _ l m w _ _ _ _ _ ht hrun hr hst hgo => execRouteEnd_ends l m w ht hrun hr hst hgo
  case writes => exact fun s t r o e l m w => endWrites_eq s t r o e l m w
  case status =>
    exact fun _ _ _ => ⟨endStatus_of_integrity, fun h hforced hst => hst ▸ endStatus_of_forced h hforced, endStatus_of_found⟩
  case post =>
    intro tag s t o p ht hdone hdrop hp hroom hide habort
    have hpost := fun writeOk => rowCompletionPost_posts writeOk ht hdone hdrop hp hroom hide habort
    simp [execCompletionPost, hpost]
  case timer => exact fun _ _ _ _ hp hwait htime => execInterruptCoalesceTimer_signals hp hwait htime

end Sys2Proof.Machine
end

section
/-!
Admin commands. The admin pair comes up and goes, and each admin command ends its tag (O21).
-/
namespace Sys2Proof.Machine

variable {s : State} {fn tag op : Nat} {t x : TagEntry}

/-! ## The admin pair (R107, R108, R138) -/

section
variable {ide : Bool} (hreach : hostReach s = true) (hfn : fnExists s fn = true) (htaken : tlpTaken s ide = true)
include hreach hfn htaken

theorem execAdminEnable_sets : execAdminEnable ⟨fn, ide⟩ s = .next (setF s (F.ADMIN_CTRL_EN fn) 1) := by
  simp [execAdminEnable, hreach, hfn, htaken]

/-- Clearing EN discards the function, clears RDY and FUNC_ERR, and lets EN be set afresh (R108, R134, R138). -/
theorem execAdminDisable_discards :
    ∃ u, u = clearFuncErr (setF (setF (dropFunction s fn) (F.ADMIN_CTRL_EN fn) 0) (F.ADMIN_STATUS_RDY fn) 0) fn
      ∧ execAdminDisable ⟨fn, ide⟩ s = .next (lifeDue { u with qm := { u.qm with enStale := u.qm.enStale.filter (fun n => n != fn) } }) := by
  refine ⟨_, rfl, ?_⟩
  simp only [execAdminDisable, rowAdminDisable, hreach, hfn, htaken, and_self, if_true, thenLife_next]

end

/-- With EN and Bus Master Enable both 1 and two entries in each queue, the admin pair is live and RDY set (R107). -/
theorem execAdminReady_readies (hreach : hostReach s = true) (hfn : fnExists s fn = true) (hbus : s.qm.busMaster.contains fn = true)
    (hen : isSet s (F.ADMIN_CTRL_EN fn) = true) (hrdy : isSet s (F.ADMIN_STATUS_RDY fn) = false)
    (hasq : 1 ≤ getF s (F.ADMIN_AQSIZE_ASQ fn)) (hacq : 1 ≤ getF s (F.ADMIN_AQSIZE_ACQ fn)) (hp : findPair s fn 0 = none)
    (hfresh : s.qm.enStale.contains fn = false) :
    execAdminReady fn s
      = .next (setF { s with qm := { s.qm with pairs := s.qm.pairs ++ [adminPair s fn] } } (F.ADMIN_STATUS_RDY fn) 1) := by
  simp only [execAdminReady, hreach, hfn, hbus, hen, hrdy, hasq, hacq, hp, hfresh, Option.isNone_none, Bool.not_false, and_self, if_true]

/-- A size below two entries, or an EN that stood when Bus Master Enable was cleared, leaves RDY 0 (R107, R138). -/
theorem execAdminReady_stays
    (hno : getF s (F.ADMIN_AQSIZE_ASQ fn) = 0 ∨ getF s (F.ADMIN_AQSIZE_ACQ fn) = 0 ∨ s.qm.enStale.contains fn = true) :
    execAdminReady fn s = .next s := by
  unfold execAdminReady
  rw [if_neg]
  rintro ⟨_, _, _, _, _, hasq, hacq, _, hfresh⟩
  rcases hno with h | h | h
  · omega
  · omega
  · rw [h] at hfresh
    cases hfresh

/-! ## Serving a tag -/

theorem adminTag_tag (ht : adminTag s tag op = some t) : t.tag = tag :=
  findTag_tag (Option.eq_some_of_filter_eq_some ht)

theorem serveAdmin_of_tag {f : TagEntry → Outcome} (ht : adminTag s tag op = some t) : serveAdmin s tag op f = adminDone s t (f t) := by
  simp [serveAdmin, ht]

/-- An admin command that ends OK has started. -/
theorem adminDone_of_ok {o : Outcome} (hok : o.status = stOK) :
    adminDone s t o = updTag s t.tag (fun x => { x with commit := .started, done := some o }) := by
  simp only [adminDone, hok, if_true]

/-- One that ends with any other status has failed. -/
theorem adminDone_of_bad {o : Outcome} (hbad : o.status ≠ stOK) :
    adminDone s t o = updTag s t.tag (fun x => { x with commit := .failed, done := some o }) := by
  simp only [adminDone, hbad, if_false]

/-- IDENTIFY and GET_STATUS judge the length first, then the buffer's bounds, then the write (R131, R133). -/
theorem bar0Outcome_eq (s : State) (off words : Nat) (w : Bool) (t : TagEntry) :
    bar0Outcome s off words w t = if seOutLen t.entry < 4 * words then { outBad stBAD_LENGTH 0x34 with result := 4 * words }
      else (overLong t.entry).getD (if w then outData 0 (bar0Bytes s t.fn off words) else outStatus stDMA_ERROR) := by
  unfold bar0Outcome
  cases overLong t.entry <;> rfl

/-- NOP completes OK (R131). -/
theorem execNop_admin (ht : adminTag s tag 0 = some t) :
    execNop (.admin tag) s = .next (updTag s t.tag (fun x => { x with commit := .started, done := some (outStatus stOK) })) := by
  simp only [execNop, serveAdmin_of_tag ht]
  rw [adminDone_of_ok rfl]

/-! ## CREATE_QP and DELETE_QP (R131, R132) -/

/-- CREATE_QP with every field in range adds the pair and returns its QID (R131). -/
theorem execCreateQp_adds (ht : adminTag s tag 3 = some t) (hgood : createQpBad s t = none) :
    execCreateQp tag s = .next (updTag { s with qm := { s.qm with pairs := s.qm.pairs ++ [newPair t] } } t.tag
      (fun x => { x with commit := .started, done := some (outResult (seOp t.entry 0x50 2)) })) := by
  simp only [execCreateQp, ht, hgood]
  rw [adminDone_of_ok rfl]

/-- CREATE_QP names its first bad field (R131). -/
theorem execCreateQp_fails {d : Nat} (ht : adminTag s tag 3 = some t) (hbad : createQpBad s t = some d) :
    execCreateQp tag s = .next (updTag s t.tag (fun x => { x with commit := .failed, done := some (outBad stBAD_FIELD d) })) := by
  simp only [execCreateQp, ht, hbad]
  rw [adminDone_of_bad (by decide : stBAD_FIELD ≠ stOK)]

/-- DELETE_QP stops its pair and waits for the pair's commands (R132). -/
theorem execDeleteQp_stops (ht : adminTag s tag 4 = some t) (hq : seOp t.entry 0x40 2 ≠ 0)
    (hp : (findPair s t.fn (seOp t.entry 0x40 2)).isSome = true)
    (hfirst : (findPair s t.fn (seOp t.entry 0x40 2)).bind (fun p => p.deleting) = none) :
    execDeleteQp tag s = .next (updTag (updPair s t.fn (seOp t.entry 0x40 2) (fun p => { p with deleting := some tag, sqTail := p.sqHead })) tag
      (fun x => { x with commit := .started })) := by
  have hthere : ¬ (seOp t.entry 0x40 2 = 0 ∨ (findPair s t.fn (seOp t.entry 0x40 2)).isNone = true) := by
    simp [hq, Option.ne_none_iff_isSome, hp]
  simp only [execDeleteQp, ht, hthere, hfirst, Option.isSome_none, Bool.false_eq_true, if_false]

/-- DELETE_QP of the admin pair or of no pair names QID (R132). -/
theorem execDeleteQp_fails (ht : adminTag s tag 4 = some t)
    (hno : seOp t.entry 0x40 2 = 0 ∨ findPair s t.fn (seOp t.entry 0x40 2) = none) :
    execDeleteQp tag s = .next (adminDone s t (outBad stBAD_FIELD 0x40)) := by
  have hbad : seOp t.entry 0x40 2 = 0 ∨ (findPair s t.fn (seOp t.entry 0x40 2)).isNone = true := hno.imp_right (by simp)
  simp only [execDeleteQp, ht, hbad, if_true]

/-- Once the pair's commands have completed, the pair goes and DELETE_QP ends OK (R132). -/
theorem execDeleteQpComplete_removes {p : QueuePair} (ht : findTag s tag = some t)
    (hp : s.qm.pairs.find? (fun p => p.deleting = some tag) = some p) (hidle : s.qm.tags.any (fun x => x.fn = p.fn && x.qid = p.qid) = false) :
    execDeleteQpComplete tag s
      = .next (updTag { s with qm := { s.qm with pairs := s.qm.pairs.filter (fun x => !(x.fn = p.fn && x.qid = p.qid)) } } t.tag
          (fun x => { x with done := some (outStatus stOK) })) := by
  simp only [execDeleteQpComplete, ht, hp, hidle, Bool.false_eq_true, if_false]

/-! ## ABORT (R129) -/

theorem stillWaits_iff (x : TagEntry) : stillWaits x = true ↔ x.commit = .waiting ∧ x.done = none ∧ seOpcode x.entry ≠ 2 := by
  simp [stillWaits, and_assoc]

/-- An ABORT whose own fields are good, and no duplicate itself, is decided by the table of R129. -/
theorem execAbort_decides (ht : adminTag s tag 2 = some t) (htarget : seOp t.entry 0x40 8 ≠ 0) (hlen : overLong t.entry = none)
    (hdup : t.dupWait = false) : execAbort tag s = .next (abortDecides s t (seDomain t.entry) (seOp t.entry 0x40 8)) := by
  have hsame : { t with dupWait := false } = t := by rw [← hdup]
  simp only [execAbort, ht, hsame, abortEnters, hdup, htarget, hlen, Bool.false_eq_true, if_false]

/-- A target in flight is aborted while it waits, and is too late past its commit point. -/
theorem abortDecides_of_target {d target : Nat} (hx : abortTarget s d target t.tag = some x) :
    abortDecides s t d target = if x.commit = .waiting ∧ x.done = none ∧ seOpcode x.entry ≠ 2 then
      abortEnds (applyAborted s x) t (outResult 1) else abortEnds s t (outStatus stTOO_LATE) := by
  simp only [abortDecides, hx, stillWaits_iff]

/-- A target not here leaves a PRE_ABORTED entry for when it comes. -/
theorem abortDecides_of_absent {d target : Nat} (hx : abortTarget s d target t.tag = none) (hw : winFind s d target = none) :
    abortDecides s t d target = abortEnds (winAdd s d
      { reqId := target, digest := 0, state := .preAborted, status := 0, result := 0, outBytes := 0 }) t (outResult 2) := by
  simp only [abortDecides, hx, hw]

/-- Settles O21: one clause for each case of the ten commands. -/
theorem adminCommandsComplete : Obligations.AdminCommandsComplete := by
  unfold Obligations.AdminCommandsComplete
  simp only [exec_adminEnable, exec_adminReady, exec_adminDisable, exec_nop, exec_identify, exec_abort, exec_createQp, exec_deleteQp,
    exec_deleteQpComplete, exec_getStatus]
  refine ⟨?enable, ?ready, ?stays, ?nop, ?identify, ?status, ?create, ?createBad, ?delete, ?deleteBad, ?deleted, ?abort, ?preAbort⟩
  case enable =>
    exact fun _ _ _ hreach hfn htaken => ⟨execAdminEnable_sets hreach hfn htaken, execAdminDisable_discards hreach hfn htaken⟩
  case ready =>
    exact fun _ _ hreach hfn hbus hen hrdy hasq hacq hp hfresh => execAdminReady_readies hreach hfn hbus hen hrdy hasq hacq hp hfresh
  case stays => exact fun _ _ hno => execAdminReady_stays hno
  case nop => exact fun _ _ _ ht => execNop_admin ht
  case identify => exact fun _ _ _ ht w => by rw [execIdentify, serveAdmin_of_tag ht, bar0Outcome_eq]
  case status => exact fun _ _ _ ht w => by rw [execGetStatus, serveAdmin_of_tag ht, bar0Outcome_eq]
  case create => exact fun _ _ _ ht hgood => execCreateQp_adds ht hgood
  case createBad => exact fun _ _ _ _ ht hbad => execCreateQp_fails ht hbad
  case delete => exact fun _ _ _ ht hq hp hfirst => execDeleteQp_stops ht hq hp hfirst
  case deleteBad => exact fun _ _ _ ht hno => execDeleteQp_fails ht hno
  case deleted => exact fun _ _ _ _ ht hp hidle => execDeleteQpComplete_removes ht hp hidle
  case abort =>
    intro tag s t x ht htarget hlen hdup hx
    rw [← adminTag_tag ht] at hx
    rw [execAbort_decides ht htarget hlen hdup, abortDecides_of_target hx]
  case preAbort =>
    intro tag s t ht htarget hlen hdup hx hw
    rw [← adminTag_tag ht] at hx
    rw [execAbort_decides ht htarget hlen hdup, abortDecides_of_absent hx hw]

end Sys2Proof.Machine
end

section
/-!
Functions and the link. Resets of functions, the bits of configuration space that act as one, DOE and IDE (O22).
-/
namespace Sys2Proof.Machine

variable {s : State} {fn : Nat}

/-! ## Function resets (R136–R138) -/

/-- The PF always exists. -/
@[simp] theorem fnExists_zero (s : State) : fnExists s 0 = true := rfl

/-- A function-level reset of a VF resets that function alone, and ends a pattern test (R136, R578). -/
theorem execFunctionLevelReset_vf (hreach : hostReach s = true) (hfn : fnExists s fn = true) (hvf : fn ≠ 0) :
    execFunctionLevelReset fn s = .next (lifeDue (flr (endPattern s (fun _ => true)) fn)) := by
  simp [execFunctionLevelReset, rowFunctionLevelReset, hreach, hfn, hvf]

/-- One of the PF resets every function (R137). -/
theorem execFunctionLevelReset_pf (hreach : hostReach s = true) :
    execFunctionLevelReset 0 s = .next (lifeDue (clearVfs (flr (endPattern s (fun _ => true)) 0))) := by
  simp [execFunctionLevelReset, rowFunctionLevelReset, hreach]

/-- Clearing VF Enable resets every VF (R137). -/
theorem execVfEnableClear_resets (hreach : hostReach s = true) : execVfEnableClear s = .next (lifeDue (clearVfs s)) := by
  simp [execVfEnableClear, rowVfEnableClear, hreach]

/-- Clearing Bus Master Enable drops the queues of the function and clears RDY; an EN that gave RDY is stale from then on (R138). -/
theorem execBusMasterEnableClear_drops (hreach : hostReach s = true) (hfn : fnExists s fn = true) :
    ∃ u w, u = setF (dropFunction s fn) (F.ADMIN_STATUS_RDY fn) 0
      ∧ w = (if isSet s (F.ADMIN_STATUS_RDY fn) = true ∧ s.qm.enStale.contains fn = false then
          { u with qm := { u.qm with enStale := u.qm.enStale ++ [fn] } } else u)
      ∧ execBusMasterEnableClear fn s
        = .next (lifeDue { w with qm := { w.qm with busMaster := w.qm.busMaster.filter (fun n => n != fn) } }) := by
  refine ⟨_, _, rfl, rfl, ?_⟩
  simp only [execBusMasterEnableClear, rowBusMasterEnableClear, hreach, hfn, and_self, if_true, thenLife_next, Bool.and_eq_true,
    Bool.not_eq_true']

/-! ## DOE and IDE (R139, R140) -/

/-- An object of vendor 1 up to 256 KiB is served by its type: discovery, SPDM, secured SPDM (R139). -/
theorem execDoeDataObject_serves {b : Bytes} (hreach : hostReach s = true) (hlen : b.length ≤ 262144) :
    execDoeDataObject 1 0 b s = .next { s with qm := { s.qm with doeOut := s.qm.doeOut ++ [doeDiscovery (byteAt b 0)] } }
      ∧ execDoeDataObject 1 1 b s = .next (spdmMessage s true b) ∧ execDoeDataObject 1 2 b s = .next (spdmSecured s true b) := by
  have hgo : (!hostReach s || decide (262144 < b.length) || (1 : Nat) != 1) = false := by simp [hreach, Nat.not_lt.mpr hlen]
  simp only [execDoeDataObject, hgo, Bool.false_eq_true, if_false, and_self]

/-- A TLP that fails IDE makes a keyed stream Insecure, is counted and reported (R140). -/
theorem execIdeTlpFailure_insecure (hkeyed : s.qm.ideKeyed = true) (hlink : s.power.dataLink = true) :
    execIdeTlpFailure s
      = .next (bump (setF { s with qm := { s.qm with ideKeyed := false, aerErrs := s.qm.aerErrs + 1 } } F.PCIEC_IDE_STATE 0)
          F.PCIEC_IDE_FAILS F.PCIEC_IDE_SAT) := by
  simp only [execIdeTlpFailure, hkeyed, hlink, and_self, if_true]

/-- Settles O22: one clause for each case of the five commands. -/
theorem functionAndLinkCommandsComplete : Obligations.FunctionAndLinkCommandsComplete := by
  unfold Obligations.FunctionAndLinkCommandsComplete
  simp only [exec_functionLevelReset, exec_vfEnableClear, exec_busMasterEnableClear, exec_doeDataObject, exec_ideTlpFailure]
  refine ⟨?vf, ?pf, ?vfEnable, ?busMaster, ?doe, ?ide⟩
  case vf => exact fun _ _ hreach hfn hvf => execFunctionLevelReset_vf hreach hfn hvf
  case pf => exact fun _ hreach => execFunctionLevelReset_pf hreach
  case vfEnable => exact fun _ hreach => execVfEnableClear_resets hreach
  case busMaster => exact fun _ _ hreach hfn => execBusMasterEnableClear_drops hreach hfn
  case doe => exact fun _ _ hreach hlen => execDoeDataObject_serves hreach hlen
  case ide => exact fun _ hkeyed hlink => execIdeTlpFailure_insecure hkeyed hlink

end Sys2Proof.Machine
end

section
/-!
SPDM. A request on a transport that has negotiated far enough, or inside an established session, gets its answer (O37).
-/
namespace Sys2Proof.Machine

variable {s : State} {d : Bool} {n : Nat}

/-! ## Requests that may be served -/

/-- A request whose transport has negotiated as far as it needs is served. -/
theorem spdmAt_of_now {need : Nat} {f : State → State} (h : SpdmNow s d need) : spdmAt s d need f = f s := by
  obtain ⟨hreach, hstage⟩ := h
  simp [spdmAt, hreach, Nat.not_lt.mpr hstage]

/-- A request of an established session whose MAC holds is served on the session's transport. -/
theorem inSession_of_mac {f : State → Bool → State} (h : SpdmIn s n d) : inSession s n true f = f s d := by
  obtain ⟨hnow, x, hx, hdone, rfl⟩ := h
  simp [inSession, hx, spdmAt_of_now hnow, hdone]

/-- One whose MAC fails ends the session with DecryptError (DSP0277). -/
theorem inSession_of_bad_mac {f : State → Bool → State} (h : SpdmIn s n d) :
    inSession s n false f = spdmSay (spdmDrop s n) d (.error spDecrypt) := by
  obtain ⟨hnow, x, hx, hdone, rfl⟩ := h
  simp [inSession, hx, spdmAt_of_now hnow, hdone]

/-! ## Negotiation, digests and certificates (R305, R306) -/

/-- The algorithms of R306 are agreed where the requester offers them; else the request is invalid. -/
theorem spdmAlgorithms_answers (o : SpdmOffer) (h : SpdmNow s d 2) :
    spdmAlgorithms s d o = if offerCommon o then spdmSay (setSpdmStage s d 3) d .algorithms else spdmSay s d (.error spInvalid) := by
  rw [spdmAlgorithms, spdmAt_of_now h]

/-- GET_CERTIFICATE of slot 0 answers a portion of the chain and what remains (R305). -/
theorem spdmCertificate_portion {off len : Nat} (h : SpdmNow s d 3) (hoff : off < (certChain s).length) :
    spdmCertificate s d 0 off len = spdmSay s d (.certificate (slice (certChain s) off len)
      ((certChain s).length - off - (slice (certChain s) off len).length)) := by
  simp [spdmCertificate, spdmAt_of_now h, Nat.not_le.mpr hoff]

theorem spdmCertificate_other_slot {slot : Nat} (off len : Nat) (h : SpdmNow s d 3) (hslot : slot ≠ 0) :
    spdmCertificate s d slot off len = spdmSay s d (.error spInvalid) := by
  simp [spdmCertificate, spdmAt_of_now h, hslot]

theorem spdmChallenge_other_slot {slot : Nat} (h : SpdmNow s d 3) (hslot : slot ≠ 0) :
    spdmChallenge s d slot = spdmSay s d (.error spInvalid) := by
  simp [spdmChallenge, spdmAt_of_now h, hslot]

/-- A free draw leaves the certificate chain. -/
@[simp] theorem certChain_drawBytes (s : State) (k : Nat) : certChain (drawBytes s k).2 = certChain s := rfl

/-- CHALLENGE answers with the chain's digest and a free signature (R306). -/
theorem spdmChallenge_signs (h : SpdmNow s d 3) :
    spdmChallenge s d 0 = spdmSay (drawBytes s 96).2 d (.challengeAuth (sha384 (certChain s)) (drawBytes s 96).1) := by
  simp [spdmChallenge, spdmAt_of_now h, transcriptSig]

/-! ## Measurements (R307) -/

theorem spdmMeasurements_count (h : SpdmNow s d 3) :
    spdmMeasurements s d 0 false = spdmSay s d (.measurements [(0, 0, leBytes (measAll s).length 1)] []) := by
  rw [spdmMeasurements, spdmAt_of_now h]; rfl

theorem spdmMeasurements_all (h : SpdmNow s d 3) :
    spdmMeasurements s d 0xFF false = spdmSay s d (.measurements (measAll s) []) := by
  rw [spdmMeasurements, spdmAt_of_now h]; rfl

/-- A served index answers its block, with a free signature over the transcript (R306). -/
theorem spdmMeasurements_signed {u : State} {g : Bytes} {b : Nat × Bytes} (h : SpdmNow s d 3) (hg : drawBytes s 96 = (g, u))
    (hzero : n ≠ 0) (hall : n ≠ 0xFF) (hb : measBlock u n = some b) :
    spdmMeasurements s d n true = spdmSay u d (.measurements [(n, b.1, b.2)] g) := by
  simp [spdmMeasurements, spdmAt_of_now h, transcriptSig, hg, hb]

/-- An index not served is invalid. -/
theorem spdmMeasurements_unserved (h : SpdmNow s d 3) (hzero : n ≠ 0) (hall : n ≠ 0xFF) (hb : measBlock s n = none) :
    spdmMeasurements s d n false = spdmSay s d (.error spInvalid) := by
  simp [spdmMeasurements, spdmAt_of_now h, hb]

/-! ## Sessions (R306) -/

section
variable {p : Bytes} (h : SpdmNow s d 3) (hp : p.length = 96)
include h hp

/-- KEY_EXCHANGE opens a session under the next number, with a free exchange key and signature. -/
theorem spdmKeyExchange_opens {u v : State} {k g : Bytes} (hroom : s.spdm.sessions.length < 4) (hk : drawBytes s 96 = (k, u))
    (hg : drawBytes u 96 = (g, v)) :
    spdmKeyExchange s d 0 p = spdmSay { v with spdm := { v.spdm with
        sessions := v.spdm.sessions ++ [{ id := v.spdm.next, doe := d, done := false }], next := v.spdm.next + 1 } }
      d (.keyExchange v.spdm.next k g) := by
  simp only [spdmKeyExchange, spdmAt_of_now h, hp, Nat.not_le.mpr hroom, transcriptSig, hk, hg, bne_self_eq_false, Bool.or_self,
    Bool.false_eq_true, if_false]

/-- A fifth session gets SessionLimitExceeded. -/
theorem spdmKeyExchange_full (hfull : 4 ≤ s.spdm.sessions.length) : spdmKeyExchange s d 0 p = spdmSay s d (.error spSessionLimit) := by
  simp [spdmKeyExchange, spdmAt_of_now h, hp, hfull]

end

section
variable {x : SpdmSession} (hx : spdmFind s n = some x) (hopen : x.done = false) (h : SpdmNow s x.doe 3)
include hx hopen h

/-- FINISH establishes the session it names. -/
theorem spdmFinish_establishes :
    spdmFinish s n true = spdmSay { s with spdm := { s.spdm with
        sessions := s.spdm.sessions.map (fun y => if y.id = n then { y with done := true } else y) } } x.doe .finish := by
  simp [spdmFinish, hx, hopen, spdmAt_of_now h]

/-- A FINISH whose MAC fails ends it. -/
theorem spdmFinish_fails : spdmFinish s n false = spdmSay (spdmDrop s n) x.doe (.error spDecrypt) := by
  simp [spdmFinish, hx, hopen, spdmAt_of_now h]

end

/-- IDE_KM inside a session, over an active link, keys the stream for the ranges it names and makes it Secure (R140). -/
theorem spdmVendor_keys (b : Bytes) (h : SpdmIn s n d) (hlink : s.power.dataLink = true) :
    spdmVendor s n true (some b)
      = spdmSay (setF { s with qm := { s.qm with ideKeyed := true, ideRange := some (ideRangeOf b) } } F.PCIEC_IDE_STATE 1) d .vendorDefined := by
  simp [spdmVendor, inSession_of_mac h, hlink]

/-- Any other vendor-defined request is unsupported. -/
theorem spdmVendor_unsupported (h : SpdmIn s n d) : spdmVendor s n true none = spdmSay s d (.error spUnsupported) := by
  rw [spdmVendor, inSession_of_mac h]

/-- Settles O37: one clause for each answer of the thirteen requests. -/
theorem spdmRequestsAreAnswered : Obligations.SpdmRequestsAreAnswered := by
  unfold Obligations.SpdmRequestsAreAnswered
  simp only [List.forall_mem_cons, List.not_mem_nil, false_imp_iff, implies_true, and_true, exec_getVersion, exec_getCapabilities,
    exec_negotiateAlgorithms, exec_getDigests, exec_getCertificate, exec_challenge, exec_getMeasurements, exec_keyExchange, exec_finish,
    exec_heartbeat, exec_keyUpdate, exec_endSession, exec_vendorDefinedRequest, execGetVersion, execGetCapabilities,
    execNegotiateAlgorithms, execGetDigests, execGetCertificate, execChallenge, execGetMeasurements, execKeyExchange, execFinish,
    execHeartbeat, execKeyUpdate, execEndSession, execVendorDefinedRequest, Host.Outcome.next.injEq]
  refine ⟨?version, ?capabilities, ?algorithms, ?digests, ?certificate, ?otherSlot, ?challenge, ?measurements, ?signed, ?unserved,
    ?opens, ?full, ?finish, ?session, ?badMac⟩
  case version =>
    rintro d s _ h rfl
    rw [spdmVersion, spdmAt_of_now h]
  case capabilities => exact fun _ _ h => by rw [spdmCapabilities, spdmAt_of_now h]
  case algorithms =>
    intro d o s h
    simp +contextual [spdmAlgorithms_answers o h]
  case digests => exact fun _ _ h => by rw [spdmDigests, spdmAt_of_now h]
  case certificate =>
    rintro d off len s _ h hoff rfl
    exact spdmCertificate_portion h hoff
  case otherSlot =>
    exact fun _ _ off len _ h hslot => ⟨spdmCertificate_other_slot off len h hslot, spdmChallenge_other_slot h hslot⟩
  case challenge => exact fun _ _ h => spdmChallenge_signs h
  case measurements => exact fun _ _ h => ⟨spdmMeasurements_count h, spdmMeasurements_all h⟩
  case signed => exact fun _ _ _ _ _ _ h hg hzero hall hb => spdmMeasurements_signed h hg hzero hall hb
  case unserved => exact fun _ _ _ h hzero hall hb => spdmMeasurements_unserved h hzero hall hb
  case opens => exact fun _ _ _ _ _ _ _ h hp hroom hk hg => spdmKeyExchange_opens h hp hroom hk hg
  case full => exact fun _ _ _ h hp hfull => spdmKeyExchange_full h hp hfull
  case finish => exact fun _ _ _ hx hopen h => ⟨spdmFinish_establishes hx hopen h, spdmFinish_fails hx hopen h⟩
  case session =>
    exact fun _ _ _ h => ⟨inSession_of_mac h, inSession_of_mac h, inSession_of_mac h, fun b hlink => spdmVendor_keys b h hlink,
      spdmVendor_unsupported h⟩
  case badMac =>
    exact fun _ _ _ _ h => ⟨inSession_of_bad_mac h, inSession_of_bad_mac h, inSession_of_bad_mac h, inSession_of_bad_mac h⟩

end Sys2Proof.Machine
end

section
/-!
How a command whose checks pass commits: the start of its route leaves its tag STARTED with its answer staged, and all else quiet (R119,
R120, R122).
-/
namespace Sys2Proof.Machine

variable {s u v : State} {t : TagEntry} {r : Run} {op cls rcls : Nat} {a : Outcome × Effect} {o : Outcome} {e : Effect} {c : Instr}
  {P : Outcome → Effect → Prop} {also : Option (Nat × Nat)} {f : State → (Outcome × Effect) × State}
  {checks : TagEntry → List (Option Outcome)} {go : TagEntry → State}

/-! ## Checks and waits that let a command go on -/

theorem Passes.findTag_self {l : List (Option Outcome)} (h : Passes s r op t l) : findTag s t.tag = some t := by
  obtain ⟨hfind, htag, -, -⟩ := readyTag_some h.1
  rw [htag, hfind]

theorem Passes.opcode_eq {l : List (Option Outcome)} (h : Passes s r op t l) : seOpcode t.entry = op := by
  obtain ⟨-, -, -, hop⟩ := readyTag_some h.1
  exact hop

theorem Passes.checked_eq (h : Passes s r op t (checks t)) : checked s r op checks go = .next (go t) := by
  obtain ⟨hready, hrole, hchecks⟩ := h
  exact checked_go hready hrole hchecks

theorem StoreReady.whenRoom_eq {n : Nat} (h : StoreReady s t n) (u : State) : whenRoom s t n u = u := by
  obtain ⟨hwrap, hlog, hroom⟩ := h
  exact whenRoom_go hwrap hlog hroom

theorem StoreReady.whenKeys_eq {n : Nat} (h : StoreReady s t n) (u : State) : whenKeys s t u = u := by
  obtain ⟨hwrap, hlog, -⟩ := h
  exact whenKeys_go hwrap hlog

/-- Only a start on a cipher tile suspends a route (R237). -/
theorem countSusp_of_ne (h : cls ≠ 2) : countSusp s cls r = s := by simp [countSusp, h]

theorem countSusp_self_quiet (s : State) (cls : Nat) (r : Run) : Quiet s (countSusp s cls r) := countSusp_quiet cls r (.refl s)

/-! ## Starts -/

/-- In `u` the command of tag `t` is STARTED with the answer `a` staged; every other tag, and all that is not quiet, is as in `s`. -/
structure StartedWith (s : State) (t : TagEntry) (a : Outcome × Effect) (u : State) : Prop where
  tag : ∃ p, findTag u t.tag = some { t with commit := .started, route := some p, staged := some a, refs := heldBy t }
  others : ∀ j, j ≠ t.tag → findTag u j = findTag s j
  rest : Quiet { s with qm := { s.qm with tags := u.qm.tags } } u

theorem startedWith_of_tagOnly
    (htag : ∃ p, findTag u t.tag = some { t with commit := .started, route := some p, staged := some a, refs := heldBy t })
    (honly : TagOnly s u t.tag) : StartedWith s t a u := by
  obtain ⟨hquiet, hqueues, hothers⟩ := honly
  refine ⟨htag, hothers, ?_⟩
  obtain ⟨⟩ := hquiet
  constructor <;> assumption

/-- What changes quietly after a start leaves the command started. -/
theorem StartedWith.then_quiet (h : StartedWith s t a u) (hv : ∀ z, Quiet z u → Quiet z v) : StartedWith s t a v := by
  have hrest := hv _ h.rest
  have htags : v.qm.tags = u.qm.tags := congrArg (fun q => q.tags) hrest.qm
  have hfind : ∀ j, findTag v j = findTag u j := fun j => by simp only [findTag, htags]
  refine ⟨?_, fun j hj => (hfind j).trans (h.others j hj), htags ▸ hrest⟩
  rw [hfind]
  exact h.tag

/-- Free values drawn before a start do not show in what it leaves. -/
theorem StartedWith.after_draws {n : Nat} (h : StartedWith { s with freeCtr := n } t a u) : StartedWith s t a u := by
  obtain ⟨htag, hothers, hrest⟩ := h
  refine ⟨htag, hothers, ?_⟩
  obtain ⟨⟩ := hrest
  constructor <;> assumption

theorem StartedWith.staged (h : StartedWith s t (o, e) u) (hP : P o e) : Staged s t P u := by
  obtain ⟨p, hp⟩ := h.tag
  exact ⟨p, o, e, hp, hP, h.others, _, _, _, _, _, _, _, _, _, h.rest.eq⟩

/-- A command whose checks pass commits what it is started with. -/
theorem Passes.commits (hp : Passes s r op t (checks t)) (hx : exec c s = checked s r op checks go) (hs : StartedWith s t (o, e) (go t))
    (hP : P o e) : Commits c s t P :=
  ⟨go t, hx.trans hp.checked_eq, hs.staged hP⟩

theorem startIn_answers {w : Nat} (hf : findTag s t.tag = some t) (hc : canStartIn s t w cls r rcls also = true)
    (ha : f (countSusp s cls r) = (a, v)) (hq : Quiet s v) : StartedWith s t a (startIn s t r w cls rcls also f) := by
  obtain ⟨htag, honly⟩ := startIn_starts hf hc (f := f) (by rw [ha]; exact ⟨hq⟩)
  rw [ha] at htag
  exact startedWith_of_tagOnly htag honly

theorem startOn_answers (hf : findTag s t.tag = some t) (hc : canStart s t cls r rcls = true) (ha : f (countSusp s cls r) = (a, v))
    (hq : Quiet s v) : StartedWith s t a (startOn s t r cls rcls f) := startIn_answers hf hc ha hq

theorem startPke_answers {comb : Bool} (hf : findTag s t.tag = some t) (hc : canStartIn s t (tagWorld s t) 1 r rcls also = true)
    (hcomb : comb = true → combFree s r.unit = true ∧ r.sramCorr = 0 ∧ r.sramUncorr = false) (ha : f s = (a, v)) (hq : Quiet s v) :
    StartedWith s t a (startPke s t r rcls comb also f) := by
  have ha' : f (countSusp s 1 r) = (a, v) := by rw [countSusp_of_ne (by decide), ha]
  obtain ⟨htag, honly⟩ := startPke_starts (f := f) hf hc (fun h => (hcomb h).1) (fun h => (hcomb h).2.1) (fun h => (hcomb h).2.2)
    (by rw [ha']; exact ⟨hq⟩)
  rw [ha'] at htag
  exact startedWith_of_tagOnly htag honly

/-- A command served by one part of a class commits what its route answers. -/
theorem Passes.commits_on (hp : Passes s r op t (checks t)) (hx : exec c s = checked s r op checks go)
    (hgo : go t = startOn s t r cls rcls f) (hc : canStart s t cls r rcls = true) (ha : f (countSusp s cls r) = ((o, e), v)) (hq : Quiet s v)
    (hP : P o e) : Commits c s t P :=
  hp.commits hx (by rw [hgo]; exact startOn_answers hp.findTag_self hc ha hq) hP

/-- One served with no tile commits what it answers; it suspends no route. -/
theorem Passes.commits_core (hp : Passes s r op t (checks t)) (hx : exec c s = checked s r op checks go)
    (hgo : go t = startOn s t r 3 0 f) (hc : canStart s t 3 r 0 = true) (ha : f s = ((o, e), v)) (hq : Quiet s v)
    (hP : P o e) : Commits c s t P :=
  hp.commits_on hx hgo hc (by rw [countSusp_of_ne (by decide), ha]) hq hP

end Sys2Proof.Machine
end

section
/-!
The key-management rows. What KEY_GENERATE, KEY_IMPORT, KEY_EXPORT, KEY_DELETE, KEY_INFO, KEY_RESTRICT, PUBKEY_ENROLL and PUBKEY_READ stage
once their checks pass (O23).
-/
namespace Sys2Proof.Machine

variable {s : State} {t : TagEntry} {r : Run}

/-! ## Generation (R185, R216) -/

/-- What the generation of a symmetric key stages: no output, the draft in the slot of KEY_A. -/
theorem genStage_symmetric {e body : Bytes} (h : isAsym (seOp e 0x40 1) = false) :
    genStage e body false = (outData 0 [], .putKey (hSlot (seKeyA e)) (draftObj e (seOp e 0x40 1) (seOp e 0x42 2) (seOp e 0x48 8) 1 body)) := by
  simp [genStage, h]

/-- What the generation of an asymmetric key stages when its check succeeds: the public key, and the draft in the slot of KEY_A. -/
theorem genStage_asymmetric {e body : Bytes} {k : KeyObj} (h : isAsym (seOp e 0x40 1) = true)
    (hk : k = draftObj e (seOp e 0x40 1) (seOp e 0x42 2) (seOp e 0x48 8) 1 body) :
    genStage e body false = (outData 0 (pubOf k), .putKey (hSlot (seKeyA e)) k) := by
  simp [genStage, h, hk]

theorem not_rsa_of_isAsym_false {n : Nat} (h : isAsym n = false) : n ≠ 0x20 := by
  rintro rfl
  exact absurd h (by decide)

theorem isAsym_of_isEcPriv {n : Nat} (h : isEcPriv n = true) : isAsym n = true := by simp [isAsym, isEc, h]

theorem not_rsa_of_isEcPriv {n : Nat} (h : isEcPriv n = true) : n ≠ 0x20 := by
  rintro rfl
  exact absurd h (by decide)

theorem not_rsa_of_isEcPub {n : Nat} (h : isEcPub n = true) : n ≠ 0x28 := by
  rintro rfl
  exact absurd h (by decide)

/-- A generated elliptic-curve body is a scalar followed by its public point (R213). -/
theorem genEc_body (s : State) (r : Run) (n : Nat) : ∃ d, (genEc s r n).1 = d ++ ecPublic (ecCurve n) d := ⟨_, rfl⟩

theorem drawMany_only (w n : Nat) (s : State) : ∃ c, (drawMany s w n).2 = { s with freeCtr := c } := by
  induction n generalizing s with
  | zero => exact ⟨s.freeCtr, rfl⟩
  | succ n ih =>
    obtain ⟨c, hc⟩ := ih (draw s w).2
    exact ⟨c, hc⟩

theorem primeAttempt_only (w : Nat) (held : List Nat) (s : State) : ∃ c, (primeAttempt w held s).2 = { s with freeCtr := c } := by
  obtain ⟨c, hc⟩ := drawMany_only w (mrRounds w) (draw s w).2
  exact ⟨c, hc⟩

theorem primeRuns_only (w n : Nat) (held : List Nat) (s : State) : ∃ c, (primeRuns w n held s).2 = { s with freeCtr := c } := by
  induction n generalizing held s with
  | zero => exact ⟨s.freeCtr, rfl⟩
  | succ n ih =>
    rw [primeRuns]
    split
    · exact ⟨s.freeCtr, rfl⟩
    · obtain ⟨c, hc⟩ := primeAttempt_only w held s
      obtain ⟨d, hd⟩ := ih (primeAttempt w held s).1 (primeAttempt w held s).2
      exact ⟨d, by rw [hd, hc]⟩

/-- The attempts of an RSA generation draw free values and change nothing else (R216). -/
theorem rsaGenerate_only (s : State) (n : Nat) : ∃ c, (rsaGenerate s n).2 = { s with freeCtr := c } := primeRuns_only _ _ _ s

/-- An RSA key whose attempts gave a body that passes its checks is started with that body (R216; log entry 95). -/
theorem goRsaGenerate_starts {v : State} {body : Bytes} {k : KeyObj} (hf : findTag s t.tag = some t) (hty : seOp t.entry 0x40 1 = 0x20)
    (hcheck : r.check = false) (hgen : rsaGenerate s (seOp t.entry 0x42 2) = (some body, v))
    (hk : k = draftObj t.entry 0x20 (seOp t.entry 0x42 2) (seOp t.entry 0x48 8) 1 body) (hok : rsaKeyOk k = true)
    (hc : canStartIn s t (tagWorld s t) 1 r (pkeClass 0x20 (seOp t.entry 0x42 2)) (some (0x10, 0)) = true) :
    StartedWith s t (outData 0 (pubOf k), .putKey (hSlot (seKeyA t.entry)) k) (goRsaGenerate r s t) := by
  obtain ⟨c, hv⟩ := rsaGenerate_only s (seOp t.entry 0x42 2)
  rw [hgen] at hv
  rw [goRsaGenerate]
  simp only [hc, Bool.not_true, Bool.false_eq_true, if_false, hgen, ← hk, hok, hcheck, Bool.or_false]
  rw [genStage_asymmetric (k := k) (by rw [hty]; decide) (by rw [hty]; exact hk), show v = { s with freeCtr := c } from hv]
  refine StartedWith.after_draws (n := c) (startPke_answers ?_ ?_ (by simp) rfl ?_)
  · exact hf
  · exact hc
  · exact blindTile_quiet _ _ (rsaBlinding_quiet _ (.refl _))

/-! ## Reads and uses of a key (R171, R610) -/

/-- A record that verifies answers so, and its read only caches nodes of its tree. -/
theorem readRecord_verified {h : Nat} {l : List MemFail} (hread : (readRecord s h l).1 = true) :
    ∃ b, readRecord s h l = (true, { s with hbm := b }) := by
  obtain ⟨b, hb⟩ := readRecord_only hread
  exact ⟨b, Prod.ext hread hb⟩

/-- The objects that commands see stay in what counting a suspension and reading a record leave. -/
theorem liveObj_countSusp_hbm (s : State) (cls : Nat) (r : Run) (b : HbmState) (h : Nat) :
    liveObj { countSusp s cls r with hbm := b } h = liveObj s h := liveObj_ks (countSusp_ks s cls r) h

/-- A use of a key that yields it is quiet. -/
theorem useKey_yields {h : Nat} {l : List MemFail} {k : KeyObj} (huse : (useKey s h l).1 = some k) :
    ∃ v, useKey s h l = (some k, v) ∧ ∀ z, Quiet z s → Quiet z v :=
  ⟨(useKey s h l).2, Prod.ext huse rfl, fun _ hz => useKey_quiet hz (by rw [huse]; rfl)⟩

/-- An object to import replaces a stored one whose record verifies, or none. -/
theorem importRead_verified {h : Nat} {l : List MemFail} (hread : storedObj s h = none ∨ (readRecord s h l).1 = true) :
    ∃ b, (if (storedObj s h).isSome then readRecord s h l else (true, s)) = (true, { s with hbm := b }) := by
  by_cases hstored : (storedObj s h).isSome
  · obtain ⟨b, hb⟩ := readRecord_verified (hread.resolve_left (Option.isSome_iff_ne_none.mp hstored))
    exact ⟨b, by rw [if_pos hstored, hb]⟩
  · exact ⟨s.hbm, if_neg hstored⟩

@[simp] theorem length_sliceZ (b : Bytes) (off n : Nat) : (sliceZ b off n).length = n := by simp [sliceZ]

/-- Settles O23: one clause for each row, three for the kinds of key KEY_GENERATE makes. -/
theorem keyRowsCommit : Obligations.KeyRowsCommit := by
  unfold Obligations.KeyRowsCommit
  refine ⟨?symmetric, ?ec, ?rsa, ?imported, ?exported, ?delete, ?info, ?restrict, ?enroll, ?read⟩
  case symmetric =>
    intro r s t hp hsym hroom hc
    refine hp.commits (exec_keyGenerate s r) ?_ ⟨rfl, (genBody (countSusp s 2 r) (seOp t.entry 0x40 1) (seOp t.entry 0x42 2)).1, rfl⟩
    rw [goKeyGenerate]
    simp only [hroom.whenRoom_eq, if_neg (not_rsa_of_isAsym_false hsym), hsym, Bool.false_eq_true, if_false]
    exact startOn_answers hp.findTag_self hc (Prod.ext (genStage_symmetric hsym) rfl) (genBody_quiet _ _ (countSusp_self_quiet s 2 r)).out
  case ec =>
    intro r s t hp hec hcheck hcomb hroom hc
    obtain ⟨d, hd⟩ := genEc_body s r (seOp t.entry 0x40 1)
    refine hp.commits (exec_keyGenerate s r) ?_ ⟨d, _, rfl, rfl, rfl⟩
    rw [goKeyGenerate]
    simp only [hroom.whenRoom_eq, if_neg (not_rsa_of_isEcPriv hec), isAsym_of_isEcPriv hec, if_true, hcheck]
    exact startPke_answers hp.findTag_self hc (fun h => hcomb (of_decide_eq_true h))
      (Prod.ext (genStage_asymmetric (isAsym_of_isEcPriv hec) (by rw [hd])) rfl) (genEc_quiet r _ (.refl s)).out
  case rsa =>
    intro r s v t body k hp hty hcheck hgen hk hok hroom hc
    refine hp.commits (exec_keyGenerate s r) ?_ ⟨rfl, rfl⟩
    rw [goKeyGenerate]
    simp only [hroom.whenRoom_eq, if_pos hty]
    exact goRsaGenerate_starts hp.findTag_self hty hcheck hgen hk hok hc
  case imported =>
    intro r s t b hb hp hfails hread hroom hc
    obtain ⟨m, hm⟩ := importRead_verified (s := countSusp s 2 r) (by rwa [storedObj_ks (countSusp_ks s 2 r)])
    have hroom' : StoreReady s t (128 + (sliceZ (r.input.getD []) 0 (seInLen t.entry)).length) := by rwa [length_sliceZ]
    exact hp.commits_on (exec_keyImport s r) (hroom'.whenRoom_eq _) hc (by simp only [hb, Option.getD_some, hfails, hm, if_true])
      ((countSusp_self_quiet s 2 r).updHbm m) ⟨rfl, rfl⟩
  case exported =>
    intro r s t k n hp hfails hkeys hc hread hk
    obtain ⟨m, hm⟩ := readRecord_verified hread
    exact hp.commits_on (exec_keyExport s r) (hkeys.whenKeys_eq _) hc (by simp only [hfails, hm, liveObj_countSusp_hbm, hk, if_true]; rfl)
      (wrapOut_quiet _ ((countSusp_self_quiet s 2 r).updHbm m)).out ⟨rfl, _, rfl⟩
  case delete =>
    intro r s t hp hroom hc
    exact hp.commits_on (exec_keyDelete s r) (hroom.whenRoom_eq _) hc rfl (countSusp_self_quiet s 2 r) ⟨rfl, rfl⟩
  case info =>
    intro r s t k hp hfails hc hread hk
    obtain ⟨m, hm⟩ := readRecord_verified hread
    have hk' : liveObj { s with hbm := m } (seKeyA t.entry) = some k := hk
    exact hp.commits_core (exec_keyInfo s r) rfl hc (by simp only [hfails, hm, hk', if_true]) ((Quiet.refl s).updHbm m) ⟨rfl, rfl⟩
  case restrict =>
    intro r s t k hp hfails hroom hc huse
    obtain ⟨v, hv, hquiet⟩ := useKey_yields huse
    exact hp.commits_on (exec_keyRestrict s r) (hroom.whenRoom_eq _) hc (by simp only [hfails, hv]) (hquiet s (countSusp_self_quiet s 2 r))
      ⟨rfl, rfl⟩
  case enroll =>
    intro r s t b hb hp hec hform hvalid hroom hc
    refine hp.commits (exec_pubkeyEnroll s r) (e := .putKey (hSlot (seKeyA t.entry)) { draftObj t.entry (seOp t.entry 0x40 1) 0
      (seOp t.entry 0x48 8) 3 (pointBytes (seOp t.entry 0x40 1) (sliceZ b 0 (seInLen t.entry))) with useLimit := 0 }) ?_ ⟨rfl, _, rfl, rfl, rfl⟩
    rw [goPubkeyEnroll]
    simp only [hroom.whenRoom_eq]
    exact startPke_answers hp.findTag_self hc (by simp) (by simp [withInput, hb, hec, hform, hvalid, not_rsa_of_isEcPub hec]) (.refl s)
  case read =>
    intro r s t k hp hfails hc huse
    obtain ⟨v, hv, hquiet⟩ := useKey_yields huse
    exact hp.commits_core (exec_pubkeyRead s r) rfl hc (by simp only [hfails, hv]) (hquiet s (.refl s)) ⟨rfl, rfl⟩

end Sys2Proof.Machine
end

section
/-!
The store rows. What the snapshot, journal, restore, domain and escrow rows and STORE_STATUS stage once their checks pass, and under quorum
(O24).
-/
namespace Sys2Proof.Machine

variable {s u : State} {t : TagEntry} {r : Run} {op : Nat} {o : Outcome} {e : Effect} {c : Instr} {P : Outcome → Effect → Prop}
  {checks : TagEntry → List (Option Outcome)} {go : TagEntry → State}

/-! ## Commands under quorum (R539, R541) -/

/-- An approved session answers that nothing more is needed (R540). -/
theorem Approved.quorumNeed_eq {b : Bytes} (h : Approved s t b) (n : Nat) : quorumNeed s n (opDigest t b) b = (none, s) := by
  obtain ⟨c, x, hset, hsession, hdigest, happroved⟩ := h
  simp [quorumNeed, hset, hsession, hdigest, happroved]

theorem StartedWith.any_started (h : StartedWith s t (o, e) u) :
    u.qm.tags.any (fun x => decide (x.tag = t.tag) && decide (x.commit = .started)) = true := by
  obtain ⟨p, hp⟩ := h.tag
  exact List.any_eq_true.mpr ⟨_, List.mem_of_find?_eq_some hp, by simp⟩

/-- Under an approved session a command that starts ends the session (R541). -/
theorem withQuorum_started {b : Bytes} {n : Nat} {g : State → State} (h : Approved s t b) (hs : StartedWith s t (o, e) (g s)) :
    withQuorum s t n b g = cancelSession (g s) := by
  rw [withQuorum, h.quorumNeed_eq]
  exact if_pos hs.any_started

/-- A command under quorum whose checks pass commits what it is started with, and its session ends. -/
theorem Passes.commitsByQuorum {b : Bytes} {n : Nat} {g : State → State} (hp : Passes s r op t (checks t))
    (hx : exec c s = checked s r op checks go) (hgo : go t = withQuorum s t n b g) (happroved : Approved s t b)
    (hs : StartedWith s t (o, e) (g s)) (hP : P o e) : CommitsByQuorum c s t P :=
  ⟨g s, by rw [hx, hp.checked_eq, hgo, withQuorum_started happroved hs], hs.staged hP⟩

/-! ## What the store's reads find (R163, R177, R179) -/

theorem readAll_verified {l : List MemFail} {os : List KeyObj} (hread : (readAll s l os).1 = true) :
    ∃ b, readAll s l os = (true, { s with hbm := b }) := by
  obtain ⟨b, hb⟩ := readAll_only hread
  exact ⟨b, Prod.ext hread hb⟩

theorem journalReads_verified {l : List MemFail} {rs : List JRec} (hread : (journalReads s l rs).1 = true) :
    ∃ b, journalReads s l rs = (true, { s with hbm := b }) := by
  obtain ⟨b, hb⟩ := journalReads_only hread
  exact ⟨b, Prod.ext hread hb⟩

theorem countSusp_struct (s : State) (cls : Nat) (r : Run) : (countSusp s cls r).struct = s.struct := (countSusp_self_quiet s cls r).struct

theorem domRegions_countSusp (s : State) (cls : Nat) (r : Run) (d : Nat) : domRegions (countSusp s cls r) d = domRegions s d := by
  have hregion : keyRegion (countSusp s cls r) d = keyRegion s d := by
    funext x
    rw [keyRegion, keyRegion, regions, regions, countSusp_struct]
  rw [domRegions, domRegions, hregion]

theorem domObjs_countSusp (s : State) (cls : Nat) (r : Run) (d : Nat) : domObjs (countSusp s cls r) d = domObjs s d := by
  rw [domObjs, domObjs, domSlots, domSlots, countSusp_ks]

/-- Counting a suspension leaves the objects of a chunk. -/
theorem chunkObjs_countSusp (s : State) (cls : Nat) (r : Run) (d k : Nat) : chunkObjs (countSusp s cls r) d k = chunkObjs s d k := by
  rw [chunkObjs, chunkObjs, domRegions_countSusp, domObjs_countSusp]

theorem domainOf_countSusp (s : State) (cls : Nat) (r : Run) (d : Nat) : domainOf (countSusp s cls r) d = domainOf s d := by
  simp only [domainOf, countSusp_ks]

/-- DOMAIN_ESCROW_EXPORT with its quorum given: the blob of a domain for the custodian set `c`, on two tiles of the Sealed world (R183, R543,
R605). -/
def goEscrowExport (r : Run) (c : Bytes) (t : TagEntry) (s : State) : State :=
  match needSealedTiles s with
  | some o => failTag s t o
  | none => whenKeys s t (startIn s t r 1 1 0 (some (0x25, 0)) (fun s =>
      ((outData (escrowBlob s (seDomain t.entry) c).1.length (escrowBlob s (seDomain t.entry) c).1, .nothing),
        (escrowBlob s (seDomain t.entry) c).2)))

/-- DOMAIN_ESCROW_EXPORT, with the custodian set `c` in place, is that behind its checks and its quorum. -/
theorem exec_domainEscrowExport_of_set {c : Bytes} (hset : s.quorum.cset = some c) (r : Run) : exec (.domainEscrowExport r) s
    = checked s r 0x25 (fun t => [spareOperands t.entry [], shortOut t.entry (136 + 112 * csetN c), needDmk s t])
      (fun t => withQuorum s t 6 [] (goEscrowExport r c t)) := by
  rw [exec_domainEscrowExport, execDomainEscrowExport, hset]
  rfl

/-- Settles O24: one clause for each row; DOMAIN_CREATE without and with quorum. -/
theorem storeRowsCommit : Obligations.StoreRowsCommit := by
  unfold Obligations.StoreRowsCommit
  refine ⟨?snapBegin, ?snapRead, ?journalRead, ?journalAck, ?restoreBegin, ?restoreData, ?restoreEnd, ?create, ?erase, ?escrowExport,
    ?escrowRestore, ?status⟩
  case snapBegin => exact fun r s _ hp hc => hp.commits_core (exec_snapshotBegin s r) rfl hc rfl (.refl s) ⟨rfl, rfl⟩
  case snapRead =>
    intro r s t sn hp hfails hkeys hsn hc hread
    obtain ⟨m, hm⟩ := readAll_verified hread
    exact hp.commits_on (exec_snapshotRead s r) (hkeys.whenKeys_eq _) hc
      (by simp only [hfails, domainOf_countSusp, hsn, chunkObjs_countSusp, hm, if_true]; rfl)
      (chunkBytes_quiet _ _ _ ((countSusp_self_quiet s 2 r).updHbm m)).out ⟨rfl, m, _, rfl, rfl⟩
  case journalRead =>
    rintro r s t recs hp hc rfl hread
    obtain ⟨m, hm⟩ := journalReads_verified hread
    exact hp.commits_core (exec_journalRead s r) rfl hc (by simp only [hm, if_true]; rfl) ((Quiet.refl s).updHbm m) ⟨rfl, rfl⟩
  case journalAck => exact fun r s _ hp hc => hp.commits_core (exec_journalAck s r) rfl hc rfl (.refl s) ⟨rfl, rfl⟩
  case restoreBegin =>
    intro r s t hp hc hidle
    refine hp.commits_core (exec_restoreBegin s r) (if_neg ?_) hc rfl (.refl s) ⟨rfl, rfl⟩
    rintro ⟨hlive, hrunning⟩
    obtain hother | hnone := hidle
    · exact hother hlive
    · rw [hnone] at hrunning
      exact absurd hrunning (by decide)
  case restoreData =>
    intro r s t b hb hp hkeys hc
    exact hp.commits_on (exec_restoreData s r) (hkeys.whenKeys_eq _) hc (by simp only [withInput, hb]) (countSusp_self_quiet s 2 r) ⟨rfl, rfl⟩
  case restoreEnd => exact fun r s _ hp hc => hp.commits_core (exec_restoreEnd s r) rfl hc rfl (.refl s) ⟨rfl, rfl⟩
  case create =>
    intro r s t hp hc
    refine ⟨fun hfree => hp.commits_core (exec_domainCreate s r) (if_pos hfree) hc rfl (.refl s) ⟨rfl, rfl⟩, fun hquorum happroved => ?_⟩
    refine hp.commitsByQuorum (exec_domainCreate s r) (if_neg (by rw [hquorum]; decide)) happroved ?_ ⟨rfl, rfl⟩
    exact startOn_answers hp.findTag_self hc rfl (.refl s)
  case erase =>
    intro r s t hp hc happroved
    exact hp.commitsByQuorum (exec_domainErase s r) rfl happroved (startOn_answers hp.findTag_self hc rfl (.refl s)) ⟨rfl, rfl⟩
  case escrowExport =>
    intro r s t c hset hp hc happroved htiles hkeys
    refine hp.commitsByQuorum (exec_domainEscrowExport_of_set hset r) rfl happroved ?_ ⟨rfl, rfl⟩
    rw [goEscrowExport, htiles]
    exact (hkeys.whenKeys_eq _).symm ▸ startIn_answers hp.findTag_self hc rfl (escrowBlob_quiet _ _ (.refl s)).out
  case escrowRestore =>
    intro r s t b sec x hb hp hc happroved htiles hx hopen hform
    have hinput : sliceZ (r.input.getD []) 0 (seInLen t.entry) = sliceZ b 0 (seInLen t.entry) := by rw [hb]; rfl
    refine hp.commitsByQuorum (exec_domainEscrowRestore s r) rfl (hinput ▸ happroved) ?_ ⟨rfl, rfl⟩
    simp only [htiles]
    exact startIn_answers hp.findTag_self hc (by simp [hinput, hx, hopen, hform, countSusp_of_ne]) (.refl s)
  case status => exact fun r s _ hp hc => hp.commits_core (exec_storeStatus s r) rfl hc rfl (.refl s) ⟨rfl, rfl⟩

end Sys2Proof.Machine
end

section
/-!
Key blocks, verification tables, the key cache's commands and the swap of an HBM pseudo-channel (O25).
-/
namespace Sys2Proof.Machine

variable {s v : State} {t : TagEntry} {r : Run}

/-! ## Key blocks (R188) -/

/-- KEYBLOCK_EXPORT whose two keys are live and used with success is started with the sealed block. -/
theorem goKeyblockExport_starts {x k x1 k1 : KeyObj} {b : Bytes} (hf : findTag s t.tag = some t) (hc : canStart s t 2 r 0 = true)
    (hx : liveObj s (seKeyA t.entry) = some x) (hk : liveObj s (seKeyB t.entry) = some k)
    (hseal : kbSeal (countSusp s 2 r) (seOp t.entry 0x40 1) k x = (b, v)) (hx1 : (useKey v (seKeyA t.entry) r.fails).1 = some x1)
    (hk1 : (useKey (useKey v (seKeyA t.entry) r.fails).2 (seKeyB t.entry) r.fails).1 = some k1) :
    StartedWith s t (outData b.length b, .nothing) (goKeyblockExport r s t) := by
  have hlive : ∀ h, liveObj (countSusp s 2 r) h = liveObj s h := liveObj_ks (countSusp_ks s 2 r)
  obtain ⟨u, hu, huquiet⟩ := useKey_yields hx1
  rw [hu] at hk1
  obtain ⟨w, hw, hwquiet⟩ := useKey_yields hk1
  refine startOn_answers hf hc (v := w) ?_ (hwquiet s (huquiet s ?_))
  · simp only [hlive, hx, hk, Option.getD_some, hseal, hu, hw, Option.isSome_some, Bool.and_self, if_true]
  · exact Quiet.eqP hseal (kbSeal_quiet _ _ _ (countSusp_self_quiet s 2 r))

/-! ## Verification tables (R174, R175) -/

/-- A requested build that has room, on an idle tile of its world, adds the table and drops the request. -/
theorem execVtableBuild_adds {h u i : Nat} (hlandau : landauUp s = true) (hasked : s.ks.builds.any (fun b => b.handle = h) = true)
    (hkey : (storedObj s h).isSome = true) (hnew : hasTable s h = false) (hroom : tableRoom s (domWorldOf s (hDomain h)) = 0)
    (hserves : tileServes s 1 (domWorldOf s (hDomain h)) u i = true) (hidle : partIdle s 1 u i 0 = true) (htest : underTest s 1 u i = false) :
    execVtableBuild h u i s = .next { addTable s h with
      ks := { (addTable s h).ks with builds := (addTable s h).ks.builds.filter (fun b => b.handle != h) } } := by
  obtain ⟨o, ho⟩ := Option.isSome_iff_exists.mp hkey
  simp [execVtableBuild, whenLandau, hlandau, hasked, ho, hnew, hroom, hserves, hidle, htest]

/-! ## Events that need Landau up -/

theorem whenLandau_up {u : State} (h : landauUp s = true) : whenLandau s u = .next u := by rw [whenLandau, if_pos h]

/-- A command of KCACHE_CTRL with another key changes nothing (R173). -/
theorem whenLandau_other_key {key : BitVec 16} {u : State} (h : key ≠ 0x4B43) : whenLandau s (if key = 0x4B43 then u else s) = .next s := by
  rw [if_neg h, whenLandau, ite_self]

/-- Settles O25: one clause for each row and command, two for VTABLE_CTRL. -/
theorem keyBlockTableAndCacheRows : Obligations.KeyBlockTableAndCacheRows := by
  unfold Obligations.KeyBlockTableAndCacheRows
  refine ⟨?blockIn, ?blockOut, ?evict, ?build, ?vtableBuild, ?vtableEviction, ?kcache, ?otherKey, ?swap, ?swapDone⟩
  case blockIn =>
    rintro r s t _ k h rfl hp hfails hroom hc huse hhead
    obtain ⟨v, hv, hquiet⟩ := useKey_yields huse
    cases hopen : (kbOpen h k (sliceZ (r.input.getD []) 0 (seInLen t.entry))).bind (kbObject t.entry h) <;>
      exact hp.commits_on (exec_keyblockImport s r) (hroom.whenRoom_eq _) hc (by simp only [hfails, hv, hhead, hopen])
        (hquiet s (countSusp_self_quiet s 2 r)) ⟨rfl, rfl⟩
  case blockOut =>
    exact fun r s v t x k x1 k1 b hp hc hx hk hseal hx1 hk1 => hp.commits (exec_keyblockExport s r)
      (goKeyblockExport_starts hp.findTag_self hc hx hk hseal hx1 hk1) ⟨rfl, rfl⟩
  case evict => exact fun r s t hp htwo hc => hp.commits_core (exec_vtableCtrl s r) (if_pos htwo) hc rfl (.refl s) ⟨rfl, rfl⟩
  case build =>
    intro r s t hp hone hc hroom
    have hgo : ¬ (!hasTable s (seKeyA t.entry) && decide (tableRoom s (tagWorld s t) = 1)) = true := by
      obtain htable | hroom := hroom
      · simp [htable]
      · simp [hroom]
    exact hp.commits_on (exec_vtableCtrl s r) ((if_neg hone).trans (if_neg hgo)) hc rfl (countSusp_self_quiet s 1 r) ⟨rfl, rfl⟩
  case vtableBuild =>
    rintro h u i _ s hlandau rfl hasked hkey hnew hroom hserves hidle htest
    exact ⟨_, rfl, execVtableBuild_adds hlandau hasked hkey hnew hroom hserves hidle htest⟩
  case vtableEviction =>
    intro h s hfree
    simp only [exec_vtableEviction, execVtableEviction, hfree, Bool.false_eq_true, if_false]
  case kcache => exact fun d l s hlandau => ⟨whenLandau_up hlandau, whenLandau_up hlandau, _, rfl, whenLandau_up hlandau⟩
  case otherKey => exact fun key d l s hkey => ⟨whenLandau_other_key hkey, whenLandau_other_key hkey, whenLandau_other_key hkey⟩
  case swap =>
    rintro k v _ s hlandau rfl hgo
    rw [exec_hbmcSwap, execHbmcSwap, whenLandau_up hlandau, hgo]
    refine ⟨fun herr => ?_, fun hok => ⟨_, _, _, _, rfl, rfl, rfl, rfl, ?_⟩⟩
    · simp [herr]
    · simp [hok]
  case swapDone =>
    intro k n s x p hx hp
    refine ⟨_, _, rfl, rfl, ?_⟩
    rw [exec_hbmcSwapDone, execHbmcSwapDone]
    simp only [hx, Option.bind_some, hp]

end Sys2Proof.Machine
end

section
/-!
The cipher rows. What CIPHER_ENCRYPT, CIPHER_DECRYPT, the MAC rows, their metered forms, HASH and STREAM_ENCRYPT stage once their checks pass
and their keys are ready and affordable (O30).
-/
namespace Sys2Proof.Machine

variable {s : State} {t : TagEntry} {r : Run} {rcls : Nat} {hs : List Nat} {ks : List KeyObj} {b : Bytes} {verdictOp : Bool}
  {f : List KeyObj → Bytes → State → CipResult × State}

/-! ## The start of a cipher route (R234, R242) -/

/-- The effect of a cipher opcode: one use of each metered key in a metered form, none in a pure one (R242). -/
def cipEffect (s : State) (op : Nat) (hs : List Nat) : Effect := if isMetered op then .meteredUse (meteredOf s hs) else .nothing

theorem useKeys_yields {l : List MemFail} (huse : (useKeys s l hs).1 = some ks) :
    ∃ v, useKeys s l hs = (some ks, v) ∧ ∀ z, Quiet z s → Quiet z v :=
  ⟨(useKeys s l hs).2, Prod.ext huse rfl, fun _ hz => useKeys_quiet hz (by rw [huse]; rfl)⟩

/-- No metered key of an affordable command would pass its limit. -/
theorem Affordable.not_exhausted (h : Affordable s t hs) (hm : isMetered (seOpcode t.entry) = true) :
    (meteredOf s hs).any (fun k => ((liveObj s k).map (fun o => decide (o.useLimit < (countsOf s o).1 + 1))).getD false) = false := by
  rw [List.any_eq_false]
  intro k hk
  have hafford := List.all_eq_true.mp (h hm) k hk
  cases hlive : liveObj s k with
  | none => simp
  | some o =>
    simp only [hlive, Option.map_some, Option.getD_some, Bool.and_eq_true, decide_eq_true_eq] at hafford ⊢
    omega

/-- Each metered key of an affordable command has a mark that allows its use. -/
theorem Affordable.marks_allow (h : Affordable s t hs) (hm : isMetered (seOpcode t.entry) = true) :
    (meteredOf s hs).all (fun k => ((liveObj s k).map (useMarkOk s)).getD true) = true := by
  rw [List.all_eq_true]
  intro k hk
  have hafford := List.all_eq_true.mp (h hm) k hk
  cases hlive : liveObj s k with
  | none => rfl
  | some o =>
    simp only [hlive, Option.map_some, Option.getD_some, Bool.and_eq_true] at hafford ⊢
    exact hafford.2

/-- A cipher route whose keys are ready and whose input is read is started with what it computes. -/
theorem cipStart_starts (hf : findTag s t.tag = some t) (hfails : r.fails = []) (hb : (if seInLen t.entry = 0 then some [] else r.input) = some b)
    (hc : canStart s t 2 r rcls = true) (hks : (useKeys (countSusp s 2 r) [] hs).1 = some ks)
    (hquiet : ∀ z u, Quiet z u → Quiet z (f ks (sliceZ b 0 (seInLen t.entry)) u).2) :
    ∃ u, StartedWith s t (cipOutcome (isMetered (seOpcode t.entry)) verdictOp (f ks (sliceZ b 0 (seInLen t.entry)) u).1,
      cipEffect s (seOpcode t.entry) hs) (cipStart s t r rcls hs verdictOp f) := by
  obtain ⟨u, hu, huquiet⟩ := useKeys_yields hks
  exact ⟨u, startOn_answers hf hc (by simp only [hfails, hu, hb]; rfl) (hquiet s u (huquiet s (countSusp_self_quiet s 2 r)))⟩

/-- Marks reserved after a start leave the command started. -/
theorem StartedWith.then_reserve {u : State} {a : Outcome × Effect} (h : StartedWith s t a u) (l : List Nat) :
    StartedWith s t a (l.foldl reserve u) :=
  h.then_quiet fun _ hz => hz.foldl fun _ k hq => reserve_quiet k hq

/-- An affordable cipher command that can start passes its commit point. -/
theorem cipCommit_starts (hf : findTag s t.tag = some t) (hfails : r.fails = []) (hb : (if seInLen t.entry = 0 then some [] else r.input) = some b)
    (hc : canStart s t 2 r rcls = true) (hks : (useKeys (countSusp s 2 r) [] hs).1 = some ks) (hafford : Affordable s t hs)
    (hquiet : ∀ z u, Quiet z u → Quiet z (f ks (sliceZ b 0 (seInLen t.entry)) u).2) :
    ∃ u, StartedWith s t (cipOutcome (isMetered (seOpcode t.entry)) verdictOp (f ks (sliceZ b 0 (seInLen t.entry)) u).1,
      cipEffect s (seOpcode t.entry) hs) (cipCommit s t r rcls hs verdictOp f) := by
  obtain ⟨u, hu⟩ := cipStart_starts (verdictOp := verdictOp) hf hfails hb hc hks hquiet
  refine ⟨u, ?_⟩
  rw [cipCommit]
  by_cases hm : isMetered (seOpcode t.entry) = true
  · simp only [hm, hc, hafford.not_exhausted hm, hafford.marks_allow hm, Bool.not_true, Bool.false_eq_true, if_false]
    rw [hm] at hu
    exact hu.then_reserve _
  · rw [if_pos (by simp [hm])]
    exact hu

/-- A row that goes through the commit point commits what `f` computes, of which `out` holds. -/
theorem cipCommits_of_row {c : Run → Instr} {op : Nat} {checks : State → TagEntry → List (Option Outcome)} {cls : State → Bytes → Nat}
    {keys : Bytes → List Nat} {out : Bytes → List KeyObj → Bytes → CipResult → Prop} {go : Run → State → TagEntry → State}
    (run : Bytes → List KeyObj → Bytes → State → CipResult × State)
    (hx : ∀ r s, exec (c r) s = checked s r op (checks s) (go r s))
    (hgo : ∀ r s t, go r s t = cipCommit s t r (cls s t.entry) (keys t.entry) verdictOp (run t.entry))
    (hquiet : ∀ e ks b z u, Quiet z u → Quiet z (run e ks b u).2) (hout : ∀ e ks b u, out e ks b (run e ks b u).1) :
    CipCommits c op checks cls keys verdictOp out := by
  intro r s t b ks hp hfails hb hc hks hafford
  obtain ⟨u, hu⟩ := cipCommit_starts (verdictOp := verdictOp) hp.findTag_self hfails hb hc hks hafford (hquiet t.entry ks _)
  rw [hp.opcode_eq, ← hgo] at hu
  exact hp.commits (hx r s) hu ⟨⟨_, hout _ _ _ u, rfl⟩, rfl⟩

/-! ## What the routes compute (R233, R234) -/

theorem cipherRun_out (e : Bytes) (dec : Bool) (ks : List KeyObj) (b : Bytes) (s : State) : CipherOut dec e ks b (cipherRun e dec ks b s).1 := by
  refine ⟨_, _, _, _, _, rfl, rfl, rfl, rfl, rfl, ?ecb, ?cbc, ?ctr, ?sealed, ?opened, ?xts⟩
  case ecb | cbc | ctr | xts =>
    intro hmode
    simp only [cipherRun, hmode]
  case sealed =>
    rintro hmode rfl
    simp only [cipherRun, hmode, Bool.false_eq_true, if_false]
  case opened =>
    rintro hmode rfl
    rw [cipherRun, hmode]
    rfl

/-- What the MAC rows compute: the MAC, or the verdict of a comparison (R233, R234). -/
def macRun (ver : Bool) (e : Bytes) (ks : List KeyObj) (b : Bytes) (s : State) : CipResult × State :=
  match ks.head? with
  | none => ({ ok := none, out := [] }, s)
  | some o =>
    if ver then ({ ok := some (decide (macOf e o (b.drop (mLen e)) = b.take (mLen e))), out := [] }, s)
    else ({ ok := some true, out := macOf e o b }, s)

theorem goMacRow_eq (r : Run) (ver : Bool) (s : State) (t : TagEntry) : goMacRow r ver s t
    = cipCommit s t r ((mAlg t.entry + 4) * 16 + (if mAlg t.entry = 3 then mHash t.entry else typOf s (seKeyA t.entry))) [seKeyA t.entry] ver
      (macRun ver t.entry) := rfl

/-- The MAC rows compute without a change of the state. -/
theorem macRun_state (ver : Bool) (e : Bytes) (ks : List KeyObj) (b : Bytes) (s : State) : (macRun ver e ks b s).2 = s := by
  cases ks <;> cases ver <;> rfl

/-- The cipher rows, pure and metered, commit what their mode computes. -/
theorem cipherRow_commits {c : Run → Instr} {op : Nat} {dec : Bool} (hx : ∀ r s, exec (c r) s = cipherRow r op dec s) :
    CipCommits c op (fun s => cipherChecks s dec) (fun s e => cMode e * 16 + typOf s (seKeyA e))
      (fun e => if cMode e = 4 then [seKeyA e, seKeyB e] else [seKeyA e]) false (CipherOut dec) :=
  cipCommits_of_row (fun e => cipherRun e dec) hx (fun _ _ _ => rfl) (fun e ks b _ _ hu => (cipherRun_quiet e dec ks b hu).out)
    (fun e => cipherRun_out e dec)

/-- The MAC rows, pure and metered, commit the MAC or the verdict they compute. -/
theorem macRow_commits {c : Run → Instr} {op : Nat} {ver : Bool} {out : Bytes → List KeyObj → Bytes → CipResult → Prop}
    (hx : ∀ r s, exec (c r) s = macRow r op ver s) (hout : ∀ e ks b s, out e ks b (macRun ver e ks b s).1) :
    CipCommits c op (fun s => macChecks s ver)
      (fun s e => (mAlg e + 4) * 16 + (if mAlg e = 3 then mHash e else typOf s (seKeyA e))) (fun e => [seKeyA e]) ver out :=
  cipCommits_of_row (macRun ver) hx (goMacRow_eq · ver) (fun e ks b _ u hu => by rwa [macRun_state]) hout

/-- What STREAM_ENCRYPT gives under a key's body and the counter `v`: the IV, ciphertext and tag (R239). -/
def streamOut (e body b : Bytes) (v : Nat) : Bytes :=
  (slice e 0x44 4 ++ beBytes v 8)
    ++ gcmSeal body (slice e 0x44 4 ++ beBytes v 8) ((sliceZ b 0 (seInLen e)).take (cAad e)) ((sliceZ b 0 (seInLen e)).drop (cAad e))

/-- STREAM_ENCRYPT with a counter left, its draw within the mark and its key ready is started with GCM under the counter drawn (R239, R240). -/
theorem goStreamEncrypt_starts {k : KeyObj} (hf : findTag s t.tag = some t) (hfails : r.fails = [])
    (hb : (if seInLen t.entry = 0 then some [] else r.input) = some b) (hk : liveObj s (seKeyA t.entry) = some k)
    (hc : canStart s t 2 r (3 * 16 + typOf s (seKeyA t.entry)) = true) (hv : (countsOf s k).2 < 2 ^ 64 - 1) (hmark : drawMarkOk s k = true)
    (huse : (useKey (countSusp s 2 r) (seKeyA t.entry) []).1 = some k) :
    StartedWith s t (outData (countsOf s k).2 (streamOut t.entry k.body b (countsOf s k).2), .streamUse (seKeyA t.entry) (countsOf s k).2)
      (goStreamEncrypt r s t) := by
  obtain ⟨u, hu, huquiet⟩ := useKey_yields huse
  rw [goStreamEncrypt]
  simp only [hk, hc, hmark, Bool.not_true, Bool.false_eq_true, if_false, if_neg (Nat.not_le.mpr hv), ge_iff_le]
  refine (startOn_answers hf hc ?_ (kcUpd_quiet 0 (seKeyA t.entry) (fun x => { x with issue := (countsOf s k).2 + 1 })
    (huquiet s (countSusp_self_quiet s 2 r)))).then_quiet fun _ hz => reserve_quiet _ hz
  simp only [hfails, hu, hb]
  rfl

/-- Settles O30: the eight forms of the cipher and MAC rows, HASH, and STREAM_ENCRYPT. -/
theorem cipherRowsCommit : Obligations.CipherRowsCommit := by
  unfold Obligations.CipherRowsCommit
  refine ⟨?encrypt, ?decrypt, ?generate, ?verify, ?encryptM, ?decryptM, ?generateM, ?verifyM, ?hash, ?stream⟩
  case encrypt => exact cipherRow_commits fun r s => exec_cipherEncrypt s r
  case decrypt => exact cipherRow_commits fun r s => exec_cipherDecrypt s r
  case generate => exact macRow_commits (fun r s => exec_macGenerate s r) (by rintro e _ b u k rfl; rfl)
  case verify => exact macRow_commits (fun r s => exec_macVerify s r) (by rintro e _ b u k rfl; rfl)
  case encryptM => exact cipherRow_commits fun r s => exec_cipherEncryptM s r
  case decryptM => exact cipherRow_commits fun r s => exec_cipherDecryptM s r
  case generateM => exact macRow_commits (fun r s => exec_macGenerateM s r) (by rintro e _ b u k rfl; rfl)
  case verifyM => exact macRow_commits (fun r s => exec_macVerifyM s r) (by rintro e _ b u k rfl; rfl)
  case hash =>
    exact cipCommits_of_row (fun e _ b s => ({ ok := some true, out := shaBytes (mHash e) b }, s)) (fun r s => exec_hash s r) (fun _ _ _ => rfl)
      (fun _ _ _ _ _ hu => hu) (fun _ _ _ _ => rfl)
  case stream =>
    rintro r s t b k _ hp hfails hb hk rfl hc hv hmark huse
    exact hp.commits (exec_streamEncrypt s r) (goStreamEncrypt_starts hp.findTag_self hfails hb hk hc hv hmark huse)
      ⟨rfl, _, _, rfl, rfl, rfl⟩

end Sys2Proof.Machine
end

section
/-!
The public-key rows. What the ECDSA, ECDH and RSA rows stage once their checks pass, their key is ready and their tile is free (O26).
-/
namespace Sys2Proof.Machine

variable {s u v : State} {t : TagEntry} {r : Run} {op rcls h : Nat} {comb : Bool} {also : Option (Nat × Nat)} {k : KeyObj} {a : Outcome × Effect}
  {o : Outcome} {e : Effect} {c : Instr} {P : Outcome → Effect → Prop} {f : State → (Outcome × Effect) × State} {dig sig : Bytes}
  {checks : TagEntry → List (Option Outcome)} {go : TagEntry → State}

/-! ## Starts on a public-key tile -/

/-- A quiet change before a start does not show in what it leaves. -/
theorem StartedWith.after_quiet (h : StartedWith v t a u) (hv : Quiet s v) : StartedWith s t a u := by
  obtain ⟨htag, hothers, hrest⟩ := h
  refine ⟨htag, fun j hj => (hothers j hj).trans (by simp only [findTag, hv.qm]), ?_⟩
  rw [hv.eq] at hrest
  obtain ⟨⟩ := hrest
  constructor <;> assumption

theorem CleanRun.reads_succeed (hr : CleanRun r) : r.fails = [] := hr.1

theorem CleanRun.check_succeeds (hr : CleanRun r) : r.check = false := hr.2.1

theorem KeyReady.live (hk : KeyReady s h k) : liveObj s h = some k := hk.1

/-- In a run without failures a ready key is used with success, and quietly. -/
theorem KeyReady.used (hk : KeyReady s h k) (hr : CleanRun r) : ∃ v, useKey s h r.fails = (some k, v) ∧ Quiet s v := by
  obtain ⟨v, hv, hquiet⟩ := useKey_yields hk.2
  exact ⟨v, by rw [hr.reads_succeed, hv], hquiet s (.refl s)⟩

/-- A public-key route that can start in a run without failures is started with what it answers. -/
theorem PkeStarts.started (hc : PkeStarts s t r rcls comb also) (hf : findTag s t.tag = some t) (hr : CleanRun r) (ha : f s = (a, v))
    (hq : Quiet s v) : StartedWith s t a (startPke s t r rcls comb also f) := by
  obtain ⟨hplace, hcomb⟩ := hc
  obtain ⟨-, -, hcorr, huncorr⟩ := hr
  exact startPke_answers hf hplace (fun h => ⟨hcomb h, hcorr, huncorr⟩) ha hq

/-- A command served by a public-key route commits what the route answers. -/
theorem Passes.commits_pke (hp : Passes s r op t (checks t)) (hx : exec c s = checked s r op checks go)
    (hgo : go t = startPke s t r rcls comb also f) (hr : CleanRun r) (hc : PkeStarts s t r rcls comb also) (ha : f s = ((o, e), v))
    (hq : Quiet s v) (hP : P o e) : Commits c s t P :=
  hp.commits hx (by rw [hgo]; exact hc.started hp.findTag_self hr ha hq) hP

/-! ## ECDSA (R204, R207, R213) -/

/-- What the signature route releases: the signature, withheld when the check before release fails (R207). -/
def signRelease (k : KeyObj) (dig : Bytes) (n : Nat) : Outcome :=
  if signChecks (ecCurve k.typ) (k.body.take (curveOf (ecCurve k.typ)).len) dig
      (ecdsaSign (ecCurve k.typ) (k.body.take (curveOf (ecCurve k.typ)).len) dig n)
  then outData 0 (ecdsaSign (ecCurve k.typ) (k.body.take (curveOf (ecCurve k.typ)).len) dig n) else outStatus stSIGN_CHECK_FAILED

/-- A result that its check passes is released, another withheld (R207). -/
theorem released_not (ok : Bool) (o : Outcome) : released (!ok) o = if ok then o else outStatus stSIGN_CHECK_FAILED := by
  cases ok <;> rfl

/-- The signature route under a usable key answers what it releases under a nonce drawn, and holds its blinding on the tile (R205, R213). -/
theorem signWith_answers (huse : useKey s h r.fails = (some k, v)) (hcheck : r.check = false) :
    ∃ n w, signWith s r h (some dig) = ((signRelease k dig n, .nothing), w) ∧ ∀ z, Quiet z v → Quiet z w := by
  refine ⟨(drawNonce v (curveOf (ecCurve k.typ))).1, (signWith s r h (some dig)).2, Prod.ext ?answer rfl, fun z hz => ?quiet⟩
  case answer =>
    simp only [signWith, huse, hcheck, Bool.false_or, released_not]
    rfl
  case quiet =>
    rw [signWith, huse]
    exact blindTile_quiet r _ (ecBlinding_quiet _ _ _ (drawNonce_quiet _ hz).out)

/-- A signature row in a run without failures, its key ready, commits what the route releases under some nonce (R207, R213). -/
theorem Passes.commits_signature (hp : Passes s r op t (checks t)) (hx : exec c s = checked s r op checks go)
    (hgo : go t = startPke s t r rcls comb also (fun s => signWith s r (seKeyA t.entry) (some dig))) (hr : CleanRun r)
    (hk : KeyReady s (seKeyA t.entry) k) (hc : PkeStarts s t r rcls comb also) (hP : ∀ n, P (signRelease k dig n) .nothing) : Commits c s t P := by
  obtain ⟨v, huse, hquiet⟩ := hk.used hr
  obtain ⟨n, w, hanswer, hwquiet⟩ := signWith_answers (dig := dig) huse hr.check_succeeds
  exact hp.commits_pke hx hgo hr hc hanswer (hwquiet s hquiet) (hP n)

theorem verdict_eq (ok : Bool) : verdict ok = if ok then outStatus stOK else outStatus stVERIFY_FAILED := by
  cases ok <;> rfl

/-- No key's own route class is that of the table mode (R197). -/
theorem pkeClass_ne_table (h : isEc k.typ = true) : pkeClass k.typ k.bits ≠ 4 := by
  rw [pkeClass, if_pos h]
  simp only [isEc, isEcPriv, isEcPub, Bool.or_eq_true, Bool.and_eq_true, decide_eq_true_eq] at h
  omega

/-- A key that is not a P-384 public key with a table is verified by its point (R197, R213). -/
theorem verifyClass_point (h : hasTable s k.handle = false ∨ k.typ ≠ 0x19) : verifyClass s k = pkeClass k.typ k.bits := by
  refine if_neg ?_
  rintro ⟨htyp, htable⟩
  obtain hnone | hother := h
  · exact absurd htable (by simp [hnone])
  · exact hother htyp

/-- A verification row by its key's point commits the verdict (R206, R213). -/
theorem Passes.commits_verdict (hp : Passes s r op t (checks t)) (hx : exec c s = checked s r op checks go)
    (hgo : go t = startPke s t r rcls comb also (fun s => verifyWith s r h rcls (some sig) (some dig))) (hr : CleanRun r)
    (hk : KeyReady s h k) (hc : PkeStarts s t r rcls comb also) (hcls : rcls ≠ 4)
    (hP : P (verdict (ecdsaVerify (ecCurve k.typ) (pubOf k) dig sig)) .nothing) : Commits c s t P := by
  obtain ⟨v, huse, hquiet⟩ := hk.used hr
  exact hp.commits_pke hx hgo hr hc (by simp only [verifyWith, huse, hcls, if_false]) hquiet hP

/-- A verification row in table mode, the entries it reads from HBM verifying, commits the verdict over them (R163, R204). -/
theorem Passes.commits_tableVerdict {w : State} {x : VTable} (hp : Passes s r op t (checks t)) (hx : exec c s = checked s r op checks go)
    (hgo : go t = startPke (touchTable s h) t r 4 comb also (fun s => verifyWith s r h 4 (some sig) (some dig))) (hr : CleanRun r)
    (hc : PkeStarts (touchTable s h) t r 4 comb also) (huse : useKey (touchTable s h) h [] = (some k, u)) (htable : keyTable u h = some x)
    (hread : mcRead u (tableLine u x 0).1 (tableLines u x (tableScalar dig sig).2) [] = (true, w))
    (hP : P (verdict (tableVerify w x dig sig)) .nothing) : Commits c s t P := by
  have huquiet : Quiet (touchTable s h) u := by
    obtain ⟨v, hv, hquiet⟩ := useKey_yields (congrArg Prod.fst huse)
    obtain rfl : v = u := (Prod.mk.inj (hv.symm.trans huse)).2
    exact hquiet _ (.refl _)
  have hwquiet : Quiet (touchTable s h) w := by
    have hw := mcRead_quiet huquiet (congrArg Prod.fst hread)
    rwa [hread] at hw
  refine hp.commits hx ?_ hP
  rw [hgo]
  exact (hc.started hp.findTag_self hr (by simp only [verifyWith, hr.reads_succeed, huse, htable, hread, if_true]) hwquiet).after_quiet
    (touchTable_quiet h (.refl s))

/-- Settles O26: one clause for each row; the verification rows have two, by point and by table. -/
theorem publicKeyRowsCommit : Obligations.PublicKeyRowsCommit := by
  unfold Obligations.PublicKeyRowsCommit
  refine ⟨?sign, ?signMsg, ?verify, ?verifyTable, ?verifyMsg, ?verifyMsgTable, ?verifyExt, ?ecdh, ?rsaSign, ?rsaVerify, ?rsaEncrypt, ?rsaDecrypt,
    ?rsaUnwrap⟩
  case sign =>
    intro r s t b k hp hr hb hk hc
    exact hp.commits_signature (exec_ecdsaSign s r) (by simp only [goEcdsaSign, hk.live, hb, Option.map_some]) hr hk hc
      fun n => ⟨rfl, n, _, rfl, rfl⟩
  case signMsg =>
    intro r s t b k hp hr hb hk hc
    exact hp.commits_signature (exec_ecdsaSignMsg s r) (by simp only [goEcdsaSignMsg, msgDigest, hk.live, hb, Option.map_some]) hr hk hc
      fun n => ⟨rfl, n, _, rfl, rfl⟩
  case verify =>
    intro r s t b k hp hr hb hk hec hkey hpoint hc
    have hcls := pkeClass_ne_table (k := k) hec
    exact hp.commits_verdict (exec_ecdsaVerify s r)
      (by simp only [goEcdsaVerify, hk.live, hb, Option.map_some, verifyClass_point hpoint, if_neg hcls]) hr (hkey ▸ hk) hc hcls ⟨rfl, rfl⟩
  case verifyTable =>
    rintro r s u v t x b dig sig k hp hr hb hk hkey htyp hhas hc huse htable rfl rfl hread
    exact hp.commits_tableVerdict (exec_ecdsaVerify s r)
      (by simp only [goEcdsaVerify, hk, hb, Option.map_some, verifyClass, htyp, hhas, and_self, if_true]; rfl) hr hc huse htable hread ⟨rfl, rfl⟩
  case verifyMsg =>
    intro r s t b k hp hr hb hk hec hkey hpoint hc
    have hcls := pkeClass_ne_table (k := k) hec
    exact hp.commits_verdict (exec_ecdsaVerifyMsg s r)
      (by simp only [goEcdsaVerifyMsg, hk.live, hb, Option.map_some, verifyClass_point hpoint, if_neg hcls]) hr (hkey ▸ hk) hc hcls ⟨rfl, rfl⟩
  case verifyMsgTable =>
    rintro r s u v t x b dig sig k hp hr hb hk hkey htyp hhas hc huse htable rfl rfl hread
    exact hp.commits_tableVerdict (exec_ecdsaVerifyMsg s r)
      (by simp only [goEcdsaVerifyMsg, hk, hb, Option.map_some, verifyClass, htyp, hhas, and_self, if_true]; rfl) hr hc huse htable hread ⟨rfl, rfl⟩
  case verifyExt =>
    rintro r s t b _ _ rfl rfl hp hr hb hc
    cases hvalid : pointForm (seOp t.entry 0x40 1) ((sliceZ b 0 (seInLen t.entry)).take (extPointLen (seOp t.entry 0x40 1) (seOp t.entry 0x51 1)))
        && ecPointValid (ecCurve (seOp t.entry 0x40 1))
          ((sliceZ b 0 (seInLen t.entry)).take (extPointLen (seOp t.entry 0x40 1) (seOp t.entry 0x51 1))) with
    | true => exact hp.commits_pke (exec_ecdsaVerifyExt s r) rfl hr hc (by simp only [withInput, hb, hvalid]; rfl) (.refl s) ⟨rfl, verdict_eq _⟩
    | false => exact hp.commits_pke (exec_ecdsaVerifyExt s r) rfl hr hc (by simp only [withInput, hb, hvalid]; rfl) (.refl s) ⟨rfl, rfl⟩
  case ecdh =>
    rintro r s t b _ _ k hp hr hb hk hroom hc rfl hform hvalid rfl hz
    obtain ⟨v, huse, hquiet⟩ := hk.used hr
    refine hp.commits_pke (v := blindTile v r (ecBlinding v (curveOf (ecCurve k.typ)) (beNat (k.body.take (ecL k.typ))) false))
      (exec_ecdhDerive s r) (by simp only [goEcdhDerive, hk.live, hroom.whenRoom_eq]; rfl) hr hc ?_
      (blindTile_quiet r _ (ecBlinding_quiet _ _ _ hquiet)) ⟨rfl, rfl⟩
    simp only [huse, withInput, hb, hform, hvalid, hr.check_succeeds, hz]
    rfl
  case rsaSign =>
    intro r s t b k hp hr hb hk hc
    obtain ⟨v, huse, hquiet⟩ := hk.used hr
    refine hp.commits_pke (v := blindTile (drawBytes v (hashLen (seOp t.entry 0x41 1))).2 r
        (rsaBlinding (drawBytes v (hashLen (seOp t.entry 0x41 1))).2 (rsaN k)))
      (exec_rsaSign s r) (by simp only [goRsaSign, hk.live]; rfl) hr hc ?_
      (blindTile_quiet r _ (rsaBlinding_quiet _ (drawBytes_quiet _ hquiet).out)) ⟨rfl, (drawBytes v (hashLen (seOp t.entry 0x41 1))).1, _, rfl, rfl⟩
    simp only [huse, withInput, hb, hr.check_succeeds, Bool.false_or, bne, released_not, beq_iff_eq]
  case rsaVerify =>
    intro r s t b k hp hr hb hk hc
    obtain ⟨v, huse, hquiet⟩ := hk.used hr
    refine hp.commits_pke (v := v) (exec_rsaVerify s r) (by simp only [goRsaVerify, hk.live]; rfl) hr hc
      (by simp only [huse, withInput, hb, verdict_eq, Bool.and_eq_true, decide_eq_true_eq]) hquiet ⟨rfl, _, _, rfl, rfl, rfl⟩
  case rsaEncrypt =>
    intro r s t b k hp hr hb hk hc
    obtain ⟨v, huse, hquiet⟩ := hk.used hr
    refine hp.commits_pke (v := (drawBytes v (hashLen (seOp t.entry 0x41 1))).2) (exec_rsaEncrypt s r)
      (by simp only [goRsaEncrypt, hk.live]; rfl) hr hc ?_ (drawBytes_quiet _ hquiet).out ⟨rfl, (drawBytes v (hashLen (seOp t.entry 0x41 1))).1, rfl⟩
    simp only [huse, withInput, hb]
  case rsaDecrypt =>
    intro r s t b k hp hr hb hk hc
    obtain ⟨v, huse, hquiet⟩ := hk.used hr
    refine hp.commits_pke (v := blindTile v r (rsaBlinding v (rsaN k))) (exec_rsaDecrypt s r) (by simp only [goRsaDecrypt, hk.live]; rfl) hr hc ?_
      (blindTile_quiet r _ (rsaBlinding_quiet _ hquiet)) ⟨rfl, rfl⟩
    -- The model's match on the opened block and the statement's agree by `rfl` where they are compiled in two files.
    simp only [huse, withInput, hb, hr.check_succeeds, Bool.false_or, released_not] <;> rfl
  case rsaUnwrap =>
    intro r s t b m k hp hr hb hk hroom hc hopen hlen hparity
    obtain ⟨v, huse, hquiet⟩ := hk.used hr
    refine hp.commits_pke (v := blindTile v r (rsaBlinding v (rsaN k))) (exec_rsaUnwrap s r)
      (by simp only [goRsaUnwrap, hk.live, hroom.whenRoom_eq]; rfl) hr hc ?_
      (blindTile_quiet r _ (rsaBlinding_quiet _ hquiet)) ⟨rfl, rfl⟩
    have hfits : ¬ ((m.length != symBytes (seOp t.entry 0x40 1) 0) = true ∨ isTdes (seOp t.entry 0x40 1) = true ∧ (!m.all hasOddParity) = true) := by
      simpa [hlen] using hparity
    simp only [huse, withInput, hb, hopen, hfits, hr.check_succeeds, Bool.not_true, Bool.false_eq_true, or_self, if_false]

end Sys2Proof.Machine
end

section
/-!
Arithmetic on a public-key tile. What a step does on a tile that runs a route, and that it does nothing without one (O27).
-/
namespace Sys2Proof.Machine

variable {s : State} {p : PkeStep} {t : TagEntry}

/-! ## Steps with a route and without (R192) -/

theorem pkeStep_on (h : OnPkeTile s p t) (f : PkeTile → PkeTile) : pkeStep s p f = .next (setPkeTile s p (f (pkeTile s p))) := by
  rw [OnPkeTile] at h
  simp only [pkeStep, h, Option.isSome_some, if_true]

theorem pkeStep_answers {f : PkeTile → PkeTile} {x : PkeTile} (h : OnPkeTile s p t) (hf : f (pkeTile s p) = x) :
    pkeStep s p f = .next (setPkeTile s p x) := by
  rw [pkeStep_on h, hf]

theorem pkeStepT_on (h : OnPkeTile s p t) (f : TagEntry → PkeTile → State → PkeTile × State) :
    pkeStepT s p f = .next (setPkeTile (f t (pkeTile s p) s).2 p (f t (pkeTile s p) s).1) := by
  rw [OnPkeTile] at h
  simp only [pkeStepT, h]

/-- A step that draws on the state and answers `x` in `u` puts `x` on its tile. -/
theorem pkeStepT_answers {f : TagEntry → PkeTile → State → PkeTile × State} {x : PkeTile} {u : State} (h : OnPkeTile s p t)
    (hf : f t (pkeTile s p) s = (x, u)) : pkeStepT s p f = .next (setPkeTile u p x) := by
  rw [pkeStepT_on h, hf]

/-- A point step leaves its point in Jacobian form at a free scale (R194; log entry 22). -/
theorem pointStep_on {c : Curve} (h : OnPkeTile s p t) (hc : tileCurve (pkeTile s p) = some c) (f : Curve → PkeTile → Pt)
    (g : PkeTile → PkeTile) : pointStep s p f g = .next (setPkeTile (draw s 521).2 p
      (g (writeJac (pkeTile s p) (opIndex p.c) ((draw s 521).1 % (c.p - 1) + 1) (f c (pkeTile s p))))) := by
  rw [pointStep, pkeStepS]
  exact pkeStepT_answers h (by simp only [hc])

section
variable (h : tileTag s p.unit.val p.tile.val = none)
include h

theorem pkeStep_off (f : PkeTile → PkeTile) : pkeStep s p f = .next s := by
  simp only [pkeStep, h, Option.isSome_none, Bool.false_eq_true, if_false]

theorem pkeStepT_off (f : TagEntry → PkeTile → State → PkeTile × State) : pkeStepT s p f = .next s := by
  simp only [pkeStepT, h]

theorem pointStep_off (f : Curve → PkeTile → Pt) (g : PkeTile → PkeTile) : pointStep s p f g = .next s := by
  rw [pointStep, pkeStepS, pkeStepT_off h]

end

/-! ## SETMOD and PADD (R189, R193) -/

/-- SETMOD of a size the tile works on loads the active modulus or the second, as C says (R189). -/
theorem execSetmod_on (h : OnPkeTile s p t) (hlo : 0 < p.b.toNat) (hhi : p.b.toNat ≤ 256) :
    execSetmod p s = .next (setPkeTile s p (if p.c = 0
      then { pkeTile s p with m := p.b.toNat, mod1 := pkeOp (pkeTile s p) p.a % 2 ^ (64 * p.b.toNat) }
      else { pkeTile s p with m := p.b.toNat, mod2 := pkeOp (pkeTile s p) p.a % 2 ^ (64 * p.b.toNat) })) := by
  have hsize : ¬ (p.b.toNat = 0 ∨ 256 < p.b.toNat) := by omega
  rw [execSetmod, pkeStep_on h]
  simp only [hsize, if_false]

/-- PADD adds an affine point of two slots (R193). -/
theorem execPadd_slots {c : Curve} (h : OnPkeTile s p t) (hc : tileCurve (pkeTile s p) = some c) (hspace : opSpace p.b ≠ 3) :
    execPadd p s = .next (setPkeTile (draw s 521).2 p (writeJac (pkeTile s p) (opIndex p.c) ((draw s 521).1 % (c.p - 1) + 1)
      (ptAdd c (readJac (pkeTile s p) (opIndex p.a)) (readAff (pkeTile s p) (opIndex p.b))))) := by
  rw [execPadd, pointStep_on h hc]
  simp only [readPoint, hspace, false_and, if_false]

/-- PADD through the port of the cluster's SRAM adds the correction of the windows read, and ends the comb pass (R200; log entry 22). -/
theorem execPadd_correction {c : Curve} {e : Comb} (h : OnPkeTile s p t) (hc : tileCurve (pkeTile s p) = some c) (hspace : opSpace p.b = 3)
    (hport : opIndex p.b = 3) (hcomb : combOf s p.unit.val = some e) :
    execPadd p s = .next (setPkeTile (draw s 521).2 p { writeJac (pkeTile s p) (opIndex p.c) ((draw s 521).1 % (c.p - 1) + 1)
      (ptAdd c (readJac (pkeTile s p) (opIndex p.a)) (combFix e (pkeTile s p).windows)) with windows := [] }) := by
  rw [execPadd, pointStep_on h hc]
  simp only [readPoint, hspace, hport, hcomb, and_self, if_true, Option.map_some, Option.getD_some]

/-- Settles O27: the steps that compute from their tile alone, the point steps, and every step on a tile without a route. -/
theorem pkeTileArithmeticComplete : Obligations.PkeTileArithmeticComplete := by
  unfold Obligations.PkeTileArithmeticComplete
  simp only [exec_mmul, exec_msqr, exec_madd, exec_msub, exec_mred, exec_minv, exec_pkeMove, exec_sblind, exec_pkeCsel, exec_pkeCeq, exec_crange,
    exec_andf, exec_mexpw, exec_setmod, exec_padd, exec_paddj, exec_pdbl, List.forall_mem_cons, List.not_mem_nil, false_implies, implies_true, and_true]
  refine ⟨?tile, ?point, ?noRoute⟩
  case tile =>
    rintro p s t _ h rfl
    have on := pkeStep_on h
    refine ⟨on _, on _, on _, on _, on _, on _, on _, on _, on _, on _, on _, on _, ?mexpw, fun hlo hhi hc => ?active, fun hlo hhi hc => ?second⟩
    case mexpw =>
      rintro k rfl
      exact on _
    case active => rw [execSetmod_on h hlo hhi, if_pos hc]
    case second => rw [execSetmod_on h hlo hhi, if_neg hc]
  case point =>
    rintro p s t _ c h rfl hc
    exact ⟨execPadd_slots h hc, fun _ hspace hport hcomb => execPadd_correction h hc hspace hport hcomb, pointStep_on h hc _ _, pointStep_on h hc _ _⟩
  case noRoute =>
    intro p s h
    have off := pkeStep_off h
    exact ⟨off _, off _, off _, off _, off _, off _, off _, off _, off _, off _, off _, off _, off _, off _, pointStep_off h _ _,
      pointStep_off h _ _, pointStep_off h _ _⟩

end Sys2Proof.Machine
end

section
/-!
Transfers on a public-key tile. Validation, sharing, random values, encodings, and the reads of the key cache, the comb and the table (O28).
-/
namespace Sys2Proof.Machine

variable {s : State} {p : PkeStep} {t : TagEntry}

/-! ## Shares (R194, R205) -/

/-- A residue with another taken away gives the value back with it. -/
theorem mod_sub_add_mod {v n m : Nat} (hm : 0 < m) : ((v % m + m - n % m) % m + n) % m = v % m := by
  have hn : n % m ≤ v % m + m := Nat.le_trans (Nat.le_of_lt (Nat.mod_lt n hm)) (Nat.le_add_left m _)
  calc ((v % m + m - n % m) % m + n) % m = (v % m + m - n % m + n % m) % m := by rw [Nat.mod_add_mod, Nat.add_mod_mod]
    _ = (v % m + m) % m := by rw [Nat.sub_add_cancel hn]
    _ = v % m := by rw [Nat.add_mod_right, Nat.mod_mod]

/-- The shares SPLIT leaves sum to the value of the Boolean shares (R194). -/
theorem execSplit_on (h : OnPkeTile s p t) (hm : 0 < (pkeTile s p).mod1) :
    ∃ a b z, execSplit p s = .next (setPkeTile z p (putSlot (putSlot (pkeTile s p) (opIndex p.c) a) (opIndex p.c + 1) b)) ∧ z = (draw s 16384).2
      ∧ (a + b) % (pkeTile s p).mod1 = (pkeOp (pkeTile s p) p.a ^^^ pkeOp (pkeTile s p) p.b) % (pkeTile s p).mod1 := by
  rw [execSplit, pkeStepS]
  exact ⟨_, _, _, pkeStepT_on h _, rfl, (Nat.add_mod_mod _ _ _).trans (mod_sub_add_mod hm)⟩

/-- PKE_REFRESH keeps the sum of the shares (R194). -/
theorem execPkeRefresh_on (h : OnPkeTile s p t) (hm : 0 < (pkeTile s p).mod1) :
    ∃ a b z, execPkeRefresh p s = .next (setPkeTile z p (putSlot (putSlot (pkeTile s p) (opIndex p.a) a) (opIndex p.a + 1) b))
      ∧ z = (draw s 16384).2
      ∧ (a + b) % (pkeTile s p).mod1 = (pkeSlot (pkeTile s p) (opIndex p.a) + pkeSlot (pkeTile s p) (opIndex p.a + 1)) % (pkeTile s p).mod1 := by
  rw [execPkeRefresh, pkeStepS]
  refine ⟨_, _, _, pkeStepT_on h _, rfl, ?_⟩
  generalize (draw s 16384).1 = n
  generalize pkeSlot (pkeTile s p) (opIndex p.a) = x
  generalize pkeSlot (pkeTile s p) (opIndex p.a + 1) = y
  generalize (pkeTile s p).mod1 = m at *
  calc ((x + n) % m + (y % m + m - n % m) % m) % m = (x + ((y % m + m - n % m) % m + n)) % m := by
        rw [Nat.mod_add_mod, Nat.add_assoc, Nat.add_comm n]
    _ = (x + ((y % m + m - n % m) % m + n) % m) % m := (Nat.add_mod_mod _ _ _).symm
    _ = (x + y % m) % m := by rw [mod_sub_add_mod hm]
    _ = (x + y) % m := Nat.add_mod_mod _ _ _

/-! ## Fetches and hand-offs (R195, R200, R203) -/

/-- COMBRD leaves the entry its digit selects, and what the SRAM's error does (R195, R200, R203). -/
theorem execCombrd_on {c : Comb} {j : Nat} {w : PkeTile} (h : OnPkeTile s p t) (hc : combOf s p.unit.val = some c) (hj : j = opIndex p.a % 64)
    (hw : w = writeAff (pkeTile s p) (opIndex p.c) (combEntry c j (combPos c j (combPos c j (digitOf (pkeOp (pkeTile s p) p.b) 256 j)))))
    (err : Nat) :
    execCombrd p err s = .next (setPkeTile (combError s t p.unit.val p.tile.val err) p { w with windows := w.windows ++ [j] }) := by
  subst hj hw
  exact pkeStepT_answers h (by simp only [hc])

/-- HASHIN takes the digest that the cipher/hash route of the same command handed over (R195). -/
theorem execHashin_on {q : PkeAt} {c : BitVec 12} {r : RouteAt} {a : AlsoAt} {b : Bytes} (h : tileTag s q.unit.val q.tile.val = some t)
    (hr : t.route = some r) (ha : r.also = some a) (hb : b ≠ [])
    (hhanded : (mapGet s.cip.ctx ((a.unit * 16 + a.tile) * 2) CipCtx.clear).handed = some b) :
    execHashin q c s = .next (setPkeTile s ⟨q.unit, q.tile, 0, 0, c⟩ (pkePut (pkeTile s ⟨q.unit, q.tile, 0, 0, c⟩) c (beNat b))) := by
  obtain ⟨x, l, rfl⟩ := List.exists_cons_of_ne_nil hb
  exact pkeStepT_answers (t := t) h (by simp only [hr, ha, Option.bind_some, Option.map_some, hhanded])

/-- Settles O28: one clause for each group of steps. -/
theorem pkeTileTransfersComplete : Obligations.PkeTileTransfersComplete := by
  unfold Obligations.PkeTileTransfersComplete
  simp only [exec_pvalid, exec_pkeInrd, exec_hashin, exec_pkeOutst, exec_kout, exec_hashout, exec_split, exec_pkeRefresh, exec_pkeRand, exec_encode,
    exec_decode, exec_pkeKcload, exec_combrd, exec_vtrd]
  refine ⟨?pvalid, ?bytes, ?shares, ?rand, ?encodings, ?kcload, ?combrd, ?vtrd⟩
  case pvalid =>
    rintro p s t _ c h rfl hc
    -- The model's match on the decoded point and the statement's agree by `rfl` where they are compiled in two files.
    exact pkeStepT_answers h (by simp only [hc] <;> rfl)
  case bytes =>
    rintro p s t _ b h rfl
    exact ⟨pkeStep_on h _, fun _ _ hr ha hb hhanded => execHashin_on h hr ha hb hhanded, pkeStep_on h _, pkeStep_on h _, pkeStep_on h _⟩
  case shares =>
    rintro p s t _ h rfl hm
    exact ⟨execSplit_on h hm, execPkeRefresh_on h hm⟩
  case rand =>
    rintro p s z n t _ h rfl
    refine ⟨fun hserves hbits => pkeStepT_answers h ?serves, fun hserves => pkeStepT_answers h ?waits⟩
    case serves => simp only [hserves, if_true, hbits]
    case waits => simp only [hserves, Bool.false_eq_true, if_false]
  case encodings =>
    rintro p s t _ h rfl
    refine ⟨⟨_, _, rfl, pkeStepT_on h _⟩, fun hscheme => ?v15, fun hscheme => ?pss, fun hscheme m hm => ?oaep⟩
    case v15 | pss => exact pkeStep_answers h (by simp only [hscheme])
    case oaep => exact pkeStep_answers h (by simp only [hscheme, hm])
  case kcload =>
    rintro p s z t _ e h rfl hload
    exact pkeStepT_answers h (by simp only [hload])
  case combrd =>
    rintro p s t _ w _ c j h rfl hc hj hw rfl
    exact ⟨execCombrd_on h hc hj hw 0, execCombrd_on h hc hj hw 1, execCombrd_on h hc hj hw 2⟩
  case vtrd =>
    rintro p s z t _ v d h rfl hv rfl
    refine ⟨fun hread => pkeStepT_answers h ?verified, fun hread => pkeStepT_answers h ?failed⟩
    case verified => simp only [hv, hread, if_true]
    case failed => simp only [hv, hread, Bool.false_eq_true, if_false]

end Sys2Proof.Machine
end

section
/-!
The payment rows. What PIN_TRANSLATE, PIN_TRANSLATE_DUKPT, PIN_COMPARE, DUKPT_DATA, EMV_ARQC and their metered forms stage once their checks
pass and their keys are ready and affordable (O31).
-/
namespace Sys2Proof.Machine

/-! ## What the routes compute (R244–R249) -/

/-- The key that deciphers the block to translate: that of KEY_A, or its working PIN key (R246, R248). -/
def transKey (dukpt : Bool) (e : Bytes) (a : KeyObj) : Bytes := if dukpt then dukptWorking a.typ a.body (slice e 0x54 12) duPIN else a.body

/-- A PIN encoded under a key with its fill, or no result where the block was malformed (R244, R246). -/
def pinReencoded (e : Bytes) (k : KeyObj) (rnd : Bytes) : Option (List Nat) → CipResult
  | none => { ok := none, out := [] }
  | some pin => { ok := some true, out := encodePin (pOut e) k.typ k.body pin (panOf e) rnd }

/-- Whether two decoded blocks hold one PIN; no result when one was malformed (R246). -/
def pinsCompared : Option (List Nat) → Option (List Nat) → CipResult
  | some p, some q => { ok := some (decide (p = q)), out := [] }
  | _, _ => { ok := none, out := [] }

/-- What a translation computes: the block decoded under KEY_A and encoded under KEY_B with fill drawn (R244, R246). -/
def transRun (dukpt : Bool) (e : Bytes) (ks : List KeyObj) (_ : Bytes) (s : State) : CipResult × State :=
  match ks with
  | [a, b] =>
    match decodePin (pIn e) a.typ (transKey dukpt e a) (blockOf e (pIn e) 0x60) (panOf e) with
    | none => ({ ok := none, out := [] }, (drawBytes s 16).2)
    | some pin => ({ ok := some true, out := encodePin (pOut e) b.typ b.body pin (panOf e) (drawBytes s 16).1 }, (drawBytes s 16).2)
  | _ => ({ ok := none, out := [] }, s)

/-- What PIN_COMPARE computes: its two blocks decoded, each under its key, and compared (R246). -/
def compareRun (e : Bytes) (ks : List KeyObj) (_ : Bytes) (s : State) : CipResult × State :=
  match ks with
  | [a, b] =>
    match decodePin (pIn e) a.typ a.body (blockOf e (pIn e) 0x60) (panOf e), decodePin (pOut e) b.typ b.body (blockOf e (pOut e) 0x70) (panOf e) with
    | some x, some y => ({ ok := some (decide (x = y)), out := [] }, s)
    | _, _ => ({ ok := none, out := [] }, s)
  | _ => ({ ok := none, out := [] }, s)

/-- What DUKPT_DATA gives under the working keys `w` by use: the data decrypted, the verdict on a MAC, or a MAC (R247, R248). -/
def dukptResult (e b : Bytes) (typ : Nat) (w : Nat → Bytes) : CipResult :=
  match seOp e 0x40 1 with
  | 1 => { ok := some true, out := cbc typ (w duDATADEC) (slice e 0x60 16) true b }
  | 2 => { ok := some (decide ((cmac typ (w duMACVER) (b.drop (mLen e))).take (mLen e) = b.take (mLen e))), out := [] }
  | _ => { ok := some true, out := (cmac typ (w duMACGEN) b).take (mLen e) }

/-- What DUKPT_DATA computes from its key (R247). -/
def dukptRun (e b : Bytes) (k : KeyObj) : CipResult := dukptResult e b k.typ (fun u => dukptWorking k.typ k.body (slice e 0x54 12) u)

/-- The session key of EMV_ARQC (R249). -/
def arqcKey (e : Bytes) (k : KeyObj) : Bytes := emvSession k.typ (emvMaster k.typ k.body (panOf e) (byteAt e 0x43)) (slice e 0x44 2)

/-- What EMV_ARQC gives for a verdict: the verdict, and when it is good the ARPC by its method (R249). -/
def arqcResult (e : Bytes) (typ : Nat) (sk arqc : Bytes) (ok : Bool) : CipResult :=
  { ok := some ok
    out := if ok ∧ seOp e 0x41 1 ≠ 0 then emvArpc typ sk arqc (seOp e 0x41 1) (slice e 0x60 4) (slice e 0x68 (byteAt e 0x64)) else [] }

/-- What EMV_ARQC computes from its key: its verdict is whether the session key's MAC is the ARQC (R249). -/
def arqcRun (e b : Bytes) (k : KeyObj) : CipResult :=
  arqcResult e k.typ (arqcKey e k) (slice e 0x58 8) (decide (emvMac k.typ (arqcKey e k) 8 b = slice e 0x58 8))

/-- A row of one key that computes from it and the input alone; a list without a key gives no result. -/
def oneKeyRun (f : Bytes → Bytes → KeyObj → CipResult) (e : Bytes) (ks : List KeyObj) (b : Bytes) (s : State) : CipResult × State :=
  match ks.head? with
  | none => ({ ok := none, out := [] }, s)
  | some k => (f e b k, s)

theorem transRun_pair (dukpt : Bool) (e : Bytes) (a k : KeyObj) (b : Bytes) (s : State) : transRun dukpt e [a, k] b s
    = (pinReencoded e k (drawBytes s 16).1 (decodePin (pIn e) a.typ (transKey dukpt e a) (blockOf e (pIn e) 0x60) (panOf e)), (drawBytes s 16).2) := by
  rw [transRun]
  cases decodePin (pIn e) a.typ (transKey dukpt e a) (blockOf e (pIn e) 0x60) (panOf e) <;> rfl

/-- A translation draws its fill and changes nothing else of the state. -/
theorem transRun_quiet (dukpt : Bool) (e : Bytes) (ks : List KeyObj) (b : Bytes) {z s : State} (hs : Quiet z s) :
    Quiet z (transRun dukpt e ks b s).2 := by
  unfold transRun
  split
  · split <;> exact (drawBytes_quiet 16 hs).out
  · exact hs

theorem compareRun_pair (e : Bytes) (a k : KeyObj) (b : Bytes) (s : State) : compareRun e [a, k] b s
    = (pinsCompared (decodePin (pIn e) a.typ a.body (blockOf e (pIn e) 0x60) (panOf e))
        (decodePin (pOut e) k.typ k.body (blockOf e (pOut e) 0x70) (panOf e)), s) := by
  rw [compareRun]
  cases decodePin (pIn e) a.typ a.body (blockOf e (pIn e) 0x60) (panOf e) with
  | none => rfl
  | some p => cases decodePin (pOut e) k.typ k.body (blockOf e (pOut e) 0x70) (panOf e) <;> rfl

/-- A comparison computes without a change of the state. -/
theorem compareRun_state (e : Bytes) (ks : List KeyObj) (b : Bytes) (s : State) : (compareRun e ks b s).2 = s := by
  unfold compareRun
  split
  · split <;> rfl
  · rfl

/-- A row of one key computes without a change of the state. -/
theorem oneKeyRun_state (f : Bytes → Bytes → KeyObj → CipResult) (e : Bytes) (ks : List KeyObj) (b : Bytes) (s : State) :
    (oneKeyRun f e ks b s).2 = s := by
  cases ks <;> rfl

/-! ## The rows -/

theorem goTransRow_eq (r : Run) (dukpt : Bool) (s : State) (t : TagEntry) : goTransRow r dukpt s t
    = cipCommit s t r (pinIdx (pIn t.entry) (typOf s (seKeyA t.entry)) * 16 + pinIdx (pOut t.entry) (typOf s (seKeyB t.entry)))
      [seKeyA t.entry, seKeyB t.entry] false (transRun dukpt t.entry) := rfl

theorem goCompareRow_eq (r : Run) (s : State) (t : TagEntry) : goCompareRow r s t
    = cipCommit s t r (pinIdx (pIn t.entry) (typOf s (seKeyA t.entry)) * 16 + pinIdx (pOut t.entry) (typOf s (seKeyB t.entry)))
      [seKeyA t.entry, seKeyB t.entry] true (compareRun t.entry) := rfl

theorem goDukptRow_eq (r : Run) (s : State) (t : TagEntry) : goDukptRow r s t
    = cipCommit s t r (seOp t.entry 0x40 1 * 16 + typOf s (seKeyA t.entry)) [seKeyA t.entry] false (oneKeyRun dukptRun t.entry) := rfl

theorem goEmvRow_eq (r : Run) (s : State) (t : TagEntry) : goEmvRow r s t
    = cipCommit s t r (seOp t.entry 0x40 1 * 16 + seOp t.entry 0x41 1) [seKeyA t.entry] true (oneKeyRun arqcRun t.entry) := by
  simp only [goEmvRow, bne_iff_ne]
  rfl

section
variable {c : Run → Instr} {op : Nat}

/-- The translations, pure and metered, commit the PIN encoded anew. -/
theorem transRow_commits {dukpt : Bool} (hx : ∀ r s, exec (c r) s = transRow r op dukpt s) :
    CipCommits c op (fun s => transChecks s dukpt)
      (fun s e => pinIdx (pIn e) (typOf s (seKeyA e)) * 16 + pinIdx (pOut e) (typOf s (seKeyB e))) (fun e => [seKeyA e, seKeyB e]) false
      (fun e ks _ x => ∀ a k, ks = [a, k] →
        ∃ rnd, x = pinReencoded e k rnd (decodePin (pIn e) a.typ (transKey dukpt e a) (blockOf e (pIn e) 0x60) (panOf e))) :=
  cipCommits_of_row (transRun dukpt) hx (goTransRow_eq · dukpt) (fun e ks b _ _ hu => transRun_quiet dukpt e ks b hu)
    (by rintro e _ b u a k rfl; exact ⟨_, congrArg Prod.fst (transRun_pair dukpt e a k b u)⟩)

/-- PIN_COMPARE, pure and metered, commits whether the blocks hold one PIN. -/
theorem compareRow_commits (hx : ∀ r s, exec (c r) s = compareRow r op s) :
    CipCommits c op chkCompareRow
      (fun s e => pinIdx (pIn e) (typOf s (seKeyA e)) * 16 + pinIdx (pOut e) (typOf s (seKeyB e))) (fun e => [seKeyA e, seKeyB e]) true
      (fun e ks _ x => ∀ a k, ks = [a, k] → x = pinsCompared (decodePin (pIn e) a.typ a.body (blockOf e (pIn e) 0x60) (panOf e))
        (decodePin (pOut e) k.typ k.body (blockOf e (pOut e) 0x70) (panOf e))) :=
  cipCommits_of_row compareRun hx goCompareRow_eq (fun e ks b _ u hu => by rwa [compareRun_state])
    (by rintro e _ b u a k rfl; exact congrArg Prod.fst (compareRun_pair e a k b u))

/-- DUKPT_DATA, pure and metered, commits what it computes under the working keys. -/
theorem dukptRow_commits (hx : ∀ r s, exec (c r) s = dukptRow r op s) :
    CipCommits c op chkDukptRow (fun s e => seOp e 0x40 1 * 16 + typOf s (seKeyA e)) (fun e => [seKeyA e]) false
      (fun e ks b x => ∀ k w, ks = [k] → w = (fun u => dukptWorking k.typ k.body (slice e 0x54 12) u) → x = dukptResult e b k.typ w) :=
  cipCommits_of_row (oneKeyRun dukptRun) hx goDukptRow_eq (fun e ks b _ u hu => by rwa [oneKeyRun_state]) (by rintro e _ b u k _ rfl rfl; rfl)

/-- EMV_ARQC, pure and metered, commits the verdict on the ARQC with its ARPC. -/
theorem emvRow_commits (hx : ∀ r s, exec (c r) s = emvRow r op s) :
    CipCommits c op chkEmvRow (fun _ e => seOp e 0x40 1 * 16 + seOp e 0x41 1) (fun e => [seKeyA e]) true
      (fun e ks b x => ∀ k sk arqc ok, ks = [k] → sk = arqcKey e k → arqc = slice e 0x58 8 → ok = decide (emvMac k.typ sk 8 b = arqc) →
        x = arqcResult e k.typ sk arqc ok) :=
  cipCommits_of_row (oneKeyRun arqcRun) hx goEmvRow_eq (fun e ks b _ u hu => by rwa [oneKeyRun_state])
    (by rintro e _ b u k _ _ _ rfl rfl rfl rfl; rfl)

end

/-- Settles O31: the translations, the comparison, DUKPT_DATA and EMV_ARQC, each in its pure and its metered form. That outcome and effect are staged
at the commit point is the model's choice (log entry 51), and so is VERIFY_FAILED for a MAC of DUKPT_DATA that does not agree (log entry 54). -/
theorem paymentRowsCommit : Obligations.PaymentRowsCommit := by
  unfold Obligations.PaymentRowsCommit
  refine ⟨?translate, ?translateDukpt, ?compare, ?dukpt, ?emv, ?translateM, ?translateDukptM, ?compareM, ?dukptM, ?emvM⟩
  case translate => exact transRow_commits fun r s => exec_pinTranslate s r
  case translateDukpt => exact transRow_commits fun r s => exec_pinTranslateDukpt s r
  case compare => exact compareRow_commits fun r s => exec_pinCompare s r
  case dukpt => exact dukptRow_commits fun r s => exec_dukptData s r
  case emv => exact emvRow_commits fun r s => exec_emvArqc s r
  case translateM => exact transRow_commits fun r s => exec_pinTranslateM s r
  case translateDukptM => exact transRow_commits fun r s => exec_pinTranslateDukptM s r
  case compareM => exact compareRow_commits fun r s => exec_pinCompareM s r
  case dukptM => exact dukptRow_commits fun r s => exec_dukptDataM s r
  case emvM => exact emvRow_commits fun r s => exec_emvArqcM s r

end Sys2Proof.Machine
end

section
/-!
The steps of a cipher tile. What each leaves in the context slot of the route it serves, and that it does nothing without one (O32).
-/
namespace Sys2Proof.Machine

variable {s z : State} {p : CipStep} {t : TagEntry}

/-! ## Steps with a route and without (R225, R237) -/

theorem cipStep_on (h : OnCipSlot s p t) (f : TagEntry → CipCtx → CipCtx) : cipStep s p f = .next (setCipCtx s p (f t (cipCtx s p))) := by
  rw [OnCipSlot] at h
  simp only [cipStep, h]

theorem cipStepS_on (h : OnCipSlot s p t) (f : TagEntry → CipCtx → State → CipCtx × State) :
    cipStepS s p f = .next (setCipCtx (f t (cipCtx s p) s).2 p (f t (cipCtx s p) s).1) := by
  rw [OnCipSlot] at h
  simp only [cipStepS, h]

/-- A step that answers `x` puts `x` in its context slot. -/
theorem cipStep_answers {f : TagEntry → CipCtx → CipCtx} {x : CipCtx} (h : OnCipSlot s p t) (hf : f t (cipCtx s p) = x) :
    cipStep s p f = .next (setCipCtx s p x) := by
  rw [cipStep_on h, hf]

/-- A step that draws on the state and answers `x` in `z` puts `x` in its context slot there. -/
theorem cipStepS_answers {f : TagEntry → CipCtx → State → CipCtx × State} {x : CipCtx} (h : OnCipSlot s p t) (hf : f t (cipCtx s p) s = (x, z)) :
    cipStepS s p f = .next (setCipCtx z p x) := by
  rw [cipStepS_on h, hf]

section
variable (h : cipTag s p = none)
include h

theorem cipStep_off (f : TagEntry → CipCtx → CipCtx) : cipStep s p f = .next s := by
  simp only [cipStep, h]

theorem cipStepS_off (f : TagEntry → CipCtx → State → CipCtx × State) : cipStepS s p f = .next s := by
  simp only [cipStepS, h]

theorem execCipRefresh_off : execCipRefresh p s = .next s := by
  simp only [execCipRefresh, h, Option.isNone_none, if_true]

theorem execBlocks_off : execBlocks p s = .next s := by
  simp only [execBlocks, h, Option.isNone_none, if_true]

end

/-! ## Hand-over, random bits, masks, message blocks and keys (R229–R231, R237, R270, R271) -/

/-- PKIN takes the value that the public-key route of the same command handed over (R231). -/
theorem execPkin_on {q : CipAt} {c : BitVec 12} {r : RouteAt} {b : Bytes} (h : OnCipSlot s ⟨q.unit, q.tile, q.slot, 0, 0, c⟩ t)
    (hr : t.route = some r) (hb : b ≠ []) (hhanded : (mapGet s.pke.tiles (r.unit * 16 + r.tile) PkeTile.clear).hashOut = b) :
    execPkin q c s = .next (setCipCtx s ⟨q.unit, q.tile, q.slot, 0, 0, c⟩
      (putBytes (cipCtx s ⟨q.unit, q.tile, q.slot, 0, 0, c⟩) (cipIndex c) b)) := by
  obtain ⟨y, l, rfl⟩ := List.exists_cons_of_ne_nil hb
  exact cipStep_answers h (by simp only [hr, Option.map_some, hhanded])

/-- CIP_RAND with its bits in the buffer, or a generator that serves the refill, fills V55 (R229, R270, R271). -/
theorem execCipRand_on {v n : Nat} (h : OnCipSlot s p t) (hn : n = min 128 p.b.toNat) (hbits : prefetchBits s p.unit.val p.tile.val n = (v, z))
    (hserves : prefetchShort s p.unit.val p.tile.val n = false ∨ rngServes s (16 + p.unit.val) 1 = true) :
    execCipRand p s = .next (setCipCtx (if prefetchShort s p.unit.val p.tile.val n then stepDrew z t.tag 2 else z) p
      (putReg (cipCtx s p) 55 (BitVec.ofNat 128 (v * 2 ^ (128 - n))))) := by
  subst hn
  have hgo : (prefetchShort s p.unit.val p.tile.val (min 128 p.b.toNat) && !rngServes s (16 + p.unit.val) 1) = false := by
    rcases hserves with hfull | hup
    · rw [hfull, Bool.false_and]
    · rw [hup, Bool.not_true, Bool.and_false]
  exact cipStepS_answers h (by simp only [hgo, hbits, Bool.false_eq_true, if_false])

/-- CIP_REFRESH draws a mask and changes nothing else: the model keeps shares as their value (R229). -/
theorem execCipRefresh_on (h : OnCipSlot s p t) : execCipRefresh p s = .next (draw s 128).2 := by
  rw [OnCipSlot] at h
  simp only [execCipRefresh, h, Option.isNone_some, Bool.false_eq_true, if_false]

/-- BLOCKS counts a block in its context slot, and in slot 0 takes one from its tile's allowance (R229, R230, R237). -/
theorem execBlocks_on {u : State} (h : OnCipSlot s p t) (hu : u = setCipCtx s p { cipCtx s p with blocks := (cipCtx s p).blocks + 1 }) :
    execBlocks p s = .next (if p.slot = 0 then { u with cip := { u.cip with
      gap := mapSet u.cip.gap (p.unit.val * 16 + p.tile.val) (mapGet u.cip.gap (p.unit.val * 16 + p.tile.val) 0 - 1) 0 } } else u) := by
  subst hu
  rw [OnCipSlot] at h
  simp only [execBlocks, h, Option.isNone_some, Bool.false_eq_true, if_false]

/-- Settles O32: the steps that compute from their context slot alone, PINDEC, PINENC, CIP_RAND, CIP_REFRESH, BLOCKS, CIP_KCLOAD, and steps in a
slot without a route. How values lie in the registers is the model's choice (log entry 25). -/
theorem cipherTileStepsComplete : Obligations.CipherTileStepsComplete := by
  unfold Obligations.CipherTileStepsComplete
  simp only [exec_aesk, exec_desk, exec_aese, exec_aesd, exec_dese, exec_desd, exec_cipXor, exec_ctrb, exec_mula, exec_ghash, exec_shai, exec_shac,
    exec_shaf, exec_cipCeq, exec_cipCsel, exec_trunc, exec_cipInrd, exec_cipOutst, exec_pkout, exec_pkin, exec_pindec, exec_pinenc, exec_cipRand,
    exec_cipRefresh, exec_blocks, exec_cipKcload, List.forall_mem_cons, List.not_mem_nil, false_implies, implies_true, and_true]
  refine ⟨?slot, ?pindec, ?pinenc, ?rand, ?refresh, ?blocks, ?kcload, ?noRoute⟩
  case slot =>
    rintro p s t _ b h rfl
    have on := cipStep_on h
    exact ⟨on _, on _, on _, on _, on _, on _, on _, on _, on _, on _, on _, on _, on _, on _, on _, on _, on _, on _, on _,
      fun _ hr hb hhanded => execPkin_on h hr hb hhanded⟩
  case pindec =>
    rintro p s t _ _ _ h rfl rfl rfl
    exact cipStep_on h _
  case pinenc =>
    rintro p s t _ _ _ h rfl rfl rfl
    exact cipStep_on h _
  case rand =>
    rintro p s z t _ v n h rfl hn hbits hserves
    exact execCipRand_on h hn hbits hserves
  case refresh => exact fun _ _ _ h => execCipRefresh_on h
  case blocks =>
    rintro p s u t _ h rfl hu
    exact ⟨fun hslot => by rw [execBlocks_on h hu, if_neg hslot], fun hslot => by rw [execBlocks_on h hu, if_pos hslot]⟩
  case kcload =>
    rintro p s z t _ e h rfl hload
    exact cipStepS_answers h (by simp only [hload])
  case noRoute =>
    intro p s b h
    have off := cipStep_off h
    exact ⟨off _, off _, off _, off _, off _, cipStepS_off h _, execCipRefresh_off h, execBlocks_off h, cipStepS_off h _⟩

end Sys2Proof.Machine
end

section
/-!
The cipher units outside routes. The lock and self-test of a cipher tile, and the operations of SCIPH (O33).
-/
namespace Sys2Proof.Machine

variable {s : State}

/-! ## Tile self-test (R256) -/

section
variable {n : Fin 8}

/-- CIPC_SELFTEST with GO holds a tile for the test: active or spare, not drained, no other test (R256). -/
theorem execCipcSelftest_starts {v : W32} {u : State} (hland : landauUp s = true) (hgo : v.getLsbD 31 = true)
    (hu : u = writeReg s (Blk.CIPC + n.val) 8 (v.toNat % 2 ^ 31)) (htile : v.toNat % 16 < 9)
    (hpart : (unitActive u 2 n ||| unitSpare u 2 n).testBit (v.toNat % 16) = true) (htest : getF u (F.CIPC_STATUS_TESTING n) = 0)
    (hdrain : partDrained u 2 n (v.toNat % 16) = false) :
    execCipcSelftest n v s = .next (setF (setF (setF (setF u (F.CIPC_SELFTEST_ERR n) 0) (F.CIPC_SELFTEST_GO n) 1)
      (F.CIPC_LOCK_HOLD n (v.toNat % 16)) 1) (F.CIPC_STATUS_TESTING n) (2 ^ (v.toNat % 16))) := by
  subst hu
  simp only [execCipcSelftest, hland, hgo, Nat.not_le.mpr htile, hpart, htest, hdrain, decide_false, bne_self_eq_false,
    Bool.not_true, Bool.or_self, Bool.false_eq_true, if_false]

/-- The test ends once its tile runs no route: DONE, HOLD cleared, and a FAIL is reported (R256). -/
theorem execCipSelftestEnd_ends {i : Nat} (pass : Bool) (htile : lowestSet (getF s (F.CIPC_STATUS_TESTING n)) 9 = some i)
    (hslot0 : routeOn s 2 n i 0 = false) (hslot1 : routeOn s 2 n i 1 = false) :
    ∃ u, u = setF (setF (setF (setF s (F.CIPC_STATUS_TESTING n) 0) (F.CIPC_SELFTEST_GO n) 0) (F.CIPC_SELFTEST_DONE n) 1) (F.CIPC_LOCK_HOLD n i) 0
      ∧ execCipSelftestEnd n pass s = .next (if pass then u else faultReport (setF u (F.CIPC_SELFTEST_FAIL n) 1) 0x03 (16 + n.val) i) := by
  refine ⟨_, rfl, ?_⟩
  simp only [execCipSelftestEnd, htile, hslot0, hslot1, Bool.or_self, Bool.false_eq_true, if_false]

end

/-! ## SCIPH (R257–R259) -/

/-- A start takes the operation and its parameter block, an unaligned one or one outside SRAM as empty (R258, R259). -/
theorem sciphGo_starts (op : Nat) (k : Fin 16) (hup : geckoUp s = true) (hidle : isSet s F.SCIPH_STATUS_BUSY = false) :
    ∃ u p, u = setF (setF (setF (setF s F.SCIPH_CTRL_OP op) F.SCIPH_CTRL_SLOT k) F.SCIPH_CTRL_GO 1) F.SCIPH_STATUS_BUSY 1
      ∧ p = (if inSram (getF u F.SCIPH_PARAM_ADDR) 128 && getF u F.SCIPH_PARAM_ADDR % 64 = 0 then masterRead u 3 (getF u F.SCIPH_PARAM_ADDR) 128
        else ([], u))
      ∧ sciphGo s op k = { p.2 with sciph := { p.2.sciph with op := some (op * 16 + k.val, getF u F.SCIPH_PARAM_ADDR, p.1) } } := by
  refine ⟨_, _, rfl, rfl, ?_⟩
  simp only [sciphGo, hup, hidle, Bool.not_true, Bool.or_self, Bool.false_eq_true, if_false]

theorem sciphGo_busy (op : Nat) (k : Fin 16) (hbusy : isSet s F.SCIPH_STATUS_BUSY = true) : sciphGo s op k = s := by
  simp only [sciphGo, hbusy, Bool.or_true, if_true]

section
variable {op j a res : Nat} {p k src aad : Bytes} {v w : State}

/-- An operation ends with the RESULT and in the state of its run; its code holds the operation above the slot. -/
theorem execSciphOperationEnd_ends (hj : j < 16) (hop : s.sciph.op = some (op * 16 + j, a, p)) (hrun : sciphRun s op j a p = (res, w)) :
    execSciphOperationEnd s = .next (SciphDone w res) := by
  have hcode : (op * 16 + j) / 16 = op := by omega
  have hslot : (op * 16 + j) % 16 = j := by omega
  simp only [execSciphOperationEnd, hop, hcode, hslot, hrun, SciphDone]

/-- An operation with a bad parameter ends with 11h and changes nothing (R259; log entry 27). -/
theorem sciphRun_bad (hbad : sciphBad op j p = true) : sciphRun s op j a p = (0x11, s) := by
  simp only [sciphRun, hbad, if_true]

section
variable (hgood : sciphBad op j p = false)
include hgood

/-- An operation that would write slot 0 or 1, which hold the keys of the root, is refused (R257). -/
theorem sciphRun_protected (hwrites : op = 5 ∨ op = 8) (hout : spOut p < 2) : sciphRun s op j a p = (0x21, s) := by
  have hprotected : ((op = 5 || op = 8) && spOut p < 2) = true := by simp [hwrites, hout]
  simp only [sciphRun, hgood, hprotected, Bool.false_eq_true, if_false, if_true]

/-- An operation whose key slot is empty is refused (R258). -/
theorem sciphRun_empty (hkeyed : op = 1 ∨ op = 2 ∨ op = 4) (hslot : sciphSlot s j = none) : sciphRun s op j a p = (0x20, s) := by
  rcases hkeyed with rfl | rfl | rfl <;> simp [sciphRun, hgood, hslot, sciphKeyed]

end

/-! The operations under the key of their slot. -/

section
variable (hkey : sciphSlot s j = some k)
include hkey

/-- GCM_ENC writes the ciphertext to DST and the tag to the parameter block (R258, R259). -/
theorem sciphRun_gcmEnc {c : Bytes} (hgood : sciphBad 1 j p = false) (hin : sciphIn s 1 p = ((src, aad), v))
    (hc : c = gcmSeal (key32 k) (slice p 0x20 12) aad src) :
    sciphRun s 1 j a p = (0, masterWrite (masterWrite v 3 (spDst p) (c.take src.length)) 3 (a + 0x30) (c.drop src.length)) := by
  simp [sciphRun, hgood, hkey, hin, hc, sciphKeyed]

/-- GCM_DEC writes the plaintext when the tag verifies, and nothing when it does not (R258). -/
theorem execSciphOperationEnd_gcmDec (hj : j < 16) (hop : s.sciph.op = some (2 * 16 + j, a, p)) (hgood : sciphBad 2 j p = false)
    (hin : sciphIn s 2 p = ((src, aad), v)) :
    execSciphOperationEnd s = .next (match gcmOpen (key32 k) (slice p 0x20 12) aad src (slice p 0x30 16) with
      | none => SciphDone v 0x32
      | some m => SciphDone (masterWrite v 3 (spDst p) m) 0) := by
  cases htag : gcmOpen (key32 k) (slice p 0x20 12) aad src (slice p 0x30 16) <;>
    exact execSciphOperationEnd_ends hj hop (by simp [sciphRun, hgood, hkey, hin, htag, sciphKeyed])

/-- HMAC384 writes the HMAC under its slot's key (R258). -/
theorem sciphRun_hmac384 (hgood : sciphBad 4 j p = false) (hin : sciphIn s 4 p = ((src, aad), v)) :
    sciphRun s 4 j a p = (0, masterWrite v 3 (spDst p) (hashBytes (hmac384 k src))) := by
  simp [sciphRun, hgood, hkey, hin, sciphKeyed]

/-- HKDF loads the key it derives into a slot that is not protected (R257, R258). -/
theorem sciphRun_hkdf (hgood : sciphBad 5 j p = false) (hin : sciphIn s 5 p = ((src, aad), v)) (hout : 2 ≤ spOut p) :
    sciphRun s 5 j a p = (0, setSciphSlot v (spOut p) (hkdf384 [] k (slice p 0x41 (byteAt p 0x40)) 32)) := by
  simp [sciphRun, hgood, hkey, hin, sciphKeyed, Nat.not_lt.mpr hout]

end

/-! The operations that use no key slot named. -/

/-- SHA384 writes the digest (R258). -/
theorem sciphRun_sha384 (hgood : sciphBad 3 j p = false) (hin : sciphIn s 3 p = ((src, aad), v)) :
    sciphRun s 3 j a p = (0, masterWrite v 3 (spDst p) (hashBytes (sha384 src))) := by
  simp [sciphRun, hgood, hin, sciphKeyed]

/-- DERIVE_SRK derives slot 1 from slot 0 and the battery key (R257, R258). -/
theorem sciphRun_deriveSrk {root : Bytes} {bk : BitVec 384} (hgood : sciphBad 6 j p = false) (hin : sciphIn s 6 p = ((src, aad), v))
    (hroot : sciphSlot v 0 = some root) (hbk : v.tamper.bk = some bk) :
    sciphRun s 6 j a p = (0, setSciphSlot v 1 (hkdf384 root (hashBytes bk) [] 32)) := by
  simp [sciphRun, hgood, hin, hroot, hbk, sciphKeyed]

/-- UNWRAP_DMK with the drawbar down ends with 9h (R258). -/
theorem sciphRun_unwrapDmk_down (hgood : sciphBad 7 j p = false) (hin : sciphIn s 7 p = ((src, aad), v)) (hdown : v.drawbar.up = false) :
    sciphRun s 7 j a p = (0x09, v) := by
  simp [sciphRun, hgood, hin, hdown, sciphKeyed]

/-- UNWRAP_DMK pins the key that slot 1 opens (R258). -/
theorem sciphRun_unwrapDmk {root m : Bytes} (hgood : sciphBad 7 j p = false) (hin : sciphIn s 7 p = ((src, aad), v)) (hup : v.drawbar.up = true)
    (hroot : sciphSlot v 1 = some root) (hopen : gcmOpen root (slice p 0x20 12) aad src (slice p 0x30 16) = some m) :
    sciphRun s 7 j a p = (0, pinDomain v (spDomain p) (key32 m)) := by
  simp [sciphRun, hgood, hin, hup, hroot, hopen, sciphKeyed]

/-- LOAD loads its input into a slot that is not protected (R257, R258). -/
theorem sciphRun_load (hgood : sciphBad 8 j p = false) (hin : sciphIn s 8 p = ((src, aad), v)) (hout : 2 ≤ spOut p) :
    sciphRun s 8 j a p = (0, setSciphSlot v (spOut p) src) := by
  simp [sciphRun, hgood, hin, sciphKeyed, Nat.not_lt.mpr hout]

end

/-- Settles O33: one clause for the lock, each end of the self-test, the starts, the refusals, and the operations with and without a
key slot. Which parameters are bad beyond addresses is the model's reading (log entry 27). -/
theorem cipherUnitsComplete : Obligations.CipherUnitsComplete := by
  unfold Obligations.CipherUnitsComplete
  simp only [exec_cipcLockHold, exec_cipcSelftest, exec_cipSelftestEnd, exec_gcmEnc, exec_gcmDec, exec_sha384, exec_hmac384, exec_hkdf,
    exec_deriveSrk, exec_unwrapDmk, exec_load, exec_sciphOperationEnd, List.forall_mem_cons, List.not_mem_nil, false_implies, implies_true, and_true]
  refine ⟨?lock, ?testStarts, ?testEnds, ?starts, ?busy, ?refused, ?keyed, ?keyless⟩
  case lock => exact fun _ _ _ _ hland => whenLandau_of_up hland
  case testStarts =>
    exact fun _ _ _ _ hland hgo hu htile hpart htest hdrain => execCipcSelftest_starts hland hgo hu htile hpart htest hdrain
  case testEnds => exact fun _ _ pass _ htile hslot0 hslot1 => execCipSelftestEnd_ends pass htile hslot0 hslot1
  case starts => exact fun k _ hup hidle => ⟨rfl, rfl, rfl, rfl, rfl, rfl, rfl, rfl, fun op => sciphGo_starts op k hup hidle⟩
  case busy =>
    intro k s hbusy
    simp only [execGcmEnc, execGcmDec, execSha384, execHmac384, execHkdf, execDeriveSrk, execUnwrapDmk, execLoad, sciphGo_busy _ _ hbusy, and_self]
  case refused =>
    intro op j a p s hj hop
    have ends {res : Nat} {w : State} := execSciphOperationEnd_ends (res := res) (w := w) hj hop
    exact ⟨fun hbad => ends (sciphRun_bad hbad), fun hgood hwrites hout => ends (sciphRun_protected hgood hwrites hout),
      fun hgood hkeyed hslot => ends (sciphRun_empty hgood hkeyed hslot)⟩
  case keyed =>
    intro op j a p k src aad s v hj hop hgood hkey hin
    have ends {res : Nat} {w : State} := execSciphOperationEnd_ends (res := res) (w := w) hj hop
    refine ⟨?enc, ?dec, ?hmac, ?hkdf⟩
    case enc =>
      rintro rfl
      exact ⟨_, rfl, ends (sciphRun_gcmEnc hkey hgood hin rfl)⟩
    case dec =>
      rintro rfl
      exact execSciphOperationEnd_gcmDec hkey hj hop hgood hin
    case hmac =>
      rintro rfl
      exact ends (sciphRun_hmac384 hkey hgood hin)
    case hkdf =>
      rintro rfl hout
      exact ends (sciphRun_hkdf hkey hgood hin hout)
  case keyless =>
    intro op j a p src aad s v hj hop hgood hin
    have ends {res : Nat} {w : State} := execSciphOperationEnd_ends (res := res) (w := w) hj hop
    refine ⟨?sha, ?srk, ?unwrapDown, ?unwrap, ?load⟩
    case sha =>
      rintro rfl
      exact ends (sciphRun_sha384 hgood hin)
    case srk =>
      rintro rfl root bk hroot hbk
      exact ends (sciphRun_deriveSrk hgood hin hroot hbk)
    case unwrapDown =>
      rintro rfl hdown
      exact ends (sciphRun_unwrapDmk_down hgood hin hdown)
    case unwrap =>
      rintro rfl hup root m hroot hopen
      exact ends (sciphRun_unwrapDmk hgood hin hup hroot hopen)
    case load =>
      rintro rfl hout
      exact ends (sciphRun_load hgood hin hout)

end Sys2Proof.Machine
end

section
/-!
Random generation. The length of what the generator gives, what RANDOM_BYTES and RNG_STATUS stage, and what the seeds, the continuous tests and
the registers read leave (O34).
-/
namespace Sys2Proof.Machine

variable {s u v z : State} {t : TagEntry} {r : Run}

/-! ## Lengths (R260, R269) -/

theorem length_leBytes (x n : Nat) : (leBytes x n).length = n := by
  induction n generalizing x with
  | zero => rfl
  | succ n ih => rw [leBytes, List.length_cons, ih]

theorem length_ofBlock (x : W128) : (ofBlock x).length = 16 := by rw [ofBlock, beBytes, List.length_reverse, length_leBytes]

theorem length_flatMap_of_length_eq {α β : Type} {f : α → List β} {k : Nat} (h : ∀ a, (f a).length = k) (l : List α) :
    (l.flatMap f).length = k * l.length := by
  induction l with
  | nil => rfl
  | cons a l ih => rw [List.flatMap_cons, List.length_append, h, ih, List.length_cons, Nat.mul_add_one, Nat.add_comm]

theorem length_ctrBlocks (key : Bytes) (x : W128) (n : Nat) : (ctrBlocks key x n).1.length = 16 * n := by
  rw [ctrBlocks, length_flatMap_of_length_eq (fun _ => length_ofBlock _), List.length_range]

theorem length_ctrGenerate (key : Bytes) (x : W128) (n : Nat) : (ctrGenerate key x n).1.length = n := by
  have htake : (ctrGenerate key x n).1 = (ctrBlocks key x ((n + 15) / 16)).1.take n := rfl
  rw [htake, List.length_take, length_ctrBlocks]
  omega

theorem length_drbgBytes (s : State) (i n : Nat) : (drbgBytes s i n).1.length = n := by
  rw [drbgBytes]
  cases rngInst s i with
  | none => simp only [drawBytes, List.length_map, List.length_range]
  | some x => exact length_ctrGenerate x.key x.v n

/-- The output after one more of the requests for `n` bytes: 4 KiB, or what is left. -/
def drbgAppend (i n : Nat) (p : Bytes × State) (k : Nat) : Bytes × State :=
  (p.1 ++ (drbgBytes p.2 i (min 4096 (n - 4096 * k))).1, (drbgBytes p.2 i (min 4096 (n - 4096 * k))).2)

theorem drbgOutput_eq_foldl (s : State) (i n : Nat) : drbgOutput s i n = (List.range ((n + 4095) / 4096)).foldl (drbgAppend i n) ([], s) := rfl

theorem length_foldl_drbgAppend (s : State) (i n m : Nat) : ((List.range m).foldl (drbgAppend i n) ([], s)).1.length = min n (4096 * m) := by
  induction m with
  | zero => exact (Nat.min_zero n).symm
  | succ m ih =>
    simp only [List.range_succ, List.foldl_append, List.foldl_cons, List.foldl_nil, drbgAppend, List.length_append, length_drbgBytes, ih]
    omega

theorem length_drbgOutput (s : State) (i n : Nat) : (drbgOutput s i n).1.length = n := by
  rw [drbgOutput_eq_foldl, length_foldl_drbgAppend]
  omega

/-! ## RANDOM_BYTES (R272) -/

/-- What RANDOM_BYTES answers: `n` bytes of a generator, and its number. -/
def randomAnswer (i n : Nat) (s : State) : (Outcome × Effect) × State := ((outData i (drbgOutput s i n).1, .nothing), (drbgOutput s i n).2)

theorem randomAnswer_eq (s : State) (i n : Nat) : randomAnswer i n s = ((outData i (drbgOutput s i n).1, .nothing), (drbgOutput s i n).2) := rfl

/-- The state without the prediction-resistance wait of a tag. -/
def dropWait (s : State) (tag : Nat) : State := { s with rng := { s.rng with pr := s.rng.pr.filter (fun x => x.tag != tag) } }

/-- Without PR, RANDOM_BYTES starts once its generator can serve the requests. -/
theorem goRandomBytes_plain (hwait : s.rng.pr.find? (fun w => w.tag = t.tag) = none) (hpr : byteAt t.entry 0x40 ≠ 1)
    (hserves : rngAllows s (16 + r.unit) ((seOutLen t.entry + 4095) / 4096) = true) :
    goRandomBytes r s t = startOn s t r 2 0 (randomAnswer (16 + r.unit) (seOutLen t.entry)) := by
  simp only [goRandomBytes, hwait, hpr, hserves, Bool.not_true, Bool.false_eq_true, if_false]
  rfl

/-- With PR, it first waits for a seed that is begun after the wait. -/
theorem goRandomBytes_waits (hwait : s.rng.pr.find? (fun w => w.tag = t.tag) = none) (hpr : byteAt t.entry 0x40 = 1)
    (hserves : tileServes s 2 (tagWorld s t) r.unit r.tile = true) :
    goRandomBytes r s t
      = { s with rng := { s.rng with pr := s.rng.pr ++ [{ tag := t.tag, inst := 16 + r.unit, stamp := s.rng.block, served := false }] } } := by
  simp only [goRandomBytes, hwait, hpr, hserves, if_true]

/-- A wait that has been served ends, and the command starts. -/
theorem goRandomBytes_served {w : PrWait} (hwait : s.rng.pr.find? (fun w => w.tag = t.tag) = some w) (hserved : w.served = true)
    (hinst : w.inst = 16 + r.unit) (hserves : rngAllows s (16 + r.unit) ((seOutLen t.entry + 4095) / 4096) = true)
    (hc : canStart s t 2 r 1 = true) :
    goRandomBytes r s t = startOn (dropWait s t.tag) t r 2 1 (randomAnswer (16 + r.unit) (seOutLen t.entry)) := by
  simp only [goRandomBytes, hwait, hserved, hinst, hserves, hc, bne_self_eq_false, Bool.not_true, Bool.or_self, Bool.false_eq_true, if_false]
  rfl

theorem drbgOutput_countSusp_quiet (s : State) (r : Run) (i n : Nat) : Quiet s (drbgOutput (countSusp s 2 r) i n).2 :=
  (drbgOutput_quiet i n (countSusp_self_quiet s 2 r)).out

/-- Whether a route may start does not hang on the prediction-resistance waits. -/
theorem canStart_dropWait (s : State) (tag cls rcls : Nat) : canStart (dropWait s tag) t cls r rcls = canStart s t cls r rcls := rfl

/-- A wait dropped before a start does not show in what it leaves. -/
theorem startedWith_of_dropWait {a : Outcome × Effect} {tag : Nat} (h : StartedWith (dropWait s tag) t a u) : StartedWith s t a u := by
  obtain ⟨htag, hothers, hrest⟩ := h
  refine ⟨htag, hothers, ?_⟩
  obtain ⟨⟩ := hrest
  constructor <;> assumption

/-! ## Seeds (R261–R263, R265, R270, R272) -/

/-- A seed block whose raw bits pass their tests is ready; a source whose bits fail has failed. -/
theorem execSeedBlock_fed {a b : BitVec 2048} {n : Nat} {w : State} {l0 l1 : List Bool} {o0 o1 : Bool} (hup : geckoUp s = true)
    (hsource : inService s 0 || inService s 1) (hl0 : l0 = (if inService s 0 then rawBits a (if inService s 1 then 1024 else 2048) else []))
    (hl1 : l1 = (if inService s 1 then rawBits b (if inService s 0 then 1024 else 2048) else [])) (hfeed0 : feedSource s 0 l0 = (u, o0))
    (hfeed1 : feedSource u 1 l1 = (v, o1)) (hw : w = { v with rng := { v.rng with block := v.rng.block + 1 } }) :
    execSeedBlock a b n s = .next (if o0 && o1 then { w with rng := { w.rng with ready := some (v.rng.block, sha384 (bitsToBytes (l0 ++ l1))) } }
      else if o1 then (if o0 then w else healthFail w 0 n) else healthFail (if o0 then w else healthFail w 0 n) 1 n) := by
  have hgo : (!geckoUp s || (!inService s 0 && !inService s 1)) = false := by
    rw [hup, ← Bool.not_or, hsource]
    rfl
  simp only [execSeedBlock, hgo, Bool.false_eq_true, if_false, ← hl0, ← hl1, hfeed0, hfeed1, hw]

/-- The ready block goes to its generator, and serves the waits there that are older than it. -/
theorem execSeedDelivery_seeds {k i : Nat} {x : BitVec 384} (hready : s.rng.ready = some (k, x)) (htarget : seedTarget s k = some i)
    (hu : u = seedInst s i x) : execSeedDelivery s = .next { u with rng := { u.rng with
      ready := none, pr := u.rng.pr.map (fun w => if w.inst = i && decide (w.stamp < k) then { w with served := true } else w) } } := by
  simp only [execSeedDelivery, hready, htarget, hu]

/-! ## Raw bits (R263, R264, R267, R273) -/

theorem execBiasWindow_powered {k : Fin 2} {a b : BitVec 16384} (h : srcState s k.val ≠ 0) :
    execBiasWindow k a b s = .next (setF (setF s (F.RNG_BIAS_ONES k.val) ((rawBits (a ++ b) 32768).filter id).length)
      (F.RNG_BIAS_EQUAL k.val) (equalPairs (rawBits (a ++ b) 32768))) := by
  rw [execBiasWindow]
  exact congrArg _ (if_neg h)

theorem execStartupTestEnd_starting {k : Fin 2} {raw : BitVec 4096} {n : Nat} (h : srcState s k.val = 1) :
    execStartupTestEnd k raw n s = .next (if startupOk s raw then serviceRefresh (setSrc s k.val 2) else healthFail s k.val n) := by
  simp only [execStartupTestEnd, h, bne_self_eq_false, Bool.false_eq_true, if_false]

/-- RNG_RAW_READ of a powered source shows 16 raw bits; a healthy source that fails its tests on them has failed. -/
theorem execRngRawRead_exports {n x : Nat} {ok : Bool} (hexport : isSet s F.RNG_CTRL_RAW_EXPORT = true) (hn : n = getF s F.RNG_RAW_SOURCE)
    (hpowered : srcState s n ≠ 0) (hdraw : draw s 16 = (x, u))
    (hfeed : (z, ok) = (if srcState u n = 2 then feedSource u n (rawBits (BitVec.ofNat 16 x) 16) else (u, true))) :
    execRngRawRead s
      = .next (setF (setF (if ok then z else healthFail z n (1000000 * optime z)) F.RNG_RAW_VALID 1) F.RNG_RAW_BITS x) := by
  subst hn
  have hgo : (isSet s F.RNG_CTRL_RAW_EXPORT && srcState s (getF s F.RNG_RAW_SOURCE) != 0) = true := by
    rw [hexport, Bool.true_and, bne_iff_ne]
    exact hpowered
  simp only [execRngRawRead, hgo, if_true, hdraw, ← hfeed]

theorem execRngRawRead_closed (hexport : isSet s F.RNG_CTRL_RAW_EXPORT = false) :
    execRngRawRead s = .next (setF (setF s F.RNG_RAW_VALID 0) F.RNG_RAW_BITS 0) := by
  simp only [execRngRawRead, hexport, Bool.false_and, Bool.false_eq_true, if_false]

theorem execRngDataRead_serves (h : rngServes s 28 1 = true) :
    execRngDataRead s = .next (setF (drbgBits s 28 32).2 F.RNG_DATA_VALUE (drbgBits s 28 32).1) := by
  rw [execRngDataRead, if_pos h]

theorem execRngDataRead_fails (h : rngServes s 28 1 = false) :
    execRngDataRead s = .next (setF (setF s F.RNG_DATA_VALUE 0) F.RNG_STATUS_DATA_ERR 1) := by
  simp only [execRngDataRead, h, Bool.false_eq_true, if_false]

/-- Settles O34: three clauses for RANDOM_BYTES and one for the length of its bytes, then one for each other command, two for RNG_RAW_READ. That
an outcome is staged at commit (log entry 51), which raw bits count when both sources serve (55), that a source enabled again starts up (77) and
in what order seeds go out (78) are the model's choices. -/
theorem randomCommandsComplete : Obligations.RandomCommandsComplete := by
  unfold Obligations.RandomCommandsComplete
  refine ⟨?plain, ?waits, ?served, ?length, ?status, ?block, ?delivery, ?stall, ?bias, ?rekey, ?refresh, ?data, ?raw, ?rawClosed, ?startup⟩
  case plain =>
    rintro r s t _ hp rfl hwait hpr hserves hc
    exact hp.commits_on (exec_randomBytes s r) (goRandomBytes_plain hwait hpr hserves) hc (randomAnswer_eq _ _ _)
      (drbgOutput_countSusp_quiet s r _ _) ⟨rfl, _, rfl, rfl⟩
  case waits =>
    intro r s t hp hwait hpr hserves
    rw [exec_randomBytes, execRandomBytes, hp.checked_eq, goRandomBytes_waits hwait hpr hserves]
  case served =>
    rintro r s t _ w _ hp rfl hwait hserved hinst hserves hc rfl
    refine hp.commits (exec_randomBytes s r) ?_ ⟨rfl, _, rfl, rfl⟩
    rw [goRandomBytes_served hwait hserved hinst hserves hc]
    exact startedWith_of_dropWait (startOn_answers (s := dropWait s t.tag) hp.findTag_self ((canStart_dropWait s t.tag 2 1).trans hc)
      (randomAnswer_eq _ _ _) (drbgOutput_countSusp_quiet _ r _ _))
  case length => exact length_drbgOutput
  case status => exact fun r s t hp => (exec_rngStatus s r).trans hp.checked_eq
  case block =>
    intro a b n s u v w l0 l1 o0 o1 hup hsource hl0 hl1 hfeed0 hfeed1 hw
    rw [exec_seedBlock, execSeedBlock_fed hup hsource hl0 hl1 hfeed0 hfeed1 hw]
    refine ⟨?_, ?_, ?_, ?_⟩ <;> intro h0 h1 <;> simp only [h0, h1, Bool.and_true, Bool.and_false, Bool.false_eq_true, if_true, if_false]
  case delivery => exact fun s u k i x hready htarget hu => execSeedDelivery_seeds hready htarget hu
  case stall => exact fun i s h => congrArg _ (if_pos h)
  case bias =>
    intro k a b l s h hl
    rw [exec_biasWindow, execBiasWindow_powered h, hl]
  case rekey => exact fun u i s h => congrArg _ (if_pos h)
  case refresh => exact exec_rngStatusRefresh
  case data => exact fun s => ⟨execRngDataRead_serves, execRngDataRead_fails⟩
  case raw => exact fun s u z n x ok hexport hn hpowered hdraw hfeed => execRngRawRead_exports hexport hn hpowered hdraw hfeed
  case rawClosed => exact fun s h => execRngRawRead_closed h
  case startup =>
    intro k raw n s h
    rw [exec_startupTestEnd, execStartupTestEnd_starting h]
    exact ⟨fun hok => by rw [if_pos hok], fun hbad => by rw [hbad]; rfl⟩

end Sys2Proof.Machine
end

section
/-!
The rows of boot and ledger. What LEDGER_READ to LIFECYCLE stage once their checks pass, and how the end of a ZEROISE_ALL goes on (O35).
-/
namespace Sys2Proof.Machine

variable {s : State} {t : TagEntry} {r : Run} {b : Bytes}

/-! ## What the rows read (R308, R312) -/

/-- The part of a quote that is signed (R312). -/
def quoteBody (s : State) (nonce : Bytes) : Bytes :=
  [0x51, 0x55, 0x4F, 0x54] ++ zeros 4 ++ leBytes s.led.head 8 ++ sliceZ nonce 0 32 ++ hashBytes s.led.headHash ++ leBytes (evidence s) 2
    ++ leBytes (life s) 1 ++ leBytes (mode s) 1 ++ leBytes (getF s F.QMGR_WINDOW_ID) 4 ++ zeros 56

/-- A quote is its body and the free value that signs it (R312). -/
theorem makeQuote_fst (s : State) (nonce : Bytes) : (makeQuote s nonce).1 = quoteBody s nonce ++ (akSign s (quoteBody s nonce)).1 := rfl

theorem withInput_some (hinput : r.input = some b) (n : Nat) (f : Bytes → Outcome × Effect) : withInput r n f = f (sliceZ b 0 n) := by
  rw [withInput, hinput]

/-! ## The end of a ZEROISE_ALL (R315, R461, R472) -/

/-- The end of a tamper response resets the device (R461 step 8). -/
theorem execZeroiseAllComplete_response (hup : geckoUp s = true) (hresp : s.tamper.resp ≠ 0) : execZeroiseAllComplete s
    = .next (deviceReset (zeroiseAllEnd { s with tamper := { s.tamper with zallRunning := false, resp := 0 } }) F.SYSCTL_RSTCAUSE_TAMPER) := by
  simp [execZeroiseAllComplete, whenGecko_of_up hup, hresp]

/-- A ZEROISE_ALL without a response ends, and the transition in progress goes on if it asked for it and its completion is gone (R315). -/
theorem execZeroiseAllComplete_request {u : State} (hup : geckoUp s = true) (hrun : s.tamper.zallRunning = true) (hresp : s.tamper.resp = 0)
    (hu : u = zeroiseAllEnd { s with tamper := { s.tamper with zallRunning := false } }) :
    (u.led.act = none → execZeroiseAllComplete s = .next u)
    ∧ ∀ a, u.led.act = some a → a.zall = true → lifePosted u a = true → execZeroiseAllComplete s = .next (lifeFinish u a) := by
  have hquiet : (s.tamper.resp != 0) = false := bne_eq_false_iff_eq.mpr hresp
  refine ⟨fun hnone => ?_, fun a hact hzall hposted => ?_⟩
  · simp only [execZeroiseAllComplete, whenGecko_of_up hup, hrun, hquiet, ← hu, hnone, Bool.not_true, Bool.false_and, Bool.false_eq_true, if_false]
  · simp only [execZeroiseAllComplete, whenGecko_of_up hup, hrun, hquiet, ← hu, hact, hzall, hposted, Bool.not_true, Bool.false_and, Bool.and_self,
      Bool.false_eq_true, if_false, if_true]

/-- Settles O35: one clause for each row, two for ATTEST_QUOTE and LIFECYCLE, and the two ends of a ZEROISE_ALL. That outcome and effect are staged
at commit (log entry 51) and that LEDGER_READ passes over records it lacks (57) are the model's choices. -/
theorem bootRowsCommit : Obligations.BootRowsCommit := by
  unfold Obligations.BootRowsCommit
  refine ⟨?ledgerRead, ?ledgerStatus, ?quote, ?quoteNoInput, ?certRead, ?flashAuth, ?bootSelect, ?lifecycle, ?tamperEnd, ?requestEnd⟩
  case ledgerRead => exact fun r s _ hp hc => hp.commits_core (exec_ledgerRead s r) rfl hc rfl (.refl s) ⟨rfl, rfl⟩
  case ledgerStatus => exact fun r s _ hp hc => hp.commits_core (exec_ledgerStatus s r) rfl hc rfl (.refl s) ⟨rfl, rfl⟩
  case quote =>
    intro r s t n hp hinput hc
    have hquiet : Quiet s (makeQuote s n).2 := (makeQuote_quiet n (.refl s)).out
    exact hp.commits_core (exec_attestQuote s r) rfl hc (by simp only [hinput]; rfl) hquiet
      ⟨rfl, quoteBody s n, rfl, by rw [hquiet.led, makeQuote_fst]⟩
  case quoteNoInput =>
    exact fun r s t hp hinput hc => hp.commits_core (exec_attestQuote s r) rfl hc (by simp only [hinput]) (.refl s) ⟨rfl, rfl⟩
  case certRead => exact fun r s _ hp hc => hp.commits_core (exec_certRead s r) rfl hc rfl (.refl s) ⟨rfl, _, rfl, rfl⟩
  case flashAuth =>
    exact fun r s t b hp hb hc => hp.commits_core (exec_hostFlashAuth s r) rfl hc (by rw [withInput_some hb]) (.refl s) ⟨rfl, rfl⟩
  case bootSelect => exact fun r s _ hp hc => hp.commits_core (exec_hostBootSelect s r) rfl hc rfl (.refl s) ⟨rfl, rfl⟩
  case lifecycle =>
    rintro r s t _ b rfl hp hb hc
    refine ⟨fun hfree => ?_, fun hquorum happroved => ?_⟩
    · exact hp.commits_core (exec_lifecycle s r) (if_pos hfree) hc (by rw [withInput_some hb]) (.refl s) ⟨rfl, rfl⟩
    · have hinput : sliceZ (r.input.getD []) 0 (seInLen t.entry) = sliceZ b 0 (seInLen t.entry) := by rw [hb]; rfl
      exact hp.commitsByQuorum (exec_lifecycle s r) (if_neg hquorum) (hinput ▸ happroved)
        (startOn_answers hp.findTag_self hc (by rw [withInput_some hb, countSusp_of_ne (by decide)]) (.refl s)) ⟨rfl, rfl⟩
  case tamperEnd => exact fun s hup hresp => (exec_zeroiseAllComplete s).trans (execZeroiseAllComplete_response hup hresp)
  case requestEnd =>
    intro s u hup hrun hresp hu
    obtain ⟨hends, hfinishes⟩ := execZeroiseAllComplete_request hup hrun hresp hu
    exact ⟨hends, fun a hact hzall hgone => hfinishes a hact hzall (by rw [lifePosted, hgone]; rfl)⟩

end Sys2Proof.Machine
end

section
/-!
The host flash. How a map is loaded, a pass starts and ends, the host is released, and a transaction is passed or blocked (O36).
-/
namespace Sys2Proof.Machine

variable {s u : State} {t : HostTrans} {ok : Bool}

/-! ## The map and the passes over it (R278, R286, R289) -/

/-- HOSTSPI_LOAD outside a pass reads a map: in force when well-formed, else MAP_ERR (R278). -/
theorem execHostspiLoad_idle {m : Bytes} (hup : geckoUp s = true) (hidle : isSet s F.HOSTSPI_STATUS_MEASURING = false)
    (hread : masterRead s 5 (getF s F.HOSTSPI_MAPADDR_VALUE) (getF s F.HOSTSPI_MAPLEN_VALUE) = (m, u)) :
    execHostspiLoad s = .next (if mapOk m then loadMap u m else setF u F.HOSTSPI_STATUS_MAP_ERR 1) := by
  simp only [execHostspiLoad, whenGecko_of_up hup, hidle, hread, Bool.false_eq_true, if_false]

section

variable (hup : geckoUp s = true) (hmap : isSet s F.HOSTSPI_STATUS_MAP_VALID = true) (hidle : isSet s F.HOSTSPI_STATUS_MEASURING = false)
include hup hmap hidle

/-- The measurement of the host, when it is due, is over every mapped region, with no digest yet (R289 step 3, R314). -/
theorem execHostspiMeasure_due (hdue : s.hf.stage = 1) : execHostspiMeasure s
    = .next (startPass (setF (setF { s with hf := { s.hf with stage := 2, digests := [], applied := s.hf.select = 1 } }
        F.HOSTSPI_RESULT_PRIMARY 0) F.HOSTSPI_RESULT_RECOVERY 0) (2 ^ hmRegions s.hf.map - 1) 0) := by
  simp only [execHostspiMeasure, whenGecko_of_up hup, hmap, hidle, hdue, Bool.not_true, Bool.or_self, Bool.false_eq_true, if_false, if_true]

/-- Any other pass is over the ranges HOSTSPI_MEASURE names (R278). -/
theorem execHostspiMeasure_named (hdue : s.hf.stage ≠ 1) :
    execHostspiMeasure s = .next (startPass s (getF s F.HOSTSPI_MEASURE_PRIMARY) (getF s F.HOSTSPI_MEASURE_RECOVERY)) := by
  simp only [execHostspiMeasure, whenGecko_of_up hup, hmap, hidle, hdue, Bool.not_true, Bool.or_self, Bool.false_eq_true, if_false]

end

/-- The primary pass of the host's measurement is followed by the recovery pass where the policy wants one (R286). -/
theorem afterPass_recovery (hstage : s.hf.stage = 2) (hwants : wantsRecovery s ≠ 0) :
    afterPass s ok = startPass { s with hf := { s.hf with stage := 3 } } 0 (wantsRecovery s) := by
  simp [afterPass, hstage, hwants]

/-- With no recovery pass to make, or after it, the policy decides (R289 step 6). -/
theorem afterPass_decides (h : s.hf.stage = 2 ∧ wantsRecovery s = 0 ∨ s.hf.stage = 3) : afterPass s ok = hostDecide s ok := by
  obtain ⟨hstage, hwants⟩ | hstage := h
  · simp [afterPass, hstage, hwants]
  · simp [afterPass, hstage]

/-- A pass that is not of the host's measurement is followed by nothing. -/
theorem afterPass_other (hprimary : s.hf.stage ≠ 2) (hrecovery : s.hf.stage ≠ 3) : afterPass s ok = s := by
  simp [afterPass, hprimary, hrecovery]

theorem execMeasurementPassEnd_running {p : PassEnd} {a b : Nat} (hup : geckoUp s = true) (hpass : s.hf.pass = some (a, b)) :
    execMeasurementPassEnd p s = .next (afterPass (passDone s p a b) p.ledgerOk) := by
  simp only [execMeasurementPassEnd, whenGecko_of_up hup, hpass]

/-! ## The release (R277, R289, R293) -/

/-- Once decided, outside a pass, the release opens the windows that waited and drops HOST_HOLD_N (R277, R293). -/
theorem execHostspiRelease_decided {v : State} (hup : geckoUp s = true) (hdecided : s.hf.stage = 4)
    (hidle : isSet s F.HOSTSPI_STATUS_MEASURING = false) (hu : u = endPattern s (fun _ => true))
    (hv : v = setF u F.HOSTSPI_OPEN_REGIONS (getF u F.HOSTSPI_OPEN_REGIONS ||| u.hf.openNext)) :
    execHostspiRelease s = .next (hostLegEnds (setHold { v with hf := { v.hf with stage := 0, openNext := 0 } } false)) := by
  simp only [execHostspiRelease, whenGecko_of_up hup, hdecided, hidle, Bool.not_false, and_self, if_true, hv, hu]

/-- Before the decision, or during a pass, a release changes nothing (R316). -/
theorem execHostspiRelease_ignored (hup : geckoUp s = true) (h : s.hf.stage ≠ 4 ∨ isSet s F.HOSTSPI_STATUS_MEASURING = true) :
    execHostspiRelease s = .next s := by
  rw [execHostspiRelease, whenGecko_of_up hup, if_neg]
  rintro ⟨hdecided, hidle⟩
  obtain hother | hmeasuring := h
  · exact hother hdecided
  · rw [hmeasuring] at hidle
    exact absurd hidle (by decide)

/-! ## Transactions (R281, R283–R285, R288) -/

/-- What is driven to the device for a transaction that passes; a READ goes to the recovery range where its region is redirected (R288). -/
def drivenSide (s : State) (t : HostTrans) (e : HOpcode) (a : Nat) : FlashSide :=
  { device := t.device.val, opcode := t.opcode.toNat, addr := if e.cls = 1 then redirected s t.device.val a else a }

/-- An opcode the map lists is blocked as its class says, else driven to the device (R281, R288). -/
theorem filterTrans_listed {e : HOpcode} {a : Nat} (hlisted : (hmOps s.hf.map).find? (fun e => e.op = t.opcode.toNat) = some e)
    (ha : a = if e.addr = 0 then 0 else t.addr.toNat) : filterTrans s t
      = if blocksTrans s e t then blockTrans s t a else { s with hf := { s.hf with side := some (drivenSide s t e a) } } := by
  simp only [filterTrans, hlisted, ha, drivenSide]

/-- An opcode the map does not list is counted and blocked (R283, R284). -/
theorem filterTrans_unlisted (hunlisted : (hmOps s.hf.map).find? (fun e => e.op = t.opcode.toNat) = none) :
    filterTrans s t = blockTrans (bump s F.HOSTSPI_UNKNOWN_COUNT F.HOSTSPI_UNKNOWN_SAT) t 0 := by
  simp only [filterTrans, hunlisted]

/-- While the host is held nothing is driven; else the transaction is filtered. Activity the interposer did not drive trips T14 (R277, R285). -/
theorem execHostFlashTransaction_up (hup : geckoUp s = true)
    (hu : u = if s.power.hold then { s with hf := { s.hf with side := none } } else filterTrans s t) :
    execHostFlashTransaction t s = .next (if t.intrusion then tamperTrip u 14 else u) := by
  rw [execHostFlashTransaction, whenGecko_of_up hup, hu]

theorem execHostFlashTransaction_held (hup : geckoUp s = true) (hheld : s.power.hold = true) (hquiet : t.intrusion = false) :
    execHostFlashTransaction t s = .next { s with hf := { s.hf with side := none } } := by
  rw [execHostFlashTransaction_up hup rfl, hquiet, hheld]
  rfl

theorem execHostFlashTransaction_released (hup : geckoUp s = true) (hfree : s.power.hold = false) (hquiet : t.intrusion = false) :
    execHostFlashTransaction t s = .next (filterTrans s t) := by
  rw [execHostFlashTransaction_up hup rfl, hquiet, hfree]
  rfl

/-- Settles O36: one clause for the load, the start and the end of a pass, two for the release, four for a transaction. That a release before the
decision is ignored is the model's choice (log entry 28). -/
theorem hostFlashCommandsComplete : Obligations.HostFlashCommandsComplete := by
  unfold Obligations.HostFlashCommandsComplete
  simp only [exec_hostspiLoad, exec_hostspiMeasure, exec_measurementPassEnd, exec_hostspiRelease, exec_hostFlashTransaction]
  refine ⟨?load, ?measure, ?passEnd, ?release, ?early, ?held, ?listed, ?unlisted, ?intrusion⟩
  case load =>
    intro s u m hup hidle hread
    rw [execHostspiLoad_idle hup hidle hread]
    exact ⟨fun hok => by rw [if_pos hok, loadMap], fun hbad => by rw [hbad]; rfl⟩
  case measure =>
    exact fun s hup hmap hidle => ⟨fun hdue => ⟨_, rfl, execHostspiMeasure_due hup hmap hidle hdue⟩, execHostspiMeasure_named hup hmap hidle⟩
  case passEnd =>
    rintro p s _ a b hup hpass rfl
    rw [execMeasurementPassEnd_running hup hpass]
    exact ⟨fun hstage hwants => congrArg _ (afterPass_recovery hstage hwants),
      fun hstage hwants => congrArg _ (afterPass_decides (.inl ⟨hstage, hwants⟩)), fun hstage => congrArg _ (afterPass_decides (.inr hstage)),
      fun hprimary hrecovery => congrArg _ (afterPass_other hprimary hrecovery)⟩
  case release => exact fun s hup hdecided hidle => ⟨_, _, rfl, rfl, execHostspiRelease_decided hup hdecided hidle rfl rfl⟩
  case early => exact fun s hup h => execHostspiRelease_ignored hup h
  case held => exact fun t s hup hheld hquiet => execHostFlashTransaction_held hup hheld hquiet
  case listed =>
    intro t s e a hup hfree hquiet hlisted ha
    rw [execHostFlashTransaction_released hup hfree hquiet, filterTrans_listed hlisted ha]
    exact ⟨fun hblocks => by rw [if_pos hblocks], fun hpasses => by rw [hpasses]; rfl⟩
  case unlisted =>
    intro t s hup hfree hquiet hunlisted
    rw [execHostFlashTransaction_released hup hfree hquiet, filterTrans_unlisted hunlisted]
  case intrusion =>
    intro t s hup hintrusion
    rw [execHostFlashTransaction_up hup rfl, if_pos hintrusion]

end Sys2Proof.Machine
end

section
/-!
The ledger card. What its insertion and removal, the SDH operations with their ends, and mirroring leave (O50).
-/
namespace Sys2Proof.Machine

variable {s u v : State} {c : SdCard} {op b n a : Nat} {d : Bytes} {e : SdEnd} {f : SdCard → State}

/-! ## Insertion and removal (R546, R549) -/

theorem withSd_of_powered (hup : geckoUp s = true) (hon : domainOn s 66 = true) : withSd s u = .next u := by
  rw [withSd, if_pos ⟨hup, hon⟩]

/-- A card that comes in is initialised (R546). -/
theorem execSdInsertion_absent {ok : Bool} (hup : geckoUp s = true) (hon : domainOn s 66 = true) (habsent : isSet s F.SDH_STATUS_PRESENT = false) :
    execSdInsertion c ok s = .next (sdInit (setF s F.SDH_STATUS_PRESENT 1) c ok) := by
  rw [execSdInsertion, withSd_of_powered hup hon, habsent]
  rfl

/-- A card that goes loses its supply; the command that runs ends REMOVED, or UNDETERMINED for a write past its last block's token (R549). -/
theorem execSdRemoval_present {after : Bool} (hup : geckoUp s = true) (hon : domainOn s 66 = true) (hpresent : isSet s F.SDH_STATUS_PRESENT = true)
    (hu : u = setF (setF (setF (sdState (sdUnpower { s with sdh := SdhState.init }) 0) F.SDH_STATUS_PRESENT 0) F.SDH_STATUS_BUSY 0)
      F.SDH_STATUS_REMOVED 1) :
    (s.sdh.cmd = none → execSdRemoval after s = .next (sdIrq u))
    ∧ ∀ op y, s.sdh.cmd = some (op, y) → execSdRemoval after s = .next (sdIrq (sdDone u op (if op = 1 ∧ after = true then 10 else 1) 0)) := by
  refine ⟨fun hcmd => ?_, fun op y hcmd => ?_⟩ <;>
    simp only [execSdRemoval, withSd_of_powered hup hon, hpresent, hcmd, ← hu, Bool.not_true, Bool.false_eq_true, if_false]

/-! ## Commands (R545, R547, R548, R552) -/

/-- A transfer may go on: the card has no password, or is unlocked. -/
theorem transfer_unlocked (h : c.pwd = none ∨ s.sdh.unlocked = true) : (c.pwd.isSome && !s.sdh.unlocked) = false := by
  obtain hopen | hopen := h <;> simp [hopen]

section

variable (hup : geckoUp s = true) (hon : domainOn s 66 = true) (hidle : s.sdh.cmd = none) (hcard : s.sdh.card = some c)
include hup hon hidle hcard

/-- A command on a powered card with none running is carried out. -/
theorem sdCmd_idle : sdCmd s op f = .next (f c) := by
  rw [sdCmd, withSd_of_powered hup hon, hidle, hcard]
  rfl

/-- Transfers of a locked card are refused (R547). -/
theorem transfer_locked (hpwd : c.pwd.isSome = true) (hlocked : s.sdh.unlocked = false) :
    execSdhWrite s = .next (sdDone s 1 6 0) ∧ execSdhRead s = .next (sdDone s 2 6 0) := by
  simp [execSdhWrite, execSdhRead, sdCmd_idle hup hon hidle hcard, hpwd, hlocked]

section

variable (hopen : c.pwd = none ∨ s.sdh.unlocked = true)
include hopen

/-- Transfers out of range are refused (R548). -/
theorem transfer_out_of_range (hrange : sdRange s c = true) :
    execSdhWrite s = .next (sdDone s 1 8 0) ∧ execSdhRead s = .next (sdDone s 2 8 0) := by
  simp only [execSdhWrite, execSdhRead, sdCmd_idle hup hon hidle hcard, transfer_unlocked hopen, hrange, Bool.false_eq_true, if_false, if_true,
    and_self]

theorem execSdhRead_starts (hrange : sdRange s c = false) : execSdhRead s = .next (sdStart s 2 (getF s F.SDH_COUNT_VALUE) []) := by
  simp only [execSdhRead, sdCmd_idle hup hon hidle hcard, transfer_unlocked hopen, hrange, Bool.false_eq_true, if_false]

/-- A write whose source MPU denies in part sends nothing (R552); else it starts with its blocks. -/
theorem execSdhWrite_in_range (hn : n = getF s F.SDH_COUNT_VALUE) (ha : a = getF s F.SDH_SRAM_VALUE) (hrange : sdRange s c = false) :
    execSdhWrite s = .next (if masterOk s 7 0 a (512 * n) then sdStart s 1 n (geckoBytes s a (512 * n))
      else sdDone (recordDenied s 0 7 0 a (512 * n)) 1 7 0) := by
  cases hok : masterOk s 7 0 a (512 * n) <;>
    simp only [execSdhWrite, sdCmd_idle hup hon hidle hcard, transfer_unlocked hopen, hrange, ← hn, ← ha, hok, Bool.not_false, Bool.not_true,
      Bool.false_eq_true, if_false, if_true]

end

/-- A password command takes its 16 bytes from SDH_SRAM (R547; log entry 67). -/
theorem sdPwdCmd_starts (ha : a = getF s F.SDH_SRAM_VALUE) (haligned : a % 4 = 0) (hsram : inSram a 16 = true)
    (hok : masterOk s 7 0 a 16 = true) : sdPwdCmd s op = .next (sdStart s op 0 (geckoBytes s a 16)) := by
  simp [sdPwdCmd, sdCmd_idle hup hon hidle hcard, ← ha, haligned, hsram, hok]

end

/-! ## Ends (R548) -/

/-- The ERRs a command that was sent can end with: WRITE_STATUS and BUSY_TIMEOUT for a write only (R548). -/
theorem sdErrOk_iff {x : Nat} : sdErrOk op x = true ↔ x ∈ [0, 2, 3, 6, 9] ∨ (op = 1 ∧ (x = 4 ∨ x = 5)) := by
  simp only [sdErrOk, Bool.or_eq_true, List.contains_iff_mem, Bool.and_eq_true, decide_eq_true_eq]

/-- The end of the command that runs, by its number. -/
theorem execSdhOperationEnd_running (hup : geckoUp s = true) (hon : domainOn s 66 = true) (hcmd : s.sdh.cmd = some (op, b, n, a, d))
    (herr : sdErrOk op e.err.val = true) (hu : u = setF { s with sdh := { s.sdh with cmd := none } } F.SDH_STATUS_BUSY 0) :
    (op = 1 → execSdhOperationEnd e s = .next (sdWrote u b n d e)) ∧ (op = 2 → execSdhOperationEnd e s = .next (sdWasRead u b n a e))
    ∧ (op = 3 → execSdhOperationEnd e s = .next (sdErased u e.err.val))
    ∧ (op = 6 → execSdhOperationEnd e s = .next (sdDone (sdState (sdUnpower { u with sdh := SdhState.init }) 0) 6 0 0))
    ∧ ((op = 4 ∨ op = 5) → execSdhOperationEnd e s = .next (sdLocked u op d e.err.val)) := by
  rw [execSdhOperationEnd, withSd_of_powered hup hon, ← hu, hcmd, Option.map_some, Option.getD_some, herr]
  refine ⟨?write, ?read, ?erase, ?powerOff, ?lock⟩
  case write | read | erase | powerOff =>
    rintro rfl
    rfl
  case lock => rintro (rfl | rfl) <;> rfl

/-! ## Mirroring (R304, R551) -/

/-- On a ready card with no command running, a mirroring that fails is counted; one that succeeds writes what is not yet there. -/
theorem execLedgerMirror_ready {ok : Bool} {l : List Nat} (hup : geckoUp s = true) (hon : domainOn s 66 = true)
    (hready : getF s F.SDH_STATUS_STATE = 2) (hidle : s.sdh.cmd = none)
    (hl : l = (((s.led.ring ++ s.led.sram).map (fun e => e.1)).filter (fun q => sdNext s ≤ q)).mergeSort (fun a b => a ≤ b)) :
    execLedgerMirror ok s
      = .next (if ok then mirrorEvents (l.foldl mirrorRecord s) else bump s F.SDH_WERR_COUNT F.SDH_WERR_SAT) := by
  cases ok <;> simp [execLedgerMirror, withSd_of_powered hup hon, hready, hidle, hl]

/-- Settles O50: insertion, removal, the starts of the six commands, their ends, and mirroring. Where the password comes from and what a failed
mirroring leaves are the model's choices (log entry 67). -/
theorem ledgerCardCommandsComplete : Obligations.LedgerCardCommandsComplete := by
  unfold Obligations.LedgerCardCommandsComplete
  simp only [exec_sdInsertion, exec_sdRemoval, exec_sdhWrite, exec_sdhRead, exec_powerOff, exec_forceErase, exec_setLock, exec_sdhUnlock,
    exec_sdhOperationEnd, exec_ledgerMirror]
  refine ⟨?inserted, ?removed, ?starts, ?ends, ?mirrors⟩
  case inserted => exact fun _ _ _ hup hon habsent => execSdInsertion_absent hup hon habsent
  case removed => exact fun _ _ _ hup hon hpresent hu => execSdRemoval_present hup hon hpresent hu
  case starts =>
    intro s n a c hup hon hidle hcard hn ha
    have starts {op : Nat} {f : SdCard → State} : sdCmd s op f = .next (f c) := sdCmd_idle hup hon hidle hcard
    refine ⟨transfer_locked hup hon hidle hcard, transfer_out_of_range hup hon hidle hcard, ?inRange, starts, starts, ?otherKey, ?password⟩
    case inRange =>
      intro hopen hrange
      rw [execSdhWrite_in_range hup hon hidle hcard hopen hn ha hrange, hn]
      exact ⟨execSdhRead_starts hup hon hidle hcard hopen hrange, fun hdenied => by rw [hdenied]; rfl, fun hok => by rw [if_pos hok]⟩
    case otherKey => exact fun k hk => if_pos (bne_iff_ne.mpr hk)
    case password =>
      intro haligned hsram hok
      have passwordStarts {op : Nat} : sdPwdCmd s op = .next (sdStart s op 0 (geckoBytes s a 16)) :=
        sdPwdCmd_starts hup hon hidle hcard ha haligned hsram hok
      exact ⟨passwordStarts, passwordStarts⟩
  case ends => exact fun _ _ _ _ _ _ _ _ hup hon hcmd hu herr => execSdhOperationEnd_running hup hon hcmd (sdErrOk_iff.mpr herr) hu
  case mirrors =>
    intro s hup hon hready hidle
    exact ⟨execLedgerMirror_ready hup hon hready hidle rfl, _, rfl, execLedgerMirror_ready hup hon hready hidle rfl⟩

end Sys2Proof.Machine
end

section
/-!
The cluster rows. What CL_STATUS to CL_REPLAY stage once their checks pass, without and under quorum (O38).
-/
namespace Sys2Proof.Machine

variable {s v : State} {t : TagEntry} {r : Run} {op x y z : Nat} {a : Outcome × Effect} {i : Bytes}
  {f : State → (Outcome × Effect) × State}

theorem DomKeys.whenKeys_eq (h : DomKeys s t) (u : State) : whenKeys s t u = u := by
  obtain ⟨hwrap, hlog⟩ := h
  exact whenKeys_go hwrap hlog

/-! ## Starts on two tiles of the Sealed world (R332) -/

theorem clRun_answers (hf : findTag s t.tag = some t) (htiles : needSealedTiles s = none)
    (hc : canStartIn s t 1 1 r 0 (some (seOpcode t.entry, 0)) = true) (ha : f s = (a, v)) (hq : Quiet s v) :
    StartedWith s t a (clRun s t r f) := by
  rw [clRun, clTiles, htiles]
  exact startIn_answers hf hc (by rw [countSusp_of_ne (by decide), ha]) hq

/-- A start from an input that was read is answered OK; the cluster operation on that input is left to its END. -/
theorem clStart_answers (hf : findTag s t.tag = some t) (htiles : needSealedTiles s = none)
    (hc : canStartIn s t 1 1 r 0 (some (seOpcode t.entry, 0)) = true) (hi : r.input = some i) :
    StartedWith s t (outStatus stOK, .cluster op (seDomain t.entry) x y z (sliceZ i 0 (seInLen t.entry))) (clStart s t r op x y z) :=
  clRun_answers hf htiles hc (by simp only [withInput, hi]) (.refl s)

/-- A row that, when ready, goes on to start its cluster operation commits it. -/
theorem clCommits_of_start {c : Run → Instr} {checks : Run → State → TagEntry → List (Option Outcome)} {go : Run → State → TagEntry → State}
    {ready : State → TagEntry → Prop} {abc : Bytes → Nat × Nat × Nat} (hx : ∀ r s, exec (c r) s = checked s r op (checks r s) (go r s))
    (hgo : ∀ r s t, ready s t → go r s t = clStart s t r op (abc t.entry).1 (abc t.entry).2.1 (abc t.entry).2.2) :
    ClCommits c op checks ready abc := by
  intro r s t i hp hready hi htiles hc
  refine hp.commits (hx r s) ?_ ⟨rfl, rfl⟩
  rw [hgo r s t hready]
  exact clStart_answers hp.findTag_self htiles hc hi

/-! ## CL_ISSUE and CL_HANDOVER (R330, R332, R538) -/

/-- LEAVE needs no quorum. -/
theorem goClIssue_leave (h : seOp t.entry 0x40 2 = 3) :
    goClIssue r s t = clStart s t r 0xA3 3 (seOp t.entry 0x42 2) (seOp t.entry 0x44 2) := by
  rw [goClIssue]
  simp only [h, if_true]

/-- Every action but LEAVE needs the quorum for its input. -/
theorem goClIssue_quorum (h : seOp t.entry 0x40 2 ≠ 3) (hi : r.input = some i) :
    goClIssue r s t = withQuorum s t 10 (sliceZ i 0 (seInLen t.entry))
      (fun u => clStart u t r 0xA3 (seOp t.entry 0x40 2) (seOp t.entry 0x42 2) (seOp t.entry 0x44 2)) := by
  rw [goClIssue]
  simp only [h, if_false, hi, Option.getD_some]

/-- An effectful command of the tag's domain is STARTED (R330). -/
def effectfulRuns (s : State) (t : TagEntry) : Bool :=
  s.qm.tags.any (fun x => running x && seDomain x.entry = seDomain t.entry && opEffectful s (seOpcode x.entry))

theorem goClHandover_waits (h : effectfulRuns s t = true) : goClHandover r s t = s := if_pos h

theorem goClHandover_starts (hkeys : DomKeys s t) (hidle : effectfulRuns s t = false) : goClHandover r s t = clStart s t r 0xA8 0 0 0 :=
  (if_neg (Bool.eq_false_iff.mp hidle)).trans (hkeys.whenKeys_eq _)

/-- Settles O38: one clause for each row, two for CL_ISSUE (under quorum, and LEAVE without), and the wait of CL_HANDOVER. That a row's
effect is staged when it commits and made at its END is the model's choice (log entry 51). -/
theorem clusterRowsCommit : Obligations.ClusterRowsCommit := by
  unfold Obligations.ClusterRowsCommit
  refine ⟨?status, ?memberRead, ?requestAndFound, ?issue, ?leave, ?endorse, ?applyEpoch, ?sealBundle, ?handover, ?applyBundle, ?replay, ?waits⟩
  case status =>
    intro r s t hp htiles hc
    exact hp.commits (exec_clStatus s r) (clRun_answers hp.findTag_self htiles hc rfl (.refl s)) ⟨rfl, rfl⟩
  case memberRead =>
    intro r s t hp htiles hc
    exact hp.commits (exec_clMemberRead s r) (clRun_answers hp.findTag_self htiles hc rfl (.refl s)) ⟨rfl, rfl⟩
  case requestAndFound =>
    intro r s t htiles hc happroved
    refine ⟨fun hp => ?_, fun hp => ?_⟩
    · exact hp.commitsByQuorum (exec_clMemberRequest s r) rfl happroved (clRun_answers hp.findTag_self htiles hc rfl (.refl s)) ⟨rfl, rfl⟩
    · exact hp.commitsByQuorum (exec_clFound s r) rfl happroved (clRun_answers hp.findTag_self htiles hc rfl (.refl s)) ⟨rfl, rfl⟩
  case issue =>
    rintro r s t i _ rfl hp hleave hi htiles hc happroved
    exact hp.commitsByQuorum (exec_clIssue s r) (goClIssue_quorum hleave hi) happroved (clStart_answers hp.findTag_self htiles hc hi) ⟨rfl, rfl⟩
  case leave => exact clCommits_of_start (fun r s => exec_clIssue s r) (fun _ _ _ h => goClIssue_leave h)
  case endorse => exact clCommits_of_start (fun r s => exec_clEndorse s r) (fun _ _ _ _ => rfl)
  case applyEpoch => exact clCommits_of_start (fun r s => exec_clApplyEpoch s r) (fun _ _ _ _ => rfl)
  case sealBundle => exact clCommits_of_start (fun r s => exec_clSealBundle s r) (fun _ _ _ h => h.whenKeys_eq _)
  case handover => exact clCommits_of_start (fun r s => exec_clHandover s r) (fun _ _ _ ⟨hkeys, hidle⟩ => goClHandover_starts hkeys hidle)
  case applyBundle => exact clCommits_of_start (fun r s => exec_clApplyBundle s r) (fun _ _ _ _ => rfl)
  case replay => exact clCommits_of_start (fun r s => exec_clReplay s r) (fun _ _ _ h => h.whenKeys_eq _)
  case waits =>
    intro r s t hp hrunning
    rw [exec_clHandover, execClHandover, hp.checked_eq, goClHandover_waits hrunning]

end Sys2Proof.Machine
end

section
/-!
Steps and their answers. A step is its front command, keeps the canonical forms and the queue's rest, and always answers a next state (O1 to O5).
-/
namespace Sys2Proof.Machine

/-- Settles O1: the queue decides, and the rest of the state is handed to the command as it is. -/
theorem stepRunsFrontCommand : Obligations.StepRunsFrontCommand := by
  unfold Obligations.StepRunsFrontCommand
  exact ⟨fun _ _ _ => step_cons _ rfl, step_nil⟩

/-- Settles O4: manufacture's fields and cells are listed in rising order, and no command waits. -/
theorem resetKeepsInvariant : Obligations.ResetKeepsInvariant := by
  unfold Obligations.ResetKeepsInvariant Canonical
  decide

/-- Settles O5: the canonical forms are the part of `Keeps` that is not the queue and the fuses. -/
theorem everyStepKeepsInvariant : Obligations.EveryStepKeepsInvariant := by
  unfold Obligations.EveryStepKeepsInvariant
  intro s t hs hstep
  have kept := (step_keeps hs).out t hstep
  exact ⟨kept.regs, kept.mem⟩

/-- Settles O3: the queue is the part of `Keeps` that a command hands on. -/
theorem execLeavesTheQueue : Obligations.ExecLeavesTheQueue := by
  unfold Obligations.ExecLeavesTheQueue
  intro c s t hs hexec
  exact ((exec_keeps c (Keeps.ofCanonical hs s.pending)).out t hexec).queue

/-! ## Answers -/

/-- The outcome is a next state: neither a fault nor a refusal. -/
def Answers (r : Res) : Prop := ∃ t, r = .next t

variable {s : State} {r r' : Res}

theorem Answers.next (t : State) : Answers (.next t) := ⟨t, rfl⟩

theorem Answers.ite {c : Prop} [Decidable c] (h : Answers r) (h' : Answers r') : Answers (if c then r else r') := by
  split <;> assumption

/-- What a meaning answers, the command that has it answers. -/
theorem Answers.of_eq (h : Answers r) (e : r' = r) : Answers r' := e ▸ h

theorem Answers.thenLife (h : Answers r) : Answers (thenLife r) := by
  obtain ⟨t, rfl⟩ := h
  exact .next _

theorem execFuseProgramDone_answers : Answers (execFuseProgramDone s) := by
  unfold execFuseProgramDone
  split <;> exact .next _

theorem execDrainDone_answers : Answers (execDrainDone s) := by
  unfold execDrainDone
  split <;> exact .next _

theorem execDrainTimeout_answers (tag unit tile : Nat) : Answers (execDrainTimeout tag unit tile s) := by
  unfold execDrainTimeout
  split <;> exact .next _

/-- Whatever becomes of the entry that is fetched, the queue it came from is served. -/
theorem execSqEntryFetch_answers (fn qid tag : Nat) (entry : Option Bytes) : Answers (execSqEntryFetch fn qid tag entry s) := by
  unfold execSqEntryFetch
  split
  · exact .next _
  · refine .ite (.next _) ?_
    split
    · exact .next _
    · dsimp only
      split <;> exact .next _

theorem execCommandHandoff_answers (tag core : Nat) : Answers (execCommandHandoff tag core s) := by
  unfold execCommandHandoff
  split <;> exact .next _

/-- A completion goes out, or its tag is only freed: dropped, without its pair, or refused by the host. -/
theorem rowCompletionPost_answers (tag : Nat) (writeOk : Bool) : Answers (rowCompletionPost tag writeOk s) := by
  unfold rowCompletionPost
  split
  · exact .next _
  · split
    · exact .next _
    · refine .ite (.next _) ?_
      split <;> exact .next _

theorem execInterruptCoalesceTimer_answers (fn qid : Nat) : Answers (execInterruptCoalesceTimer fn qid s) := by
  unfold execInterruptCoalesceTimer
  split <;> exact .next _

theorem execNop_answers (form : NopForm) : Answers (execNop form s) := by
  cases form with
  | admin tag => exact .next _
  | delpin i => exact .next _

theorem execAbort_answers (tag : Nat) : Answers (execAbort tag s) := by
  unfold execAbort
  split <;> exact .next _

theorem execCreateQp_answers (tag : Nat) : Answers (execCreateQp tag s) := by
  unfold execCreateQp
  split
  · exact .next _
  · split <;> exact .next _

theorem execDeleteQp_answers (tag : Nat) : Answers (execDeleteQp tag s) := by
  unfold execDeleteQp
  split
  · exact .next _
  · exact .ite (.next _) (.ite (.next _) (.next _))

theorem execDeleteQpComplete_answers (tag : Nat) : Answers (execDeleteQpComplete tag s) := by
  unfold execDeleteQpComplete
  split <;> exact .next _

theorem execHbmcSwapDone_answers (stack : Fin 4) (unread : List Nat) : Answers (execHbmcSwapDone stack unread s) := by
  unfold execHbmcSwapDone
  dsimp only
  split <;> exact .next _

theorem execPairedWord_answers (core : CoreId) (f g : ShortOp) (bit15 : Bool) (fails : List MemFail) :
    Answers (execPairedWord core f g bit15 fails s) :=
  .ite (.next _) (.ite (.next _) (.next _))

theorem execMpuSyncApply_answers (landau : Bool) : Answers (execMpuSyncApply landau s) := .ite (.next _) (.next _)

theorem execExchange_answers (port : Fin 2) : Answers (execExchange port s) := .ite (.next _) (.next _)

theorem execForceErase_answers (key : BitVec 16) : Answers (execForceErase key s) := .ite (.next _) (.next _)

theorem execSetEndpointId_answers (inst : BitVec 5) (op : BitVec 2) (eid : BitVec 8) : Answers (execSetEndpointId inst op eid s) :=
  .ite (.next _) (.next _)

theorem execGetMctpVersionSupport_answers (inst : BitVec 5) (typ : BitVec 8) : Answers (execGetMctpVersionSupport inst typ s) :=
  .ite (.next _) (.ite (.next _) (.next _))

theorem execGetVendorDefinedMessageSupport_answers (inst : BitVec 5) (sel : BitVec 8) :
    Answers (execGetVendorDefinedMessageSupport inst sel s) :=
  .ite (.next _) (.next _)

/-- Settles O2: a meaning that chooses between outcomes answers by the lemma about it; every other one is a next state as it stands. That an
event which cannot happen leaves the state as it was is the model's choice (log entry 5). -/
theorem everyCommandAnswersAState : Obligations.EveryCommandAnswersAState := by
  unfold Obligations.EveryCommandAnswersAState
  intro c s
  cases c with
  | fuseProgramDone => exact execFuseProgramDone_answers.of_eq (exec_fuseProgramDone ..)
  | drainDone => exact execDrainDone_answers.of_eq (exec_drainDone ..)
  | drainTimeout tag unit tile => exact (execDrainTimeout_answers tag unit tile).of_eq (exec_drainTimeout ..)
  | sqEntryFetch fn qid tag entry => exact (execSqEntryFetch_answers fn qid tag entry).of_eq (exec_sqEntryFetch ..)
  | commandHandoff tag core => exact (execCommandHandoff_answers tag core).of_eq (exec_commandHandoff ..)
  | completionPost tag writeOk => exact (rowCompletionPost_answers tag writeOk).thenLife.of_eq (exec_completionPost ..)
  | interruptCoalesceTimer fn qid => exact (execInterruptCoalesceTimer_answers fn qid).of_eq (exec_interruptCoalesceTimer ..)
  | nop form => exact (execNop_answers form).of_eq (exec_nop ..)
  | abort tag => exact (execAbort_answers tag).of_eq (exec_abort ..)
  | createQp tag => exact (execCreateQp_answers tag).of_eq (exec_createQp ..)
  | deleteQp tag => exact (execDeleteQp_answers tag).of_eq (exec_deleteQp ..)
  | deleteQpComplete tag => exact (execDeleteQpComplete_answers tag).of_eq (exec_deleteQpComplete ..)
  | hbmcSwapDone stack unread => exact (execHbmcSwapDone_answers stack unread).of_eq (exec_hbmcSwapDone ..)
  | pairedWord core f g bit15 fails => exact (execPairedWord_answers core f g bit15 fails).of_eq (exec_pairedWord ..)
  | mpuSyncApply landau => exact (execMpuSyncApply_answers landau).of_eq (exec_mpuSyncApply ..)
  | exchange port => exact (execExchange_answers port).of_eq (exec_exchange ..)
  | forceErase key => exact (execForceErase_answers key).of_eq (exec_forceErase ..)
  | setEndpointId inst op eid => exact (execSetEndpointId_answers inst op eid).of_eq (exec_setEndpointId ..)
  | getMctpVersionSupport inst typ => exact (execGetMctpVersionSupport_answers inst typ).of_eq (exec_getMctpVersionSupport ..)
  | getVendorDefinedMessageSupport inst sel => exact (execGetVendorDefinedMessageSupport_answers inst sel).of_eq (exec_getVendorDefinedMessageSupport ..)
  | _ => exact ⟨_, rfl⟩

end Sys2Proof.Machine
end

section
/-!
Running Delpin instructions. What a core does with an instruction once its fetch, its form and its condition are decided, and what the
instructions that compute a result from operands leave (O39, O40).
-/
namespace Sys2Proof.Machine

/-! ## The shape of a run (R346, R347, R354) -/

/-- What the body of an instruction leaves: its state, with what a write to SYSCTL_RELEASE sets off; its fault, raised; nothing while it waits. -/
def bodyLeaves (s t : State) (c : CoreId) : DOut State → State
  | .ok u _ => thenRelease t u
  | .fault f u => raiseSync u c f
  | .wait => s

section

variable {i : LongInsn} {s t u v : State} {b priv : Bool} {bad : DCore → Bool} {go : State → DCore → DOut State} {f : DFault}

/-- Past its fetch, with its condition met, an instruction is ILLEGAL, privileged, or runs its body. -/
theorem Runs.fetched (h : Runs i s t b) : runInsn i s bad priv go
    = .next (if bad (getCore s i.core) then raiseSync t i.core (DFault.plain 3)
        else if priv && !(getCore s i.core).l then raiseSync t i.core (DFault.plain 2)
        else bodyLeaves (bufSettle s) t i.core (go t (getCore s i.core))) := by
  obtain ⟨hready, hirq, hfetch, -, hcond⟩ := h
  have htaken : (!(getCore s i.core).fresh && (admitted s i.core).isSome) = false := by
    obtain hirq | hirq := hirq <;> simp [hirq]
  simp only [runInsn, hready, htaken, hfetch, hcond, Bool.not_true, Bool.or_self, Bool.false_eq_true, if_false]
    <;> rfl

theorem Runs.illegal (h : Runs i s t b) (hbad : bad (getCore s i.core) = true) :
    runInsn i s bad priv go = .next (raiseSync t i.core (DFault.plain 3)) := by
  rw [h.fetched, if_pos hbad]

theorem Runs.privileged (h : Runs i s t b) (hbad : bad (getCore s i.core) = b) (hlow : (getCore s i.core).l = false) :
    runInsn i s bad true go = .next (raiseSync t i.core (DFault.plain 2)) := by
  have hlegal : bad (getCore s i.core) = false := hbad.trans h.2.2.2.1
  simp [h.fetched, hlegal, hlow]

variable (h : Runs i s t b) (hbad : bad (getCore s i.core) = b) (hpriv : priv = true → (getCore s i.core).l = true)
include h hbad hpriv

/-- A legal instruction at a level that may run it runs its body. -/
theorem Runs.body : runInsn i s bad priv go = .next (bodyLeaves (bufSettle s) t i.core (go t (getCore s i.core))) := by
  have hlegal : bad (getCore s i.core) = false := hbad.trans h.2.2.2.1
  have hlevel : (priv && !(getCore s i.core).l) = false := by
    cases priv with
    | false => rfl
    | true => simp [hpriv rfl]
  simp [h.fetched, hlegal, hlevel]

theorem Runs.completes (hgo : go t (getCore s i.core) = .ok u v) : runInsn i s bad priv go = .next (thenRelease t u) := by
  rw [h.body hbad hpriv, hgo]
  rfl

theorem Runs.faults (hgo : go t (getCore s i.core) = .fault f u) : runInsn i s bad priv go = .next (raiseSync u i.core f) := by
  rw [h.body hbad hpriv, hgo]
  rfl

end

section

variable {i : LongInsn} {s t : State} {b : Bool} {bad : DCore → Bool} {go : State → DCore → DOut State}
  (h : Runs i s t b) (hbad : bad (getCore s i.core) = b)
include h hbad

theorem Runs.user_body : runInsn i s bad false go = .next (bodyLeaves (bufSettle s) t i.core (go t (getCore s i.core))) := h.body hbad nofun

theorem Runs.supervisor_body (hlevel : (getCore s i.core).l = true) :
    runInsn i s bad true go = .next (bodyLeaves (bufSettle s) t i.core (go t (getCore s i.core))) := h.body hbad fun _ => hlevel

end

/-! ## Operands and results (R346, R370) -/

theorem sizeBytes_le (n : BitVec 2) : sizeBytes n.toNat ≤ 8 := Nat.pow_le_pow_right (by decide) (Nat.le_of_lt_succ n.isLt)

section

variable {i : LongInsn} {s t u : State} {b bad priv : Bool} {k n r code : Nat} {x y : DCore} {locs : List Loc} {vals : List Nat}
  {f : State → DCore → List Nat → OpResult} {form : Form}

/-- With its operands read, an instruction ends with what its operation makes of the values. -/
theorem dataBody_of_result (h : Reads i x t u k n locs vals) (hn : n ≤ 8) (hf : f u x vals = .ok (r, y)) :
    bodyLeaves s t i.core (dataBody i k n n f t x) = Puts i t u k n locs y r := by
  obtain ⟨v, hlocate, hread⟩ := h
  have hblock : decide (8 < n) = false := decide_eq_false (Nat.not_lt.mpr hn)
  simp only [useSrc, useDst] at hlocate
  simp only [dataBody, hblock, useSrc, useDst, Bool.false_eq_true, if_false, hlocate, DOut.bind, hread, hf]
  rfl

theorem dataBody_of_error (h : Reads i x t u k n locs vals) (hn : n ≤ 8) (hf : f u x vals = .error code) :
    dataBody i k n n f t x = .fault (DFault.plain code) u := by
  obtain ⟨v, hlocate, hread⟩ := h
  have hblock : decide (8 < n) = false := decide_eq_false (Nat.not_lt.mpr hn)
  simp only [useSrc, useDst] at hlocate
  simp only [dataBody, hblock, useSrc, useDst, Bool.false_eq_true, if_false, hlocate, DOut.bind, hread, hf]

variable (hruns : Runs i s t b) (hform : (formBad i form || bad) = b) (hpriv : priv = true → (getCore s i.core).l = true)
  (hreads : Reads i (getCore s i.core) t u k n locs vals) (hn : n ≤ 8)
include hruns hform hpriv hreads hn

/-- An instruction that computes puts its result. -/
theorem Runs.puts (hf : f u (getCore s i.core) vals = .ok (r, y)) :
    dataOp i s form bad priv k n n f = .next (Puts i t u k n locs y r) := by
  rw [dataOp, hruns.body hform hpriv, dataBody_of_result hreads hn hf]

/-- One whose operation has no result raises its cause. -/
theorem Runs.raises (hf : f u (getCore s i.core) vals = .error code) :
    dataOp i s form bad priv k n n f = .next (raiseSync u i.core (DFault.plain code)) :=
  hruns.faults hform hpriv (dataBody_of_error hreads hn hf)

end

/-- An unprivileged command of a form whose operation gives a result and flags computes them. -/
theorem computes_of_dataOp {c : LongInsn → Instr} {form : LongInsn → Form} {k : Nat} {g : Flags → Nat → Nat → Nat → Nat × Flags}
    (hc : ∀ i s, exec (c i) s = dataOp i s (form i) false false k (sizeBytes i.size.toNat) (sizeBytes i.size.toNat)
      fun _ x v => onFlags x (g x.flags (8 * 2 ^ i.size.toNat) (val v 0) (val v 1))) :
    Computes c form k g := by
  rintro i s t u locs vals _ _ rfl hruns hreads rfl
  rw [hc]
  exact hruns.puts (Bool.or_false _) nofun hreads (sizeBytes_le _) rfl

/-- Settles O39: each instruction is the run of its operation on operands; the classes of flags are those of R371. -/
theorem delpinArithmeticAndLogic : Obligations.DelpinArithmeticAndLogic := by
  unfold Obligations.DelpinArithmeticAndLogic
  refine ⟨?move, ?add, ?addc, ?sub, ?subc, ?cmp, ?neg, ?mul, ?mulh, ?mulhs, ?and, ?or, ?xor, ?not, ?tst⟩
  case move => exact computes_of_dataOp fun i s => exec_move s i
  case add => exact computes_of_dataOp fun i s => exec_add s i
  case addc => exact computes_of_dataOp fun i s => exec_addc s i
  case sub => exact computes_of_dataOp fun i s => exec_sub s i
  case subc => exact computes_of_dataOp fun i s => exec_subc s i
  case cmp => exact computes_of_dataOp fun i s => exec_cmp s i
  case neg => exact computes_of_dataOp fun i s => exec_neg s i
  case mul => exact computes_of_dataOp fun i s => exec_mul s i
  case mulh => exact computes_of_dataOp fun i s => exec_mulh s i
  case mulhs => exact computes_of_dataOp fun i s => exec_mulhs s i
  case and => exact computes_of_dataOp fun i s => exec_and s i
  case or => exact computes_of_dataOp fun i s => exec_or s i
  case xor => exact computes_of_dataOp fun i s => exec_xor s i
  case not => exact computes_of_dataOp fun i s => exec_not s i
  case tst => exact computes_of_dataOp fun i s => exec_tst s i

/-! ## Compares in constant time (R378) -/

theorem Computes.congr {c : LongInsn → Instr} {form : LongInsn → Form} {k : Nat} {g g' : Flags → Nat → Nat → Nat → Nat × Flags}
    (h : Computes c form k g) (hg : ∀ f w a b, g f w a b = g' f w a b) : Computes c form k g' :=
  (funext fun f => funext fun w => funext fun a => funext (hg f w a)) ▸ h

theorem resT_decide (f : Flags) (w : Nat) (p : Prop) [Decidable p] : resT f w (decide p) = classT f (if p then 2 ^ w - 1 else 0) (decide p) := by
  simp only [resT, flagsT, classT, onesOf, decide_eq_true_eq]

theorem resT_bne_zero (f : Flags) (w a : Nat) : resT f w (a != 0) = classT f (if a = 0 then 0 else 2 ^ w - 1) (a != 0) := by
  simp only [resT, flagsT, classT, onesOf, bne_iff_ne, ne_eq, ite_not]

/-! ## Divisions and selects (R376, R378) -/

section

variable {i : LongInsn} {s t u : State} {locs : List Loc} {vals : List Nat} {f : Nat → Nat → Nat → Nat × Flags}
  (hruns : Runs i s t (formBad i (three i))) (hreads : Reads i (getCore s i.core) t u 2 (sizeBytes i.size.toNat) locs vals)
include hruns hreads

theorem divOp_by_zero (hzero : val vals 1 = 0) : divOp i s f = .next (raiseSync u i.core (DFault.plain 0x0E)) :=
  hruns.raises (Bool.or_false _) nofun hreads (sizeBytes_le _) (if_pos hzero)

theorem divOp_puts {r : Nat} {v : Bool} (hdivisor : val vals 1 ≠ 0) (hf : f (sizeBits i.size.toNat) (val vals 0) (val vals 1) = resD (sizeBits i.size.toNat) r v) :
    divOp i s f = .next (Puts i t u 2 (sizeBytes i.size.toNat) locs ((getCore s i.core).setFlags (resD (sizeBits i.size.toNat) r v).2) r) :=
  hruns.puts (Bool.or_false _) nofun hreads (sizeBytes_le _) (by rw [if_neg hdivisor, hf]; rfl)

end

/-- Settles O40: the shifts, counts and compares as O39; a division by its divisor; CSEL by its condition, without flags. -/
theorem delpinShiftsDivisionsAndSelects : Obligations.DelpinShiftsDivisionsAndSelects := by
  unfold Obligations.DelpinShiftsDivisionsAndSelects
  refine ⟨?shl, ?shr, ?sar, ?rol, ?ror, ?clz, ?popc, ?cteq, ?ctlt, ?ctmask, ?bswap, ?divide, ?csel⟩
  case shl => exact computes_of_dataOp fun i s => exec_shl s i
  case shr => exact computes_of_dataOp fun i s => exec_shr s i
  case sar => exact computes_of_dataOp fun i s => exec_sar s i
  case rol => exact computes_of_dataOp fun i s => exec_rol s i
  case ror => exact computes_of_dataOp fun i s => exec_ror s i
  case clz => exact computes_of_dataOp fun i s => exec_clz s i
  case popc => exact computes_of_dataOp fun i s => exec_popc s i
  case cteq =>
    refine (computes_of_dataOp (g := fun f w a b => resT f w (a = b)) fun i s => exec_cteq s i).congr ?_
    exact fun f w a b => resT_decide f w (a = b)
  case ctlt =>
    refine (computes_of_dataOp (g := fun f w a b => resT f w (decide (a < b))) fun i s => exec_ctlt s i).congr ?_
    exact fun f w a b => resT_decide f w (a < b)
  case ctmask =>
    refine (computes_of_dataOp (g := fun f w a _ => resT f w (a != 0)) fun i s => exec_ctmask s i).congr ?_
    exact fun f w a _ => resT_bne_zero f w a
  case bswap => exact computes_of_dataOp fun i s => exec_bswap s i
  case divide =>
    rintro i s t u locs vals _ _ _ _ rfl hruns hreads rfl rfl rfl
    constructor
    case left =>
      intro hzero
      have raised {f : Nat → Nat → Nat → Nat × Flags} := divOp_by_zero (f := f) hruns hreads hzero
      simp only [List.forall_mem_cons, exec_div, exec_divs, exec_rem, exec_rems]
      exact ⟨raised, raised, raised, raised, fun _ h => absurd h List.not_mem_nil⟩
    case right =>
      intro hdivisor y hy
      subst hy
      simp only [exec_div, exec_rem, exec_rems, exec_divs]
      refine ⟨?div, ?rem, ?rems, ?overflow, ?divs⟩
      case div => exact divOp_puts hruns hreads hdivisor rfl
      case rem => exact divOp_puts hruns hreads hdivisor rfl
      case rems => exact divOp_puts hruns hreads hdivisor rfl
      case overflow => exact fun ha hb => divOp_puts hruns hreads hdivisor (if_pos ⟨ha, hb⟩)
      case divs => exact fun hfits => divOp_puts hruns hreads hdivisor (if_neg hfits)
  case csel =>
    rintro i s t u locs vals _ rfl hruns hreads
    exact hruns.puts (Bool.or_false _) nofun hreads (sizeBytes_le _) rfl

end Sys2Proof.Machine
end

section
/-!
Delpin moves, the stack and pairs. What EXT, LEA, CLR, PUSH, POP and CTBEQ leave, and a paired word (O41).
-/
namespace Sys2Proof.Machine

variable {i : LongInsn} {s t u v q : State} {x y : DCore} {l : Loc} {off : Int} {n m phys w : Nat} {b : Bytes}

theorem mod_four_sizeBytes_le (m : Nat) : sizeBytes (m % 4) ≤ 8 := Nat.pow_le_pow_right (by decide) (Nat.le_of_lt_succ (Nat.mod_lt m (by decide)))

theorem flagsL_zero (f : Flags) (w : Nat) : flagsL f w 0 = { n := false, z := true, v := false, c := f.c } := by
  simp [flagsL, signBit]

/-- LEA puts the offset that its source computes (R374). -/
theorem execLea_runs (hx : x = getCore s i.core)
    (hruns : Runs i s t (formBad i (formOf 2 3 1 false (noImm i)) || !modeIn (insnSpec i 0) 1 9))
    (hoff : operandOff t i.core x (insnSpec i 0) 8 i.fails = .ok off u) (hloc : locate u i.core x (insnSpec i 1) (useDst 8) 8 i.fails = .ok l v) :
    ∀ o, o = putLoc (specMove (specMove x (insnSpec i 0) 8) (insnSpec i 1) 8) (some l) 8 (ofSigned 64 off) →
      execLea i s = .next (Ended t v i.core (o.1.advance (insnWords i)) o.2) := by
  rintro _ rfl
  subst hx
  rw [execLea, hruns.user_body rfl]
  simp only [hoff, hloc, DOut.bind]
  rfl

/-- PUSH stores its operand below A7, which moves down by 8 (R375). -/
theorem execPush_runs (hx : x = getCore s i.core) (hn : n = sizeBytes i.size.toNat)
    (hruns : Runs i s t (formBad i { formAny 1 0 with imm := noImm i } || movesA7 i))
    (hloc : locate t i.core x (insnSpec i 0) (useSrc n) n i.fails = .ok l u)
    (hacc : checkAcc u i.core x (stackAcc ((x.areg 7).toInt - 8) true) = .ok phys v) (hread : readLoc v i.core x l n i.fails = .ok w q) :
    ∀ y, y = specMove x (insnSpec i 0) n →
      execPush i s = .next (Ended t q i.core ((y.setA 7 (y.areg 7 - 8)).advance (insnWords i)) [(phys, leBytes w 8)]) := by
  rintro _ rfl
  subst hx hn
  rw [execPush, hruns.user_body rfl]
  simp only [hloc, hacc, hread, DOut.bind]
  rfl

/-- POP loads its destination from A7, which then moves up by 8 (R375). -/
theorem execPop_runs (hx : x = getCore s i.core) (hn : n = sizeBytes i.size.toNat)
    (hruns : Runs i s t (formBad i { formAny 1 1 with imm := noImm i } || movesA7 i))
    (hloc : locate t i.core x (insnSpec i 0) (useDst n) n i.fails = .ok l u)
    (hacc : checkAcc u i.core x (stackAcc (x.areg 7).toInt false) = .ok phys v)
    (hread : memRead v i.core (stackAcc (x.areg 7).toInt false) phys i.fails = .ok b q) :
    ∀ o, o = putLoc ((specMove x (insnSpec i 0) n).setFlags (classL x.flags (8 * n) (leAt b 0 n)).2) (some l) n (leAt b 0 n) →
      execPop i s = .next (Ended t q i.core ((o.1.setA 7 (o.1.areg 7 + 8)).advance (insnWords i)) o.2) := by
  rintro _ rfl
  subst hx hn
  rw [execPop, hruns.user_body rfl]
  simp only [hloc, hacc, hread, DOut.bind]
  rfl

/-- CTBEQ sets Z alone, by whether its two blocks agree (R379). -/
theorem execCtbeq_runs {a c : Nat} {locs : List Loc} (hx : x = getCore s i.core) (hn : n = i.imm16.toNat)
    (hruns : Runs i s t (formBad i (formOf 2 0 0 false (decide (1 ≤ n) && decide (n ≤ 4096))) || !i.specs.all (fun p => modeIn p 1 9)))
    (hloc : locateAll i.core x i.fails (i.specs.map (fun p => (p, { useSrc 1 with block := true }, n))) t = .ok locs u)
    (hread : readLocs i.core x i.fails n locs u = .ok [a, c] v) :
    ∀ y, y = moveAll x (i.specs.map (fun p => (p, 1))) →
      execCtbeq i s = .next (Ended t v i.core ((y.setFlags { x.flags with z := a = c }).advance (insnWords i)) []) := by
  rintro _ rfl
  subst hx hn
  rw [execCtbeq, hruns.user_body rfl]
  simp only [hloc, hread, DOut.bind]
  rfl

/-! ## Paired words (R349–R352) -/

section

variable {c : CoreId} {f g : ShortOp} {fails : List MemFail}
  (hi : i = { core := c, size := 0, cond := 0, imm16 := 0, specs := [], fails := fails }) (hruns : Runs i s t false)
include hi hruns

/-- A pair with an operation that is ILLEGAL, or with bit 15 set, has no effect. -/
theorem execPairedWord_illegal {b : Bool} (hbad : (shortBad f || shortBad g || b) = true) :
    execPairedWord c f g b fails s = .next (raiseSync t c (DFault.plain 3)) := by
  subst hi
  rw [execPairedWord, if_pos hbad]
  exact hruns.illegal rfl

variable (hf : shortBad f = false) (hg : shortBad g = false)
include hf hg

/-- A pair that conflicts has no effect (R351). -/
theorem execPairedWord_conflict (hconflict : pairConflict f g = true) :
    execPairedWord c f g false fails s = .next (raiseSync t c (DFault.plain 4)) := by
  subst hi
  simp only [execPairedWord, hf, hg, hconflict, Bool.or_self, Bool.false_eq_true, if_false, if_true]
  exact hruns.faults rfl nofun rfl

/-- A pair runs its first operation, then its second on what the first left. -/
theorem execPairedWord_runs {a d : State} {pf pg : Nat × Nat} {rf rg : Option Nat × Flags} (hx : x = getCore s c)
    (hfree : pairConflict f g = false) (hcf : shortCheck t c x f = .ok pf a) (hcg : shortCheck a c x g = .ok pg d)
    (hrf : shortRun d c x x.flags f pf fails = .ok rf u) (hy : y = ((shortMove (shortMove x f) g).setFlags rf.2).advance 1)
    (hrg : shortRun (shortWrite (setCore u c y) c x f pf rf.1) c x rf.2 g pg fails = .ok rg v) :
    execPairedWord c f g false fails s = .next (thenRelease t (shortWrite (setCore v c (y.setFlags rg.2)) c x g pg rg.1)) := by
  subst hi hx hy
  simp only [execPairedWord, hf, hg, hfree, Bool.or_self, Bool.false_eq_true, if_false]
  rw [hruns.user_body rfl]
  simp only [hcf, hcg, hrf, hrg, pairRun, DOut.bind]
  rfl

end

/-- Settles O41: a clause for each instruction, and for a pair that runs, one that is ILLEGAL and one that conflicts. That ILLEGAL is judged before
PAIR_CONFLICT, and that POP writes its destination before A7 moves, is the model's choice (log entry 59). -/
theorem delpinMovesStackAndPairs : Obligations.DelpinMovesStackAndPairs := by
  unfold Obligations.DelpinMovesStackAndPairs
  simp only [exec_ext, exec_lea, exec_clr, exec_push, exec_pop, exec_ctbeq, exec_pairedWord]
  refine ⟨?ext, ?lea, ?clr, ?push, ?pop, ?ctbeq, ?pair, ?noPair⟩
  case ext =>
    rintro i s t u locs vals _ _ _ _ rfl rfl hruns hreads rfl rfl
    exact hruns.puts (Bool.or_false _) nofun hreads (mod_four_sizeBytes_le _) rfl
  case lea => exact fun _ _ _ _ _ _ _ _ hx hruns hoff hloc => ⟨_, rfl, execLea_runs hx hruns hoff hloc _ rfl⟩
  case clr =>
    rintro i s t u locs _ rfl hruns hreads
    exact hruns.puts (Bool.or_false _) nofun hreads (Nat.zero_le _) (by rw [onFlags, resL, flagsL_zero]; rfl)
  case push => exact fun _ _ _ _ _ _ _ _ _ _ _ hx hn hruns hloc hacc hread => ⟨_, rfl, execPush_runs hx hn hruns hloc hacc hread _ rfl⟩
  case pop => exact fun _ _ _ _ _ _ _ _ _ _ _ hx hn hruns hloc hacc hread => ⟨_, rfl, execPop_runs hx hn hruns hloc hacc hread _ rfl⟩
  case ctbeq => exact fun _ _ _ _ _ _ _ _ _ _ hx hn hruns hloc hread => ⟨_, rfl, execCtbeq_runs hx hn hruns hloc hread _ rfl⟩
  case pair =>
    exact fun _ _ _ _ _ _ _ _ _ _ _ _ _ _ _ _ _ hi hx hruns hf hg hfree hcf hcg hrf hy hrg =>
      execPairedWord_runs hi hruns hf hg hx hfree hcf hcg hrf hy hrg
  case noPair =>
    intro c f g fails s t i hi hruns
    refine ⟨execPairedWord_illegal hi hruns (Bool.or_true _), fun hbad => ?_, fun hf hg hconflict => ?_⟩
    · exact execPairedWord_illegal hi hruns (by simpa using hbad)
    · exact execPairedWord_conflict hi hruns hf hg hconflict

end Sys2Proof.Machine
end

section
/-!
Delpin transfers, atomics, block moves and entries by instruction. What JMP to RTE leave (O42).
-/
namespace Sys2Proof.Machine

/-! ## Transfers (R360, R380, R381) -/

section

variable {i : LongInsn} {s t u v q : State} {x y : DCore} {pc : W32} {phys n m k : Nat} {b : Bytes} {l : Loc}

section

variable (hx : x = getCore s i.core) (hruns : Runs i s t (formBad i (formOf 1 0 0 false (noImm i))))
  (htarget : targetOf t i.core x (insnSpec i 0) 0 i.fails = .ok pc u)
include hx hruns htarget

theorem execJmp_aligned (hpc : aligned4 pc = true) :
    execJmp i s = .next (Ended t u i.core { specMove x (insnSpec i 0) 1 with pc := pc, fresh := false } []) := by
  subst hx
  rw [execJmp, hruns.user_body rfl]
  simp only [htarget, DOut.bind, hpc, Bool.not_true, Bool.false_eq_true, if_false]
  rfl

theorem execJmp_misaligned (hpc : aligned4 pc = false) : execJmp i s = .next (raiseSync u i.core (DFault.plain 3)) := by
  subst hx
  rw [execJmp, hruns.user_body rfl]
  simp only [htarget, DOut.bind, hpc, Bool.not_false, if_true]
  rfl

end

/-- CALL transfers with the offset of the word after it pushed. -/
theorem execCall_aligned (hx : x = getCore s i.core) (hruns : Runs i s t (formBad i (formOf 1 0 0 false (noImm i)) || movesA7 i))
    (htarget : targetOf t i.core x (insnSpec i 0) 0 i.fails = .ok pc u) (hpc : aligned4 pc = true)
    (hacc : checkAcc u i.core x (stackAcc ((x.areg 7).toInt - 8) true) = .ok phys v) (hy : y = specMove x (insnSpec i 0) 1) :
    execCall i s = .next (Ended t v i.core { y.setA 7 (y.areg 7 - 8) with pc := pc, fresh := false }
      [(phys, leBytes (x.pc.toNat + 4 * insnWords i) 8)]) := by
  subst hx hy
  rw [execCall, hruns.user_body rfl]
  simp only [htarget, hacc, DOut.bind, hpc, Bool.not_true, Bool.false_eq_true, if_false]
  rfl

section

variable (hx : x = getCore s i.core) (hruns : Runs i s t (formBad i (formOf 0 0 0 false (noImm i))))
  (hacc : checkAcc t i.core x (stackAcc (x.areg 7).toInt false) = .ok phys u)
  (hread : memRead u i.core (stackAcc (x.areg 7).toInt false) phys i.fails = .ok b v) (hn : n = leAt b 0 8)
include hx hruns hacc hread hn

theorem execRet_aligned (hrange : n < 2 ^ 32) (haligned : n % 4 = 0) :
    execRet i s = .next (Ended t v i.core { x.setA 7 (x.areg 7 + 8) with pc := BitVec.ofNat 32 n, fresh := false } []) := by
  subst hx hn
  have hok : ¬ (2 ^ 32 ≤ leAt b 0 8 ∨ (leAt b 0 8 % 4 != 0) = true) :=
    not_or.mpr ⟨Nat.not_le.mpr hrange, by rw [haligned]; decide⟩
  rw [execRet, hruns.user_body rfl]
  simp only [hacc, hread, DOut.bind, hok, if_false]
  rfl

theorem execRet_misaligned (hbad : 2 ^ 32 ≤ n ∨ n % 4 ≠ 0) : execRet i s = .next (raiseSync v i.core (DFault.plain 3)) := by
  subst hx hn
  have hno : 2 ^ 32 ≤ leAt b 0 8 ∨ (leAt b 0 8 % 4 != 0) = true := hbad.imp_right bne_iff_ne.mpr
  rw [execRet, hruns.user_body rfl]
  simp only [hacc, hread, DOut.bind, hno, if_true]
  rfl

end

/-- LOOP counts its operand down, and transfers while it is not 0 (R381). -/
theorem execLoop_runs (hx : x = getCore s i.core) (hk : k = sizeBytes i.size.toNat)
    (hruns : Runs i s t (formBad i { formAny 2 0 with imm := noImm i } || !modeIn (insnSpec i 0) 0 8))
    (hloc : locate t i.core x (insnSpec i 0) { bytes := k, read := true, write := true, block := false } k i.fails = .ok l u)
    (htarget : targetOf u i.core x (insnSpec i 1) i.size.toNat i.fails = .ok pc v) (hread : readLoc v i.core x l k i.fails = .ok n q)
    (hm : m = (n + 2 ^ (8 * k) - 1) % 2 ^ (8 * k)) (hpc : m = 0 ∨ aligned4 pc = true) :
    ∀ o, o = putLoc (specMove (specMove x (insnSpec i 0) k) (insnSpec i 1) k) (some l) k m →
      execLoop i s = .next (Ended t q i.core (if m = 0 then o.1.advance (insnWords i) else { o.1 with pc := pc, fresh := false }) o.2) := by
  rintro _ rfl
  subst hx hk hm
  have hgoes : ((n + 2 ^ (8 * sizeBytes i.size.toNat) - 1) % 2 ^ (8 * sizeBytes i.size.toNat) != 0 && !aligned4 pc) = false := by
    obtain hpc | hpc := hpc <;> simp [hpc]
  rw [execLoop, hruns.user_body rfl]
  simp only [hloc, htarget, hread, DOut.bind, hgoes, Bool.false_eq_true, if_false]
  rfl

end

/-! ## Atomics (R382, R383) -/

/-- An atomic instruction hands the old value of memory to its register and stores what its operation gives, at once. -/
theorem atomicOp_runs {i : LongInsn} {s t a b d e g u : State} {x : DCore} {count k old phys p : Nat} {off : Int} {locs : List Loc}
    {vals : List Nat} {m : Bytes} {acc : Acc} {f : DCore → Nat → Nat → Nat → Option Nat × DCore}
    (hx : x = getCore s i.core) (hk : k = sizeBytes i.size.toNat)
    (hruns : Runs i s t (formBad i { formAny count 1 with always := true, imm := noImm i } || (insnSpec i 0).mode.toNat != 0
      || !modeIn (insnSpec i (count - 1)) 1 8))
    (hoff : operandOff t i.core x (insnSpec i (count - 1)) k i.fails = .ok off a)
    (hacc : acc = { seg := specSeg (insnSpec i (count - 1)), off := off, n := k, write := false, block := true }) (haligned : physOf x acc % k = 0)
    (hlocs : locateAll i.core x i.fails (((i.specs.drop 1).take (count - 2)).map (fun p => (p, useSrc k, k))) a = .ok locs b)
    (hr : checkAcc b i.core x acc = .ok p d) (hw : checkAcc d i.core x { acc with write := true } = .ok phys e)
    (hvals : readLocs i.core x i.fails k locs e = .ok vals g) (hmem : memRead (drainCore g i.core) i.core acc phys i.fails = .ok m u)
    (hold : old = leAt m 0 k) :
    ∀ o, o = f x ((x.areg (insnSpec i 0).reg.val).toNat % 2 ^ (8 * k)) old ((vals[0]?).getD 0) →
      atomicOp i s count f = .next (drained t u i.core (((moveAll o.2 ((i.specs.drop 1).map (fun p => (p, k)))).setA (insnSpec i 0).reg.val
        (BitVec.ofNat 64 old)).advance (insnWords i)) ((o.1.map (fun v => (phys, leBytes v k))).toList)) := by
  rintro _ rfl
  subst hx hk hacc hold
  rw [atomicOp, hruns.user_body rfl]
  simp only [hoff, haligned, hlocs, hr, hw, hvals, hmem, DOut.bind, finish, bne_self_eq_false, Bool.false_eq_true, if_false]
  rfl

/-! ## Block moves (R384, R385) -/

section

variable {c : CoreId} {src : Option Nat} {dst cnt fuel n : Nat} {step : State → DCore → Nat → DOut Unit} {last : DCore → DCore}
  {s q w : State} {x y : DCore} {i : LongInsn} {t u v : State} {ra rb rk pa pb : Nat}

/-- At count 0 a block move is over. -/
theorem blockSteps_done (hcount : ((getCore s c).areg cnt).toNat = 0) :
    blockSteps c src dst cnt step last (fuel + 1) s = .ok (setCore s c (last (getCore s c))) (setCore s c (last (getCore s c))) := by
  simp only [blockSteps, hcount, if_true]

/-- A count that ends within the line of the destination takes one step. -/
theorem blockSteps_one (hx : x = getCore s c) (hn : n = (x.areg cnt).toNat) (hsome : n ≠ 0) (hline : n ≤ 64 - (x.areg dst).toNat % 64)
    (hstep : step s x n = .ok () q) (hw : w = setCore q c (blockRegs x src dst cnt n)) (hdone : ((getCore w c).areg cnt).toNat = 0) :
    blockSteps c src dst cnt step last (fuel + 2) s = .ok (setCore w c (last (getCore w c))) (setCore w c (last (getCore w c))) := by
  subst hx hn hw
  rw [blockSteps]
  simp only [hsome, if_false, stepLen, Nat.min_eq_left hline, hstep, bne_self_eq_false, Bool.false_and, Bool.false_eq_true]
  exact blockSteps_done hdone

/-- The form of BMOVE: two registers of the mode without displacement and a count, all different. -/
def bmoveBad (i : LongInsn) : Bool :=
  formBad i (formOf 3 3 0 true (noImm i)) || (insnSpec i 0).mode.toNat != 1 || (insnSpec i 1).mode.toNat != 1 || (insnSpec i 2).mode.toNat != 0
    || (insnSpec i 0).reg = (insnSpec i 1).reg || (insnSpec i 0).reg = (insnSpec i 2).reg || (insnSpec i 1).reg = (insnSpec i 2).reg

/-- The form of BFILL: a value, a destination and a count, neither of whose registers another operand names. -/
def bfillBad (i : LongInsn) : Bool :=
  formBad i (formOf 3 3 0 true (noImm i)) || (insnSpec i 1).mode.toNat != 1 || (insnSpec i 2).mode.toNat != 0
    || (insnSpec i 1).reg = (insnSpec i 2).reg || (specRegs (insnSpec i 0)).contains (insnSpec i 1).reg.val
    || (specRegs (insnSpec i 0)).contains (insnSpec i 2).reg.val

theorem execBmove_zero (hx : x = getCore s i.core) (ht : getCore t i.core = x) (hzero : (x.areg (insnSpec i 2).reg.val).toNat = 0)
    (hruns : Runs i s t (bmoveBad i)) : execBmove i s = .next (Ended t t i.core (x.advance (insnWords i)) []) := by
  subst hx
  rw [execBmove, hruns.user_body rfl, blockFuel, blockSteps_done (by rw [ht, hzero]), ht]
  rfl

theorem execBfill_zero (hx : x = getCore s i.core) (hzero : (x.areg (insnSpec i 2).reg.val).toNat = 0)
    (hruns : Runs i s t (bfillBad i)) : execBfill i s = .next (Ended t t i.core ((specMove x (insnSpec i 0) 8).advance (insnWords i)) []) := by
  subst hx
  rw [execBfill, hruns.user_body rfl]
  simp only [hzero, if_true]
  rfl

/-- BMOVE whose count ends within the destination's line copies its bytes in one step. -/
theorem execBmove_one (hx : x = getCore s i.core) (ht : getCore t i.core = x) (hruns : Runs i s t (bmoveBad i))
    (hra : ra = (insnSpec i 0).reg.val) (hrb : rb = (insnSpec i 1).reg.val) (hrk : rk = (insnSpec i 2).reg.val)
    (hn : n = (x.areg rk).toNat) (hsome : n ≠ 0) (hline : n ≤ 64 - (x.areg rb).toNat % 64)
    (hsrc : checkAcc t i.core x { seg := (insnSpec i 0).seg.val, off := (x.areg ra).toInt, n := n, write := false, block := true } = .ok pa u)
    (hdst : checkAcc u i.core x { seg := (insnSpec i 1).seg.val, off := (x.areg rb).toInt, n := n, write := true, block := true } = .ok pb v)
    (hcopy : copyBytes i.core x i.fails (x.areg ra).toInt (x.areg rb).toInt (insnSpec i 0).seg.val (insnSpec i 1).seg.val n 0 v = .ok () q)
    (hy : y = blockRegs x (some ra) rb rk n) (hw : w = setCore q i.core y) (hcore : getCore w i.core = y) (hdone : (y.areg rk).toNat = 0) :
    execBmove i s = .next (thenRelease t (setCore w i.core (y.advance (insnWords i)))) := by
  subst hx hra hrb hrk hy
  rw [execBmove, hruns.user_body rfl, blockFuel,
    blockSteps_one ht.symm hn hsome hline (by simp only [hsrc, hdst, DOut.bind]; exact hcopy) hw (by rw [hcore, hdone]), hcore]
  rfl

/-- BFILL whose count ends within the destination's line writes its value in one step. -/
theorem execBfill_one {a p : Nat} {l : Loc} (hx : x = getCore s i.core) (hv : getCore v i.core = x) (hruns : Runs i s t (bfillBad i))
    (hrb : rb = (insnSpec i 1).reg.val) (hrk : rk = (insnSpec i 2).reg.val)
    (hn : n = (x.areg rk).toNat) (hsome : n ≠ 0) (hline : n ≤ 64 - (x.areg rb).toNat % 64)
    (hloc : locate t i.core x (insnSpec i 0) (useSrc 8) 8 i.fails = .ok l u) (hread : readLoc u i.core x l 8 i.fails = .ok a v)
    (hdst : checkAcc v i.core x { seg := (insnSpec i 1).seg.val, off := (x.areg rb).toInt, n := n, write := true, block := true } = .ok p q)
    (hy : y = blockRegs x none rb rk n)
    (hw : w = setCore (memWrite q i.core (x.w && x.l) p (List.replicate n (BitVec.ofNat 8 a))) i.core y)
    (hcore : getCore w i.core = y) (hdone : (y.areg rk).toNat = 0) :
    execBfill i s = .next (thenRelease t (setCore w i.core ((specMove y (insnSpec i 0) 8).advance (insnWords i)))) := by
  subst hx hrb hrk hy
  have hcount : ¬ ((getCore s i.core).areg (insnSpec i 2).reg.val).toNat = 0 := hn ▸ hsome
  rw [execBfill, hruns.user_body rfl]
  simp only [hcount, if_false, hloc, hread, DOut.bind, blockFuel]
  rw [blockSteps_one hv.symm hn hsome hline (by simp only [hdst]) hw (by rw [hcore, hdone]), hcore]
  rfl

end

/-! ## TRAP, GATE, RTE (R387, R408, R409) -/

section

variable {i : LongInsn} {s t u v : State} {x : DCore} {n p : Nat} {b : Bytes} {a : Acc}

theorem execTrap_enters (hn : n = i.imm16.toNat) (hruns : Runs i s t (formBad i (formOf 0 0 0 false (decide (n < 16))))) :
    execTrap i s = .next (raiseSync t i.core { DFault.plain (0x10 + n) with detail := n, skip := 1 }) := by
  subst hn
  rw [execTrap]
  exact hruns.faults rfl nofun rfl

/-- GATE enters where the gate has an entry for its caller, in the core's own world on a dispatch core. -/
theorem execGate_enters {w : Bool} (hn : n = i.imm16.toNat) (hgate : gateWorld s i.core (getCore s i.core) n = some w)
    (hworld : isDisp i.core = true → w = (getCore s i.core).w) (hruns : Runs i s t (formBad i (formOf 0 0 0 true (decide (n < 256))))) :
    execGate i s = .next (raiseSync t i.core { DFault.plain 0x20 with detail := n, skip := 1 }) := by
  subst hn
  have hallowed : (isDisp i.core && w != (getCore s i.core).w) = false := by
    cases hdisp : isDisp i.core with
    | false => rfl
    | true => simp [hworld hdisp]
  rw [execGate]
  exact hruns.faults (by simp only [hgate, hallowed, Bool.or_false]) nofun rfl

section

variable (hx : x = getCore s i.core) (hl : x.l = true) (hruns : Runs i s t (formBad i (formOf 0 0 0 true (noImm i))))
include hx hl hruns

section

variable (hallowed : rteAllowed i.core x = true)
include hallowed

/-- RTE to an allowed target gives back what the save slots hold. -/
theorem execRte_slots (hdepth : (x.ctlOf x.w).depth = 0) :
    execRte i s = .next (Ended t (drainCore t i.core) i.core (rteCore x none) []) := by
  subst hx
  rw [execRte, hruns.supervisor_body (by simp [hallowed]) hl]
  simp only [hallowed, hdepth, Bool.not_true, Bool.false_eq_true, if_false, if_true]
  rfl

/-- Where a frame was pushed, RTE pops it into the save slots (R405, R409). -/
theorem execRte_frame (hdepth : (x.ctlOf x.w).depth ≠ 0) (haligned : (x.areg 7).toNat % 8 = 0)
    (ha : a = { seg := 15, off := (x.areg 7).toInt, n := 48, write := false, block := true }) (hacc : checkAcc t i.core x a = .ok p u)
    (hread : memRead (drainCore u i.core) i.core a p i.fails = .ok b v) :
    execRte i s = .next (Ended t v i.core (rteCore x (some b)) []) := by
  subst hx ha
  rw [execRte, hruns.supervisor_body (by simp [hallowed]) hl]
  simp only [hallowed, hdepth, haligned, hacc, hread, DOut.bind, bne_self_eq_false, Bool.not_true, Bool.false_eq_true, if_false]
  rfl

end

/-- On a warden core RTE to another target raises PRIV_RETURN. -/
theorem execRte_refused (hallowed : rteAllowed i.core x = false) (hwarden : isDisp i.core = false) :
    execRte i s = .next (raiseSync t i.core (DFault.plain 0x0C)) := by
  subst hx
  rw [execRte, hruns.supervisor_body (by simp [hwarden]) hl]
  simp only [hallowed, Bool.not_false, if_true]
  rfl

end

end

/-- Settles O42: a clause for each transfer, one for the three atomics, and for each block move its end at count 0 and its last step; the entries of
TRAP and GATE; the three ways of RTE. That BFILL moves its value's register at count 0 too, and the form of a jump's target, is the model's choice
(log entry 59). -/
theorem delpinTransfersAtomicsAndBlocks : Obligations.DelpinTransfersAtomicsAndBlocks := by
  unfold Obligations.DelpinTransfersAtomicsAndBlocks
  simp only [exec_jmp, exec_call, exec_ret, exec_loop, exec_swapa, exec_cas, exec_fadd, exec_bmove, exec_bfill, exec_trap, exec_gate, exec_rte]
  refine ⟨?jmp, ?call, ?ret, ?loop, ?atomics, ?noCount, ?bmove, ?bfill, ?entries, ?rte⟩
  case jmp => exact fun _ _ _ _ _ _ hx hruns htarget => ⟨execJmp_aligned hx hruns htarget, execJmp_misaligned hx hruns htarget⟩
  case call => exact fun _ _ _ _ _ _ _ _ _ hx hruns htarget hpc hacc hy => execCall_aligned hx hruns htarget hpc hacc hy
  case ret =>
    exact fun _ _ _ _ _ _ _ _ _ hx hruns hacc hread hn => ⟨execRet_aligned hx hruns hacc hread hn, execRet_misaligned hx hruns hacc hread hn⟩
  case loop =>
    exact fun _ _ _ _ _ _ _ _ _ _ _ _ hx hk hruns hloc htarget hread hm hpc => ⟨_, rfl, execLoop_runs hx hk hruns hloc htarget hread hm hpc _ rfl⟩
  case atomics =>
    rintro i count s t a b d e u x k _ old phys p off locs vals m acc hx hk hruns hoff hacc haligned hlocs hr hw ⟨g, hvals, hmem⟩ hold rfl _ rfl
    refine ⟨?swapa, ?cas, ?fadd⟩
    case swapa =>
      rintro rfl
      rw [execSwapa, atomicOp_runs hx hk hruns hoff hacc haligned hlocs hr hw hvals hmem hold _ rfl]
      rfl
    case cas =>
      rintro rfl
      rw [execCas, atomicOp_runs hx hk hruns hoff hacc haligned hlocs hr hw hvals hmem hold _ rfl]
      by_cases hequal : old = (x.areg (insnSpec i 0).reg.val).toNat % 2 ^ (8 * k) <;> simp only [hequal, if_true, if_false] <;> rfl
    case fadd =>
      rintro rfl
      rw [execFadd, atomicOp_runs hx hk hruns hoff hacc haligned hlocs hr hw hvals hmem hold _ rfl]
      rfl
  case noCount => exact fun _ _ _ _ hx ht hzero => ⟨execBmove_zero hx ht hzero, execBfill_zero hx hzero⟩
  case bmove =>
    exact fun _ _ _ _ _ _ _ _ _ _ _ _ _ _ _ hx ht hruns hra hrb hrk hn hsome hline hsrc hdst hcopy hy hw hcore hdone =>
      execBmove_one hx ht hruns hra hrb hrk hn hsome hline hsrc hdst hcopy hy hw hcore hdone
  case bfill =>
    exact fun _ _ _ _ _ _ _ _ _ _ _ _ _ _ _ hx hv hruns hrb hrk hn hsome hline hloc hread hdst hy hw hcore hdone =>
      execBfill_one hx hv hruns hrb hrk hn hsome hline hloc hread hdst hy hw hcore hdone
  case entries => exact fun _ _ _ _ hn => ⟨execTrap_enters hn, fun _ hgate hworld hruns => execGate_enters hn hgate hworld hruns⟩
  case rte =>
    intro i s t x hx hl hruns
    refine ⟨?slots, ?frame, ?refused⟩
    case slots => exact fun hallowed hdepth => ⟨rteCore x none, x.ctlOf x.w, rfl, rfl, rfl, rfl, rfl, rfl, execRte_slots hx hl hruns hallowed hdepth⟩
    case frame => exact fun hallowed hdepth haligned _ _ _ _ _ ha hacc hread => execRte_frame hx hl hruns hallowed hdepth haligned ha hacc hread
    case refused => exact execRte_refused hx hl hruns

end Sys2Proof.Machine
end

section
/-!
Delpin system instructions. Segment registers, mask, wait, fence, status and control registers (O43).
-/
namespace Sys2Proof.Machine

variable {i : LongInsn} {s t u v q w : State} {x y : DCore} {n k : Nat} {l : Loc} {locs : List Loc} {vals : List Nat}

/-! ## Segment registers (R341, R386) -/

section

variable {a : Nat} {d : SegDesc} (hx : x = getCore s i.core) (hl : x.l = true) (hn : n = i.imm16.toNat)
  (hruns : Runs i s t (formBad i (formOf 1 0 0 true (decide (n < 16))) || !modeIn (insnSpec i 0) 1 9)) (hspecs : i.specs = [insnSpec i 0])
  (hloc : locate (drainCore t i.core) i.core x (insnSpec i 0) { useSrc 1 with block := true } 16 i.fails = .ok l u)
  (hread : readLoc u i.core x l 1 i.fails = .ok a v) (hd : d = segOfBytes (leBytes a 16))
include hx hl hn hruns hspecs hloc hread hd

/-- LSEG loads a descriptor that is valid in its world. -/
theorem execLseg_valid (hvalid : segLoads d x.w = true) : execLseg i s
    = .next (Ended t v i.core ((specMove (x.setBank x.w x.l (x.active.setSeg n d)) (insnSpec i 0) 1).advance (insnWords i)) []) := by
  subst hx hn hd
  rw [execLseg, hruns.supervisor_body rfl hl]
  simp only [dataBody, hspecs, List.take_succ_cons, List.take_nil, List.drop_succ_cons, List.drop_nil, List.map_cons, List.map_nil,
    List.append_nil, locateAll, readLocs, hloc, hread, DOut.bind, val, Nat.reduceLT, decide_true,
    List.getElem?_cons_zero, Option.getD_some, hvalid, if_true]
  rfl

/-- LSEG of another descriptor raises SEG_INVALID and loads nothing. -/
theorem execLseg_invalid (hvalid : segLoads d x.w = false) : execLseg i s = .next (raiseSync v i.core (DFault.plain 7)) := by
  subst hx hn hd
  rw [execLseg, hruns.supervisor_body rfl hl]
  simp only [dataBody, hspecs, List.take_succ_cons, List.take_nil, List.drop_succ_cons, List.drop_nil, List.map_cons, List.map_nil,
    List.append_nil, locateAll, readLocs, hloc, hread, DOut.bind, val, Nat.reduceLT, decide_true,
    List.getElem?_cons_zero, Option.getD_some, hvalid, Bool.false_eq_true, if_false]
  rfl

end

/-- A legal instruction of one size has it. -/
theorem Runs.size_eq {b imm always bad : Bool} {count size dsts : Nat} (h : Runs i s t b)
    (hb : b = (formBad i (formOf count size dsts always imm) || bad)) : i.size.toNat = size := by
  have hlegal : (formBad i (formOf count size dsts always imm) || bad) = false := hb.symm.trans h.2.2.2.1
  simp only [formBad, formOf, Bool.or_eq_false_iff] at hlegal
  obtain ⟨⟨⟨⟨⟨⟨⟨⟨-, hlo⟩, hhi⟩, -⟩, -⟩, -⟩, -⟩, -⟩, -⟩ := hlegal
  exact Nat.le_antisymm (Nat.le_of_not_lt (of_decide_eq_false hhi)) (Nat.le_of_not_lt (of_decide_eq_false hlo))

/-- SSEG stores a segment register as it is held. -/
theorem execSseg_runs {p : Nat} {a : Acc} (hx : x = getCore s i.core) (hl : x.l = true) (hn : n = i.imm16.toNat)
    (hruns : Runs i s t (formBad i (formOf 1 0 1 true (decide (n < 16))) || !modeIn (insnSpec i 0) 1 8)) (hspecs : i.specs = [insnSpec i 0])
    (hloc : locate t i.core x (insnSpec i 0) { useDst 1 with block := true } 16 i.fails = .ok (.mem a p) u) :
    execSseg i s = .next (Ended t u i.core ((specMove x (insnSpec i 0) 1).advance (insnWords i))
      [(p, leBytes (leAt (x.active.seg n).bytes 0 16) 16)]) := by
  subst hx hn
  have hbytes : sizeBytes i.size.toNat = 1 := by rw [hruns.size_eq rfl]; rfl
  rw [execSseg, dataOp, hruns.supervisor_body rfl hl]
  simp only [dataBody, hspecs, hbytes, List.take_zero, List.drop_zero, List.map_cons, List.map_nil, List.nil_append, locateAll, readLocs, DOut.bind,
    Nat.reduceLT, decide_true, if_true, hloc]
  rfl

/-! ## Status (R386–R390) -/

section

variable (hx : x = getCore s i.core) (hk : k = sizeBytes i.size.toNat) (hreads : Reads i x t u 1 k locs vals)
include hx hk hreads

theorem execMask_runs (hl : x.l = true) (hruns : Runs i s t (formBad i { formAny 1 0 with always := true, imm := noImm i })) :
    execMask i s = .next (Puts i t u 1 k locs { x with m := val vals 0 % 8 } 0) := by
  subst hx hk
  exact hruns.puts (Bool.or_false _) (fun _ => hl) hreads (sizeBytes_le _) rfl

theorem execMtf_runs (hruns : Runs i s t (formBad i { formAny 1 0 with imm := noImm i })) :
    execMtf i s = .next (Puts i t u 1 k locs
      (x.setFlags { n := (val vals 0).testBit 3, z := (val vals 0).testBit 2, v := (val vals 0).testBit 1, c := (val vals 0).testBit 0 })
      0) := by
  subst hx hk
  exact hruns.puts (Bool.or_false _) nofun hreads (sizeBytes_le _) rfl

end

section

variable (hx : x = getCore s i.core)
include hx

theorem execWait_runs (hl : x.l = true) (hruns : Runs i s t (formBad i (formOf 0 0 0 true (noImm i)) || x.m = 7)) :
    execWait i s = .next (Ended t t i.core { x.advance (insnWords i) with waiting := (admitted t i.core).isNone } []) := by
  subst hx
  exact hruns.supervisor_body (bad := fun x => formBad i (formOf 0 0 0 true (noImm i)) || x.m = 7) rfl hl

theorem execFence_runs
    (hruns : Runs i s t (formBad i (formOf 0 0 0 true (decide (1 ≤ i.imm16.toNat) && decide (i.imm16.toNat ≤ 3))))) :
    execFence i s = .next (Ended t (if i.imm16.toNat.testBit 0 then drainCore t i.core else t) i.core (x.advance (insnWords i)) []) := by
  subst hx
  rw [execFence, hruns.user_body rfl]
  rfl

/-! ## Control registers (R394, R410, R411) -/

section

variable (hreads : Reads i x t u 0 0 locs [])
include hreads

theorem execMfps_runs (hruns : Runs i s t (formBad i { formAny 1 1 with imm := noImm i })) :
    execMfps i s = .next (Puts i t u 0 0 locs x x.psWord) := by
  subst hx
  exact hruns.puts (Bool.or_false _) nofun hreads (Nat.zero_le _) rfl

theorem execMfcr_runs (hl : x.l = true) (hruns : Runs i s t (formBad i (formOf 1 3 1 false true) || crAbsent i.core x i.imm16.toNat)) :
    execMfcr i s = .next (Puts i t u 0 0 locs x (readCr u i.core x i.imm16.toNat)) := by
  subst hx
  exact hruns.puts rfl (fun _ => hl) hreads (Nat.zero_le _) rfl

end

/-- MTCR writes its register, and then SWI raises its sources or WSTART starts the Open world. -/
theorem execMtcr_runs {v : Nat} (hl : x.l = true) (hn : n = i.imm16.toNat)
    (hruns : Runs i s t (formBad i (formOf 1 3 0 false true) || crAbsent i.core x n))
    (hloc : locate t i.core x (insnSpec i 0) (useSrc 8) 8 i.fails = .ok l u) (hread : readLoc u i.core x l 8 i.fails = .ok v q)
    (hy : y = specMove x (insnSpec i 0) 8)
    (hw : w = setCore q i.core ((y.setCtl x.w (writeCr (y.ctlOf x.w) n (BitVec.ofNat 64 v))).advance (insnWords i))) :
    execMtcr i s = .next (thenRelease t
      (if n = 9 then softRaise w i.core v else if n = 18 ∧ v.testBit 0 then openStart w i.core else w)) := by
  subst hx hn hy hw
  rw [execMtcr, hruns.supervisor_body (bad := fun x => formBad i (formOf 1 3 0 false true) || crAbsent i.core x i.imm16.toNat) rfl hl]
  simp only [hloc, hread, DOut.bind]
  rfl

/-! ## At user level -/

theorem execWait_user (hl : x.l = false) (hruns : Runs i s t (formBad i (formOf 0 0 0 true (noImm i)) || x.m = 7)) :
    execWait i s = .next (raiseSync t i.core (DFault.plain 2)) := by
  subst hx
  exact hruns.privileged (bad := fun x => formBad i (formOf 0 0 0 true (noImm i)) || x.m = 7) rfl hl

theorem execMfcr_user (hl : x.l = false) (hruns : Runs i s t (formBad i (formOf 1 3 1 false true) || crAbsent i.core x i.imm16.toNat)) :
    execMfcr i s = .next (raiseSync t i.core (DFault.plain 2)) := by
  subst hx
  rw [execMfcr, dataOp]
  exact hruns.privileged rfl hl

end

section

variable {c : CoreId} {r : W64} (hready : ready s c = true) (hl : (getCore s c).l = true)
include hready hl

theorem execSwi_supervisor : execSwi c r s = .next (softRaise s c r.toNat) := by
  simp only [execSwi, hready, hl, Bool.and_self, if_true]

theorem execWstart_sealed (hw : (getCore s c).w = true) (hwarden : isDisp c = false) (hset : r.getLsbD 0 = true) :
    execWstart c r s = .next (openStart s c) := by
  simp only [execWstart, hready, hl, hw, hwarden, hset, Bool.not_false, Bool.and_self, if_true]

end

/-- Settles O43: a clause for each instruction, for SWI and WSTART written as registers, and for WAIT and MFCR at user level. That a SEG_INVALID of
LSEG names segment register 0 is the model's choice (log entry 59). -/
theorem delpinSystemInstructions : Obligations.DelpinSystemInstructions := by
  unfold Obligations.DelpinSystemInstructions
  simp only [exec_lseg, exec_sseg, exec_mask, exec_mtf, exec_wait, exec_fence, exec_mfps, exec_mfcr, exec_mtcr, exec_swi, exec_wstart]
  refine ⟨?lseg, ?sseg, ?masks, ?waits, ?reads, ?writes, ?registers, ?user⟩
  case lseg =>
    exact fun _ _ _ _ _ _ _ _ _ _ hx hl hn hruns hspecs hloc hread hd =>
      ⟨execLseg_valid hx hl hn hruns hspecs hloc hread hd, execLseg_invalid hx hl hn hruns hspecs hloc hread hd⟩
  case sseg => exact fun _ _ _ _ _ _ _ _ hx hl hn hruns hspecs hloc => execSseg_runs hx hl hn hruns hspecs hloc
  case masks => exact fun _ _ _ _ _ _ _ _ hx hk hreads => ⟨execMask_runs hx hk hreads, execMtf_runs hx hk hreads⟩
  case waits => exact fun _ _ _ _ hx => ⟨execWait_runs hx, execFence_runs hx⟩
  case reads => exact fun _ _ _ _ _ _ hx hreads => ⟨execMfps_runs hx hreads, execMfcr_runs hx hreads⟩
  case writes =>
    intro i s t u q w x y n v l hx hl hn hruns hloc hread hy hw
    rw [execMtcr_runs hx hl hn hruns hloc hread hy hw]
    refine ⟨fun hswi => ?_, fun hwstart hset => ?_, fun hswi hwstart => ?_⟩
    · rw [if_pos hswi]
    · rw [if_neg (by omega), if_pos ⟨hwstart, hset⟩]
    · rw [if_neg hswi, if_neg (hwstart ·.1)]
  case registers =>
    exact fun _ _ _ hready hl => ⟨execSwi_supervisor hready hl, fun hw hwarden hset => execWstart_sealed hready hl hw hwarden hset⟩
  case user => exact fun _ _ _ _ hx hl => ⟨execWait_user hx hl, execMfcr_user hx hl⟩

end Sys2Proof.Machine
end

section
/-!
Entries, protection and arbitration. An interrupt entry, a lockstep mismatch, the change of the protection rules and an arbiter's decision (O44).
-/
namespace Sys2Proof.Machine

variable {s t u z : State} {c : CoreId} {x : DCore}

/-! ## Entries (R402–R404, R413) -/

/-- The entry that takes source `n` of a core (R404). -/
def irqEntry (n l : Nat) (w : Bool) : Entry :=
  { world := w, level := l, code := 0x40 + n, sub := 0, orig := 0, f := DFault.plain (0x40 + n), origValid := true }

/-- The CAUSE of an interrupt is its number alone. -/
theorem causeWord_irq (n l : Nat) (w : Bool) : causeWord (irqEntry n l w) = 0x40 + n := by
  simp [causeWord, irqEntry, DFault.plain, bitAt]

/-- A running core takes the admitted source of highest level, and no longer waits for it. -/
theorem execInterruptEntry_taken {n l : Nat} {w : Bool} (h : admitted s c = some (n, l, w)) (hruns : coreRuns s c = true)
    (hfresh : (getCore s c).fresh = false) : execInterruptEntry c s = .next (enter (endHalt (dropSource s c n) c) c (irqEntry n l w)) := by
  simp only [execInterruptEntry, h, hruns, hfresh, Bool.not_true, Bool.or_self, Bool.false_eq_true, if_false]
  rfl

/-- An entry that pushes no frame saves PC and PS and switches. -/
theorem enter_without_frame {e : Entry} (hz : z = drainCore s c) (hx : x = getCore z c) (hstack : entryStack z c x e = (some none, t)) :
    enter s c e = enterCore t c x e none := by
  subst hz hx
  simp only [enter, hstack]

/-- The save slots of a world after an interrupt: where the core was, and the source (R404). -/
def irqSlots (r : CtlRegs) (x : DCore) (n : Nat) : CtlRegs :=
  { r with
    epc := BitVec.ofNat 64 (x.pc.toNat)
    eps := BitVec.ofNat 64 x.psWord
    cause := BitVec.ofNat 64 (0x40 + n)
    eaddr := 0
    ephys := 0
    origValid := true
    origW := x.w
    origL := x.l
    busy := true }

/-- An interrupt keeps the gate's arguments, which are a GATE's alone. -/
theorem enterCore_irq {n l : Nat} {w : Bool} {r : CtlRegs} (hr : r = x.ctlOf w) : enterCore t c x (irqEntry n l w) none = setCore t c
    { x.setCtl w (irqSlots r x n) with w := w, l := true, m := l, pc := BitVec.ofNat 32 r.vbar.toNat, waiting := false, fresh := true } := by
  subst hr
  have hgate : ¬ (irqEntry n l w).code = 0x20 := by simp only [irqEntry]; omega
  simp only [enterCore, causeWord_irq, hgate, Option.isSome_none, Bool.false_eq_true, if_false]
  rfl

theorem execLockstepMismatch_up (hup : geckoUp s = true) (hlock : inLockstep s = true) (hx : x = getCore s .a) :
    execLockstepMismatch s = .next (faultReport (stopB (stopA s x 0xF0 0) x 0xF0 0) 0x29 0 0) := by
  subst hx
  simp only [execLockstepMismatch, hup, hlock, Bool.and_self, if_true]

/-! ## The protection rules (R426–R428) -/

section

variable {mpu width all : Nat} {f : Field} {m : BitVec 24} {landau : Bool}

/-- The unit that a protection command names: MPU_G or MPU_L, with its masters and its ERR. -/
def namesMpu (landau : Bool) (mpu width : Nat) (f : Field) : Prop :=
  mpu = (if landau then 1 else 0) ∧ width = (if landau then 24 else 10) ∧ f = (if landau then F.MPU_L_SYNC_ERR else F.MPU_G_SYNC_ERR)

theorem namesMpu_landau : namesMpu true 1 24 F.MPU_L_SYNC_ERR := ⟨rfl, rfl, rfl⟩

theorem namesMpu_gecko : namesMpu false 0 10 F.MPU_G_SYNC_ERR := ⟨rfl, rfl, rfl⟩

variable (hmpu : namesMpu landau mpu width f) (hu : u = setF s f 0) (hall : all = (m.toNat % 2 ^ width ||| pendOf s mpu))
include hmpu hu hall

/-- A sync whose regions are all well-formed latches them (R427). -/
theorem execMpuSync_latches (hgood : (syncRegions mpu all).find? (fun p => badRegion mpu (shadow u mpu p.1 p.2)) = none) :
    execMpuSync landau m s
      = .next (setPend u mpu all ((syncRegions mpu all).map (fun p => (mpuKey mpu p.1 p.2, shadow u mpu p.1 p.2)))) := by
  obtain ⟨rfl, rfl, rfl⟩ := hmpu
  subst hu hall
  simp only [execMpuSync, hgood]

/-- Another sync ends with ERR and the first region that is not, and no sync is pending. -/
theorem execMpuSync_refused {a b : Nat} (hbad : (syncRegions mpu all).find? (fun p => badRegion mpu (shadow u mpu p.1 p.2)) = some (a, b)) :
    execMpuSync landau m s = .next (syncErr (setPend u mpu 0 []) mpu a b) := by
  obtain ⟨rfl, rfl, rfl⟩ := hmpu
  subst hu hall
  simp only [execMpuSync, hbad]

end

/-- With no sync pending nothing comes into force. -/
theorem execMpuSyncApply_idle {b : Bool} (hidle : pendOf s (if b then 1 else 0) = 0) : execMpuSyncApply b s = .next s := by
  rw [execMpuSyncApply, if_pos hidle]

/-- The rules once the latched regions of a unit are in force; a SIZE it does not have matches nothing (log entry 37). -/
def applied (s : State) (mpu : Nat) : State :=
  let act := (s.mpu.snap.filter (fun e => e.1 / 512 = mpu)).foldl
    (fun l e => mapSet l e.1 (if mpuSizeOk mpu e.2.size then e.2 else MpuRegion.off) MpuRegion.off) s.mpu.act
  { s with mpu := { s.mpu with act := act } }

theorem execMpuSyncApply_landau (hpend : pendOf s 1 ≠ 0) :
    execMpuSyncApply true s = .next (raiseDisp (setPend (applied s 1) 1 0 []) 3 (pendOf s 1)) := if_neg hpend

theorem execMpuSyncApply_gecko (hpend : pendOf s 0 ≠ 0) : execMpuSyncApply false s = .next (setPend (applied s 0) 0 0 []) := if_neg hpend

/-! ## Arbiters (R430, R431) -/

section

variable {a : Fin 6} {q : W32} {p h : Nat} {asks : Nat → Bool} (harb : arbState s a.val = (p, h))
  (hasks : asks = (fun o => o < 32 && q.toNat.testBit o))
include harb hasks

/-- A holder that still asks keeps its grant; with no request the port is free; else slot P's owner or the highest-ranked that asks is granted. -/
theorem execArbiterDecision_cases : execArbiterDecision a q s = .next (if asks h then s
    else if q = 0 then setArb s a.val p 0xFF
    else if asks (arbSlot s a.val p) then setArb s a.val ((p + 1) % 256) (arbSlot s a.val p)
    else setArb s a.val ((p + 1) % 256) (((ranking s a.val).find? asks).getD 0xFF)) := by
  subst hasks
  simp only [execArbiterDecision, harb]

end

/-- Settles O44: an entry without a frame, the mismatch, a sync of each unit and its application, the clear, and the four cases of a decision. -/
theorem entriesProtectionAndArbitration : Obligations.EntriesProtectionAndArbitration := by
  unfold Obligations.EntriesProtectionAndArbitration
  simp only [exec_interruptEntry, exec_lockstepMismatch, exec_mpuSync, exec_mpuSyncApply, exec_mpuViolClear, exec_arbiterDecision]
  refine ⟨?entry, ?mismatch, ?syncLandau, ?syncGecko, ?applyLandau, ?applyGecko, ?idle, ?clear, ?decision⟩
  case entry =>
    intro c s z t n l w x r hadmitted hruns hfresh hz hx hr hstack
    rw [execInterruptEntry_taken hadmitted hruns hfresh, enter_without_frame (e := irqEntry n l w) hz hx hstack, enterCore_irq hr]
    rfl
  case mismatch => exact fun _ _ hup hlock hx => execLockstepMismatch_up hup hlock hx
  case syncLandau => exact fun _ _ _ _ hu hall hgood => execMpuSync_latches namesMpu_landau hu hall hgood
  case syncGecko =>
    exact fun _ _ _ _ hu hall => ⟨execMpuSync_latches namesMpu_gecko hu hall, fun _ _ hbad => execMpuSync_refused namesMpu_gecko hu hall hbad⟩
  case applyLandau => exact fun _ hpend => ⟨_, rfl, execMpuSyncApply_landau hpend⟩
  case applyGecko => exact fun _ hpend => execMpuSyncApply_gecko hpend
  case idle => exact fun _ _ hidle => execMpuSyncApply_idle hidle
  case clear => exact fun _ => ⟨rfl, rfl⟩
  case decision =>
    intro a q s p h asks harb hasks
    rw [execArbiterDecision_cases harb hasks]
    refine ⟨?keeps, ?free, ?slot, ?ranked⟩
    case keeps => exact fun hkeeps => by rw [if_pos hkeeps]
    case free => exact fun hother hnone => by simp only [hother, hnone, Bool.false_eq_true, if_false, if_true]
    case slot => exact fun hother hsome hslot => by simp only [hother, hsome, hslot, Bool.false_eq_true, if_false, if_true]
    case ranked =>
      exact fun o hother hsome hslot hranked => by
        simp only [hother, hsome, hslot, hranked, Bool.false_eq_true, if_false, Option.getD_some]

end Sys2Proof.Machine
end

section
/-!
The flash controller. How an operation starts or is refused, stops and goes on, and ends (O45).
-/
namespace Sys2Proof.Machine

variable {w : FlashWr} {s t u : State} {o : FlashOp} {l : List FlashOp} {op src fetch n : Nat}

/-! ## Keys (R440) -/

theorem flashKeyed_of_key (hup : geckoUp s = true) (hkey : w.key = 0x464C) : flashKeyed w s t = .next t := by
  rw [flashKeyed, whenGecko_of_up hup, if_pos hkey]

/-- Another key ends KEY, and nothing else happens. -/
theorem flashKeyed_of_other (hup : geckoUp s = true) (hkey : w.key ≠ 0x464C) :
    flashKeyed w s t = .next (setF (setF s F.FLASHC_STATUS_DONE 1) F.FLASHC_RESULT_ERR 13) := by
  rw [flashKeyed, whenGecko_of_up hup, if_neg hkey]

/-- The five operations that start, by their numbers. -/
theorem exec_flashCmd (w : FlashWr) (s : State) : ∀ e ∈ [(Instr.program w, 1), (.erase w, 2), (.eraseRange w, 3), (.check w, 4), (.retire w, 5)],
    exec e.1 s = flashCmd e.2 w s := by
  simp only [List.forall_mem_cons]
  exact ⟨rfl, rfl, rfl, rfl, rfl, fun _ h => absurd h List.not_mem_nil⟩

/-- What a KEY that is wrong leaves of every command of the controller. -/
theorem exec_flash_other_key (hup : geckoUp s = true) (hkey : w.key ≠ 0x464C) :
    ∀ c ∈ [Instr.program w, .erase w, .eraseRange w, .check w, .retire w, .suspend w, .resume w],
      exec c s = .next (setF (setF s F.FLASHC_STATUS_DONE 1) F.FLASHC_RESULT_ERR 13) := by
  have hother {t : State} : flashKeyed w s t = _ := flashKeyed_of_other hup hkey
  simp only [List.forall_mem_cons, exec_program, exec_erase, exec_eraseRange, exec_check, exec_retire, exec_suspend, exec_resume]
  exact ⟨hother, hother, hother, hother, hother, hother, hother, fun _ h => absurd h List.not_mem_nil⟩

/-! ## Starts (R439–R441, R448, R454) -/

/-- With no reason to refuse it an operation begins; a PROGRAM of the firmware's holds the bytes at its source. -/
theorem flashStart_begins (h : flashErr s o src fetch = 0) (hfirmware : o.tag = false) (hempty : o.data = []) :
    flashStart s o src fetch = flashBegin s { o with data := if o.op = 1 then geckoBytes s src o.len else [] } := by
  obtain ⟨op, addr, len, data, tag, susp⟩ := o
  subst hfirmware hempty
  simp only [flashStart, h, Bool.not_false, and_true]
  split <;> rfl

theorem flashStart_refuses (h : flashErr s o src fetch = n) (hbad : n ≠ 0) (hsource : n ≠ 8) (hspare : n ≠ 11) :
    flashStart s o src fetch = flashRefuse s n := by
  simp only [flashStart, h]

theorem flashStart_without_spare (h : flashErr s o src fetch = 11) : flashStart s o src fetch = flashRefuse (sparesOut s o.addr) 11 := by
  simp only [flashStart, h]

/-! ## SUSPEND and RESUME (R445, R446) -/

section

variable (hup : geckoUp s = true) (hkey : w.key = 0x464C)
include hup hkey

section

variable (hrun : s.flash.run = some o) (hbank : flashBank o.addr ≠ w.fetch.val)
include hrun hbank

/-- An erase or a program that was not suspended too often stops, and is the innermost suspended one. -/
theorem execSuspend_stops (hop : o.op ≠ 4 ∧ o.op ≠ 5) (hcount : o.susp < if o.op = 1 then 8 else 64) : execSuspend w s
    = .next (showSusp (setF { s with flash := { s.flash with run := none, stack := { o with susp := o.susp + 1 } :: s.flash.stack } }
        F.FLASHC_STATUS_BUSY 0)) := by
  have hmay : ¬ (o.op = 4 ∨ o.op = 5 ∨ (if o.op = 1 then 8 else 64) ≤ o.susp) := by
    obtain ⟨hcheck, hretire⟩ := hop
    exact not_or.mpr ⟨hcheck, not_or.mpr ⟨hretire, Nat.not_le.mpr hcount⟩⟩
  simp only [execSuspend, flashKeyed_of_key hup hkey, hrun, hbank, hmay, if_false]

/-- A CHECK and a RETIRE go on. -/
theorem execSuspend_ignored (hop : o.op = 4 ∨ o.op = 5) : execSuspend w s = .next s := by
  have hnot : o.op = 4 ∨ o.op = 5 ∨ (if o.op = 1 then 8 else 64) ≤ o.susp := hop.imp_right .inl
  simp only [execSuspend, flashKeyed_of_key hup hkey, hrun, hbank, hnot, if_false, if_true]

end

theorem execResume_goes_on (hrun : s.flash.run = none) (hstack : s.flash.stack = o :: l) (hbank : flashBank o.addr ≠ w.fetch.val) :
    execResume w s = .next (setF (setF (showSusp { s with flash := { s.flash with run := some o, stack := l } }) F.FLASHC_STATUS_BUSY 1)
      F.FLASHC_STATUS_OP o.op) := by
  simp only [execResume, flashKeyed_of_key hup hkey, hrun, hstack, hbank, Option.isSome_none, Bool.false_eq_true, if_false]

theorem execResume_idle (hstack : s.flash.stack = []) : execResume w s = .next s := by
  simp only [execResume, flashKeyed_of_key hup hkey, hstack]

end

/-! ## Ends (R439, R440) -/

/-- The end of an operation of the firmware's shows its result; one that does not verify is reported. -/
theorem execFlashOperationEnd_running {e : FlashEnd} {err m lost : Nat} (hrun : s.flash.run = some o) (hfirmware : o.tag = false)
    (heffect : flashEffect s o e = (u, err, m, lost)) :
    ∀ v, v = setF (setF (setF (setF (setF { u with flash := { u.flash with run := none } } F.FLASHC_RESULT_ERR err) F.FLASHC_RESULT_MAXCNT m)
        F.FLASHC_RESULT_LOST lost) F.FLASHC_STATUS_BUSY 0) F.FLASHC_STATUS_DONE 1 →
      execFlashOperationEnd e s = .next (if err = 6 then faultReport v 0x2B (flashBank o.addr) 0 else v) := by
  rintro _ rfl
  simp only [execFlashOperationEnd, hrun, hfirmware, flashFinish, heffect, Bool.false_eq_true, if_false]

/-- Settles O45: starts and refusals of the five operations, the wrong key, SUSPEND, RESUME and the end. What becomes of the intent that a RETIRE
programs, and the UNIT and PART of the two reports, is the model's choice (log entries 8 and 97), as is that a CHECK and a RETIRE cannot be suspended. -/
theorem flashCommandsComplete : Obligations.FlashCommandsComplete := by
  unfold Obligations.FlashCommandsComplete
  refine ⟨?starts, ?otherKey, ?suspend, ?resume, ?nothing, ?ends⟩
  case starts =>
    rintro w s n hup hkey e he o rfl herr
    have hstart : exec e.1 s = .next (flashStart s (flashAsked s e.2) (getF s F.FLASHC_SRC_VALUE) w.fetch.val) :=
      (exec_flashCmd w s e he).trans (flashKeyed_of_key hup hkey)
    rw [hstart]
    refine ⟨?begins, ?refused, ?spare⟩
    case begins =>
      rintro rfl
      exact ⟨_, _, rfl, rfl, congrArg _ (flashStart_begins herr rfl rfl)⟩
    case refused => exact fun hbad hsource hspare => congrArg _ (flashStart_refuses herr hbad hsource hspare)
    case spare =>
      rintro rfl
      exact congrArg _ (flashStart_without_spare herr)
  case otherKey => exact fun _ _ hup hkey => exec_flash_other_key hup hkey
  case suspend =>
    intro w s o hup hkey hrun hbank
    simp only [exec_suspend]
    refine ⟨?erase, ?program, ?others⟩
    case erase =>
      intro hop hcount
      exact execSuspend_stops hup hkey hrun hbank (by omega) (by rwa [if_neg (by omega)])
    case program =>
      intro hop hcount
      exact execSuspend_stops hup hkey hrun hbank (by omega) (by rwa [if_pos hop])
    case others => exact execSuspend_ignored hup hkey hrun hbank
  case resume => exact fun _ _ _ _ hup hkey hrun hstack hbank => execResume_goes_on hup hkey hrun hstack hbank
  case nothing => exact fun _ _ hup hkey hstack => execResume_idle hup hkey hstack
  case ends => exact fun _ _ _ _ _ _ _ hrun hfirmware heffect => ⟨_, rfl, execFlashOperationEnd_running hrun hfirmware heffect _ rfl⟩

end Sys2Proof.Machine
end

section
/-!
The tamper block. Events and loops, its keyed commands, self-tests, forced trips and the cell log (O46).
-/
namespace Sys2Proof.Machine

variable {s t u : State} {k : BitVec 16}

/-! ## Detectors and loops (R457–R459) -/

/-- A pair of detectors that disagrees is latched, and recorded and reported with main power good (R457). -/
theorem execMonitorDisagree_live {n : Fin 16} (hlive : sourceLive s n.val = true)
    (halone : s.tamper.tripA.getLsbD n.val ≠ s.tamper.tripB.getLsbD n.val)
    (hu : u = setF s F.TAMPER_DISAGREE_LATCHED (getF s F.TAMPER_DISAGREE_LATCHED ||| 2 ^ n.val)) (hup : geckoUp u = true) :
    execMonitorDisagree n s = .next (faultReport (occur u 0x306 n.val 0 0) 0x2E n.val 0) := by
  subst hu
  simp only [execMonitorDisagree, hlive, bne_iff_ne.mpr halone, hup, Bool.and_self, if_true]

/-- A good measurement clears a loop's source, the first bad one is only counted, the second trips it. -/
theorem judgeLoop_good (n : Nat) : judgeLoop s n 0 = clearSource s n := rfl

theorem judgeLoop_first (n : Nat) : judgeLoop s n 1 = s := rfl

theorem judgeLoop_again {bad : Nat} (n : Nat) (hbad : 2 ≤ bad) :
    judgeLoop s n bad = tripDetectors s (BitVec.ofNat 16 (2 ^ n)) (BitVec.ofNat 16 (2 ^ n)) := by
  rw [judgeLoop, if_neg (by omega), if_pos hbad]

section

variable {r : Nat} (hlive : sourceLive s 7 = true)
include hlive

theorem execLoop0Measurement_good (hlo : 100 ≤ r) (hhi : r ≤ 10000) :
    execLoop0Measurement r s = .next (clearSource { s with tamper := { s.tamper with loop0Bad := 0 } } 7) := by
  have hgood : ¬ (r < 100 ∨ 10000 < r) := by omega
  simp only [execLoop0Measurement, hlive, hgood, if_true, if_false, judgeLoop_good, Nat.min_zero]

theorem execLoop0Measurement_bad (hbad : r < 100 ∨ 10000 < r) : execLoop0Measurement r s
    = .next (judgeLoop { s with tamper := { s.tamper with loop0Bad := min 2 (s.tamper.loop0Bad + 1) } } 7 (s.tamper.loop0Bad + 1)) := by
  simp only [execLoop0Measurement, hlive, hbad, if_true]

end

section

variable {c : BitVec 16} (hlive : sourceLive s 8 = true)
include hlive

/-- The next code, in time, is good; the counter moves on in every case. -/
theorem execLoop1Code_good (hcode : c = (Config.loopCode s.tamper.loopKey s.tamper.loopCtr).setWidth 16) : execLoop1Code c false s
    = .next (clearSource { s with tamper := { s.tamper with loop1Bad := 0, loopCtr := s.tamper.loopCtr + 1 } } 8) := by
  have hgood : ¬ (false = true ∨ (c != (Config.loopCode s.tamper.loopKey s.tamper.loopCtr).setWidth 16) = true) := by simp [← hcode]
  simp only [execLoop1Code, hlive, hgood, if_true, if_false, judgeLoop_good, Nat.min_zero]

theorem execLoop1Code_late : execLoop1Code c true s = .next (judgeLoop
    { s with tamper := { s.tamper with loop1Bad := min 2 (s.tamper.loop1Bad + 1), loopCtr := s.tamper.loopCtr + 1 } } 8 (s.tamper.loop1Bad + 1)) := by
  simp only [execLoop1Code, hlive, true_or, if_true]

end

/-! ## Keyed commands (R470–R474) -/

theorem tamperKeyed_of_up (hup : geckoUp s = true) : tamperKeyed 0x7A4D s t = .next t := by
  rw [tamperKeyed, whenGecko_of_up hup, if_pos rfl]

theorem tamperKeyed_of_other (hup : geckoUp s = true) (hkey : k ≠ 0x7A4D) : tamperKeyed k s t = .next s := by
  rw [tamperKeyed, whenGecko_of_up hup, if_neg hkey]

theorem requestZall_ignored (h : isSet s F.TAMPER_STATUS_ZPEND = true) : requestZall s = s := by
  simp only [requestZall, h, Bool.true_or, if_true]

theorem requestZall_starts (hdone : isSet s F.TAMPER_STATUS_ZPEND = false) (hlife : life s ≠ 4) :
    ∀ u, u = zeroiseAllStart { s with tamper := { s.tamper with zallRunning := true } } →
      requestZall s = occur u 0x402 ((u.led.act.map (fun a => a.target)).getD 0) 0 0 := by
  rintro _ rfl
  have hstarts : ¬ (isSet s F.TAMPER_STATUS_ZPEND || decide (life s = 4)) = true := by simp [hdone, hlife]
  rw [requestZall, if_neg hstarts]

theorem makeBk_draws {n : Nat} (hnone : isSet s F.TAMPER_STATUS_BK_VALID = false) (hdraw : drbgBits s 28 384 = (n, u)) : makeBk s
    = setF (setF { u with tamper := { u.tamper with bk := some (BitVec.ofNat 384 n) } } F.TAMPER_STATUS_BK_VALID 1) F.TAMPER_STATUS_ZALL_DONE 0 := by
  simp only [makeBk, hnone, hdraw, Bool.false_eq_true, if_false]

theorem zdone_pending (hpend : isSet s F.TAMPER_STATUS_ZPEND = true) (hu : u = setF s F.TAMPER_STATUS_ZPEND 0) :
    zdone s = if isSet u F.TAMPER_STATUS_BK_VALID then u else setF u F.TAMPER_STATUS_ZALL_DONE 1 := by
  subst hu
  simp only [zdone, hpend, if_true]

/-! ## Self-tests (R476) -/

section

variable {v : W32} {n d : Nat} (hup : geckoUp s = true) (hn : n = F.TAMPER_SELFTEST_SOURCE.ofWord v.toNat) (hd : d = F.TAMPER_SELFTEST_DET.ofWord v.toNat)
  (hu : u = writeReg s Blk.TAMPER 0x18 (v.toNat % 2 ^ 31))
include hup hn hd hu

/-- The first reason to refuse a self-test: no such source or one that is disabled; a running test; the other detector tripped. -/
theorem execTamperSelftest_cases : execTamperSelftest v s = .next (if v.getLsbD 31 = false then u
    else if n = 15 ∨ isSet s (F.TAMPER_RESP_DISABLED n) then setF u F.TAMPER_SELFTEST_ERR 1
    else if s.tamper.selfTest.isSome then setF u F.TAMPER_SELFTEST_ERR 2
    else if (if d = 0 then s.tamper.tripB.getLsbD n else s.tamper.tripA.getLsbD n) then setF u F.TAMPER_SELFTEST_ERR 3
    else
      let w := setF (setF u F.TAMPER_SELFTEST_ERR 0) F.TAMPER_SELFTEST_GO 1
      setF { w with tamper := { w.tamper with selfTest := some (n, d) } } F.TAMPER_STATUS_SELFTEST_BUSY 1) := by
  subst hn hd hu
  simp only [execTamperSelftest, whenGecko_of_up hup, Bool.not_eq_true']

theorem execTamperSelftest_without_go (hgo : v.getLsbD 31 = false) : execTamperSelftest v s = .next u := by
  rw [execTamperSelftest_cases hup hn hd hu, if_pos hgo]

variable (hgo : v.getLsbD 31 = true)
include hgo

theorem execTamperSelftest_no_source (hsource : n = 15 ∨ isSet s (F.TAMPER_RESP_DISABLED n) = true) :
    execTamperSelftest v s = .next (setF u F.TAMPER_SELFTEST_ERR 1) := by
  rw [execTamperSelftest_cases hup hn hd hu, if_neg (by simp [hgo]), if_pos hsource]

variable (hfifteen : n ≠ 15) (henabled : isSet s (F.TAMPER_RESP_DISABLED n) = false)
include hfifteen henabled

theorem execTamperSelftest_busy (hbusy : s.tamper.selfTest.isSome = true) : execTamperSelftest v s = .next (setF u F.TAMPER_SELFTEST_ERR 2) := by
  simp only [execTamperSelftest_cases hup hn hd hu, hgo, hfifteen, henabled, hbusy, Bool.true_eq_false, Bool.false_eq_true, or_self, if_false, if_true]

theorem execTamperSelftest_starts (hidle : s.tamper.selfTest = none)
    (hother : (if d = 0 then s.tamper.tripB.getLsbD n else s.tamper.tripA.getLsbD n) = false) :
    ∀ w, w = setF (setF u F.TAMPER_SELFTEST_ERR 0) F.TAMPER_SELFTEST_GO 1 → execTamperSelftest v s
      = .next (setF { w with tamper := { w.tamper with selfTest := some (n, d) } } F.TAMPER_STATUS_SELFTEST_BUSY 1) := by
  rintro _ rfl
  simp only [execTamperSelftest_cases hup hn hd hu, hgo, hfifteen, henabled, hidle, hother, Option.isSome_none, Bool.true_eq_false, Bool.false_eq_true,
    or_self, if_false]

end

/-- A test is over: DONE, and FAIL with a report unless the detector tripped and cleared. -/
theorem execTamperSelftestEnd_running {n d : Nat} {trips clears : Bool} (hrun : s.tamper.selfTest = some (n, d))
    (hu : u = setF (setF (setF { s with tamper := { s.tamper with selfTest := none } } F.TAMPER_STATUS_SELFTEST_BUSY 0) F.TAMPER_SELFTEST_GO 0)
      F.TAMPER_SELFTEST_DONE 1) :
    execTamperSelftestEnd trips clears s
      = .next (if trips && clears then u else faultReport (setF u F.TAMPER_SELFTEST_FAIL 1) 0x2F n d) := by
  subst hu
  simp only [execTamperSelftestEnd, hrun]

/-! ## Forced trips and the cell log (R470, R477) -/

theorem execTamperForce_allowed (hup : geckoUp s = true) (hlife : life s = 0 ∨ life s = 3) : execTamperForce k s
    = .next (tamperEvent s ((List.range 15).filter (fun n => k.getLsbD n && sourceLive s n && !tripped s n)) true) := by
  have hno : ¬ ((life s != 0) = true ∧ (life s != 3) = true) := by
    obtain h | h := hlife <;> simp [h]
  rw [execTamperForce, whenGecko_of_up hup, if_neg hno]

theorem execTamperForce_ignored (hup : geckoUp s = true) (hblank : life s ≠ 0) (hrma : life s ≠ 3) : execTamperForce k s = .next s := by
  rw [execTamperForce, whenGecko_of_up hup, if_pos ⟨bne_iff_ne.mpr hblank, bne_iff_ne.mpr hrma⟩]

theorem execTamperCelllogRead_pops {e : CellEntry} {l : List CellEntry} (hup : geckoUp s = true) (hlog : s.tamper.cellLog = e :: l) :
    ∀ u w, u = { s with tamper := { s.tamper with cellLog := l } } →
      w = setB (setF (setF (setB u F.TAMPER_STATUS_CELL_EVENTS (!l.isEmpty)) F.TAMPER_CELLLOG_VALID 1) F.TAMPER_CELLLOG_SECONDS e.seconds)
        F.TAMPER_CELLLOG_OVERFLOW e.overflow →
      execTamperCelllogRead s = .next (setF (setF (setF w F.TAMPER_CELLLOG_LOSTCNT e.lost) F.TAMPER_CELLLOG_EXECUTED e.executed)
        F.TAMPER_CELLLOG_SOURCES e.sources) := by
  rintro _ _ rfl rfl
  simp only [execTamperCelllogRead, whenGecko_of_up hup, hlog]

/-- Settles O46: events and clears, the two loops, the keyed commands with their KEY and with another, self-tests, forced trips and the cell log. The UNIT
and PART of the reports of a monitor and of a self-test are the model's choice (log entry 8). -/
theorem tamperCommandsComplete : Obligations.TamperCommandsComplete := by
  unfold Obligations.TamperCommandsComplete
  simp only [exec_tamperEvent, exec_tamperSourceClear, exec_monitorDisagree, exec_loop0Measurement, exec_loop1Code, exec_zall, exec_bkgen, exec_zdone,
    exec_unlock, exec_cfgLock, exec_tamperSelftest, exec_tamperSelftestEnd, exec_tamperForce, exec_tamperCelllogRead]
  refine ⟨?event, ?clear, ?disagree, ?loop0, ?loop1, ?zall, ?bkgen, ?zdone, ?keys, ?selftest, ?selftestEnd, ?force, ?cellLog⟩
  case event => exact fun _ _ _ => ⟨_, _, rfl, rfl, rfl⟩
  case clear =>
    rintro n s _ rfl
    rfl
  case disagree => exact fun _ _ _ hlive halone hu hup => execMonitorDisagree_live hlive halone hu hup
  case loop0 =>
    intro r s hlive
    refine ⟨execLoop0Measurement_good hlive, fun hbad hfirst => ?_, fun hbad hagain => ?_⟩
    · rw [execLoop0Measurement_bad hlive hbad, hfirst]
      rfl
    · rw [execLoop0Measurement_bad hlive hbad, judgeLoop_again 7 (by omega), Nat.min_eq_left (by omega)]
  case loop1 =>
    intro c s hlive hcode
    refine ⟨execLoop1Code_good hlive hcode, fun hfirst => ?_, fun hagain => ?_⟩
    · rw [execLoop1Code_late hlive, hfirst]
      rfl
    · rw [execLoop1Code_late hlive, judgeLoop_again 8 (by omega), Nat.min_eq_left (by omega)]
  case zall =>
    intro s hup hdone hlife
    exact ⟨_, rfl, (tamperKeyed_of_up hup).trans (congrArg _ (requestZall_starts hdone hlife _ rfl))⟩
  case bkgen => exact fun _ _ _ hup hnone hdraw => (tamperKeyed_of_up hup).trans (congrArg _ (makeBk_draws hnone hdraw))
  case zdone =>
    intro s u hup hpend hu
    rw [execZdone, tamperKeyed_of_up hup, zdone_pending hpend hu]
    exact ⟨fun hbk => by rw [if_pos hbk], fun hbk => by rw [hbk]; rfl⟩
  case keys =>
    intro s hup
    refine ⟨whenGecko_of_up hup, fun hdone => ?unlock, fun hpend => ⟨?waits, ?zalled⟩, fun k hkey => ?other⟩
    case unlock => rw [execUnlock, tamperKeyed_of_up hup, if_neg (Bool.eq_false_iff.mp hdone)]
    case waits => rw [execUnlock, tamperKeyed_of_up hup, if_pos hpend]
    case zalled => rw [execZall, tamperKeyed_of_up hup, requestZall_ignored hpend]
    case other =>
      have hother {t : State} : tamperKeyed k s t = .next s := tamperKeyed_of_other hup hkey
      exact ⟨hother, hother, hother, hother⟩
  case selftest =>
    exact fun _ _ _ _ _ hup hn hd hu => ⟨execTamperSelftest_without_go hup hn hd hu, execTamperSelftest_no_source hup hn hd hu,
      execTamperSelftest_busy hup hn hd hu,
      fun hgo hfifteen henabled hidle hother => ⟨_, rfl, execTamperSelftest_starts hup hn hd hu hgo hfifteen henabled hidle hother _ rfl⟩⟩
  case selftestEnd =>
    intro s u n d hrun hu
    refine ⟨execTamperSelftestEnd_running hrun hu, fun t => ?_⟩
    rw [execTamperSelftestEnd_running hrun hu, Bool.and_false]
    rfl
  case force => exact fun _ _ hup => ⟨execTamperForce_allowed hup, execTamperForce_ignored hup⟩
  case cellLog => exact fun _ _ _ hup hlog => ⟨_, _, rfl, rfl, execTamperCelllogRead_pops hup hlog _ _ rfl rfl⟩

end Sys2Proof.Machine
end

section
/-!
The fault collector and repair. Reports, safe state and its exits, late routes, keyed and forced writes, and the repair of rows and lanes (O47).
-/
namespace Sys2Proof.Machine

variable {s t u : State}

/-! ## Safe state (R483, R486–R488) -/

theorem execSafeStateCut_due (hsafe : inSafe s = true) (hdue : s.fc.cutPending = true) :
    execSafeStateCut s = .next (cutRoutes { s with fc := { s.fc with cutPending := false } } (fun _ => true)) := by
  simp only [execSafeStateCut, hsafe, hdue, and_self, if_true]

section

variable {c : Bool} (hsafe : inSafe s = true) (hquiet : isSet s F.FCOLL_STATUS_QUIET = true)
include hsafe hquiet

/-- At the end of a quiet period HOLD only holds. -/
theorem execQuietPeriodExpiry_hold (hhold : getF s F.FCOLL_STATUS_EXIT = 3) :
    execQuietPeriodExpiry c s = .next (setF (setF s F.FCOLL_STATUS_QUIET 0) F.FCOLL_STATUS_HOLD 1) := by
  simp only [execQuietPeriodExpiry, hsafe, hquiet, hhold, Bool.not_true, Bool.false_eq_true, or_self, if_false, if_true]

section

variable (hexit : getF s F.FCOLL_STATUS_EXIT ≠ 3)
include hexit

/-- While a condition stands the collector holds. -/
theorem execQuietPeriodExpiry_stands (hstands : c = false ∨ (s.fc.conds.contains 0x26 = true ∧ getF s F.RNG_STALLED_INST ≠ 0)) :
    execQuietPeriodExpiry c s = .next (setF s F.FCOLL_STATUS_HOLD 1) := by
  have hno : (!(c && (!s.fc.conds.contains 0x26 || getF s F.RNG_STALLED_INST = 0))) = true := by
    obtain rfl | ⟨hstall, hinst⟩ := hstands
    · rfl
    · rw [hstall, decide_eq_false hinst]
      cases c <;> rfl
  simp only [execQuietPeriodExpiry, hsafe, hquiet, hexit, hno, Bool.not_true, Bool.false_eq_true, or_self, if_false, if_true]

/-- With the conditions clear and no exit withheld it exits, or withholds the exit at the limit. -/
theorem execQuietPeriodExpiry_cleared (hc : c = true) (hrng : s.fc.conds.contains 0x26 = false) (hfree : s.fc.withheld = false) :
    ∀ u, u = setF (setF { s with fc := { s.fc with withheld := true } } F.FCOLL_STATUS_HOLD 1) F.FCOLL_STATUS_LIMIT 1 →
      execQuietPeriodExpiry c s
        = .next (if exitLimit s then occur u 0x30C 0 0 (getF u F.FCOLL_RECOV_COUNT) else exitSafe (setF s F.FCOLL_STATUS_HOLD 0)) := by
  rintro _ rfl
  subst hc
  simp only [execQuietPeriodExpiry, hsafe, hquiet, hexit, hrng, hfree, Bool.not_true, Bool.not_false, Bool.true_or, Bool.and_self,
    Bool.false_eq_true, or_self, if_false]

end

end

/-! ## Late routes (R493) -/

/-- The watchdog restarts a late route on another tile and reports the one it ran on. -/
theorem execRouteTimeout_late {tag ran unit tile : Nat} {e : TagEntry} {r : RouteAt} {p : Part} (htag : findTag s tag = some e)
    (hroute : e.route = some r) (hruns : running e = true) (hlate : 4 * r.time * 1000 < ran * getF s F.LSENSE_PACE_PACE_MIN)
    (hp : p = { cls := r.cls, unit := r.unit, idx := r.tile }) (hother : otherPart s p unit tile = true) (hcls : r.cls = 1 ∨ r.cls = 2) :
    execRouteTimeout ⟨tag, ran⟩ unit tile s
      = .next (faultReport (restartRoute s p tag unit tile) 0x04 (if r.cls = 1 then r.unit else 16 + r.unit) r.tile) := by
  subst hp
  have hgoes : (running e && (decide (r.cls = 1) || decide (r.cls = 2)) && routeLate s r ran
      && otherPart s { cls := r.cls, unit := r.unit, idx := r.tile } unit tile) = true := by
    rw [hruns, hother, routeLate, decide_eq_true hlate]
    obtain hcls | hcls := hcls <;> simp [hcls]
  simp only [execRouteTimeout, htag, hroute, hgoes, if_true]

/-! ## Keyed and forced writes (R487–R490) -/

theorem fcollKeyed_of_up (hup : geckoUp s = true) : fcollKeyed 0x4643 s t = .next t := by
  rw [fcollKeyed, whenGecko_of_up hup, if_pos rfl]

theorem fcollKeyed_of_other {k : BitVec 16} (hup : geckoUp s = true) (hkey : k ≠ 0x4643) : fcollKeyed k s t = .next s := by
  rw [fcollKeyed, whenGecko_of_up hup, if_neg hkey]

theorem execExit_leaves (hup : geckoUp s = true) (hsafe : inSafe s = true) (hasked : s.fc.rebuildAsked = false)
    (hkind : getF s F.FCOLL_STATUS_EXIT ≠ 3) (hbuild : getF s F.FCOLL_STATUS_SAFE_CODE ≠ 0x22) (hfw : getF s F.FCOLL_STATUS_SAFE_CODE ≠ 0x23) :
    execExit 0x4643 s = .next (exitSafe s) := by
  simp only [execExit, fcollKeyed_of_up hup, hsafe, hasked, hkind, hbuild, hfw, Bool.not_true, Bool.false_eq_true, or_self, if_false]

theorem execExit_refused (hup : geckoUp s = true)
    (h : getF s F.FCOLL_STATUS_EXIT = 3 ∨ getF s F.FCOLL_STATUS_SAFE_CODE = 0x22 ∨ getF s F.FCOLL_STATUS_SAFE_CODE = 0x23) :
    execExit 0x4643 s = .next s := by
  simp only [execExit, fcollKeyed_of_up hup, h, or_true, if_true]

section

variable {v : W32} {c a b : Nat} (hup : geckoUp s = true) (hc : c = F.FCOLL_FORCE_CODE.ofWord v.toNat) (ha : a = F.FCOLL_FORCE_UNIT.ofWord v.toNat)
  (hb : b = F.FCOLL_FORCE_PART.ofWord v.toNat) (hu : u = setF (setF (setF s F.FCOLL_FORCE_CODE c) F.FCOLL_FORCE_UNIT a) F.FCOLL_FORCE_PART b)
include hup hc ha hb hu

theorem execFcollForce_without_go (hgo : v.getLsbD 31 = false) : execFcollForce v s = .next u := by
  subst hc ha hb hu
  simp only [execFcollForce, whenGecko_of_up hup, hgo, Bool.not_false, if_true]

variable (hgo : v.getLsbD 31 = true)
include hgo

/-- A fatal code is not forced in a part that serves. -/
theorem execFcollForce_fatal (hfatal : faultClass c = 2) (hblank : life s ≠ 0) (hrma : life s ≠ 3) : execFcollForce v s = .next u := by
  subst hc ha hb hu
  simp only [execFcollForce, whenGecko_of_up hup, hgo, hfatal, bne_iff_ne.mpr hblank, bne_iff_ne.mpr hrma, Bool.not_true, Bool.false_eq_true,
    and_self, if_false, if_true]

theorem execFcollForce_reports (h : faultClass c ≠ 2 ∨ life s = 0 ∨ life s = 3) : execFcollForce v s = .next (report u c a b true) := by
  subst hc ha hb hu
  have hmay : ¬ (faultClass (F.FCOLL_FORCE_CODE.ofWord v.toNat) = 2 ∧ (life s != 0) = true ∧ (life s != 3) = true) := by
    rintro ⟨hfatal, hblank, hrma⟩
    obtain h | h | h := h
    · exact h hfatal
    · exact bne_iff_ne.mp hblank h
    · exact bne_iff_ne.mp hrma h
  simp only [execFcollForce, whenGecko_of_up hup, hgo, hmay, Bool.not_true, Bool.false_eq_true, if_false]

end

/-! ## Repair (R495, R496, R498) -/

section

variable {k : Fin 4} {p : Fin 32} {row : Nat} {l : List Nat} (hup : geckoUp s = true)
  (hfailing : rowFailing s k.val (p.val * 2 ^ 32 + row) = true)
include hup hfailing

theorem execHbmRowRepair_without_spare : execHbmRowRepair k p row false l s = .next (requestRetire s 4 k.val p.val 0x10) := by
  simp only [execHbmRowRepair, hup, hfailing, Bool.not_true, Bool.not_false, Bool.false_eq_true, or_self, if_false, if_true]

/-- A repaired row is tracked no longer, and its lines that could not be corrected come back poisoned. -/
theorem execHbmRowRepair_repairs :
    ∀ u, u = { s with fc := { s.fc with rows := s.fc.rows.filter (fun e => !(e.1 = k.val && e.2.1 = p.val * 2 ^ 32 + row)) } } →
      execHbmRowRepair k p row true l s = .next (poisonCount { u with hbm := { u.hbm with
        poison := (l.filter (fun n => physPc u k.val (linePos n).1 = p.val)).foldl (fun m n => mapPut m (lineKey k.val n) true) u.hbm.poison } }) := by
  rintro _ rfl
  simp only [execHbmRowRepair, hup, hfailing, Bool.not_true, Bool.false_eq_true, or_self, if_false]

end

/-- A lane event on a drawbar that is up, by what the lane is: a main lane that fails too often is swapped while a spare is healthy, else T09 trips;
a spare is marked bad while the training patterns run. -/
theorem execDrawbarLaneSwap_cases {d : Fin 2} {n : Fin 36} {e : Nat} {m : LaneMap} (hup : geckoUp s = true) (hdrawbar : s.drawbar.up = true)
    (hm : m = laneMap s d.val) : execDrawbarLaneSwap d n e s = .next (
      if m.lane.contains n.val then
        if e < getF s F.FCOLL_LANETHR_LIMIT then s
        else if (healthySpare m).isSome then fieldRepair (setLaneMap s d.val (swapLane m n.val)) 6 d.val n.val
        else tamperTrip (setLaneMap s d.val (swapLane m n.val)) 9
      else if !s.drawbar.patterns then s
      else setLaneMap s d.val { m with bad := if m.bad.contains n.val then m.bad else m.bad ++ [n.val] }) := by
  subst hm
  simp only [execDrawbarLaneSwap, hup, hdrawbar, Bool.not_true, Bool.false_eq_true, or_self, if_false]

/-- Settles O47: reports, the cut, the end of a quiet period, the heartbeat, late routes, the keyed commands, forced reports, rows and lanes. -/
theorem faultAndRepairCommandsComplete : Obligations.FaultAndRepairCommandsComplete := by
  unfold Obligations.FaultAndRepairCommandsComplete
  simp only [exec_faultReport, exec_safeStateCut, exec_quietPeriodExpiry, exec_fcollHeartbeatLoss, exec_routeTimeout, exec_retireAck, exec_rclr,
    exec_exit, exec_fcollForce, exec_hbmRowRepair, exec_drawbarLaneSwap]
  refine ⟨?report, ?cut, ?quiet, ?heartbeat, ?late, ?keyed, ?force, ?row, ?lane⟩
  case report =>
    intro r s hup
    rw [execFaultReport, whenGecko_of_up hup]
    exact ⟨fun hgood => by rw [if_pos hgood], fun hbad => by rw [hbad]; rfl⟩
  case cut => exact fun _ hsafe hdue => execSafeStateCut_due hsafe hdue
  case quiet =>
    intro c s hsafe hquiet
    refine ⟨execQuietPeriodExpiry_hold hsafe hquiet, execQuietPeriodExpiry_stands hsafe hquiet, ?exits, ?limit⟩
    case exits =>
      intro hexit hc hrng hfree hlimit
      rw [execQuietPeriodExpiry_cleared hsafe hquiet hexit hc hrng hfree _ rfl, hlimit]
      rfl
    case limit =>
      intro hexit hc hrng hfree hlimit
      exact ⟨_, rfl, by rw [execQuietPeriodExpiry_cleared hsafe hquiet hexit hc hrng hfree _ rfl, if_pos hlimit]⟩
  case heartbeat => exact fun _ hup => whenGecko_of_up hup
  case late =>
    intro tag unit tile ran s t r p htag hroute hruns hlate hp hother
    refine ⟨fun hcls => ?_, fun hcls => ?_⟩
    · rw [execRouteTimeout_late htag hroute hruns hlate hp hother (.inl hcls), if_pos hcls]
    · rw [execRouteTimeout_late htag hroute hruns hlate hp hother (.inr hcls), if_neg (by omega)]
  case keyed =>
    intro s hup
    refine ⟨fun hvalid => ?ack, fcollKeyed_of_up hup, execExit_leaves hup, execExit_refused hup, fun k hkey => ?other⟩
    case ack => rw [execRetireAck, fcollKeyed_of_up hup, if_pos hvalid]
    case other => exact ⟨fcollKeyed_of_other hup hkey, fcollKeyed_of_other hup hkey, fcollKeyed_of_other hup hkey⟩
  case force =>
    exact fun _ _ _ _ _ _ hup hc ha hb hu =>
      ⟨execFcollForce_without_go hup hc ha hb hu, execFcollForce_fatal hup hc ha hb hu, execFcollForce_reports hup hc ha hb hu⟩
  case row =>
    exact fun _ _ _ _ _ hup hfailing => ⟨execHbmRowRepair_without_spare hup hfailing, _, rfl, execHbmRowRepair_repairs hup hfailing _ rfl⟩
  case lane =>
    intro d n e s m hup hdrawbar hm
    rw [execDrawbarLaneSwap_cases hup hdrawbar hm]
    refine ⟨?swapped, ?trips, ?few, ?idle, ?marked⟩
    case swapped => exact fun hmain hfails hspare => by rw [if_pos hmain, if_neg (Nat.not_lt.mpr hfails), if_pos hspare]
    case trips => exact fun hmain hfails hnone => by rw [if_pos hmain, if_neg (Nat.not_lt.mpr hfails), hnone]; rfl
    case few => exact fun hmain hfew => by rw [if_pos hmain, if_pos hfew]
    case idle => exact fun hspare hidle => by rw [hspare, hidle]; rfl
    case marked => exact fun hspare htrains => by rw [hspare, htrains]; rfl

end Sys2Proof.Machine
end

section
/-!
The event recorder and TIMEKEEP. Batches, firmware events, seconds and RTC (O48).
-/
namespace Sys2Proof.Machine

variable {s u : State} {q : Nat}

/-! ## Batches (R506, R508, R509) -/

section

variable (hup : geckoUp s = true) (hq : q = getF s F.EVREC_HEAD_SEQ + 1)
include hup hq

/-- A batch that may be programmed goes into flash under the next number, and HEAD and OLDEST follow. -/
theorem execBatchProgram_programs (hstaged : s.ev.staging ≠ []) (hidle : s.flash.run = none)
    (hfree : isSet s F.EVREC_CTRL_FREEZE = false ∨ batchErases s q = false) : execBatchProgram s = .next (programBatch s) := by
  subst hq
  have hgoes : ¬ (isSet s F.EVREC_CTRL_FREEZE = true ∧ batchErases s (nextBatch s) = true) := by
    rintro ⟨hfreeze, herases⟩
    obtain h | h := hfree
    · exact Bool.eq_false_iff.mp h hfreeze
    · exact Bool.eq_false_iff.mp h herases
  simp only [execBatchProgram, whenGecko_of_up hup, hidle, List.isEmpty_iff, hstaged, hgoes, Option.isSome_none, Bool.false_eq_true, or_self,
    if_false]

/-- A batch waits behind a flash operation, and under FREEZE where it would need an erase. -/
theorem execBatchProgram_waits (hwaits : s.flash.run.isSome = true ∨ (isSet s F.EVREC_CTRL_FREEZE = true ∧ batchErases s q = true)) :
    execBatchProgram s = .next s := by
  subst hq
  rw [execBatchProgram, whenGecko_of_up hup, if_pos (.inr hwaits)]

end

/-! ## Firmware events (R510) -/

section

variable {v : W32} {c : Nat} (hup : geckoUp s = true) (hc : c = F.EVREC_SW_CODE.ofWord v.toNat)
include hup hc

theorem execEvrecSw_firmware (hlow : 0x400 ≤ c) (hhigh : c ≤ 0x4FF) : execEvrecSw v s
    = .next (occur s c (F.EVREC_SW_UNIT.ofWord v.toNat) (F.EVREC_SW_PART.ofWord v.toNat) (getF s F.EVREC_SWDET_DETAIL)) := by
  subst hc
  simp only [execEvrecSw, whenGecko_of_up hup, hlow, hhigh, and_self, if_true]

theorem execEvrecSw_other (hother : c < 0x400 ∨ 0x4FF < c) : execEvrecSw v s = .next s := by
  subst hc
  rw [execEvrecSw, whenGecko_of_up hup, if_neg (by omega)]

end

/-! ## TIMEKEEP (R512) -/

/-- A second counts RTC while its crystal runs, and OPTIME while main power is good. -/
theorem execTimekeepSecond_of_cellUp (hup : cellUp s = true) : execTimekeepSecond s
    = .next (if (rtcTick s).power.mainGood then bump (rtcTick s) F.TIMEKEEP_OPTIME_COUNT F.TIMEKEEP_OPTIME_SAT else rtcTick s) := by
  rw [execTimekeepSecond, if_pos hup]

/-- Settles O48: merge windows, batches, EVREC_SW, FREEZE, seconds, RTC and the crystal. RTC wraps at 2^32 − 1 (log entry 10) and a batch's erase
programs its intent (log entry 97) by the model's choice. -/
theorem eventRecorderCommandsComplete : Obligations.EventRecorderCommandsComplete := by
  unfold Obligations.EventRecorderCommandsComplete
  simp only [exec_mergeWindowExpiry, exec_batchProgram, exec_evrecSw, exec_evrecFreeze, exec_timekeepSecond, exec_rtcSet, exec_oscFail]
  refine ⟨?window, ?batch, ?firmware, ?freeze, ?second, ?rtc, ?crystal⟩
  case window => exact fun _ hup => whenGecko_of_up hup
  case batch =>
    intro s q hup hstaged hq
    refine ⟨fun hidle hfree => ⟨_, _, _, _, rfl, rfl, rfl, rfl, ?_⟩, execBatchProgram_waits hup hq⟩
    rw [execBatchProgram_programs hup hq hstaged hidle hfree, programBatch, nextBatch, ← hq]
    rfl
  case firmware => exact fun _ _ _ hup hc => ⟨execEvrecSw_firmware hup hc, execEvrecSw_other hup hc⟩
  case freeze => exact fun _ _ hup => whenGecko_of_up hup
  case second =>
    intro s u hup hu
    have hu : rtcTick s = u := hu.symm
    rw [execTimekeepSecond_of_cellUp hup, hu]
    exact ⟨fun hgood => by rw [if_pos hgood], fun hbad => by rw [hbad]; rfl⟩
  case rtc => exact fun _ _ hup => whenGecko_of_up hup
  case crystal => exact fun _ hup => by rw [execOscFail, if_pos hup]

end Sys2Proof.Machine
end

section
/-!
The power arbiter. Grants, the cap, the throttle stage and the switchable domains (O17).
-/
namespace Sys2Proof.Machine

variable {s u : State}

/-! ## Temperature (R528–R530) -/

section

variable {la : List (Fin 50 × BitVec 8)} {ge hs : List (BitVec 8)} {dom tj : Nat} (hup : geckoUp s = true)
  (hhot : hottest ((junctions la ge).filter (fun r => sensed s r.1)) = (dom, tj))
  (hu : u = setF (setF (setF s F.PWRARB_TEMP_TJ_MAX tj) F.PWRARB_TEMP_TJ_DOMAIN dom) F.PWRARB_TEMP_HBM_MAX (hottestStack hs))
include hup hhot hu

theorem execThermalReading_sets_stage (hfree : isSet s F.PWRARB_STATUS_MODE_BUSY = false) : execThermalReading la ge hs s
    = .next (setStage { u with arb := { u.arb with cool := [1, 2, 3].map (stageLeft s tj (hottestStack hs)) } }
        (stageOf ([1, 2, 3].map (stageLeft s tj (hottestStack hs))))) := by
  subst hu
  simp only [execThermalReading, hhot, whenGecko_of_up hup, hfree, Bool.false_eq_true, if_false]

/-- During a mode change the stage waits for its end. -/
theorem execThermalReading_keeps_stage (hbusy : isSet s F.PWRARB_STATUS_MODE_BUSY = true) : execThermalReading la ge hs s
    = .next { u with arb := { u.arb with cool := [1, 2, 3].map (stageLeft s tj (hottestStack hs)),
                                         stageDue := some (stageOf ([1, 2, 3].map (stageLeft s tj (hottestStack hs)))) } } := by
  subst hu
  simp only [execThermalReading, hhot, whenGecko_of_up hup, hbusy, if_true]

end

/-! ## Domains (R524) -/

section

variable {v : W32}

theorem execPwrarbDomctrl_other_key (hkey : v.toNat / 65536 ≠ 0x5044) : execPwrarbDomctrl v s = .next s := by
  simp only [execPwrarbDomctrl, whenGecko, bne_iff_ne, ne_eq, hkey, not_false_eq_true, if_true, ite_self]

variable (hup : geckoUp s = true) (hkey : v.toNat / 65536 = 0x5044)
include hup hkey

/-- What a write with its KEY does: ERR 1 where the domain may not be switched, ERR 2 where its block is busy, and else the switch. -/
theorem execPwrarbDomctrl_keyed : execPwrarbDomctrl v s = .next (
    if switchable (v.toNat % 128) = false ∨ (v.toNat % 128 = 61 ∧ landauUp s = true) then setF s F.PWRARB_DOMCTRL_ERR 1
    else if domainBusy s (v.toNat % 128) then setF s F.PWRARB_DOMCTRL_ERR 2
    else switchDomain (setF s F.PWRARB_DOMCTRL_ERR 0) (v.toNat % 128) (v.getLsbD 15)) := by
  simp only [execPwrarbDomctrl, whenGecko_of_up hup, hkey, bne_self_eq_false, Bool.false_eq_true, if_false, Bool.or_eq_true, Bool.and_eq_true,
    Bool.not_eq_true', decide_eq_true_eq]

end

/-- Settles O17: grants and their loss, the cap, the temperature and the switchable domains. Of equal junctions the lowest-numbered domain is
published (log entry 100), and the demands beyond running routes, a negative pool and the 100 readings that leave a stage are the model's choice
(log entry 65). -/
theorem powerArbiterCommandsComplete : Obligations.PowerArbiterCommandsComplete := by
  unfold Obligations.PowerArbiterCommandsComplete
  simp only [exec_grantCycle, exec_grantRefreshLoss, exec_powerWindow, exec_thermalReading, exec_pwrarbDomctrl]
  refine ⟨?grants, ?loss, ?window, ?stage, ?stageLater, ?switches, ?refused, ?otherKey⟩
  case grants => exact fun l s hup => by rw [execGrantCycle, whenLandau_of_up hup]
  case loss => exact fun d s hup hpool => by rw [execGrantRefreshLoss, whenLandau_of_up hup, if_pos hpool]
  case window =>
    intro p s hup hsection
    rw [execPowerWindow, whenGecko_of_up hup, hsection, if_neg Bool.false_ne_true, ite_apply]
  case stage => exact fun _ _ _ _ _ _ hup hfree hhot => ⟨_, rfl, execThermalReading_sets_stage hup hhot rfl hfree⟩
  case stageLater => exact fun _ _ _ _ _ _ hup hbusy hhot => ⟨_, rfl, execThermalReading_keeps_stage hup hhot rfl hbusy⟩
  case switches =>
    intro v s hup hkey hmay hdown hidle
    have hallowed : ¬ (switchable (v.toNat % 128) = false ∨ (v.toNat % 128 = 61 ∧ landauUp s = true)) := by
      rintro (hnot | ⟨hpke, hlandau⟩)
      · exact Bool.eq_false_iff.mp hnot hmay
      · exact Bool.eq_false_iff.mp (hdown hpke) hlandau
    rw [execPwrarbDomctrl_keyed hup hkey, if_neg hallowed, hidle]
    rfl
  case refused => exact fun v s hup hkey hnot => by rw [execPwrarbDomctrl_keyed hup hkey, if_pos hnot]
  case otherKey => exact fun _ _ hkey => execPwrarbDomctrl_other_key hkey

end Sys2Proof.Machine
end

section
/-!
The contact ports. Commands of a powered port, their ends, the data register, what the card does, and the end of a quorum session (O49).
-/
namespace Sys2Proof.Machine

variable {s t u : State}

/-! ## Commands of a port (R532–R534) -/

section

variable {p : Nat} (hup : geckoUp s = true) (hon : domainOn s (64 + p) = true)
include hup hon

theorem withPort_of_on : withPort s p t = .next t := by
  rw [withPort, if_pos ⟨hup, hon⟩]

variable {n : Nat} {states : List Nat} {go : State → State}

theorem cardCmd_busy (hbusy : (cardOf s p).cmd.isSome = true) : cardCmd p n states go s = .next (cardDone s p 7) := by
  rw [cardCmd, withPort_of_on hup hon, if_pos hbusy]

theorem cardCmd_state (hidle : (cardOf s p).cmd = none) (hstate : getF s (F.CARD_STATUS_STATE p) ∉ states) :
    cardCmd p n states go s = .next (cardDone s p 8) := by
  simp only [cardCmd, withPort_of_on hup hon, hidle, hstate, decide_false, Bool.not_false, Option.isSome_none, Bool.false_eq_true,
    if_false, if_true, List.contains_eq_mem]

theorem cardCmd_starts (hidle : (cardOf s p).cmd = none) (hstate : getF s (F.CARD_STATUS_STATE p) ∈ states) :
    cardCmd p n states go s = .next (go (cardStart s p n)) := by
  simp only [cardCmd, withPort_of_on hup hon, hidle, hstate, decide_true, Bool.not_true, Option.isSome_none, Bool.false_eq_true, if_false,
    List.contains_eq_mem]

end

/-! ## EXCHANGE (R534) -/

section

variable {p : Fin 2} (hup : geckoUp s = true) (hon : domainOn s (64 + p.val) = true)
include hup hon

theorem execExchange_busy (hbusy : (cardOf s p.val).cmd.isSome = true) : execExchange p s = .next (cardDone s p.val 7) := by
  obtain ⟨c, hc⟩ := Option.isSome_iff_exists.mp hbusy
  simp only [execExchange, hc, Option.isNone_some, Bool.false_and, Bool.false_eq_true, if_false]
  exact cardCmd_busy hup hon hbusy

theorem execExchange_state (hidle : (cardOf s p.val).cmd = none) (hstate : getF s (F.CARD_STATUS_STATE p.val) ≠ 2) :
    execExchange p s = .next (cardDone s p.val 8) := by
  simp only [execExchange, hstate, decide_false, Bool.and_false, Bool.false_and, Bool.false_eq_true, if_false]
  exact cardCmd_state hup hon hidle (by simpa using hstate)

variable (hidle : (cardOf s p.val).cmd = none) (hactive : getF s (F.CARD_STATUS_STATE p.val) = 2)
include hidle hactive

theorem execExchange_length (hlength : getF s (F.CARD_TXLEN_LEN p.val) < 4 ∨ 261 < getF s (F.CARD_TXLEN_LEN p.val)) :
    execExchange p s = .next (cardDone s p.val 9) := by
  simp only [execExchange, hidle, hactive, hlength, Option.isNone_none, decide_true, Bool.and_self, if_true, withPort_of_on hup hon,
    ← Bool.decide_or]

/-- The APDU is taken from what was pushed, which must hold TXLEN bytes. -/
theorem execExchange_takes {n : Nat} {k : CardPort} (hlow : 4 ≤ getF s (F.CARD_TXLEN_LEN p.val)) (hhigh : getF s (F.CARD_TXLEN_LEN p.val) ≤ 261)
    (hu : u = cardStart s p.val 2) (hn : n = getF u (F.CARD_TXLEN_LEN p.val)) (hk : k = cardOf u p.val) (hpushed : n ≤ k.tx.length) :
    execExchange p s = .next (setF (setCard u p.val { k with tx := [], rx := [], apdu := k.tx.take n }) (F.CARD_RESULT_RXLEN p.val) 0) := by
  have hlength : ¬ (getF s (F.CARD_TXLEN_LEN p.val) < 4 ∨ 261 < getF s (F.CARD_TXLEN_LEN p.val)) := by omega
  subst hu hn hk
  simp only [execExchange, hlength, ← Bool.decide_or, decide_false, Bool.and_false, Bool.false_eq_true, if_false]
  rw [cardCmd_starts hup hon hidle (by simp [hactive]), takeApdu, if_neg (Nat.not_lt.mpr hpushed)]
  simp only [List.append_nil]

end

/-! ## The end of a command (R532–R534) -/

section

variable {p : Fin 2} {e : CardEnd} (hup : geckoUp s = true) (hon : domainOn s (64 + p.val) = true)
  (herr : cardErrOk e.err.val = true) (hu : u = setF (setCard s p.val { cardOf s p.val with cmd := none }) (F.CARD_STATUS_BUSY p.val) 0)
include hup hon herr hu

theorem execCardOperationEnd_deactivates (hcmd : (cardOf s p.val).cmd = some 3) :
    execCardOperationEnd p e s = .next (cardDone (cardOff u p.val 1) p.val 0) := by
  subst hu
  simp only [execCardOperationEnd, withPort_of_on hup hon, herr, hcmd, Bool.not_true, Bool.false_eq_true, if_false]

theorem execCardOperationEnd_exchanges (hcmd : (cardOf s p.val).cmd = some 2) :
    execCardOperationEnd p e s = .next (cardDone (exchanged u p.val e) p.val e.err.val) := by
  subst hu
  simp only [execCardOperationEnd, withPort_of_on hup hon, herr, hcmd, Bool.not_true, Bool.false_eq_true, if_false]

/-- An activation and a warm reset end alike. -/
theorem execCardOperationEnd_activates (hcmd : (cardOf s p.val).cmd = some 1 ∨ (cardOf s p.val).cmd = some 4) :
    execCardOperationEnd p e s = .next (cardDone (activated u p.val e) p.val e.err.val) := by
  subst hu
  obtain hcmd | hcmd := hcmd <;>
    simp only [execCardOperationEnd, withPort_of_on hup hon, herr, hcmd, Bool.not_true, Bool.false_eq_true, if_false]

omit hu in
theorem execCardOperationEnd_idle (hcmd : (cardOf s p.val).cmd = none) : execCardOperationEnd p e s = .next s := by
  simp only [execCardOperationEnd, withPort_of_on hup hon, herr, hcmd, Bool.not_true, Bool.false_eq_true, if_false]

end

/-! ## Sessions (R541) -/

theorem execQuorumSessionExpiry_of_session {x : Session} (hsession : s.quorum.session = some x) : execQuorumSessionExpiry s
    = .next (if x.opened + max 60 (getF s (F.CARD_QTIME_SECONDS 0)) ≤ optime s then cancelSession s else s) := by
  simp only [execQuorumSessionExpiry, hsession]

/-- Settles O49: the commands of a powered port and their ends, the data register, insertion, removal, overcurrent, and the end of a session.
ACTIVATE from FAULT, FAULT after an overcurrent and the DONE of a refused command are the model's choice (log entry 66). -/
theorem cardPortCommandsComplete : Obligations.CardPortCommandsComplete := by
  unfold Obligations.CardPortCommandsComplete
  simp only [exec_activate, exec_deactivate, exec_warmReset, exec_exchange, exec_cardDataAccess, exec_cardOperationEnd, exec_cardInsertion,
    exec_cardRemoval, exec_cardOvercurrent, exec_quorumSessionExpiry, List.forall_mem_cons]
  refine ⟨?commands, ?data, ?ends, ?insertion, ?removal, ?overcurrent, ?session⟩
  case commands =>
    intro p s hup hon
    refine ⟨fun hbusy => ?busy, fun hidle => ⟨fun hoff => ?activates, fun hactive => ?active, fun hstate => ?state,
      fun hactive hlength => ?length, fun u n k hactive hlow hhigh hu hn hk hpushed => ?takes⟩⟩
    case busy =>
      exact ⟨cardCmd_busy hup hon hbusy, cardCmd_busy hup hon hbusy, cardCmd_busy hup hon hbusy, execExchange_busy hup hon hbusy,
        fun _ h => absurd h List.not_mem_nil⟩
    case activates => exact cardCmd_starts hup hon hidle (by simpa using hoff)
    case active =>
      have hmem : getF s (F.CARD_STATUS_STATE p.val) ∈ [2] := by rw [hactive]; decide
      exact ⟨cardCmd_starts hup hon hidle hmem, cardCmd_starts hup hon hidle hmem, cardCmd_state hup hon hidle (by rw [hactive]; decide)⟩
    case state =>
      have hmem : getF s (F.CARD_STATUS_STATE p.val) ∉ [2] := by simpa using hstate
      exact ⟨cardCmd_state hup hon hidle hmem, cardCmd_state hup hon hidle hmem, execExchange_state hup hon hidle hstate,
        fun _ h => absurd h List.not_mem_nil⟩
    case length => exact execExchange_length hup hon hidle hactive hlength
    case takes => exact execExchange_takes hup hon hidle hactive hlow hhigh hu hn hk hpushed
  case data =>
    rintro p s _ hup hon rfl
    exact ⟨fun _ => withPort_of_on hup hon, withPort_of_on hup hon⟩
  case ends =>
    exact fun _ _ _ _ hup hon herr hu =>
      ⟨execCardOperationEnd_deactivates hup hon herr hu, execCardOperationEnd_exchanges hup hon herr hu,
        execCardOperationEnd_activates hup hon herr hu, execCardOperationEnd_idle hup hon herr⟩
  case insertion =>
    intro p s hup hon habsent
    rw [execCardInsertion, withPort_of_on hup hon, habsent]
    rfl
  case removal =>
    intro p s hup hon hpresent
    refine ⟨_, rfl, ?_⟩
    rw [execCardRemoval, withPort_of_on hup hon, hpresent]
    rfl
  case overcurrent => exact fun p s hup hon hdraws => by rw [execCardOvercurrent, withPort_of_on hup hon, if_pos hdraws]
  case session =>
    intro s x hsession
    rw [execQuorumSessionExpiry_of_session hsession]
    exact ⟨fun hpassed => if_pos hpassed ▸ rfl, fun hopen => if_neg (Nat.not_le.mpr hopen) ▸ rfl⟩

end Sys2Proof.Machine
end

section
/-!
The tag in the field. Which requests it serves and takes, inventory, its states, and the reads and writes of blocks (O51).
-/
namespace Sys2Proof.Machine

variable {s u v x : State} {q : TagReq}

/-! ## Requests the tag serves and takes (R553, R567) -/

theorem tagHears_of_serves {f : State → State} (h : TagServes s u q) : tagHears s q f = .next (f u) := by
  obtain ⟨hfield, hsub, hlate, herase, rfl⟩ := h
  simp only [tagHears, hfield, hsub, hlate, herase, Bool.not_true, Bool.or_self, Bool.false_eq_true, if_false]

theorem tagFor_of_takes {f : State → State} (h : TagTakes s u q) : tagFor s q f = .next (f u) := by
  obtain ⟨hserves, hmine⟩ := h
  rw [tagFor, tagHears_of_serves hserves, if_pos hmine]

/-! ## Inventory (R560) -/

section

variable {n len mask : Nat} (hloud : s.tag.quiet = false)
include hloud

/-- A tag that is not quiet answers in its slot when the mask fits; a mask for 16 slots leaves four bits for the slot. -/
theorem inventoryAnswer_fits {b : Bool} (hfits : mask % 2 ^ len = n % 2 ^ len) (hroom : b = true → len ≤ 60) :
    inventoryAnswer s n b len mask = tagSay s (.inSlot (if b then n / 2 ^ len % 16 else 0) (0 :: leBytes n 8)) := by
  have hanswers : (s.tag.quiet || (b && decide (60 < len)) || !maskFits n len mask) = false := by
    cases b with
    | false => simp [hloud, maskFits, hfits]
    | true => simp [hloud, maskFits, hfits, hroom]
  rw [inventoryAnswer, hanswers]
  rfl

omit hloud in
theorem inventoryAnswer_other {b : Bool} (hother : mask % 2 ^ len ≠ n % 2 ^ len) : inventoryAnswer s n b len mask = tagSay s .silent := by
  simp only [inventoryAnswer, maskFits, hother, decide_false, Bool.not_false, Bool.or_true, if_true]

end

/-- With privacy off an inventory without an AFI, or with AFI 0x00, is answered by the mask rule on the UID. -/
theorem execInventory_of_serves {b : Bool} {l : Fin 65} {m : BitVec 64} {afi : Option (BitVec 8)} (h : TagServes s u q)
    (hopen : tagPrivacy u = false) (hafi : (afi.map (fun a => a != 0)).getD false = false) :
    execInventory q b l m afi s = .next (inventoryAnswer u (tagUid u) b l.val m.toNat) := by
  rw [execInventory, tagHears_of_serves h, hopen, hafi]
  rfl

/-! ## States (R553) -/

section

variable {n : BitVec 64} (h : TagServes s u q) (huid : q.uid = some n) (hident : tagIdent u = some n.toNat)
include h huid hident

theorem execStayQuiet_addressed (hsel : q.sel = false) :
    execStayQuiet q s = .next (tagSay { u with tag := { u.tag with quiet := true, selected := false } } .silent) := by
  have hmine : tagMine u q = true := by simp only [tagMine, hsel, huid, hident, Bool.false_eq_true, if_false, decide_true]
  simp only [execStayQuiet, tagHears_of_serves h, huid, hmine, hsel, Option.isSome_some, Bool.not_false, Bool.and_self, if_true]

theorem execSelect_addressed : execSelect q s = .next (tagSay { u with tag := { u.tag with selected := true, quiet := false } } (.ok [])) := by
  simp only [execSelect, tagHears_of_serves h, huid, hident, if_true]

end

/-! ## Reads (R557) -/

section

variable {e : Bool} {b n : Nat} {d : Bytes}

theorem tagReadAnswer_refused (h : (List.range n).any (fun i => tagHidden (b + i)) = true ∨ tagRange e b n = true) :
    tagReadAnswer u e b n = tagSay u (.error 0x10) := by
  rw [tagReadAnswer, if_pos (Bool.or_eq_true_iff.mpr h.symm)]

theorem tagReadAnswer_reads (hrange : tagRange e b n = false) (hshown : (List.range n).any (fun i => tagHidden (b + i)) = false)
    (hread : tagReadMany u b n = (d, v)) : tagReadAnswer u e b n = tagSay v (.ok d) := by
  simp only [tagReadAnswer, hrange, hshown, hread, Bool.or_self, Bool.false_eq_true, if_false]

/-! ## Writes (R557, R565–R567) -/

variable {w : TagWr}

theorem tagFieldPut_outside (hrange : tagRange e b n = false) (hlow : b < 1920) : tagFieldPut u e b n d w = tagSay u (.error 0x12) := by
  simp only [tagFieldPut, hrange, hlow, decide_true, Bool.true_or, Bool.false_eq_true, if_false, if_true]

section

variable (hrange : tagRange e b n = false) (hlow : 1920 ≤ b) (hwrite : tagFieldWrite u = true) (hlength : d.length = 32 * n)
  (herase : tagErasing u b = false) (hblank : (List.range n).any (fun i => !tagBlank u (b + i)) = false) (hv : v = tagMeasure u w)
include hrange hlow hwrite hlength herase hblank hv

/-- A write to blank blocks of the owner area comes to the check of the store. -/
theorem tagFieldPut_checks : tagFieldPut u e b n d w = if !tagChecked v w then tagSay (tagWeak v) (.error 0x13) else
    tagWritten (tagLines v w ((List.range n).map (fun i => (b + i, slice d (32 * i) 32))) 0).2 w
      (tagLines v w ((List.range n).map (fun i => (b + i, slice d (32 * i) 32))) 0).1 n := by
  subst hv
  simp only [tagFieldPut, hrange, Nat.not_lt.mpr hlow, decide_false, hwrite, hlength, bne_self_eq_false, herase, hblank, Bool.not_true, Bool.or_self,
    Bool.false_eq_true, if_false]

theorem tagFieldPut_weak (hweak : tagChecked v w = false) : tagFieldPut u e b n d w = tagSay (tagWeak v) (.error 0x13) := by
  rw [tagFieldPut_checks hrange hlow hwrite hlength herase hblank hv, hweak]
  rfl

theorem tagFieldPut_writes {k : Nat} (hgood : tagChecked v w = true)
    (hlines : tagLines v w ((List.range n).map (fun i => (b + i, slice d (32 * i) 32))) 0 = (k, x)) :
    tagFieldPut u e b n d w = tagWritten x w k n := by
  rw [tagFieldPut_checks hrange hlow hwrite hlength herase hblank hv, hgood, hlines]
  rfl

end

end

/-- Settles O51: the field, inventory, the states of the tag, reads, writes and unsupported requests. Which requests a quiet or selected tag takes,
and the UID going out least significant byte first, are the model's choice (log entry 68). -/
theorem tagFieldCommandsComplete : Obligations.TagFieldCommandsComplete := by
  unfold Obligations.TagFieldCommandsComplete
  simp only [exec_fieldAppears, exec_fieldAbsent, exec_inventory, exec_stayQuiet, exec_select, exec_resetToReady, exec_getSystemInformation,
    exec_tagRequestUnsupported, exec_readMultipleBlocks, exec_readSingleBlock, exec_writeMultipleBlocks, exec_writeSingleBlock]
  refine ⟨?appears, ?absent, ?inventory, ?addressed, ?taken, ?reads, ?writes⟩
  case appears =>
    rintro s _ hnone rfl
    rw [execFieldAppears, hnone]
    rfl
  case absent => exact fun s hfield => by rw [execFieldAbsent, if_pos hfield]
  case inventory =>
    intro q l m s u h hopen hloud
    refine ⟨fun hfits => ⟨?_, fun hroom => ?_⟩, fun hother b => ?_⟩
    · rw [execInventory_of_serves h hopen rfl, inventoryAnswer_fits hloud hfits (absurd · Bool.false_ne_true)]
      rfl
    · rw [execInventory_of_serves h hopen rfl, inventoryAnswer_fits hloud hfits fun _ => hroom]
      rfl
    · rw [execInventory_of_serves h hopen rfl, inventoryAnswer_other hother]
  case addressed => exact fun q n s u h huid hsel hident => ⟨execStayQuiet_addressed h huid hident hsel, execSelect_addressed h huid hident⟩
  case taken =>
    intro q s u h
    refine ⟨tagFor_of_takes h, fun e n hident => ?system, fun c m hstandard => ?standard, fun c m hcustom => ?custom⟩
    case system => rw [execGetSystemInformation, tagFor_of_takes h, hident]
    case standard => simp only [execTagRequestUnsupported, tagFor_of_takes h, Nat.not_le.mpr hstandard, decide_false, Bool.false_and,
      Bool.false_eq_true, if_false]
    case custom =>
      rw [execTagRequestUnsupported, tagFor_of_takes h]
      by_cases hmine : m = 0x6C
      · simp [hmine]
      · simp only [hcustom, decide_true, Bool.true_and, bne_iff_ne.mpr hmine, hmine, if_true, if_false]
  case reads =>
    intro q e b n s u v d h
    refine ⟨fun hrefused => ?refused, fun hrange hshown hread => ?many, fun hrange hshown hread => ?single⟩
    case refused => rw [execReadMultipleBlocks, tagFor_of_takes h, tagReadAnswer_refused hrefused]
    case many => rw [execReadMultipleBlocks, tagFor_of_takes h, tagReadAnswer_reads hrange hshown hread]
    case single => rw [execReadSingleBlock, tagFor_of_takes h, tagReadAnswer_reads hrange (by simpa using hshown) hread]
  case writes =>
    intro q e b n d w s u v x k h
    refine ⟨fun hrange hlow => ?outside, fun hrange hlow hwrite hlength herase hblank hv => ⟨fun hweak => ?weak, fun hgood hlines => ?many⟩,
      fun hrange hlow hwrite hlength herase hblank hv hgood hlines => ?single⟩
    case outside => rw [execWriteMultipleBlocks, tagFor_of_takes h, tagFieldPut_outside hrange hlow]
    case weak => rw [execWriteMultipleBlocks, tagFor_of_takes h, tagFieldPut_weak hrange hlow hwrite hlength herase hblank hv hweak]
    case many => rw [execWriteMultipleBlocks, tagFor_of_takes h, tagFieldPut_writes hrange hlow hwrite hlength herase hblank hv hgood hlines]
    case single =>
      rw [execWriteSingleBlock, tagFor_of_takes h,
        tagFieldPut_writes hrange hlow hwrite hlength herase (by simp [hblank]) hv hgood hlines]

end Sys2Proof.Machine
end

section
/-!
The memory of the tag. The custom commands of the field, what Sealed firmware keeps there, and the firmware operations with their end (O52).
-/
namespace Sys2Proof.Machine

variable {s t u v x : State} {q : TagReq} {w : TagWr}

/-! ## Custom commands (R561–R564) -/

theorem tagCustom_mine {f : State → State} : tagCustom s 0x6C f = f s := if_pos rfl

theorem tagCustom_other {m : BitVec 8} {f : State → State} (hother : m ≠ 0x6C) : tagCustom s m f = tagSay s .silent := if_neg hother

section

variable {b n : BitVec 8} (h : TagTakes s u q)
include h

theorem execLedgerSummaryRead_refused (hrange : n.toNat = 0 ∨ 8 < n.toNat ∨ 128 < b.toNat + n.toNat) :
    execLedgerSummaryRead q 0x6C b n s = .next (tagSay u (.error 0x10)) := by
  simp only [execLedgerSummaryRead, tagFor_of_takes h, tagCustom_mine, ← Bool.decide_or, or_assoc, hrange, decide_true, if_true]

/-- The summary is that of the valid half, after the low bytes of its sequence. -/
theorem execLedgerSummaryRead_reads {k seq : Nat} (hsome : 1 ≤ n.toNat) (hfew : n.toNat ≤ 8) (hrange : b.toNat + n.toNat ≤ 128)
    (hvalid : validHalf u = some (k, seq)) : execLedgerSummaryRead q 0x6C b n s = .next (tagSay u (.ok (leBytes seq 4
      ++ (List.range n.toNat).flatMap (fun i => if b.toNat + i = 6 then zeros 32 else tmBlock u (128 * k + b.toNat + i))))) := by
  have hinside : ¬ (n.toNat = 0 ∨ 8 < n.toNat ∨ 128 < b.toNat + n.toNat) := by omega
  simp only [execLedgerSummaryRead, tagFor_of_takes h, tagCustom_mine, ← Bool.decide_or, or_assoc, hinside, decide_false, Bool.false_eq_true,
    if_false, hvalid]

end

section

variable {b : Bool} {l : Fin 65} {m : BitVec 64} (h : TagServes s u q)
include h

theorem execPrivacyInventory_open (hopen : tagPrivacy u = false) :
    execPrivacyInventory q 0x6C b l m w s = .next (inventoryAnswer u (tagUid u) b l.val m.toNat) := by
  simp only [execPrivacyInventory, tagHears_of_serves h, tagCustom_mine, hopen, Bool.not_false, if_true]

variable (hprivate : tagPrivacy u = true)
include hprivate

theorem execPrivacyInventory_quiet (hquiet : u.tag.quiet = true) : execPrivacyInventory q 0x6C b l m w s = .next (tagSay u .silent) := by
  simp only [execPrivacyInventory, tagHears_of_serves h, tagCustom_mine, hprivate, hquiet, Bool.not_true, Bool.false_eq_true, if_false, if_true]

variable {k : Nat} {c : Bytes} (hloud : u.tag.quiet = false)
include hloud

/-- A mask of some length asks for the handle of the round that runs. -/
theorem execPrivacyInventory_round (hmask : l.val ≠ 0) (hround : u.tag.round = some (k, c)) :
    execPrivacyInventory q 0x6C b l m w s = .next (inventoryAnswer u (beNat c) b l.val m.toNat) := by
  simp only [execPrivacyInventory, tagHears_of_serves h, tagCustom_mine, hprivate, hloud, hmask, hround, Option.isNone_some, decide_false,
    Bool.or_self, Bool.not_true, Bool.false_eq_true, if_false]

/-- An empty mask starts a round, whose handle answers. -/
theorem execPrivacyInventory_new_round (hmask : l.val = 0) (hv : v = startRound u w) (hround : v.tag.round = some (k, c)) :
    execPrivacyInventory q 0x6C b l m w s = .next (inventoryAnswer v (beNat c) b l.val m.toNat) := by
  subst hv
  simp only [execPrivacyInventory, tagHears_of_serves h, tagCustom_mine, hprivate, hloud, hmask, hround, decide_true, Bool.true_or, Bool.not_true,
    Bool.false_eq_true, if_false, if_true]

end

section

variable {d : Bytes} (h : TagTakes s u q)
include h

theorem execServiceIntentWrite_malformed (hbad : intentOk d = false) : execServiceIntentWrite q 0x6C d w s = .next (tagSay u (.error 0x02)) := by
  simp only [execServiceIntentWrite, tagFor_of_takes h, tagCustom_mine, hbad, Bool.not_false, if_true]

variable (hok : intentOk d = true)
include hok

theorem execServiceIntentWrite_full (hfull : 64 ≤ intentSlot u) : execServiceIntentWrite q 0x6C d w s = .next (tagSay u (.error 0xA1)) := by
  simp only [execServiceIntentWrite, tagFor_of_takes h, tagCustom_mine, hok, hfull, Bool.not_true, Bool.false_eq_true, if_false, if_true]

variable (hroom : intentSlot u < 64) (herase : tagErasing u 1792 = false)
include hroom herase

theorem execServiceIntentWrite_weak (hweak : tagChecked (tagMeasure u w) w = false) :
    execServiceIntentWrite q 0x6C d w s = .next (tagSay (tagWeak (tagMeasure u w)) (.error 0x13)) := by
  simp only [execServiceIntentWrite, tagFor_of_takes h, tagCustom_mine, hok, Nat.not_le.mpr hroom, herase, hweak, Bool.not_true, Bool.not_false,
    Bool.false_eq_true, if_false, if_true]

/-- An intent and its commit block that both programmed are shown to Sealed firmware. -/
theorem execServiceIntentWrite_writes {k n : Nat} (hk : k = intentSlot u) (hgood : tagChecked (tagMeasure u w) w = true)
    (hlines : tagLines (tagMeasure u w) w [(1792 + 2 * k, d), (1793 + 2 * k, intentCommit k d)] 0 = (n, x)) :
    execServiceIntentWrite q 0x6C d w s
      = .next (tagWritten (if n = 2 && geckoUp x then tagIrq (setF x F.TAG_STATUS_INTENT 1) else x) w n 2) := by
  subst hk
  simp only [execServiceIntentWrite, tagFor_of_takes h, tagCustom_mine, hok, Nat.not_le.mpr hroom, herase, hgood, hlines, Bool.not_true,
    Bool.false_eq_true, if_false]

end

/-! ## Firmware operations (R562, R564, R569) -/

section

variable {f : FlashWr} (hup : geckoUp s = true)
include hup

section

variable (hidle : s.tag.op = none)
include hidle

theorem execIntentRecording_records : execIntentRecording s = .next (recordIntents s) := by
  rw [execIntentRecording, whenGecko_of_up hup, hidle]
  rfl

theorem execHandlePoolRefill_refills (hfew : tagHandles s < 8) (hserves : rngServes s 28 0 = true) :
    execHandlePoolRefill s = .next (refillPool s) := by
  simp only [execHandlePoolRefill, whenGecko_of_up hup, hfew, hserves, hidle, decide_true, Option.isNone_none, Bool.and_self, if_true]

end

theorem execHandlePoolRefill_enough (hmany : 8 ≤ tagHandles s) : execHandlePoolRefill s = .next s := by
  simp only [execHandlePoolRefill, whenGecko_of_up hup, Nat.not_lt.mpr hmany, decide_false, Bool.false_and, Bool.false_eq_true, if_false]

variable (hkey : f.key = 0x5447)
include hkey

theorem tagCmd_busy {g : State → State} (hbusy : s.tag.op.isSome = true) : tagCmd f s g = .next (tagDone s 4 0) := by
  simp only [tagCmd, whenGecko_of_up hup, hkey, bne_self_eq_false, Bool.false_eq_true, if_false, hbusy, if_true]

variable (hidle : s.tag.op = none)
include hidle

theorem tagCmd_keyed {g : State → State} : tagCmd f s g = .next (g s) := by
  simp only [tagCmd, whenGecko_of_up hup, hkey, bne_self_eq_false, Bool.false_eq_true, if_false, hidle, Option.isSome_none]

section

variable {n b a : Nat} (hn : n = getF s F.TAG_ADDR_COUNT) (hb : b = getF s F.TAG_ADDR_BLOCK) (ha : a = getF s F.TAG_SRC_ADDR) (hsome : 1 ≤ n)
  (hfew : n ≤ 8) (hsector : b % 128 + n ≤ 128) (haligned : a % 32 = 0) (hsram : inSram a (32 * n) = true)
include hn hb ha hsome hfew hsector haligned hsram

/-- A write of lines within one sector from aligned SRAM comes to the check of master 8, then to the flash controller. -/
theorem execTagWrite_checks : execTagWrite f s = .next (if !masterOk s 8 0 a (32 * n) then tagDone (recordDenied s 0 8 0 a (32 * n)) 3 0
    else tagFlash s 1 { op := 1, addr := tagAddr b, len := 32 * n, data := geckoBytes s a (32 * n), tag := true, susp := 0 } f.fetch.val) := by
  subst hn hb ha
  simp only [execTagWrite, tagCmd_keyed hup hkey hidle, Nat.ne_of_gt hsome, Nat.not_lt.mpr hfew, Nat.not_lt.mpr hsector, haligned, hsram,
    decide_false, bne_self_eq_false, Bool.not_true, Bool.or_self, Bool.false_eq_true, if_false]

end

theorem execTagErase_flash {b : Nat} (hb : b = getF s F.TAG_ADDR_BLOCK) (hfirst : b % 128 = 0) : execTagErase f s
    = .next (tagFlash s 2 { op := 2, addr := tagAddr b, len := 0, data := [], tag := true, susp := 0 } f.fetch.val) := by
  subst hb
  simp only [execTagErase, tagCmd_keyed hup hkey hidle, hfirst, bne_self_eq_false, Bool.false_eq_true, if_false]

end

section

variable {c k : Nat} {o : FlashOp}

theorem tagFlash_runs (ht : t = flashStart s o 0 k) (hruns : t.flash.run = some o) :
    tagFlash s c o k = setF { t with tag := { t.tag with op := some c } } F.TAG_STATUS_BUSY 1 := by
  subst ht
  exact if_pos hruns

theorem tagFlash_refused (ht : t = flashStart s o 0 k) (hrefused : t.flash.run ≠ some o) :
    tagFlash s c o k = tagDone t 2 (getF t F.FLASHC_RESULT_ERR) := by
  subst ht
  exact if_neg hrefused

end

/-- Settles O52: the custom commands, the handle pool, intents, and the firmware operations with their end. An operation FLASHC refuses ending at
once, and a quiet tag's silence in privacy mode, are the model's choice (log entry 68). -/
theorem tagMemoryCommandsComplete : Obligations.TagMemoryCommandsComplete := by
  unfold Obligations.TagMemoryCommandsComplete
  simp only [exec_ledgerSummaryRead, exec_privacyInventory, exec_serviceIntentWrite, exec_intentRecording, exec_handlePoolRefill, exec_tagWrite,
    exec_tagErase, exec_tagOperationEnd]
  refine ⟨?summary, ?inventory, ?intent, ?keeps, ?write, ?erase, ?busy, ?finish⟩
  case summary =>
    intro q b n s u h
    refine ⟨execLedgerSummaryRead_refused h, fun k seq => execLedgerSummaryRead_reads h, fun m hother => ?_⟩
    rw [execLedgerSummaryRead, tagFor_of_takes h, tagCustom_other hother]
  case inventory =>
    intro q b l m w s u h
    exact ⟨execPrivacyInventory_open h, execPrivacyInventory_quiet h,
      fun k c hprivate hloud => execPrivacyInventory_round h hprivate hloud,
      fun v k c hprivate hloud => execPrivacyInventory_new_round h hprivate hloud⟩
  case intent =>
    rintro q d w s u _ x k n h rfl rfl
    exact ⟨execServiceIntentWrite_malformed h, execServiceIntentWrite_full h, execServiceIntentWrite_weak h,
      fun hok hroom herase => execServiceIntentWrite_writes h hok hroom herase rfl⟩
  case keeps =>
    exact fun s hup hidle => ⟨execIntentRecording_records hup hidle, execHandlePoolRefill_refills hup hidle, execHandlePoolRefill_enough hup⟩
  case write =>
    intro f s t n b a o hup hkey hidle hn hb ha hsome hfew hsector haligned hsram
    rw [execTagWrite_checks hup hkey hidle hn hb ha hsome hfew hsector haligned hsram]
    refine ⟨fun hdenied => ?denied, fun hallowed ho ht => ⟨fun hruns => ?runs, fun hrefused => ?refused⟩⟩
    case denied =>
      rw [hdenied]
      rfl
    case runs =>
      rw [hallowed, ← ho]
      exact congrArg Host.Outcome.next (tagFlash_runs ht hruns)
    case refused =>
      rw [hallowed, ← ho]
      exact congrArg Host.Outcome.next (tagFlash_refused ht hrefused)
  case erase =>
    intro f s t b o hup hkey hidle hb hfirst ho ht hruns
    rw [execTagErase_flash hup hkey hidle hb hfirst, ← ho, tagFlash_runs ht hruns]
  case busy => exact fun f s hup hkey hbusy => ⟨tagCmd_busy hup hkey hbusy, tagCmd_busy hup hkey hbusy⟩
  case finish =>
    rintro e s _ o _ hruns htag rfl rfl
    simp only [execTagOperationEnd, hruns, htag, Bool.not_true, Bool.false_eq_true, if_false]

end Sys2Proof.Machine
end

section
/-!
The sideband bus. Its settling, MCTP packets and control commands, and the SIDEB registers (O53).
-/
namespace Sys2Proof.Machine

variable {s u : State}

/-! ## Settling (R570) -/

theorem execDynamicAddressAssignment_runs {a : BitVec 7} (hruns : sbRuns s = true) : execDynamicAddressAssignment a s
    = .next (if s.sb.settled = 2 then s
      else setF (setF { s with sb := { s.sb with settled := 1 } } F.SIDEB_STATUS_MODE 1) F.SIDEB_STATUS_DYN_ADDR a.toNat) := by
  simp only [execDynamicAddressAssignment, hruns, Bool.not_true, Bool.false_or, decide_eq_true_eq]

theorem execFallbackTimeout_runs (hruns : sealedRuns s = true) : execFallbackTimeout s
    = .next (if s.sb.settled ≠ 0 then s else setF { s with sb := { s.sb with settled := 2 } } F.SIDEB_STATUS_MODE 0) := by
  simp only [execFallbackTimeout, hruns, Bool.not_true, Bool.false_or, bne_iff_ne]

/-! ## Packets (R570, R571) -/

section

variable {p : MctpPkt} (hreach : sbReach s = true)
include hreach

theorem execMctpPacket_refused (h : sbUnit s < p.payload.length ∨ (s.sb.settled = 2 ∧ getF s F.SIDEB_CFG_FALLBACK ≠ 0 ∧ p.pec = false)) :
    execMctpPacket p s = .next (sbDiscard s) := by
  have hrefused : (decide (sbUnit s < p.payload.length) || (sbNeedsPec s && !p.pec)) = true := by
    obtain h | ⟨hsettled, hbus, hpec⟩ := h
    · simp [h]
    · simp [sbNeedsPec, hsettled, hbus, hpec]
  simp only [execMctpPacket, hreach, hrefused, Bool.not_true, Bool.false_eq_true, if_false, if_true]

variable (hunit : p.payload.length ≤ sbUnit s) (hpec : s.sb.settled = 2 → getF s F.SIDEB_CFG_FALLBACK ≠ 0 → p.pec = true)
include hunit hpec

omit hreach in
/-- A packet that fits the unit and has the error code its bus asks for is not refused. -/
theorem packet_fits : (decide (sbUnit s < p.payload.length) || (sbNeedsPec s && !p.pec)) = false := by
  cases hneeds : sbNeedsPec s with
  | false => simp [hunit]
  | true =>
    obtain ⟨hsettled, hbus⟩ : s.sb.settled = 2 ∧ getF s F.SIDEB_CFG_FALLBACK ≠ 0 := by simpa [sbNeedsPec] using hneeds
    simp [hunit, hpec hsettled hbus]

theorem execMctpPacket_starts (hsom : p.som = true) (hfree : s.sb.asm = none) : execMctpPacket p s = .next (sbTake s p p.payload) := by
  simp only [execMctpPacket, hreach, packet_fits hunit hpec, Bool.not_true, hsom, hfree, Option.isSome_none, Bool.false_eq_true, if_false, if_true]

variable (hsom : p.som = false)
include hsom

theorem execMctpPacket_stray (hfree : s.sb.asm = none) : execMctpPacket p s = .next (sbDiscard s) := by
  simp only [execMctpPacket, hreach, packet_fits hunit hpec, Bool.not_true, hsom, hfree, Bool.false_eq_true, if_false]

variable {o : SbMsg} {q : Nat} (hasm : s.sb.asm = some (o, q))
include hasm

theorem execMctpPacket_out_of_sequence (hseq : q ≠ p.seq.val) : execMctpPacket p s = .next (sbDiscard s) := by
  simp only [execMctpPacket, hreach, packet_fits hunit hpec, Bool.not_true, hsom, hasm, hseq, decide_false, Bool.and_false,
    Bool.false_eq_true, if_false]

theorem execMctpPacket_goes_on (heid : o.eid = p.src.toNat) (hown : o.own = p.own) (htag : o.tag = p.tag.val) (hseq : q = p.seq.val) :
    execMctpPacket p s = .next (sbTake s p (o.data ++ p.payload)) := by
  simp only [execMctpPacket, hreach, packet_fits hunit hpec, Bool.not_true, hsom, hasm, heid, hown, htag, hseq, decide_true,
    Bool.and_self, Bool.false_eq_true, if_false, if_true]

end

section

variable {p : MctpPkt} {d : Bytes} {m : SbMsg}

theorem sbTake_long (hlong : 4096 < d.length) : sbTake s p d = sbDiscard s := if_pos hlong

variable (hm : m = { eid := p.src.toNat, own := p.own, tag := p.tag.val, data := d }) (hlength : d.length ≤ 4096)
include hm hlength

theorem sbTake_goes_on (heom : p.eom = false) : sbTake s p d = { s with sb := { s.sb with asm := some (m, (p.seq.val + 1) % 4) } } := by
  subst hm
  simp only [sbTake, Nat.not_lt.mpr hlength, heom, Bool.false_eq_true, if_false]

theorem sbTake_ends (heom : p.eom = true) : sbTake s p d = sbArrived s m := by
  subst hm
  simp only [sbTake, Nat.not_lt.mpr hlength, heom, if_false, if_true]

end

/-! ## Control commands (R571) -/

theorem sbReach_setF_eid {n : Nat} : sbReach (setF s F.SIDEB_STATUS_EID n) = sbReach s := by
  have hpower : getF (setF s F.SIDEB_STATUS_EID n) (F.PWRARB_DOMSTATE_ON (63 / 32)) = getF s (F.PWRARB_DOMSTATE_ON (63 / 32)) :=
    getF_setF_ne s n (by decide)
  simp only [sbReach, sbRuns, domainOn, hpower]
  rfl

section

variable {i : BitVec 5} (hreach : sbReach s = true)
include hreach

theorem sbControl_reaches {c e : Nat} {d : Bytes} :
    sbControl s i c e d = .next (sbSay s ([0, BitVec.ofNat 8 i.toNat, BitVec.ofNat 8 c, BitVec.ofNat 8 e] ++ d)) := by
  rw [sbControl, if_pos hreach]
  rfl

theorem execSetEndpointId_sets {o : BitVec 2} {e : BitVec 8} (hop : o.toNat < 2) (hnull : e ≠ 0) (hall : e ≠ 0xFF) :
    execSetEndpointId i o e s = .next (sbSay (setF s F.SIDEB_STATUS_EID e.toNat) [0, BitVec.ofNat 8 i.toNat, 1, 0, 0, e, 0]) := by
  have hreached : sbReach (setF s F.SIDEB_STATUS_EID e.toNat) = true := by rw [sbReach_setF_eid, hreach]
  simp only [execSetEndpointId, hop, bne_iff_ne.mpr hnull, bne_iff_ne.mpr hall, decide_true, Bool.and_self, if_true, hreach,
    sbControl_reaches hreached]
  rfl

theorem execSetEndpointId_invalid {o : BitVec 2} {e : BitVec 8} (h : 2 ≤ o.toNat ∨ e = 0 ∨ e = 0xFF) :
    execSetEndpointId i o e s = .next (sbSay s [0, BitVec.ofNat 8 i.toNat, 1, 2]) := by
  have hinvalid : (decide (o.toNat < 2) && e != 0 && e != 0xFF) = false := by
    obtain h | rfl | rfl := h
    · simp [Nat.not_lt.mpr h]
    · simp
    · simp
  rw [execSetEndpointId, hinvalid, if_neg Bool.false_ne_true, sbControl_reaches hreach]
  rfl

section

variable {t : BitVec 8}

theorem execGetMctpVersionSupport_control (h : t = 0 ∨ t = 0xFF) :
    execGetMctpVersionSupport i t s = .next (sbSay s [0, BitVec.ofNat 8 i.toNat, 4, 0, 1, 0xF1, 0xF3, 0xFF, 0]) := by
  simp only [execGetMctpVersionSupport, ← Bool.decide_or, h.symm, decide_true, if_true, sbControl_reaches hreach]
  rfl

variable (hbase : t ≠ 0) (hall : t ≠ 0xFF)
include hbase hall

theorem execGetMctpVersionSupport_unsupported (hother : t ∉ sbTypes s) :
    execGetMctpVersionSupport i t s = .next (sbSay s [0, BitVec.ofNat 8 i.toNat, 4, 0x80]) := by
  simp only [execGetMctpVersionSupport, hbase, hall, List.contains_eq_mem, hother, decide_false, Bool.or_self, Bool.false_eq_true, if_false,
    sbControl_reaches hreach]
  rfl

/-- The version entry of a supported type is a free value. -/
theorem execGetMctpVersionSupport_supported {v : Bytes} (hsupported : t ∈ sbTypes s) (hdraw : drawBytes s 4 = (v, u)) :
    execGetMctpVersionSupport i t s = .next (sbSay u ([0, BitVec.ofNat 8 i.toNat, 4, 0, 1] ++ v)) := by
  have hreached : sbReach (drawBytes s 4).2 = true := hreach
  rw [hdraw] at hreached
  simp only [execGetMctpVersionSupport, hbase, hall, List.contains_eq_mem, hsupported, decide_false, decide_true, Bool.or_self, Bool.false_eq_true,
    if_false, if_true, hreach, hdraw, sbControl_reaches hreached]
  rfl

end

theorem execGetMessageTypeSupport_sealed (hruns : sealedRuns s = true) :
    execGetMessageTypeSupport i s = .next (sbSay s [0, BitVec.ofNat 8 i.toNat, 5, 0, 4, 0, 5, 6, 0x7E]) := by
  rw [execGetMessageTypeSupport, sbControl_reaches hreach, sbTypes, hruns]
  rfl

theorem execGetMessageTypeSupport_recovery (hruns : sealedRuns s = false) :
    execGetMessageTypeSupport i s = .next (sbSay s [0, BitVec.ofNat 8 i.toNat, 5, 0, 2, 0, 0x7E]) := by
  rw [execGetMessageTypeSupport, sbControl_reaches hreach, sbTypes, hruns]
  rfl

end

/-! ## Registers (R571) -/

section

variable (hup : geckoUp s = true)
include hup

theorem execSidebTxdataWrite_pushes {v : W32} (hroom : s.sb.tx.length ≤ 4092) :
    execSidebTxdataWrite v s = .next { s with sb := { s.sb with tx := s.sb.tx ++ leBytes v.toNat 4 } } := by
  rw [execSidebTxdataWrite, whenGecko_of_up hup, if_neg (by omega)]

theorem execSidebRxdataRead_empty (hnone : s.sb.rx = []) : execSidebRxdataRead s = .next (setF s F.SIDEB_RXDATA_BYTES 0) := by
  simp only [execSidebRxdataRead, whenGecko_of_up hup, hnone]

section

variable {m : SbMsg} {l : List SbMsg} (hrx : s.sb.rx = m :: l) (hu : u = setF s F.SIDEB_RXDATA_BYTES (leAt m.data 0 4))
include hrx hu

theorem execSidebRxdataRead_pops (hmore : 4 < m.data.length) :
    execSidebRxdataRead s = .next { u with sb := { u.sb with rx := { m with data := m.data.drop 4 } :: l } } := by
  subst hu
  have hleft : (m.data.drop 4).isEmpty = false := by simpa using hmore
  simp only [execSidebRxdataRead, whenGecko_of_up hup, hrx, hleft, Bool.false_eq_true, if_false]

theorem execSidebRxdataRead_last (hlast : m.data.length ≤ 4) :
    execSidebRxdataRead s = .next (sbShow { u with sb := { u.sb with rx := l } }) := by
  subst hu
  have hnone : (m.data.drop 4).isEmpty = true := by simpa using hlast
  simp only [execSidebRxdataRead, whenGecko_of_up hup, hrx, hnone, if_true]

end

section

variable {v : W32} {n : Nat} (hn : n = F.SIDEB_TXCTRL_LEN.ofWord v.toNat)
  (hu : u = setF (setF (setF (setF s F.SIDEB_TXCTRL_LEN n) F.SIDEB_TXCTRL_EID (F.SIDEB_TXCTRL_EID.ofWord v.toNat)) F.SIDEB_TXCTRL_TO
    (F.SIDEB_TXCTRL_TO.ofWord v.toNat)) F.SIDEB_TXCTRL_TAG (F.SIDEB_TXCTRL_TAG.ofWord v.toNat))
include hn hu

theorem execSidebSend_without_go (hgo : v.getLsbD 31 = false) : execSidebSend v s = .next u := by
  subst hn hu
  simp only [execSidebSend, whenGecko_of_up hup, hgo, Bool.false_and, Bool.false_eq_true, if_false]

theorem execSidebSend_sends (hgo : v.getLsbD 31 = true) (hreach : sbReach s = true) (hsome : 1 ≤ n) (hlength : n ≤ 4096)
    (hpushed : n ≤ s.sb.tx.length) : execSidebSend v s = .next (sbSend u v.toNat) := by
  subst hn hu
  simp only [execSidebSend, whenGecko_of_up hup, hgo, hreach, hsome, hlength, hpushed, decide_true, Bool.and_self, if_true]

end

end

/-- Settles O53: the bus settles, packets assemble, control commands are answered, and the registers push, send and pop. An over-long packet or a
missing error code counted as discarded, and the free version entries, are the model's choice (log entry 69); so is the UUID (log entry 39). -/
theorem sidebandBusCommandsComplete : Obligations.SidebandBusCommandsComplete := by
  unfold Obligations.SidebandBusCommandsComplete
  simp only [exec_dynamicAddressAssignment, exec_fallbackTimeout, exec_mctpPacket, exec_setEndpointId, exec_getEndpointId, exec_getEndpointUuid,
    exec_getMctpVersionSupport, exec_getMessageTypeSupport, exec_getVendorDefinedMessageSupport, exec_sidebTxdataWrite, exec_sidebRxdataRead,
    exec_sidebSend]
  refine ⟨?dynamic, ?fallback, ?packet, ?control, ?registers⟩
  case dynamic =>
    intro a s hruns
    rw [execDynamicAddressAssignment_runs hruns]
    exact ⟨fun hopen => by rw [if_neg hopen], fun hfallback => by rw [if_pos hfallback]⟩
  case fallback =>
    intro s hruns
    rw [execFallbackTimeout_runs hruns]
    exact ⟨fun hopen => by rw [if_neg (not_not.mpr hopen)], fun hsettled => by rw [if_pos hsettled]⟩
  case packet =>
    intro p s hreach
    refine ⟨execMctpPacket_refused hreach, fun hunit hpec hlength hsom hfree m hm => ?starts,
      fun hunit hpec hsom => ⟨execMctpPacket_stray hreach hunit hpec hsom, fun o m q hasm hm =>
        ⟨execMctpPacket_out_of_sequence hreach hunit hpec hsom hasm, fun heid hown htag hseq => ?goesOn⟩⟩⟩
    case starts =>
      rw [execMctpPacket_starts hreach hunit hpec hsom hfree]
      exact ⟨fun heom => by rw [sbTake_goes_on hm hlength heom], fun heom => by rw [sbTake_ends hm hlength heom]⟩
    case goesOn =>
      have hdata : m.data = o.data ++ p.payload := congrArg SbMsg.data hm
      rw [execMctpPacket_goes_on hreach hunit hpec hsom hasm heid hown htag hseq, hdata]
      exact ⟨fun hlong => by rw [sbTake_long hlong], fun hlength heom => by rw [sbTake_goes_on hm hlength heom],
        fun hlength heom => by rw [sbTake_ends hm hlength heom]⟩
  case control =>
    intro i s hreach
    refine ⟨fun o e => execSetEndpointId_sets hreach, fun o e => execSetEndpointId_invalid hreach, sbControl_reaches hreach,
      sbControl_reaches hreach, fun t => execGetMctpVersionSupport_control hreach, fun t => execGetMctpVersionSupport_unsupported hreach,
      fun t v u hbase hall => execGetMctpVersionSupport_supported hreach hbase hall, execGetMessageTypeSupport_sealed hreach,
      execGetMessageTypeSupport_recovery hreach, sbControl_reaches hreach, fun x hother => ?_⟩
    rw [execGetVendorDefinedMessageSupport, if_neg hother]
    exact sbControl_reaches hreach
  case registers =>
    intro v s hup
    exact ⟨execSidebTxdataWrite_pushes hup, execSidebRxdataRead_empty hup,
      fun m l u hrx hu => ⟨execSidebRxdataRead_pops hup hrx hu, execSidebRxdataRead_last hup hrx hu⟩,
      fun n u hn hu => ⟨execSidebSend_without_go hup hn hu, execSidebSend_sends hup hn hu⟩⟩

end Sys2Proof.Machine
end

section
/-!
The management requests of the sideband. When a request is served, not accepted or malformed, and what each leaves (O54).
-/
namespace Sys2Proof.Machine

variable {s u v : State} {m : Bytes}

/-! ## Serving a request (R572) -/

section

variable {k n : Nat} {lenOk accepted : Bool} {go : State → Bytes → State}

/-- What does not reach the L9 as a request of the code does nothing to it. -/
theorem sbServe_other (h : sbReach s = false ∨ sbIsRequest m = false ∨ byteAt m 3 ≠ k) : sbServe s k m lenOk accepted go = .next s := by
  have hother : (!sbReach s || !sbIsRequest m || byteAt m 3 != k) = true := by
    obtain h | h | h := h <;> simp [h]
  rw [sbServe, if_pos hother]

section

variable (hreach : sbReach s = true) (hrequest : sbIsRequest m = true) (hcode : byteAt m 3 = k)
include hreach hrequest hcode

/-- A request of the code is answered, by whether the state accepts it and by its form. -/
theorem sbServe_request : sbServe s k m lenOk accepted go = .next (
    if !accepted then sbAnswer s k sbNOT_NOW []
    else if !allZero m 4 4 || !lenOk then sbAnswer s k sbBAD_FORMAT []
    else go s (sbBody m)) := by
  simp only [sbServe, hreach, hrequest, hcode, Bool.not_true, bne_self_eq_false, Bool.or_self, Bool.false_eq_true, if_false]

theorem sbServe_not_now (hnot : accepted = false) : sbServe s k m lenOk accepted go = .next (sbAnswer s k sbNOT_NOW []) := by
  rw [sbServe_request hreach hrequest hcode, hnot]
  rfl

theorem sbServe_reserved (hreserved : allZero m 4 4 = false) : sbServe s k m lenOk accepted go = .next (sbAnswer s k sbNOT_NOW [])
    ∨ sbServe s k m lenOk accepted go = .next (sbAnswer s k sbBAD_FORMAT []) := by
  rw [sbServe_request hreach hrequest hcode, hreserved]
  cases accepted with
  | false => exact .inl rfl
  | true => exact .inr rfl

end

theorem sbServe_of_served (h : SbServed s m k n) (hlen : lenOk = true) (haccepted : accepted = true) :
    sbServe s k m lenOk accepted go = .next (go s (sbBody m)) := by
  obtain ⟨hreach, hrequest, hcode, hzero, _⟩ := h
  rw [sbServe_request hreach hrequest hcode, hlen, haccepted, hzero]
  rfl

theorem sbLen_of_served (h : SbServed s m k n) : sbLen m n = true := by
  obtain ⟨_, _, _, _, hlength⟩ := h
  exact decide_eq_true hlength

theorem length_of_served {l : Nat} (h : SbServed s m k n) (hlong : l ≤ 8 + n) : decide (l ≤ m.length) = true := by
  obtain ⟨_, _, _, _, hlength⟩ := h
  exact decide_eq_true (hlength ▸ hlong)

/-- A request whose body has the one length its row asks for. -/
theorem sbServe_of_len (h : SbServed s m k n) (haccepted : accepted = true) :
    sbServe s k m (sbLen m n) accepted go = .next (go s (sbBody m)) := sbServe_of_served h (sbLen_of_served h) haccepted

end

/-- A command is the serving of a request; but for STATUS and RECOVERY_WRITE the state accepts it only while Sealed firmware runs. -/
def ServesCode (s : State) (k : Nat) (m : Bytes) (r : Res) : Prop :=
  ∃ lenOk accepted go, r = sbServe s k m lenOk accepted go ∧ (accepted = true → k = 1 ∨ k = 4 ∨ sealedRuns s = true)

theorem ServesCode.sealed {k : Nat} {lenOk accepted : Bool} {go : State → Bytes → State} (h : accepted = true → sealedRuns s = true) :
    ServesCode s k m (sbServe s k m lenOk accepted go) := ⟨_, _, _, rfl, fun hacc => .inr (.inr (h hacc))⟩

theorem servesCode_of_request {k : Nat} {a : Bool} {c : Instr} (h : SbRequest k m a c) : ServesCode s k m (exec c s) := by
  simp only [SbRequest, List.mem_cons, Prod.mk.injEq, List.not_mem_nil, or_false] at h
  obtain ⟨rfl, rfl⟩ | ⟨rfl, rfl⟩ | ⟨rfl, rfl⟩ | ⟨rfl, rfl⟩ | ⟨rfl, rfl⟩ | ⟨rfl, rfl⟩ | ⟨rfl, rfl⟩ | ⟨rfl, rfl⟩ | ⟨rfl, rfl⟩ | ⟨rfl, rfl⟩ | ⟨rfl, rfl⟩
    | ⟨rfl, rfl⟩ | ⟨rfl, rfl⟩ | ⟨rfl, rfl⟩ | ⟨rfl, rfl⟩ | ⟨rfl, rfl⟩ := h
  · exact ⟨_, _, _, exec_status s m, fun _ => .inl rfl⟩
  · exact exec_sbLedgerRead s m ▸ ServesCode.sealed id
  · exact exec_eventRead s m ▸ ServesCode.sealed id
  · exact ⟨_, _, _, exec_recoveryWrite s m, fun _ => .inr (.inl rfl)⟩
  · exact exec_imageStage s m ▸ ServesCode.sealed Bool.and_elim_left
  · exact exec_imageCommit s m ▸ ServesCode.sealed Bool.and_elim_left
  · exact exec_remeasure s m ▸ ServesCode.sealed fun h => Bool.and_elim_left (Bool.and_elim_left (Bool.and_elim_left h))
  · exact exec_sbHostFlashAuth s m a ▸ ServesCode.sealed id
  · exact exec_sbLifecycle s m a ▸ ServesCode.sealed id
  · exact exec_quorumCancel s m ▸ ServesCode.sealed id
  · exact exec_sbUnlock s m ▸ ServesCode.sealed fun h => Bool.and_elim_left (Bool.and_elim_left h)
  · exact exec_csetReplace s m ▸ ServesCode.sealed Bool.and_elim_left
  · exact exec_cardErase s m ▸ ServesCode.sealed Bool.and_elim_left
  · exact exec_tagOwnerErase s m ▸ ServesCode.sealed id
  · rw [exec_linkTest, execLinkTest]
    exact ServesCode.sealed fun h => Bool.and_elim_left (Bool.and_elim_left h)
  · exact exec_linkResult s m ▸ ServesCode.sealed id

/-! ## Quorum (R539, R541) -/

/-- An approved session for the request is consumed and the request goes on. -/
theorem sbQuorum_approved {k op : Nat} {b : Bytes} {go : State → State} (h : SbApproved s k b) : sbQuorum s k op b go = go (cancelSession s) := by
  obtain ⟨c, x, hset, hsession, hdigest, happroved⟩ := h
  simp only [sbQuorum, quorumNeed, hset, hsession, hdigest, happroved, if_true]

/-! ## Images, authorisation, lifecycle (R87, R313, R574) -/

section

variable {a : Bool} {r : Nat} (h : SbServed s m 8 320) (hruns : sealedRuns s = true) (hauth : applyAuth s (sbBody m) a = (r, u))
include h hruns hauth

theorem execSbHostFlashAuth_accepts (hnone : r = 0) : execSbHostFlashAuth m a s = .next (sbAnswer u 8 sbOK []) := by
  subst hnone
  rw [execSbHostFlashAuth, sbServe_of_len h hruns, hauth]
  rfl

theorem execSbHostFlashAuth_refuses (hsome : r ≠ 0) : execSbHostFlashAuth m a s = .next (sbAnswer u 8 sbVERIFY_FAILED (leBytes r 1)) := by
  rw [execSbHostFlashAuth, sbServe_of_len h hruns, hauth]
  split
  · next hpair => exact absurd (congrArg Prod.fst hpair) hsome
  · next hpair =>
    cases hpair
    rfl

end

section

variable {b : Bytes} {a : Bool} (hreserved : allZero b 1 3 = true) (hfree : s.led.act = none) (hmay : transitionOk s (byteAt b 0) = true)
  (htarget : byteAt b 0 ≤ 4) (hlength : lifeLenOk s (byteAt b 0) (b.drop 4).length = true)
include hreserved hfree hmay htarget hlength

/-- A transition the state has, asked for in the right form, comes to its quorum. -/
theorem sbLifecycle_checks : sbLifecycle s b a =
    if transitionQuorum s (byteAt b 0) = 0 then sbTransition s (byteAt b 0) 0 (b.drop 4) a
    else sbQuorum s 9 (transitionQuorum s (byteAt b 0)) b (fun t => sbTransition t (byteAt b 0) (quorumBits s) (b.drop 4) a) := by
  simp only [sbLifecycle, hreserved, hfree, hmay, hlength, Nat.not_lt.mpr htarget, Option.isSome_none, decide_false, Bool.not_true, Bool.or_self,
    Bool.false_eq_true, if_false]

end

/-! ## Owner requests (R575) -/

theorem sdh_drbgRequest (i : Nat) : (drbgRequest s i).sdh = s.sdh := by
  unfold drbgRequest
  split
  · rfl
  · dsimp only
    split <;> split <;> rfl

/-- The noise source leaves the card host alone. -/
theorem sdh_drbgBytes (i n : Nat) : (drbgBytes s i n).2.sdh = s.sdh := by
  unfold drbgBytes
  split
  · rfl
  · exact sdh_drbgRequest i

section

variable {k : Nat} {b r : Bytes} {go : State → State} (hdraw : drbgBytes s 28 32 = (b, u))
include hdraw

/-- A fresh nonce follows an owner request, accepted or refused. -/
theorem ownerRequest_accepts (hnone : ownerReason s k r = 0) : ownerRequest s k r go = go { u with sb := { u.sb with nonce := b } } := by
  simp only [ownerRequest, hdraw, hnone, if_true]

theorem ownerRequest_refuses (hsome : ownerReason s k r ≠ 0) :
    ownerRequest s k r go = sbAnswer { u with sb := { u.sb with nonce := b } } k sbVERIFY_FAILED (leBytes (ownerReason s k r) 1) := by
  simp only [ownerRequest, hdraw, hsome, if_false]

theorem cmd_of_drbgBytes (hidle : s.sdh.cmd = none) : u.sdh.cmd = none := by
  rw [← hidle, ← sdh_drbgBytes (s := s) 28 32, hdraw]

end

/-! ## Link tests (R573, R577) -/

section

variable {a : Bool} (h : SbServed s m 15 8) (hruns : sealedRuns s = true) (hon : domainOn s 79 = true)
include h hruns hon

section

variable (hfree : s.test = none) (hstop : (leAt (sbBody m) 0 4).testBit 30 = false)
include hfree hstop

theorem execLinkTest_starts (hgo : (leAt (sbBody m) 0 4).testBit 31 = true) (herr : testErr s false (leAt (sbBody m) 0 4) a = 0)
    (hu : u = setF s F.TEST_USER_PATTERN (leAt (sbBody m) 4 4)) (hv : v = testStart u false (leAt (sbBody m) 0 4) a) :
    execLinkTest m a s = .next (sbAnswer v 15 sbOK (leBytes (readReg v Blk.TEST 4) 4)) := by
  subst hu hv
  rw [execLinkTest, sbServe_of_len h (by simp [hruns, hon, herr])]
  simp only [hfree, hstop, hgo, Option.isSome_none, Bool.false_eq_true, if_false, if_true]

theorem execLinkTest_settings (hgo : (leAt (sbBody m) 0 4).testBit 31 = false)
    (hv : v = testCtrl (setF s F.TEST_USER_PATTERN (leAt (sbBody m) 4 4)) false (leAt (sbBody m) 0 4)) :
    execLinkTest m a s = .next (sbAnswer v 15 sbOK (leBytes (readReg v Blk.TEST 4) 4)) := by
  subst hv
  rw [execLinkTest, sbServe_of_len h (by simp [hruns, hon, hgo])]
  simp only [hfree, hstop, hgo, Option.isSome_none, Bool.false_eq_true, if_false]

end

/-- STOP ends the running test with what its checker has counted. -/
theorem execLinkTest_stops {t : TestRun} {p q : State} {n k : Nat} (htest : s.test = some t) (hgecko : t.land = false)
    (hstop : (leAt (sbBody m) 0 4).testBit 30 = true) (hbits : draw s 64 = (n, p)) (herrs : draw p 31 = (k, q))
    (hv : v = testEnds (testCounts q false (BitVec.ofNat 64 n) k) t 0) :
    execLinkTest m a s = .next (sbAnswer v 15 sbOK (leBytes (readReg v Blk.TEST 4) 4)) := by
  subst hv
  rw [execLinkTest, sbServe_of_len h (by simp [hruns, hon, hstop])]
  simp only [htest, hgecko, hstop, hbits, herrs, Option.isSome_some, Bool.false_eq_true, if_false, if_true]

end

/-- Settles O54: the sixteen management requests. REMEASURE setting RESET_SEEN without counting RESETS, and when a nonce is drawn again, are the
model's choice (log entry 69). -/
theorem managementRequestsComplete : Obligations.ManagementRequestsComplete := by
  unfold Obligations.ManagementRequestsComplete
  refine ⟨?common, ?status, ?requests, ?recovery, ?lifecycle, ?quorum, ?owner, ?link⟩
  case common =>
    intro k m a c s hrequest
    obtain ⟨lenOk, accepted, go, hserves, hsealed⟩ := servesCode_of_request (s := s) hrequest
    rw [hserves]
    refine ⟨sbServe_other, fun hreach hmine hcode hruns hstatus hrecovery => sbServe_not_now hreach hmine hcode ?_, sbServe_reserved⟩
    refine Bool.eq_false_iff.mpr fun haccepted => ?_
    obtain hk | hk | hk := hsealed haccepted
    · exact hstatus hk
    · exact hrecovery hk
    · exact Bool.eq_false_iff.mp hruns hk
  case status =>
    intro m s h
    rw [exec_status, execStatus, sbServe_of_len h rfl]
    exact ⟨fun hruns => by rw [if_pos hruns], fun hruns => by rw [if_neg (Bool.eq_false_iff.mp hruns)]⟩
  case requests =>
    intro m s hruns
    simp only [exec_sbLedgerRead, exec_eventRead, exec_imageStage, exec_imageCommit, exec_remeasure, exec_sbHostFlashAuth, exec_quorumCancel]
    refine ⟨fun h hfirst => ?ledger, (sbServe_of_len · hruns), fun n h hlong hstage => sbServe_of_served h (length_of_served h (by omega)) hstage,
      fun h hstage => sbServe_of_len h hstage, fun h hheld => sbServe_of_len h hheld,
      fun a r u h hauth => ⟨execSbHostFlashAuth_accepts h hruns hauth, execSbHostFlashAuth_refuses h hruns hauth⟩, (sbServe_of_len · hruns)⟩
    case ledger => rw [execSbLedgerRead, sbServe_of_len h hruns, if_neg (Nat.not_lt.mpr hfirst)]
  case recovery =>
    intro m s n hphase h hlong
    rw [exec_recoveryWrite]
    exact sbServe_of_served h (length_of_served h (by omega)) (decide_eq_true hphase)
  case lifecycle =>
    intro m s n a hruns h hlong hreserved hfree hmay htarget hlength
    rw [exec_sbLifecycle, execSbLifecycle, sbServe_of_served h (length_of_served h (by omega)) hruns,
      sbLifecycle_checks hreserved hfree hmay htarget hlength]
    exact ⟨fun hnone => by rw [if_pos hnone], fun hsome happroved => by rw [if_neg hsome, sbQuorum_approved happroved]⟩
  case quorum =>
    intro m s hruns
    refine ⟨fun h hlocked hdone happroved => ?unlock, fun n h hset hlife happroved => ?replace⟩
    case unlock => rw [exec_sbUnlock, execSbUnlock, sbServe_of_len h (by simp [hruns, hlocked, hdone]), sbQuorum_approved happroved]
    case replace =>
      rw [exec_csetReplace, execCsetReplace, sbServe_of_served h hset (by simp [hruns, hlife]), sbQuorum_approved happroved]
      rfl
  case owner =>
    intro m b s u hruns hdraw
    refine ⟨fun h hforeign => ?card, fun h => ?tag⟩
    case card =>
      rw [exec_cardErase, execCardErase, sbServe_of_len h (by simp [hruns, hforeign])]
      refine ⟨fun hnone hidle => ?_, fun hsome => by rw [ownerRequest_refuses hdraw hsome]⟩
      simp only [ownerRequest_accepts hdraw hnone, cmd_of_drbgBytes hdraw hidle, Option.isSome_none, Bool.false_eq_true, if_false]
    case tag =>
      rw [exec_tagOwnerErase, execTagOwnerErase, sbServe_of_len h hruns]
      exact ⟨fun hnone => by rw [ownerRequest_accepts hdraw hnone], fun hsome => by rw [ownerRequest_refuses hdraw hsome]⟩
  case link =>
    intro m s u v a hruns
    simp only [exec_linkTest, exec_linkResult]
    exact ⟨fun h hon => execLinkTest_starts h hruns hon, fun h hon => execLinkTest_settings h hruns hon,
      fun t p q n k h hon => execLinkTest_stops h hruns hon, (sbServe_of_len · hruns)⟩

end Sys2Proof.Machine
end

section
/-!
Pattern tests and debug. Tests start, stop and end; the test access port, the token and the halt (O55).
-/
namespace Sys2Proof.Machine

variable {s : State}

/-! ## Pattern tests (R577, R578) -/

section

variable {l a : Bool} {w e : Nat}

theorem testStart_runs (h : testErr s l w a = 0) : testStart s l w a = testRuns s l w := by
  simp only [testStart, h]

theorem testStart_busy (h : testErr s l w a = 2) : testStart s l w a = testDone s l 2 := by
  simp only [testStart, h]

/-- A test that is not allowed keeps its settings and ends with its ERR. -/
theorem testStart_refused (hsome : testErr s l w a ≠ 0) (hfree : testErr s l w a ≠ 2) :
    testStart s l w a = testDone (testCtrl s l w) l (testErr s l w a) := by
  unfold testStart
  split
  · next h => exact absurd h hsome
  · next h => exact absurd h hfree
  · rfl

end

theorem execPatternTestStart_up {l a : Bool} {v : W32} (hup : (if l then landauUp s else geckoUp s && domainOn s 79) = true) :
    execPatternTestStart l v a s = .next (if v.getLsbD 31 then testStart s l v.toNat a else testCtrl s l v.toNat) := by
  rw [execPatternTestStart, if_pos hup]

section

variable {b : W64} {e : BitVec 31} {t : TestRun} (htest : s.test = some t)
include htest

theorem execPatternTestStop_of_test {l : Bool} : execPatternTestStop l b e s
    = .next (if t.land = l then testEnds (testCounts s l b e.toNat) t 0 else s) := by
  simp only [execPatternTestStop, htest]

theorem execPatternTestEnd_of_test : execPatternTestEnd b e s
    = .next (if testSeconds s t.land = 0 then s else testEnds (testCounts s t.land b e.toNat) t 0) := by
  simp only [execPatternTestEnd, htest]

end

/-! ## The test access port (R579, R582) -/

section

variable (hup : tapUp s = true)
include hup

/-- An instruction that needs the SCAN scope is BYPASS without it, and trips T11 where nothing may be unlocked. -/
theorem tapScan_up {i : TapInsn} : tapScan s i = .next (
    if debugTrips s then tamperTrip (tapSet s (if (scopesOpen s).testBit 3 then i else .bypass) 0) 11
    else tapSet s (if (scopesOpen s).testBit 3 then i else .bypass) 0) := by
  simp only [tapScan, hup, Bool.not_true, Bool.false_eq_true, if_false]

/-- What a scan instruction leaves, by its scope and by the trip. -/
theorem tapScan_cases {i : TapInsn} :
    (debugTrips s = false → (scopesOpen s).testBit 3 = true → tapScan s i = .next (tapSet s i 0))
    ∧ (debugTrips s = false → (scopesOpen s).testBit 3 = false → tapScan s i = .next (tapSet s .bypass 0))
    ∧ (debugTrips s = true → tapScan s i = .next (tamperTrip (tapSet s (if (scopesOpen s).testBit 3 then i else .bypass) 0) 11)) := by
  rw [tapScan_up hup]
  refine ⟨fun hquiet hscope => ?_, fun hquiet hscope => ?_, fun htrips => if_pos htrips ▸ rfl⟩
  · rw [hquiet, hscope]
    rfl
  · rw [hquiet, hscope]
    rfl

/-- Where nothing may be unlocked the mailbox trips T11 and acts as BYPASS. -/
theorem execDbgmbox_trips {a : MboxAcc} (htrips : debugTrips s = true) : execDbgmbox a s = .next (tamperTrip (tapSet s .bypass 0) 11) := by
  simp only [execDbgmbox, hup, htrips, Bool.not_true, Bool.false_eq_true, if_false, if_true]

theorem execSubmit_up : execSubmit s = .next (if debugTrips s then tamperTrip s 11
    else raise (setF (setF s F.DEBUG_CTRL_SUBMIT 1) F.DEBUG_STATUS_PENDING 1) 23) := by
  simp only [execSubmit, hup, Bool.not_true, Bool.false_eq_true, if_false]

theorem execDbgmbox_readNonce {n : Fin 8} (hquiet : debugTrips s = false) :
    execDbgmbox (.readNonce n) s = .next (tapSet s .dbgmbox (BitVec.ofNat 32 (getF s (F.DEBUG_NONCE_VALUE n.val)))) := by
  simp only [execDbgmbox, hup, hquiet, Bool.not_true, Bool.false_eq_true, if_false]

theorem execDbgmbox_writeToken {n : Fin 80} {v : W32} (hquiet : debugTrips s = false) :
    execDbgmbox (.writeToken n v) s = .next (setF (tapSet s .dbgmbox v) (F.DEBUG_TOKEN_VALUE n.val) v.toNat) := by
  simp only [execDbgmbox, hup, hquiet, Bool.not_true, Bool.false_eq_true, if_false]

/-- A halt takes the scopes of the core that are open. -/
theorem execDebugHalt_halts {c : Fin 2} {o : Nat} (ho : scopesOpen s = o) (hscope : o % 4 ≠ 0)
    (hruns : coreRuns s (if c.val = 0 then .a else .b) = true) :
    execDebugHalt c s = .next { s with dbg := { s.dbg with halted := mapPut s.dbg.halted c.val (o % 4) } } := by
  subst ho
  simp only [execDebugHalt, hup, hscope, hruns, decide_false, Bool.not_true, Bool.or_self, Bool.false_eq_true, if_false]

end

/-! ## The token (R580–R582) -/

section

variable {v : W32}

section

variable (hserved : debugServed s = true) (hkey : F.DEBUG_CTRL_KEY.ofWord v.toNat = 0x4442) (hpending : isSet s F.DEBUG_STATUS_PENDING = true)
include hserved hkey hpending

theorem execGrant_opens (hok : tokenOk s = true) : execGrant v s = .next (tokenEnds (setF s F.DEBUG_STATUS_OPEN
    (getF s F.DEBUG_STATUS_OPEN ||| (F.DEBUG_CTRL_GRANT.ofWord v.toNat &&& leAt (tokenBytes s) 4 4 &&& scopeMask s)))) := by
  simp only [execGrant, hserved, hkey, hpending, hok, Bool.not_true, bne_self_eq_false, Bool.or_self, Bool.false_eq_true, if_false]

theorem execRefuse_counts (hrefuse : v.getLsbD 8 = true) :
    execRefuse v s = .next (tokenEnds (bump s F.DEBUG_STATUS_FAILS F.DEBUG_STATUS_SAT)) := by
  simp only [execRefuse, hserved, hkey, hpending, hrefuse, Bool.not_true, bne_self_eq_false, Bool.or_self, Bool.false_eq_true, if_false]

end

section

variable (hkey : F.DEBUG_CTRL_KEY.ofWord v.toNat ≠ 0x4442)
include hkey

theorem execGrant_other_key : execGrant v s = .next s := by
  simp only [execGrant, bne_iff_ne.mpr hkey, Bool.or_true, Bool.true_or, if_true]

theorem execRefuse_other_key : execRefuse v s = .next s := by
  simp only [execRefuse, bne_iff_ne.mpr hkey, Bool.or_true, Bool.true_or, if_true]

end

end

/-- Settles O55: pattern tests, the instructions of the test access port, the token and the halt. DBGMBOX without the SCAN scope, a grant that needs
a verified token, and scan instructions only being put in force are the model's choice (log entry 70). -/
theorem patternTestsAndDebugComplete : Obligations.PatternTestsAndDebugComplete := by
  unfold Obligations.PatternTestsAndDebugComplete
  simp only [exec_patternTestStart, exec_patternTestStop, exec_patternTestEnd, exec_idcode, exec_bypass, List.forall_mem_cons, exec_samplePreload,
    exec_extest, exec_extestPulse, exec_extestTrain, exec_highz, exec_dbgmbox, exec_submit, exec_debugHalt, exec_grant, exec_refuse]
  refine ⟨?start, ?ends, ?port, ?token, fun v s hkey => ⟨execGrant_other_key hkey, execRefuse_other_key hkey⟩⟩
  case start =>
    intro l a v s hup
    rw [execPatternTestStart_up hup]
    refine ⟨fun hsettings => ?settings, fun hgo h => ?runs, fun hgo h => ?busy, fun hgo hsome hfree => ?refused⟩
    case settings =>
      rw [hsettings]
      rfl
    case runs => rw [if_pos hgo, testStart_runs h]
    case busy => rw [if_pos hgo, testStart_busy h]
    case refused => rw [if_pos hgo, testStart_refused hsome hfree]
  case ends =>
    intro b e s t htest
    rw [execPatternTestStop_of_test htest, execPatternTestStop_of_test htest, execPatternTestEnd_of_test htest, if_pos rfl,
      if_neg (by simp)]
    exact ⟨rfl, rfl, fun hlimit => by rw [if_neg hlimit], fun hnone => by rw [if_pos hnone]⟩
  case port =>
    intro s hup
    refine ⟨by rw [execIdcode, if_pos hup], by rw [execBypass, if_pos hup], ?scan, fun hquiet => ?mailbox, fun htrips => ?trips,
      fun c o => execDebugHalt_halts hup⟩
    case scan =>
      exact ⟨tapScan_cases hup, tapScan_cases hup, tapScan_cases hup, tapScan_cases hup, tapScan_cases hup,
        fun _ h => absurd h List.not_mem_nil⟩
    case mailbox =>
      refine ⟨fun n => execDbgmbox_readNonce hup hquiet, fun n v => execDbgmbox_writeToken hup hquiet, ?_⟩
      rw [execSubmit_up hup, hquiet]
      rfl
    case trips => exact ⟨fun a => execDbgmbox_trips hup htrips, by rw [execSubmit_up hup, if_pos htrips]⟩
  case token =>
    exact fun v s hserved hkey hpending => ⟨execGrant_opens hserved hkey hpending, execRefuse_counts hserved hkey hpending⟩

end Sys2Proof.Machine
end
